-- ==== Sys2Proof/Word.lean ====
section
/-! DEFINITION. Sys2Proof/Word.lean: the widths of the Dratrum D16 (01_machine.md, 02_lines.md R44) and the names of
its four sequencers (R12). -/

namespace Sys2Proof

/-- A g register, an address, a CSR (R44). -/
abbrev Word := BitVec 64

/-- A vector register: 1,024 bits on this part (R44). -/
abbrev Vec := BitVec 1024

/-- A predicate: one bit per vector byte (R44). -/
abbrev Pred := BitVec 128

/-- A logical clock or stamp of 48 bits (R176). -/
abbrev Clk := BitVec 48

/-- One byte. -/
abbrev Byte := BitVec 8

/-- A nib of the module, by bits [15:0] of its nib number (R17). -/
abbrev NibId := Fin 65536

/-- The four sequencers of a stroke (R12). -/
inductive Seq where
  | s | a | x | w
deriving DecidableEq, Repr

/-- The place of a sequencer in the order S, A, X, W; also its code in `tseq` (R310). -/
def Seq.idx : Seq → Fin 4
  | .s => 0
  | .a => 1
  | .x => 2
  | .w => 3

/-- The sequencer of a code (R310). -/
def Seq.ofIdx (i : Fin 4) : Seq :=
  match i.val with
  | 0 => .s
  | 1 => .a
  | 2 => .x
  | _ => .w

/-- A READY-task count that a nib kernel reports to its neighbour in direction `dir`, N 0, E 1, S 2, W 3 (R355). -/
structure LoadReport where
  dir : Fin 4
  count : Nat
deriving DecidableEq, Repr

/-- An event of the nib kernel's queue: nib n exchanges tasks with its neighbours, a neighbour's report reaches it (R355), or
an id of its ready queue has come free for a task that waits (R387). -/
inductive LoadEvent where
  | exchange (n : NibId)
  | report (n : NibId) (r : LoadReport)
  | refill (n : NibId)
deriving DecidableEq, Repr

/-- Who brings an event: the operation `id` in flight here, or another module. -/
inductive Source (α : Type) where
  | own (id : Nat)
  | peer (x : α)
deriving DecidableEq, Repr

/-- What a message of the guest names, and the clock that the message carries (R362). -/
structure Stamped (α : Type) where
  val : α
  clk : Clk
deriving DecidableEq, Repr

/-- A write of the host: 2^n bytes (R384). -/
structure HostStore where
  n : Fin 4
  x : Word
deriving DecidableEq, Repr

/-- A quill access that another module makes here through a fabric window (R282): the issuing module and virtual function,
the virtual function named here, the access, and the command's clock. -/
structure PeerAccess where
  modn : BitVec 16
  vf : BitVec 5
  pvf : BitVec 5
  write : Bool
  pa : BitVec 48
  size : Fin 65
  data : BitVec 512
  clk : Clk
deriving DecidableEq, Repr

/-- A barrier arrival of another module of the fabric domain (R19, R300): that module's number, the partition here, the barrier
id, the eight lanes that an `xsum` contributes, and the arriving stroke's clock. -/
structure PeerArrival where
  modn : BitVec 16
  part : Fin 16
  bar : Fin 64
  sum : BitVec 512
  clk : Clk
deriving DecidableEq, Repr

end Sys2Proof
end

