-- ==== Sys2Proof/Syntax.lean ====
section
/-! DEFINITION. Sys2Proof/Syntax.lean: the instructions of Crilin as abstract syntax, one constructor for each row of
spec/opcode_table.json. A row with an encoding has one argument for each field of its word, under the table's field
name; a row without an encoding (a device event or a command packet) has the arguments that say where and on what
the event acts: the nib `n`, the stroke `k`, the partition `p`, the virtual function `v`, the queue `q`, or the
identity `id` of the operation in flight that it completes, and what it brings with it. The events and packets stand first: the order of the
constructors means nothing. -/

namespace Sys2Proof

/-- One constructor per row of spec/opcode_table.json. -/
inductive Instr where
  /-- RESULT_LANDING (R56). A fixed-latency result is written to its register at the start of turn t+n. -/
  | resultLanding (n : NibId) (k : Fin 8)
  /-- HANDOFF_EFFECT (R132). A pending sinc, sadd or sset takes effect on its seal once earlier fixed-latency results of its sequencer have landed. -/
  | handoffEffect (n : NibId) (k : Fin 8)
  /-- LATE_WRITE_LANDING (R63). A late-write or handoff record lands at its remaining count after resumption. -/
  | lateWriteLanding (n : NibId) (k : Fin 8)
  /-- TAKE_INTERRUPT (R312). A pending enabled interrupt is taken at the end of a turn. -/
  | takeInterrupt (n : NibId) (k : Fin 8)
  /-- DELIVERED_CAUSE (R244). A MOPFAULT, MCHECK, BARTMO or sweep fault that fell due is taken on the stroke. -/
  | deliveredCause (n : NibId) (k : Fin 8)
  /-- TASK_END (R135). A stroke whose sequencers have all stopped ends its task once nothing is pending. -/
  | taskEnd (n : NibId) (k : Fin 8)
  /-- WAKE_ACCEPT (R21). A nib kernel accepts a launch wake and places its tasks in strokes and the ready queue. -/
  | wakeAccept (n : NibId) (id : Nat)
  /-- LONG_ACCESS_COMPLETE (R143). A long-form access is performed and its data, pending bit and seal post land together. -/
  | longAccessComplete (id : Nat)
  /-- HOME_READ (R180). A read is performed at a cell home, extending its lease. -/
  | homeRead (id : Nat)
  /-- HOME_WRITE (R181). A store or atomic is performed at a cell home after every outstanding lease. -/
  | homeWrite (id : Nat)
  /-- TLB_FILL (R148). A translation fetched after an L1 TLB miss arrives and the waiting access is attempted again. -/
  | tlbFill (n : NibId) (id : Nat)
  /-- PARK_RESUME (R149). A parked access can proceed and its stroke re-enters the rotation. -/
  | parkResume (n : NibId) (k : Fin 8)
  /-- WAITER_TABLE_JOIN (R155). A held synchronising request joins the waiter table when an entry frees. -/
  | waiterTableJoin (n : NibId)
  /-- BLOCK_FILL_COMPLETE (R159). Every line of a block fill is written; the entry becomes ready and its seal posts. -/
  | blockFillComplete (id : Nat)
  /-- BLOCK_DRAIN_COMPLETE (R160). A block drain has written back; its seal posts and the entry becomes empty. -/
  | blockDrainComplete (id : Nat)
  /-- INVAL (R169). A write to INVAL starts a translation invalidation unless BUSY. -/
  | inval (p : Fin 16) (x : BitVec 64)
  /-- INVALIDATION_COMPLETE (R169). Every access using removed entries is performed and BUSY clears. -/
  | invalidationComplete (p : Fin 16)
  /-- FAULT_RECORD (R172). A fault record reaches the partition fault buffer and is merged, appended or dropped. -/
  | faultRecord (p : Fin 16) (va : BitVec 64) (n : BitVec 32) (asid : BitVec 16) (kind : BitVec 8)
  /-- CLOCK_FLOOR (R176). The partition forms its floor and raises every lower clock and stamp to it. -/
  | clockFloor (p : Fin 16)
  /-- LC_TICK (R189). Each sequencer clock rises by 1 every 64th turn of its stroke. -/
  | lcTick (n : NibId) (k : Fin 8)
  /-- PCTL (R190). A write to a publish entry control register, enabling with checks and resetting SEL. -/
  | pctl (p : Fin 16) (e : Fin 16) (x : BitVec 64)
  /-- HOST_ACCESS (R194). A host access to device memory is performed at the home by the host agent. -/
  | hostAccess (v : Fin 17) (w : Bool) (va : BitVec 64) (x : BitVec 64)
  /-- SFU_SERVICE (R212). The special-function unit begins serving the next FIFO request. -/
  | sfuService (n : NibId)
  /-- SFU_RESULT (R212). An SFU result is ready and lands with its seal post at the issuing stroke turn. -/
  | sfuResult (id : Nat)
  /-- MATRIX_DISPATCH (R236). The matrix command queue head is dispatched when its conditions are met. -/
  | matrixDispatch (n : NibId)
  /-- SLAB_END (R221). A slab of 32 steps ends and the next slab or an emit follows. -/
  | slabEnd (n : NibId)
  /-- MATRIX_ROW_WRITE (R233). A row image of an emit is written to its destination, with any serif decrement. -/
  | matrixRowWrite (id : Nat)
  /-- MATRIX_POST (R236). A matrix command posts its seal after its last access is performed. -/
  | matrixPost (id : Nat)
  /-- WEIGHT_LOAD_COMPLETE (R237). A weight image has been read and checked; the bank becomes valid and the seal posts. -/
  | weightLoadComplete (n : NibId)
  /-- GROUP_FILL_WAIT (R240). A noted grouped-run group starts once its fill seal reaches its threshold. -/
  | groupFillWait (n : NibId)
  /-- CHAIN_PANEL_ARRIVAL (R242). An A panel arrives on the ruled plane for a chained command. -/
  | chainPanelArrival (n : NibId) (dir : Fin 4) (id : Nat)
  /-- MFAULT_ABORT (R245). Writing ABORT abandons the stopped matrix command and posts its seal. -/
  | mfaultAbort (n : NibId) (k : Fin 8)
  /-- SELECT_SERVICE (R260). The select unit begins serving the next queued request. -/
  | selectService (n : NibId)
  /-- SELECT_POST (R260). A select request ends service and posts its seal. -/
  | selectPost (id : Nat)
  /-- LANDING_DECREMENT (R265). A landing decrement is performed on a serif, waking it at zero. -/
  | landingDecrement (n : NibId) (x : BitVec 64) (src : NibId)
  /-- BRUSH_READ (R272). The brush reads a skip word and takes the next window beyond the cursor. -/
  | brushRead (n : NibId) (k : Fin 8)
  /-- BRUSH_LOAD (R272). The brush loads a taken window of serifs and clears its skip bit. -/
  | brushLoad (n : NibId) (k : Fin 8)
  /-- STEP_BLOCK_START (R273). The brush writes the block registers and starts a step block on the members. -/
  | stepBlockStart (n : NibId) (k : Fin 8)
  /-- WRITE_BACK (R274). A step block write-back stores v15 to the serifs and applies recorded accesses. -/
  | writeBack (n : NibId) (k : Fin 8)
  /-- COPY_COMPLETE (R281). A quill command has performed every access or failed, writes STATUS and posts. -/
  | copyComplete (id : Nat)
  /-- REMOTE_ACCESS (R282). A quill remote access is performed at the peer module home. -/
  | remoteAccess (x : Source PeerAccess)
  /-- PERMIT_REQUEST (R290). The receiving exchange engine decides a permit request and may write a pad record. -/
  | permitRequest (id : Nat)
  /-- PERMIT_ANSWER (R291). A permit answer writes the permit block and posts the seal. -/
  | permitAnswer (id : Nat)
  /-- SEND_COMPLETE (R292). An xsend or cancel completes its record, writes STATUS and posts. -/
  | sendComplete (id : Nat)
  /-- MESSAGE_DELIVERY (R294). A message reaches a mailbox or task, delivered or refused. -/
  | messageDelivery (id : Nat)
  /-- MESSAGE_STATUS (R294). The answer to a msg lands its status in g[d] and posts its seal. -/
  | messageStatus (id : Nat)
  /-- FOLIO_LOSS (R386). A module declares a folio failed and stops it. -/
  | folioLoss (f : Fin 16)
  /-- MODULE_LOSS (R386). The fabric declares a module lost. -/
  | moduleLoss (x : BitVec 16)
  /-- LOSS_NOTICE (R296). An exchange engine acts on a loss notice, making lost landings and failing permits and messages. -/
  | lossNotice (n : NibId) (x : BitVec 32)
  /-- BARRIER_ARRIVAL (R300). An arrival reaches the barrier logic and counts toward its generation. -/
  | barrierArrival (x : Source PeerArrival)
  /-- BARRIER_WAIT (R301). A wait reaches the barrier logic and is decided against the generation. -/
  | barrierWait (id : Nat)
  /-- RELEASE_DELIVERY (R300). A barrier release or sum record reaches a waiter and posts its seal. -/
  | releaseDelivery (id : Nat)
  /-- BARRIER_WATCHDOG (R302). The watchdog period expires and the generation is abandoned with BARTMO. -/
  | barrierWatchdog (p : Fin 16) (i : Fin 64) (inst : Nat)
  /-- BARCFG (R301). A write to BARCFG resets every instance of the id and releases held waits. -/
  | barcfg (p : Fin 16) (i : Fin 64) (x : BitVec 64)
  /-- SWAP_STOP (R321). A swapped stroke stops at the end of its turn and its context moves to the cache entry. -/
  | swapStop (n : NibId) (k : Fin 8)
  /-- SWAP_RESUME (R321). A stroke restored by ctxsw begins to issue 168 cycles after the swap. -/
  | swapResume (n : NibId) (k : Fin 8)
  /-- CTXCFG (R320). A write to ctxcfg enables or disables the context cache while no entry is valid. -/
  | ctxcfg (n : NibId) (x : BitVec 64)
  /-- TIMER_FIRE (R327). An armed compare at or below TURN sets FIRED and disarms. -/
  | timerFire (n : NibId) (k : Fin 8)
  /-- NKSIG (R328). Writing SIG raises the kernel software interrupt of stroke 7. -/
  | nksig (n : NibId) (x : BitVec 64)
  /-- LOAD_BALANCE (R355). Every 4,096 turns nib kernels exchange counts and move never-run tasks. -/
  | loadBalance (x : LoadEvent)
  /-- DEBUG_STOP (R332). A stroke enters a debug stop at the end of a turn. -/
  | debugStop (n : NibId) (k : Fin 8)
  /-- DCTL_STOP (R333). Writing STOP stops a running stroke with reason HOST. -/
  | dctlStop (n : NibId) (k : Fin 8)
  /-- DCTL_RESUME (R334). Writing RESUME resumes a stopped stroke. -/
  | dctlResume (n : NibId) (k : Fin 8)
  /-- DCTL_STEP (R334). Writing STEP resumes a stopped stroke for one turn. -/
  | dctlStep (n : NibId) (k : Fin 8)
  /-- DCTL_DRUN (R334). Writing DRUN runs the debug routine in mode D. -/
  | dctlDrun (n : NibId) (k : Fin 8)
  /-- GROUP_STOP (R335). The cross-trigger stops every running member of a halt group. -/
  | groupStop (n : NibId) (k : Fin 8)
  /-- GRPRES (R335). A write to GRPRES resumes every stopped member of a halt group. -/
  | grpres (p : Fin 16) (g : Fin 16)
  /-- HISTOGRAM_BIN (R341). Writing a ready histogram bin clears it. -/
  | histogramBin (n : NibId) (b : Fin 9)
  /-- TRACE_SAMPLE (R342). A sample record is written every 2^SPER turns of a stroke with an open gate. -/
  | traceSample (n : NibId) (k : Fin 8)
  /-- TBASE (R342). A write to TBASE sets the trace position to 0. -/
  | tbase (p : Fin 16) (x : BitVec 64)
  /-- TSIZE (R342). A write to TSIZE sets the trace position to 0. -/
  | tsize (p : Fin 16) (x : BitVec 64)
  /-- RPLCTL (R344). A write starts a replay of a capture on queue 0. -/
  | rplctl (v : Fin 17) (x : BitVec 64)
  /-- HOSTSIG (R345). A write raises the partition/host interrupt on stroke 7 of a nib or every nib. -/
  | hostsig (v : Fin 17) (x : BitVec 64)
  /-- QCTL (R346). A write of EN enables a queue, clearing QSTAT and restarting at HEAD. -/
  | qctl (v : Fin 17) (q : Fin 64) (x : BitVec 64)
  /-- QTAIL (R347). A write to QTAIL offers ring packets to the front end. -/
  | qtail (v : Fin 17) (q : Fin 64) (x : BitVec 64)
  /-- LAUNCH_REGISTER (R347). A 64-byte write offers an inline packet and MORE ring packets. -/
  | launchRegister (v : Fin 17) (q : Fin 64) (pkt : BitVec 512)
  /-- LAUNCH (R351). Checks a launch packet, reads its record and floods the wake. -/
  | launch (id : Nat)
  /-- LAUNCH_COMPLETE (R350). Every task of a launch has ended; its DONE word is written. -/
  | launchComplete (id : Nat)
  /-- COPY (R356). Host-agent copy packet. -/
  | copy (id : Nat)
  /-- WAITMEM (R356). Packet that waits until a memory word meets a condition. -/
  | waitmem (id : Nat)
  /-- WAITMEM_POLL (R356). Every 256 cycles a WAITMEM rereads its word. -/
  | waitmemPoll (id : Nat)
  /-- SIGNALMEM (R356). Packet performing one indivisible write or add. -/
  | signalmem (id : Nat)
  /-- COND (R356). Packet that skips the next packets when its condition is false. -/
  | cond (id : Nat)
  /-- LOOP (R356). Packet that repeats the preceding body slots while its condition holds. -/
  | loop (id : Nat)
  /-- CAPSTART (R343). Opens a queue capture into a capture area. -/
  | capstart (id : Nat)
  /-- CAPSTOP (R356). Closes a queue capture and writes its size. -/
  | capstop (id : Nat)
  /-- REPLAYALL (R174). Empties the fault buffer and coalescing tables and retries every parked access. -/
  | replayall (id : Nat)
  /-- FENCE (R350). Packet completing once every earlier packet has completed. -/
  | fence (id : Nat)
  /-- NOP_PACKET (R350). Packet that completes at once. -/
  | nopPacket (id : Nat)
  /-- PART_CREATE (R358). Privileged packet creating or destroying a partition. -/
  | partCreate (id : Nat)
  /-- RESIZE (R359). Privileged packet moving a folio between partitions. -/
  | resize (id : Nat)
  /-- ERT_WRITE (R358). Privileged packet writing an expert residency table entry. -/
  | ertWrite (id : Nat)
  /-- SNAPSHOT (R358). Privileged packet appending a memory region to a queue capture. -/
  | snapshot (id : Nat)
  /-- TOKEN_BUCKET_REFILL (R360). Every 1,024 cycles a partition token bucket gains RATE bytes. -/
  | tokenBucketRefill (p : Fin 16)
  /-- BONCTL_EN (R363). A write of EN enables or disables the bonnet link. -/
  | bonctlEn (x : BitVec 64)
  /-- BONCTL_FENCE (R368). Writing FENCE fences the guest. -/
  | bonctlFence
  /-- LINK_TRAINING (R361). The bonnet link trains and the guest identity is read. -/
  | linkTraining (ok : Bool) (rate : BitVec 8) (mods : BitVec 4)
  /-- LINK_FAILURE (R368). The bonnet link fails and cannot retrain, fencing the guest. -/
  | linkFailure
  /-- GUEST_COMPLETION (R366). A guest completion writes STATUS and posts the issuing seal. -/
  | guestCompletion (id : Nat) (status : BitVec 32) (clk : BitVec 48)
  /-- PORT_REFUSAL (R366). The port completes a packet with NOGUEST. -/
  | portRefusal (id : Nat)
  /-- COHERENT_READ (R193). A guest coherent read is performed at the home. -/
  | coherentRead (id : Nat) (va : BitVec 64) (clk : BitVec 48)
  /-- COHERENT_WRITE (R193). A guest coherent write is performed at the home. -/
  | coherentWrite (id : Nat) (va : BitVec 64) (x : BitVec 64) (clk : BitVec 48)
  /-- COHERENT_ATOMIC (R193). A guest coherent atomic is performed at the home. -/
  | coherentAtomic (id : Nat) (va : BitVec 64) (op : Fin 16) (x : BitVec 64) (y : BitVec 64) (clk : BitVec 48)
  /-- TRANSLATION_REQUEST (R367). The translation service walks the partition tables for the guest. -/
  | translationRequest (id : Nat) (va : Stamped Word)
  /-- INVALIDATION_ACK (R367). The guest acknowledges an invalidation. -/
  | invalidationAck (p : Stamped (Fin 16))
  /-- GUEST_FAULT_RECORD (R367). The guest sends a fault record to the fault buffer. -/
  | guestFaultRecord (id : Nat) (va : Stamped Word)
  /-- PREEMPT_ACK (R367). The guest acknowledges a PREEMPT with its saved byte count. -/
  | preemptAck (v : Fin 17) (x : Stamped Word)
  /-- GUEST_DEADLINE (R367). A guest duty deadline passes. -/
  | guestDeadline (c : Fin 8)
  /-- FENCED_COMPLETION (R368). An outstanding guest packet completes with FENCED. -/
  | fencedCompletion (id : Nat)
  /-- THERMAL_CAP (R369). A die reaching 115 C caps the matrix clock at its lowest step. -/
  | thermalCap (d : Fin 32)
  /-- THERMAL_CAP_RELEASE (R369). A capped die falling below 105 C releases the cap. -/
  | thermalCapRelease (d : Fin 32)
  /-- THERMAL_RESET (R369). A die reaching 125 C asserts a module reset. -/
  | thermalReset (d : Fin 32)
  /-- POWER_MEASUREMENT (R371). Every 65,536 cycles the power manager measures and sets the matrix clock step. -/
  | powerMeasurement
  /-- MODULE_RESET (R373). Module reset runs the boot ROM sequence. -/
  | moduleReset
  /-- ATTEST (R374). A nonce written to the ATTEST mailbox returns a signed report. -/
  | attest (x : BitVec 256)
  /-- RECOVERY_CONTROL (R375). A write verifies the recovery image, writes flash and resets. -/
  | recoveryControl (x : BitVec 64)
  /-- REGISTER_WRITE (R5). A write to a register with no behaviour of its own, acting field by field. -/
  | registerWrite (v : Fin 17) (off : BitVec 28) (x : HostStore)
  /-- ILLEGAL_ON_DECODE (R47). A sequencer reaches a word whose major, function code or selector is unassigned or reserved and traps ILLEGAL. -/
  | illegalOnDecode (w : BitVec 32)
  /-- CACHE_COPY_DROP (R180). A nib's data cache drops its leased copy of a cell, so the next read goes to the home. -/
  | cacheCopyDrop (n : NibId) (c : Nat)
  /-- TURN_CLASS_COUNT (R340). In each turn of a stroke whose gate is open, the turn is classed and ISSUED, NRMEM or NRMSG rises. -/
  | turnClassCount (n : NibId) (k : Fin 8)
  /-- READY_HISTOGRAM_COUNT (R341). In every cycle while a gate of the nib is open, the ready histogram bin for the count of issuing strokes rises by 1. -/
  | readyHistogramCount (n : NibId)
  /-- LINK_POWER_STATE (R361). The bonnet link moves between the Active and L1 power states. -/
  | linkPowerState (l1 : Bool)
  /-- DLY (R58). Makes its sequencer issue nothing for n turns after it. -/
  | dly (n : BitVec 16)
  /-- NOP (R58). Occupies one issue turn with no other effect. -/
  | nop
  /-- WAITS (R131). Waits until the seal count reaches the threshold g[a] plus imm, then takes the seal clock. -/
  | waits (s : Fin 16) (a : Fin 32) (i : BitVec 16)
  /-- SINC (R131). Handoff adding 1 to a seal count at the handoff turn. -/
  | sinc (s : Fin 16)
  /-- SADD (R131). Handoff adding g[a][15:0] to a seal count. -/
  | sadd (s : Fin 16) (a : Fin 32)
  /-- SSET (R131). Handoff setting a seal count, trapping SEALBUSY when PEND is not zero. -/
  | sset (s : Fin 16) (a : Fin 32)
  /-- SREAD (R131). Reads a seal COUNT into g[d]. -/
  | sread (d : Fin 32) (s : Fin 16)
  /-- SPEND (R131). Reads a seal PEND into g[d]. -/
  | spend (d : Fin 32) (s : Fin 16)
  /-- J (R119). Unconditional PC-relative jump. -/
  | j (x : BitVec 24)
  /-- JAL (R119). PC-relative jump linking into g1. -/
  | jal (x : BitVec 24)
  /-- JR (R119). Jump to the address in g[a]. -/
  | jr (a : Fin 32)
  /-- JALR (R119). Jump to g[a] linking into g[d]. -/
  | jalr (d : Fin 32) (a : Fin 32)
  /-- JTAB (R123). Jumps through a well jump table entry when the index is below len, else falls through. -/
  | jtab (i : Fin 32) (a : Fin 32) (l : BitVec 16)
  /-- BQ (R126). Pops the sequencer outcome queue and branches when the bit is 1. -/
  | bq (h : Fin 4) (x : BitVec 24)
  /-- BPUSH (R125). Pushes whether g[a] is non-zero onto an outcome queue. -/
  | bpush (a : Fin 32) (q : Fin 4)
  /-- BPUSH_P (R125). X-only form pushing whether a predicate has any bit set. -/
  | bpushP (a : Fin 8) (q : Fin 4)
  /-- BEQ (R120). Branches when g[a] equals g[b]. -/
  | beq (a : Fin 32) (b : Fin 32) (h : Fin 4) (x : BitVec 14)
  /-- BNE (R120). Branches when g[a] differs from g[b]. -/
  | bne (a : Fin 32) (b : Fin 32) (h : Fin 4) (x : BitVec 14)
  /-- BLT (R120). Branches when g[a] is less than g[b], signed. -/
  | blt (a : Fin 32) (b : Fin 32) (h : Fin 4) (x : BitVec 14)
  /-- BGE (R120). Branches when g[a] is at least g[b], signed. -/
  | bge (a : Fin 32) (b : Fin 32) (h : Fin 4) (x : BitVec 14)
  /-- BLTN (R120). Branches when g[a] is less than g[b], unsigned. -/
  | bltn (a : Fin 32) (b : Fin 32) (h : Fin 4) (x : BitVec 14)
  /-- BGEN (R120). Branches when g[a] is at least g[b], unsigned. -/
  | bgen (a : Fin 32) (b : Fin 32) (h : Fin 4) (x : BitVec 14)
  /-- SSTOP (R134). Ends the sequencer in the task or its part of a step block. -/
  | sstop
  /-- SJOIN (R134). Waits for S to start a sweep and takes part in its step blocks. -/
  | sjoin
  /-- ADD (R98). g[d] := g[a] + g[b] modulo 2^64. -/
  | add (d : Fin 32) (a : Fin 32) (b : Fin 32)
  /-- SUB (R98). g[d] := g[a] - g[b] modulo 2^64. -/
  | sub (d : Fin 32) (a : Fin 32) (b : Fin 32)
  /-- MUL (R98). Low 64 bits of the signed product. -/
  | mul (d : Fin 32) (a : Fin 32) (b : Fin 32)
  /-- MULH (R98). High 64 bits of the signed 128-bit product. -/
  | mulh (d : Fin 32) (a : Fin 32) (b : Fin 32)
  /-- MULHN (R98). High 64 bits of the unsigned 128-bit product. -/
  | mulhn (d : Fin 32) (a : Fin 32) (b : Fin 32)
  /-- DIV (R100). Signed quotient toward zero with the fixed results of R70. -/
  | div (d : Fin 32) (a : Fin 32) (b : Fin 32)
  /-- DIVN (R100). Unsigned quotient with the fixed results of R70. -/
  | divn (d : Fin 32) (a : Fin 32) (b : Fin 32)
  /-- REM (R100). Signed remainder with the fixed results of R70. -/
  | rem (d : Fin 32) (a : Fin 32) (b : Fin 32)
  /-- REMN (R100). Unsigned remainder with the fixed results of R70. -/
  | remn (d : Fin 32) (a : Fin 32) (b : Fin 32)
  /-- AND (R98). Bitwise AND of g[a] and g[b]. -/
  | and (d : Fin 32) (a : Fin 32) (b : Fin 32)
  /-- OR (R98). Bitwise OR of g[a] and g[b]. -/
  | or (d : Fin 32) (a : Fin 32) (b : Fin 32)
  /-- XOR (R98). Bitwise XOR of g[a] and g[b]. -/
  | xor (d : Fin 32) (a : Fin 32) (b : Fin 32)
  /-- SHL (R98). Left shift by g[b][5:0]. -/
  | shl (d : Fin 32) (a : Fin 32) (b : Fin 32)
  /-- SHR (R98). Logical right shift by g[b][5:0]. -/
  | shr (d : Fin 32) (a : Fin 32) (b : Fin 32)
  /-- SRA (R98). Arithmetic right shift by g[b][5:0]. -/
  | sra (d : Fin 32) (a : Fin 32) (b : Fin 32)
  /-- SLT (R98). 1 when g[a] is less than g[b] signed, else 0. -/
  | slt (d : Fin 32) (a : Fin 32) (b : Fin 32)
  /-- SLTN (R98). 1 when g[a] is less than g[b] unsigned, else 0. -/
  | sltn (d : Fin 32) (a : Fin 32) (b : Fin 32)
  /-- MIN (R98). Signed minimum. -/
  | min (d : Fin 32) (a : Fin 32) (b : Fin 32)
  /-- MAX (R98). Signed maximum. -/
  | max (d : Fin 32) (a : Fin 32) (b : Fin 32)
  /-- MINN (R98). Unsigned minimum. -/
  | minn (d : Fin 32) (a : Fin 32) (b : Fin 32)
  /-- MAXN (R98). Unsigned maximum. -/
  | maxn (d : Fin 32) (a : Fin 32) (b : Fin 32)
  /-- SEL (R98). Selects g[a] when g[d] is non-zero, else g[b]. -/
  | sel (d : Fin 32) (a : Fin 32) (b : Fin 32)
  /-- CLZ (R99). Counts leading zero bits. -/
  | clz (d : Fin 32) (a : Fin 32)
  /-- CTZ (R99). Counts trailing zero bits. -/
  | ctz (d : Fin 32) (a : Fin 32)
  /-- POPC (R99). Counts one bits. -/
  | popc (d : Fin 32) (a : Fin 32)
  /-- REV (R99). Reverses the 64 bits. -/
  | rev (d : Fin 32) (a : Fin 32)
  /-- BSWAP (R99). Reverses the 8 bytes. -/
  | bswap (d : Fin 32) (a : Fin 32)
  /-- SEXT_B (R99). Sign-extends the low byte. -/
  | sextB (d : Fin 32) (a : Fin 32)
  /-- SEXT_H (R99). Sign-extends the low 16 bits. -/
  | sextH (d : Fin 32) (a : Fin 32)
  /-- SEXT_W (R99). Sign-extends the low 32 bits. -/
  | sextW (d : Fin 32) (a : Fin 32)
  /-- ZEXT_W (R99). Zero-extends the low 32 bits. -/
  | zextW (d : Fin 32) (a : Fin 32)
  /-- ADDI (R102). Adds a sign-extended 16-bit immediate. -/
  | addi (d : Fin 32) (a : Fin 32) (i : BitVec 16)
  /-- ANDI (R102). ANDs a zero-extended immediate. -/
  | andi (d : Fin 32) (a : Fin 32) (i : BitVec 16)
  /-- ORI (R102). ORs a zero-extended immediate. -/
  | ori (d : Fin 32) (a : Fin 32) (i : BitVec 16)
  /-- XORI (R102). XORs a zero-extended immediate. -/
  | xori (d : Fin 32) (a : Fin 32) (i : BitVec 16)
  /-- SLTI (R102). 1 when g[a] is less than a signed immediate. -/
  | slti (d : Fin 32) (a : Fin 32) (i : BitVec 16)
  /-- SHLI (R103). Left shift by an immediate count. -/
  | shli (d : Fin 32) (a : Fin 32) (n : BitVec 6)
  /-- SHRI (R103). Logical right shift by an immediate count. -/
  | shri (d : Fin 32) (a : Fin 32) (n : BitVec 6)
  /-- SRAI (R103). Arithmetic right shift by an immediate count. -/
  | srai (d : Fin 32) (a : Fin 32) (n : BitVec 6)
  /-- LIH (R104). Shifts g[a] left 16 and ORs in a 16-bit immediate. -/
  | lih (d : Fin 32) (a : Fin 32) (i : BitVec 16)
  /-- ADDPC (R106). Forms the address of the addpc word plus a word offset. -/
  | addpc (d : Fin 32) (i : BitVec 16)
  /-- LI (R105). Long instruction loading a sign-extended 32-bit immediate from its K word. -/
  | li (d : Fin 32) (k : BitVec 32)
  /-- BFX (R107). Extracts a bit field zero-extended. -/
  | bfx (d : Fin 32) (a : Fin 32) (l : BitVec 6) (p : BitVec 6)
  /-- BFXS (R107). Extracts a bit field sign-extended. -/
  | bfxs (d : Fin 32) (a : Fin 32) (l : BitVec 6) (p : BitVec 6)
  /-- BFI (R107). Inserts the low bits of g[a] into a field of g[d]. -/
  | bfi (d : Fin 32) (a : Fin 32) (l : BitVec 6) (p : BitVec 6)
  /-- BNET (R110). Maps the bits of g[a] through a routing pattern. -/
  | bnet (d : Fin 32) (a : Fin 32) (p : Fin 8)
  /-- BNLD (R111). Loads a routing pattern from a 64-byte well table. -/
  | bnld (p : Fin 8) (a : Fin 32)
  /-- FADD (R113). Scalar FP32 addition rounded RNE. -/
  | fadd (d : Fin 32) (a : Fin 32) (b : Fin 32)
  /-- FSUB (R113). Scalar FP32 subtraction. -/
  | fsub (d : Fin 32) (a : Fin 32) (b : Fin 32)
  /-- FMUL (R113). Scalar FP32 multiplication. -/
  | fmul (d : Fin 32) (a : Fin 32) (b : Fin 32)
  /-- FMIN (R113). Scalar FP32 minimum under R75. -/
  | fmin (d : Fin 32) (a : Fin 32) (b : Fin 32)
  /-- FMAX (R113). Scalar FP32 maximum under R75. -/
  | fmax (d : Fin 32) (a : Fin 32) (b : Fin 32)
  /-- FEQ (R114). Scalar FP32 equality compare. -/
  | feq (d : Fin 32) (a : Fin 32) (b : Fin 32)
  /-- FLT (R114). Scalar FP32 less-than compare. -/
  | flt (d : Fin 32) (a : Fin 32) (b : Fin 32)
  /-- FLE (R114). Scalar FP32 less-or-equal compare. -/
  | fle (d : Fin 32) (a : Fin 32) (b : Fin 32)
  /-- FCVT_I_F (R115). Converts FP32 to i64 by RTZ with saturation. -/
  | fcvtIF (d : Fin 32) (a : Fin 32)
  /-- FCVT_F_I (R115). Converts i64 to FP32 by RNE. -/
  | fcvtFI (d : Fin 32) (a : Fin 32)
  /-- FMADD (R116). Fused FP32 g[d] + g[a] x g[b]. -/
  | fmadd (d : Fin 32) (a : Fin 32) (b : Fin 32)
  /-- CSRR (R307). Reads a CSR into g[d]. -/
  | csrr (d : Fin 32) (c : BitVec 12)
  /-- CSRW (R307). Writes g[a] to a CSR. -/
  | csrw (a : Fin 32) (c : BitVec 12)
  /-- CSRS (R307). Sets CSR bits from g[a]. -/
  | csrs (a : Fin 32) (c : BitVec 12)
  /-- CSRC (R307). Clears CSR bits from g[a]. -/
  | csrc (a : Fin 32) (c : BitVec 12)
  /-- ECALL (R316). Traps ECALLT in mode T or ECALLK in K and D. -/
  | ecall
  /-- EBREAK (R316). Traps BREAK or enters a debug stop when armed. -/
  | ebreak
  /-- TRET (R315). Returns from trap service, restoring mode and resuming every sequencer at its tpc. -/
  | tret
  /-- WFM (R316). Waits while the mailbox is empty and no enabled interrupt is pending. -/
  | wfm
  /-- HALT (R316). Enters a debug stop with reason HALT. -/
  | halt
  /-- FENCE_I (R316). Orders instruction fetch after stores already in effect, costing one turn. -/
  | fenceI
  /-- CTXSW (R321). Swaps the context of a stroke with a context cache entry. -/
  | ctxsw (a : Fin 32)
  /-- CTXST (R322). Stores a context cache entry to a 10 KiB record in memory. -/
  | ctxst (a : Fin 32) (b : Fin 32)
  /-- CTXLD (R322). Loads a 10 KiB context record into an empty cache entry. -/
  | ctxld (a : Fin 32) (b : Fin 32)
  /-- RQPUSH (R325). Moves a ready-queue id to READY at its list tail and sets its TAG. -/
  | rqpush (a : Fin 32) (b : Fin 32)
  /-- RQPOP (R325). Takes the head of the highest non-empty ready list to RUNNING. -/
  | rqpop (d : Fin 32)
  /-- RQPARK (R325). Parks a running or saving task to SLEEPING or READY. -/
  | rqpark (a : Fin 32)
  /-- RQSTATE (R325). Reads a ready-queue id state and optionally moves it to SAVING or FREE. -/
  | rqstate (d : Fin 32) (a : Fin 32)
  /-- TMSET (R327). Sets or disarms the timer compare of a stroke position. -/
  | tmset (a : Fin 32) (b : Fin 32)
  /-- WLOCK (R329). Waits for and takes a lock on a well range. -/
  | wlock (a : Fin 32) (b : Fin 32)
  /-- WUNLOCK (R329). Releases the issuing stroke lock at base g[a]. -/
  | wunlock (a : Fin 32)
  /-- MSG (R294). Sends a 64-bit message to a stroke or task, landing a status with its seal. -/
  | msg (d : Fin 32) (a : Fin 32) (b : Fin 32) (s : Fin 16)
  /-- MCFG (R230). Long instruction writing an immediate to a shadow bank field. -/
  | mcfg (f : BitVec 12) (k : BitVec 32)
  /-- MCFGR (R230). Writes g[a][31:0] to a shadow bank field. -/
  | mcfgr (a : Fin 32) (f : BitVec 12)
  /-- MFMT (R227). Checks and appends a format word to the stroke format queue. -/
  | mfmt (a : Fin 32)
  /-- MGO (R235). Pops a format word, snapshots the shadow bank and queues a loop-nest matrix command. -/
  | mgo (s : Fin 16) (w : Fin 4) (c : Fin 4)
  /-- MGRP (R239). Queues a grouped matrix run over a group list. -/
  | mgrp (s : Fin 16) (a : Fin 32) (b : Fin 32)
  /-- MWLD (R237). Queues a load of a weight image into a weight bank. -/
  | mwld (s : Fin 16) (a : Fin 32) (b : Fin 32) (k : Fin 2)
  /-- MZERO (R238). Queues zeroing of an accumulator tile. -/
  | mzero (a : Fin 32)
  /-- MRD (R238). Queues a read of an accumulator tile into the well. -/
  | mrd (s : Fin 16) (a : Fin 32) (b : Fin 32)
  /-- MRESUME (R245). Returns the stopped matrix command to the queue head and clears STOPPED. -/
  | mresume
  /-- MSTAT (R249). Reads matrix engine state into g[d]. -/
  | mstat (d : Fin 32)
  /-- CPY (R281). Starts a quill copy from a copy descriptor. -/
  | cpy (s : Fin 16) (a : Fin 32)
  /-- CPY_TOPK (R283). Starts a quill copy of the top K entries of each accumulator tile row. -/
  | cpyTopk (s : Fin 16) (a : Fin 32)
  /-- CPY_PACK (R284). Starts a quill copy requantising rows to BFP4. -/
  | cpyPack (s : Fin 16) (a : Fin 32)
  /-- XPERM (R289). Requests a permit for room in a receive ring. -/
  | xperm (s : Fin 16) (a : Fin 32) (b : Fin 32)
  /-- XSEND (R292). Sends or cancels the message of a granted permit. -/
  | xsend (s : Fin 16) (a : Fin 32) (b : Fin 32)
  /-- XRCFG (R287). Enables or disables a receive ring from a descriptor. -/
  | xrcfg (a : Fin 32)
  /-- XRPOP (R293). Releases and returns ring records or pops the mailbox. -/
  | xrpop (d : Fin 32) (a : Fin 32)
  /-- XRSTAT (R293). Reads ring and mailbox status. -/
  | xrstat (d : Fin 32)
  /-- BAR_ARR (R300). Arrives at a barrier id. -/
  | barArr (a : Fin 32)
  /-- BAR_WAIT (R300). Posts a seal when the generation of the last arrival is released. -/
  | barWait (s : Fin 16) (a : Fin 32)
  /-- BAR_SYNC (R300). Arrives and waits at a barrier as one instruction. -/
  | barSync (s : Fin 16) (a : Fin 32)
  /-- XSUM (R303). Barrier sync that contributes a 64-byte record to the sum tree. -/
  | xsum (s : Fin 16) (a : Fin 32) (b : Fin 32)
  /-- SELR (R256). Queues a row selection with capacity policy on the select unit. -/
  | selr (s : Fin 16) (a : Fin 32)
  /-- SELC (R259). Queues a column selection on the select unit. -/
  | selc (s : Fin 16) (a : Fin 32)
  /-- SDECL (R269). Declares or releases a tensor slot from a tensor descriptor. -/
  | sdecl (t : Fin 8) (a : Fin 32)
  /-- SWEEP (R271). Starts a brush sweep of a tensor slot. -/
  | sweep (t : Fin 8) (s : Fin 16)
  /-- SWAKE (R267). Wakes the serif of an element if waiting or parked. -/
  | swake (t : Fin 8) (a : Fin 32)
  /-- SSTAT (R270). Reads the status of a tensor slot. -/
  | sstat (d : Fin 32) (t : Fin 8)
  /-- RPUSH (R336). Pushes a label on the label stack for the filters. -/
  | rpush (l : BitVec 16)
  /-- RPOP (R336). Pops the label stack, flagging a mismatch. -/
  | rpop (l : BitVec 16)
  /-- MARK (R336). Presents a mark label to the filters. -/
  | mark (l : BitVec 16)
  /-- GSUB (R365). Submits a guest packet to the bonnet port. -/
  | gsub (s : Fin 16) (a : Fin 32)
  /-- MMOD (R145). Sets the base and length of a modulo register. -/
  | mmod (i : Fin 8) (a : Fin 32) (b : Fin 32)
  /-- LD_B (R150). Loads a sign-extended byte. -/
  | ldB (d : Fin 32) (a : Fin 32) (m : Fin 4) (s : Fin 16) (i : BitVec 10)
  /-- LD_H (R150). Loads a sign-extended halfword. -/
  | ldH (d : Fin 32) (a : Fin 32) (m : Fin 4) (s : Fin 16) (i : BitVec 10)
  /-- LD_W (R150). Loads a sign-extended word. -/
  | ldW (d : Fin 32) (a : Fin 32) (m : Fin 4) (s : Fin 16) (i : BitVec 10)
  /-- LD_D (R150). Loads a doubleword. -/
  | ldD (d : Fin 32) (a : Fin 32) (m : Fin 4) (s : Fin 16) (i : BitVec 10)
  /-- LD_BN (R150). Loads a zero-extended byte. -/
  | ldBn (d : Fin 32) (a : Fin 32) (m : Fin 4) (s : Fin 16) (i : BitVec 10)
  /-- LD_HN (R150). Loads a zero-extended halfword. -/
  | ldHn (d : Fin 32) (a : Fin 32) (m : Fin 4) (s : Fin 16) (i : BitVec 10)
  /-- LD_WN (R150). Loads a zero-extended word. -/
  | ldWn (d : Fin 32) (a : Fin 32) (m : Fin 4) (s : Fin 16) (i : BitVec 10)
  /-- LD_V (R150). Loads a whole vector register. -/
  | ldV (d : Fin 32) (a : Fin 32) (m : Fin 4) (s : Fin 16) (i : BitVec 10)
  /-- LD_Q (R150). Loads a vector into a reserved A-to-X queue slot. -/
  | ldQ (a : Fin 32) (m : Fin 4) (s : Fin 16) (i : BitVec 10)
  /-- LDG_V (R152). Gathers lanes into a vector register. -/
  | ldgV (d : Fin 32) (a : Fin 32) (b : Fin 32) (p : Fin 8) (e : Fin 4) (s : Fin 16)
  /-- LDG_Q (R152). Gathers lanes into the A-to-X queue. -/
  | ldgQ (a : Fin 32) (b : Fin 32) (p : Fin 8) (e : Fin 4) (s : Fin 16)
  /-- LDFE (R154). Synchronising load when full, leaving the word empty. -/
  | ldfe (d : Fin 32) (a : Fin 32) (m : Fin 4) (s : Fin 16) (i : BitVec 10)
  /-- LDFF (R154). Synchronising load when full, leaving the word full. -/
  | ldff (d : Fin 32) (a : Fin 32) (m : Fin 4) (s : Fin 16) (i : BitVec 10)
  /-- AMO_ADD (R157). Atomic add returning the old value. -/
  | amoAdd (d : Fin 32) (a : Fin 32) (b : Fin 32) (s : Fin 16) (z : Fin 2)
  /-- AMO_AND (R157). Atomic AND returning the old value. -/
  | amoAnd (d : Fin 32) (a : Fin 32) (b : Fin 32) (s : Fin 16) (z : Fin 2)
  /-- AMO_OR (R157). Atomic OR returning the old value. -/
  | amoOr (d : Fin 32) (a : Fin 32) (b : Fin 32) (s : Fin 16) (z : Fin 2)
  /-- AMO_XOR (R157). Atomic XOR returning the old value. -/
  | amoXor (d : Fin 32) (a : Fin 32) (b : Fin 32) (s : Fin 16) (z : Fin 2)
  /-- AMO_MIN (R157). Atomic signed minimum. -/
  | amoMin (d : Fin 32) (a : Fin 32) (b : Fin 32) (s : Fin 16) (z : Fin 2)
  /-- AMO_MAX (R157). Atomic signed maximum. -/
  | amoMax (d : Fin 32) (a : Fin 32) (b : Fin 32) (s : Fin 16) (z : Fin 2)
  /-- AMO_MINN (R157). Atomic unsigned minimum. -/
  | amoMinn (d : Fin 32) (a : Fin 32) (b : Fin 32) (s : Fin 16) (z : Fin 2)
  /-- AMO_MAXN (R157). Atomic unsigned maximum. -/
  | amoMaxn (d : Fin 32) (a : Fin 32) (b : Fin 32) (s : Fin 16) (z : Fin 2)
  /-- AMO_SWAP (R157). Atomic swap. -/
  | amoSwap (d : Fin 32) (a : Fin 32) (b : Fin 32) (s : Fin 16) (z : Fin 2)
  /-- AMO_CAS (R157). Atomic compare and swap against g[d]. -/
  | amoCas (d : Fin 32) (a : Fin 32) (b : Fin 32) (s : Fin 16) (z : Fin 2)
  /-- AMO_FADD (R157). Atomic FP32 add, refused in deterministic mode. -/
  | amoFadd (d : Fin 32) (a : Fin 32) (b : Fin 32) (s : Fin 16)
  /-- LDBLK (R159). Starts a block fill from global memory into the well. -/
  | ldblk (d : Fin 32) (a : Fin 32) (s : Fin 16) (l : BitVec 6)
  /-- BFREE (R160). Frees a ready block. -/
  | bfree (a : Fin 32)
  /-- BSTAT (R160). Reads the state of a block entry. -/
  | bstat (d : Fin 32) (a : Fin 32)
  /-- BDRAIN (R160). Starts writing a ready block back to its source. -/
  | bdrain (s : Fin 16) (a : Fin 32)
  /-- ST_B (R150). Stores a byte. -/
  | stB (d : Fin 32) (a : Fin 32) (m : Fin 4) (s : Fin 16) (i : BitVec 10)
  /-- ST_H (R150). Stores a halfword. -/
  | stH (d : Fin 32) (a : Fin 32) (m : Fin 4) (s : Fin 16) (i : BitVec 10)
  /-- ST_W (R150). Stores a word. -/
  | stW (d : Fin 32) (a : Fin 32) (m : Fin 4) (s : Fin 16) (i : BitVec 10)
  /-- ST_D (R150). Stores a doubleword. -/
  | stD (d : Fin 32) (a : Fin 32) (m : Fin 4) (s : Fin 16) (i : BitVec 10)
  /-- ST_V (R150). Stores a vector register. -/
  | stV (d : Fin 32) (a : Fin 32) (m : Fin 4) (s : Fin 16) (i : BitVec 10)
  /-- ST_Q (R150). Stores the head of the X-to-W queue. -/
  | stQ (a : Fin 32) (m : Fin 4) (s : Fin 16) (i : BitVec 10)
  /-- STS_V (R152). Scatters lanes of a vector register. -/
  | stsV (d : Fin 32) (a : Fin 32) (b : Fin 32) (p : Fin 8) (e : Fin 4) (s : Fin 16)
  /-- STS_Q (R152). Scatters lanes of the X-to-W queue head. -/
  | stsQ (a : Fin 32) (b : Fin 32) (p : Fin 8) (e : Fin 4) (s : Fin 16)
  /-- STFE (R154). Synchronising store when empty, leaving the word full. -/
  | stfe (d : Fin 32) (a : Fin 32) (m : Fin 4) (s : Fin 16) (i : BitVec 10)
  /-- STFF (R154). Synchronising store always, leaving the word full. -/
  | stff (d : Fin 32) (a : Fin 32) (m : Fin 4) (s : Fin 16) (i : BitVec 10)
  /-- PUB (R192). Flips the front and shadow backings of a publish entry at one logical time. -/
  | pub (s : Fin 16) (a : Fin 32)
  /-- VADD (R202). Lane-wise integer add. -/
  | vadd (d : Fin 32) (a : Fin 32) (b : Fin 32) (p : Fin 8) (y : Fin 8)
  /-- VSUB (R202). Lane-wise integer subtract. -/
  | vsub (d : Fin 32) (a : Fin 32) (b : Fin 32) (p : Fin 8) (y : Fin 8)
  /-- VMUL (R202). Lane-wise low product. -/
  | vmul (d : Fin 32) (a : Fin 32) (b : Fin 32) (p : Fin 8) (y : Fin 8)
  /-- VMULH (R202). Lane-wise high product. -/
  | vmulh (d : Fin 32) (a : Fin 32) (b : Fin 32) (p : Fin 8) (y : Fin 8)
  /-- VAND (R202). Lane-wise AND. -/
  | vand (d : Fin 32) (a : Fin 32) (b : Fin 32) (p : Fin 8) (y : Fin 8)
  /-- VOR (R202). Lane-wise OR. -/
  | vor (d : Fin 32) (a : Fin 32) (b : Fin 32) (p : Fin 8) (y : Fin 8)
  /-- VXOR (R202). Lane-wise XOR. -/
  | vxor (d : Fin 32) (a : Fin 32) (b : Fin 32) (p : Fin 8) (y : Fin 8)
  /-- VSHL (R202). Lane-wise left shift. -/
  | vshl (d : Fin 32) (a : Fin 32) (b : Fin 32) (p : Fin 8) (y : Fin 8)
  /-- VSHR (R202). Lane-wise logical right shift. -/
  | vshr (d : Fin 32) (a : Fin 32) (b : Fin 32) (p : Fin 8) (y : Fin 8)
  /-- VSRA (R202). Lane-wise arithmetic right shift. -/
  | vsra (d : Fin 32) (a : Fin 32) (b : Fin 32) (p : Fin 8) (y : Fin 8)
  /-- VMIN (R202). Lane-wise minimum. -/
  | vmin (d : Fin 32) (a : Fin 32) (b : Fin 32) (p : Fin 8) (y : Fin 8)
  /-- VMAX (R202). Lane-wise maximum. -/
  | vmax (d : Fin 32) (a : Fin 32) (b : Fin 32) (p : Fin 8) (y : Fin 8)
  /-- VABS (R202). Lane-wise absolute value. -/
  | vabs (d : Fin 32) (a : Fin 32) (p : Fin 8) (y : Fin 8)
  /-- VNEG (R202). Lane-wise negation. -/
  | vneg (d : Fin 32) (a : Fin 32) (p : Fin 8) (y : Fin 8)
  /-- VADDS (R202). Lane-wise saturating add. -/
  | vadds (d : Fin 32) (a : Fin 32) (b : Fin 32) (p : Fin 8) (y : Fin 8)
  /-- VSUBS (R202). Lane-wise saturating subtract. -/
  | vsubs (d : Fin 32) (a : Fin 32) (b : Fin 32) (p : Fin 8) (y : Fin 8)
  /-- VMOV (R205). Copies lanes. -/
  | vmov (d : Fin 32) (a : Fin 32) (p : Fin 8) (y : Fin 16)
  /-- VSEL (R205). Selects lanes of va or vb by a selector predicate. -/
  | vsel (d : Fin 32) (a : Fin 32) (b : Fin 32) (p : Fin 8) (y : Fin 16)
  /-- VSHUF (R205). Permutes lanes by an index vector. -/
  | vshuf (d : Fin 32) (a : Fin 32) (b : Fin 32) (p : Fin 8) (y : Fin 16)
  /-- VSLIDE (R205). Slides lanes by a signed g register amount. -/
  | vslide (d : Fin 32) (a : Fin 32) (b : Fin 32) (p : Fin 8) (y : Fin 16)
  /-- VZIP (R205). Interleaves low halves of two vectors. -/
  | vzip (d : Fin 32) (a : Fin 32) (b : Fin 32) (p : Fin 8) (y : Fin 16)
  /-- VUNZIP (R205). De-interleaves even lanes of two vectors. -/
  | vunzip (d : Fin 32) (a : Fin 32) (b : Fin 32) (p : Fin 8) (y : Fin 16)
  /-- VIDX (R205). Writes g[a] plus the lane index in each lane. -/
  | vidx (d : Fin 32) (a : Fin 32) (p : Fin 8) (y : Fin 8)
  /-- VBCAST (R205). Broadcasts g[a] to every lane. -/
  | vbcast (d : Fin 32) (a : Fin 32) (p : Fin 8) (y : Fin 16)
  /-- VEXT (R205). Extracts one lane into a g register. -/
  | vext (d : Fin 32) (a : Fin 32) (b : Fin 32) (y : Fin 16)
  /-- VINS (R205). Inserts g[a] into one lane of vd. -/
  | vins (d : Fin 32) (a : Fin 32) (b : Fin 32) (y : Fin 16)
  /-- VNOT (R205). Lane-wise NOT. -/
  | vnot (d : Fin 32) (a : Fin 32) (p : Fin 8) (y : Fin 16)
  /-- VCLZ (R205). Lane-wise leading zero count. -/
  | vclz (d : Fin 32) (a : Fin 32) (p : Fin 8) (y : Fin 8)
  /-- VPOPC (R205). Lane-wise population count. -/
  | vpopc (d : Fin 32) (a : Fin 32) (p : Fin 8) (y : Fin 8)
  /-- VCMP_EQ (R204). Lane equality compare into a predicate. -/
  | vcmpEq (d : Fin 8) (a : Fin 32) (b : Fin 32) (p : Fin 8) (y : Fin 8)
  /-- VCMP_NE (R204). Lane inequality compare into a predicate. -/
  | vcmpNe (d : Fin 8) (a : Fin 32) (b : Fin 32) (p : Fin 8) (y : Fin 8)
  /-- VCMP_LT (R204). Lane less-than compare into a predicate. -/
  | vcmpLt (d : Fin 8) (a : Fin 32) (b : Fin 32) (p : Fin 8) (y : Fin 8)
  /-- VCMP_LE (R204). Lane less-or-equal compare into a predicate. -/
  | vcmpLe (d : Fin 8) (a : Fin 32) (b : Fin 32) (p : Fin 8) (y : Fin 8)
  /-- VCMP_GT (R204). Lane greater-than compare into a predicate. -/
  | vcmpGt (d : Fin 8) (a : Fin 32) (b : Fin 32) (p : Fin 8) (y : Fin 8)
  /-- VCMP_GE (R204). Lane greater-or-equal compare into a predicate. -/
  | vcmpGe (d : Fin 8) (a : Fin 32) (b : Fin 32) (p : Fin 8) (y : Fin 8)
  /-- VFADD (R206). Lane-wise FP addition. -/
  | vfadd (d : Fin 32) (a : Fin 32) (b : Fin 32) (p : Fin 8) (y : Fin 2)
  /-- VFSUB (R206). Lane-wise FP subtraction. -/
  | vfsub (d : Fin 32) (a : Fin 32) (b : Fin 32) (p : Fin 8) (y : Fin 2)
  /-- VFMUL (R206). Lane-wise FP multiplication. -/
  | vfmul (d : Fin 32) (a : Fin 32) (b : Fin 32) (p : Fin 8) (y : Fin 2)
  /-- VFMIN (R206). Lane-wise FP minimum. -/
  | vfmin (d : Fin 32) (a : Fin 32) (b : Fin 32) (p : Fin 8) (y : Fin 2)
  /-- VFMAX (R206). Lane-wise FP maximum. -/
  | vfmax (d : Fin 32) (a : Fin 32) (b : Fin 32) (p : Fin 8) (y : Fin 2)
  /-- VFABS (R206). Lane-wise FP absolute value. -/
  | vfabs (d : Fin 32) (a : Fin 32) (p : Fin 8) (y : Fin 2)
  /-- VFNEG (R206). Lane-wise FP negation. -/
  | vfneg (d : Fin 32) (a : Fin 32) (p : Fin 8) (y : Fin 2)
  /-- VFEQ (R206). Lane FP equality into a predicate. -/
  | vfeq (d : Fin 8) (a : Fin 32) (b : Fin 32) (p : Fin 8) (y : Fin 2)
  /-- VFLT (R206). Lane FP less-than into a predicate. -/
  | vflt (d : Fin 8) (a : Fin 32) (b : Fin 32) (p : Fin 8) (y : Fin 2)
  /-- VFLE (R206). Lane FP less-or-equal into a predicate. -/
  | vfle (d : Fin 8) (a : Fin 32) (b : Fin 32) (p : Fin 8) (y : Fin 2)
  /-- VFMA (R207). Fused c + a x b per lane. -/
  | vfma (d : Fin 32) (a : Fin 32) (b : Fin 32) (p : Fin 8) (y : Fin 2)
  /-- VFMS (R207). Fused c - a x b per lane. -/
  | vfms (d : Fin 32) (a : Fin 32) (b : Fin 32) (p : Fin 8) (y : Fin 2)
  /-- VFNMA (R207). Fused -c - a x b per lane. -/
  | vfnma (d : Fin 32) (a : Fin 32) (b : Fin 32) (p : Fin 8) (y : Fin 2)
  /-- VFNMS (R207). Fused -c + a x b per lane. -/
  | vfnms (d : Fin 32) (a : Fin 32) (b : Fin 32) (p : Fin 8) (y : Fin 2)
  /-- VCVT (R208). Converts lanes from a source type to a destination type. -/
  | vcvt (d : Fin 32) (a : Fin 32) (p : Fin 8) (y : Fin 16) (x : Fin 16)
  /-- VPACK_BFP (R209). Packs FP32 lanes into a BFP image. -/
  | vpackBfp (d : Fin 32) (a : Fin 32) (w : Fin 32) (p : Fin 8)
  /-- VUNPACK_BFP (R209). Unpacks a BFP image into FP32 lanes. -/
  | vunpackBfp (d : Fin 32) (a : Fin 32) (w : Fin 32) (p : Fin 8)
  /-- VREDSUM (R210). Integer tree sum of active lanes into a g register. -/
  | vredsum (d : Fin 32) (a : Fin 32) (p : Fin 8) (y : Fin 8)
  /-- VFREDSUM (R210). FP tree sum of active lanes into a g register. -/
  | vfredsum (d : Fin 32) (a : Fin 32) (p : Fin 8) (y : Fin 2)
  /-- VREDMAX (R210). Integer tree maximum. -/
  | vredmax (d : Fin 32) (a : Fin 32) (p : Fin 8) (y : Fin 8)
  /-- VREDMIN (R210). Integer tree minimum. -/
  | vredmin (d : Fin 32) (a : Fin 32) (p : Fin 8) (y : Fin 8)
  /-- VFREDMAX (R210). FP tree maximum. -/
  | vfredmax (d : Fin 32) (a : Fin 32) (p : Fin 8) (y : Fin 2)
  /-- VFREDMIN (R210). FP tree minimum. -/
  | vfredmin (d : Fin 32) (a : Fin 32) (p : Fin 8) (y : Fin 2)
  /-- VREDAND (R210). Tree AND of active lanes. -/
  | vredand (d : Fin 32) (a : Fin 32) (p : Fin 8) (y : Fin 8)
  /-- VREDOR (R210). Tree OR of active lanes. -/
  | vredor (d : Fin 32) (a : Fin 32) (p : Fin 8) (y : Fin 8)
  /-- PAND (R201). Predicate AND. -/
  | pand (d : Fin 8) (a : Fin 8) (b : Fin 8)
  /-- POR (R201). Predicate OR. -/
  | por (d : Fin 8) (a : Fin 8) (b : Fin 8)
  /-- PXOR (R201). Predicate XOR. -/
  | pxor (d : Fin 8) (a : Fin 8) (b : Fin 8)
  /-- PNOT (R201). Predicate NOT. -/
  | pnot (d : Fin 8) (a : Fin 8)
  /-- PSET (R201). Sets a predicate to all ones. -/
  | pset (d : Fin 8)
  /-- PCLR (R201). Clears a predicate. -/
  | pclr (d : Fin 8)
  /-- PCOUNT (R201). Counts one bits of a predicate into g[d]. -/
  | pcount (d : Fin 32) (a : Fin 8)
  /-- PFIRST (R201). Index of the lowest one bit of a predicate. -/
  | pfirst (d : Fin 32) (a : Fin 8)
  /-- VWHILE (R199). Builds a governing predicate of lanes below a limit and advances g[i]. -/
  | vwhile (d : Fin 8) (i : Fin 32) (n : Fin 32) (y : Fin 16)
  /-- VWIDTH (R200). Writes the vector width in bytes. -/
  | vwidth (d : Fin 32)
  /-- SPLOOP (R218). Software-pipelined loop branch stepping LC, EC, STG and vrb. -/
  | sploop (x : BitVec 16)
  /-- VROT (R217). Adds n to the rotation base vrb. -/
  | vrot (n : Fin 16)
  /-- VEXP2 (R211). Requests base-2 exponential lanes from the special-function unit. -/
  | vexp2 (d : Fin 32) (a : Fin 32) (s : Fin 16) (p : Fin 8)
  /-- VLOG2 (R211). Requests base-2 logarithm lanes from the special-function unit. -/
  | vlog2 (d : Fin 32) (a : Fin 32) (s : Fin 16) (p : Fin 8)
  /-- VRCP (R211). Requests reciprocal lanes from the special-function unit. -/
  | vrcp (d : Fin 32) (a : Fin 32) (s : Fin 16) (p : Fin 8)
  /-- VRSQRT (R211). Requests reciprocal square root lanes from the special-function unit. -/
  | vrsqrt (d : Fin 32) (a : Fin 32) (s : Fin 16) (p : Fin 8)
  /-- VRAND (R214). Fills lanes from the counter-based stream generator and advances rngctr. -/
  | vrand (d : Fin 32) (p : Fin 8)
  /-- VPOP (R215). Pops the A-to-X queue head into vd. -/
  | vpop (d : Fin 32)
  /-- VPUSH (R215). Pushes va onto the X-to-W queue. -/
  | vpush (a : Fin 32)
  /-- VTOPK (R251). Ranks lanes in segments and writes the top-k lane indices. -/
  | vtopk (d : Fin 32) (a : Fin 32) (l : Fin 4) (k : Fin 8) (p : Fin 8) (y : Fin 16)
  /-- VBINPOS (R253). Assigns bin positions from the bin counters and advances them. -/
  | vbinpos (d : Fin 32) (a : Fin 32) (p : Fin 8) (y : Fin 4)
  /-- VBINCLR (R253). Clears every bin counter. -/
  | vbinclr
  /-- VBINRD (R253). Reads bin counters into n16 lanes. -/
  | vbinrd (d : Fin 32) (a : Fin 32)
  /-- VSORTKV (R252). Sorts key-value lanes within segments. -/
  | vsortkv (d : Fin 32) (a : Fin 32) (l : Fin 8) (p : Fin 8) (y : Fin 2)
  /-- VADDI (R203). Adds a signed 9-bit immediate to each lane. -/
  | vaddi (d : Fin 32) (a : Fin 32) (p : Fin 8) (y : Fin 8) (i : BitVec 9)
  /-- VSHLI (R203). Left shift of lanes by an immediate. -/
  | vshli (d : Fin 32) (a : Fin 32) (p : Fin 8) (y : Fin 8) (i : BitVec 9)
  /-- VSHRI (R203). Logical right shift of lanes by an immediate. -/
  | vshri (d : Fin 32) (a : Fin 32) (p : Fin 8) (y : Fin 8) (i : BitVec 9)
  /-- VSRAI (R203). Arithmetic right shift of lanes by an immediate. -/
  | vsrai (d : Fin 32) (a : Fin 32) (p : Fin 8) (y : Fin 8) (i : BitVec 9)
  /-- VLI (R203). Loads a sign-extended immediate into each lane. -/
  | vli (d : Fin 32) (p : Fin 8) (y : Fin 8) (i : BitVec 9)
  /-- BP_ANY (R121). Branches when any bit of a predicate is set. -/
  | bpAny (a : Fin 8) (h : Fin 4) (x : BitVec 14)
  /-- BP_NONE (R121). Branches when no bit of a predicate is set. -/
  | bpNone (a : Fin 8) (h : Fin 4) (x : BitVec 14)
  /-- BP_ALL (R121). Branches when every bit of a predicate is set. -/
  | bpAll (a : Fin 8) (h : Fin 4) (x : BitVec 14)
deriving DecidableEq, Repr

end Sys2Proof
end

