-- ==== Sys2Proof/WellFormed.lean ====
section
/-! DEFINITION. Sys2Proof/WellFormed.lean: which instructions a sequencer accepts. `Instr.wf` holds the conditions on
the fields of a word that the spec makes traps with cause ILLEGAL on decode (02_lines.md R39, order 3) and that the
fixed bits of the word do not already say; `Instr.seqs` says in which of the four opcode spaces the word stands
(R47 to R54). -/

namespace Sys2Proof

/-- R43, R150: address mode 11 holds zero in imm10[9:8]. -/
def wfMode (m : Fin 4) (i : BitVec 10) : Bool := m.val != 3 || i.extractLsb' 8 2 == 0#2

/-- R150: a load in mode 01 or 10 may not load the register that it increments. -/
def wfLoad (d a : Fin 32) (m : Fin 4) : Bool := !((m.val == 1 || m.val == 2) && d == a)

/-- R107: pos + len is at most 64, where the word holds len - 1. -/
def wfField (p l : BitVec 6) : Bool := p.toNat + (l.toNat + 1) <= 64

/-- R203: a vector shift amount lies in 0 to B - 1 for lanes of B bits (the field is read as signed). -/
def wfShift (y : Fin 8) (i : BitVec 9) : Bool := i.toNat < 8 * 2 ^ (y.val % 4)

/-- R250, R251: `vtopk` takes the types i32 (2), n32 (6) and f32 (9), and k is at most the segment length. -/
def wfTopk (l : Fin 4) (k : Fin 8) (y : Fin 16) : Bool :=
  (y.val == 2 || y.val == 6 || y.val == 9) && k.val + 1 <= 4 * 2 ^ l.val

/-- R252: the length codes 0 to 4 of `vsortkv`, and a length of at most the number of lanes (32 for n32, 16 for n64). -/
def wfSort (l : Fin 8) (y : Fin 2) : Bool := l.val + y.val <= 4

/-- R39, order 3: the fields of a word hold no reserved value. Events and packets have no word, and every one of them
is well formed. -/
def Instr.wf : Instr → Bool
  | .resultLanding _ _ => true
  | .handoffEffect _ _ => true
  | .lateWriteLanding _ _ => true
  | .takeInterrupt _ _ => true
  | .deliveredCause _ _ => true
  | .taskEnd _ _ => true
  | .wakeAccept _ _ => true
  | .longAccessComplete _ => true
  | .homeRead _ => true
  | .homeWrite _ => true
  | .tlbFill _ _ => true
  | .parkResume _ _ => true
  | .waiterTableJoin _ => true
  | .blockFillComplete _ => true
  | .blockDrainComplete _ => true
  | .inval _ _ => true
  | .invalidationComplete _ => true
  | .faultRecord _ _ _ _ _ => true
  | .clockFloor _ => true
  | .lcTick _ _ => true
  | .pctl _ _ _ => true
  | .hostAccess _ _ _ _ => true
  | .sfuService _ => true
  | .sfuResult _ => true
  | .matrixDispatch _ => true
  | .slabEnd _ => true
  | .matrixRowWrite _ => true
  | .matrixPost _ => true
  | .weightLoadComplete _ => true
  | .groupFillWait _ => true
  | .chainPanelArrival _ _ _ => true
  | .mfaultAbort _ _ => true
  | .selectService _ => true
  | .selectPost _ => true
  | .landingDecrement _ _ _ => true
  | .brushRead _ _ => true
  | .brushLoad _ _ => true
  | .stepBlockStart _ _ => true
  | .writeBack _ _ => true
  | .copyComplete _ => true
  | .remoteAccess _ => true
  | .permitRequest _ => true
  | .permitAnswer _ => true
  | .sendComplete _ => true
  | .messageDelivery _ => true
  | .messageStatus _ => true
  | .folioLoss _ => true
  | .moduleLoss _ => true
  | .lossNotice _ _ => true
  | .barrierArrival _ => true
  | .barrierWait _ => true
  | .releaseDelivery _ => true
  | .barrierWatchdog _ _ _ => true
  | .barcfg _ _ _ => true
  | .swapStop _ _ => true
  | .swapResume _ _ => true
  | .ctxcfg _ _ => true
  | .timerFire _ _ => true
  | .nksig _ _ => true
  | .loadBalance _ => true
  | .debugStop _ _ => true
  | .dctlStop _ _ => true
  | .dctlResume _ _ => true
  | .dctlStep _ _ => true
  | .dctlDrun _ _ => true
  | .groupStop _ _ => true
  | .grpres _ _ => true
  | .histogramBin _ _ => true
  | .traceSample _ _ => true
  | .tbase _ _ => true
  | .tsize _ _ => true
  | .rplctl _ _ => true
  | .hostsig _ _ => true
  | .qctl _ _ _ => true
  | .qtail _ _ _ => true
  | .launchRegister _ _ _ => true
  | .launch _ => true
  | .launchComplete _ => true
  | .copy _ => true
  | .waitmem _ => true
  | .waitmemPoll _ => true
  | .signalmem _ => true
  | .cond _ => true
  | .loop _ => true
  | .capstart _ => true
  | .capstop _ => true
  | .replayall _ => true
  | .fence _ => true
  | .nopPacket _ => true
  | .partCreate _ => true
  | .resize _ => true
  | .ertWrite _ => true
  | .snapshot _ => true
  | .tokenBucketRefill _ => true
  | .bonctlEn _ => true
  | .bonctlFence => true
  | .linkTraining _ _ _ => true
  | .linkFailure => true
  | .guestCompletion _ _ _ => true
  | .portRefusal _ => true
  | .coherentRead _ _ _ => true
  | .coherentWrite _ _ _ _ => true
  | .coherentAtomic _ _ _ _ _ _ => true
  | .translationRequest _ _ => true
  | .invalidationAck _ => true
  | .guestFaultRecord _ _ => true
  | .preemptAck _ _ => true
  | .guestDeadline _ => true
  | .fencedCompletion _ => true
  | .thermalCap _ => true
  | .thermalCapRelease _ => true
  | .thermalReset _ => true
  | .powerMeasurement => true
  | .moduleReset => true
  | .attest _ => true
  | .recoveryControl _ => true
  | .registerWrite _ _ _ => true
  | .illegalOnDecode _ => true
  | .cacheCopyDrop _ _ => true
  | .turnClassCount _ _ => true
  | .readyHistogramCount _ => true
  | .linkPowerState _ => true
  | .dly n => n != 0
  | .nop => true
  | .waits s _ _ => s.val != 0
  | .sinc s => s.val != 0
  | .sadd s _ => s.val != 0
  | .sset s _ => s.val != 0
  | .sread _ s => s.val != 0
  | .spend _ s => s.val != 0
  | .j _ => true
  | .jal _ => true
  | .jr _ => true
  | .jalr _ _ => true
  | .jtab _ _ _ => true
  | .bq h _ => h.val != 3
  | .bpush _ _ => true
  | .bpushP _ _ => true
  | .beq _ _ h _ => h.val != 3
  | .bne _ _ h _ => h.val != 3
  | .blt _ _ h _ => h.val != 3
  | .bge _ _ h _ => h.val != 3
  | .bltn _ _ h _ => h.val != 3
  | .bgen _ _ h _ => h.val != 3
  | .sstop => true
  | .sjoin => true
  | .add _ _ _ => true
  | .sub _ _ _ => true
  | .mul _ _ _ => true
  | .mulh _ _ _ => true
  | .mulhn _ _ _ => true
  | .div _ _ _ => true
  | .divn _ _ _ => true
  | .rem _ _ _ => true
  | .remn _ _ _ => true
  | .and _ _ _ => true
  | .or _ _ _ => true
  | .xor _ _ _ => true
  | .shl _ _ _ => true
  | .shr _ _ _ => true
  | .sra _ _ _ => true
  | .slt _ _ _ => true
  | .sltn _ _ _ => true
  | .min _ _ _ => true
  | .max _ _ _ => true
  | .minn _ _ _ => true
  | .maxn _ _ _ => true
  | .sel _ _ _ => true
  | .clz _ _ => true
  | .ctz _ _ => true
  | .popc _ _ => true
  | .rev _ _ => true
  | .bswap _ _ => true
  | .sextB _ _ => true
  | .sextH _ _ => true
  | .sextW _ _ => true
  | .zextW _ _ => true
  | .addi _ _ _ => true
  | .andi _ _ _ => true
  | .ori _ _ _ => true
  | .xori _ _ _ => true
  | .slti _ _ _ => true
  | .shli _ _ _ => true
  | .shri _ _ _ => true
  | .srai _ _ _ => true
  | .lih _ _ _ => true
  | .addpc _ _ => true
  | .li _ _ => true
  | .bfx _ _ l p => wfField p l
  | .bfxs _ _ l p => wfField p l
  | .bfi _ _ l p => wfField p l
  | .bnet _ _ _ => true
  | .bnld _ _ => true
  | .fadd _ _ _ => true
  | .fsub _ _ _ => true
  | .fmul _ _ _ => true
  | .fmin _ _ _ => true
  | .fmax _ _ _ => true
  | .feq _ _ _ => true
  | .flt _ _ _ => true
  | .fle _ _ _ => true
  | .fcvtIF _ _ => true
  | .fcvtFI _ _ => true
  | .fmadd _ _ _ => true
  | .csrr _ _ => true
  | .csrw _ _ => true
  | .csrs _ _ => true
  | .csrc _ _ => true
  | .ecall => true
  | .ebreak => true
  | .tret => true
  | .wfm => true
  | .halt => true
  | .fenceI => true
  | .ctxsw _ => true
  | .ctxst _ _ => true
  | .ctxld _ _ => true
  | .rqpush _ _ => true
  | .rqpop _ => true
  | .rqpark _ => true
  | .rqstate _ _ => true
  | .tmset _ _ => true
  | .wlock _ _ => true
  | .wunlock _ => true
  | .msg _ _ _ s => s.val != 0
  | .mcfg _ _ => true
  | .mcfgr _ _ => true
  | .mfmt _ => true
  | .mgo s w c => s.val != 0 && w.val != 3 && c.val != 3
  | .mgrp s _ _ => s.val != 0
  | .mwld s _ _ _ => s.val != 0
  | .mzero _ => true
  | .mrd s _ _ => s.val != 0
  | .mresume => true
  | .mstat _ => true
  | .cpy s _ => s.val != 0
  | .cpyTopk s _ => s.val != 0
  | .cpyPack s _ => s.val != 0
  | .xperm s _ _ => s.val != 0
  | .xsend s _ _ => s.val != 0
  | .xrcfg _ => true
  | .xrpop _ _ => true
  | .xrstat _ => true
  | .barArr _ => true
  | .barWait s _ => s.val != 0
  | .barSync s _ => s.val != 0
  | .xsum s _ _ => s.val != 0
  | .selr s _ => s.val != 0
  | .selc s _ => s.val != 0
  | .sdecl _ _ => true
  | .sweep _ s => s.val != 0
  | .swake _ _ => true
  | .sstat _ _ => true
  | .rpush _ => true
  | .rpop _ => true
  | .mark _ => true
  | .gsub s _ => s.val != 0
  | .mmod _ _ _ => true
  | .ldB d a m _ i => wfMode m i && wfLoad d a m
  | .ldH d a m _ i => wfMode m i && wfLoad d a m
  | .ldW d a m _ i => wfMode m i && wfLoad d a m
  | .ldD d a m _ i => wfMode m i && wfLoad d a m
  | .ldBn d a m _ i => wfMode m i && wfLoad d a m
  | .ldHn d a m _ i => wfMode m i && wfLoad d a m
  | .ldWn d a m _ i => wfMode m i && wfLoad d a m
  | .ldV d a m _ i => wfMode m i && wfLoad d a m
  | .ldQ _ m _ i => wfMode m i
  | .ldgV _ _ _ _ _ _ => true
  | .ldgQ _ _ _ _ _ => true
  | .ldfe d a m _ i => wfMode m i && wfLoad d a m
  | .ldff d a m _ i => wfMode m i && wfLoad d a m
  | .amoAdd _ _ _ _ _ => true
  | .amoAnd _ _ _ _ _ => true
  | .amoOr _ _ _ _ _ => true
  | .amoXor _ _ _ _ _ => true
  | .amoMin _ _ _ _ _ => true
  | .amoMax _ _ _ _ _ => true
  | .amoMinn _ _ _ _ _ => true
  | .amoMaxn _ _ _ _ _ => true
  | .amoSwap _ _ _ _ _ => true
  | .amoCas _ _ _ _ _ => true
  | .amoFadd _ _ _ _ => true
  | .ldblk _ _ s _ => s.val != 0
  | .bfree _ => true
  | .bstat _ _ => true
  | .bdrain s _ => s.val != 0
  | .stB _ _ m _ i => wfMode m i
  | .stH _ _ m _ i => wfMode m i
  | .stW _ _ m _ i => wfMode m i
  | .stD _ _ m _ i => wfMode m i
  | .stV _ _ m _ i => wfMode m i
  | .stQ _ m _ i => wfMode m i
  | .stsV _ _ _ _ _ _ => true
  | .stsQ _ _ _ _ _ => true
  | .stfe _ _ m _ i => wfMode m i
  | .stff _ _ m _ i => wfMode m i
  | .pub s _ => s.val != 0
  | .vadd _ _ _ _ _ => true
  | .vsub _ _ _ _ _ => true
  | .vmul _ _ _ _ _ => true
  | .vmulh _ _ _ _ _ => true
  | .vand _ _ _ _ _ => true
  | .vor _ _ _ _ _ => true
  | .vxor _ _ _ _ _ => true
  | .vshl _ _ _ _ _ => true
  | .vshr _ _ _ _ _ => true
  | .vsra _ _ _ _ _ => true
  | .vmin _ _ _ _ _ => true
  | .vmax _ _ _ _ _ => true
  | .vabs _ _ _ _ => true
  | .vneg _ _ _ _ => true
  | .vadds _ _ _ _ _ => true
  | .vsubs _ _ _ _ _ => true
  | .vmov _ _ _ y => y.val < 12
  | .vsel _ _ _ _ y => y.val < 12
  | .vshuf _ _ _ _ y => y.val < 12
  | .vslide _ _ _ _ y => y.val < 12
  | .vzip _ _ _ _ y => y.val < 12
  | .vunzip _ _ _ _ y => y.val < 12
  | .vidx _ _ _ _ => true
  | .vbcast _ _ _ y => y.val < 12
  | .vext _ _ _ y => y.val < 12
  | .vins _ _ _ y => y.val < 12
  | .vnot _ _ _ y => y.val < 12
  | .vclz _ _ _ _ => true
  | .vpopc _ _ _ _ => true
  | .vcmpEq _ _ _ _ _ => true
  | .vcmpNe _ _ _ _ _ => true
  | .vcmpLt _ _ _ _ _ => true
  | .vcmpLe _ _ _ _ _ => true
  | .vcmpGt _ _ _ _ _ => true
  | .vcmpGe _ _ _ _ _ => true
  | .vfadd _ _ _ _ _ => true
  | .vfsub _ _ _ _ _ => true
  | .vfmul _ _ _ _ _ => true
  | .vfmin _ _ _ _ _ => true
  | .vfmax _ _ _ _ _ => true
  | .vfabs _ _ _ _ => true
  | .vfneg _ _ _ _ => true
  | .vfeq _ _ _ _ _ => true
  | .vflt _ _ _ _ _ => true
  | .vfle _ _ _ _ _ => true
  | .vfma _ _ _ _ _ => true
  | .vfms _ _ _ _ _ => true
  | .vfnma _ _ _ _ _ => true
  | .vfnms _ _ _ _ _ => true
  | .vcvt _ _ _ y x => y.val < 12 && x.val < 12
  | .vpackBfp _ _ w _ => 2 <= w.val && w.val <= 8
  | .vunpackBfp _ _ w _ => 2 <= w.val && w.val <= 8
  | .vredsum _ _ _ _ => true
  | .vfredsum _ _ _ _ => true
  | .vredmax _ _ _ _ => true
  | .vredmin _ _ _ _ => true
  | .vfredmax _ _ _ _ => true
  | .vfredmin _ _ _ _ => true
  | .vredand _ _ _ _ => true
  | .vredor _ _ _ _ => true
  | .pand _ _ _ => true
  | .por _ _ _ => true
  | .pxor _ _ _ => true
  | .pnot _ _ => true
  | .pset _ => true
  | .pclr _ => true
  | .pcount _ _ => true
  | .pfirst _ _ => true
  | .vwhile _ _ _ y => y.val < 12
  | .vwidth _ => true
  | .sploop _ => true
  | .vrot _ => true
  | .vexp2 _ _ s _ => s.val != 0
  | .vlog2 _ _ s _ => s.val != 0
  | .vrcp _ _ s _ => s.val != 0
  | .vrsqrt _ _ s _ => s.val != 0
  | .vrand _ _ => true
  | .vpop _ => true
  | .vpush _ => true
  | .vtopk _ _ l k _ y => wfTopk l k y
  | .vbinpos _ _ _ y => y.val < 3
  | .vbinclr => true
  | .vbinrd _ _ => true
  | .vsortkv _ _ l _ y => wfSort l y
  | .vaddi _ _ _ _ _ => true
  | .vshli _ _ _ y i => wfShift y i
  | .vshri _ _ _ y i => wfShift y i
  | .vsrai _ _ _ y i => wfShift y i
  | .vli _ _ _ _ => true
  | .bpAny _ h _ => h.val != 3
  | .bpNone _ h _ => h.val != 3
  | .bpAll _ h _ => h.val != 3

/-- R47 to R54: the sequencers in whose opcode space the instruction stands; none for an event or a packet. -/
def Instr.seqs : Instr → List Seq
  | .resultLanding _ _ => []
  | .handoffEffect _ _ => []
  | .lateWriteLanding _ _ => []
  | .takeInterrupt _ _ => []
  | .deliveredCause _ _ => []
  | .taskEnd _ _ => []
  | .wakeAccept _ _ => []
  | .longAccessComplete _ => []
  | .homeRead _ => []
  | .homeWrite _ => []
  | .tlbFill _ _ => []
  | .parkResume _ _ => []
  | .waiterTableJoin _ => []
  | .blockFillComplete _ => []
  | .blockDrainComplete _ => []
  | .inval _ _ => []
  | .invalidationComplete _ => []
  | .faultRecord _ _ _ _ _ => []
  | .clockFloor _ => []
  | .lcTick _ _ => []
  | .pctl _ _ _ => []
  | .hostAccess _ _ _ _ => []
  | .sfuService _ => []
  | .sfuResult _ => []
  | .matrixDispatch _ => []
  | .slabEnd _ => []
  | .matrixRowWrite _ => []
  | .matrixPost _ => []
  | .weightLoadComplete _ => []
  | .groupFillWait _ => []
  | .chainPanelArrival _ _ _ => []
  | .mfaultAbort _ _ => []
  | .selectService _ => []
  | .selectPost _ => []
  | .landingDecrement _ _ _ => []
  | .brushRead _ _ => []
  | .brushLoad _ _ => []
  | .stepBlockStart _ _ => []
  | .writeBack _ _ => []
  | .copyComplete _ => []
  | .remoteAccess _ => []
  | .permitRequest _ => []
  | .permitAnswer _ => []
  | .sendComplete _ => []
  | .messageDelivery _ => []
  | .messageStatus _ => []
  | .folioLoss _ => []
  | .moduleLoss _ => []
  | .lossNotice _ _ => []
  | .barrierArrival _ => []
  | .barrierWait _ => []
  | .releaseDelivery _ => []
  | .barrierWatchdog _ _ _ => []
  | .barcfg _ _ _ => []
  | .swapStop _ _ => []
  | .swapResume _ _ => []
  | .ctxcfg _ _ => []
  | .timerFire _ _ => []
  | .nksig _ _ => []
  | .loadBalance _ => []
  | .debugStop _ _ => []
  | .dctlStop _ _ => []
  | .dctlResume _ _ => []
  | .dctlStep _ _ => []
  | .dctlDrun _ _ => []
  | .groupStop _ _ => []
  | .grpres _ _ => []
  | .histogramBin _ _ => []
  | .traceSample _ _ => []
  | .tbase _ _ => []
  | .tsize _ _ => []
  | .rplctl _ _ => []
  | .hostsig _ _ => []
  | .qctl _ _ _ => []
  | .qtail _ _ _ => []
  | .launchRegister _ _ _ => []
  | .launch _ => []
  | .launchComplete _ => []
  | .copy _ => []
  | .waitmem _ => []
  | .waitmemPoll _ => []
  | .signalmem _ => []
  | .cond _ => []
  | .loop _ => []
  | .capstart _ => []
  | .capstop _ => []
  | .replayall _ => []
  | .fence _ => []
  | .nopPacket _ => []
  | .partCreate _ => []
  | .resize _ => []
  | .ertWrite _ => []
  | .snapshot _ => []
  | .tokenBucketRefill _ => []
  | .bonctlEn _ => []
  | .bonctlFence => []
  | .linkTraining _ _ _ => []
  | .linkFailure => []
  | .guestCompletion _ _ _ => []
  | .portRefusal _ => []
  | .coherentRead _ _ _ => []
  | .coherentWrite _ _ _ _ => []
  | .coherentAtomic _ _ _ _ _ _ => []
  | .translationRequest _ _ => []
  | .invalidationAck _ => []
  | .guestFaultRecord _ _ => []
  | .preemptAck _ _ => []
  | .guestDeadline _ => []
  | .fencedCompletion _ => []
  | .thermalCap _ => []
  | .thermalCapRelease _ => []
  | .thermalReset _ => []
  | .powerMeasurement => []
  | .moduleReset => []
  | .attest _ => []
  | .recoveryControl _ => []
  | .registerWrite _ _ _ => []
  | .illegalOnDecode _ => []
  | .cacheCopyDrop _ _ => []
  | .turnClassCount _ _ => []
  | .readyHistogramCount _ => []
  | .linkPowerState _ => []
  | .dly _ => [.s, .a, .x, .w]
  | .nop => [.s, .a, .x, .w]
  | .waits _ _ _ => [.s, .a, .x, .w]
  | .sinc _ => [.s, .a, .x, .w]
  | .sadd _ _ => [.s, .a, .x, .w]
  | .sset _ _ => [.s, .a, .x, .w]
  | .sread _ _ => [.s, .a, .x, .w]
  | .spend _ _ => [.s, .a, .x, .w]
  | .j _ => [.s, .a, .x, .w]
  | .jal _ => [.s, .a, .x, .w]
  | .jr _ => [.s, .a, .x, .w]
  | .jalr _ _ => [.s, .a, .x, .w]
  | .jtab _ _ _ => [.s, .a, .x, .w]
  | .bq _ _ => [.s, .a, .x, .w]
  | .bpush _ _ => [.s, .a, .x, .w]
  | .bpushP _ _ => [.x]
  | .beq _ _ _ _ => [.s, .a, .x, .w]
  | .bne _ _ _ _ => [.s, .a, .x, .w]
  | .blt _ _ _ _ => [.s, .a, .x, .w]
  | .bge _ _ _ _ => [.s, .a, .x, .w]
  | .bltn _ _ _ _ => [.s, .a, .x, .w]
  | .bgen _ _ _ _ => [.s, .a, .x, .w]
  | .sstop => [.s, .a, .x, .w]
  | .sjoin => [.a, .x, .w]
  | .add _ _ _ => [.s, .a, .w]
  | .sub _ _ _ => [.s, .a, .w]
  | .mul _ _ _ => [.s, .a, .w]
  | .mulh _ _ _ => [.s]
  | .mulhn _ _ _ => [.s]
  | .div _ _ _ => [.s]
  | .divn _ _ _ => [.s]
  | .rem _ _ _ => [.s]
  | .remn _ _ _ => [.s]
  | .and _ _ _ => [.s, .a, .w]
  | .or _ _ _ => [.s, .a, .w]
  | .xor _ _ _ => [.s, .a, .w]
  | .shl _ _ _ => [.s, .a, .w]
  | .shr _ _ _ => [.s, .a, .w]
  | .sra _ _ _ => [.s, .a, .w]
  | .slt _ _ _ => [.s]
  | .sltn _ _ _ => [.s]
  | .min _ _ _ => [.s]
  | .max _ _ _ => [.s]
  | .minn _ _ _ => [.s]
  | .maxn _ _ _ => [.s]
  | .sel _ _ _ => [.s, .a, .w]
  | .clz _ _ => [.s]
  | .ctz _ _ => [.s]
  | .popc _ _ => [.s]
  | .rev _ _ => [.s]
  | .bswap _ _ => [.s]
  | .sextB _ _ => [.s]
  | .sextH _ _ => [.s]
  | .sextW _ _ => [.s]
  | .zextW _ _ => [.s]
  | .addi _ _ _ => [.s, .a, .w]
  | .andi _ _ _ => [.s]
  | .ori _ _ _ => [.s]
  | .xori _ _ _ => [.s]
  | .slti _ _ _ => [.s]
  | .shli _ _ _ => [.s, .a, .w]
  | .shri _ _ _ => [.s, .a, .w]
  | .srai _ _ _ => [.s, .a, .w]
  | .lih _ _ _ => [.s, .a, .w]
  | .addpc _ _ => [.s, .a, .w]
  | .li _ _ => [.s, .a, .w]
  | .bfx _ _ _ _ => [.s]
  | .bfxs _ _ _ _ => [.s]
  | .bfi _ _ _ _ => [.s]
  | .bnet _ _ _ => [.s]
  | .bnld _ _ => [.s]
  | .fadd _ _ _ => [.s]
  | .fsub _ _ _ => [.s]
  | .fmul _ _ _ => [.s]
  | .fmin _ _ _ => [.s]
  | .fmax _ _ _ => [.s]
  | .feq _ _ _ => [.s]
  | .flt _ _ _ => [.s]
  | .fle _ _ _ => [.s]
  | .fcvtIF _ _ => [.s]
  | .fcvtFI _ _ => [.s]
  | .fmadd _ _ _ => [.s]
  | .csrr _ _ => [.s]
  | .csrw _ _ => [.s]
  | .csrs _ _ => [.s]
  | .csrc _ _ => [.s]
  | .ecall => [.s]
  | .ebreak => [.s]
  | .tret => [.s]
  | .wfm => [.s]
  | .halt => [.s]
  | .fenceI => [.s]
  | .ctxsw _ => [.s]
  | .ctxst _ _ => [.s]
  | .ctxld _ _ => [.s]
  | .rqpush _ _ => [.s]
  | .rqpop _ => [.s]
  | .rqpark _ => [.s]
  | .rqstate _ _ => [.s]
  | .tmset _ _ => [.s]
  | .wlock _ _ => [.s]
  | .wunlock _ => [.s]
  | .msg _ _ _ _ => [.s]
  | .mcfg _ _ => [.s]
  | .mcfgr _ _ => [.s]
  | .mfmt _ => [.s]
  | .mgo _ _ _ => [.s]
  | .mgrp _ _ _ => [.s]
  | .mwld _ _ _ _ => [.s]
  | .mzero _ => [.s]
  | .mrd _ _ _ => [.s]
  | .mresume => [.s]
  | .mstat _ => [.s]
  | .cpy _ _ => [.s]
  | .cpyTopk _ _ => [.s]
  | .cpyPack _ _ => [.s]
  | .xperm _ _ _ => [.s]
  | .xsend _ _ _ => [.s]
  | .xrcfg _ => [.s]
  | .xrpop _ _ => [.s]
  | .xrstat _ => [.s]
  | .barArr _ => [.s]
  | .barWait _ _ => [.s]
  | .barSync _ _ => [.s]
  | .xsum _ _ _ => [.s]
  | .selr _ _ => [.s]
  | .selc _ _ => [.s]
  | .sdecl _ _ => [.s]
  | .sweep _ _ => [.s]
  | .swake _ _ => [.s]
  | .sstat _ _ => [.s]
  | .rpush _ => [.s]
  | .rpop _ => [.s]
  | .mark _ => [.s]
  | .gsub _ _ => [.s]
  | .mmod _ _ _ => [.a, .w]
  | .ldB _ _ _ _ _ => [.a]
  | .ldH _ _ _ _ _ => [.a]
  | .ldW _ _ _ _ _ => [.a]
  | .ldD _ _ _ _ _ => [.a]
  | .ldBn _ _ _ _ _ => [.a]
  | .ldHn _ _ _ _ _ => [.a]
  | .ldWn _ _ _ _ _ => [.a]
  | .ldV _ _ _ _ _ => [.a]
  | .ldQ _ _ _ _ => [.a]
  | .ldgV _ _ _ _ _ _ => [.a]
  | .ldgQ _ _ _ _ _ => [.a]
  | .ldfe _ _ _ _ _ => [.a]
  | .ldff _ _ _ _ _ => [.a]
  | .amoAdd _ _ _ _ _ => [.a]
  | .amoAnd _ _ _ _ _ => [.a]
  | .amoOr _ _ _ _ _ => [.a]
  | .amoXor _ _ _ _ _ => [.a]
  | .amoMin _ _ _ _ _ => [.a]
  | .amoMax _ _ _ _ _ => [.a]
  | .amoMinn _ _ _ _ _ => [.a]
  | .amoMaxn _ _ _ _ _ => [.a]
  | .amoSwap _ _ _ _ _ => [.a]
  | .amoCas _ _ _ _ _ => [.a]
  | .amoFadd _ _ _ _ => [.a]
  | .ldblk _ _ _ _ => [.a]
  | .bfree _ => [.a]
  | .bstat _ _ => [.a]
  | .bdrain _ _ => [.a]
  | .stB _ _ _ _ _ => [.w]
  | .stH _ _ _ _ _ => [.w]
  | .stW _ _ _ _ _ => [.w]
  | .stD _ _ _ _ _ => [.w]
  | .stV _ _ _ _ _ => [.w]
  | .stQ _ _ _ _ => [.w]
  | .stsV _ _ _ _ _ _ => [.w]
  | .stsQ _ _ _ _ _ => [.w]
  | .stfe _ _ _ _ _ => [.w]
  | .stff _ _ _ _ _ => [.w]
  | .pub _ _ => [.w]
  | .vadd _ _ _ _ _ => [.x]
  | .vsub _ _ _ _ _ => [.x]
  | .vmul _ _ _ _ _ => [.x]
  | .vmulh _ _ _ _ _ => [.x]
  | .vand _ _ _ _ _ => [.x]
  | .vor _ _ _ _ _ => [.x]
  | .vxor _ _ _ _ _ => [.x]
  | .vshl _ _ _ _ _ => [.x]
  | .vshr _ _ _ _ _ => [.x]
  | .vsra _ _ _ _ _ => [.x]
  | .vmin _ _ _ _ _ => [.x]
  | .vmax _ _ _ _ _ => [.x]
  | .vabs _ _ _ _ => [.x]
  | .vneg _ _ _ _ => [.x]
  | .vadds _ _ _ _ _ => [.x]
  | .vsubs _ _ _ _ _ => [.x]
  | .vmov _ _ _ _ => [.x]
  | .vsel _ _ _ _ _ => [.x]
  | .vshuf _ _ _ _ _ => [.x]
  | .vslide _ _ _ _ _ => [.x]
  | .vzip _ _ _ _ _ => [.x]
  | .vunzip _ _ _ _ _ => [.x]
  | .vidx _ _ _ _ => [.x]
  | .vbcast _ _ _ _ => [.x]
  | .vext _ _ _ _ => [.x]
  | .vins _ _ _ _ => [.x]
  | .vnot _ _ _ _ => [.x]
  | .vclz _ _ _ _ => [.x]
  | .vpopc _ _ _ _ => [.x]
  | .vcmpEq _ _ _ _ _ => [.x]
  | .vcmpNe _ _ _ _ _ => [.x]
  | .vcmpLt _ _ _ _ _ => [.x]
  | .vcmpLe _ _ _ _ _ => [.x]
  | .vcmpGt _ _ _ _ _ => [.x]
  | .vcmpGe _ _ _ _ _ => [.x]
  | .vfadd _ _ _ _ _ => [.x]
  | .vfsub _ _ _ _ _ => [.x]
  | .vfmul _ _ _ _ _ => [.x]
  | .vfmin _ _ _ _ _ => [.x]
  | .vfmax _ _ _ _ _ => [.x]
  | .vfabs _ _ _ _ => [.x]
  | .vfneg _ _ _ _ => [.x]
  | .vfeq _ _ _ _ _ => [.x]
  | .vflt _ _ _ _ _ => [.x]
  | .vfle _ _ _ _ _ => [.x]
  | .vfma _ _ _ _ _ => [.x]
  | .vfms _ _ _ _ _ => [.x]
  | .vfnma _ _ _ _ _ => [.x]
  | .vfnms _ _ _ _ _ => [.x]
  | .vcvt _ _ _ _ _ => [.x]
  | .vpackBfp _ _ _ _ => [.x]
  | .vunpackBfp _ _ _ _ => [.x]
  | .vredsum _ _ _ _ => [.x]
  | .vfredsum _ _ _ _ => [.x]
  | .vredmax _ _ _ _ => [.x]
  | .vredmin _ _ _ _ => [.x]
  | .vfredmax _ _ _ _ => [.x]
  | .vfredmin _ _ _ _ => [.x]
  | .vredand _ _ _ _ => [.x]
  | .vredor _ _ _ _ => [.x]
  | .pand _ _ _ => [.x]
  | .por _ _ _ => [.x]
  | .pxor _ _ _ => [.x]
  | .pnot _ _ => [.x]
  | .pset _ => [.x]
  | .pclr _ => [.x]
  | .pcount _ _ => [.x]
  | .pfirst _ _ => [.x]
  | .vwhile _ _ _ _ => [.x]
  | .vwidth _ => [.x]
  | .sploop _ => [.x]
  | .vrot _ => [.x]
  | .vexp2 _ _ _ _ => [.x]
  | .vlog2 _ _ _ _ => [.x]
  | .vrcp _ _ _ _ => [.x]
  | .vrsqrt _ _ _ _ => [.x]
  | .vrand _ _ => [.x]
  | .vpop _ => [.x]
  | .vpush _ => [.x]
  | .vtopk _ _ _ _ _ _ => [.x]
  | .vbinpos _ _ _ _ => [.x]
  | .vbinclr => [.x]
  | .vbinrd _ _ => [.x]
  | .vsortkv _ _ _ _ _ => [.x]
  | .vaddi _ _ _ _ _ => [.x]
  | .vshli _ _ _ _ _ => [.x]
  | .vshri _ _ _ _ _ => [.x]
  | .vsrai _ _ _ _ _ => [.x]
  | .vli _ _ _ _ => [.x]
  | .bpAny _ _ _ => [.x]
  | .bpNone _ _ _ => [.x]
  | .bpAll _ _ _ => [.x]

/-- The instruction is a word of sequencer `q` whose fields hold no reserved value. -/
def Instr.wellFormed (q : Seq) (i : Instr) : Bool := i.seqs.contains q && i.wf

end Sys2Proof
end

