-- ==== Sys2Proof/Decode.lean ====
section
/-! DEFINITION. Sys2Proof/Decode.lean: reading an instruction from the bits of its word (02_lines.md R41 to R54), per
sequencer, and the encoder beside it. `decode q w k` reads the word `w` as sequencer `q` does; `k` is the K word that
follows a long instruction (R30). It answers `none` for a major, function code or fixed bit that no row of the opcode
map gives (R47); a reserved VALUE in a field is refused by `Instr.wf`. Both end in the trap ILLEGAL on decode.
Decoding has two stages: `rowOf` finds the row of the opcode map, and `Row.build` reads its operands. (`Row.build` is
marked noncomputable for one reason only: Lean's code generator has no room for constructors with fields beyond the
245th of a type. It evaluates in the kernel like every other definition.) -/

namespace Sys2Proof

/-- Bits [lo + n - 1 : lo] of a word, as a number. -/
def fld (w : BitVec 32) (lo n : Nat) : Nat := w.toNat / 2 ^ lo % 2 ^ n

/-- The rows of the opcode map that are words (R48 to R54). -/
inductive Row where
  | dly
  | nop
  | waits
  | sinc
  | sadd
  | sset
  | sread
  | spend
  | j
  | jal
  | jr
  | jalr
  | jtab
  | bq
  | bpush
  | bpushP
  | beq
  | bne
  | blt
  | bge
  | bltn
  | bgen
  | sstop
  | sjoin
  | add
  | sub
  | mul
  | mulh
  | mulhn
  | div
  | divn
  | rem
  | remn
  | and
  | or
  | xor
  | shl
  | shr
  | sra
  | slt
  | sltn
  | min
  | max
  | minn
  | maxn
  | sel
  | clz
  | ctz
  | popc
  | rev
  | bswap
  | sextB
  | sextH
  | sextW
  | zextW
  | addi
  | andi
  | ori
  | xori
  | slti
  | shli
  | shri
  | srai
  | lih
  | addpc
  | li
  | bfx
  | bfxs
  | bfi
  | bnet
  | bnld
  | fadd
  | fsub
  | fmul
  | fmin
  | fmax
  | feq
  | flt
  | fle
  | fcvtIF
  | fcvtFI
  | fmadd
  | csrr
  | csrw
  | csrs
  | csrc
  | ecall
  | ebreak
  | tret
  | wfm
  | halt
  | fenceI
  | ctxsw
  | ctxst
  | ctxld
  | rqpush
  | rqpop
  | rqpark
  | rqstate
  | tmset
  | wlock
  | wunlock
  | msg
  | mcfg
  | mcfgr
  | mfmt
  | mgo
  | mgrp
  | mwld
  | mzero
  | mrd
  | mresume
  | mstat
  | cpy
  | cpyTopk
  | cpyPack
  | xperm
  | xsend
  | xrcfg
  | xrpop
  | xrstat
  | barArr
  | barWait
  | barSync
  | xsum
  | selr
  | selc
  | sdecl
  | sweep
  | swake
  | sstat
  | rpush
  | rpop
  | mark
  | gsub
  | mmod
  | ldB
  | ldH
  | ldW
  | ldD
  | ldBn
  | ldHn
  | ldWn
  | ldV
  | ldQ
  | ldgV
  | ldgQ
  | ldfe
  | ldff
  | amoAdd
  | amoAnd
  | amoOr
  | amoXor
  | amoMin
  | amoMax
  | amoMinn
  | amoMaxn
  | amoSwap
  | amoCas
  | amoFadd
  | ldblk
  | bfree
  | bstat
  | bdrain
  | stB
  | stH
  | stW
  | stD
  | stV
  | stQ
  | stsV
  | stsQ
  | stfe
  | stff
  | pub
  | vadd
  | vsub
  | vmul
  | vmulh
  | vand
  | vor
  | vxor
  | vshl
  | vshr
  | vsra
  | vmin
  | vmax
  | vabs
  | vneg
  | vadds
  | vsubs
  | vmov
  | vsel
  | vshuf
  | vslide
  | vzip
  | vunzip
  | vidx
  | vbcast
  | vext
  | vins
  | vnot
  | vclz
  | vpopc
  | vcmpEq
  | vcmpNe
  | vcmpLt
  | vcmpLe
  | vcmpGt
  | vcmpGe
  | vfadd
  | vfsub
  | vfmul
  | vfmin
  | vfmax
  | vfabs
  | vfneg
  | vfeq
  | vflt
  | vfle
  | vfma
  | vfms
  | vfnma
  | vfnms
  | vcvt
  | vpackBfp
  | vunpackBfp
  | vredsum
  | vfredsum
  | vredmax
  | vredmin
  | vfredmax
  | vfredmin
  | vredand
  | vredor
  | pand
  | por
  | pxor
  | pnot
  | pset
  | pclr
  | pcount
  | pfirst
  | vwhile
  | vwidth
  | sploop
  | vrot
  | vexp2
  | vlog2
  | vrcp
  | vrsqrt
  | vrand
  | vpop
  | vpush
  | vtopk
  | vbinpos
  | vbinclr
  | vbinrd
  | vsortkv
  | vaddi
  | vshli
  | vshri
  | vsrai
  | vli
  | bpAny
  | bpNone
  | bpAll
deriving DecidableEq, Repr

/-- The 1-bit field of a word that starts at bit `lo`. -/
def fin1 (w : BitVec 32) (lo : Nat) : Fin 2 := ⟨w.toNat / 2 ^ lo % 2, Nat.mod_lt _ (by decide)⟩

/-- The 2-bit field of a word that starts at bit `lo`. -/
def fin2 (w : BitVec 32) (lo : Nat) : Fin 4 := ⟨w.toNat / 2 ^ lo % 4, Nat.mod_lt _ (by decide)⟩

/-- The 3-bit field of a word that starts at bit `lo`. -/
def fin3 (w : BitVec 32) (lo : Nat) : Fin 8 := ⟨w.toNat / 2 ^ lo % 8, Nat.mod_lt _ (by decide)⟩

/-- The 4-bit field of a word that starts at bit `lo`. -/
def fin4 (w : BitVec 32) (lo : Nat) : Fin 16 := ⟨w.toNat / 2 ^ lo % 16, Nat.mod_lt _ (by decide)⟩

/-- The 5-bit field of a word that starts at bit `lo`. -/
def fin5 (w : BitVec 32) (lo : Nat) : Fin 32 := ⟨w.toNat / 2 ^ lo % 32, Nat.mod_lt _ (by decide)⟩

/-- Major 0x01 on S, A, X, W (R58). -/
def decSAXW01 (w : BitVec 32) : Option Row :=
  if fld w 16 10 = 0 then (if fld w 0 16 = 0 then some .nop else some .dly) else none

/-- Major 0x02 on S, A, X, W (R131). -/
def decSAXW02 (w : BitVec 32) : Option Row :=
  if fld w 25 1 = 0 then some .waits else none

/-- Major 0x03 on S, A, X, W (R131). -/
def decSAXW03 (w : BitVec 32) : Option Row :=
  match fld w 0 11 with
  | 0 => if fld w 25 1 = 0 ∧ fld w 11 10 = 0 then some .sinc else none
  | 1 => if fld w 25 1 = 0 ∧ fld w 11 5 = 0 then some .sadd else none
  | 2 => if fld w 25 1 = 0 ∧ fld w 11 5 = 0 then some .sset else none
  | 3 => if fld w 20 1 = 0 ∧ fld w 11 5 = 0 then some .sread else none
  | 4 => if fld w 20 1 = 0 ∧ fld w 11 5 = 0 then some .spend else none
  | _ => none

/-- Major 0x04 on S, A, X, W (R119). -/
def decSAXW04 (w : BitVec 32) : Option Row :=
  match fld w 24 2 with
  | 0 => some .j
  | 1 => some .jal
  | _ => none

/-- Major 0x05 on S, A, X, W (R119). -/
def decSAXW05 (w : BitVec 32) : Option Row :=
  match fld w 0 11 with
  | 0 => if fld w 21 5 = 0 ∧ fld w 11 5 = 0 then some .jr else none
  | 1 => if fld w 11 5 = 0 then some .jalr else none
  | _ => none

/-- Major 0x08 on S, A, W (R125). -/
def decSAW08 (w : BitVec 32) : Option Row :=
  if fld w 21 5 = 0 ∧ fld w 2 14 = 0 then some .bpush else none

/-- Major 0x0F on S (R134). -/
def decS0F (w : BitVec 32) : Option Row :=
  if fld w 0 26 = 0 then some .sstop else none

/-- Major 0x10 on S (R98, R99, R100). -/
def decS10 (w : BitVec 32) : Option Row :=
  match fld w 0 11 with
  | 0 => some .add
  | 1 => some .sub
  | 2 => some .mul
  | 3 => some .mulh
  | 4 => some .mulhn
  | 5 => some .div
  | 6 => some .divn
  | 7 => some .rem
  | 8 => some .remn
  | 9 => some .and
  | 10 => some .or
  | 11 => some .xor
  | 12 => some .shl
  | 13 => some .shr
  | 14 => some .sra
  | 15 => some .slt
  | 16 => some .sltn
  | 17 => some .min
  | 18 => some .max
  | 19 => some .minn
  | 20 => some .maxn
  | 21 => some .sel
  | 22 => if fld w 11 5 = 0 then some .clz else none
  | 23 => if fld w 11 5 = 0 then some .ctz else none
  | 24 => if fld w 11 5 = 0 then some .popc else none
  | 25 => if fld w 11 5 = 0 then some .rev else none
  | 26 => if fld w 11 5 = 0 then some .bswap else none
  | 27 => if fld w 11 5 = 0 then some .sextB else none
  | 28 => if fld w 11 5 = 0 then some .sextH else none
  | 29 => if fld w 11 5 = 0 then some .sextW else none
  | 30 => if fld w 11 5 = 0 then some .zextW else none
  | _ => none

/-- Major 0x16 on S, A, W (R103). -/
def decSAW16 (w : BitVec 32) : Option Row :=
  match fld w 6 2 with
  | 0 => if fld w 8 8 = 0 then some .shli else none
  | 1 => if fld w 8 8 = 0 then some .shri else none
  | 2 => if fld w 8 8 = 0 then some .srai else none
  | _ => none

/-- Major 0x18 on S, A, W (R106). -/
def decSAW18 (w : BitVec 32) : Option Row :=
  if fld w 16 5 = 0 then some .addpc else none

/-- Major 0x19 on S, A, W (R105). -/
def decSAW19 (w : BitVec 32) : Option Row :=
  if fld w 0 21 = 0 then some .li else none

/-- Major 0x1A on S (R107). -/
def decS1A (w : BitVec 32) : Option Row :=
  match fld w 12 2 with
  | 0 => if fld w 14 2 = 0 then some .bfx else none
  | 1 => if fld w 14 2 = 0 then some .bfxs else none
  | 2 => if fld w 14 2 = 0 then some .bfi else none
  | _ => none

/-- Major 0x1B on S (R110). -/
def decS1B (w : BitVec 32) : Option Row :=
  if fld w 14 2 = 0 ∧ fld w 0 11 = 0 then some .bnet else none

/-- Major 0x1C on S (R111). -/
def decS1C (w : BitVec 32) : Option Row :=
  if fld w 24 2 = 0 ∧ fld w 0 16 = 0 then some .bnld else none

/-- Major 0x1D on S (R113, R114, R115). -/
def decS1D (w : BitVec 32) : Option Row :=
  match fld w 0 11 with
  | 0 => some .fadd
  | 1 => some .fsub
  | 2 => some .fmul
  | 3 => some .fmin
  | 4 => some .fmax
  | 5 => some .feq
  | 6 => some .flt
  | 7 => some .fle
  | 8 => if fld w 11 5 = 0 then some .fcvtIF else none
  | 9 => if fld w 11 5 = 0 then some .fcvtFI else none
  | _ => none

/-- Major 0x1E on S (R116). -/
def decS1E (w : BitVec 32) : Option Row :=
  if fld w 0 11 = 0 then some .fmadd else none

/-- Major 0x20 on S (R307). -/
def decS20 (w : BitVec 32) : Option Row :=
  match fld w 12 2 with
  | 0 => if fld w 14 7 = 0 then some .csrr else none
  | 1 => if fld w 21 5 = 0 ∧ fld w 14 2 = 0 then some .csrw else none
  | 2 => if fld w 21 5 = 0 ∧ fld w 14 2 = 0 then some .csrs else none
  | 3 => if fld w 21 5 = 0 ∧ fld w 14 2 = 0 then some .csrc else none
  | _ => none

/-- Major 0x21 on S (R315, R316). -/
def decS21 (w : BitVec 32) : Option Row :=
  match fld w 0 11 with
  | 0 => if fld w 11 15 = 0 then some .ecall else none
  | 1 => if fld w 11 15 = 0 then some .ebreak else none
  | 2 => if fld w 11 15 = 0 then some .tret else none
  | 3 => if fld w 11 15 = 0 then some .wfm else none
  | 4 => if fld w 11 15 = 0 then some .halt else none
  | 5 => if fld w 11 15 = 0 then some .fenceI else none
  | _ => none

/-- Major 0x22 on S (R321, R322). -/
def decS22 (w : BitVec 32) : Option Row :=
  match fld w 0 11 with
  | 0 => if fld w 21 5 = 0 ∧ fld w 11 5 = 0 then some .ctxsw else none
  | 1 => if fld w 21 5 = 0 then some .ctxst else none
  | 2 => if fld w 21 5 = 0 then some .ctxld else none
  | _ => none

/-- Major 0x23 on S (R325). -/
def decS23 (w : BitVec 32) : Option Row :=
  match fld w 0 11 with
  | 0 => if fld w 21 5 = 0 then some .rqpush else none
  | 1 => if fld w 11 10 = 0 then some .rqpop else none
  | 2 => if fld w 21 5 = 0 ∧ fld w 11 5 = 0 then some .rqpark else none
  | 3 => if fld w 11 5 = 0 then some .rqstate else none
  | _ => none

/-- Major 0x24 on S (R327). -/
def decS24 (w : BitVec 32) : Option Row :=
  if fld w 21 5 = 0 ∧ fld w 0 11 = 0 then some .tmset else none

/-- Major 0x25 on S (R329). -/
def decS25 (w : BitVec 32) : Option Row :=
  match fld w 0 11 with
  | 0 => if fld w 21 5 = 0 then some .wlock else none
  | 1 => if fld w 21 5 = 0 ∧ fld w 11 5 = 0 then some .wunlock else none
  | _ => none

/-- Major 0x26 on S (R294). -/
def decS26 (w : BitVec 32) : Option Row :=
  if fld w 4 7 = 0 then some .msg else none

/-- Major 0x28 on S (R230). -/
def decS28 (w : BitVec 32) : Option Row :=
  if fld w 12 14 = 0 then some .mcfg else none

/-- Major 0x29 on S (R230). -/
def decS29 (w : BitVec 32) : Option Row :=
  if fld w 21 5 = 0 ∧ fld w 12 4 = 0 then some .mcfgr else none

/-- Major 0x2A on S (R227). -/
def decS2A (w : BitVec 32) : Option Row :=
  if fld w 21 5 = 0 ∧ fld w 0 16 = 0 then some .mfmt else none

/-- Major 0x2B on S (R235). -/
def decS2B (w : BitVec 32) : Option Row :=
  if fld w 25 1 = 0 ∧ fld w 4 17 = 0 then some .mgo else none

/-- Major 0x2C on S (R239). -/
def decS2C (w : BitVec 32) : Option Row :=
  if fld w 25 1 = 0 ∧ fld w 0 11 = 0 then some .mgrp else none

/-- Major 0x2D on S (R237). -/
def decS2D (w : BitVec 32) : Option Row :=
  if fld w 25 1 = 0 ∧ fld w 1 10 = 0 then some .mwld else none

/-- Major 0x2E on S (R238, R245, R249). -/
def decS2E (w : BitVec 32) : Option Row :=
  match fld w 0 11 with
  | 0 => if fld w 21 5 = 0 ∧ fld w 11 5 = 0 then some .mzero else none
  | 1 => if fld w 25 1 = 0 then some .mrd else none
  | 2 => if fld w 11 15 = 0 then some .mresume else none
  | 3 => if fld w 11 10 = 0 then some .mstat else none
  | _ => none

/-- Major 0x30 on S (R281, R283, R284). -/
def decS30 (w : BitVec 32) : Option Row :=
  match fld w 0 11 with
  | 0 => if fld w 25 1 = 0 ∧ fld w 11 5 = 0 then some .cpy else none
  | 1 => if fld w 25 1 = 0 ∧ fld w 11 5 = 0 then some .cpyTopk else none
  | 2 => if fld w 25 1 = 0 ∧ fld w 11 5 = 0 then some .cpyPack else none
  | _ => none

/-- Major 0x31 on S (R289). -/
def decS31 (w : BitVec 32) : Option Row :=
  if fld w 25 1 = 0 ∧ fld w 0 11 = 0 then some .xperm else none

/-- Major 0x32 on S (R292). -/
def decS32 (w : BitVec 32) : Option Row :=
  if fld w 25 1 = 0 ∧ fld w 0 11 = 0 then some .xsend else none

/-- Major 0x33 on S (R287, R293). -/
def decS33 (w : BitVec 32) : Option Row :=
  match fld w 0 11 with
  | 0 => if fld w 21 5 = 0 ∧ fld w 11 5 = 0 then some .xrcfg else none
  | 1 => if fld w 11 5 = 0 then some .xrpop else none
  | 2 => if fld w 11 10 = 0 then some .xrstat else none
  | _ => none

/-- Major 0x34 on S (R300). -/
def decS34 (w : BitVec 32) : Option Row :=
  match fld w 0 11 with
  | 0 => if fld w 21 5 = 0 ∧ fld w 11 5 = 0 then some .barArr else none
  | 1 => if fld w 25 1 = 0 ∧ fld w 11 5 = 0 then some .barWait else none
  | 2 => if fld w 25 1 = 0 ∧ fld w 11 5 = 0 then some .barSync else none
  | _ => none

/-- Major 0x35 on S (R303). -/
def decS35 (w : BitVec 32) : Option Row :=
  if fld w 25 1 = 0 ∧ fld w 0 11 = 0 then some .xsum else none

/-- Major 0x38 on S (R256, R259). -/
def decS38 (w : BitVec 32) : Option Row :=
  match fld w 0 11 with
  | 0 => if fld w 25 1 = 0 ∧ fld w 11 5 = 0 then some .selr else none
  | 1 => if fld w 25 1 = 0 ∧ fld w 11 5 = 0 then some .selc else none
  | _ => none

/-- Major 0x39 on S (R269). -/
def decS39 (w : BitVec 32) : Option Row :=
  if fld w 24 2 = 0 ∧ fld w 0 16 = 0 then some .sdecl else none

/-- Major 0x3A on S (R271). -/
def decS3A (w : BitVec 32) : Option Row :=
  if fld w 24 2 = 0 ∧ fld w 15 6 = 0 ∧ fld w 0 11 = 0 then some .sweep else none

/-- Major 0x3B on S (R267). -/
def decS3B (w : BitVec 32) : Option Row :=
  if fld w 24 2 = 0 ∧ fld w 0 16 = 0 then some .swake else none

/-- Major 0x3C on S (R270). -/
def decS3C (w : BitVec 32) : Option Row :=
  if fld w 19 2 = 0 ∧ fld w 0 16 = 0 then some .sstat else none

/-- Major 0x3D on S (R336). -/
def decS3D (w : BitVec 32) : Option Row :=
  match fld w 21 2 with
  | 0 => if fld w 23 3 = 0 ∧ fld w 16 5 = 0 then some .rpush else none
  | 1 => if fld w 23 3 = 0 ∧ fld w 16 5 = 0 then some .rpop else none
  | 2 => if fld w 23 3 = 0 ∧ fld w 16 5 = 0 then some .mark else none
  | _ => none

/-- Major 0x3E on S (R365). -/
def decS3E (w : BitVec 32) : Option Row :=
  if fld w 25 1 = 0 ∧ fld w 0 16 = 0 then some .gsub else none

/-- Major 0x0F on A, X, W (R134). -/
def decAXW0F (w : BitVec 32) : Option Row :=
  match fld w 0 11 with
  | 0 => if fld w 11 15 = 0 then some .sstop else none
  | 1 => if fld w 11 15 = 0 then some .sjoin else none
  | _ => none

/-- Major 0x10 on A, W (R98). -/
def decAW10 (w : BitVec 32) : Option Row :=
  match fld w 0 11 with
  | 0 => some .add
  | 1 => some .sub
  | 2 => some .mul
  | 9 => some .and
  | 10 => some .or
  | 11 => some .xor
  | 12 => some .shl
  | 13 => some .shr
  | 14 => some .sra
  | 21 => some .sel
  | _ => none

/-- Major 0x28 on A (R150). -/
def decA28 (w : BitVec 32) : Option Row :=
  if fld w 21 5 = 0 then some .ldQ else none

/-- Major 0x29 on A (R152). -/
def decA29 (w : BitVec 32) : Option Row :=
  if fld w 9 2 = 0 then some .ldgV else none

/-- Major 0x2A on A (R152). -/
def decA2A (w : BitVec 32) : Option Row :=
  if fld w 21 5 = 0 ∧ fld w 9 2 = 0 then some .ldgQ else none

/-- Major 0x2D on A (R157). -/
def decA2D (w : BitVec 32) : Option Row :=
  match fld w 0 4 with
  | 0 => if fld w 9 2 = 0 then some .amoAdd else none
  | 1 => if fld w 9 2 = 0 then some .amoAnd else none
  | 2 => if fld w 9 2 = 0 then some .amoOr else none
  | 3 => if fld w 9 2 = 0 then some .amoXor else none
  | 4 => if fld w 9 2 = 0 then some .amoMin else none
  | 5 => if fld w 9 2 = 0 then some .amoMax else none
  | 6 => if fld w 9 2 = 0 then some .amoMinn else none
  | 7 => if fld w 9 2 = 0 then some .amoMaxn else none
  | 8 => if fld w 9 2 = 0 then some .amoSwap else none
  | 9 => if fld w 9 2 = 0 then some .amoCas else none
  | 10 => if fld w 9 2 = 0 ∧ fld w 4 1 = 0 then some .amoFadd else none
  | _ => none

/-- Major 0x2E on A (R159). -/
def decA2E (w : BitVec 32) : Option Row :=
  if fld w 10 6 = 0 then some .ldblk else none

/-- Major 0x2F on A (R160). -/
def decA2F (w : BitVec 32) : Option Row :=
  match fld w 0 11 with
  | 0 => if fld w 21 5 = 0 ∧ fld w 11 5 = 0 then some .bfree else none
  | 1 => if fld w 11 5 = 0 then some .bstat else none
  | 2 => if fld w 25 1 = 0 ∧ fld w 11 5 = 0 then some .bdrain else none
  | _ => none

/-- Major 0x30 on A, W (R145). -/
def decAW30 (w : BitVec 32) : Option Row :=
  if fld w 24 2 = 0 ∧ fld w 0 11 = 0 then some .mmod else none

/-- Major 0x08 on X (R125). -/
def decX08 (w : BitVec 32) : Option Row :=
  match fld w 2 1 with
  | 0 => if fld w 21 5 = 0 ∧ fld w 3 13 = 0 then some .bpush else none
  | 1 => if fld w 19 7 = 0 ∧ fld w 3 13 = 0 then some .bpushP else none
  | _ => none

/-- Major 0x10 on X (R202). -/
def decX10 (w : BitVec 32) : Option Row :=
  match fld w 0 4 with
  | 0 => if fld w 7 1 = 0 then some .vadd else none
  | 1 => if fld w 7 1 = 0 then some .vsub else none
  | 2 => if fld w 7 1 = 0 then some .vmul else none
  | 3 => if fld w 7 1 = 0 then some .vmulh else none
  | 4 => if fld w 7 1 = 0 then some .vand else none
  | 5 => if fld w 7 1 = 0 then some .vor else none
  | 6 => if fld w 7 1 = 0 then some .vxor else none
  | 7 => if fld w 7 1 = 0 then some .vshl else none
  | 8 => if fld w 7 1 = 0 then some .vshr else none
  | 9 => if fld w 7 1 = 0 then some .vsra else none
  | 10 => if fld w 7 1 = 0 then some .vmin else none
  | 11 => if fld w 7 1 = 0 then some .vmax else none
  | 12 => if fld w 11 5 = 0 ∧ fld w 7 1 = 0 then some .vabs else none
  | 13 => if fld w 11 5 = 0 ∧ fld w 7 1 = 0 then some .vneg else none
  | 14 => if fld w 7 1 = 0 then some .vadds else none
  | 15 => if fld w 7 1 = 0 then some .vsubs else none
  | _ => none

/-- Major 0x11 on X (R205). -/
def decX11 (w : BitVec 32) : Option Row :=
  match fld w 0 4 with
  | 0 => if fld w 11 5 = 0 then some .vmov else none
  | 1 => some .vsel
  | 2 => some .vshuf
  | 3 => some .vslide
  | 4 => some .vzip
  | 5 => some .vunzip
  | 6 => if fld w 11 5 = 0 ∧ fld w 7 1 = 0 then some .vidx else none
  | 7 => if fld w 11 5 = 0 then some .vbcast else none
  | 8 => if fld w 8 3 = 0 then some .vext else none
  | 9 => if fld w 8 3 = 0 then some .vins else none
  | 10 => if fld w 11 5 = 0 then some .vnot else none
  | 11 => if fld w 11 5 = 0 ∧ fld w 7 1 = 0 then some .vclz else none
  | 12 => if fld w 11 5 = 0 ∧ fld w 7 1 = 0 then some .vpopc else none
  | _ => none

/-- Major 0x12 on X (R204). -/
def decX12 (w : BitVec 32) : Option Row :=
  match fld w 0 4 with
  | 0 => if fld w 24 2 = 0 ∧ fld w 7 1 = 0 then some .vcmpEq else none
  | 1 => if fld w 24 2 = 0 ∧ fld w 7 1 = 0 then some .vcmpNe else none
  | 2 => if fld w 24 2 = 0 ∧ fld w 7 1 = 0 then some .vcmpLt else none
  | 3 => if fld w 24 2 = 0 ∧ fld w 7 1 = 0 then some .vcmpLe else none
  | 4 => if fld w 24 2 = 0 ∧ fld w 7 1 = 0 then some .vcmpGt else none
  | 5 => if fld w 24 2 = 0 ∧ fld w 7 1 = 0 then some .vcmpGe else none
  | _ => none

/-- Major 0x13 on X (R206). -/
def decX13 (w : BitVec 32) : Option Row :=
  match fld w 0 4 with
  | 0 => if fld w 5 3 = 4 then some .vfadd else none
  | 1 => if fld w 5 3 = 4 then some .vfsub else none
  | 2 => if fld w 5 3 = 4 then some .vfmul else none
  | 3 => if fld w 5 3 = 4 then some .vfmin else none
  | 4 => if fld w 5 3 = 4 then some .vfmax else none
  | 5 => if fld w 11 5 = 0 ∧ fld w 5 3 = 4 then some .vfabs else none
  | 6 => if fld w 11 5 = 0 ∧ fld w 5 3 = 4 then some .vfneg else none
  | 7 => if fld w 24 2 = 0 ∧ fld w 5 3 = 4 then some .vfeq else none
  | 8 => if fld w 24 2 = 0 ∧ fld w 5 3 = 4 then some .vflt else none
  | 9 => if fld w 24 2 = 0 ∧ fld w 5 3 = 4 then some .vfle else none
  | _ => none

/-- Major 0x14 on X (R207). -/
def decX14 (w : BitVec 32) : Option Row :=
  match fld w 0 4 with
  | 0 => if fld w 5 3 = 4 then some .vfma else none
  | 1 => if fld w 5 3 = 4 then some .vfms else none
  | 2 => if fld w 5 3 = 4 then some .vfnma else none
  | 3 => if fld w 5 3 = 4 then some .vfnms else none
  | _ => none

/-- Major 0x15 on X (R208). -/
def decX15 (w : BitVec 32) : Option Row :=
  if fld w 11 5 = 0 then some .vcvt else none

/-- Major 0x16 on X (R209). -/
def decX16 (w : BitVec 32) : Option Row :=
  match fld w 0 4 with
  | 0 => if fld w 4 4 = 9 then some .vpackBfp else none
  | 1 => if fld w 4 4 = 9 then some .vunpackBfp else none
  | _ => none

/-- Major 0x17 on X (R210). -/
def decX17 (w : BitVec 32) : Option Row :=
  match fld w 0 4 with
  | 0 => if fld w 11 5 = 0 ∧ fld w 7 1 = 0 then some .vredsum else none
  | 1 => if fld w 11 5 = 0 ∧ fld w 5 3 = 4 then some .vfredsum else none
  | 2 => if fld w 11 5 = 0 ∧ fld w 7 1 = 0 then some .vredmax else none
  | 3 => if fld w 11 5 = 0 ∧ fld w 7 1 = 0 then some .vredmin else none
  | 4 => if fld w 11 5 = 0 ∧ fld w 5 3 = 4 then some .vfredmax else none
  | 5 => if fld w 11 5 = 0 ∧ fld w 5 3 = 4 then some .vfredmin else none
  | 6 => if fld w 11 5 = 0 ∧ fld w 7 1 = 0 then some .vredand else none
  | 7 => if fld w 11 5 = 0 ∧ fld w 7 1 = 0 then some .vredor else none
  | _ => none

/-- Major 0x18 on X (R201). -/
def decX18 (w : BitVec 32) : Option Row :=
  match fld w 0 11 with
  | 0 => if fld w 24 2 = 0 ∧ fld w 19 2 = 0 ∧ fld w 14 2 = 0 then some .pand else none
  | 1 => if fld w 24 2 = 0 ∧ fld w 19 2 = 0 ∧ fld w 14 2 = 0 then some .por else none
  | 2 => if fld w 24 2 = 0 ∧ fld w 19 2 = 0 ∧ fld w 14 2 = 0 then some .pxor else none
  | 3 => if fld w 24 2 = 0 ∧ fld w 19 2 = 0 ∧ fld w 11 5 = 0 then some .pnot else none
  | 4 => if fld w 24 2 = 0 ∧ fld w 11 10 = 0 then some .pset else none
  | 5 => if fld w 24 2 = 0 ∧ fld w 11 10 = 0 then some .pclr else none
  | 6 => if fld w 19 2 = 0 ∧ fld w 11 5 = 0 then some .pcount else none
  | 7 => if fld w 19 2 = 0 ∧ fld w 11 5 = 0 then some .pfirst else none
  | _ => none

/-- Major 0x19 on X (R199). -/
def decX19 (w : BitVec 32) : Option Row :=
  if fld w 24 2 = 0 ∧ fld w 4 7 = 0 then some .vwhile else none

/-- Major 0x1A on X (R200). -/
def decX1A (w : BitVec 32) : Option Row :=
  if fld w 0 21 = 0 then some .vwidth else none

/-- Major 0x1B on X (R217, R218). -/
def decX1B (w : BitVec 32) : Option Row :=
  match fld w 21 1 with
  | 0 => if fld w 22 4 = 0 ∧ fld w 16 5 = 0 then some .sploop else none
  | 1 => if fld w 22 4 = 0 ∧ fld w 4 17 = 0 then some .vrot else none
  | _ => none

/-- Major 0x1C on X (R211). -/
def decX1C (w : BitVec 32) : Option Row :=
  match fld w 0 4 with
  | 0 => if fld w 15 1 = 0 ∧ fld w 4 4 = 9 then some .vexp2 else none
  | 1 => if fld w 15 1 = 0 ∧ fld w 4 4 = 9 then some .vlog2 else none
  | 2 => if fld w 15 1 = 0 ∧ fld w 4 4 = 9 then some .vrcp else none
  | 3 => if fld w 15 1 = 0 ∧ fld w 4 4 = 9 then some .vrsqrt else none
  | _ => none

/-- Major 0x1D on X (R214). -/
def decX1D (w : BitVec 32) : Option Row :=
  if fld w 11 10 = 0 ∧ fld w 0 8 = 96 then some .vrand else none

/-- Major 0x1E on X (R215). -/
def decX1E (w : BitVec 32) : Option Row :=
  match fld w 0 11 with
  | 0 => if fld w 11 10 = 0 then some .vpop else none
  | 1 => if fld w 21 5 = 0 ∧ fld w 11 5 = 0 then some .vpush else none
  | _ => none

/-- Major 0x1F on X (R251, R252, R253). -/
def decX1F (w : BitVec 32) : Option Row :=
  match fld w 0 4 with
  | 0 => some .vtopk
  | 1 => if fld w 11 5 = 0 ∧ fld w 6 2 = 1 then some .vbinpos else none
  | 2 => if fld w 4 22 = 0 then some .vbinclr else none
  | 3 => if fld w 4 12 = 5 then some .vbinrd else none
  | 4 => if fld w 14 2 = 0 ∧ fld w 5 3 = 3 then some .vsortkv else none
  | _ => none

/-- Major 0x20 on X (R203). -/
def decX20 (w : BitVec 32) : Option Row :=
  if fld w 12 1 = 0 then some .vaddi else none

/-- Major 0x21 on X (R203). -/
def decX21 (w : BitVec 32) : Option Row :=
  if fld w 12 1 = 0 then some .vshli else none

/-- Major 0x22 on X (R203). -/
def decX22 (w : BitVec 32) : Option Row :=
  if fld w 12 1 = 0 then some .vshri else none

/-- Major 0x23 on X (R203). -/
def decX23 (w : BitVec 32) : Option Row :=
  if fld w 12 1 = 0 then some .vsrai else none

/-- Major 0x24 on X (R203). -/
def decX24 (w : BitVec 32) : Option Row :=
  if fld w 16 5 = 0 ∧ fld w 12 1 = 0 then some .vli else none

/-- Major 0x25 on X (R121). -/
def decX25 (w : BitVec 32) : Option Row :=
  match fld w 16 5 with
  | 0 => if fld w 24 2 = 0 then some .bpAny else none
  | 1 => if fld w 24 2 = 0 then some .bpNone else none
  | 2 => if fld w 24 2 = 0 then some .bpAll else none
  | _ => none

/-- Major 0x28 on W (R150). -/
def decW28 (w : BitVec 32) : Option Row :=
  if fld w 21 5 = 0 then some .stQ else none

/-- Major 0x29 on W (R152). -/
def decW29 (w : BitVec 32) : Option Row :=
  if fld w 9 2 = 0 then some .stsV else none

/-- Major 0x2A on W (R152). -/
def decW2A (w : BitVec 32) : Option Row :=
  if fld w 21 5 = 0 ∧ fld w 9 2 = 0 then some .stsQ else none

/-- Major 0x2D on W (R192). -/
def decW2D (w : BitVec 32) : Option Row :=
  if fld w 25 1 = 0 ∧ fld w 0 16 = 0 then some .pub else none

/-- The opcode space of S (R48, R49). -/
def rowS (w : BitVec 32) : Option Row :=
  match fld w 26 6 with
  | 1 => decSAXW01 w
  | 2 => decSAXW02 w
  | 3 => decSAXW03 w
  | 4 => decSAXW04 w
  | 5 => decSAXW05 w
  | 6 => some .jtab
  | 7 => some .bq
  | 8 => decSAW08 w
  | 9 => some .beq
  | 10 => some .bne
  | 11 => some .blt
  | 12 => some .bge
  | 13 => some .bltn
  | 14 => some .bgen
  | 15 => decS0F w
  | 16 => decS10 w
  | 17 => some .addi
  | 18 => some .andi
  | 19 => some .ori
  | 20 => some .xori
  | 21 => some .slti
  | 22 => decSAW16 w
  | 23 => some .lih
  | 24 => decSAW18 w
  | 25 => decSAW19 w
  | 26 => decS1A w
  | 27 => decS1B w
  | 28 => decS1C w
  | 29 => decS1D w
  | 30 => decS1E w
  | 32 => decS20 w
  | 33 => decS21 w
  | 34 => decS22 w
  | 35 => decS23 w
  | 36 => decS24 w
  | 37 => decS25 w
  | 38 => decS26 w
  | 40 => decS28 w
  | 41 => decS29 w
  | 42 => decS2A w
  | 43 => decS2B w
  | 44 => decS2C w
  | 45 => decS2D w
  | 46 => decS2E w
  | 48 => decS30 w
  | 49 => decS31 w
  | 50 => decS32 w
  | 51 => decS33 w
  | 52 => decS34 w
  | 53 => decS35 w
  | 56 => decS38 w
  | 57 => decS39 w
  | 58 => decS3A w
  | 59 => decS3B w
  | 60 => decS3C w
  | 61 => decS3D w
  | 62 => decS3E w
  | _ => none

/-- The opcode space of A (R48, R51, R52). -/
def rowA (w : BitVec 32) : Option Row :=
  match fld w 26 6 with
  | 1 => decSAXW01 w
  | 2 => decSAXW02 w
  | 3 => decSAXW03 w
  | 4 => decSAXW04 w
  | 5 => decSAXW05 w
  | 6 => some .jtab
  | 7 => some .bq
  | 8 => decSAW08 w
  | 9 => some .beq
  | 10 => some .bne
  | 11 => some .blt
  | 12 => some .bge
  | 13 => some .bltn
  | 14 => some .bgen
  | 15 => decAXW0F w
  | 16 => decAW10 w
  | 17 => some .addi
  | 22 => decSAW16 w
  | 23 => some .lih
  | 24 => decSAW18 w
  | 25 => decSAW19 w
  | 32 => some .ldB
  | 33 => some .ldH
  | 34 => some .ldW
  | 35 => some .ldD
  | 36 => some .ldBn
  | 37 => some .ldHn
  | 38 => some .ldWn
  | 39 => some .ldV
  | 40 => decA28 w
  | 41 => decA29 w
  | 42 => decA2A w
  | 43 => some .ldfe
  | 44 => some .ldff
  | 45 => decA2D w
  | 46 => decA2E w
  | 47 => decA2F w
  | 48 => decAW30 w
  | _ => none

/-- The opcode space of X (R48, R54). -/
def rowX (w : BitVec 32) : Option Row :=
  match fld w 26 6 with
  | 1 => decSAXW01 w
  | 2 => decSAXW02 w
  | 3 => decSAXW03 w
  | 4 => decSAXW04 w
  | 5 => decSAXW05 w
  | 6 => some .jtab
  | 7 => some .bq
  | 8 => decX08 w
  | 9 => some .beq
  | 10 => some .bne
  | 11 => some .blt
  | 12 => some .bge
  | 13 => some .bltn
  | 14 => some .bgen
  | 15 => decAXW0F w
  | 16 => decX10 w
  | 17 => decX11 w
  | 18 => decX12 w
  | 19 => decX13 w
  | 20 => decX14 w
  | 21 => decX15 w
  | 22 => decX16 w
  | 23 => decX17 w
  | 24 => decX18 w
  | 25 => decX19 w
  | 26 => decX1A w
  | 27 => decX1B w
  | 28 => decX1C w
  | 29 => decX1D w
  | 30 => decX1E w
  | 31 => decX1F w
  | 32 => decX20 w
  | 33 => decX21 w
  | 34 => decX22 w
  | 35 => decX23 w
  | 36 => decX24 w
  | 37 => decX25 w
  | _ => none

/-- The opcode space of W (R48, R51, R53). -/
def rowW (w : BitVec 32) : Option Row :=
  match fld w 26 6 with
  | 1 => decSAXW01 w
  | 2 => decSAXW02 w
  | 3 => decSAXW03 w
  | 4 => decSAXW04 w
  | 5 => decSAXW05 w
  | 6 => some .jtab
  | 7 => some .bq
  | 8 => decSAW08 w
  | 9 => some .beq
  | 10 => some .bne
  | 11 => some .blt
  | 12 => some .bge
  | 13 => some .bltn
  | 14 => some .bgen
  | 15 => decAXW0F w
  | 16 => decAW10 w
  | 17 => some .addi
  | 22 => decSAW16 w
  | 23 => some .lih
  | 24 => decSAW18 w
  | 25 => decSAW19 w
  | 32 => some .stB
  | 33 => some .stH
  | 34 => some .stW
  | 35 => some .stD
  | 39 => some .stV
  | 40 => decW28 w
  | 41 => decW29 w
  | 42 => decW2A w
  | 43 => some .stfe
  | 44 => some .stff
  | 45 => decW2D w
  | 48 => decAW30 w
  | _ => none

/-- The row of the opcode map that sequencer `q` finds for the word `w` (R47). -/
def rowOf (q : Seq) (w : BitVec 32) : Option Row :=
  match q with
  | .s => rowS w
  | .a => rowA w
  | .x => rowX w
  | .w => rowW w

/-- The instruction of a row with the operands that the word `w` and its K word `k` hold (R41 to R43). -/
noncomputable def Row.build (r : Row) (w k : BitVec 32) : Instr :=
  match r with
  | .dly => .dly (w.extractLsb' 0 16)
  | .nop => .nop
  | .waits => .waits (fin4 w 21) (fin5 w 16) (w.extractLsb' 0 16)
  | .sinc => .sinc (fin4 w 21)
  | .sadd => .sadd (fin4 w 21) (fin5 w 16)
  | .sset => .sset (fin4 w 21) (fin5 w 16)
  | .sread => .sread (fin5 w 21) (fin4 w 16)
  | .spend => .spend (fin5 w 21) (fin4 w 16)
  | .j => .j (w.extractLsb' 0 24)
  | .jal => .jal (w.extractLsb' 0 24)
  | .jr => .jr (fin5 w 16)
  | .jalr => .jalr (fin5 w 21) (fin5 w 16)
  | .jtab => .jtab (fin5 w 21) (fin5 w 16) (w.extractLsb' 0 16)
  | .bq => .bq (fin2 w 24) (w.extractLsb' 0 24)
  | .bpush => .bpush (fin5 w 16) (fin2 w 0)
  | .bpushP => .bpushP (fin3 w 16) (fin2 w 0)
  | .beq => .beq (fin5 w 21) (fin5 w 16) (fin2 w 14) (w.extractLsb' 0 14)
  | .bne => .bne (fin5 w 21) (fin5 w 16) (fin2 w 14) (w.extractLsb' 0 14)
  | .blt => .blt (fin5 w 21) (fin5 w 16) (fin2 w 14) (w.extractLsb' 0 14)
  | .bge => .bge (fin5 w 21) (fin5 w 16) (fin2 w 14) (w.extractLsb' 0 14)
  | .bltn => .bltn (fin5 w 21) (fin5 w 16) (fin2 w 14) (w.extractLsb' 0 14)
  | .bgen => .bgen (fin5 w 21) (fin5 w 16) (fin2 w 14) (w.extractLsb' 0 14)
  | .sstop => .sstop
  | .sjoin => .sjoin
  | .add => .add (fin5 w 21) (fin5 w 16) (fin5 w 11)
  | .sub => .sub (fin5 w 21) (fin5 w 16) (fin5 w 11)
  | .mul => .mul (fin5 w 21) (fin5 w 16) (fin5 w 11)
  | .mulh => .mulh (fin5 w 21) (fin5 w 16) (fin5 w 11)
  | .mulhn => .mulhn (fin5 w 21) (fin5 w 16) (fin5 w 11)
  | .div => .div (fin5 w 21) (fin5 w 16) (fin5 w 11)
  | .divn => .divn (fin5 w 21) (fin5 w 16) (fin5 w 11)
  | .rem => .rem (fin5 w 21) (fin5 w 16) (fin5 w 11)
  | .remn => .remn (fin5 w 21) (fin5 w 16) (fin5 w 11)
  | .and => .and (fin5 w 21) (fin5 w 16) (fin5 w 11)
  | .or => .or (fin5 w 21) (fin5 w 16) (fin5 w 11)
  | .xor => .xor (fin5 w 21) (fin5 w 16) (fin5 w 11)
  | .shl => .shl (fin5 w 21) (fin5 w 16) (fin5 w 11)
  | .shr => .shr (fin5 w 21) (fin5 w 16) (fin5 w 11)
  | .sra => .sra (fin5 w 21) (fin5 w 16) (fin5 w 11)
  | .slt => .slt (fin5 w 21) (fin5 w 16) (fin5 w 11)
  | .sltn => .sltn (fin5 w 21) (fin5 w 16) (fin5 w 11)
  | .min => .min (fin5 w 21) (fin5 w 16) (fin5 w 11)
  | .max => .max (fin5 w 21) (fin5 w 16) (fin5 w 11)
  | .minn => .minn (fin5 w 21) (fin5 w 16) (fin5 w 11)
  | .maxn => .maxn (fin5 w 21) (fin5 w 16) (fin5 w 11)
  | .sel => .sel (fin5 w 21) (fin5 w 16) (fin5 w 11)
  | .clz => .clz (fin5 w 21) (fin5 w 16)
  | .ctz => .ctz (fin5 w 21) (fin5 w 16)
  | .popc => .popc (fin5 w 21) (fin5 w 16)
  | .rev => .rev (fin5 w 21) (fin5 w 16)
  | .bswap => .bswap (fin5 w 21) (fin5 w 16)
  | .sextB => .sextB (fin5 w 21) (fin5 w 16)
  | .sextH => .sextH (fin5 w 21) (fin5 w 16)
  | .sextW => .sextW (fin5 w 21) (fin5 w 16)
  | .zextW => .zextW (fin5 w 21) (fin5 w 16)
  | .addi => .addi (fin5 w 21) (fin5 w 16) (w.extractLsb' 0 16)
  | .andi => .andi (fin5 w 21) (fin5 w 16) (w.extractLsb' 0 16)
  | .ori => .ori (fin5 w 21) (fin5 w 16) (w.extractLsb' 0 16)
  | .xori => .xori (fin5 w 21) (fin5 w 16) (w.extractLsb' 0 16)
  | .slti => .slti (fin5 w 21) (fin5 w 16) (w.extractLsb' 0 16)
  | .shli => .shli (fin5 w 21) (fin5 w 16) (w.extractLsb' 0 6)
  | .shri => .shri (fin5 w 21) (fin5 w 16) (w.extractLsb' 0 6)
  | .srai => .srai (fin5 w 21) (fin5 w 16) (w.extractLsb' 0 6)
  | .lih => .lih (fin5 w 21) (fin5 w 16) (w.extractLsb' 0 16)
  | .addpc => .addpc (fin5 w 21) (w.extractLsb' 0 16)
  | .li => .li (fin5 w 21) k
  | .bfx => .bfx (fin5 w 21) (fin5 w 16) (w.extractLsb' 6 6) (w.extractLsb' 0 6)
  | .bfxs => .bfxs (fin5 w 21) (fin5 w 16) (w.extractLsb' 6 6) (w.extractLsb' 0 6)
  | .bfi => .bfi (fin5 w 21) (fin5 w 16) (w.extractLsb' 6 6) (w.extractLsb' 0 6)
  | .bnet => .bnet (fin5 w 21) (fin5 w 16) (fin3 w 11)
  | .bnld => .bnld (fin3 w 21) (fin5 w 16)
  | .fadd => .fadd (fin5 w 21) (fin5 w 16) (fin5 w 11)
  | .fsub => .fsub (fin5 w 21) (fin5 w 16) (fin5 w 11)
  | .fmul => .fmul (fin5 w 21) (fin5 w 16) (fin5 w 11)
  | .fmin => .fmin (fin5 w 21) (fin5 w 16) (fin5 w 11)
  | .fmax => .fmax (fin5 w 21) (fin5 w 16) (fin5 w 11)
  | .feq => .feq (fin5 w 21) (fin5 w 16) (fin5 w 11)
  | .flt => .flt (fin5 w 21) (fin5 w 16) (fin5 w 11)
  | .fle => .fle (fin5 w 21) (fin5 w 16) (fin5 w 11)
  | .fcvtIF => .fcvtIF (fin5 w 21) (fin5 w 16)
  | .fcvtFI => .fcvtFI (fin5 w 21) (fin5 w 16)
  | .fmadd => .fmadd (fin5 w 21) (fin5 w 16) (fin5 w 11)
  | .csrr => .csrr (fin5 w 21) (w.extractLsb' 0 12)
  | .csrw => .csrw (fin5 w 16) (w.extractLsb' 0 12)
  | .csrs => .csrs (fin5 w 16) (w.extractLsb' 0 12)
  | .csrc => .csrc (fin5 w 16) (w.extractLsb' 0 12)
  | .ecall => .ecall
  | .ebreak => .ebreak
  | .tret => .tret
  | .wfm => .wfm
  | .halt => .halt
  | .fenceI => .fenceI
  | .ctxsw => .ctxsw (fin5 w 16)
  | .ctxst => .ctxst (fin5 w 16) (fin5 w 11)
  | .ctxld => .ctxld (fin5 w 16) (fin5 w 11)
  | .rqpush => .rqpush (fin5 w 16) (fin5 w 11)
  | .rqpop => .rqpop (fin5 w 21)
  | .rqpark => .rqpark (fin5 w 16)
  | .rqstate => .rqstate (fin5 w 21) (fin5 w 16)
  | .tmset => .tmset (fin5 w 16) (fin5 w 11)
  | .wlock => .wlock (fin5 w 16) (fin5 w 11)
  | .wunlock => .wunlock (fin5 w 16)
  | .msg => .msg (fin5 w 21) (fin5 w 16) (fin5 w 11) (fin4 w 0)
  | .mcfg => .mcfg (w.extractLsb' 0 12) k
  | .mcfgr => .mcfgr (fin5 w 16) (w.extractLsb' 0 12)
  | .mfmt => .mfmt (fin5 w 16)
  | .mgo => .mgo (fin4 w 21) (fin2 w 2) (fin2 w 0)
  | .mgrp => .mgrp (fin4 w 21) (fin5 w 16) (fin5 w 11)
  | .mwld => .mwld (fin4 w 21) (fin5 w 16) (fin5 w 11) (fin1 w 0)
  | .mzero => .mzero (fin5 w 16)
  | .mrd => .mrd (fin4 w 21) (fin5 w 16) (fin5 w 11)
  | .mresume => .mresume
  | .mstat => .mstat (fin5 w 21)
  | .cpy => .cpy (fin4 w 21) (fin5 w 16)
  | .cpyTopk => .cpyTopk (fin4 w 21) (fin5 w 16)
  | .cpyPack => .cpyPack (fin4 w 21) (fin5 w 16)
  | .xperm => .xperm (fin4 w 21) (fin5 w 16) (fin5 w 11)
  | .xsend => .xsend (fin4 w 21) (fin5 w 16) (fin5 w 11)
  | .xrcfg => .xrcfg (fin5 w 16)
  | .xrpop => .xrpop (fin5 w 21) (fin5 w 16)
  | .xrstat => .xrstat (fin5 w 21)
  | .barArr => .barArr (fin5 w 16)
  | .barWait => .barWait (fin4 w 21) (fin5 w 16)
  | .barSync => .barSync (fin4 w 21) (fin5 w 16)
  | .xsum => .xsum (fin4 w 21) (fin5 w 16) (fin5 w 11)
  | .selr => .selr (fin4 w 21) (fin5 w 16)
  | .selc => .selc (fin4 w 21) (fin5 w 16)
  | .sdecl => .sdecl (fin3 w 21) (fin5 w 16)
  | .sweep => .sweep (fin3 w 21) (fin4 w 11)
  | .swake => .swake (fin3 w 21) (fin5 w 16)
  | .sstat => .sstat (fin5 w 21) (fin3 w 16)
  | .rpush => .rpush (w.extractLsb' 0 16)
  | .rpop => .rpop (w.extractLsb' 0 16)
  | .mark => .mark (w.extractLsb' 0 16)
  | .gsub => .gsub (fin4 w 21) (fin5 w 16)
  | .mmod => .mmod (fin3 w 21) (fin5 w 16) (fin5 w 11)
  | .ldB => .ldB (fin5 w 21) (fin5 w 16) (fin2 w 14) (fin4 w 10) (w.extractLsb' 0 10)
  | .ldH => .ldH (fin5 w 21) (fin5 w 16) (fin2 w 14) (fin4 w 10) (w.extractLsb' 0 10)
  | .ldW => .ldW (fin5 w 21) (fin5 w 16) (fin2 w 14) (fin4 w 10) (w.extractLsb' 0 10)
  | .ldD => .ldD (fin5 w 21) (fin5 w 16) (fin2 w 14) (fin4 w 10) (w.extractLsb' 0 10)
  | .ldBn => .ldBn (fin5 w 21) (fin5 w 16) (fin2 w 14) (fin4 w 10) (w.extractLsb' 0 10)
  | .ldHn => .ldHn (fin5 w 21) (fin5 w 16) (fin2 w 14) (fin4 w 10) (w.extractLsb' 0 10)
  | .ldWn => .ldWn (fin5 w 21) (fin5 w 16) (fin2 w 14) (fin4 w 10) (w.extractLsb' 0 10)
  | .ldV => .ldV (fin5 w 21) (fin5 w 16) (fin2 w 14) (fin4 w 10) (w.extractLsb' 0 10)
  | .ldQ => .ldQ (fin5 w 16) (fin2 w 14) (fin4 w 10) (w.extractLsb' 0 10)
  | .ldgV => .ldgV (fin5 w 21) (fin5 w 16) (fin5 w 11) (fin3 w 6) (fin2 w 4) (fin4 w 0)
  | .ldgQ => .ldgQ (fin5 w 16) (fin5 w 11) (fin3 w 6) (fin2 w 4) (fin4 w 0)
  | .ldfe => .ldfe (fin5 w 21) (fin5 w 16) (fin2 w 14) (fin4 w 10) (w.extractLsb' 0 10)
  | .ldff => .ldff (fin5 w 21) (fin5 w 16) (fin2 w 14) (fin4 w 10) (w.extractLsb' 0 10)
  | .amoAdd => .amoAdd (fin5 w 21) (fin5 w 16) (fin5 w 11) (fin4 w 5) (fin1 w 4)
  | .amoAnd => .amoAnd (fin5 w 21) (fin5 w 16) (fin5 w 11) (fin4 w 5) (fin1 w 4)
  | .amoOr => .amoOr (fin5 w 21) (fin5 w 16) (fin5 w 11) (fin4 w 5) (fin1 w 4)
  | .amoXor => .amoXor (fin5 w 21) (fin5 w 16) (fin5 w 11) (fin4 w 5) (fin1 w 4)
  | .amoMin => .amoMin (fin5 w 21) (fin5 w 16) (fin5 w 11) (fin4 w 5) (fin1 w 4)
  | .amoMax => .amoMax (fin5 w 21) (fin5 w 16) (fin5 w 11) (fin4 w 5) (fin1 w 4)
  | .amoMinn => .amoMinn (fin5 w 21) (fin5 w 16) (fin5 w 11) (fin4 w 5) (fin1 w 4)
  | .amoMaxn => .amoMaxn (fin5 w 21) (fin5 w 16) (fin5 w 11) (fin4 w 5) (fin1 w 4)
  | .amoSwap => .amoSwap (fin5 w 21) (fin5 w 16) (fin5 w 11) (fin4 w 5) (fin1 w 4)
  | .amoCas => .amoCas (fin5 w 21) (fin5 w 16) (fin5 w 11) (fin4 w 5) (fin1 w 4)
  | .amoFadd => .amoFadd (fin5 w 21) (fin5 w 16) (fin5 w 11) (fin4 w 5)
  | .ldblk => .ldblk (fin5 w 21) (fin5 w 16) (fin4 w 6) (w.extractLsb' 0 6)
  | .bfree => .bfree (fin5 w 16)
  | .bstat => .bstat (fin5 w 21) (fin5 w 16)
  | .bdrain => .bdrain (fin4 w 21) (fin5 w 16)
  | .stB => .stB (fin5 w 21) (fin5 w 16) (fin2 w 14) (fin4 w 10) (w.extractLsb' 0 10)
  | .stH => .stH (fin5 w 21) (fin5 w 16) (fin2 w 14) (fin4 w 10) (w.extractLsb' 0 10)
  | .stW => .stW (fin5 w 21) (fin5 w 16) (fin2 w 14) (fin4 w 10) (w.extractLsb' 0 10)
  | .stD => .stD (fin5 w 21) (fin5 w 16) (fin2 w 14) (fin4 w 10) (w.extractLsb' 0 10)
  | .stV => .stV (fin5 w 21) (fin5 w 16) (fin2 w 14) (fin4 w 10) (w.extractLsb' 0 10)
  | .stQ => .stQ (fin5 w 16) (fin2 w 14) (fin4 w 10) (w.extractLsb' 0 10)
  | .stsV => .stsV (fin5 w 21) (fin5 w 16) (fin5 w 11) (fin3 w 6) (fin2 w 4) (fin4 w 0)
  | .stsQ => .stsQ (fin5 w 16) (fin5 w 11) (fin3 w 6) (fin2 w 4) (fin4 w 0)
  | .stfe => .stfe (fin5 w 21) (fin5 w 16) (fin2 w 14) (fin4 w 10) (w.extractLsb' 0 10)
  | .stff => .stff (fin5 w 21) (fin5 w 16) (fin2 w 14) (fin4 w 10) (w.extractLsb' 0 10)
  | .pub => .pub (fin4 w 21) (fin5 w 16)
  | .vadd => .vadd (fin5 w 21) (fin5 w 16) (fin5 w 11) (fin3 w 8) (fin3 w 4)
  | .vsub => .vsub (fin5 w 21) (fin5 w 16) (fin5 w 11) (fin3 w 8) (fin3 w 4)
  | .vmul => .vmul (fin5 w 21) (fin5 w 16) (fin5 w 11) (fin3 w 8) (fin3 w 4)
  | .vmulh => .vmulh (fin5 w 21) (fin5 w 16) (fin5 w 11) (fin3 w 8) (fin3 w 4)
  | .vand => .vand (fin5 w 21) (fin5 w 16) (fin5 w 11) (fin3 w 8) (fin3 w 4)
  | .vor => .vor (fin5 w 21) (fin5 w 16) (fin5 w 11) (fin3 w 8) (fin3 w 4)
  | .vxor => .vxor (fin5 w 21) (fin5 w 16) (fin5 w 11) (fin3 w 8) (fin3 w 4)
  | .vshl => .vshl (fin5 w 21) (fin5 w 16) (fin5 w 11) (fin3 w 8) (fin3 w 4)
  | .vshr => .vshr (fin5 w 21) (fin5 w 16) (fin5 w 11) (fin3 w 8) (fin3 w 4)
  | .vsra => .vsra (fin5 w 21) (fin5 w 16) (fin5 w 11) (fin3 w 8) (fin3 w 4)
  | .vmin => .vmin (fin5 w 21) (fin5 w 16) (fin5 w 11) (fin3 w 8) (fin3 w 4)
  | .vmax => .vmax (fin5 w 21) (fin5 w 16) (fin5 w 11) (fin3 w 8) (fin3 w 4)
  | .vabs => .vabs (fin5 w 21) (fin5 w 16) (fin3 w 8) (fin3 w 4)
  | .vneg => .vneg (fin5 w 21) (fin5 w 16) (fin3 w 8) (fin3 w 4)
  | .vadds => .vadds (fin5 w 21) (fin5 w 16) (fin5 w 11) (fin3 w 8) (fin3 w 4)
  | .vsubs => .vsubs (fin5 w 21) (fin5 w 16) (fin5 w 11) (fin3 w 8) (fin3 w 4)
  | .vmov => .vmov (fin5 w 21) (fin5 w 16) (fin3 w 8) (fin4 w 4)
  | .vsel => .vsel (fin5 w 21) (fin5 w 16) (fin5 w 11) (fin3 w 8) (fin4 w 4)
  | .vshuf => .vshuf (fin5 w 21) (fin5 w 16) (fin5 w 11) (fin3 w 8) (fin4 w 4)
  | .vslide => .vslide (fin5 w 21) (fin5 w 16) (fin5 w 11) (fin3 w 8) (fin4 w 4)
  | .vzip => .vzip (fin5 w 21) (fin5 w 16) (fin5 w 11) (fin3 w 8) (fin4 w 4)
  | .vunzip => .vunzip (fin5 w 21) (fin5 w 16) (fin5 w 11) (fin3 w 8) (fin4 w 4)
  | .vidx => .vidx (fin5 w 21) (fin5 w 16) (fin3 w 8) (fin3 w 4)
  | .vbcast => .vbcast (fin5 w 21) (fin5 w 16) (fin3 w 8) (fin4 w 4)
  | .vext => .vext (fin5 w 21) (fin5 w 16) (fin5 w 11) (fin4 w 4)
  | .vins => .vins (fin5 w 21) (fin5 w 16) (fin5 w 11) (fin4 w 4)
  | .vnot => .vnot (fin5 w 21) (fin5 w 16) (fin3 w 8) (fin4 w 4)
  | .vclz => .vclz (fin5 w 21) (fin5 w 16) (fin3 w 8) (fin3 w 4)
  | .vpopc => .vpopc (fin5 w 21) (fin5 w 16) (fin3 w 8) (fin3 w 4)
  | .vcmpEq => .vcmpEq (fin3 w 21) (fin5 w 16) (fin5 w 11) (fin3 w 8) (fin3 w 4)
  | .vcmpNe => .vcmpNe (fin3 w 21) (fin5 w 16) (fin5 w 11) (fin3 w 8) (fin3 w 4)
  | .vcmpLt => .vcmpLt (fin3 w 21) (fin5 w 16) (fin5 w 11) (fin3 w 8) (fin3 w 4)
  | .vcmpLe => .vcmpLe (fin3 w 21) (fin5 w 16) (fin5 w 11) (fin3 w 8) (fin3 w 4)
  | .vcmpGt => .vcmpGt (fin3 w 21) (fin5 w 16) (fin5 w 11) (fin3 w 8) (fin3 w 4)
  | .vcmpGe => .vcmpGe (fin3 w 21) (fin5 w 16) (fin5 w 11) (fin3 w 8) (fin3 w 4)
  | .vfadd => .vfadd (fin5 w 21) (fin5 w 16) (fin5 w 11) (fin3 w 8) (fin1 w 4)
  | .vfsub => .vfsub (fin5 w 21) (fin5 w 16) (fin5 w 11) (fin3 w 8) (fin1 w 4)
  | .vfmul => .vfmul (fin5 w 21) (fin5 w 16) (fin5 w 11) (fin3 w 8) (fin1 w 4)
  | .vfmin => .vfmin (fin5 w 21) (fin5 w 16) (fin5 w 11) (fin3 w 8) (fin1 w 4)
  | .vfmax => .vfmax (fin5 w 21) (fin5 w 16) (fin5 w 11) (fin3 w 8) (fin1 w 4)
  | .vfabs => .vfabs (fin5 w 21) (fin5 w 16) (fin3 w 8) (fin1 w 4)
  | .vfneg => .vfneg (fin5 w 21) (fin5 w 16) (fin3 w 8) (fin1 w 4)
  | .vfeq => .vfeq (fin3 w 21) (fin5 w 16) (fin5 w 11) (fin3 w 8) (fin1 w 4)
  | .vflt => .vflt (fin3 w 21) (fin5 w 16) (fin5 w 11) (fin3 w 8) (fin1 w 4)
  | .vfle => .vfle (fin3 w 21) (fin5 w 16) (fin5 w 11) (fin3 w 8) (fin1 w 4)
  | .vfma => .vfma (fin5 w 21) (fin5 w 16) (fin5 w 11) (fin3 w 8) (fin1 w 4)
  | .vfms => .vfms (fin5 w 21) (fin5 w 16) (fin5 w 11) (fin3 w 8) (fin1 w 4)
  | .vfnma => .vfnma (fin5 w 21) (fin5 w 16) (fin5 w 11) (fin3 w 8) (fin1 w 4)
  | .vfnms => .vfnms (fin5 w 21) (fin5 w 16) (fin5 w 11) (fin3 w 8) (fin1 w 4)
  | .vcvt => .vcvt (fin5 w 21) (fin5 w 16) (fin3 w 8) (fin4 w 4) (fin4 w 0)
  | .vpackBfp => .vpackBfp (fin5 w 21) (fin5 w 16) (fin5 w 11) (fin3 w 8)
  | .vunpackBfp => .vunpackBfp (fin5 w 21) (fin5 w 16) (fin5 w 11) (fin3 w 8)
  | .vredsum => .vredsum (fin5 w 21) (fin5 w 16) (fin3 w 8) (fin3 w 4)
  | .vfredsum => .vfredsum (fin5 w 21) (fin5 w 16) (fin3 w 8) (fin1 w 4)
  | .vredmax => .vredmax (fin5 w 21) (fin5 w 16) (fin3 w 8) (fin3 w 4)
  | .vredmin => .vredmin (fin5 w 21) (fin5 w 16) (fin3 w 8) (fin3 w 4)
  | .vfredmax => .vfredmax (fin5 w 21) (fin5 w 16) (fin3 w 8) (fin1 w 4)
  | .vfredmin => .vfredmin (fin5 w 21) (fin5 w 16) (fin3 w 8) (fin1 w 4)
  | .vredand => .vredand (fin5 w 21) (fin5 w 16) (fin3 w 8) (fin3 w 4)
  | .vredor => .vredor (fin5 w 21) (fin5 w 16) (fin3 w 8) (fin3 w 4)
  | .pand => .pand (fin3 w 21) (fin3 w 16) (fin3 w 11)
  | .por => .por (fin3 w 21) (fin3 w 16) (fin3 w 11)
  | .pxor => .pxor (fin3 w 21) (fin3 w 16) (fin3 w 11)
  | .pnot => .pnot (fin3 w 21) (fin3 w 16)
  | .pset => .pset (fin3 w 21)
  | .pclr => .pclr (fin3 w 21)
  | .pcount => .pcount (fin5 w 21) (fin3 w 16)
  | .pfirst => .pfirst (fin5 w 21) (fin3 w 16)
  | .vwhile => .vwhile (fin3 w 21) (fin5 w 16) (fin5 w 11) (fin4 w 0)
  | .vwidth => .vwidth (fin5 w 21)
  | .sploop => .sploop (w.extractLsb' 0 16)
  | .vrot => .vrot (fin4 w 0)
  | .vexp2 => .vexp2 (fin5 w 21) (fin5 w 16) (fin4 w 11) (fin3 w 8)
  | .vlog2 => .vlog2 (fin5 w 21) (fin5 w 16) (fin4 w 11) (fin3 w 8)
  | .vrcp => .vrcp (fin5 w 21) (fin5 w 16) (fin4 w 11) (fin3 w 8)
  | .vrsqrt => .vrsqrt (fin5 w 21) (fin5 w 16) (fin4 w 11) (fin3 w 8)
  | .vrand => .vrand (fin5 w 21) (fin3 w 8)
  | .vpop => .vpop (fin5 w 21)
  | .vpush => .vpush (fin5 w 16)
  | .vtopk => .vtopk (fin5 w 21) (fin5 w 16) (fin2 w 14) (fin3 w 11) (fin3 w 8) (fin4 w 4)
  | .vbinpos => .vbinpos (fin5 w 21) (fin5 w 16) (fin3 w 8) (fin2 w 4)
  | .vbinclr => .vbinclr
  | .vbinrd => .vbinrd (fin5 w 21) (fin5 w 16)
  | .vsortkv => .vsortkv (fin5 w 21) (fin5 w 16) (fin3 w 11) (fin3 w 8) (fin1 w 4)
  | .vaddi => .vaddi (fin5 w 21) (fin5 w 16) (fin3 w 13) (fin3 w 9) (w.extractLsb' 0 9)
  | .vshli => .vshli (fin5 w 21) (fin5 w 16) (fin3 w 13) (fin3 w 9) (w.extractLsb' 0 9)
  | .vshri => .vshri (fin5 w 21) (fin5 w 16) (fin3 w 13) (fin3 w 9) (w.extractLsb' 0 9)
  | .vsrai => .vsrai (fin5 w 21) (fin5 w 16) (fin3 w 13) (fin3 w 9) (w.extractLsb' 0 9)
  | .vli => .vli (fin5 w 21) (fin3 w 13) (fin3 w 9) (w.extractLsb' 0 9)
  | .bpAny => .bpAny (fin3 w 21) (fin2 w 14) (w.extractLsb' 0 14)
  | .bpNone => .bpNone (fin3 w 21) (fin2 w 14) (w.extractLsb' 0 14)
  | .bpAll => .bpAll (fin3 w 21) (fin2 w 14) (w.extractLsb' 0 14)

/-- The instruction that sequencer `q` reads from the word `w`, whose K word is `k` (R47). -/
noncomputable def decode (q : Seq) (w k : BitVec 32) : Option Instr := (rowOf q w).map (fun r => r.build w k)

/-- R30: a word of tag `q` is the first word of a long instruction (`li` on S, A and W, `mcfg` on S). -/
def isLong (q : Seq) (w : BitVec 32) : Bool :=
  (q != .x && fld w 26 6 == 0x19) || (q == .s && fld w 26 6 == 0x28)


/-- A word with the fixed bits `base` and 0 field(s) v at the bit position(s) p. -/
def asm0 (base  : Nat) : BitVec 32 := BitVec.ofNat 32 (base)

/-- A word with the fixed bits `base` and 1 field(s) v at the bit position(s) p. -/
def asm1 (base v1 p1 : Nat) : BitVec 32 := BitVec.ofNat 32 (base + v1 * 2 ^ p1)

/-- A word with the fixed bits `base` and 2 field(s) v at the bit position(s) p. -/
def asm2 (base v1 p1 v2 p2 : Nat) : BitVec 32 := BitVec.ofNat 32 (base + v1 * 2 ^ p1 + v2 * 2 ^ p2)

/-- A word with the fixed bits `base` and 3 field(s) v at the bit position(s) p. -/
def asm3 (base v1 p1 v2 p2 v3 p3 : Nat) : BitVec 32 := BitVec.ofNat 32 (base + v1 * 2 ^ p1 + v2 * 2 ^ p2 + v3 * 2 ^ p3)

/-- A word with the fixed bits `base` and 4 field(s) v at the bit position(s) p. -/
def asm4 (base v1 p1 v2 p2 v3 p3 v4 p4 : Nat) : BitVec 32 := BitVec.ofNat 32 (base + v1 * 2 ^ p1 + v2 * 2 ^ p2 + v3 * 2 ^ p3 + v4 * 2 ^ p4)

/-- A word with the fixed bits `base` and 5 field(s) v at the bit position(s) p. -/
def asm5 (base v1 p1 v2 p2 v3 p3 v4 p4 v5 p5 : Nat) : BitVec 32 := BitVec.ofNat 32 (base + v1 * 2 ^ p1 + v2 * 2 ^ p2 + v3 * 2 ^ p3 + v4 * 2 ^ p4 + v5 * 2 ^ p5)

/-- A word with the fixed bits `base` and 6 field(s) v at the bit position(s) p. -/
def asm6 (base v1 p1 v2 p2 v3 p3 v4 p4 v5 p5 v6 p6 : Nat) : BitVec 32 := BitVec.ofNat 32 (base + v1 * 2 ^ p1 + v2 * 2 ^ p2 + v3 * 2 ^ p3 + v4 * 2 ^ p4 + v5 * 2 ^ p5 + v6 * 2 ^ p6)

/-- The first word of an instruction (R41, R48 to R54); 0, which is no instruction, for an event or a packet. -/
def encode : Instr → BitVec 32
  | .resultLanding _ _ => 0#32
  | .handoffEffect _ _ => 0#32
  | .lateWriteLanding _ _ => 0#32
  | .takeInterrupt _ _ => 0#32
  | .deliveredCause _ _ => 0#32
  | .taskEnd _ _ => 0#32
  | .wakeAccept _ _ => 0#32
  | .longAccessComplete _ => 0#32
  | .homeRead _ => 0#32
  | .homeWrite _ => 0#32
  | .tlbFill _ _ => 0#32
  | .parkResume _ _ => 0#32
  | .waiterTableJoin _ => 0#32
  | .blockFillComplete _ => 0#32
  | .blockDrainComplete _ => 0#32
  | .inval _ _ => 0#32
  | .invalidationComplete _ => 0#32
  | .faultRecord _ _ _ _ _ => 0#32
  | .clockFloor _ => 0#32
  | .lcTick _ _ => 0#32
  | .pctl _ _ _ => 0#32
  | .hostAccess _ _ _ _ => 0#32
  | .sfuService _ => 0#32
  | .sfuResult _ => 0#32
  | .matrixDispatch _ => 0#32
  | .slabEnd _ => 0#32
  | .matrixRowWrite _ => 0#32
  | .matrixPost _ => 0#32
  | .weightLoadComplete _ => 0#32
  | .groupFillWait _ => 0#32
  | .chainPanelArrival _ _ _ => 0#32
  | .mfaultAbort _ _ => 0#32
  | .selectService _ => 0#32
  | .selectPost _ => 0#32
  | .landingDecrement _ _ _ => 0#32
  | .brushRead _ _ => 0#32
  | .brushLoad _ _ => 0#32
  | .stepBlockStart _ _ => 0#32
  | .writeBack _ _ => 0#32
  | .copyComplete _ => 0#32
  | .remoteAccess _ => 0#32
  | .permitRequest _ => 0#32
  | .permitAnswer _ => 0#32
  | .sendComplete _ => 0#32
  | .messageDelivery _ => 0#32
  | .messageStatus _ => 0#32
  | .folioLoss _ => 0#32
  | .moduleLoss _ => 0#32
  | .lossNotice _ _ => 0#32
  | .barrierArrival _ => 0#32
  | .barrierWait _ => 0#32
  | .releaseDelivery _ => 0#32
  | .barrierWatchdog _ _ _ => 0#32
  | .barcfg _ _ _ => 0#32
  | .swapStop _ _ => 0#32
  | .swapResume _ _ => 0#32
  | .ctxcfg _ _ => 0#32
  | .timerFire _ _ => 0#32
  | .nksig _ _ => 0#32
  | .loadBalance _ => 0#32
  | .debugStop _ _ => 0#32
  | .dctlStop _ _ => 0#32
  | .dctlResume _ _ => 0#32
  | .dctlStep _ _ => 0#32
  | .dctlDrun _ _ => 0#32
  | .groupStop _ _ => 0#32
  | .grpres _ _ => 0#32
  | .histogramBin _ _ => 0#32
  | .traceSample _ _ => 0#32
  | .tbase _ _ => 0#32
  | .tsize _ _ => 0#32
  | .rplctl _ _ => 0#32
  | .hostsig _ _ => 0#32
  | .qctl _ _ _ => 0#32
  | .qtail _ _ _ => 0#32
  | .launchRegister _ _ _ => 0#32
  | .launch _ => 0#32
  | .launchComplete _ => 0#32
  | .copy _ => 0#32
  | .waitmem _ => 0#32
  | .waitmemPoll _ => 0#32
  | .signalmem _ => 0#32
  | .cond _ => 0#32
  | .loop _ => 0#32
  | .capstart _ => 0#32
  | .capstop _ => 0#32
  | .replayall _ => 0#32
  | .fence _ => 0#32
  | .nopPacket _ => 0#32
  | .partCreate _ => 0#32
  | .resize _ => 0#32
  | .ertWrite _ => 0#32
  | .snapshot _ => 0#32
  | .tokenBucketRefill _ => 0#32
  | .bonctlEn _ => 0#32
  | .bonctlFence => 0#32
  | .linkTraining _ _ _ => 0#32
  | .linkFailure => 0#32
  | .guestCompletion _ _ _ => 0#32
  | .portRefusal _ => 0#32
  | .coherentRead _ _ _ => 0#32
  | .coherentWrite _ _ _ _ => 0#32
  | .coherentAtomic _ _ _ _ _ _ => 0#32
  | .translationRequest _ _ => 0#32
  | .invalidationAck _ => 0#32
  | .guestFaultRecord _ _ => 0#32
  | .preemptAck _ _ => 0#32
  | .guestDeadline _ => 0#32
  | .fencedCompletion _ => 0#32
  | .thermalCap _ => 0#32
  | .thermalCapRelease _ => 0#32
  | .thermalReset _ => 0#32
  | .powerMeasurement => 0#32
  | .moduleReset => 0#32
  | .attest _ => 0#32
  | .recoveryControl _ => 0#32
  | .registerWrite _ _ _ => 0#32
  | .illegalOnDecode _ => 0#32
  | .cacheCopyDrop _ _ => 0#32
  | .turnClassCount _ _ => 0#32
  | .readyHistogramCount _ => 0#32
  | .linkPowerState _ => 0#32
  | .dly n => asm1 0x04000000 n.toNat 0
  | .nop => asm0 0x04000000
  | .waits s a i => asm3 0x08000000 s.val 21 a.val 16 i.toNat 0
  | .sinc s => asm1 0x0C000000 s.val 21
  | .sadd s a => asm2 0x0C000001 s.val 21 a.val 16
  | .sset s a => asm2 0x0C000002 s.val 21 a.val 16
  | .sread d s => asm2 0x0C000003 d.val 21 s.val 16
  | .spend d s => asm2 0x0C000004 d.val 21 s.val 16
  | .j x => asm1 0x10000000 x.toNat 0
  | .jal x => asm1 0x11000000 x.toNat 0
  | .jr a => asm1 0x14000000 a.val 16
  | .jalr d a => asm2 0x14000001 d.val 21 a.val 16
  | .jtab i a l => asm3 0x18000000 i.val 21 a.val 16 l.toNat 0
  | .bq h x => asm2 0x1C000000 h.val 24 x.toNat 0
  | .bpush a q => asm2 0x20000000 a.val 16 q.val 0
  | .bpushP a q => asm2 0x20000004 a.val 16 q.val 0
  | .beq a b h x => asm4 0x24000000 a.val 21 b.val 16 h.val 14 x.toNat 0
  | .bne a b h x => asm4 0x28000000 a.val 21 b.val 16 h.val 14 x.toNat 0
  | .blt a b h x => asm4 0x2C000000 a.val 21 b.val 16 h.val 14 x.toNat 0
  | .bge a b h x => asm4 0x30000000 a.val 21 b.val 16 h.val 14 x.toNat 0
  | .bltn a b h x => asm4 0x34000000 a.val 21 b.val 16 h.val 14 x.toNat 0
  | .bgen a b h x => asm4 0x38000000 a.val 21 b.val 16 h.val 14 x.toNat 0
  | .sstop => asm0 0x3C000000
  | .sjoin => asm0 0x3C000001
  | .add d a b => asm3 0x40000000 d.val 21 a.val 16 b.val 11
  | .sub d a b => asm3 0x40000001 d.val 21 a.val 16 b.val 11
  | .mul d a b => asm3 0x40000002 d.val 21 a.val 16 b.val 11
  | .mulh d a b => asm3 0x40000003 d.val 21 a.val 16 b.val 11
  | .mulhn d a b => asm3 0x40000004 d.val 21 a.val 16 b.val 11
  | .div d a b => asm3 0x40000005 d.val 21 a.val 16 b.val 11
  | .divn d a b => asm3 0x40000006 d.val 21 a.val 16 b.val 11
  | .rem d a b => asm3 0x40000007 d.val 21 a.val 16 b.val 11
  | .remn d a b => asm3 0x40000008 d.val 21 a.val 16 b.val 11
  | .and d a b => asm3 0x40000009 d.val 21 a.val 16 b.val 11
  | .or d a b => asm3 0x4000000A d.val 21 a.val 16 b.val 11
  | .xor d a b => asm3 0x4000000B d.val 21 a.val 16 b.val 11
  | .shl d a b => asm3 0x4000000C d.val 21 a.val 16 b.val 11
  | .shr d a b => asm3 0x4000000D d.val 21 a.val 16 b.val 11
  | .sra d a b => asm3 0x4000000E d.val 21 a.val 16 b.val 11
  | .slt d a b => asm3 0x4000000F d.val 21 a.val 16 b.val 11
  | .sltn d a b => asm3 0x40000010 d.val 21 a.val 16 b.val 11
  | .min d a b => asm3 0x40000011 d.val 21 a.val 16 b.val 11
  | .max d a b => asm3 0x40000012 d.val 21 a.val 16 b.val 11
  | .minn d a b => asm3 0x40000013 d.val 21 a.val 16 b.val 11
  | .maxn d a b => asm3 0x40000014 d.val 21 a.val 16 b.val 11
  | .sel d a b => asm3 0x40000015 d.val 21 a.val 16 b.val 11
  | .clz d a => asm2 0x40000016 d.val 21 a.val 16
  | .ctz d a => asm2 0x40000017 d.val 21 a.val 16
  | .popc d a => asm2 0x40000018 d.val 21 a.val 16
  | .rev d a => asm2 0x40000019 d.val 21 a.val 16
  | .bswap d a => asm2 0x4000001A d.val 21 a.val 16
  | .sextB d a => asm2 0x4000001B d.val 21 a.val 16
  | .sextH d a => asm2 0x4000001C d.val 21 a.val 16
  | .sextW d a => asm2 0x4000001D d.val 21 a.val 16
  | .zextW d a => asm2 0x4000001E d.val 21 a.val 16
  | .addi d a i => asm3 0x44000000 d.val 21 a.val 16 i.toNat 0
  | .andi d a i => asm3 0x48000000 d.val 21 a.val 16 i.toNat 0
  | .ori d a i => asm3 0x4C000000 d.val 21 a.val 16 i.toNat 0
  | .xori d a i => asm3 0x50000000 d.val 21 a.val 16 i.toNat 0
  | .slti d a i => asm3 0x54000000 d.val 21 a.val 16 i.toNat 0
  | .shli d a n => asm3 0x58000000 d.val 21 a.val 16 n.toNat 0
  | .shri d a n => asm3 0x58000040 d.val 21 a.val 16 n.toNat 0
  | .srai d a n => asm3 0x58000080 d.val 21 a.val 16 n.toNat 0
  | .lih d a i => asm3 0x5C000000 d.val 21 a.val 16 i.toNat 0
  | .addpc d i => asm2 0x60000000 d.val 21 i.toNat 0
  | .li d _ => asm1 0x64000000 d.val 21
  | .bfx d a l p => asm4 0x68000000 d.val 21 a.val 16 l.toNat 6 p.toNat 0
  | .bfxs d a l p => asm4 0x68001000 d.val 21 a.val 16 l.toNat 6 p.toNat 0
  | .bfi d a l p => asm4 0x68002000 d.val 21 a.val 16 l.toNat 6 p.toNat 0
  | .bnet d a p => asm3 0x6C000000 d.val 21 a.val 16 p.val 11
  | .bnld p a => asm2 0x70000000 p.val 21 a.val 16
  | .fadd d a b => asm3 0x74000000 d.val 21 a.val 16 b.val 11
  | .fsub d a b => asm3 0x74000001 d.val 21 a.val 16 b.val 11
  | .fmul d a b => asm3 0x74000002 d.val 21 a.val 16 b.val 11
  | .fmin d a b => asm3 0x74000003 d.val 21 a.val 16 b.val 11
  | .fmax d a b => asm3 0x74000004 d.val 21 a.val 16 b.val 11
  | .feq d a b => asm3 0x74000005 d.val 21 a.val 16 b.val 11
  | .flt d a b => asm3 0x74000006 d.val 21 a.val 16 b.val 11
  | .fle d a b => asm3 0x74000007 d.val 21 a.val 16 b.val 11
  | .fcvtIF d a => asm2 0x74000008 d.val 21 a.val 16
  | .fcvtFI d a => asm2 0x74000009 d.val 21 a.val 16
  | .fmadd d a b => asm3 0x78000000 d.val 21 a.val 16 b.val 11
  | .csrr d c => asm2 0x80000000 d.val 21 c.toNat 0
  | .csrw a c => asm2 0x80001000 a.val 16 c.toNat 0
  | .csrs a c => asm2 0x80002000 a.val 16 c.toNat 0
  | .csrc a c => asm2 0x80003000 a.val 16 c.toNat 0
  | .ecall => asm0 0x84000000
  | .ebreak => asm0 0x84000001
  | .tret => asm0 0x84000002
  | .wfm => asm0 0x84000003
  | .halt => asm0 0x84000004
  | .fenceI => asm0 0x84000005
  | .ctxsw a => asm1 0x88000000 a.val 16
  | .ctxst a b => asm2 0x88000001 a.val 16 b.val 11
  | .ctxld a b => asm2 0x88000002 a.val 16 b.val 11
  | .rqpush a b => asm2 0x8C000000 a.val 16 b.val 11
  | .rqpop d => asm1 0x8C000001 d.val 21
  | .rqpark a => asm1 0x8C000002 a.val 16
  | .rqstate d a => asm2 0x8C000003 d.val 21 a.val 16
  | .tmset a b => asm2 0x90000000 a.val 16 b.val 11
  | .wlock a b => asm2 0x94000000 a.val 16 b.val 11
  | .wunlock a => asm1 0x94000001 a.val 16
  | .msg d a b s => asm4 0x98000000 d.val 21 a.val 16 b.val 11 s.val 0
  | .mcfg f _ => asm1 0xA0000000 f.toNat 0
  | .mcfgr a f => asm2 0xA4000000 a.val 16 f.toNat 0
  | .mfmt a => asm1 0xA8000000 a.val 16
  | .mgo s w c => asm3 0xAC000000 s.val 21 w.val 2 c.val 0
  | .mgrp s a b => asm3 0xB0000000 s.val 21 a.val 16 b.val 11
  | .mwld s a b k => asm4 0xB4000000 s.val 21 a.val 16 b.val 11 k.val 0
  | .mzero a => asm1 0xB8000000 a.val 16
  | .mrd s a b => asm3 0xB8000001 s.val 21 a.val 16 b.val 11
  | .mresume => asm0 0xB8000002
  | .mstat d => asm1 0xB8000003 d.val 21
  | .cpy s a => asm2 0xC0000000 s.val 21 a.val 16
  | .cpyTopk s a => asm2 0xC0000001 s.val 21 a.val 16
  | .cpyPack s a => asm2 0xC0000002 s.val 21 a.val 16
  | .xperm s a b => asm3 0xC4000000 s.val 21 a.val 16 b.val 11
  | .xsend s a b => asm3 0xC8000000 s.val 21 a.val 16 b.val 11
  | .xrcfg a => asm1 0xCC000000 a.val 16
  | .xrpop d a => asm2 0xCC000001 d.val 21 a.val 16
  | .xrstat d => asm1 0xCC000002 d.val 21
  | .barArr a => asm1 0xD0000000 a.val 16
  | .barWait s a => asm2 0xD0000001 s.val 21 a.val 16
  | .barSync s a => asm2 0xD0000002 s.val 21 a.val 16
  | .xsum s a b => asm3 0xD4000000 s.val 21 a.val 16 b.val 11
  | .selr s a => asm2 0xE0000000 s.val 21 a.val 16
  | .selc s a => asm2 0xE0000001 s.val 21 a.val 16
  | .sdecl t a => asm2 0xE4000000 t.val 21 a.val 16
  | .sweep t s => asm2 0xE8000000 t.val 21 s.val 11
  | .swake t a => asm2 0xEC000000 t.val 21 a.val 16
  | .sstat d t => asm2 0xF0000000 d.val 21 t.val 16
  | .rpush l => asm1 0xF4000000 l.toNat 0
  | .rpop l => asm1 0xF4200000 l.toNat 0
  | .mark l => asm1 0xF4400000 l.toNat 0
  | .gsub s a => asm2 0xF8000000 s.val 21 a.val 16
  | .mmod i a b => asm3 0xC0000000 i.val 21 a.val 16 b.val 11
  | .ldB d a m s i => asm5 0x80000000 d.val 21 a.val 16 m.val 14 s.val 10 i.toNat 0
  | .ldH d a m s i => asm5 0x84000000 d.val 21 a.val 16 m.val 14 s.val 10 i.toNat 0
  | .ldW d a m s i => asm5 0x88000000 d.val 21 a.val 16 m.val 14 s.val 10 i.toNat 0
  | .ldD d a m s i => asm5 0x8C000000 d.val 21 a.val 16 m.val 14 s.val 10 i.toNat 0
  | .ldBn d a m s i => asm5 0x90000000 d.val 21 a.val 16 m.val 14 s.val 10 i.toNat 0
  | .ldHn d a m s i => asm5 0x94000000 d.val 21 a.val 16 m.val 14 s.val 10 i.toNat 0
  | .ldWn d a m s i => asm5 0x98000000 d.val 21 a.val 16 m.val 14 s.val 10 i.toNat 0
  | .ldV d a m s i => asm5 0x9C000000 d.val 21 a.val 16 m.val 14 s.val 10 i.toNat 0
  | .ldQ a m s i => asm4 0xA0000000 a.val 16 m.val 14 s.val 10 i.toNat 0
  | .ldgV d a b p e s => asm6 0xA4000000 d.val 21 a.val 16 b.val 11 p.val 6 e.val 4 s.val 0
  | .ldgQ a b p e s => asm5 0xA8000000 a.val 16 b.val 11 p.val 6 e.val 4 s.val 0
  | .ldfe d a m s i => asm5 0xAC000000 d.val 21 a.val 16 m.val 14 s.val 10 i.toNat 0
  | .ldff d a m s i => asm5 0xB0000000 d.val 21 a.val 16 m.val 14 s.val 10 i.toNat 0
  | .amoAdd d a b s z => asm5 0xB4000000 d.val 21 a.val 16 b.val 11 s.val 5 z.val 4
  | .amoAnd d a b s z => asm5 0xB4000001 d.val 21 a.val 16 b.val 11 s.val 5 z.val 4
  | .amoOr d a b s z => asm5 0xB4000002 d.val 21 a.val 16 b.val 11 s.val 5 z.val 4
  | .amoXor d a b s z => asm5 0xB4000003 d.val 21 a.val 16 b.val 11 s.val 5 z.val 4
  | .amoMin d a b s z => asm5 0xB4000004 d.val 21 a.val 16 b.val 11 s.val 5 z.val 4
  | .amoMax d a b s z => asm5 0xB4000005 d.val 21 a.val 16 b.val 11 s.val 5 z.val 4
  | .amoMinn d a b s z => asm5 0xB4000006 d.val 21 a.val 16 b.val 11 s.val 5 z.val 4
  | .amoMaxn d a b s z => asm5 0xB4000007 d.val 21 a.val 16 b.val 11 s.val 5 z.val 4
  | .amoSwap d a b s z => asm5 0xB4000008 d.val 21 a.val 16 b.val 11 s.val 5 z.val 4
  | .amoCas d a b s z => asm5 0xB4000009 d.val 21 a.val 16 b.val 11 s.val 5 z.val 4
  | .amoFadd d a b s => asm4 0xB400000A d.val 21 a.val 16 b.val 11 s.val 5
  | .ldblk d a s l => asm4 0xB8000000 d.val 21 a.val 16 s.val 6 l.toNat 0
  | .bfree a => asm1 0xBC000000 a.val 16
  | .bstat d a => asm2 0xBC000001 d.val 21 a.val 16
  | .bdrain s a => asm2 0xBC000002 s.val 21 a.val 16
  | .stB d a m s i => asm5 0x80000000 d.val 21 a.val 16 m.val 14 s.val 10 i.toNat 0
  | .stH d a m s i => asm5 0x84000000 d.val 21 a.val 16 m.val 14 s.val 10 i.toNat 0
  | .stW d a m s i => asm5 0x88000000 d.val 21 a.val 16 m.val 14 s.val 10 i.toNat 0
  | .stD d a m s i => asm5 0x8C000000 d.val 21 a.val 16 m.val 14 s.val 10 i.toNat 0
  | .stV d a m s i => asm5 0x9C000000 d.val 21 a.val 16 m.val 14 s.val 10 i.toNat 0
  | .stQ a m s i => asm4 0xA0000000 a.val 16 m.val 14 s.val 10 i.toNat 0
  | .stsV d a b p e s => asm6 0xA4000000 d.val 21 a.val 16 b.val 11 p.val 6 e.val 4 s.val 0
  | .stsQ a b p e s => asm5 0xA8000000 a.val 16 b.val 11 p.val 6 e.val 4 s.val 0
  | .stfe d a m s i => asm5 0xAC000000 d.val 21 a.val 16 m.val 14 s.val 10 i.toNat 0
  | .stff d a m s i => asm5 0xB0000000 d.val 21 a.val 16 m.val 14 s.val 10 i.toNat 0
  | .pub s a => asm2 0xB4000000 s.val 21 a.val 16
  | .vadd d a b p y => asm5 0x40000000 d.val 21 a.val 16 b.val 11 p.val 8 y.val 4
  | .vsub d a b p y => asm5 0x40000001 d.val 21 a.val 16 b.val 11 p.val 8 y.val 4
  | .vmul d a b p y => asm5 0x40000002 d.val 21 a.val 16 b.val 11 p.val 8 y.val 4
  | .vmulh d a b p y => asm5 0x40000003 d.val 21 a.val 16 b.val 11 p.val 8 y.val 4
  | .vand d a b p y => asm5 0x40000004 d.val 21 a.val 16 b.val 11 p.val 8 y.val 4
  | .vor d a b p y => asm5 0x40000005 d.val 21 a.val 16 b.val 11 p.val 8 y.val 4
  | .vxor d a b p y => asm5 0x40000006 d.val 21 a.val 16 b.val 11 p.val 8 y.val 4
  | .vshl d a b p y => asm5 0x40000007 d.val 21 a.val 16 b.val 11 p.val 8 y.val 4
  | .vshr d a b p y => asm5 0x40000008 d.val 21 a.val 16 b.val 11 p.val 8 y.val 4
  | .vsra d a b p y => asm5 0x40000009 d.val 21 a.val 16 b.val 11 p.val 8 y.val 4
  | .vmin d a b p y => asm5 0x4000000A d.val 21 a.val 16 b.val 11 p.val 8 y.val 4
  | .vmax d a b p y => asm5 0x4000000B d.val 21 a.val 16 b.val 11 p.val 8 y.val 4
  | .vabs d a p y => asm4 0x4000000C d.val 21 a.val 16 p.val 8 y.val 4
  | .vneg d a p y => asm4 0x4000000D d.val 21 a.val 16 p.val 8 y.val 4
  | .vadds d a b p y => asm5 0x4000000E d.val 21 a.val 16 b.val 11 p.val 8 y.val 4
  | .vsubs d a b p y => asm5 0x4000000F d.val 21 a.val 16 b.val 11 p.val 8 y.val 4
  | .vmov d a p y => asm4 0x44000000 d.val 21 a.val 16 p.val 8 y.val 4
  | .vsel d a b p y => asm5 0x44000001 d.val 21 a.val 16 b.val 11 p.val 8 y.val 4
  | .vshuf d a b p y => asm5 0x44000002 d.val 21 a.val 16 b.val 11 p.val 8 y.val 4
  | .vslide d a b p y => asm5 0x44000003 d.val 21 a.val 16 b.val 11 p.val 8 y.val 4
  | .vzip d a b p y => asm5 0x44000004 d.val 21 a.val 16 b.val 11 p.val 8 y.val 4
  | .vunzip d a b p y => asm5 0x44000005 d.val 21 a.val 16 b.val 11 p.val 8 y.val 4
  | .vidx d a p y => asm4 0x44000006 d.val 21 a.val 16 p.val 8 y.val 4
  | .vbcast d a p y => asm4 0x44000007 d.val 21 a.val 16 p.val 8 y.val 4
  | .vext d a b y => asm4 0x44000008 d.val 21 a.val 16 b.val 11 y.val 4
  | .vins d a b y => asm4 0x44000009 d.val 21 a.val 16 b.val 11 y.val 4
  | .vnot d a p y => asm4 0x4400000A d.val 21 a.val 16 p.val 8 y.val 4
  | .vclz d a p y => asm4 0x4400000B d.val 21 a.val 16 p.val 8 y.val 4
  | .vpopc d a p y => asm4 0x4400000C d.val 21 a.val 16 p.val 8 y.val 4
  | .vcmpEq d a b p y => asm5 0x48000000 d.val 21 a.val 16 b.val 11 p.val 8 y.val 4
  | .vcmpNe d a b p y => asm5 0x48000001 d.val 21 a.val 16 b.val 11 p.val 8 y.val 4
  | .vcmpLt d a b p y => asm5 0x48000002 d.val 21 a.val 16 b.val 11 p.val 8 y.val 4
  | .vcmpLe d a b p y => asm5 0x48000003 d.val 21 a.val 16 b.val 11 p.val 8 y.val 4
  | .vcmpGt d a b p y => asm5 0x48000004 d.val 21 a.val 16 b.val 11 p.val 8 y.val 4
  | .vcmpGe d a b p y => asm5 0x48000005 d.val 21 a.val 16 b.val 11 p.val 8 y.val 4
  | .vfadd d a b p y => asm5 0x4C000080 d.val 21 a.val 16 b.val 11 p.val 8 y.val 4
  | .vfsub d a b p y => asm5 0x4C000081 d.val 21 a.val 16 b.val 11 p.val 8 y.val 4
  | .vfmul d a b p y => asm5 0x4C000082 d.val 21 a.val 16 b.val 11 p.val 8 y.val 4
  | .vfmin d a b p y => asm5 0x4C000083 d.val 21 a.val 16 b.val 11 p.val 8 y.val 4
  | .vfmax d a b p y => asm5 0x4C000084 d.val 21 a.val 16 b.val 11 p.val 8 y.val 4
  | .vfabs d a p y => asm4 0x4C000085 d.val 21 a.val 16 p.val 8 y.val 4
  | .vfneg d a p y => asm4 0x4C000086 d.val 21 a.val 16 p.val 8 y.val 4
  | .vfeq d a b p y => asm5 0x4C000087 d.val 21 a.val 16 b.val 11 p.val 8 y.val 4
  | .vflt d a b p y => asm5 0x4C000088 d.val 21 a.val 16 b.val 11 p.val 8 y.val 4
  | .vfle d a b p y => asm5 0x4C000089 d.val 21 a.val 16 b.val 11 p.val 8 y.val 4
  | .vfma d a b p y => asm5 0x50000080 d.val 21 a.val 16 b.val 11 p.val 8 y.val 4
  | .vfms d a b p y => asm5 0x50000081 d.val 21 a.val 16 b.val 11 p.val 8 y.val 4
  | .vfnma d a b p y => asm5 0x50000082 d.val 21 a.val 16 b.val 11 p.val 8 y.val 4
  | .vfnms d a b p y => asm5 0x50000083 d.val 21 a.val 16 b.val 11 p.val 8 y.val 4
  | .vcvt d a p y x => asm5 0x54000000 d.val 21 a.val 16 p.val 8 y.val 4 x.val 0
  | .vpackBfp d a w p => asm4 0x58000090 d.val 21 a.val 16 w.val 11 p.val 8
  | .vunpackBfp d a w p => asm4 0x58000091 d.val 21 a.val 16 w.val 11 p.val 8
  | .vredsum d a p y => asm4 0x5C000000 d.val 21 a.val 16 p.val 8 y.val 4
  | .vfredsum d a p y => asm4 0x5C000081 d.val 21 a.val 16 p.val 8 y.val 4
  | .vredmax d a p y => asm4 0x5C000002 d.val 21 a.val 16 p.val 8 y.val 4
  | .vredmin d a p y => asm4 0x5C000003 d.val 21 a.val 16 p.val 8 y.val 4
  | .vfredmax d a p y => asm4 0x5C000084 d.val 21 a.val 16 p.val 8 y.val 4
  | .vfredmin d a p y => asm4 0x5C000085 d.val 21 a.val 16 p.val 8 y.val 4
  | .vredand d a p y => asm4 0x5C000006 d.val 21 a.val 16 p.val 8 y.val 4
  | .vredor d a p y => asm4 0x5C000007 d.val 21 a.val 16 p.val 8 y.val 4
  | .pand d a b => asm3 0x60000000 d.val 21 a.val 16 b.val 11
  | .por d a b => asm3 0x60000001 d.val 21 a.val 16 b.val 11
  | .pxor d a b => asm3 0x60000002 d.val 21 a.val 16 b.val 11
  | .pnot d a => asm2 0x60000003 d.val 21 a.val 16
  | .pset d => asm1 0x60000004 d.val 21
  | .pclr d => asm1 0x60000005 d.val 21
  | .pcount d a => asm2 0x60000006 d.val 21 a.val 16
  | .pfirst d a => asm2 0x60000007 d.val 21 a.val 16
  | .vwhile d i n y => asm4 0x64000000 d.val 21 i.val 16 n.val 11 y.val 0
  | .vwidth d => asm1 0x68000000 d.val 21
  | .sploop x => asm1 0x6C000000 x.toNat 0
  | .vrot n => asm1 0x6C200000 n.val 0
  | .vexp2 d a s p => asm4 0x70000090 d.val 21 a.val 16 s.val 11 p.val 8
  | .vlog2 d a s p => asm4 0x70000091 d.val 21 a.val 16 s.val 11 p.val 8
  | .vrcp d a s p => asm4 0x70000092 d.val 21 a.val 16 s.val 11 p.val 8
  | .vrsqrt d a s p => asm4 0x70000093 d.val 21 a.val 16 s.val 11 p.val 8
  | .vrand d p => asm2 0x74000060 d.val 21 p.val 8
  | .vpop d => asm1 0x78000000 d.val 21
  | .vpush a => asm1 0x78000001 a.val 16
  | .vtopk d a l k p y => asm6 0x7C000000 d.val 21 a.val 16 l.val 14 k.val 11 p.val 8 y.val 4
  | .vbinpos d a p y => asm4 0x7C000041 d.val 21 a.val 16 p.val 8 y.val 4
  | .vbinclr => asm0 0x7C000002
  | .vbinrd d a => asm2 0x7C000053 d.val 21 a.val 16
  | .vsortkv d a l p y => asm5 0x7C000064 d.val 21 a.val 16 l.val 11 p.val 8 y.val 4
  | .vaddi d a p y i => asm5 0x80000000 d.val 21 a.val 16 p.val 13 y.val 9 i.toNat 0
  | .vshli d a p y i => asm5 0x84000000 d.val 21 a.val 16 p.val 13 y.val 9 i.toNat 0
  | .vshri d a p y i => asm5 0x88000000 d.val 21 a.val 16 p.val 13 y.val 9 i.toNat 0
  | .vsrai d a p y i => asm5 0x8C000000 d.val 21 a.val 16 p.val 13 y.val 9 i.toNat 0
  | .vli d p y i => asm4 0x90000000 d.val 21 p.val 13 y.val 9 i.toNat 0
  | .bpAny a h x => asm3 0x94000000 a.val 21 h.val 14 x.toNat 0
  | .bpNone a h x => asm3 0x94010000 a.val 21 h.val 14 x.toNat 0
  | .bpAll a h x => asm3 0x94020000 a.val 21 h.val 14 x.toNat 0

/-- The K word of a long instruction (R30, R105, R230); 0 for every other. -/
def encodeK : Instr → BitVec 32
  | .li _ k => k
  | .mcfg _ k => k
  | _ => 0#32

/-- The order in which `decodeTableWord` tries the opcode spaces on a word: the space that gives the word's major the
most table rows comes first, and S, A, X, W otherwise (one word may stand in several opcode spaces, R47; DESIGN CHOICE, assumption 7). -/
def tableOrder (w : BitVec 32) : List Seq :=
  let m := (w.extractLsb' 26 6).toNat
  if ([0x11, 0x12, 0x13, 0x14, 0x17, 0x18, 0x1B, 0x1C, 0x1E, 0x25] : List Nat).contains m then [.x, .s, .a, .w]
  else if m = 0x2D then [.a, .s, .x, .w]
  else [.s, .a, .x, .w]

/-- The sequencer whose opcode space `decodeTableWord` reads a word in. -/
def tableSeq (w : Nat) : Seq :=
  let w0 := BitVec.ofNat 32 w
  ((tableOrder w0).find? (fun q => (rowOf q w0).isSome)).getD .w

/-- The instruction whose bits are `w`, numbered as spec/opcode_table.json numbers them: the word is bits 31..0, the K
word of a long instruction bits 63..32. -/
noncomputable def decodeTableWord (_nbits w : Nat) : Option Instr :=
  decode (tableSeq w) (BitVec.ofNat 32 w) (BitVec.ofNat 32 (w / 2 ^ 32))

end Sys2Proof
end

