-- ==== Sys2Proof/Config.lean ====
section
/-! DEFINITION. Sys2Proof/Config.lean: what the spec leaves to the implementation, as constants without a body: nothing
in Lean can evaluate them or prove a value of them. Each is applied to plain data that the state holds (a counter the
step advances, an operand), so that a statement about one holds for every value it could take. -/

namespace Sys2Proof

/-- A delay that the spec bounds but does not fix: applied to `State.fresh` (DESIGN CHOICE, assumption 3). -/
opaque Config.freeDelay : Nat → Nat

/-- Bits that the spec leaves undefined, or that come from a device outside the module: applied to `State.fresh`
(DESIGN CHOICE, assumptions 14, 17). -/
opaque Config.freeBits : Nat → Nat

/-- Whether an engine's array results pass their checksum (R247): a hardware error, by `State.fresh` (DESIGN CHOICE, assumption 18). -/
opaque Config.arrayError : Nat → Bool

/-- The electrical power drawn in a measurement window, in watts, by `State.fresh` (R370, DESIGN CHOICE, assumption 15). -/
opaque Config.measuredPower : Nat → Nat

/-- Whether the signature of a firmware image verifies, by the image's bytes in flash, empty for the image of manufacture
(R373, R375, DESIGN CHOICE, assumption 16). -/
opaque Config.imageOk : List (Nat × BitVec 8) → Bool

/-- Whether the signature and the CFGFMT of the configuration blob verify (R373, DESIGN CHOICE, assumption 16). -/
opaque Config.blobOk : Bool

/-- The version of a firmware image (R372, DESIGN CHOICE, assumption 16). -/
opaque Config.imageVersion : List (Nat × BitVec 8) → BitVec 32

/-- What the configuration blob fixes for the part: whether it permits a guest, and the folios that cannot be used (R10,
R361, R373, DESIGN CHOICE, assumption 16). -/
opaque Config.guestPermitted : Bool
opaque Config.badFolios : BitVec 16

/-- The module number that fabric bring-up assigns (R17, DESIGN CHOICE, assumption 16). -/
opaque Config.moduleNumber : BitVec 16

/-- The identity of the die in the bonnet socket, which it presents over the sideband; none for an empty socket (R361, R363,
DESIGN CHOICE, assumption 14). -/
opaque Config.guestDie : Option Nat

/-- The guest identity that the configuration blob names (R361, DESIGN CHOICE, assumption 16). -/
opaque Config.blobGuest : Nat

/-- The SHA3-512 digests of a firmware image, by its bytes, and of the configuration blob (R373, R374, DESIGN CHOICE, assumption 16). -/
opaque Config.imageDigest : List (Nat × BitVec 8) → BitVec 512
opaque Config.blobDigest : BitVec 512

/-- The device identity key, which the firmware derives from the part's physical unclonable function at every boot (R374,
DESIGN CHOICE, assumption 16). -/
opaque Config.deviceKey : BitVec 512

/-- The signature of an attestation report by a key, over its contents in the order of R374: version, image digest, blob
digest, `devid`, nonce (DESIGN CHOICE, assumption 16). -/
opaque Config.sign : BitVec 512 → BitVec 32 → BitVec 512 → BitVec 512 → Word → BitVec 256 → Nat

/-- The nib kernel of a firmware image (R13, R373): the bytes that it puts into a well, as a little-endian number, the line at
which it starts, and the values with which it starts its CSRs, by their numbers (DESIGN CHOICE, assumption 10). -/
opaque Config.kernelImage : List (Nat × BitVec 8) → Nat
opaque Config.kernelEntry : List (Nat × BitVec 8) → Word
opaque Config.kernelCsr : List (Nat × BitVec 8) → BitVec 12 → Word

end Sys2Proof
end

