-- ==== Sys2Proof/Machine/State.lean ====
section
/-! DEFINITION. Sys2Proof/Machine/State.lean: everything the spec gives the machine, as plain data, and the state right
after module reset. One `State` is one D16 module with the host, the guest and the other modules as its surroundings.
Nibs, memory cells and clocks that still stand as reset left them are not listed. Docstrings name the rule of spec/
that gives a piece of state. -/

namespace Sys2Proof.Machine

open Sys2Proof

/-- The three modes of a stroke (R306). -/
inductive Mode where
  | t | k | d
deriving DecidableEq, Repr

/-- A physical register (R44 to R46). -/
inductive RegRef where
  | g (i : Fin 32) | v (i : Fin 32) | p (i : Fin 8)
deriving DecidableEq, Repr

/-- A register and the value that lands in it (R56). -/
inductive RegWrite where
  | g (i : Fin 32) (x : Word) | v (i : Fin 32) (x : Vec) | p (i : Fin 8) (x : Pred)
deriving DecidableEq, Repr

/-- The two kinds of handoff: `sinc` and `sadd` add, `sset` sets (R132). -/
inductive HandKind where
  | add | set
deriving DecidableEq, Repr

/-- A late-write record (R63), with the turn in which the result was issued (R274). -/
structure LateWrite where
  reg : RegWrite
  k : Nat
  seq : Seq
  issued : Nat
deriving DecidableEq, Repr

/-- A handoff record (R63). -/
structure HandRec where
  sl : Fin 16
  kind : HandKind
  amount : BitVec 16
  seq : Seq
  k : Nat
deriving DecidableEq, Repr

/-- The two vector queues of a stroke (R128). -/
inductive VQ where
  | ax | xw
deriving DecidableEq, Repr

/-- One entry of a vector queue: filled, or reserved for the queue load `op` (R128). -/
structure VQEntry where
  val : Vec
  filled : Bool
  op : Nat
  clk : Clk
deriving DecidableEq, Repr

/-- One entry of an outcome queue with its pusher's clock (R124, R187). -/
structure OQEntry where
  bit : Bool
  clk : Clk
deriving DecidableEq, Repr

/-- The three label instructions (R336). -/
inductive LabelOp where
  | push | pop | mark
deriving DecidableEq, Repr

/-- One tensor slot (R268, R270). -/
structure Slot where
  valid : Bool
  ebase : Word
  estride : BitVec 32
  count : BitVec 32
  serifs : BitVec 32
  skip : BitVec 32
  steps : BitVec 32
  sweeps : BitVec 32
  ovcnt : BitVec 16
  overdec : Bool
  lostSeen : Bool
  running : Bool
deriving DecidableEq, Repr

/-- An effect of an issued instruction that takes force at the start of a later turn (R55, R56, R60, R130). -/
inductive Eff where
  /-- A fixed-latency result (R56). -/
  | reg (w : RegWrite)
  /-- A pending bit rises at the end of the issue turn (R60). -/
  | pend (r : RegRef)
  /-- PEND of a seal rises at the end of the issue turn (R130). -/
  | sealPend (s : Fin 16)
  /-- A handoff takes effect (R132). -/
  | handoff (s : Fin 16) (kind : HandKind) (amount : BitVec 16)
  /-- A CSR write: `op` 1 csrw, 2 csrs, 3 csrc; `task` says that it was made in mode T (R307, R308). -/
  | csr (op : Fin 4) (num : BitVec 12) (x : Word) (task : Bool)
  /-- Event counters rise by at most 1 each; bit i is counter i of `fpev` (R93). -/
  | fpev (e : BitVec 8)
  /-- `vrand` advances CTR, and sets RNGW when it wrapped (R91). -/
  | rng (ctr : Word) (wrapped : Bool)
  /-- `mmod` (R145). -/
  | modReg (i : Fin 8) (base : Word) (len : BitVec 32)
  /-- `bnld` (R111). -/
  | pattern (i : Fin 8) (x : BitVec 512)
  /-- New bin counters (R253). -/
  | bins (x : BitVec 4096)
  /-- `vrot` and `sploop` write `vrb` (R214, R217). -/
  | vrb (x : BitVec 4)
  /-- `sploop` writes `spctl` (R214). -/
  | spctl (x : Word)
  /-- A push to an outcome queue (R125). -/
  | oqPush (q : Seq) (b : Bool) (clk : Clk)
  /-- The popped slot of an outcome queue is freed (R127). -/
  | oqPop (q : Seq)
  /-- A queue load reserves a tail slot (R128). -/
  | vqReserve (op : Nat)
  /-- A local-form queue load fills its slot (R128). -/
  | vqFill (op : Nat) (x : Vec) (clk : Clk)
  /-- `vpush` (R128). -/
  | vqPush (x : Vec) (clk : Clk)
  /-- The popped slot of a vector queue is freed (R128). -/
  | vqPop (q : VQ)
  /-- `mfmt` appends a format word (R227). -/
  | fmtPush (w : BitVec 32)
  /-- `mcfg`, `mcfgr` (R230). -/
  | shadow (i : Fin 64) (x : BitVec 32)
  /-- `sdecl` (R269). -/
  | slot (t : Fin 8) (x : Slot)
  /-- `rpush`, `rpop`, `mark` (R336). -/
  | label (o : LabelOp) (l : BitVec 16)
  /-- `tmset` (R327). -/
  | timer (i : Fin 8) (x : Word)
  /-- `wlock` (R329). -/
  | lock (base len : Nat)
  /-- `wunlock` (R329). -/
  | unlock (base : Nat)
  /-- `xrcfg` (R287). -/
  | ring (r : Fin 4) (en : Bool) (base size rowLen : Nat)
  /-- `bfree` (R160). -/
  | blockFree (addr : Nat)
  /-- `ldblk` (state filling) and `bdrain` (state draining) set a block's entry (R158). -/
  | blockSet (addr lines : Nat) (va : Word) (state : Nat) (op : Nat)
  /-- `mresume` (R245). -/
  | mresume
  /-- Ring space that `xrpop` has released, and a message that it has removed (R293). -/
  | ringFree (r : Fin 4) (n : Nat)
  | mailPop
deriving DecidableEq, Repr

/-- An effect in flight: `due` is the stroke's turn number at whose start it takes force, `issued` the turn of issue,
`seq` the sequencer (R56, R57). -/
structure Landing where
  due : Nat
  issued : Nat
  seq : Seq
  eff : Eff
deriving DecidableEq, Repr

/-- One seal (R129). -/
structure Seal where
  count : BitVec 16
  pend : BitVec 12
  clk : Clk
deriving DecidableEq, Repr

/-- One modulo register (R145). -/
structure ModReg where
  base : Word
  len : BitVec 32
deriving DecidableEq, Repr

/-- What a trap or a debug routine holds back of a sequencer, beside the PC it saves: that PC, whether the sequencer had
ended (R134), the turns in which it was still to issue nothing (R63, DEDUCED, assumption 9), and whether it raises SWEEPFAULT
again (R40). -/
structure SeqHold where
  pc : Word
  ended : Bool
  lost : Nat
  fault : Bool
deriving DecidableEq, Repr

/-- What a stroke holds for one of its sequencers (R31, R33, R35, R37, R58, R131, R134, R176). -/
structure SeqSt where
  /-- The PC (R31). -/
  pc : Word
  /-- The sequencer has issued `sstop` and issues nothing more (R134). -/
  ended : Bool
  /-- What the traps and debug routines that have not returned yet hold back of it, newest first (R63, R134, DESIGN
  CHOICE, assumption 19). -/
  held : List SeqHold
  /-- Turns in which the sequencer will issue nothing before its next instruction (R35, R37, R58). -/
  lost : Nat
  /-- The line of the PC has passed the checks of R30. -/
  checked : Bool
  /-- The threshold that a waiting `waits` formed in its first attempt (R131). -/
  thr : Option (BitVec 16)
  /-- The sequencer stands at an `sjoin` that it has attempted (R134). -/
  joining : Bool
  /-- The SWEEPFAULT of the `sjoin` at the PC has been passed over for another trap of its turn, and is raised again (R40,
  R134). -/
  fault : Bool
  /-- The logical clock (R176). -/
  lc : Clk
deriving DecidableEq, Repr

/-- A recorded access to a serif of a running step block (R274). -/
inductive Merge where
  | dec (addr : Nat) (lost : Bool) (t : Clk)
  | wake (addr : Nat) (t : Clk)
deriving DecidableEq, Repr

/-- What the brush does next in a running sweep (R272, R276). -/
inductive SweepStage where
  /-- The next skip word is read. -/
  | read
  /-- The window taken by the read is loaded. -/
  | load
  /-- A step block is ready to start. -/
  | start
  /-- A step block is running. -/
  | run
  /-- The last member ended in turn `e` and the write-back is due. -/
  | writeBack (e : Nat)
deriving DecidableEq, Repr

/-- A running sweep: the brush state of a stroke (R272 to R276). -/
structure Sweep where
  slot : Fin 8
  sl : Fin 16
  /-- The set J, S included (R271). -/
  members : List Seq
  /-- The members that have not yet issued `sstop` in the running block (R273). -/
  running : List Seq
  /-- Where each member continues when the sweep ends (R134, R271). -/
  back : List (Seq × Word)
  /-- The window last taken, plus 1; 0 before the first (R272). -/
  cursor : Nat
  stage : SweepStage
  /-- The turn from which the stage's action may be taken (R276). -/
  notBefore : Nat
  /-- The private copy of the window: 32 serifs (R272). -/
  snap : Vec
  /-- Lanes of the window that a wake has reached between its read and its load: they run in the next sweep (R275). -/
  late : BitVec 32
  /-- The step of the block that last ran, plus 1; 0 when none (R272). -/
  last : Nat
  /-- The running block's step and lanes (R273). -/
  step : Nat
  lanes : BitVec 32
  /-- The turn in which the running block began (R274). -/
  began : Nat
  /-- Recorded accesses, oldest first (R274). -/
  merges : List Merge
  /-- The brush's clock and its largest time (R175, R187). -/
  lc : Clk
  /-- Traps taken and not yet returned from since the sweep began: the brush pauses in trap service (R276). -/
  paused : Nat
deriving DecidableEq, Repr

/-- A delivered cause that waits to be taken (R244, R311): its code and `tval`, the cycle in which it arose, and the cycle
from which it may be taken. -/
structure Cause where
  code : BitVec 8
  val : Word
  arose : Nat
  due : Nat
deriving DecidableEq, Repr

/-- The register files of a stroke (R44, R60, R108, R129, R145, R253). -/
structure Regs where
  g : Vector Word 32
  v : Vector Vec 32
  p : Vector Pred 8
  pendG : BitVec 32
  pendV : BitVec 32
  pendP : BitVec 8
  seals : Vector Seal 16
  m : Vector ModReg 8
  bins : BitVec 4096
  patterns : Vector (BitVec 512) 8
deriving DecidableEq, Repr

/-- The CSRs of a stroke that are part of its context (R308). `mode` is `tstatus.PRV` (R309). -/
structure Csrs where
  mode : Mode
  tstatus : Word
  tvec : Word
  tscratch : Word
  tcause : Word
  tval : Word
  tseq : Word
  tpc : Vector Word 4
  tie : Word
  /-- The write-one-to-clear bits of `tip`: codes 1, 9 and 11 (R312). -/
  tip : Word
  xob : Word
  ptroot : Word
  rngctr : Word
  rngseed : Word
  rngsid : Word
  fpev : Word
  vrb : BitVec 4
  spctl : Word
  mfault : Word
  rpolicy : Word
deriving DecidableEq, Repr

/-- What a context remembers of the task that it runs (R353, R387). -/
structure Task where
  /-- The launch, by the model's identity of it; 0 for none. -/
  launch : Nat
  /-- The task index x. -/
  index : Nat
  /-- The ready-queue id it runs under, if it came from the queue (R387). -/
  rq : Option (Fin 64)
  /-- Nib number where the context was launched (R317). -/
  origin : BitVec 32
  /-- The ruled-plane slots of the launch: N, E, S, W (R351). -/
  ruled : BitVec 4
deriving DecidableEq, Repr

/-- The queues and engine set-up that travel with a stroke (R124, R128, R220, R301, R318). -/
structure Annex where
  oq : Vector (List OQEntry) 4
  ax : List VQEntry
  xw : List VQEntry
  fmt : List (BitVec 32)
  /-- The shadow bank in the order of the context record: entry 8L + k is field 0x10 x L + k, entry 48 + f is field
  0x100 + f (R229, R318). -/
  shadow : Vector (BitVec 32) 64
  arrived : BitVec 64
  gen : Vector (BitVec 16) 64
  slots : Vector Slot 8
  sweep : Option Sweep
deriving DecidableEq, Repr

/-- A context: all of a stroke that a swap moves (R317, R318), with the model's identity of it. -/
structure Ctx where
  /-- The model's identity of the context, by which work in flight finds it (R323). -/
  cid : Nat
  r : Regs
  c : Csrs
  x : Annex
  seqs : Vector SeqSt 4
  inflight : List Landing
  lateWrites : List LateWrite
  handRecs : List HandRec
  /-- The turn U from which held records count after `tret` or a resumption; none while they stay held (R63). -/
  resumed : Option Nat
  /-- Delivered causes that wait to be taken, oldest first (R244, R311). -/
  causes : List Cause
  task : Task
  /-- The turn number of the context's launch, from which the turns of the clock's rise are counted (R189). -/
  born : Nat
  /-- An access that parked was withdrawn (R317, FLAGS bit 0). -/
  withdrawn : Bool
  /-- The label stack, newest first, with its two flags (R336). -/
  labels : List (BitVec 16)
  lovf : Bool
  lmis : Bool
  /-- The virtual function and the queue of the context's launch (R338). -/
  owner : Option (Fin 17 × Fin 64)
  /-- The capture gate and the four counters of R340. -/
  gate : Bool
  issued : BitVec 48
  nrMem : BitVec 48
  nrMsg : BitVec 48
  instr : BitVec 48
deriving DecidableEq, Repr

/-- Why a stroke is parked (R149). -/
inductive Park where
  /-- A replayable fault, by the parked request's identity. -/
  | replay (op : Nat)
  /-- A local-form synchronising access that waits at its word (R156). -/
  | sync (op : Nat)
deriving DecidableEq, Repr

/-- Whether a stroke position issues (R311, R312, R321, R332). -/
inductive Status where
  | vacant
  | running
  | parked (ws : List Park)
  /-- Debug-stopped, with the reason code of R333. -/
  | stopped (reason : BitVec 4)
  /-- A restored context begins to issue at the first turn from this cycle on (R321). -/
  | arriving (cycle : Nat)
deriving DecidableEq, Repr

/-- A message in a mailbox with its sender's clock (R294, R297). -/
structure Message where
  val : Word
  clk : Clk
deriving DecidableEq, Repr

/-- A record of a receive ring that is charged but not yet released (R288, R290). -/
structure RingRec where
  /-- Offset in the ring, length, and the KIND of R288. -/
  off : Nat
  len : Nat
  kind : Nat
  complete : Bool
  /-- The grant it belongs to (0 for a pad), its rows, and whether an `xsend` has claimed it (R292). -/
  grant : Nat
  rows : Nat
  claimed : Bool
  clk : Clk
deriving DecidableEq, Repr

/-- One receive ring (R286 to R290). -/
structure Ring where
  en : Bool
  base : Nat
  size : Nat
  rowLen : Nat
  /-- Offsets of HEAD and TAIL, and the bytes charged between them. -/
  head : Nat
  tail : Nat
  used : Nat
  /-- Outstanding grants (R290). -/
  grants : Nat
  recs : List RingRec
  /-- The stroke holds the record at HEAD (R293). -/
  held : Bool
  /-- The task that owned the ring has ended; it is disabled when no grant is outstanding (R286). -/
  closing : Bool
deriving DecidableEq, Repr

/-- The debug registers of a stroke position (R333, R334). -/
structure Debug where
  dline : BitVec 14
  gen : Bool
  gid : BitVec 4
  ebrk : Bool
  inDrun : Bool
  /-- The resumption that is due starts a debug routine, in which held records stay held (R334). -/
  drun : Bool
  /-- Kept PCs and mode of a debug routine (R334). -/
  keptPc : Vector Word 4
  keptMode : Mode
  /-- A stop that takes effect at the end of the next turn, with its reason (R333, R335). -/
  stopReq : Option (BitVec 4)
  /-- STEP: stop again at the end of the next turn (R334). -/
  stepping : Bool
  /-- RESUME of a group is due (R335). -/
  resumeReq : Bool
deriving DecidableEq, Repr

/-- One stroke position of a nib. -/
structure Stroke where
  status : Status
  ctx : Ctx
  compare : Word
  mailbox : List Message
  rings : Vector Ring 4
  dbg : Debug
  /-- A swap stops this stroke at the end of its turn: entry and the cycle of the `ctxsw` (R321). -/
  swap : Option (Fin 8 × Nat)
  /-- The cycle at which the latest swap on this position ends (R321). -/
  swapEnd : Nat
  /-- The class of its most recent turn was Issued (R341). -/
  lastIssued : Bool
  /-- A gate start and a gate stop that act at the end of the cycle (R338). -/
  gateOn : Bool
  gateOff : Bool
deriving DecidableEq, Repr

/-- What stands beside a context cache entry (R320, R340): the context itself, and whether a swap, store or load is in
progress on the entry (R321, order 3). -/
structure Entry where
  valid : Bool
  ctx : Ctx
  busyUntil : Nat
deriving DecidableEq, Repr

/-- The states of a ready-queue id (R324). -/
inductive RqState where
  | free | ready | running | sleeping | saving
deriving DecidableEq, Repr

/-- One ready-queue id (R324). -/
structure RqId where
  st : RqState
  wakePend : Bool
  tag : Clk
  /-- The task that a launch has placed here and that has not started: launch and index (R387). -/
  task : Option (Nat × Nat)
  /-- `rqpop` has taken that task, and it counts no more as one that has never run (R355). -/
  ran : Bool
deriving DecidableEq, Repr

/-- Tasks that wait in the nib kernel's own list (R387): task `index` of a launch, and with `more` also every later one
that falls to the nib (R353). -/
structure WaitTask where
  launch : Nat
  index : Nat
  more : Bool
deriving DecidableEq, Repr

/-- One well lock (R329). -/
structure WLock where
  base : Nat
  len : Nat
  owner : Fin 8
deriving DecidableEq, Repr

/-- One block-table entry that is not empty (R158): state 1 filling, 2 ready, 3 draining. -/
structure Block where
  addr : Nat
  lines : Nat
  va : Word
  state : Nat
  op : Nat
deriving DecidableEq, Repr

/-- A translation held by a TLB (R168): 64 KiB pages have `big` false, 256 MiB pages true. -/
structure TlbEntry where
  asid : BitVec 16
  page : Nat
  big : Bool
  frame : BitVec 32
  home : BitVec 2
  w : Bool
deriving DecidableEq, Repr

/-- A copy of a cell in a nib's data cache, with the time of the store whose data it holds and its lease end (R180). -/
structure Copy where
  cell : Nat
  data : BitVec 512
  wts : Clk
  rc : Clk
deriving DecidableEq, Repr

/-- An expectation of the exchange engine (R295). -/
structure Expect where
  serif : Nat
  dest : BitVec 32
  /-- The `xsend` that recorded it, and its clock then (DESIGN CHOICE, assumption 82). -/
  cmd : Nat
  clk : Clk
deriving DecidableEq, Repr

/-- The kinds of matrix command (R235, R237, R238, R239, R283). -/
inductive MKind where
  | mgo (asrc afwd : Fin 4)
  | mgrp (list : Word) (n : Nat)
  | mwld (bank : Fin 2) (va : Word) (len : Nat)
  | mzero (tile : Fin 8)
  | mrd (tile : Fin 8) (addr : Word)
  | topk (tile : Fin 8)
deriving DecidableEq, Repr

/-- One group of a grouped run (R239). -/
structure Group where
  va : Word
  expert : Nat
  rows : Nat
  fseal : Fin 16
  wmem : Bool
  fthr : BitVec 16
  gather : Word
  outTab : Word
  weight : Word
deriving DecidableEq, Repr

/-- A row of a grouped run's tile: its row number, the VAs of its A images, of its output row, and of its serif (R241). -/
structure GRow where
  row : Nat
  gather : Word
  out : Word
  serif : Word
deriving DecidableEq, Repr

/-- Where a grouped run stands (R240, R241). -/
structure GrpRun where
  /-- The next list entry of pass 1, and the absent groups noted for pass 2. -/
  at_ : Nat
  noted : List Group
  cur : Option Group
  /-- The group's weight image is being loaded, or is in its bank. -/
  loading : Bool
  loaded : Bool
  bank : Fin 2
  loads : Nat
  /-- The tile of rows with the entries read for it, the output tile, and the slab. -/
  tile : Nat
  rows : List GRow
  q : Nat
  j : Nat
deriving DecidableEq, Repr

/-- A row of an emit that is still to be written (R233): the VA of the row, or of its table entry, the image, its size and
alignment, and the VA of its serif. `sent` says that its write has been sent, by the operation of that number, 0 when
it has been performed. -/
structure MRow where
  va : Word
  table : Bool
  data : Nat
  size : Nat
  align : Nat
  serif : Word
  sent : Option Nat
  /-- The time of its write, once it has been performed (R234). -/
  time : Clk
deriving DecidableEq, Repr

/-- A matrix command (R229, R231, R236). The snapshot has the order of the shadow bank. -/
structure MCmd where
  id : Nat
  cid : Nat
  stroke : Fin 8
  seq : Seq
  sl : Fin 16
  kind : MKind
  fmt : BitVec 32
  snap : Vector (BitVec 32) 64
  issue : Nat
  /-- The clock of the command and the largest time of its accesses (R177, R187). -/
  lc : Clk
  tmax : Clk
  /-- Slabs begun or ended; the index vector is its digits (R231). -/
  slab : Nat
  /-- A slab, or an occupation of the array, is running. -/
  running : Bool
  /-- The next slab begins an output tile (R231). -/
  newTile : Bool
  /-- The value of the tile at the start of the output tile, and its slabs so far (R247). -/
  start : BitVec 32768
  tileSlabs : Nat
  /-- Output tiles completed (R243). -/
  tiles : Nat
  /-- Rows still to be written (R232, R233). -/
  rows : List MRow
  /-- Events to be counted at the post (R93). -/
  ev : BitVec 8
  grp : GrpRun
  /-- How often the checksum of the output tile has failed, and the slabs of its rerun still to end (R247). -/
  failed : Nat
  rerun : Nat
  /-- No slab follows (R236); the seal has been posted. -/
  done : Bool
  posted : Bool
deriving DecidableEq, Repr

/-- One weight bank (R224, R225): whether it is valid, RAWLEN, and the decoded stream as a little-endian number. -/
structure Bank where
  valid : Bool
  len : Nat
  data : Nat
deriving DecidableEq, Repr

/-- The matrix engine of a nib (R220). -/
structure Matrix where
  tiles : Vector (BitVec 32768) 8
  banks : Vector Bank 2
  queue : List MCmd
  /-- The command that holds the array, and the instant at which its slab or occupation ends, in units of 1/720,720 of a
  cycle (R221). -/
  array : Option MCmd
  arrayEnd : Nat
  /-- The `mwld` that holds the loader (R237). -/
  loader : Option MCmd
  /-- Commands that hold neither and whose rows or post are still due (R236). -/
  draining : List MCmd
  /-- Stopped commands, and the held commands of their strokes (R244). -/
  stopped : List MCmd
  held : List MCmd
  /-- A panels that have arrived on the ruled plane from the west and from the north, each with the stroke whose slots it
  used (R16, R242). -/
  fromWest : List (Fin 8 × Nat)
  fromNorth : List (Fin 8 × Nat)
deriving DecidableEq, Repr

/-- The ready histogram, locks, engines and kernel state of one nib. -/
structure Nib where
  strokes : Vector Stroke 8
  tmpend : BitVec 8
  /-- The cycle in which the nib last set bits of `tmpend` and of `tip` of stroke 7, and those bits: a clear by a CSR write
  of that cycle leaves them set (R307, R312). -/
  firedAt : Nat × BitVec 8
  tipAt : Nat × Word
  ctxEn : Bool
  entries : Vector Entry 8
  rq : Vector RqId 64
  rqLists : Vector (List (Fin 64)) 4
  locks : List WLock
  /-- Strokes that wait for a lock, in the order of first attempt (R329): stroke, base, length. -/
  lockWait : List (Fin 8 × Nat × Nat)
  /-- The waiter table and the held requests, each by the identity of its access (R155). -/
  waiters : List Nat
  heldReqs : List Nat
  blocks : List Block
  tlb : List TlbEntry
  copies : List Copy
  matrix : Matrix
  /-- Requests of the special-function unit, oldest first (R212). -/
  sfu : List Nat
  /-- The cycle in which the special-function unit is next free (R212). -/
  sfuFree : Nat
  /-- Waiting requests of the select unit, and the cycle in which its current service ends (R260). -/
  select : List Nat
  selectFree : Nat
  /-- Copy commands in flight (R278). -/
  quill : List Nat
  /-- The copy command that the quill served last (R278). -/
  quillTurn : Nat
  expects : List Expect
  expectReserved : Nat
  guestOut : Nat
  hist : Vector (BitVec 48) 9
  /-- Tasks that wait in the nib kernel's own list (R387). -/
  waiting : List WaitTask
  /-- READY-task counts that the neighbours last reported, N, E, S, W (R355). -/
  load : Vector Nat 4
deriving DecidableEq, Repr

/-- An instance of a barrier id (R299 to R303). -/
structure BarInst where
  id : Fin 64
  /-- The number of the instance within the partition: its domain's coordinate (R19). -/
  inst : Nat
  gen : BitVec 16
  arrivals : Nat
  /-- Contributions of this generation, lane by lane (R303). -/
  sum : Vector Word 8
  /-- Operations that wait for the release, the largest clock of the arrivals, and the launch of the first (R301, R302). -/
  waits : List Nat
  clk : Option Clk
  /-- The largest clock of a released generation; none before the first (R297). -/
  relClk : Option Clk
  launch : Nat
  /-- Turns counted by the watchdog (R302). -/
  turns : Nat
deriving DecidableEq, Repr

/-- One publish entry (R190). -/
structure Pub where
  va : BitVec 48
  back0 : BitVec 32
  back1 : BitVec 32
  asid : BitVec 16
  pages : BitVec 13
  sel : Bool
  en : Bool
  /-- The times at which `pub` has flipped SEL since the entry was enabled, newest first: SEL as it stood at an earlier time
  (R191, R192). -/
  flips : List Clk
deriving DecidableEq, Repr

/-- One fabric window (R282). -/
structure Fwin where
  modn : BitVec 16
  pvf : BitVec 5
  en : Bool
deriving DecidableEq, Repr

/-- A fault record (R173). -/
structure FaultRec where
  va : Word
  nib : BitVec 32
  asid : BitVec 16
  kind : BitVec 8
  reqs : BitVec 8
deriving DecidableEq, Repr

/-- Traffic that waits at a border of its partition (R360): its channel (R298), the folio edge routers that it has still to
enter, in the order of its way, each with the bytes not yet paid for there, and the events that it then brings, each from its
cycle on. `asks` says that these events make the accesses themselves, and come with their traffic paid for. -/
structure Crossing where
  chan : Fin 4
  owes : List (Fin 16 × Nat)
  evs : List (Nat × Instr)
  asks : Bool
deriving DecidableEq, Repr

/-- One partition (R26), with its memory registers (R169, R179, R190, R261, R282, R299, R335, R337, R342). -/
structure Part where
  /-- The virtual function, 1 to 16; 0 when the partition does not exist. -/
  vf : Nat
  folios : BitVec 16
  pinlim : Nat
  rate : Word
  burst : Word
  /-- Bytes in its token bucket in the edge router of each folio, the traffic that waits at its borders, oldest first, the bytes
  that the accesses of the running event carry into each router, and the events that are paid for (R360, DESIGN CHOICE,
  assumption 70). -/
  tokens : Vector Nat 16
  border : List Crossing
  toll : List (Fin 16 × Nat)
  through : List Instr
  inval : Word
  invBusy : Bool
  /-- The cycle by which the running invalidation ends (R169). -/
  invEnd : Nat
  lease : BitVec 13
  ertFrame : BitVec 32
  nexp : BitVec 13
  pubs : Vector Pub 16
  barwd : BitVec 6
  barcfg : Vector (BitVec 27) 64
  bars : List BarInst
  fwin : Vector Fwin 16
  faults : List FaultRec
  drop : Bool
  filters : Vector Word 8
  tbase : Word
  tsize : BitVec 32
  tovf : Bool
  tdrop : BitVec 15
  tpos : BitVec 32
  tsamp : BitVec 6
  hostLc : Clk
  /-- Destructions and RESIZEs in progress: meanwhile its queues start no packet (R359). -/
  held : Nat
deriving DecidableEq, Repr

/-- A packet that a queue has accepted (R348 to R350). -/
structure Packet where
  id : Nat
  slot : Nat
  bits : BitVec 512
  inline : Bool
  started : Bool
  done : Bool
  /-- The clock at which its accesses start (R349). -/
  clk : Clk
  /-- The cycle in which the front end accepted it (R20). -/
  accepted : Nat
  /-- Repetitions of a LOOP, bytes copied by a COPY, or steps done by a RESIZE (R356, R359). -/
  iters : Nat
  /-- The traffic of its next access has been paid for at the border (R360). -/
  paid : Bool
deriving DecidableEq, Repr

/-- An open capture (R343, R357). -/
structure Capture where
  area : Word
  size : Word
  used : Nat
  regions : List (Word × Word)
deriving DecidableEq, Repr

/-- A replay in progress (R344). -/
structure Replay where
  area : Word
  /-- The item of the capture area that is read next, and the launch index. -/
  pos : Nat
  index : Nat
  /-- The launch that is running. -/
  waitFor : Option Nat
  /-- The regions whose CRCs are compared, as the captured CAPSTART declared them (R344). -/
  regions : List (Word × Word)
deriving DecidableEq, Repr

/-- One command queue (R346, R347). -/
structure Queue where
  en : Bool
  base : Word
  log2 : BitVec 5
  head : BitVec 16
  tail : BitVec 16
  /-- The slot that is fetched next; HEAD stays behind it while a LOOP repeats (R356). -/
  pos : Nat
  /-- The slot of the LOOP that repeats, and its repetitions so far (R356). -/
  loop : Option (Nat × Nat)
  /-- Slots whose latest packet came inline (R356). -/
  inlineSlots : List Nat
  root : Word
  err : Bool
  dropw : Bool
  code : BitVec 8
  /-- Accepted packets that later packets may still wait for, oldest first. -/
  pkts : List Packet
  /-- Inline packets that were offered but are not yet accepted, by slot (R347). -/
  inlined : List (Nat × BitVec 512)
  capture : Option Capture
  /-- Packets that COND skips next (R356). -/
  skip : Nat
  /-- The clock of completions; none before the first (R349). -/
  clk : Option Clk
deriving DecidableEq, Repr

/-- One virtual function (R345, R360); number 0 is the physical function. -/
structure Vf where
  queues : List (Fin 64 × Queue)
  /-- MSI-X vectors raised so far: how often each (R360). -/
  msix : Vector Nat 4
  replay : Option Replay
deriving DecidableEq, Repr

/-- A launch in progress (R353, R387). -/
structure Launch where
  id : Nat
  vf : Fin 17
  queue : Fin 64
  pkt : Nat
  bits : BitVec 512
  /-- The launch record (R352). -/
  record : BitVec 1024
  root : Word
  /-- The clock of its wake, and the largest clock with which one of its tasks has ended (R177, R349). -/
  clk : Clk
  endClk : Clk
  /-- Tasks that have not ended, and whether one was lost (R386). -/
  left : Nat
  lost : Bool
  part : Fin 16
  /-- The folios of the partition when the launch was accepted (R353). -/
  folios : BitVec 16
deriving DecidableEq, Repr

/-- How a memory access of an operation uses its data (R150 to R157, R192). -/
inductive Use where
  /-- Load `size` bytes into a g register, sign-extended or not. -/
  | loadG (d : Fin 32) (size : Nat) (sx : Bool)
  /-- Load into a physical v register; a gather also. -/
  | loadV (d : Fin 32)
  /-- Load into the A→X queue slot that the operation reserved. -/
  | loadQ
  | store
  /-- Atomic of `size` bytes: operator, y and c. -/
  | amo (d : Fin 32) (size : Nat) (op : Fin 16) (y c : Nat)
  /-- `ldfe` 0, `ldff` 1, `stfe` 2, `stff` 3. -/
  | sync (kind : Fin 4) (d : Fin 32)
  | pub (p : Fin 16) (e : Fin 16)
deriving DecidableEq, Repr

/-- One piece of a memory access: it lies in one cell. Its VA, the PA it translated to, whether the page may be cached
(R182), its size in bytes, and the byte of the access's data at which it begins. -/
structure Range where
  va : Word
  pa : Nat
  size : Nat
  cache : Bool
  at_ : Nat
deriving DecidableEq, Repr

/-- The row that a copy command is at (R278, R281): the bytes of its source read so far, whether its data stand complete
(packed, under `cpy.pack`), and the bytes written of them. -/
structure CopyRow where
  got : Nat
  ready : Bool
  buf : Nat
  put : Nat
  /-- The traffic of the next access has been paid for at the border (R360). -/
  paid : Bool
deriving DecidableEq, Repr

/-- Where a guest packet stands (R365, R366): on its way to the port, at the port, which refuses it, or with the guest. -/
inductive GuestWay where
  | coming | refused | sent
deriving DecidableEq, Repr

/-- What an operation in flight does when its events come. -/
inductive OpKind where
  /-- A memory access (R143, R156): pieces still to perform, and the data to store or gathered so far. `waiting` while it
  stands in a waiter table or is held for one (R155). -/
  | access (use : Use) (todo : List Range) (data : Nat) (waiting : Bool)
  /-- A TLB fill of a nib (R148); `code` is 0 for a load, 1 for a store, 2 for an atomic (R173). -/
  | tlbFill (asid : BitVec 16) (va : Word) (code : Fin 4)
  /-- A block fill or drain: the block's address, and the cells of its source still to copy (R159, R160). -/
  | block (addr : Nat) (todo : List Range) (drain : Bool)
  /-- A special-function request (R211). -/
  | sfu (d : Fin 32) (val : Vec) (ev : BitVec 8)
  /-- An access of a matrix command that a replayable fault holds (R246). -/
  | matrix (cmd : Nat)
  /-- A row of an emit on its way to its home, and the landing decrement that follows it: VA and PA (R233, R234). -/
  | mrow (cmd : Nat) (todo : List Range) (data : Nat) (decr : Option (Word × Nat))
  /-- An A panel on the ruled plane, to nib `dest` from the west (0) or the north (1), in the slots of a stroke (R242). -/
  | panel (dest : NibId) (dir : Fin 4) (k : Fin 8) (data : Nat)
  | matrixPost (ev : BitVec 8)
  /-- A select-unit request: descriptor, selr or selc, policy (R254). -/
  | select (desc : BitVec 384) (col : Bool) (policy : Fin 4)
  /-- A copy: descriptor address, descriptor, kind 0 cpy, 1 topk, 2 pack, rows done, the next row, topk's tile, and events
  (R279). -/
  | copy (desc : Word) (d : BitVec 512) (kind : Fin 4) (at_ : Nat) (row : CopyRow) (tile : Option (BitVec 32768)) (ev : BitVec 8)
  /-- A permit request on its way, or its answer (R289). -/
  | permit (blk : Word) (req : Word)
  | permitAns (blk : Word) (req : Word) (status : Nat) (off charge grant : Nat)
  /-- A send or a cancel: permit block, send list, grant, target stroke, ring, rows, the record's well address, LEN and
  ROWLEN, and the entries done (R292). -/
  | send (blk list : Word) (grant target : Nat) (ring : Fin 4) (n addr len rowLen at_ : Nat)
  /-- A message on its way, or its status on its way back from its target (R294, R296). -/
  | msg (d : Fin 32) (target val : Word)
  | msgAns (d : Fin 32) (target : Word) (status : Nat)
  /-- A barrier arrival or wait (R300, R303). -/
  | barArr (p : Fin 16) (id : Fin 64) (wait : Bool) (sum : Option (Word × BitVec 512))
  | barWait (p : Fin 16) (id : Fin 64)
  | barPost (abandoned : Option Word) (sum : Option (Word × BitVec 512))
  /-- A guest packet, with the `ptroot` of its stroke (R364, R367). -/
  | guest (addr : Word) (pkt : BitVec 512) (vf : Nat) (root : Word) (way : GuestWay)
  /-- A guest packet's answer (R366). -/
  | guestAns (addr : Word) (status : BitVec 32)
  /-- `ctxst` or `ctxld`: entry, and cells done (R322). -/
  | ctxMove (e : Fin 8) (va : Word) (store : Bool) (done : Nat)
  /-- A landing decrement on its way (R265), for the command `owner`. -/
  | decr (va : Word) (pa : Nat) (src : BitVec 32) (owner : Nat)
deriving DecidableEq, Repr

/-- An operation in flight: who issued it, what it does, and when. -/
structure Op where
  id : Nat
  /-- The issuing nib, context and sequencer; the seal it posts. -/
  nib : NibId
  cid : Nat
  seq : Seq
  sl : Fin 16
  kind : OpKind
  /-- The stroke position it was issued from. -/
  stroke : Fin 8
  /-- The cycle from which its next event may come. -/
  due : Nat
  /-- It has been performed, and its landing waits for the stroke's turn. -/
  performed : Bool
  /-- A replayable fault holds it until REPLAYALL (R170). -/
  parked : Bool
  /-- The clock it started with, and the largest time of its accesses (R177, R187). -/
  lc : Clk
  tmax : Clk
  /-- A cause that ended or stopped it (R285, R291): code and VA. -/
  fail : Option (BitVec 8 × Word)
deriving DecidableEq, Repr

/-- Stamps of a run of cells (R178): the newest run that covers a cell gives its wts and rts. -/
structure Stamp where
  lo : Nat
  hi : Nat
  wts : Clk
  rts : Clk
deriving DecidableEq, Repr

/-- An entry of a folio's coalescing table (R171). -/
structure Coal where
  asid : BitVec 16
  page : Nat
  ops : List Nat
deriving DecidableEq, Repr

/-- One folio (R9, R10, R168, R171, R296). -/
structure Folio where
  unavailable : Bool
  lost : Bool
  tlb : List TlbEntry
  coal : List Coal
  /-- The stamp of the folio's cells that no run of `State.stamps` covers: 0, or the floor that CLOCK_FLOOR has raised it to
  (R176). -/
  base : Clk
deriving DecidableEq, Repr

/-- A translation that the bonnet guest holds, for the virtual function it was asked for (R367). -/
structure GuestTlb where
  vf : Nat
  entry : TlbEntry
deriving DecidableEq, Repr

/-- A duty of the guest whose deadline runs (R367): the FCAUSE code of R363, the partition, virtual function or packet
concerned, the address that a fault report is due for, and the cycle of expiry. -/
structure GuestDuty where
  cause : Nat
  what : Nat
  va : Word
  expiry : Nat
deriving DecidableEq, Repr

/-- The bonnet port (R361 to R368). -/
structure Bonnet where
  vfMask : BitVec 16
  en : Bool
  fcause : BitVec 8
  rate : BitVec 8
  mods : BitVec 4
  fenced : Bool
  up : Bool
  present : Bool
  l1 : Bool
  /-- The largest time returned to the guest (R193, R368). -/
  lc : Clk
  /-- The guest's clock as its latest message carried it, and the cycle in which it last rose (R193). -/
  seen : Clk × Nat
  /-- The largest clock that a message to the guest has carried (R362). -/
  told : Clk
  tlb : List GuestTlb
  /-- Guest requests that a replayable fault holds (R367): VA and the packet served. -/
  parked : List (Word × Nat)
  /-- Deadlines that run (R367). -/
  deadlines : List GuestDuty
  /-- Virtual functions pre-empted (R367). -/
  preempted : BitVec 16
deriving DecidableEq, Repr

/-- An attestation report (R374): the version and the digest of the running image, the digest of the configuration blob,
`devid`, the nonce, and the signature. -/
structure Report where
  fwver : BitVec 32
  image : BitVec 512
  blob : BitVec 512
  devid : Word
  nonce : BitVec 256
  signature : Nat
deriving DecidableEq, Repr

/-- The module registers and firmware state (R369 to R375). -/
structure Module where
  modn : BitVec 16
  ready : Bool
  recov : Bool
  therm : Bool
  /-- Dies that have reached 115 °C and have not fallen below 105 °C since (R369). -/
  hot : BitVec 32
  capk : BitVec 8
  capcnt : Word
  fwver : BitVec 32
  /-- The configuration blob permits a guest (R361). -/
  guestOk : Bool
  /-- The recovery image window, and the image in the module flash, each as the bytes written by a recovery (R375). -/
  window : List Host.Cell
  flash : List Host.Cell
  nonce : BitVec 256
  report : Option Report
  /-- The device identity key that the firmware derived at the last boot (R374). -/
  key : BitVec 512
  /-- The step k that the last power measurement chose (R371). -/
  powerK : BitVec 8
  /-- The stamp of the control registers' cells that no run of `State.stamps` covers (R176). -/
  base : Clk
  /-- Other modules that have been declared lost (R296). -/
  gone : List (BitVec 16)
deriving DecidableEq, Repr

/-- Where a step stands inside a cycle (DESIGN CHOICE, assumption 6). -/
inductive Stage where
  /-- Landings and engine answers that take effect at the start of the turn. -/
  | begin
  /-- Sequencer `q` issues next. -/
  | issue (q : Seq)
  /-- The end of the turn. -/
  | finish
deriving DecidableEq, Repr

/-- What the next step does (DESIGN CHOICE, assumption 6). -/
inductive Phase where
  /-- Module reset has just happened: the boot sequence runs (R373). -/
  | boot
  /-- Device events and outside inputs of the cycle. -/
  | events
  /-- Turns of the cycle: the nibs still to take theirs, the first at `stage`. -/
  | turn (ns : List NibId) (stage : Stage)
deriving DecidableEq, Repr

/-- The instruction slot that is issuing: the nib, the stroke, the sequencer. -/
structure Cur where
  nib : NibId
  k : Fin 8
  q : Seq
deriving DecidableEq, Repr

/-- What one turn of a stroke has done so far. -/
structure Turn where
  /-- An exception has been taken in this turn (R40, R313). -/
  trapped : Bool
  /-- The mode in which the turn's instructions run (R313). -/
  mode : Mode
  /-- `tstatus` and the sweep's traps in service as they stood before a `tret` of the turn (R314, R315). -/
  status : Word
  paused : Nat
  /-- The sequencers' state at the trap, for those that issue after it in the same turn (R40). -/
  seqs : Vector SeqSt 4
  /-- Sequencers that issued; sequencers that waited, and whether on memory (R339). -/
  issued : List Seq
  waitMem : Bool
  waitMsg : Bool
  /-- Bytes of the well that local-form stores of this turn have replaced (R143). -/
  undo : List Host.Cell
  /-- S issued `sstop` outside a step block in this turn (R134). -/
  sEnded : Bool
  /-- `tret`, `halt`, `fence.i` and parks act at the end of the turn (R149, R315, R316). -/
  tret : Bool
  halt : Option (BitVec 4)
  fence : Bool
  park : List (Park × Seq)
  /-- The clock of R189 has risen in this turn; the brush has acted; a park has been re-examined. -/
  ticked : Bool
  brushed : Bool
  swept : Bool
  /-- How many actions of the end of the turn are behind it. -/
  fin : Nat
deriving DecidableEq, Repr

/-- The whole machine. -/
structure State where
  /-- Cycles since module reset (R11). -/
  cycle : Nat
  phase : Phase
  cur : Cur
  turn : Turn
  /-- The nibs that do not stand as reset left them, by rising number. -/
  nibs : List (NibId × Nib)
  folios : Vector Folio 16
  parts : Vector Part 16
  vfs : Vector Vf 17
  launches : List Launch
  modu : Module
  bonnet : Bonnet
  /-- Memory of the module by physical address (R140); an unlisted byte is 0 (DESIGN CHOICE, assumption 1). -/
  mem : List Host.Cell
  /-- Memory of the host by IOVA (R346, R356). -/
  hostMem : List Host.Cell
  /-- The physical addresses of the 8-byte well words that are full (R153), rising. -/
  full : List Nat
  stamps : List Stamp
  /-- What stands beside a context record that `ctxst` has written, by the number of the context that the record holds (R317,
R318, DESIGN CHOICE, assumption 20). -/
  saved : List (Nat × Ctx)
  ops : List Op
  /-- Events due at a cycle, and outside inputs, in the order in which they act (DESIGN CHOICE, assumption 13). -/
  agenda : List (Nat × Instr)
  /-- The model's counter of free values (DESIGN CHOICE, assumption 3). -/
  fresh : Nat
  /-- The model's counter of identities. -/
  nextId : Nat
deriving DecidableEq, Repr

/-- Why a run stops with a fault. No step raises one: every condition that the spec calls a fault is an exception that
the machine takes, an answer of an engine, or a refused packet, and all of these are next states. -/
inductive Fault where
deriving DecidableEq, Repr

/-- Why an instruction is refused. -/
inductive Refusal where
  /-- The instruction has no meaning in this model yet. Raised only by `exec`'s refused arms. Safe. -/
  | notModelled (mnemonic : String)
deriving DecidableEq, Repr

/-! ## Reset -/

/-- A vacant slot (R268: a launch leaves every slot invalid). -/
def Slot.reset : Slot := ⟨false, 0, 0, 0, 0, 0, 0, 0, 0, false, false, false⟩

def Seal.reset : Seal := ⟨0, 0, 0⟩

def SeqSt.reset : SeqSt := ⟨0, false, [], 0, false, none, false, false, 0⟩

/-- The identity pattern: entry i copies source bit i (R108). -/
def identityPattern : BitVec 512 :=
  BitVec.ofNat 512 ((List.range 64).foldl (fun a i => a + i * 2 ^ (8 * i)) 0)

/-- The register files of a stroke that no launch has written (DESIGN CHOICE, assumption 2). p0 reads all ones (R44). -/
def Regs.reset : Regs :=
  { g := .replicate 32 0, v := .replicate 32 0, p := (Vector.replicate 8 0).set 0 (BitVec.allOnes 128)
    pendG := 0, pendV := 0, pendP := 0, seals := .replicate 16 Seal.reset, m := .replicate 8 ⟨0, 0⟩
    bins := 0, patterns := .replicate 8 identityPattern }

/-- CSRs after reset: the Reset columns of R89, R92, R162, R216, R243, R257, R309, R310, R312. -/
def Csrs.reset : Csrs :=
  { mode := .t, tstatus := 0, tvec := 0, tscratch := 0, tcause := 0, tval := 0, tseq := 0, tpc := .replicate 4 0
    tie := 0, tip := 0, xob := 0, ptroot := 0, rngctr := 0, rngseed := 0, rngsid := 0, fpev := 0, vrb := 0
    spctl := 0, mfault := 0, rpolicy := 0 }

/-- The launch values of the shadow bank (R229): every count 1, `m` and `n` 32, `rowmask` all ones, the rest 0. -/
def shadowReset : Vector (BitVec 32) 64 :=
  ((((((((Vector.replicate 64 (0 : BitVec 32)).set 0 1).set 8 1).set 16 1).set 24 1).set 32 1).set 40 1).set 54 32).set 55 0xFFFFFFFF
    |>.set 56 32

def Annex.reset : Annex :=
  { oq := .replicate 4 [], ax := [], xw := [], fmt := [], shadow := shadowReset, arrived := 0, gen := .replicate 64 0
    slots := .replicate 8 Slot.reset, sweep := none }

def Task.reset : Task := ⟨0, 0, none, 0, 0⟩

def Ctx.reset : Ctx :=
  { cid := 0, r := Regs.reset, c := Csrs.reset, x := Annex.reset, seqs := .replicate 4 SeqSt.reset, inflight := []
    lateWrites := [], handRecs := [], resumed := none, causes := [], task := Task.reset, born := 0, withdrawn := false
    labels := [], lovf := false, lmis := false, owner := none, gate := false, issued := 0, nrMem := 0, nrMsg := 0, instr := 0 }

def Ring.reset : Ring := ⟨false, 0, 0, 0, 0, 0, 0, 0, [], false, false⟩

def Debug.reset : Debug := ⟨0, false, 0, false, false, false, .replicate 4 0, .t, none, false, false⟩

def Stroke.reset : Stroke :=
  { status := .vacant, ctx := Ctx.reset, compare := 0, mailbox := [], rings := .replicate 4 Ring.reset
    dbg := Debug.reset, swap := none, swapEnd := 0, lastIssued := false, gateOn := false, gateOff := false }

def Entry.reset : Entry := ⟨false, Ctx.reset, 0⟩

def RqId.reset : RqId := ⟨.free, false, 0, none, false⟩

def GrpRun.reset : GrpRun := ⟨0, [], none, false, false, 0, 0, 0, [], 0, 0⟩

/-- The matrix engine after module reset (R220). -/
def Matrix.reset : Matrix :=
  { tiles := .replicate 8 0, banks := .replicate 2 ⟨false, 0, 0⟩, queue := [], array := none, arrayEnd := 0
    loader := none, draining := [], stopped := [], held := [], fromWest := [], fromNorth := [] }

def Nib.reset : Nib :=
  { strokes := .replicate 8 Stroke.reset, tmpend := 0, firedAt := (0, 0), tipAt := (0, 0), ctxEn := false, entries := .replicate 8 Entry.reset
    rq := .replicate 64 RqId.reset, rqLists := .replicate 4 [], locks := [], lockWait := [], waiters := []
    heldReqs := [], blocks := [], tlb := [], copies := [], matrix := Matrix.reset, sfu := [], sfuFree := 0
    select := [], selectFree := 0, quill := [], quillTurn := 0, expects := [], expectReserved := 0
    guestOut := 0, hist := .replicate 9 0, waiting := [], load := .replicate 4 0 }

/-- A publish entry after reset: PAGES is 1 (R190). -/
def Pub.reset : Pub := ⟨0, 0, 0, 0, 1, false, false, []⟩

/-- The memory registers of a partition after reset: LEASE 0x40 (R179), BARWD 0x18 (R299). -/
def Part.reset : Part :=
  { vf := 0, folios := 0, pinlim := 0, rate := 0, burst := 0, tokens := .replicate 16 0, border := [], toll := []
    through := [], inval := 0, invBusy := false, invEnd := 0
    lease := 0x40, ertFrame := 0, nexp := 0, pubs := .replicate 16 Pub.reset, barwd := 0x18
    barcfg := .replicate 64 0, bars := [], fwin := .replicate 16 ⟨0, 0, false⟩, faults := [], drop := false
    filters := .replicate 8 0, tbase := 0, tsize := 0, tovf := false, tdrop := 0, tpos := 0, tsamp := 0
    hostLc := 0, held := 0 }

/-- Queue registers after reset: QSIZE.LOG2 is 4 (R346). -/
def Queue.reset : Queue :=
  { en := false, base := 0, log2 := 4, head := 0, tail := 0, pos := 0, loop := none
    inlineSlots := [], root := 0, err := false, dropw := false, code := 0
    pkts := [], inlined := [], capture := none, skip := 0, clk := none }

def Vf.reset : Vf := ⟨[], .replicate 4 0, none⟩

def Folio.reset : Folio := ⟨false, false, [], [], 0⟩

def Bonnet.reset : Bonnet := ⟨0, false, 0, 0, 0, false, false, false, false, 0, (0, 0), 0, [], [], [], 0⟩

/-- The module registers after reset (R372): CAPK 0x10, READY 0. -/
def Module.reset : Module :=
  { modn := 0, ready := false, recov := false, therm := false, hot := 0, capk := 0x10, capcnt := 0, fwver := 0, guestOk := false
    window := [], flash := [], nonce := 0, report := none, key := 0, powerK := 0x10, base := 0, gone := [] }

def Turn.reset : Turn :=
  { trapped := false, mode := .t, status := 0, paused := 0, seqs := .replicate 4 SeqSt.reset, issued := [], waitMem := false, waitMsg := false
    undo := [], sEnded := false, tret := false, halt := none, fence := false, park := [], ticked := false, brushed := false
    swept := false, fin := 0 }

/-- The machine right after module reset: no context resident, nothing launched, the boot sequence next (R373). -/
def State.reset : State :=
  { cycle := 0, phase := .boot, cur := ⟨0, 0, .s⟩, turn := Turn.reset, nibs := [], folios := .replicate 16 Folio.reset
    parts := .replicate 16 Part.reset, vfs := .replicate 17 Vf.reset, launches := [], modu := Module.reset
    bonnet := Bonnet.reset, mem := [], hostMem := [], full := [], stamps := [], saved := [], ops := [], agenda := []
    fresh := 0, nextId := 1 }

end Sys2Proof.Machine
end

