-- ==== Sys2Proof/Machine/CsrFields.lean ====
section
/-! DEFINITION. Sys2Proof/Machine/CsrFields.lean: the numbers of the control and status registers, and what a write does to
the fields of each (12_system.md R307 to R312). -/

namespace Sys2Proof.Machine

open Sys2Proof

/-- The interrupt codes that `tie` and `tip` hold: 1, 5, 7, 9 and 11 (R312). -/
def intMask : Word := 0xAA2

/-- `xob` never exceeds 0x6_0000 (R310). -/
def xobClamp (x : Word) : Word := if 0x60000 < x.toNat then 0x60000 else x &&& 0x7FFE0

/-- The CSRs of a stroke (R308). -/
inductive CsrId where
  | rngctr | rngseed | rngsid | fpev | vrb | spctl | mfault | rpolicy
  | tvec | tstatus | tscratch | tcause | tval | tseq | tpc (q : Fin 4) | tie | tip | lwstat | xob
  | ptroot | ctxcfg | nturn | tmpend | nksig | devid
deriving DecidableEq, Repr

/-- The CSR of a number; none for a number absent from R308. -/
def CsrId.ofNum (n : BitVec 12) : Option CsrId :=
  match n.toNat with
  | 0x0C0 => some .rngctr
  | 0x0C1 => some .rngseed
  | 0x0C2 => some .rngsid
  | 0x0C3 => some .fpev
  | 0x0C4 => some .vrb
  | 0x0C5 => some .spctl
  | 0x0C8 => some .mfault
  | 0x0C9 => some .rpolicy
  | 0x100 => some .tvec
  | 0x101 => some .tstatus
  | 0x102 => some .tscratch
  | 0x103 => some .tcause
  | 0x104 => some .tval
  | 0x105 => some .tseq
  | 0x106 => some (.tpc 0)
  | 0x107 => some (.tpc 1)
  | 0x108 => some (.tpc 2)
  | 0x109 => some (.tpc 3)
  | 0x10A => some .tie
  | 0x10B => some .tip
  | 0x10C => some .lwstat
  | 0x10D => some .xob
  | 0x180 => some .ptroot
  | 0x1C0 => some .ctxcfg
  | 0x1C1 => some .nturn
  | 0x1C2 => some .tmpend
  | 0x1C3 => some .nksig
  | 0xF00 => some .devid
  | _ => none

/-- The value that `csrw`, `csrs` or `csrc` gives the RW bits of a CSR that holds `old` (R307). -/
def csrCombine (op : Fin 4) (old x : Word) : Word :=
  match op.val with
  | 1 => x
  | 2 => old ||| x
  | _ => old &&& ~~~ x

/-- The bits of a W1C field that a CSR write clears (R307). -/
def csrClears (op : Fin 4) (x : Word) : Word := if op = 3 then 0 else x

/-- The new value of a CSR whose RW bits are `mask` and whose other bits keep their value (R5). -/
def csrMask (op : Fin 4) (old x mask : Word) : Word := (csrCombine op old x &&& mask) ||| (old &&& ~~~ mask)

/-- A write to a CSR of the context takes its value field by field (R307 to R310). `task` marks a write from mode T,
which reaches only RNGT and RNGW of `tstatus` (R308). -/
def Csrs.write (c : Csrs) (id : CsrId) (op : Fin 4) (x : Word) (task : Bool) : Csrs :=
  match id with
  | .rngctr => { c with rngctr := csrCombine op c.rngctr x }
  | .rngseed => { c with rngseed := csrCombine op c.rngseed x }
  | .rngsid => { c with rngsid := csrMask op c.rngsid x 0xFFFFFFFF }
  | .fpev => { c with fpev := csrCombine op c.fpev x }
  | .vrb => { c with vrb := (csrCombine op (c.vrb.setWidth 64) x).setWidth 4 }
  | .spctl => { c with spctl := csrMask op c.spctl x 0xFFFFFFFFF }
  | .rpolicy => { c with rpolicy := csrMask op c.rpolicy x 3 }
  | .tvec => { c with tvec := csrMask op c.tvec x 0x7FFE0 }
  | .tstatus => { c with tstatus := csrMask op c.tstatus x (if task then 0x1800 else 0x1933) }
  | .tscratch => { c with tscratch := csrCombine op c.tscratch x }
  | .tcause => { c with tcause := csrMask op c.tcause x 0x80000000000000FF }
  | .tval => { c with tval := csrCombine op c.tval x }
  | .tseq => { c with tseq := csrMask op c.tseq x 3 }
  | .tpc q => { c with tpc := c.tpc.set q (csrMask op c.tpc[q] x 0x7FFFC) }
  | .tie => { c with tie := csrMask op c.tie x intMask }
  | .tip => { c with tip := c.tip &&& ~~~ csrClears op x }
  | .xob => { c with xob := xobClamp (csrCombine op c.xob x) }
  | .ptroot => { c with ptroot := csrMask op c.ptroot x 0xFFFFFFFFFFFF0001 }
  | _ => c

/-! ## Writes on their way when a trap is taken -/

/-- A CSR that a trap writes, or reads to find its handler (R313). -/
def CsrId.ofTrap (c : CsrId) : Bool :=
  match c with
  | .tvec | .tstatus | .tcause | .tval | .tseq | .tpc _ => true
  | _ => false

/-- The write of a CSR of R313 that an effect makes. -/
def Eff.trapWrite : Eff → Option (CsrId × Fin 4 × Word × Bool)
  | .csr op num x task => ((CsrId.ofNum num).filter CsrId.ofTrap).map (fun id => (id, op, x, task))
  | _ => none

/-- Writes of the trap's CSRs that are due at T+1 land when a trap is taken at the end of turn T; the values that the trap
writes then stand over them (R307, R313). -/
def Ctx.landTrapWrites (c : Ctx) : Ctx :=
  { c with
    c := (c.inflight.filterMap (·.eff.trapWrite)).foldl (fun c w => c.write w.1 w.2.1 w.2.2.1 w.2.2.2) c.c
    inflight := c.inflight.filter (·.eff.trapWrite.isNone) }

end Sys2Proof.Machine
end

