-- ==== Sys2Proof/Machine/Ops.lean ====
section
/-! DEFINITION. Sys2Proof/Machine/Ops.lean: the named operations over memory, registers and the stroke that issues:
reading and writing bytes, finding the next instruction (R30 to R38), sending a result to its landing turn (R55, R56),
raising an exception (R40, R313, R314) and returning from one (R315), waiting (R117) and retiring an instruction. -/

namespace Sys2Proof.Machine

open Sys2Proof

/-- What a step or an instruction answers. -/
abbrev Res := Host.Outcome State Fault Refusal

/-! ## Memory as bytes -/

/-- The byte at an address; an unlisted one reads 0 (DESIGN CHOICE, assumption 1). -/
def Memory.get (m : List Host.Cell) (a : Nat) : Byte :=
  match m with
  | [] => 0
  | (b, x) :: r => if a = b then x else if a < b then 0 else Memory.get r a

/-- Writes one byte and keeps the canonical form: rising addresses, no listed zero. -/
def Memory.set (m : List Host.Cell) (a : Nat) (x : Byte) : List Host.Cell :=
  match m with
  | [] => if x = 0 then [] else [(a, x)]
  | (b, y) :: r =>
    if a < b then (if x = 0 then (b, y) :: r else (a, x) :: (b, y) :: r)
    else if a = b then (if x = 0 then r else (a, x) :: r)
    else (b, y) :: Memory.set r a x

/-- Every listed address is above `lo` and rises, and no listed byte is 0. -/
def Memory.wfFrom (lo : Nat) : List Host.Cell → Bool
  | [] => true
  | (a, x) :: r => lo ≤ a && x != 0 && Memory.wfFrom (a + 1) r

/-- The canonical form of memory. -/
def Memory.wf (m : List Host.Cell) : Bool := Memory.wfFrom 0 m

/-- `n` bytes from address `a` as a little-endian number (R4). -/
def Memory.read (m : List Host.Cell) (a : Nat) : Nat → Nat
  | 0 => 0
  | n + 1 => (Memory.get m a).toNat + 256 * Memory.read m (a + 1) n

/-- Writes the low `n` bytes of `x` from address `a`, little-endian (R4). -/
def Memory.write (m : List Host.Cell) (a : Nat) (n x : Nat) : List Host.Cell :=
  match n with
  | 0 => m
  | n + 1 => Memory.write (Memory.set m a (BitVec.ofNat 8 x)) (a + 1) n (x / 256)

/-- The physical address of byte `off` of a nib's well (R140). -/
def wellPA (n : NibId) (off : Nat) : Nat := 0xC000000000 + n.val * 0x80000 + off

/-- The end of the local window (R139). -/
def windowEnd : Nat := 0x60000

/-- The folio of a nib (R17). -/
def State.folioOf (n : NibId) : Fin 16 := ⟨n.val / 4096, by have := n.isLt; omega⟩

/-! ## Units of the physical map (R140) -/

/-- The unit that a physical address lies in. -/
inductive MapUnit where
  | hbm (f : Fin 16)
  | well (n : NibId) (off : Nat)
  | slice (i : Nat) (off : Nat)
  | control
  | none
deriving DecidableEq, Repr

def unitOf (pa : Nat) : MapUnit :=
  if pa < 0xC000000000 then .hbm (Fin.ofNat 16 (pa / 0xC00000000))
  else if pa < 0xC800000000 then .well (Fin.ofNat 65536 ((pa - 0xC000000000) / 0x80000)) (pa % 0x80000)
  else if pa < 0xC880000000 then .slice ((pa - 0xC800000000) / 0x800000) (pa % 0x800000)
  else if 0xF000000000 ≤ pa ∧ pa < 0xF100000000 then .control
  else .none

/-- The folio of a unit, for those that have one (R10, R140). -/
def MapUnit.folio : MapUnit → Option (Fin 16)
  | .hbm f => some f
  | .well n _ => some (State.folioOf n)
  | .slice i _ => some (Fin.ofNat 16 (i / 16))
  | _ => .none

/-! ## Nibs, strokes, contexts -/

/-- Looks a nib up; a nib that is not listed stands as reset left it. -/
def nibIn (l : List (NibId × Nib)) (n : NibId) : Nib :=
  match l with
  | [] => Nib.reset
  | (m, x) :: r => if n = m then x else nibIn r n

/-- Stores a nib, by rising number. -/
def putNib (l : List (NibId × Nib)) (n : NibId) (x : Nib) : List (NibId × Nib) :=
  match l with
  | [] => [(n, x)]
  | (m, y) :: r =>
    if n.val < m.val then (n, x) :: (m, y) :: r
    else if n = m then (n, x) :: r
    else (m, y) :: putNib r n x

namespace State

def nib (s : State) (n : NibId) : Nib := nibIn s.nibs n

def setNib (s : State) (n : NibId) (x : Nib) : State := { s with nibs := putNib s.nibs n x }

def modNib (s : State) (n : NibId) (f : Nib → Nib) : State := s.setNib n (f (s.nib n))

def stroke (s : State) (n : NibId) (k : Fin 8) : Stroke := (s.nib n).strokes[k]

def modStroke (s : State) (n : NibId) (k : Fin 8) (f : Stroke → Stroke) : State :=
  s.modNib n (fun x => { x with strokes := x.strokes.set k (f x.strokes[k]) })

def modCtxAt (s : State) (n : NibId) (k : Fin 8) (f : Ctx → Ctx) : State :=
  s.modStroke n k (fun x => { x with ctx := f x.ctx })

/-- The nib, stroke and context that issue now. -/
def cnib (s : State) : Nib := s.nib s.cur.nib

def cst (s : State) : Stroke := s.stroke s.cur.nib s.cur.k

def ctx (s : State) : Ctx := s.cst.ctx

def modCtx (s : State) (f : Ctx → Ctx) : State := s.modCtxAt s.cur.nib s.cur.k f

/-- The turn number of the cycle: `nturn` (R327). -/
def tn (s : State) : Nat := s.cycle / 8

/-- The 32-bit nib number (R17). -/
def nibNumber (s : State) (n : NibId) : BitVec 32 := s.modu.modn ++ BitVec.ofNat 16 n.val

/-- The stroke number (R18). -/
def strokeNumber (s : State) (n : NibId) (k : Fin 8) : Nat := (s.nibNumber n).toNat * 8 + k.val

/-! ## The well as the issuing stroke sees it -/

/-- The byte of the issuing nib's well at offset `off` as it stood at the start of the turn (R143). -/
def wellOld (s : State) (off : Nat) : Byte :=
  match s.turn.undo.lookup (wellPA s.cur.nib off) with
  | some x => x
  | none => Memory.get s.mem (wellPA s.cur.nib off)

/-- `n` bytes of the issuing nib's well as they stood at the start of the turn, little-endian. -/
def wellRead (s : State) (off : Nat) : Nat → Nat
  | 0 => 0
  | n + 1 => (s.wellOld off).toNat + 256 * s.wellRead (off + 1) n

/-- The 32-bit word of a nib's well at offset `off`, as it stands. -/
def wellWord (s : State) (n : NibId) (off : Nat) : BitVec 32 := BitVec.ofNat 32 (Memory.read s.mem (wellPA n off) 4)

/-- Remembers the bytes that a store of this turn is about to replace (R143). -/
def keepOld (s : State) (a : Nat) : Nat → State
  | 0 => s
  | n + 1 =>
    let s := if (s.turn.undo.lookup a).isSome then s
      else { s with turn := { s.turn with undo := (a, Memory.get s.mem a) :: s.turn.undo } }
    s.keepOld (a + 1) n

/-- A local-form write of `n` bytes to the issuing nib's well (R143). -/
def wellWrite (s : State) (off n x : Nat) : State :=
  let s := s.keepOld (wellPA s.cur.nib off) n
  { s with mem := Memory.write s.mem (wellPA s.cur.nib off) n x }

end State

/-! ## Lines and sequential flow -/

/-- The tag of word k in a header (R28). -/
def tagOf (h : BitVec 32) (k : Nat) : Nat := h.toNat / 2 ^ (4 * k) % 16

/-- The tag of a sequencer's words (R29). -/
def seqTag : Seq → Nat
  | .s => 1
  | .a => 2
  | .x => 3
  | .w => 4

/-- A word with this tag is the first word of a long instruction (R30). -/
def longTag (tag : Nat) (w : BitVec 32) : Bool :=
  (tag == 1 && isLong .s w) || (tag == 2 && isLong .a w) || (tag == 4 && isLong .w w)

/-- The causes of R311 that this file raises. -/
def causeTARGET : BitVec 8 := 0x00
def causeOVERLAY : BitVec 8 := 0x01
def causeILLEGAL : BitVec 8 := 0x02
def causeILLINE : BitVec 8 := 0x0A

/-- The first k of 1 to 7 for which `f` holds. -/
def firstWord (f : Nat → Bool) : Option Nat := [1, 2, 3, 4, 5, 6, 7].find? f

/-- The checks of R30 on the line at address `l`, whose words `rd` reads: the cause and `tval` of the first failure. -/
def lineCheck (rd : Nat → BitVec 32) (l : Nat) : Option (BitVec 8 × Nat) :=
  let h := rd l
  let w := fun k => rd (l + 4 * k)
  if h.toNat % 16 ≠ 1 then some (causeILLINE, l)
  else
    match firstWord (fun k => 6 ≤ tagOf h k) with
    | some k => some (causeILLINE, l + 4 * k)
    | none =>
      match firstWord (fun k => tagOf h k == 5 && (k == 1 || !longTag (tagOf h (k - 1)) (w (k - 1)))) with
      | some k => some (causeILLEGAL, l + 4 * k)
      | none =>
        match firstWord (fun k => longTag (tagOf h k) (w k) && (k == 7 || tagOf h (k + 1) != 5)) with
        | some k => some (causeILLEGAL, l + 4 * k)
        | none => none

/-- The outcome of a search in sequential flow (R32, R34, R38): where the sequencer's PC comes to stand, how many lines
beyond the starting line that is, and whether it is a word of the sequencer in a line that has passed its checks. -/
structure Found where
  pc : Nat
  lines : Nat
  ok : Bool
deriving DecidableEq, Repr

/-- The first word tagged `q` among words `k` to 7 of the line at `l`. -/
def wordIn (rd : Nat → BitVec 32) (q : Seq) (l k : Nat) : Option Nat :=
  firstWord (fun j => k ≤ j && tagOf (rd l) j == seqTag q)

/-- Searches line after line from `l` on, `n` lines beyond the start; `fuel` bounds the lines of the window (R32). Flow that
reaches the boundary stands at it; where a write has lowered the boundary below the flow, at the line it would enter (R34,
DESIGN CHOICE, assumption 57). -/
def searchLines (rd : Nat → BitVec 32) (xob : Nat) (q : Seq) (l n : Nat) : Nat → Found
  | 0 => ⟨l, n, false⟩
  | fuel + 1 =>
    if xob ≤ l then ⟨l, n, false⟩
    else if (lineCheck rd l).isSome then ⟨l, n, false⟩
    else
      match wordIn rd q l 1 with
      | some k => ⟨l + 4 * k, n, true⟩
      | none => searchLines rd xob q (l + 32) (n + 1) fuel

/-- The next word of `q` at or above address `a`, which follows a word of the line of `a - 4`, a line that has been
checked already (R32). Where a write has lowered the boundary to that line or below it, the PC would enter an address that it
refuses (R34). -/
def searchAfter (rd : Nat → BitVec 32) (xob : Nat) (q : Seq) (a : Nat) : Found :=
  if a % 32 = 0 then searchLines rd xob q a 1 12289
  else if xob ≤ a then ⟨a, 0, false⟩
  else
    match wordIn rd q (a / 32 * 32) (a % 32 / 4) with
    | some k => ⟨a / 32 * 32 + 4 * k, 0, true⟩
    | none => searchLines rd xob q (a / 32 * 32 + 32) 1 12289

/-- The first word of `q` at or above address `a`, whose line has not been checked: a resumption or an entry (R33). A PC that
already stands at or above `xob` is itself the saved PC and the `tval` of OVERLAY (R34, DESIGN CHOICE, assumption 57). -/
def searchAt (rd : Nat → BitVec 32) (xob : Nat) (q : Seq) (a : Nat) : Found :=
  let l := a / 32 * 32
  if xob ≤ a then ⟨a, 0, false⟩
  else if (lineCheck rd l).isSome then ⟨l, 0, false⟩
  else
    match wordIn rd q l (a % 32 / 4) with
    | some k => ⟨l + 4 * k, 0, true⟩
    | none => searchLines rd xob q (l + 32) 1 12289

/-- A PC as `tpc` holds it: bits [18:2], the rest RZ (R309). -/
def pcField (x : Word) : Word := x &&& 0x7FFFC

/-- Turns lost when the next word lies n lines beyond the current one (R35). -/
def lostFor (lines : Nat) : Nat := lines - 1

namespace State

/-- Reads the issuing nib's code words. -/
def code (s : State) (a : Nat) : BitVec 32 := s.wellWord s.cur.nib a

/-- The state of sequencer `q` of the issuing stroke in this turn: after a trap or a `tret` of an earlier sequencer of
the same turn, the one that stood before it (R40, R315). -/
def seqSt (s : State) (q : Seq) : SeqSt :=
  if s.turn.trapped || s.turn.tret then s.turn.seqs[q.idx] else s.ctx.seqs[q.idx]

/-- Changes the state of sequencer `q` in this turn; after a trap of the turn, the saved PC follows (R313). -/
def modSeq (s : State) (q : Seq) (f : SeqSt → SeqSt) : State :=
  if s.turn.trapped then
    let x := f s.turn.seqs[q.idx]
    let s := { s with turn := { s.turn with seqs := s.turn.seqs.set q.idx x } }
    s.modCtx (fun c => { c with c := { c.c with tpc := c.c.tpc.set q.idx (pcField x.pc) } })
  else if s.turn.tret then { s with turn := { s.turn with seqs := s.turn.seqs.set q.idx (f s.turn.seqs[q.idx]) } }
  else s.modCtx (fun c => { c with seqs := c.seqs.set q.idx (f c.seqs[q.idx]) })

/-- The address of the instruction that issues. -/
def pc (s : State) : Word := (s.seqSt s.cur.q).pc

/-- The word that issues, for a `tval` (R39). -/
def word (s : State) : BitVec 32 := s.code s.pc.toNat

/-- The clock of the issuing sequencer (R176). -/
def lc (s : State) : Clk := (s.seqSt s.cur.q).lc

def setLc (s : State) (x : Clk) : State := s.modSeq s.cur.q (fun q => { q with lc := x })

/-! ## Results -/

/-- Sends an effect of the issuing instruction to the start of turn t + `lat` (R55, R56). -/
def land (s : State) (lat : Nat) (e : Eff) : State :=
  s.modCtx (fun c => { c with inflight := c.inflight ++ [⟨s.tn + lat, s.tn, s.cur.q, e⟩] })

/-- A fixed-latency result for g[d]; discarded when d = 0 (R44, R96). -/
def landG (s : State) (lat : Nat) (d : Fin 32) (x : Word) : State :=
  if d = 0 then s else s.land lat (.reg (.g d x))

/-- Events of a fixed-latency instruction, added at the start of turn t+1 (R93). -/
def landEv (s : State) (e : BitVec 8) : State := if e = 0 then s else s.land 1 (.fpev e)

/-! ## Registers -/

/-- g[i]; g0 reads 0 (R44). -/
def rg (s : State) (i : Fin 32) : Word := if i = 0 then 0 else s.ctx.r.g[i]

/-- The physical register that vector field n names (R45). -/
def vphys (s : State) (n : Fin 32) : Fin 32 :=
  if n.val < 16 then n else ⟨16 + (n.val - 16 + s.ctx.c.vrb.toNat) % 16, by omega⟩

/-- v[n] through the rotation (R45). -/
def rv (s : State) (n : Fin 32) : Vec := s.ctx.r.v[s.vphys n]

/-- p[i]; p0 reads all ones (R44). -/
def rp (s : State) (i : Fin 8) : Pred := if i = 0 then BitVec.allOnes 128 else s.ctx.r.p[i]

/-- A fixed-latency result for v[d] (R44, R45). -/
def landV (s : State) (lat : Nat) (d : Fin 32) (x : Vec) : State := s.land lat (.reg (.v (s.vphys d) x))

/-- A fixed-latency result for p[d]; discarded when d = 0 (R44). -/
def landP (s : State) (lat : Nat) (d : Fin 8) (x : Pred) : State :=
  if d = 0 then s else s.land lat (.reg (.p d x))

end State

/-! ## Pending registers -/

/-- The pending bit of a physical register; g0 and p0 have none (R60). -/
def Regs.pending (r : Regs) : RegRef → Bool
  | .g i => i != 0 && r.pendG.getLsbD i.val
  | .v i => r.pendV.getLsbD i.val
  | .p i => i != 0 && r.pendP.getLsbD i.val

/-- Sets or clears a pending bit (R60). -/
def Regs.setPending (r : Regs) (x : RegRef) (b : Bool) : Regs :=
  let bit := fun (n i : Nat) (v : BitVec n) => if b then v ||| BitVec.twoPow n i else v &&& ~~~ BitVec.twoPow n i
  match x with
  | .g i => if i = 0 then r else { r with pendG := bit 32 i.val r.pendG }
  | .v i => { r with pendV := bit 32 i.val r.pendV }
  | .p i => if i = 0 then r else { r with pendP := bit 8 i.val r.pendP }

/-- A register in `tval` (R46). -/
def RegRef.tval : RegRef → Word
  | .g i => BitVec.ofNat 64 i.val
  | .v i => BitVec.ofNat 64 (0x20 + i.val)
  | .p i => BitVec.ofNat 64 (0x40 + i.val)

/-- The register that a write names. -/
def RegWrite.ref : RegWrite → RegRef
  | .g i _ => .g i
  | .v i _ => .v i
  | .p i _ => .p i

/-- Writes a register; writes to g0 and p0 are discarded (R44). -/
def Regs.write (r : Regs) : RegWrite → Regs
  | .g i x => if i = 0 then r else { r with g := r.g.set i x }
  | .v i x => { r with v := r.v.set i x }
  | .p i x => if i = 0 then r else { r with p := r.p.set i x }

/-- A result for the register, issued in an earlier turn, has still to land (R62): in flight, or in a record that counts
(R63). A result of another sequencer's instruction of the same turn, and one that is held during a trap service, do not
count (DESIGN CHOICE, assumption 79). -/
def Ctx.inFlight (c : Ctx) (tn : Nat) (x : RegRef) : Bool :=
  c.inflight.any (fun l => match l.eff with
    | .reg w => w.ref == x && l.issued < tn
    | _ => false) || (c.resumed.isSome && c.lateWrites.any (fun w => w.reg.ref == x))

def causeUWREAD : BitVec 8 := 0x0B
def causePENDWRITE : BitVec 8 := 0x0C

/-- UWREAD on the first pending source, then PENDWRITE on a destination (R39, R61, R62). `long` marks a long-latency
instruction; a destination g0 or p0 is never checked. Of two destinations the one that the encoding names `d` is reported
first (DESIGN CHOICE, assumption 79). -/
def Ctx.regTrap (c : Ctx) (tn : Nat) (srcs dsts : List RegRef) (long : Bool) : Option (BitVec 8 × Word) :=
  match srcs.find? c.r.pending with
  | some x => some (causeUWREAD, x.tval)
  | none =>
    match dsts.find? (fun x => c.r.pending x || (long && x != .g 0 && x != .p 0 && c.inFlight tn x)) with
    | some x => some (causePENDWRITE, x.tval)
    | none => none

/-! ## Exceptions -/

/-- Replaces bits [lo + n - 1 : lo] of a word. -/
def setBits (w : Word) (lo n x : Nat) : Word :=
  BitVec.ofNat 64 (w.toNat - (w.toNat / 2 ^ lo % 2 ^ n) * 2 ^ lo + x % 2 ^ n * 2 ^ lo)

/-- Bits [lo + n - 1 : lo] of a word. -/
def getBits (w : Word) (lo n : Nat) : Nat := w.toNat / 2 ^ lo % 2 ^ n

/-- The code of a mode (R306). -/
def Mode.code : Mode → Nat
  | .t => 0
  | .k => 1
  | .d => 2

/-- A sequencer that starts at an entry (R33): its PC may be a header. -/
def SeqSt.enter (q : SeqSt) (pc : Word) : SeqSt :=
  { q with pc := pc, ended := false, lost := 0, checked := false, thr := none, joining := false, fault := false }

/-- What an interruption of a sequencer holds back of it (R40, R63, R134). -/
def SeqSt.hold (q : SeqSt) : SeqHold := ⟨pcField q.pc, q.ended, q.lost, q.fault⟩

/-- A sequencer that a trap or a debug routine interrupts, and that starts at `pc`: what the return needs is held (R63,
R134, R313, R334). -/
def SeqSt.divert (q : SeqSt) (pc : Word) : SeqSt := { q.enter pc with held := q.hold :: q.held }

/-- A sequencer that resumes at `pc` after an interruption (R315, R334). Where that is the PC at which it was interrupted,
it is ended if it had ended then (R134), issues nothing for the turns that it had still to lose (R63, DEDUCED, assumption 9),
and raises what was passed over (R40). -/
def SeqSt.back (q : SeqSt) (pc : Word) : SeqSt :=
  match q.held with
  | [] => q.enter pc
  | h :: r =>
    if h.pc = pcField pc then { q.enter pc with ended := h.ended, lost := h.lost, fault := h.fault, held := r }
    else { q.enter pc with held := r }

/-- `tstatus` as an exception leaves it: PPRV the mode before, PIE the old IE, IE 0, TS 1 (R313). -/
def trapStatus (t : Word) (m : Mode) : Word :=
  setBits (setBits (setBits (setBits t 4 2 m.code) 1 1 (getBits t 0 1)) 0 1 0) 8 1 1

/-- `tstatus.TS` (R309). -/
def Csrs.ts (c : Csrs) : Bool := getBits c.tstatus 8 1 = 1

/-- Taking a trap (R313): CSR writes due at T+1 land, the cause, the value, the sequencer and every PC are saved, the mode
becomes K, and all four sequencers start at `tvec.LINE` as at an entry. `seqs` is what the sequencers hold when the trap is
taken. -/
def Ctx.takeTrap (c : Ctx) (code : Word) (val : Word) (seq : Word) (m : Mode) (seqs : Vector SeqSt 4) : Ctx :=
  let c := c.landTrapWrites
  { c with
    c := { c.c with
      tcause := code, tval := val, tseq := seq
      tpc := seqs.map (fun q => pcField q.pc)
      tstatus := trapStatus c.c.tstatus m
      mode := .k }
    x := { c.x with sweep := c.x.sweep.map (fun w => { w with paused := w.paused + 1 }) }
    seqs := seqs.map (·.divert c.c.tvec) }

namespace State

/-- The return that S has made in this turn is undone, where an exception of the same turn is taken: the handler had cleared
TS, and stands again where it was (R314, R315, DESIGN CHOICE, assumption 48). -/
def undoReturn (s : State) : State :=
  if s.turn.tret then
    let s := s.modCtx (fun c =>
      { c with
        c := { c.c with mode := s.turn.mode, tstatus := s.turn.status }
        x := { c.x with sweep := c.x.sweep.map (fun w => { w with paused := s.turn.paused }) }
        seqs := s.turn.seqs })
    { s with turn := { s.turn with tret := false } }
  else s

/-- The stroke is in trap service as the instructions of this turn see it: a `tret` acts at the end of the turn (R314,
R315). -/
def inService (s : State) : Bool := getBits (if s.turn.tret then s.turn.status else s.ctx.c.tstatus) 8 1 = 1

/-- Raises an exception on the issuing sequencer, whose saved PC is `at_` (R39, R40, R313, R314, R334). The first
sequencer of the turn to raise one has its exception taken, and every later one leaves no effect. In mode D the stroke
stops with reason DTRAP, in trap service with reason DOUBLE. -/
def raiseAt (s : State) (cause : BitVec 8) (val : Word) (at_ : Word) : State :=
  if s.turn.trapped || s.turn.halt.isSome then s
  else if s.turn.mode = .d then
    let s := { s with turn := { s.turn with halt := some 7 } }
    s.modStroke s.cur.nib s.cur.k (fun x =>
      { x with dbg := { x.dbg with keptPc := x.dbg.keptPc.set 0 (setBits x.dbg.keptPc[0] 0 8 cause.toNat) } })
  else if s.inService then { s with turn := { s.turn with halt := some 4 } }
  else
    let s := s.undoReturn
    let seqs := s.ctx.seqs.set s.cur.q.idx { s.ctx.seqs[s.cur.q.idx] with pc := at_ }
    let s := s.modCtx (fun c =>
      c.takeTrap (BitVec.ofNat 64 cause.toNat) val (BitVec.ofNat 64 s.cur.q.idx.val) s.turn.mode seqs)
    { s with turn := { s.turn with trapped := true, seqs := seqs } }

/-- `trap(cause, val)` (R8): the exception is raised at the instruction itself. -/
def raise (s : State) (cause : BitVec 8) (val : Word) : State := s.raiseAt cause val s.pc

/-- The word of the issuing instruction as a `tval` (R39). -/
def wordVal (s : State) : Word := s.word.setWidth 64

/-- ILLEGAL with the word as `tval` (R39). -/
def illegal (s : State) : State := s.raise causeILLEGAL s.wordVal

/-! ## Waiting and retiring -/

/-- The sequencer waits on a message-like coupling (R117, R339). -/
def waitMsg (s : State) : State := { s with turn := { s.turn with waitMsg := true } }

/-- The sequencer waits on memory or on an engine's room (R117, R148, R339). -/
def waitMem (s : State) : State := { s with turn := { s.turn with waitMem := true } }

/-- The instruction counts as issued (R339, R340). -/
def markIssued (s : State) : State :=
  { s with turn := { s.turn with issued := s.turn.issued ++ [s.cur.q] } }

/-- The search for what follows the issuing instruction (R32): from the word after it, or after its K word. -/
def nextFound (s : State) : Found :=
  searchAfter s.code s.ctx.c.xob.toNat s.cur.q (s.pc.toNat + (if isLong s.cur.q s.word then 8 else 4))

/-- The issuing sequencer goes on at `f` after losing `extra` turns (R35, R37). Where `f` is a line that fails its checks, or
the boundary, the trap is raised after the turns that reaching that line costs (DESIGN CHOICE, assumption 58). -/
def goTo (s : State) (f : Found) (extra : Nat) : State :=
  s.modSeq s.cur.q (fun q =>
    { q with pc := BitVec.ofNat 64 f.pc, lost := lostFor f.lines + extra, checked := f.ok, thr := none
             joining := false, fault := false })

/-- The instruction has issued, and sequential flow follows (R32, R35). -/
def retire (s : State) : State := s.markIssued.goTo s.nextFound 0

/-- The checks that every instruction makes first (R39), then its own meaning. -/
def guarded (s : State) (srcs dsts : List RegRef) (long : Bool) (body : State → State) : Res :=
  match s.ctx.regTrap s.tn srcs dsts long with
  | some (c, v) => .next (s.raise c v)
  | none => .next (body s)

/-- A fixed-latency instruction that never waits and never traps by itself (R96). -/
def simple (s : State) (srcs dsts : List RegRef) (body : State → State) : Res :=
  s.guarded srcs dsts false (fun s => (body s).retire)

/-! ## Free values and identities -/

/-- A fresh number for a free value (DESIGN CHOICE, assumption 3). -/
def freshNum (s : State) : Nat × State := (s.fresh, { s with fresh := s.fresh + 1 })

/-- A fresh identity. -/
def newId (s : State) : Nat × State := (s.nextId, { s with nextId := s.nextId + 1 })

/-- Puts an event on the agenda: it acts from cycle `c` on. -/
def schedule (s : State) (c : Nat) (i : Instr) : State := { s with agenda := s.agenda ++ [(c, i)] }

/-- The cycle in which an event that may come from cycle `lo` on, and must come by cycle `hi`, does come
(DESIGN CHOICE, assumption 3); without a deadline `hi` is none. -/
def freeCycle (s : State) (lo : Nat) (hi : Option Nat) : Nat × State :=
  let (n, s) := s.freshNum
  match hi with
  | some h => (min (lo + Config.freeDelay n) (max lo h), s)
  | none => (lo + Config.freeDelay n, s)

end State

/-! ## Clocks -/

/-- `a` is not before `b`, as clocks compare (R176). -/
def Clk.le (a b : Clk) : Bool := (b - a).toNat < 2 ^ 47

/-- The larger of two clocks (R176). -/
def Clk.max (a b : Clk) : Clk := if Clk.le a b then b else a

end Sys2Proof.Machine
end

