-- ==== Sys2Proof/Machine/Flags.lean ====
section
/-! DEFINITION. Sys2Proof/Machine/Flags.lean: number formats, rounding, and the event flags that arithmetic raises
(03_arithmetic.md R70 to R92, R385). Finite values are exact: a sign, a natural mantissa and an integer exponent. -/

namespace Sys2Proof.Machine

open Sys2Proof

/-- A set of events: bit i is the counter at byte i of `fpev` (R92). -/
abbrev Ev := BitVec 8

def evINTDIV : Ev := 0x01
def evINVALID : Ev := 0x02
def evDIVZERO : Ev := 0x04
def evOVERFLOW : Ev := 0x08
def evUNDERFLOW : Ev := 0x10
def evINEXACT : Ev := 0x20
def evSAT : Ev := 0x40
def evEMPTY : Ev := 0x80

/-- The events of a condition. -/
def evIf (b : Bool) (e : Ev) : Ev := if b then e else 0

/-- Adds at most 1 to each counter; counters stop at 0xFF (R92, R93). -/
def fpevAdd (x : Word) (e : Ev) : Word :=
  BitVec.ofNat 64 ((List.range 8).foldl (fun a i =>
    a + min 255 (x.toNat / 2 ^ (8 * i) % 256 + (if e.getLsbD i then 1 else 0)) * 2 ^ (8 * i)) 0)

/-! ## Formats -/

/-- A floating-point format of R71. -/
structure Fmt where
  bits : Nat
  ebits : Nat
  fbits : Nat
  bias : Nat
  /-- The format has infinities; E4M3 has none. -/
  hasInf : Bool
  /-- The largest finite value, and the canonical NaN (R72). -/
  maxFin : Nat
  nan : Nat
deriving DecidableEq, Repr

def fmt32 : Fmt := ⟨32, 8, 23, 127, true, 0x7F7FFFFF, 0x7FC00000⟩
def fmt16 : Fmt := ⟨16, 8, 7, 127, true, 0x7F7F, 0x7FC0⟩
def fmtE4 : Fmt := ⟨8, 4, 3, 7, false, 0x7E, 0x7F⟩
def fmtE5 : Fmt := ⟨8, 5, 2, 15, true, 0x7B, 0x7E⟩

/-- A value: a NaN, an infinity, or the exact number (-1)^neg × m × 2^e. -/
inductive Fv where
  | nan
  | inf (neg : Bool)
  | fin (neg : Bool) (m : Nat) (e : Int)
deriving DecidableEq, Repr

/-- The value of the low bits of `x` (R71). -/
def Fmt.value (f : Fmt) (x : Nat) : Fv :=
  let neg := x / 2 ^ (f.ebits + f.fbits) % 2 = 1
  let ex := x / 2 ^ f.fbits % 2 ^ f.ebits
  let fr := x % 2 ^ f.fbits
  let emin : Int := 1 - (f.bias : Int) - f.fbits
  if ex = 2 ^ f.ebits - 1 ∧ f.hasInf then (if fr = 0 then .inf neg else .nan)
  else if ex = 2 ^ f.ebits - 1 ∧ fr = 2 ^ f.fbits - 1 then .nan
  else if ex = 0 then .fin neg fr emin
  else .fin neg (2 ^ f.fbits + fr) (emin + (ex - 1 : Nat))

/-- The sign bit of a format. -/
def Fmt.sign (f : Fmt) (neg : Bool) : Nat := if neg then 2 ^ (f.bits - 1) else 0

/-- m / 2^k, rounded to nearest even or toward zero, and whether it is inexact (R73). -/
def shiftRound (rtz : Bool) (m k : Nat) : Nat × Bool :=
  let d := m / 2 ^ k
  let r := m % 2 ^ k
  if r = 0 then (d, false)
  else if rtz then (d, true)
  else if 2 * r > 2 ^ k ∨ (2 * r = 2 ^ k ∧ d % 2 = 1) then (d + 1, true)
  else (d, true)

/-- m × 2^(e - q) as an integer, rounded. -/
def scaleTo (rtz : Bool) (m : Nat) (e q : Int) : Nat × Bool :=
  if q ≤ e then (m * 2 ^ (e - q).toNat, false) else shiftRound rtz m (q - e).toNat

/-- The smallest exponent of a format's last place. -/
def Fmt.qmin (f : Fmt) : Int := 1 - (f.bias : Int) - f.fbits

/-- The exact result, rounded as if the exponent had no lower bound, is below the smallest normal number (R385). -/
def Fmt.tiny (f : Fmt) (rtz : Bool) (m : Nat) (e : Int) : Bool :=
  let q : Int := e + Nat.log2 m - f.fbits
  let d := (scaleTo rtz m e q).1
  -- d × 2^q < 2^(1 - bias), where d < 2^(fbits + 2)
  q + Nat.log2 d < 1 - (f.bias : Int)

/-- Rounds a value to a format (R73, R74): `rtz` selects truncation, `sat` saturation of overflow and of infinity. The
answer is the bits and the events. E4M3 always saturates. -/
def Fmt.round (f : Fmt) (rtz sat : Bool) (v : Fv) : Nat × Ev :=
  match v with
  | .nan => (f.nan, 0)
  | .inf neg =>
    if !f.hasInf then (f.sign neg + f.maxFin, evOVERFLOW ||| evSAT)
    else if sat then (f.sign neg + f.maxFin, evSAT)
    else (f.sign neg + (2 ^ f.ebits - 1) * 2 ^ f.fbits, 0)
  | .fin neg m e =>
    if m = 0 then (f.sign neg, 0)
    else
      let q := max (e + Nat.log2 m - f.fbits) f.qmin
      let (d, ix) := scaleTo rtz m e q
      let b := (q - f.qmin).toNat * 2 ^ f.fbits + d
      if f.maxFin < b then
        if !f.hasInf || sat then (f.sign neg + f.maxFin, evOVERFLOW ||| evSAT ||| evINEXACT)
        else if rtz then (f.sign neg + f.maxFin, evOVERFLOW ||| evINEXACT)
        else (f.sign neg + (2 ^ f.ebits - 1) * 2 ^ f.fbits, evOVERFLOW ||| evINEXACT)
      else (f.sign neg + b, evIf ix evINEXACT ||| evIf (ix && f.tiny rtz m e) evUNDERFLOW)

/-! ## Arithmetic on values -/

/-- A signed integer and exponent of a finite value. -/
def Fv.int (neg : Bool) (m : Nat) : Int := if neg then -(m : Int) else m

/-- The exact sum n × 2^e as a value; an exact zero is +0 unless `negZero` (R73). -/
def Fv.ofInt (n : Int) (e : Int) (negZero : Bool) : Fv :=
  if n = 0 then .fin negZero 0 0 else .fin (n < 0) n.natAbs e

/-- Exact sum; the flag says that infinities of opposite sign met (R73, R113). -/
def Fv.add (a b : Fv) : Fv × Bool :=
  match a, b with
  | .nan, _ => (.nan, false)
  | _, .nan => (.nan, false)
  | .inf x, .inf y => if x = y then (.inf x, false) else (.nan, true)
  | .inf x, .fin .. => (.inf x, false)
  | .fin .., .inf y => (.inf y, false)
  | .fin s m e, .fin t n f =>
    let g := min e f
    let x := Fv.int s (m * 2 ^ (e - g).toNat) + Fv.int t (n * 2 ^ (f - g).toNat)
    (Fv.ofInt x g (m = 0 ∧ n = 0 ∧ s ∧ t), false)

def Fv.neg : Fv → Fv
  | .nan => .nan
  | .inf s => .inf !s
  | .fin s m e => .fin (!s) m e

/-- Exact product; the flag says that 0 met an infinity (R113). -/
def Fv.mul (a b : Fv) : Fv × Bool :=
  match a, b with
  | .nan, _ => (.nan, false)
  | _, .nan => (.nan, false)
  | .inf s, .inf t => (.inf (s != t), false)
  | .inf s, .fin t n _ => if n = 0 then (.nan, true) else (.inf (s != t), false)
  | .fin s m _, .inf t => if m = 0 then (.nan, true) else (.inf (s != t), false)
  | .fin s m e, .fin t n f => (.fin (s != t) (m * n) (e + f), false)

/-- a × b + c, exact (R116); the flag says that the operation was invalid. -/
def Fv.fma (a b c : Fv) : Fv × Bool :=
  let (p, i) := Fv.mul a b
  if i then (.nan, c != .nan)
  else
    let (r, j) := Fv.add p c
    (r, j)

/-- a < b for values that are not NaN; -0 equals +0 (R75). -/
def Fv.lt (a b : Fv) : Bool :=
  match a, b with
  | .nan, _ => false
  | _, .nan => false
  | .inf s, .inf t => s && !t
  | .inf s, .fin .. => s
  | .fin .., .inf t => !t
  | .fin s m e, .fin t n f =>
    let g := min e f
    Fv.int s (m * 2 ^ (e - g).toNat) < Fv.int t (n * 2 ^ (f - g).toNat)

def Fv.eq (a b : Fv) : Bool := a != .nan && b != .nan && !Fv.lt a b && !Fv.lt b a

/-- The value is a negative zero or below zero, for the order of R75. -/
def Fv.isNeg : Fv → Bool
  | .nan => false
  | .inf s => s
  | .fin s _ _ => s

/-- The order of R75: -0 below +0. -/
def Fv.below (a b : Fv) : Bool := Fv.lt a b || (Fv.eq a b && a.isNeg && !b.isNeg)

/-! ## Operations on the bits of a format -/

def Fmt.addB (f : Fmt) (a b : Nat) : Nat × Ev :=
  let (v, i) := Fv.add (f.value a) (f.value b)
  let (r, e) := f.round false false v
  (r, e ||| evIf i evINVALID)

def Fmt.subB (f : Fmt) (a b : Nat) : Nat × Ev :=
  let (v, i) := Fv.add (f.value a) (f.value b).neg
  let (r, e) := f.round false false v
  (r, e ||| evIf i evINVALID)

def Fmt.mulB (f : Fmt) (a b : Nat) : Nat × Ev :=
  let (v, i) := Fv.mul (f.value a) (f.value b)
  let (r, e) := f.round false false v
  (r, e ||| evIf i evINVALID)

/-- ±(a × b) ± c, fused (R73, R116, R207). -/
def Fmt.fmaB (f : Fmt) (negP negC : Bool) (a b c : Nat) : Nat × Ev :=
  let x := if negP then (f.value a).neg else f.value a
  let z := if negC then (f.value c).neg else f.value c
  let (v, i) := Fv.fma x (f.value b) z
  let (r, e) := f.round false false v
  (r, e ||| evIf i evINVALID)

/-- `fmin` and `fmax` (R75): `big` selects the greater. -/
def Fmt.minB (f : Fmt) (big : Bool) (a b : Nat) : Nat × Ev :=
  let a := a % 2 ^ f.bits
  let b := b % 2 ^ f.bits
  match f.value a, f.value b with
  | .nan, .nan => (f.nan, evINVALID)
  | .nan, _ => (b, 0)
  | _, .nan => (a, 0)
  | x, y => (if Fv.below x y != big then a else b, 0)

/-- The comparisons eq 0, lt 1, le 2 (R75). -/
def Fmt.cmpB (f : Fmt) (op : Nat) (a b : Nat) : Bool × Ev :=
  let x := f.value a
  let y := f.value b
  if x = .nan ∨ y = .nan then (false, evIf (op != 0) evINVALID)
  else (if op = 0 then Fv.eq x y else if op = 1 then Fv.lt x y else !Fv.lt y x, 0)

/-! ## Conversions (R74) -/

/-- A value truncated to an integer and clamped to [lo, hi]. A clamped value counts SAT alone, whatever it also drops (DESIGN
CHOICE, assumption 47). -/
def Fv.toInt (v : Fv) (lo hi : Int) : Int × Ev :=
  match v with
  | .nan => (0, evINVALID)
  | .inf s => (if s then lo else hi, evSAT)
  | .fin s m e =>
    let (d, ix) := scaleTo true m e 0
    let n := Fv.int s d
    if n < lo then (lo, evSAT)
    else if hi < n then (hi, evSAT)
    else (n, evIf ix evINEXACT)

/-- An integer converted to a format (R74). -/
def Fmt.ofIntB (f : Fmt) (n : Int) : Nat × Ev := f.round false false (Fv.ofInt n 0 false)

/-- An integer clamped to a range (R74). -/
def clampInt (n lo hi : Int) : Int × Ev :=
  if n < lo then (lo, evSAT) else if hi < n then (hi, evSAT) else (n, 0)

/-! ## Integer division (R70) -/

/-- Quotient and remainder of the signed or unsigned 64-bit division, with INTDIV in its two cases. -/
def divRem (signed : Bool) (x y : Word) : Word × Word × Ev :=
  if y = 0 then (BitVec.allOnes 64, x, evINTDIV)
  else if signed then
    if x = BitVec.intMin 64 ∧ y = BitVec.allOnes 64 then (x, 0, evINTDIV)
    else (BitVec.ofInt 64 (x.toInt.tdiv y.toInt), BitVec.ofInt 64 (x.toInt.tmod y.toInt), 0)
  else (BitVec.ofNat 64 (x.toNat / y.toNat), BitVec.ofNat 64 (x.toNat % y.toNat), 0)

/-! ## Ndorel BFP (R76 to R78) -/

/-- The exact value m × 2^(E - 127 - (w - 1)), or NaN for E = 255 (R76). -/
def bfpValue (w : Nat) (e : Nat) (m : Int) : Fv :=
  if e = 255 then .nan else .fin (m < 0) m.natAbs ((e : Int) - 127 - (w - 1))

/-- Mantissa i of a block whose planes are 4-byte words from bit 0 of `planes` (R77). -/
def bfpMant (w : Nat) (planes : Nat) (i : Nat) : Int :=
  let u := (List.range w).foldl (fun a j => a + planes / 2 ^ (32 * j + i) % 2 * 2 ^ j) 0
  if u < 2 ^ (w - 1) then (u : Int) else (u : Int) - 2 ^ w

/-- Packs 32 values into planes and exponent (R78); `rtz` truncates (R232). Its only event is SAT: a mantissa that rounding
changes counts no INEXACT (R78, R209, R284, DESIGN CHOICE, assumption 80). -/
def bfpPack (w : Nat) (rtz : Bool) (xs : List Fv) : Nat × Nat × Ev :=
  if xs.any (fun x => match x with | .fin .. => false | _ => true) then
    (0, 255, evIf (xs.any (fun x => match x with | .inf _ => true | _ => false)) evSAT)
  else
    -- floor (log2 M), where M is the greatest magnitude
    let l := xs.foldl (fun (a : Option Int) x => match x with
      | .fin _ m e => if m = 0 then a else
          let b := e + Nat.log2 m
          some (match a with | none => b | some c => max c b)
      | _ => a) none
    let ex : Nat := match l with
      | none => 0
      | some b => (min 254 (max 0 (b + 128))).toNat
    let q : Int := (ex : Int) - 127 - (w - 1)
    let top : Nat := 2 ^ (w - 1) - 1
    let (planes, sat, _) := xs.foldl (fun (acc : Nat × Bool × Nat) x =>
      let (p, s, i) := acc
      match x with
      | .fin neg m e =>
        let d := (scaleTo rtz m e q).1
        let y : Nat := min d top
        let u : Nat := if neg ∧ y ≠ 0 then 2 ^ w - y else y
        ((List.range w).foldl (fun a j => a + u / 2 ^ j % 2 * 2 ^ (32 * j + i)) p, s || top < d, i + 1)
      | _ => (p, s, i + 1)) (0, false, 0)
    (planes, ex, evIf sat evSAT)

/-! ## Matrix sums (R79 to R81) -/

/-- One BFP group: an exact block dot product, then one rounding (R80). -/
def bfpGroup (acc : Nat) (wa ea wb eb : Nat) (a b : List Int) : Nat × Ev :=
  if ea = 255 ∨ eb = 255 then (fmt32.nan, 0)
  else
    let d := (a.zip b).foldl (fun s (x, y) => s + x * y) 0
    let v := Fv.ofInt d ((ea : Int) + eb - 254 - (wa - 1) - (wb - 1)) false
    let (r, i) := Fv.add (fmt32.value acc) v
    let (bits, e) := fmt32.round false false r
    (bits, e ||| evIf i evINVALID)

/-- floor of (-1)^neg × m × 2^k. -/
def floorScale (neg : Bool) (m : Nat) (k : Int) : Int :=
  if 0 ≤ k then Fv.int neg (m * 2 ^ k.toNat) else (Fv.int neg m) / (2 ^ (-k).toNat : Int)

/-- One FP group of 16 products (R81). -/
def fpGroup (acc : Nat) (a b : List Fv) : Nat × Ev :=
  let ps := (a.zip b).map (fun (x, y) => Fv.mul x y)
  let hasNan := a.any (· == .nan) || b.any (· == .nan)
  let bad := ps.any (·.2)
  let pos := ps.any (fun p => p.1 == .inf false)
  let neg := ps.any (fun p => p.1 == .inf true)
  if hasNan then (fmt32.nan, 0)
  else if bad || (pos && neg) then (fmt32.nan, evINVALID)
  else if pos || neg then
    let (r, i) := Fv.add (fmt32.value acc) (.inf neg)
    let (bits, e) := fmt32.round false false r
    (bits, e ||| evIf i evINVALID)
  else
    let fs := ps.filterMap (fun p => match p.1 with
      | .fin s m e => if m = 0 then none else some (s, m, e)
      | _ => none)
    let v : Fv := match fs with
      | [] => .fin false 0 0
      | (_, m, e) :: r =>
        let emax := r.foldl (fun x (_, n, f) => max x (f + (Nat.log2 n : Int))) (e + (Nat.log2 m : Int))
        let sum := fs.foldl (fun t (s, n, f) => t + floorScale s n (f + 23 - emax)) 0
        Fv.ofInt sum (emax - 23) false
    let (r, i) := Fv.add (fmt32.value acc) v
    let (bits, e) := fmt32.round false false r
    (bits, e ||| evIf i evINVALID)

/-! ## Special functions (R84 to R88) -/

/-- One FP32 fused step, without events (R84). -/
def fma32 (a b c : Nat) : Nat := (fmt32.fmaB false false a b c).1

/-- A list of coefficients applied by Horner steps p := fma(p, f, c). -/
def horner (p f : Nat) : List Nat → Nat
  | [] => p
  | c :: r => horner (fma32 p f c) f r

/-- rne_int of an exact finite value. -/
def rneInt (neg : Bool) (m : Nat) (e : Int) : Int := Fv.int neg (scaleTo false m e 0).1

/-- A finite value as the bits of FP32, which hold it exactly. -/
def exact32 (v : Fv) : Nat := (fmt32.round false false v).1

/-- `vexp2` of one lane (R84, R85). -/
def exp2B (x : Nat) : Nat × Ev :=
  match fmt32.value x with
  | .nan => (fmt32.nan, 0)
  | .inf false => (0x7F800000, 0)
  | .inf true => (0, 0)
  | .fin neg m e =>
    if m = 0 then (0x3F800000, 0)
    else if !Fv.lt (.fin neg m e) (.fin false 128 0) then (0x7F800000, evOVERFLOW)
    else if Fv.lt (.fin neg m e) (.fin true 150 0) then (0, evUNDERFLOW)
    else
      let n := rneInt neg m e
      let f := exact32 (Fv.add (.fin neg m e) (Fv.ofInt (-n) 0 false)).1
      let p := horner 0x392184AA f [0x3AAEC3FF, 0x3C1D955B, 0x3D635847, 0x3E75FDF0, 0x3F317218, 0x3F800000]
      match fmt32.value p with
      | .fin s a b => fmt32.round false false (.fin s a (b + n))
      | v => fmt32.round false false v

/-- |x| = 2^e × m with 1 ≤ m < 2, for a finite non-zero x: e and the bits of m. -/
def splitExp (m : Nat) (e : Int) : Int × Nat :=
  let l := Nat.log2 m
  (e + l, exact32 (.fin false m (-(l : Int))))

/-- `vlog2` of one lane (R84, R86). -/
def log2B (x : Nat) : Nat × Ev :=
  match fmt32.value x with
  | .nan => (fmt32.nan, 0)
  | .inf false => (0x7F800000, 0)
  | .inf true => (fmt32.nan, evINVALID)
  | .fin neg m e =>
    if m = 0 then (0xFF800000, evDIVZERO)
    else if neg then (fmt32.nan, evINVALID)
    else
      let (ex, mb) := splitExp m e
      let half := 0x3FB504F3 < mb
      let ex := if half then ex + 1 else ex
      let mv := match fmt32.value mb with
        | .fin s a b => if half then .fin s a (b - 1) else .fin s a b
        | v => v
      let t := exact32 (Fv.add mv (.fin true 1 0)).1
      let q := horner 0xBE38AA3B t [0x3E530BBF, 0xBE76382A, 0x3E93BB6A, 0xBEB8AA3B, 0x3EF6382A, 0xBF38AA3B, 0x3FB8AA3B]
      fmt32.fmaB false false t q (exact32 (Fv.ofInt ex 0 false))

/-- The Newton steps y := fma(y, fma(-m, y, 1), y) of `vrcp` (R87). -/
def rcpSteps (m y : Nat) : Nat → Nat
  | 0 => y
  | n + 1 =>
    let h := (fmt32.fmaB true false m y 0x3F800000).1
    rcpSteps m (fma32 y h y) n

/-- `vrcp` of one lane (R84, R87). -/
def rcpB (x : Nat) : Nat × Ev :=
  match fmt32.value x with
  | .nan => (fmt32.nan, 0)
  | .inf s => (fmt32.sign s, 0)
  | .fin neg m e =>
    if m = 0 then (fmt32.sign neg + 0x7F800000, evDIVZERO)
    else
      let (ex, mb) := splitExp m e
      let y := rcpSteps mb (fma32 0xBEF0F0F1 mb 0x3FB4B4B5) 3
      match fmt32.value y with
      | .fin s a b => fmt32.round false false (.fin (s != neg) a (b - ex))
      | v => fmt32.round false false v

/-- The steps of `vrsqrt` (R88). -/
def rsqrtSteps (m y : Nat) : Nat → Nat
  | 0 => y
  | n + 1 =>
    let a := (fmt32.mulB m y).1
    let h := (fmt32.fmaB true false a y 0x3F800000).1
    let hy := (fmt32.mulB 0x3F000000 y).1
    rsqrtSteps m (fma32 hy h y) n

/-- `vrsqrt` of one lane (R84, R88). -/
def rsqrtB (x : Nat) : Nat × Ev :=
  match fmt32.value x with
  | .nan => (fmt32.nan, 0)
  | .inf false => (0, 0)
  | .inf true => (fmt32.nan, evINVALID)
  | .fin neg m e =>
    if m = 0 then (fmt32.sign neg + 0x7F800000, evDIVZERO)
    else if neg then (fmt32.nan, evINVALID)
    else
      let (ex, mb) := splitExp m e
      let odd := ex % 2 ≠ 0
      let mb := if odd then (match fmt32.value mb with | .fin s a b => exact32 (.fin s a (b + 1)) | _ => mb) else mb
      let ex := if odd then ex - 1 else ex
      let y := rsqrtSteps mb (fma32 0xBE200000 mb 0x3F900000) 4
      match fmt32.value y with
      | .fin s a b => ((fmt32.round false false (.fin s a (b - ex / 2))).1, 0)
      | v => fmt32.round false false v

/-! ## The stream generator (R89 to R91) -/

/-- The four working words of the generator. -/
structure Quad where
  w0 : BitVec 32
  w1 : BitVec 32
  w2 : BitVec 32
  w3 : BitVec 32
deriving DecidableEq, Repr

/-- One round of R90 with key word `k` and constant `c`. -/
def rngRound (q : Quad) (k c : BitVec 32) : Quad :=
  let w0 := q.w0 + q.w1
  let w3 := (q.w3 ^^^ w0).rotateLeft 16
  let w2 := q.w2 + w3
  let w1 := (q.w1 ^^^ w2).rotateLeft 12
  let w0 := w0 + w1 + k
  let w3 := (w3 ^^^ w0).rotateLeft 8
  let w2 := w2 + w3 + c
  let w1 := (w1 ^^^ w2).rotateLeft 7
  ⟨w0, w1, w2, w3⟩

/-- G(c) of R90 for the key words k0, k1, k2. -/
def rngWords (k0 k1 k2 : BitVec 32) (c : Word) : Quad :=
  let i : Quad := ⟨c.setWidth 32, (c >>> 32).setWidth 32, k2, 0x6A09E667⟩
  let q := rngRound i k0 0x9E3779B9
  let q := rngRound q k1 0x3C6EF372
  let q := rngRound q k2 0xDAA66D2B
  let q := rngRound q k0 0x78DDE6E4
  let q := rngRound q k1 0x1715609D
  let q := rngRound q k2 0xB54CDA56
  ⟨q.w0 + i.w0, q.w1 + i.w1, q.w2 + i.w2, q.w3 + i.w3⟩

/-- The 128 bits of G(c), word 0 lowest (R91). -/
def rngBits (k0 k1 k2 : BitVec 32) (c : Word) : BitVec 128 :=
  let q := rngWords k0 k1 k2 c
  q.w3 ++ q.w2 ++ q.w1 ++ q.w0

end Sys2Proof.Machine
end

