-- ==== Sys2Proof/Machine/Operands.lean ====
section
/-! DEFINITION. Sys2Proof/Machine/Operands.lean: operand forms: sign extension (R8), branch offsets (R42), the address
modes of F-M (R43, R143, R144), vector lanes and governing predicates (R196, R197). -/

namespace Sys2Proof.Machine

open Sys2Proof

/-- sx(x, n): the low n bits of x, sign-extended to 64 bits (R8). -/
def sx (n : Nat) (x : Nat) : Word := (BitVec.ofNat n x).signExtend 64

/-- zx(x, n): the low n bits of x, zero-extended (R8). -/
def zx (n : Nat) (x : Nat) : Word := BitVec.ofNat 64 (x % 2 ^ n)

namespace State

/-- The target of a relative transfer: the transfer's own address + 4 × offset, modulo 2^64 (R42, R119). -/
def relTarget {n : Nat} (s : State) (off : BitVec n) : Word := s.pc + (off.signExtend 64) * 4

/-- The registers that an F-M address mode reads: the base, and the index register of mode 11 (R43, R61). -/
def eaSrcs (a : Fin 32) (m : Fin 4) (i : BitVec 10) : List RegRef :=
  if m = 3 then [.g a, .g (BitVec.toFin (i.extractLsb' 0 5))] else [.g a]

/-- The register that an F-M address mode writes (R43). -/
def eaDsts (a : Fin 32) (m : Fin 4) : List RegRef := if m = 1 ∨ m = 2 then [.g a] else []

/-- The effective address of an F-M access of `size` bytes (R43, R143). -/
def ea (s : State) (a : Fin 32) (m : Fin 4) (i : BitVec 10) (size : Nat) : Word :=
  match m.val with
  | 0 => s.rg a + i.signExtend 64 * BitVec.ofNat 64 size
  | 3 => s.rg a + (s.rg (BitVec.toFin (i.extractLsb' 0 5)) <<< (i.extractLsb' 5 3).toNat)
  | _ => s.rg a

/-- The value that modes 01 and 10 write back to g[a]; mode 10 wraps within m[j] (R43, R144). -/
def eaNext (s : State) (a : Fin 32) (m : Fin 4) (i : BitVec 10) (size : Nat) : Word :=
  if m = 1 then s.rg a + i.signExtend 64 * BitVec.ofNat 64 size
  else
    let r := s.ctx.r.m[(BitVec.toFin (i.extractLsb' 7 3) : Fin 8)]
    let inc := (i.extractLsb' 0 7).toNat * size
    let x := (s.rg a).toNat
    let b := r.base.toNat
    let n := r.len.toNat
    if n ≠ 0 ∧ b ≤ x ∧ x < b + n then BitVec.ofNat 64 (b + (x - b + inc) % n) else BitVec.ofNat 64 (x + inc)

/-- Sends the post-increment of modes 01 and 10 to t+1 (R43). -/
def postInc (s : State) (a : Fin 32) (m : Fin 4) (i : BitVec 10) (size : Nat) : State :=
  if m = 1 ∨ m = 2 then s.landG 1 a (s.eaNext a m i size) else s

end State

end Sys2Proof.Machine
end

