-- ==== Sys2Proof/Machine/Scalar.lean ====
section
/-! DEFINITION. Sys2Proof/Machine/Scalar.lean: the scalar and address instructions (04_scalar.md): the integer ALU,
immediates and constants, bit fields, the bit network, and scalar FP32. -/

namespace Sys2Proof.Machine

open Sys2Proof

/-! ## Shared operations -/

namespace State

/-- A binary operator of latency `lat`: reads g[a] and g[b], writes g[d] (R97). -/
def alu2 (s : State) (lat : Nat) (d a b : Fin 32) (f : Word → Word → Word) : Res :=
  s.simple [.g a, .g b] [.g d] (fun s => s.landG lat d (f (s.rg a) (s.rg b)))

/-- A unary operator of latency 1: reads g[a], writes g[d] (R97, R99, R102). -/
def alu1 (s : State) (d a : Fin 32) (f : Word → Word) : Res :=
  s.simple [.g a] [.g d] (fun s => s.landG 1 d (f (s.rg a)))

/-- A ternary operator of latency 1: reads g[d], g[a] and g[b] (R98, R107). -/
def alu3 (s : State) (d a b : Fin 32) (f : Word → Word → Word → Word) : Res :=
  s.simple [.g d, .g a, .g b] [.g d] (fun s => s.landG 1 d (f (s.rg d) (s.rg a) (s.rg b)))

/-- An earlier divide of the stroke has not landed: only a divide has latency 6 (R55, R59). -/
def divideInFlight (s : State) : Bool :=
  s.ctx.inflight.any (fun l => match l.eff with
    | .reg _ => l.seq == .s && l.due == l.issued + 6 && l.issued < s.tn
    | _ => false)

/-- A divide operator (R59, R98, R100): `rem` selects the remainder. -/
def divide (s : State) (d a b : Fin 32) (signed rem : Bool) : Res :=
  s.guarded [.g a, .g b] [.g d] false (fun s =>
    if s.divideInFlight then s.illegal
    else
      let (q, r, e) := divRem signed (s.rg a) (s.rg b)
      ((s.land 6 (.reg (.g d (if rem then r else q)))).landEv e).retire)

/-- A scalar FP32 operation with a result in bits [31:0] (R112, R113, R116). -/
def fpResult (s : State) (lat : Nat) (d : Fin 32) (r : Nat × Ev) : State :=
  ((s.landG lat d (BitVec.ofNat 64 (r.1 % 2 ^ 32))).landEv r.2).retire

/-- A binary scalar FP32 operation (R113). -/
def fp2 (s : State) (d a b : Fin 32) (f : Nat → Nat → Nat × Ev) : Res :=
  s.guarded [.g a, .g b] [.g d] false (fun s =>
    s.fpResult 2 d (f ((s.rg a).toNat % 2 ^ 32) ((s.rg b).toNat % 2 ^ 32)))

/-- A scalar FP32 comparison: eq 0, lt 1, le 2 (R114). -/
def fpCmp (s : State) (d a b : Fin 32) (op : Nat) : Res :=
  s.guarded [.g a, .g b] [.g d] false (fun s =>
    let (r, e) := fmt32.cmpB op ((s.rg a).toNat % 2 ^ 32) ((s.rg b).toNat % 2 ^ 32)
    ((s.landG 1 d (if r then 1 else 0)).landEv e).retire)

end State

/-- 1 or 0 as a word. -/
def boolWord (b : Bool) : Word := if b then 1 else 0

/-- The number of leading zero bits of the low n bits of x (R99). -/
def clzN (n x : Nat) : Nat := if x = 0 then n else n - 1 - Nat.log2 x

/-- The number of trailing zero bits among the low n bits (R99). -/
def ctzN (n x : Nat) : Nat := ((List.range n).find? (fun i => x.testBit i)).getD n

/-- The number of one bits among the low n bits (R99). -/
def popcN (n x : Nat) : Nat := ((List.range n).filter (fun i => x.testBit i)).length

/-- The number whose bit i is `f i`, for i below n. -/
def bitsOf (n : Nat) (f : Nat → Bool) : Nat := (List.range n).foldl (fun a i => if f i then a + 2 ^ i else a) 0

/-- Bit reversal of a word (R99). -/
def revWord (x : Word) : Word := BitVec.ofNat 64 (bitsOf 64 (fun i => x.getLsbD (63 - i)))

/-- Byte reversal of a word (R99). -/
def bswapWord (x : Word) : Word :=
  BitVec.ofNat 64 ((List.range 8).foldl (fun a i => a + x.toNat / 2 ^ (8 * (7 - i)) % 256 * 2 ^ (8 * i)) 0)

/-! ## The integer ALU (R97 to R100) -/

def execAdd (d a b : Fin 32) (s : State) : Res := s.alu2 1 d a b (fun x y => x + y)
def execSub (d a b : Fin 32) (s : State) : Res := s.alu2 1 d a b (fun x y => x - y)
def execMul (d a b : Fin 32) (s : State) : Res := s.alu2 2 d a b (fun x y => x * y)

/-- The high half of the exact signed product (R98). -/
def execMulh (d a b : Fin 32) (s : State) : Res :=
  s.alu2 2 d a b (fun x y => BitVec.ofInt 64 (x.toInt * y.toInt / 2 ^ 64))

/-- The high half of the exact unsigned product (R98). -/
def execMulhn (d a b : Fin 32) (s : State) : Res :=
  s.alu2 2 d a b (fun x y => BitVec.ofNat 64 (x.toNat * y.toNat / 2 ^ 64))

def execDiv (d a b : Fin 32) (s : State) : Res := s.divide d a b true false
def execDivn (d a b : Fin 32) (s : State) : Res := s.divide d a b false false
def execRem (d a b : Fin 32) (s : State) : Res := s.divide d a b true true
def execRemn (d a b : Fin 32) (s : State) : Res := s.divide d a b false true
def execAnd (d a b : Fin 32) (s : State) : Res := s.alu2 1 d a b (fun x y => x &&& y)
def execOr (d a b : Fin 32) (s : State) : Res := s.alu2 1 d a b (fun x y => x ||| y)
def execXor (d a b : Fin 32) (s : State) : Res := s.alu2 1 d a b (fun x y => x ^^^ y)
def execShl (d a b : Fin 32) (s : State) : Res := s.alu2 1 d a b (fun x y => x <<< (y.toNat % 64))
def execShr (d a b : Fin 32) (s : State) : Res := s.alu2 1 d a b (fun x y => x >>> (y.toNat % 64))
def execSra (d a b : Fin 32) (s : State) : Res := s.alu2 1 d a b (fun x y => x.sshiftRight (y.toNat % 64))
def execSlt (d a b : Fin 32) (s : State) : Res := s.alu2 1 d a b (fun x y => boolWord (x.slt y))
def execSltn (d a b : Fin 32) (s : State) : Res := s.alu2 1 d a b (fun x y => boolWord (x.ult y))
def execMin (d a b : Fin 32) (s : State) : Res := s.alu2 1 d a b (fun x y => if x.slt y then x else y)
def execMax (d a b : Fin 32) (s : State) : Res := s.alu2 1 d a b (fun x y => if x.slt y then y else x)
def execMinn (d a b : Fin 32) (s : State) : Res := s.alu2 1 d a b (fun x y => if x.ult y then x else y)
def execMaxn (d a b : Fin 32) (s : State) : Res := s.alu2 1 d a b (fun x y => if x.ult y then y else x)

/-- `sel` reads g[d] as a source, first in the report (R98). -/
def execSel (d a b : Fin 32) (s : State) : Res := s.alu3 d a b (fun c x y => if c ≠ 0 then x else y)

def execClz (d a : Fin 32) (s : State) : Res := s.alu1 d a (fun x => BitVec.ofNat 64 (clzN 64 x.toNat))
def execCtz (d a : Fin 32) (s : State) : Res := s.alu1 d a (fun x => BitVec.ofNat 64 (ctzN 64 x.toNat))
def execPopc (d a : Fin 32) (s : State) : Res := s.alu1 d a (fun x => BitVec.ofNat 64 (popcN 64 x.toNat))
def execRev (d a : Fin 32) (s : State) : Res := s.alu1 d a revWord
def execBswap (d a : Fin 32) (s : State) : Res := s.alu1 d a bswapWord
def execSextB (d a : Fin 32) (s : State) : Res := s.alu1 d a (fun x => sx 8 x.toNat)
def execSextH (d a : Fin 32) (s : State) : Res := s.alu1 d a (fun x => sx 16 x.toNat)
def execSextW (d a : Fin 32) (s : State) : Res := s.alu1 d a (fun x => sx 32 x.toNat)
def execZextW (d a : Fin 32) (s : State) : Res := s.alu1 d a (fun x => zx 32 x.toNat)

/-! ## Immediates and constants (R102 to R106) -/

def execAddi (d a : Fin 32) (i : BitVec 16) (s : State) : Res := s.alu1 d a (fun x => x + i.signExtend 64)
def execAndi (d a : Fin 32) (i : BitVec 16) (s : State) : Res := s.alu1 d a (fun x => x &&& i.setWidth 64)
def execOri (d a : Fin 32) (i : BitVec 16) (s : State) : Res := s.alu1 d a (fun x => x ||| i.setWidth 64)
def execXori (d a : Fin 32) (i : BitVec 16) (s : State) : Res := s.alu1 d a (fun x => x ^^^ i.setWidth 64)
def execSlti (d a : Fin 32) (i : BitVec 16) (s : State) : Res :=
  s.alu1 d a (fun x => boolWord (x.slt (i.signExtend 64)))
def execShli (d a : Fin 32) (n : BitVec 6) (s : State) : Res := s.alu1 d a (fun x => x <<< n.toNat)
def execShri (d a : Fin 32) (n : BitVec 6) (s : State) : Res := s.alu1 d a (fun x => x >>> n.toNat)
def execSrai (d a : Fin 32) (n : BitVec 6) (s : State) : Res := s.alu1 d a (fun x => x.sshiftRight n.toNat)
def execLih (d a : Fin 32) (i : BitVec 16) (s : State) : Res := s.alu1 d a (fun x => (x <<< 16) ||| i.setWidth 64)

/-- `li`: the K word, sign-extended (R105). -/
def execLi (d : Fin 32) (k : BitVec 32) (s : State) : Res :=
  s.simple [] [.g d] (fun s => s.landG 1 d (k.signExtend 64))

/-- `addpc`: the address of its own word plus 4 × the immediate (R106). -/
def execAddpc (d : Fin 32) (i : BitVec 16) (s : State) : Res :=
  s.simple [] [.g d] (fun s => s.landG 1 d (s.relTarget i))

/-! ## Bit fields (R107); `l` holds len - 1 -/

/-- Bits [pos + len - 1 : pos] of a word. -/
def fieldOf (x : Word) (l p : BitVec 6) : Nat := x.toNat / 2 ^ p.toNat % 2 ^ (l.toNat + 1)

def execBfx (d a : Fin 32) (l p : BitVec 6) (s : State) : Res :=
  s.alu1 d a (fun x => zx (l.toNat + 1) (fieldOf x l p))

def execBfxs (d a : Fin 32) (l p : BitVec 6) (s : State) : Res :=
  s.alu1 d a (fun x => sx (l.toNat + 1) (fieldOf x l p))

def execBfi (d a : Fin 32) (l p : BitVec 6) (s : State) : Res :=
  s.simple [.g d, .g a] [.g d] (fun s => s.landG 1 d (setBits (s.rg d) p.toNat (l.toNat + 1) (s.rg a).toNat))

/-! ## The bit network (R108 to R111) -/

/-- Entry i of a routing pattern applied to x (R109, R110). -/
def patternBit (pat : BitVec 512) (x : Word) (i : Nat) : Bool :=
  let e := (pat.extractLsb' (8 * i) 8).toNat
  let b := x.getLsbD (e % 64)
  match e / 64 with
  | 0 => b
  | 1 => !b
  | 2 => false
  | _ => true

def execBnet (d a : Fin 32) (p : Fin 8) (s : State) : Res :=
  s.alu1 d a (fun x => BitVec.ofNat 64 (bitsOf 64 (patternBit s.ctx.r.patterns[p] x)))

def causeLOADALIGN : BitVec 8 := 0x04
def causeLOADACC : BitVec 8 := 0x05
def causeSTOREALIGN : BitVec 8 := 0x06
def causeSTOREACC : BitVec 8 := 0x07
def causeLOCALITY : BitVec 8 := 0x0E

namespace State

/-- A range lies wholly in the local window (R139). -/
def inWindow (a : Word) (n : Nat) : Bool := a.toNat + n ≤ windowEnd

/-- Well locks: the range meets one that another stroke of the nib holds (R329). -/
def lockedOut (s : State) (off n : Nat) : Bool :=
  s.cnib.locks.any (fun l => l.owner != s.cur.k && l.base < off + n && off < l.base + l.len)

/-- The record area of a nib's enabled context cache (R320). -/
def inRecords (s : State) (n : NibId) (off : Nat) : Bool := (s.nib n).ctxEn && 0x4C000 ≤ off

/-- A local-form read from mode T of bytes that include some of the enabled context cache traps LOADACC (R320). -/
def hidesRecords (s : State) (off n : Nat) : Bool := s.turn.mode == .t && s.inRecords s.cur.nib (off + n - 1)

/-- The stamp of a cell that no listed run covers (R176, R177). -/
def baseStamp (s : State) (cell : Nat) : Clk :=
  match (unitOf cell).folio with
  | some f => s.folios[f].base
  | none => s.modu.base

/-- The stamps wts and rts of a cell (R178): those of the newest run that covers it. -/
def stampOf (s : State) (cell : Nat) : Clk × Clk :=
  match s.stamps.find? (fun x => x.lo ≤ cell && cell < x.hi) with
  | some x => (x.wts, x.rts)
  | none => (s.baseStamp cell, s.baseStamp cell)

/-- Sets the stamps of one cell (R180, R181). -/
def setStamp (s : State) (cell : Nat) (w r : Clk) : State :=
  { s with stamps := ⟨cell, cell + 64, w, r⟩ :: s.stamps.filter (fun x => !(x.lo == cell && x.hi == cell + 64)) }

/-- The read of the cell at `pa` at its home by an agent with clock `lc` and lease length `l` (R180): its time. -/
def readStamp (s : State) (pa : Nat) (lc : Clk) (l : Nat) : Clk × State :=
  let cell := pa / 64 * 64
  let (w, r) := s.stampOf cell
  let t := Clk.max lc w
  (t, s.setStamp cell w (Clk.max r (t + BitVec.ofNat 48 l)))

/-- The write of the cell at `pa` at its home by an agent with clock `lc` (R181): its time. -/
def writeStamp (s : State) (pa : Nat) (lc : Clk) : Clk × State :=
  let cell := pa / 64 * 64
  let t := Clk.max lc ((s.stampOf cell).2 + 1)
  (t, s.setStamp cell t t)

/-- Reads (or writes) every cell of a range in increasing address order, from clock `lc` (R183): the last time. -/
def stampRange (s : State) (write : Bool) (pa : Nat) (lc : Clk) (l : Nat) : Nat → Clk × State
  | 0 => (lc, s)
  | n + 1 =>
    let (t, s) := if write then s.writeStamp pa lc else s.readStamp pa lc l
    s.stampRange write (pa / 64 * 64 + 64) t l n

/-- How many cells the bytes [a, a + n) touch. -/
def cellsOf (a n : Nat) : Nat := if n = 0 then 0 else (a + n - 1) / 64 - a / 64 + 1

/-- A local-form read of the issuing nib's well: the data as they stood at the start of the turn, and the clock of the
issuing sequencer after it (R143, R183). -/
def localLoad (s : State) (off n : Nat) : Nat × State :=
  let x := s.wellRead off n
  let (t, s) := s.stampRange false (wellPA s.cur.nib off) s.lc 0 (cellsOf off n)
  (x, s.setLc t)

/-- A local-form write of the issuing nib's well, with its time (R143, R181). -/
def localStore (s : State) (off n x : Nat) : State :=
  let s := s.wellWrite off n x
  let (t, s) := s.stampRange true (wellPA s.cur.nib off) s.lc 0 (cellsOf off n)
  s.setLc t

end State

/-- `bnld`: a 64-byte pattern from the well, in force from t+1 (R111). The records of the context cache are hidden from
mode T after the two checks of R111 (R320, DEDUCED, assumption 59). -/
def execBnld (p : Fin 8) (a : Fin 32) (s : State) : Res :=
  s.guarded [.g a] [] false (fun s =>
    let va := s.rg a
    if !State.inWindow va 1 then s.raise causeLOCALITY va
    else if va.toNat % 64 ≠ 0 then s.raise causeLOADALIGN va
    else if s.hidesRecords va.toNat 64 then s.raise causeLOADACC va
    else if s.lockedOut va.toNat 64 then s.waitMsg
    else
      let (x, s) := s.localLoad va.toNat 64
      (s.land 1 (.pattern p (BitVec.ofNat 512 x))).retire)

/-! ## Scalar FP32 (R112 to R116) -/

def execFadd (d a b : Fin 32) (s : State) : Res := s.fp2 d a b fmt32.addB
def execFsub (d a b : Fin 32) (s : State) : Res := s.fp2 d a b fmt32.subB
def execFmul (d a b : Fin 32) (s : State) : Res := s.fp2 d a b fmt32.mulB
def execFmin (d a b : Fin 32) (s : State) : Res := s.fp2 d a b (fmt32.minB false)
def execFmax (d a b : Fin 32) (s : State) : Res := s.fp2 d a b (fmt32.minB true)
def execFeq (d a b : Fin 32) (s : State) : Res := s.fpCmp d a b 0
def execFlt (d a b : Fin 32) (s : State) : Res := s.fpCmp d a b 1
def execFle (d a b : Fin 32) (s : State) : Res := s.fpCmp d a b 2

/-- FP32 to i64, toward zero, saturating (R115). -/
def execFcvtIF (d a : Fin 32) (s : State) : Res :=
  s.guarded [.g a] [.g d] false (fun s =>
    let (n, e) := (fmt32.value ((s.rg a).toNat % 2 ^ 32)).toInt (-(2 ^ 63)) (2 ^ 63 - 1)
    ((s.landG 2 d (BitVec.ofInt 64 n)).landEv e).retire)

/-- i64 to FP32, to nearest even (R115). -/
def execFcvtFI (d a : Fin 32) (s : State) : Res :=
  s.guarded [.g a] [.g d] false (fun s => s.fpResult 2 d (fmt32.ofIntB (s.rg a).toInt))

/-- `fmadd`: g[d] + g[a] × g[b], fused (R116). -/
def execFmadd (d a b : Fin 32) (s : State) : Res :=
  s.guarded [.g d, .g a, .g b] [.g d] false (fun s =>
    s.fpResult 2 d (fmt32.fmaB false false ((s.rg a).toNat % 2 ^ 32) ((s.rg b).toNat % 2 ^ 32)
      ((s.rg d).toNat % 2 ^ 32)))

end Sys2Proof.Machine
end

