-- ==== Sys2Proof/Machine/Control.lean ====
section
/-! DEFINITION. Sys2Proof/Machine/Control.lean: control flow, outcome queues, seals, and the ending and joining of
streams (05_control.md), with `dly` and `nop` (02_lines.md R58). -/

namespace Sys2Proof.Machine

open Sys2Proof

def causeSEALBUSY : BitVec 8 := 0x14
def causeSWEEPFAULT : BitVec 8 := 0x18

namespace State

/-! ## Transfers -/

/-- The target checks of R36 for a transfer of the issuing sequencer: the first that fails, with its cause and `tval`. -/
def targetTrap (s : State) (t : Word) : Option (BitVec 8 × Word) :=
  if s.ctx.c.xob.toNat ≤ t.toNat then some (causeOVERLAY, t)
  else if t.toNat % 4 ≠ 0 then some (causeTARGET, t)
  else
    match lineCheck s.code (t.toNat / 32 * 32) with
    | some (c, v) => some (c, BitVec.ofNat 64 v)
    | none =>
      let k := t.toNat % 32 / 4
      if k = 0 ∨ tagOf (s.code (t.toNat / 32 * 32)) k ≠ seqTag s.cur.q then some (causeTARGET, t) else none

/-- A taken transfer: its target is checked (R36), then `link` acts, and the sequencer goes on at the target after
losing `lost` turns (R37). -/
def transfer (s : State) (t : Word) (lost : Nat) (link : State → State) : State :=
  match s.targetTrap t with
  | some (c, v) => s.raise c v
  | none => ((link s).markIssued).goTo ⟨t.toNat, 0, true⟩ lost

/-- The link of `jal` and `jalr`: the address that sequential flow would issue next (R38). -/
def linkAddr (s : State) : Word := BitVec.ofNat 64 s.nextFound.pc

/-- A transfer that is not taken loses `lost` turns beyond those of sequential flow (R37). -/
def fallThrough (s : State) (lost : Nat) : State := s.markIssued.goTo s.nextFound lost

/-- A conditional transfer with hint h (R37, R122): a wrong hint costs one turn. -/
def branch (s : State) (h : Fin 4) (taken : Bool) (t : Word) : State :=
  if taken then s.transfer t (if h = 1 then 0 else 1) id else s.fallThrough (if h = 1 then 1 else 0)

/-- A compare-and-branch (R120). -/
def compareBranch (s : State) (a b : Fin 32) (h : Fin 4) (x : BitVec 14) (f : Word → Word → Bool) : Res :=
  s.guarded [.g a, .g b] [] false (fun s => s.branch h (f (s.rg a) (s.rg b)) (s.relTarget x))

end State

def execJ (x : BitVec 24) (s : State) : Res := s.guarded [] [] false (fun s => s.transfer (s.relTarget x) 0 id)

def execJal (x : BitVec 24) (s : State) : Res :=
  s.guarded [] [.g 1] false (fun s => s.transfer (s.relTarget x) 0 (fun s => s.landG 1 1 s.linkAddr))

def execJr (a : Fin 32) (s : State) : Res := s.guarded [.g a] [] false (fun s => s.transfer (s.rg a) 1 id)

def execJalr (d a : Fin 32) (s : State) : Res :=
  s.guarded [.g a] [.g d] false (fun s => s.transfer (s.rg a) 1 (fun s => s.landG 1 d s.linkAddr))

def execBeq (a b : Fin 32) (h : Fin 4) (x : BitVec 14) (s : State) : Res := s.compareBranch a b h x (fun p q => p == q)
def execBne (a b : Fin 32) (h : Fin 4) (x : BitVec 14) (s : State) : Res := s.compareBranch a b h x (fun p q => p != q)
def execBlt (a b : Fin 32) (h : Fin 4) (x : BitVec 14) (s : State) : Res := s.compareBranch a b h x BitVec.slt
def execBge (a b : Fin 32) (h : Fin 4) (x : BitVec 14) (s : State) : Res :=
  s.compareBranch a b h x (fun p q => !p.slt q)
def execBltn (a b : Fin 32) (h : Fin 4) (x : BitVec 14) (s : State) : Res := s.compareBranch a b h x BitVec.ult
def execBgen (a b : Fin 32) (h : Fin 4) (x : BitVec 14) (s : State) : Res :=
  s.compareBranch a b h x (fun p q => !p.ult q)

/-- A branch on a predicate (R121). -/
def State.predBranch (s : State) (a : Fin 8) (h : Fin 4) (x : BitVec 14) (f : Pred → Bool) : Res :=
  s.guarded [.p a] [] false (fun s => s.branch h (f (s.rp a)) (s.relTarget x))

def execBpAny (a : Fin 8) (h : Fin 4) (x : BitVec 14) (s : State) : Res := s.predBranch a h x (fun p => p != 0)
def execBpNone (a : Fin 8) (h : Fin 4) (x : BitVec 14) (s : State) : Res := s.predBranch a h x (fun p => p == 0)
def execBpAll (a : Fin 8) (h : Fin 4) (x : BitVec 14) (s : State) : Res :=
  s.predBranch a h x (fun p => p == BitVec.allOnes 128)

/-- `jtab`: a jump through a table in the well (R123). An entry in a range that another stroke has locked waits
(R329); one in the records of the context cache is hidden from mode T (R320, DEDUCED, assumption 59). -/
def execJtab (i a : Fin 32) (l : BitVec 16) (s : State) : Res :=
  s.guarded [.g i, .g a] [] false (fun s =>
    let idx := (s.rg i).toNat
    if l.toNat ≤ idx then s.fallThrough 0
    else
      let ea := s.rg a + BitVec.ofNat 64 (4 * idx)
      if 0x5FFFC < ea.toNat then s.raise causeLOCALITY ea
      else if ea.toNat % 4 ≠ 0 then s.raise causeLOADALIGN ea
      else if s.hidesRecords ea.toNat 4 then s.raise causeLOADACC ea
      else if s.lockedOut ea.toNat 4 then s.waitMsg
      else
        let t := s.pc + sx 32 (s.wellRead ea.toNat 4) * 4
        s.transfer t 1 (fun s => (s.localLoad ea.toNat 4).2))

/-! ## Delays (R58) -/

/-- `dly n`: the sequencer issues nothing in the n turns that follow. The turns that a far next word costs (R35) come on top
of them (DESIGN CHOICE, assumption 60). -/
def execDly (n : BitVec 16) (s : State) : Res :=
  s.guarded [] [] false (fun s => s.markIssued.goTo s.nextFound n.toNat)

def execNop (s : State) : Res := s.simple [] [] id

/-! ## Branch-outcome queues (R124 to R127) -/

namespace State

/-- Entries of an outcome queue, counting pushes that sequencers earlier in this turn have issued (R117). -/
def oqCount (s : State) (q : Seq) : Nat :=
  s.ctx.x.oq[q.idx].length + (s.ctx.inflight.filter (fun l => match l.eff with
    | .oqPush r _ _ => r == q && l.issued == s.tn
    | _ => false)).length

/-- Pushes a bit to outcome queue `q`, or waits while it holds 16 (R125). -/
def pushOutcome (s : State) (q : Fin 4) (b : Bool) : State :=
  if 16 ≤ s.oqCount (Seq.ofIdx q) then s.waitMsg else (s.land 1 (.oqPush (Seq.ofIdx q) b s.lc)).retire

end State

def execBpush (a : Fin 32) (q : Fin 4) (s : State) : Res :=
  s.guarded [.g a] [] false (fun s => s.pushOutcome q (s.rg a != 0))

def execBpushP (a : Fin 8) (q : Fin 4) (s : State) : Res :=
  s.guarded [.p a] [] false (fun s => s.pushOutcome q (s.rp a != 0))

/-- `bq`: waits for an outcome, pops it, and branches on it (R126). The popper takes the pusher's clock (R187). A branch
that traps on its target leaves the entry in the queue (R36, R39). -/
def execBq (h : Fin 4) (x : BitVec 24) (s : State) : Res :=
  s.guarded [] [] false (fun s =>
    match s.ctx.x.oq[s.cur.q.idx] with
    | [] => s.waitMsg
    | e :: _ =>
      let pop := fun (s : State) => (s.land 1 (.oqPop s.cur.q)).setLc (Clk.max s.lc e.clk)
      let t := s.relTarget x
      if e.bit then s.transfer t (if h = 1 then 0 else 1) pop else (pop s).fallThrough (if h = 1 then 1 else 0))

/-! ## Seals (R129 to R133) -/

namespace State

/-- The turn in which a handoff of the issuing sequencer takes effect: t+1, or the latest landing of a fixed-latency
result that the sequencer issued before it (R132), one in a record that counts included (R63). A result for g0 is
discarded and does not land (R44, R96, DESIGN CHOICE, assumption 61). -/
def handoffDue (s : State) : Nat :=
  let c := s.ctx
  let d := c.inflight.foldl (fun d l => match l.eff with
    | .reg w => if l.seq = s.cur.q ∧ w.ref ≠ .g 0 then max d l.due else d
    | _ => d) (s.tn + 1)
  match c.resumed with
  | some u => c.lateWrites.foldl (fun d w => if w.seq = s.cur.q then max d (u + w.k) else d) d
  | none => d

/-- Issues a handoff (R132). -/
def handoff (s : State) (x : Fin 16) (k : HandKind) (n : BitVec 16) : State :=
  (s.land (s.handoffDue - s.tn) (.handoff x k n)).retire

/-- A seal of the issuing stroke. -/
def seal_ (s : State) (x : Fin 16) : Seal := s.ctx.r.seals[x]

end State

def execSinc (sl : Fin 16) (s : State) : Res := s.guarded [] [] false (fun s => s.handoff sl .add 1)

def execSadd (sl : Fin 16) (a : Fin 32) (s : State) : Res :=
  s.guarded [.g a] [] false (fun s => s.handoff sl .add ((s.rg a).setWidth 16))

def execSset (sl : Fin 16) (a : Fin 32) (s : State) : Res :=
  s.guarded [.g a] [] false (fun s =>
    if (s.seal_ sl).pend ≠ 0 then s.raise causeSEALBUSY (BitVec.ofNat 64 sl.val)
    else s.handoff sl .set ((s.rg a).setWidth 16))

def execSread (d : Fin 32) (sl : Fin 16) (s : State) : Res :=
  s.simple [] [.g d] (fun s => s.landG 1 d ((s.seal_ sl).count.setWidth 64))

def execSpend (d : Fin 32) (sl : Fin 16) (s : State) : Res :=
  s.simple [] [.g d] (fun s => s.landG 1 d ((s.seal_ sl).pend.setWidth 64))

/-- A count has reached a threshold: their difference modulo 2^16 is below 2^15 (R131). -/
def sealReached (count thr : BitVec 16) : Bool := (count - thr).toNat < 2 ^ 15

/-- `waits`: the threshold is formed in the first attempt and kept across retries; a waiter that passes takes the
seal's clock (R131, R187). -/
def execWaits (sl : Fin 16) (a : Fin 32) (i : BitVec 16) (s : State) : Res :=
  s.guarded [.g a] [] false (fun s =>
    let thr := ((s.seqSt s.cur.q).thr).getD ((s.rg a).setWidth 16 + i)
    if sealReached (s.seal_ sl).count thr then (s.setLc (Clk.max s.lc (s.seal_ sl).clk)).retire
    else (s.modSeq s.cur.q (fun q => { q with thr := some thr })).waitMsg)

/-! ## Ending and joining streams (R134, R271, R273) -/

namespace State

/-- Traps in service as the instructions of this turn see them: one fewer after a trap of the turn, one more after a
`tret` of it (R40, R315). -/
def pausedNow (s : State) (w : Sweep) : Nat :=
  w.paused + (if s.turn.tret then 1 else 0) - (if s.turn.trapped then 1 else 0)

/-- The issuing sequencer runs a step block of a sweep now (R273). -/
def inBlock (s : State) : Bool :=
  match s.ctx.x.sweep with
  | some w => w.running.contains s.cur.q && w.stage == .run && s.pausedNow w == 0
  | none => false

/-- The sequencer is a member of a sweep that runs, and outside any step block of its own: it issues nothing (R271). -/
def sweepHeld (s : State) (q : Seq) : Bool :=
  match s.ctx.x.sweep with
  | some w => w.members.contains q && s.pausedNow w == 0 && !(w.running.contains q && w.stage == .run)
  | none => false

end State

/-- `sstop`: outside a step block the sequencer is ended, with its PC on the word; inside one its part of the block
ends, and the block ends with the last member's (R134, R273). -/
def execSstop (s : State) : Res :=
  s.guarded [] [] false (fun s =>
    let s := s.markIssued
    if s.inBlock then
      s.modCtx (fun c => { c with x := { c.x with sweep := c.x.sweep.map (fun w =>
        let r := w.running.filter (· != s.cur.q)
        { w with running := r, stage := if r.isEmpty then .writeBack s.tn else w.stage }) } })
    else
      let s := s.modSeq s.cur.q (fun q => { q with ended := true })
      if s.cur.q = .s then { s with turn := { s.turn with sEnded := true } } else s)

/-- `sjoin`: waits until S starts a sweep, and then takes part in it (R134). The brush moves it on when the sweep ends.
Inside a step block it traps SWEEPFAULT (R273), and in a turn in which S has ended outside one (R134); where an earlier
sequencer's trap is taken in that turn, it raises SWEEPFAULT again when it next issues (R40). -/
def execSjoin (s : State) : Res :=
  s.guarded [] [] false (fun s =>
    if s.inBlock then s.raise causeSWEEPFAULT s.pc
    else if s.turn.sEnded || (s.seqSt s.cur.q).fault then
      let passed := s.turn.trapped || s.turn.halt.isSome
      (s.modSeq s.cur.q (fun q => { q with fault := passed })).raise causeSWEEPFAULT s.pc
    else (s.modSeq s.cur.q (fun q => { q with joining := true })).waitMsg)

end Sys2Proof.Machine
end

