-- ==== Sys2Proof/Machine/Record.lean ====
section
/-! DEFINITION. Sys2Proof/Machine/Record.lean: the context record as bytes (12_system.md R317 to R319): what is written
when a context enters a cache entry or memory, and what is read when it leaves. What the record has no bytes for (the
sequencers' clocks, the task, the brush state) stays beside the entry (DESIGN CHOICE, assumptions 12, 20, 21). -/

namespace Sys2Proof.Machine

open Sys2Proof

/-! ## CSR fields of a record -/

/-- Held late-write records of one sequencer (R310). -/
def Ctx.lwOf (c : Ctx) (q : Seq) : Nat := (c.lateWrites.filter (·.seq == q)).length

/-- `lwstat` (R310). A count that its field cannot show reads as the largest that R63 gives, 3 and 5 (DESIGN CHOICE,
assumption 78). -/
def Ctx.lwstat (c : Ctx) : Word :=
  let cnt := fun (q : Seq) => min 3 (c.lwOf q)
  BitVec.ofNat 64 (cnt .s + cnt .a * 4 + cnt .x * 16 + cnt .w * 64 + min 5 c.handRecs.length * 256)

/-! ## Writing a record -/

/-- A field of a record: offset, size in bytes, value. -/
abbrev Field := Nat × Nat × Nat

/-- The number whose n bytes of width `w` are the values of `f`. -/
def packN (w n : Nat) (f : Nat → Nat) : Nat := (List.range n).foldl (fun a i => a + f i % 2 ^ w * 2 ^ (w * i)) 0

/-- The largest of a list of clocks; 0 for none (R319). -/
def maxClk (l : List Clk) : Clk := match l with
  | [] => 0
  | x :: r => r.foldl Clk.max x

/-- The values of vector late-write records, in the order of the records: they take annex slots 0 to 2 (R318). -/
def lateVectors (l : List LateWrite) : List Vec := l.filterMap (fun w => match w.reg with
  | .v _ x => some x
  | _ => none)

/-- The fields of late-write record j, where `vs` vector records came before it (R317). -/
def lateField (w : LateWrite) (j vs : Nat) : List Field :=
  let base := 0x1500 + 24 * j
  let (reg, x) : Nat × Nat := match w.reg with
    | .g i x => (i.val, x.toNat)
    | .v i _ => (0x20 + i.val, vs)
    | .p i x => (0x40 + i.val, x.toNat)
  [(base, 1, reg), (base + 1, 1, w.k), (base + 2, 1, w.seq.idx.val), (base + 8, 16, x)]

/-- All late-write records (R317). -/
def lateFields : List LateWrite → Nat → Nat → List Field
  | [], _, _ => []
  | w :: r, j, vs => lateField w j vs ++ lateFields r (j + 1) (match w.reg with | .v .. => vs + 1 | _ => vs)

/-- Handoff record j (R318). -/
def handField (h : HandRec) (j : Nat) : Field :=
  (0x21A0 + 8 * j, 8, h.sl.val + h.k % 256 * 2 ^ 8 + h.seq.idx.val * 2 ^ 16 +
    (match h.kind with | .add => 0 | .set => 1) * 2 ^ 24 + h.amount.toNat * 2 ^ 32)

/-- Tensor slot t (R317, R268, R270). -/
def slotField (x : Slot) (t : Nat) : List Field :=
  let b := 0x1620 + 36 * t
  [(b, 8, x.ebase.toNat), (b + 8, 4, x.estride.toNat), (b + 12, 4, x.count.toNat), (b + 16, 4, x.serifs.toNat),
   (b + 20, 4, x.skip.toNat), (b + 24, 4, x.steps.toNat), (b + 28, 4, x.sweeps.toNat), (b + 32, 2, x.ovcnt.toNat),
   (b + 34, 1, x.valid.toNat + 2 * x.running.toNat + 4 * x.overdec.toNat + 8 * x.lostSeen.toNat)]

/-- A vector queue: its entries from slot 0, and the words of R318. -/
def vqFields (l : List VQEntry) (base ctl : Nat) : List Field :=
  l.mapIdx (fun i e => (base + 128 * i, 128, if e.filled then e.val.toNat else 0)) ++
  [(ctl + 1, 1, l.length), (ctl + 2, 1, bitsOf 4 (fun i => (l[i]?.map (·.filled)).getD false)),
   (ctl + 4, 6, (maxClk (l.map (·.clk))).toNat)]

/-- An outcome queue (R318). -/
def oqFields (l : List OQEntry) (base : Nat) : List Field :=
  [(base, 2, bitsOf 16 (fun i => (l[i]?.map (·.bit)).getD false)), (base + 2, 1, l.length),
   (base + 4, 6, (maxClk (l.map (·.clk))).toNat)]

/-- `tstatus` as it reads: PRV holds the mode (R309). -/
def Csrs.status (c : Csrs) : Word := setBits c.tstatus 2 2 c.mode.code

/-- The CSRs of a record, in its order (R317); `tip` is that CSR as the stroke reads it (R312). -/
def Ctx.csrList (c : Ctx) (tip : Word) : List Word :=
  [c.c.xob, c.c.tvec, c.c.status, c.c.tscratch, c.c.tcause, c.c.tval, c.c.tseq, c.c.tpc[0], c.c.tpc[1], c.c.tpc[2],
   c.c.tpc[3], c.c.tie, tip, c.lwstat, c.c.ptroot, c.c.rngctr, c.c.rngseed, c.c.rngsid, c.c.fpev,
   c.c.vrb.setWidth 64, c.c.spctl, c.c.mfault, c.c.rpolicy]

/-- FLAGS of a record (R317). -/
def Ctx.flags (c : Ctx) (stopped : Bool) : Nat :=
  c.withdrawn.toNat + 2 * stopped.toNat + 4 * (!c.causes.isEmpty).toNat + 8 * c.x.sweep.isSome.toNat

/-- The fields of a context record; every other byte is 0 (R317, R318). The brush state, whose encoding belongs to the nib
alone, holds the model's number of the context, by which what the record has no bytes for is found again wherever a program
carries it (DESIGN CHOICE, assumption 20). -/
def Ctx.fields (c : Ctx) (stopped : Bool) (tip : Word) : List Field :=
  [(0, 4096, packN 1024 32 (fun i => if h : i < 32 then (c.r.v[i]).toNat else 0)),
   (0x1000, 256, packN 64 32 (fun i => if h : i < 32 then (c.r.g[i]).toNat else 0)),
   (0x1100, 128, packN 128 8 (fun i => if h : i < 8 then (c.r.p[i]).toNat else 0)),
   (0x1180, 128, packN 128 8 (fun i => if h : i < 8 then (c.r.m[i]).base.toNat + (c.r.m[i]).len.toNat * 2 ^ 64 else 0)),
   (0x1200, 512, c.r.bins.toNat),
   (0x1400, 32, packN 64 4 (fun i => if h : i < 4 then (c.seqs[i]).pc.toNat else 0)),
   (0x1420, 9, c.r.pendG.toNat + c.r.pendV.toNat * 2 ^ 32 + c.r.pendP.toNat * 2 ^ 64),
   (0x1430, 3, 1 + c.c.mode.code * 2 ^ 8 + c.flags stopped * 2 ^ 16), (0x1434, 4, c.task.origin.toNat),
   (0x1438, 1, (c.causes.head?.map (·.code.toNat)).getD 0),
   (0x1440, 192, packN 96 16 (fun i => if h : i < 16 then
      (c.r.seals[i]).count.toNat + (c.r.seals[i]).pend.toNat * 2 ^ 16 + (c.r.seals[i]).clk.toNat * 2 ^ 32 else 0))] ++
  lateFields c.lateWrites 0 0 ++
  (c.x.slots.toList.mapIdx (fun t x => slotField x t)).flatten ++
  (c.csrList tip).mapIdx (fun i x => (0x1740 + 8 * i, 8, x.toNat)) ++
  vqFields c.x.ax 0x1800 0x1D80 ++ vqFields c.x.xw 0x1A00 0x1D90 ++
  (lateVectors c.lateWrites).mapIdx (fun i x => (0x1C00 + 128 * i, 128, x.toNat)) ++
  (c.x.oq.toList.mapIdx (fun j l => oqFields l (0x1DA0 + 16 * j))).flatten ++
  [(0x1E00, 512, packN 512 8 (fun i => if h : i < 8 then (c.r.patterns[i]).toNat else 0)),
   (0x2000, 256, packN 32 64 (fun i => if h : i < 64 then (c.x.shadow[i]).toNat else 0)),
   (0x2100, 9, packN 32 2 (fun i => (c.x.fmt[i]?.getD 0).toNat) + c.x.fmt.length * 2 ^ 64),
   (0x2110, 128, packN 16 64 (fun i => if h : i < 64 then (c.x.gen[i]).toNat else 0)),
   (0x2190, 8, (c.causes.head?.map (·.val.toNat)).getD 0), (0x2198, 8, c.x.arrived.toNat)] ++
  c.handRecs.mapIdx (fun j h => handField h j) ++ [(0x2200, 8, c.cid)]

/-- The size of a context record (R317). -/
def recordSize : Nat := 0x2800

/-- The 10,240 bytes of a record as one number. -/
def Ctx.record (c : Ctx) (stopped : Bool) (tip : Word) : Nat :=
  (c.fields stopped tip).foldl (fun a (o, n, x) => a + x % 2 ^ (8 * n) * 2 ^ (8 * o)) 0

/-! ## Reading a record -/

/-- `n` bytes of a record from offset `o`. -/
def recField (r o n : Nat) : Nat := r / 2 ^ (8 * o) % 2 ^ (8 * n)

/-- A mode from its code; 3 reads as T (R306). -/
def Mode.ofCode : Nat → Mode
  | 1 => .k
  | 2 => .d
  | _ => .t

/-- The late-write records of a record (R317); `side` gives the turns in which they were issued. -/
def recLate (r : Nat) (side : List LateWrite) : List LateWrite :=
  (List.range 12).filterMap (fun j =>
    let b := 0x1500 + 24 * j
    let reg := recField r b 1
    let k := recField r (b + 1) 1
    let q := Seq.ofIdx (Fin.ofNat 4 (recField r (b + 2) 1))
    if k = 0 then none
    else
      let x := recField r (b + 8) 16
      let w : RegWrite := match reg / 32 with
        | 0 => .g (Fin.ofNat 32 reg) (BitVec.ofNat 64 x)
        | 1 => .v (Fin.ofNat 32 reg) (BitVec.ofNat 1024 (recField r (0x1C00 + 128 * (x % 4 % 3)) 128))
        | _ => .p (Fin.ofNat 8 reg) (BitVec.ofNat 128 x)
      some ⟨w, k, q, (side[j]?.map (·.issued)).getD 0⟩)

/-- The handoff records of a record (R318). -/
def recHands (r : Nat) : List HandRec :=
  (List.range 8).filterMap (fun j =>
    let x := recField r (0x21A0 + 8 * j) 8
    if x % 16 = 0 then none
    else some ⟨Fin.ofNat 16 x, if x / 2 ^ 24 % 2 = 1 then .set else .add, BitVec.ofNat 16 (x / 2 ^ 32),
      Seq.ofIdx (Fin.ofNat 4 (x / 2 ^ 16)), x / 2 ^ 8 % 256⟩)

/-- A tensor slot of a record (R317). -/
def recSlot (r t : Nat) : Slot :=
  let b := 0x1620 + 36 * t
  let f := recField r (b + 34) 1
  { valid := f.testBit 0, ebase := BitVec.ofNat 64 (recField r b 8), estride := BitVec.ofNat 32 (recField r (b + 8) 4)
    count := BitVec.ofNat 32 (recField r (b + 12) 4), serifs := BitVec.ofNat 32 (recField r (b + 16) 4)
    skip := BitVec.ofNat 32 (recField r (b + 20) 4), steps := BitVec.ofNat 32 (recField r (b + 24) 4)
    sweeps := BitVec.ofNat 32 (recField r (b + 28) 4), ovcnt := BitVec.ofNat 16 (recField r (b + 32) 2)
    overdec := f.testBit 2, lostSeen := f.testBit 3, running := f.testBit 1 }

/-- A vector queue of a record; `ops` names the operations that its reserved slots wait for (R318). -/
def recVq (r base ctl : Nat) (ops : List Nat) : List VQEntry :=
  let head := recField r ctl 1
  let clk := BitVec.ofNat 48 (recField r (ctl + 4) 6)
  let filled := recField r (ctl + 2) 1
  let raw := (List.range (min 4 (recField r (ctl + 1) 1))).map (fun i =>
    let j := (head + i) % 4
    (filled.testBit j, BitVec.ofNat 1024 (recField r (base + 128 * j) 128)))
  (raw.foldl (fun (acc : List VQEntry × List Nat) x =>
    let (l, o) := acc
    if x.1 then (l ++ [⟨x.2, true, 0, clk⟩], o) else (l ++ [⟨0, false, o.headD 0, clk⟩], o.tail)) ([], ops)).1

/-- An outcome queue of a record (R318). -/
def recOq (r base : Nat) : List OQEntry :=
  let clk := BitVec.ofNat 48 (recField r (base + 4) 6)
  (List.range (min 16 (recField r (base + 2) 1))).map (fun i => ⟨(recField r base 2).testBit i, clk⟩)

/-- The register files of a record (R317, R318); g0 and p0 keep their constants (R44). -/
def recRegs (r : Nat) : Regs :=
  { g := (Vector.ofFn (fun (i : Fin 32) => BitVec.ofNat 64 (recField r (0x1000 + 8 * i.val) 8))).set 0 0
    v := Vector.ofFn (fun (i : Fin 32) => BitVec.ofNat 1024 (recField r (128 * i.val) 128))
    p := (Vector.ofFn (fun (i : Fin 8) => BitVec.ofNat 128 (recField r (0x1100 + 16 * i.val) 16))).set 0 (BitVec.allOnes 128)
    pendG := BitVec.ofNat 32 (recField r 0x1420 4) &&& ~~~ 1
    pendV := BitVec.ofNat 32 (recField r 0x1424 4)
    pendP := BitVec.ofNat 8 (recField r 0x1428 1) &&& ~~~ 1
    seals := Vector.ofFn (fun (i : Fin 16) =>
      let b := 0x1440 + 12 * i.val
      ⟨BitVec.ofNat 16 (recField r b 2), BitVec.ofNat 12 (recField r (b + 2) 2), BitVec.ofNat 48 (recField r (b + 4) 6)⟩)
    m := Vector.ofFn (fun (i : Fin 8) =>
      ⟨BitVec.ofNat 64 (recField r (0x1180 + 16 * i.val) 8), BitVec.ofNat 32 (recField r (0x1188 + 16 * i.val) 4)⟩)
    bins := BitVec.ofNat 4096 (recField r 0x1200 512)
    patterns := Vector.ofFn (fun (i : Fin 8) => BitVec.ofNat 512 (recField r (0x1E00 + 64 * i.val) 64)) }

/-- The CSRs of a record; reserved bits read 0 (R309, R310). -/
def recCsrs (r : Nat) : Csrs :=
  let x := fun (i : Nat) => BitVec.ofNat 64 (recField r (0x1740 + 8 * i) 8)
  { mode := Mode.ofCode (recField r 0x1431 1 % 4)
    xob := xobClamp (x 0), tvec := x 1 &&& 0x7FFE0, tstatus := x 2 &&& 0x9933, tscratch := x 3
    tcause := x 4 &&& 0x80000000000000FF, tval := x 5, tseq := x 6 &&& 3
    tpc := Vector.ofFn (fun (q : Fin 4) => x (7 + q.val) &&& 0x7FFFC)
    tie := x 11 &&& intMask, tip := x 12 &&& 0xA02, ptroot := x 14 &&& 0xFFFFFFFFFFFF0001
    rngctr := x 15, rngseed := x 16, rngsid := x 17 &&& 0xFFFFFFFF, fpev := x 18, vrb := (x 19).setWidth 4
    spctl := x 20 &&& 0xFFFFFFFFF, mfault := x 21 &&& 0xFFFFFFF800000001, rpolicy := x 22 &&& 3 }

/-- The context that a record holds; `side` gives what the record has no bytes for. -/
def Ctx.ofRecord (r : Nat) (side : Ctx) : Ctx :=
  { side with
    r := recRegs r
    c := recCsrs r
    x := { side.x with
      oq := Vector.ofFn (fun (q : Fin 4) => recOq r (0x1DA0 + 16 * q.val))
      ax := recVq r 0x1800 0x1D80 ((side.x.ax.filter (!·.filled)).map (·.op))
      xw := recVq r 0x1A00 0x1D90 []
      fmt := (List.range (min 2 (recField r 0x2108 1))).map (fun i => BitVec.ofNat 32 (recField r (0x2100 + 4 * i) 4))
      shadow := Vector.ofFn (fun (i : Fin 64) => BitVec.ofNat 32 (recField r (0x2000 + 4 * i.val) 4))
      arrived := BitVec.ofNat 64 (recField r 0x2198 8)
      gen := Vector.ofFn (fun (i : Fin 64) => BitVec.ofNat 16 (recField r (0x2110 + 2 * i.val) 2))
      slots := Vector.ofFn (fun (t : Fin 8) => recSlot r t.val)
      sweep := if (recField r 0x1432 1).testBit 3 then side.x.sweep else none }
    seqs := Vector.ofFn (fun (q : Fin 4) =>
      let pc := BitVec.ofNat 64 (recField r (0x1400 + 8 * q.val) 8)
      if side.seqs[q].pc = pc then side.seqs[q] else side.seqs[q].enter pc)
    inflight := []
    lateWrites := recLate r side.lateWrites
    handRecs := recHands r
    causes := if (recField r 0x1432 1).testBit 2 then
        ⟨BitVec.ofNat 8 (recField r 0x1438 1), BitVec.ofNat 64 (recField r 0x2190 8),
          (side.causes.head?.map (·.arose)).getD 0, (side.causes.head?.map (·.due)).getD 0⟩ :: side.causes.tail
      else []
    task := { side.task with origin := BitVec.ofNat 32 (recField r 0x1434 4) }
    withdrawn := (recField r 0x1432 1).testBit 0 }

/-- The set of labels, gate and counters that travels with a swap (R340) is that of `y` in `x`. The queue whose CAPSTART and
CAPSTOP reach the gate stays the context's own (R338). -/
def Ctx.takeSet (x y : Ctx) : Ctx :=
  { x with
    labels := y.labels, lovf := y.lovf, lmis := y.lmis, gate := y.gate
    issued := y.issued, nrMem := y.nrMem, nrMsg := y.nrMsg, instr := y.instr }

/-- The address of a context cache entry's record (R320). -/
def entryPA (n : NibId) (e : Fin 8) : Nat := wellPA n (0x4C000 + recordSize * e.val)

namespace State

/-- The context that an entry holds, as its record's bytes stand (R318, R320). -/
def entryCtx (s : State) (n : NibId) (e : Fin 8) : Ctx :=
  Ctx.ofRecord (Memory.read s.mem (entryPA n e) recordSize) (s.nib n).entries[e].ctx

/-- Writes a context to an entry: the record's bytes, with `tip` as its stroke read it, and what stands beside them (R321,
R323). -/
def putEntry (s : State) (n : NibId) (e : Fin 8) (c : Ctx) (stopped : Bool) (tip : Word) : State :=
  let s := s.modNib n (fun b => { b with entries := b.entries.set e { b.entries[e] with valid := true, ctx := c } })
  { s with mem := Memory.write s.mem (entryPA n e) recordSize (c.record stopped tip) }

/-- The record of an entry is debug-stopped (R317, FLAGS bit 1). -/
def entryStopped (s : State) (n : NibId) (e : Fin 8) : Bool := (Memory.get s.mem (entryPA n e + 0x1432)).getLsbD 1

/-- Changes the context that stands in an entry (R323). The message and timer bits of its `tip` are as it left its stroke. -/
def modEntry (s : State) (n : NibId) (e : Fin 8) (f : Ctx → Ctx) : State :=
  let c := f (s.entryCtx n e)
  s.putEntry n e c (s.entryStopped n e) ((BitVec.ofNat 64 (Memory.read s.mem (entryPA n e + 0x17A0) 8) &&& 0xA0) ||| c.c.tip)

/-- The context `cid` of nib n stands in this stroke. -/
def hasCid (s : State) (n : NibId) (k : Fin 8) (cid : Nat) : Bool :=
  (s.stroke n k).status != .vacant && (s.stroke n k).ctx.cid == cid

/-- Changes the context `cid` of nib n, in its stroke or in its cache entry: never both, and never lost (R323). -/
def modCid (s : State) (n : NibId) (cid : Nat) (f : Ctx → Ctx) : State :=
  match (List.finRange 8).find? (fun k => s.hasCid n k cid) with
  | some k => s.modCtxAt n k f
  | none =>
    match (List.finRange 8).find? (fun e => (s.nib n).entries[e].valid && (s.nib n).entries[e].ctx.cid == cid) with
    | some e => s.modEntry n e f
    | none => s

/-- The contexts of a nib: those of its strokes and of its cache entries. -/
def contexts (s : State) (n : NibId) : List Ctx :=
  ((List.finRange 8).filter (fun k => (s.stroke n k).status != .vacant)).map (fun k => (s.stroke n k).ctx) ++
  ((List.finRange 8).filter (fun e => (s.nib n).entries[e].valid)).map (s.entryCtx n)

/-- The context `cid` of nib n, in its stroke or its cache entry. -/
def findCid (s : State) (n : NibId) (cid : Nat) : Option Ctx :=
  match (List.finRange 8).find? (fun k => s.hasCid n k cid) with
  | some k => some (s.stroke n k).ctx
  | none =>
    ((List.finRange 8).find? (fun e => (s.nib n).entries[e].valid && (s.nib n).entries[e].ctx.cid == cid)).map
      (s.entryCtx n)

end State

end Sys2Proof.Machine
end

