-- ==== Sys2Proof/Machine/Csr.lean ====
section
/-! DEFINITION. Sys2Proof/Machine/Csr.lean: reading and writing the control and status registers (12_system.md R307 to
R312, R320, R327, R328, and the rules that lay out each CSR). -/

namespace Sys2Proof.Machine

open Sys2Proof

/-- The mode may read the CSR (R308, column "Read in"). -/
def CsrId.readable (c : CsrId) (m : Mode) : Bool :=
  m != .t ||
    (match c with
    | .rngctr | .rngseed | .rngsid | .fpev | .vrb | .spctl | .mfault | .rpolicy | .tstatus | .xob | .ptroot | .devid => true
    | _ => false)

/-- The mode may write the CSR (R308, column "Written in"); no mode writes `lwstat`, `nturn` and `devid` (R1, R307). -/
def CsrId.writable (c : CsrId) (m : Mode) : Bool :=
  match c with
  | .lwstat | .nturn | .devid => false
  | .rngctr | .rngseed | .rngsid | .fpev | .vrb | .spctl | .mfault | .tstatus => true
  | _ => m != .t

/-- Every field of the CSR is RO or RZ on stroke position k (R307, R312): `tip` on every stroke but 7. -/
def CsrId.fixedOn (c : CsrId) (k : Fin 8) : Bool := c == .tip && k != 7

/-- `devid` of stepping A1 (R1, R2). -/
def devidValue : Word := 0x4E440D1611010000

/-- `tip` of stroke position k (R312): message from the mailbox; the other codes on stroke 7 only. -/
def Nib.tip (x : Nib) (k : Fin 8) : Word :=
  let st := x.strokes[k]
  let m : Nat := if st.mailbox.isEmpty then 0 else 2 ^ 7
  if k = 7 then
    BitVec.ofNat 64 (m + (if x.tmpend = 0 then 0 else 2 ^ 5)) ||| (st.ctx.c.tip &&& 0xA02)
  else BitVec.ofNat 64 m

/-- An entry is live while its context meets a condition of R320. -/
def Ctx.live (c : Ctx) (m : Matrix) : Bool :=
  c.r.seals.toList.any (·.pend != 0) || c.x.ax.any (!·.filled) || c.x.xw.any (!·.filled) ||
  m.stopped.any (·.cid == c.cid) || c.x.sweep.isSome || !c.causes.isEmpty

namespace State

/-- `ctxcfg` (R320): VALID, and LIVE of the contexts that the entries' records hold. -/
def ctxcfg (s : State) (n : NibId) : Word :=
  let b := s.nib n
  let valid := bitsOf 8 (fun i => b.entries[i % 8].valid)
  let live := bitsOf 8 (fun i => b.entries[i % 8].valid && (s.entryCtx n (Fin.ofNat 8 i)).live b.matrix)
  BitVec.ofNat 64 ((if b.ctxEn then 1 else 0) + valid * 256 + live * 65536)

/-- A CSR of the issuing stroke as it stands (R307 to R310, R320, R327). -/
def csrRead (s : State) (c : CsrId) : Word :=
  let x := s.ctx.c
  match c with
  | .rngctr => x.rngctr
  | .rngseed => x.rngseed
  | .rngsid => x.rngsid
  | .fpev => x.fpev
  | .vrb => x.vrb.setWidth 64
  | .spctl => x.spctl
  | .mfault => x.mfault
  | .rpolicy => x.rpolicy
  | .tvec => x.tvec
  | .tstatus => setBits x.tstatus 2 2 s.turn.mode.code
  | .tscratch => x.tscratch
  | .tcause => x.tcause
  | .tval => x.tval
  | .tseq => x.tseq
  | .tpc q => x.tpc[q]
  | .tie => x.tie
  | .tip => s.cnib.tip s.cur.k
  | .lwstat => s.ctx.lwstat
  | .xob => x.xob
  | .ptroot => x.ptroot
  | .ctxcfg => s.ctxcfg s.cur.nib
  | .nturn => BitVec.ofNat 64 s.tn
  | .tmpend => s.cnib.tmpend.setWidth 64
  | .nksig => 0
  | .devid => devidValue

end State

/-- Writing 1 to `mfault.ABORT` abandons the stopped command of the context: it ends without further access, and the
commands held behind it return to the queue (R243, R245). -/
def Matrix.abort (m : Matrix) (cid : Nat) : Matrix :=
  let mine := m.stopped.filter (·.cid == cid)
  { m with
    stopped := m.stopped.filter (·.cid != cid)
    draining := m.draining ++ mine.map (fun c => { c with done := true, rows := [] })
    queue := m.held.filter (·.cid == cid) ++ m.queue
    held := m.held.filter (·.cid != cid) }

/-- `mresume` moves the stopped command of the context back to the head of the queue, with the commands held behind it
(R245). -/
def Matrix.resume (m : Matrix) (cid : Nat) : Matrix :=
  { m with
    queue := m.stopped.filter (·.cid == cid) ++ m.held.filter (·.cid == cid) ++ m.queue
    stopped := m.stopped.filter (·.cid != cid)
    held := m.held.filter (·.cid != cid) }

/-- `mfault.STOPPED` (R243). -/
def Csrs.stopped (c : Csrs) : Bool := c.mfault.getLsbD 0

/-- The bits of `tmpend`, and of `tip` of stroke 7, that the device has set in cycle c: they stand over a CSR write that
takes force in it (R307). -/
def Nib.firedIn (b : Nib) (c : Nat) : BitVec 8 := if b.firedAt.1 = c then b.firedAt.2 else 0
def Nib.setIn (b : Nib) (c : Nat) : Word := if b.tipAt.1 = c then b.tipAt.2 else 0

namespace State

/-- Sets the software interrupt of the nib's stroke 7 (R312, R328): bit `code` of `tip`. -/
def setTip (s : State) (n : NibId) (code : Nat) : State :=
  let s := s.modNib n (fun b => { b with tipAt := (s.cycle, (b.setIn s.cycle) ||| BitVec.twoPow 64 code) })
  s.modCtxAt n 7 (fun c => { c with c := { c.c with tip := c.c.tip ||| BitVec.twoPow 64 code } })

/-- A CSR write of stroke k of nib n takes force (R307, R320, R327, R328, R245). -/
def csrWrite (s : State) (n : NibId) (k : Fin 8) (num : BitVec 12) (op : Fin 4) (x : Word) (task : Bool) : State :=
  match CsrId.ofNum num with
  | none => s
  | some .mfault =>
    let c := (s.stroke n k).ctx
    if (csrCombine op 0 x).getLsbD 1 && c.c.stopped then
      let s := s.modNib n (fun b => { b with matrix := b.matrix.abort c.cid })
      let s := s.modCtxAt n k (fun c => { c with c := { c.c with mfault := c.c.mfault &&& ~~~ 1 } })
      (s.schedule s.cycle (.mfaultAbort n k)).schedule s.cycle (.matrixDispatch n)
    else s
  | some .ctxcfg =>
    s.modNib n (fun b =>
      if b.entries.toList.any (·.valid) then b
      else { b with ctxEn := (csrCombine op (if b.ctxEn then 1 else 0) x).getLsbD 0 })
  | some .tmpend =>
    s.modNib n (fun b => { b with tmpend := (b.tmpend &&& ~~~ (csrClears op x).setWidth 8) ||| b.firedIn s.cycle })
  | some .nksig => if (csrCombine op 0 x).getLsbD 0 then s.setTip n 1 else s
  | some .tip =>
    if k = 7 then
      s.modCtxAt n k (fun c =>
        let w := c.c.write .tip op (x &&& 0xA02) task
        { c with c := { w with tip := w.tip ||| ((s.nib n).setIn s.cycle) } })
    else s
  | some id => s.modCtxAt n k (fun c => { c with c := c.c.write id op x task })

end State

/-! ## The CSR instructions (R307) -/

/-- A write to a CSR: an absent number, a mode that may not write it, or a CSR that is all RO and RZ on the stroke traps
ILLEGAL ahead of the register checks. -/
def State.csrIssue (s : State) (op : Fin 4) (a : Fin 32) (c : BitVec 12) : Res :=
  match CsrId.ofNum c with
  | none => .next s.illegal
  | some id =>
    if id.writable s.turn.mode && !id.fixedOn s.cur.k then
      s.simple [.g a] [] (fun s => s.land 1 (.csr op c (s.rg a) (s.turn.mode == .t)))
    else .next s.illegal

def execCsrr (d : Fin 32) (c : BitVec 12) (s : State) : Res :=
  match CsrId.ofNum c with
  | none => .next s.illegal
  | some id =>
    if id.readable s.turn.mode then s.simple [] [.g d] (fun s => s.landG 1 d (s.csrRead id))
    else .next s.illegal

def execCsrw (a : Fin 32) (c : BitVec 12) (s : State) : Res := s.csrIssue 1 a c
def execCsrs (a : Fin 32) (c : BitVec 12) (s : State) : Res := s.csrIssue 2 a c
def execCsrc (a : Fin 32) (c : BitVec 12) (s : State) : Res := s.csrIssue 3 a c

end Sys2Proof.Machine
end

