-- ==== Sys2Proof/Machine/Translate.lean ====
section
/-! DEFINITION. Sys2Proof/Machine/Translate.lean: physical addresses and their units, partitions, the page walk, TLBs,
publish regions, and the checks of a memory access (06_memory.md R139 to R149, R162 to R173; 07_ordering.md R190, R191). -/

namespace Sys2Proof.Machine

open Sys2Proof

def causeLOADPF : BitVec 8 := 0x0F
def causeSTOREPF : BitVec 8 := 0x10
def causeBLKNRDY : BitVec 8 := 0x0D
def causeDETVIOL : BitVec 8 := 0x17

/-! ## Units of the physical map (R140), partitions -/

/-- Data of the unit may be copied into a data cache, HOME 01 apart (R182). -/
def MapUnit.cached : MapUnit → Bool
  | .hbm _ | .slice _ _ => true
  | _ => false

/-- The 52 significant bits of a virtual address agree above bit 51 (R139). -/
def canonical (va : Word) : Bool := va.toNat / 2 ^ 51 = 0 || va.toNat / 2 ^ 51 = 2 ^ 13 - 1

namespace State

/-- The partition exists and holds the folio (R26). -/
def partHas (s : State) (p f : Fin 16) : Bool := s.parts[p].vf != 0 && s.parts[p].folios.getLsbD f.val

/-- The partition of a folio (R26). -/
def partOfFolio (s : State) (f : Fin 16) : Option (Fin 16) := (List.finRange 16).find? (fun p => s.partHas p f)

/-- The partition of a nib. A nib outside every partition counts as one of partition 0 (DESIGN CHOICE, assumption 42). -/
def partOf (s : State) (n : NibId) : Fin 16 := (s.partOfFolio (folioOf n)).getD 0

/-- Bytes of each slice of a folio that are pinned storage (R141, R358). -/
def pinEnd (s : State) (f : Fin 16) : Nat :=
  match s.partOfFolio f with
  | some p => s.parts[p].pinlim * 0x10000
  | none => 0

/-- The control-register blocks that a stroke of partition p reaches (R142, R169, R333, R363, R372). -/
def controlReach (s : State) (p : Fin 16) (pa : Nat) : Bool :=
  let o := pa - 0xF000000000
  o < 0x1000 || (0x200000 ≤ o && o < 0x201000) || (0x100000 + p.val * 0x1000 ≤ o && o < 0x101000 + p.val * 0x1000) ||
    (0x1000000 ≤ o && o < 0x5000000 && s.partHas p (folioOf (Fin.ofNat 65536 ((o - 0x1000000) / 0x400))))

/-- The access to `pa` is refused (R142, R320, R384). `priv` says that the stroke runs in mode K or D, `scalar` that the
access is a scalar load or store. -/
def refused (s : State) (p : Fin 16) (priv scalar : Bool) (pa : Nat) : Bool :=
  match unitOf pa with
  | .none => true
  | .control => !(priv && scalar && s.controlReach p pa)
  | .well n off => 0x60000 ≤ off || !s.partHas p (folioOf n) || (!priv && s.inRecords n off)
  | .slice i off => s.pinEnd (Fin.ofNat 16 (i / 16)) ≤ off || !s.partHas p (Fin.ofNat 16 (i / 16))
  | .hbm f => !s.partHas p f

/-- The same for an access of nib n (R139): its own well is never outside its partition. -/
def refusedOf (s : State) (n : NibId) (priv scalar : Bool) (pa : Nat) : Bool :=
  match unitOf pa with
  | .well m off => if m = n then 0x60000 ≤ off || (!priv && s.inRecords n off) else s.refused (s.partOf n) priv scalar pa
  | _ => s.refused (s.partOf n) priv scalar pa

end State

/-! ## The walk (R163 to R167) -/

/-- What a translation comes to. -/
inductive Walk where
  /-- The PA, the base of the page, and what its leaf says: HOME and W. -/
  | ok (pa : Nat) (big : Bool) (frame : BitVec 32) (home : BitVec 2) (w : Bool)
  | precise
  | replay
deriving DecidableEq, Repr

/-- The leaf's HOME check (R167) on the page at `pa`. -/
def homeOk (home homeId pa : Nat) : Bool :=
  match unitOf pa with
  | .hbm _ => home ≤ 1 && homeId = 0
  | .well n off => home = 2 && off < 0x60000 && homeId = n.val
  | .slice i _ => home = 3 && homeId = i
  | _ => false

namespace State

/-- A table frame that the walker of partition p may read (R166). -/
def tableOk (s : State) (p : Fin 16) (frame : Nat) : Bool :=
  match unitOf (frame * 0x10000) with
  | .hbm f => s.partHas p f
  | _ => false

/-- The walk from the table at `frame`, at `level` 3, 2 or 1 (R163, R165, R166). -/
def walkFrom (s : State) (p : Fin 16) (va : Nat) (store : Bool) (frame : Nat) : Nat → Walk
  | 0 => .precise
  | level + 1 =>
    if !s.tableOk p frame then .precise
    else
      let idx := va / 2 ^ (16 + 12 * level) % 4096
      let e := Memory.read s.mem (frame * 0x10000 + 8 * idx) 8
      let v := e % 2 = 1
      let r := e / 2 % 2 = 1
      let w := e / 4 % 2 = 1
      let home := e / 16 % 4
      let next := e / 2 ^ 16 % 2 ^ 32
      let homeId := e / 2 ^ 48
      if !v then (if r then .replay else .precise)
      else if e / 64 % 2 ^ 10 ≠ 0 || e / 8 % 2 ≠ 0 then .precise
      else if !r then
        (if !w && level ≠ 0 && home = 0 && homeId = 0 then s.walkFrom p va store next level else .precise)
      else if level = 2 then .precise
      else if level = 1 && (next % 4096 ≠ 0 || 2 ≤ home) then .precise
      else
        let pa := next * 0x10000 + va % 2 ^ (16 + 12 * level)
        if !homeOk home homeId (next * 0x10000) then .precise
        else if store && !w then .precise
        else .ok pa (level = 1) (BitVec.ofNat 32 next) (BitVec.ofNat 2 home) w

/-- The walk of a VA outside the local window from a `ptroot` value (R163). -/
def walk (s : State) (p : Fin 16) (root : Word) (va : Word) (store : Bool) : Walk :=
  s.walkFrom p (va.toNat % 2 ^ 52) store (root.toNat / 2 ^ 16 % 2 ^ 32) 3

/-- The ASID of a `ptroot` value (R162). -/
def asidOf (root : Word) : BitVec 16 := root.extractLsb' 48 16

/-! ## Publish regions (R190, R191) -/

/-- The first byte of a publish region. -/
def Pub.base (e : Pub) : Nat := e.va.toNat * 0x10000

/-- The enabled publish entry whose region holds `va` in address space `asid` (R191). -/
def pubEntry (s : State) (p : Fin 16) (asid : BitVec 16) (va : Word) : Option Pub :=
  s.parts[p].pubs.toList.find? (fun e =>
    e.en && e.asid == asid && Pub.base e ≤ va.toNat && va.toNat < Pub.base e + e.pages.toNat * 0x10000)

/-- SEL as it stood at time t: each flip since then is undone (R191, R192). -/
def Pub.selAt (e : Pub) (t : Clk) : Bool := e.sel != ((e.flips.filter (fun x => !Clk.le x t)).length % 2 == 1)

/-- The PA of `va` in a backing: the front, or for an engine's write the shadow (R191). -/
def pubPA (e : Pub) (va : Word) (shadow : Bool) : Nat :=
  let f := if e.sel == shadow then e.back0 else e.back1
  f.toNat * 0x10000 + (va.toNat - Pub.base e)

/-! ## TLBs (R148, R168) -/

/-- The page number of a VA in a TLB entry. -/
def TlbEntry.hits (t : TlbEntry) (asid : BitVec 16) (va : Word) : Bool :=
  t.asid == asid && t.page == va.toNat % 2 ^ 52 / (if t.big then 2 ^ 28 else 2 ^ 16)

/-- The PA that a TLB entry gives. -/
def TlbEntry.pa (t : TlbEntry) (va : Word) : Nat :=
  t.frame.toNat * 0x10000 + va.toNat % (if t.big then 2 ^ 28 else 2 ^ 16)

/-- The TLB entry of a walk's answer. -/
def tlbOf (asid : BitVec 16) (va : Word) (big : Bool) (frame : BitVec 32) (home : BitVec 2) (w : Bool) : TlbEntry :=
  ⟨asid, va.toNat % 2 ^ 52 / (if big then 2 ^ 28 else 2 ^ 16), big, frame, home, w⟩

/-- What a look-up comes to for an instruction: the PA and whether the page may be cached; a miss; or a fault. -/
inductive Look where
  | hit (pa : Nat) (cache : Bool)
  | miss
  | precise
  | replay
deriving DecidableEq, Repr

/-- A TLB entry decides an access: its W bit, and its HOME (R165, R182). -/
def TlbEntry.look (t : TlbEntry) (va : Word) (store : Bool) : Look :=
  if store && !t.w then .precise else .hit (TlbEntry.pa t va) (t.home == 0 || t.home == 3)

/-- The answer of a finished TLB fill that ended in a fault, for the sequencer that waits for it (R148). -/
def fillAnswer (s : State) (va : Word) : Option Op :=
  s.ops.find? (fun o => o.performed && o.nib == s.cur.nib && o.cid == s.ctx.cid && o.seq == s.cur.q &&
    (match o.kind with
    | .tlbFill _ v _ => v.toNat / 0x10000 == va.toNat / 0x10000
    | _ => false))

/-- The look-up of `va` by the issuing sequencer (R139, R148, R191). -/
def look (s : State) (va : Word) (store : Bool) : Look :=
  if va.toNat < windowEnd then .hit (wellPA s.cur.nib va.toNat) false
  else
    let root := s.ctx.c.ptroot
    match s.pubEntry (s.partOf s.cur.nib) (asidOf root) va with
    | some e => let pa := pubPA e va false; .hit pa (unitOf pa).cached
    | none =>
      match s.fillAnswer va with
      | some o => if (o.fail.map (·.1)) = some 0 then .replay else .precise
      | none =>
        match s.cnib.tlb.find? (fun t => TlbEntry.hits t (asidOf root) va) with
        | some t => TlbEntry.look t va store
        | none => .miss

/-- The look-up of `va` by an engine of nib n (R166, R170, R191): the TLBs, and else the walk. `shadow` names the backing of a
publish region that the access reaches. -/
def engineLook (s : State) (n : NibId) (root : Word) (va : Word) (write shadow : Bool) : Look :=
  if va.toNat < windowEnd then .hit (wellPA n va.toNat) false
  else if !canonical va then .precise
  else
    let p := s.partOf n
    match s.pubEntry p (asidOf root) va with
    | some e => let pa := pubPA e va shadow; .hit pa (unitOf pa).cached
    | none =>
      match ((s.nib n).tlb ++ s.folios[folioOf n].tlb).find? (fun t => TlbEntry.hits t (asidOf root) va) with
      | some t => TlbEntry.look t va write
      | none =>
        match s.walk p root va write with
        | .ok pa _ _ home _ => .hit pa (home == 0 || home == 3)
        | .precise => .precise
        | .replay => .replay

/-! ## The checks of an access (R146, R147) -/

/-- A range that an instruction accesses: its EA, size and alignment, its form, and the kind of access. -/
structure Acc where
  ea : Word
  size : Nat
  align : Nat
  store : Bool
  long : Bool
  /-- A plain scalar load or store, which may reach control registers (R384). -/
  scalar : Bool
  /-- Must address a well (R154). -/
  sync : Bool
  atomic : Bool
deriving DecidableEq, Repr

def Acc.accCause (a : Acc) : BitVec 8 := if a.store then causeSTOREACC else causeLOADACC

/-- The pieces of a range: each lies in one 64-byte cell. `at_` counts bytes of the access. -/
def cellPieces (va : Word) (at_ : Nat) (n : Nat) : Nat → List Range
  | 0 => []
  | fuel + 1 =>
    if n = 0 then []
    else
      let k := min n (64 - va.toNat % 64)
      ⟨va, 0, k, false, at_⟩ :: cellPieces (va + BitVec.ofNat 64 k) (at_ + k) (n - k) fuel

/-- The pieces of an access, whose data begin at byte `at_`. -/
def Acc.pieces (a : Acc) (at_ : Nat) : List Range := cellPieces a.ea at_ a.size (a.size / 64 + 2)

/-- Checks 2 to 5 of R147, which need no translation. -/
def checkEarly (s : State) (a : Acc) : Option (BitVec 8 × Word) :=
  if !a.long && !inWindow a.ea a.size then some (causeLOCALITY, a.ea)
  else if a.ea.toNat % a.align ≠ 0 then some (if a.store then causeSTOREALIGN else causeLOADALIGN, a.ea)
  else if (Acc.pieces a 0).any (fun r => windowEnd ≤ r.va.toNat && !canonical r.va) then some (Acc.accCause a, a.ea)
  else if (Acc.pieces a 0).any (fun r => windowEnd ≤ r.va.toNat) && !s.ctx.c.ptroot.getLsbD 0 then
    some (Acc.accCause a, a.ea)
  else none

/-- What the later checks of an access come to. -/
inductive Late where
  | ok (rs : List Range)
  | trap (c : BitVec 8) (v : Word)
  | miss (va : Word)
  | replay (va : Word)
deriving DecidableEq, Repr

/-- Translates the pieces of an access, the lower page first (R147, checks 6 and 7). -/
def lookAll (s : State) (a : Acc) : List Range → List Range → Late
  | [], acc => .ok acc.reverse
  | r :: rs, acc =>
    match s.look r.va a.store with
    | .hit pa c => s.lookAll a rs ({ r with pa := pa, cache := c } :: acc)
    | .miss => .miss r.va
    | .precise => .trap (if a.store then causeSTOREPF else causeLOADPF) a.ea
    | .replay => .replay r.va

/-- The range meets a block of the nib that is filling or draining (R147, check 9). -/
def blockBusy (s : State) (n : NibId) (off size : Nat) : Bool :=
  (s.nib n).blocks.any (fun b => b.state != 2 && b.addr < off + size && off < b.addr + 256 * b.lines)

/-- The offset in the issuing nib's well that a PA names. -/
def ownWell (s : State) (pa : Nat) : Option Nat :=
  match unitOf pa with
  | .well n off => if n = s.cur.nib then some off else none
  | _ => none

/-- Checks 6 to 9 of R147, with the rule of R154 that a synchronising access must address a well. -/
def checkLate (s : State) (a : Acc) (at_ : Nat) : Late :=
  match s.lookAll a (Acc.pieces a at_) [] with
  | .ok rs =>
    let priv := s.turn.mode != .t
    if rs.any (fun r => s.refusedOf s.cur.nib priv a.scalar r.pa ||
        (a.sync && !(match unitOf r.pa with | .well _ _ => true | _ => false))) then
      .trap (Acc.accCause a) a.ea
    else if rs.any (fun r => match s.ownWell r.pa with
        | some off => s.blockBusy s.cur.nib off r.size
        | none => false) then .trap causeBLKNRDY a.ea
    else .ok rs
  | x => x

/-- A range of the pieces is locked by another stroke of this nib (R329). -/
def lockedPieces (s : State) (rs : List Range) : Bool :=
  rs.any (fun r => match s.ownWell r.pa with
    | some off => s.lockedOut off r.size
    | none => false)

/-- Checks the ranges of an access in order, all checks on one before the next (R147). A wait that a later range's early
check would forestall gives way to that trap (R118). -/
def checkAll (s : State) : List (Acc × Nat) → List Range → Late
  | [], acc => .ok acc
  | (a, i) :: r, acc =>
    match s.checkEarly a with
    | some (c, v) => .trap c v
    | none =>
      match s.checkLate a i with
      | .ok rs => s.checkAll r (acc ++ rs)
      | .miss va =>
        match r.findSome? (fun x => s.checkEarly x.1) with
        | some (c, v) => .trap c v
        | none => .miss va
      | x => x

end State

end Sys2Proof.Machine
end

