-- ==== Sys2Proof/Machine/Memory.lean ====
section
/-! DEFINITION. Sys2Proof/Machine/Memory.lean: the loads, stores, gathers, scatters, synchronising accesses and atomics of
A and W (06_memory.md R143 to R157). The local forms act here; the long forms become operations in flight, whose
accesses are performed by HOME_READ and HOME_WRITE and land by LONG_ACCESS_COMPLETE. -/

namespace Sys2Proof.Machine

open Sys2Proof

namespace State

/-! ## Operations in flight -/

/-- The first cycle of turn t + `n` of the issuing stroke (R11). -/
def turnCycle (s : State) (n : Nat) : Nat := (s.tn + n) * 8 + s.cur.k.val

/-- A new operation of the issuing sequencer (R143, R177). -/
def newOp (s : State) (sl : Fin 16) (kind : OpKind) : Nat × State :=
  let (id, s) := s.newId
  (id, { s with ops := s.ops ++ [⟨id, s.cur.nib, s.ctx.cid, s.cur.q, sl, kind, s.cur.k, s.turnCycle 2, false, false,
    s.lc, s.lc, none⟩] })

def modOp (s : State) (id : Nat) (f : Op → Op) : State :=
  { s with ops := s.ops.map (fun o => if o.id = id then f o else o) }

def dropOp (s : State) (id : Nat) : State := { s with ops := s.ops.filter (·.id != id) }

def findOp (s : State) (id : Nat) : Option Op := s.ops.find? (·.id == id)

/-- A register becomes pending at the end of the issue turn (R60). -/
def pendReg (s : State) (r : RegRef) : State := s.land 1 (.pend r)

/-- PEND of the seal rises at the end of the issue turn (R130). -/
def pendSeal (s : State) (sl : Fin 16) : State := s.land 1 (.sealPend sl)

/-- The seal can take no further operation (R117), as the turn began: where several sequencers issue on it in a turn that
begins with PEND at 4,094, PEND counts modulo 2^12 (DESIGN CHOICE, assumption 63). -/
def sealFull (s : State) (sl : Fin 16) : Bool := sl != 0 && (s.seal_ sl).pend == BitVec.allOnes 12

/-- `tstatus.DET` (R309). -/
def deterministic (s : State) : Bool := getBits s.ctx.c.tstatus 15 1 = 1

/-! ## Translation misses and parks (R148, R149) -/

/-- Discards the answers of finished fills of the issuing sequencer. -/
def dropAnswers (s : State) : State :=
  { s with ops := s.ops.filter (fun o => !(o.performed && o.nib == s.cur.nib && o.cid == s.ctx.cid && o.seq == s.cur.q &&
      (match o.kind with | .tlbFill _ _ _ => true | _ => false))) }

/-- The issuing sequencer waits while the translation of a page is fetched (R148). -/
def startFill (s : State) (va : Word) (code : Fin 4) : State :=
  let asked := s.ops.any (fun o => !o.performed && !o.parked && o.nib == s.cur.nib && o.cid == s.ctx.cid && o.seq == s.cur.q &&
    (match o.kind with | .tlbFill _ v _ => v.toNat / 0x10000 == va.toNat / 0x10000 | _ => false))
  if asked then s.waitMem
  else
    let (id, s) := s.newOp 0 (.tlbFill (asidOf s.ctx.c.ptroot) va code)
    let (c, s) := s.freeCycle (s.cycle + 1) none
    (s.schedule c (.tlbFill s.cur.nib id)).waitMem

/-- The stroke parks at the end of the turn on a replayable fault (R149); the request is parked with it (R171). -/
def parkReplay (s : State) (va : Word) (code : Fin 4) : State :=
  let (id, s) := s.newOp 0 (.tlbFill (asidOf s.ctx.c.ptroot) va code)
  let s := s.modOp id (fun o => { o with parked := true })
  { s with turn := { s.turn with park := s.turn.park ++ [(.replay id, s.cur.q)] } }

/-! ## Issuing an access -/

/-- What an instruction brings to `access`. -/
structure Plan where
  accs : List (Acc × Nat)
  sl : Fin 16
  /-- The vector queue is full, or empty (R117). -/
  queueWait : Bool
  /-- For a fault record: 0 load, 1 store, 2 atomic (R173). -/
  code : Fin 4

/-- The access of an instruction whose register checks have passed, up to the point at which it acts (R118, R147 to
R149, R329): `act` gets the pieces of the access. -/
def access (s : State) (p : Plan) (act : State → List Range → State) : State :=
  if p.queueWait || s.sealFull p.sl then
    match p.accs.findSome? (fun x => s.checkEarly x.1) with
    | some (c, v) => s.raise c v
    | none => if p.queueWait then s.waitMsg else s
  else
    let r := s.checkAll p.accs []
    let s := s.dropAnswers
    match r with
    | .trap c v => s.raise c v
    | .miss va => s.startFill va p.code
    | .replay va => s.parkReplay va p.code
    | .ok rs => if s.lockedPieces rs then s.waitMsg else act s rs

/-- Reads the pieces of a local-form access, in address order (R143, R183). -/
def localGather (s : State) : List Range → Nat → Nat × State
  | [], x => (x, s)
  | r :: rs, x =>
    let (v, s) := s.localLoad r.va.toNat r.size
    s.localGather rs (x + v * 2 ^ (8 * r.at_))

/-- Writes the pieces of a local-form access, lane by lane (R143, R152). -/
def localScatter (s : State) (x : Nat) : List Range → State
  | [] => s
  | r :: rs => (s.localStore r.va.toNat r.size (x / 2 ^ (8 * r.at_))).localScatter x rs

/-- Issues a long-form access (R143): it is performed never before turn t+2, and posts its seal. -/
def issueLong (s : State) (sl : Fin 16) (use : Use) (rs : List Range) (data : Nat) (write : Bool) : State :=
  let (id, s) := s.newOp sl (.access use rs data false)
  let (c, s) := s.freeCycle (s.turnCycle 2) none
  (s.schedule c (if write then .homeWrite id else .homeRead id)).pendSeal sl

/-- The value that a load of `size` bytes gives a g register (R150). -/
def loadValue (size : Nat) (sgn : Bool) (x : Nat) : Word := if sgn then sx (8 * size) x else zx (8 * size) x

/-! ## Loads and stores (R150) -/

/-- A scalar load (R150). -/
def loadScalar (s : State) (d a : Fin 32) (m : Fin 4) (sl : Fin 16) (i : BitVec 10) (size : Nat) (sgn : Bool) : Res :=
  s.guarded (eaSrcs a m i) ([.g d] ++ eaDsts a m) (sl != 0) (fun s =>
    let acc : Acc := ⟨s.ea a m i size, size, size, false, sl != 0, true, false, false⟩
    s.access ⟨[(acc, 0)], sl, false, 0⟩ (fun s rs =>
      if sl = 0 then
        let (x, s) := s.localGather rs 0
        ((s.landG 2 d (loadValue size sgn x)).postInc a m i size).retire
      else
        let s := (s.postInc a m i size).issueLong sl (.loadG d size sgn) rs 0 false
        (s.pendReg (.g d)).retire))

/-- A scalar store (R150). -/
def storeScalar (s : State) (d a : Fin 32) (m : Fin 4) (sl : Fin 16) (i : BitVec 10) (size : Nat) : Res :=
  s.guarded (.g d :: eaSrcs a m i) (eaDsts a m) (sl != 0) (fun s =>
    let acc : Acc := ⟨s.ea a m i size, size, size, true, sl != 0, true, false, false⟩
    let x := (s.rg d).toNat % 2 ^ (8 * size)
    s.access ⟨[(acc, 0)], sl, false, 1⟩ (fun s rs =>
      if sl = 0 then ((s.postInc a m i size).localScatter x rs).retire
      else ((s.postInc a m i size).issueLong sl .store rs x true).retire))

/-- The vector access of an F-M instruction: 128 bytes, 64-byte aligned (R146). -/
def vecAcc (s : State) (a : Fin 32) (m : Fin 4) (sl : Fin 16) (i : BitVec 10) (store : Bool) : Acc :=
  ⟨s.ea a m i 128, 128, 64, store, sl != 0, false, false, false⟩

/-- The A→X queue has no free slot for another queue load (R117, R128). -/
def axFull (s : State) : Bool := 4 ≤ s.ctx.x.ax.length

/-- The X→W queue has no filled head (R117). -/
def xwHead (s : State) : Option VQEntry := s.ctx.x.xw.head?.filter (·.filled)

/-- Reserves a slot of the A→X queue for a load that fills it at t+2 (R128). -/
def fillLocal (s : State) (x : Nat) : State :=
  let (id, s) := s.newId
  (s.land 1 (.vqReserve id)).land 2 (.vqFill id (BitVec.ofNat 1024 x) s.lc)

/-- Issues a long-form queue load: the operation names the slot (R128). -/
def issueLongQ (s : State) (sl : Fin 16) (rs : List Range) : State :=
  let id := s.nextId
  (s.issueLong sl .loadQ rs 0 false).land 1 (.vqReserve id)

/-- Takes the head of the X→W queue as store data: the slot is freed at t+1, and W's clock takes the entry's (R128,
R187). -/
def takeXw (s : State) (e : VQEntry) : State := (s.setLc (Clk.max s.lc e.clk)).land 1 (.vqPop .xw)

end State

def execLdB (d a : Fin 32) (m : Fin 4) (sl : Fin 16) (i : BitVec 10) (s : State) : Res := s.loadScalar d a m sl i 1 true
def execLdH (d a : Fin 32) (m : Fin 4) (sl : Fin 16) (i : BitVec 10) (s : State) : Res := s.loadScalar d a m sl i 2 true
def execLdW (d a : Fin 32) (m : Fin 4) (sl : Fin 16) (i : BitVec 10) (s : State) : Res := s.loadScalar d a m sl i 4 true
def execLdD (d a : Fin 32) (m : Fin 4) (sl : Fin 16) (i : BitVec 10) (s : State) : Res := s.loadScalar d a m sl i 8 false
def execLdBn (d a : Fin 32) (m : Fin 4) (sl : Fin 16) (i : BitVec 10) (s : State) : Res := s.loadScalar d a m sl i 1 false
def execLdHn (d a : Fin 32) (m : Fin 4) (sl : Fin 16) (i : BitVec 10) (s : State) : Res := s.loadScalar d a m sl i 2 false
def execLdWn (d a : Fin 32) (m : Fin 4) (sl : Fin 16) (i : BitVec 10) (s : State) : Res := s.loadScalar d a m sl i 4 false
def execStB (d a : Fin 32) (m : Fin 4) (sl : Fin 16) (i : BitVec 10) (s : State) : Res := s.storeScalar d a m sl i 1
def execStH (d a : Fin 32) (m : Fin 4) (sl : Fin 16) (i : BitVec 10) (s : State) : Res := s.storeScalar d a m sl i 2
def execStW (d a : Fin 32) (m : Fin 4) (sl : Fin 16) (i : BitVec 10) (s : State) : Res := s.storeScalar d a m sl i 4
def execStD (d a : Fin 32) (m : Fin 4) (sl : Fin 16) (i : BitVec 10) (s : State) : Res := s.storeScalar d a m sl i 8

def execLdV (d a : Fin 32) (m : Fin 4) (sl : Fin 16) (i : BitVec 10) (s : State) : Res :=
  s.guarded (State.eaSrcs a m i) ([.v (s.vphys d)] ++ State.eaDsts a m) (sl != 0) (fun s =>
    s.access ⟨[(s.vecAcc a m sl i false, 0)], sl, false, 0⟩ (fun s rs =>
      if sl = 0 then
        let (x, s) := s.localGather rs 0
        ((s.landV 2 d (BitVec.ofNat 1024 x)).postInc a m i 128).retire
      else
        let s := (s.postInc a m i 128).issueLong sl (.loadV (s.vphys d)) rs 0 false
        (s.pendReg (.v (s.vphys d))).retire))

def execLdQ (a : Fin 32) (m : Fin 4) (sl : Fin 16) (i : BitVec 10) (s : State) : Res :=
  s.guarded (State.eaSrcs a m i) (State.eaDsts a m) (sl != 0) (fun s =>
    s.access ⟨[(s.vecAcc a m sl i false, 0)], sl, s.axFull, 0⟩ (fun s rs =>
      if sl = 0 then
        let (x, s) := s.localGather rs 0
        ((s.fillLocal x).postInc a m i 128).retire
      else ((s.postInc a m i 128).issueLongQ sl rs).retire))

def execStV (d a : Fin 32) (m : Fin 4) (sl : Fin 16) (i : BitVec 10) (s : State) : Res :=
  s.guarded (.v (s.vphys d) :: State.eaSrcs a m i) (State.eaDsts a m) (sl != 0) (fun s =>
    s.access ⟨[(s.vecAcc a m sl i true, 0)], sl, false, 1⟩ (fun s rs =>
      let x := (s.rv d).toNat
      if sl = 0 then ((s.postInc a m i 128).localScatter x rs).retire
      else ((s.postInc a m i 128).issueLong sl .store rs x true).retire))

def execStQ (a : Fin 32) (m : Fin 4) (sl : Fin 16) (i : BitVec 10) (s : State) : Res :=
  s.guarded (State.eaSrcs a m i) (State.eaDsts a m) (sl != 0) (fun s =>
    s.access ⟨[(s.vecAcc a m sl i true, 0)], sl, s.xwHead.isNone, 1⟩ (fun s rs =>
      match s.xwHead with
      | none => s.waitMsg
      | some e =>
        let s := (s.postInc a m i 128).takeXw e
        if sl = 0 then (s.localScatter e.val.toNat rs).retire
        else (s.issueLong sl .store rs e.val.toNat true).retire))

/-! ## Gathers and scatters (R152) -/

/-- Lane j of size L is active under a predicate (R197). -/
def laneOn (p : Pred) (size j : Nat) : Bool := p.getLsbD (j * size)

/-- Lane j of `size` bytes of a vector register, unsigned (R196). -/
def laneOf (v : Vec) (size j : Nat) : Nat := v.toNat / 2 ^ (8 * size * j) % 2 ^ (8 * size)

namespace State

/-- The lane size of an element of e bytes (R152). -/
def gatherLane (e : Nat) : Nat := max e 4

/-- The accesses of the active lanes in increasing order, each with the byte of the vector at which its lane begins. -/
def laneAccs (s : State) (a b : Fin 32) (p : Fin 8) (e : Nat) (long store : Bool) : List (Acc × Nat) :=
  let l := gatherLane e
  ((List.range (128 / l)).filter (laneOn (s.rp p) l)).map (fun j =>
    (⟨s.rg a + sx (8 * l) (laneOf (s.rv b) l j), e, e, store, long, false, false, false⟩, j * l))

/-- The source registers of a gather or scatter (R61): p0 is never pending. -/
def laneSrcs (s : State) (a b : Fin 32) (p : Fin 8) : List RegRef := [.g a, .v (s.vphys b), .p p]

end State

def execLdgV (d a b : Fin 32) (p : Fin 8) (e : Fin 4) (sl : Fin 16) (s : State) : Res :=
  s.guarded (s.laneSrcs a b p) [.v (s.vphys d)] (sl != 0) (fun s =>
    s.access ⟨s.laneAccs a b p (2 ^ e.val) (sl != 0) false, sl, false, 0⟩ (fun s rs =>
      if sl = 0 then
        let (x, s) := s.localGather rs 0
        (s.landV 2 d (BitVec.ofNat 1024 x)).retire
      else ((s.issueLong sl (.loadV (s.vphys d)) rs 0 false).pendReg (.v (s.vphys d))).retire))

def execLdgQ (a b : Fin 32) (p : Fin 8) (e : Fin 4) (sl : Fin 16) (s : State) : Res :=
  s.guarded (s.laneSrcs a b p) [] (sl != 0) (fun s =>
    s.access ⟨s.laneAccs a b p (2 ^ e.val) (sl != 0) false, sl, s.axFull, 0⟩ (fun s rs =>
      if sl = 0 then
        let (x, s) := s.localGather rs 0
        (s.fillLocal x).retire
      else (s.issueLongQ sl rs).retire))

def execStsV (d a b : Fin 32) (p : Fin 8) (e : Fin 4) (sl : Fin 16) (s : State) : Res :=
  s.guarded (.v (s.vphys d) :: s.laneSrcs a b p) [] (sl != 0) (fun s =>
    s.access ⟨s.laneAccs a b p (2 ^ e.val) (sl != 0) true, sl, false, 1⟩ (fun s rs =>
      let x := (s.rv d).toNat
      if sl = 0 then (s.localScatter x rs).retire else (s.issueLong sl .store rs x true).retire))

def execStsQ (a b : Fin 32) (p : Fin 8) (e : Fin 4) (sl : Fin 16) (s : State) : Res :=
  s.guarded (s.laneSrcs a b p) [] (sl != 0) (fun s =>
    s.access ⟨s.laneAccs a b p (2 ^ e.val) (sl != 0) true, sl, s.xwHead.isNone, 1⟩ (fun s rs =>
      match s.xwHead with
      | none => s.waitMsg
      | some x =>
        let s := s.takeXw x
        if sl = 0 then (s.localScatter x.val.toNat rs).retire
        else (s.issueLong sl .store rs x.val.toNat true).retire))

/-! ## Full/empty bits (R153 to R156) -/

/-- Marks a word full or empty; the list stays rising. -/
def setFull (l : List Nat) (a : Nat) (b : Bool) : List Nat :=
  match l with
  | [] => if b then [a] else []
  | x :: r =>
    if a < x then (if b then a :: x :: r else x :: r)
    else if a = x then (if b then x :: r else r)
    else x :: setFull r a b

/-- The synchronising access of this kind can proceed at a word that is full or not (R154). -/
def syncReady (kind : Fin 4) (full : Bool) : Bool :=
  match kind.val with
  | 0 | 1 => full
  | 2 => !full
  | _ => true

namespace State

/-- The clock of the sequencer that issued an operation, and the same changed (R183). -/
def opLc (s : State) (o : Op) : Clk := ((s.findCid o.nib o.cid).map (fun c => c.seqs[o.seq.idx].lc)).getD o.lc

def setOpLc (s : State) (o : Op) (t : Clk) : State :=
  s.modCid o.nib o.cid (fun c => { c with seqs := c.seqs.set o.seq.idx { c.seqs[o.seq.idx] with lc := t } })

/-- Performs a synchronising access at a word at which it can proceed (R154): the word read, the new state, and the
time of the access. -/
def syncAct (s : State) (kind : Fin 4) (pa : Nat) (data : Nat) (lc : Clk) : Nat × Clk × State :=
  let s := { s with full := setFull s.full pa (kind.val ≠ 0) }
  let x := Memory.read s.mem pa 8
  if kind.val < 2 then
    let (t, s) := if kind = 0 then s.writeStamp pa lc else s.readStamp pa lc 0
    (x, t, s)
  else
    let (t, s) := s.writeStamp pa lc
    (x, t, { s with mem := Memory.write s.mem pa 8 data })

/-- Serves the waiters of a nib's word, in arrival order, rescanning until none can proceed (R155). -/
def cascade (s : State) (n : NibId) (pa : Nat) : Nat → State
  | 0 => s
  | fuel + 1 =>
    let ready := (s.nib n).waiters.findSome? (fun id =>
      match s.findOp id with
      | some o =>
        match o.kind with
        | .access (.sync kind d) (r :: _) x _ =>
          if r.pa = pa && syncReady kind (s.full.contains pa) then some (o, kind, d, x) else none
        | _ => none
      | none => none)
    match ready with
    | none => s
    | some (o, kind, d, x) =>
      let (y, t, s) := s.syncAct kind pa x (s.opLc o)
      let s := s.setOpLc o t
      let s := s.modNib n (fun b => { b with waiters := b.waiters.filter (· != o.id) })
      let s := s.modOp o.id (fun o => { o with performed := true, due := s.cycle, tmax := t, kind := .access (.sync kind d) [] y false })
      s.cascade n pa fuel

/-- The access of a synchronising instruction to a well word at `pa` (R155): performed at once when it can proceed,
and then the word's waiters are served. -/
def syncNow (s : State) (n : NibId) (kind : Fin 4) (pa data : Nat) (lc : Clk) : Nat × Clk × State :=
  let (y, t, s) := s.syncAct kind pa data lc
  let s := s.cascade n pa 65
  (y, t, if (s.nib n).heldReqs.isEmpty then s else s.schedule s.cycle (.waiterTableJoin n))

/-- The served local-form access of the issuing sequencer (R156). -/
def served (s : State) : Option (Op × Nat) :=
  s.ops.findSome? (fun o =>
    if o.performed && o.sl = 0 && o.nib = s.cur.nib && o.cid = s.ctx.cid && o.seq = s.cur.q then
      match o.kind with
      | .access (.sync _ _) _ y _ => some (o, y)
      | _ => none
    else none)

/-- A synchronising access (R154, R156). -/
def syncAccess (s : State) (kind : Fin 4) (d a : Fin 32) (m : Fin 4) (sl : Fin 16) (i : BitVec 10) : Res :=
  let load : Bool := kind.val < 2
  let srcs := if load then eaSrcs a m i else .g d :: eaSrcs a m i
  let dst := if load then [RegRef.g d] else []
  s.guarded srcs (dst ++ eaDsts a m) (sl != 0) (fun s =>
    let finish := fun (s : State) (y : Nat) =>
      ((if load then s.landG 2 d (BitVec.ofNat 64 y) else s).postInc a m i 8).retire
    match s.served with
    | some (o, y) => finish (s.dropOp o.id) y
    | none =>
      let acc : Acc := ⟨s.ea a m i 8, 8, 8, !load, sl != 0, false, true, false⟩
      let x := (s.rg d).toNat
      s.access ⟨[(acc, 0)], sl, false, if load then 0 else 1⟩ (fun s rs =>
        if sl = 0 then
          match rs with
          | [] => s
          | r :: _ =>
            if syncReady kind (s.full.contains r.pa) then
              let s := s.keepOld r.pa 8
              let (y, t, s) := s.syncNow s.cur.nib kind r.pa x s.lc
              finish (s.setLc t) (if load then s.wellRead r.va.toNat 8 else y)
            else
              let (id, s) := s.newOp 0 (.access (.sync kind d) rs x false)
              { s with turn := { s.turn with park := s.turn.park ++ [(.sync id, s.cur.q)] } }
        else
          let s := (s.postInc a m i 8).issueLong sl (.sync kind d) rs x true
          (if load then s.pendReg (.g d) else s).retire))

end State

def execLdfe (d a : Fin 32) (m : Fin 4) (sl : Fin 16) (i : BitVec 10) (s : State) : Res := s.syncAccess 0 d a m sl i
def execLdff (d a : Fin 32) (m : Fin 4) (sl : Fin 16) (i : BitVec 10) (s : State) : Res := s.syncAccess 1 d a m sl i
def execStfe (d a : Fin 32) (m : Fin 4) (sl : Fin 16) (i : BitVec 10) (s : State) : Res := s.syncAccess 2 d a m sl i
def execStff (d a : Fin 32) (m : Fin 4) (sl : Fin 16) (i : BitVec 10) (s : State) : Res := s.syncAccess 3 d a m sl i

/-! ## Atomics (R157) -/

/-- The new value of an atomic on `n` bits, and its events (R157): operators in the order of the table. -/
def amoNew (op n old y c : Nat) : Nat × Ev :=
  let sg := fun (x : Nat) => (BitVec.ofNat n x).toInt
  match op with
  | 0 => ((old + y) % 2 ^ n, 0)
  | 1 => (old &&& y, 0)
  | 2 => (old ||| y, 0)
  | 3 => (old ^^^ y, 0)
  | 4 => (if sg old ≤ sg y then old else y, 0)
  | 5 => (if sg old < sg y then y else old, 0)
  | 6 => (min old y, 0)
  | 7 => (max old y, 0)
  | 8 => (y, 0)
  | 9 => (if old = c then y else old, 0)
  | _ => fmt32.addB old y

namespace State

/-- An atomic (R157). `det` refuses it in deterministic mode (R147, check 1). -/
def amo (s : State) (op : Fin 16) (d a b : Fin 32) (sl : Fin 16) (z : Nat) : Res :=
  let n := 4 * (z + 1)
  let srcs := if op = 9 then [RegRef.g d, .g a, .g b] else [.g a, .g b]
  s.guarded srcs [.g d] (sl != 0) (fun s =>
    if op = 10 ∧ s.deterministic then s.raise causeDETVIOL 0
    else
      let acc : Acc := ⟨s.rg a, n, n, true, sl != 0, false, false, true⟩
      let y := (s.rg b).toNat % 2 ^ (8 * n)
      let c := (s.rg d).toNat % 2 ^ (8 * n)
      s.access ⟨[(acc, 0)], sl, false, 2⟩ (fun s rs =>
        if sl = 0 then
          let (old, _) := s.localGather rs 0
          let (x, e) := amoNew op.val (8 * n) old y c
          (((s.localScatter x rs).landG 2 d (BitVec.ofNat 64 old)).landEv e).retire
        else ((s.issueLong sl (.amo d n op y c) rs 0 true).pendReg (.g d)).retire))

end State

def execAmoAdd (d a b : Fin 32) (sl : Fin 16) (z : Fin 2) (s : State) : Res := s.amo 0 d a b sl z.val
def execAmoAnd (d a b : Fin 32) (sl : Fin 16) (z : Fin 2) (s : State) : Res := s.amo 1 d a b sl z.val
def execAmoOr (d a b : Fin 32) (sl : Fin 16) (z : Fin 2) (s : State) : Res := s.amo 2 d a b sl z.val
def execAmoXor (d a b : Fin 32) (sl : Fin 16) (z : Fin 2) (s : State) : Res := s.amo 3 d a b sl z.val
def execAmoMin (d a b : Fin 32) (sl : Fin 16) (z : Fin 2) (s : State) : Res := s.amo 4 d a b sl z.val
def execAmoMax (d a b : Fin 32) (sl : Fin 16) (z : Fin 2) (s : State) : Res := s.amo 5 d a b sl z.val
def execAmoMinn (d a b : Fin 32) (sl : Fin 16) (z : Fin 2) (s : State) : Res := s.amo 6 d a b sl z.val
def execAmoMaxn (d a b : Fin 32) (sl : Fin 16) (z : Fin 2) (s : State) : Res := s.amo 7 d a b sl z.val
def execAmoSwap (d a b : Fin 32) (sl : Fin 16) (z : Fin 2) (s : State) : Res := s.amo 8 d a b sl z.val
def execAmoCas (d a b : Fin 32) (sl : Fin 16) (z : Fin 2) (s : State) : Res := s.amo 9 d a b sl z.val
def execAmoFadd (d a b : Fin 32) (sl : Fin 16) (s : State) : Res := s.amo 10 d a b sl 0

/-! ## Modulo registers (R145) -/

def execMmod (i : Fin 8) (a b : Fin 32) (s : State) : Res :=
  s.simple [.g a, .g b] [] (fun s => s.land 1 (.modReg i (s.rg a) ((s.rg b).setWidth 32)))

/-! ## Shadow publish (R192) -/

def execPub (sl : Fin 16) (a : Fin 32) (s : State) : Res :=
  s.guarded [.g a] [] true (fun s =>
    if s.sealFull sl then s
    else
      let p := s.partOf s.cur.nib
      let e : Fin 16 := Fin.ofNat 16 (s.rg a).toNat
      let x := s.parts[p].pubs[e]
      if 16 ≤ (s.rg a).toNat || !x.en || x.asid != State.asidOf s.ctx.c.ptroot then s.raise causeSTOREACC (s.rg a)
      else (s.issueLong sl (.pub p e) [] 0 true).retire)

end Sys2Proof.Machine
end

