-- ==== Sys2Proof/Machine/Landing.lean ====
section
/-! DEFINITION. Sys2Proof/Machine/Landing.lean: effects that take force at the start of a turn (02_lines.md R56 to R63;
05_control.md R127, R128, R130, R132; 07_ordering.md R189), labels and their filters, trace records and the capture gate
(13_debug.md R336 to R342), and the decode trap of R39. -/

namespace Sys2Proof.Machine

open Sys2Proof

/-! ## Trace records (R342) -/

/-- A trace record (R342). -/
structure TraceRec where
  kind : Nat
  info : Nat
  label : Nat
  pc : Nat
  data : Nat
deriving DecidableEq, Repr

namespace State

/-- One cell write by the host agent of a partition (R175, R194). -/
def hostWrite (s : State) (p : Fin 16) (pa n x : Nat) : State :=
  let (t, s) := s.writeStamp pa s.parts[p].hostLc
  { s with mem := Memory.write s.mem pa n x, parts := s.parts.set p { s.parts[p] with hostLc := t } }

def modPart (s : State) (p : Fin 16) (f : Part → Part) : State := { s with parts := s.parts.set p (f s.parts[p]) }

/-- Writes a trace record of stroke k of nib n to the buffer of its partition, or drops it (R342). -/
def trace (s : State) (n : NibId) (k : Fin 8) (r : TraceRec) : State :=
  let p := s.partOf n
  let x := s.parts[p]
  let size := x.tsize.toNat / 32 * 32
  if size < x.tpos.toNat + 32 then
    s.modPart p (fun x => { x with tovf := true, tdrop := if x.tdrop = BitVec.allOnes 15 then x.tdrop else x.tdrop + 1 })
  else
    let w := r.kind % 256 + r.info % 256 * 2 ^ 8 + r.label % 2 ^ 16 * 2 ^ 16 + r.pc % 2 ^ 32 * 2 ^ 32 +
      s.strokeNumber n k * 2 ^ 64 + s.tn % 2 ^ 64 * 2 ^ 128 + r.data % 2 ^ 64 * 2 ^ 192
    (s.hostWrite p (x.tbase.toNat + x.tpos.toNat) 32 w).modPart p (fun x => { x with tpos := x.tpos + 32 })

/-- Some label filter of the partition is on (R342). -/
def filtersOn (s : State) (p : Fin 16) : Bool := s.parts[p].filters.toList.any (fun f => getBits f 2 2 != 0)

/-- A stop, a resume or a gate change of a stroke is recorded while any filter is on (R342). -/
def traceIfOn (s : State) (n : NibId) (k : Fin 8) (kind info : Nat) : State :=
  if s.filtersOn (s.partOf n) then
    s.trace n k ⟨kind, info, 0, (s.stroke n k).ctx.seqs[0].pc.toNat, 0⟩
  else s

/-! ## Labels (R336 to R338) -/

/-- The filters see a label event: kind 1 mark, 2 push, 3 pop (R337). A gate action counts in the same turn (R338). -/
def labelSeen (s : State) (kind : Nat) (l : BitVec 16) : State :=
  (s.parts[s.partOf s.cur.nib].filters.toList).foldl (fun s f =>
    let value := f.extractLsb' 48 16
    let mask := f.extractLsb' 32 16
    let act := getBits f 2 2
    if act ≠ 0 ∧ l &&& mask = value &&& mask then
      let s := if act % 2 = 1 then s.trace s.cur.nib s.cur.k ⟨kind, s.cur.q.idx.val, l.toNat, s.pc.toNat, 0⟩ else s
      if 2 ≤ act then
        s.modStroke s.cur.nib s.cur.k (fun x => if kind = 3 then { x with gateOff := true } else { x with gateOn := true })
      else s
    else s) s

end State

/-- The label stack after a label instruction (R336). -/
def Ctx.label (c : Ctx) (o : LabelOp) (l : BitVec 16) : Ctx :=
  match o with
  | .push => if 16 ≤ c.labels.length then { c with lovf := true } else { c with labels := l :: c.labels }
  | .pop =>
    match c.labels with
    | [] => { c with lmis := true }
    | t :: r => { c with labels := r, lmis := c.lmis || t != l }
  | .mark => c

def execRpush (l : BitVec 16) (s : State) : Res :=
  s.simple [] [] (fun s =>
    let s := if 16 ≤ s.ctx.labels.length then s else s.labelSeen 2 l
    s.land 1 (.label .push l))

def execRpop (l : BitVec 16) (s : State) : Res :=
  s.simple [] [] (fun s =>
    let s := match s.ctx.labels with
      | [] => s
      | t :: _ => s.labelSeen 3 t
    s.land 1 (.label .pop l))

def execMark (l : BitVec 16) (s : State) : Res := s.simple [] [] (fun s => s.labelSeen 1 l)

/-! ## Effects taking force -/

/-- Seal state changes (R130). -/
def Regs.modSeal (r : Regs) (x : Fin 16) (f : Seal → Seal) : Regs := { r with seals := r.seals.set x (f r.seals[x]) }

/-- A handoff acts on its seal; CLK takes the sequencer's clock (R132, R187). -/
def Seal.handoff (x : Seal) (kind : HandKind) (n : BitVec 16) (lc : Clk) : Seal :=
  { x with count := (match kind with | .set => n | .add => x.count + n), clk := Clk.max x.clk lc }

/-- The post of an operation: COUNT rises, PEND falls, CLK takes the carried clock (R130, R187). -/
def Regs.post (r : Regs) (x : Fin 16) (clk : Clk) : Regs :=
  if x = 0 then r else r.modSeal x (fun y => ⟨y.count + 1, y.pend - 1, Clk.max y.clk clk⟩)

/-- A queue load fills its slot (R128). -/
def fillSlot (l : List VQEntry) (op : Nat) (x : Vec) (clk : Clk) : List VQEntry :=
  l.map (fun e => if e.op = op && !e.filled then ⟨x, true, op, clk⟩ else e)

/-- A block table entry enters a state (R158): 0 removes it. -/
def setBlock (l : List Block) (b : Block) : List Block :=
  let r := l.filter (·.addr != b.addr)
  if b.state = 0 then r else r ++ [b]

/-- Counts events on a context (R93). -/
def Ctx.count (c : Ctx) (e : Ev) : Ctx := { c with c := { c.c with fpev := fpevAdd c.c.fpev e } }

/-- An effect on the context alone takes force (R56, R60, R130). -/
def Ctx.effect (c : Ctx) (q : Seq) : Eff → Ctx
  | .reg w => { c with r := c.r.write w }
  | .pend x => { c with r := c.r.setPending x true }
  | .sealPend x => { c with r := c.r.modSeal x (fun y => { y with pend := y.pend + 1 }) }
  | .handoff x k n => { c with r := c.r.modSeal x (·.handoff k n c.seqs[q.idx].lc) }
  | .fpev e => c.count e
  | .rng x wrapped =>
    { c with c := { c.c with rngctr := x, tstatus := if wrapped then setBits c.c.tstatus 11 1 1 else c.c.tstatus } }
  | .modReg i b n => { c with r := { c.r with m := c.r.m.set i ⟨b, n⟩ } }
  | .pattern i x => { c with r := { c.r with patterns := c.r.patterns.set i x } }
  | .bins x => { c with r := { c.r with bins := x } }
  | .vrb x => { c with c := { c.c with vrb := x } }
  | .spctl x => { c with c := { c.c with spctl := x } }
  | .oqPush r b clk => { c with x := { c.x with oq := c.x.oq.set r.idx (c.x.oq[r.idx] ++ [⟨b, clk⟩]) } }
  | .oqPop r => { c with x := { c.x with oq := c.x.oq.set r.idx c.x.oq[r.idx].tail } }
  | .vqReserve op => { c with x := { c.x with ax := c.x.ax ++ [⟨0, false, op, 0⟩] } }
  | .vqFill op x clk => { c with x := { c.x with ax := fillSlot c.x.ax op x clk } }
  | .vqPush x clk => { c with x := { c.x with xw := c.x.xw ++ [⟨x, true, 0, clk⟩] } }
  | .vqPop .ax => { c with x := { c.x with ax := c.x.ax.tail } }
  | .vqPop .xw => { c with x := { c.x with xw := c.x.xw.tail } }
  | .fmtPush w => { c with x := { c.x with fmt := c.x.fmt ++ [w] } }
  | .shadow i x => { c with x := { c.x with shadow := c.x.shadow.set i x } }
  | .slot t x => { c with x := { c.x with slots := c.x.slots.set t x } }
  | .label o l => c.label o l
  | .ringFree .. | .mailPop | .csr .. | .timer .. | .lock .. | .unlock .. | .ring .. | .blockFree .. | .blockSet .. | .mresume => c

namespace State

/-- Compare i of a nib fires (R327). -/
def fireTimer (s : State) (n : NibId) (i : Fin 8) : State :=
  let bit := BitVec.twoPow 8 i.val
  let s := s.modNib n (fun b => { b with tmpend := b.tmpend ||| bit, firedAt := (s.cycle, b.firedIn s.cycle ||| bit) })
  s.modStroke n i (fun x => { x with compare := 0 })

/-- `tmset` takes force: 0 disarms, a past value fires at once (R327). -/
def setTimer (s : State) (n : NibId) (i : Fin 8) (x : Word) : State :=
  let s := s.modStroke n i (fun st => { st with compare := x })
  if x = 0 then s
  else if x.toNat ≤ s.tn then s.fireTimer n i
  else s.schedule (x.toNat * 8) (.timerFire n i)

/-- `mresume` takes force: the stopped command and those held behind it return to the queue, and STOPPED clears
(R243, R245). With no stopped command of the context on the nib it has no effect. -/
def resumeMatrix (s : State) (n : NibId) (k : Fin 8) : State :=
  let c := (s.stroke n k).ctx
  if (s.nib n).matrix.stopped.any (·.cid == c.cid) then
    let s := s.modNib n (fun b => { b with matrix := b.matrix.resume c.cid })
    (s.modCtxAt n k (fun c => { c with c := { c.c with mfault := c.c.mfault &&& ~~~ 1 } })).schedule s.cycle (.matrixDispatch n)
  else s

/-- `xrcfg` takes force (R287): an enabled ring starts empty; disabling clears EN. -/
def setRing (s : State) (n : NibId) (k : Fin 8) (r : Fin 4) (en : Bool) (base size rowLen : Nat) : State :=
  s.modStroke n k (fun x =>
    let old := x.rings[r]
    let new : Ring := if en then { Ring.reset with en := true, base := base, size := size, rowLen := rowLen }
      else { old with en := false }
    { x with rings := x.rings.set r new })

/-- An effect of stroke k of nib n takes force. -/
def applyEff (s : State) (n : NibId) (k : Fin 8) (q : Seq) (e : Eff) : State :=
  match e with
  | .csr op num x task => s.csrWrite n k num op x task
  | .timer i x => s.setTimer n i x
  | .lock b l => s.modNib n (fun y => { y with locks := y.locks ++ [⟨b, l, k⟩] })
  | .unlock b => s.modNib n (fun y => { y with locks := y.locks.filter (fun l => !(l.owner == k && l.base == b)) })
  | .ring r en b sz rl => s.setRing n k r en b sz rl
  | .blockFree a => s.modNib n (fun y => { y with blocks := y.blocks.filter (·.addr != a) })
  | .blockSet a l va st op => s.modNib n (fun y => { y with blocks := setBlock y.blocks ⟨a, l, va, st, op⟩ })
  | .mresume => s.resumeMatrix n k
  | .ringFree r x => s.modStroke n k (fun st =>
      { st with rings := st.rings.set r { st.rings[r] with used := st.rings[r].used - x } })
  | .mailPop => s.modStroke n k (fun st => { st with mailbox := st.mailbox.tail })
  | e => s.modCtxAt n k (fun c => c.effect q e)

end State

/-- Takes the first element that satisfies `f` out of a list. -/
def takeFirst {α : Type} (f : α → Bool) : List α → Option (α × List α)
  | [] => none
  | x :: r =>
    if f x then some (x, r)
    else
      match takeFirst f r with
      | some (y, t) => some (y, x :: t)
      | none => none

/-- The effect is a handoff (R132). -/
def Landing.isHandoff (l : Landing) : Bool :=
  match l.eff with
  | .handoff .. => true
  | _ => false

/-- A handoff that sets its seal. -/
def Landing.isSet (l : Landing) : Bool :=
  match l.eff with
  | .handoff _ .set _ => true
  | _ => false

/-- A held record with count k is due in turn tn: the stroke's first turn was U, and U + k has come (R63). -/
def Ctx.due (c : Ctx) (tn k : Nat) : Bool :=
  match c.resumed with
  | some u => u + k ≤ tn
  | none => false

/-- What the next handoff of the turn is: sets first, in the order S, A, X, W, a record ahead of a new one of the same
sequencer; then increments (R63, R130). -/
inductive NextHand where
  | record (h : HandRec) (rest : List HandRec)
  | fresh (l : Landing) (rest : List Landing)
  | none
deriving DecidableEq, Repr

def Ctx.nextHand (c : Ctx) (tn : Nat) : NextHand :=
  let recSet := fun (q : Seq) => takeFirst (fun h => h.kind == .set && h.seq == q && c.due tn h.k) c.handRecs
  let newSet := fun (q : Seq) => takeFirst (fun l => Landing.isSet l && l.seq == q && l.due ≤ tn) c.inflight
  let pick := fun (q : Seq) => match recSet q with
    | some (h, r) => some (NextHand.record h r)
    | none => (newSet q).map (fun x => NextHand.fresh x.1 x.2)
  match [Seq.s, .a, .x, .w].findSome? pick with
  | some x => x
  | none =>
    match takeFirst (fun h => c.due tn h.k) c.handRecs with
    | some (h, r) => .record h r
    | none =>
      match takeFirst (fun l => l.isHandoff && l.due ≤ tn) c.inflight with
      | some (l, r) => .fresh l r
      | none => .none

/-- Held records are gone: the next pre-emption counts afresh (R63). -/
def Ctx.settle (c : Ctx) : Ctx :=
  if c.lateWrites.isEmpty && c.handRecs.isEmpty then { c with resumed := none } else c

/-! ## The landing events -/

/-- RESULT_LANDING: the next effect that is due, handoffs apart, takes force (R56, R57). -/
def execResultLanding (n : NibId) (k : Fin 8) (s : State) : Res :=
  match takeFirst (fun l => l.due ≤ s.tn && !l.isHandoff) (s.stroke n k).ctx.inflight with
  | none => .next s
  | some (l, r) => .next ((s.modCtxAt n k (fun c => { c with inflight := r })).applyEff n k l.seq l.eff)

/-- HANDOFF_EFFECT: the next handoff that is due acts on its seal (R130, R132). -/
def execHandoffEffect (n : NibId) (k : Fin 8) (s : State) : Res :=
  match (s.stroke n k).ctx.nextHand s.tn with
  | .fresh l r => .next ((s.modCtxAt n k (fun c => { c with inflight := r })).applyEff n k l.seq l.eff)
  | _ => .next s

/-- LATE_WRITE_LANDING: a late-write record, and else a handoff record whose place has come, takes effect (R63). -/
def execLateWriteLanding (n : NibId) (k : Fin 8) (s : State) : Res :=
  let c := (s.stroke n k).ctx
  match takeFirst (fun w => c.due s.tn w.k) c.lateWrites with
  | some (w, r) => .next (s.modCtxAt n k (fun c => Ctx.settle { c with lateWrites := r, r := c.r.write w.reg }))
  | none =>
    match c.nextHand s.tn with
    | .record h r =>
      .next (s.modCtxAt n k (fun c =>
        Ctx.settle { c with handRecs := r, r := c.r.modSeal h.sl (·.handoff h.kind h.amount c.seqs[h.seq.idx].lc) }))
    | _ => .next s

/-- LC_TICK: each sequencer's clock rises by 1 (R189). -/
def execLcTick (n : NibId) (k : Fin 8) (s : State) : Res :=
  .next (s.modCtxAt n k (fun c => { c with seqs := c.seqs.map (fun q => { q with lc := q.lc + 1 }) }))

/-- TIMER_FIRE: an armed compare that has been reached sets FIRED and is disarmed (R327). -/
def execTimerFire (n : NibId) (k : Fin 8) (s : State) : Res :=
  let x := (s.stroke n k).compare
  .next (if x ≠ 0 ∧ x.toNat ≤ s.tn then s.fireTimer n k else s)

/-- ILLEGAL_ON_DECODE: a word that is no instruction traps ILLEGAL with the word as `tval` (R39, R47). -/
def execIllegalOnDecode (w : BitVec 32) (s : State) : Res := .next (s.raise causeILLEGAL (w.setWidth 64))

end Sys2Proof.Machine
end

