-- ==== Sys2Proof/Machine/Vector.lean ====
section
/-! DEFINITION. Sys2Proof/Machine/Vector.lean: the vector instructions of X (08_vector.md R196 to R219): predicates, lane
arithmetic, permutes, floating point, conversions, reductions, the special-function unit, random numbers, the vector
queues, and rotating registers. -/

namespace Sys2Proof.Machine

open Sys2Proof

/-! ## Types and lanes (R69, R196, R197) -/

/-- The size in bytes of a lane of type `ty` (R196). -/
def tySize (ty : Nat) : Nat :=
  match ty with
  | 1 | 5 | 8 => 2
  | 2 | 6 | 9 => 4
  | 3 | 7 => 8
  | _ => 1

/-- The number of lanes of type `ty` (R196). -/
def tyLanes (ty : Nat) : Nat := 128 / tySize ty

/-- The `i` types are signed, the `n` types unsigned. -/
def tySigned (ty : Nat) : Bool := ty < 4

/-- The floating-point format of a type (R71). -/
def tyFmt (ty : Nat) : Fmt :=
  match ty with
  | 8 => fmt16
  | 9 => fmt32
  | 10 => fmtE4
  | _ => fmtE5

/-- A lane of B bits read as the type says. -/
def readLane (signed : Bool) (bits x : Nat) : Int := if signed then (BitVec.ofNat bits x).toInt else (x : Int)

/-- An integer modulo 2^B. -/
def wrapLane (bits : Nat) (x : Int) : Nat := (BitVec.ofInt bits x).toNat

/-- The vector whose lane j of `size` bytes is `f j`, for n lanes. -/
def packLanes (size n : Nat) (f : Nat → Nat) : Vec := BitVec.ofNat 1024 (packN (8 * size) n f)

/-- The predicate whose lanes of `size` bytes are all ones where `f j` (R197). -/
def packPred (size n : Nat) (f : Nat → Bool) : Pred :=
  BitVec.ofNat 128 (packN size n (fun j => if f j then 2 ^ size - 1 else 0))

/-- Lanes in increasing order, each with its events: inactive lanes raise none (R197). -/
def orEvents (n : Nat) (f : Nat → Ev) : Ev := (List.range n).foldl (fun e j => e ||| f j) 0

namespace State

/-- A lane operation on v[a] and v[b] under pg: active lanes get the result, inactive ones 0 (R197). -/
def vec2 (s : State) (lat : Nat) (d a b : Fin 32) (p : Fin 8) (ty : Nat) (f : Nat → Nat → Nat × Ev) : Res :=
  s.guarded [.v (s.vphys a), .v (s.vphys b), .p p] [.v (s.vphys d)] false (fun s =>
    let z := tySize ty
    let n := tyLanes ty
    let r := fun j => if laneOn (s.rp p) z j then f (laneOf (s.rv a) z j) (laneOf (s.rv b) z j) else (0, 0)
    ((s.landV lat d (packLanes z n (fun j => (r j).1))).landEv (orEvents n (fun j => (r j).2))).retire)

/-- A lane operation on v[a] under pg (R197). -/
def vec1 (s : State) (lat : Nat) (d a : Fin 32) (p : Fin 8) (ty : Nat) (f : Nat → Nat × Ev) : Res :=
  s.guarded [.v (s.vphys a), .p p] [.v (s.vphys d)] false (fun s =>
    let z := tySize ty
    let n := tyLanes ty
    let r := fun j => if laneOn (s.rp p) z j then f (laneOf (s.rv a) z j) else (0, 0)
    ((s.landV lat d (packLanes z n (fun j => (r j).1))).landEv (orEvents n (fun j => (r j).2))).retire)

/-- A compare of lanes into a predicate (R197, R204). -/
def vecCmp (s : State) (d : Fin 8) (a b : Fin 32) (p : Fin 8) (ty : Nat) (f : Nat → Nat → Bool × Ev) : Res :=
  s.guarded [.v (s.vphys a), .v (s.vphys b), .p p] [.p d] false (fun s =>
    let z := tySize ty
    let n := tyLanes ty
    let r := fun j => if laneOn (s.rp p) z j then f (laneOf (s.rv a) z j) (laneOf (s.rv b) z j) else (false, 0)
    ((s.landP 1 d (packPred z n (fun j => (r j).1))).landEv (orEvents n (fun j => (r j).2))).retire)

/-- A lane move: lane j of the result under pg, from lanes of the sources `srcs` (R205). -/
def vecMove (s : State) (srcs : List RegRef) (d : Fin 32) (p : Fin 8) (ty : Nat) (f : State → Nat → Nat) : Res :=
  s.guarded (srcs ++ [.p p]) [.v (s.vphys d)] false (fun s =>
    let z := tySize ty
    (s.landV 1 d (packLanes z (tyLanes ty) (fun j => if laneOn (s.rp p) z j then f s j else 0))).retire)

/-- A predicate operation (R201). -/
def pred2 (s : State) (d a b : Fin 8) (f : Pred → Pred → Pred) : Res :=
  s.simple [.p a, .p b] [.p d] (fun s => s.landP 1 d (f (s.rp a) (s.rp b)))

end State

/-! ## Governing predicates and width (R199 to R201) -/

def execVwhile (d : Fin 8) (i n : Fin 32) (y : Fin 16) (s : State) : Res :=
  s.simple [.g i, .g n] [.p d, .g i] (fun s =>
    let base := (s.rg i).toInt
    let lim := (s.rg n).toInt
    let lanes := tyLanes y.val
    let s := s.landP 1 d (packPred (tySize y.val) lanes (fun j => base + j < lim))
    s.landG 1 i (BitVec.ofInt 64 (base + lanes)))

def execVwidth (d : Fin 32) (s : State) : Res := s.simple [] [.g d] (fun s => s.landG 1 d 128)

def execPand (d a b : Fin 8) (s : State) : Res := s.pred2 d a b (· &&& ·)
def execPor (d a b : Fin 8) (s : State) : Res := s.pred2 d a b (· ||| ·)
def execPxor (d a b : Fin 8) (s : State) : Res := s.pred2 d a b (· ^^^ ·)
def execPnot (d a : Fin 8) (s : State) : Res := s.simple [.p a] [.p d] (fun s => s.landP 1 d (~~~ s.rp a))
def execPset (d : Fin 8) (s : State) : Res := s.simple [] [.p d] (fun s => s.landP 1 d (BitVec.allOnes 128))
def execPclr (d : Fin 8) (s : State) : Res := s.simple [] [.p d] (fun s => s.landP 1 d 0)
def execPcount (d : Fin 32) (a : Fin 8) (s : State) : Res :=
  s.simple [.p a] [.g d] (fun s => s.landG 1 d (BitVec.ofNat 64 (popcN 128 (s.rp a).toNat)))
def execPfirst (d : Fin 32) (a : Fin 8) (s : State) : Res :=
  s.simple [.p a] [.g d] (fun s => s.landG 1 d (BitVec.ofNat 64 (ctzN 128 (s.rp a).toNat)))

/-! ## Integer arithmetic (R202 to R204) -/

/-- The range of an integer type of B bits. -/
def typeMin (signed : Bool) (bits : Nat) : Int := if signed then -(2 ^ (bits - 1)) else 0
def typeMax (signed : Bool) (bits : Nat) : Int := if signed then 2 ^ (bits - 1) - 1 else 2 ^ bits - 1

/-- A clamped lane (R202, fn 14 and 15; R74). -/
def clampLane (signed : Bool) (bits : Nat) (x : Int) : Nat × Ev :=
  let (r, e) := clampInt x (typeMin signed bits) (typeMax signed bits)
  (wrapLane bits r, e)

/-- The right shift of a lane with copies of its top bit. -/
def sraLane (bits x n : Nat) : Nat := ((BitVec.ofNat bits x).sshiftRight n).toNat

/-- The integer lane operations (R202): `fn` on B-bit lanes x and y. -/
def laneOp (fn : Nat) (sg : Bool) (bits x y : Nat) : Nat × Ev :=
  let xi := readLane sg bits x
  let yi := readLane sg bits y
  let sh := y % bits
  match fn with
  | 0 => ((x + y) % 2 ^ bits, 0)
  | 1 => (wrapLane bits ((x : Int) - y), 0)
  | 2 => (x * y % 2 ^ bits, 0)
  | 3 => (wrapLane bits (xi * yi / 2 ^ bits), 0)
  | 4 => (x &&& y, 0)
  | 5 => (x ||| y, 0)
  | 6 => (x ^^^ y, 0)
  | 7 => (x * 2 ^ sh % 2 ^ bits, 0)
  | 8 => (x / 2 ^ sh, 0)
  | 9 => (sraLane bits x sh, 0)
  | 10 => (if xi < yi then x else y, 0)
  | 11 => (if xi < yi then y else x, 0)
  | 12 => (wrapLane bits (if sg then (xi.natAbs : Int) else xi), 0)
  | 13 => (wrapLane bits (-(x : Int)), 0)
  | 14 => clampLane sg bits (xi + yi)
  | _ => clampLane sg bits (xi - yi)

/-- An integer lane instruction (R202). -/
def State.vint (s : State) (fn lat : Nat) (d a b : Fin 32) (p y : Fin 8) : Res :=
  s.vec2 lat d a b p y.val (laneOp fn (tySigned y.val) (8 * tySize y.val))

def State.vint1 (s : State) (fn : Nat) (d a : Fin 32) (p y : Fin 8) : Res :=
  s.vec1 1 d a p y.val (fun x => laneOp fn (tySigned y.val) (8 * tySize y.val) x 0)

def execVadd (d a b : Fin 32) (p y : Fin 8) (s : State) : Res := s.vint 0 1 d a b p y
def execVsub (d a b : Fin 32) (p y : Fin 8) (s : State) : Res := s.vint 1 1 d a b p y
def execVmul (d a b : Fin 32) (p y : Fin 8) (s : State) : Res := s.vint 2 2 d a b p y
def execVmulh (d a b : Fin 32) (p y : Fin 8) (s : State) : Res := s.vint 3 2 d a b p y
def execVand (d a b : Fin 32) (p y : Fin 8) (s : State) : Res := s.vint 4 1 d a b p y
def execVor (d a b : Fin 32) (p y : Fin 8) (s : State) : Res := s.vint 5 1 d a b p y
def execVxor (d a b : Fin 32) (p y : Fin 8) (s : State) : Res := s.vint 6 1 d a b p y
def execVshl (d a b : Fin 32) (p y : Fin 8) (s : State) : Res := s.vint 7 1 d a b p y
def execVshr (d a b : Fin 32) (p y : Fin 8) (s : State) : Res := s.vint 8 1 d a b p y
def execVsra (d a b : Fin 32) (p y : Fin 8) (s : State) : Res := s.vint 9 1 d a b p y
def execVmin (d a b : Fin 32) (p y : Fin 8) (s : State) : Res := s.vint 10 1 d a b p y
def execVmax (d a b : Fin 32) (p y : Fin 8) (s : State) : Res := s.vint 11 1 d a b p y
def execVabs (d a : Fin 32) (p y : Fin 8) (s : State) : Res := s.vint1 12 d a p y
def execVneg (d a : Fin 32) (p y : Fin 8) (s : State) : Res := s.vint1 13 d a p y
def execVadds (d a b : Fin 32) (p y : Fin 8) (s : State) : Res := s.vint 14 1 d a b p y
def execVsubs (d a b : Fin 32) (p y : Fin 8) (s : State) : Res := s.vint 15 1 d a b p y

/-- An immediate lane operation (R203): its second operand is the immediate modulo 2^B. -/
def State.vimm (s : State) (fn : Nat) (d a : Fin 32) (p y : Fin 8) (i : BitVec 9) : Res :=
  let bits := 8 * tySize y.val
  s.vec1 1 d a p y.val (fun x => laneOp fn (tySigned y.val) bits x (wrapLane bits i.toInt))

def execVaddi (d a : Fin 32) (p y : Fin 8) (i : BitVec 9) (s : State) : Res := s.vimm 0 d a p y i
def execVshli (d a : Fin 32) (p y : Fin 8) (i : BitVec 9) (s : State) : Res := s.vimm 7 d a p y i
def execVshri (d a : Fin 32) (p y : Fin 8) (i : BitVec 9) (s : State) : Res := s.vimm 8 d a p y i
def execVsrai (d a : Fin 32) (p y : Fin 8) (i : BitVec 9) (s : State) : Res := s.vimm 9 d a p y i
def execVli (d : Fin 32) (p y : Fin 8) (i : BitVec 9) (s : State) : Res :=
  s.vecMove [] d p y.val (fun _ _ => wrapLane (8 * tySize y.val) i.toInt)

/-- An integer compare (R204): eq 0, ne 1, lt 2, le 3, gt 4, ge 5. -/
def laneCmp (cc : Nat) (x y : Int) : Bool :=
  match cc with
  | 0 => x == y
  | 1 => x != y
  | 2 => x < y
  | 3 => x ≤ y
  | 4 => y < x
  | _ => y ≤ x

def State.vcmp (s : State) (cc : Nat) (d : Fin 8) (a b : Fin 32) (p y : Fin 8) : Res :=
  let bits := 8 * tySize y.val
  s.vecCmp d a b p y.val (fun u v =>
    (laneCmp cc (readLane (tySigned y.val) bits u) (readLane (tySigned y.val) bits v), 0))

def execVcmpEq (d : Fin 8) (a b : Fin 32) (p y : Fin 8) (s : State) : Res := s.vcmp 0 d a b p y
def execVcmpNe (d : Fin 8) (a b : Fin 32) (p y : Fin 8) (s : State) : Res := s.vcmp 1 d a b p y
def execVcmpLt (d : Fin 8) (a b : Fin 32) (p y : Fin 8) (s : State) : Res := s.vcmp 2 d a b p y
def execVcmpLe (d : Fin 8) (a b : Fin 32) (p y : Fin 8) (s : State) : Res := s.vcmp 3 d a b p y
def execVcmpGt (d : Fin 8) (a b : Fin 32) (p y : Fin 8) (s : State) : Res := s.vcmp 4 d a b p y
def execVcmpGe (d : Fin 8) (a b : Fin 32) (p y : Fin 8) (s : State) : Res := s.vcmp 5 d a b p y

/-! ## Moves and permutes (R205) -/

/-- Lane i of a vector; a lane outside 0 to n - 1 reads as 0 (R205). -/
def laneAt (v : Vec) (ty : Nat) (i : Int) : Nat :=
  if 0 ≤ i ∧ i < tyLanes ty then laneOf v (tySize ty) i.toNat else 0

def execVmov (d a : Fin 32) (p : Fin 8) (y : Fin 16) (s : State) : Res :=
  s.vecMove [.v (s.vphys a)] d p y.val (fun s j => laneAt (s.rv a) y.val j)

/-- `vsel`: pg selects, and every lane is written (R205). -/
def execVsel (d a b : Fin 32) (p : Fin 8) (y : Fin 16) (s : State) : Res :=
  s.simple [.v (s.vphys a), .v (s.vphys b), .p p] [.v (s.vphys d)] (fun s =>
    let z := tySize y.val
    s.landV 1 d (packLanes z (tyLanes y.val) (fun j => laneOf (if laneOn (s.rp p) z j then s.rv a else s.rv b) z j)))

def execVshuf (d a b : Fin 32) (p : Fin 8) (y : Fin 16) (s : State) : Res :=
  s.vecMove [.v (s.vphys a), .v (s.vphys b)] d p y.val (fun s j => laneAt (s.rv a) y.val (laneAt (s.rv b) y.val j))

def execVslide (d a b : Fin 32) (p : Fin 8) (y : Fin 16) (s : State) : Res :=
  s.vecMove [.v (s.vphys a), .g b] d p y.val (fun s j => laneAt (s.rv a) y.val (j + (s.rg b).toInt))

def execVzip (d a b : Fin 32) (p : Fin 8) (y : Fin 16) (s : State) : Res :=
  s.vecMove [.v (s.vphys a), .v (s.vphys b)] d p y.val (fun s j =>
    laneAt (if j % 2 = 0 then s.rv a else s.rv b) y.val (j / 2 : Nat))

def execVunzip (d a b : Fin 32) (p : Fin 8) (y : Fin 16) (s : State) : Res :=
  s.vecMove [.v (s.vphys a), .v (s.vphys b)] d p y.val (fun s j =>
    let h := tyLanes y.val / 2
    if j < h then laneAt (s.rv a) y.val (2 * j : Nat) else laneAt (s.rv b) y.val (2 * (j - h) : Nat))

def execVidx (d a : Fin 32) (p y : Fin 8) (s : State) : Res :=
  s.vecMove [.g a] d p y.val (fun s j => ((s.rg a).toNat + j) % 2 ^ (8 * tySize y.val))

def execVbcast (d a : Fin 32) (p : Fin 8) (y : Fin 16) (s : State) : Res :=
  s.vecMove [.g a] d p y.val (fun s _ => (s.rg a).toNat % 2 ^ (8 * tySize y.val))

/-- `vext`: a lane outside the vector reads as 0; `i` types are sign-extended (R205). -/
def execVext (d a b : Fin 32) (y : Fin 16) (s : State) : Res :=
  s.simple [.v (s.vphys a), .g b] [.g d] (fun s =>
    let x := laneAt (s.rv a) y.val (s.rg b).toNat
    let bits := 8 * tySize y.val
    s.landG 1 d (if tySigned y.val then sx bits x else zx bits x))

def execVins (d a b : Fin 32) (y : Fin 16) (s : State) : Res :=
  s.simple [.v (s.vphys d), .g a, .g b] [.v (s.vphys d)] (fun s =>
    let z := tySize y.val
    s.landV 1 d (packLanes z (tyLanes y.val) (fun j =>
      if j = (s.rg b).toNat then (s.rg a).toNat % 2 ^ (8 * z) else laneOf (s.rv d) z j)))

def execVnot (d a : Fin 32) (p : Fin 8) (y : Fin 16) (s : State) : Res :=
  s.vecMove [.v (s.vphys a)] d p y.val (fun s j => 2 ^ (8 * tySize y.val) - 1 - laneAt (s.rv a) y.val j)

def execVclz (d a : Fin 32) (p y : Fin 8) (s : State) : Res :=
  s.vecMove [.v (s.vphys a)] d p y.val (fun s j => clzN (8 * tySize y.val) (laneAt (s.rv a) y.val j))

def execVpopc (d a : Fin 32) (p y : Fin 8) (s : State) : Res :=
  s.vecMove [.v (s.vphys a)] d p y.val (fun s j => popcN (8 * tySize y.val) (laneAt (s.rv a) y.val j))

/-! ## Floating point (R206, R207): `y` 0 is bf16, 1 is f32 -/

/-- The `ty` of a two-valued floating-point type field. -/
def fpTy (y : Fin 2) : Nat := 8 + y.val

def State.vfp (s : State) (d a b : Fin 32) (p : Fin 8) (y : Fin 2) (f : Fmt → Nat → Nat → Nat × Ev) : Res :=
  s.vec2 2 d a b p (fpTy y) (f (tyFmt (fpTy y)))

def execVfadd (d a b : Fin 32) (p : Fin 8) (y : Fin 2) (s : State) : Res := s.vfp d a b p y Fmt.addB
def execVfsub (d a b : Fin 32) (p : Fin 8) (y : Fin 2) (s : State) : Res := s.vfp d a b p y Fmt.subB
def execVfmul (d a b : Fin 32) (p : Fin 8) (y : Fin 2) (s : State) : Res := s.vfp d a b p y Fmt.mulB
def execVfmin (d a b : Fin 32) (p : Fin 8) (y : Fin 2) (s : State) : Res := s.vfp d a b p y (fun f => f.minB false)
def execVfmax (d a b : Fin 32) (p : Fin 8) (y : Fin 2) (s : State) : Res := s.vfp d a b p y (fun f => f.minB true)

/-- The sign of a lane set (0) or inverted; a NaN gives the canonical NaN (R206). -/
def signOp (f : Fmt) (flip : Bool) (x : Nat) : Nat :=
  if f.value x = .nan then f.nan
  else if flip then (x + 2 ^ (f.bits - 1)) % 2 ^ f.bits else x % 2 ^ (f.bits - 1)

def execVfabs (d a : Fin 32) (p : Fin 8) (y : Fin 2) (s : State) : Res :=
  s.vec1 1 d a p (fpTy y) (fun x => (signOp (tyFmt (fpTy y)) false x, 0))
def execVfneg (d a : Fin 32) (p : Fin 8) (y : Fin 2) (s : State) : Res :=
  s.vec1 1 d a p (fpTy y) (fun x => (signOp (tyFmt (fpTy y)) true x, 0))
def execVfeq (d : Fin 8) (a b : Fin 32) (p : Fin 8) (y : Fin 2) (s : State) : Res :=
  s.vecCmp d a b p (fpTy y) ((tyFmt (fpTy y)).cmpB 0)
def execVflt (d : Fin 8) (a b : Fin 32) (p : Fin 8) (y : Fin 2) (s : State) : Res :=
  s.vecCmp d a b p (fpTy y) ((tyFmt (fpTy y)).cmpB 1)
def execVfle (d : Fin 8) (a b : Fin 32) (p : Fin 8) (y : Fin 2) (s : State) : Res :=
  s.vecCmp d a b p (fpTy y) ((tyFmt (fpTy y)).cmpB 2)

/-- A fused operation: inactive lanes keep v[d] (R197, R207). -/
def State.vfused (s : State) (negP negC : Bool) (d a b : Fin 32) (p : Fin 8) (y : Fin 2) : Res :=
  s.guarded [.v (s.vphys d), .v (s.vphys a), .v (s.vphys b), .p p] [.v (s.vphys d)] false (fun s =>
    let z := tySize (fpTy y)
    let n := tyLanes (fpTy y)
    let r := fun j =>
      let c := laneOf (s.rv d) z j
      if laneOn (s.rp p) z j then (tyFmt (fpTy y)).fmaB negP negC (laneOf (s.rv a) z j) (laneOf (s.rv b) z j) c else (c, 0)
    ((s.landV 2 d (packLanes z n (fun j => (r j).1))).landEv (orEvents n (fun j => (r j).2))).retire)

def execVfma (d a b : Fin 32) (p : Fin 8) (y : Fin 2) (s : State) : Res := s.vfused false false d a b p y
def execVfms (d a b : Fin 32) (p : Fin 8) (y : Fin 2) (s : State) : Res := s.vfused true false d a b p y
def execVfnma (d a b : Fin 32) (p : Fin 8) (y : Fin 2) (s : State) : Res := s.vfused true true d a b p y
def execVfnms (d a b : Fin 32) (p : Fin 8) (y : Fin 2) (s : State) : Res := s.vfused false true d a b p y

/-! ## Conversions (R208, R209) -/

/-- A lane of type `st` converted to type `dt` (R74, R208). -/
def convert (dt st x : Nat) : Nat × Ev :=
  let sb := 8 * tySize st
  let db := 8 * tySize dt
  if dt = st then (x, 0)
  else if st < 8 then
    if dt < 8 then clampLane (tySigned dt) db (readLane (tySigned st) sb x)
    else (tyFmt dt).ofIntB (readLane (tySigned st) sb x)
  else if dt < 8 then
    let (n, e) := ((tyFmt st).value x).toInt (typeMin (tySigned dt) db) (typeMax (tySigned dt) db)
    (wrapLane db n, e)
  else (tyFmt dt).round false false ((tyFmt st).value x)

def execVcvt (d a : Fin 32) (p : Fin 8) (y x : Fin 16) (s : State) : Res :=
  s.guarded [.v (s.vphys a), .p p] [.v (s.vphys d)] false (fun s =>
    let m := max (tySize y.val) (tySize x.val)
    let n := 128 / m
    let r := fun j =>
      if laneOn (s.rp p) m j then convert y.val x.val (laneOf (s.rv a) (tySize x.val) j) else (0, 0)
    ((s.landV 2 d (packLanes (tySize y.val) n (fun j => (r j).1))).landEv (orEvents n (fun j => (r j).2))).retire)

/-- `vpack.bfp`: the image is one block, its exponent in byte 127 (R78, R209). -/
def execVpackBfp (d a w : Fin 32) (p : Fin 8) (s : State) : Res :=
  s.guarded [.v (s.vphys a), .p p] [.v (s.vphys d)] false (fun s =>
    let xs := (List.range 32).map (fun j =>
      if laneOn (s.rp p) 4 j then fmt32.value (laneOf (s.rv a) 4 j) else .fin false 0 0)
    let (planes, ex, e) := bfpPack w.val false xs
    ((s.landV 2 d (BitVec.ofNat 1024 (planes + ex * 2 ^ 1016))).landEv e).retire)

/-- `vunpack.bfp`: each active lane gets the exact value of its element (R76, R209). -/
def execVunpackBfp (d a w : Fin 32) (p : Fin 8) (s : State) : Res :=
  s.guarded [.v (s.vphys a), .p p] [.v (s.vphys d)] false (fun s =>
    let img := (s.rv a).toNat
    let ex := img / 2 ^ 1016
    let r := fun j =>
      if laneOn (s.rp p) 4 j then exact32 (bfpValue w.val ex (bfpMant w.val img j)) else 0
    (s.landV 2 d (packLanes 4 32 r)).retire)

/-! ## Reductions (R82, R83, R210) -/

/-- The fixed pairwise tree: `n` halves (R82). -/
def pairTree {α : Type} (op : α → α → α) (fuel : Nat) (xs : List α) : List α :=
  match fuel with
  | 0 => xs
  | fuel + 1 => pairTree op fuel (go xs)
where
  go : List α → List α
  | x :: y :: r => op x y :: go r
  | r => r

namespace State

/-- Some lane is active (R83). -/
def anyLane (s : State) (p : Fin 8) (ty : Nat) : Bool :=
  (List.range (tyLanes ty)).any (laneOn (s.rp p) (tySize ty))

/-- An integer reduction (R82, R83, R210): `empty` counts EMPTY when no lane is active. -/
def redInt (s : State) (d a : Fin 32) (p y : Fin 8) (identity : Int) (op : Word → Word → Word) (empty : Bool) : Res :=
  s.guarded [.v (s.vphys a), .p p] [.g d] false (fun s =>
    let z := tySize y.val
    let xs := (List.range (tyLanes y.val)).map (fun j =>
      if laneOn (s.rp p) z j then BitVec.ofInt 64 (readLane (tySigned y.val) (8 * z) (laneOf (s.rv a) z j))
      else BitVec.ofInt 64 identity)
    let r := (pairTree op 7 xs).headD 0
    ((s.landG 3 d r).landEv (evIf (empty && !s.anyLane p y.val) evEMPTY)).retire)

/-- An FP reduction over FP32 nodes (R82, R83): `none` gives the result with no active lane. -/
def redFp (s : State) (d a : Fin 32) (p : Fin 8) (y : Fin 2) (identity empty : Nat) (op : Nat → Nat → Nat × Ev) (ev : Ev) : Res :=
  s.guarded [.v (s.vphys a), .p p] [.g d] false (fun s =>
    let ty := fpTy y
    let z := tySize ty
    let xs := (List.range (tyLanes ty)).map (fun j =>
      if laneOn (s.rp p) z j then
        let x := laneOf (s.rv a) z j
        ((if y = 0 then (fmt32.round false false (fmt16.value x)).1 else x), (0 : Ev))
      else (identity, 0))
    let node := fun (u v : Nat × Ev) => let (r, e) := op u.1 v.1; (r, e ||| u.2 ||| v.2)
    let (r, e) := (pairTree node 6 xs).headD (0, 0)
    let (r, e) := if s.anyLane p ty then (r, e) else (empty, ev)
    ((s.landG 3 d (BitVec.ofNat 64 r)).landEv e).retire)

end State

def execVredsum (d a : Fin 32) (p y : Fin 8) (s : State) : Res := s.redInt d a p y 0 (· + ·) false
def execVfredsum (d a : Fin 32) (p : Fin 8) (y : Fin 2) (s : State) : Res :=
  s.redFp d a p y 0x80000000 0 fmt32.addB 0
def execVredmax (d a : Fin 32) (p y : Fin 8) (s : State) : Res :=
  s.redInt d a p y (typeMin (tySigned y.val) (8 * tySize y.val))
    (fun u v => if (if tySigned y.val then u.slt v else u.ult v) then v else u) true
def execVredmin (d a : Fin 32) (p y : Fin 8) (s : State) : Res :=
  s.redInt d a p y (typeMax (tySigned y.val) (8 * tySize y.val))
    (fun u v => if (if tySigned y.val then u.slt v else u.ult v) then u else v) true
def execVfredmax (d a : Fin 32) (p : Fin 8) (y : Fin 2) (s : State) : Res :=
  s.redFp d a p y 0xFF800000 0xFF800000 (fmt32.minB true) evEMPTY
def execVfredmin (d a : Fin 32) (p : Fin 8) (y : Fin 2) (s : State) : Res :=
  s.redFp d a p y 0x7F800000 0x7F800000 (fmt32.minB false) evEMPTY
/-- The identity of `vredand`, all ones, is 64 ones for every type (R83, DESIGN CHOICE, assumption 62). -/
def execVredand (d a : Fin 32) (p y : Fin 8) (s : State) : Res := s.redInt d a p y (-1) (· &&& ·) false
def execVredor (d a : Fin 32) (p y : Fin 8) (s : State) : Res := s.redInt d a p y 0 (· ||| ·) false

/-! ## Special functions (R84 to R88, R211 to R213) -/

namespace State

/-- Entries of the special-function FIFO that are not free in this cycle: an entry is freed in its ready cycle (R212). -/
def sfuHeld (s : State) (n : NibId) : Nat :=
  ((s.nib n).sfu.filter (fun id => match s.findOp id with
    | some o => !o.performed || s.cycle < o.due
    | none => false)).length

/-- Issues a special-function request (R211, R212). -/
def sfu (s : State) (d a : Fin 32) (sl : Fin 16) (p : Fin 8) (f : Nat → Nat × Ev) : Res :=
  s.guarded [.v (s.vphys a), .p p] [.v (s.vphys d)] true (fun s =>
    if s.sealFull sl then s
    else if 8 ≤ s.sfuHeld s.cur.nib then s.waitMem
    else
      let r := fun j => if laneOn (s.rp p) 4 j then f (laneOf (s.rv a) 4 j) else (0, 0)
      let val := packLanes 4 32 (fun j => (r j).1)
      let (id, s) := s.newOp sl (.sfu (s.vphys d) val (orEvents 32 (fun j => (r j).2)))
      let s := s.modOp id (fun o => { o with due := s.cycle + 8 })
      let s := s.modNib s.cur.nib (fun b => { b with sfu := b.sfu ++ [id] })
      ((s.schedule (s.cycle + 8) (.sfuService s.cur.nib)).pendReg (.v (s.vphys d))).pendSeal sl |>.retire)

/-- The result of an operation lands on its context, in its stroke or its entry (R60, R93, R130, R187, R323): registers,
pending bits, the post with its clock, and events. -/
def landOp (s : State) (o : Op) (ws : List RegWrite) (e : Ev) : State :=
  (s.modCid o.nib o.cid (fun c =>
    let r := ws.foldl (fun (r : Regs) w => (r.write w).setPending w.ref false) c.r
    Ctx.count { c with r := r.post o.sl o.tmax } e)).dropOp o.id

end State

/-- SFU_SERVICE: the unit begins to serve its next request, which is ready 24 cycles later (R212). -/
def execSfuService (n : NibId) (s : State) : Res :=
  let waiting := (s.nib n).sfu.filterMap (fun id => (s.findOp id).filter (!·.performed))
  match waiting with
  | [] => .next s
  | o :: _ =>
    if s.cycle < o.due then .next s
    else if s.cycle < (s.nib n).sfuFree then .next (s.schedule (s.nib n).sfuFree (.sfuService n))
    else
      let s := s.modOp o.id (fun o => { o with performed := true, due := s.cycle + 24 })
      .next (s.modNib n (fun b => { b with sfuFree := s.cycle + 4 }))

/-- SFU_RESULT: the result, the pending bit, the post and the events land together (R211, R212). -/
def execSfuResult (id : Nat) (s : State) : Res :=
  match s.findOp id with
  | some o =>
    match o.kind with
    | .sfu d val ev =>
      let s := s.modNib o.nib (fun b => { b with sfu := b.sfu.filter (· != id) })
      .next (s.landOp o [.v d val] ev)
    | _ => .next s
  | none => .next s

def execVexp2 (d a : Fin 32) (sl : Fin 16) (p : Fin 8) (s : State) : Res := s.sfu d a sl p exp2B
def execVlog2 (d a : Fin 32) (sl : Fin 16) (p : Fin 8) (s : State) : Res := s.sfu d a sl p log2B
def execVrcp (d a : Fin 32) (sl : Fin 16) (p : Fin 8) (s : State) : Res := s.sfu d a sl p rcpB
def execVrsqrt (d a : Fin 32) (sl : Fin 16) (p : Fin 8) (s : State) : Res := s.sfu d a sl p rsqrtB

/-! ## Random numbers (R89 to R91, R214) -/

def causeRNGWRAP : BitVec 8 := 0x16

/-- The eight draws of `vrand` from counter value `c`: lane j is word j mod 4 of G(c + j / 4) (R89, R91). -/
def randLane (c : Csrs) (j : Nat) : Nat :=
  let k1 := (c.rngseed >>> 32).setWidth 32
  (rngBits (c.rngseed.setWidth 32) k1 (c.rngsid.setWidth 32) (c.rngctr + BitVec.ofNat 64 (j / 4))).toNat / 2 ^ (32 * (j % 4)) % 2 ^ 32

def execVrand (d : Fin 32) (p : Fin 8) (s : State) : Res :=
  s.guarded [.p p] [.v (s.vphys d)] false (fun s =>
    let c := s.ctx.c
    let wraps : Bool := 2 ^ 64 ≤ c.rngctr.toNat + 8
    if wraps && c.tstatus.getLsbD 12 then s.raise causeRNGWRAP c.rngctr
    else
      let v := packLanes 4 32 (fun j => if laneOn (s.rp p) 4 j then randLane c j else 0)
      ((s.landV 2 d v).land 1 (.rng (c.rngctr + 8) wraps)).retire)

/-! ## The vector queues (R128, R215) -/

def execVpop (d : Fin 32) (s : State) : Res :=
  s.guarded [] [.v (s.vphys d)] false (fun s =>
    match s.ctx.x.ax with
    | [] => s.waitMsg
    | e :: _ =>
      if e.filled then (((s.landV 1 d e.val).land 1 (.vqPop .ax)).setLc (Clk.max s.lc e.clk)).retire else s.waitMsg)

def execVpush (a : Fin 32) (s : State) : Res :=
  s.guarded [.v (s.vphys a)] [] false (fun s =>
    if 4 ≤ s.ctx.x.xw.length then s.waitMsg else (s.land 1 (.vqPush (s.rv a) s.lc)).retire)

/-! ## Rotating registers and pipelined loops (R216 to R218) -/

def execVrot (n : Fin 16) (s : State) : Res :=
  s.simple [] [] (fun s => s.land 1 (.vrb (s.ctx.c.vrb + BitVec.ofNat 4 n.val)))

/-- `sploop`: registers p4 to p7 are its destinations (R62, R218). -/
def execSploop (x : BitVec 16) (s : State) : Res :=
  s.guarded [] [.p 4, .p 5, .p 6, .p 7] false (fun s =>
    let c := s.ctx.c.spctl
    let lc := getBits c 0 16
    let ec := getBits c 16 16
    let stg := getBits c 32 4
    let go := fun (c : Word) (bit : Nat) =>
      let stg := (stg * 2 + bit) % 16
      s.transfer (s.relTarget x) 0 (fun s =>
        let s := (s.land 1 (.spctl (setBits c 32 4 stg))).land 1 (.vrb (s.ctx.c.vrb + 15))
        (List.range 4).foldl (fun s k =>
          s.landP 1 (Fin.ofNat 8 (4 + k)) (if stg.testBit k then BitVec.allOnes 128 else 0)) s)
    if lc ≠ 0 then go (setBits c 0 16 (lc - 1)) 1
    else if ec ≠ 0 then go (setBits c 16 16 (ec - 1)) 0
    else s.fallThrough 1)

end Sys2Proof.Machine
end

