-- ==== Sys2Proof/Machine/Select.lean ====
section
/-! DEFINITION. Sys2Proof/Machine/Select.lean: ranking and binning in the vector unit, and the select unit (10_routing.md
R250 to R260). -/

namespace Sys2Proof.Machine

open Sys2Proof

/-! ## Ranking (R251, R252) -/

/-- The place of an FP32 value in the order of `vtopk`: -0 below +0, every NaN below all and equal to one another
(R75, R251). -/
def f32Key (x : Nat) : Int :=
  if fmt32.value x = .nan then -(2 ^ 40) else if x < 2 ^ 31 then (x : Int) else -((x - 2 ^ 31 : Nat) : Int) - 1

/-- Inserts an element into a list sorted by `lt`, behind its equals. -/
def insertBy {α : Type} (lt : α → α → Bool) (x : α) : List α → List α
  | [] => [x]
  | y :: r => if lt x y then x :: y :: r else y :: insertBy lt x r

/-- A stable sort. -/
def sortBy {α : Type} (lt : α → α → Bool) (l : List α) : List α := l.foldl (fun a x => insertBy lt x a) []

/-- The key of a lane of type `ty` 2, 6 or 9 (R251). -/
def rankKey (ty x : Nat) : Int := if ty = 9 then f32Key x else readLane (tySigned ty) 32 x

/-- `vtopk`: lane indices by rank within segments of `len` lanes (R251). -/
def execVtopk (d a : Fin 32) (l : Fin 4) (k : Fin 8) (p : Fin 8) (y : Fin 16) (s : State) : Res :=
  s.simple [.v (s.vphys a), .p p] [.v (s.vphys d)] (fun s =>
    let len := 4 * 2 ^ l.val
    let key := fun j => rankKey y.val (laneOf (s.rv a) 4 j)
    let seg := fun q =>
      sortBy (fun i j => decide (key j < key i)) (((List.range len).map (q + ·)).filter (laneOn (s.rp p) 4))
    let segs := (List.range (32 / len)).map (fun i => seg (i * len))
    s.landV 3 d (packLanes 4 32 (fun j =>
      if j % len < k.val + 1 then ((segs[j / len]?.getD [])[j % len]?).getD 0xFFFFFFFF else 0xFFFFFFFF)))

/-- `vsortkv`: key-value lanes sorted within segments (R252). `y` 0 is n32, 1 is n64. -/
def execVsortkv (d a : Fin 32) (l p : Fin 8) (y : Fin 2) (s : State) : Res :=
  s.simple [.v (s.vphys a), .p p] [.v (s.vphys d)] (fun s =>
    let z := 4 * (y.val + 1)
    let n := 128 / z
    let len := 2 * 2 ^ l.val
    let lane := laneOf (s.rv a) z
    let key := fun j => lane j / 2 ^ (4 * z)
    let seg := fun q =>
      sortBy (fun i j => decide (key i < key j)) (((List.range len).map (q + ·)).filter (laneOn (s.rp p) z))
    let segs := (List.range (n / len)).map (fun i => seg (i * len))
    s.landV 3 d (packLanes z n (fun j =>
      match (segs[j / len]?.getD [])[j % len]? with
      | some i => lane i
      | none => 2 ^ (8 * z) - 1)))

/-! ## Bin counters (R253) -/

/-- Counter k of the bin counters. -/
def binAt (x : BitVec 4096) (k : Nat) : Nat := (x.extractLsb' (16 * k) 16).toNat

/-- Bin counters with counter k at value c. -/
def setBin (x : BitVec 4096) (k c : Nat) : BitVec 4096 :=
  BitVec.ofNat 4096 (x.toNat - binAt x k * 2 ^ (16 * k) + c % 2 ^ 16 * 2 ^ (16 * k))

/-- `vbinpos`: `y` 0 to 2 is n8, n16, n32 (R250, R253). -/
def execVbinpos (d a : Fin 32) (p : Fin 8) (y : Fin 4) (s : State) : Res :=
  s.guarded [.v (s.vphys a), .p p] [.v (s.vphys d)] false (fun s =>
    let z := tySize (4 + y.val)
    let n := tyLanes (4 + y.val)
    let top := 2 ^ (8 * z) - 1
    let (bins, xs, e) := (List.range n).foldl (fun (acc : BitVec 4096 × List Nat × Ev) j =>
      let (b, l, e) := acc
      if laneOn (s.rp p) z j then
        let k := laneOf (s.rv a) z j % 256
        let c := binAt b k
        (if c < 0xFFFF then setBin b k (c + 1) else b, l ++ [min c top], e ||| evIf (c = 0xFFFF || top < c) evSAT)
      else (b, l ++ [0], e)) (s.ctx.r.bins, [], 0)
    (((s.land 1 (.bins bins)).landV 3 d (packLanes z n (fun j => (xs[j]?).getD 0))).landEv e).retire)

def execVbinclr (s : State) : Res := s.simple [] [] (fun s => s.land 1 (.bins 0))

def execVbinrd (d a : Fin 32) (s : State) : Res :=
  s.simple [.g a] [.v (s.vphys d)] (fun s =>
    s.landV 1 d (packLanes 2 64 (fun j =>
      let i := (s.rg a).toNat + j
      if i < 256 then binAt s.ctx.r.bins i else 0)))

/-! ## The select unit (R254 to R260) -/

/-- `n` bytes of a selection descriptor from offset `o` (R254). -/
def descField (x : Nat) (o n : Nat) : Nat := x / 2 ^ (8 * o) % 2 ^ (8 * n)

/-- The offset of the first field of a selection descriptor that is out of range, or non-zero where 0 is required
(R255, order 3). -/
def selectBad (col : Bool) (x : Nat) : Option Nat :=
  let rows := descField x 4 2
  let cols := descField x 6 1
  let k := descField x 8 2
  let pitch := descField x 10 2
  let zero := fun (o n : Nat) => descField x o n ≠ 0
  [(4, decide (rows = 0 ∨ 256 < rows)), (6, decide (cols = 0 ∨ 32 < cols)), (7, decide (zero 7 1)),
   (8, decide (k = 0 ∨ (if col then rows else min 8 cols) < k)),
   (10, decide (pitch % 4 ≠ 0 ∨ pitch < 4 * cols)),
   (0x10, col && decide (zero 0x10 4)), (0x14, col && decide (zero 0x14 4)), (0x18, col && decide (zero 0x18 4)),
   (0x1C, col && decide (zero 0x1C 4)), (0x20, !col && decide (zero 0x20 4)), (0x24, decide (zero 0x24 12))].findSome?
    (fun (o, b) => if b then some o else none)

/-- The arrays of a selection: address, extent and alignment, in the order of R255. -/
def selectArrays (col : Bool) (x : Nat) : List (Nat × Nat × Nat) :=
  let rows := descField x 4 2
  let cols := descField x 6 1
  let k := descField x 8 2
  let opt := fun (o n al : Nat) => if descField x o 4 = 0 then [] else [(descField x o 4, n, al)]
  [(descField x 0 4, (rows - 1) * descField x 10 2 + 4 * cols, 4), (descField x 12 4, 8 * k * (if col then cols else rows), 8)] ++
  (if col then opt 0x20 rows 1 else [(descField x 0x10 4, 256, 8)] ++ opt 0x14 64 2 ++ opt 0x18 32 1)

/-- Orders 3 to 5 of R255 on the descriptor at `a`. -/
def selectTrap (col : Bool) (a : Word) (x : Nat) : Option (BitVec 8 × Word) :=
  match selectBad col x with
  | some o => some (causeILLEGAL, a + BitVec.ofNat 64 o)
  | none =>
    let arr := selectArrays col x
    match arr.find? (fun (b, n, _) => windowEnd < b + n) with
    | some (b, _, _) => some (causeLOCALITY, BitVec.ofNat 64 b)
    | none =>
      match arr.find? (fun (b, _, al) => b % al != 0) with
      | some (b, _, _) => some (causeLOADALIGN, BitVec.ofNat 64 b)
      | none => none

namespace State

/-- The policy with which a request is served: POLICY as it stands at issue, and in deterministic mode no replica but TASK
mod NREP is ever chosen (R25, R256, R331). -/
def selPolicy (s : State) : Fin 4 :=
  let p := Fin.ofNat 4 (getBits s.ctx.c.rpolicy 0 2)
  if s.deterministic ∧ p = 2 then 0 else p

/-- The first array of a selection that reaches the hidden records, and the cause: the records, the fill table and the cover
bytes, which stand second and third, are written (R254, R320, DEDUCED, assumption 59). -/
def selectHidden (s : State) (col : Bool) (x : Nat) : Option (BitVec 8 × Word) :=
  ((selectArrays col x).zipIdx.find? (fun ((b, n, _), _) => s.hidesRecords b n)).map (fun ((b, _, _), i) =>
    (if i = 1 ∨ i = 2 then causeSTOREACC else causeLOADACC, BitVec.ofNat 64 b))

/-- `selr` and `selc` (R254, R255, R260). The records of the context cache are hidden from mode T (R320, DEDUCED, assumption
59). -/
def select (s : State) (col : Bool) (sl : Fin 16) (a : Fin 32) : Res :=
  s.guarded [.g a] [] true (fun s =>
    let va := s.rg a
    if !inWindow va 48 then s.raise causeLOCALITY va
    else if va.toNat % 16 ≠ 0 then s.raise causeLOADALIGN va
    else if s.hidesRecords va.toNat 48 then s.raise causeLOADACC va
    else
      let (x, s') := s.localLoad va.toNat 48
      match (selectTrap col va x).or (s.selectHidden col x) with
      | some (c, v) => s.raise c v
      | none =>
        if s.sealFull sl then s
        else if 4 ≤ s.cnib.select.length then s.waitMem
        else
          let s := s'
          let (id, s) := s.newOp sl (.select (BitVec.ofNat 384 x) col s.selPolicy)
          let s := s.modOp id (fun o => { o with due := s.cycle + 8 })
          let s := s.modNib s.cur.nib (fun b => { b with select := b.select ++ [id] })
          ((s.schedule (s.cycle + 8) (.selectService s.cur.nib)).pendSeal sl).retire)

end State

def execSelr (sl : Fin 16) (a : Fin 32) (s : State) : Res := s.select false sl a
def execSelc (sl : Fin 16) (a : Fin 32) (s : State) : Res := s.select true sl a

namespace State

/-! ### Well accesses of an engine -/

/-- A read of nib n's well by an engine with clock lc: the value and the clock after it (R180, R188). -/
def engRead (s : State) (n : NibId) (off size : Nat) (lc : Clk) : Nat × Clk × State :=
  let (t, s) := s.stampRange false (wellPA n off) lc 0 (cellsOf off size)
  (Memory.read s.mem (wellPA n off) size, t, s)

/-- A write of nib n's well by an engine with clock lc (R181, R188). -/
def engWrite (s : State) (n : NibId) (off size x : Nat) (lc : Clk) : Clk × State :=
  let (t, s) := s.stampRange true (wellPA n off) lc 0 (cellsOf off size)
  (t, { s with mem := Memory.write s.mem (wellPA n off) size x })

end State

/-- What the select unit works on: the scores, fills, capacities and replica counts it has read (R256). -/
structure SelIn where
  rows : Nat
  cols : Nat
  k : Nat
  pitch : Nat
  scores : Nat
  hasCap : Bool
  cap : Nat
  hasRepl : Bool
  repl : Nat
  task : Nat
  policy : Nat
deriving DecidableEq, Repr

namespace SelIn

def score (x : SelIn) (r c : Nat) : Nat := descField x.scores (r * x.pitch + 4 * c) 4

/-- NREP of a column (R256). -/
def nrep (x : SelIn) (c : Nat) : Nat := if x.hasRepl then max 1 (min 4 (descField x.repl c 1)) else 1

/-- fill[c][h] of a fill table. -/
def fillAt (fill c h : Nat) : Nat := descField fill (8 * c + 2 * h) 2

/-- A bin has room (R256). -/
def room (x : SelIn) (fill c h : Nat) : Bool := !x.hasCap || fillAt fill c h < descField x.cap (2 * c) 2

/-- Columns of a row by score, greater first, ties to the lower column. -/
def rowOrder (x : SelIn) (r : Nat) : List Nat :=
  sortBy (fun i j => decide (f32Key (x.score r j) < f32Key (x.score r i))) (List.range x.cols)

/-- Takes a bin: the record, and the fill table after it (R256). -/
def take (x : SelIn) (fill r c h : Nat) : Nat × Nat :=
  let n := fillAt fill c h
  (c + h * 2 ^ 8 + n * 2 ^ 16 + x.score r c * 2 ^ 32, fill - n * 2 ^ (8 * (8 * c + 2 * h)) + min (n + 1) 0xFFFF * 2 ^ (8 * (8 * c + 2 * h)))

/-- The record of a dropped choice (R256). -/
def dropped : Nat := 0xFF + 0xFFFF * 2 ^ 16

/-- The tries of policy NEXT: up to `tries` columns from rank f on (R256). -/
def next (x : SelIn) (o : List Nat) (fill r f : Nat) : Nat → Option (Nat × Nat) × Nat
  | 0 => (none, f)
  | tries + 1 =>
    match o[f]? with
    | none => (none, f)
    | some c =>
      let h := x.task % x.nrep c
      if x.room fill c h then (some (x.take fill r c h), f + 1) else x.next o fill r (f + 1) tries

/-- One choice of a row: record, fill table and next fallback rank (R256). -/
def choose (x : SelIn) (o : List Nat) (r fill f i : Nat) : Nat × Nat × Nat :=
  let c := (o[i]?).getD 0
  let h := x.task % x.nrep c
  if x.room fill c h then
    let (rec, fill) := x.take fill r c h
    (rec, fill, f)
  else if x.policy = 1 then
    match x.next o fill r f 2 with
    | (some (rec, fill), f) => (rec, fill, f)
    | (none, f) => (dropped, fill, f)
  else if x.policy = 2 then
    match ((List.range (x.nrep c)).drop 1).find? (fun j => x.room fill c ((x.task + j) % x.nrep c)) with
    | some j =>
      let (rec, fill) := x.take fill r c ((x.task + j) % x.nrep c)
      (rec, fill, f)
    | none => (dropped, fill, f)
  else (dropped, fill, f)

/-- All records of `selr`, as one number from OUT on, and the fill table after them (R256). -/
def selr (x : SelIn) (fill : Nat) : Nat × Nat :=
  (List.range x.rows).foldl (fun (acc : Nat × Nat) r =>
    let (out, fill) := acc
    let o := x.rowOrder r
    let (out, fill, _) := (List.range x.k).foldl (fun (acc : Nat × Nat × Nat) i =>
      let (out, fill, f) := acc
      let (rec, fill, f) := x.choose o r fill f i
      (out + rec * 2 ^ (64 * (r * x.k + i)), fill, f)) (out, fill, x.k)
    (out, fill)) (0, fill)

/-- The rows that `selc` chooses for column c, in rank order (R259). -/
def colRows (x : SelIn) (c : Nat) : List Nat :=
  (sortBy (fun i j => decide (f32Key (x.score j c) < f32Key (x.score i c))) (List.range x.rows)).take x.k

/-- All records of `selc`, and the cover bytes (R259). -/
def selc (x : SelIn) : Nat × Nat :=
  let out := (List.range x.cols).foldl (fun a c =>
    (x.colRows c).zipIdx.foldl (fun a (r, i) => a + (r + x.score r c * 2 ^ 32) * 2 ^ (64 * (c * x.k + i))) a) 0
  let cover := (List.range x.cols).foldl (fun a c => (x.colRows c).foldl (fun a r => a + 2 ^ (8 * r)) a) 0
  (out, cover)

end SelIn

/-- SELECT_SERVICE: the unit takes its next request: it reads the score matrix and the tables and writes the records,
the fill table or the cover bytes; the seal posts when the service ends (R256 to R260). It waits while an array meets a
block that is filling or draining (R161). -/
def execSelectService (n : NibId) (s : State) : Res :=
  match (s.nib n).select with
  | [] => .next s
  | id :: rest =>
    match s.findOp id with
    | none => .next (s.modNib n (fun b => { b with select := rest }))
    | some o =>
      match o.kind with
      | .select desc col policy =>
        if s.cycle < o.due then .next s
        else if s.cycle < (s.nib n).selectFree then .next (s.schedule (s.nib n).selectFree (.selectService n))
        else if (selectArrays col desc.toNat).any (fun y => s.blockBusy n y.1 y.2.1) then
          .next (s.schedule (s.cycle + 1) (.selectService n))
        else
          let x := desc.toNat
          let rows := descField x 4 2
          let cols := descField x 6 1
          let k := descField x 8 2
          let pitch := descField x 10 2
          let (scores, t, s) := s.engRead n (descField x 0 4) ((rows - 1) * pitch + 4 * cols) o.lc
          let opt := fun (s : State) (t : Clk) (off size : Nat) =>
            if descField x off 4 = 0 then (0, t, s) else s.engRead n (descField x off 4) size t
          let (cap, t, s) := opt s t 0x14 64
          let (repl, t, s) := opt s t 0x18 32
          let i : SelIn := ⟨rows, cols, k, pitch, scores, descField x 0x14 4 ≠ 0, cap, descField x 0x18 4 ≠ 0, repl,
            descField x 0x1C 4, policy.val⟩
          let (t, s) :=
            if col then
              let (out, cover) := i.selc
              let (t, s) := s.engWrite n (descField x 12 4) (8 * k * cols) out t
              if descField x 0x20 4 = 0 then (t, s) else s.engWrite n (descField x 0x20 4) rows cover t
            else
              let (fill, t, s) := s.engRead n (descField x 0x10 4) 256 t
              let (out, fill) := i.selr fill
              let (t, s) := s.engWrite n (descField x 12 4) (8 * k * rows) out t
              s.engWrite n (descField x 0x10 4) 256 fill t
          let last := s.cycle + 16 + (if col then cols * (rows + 4) else rows * (cols + 4))
          let s := s.modOp id (fun o => { o with performed := true, due := last, lc := t, tmax := t })
          let s := s.modNib n (fun b => { b with select := rest, selectFree := last })
          .next (if rest.isEmpty then s else s.schedule last (.selectService n))
      | _ => .next (s.modNib n (fun b => { b with select := rest }))

/-- SELECT_POST: the seal posts, with the largest time of the request's accesses (R260). -/
def execSelectPost (id : Nat) (s : State) : Res :=
  match s.findOp id with
  | some o => .next (s.landOp o [] 0)
  | none => .next s

end Sys2Proof.Machine
end

