-- ==== Sys2Proof/Machine/Brush.lean ====
section
/-! DEFINITION. Sys2Proof/Machine/Brush.lean: serifs, landing decrements, tensor slots and the brush (10_routing.md R264 to
R276; 11_exchange.md R295). -/

namespace Sys2Proof.Machine

open Sys2Proof

/-! ## Serifs (R264) -/

def serifStep (x : Nat) : Nat := x / 2 ^ 26 % 64
def serifKind (x : Nat) : Nat := x / 2 ^ 24 % 4
def serifCount (x : Nat) : Nat := x / 2 ^ 16 % 256

/-- A serif with KIND `k`. -/
def setKind (x k : Nat) : Nat := x - serifKind x * 2 ^ 24 + k * 2 ^ 24

/-- A serif after a landing decrement, and whether it woke or found COUNT 0 (R265). -/
def serifDec (x : Nat) (lost : Bool) : Nat × Bool × Bool :=
  let x := if lost && x / 2 ^ 15 % 2 = 0 then x + 2 ^ 15 else x
  if serifCount x = 0 then (x, false, true)
  else
    let x := x - 2 ^ 16
    if serifCount x = 0 ∧ serifKind x = 1 then (setKind x 0, true, false) else (x, false, false)

/-- A serif after `swake`, and whether it woke (R267). -/
def serifWake (x : Nat) : Nat × Bool := if serifKind x = 1 ∨ serifKind x = 2 then (setKind x 0, true) else (x, false)

/-- The windows of a tensor (R268). -/
def Slot.windows (t : Slot) : Nat := (t.count.toNat + 31) / 32

/-- The plane of a slot holds the serif at well offset `off`. -/
def Slot.holds (t : Slot) (off : Nat) : Bool :=
  t.valid && t.serifs.toNat ≤ off && off < t.serifs.toNat + 4 * t.count.toNat

/-- The valid slot of a context whose plane holds a serif. -/
def Ctx.slotAt (c : Ctx) (off : Nat) : Option (Fin 8) := (List.finRange 8).find? (fun t => c.x.slots[t].holds off)

/-- The serif at `off` belongs to a lane of the step block that runs, up to its write-back (R274). -/
def Ctx.blockSerif (c : Ctx) (t : Fin 8) (off : Nat) : Bool :=
  match c.x.sweep with
  | some w =>
    let busy := match w.stage with
      | .run | .writeBack _ => true
      | _ => false
    let e := (off - c.x.slots[t].serifs.toNat) / 4
    busy && w.slot == t && w.cursor == e / 32 + 1 && w.lanes.getLsbD (e % 32)
  | none => false

/-- The serif at `off` belongs to a window that the sweep has taken and not yet loaded (R272, R275). -/
def Ctx.takenSerif (c : Ctx) (t : Fin 8) (off : Nat) : Bool :=
  match c.x.sweep with
  | some w => w.stage == .load && w.slot == t && w.cursor == (off - c.x.slots[t].serifs.toNat) / 128 + 1
  | none => false

def Ctx.modSlot (c : Ctx) (t : Fin 8) (f : Slot → Slot) : Ctx := { c with x := { c.x with slots := c.x.slots.set t (f c.x.slots[t]) } }

def Ctx.modSweep (c : Ctx) (f : Sweep → Sweep) : Ctx := { c with x := { c.x with sweep := c.x.sweep.map f } }

/-- An over-decrement, counted on the slot (R265). -/
def Slot.countOver (t : Slot) : Slot :=
  { t with overdec := true, ovcnt := if t.ovcnt = BitVec.allOnes 16 then t.ovcnt else t.ovcnt + 1 }

/-- An access of the command has been performed at time `t` (R177, R188). -/
def MCmd.took (c : MCmd) (t : Clk) : MCmd := { c with lc := Clk.max c.lc t, tmax := Clk.max c.tmax t }

namespace Matrix

/-- Changes command `id` where it stands in service or stopped. -/
def modCmd (m : Matrix) (id : Nat) (f : MCmd → MCmd) : Matrix :=
  let g := fun (c : MCmd) => if c.id = id then f c else c
  { m with array := m.array.map g, draining := m.draining.map g, stopped := m.stopped.map g }

/-- The command `id` in service. -/
def findCmd (m : Matrix) (id : Nat) : Option MCmd := (m.array.toList ++ m.draining).find? (·.id == id)

end Matrix

/-- A delivered cause arises: the causes of a context are taken in the order in which they arose, and those of one cycle in
the order of their codes (R311). -/
def Ctx.addCause (c : Ctx) (x : Cause) : Ctx :=
  let first := fun (y : Cause) => y.arose < x.arose || (y.arose == x.arose && y.code.toNat ≤ x.code.toNat)
  { c with causes := c.causes.takeWhile first ++ x :: c.causes.dropWhile first }

namespace State

def modMatrix (s : State) (n : NibId) (f : Matrix → Matrix) : State := s.modNib n (fun b => { b with matrix := f b.matrix })

/-- The cause that an engine delivers to a stroke (R244): taken at the end of the first turn from 8 cycles on. -/
def deliver (s : State) (n : NibId) (cid : Nat) (code : BitVec 8) (val : Word) : State :=
  s.modCid n cid (·.addCause ⟨code, val, s.cycle, s.cycle + 8⟩)

/-- The context and slot of a nib whose plane holds the serif at `off` (R265, R269). -/
def planeOf (s : State) (n : NibId) (off : Nat) : Option (Ctx × Fin 8) :=
  (s.contexts n).findSome? (fun c => (c.slotAt off).map (fun t => (c, t)))

/-- Sets the skip bit of the window of a woken serif, an atomic OR at the well performed with the access that woke it, whose
time is `clk` (R181, R266): its own time. -/
def setSkip (s : State) (n : NibId) (c : Ctx) (t : Fin 8) (off : Nat) (clk : Clk) : Clk × State :=
  let x := c.x.slots[t]
  let w := (off - x.serifs.toNat) / 128
  let a := wellPA n (x.skip.toNat + 8 * (w / 64))
  let (u, s) := s.writeStamp a clk
  (u, { s with mem := Memory.write s.mem a 8 (Memory.read s.mem a 8 ||| 2 ^ (w % 64)) })

/-- The serif at `off` is a word of a declared plane that the access has woken: its window's skip bit is set (R266), and a sweep
that has taken the window and not yet loaded it leaves the serif to the next sweep (R275). -/
def wakeSerif (s : State) (n : NibId) (off : Nat) (woke : Bool) (clk : Clk) : Clk × State :=
  match s.planeOf n off with
  | some (c, t) =>
    if woke then
      let s := if c.takenSerif t off then s.modCid n c.cid (fun c => c.modSweep (fun w =>
          { w with late := w.late ||| BitVec.twoPow 32 ((off - c.x.slots[t].serifs.toNat) / 4 % 32) })) else s
      s.setSkip n c t off clk
    else (clk, s)
  | none => (clk, s)

/-- A landing decrement, or a lost landing, that takes place at time `clk` acts on a serif (R265, R266): the time of its last
write. -/
def serifDecNow (s : State) (n : NibId) (off : Nat) (lost : Bool) (clk : Clk) : Clk × State :=
  let pa := wellPA n off
  let (x, woke, below) := serifDec (Memory.read s.mem pa 4) lost
  let s := { s with mem := Memory.write s.mem pa 4 x }
  let s := match s.planeOf n off with
    | none => s
    | some (c, t) => s.modCid n c.cid (fun c => c.modSlot t (fun y =>
        let y := if below then y.countOver else y
        if lost then { y with lostSeen := true } else y))
  s.wakeSerif n off woke clk

/-- `swake` acts on a serif at time `clk` (R267): the time of its last write. -/
def serifWakeNow (s : State) (n : NibId) (off : Nat) (clk : Clk) : Clk × State :=
  let pa := wellPA n off
  let (x, woke) := serifWake (Memory.read s.mem pa 4)
  ({ s with mem := Memory.write s.mem pa 4 x } : State).wakeSerif n off woke clk

/-- A landing decrement or a lost landing reaches nib n (R265, R274), by an agent with clock `clk`: its time. It is recorded
while its lane is in a step block. -/
def decrement (s : State) (n : NibId) (off : Nat) (lost : Bool) (clk : Clk) : Clk × State :=
  let (t, s) := s.writeStamp (wellPA n off) clk
  match s.planeOf n off with
  | some (c, i) =>
    if c.blockSerif i off then
      (t, s.modCid n c.cid (fun c => c.modSweep (fun w => { w with merges := w.merges ++ [.dec off lost t] })))
    else s.serifDecNow n off lost t
  | none => s.serifDecNow n off lost t

/-- Clears the oldest expectation of nib n for this serif and this destination (R295). -/
def clearExpect (s : State) (n : NibId) (off : Nat) (src : BitVec 32) : State :=
  match takeFirst (fun (e : Expect) => e.serif == off && e.dest == src) (s.nib n).expects with
  | some (_, r) => s.modNib n (fun b => { b with expects := r })
  | none => s

/-- The unit that a loss notice names: bits [31:12] of a nib number, and bit 0 set for a folio, clear for the whole
module. -/
def noticeNames (x nib : BitVec 32) : Bool :=
  x.extractLsb' 16 16 == nib.extractLsb' 16 16 && (!x.getLsbD 0 || x.extractLsb' 12 4 == nib.extractLsb' 12 4)

/-- Nib n has acted on the loss of the folio or module that holds nib number `src` (R296, R386): a nib without a notice on
its way has. -/
def deafTo (s : State) (n : NibId) (src : BitVec 32) : Bool :=
  let m := src.extractLsb' 16 16
  let told := !s.agenda.any (fun e => match e.2 with
    | .lossNotice k x => k == n && noticeNames x src
    | _ => false)
  told && ((m == s.modu.modn && s.folios[Fin.ofNat 16 (src.extractLsb' 12 4).toNat].lost) || s.modu.gone.contains m)

end State

/-- A landing decrement has been performed at time `t`, which its command's post will carry: the command may have no access
left (R187, R234, R236, R292). -/
def State.decrDone (s : State) (o : Op) (t : Clk) : State :=
  match o.kind with
  | .decr _ _ _ owner =>
    match s.findOp owner with
    | some p =>
      let s := s.modOp owner (fun p => { p with lc := Clk.max p.lc t, tmax := Clk.max p.tmax t })
      s.schedule s.cycle (match p.kind with | .send .. => .sendComplete owner | _ => .copyComplete owner)
    | none =>
      (s.modMatrix o.nib (·.modCmd owner (·.took t))).schedule s.cycle (.matrixPost owner)
  | _ => s

/-- LANDING_DECREMENT: a decrement on its way from an engine of nib `src` is performed on the serif at offset `x` of nib
n's well and clears its expectation, unless n has acted on the loss of the unit it comes from (R265, R295, R296). -/
def execLandingDecrement (n : NibId) (x : BitVec 64) (src : NibId) (s : State) : Res :=
  let sent := s.ops.find? (fun o => match o.kind with
    | .decr _ pa y _ => pa == wellPA n x.toNat && y == s.nibNumber src
    | _ => false)
  let clk := (sent.map (·.tmax)).getD (s.stampOf (wellPA n x.toNat / 64 * 64)).1
  let s := match sent with
    | some o => s.dropOp o.id
    | none => s
  let (t, s) :=
    if s.deafTo n (s.nibNumber src) then (clk, s)
    else
      let (t, s) := s.decrement n x.toNat false clk
      (t, s.clearExpect n x.toNat (s.nibNumber src))
  .next (match sent with
    | some o => s.decrDone o t
    | none => s)

/-! ## `swake`, `sstat`, `sdecl` (R267 to R270) -/

/-- `swake` (R267): a local-form access of S; in a running block the brush records it (R274). The records of the context cache
are hidden from mode T (R320, DEDUCED, assumption 59). -/
def execSwake (t : Fin 8) (a : Fin 32) (s : State) : Res :=
  s.guarded [.g a] [] false (fun s =>
    let slot := s.ctx.x.slots[t]
    let e := (s.rg a).toNat
    if !slot.valid || slot.count.toNat ≤ e then s.raise causeSWEEPFAULT (s.rg a)
    else
      let off := slot.serifs.toNat + 4 * e
      if s.hidesRecords off 4 then s.raise causeSTOREACC (BitVec.ofNat 64 off)
      else
      let s := s.keepOld (wellPA s.cur.nib off) 4
      let (u, s) := s.writeStamp (wellPA s.cur.nib off) s.lc
      let s := s.setLc u
      if s.ctx.blockSerif t off then
        (s.modCtx (fun c => c.modSweep (fun w => { w with merges := w.merges ++ [.wake off u] }))).retire
      else
        let s := s.keepOld (wellPA s.cur.nib (slot.skip.toNat + 8 * (e / 2048))) 8
        let (u, s) := s.serifWakeNow s.cur.nib off u
        (s.setLc u).retire)

/-- The status word of a slot (R270). -/
def Slot.status (t : Slot) : Word :=
  t.sweeps ++ t.ovcnt ++ (0 : BitVec 12) ++ BitVec.ofBool t.lostSeen ++ BitVec.ofBool t.overdec ++ BitVec.ofBool t.running ++
    BitVec.ofBool t.valid

def execSstat (d : Fin 32) (t : Fin 8) (s : State) : Res :=
  s.simple [] [.g d] (fun s => s.landG 1 d s.ctx.x.slots[t].status)

/-- Order 4 of R269: the offset of the first field that fails. -/
def sdeclBad (x : Nat) : Option Nat :=
  let count := descField x 12 4
  let nw := (count + 31) / 32
  let arr := fun (o al n : Nat) => descField x o 4 % al ≠ 0 ∨ windowEnd < descField x o 4 + n
  [(12, decide (65536 < count)), (0x10, decide (arr 0x10 128 (4 * count))),
   (0x14, decide (arr 0x14 8 (8 * ((nw + 63) / 64)))), (0x18, decide (arr 0x18 4 256)),
   (0x1C, decide (descField x 0x1C 4 ≠ 0))].findSome? (fun (o, b) => if b then some o else none)

/-- Two planes of n and m serifs overlap; an empty one meets none. -/
def planesMeet (a n b m : Nat) : Bool := 0 < n && 0 < m && a < b + 4 * m && b < a + 4 * n

/-- `sdecl` (R268, R269). The records of the context cache are hidden from mode T, also as a plane, skip map or step table (R320,
DEDUCED, assumption 59). -/
def execSdecl (t : Fin 8) (a : Fin 32) (s : State) : Res :=
  s.guarded [.g a] [] false (fun s =>
    let va := s.rg a
    let fault := fun (v : Word) => s.raise causeSWEEPFAULT v
    if s.inBlock then fault s.pc
    else if !State.inWindow va 32 then s.raise causeLOCALITY va
    else if va.toNat % 32 ≠ 0 then s.raise causeLOADALIGN va
    else if s.hidesRecords va.toNat 32 then s.raise causeLOADACC va
    else if (match s.ctx.x.sweep with | some w => w.slot == t | none => false) then fault va
    else
      let (x, s') := s.localLoad va.toNat 32
      match sdeclBad x with
      | some o => fault (va + BitVec.ofNat 64 o)
      | none =>
        let base := descField x 0x10 4
        let count := descField x 12 4
        let meets := (s.contexts s.cur.nib).any (fun c => (List.finRange 8).any (fun u =>
          let y := c.x.slots[u]
          !(c.cid == s.ctx.cid && u == t) && y.valid && planesMeet base count y.serifs.toNat y.count.toNat))
        let skip := descField x 0x14 4
        let steps := descField x 0x18 4
        if meets then fault (va + 0x10)
        else if count != 0 && s.hidesRecords base (4 * count) then s.raise causeSTOREACC (BitVec.ofNat 64 base)
        else if count != 0 && s.hidesRecords skip (8 * ((count + 2047) / 2048)) then s.raise causeSTOREACC (BitVec.ofNat 64 skip)
        else if count != 0 && s.hidesRecords steps 256 then s.raise causeLOADACC (BitVec.ofNat 64 steps)
        else
          let slot : Slot := { Slot.reset with
            valid := count ≠ 0, ebase := BitVec.ofNat 64 (descField x 0 8), estride := BitVec.ofNat 32 (descField x 8 4)
            count := BitVec.ofNat 32 count, serifs := BitVec.ofNat 32 base, skip := BitVec.ofNat 32 skip
            steps := BitVec.ofNat 32 steps }
          (s'.land 1 (.slot t slot)).retire)

/-! ## Sweeps (R271 to R276) -/

/-- `sweep`: the members are found at the end of the turn (R271). -/
def execSweep (t : Fin 8) (sl : Fin 16) (s : State) : Res :=
  s.guarded [] [] true (fun s =>
    if !s.ctx.x.slots[t].valid then s.raise causeSWEEPFAULT (BitVec.ofNat 64 t.val)
    else if s.inBlock then s.raise causeSWEEPFAULT s.pc
    else if s.sealFull sl then s
    else
      let w : Sweep := { slot := t, sl := sl, members := [], running := [], back := [], cursor := 0, stage := .read
                         notBefore := s.tn + 1, snap := 0, late := 0, last := 0, step := 0, lanes := 0, began := 0, merges := [], lc := s.lc
                         paused := 0 }
      ((s.modCtx (fun c => { c with x := { c.x with sweep := some w } })).pendSeal sl).retire)

/-- Lane j of a window's serifs. -/
def snapLane (v : Vec) (j : Nat) : Nat := laneOf v 4 j

/-- The lanes of window w that are elements of the tensor. -/
def realLanes (t : Slot) (w : Nat) : List Nat := (List.range 32).filter (fun j => 32 * w + j < t.count.toNat)

/-- The awake lanes of a snap at a step of `last` or above; `last` is the last step run plus 1 (R272). -/
def awake (t : Slot) (w last : Nat) (snap : Vec) : List Nat :=
  (realLanes t w).filter (fun j => serifKind (snapLane snap j) = 0 && last ≤ serifStep (snapLane snap j))

/-- The well ranges that the brush reaches next: a skip word, or the window's skip word and serifs, with the step table before a
block starts (R272, R273). -/
def Sweep.ranges (w : Sweep) (t : Slot) : List (Nat × Nat) :=
  let skip := fun (i : Nat) => (t.skip.toNat + 8 * (i / 64), 8)
  let win := w.cursor - 1
  let plane := (t.serifs.toNat + 128 * win, 4 * (realLanes t win).length)
  match w.stage with
  | .read => [skip (min w.cursor (t.windows - 1))]
  | .start => [skip win, plane, (t.steps.toNat, 256)]
  | _ => [skip win, plane]

namespace State

def modSweepAt (s : State) (n : NibId) (k : Fin 8) (f : Sweep → Sweep) : State := s.modCtxAt n k (fun c => c.modSweep f)

/-- After a load or a write-back: the next step block is selected, or the window is left and the next read follows in
the same turn (R272, R276). -/
def afterSnap (s : State) (n : NibId) (k : Fin 8) (w : Sweep) (t : Slot) : State :=
  let win := w.cursor - 1
  if (awake t win w.last w.snap).isEmpty then
    let left := (realLanes t win).any (fun j => serifKind (snapLane w.snap j) = 0)
    let (lc, s) :=
      if left then
        let off := t.skip.toNat + 8 * (win / 64)
        let (x, lc, s) := s.engRead n off 8 w.lc
        s.engWrite n off 8 (x ||| 2 ^ (win % 64)) lc
      else (w.lc, s)
    s.modSweepAt n k (fun _ => { w with stage := .read, notBefore := s.tn, lc := lc })
  else s.modSweepAt n k (fun _ => { w with stage := .start, notBefore := s.tn + 1 })

/-- The sweep is over: SWEEPS rises, the seal posts, and the members issue again from the turn after (R134, R272, R276). A fault
of the sweep itself (`done` false) leaves SWEEPS (DEDUCED, assumption 68). -/
def endSweep (s : State) (n : NibId) (k : Fin 8) (w : Sweep) (done : Bool) : State :=
  let xob := (s.stroke n k).ctx.c.xob.toNat
  let after := fun (q : Seq) (x : SeqSt) =>
    if !w.members.contains q then x
    else
      match w.back.lookup q with
      | none => x
      | some a =>
        if q = .s then { x.enter a with lost := 1 }
        else
          let f := searchAfter (s.wellWord n) xob q (a.toNat + 4)
          { x with pc := BitVec.ofNat 64 f.pc, lost := lostFor f.lines + 1, checked := f.ok, thr := none, joining := false }
  s.modCtxAt n k (fun c =>
    let c := c.modSlot w.slot (fun t => { t with running := false, sweeps := if done then t.sweeps + 1 else t.sweeps })
    { c with
      r := c.r.post w.sl w.lc
      x := { c.x with sweep := none }
      seqs := Vector.ofFn (fun (q : Fin 4) => after (Seq.ofIdx q) c.seqs[q]) })

/-- The sweep of stroke k of nib n, with its slot, when the brush may act in this turn (R276): it waits while a range that it is
to reach meets a block that is filling or draining (R161). -/
def brushAt (s : State) (n : NibId) (k : Fin 8) : Option (Sweep × Slot) :=
  match (s.stroke n k).ctx.x.sweep with
  | some w =>
    let t := (s.stroke n k).ctx.x.slots[w.slot]
    if w.paused = 0 ∧ w.notBefore ≤ s.tn ∧ !(w.ranges t).any (fun r => s.blockBusy n r.1 r.2) then some (w, t) else none
  | none => none

/-- A register that the brush writes is pending (R276). -/
def brushBlocked (s : State) (n : NibId) (k : Fin 8) : Bool :=
  let r := (s.stroke n k).ctx.r
  [RegRef.g 28, .g 29, .g 30, .v 14, .v 15, .p 3].any r.pending

/-- A fixed-latency result that a member has issued in the running block is still to land, in flight or as a late-write
record (R63, R274). -/
def blockLanding (s : State) (n : NibId) (k : Fin 8) (w : Sweep) : Bool :=
  let c := (s.stroke n k).ctx
  c.inflight.any (fun l => match l.eff with
    | .reg _ => w.members.contains l.seq && w.began ≤ l.issued
    | _ => false) || c.lateWrites.any (fun l => w.members.contains l.seq && w.began ≤ l.issued)

end State

/-- BRUSH_READ: one skip word is read and the lowest window beyond the cursor is taken; the read that takes none at the last
window is the final one, and ends the sweep in its turn (R272, R276). Where no window is left, it is the map's last word that is
read (DEDUCED, assumption 67). -/
def execBrushRead (n : NibId) (k : Fin 8) (s : State) : Res :=
  match s.brushAt n k with
  | none => .next s
  | some (w, t) =>
    match w.stage with
    | .read =>
      let nw := t.windows
      let word := min (w.cursor / 64) ((nw - 1) / 64)
      let (x, lc, s) := s.engRead n (t.skip.toNat + 8 * word) 8 w.lc
      match (List.range 64).find? (fun b => x.testBit b && w.cursor ≤ 64 * word + b && 64 * word + b < nw) with
      | some b => .next (s.modSweepAt n k (fun w =>
          { w with cursor := 64 * word + b + 1, stage := .load, late := 0, notBefore := s.tn + 1, lc := lc }))
      | none =>
        let c := min (64 * word + 64) nw
        if c = nw then .next (s.endSweep n k { w with cursor := c, lc := lc } true)
        else .next (s.modSweepAt n k (fun w => { w with cursor := c, notBefore := s.tn + 1, lc := lc }))
    | _ => .next s

/-- BRUSH_LOAD: the taken window's skip bit is cleared and its serifs are copied (R272, R276). Where a wake has reached the
window since the read, the bit stays set, and the copy holds the serif as one that is not awake (R275). -/
def execBrushLoad (n : NibId) (k : Fin 8) (s : State) : Res :=
  match s.brushAt n k with
  | none => .next s
  | some (w, t) =>
    if w.stage = .load then
      let win := w.cursor - 1
      let off := t.skip.toNat + 8 * (win / 64)
      let (x, lc, s) := s.engRead n off 8 w.lc
      let bit := if x.testBit (win % 64) && w.late == 0 then 2 ^ (win % 64) else 0
      let (lc, s) := s.engWrite n off 8 (x - bit) lc
      let (v, lc, s) := s.engRead n (t.serifs.toNat + 128 * win) (4 * (realLanes t win).length) lc
      let lane := fun (j : Nat) => snapLane (BitVec.ofNat 1024 v) j
      let snap := packLanes 4 32 (fun j => if w.late.getLsbD j then setKind (lane j) 1 else lane j)
      .next (s.afterSnap n k { w with snap := snap, late := 0, last := 0, lc := lc } t)
    else .next s

/-- STEP_BLOCK_START: the brush writes the block's registers and starts the members at the step's entry; a bad table
word stops the sweep as a fault (R273, R276). -/
def execStepBlockStart (n : NibId) (k : Fin 8) (s : State) : Res :=
  match s.brushAt n k with
  | none => .next s
  | some (w, t) =>
    if w.stage = .start ∧ !s.brushBlocked n k then
      let win := w.cursor - 1
      let lanes := awake t win w.last w.snap
      let step := lanes.foldl (fun m j => min m (serifStep (snapLane w.snap j))) 63
      let mine := lanes.filter (fun j => serifStep (snapLane w.snap j) = step)
      let tab := t.steps.toNat + 4 * step
      let (entry, lc, s) := s.engRead n tab 4 w.lc
      if entry = 0 ∨ entry % 32 ≠ 0 then
        let off := t.skip.toNat + 8 * (win / 64)
        let (x, lc, s) := s.engRead n off 8 lc
        let (lc, s) := s.engWrite n off 8 (x ||| 2 ^ (win % 64)) lc
        let s := s.endSweep n k { w with lc := lc } false
        .next (s.modCtxAt n k (·.addCause ⟨causeSWEEPFAULT, BitVec.ofNat 64 tab, s.cycle, s.cycle + 8⟩))
      else
        let (v, lc, s) := s.engRead n (t.serifs.toNat + 128 * win) (4 * (realLanes t win).length) lc
        let v14 := packLanes 4 32 (fun j => 32 * win + j)
        let g29 := t.ebase + BitVec.ofNat 64 (32 * win * t.estride.toNat)
        let s := s.modCtxAt n k (fun c =>
          let r := [RegWrite.v 14 v14, .v 15 (BitVec.ofNat 1024 v), .p 3 (packPred 4 32 (fun j => mine.contains j)),
            .g 28 (BitVec.ofNat 64 (t.serifs.toNat + 128 * win)), .g 29 g29, .g 30 (t.estride.setWidth 64)].foldl Regs.write c.r
          { c with
            r := r
            seqs := Vector.ofFn (fun (q : Fin 4) =>
              if w.members.contains (Seq.ofIdx q) then c.seqs[q].enter (BitVec.ofNat 64 entry) else c.seqs[q]) })
        .next (s.modSweepAt n k (fun _ =>
          { w with stage := .run, step := step, lanes := BitVec.ofNat 32 (bitsOf 32 (fun j => mine.contains j)),
                   running := w.members, began := s.tn, merges := [], lc := lc }))
    else .next s

/-- WRITE_BACK: the brush stores v15's lanes, applies the recorded accesses in order, and selects what follows (R272,
R274, R276). -/
def execWriteBack (n : NibId) (k : Fin 8) (s : State) : Res :=
  match s.brushAt n k with
  | none => .next s
  | some (w, t) =>
    match w.stage with
    | .writeBack e =>
      if s.tn < e + 1 || s.blockLanding n k w || (s.stroke n k).ctx.r.pending (.v 15) then .next s
      else
        let win := w.cursor - 1
        let v15 := (s.stroke n k).ctx.r.v[15]
        let mine := (List.range 32).filter (fun j => w.lanes.getLsbD j)
        let (lc, s) := mine.foldl (fun (acc : Clk × State) j =>
          acc.2.engWrite n (t.serifs.toNat + 128 * win + 4 * j) 4 (laneOf v15 4 j) acc.1) (w.lc, s)
        let snap := packLanes 4 32 (fun j => if w.lanes.getLsbD j then laneOf v15 4 j else snapLane w.snap j)
        let s := s.modSweepAt n k (fun w => { w with stage := .read, merges := [] })
        let (lc, s) := w.merges.foldl (fun (acc : Clk × State) m => match m with
          | .dec off lost t =>
            let (u, s) := acc.2.writeStamp (wellPA n off) (Clk.max acc.1 t)
            s.serifDecNow n off lost u
          | .wake off t =>
            let (u, s) := acc.2.writeStamp (wellPA n off) (Clk.max acc.1 t)
            s.serifWakeNow n off u) (lc, s)
        let t := (s.stroke n k).ctx.x.slots[w.slot]
        .next (s.afterSnap n k { w with snap := snap, last := w.step + 1, merges := [], lc := lc } t)
    | _ => .next s

end Sys2Proof.Machine
end

