-- ==== Sys2Proof/Machine/System.lean ====
section
/-! DEFINITION. Sys2Proof/Machine/System.lean: system calls and returns, the ready queue, the timer, well locks and the
context instructions (12_system.md R313 to R329). -/

namespace Sys2Proof.Machine

open Sys2Proof

def causeECALLT : BitVec 8 := 0x08
def causeECALLK : BitVec 8 := 0x09
def causeBREAK : BitVec 8 := 0x03

/-! ## Traps by instruction, and the return from one (R313, R315, R316) -/

/-- `ecall`: the saved PC is what sequential flow gives next (R38, R313). -/
def execEcall (s : State) : Res :=
  s.guarded [] [] false (fun s =>
    s.raiseAt (if s.turn.mode = .t then causeECALLT else causeECALLK) 0 (BitVec.ofNat 64 s.nextFound.pc))

/-- `ebreak`: traps BREAK, or stops with reason BREAK where DCTL.EBRK arms it, in every mode (R316, R333, DEDUCED,
assumption 22). -/
def execEbreak (s : State) : Res :=
  s.guarded [] [] false (fun s =>
    if s.cst.dbg.ebrk then { s.retire with turn := { s.retire.turn with halt := some 2 } }
    else s.raise causeBREAK s.pc)

/-- The sequencers as `tret` resumes them, at the saved PCs (R33, R134, R315). -/
def Ctx.resumeSeqs (c : Ctx) : Vector SeqSt 4 := Vector.ofFn (fun (q : Fin 4) => (c.seqs[q]).back c.c.tpc[q])

/-- The return from a trap (R315): mode, IE and TS are restored and every sequencer resumes at its saved PC. -/
def Ctx.tret (c : Ctx) : Ctx :=
  { c with
    c := { c.c with
      mode := Mode.ofCode (getBits c.c.tstatus 4 2)
      tstatus := setBits (setBits c.c.tstatus 0 1 (getBits c.c.tstatus 1 1)) 8 1 0 }
    x := { c.x with sweep := c.x.sweep.map (fun w => { w with paused := w.paused - 1 }) }
    seqs := c.resumeSeqs }

/-- `tret` (R315): instructions of A, X and W of the same turn complete in the handler's streams. -/
def execTret (s : State) : Res :=
  let pprv := getBits s.ctx.c.tstatus 4 2
  if s.turn.mode = .t ∨ (s.turn.mode = .k ∧ 2 ≤ pprv) ∨ pprv = 3 then .next s.illegal
  else
    s.guarded [] [] false (fun s =>
      let s := s.markIssued
      let s := { s with turn := { s.turn with
        tret := true, seqs := s.ctx.seqs, status := s.ctx.c.tstatus
        paused := (s.ctx.x.sweep.map Sweep.paused).getD 0 } }
      s.modCtx Ctx.tret)

/-- `wfm`: S waits while no message waits and no enabled interrupt is pending (R316). -/
def execWfm (s : State) : Res :=
  s.guarded [] [] false (fun s =>
    if s.cst.mailbox.isEmpty && s.csrRead .tip &&& s.ctx.c.tie = 0 then s.waitMsg else s.retire)

/-- `halt`: a debug stop with reason HALT at the end of the turn (R316). -/
def execHalt (s : State) : Res :=
  if s.turn.mode = .t then .next s.illegal
  else s.guarded [] [] false (fun s => { s.retire with turn := { s.retire.turn with halt := some 3 } })

/-- `fence.i`: every sequencer issues nothing in turn t+1 (R316). -/
def execFenceI (s : State) : Res :=
  s.guarded [] [] false (fun s => { s.retire with turn := { s.retire.turn with fence := true } })

/-! ## The ready queue (R324 to R326) -/

/-- The priority of a ready-queue id (R324). -/
def rqPrio (x : Fin 64) : Fin 4 := ⟨x.val / 16, by omega⟩

/-- The code of a state (R324). -/
def RqState.code : RqState → Nat
  | .free => 0
  | .ready => 1
  | .running => 2
  | .sleeping => 3
  | .saving => 4

namespace Nib

def setRq (b : Nib) (x : Fin 64) (st : RqState) (wake : Bool) : Nib :=
  { b with rq := b.rq.set x { b.rq[x] with st := st, wakePend := wake } }

/-- The task of an id has been taken to run (R355). -/
def rqTaken (b : Nib) (x : Fin 64) : Nib := { b with rq := b.rq.set x { b.rq[x] with ran := true } }

/-- The id becomes READY at the tail of its priority's list (R324). -/
def rqReady (b : Nib) (x : Fin 64) (wake : Bool) : Nib :=
  let b := b.setRq x .ready wake
  { b with rqLists := b.rqLists.set (rqPrio x) (b.rqLists[rqPrio x] ++ [x]) }

/-- `rqpush` in the table of R324; none is ILLEGAL. -/
def rqPush (b : Nib) (x : Fin 64) : Option Nib :=
  match b.rq[x].st with
  | .free | .sleeping => some (b.rqReady x b.rq[x].wakePend)
  | .saving => some (b.rqReady x false)
  | _ => none

/-- `rqpop`: the head of the highest non-empty list becomes RUNNING (R324, R325). -/
def rqPop (b : Nib) : Option (Fin 64 × Nib) :=
  match [0, 1, 2, 3].find? (fun i => !b.rqLists[(i : Fin 4)].isEmpty) with
  | some i =>
    match b.rqLists[i] with
    | x :: r => some (x, (({ b with rqLists := b.rqLists.set i r }).setRq x .running b.rq[x].wakePend).rqTaken x)
    | [] => none
  | none => none

/-- `rqpark` in the table of R324. -/
def rqPark (b : Nib) (x : Fin 64) : Option Nib :=
  match b.rq[x].st with
  | .running => some (b.setRq x .sleeping b.rq[x].wakePend)
  | .saving => some (if b.rq[x].wakePend then b.rqReady x false else b.setRq x .sleeping false)
  | _ => none

/-- `rqstate` in the table of R324: bit 8 SAVE, bit 9 FREE. -/
def rqChange (b : Nib) (x : Fin 64) (save free : Bool) : Option Nib :=
  match b.rq[x].st with
  | .ready => if free then none else some b
  | .running => some (if save then b.setRq x .saving b.rq[x].wakePend else if free then b.setRq x .free false else b)
  | .sleeping | .saving => some (if free then b.setRq x .free false else b)
  | .free => some b

/-- A message for the task reaches the nib (R324). -/
def rqMessage (b : Nib) (x : Fin 64) : Nib :=
  match b.rq[x].st with
  | .sleeping => b.rqReady x b.rq[x].wakePend
  | .saving => b.setRq x .saving true
  | _ => b

end Nib

namespace State

/-- An instruction that only mode K may run (R325, R327): in another mode it traps ILLEGAL ahead of the register checks (DESIGN
CHOICE, assumption 79). -/
def kernelOnly (s : State) (r : State → Res) : Res := if s.turn.mode = .k then r s else .next s.illegal

/-- ILLEGAL with a register as `tval` (R325). -/
def illegalVal (s : State) (x : Word) : State := s.raise causeILLEGAL x

end State

def execRqpush (a b : Fin 32) (s : State) : Res :=
  s.kernelOnly (fun s => s.guarded [.g a, .g b] [] false (fun s =>
    let x := s.rg a
    let id : Fin 64 := BitVec.toFin (x.setWidth 6)
    if 64 ≤ x.toNat then s.illegalVal x
    else
      match s.cnib.rqPush id with
      | none => s.illegalVal x
      | some n =>
        let n := { n with rq := n.rq.set id { n.rq[id] with tag := (s.rg b).setWidth 48 } }
        (s.setNib s.cur.nib n).retire))

def execRqpop (d : Fin 32) (s : State) : Res :=
  s.kernelOnly (fun s => s.guarded [] [.g d] false (fun s =>
    match s.cnib.rqPop with
    | none => (s.landG 1 d 0).retire
    | some (x, n) =>
      let r : Word := BitVec.ofNat 64 (2 ^ 63 + (n.rq[x].tag.toNat % 2 ^ 48) * 2 ^ 8 + x.val)
      ((s.setNib s.cur.nib n).landG 1 d r).retire))

def execRqpark (a : Fin 32) (s : State) : Res :=
  s.kernelOnly (fun s => s.guarded [.g a] [] false (fun s =>
    let x := s.rg a
    if 64 ≤ x.toNat then s.illegalVal x
    else
      match s.cnib.rqPark (BitVec.toFin (x.setWidth 6)) with
      | none => s.illegalVal x
      | some n => (s.setNib s.cur.nib n).retire))

/-- `rqstate` (R325): an id that it frees is one for which a task of the kernel's list may wait (R387). -/
def execRqstate (d a : Fin 32) (s : State) : Res :=
  s.kernelOnly (fun s => s.guarded [.g a] [.g d] false (fun s =>
    let x := s.rg a
    let id : Fin 64 := BitVec.toFin (x.setWidth 6)
    let save := x.getLsbD 8
    let free := x.getLsbD 9
    if x &&& ~~~ 0x33F ≠ 0 || (save && free) then s.illegalVal x
    else
      match s.cnib.rqChange id save free with
      | none => s.illegalVal x
      | some n =>
        let r := s.cnib.rq[id]
        let old : Word := BitVec.ofNat 64 (r.tag.toNat * 2 ^ 8 + r.wakePend.toNat * 8 + r.st.code)
        let s := s.setNib s.cur.nib n
        let s := if free && !n.waiting.isEmpty then s.schedule s.cycle (.loadBalance (.refill s.cur.nib)) else s
        (s.landG 1 d old).retire))

/-! ## The timer (R327) -/

def execTmset (a b : Fin 32) (s : State) : Res :=
  s.kernelOnly (fun s => s.guarded [.g a, .g b] [] false (fun s =>
    if 8 ≤ (s.rg a).toNat then s.illegal
    else (s.land 1 (.timer (BitVec.toFin ((s.rg a).setWidth 3)) (s.rg b))).retire))

/-! ## Well locks (R329) -/

namespace State

/-- The locks of the nib in force or granted: stroke, base, length. -/
def grantedLocks (s : State) : List (Fin 8 × Nat × Nat) :=
  s.cnib.locks.map (fun l => (l.owner, l.base, l.len)) ++
  ((List.finRange 8).map (fun k => (s.stroke s.cur.nib k).ctx.inflight.filterMap (fun l => match l.eff with
    | .lock b n => some (k, b, n)
    | _ => none))).flatten

/-- Removes stroke k of nib n from those that wait for a lock. -/
def unwaitLock (s : State) (n : NibId) (k : Fin 8) : State :=
  s.modNib n (fun b => { b with lockWait := b.lockWait.filter (fun x => x.1 != k) })

end State

/-- `wlock` waits while its range overlaps one that another stroke has locked, or every entry is in use; waiting attempts
are granted in the order of their first attempts, so one lets an earlier that could be granted now go first (R329, DESIGN
CHOICE, assumption 46). -/
def execWlock (a b : Fin 32) (s : State) : Res :=
  s.guarded [.g a, .g b] [] false (fun s =>
    let base := (s.rg a).toNat
    let len := (s.rg b).toNat
    if base % 64 ≠ 0 ∨ len % 64 ≠ 0 ∨ len < 64 ∨ windowEnd < len ∨ windowEnd < base + len then s.illegalVal (s.rg a)
    else
      let held := s.grantedLocks
      let free : Fin 8 × Nat × Nat → Bool := fun x => held.length < 16 &&
        !held.any (fun (k, c, n) => k != x.1 && x.2.1 < c + n && c < x.2.1 + x.2.2)
      let listed := s.cnib.lockWait.any (fun x => x.1 == s.cur.k)
      if !free (s.cur.k, base, len) || (listed && (s.cnib.lockWait.takeWhile (fun x => x.1 != s.cur.k)).any free) then
        let s := if listed then s
          else s.modNib s.cur.nib (fun y => { y with lockWait := y.lockWait ++ [(s.cur.k, base, len)] })
        s.waitMsg
      else ((s.unwaitLock s.cur.nib s.cur.k).land 1 (.lock base len)).retire)

def execWunlock (a : Fin 32) (s : State) : Res :=
  s.guarded [.g a] [] false (fun s =>
    if s.cnib.locks.any (fun l => l.owner == s.cur.k && l.base == (s.rg a).toNat) then
      (s.land 1 (.unlock (s.rg a).toNat)).retire
    else s.illegalVal (s.rg a))

/-! ## Contexts (R320 to R323) -/

namespace State

/-- A swap is in progress on stroke k of the issuing nib, which is to stop or has not begun to issue again, or a `ctxst` or
`ctxld` that it has issued (R321, order 3). -/
def swapBusy (s : State) (k : Fin 8) : Bool :=
  let st := s.stroke s.cur.nib k
  st.swap.isSome || s.cycle < st.swapEnd || st.status == .arriving st.swapEnd ||
  s.ops.any (fun o => o.nib == s.cur.nib && o.cid == st.ctx.cid && !o.performed &&
    (match o.kind with | .ctxMove .. => true | _ => false))

/-- A swap, `ctxst` or `ctxld` is in progress on entry e of the issuing nib (R321, order 3). -/
def entryBusy (s : State) (e : Fin 8) : Bool :=
  s.cycle < s.cnib.entries[e].busyUntil ||
  (List.finRange 8).any (fun k => match (s.stroke s.cur.nib k).swap with
    | some (f, _) => f == e
    | none => false) ||
  s.ops.any (fun o => o.nib == s.cur.nib && !(o.cid == s.ctx.cid && o.seq == s.cur.q) && !o.performed &&
    (match o.kind with | .ctxMove f .. => f == e | _ => false))

/-- A stroke of the issuing nib holds or has been granted a lock. -/
def holdsLock (s : State) (k : Fin 8) : Bool := s.grantedLocks.any (fun l => l.1 == k)

end State

/-- `ctxsw` (R321): the swap itself follows at the end of stroke i's next turn. -/
def execCtxsw (a : Fin 32) (s : State) : Res :=
  s.guarded [.g a] [] false (fun s =>
    let x := s.rg a
    let i : Fin 8 := BitVec.toFin (x.setWidth 3)
    let e : Fin 8 := BitVec.toFin (x.extractLsb' 8 3)
    let st := s.stroke s.cur.nib i
    if s.turn.mode ≠ .k || !s.cnib.ctxEn || x &&& ~~~ 0x707 ≠ 0 || i == s.cur.k then s.illegalVal x
    else if s.holdsLock i then s.illegalVal x
    else if s.entryBusy e || s.swapBusy i then s
    else if st.status = .vacant && !s.cnib.entries[e].valid then s.retire
    else
      let s := s.modStroke s.cur.nib i (fun y => { y with swap := some (e, s.cycle) })
      s.retire)

namespace State

/-- The transfer of a record that the issuing sequencer has begun (R322). -/
def myMove (s : State) : Option Op :=
  s.ops.find? (fun o => o.nib == s.cur.nib && o.cid == s.ctx.cid && o.seq == s.cur.q &&
    (match o.kind with | .ctxMove .. => true | _ => false))

/-- What `ctxld` finds in the record that it has read to nib n (R322, orders 4 and 5): nothing, or the trap. -/
def recordTrap (s : State) (n : NibId) (det : Bool) (rec : Nat) (va : Word) : Option (BitVec 8 × Word) :=
  if recField rec 0x1430 1 ≠ 1 then some (causeILLEGAL, va)
  else if det ∧ recField rec 0x1434 4 ≠ (s.nibNumber n).toNat then some (causeDETVIOL, va)
  else none

/-- `ctxst` and `ctxld` (R322). The first attempt starts the cell accesses; S waits until the last is performed. -/
def ctxMove (s : State) (store : Bool) (a b : Fin 32) : Res :=
  s.guarded [.g a, .g b] [] false (fun s =>
    let x := s.rg a
    let va := s.rg b
    let e : Fin 8 := BitVec.toFin (x.setWidth 3)
    let acc := if store then causeSTOREACC else causeLOADACC
    if s.turn.mode ≠ .k || !s.cnib.ctxEn || 8 ≤ x.toNat then s.illegalVal x
    else if va.toNat % 1024 ≠ 0 then s.raise (if store then causeSTOREALIGN else causeLOADALIGN) va
    else
      match s.myMove with
      | some o =>
        if !o.performed then s
        else
          let s := s.dropOp o.id
          match o.fail with
          | some (0, v) => s.parkReplay v (if store then 1 else 0)
          | some (c, v) => s.raise c v
          | none => s.retire
      | none =>
        if (if store then !s.cnib.entries[e].valid || (s.entryCtx s.cur.nib e).live s.cnib.matrix
            else s.cnib.entries[e].valid) then s.illegalVal x
        else if windowEnd ≤ va.toNat && (!canonical va || !s.ctx.c.ptroot.getLsbD 0) then s.raise acc va
        else
          let (id, s) := s.newOp 0 (.ctxMove e va store 0)
          let (c, s) := s.freeCycle (s.cycle + 1) none
          s.schedule c (if store then .homeWrite id else .homeRead id))

end State

def execCtxst (a b : Fin 32) (s : State) : Res := s.ctxMove true a b
def execCtxld (a b : Fin 32) (s : State) : Res := s.ctxMove false a b

end Sys2Proof.Machine
end

