-- ==== Sys2Proof/Machine/Engine.lean ====
section
/-! DEFINITION. Sys2Proof/Machine/Engine.lean: what the engines of a nib share: the checks and the performance of their
accesses (06_memory.md R147, R161, R166, R170 to R173, R191; 07_ordering.md R180, R181, R188), and the grid (01_machine.md R16). -/

namespace Sys2Proof.Machine

open Sys2Proof

/-- What the checks of an engine access come to. -/
inductive EngLook where
  | ok (rs : List Range)
  /-- The cause of R147 and the failing VA. -/
  | fail (c : BitVec 8) (va : Word)
  | replay (va : Word)
  /-- The range meets a block that is filling or draining: the engine waits (R161). -/
  | wait
  /-- The home lies in a lost folio: the access is never performed (R386). -/
  | gone
deriving DecidableEq, Repr

namespace State

/-- The home of an access lies in a lost folio, whose links are closed (R386): it is never performed. -/
def goneHome (s : State) (pa : Nat) : Bool :=
  match (unitOf pa).folio with
  | some f => s.folios[f].lost
  | none => false

/-- Checks 4 to 8 of R147 on the pieces of an access, each at its turn. An engine's write reaches the shadow of a publish
region, and an engine waits for a block that is filling or draining; an access that S makes cell by cell (`engine` false)
does neither (R161, R191, R322). -/
def engPieces (s : State) (n : NibId) (root : Word) (priv write engine : Bool) : List Range → List Range → EngLook
  | [], acc => .ok acc.reverse
  | r :: rs, acc =>
    let bad := if write then causeSTOREACC else causeLOADACC
    if windowEnd ≤ r.va.toNat && (!canonical r.va || !root.getLsbD 0) then .fail bad r.va
    else
      match s.engineLook n root r.va write (write && engine) with
      | .hit pa c =>
        if s.refusedOf n priv false pa then .fail bad r.va
        else if s.goneHome pa then .gone
        else if engine && (match unitOf pa with | .well m off => m = n && s.blockBusy n off r.size | _ => false) then .wait
        else s.engPieces n root priv write engine rs ({ r with pa := pa, cache := c } :: acc)
      | .miss | .precise => .fail (if write then causeSTOREPF else causeLOADPF) r.va
      | .replay => .replay r.va

/-- The checks 3 to 8 of R147 on an engine access of nib n under `root`; `priv` says that the issuing stroke runs in mode
K or D (R142, R244). -/
def engCheck (s : State) (n : NibId) (root : Word) (priv : Bool) (va : Word) (size align : Nat) (write : Bool) : EngLook :=
  if va.toNat % align ≠ 0 then .fail (if write then causeSTOREALIGN else causeLOADALIGN) va
  else s.engPieces n root priv write true (cellPieces va 0 size (size / 64 + 2)) []

/-- The lease length with which an agent of nib n reads a piece (R180, R182). -/
def leaseOf (s : State) (n : NibId) (r : Range) : Nat := if r.cache then s.parts[s.partOf n].lease.toNat else 0

/-- Reads the pieces of a checked access, from clock lc: the data, and the clock after it (R180, R188). -/
def engLoad (s : State) (n : NibId) : List Range → Clk → Nat → Nat × Clk × State
  | [], lc, x => (x, lc, s)
  | r :: rs, lc, x =>
    let (t, s) := s.readStamp r.pa lc (s.leaseOf n r)
    s.engLoad n rs t (x + Memory.read s.mem r.pa r.size * 2 ^ (8 * r.at_))

/-- Writes the pieces of a checked access, from clock lc (R181, R188). -/
def engStore (s : State) (x : Nat) : List Range → Clk → Clk × State
  | [], lc => (lc, s)
  | r :: rs, lc =>
    let (t, s) := s.writeStamp r.pa lc
    ({ s with mem := Memory.write s.mem r.pa r.size (x / 2 ^ (8 * r.at_)) } : State).engStore x rs t

/-- Every piece lies in the nib's own well: the access is performed in its cycle. -/
def ownPieces (n : NibId) (rs : List Range) : Bool :=
  rs.all (fun r => match unitOf r.pa with | .well m _ => m = n | _ => false)

/-- The tables and the mode under which an engine works for context `cid` of nib n: its `ptroot`, and whether it runs in
mode K or D (R142, R244). -/
def engFor (s : State) (n : NibId) (cid : Nat) : Word × Bool :=
  match s.findCid n cid with
  | some c => (c.c.ptroot, c.c.mode != .t)
  | none => (0, false)

/-! ## The token buckets at a partition's borders (R26, R360) -/

/-- Folios of other partitions that traffic of partition p between folio f and the brim die of the west column enters, in the
order in which it comes in to f: those west of f in its grid row (R9, R16, DESIGN CHOICE, assumption 70). -/
def route (s : State) (p f : Fin 16) : List (Fin 16) :=
  (List.finRange 16).filter (fun g => g.val / 4 = f.val / 4 && g.val < f.val && ((s.partOfFolio g).map (· != p)).getD false)

/-- What `bytes` bytes owe to the routers on the way in to folio f, or with `out` on the way out (R360). -/
def owing (s : State) (p f : Fin 16) (out : Bool) (bytes : Nat) : List (Fin 16 × Nat) :=
  if bytes = 0 then [] else (if out then (s.route p f).reverse else s.route p f).map (fun g => (g, bytes))

end State

/-- Traffic on channel `chan` pays its way while tokens last and no other traffic of its channel waits before it, at one of
`held`: the tokens left, and what it still owes (R360). -/
def payWay (chan : Fin 4) (held : List (Fin 16 × Fin 4)) : Vector Nat 16 → List (Fin 16 × Nat) → Vector Nat 16 × List (Fin 16 × Nat)
  | tokens, [] => (tokens, [])
  | tokens, (g, b) :: r =>
    if held.contains (g, chan) then (tokens, (g, b) :: r)
    else if b ≤ tokens[g] then payWay chan held (tokens.set g (tokens[g] - b)) r
    else (tokens.set g 0, (g, b - tokens[g]) :: r)

/-- The router and the channel at which traffic waits. -/
def Crossing.place (c : Crossing) : List (Fin 16 × Fin 4) := (c.owes.take 1).map (fun x => (x.1, c.chan))

/-- All traffic that waits pays what it can, the oldest first: the tokens left, what goes on, and what still waits (R360). -/
def payAll : List (Fin 16 × Fin 4) → Vector Nat 16 → List Crossing → Vector Nat 16 × List Crossing × List Crossing
  | _, tokens, [] => (tokens, [], [])
  | held, tokens, c :: r =>
    let (tokens, owes) := payWay c.chan held tokens c.owes
    let c := { c with owes := owes }
    let (tokens, go, wait) := payAll (held ++ c.place) tokens r
    if owes.isEmpty then (tokens, c :: go, wait) else (tokens, go, c :: wait)

/-- Traffic comes to the borders of its partition: it pays its way at once, or waits behind what waits there (R360). -/
def Part.take (x : Part) (c : Crossing) : Part × Bool :=
  let (tokens, owes) := payWay c.chan (x.border.flatMap Crossing.place) x.tokens c.owes
  if owes.isEmpty then ({ x with tokens := tokens }, true)
  else ({ x with tokens := tokens, border := x.border ++ [{ c with owes := owes }] }, false)

namespace State

/-- Traffic of partition p that owes `owes` on channel `chan` brings the events `evs`, each from its cycle on, or later where it
waits at a border (R26, R360). -/
def crossBorder (s : State) (p : Fin 16) (chan : Fin 4) (owes : List (Fin 16 × Nat)) (evs : List (Nat × Instr)) : State :=
  let (x, ok) := s.parts[p].take ⟨chan, owes, evs, false⟩
  let s : State := { s with parts := s.parts.set p x }
  if ok then { s with agenda := s.agenda ++ evs } else s

/-- The traffic of event `ev` has been paid for (R360). -/
def isThrough (s : State) (ev : Instr) : Bool := s.parts.toList.any (fun x => x.through.contains ev)

/-- Event `ev` makes its accesses: it counts no more as paid for. -/
def dropThrough (s : State) (ev : Instr) : State :=
  if s.isThrough ev then { s with parts := s.parts.map (fun x => { x with through := x.through.erase ev }) } else s

/-- Event `ev` of partition p, whose accesses are on channel `chan`, makes them once their traffic is paid for (R360). -/
def atBorder (s : State) (p : Fin 16) (chan : Fin 4) (owes : List (Fin 16 × Nat)) (ev : Instr) (act : State → State) : State :=
  if s.isThrough ev then act (s.dropThrough ev)
  else
    let (x, ok) := s.parts[p].take ⟨chan, owes, [(s.cycle, ev)], true⟩
    let s : State := { s with parts := s.parts.set p x }
    if ok then act s else s

/-- What waited at the borders of partition p and has been paid for goes on (R360). -/
def goOn (s : State) (p : Fin 16) (c : Crossing) : State :=
  let s : State := { s with agenda := s.agenda ++ c.evs.map (fun e => (max e.1 s.cycle, e.2)) }
  if c.asks then { s with parts := s.parts.set p { s.parts[p] with through := s.parts[p].through ++ c.evs.map (·.2) } } else s

/-! ## Replayable faults (R170 to R173) -/

/-- The request of operation `op` meets a replayable fault: it joins its folio's coalescing table, or takes a free entry
and sends a record, or stays parked unrecorded (R171). `code` is 0 load, 1 store, 2 atomic, 3 engine (R173). -/
def coalesce (s : State) (op : Nat) (n : NibId) (k : Fin 8) (asid : BitVec 16) (va : Word) (code : Nat) : State :=
  let f := folioOf n
  let page := va.toNat % 2 ^ 52 / 2 ^ 16
  let tab := s.folios[f].coal
  let put := fun (t : List Coal) => ({ s with folios := s.folios.set f { s.folios[f] with coal := t } } : State)
  if tab.any (fun c => c.asid == asid && c.page == page) then
    put (tab.map (fun c => if c.asid == asid && c.page == page then { c with ops := c.ops ++ [op] } else c))
  else if tab.length < 64 then
    let s := put (tab ++ [⟨asid, page, [op]⟩])
    let (c, s) := s.freeCycle (s.cycle + 1) none
    let p := s.partOf n
    s.crossBorder p 1 (s.owing p f true 16) [(c, .faultRecord p va (s.nibNumber n) asid (BitVec.ofNat 8 (k.val + 8 * code)))]
  else s.modPart (s.partOf n) (fun p => { p with drop := true })

/-- Parks the access of an engine command: the operation of kind `kind` waits for REPLAYALL (R170). -/
def parkEngine (s : State) (n : NibId) (k : Fin 8) (cid : Nat) (root va : Word) (kind : OpKind) : State :=
  let (id, s) := s.newId
  let o : Op := ⟨id, n, cid, .s, 0, kind, k, s.cycle, false, true, 0, 0, none⟩
  ({ s with ops := s.ops ++ [o] } : State).coalesce id n k (asidOf root) va 3

end State

/-! ## The quill's order of service (R278) -/

/-- Signed 32-bit field of a descriptor. -/
def descInt (d : BitVec 512) (o : Nat) : Int := (d.extractLsb' (8 * o) 32).toInt

/-- Unsigned field of `n` bytes of a descriptor. -/
def descNat (d : BitVec 512) (o n : Nat) : Nat := descField d.toNat o n

/-- Rows of a copy. -/
def copyRows (kind : Fin 4) (d : BitVec 512) : Nat :=
  descNat d 0x14 2 * (if kind = 1 then 1 else descNat d 0x16 2)

namespace State

/-- The command has a remote side. -/
def copyRemote (kind : Fin 4) (d : BitVec 512) : Bool := kind = 0 && descNat d 0x30 4 % 4 != 0

/-- The event in which the quill serves a command. -/
def copyEvent (id : Nat) (kind : Fin 4) (d : BitVec 512) : Instr :=
  if copyRemote kind d then .remoteAccess (.own id) else .homeWrite id

/-- The next access of command `id` waits at the partition's border (R360). -/
def copyAtBorder (s : State) (o : Op) : Bool :=
  s.parts[s.partOf o.nib].border.any (fun x => x.evs.any (fun e => e.2 == .remoteAccess (.own o.id)))

/-- The cycle from which the quill may serve command `id` again, and the event; none while it is held, waits for its tile, at
the border or for its landing decrement, or has ended. -/
def copyDue (s : State) (id : Nat) : Option (Nat × Instr) :=
  (s.findOp id).bind (fun o => match o.kind with
    | .copy _ d kind i _ tile _ =>
      if s.copyAtBorder o then none
      else if o.performed || o.parked || (kind == 1 && tile.isNone) || copyRows kind d < i then none
      else some (o.due, copyEvent id kind d)
    | _ => none)

/-- The quill of nib n chooses the command that it serves next: the one that can be served earliest, and among those the next
in issue order after the one it served last (R278). -/
def quillGo (s : State) (n : NibId) : State :=
  let b := s.nib n
  let later := b.quill.filter (fun i => decide (b.quillTurn < i)) ++ b.quill.filter (fun i => decide (i ≤ b.quillTurn))
  let ready := later.filterMap (fun i => (s.copyDue i).map (fun x => (max (s.cycle + 1) x.1, x.2)))
  let mine := fun (e : Nat × Instr) => match e.2 with
    | .homeWrite i | .remoteAccess (.own i) => b.quill.contains i
    | _ => false
  let s : State := { s with agenda := s.agenda.filter (fun e => !mine e) }
  match ready with
  | [] => s
  | x :: r =>
    let y := r.foldl (fun (m : Nat × Instr) z => if z.1 < m.1 then z else m) x
    s.schedule y.1 y.2

/-! ## The grid (R16) -/

/-- The global row and column of a nib. -/
def globalRow (n : NibId) : Nat := 64 * ((folioOf n).val / 4) + n.val / 64 % 64

def globalCol (n : NibId) : Nat := 64 * ((folioOf n).val % 4) + n.val % 64

/-- The nib at a global row and column. -/
def nibAt (r c : Nat) : NibId := Fin.ofNat 65536 ((r / 64 * 4 + c / 64) * 4096 + r % 64 * 64 + c % 64)

/-- The neighbour of a nib in direction N 0, E 1, S 2, W 3, inside its partition (R16, R26). -/
def neighbour (s : State) (n : NibId) (dir : Fin 4) : Option NibId :=
  let r := globalRow n
  let c := globalCol n
  let m : Option NibId := match dir with
    | 0 => if r = 0 then none else some (nibAt (r - 1) c)
    | 1 => if c = 255 then none else some (nibAt r (c + 1))
    | 2 => if r = 255 then none else some (nibAt (r + 1) c)
    | 3 => if c = 0 then none else some (nibAt r (c - 1))
  m.filter (fun m => s.partHas (s.partOf n) (folioOf m) && s.partHas (s.partOf n) (folioOf n))

end State

end Sys2Proof.Machine
end

