-- ==== Sys2Proof/Machine/Floor.lean ====
section
/-! DEFINITION. Sys2Proof/Machine/Floor.lean: the clocks of a partition's agents, its floor, and the raising of every clock
and stamp that lies below it (07_ordering.md R175, R176; 12_system.md R319). -/

namespace Sys2Proof.Machine

open Sys2Proof

/-! ## What holds clocks -/

/-- An effect in flight that carries a clock (R187). -/
def Eff.raiseTo (e : Eff) (f : Clk) : Eff :=
  match e with
  | .oqPush q b c => .oqPush q b (Clk.max c f)
  | .vqFill op x c => .vqFill op x (Clk.max c f)
  | .vqPush x c => .vqPush x (Clk.max c f)
  | e => e

def Merge.raiseTo (m : Merge) (f : Clk) : Merge :=
  match m with
  | .dec a l t => .dec a l (Clk.max t f)
  | .wake a t => .wake a (Clk.max t f)

/-- Raises what lies below the floor in a context (R176, R319). -/
def Ctx.raiseTo (c : Ctx) (f : Clk) : Ctx :=
  { c with
    r := { c.r with seals := c.r.seals.map (fun x => { x with clk := Clk.max x.clk f }) }
    seqs := c.seqs.map (fun q => { q with lc := Clk.max q.lc f })
    inflight := c.inflight.map (fun l => { l with eff := l.eff.raiseTo f })
    x := { c.x with
      oq := c.x.oq.map (fun l => l.map (fun e => { e with clk := Clk.max e.clk f }))
      ax := c.x.ax.map (fun e => { e with clk := Clk.max e.clk f })
      xw := c.x.xw.map (fun e => { e with clk := Clk.max e.clk f })
      sweep := c.x.sweep.map (fun w => { w with lc := Clk.max w.lc f, merges := w.merges.map (·.raiseTo f) }) } }

/-- Messages and receive rings of a stroke position (R294, R297). -/
def Stroke.raiseTo (x : Stroke) (f : Clk) : Stroke :=
  { x with
    ctx := x.ctx.raiseTo f
    mailbox := x.mailbox.map (fun m => { m with clk := Clk.max m.clk f })
    rings := x.rings.map (fun r => { r with recs := r.recs.map (fun y => { y with clk := Clk.max y.clk f }) }) }

def MCmd.raiseTo (c : MCmd) (f : Clk) : MCmd := { c with lc := Clk.max c.lc f, tmax := Clk.max c.tmax f }

/-- Every command of a matrix engine. -/
def Matrix.commands (m : Matrix) : List MCmd :=
  m.queue ++ m.array.toList ++ m.loader.toList ++ m.draining ++ m.stopped ++ m.held

def Matrix.raiseTo (m : Matrix) (f : Clk) : Matrix :=
  { m with
    queue := m.queue.map (·.raiseTo f), array := m.array.map (·.raiseTo f), loader := m.loader.map (·.raiseTo f)
    draining := m.draining.map (·.raiseTo f), stopped := m.stopped.map (·.raiseTo f), held := m.held.map (·.raiseTo f) }

/-- Strokes, matrix engine and expectations of a nib. A copy whose lease ended below the floor can hit no more, and is given up (R180,
R182). -/
def Nib.raiseTo (b : Nib) (f : Clk) : Nib :=
  { b with
    strokes := b.strokes.map (·.raiseTo f), matrix := b.matrix.raiseTo f
    expects := b.expects.map (fun e => { e with clk := Clk.max e.clk f })
    copies := (b.copies.filter (fun c => Clk.le f c.rc)).map (fun c => { c with wts := Clk.max c.wts f }) }

def Queue.raiseTo (q : Queue) (f : Clk) : Queue :=
  { q with clk := q.clk.map (Clk.max · f), pkts := q.pkts.map (fun p => { p with clk := Clk.max p.clk f }) }

/-- Host agent and barriers of a partition (R175, R297); flips of SEL that no clock lies before are forgotten (R191). -/
def Part.raiseTo (p : Part) (f : Clk) : Part :=
  { p with
    hostLc := Clk.max p.hostLc f
    pubs := p.pubs.map (fun e => { e with flips := e.flips.filter (fun t => !Clk.le t f) })
    bars := p.bars.map (fun b => { b with clk := b.clk.map (Clk.max · f), relClk := b.relClk.map (Clk.max · f) }) }

namespace State

/-! ## The floor (R176) -/

/-- The bonnet guest works for partition p (R363). -/
def guestServes (s : State) (p : Fin 16) : Bool := s.parts[p].vf != 0 && s.bonnet.vfMask.getLsbD (s.parts[p].vf - 1)

/-- The clocks of a partition's agents (R175): the host agent, the guest, every sequencer, and every engine command. -/
def partClocks (s : State) (p : Fin 16) : List Clk :=
  let mine := s.nibs.filter (fun x => s.partOf x.1 = p)
  let ctxs := (mine.map (fun x => s.contexts x.1)).flatten
  s.parts[p].hostLc :: (if s.guestServes p then [Clk.max s.bonnet.lc s.bonnet.told] else []) ++
  (ctxs.map (fun c => c.seqs.toList.map SeqSt.lc ++ c.x.sweep.toList.map Sweep.lc)).flatten ++
  (mine.map (fun x => x.2.matrix.commands.map MCmd.lc)).flatten ++
  (s.ops.filter (fun o => s.partOf o.nib = p)).map Op.lc

/-- The floor of a partition: 2^44 below its largest clock (R176). -/
def floorOf (s : State) (p : Fin 16) : Clk := maxClk (s.partClocks p) - BitVec.ofNat 48 (2 ^ 44)

/-- The table that a `ptroot` value names lies in the HBM of partition p. -/
def rootIn (s : State) (p : Fin 16) (root : Word) : Bool :=
  match unitOf (root.toNat / 2 ^ 16 % 2 ^ 32 * 0x10000) with
  | .hbm f => s.partHas p f
  | _ => false

/-- Every clock and stamp of partition p that lies below f rises to it, those in the context cache included (R176, R319).
The stamps of control registers belong to no partition and rise with each (DESIGN CHOICE, assumption 12). -/
def raisePart (s : State) (p : Fin 16) (f : Clk) : State :=
  let inside := fun (a : Nat) => match unitOf a with
    | .control => true
    | u => (u.folio.map (s.partHas p)).getD false
  let mine := (s.nibs.map (·.1)).filter (fun n => s.partOf n = p)
  let s : State := { s with
    stamps := s.stamps.map (fun y => if inside y.lo then { y with wts := Clk.max y.wts f, rts := Clk.max y.rts f } else y)
    folios := Vector.ofFn (fun (g : Fin 16) =>
      if s.partHas p g then { s.folios[g] with base := Clk.max s.folios[g].base f } else s.folios[g])
    modu := { s.modu with base := Clk.max s.modu.base f }
    ops := s.ops.map (fun o => if s.partOf o.nib = p then { o with lc := Clk.max o.lc f, tmax := Clk.max o.tmax f } else o)
    launches := s.launches.map (fun l =>
      if l.part = p then { l with clk := Clk.max l.clk f, endClk := Clk.max l.endClk f } else l)
    vfs := s.vfs.mapFinIdx (fun i v _ =>
      { v with queues := v.queues.map (fun q =>
          if i = s.parts[p].vf || (i = 0 && s.rootIn p q.2.root) then (q.1, q.2.raiseTo f) else q) })
    bonnet := if s.guestServes p then { s.bonnet with lc := Clk.max s.bonnet.lc f, told := Clk.max s.bonnet.told f } else s.bonnet }
  let s := s.modPart p (·.raiseTo f)
  mine.foldl (fun s n =>
    let s := s.modNib n (·.raiseTo f)
    (List.finRange 8).foldl (fun s e =>
      if (s.nib n).entries[e].valid then s.modEntry n e (·.raiseTo f) else s) s) s

end State

end Sys2Proof.Machine
end

