-- ==== Sys2Proof/Machine/Matrix.lean ====
section
/-! DEFINITION. Sys2Proof/Machine/Matrix.lean: the matrix engine (09_matrix.md R220 to R249): operand images, weight
images, slabs, emits, the command queue, grouped runs, chains, stops, resumption and checksums. -/

namespace Sys2Proof.Machine

open Sys2Proof

def causeFMTUNDER : BitVec 8 := 0x12
def causeMOPFAULT : BitVec 8 := 0x11
def causeMCHECK : BitVec 8 := 0x13

/-! ## Operand images (R95, R222) -/

/-- The size of a slab image of format code `c`. -/
def imgSize (c : Nat) : Nat := if c ≤ 6 then 4 * (c + 2) + 4 else if c = 9 then 64 else 32

/-- Array cycles of a step with B format code `c` (R221). -/
def stepCycles (c : Nat) : Nat := if c ≤ 6 then c + 2 else if c = 7 then 4 else if c = 8 then 3 else 8

/-- The mantissas and the exponent of a BFP image. -/
def imgMants (c x : Nat) : List Int × Nat :=
  let w := c + 2
  ((List.range 32).map (bfpMant w (x % 2 ^ (32 * w))), x / 2 ^ (32 * w) % 256)

/-- The 32 values of an image. -/
def imgVals (c x : Nat) : List Fv :=
  if c ≤ 6 then
    let (ms, e) := imgMants c x
    ms.map (bfpValue (c + 2) e)
  else
    let f := if c = 7 then fmtE4 else if c = 8 then fmtE5 else fmt16
    (List.range 32).map (fun k => f.value (x / 2 ^ (f.bits * k) % 2 ^ f.bits))

/-- One tile element after a slab of A image `a` and B image `b` (R79 to R81, R223). -/
def slabElem (af bf acc a b : Nat) : Nat × Ev :=
  if af ≤ 6 ∧ bf ≤ 6 then
    let (ma, ea) := imgMants af a
    let (mb, eb) := imgMants bf b
    bfpGroup acc (af + 2) ea (bf + 2) eb ma mb
  else
    let va := imgVals af a
    let vb := imgVals bf b
    let (x, e) := fpGroup acc (va.take 16) (vb.take 16)
    let (y, f) := fpGroup x (va.drop 16) (vb.drop 16)
    (y, e ||| f)

/-- Element i of a tile. -/
def tileAt (t : BitVec 32768) (i : Nat) : Nat := (t.extractLsb' (32 * i) 32).toNat

/-- The tile after a slab: `rows` are the A images of the active rows, `cols` the fetched B images. An inactive element
receives +0 (R223). -/
def slabTile (af bf : Nat) (t : BitVec 32768) (rows : List (Nat × Nat)) (cols : List Nat) : BitVec 32768 × Ev :=
  let (x, e) := (List.range 1024).foldl (fun (acc : Nat × Ev) i =>
    let old := tileAt t i
    let (y, f) := match rows.lookup (i / 32), cols[i % 32]? with
      | some a, some b => slabElem af bf old a b
      | _, _ => ((fmt32.addB old 0).1, 0)
    (acc.1 + y * 2 ^ (32 * i), acc.2 ||| f)) (0, 0)
  (BitVec.ofNat 32768 x, e)

/-! ## Weight images (R224) -/

/-- The header of a weight image: MODE, RAWLEN and ENCLEN, if it is well formed. -/
def weightHeader (h : Nat) : Option (Nat × Nat × Nat) :=
  let f := fun (o n : Nat) => h / 2 ^ (8 * o) % 2 ^ (8 * n)
  if f 0 1 = 1 ∧ f 1 1 ≤ 1 ∧ f 2 2 = 0 ∧ f 12 4 = 0 ∧ f 4 4 % 32 = 0 ∧ 32 ≤ f 4 4 ∧ f 4 4 ≤ 65536 ∧ 16 + f 8 4 ≤ 32768 ∧
      (f 1 1 = 0 → f 8 4 = f 4 4) then some (f 1 1, f 4 4, f 8 4)
  else none

/-- Decodes `g` granules of a zero-elided stream `x` of `n` bytes; the answer must use exactly n bytes. -/
def decodeGranules (x n : Nat) : Nat → Option Nat
  | 0 => if n = 0 then some 0 else none
  | g + 1 =>
    let mask := x % 2 ^ 32
    let ones := ((List.range 32).filter mask.testBit).length
    if n < 4 + ones then none
    else
      let body := x / 2 ^ 32
      let (y, used, ok) := (List.range 32).foldl (fun (acc : Nat × Nat × Bool) i =>
        let (y, k, ok) := acc
        if mask.testBit i then
          let b := body / 2 ^ (8 * k) % 256
          (y + b * 2 ^ (8 * i), k + 1, ok && b != 0)
        else (y, k, ok)) (0, 0, true)
      if !ok then none
      else (decodeGranules (body / 2 ^ (8 * used)) (n - 4 - used) g).map (fun r => y + r * 2 ^ 256)

/-- The decoded stream of the encoded data `x` (R224). -/
def decodeImage (mode rawLen encLen x : Nat) : Option Nat :=
  if mode = 0 then some x else decodeGranules x encLen (rawLen / 32)

/-! ## The format word and the loop-nest table (R226, R229) -/

def fmtField (w : BitVec 32) (lo n : Nat) : Nat := (w.extractLsb' lo n).toNat

/-- The word holds a reserved value (R226). -/
def fmtBad (w : BitVec 32) : Bool :=
  2 ≤ fmtField w 20 4 || 3 ≤ fmtField w 16 4 || 2 ≤ fmtField w 12 2 || 5 ≤ fmtField w 8 4 ||
  10 ≤ fmtField w 4 4 || 10 ≤ fmtField w 0 4

/-- The shadow-bank entry of a field number (R229, R318); none for a reserved number. -/
def shadowIndex (f : BitVec 12) : Option (Fin 64) :=
  let x := f.toNat
  if x < 0x60 ∧ x % 16 < 5 then some (Fin.ofNat 64 (x / 16 * 8 + x % 16))
  else if 0x100 ≤ x ∧ x < 0x10C then some (Fin.ofNat 64 (48 + (x - 0x100)))
  else none

/-- The value lies in the range of the entry (R229). -/
def shadowRange (i : Fin 64) (v : Nat) : Bool :=
  if i.val < 48 then
    match i.val % 8 with
    | 0 => 1 ≤ v && v ≤ 65535
    | 4 => v ≤ 1
    | _ => true
  else
    match i.val - 48 with
    | 2 => v ≤ 65535
    | 3 => v ≤ 1
    | 6 => 1 ≤ v && v ≤ 32
    | 8 => 1 ≤ v && v ≤ 32
    | 9 => v ≤ 7
    | 10 => v ≤ 2
    | 11 => v ≤ 65535
    | _ => true

namespace MCmd

def field (c : MCmd) (i : Fin 64) : Nat := (c.snap[i]).toNat
def count (c : MCmd) (l : Nat) : Nat := c.field (Fin.ofNat 64 (8 * l))
def str (c : MCmd) (l k : Nat) : Int := (c.snap[(Fin.ofNat 64 (8 * l + k) : Fin 64)]).toInt
def emitOn (c : MCmd) (l : Nat) : Bool := c.field (Fin.ofNat 64 (8 * l + 4)) = 1
def abase (c : MCmd) : Int := c.field 48 + c.field 49 * 2 ^ 32
def cbase (c : MCmd) : Int := c.field 52 + c.field 53 * 2 ^ 32
def acc (c : MCmd) : Fin 8 := Fin.ofNat 8 (c.field 57)
def cols (c : MCmd) : Nat := c.field 56
def afmt (c : MCmd) : Nat := fmtField c.fmt 0 4
def bfmt (c : MCmd) : Nat := fmtField c.fmt 4 4
def out (c : MCmd) : Nat := fmtField c.fmt 8 4
def rtz (c : MCmd) : Bool := fmtField c.fmt 12 2 = 1
def sat (c : MCmd) : Bool := fmtField c.fmt 14 1 = 1
def chk (c : MCmd) : Bool := fmtField c.fmt 15 1 = 1
def act (c : MCmd) : Nat := fmtField c.fmt 16 4
def keep (c : MCmd) : Bool := fmtField c.fmt 20 4 = 1
def scale (c : MCmd) : Int := (c.fmt.extractLsb' 24 8).toInt

/-- The active rows below `m` (R223). -/
def active (c : MCmd) (m : Nat) : List Nat := (List.range m).filter (fun r => (c.snap[(55 : Fin 64)]).getLsbD r)

/-- Index of level l in slab number `x` (R231). -/
def digit (c : MCmd) (x : Nat) : Nat → Nat
  | 0 => x % c.count 0
  | l + 1 => (x / (List.range (l + 1)).foldl (fun p i => p * c.count i) 1) % c.count (l + 1)

/-- Slabs of the nest (R231). -/
def total (c : MCmd) : Nat := (List.range 6).foldl (fun p i => p * c.count i) 1

/-- The A address and the B offset of slab `x` (R231). -/
def aAddr (c : MCmd) (x : Nat) : Word :=
  BitVec.ofInt 64 ((List.range 6).foldl (fun a l => a + c.digit x l * c.str l 1) c.abase)

def bOff (c : MCmd) (x : Nat) : Int := (List.range 6).foldl (fun a l => a + c.digit x l * c.str l 2) (c.field 50)

/-- Levels that complete in slab `x`: every index up to theirs is the last (R231). -/
def completes (c : MCmd) (x l : Nat) : Bool := (List.range (l + 1)).all (fun i => c.digit x i + 1 == c.count i)

/-- The levels that emit after slab `x`, lowest first. -/
def emitLevels (c : MCmd) (x : Nat) : List Nat := (List.range 6).filter (fun l => c.completes x l && c.emitOn l)

/-- The C address of an emit of level l after slab `x`. -/
def cAddr (c : MCmd) (x l : Nat) : Word :=
  BitVec.ofInt 64 (((List.range 6).filter (fun i => decide (l < i))).foldl (fun a i => a + c.digit x i * c.str i 3) c.cbase)

/-- The weight banks that a command reads (R236). -/
def reads (c : MCmd) (b : Fin 2) : Bool :=
  match c.kind with
  | .mgo .. => c.field 51 = b.val
  | .mgrp .. => true
  | _ => false

/-- The bank of the slab that runs. -/
def bank (c : MCmd) : Fin 2 :=
  match c.kind with
  | .mgrp .. => c.grp.bank
  | _ => Fin.ofNat 2 (c.field 51)

end MCmd

/-! ## The epilogue (R232, R233) -/

/-- v of R232 for one tile element, with its events. -/
def epiValue (c : MCmd) (x : Nat) : Nat × Ev :=
  let scaled := match fmt32.value x with
    | .fin s m e => Fv.fin s m (e + c.scale)
    | v => v
  let (v, e) := fmt32.round c.rtz false scaled
  match c.act with
  | 1 => (match fmt32.value v with
    | .nan => v
    | .inf s => if s then 0 else v
    | .fin s m _ => if s || m = 0 then 0 else v, e)
  | 2 =>
    let (y, f) := exp2B v
    (y, e ||| f)
  | _ => (v, e)

/-- Bytes of one element of an output format (R233). -/
def outBytes (o : Nat) : Nat := if o = 0 then 4 else if o = 1 then 2 else 1

/-- The row image of the values of N columns: data, size, alignment, events (R232, R233). -/
def rowImage (c : MCmd) (vs : List Nat) : Nat × Nat × Nat × Ev :=
  let o := c.out
  if o = 3 ∨ o = 4 then
    let w := if o = 3 then 8 else 4
    let xs := (List.range 32).map (fun n => match vs[n]? with
      | some v => fmt32.value v
      | none => .fin false 0 0)
    let (planes, ex, e) := bfpPack w c.rtz xs
    (planes + ex * 2 ^ (32 * w), 4 * w + 4, 4, e)
  else
    let b := outBytes o
    let f := if o = 1 then fmt16 else fmtE4
    let (x, e, _) := vs.foldl (fun (acc : Nat × Ev × Nat) v =>
      let (x, e, i) := acc
      let (y, g) := if o = 0 then (v, 0) else f.round c.rtz c.sat (fmt32.value v)
      (x + y * 2 ^ (8 * b * i), e ||| g, i + 1)) (0, 0, 0)
    (x, b * vs.length, b, e)

/-- The image of row m of a tile, with all its events. -/
def emitRow (c : MCmd) (t : BitVec 32768) (m : Nat) : Nat × Nat × Nat × Ev :=
  let vs := (List.range c.cols).map (fun n => epiValue c (tileAt t (32 * m + n)))
  let (x, size, al, e) := rowImage c (vs.map (·.1))
  (x, size, al, vs.foldl (fun a v => a ||| v.2) e)

/-! ## The engine's state -/

namespace Matrix

/-- The loader is busy (R249). -/
def loading (m : Matrix) : Bool :=
  m.loader.isSome || (match m.array with | some c => c.grp.loading | none => false)

end Matrix

namespace State

def matrix (s : State) (n : NibId) : Matrix := (s.nib n).matrix

/-- Units of a cycle in which the instants of the array are counted, so that every k of R371 divides it. -/
def matrixUnit : Nat := 720720

/-- A command of nib n with this identity has an access that has not been performed (R234). -/
def cmdBusy (s : State) (id : Nat) : Bool :=
  s.ops.any (fun o => match o.kind with
    | .mrow c .. => c == id
    | .decr _ _ _ c => c == id
    | .matrix c => c == id
    | _ => false)

/-- A replayable fault holds the command (R246). -/
def cmdParked (s : State) (id : Nat) : Bool := s.ops.any (fun o => o.kind == .matrix id)

/-- The commands that hold the array (R238, R246): the one in it, one that a replayable fault has parked, and an `mrd` with rows
to write. -/
def arrayHolders (s : State) (n : NibId) : List MCmd :=
  let m := s.matrix n
  m.array.toList ++ m.draining.filter (fun c => s.cmdParked c.id ||
    (match c.kind with | .mrd .. => !c.rows.isEmpty | _ => false))

/-- The command posts its seal once nothing of it is left (R234, R236, R93). -/
def matrixSettle (s : State) (n : NibId) (id : Nat) : State :=
  match (s.matrix n).findCmd id with
  | none => s
  | some c =>
    if c.done && !c.posted && c.rows.isEmpty && !s.cmdBusy id then
      let s := if c.sl = 0 then s
        else
          let (op, s) := s.newId
          { s with ops := s.ops ++ [⟨op, n, c.cid, c.seq, c.sl, .matrixPost c.ev, c.stroke, s.cycle, true, false, c.lc, c.tmax, none⟩] }
      s.modMatrix n (fun m =>
        { m with array := m.array.map (fun d => if d.id = id then { d with posted := true } else d)
                 draining := m.draining.filter (·.id != id) })
    else s

/-- `mfault` of a stopped or failed command (R243). -/
def mfaultWord (c : MCmd) (kind : Nat) (cause : BitVec 8) (stopped : Bool) : Word :=
  BitVec.ofNat 64 (cause.toNat % 32 * 2 ^ 59 + kind * 2 ^ 55 + c.sl.val * 2 ^ 51 + min c.tiles 0xFFFF * 2 ^ 35 + stopped.toNat)

/-- A command of the stroke is stopped, so that `mfault` can describe no other stop (DEDUCED, assumption 25). -/
def stopFull (s : State) (n : NibId) (cid : Nat) : Bool :=
  match s.findCid n cid with
  | some c => c.c.stopped
  | none => false

/-- The command stops at its resumable point (R244): KIND, the cause and the failing VA. A slab that a row write finds in
progress has its results in the tile: `running` stays, and the slab ends after the command resumes. A second command of a stroke
that has one stopped fails afresh later: `again` is the event that repeats its access. -/
def matrixStop (s : State) (n : NibId) (c : MCmd) (kind : Nat) (cause : BitVec 8) (va : Word) (again : Instr) : State :=
  if s.stopFull n c.cid then s.schedule (s.cycle + 8) again
  else
    let s := s.modMatrix n (fun m =>
      { m with
        array := m.array.filter (·.id != c.id)
        arrayEnd := if m.array.any (·.id == c.id) then 0 else m.arrayEnd
        loader := m.loader.filter (·.id != c.id)
        draining := m.draining.filter (·.id != c.id)
        stopped := m.stopped ++ [{ c with grp := { c.grp with loading := false } }] })
    let s := s.modCid n c.cid (fun x => { x with c := { x.c with mfault := mfaultWord c kind cause true } })
    (s.deliver n c.cid causeMOPFAULT va).schedule s.cycle (.matrixDispatch n)

/-- KIND 6 (R225, R244): `tval` is the decoded offset. The spec gives no CAUSE for it: a free value (DESIGN CHOICE, assumption 23). -/
def bankStop (s : State) (n : NibId) (c : MCmd) (off : Int) : State :=
  let (k, s) := s.freshNum
  s.matrixStop n c 6 (BitVec.ofNat 8 (Config.freeBits k % 32)) (BitVec.ofInt 64 off) (.slabEnd n)

/-- The outcome of a fetch of a command: the pieces to read, or the state after the stop, the park or the wait that
took its place. -/
inductive Fetch where
  | ok (rs : List Range)
  | stop (s : State)

/-- Checks an access of a command (R244, R246): a failure stops the command with `kind`, a replayable fault parks it. -/
def mfetch (s : State) (n : NibId) (c : MCmd) (va : Word) (size align : Nat) (write : Bool) (kind : Nat) (again : Instr) : Fetch :=
  let (root, priv) := s.engFor n c.cid
  match s.engCheck n root priv va size align write with
  | .ok rs => .ok rs
  | .fail code v => .stop (s.matrixStop n c kind code v again)
  | .replay v =>
    .stop ((s.modMatrix n (fun m => m.modCmd c.id (fun _ => c))).parkEngine n c.stroke c.cid root v (.matrix c.id))
  | .wait => .stop ((s.modMatrix n (fun m => m.modCmd c.id (fun _ => c))).schedule (s.cycle + 1) again)
  | .gone => .stop (s.modMatrix n (fun m => m.modCmd c.id (fun _ => c)))

/-- Reads `size` bytes for a command: the data, the command with its clock, and the state; or the state that took the
read's place. -/
def mread (s : State) (n : NibId) (c : MCmd) (va : Word) (size kind : Nat) (again : Instr) : Option (Nat × MCmd) × State :=
  match s.mfetch n c va size 1 false kind again with
  | .stop s => (none, s)
  | .ok rs =>
    let (x, t, s) := s.engLoad n rs c.lc 0
    (some (x, { c with lc := t, tmax := Clk.max c.tmax t }), s)

/-- Reads a list of items, each a key and a VA, for a command (R223, R241). -/
def mreads (s : State) (n : NibId) (size kind : Nat) (again : Instr) :
    List (Nat × Word) → MCmd → List (Nat × Nat) → Option (List (Nat × Nat) × MCmd) × State
  | [], c, acc => (some (acc.reverse, c), s)
  | (m, va) :: r, c, acc =>
    match s.mread n c va size kind again with
    | (none, s) => (none, s)
    | (some (x, c), s) => s.mreads n size kind again r c ((m, x) :: acc)

/-! ## Slabs -/

/-- The bank is invalid, or the fetched columns reach beyond RAWLEN (R225). -/
def bankBad (s : State) (n : NibId) (c : MCmd) (off : Int) : Bool :=
  let b := (s.matrix n).banks[c.bank]
  !b.valid || off < 0 || (b.len : Int) < off + c.cols * imgSize c.bfmt

/-- The B images of a slab (R223, R225). -/
def bImages (s : State) (n : NibId) (c : MCmd) (off : Nat) : List Nat :=
  let b := (s.matrix n).banks[c.bank]
  let z := imgSize c.bfmt
  (List.range c.cols).map (fun i => b.data / 2 ^ (8 * (off + i * z)) % 2 ^ (8 * z))

/-- The time that a slab of a command takes, in units of the array's instants (R221, R371). -/
def slabTime (s : State) (c : MCmd) : Nat := 32 * stepCycles c.bfmt * 16 * matrixUnit / s.modu.capk.toNat

/-- The instant at which what begins in this cycle begins: the exact end of what went before (R221). -/
def arrayNow (s : State) (n : NibId) : Nat :=
  let e := (s.matrix n).arrayEnd
  if (e + matrixUnit - 1) / matrixUnit = s.cycle then e else s.cycle * matrixUnit

/-- The command holds the array for `units`, and SLAB_END follows in the first whole cycle from the end on (R221). -/
def holdArray (s : State) (n : NibId) (c : MCmd) (units : Nat) : State :=
  let e := s.arrayNow n + units
  (s.modMatrix n (fun m => { m with array := some { c with running := true }, arrayEnd := e })).schedule
    ((e + matrixUnit - 1) / matrixUnit) (.slabEnd n)

/-- The slab with these operands begins (R223, R231): the tile takes its result, which nothing reads before it ends. -/
def beginSlab (s : State) (n : NibId) (c : MCmd) (rows : List (Nat × Nat)) (off : Nat) : State :=
  let old := (s.matrix n).tiles[c.acc]
  let base := if c.newTile && !c.keep then 0 else old
  let c := if c.newTile then { c with start := base, tileSlabs := 0, newTile := false } else c
  let (t, e) := slabTile c.afmt c.bfmt base rows (s.bImages n c off)
  let s := s.modMatrix n (fun m => { m with tiles := m.tiles.set c.acc t })
  s.holdArray n { c with ev := c.ev ||| e, tileSlabs := c.tileSlabs + 1 } (s.slabTime c)

/-- The A panel made of the images that a slab fetched; its other rows are 0 (R223, DESIGN CHOICE, assumption 69). -/
def panelOf (c : MCmd) (rows : List (Nat × Nat)) : Nat := rows.foldl (fun a (r, x) => a + x * 2 ^ (8 * imgSize c.afmt * r)) 0

/-- Sends an A panel that a slab uses onward, whole (R242). -/
def forwardPanel (s : State) (n : NibId) (c : MCmd) (afwd : Fin 4) (data : Nat) : State :=
  if afwd = 0 then s
  else
    match s.neighbour n (if afwd = 1 then 1 else 2) with
    | none => s
    | some m =>
      let dir : Fin 4 := if afwd = 1 then 0 else 1
      let (id, s) := s.newId
      let (t, s) := s.freeCycle (s.cycle + 1) none
      let o : Op := ⟨id, n, c.cid, c.seq, 0, .panel m dir c.stroke data, c.stroke, t, false, false, c.lc, c.lc, none⟩
      ({ s with ops := s.ops ++ [o] } : State).schedule t (.chainPanelArrival m dir id)

/-- The next panel of a chained command, taken from its stream (R242). -/
def takePanel (s : State) (n : NibId) (c : MCmd) (asrc : Fin 4) : Option (Nat × State) :=
  let m := s.matrix n
  match takeFirst (fun (x : Fin 8 × Nat) => x.1 == c.stroke) (if asrc = 1 then m.fromWest else m.fromNorth) with
  | none => none
  | some (x, r) =>
    some (x.2, s.modMatrix n (fun m => if asrc = 1 then { m with fromWest := r } else { m with fromNorth := r }))

/-- The next slab of an `mgo` begins, or waits, stops or parks (R231, R242, R244, R246). -/
def nextNest (s : State) (n : NibId) (c : MCmd) (asrc afwd : Fin 4) : State :=
  let off := c.bOff c.slab
  let again := Instr.slabEnd n
  if s.bankBad n c off then s.bankStop n c off
  else
    let z := imgSize c.afmt
    let rows := c.active (c.field 54)
    if asrc = 0 then
      match s.mreads n z 1 again (rows.map (fun m => (m, c.aAddr c.slab + BitVec.ofNat 64 (m * z)))) c [] with
      | (none, s) => s
      | (some (a, c), s) => (s.forwardPanel n c afwd (panelOf c a)).beginSlab n c a off.toNat
    else
      match s.takePanel n c asrc with
      | none => s
      | some (x, s) =>
        let a := rows.map (fun m => (m, x / 2 ^ (8 * z * m) % 2 ^ (8 * z)))
        (s.forwardPanel n c afwd x).beginSlab n c a off.toNat

/-! ## Grouped runs (R239 to R241) -/

/-- A list entry (R239); none where reserved bits are set (R241). -/
def groupOf (va : Word) (x : Nat) : Option Group :=
  let f := fun (o n : Nat) => x / 2 ^ (8 * o) % 2 ^ (8 * n)
  let wmem := f 5 1 = 1
  if 16 ≤ f 4 1 ∨ 2 ≤ f 5 1 ∨ (!wmem ∧ 2 ≤ f 0x18 8) then none
  else some ⟨va, f 0 2, f 2 2, Fin.ofNat 16 (f 4 1), wmem, BitVec.ofNat 16 (f 6 2), BitVec.ofNat 64 (f 8 8),
    BitVec.ofNat 64 (f 0x10 8), BitVec.ofNat 64 (f 0x18 8)⟩

/-- The expert is resident here: its entry says so and this nib is one of its homes (R240, R262); or the state that took the
read's place. The entry is read at its home, as an access of the command (R262): an entry outside the partition's HBM stops it
(R142, R244), with the entry's PA as its address (DESIGN CHOICE, assumption 23). -/
def resident (s : State) (n : NibId) (c : MCmd) (expert : Nat) : Option (Bool × MCmd) × State :=
  let p := s.parts[s.partOf n]
  let pa := p.ertFrame.toNat * 0x10000 + 32 * expert
  if p.nexp.toNat ≤ expert then (some (false, c), s)
  else if s.refusedOf n (s.engFor n c.cid).2 false pa then
    (none, s.matrixStop n c 4 causeLOADACC (BitVec.ofNat 64 pa) (.slabEnd n))
  else if s.goneHome pa then (none, s.modMatrix n (fun m => m.modCmd c.id (fun _ => c)))
  else
    let x := Memory.read s.mem pa 32
    let (t, s) := s.readStamp pa c.lc 0
    let nrep := x / 2 ^ 8 % 256
    let home := fun (h : Nat) => x / 2 ^ (8 * (8 + 4 * h)) % 2 ^ 32
    (some (x % 256 = 1 && 1 ≤ nrep && nrep ≤ 4 && (List.range nrep).any (fun h => home h == (s.nibNumber n).toNat),
      { c with lc := t, tmax := Clk.max c.tmax t }), s)

/-- The fill seal of a noted group has reached its threshold (R131, R240). -/
def filled (s : State) (n : NibId) (c : MCmd) (g : Group) : Bool :=
  g.fseal = 0 ||
    (match s.findCid n c.cid with
    | some x => (x.r.seals[g.fseal].count - g.fthr).msb = false
    | none => true)

/-- The clock of the fill seal that a group waited for (R187). -/
def fillClk (s : State) (n : NibId) (c : MCmd) (g : Group) : Clk :=
  match s.findCid n c.cid with
  | some x => if g.fseal = 0 then c.lc else Clk.max c.lc x.r.seals[g.fseal].clk
  | none => c.lc

/-- Moves the command out of the array: no slab follows, and what is dispatched next begins in its own cycle (R221, R236). -/
def leaveArray (s : State) (n : NibId) (c : MCmd) : State :=
  let s := s.modMatrix n (fun m =>
    { m with array := none, arrayEnd := 0, draining := if c.posted then m.draining else m.draining ++ [{ c with done := true, running := false }] })
  (s.matrixSettle n c.id).schedule s.cycle (.matrixDispatch n)

/-- Stores the command as the array holds it. -/
def putArray (s : State) (n : NibId) (c : MCmd) : State := s.modMatrix n (fun m => { m with array := some c })

/-- The next group of a grouped run: pass 1, then pass 2 (R240). -/
def pickGroup (s : State) (n : NibId) (list : Word) (total : Nat) (c : MCmd) : Nat → Option MCmd × State
  | 0 => (none, s)
  | fuel + 1 =>
    if c.grp.at_ < total then
      let va := list + BitVec.ofNat 64 (32 * c.grp.at_)
      match s.mread n c va 32 4 (.slabEnd n) with
      | (none, s) => (none, s)
      | (some (x, c), s) =>
        match groupOf va x with
        | none => (none, s.matrixStop n c 4 causeILLEGAL va (.slabEnd n))
        | some g =>
          if g.rows = 0 then s.pickGroup n list total { c with grp := { c.grp with at_ := c.grp.at_ + 1 } } fuel
          else
            match s.resident n c g.expert with
            | (none, s) => (none, s)
            | (some (here, c), s) =>
              let c := { c with grp := { c.grp with at_ := c.grp.at_ + 1 } }
              if here then (some { c with grp := { c.grp with cur := some g } }, s)
              else s.pickGroup n list total { c with grp := { c.grp with noted := c.grp.noted ++ [g] } } fuel
    else
      match c.grp.noted with
      | [] => (none, s.leaveArray n c)
      | g :: r =>
        if s.filled n c g then
          (some { c with lc := s.fillClk n c g, grp := { c.grp with cur := some g, noted := r } }, s)
        else (none, (s.putArray n c).schedule (s.cycle + 1) (.groupFillWait n))

/-- The gather and output entries of a tile of rows (R241). -/
def readRows (s : State) (n : NibId) (g : Group) : List Nat → MCmd → List GRow → Option (List GRow × MCmd) × State
  | [], c, acc => (some (acc.reverse, c), s)
  | m :: r, c, acc =>
    let i := 32 * c.grp.tile + m
    match s.mread n c (g.gather + BitVec.ofNat 64 (8 * i)) 8 4 (.slabEnd n) with
    | (none, s) => (none, s)
    | (some (a, c), s) =>
      match s.mread n c (g.outTab + BitVec.ofNat 64 (16 * i)) 16 4 (.slabEnd n) with
      | (none, s) => (none, s)
      | (some (o, c), s) =>
        s.readRows n g r c (⟨m, BitVec.ofNat 64 a, BitVec.ofNat 64 (o % 2 ^ 64), BitVec.ofNat 64 (o / 2 ^ 64)⟩ :: acc)

/-- The next slab of a group begins (R241). -/
def groupSlab (s : State) (n : NibId) (c : MCmd) (g : Group) : State :=
  let start := fun (s : State) (c : MCmd) =>
    let off : Int := c.field 50 + c.grp.j * c.str 0 2 + c.grp.q * c.str 1 2
    if s.bankBad n c off then s.bankStop n c off
    else
      let z := imgSize c.afmt
      let step := BitVec.ofInt 64 (c.grp.j * c.str 0 1)
      match s.mreads n z 1 (.slabEnd n) (c.grp.rows.map (fun r => (r.row, r.gather + step))) c [] with
      | (none, s) => s
      | (some (a, c), s) => s.beginSlab n c a off.toNat
  let rows := c.active (min 32 (g.rows - 32 * c.grp.tile))
  if c.grp.j = 0 ∧ c.grp.q = 0 then
    match s.readRows n g rows c [] with
    | (none, s) => s
    | (some (rs, c), s) => start s { c with grp := { c.grp with rows := rs } }
  else start s c

/-- A grouped run goes on: it picks its next group, loads its weights, or begins its next slab (R240, R241). -/
def nextGroup (s : State) (n : NibId) (c : MCmd) (list : Word) (total : Nat) : State :=
  let (c?, s) := match c.grp.cur with
    | some _ => (some c, s)
    | none => s.pickGroup n list total c (total + 2)
  match c? with
  | none => s
  | some c =>
    match c.grp.cur with
    | none => s
    | some g =>
      if !g.wmem then s.groupSlab n { c with grp := { c.grp with bank := Fin.ofNat 2 g.weight.toNat } } g
      else if c.grp.loaded then s.groupSlab n c g
      else
        let b : Fin 2 := Fin.ofNat 2 c.grp.loads
        let c := { c with grp := { c.grp with bank := b, loading := true } }
        let s := s.modMatrix n (fun m => { m with array := some c, banks := m.banks.set b { m.banks[b] with valid := false } })
        let (t, s) := s.freeCycle (s.cycle + 1) none
        s.schedule t (.weightLoadComplete n)

/-- The command that holds the array begins its next slab (R231, R236, R241). -/
def startSlab (s : State) (n : NibId) : State :=
  match (s.matrix n).array with
  | none => s
  | some c =>
    if c.running || c.grp.loading || s.cmdParked c.id then s
    else
      match c.kind with
      | .mgo asrc afwd => s.nextNest n c asrc afwd
      | .mgrp list total => s.nextGroup n c list total
      | _ => s

/-! ## The end of a slab -/

/-- Adds the rows of an emit; their writes begin in the cycle after the slab (R232, R236). -/
def addRows (s : State) (c : MCmd) (rs : List MRow) (e : Ev) (at_ : Nat) : MCmd × State :=
  let s := if c.rows.isEmpty && !rs.isEmpty then s.schedule at_ (.matrixRowWrite c.id) else s
  ({ c with rows := c.rows ++ rs, ev := c.ev ||| e }, s)

/-- The rows of an emit (R232, R233): `place` gives each active row its VA, whether that is a table entry, and its serif. -/
def emitRows (c : MCmd) (t : BitVec 32768) (rows : List (Nat × Word × Bool × Word)) : List MRow × Ev :=
  rows.foldl (fun (acc : List MRow × Ev) (m, va, table, serif) =>
    let (x, size, al, e) := emitRow c t m
    (acc.1 ++ [⟨va, table, x, size, al, serif, none, 0⟩], acc.2 ||| e)) ([], 0)

/-- An emit of an `mgo` with C address `a` (R231 to R233). -/
def emitNest (s : State) (n : NibId) (c : MCmd) (a : Word) : MCmd × State :=
  let t := (s.matrix n).tiles[c.acc]
  let rows := c.active (c.field 54)
  let crow := c.field 59
  let (rs, e) := match c.field 58 with
    | 0 => emitRows c t (rows.map (fun m => (m, a + BitVec.ofNat 64 (m * crow), false, 0)))
    | 1 => emitRows c t (rows.map (fun m => (m, a + BitVec.ofNat 64 (16 * m), true, 0)))
    | _ => ([], 0)
  s.addRows c rs e (s.cycle + 1)

/-- An emit of a grouped run: the epilogue runs on every active row, and an output row of VA 0 is not written (R232, R233,
R241). -/
def emitGroup (s : State) (n : NibId) (c : MCmd) : MCmd × State :=
  let t := (s.matrix n).tiles[c.acc]
  let step := BitVec.ofInt 64 (c.grp.q * c.str 1 3)
  let (rs, e) := emitRows c t (c.grp.rows.map (fun r => (r.row, r.out + step, false, r.serif)))
  let out := (rs.zip c.grp.rows).filterMap (fun (x, r) => if r.out = 0 then none else some x)
  s.addRows c out e (s.cycle + 1)

/-- The command after a slab of a grouped run: j, q, tile and group advance (R241). -/
def advanceGroup (c : MCmd) (g : Group) : MCmd :=
  let r := c.grp
  if r.j + 1 < c.count 0 then { c with grp := { r with j := r.j + 1 } }
  else if r.q + 1 < c.count 1 then { c with newTile := true, grp := { r with j := 0, q := r.q + 1 } }
  else if 32 * (r.tile + 1) < g.rows then { c with newTile := true, grp := { r with j := 0, q := 0, tile := r.tile + 1 } }
  else
    { c with newTile := true
             grp := { r with j := 0, q := 0, tile := 0, cur := none, loaded := false
                             loads := if g.wmem then r.loads + 1 else r.loads } }

/-- The slab that ends completes an output tile (R231, R241). -/
def tileEnds (c : MCmd) : Bool :=
  match c.kind with
  | .mgrp .. => c.grp.j + 1 = c.count 0
  | _ => !(c.emitLevels c.slab).isEmpty || c.slab + 1 = c.total

/-- What follows a slab whose results stand (R231, R232, R236, R241). -/
def afterSlab (s : State) (n : NibId) (c : MCmd) : State :=
  let c := { c with running := false, failed := 0 }
  match c.kind with
  | .mgrp .. =>
    match c.grp.cur with
    | none => s.putArray n c
    | some g =>
      if c.grp.j + 1 = c.count 0 then
        let (c, s) := s.emitGroup n { c with tiles := c.tiles + 1 }
        (s.putArray n (advanceGroup c g)).startSlab n
      else (s.putArray n (advanceGroup c g)).startSlab n
  | _ =>
    let ls := c.emitLevels c.slab
    let x := c.slab
    let (c, s) := ls.foldl (fun (acc : MCmd × State) l => acc.2.emitNest n acc.1 (acc.1.cAddr x l)) (c, s)
    let c := { c with slab := x + 1, newTile := c.newTile || !ls.isEmpty, tiles := if ls.isEmpty then c.tiles else c.tiles + 1 }
    if c.slab = c.total then s.leaveArray n c else (s.putArray n c).startSlab n

/-- The checksum of a tile has failed twice (R247): the command ends, once `mfault` is free to say so. -/
def failTile (s : State) (n : NibId) (c : MCmd) : State :=
  if s.stopFull n c.cid then (s.putArray n { c with failed := 2 }).schedule (s.cycle + 8) (.slabEnd n)
  else
    let s := s.modMatrix n (fun m => { m with tiles := m.tiles.set c.acc c.start })
    let s := s.modCid n c.cid (fun x => { x with c := { x.c with mfault := mfaultWord c 7 causeMCHECK false } })
    (s.deliver n c.cid causeMCHECK (BitVec.ofNat 64 c.tiles)).leaveArray n c

/-- The checksums of a finished output tile (R247): a first mismatch reruns the slabs of the tile, each at the k then in force
(R371); a second ends the command. -/
def checkTile (s : State) (n : NibId) (c : MCmd) : State :=
  if c.failed = 2 then s.failTile n c
  else
    let (k, s) := s.freshNum
    if !Config.arrayError k then s.afterSlab n c
    else if c.failed = 0 then s.holdArray n { c with failed := 1, rerun := c.tileSlabs } (s.slabTime c)
    else s.failTile n c

/-- What follows a slab that has ended: the next slab of a rerun, the checks of a finished output tile, or the emits (R231,
R247). -/
def slabEnds (s : State) (n : NibId) (c : MCmd) : State :=
  if 1 < c.rerun then s.holdArray n { c with rerun := c.rerun - 1 } (s.slabTime c)
  else
    let c := { c with rerun := 0 }
    if c.chk && tileEnds c then s.checkTile n c else s.afterSlab n c

end State

/-- SLAB_END: the slab or occupation that holds the array ends in this cycle, and the emits, the next slab or the next
command follow; a command that waited to begin a slab tries again (R221, R231, R232, R236, R247). -/
def execSlabEnd (n : NibId) (s : State) : Res :=
  match (s.matrix n).array with
  | none => .next s
  | some c =>
    if c.running then
      if s.cycle * State.matrixUnit < (s.matrix n).arrayEnd then .next s
      else
        match c.kind with
        | .mgo .. | .mgrp .. => .next (s.slabEnds n c)
        | _ => .next (s.leaveArray n { c with running := false })
    else .next (s.startSlab n)

/-- GROUP_FILL_WAIT: a grouped run whose next noted group waits for its fill seal looks at it (R240). -/
def execGroupFillWait (n : NibId) (s : State) : Res :=
  match (s.matrix n).array with
  | some c => if c.running || c.grp.cur.isSome then .next s else .next (s.startSlab n)
  | none => .next s

/-- CHAIN_PANEL_ARRIVAL: the oldest panel on its way to this stream arrives, and a stalled slab begins (R242). -/
def execChainPanelArrival (n : NibId) (dir : Fin 4) (_id : Nat) (s : State) : Res :=
  let found := s.ops.findSome? (fun o => match o.kind with
    | .panel m d k x => if m == n && d == dir then some (o.id, k, x) else none
    | _ => none)
  match found with
  | none => .next s
  | some (id, k, x) =>
    let s := (s.dropOp id).modMatrix n (fun m =>
      if dir = 0 then { m with fromWest := m.fromWest ++ [(k, x)] } else { m with fromNorth := m.fromNorth ++ [(k, x)] })
    .next (s.startSlab n)

namespace State

/-! ## Dispatch (R236) -/

/-- The head of the queue meets the conditions of its kind, its age apart. -/
def canDispatch (s : State) (n : NibId) (c : MCmd) : Bool :=
  let m := s.matrix n
  match c.kind with
  | .mwld b _ _ => !m.loading && (s.arrayHolders n).all (fun a => !a.reads b)
  | _ => (s.arrayHolders n).isEmpty && (match m.loader with
      | some l => (match l.kind with | .mwld b _ _ => !c.reads b | _ => true)
      | none => true)

/-- The head is dispatched (R236 to R238, R245, R283). -/
def serve (s : State) (n : NibId) (c : MCmd) : State :=
  match c.kind with
  | .mwld b _ _ =>
    let s := s.modMatrix n (fun m => { m with loader := some c, banks := m.banks.set b { m.banks[b] with valid := false } })
    let (t, s) := s.freeCycle (s.cycle + 1) none
    s.schedule t (.weightLoadComplete n)
  | _ =>
    let rows := fun (s : State) => if c.rows.isEmpty then s else s.schedule s.cycle (.matrixRowWrite c.id)
    if c.done then (rows s).leaveArray n c
    else
      match c.kind with
      | .mgo .. | .mgrp .. => if c.running then (rows s).holdArray n c (s.slabTime c) else ((rows s).putArray n c).startSlab n
      | .mzero t =>
        let s := s.modMatrix n (fun m => { m with tiles := m.tiles.set t 0 })
        (s.holdArray n { c with done := true } (4 * matrixUnit)).matrixSettle n c.id
      | .mrd t a =>
        let x := (s.matrix n).tiles[t]
        let rs := (List.range 32).map (fun m =>
          (⟨a + BitVec.ofNat 64 (128 * m), false, (x.extractLsb' (1024 * m) 1024).toNat, 128, 64, 0, none, 0⟩ : MRow))
        (s.schedule s.cycle (.matrixRowWrite c.id)).holdArray n { c with done := true, rows := rs } (32 * matrixUnit)
      | .topk t =>
        let s := s.modOp c.id (fun o => match o.kind with
          | .copy a d k p r _ e => { o with kind := .copy a d k p r (some (s.matrix n).tiles[t]) e }
          | _ => o)
        (s.quillGo n).holdArray n { c with done := true, posted := true } (32 * matrixUnit)
      | .mwld .. => s

/-- Dispatches from the head of the queue while it can be (R236). -/
def dispatchQueue (s : State) (n : NibId) : Nat → State
  | 0 => s
  | fuel + 1 =>
    let m := s.matrix n
    match m.queue with
    | [] => s
    | c :: r =>
      if (match s.findCid n c.cid with | some x => x.c.stopped | none => false) then
        (s.modMatrix n (fun m => { m with queue := r, held := m.held ++ [c] })).dispatchQueue n fuel
      else if !s.canDispatch n c then s
      else if s.cycle < c.issue + 16 then s.schedule (c.issue + 16) (.matrixDispatch n)
      else ((s.modMatrix n (fun m => { m with queue := r })).serve n c).dispatchQueue n fuel

end State

/-- MATRIX_DISPATCH: the head of the command queue is dispatched when its conditions are met, and so on down the queue
(R236). -/
def execMatrixDispatch (n : NibId) (s : State) : Res := .next (s.dispatchQueue n ((s.matrix n).queue.length + 1))

namespace State

/-! ## Weight loads (R237, R241) -/

/-- Reads a weight image for a command: RAWLEN and the decoded stream. `want` is the length that g[b] gives. -/
def readImage (s : State) (n : NibId) (c : MCmd) (va : Word) (want : Option Nat) (again : Instr) :
    Option (Nat × Nat × MCmd) × State :=
  match s.mread n c va 16 5 again with
  | (none, s) => (none, s)
  | (some (h, c), s) =>
    let bad := fun (s : State) => (none, s.matrixStop n c 5 causeILLEGAL va again)
    match weightHeader h with
    | none => bad s
    | some (mode, raw, enc) =>
      if (match want with | some w => w != 16 + enc | none => false) then bad s
      else
        match s.mread n c (va + 16) enc 5 again with
        | (none, s) => (none, s)
        | (some (x, c), s) =>
          match decodeImage mode raw enc x with
          | none => bad s
          | some y => (some (raw, y, c), s)

end State

/-- WEIGHT_LOAD_COMPLETE: the image has been read and checked; the bank becomes valid, and the seal of an `mwld` posts, or
the group whose weights it holds goes on (R237, R241). -/
def execWeightLoadComplete (n : NibId) (s : State) : Res :=
  let again := Instr.weightLoadComplete n
  match (s.matrix n).loader with
  | some c =>
    match c.kind with
    | .mwld b va len =>
      if s.cmdParked c.id then .next s
      else
      match s.readImage n c va (some len) again with
      | (none, s) => .next s
      | (some (raw, x, c), s) =>
        let s := s.modMatrix n (fun m =>
          { m with banks := m.banks.set b ⟨true, raw, x⟩, loader := none, draining := m.draining ++ [{ c with done := true }] })
        .next ((s.matrixSettle n c.id).schedule s.cycle (.matrixDispatch n))
    | _ => .next s
  | none =>
    match (s.matrix n).array with
    | none => .next s
    | some c =>
      match c.grp.cur with
      | none => .next s
      | some g =>
        if !c.grp.loading || s.cmdParked c.id then .next s
        else
          match s.readImage n c g.weight none again with
          | (none, s) => .next s
          | (some (raw, x, c), s) =>
            let c := { c with grp := { c.grp with loading := false, loaded := true } }
            let s := s.modMatrix n (fun m => { m with array := some c, banks := m.banks.set c.grp.bank ⟨true, raw, x⟩ })
            .next (s.startSlab n)

namespace State

/-! ## Row writes (R233, R234) -/

/-- Sends a landing decrement of the issuing context to the serif at `pa` (R265): it is performed in a later cycle. -/
def sendDecr (s : State) (n : NibId) (k : Fin 8) (cid : Nat) (va : Word) (pa : Nat) (owner : Nat) (t : Clk) : State :=
  match unitOf pa with
  | .well m off =>
    let (id, s) := s.newId
    let (c, s) := s.freeCycle (s.cycle + 1) none
    let o : Op := ⟨id, n, cid, .s, 0, .decr va pa (s.nibNumber n) owner, k, c, false, false, t, t, none⟩
    ({ s with ops := s.ops ++ [o] } : State).schedule c (.landingDecrement m (BitVec.ofNat 64 off) n)
  | _ => s

/-- The PA of a serif for an engine (R265): it must be a 4-byte aligned word of a well. -/
def serifLook (s : State) (n : NibId) (cid : Nat) (va : Word) : EngLook :=
  let (root, priv) := s.engFor n cid
  match s.engCheck n root priv va 4 4 true with
  | .ok rs => if rs.all (fun r => match unitOf r.pa with | .well _ _ => true | _ => false) then .ok rs else .fail causeSTOREACC va
  | x => x

/-- The first row is done with: the next follows in the next cycle, or the command may post, and the array falls free after
the last row of an `mrd` (R236, R238). -/
def rowDone (s : State) (n : NibId) (id : Nat) : State :=
  let s := s.modMatrix n (fun m => m.modCmd id (fun c => { c with rows := c.rows.tail }))
  match (s.matrix n).findCmd id with
  | some c =>
    if c.rows.isEmpty then (s.matrixSettle n id).schedule (s.cycle + 1) (.matrixDispatch n)
    else s.schedule (s.cycle + 1) (.matrixRowWrite id)
  | none => s

/-- The write of a checked row: performed at once in the nib's own well, else on its way; with its operation, or its time
(R233, R236). -/
def writeRow (s : State) (n : NibId) (c : MCmd) (r : MRow) (rs : List Range) : Nat × Clk × State :=
  if ownPieces n rs then
    let (t, s) := s.engStore r.data rs c.lc
    (0, t, s.modMatrix n (·.modCmd c.id (·.took t)))
  else
    let (op, s) := s.newId
    let (t, s) := s.freeCycle s.cycle none
    let o : Op := ⟨op, n, c.cid, c.seq, 0, .mrow c.id rs r.data none, c.stroke, t, false, false, c.lc, c.lc, none⟩
    (op, 0, ({ s with ops := s.ops ++ [o] } : State).schedule t (.homeWrite op))

/-- The landing decrement of a row whose write has been sent (R233, R234). -/
def rowSerif (s : State) (n : NibId) (c : MCmd) (r : MRow) (op : Nat) : State :=
  if r.serif = 0 then s.rowDone n c.id
  else
    match s.serifLook n c.cid r.serif with
    | .fail code v => s.matrixStop n c 3 code v (.matrixRowWrite c.id)
    | .replay v => s.parkEngine n c.stroke c.cid (s.engFor n c.cid).1 v (.matrix c.id)
    | .wait => s.schedule (s.cycle + 1) (.matrixRowWrite c.id)
    | .gone => s
    | .ok rs =>
      let pa := (rs.head?.map (·.pa)).getD 0
      let s := match s.findOp op with
        | some _ => s.modOp op (fun o => match o.kind with
            | .mrow i t d _ => { o with kind := .mrow i t d (some (r.serif, pa)) }
            | _ => o)
        | none => s.sendDecr n c.stroke c.cid r.serif pa c.id r.time
      s.rowDone n c.id

/-- The first row of a command: its table entry is read, its image written, its decrement sent (R233). Rows of VA 0 are
skipped. -/
def stepRow (s : State) (n : NibId) (id : Nat) : Nat → State
  | 0 => s
  | fuel + 1 =>
    match (s.matrix n).findCmd id with
    | none => s
    | some c =>
      match c.rows with
      | [] => s.matrixSettle n id
      | r :: rest =>
        let put := fun (s : State) (c : MCmd) (r : MRow) => s.modMatrix n (fun m => m.modCmd id (fun _ => { c with rows := r :: rest }))
        if r.table then
          match s.mread n c r.va 16 4 (.matrixRowWrite id) with
          | (none, s) => s
          | (some (x, c), s) =>
            let r := { r with va := BitVec.ofNat 64 (x % 2 ^ 64), serif := BitVec.ofNat 64 (x / 2 ^ 64), table := false }
            if r.va = 0 then (s.modMatrix n (fun m => m.modCmd id (fun _ => { c with rows := rest }))).stepRow n id fuel
            else (put s c r).stepRow n id fuel
        else
          match r.sent with
          | some op => s.rowSerif n c r op
          | none =>
            match s.mfetch n c r.va r.size r.align true 2 (.matrixRowWrite id) with
            | .stop s => s
            | .ok rs =>
              let (op, t, s) := s.writeRow n c r rs
              let r := { r with sent := some op, time := t }
              let c := ((s.matrix n).findCmd id).getD c
              let s := put s c r
              s.rowSerif n { c with rows := r :: rest } r op

/-- The nib at whose engine a matrix command stands. -/
def cmdNib (s : State) (id : Nat) : Option NibId :=
  (s.nibs.find? (fun x => (x.2.matrix.findCmd id).isSome)).map (·.1)

end State

/-- MATRIX_ROW_WRITE: the next row of an emit of command `id` is written (R233, R236). -/
def execMatrixRowWrite (id : Nat) (s : State) : Res :=
  match s.cmdNib id with
  | none => .next s
  | some n =>
    if s.cmdParked id then .next s
    else .next (s.stepRow n id ((((s.matrix n).findCmd id).map (·.rows.length)).getD 0 * 2 + 2))

/-- MATRIX_POST: command `id` is complete once its last access has been performed; and its seal posts, with the largest
time of its accesses and its events (R93, R234, R236). -/
def execMatrixPost (id : Nat) (s : State) : Res :=
  match s.findOp id with
  | some o =>
    match o.kind with
    | .matrixPost ev => .next (s.landOp o [] ev)
    | _ => .next s
  | none =>
    match s.cmdNib id with
    | some n => .next (s.matrixSettle n id)
    | none => .next s

/-- MFAULT_ABORT: the stopped command of the stroke, abandoned, ends without further access, and its seal posts
(R245). -/
def execMfaultAbort (n : NibId) (k : Fin 8) (s : State) : Res :=
  let c := (s.stroke n k).ctx
  let s := if c.c.stopped && (s.matrix n).stopped.any (·.cid == c.cid) then
      (s.modMatrix n (fun m => m.abort c.cid)).modCtxAt n k (fun c => { c with c := { c.c with mfault := c.c.mfault &&& ~~~ 1 } })
    else s
  let ids := ((s.matrix n).draining.filter (fun d => d.cid == c.cid && d.done)).map (·.id)
  .next ((ids.foldl (fun s i => s.matrixSettle n i) s).schedule s.cycle (.matrixDispatch n))

/-! ## The instructions (R227 to R249) -/

namespace State

/-- `mcfg`, `mcfgr` (R230). -/
def configure (s : State) (f : BitVec 12) (v : BitVec 32) : State :=
  match shadowIndex f with
  | none => s.illegal
  | some i => if shadowRange i v.toNat then (s.land 1 (.shadow i v)).retire else s.illegal

/-- Enters a command in the queue (R235, R236). -/
def enqueue (s : State) (sl : Fin 16) (kind : MKind) (fmt : BitVec 32) : State :=
  let (id, s) := s.newId
  let c : MCmd := { id := id, cid := s.ctx.cid, stroke := s.cur.k, seq := s.cur.q, sl := sl, kind := kind, fmt := fmt
                    snap := s.ctx.x.shadow, issue := s.cycle, lc := s.lc, tmax := s.lc, slab := 0, running := false
                    newTile := true, start := 0, tileSlabs := 0, tiles := 0, rows := [], ev := 0, grp := GrpRun.reset
                    failed := 0, rerun := 0, done := false, posted := false }
  let s := s.modMatrix s.cur.nib (fun m => { m with queue := m.queue ++ [c] })
  s.schedule (s.cycle + 16) (.matrixDispatch s.cur.nib)

/-- The command queue holds 4 entries (R235). -/
def queueFull (s : State) : Bool := 4 ≤ (s.matrix s.cur.nib).queue.length

/-- The waits of R235, and then the issue. -/
def submit (s : State) (sl : Fin 16) (kind : MKind) (fmt : BitVec 32) : State :=
  if s.queueFull then s.waitMem
  else if s.sealFull sl then s
  else if sl = 0 then (s.enqueue sl kind fmt).retire
  else ((s.enqueue sl kind fmt).pendSeal sl).retire

/-- `mgo` and `mgrp` after the checks of R39: the format word, the waits, the issue (R228, R235). -/
def submitFmt (s : State) (sl : Fin 16) (kind : MKind) (grouped : Bool) : State :=
  match s.ctx.x.fmt with
  | [] => s.raise causeFMTUNDER 0
  | w :: r =>
    let pop := fun (s : State) => s.modCtx (fun c => { c with x := { c.x with fmt := r } })
    if fmtBad w || (grouped && fmtField w 20 4 = 1) then (pop s).raise causeILLEGAL (BitVec.ofNat 64 (2 ^ 32 + w.toNat))
    else if s.queueFull then s.waitMem
    else if s.sealFull sl then s
    else (((pop s).enqueue sl kind w).pendSeal sl).retire

/-- The launch gave the stroke a ruled-plane slot toward direction d, and the border there is open (R235, order 2). -/
def ruledSlot (s : State) (d : Fin 4) : Bool := s.ctx.task.ruled.getLsbD d.val && (s.neighbour s.cur.nib d).isSome

end State

def execMcfg (f : BitVec 12) (k : BitVec 32) (s : State) : Res := s.guarded [] [] false (fun s => s.configure f k)

/-- `mcfgr`: a reserved field number is a reserved value of the word, ahead of UWREAD (R39, R230). -/
def execMcfgr (a : Fin 32) (f : BitVec 12) (s : State) : Res :=
  if (shadowIndex f).isNone then .next s.illegal
  else s.guarded [.g a] [] false (fun s => s.configure f ((s.rg a).setWidth 32))

def execMfmt (a : Fin 32) (s : State) : Res :=
  s.guarded [.g a] [] false (fun s =>
    let w : BitVec 32 := (s.rg a).setWidth 32
    if fmtBad w then s.raise causeILLEGAL (BitVec.ofNat 64 (2 ^ 32 + w.toNat))
    else if 2 ≤ s.ctx.x.fmt.length then s.raise causeILLEGAL (BitVec.ofNat 64 (2 * 2 ^ 32 + w.toNat))
    else (s.land 1 (.fmtPush w)).retire)

/-- `mgo` (R235): `w` is AFWD, `c` ASRC. -/
def execMgo (sl : Fin 16) (w c : Fin 4) (s : State) : Res :=
  s.guarded [] [] false (fun s =>
    let need := (if c = 1 then [3] else if c = 2 then [0] else []) ++ (if w = 1 then [1] else if w = 2 then [2] else [])
    if need.all s.ruledSlot then s.submitFmt sl (.mgo c w) false else s.illegal)

def execMgrp (sl : Fin 16) (a b : Fin 32) (s : State) : Res :=
  s.guarded [.g a, .g b] [] false (fun s => s.submitFmt sl (.mgrp (s.rg a) ((s.rg b).toNat % 2 ^ 16)) true)

def execMwld (sl : Fin 16) (a b : Fin 32) (k : Fin 2) (s : State) : Res :=
  s.guarded [.g a, .g b] [] false (fun s => s.submit sl (.mwld k (s.rg a) (s.rg b).toNat) 0)

def execMzero (a : Fin 32) (s : State) : Res :=
  s.guarded [.g a] [] false (fun s => s.submit 0 (.mzero (BitVec.toFin ((s.rg a).setWidth 3))) 0)

def execMrd (sl : Fin 16) (a b : Fin 32) (s : State) : Res :=
  s.guarded [.g a, .g b] [] false (fun s =>
    let va := s.rg b
    if va.toNat % 64 ≠ 0 then s.raise causeSTOREALIGN va
    else if !State.inWindow va 4096 then s.raise causeLOCALITY va
    else s.submit sl (.mrd (BitVec.toFin ((s.rg a).setWidth 3)) va) 0)

def execMresume (s : State) : Res := s.simple [] [] (fun s => s.land 1 .mresume)

/-- `mstat` (R249). -/
def execMstat (d : Fin 32) (s : State) : Res :=
  s.simple [] [.g d] (fun s =>
    let m := s.matrix s.cur.nib
    let b := fun (i : Nat) (x : Bool) => if x then 2 ^ i else 0
    s.landG 1 d (BitVec.ofNat 64 (b 15 s.ctx.c.stopped + b 11 m.banks[1].valid + b 10 m.banks[0].valid + b 9 m.loading +
      b 8 (!(s.arrayHolders s.cur.nib).isEmpty) + s.ctx.x.fmt.length % 4 * 2 ^ 4 + m.queue.length % 16)))

end Sys2Proof.Machine
end

