-- ==== Sys2Proof/Machine/Block.lean ====
section
/-! DEFINITION. Sys2Proof/Machine/Block.lean: blocks, the private working copies of global data in a well (06_memory.md R158
to R161). -/

namespace Sys2Proof.Machine

open Sys2Proof

namespace State

/-- The block of the issuing nib whose address is `a` (R158). -/
def blockAt (s : State) (a : Word) : Option Block := s.cnib.blocks.find? (·.addr == a.toNat)

/-- The address lies inside a block without being its address: R160 gives no outcome (DESIGN CHOICE, assumption 24). -/
def blockInside (s : State) (a : Word) : Bool :=
  s.cnib.blocks.any (fun b => b.addr < a.toNat && a.toNat < b.addr + 256 * b.lines)

/-- Starts the cell accesses of a fill or a drain, whose entry changes at the end of the turn (R158 to R160). -/
def issueBlock (s : State) (sl : Fin 16) (addr lines : Nat) (va : Word) (cells : List Range) (drain : Bool) : State :=
  let (id, s) := s.newOp sl (.block addr cells drain)
  let (c, s) := s.freeCycle (s.turnCycle 2) none
  let s := s.land 1 (.blockSet addr lines va (if drain then 3 else 1) id)
  ((s.schedule c (if drain then .homeWrite id else .homeRead id)).pendSeal sl).retire

end State

/-- `ldblk` (R159): `l` is lines - 1. Both ranges make the checks of R147, the well range first. -/
def execLdblk (d a : Fin 32) (sl : Fin 16) (l : BitVec 6) (s : State) : Res :=
  s.guarded [.g d, .g a] [] true (fun s =>
    let lines := l.toNat + 1
    let size := 256 * lines
    let well : State.Acc := ⟨s.rg d, size, 256, false, false, false, false, false⟩
    let src : State.Acc := ⟨s.rg a, size, 256, false, true, false, false, false⟩
    s.access ⟨[(well, 0), (src, 0)], sl, false, 0⟩ (fun s rs =>
      let base := (s.rg d).toNat
      match s.cnib.blocks.find? (fun b => b.addr < base + size && base < b.addr + 256 * b.lines) with
      | some b => s.raise causeBLKNRDY (BitVec.ofNat 64 b.addr)
      | none =>
        if 64 ≤ s.cnib.blocks.length then s.waitMem
        else s.issueBlock sl base lines (s.rg a) (rs.drop (4 * lines)) false))

/-- `bfree` (R160). -/
def execBfree (a : Fin 32) (s : State) : Res :=
  s.guarded [.g a] [] false (fun s =>
    match s.blockAt (s.rg a) with
    | some b => if b.state = 2 then (s.land 1 (.blockFree b.addr)).retire else s.raise causeBLKNRDY (s.rg a)
    | none => if s.blockInside (s.rg a) then s.raise causeBLKNRDY (s.rg a) else s.retire)

/-- `bstat` (R160): an address inside a block that is not its address gives a free value (DESIGN CHOICE, assumption 24). -/
def execBstat (d a : Fin 32) (s : State) : Res :=
  s.simple [.g a] [.g d] (fun s =>
    match s.blockAt (s.rg a) with
    | some b => s.landG 1 d (BitVec.ofNat 64 (b.state % 4 + (b.lines - 1) * 4))
    | none =>
      if s.blockInside (s.rg a) then
        let (k, s) := s.freshNum
        s.landG 1 d (BitVec.ofNat 64 (Config.freeBits k))
      else s.landG 1 d 0)

/-- `bdrain` (R160): its destination is translated at issue, with STORE causes. -/
def execBdrain (sl : Fin 16) (a : Fin 32) (s : State) : Res :=
  s.guarded [.g a] [] true (fun s =>
    match (s.blockAt (s.rg a)).filter (·.state == 2) with
    | none => s.raise causeBLKNRDY (s.rg a)
    | some b =>
      let dst : State.Acc := ⟨b.va, 256 * b.lines, 256, true, true, false, false, false⟩
      s.access ⟨[(dst, 0)], sl, false, 1⟩ (fun s rs => s.issueBlock sl b.addr b.lines b.va rs true))

/-- BLOCK_FILL_COMPLETE: every line has been written; the entry becomes ready and the seal posts (R159). -/
def execBlockFillComplete (id : Nat) (s : State) : Res :=
  match s.findOp id with
  | some o =>
    match o.kind with
    | .block .. =>
      .next ((s.modNib o.nib (fun n =>
        { n with blocks := n.blocks.map (fun b => if b.op = id then { b with state := 2 } else b) })).landOp o [] 0)
    | _ => .next s
  | none => .next s

/-- BLOCK_DRAIN_COMPLETE: the whole block has been written back; the entry becomes empty and the seal posts (R160). -/
def execBlockDrainComplete (id : Nat) (s : State) : Res :=
  match s.findOp id with
  | some o =>
    match o.kind with
    | .block .. => .next ((s.modNib o.nib (fun n => { n with blocks := n.blocks.filter (·.op != id) })).landOp o [] 0)
    | _ => .next s
  | none => .next s

end Sys2Proof.Machine
end

