-- ==== Sys2Proof/Machine/Copy.lean ====
section
/-! DEFINITION. Sys2Proof/Machine/Copy.lean: the quill (11_exchange.md R278 to R285). HOME_WRITE serves a local copy once, REMOTE_ACCESS
one with a remote side; COPY_COMPLETE ends it. -/

namespace Sys2Proof.Machine

open Sys2Proof

/-! ## Descriptors (R279, R282 to R284) -/

/-- The offset of the first field out of range, or non-zero where 0 is required (R280, order 4). `kind` 0 is `cpy`, 1
`cpy.topk`, 2 `cpy.pack`. -/
def copyBad (kind : Fin 4) (d : BitVec 512) : Option Nat :=
  let f := descNat d
  let opt := f 0x30 4
  let k := opt % 16
  let n := opt / 16 % 64
  let checks : List (Nat × Bool) := match kind with
    | 1 =>
      [(0, 8 ≤ f 0 8), (0x10, f 0x10 4 != 0), (0x14, f 0x14 2 = 0 || 32 < f 0x14 2), (0x16, f 0x16 2 != 0),
       (0x18, f 0x18 4 != 0), (0x1C, f 0x1C 4 != 0), (0x24, f 0x24 4 != 0),
       (0x30, k = 0 || 8 < k || n = 0 || 32 < n || n < k || 1024 ≤ opt)]
    | _ =>
      let x := f 0x10 4
      let size := if opt % 2 = 1 then 2 else 4
      let badOpt : Bool :=
        if kind = 0 then opt &&& 0xFFFFFF0C != 0 || opt % 4 = 3 || (opt % 4 = 0 && opt / 16 % 16 != 0) else 2 ≤ opt
      [(0x10, x = 0 || 16777215 < x || (kind = 2 && x % size != 0)), (0x14, f 0x14 2 = 0), (0x16, f 0x16 2 = 0),
       (0x30, badOpt)]
  checks.findSome? (fun (o, b) => if b then some o else none)

/-- Source and destination of row i (R281, R283). -/
def copySrc (d : BitVec 512) (i : Nat) : Word :=
  let y := i % descNat d 0x14 2
  let z := i / descNat d 0x14 2
  BitVec.ofNat 64 (descNat d 0 8) + BitVec.ofInt 64 (y * descInt d 0x18 + z * descInt d 0x1C)

def copyDst (d : BitVec 512) (i : Nat) : Word :=
  let y := i % descNat d 0x14 2
  let z := i / descNat d 0x14 2
  BitVec.ofNat 64 (descNat d 8 8) + BitVec.ofInt 64 (y * descInt d 0x20 + z * descInt d 0x24)

/-- Bytes that a row of a copy writes. -/
def copyOut (kind : Fin 4) (d : BitVec 512) : Nat :=
  match kind with
  | 1 => 8 * (descNat d 0x30 4 % 16)
  | 2 => 20 * ((descNat d 0x10 4 / (if descNat d 0x30 4 % 2 = 1 then 2 else 4) + 31) / 32)
  | _ => descNat d 0x10 4

/-- The K best entries of a tile row, as `vtopk` orders them: column, then value (R251, R283). -/
def topkRow (t : BitVec 32768) (r k n : Nat) : Nat :=
  let v := fun c => tileAt t (32 * r + c)
  let o := sortBy (fun i j => decide (f32Key (v j) < f32Key (v i))) (List.range n)
  ((o.take k).zipIdx).foldl (fun a (c, i) => a + (c + v c * 2 ^ 32) * 2 ^ (64 * i)) 0

/-- A row packed to BFP4 blocks, and its events (R78, R284). -/
def packRow (x bytes : Nat) (half : Bool) : Nat × Ev :=
  let b := if half then 2 else 4
  let f := if half then fmt16 else fmt32
  let e := bytes / b
  (List.range ((e + 31) / 32)).foldl (fun (acc : Nat × Ev) i =>
    let xs := (List.range 32).map (fun j =>
      if 32 * i + j < e then f.value (x / 2 ^ (8 * b * (32 * i + j)) % 2 ^ (8 * b)) else .fin false 0 0)
    let (planes, ex, ev) := bfpPack 4 false xs
    (acc.1 + (planes + ex * 2 ^ 128) * 2 ^ (160 * i), acc.2 ||| evIf (ev.getLsbD 6) evSAT)) (0, 0)

namespace State

/-! ## Service (R281, R285) -/

/-- The command ends: STATUS and FAULTVA are written, and the seal posts in the stroke's next turn (R279, R285). -/
def copyEnd (s : State) (o : Op) (desc : Word) (status : Nat) (va : Word) : State :=
  let (t, s) := s.engWrite o.nib (desc.toNat + 0x34) 12 (status + va.toNat * 2 ^ 32) o.lc
  s.modOp o.id (fun o => { o with performed := true, due := s.cycle, lc := t, tmax := Clk.max o.tmax t })

/-- A failed access ends the command (R285). -/
def copyFail (s : State) (o : Op) (desc : Word) (c : BitVec 8) (va : Word) : State :=
  s.copyEnd o desc (1 + c.toNat * 256) va

/-- The command stands before an access that is never performed (R386). -/
def copyHold (s : State) (o : Op) : State := s.modOp o.id (fun o => { o with parked := true })

/-- The access did not go through: the command ends, parks, or tries again in its next turn of service (R161, R170, R285). -/
def copyStall (s : State) (o : Op) (desc : Word) (l : EngLook) : State :=
  match l with
  | .fail c va => s.copyFail o desc c va
  | .replay va =>
    (s.modOp o.id (fun o => { o with parked := true })).coalesce o.id o.nib o.stroke (asidOf (s.engFor o.nib o.cid).1) va 3
  | .gone => s.copyHold o
  | _ => s.modOp o.id (fun o => { o with due := s.cycle + 1 })

/-! ## Remote sides (R282) -/

/-- What a remote access needs of this module, where its peer partition is: that partition holds an enabled window naming the
issuing module and virtual function, and the address lies in its HBM or wells. -/
def remoteHere (s : State) (modn : BitVec 16) (vf pvf pa : Nat) : Bool :=
  let p : Fin 16 := Fin.ofNat 16 (pvf - 1)
  let x := s.parts[p]
  pvf != 0 && x.vf = pvf && x.fwin.toList.any (fun w => w.en && w.modn == modn && w.pvf.toNat == vf) &&
    (match unitOf pa with
    | .hbm f => s.partHas p f
    | .well m off => s.partHas p (folioOf m) && off < 0x60000
    | _ => false)

/-- One cell access at the peer partition pvf of this module: raised to that partition's floor, and never cached. -/
def remoteCell (s : State) (pvf : Nat) (write : Bool) (pa size x : Nat) (lc : Clk) : Nat × Clk × State :=
  let lc := Clk.max lc (s.floorOf (Fin.ofNat 16 (pvf - 1)))
  if write then
    let (t, s) := s.writeStamp pa lc
    (0, t, { s with mem := Memory.write s.mem pa size x })
  else
    let (t, s) := s.readStamp pa lc 0
    (Memory.read s.mem pa size, t, s)

/-- One remote access of a copy through window `win`: the data and the time; or the state after it failed or was held.
Another module's memory gives free values (DESIGN CHOICE, assumption 17). -/
def remoteAccess (s : State) (o : Op) (desc : Word) (win : Fin 16) (write : Bool) (va : Word) (size x : Nat) :
    Option (Nat × Clk) × State :=
  let p := s.parts[s.partOf o.nib]
  let w := p.fwin[win]
  let pa := va.toNat % 2 ^ 48
  let fail := fun (s : State) => (none, s.copyFail o desc (if write then causeSTOREACC else causeLOADACC) (BitVec.ofNat 64 pa))
  if !w.en then fail s
  else if w.modn = s.modu.modn then
    if !s.remoteHere s.modu.modn p.vf w.pvf.toNat pa then fail s
    else if s.goneHome pa then (none, s.copyHold o)
    else
      let (y, t, s) := s.remoteCell w.pvf.toNat write pa size x o.lc
      (some (y, t), s)
  else if s.modu.gone.contains w.modn then (none, s.copyHold o)
  else
    let (k, s) := s.freshNum
    let (i, s) := s.freshNum
    if Config.freeBits k % 2 = 0 then fail s
    else (some (Config.freeBits i % 2 ^ (8 * size), Clk.max o.lc (o.lc + BitVec.ofNat 48 (Config.freeBits k / 2 % 2 ^ 44))), s)

/-- One access of a command, inside one cell: the data read and the time; or the state that took its place (R281, R285). -/
def copyAccess (s : State) (o : Op) (desc : Word) (win : Option (Fin 16)) (write : Bool) (va : Word) (size x : Nat) :
    Option (Nat × Clk) × State :=
  match win with
  | some w => s.remoteAccess o desc w write va size x
  | none =>
    let (root, priv) := s.engFor o.nib o.cid
    match s.engPieces o.nib root priv write true [⟨va, 0, size, false, 0⟩] [] with
    | .ok rs =>
      if write then
        let (t, s) := s.engStore x rs o.lc
        (some (0, t), s)
      else
        let (y, t, s) := s.engLoad o.nib rs o.lc 0
        (some (y, t), s)
    | l => (none, s.copyStall o desc l)

/-- Bytes of the access at byte `off` of a row of `n` bytes at `va`: up to the end of its cell. -/
def cellPart (va : Word) (off n : Nat) : Nat := min (64 - (va.toNat + off) % 64) (n - off)

/-- The fabric window of a side of a `cpy` that is remote: `bit` 0 for the source, 1 for the destination (R282). -/
def copyWindow (kind : Fin 4) (d : BitVec 512) (bit : Nat) : Option (Fin 16) :=
  let opt := descNat d 0x30 4
  if kind = 0 ∧ opt.testBit bit then some (Fin.ofNat 16 (opt / 16)) else none

/-- A row whose source has been read whole: its data, packed under `cpy.pack`, and the events of that (R284), which count also
where a later write of the row fails (DESIGN CHOICE, assumption 80). -/
def rowReady (kind : Fin 4) (d : BitVec 512) (r : CopyRow) : CopyRow × Ev :=
  if kind = 2 then
    let (y, e) := packRow r.buf (descNat d 0x10 4) (descNat d 0x30 4 % 2 = 1)
    ({ r with ready := true, buf := y }, e)
  else ({ r with ready := true }, 0)

/-- The next read of row i, unless its data stand complete: the row, the clock and the events after it (R281, R283); or the
state that took its place. -/
def copyRead (s : State) (o : Op) (desc : Word) (d : BitVec 512) (kind : Fin 4) (i : Nat) (r : CopyRow) (tile : BitVec 32768) :
    Option (CopyRow × Clk × Ev) × State :=
  if r.ready then (some (r, o.lc, 0), s)
  else if kind = 1 then
    let opt := descNat d 0x30 4
    (some ({ r with ready := true, buf := topkRow tile i (opt % 16) (opt / 16 % 64) }, o.lc, 0), s)
  else
    let n := descNat d 0x10 4
    let size := cellPart (copySrc d i) r.got n
    match s.copyAccess o desc (copyWindow kind d 0) false (copySrc d i + BitVec.ofNat 64 r.got) size 0 with
    | (none, s) => (none, s)
    | (some (x, t), s) =>
      let r := { r with got := r.got + size, buf := r.buf + x * 2 ^ (8 * r.got) }
      let (r, e) := if r.got = n then rowReady kind d r else (r, 0)
      (some (r, t, e), s)

/-- The command once more in its turn of service: it can be served again when the accesses of this turn are behind it. -/
def copyServed (s : State) (o : Op) (t : Clk) (kind : OpKind) : State :=
  let (c, s) := s.freeCycle (s.cycle + 1) none
  s.modOp o.id (fun o => { o with lc := t, tmax := Clk.max o.tmax t, due := c, kind := kind })

/-- One turn of service of a command: a read of its row, and a write once the row's data stand complete; after the last row
its landing decrement (R278, R281 to R285, DESIGN CHOICE, assumption 26). -/
def copyServe (s : State) (o : Op) : State :=
  match o.kind with
  | .copy desc d kind i r tile ev =>
    if i < copyRows kind d then
      match s.copyRead o desc d kind i r (tile.getD 0) with
      | (none, s) => s
      | (some (r, t, e), s) =>
        let o := { o with lc := t, tmax := Clk.max o.tmax t, kind := .copy desc d kind i r tile (ev ||| e) }
        let s := s.copyServed o t o.kind
        if !r.ready then s
        else
          let n := copyOut kind d
          let size := cellPart (copyDst d i) r.put n
          match s.copyAccess o desc (copyWindow kind d 1) true (copyDst d i + BitVec.ofNat 64 r.put) size (r.buf / 2 ^ (8 * r.put)) with
          | (none, s) => s
          | (some (_, t), s) =>
            let put := r.put + size
            s.copyServed o t (if put = n then .copy desc d kind (i + 1) ⟨0, false, 0, 0, false⟩ tile (ev ||| e)
              else .copy desc d kind i { r with put := put } tile (ev ||| e))
    else
      let va := BitVec.ofNat 64 (descNat d 0x28 8)
      let step := fun (s : State) => s.modOp o.id (fun o => { o with kind := .copy desc d kind (i + 1) r tile ev })
      if va = 0 then (step s).schedule s.cycle (.copyComplete o.id)
      else
        match s.serifLook o.nib o.cid va with
        | .ok rs => (step s).sendDecr o.nib o.stroke o.cid va ((rs.head?.map (·.pa)).getD 0) o.id o.tmax
        | l => s.copyStall o desc l
  | _ => s

/-- The descriptor of a command meets a block that is filling or draining: the quill waits (R161). -/
def copyBlocked (s : State) (o : Op) : Bool :=
  match o.kind with
  | .copy desc .. => s.blockBusy o.nib desc.toNat 64
  | _ => false

/-- Bytes that a turn of service carries to or from a brim die: a cell, where it makes a remote access (R282, R360). -/
def copyToll (kind : Fin 4) (d : BitVec 512) (i : Nat) (r : CopyRow) : Nat :=
  let opt := descNat d 0x30 4
  let n := descNat d 0x10 4
  let whole : Bool := r.ready || r.got + cellPart (copySrc d i) r.got n = n
  if kind = 0 ∧ i < copyRows kind d ∧ ((opt.testBit 0 && !r.ready) || (opt.testBit 1 && whole)) then 64 else 0

/-- The quill's turn of service goes to a copy command, unless the traffic of its access must first wait at the border
(R278, R360). -/
def copyTurn (s : State) (o : Op) : State :=
  match o.kind with
  | .copy desc d kind i r tile ev =>
    let p := s.partOf o.nib
    let owes := if r.paid then [] else s.owing p (folioOf o.nib) true (copyToll kind d i r)
    let (x, ok) := s.parts[p].take ⟨2, owes, [(s.cycle + 1, .remoteAccess (.own o.id))], false⟩
    let s := s.modPart p (fun _ => x)
    if ok then
      (s.modNib o.nib (fun b => { b with quillTurn := o.id })).copyServe { o with kind := .copy desc d kind i { r with paid := false } tile ev }
    else s.modOp o.id (fun o => { o with kind := .copy desc d kind i { r with paid := true } tile ev })
  | _ => s

/-- The quill serves a copy command, and chooses the next (R278). -/
def copyStep (s : State) (o : Op) : State :=
  let s := if (s.copyDue o.id).isNone then s
    else if s.copyBlocked o then s.modOp o.id (fun o => { o with due := s.cycle + 1 })
    else s.copyTurn o
  s.quillGo o.nib

/-- An access that another module's quill makes here, over the way from a brim die to its home (R282, R360, R386). -/
def peerAccess (s : State) (x : PeerAccess) : State :=
  let pa := x.pa.toNat
  let deaf := match unitOf pa with
    | .well m _ => s.deafTo m (BitVec.ofNat 32 (x.modn.toNat * 2 ^ 16))
    | _ => s.modu.gone.contains x.modn
  if deaf || s.goneHome pa || x.modn = s.modu.modn || x.size.val = 0 || 64 < pa % 64 + x.size.val ||
      !s.remoteHere x.modn x.vf.toNat x.pvf.toNat pa then s
  else
    let p : Fin 16 := Fin.ofNat 16 (x.pvf.toNat - 1)
    s.atBorder p 2 (s.owing p ((unitOf pa).folio.getD 0) false x.size.val) (.remoteAccess (.peer x)) (fun s =>
      (s.remoteCell x.pvf.toNat x.write pa x.size.val x.data.toNat x.clk).2.2)

end State

/-- COPY_COMPLETE: the last access of the command has been performed, and it writes its STATUS; and its seal posts
(R278, R281). -/
def execCopyComplete (id : Nat) (s : State) : Res :=
  match s.findOp id with
  | some o =>
    match o.kind with
    | .copy desc d kind i _ _ ev =>
      if o.performed then
        .next ((s.modNib o.nib (fun n => { n with quill := n.quill.filter (· != id) })).landOp o [] ev)
      else if copyRows kind d < i ∧ !s.ops.any (fun x => match x.kind with | .decr _ _ _ w => w == id | _ => false) then
        .next (if s.copyBlocked o then s.schedule (s.cycle + 1) (.copyComplete o.id) else s.copyEnd o desc 0 0)
      else .next s
    | _ => .next s
  | none => .next s

/-- REMOTE_ACCESS: a copy with a remote side is served; or, with `x`, another module's quill makes an access here (R282). -/
def execRemoteAccess (x : Source PeerAccess) (s : State) : Res :=
  match x with
  | .peer x => .next (s.peerAccess x)
  | .own id =>
    match s.findOp id with
    | some o => .next (s.copyStep o)
    | none => .next s

/-! ## The instructions (R280) -/

namespace State

/-- `cpy`, `cpy.topk`, `cpy.pack` (R280, R283). The records of the context cache are hidden from mode T (R320, DEDUCED,
assumption 59). -/
def copy (s : State) (kind : Fin 4) (sl : Fin 16) (a : Fin 32) : Res :=
  s.guarded [.g a] [] true (fun s =>
    let va := s.rg a
    if !inWindow va 64 then s.raise causeLOCALITY va
    else if va.toNat % 64 ≠ 0 then s.raise causeLOADALIGN va
    else if s.hidesRecords va.toNat 52 then s.raise causeLOADACC va
    else
      let (x, s') := s.localLoad va.toNat 52
      let d : BitVec 512 := BitVec.ofNat 512 x
      match copyBad kind d with
      | some o => s.raise causeILLEGAL (va + BitVec.ofNat 64 o)
      | none =>
        if 512 ≤ s.cnib.quill.length || (kind = 1 && s.queueFull) then s.waitMem
        else if s.sealFull sl then s
        else
          let s := s'
          let (id, s) := s.newOp sl (.copy va d kind 0 ⟨0, false, 0, 0, false⟩ none 0)
          let s := (s.modNib s.cur.nib (fun n => { n with quill := n.quill ++ [id] })).modOp id (fun o => { o with due := s.cycle + 1 })
          let s := if kind = 1 then
              (s.modMatrix s.cur.nib (fun m => { m with queue := m.queue ++ [
                { id := id, cid := s.ctx.cid, stroke := s.cur.k, seq := s.cur.q, sl := 0
                  kind := .topk (Fin.ofNat 8 (descNat d 0 8)), fmt := 0, snap := s.ctx.x.shadow, issue := s.cycle
                  lc := s.lc, tmax := s.lc, slab := 0, running := false, newTile := false, start := 0, tileSlabs := 0
                  tiles := 0, rows := [], ev := 0, grp := GrpRun.reset, failed := 0, rerun := 0, done := false, posted := true }] })).schedule
                (s.cycle + 16) (.matrixDispatch s.cur.nib)
            else s.quillGo s.cur.nib
          (s.pendSeal sl).retire)

end State

def execCpy (sl : Fin 16) (a : Fin 32) (s : State) : Res := s.copy 0 sl a
def execCpyTopk (sl : Fin 16) (a : Fin 32) (s : State) : Res := s.copy 1 sl a
def execCpyPack (sl : Fin 16) (a : Fin 32) (s : State) : Res := s.copy 2 sl a

end Sys2Proof.Machine
end

