-- ==== Sys2Proof/Machine/Exchange.lean ====
section
/-! DEFINITION. Sys2Proof/Machine/Exchange.lean: receive rings, permits, sends and messages (11_exchange.md R286 to R298). -/

namespace Sys2Proof.Machine

open Sys2Proof

/-! ## Stroke numbers and ring records (R18, R288) -/

/-- The module, nib and stroke index of a stroke number (R17, R18). -/
def strokeModule (x : Nat) : Nat := x / 2 ^ 19 % 2 ^ 16
def strokeNib (x : Nat) : NibId := Fin.ofNat 65536 (x / 8)
def strokeIndex (x : Nat) : Fin 8 := Fin.ofNat 8 x

/-- ROWOFF and LEN of a record of n rows (R288). -/
def rowOffset (n : Nat) : Nat := 64 * ((16 + 16 * n + 63) / 64)
def recordLen (n rowLen : Nat) : Nat := 64 * ((rowOffset n + n * rowLen + 63) / 64)

/-- The first 16 bytes of a record (R288). -/
def recordHead (len kind rows sender : Nat) : Nat := len + kind * 2 ^ 32 + rows * 2 ^ 48 + sender * 2 ^ 64

namespace State

/-- The module and nib of a stroke number lie in the partition of nib n (R26, R290). -/
def inPartition (s : State) (n : NibId) (target : Nat) : Bool :=
  strokeModule target = s.modu.modn.toNat && s.partHas (s.partOf n) (folioOf (strokeNib target))

def modRing (s : State) (n : NibId) (k : Fin 8) (r : Fin 4) (f : Ring → Ring) : State :=
  s.modStroke n k (fun x => { x with rings := x.rings.set r (f x.rings[r]) })

/-- The unit that holds a nib has been declared lost (R386). -/
def nibLost (s : State) (n : NibId) : Bool := s.folios[folioOf n].lost

/-! ## Permits (R289 to R291) -/

/-- The decision on a request for n rows that carries clock lc (R290): STATUS, OFFSET, CHARGE, GRANT, and the clock after the
write of a pad, which is an access made for the request (R181, R187). -/
def decidePermit (s : State) (n : NibId) (target : Nat) (ring : Fin 4) (rows : Nat) (lc : Clk) :
    (Nat × Nat × Nat × Nat) × Clk × State :=
  let m := strokeNib target
  let k := strokeIndex target
  let x := (s.stroke m k).rings[ring]
  if !s.inPartition n target || !x.en then ((4, 0, 0, 0), lc, s)
  else if 16 ≤ x.grants then ((3, 0, 0, 0), lc, s)
  else
    let len := recordLen rows x.rowLen
    let room := x.size - x.tail
    let wraps : Bool := room < len
    let off := if wraps then 0 else x.tail
    let charge := if wraps then room + len else len
    if x.size - x.used < charge ∨ x.size < len then ((2, 0, 0, 0), lc, s)
    else
      let (g, s) := s.newId
      let pad : Bool := wraps && room != 0
      let (t, s) := if pad then s.engWrite m (x.base + x.tail) 8 (recordHead room 1 0 0) lc else (lc, s)
      let recs := x.recs ++ (if pad then [(⟨x.tail, room, 1, true, 0, 0, false, t⟩ : RingRec)] else []) ++
        [⟨off, len, 0, false, g, rows, false, t⟩]
      let s := s.modRing m k ring (fun x =>
        { x with tail := off + len, used := x.used + charge, grants := x.grants + 1, recs := recs })
      ((1, off, charge, g), t, s)

/-- The 64 bytes of a permit block (R291). -/
def permitBlock (target ring status rows cause off charge grant : Nat) (va : Word) : Nat :=
  target + ring * 2 ^ 64 + status * 2 ^ 72 + rows * 2 ^ 80 + cause * 2 ^ 96 + off * 2 ^ 128 + charge * 2 ^ 160 +
    grant % 2 ^ 32 * 2 ^ 192 + va.toNat * 2 ^ 256

def reqTarget (req : Word) : Nat := getBits req 0 35
def reqRing (req : Word) : Fin 4 := Fin.ofNat 4 (getBits req 40 2)
def reqRows (req : Word) : Nat := getBits req 52 12 + 1

/-- The answer to a permit request, given at clock t, leaves for its block (R187, R290). -/
def answerPermit (s : State) (o : Op) (blk req : Word) (status off charge grant : Nat) (t : Clk) : State :=
  let s := s.modOp o.id (fun o =>
    { o with lc := Clk.max o.lc t, tmax := Clk.max o.tmax t, kind := .permitAns blk req status off charge grant })
  let (c, s) := s.freeCycle s.cycle (some (o.due + 4032))
  s.schedule c (.permitAnswer o.id)

end State

/-- `xperm` (R289). The records of the context cache are hidden from mode T (R320, DEDUCED, assumption 59). -/
def execXperm (sl : Fin 16) (a b : Fin 32) (s : State) : Res :=
  s.guarded [.g a, .g b] [] true (fun s =>
    let va := s.rg a
    let req := s.rg b
    if !State.inWindow va 64 then s.raise causeLOCALITY va
    else if va.toNat % 64 ≠ 0 then s.raise causeLOADALIGN va
    else if s.hidesRecords va.toNat 64 then s.raise causeLOADACC va
    else if getBits req 42 10 ≠ 0 ∨ getBits req 35 5 ≠ 0 then s.illegalVal req
    else if s.sealFull sl then s
    else
      let (id, s) := s.newOp sl (.permit va req)
      let s := s.modOp id (fun o => { o with due := s.cycle })
      let (c, s) := s.freeCycle (s.cycle + 1) (some (s.cycle + 3968))
      ((s.schedule c (.permitRequest id)).pendSeal sl).retire)

/-- PERMIT_REQUEST: request `id` arrives; where an older one of the same sender is still on its way to the same ring, the receiving
engine decides that one first (R290, R304). A unit that the sender knows to be lost answers LOST (R296). -/
def execPermitRequest (id : Nat) (s : State) : Res :=
  let key := match s.findOp id with
    | some o => (match o.kind with | .permit _ req => some (o.cid, State.reqTarget req, State.reqRing req) | _ => none)
    | none => none
  match key with
  | none => .next s
  | some (cid, target, ring) =>
    match s.ops.find? (fun o => o.cid == cid && (match o.kind with
        | .permit _ req => State.reqTarget req == target && State.reqRing req == ring
        | _ => false)) with
    | none => .next s
    | some o =>
      match o.kind with
      | .permit blk req =>
        let dest : BitVec 32 := BitVec.ofNat 32 (target / 8)
        let gone := s.inPartition o.nib target && s.nibLost (strokeNib target)
        let s := if o.id = id ∨ gone then s else s.schedule (s.cycle + 1) (.permitRequest id)
        if s.deafTo (strokeNib target) (s.nibNumber o.nib) then .next (s.dropOp o.id)
        else if s.deafTo o.nib dest then .next (s.answerPermit o blk req 5 0 0 0 o.lc)
        else if gone then .next s
        else
          let ((st, off, charge, g), t, s) := s.decidePermit o.nib target ring (State.reqRows req) o.lc
          .next (s.answerPermit o blk req st off charge g t)
      | _ => .next s

/-- PERMIT_ANSWER: the permit block is written, once it meets no block that is filling or draining (R161); and the seal posts
with the answer's time (R289, R291). -/
def execPermitAnswer (id : Nat) (s : State) : Res :=
  match s.findOp id with
  | some o =>
    match o.kind with
    | .permitAns blk req st off charge g =>
      if o.performed then .next (s.landOp o [] 0)
      else if s.nibLost o.nib then .next (s.dropOp o.id)
      else if s.blockBusy o.nib blk.toNat 64 then .next (s.schedule (s.cycle + 1) (.permitAnswer id))
      else
        let x := State.permitBlock (State.reqTarget req) (State.reqRing req).val st (State.reqRows req) 0 off charge g 0
        let (t, s) := s.engWrite o.nib blk.toNat 64 x o.lc
        .next (s.modOp id (fun o => { o with performed := true, due := s.cycle, tmax := Clk.max o.tmax t }))
    | _ => .next s
  | none => .next s

/-! ## Sends (R292, R295) -/

namespace State

/-- The grant of a permit block, with the ring that holds it: a TARGET in another module holds none here (R17, R26). -/
def findGrant (s : State) (target : Nat) (ring : Fin 4) (g : Nat) : Option (Ring × RingRec) :=
  if strokeModule target ≠ s.modu.modn.toNat then none
  else
  let x := (s.stroke (strokeNib target) (strokeIndex target)).rings[ring]
  (x.recs.find? (fun r => r.kind == 0 && r.grant % 2 ^ 32 == g && g != 0)).map (fun r => (x, r))

/-- Free entries of the issuing nib's expectation table (R292, R295). -/
def freeExpects (s : State) (n : NibId) : Nat := 1024 - ((s.nib n).expects.length + (s.nib n).expectReserved)

/-- The record of a send is complete, as `kind`: its grant is used (R290, R292). A closing ring without grants is
disabled (R286). -/
def closeRecord (s : State) (target : Nat) (ring : Fin 4) (grant kind : Nat) (t : Clk) : State :=
  s.modRing (strokeNib target) (strokeIndex target) ring (fun x =>
    if x.recs.any (fun r => r.grant == grant && !r.complete) then
      { x with
        recs := x.recs.map (fun r => if r.grant = grant then { r with kind := kind, complete := true, clk := t } else r)
        grants := x.grants - 1
        en := x.en && !(x.closing && x.grants ≤ 1) }
    else x)

/-- The send ends: STATUS, CAUSE and FAULTVA are written in its permit block, what is left of its reservation is
released, and the seal posts in the stroke's next turn. -/
def sendEnd (s : State) (o : Op) (status cause : Nat) (va : Word) : State :=
  match o.kind with
  | .send blk list _ _ _ n _ _ _ i =>
    let (t, s) := s.engWrite o.nib (blk.toNat + 9) 1 status o.lc
    let (t, s) := if status = 7 then
        let (t, s) := s.engWrite o.nib (blk.toNat + 12) 1 cause t
        s.engWrite o.nib (blk.toNat + 32) 8 va.toNat t
      else (t, s)
    let s := if list = 0 then s
      else s.modNib o.nib (fun b => { b with expectReserved := b.expectReserved - (n - i) })
    s.modOp o.id (fun o => { o with performed := true, due := s.cycle, lc := t, tmax := Clk.max o.tmax t })
  | _ => s

/-- A write of the target's well by the sending engine (R292). -/
def ringWrite (s : State) (o : Op) (target off size x : Nat) : State :=
  let (t, s) := s.engWrite (strokeNib target) off size x o.lc
  s.modOp o.id (fun o => { o with lc := t, tmax := Clk.max o.tmax t })

/-- The operation as it stands. -/
def opNow (s : State) (o : Op) : Op := (s.findOp o.id).getD o

/-- A failed access ends the send (R292): the record is completed as KIND 2, and its expectations are released. -/
def sendFail (s : State) (o : Op) (c : BitVec 8) (va : Word) : State :=
  match o.kind with
  | .send _ _ grant target ring n addr len _ _ =>
    let s := s.ringWrite o target addr 16 (recordHead len 2 n (s.strokeNumber o.nib o.stroke))
    let o := s.opNow o
    let s := s.closeRecord target ring grant 2 o.tmax
    let s := s.modNib o.nib (fun b => { b with expects := b.expects.filter (·.cmd != o.id) })
    s.sendEnd o 7 c.toNat va
  | _ => s

/-- An access of a send that did not go through (R161, R170, R292, R386). -/
def sendStall (s : State) (o : Op) (l : EngLook) : State :=
  match l with
  | .fail c va => s.sendFail o c va
  | .replay va =>
    (s.modOp o.id (fun o => { o with parked := true })).coalesce o.id o.nib o.stroke (asidOf (s.engFor o.nib o.cid).1) va 3
  | .gone => s.modOp o.id (fun o => { o with parked := true })
  | _ => s.schedule (s.cycle + 1) (.homeWrite o.id)

/-- The serif of the issuing nib's well that a word of a send list names, by its well offset (R292). -/
def ownSerif (s : State) (o : Op) (va : Word) : Except EngLook Nat :=
  match s.serifLook o.nib o.cid va with
  | .wait => .error .wait
  | .ok (r :: _) =>
    (match unitOf r.pa with
    | .well m off => if m = o.nib then .ok off else .error .gone
    | _ => .error .gone)
  | _ => .error .gone

/-- One entry of a send to a lost unit is done with: its reservation is released. -/
def sendSkip (s : State) (o : Op) : State :=
  let s := s.modNib o.nib (fun b => { b with expectReserved := b.expectReserved - 1 })
  s.modOp o.id (fun o => match o.kind with
    | .send blk list g target ring n addr len rowLen i => { o with kind := .send blk list g target ring n addr len rowLen (i + 1) }
    | _ => o)

/-- A send whose grant lies in a lost unit (R296): a lost landing for each SERIF entry that has no expectation yet, and then
STATUS 5. An entry whose read fails names no serif. -/
def sendLost (s : State) (o : Op) : Nat → State
  | 0 => s
  | fuel + 1 =>
    match o.kind with
    | .send _ list _ _ _ n _ _ _ i =>
      if list = 0 ∨ n ≤ i then s.sendEnd o 5 0 0
      else
        let (root, priv) := s.engFor o.nib o.cid
        match s.engCheck o.nib root priv (list + BitVec.ofNat 64 (32 * i + 16)) 8 1 false with
        | .ok rs =>
          let (x, t, s) := s.engLoad o.nib rs o.lc 0
          let took := fun (s : State) (t : Clk) => s.modOp o.id (fun o => { o with lc := t, tmax := Clk.max o.tmax t })
          if x = 0 then
            let s := (took s t).sendSkip o
            s.sendLost (s.opNow o) fuel
          else
            match s.ownSerif o (BitVec.ofNat 64 x) with
            | .error .wait => s.sendStall o .wait
            | .error _ =>
              let s := (took s t).sendSkip o
              s.sendLost (s.opNow o) fuel
            | .ok off =>
              let (u, s) := s.decrement o.nib off true t
              let s := (took s u).sendSkip o
              s.sendLost (s.opNow o) fuel
        | .fail _ _ =>
          let s := s.sendSkip o
          s.sendLost (s.opNow o) fuel
        | l => s.sendStall o l
    | _ => s

/-- The send goes on, or begins, as one to a lost unit. -/
def sendGone (s : State) (o : Op) : State :=
  (s.modOp o.id (fun o => { o with parked := false })).sendLost o (match o.kind with | .send _ _ _ _ _ n .. => n + 1 | _ => 1)

/-- The checks on entry i of a send list: its SRC, RET and SERIF with the serif's well offset, and the row's pieces. -/
def sendEntry (s : State) (o : Op) (va : Word) (rowLen : Nat) : Except EngLook (Word × Word × Option Nat × List Range × Clk × State) :=
  let (root, priv) := s.engFor o.nib o.cid
  match s.engCheck o.nib root priv va 32 1 false with
  | .ok rs =>
    let (x, t, s') := s.engLoad o.nib rs o.lc 0
    let src := BitVec.ofNat 64 (descField x 0 8)
    let ret := BitVec.ofNat 64 (descField x 8 8)
    let serif := BitVec.ofNat 64 (descField x 16 8)
    if descField x 24 8 ≠ 0 then .error (.fail causeILLEGAL va)
    else
      let off : Except EngLook (Option Nat) :=
        if serif = 0 then .ok none
        else
          match s'.ownSerif o serif with
          | .ok off => .ok (some off)
          | .error .wait => .error .wait
          | .error _ => .error (.fail causeILLEGAL va)
      match off with
      | .error l => .error l
      | .ok off =>
        match s'.engCheck o.nib root priv src rowLen 1 false with
        | .ok rows => .ok (ret, serif, off, rows, t, s')
        | l => .error l
  | l => .error l

/-- The permit block of a send meets a block that is filling or draining: the engine waits (R161). -/
def sendBlocked (s : State) (o : Op) : Bool :=
  match o.kind with
  | .send blk .. => s.blockBusy o.nib blk.toNat 64
  | _ => false

/-- One entry of a send, or the cancel (R292). -/
def sendStep (s : State) (o : Op) : State :=
  match o.kind with
  | .send blk list grant target ring n addr len rowLen i =>
    if o.performed then s
    else if s.sendBlocked o then s.sendStall o .wait
    else if s.deafTo o.nib (BitVec.ofNat 32 (target / 8)) then s.sendGone o
    else if o.parked then s
    else if s.nibLost (strokeNib target) then s.schedule (s.cycle + 8) (.homeWrite o.id)
    else
      let sender := s.strokeNumber o.nib o.stroke
      if list = 0 then (s.ringWrite o target addr 16 (recordHead len 2 n sender)).schedule s.cycle (.sendComplete o.id)
      else if n ≤ i then s.schedule s.cycle (.sendComplete o.id)
      else
        match s.sendEntry o (list + BitVec.ofNat 64 (32 * i)) rowLen with
        | .error l => s.sendStall o l
        | .ok (ret, serif, off, rows, t, s) =>
          let (x, t, s) := s.engLoad o.nib rows t 0
          let s := s.modOp o.id (fun o => { o with lc := t, tmax := Clk.max o.tmax t })
          let s := if i = 0 then s.ringWrite (s.opNow o) target addr 16 (recordHead len 0 n sender) else s
          let s := s.ringWrite (s.opNow o) target (addr + 16 + 16 * i) 16 (ret.toNat + serif.toNat * 2 ^ 64)
          let s := s.ringWrite (s.opNow o) target (addr + rowOffset n + i * rowLen) rowLen x
          let s := s.modNib o.nib (fun b =>
            { b with
              expectReserved := b.expectReserved - 1
              expects := match off with
                | some w => b.expects ++ [⟨w, BitVec.ofNat 32 (target / 8), o.id, t⟩]
                | none => b.expects })
          let s := s.modOp o.id (fun o => { o with kind := .send blk list grant target ring n addr len rowLen (i + 1) })
          let (c, s) := s.freeCycle (s.cycle + 1) none
          s.schedule c (.homeWrite o.id)
  | _ => s

end State

/-- `xsend` (R292): the block is read at turn t; the send or cancel claims the grant. The records of the context cache are
hidden from mode T (R320, DEDUCED, assumption 59). -/
def execXsend (sl : Fin 16) (a b : Fin 32) (s : State) : Res :=
  s.guarded [.g a, .g b] [] true (fun s =>
    let va := s.rg a
    let list := s.rg b
    if !State.inWindow va 64 then s.raise causeLOCALITY va
    else if va.toNat % 64 ≠ 0 then s.raise causeLOADALIGN va
    else if s.hidesRecords va.toNat 64 then s.raise causeLOADACC va
    else
      let (x, s') := s.localLoad va.toNat 64
      let target := descField x 0 8 % 2 ^ 35
      let ring : Fin 4 := Fin.ofNat 4 (descField x 8 1)
      let rows := descField x 10 2
      let g := descField x 0x18 4
      let lost := s.deafTo s.cur.nib (BitVec.ofNat 32 (target / 8)) ||
        (strokeModule target == s.modu.modn.toNat && s.nibLost (strokeNib target))
      let taken := s.ops.any (fun o => o.nib == s.cur.nib && (match o.kind with
        | .send _ _ h t _ _ _ _ _ _ => h % 2 ^ 32 == g && t == target
        | _ => false))
      let grant := (s.findGrant target ring g).filter (fun y => !y.2.claimed)
      let bad := s.illegalVal (va + 9)
      let issue := fun (n addr len rowLen id : Nat) =>
        if s.sealFull sl then s
        else if list ≠ 0 && s.freeExpects s.cur.nib < n then s.waitMem
        else
          let s := s'.modRing (strokeNib target) (strokeIndex target) ring (fun y =>
            { y with recs := y.recs.map (fun r => if r.grant = id && r.kind = 0 then { r with claimed := true } else r) })
          let s := if list = 0 then s
            else s.modNib s.cur.nib (fun m => { m with expectReserved := m.expectReserved + n })
          let (op, s) := s.newOp sl (.send va list id target ring n addr len rowLen 0)
          let (c, s) := s.freeCycle (s.cycle + 1) none
          ((s.schedule c (.homeWrite op)).pendSeal sl).retire
      if descField x 9 1 ≠ 1 || taken then bad
      else
        match grant with
        | some (y, r) => issue r.rows (y.base + r.off) r.len y.rowLen r.grant
        | none => if lost then issue rows 0 0 0 g else bad)

/-- SEND_COMPLETE: the record is complete, the permit block gets its STATUS; and the seal posts (R292). -/
def execSendComplete (id : Nat) (s : State) : Res :=
  match s.findOp id with
  | some o =>
    match o.kind with
    | .send _ list grant target ring n _ _ _ i =>
      if o.performed then .next (s.landOp o [] 0)
      else if s.sendBlocked o then .next (s.schedule (s.cycle + 1) (.sendComplete id))
      else if list = 0 then .next ((s.closeRecord target ring grant 2 o.tmax).sendEnd o 8 0 0)
      else if n ≤ i then .next ((s.closeRecord target ring grant 0 o.tmax).sendEnd o 6 0 0)
      else .next s
    | _ => .next s
  | none => .next s

/-! ## Rings (R287, R293) -/

/-- The offset of the first field of a ring descriptor out of range (R287). -/
def ringBad (x : Nat) : Option Nat :=
  let f := descField x
  let dis := f 1 1 = 0
  let checks : List (Nat × Bool) :=
    [(0, decide (4 ≤ f 0 1)), (1, decide (2 ≤ f 1 1)), (2, !dis && f 2 2 != 0), (4, !dis && f 4 4 % 64 != 0),
     (8, !dis && (f 8 4 % 64 != 0 || f 8 4 < 512 || 262144 < f 8 4 || windowEnd < f 4 4 + f 8 4)),
     (12, !dis && (f 12 4 % 32 != 0 || f 12 4 < 32 || 16384 < f 12 4))]
  checks.findSome? (fun (o, b) => if b then some o else none)

/-- `xrcfg` (R287). The records of the context cache are hidden from mode T (R320, DEDUCED, assumption 59). -/
def execXrcfg (a : Fin 32) (s : State) : Res :=
  s.guarded [.g a] [] false (fun s =>
    let va := s.rg a
    if !State.inWindow va 16 then s.raise causeLOCALITY va
    else if va.toNat % 16 ≠ 0 then s.raise causeLOADALIGN va
    else if s.hidesRecords va.toNat 16 then s.raise causeLOADACC va
    else
      let (x, s') := s.localLoad va.toNat 16
      match ringBad x with
      | some o => s.illegalVal (va + BitVec.ofNat 64 o)
      | none =>
        let r : Fin 4 := Fin.ofNat 4 (descField x 0 1)
        let en := descField x 1 1 = 1
        let y := s.cst.rings[r]
        if (en && y.en) || (!en && y.en && (y.grants != 0 || !y.recs.isEmpty)) then s.illegalVal (va + 1)
        else (s'.land 1 (.ring r en (descField x 4 4) (descField x 8 4) (descField x 12 4))).retire)

/-- Drops the complete pads and cancelled records at the head of a ring: the bytes released, and what is left (R293). -/
def dropPads : List RingRec → Nat → Nat × List RingRec
  | [], n => (n, [])
  | r :: rest, n => if r.complete && r.kind != 0 then dropPads rest (n + r.len) else (n, r :: rest)

def execXrpop (d a : Fin 32) (s : State) : Res :=
  s.guarded [.g a] [.g d] false (fun s =>
    let x := (s.rg a).toNat
    if 4 < x % 16 ∨ 32 ≤ x then s.illegalVal (s.rg a)
    else if x % 16 = 4 then
      match s.cst.mailbox with
      | [] => (s.landG 1 d 0).retire
      | m :: _ => (((s.setLc (Clk.max s.lc m.clk)).land 1 .mailPop).landG 1 d m.val).retire
    else
      let i : Fin 4 := Fin.ofNat 4 x
      let r := s.cst.rings[i]
      if !r.en then (s.landG 1 d 0).retire
      else
        let (n, recs) := match r.recs with
          | h :: rest => if r.held then dropPads rest h.len else dropPads r.recs 0
          | [] => (0, [])
        let s := if n = 0 then s else s.land 1 (.ringFree i n)
        let head := if 16 ≤ x then none else recs.head?.filter (fun h => h.complete && h.kind == 0)
        let s := s.modRing s.cur.nib s.cur.k i (fun r =>
          { r with recs := recs, held := head.isSome, head := (r.head + n) % (if r.size = 0 then 1 else r.size) })
        match head with
        | some h => ((s.setLc (Clk.max s.lc h.clk)).landG 1 d (BitVec.ofNat 64 (r.base + h.off))).retire
        | none => (s.landG 1 d 0).retire)

def execXrstat (d : Fin 32) (s : State) : Res :=
  s.simple [] [.g d] (fun s =>
    let x := s.cst.rings
    let grants := x.toList.foldl (fun a r => a + r.grants) 0
    let ready := bitsOf 4 (fun i => match (x[(Fin.ofNat 4 i : Fin 4)]).recs.head? with
      | some h => x[(Fin.ofNat 4 i : Fin 4)].en && h.complete && h.kind == 0
      | none => false)
    let en := bitsOf 4 (fun i => x[(Fin.ofNat 4 i : Fin 4)].en)
    s.landG 1 d (BitVec.ofNat 64 (grants * 2 ^ 16 + s.cst.mailbox.length * 2 ^ 8 + ready * 2 ^ 4 + en)))

/-! ## Messages (R294) -/

def execMsg (d a b : Fin 32) (sl : Fin 16) (s : State) : Res :=
  s.guarded [.g a, .g b] [.g d] true (fun s =>
    if s.sealFull sl then s
    else
      let (id, s) := s.newOp sl (.msg d (s.rg a) (s.rg b))
      let (c, s) := s.freeCycle (s.cycle + 1) none
      (((s.schedule c (.messageDelivery id)).pendSeal sl).pendReg (.g d)).retire)

namespace State

/-- The mailbox that a message names: a nib's, and its position; a message to a task goes to position 7's (R294). -/
def mailbox (target : Word) : Nat × Nat := (getBits target 0 32, if target.getLsbD 38 then 7 else getBits target 32 6)

/-- A message reaches its target (R294): the status. -/
def deliverMsg (s : State) (o : Op) (target val : Word) : Nat × State :=
  let nibNum := getBits target 0 32
  let index := getBits target 32 6
  let task : Bool := target.getLsbD 38
  let n : NibId := Fin.ofNat 65536 nibNum
  let bad := getBits target 39 25 ≠ 0 || (!task && 8 ≤ index) || !s.inPartition o.nib (nibNum * 8)
  let k : Fin 8 := if task then 7 else Fin.ofNat 8 index
  if bad || (!task && (s.stroke n k).status == .vacant) then (2, s)
  else if 16 ≤ (s.stroke n k).mailbox.length then (1, s)
  else
    let v : Word := if task then setBits (setBits val 63 1 1) 56 7 index else val
    let s := s.modStroke n k (fun x => { x with mailbox := x.mailbox ++ [⟨v, o.lc⟩] })
    (0, if task then s.modNib n (fun b => b.rqMessage (Fin.ofNat 64 index)) else s)

/-- The answer to a message leaves for its sender. -/
def answerMsg (s : State) (o : Op) (d : Fin 32) (target : Word) (status : Nat) : State :=
  let s := s.modOp o.id (fun o => { o with kind := .msgAns d target status })
  let (c, s) := s.freeCycle (s.cycle + 1) none
  s.schedule c (.messageStatus o.id)

end State

/-- MESSAGE_DELIVERY: message `id` arrives; where an older one of the same sender is still on its way to the same mailbox, that
one is delivered or refused first (R294). -/
def execMessageDelivery (id : Nat) (s : State) : Res :=
  let key := match s.findOp id with
    | some o => (match o.kind with | .msg _ t _ => some (o.cid, State.mailbox t) | _ => none)
    | none => none
  match key with
  | none => .next s
  | some (cid, t) =>
    match s.ops.find? (fun o => o.cid == cid && (match o.kind with | .msg _ u _ => State.mailbox u == t | _ => false)) with
    | none => .next s
    | some o =>
      match o.kind with
      | .msg d target val =>
        let gone := s.inPartition o.nib (getBits target 0 32 * 8) && s.nibLost (Fin.ofNat 65536 target.toNat)
        let s := if o.id = id ∨ gone then s else s.schedule (s.cycle + 1) (.messageDelivery id)
        if s.deafTo (Fin.ofNat 65536 target.toNat) (s.nibNumber o.nib) then .next (s.dropOp o.id)
        else if s.deafTo o.nib (target.setWidth 32) then .next (s.answerMsg o d target 3)
        else if gone then .next s
        else
          let (st, s) := s.deliverMsg o target val
          .next (s.answerMsg o d target st)
      | _ => .next s

/-- MESSAGE_STATUS: the answer has returned; g[d] and the post land together (R60, R294). -/
def execMessageStatus (id : Nat) (s : State) : Res :=
  match s.findOp id with
  | some o =>
    match o.kind with
    | .msgAns d _ st =>
      if o.performed then .next (s.landOp o [.g d (BitVec.ofNat 64 st)] 0)
      else .next (s.modOp id (fun o => { o with performed := true, due := s.cycle }))
    | _ => .next s
  | none => .next s

/-! ## Loss (R296) -/

/-- LOSS_NOTICE: the exchange engine of nib n acts on a notice: lost landings in creation order, each at the clock that its
`xsend` had when it recorded the expectation (DESIGN CHOICE, assumption 82), and answers for what is outstanding (R296). -/
def execLossNotice (n : NibId) (x : BitVec 32) (s : State) : Res :=
  let gone := (s.nib n).expects.filter (fun e => State.noticeNames x e.dest)
  let s := s.modNib n (fun b => { b with expects := b.expects.filter (fun e => !State.noticeNames x e.dest) })
  let s := gone.foldl (fun s e => (s.decrement n e.serif true e.clk).2) s
  .next ((s.ops.filter (fun o => o.nib == n && !o.performed)).foldl (fun s o =>
    match o.kind with
    | .permit blk req =>
      if State.noticeNames x (BitVec.ofNat 32 (State.reqTarget req / 8)) then s.answerPermit o blk req 5 0 0 0 o.lc else s
    | .permitAns blk req _ _ _ _ =>
      if State.noticeNames x (BitVec.ofNat 32 (State.reqTarget req / 8)) then
        s.modOp o.id (fun o => { o with kind := .permitAns blk req 5 0 0 0 }) else s
    | .msg d t _ => if State.noticeNames x (t.setWidth 32) then s.answerMsg o d t 3 else s
    | .msgAns d t _ =>
      if State.noticeNames x (t.setWidth 32) then s.modOp o.id (fun o => { o with kind := .msgAns d t 3 }) else s
    | .send _ _ _ target .. => if State.noticeNames x (BitVec.ofNat 32 (target / 8)) then
        (if s.sendBlocked o then (s.modOp o.id (fun o => { o with parked := false })).sendStall o .wait else s.sendGone o) else s
    | _ => s) s)

end Sys2Proof.Machine
end

