-- ==== Sys2Proof/Machine/Barrier.lean ====
section
/-! DEFINITION. Sys2Proof/Machine/Barrier.lean: barriers and the sum tree (11_exchange.md R299 to R303). -/

namespace Sys2Proof.Machine

open Sys2Proof

def causeBARTMO : BitVec 8 := 0x15

/-- DOMAIN and COUNT of a BARCFG register (R299). -/
def barDomain (x : BitVec 27) : Nat := (x.extractLsb' 24 3).toNat
def barCount (x : BitVec 27) : Nat := (x.extractLsb' 0 24).toNat

/-- The id is enabled (R299). -/
def barOn (x : BitVec 27) : Bool := barDomain x != 0 && barDomain x != 7 && barCount x != 0

/-- The coordinate of a nib in a barrier domain (R19, R299). A pod has one instance in each partition of its modules, to which
the arrivals of the other modules come as inputs (DESIGN CHOICE, assumption 17). -/
def barInstance (n : NibId) (domain : Nat) : Nat :=
  match domain with
  | 1 => n.val
  | 2 => State.globalRow n / 2 * 128 + State.globalCol n / 2
  | 3 => State.globalRow n / 8 * 32 + State.globalCol n / 8
  | 4 => (State.folioOf n).val
  | _ => 0

/-- The instance of barrier `id` that a nib belongs to, by the domain now in force (R299, R301). -/
def State.barHere (s : State) (p : Fin 16) (id : Fin 64) (n : NibId) : Nat := barInstance n (barDomain s.parts[p].barcfg[id])

/-- An instance of a barrier at generation `g` with no arrivals. -/
def BarInst.fresh (id : Fin 64) (inst : Nat) (g : BitVec 16) (clk : Option Clk) : BarInst :=
  { id := id, inst := inst, gen := g, arrivals := 0, sum := .replicate 8 0, waits := [], clk := none, relClk := clk
    launch := 0, turns := 0 }

/-- The larger of two clocks, of which none is no clock yet (R176). -/
def laterClk (a b : Option Clk) : Option Clk :=
  match a, b with
  | some x, some y => some (Clk.max x y)
  | some x, none => some x
  | none, y => y

/-- Saturating sum of eight lanes (R303). -/
def addLanes (a : Vector Word 8) (x : BitVec 512) : Vector Word 8 :=
  Vector.ofFn (fun (j : Fin 8) =>
    let y := a[j].toNat + (x.extractLsb' (64 * j.val) 64).toNat
    if 2 ^ 64 ≤ y then BitVec.allOnes 64 else BitVec.ofNat 64 y)

/-- Eight lanes as one record. -/
def lanesWord (a : Vector Word 8) : BitVec 512 := BitVec.ofNat 512 (packN 64 8 (fun j => if h : j < 8 then (a[j]).toNat else 0))

namespace State

/-- The instance of an id; an instance that has seen nothing stands at generation 0. -/
def barInst (s : State) (p : Fin 16) (id : Fin 64) (inst : Nat) : BarInst :=
  (s.parts[p].bars.find? (fun b => b.id == id && b.inst == inst)).getD (BarInst.fresh id inst 0 none)

def putBar (s : State) (p : Fin 16) (b : BarInst) : State :=
  s.modPart p (fun x => { x with bars := x.bars.filter (fun c => !(c.id == b.id && c.inst == b.inst)) ++ [b] })

/-- Barrier `id` of partition p has its domain beyond the module: its arrivals and releases pass a brim die (R19, R299). -/
def barAway (s : State) (p : Fin 16) (id : Fin 64) : Bool := barDomain s.parts[p].barcfg[id] == 6

/-- A barrier arrival, wait or release of operation `op`, of nib n of partition p: it comes at cycle c, or later where it must
cross a border (R298, R300, R360). -/
def barSend (s : State) (p : Fin 16) (id : Fin 64) (n : NibId) (out : Bool) (c : Nat) (ev : Instr) : State :=
  s.crossBorder p 3 (if s.barAway p id then s.owing p (folioOf n) out 64 else []) [(c, ev)]

/-- A wait of operation `op` on barrier `id` is over: its post leaves for the stroke, with the clock and the summed record
(R300, R301, R303). -/
def releaseOp (s : State) (p : Fin 16) (id : Fin 64) (op : Nat) (abandoned : Option Word) (sum : Option (BitVec 512))
    (clk : Option Clk) : State :=
  let s := s.modOp op (fun o =>
    let r := match o.kind with
      | .barPost _ (some (va, _)) => sum.map (fun x => (va, x))
      | _ => none
    { o with kind := .barPost abandoned r, tmax := (clk.map (Clk.max o.tmax)).getD o.tmax })
  let (c, s) := s.freeCycle (s.cycle + 1) (some (s.cycle + 2048))
  s.barSend p id (((s.findOp op).map Op.nib).getD 0) false c (.releaseDelivery op)

/-- The generation of an instance is released, or abandoned (R300 to R303). -/
def endGeneration (s : State) (p : Fin 16) (b : BarInst) (abandoned : Bool) : State :=
  let val : Option Word := if abandoned then some (BitVec.ofNat 64 (b.id.val + b.gen.toNat * 256)) else none
  let sum := if abandoned then none else some (lanesWord b.sum)
  let s := s.putBar p (BarInst.fresh b.id b.inst (b.gen + 1) (laterClk b.relClk b.clk))
  b.waits.foldl (fun s w => s.releaseOp p b.id w val sum b.clk) s

/-- The watchdog of an instance is running. -/
def watching (s : State) (p : Fin 16) (id : Fin 64) (inst : Nat) : Bool :=
  s.agenda.any (fun e => match e.2 with
    | .barrierWatchdog q i n => q == p && i == id && n == inst
    | _ => false)

/-- The wait half of an operation is decided (R301). -/
def decideWait (s : State) (o : Op) (p : Fin 16) (id : Fin 64) (inst : Nat) (va : Option Word) : State :=
  let b := s.barInst p id inst
  let s := s.modOp o.id (fun o => { o with kind := .barPost none (va.map (fun v => (v, 0))) })
  let waits := match s.findCid o.nib o.cid with
    | some c => c.x.arrived.getLsbD id.val && c.x.gen[id] == b.gen
    | none => false
  if waits then s.putBar p { b with waits := b.waits ++ [o.id] } else s.releaseOp p id o.id none none b.relClk

/-- An arrival of clock `clk` counts toward the current generation of an instance, for a stroke of launch `launch` (R300,
R303). -/
def countArrival (s : State) (p : Fin 16) (id : Fin 64) (inst : Nat) (sum : Option (BitVec 512)) (clk : Clk) (launch : Nat) : State :=
  let b := s.barInst p id inst
  let s := if b.arrivals = 0 ∧ !s.watching p id inst then s.schedule (s.cycle + 8) (.barrierWatchdog p id inst) else s
  s.putBar p
    { b with
      arrivals := b.arrivals + 1
      sum := match sum with
        | some x => addLanes b.sum x
        | none => b.sum
      clk := laterClk b.clk (some clk)
      launch := if b.arrivals = 0 ∨ b.launch = 0 then launch else b.launch }

/-- The COUNT-th arrival releases the generation (R300). -/
def releaseFull (s : State) (p : Fin 16) (id : Fin 64) (inst : Nat) : State :=
  let b := s.barInst p id inst
  if b.arrivals = barCount s.parts[p].barcfg[id] then s.endGeneration p b false else s

/-- An arrival counts toward the current generation; the COUNT-th releases it (R300, R301, R303). -/
def arrive (s : State) (o : Op) (p : Fin 16) (id : Fin 64) (inst : Nat) (wait : Bool) (sum : Option (Word × BitVec 512)) : State :=
  let b := s.barInst p id inst
  let s := s.modCid o.nib o.cid (fun c =>
    { c with x := { c.x with arrived := c.x.arrived ||| BitVec.twoPow 64 id.val, gen := c.x.gen.set id b.gen } })
  let launch := ((s.findCid o.nib o.cid).map (·.task.launch)).getD 0
  let s := s.countArrival p id inst (sum.map (·.2)) o.lc launch
  let s := if wait then s.decideWait o p id inst (sum.map (·.1)) else s.dropOp o.id
  s.releaseFull p id inst

/-- The oldest barrier operation of a stroke on an id that has not reached the barrier logic (R301). -/
def oldestBar (s : State) (cid : Nat) (id : Fin 64) : Option Op :=
  s.ops.find? (fun o => o.cid == cid && (match o.kind with
    | .barArr _ i _ _ => i == id
    | .barWait _ i => i == id
    | _ => false))

/-- Operation `op` reaches the barrier logic; where an older one of its stroke on the same id has not, that one is handled first,
and `op` in the next cycle (R301). `ev` is the event of `op`. -/
def barReach (s : State) (op : Nat) (ev : Instr) : State :=
  let key := match s.findOp op with
    | some o => (match o.kind with
      | .barArr _ i _ _ => some (o.cid, i)
      | .barWait _ i => some (o.cid, i)
      | _ => none)
    | none => none
  match key with
  | none => s
  | some (cid, id) =>
    match s.oldestBar cid id with
    | none => s
    | some o =>
      let s := if o.id = op then s else s.schedule (s.cycle + 1) ev
      match o.kind with
      | .barArr p id wait sum =>
        if s.nibLost o.nib then s.dropOp o.id
        else if barOn s.parts[p].barcfg[id] then s.arrive o p id (s.barHere p id o.nib) wait sum
        else if wait then
          (s.modOp o.id (fun o => { o with kind := .barPost none none })).releaseOp p id o.id none none (some o.lc)
        else s.dropOp o.id
      | .barWait p id =>
        if barOn s.parts[p].barcfg[id] then s.decideWait o p id (s.barHere p id o.nib) none
        else (s.modOp o.id (fun o => { o with kind := .barPost none none })).releaseOp p id o.id none none (some o.lc)
      | _ => s

end State

/-- BARRIER_ARRIVAL: an arrival reaches the barrier logic; with `x`, the arrival of a stroke of another module at a barrier of
the pod (R19, R300, R301), which is discarded once that module has been declared lost (R386). -/
def execBarrierArrival (x : Source PeerArrival) (s : State) : Res :=
  match x with
  | .own id => .next (s.barReach id (.barrierArrival (.own id)))
  | .peer x =>
    let cfg := s.parts[x.part].barcfg[x.bar]
    if barOn cfg && barDomain cfg == 6 && !s.modu.gone.contains x.modn then
      .next ((s.countArrival x.part x.bar 0 (some x.sum) x.clk 0).releaseFull x.part x.bar 0)
    else .next s

/-- BARRIER_WAIT: a wait reaches the barrier logic (R301). -/
def execBarrierWait (id : Nat) (s : State) : Res := .next (s.barReach id (.barrierWait id))

/-- RELEASE_DELIVERY: a release reaches a waiter: the summed record is written, once it meets no block that is filling or draining
(R161), BARTMO is delivered for an abandoned
generation; and the seal posts (R300 to R303). -/
def execReleaseDelivery (id : Nat) (s : State) : Res :=
  match s.findOp id with
  | some o =>
    match o.kind with
    | .barPost abandoned sum =>
      if o.performed then .next (s.landOp o [] 0)
      else if s.parts.toList.any (fun p => p.bars.any (fun b => b.waits.contains id)) then .next s
      else if (sum.map (fun x => s.blockBusy o.nib x.1.toNat 64)).getD false then .next (s.schedule (s.cycle + 1) (.releaseDelivery id))
      else
        let (t, s) := match sum with
          | some (va, x) => s.engWrite o.nib va.toNat 64 x.toNat o.tmax
          | none => (o.tmax, s)
        let s := match abandoned with
          | some v => s.deliver o.nib o.cid causeBARTMO v
          | none => s
        .next (s.modOp id (fun o => { o with performed := true, due := s.cycle, tmax := Clk.max o.tmax t }))
    | _ => .next s
  | none => .next s

/-- BARRIER_WATCHDOG: a turn passes for an instance whose generation has arrivals: it is counted unless a stroke of the launch is in
trap service there (R302), or any stroke of the instance is debug-stopped (R332), and at 2^LOG2 the generation is abandoned
(R302). -/
def execBarrierWatchdog (p : Fin 16) (i : Fin 64) (inst : Nat) (s : State) : Res :=
  let b := s.barInst p i inst
  if b.arrivals = 0 then .next s
  else
    let domain := barDomain s.parts[p].barcfg[i]
    let service := s.nibs.any (fun x => s.partOf x.1 = p && barInstance x.1 domain = inst &&
      ((s.contexts x.1).any (fun c => b.launch != 0 && c.task.launch == b.launch && c.c.ts) ||
        x.2.strokes.toList.any (fun y => match y.status with | .stopped _ => true | _ => false)))
    let turns := if service then b.turns else b.turns + 1
    if 2 ^ s.parts[p].barwd.toNat ≤ turns then .next (s.endGeneration p b true)
    else .next ((s.putBar p { b with turns := turns }).schedule (s.cycle + 8) (.barrierWatchdog p i inst))

/-- BARCFG: the register is written (R299): arrivals are discarded, held waits post as at a release, and every instance
stands at generation 0 (R301). -/
def execBarcfg (p : Fin 16) (i : Fin 64) (x : BitVec 64) (s : State) : Res :=
  let old := s.parts[p].bars.filter (·.id == i)
  let s := s.modPart p (fun y =>
    { y with barcfg := y.barcfg.set i (x.setWidth 27), bars := y.bars.filter (·.id != i) })
  .next (old.foldl (fun s b => b.waits.foldl (fun s w => s.releaseOp p i w none none b.clk) s) s)

/-! ## The instructions (R300, R303) -/

namespace State

/-- The checks of a barrier instruction on g[a], whose bits from `width` up must be 0, and then what it sends. -/
def barrier (s : State) (a : Fin 32) (width : Nat) (body : State → Fin 16 → Fin 64 → State) : State :=
  let x := s.rg a
  let p := s.partOf s.cur.nib
  let id : Fin 64 := BitVec.toFin (x.setWidth 6)
  let cfg := s.parts[p].barcfg[id]
  if 2 ^ width ≤ x.toNat ∨ !barOn cfg then s.illegalVal x
  else body s p id

/-- Sends a barrier operation on barrier `id` of partition p. -/
def sendBar (s : State) (p : Fin 16) (id : Fin 64) (sl : Fin 16) (kind : OpKind) (ev : Nat → Instr) : State :=
  let (op, s) := s.newOp sl kind
  let (c, s) := s.freeCycle (s.cycle + 1) none
  let s := s.barSend p id s.cur.nib true c (ev op)
  (if sl = 0 then s else s.pendSeal sl).retire

end State

def execBarArr (a : Fin 32) (s : State) : Res :=
  s.guarded [.g a] [] false (fun s => s.barrier a 6 (fun s p id =>
    s.sendBar p id 0 (.barArr p id false none) (.barrierArrival <| .own ·)))

def execBarWait (sl : Fin 16) (a : Fin 32) (s : State) : Res :=
  s.guarded [.g a] [] true (fun s => s.barrier a 6 (fun s p id =>
    if s.sealFull sl then s else s.sendBar p id sl (.barWait p id) .barrierWait))

def execBarSync (sl : Fin 16) (a : Fin 32) (s : State) : Res :=
  s.guarded [.g a] [] true (fun s => s.barrier a 6 (fun s p id =>
    if s.sealFull sl then s else s.sendBar p id sl (.barArr p id true none) (.barrierArrival <| .own ·)))

/-- `xsum` (R303). The records of the context cache are hidden from mode T (R320, DEDUCED, assumption 59). -/
def execXsum (sl : Fin 16) (a b : Fin 32) (s : State) : Res :=
  s.guarded [.g a, .g b] [] true (fun s => s.barrier a 7 (fun s p id =>
    let va := s.rg b
    if !State.inWindow va 64 then s.raise causeLOCALITY va
    else if va.toNat % 64 ≠ 0 then s.raise causeLOADALIGN va
    else if s.hidesRecords va.toNat 64 then s.raise causeLOADACC va
    else if s.sealFull sl then s
    else
      let (x, s) := s.localLoad va.toNat 64
      let lanes := Vector.ofFn (fun (j : Fin 8) => BitVec.ofNat 64 (x / 2 ^ (64 * j.val)))
      let ev : BitVec 512 := BitVec.ofNat 512 (packN 64 8 (fun j => getBits s.ctx.c.fpev (8 * (7 - j)) 8))
      let lanes := if (s.rg a).getLsbD 6 then addLanes lanes ev else lanes
      s.sendBar p id sl (.barArr p id true (some (va, lanesWord lanes))) (.barrierArrival <| .own ·)))

end Sys2Proof.Machine
end

