-- ==== Sys2Proof/Machine/Stop.lean ====
section
/-! DEFINITION. Sys2Proof/Machine/Stop.lean: what happens to a stroke at the end of a turn: results and handoffs that are kept
(02_lines.md R63), requests that are withdrawn (06_memory.md R149), parks and waiter tables (R155, R156), delivered causes and
interrupts (09_matrix.md R244; 12_system.md R311 to R314), and debug stops (13_debug.md R332 to R335). -/

namespace Sys2Proof.Machine

open Sys2Proof

/-! ## Results that are kept (R63) -/

/-- The effect is one that R63 keeps. A slot fill of a local queue load (R128) is none: it comes at its turn, in the handler if
need be, and at once where the context leaves its stroke (DESIGN CHOICE, assumption 81). -/
def Eff.kept : Eff → Bool
  | .reg _ | .handoff .. => true
  | _ => false

/-- Records that were counting from turn U are counted anew at the end of turn T: one due at T+1 goes back in flight, a
later one keeps its turns (R63). -/
def Ctx.recount (c : Ctx) (tn : Nat) : Ctx :=
  match c.resumed with
  | none => c
  | some u =>
    let back := (c.lateWrites.filter (fun w => u + w.k ≤ tn + 1)).map (fun w => (⟨tn + 1, w.issued, w.seq, .reg w.reg⟩ : Landing)) ++
      (c.handRecs.filter (fun h => u + h.k ≤ tn + 1)).map (fun h =>
        (⟨tn + 1, tn, h.seq, .handoff h.sl h.kind h.amount⟩ : Landing))
    { c with
      resumed := none
      inflight := back ++ c.inflight
      lateWrites := (c.lateWrites.filter (fun w => tn + 1 < u + w.k)).map (fun w => { w with k := u + w.k - (tn + 1) })
      handRecs := (c.handRecs.filter (fun h => tn + 1 < u + h.k)).map (fun h => { h with k := u + h.k - (tn + 1) }) }

/-- The late-write record of a result on its way at the end of turn T (R63). A result for g0 is discarded, and so is its late
write (R96). -/
def Landing.lateWrite (tn : Nat) (l : Landing) : Option LateWrite :=
  match l.eff with
  | .reg w => if w.ref = .g 0 then none else some ⟨w, l.due - (tn + 1), l.seq, l.issued⟩
  | _ => none

/-- The handoff record of a handoff on its way at the end of turn T (R63). -/
def Landing.handRec (tn : Nat) (l : Landing) : Option HandRec :=
  match l.eff with
  | .handoff x kind n => some ⟨x, kind, n, l.seq, l.due - (tn + 1)⟩
  | _ => none

/-- The stroke traps, is pre-empted or stops at the end of turn T: what is due at T+1 lands then, and what is due later
becomes a record (R63). What traps taken within a trap service hold beyond the capacity of a context is not saved (DESIGN CHOICE, assumption 78). -/
def Ctx.freeze (c : Ctx) (tn : Nat) : Ctx :=
  let c := c.recount tn
  let late := c.inflight.filter (fun l => tn + 2 ≤ l.due && l.eff.kept)
  { c with
    inflight := c.inflight.filter (fun l => !(tn + 2 ≤ l.due && l.eff.kept))
    lateWrites := (c.lateWrites ++ late.filterMap (Landing.lateWrite tn)).take 12
    handRecs := (c.handRecs ++ late.filterMap (Landing.handRec tn)).take 8 }

namespace State

/-! ## Waiter tables (R155, R156) -/

/-- A synchronising access at a word of nib n joins its waiter table, or is held for it; one that can proceed is performed
at once (R155). -/
def joinWaiters (s : State) (n : NibId) (id : Nat) : State :=
  match s.findOp id with
  | some o =>
    match o.kind with
    | .access (.sync kind d) (r :: _) x _ =>
      if syncReady kind (s.full.contains r.pa) then
        let (y, t, s) := s.syncNow n kind r.pa x (s.opLc o)
        let s := s.setOpLc o t
        s.modOp id (fun o => { o with performed := true, due := s.cycle, tmax := t, kind := .access (.sync kind d) [] y false })
      else
        let s := s.modOp id (fun o => { o with kind := .access (.sync kind d) [r] x true })
        if 64 ≤ (s.nib n).waiters.length || !(s.nib n).heldReqs.isEmpty then
          s.modNib n (fun b => { b with heldReqs := b.heldReqs ++ [id] })
        else s.modNib n (fun b => { b with waiters := b.waiters ++ [id] })
    | _ => s
  | none => s

/-- The requests for which the sequencers of context `cid` wait are withdrawn from every list that holds them (R149); an
access that has been performed stands. -/
def withdraw (s : State) (n : NibId) (cid : Nat) : State :=
  let ids := (s.ops.filter (fun o => o.nib == n && o.cid == cid &&
    (match o.kind with
    | .tlbFill .. | .ctxMove .. => true
    | .access (.sync _ _) _ _ _ => o.sl = 0 && !o.performed
    | _ => false))).map (·.id)
  if ids.isEmpty then s
  else
    let fold := fun (f : Folio) => { f with coal := f.coal.map (fun c => { c with ops := c.ops.filter (fun i => !ids.contains i) }) }
    let s : State := { s with ops := s.ops.filter (fun o => !ids.contains o.id), folios := s.folios.map fold }
    let s := s.modNib n (fun b =>
      { b with waiters := b.waiters.filter (fun i => !ids.contains i), heldReqs := b.heldReqs.filter (fun i => !ids.contains i) })
    if (s.nib n).heldReqs.isEmpty then s else s.schedule s.cycle (.waiterTableJoin n)

/-- An access of the context that parked has been served, and its landing waits for the stroke's next turn (R156). -/
def servedWaits (s : State) (n : NibId) (cid : Nat) : Bool :=
  s.ops.any (fun o => o.nib == n && o.cid == cid && o.performed && o.sl = 0 &&
    (match o.kind with | .access (.sync _ _) _ _ _ => true | _ => false))

/-! ## Interruptions at the end of a turn -/

/-- Stroke k of nib n is interrupted at the end of its turn: its results are kept, what it waits for is withdrawn, and a
`wlock` that waits loses its place (R63, R118, R149). -/
def interrupt (s : State) (n : NibId) (k : Fin 8) : State :=
  let cid := (s.stroke n k).ctx.cid
  ((s.modCtxAt n k (fun c => c.freeze s.tn)).withdraw n cid).unwaitLock n k

/-- Takes a delivered cause or an interrupt at the end of the turn (R244, R311, R312): `tseq` names S. -/
def takeAtEnd (s : State) (n : NibId) (k : Fin 8) (code val : Word) : State :=
  let s := s.modCtxAt n k (fun c => c.takeTrap code val 0 c.c.mode c.seqs)
  let s := (s.interrupt n k).modStroke n k (fun x => { x with status := .running })
  { s with turn := { s.turn with trapped := true } }

/-- The stroke is resident and neither stopped nor still arriving. -/
def awakeStroke (s : State) (n : NibId) (k : Fin 8) : Bool :=
  match (s.stroke n k).status with
  | .running | .parked _ => true
  | _ => false

/-- This turn has already ended in an exception or a stop. -/
def turnSpoilt (s : State) : Bool := s.turn.trapped || s.turn.halt.isSome

/-- The interrupt that would be taken: the first pending and enabled code in the order 9, 11, 5, 7, 1 (R312). -/
def pendingInt (s : State) (n : NibId) (k : Fin 8) : Option Nat :=
  let c := (s.stroke n k).ctx.c
  let p := (s.nib n).tip k &&& c.tie
  if getBits c.tstatus 0 1 = 1 && !c.ts && c.mode != .d then [9, 11, 5, 7, 1].find? (fun i => p.getLsbD i) else none

/-! ## Debug stops (R332 to R335) -/

/-- Raises an MSI-X vector of a virtual function (R360). -/
def raiseMsix (s : State) (v : Fin 17) (i : Fin 4) : State :=
  { s with vfs := s.vfs.set v { s.vfs[v] with msix := s.vfs[v].msix.set i (s.vfs[v].msix[i] + 1) } }

/-- The virtual function of a nib's partition. -/
def vfOf (s : State) (n : NibId) : Fin 17 := Fin.ofNat 17 s.parts[s.partOf n].vf

/-- The strokes of a partition that are members of halt group g (R335). -/
def groupMembers (s : State) (p : Fin 16) (g : BitVec 4) : List (NibId × Fin 8) :=
  (s.nibs.map (fun x =>
    if s.partHas p (folioOf x.1) then
      ((List.finRange 8).filter (fun k => x.2.strokes[k].dbg.gen && x.2.strokes[k].dbg.gid == g)).map (fun k => (x.1, k))
    else [])).flatten

/-- A signal of the cross-trigger network to one member (R335): within 96 cycles inside the folio of `n`, within 400
elsewhere, the turn that then ends included. -/
def crossTrigger (s : State) (n : NibId) (m : NibId) (e : Instr) : State :=
  let (c, s) := s.freeCycle s.cycle (some (s.cycle + (if folioOf n = folioOf m then 88 else 392)))
  s.schedule c e

/-- A member of a group has stopped: every other member is told (R335). -/
def stopGroup (s : State) (n : NibId) (k : Fin 8) : State :=
  let d := (s.stroke n k).dbg
  if d.gen then
    (s.groupMembers (s.partOf n) d.gid).foldl (fun s x =>
      if x.1 = n ∧ x.2 = k then s else s.crossTrigger n x.1 (.groupStop x.1 x.2)) s
  else s

/-- A debug stop at the end of the turn (R332 to R335). The `halt` that ends a debug routine restores the kept PCs and
mode and re-enters the stop. A double trap also raises an interrupt (R314), and every stop raises vector 3 (R360). -/
def debugStop (s : State) (n : NibId) (k : Fin 8) (reason : BitVec 4) : State :=
  let st := s.stroke n k
  let back : Bool := st.dbg.inDrun && reason == 3 && st.ctx.c.mode == .d
  let parked : Bool := match st.status with
    | .parked _ => true
    | _ => false
  let s := s.interrupt n k
  let s := s.modStroke n k (fun x =>
    { x with
      status := .stopped reason
      ctx := if back then
          { x.ctx with
            c := { x.ctx.c with mode := x.dbg.keptMode }
            x := { x.ctx.x with sweep := x.ctx.x.sweep.map (fun w => { w with paused := w.paused - 1 }) }
            seqs := Vector.ofFn (fun (q : Fin 4) => (x.ctx.seqs[q]).back x.dbg.keptPc[q]) }
        else { x.ctx with withdrawn := x.ctx.withdrawn || parked }
      dbg := { x.dbg with stopReq := none, stepping := false, resumeReq := false, inDrun := x.dbg.inDrun && !back } })
  let s := s.traceIfOn n k 4 reason.toNat
  let s := s.raiseMsix (s.vfOf n) 3
  let s := if reason = 4 then (if k = 7 then s.raiseMsix (s.vfOf n) 2 else s.setTip n 9) else s
  if reason = 5 then s else s.stopGroup n k

/-- The stop that is due at the end of this turn: the stroke's own first (R316, R333 to R335), else a STEP. -/
def stopDue (s : State) (n : NibId) (k : Fin 8) : Option (BitVec 4) :=
  match s.turn.halt with
  | some r => some r
  | none =>
    match (s.stroke n k).dbg.stopReq with
    | some r => some r
    | none => if (s.stroke n k).dbg.stepping && !(s.stroke n k).dbg.resumeReq then some 6 else none

end State

/-! ## The events of the end of a turn -/

/-- DELIVERED_CAUSE: the held delivered cause is taken when it has fallen due (R244, R311), after a `tret` not before the end
of the next turn (R315); in mode D the stroke stops with reason DTRAP (R334). -/
def execDeliveredCause (n : NibId) (k : Fin 8) (s : State) : Res :=
  let c := (s.stroke n k).ctx
  match c.causes with
  | [] => .next s
  | x :: r =>
    if s.awakeStroke n k && !s.turnSpoilt && !s.turn.tret && !c.c.ts && x.due ≤ s.cycle && !s.servedWaits n c.cid then
      let s := s.modCtxAt n k (fun c => { c with causes := r })
      if c.c.mode = .d then
        let s := s.modStroke n k (fun y => { y with dbg := { y.dbg with
          keptPc := y.dbg.keptPc.set 0 (setBits y.dbg.keptPc[0] 0 8 x.code.toNat) } })
        .next { s with turn := { s.turn with halt := some 7 } }
      else .next (s.takeAtEnd n k (x.code.setWidth 64) x.val)
    else .next s

/-- TAKE_INTERRUPT (R312, R313): at the end of a turn in which no exception is taken, that of a `tret` included. -/
def execTakeInterrupt (n : NibId) (k : Fin 8) (s : State) : Res :=
  if s.awakeStroke n k && !s.turnSpoilt && !s.servedWaits n (s.stroke n k).ctx.cid then
    match s.pendingInt n k with
    | none => .next s
    | some i =>
      let val := match i with
        | 5 => (s.nib n).tmpend.setWidth 64
        | 7 => BitVec.ofNat 64 (s.stroke n k).mailbox.length
        | _ => 0
      .next (s.takeAtEnd n k (BitVec.ofNat 64 (2 ^ 63 + i)) val)
  else .next s

/-- DEBUG_STOP: the stop that is due takes effect at the end of the turn (R332). -/
def execDebugStop (n : NibId) (k : Fin 8) (s : State) : Res :=
  match s.stopDue n k with
  | some r => if s.awakeStroke n k then .next (s.debugStop n k r) else .next s
  | none => .next s

/-- PARK_RESUME: one access for which the stroke has parked can proceed: the stroke re-enters the rotation, and what else
it parked on is withdrawn (R149, R156). -/
def execParkResume (n : NibId) (k : Fin 8) (s : State) : Res :=
  match (s.stroke n k).status with
  | .parked ws =>
    let ready := ws.any (fun w => match w with
      | .replay id | .sync id => ((s.findOp id).map Op.performed).getD true)
    if ready then
      let cid := (s.stroke n k).ctx.cid
      let answers := s.ops.filter (fun o => o.nib == n && o.cid == cid && o.performed)
      let s := s.withdraw n cid
      let s := { s with ops := s.ops ++ answers.filter (fun (o : Op) => !s.ops.any (fun p => p.id = o.id)) }
      .next (s.modStroke n k (fun x => { x with status := .running }))
    else .next s
  | _ => .next s

/-- WAITER_TABLE_JOIN: the oldest held request joins the waiter table of nib n while an entry is free (R155). -/
def execWaiterTableJoin (n : NibId) (s : State) : Res :=
  match (s.nib n).heldReqs with
  | [] => .next s
  | id :: r =>
    if 64 ≤ (s.nib n).waiters.length then .next s
    else
      let s := s.modNib n (fun b => { b with heldReqs := [] })
      let s := s.joinWaiters n id
      let s := s.modNib n (fun b => { b with heldReqs := r ++ b.heldReqs })
      .next (if r.isEmpty then s else s.schedule s.cycle (.waiterTableJoin n))

namespace State

/-! ## The end of a turn -/

/-- A sweep that S has begun in this turn gets its members: S, and every sequencer that stands at an `sjoin` (R271). -/
def startSweep (s : State) : State :=
  let seqs := if s.turn.trapped || s.turn.tret then s.turn.seqs else s.ctx.seqs
  match s.ctx.x.sweep with
  | none => s
  | some w =>
    if w.members.isEmpty then
      let js := [Seq.a, .x, .w].filter (fun q => seqs[q.idx].joining)
      let ms := Seq.s :: js
      s.modCtx (fun c =>
        let c := c.modSlot w.slot (fun t => { t with running := true })
        c.modSweep (fun w => { w with members := ms, back := ms.map (fun q => (q, seqs[q.idx].pc)) }))
    else s

/-- Effects on the block table stand from the end of the issue turn on (R158). -/
def landBlocks (s : State) : State :=
  let mine := s.ctx.inflight.filter (fun l => match l.eff with | .blockSet .. => true | _ => false)
  let s := s.modCtx (fun c => { c with inflight := c.inflight.filter (fun l => match l.eff with | .blockSet .. => false | _ => true) })
  mine.foldl (fun s l => s.applyEff s.cur.nib s.cur.k l.seq l.eff) s

/-- After a trap or a `tret` of the turn, what later sequencers of the turn did to their clocks stands; and the trap holds
back of each what it came to in the turn (R40, R63, R134). -/
def keepSeqs (s : State) : State :=
  if s.turn.trapped || s.turn.tret then
    s.modCtx (fun c => { c with seqs := Vector.ofFn (fun (q : Fin 4) =>
      let x := s.turn.seqs[q]
      { c.seqs[q] with
        lc := x.lc
        held := if s.turn.trapped then x.hold :: c.seqs[q].held.tail else c.seqs[q].held }) })
  else s

/-- The stroke parks on what its sequencers met in this turn (R149, R156, R171). -/
def parkNow (s : State) : State :=
  let n := s.cur.nib
  let s := s.modStroke n s.cur.k (fun x => { x with status := .parked (s.turn.park.map (·.1)) })
  s.turn.park.foldl (fun s (w, _) =>
    match w with
    | .replay id =>
      (match s.findOp id with
      | some o =>
        (match o.kind with
        | .tlbFill asid va code => s.coalesce id n s.cur.k asid va code.val
        | _ => s)
      | none => s)
    | .sync id => s.joinWaiters n id) s

/-- What the end of a turn of the issuing stroke settles before anything is taken or stopped. -/
def closeTurn (s : State) : State :=
  let n := s.cur.nib
  let k := s.cur.k
  let s := s.startSweep.landBlocks.keepSeqs
  let s := if s.turn.fence then
      s.modCtx (fun c => { c with seqs := c.seqs.map (fun q => { q with lost := max q.lost 1 }) })
    else s
  if s.turn.trapped then s.interrupt n k
  else
    let s := if s.turn.tret then s.modCtx (fun c => { c with resumed := some (s.tn + 1) }) else s
    if s.turn.park.isEmpty then s else s.parkNow

end State

end Sys2Proof.Machine
end

