-- ==== Sys2Proof/Machine/Debug.lean ====
section
/-! DEFINITION. Sys2Proof/Machine/Debug.lean: the debug actions and halt groups, the classes of turns, the capture gate, the
counters, the ready histogram and the trace buffer (13_debug.md R332 to R342). -/

namespace Sys2Proof.Machine

open Sys2Proof

/-- A stroke is debug-stopped (R332). -/
def Status.isStopped : Status → Bool
  | .stopped _ => true
  | _ => false

namespace State

/-- A stop by a write or by the cross-trigger network: it takes effect at the end of the stroke's next turn (R333, R335).
A stroke that is vacant or stopped ignores it. -/
def askStop (s : State) (n : NibId) (k : Fin 8) (reason : BitVec 4) : State :=
  let st := s.stroke n k
  if st.status = .vacant || st.status.isStopped || st.dbg.stopReq.isSome then s
  else s.modStroke n k (fun x => { x with dbg := { x.dbg with stopReq := some reason } })

/-- A resumption: the stroke issues again at its next turn (R334). A stroke that is not stopped ignores it. -/
def askResume (s : State) (n : NibId) (k : Fin 8) (f : Stroke → Stroke) : State :=
  let st := s.stroke n k
  if st.status.isStopped && !st.dbg.resumeReq then
    s.modStroke n k (fun x => let y := f x; { y with dbg := { y.dbg with resumeReq := true } })
  else s

/-- The resumption of a stopped stroke is due in its turn that begins now; a context that a swap has brought waits for the
end of the swap (R321, R334). -/
def resumeDue (s : State) (n : NibId) (k : Fin 8) : Bool :=
  let st := s.stroke n k
  st.status.isStopped && st.dbg.resumeReq && st.swapEnd ≤ s.cycle

/-- The first turn of a resumed stroke (R334): every sequencer attempts afresh what it stood at (R30, R118, R131), and the
records land as after `tret`; those of a stroke that starts its debug routine stay held. -/
def resumeStopped (s : State) (n : NibId) (k : Fin 8) : State :=
  if s.resumeDue n k then
    let s := s.modStroke n k (fun x =>
      { x with
        status := .running
        ctx := if x.dbg.drun then x.ctx
          else { x.ctx with
            resumed := some s.tn, withdrawn := false
            seqs := x.ctx.seqs.map (fun q => { q with checked := false, thr := none, joining := false }) }
        dbg := { x.dbg with resumeReq := false, drun := false } })
    s.traceIfOn n k 5 0
  else s

end State

/-- DCTL_STOP (R333). -/
def execDctlStop (n : NibId) (k : Fin 8) (s : State) : Res := .next (s.askStop n k 1)

/-- DCTL_RESUME (R334). -/
def execDctlResume (n : NibId) (k : Fin 8) (s : State) : Res := .next (s.askResume n k id)

/-- DCTL_STEP (R334). -/
def execDctlStep (n : NibId) (k : Fin 8) (s : State) : Res :=
  .next (s.askResume n k (fun x => { x with dbg := { x.dbg with stepping := true } }))

/-- DCTL_DRUN: the PCs and the mode are kept, and the stroke runs from DLINE in mode D; a running sweep's brush pauses as in
trap service (R276, R334). -/
def execDctlDrun (n : NibId) (k : Fin 8) (s : State) : Res :=
  .next (s.askResume n k (fun x =>
    let line : Word := BitVec.ofNat 64 (x.dbg.dline.toNat * 32)
    { x with
      dbg := { x.dbg with keptPc := x.ctx.seqs.map (·.pc), keptMode := x.ctx.c.mode, inDrun := true, drun := true }
      ctx := { x.ctx with
        c := { x.ctx.c with mode := .d }
        x := { x.ctx.x with sweep := x.ctx.x.sweep.map (fun w => { w with paused := w.paused + 1 }) }
        seqs := x.ctx.seqs.map (·.divert line) } }))

/-- GROUP_STOP: the signal reaches a member, which stops with reason GROUP if it runs (R335). -/
def execGroupStop (n : NibId) (k : Fin 8) (s : State) : Res := .next (s.askStop n k 5)

/-- GRPRES: every stopped member of the group is resumed (R335). -/
def execGrpres (p : Fin 16) (g : Fin 16) (s : State) : Res :=
  .next (((s.groupMembers p (BitVec.ofFin g)).filter (fun x => (s.stroke x.1 x.2).status.isStopped)).foldl (fun s x =>
    let (c, s) := s.freeCycle s.cycle (some (s.cycle + 392))
    s.schedule c (.dctlResume x.1 x.2)) s)

/-! ## Classes of turns (R338 to R341) -/

/-- The class of a turn (R339). -/
inductive TurnClass where
  | issued | memory | message | other
deriving DecidableEq, Repr

/-- The gate counts this cycle: open, or opened in it, and not both opened and closed in it (R338). -/
def Stroke.counts (x : Stroke) : Bool := !(x.gateOn && x.gateOff) && (x.ctx.gate || x.gateOn)

namespace State

/-- A matrix command of the context stalls on a chain: it holds the array, and the panel for its next slab has not arrived
(R242, R339). -/
def chainStalled (s : State) (n : NibId) (cid : Nat) : Bool :=
  let m := (s.nib n).matrix
  match m.array with
  | some c => c.cid == cid && !c.running && !c.done && (match c.kind with
    | .mgo a _ => a != 0 && !(if a = 1 then m.fromWest else m.fromNorth).any (fun x => x.1 == c.stroke)
    | _ => false)
  | none => false

/-- The class of the turn that ends: the first row of R339 that applies. Waits that no row names leave a turn in none of
them (DESIGN CHOICE, assumption 49). -/
def turnClass (s : State) (n : NibId) (k : Fin 8) : TurnClass :=
  let st := s.stroke n k
  let parkedOn := fun (f : Park → Bool) => match st.status with
    | .parked ws => ws.any f
    | _ => false
  if st.status = .vacant then .other
  else if !s.turn.issued.isEmpty then .issued
  else if s.turn.waitMem || parkedOn (fun w => match w with | .replay _ => true | _ => false) then .memory
  else if s.turn.waitMsg || parkedOn (fun w => match w with | .sync _ => true | _ => false) ||
      (s.awakeStroke n k && st.ctx.seqs.toList.any (·.joining)) || s.chainStalled n st.ctx.cid then .message
  else .other

end State

/-- TURN_CLASS_COUNT: the turn is classed, and counted while the gate is open (R339, R340). -/
def execTurnClassCount (n : NibId) (k : Fin 8) (s : State) : Res :=
  let cls := s.turnClass n k
  let one := fun (c : TurnClass) (x : BitVec 48) => if cls = c then x + 1 else x
  .next (s.modStroke n k (fun x =>
    { x with
      lastIssued := cls = .issued
      ctx := if x.counts && x.status != .vacant then
          { x.ctx with
            issued := one .issued x.ctx.issued, nrMem := one .memory x.ctx.nrMem, nrMsg := one .message x.ctx.nrMsg
            instr := x.ctx.instr + BitVec.ofNat 48 s.turn.issued.length }
        else x.ctx }))

namespace State

/-- The gate of a stroke takes the changes of the cycle, and a change is recorded (R338, R342). -/
def settleGate (s : State) (n : NibId) (k : Fin 8) : State :=
  let x := s.stroke n k
  if x.gateOn || x.gateOff then
    let open' := !x.gateOff
    let s := s.modStroke n k (fun x => { x with gateOn := false, gateOff := false, ctx := { x.ctx with gate := open' } })
    if open' = x.ctx.gate then s else s.traceIfOn n k (if open' then 7 else 8) 0
  else s

end State

/-- READY_HISTOGRAM_COUNT: the nib counts its strokes whose latest turn was classed Issued (R341), and the gates take the
changes of the cycle (R338). -/
def execReadyHistogramCount (n : NibId) (s : State) : Res :=
  let b := s.nib n
  let i : Fin 9 := Fin.ofNat 9 ((b.strokes.toList.filter (·.lastIssued)).length)
  let s := if b.strokes.toList.any Stroke.counts then
      s.modNib n (fun b => { b with hist := b.hist.set i (b.hist[i] + 1) })
    else s
  .next ((List.finRange 8).foldl (fun s k => s.settleGate n k) s)

/-- HISTOGRAM_BIN: a write to a bin clears it (R341). -/
def execHistogramBin (n : NibId) (b : Fin 9) (s : State) : Res :=
  .next (s.modNib n (fun x => { x with hist := x.hist.set b 0 }))

/-! ## The trace buffer (R342) -/

/-- TRACE_SAMPLE: every 2^SPER turns of a stroke whose gate is open, a sample of S. -/
def execTraceSample (n : NibId) (k : Fin 8) (s : State) : Res :=
  let sper := s.parts[s.partOf n].tsamp.toNat
  let x := s.stroke n k
  if sper ≠ 0 ∧ s.tn % 2 ^ sper = 0 ∧ x.counts then
    .next (s.trace n k ⟨6, 0, 0, x.ctx.seqs[0].pc.toNat, x.ctx.issued.toNat⟩)
  else .next s

/-- TBASE: a write sets the base and clears TPOS. -/
def execTbase (p : Fin 16) (x : BitVec 64) (s : State) : Res :=
  .next (s.modPart p (fun y => { y with tbase := x &&& 0xFFFFFFFFFFC0, tpos := 0, tovf := false, tdrop := 0 }))

/-- TSIZE: a write sets the length and clears TPOS. -/
def execTsize (p : Fin 16) (x : BitVec 64) (s : State) : Res :=
  .next (s.modPart p (fun y => { y with tsize := (x &&& 0xFFFFFFE0).setWidth 32, tpos := 0, tovf := false, tdrop := 0 }))

end Sys2Proof.Machine
end

