-- ==== Sys2Proof/Machine/Registers.lean ====
section
/-! DEFINITION. Sys2Proof/Machine/Registers.lean: the control registers as words: reading one and writing one, from a stroke
at a physical address or from the host through BAR0 (06_memory.md R142, R384; 14_packets.md R345; and the rules that lay out
each register). A write that starts an action puts that action's event on the agenda of the same cycle. -/

namespace Sys2Proof.Machine

open Sys2Proof

/-- The control-register block of a physical address, with the offset in it (R140, R142). -/
inductive RegBlock where
  | modu (o : Nat)
  | bonnet (o : Nat)
  | part (p : Fin 16) (o : Nat)
  | debug (n : NibId) (o : Nat)
  | none
deriving DecidableEq, Repr

def regBlock (pa : Nat) : RegBlock :=
  let o := pa - 0xF000000000
  if o < 0x1000 then .modu o
  else if 0x100000 ≤ o ∧ o < 0x110000 then .part (Fin.ofNat 16 ((o - 0x100000) / 0x1000)) (o % 0x1000)
  else if 0x200000 ≤ o ∧ o < 0x201000 then .bonnet (o - 0x200000)
  else if 0x1000000 ≤ o ∧ o < 0x5000000 then .debug (Fin.ofNat 65536 ((o - 0x1000000) / 0x400)) (o % 0x400)
  else .none

/-- A bit field: value, lowest bit. -/
def packFields (l : List (Nat × Nat)) : Word := BitVec.ofNat 64 (l.foldl (fun a (x, i) => a + x * 2 ^ i) 0)

/-! ## Reading -/

/-- Module registers (R372). -/
def Module.readReg (m : Module) (o : Nat) : Word :=
  match o with
  | 0 => packFields [(m.fwver.toNat, 32), (m.capk.toNat, 8), (m.recov.toNat, 2), (m.therm.toNat, 1), (m.ready.toNat, 0)]
  | 8 => m.capcnt
  | _ => 0

/-- Bonnet registers (R363). -/
def Bonnet.readReg (b : Bonnet) (o : Nat) : Word :=
  match o with
  | 0 => packFields [(b.vfMask.toNat, 16), (b.en.toNat, 0)]
  | 8 => packFields [(b.fcause.toNat, 24), (b.rate.toNat, 16), (b.mods.toNat, 12), (b.fenced.toNat, 2), (b.up.toNat, 1),
      (b.present.toNat, 0)]
  | _ => 0

/-- Register `o % 32` of a publish entry (R190). -/
def Pub.readReg (e : Pub) (o : Nat) : Word :=
  match o / 8 % 4 with
  | 0 => packFields [(e.va.toNat, 16)]
  | 1 => packFields [(e.back0.toNat, 16)]
  | 2 => packFields [(e.back1.toNat, 16)]
  | _ => packFields [(e.asid.toNat, 48), (e.pages.toNat, 16), (e.sel.toNat, 1), (e.en.toNat, 0)]

/-- The memory registers of a partition (R169, R179, R190, R261, R282, R299, R335, R337, R342). -/
def Part.readReg (p : Part) (o : Nat) : Word :=
  if o = 0 then p.inval
  else if o = 8 then packFields [(p.invBusy.toNat, 0)]
  else if o = 0x10 then p.lease.setWidth 64
  else if o = 0x18 then packFields [(p.ertFrame.toNat, 16), (p.nexp.toNat, 0)]
  else if 0x100 ≤ o ∧ o < 0x300 then Pub.readReg p.pubs[Fin.ofNat 16 ((o - 0x100) / 32)] o
  else if o = 0x300 then p.barwd.setWidth 64
  else if 0x400 ≤ o ∧ o < 0x600 then p.barcfg[Fin.ofNat 64 ((o - 0x400) / 8)].setWidth 64
  else if o = 0x600 then p.tbase
  else if o = 0x608 then p.tsize.setWidth 64
  else if o = 0x610 then packFields [(p.tovf.toNat, 63), (p.tdrop.toNat, 48), (p.tpos.toNat, 0)]
  else if o = 0x618 then p.tsamp.setWidth 64
  else if 0x780 ≤ o ∧ o < 0x7C0 then p.filters[Fin.ofNat 8 ((o - 0x780) / 8)]
  else if 0x800 ≤ o ∧ o < 0x880 then
    let w := p.fwin[Fin.ofNat 16 ((o - 0x800) / 8)]
    packFields [(w.modn.toNat, 16), (w.pvf.toNat, 8), (w.en.toNat, 0)]
  else 0

/-- DCTL (R333). -/
def Debug.dctl (d : Debug) : Word :=
  packFields [(d.dline.toNat, 22), (d.gen.toNat, 16), (d.gid.toNat, 12), (d.ebrk.toNat, 4)]

/-- DSTAT (R333). -/
def Stroke.dstat (x : Stroke) : Word :=
  let (stopped, reason) := match x.status with
    | .stopped r => (1, r.toNat)
    | _ => (0, 0)
  let n := x.ctx.labels.length
  packFields [(n % 16, 12), (if n = 16 then 1 else 0, 11), (x.ctx.lovf.toNat, 10), (x.ctx.lmis.toNat, 9),
    (if x.dbg.inDrun && stopped = 0 then 1 else 0, 8), (reason, 4), (stopped, 0)]

/-- Counter i of a context (R340). -/
def Ctx.counter (c : Ctx) (i : Nat) : BitVec 48 :=
  match i with
  | 0 => c.issued
  | 1 => c.nrMem
  | 2 => c.nrMsg
  | _ => c.instr

def Ctx.setCounter (c : Ctx) (i : Nat) (x : BitVec 48) : Ctx :=
  match i with
  | 0 => { c with issued := x }
  | 1 => { c with nrMem := x }
  | 2 => { c with nrMsg := x }
  | _ => { c with instr := x }

/-- The debug block of a nib (R333, R334, R340, R341). -/
def Nib.readReg (b : Nib) (o : Nat) : Word :=
  if o < 0x80 then
    let x := b.strokes[Fin.ofNat 8 (o / 16)]
    if o % 16 = 0 then x.dbg.dctl else x.dstat
  else if o < 0x100 then (if o % 16 = 8 then b.strokes[Fin.ofNat 8 ((o - 0x80) / 16)].dbg.keptPc[0] else 0)
  else if o < 0x200 then (b.strokes[Fin.ofNat 8 ((o - 0x100) / 32)].ctx.counter (o / 8 % 4)).setWidth 64
  else if o < 0x300 then (b.entries[Fin.ofNat 8 ((o - 0x200) / 32)].ctx.counter (o / 8 % 4)).setWidth 64
  else if o < 0x348 then (b.hist[Fin.ofNat 9 ((o - 0x300) / 8)]).setWidth 64
  else 0

namespace State

/-- The control register that holds the byte at `pa` (R384). -/
def regRead (s : State) (pa : Nat) : Word :=
  match regBlock (pa / 8 * 8) with
  | .modu o => s.modu.readReg o
  | .bonnet o => s.bonnet.readReg o
  | .part p o => s.parts[p].readReg o
  | .debug n o => (s.nib n).readReg o
  | .none => 0

/-! ## Writing -/

/-- The W1C bits of the register at `pa` (R333). -/
def regW1c (pa : Nat) : Word :=
  match regBlock (pa / 8 * 8) with
  | .debug _ o => if o < 0x80 && o % 16 = 8 then 0x600 else 0
  | _ => 0

/-- A write to a publish entry's address registers takes effect only while EN = 0 (R190). -/
def Pub.writeReg (e : Pub) (o : Nat) (x : Word) : Pub :=
  if e.en then e
  else
    match o / 8 % 4 with
    | 0 => { e with va := x.extractLsb' 16 48 }
    | 1 => { e with back0 := x.extractLsb' 16 32 }
    | 2 => { e with back1 := x.extractLsb' 16 32 }
    | _ => e

/-- A write of a whole memory register of partition p. -/
def partWrite (s : State) (p : Fin 16) (o : Nat) (x : Word) : State :=
  if o = 0 then s.schedule s.cycle (.inval p x)
  else if o = 0x10 then
    let l := getBits x 0 13
    if l = 0 ∨ 4096 < l then s else s.modPart p (fun y => { y with lease := BitVec.ofNat 13 l })
  else if o = 0x18 then
    if 4096 < getBits x 0 13 then s
    else s.modPart p (fun y => { y with ertFrame := x.extractLsb' 16 32, nexp := x.extractLsb' 0 13 })
  else if 0x100 ≤ o ∧ o < 0x300 then
    let e : Fin 16 := Fin.ofNat 16 ((o - 0x100) / 32)
    if o / 8 % 4 = 3 then s.schedule s.cycle (.pctl p e x)
    else s.modPart p (fun y => { y with pubs := y.pubs.set e (Pub.writeReg y.pubs[e] o x) })
  else if o = 0x300 then
    let l := getBits x 0 6
    if l < 16 ∨ 40 < l then s else s.modPart p (fun y => { y with barwd := BitVec.ofNat 6 l })
  else if 0x400 ≤ o ∧ o < 0x600 then s.schedule s.cycle (.barcfg p (Fin.ofNat 64 ((o - 0x400) / 8)) x)
  else if o = 0x600 then s.schedule s.cycle (.tbase p x)
  else if o = 0x608 then s.schedule s.cycle (.tsize p x)
  else if o = 0x618 then
    let l := getBits x 0 6
    if l = 0 ∨ (8 ≤ l ∧ l ≤ 40) then s.modPart p (fun y => { y with tsamp := BitVec.ofNat 6 l }) else s
  else if 0x700 ≤ o ∧ o < 0x780 then
    if x.getLsbD 0 then s.schedule s.cycle (.grpres p (Fin.ofNat 16 ((o - 0x700) / 8))) else s
  else if 0x780 ≤ o ∧ o < 0x7C0 then
    s.modPart p (fun y => { y with filters := y.filters.set (Fin.ofNat 8 ((o - 0x780) / 8)) (x &&& 0xFFFFFFFF0000000C) })
  else if 0x800 ≤ o ∧ o < 0x880 then
    let pvf := getBits x 8 5
    if x.getLsbD 0 ∧ (pvf = 0 ∨ 16 < pvf) then s
    else s.modPart p (fun y =>
      { y with fwin := y.fwin.set (Fin.ofNat 16 ((o - 0x800) / 8)) ⟨x.extractLsb' 16 16, BitVec.ofNat 5 pvf, x.getLsbD 0⟩ })
  else s

/-- A write of DCTL: the fields, then the actions (R333, R334). -/
def dctlWrite (s : State) (n : NibId) (k : Fin 8) (x : Word) : State :=
  let s := s.modStroke n k (fun y =>
    { y with dbg := { y.dbg with
        dline := x.extractLsb' 22 14, gen := x.getLsbD 16, gid := x.extractLsb' 12 4, ebrk := x.getLsbD 4 } })
  let act := fun (s : State) (i : Nat) (e : Instr) => if x.getLsbD i then s.schedule s.cycle e else s
  act (act (act (act s 0 (.dctlStop n k)) 1 (.dctlResume n k)) 2 (.dctlStep n k)) 3 (.dctlDrun n k)

/-- A write of a whole register of a debug block (R333, R340, R341). -/
def debugWrite (s : State) (n : NibId) (o : Nat) (x : Word) : State :=
  if o < 0x80 then
    let k : Fin 8 := Fin.ofNat 8 (o / 16)
    if o % 16 = 0 then s.dctlWrite n k x
    else s.modCtxAt n k (fun c => { c with lovf := c.lovf && !x.getLsbD 10, lmis := c.lmis && !x.getLsbD 9 })
  else if 0x200 ≤ o ∧ o < 0x300 then
    let e : Fin 8 := Fin.ofNat 8 ((o - 0x200) / 32)
    s.modNib n (fun b =>
      let y := b.entries[e]
      { b with entries := b.entries.set e { y with ctx := y.ctx.setCounter (o / 8 % 4) (x.setWidth 48) } })
  else if 0x300 ≤ o ∧ o < 0x348 then s.schedule s.cycle (.histogramBin n (Fin.ofNat 9 ((o - 0x300) / 8)))
  else s

/-- A write of BONCTL (R363). -/
def bonctlWrite (s : State) (x : Word) : State :=
  let s := { s with bonnet := { s.bonnet with vfMask := x.extractLsb' 16 16 } }
  let s := s.schedule s.cycle (.bonctlEn x)
  if x.getLsbD 1 then s.schedule s.cycle .bonctlFence else s

/-- A write of the whole register at `pa`; a read-only register ignores it. -/
def regWrite (s : State) (pa : Nat) (x : Word) : State :=
  match regBlock (pa / 8 * 8) with
  | .modu _ => s
  | .bonnet o => if o = 0 then s.bonctlWrite x else s
  | .part p o => s.partWrite p o x
  | .debug n o => s.debugWrite n o x
  | .none => s

/-- A store of `n` bytes to a control register: one write of the whole register, whose other bytes hold their current
value, with W1C bits 0 (R384). -/
def regStore (s : State) (pa n x : Nat) : State :=
  let old := s.regRead pa &&& ~~~ regW1c pa
  s.regWrite pa (setBits old (8 * (pa % 8)) (8 * n) x)

/-- A load of `n` bytes of a control register as it stands (R384). -/
def regLoad (s : State) (pa n : Nat) : Nat := getBits (s.regRead pa) (8 * (pa % 8)) (8 * n)

/-! ## BAR0 (R345, R346) -/

/-- A queue of a virtual function; one that nothing has written stands as reset left it. -/
def queue (s : State) (v : Fin 17) (q : Fin 64) : Queue := (s.vfs[v].queues.lookup q).getD Queue.reset

def setQueue (s : State) (v : Fin 17) (q : Fin 64) (x : Queue) : State :=
  { s with vfs := s.vfs.set v { s.vfs[v] with queues := (q, x) :: s.vfs[v].queues.filter (·.1 != q) } }

def modQueue (s : State) (v : Fin 17) (q : Fin 64) (f : Queue → Queue) : State := s.setQueue v q (f (s.queue v q))

/-- The partition of a virtual function (R26). -/
def partOfVf (s : State) (v : Fin 17) : Option (Fin 16) :=
  if v = 0 then none else (List.finRange 16).find? (fun p => s.parts[p].vf == v.val)

/-- A ring of 2^l slots: slot numbers run modulo that, those at which the queue now stands included (R346, DESIGN CHOICE,
assumption 74). -/
def Queue.resize (y : Queue) (l : Nat) : Queue :=
  let n := 2 ^ l
  { y with
    log2 := BitVec.ofNat 5 l, head := BitVec.ofNat 16 (y.head.toNat % n), tail := BitVec.ofNat 16 (y.tail.toNat % n)
    pos := y.pos % n, loop := y.loop.map (fun x => (x.1 % n, x.2)), inlineSlots := y.inlineSlots.map (· % n)
    inlined := y.inlined.map (fun x => (x.1 % n, x.2)), pkts := y.pkts.map (fun p => { p with slot := p.slot % n }) }

/-- A write to a queue register (R346). QBASE takes no bits below bit 6, so they read 0 (DESIGN CHOICE, assumption 83). -/
def queueWrite (s : State) (v : Fin 17) (q : Fin 64) (o : Nat) (x : Word) : State :=
  let y := s.queue v q
  match o with
  | 0 => s.schedule s.cycle (.qctl v q x)
  | 0x08 => if y.en then s else s.setQueue v q { y with base := x &&& ~~~ 63 }
  | 0x10 =>
    let l := getBits x 0 5
    if y.en || l < 4 || 16 < l then s else s.setQueue v q (Queue.resize y l)
  | 0x20 => s.schedule s.cycle (.qtail v q x)
  | 0x28 => s.setQueue v q { y with root := x }
  | _ => s

/-! What a host read of BAR0 returns (R345): no read has an effect. -/

/-- A fault record as its two 8-byte words (R173). -/
def FaultRec.words (r : FaultRec) : Word × Word :=
  (r.va, packFields [(r.nib.toNat, 0), (r.asid.toNat, 32), (r.kind.toNat, 48), (r.reqs.toNat, 56)])

/-- The fault buffer (R172). -/
def faultRead (p : Part) (o : Nat) : Word :=
  if o = 0 then packFields [(p.drop.toNat, 8), (p.faults.length, 0)]
  else if 0x80 ≤ o ∧ o < 0x100 then
    match p.faults[(o - 0x80) / 16]? with
    | some r => if o % 16 = 0 then (FaultRec.words r).1 else (FaultRec.words r).2
    | none => 0
  else 0

/-- The registers of a queue (R346). -/
def queueRead (y : Queue) (o : Nat) : Word :=
  match o with
  | 0 => packFields [(y.en.toNat, 0)]
  | 0x08 => y.base
  | 0x10 => y.log2.setWidth 64
  | 0x18 => y.head.setWidth 64
  | 0x20 => y.tail.setWidth 64
  | 0x28 => y.root
  | 0x30 => packFields [(y.code.toNat, 8), (y.dropw.toNat, 1), (y.err.toNat, 0)]
  | _ => 0

/-- An attestation report as the bytes that follow the nonce in its mailbox, in the order of R374 (DESIGN CHOICE, assumption
16). -/
def Report.bytes (r : Report) : Nat :=
  r.fwver.toNat + r.image.toNat * 2 ^ 32 + r.blob.toNat * 2 ^ 544 + r.devid.toNat * 2 ^ 1056 + r.nonce.toNat * 2 ^ 1120 +
    r.signature * 2 ^ 1376

/-- The 8-byte word at a BAR0 offset of a virtual function, or of the physical function (R345, R375). -/
def bar0Read (s : State) (v : Fin 17) (off : Nat) : Word :=
  let o := off / 8 * 8
  let part := s.partOfVf v
  if s.modu.recov && v != 0 then 0
  else if o < 0x800 then (part.map (fun p => faultRead s.parts[p] o)).getD 0
  else if 0x1000 ≤ o ∧ o < 0x2000 then (part.map (fun p => s.parts[p].readReg (o - 0x1000))).getD 0
  else if 0x10000 ≤ o ∧ o < 0x11000 then
    let q : Fin 64 := Fin.ofNat 64 ((o - 0x10000) / 0x40)
    if v = 0 ∧ q ≠ 0 then 0 else queueRead (s.queue v q) (o % 0x40)
  else if 0x1000000 ≤ o ∧ o < 0x5000000 then
    let n : NibId := Fin.ofNat 65536 ((o - 0x1000000) / 0x400)
    match part with
    | some p => if s.partHas p (folioOf n) then (s.nib n).readReg (o % 0x400) else 0
    | none => 0
  else if v ≠ 0 then 0
  else if 0x6000000 ≤ o ∧ o < 0x6001000 then s.bonnet.readReg (o - 0x6000000)
  else if 0x7000000 ≤ o ∧ o < 0x7000100 then s.modu.readReg (o - 0x7000000)
  else if 0x7000100 ≤ o ∧ o < 0x7000120 then BitVec.ofNat 64 (s.modu.nonce.toNat / 2 ^ (8 * (o - 0x7000100)))
  else if 0x7000120 ≤ o ∧ o < 0x8000000 then
    BitVec.ofNat 64 ((s.modu.report.map Report.bytes).getD 0 / 2 ^ (8 * (o - 0x7000120)))
  else 0

/-- The W1C bits of the register at a BAR0 offset (R333). -/
def bar0W1c (off : Nat) : Word :=
  if 0x1000000 ≤ off ∧ off < 0x5000000 then regW1c (0xF001000000 + (off - 0x1000000)) else 0

/-- A write of the host at a BAR0 offset (R345): what it changes, and the register events it makes due. -/
def bar0Write (s : State) (v : Fin 17) (off : Nat) (x : Word) : State :=
  let o := off / 8 * 8
  if s.modu.recov && v != 0 then s
  else if o = 0x800 then s.schedule s.cycle (.rplctl v x)
  else if o = 0x810 then s.schedule s.cycle (.hostsig v x)
  else if 0x1000 ≤ o ∧ o < 0x2000 then
    match s.partOfVf v with
    | some p => (s.partWrite p (o - 0x1000) x)
    | none => s
  else if 0x10000 ≤ o ∧ o < 0x11000 then
    let q : Fin 64 := Fin.ofNat 64 ((o - 0x10000) / 0x40)
    if v = 0 ∧ q ≠ 0 then s else (s.queueWrite v q (o % 0x40) x)
  else if 0x20000 ≤ o ∧ o < 0x21000 then
    let q : Fin 64 := Fin.ofNat 64 ((o - 0x20000) / 0x40)
    if v = 0 ∧ q ≠ 0 then s else (s.modQueue v q (fun y => { y with dropw := true }))
  else if 0x1000000 ≤ o ∧ o < 0x5000000 then
    let n : NibId := Fin.ofNat 65536 ((o - 0x1000000) / 0x400)
    match s.partOfVf v with
    | some p => if s.partHas p (State.folioOf n) then (s.debugWrite n (o % 0x400) x) else s
    | none => s
  else if v ≠ 0 then s
  else if o = 0x6000000 then (s.bonctlWrite x)
  else if o = 0x7000010 then (s.schedule s.cycle (.recoveryControl x))
  else if 0x7000100 ≤ o ∧ o < 0x7000120 then
    let i := (o - 0x7000100) / 8
    let nonce : BitVec 256 := BitVec.ofNat 256 (s.modu.nonce.toNat - (s.modu.nonce.toNat / 2 ^ (64 * i) % 2 ^ 64) * 2 ^ (64 * i) +
      x.toNat * 2 ^ (64 * i))
    let s := { s with modu := { s.modu with nonce := nonce } }
    (if i = 3 then s.schedule s.cycle (.attest nonce) else s)
  else s

/-- A write of n bytes by the host at a BAR0 offset: bytes of the recovery image window (R375), or one write of a whole
register whose other bytes hold their current value, with W1C bits 0 (R384). A launch register drops it (R347); elsewhere a
misaligned one has no effect (DESIGN CHOICE, assumption 35). -/
def bar0Store (s : State) (v : Fin 17) (off n x : Nat) : State :=
  if 0x20000 ≤ off ∧ off < 0x21000 then s.bar0Write v off 0
  else if off % n ≠ 0 then s
  else if 0x8000000 ≤ off then
    if v = 0 ∧ s.modu.recov then
      { s with modu := { s.modu with window := Memory.write s.modu.window (off - 0x8000000) n x } }
    else s
  else s.bar0Write v off (setBits (s.bar0Read v off &&& ~~~ bar0W1c off) (8 * (off % 8)) (8 * n) x)

/-- The events made due since the agenda held `k` entries come before those: a write of a register has taken force before the
next access (R384). -/
def newEventsFirst (s : State) (k : Nat) : State := { s with agenda := s.agenda.drop k ++ s.agenda.take k }

/-- What a host write of n bytes at a BAR0 offset owes on its way from a brim die: one to a debug block of the function's
partition crosses to the folio of its nib (R345, R360). -/
def bar0Owing (s : State) (v : Fin 17) (off n : Nat) : Fin 16 × List (Fin 16 × Nat) :=
  let f := folioOf (Fin.ofNat 65536 ((off - 0x1000000) / 0x400))
  match s.partOfVf v with
  | some p => (p, if 0x1000000 ≤ off ∧ off < 0x5000000 ∧ s.partHas p f then s.owing p f false n else [])
  | none => (0, [])

end State

/-- REGISTER_WRITE: a write of the host, of 2^n bytes, at a BAR0 offset of a virtual function, or of the physical function
(R345, R384). Rows marked PF only ignore it elsewhere, and in recovery only the physical function answers (R375). -/
def execRegisterWrite (v : Fin 17) (off : BitVec 28) (x : HostStore) (s : State) : Res :=
  let (p, owes) := s.bar0Owing v off.toNat (2 ^ x.n.val)
  .next (s.atBorder p 2 owes (.registerWrite v off x) (fun s =>
    (s.bar0Store v off.toNat (2 ^ x.n.val) x.x.toNat).newEventsFirst s.agenda.length))

end Sys2Proof.Machine
end

