-- ==== Sys2Proof/Machine/Access.lean ====
section
/-! DEFINITION. Sys2Proof/Machine/Access.lean: the memory system's own events: accesses performed at their homes, TLB fills,
fault records, invalidations, data-cache copies, the clock floor, and the accesses of host agents (06_memory.md R143, R148,
R166 to R173; 07_ordering.md R175 to R183, R191 to R194). -/

namespace Sys2Proof.Machine

open Sys2Proof

namespace State

/-! ## When an access is performed -/

/-- The next event of an access: at a free cycle, and before the invalidation ends that its partition runs (R169). -/
def nextAccess (s : State) (n : NibId) (e : Instr) : State :=
  let p := s.parts[s.partOf n]
  let (c, s) := s.freeCycle s.cycle (if p.invBusy then some p.invEnd else none)
  s.schedule c e

/-- A piece with its PA as the publish entries now stand (R191); other pieces keep the translation they were given, and so
does one whose backing refuses the access now (R142, DESIGN CHOICE, assumption 64). -/
def pieceNow (s : State) (n : NibId) (root : Word) (priv : Bool) (r : Range) (shadow : Bool) : Range :=
  if r.va.toNat < windowEnd then r
  else
    match s.pubEntry (s.partOf n) (asidOf root) r.va with
    | some e =>
      let pa := pubPA e r.va shadow
      if s.refusedOf n priv (r.size ≤ 8) pa then r else { r with pa := pa, cache := (unitOf pa).cached }
    | none => r

/-- The piece as the publish entries stood at time lc (R191). -/
def pieceAt (s : State) (n : NibId) (root : Word) (r : Range) (lc : Clk) : Range :=
  if r.va.toNat < windowEnd then r
  else
    match s.pubEntry (s.partOf n) (asidOf root) r.va with
    | some e =>
      let pa := pubPA { e with sel := Pub.selAt e lc } r.va false
      { r with pa := pa, cache := (unitOf pa).cached }
    | none => r

/-- The copy of a cell that a nib's data cache holds and that an agent with clock lc may use (R180). A copy of data that a
store of a later time has left counts as dropped: a load at lc would return that store before its place (R185). -/
def copyOf (s : State) (n : NibId) (pa : Nat) (lc : Clk) : Option Copy :=
  (s.nib n).copies.find? (fun c => c.cell == pa / 64 * 64 && Clk.le c.wts lc && Clk.le lc c.rc)

/-- A sequencer's read of one piece (R180): at its clock from a copy under lease of the piece as it then was, `old`, or at the
home, leaving a copy where the page may be cached. -/
def seqRead (s : State) (n : NibId) (r old : Range) (lc : Clk) : Nat × Clk × State :=
  match if old.cache then s.copyOf n old.pa lc else none with
  | some c => (c.data.toNat / 2 ^ (8 * (old.pa % 64)) % 2 ^ (8 * r.size), lc, s)
  | none =>
    let (t, s) := s.readStamp r.pa lc (s.leaseOf n r)
    let x := Memory.read s.mem r.pa r.size
    if r.cache then
      let cell := r.pa / 64 * 64
      let copy : Copy := ⟨cell, BitVec.ofNat 512 (Memory.read s.mem cell 64), (s.stampOf cell).1, (s.stampOf cell).2⟩
      let s := s.modNib n (fun b => { b with copies := copy :: b.copies.filter (·.cell != cell) })
      let (c, s) := s.freeCycle (s.cycle + 1) none
      (x, t, s.schedule c (.cacheCopyDrop n cell))
    else (x, t, s)

/-- An earlier access of the same sequencer has not been performed, one that waits at its word included (R183, DESIGN
CHOICE, assumption 11). -/
def behindOther (s : State) (o : Op) : Bool :=
  s.ops.any (fun x => x.id < o.id && x.nib == o.nib && x.cid == o.cid && x.seq == o.seq && !x.performed && !x.parked &&
    (match x.kind with
    | .access .. => x.sl != 0
    | _ => false))

/-- The last access of an operation has been performed: its landing follows in a turn of the stroke (R60, R143). -/
def accessDone (s : State) (id : Nat) : State :=
  let (c, s) := s.freeCycle s.cycle none
  s.modOp id (fun o => { o with performed := true, due := c })

/-- `pub` is performed, as one store-like event (R192). -/
def publish (s : State) (o : Op) (p e : Fin 16) : State :=
  let x := s.parts[p].pubs[e]
  let size := x.pages.toNat * 0x10000
  let ranges := [x.back0, x.back1].map (fun b => (b.toNat * 0x10000, b.toNat * 0x10000 + size))
  let bases := [x.back0, x.back1].map (fun b => s.baseStamp (b.toNat * 0x10000))
  let tops := (s.stamps.filter (fun y => ranges.any (fun r => y.lo < r.2 && r.1 < y.hi))).map (·.rts)
  let t := (bases ++ tops).foldl (fun t y => Clk.max t (y + 1)) (s.opLc o)
  let new := ranges.map (fun (r : Nat × Nat) => (⟨r.1, r.2, t, t⟩ : Stamp))
  let old := s.stamps.filter (fun (y : Stamp) => !ranges.any (fun (r : Nat × Nat) => r.1 ≤ y.lo && y.hi ≤ r.2))
  let s : State := { s with stamps := new ++ old }
  let s := s.modPart p (fun y => { y with pubs := y.pubs.set e { y.pubs[e] with sel := !y.pubs[e].sel, flips := t :: y.pubs[e].flips } })
  ((s.setOpLc o t).modOp o.id (fun o => { o with tmax := t })).accessDone o.id

/-- The PA is a control register (R140, R384). -/
def isControl (pa : Nat) : Bool := unitOf pa == .control

/-- One piece of a load, a store or an atomic at its home (R180, R181, R157): the data of the operation so far, the time,
and the state. `old` is the piece as the publish entries stood at the sequencer's clock (R191). -/
def performPiece (s : State) (o : Op) (use : Use) (r old : Range) (data : Nat) : Nat × Clk × State :=
  let lc := s.opLc o
  match use with
  | .store =>
    let x := data / 2 ^ (8 * r.at_)
    let (t, s) := s.writeStamp r.pa lc
    if isControl r.pa then (data, t, (s.regStore r.pa r.size x).newEventsFirst s.agenda.length)
    else (data, t, { s with mem := Memory.write s.mem r.pa r.size x })
  | .amo _ size op y c =>
    let (t, s) := s.writeStamp r.pa lc
    let old := Memory.read s.mem r.pa size
    let (x, e) := amoNew op.val (8 * size) old y c
    (old + e.toNat * 2 ^ 64, t, { s with mem := Memory.write s.mem r.pa size x })
  | _ =>
    if isControl r.pa then
      let (t, s) := s.readStamp r.pa lc 0
      (data + s.regLoad r.pa r.size * 2 ^ (8 * r.at_), t, s)
    else
      let (x, t, s) := s.seqRead o.nib r old lc
      (data + x * 2 ^ (8 * r.at_), t, s)

/-- One event of a long-form access (R143, R151). -/
def accessStep (s : State) (o : Op) (again : Instr) : State :=
  match o.kind with
  | .access use todo data waiting =>
    if o.performed || waiting then s
    else if s.cycle < o.due then s.schedule o.due again
    else if s.behindOther o then s.schedule (s.cycle + 1) again
    else
      match use, todo with
      | .pub p e, _ => s.publish o p e
      | .sync _ _, r :: _ =>
        (match unitOf r.pa with
        | .well n _ => s.joinWaiters n o.id
        | _ => s)
      | _, [] => s.accessDone o.id
      | _, r :: rest =>
        let (root, priv) := s.engFor o.nib o.cid
        let (data, t, s) := s.performPiece o use (s.pieceNow o.nib root priv r false) (s.pieceAt o.nib root r (s.opLc o)) data
        let s := (s.setOpLc o t).modOp o.id (fun o =>
          { o with tmax := Clk.max o.tmax t, kind := .access use rest data false })
        if rest.isEmpty then s.accessDone o.id else s.nextAccess o.nib again
  | _ => s

/-! ## Contexts, blocks and rows on their way -/

/-- The last cell of a `ctxst` or `ctxld` has been performed (R322). The context that stands beside the entry is kept by its
number, which the record carries (DESIGN CHOICE, assumption 20). A `ctxld` makes the entry valid, with every clock raised to the
floor (R319), unless the record fails its checks; the set of labels and counters beside the entry stays (R340). -/
def moveDone (s : State) (o : Op) (e : Fin 8) (va : Word) (store : Bool) : State :=
  let n := o.nib
  let done := fun (s : State) (f : Option (BitVec 8 × Word)) =>
    s.modOp o.id (fun o => { o with performed := true, due := s.cycle, fail := f })
  let beside := (s.nib n).entries[e].ctx
  if store then done { s with saved := (beside.cid, beside) :: s.saved.filter (·.1 != beside.cid) } none
  else
    let img := Memory.read s.mem (entryPA n e) recordSize
    let det := ((s.findCid n o.cid).map (fun c => c.c.tstatus.getLsbD 15)).getD false
    match s.recordTrap n det img va with
    | some f => done s (some f)
    | none =>
      let (cid, s) := s.newId
      let fresh : Ctx := { Ctx.reset with born := s.tn, seqs := Ctx.reset.seqs.map (fun q => { q with lc := s.opLc o }) }
      let side := { Ctx.takeSet ((s.saved.lookup (recField img 0x2200 8)).getD fresh) beside with cid := cid }
      let c := (Ctx.ofRecord img side).raiseTo (s.floorOf (s.partOf n))
      let tip := BitVec.ofNat 64 (recField img 0x17A0 8) &&& 0xAA2
      done (s.putEntry n e c ((recField img 0x1432 1).testBit 1) tip) none

/-- One cell of a `ctxst` or `ctxld`, an access of S (R322): the checks of R147, then the access. A cell that `ctxld` has
read stands in the entry. -/
def moveStep (s : State) (o : Op) (again : Instr) : State :=
  match o.kind with
  | .ctxMove e va store done =>
    if o.performed then s
    else
      let root := (s.engFor o.nib o.cid).1
      match s.engPieces o.nib root true store false (cellPieces (va + BitVec.ofNat 64 (64 * done)) 0 64 3) [] with
      | .ok (r :: _) =>
        let lc := s.opLc o
        let at_ := entryPA o.nib e + 64 * done
        let (t, s) := if store then
            let (t, s) := s.writeStamp r.pa lc
            (t, ({ s with mem := Memory.write s.mem r.pa 64 (Memory.read s.mem at_ 64) } : State))
          else
            let (x, t, s) := s.seqRead o.nib r (s.pieceAt o.nib root r lc) lc
            (t, ({ s with mem := Memory.write s.mem at_ 64 x } : State))
        let s := (s.setOpLc o t).modOp o.id (fun o => { o with kind := .ctxMove e va store (done + 1) })
        if done + 1 = 160 then s.moveDone o e va store else s.nextAccess o.nib again
      | .fail c v => s.modOp o.id (fun o => { o with performed := true, fail := some (c, v) })
      | .replay v => s.modOp o.id (fun o => { o with performed := true, fail := some (0, v) })
      | _ => s
  | _ => s

/-- One cell of a block fill or drain (R159, R160). -/
def blockStep (s : State) (o : Op) (again : Instr) : State :=
  match o.kind with
  | .block addr todo drain =>
    if o.performed then s
    else if s.cycle < o.due then s.schedule o.due again
    else
      match todo with
      | [] => s.accessDone o.id
      | r :: rest =>
        let (root, priv) := s.engFor o.nib o.cid
        let r := s.pieceNow o.nib root priv r drain
        let off := addr + r.at_
        let (t, s) := if drain then
            let (x, t, s) := s.engRead o.nib off r.size o.lc
            let (t, s) := s.writeStamp r.pa t
            (t, { s with mem := Memory.write s.mem r.pa r.size x })
          else
            let (t, s) := s.readStamp r.pa o.lc 0
            s.engWrite o.nib off r.size (Memory.read s.mem r.pa r.size) t
        let s := s.modOp o.id (fun o => { o with lc := t, tmax := Clk.max o.tmax t, kind := .block addr rest drain })
        if rest.isEmpty then s.accessDone o.id else s.nextAccess o.nib again
  | _ => s

/-- One cell of a row of an emit, under its command's clock, and after the last its landing decrement, which carries the time of
its row's own write (R188, R233, R234). -/
def rowStep (s : State) (o : Op) (again : Instr) : State :=
  match o.kind with
  | .mrow cmd todo data decr =>
    match todo with
    | r :: rest =>
      let (root, priv) := s.engFor o.nib o.cid
      let r := s.pieceNow o.nib root priv r true
      let lc := (((s.matrix o.nib).findCmd cmd).map MCmd.lc).getD o.lc
      let (t, s) := s.writeStamp r.pa (Clk.max o.lc lc)
      let s : State := { s with mem := Memory.write s.mem r.pa r.size (data / 2 ^ (8 * r.at_)) }
      let s := s.modMatrix o.nib (fun m => m.modCmd cmd (fun c =>
        { c.took t with rows := c.rows.map (fun y => if y.sent = some o.id then { y with time := Clk.max y.time t } else y) }))
      let s := s.modOp o.id (fun o => { o with lc := t, tmax := Clk.max o.tmax t, kind := .mrow cmd rest data decr })
      s.nextAccess o.nib again
    | [] =>
      let s := s.dropOp o.id
      match decr with
      | some (va, pa) => s.sendDecr o.nib o.stroke o.cid va pa cmd o.tmax
      | none => s.schedule s.cycle (.matrixPost cmd)
  | _ => s

/-- The piece that an operation performs next. -/
def Op.nextPiece (o : Op) : Option Range :=
  match o.kind with
  | .access _ todo .. | .block _ todo _ | .mrow _ todo .. => todo.head?
  | _ => none

/-- The home of the operation's next access lies in a lost folio, whose links are closed (R386): it is never performed. -/
def homeGone (s : State) (o : Op) : Bool :=
  match (Op.nextPiece o).bind (fun r => (unitOf r.pa).folio) with
  | some f => s.folios[f].lost
  | none => false

/-- The next access of operation `id` is performed. -/
def homeEvent (s : State) (id : Nat) (again : Instr) : State :=
  match s.findOp id with
  | none => s
  | some o =>
    if o.parked || s.homeGone o then s
    else
      match o.kind with
      | .access .. => s.accessStep o again
      | .ctxMove .. => s.moveStep o again
      | .block .. => s.blockStep o again
      | .mrow .. => s.rowStep o again
      | .copy .. => s.copyStep o
      | .send .. => s.sendStep o
      | _ => s

end State

/-- HOME_READ: a cell access that reads is performed (R180). -/
def execHomeRead (id : Nat) (s : State) : Res := .next (s.homeEvent id (.homeRead id))

/-- HOME_WRITE: a cell access that writes is performed at the home (R181). -/
def execHomeWrite (id : Nat) (s : State) : Res := .next (s.homeEvent id (.homeWrite id))

/-- LONG_ACCESS_COMPLETE: the data, the pending bit and the post of a long-form access land together (R60, R130, R143). -/
def execLongAccessComplete (id : Nat) (s : State) : Res :=
  match s.findOp id with
  | some o =>
    match o.kind with
    | .access use _ x _ =>
      if o.performed && o.sl != 0 then
        match use with
        | .loadG d size sgn => .next (s.landOp o [.g d (State.loadValue size sgn x)] 0)
        | .loadV d => .next (s.landOp o [.v d (BitVec.ofNat 1024 x)] 0)
        | .loadQ =>
          .next ((s.modCid o.nib o.cid (fun c =>
            { c with x := { c.x with ax := fillSlot c.x.ax id (BitVec.ofNat 1024 x) o.tmax } })).landOp o [] 0)
        | .store => .next (s.landOp o [] 0)
        | .amo d .. => .next (s.landOp o [.g d (BitVec.ofNat 64 x)] (BitVec.ofNat 8 (x / 2 ^ 64)))
        | .sync kind d => .next (s.landOp o (if kind.val < 2 then [.g d (BitVec.ofNat 64 x)] else []) 0)
        | .pub .. => .next (s.landOp o [] 0)
      else .next s
    | _ => .next s
  | none => .next s

/-- CACHE_COPY_DROP: a nib's data cache gives up its copy of a cell (R182). -/
def execCacheCopyDrop (n : NibId) (c : Nat) (s : State) : Res :=
  .next (s.modNib n (fun b => { b with copies := b.copies.filter (·.cell != c) }))

/-! ## Translation (R148, R166 to R173) -/

namespace State

/-- Keeps a translation in a TLB of n entries, the oldest giving way (R168). -/
def tlbAdd (l : List TlbEntry) (e : TlbEntry) (n : Nat) : List TlbEntry :=
  (e :: l.filter (fun t => !(t.asid == e.asid && t.page == e.page && t.big == e.big))).take n

/-- A translation arrives at nib n, and at its folio's second-level TLB (R148, R168). -/
def tlbKeep (s : State) (n : NibId) (e : TlbEntry) : State :=
  let f := folioOf n
  let s := s.modNib n (fun b => { b with tlb := tlbAdd b.tlb e 32 })
  { s with folios := s.folios.set f { s.folios[f] with tlb := tlbAdd s.folios[f].tlb e 8192 } }

end State

/-- TLB_FILL: the translation that a sequencer of nib n waits for is found, or a fault is its answer (R148, R165, R170). A
stroke that has parked on it parks again when its page is still absent (R174). -/
def execTlbFill (n : NibId) (id : Nat) (s : State) : Res :=
  match s.findOp id with
  | some o =>
    match o.kind with
    | .tlbFill asid va code =>
      if o.performed || o.parked then .next s
      else
        match s.folios[State.folioOf n].tlb.find? (fun t => State.TlbEntry.hits t asid va) with
        | some e => .next ((s.tlbKeep n e).dropOp id)
        | none =>
          match s.walk (s.partOf n) (s.engFor n o.cid).1 va (code != 0) with
          | .ok _ big frame home w => .next ((s.tlbKeep n (State.tlbOf asid va big frame home w)).dropOp id)
          | .precise => .next (s.modOp id (fun o => { o with performed := true, due := s.cycle, fail := some (1, va) }))
          | .replay =>
            if (match (s.stroke n o.stroke).status with | .parked ws => ws.contains (.replay id) | _ => false) then
              .next ((s.modOp id (fun o => { o with parked := true })).coalesce id n o.stroke asid va code.val)
            else .next (s.modOp id (fun o => { o with performed := true, due := s.cycle, fail := some (0, va) }))
    | _ => .next s
  | none => .next s

/-- FAULT_RECORD: a record arrives at the fault buffer of partition p (R172, R173). -/
def execFaultRecord (p : Fin 16) (va : BitVec 64) (n : BitVec 32) (asid : BitVec 16) (kind : BitVec 8) (s : State) : Res :=
  let page : Word := sx 52 (va.toNat % 2 ^ 52 / 2 ^ 16 * 2 ^ 16)
  let old := s.parts[p].faults
  if old.any (fun r => r.asid == asid && r.va == page) then
    .next (s.modPart p (fun y => { y with faults := old.map (fun r =>
      if r.asid == asid && r.va == page then { r with reqs := if r.reqs = 255 then 255 else r.reqs + 1 } else r) }))
  else if old.length < 8 then
    .next ((s.modPart p (fun y => { y with faults := old ++ [⟨page, n, asid, kind, 1⟩] })).raiseMsix
      (Fin.ofNat 17 s.parts[p].vf) 1)
  else .next (s.modPart p (fun y => { y with drop := true }))

namespace State

/-- An entry of a TLB matches an invalidation (R169). -/
def invHits (x : Word) (asid : BitVec 16) (page : Nat) (big : Bool) : Bool :=
  (x.getLsbD 1 || asid == x.extractLsb' 48 16) && (x.getLsbD 0 || page == getBits x 12 36 / (if big then 4096 else 1))

/-- Accesses of a partition that have been translated and not performed (R169). -/
def translated (s : State) (p : Fin 16) : List Nat :=
  (s.ops.filter (fun o => s.partOf o.nib = p && !o.performed && !o.parked &&
    (match o.kind with
    | .access _ _ _ waiting => o.sl != 0 && !waiting
    | .block .. | .mrow .. | .decr .. => true
    | _ => false))).map (·.id)

end State

/-- INVAL: an invalidation starts (R169): the matching entries go, the guest is told, and BUSY rises. A write while BUSY
is refused. What a guest holds that cannot be told goes at once (DESIGN CHOICE, assumption 14). -/
def execInval (p : Fin 16) (x : BitVec 64) (s : State) : Res :=
  if s.parts[p].invBusy then .next s
  else
    let keep := fun (t : TlbEntry) => !State.invHits x t.asid t.page t.big
    let hi := s.cycle + 6600
    let s := s.modPart p (fun y => { y with inval := x &&& 0xFFFFFFFFFFFFF003, invBusy := true, invEnd := hi })
    let mine := s.translated p
    let nibs := s.nibs.map (fun y => if s.partOf y.1 = p then (y.1, { y.2 with tlb := y.2.tlb.filter keep }) else y)
    let folios := Vector.ofFn (fun (f : Fin 16) =>
      if s.partHas p f then { s.folios[f] with tlb := s.folios[f].tlb.filter keep } else s.folios[f])
    let s : State := { s with
      nibs := nibs, folios := folios
      agenda := s.agenda.map (fun e => match e.2 with
        | .homeRead i | .homeWrite i => if mine.contains i then (min e.1 (s.cycle + 6000), e.2) else e
        | .landingDecrement .. => (min e.1 (s.cycle + 6000), e.2)
        | _ => e) }
    let told : Bool := s.bonnet.up && s.bonnet.vfMask.getLsbD (s.parts[p].vf - 1)
    let vf := s.parts[p].vf
    let s : State := { s with bonnet := if told then
        { s.bonnet with deadlines := s.bonnet.deadlines ++ [⟨1, p.val, 0, hi⟩], told := Clk.max s.bonnet.told s.parts[p].hostLc }
      else { s.bonnet with tlb := s.bonnet.tlb.filter (fun t => t.vf != vf || keep t.entry) } }
    let s := if told then s.schedule hi (.guestDeadline 1) else s
    let (c, s) := s.freeCycle s.cycle (some hi)
    .next (s.schedule c (.invalidationComplete p))

/-- INVALIDATION_COMPLETE: every access that used a removed entry has been performed, and the guest has acknowledged or has
been fenced: BUSY falls (R169, R367). -/
def execInvalidationComplete (p : Fin 16) (s : State) : Res :=
  if !s.parts[p].invBusy then .next s
  else
    let waits := !(s.translated p).isEmpty || s.bonnet.deadlines.any (fun d => d.cause == 1 && d.what == p.val)
    if waits && s.cycle < s.parts[p].invEnd then .next (s.schedule (s.cycle + 1) (.invalidationComplete p))
    else .next (s.modPart p (fun y => { y with invBusy := false }))

/-! ## Publish entries (R190) -/

/-- A backing stays inside its unit (R140, R190). -/
def backingFits (frame : BitVec 32) (pages : Nat) : Bool :=
  let a := frame.toNat * 0x10000
  let e := a + pages * 0x10000 - 1
  match unitOf a, unitOf e with
  | .hbm f, .hbm g => f = g
  | .well n _, .well m _ => n = m
  | .slice i _, .slice j _ => i = j
  | .control, .control => true
  | _, _ => false

/-- PCTL: a write to the control register of publish entry e (R190). -/
def execPctl (p : Fin 16) (e : Fin 16) (x : BitVec 64) (s : State) : Res :=
  let y := s.parts[p].pubs[e]
  let put := fun (z : Pub) => Host.Outcome.next (s.modPart p (fun q => { q with pubs := q.pubs.set e z }))
  if y.en then put { y with en := x.getLsbD 0 }
  else
    let z : Pub := { y with asid := x.extractLsb' 48 16, pages := x.extractLsb' 16 13 }
    let n := z.pages.toNat
    let overlap := s.parts[p].pubs.toList.any (fun w => w.en && w.asid == z.asid &&
      State.Pub.base w < State.Pub.base z + n * 0x10000 && State.Pub.base z < State.Pub.base w + w.pages.toNat * 0x10000)
    if x.getLsbD 0 then
      (if n = 0 || 4096 < n || overlap || !backingFits z.back0 n || !backingFits z.back1 n then .next s
      else put { z with en := true, sel := false, flips := [] })
    else put z

/-! ## Clocks (R176) -/

/-- CLOCK_FLOOR: every clock and stamp of the partition that lies below its floor rises to it (R176), within every 4,096
cycles. -/
def execClockFloor (p : Fin 16) (s : State) : Res :=
  let s := s.raisePart p (s.floorOf p)
  let (c, s) := s.freeCycle (s.cycle + 1) (some (s.cycle + 4096))
  .next (if s.parts[p].vf = 0 then s else s.schedule c (.clockFloor p))

/-! ## Host agents (R194) -/

namespace State

/-- The pieces of a host-agent access to device memory under `root`, with their PAs; none where it fails (R142, R194). -/
def hostPieces (s : State) (p : Fin 16) (root : Word) (write : Bool) : List Range → List Range → Option (List Range)
  | [], acc => some acc.reverse
  | r :: rs, acc =>
    if !canonical r.va || !root.getLsbD 0 then none
    else
      let pa : Option Nat := match s.pubEntry p (asidOf root) r.va with
        | some e => some (pubPA e r.va false)
        | none =>
          match s.walk p root r.va write with
          | .ok pa _ _ _ _ => some pa
          | _ => none
      match pa with
      | some a => if s.refused p true false a then none else s.hostPieces p root write rs ({ r with pa := a } :: acc)
      | none => none

/-- The accesses of a host agent carry their bytes across the borders between a brim die and their homes (R26, R360). -/
def addToll (s : State) (p : Fin 16) (rs : List Range) : State :=
  let owes := rs.flatMap (fun r => ((unitOf r.pa).folio.map (fun f => s.owing p f false r.size)).getD [])
  s.modPart p (fun y => { y with toll := y.toll ++ owes })

/-- A host-agent read of `n` bytes at a device VA (R194): the data, with the agent's clock advanced. -/
def hostLoad (s : State) (p : Fin 16) (root va : Word) (n : Nat) : Option (Nat × State) :=
  (s.hostPieces p root false (cellPieces va 0 n (n / 64 + 2)) []).map (fun rs =>
    rs.foldl (fun (acc : Nat × State) r =>
      let (t, s) := acc.2.readStamp r.pa acc.2.parts[p].hostLc 0
      (acc.1 + Memory.read s.mem r.pa r.size * 2 ^ (8 * r.at_), s.modPart p (fun y => { y with hostLc := t }))) (0, s.addToll p rs))

/-- A host-agent write of `n` bytes at a device VA (R194). -/
def hostStore (s : State) (p : Fin 16) (root va : Word) (n x : Nat) : Option State :=
  (s.hostPieces p root true (cellPieces va 0 n (n / 64 + 2)) []).map (fun rs =>
    rs.foldl (fun s r => s.hostWrite p r.pa r.size (x / 2 ^ (8 * r.at_))) (s.addToll p rs))

/-- A host agent adds x to the 8-byte word at a device VA, as one indivisible access (R157, R194, R356). -/
def hostAdd (s : State) (p : Fin 16) (root va : Word) (x : Nat) : Option State :=
  (s.hostPieces p root true (cellPieces va 0 8 2) []).map (fun rs =>
    rs.foldl (fun s r => s.hostWrite p r.pa r.size (Memory.read s.mem r.pa r.size + x)) (s.addToll p rs))

/-- No traffic stands to be charged: the accesses of an event begin (R360). -/
def noTolls (s : State) : State := { s with parts := s.parts.map (fun y => { y with toll := [] }) }

/-- Event `ev` has made its accesses, which took state s to t. Their bytes are paid for at the partitions' borders, on channel 2,
unless they were before; where tokens are short, none of the accesses is made, and the event comes again once the way has been
paid (R360). -/
def settleEvent (s : State) (ev : Instr) (t : State) : State :=
  let due := (List.finRange 16).filter (fun i => !t.parts[i].toll.isEmpty)
  let want := fun (s : State) (i : Fin 16) => s.parts[i].take ⟨2, t.parts[i].toll, [(s.cycle, ev)], true⟩
  match due.find? (fun i => !s.parts[i].through.contains ev && !(want t i).2) with
  | some i =>
    let (x, ok) := want s i
    let s := s.modPart i (fun _ => if ok then { x with through := x.through ++ [ev] } else x)
    if ok then s.schedule s.cycle ev else s
  | none =>
    (due.foldl (fun t i => if s.parts[i].through.contains ev then t else t.modPart i (fun _ => (want t i).1)) t).noTolls.dropThrough ev

end State

/-- HOST_ACCESS: an 8-byte access of the host to device memory, by the host agent of its virtual function (R194), under the
tables of its queue 0; one that fails has no effect, and one whose traffic finds too few tokens waits at the border (R360). -/
def execHostAccess (v : Fin 17) (w : Bool) (va : BitVec 64) (x : BitVec 64) (s : State) : Res :=
  match s.partOfVf v with
  | none => .next s
  | some p =>
    let root := (s.queue v 0).root
    match if w then s.noTolls.hostStore p root va 8 x.toNat else (s.noTolls.hostLoad p root va 8).map (·.2) with
    | some t => .next (s.settleEvent (.hostAccess v w va x) t)
    | none => .next (s.dropThrough (.hostAccess v w va x))

end Sys2Proof.Machine
end

