-- ==== Sys2Proof/Machine/Launch.lean ====
section
/-! DEFINITION. Sys2Proof/Machine/Launch.lean: tasks: the state a launch gives a stroke, wakes, the ready queue as the nib
kernel fills and serves it, load balancing, and the end of a task (01_machine.md R20 to R22; 05_control.md R135; 12_system.md
R387; 14_packets.md R351 to R355). -/

namespace Sys2Proof.Machine

open Sys2Proof

/-- Field of `n` bytes at offset `o` of a packet (R348). -/
def pktField (b : BitVec 512) (o n : Nat) : Nat := b.toNat / 2 ^ (8 * o) % 2 ^ (8 * n)

namespace Launch

def field (l : Launch) (o n : Nat) : Nat := pktField l.bits o n
def quota (l : Launch) : Nat := l.field 0x14 1
def tasks (l : Launch) : Nat := l.field 0x18 8
def prio (l : Launch) : Nat := l.field 0x16 1
def det (l : Launch) : Bool := (l.field 0x15 1).testBit 0

/-- Field of the launch record (R352). -/
def recd (l : Launch) (o n : Nat) : Nat := l.record.toNat / 2 ^ (8 * o) % 2 ^ (8 * n)

/-- The folios of its partition, rising; N, the count of their nibs; the ordinal of a nib, and the nib of an ordinal (R353). -/
def foliosOf (l : Launch) : List (Fin 16) := (List.finRange 16).filter (fun f => l.folios.getLsbD f.val)
def nibs (l : Launch) : Nat := 4096 * l.foliosOf.length
def ordinal (l : Launch) (n : NibId) : Nat :=
  4096 * (l.foliosOf.filter (fun f => f.val < (State.folioOf n).val)).length + n.val % 4096
def nibOfOrdinal (l : Launch) (o : Nat) : Option NibId :=
  (l.foliosOf[o / 4096]?).map (fun f => Fin.ofNat 65536 (f.val * 4096 + o % 4096))

/-- The used levels of a record, narrowest first (R352). -/
def levels (l : Launch) : List Nat := ((List.range 8).map (fun i => l.recd i 1)).takeWhile (· ≠ 7)

end Launch

/-- The levels of a record widen strictly, and unused ones follow every used one (R19, R352). -/
def levelsOk (record : Nat) : Bool :=
  let l := (List.range 8).map (fun i => record / 2 ^ (8 * i) % 256)
  let used := l.takeWhile (· ≠ 7)
  (l.drop used.length).all (· == 7) && used.all (· ≤ 6) && (used.zip used.tail).all (fun (a, b) => decide (a < b))

/-! ## Unit indices (R354) -/

/-- The side of a unit in nibs: nib, quad, block, folio, module (R16). -/
def unitSide : Nat → Nat
  | 1 => 1
  | 2 => 2
  | 3 => 8
  | 4 => 64
  | _ => 256

/-- The position of a nib's level-d unit over the grid of such units in its level-e unit (R354). -/
def gridIndex (n : NibId) (d e : Nat) : Nat :=
  let w := unitSide e / unitSide d
  State.globalRow n % unitSide e / unitSide d * w + State.globalCol n % unitSide e / unitSide d

/-- The index of stroke k's unit of domain d within its unit of domain e, both inside the module (R354). -/
def innerIndex (n : NibId) (k d e : Nat) : Nat :=
  if d = 0 then (if e = 1 then k else 8 * gridIndex n 1 e + k) else gridIndex n d e

/-- The units of domain d in a module. -/
def unitsInModule (d : Nat) : Nat := if d = 0 then 524288 else (256 / unitSide d) ^ 2

/-- The index of a unit of domain d within one of domain e; the pod counts modules from `pod` (R354). -/
def unitIndex (modn pod : Nat) (n : NibId) (k d e : Nat) : Nat :=
  if e = 6 then
    let m := (modn + 65536 - pod % 65536) % 65536
    if d = 5 then m else m * unitsInModule d + innerIndex n k d 5
  else innerIndex n k d e

/-- The index that byte ℓ of g13 holds (R353, R354). -/
def levelIndex (modn pod : Nat) (n : NibId) (k : Nat) (levels : List Nat) (i : Nat) : Nat :=
  match levels[i]?, levels[i + 1]? with
  | some d, some e => unitIndex modn pod n k d e
  | some d, none => if d < 5 then unitIndex modn pod n k d 5 else if d = 5 then unitIndex modn pod n k 5 6 else 0
  | none, _ => 0

namespace State

def findLaunch (s : State) (id : Nat) : Option Launch := s.launches.find? (·.id == id)

/-! ## Shares (R353) -/

/-- The folios of a partition, rising. -/
def foliosOf (s : State) (p : Fin 16) : List (Fin 16) := (List.finRange 16).filter (fun f => s.partHas p f)

/-- The nibs of a partition. -/
def nibCount (s : State) (p : Fin 16) : Nat := 4096 * (s.foliosOf p).length

/-- Tasks of a launch that fall to the ordinals from a on, b of them. -/
def shareOf (tasks quota n a b : Nat) : Nat :=
  tasks / (quota * n) * quota * b + min (quota * b) (tasks % (quota * n) - a * quota)

/-! ## Starting a task (R353) -/

/-- The context of task x of a launch on stroke k of nib n, whose turns count from the first at or after cycle `at_` (R189). -/
def launchCtx (s : State) (l : Launch) (n : NibId) (k : Fin 8) (x : Nat) (rq : Option (Fin 64)) (cid at_ : Nat) : Ctx :=
  let b := fun (v : Nat) => BitVec.ofNat 64 v
  let g13 := (List.range 8).foldl (fun a i =>
    a + levelIndex s.modu.modn.toNat (l.recd 0x58 4) n k.val l.levels i % 256 * 2 ^ (8 * i)) 0
  let seeds := (List.range 8).map (fun i => (4 + i, b (l.recd (0x10 + 8 * i) 8)))
  let gs := [(2, b (l.recd 0x50 4 + (k.val + 1) * l.recd 0x54 4)), (3, b (l.recd 8 8))] ++ seeds ++ [(12, b x), (13, b g13)]
  let flags := l.field 0x15 1
  { Ctx.reset with
    cid := cid
    r := gs.foldl (fun r w => { r with g := r.g.set (Fin.ofNat 32 w.1) w.2 }) Regs.reset
    c := { Csrs.reset with
      xob := b (l.field 0x10 4), ptroot := l.root &&& 0xFFFFFFFFFFFF0001
      rngseed := b (l.field 0x28 8) ^^^ b (x / 2 ^ 32 % 256 * 2 ^ 56), rngsid := b (x % 2 ^ 32)
      rpolicy := b (flags / 4 % 4), tstatus := b (flags % 2 * 2 ^ 15 + flags / 2 % 2) }
    seqs := Vector.replicate 4 { (SeqSt.reset.enter (b (l.field 8 8))) with lc := l.clk }
    task := ⟨l.id, x, rq, s.nibNumber n, BitVec.ofNat 4 (l.field 0x17 1)⟩
    born := (at_ + 7 - k.val) / 8
    owner := some (l.vf, l.queue)
    gate := (s.queue l.vf l.queue).capture.isSome }

/-- Task x starts on stroke k of nib n, which issues from cycle `at_` on: its rings are disabled and its mailbox is empty
(R286, R353). -/
def startTask (s : State) (l : Launch) (n : NibId) (k : Fin 8) (x : Nat) (rq : Option (Fin 64)) (at_ : Nat) : State :=
  let (cid, s) := s.newId
  let c := s.launchCtx l n k x rq cid at_
  s.modStroke n k (fun y =>
    { y with
      status := .arriving at_, ctx := c, mailbox := [], rings := .replicate 4 Ring.reset
      dbg := { y.dbg with stopReq := none, stepping := false, resumeReq := false, inDrun := false } })

/-! ## The nib kernel's own context (R13, R373) -/

/-- The context with which the firmware starts a nib kernel, whose turns count from cycle `at_`: mode K, every sequencer at its
entry, and the CSRs as the image has them (R13, R373, DESIGN CHOICE, assumption 10). -/
def kernelCtx (flash : List (Nat × BitVec 8)) (cid at_ : Nat) : Ctx :=
  let csrs := [(CsrId.xob, 0x10D), (.tvec, 0x100), (.tie, 0x10A), (.tstatus, 0x101), (.tscratch, 0x102), (.ptroot, 0x180)]
  { Ctx.reset with
    cid := cid
    c := { csrs.foldl (fun (c : Csrs) (x : CsrId × BitVec 12) => c.write x.1 1 (Config.kernelCsr flash x.2) false) Csrs.reset with
      mode := .k }
    seqs := .replicate 4 (SeqSt.reset.enter (Config.kernelEntry flash))
    born := at_ / 8 }

/-- The kernel of nib n starts on stroke 7 (R13, R373). -/
def kernelUp (s : State) (n : NibId) : State :=
  let (cid, s) := s.newId
  s.modStroke n 7 (fun x =>
    { x with status := .running, ctx := (kernelCtx s.modu.flash cid s.cycle).raiseTo (s.floorOf (s.partOf n)) })

/-- The firmware puts the kernel's image into the well of nib n and starts it (R373, DESIGN CHOICE, assumption 10). -/
def loadKernel (s : State) (n : NibId) : State :=
  ({ s with mem := Memory.write s.mem (wellPA n 0) 0x60000 (Config.kernelImage s.modu.flash) } : State).kernelUp n

/-- The kernels of every nib of folio f start (R373). -/
def startKernels (s : State) (f : Fin 16) : State :=
  (List.range 4096).foldl (fun s o => s.loadKernel (Fin.ofNat 65536 (f.val * 4096 + o))) s

/-- The nib kernel's own context stands in stroke k of nib n. -/
def kernelAt (s : State) (n : NibId) (k : Fin 8) : Bool :=
  k == 7 && s.modu.ready && (s.stroke n k).status != .vacant && (s.stroke n k).ctx.task == Task.reset

/-- A task may be put into stroke k of nib n: it is vacant, or the nib kernel holds it outside trap service, to which a launch of
QUOTA 8 gives no stroke of its own (R13, R353). -/
def roomAt (s : State) (n : NibId) (k : Fin 8) : Bool :=
  (s.stroke n k).status == .vacant || (s.kernelAt n k && !(s.stroke n k).ctx.c.ts)

/-! ## The nib kernel's queue (R387) -/

/-- The index after x that falls to the same nib. -/
def nextShare (x quota n : Nat) : Nat := if x % quota + 1 < quota then x + 1 else x + 1 - quota + quota * n

/-- Places one task in the ready queue: the lowest FREE id of its priority (R387). -/
def placeTask (b : Nib) (l : Launch) (x : Nat) : Option Nib :=
  let ids := (List.finRange 64).filter (fun i => (rqPrio i).val == l.prio && b.rq[i].st == .free)
  match ids with
  | [] => none
  | i :: _ =>
    let b := { b with rq := b.rq.set i { b.rq[i] with tag := BitVec.ofNat 48 x, task := some (l.id, x), ran := false } }
    some (b.rqReady i false)

/-- Puts an entry into the kernel's own list: in increasing index among the entries of its launch, and at place `at_` where it
has none (R387). -/
def insertWait (l : List WaitTask) (w : WaitTask) (at_ : Nat) : List WaitTask :=
  let place := match l.findIdx? (fun y => y.launch == w.launch && decide (w.index < y.index)) with
    | some i => i
    | none => if l.any (fun y => y.launch == w.launch) then l.length - l.reverse.findIdx (fun y => y.launch == w.launch) else at_
  l.take place ++ w :: l.drop place

/-- Tasks of the kernel's own list enter the queue while ids come free, in order (R387). -/
def refill (s : State) (n : NibId) : Nat → State
  | 0 => s
  | fuel + 1 =>
    let b := s.nib n
    let try_ := fun (w : WaitTask) => match s.findLaunch w.launch with
      | some l => (placeTask b l w.index).map (fun b => (l, b))
      | none => none
    match b.waiting.findSome? (fun w => (try_ w).map (fun y => (w, y))) with
    | none => s
    | some (w, l, b) =>
      let next := nextShare w.index l.quota l.nibs
      let at_ := b.waiting.findIdx (· == w)
      let left := b.waiting.take at_ ++ b.waiting.drop (at_ + 1)
      let b := { b with waiting := if w.more && next < l.tasks then insertWait left { w with index := next } at_ else left }
      (s.setNib n b).refill n fuel

/-- The strokes on which task x of a launch may run: those of its quota, and in deterministic mode the one that it is bound to
(R13, R25, R353, R387). -/
def mayRun (l : Launch) (x : Nat) (k : Fin 8) : Bool :=
  k.val < l.quota && (k != 7 || l.quota == 8) && (!l.det || x % l.quota == k.val)

/-- The launch and the index of the task that a READY id holds, where it may start on stroke k. -/
def startable (s : State) (n : NibId) (k : Fin 8) (i : Fin 64) : Option (Launch × Nat) :=
  match (s.nib n).rq[i].task with
  | some (l, x) => (s.findLaunch l).bind (fun l => if mayRun l x k then some (l, x) else none)
  | none => none

/-- The kernel starts a task on stroke k, at most 1,024 turns of stroke 7 later (R387): of the ids that launches have filled
the first, in the order of `rqpop`, whose task may run there (DESIGN CHOICE, assumption 71). -/
def startNext (s : State) (n : NibId) (k : Fin 8) : State :=
  let b := s.nib n
  match (b.rqLists.toList.flatten).findSome? (fun i => (s.startable n k i).map (fun y => (i, y))) with
  | none => s
  | some (i, l, x) =>
    let s := s.setNib n { b with
      rqLists := b.rqLists.map (·.filter (· != i)), rq := b.rq.set i { b.rq[i] with st := .running, task := none } }
    let (c, s) := s.freeCycle (s.cycle + 1) (some (s.cycle + 8184))
    s.startTask l n k x (some i) c

/-- Tasks of a nib that are READY, have never run and may move (R355), as ready-queue ids. -/
def movable (s : State) (n : NibId) : List (Fin 64) :=
  (List.finRange 64).filter (fun i =>
    let y := (s.nib n).rq[i]
    y.st == .ready && !y.ran && (match y.task with
      | some (l, _) => ((s.findLaunch l).map (fun l => !l.det)).getD false
      | none => false))

end State

namespace State

/-- The cycle of the next load report: one every 4,096 turns (R355, DESIGN CHOICE, assumption 73). -/
def reportCycle (s : State) : Nat := (s.cycle / 32768 + 1) * 32768

/-- The next report of nib n is due. -/
def reportNext (s : State) (n : NibId) : State :=
  if s.agenda.any (fun e => e.2 == .loadBalance (.exchange n)) then s else s.schedule s.reportCycle (.loadBalance (.exchange n))

/-- The kernel of nib n reports its load when the next report is due, while it holds tasks that have not started (R355). -/
def reportLoad (s : State) (n : NibId) : State :=
  if (s.movable n).isEmpty && (s.nib n).waiting.isEmpty then s
  else s.reportNext n

end State

/-- WAKE_ACCEPT: nib n accepts the wake of launch `id`: its block table is emptied (R158, DESIGN CHOICE, assumption 65), and
its share, none where no task falls to it, is placed, round 0 in vacant strokes, the rest in its queue (R20, R21, R353). -/
def execWakeAccept (n : NibId) (id : Nat) (s : State) : Res :=
  match s.findLaunch id with
  | none => .next s
  | some l =>
    let q := l.quota
    let o := l.ordinal n
    let s := if (s.nib n).blocks.isEmpty then s else s.modNib n (fun b => { b with blocks := [] })
    let xs := ((List.range q).map (fun j => o * q + j)).filter (fun x => decide (x < l.tasks))
    let s := xs.foldl (fun s x =>
      let k : Fin 8 := Fin.ofNat 8 (x % q)
      if s.roomAt n k then s.startTask l n k x none s.cycle
      else s.modNib n (fun b => { b with waiting := b.waiting ++ [⟨id, x, false⟩] })) s
    let first := o * q + q * l.nibs
    let s := if first < l.tasks then s.modNib n (fun b => { b with waiting := b.waiting ++ [⟨id, first, true⟩] }) else s
    .next ((s.refill n 64).reportLoad n)

namespace State

/-! ## Load balancing (R355) -/

/-- Moves one READY task of nib n to nib m: the highest task index of the lowest priority. Where m has a vacant stroke for it,
m's kernel starts a task there at once (DESIGN CHOICE, assumption 72). -/
def moveTask (s : State) (n m : NibId) : State :=
  let key := fun (i : Fin 64) => (rqPrio i).val * 2 ^ 64 + ((s.nib n).rq[i].task.map (·.2)).getD 0
  match (s.movable n).foldl (fun (best : Option (Fin 64)) i => match best with
      | some j => if key j < key i then some i else some j
      | none => some i) none with
  | none => s
  | some i =>
    match (s.nib n).rq[i].task with
    | none => s
    | some (l, x) =>
      let s := s.modNib n (fun b =>
        let b := { b with rqLists := b.rqLists.set (rqPrio i) (b.rqLists[rqPrio i].filter (· != i)) }
        { b with rq := b.rq.set i { b.rq[i] with st := .free, wakePend := false, task := none } })
      let s := ((s.modNib m (fun b => { b with waiting := insertWait b.waiting ⟨l, x, false⟩ b.waiting.length })).refill m 64).reportLoad m
      match s.findLaunch l with
      | none => s
      | some y =>
        match (List.finRange 8).find? (fun k => s.roomAt m k && mayRun y x k) with
        | some k => s.startNext m k
        | none => s

def moveTasks (s : State) (n m : NibId) : Nat → State
  | 0 => s
  | k + 1 => (s.moveTask n m).moveTasks n m k

end State

/-- LOAD_BALANCE: the kernel of nib n sends its count of READY tasks that have never run to its neighbours, and moves tasks to
a neighbour whose last report is lower by 2 or more; it reports on until it has reported that none are left. With `x`, a
neighbour's report reaches it, or waiting tasks take an id that `rqstate` has freed (R355, R387, DESIGN CHOICE, assumption 73). -/
def execLoadBalance (x : LoadEvent) (s : State) : Res :=
  match x with
  | .report n r =>
    if s.nibLost n then .next s else .next (s.modNib n (fun b => { b with load := b.load.set r.dir r.count }))
  | .exchange n =>
    if s.nibLost n then .next s
    else
      let s := s.refill n 64
      let c := (s.movable n).length
      let next := fun (d : Fin 4) => (s.neighbour n d).filter (fun m => !s.nibLost m)
      let s := [0, 1, 2, 3].foldl (fun s (d : Fin 4) =>
        match next d with
        | some m =>
          let (t, s) := s.freeCycle (s.cycle + 1) none
          s.schedule t (.loadBalance (.report m ⟨d + 2, c⟩))
        | none => s) s
      let s := [0, 1, 2, 3].foldl (fun s (d : Fin 4) =>
        match next d with
        | some m =>
          let c := (s.movable n).length
          let o := (s.nib n).load[d]
          if o + 2 ≤ c then s.moveTasks n m (min 4 ((c - o) / 2)) else s
        | none => s) s
      .next (if c = 0 then s.reportLoad n else s.reportNext n)
  | .refill n => .next (if s.nibLost n then s else (s.refill n 64).reportLoad n)

namespace State

/-! ## The end of a task (R135) -/

/-- A matrix command of context `cid` is queued or in service on nib n. -/
def matrixHas (s : State) (n : NibId) (cid : Nat) : Bool :=
  let m := (s.nib n).matrix
  (m.queue ++ m.array.toList ++ m.loader.toList ++ m.draining ++ m.stopped ++ m.held).any (fun c => c.cid == cid)

/-- The three conditions of R135 hold for stroke k of nib n, whose sequencers have all ended. -/
def taskOver (s : State) (n : NibId) (k : Fin 8) : Bool :=
  let st := s.stroke n k
  let c := st.ctx
  st.status == .running && !s.kernelAt n k && c.x.sweep.isNone && c.seqs.toList.all (·.ended) && c.inflight.isEmpty &&
  (c.resumed.isNone || (c.lateWrites.isEmpty && c.handRecs.isEmpty)) && c.r.seals.toList.all (·.pend == 0) &&
  !s.matrixHas n c.cid &&
  !s.ops.any (fun o => o.nib == n && o.cid == c.cid && (match o.kind with | .panel .. => false | _ => true))

/-- A ring whose task has ended is disabled, at once or when its last grant is used (R286). -/
def Ring.close (r : Ring) : Ring := if r.grants = 0 then { r with en := false } else { r with closing := r.en }

end State

/-- A context whose task has ended: what is left in its queues, and what it still held back, is discarded; its registers
and counters stand as they were (R135, R380). -/
def Ctx.over (c : Ctx) : Ctx :=
  { c with
    cid := 0, task := Task.reset, lateWrites := [], handRecs := [], resumed := none, causes := []
    x := { c.x with oq := .replicate 4 [], ax := [], xw := [] } }

/-- TASK_END: the task of stroke k has ended (R135): its locks, rings, mailbox and queue id are given up, its launch counts
it, and the kernel takes the next task of the queue (R286, R329, R353, R387). Stroke 7 goes back to the nib kernel where no task
takes it (R13). -/
def execTaskEnd (n : NibId) (k : Fin 8) (s : State) : Res :=
  if !s.taskOver n k then .next s
  else
    let c := (s.stroke n k).ctx
    let s := s.modNib n (fun b =>
      let b := { b with locks := b.locks.filter (fun l => l.owner != k), lockWait := b.lockWait.filter (fun x => x.1 != k) }
      match c.task.rq with
      | some i => b.setRq i .free false
      | none => b)
    let s := s.modStroke n k (fun x =>
      { x with status := .vacant, ctx := x.ctx.over, mailbox := []
               rings := x.rings.map State.Ring.close
               dbg := { x.dbg with stopReq := none, stepping := false, resumeReq := false, inDrun := false } })
    let idle := fun (s : State) => if k = 7 ∧ s.modu.ready ∧ (s.stroke n k).status = .vacant then s.kernelUp n else s
    match s.findLaunch c.task.launch with
    | none => .next (idle s)
    | some l =>
      let clk := maxClk (c.seqs.toList.map (·.lc))
      let s : State := { s with launches := s.launches.map (fun y =>
        if y.id = l.id then { y with left := y.left - 1, endClk := Clk.max y.endClk clk } else y) }
      let s := if l.left ≤ 1 then s.schedule s.cycle (.launchComplete l.id) else s
      .next (idle (((s.refill n 64).startNext n k).reportLoad n))

end Sys2Proof.Machine
end

