-- ==== Sys2Proof/Machine/Packets.lean ====
section
/-! DEFINITION. Sys2Proof/Machine/Packets.lean: command queues, the packets of R350 and of the privileged queue, capture and
replay, and the making, resizing and destroying of partitions (13_debug.md R343, R344; 14_packets.md R345 to R360). -/

namespace Sys2Proof.Machine

open Sys2Proof

/-! ## The form of packets (R348, R350, R351, R356, R358) -/

/-- The fields that a packet names from 0x08 on: offset and size; none for an unknown OP. -/
def pktNamed (op : Nat) : Option (List (Nat × Nat)) :=
  match op with
  | 0x01 => some [(8, 0x30)]
  | 0x02 => some [(8, 0x28)]
  | 0x03 => some [(8, 0x19)]
  | 0x04 => some [(8, 0x11), (0x28, 8)]
  | 0x05 => some [(8, 0x19), (0x22, 2)]
  | 0x06 => some [(8, 0x19), (0x22, 1), (0x24, 4)]
  | 0x07 => some [(8, 0x19)]
  | 0x08 | 0x09 | 0x0B => some []
  | 0x0A => some [(8, 8)]
  | 0x20 => some [(8, 3), (0x0C, 0x1C)]
  | 0x21 => some [(8, 3), (0x10, 8)]
  | 0x22 => some [(8, 1), (0x0A, 2), (0x10, 0x28)]
  | 0x23 => some [(8, 2), (0x10, 0x10)]
  | _ => none

/-- A byte of the packet that no layout names is not zero (R348). -/
def pktReserved (b : BitVec 512) (l : List (Nat × Nat)) : Bool :=
  (List.range 56).any (fun i => !l.any (fun (o, n) => decide (o ≤ i + 8 ∧ i + 8 < o + n)) && pktField b (i + 8) 1 != 0) ||
  4 ≤ pktField b 1 1

/-- A LAUNCH field out of range (R351); `nibs` counts the nibs of the partition. -/
def launchBad (b : BitVec 512) (nibs : Nat) : Bool :=
  let f := pktField b
  let pc := f 8 8
  let xob := f 0x10 4
  let quota := f 0x14 1
  let flags := f 0x15 1
  pc % 32 ≠ 0 || windowEnd ≤ pc || xob ≤ pc || xob % 32 ≠ 0 || xob = 0 || windowEnd < xob || quota = 0 || 8 < quota ||
    3 < f 0x16 1 || f 0x18 8 = 0 || 2 ^ 40 < f 0x18 8 || 16 ≤ flags || 16 ≤ f 0x17 1 ||
    (flags.testBit 0 && nibs ≠ 0 && quota * nibs < f 0x18 8)

/-- A field outside its stated range (R351, R356, R358). -/
def pktRange (b : BitVec 512) (nibs : Nat) : Bool :=
  let f := pktField b
  match f 0 1 with
  | 0x01 => launchBad b nibs
  | 0x02 => f 0x18 8 = 0 || 2 ^ 40 < f 0x18 8 || 4 ≤ f 0x20 8
  | 0x03 => f 8 8 % 8 ≠ 0 || 4 ≤ f 0x20 1
  | 0x04 => f 8 8 % 8 ≠ 0 || 2 ≤ f 0x18 1
  | 0x05 => 4 ≤ f 0x20 1 || f 0x22 2 = 0
  | 0x06 => 4 ≤ f 0x20 1 || f 0x22 1 = 0
  | 0x07 => 4 < f 0x20 1
  | 0x20 => f 0x0A 1 = 0 || 16 < f 0x0A 1 || 128 < f 0x0C 4
  | 0x21 => 16 ≤ f 8 1 || 16 < f 9 1 || 16 < f 0x0A 1
  | 0x22 => f 8 1 = 0 || 16 < f 8 1
  | 0x23 => f 8 1 = 0 || 16 < f 8 1 || 64 ≤ f 9 1
  | _ => false

/-- The CODE with which a packet halts its queue; none for a good one (R346, R348). -/
def pktBad (b : BitVec 512) (nibs : Nat) (privileged : Bool) : Option Nat :=
  let op := pktField b 0 1
  match pktNamed op with
  | none => some 1
  | some l =>
    if 0x20 ≤ op && !privileged then some 3
    else if pktReserved b l || pktRange b nibs then some 2
    else none

/-- The opcode implies a wait (R350). -/
def pktWaits (b : BitVec 512) : Bool :=
  let op := pktField b 0 1
  op ≠ 9 && ((pktField b 1 1).testBit 0 || [0x03, 0x04, 0x05, 0x06, 0x08, 0x0A].contains op)

/-- The event that runs a packet. -/
def pktEvent (b : BitVec 512) (id : Nat) : Instr :=
  match pktField b 0 1 with
  | 0x01 => .launch id
  | 0x02 => .copy id
  | 0x03 => .waitmem id
  | 0x04 => .signalmem id
  | 0x05 => .cond id
  | 0x06 => .loop id
  | 0x07 => .capstart id
  | 0x08 => .capstop id
  | 0x09 => .replayall id
  | 0x0A => .fence id
  | 0x20 => .partCreate id
  | 0x21 => .resize id
  | 0x22 => .ertWrite id
  | 0x23 => .snapshot id
  | _ => .nopPacket id

/-- Where a packet's DONE field lies (R351, R356, R358). -/
def pktDoneAt (b : BitVec 512) : Option Nat :=
  match pktField b 0 1 with
  | 0x01 | 0x22 => some 0x30
  | 0x02 | 0x04 => some 0x28
  | 0x0A => some 8
  | 0x20 => some 0x20
  | 0x21 => some 0x10
  | _ => none

namespace State

/-! ## Addresses of a queue (R346, R356) -/

/-- The partition whose host agent runs a queue's accesses: that of its virtual function, or for the physical function the
one that holds the table QROOT names. -/
def queuePart (s : State) (v : Fin 17) (root : Word) : Option (Fin 16) :=
  if v = 0 then (List.finRange 16).find? (fun p => s.rootIn p root) else s.partOfVf v

/-- A packet's read of `n` bytes at a device VA (R356). -/
def pktLoad (s : State) (v : Fin 17) (q : Fin 64) (va : Word) (n : Nat) : Option (Nat × State) :=
  let root := (s.queue v q).root
  (s.queuePart v root).bind (fun p => s.hostLoad p root va n)

/-- A packet's write of `n` bytes at a device VA. -/
def pktStore (s : State) (v : Fin 17) (q : Fin 64) (va : Word) (n x : Nat) : Option State :=
  let root := (s.queue v q).root
  (s.queuePart v root).bind (fun p => s.hostStore p root va n x)

/-- A packet's indivisible add to the 8-byte word at a device VA (R356). -/
def pktAdd (s : State) (v : Fin 17) (q : Fin 64) (va : Word) (x : Nat) : Option State :=
  let root := (s.queue v q).root
  (s.queuePart v root).bind (fun p => s.hostAdd p root va x)

/-- The clock of a queue's host agent, and the agent waiting for a clock (R349). -/
def agentClk (s : State) (v : Fin 17) (q : Fin 64) : Clk :=
  match s.queuePart v (s.queue v q).root with
  | some p => s.parts[p].hostLc
  | none => 0

/-- The clock of a queue's completions; the host agent's, where there has been none (R349). -/
def queueClk (s : State) (v : Fin 17) (q : Fin 64) : Clk := (s.queue v q).clk.getD (s.agentClk v q)

def agentWait (s : State) (v : Fin 17) (q : Fin 64) (t : Clk) : State :=
  match s.queuePart v (s.queue v q).root with
  | some p => s.modPart p (fun y => { y with hostLc := Clk.max y.hostLc t })
  | none => s

/-! ## Capture (R343, R357) -/

def capWrite (s : State) (va : Word) (n x : Nat) : State := { s with hostMem := Memory.write s.hostMem va.toNat n x }

/-- Appends an item to the open capture of a queue: its header and its data (R357). -/
def capItem (s : State) (v : Fin 17) (q : Fin 64) (kind len : Nat) (va : Word) (crcs data : Nat) : State :=
  match (s.queue v q).capture with
  | none => s
  | some c =>
    let size := 64 + (len + 63) / 64 * 64
    if c.size.toNat < c.used + size then
      s.capWrite c.area 8 (Memory.read s.hostMem c.area.toNat 8 ||| 2)
    else
      let a := c.area + BitVec.ofNat 64 c.used
      let s := s.capWrite a 64 (kind + len * 2 ^ 64 + va.toNat * 2 ^ 128 + crcs * 2 ^ 256)
      let s := s.capWrite (a + 64) (size - 64) data
      s.modQueue v q (fun y => { y with capture := some { c with used := c.used + size } })

/-- One bit of CRC-64, reflected. -/
def crcBit (x : Nat) : Nat := if x % 2 = 1 then (x / 2) ^^^ 0xC96C5795D7870F42 else x / 2

/-- One byte of CRC-64. -/
def crcByte (c b : Nat) : Nat := (List.range 8).foldl (fun c _ => crcBit c) (c ^^^ b)

/-- CRC-64 over `n` bytes of a number (R343). -/
def crc64 (x n : Nat) : Nat :=
  ((List.range n).foldl (fun (acc : Nat × Nat) _ => (crcByte acc.1 (acc.2 % 256), acc.2 / 256)) (2 ^ 64 - 1, x)).1 ^^^ (2 ^ 64 - 1)

/-- The CRCs of the regions of a capture, in increasing address order (R343); an unreadable region reads as no bytes. -/
def capCrcs (s : State) (v : Fin 17) (q : Fin 64) (regions : List (Word × Word)) : Nat × State :=
  let l := sortBy (fun (a b : Word × Word) => decide (a.1.toNat < b.1.toNat)) regions
  (l.zipIdx).foldl (fun (acc : Nat × State) x =>
    let n := x.1.2.toNat
    match acc.2.pktLoad v q x.1.1 n with
    | some (d, s) => (acc.1 + crc64 d n * 2 ^ (64 * x.2), s)
    | none => (acc.1 + crc64 0 0 * 2 ^ (64 * x.2), acc.2)) (0, s)

/-! ## The front end (R347 to R350) -/

/-- The queue halts at slot `slot` (R348). -/
def haltAt (s : State) (v : Fin 17) (q : Fin 64) (slot code : Nat) : State :=
  (s.modQueue v q (fun y =>
    { y with err := true, code := BitVec.ofNat 8 code, head := BitVec.ofNat 16 slot, pos := slot, loop := none })).raiseMsix v 2

/-- The queue halts with CODE 5, at the slot it would accept next (R356). -/
def haltFault (s : State) (v : Fin 17) (q : Fin 64) : State := s.haltAt v q (s.queue v q).pos 5

/-- Slots of a ring. -/
def slots (y : Queue) : Nat := 2 ^ y.log2.toNat

/-- The packet at a slot: the one offered inline, or the 64 bytes of the ring (R347). -/
def slotPacket (s : State) (y : Queue) (slot : Nat) : BitVec 512 × Bool :=
  match y.inlined.lookup slot with
  | some b => (b, true)
  | none => (BitVec.ofNat 512 (Memory.read s.hostMem (y.base.toNat + 64 * slot) 64), false)

/-- The body of a LOOP at `slot` holds a LOOP or the slot of an inline packet (R356). -/
def loopBad (s : State) (y : Queue) (slot body : Nat) : Bool :=
  let n := slots y
  n ≤ body || (List.range body).any (fun i =>
    let k := (slot + n - 1 - i) % n
    y.inlineSlots.contains k ||
      Memory.read s.hostMem (y.base.toNat + 64 * k) 1 = 6)

/-- The queue goes on to the slot after `slot` (R346). HEAD stays behind while a LOOP repeats. -/
def passSlot (y : Queue) (slot : Nat) : Queue :=
  let next := (slot + 1) % slots y
  { y with pos := next, head := if y.loop.isSome then y.head else BitVec.ofNat 16 next }

/-- A partition that is being destroyed or gives up a folio starts no packet of its virtual function (R359). -/
def vfHeld (s : State) (v : Fin 17) : Bool := ((s.partOfVf v).map (fun p => s.parts[p].held != 0)).getD false

/-- A slot is accepted or skipped: a LOOP that came inline stays at its slot until it exits (R346, R356). -/
def takeSlot (y : Queue) (slot : Nat) (inline keep : Bool) : Queue :=
  { passSlot y slot with
    inlined := if keep then y.inlined else y.inlined.filter (fun x => x.1 != slot)
    inlineSlots := if inline then slot :: y.inlineSlots.filter (· != slot) else y.inlineSlots.filter (· != slot) }

/-- Accepts and starts the next packet when it may start (R347 to R349), a LAUNCH within the time of its wake (R20); packets that
COND skips are passed over. -/
def pump (s : State) (v : Fin 17) (q : Fin 64) : Nat → State
  | 0 => s
  | fuel + 1 =>
    let y := s.queue v q
    let slot := y.pos
    if !y.en || y.err || s.vfHeld v || s.vfs[v].replay.isSome || slot = y.tail.toNat % slots y || y.pkts.any (!·.started) then s
    else
      let (b, inline) := s.slotPacket y slot
      if y.skip ≠ 0 then ((s.modQueue v q (fun y => takeSlot y slot inline false)).modQueue v q (fun y => { y with skip := y.skip - 1 })).pump v q fuel
      else
        let nibs := ((s.partOfVf v).map s.nibCount).getD 0
        let drop := fun (s : State) => s.modQueue v q (fun y => { y with inlined := y.inlined.filter (fun x => x.1 != slot) })
        match pktBad b nibs (v == 0) with
        | some c => (drop s).haltAt v q slot c
        | none =>
          if pktField b 0 1 = 6 && s.loopBad y slot (pktField b 0x22 1) then (drop s).haltAt v q slot 4
          else if (pktWaits b && y.pkts.any (!·.done)) ||
              y.pkts.any (fun p => !p.done && [0x05, 0x06].contains (pktField p.bits 0 1)) then s
          else
            let (id, s) := s.newId
            let s := s.modQueue v q (fun y => takeSlot y slot inline (pktField b 0 1 == 6))
            let clk := if pktWaits b then s.queueClk v q else s.agentClk v q
            let p : Packet := ⟨id, slot, b, inline, false, false, clk, s.cycle, 0, false⟩
            let s := s.modQueue v q (fun y => { y with pkts := y.pkts ++ [p] })
            let s := s.capItem v q 1 64 0 0 b.toNat
            let (c, s) := s.freeCycle s.cycle (if pktField b 0 1 = 1 then some (s.cycle + 1023) else none)
            s.schedule c (pktEvent b id)

/-- How far one call of `pump` may pass over skipped slots. -/
def pumpFuel : Nat := 65536

/-- The queue that holds packet `id`, and the packet. -/
def findPacket (s : State) (id : Nat) : Option (Fin 17 × Fin 64 × Packet) :=
  (List.finRange 17).findSome? (fun v => s.vfs[v].queues.findSome? (fun x =>
    (x.2.pkts.find? (·.id == id)).map (fun p => (v, x.1, p))))

def modPacket (s : State) (v : Fin 17) (q : Fin 64) (id : Nat) (f : Packet → Packet) : State :=
  s.modQueue v q (fun y => { y with pkts := y.pkts.map (fun p => if p.id = id then f p else p) })

/-- The packet starts: its accesses come after the completions it waited for (R349). -/
def startPacket (s : State) (v : Fin 17) (q : Fin 64) (p : Packet) : State :=
  (s.agentWait v q p.clk).modPacket v q p.id (fun p => { p with started := true })

/-! ## Replay (R344) -/

/-- Packet `id` is one that a replay re-issues (R344). -/
def replaying (s : State) (v : Fin 17) (id : Nat) : Bool := (s.vfs[v].replay.bind (·.waitFor)) == some id

/-- The offset in a capture area, from `pos` on, of its check record number i (R343, R357). -/
def checkRecord (s : State) (area used pos i : Nat) : Nat → Option Nat
  | 0 => none
  | fuel + 1 =>
    if used < pos + 64 then none
    else
      let len := Memory.read s.hostMem (area + pos + 8) 8
      let next := pos + 64 + (len + 63) / 64 * 64
      if Memory.read s.hostMem (area + pos) 1 ≠ 3 then s.checkRecord area used next i fuel
      else if i = 0 then some pos
      else s.checkRecord area used next (i - 1) fuel

/-- A replayed LAUNCH of v has completed: the CRCs are compared with its check record. On a mismatch the replay stops, and the
launch's index and the region are recorded (R344). -/
def replayCheck (s : State) (v : Fin 17) : State :=
  match s.vfs[v].replay with
  | none => s
  | some r =>
    let area := r.area.toNat
    let put := fun (s : State) (r : Option Replay) => ({ s with vfs := s.vfs.set v { s.vfs[v] with replay := r } } : State)
    match s.checkRecord area (Memory.read s.hostMem (area + 8) 8) 64 r.index 65536 with
    | none => put s (some { r with index := r.index + 1 })
    | some pos =>
      let want := Memory.read s.hostMem (area + pos + 0x20) 32
      let (got, s) := s.capCrcs v 0 r.regions
      match [0, 1, 2, 3].find? (fun i => i < r.regions.length && got / 2 ^ (64 * i) % 2 ^ 64 != want / 2 ^ (64 * i) % 2 ^ 64) with
      | some i =>
        let s := s.capWrite r.area 8 (Memory.read s.hostMem area 8 % 4 / 2 * 2 + 1 + i * 4 + r.index % 2 ^ 32 * 2 ^ 16)
        (put s none).raiseMsix v 2
      | none => put s (some { r with index := r.index + 1 })

/-- The next item of a replay on queue 0 of v: a packet is re-issued, or a snapshot restored; a check record is passed over,
since its launch has been compared (R344). A captured COND or LOOP reads its word again and changes no order: what it skipped or
repeated was captured so (DESIGN CHOICE, assumption 36). -/
def replayStep (s : State) (v : Fin 17) : Nat → State
  | 0 => s
  | fuel + 1 =>
    match s.vfs[v].replay with
    | none => s
    | some r =>
      let area := r.area.toNat
      let used := Memory.read s.hostMem (area + 8) 8
      let put := fun (s : State) (r : Option Replay) => ({ s with vfs := s.vfs.set v { s.vfs[v] with replay := r } } : State)
      if used < r.pos + 64 then (put s none).pump v 0 pumpFuel
      else
        let a := area + r.pos
        let len := Memory.read s.hostMem (a + 8) 8
        let r' := { r with pos := r.pos + 64 + (len + 63) / 64 * 64 }
        match Memory.read s.hostMem a 1 with
        | 1 =>
          let b : BitVec 512 := BitVec.ofNat 512 (Memory.read s.hostMem (a + 64) 64)
          let (id, s) := s.newId
          let s := put s (some { r' with waitFor := some id })
          let s := s.modQueue v 0 (fun y => { y with pkts := y.pkts ++ [⟨id, 0, b, false, false, false, s.queueClk v 0, s.cycle, 0, false⟩] })
          let (c, s) := s.freeCycle s.cycle none
          s.schedule c (pktEvent b id)
        | 2 =>
          let va := BitVec.ofNat 64 (Memory.read s.hostMem (a + 16) 8)
          ((put s (some r')).pktStore v 0 va len (Memory.read s.hostMem (a + 64) len)).getD (put s (some r')) |>.replayStep v fuel
        | 3 => (put s (some r')).replayStep v fuel
        | _ => (put s none).pump v 0 pumpFuel

/-! ## Completion (R349, R356) -/

/-- A packet completes with a STATUS and a clock: its DONE word is written, its interrupt raised, and the packets that wait
on it may start (R349, R356, R360). -/
def finishPacket (s : State) (v : Fin 17) (q : Fin 64) (p : Packet) (status : Nat) (clk : Clk) : State :=
  let s := s.agentWait v q clk
  let done := BitVec.ofNat 64 (((pktDoneAt p.bits).map (fun o => pktField p.bits o 8)).getD 0)
  let s := if done = 0 then s
    else (s.pktStore v q done 8 (pktField p.bits 4 4 + status * 2 ^ 32)).getD (s.haltFault v q)
  let s := if (pktField p.bits 1 1).testBit 1 then s.raiseMsix v 0 else s
  let t := Clk.max clk (s.agentClk v q)
  let s := s.modQueue v q (fun y => { y with pkts := y.pkts.filter (fun x => x.id != p.id), clk := some ((y.clk.map (Clk.max · t)).getD t) })
  match s.vfs[v].replay with
  | some r =>
    if r.waitFor = some p.id then
      let s : State := { s with vfs := s.vfs.set v { s.vfs[v] with replay := some { r with waitFor := none } } }
      let s := if pktField p.bits 0 1 = 1 ∧ status ≠ 2 then s.replayCheck v else s
      (if s.vfs[v].replay.isSome then s.replayStep v 65536 else s.pump v q pumpFuel)
    else s
  | none => s.pump v q pumpFuel

/-- A packet's own access has met an address fault (R356). -/
def faultPacket (s : State) (v : Fin 17) (q : Fin 64) (p : Packet) : State :=
  (s.haltFault v q).finishPacket v q p 1 (s.agentClk v q)

/-- The accesses that took state s to t carry their bytes across the partitions' borders (R360): the bytes are paid for; where
tokens are short, none of the accesses is made, and the packet's event comes again when the rest has been paid. -/
def settlePacket (s : State) (v : Fin 17) (q : Fin 64) (p : Packet) (t : State) : State :=
  if p.paid then t.noTolls.modPacket v q p.id (fun p => { p with paid := false })
  else
    let due := (List.finRange 16).filter (fun i => !t.parts[i].toll.isEmpty)
    let want := fun (s : State) (i : Fin 16) => s.parts[i].take ⟨2, t.parts[i].toll, [(s.cycle, pktEvent p.bits p.id)], false⟩
    match due.find? (fun i => !(want s i).2) with
    | some i => (s.modPart i (fun _ => (want s i).1)).modPacket v q p.id (fun p => { p with paid := true })
    | none => (due.foldl (fun t i => t.modPart i (fun _ => (want t i).1)) t).noTolls

/-- Runs a packet's event on the packet; one that has not started waits while its virtual function is held (R359). -/
def onPacket (s : State) (id : Nat) (f : State → Fin 17 → Fin 64 → Packet → State) : Res :=
  match s.findPacket id with
  | some (v, q, p) =>
    if !p.started && s.vfHeld v then .next (s.schedule (s.cycle + 1) (pktEvent p.bits id))
    else .next (s.settlePacket v q p (f (s.startPacket v q p).noTolls v q p))
  | none => .next s

end State

/-! ## Queue registers and offers (R346, R347) -/

/-- QCTL: EN is written; writing 1 clears QSTAT and the front end starts again at HEAD. A queue of a virtual function that
holds no partition stays off (R347, R348). -/
def execQctl (v : Fin 17) (q : Fin 64) (x : BitVec 64) (s : State) : Res :=
  if x.getLsbD 0 then
    if (v ≠ 0 ∧ (s.partOfVf v).isNone) ∨ (v = 0 ∧ q ≠ 0) then .next s
    else
      let s := s.modQueue v q (fun y =>
        { y with en := true, err := false, dropw := false, code := 0
                 inlined := if y.err then y.inlined.filter (fun z => z.1 != y.pos) else y.inlined })
      .next (s.pump v q State.pumpFuel)
  else .next (s.modQueue v q (fun y => { y with en := false }))

/-- QTAIL: packets have been offered in the ring (R346, R347). -/
def execQtail (v : Fin 17) (q : Fin 64) (x : BitVec 64) (s : State) : Res :=
  .next ((s.modQueue v q (fun y => { y with tail := x.setWidth 16 })).pump v q State.pumpFuel)

/-- LAUNCH_REGISTER: a whole 64-byte store offers a packet inline, with the MORE slots that follow it (R347). -/
def execLaunchRegister (v : Fin 17) (q : Fin 64) (pkt : BitVec 512) (s : State) : Res :=
  let y := s.queue v q
  if !y.en then .next (s.setQueue v q { y with dropw := true })
  else
    let slot := y.tail.toNat % State.slots y
    let tail := (slot + 1 + pktField pkt 2 2) % State.slots y
    let s := s.setQueue v q
      { y with inlined := (slot, pkt) :: y.inlined.filter (fun z => z.1 != slot), tail := BitVec.ofNat 16 tail }
    .next (s.pump v q State.pumpFuel)

/-! ## LAUNCH (R20, R351 to R353) -/

namespace State

/-- Tasks of a launch that fall on lost folios (R386). -/
def tasksOn (l : Launch) (f : Fin 16) : Nat :=
  match l.foliosOf.findIdx? (· == f) with
  | some i => shareOf l.tasks l.quota l.nibs (4096 * i) 4096
  | none => 0

/-- The wake of a launch, whose packet was accepted in cycle `from_`, reaches the nibs of folio f: each accepts it within 1,024
cycles of that acceptance, or when the one packet that brings it has passed the partition's borders (R20, R360). -/
def floodFolio (s : State) (l : Launch) (from_ : Nat) (f : Fin 16) : State :=
  let hi := max (s.cycle + 1) (from_ + 1024)
  let evs := (List.range 4096).map (fun o =>
    ((({ s with fresh := s.fresh + o } : State).freeCycle (s.cycle + 1) (some hi)).1,
      Instr.wakeAccept (Fin.ofNat 65536 (f.val * 4096 + o)) l.id))
  ({ s with fresh := s.fresh + 4096 } : State).crossBorder l.part 1 (s.owing l.part f false 64) evs

/-- The wake flood (R20): every nib of the partition accepts it once, those of lost folios apart. -/
def floodWake (s : State) (l : Launch) (from_ : Nat) : State :=
  l.foliosOf.foldl (fun s f => if s.folios[f].lost then s else s.floodFolio l from_ f) s

/-- LAUNCH starts: the record is read and the wake is flooded. What stands in the launch record's bytes 0x5C to 0x7F changes
nothing (R352, DESIGN CHOICE, assumption 83). -/
def launch (s : State) (v : Fin 17) (q : Fin 64) (p : Packet) : State :=
  match s.partOfVf v with
  | none => s.finishPacket v q p 2 p.clk
  | some part =>
    let bad := fun (s : State) => (s.modQueue v q (fun y => { y with pkts := y.pkts.filter (fun x => x.id != p.id) })).haltAt v q p.slot 2
    match s.pktLoad v q (BitVec.ofNat 64 (pktField p.bits 0x20 8)) 128 with
    | none => bad s
    | some (rec_, s) =>
      if !levelsOk rec_ then bad s
      else
        let (id, s) := s.newId
        let clk := Clk.max p.clk (s.agentClk v q)
        let l : Launch :=
          { id := id, vf := v, queue := q, pkt := p.id, bits := p.bits, record := BitVec.ofNat 1024 rec_
            root := (s.queue v q).root, clk := clk, endClk := clk, left := pktField p.bits 0x18 8, lost := false, part := part
            folios := s.parts[part].folios }
        let gone := ((l.foliosOf.filter (fun f => s.folios[f].lost)).map (tasksOn l)).sum
        let l := { l with left := l.left - gone, lost := gone != 0 }
        let s : State := { s with launches := s.launches ++ [l] }
        let s := if l.left = 0 then s.schedule s.cycle (.launchComplete id) else s.floodWake l p.accepted
        s.pump v q pumpFuel

end State

def execLaunch (id : Nat) (s : State) : Res := s.onPacket id State.launch

/-- LAUNCH_COMPLETE: every task of launch `id` has ended: the check record is appended, and the packet completes, once the
traffic of that may cross the borders (R343, R350, R360, R386). A launch that a replay re-issued adds no record (R344). -/
def execLaunchComplete (id : Nat) (s0 : State) : Res :=
  let s := s0.noTolls
  match s.findLaunch id with
  | none => .next s0
  | some l =>
    if l.left ≠ 0 then .next s0
    else
      let s : State := { s with launches := s.launches.filter (·.id != id) }
      match s.findPacket l.pkt with
      | none => .next s
      | some (v, q, p) =>
        let s := s.agentWait v q l.endClk
        let s := match (s.queue v q).capture with
          | some c => if s.replaying v p.id then s else
            let (x, s) := s.capCrcs v q c.regions
            s.capItem v q 3 0 0 x 0
          | none => s
        .next (s0.settleEvent (.launchComplete id) (s.finishPacket v q p (if l.lost then 3 else 0) l.endClk))

/-! ## The other queue packets (R356) -/

namespace State

/-- One cell of a COPY: the side that is a host IOVA lies in host memory. -/
def copyPacket (s : State) (v : Fin 17) (q : Fin 64) (p : Packet) : State :=
  let f := pktField p.bits
  let len := f 0x18 8
  let i := p.iters
  let src := BitVec.ofNat 64 (f 8 8 + i)
  let dst := BitVec.ofNat 64 (f 0x10 8 + i)
  let n := min (len - i) (min (64 - src.toNat % 64) (64 - dst.toNat % 64))
  let rd := if (f 0x20 1).testBit 0 then some (Memory.read s.hostMem src.toNat n, s) else s.pktLoad v q src n
  match rd with
  | none => s.faultPacket v q p
  | some (x, s) =>
    let wr := if (f 0x20 1).testBit 1 then some (s.capWrite dst n x) else s.pktStore v q dst n x
    match wr with
    | none => s.faultPacket v q p
    | some s =>
      if len ≤ i + n then s.finishPacket v q p 0 (s.agentClk v q)
      else
        let s := s.modPacket v q p.id (fun p => { p with iters := i + n })
        let (c, s) := s.freeCycle s.cycle none
        (s.schedule c (.copy p.id)).pump v q pumpFuel

/-- The condition of WAITMEM, COND and LOOP: (word AND MASK) compared with VALUE (R356). -/
def condHolds (b : BitVec 512) (word : Nat) : Bool :=
  let x := word &&& pktField b 0x18 8
  let y := pktField b 0x10 8
  match pktField b 0x20 1 with
  | 0 => x = y
  | 1 => x ≠ y
  | 2 => y ≤ x
  | _ => x < y

/-- Reads the word of a WAITMEM, COND or LOOP. -/
def condWord (s : State) (v : Fin 17) (q : Fin 64) (p : Packet) : Option (Nat × State) :=
  s.pktLoad v q (BitVec.ofNat 64 (pktField p.bits 8 8)) 8

/-- A read of WAITMEM: it completes, or reads again 256 cycles later. -/
def waitPacket (s : State) (v : Fin 17) (q : Fin 64) (p : Packet) : State :=
  match s.condWord v q p with
  | none => s.faultPacket v q p
  | some (x, s) =>
    if condHolds p.bits x then s.finishPacket v q p 0 (s.agentClk v q)
    else (s.schedule (s.cycle + 256) (.waitmemPoll p.id)).pump v q pumpFuel

end State

def execCopy (id : Nat) (s : State) : Res := s.onPacket id State.copyPacket

def execWaitmem (id : Nat) (s : State) : Res := s.onPacket id State.waitPacket

def execWaitmemPoll (id : Nat) (s : State) : Res := s.onPacket id State.waitPacket

/-- SIGNALMEM: one indivisible write or add of VALUE (R356). -/
def execSignalmem (id : Nat) (s : State) : Res := s.onPacket id (fun s v q p =>
  let a := BitVec.ofNat 64 (pktField p.bits 8 8)
  let x := pktField p.bits 0x10 8
  let r := if pktField p.bits 0x18 1 = 0 then s.pktStore v q a 8 x
    else s.pktAdd v q a x
  match r with
  | none => s.faultPacket v q p
  | some s => s.finishPacket v q p 0 (s.agentClk v q))

/-- COND: when false, the next SKIP packets are not started. -/
def execCond (id : Nat) (s : State) : Res := s.onPacket id (fun s v q p =>
  match s.condWord v q p with
  | none => s.faultPacket v q p
  | some (x, s) =>
    let s := if State.condHolds p.bits x || s.replaying v p.id then s
      else s.modQueue v q (fun y => { y with skip := pktField p.bits 0x22 2 })
    s.finishPacket v q p 0 (s.agentClk v q))

/-- LOOP: while its condition holds and repetitions are left, the BODY slots before it start again. One that came inline leaves its
slot when it exits or faults (R346, R356). -/
def execLoop (id : Nat) (s : State) : Res := s.onPacket id (fun s v q p =>
  match s.condWord v q p with
  | none => (s.modQueue v q (fun y => { y with inlined := y.inlined.filter (fun x => x.1 != p.slot) })).faultPacket v q p
  | some (x, s) =>
    let y := s.queue v q
    let n := match y.loop with
      | some (slot, n) => if slot = p.slot then n else 0
      | none => 0
    let max_ := pktField p.bits 0x24 4
    if s.replaying v p.id then s.finishPacket v q p 0 (s.agentClk v q)
    else if State.condHolds p.bits x && (max_ = 0 || n < max_) then
      let first := (p.slot + State.slots y - pktField p.bits 0x22 1) % State.slots y
      let s := s.modQueue v q (fun y =>
        { y with
          loop := some (p.slot, n + 1), pos := first, head := BitVec.ofNat 16 first
          pkts := y.pkts.filter (fun x => x.id != p.id), clk := some ((y.clk.map (Clk.max · (s.agentClk v q))).getD (s.agentClk v q)) })
      s.pump v q State.pumpFuel
    else
      let s := s.modQueue v q (fun y => { y with
        loop := none, head := BitVec.ofNat 16 y.pos, inlined := y.inlined.filter (fun x => x.1 != p.slot) })
      s.finishPacket v q p 0 (s.agentClk v q))

namespace State

/-- The gates of the strokes whose launch came through a queue open or close at the end of the cycle (R338). The sets held
beside cache entries do not change (R340). -/
def gateQueue (s : State) (v : Fin 17) (q : Fin 64) (on : Bool) : State :=
  { s with nibs := s.nibs.map (fun x => (x.1, { x.2 with
      strokes := x.2.strokes.map (fun y =>
        if y.ctx.owner = some (v, q) then (if on then { y with gateOn := true } else { y with gateOff := true }) else y) })) }

end State

/-- CAPSTART: the capture of the queue opens with this packet: its status block is cleared, its regions are read, and the
gates of its launches open (R338, R343, R357). One that a replay re-issues declares the regions to compare (R344, DESIGN
CHOICE, assumption 36). -/
def execCapstart (id : Nat) (s : State) : Res := s.onPacket id (fun s v q p =>
  let f := pktField p.bits
  let area := BitVec.ofNat 64 (f 8 8)
  let n := f 0x20 1
  let rd := if n = 0 then some (0, s) else s.pktLoad v q (BitVec.ofNat 64 (f 0x18 8)) (16 * n)
  match rd with
  | none => s.faultPacket v q p
  | some (x, s) =>
    let w := fun (i : Nat) => BitVec.ofNat 64 (x / 2 ^ (64 * i))
    let regions := (List.range n).map (fun i => (w (2 * i), w (2 * i + 1)))
    let s := if s.replaying v p.id then
        { s with vfs := s.vfs.set v { s.vfs[v] with replay := s.vfs[v].replay.map (fun r => { r with regions := regions }) } }
      else ((s.capWrite area 64 0).modQueue v q (fun y =>
        { y with capture := some ⟨area, BitVec.ofNat 64 (f 0x10 8), 64, regions⟩ })).capItem v q 1 64 0 0 p.bits.toNat
    (s.gateQueue v q true).finishPacket v q p 0 (s.agentClk v q))

/-- CAPSTOP: the size is written and the capture closes, with the gates (R338, R350). -/
def execCapstop (id : Nat) (s : State) : Res := s.onPacket id (fun s v q p =>
  let s := match if s.replaying v p.id then none else (s.queue v q).capture with
    | some c => (s.capWrite (c.area + 8) 8 c.used).modQueue v q (fun y => { y with capture := none })
    | none => s
  (s.gateQueue v q false).finishPacket v q p 0 p.clk)

namespace State

/-- REPLAYALL on one partition (R174): the fault buffer and the coalescing tables are emptied, and every parked access
translates again; the guest is sent REPLAY. -/
def replayPart (s : State) (p : Fin 16) : State :=
  let s := s.modPart p (fun y => { y with faults := [], drop := false })
  let s : State := { s with folios := Vector.ofFn (fun (f : Fin 16) =>
    if s.partHas p f then { s.folios[f] with coal := [] } else s.folios[f]) }
  let mine := s.ops.filter (fun o => o.parked && s.partOf o.nib == p)
  let s := mine.foldl (fun s o =>
    let s := s.modOp o.id (fun o => { o with parked := false })
    let (c, s) := s.freeCycle (s.cycle + 1) none
    match o.kind with
    | .tlbFill .. => s.schedule c (.tlbFill o.nib o.id)
    | .copy .. => s.quillGo o.nib
    | .send .. => s.schedule c (.homeWrite o.id)
    | .matrix cmd =>
      ((((s.dropOp o.id).schedule c (.slabEnd o.nib)).schedule c (.matrixRowWrite cmd)).schedule c (.weightLoadComplete o.nib)).schedule c
        (.matrixDispatch o.nib)
    | _ => s) s
  { s with bonnet := { s.bonnet with
    told := if s.bonnet.up then Clk.max s.bonnet.told s.parts[p].hostLc else s.bonnet.told
    parked := s.bonnet.parked.filter (fun x => ((s.findOp x.2).map (fun o => s.partOf o.nib)) != some p) } }

end State

/-- REPLAYALL: on the partition of the queue, or on every one from the physical function (R174). -/
def execReplayall (id : Nat) (s : State) : Res := s.onPacket id (fun s v q p =>
  let ps := if v = 0 then List.finRange 16 else (s.partOfVf v).toList
  (ps.foldl State.replayPart s).finishPacket v q p 0 p.clk)

/-- FENCE completes at once, after everything before it (R350). -/
def execFence (id : Nat) (s : State) : Res := s.onPacket id (fun s v q p => s.finishPacket v q p 0 p.clk)

def execNopPacket (id : Nat) (s : State) : Res := s.onPacket id (fun s v q p => s.finishPacket v q p 0 p.clk)

/-! ## Registers of the virtual function (R344, R345) -/

/-- RPLCTL: a write with bit 0 set starts a replay of the capture area on queue 0 (R344), once the traffic of its first items may
cross the borders (R360). -/
def execRplctl (v : Fin 17) (x : BitVec 64) (s0 : State) : Res :=
  let s := s0.noTolls
  if x.getLsbD 0 ∧ (v = 0 ∨ (s.partOfVf v).isSome) then
    let s : State := { s with vfs := s.vfs.set v { s.vfs[v] with replay := some ⟨x &&& ~~~ 1, 64, 0, none, []⟩ } }
    .next (s0.settleEvent (.rplctl v x) (s.replayStep v 65536))
  else .next s0

/-- HOSTSIG: `tip` code 11 of stroke 7 of one nib of the partition, or of every one (R312, R345), once the signal has crossed the
borders on its way (R360). -/
def execHostsig (v : Fin 17) (x : BitVec 64) (s : State) : Res :=
  match s.partOfVf v with
  | none => .next s
  | some p =>
    let every := (s.foliosOf p).flatMap (fun f => (List.range 4096).map (fun o => (Fin.ofNat 65536 (f.val * 4096 + o) : NibId)))
    let one : NibId := Fin.ofNat 65536 (x.setWidth 16).toNat
    let mine := if x.getLsbD 63 then every
      else if s.partHas p (State.folioOf one) && s.nibNumber one == x.setWidth 32 then [one] else []
    let owes := (s.foliosOf p).flatMap (fun f => if mine.any (fun n => State.folioOf n == f) then s.owing p f false 64 else [])
    .next (s.atBorder p 1 owes (.hostsig v x) (fun s => mine.foldl (fun s n => s.setTip n 11) s))

/-! ## The privileged queue (R26, R358, R359) -/

/-- Neighbours on the grid of folios (R9, R26). -/
def folioNext (f g : Nat) : Bool :=
  (f / 4 = g / 4 && (f + 1 = g || g + 1 = f)) || (f % 4 = g % 4 && (f + 4 = g || g + 4 = f))

/-- A set of folios is connected (R26); an empty one is not. -/
def connected (x : BitVec 16) : Bool :=
  let all := (List.range 16).filter x.getLsbD
  let grow := fun (l : List Nat) => all.filter (fun g => l.contains g || l.any (fun f => folioNext f g))
  match all with
  | [] => false
  | f :: _ => ((List.range 16).foldl (fun l _ => grow l) [f]).length == all.length

namespace State

/-- A launch of the partition is running. -/
def partBusy (s : State) (p : Fin 16) : Bool := s.launches.any (·.part == p)

/-- A pre-emption of the guest for a virtual function is waiting (R367). -/
def preemptWaits (s : State) (v : Nat) : Bool := s.bonnet.deadlines.any (fun d => d.cause == 2 && d.what == v)

/-- The guest is told to give up a virtual function, at the first step of a RESIZE or a destruction (R367). -/
def preemptGuest (s : State) (v : Nat) : State :=
  if s.bonnet.up && s.bonnet.vfMask.getLsbD (v - 1) && v ≠ 0 then
    let hi := s.cycle + 165000
    let told := ((s.partOfVf (Fin.ofNat 17 v)).map (fun p => s.parts[p].hostLc)).getD 0
    ({ s with bonnet := { s.bonnet with
        told := Clk.max s.bonnet.told told, deadlines := s.bonnet.deadlines ++ [⟨2, v, 0, hi⟩] } } : State).schedule hi (.guestDeadline 2)
  else s

/-- Steps 2 to 4 of R359 on a folio: TLBs, coalescing table, wells, accumulators, banks and HBM are cleared, and the wells'
stamps are set to the floor F. -/
def scrubFolio (s : State) (f : Fin 16) (floor : Clk) : State :=
  let w := 0xC000000000 + f.val * 0x80000000
  let h := f.val * 0xC00000000
  let inWells := fun (a : Nat) => w ≤ a && a < w + 0x80000000
  let inHbm := fun (a : Nat) => h ≤ a && a < h + 0xC00000000
  { s with
    nibs := s.nibs.filter (fun x => folioOf x.1 != f)
    folios := s.folios.set f { s.folios[f] with tlb := [], coal := [] }
    mem := s.mem.filter (fun c => !inWells c.1 && !inHbm c.1)
    full := s.full.filter (fun a => !inWells a)
    stamps := ⟨w, w + 0x80000000, floor, floor⟩ :: s.stamps.filter (fun y => !inWells y.lo)
    ops := s.ops.filter (fun o => folioOf o.nib != f) }

/-- The queues of a partition go on (R359). -/
def resumeQueues (s : State) (v : Fin 17) : State :=
  s.vfs[v].queues.foldl (fun s x => s.pump v x.1 pumpFuel) s

/-- The largest stamp that a set of folios carries. -/
def newestStamp (s : State) (folios : BitVec 16) : Clk :=
  let inside := fun (a : Nat) => match (unitOf a).folio with
    | some f => folios.getLsbD f.val
    | none => false
  maxClk (((List.finRange 16).filter (fun f => folios.getLsbD f.val)).map (fun f => s.folios[f].base) ++
    (s.stamps.filter (fun y => inside y.lo)).map (fun y => Clk.max y.wts y.rts))

/-- A new partition for a virtual function v (R358, R360): the spec gives it no number of its own, and here it is partition
v - 1 of R140 (DESIGN CHOICE, assumption 5). Its token buckets start full (DESIGN CHOICE, assumption 37), and its host agent at
the newest stamp of its folios (DESIGN CHOICE, assumption 82). -/
def makePart (s : State) (b : BitVec 512) : State :=
  let v := pktField b 0x0A 1
  let p : Fin 16 := Fin.ofNat 16 (v - 1)
  let burst := BitVec.ofNat 64 (pktField b 0x18 8)
  let folios := BitVec.ofNat 16 (pktField b 8 2)
  let x : Part := { Part.reset with
    vf := v, folios := folios, pinlim := pktField b 0x0C 4, rate := BitVec.ofNat 64 (pktField b 0x10 8), burst := burst
    tokens := .replicate 16 burst.toNat, hostLc := s.newestStamp folios }
  let s : State := { s with parts := s.parts.set p x }
  (s.schedule (s.cycle + 1024) (.tokenBucketRefill p)).schedule (s.cycle + 4096) (.clockFloor p)

/-- The steps of a destruction (R347, R358, R359): its queues hold, its launches end, its folios are scrubbed. -/
def destroyPart (s : State) (v : Fin 17) (q : Fin 64) (p : Packet) (part : Fin 16) : State :=
  let vf := s.parts[part].vf
  let again := fun (s : State) (k : Nat) => (s.modPacket v q p.id (fun p => { p with iters := k })).schedule (s.cycle + 8) (.partCreate p.id)
  if p.iters = 0 then again ((s.modPart part (fun y => { y with held := y.held + 1 })).preemptGuest vf) 1
  else if p.iters = 1 then
    if s.partBusy part || s.preemptWaits vf then again s 1
    else
      let (c, s) := s.freeCycle s.cycle (some (s.cycle + 67108864))
      (s.modPacket v q p.id (fun p => { p with iters := 2 })).schedule c (.partCreate p.id)
  else
    let floor := s.floorOf part
    let s := (s.foliosOf part).foldl (fun s f => (s.scrubFolio f floor).startKernels f) s
    let w : Fin 17 := Fin.ofNat 17 vf
    let s := s.parts[part].border.foldl (fun s x => s.goOn part x) s
    let s : State := { s with
      agenda := s.agenda.filter (fun e => e.2 != .tokenBucketRefill part && e.2 != .clockFloor part)
      parts := s.parts.set part Part.reset
      vfs := s.vfs.set w { s.vfs[w] with queues := s.vfs[w].queues.map (fun x => (x.1, { x.2 with en := false, inlined := [], clk := none })) } }
    s.finishPacket v q p 0 p.clk

end State

/-- PART-CREATE: makes a partition, destroys one, or is refused (R358). -/
def execPartCreate (id : Nat) (s : State) : Res := s.onPacket id (fun s v q p =>
  let folios := BitVec.ofNat 16 (pktField p.bits 8 2)
  let vf : Fin 17 := Fin.ofNat 17 (pktField p.bits 0x0A 1)
  if folios = 0 then
    match s.partOfVf vf with
    | none => s.finishPacket v q p 0 p.clk
    | some part => (s.destroyPart v q p part).pump v q State.pumpFuel
  else
    let taken := (List.finRange 16).any (fun f => folios.getLsbD f.val && ((s.partOfFolio f).isSome || s.folios[f].unavailable))
    if taken || !connected folios || (s.partOfVf vf).isSome then s.finishPacket v q p 2 p.clk
    else (s.makePart p.bits).finishPacket v q p 0 p.clk)

namespace State

/-- A RESIZE is refused (R359): it names a folio that FROM does not hold, or would leave a partition empty or
unconnected. -/
def resizeRefused (s : State) (f : Fin 16) (src dst : Nat) : Bool :=
  let a := s.partOfVf (Fin.ofNat 17 src)
  let b := s.partOfVf (Fin.ofNat 17 dst)
  let bit := BitVec.twoPow 16 f.val
  s.folios[f].unavailable ||
  (match a with
  | some p => !s.partHas p f || !connected (s.parts[p].folios &&& ~~~ bit)
  | none => src ≠ 0 || (s.partOfFolio f).isSome) ||
  (match b with
  | some p => !connected (s.parts[p].folios ||| bit)
  | none => dst ≠ 0)

/-- The steps of a RESIZE (R359). What refuses it is asked again when the folio is to move: another RESIZE or PART-CREATE may have
come first. The well scrub stamps the wells with the floor of TO, where TO is a partition, and else of FROM (R177, DESIGN CHOICE,
assumption 82). -/
def resizeStep (s : State) (v : Fin 17) (q : Fin 64) (p : Packet) : State :=
  let f : Fin 16 := Fin.ofNat 16 (pktField p.bits 8 1)
  let src := pktField p.bits 9 1
  let dst := pktField p.bits 0x0A 1
  let a := s.partOfVf (Fin.ofNat 17 src)
  let at_ := fun (s : State) (k c : Nat) => (s.modPacket v q p.id (fun p => { p with iters := k })).schedule c (.resize p.id)
  if p.iters = 0 then
    if s.resizeRefused f src dst then s.finishPacket v q p 2 p.clk
    else
      let s := match a with
        | some x => (s.modPart x (fun y => { y with held := y.held + 1 })).preemptGuest src
        | none => s
      at_ s 1 (s.cycle + 8)
  else if p.iters = 1 then
    if (a.map s.partBusy).getD false || s.preemptWaits src then at_ s 1 (s.cycle + 8)
    else
      let (c, s) := s.freeCycle s.cycle (some (s.cycle + 67108864))
      at_ s 2 c
  else if s.resizeRefused f src dst then
    let s := match a with
      | some x => s.modPart x (fun y => { y with held := y.held - 1 })
      | none => s
    (s.resumeQueues (Fin.ofNat 17 src)).finishPacket v q p 2 p.clk
  else
    let b := s.partOfVf (Fin.ofNat 17 dst)
    let bit := BitVec.twoPow 16 f.val
    let s := s.scrubFolio f (match b, a with
      | some x, _ => s.floorOf x
      | none, some x => s.floorOf x
      | none, none => 0)
    let s := match a with
      | some x => s.modPart x (fun y => { y with folios := y.folios &&& ~~~ bit, held := y.held - 1 })
      | none => s
    let s := match b with
      | some x => s.modPart x (fun y => { y with folios := y.folios ||| bit })
      | none => s
    let s := s.startKernels f
    (s.resumeQueues (Fin.ofNat 17 src)).finishPacket v q p 0 p.clk

end State

/-- RESIZE moves one folio between partitions, step by step (R359). -/
def execResize (id : Nat) (s : State) : Res := s.onPacket id (fun s v q p =>
  (State.resizeStep s v q p).pump v q State.pumpFuel)

/-- ERT-WRITE: one host-agent store of an entry at its place in the table (R261, R358). -/
def execErtWrite (id : Nat) (s : State) : Res := s.onPacket id (fun s v q p =>
  match s.partOfVf (Fin.ofNat 17 (pktField p.bits 8 1)) with
  | none => s.finishPacket v q p 2 p.clk
  | some x =>
    let pa := s.parts[x].ertFrame.toNat * 0x10000 + 32 * pktField p.bits 0x0A 2
    if s.refused x true false pa then s.faultPacket v q p
    else
      let s := if pktWaits p.bits then s.modPart x (fun y => { y with hostLc := Clk.max y.hostLc p.clk }) else s
      let s := s.addToll x [⟨0, pa, 32, false, 0⟩]
      let s := s.hostWrite x pa 32 (pktField p.bits 0x10 32)
      s.finishPacket v q p 0 s.parts[x].hostLc)

/-- SNAPSHOT: appends a region to the open capture of the named queue (R358). -/
def execSnapshot (id : Nat) (s : State) : Res := s.onPacket id (fun s v q p =>
  let w : Fin 17 := Fin.ofNat 17 (pktField p.bits 8 1)
  let x : Fin 64 := Fin.ofNat 64 (pktField p.bits 9 1)
  let va := BitVec.ofNat 64 (pktField p.bits 0x10 8)
  let len := pktField p.bits 0x18 8
  if (s.partOfVf w).isNone ∨ (s.queue w x).capture.isNone then s.finishPacket v q p 0 p.clk
  else
    match (s.agentWait w x p.clk).pktLoad w x va len with
    | none => s.faultPacket v q p
    | some (d, s) => (s.capItem w x 2 len va 0 d).finishPacket v q p 0 (s.agentClk w x))

/-- TOKEN_BUCKET_REFILL: each bucket of the partition gains RATE bytes every 1,024 cycles, up to BURST, and traffic that waits at
the borders goes on as far as they reach (R360). -/
def execTokenBucketRefill (p : Fin 16) (s : State) : Res :=
  let x := s.parts[p]
  if x.vf = 0 then .next s
  else
    let (m, go, wait) := payAll [] (x.tokens.map (fun n => min x.burst.toNat (n + x.rate.toNat))) x.border
    let s := (s.modPart p (fun y => { y with tokens := m, border := wait })).schedule (s.cycle + 1024) (.tokenBucketRefill p)
    .next (go.foldl (fun s x => s.goOn p x) s)

end Sys2Proof.Machine
end

