-- ==== Sys2Proof/Machine/Bonnet.lean ====
section
/-! DEFINITION. Sys2Proof/Machine/Bonnet.lean: the bonnet port: guest packets, the guest's requests and duties, and fencing
(15_bonnet.md R361 to R368; 07_ordering.md R193). What the guest sends is an input; what the port does with it is here. -/

namespace Sys2Proof.Machine

open Sys2Proof

/-- A guest packet on its way. -/
def Op.isGuest (o : Op) : Bool :=
  match o.kind with
  | .guest .. => true
  | _ => false

/-- A guest packet that has reached the port. -/
def Op.atPort (o : Op) : Bool :=
  match o.kind with
  | .guest _ _ _ _ way => way != .coming
  | _ => false

/-- Order 4 of R365: the offset of the first field of a guest packet that fails; `task` says that the stroke runs in mode
T. -/
def guestBad (b : BitVec 512) (task : Bool) : Option Nat :=
  let f := fun (i : Nat) => pktField b i 1
  if 0x82 ≤ f 0 || (0x80 ≤ f 0 && task) then some 0
  else if f 1 ≠ 1 then some 1
  else if 4 ≤ f 2 then some 2
  else if f 3 ≠ 0 then some 3
  else if 0x80 ≤ f 0 then ((List.range 32).map (· + 0x20)).find? (fun i => f i ≠ 0)
  else none

/-- A packet with ORIGIN filled: stroke number, virtual function, ASID (R364). -/
def withOrigin (b : BitVec 512) (stroke vf : Nat) (asid : BitVec 16) : BitVec 512 :=
  BitVec.ofNat 512 (b.toNat - pktField b 8 8 * 2 ^ 64 + (stroke + vf * 2 ^ 40 + asid.toNat * 2 ^ 48) * 2 ^ 64)

namespace State

/-! ## Packets (R364 to R366) -/

def modBonnet (s : State) (f : Bonnet → Bonnet) : State := { s with bonnet := f s.bonnet }

/-- The completions that the port itself makes come within 2,048 cycles (R366, R368). -/
def portAnswer (s : State) (id : Nat) (refusal : Bool) : State :=
  let (c, s) := s.freeCycle s.cycle (some (s.cycle + 2048))
  s.schedule c (if refusal then .portRefusal id else .fencedCompletion id)

/-- A packet completes: the port writes STATUS, and the post follows in a turn of the stroke (R366). -/
def guestDone (s : State) (o : Op) (status : BitVec 32) (clk : Clk) : State :=
  match o.kind with
  | .guest addr .. =>
    let (t, s) := s.engWrite o.nib (addr.toNat + 4) 4 status.toNat clk
    let s := s.modOp o.id (fun o =>
      { o with kind := .guestAns addr status, performed := true, due := max o.due s.cycle, tmax := Clk.max clk t })
    let s := s.modNib o.nib (fun b => { b with guestOut := b.guestOut - 1 })
    s.modBonnet (fun b =>
      { b with
        parked := b.parked.filter (fun x => x.2 != o.id)
        deadlines := b.deadlines.filter (fun d => !(d.cause == 3 && d.what == o.id)) })
  | _ => s

/-- The completion of packet `id` by the port itself. -/
def portDone (s : State) (id : Nat) (status : BitVec 32) : State :=
  match s.findOp id with
  | some o => if o.isGuest then s.guestDone o status o.lc else s
  | none => s

/-- The virtual function may use the guest, and the link is usable (R366). -/
def guestUsable (s : State) (vf : Nat) : Bool :=
  s.bonnet.en && s.bonnet.up && vf ≠ 0 && s.bonnet.vfMask.getLsbD (vf - 1)

/-- A message to the guest carries its sender's clock (R362). -/
def tellGuest (s : State) (t : Clk) : State := s.modBonnet (fun b => { b with told := Clk.max b.told t })

/-- The guest is told to give up virtual function v (R367). -/
def sendPreempt (s : State) (v : Nat) : State :=
  let hi := s.cycle + 165000
  (s.modBonnet (fun b => { b with deadlines := b.deadlines ++ [⟨2, v, 0, hi⟩] })).schedule hi (.guestDeadline 2)

/-- A guest packet stands where `way` says. -/
def setWay (s : State) (id : Nat) (way : GuestWay) : State :=
  s.modOp id (fun o => match o.kind with
    | .guest addr b vf root _ => { o with kind := .guest addr b vf root way }
    | _ => o)

/-- Guest packet `o` has reached the port: it is forwarded with its clock, or the port completes it (R362, R366 to R368); a
PREEMPT or RESUME acts on the virtual function that it names. -/
def forward (s : State) (o : Op) : State :=
  match o.kind with
  | .guest _ b vf _ _ =>
    if s.bonnet.fenced then (s.setWay o.id .refused).portAnswer o.id false
    else if !s.guestUsable vf then (s.setWay o.id .refused).portAnswer o.id true
    else
      let s := (s.setWay o.id .sent).tellGuest o.lc
      match pktField b 0 1 with
      | 0x80 => s.sendPreempt vf
      | 0x81 => s.modBonnet (fun b => { b with preempted := b.preempted &&& ~~~ BitVec.twoPow 16 (vf - 1) })
      | _ => s
  | _ => s

/-- Guest packet `id` of nib n leaves for the port: it reaches it at once, or when its 64 bytes have been paid for at the borders
(R360), by the event in which the port looks at it. -/
def leaveForPort (s : State) (n : NibId) (id : Nat) : State :=
  let p := s.partOf n
  let (x, ok) := s.parts[p].take ⟨2, s.owing p (folioOf n) true 64, [(s.cycle, .portRefusal id)], false⟩
  let s := s.modPart p (fun _ => x)
  match s.findOp id with
  | some o => if ok then s.forward o else s
  | none => s

/-- Guest packets that the port holds across the module (R366). -/
def portHolds (s : State) : Nat := (s.nibs.map (fun x => x.2.guestOut)).sum

end State

/-- `gsub` (R365). A full port makes it wait in no class of R339 (DESIGN CHOICE, assumption 49). The records of the context
cache are hidden from mode T (R320, DEDUCED, assumption 59). -/
def execGsub (sl : Fin 16) (a : Fin 32) (s : State) : Res :=
  s.guarded [.g a] [] true (fun s =>
    let va := s.rg a
    if !State.inWindow va 64 then s.raise causeLOCALITY va
    else if va.toNat % 64 ≠ 0 then s.raise causeLOADALIGN va
    else if s.hidesRecords va.toNat 64 then s.raise causeLOADACC va
    else
      let (x, s') := s.localLoad va.toNat 64
      let b := BitVec.ofNat 512 x
      match guestBad b (s.turn.mode == .t) with
      | some o => s.illegalVal (va + BitVec.ofNat 64 o)
      | none =>
        if s.sealFull sl then s
        else if 16 ≤ s.cnib.guestOut ∨ 1024 ≤ s.portHolds then s
        else
          let vf := s.parts[s.partOf s.cur.nib].vf
          let root := s.ctx.c.ptroot
          let b := withOrigin b (s.strokeNumber s.cur.nib s.cur.k) vf (State.asidOf root)
          let (id, s) := s'.newOp sl (.guest va b vf root .coming)
          let s := s.modNib s.cur.nib (fun y => { y with guestOut := y.guestOut + 1 })
          ((s.leaveForPort s.cur.nib id).pendSeal sl).retire)

/-! ## Fencing (R368) -/

namespace State

/-- The port fences the guest for reason `code`: the socket is isolated, what the guest holds or waits for is gone, every
outstanding packet is completed, one on its way to the port when it comes there, and the host is told (R368). -/
def fenceGuest (s : State) (code : Nat) : State :=
  if s.bonnet.fenced then s
  else
    let ids := (s.ops.filter Op.atPort).map (·.id)
    let s := s.modBonnet (fun b =>
      { b with fenced := true, fcause := BitVec.ofNat 8 code, up := false, rate := 0, mods := 0, l1 := false, tlb := [], parked := []
               deadlines := [] })
    let s : State := { s with agenda := s.agenda.filter (fun e => match e.2 with | .portRefusal i => !ids.contains i | _ => true) }
    let s := ids.foldl (fun s id => s.portAnswer id false) s
    ((List.finRange 16).filter (fun v => s.bonnet.vfMask.getLsbD v.val)).foldl (fun s v =>
      s.raiseMsix (Fin.ofNat 17 (v.val + 1)) 2) s

end State

/-- BONCTL_EN: the written EN takes effect (R363). A 1 is ignored unless the blob permits a guest and names the one in the
socket (R361); 0 takes the link down, and the port refuses what the guest still held. -/
def execBonctlEn (x : BitVec 64) (s : State) : Res :=
  if x.getLsbD 0 then .next (if s.modu.guestOk then s.modBonnet (fun b => { b with en := true }) else s)
  else
    let s := s.modBonnet (fun b => { b with en := false, up := false, rate := 0, mods := 0, l1 := false })
    if s.bonnet.fenced then .next s
    else
      let left := (s.ops.filter (fun o => match o.kind with | .guest _ _ _ _ way => way == .sent | _ => false)).map (·.id)
      .next (left.foldl (fun s id => (s.setWay id .refused).portAnswer id true) s)

/-- BONCTL_FENCE: the host, or a stroke in mode K or D, fences the guest (R363, R368). -/
def execBonctlFence (s : State) : Res := .next (s.fenceGuest 7)

/-- Both dies have tried to train the link (R361, R363); a link that was up and cannot retrain fences the guest (R368). The
guest's clock must rise from then on (R193). -/
def State.trainLink (s : State) (ok : Bool) (rate : BitVec 8) (mods : BitVec 4) : State :=
  if s.bonnet.fenced || !s.bonnet.en || !s.modu.guestOk || !s.bonnet.present then s
  else if ok && mods != 0 && [32, 24, 16, 12, 8, 4].contains rate.toNat then
    s.modBonnet (fun b => { b with up := true, rate := rate, mods := mods, seen := if b.up then b.seen else (b.seen.1, s.cycle) })
  else if s.bonnet.up then s.fenceGuest 6
  else s

/-- LINK_TRAINING: the link is trained (R361). -/
def execLinkTraining (ok : Bool) (rate : BitVec 8) (mods : BitVec 4) (s : State) : Res := .next (s.trainLink ok rate mods)

/-- LINK_FAILURE: the link fails and cannot retrain (R368). -/
def execLinkFailure (s : State) : Res := .next (if s.bonnet.up then s.fenceGuest 6 else s)

/-- LINK_POWER_STATE: Active or L1 (R361). -/
def execLinkPowerState (l1 : Bool) (s : State) : Res :=
  .next (if s.bonnet.up then s.modBonnet (fun b => { b with l1 := l1 }) else s)

/-- PORT_REFUSAL: the port completes a packet that it refuses with 0x81 NOGUEST (R366); a packet that has crossed the borders
reaches the port (R360); and the post of a completed packet lands in its stroke's turn. -/
def execPortRefusal (id : Nat) (s : State) : Res :=
  match s.findOp id with
  | some o =>
    match o.kind with
    | .guestAns .. => .next (s.landOp o [] 0)
    | .guest _ _ _ _ .coming => .next (s.forward o)
    | .guest _ _ _ _ .refused => .next (s.portDone id 0x81)
    | _ => .next s
  | none => .next s

/-- FENCED_COMPLETION: the port completes a packet with 0x80 FENCED (R368). -/
def execFencedCompletion (id : Nat) (s : State) : Res := .next (s.portDone id 0x80)

/-! ## What the guest sends (R193, R362, R367) -/

namespace State

/-- A message of the guest arrives with its clock (R362): nothing arrives while the link is not up. A clock below a time
already returned, or one that has not risen by 1 every 512 cycles, breaks the lease duty (R193, R368). -/
def guestSays (s : State) (clk : Clk) (f : State → Res) : Res :=
  if !s.bonnet.up || s.bonnet.fenced then .next s
  else
    let (last, at_) := s.bonnet.seen
    let rise := BitVec.ofNat 48 ((s.cycle - at_) / 512)
    if !Clk.le s.bonnet.lc clk || !Clk.le (last + rise) clk then .next (s.fenceGuest 4)
    else f (if clk = last then s else s.modBonnet (fun b => { b with seen := (clk, s.cycle) }))

/-- Guest message `ev` serves packet `id`, which the guest holds: with no such packet it is malformed (R366 to R368). `f` gets the
packet's operation, virtual function, `ptroot` and partition. A message that has waited at a border has been looked at, and
does nothing where its packet has ended since. -/
def fromGuest (s : State) (ev : Instr) (id : Nat) (clk : Clk) (f : State → Op → Nat → Word → Fin 16 → State) : Res :=
  let serve := fun (s : State) (none_ : State) => match s.findOp id with
    | some o =>
      (match o.kind with
      | .guest _ _ vf root .sent =>
        (match s.partOfVf (Fin.ofNat 17 vf) with
        | some p => f s o vf root p
        | none => s)
      | _ => none_)
    | none => none_
  if s.isThrough ev then .next (serve s (s.dropThrough ev))
  else s.guestSays clk (fun s => .next (serve s (s.fenceGuest 5)))

/-- The PA of a guest access (R142, R191, R367): through a publish entry, or a translation that the guest holds. -/
inductive GuestPA where
  /-- The PA, and whether the page may be cached (R182). -/
  | ok (pa : Nat) (cache : Bool)
  /-- Answered with an error (R142). -/
  | error
  /-- The guest holds no translation for the address. -/
  | none
deriving DecidableEq, Repr

def guestPA (s : State) (vf : Nat) (asid : BitVec 16) (p : Fin 16) (va : Word) (write : Bool) : GuestPA :=
  let check := fun (pa : Nat) (home : Bool) =>
    if s.refused p false false pa then GuestPA.error else .ok pa (home && (unitOf pa).cached)
  match s.pubEntry p asid va with
  | some e => check (pubPA e va false) true
  | none =>
    match s.bonnet.tlb.find? (fun t => t.vf == vf && TlbEntry.hits t.entry asid va) with
    | some t => if write && !t.entry.w then .error else check (TlbEntry.pa t.entry va) (t.entry.home == 0 || t.entry.home == 3)
    | none => .none

/-- The guest has given virtual function v up, and has not been told to resume it (R367). -/
def guestPaused (s : State) (v : Nat) : Bool := v != 0 && s.bonnet.preempted.getLsbD (v - 1)

/-- A coherent access of the guest to an aligned 8-byte word (R193), by message `ev`: `act` performs it at its home once its 8 bytes
have crossed the borders (R360), and its time is returned. One made for a virtual function that the guest has given up is malformed (R367, R368, DESIGN CHOICE, assumption 14). -/
def guestAccess (s : State) (ev : Instr) (id : Nat) (va : Word) (write : Bool) (clk : Clk)
    (act : State → Nat → Bool → Fin 16 → Clk × State) : Res :=
  s.fromGuest ev id clk (fun s o vf root p =>
    if va.toNat % 8 ≠ 0 || s.guestPaused vf then (s.dropThrough ev).fenceGuest 5
    else
      match s.guestPA vf (asidOf root) p va write with
      | .none => (s.dropThrough ev).fenceGuest 5
      | .error => s.dropThrough ev
      | .ok pa cache =>
        if s.goneHome pa then s.dropThrough ev
        else
          s.atBorder p 2 (s.owing p ((unitOf pa).folio.getD (folioOf o.nib)) false 8) ev (fun s =>
            let (t, s) := act s pa cache p
            s.modBonnet (fun b => { b with lc := Clk.max b.lc t, told := Clk.max b.told t })))

end State

/-- COHERENT_READ (R180, R182, R193): the data go to the guest, which the model does not hold. -/
def execCoherentRead (id : Nat) (va : BitVec 64) (clk : BitVec 48) (s : State) : Res :=
  s.guestAccess (.coherentRead id va clk) id va false clk (fun s pa cache p =>
    s.readStamp pa clk (if cache then s.parts[p].lease.toNat else 0))

/-- COHERENT_WRITE (R181, R193). -/
def execCoherentWrite (id : Nat) (va : BitVec 64) (x : BitVec 64) (clk : BitVec 48) (s : State) : Res :=
  s.guestAccess (.coherentWrite id va x clk) id va true clk (fun s pa _ _ =>
    let (t, s) := s.writeStamp pa clk
    (t, { s with mem := Memory.write s.mem pa 8 x.toNat }))

/-- COHERENT_ATOMIC (R157, R193): `x` is the operand, and `y` what a compare-and-swap compares with. -/
def execCoherentAtomic (id : Nat) (va : BitVec 64) (op : Fin 16) (x y : BitVec 64) (clk : BitVec 48) (s : State) : Res :=
  let ev := Instr.coherentAtomic id va op x y clk
  if 9 < op.val then s.fromGuest ev id clk (fun s _ _ _ _ => s.fenceGuest 5)
  else
    s.guestAccess ev id va true clk (fun s pa _ _ =>
      let (t, s) := s.writeStamp pa clk
      (t, { s with mem := Memory.write s.mem pa 8 (amoNew op.val 64 (Memory.read s.mem pa 8) x.toNat y.toNat).1 }))

/-- GUEST_COMPLETION: the guest completes a packet (R366), once its 64 bytes have crossed the borders (R360). -/
def execGuestCompletion (id : Nat) (status : BitVec 32) (clk : BitVec 48) (s : State) : Res :=
  let ev := Instr.guestCompletion id status clk
  s.fromGuest ev id clk (fun s o _ _ p =>
    s.atBorder p 2 (s.owing p (State.folioOf o.nib) false 64) ev (fun s => s.guestDone o status clk))

/-- TRANSLATION_REQUEST: the brim walks the named partition's tables, those of the packet's ASID (R367). A replayable fault must be reported within 6,600
cycles. -/
def execTranslationRequest (id : Nat) (va : Stamped Word) (s : State) : Res :=
  s.fromGuest (.translationRequest id va) id va.clk (fun s _ vf root p =>
    let va := va.val
    let s := s.tellGuest s.parts[p].hostLc
    if !canonical va then s
    else
      match s.walk p root va false with
      | .ok _ big frame home w =>
        s.modBonnet (fun b => { b with tlb := ⟨vf, State.tlbOf (State.asidOf root) va big frame home w⟩ :: b.tlb })
      | .precise => s
      | .replay =>
        let hi := s.cycle + 6600
        (s.modBonnet (fun b => { b with deadlines := b.deadlines ++ [⟨3, id, va, hi⟩] })).schedule hi (.guestDeadline 3))

/-- INVALIDATION_ACK: the guest has dropped the matching entries and performed what used them (R367). -/
def execInvalidationAck (p : Stamped (Fin 16)) (s : State) : Res :=
  s.guestSays p.clk (fun s =>
    let p := p.val
    let x := s.parts[p].inval
    let vf := s.parts[p].vf
    .next (s.modBonnet (fun b =>
      { b with
        tlb := b.tlb.filter (fun t => !(t.vf == vf && State.invHits x t.entry.asid t.entry.page t.entry.big))
        deadlines := b.deadlines.filter (fun d => !(d.cause == 1 && d.what == p.val)) })))

/-- GUEST_FAULT_RECORD: the guest reports the replayable fault that it met for packet `id` at `va`, under the coalescing table
of the packet's folio (R171 to R173, R367). -/
def execGuestFaultRecord (id : Nat) (va : Stamped Word) (s : State) : Res :=
  s.fromGuest (.guestFaultRecord id va) id va.clk (fun s o _ root _ =>
    let va := va.val
    let s := s.modBonnet (fun b =>
      { b with
        deadlines := b.deadlines.filter (fun d => !(d.cause == 3 && d.what == id && d.va == va))
        parked := b.parked ++ [(va, id)] })
    s.coalesce id o.nib o.stroke (State.asidOf root) va 3)

/-- PREEMPT_ACK: the guest has given up virtual function v, with its byte count (R367); an acknowledgement with packets of v
outstanding, or of no PREEMPT, is malformed (R368, DESIGN CHOICE, assumption 14). -/
def execPreemptAck (v : Fin 17) (x : Stamped Word) (s : State) : Res :=
  s.guestSays x.clk (fun s =>
    let out := s.ops.any (fun o => match o.kind with
      | .guest _ b vf _ _ => vf == v.val && pktField b 0 1 < 0x80
      | _ => false)
    if out || !s.preemptWaits v.val then .next (s.fenceGuest 5)
    else
      .next (s.modBonnet (fun b =>
        { b with
          deadlines := b.deadlines.filter (fun d => !(d.cause == 2 && d.what == v.val))
          preempted := b.preempted ||| BitVec.twoPow 16 (v.val - 1) })))

/-- GUEST_DEADLINE: a deadline of class `c` has passed: the guest is fenced with that cause (R367, R368). -/
def execGuestDeadline (c : Fin 8) (s : State) : Res :=
  .next (if s.bonnet.deadlines.any (fun d => d.cause == c.val && d.expiry ≤ s.cycle) then s.fenceGuest c.val else s)

end Sys2Proof.Machine
end

