-- ==== Sys2Proof/Machine/Module.lean ====
section
/-! DEFINITION. Sys2Proof/Machine/Module.lean: module reset and boot, power and thermal capping, attestation and recovery
(16_module.md R369 to R375), and the loss of folios and modules (11_exchange.md R296, R386). -/

namespace Sys2Proof.Machine

open Sys2Proof

/-! ## Reset and boot (R373) -/

/-- The event comes from outside the module: a host, the guest, the fabric, or a sensor. It survives a module reset. -/
def outsideEvent (i : Instr) : Bool :=
  match i with
  | .registerWrite .. | .hostAccess .. | .launchRegister .. | .linkTraining .. | .linkFailure | .linkPowerState _
  | .guestCompletion .. | .coherentRead .. | .coherentWrite .. | .coherentAtomic .. | .translationRequest .. | .invalidationAck ..
  | .guestFaultRecord .. | .preemptAck .. | .folioLoss _ | .moduleLoss _ | .thermalCap _ | .thermalCapRelease _
  | .thermalReset _ | .moduleReset | .remoteAccess (.peer _) | .barrierArrival (.peer _) => true
  | _ => false

/-- Cycles of a power measurement window (R371). -/
def powerWindow : Nat := 65536

namespace State

/-- The bonnet link as the boot leaves it: trained, or not, when it may be enabled (R361, R373, DESIGN CHOICE, assumption 16). -/
def bootLink (s : State) : State :=
  let (i, s) := s.freshNum
  let x := Config.freeBits i
  s.trainLink (x.testBit 0) (BitVec.ofNat 8 (x / 2 % 64)) (BitVec.ofNat 4 (x / 128))

/-- What the boot sequence makes of the state after reset (R373): recovery when a signature fails, else the values of the
blob, the identity key, the trained links, the nib kernels of every folio that can be used, and READY. A guest may be enabled when the blob permits one and names the one in the
socket (R361). Power is measured from now on (R371). -/
def boot (s : State) : State :=
  let s := s.schedule (s.cycle + powerWindow) .powerMeasurement
  let s := s.modBonnet (fun b => { b with present := Config.guestDie.isSome })
  if Config.imageOk s.modu.flash && Config.blobOk then
    let guest := Config.guestPermitted && Config.guestDie == some Config.blobGuest
    let s : State := { s with
      modu := { s.modu with
        modn := Config.moduleNumber, fwver := Config.imageVersion s.modu.flash, guestOk := guest, key := Config.deviceKey }
      bonnet := { s.bonnet with en := guest }
      folios := Vector.ofFn (fun (f : Fin 16) => { s.folios[f] with unavailable := Config.badFolios.getLsbD f.val }) }
    let s := ((List.finRange 16).filter (fun f => !s.folios[f].unavailable)).foldl State.startKernels s.bootLink
    { s with modu := { s.modu with ready := true } }
  else { s with modu := { s.modu with recov := true } }

end State

/-- A module reset: every counter starts again, nothing of a partition survives, and the boot ROM runs (R11, R373, R375). The
image in flash, the host's memory and what is to come from outside stand. -/
def State.moduleReset (s : State) : State :=
  let inputs := (s.agenda.filter (fun e => outsideEvent e.2)).map (fun e => (e.1 - s.cycle, e.2))
  State.boot { State.reset with
    phase := .events, agenda := inputs, hostMem := s.hostMem, fresh := s.fresh, nextId := s.nextId
    modu := { Module.reset with flash := s.modu.flash } }

/-- MODULE_RESET: the host asks for a module reset (R373). -/
def execModuleReset (s : State) : Res := .next s.moduleReset

/-! ## Temperature and power (R369, R371) -/

/-- THERMAL_CAP: a die has reached 115 °C: the matrix clock goes to its lowest step (R369). -/
def execThermalCap (d : Fin 32) (s : State) : Res :=
  .next { s with modu := { s.modu with hot := s.modu.hot ||| BitVec.twoPow 32 d.val, therm := true, capk := 4 } }

/-- THERMAL_CAP_RELEASE: the die has fallen below 105 °C; with no die left, the step of the last measurement is in force again
(R369, R371). -/
def execThermalCapRelease (d : Fin 32) (s : State) : Res :=
  let hot := s.modu.hot &&& ~~~ BitVec.twoPow 32 d.val
  .next { s with modu := { s.modu with
    hot := hot, therm := hot != 0, capk := if hot = 0 then s.modu.powerK else 4 } }

/-- THERMAL_RESET: a die that reaches 125 °C asserts a module reset (R369). -/
def execThermalReset (_d : Fin 32) (s : State) : Res := .next s.moduleReset

/-- The largest k from 4 to 16 for which the measured power, with its matrix power scaled by k/16, stays within 7,500 W; 4 when
none does (R371). -/
def powerStep (total matrix : Nat) : Nat :=
  (([16, 15, 14, 13, 12, 11, 10, 9, 8, 7, 6, 5] : List Nat).find? (fun k =>
    decide ((total - matrix) * 16 + matrix * k ≤ 7500 * 16))).getD 4

/-- POWER_MEASUREMENT: a window ends: k is chosen, and windows with k below 16 are counted (R371, R372). -/
def execPowerMeasurement (s : State) : Res :=
  let (i, s) := s.freshNum
  let (j, s) := s.freshNum
  let total := Config.measuredPower i
  let k := powerStep total (min total (Config.measuredPower j))
  let now := if s.modu.hot = 0 then k else 4
  let s : State := { s with modu := { s.modu with
    powerK := BitVec.ofNat 8 k, capk := BitVec.ofNat 8 now
    capcnt := if now < 16 then s.modu.capcnt + 1 else s.modu.capcnt } }
  .next (s.schedule (s.cycle + powerWindow) .powerMeasurement)

/-! ## Attestation and recovery (R374, R375) -/

/-- The report that the firmware returns for a nonce (R374). -/
def Module.attest (m : Module) (nonce : BitVec 256) : Report :=
  let image := Config.imageDigest m.flash
  ⟨m.fwver, image, Config.blobDigest, devidValue, nonce, Config.sign m.key m.fwver image Config.blobDigest devidValue nonce⟩

/-- ATTEST: the nonce is in the mailbox, and the firmware returns the signed report (R374). -/
def execAttest (x : BitVec 256) (s : State) : Res :=
  .next (if s.modu.ready then { s with modu := { s.modu with nonce := x, report := some (s.modu.attest x) } } else s)

/-- RECOVERY_CONTROL: in recovery, writing 1 has the ROM verify the image in the window; a good one is written to flash and
the module is reset, a bad one changes nothing (R375). -/
def execRecoveryControl (x : BitVec 64) (s : State) : Res :=
  if s.modu.recov && x == 1 && Config.imageOk s.modu.window then
    .next (State.moduleReset { s with modu := { s.modu with flash := s.modu.window } })
  else .next s

/-! ## Loss (R296, R386) -/

namespace State

/-- Tasks of a launch that fall to a nib and come at or after index x, one of its own (R353). -/
def shareFrom (l : Launch) (n : NibId) (x : Nat) : Nat :=
  shareOf l.tasks l.quota l.nibs (l.ordinal n) 1 - (x / (l.quota * l.nibs) * l.quota + x % l.quota)

/-- Task `index` of a launch stands in some context. -/
def residentTask (s : State) (launch index : Nat) : Bool :=
  s.nibs.any (fun x => (s.contexts x.1).any (fun c => c.task.launch == launch && c.task.index == index))

/-- Tasks of a launch on folio f that have not ended (R386). -/
def liveTasks (s : State) (l : Launch) (f : Fin 16) : Nat :=
  let mine := (s.nibs.filter (fun x => folioOf x.1 == f)).map (fun x =>
    ((s.contexts x.1).filter (fun c => c.task.launch == l.id)).length +
    (x.2.rq.toList.filter (fun r => match r.task with | some (i, _) => i == l.id | none => false)).length +
    ((x.2.waiting.filter (fun w => w.launch == l.id)).map (fun w => if w.more then shareFrom l x.1 w.index else 1)).sum)
  let wakes := (s.agenda ++ s.parts.toList.flatMap (fun p => p.border.flatMap (·.evs))).map (·.2)
  let coming := wakes.map (fun e => match e with
    | .wakeAccept n id =>
      if id = l.id ∧ folioOf n = f then shareFrom l n (l.ordinal n * l.quota) else 0
    | _ => 0)
  let away := ((s.saved.filter (fun x => x.2.task.launch == l.id && folioOf (Fin.ofNat 65536 x.2.task.origin.toNat) == f &&
    !s.residentTask x.2.task.launch x.2.task.index)).map (fun x => x.2.task.index)).eraseDups
  mine.sum + coming.sum + away.length

/-- Every launch loses its tasks on folio f, and one that has none left completes (R386). -/
def loseTasks (s : State) (f : Fin 16) : State :=
  let counts := s.launches.map (fun l => (l.id, s.liveTasks l f))
  let s : State := { s with launches := s.launches.map (fun l =>
    let n := (counts.lookup l.id).getD 0
    { l with left := l.left - n, lost := l.lost || n != 0 }) }
  counts.foldl (fun s x =>
    if x.2 ≠ 0 ∧ s.launches.any (fun l => l.id == x.1 && l.left == 0) then s.schedule s.cycle (.launchComplete x.1) else s) s

/-- The operation was on its way to a receiver outside its folio when the folio was lost (R386). -/
def inTransit (o : Op) : Bool :=
  match o.kind with
  | .permit .. | .msg .. | .decr .. | .barArr .. => true
  | _ => false

/-- A wake of a nib of folio f. -/
def wakesFolio (f : Fin 16) (i : Instr) : Bool :=
  match i with
  | .wakeAccept n _ => folioOf n == f
  | _ => false

/-- The loss notice `x` is flooded to every nib (R296). -/
def floodNotice (s : State) (x : BitVec 32) : State :=
  s.nibs.foldl (fun s y =>
    let (c, s) := s.freeCycle s.cycle (some (s.cycle + 65536))
    s.schedule c (.lossNotice y.1 x)) s

end State

/-- FOLIO_LOSS: the module declares a folio failed and stops it: its nibs and engines issue and perform nothing more, its
tasks are lost, and the notice goes out (R296, R386). -/
def execFolioLoss (f : Fin 16) (s : State) : Res :=
  if s.folios[f].lost then .next s
  else
    let s := s.loseTasks f
    let s : State := { s with
      folios := s.folios.set f { unavailable := true, lost := true, tlb := [], coal := [], base := s.folios[f].base }
      nibs := s.nibs.filter (fun x => State.folioOf x.1 != f)
      ops := s.ops.filter (fun o => State.folioOf o.nib != f || State.inTransit o)
      agenda := s.agenda.filter (fun e => !State.wakesFolio f e.2)
      parts := s.parts.map (fun p => { p with border := p.border.filter (fun x => !x.evs.any (fun e => State.wakesFolio f e.2)) }) }
    .next (s.floodNotice (s.modu.modn ++ (BitVec.ofNat 4 f.val ++ (1 : BitVec 12))))

/-- MODULE_LOSS: the fabric declares another module lost (R296, R386). -/
def execModuleLoss (x : BitVec 16) (s : State) : Res :=
  if x = s.modu.modn ∨ s.modu.gone.contains x then .next s
  else
    let s : State := { s with modu := { s.modu with gone := x :: s.modu.gone } }
    .next (s.floodNotice (x ++ (0 : BitVec 16)))

end Sys2Proof.Machine
end

