-- ==== Sys2Proof/Machine/Turns.lean ====
section
/-! DEFINITION. Sys2Proof/Machine/Turns.lean: swaps (12_system.md R320 to R323, R328), and what a turn consists of: its start,
the search for the word that a sequencer issues, and its end (01_machine.md R11, R12; 02_lines.md R30 to R35). -/

namespace Sys2Proof.Machine

open Sys2Proof

namespace State

/-! ## Swaps (R321) -/

/-- Everything in flight in a context that leaves its stroke takes force: what is due at T+1, and what R63 does not keep. -/
def landAll (s : State) (n : NibId) (k : Fin 8) : Nat → State
  | 0 => s
  | fuel + 1 =>
    let c := (s.stroke n k).ctx
    match takeFirst (fun (l : Landing) => !l.isHandoff) c.inflight with
    | some (l, r) => ((s.modCtxAt n k (fun c => { c with inflight := r })).applyEff n k l.seq l.eff).landAll n k fuel
    | none =>
      match c.nextHand (s.tn + 1) with
      | .fresh l r => ((s.modCtxAt n k (fun c => { c with inflight := r })).applyEff n k l.seq l.eff).landAll n k fuel
      | _ => s

/-- Step 1: the context of stroke k goes to entry e, handled as pre-empted (R63, R149, R321). -/
def swapOut (s : State) (n : NibId) (k : Fin 8) (e : Fin 8) : State :=
  let st := s.stroke n k
  if st.status = .vacant then s
  else
    let parked : Bool := match st.status with
      | .parked _ => true
      | _ => false
    let s := s.interrupt n k
    let s := s.landAll n k (2 * (s.stroke n k).ctx.inflight.length)
    let c := { (s.stroke n k).ctx with inflight := [] }
    s.putEntry n e { c with withdrawn := c.withdrawn || parked } st.status.isStopped ((s.nib n).tip k)

/-- Step 2: a context that was in an entry, whose record held `stopped`, stands in stroke k with the set `set` that was
held beside the entry, and issues from cycle `from_` on; with none the stroke becomes vacant (R321, R332, R340). -/
def swapIn (s : State) (n : NibId) (k : Fin 8) (c : Option (Ctx × Bool)) (set : Ctx) (from_ : Nat) : State :=
  s.modStroke n k (fun x =>
    match c with
    | none => { x with status := .vacant, ctx := Ctx.takeSet Ctx.reset set, swap := none, swapEnd := from_ }
    | some (c, stopped) =>
      { x with
        status := if stopped then .stopped 1 else .arriving from_
        ctx := Ctx.takeSet
          { c with
            resumed := none
            seqs := c.seqs.map (fun q => { q.enter q.pc with ended := q.ended, lost := q.lost, fault := q.fault }) } set
        swap := none, swapEnd := from_ })

end State

/-- SWAP_STOP: the swap that is due on stroke k takes place at the end of its turn (R321), and the two sets of labels, gate
and counters change places (R340). -/
def execSwapStop (n : NibId) (k : Fin 8) (s : State) : Res :=
  match (s.stroke n k).swap with
  | none => .next s
  | some (e, c) =>
    if s.cycle ≤ c then .next s
    else
      let old := if (s.nib n).entries[e].valid then some (s.entryCtx n e, s.entryStopped n e) else none
      let theirs := (s.nib n).entries[e].ctx
      let mine := (s.stroke n k).ctx
      let filled : Bool := (s.stroke n k).status != .vacant
      let s := (s.swapOut n k e).swapIn n k old theirs (c + 168)
      .next (s.modNib n (fun b =>
        { b with entries := b.entries.set e { b.entries[e] with
            valid := filled, busyUntil := c + 168
            ctx := if filled then b.entries[e].ctx else Ctx.takeSet Ctx.reset mine } }))

/-- SWAP_RESUME: stroke k begins to issue (R321, R353): held records count from this turn on (R63). -/
def execSwapResume (n : NibId) (k : Fin 8) (s : State) : Res :=
  match (s.stroke n k).status with
  | .arriving c =>
    if c ≤ s.cycle then
      .next (s.modStroke n k (fun x =>
        { x with
          status := .running
          ctx := { x.ctx with
            withdrawn := false
            resumed := if x.ctx.lateWrites.isEmpty && x.ctx.handRecs.isEmpty then none else some s.tn } }))
    else .next s
  | _ => .next s

/-- CTXCFG: the nib CSR is written (R320). -/
def execCtxcfg (n : NibId) (x : BitVec 64) (s : State) : Res := .next (s.csrWrite n 0 0x1C0 1 x false)

/-- NKSIG: the nib CSR is written (R328). -/
def execNksig (n : NibId) (x : BitVec 64) (s : State) : Res := .next (s.csrWrite n 0 0x1C3 1 x false)

/-! ## The start of a turn -/

/-- The event by which an operation that has been performed lands. -/
def Op.landing (o : Op) : Option Instr :=
  match o.kind with
  | .access .. => if o.sl = 0 then none else some (.longAccessComplete o.id)
  | .sfu .. => some (.sfuResult o.id)
  | .matrixPost _ => some (.matrixPost o.id)
  | .select .. => some (.selectPost o.id)
  | .copy .. => some (.copyComplete o.id)
  | .permitAns .. => some (.permitAnswer o.id)
  | .send .. => some (.sendComplete o.id)
  | .msgAns .. => some (.messageStatus o.id)
  | .barPost .. => some (.releaseDelivery o.id)
  | .block _ _ drain => some (if drain then .blockDrainComplete o.id else .blockFillComplete o.id)
  | .guestAns .. => some (.portRefusal o.id)
  | _ => none

namespace State

/-- A performed operation of nib n lands in the turn of stroke k: its context stands there, or in no stroke and it was issued
from there (R60, R323). -/
def landsHere (s : State) (n : NibId) (k : Fin 8) (o : Op) : Bool :=
  o.nib == n && o.performed && o.due ≤ s.cycle &&
  (s.hasCid n k o.cid || (o.stroke == k && (List.finRange 8).all (fun j => !s.hasCid n j o.cid)))

/-- The next landing of a performed operation in this turn. -/
def nextPost (s : State) (n : NibId) (k : Fin 8) : Option Instr :=
  s.ops.findSome? (fun o => if s.landsHere n k o then o.landing else none)

/-- An access on which stroke k of nib n parked can proceed (R149, R156). -/
def parkReady (s : State) (n : NibId) (k : Fin 8) : Bool :=
  match (s.stroke n k).status with
  | .parked ws => ws.any (fun w => match w with
    | .replay id | .sync id => ((s.findOp id).map Op.performed).getD true)
  | _ => false

/-- What the brush of stroke k of nib n does next in this turn (R272, R276). -/
def nextBrush (s : State) (n : NibId) (k : Fin 8) : Option Instr :=
  match s.brushAt n k with
  | some (w, _) =>
    match w.stage with
    | .read => some (.brushRead n k)
    | .load => some (.brushLoad n k)
    | .start => if s.brushBlocked n k then none else some (.stepBlockStart n k)
    | .run => none
    | .writeBack e =>
      if s.tn < e + 1 || s.blockLanding n k w || (s.stroke n k).ctx.r.pending (.v 15) then none else some (.writeBack n k)
  | none => none

/-- What happens next at the start of the turn of stroke k of nib n, with what the turn then remembers: the clock's rise
(R189), results and handoffs (R56, R63, R130), posts (R60), a park that ends (R149), the end of the task (R135), and the
brush (R276). None when the sequencers issue. -/
def beginEvent (s : State) (n : NibId) (k : Fin 8) : Option (Instr × Turn) :=
  let st := s.stroke n k
  let c := st.ctx
  let t := s.turn
  let arriving : Option Nat := match st.status with
    | .arriving c => some c
    | _ => none
  let lands : Option Instr :=
    if c.lateWrites.any (fun w => c.due s.tn w.k) then some (.lateWriteLanding n k)
    else if c.inflight.any (fun l => l.due ≤ s.tn && !l.isHandoff) then some (.resultLanding n k)
    else
      match c.nextHand s.tn with
      | .record .. => some (.lateWriteLanding n k)
      | .fresh .. => some (.handoffEffect n k)
      | .none => none
  if st.status = .vacant then (s.nextPost n k).map (fun i => (i, t))
  else if (arriving.map (fun c => decide (c ≤ s.cycle))).getD false then some (.swapResume n k, t)
  else if !t.ticked && arriving.isNone && (s.tn + 1 - c.born) % 64 = 0 then some (.lcTick n k, { t with ticked := true })
  else
    match lands with
    | some i => some (i, t)
    | none =>
      match s.nextPost n k with
      | some i => some (i, t)
      | none =>
        if s.parkReady n k then some (.parkResume n k, t)
        else if s.taskOver n k then some (.taskEnd n k, t)
        else if st.status = .running then (s.nextBrush n k).map (fun i => (i, t))
        else none

/-- The turn opens: its instructions run in the mode that now stands (R313). -/
def openTurn (s : State) (n : NibId) (k : Fin 8) : State :=
  { s with cur := ⟨n, k, .s⟩, turn := { Turn.reset with mode := (s.stroke n k).ctx.c.mode } }

/-! ## The word that issues (R30 to R35) -/

/-- S stands after a `sweep` whose fault is still to be taken: it issues nothing before (R276, DESIGN CHOICE, assumption 68). -/
def sweepFaulted (s : State) : Bool :=
  s.cur.q == .s && !s.ctx.c.ts && s.ctx.c.mode != .d && s.ctx.causes.any (fun x => x.code == causeSWEEPFAULT)

/-- The issuing sequencer has a turn to use: its stroke runs, it has not ended, and no sweep holds it (R134, R271, R276). -/
def mayIssue (s : State) : Bool :=
  s.cst.status == .running && !(s.seqSt s.cur.q).ended && !s.sweepHeld s.cur.q && !s.sweepFaulted

/-- What a sequencer's search for its word comes to: a state in which it issues nothing in this turn, or one in which the
word at its PC issues. -/
inductive Fetched where
  | idle (s : State)
  | word (s : State)

/-- A line that has not passed its checks is searched first (R30, R33): a failure traps with the PC where the search stopped,
and lines beyond the next cost turns (R35). A word that has been found issues even where `xob` has since come to stand below
it (R34, DESIGN CHOICE, assumption 57). -/
def fetch (s : State) : Fetched :=
  let x := s.seqSt s.cur.q
  if 0 < x.lost then .idle (s.modSeq s.cur.q (fun q => { q with lost := q.lost - 1 }))
  else if x.checked then .word s
  else
    let f := searchAt s.code s.ctx.c.xob.toNat s.cur.q x.pc.toNat
    if f.ok then
      let t := s.modSeq s.cur.q (fun q => { q with pc := BitVec.ofNat 64 f.pc, checked := true, lost := f.lines - 2 })
      if f.lines < 2 then .word t else .idle t
    else
      let (c, v) := if s.ctx.c.xob.toNat ≤ f.pc then (causeOVERLAY, f.pc) else (lineCheck s.code f.pc).getD (causeILLINE, f.pc)
      .idle (s.raiseAt c (BitVec.ofNat 64 v) (BitVec.ofNat 64 f.pc))

/-! ## The end of a turn -/

/-- The i-th event of the end of a turn of stroke k of nib n, after the turn has closed. -/
def finishEvent (n : NibId) (k : Fin 8) (i : Nat) : Option Instr :=
  match i with
  | 1 => some (.turnClassCount n k)
  | 2 => some (.readyHistogramCount n)
  | 3 => some (.traceSample n k)
  | 4 => some (.deliveredCause n k)
  | 5 => some (.takeInterrupt n k)
  | 6 => some (.debugStop n k)
  | 7 => some (.swapStop n k)
  | _ => none

/-! ## The cycle -/

/-- The stroke whose turn it is (R11). -/
def turnStroke (s : State) : Fin 8 := Fin.ofNat 8 s.cycle

/-- The nibs that take a turn: those of folios that are not lost (R386). -/
def liveNibs (s : State) : List NibId := (s.nibs.map (·.1)).filter (fun n => !s.nibLost n)

/-- The place of a message among those that arrive in one cycle: its sender's stroke number, then its age (R326). -/
def messageKey (s : State) (i : Instr) : Option (Nat × Nat) :=
  match i with
  | .messageDelivery id => some (((s.findOp id).map (fun o => (s.strokeNumber o.nib o.stroke))).getD 0, id)
  | _ => none

/-- Takes the first event of the agenda that is due. Messages wait for the end of the cycle (R326). -/
def nextEvent (s : State) : Option (Instr × State) :=
  (takeFirst (fun (e : Nat × Instr) => e.1 ≤ s.cycle && (s.messageKey e.2).isNone) s.agenda).map
    (fun x => (x.1.2, { s with agenda := x.2 }))

/-- Takes the next message that arrives in this cycle: after its instructions, in the order of the senders' stroke numbers
(R326). -/
def nextMessage (s : State) : Option (Instr × State) :=
  let keys := s.agenda.filterMap (fun e => if e.1 ≤ s.cycle then s.messageKey e.2 else none)
  match keys with
  | [] => none
  | x :: r =>
    let y := r.foldl (fun (m : Nat × Nat) z => if z.1 < m.1 || (z.1 = m.1 && z.2 < m.2) then z else m) x
    some (.messageDelivery y.2, { s with agenda := s.agenda.filter (fun e => e.2 != .messageDelivery y.2) })

/-- What follows the slot of sequencer q in the turn of the first nib of `ns` (R12). -/
def afterSlot (ns : List NibId) (q : Seq) : Phase :=
  match q with
  | .s => .turn ns (.issue .a)
  | .a => .turn ns (.issue .x)
  | .x => .turn ns (.issue .w)
  | .w => .turn ns .finish

/-- The slot of sequencer q of the turn of nib n: the phase moves on, and the sequencer is named. -/
def slot (s : State) (n : NibId) (ns : List NibId) (q : Seq) : State :=
  { s with phase := afterSlot (n :: ns) q, cur := ⟨n, s.turnStroke, q⟩ }

end State

/-! ## Placing a word for the next step -/

namespace State

/-- Line 0 of nib 0's well with `w` as its first word, tagged for q, and the word after it as its K word where it is long. -/
def placeLine (q : Seq) (w : Nat) : Nat :=
  let word : BitVec 32 := BitVec.ofNat 32 w
  let tags := 1 + seqTag q * 2 ^ 4 + (if isLong q word then 5 * 2 ^ 8 else 0)
  tags + w % 2 ^ 64 * 2 ^ 32

/-- A context whose sequencer q stands at address 4, alone. -/
def placeCtx (q : Seq) : Ctx :=
  let others : Vector SeqSt 4 := .replicate 4 { SeqSt.reset with ended := true }
  { Ctx.reset with
    cid := 1
    c := { Csrs.reset with xob := 0x60000 }
    seqs := others.set q.idx { SeqSt.reset with pc := 4, checked := true } }

/-- The state with the word placed and its sequencer next to issue (DESIGN CHOICE, assumption 8). -/
def placeWord (s : State) (w : Nat) : State :=
  let q := tableSeq w
  let s : State := { s with mem := Memory.write s.mem (wellPA 0 0) 12 (placeLine q w) }
  let s := s.modStroke 0 0 (fun x => { x with status := .running, ctx := placeCtx q })
  { s with cycle := 0, phase := .turn [0] (.issue q), cur := ⟨0, 0, q⟩, turn := Turn.reset }

end State

end Sys2Proof.Machine
end

