-- ==== Sys2Proof/Machine/Dispatch.lean ====
section
/-! DEFINITION. Sys2Proof/Machine/Dispatch.lean: one arm per instruction, each a direct call of its meaning. -/

namespace Sys2Proof.Machine

open Sys2Proof

/-- The meaning of every instruction (spec/opcode_table.json), by its constructor. -/
def exec (i : Instr) (s : State) : Host.Outcome State Fault Refusal :=
  match i with
  | .resultLanding n k => Sys2Proof.Machine.execResultLanding n k s
  | .handoffEffect n k => Sys2Proof.Machine.execHandoffEffect n k s
  | .lateWriteLanding n k => Sys2Proof.Machine.execLateWriteLanding n k s
  | .takeInterrupt n k => Sys2Proof.Machine.execTakeInterrupt n k s
  | .deliveredCause n k => Sys2Proof.Machine.execDeliveredCause n k s
  | .taskEnd n k => Sys2Proof.Machine.execTaskEnd n k s
  | .wakeAccept n id => Sys2Proof.Machine.execWakeAccept n id s
  | .longAccessComplete id => Sys2Proof.Machine.execLongAccessComplete id s
  | .homeRead id => Sys2Proof.Machine.execHomeRead id s
  | .homeWrite id => Sys2Proof.Machine.execHomeWrite id s
  | .tlbFill n id => Sys2Proof.Machine.execTlbFill n id s
  | .parkResume n k => Sys2Proof.Machine.execParkResume n k s
  | .waiterTableJoin n => Sys2Proof.Machine.execWaiterTableJoin n s
  | .blockFillComplete id => Sys2Proof.Machine.execBlockFillComplete id s
  | .blockDrainComplete id => Sys2Proof.Machine.execBlockDrainComplete id s
  | .inval p x => Sys2Proof.Machine.execInval p x s
  | .invalidationComplete p => Sys2Proof.Machine.execInvalidationComplete p s
  | .faultRecord p va n asid kind => Sys2Proof.Machine.execFaultRecord p va n asid kind s
  | .clockFloor p => Sys2Proof.Machine.execClockFloor p s
  | .lcTick n k => Sys2Proof.Machine.execLcTick n k s
  | .pctl p e x => Sys2Proof.Machine.execPctl p e x s
  | .hostAccess v w va x => Sys2Proof.Machine.execHostAccess v w va x s
  | .sfuService n => Sys2Proof.Machine.execSfuService n s
  | .sfuResult id => Sys2Proof.Machine.execSfuResult id s
  | .matrixDispatch n => Sys2Proof.Machine.execMatrixDispatch n s
  | .slabEnd n => Sys2Proof.Machine.execSlabEnd n s
  | .matrixRowWrite id => Sys2Proof.Machine.execMatrixRowWrite id s
  | .matrixPost id => Sys2Proof.Machine.execMatrixPost id s
  | .weightLoadComplete n => Sys2Proof.Machine.execWeightLoadComplete n s
  | .groupFillWait n => Sys2Proof.Machine.execGroupFillWait n s
  | .chainPanelArrival n dir id => Sys2Proof.Machine.execChainPanelArrival n dir id s
  | .mfaultAbort n k => Sys2Proof.Machine.execMfaultAbort n k s
  | .selectService n => Sys2Proof.Machine.execSelectService n s
  | .selectPost id => Sys2Proof.Machine.execSelectPost id s
  | .landingDecrement n x src => Sys2Proof.Machine.execLandingDecrement n x src s
  | .brushRead n k => Sys2Proof.Machine.execBrushRead n k s
  | .brushLoad n k => Sys2Proof.Machine.execBrushLoad n k s
  | .stepBlockStart n k => Sys2Proof.Machine.execStepBlockStart n k s
  | .writeBack n k => Sys2Proof.Machine.execWriteBack n k s
  | .copyComplete id => Sys2Proof.Machine.execCopyComplete id s
  | .remoteAccess x => Sys2Proof.Machine.execRemoteAccess x s
  | .permitRequest id => Sys2Proof.Machine.execPermitRequest id s
  | .permitAnswer id => Sys2Proof.Machine.execPermitAnswer id s
  | .sendComplete id => Sys2Proof.Machine.execSendComplete id s
  | .messageDelivery id => Sys2Proof.Machine.execMessageDelivery id s
  | .messageStatus id => Sys2Proof.Machine.execMessageStatus id s
  | .folioLoss f => Sys2Proof.Machine.execFolioLoss f s
  | .moduleLoss x => Sys2Proof.Machine.execModuleLoss x s
  | .lossNotice n x => Sys2Proof.Machine.execLossNotice n x s
  | .barrierArrival x => Sys2Proof.Machine.execBarrierArrival x s
  | .barrierWait id => Sys2Proof.Machine.execBarrierWait id s
  | .releaseDelivery id => Sys2Proof.Machine.execReleaseDelivery id s
  | .barrierWatchdog p ix inst => Sys2Proof.Machine.execBarrierWatchdog p ix inst s
  | .barcfg p ix x => Sys2Proof.Machine.execBarcfg p ix x s
  | .swapStop n k => Sys2Proof.Machine.execSwapStop n k s
  | .swapResume n k => Sys2Proof.Machine.execSwapResume n k s
  | .ctxcfg n x => Sys2Proof.Machine.execCtxcfg n x s
  | .timerFire n k => Sys2Proof.Machine.execTimerFire n k s
  | .nksig n x => Sys2Proof.Machine.execNksig n x s
  | .loadBalance x => Sys2Proof.Machine.execLoadBalance x s
  | .debugStop n k => Sys2Proof.Machine.execDebugStop n k s
  | .dctlStop n k => Sys2Proof.Machine.execDctlStop n k s
  | .dctlResume n k => Sys2Proof.Machine.execDctlResume n k s
  | .dctlStep n k => Sys2Proof.Machine.execDctlStep n k s
  | .dctlDrun n k => Sys2Proof.Machine.execDctlDrun n k s
  | .groupStop n k => Sys2Proof.Machine.execGroupStop n k s
  | .grpres p g => Sys2Proof.Machine.execGrpres p g s
  | .histogramBin n b => Sys2Proof.Machine.execHistogramBin n b s
  | .traceSample n k => Sys2Proof.Machine.execTraceSample n k s
  | .tbase p x => Sys2Proof.Machine.execTbase p x s
  | .tsize p x => Sys2Proof.Machine.execTsize p x s
  | .rplctl v x => Sys2Proof.Machine.execRplctl v x s
  | .hostsig v x => Sys2Proof.Machine.execHostsig v x s
  | .qctl v q x => Sys2Proof.Machine.execQctl v q x s
  | .qtail v q x => Sys2Proof.Machine.execQtail v q x s
  | .launchRegister v q pkt => Sys2Proof.Machine.execLaunchRegister v q pkt s
  | .launch id => Sys2Proof.Machine.execLaunch id s
  | .launchComplete id => Sys2Proof.Machine.execLaunchComplete id s
  | .copy id => Sys2Proof.Machine.execCopy id s
  | .waitmem id => Sys2Proof.Machine.execWaitmem id s
  | .waitmemPoll id => Sys2Proof.Machine.execWaitmemPoll id s
  | .signalmem id => Sys2Proof.Machine.execSignalmem id s
  | .cond id => Sys2Proof.Machine.execCond id s
  | .loop id => Sys2Proof.Machine.execLoop id s
  | .capstart id => Sys2Proof.Machine.execCapstart id s
  | .capstop id => Sys2Proof.Machine.execCapstop id s
  | .replayall id => Sys2Proof.Machine.execReplayall id s
  | .fence id => Sys2Proof.Machine.execFence id s
  | .nopPacket id => Sys2Proof.Machine.execNopPacket id s
  | .partCreate id => Sys2Proof.Machine.execPartCreate id s
  | .resize id => Sys2Proof.Machine.execResize id s
  | .ertWrite id => Sys2Proof.Machine.execErtWrite id s
  | .snapshot id => Sys2Proof.Machine.execSnapshot id s
  | .tokenBucketRefill p => Sys2Proof.Machine.execTokenBucketRefill p s
  | .bonctlEn x => Sys2Proof.Machine.execBonctlEn x s
  | .bonctlFence => Sys2Proof.Machine.execBonctlFence s
  | .linkTraining ok rate mods => Sys2Proof.Machine.execLinkTraining ok rate mods s
  | .linkFailure => Sys2Proof.Machine.execLinkFailure s
  | .guestCompletion id status clk => Sys2Proof.Machine.execGuestCompletion id status clk s
  | .portRefusal id => Sys2Proof.Machine.execPortRefusal id s
  | .coherentRead id va clk => Sys2Proof.Machine.execCoherentRead id va clk s
  | .coherentWrite id va x clk => Sys2Proof.Machine.execCoherentWrite id va x clk s
  | .coherentAtomic id va op x y clk => Sys2Proof.Machine.execCoherentAtomic id va op x y clk s
  | .translationRequest id va => Sys2Proof.Machine.execTranslationRequest id va s
  | .invalidationAck p => Sys2Proof.Machine.execInvalidationAck p s
  | .guestFaultRecord id va => Sys2Proof.Machine.execGuestFaultRecord id va s
  | .preemptAck v x => Sys2Proof.Machine.execPreemptAck v x s
  | .guestDeadline c => Sys2Proof.Machine.execGuestDeadline c s
  | .fencedCompletion id => Sys2Proof.Machine.execFencedCompletion id s
  | .thermalCap d => Sys2Proof.Machine.execThermalCap d s
  | .thermalCapRelease d => Sys2Proof.Machine.execThermalCapRelease d s
  | .thermalReset d => Sys2Proof.Machine.execThermalReset d s
  | .powerMeasurement => Sys2Proof.Machine.execPowerMeasurement s
  | .moduleReset => Sys2Proof.Machine.execModuleReset s
  | .attest x => Sys2Proof.Machine.execAttest x s
  | .recoveryControl x => Sys2Proof.Machine.execRecoveryControl x s
  | .registerWrite v off x => Sys2Proof.Machine.execRegisterWrite v off x s
  | .illegalOnDecode w => Sys2Proof.Machine.execIllegalOnDecode w s
  | .cacheCopyDrop n c => Sys2Proof.Machine.execCacheCopyDrop n c s
  | .turnClassCount n k => Sys2Proof.Machine.execTurnClassCount n k s
  | .readyHistogramCount n => Sys2Proof.Machine.execReadyHistogramCount n s
  | .linkPowerState l1 => Sys2Proof.Machine.execLinkPowerState l1 s
  | .dly n => Sys2Proof.Machine.execDly n s
  | .nop => Sys2Proof.Machine.execNop s
  | .waits sl a ix => Sys2Proof.Machine.execWaits sl a ix s
  | .sinc sl => Sys2Proof.Machine.execSinc sl s
  | .sadd sl a => Sys2Proof.Machine.execSadd sl a s
  | .sset sl a => Sys2Proof.Machine.execSset sl a s
  | .sread d sl => Sys2Proof.Machine.execSread d sl s
  | .spend d sl => Sys2Proof.Machine.execSpend d sl s
  | .j x => Sys2Proof.Machine.execJ x s
  | .jal x => Sys2Proof.Machine.execJal x s
  | .jr a => Sys2Proof.Machine.execJr a s
  | .jalr d a => Sys2Proof.Machine.execJalr d a s
  | .jtab ix a l => Sys2Proof.Machine.execJtab ix a l s
  | .bq h x => Sys2Proof.Machine.execBq h x s
  | .bpush a q => Sys2Proof.Machine.execBpush a q s
  | .bpushP a q => Sys2Proof.Machine.execBpushP a q s
  | .beq a b h x => Sys2Proof.Machine.execBeq a b h x s
  | .bne a b h x => Sys2Proof.Machine.execBne a b h x s
  | .blt a b h x => Sys2Proof.Machine.execBlt a b h x s
  | .bge a b h x => Sys2Proof.Machine.execBge a b h x s
  | .bltn a b h x => Sys2Proof.Machine.execBltn a b h x s
  | .bgen a b h x => Sys2Proof.Machine.execBgen a b h x s
  | .sstop => Sys2Proof.Machine.execSstop s
  | .sjoin => Sys2Proof.Machine.execSjoin s
  | .add d a b => Sys2Proof.Machine.execAdd d a b s
  | .sub d a b => Sys2Proof.Machine.execSub d a b s
  | .mul d a b => Sys2Proof.Machine.execMul d a b s
  | .mulh d a b => Sys2Proof.Machine.execMulh d a b s
  | .mulhn d a b => Sys2Proof.Machine.execMulhn d a b s
  | .div d a b => Sys2Proof.Machine.execDiv d a b s
  | .divn d a b => Sys2Proof.Machine.execDivn d a b s
  | .rem d a b => Sys2Proof.Machine.execRem d a b s
  | .remn d a b => Sys2Proof.Machine.execRemn d a b s
  | .and d a b => Sys2Proof.Machine.execAnd d a b s
  | .or d a b => Sys2Proof.Machine.execOr d a b s
  | .xor d a b => Sys2Proof.Machine.execXor d a b s
  | .shl d a b => Sys2Proof.Machine.execShl d a b s
  | .shr d a b => Sys2Proof.Machine.execShr d a b s
  | .sra d a b => Sys2Proof.Machine.execSra d a b s
  | .slt d a b => Sys2Proof.Machine.execSlt d a b s
  | .sltn d a b => Sys2Proof.Machine.execSltn d a b s
  | .min d a b => Sys2Proof.Machine.execMin d a b s
  | .max d a b => Sys2Proof.Machine.execMax d a b s
  | .minn d a b => Sys2Proof.Machine.execMinn d a b s
  | .maxn d a b => Sys2Proof.Machine.execMaxn d a b s
  | .sel d a b => Sys2Proof.Machine.execSel d a b s
  | .clz d a => Sys2Proof.Machine.execClz d a s
  | .ctz d a => Sys2Proof.Machine.execCtz d a s
  | .popc d a => Sys2Proof.Machine.execPopc d a s
  | .rev d a => Sys2Proof.Machine.execRev d a s
  | .bswap d a => Sys2Proof.Machine.execBswap d a s
  | .sextB d a => Sys2Proof.Machine.execSextB d a s
  | .sextH d a => Sys2Proof.Machine.execSextH d a s
  | .sextW d a => Sys2Proof.Machine.execSextW d a s
  | .zextW d a => Sys2Proof.Machine.execZextW d a s
  | .addi d a ix => Sys2Proof.Machine.execAddi d a ix s
  | .andi d a ix => Sys2Proof.Machine.execAndi d a ix s
  | .ori d a ix => Sys2Proof.Machine.execOri d a ix s
  | .xori d a ix => Sys2Proof.Machine.execXori d a ix s
  | .slti d a ix => Sys2Proof.Machine.execSlti d a ix s
  | .shli d a n => Sys2Proof.Machine.execShli d a n s
  | .shri d a n => Sys2Proof.Machine.execShri d a n s
  | .srai d a n => Sys2Proof.Machine.execSrai d a n s
  | .lih d a ix => Sys2Proof.Machine.execLih d a ix s
  | .addpc d ix => Sys2Proof.Machine.execAddpc d ix s
  | .li d k => Sys2Proof.Machine.execLi d k s
  | .bfx d a l p => Sys2Proof.Machine.execBfx d a l p s
  | .bfxs d a l p => Sys2Proof.Machine.execBfxs d a l p s
  | .bfi d a l p => Sys2Proof.Machine.execBfi d a l p s
  | .bnet d a p => Sys2Proof.Machine.execBnet d a p s
  | .bnld p a => Sys2Proof.Machine.execBnld p a s
  | .fadd d a b => Sys2Proof.Machine.execFadd d a b s
  | .fsub d a b => Sys2Proof.Machine.execFsub d a b s
  | .fmul d a b => Sys2Proof.Machine.execFmul d a b s
  | .fmin d a b => Sys2Proof.Machine.execFmin d a b s
  | .fmax d a b => Sys2Proof.Machine.execFmax d a b s
  | .feq d a b => Sys2Proof.Machine.execFeq d a b s
  | .flt d a b => Sys2Proof.Machine.execFlt d a b s
  | .fle d a b => Sys2Proof.Machine.execFle d a b s
  | .fcvtIF d a => Sys2Proof.Machine.execFcvtIF d a s
  | .fcvtFI d a => Sys2Proof.Machine.execFcvtFI d a s
  | .fmadd d a b => Sys2Proof.Machine.execFmadd d a b s
  | .csrr d c => Sys2Proof.Machine.execCsrr d c s
  | .csrw a c => Sys2Proof.Machine.execCsrw a c s
  | .csrs a c => Sys2Proof.Machine.execCsrs a c s
  | .csrc a c => Sys2Proof.Machine.execCsrc a c s
  | .ecall => Sys2Proof.Machine.execEcall s
  | .ebreak => Sys2Proof.Machine.execEbreak s
  | .tret => Sys2Proof.Machine.execTret s
  | .wfm => Sys2Proof.Machine.execWfm s
  | .halt => Sys2Proof.Machine.execHalt s
  | .fenceI => Sys2Proof.Machine.execFenceI s
  | .ctxsw a => Sys2Proof.Machine.execCtxsw a s
  | .ctxst a b => Sys2Proof.Machine.execCtxst a b s
  | .ctxld a b => Sys2Proof.Machine.execCtxld a b s
  | .rqpush a b => Sys2Proof.Machine.execRqpush a b s
  | .rqpop d => Sys2Proof.Machine.execRqpop d s
  | .rqpark a => Sys2Proof.Machine.execRqpark a s
  | .rqstate d a => Sys2Proof.Machine.execRqstate d a s
  | .tmset a b => Sys2Proof.Machine.execTmset a b s
  | .wlock a b => Sys2Proof.Machine.execWlock a b s
  | .wunlock a => Sys2Proof.Machine.execWunlock a s
  | .msg d a b sl => Sys2Proof.Machine.execMsg d a b sl s
  | .mcfg f k => Sys2Proof.Machine.execMcfg f k s
  | .mcfgr a f => Sys2Proof.Machine.execMcfgr a f s
  | .mfmt a => Sys2Proof.Machine.execMfmt a s
  | .mgo sl w c => Sys2Proof.Machine.execMgo sl w c s
  | .mgrp sl a b => Sys2Proof.Machine.execMgrp sl a b s
  | .mwld sl a b k => Sys2Proof.Machine.execMwld sl a b k s
  | .mzero a => Sys2Proof.Machine.execMzero a s
  | .mrd sl a b => Sys2Proof.Machine.execMrd sl a b s
  | .mresume => Sys2Proof.Machine.execMresume s
  | .mstat d => Sys2Proof.Machine.execMstat d s
  | .cpy sl a => Sys2Proof.Machine.execCpy sl a s
  | .cpyTopk sl a => Sys2Proof.Machine.execCpyTopk sl a s
  | .cpyPack sl a => Sys2Proof.Machine.execCpyPack sl a s
  | .xperm sl a b => Sys2Proof.Machine.execXperm sl a b s
  | .xsend sl a b => Sys2Proof.Machine.execXsend sl a b s
  | .xrcfg a => Sys2Proof.Machine.execXrcfg a s
  | .xrpop d a => Sys2Proof.Machine.execXrpop d a s
  | .xrstat d => Sys2Proof.Machine.execXrstat d s
  | .barArr a => Sys2Proof.Machine.execBarArr a s
  | .barWait sl a => Sys2Proof.Machine.execBarWait sl a s
  | .barSync sl a => Sys2Proof.Machine.execBarSync sl a s
  | .xsum sl a b => Sys2Proof.Machine.execXsum sl a b s
  | .selr sl a => Sys2Proof.Machine.execSelr sl a s
  | .selc sl a => Sys2Proof.Machine.execSelc sl a s
  | .sdecl t a => Sys2Proof.Machine.execSdecl t a s
  | .sweep t sl => Sys2Proof.Machine.execSweep t sl s
  | .swake t a => Sys2Proof.Machine.execSwake t a s
  | .sstat d t => Sys2Proof.Machine.execSstat d t s
  | .rpush l => Sys2Proof.Machine.execRpush l s
  | .rpop l => Sys2Proof.Machine.execRpop l s
  | .mark l => Sys2Proof.Machine.execMark l s
  | .gsub sl a => Sys2Proof.Machine.execGsub sl a s
  | .mmod ix a b => Sys2Proof.Machine.execMmod ix a b s
  | .ldB d a m sl ix => Sys2Proof.Machine.execLdB d a m sl ix s
  | .ldH d a m sl ix => Sys2Proof.Machine.execLdH d a m sl ix s
  | .ldW d a m sl ix => Sys2Proof.Machine.execLdW d a m sl ix s
  | .ldD d a m sl ix => Sys2Proof.Machine.execLdD d a m sl ix s
  | .ldBn d a m sl ix => Sys2Proof.Machine.execLdBn d a m sl ix s
  | .ldHn d a m sl ix => Sys2Proof.Machine.execLdHn d a m sl ix s
  | .ldWn d a m sl ix => Sys2Proof.Machine.execLdWn d a m sl ix s
  | .ldV d a m sl ix => Sys2Proof.Machine.execLdV d a m sl ix s
  | .ldQ a m sl ix => Sys2Proof.Machine.execLdQ a m sl ix s
  | .ldgV d a b p e sl => Sys2Proof.Machine.execLdgV d a b p e sl s
  | .ldgQ a b p e sl => Sys2Proof.Machine.execLdgQ a b p e sl s
  | .ldfe d a m sl ix => Sys2Proof.Machine.execLdfe d a m sl ix s
  | .ldff d a m sl ix => Sys2Proof.Machine.execLdff d a m sl ix s
  | .amoAdd d a b sl z => Sys2Proof.Machine.execAmoAdd d a b sl z s
  | .amoAnd d a b sl z => Sys2Proof.Machine.execAmoAnd d a b sl z s
  | .amoOr d a b sl z => Sys2Proof.Machine.execAmoOr d a b sl z s
  | .amoXor d a b sl z => Sys2Proof.Machine.execAmoXor d a b sl z s
  | .amoMin d a b sl z => Sys2Proof.Machine.execAmoMin d a b sl z s
  | .amoMax d a b sl z => Sys2Proof.Machine.execAmoMax d a b sl z s
  | .amoMinn d a b sl z => Sys2Proof.Machine.execAmoMinn d a b sl z s
  | .amoMaxn d a b sl z => Sys2Proof.Machine.execAmoMaxn d a b sl z s
  | .amoSwap d a b sl z => Sys2Proof.Machine.execAmoSwap d a b sl z s
  | .amoCas d a b sl z => Sys2Proof.Machine.execAmoCas d a b sl z s
  | .amoFadd d a b sl => Sys2Proof.Machine.execAmoFadd d a b sl s
  | .ldblk d a sl l => Sys2Proof.Machine.execLdblk d a sl l s
  | .bfree a => Sys2Proof.Machine.execBfree a s
  | .bstat d a => Sys2Proof.Machine.execBstat d a s
  | .bdrain sl a => Sys2Proof.Machine.execBdrain sl a s
  | .stB d a m sl ix => Sys2Proof.Machine.execStB d a m sl ix s
  | .stH d a m sl ix => Sys2Proof.Machine.execStH d a m sl ix s
  | .stW d a m sl ix => Sys2Proof.Machine.execStW d a m sl ix s
  | .stD d a m sl ix => Sys2Proof.Machine.execStD d a m sl ix s
  | .stV d a m sl ix => Sys2Proof.Machine.execStV d a m sl ix s
  | .stQ a m sl ix => Sys2Proof.Machine.execStQ a m sl ix s
  | .stsV d a b p e sl => Sys2Proof.Machine.execStsV d a b p e sl s
  | .stsQ a b p e sl => Sys2Proof.Machine.execStsQ a b p e sl s
  | .stfe d a m sl ix => Sys2Proof.Machine.execStfe d a m sl ix s
  | .stff d a m sl ix => Sys2Proof.Machine.execStff d a m sl ix s
  | .pub sl a => Sys2Proof.Machine.execPub sl a s
  | .vadd d a b p y => Sys2Proof.Machine.execVadd d a b p y s
  | .vsub d a b p y => Sys2Proof.Machine.execVsub d a b p y s
  | .vmul d a b p y => Sys2Proof.Machine.execVmul d a b p y s
  | .vmulh d a b p y => Sys2Proof.Machine.execVmulh d a b p y s
  | .vand d a b p y => Sys2Proof.Machine.execVand d a b p y s
  | .vor d a b p y => Sys2Proof.Machine.execVor d a b p y s
  | .vxor d a b p y => Sys2Proof.Machine.execVxor d a b p y s
  | .vshl d a b p y => Sys2Proof.Machine.execVshl d a b p y s
  | .vshr d a b p y => Sys2Proof.Machine.execVshr d a b p y s
  | .vsra d a b p y => Sys2Proof.Machine.execVsra d a b p y s
  | .vmin d a b p y => Sys2Proof.Machine.execVmin d a b p y s
  | .vmax d a b p y => Sys2Proof.Machine.execVmax d a b p y s
  | .vabs d a p y => Sys2Proof.Machine.execVabs d a p y s
  | .vneg d a p y => Sys2Proof.Machine.execVneg d a p y s
  | .vadds d a b p y => Sys2Proof.Machine.execVadds d a b p y s
  | .vsubs d a b p y => Sys2Proof.Machine.execVsubs d a b p y s
  | .vmov d a p y => Sys2Proof.Machine.execVmov d a p y s
  | .vsel d a b p y => Sys2Proof.Machine.execVsel d a b p y s
  | .vshuf d a b p y => Sys2Proof.Machine.execVshuf d a b p y s
  | .vslide d a b p y => Sys2Proof.Machine.execVslide d a b p y s
  | .vzip d a b p y => Sys2Proof.Machine.execVzip d a b p y s
  | .vunzip d a b p y => Sys2Proof.Machine.execVunzip d a b p y s
  | .vidx d a p y => Sys2Proof.Machine.execVidx d a p y s
  | .vbcast d a p y => Sys2Proof.Machine.execVbcast d a p y s
  | .vext d a b y => Sys2Proof.Machine.execVext d a b y s
  | .vins d a b y => Sys2Proof.Machine.execVins d a b y s
  | .vnot d a p y => Sys2Proof.Machine.execVnot d a p y s
  | .vclz d a p y => Sys2Proof.Machine.execVclz d a p y s
  | .vpopc d a p y => Sys2Proof.Machine.execVpopc d a p y s
  | .vcmpEq d a b p y => Sys2Proof.Machine.execVcmpEq d a b p y s
  | .vcmpNe d a b p y => Sys2Proof.Machine.execVcmpNe d a b p y s
  | .vcmpLt d a b p y => Sys2Proof.Machine.execVcmpLt d a b p y s
  | .vcmpLe d a b p y => Sys2Proof.Machine.execVcmpLe d a b p y s
  | .vcmpGt d a b p y => Sys2Proof.Machine.execVcmpGt d a b p y s
  | .vcmpGe d a b p y => Sys2Proof.Machine.execVcmpGe d a b p y s
  | .vfadd d a b p y => Sys2Proof.Machine.execVfadd d a b p y s
  | .vfsub d a b p y => Sys2Proof.Machine.execVfsub d a b p y s
  | .vfmul d a b p y => Sys2Proof.Machine.execVfmul d a b p y s
  | .vfmin d a b p y => Sys2Proof.Machine.execVfmin d a b p y s
  | .vfmax d a b p y => Sys2Proof.Machine.execVfmax d a b p y s
  | .vfabs d a p y => Sys2Proof.Machine.execVfabs d a p y s
  | .vfneg d a p y => Sys2Proof.Machine.execVfneg d a p y s
  | .vfeq d a b p y => Sys2Proof.Machine.execVfeq d a b p y s
  | .vflt d a b p y => Sys2Proof.Machine.execVflt d a b p y s
  | .vfle d a b p y => Sys2Proof.Machine.execVfle d a b p y s
  | .vfma d a b p y => Sys2Proof.Machine.execVfma d a b p y s
  | .vfms d a b p y => Sys2Proof.Machine.execVfms d a b p y s
  | .vfnma d a b p y => Sys2Proof.Machine.execVfnma d a b p y s
  | .vfnms d a b p y => Sys2Proof.Machine.execVfnms d a b p y s
  | .vcvt d a p y x => Sys2Proof.Machine.execVcvt d a p y x s
  | .vpackBfp d a w p => Sys2Proof.Machine.execVpackBfp d a w p s
  | .vunpackBfp d a w p => Sys2Proof.Machine.execVunpackBfp d a w p s
  | .vredsum d a p y => Sys2Proof.Machine.execVredsum d a p y s
  | .vfredsum d a p y => Sys2Proof.Machine.execVfredsum d a p y s
  | .vredmax d a p y => Sys2Proof.Machine.execVredmax d a p y s
  | .vredmin d a p y => Sys2Proof.Machine.execVredmin d a p y s
  | .vfredmax d a p y => Sys2Proof.Machine.execVfredmax d a p y s
  | .vfredmin d a p y => Sys2Proof.Machine.execVfredmin d a p y s
  | .vredand d a p y => Sys2Proof.Machine.execVredand d a p y s
  | .vredor d a p y => Sys2Proof.Machine.execVredor d a p y s
  | .pand d a b => Sys2Proof.Machine.execPand d a b s
  | .por d a b => Sys2Proof.Machine.execPor d a b s
  | .pxor d a b => Sys2Proof.Machine.execPxor d a b s
  | .pnot d a => Sys2Proof.Machine.execPnot d a s
  | .pset d => Sys2Proof.Machine.execPset d s
  | .pclr d => Sys2Proof.Machine.execPclr d s
  | .pcount d a => Sys2Proof.Machine.execPcount d a s
  | .pfirst d a => Sys2Proof.Machine.execPfirst d a s
  | .vwhile d ix n y => Sys2Proof.Machine.execVwhile d ix n y s
  | .vwidth d => Sys2Proof.Machine.execVwidth d s
  | .sploop x => Sys2Proof.Machine.execSploop x s
  | .vrot n => Sys2Proof.Machine.execVrot n s
  | .vexp2 d a sl p => Sys2Proof.Machine.execVexp2 d a sl p s
  | .vlog2 d a sl p => Sys2Proof.Machine.execVlog2 d a sl p s
  | .vrcp d a sl p => Sys2Proof.Machine.execVrcp d a sl p s
  | .vrsqrt d a sl p => Sys2Proof.Machine.execVrsqrt d a sl p s
  | .vrand d p => Sys2Proof.Machine.execVrand d p s
  | .vpop d => Sys2Proof.Machine.execVpop d s
  | .vpush a => Sys2Proof.Machine.execVpush a s
  | .vtopk d a l k p y => Sys2Proof.Machine.execVtopk d a l k p y s
  | .vbinpos d a p y => Sys2Proof.Machine.execVbinpos d a p y s
  | .vbinclr => Sys2Proof.Machine.execVbinclr s
  | .vbinrd d a => Sys2Proof.Machine.execVbinrd d a s
  | .vsortkv d a l p y => Sys2Proof.Machine.execVsortkv d a l p y s
  | .vaddi d a p y ix => Sys2Proof.Machine.execVaddi d a p y ix s
  | .vshli d a p y ix => Sys2Proof.Machine.execVshli d a p y ix s
  | .vshri d a p y ix => Sys2Proof.Machine.execVshri d a p y ix s
  | .vsrai d a p y ix => Sys2Proof.Machine.execVsrai d a p y ix s
  | .vli d p y ix => Sys2Proof.Machine.execVli d p y ix s
  | .bpAny a h x => Sys2Proof.Machine.execBpAny a h x s
  | .bpNone a h x => Sys2Proof.Machine.execBpNone a h x s
  | .bpAll a h x => Sys2Proof.Machine.execBpAll a h x s

end Sys2Proof.Machine
end

