-- ==== Sys2Proof/Machine/Run.lean ====
section
/-! DEFINITION. Sys2Proof/Machine/Run.lean: executing the instruction that a row of the opcode map and a word make
(02_lines.md R39, order 3). `runRow` is the definition; `runRowFast` is the same function without the constructor in
between, which is what Lean's code generator uses. -/

namespace Sys2Proof.Machine

open Sys2Proof

/-- Executes the instruction of row `r` that the word `w` with K word `k` holds; a reserved value in a field traps
ILLEGAL on decode. -/
noncomputable def runRow (r : Row) (w k : BitVec 32) (s : State) : Res :=
  if (r.build w k).wf then exec (r.build w k) s else exec (.illegalOnDecode w) s

/-- `runRow` without the instruction in between. -/
def runRowFast (r : Row) (w k : BitVec 32) (s : State) : Res :=
  match r with
  | .dly => if (w.extractLsb' 0 16) != 0 then Sys2Proof.Machine.execDly (w.extractLsb' 0 16) s else Sys2Proof.Machine.execIllegalOnDecode w s
  | .nop => Sys2Proof.Machine.execNop s
  | .waits => if (fin4 w 21).val != 0 then Sys2Proof.Machine.execWaits (fin4 w 21) (fin5 w 16) (w.extractLsb' 0 16) s else Sys2Proof.Machine.execIllegalOnDecode w s
  | .sinc => if (fin4 w 21).val != 0 then Sys2Proof.Machine.execSinc (fin4 w 21) s else Sys2Proof.Machine.execIllegalOnDecode w s
  | .sadd => if (fin4 w 21).val != 0 then Sys2Proof.Machine.execSadd (fin4 w 21) (fin5 w 16) s else Sys2Proof.Machine.execIllegalOnDecode w s
  | .sset => if (fin4 w 21).val != 0 then Sys2Proof.Machine.execSset (fin4 w 21) (fin5 w 16) s else Sys2Proof.Machine.execIllegalOnDecode w s
  | .sread => if (fin4 w 16).val != 0 then Sys2Proof.Machine.execSread (fin5 w 21) (fin4 w 16) s else Sys2Proof.Machine.execIllegalOnDecode w s
  | .spend => if (fin4 w 16).val != 0 then Sys2Proof.Machine.execSpend (fin5 w 21) (fin4 w 16) s else Sys2Proof.Machine.execIllegalOnDecode w s
  | .j => Sys2Proof.Machine.execJ (w.extractLsb' 0 24) s
  | .jal => Sys2Proof.Machine.execJal (w.extractLsb' 0 24) s
  | .jr => Sys2Proof.Machine.execJr (fin5 w 16) s
  | .jalr => Sys2Proof.Machine.execJalr (fin5 w 21) (fin5 w 16) s
  | .jtab => Sys2Proof.Machine.execJtab (fin5 w 21) (fin5 w 16) (w.extractLsb' 0 16) s
  | .bq => if (fin2 w 24).val != 3 then Sys2Proof.Machine.execBq (fin2 w 24) (w.extractLsb' 0 24) s else Sys2Proof.Machine.execIllegalOnDecode w s
  | .bpush => Sys2Proof.Machine.execBpush (fin5 w 16) (fin2 w 0) s
  | .bpushP => Sys2Proof.Machine.execBpushP (fin3 w 16) (fin2 w 0) s
  | .beq => if (fin2 w 14).val != 3 then Sys2Proof.Machine.execBeq (fin5 w 21) (fin5 w 16) (fin2 w 14) (w.extractLsb' 0 14) s else Sys2Proof.Machine.execIllegalOnDecode w s
  | .bne => if (fin2 w 14).val != 3 then Sys2Proof.Machine.execBne (fin5 w 21) (fin5 w 16) (fin2 w 14) (w.extractLsb' 0 14) s else Sys2Proof.Machine.execIllegalOnDecode w s
  | .blt => if (fin2 w 14).val != 3 then Sys2Proof.Machine.execBlt (fin5 w 21) (fin5 w 16) (fin2 w 14) (w.extractLsb' 0 14) s else Sys2Proof.Machine.execIllegalOnDecode w s
  | .bge => if (fin2 w 14).val != 3 then Sys2Proof.Machine.execBge (fin5 w 21) (fin5 w 16) (fin2 w 14) (w.extractLsb' 0 14) s else Sys2Proof.Machine.execIllegalOnDecode w s
  | .bltn => if (fin2 w 14).val != 3 then Sys2Proof.Machine.execBltn (fin5 w 21) (fin5 w 16) (fin2 w 14) (w.extractLsb' 0 14) s else Sys2Proof.Machine.execIllegalOnDecode w s
  | .bgen => if (fin2 w 14).val != 3 then Sys2Proof.Machine.execBgen (fin5 w 21) (fin5 w 16) (fin2 w 14) (w.extractLsb' 0 14) s else Sys2Proof.Machine.execIllegalOnDecode w s
  | .sstop => Sys2Proof.Machine.execSstop s
  | .sjoin => Sys2Proof.Machine.execSjoin s
  | .add => Sys2Proof.Machine.execAdd (fin5 w 21) (fin5 w 16) (fin5 w 11) s
  | .sub => Sys2Proof.Machine.execSub (fin5 w 21) (fin5 w 16) (fin5 w 11) s
  | .mul => Sys2Proof.Machine.execMul (fin5 w 21) (fin5 w 16) (fin5 w 11) s
  | .mulh => Sys2Proof.Machine.execMulh (fin5 w 21) (fin5 w 16) (fin5 w 11) s
  | .mulhn => Sys2Proof.Machine.execMulhn (fin5 w 21) (fin5 w 16) (fin5 w 11) s
  | .div => Sys2Proof.Machine.execDiv (fin5 w 21) (fin5 w 16) (fin5 w 11) s
  | .divn => Sys2Proof.Machine.execDivn (fin5 w 21) (fin5 w 16) (fin5 w 11) s
  | .rem => Sys2Proof.Machine.execRem (fin5 w 21) (fin5 w 16) (fin5 w 11) s
  | .remn => Sys2Proof.Machine.execRemn (fin5 w 21) (fin5 w 16) (fin5 w 11) s
  | .and => Sys2Proof.Machine.execAnd (fin5 w 21) (fin5 w 16) (fin5 w 11) s
  | .or => Sys2Proof.Machine.execOr (fin5 w 21) (fin5 w 16) (fin5 w 11) s
  | .xor => Sys2Proof.Machine.execXor (fin5 w 21) (fin5 w 16) (fin5 w 11) s
  | .shl => Sys2Proof.Machine.execShl (fin5 w 21) (fin5 w 16) (fin5 w 11) s
  | .shr => Sys2Proof.Machine.execShr (fin5 w 21) (fin5 w 16) (fin5 w 11) s
  | .sra => Sys2Proof.Machine.execSra (fin5 w 21) (fin5 w 16) (fin5 w 11) s
  | .slt => Sys2Proof.Machine.execSlt (fin5 w 21) (fin5 w 16) (fin5 w 11) s
  | .sltn => Sys2Proof.Machine.execSltn (fin5 w 21) (fin5 w 16) (fin5 w 11) s
  | .min => Sys2Proof.Machine.execMin (fin5 w 21) (fin5 w 16) (fin5 w 11) s
  | .max => Sys2Proof.Machine.execMax (fin5 w 21) (fin5 w 16) (fin5 w 11) s
  | .minn => Sys2Proof.Machine.execMinn (fin5 w 21) (fin5 w 16) (fin5 w 11) s
  | .maxn => Sys2Proof.Machine.execMaxn (fin5 w 21) (fin5 w 16) (fin5 w 11) s
  | .sel => Sys2Proof.Machine.execSel (fin5 w 21) (fin5 w 16) (fin5 w 11) s
  | .clz => Sys2Proof.Machine.execClz (fin5 w 21) (fin5 w 16) s
  | .ctz => Sys2Proof.Machine.execCtz (fin5 w 21) (fin5 w 16) s
  | .popc => Sys2Proof.Machine.execPopc (fin5 w 21) (fin5 w 16) s
  | .rev => Sys2Proof.Machine.execRev (fin5 w 21) (fin5 w 16) s
  | .bswap => Sys2Proof.Machine.execBswap (fin5 w 21) (fin5 w 16) s
  | .sextB => Sys2Proof.Machine.execSextB (fin5 w 21) (fin5 w 16) s
  | .sextH => Sys2Proof.Machine.execSextH (fin5 w 21) (fin5 w 16) s
  | .sextW => Sys2Proof.Machine.execSextW (fin5 w 21) (fin5 w 16) s
  | .zextW => Sys2Proof.Machine.execZextW (fin5 w 21) (fin5 w 16) s
  | .addi => Sys2Proof.Machine.execAddi (fin5 w 21) (fin5 w 16) (w.extractLsb' 0 16) s
  | .andi => Sys2Proof.Machine.execAndi (fin5 w 21) (fin5 w 16) (w.extractLsb' 0 16) s
  | .ori => Sys2Proof.Machine.execOri (fin5 w 21) (fin5 w 16) (w.extractLsb' 0 16) s
  | .xori => Sys2Proof.Machine.execXori (fin5 w 21) (fin5 w 16) (w.extractLsb' 0 16) s
  | .slti => Sys2Proof.Machine.execSlti (fin5 w 21) (fin5 w 16) (w.extractLsb' 0 16) s
  | .shli => Sys2Proof.Machine.execShli (fin5 w 21) (fin5 w 16) (w.extractLsb' 0 6) s
  | .shri => Sys2Proof.Machine.execShri (fin5 w 21) (fin5 w 16) (w.extractLsb' 0 6) s
  | .srai => Sys2Proof.Machine.execSrai (fin5 w 21) (fin5 w 16) (w.extractLsb' 0 6) s
  | .lih => Sys2Proof.Machine.execLih (fin5 w 21) (fin5 w 16) (w.extractLsb' 0 16) s
  | .addpc => Sys2Proof.Machine.execAddpc (fin5 w 21) (w.extractLsb' 0 16) s
  | .li => Sys2Proof.Machine.execLi (fin5 w 21) k s
  | .bfx => if wfField (w.extractLsb' 0 6) (w.extractLsb' 6 6) then Sys2Proof.Machine.execBfx (fin5 w 21) (fin5 w 16) (w.extractLsb' 6 6) (w.extractLsb' 0 6) s else Sys2Proof.Machine.execIllegalOnDecode w s
  | .bfxs => if wfField (w.extractLsb' 0 6) (w.extractLsb' 6 6) then Sys2Proof.Machine.execBfxs (fin5 w 21) (fin5 w 16) (w.extractLsb' 6 6) (w.extractLsb' 0 6) s else Sys2Proof.Machine.execIllegalOnDecode w s
  | .bfi => if wfField (w.extractLsb' 0 6) (w.extractLsb' 6 6) then Sys2Proof.Machine.execBfi (fin5 w 21) (fin5 w 16) (w.extractLsb' 6 6) (w.extractLsb' 0 6) s else Sys2Proof.Machine.execIllegalOnDecode w s
  | .bnet => Sys2Proof.Machine.execBnet (fin5 w 21) (fin5 w 16) (fin3 w 11) s
  | .bnld => Sys2Proof.Machine.execBnld (fin3 w 21) (fin5 w 16) s
  | .fadd => Sys2Proof.Machine.execFadd (fin5 w 21) (fin5 w 16) (fin5 w 11) s
  | .fsub => Sys2Proof.Machine.execFsub (fin5 w 21) (fin5 w 16) (fin5 w 11) s
  | .fmul => Sys2Proof.Machine.execFmul (fin5 w 21) (fin5 w 16) (fin5 w 11) s
  | .fmin => Sys2Proof.Machine.execFmin (fin5 w 21) (fin5 w 16) (fin5 w 11) s
  | .fmax => Sys2Proof.Machine.execFmax (fin5 w 21) (fin5 w 16) (fin5 w 11) s
  | .feq => Sys2Proof.Machine.execFeq (fin5 w 21) (fin5 w 16) (fin5 w 11) s
  | .flt => Sys2Proof.Machine.execFlt (fin5 w 21) (fin5 w 16) (fin5 w 11) s
  | .fle => Sys2Proof.Machine.execFle (fin5 w 21) (fin5 w 16) (fin5 w 11) s
  | .fcvtIF => Sys2Proof.Machine.execFcvtIF (fin5 w 21) (fin5 w 16) s
  | .fcvtFI => Sys2Proof.Machine.execFcvtFI (fin5 w 21) (fin5 w 16) s
  | .fmadd => Sys2Proof.Machine.execFmadd (fin5 w 21) (fin5 w 16) (fin5 w 11) s
  | .csrr => Sys2Proof.Machine.execCsrr (fin5 w 21) (w.extractLsb' 0 12) s
  | .csrw => Sys2Proof.Machine.execCsrw (fin5 w 16) (w.extractLsb' 0 12) s
  | .csrs => Sys2Proof.Machine.execCsrs (fin5 w 16) (w.extractLsb' 0 12) s
  | .csrc => Sys2Proof.Machine.execCsrc (fin5 w 16) (w.extractLsb' 0 12) s
  | .ecall => Sys2Proof.Machine.execEcall s
  | .ebreak => Sys2Proof.Machine.execEbreak s
  | .tret => Sys2Proof.Machine.execTret s
  | .wfm => Sys2Proof.Machine.execWfm s
  | .halt => Sys2Proof.Machine.execHalt s
  | .fenceI => Sys2Proof.Machine.execFenceI s
  | .ctxsw => Sys2Proof.Machine.execCtxsw (fin5 w 16) s
  | .ctxst => Sys2Proof.Machine.execCtxst (fin5 w 16) (fin5 w 11) s
  | .ctxld => Sys2Proof.Machine.execCtxld (fin5 w 16) (fin5 w 11) s
  | .rqpush => Sys2Proof.Machine.execRqpush (fin5 w 16) (fin5 w 11) s
  | .rqpop => Sys2Proof.Machine.execRqpop (fin5 w 21) s
  | .rqpark => Sys2Proof.Machine.execRqpark (fin5 w 16) s
  | .rqstate => Sys2Proof.Machine.execRqstate (fin5 w 21) (fin5 w 16) s
  | .tmset => Sys2Proof.Machine.execTmset (fin5 w 16) (fin5 w 11) s
  | .wlock => Sys2Proof.Machine.execWlock (fin5 w 16) (fin5 w 11) s
  | .wunlock => Sys2Proof.Machine.execWunlock (fin5 w 16) s
  | .msg => if (fin4 w 0).val != 0 then Sys2Proof.Machine.execMsg (fin5 w 21) (fin5 w 16) (fin5 w 11) (fin4 w 0) s else Sys2Proof.Machine.execIllegalOnDecode w s
  | .mcfg => Sys2Proof.Machine.execMcfg (w.extractLsb' 0 12) k s
  | .mcfgr => Sys2Proof.Machine.execMcfgr (fin5 w 16) (w.extractLsb' 0 12) s
  | .mfmt => Sys2Proof.Machine.execMfmt (fin5 w 16) s
  | .mgo => if (fin4 w 21).val != 0 && (fin2 w 2).val != 3 && (fin2 w 0).val != 3 then Sys2Proof.Machine.execMgo (fin4 w 21) (fin2 w 2) (fin2 w 0) s else Sys2Proof.Machine.execIllegalOnDecode w s
  | .mgrp => if (fin4 w 21).val != 0 then Sys2Proof.Machine.execMgrp (fin4 w 21) (fin5 w 16) (fin5 w 11) s else Sys2Proof.Machine.execIllegalOnDecode w s
  | .mwld => if (fin4 w 21).val != 0 then Sys2Proof.Machine.execMwld (fin4 w 21) (fin5 w 16) (fin5 w 11) (fin1 w 0) s else Sys2Proof.Machine.execIllegalOnDecode w s
  | .mzero => Sys2Proof.Machine.execMzero (fin5 w 16) s
  | .mrd => if (fin4 w 21).val != 0 then Sys2Proof.Machine.execMrd (fin4 w 21) (fin5 w 16) (fin5 w 11) s else Sys2Proof.Machine.execIllegalOnDecode w s
  | .mresume => Sys2Proof.Machine.execMresume s
  | .mstat => Sys2Proof.Machine.execMstat (fin5 w 21) s
  | .cpy => if (fin4 w 21).val != 0 then Sys2Proof.Machine.execCpy (fin4 w 21) (fin5 w 16) s else Sys2Proof.Machine.execIllegalOnDecode w s
  | .cpyTopk => if (fin4 w 21).val != 0 then Sys2Proof.Machine.execCpyTopk (fin4 w 21) (fin5 w 16) s else Sys2Proof.Machine.execIllegalOnDecode w s
  | .cpyPack => if (fin4 w 21).val != 0 then Sys2Proof.Machine.execCpyPack (fin4 w 21) (fin5 w 16) s else Sys2Proof.Machine.execIllegalOnDecode w s
  | .xperm => if (fin4 w 21).val != 0 then Sys2Proof.Machine.execXperm (fin4 w 21) (fin5 w 16) (fin5 w 11) s else Sys2Proof.Machine.execIllegalOnDecode w s
  | .xsend => if (fin4 w 21).val != 0 then Sys2Proof.Machine.execXsend (fin4 w 21) (fin5 w 16) (fin5 w 11) s else Sys2Proof.Machine.execIllegalOnDecode w s
  | .xrcfg => Sys2Proof.Machine.execXrcfg (fin5 w 16) s
  | .xrpop => Sys2Proof.Machine.execXrpop (fin5 w 21) (fin5 w 16) s
  | .xrstat => Sys2Proof.Machine.execXrstat (fin5 w 21) s
  | .barArr => Sys2Proof.Machine.execBarArr (fin5 w 16) s
  | .barWait => if (fin4 w 21).val != 0 then Sys2Proof.Machine.execBarWait (fin4 w 21) (fin5 w 16) s else Sys2Proof.Machine.execIllegalOnDecode w s
  | .barSync => if (fin4 w 21).val != 0 then Sys2Proof.Machine.execBarSync (fin4 w 21) (fin5 w 16) s else Sys2Proof.Machine.execIllegalOnDecode w s
  | .xsum => if (fin4 w 21).val != 0 then Sys2Proof.Machine.execXsum (fin4 w 21) (fin5 w 16) (fin5 w 11) s else Sys2Proof.Machine.execIllegalOnDecode w s
  | .selr => if (fin4 w 21).val != 0 then Sys2Proof.Machine.execSelr (fin4 w 21) (fin5 w 16) s else Sys2Proof.Machine.execIllegalOnDecode w s
  | .selc => if (fin4 w 21).val != 0 then Sys2Proof.Machine.execSelc (fin4 w 21) (fin5 w 16) s else Sys2Proof.Machine.execIllegalOnDecode w s
  | .sdecl => Sys2Proof.Machine.execSdecl (fin3 w 21) (fin5 w 16) s
  | .sweep => if (fin4 w 11).val != 0 then Sys2Proof.Machine.execSweep (fin3 w 21) (fin4 w 11) s else Sys2Proof.Machine.execIllegalOnDecode w s
  | .swake => Sys2Proof.Machine.execSwake (fin3 w 21) (fin5 w 16) s
  | .sstat => Sys2Proof.Machine.execSstat (fin5 w 21) (fin3 w 16) s
  | .rpush => Sys2Proof.Machine.execRpush (w.extractLsb' 0 16) s
  | .rpop => Sys2Proof.Machine.execRpop (w.extractLsb' 0 16) s
  | .mark => Sys2Proof.Machine.execMark (w.extractLsb' 0 16) s
  | .gsub => if (fin4 w 21).val != 0 then Sys2Proof.Machine.execGsub (fin4 w 21) (fin5 w 16) s else Sys2Proof.Machine.execIllegalOnDecode w s
  | .mmod => Sys2Proof.Machine.execMmod (fin3 w 21) (fin5 w 16) (fin5 w 11) s
  | .ldB => if wfMode (fin2 w 14) (w.extractLsb' 0 10) && wfLoad (fin5 w 21) (fin5 w 16) (fin2 w 14) then Sys2Proof.Machine.execLdB (fin5 w 21) (fin5 w 16) (fin2 w 14) (fin4 w 10) (w.extractLsb' 0 10) s else Sys2Proof.Machine.execIllegalOnDecode w s
  | .ldH => if wfMode (fin2 w 14) (w.extractLsb' 0 10) && wfLoad (fin5 w 21) (fin5 w 16) (fin2 w 14) then Sys2Proof.Machine.execLdH (fin5 w 21) (fin5 w 16) (fin2 w 14) (fin4 w 10) (w.extractLsb' 0 10) s else Sys2Proof.Machine.execIllegalOnDecode w s
  | .ldW => if wfMode (fin2 w 14) (w.extractLsb' 0 10) && wfLoad (fin5 w 21) (fin5 w 16) (fin2 w 14) then Sys2Proof.Machine.execLdW (fin5 w 21) (fin5 w 16) (fin2 w 14) (fin4 w 10) (w.extractLsb' 0 10) s else Sys2Proof.Machine.execIllegalOnDecode w s
  | .ldD => if wfMode (fin2 w 14) (w.extractLsb' 0 10) && wfLoad (fin5 w 21) (fin5 w 16) (fin2 w 14) then Sys2Proof.Machine.execLdD (fin5 w 21) (fin5 w 16) (fin2 w 14) (fin4 w 10) (w.extractLsb' 0 10) s else Sys2Proof.Machine.execIllegalOnDecode w s
  | .ldBn => if wfMode (fin2 w 14) (w.extractLsb' 0 10) && wfLoad (fin5 w 21) (fin5 w 16) (fin2 w 14) then Sys2Proof.Machine.execLdBn (fin5 w 21) (fin5 w 16) (fin2 w 14) (fin4 w 10) (w.extractLsb' 0 10) s else Sys2Proof.Machine.execIllegalOnDecode w s
  | .ldHn => if wfMode (fin2 w 14) (w.extractLsb' 0 10) && wfLoad (fin5 w 21) (fin5 w 16) (fin2 w 14) then Sys2Proof.Machine.execLdHn (fin5 w 21) (fin5 w 16) (fin2 w 14) (fin4 w 10) (w.extractLsb' 0 10) s else Sys2Proof.Machine.execIllegalOnDecode w s
  | .ldWn => if wfMode (fin2 w 14) (w.extractLsb' 0 10) && wfLoad (fin5 w 21) (fin5 w 16) (fin2 w 14) then Sys2Proof.Machine.execLdWn (fin5 w 21) (fin5 w 16) (fin2 w 14) (fin4 w 10) (w.extractLsb' 0 10) s else Sys2Proof.Machine.execIllegalOnDecode w s
  | .ldV => if wfMode (fin2 w 14) (w.extractLsb' 0 10) && wfLoad (fin5 w 21) (fin5 w 16) (fin2 w 14) then Sys2Proof.Machine.execLdV (fin5 w 21) (fin5 w 16) (fin2 w 14) (fin4 w 10) (w.extractLsb' 0 10) s else Sys2Proof.Machine.execIllegalOnDecode w s
  | .ldQ => if wfMode (fin2 w 14) (w.extractLsb' 0 10) then Sys2Proof.Machine.execLdQ (fin5 w 16) (fin2 w 14) (fin4 w 10) (w.extractLsb' 0 10) s else Sys2Proof.Machine.execIllegalOnDecode w s
  | .ldgV => Sys2Proof.Machine.execLdgV (fin5 w 21) (fin5 w 16) (fin5 w 11) (fin3 w 6) (fin2 w 4) (fin4 w 0) s
  | .ldgQ => Sys2Proof.Machine.execLdgQ (fin5 w 16) (fin5 w 11) (fin3 w 6) (fin2 w 4) (fin4 w 0) s
  | .ldfe => if wfMode (fin2 w 14) (w.extractLsb' 0 10) && wfLoad (fin5 w 21) (fin5 w 16) (fin2 w 14) then Sys2Proof.Machine.execLdfe (fin5 w 21) (fin5 w 16) (fin2 w 14) (fin4 w 10) (w.extractLsb' 0 10) s else Sys2Proof.Machine.execIllegalOnDecode w s
  | .ldff => if wfMode (fin2 w 14) (w.extractLsb' 0 10) && wfLoad (fin5 w 21) (fin5 w 16) (fin2 w 14) then Sys2Proof.Machine.execLdff (fin5 w 21) (fin5 w 16) (fin2 w 14) (fin4 w 10) (w.extractLsb' 0 10) s else Sys2Proof.Machine.execIllegalOnDecode w s
  | .amoAdd => Sys2Proof.Machine.execAmoAdd (fin5 w 21) (fin5 w 16) (fin5 w 11) (fin4 w 5) (fin1 w 4) s
  | .amoAnd => Sys2Proof.Machine.execAmoAnd (fin5 w 21) (fin5 w 16) (fin5 w 11) (fin4 w 5) (fin1 w 4) s
  | .amoOr => Sys2Proof.Machine.execAmoOr (fin5 w 21) (fin5 w 16) (fin5 w 11) (fin4 w 5) (fin1 w 4) s
  | .amoXor => Sys2Proof.Machine.execAmoXor (fin5 w 21) (fin5 w 16) (fin5 w 11) (fin4 w 5) (fin1 w 4) s
  | .amoMin => Sys2Proof.Machine.execAmoMin (fin5 w 21) (fin5 w 16) (fin5 w 11) (fin4 w 5) (fin1 w 4) s
  | .amoMax => Sys2Proof.Machine.execAmoMax (fin5 w 21) (fin5 w 16) (fin5 w 11) (fin4 w 5) (fin1 w 4) s
  | .amoMinn => Sys2Proof.Machine.execAmoMinn (fin5 w 21) (fin5 w 16) (fin5 w 11) (fin4 w 5) (fin1 w 4) s
  | .amoMaxn => Sys2Proof.Machine.execAmoMaxn (fin5 w 21) (fin5 w 16) (fin5 w 11) (fin4 w 5) (fin1 w 4) s
  | .amoSwap => Sys2Proof.Machine.execAmoSwap (fin5 w 21) (fin5 w 16) (fin5 w 11) (fin4 w 5) (fin1 w 4) s
  | .amoCas => Sys2Proof.Machine.execAmoCas (fin5 w 21) (fin5 w 16) (fin5 w 11) (fin4 w 5) (fin1 w 4) s
  | .amoFadd => Sys2Proof.Machine.execAmoFadd (fin5 w 21) (fin5 w 16) (fin5 w 11) (fin4 w 5) s
  | .ldblk => if (fin4 w 6).val != 0 then Sys2Proof.Machine.execLdblk (fin5 w 21) (fin5 w 16) (fin4 w 6) (w.extractLsb' 0 6) s else Sys2Proof.Machine.execIllegalOnDecode w s
  | .bfree => Sys2Proof.Machine.execBfree (fin5 w 16) s
  | .bstat => Sys2Proof.Machine.execBstat (fin5 w 21) (fin5 w 16) s
  | .bdrain => if (fin4 w 21).val != 0 then Sys2Proof.Machine.execBdrain (fin4 w 21) (fin5 w 16) s else Sys2Proof.Machine.execIllegalOnDecode w s
  | .stB => if wfMode (fin2 w 14) (w.extractLsb' 0 10) then Sys2Proof.Machine.execStB (fin5 w 21) (fin5 w 16) (fin2 w 14) (fin4 w 10) (w.extractLsb' 0 10) s else Sys2Proof.Machine.execIllegalOnDecode w s
  | .stH => if wfMode (fin2 w 14) (w.extractLsb' 0 10) then Sys2Proof.Machine.execStH (fin5 w 21) (fin5 w 16) (fin2 w 14) (fin4 w 10) (w.extractLsb' 0 10) s else Sys2Proof.Machine.execIllegalOnDecode w s
  | .stW => if wfMode (fin2 w 14) (w.extractLsb' 0 10) then Sys2Proof.Machine.execStW (fin5 w 21) (fin5 w 16) (fin2 w 14) (fin4 w 10) (w.extractLsb' 0 10) s else Sys2Proof.Machine.execIllegalOnDecode w s
  | .stD => if wfMode (fin2 w 14) (w.extractLsb' 0 10) then Sys2Proof.Machine.execStD (fin5 w 21) (fin5 w 16) (fin2 w 14) (fin4 w 10) (w.extractLsb' 0 10) s else Sys2Proof.Machine.execIllegalOnDecode w s
  | .stV => if wfMode (fin2 w 14) (w.extractLsb' 0 10) then Sys2Proof.Machine.execStV (fin5 w 21) (fin5 w 16) (fin2 w 14) (fin4 w 10) (w.extractLsb' 0 10) s else Sys2Proof.Machine.execIllegalOnDecode w s
  | .stQ => if wfMode (fin2 w 14) (w.extractLsb' 0 10) then Sys2Proof.Machine.execStQ (fin5 w 16) (fin2 w 14) (fin4 w 10) (w.extractLsb' 0 10) s else Sys2Proof.Machine.execIllegalOnDecode w s
  | .stsV => Sys2Proof.Machine.execStsV (fin5 w 21) (fin5 w 16) (fin5 w 11) (fin3 w 6) (fin2 w 4) (fin4 w 0) s
  | .stsQ => Sys2Proof.Machine.execStsQ (fin5 w 16) (fin5 w 11) (fin3 w 6) (fin2 w 4) (fin4 w 0) s
  | .stfe => if wfMode (fin2 w 14) (w.extractLsb' 0 10) then Sys2Proof.Machine.execStfe (fin5 w 21) (fin5 w 16) (fin2 w 14) (fin4 w 10) (w.extractLsb' 0 10) s else Sys2Proof.Machine.execIllegalOnDecode w s
  | .stff => if wfMode (fin2 w 14) (w.extractLsb' 0 10) then Sys2Proof.Machine.execStff (fin5 w 21) (fin5 w 16) (fin2 w 14) (fin4 w 10) (w.extractLsb' 0 10) s else Sys2Proof.Machine.execIllegalOnDecode w s
  | .pub => if (fin4 w 21).val != 0 then Sys2Proof.Machine.execPub (fin4 w 21) (fin5 w 16) s else Sys2Proof.Machine.execIllegalOnDecode w s
  | .vadd => Sys2Proof.Machine.execVadd (fin5 w 21) (fin5 w 16) (fin5 w 11) (fin3 w 8) (fin3 w 4) s
  | .vsub => Sys2Proof.Machine.execVsub (fin5 w 21) (fin5 w 16) (fin5 w 11) (fin3 w 8) (fin3 w 4) s
  | .vmul => Sys2Proof.Machine.execVmul (fin5 w 21) (fin5 w 16) (fin5 w 11) (fin3 w 8) (fin3 w 4) s
  | .vmulh => Sys2Proof.Machine.execVmulh (fin5 w 21) (fin5 w 16) (fin5 w 11) (fin3 w 8) (fin3 w 4) s
  | .vand => Sys2Proof.Machine.execVand (fin5 w 21) (fin5 w 16) (fin5 w 11) (fin3 w 8) (fin3 w 4) s
  | .vor => Sys2Proof.Machine.execVor (fin5 w 21) (fin5 w 16) (fin5 w 11) (fin3 w 8) (fin3 w 4) s
  | .vxor => Sys2Proof.Machine.execVxor (fin5 w 21) (fin5 w 16) (fin5 w 11) (fin3 w 8) (fin3 w 4) s
  | .vshl => Sys2Proof.Machine.execVshl (fin5 w 21) (fin5 w 16) (fin5 w 11) (fin3 w 8) (fin3 w 4) s
  | .vshr => Sys2Proof.Machine.execVshr (fin5 w 21) (fin5 w 16) (fin5 w 11) (fin3 w 8) (fin3 w 4) s
  | .vsra => Sys2Proof.Machine.execVsra (fin5 w 21) (fin5 w 16) (fin5 w 11) (fin3 w 8) (fin3 w 4) s
  | .vmin => Sys2Proof.Machine.execVmin (fin5 w 21) (fin5 w 16) (fin5 w 11) (fin3 w 8) (fin3 w 4) s
  | .vmax => Sys2Proof.Machine.execVmax (fin5 w 21) (fin5 w 16) (fin5 w 11) (fin3 w 8) (fin3 w 4) s
  | .vabs => Sys2Proof.Machine.execVabs (fin5 w 21) (fin5 w 16) (fin3 w 8) (fin3 w 4) s
  | .vneg => Sys2Proof.Machine.execVneg (fin5 w 21) (fin5 w 16) (fin3 w 8) (fin3 w 4) s
  | .vadds => Sys2Proof.Machine.execVadds (fin5 w 21) (fin5 w 16) (fin5 w 11) (fin3 w 8) (fin3 w 4) s
  | .vsubs => Sys2Proof.Machine.execVsubs (fin5 w 21) (fin5 w 16) (fin5 w 11) (fin3 w 8) (fin3 w 4) s
  | .vmov => if decide ((fin4 w 4).val < 12) then Sys2Proof.Machine.execVmov (fin5 w 21) (fin5 w 16) (fin3 w 8) (fin4 w 4) s else Sys2Proof.Machine.execIllegalOnDecode w s
  | .vsel => if decide ((fin4 w 4).val < 12) then Sys2Proof.Machine.execVsel (fin5 w 21) (fin5 w 16) (fin5 w 11) (fin3 w 8) (fin4 w 4) s else Sys2Proof.Machine.execIllegalOnDecode w s
  | .vshuf => if decide ((fin4 w 4).val < 12) then Sys2Proof.Machine.execVshuf (fin5 w 21) (fin5 w 16) (fin5 w 11) (fin3 w 8) (fin4 w 4) s else Sys2Proof.Machine.execIllegalOnDecode w s
  | .vslide => if decide ((fin4 w 4).val < 12) then Sys2Proof.Machine.execVslide (fin5 w 21) (fin5 w 16) (fin5 w 11) (fin3 w 8) (fin4 w 4) s else Sys2Proof.Machine.execIllegalOnDecode w s
  | .vzip => if decide ((fin4 w 4).val < 12) then Sys2Proof.Machine.execVzip (fin5 w 21) (fin5 w 16) (fin5 w 11) (fin3 w 8) (fin4 w 4) s else Sys2Proof.Machine.execIllegalOnDecode w s
  | .vunzip => if decide ((fin4 w 4).val < 12) then Sys2Proof.Machine.execVunzip (fin5 w 21) (fin5 w 16) (fin5 w 11) (fin3 w 8) (fin4 w 4) s else Sys2Proof.Machine.execIllegalOnDecode w s
  | .vidx => Sys2Proof.Machine.execVidx (fin5 w 21) (fin5 w 16) (fin3 w 8) (fin3 w 4) s
  | .vbcast => if decide ((fin4 w 4).val < 12) then Sys2Proof.Machine.execVbcast (fin5 w 21) (fin5 w 16) (fin3 w 8) (fin4 w 4) s else Sys2Proof.Machine.execIllegalOnDecode w s
  | .vext => if decide ((fin4 w 4).val < 12) then Sys2Proof.Machine.execVext (fin5 w 21) (fin5 w 16) (fin5 w 11) (fin4 w 4) s else Sys2Proof.Machine.execIllegalOnDecode w s
  | .vins => if decide ((fin4 w 4).val < 12) then Sys2Proof.Machine.execVins (fin5 w 21) (fin5 w 16) (fin5 w 11) (fin4 w 4) s else Sys2Proof.Machine.execIllegalOnDecode w s
  | .vnot => if decide ((fin4 w 4).val < 12) then Sys2Proof.Machine.execVnot (fin5 w 21) (fin5 w 16) (fin3 w 8) (fin4 w 4) s else Sys2Proof.Machine.execIllegalOnDecode w s
  | .vclz => Sys2Proof.Machine.execVclz (fin5 w 21) (fin5 w 16) (fin3 w 8) (fin3 w 4) s
  | .vpopc => Sys2Proof.Machine.execVpopc (fin5 w 21) (fin5 w 16) (fin3 w 8) (fin3 w 4) s
  | .vcmpEq => Sys2Proof.Machine.execVcmpEq (fin3 w 21) (fin5 w 16) (fin5 w 11) (fin3 w 8) (fin3 w 4) s
  | .vcmpNe => Sys2Proof.Machine.execVcmpNe (fin3 w 21) (fin5 w 16) (fin5 w 11) (fin3 w 8) (fin3 w 4) s
  | .vcmpLt => Sys2Proof.Machine.execVcmpLt (fin3 w 21) (fin5 w 16) (fin5 w 11) (fin3 w 8) (fin3 w 4) s
  | .vcmpLe => Sys2Proof.Machine.execVcmpLe (fin3 w 21) (fin5 w 16) (fin5 w 11) (fin3 w 8) (fin3 w 4) s
  | .vcmpGt => Sys2Proof.Machine.execVcmpGt (fin3 w 21) (fin5 w 16) (fin5 w 11) (fin3 w 8) (fin3 w 4) s
  | .vcmpGe => Sys2Proof.Machine.execVcmpGe (fin3 w 21) (fin5 w 16) (fin5 w 11) (fin3 w 8) (fin3 w 4) s
  | .vfadd => Sys2Proof.Machine.execVfadd (fin5 w 21) (fin5 w 16) (fin5 w 11) (fin3 w 8) (fin1 w 4) s
  | .vfsub => Sys2Proof.Machine.execVfsub (fin5 w 21) (fin5 w 16) (fin5 w 11) (fin3 w 8) (fin1 w 4) s
  | .vfmul => Sys2Proof.Machine.execVfmul (fin5 w 21) (fin5 w 16) (fin5 w 11) (fin3 w 8) (fin1 w 4) s
  | .vfmin => Sys2Proof.Machine.execVfmin (fin5 w 21) (fin5 w 16) (fin5 w 11) (fin3 w 8) (fin1 w 4) s
  | .vfmax => Sys2Proof.Machine.execVfmax (fin5 w 21) (fin5 w 16) (fin5 w 11) (fin3 w 8) (fin1 w 4) s
  | .vfabs => Sys2Proof.Machine.execVfabs (fin5 w 21) (fin5 w 16) (fin3 w 8) (fin1 w 4) s
  | .vfneg => Sys2Proof.Machine.execVfneg (fin5 w 21) (fin5 w 16) (fin3 w 8) (fin1 w 4) s
  | .vfeq => Sys2Proof.Machine.execVfeq (fin3 w 21) (fin5 w 16) (fin5 w 11) (fin3 w 8) (fin1 w 4) s
  | .vflt => Sys2Proof.Machine.execVflt (fin3 w 21) (fin5 w 16) (fin5 w 11) (fin3 w 8) (fin1 w 4) s
  | .vfle => Sys2Proof.Machine.execVfle (fin3 w 21) (fin5 w 16) (fin5 w 11) (fin3 w 8) (fin1 w 4) s
  | .vfma => Sys2Proof.Machine.execVfma (fin5 w 21) (fin5 w 16) (fin5 w 11) (fin3 w 8) (fin1 w 4) s
  | .vfms => Sys2Proof.Machine.execVfms (fin5 w 21) (fin5 w 16) (fin5 w 11) (fin3 w 8) (fin1 w 4) s
  | .vfnma => Sys2Proof.Machine.execVfnma (fin5 w 21) (fin5 w 16) (fin5 w 11) (fin3 w 8) (fin1 w 4) s
  | .vfnms => Sys2Proof.Machine.execVfnms (fin5 w 21) (fin5 w 16) (fin5 w 11) (fin3 w 8) (fin1 w 4) s
  | .vcvt => if (fin4 w 4).val < 12 && (fin4 w 0).val < 12 then Sys2Proof.Machine.execVcvt (fin5 w 21) (fin5 w 16) (fin3 w 8) (fin4 w 4) (fin4 w 0) s else Sys2Proof.Machine.execIllegalOnDecode w s
  | .vpackBfp => if 2 <= (fin5 w 11).val && (fin5 w 11).val <= 8 then Sys2Proof.Machine.execVpackBfp (fin5 w 21) (fin5 w 16) (fin5 w 11) (fin3 w 8) s else Sys2Proof.Machine.execIllegalOnDecode w s
  | .vunpackBfp => if 2 <= (fin5 w 11).val && (fin5 w 11).val <= 8 then Sys2Proof.Machine.execVunpackBfp (fin5 w 21) (fin5 w 16) (fin5 w 11) (fin3 w 8) s else Sys2Proof.Machine.execIllegalOnDecode w s
  | .vredsum => Sys2Proof.Machine.execVredsum (fin5 w 21) (fin5 w 16) (fin3 w 8) (fin3 w 4) s
  | .vfredsum => Sys2Proof.Machine.execVfredsum (fin5 w 21) (fin5 w 16) (fin3 w 8) (fin1 w 4) s
  | .vredmax => Sys2Proof.Machine.execVredmax (fin5 w 21) (fin5 w 16) (fin3 w 8) (fin3 w 4) s
  | .vredmin => Sys2Proof.Machine.execVredmin (fin5 w 21) (fin5 w 16) (fin3 w 8) (fin3 w 4) s
  | .vfredmax => Sys2Proof.Machine.execVfredmax (fin5 w 21) (fin5 w 16) (fin3 w 8) (fin1 w 4) s
  | .vfredmin => Sys2Proof.Machine.execVfredmin (fin5 w 21) (fin5 w 16) (fin3 w 8) (fin1 w 4) s
  | .vredand => Sys2Proof.Machine.execVredand (fin5 w 21) (fin5 w 16) (fin3 w 8) (fin3 w 4) s
  | .vredor => Sys2Proof.Machine.execVredor (fin5 w 21) (fin5 w 16) (fin3 w 8) (fin3 w 4) s
  | .pand => Sys2Proof.Machine.execPand (fin3 w 21) (fin3 w 16) (fin3 w 11) s
  | .por => Sys2Proof.Machine.execPor (fin3 w 21) (fin3 w 16) (fin3 w 11) s
  | .pxor => Sys2Proof.Machine.execPxor (fin3 w 21) (fin3 w 16) (fin3 w 11) s
  | .pnot => Sys2Proof.Machine.execPnot (fin3 w 21) (fin3 w 16) s
  | .pset => Sys2Proof.Machine.execPset (fin3 w 21) s
  | .pclr => Sys2Proof.Machine.execPclr (fin3 w 21) s
  | .pcount => Sys2Proof.Machine.execPcount (fin5 w 21) (fin3 w 16) s
  | .pfirst => Sys2Proof.Machine.execPfirst (fin5 w 21) (fin3 w 16) s
  | .vwhile => if decide ((fin4 w 0).val < 12) then Sys2Proof.Machine.execVwhile (fin3 w 21) (fin5 w 16) (fin5 w 11) (fin4 w 0) s else Sys2Proof.Machine.execIllegalOnDecode w s
  | .vwidth => Sys2Proof.Machine.execVwidth (fin5 w 21) s
  | .sploop => Sys2Proof.Machine.execSploop (w.extractLsb' 0 16) s
  | .vrot => Sys2Proof.Machine.execVrot (fin4 w 0) s
  | .vexp2 => if (fin4 w 11).val != 0 then Sys2Proof.Machine.execVexp2 (fin5 w 21) (fin5 w 16) (fin4 w 11) (fin3 w 8) s else Sys2Proof.Machine.execIllegalOnDecode w s
  | .vlog2 => if (fin4 w 11).val != 0 then Sys2Proof.Machine.execVlog2 (fin5 w 21) (fin5 w 16) (fin4 w 11) (fin3 w 8) s else Sys2Proof.Machine.execIllegalOnDecode w s
  | .vrcp => if (fin4 w 11).val != 0 then Sys2Proof.Machine.execVrcp (fin5 w 21) (fin5 w 16) (fin4 w 11) (fin3 w 8) s else Sys2Proof.Machine.execIllegalOnDecode w s
  | .vrsqrt => if (fin4 w 11).val != 0 then Sys2Proof.Machine.execVrsqrt (fin5 w 21) (fin5 w 16) (fin4 w 11) (fin3 w 8) s else Sys2Proof.Machine.execIllegalOnDecode w s
  | .vrand => Sys2Proof.Machine.execVrand (fin5 w 21) (fin3 w 8) s
  | .vpop => Sys2Proof.Machine.execVpop (fin5 w 21) s
  | .vpush => Sys2Proof.Machine.execVpush (fin5 w 16) s
  | .vtopk => if wfTopk (fin2 w 14) (fin3 w 11) (fin4 w 4) then Sys2Proof.Machine.execVtopk (fin5 w 21) (fin5 w 16) (fin2 w 14) (fin3 w 11) (fin3 w 8) (fin4 w 4) s else Sys2Proof.Machine.execIllegalOnDecode w s
  | .vbinpos => if decide ((fin2 w 4).val < 3) then Sys2Proof.Machine.execVbinpos (fin5 w 21) (fin5 w 16) (fin3 w 8) (fin2 w 4) s else Sys2Proof.Machine.execIllegalOnDecode w s
  | .vbinclr => Sys2Proof.Machine.execVbinclr s
  | .vbinrd => Sys2Proof.Machine.execVbinrd (fin5 w 21) (fin5 w 16) s
  | .vsortkv => if wfSort (fin3 w 11) (fin1 w 4) then Sys2Proof.Machine.execVsortkv (fin5 w 21) (fin5 w 16) (fin3 w 11) (fin3 w 8) (fin1 w 4) s else Sys2Proof.Machine.execIllegalOnDecode w s
  | .vaddi => Sys2Proof.Machine.execVaddi (fin5 w 21) (fin5 w 16) (fin3 w 13) (fin3 w 9) (w.extractLsb' 0 9) s
  | .vshli => if wfShift (fin3 w 9) (w.extractLsb' 0 9) then Sys2Proof.Machine.execVshli (fin5 w 21) (fin5 w 16) (fin3 w 13) (fin3 w 9) (w.extractLsb' 0 9) s else Sys2Proof.Machine.execIllegalOnDecode w s
  | .vshri => if wfShift (fin3 w 9) (w.extractLsb' 0 9) then Sys2Proof.Machine.execVshri (fin5 w 21) (fin5 w 16) (fin3 w 13) (fin3 w 9) (w.extractLsb' 0 9) s else Sys2Proof.Machine.execIllegalOnDecode w s
  | .vsrai => if wfShift (fin3 w 9) (w.extractLsb' 0 9) then Sys2Proof.Machine.execVsrai (fin5 w 21) (fin5 w 16) (fin3 w 13) (fin3 w 9) (w.extractLsb' 0 9) s else Sys2Proof.Machine.execIllegalOnDecode w s
  | .vli => Sys2Proof.Machine.execVli (fin5 w 21) (fin3 w 13) (fin3 w 9) (w.extractLsb' 0 9) s
  | .bpAny => if (fin2 w 14).val != 3 then Sys2Proof.Machine.execBpAny (fin3 w 21) (fin2 w 14) (w.extractLsb' 0 14) s else Sys2Proof.Machine.execIllegalOnDecode w s
  | .bpNone => if (fin2 w 14).val != 3 then Sys2Proof.Machine.execBpNone (fin3 w 21) (fin2 w 14) (w.extractLsb' 0 14) s else Sys2Proof.Machine.execIllegalOnDecode w s
  | .bpAll => if (fin2 w 14).val != 3 then Sys2Proof.Machine.execBpAll (fin3 w 21) (fin2 w 14) (w.extractLsb' 0 14) s else Sys2Proof.Machine.execIllegalOnDecode w s

@[csimp] theorem runRow_eq_fast : @runRow = @runRowFast := by
  funext r w k s
  cases r <;> rfl

end Sys2Proof.Machine
end

