-- ==== Sys2Proof/Machine/Step.lean ====
section
/-! DEFINITION. Sys2Proof/Machine/Step.lean: one step of the machine (DESIGN CHOICE, assumption 6). A cycle is first its device events and
outside inputs, one a step, and then the turn of one stroke position on every nib (R11), nib by nib: the start of the turn,
one step for each thing that takes force; one step for each of S, A, X and W; and the end of the turn. -/

namespace Sys2Proof.Machine

open Sys2Proof

namespace State

/-- The slot of the sequencer that the state names: the word at its PC issues, if it issues one (R12, R30, R39). -/
def stepSlot (s : State) : Res :=
  if s.mayIssue then
    match s.fetch with
    | .idle t => .next t
    | .word t =>
      match rowOf t.cur.q t.word with
      | some r => runRow r t.word (t.code (t.pc.toNat + 4)) t
      | none => exec (.illegalOnDecode t.word) t
  else .next s

/-- The start of the turn of nib n. -/
def stepBegin (s : State) (n : NibId) (ns : List NibId) : Res :=
  let k := s.turnStroke
  if s.resumeDue n k then .next (s.resumeStopped n k)
  else
    match s.beginEvent n k with
    | some (i, t) => exec i { s with turn := t }
    | none => .next { s.openTurn n k with phase := .turn (n :: ns) (.issue .s) }

/-- The end of the turn of nib n. -/
def stepFinish (s : State) (n : NibId) (ns : List NibId) : Res :=
  let i := s.turn.fin
  let t : State := { s with turn := { s.turn with fin := i + 1 } }
  if i = 0 then .next t.closeTurn
  else
    match finishEvent n s.turnStroke i with
    | some e => exec e t
    | none => .next { s with turn := Turn.reset, phase := .turn ns .begin }

/-- The end of a cycle: what the turns have made due acts still in it, then the messages that arrive in it (R326). -/
def stepCycle (s : State) : Res :=
  match s.nextEvent with
  | some (i, s) => exec i s
  | none =>
    match s.nextMessage with
    | some (i, s) => exec i s
    | none => .next { s with cycle := s.cycle + 1, phase := .events }

end State

/-- One step of the machine. -/
def step (s : State) : Host.Outcome State Fault Refusal :=
  match s.phase with
  | .boot => exec .moduleReset s
  | .events =>
    match s.nextEvent with
    | some (i, s) => exec i s
    | none => .next { s with phase := .turn s.liveNibs .begin }
  | .turn [] _ => s.stepCycle
  | .turn (n :: ns) .begin => s.stepBegin n ns
  | .turn (n :: ns) (.issue q) => (s.slot n ns q).stepSlot
  | .turn (n :: ns) .finish => s.stepFinish n ns

/-- The state with the word of an opcode-table row stored where the next step fetches, and its sequencer about to issue
(DESIGN CHOICE, assumption 8). -/
def State.withFetchWord (s : State) (_nbits w : Nat) : State := s.placeWord w

end Sys2Proof.Machine
end

