-- ==== Sys2Proof/Safety.lean ====
section
/-! DEFINITION. Sys2Proof/Safety.lean: the terms in which claims speak: what a run is and when it goes on, the canonical form
of every byte store of the machine, when an instruction passes the checks that come first, and what an instruction that has
issued has changed and has left alone. -/

namespace Sys2Proof.Machine

open Sys2Proof

/-! ## Runs -/

/-- The state after n steps; none where a step has stopped. -/
def State.after (s : State) : Nat → Option State
  | 0 => some s
  | n + 1 =>
    match step s with
    | .next t => t.after n
    | _ => none

/-- The state goes on for ever: no step of its run stops. -/
def State.goesOn (s : State) : Prop := ∀ n, (s.after n).isSome = true

/-- Every byte store of the machine is in canonical form: module memory, host memory, and the two images of R375. -/
structure State.Canonical (s : State) : Prop where
  mem : Memory.wf s.mem = true
  host : Memory.wf s.hostMem = true
  window : Memory.wf s.modu.window = true
  flash : Memory.wf s.modu.flash = true

/-! ## The checks that come first (R39, R61, R62) -/

/-- No source is pending; no destination is pending, nor, for a long-latency instruction, in flight from an earlier turn
(R61, R62). -/
def State.Clear (s : State) (srcs dsts : List RegRef) (long : Bool) : Prop :=
  (∀ x ∈ srcs, s.ctx.r.pending x = false) ∧
  ∀ x ∈ dsts, s.ctx.r.pending x = false ∧
    (long = true → x ≠ .g 0 → x ≠ .p 0 → s.ctx.inFlight s.tn x = false)

/-! ## What an instruction that has issued leaves -/

/-- Nothing differs but the place of the issuing sequencer, the effects in flight, the saved PCs of a trap of this turn, and
the turn's record of who issued. -/
structure SameBut (s t : State) : Prop where
  machine : { t with nibs := s.nibs, turn := s.turn } = s
  nibs : ∀ n, n ≠ s.cur.nib → t.nib n = s.nib n
  nib : { t.nib s.cur.nib with strokes := (s.nib s.cur.nib).strokes } = s.nib s.cur.nib
  strokes : ∀ k, k ≠ s.cur.k → t.stroke s.cur.nib k = s.stroke s.cur.nib k
  stroke : { t.stroke s.cur.nib s.cur.k with ctx := s.ctx } = s.stroke s.cur.nib s.cur.k
  ctx : { t.ctx with inflight := s.ctx.inflight, seqs := s.ctx.seqs, c := s.ctx.c } = s.ctx
  csrs : { t.ctx.c with tpc := s.ctx.c.tpc } = s.ctx.c
  tpc : s.turn.trapped = false → t.ctx.c.tpc = s.ctx.c.tpc
  seqs : ∀ q, q ≠ s.cur.q → t.seqSt q = s.seqSt q
  turn : { t.turn with issued := s.turn.issued, seqs := s.turn.seqs } = s.turn

/-- The instruction of the sequencer that `s` names has issued: its effects `es`, each with its latency, are on their way
(R55, R56), it counts as issued (R339), the sequencer goes on at `f` after losing `extra` turns beside those of R35, and
nothing else has changed. -/
structure IssuedTo (s t : State) (es : List (Nat × Eff)) (f : Found) (extra : Nat) : Prop where
  effects : t.ctx.inflight = s.ctx.inflight ++ es.map (fun e => ⟨s.tn + e.1, s.tn, s.cur.q, e.2⟩)
  marked : t.turn.issued = s.turn.issued ++ [s.cur.q]
  place : t.seqSt s.cur.q = { s.seqSt s.cur.q with
    pc := BitVec.ofNat 64 f.pc, lost := f.lines - 1 + extra, checked := f.ok, thr := none, joining := false, fault := false }
  same : SameBut s t

/-- The instruction has issued, and sequential flow follows (R32, R35). -/
def Issued (s t : State) (es : List (Nat × Eff)) : Prop := IssuedTo s t es s.nextFound 0

/-- The effect of a fixed-latency result for g[d]; none when d = 0 (R44). -/
def gWrite (lat : Nat) (d : Fin 32) (x : Word) : List (Nat × Eff) := if d = 0 then [] else [(lat, .reg (.g d x))]

/-- The effect of a fixed-latency result for p[d]; none when d = 0 (R44). -/
def pWrite (lat : Nat) (d : Fin 8) (x : Pred) : List (Nat × Eff) := if d = 0 then [] else [(lat, .reg (.p d x))]

/-- The effect of a fixed-latency result for the vector register that field d names (R45). -/
def vWrite (s : State) (lat : Nat) (d : Fin 32) (x : Vec) : List (Nat × Eff) := [(lat, .reg (.v (s.vphys d) x))]

/-- Events that are counted at the start of the next turn (R93); none when there are none. -/
def evCount (e : BitVec 8) : List (Nat × Eff) := if e = 0 then [] else [(1, .fpev e)]

/-- The instruction issues in `s` with these effects. -/
def Issues (i : Instr) (s : State) (es : List (Nat × Eff)) : Prop := ∃ t, exec i s = .next t ∧ Issued s t es

/-- The instruction issues in `s` with these effects, and its sequencer goes on at `f` after losing `extra` turns beside those
of R35. -/
def IssuesTo (i : Instr) (s : State) (es : List (Nat × Eff)) (f : Found) (extra : Nat) : Prop :=
  ∃ t, exec i s = .next t ∧ IssuedTo s t es f extra

/-- The target of a taken transfer passes every check of R36: below `xob`, a word address, in a line that passes R30, and a
word of the issuing sequencer. -/
structure State.GoodTarget (s : State) (t : Word) : Prop where
  inside : t.toNat < s.ctx.c.xob.toNat
  aligned : t.toNat % 4 = 0
  line : lineCheck s.code (t.toNat / 32 * 32) = none
  word : t.toNat % 32 / 4 ≠ 0
  tag : tagOf (s.code (t.toNat / 32 * 32)) (t.toNat % 32 / 4) = seqTag s.cur.q

/-- The target of a taken transfer fails a check of R36, and `c` and `v` are the cause and the `tval` of the first that fails:
OVERLAY at or above `xob`, TARGET for an address that is no word address, the failure of its line, and TARGET for a header or a
word of another sequencer. -/
def State.BadTarget (s : State) (t : Word) (c : BitVec 8) (v : Word) : Prop :=
  (s.ctx.c.xob.toNat ≤ t.toNat ∧ c = 0x01 ∧ v = t) ∨
  (t.toNat < s.ctx.c.xob.toNat ∧
    ((t.toNat % 4 ≠ 0 ∧ c = 0x00 ∧ v = t) ∨
      (t.toNat % 4 = 0 ∧
        ((∃ w, lineCheck s.code (t.toNat / 32 * 32) = some (c, w) ∧ v = BitVec.ofNat 64 w) ∨
          (lineCheck s.code (t.toNat / 32 * 32) = none ∧
            (t.toNat % 32 = 0 ∨ tagOf (s.code (t.toNat / 32 * 32)) (t.toNat % 32 / 4) ≠ seqTag s.cur.q) ∧ c = 0x00 ∧ v = t)))))

/-- A local-form read of n bytes at `off` from mode T meets the records of the enabled context cache (R320). -/
def State.recordsShut (s : State) (off n : Nat) : Bool :=
  decide (s.turn.mode = .t) && s.cnib.ctxEn && decide (0x4C000 < off + n)

/-- The place of a sequencer that has been sent to the word at `t` (R37). -/
def placeAt (t : Word) : Found := ⟨t.toNat, 0, true⟩

/-! ## Memory instructions -/

/-- A local-form access of `size` bytes at `ea`, aligned to `al`, passes every check of R147 and waits for nothing: the range
lies in the local window and is aligned, it meets no record area that is closed to mode T, no
block that is filling or draining, and no range that another stroke has locked. -/
structure State.LocalOk (s : State) (ea : Word) (size al : Nat) : Prop where
  inside : ea.toNat + size ≤ 0x60000
  aligned : ea.toNat % al = 0
  records : s.turn.mode ≠ .t ∨ s.cnib.ctxEn = false ∨ ea.toNat + size ≤ 0x4C000
  blocks : ∀ b ∈ s.cnib.blocks, b.state = 2 ∨ b.addr + 256 * b.lines ≤ ea.toNat ∨ ea.toNat + size ≤ b.addr
  locks : ∀ l ∈ s.cnib.locks, l.owner = s.cur.k ∨ l.base + l.len ≤ ea.toNat ∨ ea.toNat + size ≤ l.base

/-- The accesses pass the checks of R147, with their translations in the nib's TLB, and wait for no lock: `rs` are their
pieces. -/
def State.Passes (s : State) (accs : List (State.Acc × Nat)) (rs : List Range) : Prop :=
  s.checkAll accs [] = .ok rs ∧ s.lockedPieces rs = false

/-- An instruction that reaches memory or an engine has issued: its effects are on their way, its sequencer goes on in the
code as it then stands, and no register, CSR, queue, other sequencer or other stroke has changed. What it did to memory, to
clocks and stamps, and to the units that it reaches is said beside this. -/
structure Retired (s t : State) (es : List (Nat × Eff)) : Prop where
  effects : t.ctx.inflight = s.ctx.inflight ++ es.map (fun e => ⟨s.tn + e.1, s.tn, s.cur.q, e.2⟩)
  marked : t.turn.issued = s.turn.issued ++ [s.cur.q]
  pc : (t.seqSt s.cur.q).pc = BitVec.ofNat 64 ({ s with mem := t.mem } : State).nextFound.pc
  lost : (t.seqSt s.cur.q).lost = ({ s with mem := t.mem } : State).nextFound.lines - 1
  seqs : ∀ q, q ≠ s.cur.q → t.seqSt q = s.seqSt q
  regs : t.ctx.r = s.ctx.r
  csrs : { t.ctx.c with tpc := s.ctx.c.tpc } = s.ctx.c
  queues : t.ctx.x = s.ctx.x
  strokes : ∀ n k, (n, k) ≠ (s.cur.nib, s.cur.k) → t.stroke n k = s.stroke n k

/-- An operation of kind `k` under seal `sl` has joined the operations `ops`, and the event `ev` of it is due no earlier than
`lo`. -/
def Sent (s t : State) (ops : List Op) (sl : Fin 16) (k : OpKind) (lo : Nat) (ev : Nat → Instr) : Prop :=
  ∃ o c, t.ops = ops ++ [o] ∧ o.kind = k ∧ o.nib = s.cur.nib ∧ o.cid = s.ctx.cid ∧ o.seq = s.cur.q ∧ o.sl = sl ∧
    o.id = s.nextId ∧ o.performed = false ∧ o.parked = false ∧ lo ≤ c ∧ t.agenda = s.agenda ++ [(c, ev o.id)]

/-- The effect of the post-increment of an address mode (R43, R144). -/
def incWrite (s : State) (a : Fin 32) (m : Fin 4) (i : BitVec 10) (size : Nat) : List (Nat × Eff) :=
  if m = 1 ∨ m = 2 then gWrite 1 a (s.eaNext a m i size) else []

/-- A sequencer waits: nothing issues, and nothing has changed but the turn's note of the wait (R117, R339). -/
def Waits (i : Instr) (s : State) : Prop := exec i s = .next s.waitMsg ∨ exec i s = .next s.waitMem ∨ exec i s = .next s

/-! ## Operations in flight -/

/-- Context `cid` of nib n stands in stroke k, and in no stroke before it. -/
def State.Resides (s : State) (n : NibId) (cid : Nat) (k : Fin 8) : Prop :=
  s.hasCid n k cid = true ∧ ∀ j, j < k → s.hasCid n j cid = false

/-- An operation has landed on stroke k of nib n: the registers are `r` after the post of seal `sl` with clock `clk` (R60,
R130, R187), the operation is gone, and memory, the other strokes and the rest of this one stand. -/
structure Landed (s t : State) (o : Op) (k : Fin 8) (r : Regs) : Prop where
  regs : { (t.stroke o.nib k).ctx.r with seals := r.seals } = r
  post : o.sl ≠ 0 → (t.stroke o.nib k).ctx.r.seals[o.sl] =
    ⟨r.seals[o.sl].count + 1, r.seals[o.sl].pend - 1, Clk.max r.seals[o.sl].clk o.tmax⟩
  seals : ∀ x : Fin 16, x ≠ o.sl → (t.stroke o.nib k).ctx.r.seals[x] = r.seals[x]
  gone : t.ops = s.ops.filter (·.id != o.id)
  mem : t.mem = s.mem
  others : ∀ m j, (m, j) ≠ (o.nib, k) → t.stroke m j = s.stroke m j
  seqs : (t.stroke o.nib k).ctx.seqs = (s.stroke o.nib k).ctx.seqs
  inflight : (t.stroke o.nib k).ctx.inflight = (s.stroke o.nib k).ctx.inflight

/-- The registers with a long-latency result written and its register no longer pending (R60). -/
def Regs.arrive (r : Regs) (w : RegWrite) : Regs := (r.write w).setPending w.ref false

/-! ## Lanes (R196, R197) -/

/-- Lane j of `x`, of z bytes, is `f j`, for every lane. -/
def Lanes (x : Vec) (z : Nat) (f : Nat → Nat) : Prop := ∀ j, j < 128 / z → laneOf x z j = f j

/-- Every bit of lane j of the predicate `x`, of z bits, is `f j`, for every lane. -/
def PredLanes (x : Pred) (z : Nat) (f : Nat → Bool) : Prop := ∀ j k, j < 128 / z → k < z → x.getLsbD (j * z + k) = f j

/-- The events `e` are those that some active lane raises (R93, R197). -/
def EventsOf (e : Ev) (n : Nat) (on : Nat → Bool) (g : Nat → Ev) : Prop :=
  ∀ i, i < 8 → (e.getLsbD i = true ↔ ∃ j, j < n ∧ on j = true ∧ (g j).getLsbD i = true)

/-! ## What a trap leaves -/

/-- The exception of the issuing sequencer has been taken in `t` (R40, R309, R313): the cause, the value, the sequencer and bits
[18:2] of every PC are saved, PPRV and PIE hold what stood before, IE is 0, TS is 1, the mode is K, and every sequencer starts at
`tvec`, `tstatus` and `tvec` as the CSR writes due at T+1 leave them. -/
structure Trapped (s t : State) (cause : BitVec 8) (val at_ : Word) : Prop where
  cause : t.ctx.c.tcause = BitVec.ofNat 64 cause.toNat
  val : t.ctx.c.tval = val
  seq : t.ctx.c.tseq = BitVec.ofNat 64 s.cur.q.idx.val
  tpc : ∀ q : Seq, t.ctx.c.tpc[q.idx] = (if q = s.cur.q then at_ else (s.ctx.seqs[q.idx]).pc) &&& 0x7FFFC
  pprv : getBits t.ctx.c.tstatus 4 2 = s.turn.mode.code
  pie : getBits t.ctx.c.tstatus 1 1 = getBits s.ctx.landTrapWrites.c.tstatus 0 1
  ie : getBits t.ctx.c.tstatus 0 1 = 0
  ts : t.ctx.c.ts = true
  mode : t.ctx.c.mode = .k
  start : ∀ q : Seq, (t.ctx.seqs[q.idx]).pc = s.ctx.landTrapWrites.c.tvec ∧ (t.ctx.seqs[q.idx]).ended = false
  landed : t.ctx.inflight = s.ctx.inflight.filter (·.eff.trapWrite.isNone)
  regs : t.ctx.r = s.ctx.r
  mem : t.mem = s.mem
  rest : { t with nibs := s.nibs, turn := s.turn } = s

/-- A context `c` in mode `m` has taken a trap and become `d`: what R313 saves and sets, with the PCs that it saves, after
the CSR writes due at T+1, and the registers as they were. -/
structure TrapEntry (c d : Ctx) (m : Mode) (cause val seq : Word) : Prop where
  cause : d.c.tcause = cause
  val : d.c.tval = val
  seq : d.c.tseq = seq
  tpc : ∀ q : Fin 4, d.c.tpc[q] = c.seqs[q].pc &&& 0x7FFFC
  pprv : getBits d.c.tstatus 4 2 = m.code
  pie : getBits d.c.tstatus 1 1 = getBits c.landTrapWrites.c.tstatus 0 1
  ie : getBits d.c.tstatus 0 1 = 0
  ts : d.c.ts = true
  mode : d.c.mode = .k
  start : ∀ q : Fin 4, d.seqs[q].pc = c.landTrapWrites.c.tvec ∧ d.seqs[q].ended = false
  regs : d.r = c.r

/-! ## Units outside the strokes -/

/-- A matrix command of kind `k` under seal `sl` with format word `w` has joined the command queue of the issuing nib, with the
shadow bank as it stands, to be dispatched no earlier than 16 cycles later (R231, R235, R236). -/
def Entered (s t : State) (sl : Fin 16) (k : MKind) (w : BitVec 32) : Prop :=
  ∃ c, (t.nib s.cur.nib).matrix = { s.cnib.matrix with queue := s.cnib.matrix.queue ++ [c] } ∧ c.kind = k ∧ c.sl = sl ∧ c.fmt = w ∧
    c.snap = s.ctx.x.shadow ∧ c.issue = s.cycle ∧ c.id = s.nextId ∧ c.cid = s.ctx.cid ∧ c.stroke = s.cur.k ∧ c.seq = s.cur.q ∧
    c.rows = [] ∧ c.slab = 0 ∧ c.done = false ∧ c.running = false ∧ c.newTile = true ∧
    t.agenda = s.agenda ++ [(s.cycle + 16, .matrixDispatch s.cur.nib)] ∧ t.mem = s.mem ∧ t.ops = s.ops

/-- The tile of a command after its slab, with A rows `rows` (R79, R223, R231): the first slab of an output tile starts from +0,
or from what stands there under KEEP. -/
def slabResult (s : State) (n : NibId) (c : MCmd) (rows : List (Nat × Nat)) : BitVec 32768 :=
  (slabTile c.afmt c.bfmt (if c.newTile = true ∧ c.keep = false then 0 else (s.nib n).matrix.tiles[c.acc]) rows
    (s.bImages n c (c.bOff c.slab).toNat)).1

/-- The wait that operation `w` holds is over in `t`: its post is on its way, within 2,048 cycles (R300). -/
def Released (s t : State) (w : Nat) (abandoned : Option Word) (sum : Option (BitVec 512)) : Prop :=
  (∃ c, s.cycle < c ∧ c ≤ s.cycle + 2048 ∧ (c, .releaseDelivery w) ∈ t.agenda) ∧
  ∀ q old r, s.findOp w = some q → q.kind = .barPost old r → ∃ q', t.findOp w = some q' ∧ q'.sl = q.sl ∧
    q'.kind = .barPost abandoned (r.bind (fun y => sum.map (fun x => (y.1, x))))

/-- No packet is offered beyond the ones that the queue has taken (R346). -/
def State.Drained (s : State) (v : Fin 17) (q : Fin 64) : Prop :=
  (s.queue v q).pos = (s.queue v q).tail.toNat % State.slots (s.queue v q)

/-- Packet p, whose own accesses have made `u`, has completed in `t` with this STATUS (R348, R349, R356, R360): its DONE word is
written, if it names one, or its queue halts with CODE 5 where that word cannot be; its interrupt is raised if it asks for one;
and it has left its queue. Beside that only the queue's next packet has been taken, if one is offered. -/
structure Finished (u t : State) (v : Fin 17) (q : Fin 64) (p : Packet) (status : Nat) : Prop where
  silent : (pktDoneAt p.bits).all (fun o => pktField p.bits o 8 == 0) = true → t.mem = u.mem
  done : ∀ o w, pktDoneAt p.bits = some o → pktField p.bits o 8 ≠ 0 →
    u.pktStore v q (BitVec.ofNat 64 (pktField p.bits o 8)) 8 (pktField p.bits 4 4 + status * 2 ^ 32) = some w → t.mem = w.mem
  lost : ∀ o, pktDoneAt p.bits = some o → pktField p.bits o 8 ≠ 0 →
    u.pktStore v q (BitVec.ofNat 64 (pktField p.bits o 8)) 8 (pktField p.bits 4 4 + status * 2 ^ 32) = none →
    t.mem = u.mem ∧ (t.queue v q).err = true ∧ (t.queue v q).code = 5
  gone : p.id < u.nextId → ∀ x ∈ (t.queue v q).pkts, x.id ≠ p.id
  interrupt : t.vfs[v].msix[0] = u.vfs[v].msix[0] + (if (pktField p.bits 1 1).testBit 1 = true then 1 else 0)
  nibs : t.nibs = u.nibs
  ops : t.ops = u.ops
  launches : t.launches = u.launches
  idle : (pktDoneAt p.bits).all (fun o => pktField p.bits o 8 == 0) = true → u.Drained v q → t.hostMem = u.hostMem ∧
    t.agenda = u.agenda ∧ ∃ c, t.queue v q = { u.queue v q with pkts := (u.queue v q).pkts.filter (fun x => x.id != p.id), clk := c }

/-- Nothing but clocks, stamps and the traffic still to be charged differs: what a host agent's read changes (R180, R194, R360). -/
def ClocksOnly (s t : State) : Prop :=
  { t with stamps := s.stamps, parts := s.parts } = s ∧
  ∀ p : Fin 16, { t.parts[p] with hostLc := s.parts[p].hostLc, toll := s.parts[p].toll } = s.parts[p]

/-- No folio of another partition lies in the way of a partition's traffic to and from its folios (R26, R360). -/
def State.NoBorders (s : State) : Prop := ∀ p f : Fin 16, s.partHas p f = true → s.route p f = []

/-- Packet p of virtual function v runs when its event comes: it has started, or the virtual function is not held (R359); and its
accesses wait at no border: they have been paid for, or no folio of another partition lies in their way (R360). -/
structure State.Runs (s : State) (v : Fin 17) (p : Packet) : Prop where
  free : p.started = true ∨ s.vfHeld v = false
  paid : p.paid = true ∨ s.NoBorders
  alone : s.vfs[v].replay = none

/-- As `Runs`, for a packet that changes the partitions, and with them the borders: beside its own steps it makes no access but
that of its DONE word. -/
structure State.RunsAlone (s : State) (v : Fin 17) (p : Packet) : Prop where
  free : p.started = true ∨ s.vfHeld v = false
  paid : p.paid = true ∨ (pktDoneAt p.bits).all (fun o => pktField p.bits o 8 == 0) = true
  alone : s.vfs[v].replay = none

/-- The nib stands as reset left it, but that the firmware has started its kernel from the image `flash`: mode K on stroke 7, every
sequencer at the kernel's entry (R13, R373). What the kernel is made of is a free value (log entry 10). -/
def KernelRuns (flash : List Host.Cell) (b : Nib) : Prop :=
  ∃ c : Ctx, b = { Nib.reset with strokes := Nib.reset.strokes.set 7 { Stroke.reset with status := .running, ctx := c } } ∧
    c.c.mode = .k ∧ c.task = Task.reset ∧ ∀ q : Fin 4, (c.seqs[q]).pc = Config.kernelEntry flash

/-- What byte `off` of a well holds once the firmware has put the kernel's image into it (R373). -/
def kernelByte (flash : List Host.Cell) (off : Nat) : Byte :=
  if off < 0x60000 then BitVec.ofNat 8 (Config.kernelImage flash / 2 ^ (8 * off)) else 0

/-- The folios have been scrubbed (R359): their HBM reads as if never written, their wells hold the kernel's image and nothing else,
and their nibs run their kernels afresh; no other byte and no other nib has changed. -/
structure Scrubbed (s t : State) (fs : List (Fin 16)) : Prop where
  wells : ∀ n off, State.folioOf n ∈ fs → off < 0x80000 → Memory.get t.mem (wellPA n off) = kernelByte s.modu.flash off
  hbm : ∀ f ∈ fs, ∀ a, f.val * 0xC00000000 ≤ a → a < (f.val + 1) * 0xC00000000 → Memory.get t.mem a = 0
  others : ∀ a, (∀ f ∈ fs, (a < f.val * 0xC00000000 ∨ (f.val + 1) * 0xC00000000 ≤ a) ∧
    (a < 0xC000000000 + f.val * 0x80000000 ∨ 0xC000000000 + (f.val + 1) * 0x80000000 ≤ a)) → Memory.get t.mem a = Memory.get s.mem a
  kernels : ∀ n, State.folioOf n ∈ fs → KernelRuns s.modu.flash (t.nib n)
  nibs : ∀ n, State.folioOf n ∉ fs → t.nib n = s.nib n
  ops : t.ops = s.ops.filter (fun o => !fs.contains (State.folioOf o.nib))
  tlbs : ∀ f ∈ fs, t.folios[f].tlb = [] ∧ t.folios[f].coal = []

/-- A clock that a message of the guest may carry (R193): no time that was returned to the guest is above it, and it has risen by
1 for every 512 cycles since the last one. -/
structure State.TrueClock (s : State) (clk : Clk) : Prop where
  returned : Clk.le s.bonnet.lc clk = true
  risen : Clk.le (s.bonnet.seen.1 + BitVec.ofNat 48 ((s.cycle - s.bonnet.seen.2) / 512)) clk = true

/-- The bonnet port once it has heard a message of the guest with this clock (R193). -/
def State.heard (s : State) (clk : Clk) : Bonnet := { s.bonnet with seen := if clk = s.bonnet.seen.1 then s.bonnet.seen else (clk, s.cycle) }

/-- The port has fenced the guest for reason `code` in `t` (R368): the link is down, what the guest held is gone, every
packet that has reached the port will be completed within 2,048 cycles, and the host is told of it for every virtual function of VFMASK. -/
structure Fenced (s t : State) (code : Nat) : Prop where
  port : t.bonnet = { s.bonnet with
    seen := t.bonnet.seen, fenced := true, fcause := BitVec.ofNat 8 code, up := false, rate := 0, mods := 0, l1 := false, tlb := [], parked := []
    deadlines := [] }
  packets : ∀ o ∈ s.ops, o.atPort = true →
    ∃ c, s.cycle ≤ c ∧ c ≤ s.cycle + 2048 ∧ (c, .fencedCompletion o.id) ∈ t.agenda
  told : ∀ v : Fin 16, ∀ w : Fin 17, w.val = v.val + 1 → s.bonnet.vfMask.getLsbD v.val = true →
    t.vfs[w].msix[2] = s.vfs[w].msix[2] + 1
  mem : t.mem = s.mem
  nibs : t.nibs = s.nibs
  ops : t.ops = s.ops

/-- The module has been reset in `t` (R11, R373, R375): nothing of a partition or a queue is left, the host's memory and the image
`flash` stand, and the boot ROM has run: READY with the values of the blob and the nib kernels started, or recovery. -/
structure WasReset (s t : State) (flash : List Host.Cell) : Prop where
  memory : t.hostMem = s.hostMem ∧ t.modu.flash = flash ∧ t.modu.window = []
  silent : Config.imageOk flash = false ∨ Config.blobOk = false → t.mem = [] ∧ t.nibs = []
  wells : Config.imageOk flash = true → Config.blobOk = true → Memory.wf t.mem = true ∧
    (∀ n off, off < 0x80000 → Memory.get t.mem (wellPA n off) =
      if Config.badFolios.getLsbD (State.folioOf n).val then 0 else kernelByte flash off) ∧
    ∀ a, (a < 0xC000000000 ∨ 0xC800000000 ≤ a) → Memory.get t.mem a = 0
  nibs : Config.imageOk flash = true → Config.blobOk = true → ∀ n,
    if Config.badFolios.getLsbD (State.folioOf n).val then t.nib n = Nib.reset else KernelRuns flash (t.nib n)
  parts : t.parts = State.reset.parts
  queues : ∀ v q, t.queue v q = Queue.reset
  ops : t.ops = [] ∧ t.launches = []
  cycle : t.cycle = State.reset.cycle
  boots : Config.imageOk flash = true → Config.blobOk = true → t.modu.ready = true ∧ t.modu.recov = false ∧
    t.modu.modn = Config.moduleNumber ∧ t.modu.fwver = Config.imageVersion flash ∧ t.modu.key = Config.deviceKey ∧
    t.bonnet.en = (Config.guestPermitted && Config.guestDie == some Config.blobGuest) ∧
    ∀ f : Fin 16, t.folios[f].unavailable = Config.badFolios.getLsbD f.val
  socket : t.bonnet.present = Config.guestDie.isSome
  power : (powerWindow, .powerMeasurement) ∈ t.agenda
  recovers : Config.imageOk flash = false ∨ Config.blobOk = false → t.modu.ready = false ∧ t.modu.recov = true

end Sys2Proof.Machine
end

