-- ==== Sys2Proof/Certificates/Slice0/Obligations.lean ====
section
/-! DEFINITION. Sys2Proof/Certificates/Slice0/Obligations.lean: the statements for the provers. A statement that speaks of several
families of one kind is the conjunction of its parts, each a definition of its own under `Claims` with the rules that it
formalises. Values and behaviours that are the model's choice are named by their entry of the assumption log. -/

open Sys2Proof Sys2Proof.Machine

/-- R105, R107, R110, R111, R131, R145, R199, R227, R235, R252 and the worked encodings of the spec: the words that the spec
writes out decode to the instructions that it writes beside them. -/
def Obligations.SpecWordsDecode : Prop :=
  decode .s 0x44A40010 0 = some (.addi 5 4 16) ∧
  decode .s 0x64E00000 0x01234567 = some (.li 7 0x01234567) ∧
  decode .s 0x5CE789AB 0 = some (.lih 7 7 0x89AB) ∧
  decode .s 0x68A620C8 0 = some (.bfi 5 6 3 8) ∧
  decode .s 0x690500C8 0 = some (.bfx 8 5 3 8) ∧
  decode .s 0x692510CC 0 = some (.bfxs 9 5 3 12) ∧
  decode .s 0x70440000 0 = some (.bnld 2 4) ∧
  decode .s 0x6CC51000 0 = some (.bnet 6 5 2) ∧
  decode .w 0xC0274000 0 = some (.mmod 1 7 8) ∧
  decode .w 0x9C868081 0 = some (.stV 4 6 2 0 0x81) ∧
  decode .x 0x64312002 0 = some (.vwhile 1 17 4 2) ∧
  decode .x 0x44423921 0 = some (.vsel 2 2 7 1 2) ∧
  decode .x 0x54C60192 0 = some (.vcvt 6 6 1 9 2) ∧
  decode .s 0xAC200000 0 = some (.mgo 1 0 0) ∧
  decode .s 0xE0470001 0 = some (.selc 2 7) ∧
  decode .a 0xA8053030 0 = some (.ldgQ 5 6 0 3 0) ∧
  decode .s 0xC51BE000 0 = some (.xperm 8 27 28) ∧
  decode .x 0x20060007 0 = some (.bpushP 6 3) ∧
  decode .s 0x801A11C2 0 = some (.csrw 26 0x1C2) ∧
  decode .s 0x9AFA580A 0 = some (.msg 23 26 11 10) ∧
  decode .x 0x7E510261 0 = some (.vbinpos 18 17 2 2) ∧
  decode .s 0xE8002800 0 = some (.sweep 0 5)

/-- R41 to R54: for every instruction with an encoding, with every operand at every value that the encoding admits, reading
the words that the encoder writes gives the instruction back, on each sequencer that has it. -/
def Obligations.DecodeInvertsEncode : Prop :=
  ∀ (q : Seq) (i : Instr), i.wellFormed q = true → decode q (encode i) (encodeK i) = some i

/-- R41, R42, R47: a word that decodes is the one word of its instruction: the decoder drops no bit of it, so that no two
words mean the same. -/
def Claims.EncodeInvertsDecode : Prop :=
  ∀ (q : Seq) (w k : BitVec 32) (i : Instr), decode q w k = some i →
    encode i = w ∧ (isLong q w = true → encodeK i = k) ∧ q ∈ i.seqs

/-- R47: majors 0x00 and 0x3F are reserved in all four opcode spaces: no word of them decodes. -/
def Claims.ReservedMajorsDoNotDecode : Prop :=
  ∀ (q : Seq) (w k : BitVec 32), w.toNat / 2 ^ 26 = 0x00 ∨ w.toNat / 2 ^ 26 = 0x3F → decode q w k = none

/-- A word that decodes is the one word of its instruction, and reserved majors do not decode. -/
def Obligations.DecodingIsExact : Prop :=
  Claims.EncodeInvertsDecode ∧ Claims.ReservedMajorsDoNotDecode

/-- R12, R30, R39, R41, R47: the slot of sequencer q of nib n is that of the stroke whose turn it is, and only names it. A
sequencer that may issue, has no turn to lose and stands in a line that has passed its checks executes what the word at its
PC, with the next word as its K word, decodes to; an encoding that decodes to nothing, or to an instruction whose operands the
spec does not allow, is refused by the ILLEGAL check. Where the line has still to be searched, the same holds of the word at
which the search stops, in a state that differs in nothing but the place of that sequencer. The order of the slots of a cycle
is the model's choice, log entry 6; that fetch reads the well as it stands is log entry 4, and that a word already checked
issues above a lowered xob is log entry 57. -/
def Obligations.StepRunsTheDecodedWord : Prop :=
  ∀ (s : State) (n : NibId) (ns : List NibId) (q : Seq), s.phase = .turn (n :: ns) (.issue q) →
    let u := s.slot n ns q
    let wordAt := fun a => BitVec.ofNat 32 (Memory.read s.mem (wellPA n a) 4)
    u.cur = ⟨n, Fin.ofNat 8 s.cycle, q⟩ ∧ { u with phase := s.phase, cur := s.cur } = s ∧
    (u.mayIssue = true → (u.seqSt q).lost = 0 → (u.seqSt q).checked = true → u.fetch = .word u) ∧
    (u.mayIssue = true → ∀ t, u.fetch = .word t →
      let w := wordAt t.pc.toNat
      let k := wordAt (t.pc.toNat + 4)
      t.mem = s.mem ∧ t.cur = u.cur ∧ t.ctx.r = u.ctx.r ∧ t.ctx.inflight = u.ctx.inflight ∧
      (∀ i, decode q w k = some i → i.wf = true → step s = exec i t) ∧
      (decode q w k = none ∨ (∃ i, decode q w k = some i ∧ i.wf = false) → step s = exec (.illegalOnDecode w) t))

/-- R8, R39, R311: every instruction, in every state, answers a next state: what the spec calls a fault is an exception that
the machine takes, and the machine never stops. -/
def Obligations.EveryStepAnswersNext : Prop :=
  (∀ (i : Instr) (s : State), ∃ t, exec i s = .next t) ∧ ∀ s : State, s.goesOn

/-- R4, R140: every store of bytes keeps its canonical form under every step: addresses rise, and no listed byte is the one
that an unlisted address reads as. The canonical form is the model's own; log entry 1 says what an unlisted byte reads as. -/
def Obligations.StepKeepsMemoryCanonical : Prop :=
  ∀ s t : State, s.Canonical → step s = .next t → t.Canonical

/-- The state after module reset has the canonical form that every step keeps. The canonical form is the model's own, log
entry 1. -/
def Obligations.ResetIsCanonical : Prop := State.reset.Canonical ∧ ∃ t, step State.reset = .next t ∧ t.Canonical

/-- R21, R44, R89, R92, R129, R179, R190, R229, R299, R309, R346, R372: what module reset leaves, for the values that the spec
gives: no stroke holds a task, and the registers with a Reset column stand at it. -/
def Obligations.ResetValues : Prop :=
  let s := State.reset
  (∀ n k, (s.stroke n k).status = .vacant ∧ (s.stroke n k).ctx.c.tstatus = 0 ∧ (s.stroke n k).ctx.c.fpev = 0 ∧
    (s.stroke n k).ctx.c.rngctr = 0 ∧ (s.stroke n k).ctx.c.mfault = 0 ∧ (s.stroke n k).ctx.c.vrb = 0 ∧
    (s.stroke n k).ctx.c.tvec = 0 ∧ (s.stroke n k).ctx.c.xob = 0) ∧
  (∀ n k (x : Fin 16), (s.stroke n k).ctx.r.seals[x] = ⟨0, 0, 0⟩) ∧
  (∀ n, (s.nib n).tmpend = 0 ∧ (s.nib n).ctxEn = false) ∧
  (∀ p : Fin 16, s.parts[p].lease = 0x40 ∧ s.parts[p].barwd = 0x18 ∧ ∀ e : Fin 16, s.parts[p].pubs[e].pages = 1) ∧
  s.modu.capk = 0x10 ∧ s.modu.ready = false

/-- R40, R313: an exception raised by an instruction of a stroke in mode T or K, outside trap service, is taken: cause, value,
sequencer and all four PCs are saved, the mode becomes K with interrupts off, and every sequencer starts at `tvec`, with
`tvec` and `tstatus` as the CSR writes due at T+1 leave them: these land first, and what the trap saves stands over them. -/
def Claims.ExceptionIsTaken : Prop :=
  ∀ (s : State) (cause : BitVec 8) (val at_ : Word), s.turn.trapped = false → s.turn.tret = false → s.turn.halt = none →
    s.turn.mode ≠ .d → s.ctx.c.ts = false → Trapped s (s.raiseAt cause val at_) cause val at_

/-- R39, R47: an encoding that is not valid traps ILLEGAL, with the word as `tval` and the PC of the word saved. -/
def Claims.IllegalWordTraps : Prop :=
  ∀ (s : State) (w : BitVec 32), s.turn.trapped = false → s.turn.tret = false → s.turn.halt = none → s.turn.mode ≠ .d →
    s.ctx.c.ts = false →
    ∃ t, exec (.illegalOnDecode w) s = .next t ∧ Trapped s t 0x02 (w.setWidth 64) s.pc

/-- R40: only the first exception of a turn is taken: an instruction that would trap after it leaves no effect. R314: an
exception in trap service stops the stroke with reason DOUBLE; R334: one in mode D stops it with reason DTRAP and its cause
kept in DPC0. Neither changes the saved trap registers. R314, R315: in the turn of a `tret` it is the status before the `tret`
that says whether the stroke is in trap service, and where it is not, the exception is taken as if S had not returned. -/
def Claims.LaterAndNestedExceptions : Prop :=
  ∀ (s : State) (cause : BitVec 8) (val at_ : Word),
    (s.turn.trapped = true → s.raiseAt cause val at_ = s) ∧
    (s.turn.trapped = false → s.turn.halt = none → s.turn.mode ≠ .d → s.turn.tret = false → s.ctx.c.ts = true →
      s.raiseAt cause val at_ = { s with turn := { s.turn with halt := some 4 } }) ∧
    (s.turn.trapped = false → s.turn.halt = none → s.turn.mode ≠ .d → s.turn.tret = true → getBits s.turn.status 8 1 = 1 →
      s.raiseAt cause val at_ = { s with turn := { s.turn with halt := some 4 } }) ∧
    (s.turn.trapped = false → s.turn.halt = none → s.turn.mode ≠ .d → s.turn.tret = true → getBits s.turn.status 8 1 = 0 →
      ∃ u, Trapped u (s.raiseAt cause val at_) cause val at_ ∧ u.ctx.c.tstatus = s.turn.status ∧ u.ctx.c.mode = s.turn.mode ∧
        u.ctx.seqs = s.turn.seqs ∧ u.ctx.r = s.ctx.r ∧ u.mem = s.mem ∧ u.turn.mode = s.turn.mode) ∧
    (s.turn.trapped = false → s.turn.halt = none → s.turn.mode = .d →
      let t := s.raiseAt cause val at_
      t.turn.halt = some 7 ∧ t.ctx = s.ctx ∧ t.mem = s.mem ∧ getBits t.cst.dbg.keptPc[0] 0 8 = cause.toNat)

/-- Taking an exception: what it saves, where it goes, and what happens to a second one. An exception in the turn of a tret
finds the status before the tret: the model's choice, log entry 48. -/
def Obligations.TrapsAreTaken : Prop :=
  Claims.ExceptionIsTaken ∧ Claims.IllegalWordTraps ∧ Claims.LaterAndNestedExceptions

/-- R39, R61, R62, R63: the first pending source, in the order of the rule, traps UWREAD with its number; with no source
pending, the first destination that is pending traps PENDWRITE, and for a long-latency instruction so does one with a result
still to land, in flight from an earlier turn or in a late-write record that counts; g0 and p0 are no destinations. -/
def Claims.PendingRegistersTrap : Prop :=
  ∀ (s : State) (srcs dsts : List RegRef) (long : Bool) (body : State → State),
    let flies := fun (x : RegRef) => (∃ l ∈ s.ctx.inflight, ∃ w, l.eff = .reg w ∧ w.ref = x ∧ l.issued < s.tn) ∨
      (s.ctx.resumed ≠ none ∧ ∃ w ∈ s.ctx.lateWrites, w.reg.ref = x)
    let blocks := fun (x : RegRef) => s.ctx.r.pending x = true ∨ (long = true ∧ x ≠ .g 0 ∧ x ≠ .p 0 ∧ flies x)
    (∀ pre x post, srcs = pre ++ x :: post → (∀ y ∈ pre, s.ctx.r.pending y = false) → s.ctx.r.pending x = true →
      s.guarded srcs dsts long body = .next (s.raise 0x0B x.tval)) ∧
    (∀ pre x post, (∀ y ∈ srcs, s.ctx.r.pending y = false) → dsts = pre ++ x :: post → (∀ y ∈ pre, ¬ blocks y) → blocks x →
      s.guarded srcs dsts long body = .next (s.raise 0x0C x.tval)) ∧
    ((∀ y ∈ srcs, s.ctx.r.pending y = false) → (∀ y ∈ dsts, ¬ blocks y) → s.guarded srcs dsts long body = .next (body s))

/-- R28, R29, R30: the checks on a line, in their order: its version, reserved tags, K words out of place, long instructions
without their K word; each with the address that it reports, the lowest one. -/
def Claims.LineChecks : Prop :=
  ∀ (rd : Nat → BitVec 32) (l : Nat),
    let tag := fun k => (rd l).toNat / 2 ^ (4 * k) % 16
    let long := fun k => (tag k = 1 ∨ tag k = 2 ∨ tag k = 4) ∧ (rd (l + 4 * k)).toNat / 2 ^ 26 = 0x19 ∨
      tag k = 1 ∧ (rd (l + 4 * k)).toNat / 2 ^ 26 = 0x28
    let stray := fun k => 1 ≤ k ∧ k ≤ 7 ∧ tag k = 5 ∧ (k = 1 ∨ ¬ long (k - 1))
    let cut := fun k => 1 ≤ k ∧ k ≤ 7 ∧ long k ∧ (k = 7 ∨ tag (k + 1) ≠ 5)
    ((rd l).toNat % 16 ≠ 1 → lineCheck rd l = some (0x0A, l)) ∧
    ((rd l).toNat % 16 = 1 → ∀ k, 1 ≤ k → k ≤ 7 →
      (6 ≤ tag k → (∀ j, 1 ≤ j → j < k → tag j < 6) → lineCheck rd l = some (0x0A, l + 4 * k)) ∧
      ((∀ j, 1 ≤ j → j ≤ 7 → tag j < 6) →
        (stray k → (∀ j < k, ¬ stray j) → lineCheck rd l = some (0x02, l + 4 * k)) ∧
        ((∀ j, ¬ stray j) →
          (cut k → (∀ j < k, ¬ cut j) → lineCheck rd l = some (0x02, l + 4 * k)) ∧
          ((∀ j, ¬ cut j) → lineCheck rd l = none))))

/-- R36: a taken transfer whose target fails a check traps at the transfer with the cause and `tval` of the first check that
fails, and no link is written and nothing is popped: OVERLAY at or above `xob`, TARGET for an address that is no word, the
failure of its line, and TARGET for a header or another stream's word. -/
def Claims.BadTargetsTrap : Prop :=
  ∀ (s : State) (c : BitVec 8) (v : Word),
    (∀ x : BitVec 24, s.BadTarget (s.pc + BitVec.ofInt 64 (4 * x.toInt)) c v →
      exec (.j x) s = .next (s.raise c v) ∧
      (s.Clear [] [.g 1] false → exec (.jal x) s = .next (s.raise c v)) ∧
      ∀ h e r, s.ctx.x.oq[s.cur.q.idx] = e :: r → e.bit = true → exec (.bq h x) s = .next (s.raise c v)) ∧
    (∀ d a : Fin 32, s.BadTarget (s.rg a) c v →
      (s.Clear [.g a] [] false → exec (.jr a) s = .next (s.raise c v)) ∧
      (s.Clear [.g a] [.g d] false → exec (.jalr d a) s = .next (s.raise c v))) ∧
    (∀ (a b : Fin 32) (h : Fin 4) (x : BitVec 14), s.BadTarget (s.pc + BitVec.ofInt 64 (4 * x.toInt)) c v →
      s.Clear [.g a, .g b] [] false →
      (s.rg a = s.rg b → exec (.beq a b h x) s = .next (s.raise c v)) ∧
      (s.rg a ≠ s.rg b → exec (.bne a b h x) s = .next (s.raise c v)) ∧
      ((s.rg a).toInt < (s.rg b).toInt → exec (.blt a b h x) s = .next (s.raise c v)) ∧
      ((s.rg b).toInt ≤ (s.rg a).toInt → exec (.bge a b h x) s = .next (s.raise c v)) ∧
      ((s.rg a).toNat < (s.rg b).toNat → exec (.bltn a b h x) s = .next (s.raise c v)) ∧
      ((s.rg b).toNat ≤ (s.rg a).toNat → exec (.bgen a b h x) s = .next (s.raise c v))) ∧
    (∀ (p : Fin 8) (h : Fin 4) (x : BitVec 14), s.BadTarget (s.pc + BitVec.ofInt 64 (4 * x.toInt)) c v →
      s.Clear [.p p] [] false →
      ((∃ i < 128, (s.rp p).getLsbD i = true) → exec (.bpAny p h x) s = .next (s.raise c v)) ∧
      ((∀ i < 128, (s.rp p).getLsbD i = false) → exec (.bpNone p h x) s = .next (s.raise c v)) ∧
      ((∀ i < 128, (s.rp p).getLsbD i = true) → exec (.bpAll p h x) s = .next (s.raise c v))) ∧
    (∀ (i a : Fin 32) (l : BitVec 16) (ea : Word), s.Clear [.g i, .g a] [] false → (s.rg i).toNat < l.toNat →
      ea = s.rg a + s.rg i * 4 → ea.toNat ≤ 0x5FFFC → ea.toNat % 4 = 0 → s.recordsShut ea.toNat 4 = false →
      s.lockedOut ea.toNat 4 = false →
      s.BadTarget (s.pc + (BitVec.ofNat 32 (s.wellRead ea.toNat 4)).signExtend 64 * 4) c v →
      exec (.jtab i a l) s = .next (s.raise c v)) ∧
    (∀ x : BitVec 16, s.BadTarget (s.pc + BitVec.ofInt 64 (4 * x.toInt)) c v → s.Clear [] [.p 4, .p 5, .p 6, .p 7] false →
      getBits s.ctx.c.spctl 0 16 ≠ 0 ∨ getBits s.ctx.c.spctl 16 16 ≠ 0 → exec (.sploop x) s = .next (s.raise c v))

/-- Pending registers, bad lines and bad targets trap with the cause and value of the first check that fails. -/
def Obligations.OperandAndTargetChecks : Prop :=
  Claims.PendingRegistersTrap ∧ Claims.LineChecks ∧ Claims.BadTargetsTrap

/-- R97, R98, R101, R102, R103, R104: the binary operators and the immediates write the result of their rule to g[d] after
their latency, and change nothing else. -/
def Claims.IntegerResults : Prop :=
  ∀ (s : State) (d a b : Fin 32) (x y c : Word), x = s.rg a → y = s.rg b → c = s.rg d →
    (s.Clear [.g a, .g b] [.g d] false → ∀ r ∈ ([
      (.add d a b, 1, BitVec.ofNat 64 (x.toNat + y.toNat)),
      (.sub d a b, 1, BitVec.ofInt 64 (x.toInt - y.toInt)),
      (.mul d a b, 2, BitVec.ofInt 64 (x.toInt * y.toInt)),
      (.mulh d a b, 2, ((x.signExtend 128 * y.signExtend 128).extractLsb' 64 64)),
      (.mulhn d a b, 2, ((x.setWidth 128 * y.setWidth 128).extractLsb' 64 64)),
      (.and d a b, 1, x &&& y), (.or d a b, 1, x ||| y), (.xor d a b, 1, x ^^^ y),
      (.shl d a b, 1, x <<< (y.extractLsb' 0 6).toNat),
      (.shr d a b, 1, x >>> (y.extractLsb' 0 6).toNat),
      (.sra d a b, 1, x.sshiftRight (y.extractLsb' 0 6).toNat),
      (.slt d a b, 1, if x.toInt < y.toInt then 1 else 0),
      (.sltn d a b, 1, if x.toNat < y.toNat then 1 else 0),
      (.min d a b, 1, BitVec.ofInt 64 (min x.toInt y.toInt)),
      (.max d a b, 1, BitVec.ofInt 64 (max x.toInt y.toInt)),
      (.minn d a b, 1, BitVec.ofNat 64 (min x.toNat y.toNat)),
      (.maxn d a b, 1, BitVec.ofNat 64 (max x.toNat y.toNat))] : List (Instr × Nat × Word)),
      Issues r.1 s (gWrite r.2.1 d r.2.2)) ∧
    (s.Clear [.g d, .g a, .g b] [.g d] false → Issues (.sel d a b) s (gWrite 1 d (if c = 0 then y else x))) ∧
    (s.Clear [.g a] [.g d] false →
      (∀ i : BitVec 16, ∀ r ∈ ([
        (.addi d a i, BitVec.ofInt 64 (x.toInt + i.toInt)), (.andi d a i, x &&& i.setWidth 64),
        (.ori d a i, x ||| i.setWidth 64), (.xori d a i, x ^^^ i.setWidth 64),
        (.slti d a i, if x.toInt < i.toInt then 1 else 0),
        (.lih d a i, BitVec.ofNat 64 (x.toNat * 2 ^ 16 + i.toNat))] : List (Instr × Word)),
        Issues r.1 s (gWrite 1 d r.2)) ∧
      ∀ n : BitVec 6, ∀ r ∈ ([(.shli d a n, x <<< n.toNat), (.shri d a n, x >>> n.toNat),
        (.srai d a n, x.sshiftRight n.toNat)] : List (Instr × Word)), Issues r.1 s (gWrite 1 d r.2))

/-- R59, R98, R100: while no earlier divide is in flight, the four divide operators write quotient or remainder, truncated
toward zero, after 6 turns; division by zero and signed overflow give the values of R70 and count INTDIV. -/
def Claims.DivideResults : Prop :=
  ∀ (s : State) (d a b : Fin 32) (x y : Word), x = s.rg a → y = s.rg b → s.Clear [.g a, .g b] [.g d] false →
    s.divideInFlight = false →
    (y = 0 → ∀ r ∈ ([(.div d a b, BitVec.allOnes 64), (.divn d a b, BitVec.allOnes 64), (.rem d a b, x), (.remn d a b, x)] :
      List (Instr × Word)), Issues r.1 s ((6, .reg (.g d r.2)) :: evCount evINTDIV)) ∧
    (y ≠ 0 → ∀ r ∈ ([(.divn d a b, BitVec.ofNat 64 (x.toNat / y.toNat)), (.remn d a b, BitVec.ofNat 64 (x.toNat % y.toNat))] :
      List (Instr × Word)), Issues r.1 s [(6, .reg (.g d r.2))]) ∧
    (y ≠ 0 → ¬ (x.toInt = -2 ^ 63 ∧ y.toInt = -1) →
      ∀ r ∈ ([(.div d a b, BitVec.ofInt 64 (x.toInt.tdiv y.toInt)), (.rem d a b, BitVec.ofInt 64 (x.toInt.tmod y.toInt))] :
      List (Instr × Word)), Issues r.1 s [(6, .reg (.g d r.2))]) ∧
    (x.toInt = -2 ^ 63 → y.toInt = -1 → ∀ r ∈ ([(.div d a b, x), (.rem d a b, 0)] : List (Instr × Word)),
      Issues r.1 s ((6, .reg (.g d r.2)) :: evCount evINTDIV))

/-- R59: a divide that issues while an earlier divide of the stroke has not landed traps ILLEGAL with its word. -/
def Claims.DivideInFlightTraps : Prop :=
  ∀ (s : State) (d a b : Fin 32), s.Clear [.g a, .g b] [.g d] false → s.divideInFlight = true →
    ∀ i ∈ [Instr.div d a b, .divn d a b, .rem d a b, .remn d a b],
      exec i s = .next (s.raise 0x02 (s.word.setWidth 64))

/-- The binary integer operators, the immediates, and the divides with their corner cases. -/
def Obligations.IntegersAndDivides : Prop :=
  Claims.IntegerResults ∧ Claims.DivideResults ∧ Claims.DivideInFlightTraps

/-- R99: the unary operators: counts of zero and one bits, reversals, and extensions. -/
def Obligations.UnaryResults : Prop :=
  ∀ (s : State) (d a : Fin 32) (x : Word), x = s.rg a → s.Clear [.g a] [.g d] false →
    (∃ n ≤ 64, Issues (.clz d a) s (gWrite 1 d (BitVec.ofNat 64 n)) ∧ (∀ i, 64 - n ≤ i → x.getLsbD i = false) ∧
      (n < 64 → x.getLsbD (63 - n) = true)) ∧
    (∃ n ≤ 64, Issues (.ctz d a) s (gWrite 1 d (BitVec.ofNat 64 n)) ∧ (∀ i < n, x.getLsbD i = false) ∧
      (n < 64 → x.getLsbD n = true)) ∧
    Issues (.popc d a) s (gWrite 1 d (BitVec.ofNat 64 ((List.finRange 64).filter (fun i => x.getLsbD i.val)).length)) ∧
    (∃ y, Issues (.rev d a) s (gWrite 1 d y) ∧ ∀ i < 64, y.getLsbD i = x.getLsbD (63 - i)) ∧
    (∃ y, Issues (.bswap d a) s (gWrite 1 d y) ∧ ∀ i < 8, y.extractLsb' (8 * i) 8 = x.extractLsb' (8 * (7 - i)) 8) ∧
    ∀ r ∈ ([(.sextB d a, (x.setWidth 8).signExtend 64), (.sextH d a, (x.setWidth 16).signExtend 64),
      (.sextW d a, (x.setWidth 32).signExtend 64), (.zextW d a, (x.setWidth 32).setWidth 64)] : List (Instr × Word)),
      Issues r.1 s (gWrite 1 d r.2)

/-- R105, R106, R107: `li` gives the sign-extended K word, `addpc` its own address plus four times the immediate, and the bit-
field instructions take out and put in the field of `l` + 1 bits at `p`. -/
def Claims.ConstantsAndBitFields : Prop :=
  ∀ (s : State) (d a : Fin 32),
    (s.Clear [] [.g d] false →
      (∀ k : BitVec 32, Issues (.li d k) s (gWrite 1 d (BitVec.ofInt 64 k.toInt))) ∧
      ∀ i : BitVec 16, Issues (.addpc d i) s (gWrite 1 d (s.pc + BitVec.ofInt 64 (4 * i.toInt)))) ∧
    ∀ l p : BitVec 6, l.toNat + 1 + p.toNat ≤ 64 →
      (s.Clear [.g a] [.g d] false →
        Issues (.bfx d a l p) s (gWrite 1 d (((s.rg a).extractLsb' p.toNat (l.toNat + 1)).setWidth 64)) ∧
        Issues (.bfxs d a l p) s (gWrite 1 d (((s.rg a).extractLsb' p.toNat (l.toNat + 1)).signExtend 64))) ∧
      (s.Clear [.g d, .g a] [.g d] false → ∃ y, Issues (.bfi d a l p) s (gWrite 1 d y) ∧
        ∀ i < 64, y.getLsbD i = if p.toNat ≤ i ∧ i < p.toNat + l.toNat + 1 then (s.rg a).getLsbD (i - p.toNat)
          else (s.rg d).getLsbD i)

/-- R109, R110: `bnet` builds each bit from the pattern that stands at its issue: a copy, a complement or a constant. -/
def Claims.BitNetworkRoutes : Prop :=
  ∀ (s : State) (d a : Fin 32) (p : Fin 8), s.Clear [.g a] [.g d] false →
    ∃ y, Issues (.bnet d a p) s (gWrite 1 d y) ∧ ∀ i < 64,
      let e := s.ctx.r.patterns[p].extractLsb' (8 * i) 8
      let b := (s.rg a).getLsbD (e.toNat % 64)
      y.getLsbD i = (match e.toNat / 64 with
        | 0 => b
        | 1 => !b
        | 2 => false
        | _ => true)

/-- Constants, bit fields and bit networks. -/
def Obligations.ConstantsFieldsAndNetworks : Prop :=
  Claims.ConstantsAndBitFields ∧ Claims.BitNetworkRoutes

/-- R113, R114, R115, R116: scalar floating point reads the low 32 bits of its sources, and its result lands zero-extended
after 2 turns, comparisons after 1, with the events of the operation counted at t+1. -/
def Claims.ScalarFloatResults : Prop :=
  ∀ (s : State) (d a b : Fin 32) (x y z : Nat), x = (s.rg a).toNat % 2 ^ 32 → y = (s.rg b).toNat % 2 ^ 32 →
    z = (s.rg d).toNat % 2 ^ 32 →
    (s.Clear [.g a, .g b] [.g d] false →
      (∀ r ∈ ([(.fadd d a b, fmt32.addB x y), (.fsub d a b, fmt32.subB x y), (.fmul d a b, fmt32.mulB x y),
          (.fmin d a b, fmt32.minB false x y), (.fmax d a b, fmt32.minB true x y)] : List (Instr × Nat × Ev)),
        Issues r.1 s (gWrite 2 d (BitVec.ofNat 64 (r.2.1 % 2 ^ 32)) ++ evCount r.2.2)) ∧
      ∀ r ∈ ([(.feq d a b, fmt32.cmpB 0 x y), (.flt d a b, fmt32.cmpB 1 x y), (.fle d a b, fmt32.cmpB 2 x y)] :
          List (Instr × Bool × Ev)),
        Issues r.1 s (gWrite 1 d (if r.2.1 then 1 else 0) ++ evCount r.2.2)) ∧
    (s.Clear [.g a] [.g d] false →
      (∀ r, r = (fmt32.value x).toInt (-(2 ^ 63)) (2 ^ 63 - 1) →
        Issues (.fcvtIF d a) s (gWrite 2 d (BitVec.ofInt 64 r.1) ++ evCount r.2)) ∧
      ∀ r, r = fmt32.ofIntB (s.rg a).toInt →
        Issues (.fcvtFI d a) s (gWrite 2 d (BitVec.ofNat 64 (r.1 % 2 ^ 32)) ++ evCount r.2)) ∧
    (s.Clear [.g d, .g a, .g b] [.g d] false → ∀ r, r = fmt32.fmaB false false x y z →
      Issues (.fmadd d a b) s (gWrite 2 d (BitVec.ofNat 64 (r.1 % 2 ^ 32)) ++ evCount r.2))

/-- R71, R72, R73, R74, R385: rounding to a format is one rounding of the exact value to nearest, ties to even. A finite
non-zero value has, in the last place of its binade (2^q, no smaller than that of the format's subnormal numbers), a nearest
integer multiple, the even one of two as near; the result is that number with the value's sign, or, beyond the largest finite
number, infinity, or the largest finite number where the format has no infinity or the conversion saturates. INEXACT is
counted when the number differs from the value, OVERFLOW beyond the range, SAT when it is clamped, UNDERFLOW when an inexact
result would lie below the smallest normal number with the exponent unbounded. -/
def Claims.RoundingIsToNearestEven : Prop :=
  ∀ f ∈ [fmt32, fmt16, fmtE4, fmtE5], ∀ (sat neg : Bool) (m : Nat) (e : Int), m ≠ 0 →
    let x : ℚ := (m : ℚ) * 2 ^ e
    let top : ℚ := match f.value f.maxFin with
      | .fin _ n g => (n : ℚ) * 2 ^ g
      | _ => 0
    let r := f.round false sat (.fin neg m e)
    let nearest := fun (d : Nat) (q : Int) => x < 2 ^ (f.fbits + 1) * 2 ^ q ∧ |(d : ℚ) * 2 ^ q - x| ≤ 2 ^ q / 2 ∧
      (|(d : ℚ) * 2 ^ q - x| = 2 ^ q / 2 → d % 2 = 0)
    (∃ (d : Nat) (q : Int), f.qmin ≤ q ∧ (q = f.qmin ∨ 2 ^ f.fbits * 2 ^ q ≤ x) ∧ nearest d q ∧
      ((d : ℚ) * 2 ^ q ≤ top →
        (∃ n g, f.value r.1 = .fin neg n g ∧ (n : ℚ) * 2 ^ g = d * 2 ^ q) ∧
        (r.2.getLsbD 5 = true ↔ (d : ℚ) * 2 ^ q ≠ x) ∧ r.2.getLsbD 3 = false ∧ r.2.getLsbD 6 = false) ∧
      (top < (d : ℚ) * 2 ^ q →
        f.value r.1 = (if f.hasInf && !sat then .inf neg else f.value (f.sign neg + f.maxFin)) ∧
        r.2.getLsbD 5 = true ∧ r.2.getLsbD 3 = true ∧ r.2.getLsbD 6 = (!f.hasInf || sat))) ∧
    ∃ (d : Nat) (q : Int), 2 ^ f.fbits * 2 ^ q ≤ x ∧ nearest d q ∧
      (r.2.getLsbD 4 = true ↔ r.2.getLsbD 5 = true ∧ (d : ℚ) * 2 ^ q < 2 ^ (1 - (f.bias : Int)))

/-- R72, R73, R75, R113, R114, R116: the scalar FP32 operations and their lanes: NaN operands give the canonical NaN,
infinities behave as limits with INVALID where none exists, and otherwise the exact sum, difference, product or product-sum is
rounded once; an exact zero is -0 only where both terms are -0. Comparisons and the smaller and greater follow the order of
the values; in the latter -0 lies below +0 and a NaN gives way to a number. -/
def Claims.FloatOperationsAreExact : Prop :=
  let val : Fv → ℚ := fun v => match v with
    | .fin s m e => (if s then -1 else 1) * (m : ℚ) * 2 ^ e
    | _ => 0
  let neg : Fv → Bool := fun v => match v with
    | .fin s _ _ => s
    | .inf s => s
    | .nan => false
  let lt : Fv → Fv → Bool := fun v w => match v, w with
    | .inf s, .inf t => s && !t
    | .inf s, _ => s
    | _, .inf t => !t
    | _, _ => decide (val v < val w)
  ∀ f ∈ [fmt32, fmt16], ∀ a b c : Nat,
    let x := f.value a
    let y := f.value b
    let z := f.value c
    -- the result r is the exact value w, whose zero is negative where `zero` says so, rounded once
    let once := fun (r : Nat × Ev) (w : ℚ) (zero : Bool) =>
      (w = 0 → r = (f.sign zero, 0)) ∧
      (w ≠ 0 → ∃ (s : Bool) (m : Nat) (e : Int), val (.fin s m e) = w ∧ m ≠ 0 ∧ r = f.round false false (.fin s m e))
    let nan := fun (r : Nat × Ev) (e : Ev) => r = (f.nan, e)
    let infinite := fun (r : Nat × Ev) (s : Bool) => f.value r.1 = .inf s ∧ r.2 = 0
    let isInf := fun (v : Fv) => v = .inf true ∨ v = .inf false
    let isFin := fun (v : Fv) => ∃ s m e, v = .fin s m e
    ((x = .nan ∨ y = .nan) → nan (f.addB a b) 0 ∧ nan (f.subB a b) 0 ∧ nan (f.mulB a b) 0) ∧
    (x ≠ .nan → y ≠ .nan →
      (isInf x ∧ isInf y ∧ neg x ≠ neg y → nan (f.addB a b) evINVALID) ∧
      (isInf x ∧ isInf y ∧ neg x = neg y → nan (f.subB a b) evINVALID ∧ infinite (f.addB a b) (neg x)) ∧
      (isInf x ∧ isFin y → infinite (f.addB a b) (neg x) ∧ infinite (f.subB a b) (neg x)) ∧
      (isFin x ∧ isInf y → infinite (f.addB a b) (neg y) ∧ infinite (f.subB a b) (!neg y)) ∧
      ((isInf x ∧ isFin y ∧ val y = 0 ∨ isFin x ∧ val x = 0 ∧ isInf y) → nan (f.mulB a b) evINVALID) ∧
      ((isInf x ∧ (isInf y ∨ val y ≠ 0) ∨ isInf y ∧ val x ≠ 0) → infinite (f.mulB a b) (neg x != neg y))) ∧
    (isFin x → isFin y →
      once (f.addB a b) (val x + val y) (val x = 0 && val y = 0 && neg x && neg y) ∧
      once (f.subB a b) (val x - val y) (val x = 0 && val y = 0 && neg x && !neg y) ∧
      once (f.mulB a b) (val x * val y) (neg x != neg y) ∧
      ∀ np nc : Bool, isFin z →
        let p := (if np then -1 else 1) * (val x * val y)
        let w := (if nc then -1 else 1) * val z
        once (f.fmaB np nc a b c) (p + w) (p = 0 && w = 0 && (neg x != neg y) != np && neg z != nc)) ∧
    (∀ np nc : Bool,
      let r := f.fmaB np nc a b c
      let sp : Bool := (neg x != neg y) != np
      let void := isInf x ∧ isFin y ∧ val y = 0 ∨ isFin x ∧ val x = 0 ∧ isInf y
      (x = .nan ∨ y = .nan ∨ z = .nan → nan r 0) ∧
      (x ≠ .nan → y ≠ .nan → z ≠ .nan →
        (void → nan r evINVALID) ∧
        ((isInf x ∨ isInf y) ∧ ¬ void → (isInf z ∧ (neg z != nc) ≠ sp → nan r evINVALID) ∧
          (isFin z ∨ (neg z != nc) = sp → infinite r sp)) ∧
        (isFin x → isFin y → isInf z → infinite r (neg z != nc)))) ∧
    -- comparisons: eq 0, lt 1, le 2
    ((x = .nan ∨ y = .nan) → f.cmpB 0 a b = (false, 0) ∧ f.cmpB 1 a b = (false, evINVALID) ∧ f.cmpB 2 a b = (false, evINVALID)) ∧
    (x ≠ .nan → y ≠ .nan →
      f.cmpB 0 a b = (!lt x y && !lt y x, 0) ∧ f.cmpB 1 a b = (lt x y, 0) ∧ f.cmpB 2 a b = (!lt y x, 0)) ∧
    (a < 2 ^ f.bits → b < 2 ^ f.bits → ∀ big : Bool,
      (x = .nan → y = .nan → nan (f.minB big a b) evINVALID) ∧
      (x = .nan → y ≠ .nan → f.minB big a b = (b, 0)) ∧ (x ≠ .nan → y = .nan → f.minB big a b = (a, 0)) ∧
      (x ≠ .nan → y ≠ .nan →
        let low : Bool := lt x y || (!lt y x && neg x && !neg y)
        f.minB big a b = (if low != big then a else b, 0)))

/-- R74: a float converts to an integer by dropping its fraction: within the range the result is the value truncated toward
zero, with INEXACT when a fraction was dropped; outside it the nearer end, with SAT, and a NaN gives 0 with INVALID. An
integer converts to FP32 by one rounding. That SAT is then counted alone is the model's choice, log entry 47. -/
def Claims.ConversionsRoundOnce : Prop :=
  (∀ (neg : Bool) (m : Nat) (e lo hi : Int), lo ≤ 0 → 0 ≤ hi →
    let v : Fv := .fin neg m e
    let n : Int := (if neg then -1 else 1) * ⌊(m : ℚ) * 2 ^ e⌋
    (lo ≤ n → n ≤ hi → (v.toInt lo hi).1 = n ∧ (v.toInt lo hi).2 = (if (m : ℚ) * 2 ^ e = ⌊(m : ℚ) * 2 ^ e⌋ then 0 else evINEXACT)) ∧
    (n < lo → v.toInt lo hi = (lo, evSAT)) ∧ (hi < n → v.toInt lo hi = (hi, evSAT)) ∧
    Fv.toInt .nan lo hi = (0, evINVALID) ∧ Fv.toInt (.inf false) lo hi = (hi, evSAT) ∧ Fv.toInt (.inf true) lo hi = (lo, evSAT)) ∧
  ∀ n : Int, fmt32.ofIntB 0 = (0, 0) ∧ (n ≠ 0 → fmt32.ofIntB n = fmt32.round false false (.fin (n < 0) n.natAbs 0))

/-- Scalar FP32: results, latencies and events, and the values that the operations round to. The events of a conversion out of
range are log entry 47. -/
def Obligations.ScalarFloatResults : Prop :=
  Claims.ScalarFloatResults ∧ Claims.RoundingIsToNearestEven ∧ Claims.FloatOperationsAreExact ∧ Claims.ConversionsRoundOnce

/-- R36, R37, R38, R119: `j`, `jal`, `jr` and `jalr` with a target that passes its checks go to it, `jr` and `jalr` losing one
turn, and `jal` and `jalr` send the address of what sequential flow gives next to their link register. -/
def Claims.JumpsReachTheirTargets : Prop :=
  ∀ (s : State) (d a : Fin 32) (x : BitVec 24),
    (s.GoodTarget (s.pc + BitVec.ofInt 64 (4 * x.toInt)) →
      IssuesTo (.j x) s [] (placeAt (s.pc + BitVec.ofInt 64 (4 * x.toInt))) 0 ∧
      (s.Clear [] [.g 1] false →
        IssuesTo (.jal x) s (gWrite 1 1 (BitVec.ofNat 64 s.nextFound.pc)) (placeAt (s.pc + BitVec.ofInt 64 (4 * x.toInt))) 0)) ∧
    (s.GoodTarget (s.rg a) →
      (s.Clear [.g a] [] false → IssuesTo (.jr a) s [] (placeAt (s.rg a)) 1) ∧
      (s.Clear [.g a] [.g d] false →
        IssuesTo (.jalr d a) s (gWrite 1 d (BitVec.ofNat 64 s.nextFound.pc)) (placeAt (s.rg a)) 1))

/-- R37, R120, R121, R122: a compare-and-branch or a branch on a predicate is taken under its condition; a wrong hint costs
one turn, taken or not, and a branch that is not taken checks no target. -/
def Claims.BranchesFollowTheirConditions : Prop :=
  ∀ (s : State) (a b : Fin 32) (p : Fin 8) (h : Fin 4) (x : BitVec 14) (t : Word), t = s.pc + BitVec.ofInt 64 (4 * x.toInt) →
    (s.Clear [.g a, .g b] [] false →
      ∀ r ∈ ([(.beq a b h x, s.rg a = s.rg b), (.bne a b h x, s.rg a ≠ s.rg b),
        (.blt a b h x, (s.rg a).toInt < (s.rg b).toInt), (.bge a b h x, (s.rg b).toInt ≤ (s.rg a).toInt),
        (.bltn a b h x, (s.rg a).toNat < (s.rg b).toNat), (.bgen a b h x, (s.rg b).toNat ≤ (s.rg a).toNat)] :
          List (Instr × Prop)),
        (r.2 → s.GoodTarget t → IssuesTo r.1 s [] (placeAt t) (if h = 1 then 0 else 1)) ∧
        (¬ r.2 → IssuesTo r.1 s [] s.nextFound (if h = 1 then 1 else 0))) ∧
    (s.Clear [.p p] [] false →
      ∀ r ∈ ([(.bpAny p h x, ∃ i < 128, (s.rp p).getLsbD i = true), (.bpNone p h x, ∀ i < 128, (s.rp p).getLsbD i = false),
        (.bpAll p h x, ∀ i < 128, (s.rp p).getLsbD i = true)] : List (Instr × Prop)),
        (r.2 → s.GoodTarget t → IssuesTo r.1 s [] (placeAt t) (if h = 1 then 0 else 1)) ∧
        (¬ r.2 → IssuesTo r.1 s [] s.nextFound (if h = 1 then 1 else 0)))

/-- R37, R123: `jtab` with an index below its length reads the table entry in the well as a local load of its sequencer and
jumps relative to itself, losing one turn; an index at or above the length falls through at no cost; an entry outside the
window traps LOCALITY, one that is no word LOADALIGN, and one in the records of the context cache LOADACC in mode T (the
model's reading of R320, log entry 59). R329: an entry that another stroke has locked makes it wait. -/
def Claims.JumpTableReads : Prop :=
  ∀ (s : State) (i a : Fin 32) (l : BitVec 16) (ea t : Word), s.Clear [.g i, .g a] [] false →
    (l.toNat ≤ (s.rg i).toNat → IssuesTo (.jtab i a l) s [] s.nextFound 0) ∧
    ((s.rg i).toNat < l.toNat → ea = s.rg a + s.rg i * 4 →
      (0x5FFFC < ea.toNat → exec (.jtab i a l) s = .next (s.raise 0x0E ea)) ∧
      (ea.toNat ≤ 0x5FFFC → ea.toNat % 4 ≠ 0 → exec (.jtab i a l) s = .next (s.raise 0x04 ea)) ∧
      (ea.toNat ≤ 0x5FFFC → ea.toNat % 4 = 0 → s.recordsShut ea.toNat 4 = true →
        exec (.jtab i a l) s = .next (s.raise 0x05 ea)) ∧
      (ea.toNat ≤ 0x5FFFC → ea.toNat % 4 = 0 → s.recordsShut ea.toNat 4 = false → s.lockedOut ea.toNat 4 = true →
        exec (.jtab i a l) s = .next s.waitMsg) ∧
      (ea.toNat ≤ 0x5FFFC → ea.toNat % 4 = 0 → s.recordsShut ea.toNat 4 = false → s.lockedOut ea.toNat 4 = false →
        t = s.pc + (BitVec.ofNat 32 (s.wellRead ea.toNat 4)).signExtend 64 * 4 → s.GoodTarget t →
        ∃ u, exec (.jtab i a l) s = .next u ∧ IssuedTo (s.localLoad ea.toNat 4).2 u [] (placeAt t) 1))

/-- R117, R125, R126, R127, R187: `bpush` appends its bit and its clock at t+1, or waits at 16 entries; `bq` waits while its
queue is empty, and else takes the head, with its clock, and branches on it. -/
def Claims.OutcomeQueuesPassBits : Prop :=
  ∀ (s : State) (a : Fin 32) (p : Fin 8) (q h : Fin 4) (x : BitVec 24) (t : Word), t = s.pc + BitVec.ofInt 64 (4 * x.toInt) →
    (s.Clear [.g a] [] false →
      (s.oqCount (Seq.ofIdx q) < 16 → Issues (.bpush a q) s [(1, .oqPush (Seq.ofIdx q) (decide (s.rg a ≠ 0)) s.lc)]) ∧
      (16 ≤ s.oqCount (Seq.ofIdx q) → exec (.bpush a q) s = .next s.waitMsg)) ∧
    (s.Clear [.p p] [] false →
      (s.oqCount (Seq.ofIdx q) < 16 → Issues (.bpushP p q) s [(1, .oqPush (Seq.ofIdx q) (decide (s.rp p ≠ 0)) s.lc)]) ∧
      (16 ≤ s.oqCount (Seq.ofIdx q) → exec (.bpushP p q) s = .next s.waitMsg)) ∧
    (s.ctx.x.oq[s.cur.q.idx] = [] → exec (.bq h x) s = .next s.waitMsg) ∧
    (∀ e r, s.ctx.x.oq[s.cur.q.idx] = e :: r →
      (e.bit = true → s.GoodTarget t → ∃ u, exec (.bq h x) s = .next u ∧
        IssuedTo (s.setLc (Clk.max s.lc e.clk)) u [(1, .oqPop s.cur.q)] (placeAt t) (if h = 1 then 0 else 1)) ∧
      (e.bit = false → ∃ u, exec (.bq h x) s = .next u ∧
        IssuedTo (s.setLc (Clk.max s.lc e.clk)) u [(1, .oqPop s.cur.q)] s.nextFound (if h = 1 then 1 else 0)))

/-- Jumps, branches, jump tables and outcome queues. A jump table among hidden records traps LOADACC: the model's reading, log
entry 59. -/
def Obligations.ControlTransfers : Prop :=
  Claims.JumpsReachTheirTargets ∧ Claims.BranchesFollowTheirConditions ∧ Claims.JumpTableReads ∧ Claims.OutcomeQueuesPassBits

/-- R58, R118: `dly n` issues and its sequencer then issues nothing for n turns; `nop` has no effect but its turn. -/
def Claims.DelaysOnlyCostTurns : Prop :=
  ∀ (s : State) (n : BitVec 16), IssuesTo (.dly n) s [] s.nextFound n.toNat ∧ Issues .nop s []

/-- R12, R35, R117, R134: a sequencer that may not issue, or that is losing turns, leaves its slot without executing anything. -/
def Claims.IdleSlotExecutesNothing : Prop :=
  ∀ (s : State) (n : NibId) (ns : List NibId) (q : Seq), s.phase = .turn (n :: ns) (.issue q) →
    ((s.slot n ns q).mayIssue = false → step s = .next (s.slot n ns q)) ∧
    ((s.slot n ns q).mayIssue = true → 0 < ((s.slot n ns q).seqSt q).lost →
      ∃ t, step s = .next t ∧ (t.seqSt q).lost + 1 = ((s.slot n ns q).seqSt q).lost ∧
        (t.seqSt q).pc = ((s.slot n ns q).seqSt q).pc ∧ t.mem = s.mem ∧ t.ctx.inflight = (s.slot n ns q).ctx.inflight)

/-- R134, R273: `sstop` outside a step block ends its sequencer with the PC on it; inside one it ends the sequencer's part of
the block. `sjoin` outside a block waits for a sweep; inside one, and in a turn in which S has ended, it traps SWEEPFAULT.
R40: where an earlier sequencer's exception is taken in that turn, it keeps the fault, and traps SWEEPFAULT when it next
issues. -/
def Claims.StreamsEndAndJoin : Prop :=
  ∀ s : State,
    (s.inBlock = false →
      (∃ t, exec .sstop s = .next t ∧ (t.seqSt s.cur.q).ended = true ∧ (t.seqSt s.cur.q).pc = s.pc ∧
        t.turn.issued = s.turn.issued ++ [s.cur.q] ∧ t.mem = s.mem ∧ t.ctx.r = s.ctx.r ∧
        t.ctx.inflight = s.ctx.inflight ∧ (∀ q, q ≠ s.cur.q → t.seqSt q = s.seqSt q) ∧
        t.turn.sEnded = (s.turn.sEnded || decide (s.cur.q = .s))) ∧
      (s.turn.sEnded = true ∨ (s.seqSt s.cur.q).fault = true →
        (s.turn.trapped = false → s.turn.halt = none → ∃ u, exec .sjoin s = .next (u.raise 0x18 s.pc) ∧ SameBut s u ∧
          u.seqSt s.cur.q = { s.seqSt s.cur.q with fault := false } ∧ u.turn = s.turn) ∧
        (s.turn.trapped = true ∨ s.turn.halt ≠ none → ∃ t, exec .sjoin s = .next t ∧ SameBut s t ∧
          t.seqSt s.cur.q = { s.seqSt s.cur.q with fault := true } ∧ t.turn.issued = s.turn.issued)) ∧
      (s.turn.sEnded = false → (s.seqSt s.cur.q).fault = false → ∃ t, exec .sjoin s = .next t ∧ t.seqSt s.cur.q = { s.seqSt s.cur.q with joining := true } ∧ t.turn.waitMsg = true ∧
        t.turn.issued = s.turn.issued ∧ t.mem = s.mem ∧ t.ctx.r = s.ctx.r)) ∧
    (s.inBlock = true →
      exec .sjoin s = .next (s.raise 0x18 s.pc) ∧
      ∀ w, s.ctx.x.sweep = some w → ∃ t v, exec .sstop s = .next t ∧ t.ctx.x.sweep = some v ∧
        v.running = w.running.filter (· != s.cur.q) ∧
        v.stage = (if w.running.all (· == s.cur.q) then .writeBack s.tn else w.stage) ∧
        t.turn.issued = s.turn.issued ++ [s.cur.q] ∧ t.mem = s.mem ∧ t.ctx.r = s.ctx.r ∧ t.ctx.seqs = s.ctx.seqs)

/-- Delays cost turns in which nothing issues, and streams end and join. That the lost turns of dly and those of R35 add up is
the model's choice, log entry 60. -/
def Obligations.DelaysAndStreamEnds : Prop :=
  Claims.DelaysOnlyCostTurns ∧ Claims.IdleSlotExecutesNothing ∧ Claims.StreamsEndAndJoin

/-- R131, R132: `sinc`, `sadd` and `sset` act on their seal in the handoff turn; `sset` on a seal with operations outstanding
traps SEALBUSY; `sread` and `spend` read COUNT and PEND as they stand. -/
def Claims.SealInstructions : Prop :=
  ∀ (s : State) (sl : Fin 16) (a d : Fin 32),
    Issues (.sinc sl) s [(s.handoffDue - s.tn, .handoff sl .add 1)] ∧
    (s.Clear [.g a] [] false →
      Issues (.sadd sl a) s [(s.handoffDue - s.tn, .handoff sl .add ((s.rg a).setWidth 16))] ∧
      (s.ctx.r.seals[sl].pend = 0 →
        Issues (.sset sl a) s [(s.handoffDue - s.tn, .handoff sl .set ((s.rg a).setWidth 16))]) ∧
      (s.ctx.r.seals[sl].pend ≠ 0 → exec (.sset sl a) s = .next (s.raise 0x14 (BitVec.ofNat 64 sl.val)))) ∧
    (s.Clear [] [.g d] false →
      Issues (.sread d sl) s (gWrite 1 d (s.ctx.r.seals[sl].count.setWidth 64)) ∧
      Issues (.spend d sl) s (gWrite 1 d (s.ctx.r.seals[sl].pend.setWidth 64)))

/-- R132, R63: a handoff takes effect at the start of turn max(t+1, D), where D is the latest landing turn of the
fixed-latency results that its sequencer issued before it, those in records that count again included: no earlier than any of
them, and no later than the latest. A result for g0 is none (the model's choice, log entry 61). -/
def Claims.HandoffWaitsForResults : Prop :=
  ∀ s : State, s.tn + 1 ≤ s.handoffDue ∧
    (∀ l ∈ s.ctx.inflight, ∀ w, l.eff = .reg w → w.ref ≠ .g 0 → l.seq = s.cur.q → l.due ≤ s.handoffDue) ∧
    (∀ u, s.ctx.resumed = some u → ∀ w ∈ s.ctx.lateWrites, w.seq = s.cur.q → u + w.k ≤ s.handoffDue) ∧
    (s.handoffDue = s.tn + 1 ∨
      (∃ l ∈ s.ctx.inflight, ∃ w, l.eff = .reg w ∧ w.ref ≠ .g 0 ∧ l.seq = s.cur.q ∧ l.due = s.handoffDue) ∨
      ∃ u, s.ctx.resumed = some u ∧ ∃ w ∈ s.ctx.lateWrites, w.seq = s.cur.q ∧ u + w.k = s.handoffDue)

/-- R117, R131, R187: `waits` issues once (COUNT - threshold) mod 2^16 is below 2^15, taking the seal's clock, and until then
waits and keeps the threshold that it formed in its first attempt. -/
def Claims.WaitsForTheSeal : Prop :=
  ∀ (s : State) (sl : Fin 16) (a : Fin 32) (i thr : BitVec 16), s.Clear [.g a] [] false →
    ((s.seqSt s.cur.q).thr = none ∧ thr = (s.rg a + i.setWidth 64).setWidth 16 ∨ (s.seqSt s.cur.q).thr = some thr) →
    ((s.ctx.r.seals[sl].count - thr).toNat < 2 ^ 15 → ∃ t, exec (.waits sl a i) s = .next t ∧
      IssuedTo (s.setLc (Clk.max s.lc s.ctx.r.seals[sl].clk)) t [] s.nextFound 0) ∧
    (2 ^ 15 ≤ (s.ctx.r.seals[sl].count - thr).toNat → ∃ t, exec (.waits sl a i) s = .next t ∧
      t.seqSt s.cur.q = { s.seqSt s.cur.q with thr := some thr } ∧ t.turn.issued = s.turn.issued ∧ t.mem = s.mem ∧
      t.ctx.inflight = s.ctx.inflight ∧ t.ctx.r = s.ctx.r)

/-- Seal instructions, the turn of a handoff, and waiting for a seal. That remaining lost turns are kept over a trap is log
entry 9; PEND that wraps is log entry 63; div and rem to g0 are log entry 61. -/
def Obligations.SealsAndHandoffs : Prop :=
  Claims.SealInstructions ∧ Claims.HandoffWaitsForResults ∧ Claims.WaitsForTheSeal

/-- R44, R45: g0 reads 0 and p0 all ones, a write to either is discarded, every other register holds what was written, and a
vector field of 16 or more is rotated by `vrb`. -/
def Claims.RegisterFiles : Prop :=
  (∀ s : State, s.rg 0 = 0 ∧ s.rp 0 = BitVec.allOnes 128 ∧
    (∀ n : Fin 32, n.val < 16 → s.vphys n = n) ∧
    ∀ n : Fin 32, 16 ≤ n.val → (s.vphys n).val = 16 + (n.val - 16 + s.ctx.c.vrb.toNat) % 16) ∧
  ∀ (r : Regs) (x : Word) (y : Vec) (z : Pred),
    r.write (.g 0 x) = r ∧ r.write (.p 0 z) = r ∧
    (∀ i : Fin 32, i ≠ 0 → (r.write (.g i x)).g[i] = x ∧ (∀ j : Fin 32, j ≠ i → (r.write (.g i x)).g[j] = r.g[j]) ∧
      { r.write (.g i x) with g := r.g } = r) ∧
    (∀ i : Fin 32, (r.write (.v i y)).v[i] = y ∧ (∀ j : Fin 32, j ≠ i → (r.write (.v i y)).v[j] = r.v[j]) ∧
      { r.write (.v i y) with v := r.v } = r) ∧
    ∀ i : Fin 8, i ≠ 0 → (r.write (.p i z)).p[i] = z ∧ (∀ j : Fin 8, j ≠ i → (r.write (.p i z)).p[j] = r.p[j]) ∧
      { r.write (.p i z) with p := r.p } = r

/-- R56, R57: the first effect in flight that is due takes force and leaves the others in flight, in their order, so that of
two results for one register due together the one issued later stands. A register result changes nothing but its register. -/
def Claims.ResultsLandInOrder : Prop :=
  ∀ (s : State) (n : NibId) (k : Fin 8) (pre post : List Landing) (l : Landing),
    (s.stroke n k).ctx.inflight = pre ++ l :: post → (∀ y ∈ pre, s.tn < y.due ∨ y.isHandoff = true) → l.due ≤ s.tn →
    l.isHandoff = false →
    exec (.resultLanding n k) s =
      .next ((s.modCtxAt n k (fun c => { c with inflight := pre ++ post })).applyEff n k l.seq l.eff) ∧
    ∀ w, l.eff = .reg w → ∃ t, exec (.resultLanding n k) s = .next t ∧
      (t.stroke n k).ctx = { (s.stroke n k).ctx with inflight := pre ++ post, r := (s.stroke n k).ctx.r.write w } ∧
      (∀ m j, (m, j) ≠ (n, k) → t.stroke m j = s.stroke m j) ∧ { t with nibs := s.nibs } = s

/-- R130, R131, R132, R187: a handoff in its turn adds to COUNT or sets it, modulo 2^16, and its seal takes the sequencer's
clock where that is later; R63: a held record counts from the turn in which its stroke resumed. -/
def Claims.HandoffsAndRecordsTakeForce : Prop :=
  ∀ (s : State) (n : NibId) (k : Fin 8) (c : Ctx), c = (s.stroke n k).ctx →
    (∀ l r x kind m, c.nextHand s.tn = .fresh l r → l.eff = .handoff x kind m → ∃ t, exec (.handoffEffect n k) s = .next t ∧
      (t.stroke n k).ctx.inflight = r ∧
      (t.stroke n k).ctx.r.seals[x] = ⟨if kind = .set then m else c.r.seals[x].count + m, c.r.seals[x].pend,
        Clk.max c.r.seals[x].clk c.seqs[l.seq.idx].lc⟩ ∧
      (∀ y : Fin 16, y ≠ x → (t.stroke n k).ctx.r.seals[y] = c.r.seals[y]) ∧ (t.stroke n k).ctx.r.g = c.r.g ∧ t.mem = s.mem) ∧
    (∀ pre post w u, c.lateWrites = pre ++ w :: post → c.resumed = some u → (∀ y ∈ pre, s.tn < u + y.k) → u + w.k ≤ s.tn →
      ∃ t, exec (.lateWriteLanding n k) s = .next t ∧ (t.stroke n k).ctx.r = c.r.write w.reg ∧
      (t.stroke n k).ctx.lateWrites = pre ++ post ∧ (t.stroke n k).ctx.inflight = c.inflight ∧ t.mem = s.mem) ∧
    (∀ h r, (∀ w ∈ c.lateWrites, c.due s.tn w.k = false) → c.nextHand s.tn = .record h r → ∃ t,
      exec (.lateWriteLanding n k) s = .next t ∧ (t.stroke n k).ctx.handRecs = r ∧
      (t.stroke n k).ctx.r.seals[h.sl] = ⟨if h.kind = .set then h.amount else c.r.seals[h.sl].count + h.amount,
        c.r.seals[h.sl].pend, Clk.max c.r.seals[h.sl].clk c.seqs[h.seq.idx].lc⟩)

/-- R189: at a clock rise every sequencer's clock rises by 1, and nothing else changes. -/
def Claims.ClocksRise : Prop :=
  ∀ (s : State) (n : NibId) (k : Fin 8), ∃ t, exec (.lcTick n k) s = .next t ∧
    (∀ q : Fin 4, (t.stroke n k).ctx.seqs[q] = { (s.stroke n k).ctx.seqs[q] with lc := (s.stroke n k).ctx.seqs[q].lc + 1 }) ∧
    { (t.stroke n k).ctx with seqs := (s.stroke n k).ctx.seqs } = (s.stroke n k).ctx ∧
    (∀ m j, (m, j) ≠ (n, k) → t.stroke m j = s.stroke m j) ∧ { t with nibs := s.nibs } = s

/-- R63: at an interruption after turn T a result due at T+1 stays to land at once, and one due at D ≥ T+2 becomes a record of
D - T - 1 turns; handoffs likewise, and no result is lost but one for g0 (R96), or one beyond the 12 results and 8 handoffs
that a context holds, which only traps within a trap service can leave (the model's choice, log entry 78). Records that were
counting since turn U are counted anew: one due at T+1 is in flight again, and a later one keeps the turns that are left to
it. -/
def Claims.InterruptedResultsAreKept : Prop :=
  ∀ (c : Ctx) (tn : Nat),
    (c.resumed = none →
      (c.freeze tn).inflight = c.inflight.filter (fun l => decide (l.due < tn + 2) || !l.eff.kept) ∧
      (c.freeze tn).lateWrites = (c.lateWrites ++ (c.inflight.filter (fun (l : Landing) => tn + 2 ≤ l.due)).filterMap (fun (l : Landing) => match l.eff with
        | .reg w => if w.ref = RegRef.g 0 then none else some (⟨w, l.due - tn - 1, l.seq, l.issued⟩ : LateWrite)
        | _ => none)).take 12 ∧
      (c.freeze tn).handRecs = (c.handRecs ++ (c.inflight.filter (fun (l : Landing) => tn + 2 ≤ l.due)).filterMap (fun (l : Landing) => match l.eff with
        | .handoff x kind m => some (⟨x, kind, m, l.seq, l.due - tn - 1⟩ : HandRec)
        | _ => none)).take 8 ∧
      { c.freeze tn with inflight := c.inflight, lateWrites := c.lateWrites, handRecs := c.handRecs } = c) ∧
    ∀ u, c.resumed = some u → c.freeze tn = Ctx.freeze { c with
      resumed := none
      inflight := ((c.lateWrites.filter (fun w => u + w.k < tn + 2)).map (fun w => ⟨tn + 1, w.issued, w.seq, .reg w.reg⟩)) ++
        ((c.handRecs.filter (fun h => u + h.k < tn + 2)).map (fun h => ⟨tn + 1, tn, h.seq, .handoff h.sl h.kind h.amount⟩)) ++
        c.inflight
      lateWrites := (c.lateWrites.filter (fun w => tn + 2 ≤ u + w.k)).map (fun w => { w with k := u + w.k - tn - 1 })
      handRecs := (c.handRecs.filter (fun h => tn + 2 ≤ u + h.k)).map (fun h => { h with k := u + h.k - tn - 1 }) } tn

/-- Register files, and how results, handoffs and kept records take force. That every held record counts from the turn of the
latest resumption is log entry 27; that a nested trap keeps the older records first, up to the record's room, is log entry 78. -/
def Obligations.RegistersAndLandings : Prop :=
  Claims.RegisterFiles ∧ Claims.ResultsLandInOrder ∧ Claims.HandoffsAndRecordsTakeForce ∧ Claims.ClocksRise ∧ Claims.InterruptedResultsAreKept

/-- R307 to R310, R327, R328: `csrr` reads a CSR as it stands, into g[d] at t+1, in the modes that R308 lets read it; in mode
T the other numbers, and in every mode a number absent from R308, trap ILLEGAL ahead of the register checks. -/
def Claims.CsrReads : Prop :=
  ∀ (s : State) (d : Fin 32),
    let c := s.ctx.c
    let shared : List (BitVec 12 × Word) := [(0x0C0, c.rngctr), (0x0C1, c.rngseed), (0x0C2, c.rngsid), (0x0C3, c.fpev),
      (0x0C4, c.vrb.setWidth 64), (0x0C5, c.spctl), (0x0C8, c.mfault), (0x0C9, c.rpolicy),
      (0x101, setBits c.tstatus 2 2 s.turn.mode.code), (0x10D, c.xob), (0x180, c.ptroot), (0xF00, 0x4E440D1611010000)]
    let kernel : List (BitVec 12 × Word) := [(0x100, c.tvec), (0x102, c.tscratch), (0x103, c.tcause), (0x104, c.tval),
      (0x105, c.tseq), (0x106, c.tpc[0]), (0x107, c.tpc[1]), (0x108, c.tpc[2]), (0x109, c.tpc[3]), (0x10A, c.tie),
      (0x1C1, BitVec.ofNat 64 (s.cycle / 8)), (0x1C2, s.cnib.tmpend.setWidth 64), (0x1C3, 0)]
    (s.Clear [] [.g d] false → (∀ r ∈ shared, Issues (.csrr d r.1) s (gWrite 1 d r.2)) ∧
      (s.turn.mode ≠ .t → (∀ r ∈ kernel, Issues (.csrr d r.1) s (gWrite 1 d r.2)) ∧
        Issues (.csrr d 0x10B) s (gWrite 1 d (s.cnib.tip s.cur.k)) ∧ Issues (.csrr d 0x10C) s (gWrite 1 d s.ctx.lwstat) ∧
        Issues (.csrr d 0x1C0) s (gWrite 1 d (s.ctxcfg s.cur.nib)))) ∧
    (s.turn.mode = .t → ∀ n ∈ kernel.map (·.1) ++ [0x10B, 0x10C, 0x1C0], exec (.csrr d n) s = .next s.illegal) ∧
    ∀ n : BitVec 12, n ∉ (shared ++ kernel).map (·.1) → n ∉ ([0x10B, 0x10C, 0x1C0] : List (BitVec 12)) →
      exec (.csrr d n) s = .next s.illegal

/-- R307, R308: `csrw`, `csrs` and `csrc` send their operand to the CSR at t+1 where the mode may write it; a write of a CSR
whose fields are all RO or RZ (`tip` on every stroke but 7 is one), a mode that may not write it, and an absent number trap
ILLEGAL. -/
def Claims.CsrWritesIssue : Prop :=
  ∀ (s : State) (a : Fin 32) (n : BitVec 12),
    let task : List (BitVec 12) := [0x0C0, 0x0C1, 0x0C2, 0x0C3, 0x0C4, 0x0C5, 0x0C8, 0x101]
    let kernel : List (BitVec 12) := [0x0C9, 0x100, 0x102, 0x103, 0x104, 0x105, 0x106, 0x107, 0x108, 0x109, 0x10A, 0x10B, 0x10D,
      0x180, 0x1C0, 0x1C2, 0x1C3]
    (s.Clear [.g a] [] false → n ∈ task ∨ n ∈ kernel ∧ s.turn.mode ≠ .t ∧ (n = 0x10B → s.cur.k = 7) →
      Issues (.csrw a n) s [(1, .csr 1 n (s.rg a) (decide (s.turn.mode = .t)))] ∧
      Issues (.csrs a n) s [(1, .csr 2 n (s.rg a) (decide (s.turn.mode = .t)))] ∧
      Issues (.csrc a n) s [(1, .csr 3 n (s.rg a) (decide (s.turn.mode = .t)))]) ∧
    (n ∉ task → n ∉ kernel ∨ s.turn.mode = .t ∨ n = 0x10B ∧ s.cur.k ≠ 7 →
      ∀ i ∈ [Instr.csrw a n, .csrs a n, .csrc a n], exec i s = .next s.illegal)

/-- R5, R307, R309, R310: a CSR write that takes force changes the RW bits of its CSR only: `csrw` to the operand, `csrs` by
OR, `csrc` by AND NOT; from mode T only RNGT and RNGW of `tstatus`; the bits of `tip` are cleared by writing 1, but not one
that the device sets in the same cycle; `xob` takes a value above 0x6_0000 as 0x6_0000. -/
def Claims.CsrWritesTakeForce : Prop :=
  ∀ (s : State) (n : NibId) (k : Fin 8) (x : Word),
    let new : Fin 4 → Word → Word → Word := fun op old mask =>
      if op = 1 then (x &&& mask) ||| (old &&& ~~~ mask) else if op = 2 then old ||| (x &&& mask) else old &&& ~~~ (x &&& mask)
    let fields : List (BitVec 12 × Word × (Csrs → Word)) := [
      (0x0C0, BitVec.allOnes 64, (·.rngctr)), (0x0C1, BitVec.allOnes 64, (·.rngseed)), (0x0C2, 0xFFFFFFFF, (·.rngsid)),
      (0x0C3, BitVec.allOnes 64, (·.fpev)), (0x0C9, 0x3, (·.rpolicy)), (0x100, 0x7FFE0, (·.tvec)), (0x101, 0x1933, (·.tstatus)),
      (0x102, BitVec.allOnes 64, (·.tscratch)), (0x103, 0x80000000000000FF, (·.tcause)), (0x104, BitVec.allOnes 64, (·.tval)),
      (0x105, 0x3, (·.tseq)), (0x106, 0x7FFFC, (·.tpc[0])), (0x107, 0x7FFFC, (·.tpc[1])), (0x108, 0x7FFFC, (·.tpc[2])),
      (0x109, 0x7FFFC, (·.tpc[3])), (0x10A, 0xAA2, (·.tie)),
      (0x0C4, 0xF, fun c => c.vrb.setWidth 64), (0x0C5, 0xFFFFFFFFF, (·.spctl)), (0x180, 0xFFFFFFFFFFFF0001, (·.ptroot))]
    ∀ op ∈ [(1 : Fin 4), 2, 3],
      (∀ f ∈ fields, ∃ t : State, t = s.csrWrite n k f.1 op x false ∧
        f.2.2 (t.stroke n k).ctx.c = new op (f.2.2 (s.stroke n k).ctx.c) f.2.1 ∧
        (∀ g ∈ fields, g.1 ≠ f.1 → g.2.2 (t.stroke n k).ctx.c = g.2.2 (s.stroke n k).ctx.c) ∧
        (∀ m j, (m, j) ≠ (n, k) → t.stroke m j = s.stroke m j) ∧ { t with nibs := s.nibs } = s) ∧
      ((s.csrWrite n k 0x101 op x true).stroke n k).ctx.c.tstatus = new op (s.stroke n k).ctx.c.tstatus 0x1800 ∧
      ((s.csrWrite n k 0x10B op x false).stroke n k).ctx.c.tip =
        (if k = 7 then ((s.stroke n k).ctx.c.tip &&& ~~~ (if op = 3 then 0 else x &&& 0xA02)) |||
          (if (s.nib n).tipAt.1 = s.cycle then (s.nib n).tipAt.2 else 0) else (s.stroke n k).ctx.c.tip) ∧
      (∀ y : Word, y = (if op = 1 then x else if op = 2 then (s.stroke n k).ctx.c.xob ||| x else (s.stroke n k).ctx.c.xob &&& ~~~ x) →
        ((s.csrWrite n k 0x10D op x false).stroke n k).ctx.c.xob.toNat =
          if 0x60000 < y.toNat then 0x60000 else y.toNat / 32 * 32)

/-- R320, R328: writes of the nib CSRs: CTXCFG enables or disables the cache while no entry is valid, and SIG of NKSIG raises
the kernel software interrupt of stroke 7. R307, R327: a bit of `tmpend` is cleared by writing 1, and stands where its compare
fires in the same cycle. R243, R245: a 1 written to ABORT of `mfault` while a command of the context is stopped abandons it,
clears STOPPED and returns the commands held behind it to the queue; with STOPPED 0, and by `csrc`, it does nothing. -/
def Claims.NibCsrWrites : Prop :=
  ∀ (s : State) (n : NibId) (x : BitVec 64),
    ((∃ e : Fin 8, (s.nib n).entries[e].valid = true) → exec (.ctxcfg n x) s = .next (s.modNib n id)) ∧
    ((∀ e : Fin 8, (s.nib n).entries[e].valid = false) → ∃ t, exec (.ctxcfg n x) s = .next t ∧
      t.nib n = { s.nib n with ctxEn := x.getLsbD 0 } ∧ { t with nibs := s.nibs } = s) ∧
    (x.getLsbD 0 = false → exec (.nksig n x) s = .next s) ∧
    (x.getLsbD 0 = true → ∃ t, exec (.nksig n x) s = .next t ∧
      (t.stroke n 7).ctx.c = { (s.stroke n 7).ctx.c with tip := (s.stroke n 7).ctx.c.tip ||| 2 } ∧ { t with nibs := s.nibs } = s) ∧
    ∀ (k : Fin 8) (op : Fin 4) (task : Bool), op ≠ 0 →
      (s.csrWrite n k 0x1C2 op x task).nib n = { s.nib n with
        tmpend := ((s.nib n).tmpend &&& ~~~ (if op = 3 then 0 else x.setWidth 8)) |||
          (if (s.nib n).firedAt.1 = s.cycle then (s.nib n).firedAt.2 else 0) } ∧
      { s.csrWrite n k 0x1C2 op x task with nibs := s.nibs } = s ∧
      let c := (s.stroke n k).ctx
      let m := (s.nib n).matrix
      (op = 3 ∨ x.getLsbD 1 = false ∨ c.c.mfault.getLsbD 0 = false → s.csrWrite n k 0x0C8 op x task = s) ∧
      (op ≠ 3 → x.getLsbD 1 = true → c.c.mfault.getLsbD 0 = true → ∃ t, t = s.csrWrite n k 0x0C8 op x task ∧
        (t.stroke n k).ctx = { c with c := { c.c with mfault := c.c.mfault &&& ~~~ 1 } } ∧
        (t.nib n).matrix = { m with
          stopped := m.stopped.filter (·.cid != c.cid), held := m.held.filter (·.cid != c.cid)
          queue := m.held.filter (·.cid == c.cid) ++ m.queue
          draining := m.draining ++ (m.stopped.filter (·.cid == c.cid)).map (fun y => { y with done := true, rows := [] }) } ∧
        t.agenda = s.agenda ++ [(s.cycle, .mfaultAbort n k), (s.cycle, .matrixDispatch n)] ∧
        { t with nibs := s.nibs, agenda := s.agenda } = s ∧ ∀ j, j ≠ k → t.stroke n j = s.stroke n j)

/-- Reading and writing the CSRs, by mode and by field. The counts of TURN and of tip bit 7 are read as they stand. -/
def Obligations.ControlAndStatusRegisters : Prop :=
  Claims.CsrReads ∧ Claims.CsrWritesIssue ∧ Claims.CsrWritesTakeForce ∧ Claims.NibCsrWrites

/-- R313, R316: `ecall` traps ECALLT in mode T and ECALLK in K and D, saving the PC that sequential flow gives next; `ebreak`
traps BREAK with its own address, or, in every mode where debug arms it, issues and stops its stroke with reason BREAK. -/
def Claims.SystemCallsTrap : Prop :=
  ∀ s : State,
    (s.turn.mode = .t → exec .ecall s = .next (s.raiseAt 0x08 0 (BitVec.ofNat 64 s.nextFound.pc))) ∧
    (s.turn.mode ≠ .t → exec .ecall s = .next (s.raiseAt 0x09 0 (BitVec.ofNat 64 s.nextFound.pc))) ∧
    (s.turn.trapped = false → s.turn.tret = false → s.turn.halt = none → s.turn.mode = .t → s.ctx.c.ts = false →
      ∃ t, exec .ecall s = .next t ∧ Trapped s t 0x08 0 (BitVec.ofNat 64 s.nextFound.pc)) ∧
    (s.cst.dbg.ebrk = false → exec .ebreak s = .next (s.raise 0x03 s.pc)) ∧
    (s.turn.trapped = false → s.turn.tret = false → s.turn.halt = none → s.turn.mode ≠ .d → s.ctx.c.ts = false →
      s.cst.dbg.ebrk = false → ∃ t, exec .ebreak s = .next t ∧ Trapped s t 0x03 s.pc s.pc) ∧
    (s.cst.dbg.ebrk = true → ∃ t, exec .ebreak s = .next t ∧ t.turn.halt = some 2 ∧
      Issued s { t with turn := { t.turn with halt := s.turn.halt } } [])

/-- R315: `tret` restores the mode from PPRV and IE from PIE, clears TS, and every sequencer resumes at its saved PC; where
that is the PC at which the trap interrupted it, it is ended if it had ended then (R134), and has still to lose the turns that
it had (R63, log entry 9), and an `sjoin` that was passed over traps then (R40). In mode T, in K with PPRV 2, and with PPRV 3
it traps ILLEGAL. -/
def Claims.TretReturns : Prop :=
  ∀ s : State,
    (s.turn.mode = .t ∨ s.turn.mode = .k ∧ getBits s.ctx.c.tstatus 4 2 = 2 ∨ getBits s.ctx.c.tstatus 4 2 = 3 →
      exec .tret s = .next s.illegal) ∧
    (s.turn.mode = .k ∧ getBits s.ctx.c.tstatus 4 2 < 2 ∨ s.turn.mode = .d ∧ getBits s.ctx.c.tstatus 4 2 < 3 →
      ∃ t, exec .tret s = .next t ∧ t.ctx.c.mode.code = getBits s.ctx.c.tstatus 4 2 ∧
        getBits t.ctx.c.tstatus 0 1 = getBits s.ctx.c.tstatus 1 1 ∧ t.ctx.c.ts = false ∧
        (∀ q : Fin 4, t.ctx.seqs[q].pc = s.ctx.c.tpc[q] ∧ t.ctx.seqs[q].checked = false ∧ t.ctx.seqs[q].thr = none ∧
          t.ctx.seqs[q].lc = s.ctx.seqs[q].lc ∧
          (s.ctx.seqs[q].held = [] → t.ctx.seqs[q].ended = false ∧ t.ctx.seqs[q].lost = 0) ∧
          ∀ h r, s.ctx.seqs[q].held = h :: r → t.ctx.seqs[q].held = r ∧
            t.ctx.seqs[q].ended = (decide (h.pc = s.ctx.c.tpc[q] &&& 0x7FFFC) && h.ended) ∧
            t.ctx.seqs[q].fault = (decide (h.pc = s.ctx.c.tpc[q] &&& 0x7FFFC) && h.fault) ∧
            t.ctx.seqs[q].lost = if h.pc = s.ctx.c.tpc[q] &&& 0x7FFFC then h.lost else 0) ∧
        (∀ q : Seq, t.seqSt q = s.ctx.seqs[q.idx]) ∧
        t.ctx.r = s.ctx.r ∧ t.ctx.inflight = s.ctx.inflight ∧ t.ctx.lateWrites = s.ctx.lateWrites ∧
        t.ctx.c.tcause = s.ctx.c.tcause ∧ t.ctx.c.tval = s.ctx.c.tval ∧ t.ctx.c.tpc = s.ctx.c.tpc ∧
        t.turn.tret = true ∧ t.turn.issued = s.turn.issued ++ [s.cur.q] ∧ t.mem = s.mem)

/-- R316: `wfm` issues once a message waits or an enabled interrupt is pending, and else waits; `halt` issues and stops its
stroke with reason HALT, in mode T it traps ILLEGAL; `fence.i` issues, and no sequencer issues in the next turn. -/
def Claims.WaitHaltFence : Prop :=
  ∀ s : State,
    (s.cst.mailbox ≠ [] ∨ s.cnib.tip s.cur.k &&& s.ctx.c.tie ≠ 0 → Issues .wfm s []) ∧
    (s.cst.mailbox = [] → s.cnib.tip s.cur.k &&& s.ctx.c.tie = 0 → exec .wfm s = .next s.waitMsg) ∧
    (s.turn.mode = .t → exec .halt s = .next s.illegal) ∧
    (s.turn.mode ≠ .t → ∃ t, exec .halt s = .next t ∧ t.turn.halt = some 3 ∧
      Issued s { t with turn := { t.turn with halt := s.turn.halt } } []) ∧
    (∃ t, exec .fenceI s = .next t ∧ t.turn.fence = true ∧
      Issued s { t with turn := { t.turn with fence := s.turn.fence } } [])

/-- System calls, return from a trap, wait, halt and fence. That ebreak counts as issued where debug arms it is log entry 22,
that tret with PPRV 3 traps in mode D is log entry 52, and what tret restores of lost turns is log entry 9. -/
def Obligations.SystemInstructions : Prop :=
  Claims.SystemCallsTrap ∧ Claims.TretReturns ∧ Claims.WaitHaltFence

/-- R327, R329: in mode K `tmset` sets a compare at t+1; a compare that TURN has reached sets its FIRED bit and is disarmed.
`wlock` of a free range takes a lock at t+1, unless it has waited and another stroke that has waited longer could have one;
else it waits; and an ill-formed range, and `wunlock` of a lock not held, trap ILLEGAL with g[a]. -/
def Claims.TimersAndLocks : Prop :=
  ∀ (s : State) (a b : Fin 32),
    (s.turn.mode = .k → s.Clear [.g a, .g b] [] false → (s.rg a).toNat < 8 →
      ∃ i : Fin 8, i.val = (s.rg a).toNat ∧ Issues (.tmset a b) s [(1, .timer i (s.rg b))]) ∧
    (s.turn.mode ≠ .k → exec (.tmset a b) s = .next s.illegal) ∧
    (s.turn.mode = .k → s.Clear [.g a, .g b] [] false → 8 ≤ (s.rg a).toNat → exec (.tmset a b) s = .next s.illegal) ∧
    (∀ (n : NibId) (k : Fin 8), (s.stroke n k).compare ≠ 0 → (s.stroke n k).compare.toNat ≤ s.tn →
      ∃ t, exec (.timerFire n k) s = .next t ∧ (t.nib n).tmpend = (s.nib n).tmpend ||| BitVec.twoPow 8 k.val ∧
        t.stroke n k = { s.stroke n k with compare := 0 } ∧ { t with nibs := s.nibs } = s) ∧
    (s.Clear [.g a, .g b] [] false →
      let base := (s.rg a).toNat
      let len := (s.rg b).toNat
      let free : Fin 8 × Nat × Nat → Prop := fun x => s.grantedLocks.length < 16 ∧
        ∀ l ∈ s.grantedLocks, l.1 = x.1 ∨ l.2.1 + l.2.2 ≤ x.2.1 ∨ x.2.1 + x.2.2 ≤ l.2.1
      let listed : Prop := ∃ x ∈ s.cnib.lockWait, x.1 = s.cur.k
      let first : Prop := listed → ∀ x ∈ s.cnib.lockWait.takeWhile (fun x => x.1 != s.cur.k), ¬ free x
      (base % 64 = 0 → len % 64 = 0 → 64 ≤ len → base + len ≤ 0x60000 →
        (free (s.cur.k, base, len) → first →
          ∃ t, exec (.wlock a b) s = .next t ∧ Issued (s.unwaitLock s.cur.nib s.cur.k) t [(1, .lock base len)]) ∧
        (¬ free (s.cur.k, base, len) ∨ ¬ first →
          (listed → exec (.wlock a b) s = .next s.waitMsg) ∧
          (¬ listed → exec (.wlock a b) s =
            .next (s.modNib s.cur.nib (fun y => { y with lockWait := y.lockWait ++ [(s.cur.k, base, len)] })).waitMsg))) ∧
      (base % 64 ≠ 0 ∨ len % 64 ≠ 0 ∨ len < 64 ∨ 0x60000 < base + len →
        exec (.wlock a b) s = .next (s.raise 0x02 (s.rg a)))) ∧
    (s.Clear [.g a] [] false →
      ((∃ l ∈ s.cnib.locks, l.owner = s.cur.k ∧ l.base = (s.rg a).toNat) → Issues (.wunlock a) s [(1, .unlock (s.rg a).toNat)]) ∧
      ((∀ l ∈ s.cnib.locks, l.owner = s.cur.k → l.base ≠ (s.rg a).toNat) →
        exec (.wunlock a) s = .next (s.raise 0x02 (s.rg a))))

/-- R324, R325: the ready-queue instructions in mode K follow the table of states: `rqpush`, `rqpop`, `rqpark`, and `rqstate`
from every state with SAVE, with FREE and with neither; where the table says ILLEGAL, and for operands outside their range,
they trap it with g[a], and in the other modes ILLEGAL with their word. R387: an id that `rqstate` frees is offered to a
waiting task. -/
def Claims.ReadyQueueTable : Prop :=
  ∀ (s : State) (a b d : Fin 32) (x : Fin 64) (r : RqId) (tail : List (Fin 64)), r = s.cnib.rq[x] →
    tail = s.cnib.rqLists[(⟨x.val / 16, by omega⟩ : Fin 4)] ++ [x] →
    (s.turn.mode ≠ .k → ∀ i ∈ [Instr.rqpush a b, .rqpop d, .rqpark a, .rqstate d a], exec i s = .next s.illegal) ∧
    (s.turn.mode = .k → s.Clear [.g a, .g b] [.g d] false →
      ((s.rg a).toNat = x.val →
        (r.st = .free ∨ r.st = .sleeping ∨ r.st = .saving → ∃ t, exec (.rqpush a b) s = .next t ∧
          t.cnib.rq[x] = { r with st := .ready, wakePend := r.wakePend && decide (r.st ≠ .saving), tag := (s.rg b).setWidth 48 } ∧
          t.cnib.rqLists[(⟨x.val / 16, by omega⟩ : Fin 4)] = tail ∧ t.turn.issued = s.turn.issued ++ [s.cur.q] ∧
          t.ctx.r = s.ctx.r ∧ t.mem = s.mem) ∧
        (r.st = .ready ∨ r.st = .running → exec (.rqpush a b) s = .next (s.raise 0x02 (s.rg a))) ∧
        (r.st = .running → ∃ t, exec (.rqpark a) s = .next t ∧ t.cnib.rq[x] = { r with st := .sleeping } ∧
          t.cnib.rqLists = s.cnib.rqLists ∧ t.turn.issued = s.turn.issued ++ [s.cur.q]) ∧
        (r.st = .saving → r.wakePend = true → ∃ t, exec (.rqpark a) s = .next t ∧
          t.cnib.rq[x] = { r with st := .ready, wakePend := false } ∧
          t.cnib.rqLists[(⟨x.val / 16, by omega⟩ : Fin 4)] = tail ∧ t.turn.issued = s.turn.issued ++ [s.cur.q]) ∧
        (r.st = .saving → r.wakePend = false → ∃ t, exec (.rqpark a) s = .next t ∧ t.cnib.rq[x] = { r with st := .sleeping } ∧
          t.cnib.rqLists = s.cnib.rqLists) ∧
        (r.st = .free ∨ r.st = .ready ∨ r.st = .sleeping → exec (.rqpark a) s = .next (s.raise 0x02 (s.rg a)))) ∧
      (64 ≤ (s.rg a).toNat → exec (.rqpush a b) s = .next (s.raise 0x02 (s.rg a)) ∧
        exec (.rqpark a) s = .next (s.raise 0x02 (s.rg a))) ∧
      (s.rg a &&& ~~~ 0x33F ≠ 0 ∨ (s.rg a).getLsbD 8 = true ∧ (s.rg a).getLsbD 9 = true →
        exec (.rqstate d a) s = .next (s.raise 0x02 (s.rg a))) ∧
      (∀ save free : Bool, save = false ∨ free = false → (s.rg a).toNat = x.val + save.toNat * 0x100 + free.toNat * 0x200 →
        let freed : RqId := { r with st := .free, wakePend := false }
        let change : Option RqId := match r.st with
          | .free => some r
          | .ready => if free then none else some r
          | .running => some (if save then { r with st := .saving } else if free then freed else r)
          | .sleeping => some (if free then freed else r)
          | .saving => some (if free then freed else r)
        (change = none → exec (.rqstate d a) s = .next (s.raise 0x02 (s.rg a))) ∧
        ∀ r', change = some r' → ∃ t, exec (.rqstate d a) s = .next t ∧ t.cnib.rq[x] = r' ∧
          (∀ y : Fin 64, y ≠ x → t.cnib.rq[y] = s.cnib.rq[y]) ∧ t.cnib.rqLists = s.cnib.rqLists ∧
          t.turn.issued = s.turn.issued ++ [s.cur.q] ∧ t.ctx.r = s.ctx.r ∧ t.mem = s.mem ∧
          t.agenda = s.agenda ++ (if free = true ∧ s.cnib.waiting ≠ [] then [(s.cycle, .loadBalance (.refill s.cur.nib))] else []) ∧
          t.ctx.inflight = s.ctx.inflight ++
            (gWrite 1 d (BitVec.ofNat 64 (r.tag.toNat * 2 ^ 8 + r.wakePend.toNat * 8 + r.st.code))).map
              (fun e => ⟨s.tn + e.1, s.tn, s.cur.q, e.2⟩)) ∧
      ((∀ p : Fin 4, s.cnib.rqLists[p] = []) → Issues (.rqpop d) s (gWrite 1 d 0)) ∧
      (∀ (p : Fin 4) (l : List (Fin 64)), (∀ o : Fin 4, o < p → s.cnib.rqLists[o] = []) → s.cnib.rqLists[p] = x :: l →
        ∃ t, exec (.rqpop d) s = .next t ∧ t.cnib.rq[x] = { r with st := .running, ran := true } ∧ t.cnib.rqLists[p] = l ∧
          t.ctx.inflight = s.ctx.inflight ++ (gWrite 1 d (BitVec.ofNat 64 (2 ^ 63 + r.tag.toNat * 2 ^ 8 + x.val))).map
            (fun e => ⟨s.tn + e.1, s.tn, s.cur.q, e.2⟩)))

/-- Timers, well locks and the ready queue. That locks are granted in the order of their requests is log entry 46. -/
def Obligations.TimersLocksAndReadyQueue : Prop :=
  Claims.TimersAndLocks ∧ Claims.ReadyQueueTable

/-- R312: the bits of `tip`: code 7 while the mailbox holds a message, on every stroke; the others on stroke 7 only, code 5
while a compare has fired. -/
def Claims.PendingInterrupts : Prop :=
  ∀ (x : Nib) (k : Fin 8),
    ((x.tip k).getLsbD 7 = true ↔ (x.strokes[k]).mailbox ≠ []) ∧
    (k ≠ 7 → ∀ i, i ≠ 7 → (x.tip k).getLsbD i = false) ∧
    ((x.tip 7).getLsbD 5 = true ↔ x.tmpend ≠ 0) ∧
    (∀ i ∈ [1, 9, 11], (x.tip 7).getLsbD i = (x.strokes[7]).ctx.c.tip.getLsbD i) ∧
    ∀ i, i ∉ [1, 5, 7, 9, 11] → (x.tip 7).getLsbD i = false

/-- R312, R313: at the end of a turn without exception or stop, that of a `tret` included, the first pending and enabled
interrupt in the order 9, 11, 5, 7, 1 is taken, with its code, its value, and S as the sequencer; with none pending, or with
IE clear, TS set or in mode D, nothing happens. -/
def Claims.InterruptsAreTaken : Prop :=
  ∀ (s : State) (n : NibId) (k : Fin 8) (c : Ctx), c = (s.stroke n k).ctx →
    s.turn.trapped = false → s.turn.halt = none → s.servedWaits n c.cid = false →
    ((s.stroke n k).status = .running ∨ ∃ ws, (s.stroke n k).status = .parked ws) →
    (getBits c.c.tstatus 0 1 = 0 ∨ c.c.ts = true ∨ c.c.mode = .d ∨ (s.nib n).tip k &&& c.c.tie = 0 →
      exec (.takeInterrupt n k) s = .next s) ∧
    (getBits c.c.tstatus 0 1 = 1 → c.c.ts = false → c.c.mode ≠ .d →
      ∀ r ∈ ([(9, [], 0), (11, [9], 0), (5, [9, 11], (s.nib n).tmpend.setWidth 64),
        (7, [9, 11, 5], BitVec.ofNat 64 (s.stroke n k).mailbox.length), (1, [9, 11, 5, 7], 0)] : List (Nat × List Nat × Word)),
        ((s.nib n).tip k &&& c.c.tie).getLsbD r.1 = true → (∀ j ∈ r.2.1, ((s.nib n).tip k &&& c.c.tie).getLsbD j = false) →
        ∃ t, exec (.takeInterrupt n k) s = .next t ∧
          TrapEntry c (t.stroke n k).ctx c.c.mode (BitVec.ofNat 64 (2 ^ 63 + r.1)) r.2.2 0 ∧
          (t.stroke n k).status = .running ∧ t.turn.trapped = true ∧ t.mem = s.mem)

/-- R244, R311, R334: the oldest delivered cause that has fallen due is taken at the end of a turn without exception, return
or stop, outside trap service, as a trap with S as its sequencer; in mode D it stops the stroke with reason DTRAP. A cause
that arises stands behind every cause that arose before it, and among those of its own cycle in the order of the codes, and
may be taken 8 cycles later. -/
def Claims.DeliveredCausesAreTaken : Prop :=
  ∀ (s : State) (n : NibId) (k : Fin 8) (c : Ctx) (x : Cause) (r : List Cause), c = (s.stroke n k).ctx → c.causes = x :: r →
    ((s.stroke n k).status = .running ∨ ∃ ws, (s.stroke n k).status = .parked ws) →
    (s.turn.trapped = false → s.turn.tret = false → s.turn.halt = none → c.c.ts = false → x.due ≤ s.cycle →
      s.servedWaits n c.cid = false →
      (c.c.mode ≠ .d → ∃ t, exec (.deliveredCause n k) s = .next t ∧
        TrapEntry c (t.stroke n k).ctx c.c.mode (x.code.setWidth 64) x.val 0 ∧ (t.stroke n k).ctx.causes = r ∧
        (t.stroke n k).status = .running ∧ t.mem = s.mem) ∧
      (c.c.mode = .d → ∃ t, exec (.deliveredCause n k) s = .next t ∧ t.turn.halt = some 7 ∧ (t.stroke n k).ctx.causes = r ∧
        (t.stroke n k).ctx.c = c.c)) ∧
    (s.turn.trapped = true ∨ s.turn.tret = true ∨ c.c.ts = true ∨ s.cycle < x.due → exec (.deliveredCause n k) s = .next s) ∧
    ∀ (pre post : List Cause) (code : BitVec 8) (v : Word), (s.stroke n k).status ≠ .vacant →
      (∀ j, j < k → s.hasCid n j c.cid = false) → c.causes = pre ++ post →
      (∀ y ∈ pre, y.arose < s.cycle ∨ y.arose = s.cycle ∧ y.code.toNat ≤ code.toNat) →
      (∀ y, post.head? = some y → s.cycle < y.arose ∨ s.cycle = y.arose ∧ code.toNat < y.code.toNat) →
      ((s.deliver n c.cid code v).stroke n k).ctx = { c with causes := pre ++ ⟨code, v, s.cycle, s.cycle + 8⟩ :: post }

/-- Which interrupts are pending, and how interrupts and delivered causes are taken. That neither is taken while a served
access waits to issue, and a delivered cause not in the turn of a tret, is log entry 28; that a delivered cause in mode D is
DTRAP is log entry 29. -/
def Obligations.InterruptsAndDeliveredCauses : Prop :=
  Claims.PendingInterrupts ∧ Claims.InterruptsAreTaken ∧ Claims.DeliveredCausesAreTaken

/-- R333, R334: DCTL actions: STOP asks a resident stroke that runs to stop with reason HOST; RESUME and STEP ask a stopped
one to go on, STEP for one turn; DRUN keeps its PCs and mode and sends it to DLINE in mode D; a write in the wrong state is
ignored. R30, R118, R131: in the turn in which it goes on, unless it is to run its debug routine, every sequencer attempts
afresh what it stood at, and its held records count again. -/
def Claims.DebugActions : Prop :=
  ∀ (s : State) (n : NibId) (k : Fin 8) (x : Stroke), x = s.stroke n k →
    (x.status = .running → x.dbg.stopReq = none → ∃ t, exec (.dctlStop n k) s = .next t ∧
      t.stroke n k = { x with dbg := { x.dbg with stopReq := some 1 } } ∧ { t with nibs := s.nibs } = s) ∧
    (x.status = .running → x.dbg.stopReq = none → ∃ t, exec (.groupStop n k) s = .next t ∧
      t.stroke n k = { x with dbg := { x.dbg with stopReq := some 5 } } ∧ { t with nibs := s.nibs } = s) ∧
    (x.status = .running → ∀ i ∈ [Instr.dctlResume n k, .dctlStep n k, .dctlDrun n k], exec i s = .next s) ∧
    (∀ r, x.status = .stopped r → exec (.dctlStop n k) s = .next s ∧ (x.dbg.resumeReq = false →
      (∃ t, exec (.dctlResume n k) s = .next t ∧ t.stroke n k = { x with dbg := { x.dbg with resumeReq := true } }) ∧
      (∃ t, exec (.dctlStep n k) s = .next t ∧
        t.stroke n k = { x with dbg := { x.dbg with stepping := true, resumeReq := true } }) ∧
      ∃ t, exec (.dctlDrun n k) s = .next t ∧ (t.stroke n k).ctx.c = { x.ctx.c with mode := .d } ∧
        (t.stroke n k).dbg.keptMode = x.ctx.c.mode ∧ (t.stroke n k).dbg.inDrun = true ∧ (t.stroke n k).dbg.resumeReq = true ∧
        ∀ q : Fin 4, (t.stroke n k).dbg.keptPc[q] = x.ctx.seqs[q].pc ∧
          (t.stroke n k).ctx.seqs[q].pc = BitVec.ofNat 64 (x.dbg.dline.toNat * 32))) ∧
    (∀ r, x.status = .stopped r → x.dbg.resumeReq = true → x.swapEnd ≤ s.cycle → s.filtersOn (s.partOf n) = false →
      let t := s.resumeStopped n k
      (t.stroke n k).status = .running ∧ (t.stroke n k).dbg.resumeReq = false ∧ t.mem = s.mem ∧ (t.stroke n k).ctx.r = x.ctx.r ∧
      (x.dbg.drun = true → (t.stroke n k).ctx = x.ctx) ∧
      (x.dbg.drun = false → (t.stroke n k).ctx.resumed = some s.tn ∧
        ∀ q : Fin 4, (t.stroke n k).ctx.seqs[q] = { x.ctx.seqs[q] with checked := false, thr := none, joining := false }))

/-- R63, R149, R332, R334, R335: a debug stop that is due takes effect at the end of the turn: the stroke is stopped with its
reason, its registers and memory as they were, its results kept as R63 says; `halt` in a debug routine gives the kept PCs and
mode back. -/
def Claims.DebugStopsTakeEffect : Prop :=
  ∀ (s : State) (n : NibId) (k : Fin 8) (r : BitVec 4) (x : Stroke), x = s.stroke n k → x.dbg.gen = false →
    (x.status = .running ∨ ∃ ws, x.status = .parked ws) → s.filtersOn (s.partOf n) = false →
    (s.turn.halt = some r ∨ s.turn.halt = none ∧ x.dbg.stopReq = some r ∨
      s.turn.halt = none ∧ x.dbg.stopReq = none ∧ x.dbg.stepping = true ∧ x.dbg.resumeReq = false ∧ r = 6) →
    ∃ t, exec (.debugStop n k) s = .next t ∧ (t.stroke n k).status = .stopped r ∧ (t.stroke n k).ctx.r = x.ctx.r ∧
      t.mem = s.mem ∧ (t.stroke n k).ctx.inflight = (x.ctx.freeze s.tn).inflight ∧
      (t.stroke n k).ctx.lateWrites = (x.ctx.freeze s.tn).lateWrites ∧
      (x.dbg.inDrun = false → ∀ q : Fin 4, (t.stroke n k).ctx.seqs[q].pc = x.ctx.seqs[q].pc) ∧
      (x.dbg.inDrun = true → r = 3 → x.ctx.c.mode = .d → (t.stroke n k).ctx.c.mode = x.dbg.keptMode ∧
        (t.stroke n k).dbg.inDrun = false ∧ ∀ q : Fin 4, (t.stroke n k).ctx.seqs[q].pc = x.dbg.keptPc[q])

/-- R335: a member of a halt group that stops for any reason but GROUP has every other member of its group told to stop, with
reason GROUP, within 96 cycles inside its folio and 400 elsewhere, of which the turn that ends then takes 8; one that stops
with reason GROUP tells none. A member that runs when it is told is asked to stop, and one that has stopped keeps its reason. -/
def Claims.GroupStopsAreSent : Prop :=
  (∀ (s : State) (n : NibId) (k : Fin 8) (r : BitVec 4) (x : Stroke), x = s.stroke n k → x.dbg.gen = true →
    (x.status = .running ∨ ∃ ws, x.status = .parked ws) → s.turn.halt = some r ∨ s.turn.halt = none ∧ x.dbg.stopReq = some r →
    ∃ t, exec (.debugStop n k) s = .next t ∧ (t.stroke n k).status = .stopped r ∧
      (r ≠ 5 → ∀ m ∈ s.groupMembers (s.partOf n) x.dbg.gid, m ≠ (n, k) → ∃ c, s.cycle ≤ c ∧
        c ≤ s.cycle + (if State.folioOf n = State.folioOf m.1 then 88 else 392) ∧ (c, Instr.groupStop m.1 m.2) ∈ t.agenda) ∧
      (r = 5 → ∀ e ∈ t.agenda, (∃ m j, e.2 = .groupStop m j) → e ∈ s.agenda)) ∧
  ∀ (s : State) (n : NibId) (k : Fin 8) (x : Stroke), x = s.stroke n k →
    (x.status = .running → x.dbg.stopReq = none →
      ∃ t, exec (.groupStop n k) s = .next t ∧ (t.stroke n k).dbg.stopReq = some 5) ∧
    (∀ r, x.status = .stopped r → exec (.groupStop n k) s = .next s) ∧
    (∀ r, x.dbg.stopReq = some r → exec (.groupStop n k) s = .next s)

/-- R335: resuming a halt group asks every stopped member, within its bound, to resume, and does nothing else. -/
def Claims.GroupResumes : Prop :=
  ∀ (s : State) (p g : Fin 16), ∃ t, exec (.grpres p g) s = .next t ∧ t.nibs = s.nibs ∧ t.mem = s.mem ∧
    (∀ m ∈ s.groupMembers p (BitVec.ofFin g), (s.stroke m.1 m.2).status.isStopped = true →
      ∃ c, s.cycle ≤ c ∧ c ≤ s.cycle + 392 ∧ (c, Instr.dctlResume m.1 m.2) ∈ t.agenda) ∧
    ∀ e ∈ t.agenda, e ∈ s.agenda ∨ ∃ m ∈ s.groupMembers p (BitVec.ofFin g), e.2 = .dctlResume m.1 m.2 ∧
      (s.stroke m.1 m.2).status.isStopped = true

/-- Debug stops, resumptions, single steps, debug routines and halt groups. The cycle within the spec's bound in which a group
member resumes is free, log entry 3. -/
def Obligations.DebugControl : Prop :=
  Claims.DebugActions ∧ Claims.DebugStopsTakeEffect ∧ Claims.GroupStopsAreSent ∧ Claims.GroupResumes

/-- R336, R337: with every filter off, `rpush` and `rpop` change the label stack at t+1 and `mark` changes nothing; a push at
16 entries is dropped with LOVF, a pop of an empty stack or of another label sets LMIS. -/
def Claims.LabelsStack : Prop :=
  (∀ (s : State) (l : BitVec 16), (∀ f : Fin 8, getBits s.parts[s.partOf s.cur.nib].filters[f] 2 2 = 0) →
    Issues (.rpush l) s [(1, .label .push l)] ∧ Issues (.rpop l) s [(1, .label .pop l)] ∧ Issues (.mark l) s []) ∧
  ∀ (c : Ctx) (l x : BitVec 16) (r : List (BitVec 16)),
    (c.labels.length < 16 → c.label .push l = { c with labels := l :: c.labels }) ∧
    (16 ≤ c.labels.length → c.label .push l = { c with lovf := true }) ∧
    (c.labels = [] → c.label .pop l = { c with lmis := true }) ∧
    (c.labels = x :: r → c.label .pop l = { c with labels := r, lmis := c.lmis || decide (x ≠ l) }) ∧
    c.label .mark l = c

/-- R337, R338, R342: `mark` of a label that exactly one filter matches, with ACT 1, writes one trace record with the label
and the PC; with ACT 2 it starts the gate at the end of the cycle. -/
def Claims.MatchingFiltersAct : Prop :=
  ∀ (s : State) (l : BitVec 16) (f : Word) (pre post : List Word),
    s.parts[s.partOf s.cur.nib].filters.toList = pre ++ f :: post → (∀ x ∈ pre ++ post, getBits x 2 2 = 0) →
    l &&& f.extractLsb' 32 16 = f.extractLsb' 48 16 &&& f.extractLsb' 32 16 →
    (getBits f 2 2 = 1 → ∃ t, exec (.mark l) s = .next t ∧
      Issued (s.trace s.cur.nib s.cur.k ⟨1, s.cur.q.idx.val, l.toNat, s.pc.toNat, 0⟩) t []) ∧
    (getBits f 2 2 = 2 → ∃ t, exec (.mark l) s = .next t ∧
      Issued (s.modStroke s.cur.nib s.cur.k (fun x => { x with gateOn := true })) t [])

/-- R342: a trace record that fits is written at TBASE + TPOS, little-endian, with KIND, INFO, LABEL, PC, STROKE, TURN and
DATA in their places, and TPOS rises by 32; one that does not fit is dropped: TOVF is set and DROP rises, saturating. No other
byte of memory changes. -/
def Claims.TraceRecords : Prop :=
  ∀ (s : State) (n : NibId) (k : Fin 8) (r : TraceRec) (p : Part), Memory.wf s.mem = true → p = s.parts[s.partOf n] →
    (p.tpos.toNat + 32 ≤ p.tsize.toNat / 32 * 32 →
      let t := s.trace n k r
      let a := p.tbase.toNat + p.tpos.toNat
      Memory.read t.mem a 1 = r.kind % 256 ∧ Memory.read t.mem (a + 1) 1 = r.info % 256 ∧
      Memory.read t.mem (a + 2) 2 = r.label % 65536 ∧ Memory.read t.mem (a + 4) 4 = r.pc % 2 ^ 32 ∧
      Memory.read t.mem (a + 8) 8 = s.strokeNumber n k ∧ Memory.read t.mem (a + 16) 8 = s.tn % 2 ^ 64 ∧ Memory.read t.mem (a + 24) 8 = r.data % 2 ^ 64 ∧
      (∀ b, b < a ∨ a + 32 ≤ b → Memory.get t.mem b = Memory.get s.mem b) ∧
      t.parts[s.partOf n].tpos = p.tpos + 32 ∧ t.nibs = s.nibs) ∧
    (p.tsize.toNat / 32 * 32 < p.tpos.toNat + 32 →
      let t := s.trace n k r
      t.mem = s.mem ∧ t.parts[s.partOf n].tovf = true ∧ t.parts[s.partOf n].tpos = p.tpos ∧
      t.parts[s.partOf n].tdrop.toNat = min 32767 (p.tdrop.toNat + 1) ∧ t.nibs = s.nibs)

/-- R338, R339, R340, R341, R342: the class of a turn is that of the first row of R339 that applies: vacant, an instruction
has issued, a wait on memory or a park on a replayable fault, a wait on a message-like coupling. A turn counts in its class,
and INSTR by the instructions issued, while the gate is open, opened in this cycle included, but not where both happen in it.
The histogram counts the strokes whose latest turn was classed Issued; a write clears a bin; writes of TBASE and TSIZE clear
TPOS, TOVF and DROP; a sample is traced once every 2^SPER turns while the gate is open. -/
def Claims.TurnsAreCounted : Prop :=
  ∀ (s : State) (n : NibId) (k : Fin 8) (x : Stroke), x = s.stroke n k →
    let open_ : Prop := (x.ctx.gate = true ∨ x.gateOn = true) ∧ ¬ (x.gateOn = true ∧ x.gateOff = true)
    let memory : Prop := s.turn.waitMem = true ∨ ∃ ws id, x.status = .parked ws ∧ .replay id ∈ ws
    let message : Prop := s.turn.waitMsg = true ∨ (∃ ws id, x.status = .parked ws ∧ .sync id ∈ ws) ∨
      ((x.status = .running ∨ ∃ ws, x.status = .parked ws) ∧ ∃ q : Fin 4, x.ctx.seqs[q].joining = true) ∨
      s.chainStalled n x.ctx.cid = true
    (∃ t, exec (.turnClassCount n k) s = .next t ∧ { t with nibs := s.nibs } = s ∧
      (∀ m j, (m, j) ≠ (n, k) → t.stroke m j = s.stroke m j) ∧
      ((t.stroke n k).lastIssued = true ↔ x.status ≠ .vacant ∧ s.turn.issued ≠ []) ∧
      (x.status = .vacant ∨ ¬ open_ → (t.stroke n k).ctx = x.ctx) ∧
      (x.status ≠ .vacant → open_ →
        (s.turn.issued ≠ [] → (t.stroke n k).ctx = { x.ctx with
          issued := x.ctx.issued + 1, instr := x.ctx.instr + BitVec.ofNat 48 s.turn.issued.length }) ∧
        (s.turn.issued = [] → memory → (t.stroke n k).ctx = { x.ctx with nrMem := x.ctx.nrMem + 1 }) ∧
        (s.turn.issued = [] → ¬ memory → message → (t.stroke n k).ctx = { x.ctx with nrMsg := x.ctx.nrMsg + 1 }) ∧
        (s.turn.issued = [] → ¬ memory → ¬ message → (t.stroke n k).ctx = x.ctx))) ∧
    ((∀ j : Fin 8, (s.stroke n j).gateOn = false ∧ (s.stroke n j).gateOff = false) →
      ∃ t, exec (.readyHistogramCount n) s = .next t ∧ (t.nib n).strokes = (s.nib n).strokes ∧ { t with nibs := s.nibs } = s ∧
        ((∀ j : Fin 8, (s.stroke n j).ctx.gate = false) → (t.nib n).hist = (s.nib n).hist) ∧
        ((∃ j : Fin 8, (s.stroke n j).ctx.gate = true) →
          ∃ i : Fin 9, i.val = ((s.nib n).strokes.toList.filter (·.lastIssued)).length ∧
            (t.nib n).hist[i] = (s.nib n).hist[i] + 1 ∧ ∀ j : Fin 9, j ≠ i → (t.nib n).hist[j] = (s.nib n).hist[j])) ∧
    (∀ b : Fin 9, ∃ t, exec (.histogramBin n b) s = .next t ∧ (t.nib n).hist[b] = 0 ∧
      (∀ j : Fin 9, j ≠ b → (t.nib n).hist[j] = (s.nib n).hist[j]) ∧ (t.nib n).strokes = (s.nib n).strokes ∧
      { t with nibs := s.nibs } = s) ∧
    (∀ (p : Fin 16) (w : BitVec 64), (∃ t, exec (.tbase p w) s = .next t ∧
        t.parts[p] = { s.parts[p] with tbase := w &&& 0xFFFFFFFFFFC0, tpos := 0, tovf := false, tdrop := 0 } ∧
        { t with parts := s.parts } = s) ∧
      ∃ t, exec (.tsize p w) s = .next t ∧ { t with parts := s.parts } = s ∧
        t.parts[p] = { s.parts[p] with tsize := (w &&& 0xFFFFFFE0).setWidth 32, tpos := 0, tovf := false, tdrop := 0 }) ∧
    ∀ e : Nat, e = s.parts[s.partOf n].tsamp.toNat →
      (e ≠ 0 → s.tn % 2 ^ e = 0 → open_ → exec (.traceSample n k) s =
        .next (s.trace n k ⟨6, 0, 0, x.ctx.seqs[0].pc.toNat, x.ctx.issued.toNat⟩)) ∧
      (e = 0 ∨ s.tn % 2 ^ e ≠ 0 ∨ ¬ open_ → exec (.traceSample n k) s = .next s)

/-- Labels, filters, trace records and turn counters. The phase of a sample and the edges of a gate are log entries 30 and 31. -/
def Obligations.LabelsTraceAndCounters : Prop :=
  Claims.LabelsStack ∧ Claims.MatchingFiltersAct ∧ Claims.TraceRecords ∧ Claims.TurnsAreCounted

/-- R321: in mode K with the cache enabled, `ctxsw` of another stroke that holds no lock, with its entry free of transfers,
marks the swap and goes on; mode T or D, a disabled cache, reserved bits, the issuing stroke itself and a stroke that holds a
lock trap ILLEGAL with g[a]; a swap of a vacant stroke with an empty entry has no effect; and S waits while the entry or the
stroke has a swap or a transfer in progress (in no turn class, the model's choice, log entry 49). -/
def Claims.ContextSwapIssues : Prop :=
  ∀ (s : State) (a : Fin 32) (i e : Fin 8), s.Clear [.g a] [] false →
    (s.turn.mode ≠ .k ∨ s.cnib.ctxEn = false ∨ s.rg a &&& ~~~ 0x707 ≠ 0 →
      exec (.ctxsw a) s = .next (s.raise 0x02 (s.rg a))) ∧
    (s.turn.mode = .k → s.cnib.ctxEn = true → (s.rg a).toNat = i.val + 0x100 * e.val →
      (i = s.cur.k ∨ s.holdsLock i = true → exec (.ctxsw a) s = .next (s.raise 0x02 (s.rg a))) ∧
      (i ≠ s.cur.k → s.holdsLock i = false →
        let idle : Prop := (s.stroke s.cur.nib i).swap = none ∧ (s.stroke s.cur.nib i).swapEnd ≤ s.cycle ∧
          (s.stroke s.cur.nib i).status ≠ .arriving (s.stroke s.cur.nib i).swapEnd ∧
          ∀ o ∈ s.ops, o.nib = s.cur.nib → o.cid = (s.stroke s.cur.nib i).ctx.cid → o.performed = false →
            ∀ f va store done, o.kind ≠ .ctxMove f va store done
        (s.entryBusy e = true ∨ ¬ idle → exec (.ctxsw a) s = .next s) ∧
        (s.entryBusy e = false → idle →
          ((s.stroke s.cur.nib i).status = .vacant → s.cnib.entries[e].valid = false → Issues (.ctxsw a) s []) ∧
          ((s.stroke s.cur.nib i).status ≠ .vacant ∨ s.cnib.entries[e].valid = true → ∃ t, exec (.ctxsw a) s = .next t ∧
            Issued (s.modStroke s.cur.nib i (fun y => { y with swap := some (e, s.cycle) })) t []))))

/-- R320, R321: at the end of its next turn a swapped stroke gives its context to the entry, which becomes valid, and takes
the entry's; with an empty entry it becomes vacant; the sets of labels, gate and counters change places (R340); a restored
stroke begins to issue at the first turn from 168 cycles after the `ctxsw`, with held records counting from that turn. -/
def Claims.SwapsTakePlace : Prop :=
  ∀ (s : State) (n : NibId) (k e : Fin 8) (c : Nat),
    ((s.stroke n k).swap = none → exec (.swapStop n k) s = .next s) ∧
    ((s.stroke n k).swap = some (e, c) → s.cycle ≤ c → exec (.swapStop n k) s = .next s) ∧
    ((s.stroke n k).swap = some (e, c) → c < s.cycle → ∃ t, exec (.swapStop n k) s = .next t ∧
      (t.stroke n k).swap = none ∧ (t.stroke n k).swapEnd = c + 168 ∧ (t.nib n).entries[e].busyUntil = c + 168 ∧
      (∀ f ∈ ([(·.issued), (·.nrMem), (·.nrMsg), (·.instr)] : List (Ctx → BitVec 48)),
        f (t.stroke n k).ctx = f (s.nib n).entries[e].ctx ∧ f (t.nib n).entries[e].ctx = f (s.stroke n k).ctx) ∧
      (t.stroke n k).ctx.gate = (s.nib n).entries[e].ctx.gate ∧ (t.nib n).entries[e].ctx.gate = (s.stroke n k).ctx.gate ∧
      (t.stroke n k).ctx.labels = (s.nib n).entries[e].ctx.labels ∧
      (t.nib n).entries[e].valid = decide ((s.stroke n k).status ≠ .vacant) ∧
      ((s.stroke n k).status ≠ .vacant → (t.nib n).entries[e].ctx.cid = (s.stroke n k).ctx.cid) ∧
      ((s.nib n).entries[e].valid = false → (t.stroke n k).status = .vacant) ∧
      ((s.nib n).entries[e].valid = true → (t.stroke n k).ctx.r = (s.entryCtx n e).r ∧
        (t.stroke n k).ctx.cid = (s.nib n).entries[e].ctx.cid ∧
        ((Memory.get s.mem (entryPA n e + 0x1432)).getLsbD 1 = false → (t.stroke n k).status = .arriving (c + 168)) ∧
        ((Memory.get s.mem (entryPA n e + 0x1432)).getLsbD 1 = true → (t.stroke n k).status = .stopped 1))) ∧
    ((s.stroke n k).status = .arriving c → c ≤ s.cycle → ∃ t, exec (.swapResume n k) s = .next t ∧
      (t.stroke n k).status = .running ∧ (t.stroke n k).ctx.withdrawn = false ∧ (t.stroke n k).ctx.r = (s.stroke n k).ctx.r ∧
      (t.stroke n k).ctx.seqs = (s.stroke n k).ctx.seqs ∧ { t with nibs := s.nibs } = s ∧
      ((s.stroke n k).ctx.lateWrites ≠ [] ∨ (s.stroke n k).ctx.handRecs ≠ [] → (t.stroke n k).ctx.resumed = some s.tn))

/-- R322: `ctxst` and `ctxld` in mode K start the accesses of their record and make S wait (in no turn class, the model's
choice, log entry 49); each performs 64 bytes of it in order; the last one makes the entry of a `ctxld` valid where the record
is of version 1 and, in deterministic mode, of this nib; then S goes on, or takes the trap that an access or a check met.
Ill-formed operands trap. -/
def Claims.ContextRecordsMove : Prop :=
  (∀ (s : State) (a b : Fin 32) (e : Fin 8), s.Clear [.g a, .g b] [] false →
    (s.turn.mode ≠ .k ∨ s.cnib.ctxEn = false ∨ 8 ≤ (s.rg a).toNat →
      exec (.ctxst a b) s = .next (s.raise 0x02 (s.rg a)) ∧ exec (.ctxld a b) s = .next (s.raise 0x02 (s.rg a))) ∧
    (s.turn.mode = .k → s.cnib.ctxEn = true → (s.rg a).toNat = e.val →
      ((s.rg b).toNat % 1024 ≠ 0 →
        exec (.ctxst a b) s = .next (s.raise 0x06 (s.rg b)) ∧ exec (.ctxld a b) s = .next (s.raise 0x04 (s.rg b))) ∧
      ((s.rg b).toNat % 1024 = 0 →
        (s.myMove = none →
          (s.cnib.entries[e].valid = false ∨ (s.entryCtx s.cur.nib e).live s.cnib.matrix = true →
            exec (.ctxst a b) s = .next (s.raise 0x02 (s.rg a))) ∧
          (s.cnib.entries[e].valid = true → exec (.ctxld a b) s = .next (s.raise 0x02 (s.rg a))) ∧
          (0x60000 ≤ (s.rg b).toNat → s.ctx.c.ptroot.getLsbD 0 = false →
            (s.cnib.entries[e].valid = true → (s.entryCtx s.cur.nib e).live s.cnib.matrix = false →
              exec (.ctxst a b) s = .next (s.raise 0x07 (s.rg b))) ∧
            (s.cnib.entries[e].valid = false → exec (.ctxld a b) s = .next (s.raise 0x05 (s.rg b)))) ∧
          ((s.rg b).toNat < 0x60000 →
            (s.cnib.entries[e].valid = true → (s.entryCtx s.cur.nib e).live s.cnib.matrix = false →
              ∃ t o c, exec (.ctxst a b) s = .next t ∧ t.turn = s.turn ∧ t.nibs = s.nibs ∧ t.mem = s.mem ∧
                t.ops = s.ops ++ [o] ∧ o.kind = .ctxMove e (s.rg b) true 0 ∧ s.cycle < c ∧ (c, .homeWrite o.id) ∈ t.agenda) ∧
            (s.cnib.entries[e].valid = false →
              ∃ t o c, exec (.ctxld a b) s = .next t ∧ t.turn = s.turn ∧ t.nibs = s.nibs ∧ t.mem = s.mem ∧
                t.ops = s.ops ++ [o] ∧ o.kind = .ctxMove e (s.rg b) false 0 ∧ s.cycle < c ∧ (c, .homeRead o.id) ∈ t.agenda))) ∧
        ∀ o, s.myMove = some o → ∀ i ∈ [Instr.ctxst a b, .ctxld a b],
          (o.performed = false → exec i s = .next s) ∧
          (o.performed = true → o.fail = none → ∃ t, exec i s = .next t ∧ Issued (s.dropOp o.id) t []) ∧
          (∀ c v, o.performed = true → o.fail = some (c, v) → c ≠ 0 → exec i s = .next ((s.dropOp o.id).raise c v))))) ∧
  ∀ (s : State) (o : Op) (e : Fin 8) (va : Word) (store : Bool) (done : Nat) (r : Range) (tl : List Range),
    s.findOp o.id = some o → o.kind = .ctxMove e va store done → o.performed = false → o.parked = false →
    s.engPieces o.nib (s.engFor o.nib o.cid).1 true store false (State.cellPieces (va + BitVec.ofNat 64 (64 * done)) 0 64 3) [] =
      .ok (r :: tl) → r.cache = false →
    (s.pieceAt o.nib (s.engFor o.nib o.cid).1 r (s.opLc o)).cache = false →
    (store = true → ∃ t, exec (.homeWrite o.id) s = .next t ∧
      t.mem = Memory.write s.mem r.pa 64 (Memory.read s.mem (entryPA o.nib e + 64 * done) 64) ∧
      ∃ p, t.findOp o.id = some p ∧ (done + 1 = 160 → p.performed = true ∧ p.fail = none) ∧
        (done + 1 ≠ 160 → p.performed = false ∧ p.kind = .ctxMove e va true (done + 1))) ∧
    (store = false → ∃ t, exec (.homeRead o.id) s = .next t ∧
      (done + 1 ≠ 160 → r.size = 64 →
        t.mem = Memory.write s.mem (entryPA o.nib e + 64 * done) 64 (Memory.read s.mem r.pa 64) ∧
        ∃ p, t.findOp o.id = some p ∧ p.performed = false ∧ p.kind = .ctxMove e va false (done + 1)) ∧
      (done + 1 = 160 → r.size = 64 → ∀ m img, m = Memory.write s.mem (entryPA o.nib e + 64 * done) 64 (Memory.read s.mem r.pa 64) →
        img = Memory.read m (entryPA o.nib e) recordSize → ∃ p, t.findOp o.id = some p ∧ p.performed = true ∧
        (recField img 0x1430 1 ≠ 1 → p.fail = some (0x02, va) ∧ (t.nib o.nib).entries = (s.nib o.nib).entries) ∧
        (recField img 0x1430 1 = 1 → (∀ c, s.findCid o.nib o.cid = some c → c.c.tstatus.getLsbD 15 = false) →
          p.fail = none ∧ (t.nib o.nib).entries[e].valid = true)))

/-- Swapping, storing and loading contexts. What a restored debug-stopped context shows is log entry 44; clocks in records are
log entry 12; that ctxsw, ctxst and ctxld wait in turns of no class is log entry 49. -/
def Obligations.ContextsSwap : Prop :=
  Claims.ContextSwapIssues ∧ Claims.SwapsTakePlace ∧ Claims.ContextRecordsMove

/-- R20, R353: a launch starts task x in mode T with all four sequencers at the PC of the record, g12 = x, g13 the indices of
its units, g3 and g4 to g11 from the record, every seal, pending bit, slot and queue clear, `tstatus` with DET and IE of the
launch alone, and the limit, root, seed and stream of the launch. -/
def Claims.LaunchState : Prop :=
  ∀ (s : State) (l : Launch) (n : NibId) (k : Fin 8) (x cid at_ : Nat) (rq : Option (Fin 64)),
    let c := s.launchCtx l n k x rq cid at_
    c.c.mode = .t ∧ (∀ q : Fin 4, c.seqs[q].pc = BitVec.ofNat 64 (l.field 8 8) ∧ c.seqs[q].ended = false ∧ c.seqs[q].lc = l.clk) ∧
    c.r.g[12] = BitVec.ofNat 64 x ∧ c.r.g[3] = BitVec.ofNat 64 (l.recd 8 8) ∧
    (∀ i : Fin 8, c.r.g[4 + i.val]'(by omega) = BitVec.ofNat 64 (l.recd (0x10 + 8 * i.val) 8)) ∧
    (∀ i : Fin 8, getBits c.r.g[13] (8 * i.val) 8 =
      levelIndex s.modu.modn.toNat (l.recd 0x58 4) n k.val l.levels i.val % 256) ∧
    c.r.g[2] = BitVec.ofNat 64 (l.recd 0x50 4 + (k.val + 1) * l.recd 0x54 4) ∧
    (∀ i : Fin 32, i.val < 2 ∨ 13 < i.val → c.r.g[i] = 0) ∧
    (∀ y : Fin 16, c.r.seals[y] = ⟨0, 0, 0⟩) ∧ c.r.pendG = 0 ∧ c.r.pendV = 0 ∧ c.r.pendP = 0 ∧
    (∀ y : Fin 8, (c.x.slots[y]).valid = false) ∧ c.x.ax = [] ∧ c.x.xw = [] ∧ (∀ y : Fin 4, c.x.oq[y] = []) ∧ c.x.fmt = [] ∧
    getBits c.c.tstatus 15 1 = l.field 0x15 1 % 2 ∧ getBits c.c.tstatus 0 1 = l.field 0x15 1 / 2 % 2 ∧
    c.c.xob = BitVec.ofNat 64 (l.field 0x10 4) ∧ c.c.ptroot = l.root &&& 0xFFFFFFFFFFFF0001 ∧
    c.c.rngsid = BitVec.ofNat 64 (x % 2 ^ 32) ∧ c.inflight = [] ∧ c.labels = [] ∧ c.task.launch = l.id ∧ c.task.index = x ∧
    c.c.rngseed = BitVec.ofNat 64 (l.field 0x28 8) ^^^ BitVec.ofNat 64 (x / 2 ^ 32 % 256 * 2 ^ 56) ∧
    c.c.rpolicy = BitVec.ofNat 64 (l.field 0x15 1 / 4 % 4) ∧ c.task.origin = s.nibNumber n ∧
    (c.issued = 0 ∧ c.nrMem = 0 ∧ c.nrMsg = 0 ∧ c.instr = 0) ∧ c.lateWrites = [] ∧ c.handRecs = [] ∧ c.causes = []

/-- R16, R354: the index of a unit within an enclosing unit is its position in row-major order over the grid of such units
there: a stroke's in its nib its number, in a wider unit 8 times that of its nib and its number; a nib's, quad's, block's or
folio's by global row and column; a module's in its pod, and a smaller unit's there with the modules counted from PODBASE; and
the top used level's in its module, in the pod, or 0. The worked example of the rule comes out as it says. -/
def Claims.UnitIndices : Prop :=
  (∀ (modn pod : Nat) (n : NibId) (k i d : Nat) (levels : List Nat), pod ≤ modn → modn < 65536 → levels[i]? = some d →
    let folio := n.val / 4096
    let row := folio / 4 * 64 + n.val % 4096 / 64
    let col := folio % 4 * 64 + n.val % 64
    let side : Nat → Nat := fun x => if x ≤ 1 then 1 else if x = 2 then 2 else if x = 3 then 8 else if x = 4 then 64 else 256
    let grid := fun (d e : Nat) => row % side e / side d * (side e / side d) + col % side e / side d
    let inside := fun (d e : Nat) => if d = 0 ∧ e = 1 then k else if d = 0 then 8 * grid 1 e + k else grid d e
    let inModule := if d = 0 then 524288 else (256 / side d) * (256 / side d)
    let index := levelIndex modn pod n k levels i
    (∀ e, levels[i + 1]? = some e → d < e → (e ≤ 5 → index = inside d e) ∧
      (e = 6 → index = if d = 5 then modn - pod else (modn - pod) * inModule + inside d 5)) ∧
    (levels[i + 1]? = none → (d < 5 → index = inside d 5) ∧ (d = 5 → index = modn - pod) ∧ (d = 6 → index = 0)) ∧
    inside 4 5 = folio) ∧
  ∀ (s : State) (l : Launch) (rq : Option (Fin 64)) (cid at_ : Nat), l.record.toNat % 2 ^ 64 = 0x0707070704030100 →
    l.folios = 0x60 → l.quota = 2 →
    l.ordinal 0x6388 = 5000 ∧ 10001 / l.quota = 5000 ∧ 26385 / l.quota % l.nibs = 5000 ∧
    (s.launchCtx l 0x6388 1 10001 rq cid at_).r.g[13] = 0x06093001 ∧ (s.launchCtx l 0x6388 1 10001 rq cid at_).r.g[12] = 10001

/-- R21, R353: a nib that accepts a wake starts each task of its first round, task o × QUOTA + j, on its stroke j where that
is vacant, or holds the nib's kernel outside trap service (R13, log entry 10), in the state of the launch, to issue from this
cycle on. R158: its block table is empty then (the model takes the launch for the accepted wake, log entry 65). -/
def Claims.WakesStartTasks : Prop :=
  ∀ (s : State) (n : NibId) (id : Nat) (l : Launch), s.findLaunch id = some l → 1 ≤ l.quota → l.quota ≤ 8 → l.id = id →
    ∃ t, exec (.wakeAccept n id) s = .next t ∧ t.mem = s.mem ∧ (t.nib n).blocks = [] ∧
      ∀ (k : Fin 8), k.val < l.quota → l.ordinal n * l.quota + k.val < l.tasks →
        ((s.stroke n k).status = .vacant ∨ k = 7 ∧ s.modu.ready = true ∧ (s.stroke n k).ctx.task = Task.reset ∧
          (s.stroke n k).ctx.c.ts = false) →
        (t.stroke n k).status = .arriving s.cycle ∧ (t.stroke n k).mailbox = [] ∧
        (t.stroke n k).ctx.task.launch = id ∧ (t.stroke n k).ctx.task.index = l.ordinal n * l.quota + k.val ∧
        (t.stroke n k).ctx.c.mode = .t ∧
        (t.stroke n k).ctx.r.g[12] = BitVec.ofNat 64 (l.ordinal n * l.quota + k.val)

/-- R135, R286, R329, R380, R387: the task of a stroke whose conditions hold ends: its locks and its place among those that
wait for one go, its queue entries are discarded and its registers and counters stand, and its launch counts it. With no task
waiting the stroke is vacant, or stroke 7 of a module whose firmware runs goes back to the kernel (R13, log entry 10); else
the kernel starts there, within 1,024 turns of stroke 7, the first READY task, in the order of `rqpop`, that may run on it:
one whose QUOTA reaches it, 8 for stroke 7 (R13), and in deterministic mode the one bound to it (R25; that a task which may
not run there is passed over is the model's choice, log entry 71). Before the conditions hold nothing happens. -/
def Claims.TasksEnd : Prop :=
  ∀ (s : State) (n : NibId) (k : Fin 8) (c : Ctx), c = (s.stroke n k).ctx →
    (s.taskOver n k = false → exec (.taskEnd n k) s = .next s) ∧
    (s.taskOver n k = true → (s.nib n).waiting = [] → ∃ t, exec (.taskEnd n k) s = .next t ∧ t.mem = s.mem ∧
      (∀ l ∈ (t.nib n).locks, l.owner ≠ k) ∧ (∀ x ∈ (t.nib n).lockWait, x.1 ≠ k) ∧
      (∀ j, j ≠ k → t.stroke n j = s.stroke n j) ∧
      (∀ l, s.findLaunch c.task.launch = some l → ∃ l', t.findLaunch l.id = some l' ∧ l'.left = l.left - 1 ∧
        (l.left ≤ 1 → (s.cycle, Instr.launchComplete l.id) ∈ t.agenda)) ∧
      ((∀ p : Fin 4, (s.nib n).rqLists[p] = []) →
        (t.stroke n k).mailbox = [] ∧
        (k = 7 → s.modu.ready = true → (t.stroke n k).status = .running ∧ (t.stroke n k).ctx.c.mode = .k ∧
          ∀ q : Fin 4, (t.stroke n k).ctx.seqs[q].pc = Config.kernelEntry s.modu.flash) ∧
        (k ≠ 7 ∨ s.modu.ready = false → (t.stroke n k).status = .vacant ∧ (t.stroke n k).ctx = { c with
          cid := 0, task := Task.reset, lateWrites := [], handRecs := [], resumed := none, causes := []
          x := { c.x with oq := .replicate 4 [], ax := [], xw := [] } })) ∧
      ∀ (pre post : List (Fin 64)) (i : Fin 64) (j x : Nat) (l : Launch), (s.nib n).rqLists.toList.flatten = pre ++ i :: post →
        (∃ z, s.findLaunch c.task.launch = some z) → (∀ y ∈ pre, s.startable n k y = none) →
        (s.nib n).rq[i].task = some (j, x) → s.findLaunch j = some l → k.val < l.quota → (k = 7 → l.quota = 8) →
        (l.det = true → x % l.quota = k.val) →
        (∃ at_, s.cycle < at_ ∧ at_ ≤ s.cycle + 8184 ∧ (t.stroke n k).status = .arriving at_) ∧
        (t.stroke n k).ctx.task.launch = l.id ∧ (t.stroke n k).ctx.task.index = x ∧ (t.stroke n k).ctx.task.rq = some i ∧
        (t.nib n).rq[i].st = .running ∧ ∀ p : Fin 4, i ∉ (t.nib n).rqLists[p])

/-- R355: a nib kernel with no task waiting outside its queue sends its count c of READY tasks that have never run to every
neighbour, and where no neighbour's last report is lower by 2 or more it moves none; to a neighbour whose last report c' is,
it moves min(4, (c - c') div 2); while tasks are left it reports on, once every 4,096 turns (log entry 73); a report that
arrives stands until the next. A move takes the movable task of the lowest priority with the highest index to the first FREE
id of its priority at the neighbour. -/
def Claims.LoadReports : Prop :=
  (∀ (s : State) (n : NibId), s.nibLost n = false → (s.nib n).waiting = [] →
    ∃ t, exec (.loadBalance (.exchange n)) s = .next t ∧ t.mem = s.mem ∧
      (∀ (d : Fin 4) m, s.neighbour n d = some m → s.nibLost m = false →
        ∃ c, s.cycle < c ∧ (c, Instr.loadBalance (.report m ⟨d + 2, (s.movable n).length⟩)) ∈ t.agenda) ∧
      (s.movable n ≠ [] → (∀ e ∈ s.agenda, e.2 ≠ .loadBalance (.exchange n)) →
        ((s.cycle / 32768 + 1) * 32768, Instr.loadBalance (.exchange n)) ∈ t.agenda) ∧
      (∀ (d : Fin 4) m, s.neighbour n d = some m → s.nibLost m = false → (s.nib n).load[d] + 2 ≤ (s.movable n).length →
        (∀ d' : Fin 4, d' ≠ d → (s.movable n).length < (s.nib n).load[d'] + 2) →
        ∃ u : State, { u with agenda := s.agenda, fresh := s.fresh } = s ∧
          t.nibs = ((fun y => State.moveTask y n m)^[min 4 (((s.movable n).length - (s.nib n).load[d]) / 2)] u).nibs) ∧
      ((∀ d : Fin 4, (s.movable n).length < (s.nib n).load[d] + 2) → t.nibs = s.nibs)) ∧
  (∀ (s : State) (n : NibId) (r : LoadReport), s.nibLost n = false → ∃ t, exec (.loadBalance (.report n r)) s = .next t ∧
    t.nib n = { s.nib n with load := (s.nib n).load.set r.dir r.count } ∧ { t with nibs := s.nibs } = s) ∧
  ∀ (s : State) (n m : NibId) (i j : Fin 64) (lid x : Nat) (l : Launch), n ≠ m → i ∈ s.movable n →
    (s.nib n).rq[i].task = some (lid, x) → s.findLaunch lid = some l → (s.nib m).waiting = [] → l.prio = i.val / 16 →
    (∀ y ∈ s.movable n, y ≠ i → ∃ ly xy, (s.nib n).rq[y].task = some (ly, xy) ∧ xy < 2 ^ 64 ∧
      (y.val / 16 < i.val / 16 ∨ y.val / 16 = i.val / 16 ∧ xy < x)) →
    j.val / 16 = i.val / 16 → (s.nib m).rq[j].st = .free → (∀ y, y < j → y.val / 16 = i.val / 16 → (s.nib m).rq[y].st ≠ .free) →
    (∀ k : Fin 8, s.roomAt m k = false) →
    let t := s.moveTask n m
    (t.nib n).rq[i] = { (s.nib n).rq[i] with st := .free, wakePend := false, task := none } ∧
    i ∉ (t.nib n).rqLists[(⟨i.val / 16, by omega⟩ : Fin 4)] ∧
    (t.nib m).rq[j] = ⟨.ready, false, BitVec.ofNat 48 x, some (l.id, x), false⟩ ∧
    (t.nib m).rqLists[(⟨j.val / 16, by omega⟩ : Fin 4)] = (s.nib m).rqLists[(⟨j.val / 16, by omega⟩ : Fin 4)] ++ [j] ∧
    t.mem = s.mem

/-- The state in which a task starts, its unit indices, how wakes start it, how it ends, and load reports. That a new task's
gate follows its queue's capture is log entry 31; an empty block table is log entry 65; which task starts is log entries 71
and 72; load reports are log entry 73; the nib kernel's part is log entry 10. -/
def Obligations.TasksStartAndEnd : Prop :=
  Claims.LaunchState ∧ Claims.UnitIndices ∧ Claims.WakesStartTasks ∧ Claims.TasksEnd ∧ Claims.LoadReports

/-- R43, R144: the effective address of each address mode, and the value that modes 01 and 10 write back; mode 10 wraps within
its modulo register while the address lies in its region. -/
def Claims.AddressModes : Prop :=
  ∀ (s : State) (a : Fin 32) (i : BitVec 10) (size : Nat),
    s.ea a 0 i size = s.rg a + BitVec.ofInt 64 (i.toInt * size) ∧ s.ea a 1 i size = s.rg a ∧ s.ea a 2 i size = s.rg a ∧
    (∀ b : Fin 32, i.toNat % 32 = b.val → s.ea a 3 i size = s.rg a + s.rg b <<< (i.toNat / 32 % 8)) ∧
    s.eaNext a 1 i size = s.rg a + BitVec.ofInt 64 (i.toInt * size) ∧
    ∀ j : Fin 8, i.toNat / 128 = j.val →
      let ea := (s.rg a).toNat
      let b := (s.ctx.r.m[j]).base.toNat
      let n := (s.ctx.r.m[j]).len.toNat
      let inc := i.toNat % 128 * size
      (n ≠ 0 → b ≤ ea → ea < b + n → s.eaNext a 2 i size = BitVec.ofNat 64 (b + (ea - b + inc) % n)) ∧
      (n = 0 ∨ ea < b ∨ b + n ≤ ea → s.eaNext a 2 i size = BitVec.ofNat 64 (ea + inc))

/-- R143, R150: a local-form load reads the well as it stood at the start of its turn and sends the value to its register for
t+2, `ld.q` to the next entry of the A→X queue; modes 01 and 10 update their base register at t+1. Memory stays as it is. -/
def Claims.LocalLoads : Prop :=
  ∀ (s : State) (d a : Fin 32) (m : Fin 4) (i : BitVec 10),
    (∀ r ∈ ([(.ldB d a m 0 i, 1, true), (.ldH d a m 0 i, 2, true), (.ldW d a m 0 i, 4, true), (.ldD d a m 0 i, 8, false),
      (.ldBn d a m 0 i, 1, false), (.ldHn d a m 0 i, 2, false), (.ldWn d a m 0 i, 4, false)] : List (Instr × Nat × Bool)),
      s.Clear (State.eaSrcs a m i) (.g d :: State.eaDsts a m) false → s.LocalOk (s.ea a m i r.2.1) r.2.1 r.2.1 →
      ∀ x, x = s.wellRead (s.ea a m i r.2.1).toNat r.2.1 → ∃ t, exec r.1 s = .next t ∧ t.mem = s.mem ∧
        Retired s t (gWrite 2 d (if r.2.2 then (BitVec.ofNat (8 * r.2.1) x).signExtend 64 else BitVec.ofNat 64 x) ++
          incWrite s a m i r.2.1)) ∧
    (s.LocalOk (s.ea a m i 128) 128 64 → ∀ x, x = BitVec.ofNat 1024 (s.wellRead (s.ea a m i 128).toNat 128) →
      (s.Clear (State.eaSrcs a m i) (.v (s.vphys d) :: State.eaDsts a m) false → ∃ t, exec (.ldV d a m 0 i) s = .next t ∧
        t.mem = s.mem ∧ Retired s t (vWrite s 2 d x ++ incWrite s a m i 128)) ∧
      (s.Clear (State.eaSrcs a m i) (State.eaDsts a m) false → s.ctx.x.ax.length < 4 → ∃ t c, exec (.ldQ a m 0 i) s = .next t ∧
        t.mem = s.mem ∧ Retired s t ([(1, .vqReserve s.nextId), (2, .vqFill s.nextId x c)] ++ incWrite s a m i 128)) ∧
      (s.Clear (State.eaSrcs a m i) (State.eaDsts a m) false → 4 ≤ s.ctx.x.ax.length → exec (.ldQ a m 0 i) s = .next s.waitMsg))

/-- R143, R150: a local-form store writes its bytes, little-endian, at its effective address in the well of its nib, and
changes no other byte; `st.q` takes the head of the X→W queue and waits while that is not filled. -/
def Claims.LocalStores : Prop :=
  ∀ (s : State) (d a : Fin 32) (m : Fin 4) (i : BitVec 10), Memory.wf s.mem = true →
    let stored := fun (t : State) (ea : Word) (size x : Nat) =>
      (∀ j < size, Memory.get t.mem (wellPA s.cur.nib ea.toNat + j) = BitVec.ofNat 8 (x / 256 ^ j)) ∧
      ∀ b, b < wellPA s.cur.nib ea.toNat ∨ wellPA s.cur.nib ea.toNat + size ≤ b → Memory.get t.mem b = Memory.get s.mem b
    (∀ r ∈ ([(.stB d a m 0 i, 1), (.stH d a m 0 i, 2), (.stW d a m 0 i, 4), (.stD d a m 0 i, 8)] : List (Instr × Nat)),
      s.Clear (.g d :: State.eaSrcs a m i) (State.eaDsts a m) false → s.LocalOk (s.ea a m i r.2) r.2 r.2 →
      ∃ t, exec r.1 s = .next t ∧ stored t (s.ea a m i r.2) r.2 (s.rg d).toNat ∧ Retired s t (incWrite s a m i r.2)) ∧
    (s.LocalOk (s.ea a m i 128) 128 64 →
      (s.Clear (.v (s.vphys d) :: State.eaSrcs a m i) (State.eaDsts a m) false → ∃ t, exec (.stV d a m 0 i) s = .next t ∧
        stored t (s.ea a m i 128) 128 (s.rv d).toNat ∧ Retired s t (incWrite s a m i 128)) ∧
      (s.Clear (State.eaSrcs a m i) (State.eaDsts a m) false →
        (∀ e r, s.ctx.x.xw = e :: r → e.filled = true → ∃ t, exec (.stQ a m 0 i) s = .next t ∧
          stored t (s.ea a m i 128) 128 e.val.toNat ∧ Retired s t (incWrite s a m i 128 ++ [(1, .vqPop .xw)])) ∧
        (s.ctx.x.xw = [] ∨ (∃ e r, s.ctx.x.xw = e :: r ∧ e.filled = false) → exec (.stQ a m 0 i) s = .next s.waitMsg)))

/-- R152: a local-form gather gives lane j of its result the element at g[a] plus lane j of v[b], zero-extended, and 0 where
the lane is inactive; a scatter stores the low bytes of its active lanes there, and where lanes overlap the higher one stands;
no other byte changes. -/
def Claims.GathersAndScatters : Prop :=
  ∀ (s : State) (d a b : Fin 32) (p : Fin 8) (e : Fin 4) (size lane : Nat), size = 2 ^ e.val → lane = max size 4 →
    let on := fun j => j < 128 / lane ∧ (s.rp p).getLsbD (j * lane) = true
    let ea := fun j => s.rg a + (BitVec.ofNat (8 * lane) (laneOf (s.rv b) lane j)).signExtend 64
    s.Clear [.g a, .v (s.vphys b), .p p] [] false → (∀ j, on j → s.LocalOk (ea j) size size) →
      (∃ x : Vec, (∀ j < 128 / lane, (on j → laneOf x lane j = s.wellRead (ea j).toNat size) ∧ (¬ on j → laneOf x lane j = 0)) ∧
        (s.Clear [] [.v (s.vphys d)] false → ∃ t, exec (.ldgV d a b p e 0) s = .next t ∧ t.mem = s.mem ∧
          Retired s t (vWrite s 2 d x)) ∧
        (s.ctx.x.ax.length < 4 → ∃ t c, exec (.ldgQ a b p e 0) s = .next t ∧ t.mem = s.mem ∧
          Retired s t [(1, .vqReserve s.nextId), (2, .vqFill s.nextId x c)])) ∧
      (Memory.wf s.mem = true →
        let stored := fun (t : State) (x : Vec) =>
          (∀ q, (∀ j, on j → q < wellPA s.cur.nib (ea j).toNat ∨ wellPA s.cur.nib (ea j).toNat + size ≤ q) →
            Memory.get t.mem q = Memory.get s.mem q) ∧
          ∀ j k, on j → k < size → (∀ l, j < l → on l → (ea j).toNat + k < (ea l).toNat ∨ (ea l).toNat + size ≤ (ea j).toNat + k) →
            Memory.get t.mem (wellPA s.cur.nib (ea j).toNat + k) = BitVec.ofNat 8 (laneOf x lane j / 256 ^ k)
        (s.Clear [.v (s.vphys d)] [] false → ∃ t, exec (.stsV d a b p e 0) s = .next t ∧ stored t (s.rv d) ∧ Retired s t []) ∧
        ∀ x r, s.ctx.x.xw = x :: r → x.filled = true → ∃ t, exec (.stsQ a b p e 0) s = .next t ∧ stored t x.val ∧
          Retired s t [(1, .vqPop .xw)])

/-- Address modes, and local loads, stores, gathers and scatters with what they leave alone. -/
def Obligations.LocalAccesses : Prop :=
  Claims.AddressModes ∧ Claims.LocalLoads ∧ Claims.LocalStores ∧ Claims.GathersAndScatters

/-- R60, R130, R143, R192: a long-form access whose checks pass issues: its destination and its seal become pending at the end
of the turn, and the access is performed no earlier than turn t+2; memory has not changed. `pub` of an enabled entry of the
stroke's address space likewise, and of any other it traps STOREACC with g[a]. -/
def Claims.LongFormsAreSent : Prop :=
  ∀ (s : State) (d a : Fin 32) (m : Fin 4) (sl : Fin 16) (i : BitVec 10) (rs : List Range), sl ≠ 0 → s.sealFull sl = false →
    (∀ r ∈ ([(.ldB d a m sl i, 1, true), (.ldH d a m sl i, 2, true), (.ldW d a m sl i, 4, true), (.ldD d a m sl i, 8, false),
      (.ldBn d a m sl i, 1, false), (.ldHn d a m sl i, 2, false), (.ldWn d a m sl i, 4, false)] : List (Instr × Nat × Bool)),
      s.Clear (State.eaSrcs a m i) (.g d :: State.eaDsts a m) true →
      s.Passes [(⟨s.ea a m i r.2.1, r.2.1, r.2.1, false, true, true, false, false⟩, 0)] rs → ∃ t, exec r.1 s = .next t ∧
        t.mem = s.mem ∧ Sent s t s.dropAnswers.ops sl (.access (.loadG d r.2.1 r.2.2) rs 0 false) (s.turnCycle 2) .homeRead ∧
        Retired s t (incWrite s a m i r.2.1 ++ [(1, .sealPend sl), (1, .pend (.g d))])) ∧
    (∀ r ∈ ([(.stB d a m sl i, 1), (.stH d a m sl i, 2), (.stW d a m sl i, 4), (.stD d a m sl i, 8)] : List (Instr × Nat)),
      s.Clear (.g d :: State.eaSrcs a m i) (State.eaDsts a m) true →
      s.Passes [(⟨s.ea a m i r.2, r.2, r.2, true, true, true, false, false⟩, 0)] rs → ∃ t, exec r.1 s = .next t ∧ t.mem = s.mem ∧
        Sent s t s.dropAnswers.ops sl (.access .store rs ((s.rg d).toNat % 2 ^ (8 * r.2)) false) (s.turnCycle 2) .homeWrite ∧
        Retired s t (incWrite s a m i r.2 ++ [(1, .sealPend sl)])) ∧
    (s.Passes [(⟨s.ea a m i 128, 128, 64, false, true, false, false, false⟩, 0)] rs → s.Clear (State.eaSrcs a m i) (State.eaDsts a m) true →
      (s.Clear [] [.v (s.vphys d)] true → ∃ t, exec (.ldV d a m sl i) s = .next t ∧ t.mem = s.mem ∧
        Sent s t s.dropAnswers.ops sl (.access (.loadV (s.vphys d)) rs 0 false) (s.turnCycle 2) .homeRead ∧
        Retired s t (incWrite s a m i 128 ++ [(1, .sealPend sl), (1, .pend (.v (s.vphys d)))])) ∧
      (s.ctx.x.ax.length < 4 → ∃ t, exec (.ldQ a m sl i) s = .next t ∧ t.mem = s.mem ∧
        Sent s t s.dropAnswers.ops sl (.access .loadQ rs 0 false) (s.turnCycle 2) .homeRead ∧
        Retired s t (incWrite s a m i 128 ++ [(1, .sealPend sl), (1, .vqReserve s.nextId)]))) ∧
    (s.Passes [(⟨s.ea a m i 128, 128, 64, true, true, false, false, false⟩, 0)] rs → s.Clear (State.eaSrcs a m i) (State.eaDsts a m) true →
      (s.Clear [.v (s.vphys d)] [] true → ∃ t, exec (.stV d a m sl i) s = .next t ∧ t.mem = s.mem ∧
        Sent s t s.dropAnswers.ops sl (.access .store rs (s.rv d).toNat false) (s.turnCycle 2) .homeWrite ∧
        Retired s t (incWrite s a m i 128 ++ [(1, .sealPend sl)])) ∧
      ∀ e r, s.ctx.x.xw = e :: r → e.filled = true → ∃ t, exec (.stQ a m sl i) s = .next t ∧ t.mem = s.mem ∧
        Sent s t s.dropAnswers.ops sl (.access .store rs e.val.toNat false) (s.turnCycle 2) .homeWrite ∧
        Retired s t (incWrite s a m i 128 ++ [(1, .vqPop .xw), (1, .sealPend sl)])) ∧
    (s.Clear [.g a] [] true →
      let p := s.partOf s.cur.nib
      (∀ e : Fin 16, (s.rg a).toNat = e.val → s.parts[p].pubs[e].en = true → s.parts[p].pubs[e].asid = State.asidOf s.ctx.c.ptroot →
        ∃ t, exec (.pub sl a) s = .next t ∧ t.mem = s.mem ∧ t.parts = s.parts ∧
          Sent s t s.ops sl (.access (.pub p e) [] 0 false) (s.turnCycle 2) .homeWrite ∧ Retired s t [(1, .sealPend sl)]) ∧
      ((16 ≤ (s.rg a).toNat ∨ ∃ e : Fin 16, (s.rg a).toNat = e.val ∧ (s.parts[p].pubs[e].en = false ∨
        s.parts[p].pubs[e].asid ≠ State.asidOf s.ctx.c.ptroot)) → exec (.pub sl a) s = .next (s.raise 0x07 (s.rg a))))

/-- R111, R145: `bnld` loads a pattern of 64 bytes from the well, in force at t+1, and `mmod` sets a modulo register at t+1. A
pattern in the records of the context cache traps LOADACC in mode T (the model's reading of R320, log entry 59). -/
def Claims.PatternAndModuloLoads : Prop :=
  ∀ (s : State) (a b : Fin 32) (p : Fin 8),
    (s.Clear [.g a, .g b] [] false → Issues (.mmod p a b) s [(1, .modReg p (s.rg a) ((s.rg b).setWidth 32))]) ∧
    (s.Clear [.g a] [] false →
      (0x60000 ≤ (s.rg a).toNat → exec (.bnld p a) s = .next (s.raise 0x0E (s.rg a))) ∧
      ((s.rg a).toNat < 0x60000 → (s.rg a).toNat % 64 ≠ 0 → exec (.bnld p a) s = .next (s.raise 0x04 (s.rg a))) ∧
      ((s.rg a).toNat < 0x60000 → (s.rg a).toNat % 64 = 0 → s.recordsShut (s.rg a).toNat 64 = true →
        exec (.bnld p a) s = .next (s.raise 0x05 (s.rg a))) ∧
      ((s.rg a).toNat < 0x60000 → (s.rg a).toNat % 64 = 0 → s.recordsShut (s.rg a).toNat 64 = false → s.lockedOut (s.rg a).toNat 64 = true →
        exec (.bnld p a) s = .next s.waitMsg) ∧
      ((s.rg a).toNat < 0x60000 → (s.rg a).toNat % 64 = 0 → s.recordsShut (s.rg a).toNat 64 = false → s.lockedOut (s.rg a).toNat 64 = false → ∃ t,
        exec (.bnld p a) s = .next t ∧ t.mem = s.mem ∧
        Retired s t [(1, .pattern p (BitVec.ofNat 512 (s.wellRead (s.rg a).toNat 64)))]))

/-- Long-form accesses are sent; pattern and modulo registers are loaded. That the accesses of one sequencer are performed in
their order is log entry 11. -/
def Obligations.LongAccessesAndPatterns : Prop :=
  Claims.LongFormsAreSent ∧ Claims.PatternAndModuloLoads

/-- R147: the checks of a scalar load or store, in their order: LOCALITY for a local form outside the window, the alignment
cause, the access cause for a VA that is not canonical and for one outside the window while translation is off, and BLKNRDY
for a block of the nib that is filling or draining, a locked range or not (the order that the model takes, log entry 46); each
with the effective address. R329: a locked range makes it wait. R139: the window is the nib's own well, in whatever partition
it lies. -/
def Claims.AccessChecks : Prop :=
  ∀ (s : State) (d a : Fin 32) (m : Fin 4) (sl : Fin 16) (i : BitVec 10),
    (sl = 0 → s.Clear (.g d :: State.eaSrcs a m i) (.g d :: State.eaDsts a m) false) →
    (sl ≠ 0 → s.Clear (.g d :: State.eaSrcs a m i) (.g d :: State.eaDsts a m) true) → s.sealFull sl = false →
    ∀ r ∈ ([(.ldB d a m sl i, 1, false), (.ldH d a m sl i, 2, false), (.ldW d a m sl i, 4, false), (.ldD d a m sl i, 8, false),
      (.ldBn d a m sl i, 1, false), (.ldHn d a m sl i, 2, false), (.ldWn d a m sl i, 4, false), (.stB d a m sl i, 1, true),
      (.stH d a m sl i, 2, true), (.stW d a m sl i, 4, true), (.stD d a m sl i, 8, true)] : List (Instr × Nat × Bool)),
      let ea := s.ea a m i r.2.1
      let traps := fun (c : BitVec 8) => exec r.1 s = .next (s.dropAnswers.raise c ea)
      (sl = 0 → 0x60000 < ea.toNat + r.2.1 → traps 0x0E) ∧
      (sl ≠ 0 ∨ ea.toNat + r.2.1 ≤ 0x60000 →
        (ea.toNat % r.2.1 ≠ 0 → traps (if r.2.2 then 0x06 else 0x04)) ∧
        (ea.toNat % r.2.1 = 0 → 0x60000 ≤ ea.toNat →
          (¬ ((∀ j : Nat, 51 ≤ j → j < 64 → ea.getLsbD j = false) ∨ ∀ j : Nat, 51 ≤ j → j < 64 → ea.getLsbD j = true) ∨
            s.ctx.c.ptroot.getLsbD 0 = false) → traps (if r.2.2 then 0x07 else 0x05)) ∧
        (ea.toNat % r.2.1 = 0 → ea.toNat + r.2.1 ≤ 0x60000 →
          (s.turn.mode = .t → s.cnib.ctxEn = true →
            0x4C000 ≤ ea.toNat → traps (if r.2.2 then 0x07 else 0x05)) ∧
          (s.turn.mode ≠ .t →
            (∃ b ∈ s.cnib.blocks, b.state ≠ 2 ∧ b.addr < ea.toNat + r.2.1 ∧ ea.toNat < b.addr + 256 * b.lines) →
            traps 0x0D) ∧
          (s.turn.mode ≠ .t → s.cnib.blocks = [] →
            (∃ l ∈ s.cnib.locks, l.owner ≠ s.cur.k ∧ l.base < ea.toNat + r.2.1 ∧ ea.toNat < l.base + l.len) →
            exec r.1 s = .next s.dropAnswers.waitMsg)))

/-- R163, R165, R166, R167: the walk: at each level the entry of its table that the VA selects; one that is not valid ends it
with a precise or a replayable fault as its R bit says; a pointer leads to the next level; a leaf of level 1 gives its frame
and the low 16 bits of the VA, one of level 2 the low 28; reserved bits, a store without W, a wrong HOME, and a table frame
outside the partition's HBM are precise faults. -/
def Claims.PageWalk : Prop :=
  (∀ (s : State) (p : Fin 16) (root va : Word) (store : Bool),
    s.walk p root va store = s.walkFrom p (va.toNat % 2 ^ 52) store (root.toNat / 2 ^ 16 % 2 ^ 32) 3) ∧
  ∀ (s : State) (p : Fin 16) (va frame e level : Nat) (store : Bool), 1 ≤ level → level ≤ 3 →
    e = Memory.read s.mem (frame * 0x10000 + 8 * (va / 2 ^ (4 + 12 * level) % 4096)) 8 →
    let next := e / 2 ^ 16 % 2 ^ 32
    let clean := e / 64 % 2 ^ 10 = 0 ∧ e / 8 % 2 = 0
    let leaf := level = 1 ∨ level = 2 ∧ next % 4096 = 0 ∧ e / 16 % 4 < 2
    (s.tableOk p frame = false → s.walkFrom p va store frame level = .precise) ∧
    (s.tableOk p frame = true →
      (e % 2 = 0 → s.walkFrom p va store frame level = if e / 2 % 2 = 1 then .replay else .precise) ∧
      (e % 2 = 1 → ¬ clean → s.walkFrom p va store frame level = .precise) ∧
      (e % 2 = 1 → clean → e / 2 % 2 = 0 →
        (2 ≤ level → e / 4 % 2 = 0 → e / 16 % 4 = 0 → e / 2 ^ 48 = 0 →
          s.walkFrom p va store frame level = s.walkFrom p va store next (level - 1)) ∧
        (level = 1 ∨ e / 4 % 2 = 1 ∨ e / 16 % 4 ≠ 0 ∨ e / 2 ^ 48 ≠ 0 → s.walkFrom p va store frame level = .precise)) ∧
      (e % 2 = 1 → clean → e / 2 % 2 = 1 →
        (¬ leaf ∨ homeOk (e / 16 % 4) (e / 2 ^ 48) (next * 0x10000) = false ∨ store = true ∧ e / 4 % 2 = 0 →
          s.walkFrom p va store frame level = .precise) ∧
        (leaf → homeOk (e / 16 % 4) (e / 2 ^ 48) (next * 0x10000) = true → (store = true → e / 4 % 2 = 1) →
          s.walkFrom p va store frame level = .ok (next * 0x10000 + va % 2 ^ (4 + 12 * level)) (decide (level = 2))
            (BitVec.ofNat 32 next) (BitVec.ofNat 2 (e / 16)) (decide (e / 4 % 2 = 1)))))

/-- The checks of a memory access in their order, and the page-table walk. That the checks of a block come before a lock's is
the model's choice, log entry 46. -/
def Obligations.TranslationAndChecks : Prop :=
  Claims.AccessChecks ∧ Claims.PageWalk

/-- R153, R154, R155, R156: a local-form synchronising access of a word in the right state is performed in its turn: it reads
or writes the word and sets its full/empty bit; in the wrong state it does not issue, and its stroke parks on it; once served
it issues with the word that it read. -/
def Claims.SynchronisingAccesses : Prop :=
  ∀ (s : State) (d a : Fin 32) (m : Fin 4) (i : BitVec 10) (ea : Word) (pa : Nat), ea = s.ea a m i 8 →
    pa = wellPA s.cur.nib ea.toNat → s.LocalOk ea 8 8 →
    (s.Clear (State.eaSrcs a m i) (.g d :: State.eaDsts a m) false →
      (s.served = none → s.cnib.waiters = [] → s.cnib.heldReqs = [] → s.full.contains pa = true →
        (∃ t, exec (.ldfe d a m 0 i) s = .next t ∧ t.mem = s.mem ∧ t.full = setFull s.full pa false ∧
          Retired s t (gWrite 2 d (BitVec.ofNat 64 (s.wellRead ea.toNat 8)) ++ incWrite s a m i 8)) ∧
        ∃ t, exec (.ldff d a m 0 i) s = .next t ∧ t.mem = s.mem ∧ t.full = setFull s.full pa true ∧
          Retired s t (gWrite 2 d (BitVec.ofNat 64 (s.wellRead ea.toNat 8)) ++ incWrite s a m i 8)) ∧
      (s.served = none → s.full.contains pa = false → ∀ k ∈ [Instr.ldfe d a m 0 i, .ldff d a m 0 i], ∃ t, exec k s = .next t ∧
        t.turn.park = s.turn.park ++ [(.sync s.nextId, s.cur.q)] ∧ t.turn.issued = s.turn.issued ∧ t.mem = s.mem ∧
        t.full = s.full ∧ t.ctx.inflight = s.ctx.inflight) ∧
      (∀ o y, s.served = some (o, y) → ∀ k ∈ [Instr.ldfe d a m 0 i, .ldff d a m 0 i], ∃ t, exec k s = .next t ∧ t.mem = s.mem ∧
        t.full = s.full ∧ t.ops = s.ops.filter (·.id != o.id) ∧
        Retired s t (gWrite 2 d (BitVec.ofNat 64 y) ++ incWrite s a m i 8))) ∧
    (s.Clear (.g d :: State.eaSrcs a m i) (State.eaDsts a m) false → s.served = none → Memory.wf s.mem = true →
      (s.cnib.waiters = [] → s.cnib.heldReqs = [] →
        (∀ k, k = Instr.stff d a m 0 i ∨ k = .stfe d a m 0 i ∧ s.full.contains pa = false → ∃ t, exec k s = .next t ∧
          t.full = setFull s.full pa true ∧ Memory.read t.mem pa 8 = (s.rg d).toNat ∧
          (∀ b, b < pa ∨ pa + 8 ≤ b → Memory.get t.mem b = Memory.get s.mem b) ∧ Retired s t (incWrite s a m i 8))) ∧
      (s.full.contains pa = true → ∃ t, exec (.stfe d a m 0 i) s = .next t ∧
        t.turn.park = s.turn.park ++ [(.sync s.nextId, s.cur.q)] ∧ t.turn.issued = s.turn.issued ∧ t.mem = s.mem ∧
        t.full = s.full)) ∧
    (s.Clear (.g d :: State.eaSrcs a m i) (State.eaDsts a m) false → ∀ o y, s.served = some (o, y) → ∃ t,
      exec (.stfe d a m 0 i) s = .next t ∧ t.mem = s.mem ∧ t.full = s.full ∧ t.ops = s.ops.filter (·.id != o.id) ∧
      Retired s t (incWrite s a m i 8)) ∧
    ∀ (l : List Nat) (x y : Nat) (b : Bool), l.Pairwise (· < ·) → (setFull l x b).contains y = (if y = x then b else l.contains y) ∧
      (setFull l x b).Pairwise (· < ·)

/-- R157: a local-form atomic gives the old value, zero-extended, to its register at t+2, and puts the new value of its
operator in its place; no other byte changes. In deterministic mode `amo.fadd` traps DETVIOL before every other check. -/
def Claims.Atomics : Prop :=
  (∀ (s : State) (d a b : Fin 32) (sl : Fin 16), s.Clear [.g a, .g b] [.g d] (sl != 0) → s.deterministic = true →
    exec (.amoFadd d a b sl) s = .next (s.raise 0x17 0)) ∧
  ∀ (s : State) (d a b : Fin 32) (z : Fin 2) (n : Nat), n = 32 * (z.val + 1) → s.LocalOk (s.rg a) (n / 8) (n / 8) →
    Memory.wf s.mem = true →
    let pa := wellPA s.cur.nib (s.rg a).toNat
    let old := s.wellRead (s.rg a).toNat (n / 8)
    let y := (s.rg b).toNat % 2 ^ n
    let c := (s.rg d).toNat % 2 ^ n
    let sg := fun x : Nat => (BitVec.ofNat n x).toInt
    let does := fun (i : Instr) (new : Nat) (e : Ev) => ∃ t, exec i s = .next t ∧ Memory.read t.mem pa (n / 8) = new ∧
      (∀ q, q < pa ∨ pa + n / 8 ≤ q → Memory.get t.mem q = Memory.get s.mem q) ∧
      Retired s t (gWrite 2 d (BitVec.ofNat 64 old) ++ evCount e)
    (s.Clear [.g a, .g b] [.g d] false →
      does (.amoAdd d a b 0 z) ((old + y) % 2 ^ n) 0 ∧ does (.amoAnd d a b 0 z) (old &&& y) 0 ∧
      does (.amoOr d a b 0 z) (old ||| y) 0 ∧ does (.amoXor d a b 0 z) (old ^^^ y) 0 ∧
      does (.amoMin d a b 0 z) (if sg old ≤ sg y then old else y) 0 ∧
      does (.amoMax d a b 0 z) (if sg old < sg y then y else old) 0 ∧
      does (.amoMinn d a b 0 z) (min old y) 0 ∧ does (.amoMaxn d a b 0 z) (max old y) 0 ∧ does (.amoSwap d a b 0 z) y 0 ∧
      (n = 32 → s.deterministic = false →
        does (.amoFadd d a b 0) ((fmt32.addB old y).1 % 2 ^ 32) (fmt32.addB old y).2)) ∧
    (s.Clear [.g d, .g a, .g b] [.g d] false → does (.amoCas d a b 0 z) (if old = c then y else old) 0)

/-- R143, R157: long-form synchronising accesses and atomics are sent, with their operands taken in the turn of issue. -/
def Claims.LongSyncsAndAtomicsAreSent : Prop :=
  ∀ (s : State) (d a b : Fin 32) (m : Fin 4) (sl : Fin 16) (i : BitVec 10) (z : Fin 2) (rs : List Range) (n : Nat),
    sl ≠ 0 → s.sealFull sl = false → n = 4 * (z.val + 1) →
    (s.served = none → s.Clear (State.eaSrcs a m i) (.g d :: State.eaDsts a m) true →
      s.Passes [(⟨s.ea a m i 8, 8, 8, false, true, false, true, false⟩, 0)] rs →
      ∀ r ∈ ([(.ldfe d a m sl i, 0), (.ldff d a m sl i, 1)] : List (Instr × Fin 4)), ∃ t, exec r.1 s = .next t ∧ t.mem = s.mem ∧
        t.full = s.full ∧
        Sent s t s.dropAnswers.ops sl (.access (.sync r.2 d) rs (s.rg d).toNat false) (s.turnCycle 2) .homeWrite ∧
        Retired s t (incWrite s a m i 8 ++ [(1, .sealPend sl), (1, .pend (.g d))])) ∧
    (s.served = none → s.Clear (.g d :: State.eaSrcs a m i) (State.eaDsts a m) true →
      s.Passes [(⟨s.ea a m i 8, 8, 8, true, true, false, true, false⟩, 0)] rs →
      ∀ r ∈ ([(.stfe d a m sl i, 2), (.stff d a m sl i, 3)] : List (Instr × Fin 4)), ∃ t, exec r.1 s = .next t ∧ t.mem = s.mem ∧
        t.full = s.full ∧
        Sent s t s.dropAnswers.ops sl (.access (.sync r.2 d) rs (s.rg d).toNat false) (s.turnCycle 2) .homeWrite ∧
        Retired s t (incWrite s a m i 8 ++ [(1, .sealPend sl)])) ∧
    (s.Clear [.g d, .g a, .g b] [.g d] true → s.Passes [(⟨s.rg a, n, n, true, true, false, false, true⟩, 0)] rs →
      ∀ r ∈ ([(.amoAdd d a b sl z, 0), (.amoAnd d a b sl z, 1), (.amoOr d a b sl z, 2), (.amoXor d a b sl z, 3),
        (.amoMin d a b sl z, 4), (.amoMax d a b sl z, 5), (.amoMinn d a b sl z, 6), (.amoMaxn d a b sl z, 7),
        (.amoSwap d a b sl z, 8), (.amoCas d a b sl z, 9)] : List (Instr × Fin 16)), ∃ t, exec r.1 s = .next t ∧ t.mem = s.mem ∧
        Sent s t s.dropAnswers.ops sl
          (.access (.amo d n r.2 ((s.rg b).toNat % 2 ^ (8 * n)) ((s.rg d).toNat % 2 ^ (8 * n))) rs 0 false) (s.turnCycle 2)
          .homeWrite ∧
        Retired s t [(1, .sealPend sl), (1, .pend (.g d))]) ∧
    (s.Clear [.g a, .g b] [.g d] true → s.deterministic = false → s.Passes [(⟨s.rg a, 4, 4, true, true, false, false, true⟩, 0)] rs →
      ∃ t, exec (.amoFadd d a b sl) s = .next t ∧ t.mem = s.mem ∧
        Sent s t s.dropAnswers.ops sl
          (.access (.amo d 4 10 ((s.rg b).toNat % 2 ^ 32) ((s.rg d).toNat % 2 ^ 32)) rs 0 false) (s.turnCycle 2) .homeWrite ∧
        Retired s t [(1, .sealPend sl), (1, .pend (.g d))])

/-- Synchronising accesses and atomics, local and long. That two accesses of a turn park together is log entry 51. -/
def Obligations.SynchronisingAndAtomicAccesses : Prop :=
  Claims.SynchronisingAccesses ∧ Claims.Atomics ∧ Claims.LongSyncsAndAtomicsAreSent

/-- R143, R151, R157, R180, R181, R191: the next piece of a long-form access is performed at its home: a store writes its
bytes there and nothing else, a load takes the bytes of a copy of its cell under lease or else those at the home, and an
atomic does both; a copy serves only a clock from its write time to the end of its lease, in the backing that was the front
then (R185); the last piece performs the access. -/
def Claims.HomeAccesses : Prop :=
  ∀ (s : State) (id : Nat) (o : Op) (k : Fin 8) (use : Use) (r q h : Range) (data : Nat), s.findOp id = some o →
    o.kind = .access use [r] data false → s.Resides o.nib o.cid k → o.performed = false → o.parked = false → o.due ≤ s.cycle →
    s.behindOther o = false → s.homeGone o = false → q = s.pieceNow o.nib (s.engFor o.nib o.cid).1 (s.engFor o.nib o.cid).2 r false →
    h = s.pieceAt o.nib (s.engFor o.nib o.cid).1 r (s.opLc o) → State.isControl q.pa = false → Memory.wf s.mem = true →
    let stored := fun (t : State) (n x : Nat) => (∀ j < n, Memory.get t.mem (q.pa + j) = BitVec.ofNat 8 (x / 256 ^ j)) ∧
      ∀ b, b < q.pa ∨ q.pa + n ≤ b → Memory.get t.mem b = Memory.get s.mem b
    let done := fun (t : State) (x : Nat) => ∃ p, t.findOp id = some p ∧ p.performed = true ∧ p.kind = .access use [] x false
    ∀ i ∈ [Instr.homeRead id, .homeWrite id],
      (use = .store → ∃ t, exec i s = .next t ∧ stored t q.size (data / 2 ^ (8 * q.at_)) ∧ done t data) ∧
      (∀ d n op y c, use = .amo d n op y c → ∃ t, exec i s = .next t ∧
        stored t n (amoNew op.val (8 * n) (Memory.read s.mem q.pa n) y c).1 ∧
        done t (Memory.read s.mem q.pa n + (amoNew op.val (8 * n) (Memory.read s.mem q.pa n) y c).2.toNat * 2 ^ 64)) ∧
      ((∃ d n sg, use = .loadG d n sg) ∨ (∃ d, use = .loadV d) ∨ use = .loadQ → ∀ x,
        (h.cache = true → ∀ c, s.copyOf o.nib h.pa (s.opLc o) = some c →
          x = c.data.toNat / 2 ^ (8 * (h.pa % 64)) % 2 ^ (8 * q.size)) →
        (h.cache = false ∨ s.copyOf o.nib h.pa (s.opLc o) = none → x = Memory.read s.mem q.pa q.size) →
        ∃ t, exec i s = .next t ∧ t.mem = s.mem ∧ done t (data + x * 2 ^ (8 * q.at_))) ∧
      ∀ c, s.copyOf o.nib h.pa (s.opLc o) = some c → c ∈ (s.nib o.nib).copies ∧ c.cell = h.pa / 64 * 64 ∧
        Clk.le c.wts (s.opLc o) = true ∧ Clk.le (s.opLc o) c.rc = true

/-- R60, R93, R128, R130, R150, R157: when a long-form access lands, its data, the clearing of the pending bit and the post of
its seal take force together, and the operation is gone. -/
def Claims.LongAccessesLand : Prop :=
  ∀ (s : State) (id : Nat) (o : Op) (k : Fin 8) (use : Use) (todo : List Range) (x : Nat) (w : Bool), s.findOp id = some o →
    o.id = id → o.kind = .access use todo x w → o.performed = true → o.sl ≠ 0 → s.Resides o.nib o.cid k →
    let r := (s.stroke o.nib k).ctx.r
    let lands := fun (r : Regs) => ∃ t, exec (.longAccessComplete id) s = .next t ∧ Landed s t o k r
    (∀ d size, use = .loadG d size true → lands (r.arrive (.g d ((BitVec.ofNat (8 * size) x).signExtend 64)))) ∧
    (∀ d size, use = .loadG d size false → lands (r.arrive (.g d (BitVec.ofNat 64 (x % 2 ^ (8 * size)))))) ∧
    (∀ d, use = .loadV d → lands (r.arrive (.v d (BitVec.ofNat 1024 x)))) ∧
    (use = .store → lands r) ∧ (∀ p e, use = .pub p e → lands r) ∧
    (∀ d n op y c, use = .amo d n op y c → lands (r.arrive (.g d (BitVec.ofNat 64 x)))) ∧
    (∀ d, use = .sync 0 d ∨ use = .sync 1 d → lands (r.arrive (.g d (BitVec.ofNat 64 x)))) ∧
    (∀ d, use = .sync 2 d ∨ use = .sync 3 d → lands r) ∧
    (use = .loadQ → ∃ t, exec (.longAccessComplete id) s = .next t ∧ Landed s t o k r ∧
      (t.stroke o.nib k).ctx.x.ax = fillSlot (s.stroke o.nib k).ctx.x.ax id (BitVec.ofNat 1024 x) o.tmax)

/-- Long-form accesses at their home, and how they land. -/
def Obligations.LongAccessesArePerformed : Prop :=
  Claims.HomeAccesses ∧ Claims.LongAccessesLand

/-- R154, R155: after a change of a word's bit its waiters are served, for tables of any length below the bound: the first one
in arrival order that can proceed is performed, which takes or gives the word, sets its full/empty bit and leaves the table,
and then the rest are served so; the end is that none of them can proceed, and no waiter has joined. -/
def Claims.WaitersAreServed : Prop :=
  ∀ (s : State) (n : NibId) (pa fuel : Nat), (s.nib n).waiters.length < fuel →
    let t := s.cascade n pa fuel
    let can := fun (u : State) (id : Nat) (o : Op) (kind : Fin 4) (d : Fin 32) (x : Nat) => u.findOp id = some o ∧
      (∃ r rest w, o.kind = .access (.sync kind d) (r :: rest) x w ∧ r.pa = pa) ∧
      (kind.val < 2 → u.full.contains pa = true) ∧ (kind = 2 → u.full.contains pa = false)
    (∀ id ∈ (t.nib n).waiters, id ∈ (s.nib n).waiters ∧ ∀ o kind d x, ¬ can t id o kind d x) ∧
    ((∀ id ∈ (s.nib n).waiters, ∀ o kind d x, ¬ can s id o kind d x) → t = s) ∧
    ∀ pre id post o kind d x, (s.nib n).waiters = pre ++ id :: post → (∀ j ∈ pre, ∀ o kind d x, ¬ can s j o kind d x) →
      can s id o kind d x → ∃ (u : State) (p : Op), t = u.cascade n pa (fuel - 1) ∧ (u.nib n).waiters = (s.nib n).waiters.filter (· != id) ∧
        u.full = setFull s.full pa (decide (kind ≠ 0)) ∧
        u.mem = (if kind.val < 2 then s.mem else Memory.write s.mem pa 8 x) ∧
        u.findOp id = some p ∧ p.performed = true ∧ p.kind = .access (.sync kind d) [] (Memory.read s.mem pa 8) false ∧
        ∀ j, j ≠ id → u.findOp j = s.findOp j

/-- R149, R155, R156: the oldest held request joins the waiter table while an entry is free, or is performed at once where its
word lets it; a full table or an empty list changes nothing. A parked stroke runs on when one of its accesses can proceed. -/
def Claims.WaitersJoinAndParksEnd : Prop :=
  (∀ (s : State) (n : NibId),
    ((s.nib n).heldReqs = [] ∨ 64 ≤ (s.nib n).waiters.length → exec (.waiterTableJoin n) s = .next s) ∧
    ∀ id rest o kind d r more x w, (s.nib n).heldReqs = id :: rest → (s.nib n).waiters.length < 64 → s.findOp id = some o →
      o.kind = .access (.sync kind d) (r :: more) x w →
      (syncReady kind (s.full.contains r.pa) = false → ∃ t, exec (.waiterTableJoin n) s = .next t ∧ t.mem = s.mem ∧
        t.full = s.full ∧ (t.nib n).waiters = (s.nib n).waiters ++ [id] ∧ (t.nib n).heldReqs = rest) ∧
      (syncReady kind (s.full.contains r.pa) = true → ∃ t p, exec (.waiterTableJoin n) s = .next t ∧ t.findOp id = some p ∧
        p.performed = true ∧ (t.nib n).heldReqs = rest)) ∧
  ∀ (s : State) (n : NibId) (k : Fin 8) (ws : List Park), (s.stroke n k).status = .parked ws →
    let can := ∃ w ∈ ws, ∃ id, (w = .replay id ∨ w = .sync id) ∧ ∀ o, s.findOp id = some o → o.performed = true
    (can → ∃ t, exec (.parkResume n k) s = .next t ∧ t.stroke n k = { s.stroke n k with status := .running } ∧
      (∀ m j, (m, j) ≠ (n, k) → t.stroke m j = s.stroke m j) ∧ t.mem = s.mem ∧ t.full = s.full) ∧
    (¬ can → exec (.parkResume n k) s = .next s)

/-- Waiters are served in order, join the table, and parked strokes run on. -/
def Obligations.WaitersAndParks : Prop :=
  Claims.WaitersAreServed ∧ Claims.WaitersJoinAndParksEnd

/-- R148, R165, R168, R170: a fill of a first-level TLB ends with the entry of the second level or that of the walk, which
both levels then keep; with a precise fault, which is its answer; or with a replayable one. Copies and fills change no memory. -/
def Claims.TranslationsArrive : Prop :=
  ∀ (s : State) (n : NibId) (id : Nat) (o : Op) (asid : BitVec 16) (va : Word) (code : Fin 4), s.findOp id = some o →
    o.kind = .tlbFill asid va code → o.performed = false → o.parked = false →
    let l2 := s.folios[State.folioOf n].tlb.find? (fun t => State.TlbEntry.hits t asid va)
    let walked := s.walk (s.partOf n) (s.engFor n o.cid).1 va (code != 0)
    let keeps := fun (e : TlbEntry) => ∃ t, exec (.tlbFill n id) s = .next t ∧ t.mem = s.mem ∧ (t.nib n).tlb.head? = some e ∧
      (t.nib n).tlb.length ≤ 32 ∧ t.folios[State.folioOf n].tlb.head? = some e ∧
      t.folios[State.folioOf n].tlb.length ≤ 8192 ∧ t.ops = s.ops.filter (·.id != id) ∧ ∀ k, t.stroke n k = s.stroke n k
    let fails := fun (c : BitVec 8) => ∃ t p, exec (.tlbFill n id) s = .next t ∧ t.mem = s.mem ∧ t.nibs = s.nibs ∧
      t.findOp id = some p ∧ p.performed = true ∧ p.fail = some (c, va)
    (∀ e, l2 = some e → keeps e) ∧
    (l2 = none → (∀ pa big frame home w, walked = .ok pa big frame home w → keeps (State.tlbOf asid va big frame home w)) ∧
      (walked = .precise → fails 1) ∧
      (walked = .replay → (∀ ws, (s.stroke n o.stroke).status ≠ .parked ws) → fails 0))

/-- R171, R172, R173: a fault record of a page that the buffer holds raises that record's count of requests, which saturates;
another one takes a free place of the 8 and raises the interrupt of its virtual function; with none free, DROP is set. R182: a
nib's data cache may give up a copy. -/
def Claims.FaultRecordsAndCopies : Prop :=
  (∀ (s : State) (n : NibId) (c : Nat), ∃ t, exec (.cacheCopyDrop n c) s = .next t ∧ t.mem = s.mem ∧
    t.nib n = { s.nib n with copies := (s.nib n).copies.filter (·.cell != c) } ∧ { t with nibs := s.nibs } = s) ∧
  ∀ (s : State) (p : Fin 16) (va : BitVec 64) (n : BitVec 32) (asid : BitVec 16) (kind : BitVec 8) (page : Word),
    page = (BitVec.ofNat 52 (va.toNat % 2 ^ 52 / 2 ^ 16 * 2 ^ 16)).signExtend 64 →
    ∃ t, exec (.faultRecord p va n asid kind) s = .next t ∧ t.mem = s.mem ∧ t.nibs = s.nibs ∧
      (∀ q : Fin 16, q ≠ p → t.parts[q] = s.parts[q]) ∧
      (∀ pre r post, s.parts[p].faults = pre ++ r :: post → r.asid = asid → r.va = page →
        (∀ x ∈ pre ++ post, x.asid ≠ asid ∨ x.va ≠ page) → t.parts[p] = { s.parts[p] with
          faults := pre ++ { r with reqs := BitVec.ofNat 8 (min 255 (r.reqs.toNat + 1)) } :: post }) ∧
      ((∀ x ∈ s.parts[p].faults, x.asid ≠ asid ∨ x.va ≠ page) →
        (s.parts[p].faults.length < 8 → t.parts[p] = { s.parts[p] with faults := s.parts[p].faults ++ [⟨page, n, asid, kind, 1⟩] } ∧
          ∀ v : Fin 17, v.val = s.parts[p].vf → t.vfs[v].msix[1] = s.vfs[v].msix[1] + 1) ∧
        (8 ≤ s.parts[p].faults.length → t.parts[p] = { s.parts[p] with drop := true } ∧ t.vfs = s.vfs))

/-- R169: a write of INVAL while BUSY is refused; else BUSY rises, and every TLB entry of the partition that it matches is
gone; the guest is told, with 6,600 cycles to answer, or what it holds is gone where it cannot be told (the model's choice,
log entry 14). BUSY falls once every access that was translated has been performed and the guest has answered. -/
def Claims.Invalidations : Prop :=
  ∀ (s : State) (p : Fin 16) (x : BitVec 64),
    (s.parts[p].invBusy = true → exec (.inval p x) s = .next s) ∧
    (s.parts[p].invBusy = false → ∃ t, exec (.inval p x) s = .next t ∧ t.parts[p].invBusy = true ∧ t.mem = s.mem ∧
      (∀ n k, t.stroke n k = s.stroke n k) ∧
      (∀ n, s.partOf n = p → ∀ e ∈ (t.nib n).tlb, e ∈ (s.nib n).tlb ∧ State.invHits x e.asid e.page e.big = false) ∧
      (∀ n, s.partOf n ≠ p → t.nib n = s.nib n) ∧
      (s.bonnet.up = true → s.bonnet.vfMask.getLsbD (s.parts[p].vf - 1) = true →
        t.bonnet.deadlines = s.bonnet.deadlines ++ [⟨1, p.val, 0, s.cycle + 6600⟩] ∧
        (s.cycle + 6600, Instr.guestDeadline 1) ∈ t.agenda) ∧
      (s.bonnet.up = false ∨ s.bonnet.vfMask.getLsbD (s.parts[p].vf - 1) = false → t.bonnet.deadlines = s.bonnet.deadlines ∧
        ∀ e ∈ t.bonnet.tlb, e.vf = s.parts[p].vf → State.invHits x e.entry.asid e.entry.page e.entry.big = false) ∧
      ∀ f : Fin 16, s.partHas p f = true → ∀ e ∈ t.folios[f].tlb, State.invHits x e.asid e.page e.big = false) ∧
    (s.parts[p].invBusy = false → exec (.invalidationComplete p) s = .next s) ∧
    (s.parts[p].invBusy = true → s.translated p = [] → (∀ d ∈ s.bonnet.deadlines, d.cause ≠ 1 ∨ d.what ≠ p.val) → ∃ t,
      exec (.invalidationComplete p) s = .next t ∧ t.parts[p] = { s.parts[p] with invBusy := false } ∧ t.nibs = s.nibs ∧
      t.mem = s.mem) ∧
    ∀ (asid : BitVec 16) (page : Nat), State.invHits x asid page false = true ↔
      (x.getLsbD 1 = true ∨ asid.toNat = x.toNat / 2 ^ 48) ∧ (x.getLsbD 0 = true ∨ page = x.toNat / 2 ^ 12 % 2 ^ 36)

/-- R190: a write of PCTL to an entry that is enabled changes EN alone; one that enables a free entry sets its address space
and size and clears SEL where the region meets no other one and both backings lie in one unit, and is refused otherwise (no
change of SEL stands from before that, R191). R176: no clock of a resident context, of a message in its mailbox, of the host
agent, or of a folio's cells stays below the floor of the partition, 2^44 below the largest clock of its agents. -/
def Claims.PublishEntriesAndClockFloors : Prop :=
  (∀ (s : State) (p e : Fin 16) (x : BitVec 64) (y : Pub), y = s.parts[p].pubs[e] →
    (y.en = true → ∃ t, exec (.pctl p e x) s = .next t ∧ t.parts[p].pubs[e] = { y with en := x.getLsbD 0 } ∧ t.mem = s.mem ∧
      t.nibs = s.nibs) ∧
    (y.en = false → x.getLsbD 0 = false → ∃ t, exec (.pctl p e x) s = .next t ∧ t.mem = s.mem ∧ t.nibs = s.nibs ∧
      t.parts[p].pubs[e] = { y with asid := x.extractLsb' 48 16, pages := x.extractLsb' 16 13 }) ∧
    (y.en = false → x.getLsbD 0 = true → ∀ n, n = (x.extractLsb' 16 13).toNat →
      let meets := fun (w : Pub) => w.en = true ∧ w.asid = x.extractLsb' 48 16 ∧
        State.Pub.base w < State.Pub.base y + n * 0x10000 ∧ State.Pub.base y < State.Pub.base w + w.pages.toNat * 0x10000
      (n = 0 ∨ 4096 < n ∨ (∃ f : Fin 16, meets s.parts[p].pubs[f]) → exec (.pctl p e x) s = .next s) ∧
      (0 < n → n ≤ 4096 → (∀ f : Fin 16, ¬ meets s.parts[p].pubs[f]) → backingFits y.back0 n = true →
        backingFits y.back1 n = true → ∃ t, exec (.pctl p e x) s = .next t ∧ t.mem = s.mem ∧ t.nibs = s.nibs ∧
        t.parts[p].pubs[e] = { y with asid := x.extractLsb' 48 16, pages := x.extractLsb' 16 13, en := true, sel := false, flips := [] }))) ∧
  ∀ (s : State) (p : Fin 16), ∃ t, exec (.clockFloor p) s = .next t ∧
    (∀ n k, (∃ b, (n, b) ∈ s.nibs) → s.partOf n = p → ∀ q : Fin 4,
      (t.stroke n k).ctx.seqs[q] = { (s.stroke n k).ctx.seqs[q] with lc := Clk.max (s.stroke n k).ctx.seqs[q].lc (s.floorOf p) }) ∧
    t.parts[p].hostLc = Clk.max s.parts[p].hostLc (s.floorOf p) ∧
    (∀ f : Fin 16, s.partHas p f = true → t.folios[f].base = Clk.max s.folios[f].base (s.floorOf p)) ∧
    (∀ n k, (∃ b, (n, b) ∈ s.nibs) → s.partOf n = p →
      (t.stroke n k).mailbox.map (·.val) = (s.stroke n k).mailbox.map (·.val) ∧
      (t.stroke n k).mailbox.map (·.clk) = (s.stroke n k).mailbox.map (fun m => Clk.max m.clk (s.floorOf p))) ∧
    ∀ n, s.partOf n ≠ p → t.nib n = s.nib n

/-- TLB fills, fault records, invalidations, publish entries and clock floors. That a waiting synchronising access holds no
invalidation is log entry 39. -/
def Obligations.TranslationEvents : Prop :=
  Claims.TranslationsArrive ∧ Claims.FaultRecordsAndCopies ∧ Claims.Invalidations ∧ Claims.PublishEntriesAndClockFloors

/-- R194: an access of the host to 8 bytes of device memory is made under the tables of its queue 0 and in its partition: a
write changes those bytes, a read none, and one that fails has no effect. No folio of another partition lies in its way here:
one that meets a border first pays there (R360). That they use the tables of queue 0 is the model's choice, log entry 33. -/
def Obligations.HostAccesses : Prop :=
  ∀ (s : State) (v : Fin 17) (va x : BitVec 64) (p : Fin 16), s.partOfVf v = some p →
    Memory.wf s.mem = true → s.NoBorders → (∀ w, s.isThrough (.hostAccess v w va x) = false) →
    let pieces := fun (w : Bool) => s.hostPieces p (s.queue v 0).root w (State.cellPieces va 0 8 2) []
    (pieces true = none → exec (.hostAccess v true va x) s = .next s) ∧
    (pieces false = none → exec (.hostAccess v false va x) s = .next s) ∧
    (∀ r, pieces true = some [r] → r.size = 8 → r.at_ = 0 → ∃ t, exec (.hostAccess v true va x) s = .next t ∧
      Memory.read t.mem r.pa 8 = x.toNat ∧ (∀ b, b < r.pa ∨ r.pa + 8 ≤ b → Memory.get t.mem b = Memory.get s.mem b) ∧
      t.nibs = s.nibs) ∧
    ∀ rs, pieces false = some rs → ∃ t, exec (.hostAccess v false va x) s = .next t ∧ t.mem = s.mem ∧ t.nibs = s.nibs

/-- R158, R159, R160: `ldblk` of a free range starts the fill, one that meets a live block traps BLKNRDY with that block's
address, and a full table makes it wait; `bfree` frees a ready block at t+1 and ignores an empty one; `bstat` tells the state
and the lines; `bdrain` starts the drain of a ready block. A fill that ends makes its block ready, a drain that ends frees it. -/
def Claims.Blocks : Prop :=
  (∀ (s : State) (d a : Fin 32) (sl : Fin 16) (l : BitVec 6) (rs : List Range) (size : Nat), size = 256 * (l.toNat + 1) →
    s.Clear [.g d, .g a] [] true → s.sealFull sl = false →
    s.Passes [(⟨s.rg d, size, 256, false, false, false, false, false⟩, 0), (⟨s.rg a, size, 256, false, true, false, false, false⟩, 0)]
      rs →
    (∀ pre b post, s.cnib.blocks = pre ++ b :: post → b.addr < (s.rg d).toNat + size → (s.rg d).toNat < b.addr + 256 * b.lines →
      (∀ c ∈ pre, (s.rg d).toNat + size ≤ c.addr ∨ c.addr + 256 * c.lines ≤ (s.rg d).toNat) →
      exec (.ldblk d a sl l) s = .next (s.dropAnswers.raise 0x0D (BitVec.ofNat 64 b.addr))) ∧
    ((∀ c ∈ s.cnib.blocks, (s.rg d).toNat + size ≤ c.addr ∨ c.addr + 256 * c.lines ≤ (s.rg d).toNat) →
      (64 ≤ s.cnib.blocks.length → exec (.ldblk d a sl l) s = .next s.dropAnswers.waitMem) ∧
      (s.cnib.blocks.length < 64 → ∃ t, exec (.ldblk d a sl l) s = .next t ∧ t.mem = s.mem ∧
        Sent s t s.dropAnswers.ops sl (.block (s.rg d).toNat (rs.drop (4 * (l.toNat + 1))) false) (s.turnCycle 2) .homeRead ∧
        Retired s t [(1, .blockSet (s.rg d).toNat (l.toNat + 1) (s.rg a) 1 s.nextId), (1, .sealPend sl)]))) ∧
  (∀ (s : State) (d a : Fin 32) (sl : Fin 16), s.Clear [.g a] [] false →
    (∀ b, s.blockAt (s.rg a) = some b →
      (b.state = 2 → Issues (.bfree a) s [(1, .blockFree b.addr)]) ∧
      (b.state ≠ 2 → exec (.bfree a) s = .next (s.raise 0x0D (s.rg a))) ∧
      (s.Clear [] [.g d] false → Issues (.bstat d a) s (gWrite 1 d (BitVec.ofNat 64 (b.state % 4 + (b.lines - 1) * 4)))) ∧
      (s.Clear [.g a] [] true → b.state ≠ 2 → exec (.bdrain sl a) s = .next (s.raise 0x0D (s.rg a))) ∧
      (s.Clear [.g a] [] true → b.state = 2 → s.sealFull sl = false → ∀ rs,
        s.Passes [(⟨b.va, 256 * b.lines, 256, true, true, false, false, false⟩, 0)] rs → ∃ t,
        exec (.bdrain sl a) s = .next t ∧ t.mem = s.mem ∧
        Sent s t s.dropAnswers.ops sl (.block b.addr rs true) (s.turnCycle 2) .homeWrite ∧
        Retired s t [(1, .blockSet b.addr b.lines b.va 3 s.nextId), (1, .sealPend sl)])) ∧
    (s.blockAt (s.rg a) = none → s.blockInside (s.rg a) = false → Issues (.bfree a) s [] ∧
      (s.Clear [] [.g d] false → Issues (.bstat d a) s (gWrite 1 d 0)) ∧
      exec (.bdrain sl a) s = .next (s.raise 0x0D (s.rg a)))) ∧
  ∀ (s : State) (id : Nat) (o : Op) (k : Fin 8) (addr : Nat) (todo : List Range) (dr : Bool), s.findOp id = some o → o.id = id →
    o.kind = .block addr todo dr → s.Resides o.nib o.cid k →
    (∃ t, exec (.blockFillComplete id) s = .next t ∧ Landed s t o k (s.stroke o.nib k).ctx.r ∧
      (t.nib o.nib).blocks = (s.nib o.nib).blocks.map (fun b => if b.op = id then { b with state := 2 } else b)) ∧
    ∃ t, exec (.blockDrainComplete id) s = .next t ∧ Landed s t o k (s.stroke o.nib k).ctx.r ∧
      (t.nib o.nib).blocks = (s.nib o.nib).blocks.filter (·.op != id)

/-- R159, R160: the bytes of a block: each cell of a fill is read at its home, under the translation made at issue, and
written to its place in the well; each cell of a drain is read in the well and written at its home. No other byte changes; the
next cell follows, and with the last the operation is performed. -/
def Claims.BlockBytesMove : Prop :=
  ∀ (s : State) (id : Nat) (o : Op) (addr : Nat) (r q : Range) (rest : List Range) (drain : Bool), s.findOp id = some o →
    o.kind = .block addr (r :: rest) drain → o.performed = false → o.parked = false → o.due ≤ s.cycle → s.homeGone o = false →
    Memory.wf s.mem = true → q = s.pieceNow o.nib (s.engFor o.nib o.cid).1 (s.engFor o.nib o.cid).2 r drain →
    let well := wellPA o.nib (addr + r.at_)
    let moved := fun (t : State) (src dst : Nat) => (∀ j < q.size, Memory.get t.mem (dst + j) = Memory.get s.mem (src + j)) ∧
      ∀ b, b < dst ∨ dst + q.size ≤ b → Memory.get t.mem b = Memory.get s.mem b
    ∀ i ∈ [Instr.homeRead id, .homeWrite id], ∃ t p, exec i s = .next t ∧ t.full = s.full ∧
      (drain = false → moved t q.pa well) ∧ (drain = true → moved t well q.pa) ∧
      t.findOp id = some p ∧ p.kind = .block addr rest drain ∧ (rest = [] → p.performed = true) ∧
      (rest ≠ [] → p.performed = false ∧ ∃ c, s.cycle ≤ c ∧ (c, i) ∈ t.agenda)

/-- Well blocks: fill, free, state and drain, and the bytes that they move. -/
def Obligations.Blocks : Prop :=
  Claims.Blocks ∧ Claims.BlockBytesMove

/-- R69, R196, R197, R202, R203: the integer lane operations and the immediates: each active lane gets the result of its
operator on B-bit lanes, read as signed for the `i` types and unsigned for the `n` types, and inactive lanes get 0; the
clamping ones count SAT when an active lane is clamped. -/
def Obligations.VectorIntegers : Prop :=
  ∀ (s : State) (d a b : Fin 32) (p y : Fin 8),
    let z := 2 ^ (y.val % 4)
    let B := 8 * z
    let rd := fun n : Nat => if y.val < 4 then (BitVec.ofNat B n).toInt else (n : Int)
    let wr := fun n : Int => (BitVec.ofInt B n).toNat
    let lo : Int := if y.val < 4 then -(2 ^ (B - 1)) else 0
    let hi : Int := if y.val < 4 then 2 ^ (B - 1) - 1 else 2 ^ B - 1
    let x := laneOf (s.rv a) z
    let w := laneOf (s.rv b) z
    let on := fun j => (s.rp p).getLsbD (j * z)
    let does := fun (i : Instr) (lat : Nat) (f : Nat → Nat) =>
      ∃ r, Lanes r z (fun j => if on j then f j else 0) ∧ Issues i s (vWrite s lat d r)
    let clamps := fun (i : Instr) (f : Nat → Int) => ∃ r e, Lanes r z (fun j => if on j then wr (max lo (min hi (f j))) else 0) ∧
      EventsOf e (128 / z) on (fun j => if f j < lo ∨ hi < f j then evSAT else 0) ∧ Issues i s (vWrite s 1 d r ++ evCount e)
    (s.Clear [.v (s.vphys a), .v (s.vphys b), .p p] [.v (s.vphys d)] false →
      does (.vadd d a b p y) 1 (fun j => (x j + w j) % 2 ^ B) ∧ does (.vsub d a b p y) 1 (fun j => wr ((x j : Int) - w j)) ∧
      does (.vmul d a b p y) 2 (fun j => x j * w j % 2 ^ B) ∧
      does (.vmulh d a b p y) 2 (fun j => wr (rd (x j) * rd (w j) / 2 ^ B)) ∧
      does (.vand d a b p y) 1 (fun j => x j &&& w j) ∧ does (.vor d a b p y) 1 (fun j => x j ||| w j) ∧
      does (.vxor d a b p y) 1 (fun j => x j ^^^ w j) ∧
      does (.vshl d a b p y) 1 (fun j => x j * 2 ^ (w j % B) % 2 ^ B) ∧
      does (.vshr d a b p y) 1 (fun j => x j / 2 ^ (w j % B)) ∧
      does (.vsra d a b p y) 1 (fun j => ((BitVec.ofNat B (x j)).sshiftRight (w j % B)).toNat) ∧
      does (.vmin d a b p y) 1 (fun j => if rd (x j) < rd (w j) then x j else w j) ∧
      does (.vmax d a b p y) 1 (fun j => if rd (x j) < rd (w j) then w j else x j) ∧
      clamps (.vadds d a b p y) (fun j => rd (x j) + rd (w j)) ∧ clamps (.vsubs d a b p y) (fun j => rd (x j) - rd (w j))) ∧
    (s.Clear [.v (s.vphys a), .p p] [.v (s.vphys d)] false →
      does (.vabs d a p y) 1 (fun j => wr (rd (x j)).natAbs) ∧ does (.vneg d a p y) 1 (fun j => wr (-(x j : Int))) ∧
      ∀ i : BitVec 9, does (.vaddi d a p y i) 1 (fun j => wr (x j + i.toInt)) ∧
        (i.toNat < B → does (.vshli d a p y i) 1 (fun j => x j * 2 ^ i.toNat % 2 ^ B) ∧
          does (.vshri d a p y i) 1 (fun j => x j / 2 ^ i.toNat) ∧
          does (.vsrai d a p y i) 1 (fun j => ((BitVec.ofNat B (x j)).sshiftRight i.toNat).toNat))) ∧
    (s.Clear [.p p] [.v (s.vphys d)] false → ∀ i : BitVec 9, does (.vli d p y i) 1 (fun _ => wr i.toInt))

/-- R204, R205: the compares give their predicate all bits of the lanes whose condition holds; the moves and permutes give
each active lane its source lane, a lane outside the vector reading as 0; `vsel` writes every lane, `vins` one, and `vext` a g
register. -/
def Obligations.VectorComparesAndMoves : Prop :=
  ∀ (s : State) (d a b : Fin 32) (q p : Fin 8),
    (∀ y : Fin 8,
      let z := 2 ^ (y.val % 4)
      let B := 8 * z
      let rd := fun n : Nat => if y.val < 4 then (BitVec.ofNat B n).toInt else (n : Int)
      let x := fun j => rd (laneOf (s.rv a) z j)
      let w := fun j => rd (laneOf (s.rv b) z j)
      let on := fun j => (s.rp p).getLsbD (j * z)
      let does := fun (i : Instr) (f : Nat → Nat) =>
        ∃ r, Lanes r z (fun j => if on j then f j else 0) ∧ Issues i s (vWrite s 1 d r)
      (s.Clear [.v (s.vphys a), .v (s.vphys b), .p p] [.p q] false → ∀ r ∈ ([
        (.vcmpEq q a b p y, fun j => decide (x j = w j)), (.vcmpNe q a b p y, fun j => decide (x j ≠ w j)),
        (.vcmpLt q a b p y, fun j => decide (x j < w j)), (.vcmpLe q a b p y, fun j => decide (x j ≤ w j)),
        (.vcmpGt q a b p y, fun j => decide (w j < x j)), (.vcmpGe q a b p y, fun j => decide (w j ≤ x j))] :
          List (Instr × (Nat → Bool))), ∃ m, PredLanes m z (fun j => on j && r.2 j) ∧ Issues r.1 s (pWrite 1 q m)) ∧
      (s.Clear [.g a, .p p] [.v (s.vphys d)] false → does (.vidx d a p y) (fun j => ((s.rg a).toNat + j) % 2 ^ B)) ∧
      (s.Clear [.v (s.vphys a), .p p] [.v (s.vphys d)] false →
        (∃ f, does (.vclz d a p y) f ∧ ∀ j < 128 / z, f j ≤ B ∧ laneOf (s.rv a) z j < 2 ^ (B - f j) ∧
          (f j < B → 2 ^ (B - f j - 1) ≤ laneOf (s.rv a) z j)) ∧
        does (.vpopc d a p y) (fun j => ((List.range B).filter (fun i => (laneOf (s.rv a) z j).testBit i)).length))) ∧
    ∀ y : Fin 16,
      let z := tySize y.val
      let n := 128 / z
      let at_ := fun (v : Vec) (i : Int) => if 0 ≤ i ∧ i < n then laneOf v z i.toNat else 0
      let on := fun j => (s.rp p).getLsbD (j * z)
      let does := fun (i : Instr) (f : Nat → Nat) =>
        ∃ r, Lanes r z (fun j => if on j then f j else 0) ∧ Issues i s (vWrite s 1 d r)
      (s.Clear [.v (s.vphys a), .p p] [.v (s.vphys d)] false →
        does (.vmov d a p y) (laneOf (s.rv a) z) ∧ does (.vnot d a p y) (fun j => 2 ^ (8 * z) - 1 - laneOf (s.rv a) z j)) ∧
      (s.Clear [.v (s.vphys a), .v (s.vphys b), .p p] [.v (s.vphys d)] false →
        (∃ r, Lanes r z (fun j => if on j then laneOf (s.rv a) z j else laneOf (s.rv b) z j) ∧
          Issues (.vsel d a b p y) s (vWrite s 1 d r)) ∧
        does (.vshuf d a b p y) (fun j => at_ (s.rv a) (laneOf (s.rv b) z j)) ∧
        does (.vzip d a b p y) (fun j => if j % 2 = 0 then laneOf (s.rv a) z (j / 2) else laneOf (s.rv b) z (j / 2)) ∧
        does (.vunzip d a b p y) (fun j => if j < n / 2 then laneOf (s.rv a) z (2 * j) else laneOf (s.rv b) z (2 * (j - n / 2)))) ∧
      (s.Clear [.v (s.vphys a), .g b, .p p] [.v (s.vphys d)] false →
        does (.vslide d a b p y) (fun j => at_ (s.rv a) (j + (s.rg b).toInt))) ∧
      (s.Clear [.g a, .p p] [.v (s.vphys d)] false → does (.vbcast d a p y) (fun _ => (s.rg a).toNat % 2 ^ (8 * z))) ∧
      (s.Clear [.v (s.vphys a), .g b] [.g d] false →
        let l := if (s.rg b).toNat < n then laneOf (s.rv a) z (s.rg b).toNat else 0
        Issues (.vext d a b y) s (gWrite 1 d (if y.val < 4 then (BitVec.ofNat (8 * z) l).signExtend 64 else BitVec.ofNat 64 l))) ∧
      (s.Clear [.v (s.vphys d), .g a, .g b] [.v (s.vphys d)] false →
        ∃ r, Lanes r z (fun j => if j = (s.rg b).toNat then (s.rg a).toNat % 2 ^ (8 * z) else laneOf (s.rv d) z j) ∧
          Issues (.vins d a b y) s (vWrite s 1 d r))

/-- R73, R93, R197, R206, R207: the floating-point lane operations round once to the lane's format, inactive lanes get 0, and
raise no event; the fused ones keep v[d] there. -/
def Claims.VectorFloats : Prop :=
  ∀ (s : State) (d a b : Fin 32) (q p : Fin 8) (y : Fin 2) (f : Fmt) (z : Nat), f = (if y = 0 then fmt16 else fmt32) →
    z = (if y = 0 then 2 else 4) →
    let x := laneOf (s.rv a) z
    let w := laneOf (s.rv b) z
    let c := laneOf (s.rv d) z
    let on := fun j => (s.rp p).getLsbD (j * z)
    let cut := fun n : Nat => n % 2 ^ (8 * z)
    let does := fun (i : Instr) (lat : Nat) (g : Nat → Nat × Ev) => ∃ r e, Lanes r z (fun j => if on j then cut (g j).1 else 0) ∧
      EventsOf e (128 / z) on (fun j => (g j).2) ∧ Issues i s (vWrite s lat d r ++ evCount e)
    let tests := fun (i : Instr) (g : Nat → Bool × Ev) => ∃ m e, PredLanes m z (fun j => on j && (g j).1) ∧
      EventsOf e (128 / z) on (fun j => (g j).2) ∧ Issues i s (pWrite 1 q m ++ evCount e)
    let fuses := fun (i : Instr) (g : Nat → Nat × Ev) => ∃ r e, Lanes r z (fun j => if on j then cut (g j).1 else c j) ∧
      EventsOf e (128 / z) on (fun j => (g j).2) ∧ Issues i s (vWrite s 2 d r ++ evCount e)
    (s.Clear [.v (s.vphys a), .v (s.vphys b), .p p] [.v (s.vphys d)] false →
      does (.vfadd d a b p y) 2 (fun j => f.addB (x j) (w j)) ∧ does (.vfsub d a b p y) 2 (fun j => f.subB (x j) (w j)) ∧
      does (.vfmul d a b p y) 2 (fun j => f.mulB (x j) (w j)) ∧ does (.vfmin d a b p y) 2 (fun j => f.minB false (x j) (w j)) ∧
      does (.vfmax d a b p y) 2 (fun j => f.minB true (x j) (w j))) ∧
    (s.Clear [.v (s.vphys a), .p p] [.v (s.vphys d)] false →
      does (.vfabs d a p y) 1 (fun j => (if f.value (x j) = .nan then f.nan else x j % 2 ^ (8 * z - 1), 0)) ∧
      does (.vfneg d a p y) 1 (fun j => (if f.value (x j) = .nan then f.nan else (x j + 2 ^ (8 * z - 1)) % 2 ^ (8 * z), 0))) ∧
    (s.Clear [.v (s.vphys a), .v (s.vphys b), .p p] [.p q] false →
      tests (.vfeq q a b p y) (fun j => f.cmpB 0 (x j) (w j)) ∧ tests (.vflt q a b p y) (fun j => f.cmpB 1 (x j) (w j)) ∧
      tests (.vfle q a b p y) (fun j => f.cmpB 2 (x j) (w j))) ∧
    (s.Clear [.v (s.vphys d), .v (s.vphys a), .v (s.vphys b), .p p] [.v (s.vphys d)] false →
      fuses (.vfma d a b p y) (fun j => f.fmaB false false (x j) (w j) (c j)) ∧
      fuses (.vfms d a b p y) (fun j => f.fmaB true false (x j) (w j) (c j)) ∧
      fuses (.vfnma d a b p y) (fun j => f.fmaB true true (x j) (w j) (c j)) ∧
      fuses (.vfnms d a b p y) (fun j => f.fmaB false true (x j) (w j) (c j)))

/-- R74, R76, R77, R78, R208, R209: a conversion takes as many elements as the larger type has lanes, converts the active
ones, and clears the bytes beyond; integers are clamped to the range of the destination type; `vpack.bfp` makes one block of
planes with its exponent in byte 127, and `vunpack.bfp` gives the exact values of its elements. -/
def Claims.VectorConversions : Prop :=
  (∀ (s : State) (d a : Fin 32) (p : Fin 8) (y x : Fin 16), s.Clear [.v (s.vphys a), .p p] [.v (s.vphys d)] false →
    let m := max (tySize y.val) (tySize x.val)
    let on := fun j => (s.rp p).getLsbD (j * m)
    let g := fun j => convert y.val x.val (laneOf (s.rv a) (tySize x.val) j)
    ∃ r e, (∀ j < 128 / m, laneOf r (tySize y.val) j = if on j then (g j).1 % 2 ^ (8 * tySize y.val) else 0) ∧
      r.toNat < 2 ^ (8 * tySize y.val * (128 / m)) ∧ EventsOf e (128 / m) on (fun j => (g j).2) ∧
      Issues (.vcvt d a p y x) s (vWrite s 2 d r ++ evCount e)) ∧
  (∀ (dt st n : Nat), convert dt dt n = (n, 0) ∧ (st < 8 → dt < 8 → dt ≠ st →
    let v := if st < 4 then (BitVec.ofNat (8 * tySize st) n).toInt else (n : Int)
    let lo : Int := if dt < 4 then -(2 ^ (8 * tySize dt - 1)) else 0
    let hi : Int := if dt < 4 then 2 ^ (8 * tySize dt - 1) - 1 else 2 ^ (8 * tySize dt) - 1
    convert dt st n = ((BitVec.ofInt (8 * tySize dt) (max lo (min hi v))).toNat, if v < lo ∨ hi < v then evSAT else 0))) ∧
  ∀ (s : State) (d a w : Fin 32) (p : Fin 8), 2 ≤ w.val → w.val ≤ 8 → s.Clear [.v (s.vphys a), .p p] [.v (s.vphys d)] false →
    (∀ r, r = bfpPack w.val false ((List.range 32).map (fun j =>
        if (s.rp p).getLsbD (j * 4) then fmt32.value (laneOf (s.rv a) 4 j) else .fin false 0 0)) →
      Issues (.vpackBfp d a w p) s (vWrite s 2 d (BitVec.ofNat 1024 (r.1 + r.2.1 * 2 ^ 1016)) ++ evCount r.2.2)) ∧
    ∃ r, Lanes r 4 (fun j => if (s.rp p).getLsbD (j * 4) then
        exact32 (bfpValue w.val ((s.rv a).toNat / 2 ^ 1016) (bfpMant w.val (s.rv a).toNat j)) % 2 ^ 32 else 0) ∧
      Issues (.vunpackBfp d a w p) s (vWrite s 2 d r)

/-- R74, R208: every conversion of a lane with a floating-point type at either end: an integer or a float becomes a float by
one rounding to the format of its type, and a float becomes an integer of the range of its type by dropping its fraction. A
NaN becomes the canonical NaN, an infinity stays one or, where the format has none, becomes the largest finite value with
OVERFLOW and SAT, and a zero keeps its sign. -/
def Claims.FloatConversions : Prop :=
  (∀ (dt st n : Nat) (f g : Fmt), dt ≠ st →
    (dt, f) ∈ ([(8, fmt16), (9, fmt32), (10, fmtE4), (11, fmtE5)] : List (Nat × Fmt)) →
    (∀ v : Int, st < 8 → v = (if st < 4 then (BitVec.ofNat (8 * tySize st) n).toInt else (n % 2 ^ (8 * tySize st) : Nat)) →
      n < 2 ^ (8 * tySize st) → (v = 0 → convert dt st n = (0, 0)) ∧
      (v ≠ 0 → convert dt st n = f.round false false (.fin (v < 0) v.natAbs 0))) ∧
    ((st, g) ∈ ([(8, fmt16), (9, fmt32), (10, fmtE4), (11, fmtE5)] : List (Nat × Fmt)) →
      convert dt st n = f.round false false (g.value n))) ∧
  (∀ (dt st n : Nat) (g : Fmt), dt < 8 →
    (st, g) ∈ ([(8, fmt16), (9, fmt32), (10, fmtE4), (11, fmtE5)] : List (Nat × Fmt)) →
    let r := (g.value n).toInt (if dt < 4 then -(2 ^ (8 * tySize dt - 1)) else 0)
      (if dt < 4 then 2 ^ (8 * tySize dt - 1) - 1 else 2 ^ (8 * tySize dt) - 1)
    convert dt st n = ((BitVec.ofInt (8 * tySize dt) r.1).toNat, r.2)) ∧
  ∀ f ∈ [fmt32, fmt16, fmtE4, fmtE5], ∀ (sat neg : Bool) (e : Int),
    f.round false sat .nan = (f.nan, 0) ∧ f.round false sat (.fin neg 0 e) = (f.sign neg, 0) ∧
    (f.hasInf = true → sat = false → f.round false sat (.inf neg) = (f.sign neg + (2 ^ f.ebits - 1) * 2 ^ f.fbits, 0)) ∧
    (f.hasInf = true → sat = true → f.round false sat (.inf neg) = (f.sign neg + f.maxFin, evSAT)) ∧
    (f.hasInf = false → f.round false sat (.inf neg) = (f.sign neg + f.maxFin, evOVERFLOW ||| evSAT))

/-- R76, R77, R78: the BFP blocks: element i has the two's-complement mantissa whose bit j lies in bit i of plane j, and the
value of mantissa and exponent; packing 32 values takes the exponent from the greatest magnitude, rounds each value to a
mantissa, to nearest with ties to even, and clamps it to a symmetric range, with SAT where one is clamped; a NaN or an
infinity gives a block of NaNs, an infinity with SAT. No other event is counted (the model's choice, log entry 80). -/
def Claims.BfpBlocks : Prop :=
  let val : Fv → ℚ := fun v => match v with
    | .fin s m e => (if s then -1 else 1) * (m : ℚ) * 2 ^ e
    | _ => 0
  ∀ w : Nat, 2 ≤ w → w ≤ 8 →
    (∀ (e : Nat) (m : Int), (e = 255 → bfpValue w e m = .nan) ∧
      (e < 255 → (∃ s n g, bfpValue w e m = .fin s n g) ∧ val (bfpValue w e m) = m * 2 ^ ((e : Int) - 127 - (w - 1)))) ∧
    (∀ x i : Nat, i < 32 → -(2 ^ (w - 1) : Int) ≤ bfpMant w x i ∧ bfpMant w x i < 2 ^ (w - 1) ∧
      ∀ j < w, (BitVec.ofInt w (bfpMant w x i)).getLsbD j = x.testBit (32 * j + i)) ∧
    ∀ (xs : List Fv) (r : Nat × Nat × Ev), xs.length = 32 → r = bfpPack w false xs →
      (.nan ∈ xs → (∀ s, .inf s ∉ xs) → r = (0, 255, 0)) ∧ ((∃ s, .inf s ∈ xs) → r = (0, 255, evSAT)) ∧
      ((∀ x ∈ xs, ∃ s m e, x = .fin s m e) →
        let top : Int := 2 ^ (w - 1) - 1
        let q : ℚ := 2 ^ ((r.2.1 : Int) - 127 - (w - 1))
        r.1 < 2 ^ (32 * w) ∧ ((∀ x ∈ xs, val x = 0) → r.2.1 = 0) ∧
        (∀ x ∈ xs, ∀ l : Int, (∀ y ∈ xs, |val y| ≤ |val x|) → (2 : ℚ) ^ l ≤ |val x| → |val x| < 2 ^ (l + 1) →
          (r.2.1 : Int) = min 254 (max 0 (l + 128))) ∧
        ∃ y : Nat → Int, (∀ i < 32, |val (xs.getD i .nan) / q - y i| ≤ 1 / 2 ∧
            (|val (xs.getD i .nan) / q - y i| = 1 / 2 → y i % 2 = 0) ∧ bfpMant w r.1 i = min top (max (-top) (y i))) ∧
          ((∃ i < 32, y i < -top ∨ top < y i) → r.2.2 = evSAT) ∧ ((∀ i < 32, -top ≤ y i ∧ y i ≤ top) → r.2.2 = 0))

/-- Vector floating point, conversions and block formats. That a pack counts SAT alone is log entry 80. -/
def Obligations.VectorFloatsAndConversions : Prop :=
  Claims.VectorFloats ∧ Claims.VectorConversions ∧ Claims.FloatConversions ∧ Claims.BfpBlocks

/-- R82, R83, R210: the integer reductions give the sum modulo 2^64, the extremes or the bitwise combination of the active
lanes, extended by their type; with no active lane the identity, and EMPTY for the extremes. The floating-point ones combine
lanes in the fixed pairwise tree in FP32. That vredand of no active lane gives 64 ones for every type is the model's choice,
log entry 62. -/
def Obligations.VectorReductions : Prop :=
  (∀ (s : State) (d a : Fin 32) (p y : Fin 8), s.Clear [.v (s.vphys a), .p p] [.g d] false →
    let z := 2 ^ (y.val % 4)
    let B := 8 * z
    let v := fun j : Nat => if y.val < 4 then (BitVec.ofNat B (laneOf (s.rv a) z j)).toInt else (laneOf (s.rv a) z j : Int)
    let act := (List.range (128 / z)).filter (fun j => (s.rp p).getLsbD (j * z))
    let lo : Int := if y.val < 4 then -(2 ^ (B - 1)) else 0
    let hi : Int := if y.val < 4 then 2 ^ (B - 1) - 1 else 2 ^ B - 1
    let gives := fun (i : Instr) (r : Word) (e : Ev) => Issues i s (gWrite 3 d r ++ evCount e)
    gives (.vredsum d a p y) (BitVec.ofInt 64 (act.map v).sum) 0 ∧
    (act = [] → gives (.vredmax d a p y) (BitVec.ofInt 64 lo) evEMPTY ∧ gives (.vredmin d a p y) (BitVec.ofInt 64 hi) evEMPTY ∧
      gives (.vredand d a p y) (BitVec.allOnes 64) 0 ∧ gives (.vredor d a p y) 0 0) ∧
    (∀ m ∈ act, (∀ j ∈ act, v j ≤ v m) → gives (.vredmax d a p y) (BitVec.ofInt 64 (v m)) 0) ∧
    (∀ m ∈ act, (∀ j ∈ act, v m ≤ v j) → gives (.vredmin d a p y) (BitVec.ofInt 64 (v m)) 0) ∧
    (∃ r, gives (.vredand d a p y) r 0 ∧
      ∀ i : Nat, i < 64 → (r.getLsbD i = true ↔ ∀ j ∈ act, (BitVec.ofInt 64 (v j)).getLsbD i = true)) ∧
    ∃ r, gives (.vredor d a p y) r 0 ∧
      ∀ i : Nat, i < 64 → (r.getLsbD i = true ↔ ∃ j ∈ act, (BitVec.ofInt 64 (v j)).getLsbD i = true)) ∧
  ∀ (s : State) (d a : Fin 32) (p : Fin 8) (y : Fin 2), s.Clear [.v (s.vphys a), .p p] [.g d] false →
    let z := if y = 0 then 2 else 4
    let on := fun j => (s.rp p).getLsbD (j * z)
    let x := fun j => if y = 0 then (fmt32.round false false (fmt16.value (laneOf (s.rv a) z j))).1 else laneOf (s.rv a) z j
    let top := if y = 0 then 6 else 5
    ∀ r ∈ ([(.vfredsum d a p y, 0x80000000, fmt32.addB, 0, 0), (.vfredmax d a p y, 0xFF800000, fmt32.minB true, 0xFF800000, evEMPTY),
      (.vfredmin d a p y, 0x7F800000, fmt32.minB false, 0x7F800000, evEMPTY)] :
        List (Instr × Nat × (Nat → Nat → Nat × Ev) × Nat × Ev)),
      ((∀ j < 128 / z, on j = false) → Issues r.1 s (gWrite 3 d (BitVec.ofNat 64 r.2.2.2.1) ++ evCount r.2.2.2.2)) ∧
      ((∃ j < 128 / z, on j = true) → ∃ (t : Nat → Nat → Nat) (e : Ev),
        (∀ j < 128 / z, t 0 j = if on j then x j else r.2.1) ∧
        (∀ l < top, ∀ j < 2 ^ (top - l - 1), t (l + 1) j = (r.2.2.1 (t l (2 * j)) (t l (2 * j + 1))).1) ∧
        (∀ i < 8, e.getLsbD i = true ↔ ∃ l < top, ∃ j < 2 ^ (top - l - 1),
          ((r.2.2.1 (t l (2 * j)) (t l (2 * j + 1))).2).getLsbD i = true) ∧
        Issues r.1 s (gWrite 3 d (BitVec.ofNat 64 (t top 0)) ++ evCount e))

/-- R199, R200, R201: the predicate operations; `vwhile` makes the predicate of the lanes below the limit and advances its
index by the lane count; `vwidth` gives 128. -/
def Claims.Predicates : Prop :=
  ∀ (s : State) (d a b : Fin 8) (g i n : Fin 32),
    (s.Clear [.p a, .p b] [.p d] false → Issues (.pand d a b) s (pWrite 1 d (s.rp a &&& s.rp b)) ∧
      Issues (.por d a b) s (pWrite 1 d (s.rp a ||| s.rp b)) ∧ Issues (.pxor d a b) s (pWrite 1 d (s.rp a ^^^ s.rp b))) ∧
    (s.Clear [.p a] [.p d] false → Issues (.pnot d a) s (pWrite 1 d (~~~ s.rp a))) ∧
    (s.Clear [] [.p d] false → Issues (.pset d) s (pWrite 1 d (BitVec.allOnes 128)) ∧ Issues (.pclr d) s (pWrite 1 d 0)) ∧
    (s.Clear [.p a] [.g g] false →
      Issues (.pcount g a) s (gWrite 1 g (BitVec.ofNat 64 ((List.finRange 128).filter (fun j => (s.rp a).getLsbD j.val)).length)) ∧
      ∃ j ≤ 128, Issues (.pfirst g a) s (gWrite 1 g (BitVec.ofNat 64 j)) ∧ (∀ k < j, (s.rp a).getLsbD k = false) ∧
        (j < 128 → (s.rp a).getLsbD j = true)) ∧
    (s.Clear [] [.g g] false → Issues (.vwidth g) s (gWrite 1 g 128)) ∧
    ∀ y : Fin 16, s.Clear [.g i, .g n] [.p d, .g i] false →
      ∃ m, PredLanes m (tySize y.val) (fun j => decide ((s.rg i).toInt + j < (s.rg n).toInt)) ∧
        Issues (.vwhile d i n y) s (pWrite 1 d m ++ gWrite 1 i (BitVec.ofInt 64 ((s.rg i).toInt + (128 / tySize y.val : Nat))))

/-- R89, R90, R91, R128, R187, R214 to R218: `vrand` fills lane j with word j mod 4 of G(CTR + j/4) and advances CTR by 8,
trapping RNGWRAP where that wraps and RNGT is set; `vpop` and `vpush` move the queues' entries or wait; `vrot` and `sploop`
rotate the registers, and `sploop` follows its loop counts. -/
def Claims.VectorStreams : Prop :=
  ∀ (s : State) (d a : Fin 32) (p : Fin 8),
    let c := s.ctx.c
    (s.Clear [.p p] [.v (s.vphys d)] false →
      (c.rngctr.toNat + 8 < 2 ^ 64 ∨ c.tstatus.getLsbD 12 = false → ∃ r, Lanes r 4 (fun j => if (s.rp p).getLsbD (j * 4) then
          let q := rngWords (c.rngseed.extractLsb' 0 32) (c.rngseed.extractLsb' 32 32) (c.rngsid.extractLsb' 0 32)
            (c.rngctr + BitVec.ofNat 64 (j / 4))
          (match j % 4 with | 0 => q.w0 | 1 => q.w1 | 2 => q.w2 | _ => q.w3).toNat else 0) ∧
        Issues (.vrand d p) s (vWrite s 2 d r ++ [(1, .rng (c.rngctr + 8) (decide (2 ^ 64 ≤ c.rngctr.toNat + 8)))])) ∧
      (2 ^ 64 ≤ c.rngctr.toNat + 8 → c.tstatus.getLsbD 12 = true → exec (.vrand d p) s = .next (s.raise 0x16 c.rngctr))) ∧
    (s.Clear [] [.v (s.vphys d)] false →
      (s.ctx.x.ax = [] → exec (.vpop d) s = .next s.waitMsg) ∧
      ∀ e r, s.ctx.x.ax = e :: r → (e.filled = false → exec (.vpop d) s = .next s.waitMsg) ∧
        (e.filled = true → ∃ t, exec (.vpop d) s = .next t ∧ t.mem = s.mem ∧ Retired s t (vWrite s 1 d e.val ++ [(1, .vqPop .ax)]) ∧
          (t.seqSt s.cur.q).lc = Clk.max s.lc e.clk)) ∧
    (s.Clear [.v (s.vphys a)] [] false →
      (s.ctx.x.xw.length < 4 → Issues (.vpush a) s [(1, .vqPush (s.rv a) s.lc)]) ∧
      (4 ≤ s.ctx.x.xw.length → exec (.vpush a) s = .next s.waitMsg)) ∧
    (∀ n : Fin 16, Issues (.vrot n) s [(1, .vrb (BitVec.ofNat 4 (c.vrb.toNat + n.val)))]) ∧
    ∀ (x : BitVec 16) (t : Word), t = s.pc + BitVec.ofInt 64 (4 * x.toInt) → s.Clear [] [.p 4, .p 5, .p 6, .p 7] false →
      let lc := getBits c.spctl 0 16
      let ec := getBits c.spctl 16 16
      let stg := getBits c.spctl 32 4
      let goes := fun (bit l e : Nat) => ∃ w : Word, getBits w 0 16 = l ∧ getBits w 16 16 = e ∧
        getBits w 32 4 = (stg * 2 + bit) % 16 ∧ w.toNat / 2 ^ 36 = c.spctl.toNat / 2 ^ 36 ∧
        IssuesTo (.sploop x) s ([(1, .spctl w), (1, .vrb (BitVec.ofNat 4 (c.vrb.toNat + 15)))] ++
          ([0, 1, 2, 3] : List (Fin 8)).flatMap (fun k =>
            pWrite 1 (4 + k) (if (stg * 2 + bit).testBit k.val then BitVec.allOnes 128 else 0))) (placeAt t) 0
      (lc ≠ 0 → s.GoodTarget t → goes 1 (lc - 1) ec) ∧ (lc = 0 → ec ≠ 0 → s.GoodTarget t → goes 0 0 (ec - 1)) ∧
      (lc = 0 → ec = 0 → IssuesTo (.sploop x) s [] s.nextFound 1)

/-- Predicates, random numbers, vector queues, rotation and software-pipelined loops. -/
def Obligations.PredicatesAndVectorStreams : Prop :=
  Claims.Predicates ∧ Claims.VectorStreams

/-- R60, R84, R211, R212: a special-function request issues where the unit has a free entry, its result computed lane by lane
and due to begin service 8 cycles later; else it waits. The unit begins to serve its oldest waiting request once it is due and
the unit is free, for 4 cycles, and the result is ready 24 cycles later; it lands with its post and its events. -/
def Claims.SpecialFunctions : Prop :=
  (∀ (s : State) (d a : Fin 32) (sl : Fin 16) (p : Fin 8), s.Clear [.v (s.vphys a), .p p] [.v (s.vphys d)] true →
    s.sealFull sl = false →
    ∀ r ∈ ([(.vexp2 d a sl p, exp2B), (.vlog2 d a sl p, log2B), (.vrcp d a sl p, rcpB), (.vrsqrt d a sl p, rsqrtB)] :
      List (Instr × (Nat → Nat × Ev))),
      (8 ≤ s.sfuHeld s.cur.nib → exec r.1 s = .next s.waitMem) ∧
      (s.sfuHeld s.cur.nib < 8 → ∃ t o v e, exec r.1 s = .next t ∧ t.mem = s.mem ∧ t.ops.length = s.ops.length + 1 ∧
        t.ops.getLast? = some o ∧ o.id = s.nextId ∧ o.kind = .sfu (s.vphys d) v e ∧ o.due = s.cycle + 8 ∧ o.performed = false ∧
        o.nib = s.cur.nib ∧ o.cid = s.ctx.cid ∧ o.sl = sl ∧
        Lanes v 4 (fun j => if (s.rp p).getLsbD (j * 4) then (r.2 (laneOf (s.rv a) 4 j)).1 % 2 ^ 32 else 0) ∧
        EventsOf e 32 (fun j => (s.rp p).getLsbD (j * 4)) (fun j => (r.2 (laneOf (s.rv a) 4 j)).2) ∧
        t.cnib.sfu = s.cnib.sfu ++ [s.nextId] ∧ t.agenda = s.agenda ++ [(s.cycle + 8, .sfuService s.cur.nib)] ∧
        Retired s t [(1, .pend (.v (s.vphys d))), (1, .sealPend sl)])) ∧
  (∀ (s : State) (n : NibId),
    let waiting := (s.nib n).sfu.filterMap (fun id => (s.findOp id).filter (!·.performed))
    (waiting = [] → exec (.sfuService n) s = .next s) ∧
    ∀ o r, waiting = o :: r →
      (s.cycle < o.due → exec (.sfuService n) s = .next s) ∧
      (o.due ≤ s.cycle → (s.nib n).sfuFree ≤ s.cycle → ∃ t p, exec (.sfuService n) s = .next t ∧ t.findOp o.id = some p ∧
        p.performed = true ∧ p.due = s.cycle + 24 ∧ p.kind = o.kind ∧ (t.nib n).sfuFree = s.cycle + 4 ∧ t.mem = s.mem ∧
        ∀ m k, t.stroke m k = s.stroke m k)) ∧
  ∀ (s : State) (id : Nat) (o : Op) (k : Fin 8) (d : Fin 32) (v : Vec) (e : BitVec 8), s.findOp id = some o → o.id = id →
    o.kind = .sfu d v e → s.Resides o.nib o.cid k → ∃ t, exec (.sfuResult id) s = .next t ∧
      Landed s t o k ((s.stroke o.nib k).ctx.r.arrive (.v d v)) ∧ (t.nib o.nib).sfu = (s.nib o.nib).sfu.filter (· != id) ∧
      (t.stroke o.nib k).ctx.c = { (s.stroke o.nib k).ctx.c with fpev := fpevAdd (s.stroke o.nib k).ctx.c.fpev e }

/-- R84, R85, R86, R87, R88: the special functions of one FP32 lane: the special inputs of the table with their events, and
otherwise the procedures, step by step, every step an FP32 operation or an exact one; only the last step counts events, and
that of `vrsqrt` none. -/
def Claims.SpecialFunctionSteps : Prop :=
  let val : Fv → ℚ := fun v => match v with
    | .fin s m e => (if s then -1 else 1) * (m : ℚ) * 2 ^ e
    | _ => 0
  let fma := fun (a b c : Nat) => (fmt32.fmaB false false a b c).1
  let fnma := fun (a b c : Nat) => (fmt32.fmaB true false a b c).1
  let mul := fun (a b : Nat) => (fmt32.mulB a b).1
  let nan := 0x7FC00000
  let infinity := 0x7F800000
  -- the exact steps
  (∀ v w : Fv, (∃ s m e, v = .fin s m e) → (∃ s m e, w = .fin s m e) → val (Fv.add v w).1 = val v + val w) ∧
  (∀ (v : Fv) (y : Nat), (∃ s m e, v = .fin s m e) → val (fmt32.value y) = val v → val (fmt32.value (exact32 v)) = val v) ∧
  (∀ (s : Bool) (m : Nat) (e : Int), |val (.fin s m e) - rneInt s m e| ≤ 1 / 2 ∧
    (|val (.fin s m e) - rneInt s m e| = 1 / 2 → rneInt s m e % 2 = 0)) ∧
  (∀ (m : Nat) (e : Int), 0 < m → m < 2 ^ 24 → val (fmt32.value (splitExp m e).2) * 2 ^ (splitExp m e).1 = m * 2 ^ e ∧
    1 ≤ val (fmt32.value (splitExp m e).2) ∧ val (fmt32.value (splitExp m e).2) < 2) ∧
  ∀ (x : Nat) (v : Fv), v = fmt32.value x →
    (v = .nan → ∀ g ∈ [exp2B, log2B, rcpB, rsqrtB], g x = (nan, 0)) ∧
    (v = .inf false → exp2B x = (infinity, 0) ∧ log2B x = (infinity, 0) ∧ rcpB x = (0, 0) ∧ rsqrtB x = (0, 0)) ∧
    (v = .inf true → exp2B x = (0, 0) ∧ log2B x = (nan, evINVALID) ∧ rcpB x = (0x80000000, 0) ∧ rsqrtB x = (nan, evINVALID)) ∧
    ∀ s m e, v = .fin s m e →
      (m = 0 → exp2B x = (0x3F800000, 0) ∧ log2B x = (0xFF800000, evDIVZERO) ∧
        ∀ g ∈ [rcpB, rsqrtB], g x = ((if s then 0xFF800000 else infinity), evDIVZERO)) ∧
      (m ≠ 0 → s = true → log2B x = (nan, evINVALID) ∧ rsqrtB x = (nan, evINVALID)) ∧
      (128 ≤ val v → exp2B x = (infinity, evOVERFLOW)) ∧ (val v < -150 → exp2B x = (0, evUNDERFLOW)) ∧
      (m ≠ 0 → -150 ≤ val v → val v < 128 → ∀ (n : Int) (f p : Nat), n = rneInt s m e →
        f = exact32 (Fv.add v (Fv.ofInt (-n) 0 false)).1 →
        p = fma (fma (fma (fma (fma (fma 0x392184AA f 0x3AAEC3FF) f 0x3C1D955B) f 0x3D635847) f 0x3E75FDF0) f 0x3F317218) f
          0x3F800000 →
        ∀ t a b, fmt32.value p = .fin t a b → exp2B x = fmt32.round false false (.fin t a (b + n))) ∧
      (m ≠ 0 → s = false → ∀ (k i : Int) (y t q : Nat) (a : Nat) (b : Int) (z : Bool), (k, y) = splitExp m e →
        fmt32.value y = .fin z a b → (if 0x3FB504F3 < y then i = 1 else i = 0) →
        t = exact32 (Fv.add (.fin z a (b - i)) (.fin true 1 0)).1 →
        q = fma (fma (fma (fma (fma (fma (fma 0xBE38AA3B t 0x3E530BBF) t 0xBE76382A) t 0x3E93BB6A) t 0xBEB8AA3B) t 0x3EF6382A) t
          0xBF38AA3B) t 0x3FB8AA3B →
        log2B x = fmt32.fmaB false false t q (exact32 (Fv.ofInt (k + i) 0 false))) ∧
      (m ≠ 0 → ∀ (k : Int) (y y0 y1 y2 y3 : Nat), (k, y) = splitExp m e → y0 = fma 0xBEF0F0F1 y 0x3FB4B4B5 →
        y1 = fma y0 (fnma y y0 0x3F800000) y0 → y2 = fma y1 (fnma y y1 0x3F800000) y1 → y3 = fma y2 (fnma y y2 0x3F800000) y2 →
        ∀ t a b, fmt32.value y3 = .fin t a b → rcpB x = fmt32.round false false (.fin (t != s) a (b - k))) ∧
      (m ≠ 0 → s = false → ∀ (k i : Int) (y w : Nat) (a : Nat) (b : Int) (z : Bool) (r : Nat → Nat), (k, y) = splitExp m e →
        fmt32.value y = .fin z a b → i = k % 2 → w = (if i = 0 then y else exact32 (.fin z a (b + 1))) →
        r 0 = fma 0xBE200000 w 0x3F900000 →
        (∀ j < 4, r (j + 1) = fma (mul 0x3F000000 (r j)) (fnma (mul w (r j)) (r j) 0x3F800000) (r j)) →
        ∀ t c d, fmt32.value (r 4) = .fin t c d →
          rsqrtB x = ((fmt32.round false false (.fin t c (d - (k - i) / 2))).1, 0))

/-- R75, R251: the order by which `vtopk`, the select unit and `cpy.topk` rank: i32 by signed and n32 by unsigned value, f32
by value with -0 below +0, and every NaN below negative infinity, NaNs being equal to one another. -/
def Claims.RankOrder : Prop :=
  let val : Fv → ℚ := fun v => match v with
    | .fin s m e => (if s then -1 else 1) * (m : ℚ) * 2 ^ e
    | _ => 0
  let neg : Fv → Bool := fun v => match v with
    | .fin s _ _ => s
    | .inf s => s
    | .nan => false
  let lt : Fv → Fv → Bool := fun v w => match v, w with
    | .inf s, .inf t => s && !t
    | .inf s, _ => s
    | _, .inf t => !t
    | _, _ => decide (val v < val w)
  ∀ m n : Nat, m < 2 ^ 32 → n < 2 ^ 32 →
    let x := fmt32.value m
    let y := fmt32.value n
    (rankKey 2 m < rankKey 2 n ↔ (BitVec.ofNat 32 m).toInt < (BitVec.ofNat 32 n).toInt) ∧
    (rankKey 6 m < rankKey 6 n ↔ m < n) ∧
    (x = .nan → y = .nan → rankKey 9 m = rankKey 9 n) ∧ (x = .nan → y ≠ .nan → rankKey 9 m < rankKey 9 n) ∧
    (x ≠ .nan → y ≠ .nan →
      (rankKey 9 m < rankKey 9 n ↔ (lt x y || (!lt x y && !lt y x && neg x && !neg y)) = true))

/-- R250 to R253: `vtopk` gives rank r of each segment the index of the active lane that has r active lanes before it, greater
values first and equal ones in lane order, and all ones where there is none; `vsortkv` puts the active lanes of a segment in
rising order of their keys; `vbinpos` gives each active lane its bin's count plus the earlier active lanes of that bin, and
counts them. -/
def Claims.RankingAndBinning : Prop :=
  ∀ (s : State) (d a : Fin 32) (p : Fin 8),
    (s.Clear [.v (s.vphys a), .p p] [.v (s.vphys d)] false →
      (∀ (l : Fin 4) (k : Fin 8) (y : Fin 16), wfTopk l k y = true →
        let len := 4 * 2 ^ l.val
        let key := fun j => rankKey y.val (laneOf (s.rv a) 4 j)
        let act := fun j => (List.range 32).filter (fun i => (s.rp p).getLsbD (i * 4) && i / len == j / len)
        let rank := fun i => ((act i).filter (fun h => decide (key i < key h ∨ key h = key i ∧ h < i))).length
        ∃ r, Issues (.vtopk d a l k p y) s (vWrite s 3 d r) ∧ ∀ j < 32,
          (j % len < k.val + 1 → j % len < (act j).length → laneOf r 4 j ∈ act j ∧ rank (laneOf r 4 j) = j % len) ∧
          (k.val + 1 ≤ j % len ∨ (act j).length ≤ j % len → laneOf r 4 j = 0xFFFFFFFF)) ∧
      (∀ (l : Fin 8) (y : Fin 2), wfSort l y = true →
        let z := 4 * (y.val + 1)
        let len := 2 * 2 ^ l.val
        let key := fun j => laneOf (s.rv a) z j / 2 ^ (4 * z)
        let act := fun j => (List.range (128 / z)).filter (fun i => (s.rp p).getLsbD (i * z) && i / len == j / len)
        let rank := fun i => ((act i).filter (fun h => decide (key h < key i ∨ key h = key i ∧ h < i))).length
        ∃ r, Issues (.vsortkv d a l p y) s (vWrite s 3 d r) ∧ ∀ j < 128 / z,
          (j % len < (act j).length → ∃ i ∈ act j, rank i = j % len ∧ laneOf r z j = laneOf (s.rv a) z i) ∧
          ((act j).length ≤ j % len → laneOf r z j = 2 ^ (8 * z) - 1)) ∧
      (∀ y : Fin 4, y.val < 3 →
        let z := 2 ^ y.val
        let on := fun j => (s.rp p).getLsbD (j * z)
        let key := fun j => laneOf (s.rv a) z j % 256
        let before := fun (j k : Nat) => min 65535 (binAt s.ctx.r.bins k + ((List.range j).filter (fun i => on i && key i == k)).length)
        let top := 2 ^ (8 * z) - 1
        ∃ bins r e, Lanes r z (fun j => if on j then min (before j (key j)) top else 0) ∧
          (∀ k < 256, binAt bins k = before (128 / z) k) ∧
          EventsOf e (128 / z) on (fun j => if before j (key j) = 65535 ∨ top < before j (key j) then evSAT else 0) ∧
          Issues (.vbinpos d a p y) s ([(1, .bins bins)] ++ vWrite s 3 d r ++ evCount e))) ∧
    Issues .vbinclr s [(1, .bins 0)] ∧
    (s.Clear [.g a] [.v (s.vphys d)] false → ∃ r, Lanes r 2 (fun j =>
        if (s.rg a).toNat + j < 256 then binAt s.ctx.r.bins ((s.rg a).toNat + j) else 0) ∧
      Issues (.vbinrd d a) s (vWrite s 1 d r))

/-- Special functions, ranking, sorting and binning. -/
def Obligations.SpecialFunctionsAndRanking : Prop :=
  Claims.SpecialFunctions ∧ Claims.SpecialFunctionSteps ∧ Claims.RankOrder ∧ Claims.RankingAndBinning

/-- R254, R255, R260: `selr` and `selc` check their descriptor, its window, its alignment and then its fields, arrays and
their alignment, trap with the first failure, wait while the unit's queue is full, and else send the request with the policy
as it stands, to begin service 8 cycles later; in deterministic mode REPLICA acts as DROP (R331). The seal posts when the
service has ended. That a descriptor in the records of an enabled context cache traps LOADACC after LOADALIGN, and an array
there LOADACC or, where it is written, STOREACC after every other check, is the model's reading (log entry 59). -/
def Claims.SelectRequests : Prop :=
  (∀ (s : State) (sl : Fin 16) (a : Fin 32), s.Clear [.g a] [] true →
    ∀ r ∈ ([(.selr sl a, false), (.selc sl a, true)] : List (Instr × Bool)),
      let col := r.2
      let va := s.rg a
      let x := s.wellRead va.toNat 48
      let f := descField x
      let rows := f 4 2
      let cols := f 6 1
      let k := f 8 2
      let pitch := f 10 2
      let bad := fun (o : Nat) (b : Bool) => (((0x02 : BitVec 8), va + BitVec.ofNat 64 o), b)
      let arrays : List (Bool × Nat × Nat × Nat) :=
        [(true, f 0 4, (rows - 1) * pitch + 4 * cols, 4), (true, f 12 4, 8 * k * (if col then cols else rows), 8),
         (!col, f 0x10 4, 256, 8), (!col && f 0x14 4 != 0, f 0x14 4, 64, 2), (!col && f 0x18 4 != 0, f 0x18 4, 32, 1),
         (col && f 0x20 4 != 0, f 0x20 4, rows, 1)]
      let fields : List ((BitVec 8 × Word) × Bool) :=
        [((0x0E, va), 0x60000 < va.toNat + 48), ((0x04, va), va.toNat % 16 ≠ 0), ((0x05, va), s.recordsShut va.toNat 48),
         bad 4 (rows = 0 ∨ 256 < rows), bad 6 (cols = 0 ∨ 32 < cols), bad 7 (f 7 1 ≠ 0),
         bad 8 (k = 0 ∨ (if col then rows else min 8 cols) < k), bad 10 (pitch % 4 ≠ 0 ∨ pitch < 4 * cols),
         bad 0x10 (col && f 0x10 4 != 0), bad 0x14 (col && f 0x14 4 != 0), bad 0x18 (col && f 0x18 4 != 0),
         bad 0x1C (col && f 0x1C 4 != 0), bad 0x20 (!col && f 0x20 4 != 0), bad 0x24 (f 0x24 12 ≠ 0)]
      let checks := fields ++ arrays.map (fun (on, b, n, _) => (((0x0E : BitVec 8), BitVec.ofNat 64 b), on && decide (0x60000 < b + n))) ++
        arrays.map (fun (on, b, _, al) => (((0x04 : BitVec 8), BitVec.ofNat 64 b), on && b % al != 0)) ++
        (arrays.zip [0x05, 0x07, 0x07, 0x05, 0x05, 0x07]).map (fun ((on, b, n, _), c) => (((c : BitVec 8), BitVec.ofNat 64 b),
          on && s.recordsShut b n))
      (∀ c v, checks.find? (·.2) = some ((c, v), true) → exec r.1 s = .next (s.raise c v)) ∧
      (checks.find? (·.2) = none → s.sealFull sl = true → exec r.1 s = .next s) ∧
      (checks.find? (·.2) = none → s.sealFull sl = false →
        (4 ≤ s.cnib.select.length → exec r.1 s = .next s.waitMem) ∧
        (s.cnib.select.length < 4 → ∃ t o pol, exec r.1 s = .next t ∧ t.mem = s.mem ∧ t.ops.length = s.ops.length + 1 ∧
          t.ops.getLast? = some o ∧ o.id = s.nextId ∧ o.due = s.cycle + 8 ∧ o.performed = false ∧ o.sl = sl ∧
          o.nib = s.cur.nib ∧ o.cid = s.ctx.cid ∧ o.kind = .select (BitVec.ofNat 384 x) col pol ∧
          pol.val = (if s.deterministic = true ∧ s.ctx.c.rpolicy.toNat % 4 = 2 then 0 else s.ctx.c.rpolicy.toNat % 4) ∧
          t.cnib.select = s.cnib.select ++ [s.nextId] ∧ t.agenda = s.agenda ++ [(s.cycle + 8, .selectService s.cur.nib)] ∧
          Retired s t [(1, .sealPend sl)]))) ∧
  ∀ (s : State) (id : Nat) (o : Op) (k : Fin 8), s.findOp id = some o → o.id = id → s.Resides o.nib o.cid k → ∃ t,
    exec (.selectPost id) s = .next t ∧ Landed s t o k (s.stroke o.nib k).ctx.r

/-- R256, R259, R260: once its oldest request is due, the unit is free and no array meets a block that is filling or draining,
the unit serves it: `selr` writes its records and the fill table, `selc` its records and the cover bytes where it has any, and
nothing else; the service lasts as long as the rule says. That the unit waits for a block is the model's reading of R161 (log
entry 66). -/
def Claims.SelectService : Prop :=
  ∀ (s : State) (n : NibId) (id : Nat) (rest : List Nat) (o : Op) (desc : BitVec 384) (col : Bool) (pol : Fin 4),
    (s.nib n).select = id :: rest → s.findOp id = some o → o.kind = .select desc col pol → Memory.wf s.mem = true →
    let f := descField desc.toNat
    let rows := f 4 2
    let cols := f 6 1
    let k := f 8 2
    let read := fun (o len : Nat) => Memory.read s.mem (wellPA n (f o 4)) len
    let opt := fun (o len : Nat) => if f o 4 = 0 then 0 else read o len
    let inp : SelIn := ⟨rows, cols, k, f 10 2, read 0 ((rows - 1) * f 10 2 + 4 * cols), f 0x14 4 ≠ 0, opt 0x14 64,
      f 0x18 4 ≠ 0, opt 0x18 32, f 0x1C 4, pol.val⟩
    let out := wellPA n (f 12 4)
    let outLen := 8 * k * (if col then cols else rows)
    let side := wellPA n (if col then f 0x20 4 else f 0x10 4)
    let sideLen := if col then (if f 0x20 4 = 0 then 0 else rows) else 256
    let free := ∀ y ∈ selectArrays col desc.toNat, s.blockBusy n y.1 y.2.1 = false
    (s.cycle < o.due → exec (.selectService n) s = .next s) ∧
    (o.due ≤ s.cycle → s.cycle < (s.nib n).selectFree →
      exec (.selectService n) s = .next (s.schedule (s.nib n).selectFree (.selectService n))) ∧
    (o.due ≤ s.cycle → (s.nib n).selectFree ≤ s.cycle → ¬ free →
      exec (.selectService n) s = .next (s.schedule (s.cycle + 1) (.selectService n))) ∧
    (o.due ≤ s.cycle → (s.nib n).selectFree ≤ s.cycle → free → cols ≤ 32 → ∃ t p, exec (.selectService n) s = .next t ∧
      (out + outLen ≤ side ∨ side + sideLen ≤ out →
        Memory.read t.mem out outLen = (if col then inp.selc.1 else (inp.selr (read 0x10 256)).1)) ∧
      Memory.read t.mem side sideLen = (if col then (if f 0x20 4 = 0 then 0 else inp.selc.2) else (inp.selr (read 0x10 256)).2) ∧
      (∀ b, (b < out ∨ out + outLen ≤ b) → (b < side ∨ side + sideLen ≤ b) → Memory.get t.mem b = Memory.get s.mem b) ∧
      t.findOp id = some p ∧ p.performed = true ∧
      p.due = s.cycle + 16 + (if col then cols * (rows + 4) else rows * (cols + 4)) ∧ (t.nib n).select = rest ∧
      (t.nib n).selectFree = p.due ∧ ∀ m j, t.stroke m j = s.stroke m j)

/-- R251, R256, R258, R259: what a selection makes of its inputs. The columns of a row, and the rows of a column, are taken by
score, greater first and ties to the lower index, with -0 below +0 and every NaN lowest. `selr` makes its choices row by row,
each at the fill table that the one before has left and each row with its fallback rank at K: a choice takes its column's home
replica while that bin has room; where it has none, NEXT tries the next ranks, at most two of them, and REPLICA the other
replicas in turn; a choice that takes nothing is dropped. `selc` writes the first K rows of each column and counts how many
columns have chosen each row. -/
def Claims.SelectionResults : Prop :=
  (∀ x y, x < 2 ^ 32 → y < 2 ^ 32 →
    let nan := fun (z : Nat) => 0x7F800000 < z % 2 ^ 31
    let num := fun (z : Nat) => if z < 2 ^ 31 then (z : Int) else -((z % 2 ^ 31 : Nat) : Int)
    (f32Key x < f32Key y ↔ nan x ∧ ¬ nan y ∨ ¬ nan x ∧ ¬ nan y ∧ (num x < num y ∨ x = 2 ^ 31 ∧ y = 0))) ∧
  (∀ (x : SelIn) (r : Nat), (x.rowOrder r).Perm (List.range x.cols) ∧ (x.rowOrder r).Pairwise (fun i j =>
      f32Key (x.score r j) < f32Key (x.score r i) ∨ f32Key (x.score r i) = f32Key (x.score r j) ∧ i < j)) ∧
  (∀ (x : SelIn) (c : Nat), ∃ l : List Nat, x.colRows c = l.take x.k ∧ l.Perm (List.range x.rows) ∧ l.Pairwise (fun i j =>
      f32Key (x.score j c) < f32Key (x.score i c) ∨ f32Key (x.score i c) = f32Key (x.score j c) ∧ i < j)) ∧
  (∀ (x : SelIn) (fill : Nat), x.cols ≤ 32 → ∃ (fills : Nat → Nat) (ranks : Nat → Nat → Nat),
      fills 0 = fill ∧ fills (x.rows * x.k) = (x.selr fill).2 ∧ ∀ r < x.rows, ranks r 0 = x.k ∧ ∀ i < x.k,
        (descField (x.selr fill).1 (8 * (r * x.k + i)) 8, fills (r * x.k + i + 1), ranks r (i + 1)) =
          x.choose (x.rowOrder r) r (fills (r * x.k + i)) (ranks r i) i) ∧
  (∀ (x : SelIn) (o : List Nat) (r fill f i c : Nat), o[i]? = some c →
    let home := fun (c : Nat) => x.task % x.nrep c
    let record := fun (c h : Nat) => c + h * 2 ^ 8 + SelIn.fillAt fill c h * 2 ^ 16 + x.score r c * 2 ^ 32
    let takes := fun (c h g : Nat) => ∃ fill', x.choose o r fill f i = (record c h, fill', g) ∧
      ∀ e < 32, ∀ u < 4, c < 32 → SelIn.fillAt fill' e u =
        if e = c ∧ u = h then min (SelIn.fillAt fill c h + 1) 0xFFFF else SelIn.fillAt fill e u
    let drops := fun (g : Nat) => x.choose o r fill f i = (0xFFFF00FF, fill, g)
    let full := fun (c h : Nat) => x.room fill c h = false
    (∀ c h, x.room fill c h = (!x.hasCap || decide (SelIn.fillAt fill c h < descField x.cap (2 * c) 2))) ∧
    (∀ c, x.nrep c = if x.hasRepl then max 1 (min 4 (descField x.repl c 1)) else 1) ∧
    (x.room fill c (home c) = true → takes c (home c) f) ∧
    (full c (home c) → x.policy ≠ 1 → x.policy ≠ 2 → drops f) ∧
    (full c (home c) → x.policy = 1 →
      (o[f]? = none → drops f) ∧
      (∀ d, o[f]? = some d → x.room fill d (home d) = true → takes d (home d) (f + 1)) ∧
      (∀ d, o[f]? = some d → full d (home d) →
        (o[f + 1]? = none → drops (f + 1)) ∧
        (∀ e, o[f + 1]? = some e → x.room fill e (home e) = true → takes e (home e) (f + 2)) ∧
        (∀ e, o[f + 1]? = some e → full e (home e) → drops (f + 2)))) ∧
    (full c (home c) → x.policy = 2 →
      let rep := fun (j : Nat) => (x.task + j) % x.nrep c
      (∀ j, 1 ≤ j → j < x.nrep c → x.room fill c (rep j) = true → (∀ l, 1 ≤ l → l < j → full c (rep l)) → takes c (rep j) f) ∧
      ((∀ j, 1 ≤ j → j < x.nrep c → full c (rep j)) → drops f))) ∧
  ∀ (x : SelIn), x.cols ≤ 32 → x.rows ≤ 256 → x.k ≤ x.rows →
    (∀ c < x.cols, ∀ i < x.k, ∃ r, (x.colRows c)[i]? = some r ∧
      descField x.selc.1 (8 * (c * x.k + i)) 8 = r + x.score r c * 2 ^ 32) ∧
    ∀ r < x.rows, descField x.selc.2 r 1 = ((List.range x.cols).filter (fun c => (x.colRows c).contains r)).length

/-- R268, R269, R270, R273: `sdecl` checks its descriptor and then fills its slot at t+1 with its status cleared, valid unless
COUNT is 0; `sstat` gives the status of a slot. That a descriptor in the records of an enabled context cache traps LOADACC
after LOADALIGN, and a plane, skip map or step table there STOREACC, STOREACC or LOADACC after every other check, is the
model's reading (log entry 59). -/
def Claims.TensorSlots : Prop :=
  ∀ (s : State) (t : Fin 8) (a d : Fin 32),
    (s.Clear [.g a] [] false →
      let va := s.rg a
      let f := descField (s.wellRead va.toNat 32)
      let count := f 12 4
      let nw := (count + 31) / 32
      let sweeping := (match s.ctx.x.sweep with | some w => w.slot == t | none => false)
      let meets := fun (c : Ctx) (u : Fin 8) => decide (c.cid ≠ s.ctx.cid ∨ u ≠ t) && (c.x.slots[u]).valid &&
        decide (0 < count) && decide (0 < (c.x.slots[u]).count.toNat) &&
        decide (f 0x10 4 < (c.x.slots[u]).serifs.toNat + 4 * (c.x.slots[u]).count.toNat) &&
        decide ((c.x.slots[u]).serifs.toNat < f 0x10 4 + 4 * count)
      let bad := fun (o al n : Nat) => (((0x18 : BitVec 8), va + BitVec.ofNat 64 o),
        decide (f o 4 % al ≠ 0 ∨ 0x60000 < f o 4 + n))
      let checks : List ((BitVec 8 × Word) × Bool) :=
        [((0x18, s.pc), s.inBlock), ((0x0E, va), 0x60000 < va.toNat + 32), ((0x04, va), va.toNat % 32 ≠ 0),
         ((0x05, va), s.recordsShut va.toNat 32), ((0x18, va), sweeping), ((0x18, va + 12), 65536 < count),
         bad 0x10 128 (4 * count), bad 0x14 8 (8 * ((nw + 63) / 64)), bad 0x18 4 256, ((0x18, va + 0x1C), f 0x1C 4 ≠ 0),
         ((0x18, va + 0x10), (s.contexts s.cur.nib).any (fun c => (List.finRange 8).any (meets c))),
         ((0x07, BitVec.ofNat 64 (f 0x10 4)), decide (0 < count) && s.recordsShut (f 0x10 4) (4 * count)),
         ((0x07, BitVec.ofNat 64 (f 0x14 4)), decide (0 < count) && s.recordsShut (f 0x14 4) (8 * ((nw + 63) / 64))),
         ((0x05, BitVec.ofNat 64 (f 0x18 4)), decide (0 < count) && s.recordsShut (f 0x18 4) 256)]
      (∀ c v, checks.find? (·.2) = some ((c, v), true) → exec (.sdecl t a) s = .next (s.raise c v)) ∧
      (checks.find? (·.2) = none → ∃ w slot, exec (.sdecl t a) s = .next w ∧ w.mem = s.mem ∧
        Retired s w [(1, .slot t slot)] ∧ slot.valid = decide (count ≠ 0) ∧ slot.count = BitVec.ofNat 32 count ∧
        slot.ebase = BitVec.ofNat 64 (f 0 8) ∧ slot.estride = BitVec.ofNat 32 (f 8 4) ∧
        slot.serifs = BitVec.ofNat 32 (f 0x10 4) ∧ slot.skip = BitVec.ofNat 32 (f 0x14 4) ∧
        slot.steps = BitVec.ofNat 32 (f 0x18 4) ∧ slot.sweeps = 0 ∧ slot.ovcnt = 0 ∧ slot.overdec = false ∧
        slot.lostSeen = false ∧ slot.running = false)) ∧
    (s.Clear [] [.g d] false → ∃ w : Word, Issues (.sstat d t) s (gWrite 1 d w) ∧
      w.extractLsb' 32 32 = (s.ctx.x.slots[t]).sweeps ∧ w.extractLsb' 16 16 = (s.ctx.x.slots[t]).ovcnt ∧
      w.extractLsb' 4 12 = 0 ∧ w.getLsbD 3 = (s.ctx.x.slots[t]).lostSeen ∧ w.getLsbD 2 = (s.ctx.x.slots[t]).overdec ∧
      w.getLsbD 1 = (s.ctx.x.slots[t]).running ∧ w.getLsbD 0 = (s.ctx.x.slots[t]).valid)

/-- Selection requests, their service and what it writes, and tensor slots. Records hidden from mode T are log entry 59;
waiting for blocks is log entry 66. -/
def Obligations.SelectionAndSlots : Prop :=
  Claims.SelectRequests ∧ Claims.SelectService ∧ Claims.SelectionResults ∧ Claims.TensorSlots

/-- R264 to R267, R274: a landing decrement lowers COUNT and, where it reaches 0 on a waiting serif, wakes it; one of a serif
with COUNT 0 leaves the word alone and is counted on its slot; `swake` wakes a waiting or parked serif. A wake sets the skip
bit of its window; where a sweep has taken that window and not loaded it, the sweep notes the lane (R275). No other byte of
memory changes. That `swake` of a serif in the records of an enabled context cache traps STOREACC in mode T is the model's
reading (log entry 59). -/
def Claims.SerifsWake : Prop :=
  (∀ (s : State) (n src : NibId) (y : BitVec 64) (pa x : Nat), pa = wellPA n y.toNat → x = Memory.read s.mem pa 4 →
    Memory.wf s.mem = true → s.deafTo n (s.nibNumber src) = false → s.planeOf n y.toNat = none →
    y.toNat + 4 ≤ 0x4C000 ∨ (∀ e : Fin 8, (s.nib n).entries[e].valid = false) →
    ∃ t, exec (.landingDecrement n y src) s = .next t ∧
      (∀ b, b < pa ∨ pa + 4 ≤ b → Memory.get t.mem b = Memory.get s.mem b) ∧
      Memory.read t.mem pa 4 = (if serifCount x = 0 then x else if serifCount x = 1 ∧ serifKind x = 1 then x - 2 ^ 16 - 2 ^ 24
        else x - 2 ^ 16)) ∧
  (∀ (s : State) (n src : NibId) (y : BitVec 64) (pa x skip w : Nat) (c : Ctx) (k i : Fin 8), pa = wellPA n y.toNat →
    x = Memory.read s.mem pa 4 → Memory.wf s.mem = true → s.deafTo n (s.nibNumber src) = false →
    s.planeOf n y.toNat = some (c, i) → s.Resides n c.cid k → c.blockSerif i y.toNat = false →
    y.toNat + 4 ≤ 0x4C000 ∨ (∀ e : Fin 8, (s.nib n).entries[e].valid = false) →
    w = (y.toNat - (c.x.slots[i]).serifs.toNat) / 128 → skip = wellPA n ((c.x.slots[i]).skip.toNat + 8 * (w / 64)) →
    skip + 8 ≤ pa ∨ pa + 4 ≤ skip →
    (serifCount x = 0 → ∃ t, exec (.landingDecrement n y src) s = .next t ∧
      (∀ b, Memory.get t.mem b = Memory.get s.mem b) ∧
      (t.stroke n k).ctx.x.slots[i] = ((s.stroke n k).ctx.x.slots[i]).countOver) ∧
    (1 < serifCount x ∨ serifCount x = 1 ∧ serifKind x ≠ 1 → ∃ t, exec (.landingDecrement n y src) s = .next t ∧
      Memory.read t.mem pa 4 = x - 2 ^ 16 ∧ ∀ b, b < pa ∨ pa + 4 ≤ b → Memory.get t.mem b = Memory.get s.mem b) ∧
    (serifCount x = 1 → serifKind x = 1 → ∃ t, exec (.landingDecrement n y src) s = .next t ∧
      Memory.read t.mem pa 4 = x - 2 ^ 16 - 2 ^ 24 ∧
      Memory.read t.mem skip 8 = Memory.read s.mem skip 8 ||| 2 ^ (w % 64) ∧
      ∀ b, b < pa ∨ pa + 4 ≤ b → b < skip ∨ skip + 8 ≤ b → Memory.get t.mem b = Memory.get s.mem b)) ∧
  ∀ (s : State) (i : Fin 8) (a : Fin 32) (e off pa x skip : Nat), s.Clear [.g a] [] false → e = (s.rg a).toNat →
    off = (s.ctx.x.slots[i]).serifs.toNat + 4 * e → pa = wellPA s.cur.nib off → x = Memory.read s.mem pa 4 →
    skip = wellPA s.cur.nib ((s.ctx.x.slots[i]).skip.toNat + 8 * (e / 32 / 64)) →
    ((s.ctx.x.slots[i]).valid = false ∨ (s.ctx.x.slots[i]).count.toNat ≤ e →
      exec (.swake i a) s = .next (s.raise 0x18 (s.rg a))) ∧
    ((s.ctx.x.slots[i]).valid = true → e < (s.ctx.x.slots[i]).count.toNat → s.recordsShut off 4 = true →
      exec (.swake i a) s = .next (s.raise 0x07 (BitVec.ofNat 64 off))) ∧
    ((s.ctx.x.slots[i]).valid = true → e < (s.ctx.x.slots[i]).count.toNat → s.recordsShut off 4 = false →
      s.ctx.blockSerif i off = true → ∃ t, exec (.swake i a) s = .next t ∧ (∀ b, Memory.get t.mem b = Memory.get s.mem b) ∧
        t.ctx.r = s.ctx.r ∧ t.ctx.x.slots = s.ctx.x.slots ∧
        t.ctx.x.sweep = s.ctx.x.sweep.map (fun w => { w with merges := w.merges ++ [.wake off t.lc] })) ∧
    ((s.ctx.x.slots[i]).valid = true → e < (s.ctx.x.slots[i]).count.toNat → s.recordsShut off 4 = false →
      s.ctx.blockSerif i off = false →
      s.planeOf s.cur.nib off = some (s.ctx, i) → Memory.wf s.mem = true → skip + 8 ≤ pa ∨ pa + 4 ≤ skip →
      off + 4 ≤ 0x4C000 ∨ (∀ e : Fin 8, s.cnib.entries[e].valid = false) →
      (serifKind x = 1 ∨ serifKind x = 2 → ∃ t, exec (.swake i a) s = .next t ∧ (s.ctx.takenSerif i off = false → Retired s t []) ∧
        t.ctx.r = s.ctx.r ∧ (s.ctx.takenSerif i off = true → s.hasCid s.cur.nib s.cur.k s.ctx.cid = true →
          (∀ j, j < s.cur.k → s.hasCid s.cur.nib j s.ctx.cid = false) → t.ctx.x = { s.ctx.x with
            sweep := s.ctx.x.sweep.map (fun w => { w with late := w.late ||| BitVec.twoPow 32 (e % 32) }) }) ∧
        Memory.read t.mem pa 4 = x - serifKind x * 2 ^ 24 ∧
        Memory.read t.mem skip 8 = Memory.read s.mem skip 8 ||| 2 ^ (e / 32 % 64) ∧
        ∀ b, b < pa ∨ pa + 4 ≤ b → b < skip ∨ skip + 8 ≤ b → Memory.get t.mem b = Memory.get s.mem b)) ∧
    ((s.ctx.x.slots[i]).valid = true → e < (s.ctx.x.slots[i]).count.toNat → s.recordsShut off 4 = false →
      s.ctx.blockSerif i off = false → Memory.wf s.mem = true →
      off + 4 ≤ 0x4C000 ∨ (∀ e : Fin 8, s.cnib.entries[e].valid = false) →
      (serifKind x = 0 ∨ serifKind x = 3 → ∃ t, exec (.swake i a) s = .next t ∧ Retired s t [] ∧
        ∀ b, Memory.get t.mem b = Memory.get s.mem b))

/-- R271, R272, R275, R276: `sweep` of a valid slot starts a sweep with its cursor before the first window; the brush then
reads a skip word and takes the lowest window beyond the cursor that has its bit set, or passes the word's windows; it loads a
taken window, clearing its bit, unless a wake has reached the window since: then the bit stays, and the woken serif is left to
the next sweep (R275); and with the final read, in its turn, the sweep is over: it posts its seal, counts on its slot, and its
members go on. The brush waits for a block that is filling or draining (R161). That the final read, once every window is
covered, is of the map's last word is the model's choice (log entry 67). -/
def Claims.SweepsTakeWindows : Prop :=
  (∀ (s : State) (i : Fin 8) (sl : Fin 16),
    ((s.ctx.x.slots[i]).valid = false → exec (.sweep i sl) s = .next (s.raise 0x18 (BitVec.ofNat 64 i.val))) ∧
    ((s.ctx.x.slots[i]).valid = true → s.inBlock = true → exec (.sweep i sl) s = .next (s.raise 0x18 s.pc)) ∧
    ((s.ctx.x.slots[i]).valid = true → s.inBlock = false → s.sealFull sl = false → ∃ t w, exec (.sweep i sl) s = .next t ∧
      t.ctx.x = { s.ctx.x with sweep := some w } ∧ w.slot = i ∧ w.sl = sl ∧ w.cursor = 0 ∧ w.stage = .read ∧
      w.notBefore = s.tn + 1 ∧ w.members = [] ∧ w.merges = [] ∧ w.paused = 0 ∧ t.mem = s.mem ∧ t.ctx.r = s.ctx.r ∧
      t.turn.issued = s.turn.issued ++ [s.cur.q] ∧
      t.ctx.inflight = s.ctx.inflight ++ [⟨s.tn + 1, s.tn, s.cur.q, .sealPend sl⟩])) ∧
  ∀ (s : State) (n : NibId) (k : Fin 8) (w : Sweep) (slot : Slot) (word x nw : Nat), (s.stroke n k).ctx.x.sweep = some w →
    w.paused = 0 → w.notBefore ≤ s.tn → slot = (s.stroke n k).ctx.x.slots[w.slot] → nw = (slot.count.toNat + 31) / 32 →
    ((∃ r ∈ w.ranges slot, s.blockBusy n r.1 r.2 = true) → ∀ i ∈ [Instr.brushRead n k, .brushLoad n k, .stepBlockStart n k, .writeBack n k],
      exec i s = .next s) ∧
    ((∀ r ∈ w.ranges slot, s.blockBusy n r.1 r.2 = false) → w.stage = .read → word = min (w.cursor / 64) ((nw - 1) / 64) →
      x = Memory.read s.mem (wellPA n (slot.skip.toNat + 8 * word)) 8 →
      (∀ b < 64, x.testBit b = true → w.cursor ≤ 64 * word + b → 64 * word + b < nw →
        (∀ c < b, x.testBit c = true → 64 * word + c < w.cursor) → ∃ t v, exec (.brushRead n k) s = .next t ∧ t.mem = s.mem ∧
          (t.stroke n k).ctx = { (s.stroke n k).ctx with x := { (s.stroke n k).ctx.x with sweep := some v } } ∧
          v = { w with cursor := 64 * word + b + 1, stage := .load, late := 0, notBefore := s.tn + 1, lc := v.lc }) ∧
      ((∀ b < 64, x.testBit b = true → 64 * word + b < w.cursor ∨ nw ≤ 64 * word + b) →
        (64 * word + 64 < nw → ∃ t v, exec (.brushRead n k) s = .next t ∧
          t.mem = s.mem ∧ (t.stroke n k).ctx = { (s.stroke n k).ctx with x := { (s.stroke n k).ctx.x with sweep := some v } } ∧
          v = { w with cursor := 64 * word + 64, notBefore := s.tn + 1, lc := v.lc }) ∧
        (nw ≤ 64 * word + 64 → ∃ t, exec (.brushRead n k) s = .next t ∧ t.mem = s.mem ∧ (t.stroke n k).ctx.x.sweep = none ∧
          (∀ q : Fin 4, w.members.contains (Seq.ofIdx q) = false → (t.stroke n k).ctx.seqs[q] = (s.stroke n k).ctx.seqs[q]) ∧
          (∀ a, .s ∈ w.members → w.back.lookup .s = some a → (t.stroke n k).ctx.seqs[0].pc = a ∧ (t.stroke n k).ctx.seqs[0].lost = 1) ∧
          (t.stroke n k).ctx.x.slots[w.slot] = { slot with running := false, sweeps := slot.sweeps + 1 } ∧
          { (t.stroke n k).ctx.r with seals := (s.stroke n k).ctx.r.seals } = (s.stroke n k).ctx.r ∧
          (w.sl ≠ 0 → (t.stroke n k).ctx.r.seals[w.sl] = ⟨(s.stroke n k).ctx.r.seals[w.sl].count + 1,
            (s.stroke n k).ctx.r.seals[w.sl].pend - 1, Clk.max (s.stroke n k).ctx.r.seals[w.sl].clk
              (s.engRead n (slot.skip.toNat + 8 * word) 8 w.lc).2.1⟩)))) ∧
    ((∀ r ∈ w.ranges slot, s.blockBusy n r.1 r.2 = false) → w.stage = .load → Memory.wf s.mem = true → ∀ win skip, win = w.cursor - 1 →
      skip = wellPA n (slot.skip.toNat + 8 * (win / 64)) → ∃ t v, exec (.brushLoad n k) s = .next t ∧
        (∀ b < 64, (Memory.read t.mem skip 8).testBit b =
          ((Memory.read s.mem skip 8).testBit b && (b != win % 64 || w.late != 0))) ∧
        (∀ b, b < skip ∨ skip + 8 ≤ b → Memory.get t.mem b = Memory.get s.mem b) ∧
        (t.stroke n k).ctx = { (s.stroke n k).ctx with x := { (s.stroke n k).ctx.x with sweep := some v } } ∧ v.last = 0 ∧
        v.cursor = w.cursor ∧ v.late = 0 ∧
        (∀ j < 32, ∀ y, y = laneOf (BitVec.ofNat 1024
            (Memory.read t.mem (wellPA n (slot.serifs.toNat + 128 * win)) (4 * (realLanes slot win).length))) 4 j →
          laneOf v.snap 4 j = if w.late.getLsbD j then y - serifKind y * 2 ^ 24 + 2 ^ 24 else y) ∧
        ((∃ j ∈ realLanes slot win, serifKind (laneOf v.snap 4 j) = 0) → v.stage = .start) ∧
        ((∀ j ∈ realLanes slot win, serifKind (laneOf v.snap 4 j) ≠ 0) → v.stage = .read))

/-- R272, R273, R274, R276: a step block starts with its element indices, its serifs, its lanes and the addresses in their
registers, and every member at the block's entry. A bad word of the step table ends the sweep as a fault: the skip bit of the
window is set, the seal posts, and S is told of SWEEPFAULT. The write-back stores v15's lanes of the block to their serifs,
once the members' results have landed. When the members go on after such a fault, and when its cause is due, is the model's
choice (log entry 68). -/
def Claims.StepBlocks : Prop :=
  ∀ (s : State) (n : NibId) (k : Fin 8) (w : Sweep) (slot : Slot) (win : Nat), (s.stroke n k).ctx.x.sweep = some w →
    w.paused = 0 → w.notBefore ≤ s.tn → slot = (s.stroke n k).ctx.x.slots[w.slot] → win = w.cursor - 1 →
    (∀ r ∈ w.ranges slot, s.blockBusy n r.1 r.2 = false) →
    (w.stage = .start → s.brushBlocked n k = false → ∀ step, step < 64 →
      (∃ j ∈ awake slot win w.last w.snap, serifStep (laneOf w.snap 4 j) = step) →
      (∀ j ∈ awake slot win w.last w.snap, step ≤ serifStep (laneOf w.snap 4 j)) →
      let mine := fun j => decide (j ∈ awake slot win w.last w.snap ∧ serifStep (laneOf w.snap 4 j) = step)
      let entry := Memory.read s.mem (wellPA n (slot.steps.toNat + 4 * step)) 4
      (entry ≠ 0 → entry % 32 = 0 → ∃ t v, exec (.stepBlockStart n k) s = .next t ∧ t.mem = s.mem ∧
        (t.stroke n k).ctx.x.sweep = some v ∧ v.stage = .run ∧ v.step = step ∧ v.running = w.members ∧
        (∀ j < 32, v.lanes.getLsbD j = mine j) ∧
        (∀ q : Fin 4, w.members.contains (Seq.ofIdx q) = true → (t.stroke n k).ctx.seqs[q].pc = BitVec.ofNat 64 entry ∧
          (t.stroke n k).ctx.seqs[q].ended = false) ∧
        (∀ q : Fin 4, w.members.contains (Seq.ofIdx q) = false → (t.stroke n k).ctx.seqs[q] = (s.stroke n k).ctx.seqs[q]) ∧
        let r := (t.stroke n k).ctx.r
        r.g[28] = BitVec.ofNat 64 (slot.serifs.toNat + 128 * win) ∧
        r.g[29] = slot.ebase + BitVec.ofNat 64 (32 * win * slot.estride.toNat) ∧ r.g[30] = slot.estride.setWidth 64 ∧
        Lanes r.v[14] 4 (fun j => (32 * win + j) % 2 ^ 32) ∧ PredLanes r.p[3] 4 mine ∧
        r.v[15] = BitVec.ofNat 1024 (Memory.read s.mem (wellPA n (slot.serifs.toNat + 128 * win)) (4 * (realLanes slot win).length)) ∧
        (∀ i : Fin 32, i ≠ 28 → i ≠ 29 → i ≠ 30 → r.g[i] = (s.stroke n k).ctx.r.g[i]) ∧
        (∀ i : Fin 32, i ≠ 14 → i ≠ 15 → r.v[i] = (s.stroke n k).ctx.r.v[i]) ∧
        ∀ i : Fin 8, i ≠ 3 → r.p[i] = (s.stroke n k).ctx.r.p[i]) ∧
      (entry = 0 ∨ entry % 32 ≠ 0 → Memory.wf s.mem = true → ∃ t, exec (.stepBlockStart n k) s = .next t ∧
        (t.stroke n k).ctx.x.sweep = none ∧
        (t.stroke n k).ctx.causes.Perm ((s.stroke n k).ctx.causes ++
          [⟨0x18, BitVec.ofNat 64 (slot.steps.toNat + 4 * step), s.cycle, s.cycle + 8⟩]) ∧
        ((s.stroke n k).ctx.causes = [] → (t.stroke n k).ctx.causes =
          [⟨0x18, BitVec.ofNat 64 (slot.steps.toNat + 4 * step), s.cycle, s.cycle + 8⟩]) ∧
        ((t.stroke n k).ctx.x.slots[w.slot]).running = false ∧
        ((t.stroke n k).ctx.x.slots[w.slot]).sweeps = slot.sweeps ∧
        (w.sl ≠ 0 → (t.stroke n k).ctx.r.seals[w.sl].count = (s.stroke n k).ctx.r.seals[w.sl].count + 1) ∧
        let skip := wellPA n (slot.skip.toNat + 8 * (win / 64))
        Memory.read t.mem skip 8 = Memory.read s.mem skip 8 ||| 2 ^ (win % 64) ∧
        ∀ b, b < skip ∨ skip + 8 ≤ b → Memory.get t.mem b = Memory.get s.mem b)) ∧
    (∀ e, w.stage = .writeBack e → Memory.wf s.mem = true → w.merges = [] →
      let r := (s.stroke n k).ctx.r
      let plane := wellPA n (slot.serifs.toNat + 128 * win)
      let skip := wellPA n (slot.skip.toNat + 8 * (win / 64))
      (s.tn ≤ e ∨ s.blockLanding n k w = true ∨ r.pending (.v 15) = true → exec (.writeBack n k) s = .next s) ∧
      (e < s.tn → s.blockLanding n k w = false → r.pending (.v 15) = false → skip + 8 ≤ plane ∨ plane + 128 ≤ skip →
        ∃ t v, exec (.writeBack n k) s = .next t ∧ (t.stroke n k).ctx.x.sweep = some v ∧ v.last = w.step + 1 ∧
          (v.stage = .read ∨ v.stage = .start) ∧ (t.stroke n k).ctx.r = r ∧
          (∀ j < 32, w.lanes.getLsbD j = true → Memory.read t.mem (plane + 4 * j) 4 = laneOf r.v[15] 4 j) ∧
          (∀ j < 32, laneOf v.snap 4 j = if w.lanes.getLsbD j then laneOf r.v[15] 4 j else laneOf w.snap 4 j) ∧
          ∀ b, (∀ j < 32, w.lanes.getLsbD j = true → b < plane + 4 * j ∨ plane + 4 * j + 4 ≤ b) → b < skip ∨ skip + 8 ≤ b →
            Memory.get t.mem b = Memory.get s.mem b))

/-- Serifs wake, sweeps take windows, and step blocks start and write back. Records hidden from mode T are log entry 59; the
final skip-word read is log entry 67; the turn of SWEEPFAULT is log entry 68. -/
def Obligations.SerifsAndSweeps : Prop :=
  Claims.SerifsWake ∧ Claims.SweepsTakeWindows ∧ Claims.StepBlocks

/-- R227, R229, R230: `mcfg` and `mcfgr` write a field of the shadow bank at t+1, and trap where the field number is reserved
or the value out of its range; `mfmt` appends a format word, and traps where a field of it is reserved or the queue is full. -/
def Claims.MatrixConfiguration : Prop :=
  ∀ (s : State) (a : Fin 32) (f : BitVec 12),
    (∀ (i : Instr) (v : BitVec 32), (i = .mcfg f v ∧ s.Clear [] [] false) ∨
        (i = .mcfgr a f ∧ v = (s.rg a).setWidth 32 ∧ s.Clear [.g a] [] false) →
      let range := fun (lo hi : Nat) => lo ≤ v.toNat ∧ v.toNat ≤ hi
      let writes := fun (e : Nat) (ok : Prop) =>
        (ok → ∀ j : Fin 64, j.val = e → Issues i s [(1, .shadow j v)]) ∧ (¬ ok → exec i s = .next (s.raise 0x02 s.wordVal))
      (∀ l < 6, (f.toNat = 16 * l → writes (8 * l) (range 1 65535)) ∧ (f.toNat = 16 * l + 1 → writes (8 * l + 1) True) ∧
        (f.toNat = 16 * l + 2 → writes (8 * l + 2) True) ∧ (f.toNat = 16 * l + 3 → writes (8 * l + 3) True) ∧
        (f.toNat = 16 * l + 4 → writes (8 * l + 4) (range 0 1))) ∧
      (f = 0x100 ∨ f = 0x101 ∨ f = 0x104 ∨ f = 0x105 ∨ f = 0x107 → writes (48 + (f.toNat - 0x100)) True) ∧
      (f = 0x102 ∨ f = 0x10B → writes (48 + (f.toNat - 0x100)) (range 0 65535)) ∧ (f = 0x103 → writes 51 (range 0 1)) ∧
      (f = 0x106 ∨ f = 0x108 → writes (48 + (f.toNat - 0x100)) (range 1 32)) ∧ (f = 0x109 → writes 57 (range 0 7)) ∧
      (f = 0x10A → writes 58 (range 0 2)) ∧
      ((0x60 ≤ f.toNat ∧ f.toNat < 0x100) ∨ 0x10C ≤ f.toNat ∨ (f.toNat < 0x60 ∧ 5 ≤ f.toNat % 16) →
        exec i s = .next (s.raise 0x02 s.wordVal))) ∧
    (s.Clear [.g a] [] false → ∀ w : BitVec 32, w = (s.rg a).setWidth 32 →
      let n := w.toNat
      let bad := 2 ≤ n / 2 ^ 20 % 16 ∨ 3 ≤ n / 2 ^ 16 % 16 ∨ 2 ≤ n / 2 ^ 12 % 4 ∨ 5 ≤ n / 2 ^ 8 % 16 ∨ 10 ≤ n / 2 ^ 4 % 16 ∨
        10 ≤ n % 16
      (bad → exec (.mfmt a) s = .next (s.raise 0x02 (BitVec.ofNat 64 (0x100000000 + n)))) ∧
      (¬ bad → (2 ≤ s.ctx.x.fmt.length → exec (.mfmt a) s = .next (s.raise 0x02 (BitVec.ofNat 64 (0x200000000 + n)))) ∧
        (s.ctx.x.fmt.length < 2 → Issues (.mfmt a) s [(1, .fmtPush w)])))

/-- R228, R235, R237, R238, R239: a matrix command is checked in the order of its rule, waits while the command queue or its
seal is full, and else joins the queue and raises PEND of its seal; `mgo` and `mgrp` take the oldest format word with them. -/
def Claims.MatrixCommands : Prop :=
  ∀ (s : State) (sl : Fin 16) (a b : Fin 32),
    let room := s.cnib.matrix.queue.length < 4
    let enters := fun (i : Instr) (k : MKind) => (¬ room → exec i s = .next s.waitMem) ∧
      (room → s.sealFull sl = true → exec i s = .next s) ∧
      (room → s.sealFull sl = false → ∃ t, exec i s = .next t ∧ Entered s t sl k 0 ∧ Retired s t [(1, .sealPend sl)])
    let withFormat := fun (i : Instr) (k : MKind) (keepBad : Bool) =>
      (s.ctx.x.fmt = [] → exec i s = .next (s.raise 0x12 0)) ∧
      ∀ w r, s.ctx.x.fmt = w :: r →
        let u := s.modCtx (fun c => { c with x := { c.x with fmt := r } })
        let bad := fmtBad w = true ∨ (keepBad = true ∧ w.toNat / 2 ^ 20 % 16 = 1)
        (bad → exec i s = .next (u.raise 0x02 (BitVec.ofNat 64 (0x100000000 + w.toNat)))) ∧
        (¬ bad → (¬ room → exec i s = .next s.waitMem) ∧ (room → s.sealFull sl = true → exec i s = .next s) ∧
          (room → s.sealFull sl = false → ∃ t, exec i s = .next t ∧ Entered s t sl k w ∧ Retired u t [(1, .sealPend sl)]))
    (∀ w c : Fin 4, s.Clear [] [] false →
      let open_ := fun (d : Fin 4) => s.ctx.task.ruled.getLsbD d.val = true ∧ (s.neighbour s.cur.nib d).isSome = true
      let ok := (c = 1 → open_ 3) ∧ (c = 2 → open_ 0) ∧ (w = 1 → open_ 1) ∧ (w = 2 → open_ 2)
      (¬ ok → exec (.mgo sl w c) s = .next (s.raise 0x02 s.wordVal)) ∧ (ok → withFormat (.mgo sl w c) (.mgo c w) false)) ∧
    (s.Clear [.g a, .g b] [] false →
      withFormat (.mgrp sl a b) (.mgrp (s.rg a) ((s.rg b).toNat % 2 ^ 16)) true ∧
      (sl ≠ 0 → ∀ k : Fin 2, enters (.mwld sl a b k) (.mwld k (s.rg a) (s.rg b).toNat)) ∧
      (let va := s.rg b
       (va.toNat % 64 ≠ 0 → exec (.mrd sl a b) s = .next (s.raise 0x06 va)) ∧
       (va.toNat % 64 = 0 → 0x60000 < va.toNat + 4096 → exec (.mrd sl a b) s = .next (s.raise 0x0E va)) ∧
       (va.toNat % 64 = 0 → va.toNat + 4096 ≤ 0x60000 → sl ≠ 0 →
         enters (.mrd sl a b) (.mrd (BitVec.toFin ((s.rg a).setWidth 3)) va)))) ∧
    (s.Clear [.g a] [] false →
      (¬ room → exec (.mzero a) s = .next s.waitMem) ∧
      (room → ∃ t, exec (.mzero a) s = .next t ∧ Entered s t 0 (.mzero (BitVec.toFin ((s.rg a).setWidth 3))) 0 ∧ Retired s t [])) ∧
    (s.Clear [] [] false → Issues .mresume s [(1, .mresume)]) ∧
    (s.Clear [] [.g a] false → ∃ w : Word, Issues (.mstat a) s (gWrite 1 a w) ∧ w.extractLsb' 16 48 = 0 ∧
      w.getLsbD 15 = s.ctx.c.mfault.getLsbD 0 ∧ w.extractLsb' 12 3 = 0 ∧ w.getLsbD 11 = (s.cnib.matrix.banks[1]).valid ∧
      w.getLsbD 10 = (s.cnib.matrix.banks[0]).valid ∧ w.getLsbD 9 = s.cnib.matrix.loading ∧
      (w.getLsbD 8 = true ↔ s.cnib.matrix.array.isSome = true ∨ ∃ d ∈ s.cnib.matrix.draining,
        s.cmdParked d.id = true ∨ (∃ y v, d.kind = .mrd y v) ∧ d.rows ≠ []) ∧ w.extractLsb' 6 2 = 0 ∧
      w.extractLsb' 4 2 = BitVec.ofNat 2 s.ctx.x.fmt.length ∧ w.extractLsb' 0 4 = BitVec.ofNat 4 s.cnib.matrix.queue.length)

/-- R245: `mresume` takes force: the stopped command of its stroke returns to the head of the queue, the commands held behind
it follow, ahead of those issued later, and STOPPED clears. With nothing stopped on the nib it has no effect. -/
def Claims.ResumeTakesForce : Prop :=
  ∀ (s : State) (n : NibId) (k : Fin 8) (l : Landing) (r : List Landing) (m : Matrix) (cid : Nat), m = (s.nib n).matrix →
    (s.stroke n k).ctx.inflight = l :: r → l.due ≤ s.tn → l.eff = .mresume → cid = (s.stroke n k).ctx.cid →
    (∀ c pre post, m.stopped = pre ++ c :: post → c.cid = cid → (∀ x ∈ pre ++ post, x.cid ≠ cid) → ∃ t,
      exec (.resultLanding n k) s = .next t ∧ t.mem = s.mem ∧
      (t.nib n).matrix = { m with queue := c :: m.held.filter (·.cid == cid) ++ m.queue, stopped := pre ++ post
                                  held := m.held.filter (·.cid != cid) } ∧
      (t.stroke n k).ctx = { (s.stroke n k).ctx with inflight := r, c := { (s.stroke n k).ctx.c with
        mfault := (s.stroke n k).ctx.c.mfault &&& ~~~ 1 } } ∧ (s.cycle, .matrixDispatch n) ∈ t.agenda) ∧
    ((∀ c ∈ m.stopped, c.cid ≠ cid) → ∃ t, exec (.resultLanding n k) s = .next t ∧
      t = s.modCtxAt n k (fun c => { c with inflight := r }))

/-- Matrix configuration, commands at issue, and mresume. -/
def Obligations.MatrixIssue : Prop :=
  Claims.MatrixConfiguration ∧ Claims.MatrixCommands ∧ Claims.ResumeTakesForce

/-- R236, R237, R238, R244: an empty queue or a head that is too young dispatches nothing; the head of a stroke with a stopped
command is held; a command that a replayable fault has parked, and an `mrd` with rows left to write, hold the array, so that
no command that needs it is dispatched; `mzero` clears its tile and holds the array for 4 cycles; `mrd` begins to write the 32
rows of its tile and holds the array for 32 cycles; `mwld` takes the loader, and its bank is invalid while it loads. -/
def Claims.MatrixDispatches : Prop :=
  ∀ (s : State) (n : NibId) (m : Matrix), m = (s.nib n).matrix →
    (m.queue = [] → exec (.matrixDispatch n) s = .next s) ∧
    ∀ c r, m.queue = c :: r →
      (s.stopFull n c.cid = true → r = [] → ∃ t, exec (.matrixDispatch n) s = .next t ∧
        (t.nib n).matrix = { m with queue := [], held := m.held ++ [c] } ∧ t.mem = s.mem ∧ t.agenda = s.agenda) ∧
      (s.stopFull n c.cid = false → (∀ b va len, c.kind ≠ .mwld b va len) →
        (∃ d ∈ m.array.toList ++ m.draining, m.array = some d ∨ s.cmdParked d.id = true ∨ (∃ y v, d.kind = .mrd y v) ∧ d.rows ≠ []) →
        exec (.matrixDispatch n) s = .next s) ∧
      (s.stopFull n c.cid = false → m.array = none → m.loader = none →
        (∀ d ∈ m.draining, s.cmdParked d.id = false ∧ ((∃ y v, d.kind = .mrd y v) → d.rows = [])) →
        (s.cycle < c.issue + 16 → ∃ t, exec (.matrixDispatch n) s = .next t ∧
          t = { s with agenda := s.agenda ++ [(c.issue + 16, .matrixDispatch n)] }) ∧
        (c.issue + 16 ≤ s.cycle → c.done = false → c.rows = [] → c.grp.loading = false →
          let now := if (m.arrayEnd + 720719) / 720720 = s.cycle then m.arrayEnd else s.cycle * 720720
          (∀ x, c.kind = .mzero x → ∃ t d, exec (.matrixDispatch n) s = .next t ∧ t.mem = s.mem ∧
            (t.nib n).matrix.tiles[x] = 0 ∧ (∀ y : Fin 8, y ≠ x → (t.nib n).matrix.tiles[y] = m.tiles[y]) ∧
            (t.nib n).matrix.array = some d ∧ d.id = c.id ∧ d.done = true ∧ d.running = true ∧
            (t.nib n).matrix.arrayEnd = now + 4 * 720720 ∧ ∀ j k, t.stroke j k = s.stroke j k) ∧
          (∀ x a, c.kind = .mrd x a → ∃ t d, exec (.matrixDispatch n) s = .next t ∧ t.mem = s.mem ∧
            (t.nib n).matrix.tiles = m.tiles ∧ (t.nib n).matrix.array = some d ∧ d.id = c.id ∧ d.done = true ∧ d.running = true ∧
            (t.nib n).matrix.arrayEnd = now + 32 * 720720 ∧ d.rows.length = 32 ∧ (s.cycle, .matrixRowWrite c.id) ∈ t.agenda ∧
            ∀ i, ∀ y ∈ d.rows[i]?, y.va = a + BitVec.ofNat 64 (128 * i) ∧ y.size = 128 ∧ y.serif = 0 ∧ y.table = false ∧
              y.data = ((m.tiles[x]).extractLsb' (1024 * i) 1024).toNat) ∧
          (∀ b va len, c.kind = .mwld b va len → r = [] → ∃ t e, exec (.matrixDispatch n) s = .next t ∧ t.mem = s.mem ∧
            (t.nib n).matrix = { m with queue := [], loader := some c, banks := m.banks.set b { m.banks[b] with valid := false } } ∧
            t.agenda = s.agenda ++ [(e, .weightLoadComplete n)] ∧ s.cycle < e)))

/-- R221, R223, R225, R231, R242, R244: the next slab of an `mgo` takes its A panel from memory at the address of the nest, or
from its stream, and adds the slab to its tile alone; it holds the array for the slab's time; a panel that it relays goes on
whole. A command whose panel has not arrived waits, and one whose columns reach beyond the bank, or whose bank is invalid,
stops with KIND 6. -/
def Claims.SlabsBegin : Prop :=
  ∀ (s : State) (n : NibId) (c : MCmd) (asrc afwd : Fin 4) (off : Int) (z : Nat), (s.nib n).matrix.array = some c →
    c.running = false → c.grp.loading = false → s.cmdParked c.id = false → c.kind = .mgo asrc afwd → off = c.bOff c.slab →
    z = imgSize c.afmt →
    let bank := (s.nib n).matrix.banks[c.bank]
    let bad := bank.valid = false ∨ off < 0 ∨ (bank.len : Int) < off + c.cols * imgSize c.bfmt
    let begins := fun (t : State) (rows : List (Nat × Nat)) => (t.nib n).matrix.tiles = (s.nib n).matrix.tiles.set c.acc (slabResult s n c rows) ∧
      (t.nib n).matrix.banks = (s.nib n).matrix.banks ∧ t.mem = s.mem ∧ (∀ j k, t.stroke j k = s.stroke j k) ∧
      ∃ d, (t.nib n).matrix.array = some d ∧ d.id = c.id ∧ d.running = true ∧ d.slab = c.slab ∧ d.rows = c.rows ∧
        (t.nib n).matrix.arrayEnd = s.arrayNow n + 32 * stepCycles c.bfmt * 16 * 720720 / s.modu.capk.toNat
    (¬ bad → asrc = 0 → afwd = 0 → ∀ rows d u,
      s.mreads n z 1 (.slabEnd n) ((c.active (c.field 54)).map (fun m => (m, c.aAddr c.slab + BitVec.ofNat 64 (m * z)))) c [] =
        (some (rows, d), u) → ∃ t, exec (.slabEnd n) s = .next t ∧ begins t rows) ∧
    (¬ bad → asrc = 1 → afwd = 0 → ∀ pre x post, (s.nib n).matrix.fromWest = pre ++ (c.stroke, x) :: post →
      (∀ y ∈ pre, y.1 ≠ c.stroke) → ∃ t, exec (.slabEnd n) s = .next t ∧ (t.nib n).matrix.fromWest = pre ++ post ∧
        begins t ((c.active (c.field 54)).map (fun m => (m, x / 2 ^ (8 * z * m) % 2 ^ (8 * z))))) ∧
    (¬ bad → asrc = 2 → afwd = 0 → ∀ pre x post, (s.nib n).matrix.fromNorth = pre ++ (c.stroke, x) :: post →
      (∀ y ∈ pre, y.1 ≠ c.stroke) → ∃ t, exec (.slabEnd n) s = .next t ∧ (t.nib n).matrix.fromNorth = pre ++ post ∧
        begins t ((c.active (c.field 54)).map (fun m => (m, x / 2 ^ (8 * z * m) % 2 ^ (8 * z))))) ∧
    (¬ bad → asrc = 1 → afwd = 1 ∨ afwd = 2 → ∀ pre x post m, (s.nib n).matrix.fromWest = pre ++ (c.stroke, x) :: post →
      (∀ y ∈ pre, y.1 ≠ c.stroke) → s.neighbour n (if afwd = 1 then 1 else 2) = some m → m ≠ n → ∃ t o,
        exec (.slabEnd n) s = .next t ∧ begins t ((c.active (c.field 54)).map (fun m => (m, x / 2 ^ (8 * z * m) % 2 ^ (8 * z)))) ∧
        t.ops = s.ops ++ [o] ∧ o.kind = .panel m (if afwd = 1 then 0 else 1) c.stroke x) ∧
    (¬ bad → asrc = 1 ∨ asrc = 2 →
      (∀ y ∈ (if asrc = 1 then (s.nib n).matrix.fromWest else (s.nib n).matrix.fromNorth), y.1 ≠ c.stroke) →
      exec (.slabEnd n) s = .next s) ∧
    (bad → s.stopFull n c.cid = false → ∀ k, s.Resides n c.cid k → ∃ t, exec (.slabEnd n) s = .next t ∧
      (t.nib n).matrix.array = none ∧ (t.nib n).matrix.tiles = (s.nib n).matrix.tiles ∧ t.mem = s.mem ∧
      (∃ d, (t.nib n).matrix.stopped = (s.nib n).matrix.stopped ++ [d] ∧ d.id = c.id) ∧
      let f := (t.stroke n k).ctx.c.mfault
      f.extractLsb' 55 4 = 6 ∧ f.extractLsb' 51 4 = BitVec.ofNat 4 c.sl.val ∧
      f.extractLsb' 35 16 = BitVec.ofNat 16 (min c.tiles 0xFFFF) ∧ f.extractLsb' 1 34 = 0 ∧ f.getLsbD 0 = true ∧
      (t.stroke n k).ctx.causes.Perm ((s.stroke n k).ctx.causes ++ [⟨0x11, BitVec.ofInt 64 off, s.cycle, s.cycle + 8⟩]))

/-- R231, R232, R233, R236, R238, R247: a slab in progress goes on; an occupation that ends frees the array; a slab of a rerun
is followed by the next. After a slab of an `mgo`, every level that completes in it and has its emit flag set emits, lowest
level first, the active rows to their places, with the events of their epilogue; the next slab begins in the same cycle, the
first of a new output tile after an emit, and after the last slab the array is free. That an emit with `dest` 2 counts no
events of the epilogue is the model's reading (log entry 76). -/
def Claims.SlabsEnd : Prop :=
  ∀ (s : State) (n : NibId) (c : MCmd) (m : Matrix), m = (s.nib n).matrix → m.array = some c → c.running = true →
    (s.cycle * 720720 < m.arrayEnd → exec (.slabEnd n) s = .next s) ∧
    (m.arrayEnd ≤ s.cycle * 720720 →
      let leaves := fun (t : State) => (t.nib n).matrix.array = none ∧ (t.nib n).matrix.tiles = m.tiles ∧ t.mem = s.mem ∧
        (s.cycle, .matrixDispatch n) ∈ t.agenda ∧ ∀ j k, t.stroke j k = s.stroke j k
      ((∃ x, c.kind = .mzero x) ∨ (∃ x a, c.kind = .mrd x a) ∨ (∃ x, c.kind = .topk x) →
        ∃ t, exec (.slabEnd n) s = .next t ∧ leaves t) ∧
      (∀ y z, c.kind = .mgo y z →
        (1 < c.rerun → ∃ t, exec (.slabEnd n) s = .next t ∧ t.mem = s.mem ∧ (∀ j k, t.stroke j k = s.stroke j k) ∧
          (t.nib n).matrix = { m with array := some { c with rerun := c.rerun - 1 }
                                      arrayEnd := s.arrayNow n + 32 * stepCycles c.bfmt * 16 * 720720 / s.modu.capk.toNat }) ∧
        (c.rerun ≤ 1 → c.chk = false →
          let x := c.slab
          let idx := fun (l : Nat) => x / (List.range l).foldl (fun p i => p * c.count i) 1 % c.count l
          let levels := (List.range 6).filter (fun l => c.field (Fin.ofNat 64 (8 * l + 4)) == 1 &&
            (List.range (l + 1)).all (fun i => idx i + 1 == c.count i))
          let place := fun (l : Nat) => BitVec.ofInt 64
            (((List.range 6).filter (fun i => decide (l < i))).foldl (fun a i => a + idx i * c.str i 3) c.cbase)
          let images := if c.field 58 = 2 then [] else
            levels.flatMap (fun l => (c.active (c.field 54)).map (fun j => (l, j, emitRow c m.tiles[c.acc] j)))
          let rows : List MRow := images.map (fun (l, j, y, size, al, _) =>
            ⟨place l + BitVec.ofNat 64 (if c.field 58 = 0 then j * c.field 59 else 16 * j), c.field 58 == 1, y, size, al, 0, none, 0⟩)
          let after := fun (d : MCmd) => d.id = c.id ∧ d.slab = x + 1 ∧ d.rows = c.rows ++ rows ∧ d.running = false ∧
            d.newTile = (c.newTile || !levels.isEmpty) ∧ d.tiles = (if levels.isEmpty then c.tiles else c.tiles + 1) ∧
            d.ev = images.foldl (fun e y => e ||| y.2.2.2.2.2) c.ev
          (x + 1 < c.total → c.field 58 ≤ 2 → ∃ u d, exec (.slabEnd n) s = exec (.slabEnd n) u ∧
            (u.nib n).matrix = { m with array := some d } ∧ after d ∧ u.mem = s.mem ∧
            u.agenda = s.agenda ++ (if c.rows = [] ∧ rows ≠ [] then [(s.cycle + 1, .matrixRowWrite c.id)] else []) ∧
            ∀ j k, u.stroke j k = s.stroke j k) ∧
          (x + 1 = c.total → c.field 58 ≤ 2 → ∃ t, exec (.slabEnd n) s = .next t ∧ leaves t ∧
            (c.rows = [] → rows ≠ [] → (s.cycle + 1, .matrixRowWrite c.id) ∈ t.agenda) ∧
            (c.rows ++ rows ≠ [] → c.posted = false → (∀ d ∈ m.draining, d.id ≠ c.id) → ∃ d,
              (t.nib n).matrix.draining = m.draining ++ [d] ∧ d.done = true ∧ after d)))))

/-- Dispatch of matrix commands, and slabs. That a slab takes its operands and its clock ratio when it begins is log entry 54;
the cause that stops a command with KIND 6 is free, log entry 23; events of an emit with DEST 2 are log entry 76; that the
array is free from the cycle of a stop on is log entry 45. -/
def Obligations.MatrixRuns : Prop :=
  Claims.MatrixDispatches ∧ Claims.SlabsBegin ∧ Claims.SlabsEnd

/-- R232, R233: the row image of an emit. Each element is scaled and rounded, passes ACT, and is converted to OUT; FP32, BF16
and E4M3 elements lie back to back, BFP8 and BFP4 rows are one block of R78, columns past N as +0, with their exponent after
the planes. The events are those of the epilogue and of the conversion. -/
def Claims.EpilogueRows : Prop :=
  ∀ (c : MCmd) (t : BitVec 32768) (m : Nat), m < 32 → c.cols ≤ 32 →
    let scaled := fun (j : Nat) => fmt32.round c.rtz false (match fmt32.value (t.extractLsb' (1024 * m + 32 * j) 32).toNat with
      | .fin s y e => .fin s y (e + c.scale)
      | v => v)
    let v := fun (j : Nat) =>
      if c.act = 1 then (if fmt32.value (scaled j).1 = .nan ∨ Fv.lt (.fin false 0 0) (fmt32.value (scaled j).1) = true then (scaled j).1 else 0)
      else if c.act = 2 then (exp2B (scaled j).1).1 else (scaled j).1
    let evs := (List.range c.cols).foldl (fun (a : Ev) j =>
      a ||| (scaled j).2 ||| (if c.act = 2 then (exp2B (scaled j).1).2 else 0)) 0
    let packed := fun (bits : Nat) (y : Nat → Nat) => (List.range c.cols).foldl (fun a j => a + y j * 2 ^ (bits * j)) 0
    let conv := fun (f : Fmt) (j : Nat) => f.round c.rtz c.sat (fmt32.value (v j))
    let convEvs := fun (f : Fmt) => (List.range c.cols).foldl (fun (a : Ev) j => a ||| (conv f j).2) evs
    let block := fun (w : Nat) => bfpPack w c.rtz ((List.range 32).map (fun j => if j < c.cols then fmt32.value (v j) else .fin false 0 0))
    let blockRow := fun (w : Nat) =>
      emitRow c t m = ((block w).1 + (block w).2.1 * 2 ^ (32 * w), 4 * w + 4, 4, evs ||| (block w).2.2)
    (c.out = 0 → emitRow c t m = (packed 32 v, 4 * c.cols, 4, evs)) ∧
    (c.out = 1 → emitRow c t m = (packed 16 (fun j => (conv fmt16 j).1), 2 * c.cols, 2, convEvs fmt16)) ∧
    (c.out = 2 → emitRow c t m = (packed 8 (fun j => (conv fmtE4 j).1), c.cols, 1, convEvs fmtE4)) ∧
    (c.out = 3 → blockRow 8) ∧ (c.out = 4 → blockRow 4)

/-- R224: what a weight image decodes to. Its header must hold the values of the table; raw data is the stream; a zero-elided
stream decodes exactly where it is the granules' encodings back to back, each a mask of the bytes that are not zero and then
those bytes, in ENCLEN bytes for RAWLEN: then to those granules. -/
def Claims.WeightImagesDecode : Prop :=
  (∀ h mode raw enc : Nat,
    let f := fun (o n : Nat) => h / 2 ^ (8 * o) % 2 ^ (8 * n)
    weightHeader h = some (mode, raw, enc) ↔ f 0 1 = 1 ∧ mode = f 1 1 ∧ mode ≤ 1 ∧ f 2 2 = 0 ∧ raw = f 4 4 ∧ 32 ∣ raw ∧ 32 ≤ raw ∧
      raw ≤ 65536 ∧ enc = f 8 4 ∧ 16 + enc ≤ 32768 ∧ (mode = 0 → enc = raw) ∧ f 12 4 = 0) ∧
  (∀ raw enc x : Nat, decodeImage 0 raw enc x = some x) ∧
  ∀ k n x y : Nat,
    let byte := fun (g i : Nat) => g / 2 ^ (8 * i) % 256
    let nonzero := fun (g : Nat) => (List.range 32).filter (fun i => byte g i != 0)
    let size := fun (g : Nat) => 4 + (nonzero g).length
    let coded := fun (g : Nat) => (nonzero g).foldl (fun a i => a + 2 ^ i) 0 + 2 ^ 32 * (nonzero g).foldr (fun i a => byte g i + 256 * a) 0
    x < 2 ^ (8 * n) →
      (decodeImage 1 (32 * k) n x = some y ↔ ∃ gs : List Nat, gs.length = k ∧ (∀ g ∈ gs, g < 2 ^ 256) ∧
        n = (gs.map size).sum ∧ x = gs.foldr (fun g a => coded g + 2 ^ (8 * size g) * a) 0 ∧ y = gs.foldr (fun g a => g + 2 ^ 256 * a) 0)

/-- R237, R224, R244: the image that a command loads: its 16 bytes of header and its ENCLEN bytes of data are read in their
order; a header that is not well formed, a length that is not g[b], or data that does not decode stops the command with KIND 5
and the cause of an illegal value, at the image's VA. -/
def Claims.WeightImagesAreRead : Prop :=
  ∀ (s u : State) (n : NibId) (c d : MCmd) (va : Word) (want : Option Nat) (h : Nat) (again : Instr),
    s.mread n c va 16 5 again = (some (h, d), u) →
    let bad := fun (w : State) => s.readImage n c va want again = (none, w.matrixStop n d 5 0x02 va again)
    (weightHeader h = none → bad u) ∧
    ∀ mode raw enc, weightHeader h = some (mode, raw, enc) →
      ((∃ l, want = some l ∧ l ≠ 16 + enc) → bad u) ∧
      ((∀ l, want = some l → l = 16 + enc) → ∀ x e w, u.mread n d (va + 16) enc 5 again = (some (x, e), w) →
        (decodeImage mode raw enc x = none → s.readImage n c va want again = (none, w.matrixStop n e 5 0x02 va again)) ∧
        ∀ y, decodeImage mode raw enc x = some y → s.readImage n c va want again = (some (raw, y, e), w))

/-- R233, R188: the bytes of an engine's access: a checked read brings the bytes of its pieces, each at its place, and changes
no byte of memory; a write leaves at the places of its pieces the bytes of its data, and no other byte changed. -/
def Claims.EngineBytes : Prop :=
  ∀ (s : State) (rs : List Range) (lc : Clk), (∀ r ∈ rs, 0 < r.size) →
    (rs.Pairwise (fun a b => a.at_ + a.size ≤ b.at_)) →
    (∀ n : NibId, ∃ x t u, s.engLoad n rs lc 0 = (x, t, u) ∧ u.mem = s.mem ∧ u.nibs = s.nibs ∧
      ∀ r ∈ rs, ∀ j < r.size, x / 2 ^ (8 * (r.at_ + j)) % 256 = (Memory.get s.mem (r.pa + j)).toNat) ∧
    (Memory.wf s.mem = true → (rs.Pairwise (fun a b => a.pa + a.size ≤ b.pa ∨ b.pa + b.size ≤ a.pa)) →
      ∀ x : Nat, ∃ t u, s.engStore x rs lc = (t, u) ∧ u.nibs = s.nibs ∧
      (∀ r ∈ rs, ∀ j < r.size, (Memory.get u.mem (r.pa + j)).toNat = x / 2 ^ (8 * (r.at_ + j)) % 256) ∧
      ∀ b, (∀ r ∈ rs, b < r.pa ∨ r.pa + r.size ≤ b) → Memory.get u.mem b = Memory.get s.mem b)

/-- R240, R262: pass 1 of a grouped run. The next entry is read: reserved bits stop the command with KIND 4 at the entry's VA;
an entry of no rows is passed over; one whose expert is not resident here is noted; a resident one runs at once, and where its
weights are in memory its bank begins to load. After pass 1, with nothing noted, the command leaves the array. -/
def Claims.GroupsArePicked : Prop :=
  ∀ (s : State) (n : NibId) (c : MCmd) (list : Word) (total : Nat), (s.nib n).matrix.array = some c → c.running = false →
    c.kind = .mgrp list total → c.grp.cur = none → c.grp.loading = false → s.cmdParked c.id = false → s.stopFull n c.cid = false →
    (c.grp.at_ = total → c.grp.noted = [] → ∃ t, exec (.slabEnd n) s = .next t ∧ t.mem = s.mem ∧
      (t.nib n).matrix.array = none ∧ (t.nib n).matrix.tiles = (s.nib n).matrix.tiles ∧ (s.cycle, .matrixDispatch n) ∈ t.agenda) ∧
    ∀ (x : Nat) (d : MCmd) (u : State) (va : Word), c.grp.at_ < total → va = list + BitVec.ofNat 64 (32 * c.grp.at_) →
      s.mread n c va 32 4 (.slabEnd n) = (some (x, d), u) →
      let f := fun (o k : Nat) => x / 2 ^ (8 * o) % 2 ^ (8 * k)
      let reserved := 16 ≤ f 4 1 ∨ 2 ≤ f 5 1 ∨ (f 5 1 = 0 ∧ 2 ≤ f 0x18 8)
      let expert := f 0 2
      let p := s.parts[s.partOf n]
      let pa := p.ertFrame.toNat * 0x10000 + 32 * expert
      let entry := Memory.read s.mem pa 32
      let resident := entry % 256 = 1 ∧ 1 ≤ entry / 2 ^ 8 % 256 ∧ entry / 2 ^ 8 % 256 ≤ 4 ∧
        ∃ h < entry / 2 ^ 8 % 256, entry / 2 ^ (8 * (8 + 4 * h)) % 2 ^ 32 = (s.nibNumber n).toNat
      let group : Group := ⟨va, expert, f 2 2, Fin.ofNat 16 (f 4 1), f 5 1 == 1, BitVec.ofNat 16 (f 6 2), BitVec.ofNat 64 (f 8 8),
        BitVec.ofNat 64 (f 0x10 8), BitVec.ofNat 64 (f 0x18 8)⟩
      (reserved → ∀ k, s.Resides n c.cid k → ∃ t, exec (.slabEnd n) s = .next t ∧ (t.nib n).matrix.array = none ∧ t.mem = s.mem ∧
        (∃ e, (t.nib n).matrix.stopped = (s.nib n).matrix.stopped ++ [e] ∧ e.id = c.id) ∧
        let m := (t.stroke n k).ctx.c.mfault
        m.extractLsb' 59 5 = 0x02 ∧ m.extractLsb' 55 4 = 4 ∧ m.getLsbD 0 = true ∧
        (t.stroke n k).ctx.causes.Perm ((s.stroke n k).ctx.causes ++ [⟨0x11, va, s.cycle, s.cycle + 8⟩])) ∧
      (¬ reserved → f 2 2 = 0 → exec (.slabEnd n) s =
        exec (.slabEnd n) (u.putArray n { d with grp := { d.grp with at_ := d.grp.at_ + 1 } })) ∧
      (¬ reserved → f 2 2 ≠ 0 → p.nexp.toNat ≤ expert → exec (.slabEnd n) s =
        exec (.slabEnd n) (u.putArray n { d with grp := { d.grp with at_ := d.grp.at_ + 1, noted := d.grp.noted ++ [group] } })) ∧
      (¬ reserved → f 2 2 ≠ 0 → expert < p.nexp.toNat →
        let priv := (s.engFor n c.cid).2
        u.refusedOf n priv false pa = false → u.goneHome pa = false → ∀ tw w, u.readStamp pa d.lc 0 = (tw, w) →
        let e := { d with lc := tw, tmax := Clk.max d.tmax tw, grp := { d.grp with at_ := d.grp.at_ + 1 } }
        (¬ resident → exec (.slabEnd n) s =
          exec (.slabEnd n) (w.putArray n { e with grp := { e.grp with noted := e.grp.noted ++ [group] } })) ∧
        (resident → exec (.slabEnd n) s = exec (.slabEnd n) (w.putArray n { e with grp := { e.grp with cur := some group } })))

/-- R241: a group that runs. At the first slab of a tile its active rows' gather and output entries are read; slab j of output
tile q takes the A images at GATHER + j × astr0, and the B panel at bbase + j × bstr0 + q × bstr1, adds them to its tile and
holds the array for the slab's time. -/
def Claims.GroupSlabsBegin : Prop :=
  (∀ (s : State) (n : NibId) (c : MCmd) (list : Word) (total : Nat) (g : Group) (b : Fin 2) (off : Int), (s.nib n).matrix.array = some c →
    c.running = false → c.kind = .mgrp list total → c.grp.cur = some g → c.grp.loading = false → s.cmdParked c.id = false →
    (g.wmem = true → c.grp.loaded = true ∧ b = c.grp.bank) → (g.wmem = false → b = Fin.ofNat 2 g.weight.toNat) →
    off = c.field 50 + c.grp.j * c.str 0 2 + c.grp.q * c.str 1 2 →
    let bank := (s.nib n).matrix.banks[b]
    bank.valid = true → 0 ≤ off → off + c.cols * imgSize c.bfmt ≤ bank.len →
    let z := imgSize c.afmt
    let begins := fun (rows : List GRow) (a : List (Nat × Nat)) => ∃ t d, exec (.slabEnd n) s = .next t ∧ t.mem = s.mem ∧
      (t.nib n).matrix.tiles = (s.nib n).matrix.tiles.set c.acc
        (slabTile c.afmt c.bfmt (if c.newTile = true ∧ c.keep = false then 0 else (s.nib n).matrix.tiles[c.acc]) a
          ((List.range c.cols).map (fun i => bank.data / 2 ^ (8 * (off.toNat + i * imgSize c.bfmt)) % 2 ^ (8 * imgSize c.bfmt)))).1 ∧
      (∀ j k, t.stroke j k = s.stroke j k) ∧ (t.nib n).matrix.array = some d ∧ d.id = c.id ∧ d.running = true ∧ d.grp.rows = rows ∧
      d.grp.cur = some g ∧ d.grp.j = c.grp.j ∧ d.grp.q = c.grp.q ∧ d.grp.tile = c.grp.tile ∧
      (t.nib n).matrix.arrayEnd = s.arrayNow n + 32 * stepCycles c.bfmt * 16 * 720720 / s.modu.capk.toNat
    let images := fun (rows : List GRow) => rows.map (fun r => (r.row, r.gather + BitVec.ofInt 64 (c.grp.j * c.str 0 1)))
    (¬ (c.grp.j = 0 ∧ c.grp.q = 0) → ∀ a d u,
      s.mreads n z 1 (.slabEnd n) (images c.grp.rows) { c with grp := { c.grp with bank := b } } [] = (some (a, d), u) → begins c.grp.rows a) ∧
    (c.grp.j = 0 → c.grp.q = 0 → ∀ rows d u a e v,
      s.readRows n g (c.active (min 32 (g.rows - 32 * c.grp.tile))) { c with grp := { c.grp with bank := b } } [] = (some (rows, d), u) →
      u.mreads n z 1 (.slabEnd n) (images rows) { d with grp := { d.grp with rows := rows } } [] = (some (a, e), v) → begins rows a)) ∧
  ∀ (s : State) (n : NibId) (g : Group) (m : Nat) (r : List Nat) (c : MCmd) (acc : List GRow),
    s.readRows n g [] c acc = (some (acc.reverse, c), s) ∧
    ∀ a d u o e v, s.mread n c (g.gather + BitVec.ofNat 64 (8 * (32 * c.grp.tile + m))) 8 4 (.slabEnd n) = (some (a, d), u) →
      u.mread n d (g.outTab + BitVec.ofNat 64 (16 * (32 * c.grp.tile + m))) 16 4 (.slabEnd n) = (some (o, e), v) →
      s.readRows n g (m :: r) c acc = v.readRows n g r e (⟨m, BitVec.ofNat 64 a, BitVec.ofNat 64 o, BitVec.ofNat 64 (o / 2 ^ 64)⟩ :: acc)

/-- R241: what follows a slab of a group: the next slab of its output tile; after the last, the rows of the tile are emitted
to their output entries advanced by q × cstr1, an entry of VA 0 not, with the events of every active row; then come the next
output tile, the next tile of rows, or the next group. -/
def Claims.GroupSlabsEnd : Prop :=
  ∀ (s : State) (n : NibId) (c : MCmd) (list : Word) (total : Nat) (g : Group) (m : Matrix), m = (s.nib n).matrix → m.array = some c →
    c.running = true → m.arrayEnd ≤ s.cycle * 720720 → c.kind = .mgrp list total → c.grp.cur = some g → c.rerun ≤ 1 → c.chk = false →
    ∃ u d, exec (.slabEnd n) s = exec (.slabEnd n) u ∧ u.mem = s.mem ∧ (∀ j k, u.stroke j k = s.stroke j k) ∧
      (u.nib n).matrix = { m with array := some d } ∧ d.id = c.id ∧ d.running = false ∧
      (c.grp.j + 1 < c.count 0 → u.agenda = s.agenda ∧ d.grp = { c.grp with j := c.grp.j + 1 } ∧ d.rows = c.rows ∧ d.ev = c.ev ∧
        d.newTile = c.newTile ∧ d.tiles = c.tiles) ∧
      (c.grp.j + 1 = c.count 0 →
        let images := c.grp.rows.map (fun r => (r, emitRow c m.tiles[c.acc] r.row))
        let rows : List MRow := (images.filter (fun x => x.1.out != 0)).map (fun (r, y, size, al, _) =>
          ⟨r.out + BitVec.ofInt 64 (c.grp.q * c.str 1 3), false, y, size, al, r.serif, none, 0⟩)
        u.agenda = s.agenda ++ (if c.rows = [] ∧ rows ≠ [] then [(s.cycle + 1, .matrixRowWrite c.id)] else []) ∧
        d.rows = c.rows ++ rows ∧ d.ev = images.foldl (fun e x => e ||| x.2.2.2.2) c.ev ∧ d.newTile = true ∧ d.tiles = c.tiles + 1 ∧
        (c.grp.q + 1 < c.count 1 → d.grp = { c.grp with j := 0, q := c.grp.q + 1 }) ∧
        (c.count 1 ≤ c.grp.q + 1 → 32 * (c.grp.tile + 1) < g.rows → d.grp = { c.grp with j := 0, q := 0, tile := c.grp.tile + 1 }) ∧
        (c.count 1 ≤ c.grp.q + 1 → g.rows ≤ 32 * (c.grp.tile + 1) → d.grp.cur = none ∧ d.grp.loaded = false ∧ d.grp.tile = 0 ∧
          d.grp.q = 0 ∧ d.grp.j = 0 ∧ d.grp.at_ = c.grp.at_ ∧ d.grp.noted = c.grp.noted ∧
          d.grp.loads = c.grp.loads + (if g.wmem = true then 1 else 0)))

/-- R240, R242: a grouped run that waits for a fill seal goes on waiting until its count reaches the threshold; a panel that
arrives joins the stream of its direction, behind those that arrived before it. -/
def Claims.MatrixWaits : Prop :=
  (∀ (s : State) (n : NibId) (c : MCmd) (list : Word) (total : Nat) (g : Group) (r : List Group) (k : Fin 8),
    (s.nib n).matrix.array = some c → c.running = false → c.kind = .mgrp list total → c.grp.cur = none → c.grp.loading = false →
    s.cmdParked c.id = false → c.grp.at_ = total → c.grp.noted = g :: r → s.Resides n c.cid k → g.fseal ≠ 0 →
    let count := ((s.stroke n k).ctx.r.seals[g.fseal]).count
    (count - g.fthr).msb = true → ∃ t, exec (.groupFillWait n) s = .next t ∧
      t = { s.putArray n c with agenda := s.agenda ++ [(s.cycle + 1, .groupFillWait n)] }) ∧
  (∀ (s : State) (n : NibId) (c : MCmd) (list : Word) (total : Nat) (g : Group) (r : List Group),
    (s.nib n).matrix.array = some c → c.running = false → c.kind = .mgrp list total → c.grp.cur = none → c.grp.loading = false →
    s.cmdParked c.id = false → c.grp.at_ = total → c.grp.noted = g :: r → s.filled n c g = true → g.wmem = true →
    c.grp.loaded = false → ∃ t d e, exec (.groupFillWait n) s = .next t ∧ t.mem = s.mem ∧ (t.nib n).matrix.array = some d ∧
      d.grp.cur = some g ∧ d.grp.noted = r ∧ d.grp.loading = true ∧ d.grp.bank.val = c.grp.loads % 2 ∧
      ((t.nib n).matrix.banks[d.grp.bank]).valid = false ∧ t.agenda = s.agenda ++ [(e, .weightLoadComplete n)] ∧ s.cycle < e) ∧
  ∀ (s : State) (n : NibId) (dir : Fin 4) (x : Nat) (pre post : List Op) (o : Op) (k : Fin 8) (y : Nat),
    s.ops = pre ++ o :: post → o.kind = .panel n dir k y → (∀ p ∈ pre, ∀ j z, p.kind ≠ .panel n dir j z) →
    (s.nib n).matrix.array = none → ∃ t, exec (.chainPanelArrival n dir x) s = .next t ∧ t.mem = s.mem ∧
      t.ops = s.ops.filter (·.id != o.id) ∧ (dir = 0 → (t.nib n).matrix = { (s.nib n).matrix with
        fromWest := (s.nib n).matrix.fromWest ++ [(k, y)] }) ∧
      (dir ≠ 0 → (t.nib n).matrix = { (s.nib n).matrix with fromNorth := (s.nib n).matrix.fromNorth ++ [(k, y)] })

/-- R233, R234, R236, R237, R245: a row of an emit is written where its checked place lies, at once in the nib's own well, and
nowhere else; a loaded weight image makes its bank valid; a command's seal posts with its largest time and its events; and an
abandoned command ends without further access, STOPPED clearing and its held commands returning ahead of the queue. -/
def Claims.MatrixRowsAndPosts : Prop :=
  (∀ (s : State) (id : Nat) (n : NibId) (c : MCmd) (r : MRow) (rest : List MRow) (rs : List Range), s.cmdNib id = some n →
    (s.nib n).matrix.findCmd id = some c → c.id = id → s.cmdParked id = false → c.rows = r :: rest → rest ≠ [] → r.table = false →
    r.sent = none → r.serif = 0 → Memory.wf s.mem = true →
    s.engCheck n (s.engFor n c.cid).1 (s.engFor n c.cid).2 r.va r.size r.align true = .ok rs →
    State.ownPieces n rs = true → ∃ t d, exec (.matrixRowWrite id) s = .next t ∧
      t.mem = (s.engStore r.data rs c.lc).2.mem ∧
      (∀ b, (∀ q ∈ rs, b < q.pa ∨ q.pa + q.size ≤ b) → Memory.get t.mem b = Memory.get s.mem b) ∧
      (t.nib n).matrix.findCmd id = some d ∧ d.rows = rest ∧ t.agenda = s.agenda ++ [(s.cycle + 1, .matrixRowWrite id)] ∧
      ∀ j k, t.stroke j k = s.stroke j k) ∧
  (∀ (s : State) (n : NibId) (c d : MCmd) (b : Fin 2) (va : Word) (len raw x : Nat) (u : State),
    (s.nib n).matrix.loader = some c → c.kind = .mwld b va len → s.cmdParked c.id = false →
    s.readImage n c va (some len) (.weightLoadComplete n) = (some (raw, x, d), u) →
    ∃ t, exec (.weightLoadComplete n) s = .next t ∧ t.mem = s.mem ∧ (t.nib n).matrix.banks = (s.nib n).matrix.banks.set b ⟨true, raw, x⟩ ∧
      (t.nib n).matrix.loader = none ∧ (s.cycle, .matrixDispatch n) ∈ t.agenda ∧ (t.nib n).matrix.tiles = (s.nib n).matrix.tiles) ∧
  (∀ (s : State) (id : Nat) (o : Op) (ev : BitVec 8) (k : Fin 8), s.findOp id = some o → o.id = id → o.kind = .matrixPost ev →
    s.Resides o.nib o.cid k → ∃ t, exec (.matrixPost id) s = .next t ∧ Landed s t o k (s.stroke o.nib k).ctx.r ∧
      (t.stroke o.nib k).ctx.c = { (s.stroke o.nib k).ctx.c with fpev := fpevAdd (s.stroke o.nib k).ctx.c.fpev ev }) ∧
  ∀ (s : State) (n : NibId) (k : Fin 8) (c : MCmd) (m : Matrix), m = (s.nib n).matrix → m.stopped = [c] →
    c.cid = (s.stroke n k).ctx.cid → m.draining = [] → m.array = none →
    ((s.stroke n k).ctx.c.mfault.getLsbD 0 = true → ∃ t, exec (.mfaultAbort n k) s = .next t ∧ t.mem = s.mem ∧
      (t.nib n).matrix.stopped = [] ∧ (t.nib n).matrix.queue = m.held.filter (·.cid == c.cid) ++ m.queue ∧
      (t.nib n).matrix.held = m.held.filter (·.cid != c.cid) ∧ (t.nib n).matrix.tiles = m.tiles ∧
      (t.stroke n k).ctx.c = { (s.stroke n k).ctx.c with mfault := (s.stroke n k).ctx.c.mfault &&& ~~~ 1 } ∧
      (t.stroke n k).ctx.r = (s.stroke n k).ctx.r ∧ (s.cycle, .matrixDispatch n) ∈ t.agenda ∧
      (c.sl ≠ 0 → c.posted = false → s.cmdBusy c.id = false → ∃ o, t.ops = s.ops ++ [o] ∧ o.sl = c.sl ∧ o.cid = c.cid ∧
        o.kind = .matrixPost c.ev ∧ o.tmax = c.tmax))

/-- Row images, weight images, the passes of grouped runs, rows of an emit, posts, and abandoned commands. The order of chain
panels per stroke is log entry 54. -/
def Obligations.MatrixRowsWaitsAndPosts : Prop :=
  Claims.EpilogueRows ∧ Claims.WeightImagesDecode ∧ Claims.WeightImagesAreRead ∧ Claims.EngineBytes ∧ Claims.GroupsArePicked ∧ Claims.GroupSlabsBegin ∧ Claims.GroupSlabsEnd ∧ Claims.MatrixWaits ∧ Claims.MatrixRowsAndPosts

/-- R279, R280, R282 to R284: when the fields of a copy descriptor pass order 4 of the checks, for `cpy`, `cpy.topk` and
`cpy.pack`; and the addresses of row i. -/
def Claims.CopyDescriptors : Prop :=
  ∀ d : BitVec 512,
    let f := descNat d
    let opt := f 0x30 4
    (copyBad 0 d = none ↔ 1 ≤ f 0x10 4 ∧ f 0x10 4 ≤ 16777215 ∧ f 0x14 2 ≠ 0 ∧ f 0x16 2 ≠ 0 ∧ opt / 256 = 0 ∧ opt / 4 % 4 = 0 ∧
      opt % 4 ≠ 3 ∧ (opt % 4 = 0 → opt / 16 % 16 = 0)) ∧
    (copyBad 1 d = none ↔ f 0 8 < 8 ∧ f 0x10 4 = 0 ∧ 1 ≤ f 0x14 2 ∧ f 0x14 2 ≤ 32 ∧ f 0x16 2 = 0 ∧ f 0x18 4 = 0 ∧ f 0x1C 4 = 0 ∧
      f 0x24 4 = 0 ∧ opt / 1024 = 0 ∧ 1 ≤ opt % 16 ∧ opt % 16 ≤ 8 ∧ opt / 16 % 64 ≤ 32 ∧ opt % 16 ≤ opt / 16 % 64) ∧
    (copyBad 2 d = none ↔ 1 ≤ f 0x10 4 ∧ f 0x10 4 ≤ 16777215 ∧ f 0x10 4 % (if opt = 1 then 2 else 4) = 0 ∧ f 0x14 2 ≠ 0 ∧
      f 0x16 2 ≠ 0 ∧ opt < 2) ∧
    ∀ y z, y < f 0x14 2 →
      copySrc d (z * f 0x14 2 + y) = BitVec.ofInt 64 ((f 0 8 : Int) + y * descInt d 0x18 + z * descInt d 0x1C) ∧
      copyDst d (z * f 0x14 2 + y) = BitVec.ofInt 64 ((f 8 8 : Int) + y * descInt d 0x20 + z * descInt d 0x24)

/-- R278, R280, R283: a copy instruction checks its descriptor's place and then its fields, waits while the quill is full (or,
for `cpy.topk`, the matrix command queue) or its seal is, and else sends its command and raises PEND of its seal. That a
descriptor in the records of an enabled context cache traps LOADACC after LOADALIGN is the model's reading (log entry 59). -/
def Claims.CopiesStart : Prop :=
  ∀ (s : State) (sl : Fin 16) (a : Fin 32), s.Clear [.g a] [] true →
    ∀ r ∈ ([(.cpy sl a, 0), (.cpyTopk sl a, 1), (.cpyPack sl a, 2)] : List (Instr × Fin 4)),
      let va := s.rg a
      let d : BitVec 512 := BitVec.ofNat 512 (s.wellRead va.toNat 52)
      let full := 512 ≤ s.cnib.quill.length ∨ (r.2 = 1 ∧ 4 ≤ s.cnib.matrix.queue.length)
      let f := descNat d
      let opt := f 0x30 4
      let bad := fun (o : Nat) (b : Bool) => (((0x02 : BitVec 8), va + BitVec.ofNat 64 o), b)
      let fields : List ((BitVec 8 × Word) × Bool) :=
        if r.2 = 1 then
          [bad 0 (8 ≤ f 0 8), bad 0x10 (f 0x10 4 ≠ 0), bad 0x14 (f 0x14 2 = 0 ∨ 32 < f 0x14 2), bad 0x16 (f 0x16 2 ≠ 0),
           bad 0x18 (f 0x18 4 ≠ 0), bad 0x1C (f 0x1C 4 ≠ 0), bad 0x24 (f 0x24 4 ≠ 0),
           bad 0x30 (opt % 16 = 0 ∨ 8 < opt % 16 ∨ opt / 16 % 64 = 0 ∨ 32 < opt / 16 % 64 ∨ opt / 16 % 64 < opt % 16 ∨ 1024 ≤ opt)]
        else
          [bad 0x10 (f 0x10 4 = 0 ∨ 16777215 < f 0x10 4 ∨ (r.2 = 2 ∧ f 0x10 4 % (if opt % 2 = 1 then 2 else 4) ≠ 0)),
           bad 0x14 (f 0x14 2 = 0), bad 0x16 (f 0x16 2 = 0),
           bad 0x30 (if r.2 = 2 then 2 ≤ opt
             else opt / 256 ≠ 0 ∨ opt / 4 % 4 ≠ 0 ∨ opt % 4 = 3 ∨ (opt % 4 = 0 ∧ opt / 16 % 16 ≠ 0))]
      let place : List ((BitVec 8 × Word) × Bool) := [((0x0E, va), 0x60000 < va.toNat + 64), ((0x04, va), va.toNat % 64 ≠ 0),
        ((0x05, va), s.recordsShut va.toNat 52)]
      let checks := place ++ fields
      (∀ c v, checks.find? (·.2) = some ((c, v), true) → exec r.1 s = .next (s.raise c v)) ∧
      (checks.find? (·.2) = none →
        (full → exec r.1 s = .next s.waitMem) ∧
        (¬ full → s.sealFull sl = true → exec r.1 s = .next s) ∧
        (¬ full → s.sealFull sl = false → ∃ t o, exec r.1 s = .next t ∧ t.mem = s.mem ∧ Retired s t [(1, .sealPend sl)] ∧
          t.ops = s.ops ++ [o] ∧ o.kind = .copy va d r.2 0 ⟨0, false, 0, 0, false⟩ none 0 ∧ o.sl = sl ∧ o.id = s.nextId ∧
          o.nib = s.cur.nib ∧ o.cid = s.ctx.cid ∧ o.performed = false ∧ o.parked = false ∧ o.due = s.cycle + 1 ∧
          (t.nib s.cur.nib).quill = s.cnib.quill ++ [s.nextId] ∧
          (r.2 = 1 → t.agenda = s.agenda ++ [(s.cycle + 16, .matrixDispatch s.cur.nib)] ∧
            ∃ c, (t.nib s.cur.nib).matrix.queue = s.cnib.matrix.queue ++ [c] ∧ c.id = s.nextId ∧
              c.kind = .topk (Fin.ofNat 8 (descNat d 0 8))) ∧
          (r.2 ≠ 1 → (t.nib s.cur.nib).matrix = s.cnib.matrix ∧ (s.cnib.quill = [] → s.copyAtBorder o = false →
            (s.cycle + 1, if r.2 = 0 ∧ descNat d 0x30 4 % 4 ≠ 0 then .remoteAccess (.own s.nextId) else .homeWrite s.nextId) ∈
              t.agenda))))

/-- Copy descriptors, and copy instructions at issue. Descriptors among hidden records trap LOADACC, log entry 59. -/
def Obligations.CopiesIssue : Prop :=
  Claims.CopyDescriptors ∧ Claims.CopiesStart

/-- R283, R284, R76, R78: the row of `cpy.topk`: K entries of 8 bytes, a column and its value, of K different columns, in the
order of R251: of two columns the one of the greater value first, and of equal values the lower column, and none of the
columns left out goes before one that is kept; and the row of `cpy.pack`: BFP4 blocks of 20 bytes back to back, each the block
of R78 of its 32 values, the last padded with +0, SAT its only event (the model's choice, log entry 80). -/
def Claims.CopiedRowImages : Prop :=
  (∀ (t : BitVec 32768) (r k n : Nat), r < 32 → n ≤ 32 → k ≤ n →
    let v := fun (c : Nat) => (t.extractLsb' (1024 * r + 32 * c) 32).toNat
    let before := fun (c d : Nat) => f32Key (v d) < f32Key (v c) ∨ (f32Key (v d) = f32Key (v c) ∧ c < d)
    topkRow t r k n < 2 ^ (64 * k) ∧ ∃ cs : List Nat, cs.length = k ∧ (∀ c ∈ cs, c < n) ∧ cs.Pairwise before ∧
      (∀ d < n, d ∉ cs → ∀ c ∈ cs, before c d) ∧
      ∀ i, ∀ c ∈ cs[i]?, topkRow t r k n / 2 ^ (64 * i) % 2 ^ 32 = c ∧ topkRow t r k n / 2 ^ (64 * i + 32) % 2 ^ 32 = v c) ∧
  ∀ (x bytes : Nat) (half : Bool),
    let size := if half = true then 2 else 4
    let f := if half = true then fmt16 else fmt32
    let e := bytes / size
    let block := fun (i : Nat) => bfpPack 4 false ((List.range 32).map (fun j =>
      if 32 * i + j < e then f.value (x / 2 ^ (8 * size * (32 * i + j)) % 2 ^ (8 * size)) else .fin false 0 0))
    (∀ i < (e + 31) / 32, (packRow x bytes half).1 / 2 ^ (160 * i) % 2 ^ 160 = (block i).1 + (block i).2.1 * 2 ^ 128) ∧
    (packRow x bytes half).1 < 2 ^ (160 * ((e + 31) / 32)) ∧
    ((∃ i < (e + 31) / 32, (block i).2.2 = evSAT) → (packRow x bytes half).2 = evSAT) ∧
    ((∀ i < (e + 31) / 32, (block i).2.2 ≠ evSAT) → (packRow x bytes half).2 = 0)

/-- R278, R279, R281, R283, R284, R285: in its turn of service a local copy reads the next part of its row, up to the end of a
cell; once the row's source has been read whole it writes the next part of the row, as it stands for `cpy`, packed for
`cpy.pack`, and from the tile for `cpy.topk`, and no other byte changes. An access that fails ends the command with its cause
and its VA. After the last row DSER, where there is one, gets its landing decrement. That a part ends at a cell's end and that
a row is read whole before it is written are the model's reading (log entry 26). -/
def Claims.CopyRows : Prop :=
  ∀ (s : State) (id : Nat) (o : Op) (desc : Word) (d : BitVec 512) (kind : Fin 4) (i : Nat) (r : CopyRow)
    (tile : Option (BitVec 32768)) (ev : BitVec 8), s.findOp id = some o → o.id = id → o.kind = .copy desc d kind i r tile ev →
    o.performed = false → o.parked = false → kind ≠ 3 → (kind = 0 → descNat d 0x30 4 % 4 = 0) → (kind = 1 → tile.isSome = true) →
    s.copyAtBorder o = false → s.copyBlocked o = false → Memory.wf s.mem = true →
    let u := s.engFor o.nib o.cid
    let n := descNat d 0x10 4
    let out := if kind = 1 then 8 * (descNat d 0x30 4 % 16)
      else if kind = 2 then 20 * ((n / (if descNat d 0x30 4 % 2 = 1 then 2 else 4) + 31) / 32) else n
    let part := fun (va : Word) (done len : Nat) => min (64 - (va.toNat + done) % 64) (len - done)
    let size := part (copySrc d i) r.got n
    let look := fun (va : Word) (done len : Nat) (write : Bool) =>
      s.engPieces o.nib u.1 u.2 write true [⟨va + BitVec.ofNat 64 done, 0, part va done len, false, 0⟩] []
    let data := fun rs => r.buf + (s.engLoad o.nib rs o.lc 0).1 * 2 ^ (8 * r.got)
    let serves := fun (t : State) (p : Op) => exec (.homeWrite id) s = .next t ∧ t.findOp id = some p ∧ p.performed = false ∧
      s.cycle < p.due ∧ ((s.nib o.nib).quill = [id] → (p.due, .homeWrite id) ∈ t.agenda) ∧ ∀ m k, t.stroke m k = s.stroke m k
    let fails := fun (c : BitVec 8) (va : Word) => ∃ t p, exec (.homeWrite id) s = .next t ∧ t.findOp id = some p ∧
      p.performed = true ∧ Memory.read t.mem (wellPA o.nib (desc.toNat + 0x34)) 12 = 1 + c.toNat * 256 + va.toNat * 2 ^ 32 ∧
      ∀ b, b < wellPA o.nib (desc.toNat + 0x34) ∨ wellPA o.nib (desc.toNat + 0x40) ≤ b → Memory.get t.mem b = Memory.get s.mem b
    (i < copyRows kind d → kind ≠ 1 → r.ready = false →
      (∀ c va, look (copySrc d i) r.got n false = .fail c va → fails c va) ∧
      (∀ rs, look (copySrc d i) r.got n false = .ok rs → r.got + size < n → ∃ t p, serves t p ∧ t.mem = s.mem ∧
        p.kind = .copy desc d kind i ⟨r.got + size, false, data rs, r.put, false⟩ tile ev)) ∧
    (i < copyRows kind d → ∀ x lc, (r.ready = true ∧ x = r.buf ∧ lc = o.lc) ∨
        (r.ready = false ∧ kind = 1 ∧ lc = o.lc ∧
          x = topkRow (tile.getD 0) i (descNat d 0x30 4 % 16) (descNat d 0x30 4 / 16 % 64)) ∨
        (r.ready = false ∧ kind ≠ 1 ∧ r.got + size = n ∧ ∃ rs, look (copySrc d i) r.got n false = .ok rs ∧
          lc = (s.engLoad o.nib rs o.lc 0).2.1 ∧
          x = if kind = 2 then (packRow (data rs) n (descNat d 0x30 4 % 2 = 1)).1 else data rs) →
      (∀ c va, look (copyDst d i) r.put out true = .fail c va → fails c va) ∧
      (∀ ws, look (copyDst d i) r.put out true = .ok ws → ∃ t p, serves t p ∧
        t.mem = (s.engStore (x / 2 ^ (8 * r.put)) ws lc).2.mem ∧
        (∀ b, (∀ w ∈ ws, b < w.pa ∨ w.pa + w.size ≤ b) → Memory.get t.mem b = Memory.get s.mem b) ∧
        let put := r.put + part (copyDst d i) r.put out
        (put = out → ∃ e, p.kind = .copy desc d kind (i + 1) ⟨0, false, 0, 0, false⟩ tile e) ∧
        (put ≠ out → ∃ g e, p.kind = .copy desc d kind i ⟨g, true, x, put, false⟩ tile e))) ∧
    (i = copyRows kind d → (descNat d 0x28 8 = 0 → ∃ t p, exec (.homeWrite id) s = .next t ∧ t.mem = s.mem ∧
        t.findOp id = some p ∧ (∃ x, p.kind = .copy desc d kind (i + 1) x tile ev) ∧ (s.cycle, .copyComplete id) ∈ t.agenda) ∧
      (descNat d 0x28 8 ≠ 0 → ∀ y rs, s.serifLook o.nib o.cid (BitVec.ofNat 64 (descNat d 0x28 8)) = .ok (y :: rs) →
        ∀ m off, unitOf y.pa = .well m off → ∃ t q c, exec (.homeWrite id) s = .next t ∧ t.mem = s.mem ∧
          t.ops.getLast? = some q ∧ q.kind = .decr (BitVec.ofNat 64 (descNat d 0x28 8)) y.pa (s.nibNumber o.nib) id ∧ q.lc = o.tmax ∧
          (c, .landingDecrement m (BitVec.ofNat 64 off) o.nib) ∈ t.agenda ∧ s.cycle < c))

/-- R279, R281: a command whose every access has been performed writes STATUS 0 and FAULTVA 0 in its descriptor; its seal
posts later, and the quill gives up its place. R282, R285: a remote access whose window is not in force ends the command with
LOADACC or STOREACC and the failed address modulo 2^48, and one that this module's peer partition admits is performed there.
An access that another module's quill makes here reads or writes only what the peer partition admits. -/
def Claims.CopiesEnd : Prop :=
  (∀ (s : State) (id : Nat) (o : Op) (desc : Word) (d : BitVec 512) (kind : Fin 4) (i : Nat) (r : CopyRow)
    (tile : Option (BitVec 32768)) (ev : BitVec 8), s.findOp id = some o → o.id = id → o.kind = .copy desc d kind i r tile ev →
    let at_ := wellPA o.nib (desc.toNat + 0x34)
    let writes := fun (t : State) (x : Nat) => Memory.read t.mem at_ 12 = x ∧
      (∀ b, b < at_ ∨ at_ + 12 ≤ b → Memory.get t.mem b = Memory.get s.mem b) ∧
      ∃ p, t.findOp id = some p ∧ p.performed = true ∧ p.sl = o.sl
    (o.performed = false → copyRows kind d < i → (∀ q ∈ s.ops, ∀ v p n, q.kind ≠ .decr v p n id) → Memory.wf s.mem = true →
      (s.copyBlocked o = false → ∃ t, exec (.copyComplete id) s = .next t ∧ writes t 0) ∧
      (s.copyBlocked o = true → ∃ t, exec (.copyComplete id) s = .next t ∧
        t = { s with agenda := s.agenda ++ [(s.cycle + 1, .copyComplete id)] })) ∧
    (o.performed = true → ∀ k, s.Resides o.nib o.cid k → ∃ t, exec (.copyComplete id) s = .next t ∧
      Landed s t o k (s.stroke o.nib k).ctx.r ∧ (t.nib o.nib).quill = (s.nib o.nib).quill.filter (· != id) ∧
      (t.stroke o.nib k).ctx.c = { (s.stroke o.nib k).ctx.c with fpev := fpevAdd (s.stroke o.nib k).ctx.c.fpev ev }) ∧
    (o.performed = false → o.parked = false → kind = 0 → i < copyRows kind d → Memory.wf s.mem = true → s.copyAtBorder o = false → s.copyBlocked o = false →
      r.paid = true ∨ s.route (s.partOf o.nib) (State.folioOf o.nib) = [] →
      let p := s.parts[s.partOf o.nib]
      let opt := descNat d 0x30 4
      let w : Fwin := p.fwin[(Fin.ofNat 16 (opt / 16) : Fin 16)]
      let n := descNat d 0x10 4
      let part := fun (va : Word) (done : Nat) => min (64 - (va.toNat + done) % 64) (n - done)
      let src := copySrc d i + BitVec.ofNat 64 r.got
      let dst := copyDst d i + BitVec.ofNat 64 r.put
      let here := fun (pa : Nat) => w.en = true ∧ w.modn = s.modu.modn ∧
        s.remoteHere s.modu.modn p.vf w.pvf.toNat pa = true ∧ s.goneHome pa = false
      let closed := fun (pa : Nat) => w.en = false ∨ (w.modn = s.modu.modn ∧ s.remoteHere s.modu.modn p.vf w.pvf.toNat pa = false)
      (opt % 4 = 1 → r.ready = false → let pa := src.toNat % 2 ^ 48
        let size := part (copySrc d i) r.got
        (closed pa → ∃ t, exec (.remoteAccess (.own id)) s = .next t ∧ writes t (1 + 0x05 * 256 + pa * 2 ^ 32)) ∧
        (here pa → r.got + size < n → ∃ t q, exec (.remoteAccess (.own id)) s = .next t ∧ t.mem = s.mem ∧ t.findOp id = some q ∧
          q.kind = .copy desc d kind i ⟨r.got + size, false, r.buf + Memory.read s.mem pa size * 2 ^ (8 * r.got), r.put, false⟩
            tile ev)) ∧
      (opt % 4 = 2 → r.ready = true → let pa := dst.toNat % 2 ^ 48
        let size := part (copyDst d i) r.put
        (closed pa → ∃ t, exec (.remoteAccess (.own id)) s = .next t ∧ writes t (1 + 0x07 * 256 + pa * 2 ^ 32)) ∧
        (here pa → ∃ t q, exec (.remoteAccess (.own id)) s = .next t ∧ t.findOp id = some q ∧
          Memory.read t.mem pa size = r.buf / 2 ^ (8 * r.put) % 2 ^ (8 * size) ∧
          (∀ b, b < pa ∨ pa + size ≤ b → Memory.get t.mem b = Memory.get s.mem b) ∧
          (r.put + size < n → q.kind = .copy desc d kind i { r with put := r.put + size, paid := false } tile ev) ∧
          (n ≤ r.put + size → q.kind = .copy desc d kind (i + 1) ⟨0, false, 0, 0, false⟩ tile ev))))) ∧
  ∀ (s : State) (x : PeerAccess), ∃ t, exec (.remoteAccess (.peer x)) s = .next t ∧
    (∀ n k, t.stroke n k = s.stroke n k) ∧ t.ops = s.ops ∧
    let pa := x.pa.toNat
    let admitted := x.modn ≠ s.modu.modn ∧ s.remoteHere x.modn x.vf.toNat x.pvf.toNat pa = true
    (x.write = false ∨ ¬ admitted → t.mem = s.mem) ∧
    (x.write = true → admitted → s.goneHome pa = false → s.modu.gone = [] → s.NoBorders → 0 < x.size.val → pa % 64 + x.size.val ≤ 64 →
      Memory.wf s.mem = true → Memory.read t.mem pa x.size.val = x.data.toNat % 2 ^ (8 * x.size.val) ∧
      ∀ b, b < pa ∨ pa + x.size.val ≤ b → Memory.get t.mem b = Memory.get s.mem b)

/-- Rows of copies, their images, their ends, and remote accesses. The parts in which a row is served are log entry 26; the
events of a packed row are log entry 80. -/
def Obligations.CopiesRun : Prop :=
  Claims.CopiedRowImages ∧ Claims.CopyRows ∧ Claims.CopiesEnd

/-- R289, R292, R294: `xperm`, `xsend` and `msg` are checked in the order of their rules, wait for their seal (and `xsend` for
its expectations), and else send their request: `xsend` claims its grant, and g[d] of `msg` becomes pending. That a block in
the records of an enabled context cache traps LOADACC after LOADALIGN is the model's reading (log entry 59). -/
def Claims.ExchangeRequests : Prop :=
  ∀ (s : State) (sl : Fin 16) (a b d : Fin 32),
    let va := s.rg a
    let placed := fun (i : Instr) (body : Prop) => (0x60000 < va.toNat + 64 → exec i s = .next (s.raise 0x0E va)) ∧
      (va.toNat + 64 ≤ 0x60000 → va.toNat % 64 ≠ 0 → exec i s = .next (s.raise 0x04 va)) ∧
      (va.toNat + 64 ≤ 0x60000 → va.toNat % 64 = 0 → s.recordsShut va.toNat 64 = true → exec i s = .next (s.raise 0x05 va)) ∧
      (va.toNat + 64 ≤ 0x60000 → va.toNat % 64 = 0 → s.recordsShut va.toNat 64 = false → body)
    (s.Clear [.g a, .g b] [] true →
      placed (.xperm sl a b) (
        let req := s.rg b
        let bad := req.extractLsb' 42 10 ≠ 0 ∨ req.extractLsb' 35 5 ≠ 0
        (bad → exec (.xperm sl a b) s = .next (s.raise 0x02 req)) ∧
        (¬ bad → (s.sealFull sl = true → exec (.xperm sl a b) s = .next s) ∧
          (s.sealFull sl = false → ∃ t o c, exec (.xperm sl a b) s = .next t ∧ t.mem = s.mem ∧
            Retired s t [(1, .sealPend sl)] ∧ t.ops.length = s.ops.length + 1 ∧ t.ops.getLast? = some o ∧ o.id = s.nextId ∧
            o.kind = .permit va req ∧ o.sl = sl ∧ o.nib = s.cur.nib ∧ o.cid = s.ctx.cid ∧ o.performed = false ∧
            s.cycle < c ∧ c ≤ s.cycle + 3968 ∧ t.agenda = s.agenda ++ [(c, .permitRequest s.nextId)]))) ∧
      placed (.xsend sl a b) (
        let x := s.wellRead va.toNat 64
        let list := s.rg b
        let target := descField x 0 8 % 2 ^ 35
        let ring : Fin 4 := Fin.ofNat 4 (descField x 8 1)
        let g := descField x 0x18 4
        let taken := ∃ o ∈ s.ops, o.nib = s.cur.nib ∧ ∃ y l h r n p m w i, o.kind = .send y l h target r n p m w i ∧ h % 2 ^ 32 = g
        (descField x 9 1 ≠ 1 ∨ taken → exec (.xsend sl a b) s = .next (s.raise 0x02 (va + 9))) ∧
        (¬ taken → descField x 9 1 = 1 →
          (strokeModule target ≠ s.modu.modn.toNat → s.deafTo s.cur.nib (BitVec.ofNat 32 (target / 8)) = false →
            exec (.xsend sl a b) s = .next (s.raise 0x02 (va + 9))) ∧
          (s.findGrant target ring g = none → s.deafTo s.cur.nib (BitVec.ofNat 32 (target / 8)) = false →
            s.nibLost (strokeNib target) = false → exec (.xsend sl a b) s = .next (s.raise 0x02 (va + 9))) ∧
          ∀ y r, s.findGrant target ring g = some (y, r) → r.claimed = false →
            (s.sealFull sl = true → exec (.xsend sl a b) s = .next s) ∧
            (s.sealFull sl = false → list ≠ 0 → s.freeExpects s.cur.nib < r.rows → exec (.xsend sl a b) s = .next s.waitMem) ∧
            (s.sealFull sl = false → list = 0 ∨ r.rows ≤ s.freeExpects s.cur.nib → ∃ t, exec (.xsend sl a b) s = .next t ∧
              t.mem = s.mem ∧ Retired (s.modRing (strokeNib target) (strokeIndex target) ring (fun y => { y with
                recs := y.recs.map (fun q => if q.grant = r.grant ∧ q.kind = 0 then { q with claimed := true } else q) })) t
                [(1, .sealPend sl)] ∧
              Sent s t s.ops sl (.send va list r.grant target ring r.rows (y.base + r.off) r.len y.rowLen 0) (s.cycle + 1) .homeWrite ∧
              (t.nib s.cur.nib).expectReserved = s.cnib.expectReserved + (if list = 0 then 0 else r.rows)))))  ∧
    (s.Clear [.g a, .g b] [.g d] true → (s.sealFull sl = true → exec (.msg d a b sl) s = .next s) ∧
      (s.sealFull sl = false → ∃ t, exec (.msg d a b sl) s = .next t ∧ t.mem = s.mem ∧
        Retired s t [(1, .sealPend sl), (1, .pend (.g d))] ∧
        Sent s t s.ops sl (.msg d va (s.rg b)) (s.cycle + 1) .messageDelivery))

/-- R290, R294, R301, R304: requests and messages of one sender to one ring or mailbox, and operations of one stroke on one
barrier id, are handled oldest first: where a younger one's event comes first, the oldest is handled in it and the younger one
comes again in the next cycle. None is left unanswered. -/
def Claims.OlderOnesComeFirst : Prop :=
  ∀ (s : State) (pre mid post : List Op) (o q : Op), s.ops = pre ++ o :: mid ++ q :: post →
    (∀ x ∈ s.ops, ∀ y ∈ s.ops, x.id = y.id → x = y) → o.id ≠ q.id → o.cid = q.cid → o.nib = q.nib →
    (∀ a b r x, o.kind = .permit a r → q.kind = .permit b x → State.reqTarget r = State.reqTarget x → State.reqRing r = State.reqRing x →
      (∀ y ∈ pre, y.cid = o.cid → ∀ c z, y.kind = .permit c z → State.reqTarget z = State.reqTarget r → State.reqRing z ≠ State.reqRing r) →
      (s.inPartition o.nib (State.reqTarget r) && s.nibLost (strokeNib (State.reqTarget r))) = false →
      exec (.permitRequest q.id) s = exec (.permitRequest o.id) { s with agenda := s.agenda ++ [(s.cycle + 1, .permitRequest q.id)] }) ∧
    (∀ d e u w x y, o.kind = .msg d u x → q.kind = .msg e w y → State.mailbox u = State.mailbox w →
      (∀ z ∈ pre, z.cid = o.cid → ∀ c v m, z.kind = .msg c v m → State.mailbox v ≠ State.mailbox u) →
      (s.inPartition o.nib (getBits u 0 32 * 8) && s.nibLost (Fin.ofNat 65536 u.toNat)) = false →
      exec (.messageDelivery q.id) s = exec (.messageDelivery o.id) { s with agenda := s.agenda ++ [(s.cycle + 1, .messageDelivery q.id)] }) ∧
    ∀ (i : Fin 64) (ev fv : Instr),
      ((∃ p w u, o.kind = .barArr p i w u) ∧ ev = .barrierArrival (.own o.id)) ∨ ((∃ p, o.kind = .barWait p i) ∧ ev = .barrierWait o.id) →
      ((∃ p w u, q.kind = .barArr p i w u) ∧ fv = .barrierArrival (.own q.id)) ∨ ((∃ p, q.kind = .barWait p i) ∧ fv = .barrierWait q.id) →
      (∀ y ∈ pre, y.cid = o.cid → (∀ r w u, y.kind ≠ .barArr r i w u) ∧ ∀ r, y.kind ≠ .barWait r i) →
      exec fv s = exec ev { s with agenda := s.agenda ++ [(s.cycle + 1, fv)] }

/-- R288, R290: the answer to the oldest request of a sender for a ring: NORING, BUSY and CAPACITY leave the ring as it is; a
grant takes its room, with a pad record where the message wraps, whose write has a time that the answer carries. That a pad's
header is its first 8 bytes, so that its SENDER bytes stay as they were, is the model's choice (log entry 77). -/
def Claims.PermitsAreDecided : Prop :=
  ∀ (s : State) (id : Nat) (pre post : List Op) (o : Op) (blk req : Word), s.ops = pre ++ o :: post → o.id = id →
    o.kind = .permit blk req → (∀ p ∈ pre, p.id ≠ id) →
    (∀ p ∈ pre, p.cid = o.cid → ∀ c r, p.kind = .permit c r → State.reqTarget r = State.reqTarget req → State.reqRing r ≠ State.reqRing req) →
    let target := State.reqTarget req
    let m := strokeNib target
    let k := strokeIndex target
    let ring := State.reqRing req
    s.deafTo m (s.nibNumber o.nib) = false → s.deafTo o.nib (BitVec.ofNat 32 (target / 8)) = false → s.nibLost m = false →
    let x := (s.stroke m k).rings[ring]
    let n := State.reqRows req
    let len := recordLen n x.rowLen
    let room := x.size - x.tail
    let charge := if len ≤ room then len else room + len
    let open_ := s.inPartition o.nib target = true ∧ x.en = true
    let answers := fun (t : State) (st off ch g : Nat) => ∃ p, t.findOp id = some p ∧ p.kind = .permitAns blk req st off ch g ∧ p.sl = o.sl
    let refused := fun (st : Nat) => ∃ t, exec (.permitRequest id) s = .next t ∧ answers t st 0 0 0 ∧ t.mem = s.mem ∧ t.nibs = s.nibs
    (¬ open_ → refused 4) ∧ (open_ → 16 ≤ x.grants → refused 3) ∧
    (open_ → x.grants < 16 → x.size - x.used < charge ∨ x.size < len → refused 2) ∧
    (open_ → x.grants < 16 → charge ≤ x.size - x.used → len ≤ x.size → ∃ t, exec (.permitRequest id) s = .next t ∧
      answers t 1 (if len ≤ room then x.tail else 0) charge s.nextId ∧
      ((t.stroke m k).rings[ring]).tail = (if len ≤ room then x.tail else 0) + len ∧
      ((t.stroke m k).rings[ring]).used = x.used + charge ∧ ((t.stroke m k).rings[ring]).grants = x.grants + 1 ∧
      ((t.stroke m k).rings[ring]).head = x.head ∧ (∀ r : Fin 4, r ≠ ring → (t.stroke m k).rings[r] = (s.stroke m k).rings[r]) ∧
      (t.stroke m k).ctx = (s.stroke m k).ctx ∧ (∀ i j, (i, j) ≠ (m, k) → t.stroke i j = s.stroke i j) ∧
      (len ≤ room ∨ room = 0 → t.mem = s.mem) ∧
      (room < len → room ≠ 0 → Memory.wf s.mem = true → let at_ := wellPA m (x.base + x.tail)
        (∀ b, b < at_ ∨ at_ + 8 ≤ b → Memory.get t.mem b = Memory.get s.mem b) ∧
        (∃ p, t.findOp id = some p ∧ p.lc = Clk.max o.lc (s.writeStamp at_ o.lc).1 ∧ p.tmax = Clk.max o.tmax (s.writeStamp at_ o.lc).1) ∧
        (room < 2 ^ 32 → Memory.read t.mem at_ 8 = room + 2 ^ 32)))

/-- R289, R291: the answer writes the 64 bytes of the permit block and nothing else, and then the seal posts. -/
def Claims.PermitAnswersLand : Prop :=
  ∀ (s : State) (id : Nat) (o : Op) (blk req : Word) (st off charge g : Nat), s.findOp id = some o → o.id = id →
    o.kind = .permitAns blk req st off charge g →
    (o.performed = true → ∀ k, s.Resides o.nib o.cid k →
      ∃ t, exec (.permitAnswer id) s = .next t ∧ Landed s t o k (s.stroke o.nib k).ctx.r) ∧
    (o.performed = false → s.nibLost o.nib = false → s.blockBusy o.nib blk.toNat 64 = false → Memory.wf s.mem = true → st < 256 → off < 2 ^ 32 → charge < 2 ^ 32 →
      let at_ := wellPA o.nib blk.toNat
      ∃ t p, exec (.permitAnswer id) s = .next t ∧ t.findOp id = some p ∧ p.performed = true ∧
        (∀ b, b < at_ ∨ at_ + 64 ≤ b → Memory.get t.mem b = Memory.get s.mem b) ∧
        Memory.read t.mem at_ 8 = State.reqTarget req ∧ Memory.read t.mem (at_ + 8) 1 = (State.reqRing req).val ∧
        Memory.read t.mem (at_ + 9) 1 = st ∧ Memory.read t.mem (at_ + 10) 2 = State.reqRows req ∧
        Memory.read t.mem (at_ + 12) 4 = 0 ∧ Memory.read t.mem (at_ + 0x10) 4 = off ∧ Memory.read t.mem (at_ + 0x14) 4 = charge ∧
        Memory.read t.mem (at_ + 0x18) 4 = g % 2 ^ 32 ∧ Memory.read t.mem (at_ + 0x1C) 36 = 0)

/-- Exchange requests, their order, and how permits are decided and answered. A forged or unknown grant traps as log entry 55
says; hidden records are log entry 59; the 8-byte pad header is log entry 77. -/
def Obligations.ExchangeAndPermits : Prop :=
  Claims.ExchangeRequests ∧ Claims.OlderOnesComeFirst ∧ Claims.PermitsAreDecided ∧ Claims.PermitAnswersLand

/-- R287, R293: `xrcfg` checks its descriptor and then enables or disables its ring at t+1; `xrpop` gives the head message or
the head record, whose time its lc then has, and releases what the stroke held with the pads and cancelled records behind it.
That a descriptor in the records of an enabled context cache traps LOADACC after LOADALIGN is the model's reading (log entry
59). -/
def Claims.RingsArePopped : Prop :=
  ∀ (s : State) (a d : Fin 32),
    (s.Clear [.g a] [] false →
      let va := s.rg a
      let x := s.wellRead va.toNat 16
      let r : Fin 4 := Fin.ofNat 4 (descField x 0 1)
      let en := descField x 1 1 = 1
      let y := s.cst.rings[r]
      let f := descField x
      let bad := fun (o : Nat) (b : Bool) => (((0x02 : BitVec 8), va + BitVec.ofNat 64 o), b)
      let checks : List ((BitVec 8 × Word) × Bool) :=
        [((0x0E, va), 0x60000 < va.toNat + 16), ((0x04, va), va.toNat % 16 ≠ 0), ((0x05, va), s.recordsShut va.toNat 16),
         bad 0 (4 ≤ f 0 1), bad 1 (2 ≤ f 1 1), bad 2 (f 1 1 = 1 ∧ f 2 2 ≠ 0), bad 4 (f 1 1 = 1 ∧ f 4 4 % 64 ≠ 0),
         bad 8 (f 1 1 = 1 ∧ (f 8 4 % 64 ≠ 0 ∨ f 8 4 < 512 ∨ 262144 < f 8 4 ∨ 0x60000 < f 4 4 + f 8 4)),
         bad 12 (f 1 1 = 1 ∧ (f 12 4 % 32 ≠ 0 ∨ f 12 4 < 32 ∨ 16384 < f 12 4)),
         bad 1 ((en ∧ y.en = true) ∨ (¬ en ∧ y.en = true ∧ (y.grants ≠ 0 ∨ y.recs ≠ [])))]
      (∀ c v, checks.find? (·.2) = some ((c, v), true) → exec (.xrcfg a) s = .next (s.raise c v)) ∧
      (checks.find? (·.2) = none → ∃ t, exec (.xrcfg a) s = .next t ∧ t.mem = s.mem ∧
        Retired s t [(1, .ring r en (descField x 4 4) (descField x 8 4) (descField x 12 4))])) ∧
    (s.Clear [.g a] [.g d] false →
      let x := (s.rg a).toNat
      (4 < x % 16 ∨ 32 ≤ x → exec (.xrpop d a) s = .next (s.raise 0x02 (s.rg a))) ∧
      (x % 16 = 4 → x < 32 → (s.cst.mailbox = [] → Issues (.xrpop d a) s (gWrite 1 d 0)) ∧
        ∀ m ms, s.cst.mailbox = m :: ms → ∃ t, exec (.xrpop d a) s = .next t ∧ t.mem = s.mem ∧
          Retired s t ((1, .mailPop) :: gWrite 1 d m.val) ∧ (t.seqSt s.cur.q).lc = Clk.max s.lc m.clk) ∧
      (∀ i : Fin 4, x = i.val ∨ x = i.val + 16 → ((s.cst.rings[i]).en = false → Issues (.xrpop d a) s (gWrite 1 d 0)) ∧
        ∀ held pads rest n r, r = s.cst.rings[i] → r.en = true → r.recs = held ++ pads ++ rest →
          held.length = (if r.held = true ∧ r.recs ≠ [] then 1 else 0) → (∀ p ∈ pads, p.complete = true ∧ p.kind ≠ 0) →
          (∀ h ∈ rest.head?, h.complete = false ∨ h.kind = 0) → n = (held ++ pads).foldl (fun m p => m + p.len) 0 →
          let frees := if n = 0 then [] else [(1, Eff.ringFree i n)]
          (∀ h, x = i.val → rest.head? = some h → h.complete = true → ∃ t, exec (.xrpop d a) s = .next t ∧ t.mem = s.mem ∧
            Retired s t (frees ++ gWrite 1 d (BitVec.ofNat 64 (r.base + h.off))) ∧
            (t.seqSt s.cur.q).lc = Clk.max s.lc h.clk ∧ (t.cst.rings[i]).recs = rest ∧ (t.cst.rings[i]).held = true) ∧
          (x = i.val + 16 ∨ (∀ h ∈ rest.head?, h.complete = false) → ∃ t, exec (.xrpop d a) s = .next t ∧ t.mem = s.mem ∧
            Retired s t (frees ++ gWrite 1 d 0) ∧ (t.cst.rings[i]).recs = rest ∧ (t.cst.rings[i]).held = false))) ∧
    (s.Clear [] [.g d] false → ∃ w : Word, Issues (.xrstat d) s (gWrite 1 d w) ∧
      (∀ i : Fin 4, w.getLsbD i.val = (s.cst.rings[i]).en) ∧
      (∀ i : Fin 4, w.getLsbD (4 + i.val) = true ↔ (s.cst.rings[i]).en = true ∧
        ∃ h, (s.cst.rings[i]).recs.head? = some h ∧ h.complete = true ∧ h.kind = 0) ∧
      w.extractLsb' 8 5 = BitVec.ofNat 5 s.cst.mailbox.length ∧
      (s.cst.mailbox.length ≤ 16 → w.extractLsb' 13 3 = 0 ∧
        w.extractLsb' 16 16 = BitVec.ofNat 16 (s.cst.rings.toList.foldl (fun n r => n + r.grants) 0)))

/-- R288, R292: an entry of a send writes its return entry and its row in the record, and the head with the first; a cancel
writes the head alone; the send's completion marks its record, uses its grant and writes STATUS 6 or 8 in its permit block,
and the seal posts. -/
def Claims.SendsComplete : Prop :=
  ∀ (s : State) (id : Nat) (o : Op) (blk list : Word) (grant target n addr len rowLen i : Nat) (ring : Fin 4),
    s.findOp id = some o → o.id = id → o.kind = .send blk list grant target ring n addr len rowLen i → o.parked = false →
    let m := strokeNib target
    let k := strokeIndex target
    (o.performed = false → s.deafTo o.nib (BitVec.ofNat 32 (target / 8)) = false → s.nibLost m = false → Memory.wf s.mem = true →
      s.homeGone o = false → s.sendBlocked o = false →
      (list = 0 → let at_ := wellPA m addr
        ∃ t, exec (.homeWrite id) s = .next t ∧ t.agenda = s.agenda ++ [(s.cycle, .sendComplete id)] ∧
        Memory.read t.mem at_ 16 = recordHead len 2 n (s.strokeNumber o.nib o.stroke) % 2 ^ 128 ∧
        ∀ b, b < at_ ∨ at_ + 16 ≤ b → Memory.get t.mem b = Memory.get s.mem b) ∧
      (list ≠ 0 → i < n → ∀ ret serif off rows lc u,
        s.sendEntry o (list + BitVec.ofNat 64 (32 * i)) rowLen = .ok (ret, serif, off, rows, lc, u) →
        ∃ t p, exec (.homeWrite id) s = .next t ∧ t.findOp id = some p ∧ p.kind = .send blk list grant target ring n addr len rowLen (i + 1) ∧
          Memory.read t.mem (wellPA m (addr + rowOffset n + i * rowLen)) rowLen = (s.engLoad o.nib rows o.lc 0).1 % 2 ^ (8 * rowLen) ∧
          Memory.read t.mem (wellPA m (addr + 16 + 16 * i)) 16 = ret.toNat + serif.toNat * 2 ^ 64 ∧
          (i = 0 → Memory.read t.mem (wellPA m addr) 16 = recordHead len 0 n (s.strokeNumber o.nib o.stroke) % 2 ^ 128) ∧
          ∀ b, (b < wellPA m addr ∨ wellPA m (addr + 16 + 16 * n) ≤ b) →
            (b < wellPA m (addr + rowOffset n + i * rowLen) ∨ wellPA m (addr + rowOffset n + i * rowLen) + rowLen ≤ b) →
            Memory.get t.mem b = Memory.get s.mem b)) ∧
    (o.performed = true → ∀ j, s.Resides o.nib o.cid j →
      ∃ t, exec (.sendComplete id) s = .next t ∧ Landed s t o j (s.stroke o.nib j).ctx.r) ∧
    (o.performed = false → s.sendBlocked o = false → Memory.wf s.mem = true → (list = 0 ∨ n ≤ i) →
      let kind := if list = 0 then 2 else 0
      let at_ := wellPA o.nib (blk.toNat + 9)
      ∃ t p, exec (.sendComplete id) s = .next t ∧ t.findOp id = some p ∧ p.performed = true ∧
        Memory.read t.mem at_ 1 = (if list = 0 then 8 else 6) ∧
        (∀ b, b ≠ at_ → Memory.get t.mem b = Memory.get s.mem b) ∧
        ((∃ r ∈ ((s.stroke m k).rings[ring]).recs, r.grant = grant ∧ r.complete = false) →
          ((t.stroke m k).rings[ring]).grants = ((s.stroke m k).rings[ring]).grants - 1 ∧
          ((t.stroke m k).rings[ring]).recs = ((s.stroke m k).rings[ring]).recs.map (fun r => if r.grant = grant then
            { r with kind := kind, complete := true, clk := o.tmax } else r)))

/-- R296, R265: a send whose grant lies in a unit that its nib knows to be lost makes a lost landing on the serif of each
entry that it has not sent, in the order of the list, and then ends, with STATUS 5 in its permit block. -/
def Claims.LostSendsEnd : Prop :=
  ∀ (s : State) (id : Nat) (o : Op) (blk list : Word) (grant target n addr len rowLen i : Nat) (ring : Fin 4),
    s.findOp id = some o → o.id = id → o.kind = .send blk list grant target ring n addr len rowLen i → o.parked = false →
    o.performed = false → s.sendBlocked o = false → s.deafTo o.nib (BitVec.ofNat 32 (target / 8)) = true → s.homeGone o = false →
    Memory.wf s.mem = true → list ≠ 0 →
    let next := fun (u : State) => exec (.homeWrite id) s = exec (.homeWrite id) u ∧ ∃ p, u.findOp id = some p ∧ p.sl = o.sl ∧
      p.performed = false ∧ p.kind = .send blk list grant target ring n addr len rowLen (i + 1)
    (n ≤ i → let at_ := wellPA o.nib (blk.toNat + 9)
      ∃ t p, exec (.homeWrite id) s = .next t ∧ t.findOp id = some p ∧ p.performed = true ∧ p.sl = o.sl ∧
      Memory.read t.mem at_ 1 = 5 ∧ ∀ b, b ≠ at_ → Memory.get t.mem b = Memory.get s.mem b) ∧
    (i < n → ∀ rs x t1 u1,
      s.engCheck o.nib (s.engFor o.nib o.cid).1 (s.engFor o.nib o.cid).2 (list + BitVec.ofNat 64 (32 * i + 16)) 8 1 false = .ok rs →
      s.engLoad o.nib rs o.lc 0 = (x, t1, u1) →
      (x = 0 → ∃ u, next u ∧ u.mem = s.mem) ∧
      (x ≠ 0 → ∀ r rest off, u1.serifLook o.nib o.cid (BitVec.ofNat 64 x) = .ok (r :: rest) → unitOf r.pa = .well o.nib off →
        s.planeOf o.nib off = none → off + 4 ≤ 0x4C000 ∨ (∀ j : Fin 8, (s.nib o.nib).entries[j].valid = false) →
        let pa := wellPA o.nib off
        ∃ u, next u ∧ Memory.read u.mem pa 4 = (serifDec (Memory.read s.mem pa 4) true).1 ∧
          ∀ b, b < pa ∨ pa + 4 ≤ b → Memory.get u.mem b = Memory.get s.mem b))

/-- R294: the oldest message of a sender for a target enters the target's mailbox (that of stroke 7 for a task, with the
task's id in its top byte) or is refused, changing nothing at the target; then its status lands in g[d] and the seal posts. -/
def Claims.MessagesAreDelivered : Prop :=
  (∀ (s : State) (id : Nat) (pre post : List Op) (o : Op) (d : Fin 32) (target val : Word), s.ops = pre ++ o :: post → o.id = id →
    o.kind = .msg d target val → (∀ p ∈ pre, p.id ≠ id) →
    (∀ p ∈ pre, p.cid = o.cid → ∀ e u v, p.kind = .msg e u v → State.mailbox u ≠ State.mailbox target) →
    let n : NibId := Fin.ofNat 65536 target.toNat
    let index := getBits target 32 6
    let task := target.getLsbD 38
    let k : Fin 8 := if task = true then 7 else Fin.ofNat 8 index
    s.deafTo n (s.nibNumber o.nib) = false → s.deafTo o.nib (target.setWidth 32) = false → s.nibLost n = false →
    let none_ := target.extractLsb' 39 25 ≠ 0 ∨ (task = false ∧ 8 ≤ index) ∨ s.inPartition o.nib (getBits target 0 32 * 8) = false ∨
      (task = false ∧ (s.stroke n k).status = .vacant)
    let answers := fun (t : State) (st : Nat) => exec (.messageDelivery id) s = .next t ∧ t.mem = s.mem ∧
      ∃ p, t.findOp id = some p ∧ p.kind = .msgAns d target st
    (none_ → ∃ t, answers t 2 ∧ t.nibs = s.nibs) ∧
    (¬ none_ → 16 ≤ (s.stroke n k).mailbox.length → ∃ t, answers t 1 ∧ t.nibs = s.nibs) ∧
    (¬ none_ → (s.stroke n k).mailbox.length < 16 → ∃ t v, answers t 0 ∧
      t.stroke n k = { s.stroke n k with mailbox := (s.stroke n k).mailbox ++ [⟨v, o.lc⟩] } ∧
      (∀ i j, (i, j) ≠ (n, k) → t.stroke i j = s.stroke i j) ∧
      (task = false → v = val ∧ (t.nib n).rq = (s.nib n).rq) ∧
      (task = true → v.getLsbD 63 = true ∧ v.extractLsb' 56 7 = BitVec.ofNat 7 index ∧ v.extractLsb' 0 56 = val.extractLsb' 0 56 ∧
        (t.nib n).rq = ((s.nib n).rqMessage (Fin.ofNat 64 index)).rq))) ∧
  ∀ (s : State) (id : Nat) (o : Op) (d : Fin 32) (u : Word) (st : Nat), s.findOp id = some o → o.id = id → o.kind = .msgAns d u st →
    (o.performed = true → ∀ k, s.Resides o.nib o.cid k → ∃ t, exec (.messageStatus id) s = .next t ∧
      Landed s t o k ((s.stroke o.nib k).ctx.r.arrive (.g d (BitVec.ofNat 64 st)))) ∧
    (o.performed = false → ∃ t p, exec (.messageStatus id) s = .next t ∧ t.findOp id = some p ∧ p = { o with performed := true, due := s.cycle } ∧
      t.nibs = s.nibs ∧ t.mem = s.mem)

/-- R295, R296: on a loss notice an exchange engine turns every expectation of the lost unit into a lost landing and gives it
up, answers every outstanding permit request to the unit with STATUS 5 and every message with status 3, whether or not another
answer is on its way, ends every cancel of a grant in the unit, and keeps the rest. -/
def Claims.LossNoticesAct : Prop :=
  ∀ (s : State) (n : NibId) (x : BitVec 32), (∀ o ∈ s.ops, ∀ p ∈ s.ops, o.id = p.id → o = p) →
    ∃ t, exec (.lossNotice n x) s = .next t ∧
      (t.nib n).expects = (s.nib n).expects.filter (fun e => !State.noticeNames x e.dest) ∧ t.ops.length = s.ops.length ∧
      let noSends := ∀ o ∈ s.ops, o.nib = n → o.performed = false → ∀ b l g u r y a e w i, o.kind = .send b l g u r y a e w i →
        State.noticeNames x (BitVec.ofNat 32 (u / 8)) = false
      ((∀ e ∈ (s.nib n).expects, State.noticeNames x e.dest = false) → noSends → t.mem = s.mem) ∧
      (∀ e, noSends → (s.nib n).expects.filter (fun e => State.noticeNames x e.dest) = [e] → s.planeOf n e.serif = none →
        e.serif + 4 ≤ 0x4C000 ∨ (∀ i : Fin 8, (s.nib n).entries[i].valid = false) → Memory.wf s.mem = true →
        let pa := wellPA n e.serif
        Memory.read t.mem pa 4 = (serifDec (Memory.read s.mem pa 4) true).1 ∧
        ∀ b, b < pa ∨ pa + 4 ≤ b → Memory.get t.mem b = Memory.get s.mem b) ∧
      (∀ o ∈ s.ops, o.nib = n → o.performed = false → ∀ blk req, o.kind = .permit blk req →
        State.noticeNames x (BitVec.ofNat 32 (State.reqTarget req / 8)) = true →
        ∃ p ∈ t.ops, p.id = o.id ∧ p.kind = .permitAns blk req 5 0 0 0) ∧
      (∀ o ∈ s.ops, o.nib = n → o.performed = false → ∀ d u v, o.kind = .msg d u v → State.noticeNames x (u.setWidth 32) = true →
        ∃ p ∈ t.ops, p.id = o.id ∧ p.kind = .msgAns d u 3) ∧
      (∀ o ∈ s.ops, o.nib = n → o.performed = false → ∀ blk req st f c g, o.kind = .permitAns blk req st f c g →
        State.noticeNames x (BitVec.ofNat 32 (State.reqTarget req / 8)) = true →
        ∃ p ∈ t.ops, p.id = o.id ∧ p.kind = .permitAns blk req 5 0 0 0) ∧
      (∀ o ∈ s.ops, o.nib = n → o.performed = false → ∀ d u st, o.kind = .msgAns d u st → State.noticeNames x (u.setWidth 32) = true →
        ∃ p ∈ t.ops, p.id = o.id ∧ p.kind = .msgAns d u 3) ∧
      (∀ o ∈ s.ops, o.nib = n → o.performed = false → s.sendBlocked o = false → ∀ b g u r y a e w i, o.kind = .send b 0 g u r y a e w i →
        State.noticeNames x (BitVec.ofNat 32 (u / 8)) = true → ∃ p ∈ t.ops, p.id = o.id ∧ p.performed = true) ∧
      ∀ o ∈ s.ops, o.nib ≠ n → o ∈ t.ops

/-- Rings, sends, messages, and what loss notices and lost units do. The clock of a release is log entry 56; the clock of a
lost landing is log entry 82. -/
def Obligations.SendsMessagesAndRings : Prop :=
  Claims.RingsArePopped ∧ Claims.SendsComplete ∧ Claims.LostSendsEnd ∧ Claims.MessagesAreDelivered ∧ Claims.LossNoticesAct

/-- R299, R300, R303: the barrier instructions refuse a bad id or a disabled one, wait for their seal, and else send their
arrival or wait; `xsum` checks the place of its record, reads it, and adds the event counts where it is asked to. That a
record in the records of an enabled context cache traps LOADACC after LOADALIGN is the model's reading (log entry 59). Traffic
of a pod barrier that meets a border first pays there (R360); here none lies in its way. -/
def Claims.BarrierInstructions : Prop :=
  ∀ (s : State) (sl : Fin 16) (a b : Fin 32) (x va : Word) (p : Fin 16) (id : Fin 64), x = s.rg a → va = s.rg b →
    p = s.partOf s.cur.nib → id = BitVec.toFin (x.setWidth 6) →
    (barDomain s.parts[p].barcfg[id] = 6 → s.route p (State.folioOf s.cur.nib) = []) →
    let cfg := s.parts[p].barcfg[id]
    let on := 1 ≤ barDomain cfg ∧ barDomain cfg ≤ 6 ∧ 1 ≤ barCount cfg
    let refused := fun (i : Instr) (width : Nat) => 2 ^ width ≤ x.toNat ∨ ¬ on → exec i s = .next (s.raise 0x02 x)
    let sends := fun (i : Instr) (k : OpKind) (ev : Nat → Instr) => (s.sealFull sl = true → exec i s = .next s) ∧
      (s.sealFull sl = false → ∃ t, exec i s = .next t ∧ t.mem = s.mem ∧ Retired s t [(1, .sealPend sl)] ∧
        Sent s t s.ops sl k (s.cycle + 1) ev)
    (s.Clear [.g a] [] false → refused (.barArr a) 6 ∧ (x.toNat < 64 → on → ∃ t, exec (.barArr a) s = .next t ∧ t.mem = s.mem ∧
      Retired s t [] ∧ Sent s t s.ops 0 (.barArr p id false none) (s.cycle + 1) (.barrierArrival <| .own ·))) ∧
    (s.Clear [.g a] [] true → refused (.barWait sl a) 6 ∧ refused (.barSync sl a) 6 ∧ (x.toNat < 64 → on → sl ≠ 0 →
      sends (.barWait sl a) (.barWait p id) .barrierWait ∧
      sends (.barSync sl a) (.barArr p id true none) (.barrierArrival <| .own ·))) ∧
    (s.Clear [.g a, .g b] [] true → refused (.xsum sl a b) 7 ∧ (x.toNat < 128 → on →
      (0x60000 < va.toNat + 64 → exec (.xsum sl a b) s = .next (s.raise 0x0E va)) ∧
      (va.toNat + 64 ≤ 0x60000 → va.toNat % 64 ≠ 0 → exec (.xsum sl a b) s = .next (s.raise 0x04 va)) ∧
      (va.toNat + 64 ≤ 0x60000 → va.toNat % 64 = 0 → s.recordsShut va.toNat 64 = true →
        exec (.xsum sl a b) s = .next (s.raise 0x05 va)) ∧
      (va.toNat + 64 ≤ 0x60000 → va.toNat % 64 = 0 → s.recordsShut va.toNat 64 = false → sl ≠ 0 → ∀ w : BitVec 512,
        (∀ j < 8, (w.extractLsb' (64 * j) 64).toNat =
          let lane := s.wellRead va.toNat 64 / 2 ^ (64 * j) % 2 ^ 64
          if x.getLsbD 6 = true then min (2 ^ 64 - 1) (lane + (s.ctx.c.fpev.extractLsb' (8 * (7 - j)) 8).toNat) else lane) →
        sends (.xsum sl a b) (.barArr p id true (some (va, w))) (.barrierArrival <| .own ·))))

/-- R300, R301, R303: an arrival that reaches the barrier logic sets ARRIVED and GEN of its stroke and counts toward its
instance's generation, with its contribution and clock, and its wait half waits; the COUNT-th releases every wait and begins
the next generation with no arrivals. An arrival at an id that has been disabled counts nothing. An arrival of another module
counts at a barrier of the pod, and at no other, until that module has been declared lost; that it comes as an input is the
model's choice (log entry 17). No border lies in the way of the pod's traffic here (R360). -/
def Claims.ArrivalsAreCounted : Prop :=
  (∀ (s : State) (id : Nat) (pre post : List Op) (o : Op) (p : Fin 16) (i : Fin 64) (wait : Bool)
    (sum : Option (Word × BitVec 512)) (k : Fin 8), s.ops = pre ++ o :: post → o.id = id → o.kind = .barArr p i wait sum →
    (∀ q ∈ pre, q.id ≠ id) → (∀ q ∈ pre, q.cid = o.cid → (∀ r w u, q.kind ≠ .barArr r i w u) ∧ ∀ r, q.kind ≠ .barWait r i) →
    s.nibLost o.nib = false → s.Resides o.nib o.cid k → (barDomain s.parts[p].barcfg[i] = 6 → ∀ f, s.route p f = []) →
    let inst := s.barHere p i o.nib
    let cfg := s.parts[p].barcfg[i]
    let on := 1 ≤ barDomain cfg ∧ barDomain cfg ≤ 6 ∧ 1 ≤ barCount cfg
    let b := s.barInst p i inst
    let waits := b.waits ++ (if wait = true then [id] else [])
    let lanes := match sum with
      | some (_, x) => addLanes b.sum x
      | none => b.sum
    ∃ t, exec (.barrierArrival (.own id)) s = .next t ∧ t.mem = s.mem ∧ (wait = false → ∀ q ∈ t.ops, q.id ≠ id) ∧
      (on → (t.stroke o.nib k).ctx = { (s.stroke o.nib k).ctx with x := { (s.stroke o.nib k).ctx.x with
          arrived := (s.stroke o.nib k).ctx.x.arrived ||| BitVec.twoPow 64 i.val
          gen := (s.stroke o.nib k).ctx.x.gen.set i b.gen } } ∧
        (b.arrivals + 1 ≠ barCount cfg → ∃ d, t.barInst p i inst = d ∧ d.arrivals = b.arrivals + 1 ∧ d.gen = b.gen ∧
          d.sum = lanes ∧ d.waits = waits ∧ d.clk = some (match b.clk with | some c => Clk.max c o.lc | none => o.lc)) ∧
        (b.arrivals + 1 = barCount cfg → ∃ d, t.barInst p i inst = d ∧ d.arrivals = 0 ∧ d.gen = b.gen + 1 ∧ d.waits = [] ∧
          (∀ w ∈ b.waits, w ≠ id → Released s t w none (some (lanesWord lanes))) ∧
          (wait = true → ∃ c q, s.cycle < c ∧ c ≤ s.cycle + 2048 ∧ (c, .releaseDelivery id) ∈ t.agenda ∧
            t.findOp id = some q ∧ q.kind = .barPost none (sum.map (fun x => (x.1, lanesWord lanes)))))) ∧
      (¬ on → t.parts = s.parts ∧ t.nibs = s.nibs ∧ (wait = true → ∃ c q, s.cycle < c ∧ c ≤ s.cycle + 2048 ∧
        (c, .releaseDelivery id) ∈ t.agenda ∧ t.findOp id = some q ∧ q.kind = .barPost none none))) ∧
  ∀ (s : State) (x : PeerArrival),
    let cfg := s.parts[x.part].barcfg[x.bar]
    let b := s.barInst x.part x.bar 0
    (barDomain cfg ≠ 6 ∨ barCount cfg = 0 ∨ x.modn ∈ s.modu.gone → exec (.barrierArrival (.peer x)) s = .next s) ∧
    (barDomain cfg = 6 → 1 ≤ barCount cfg → x.modn ∉ s.modu.gone → (∀ f, s.route x.part f = []) → ∃ t d, exec (.barrierArrival (.peer x)) s = .next t ∧ t.mem = s.mem ∧
      t.nibs = s.nibs ∧ t.barInst x.part x.bar 0 = d ∧
      (b.arrivals + 1 ≠ barCount cfg → d.arrivals = b.arrivals + 1 ∧ d.gen = b.gen ∧ d.sum = addLanes b.sum x.sum ∧
        d.waits = b.waits ∧
        d.clk = some (match b.clk with | some c => Clk.max c x.clk | none => x.clk)) ∧
      (b.arrivals + 1 = barCount cfg → d.arrivals = 0 ∧ d.gen = b.gen + 1 ∧ d.waits = [] ∧
        ∀ w ∈ b.waits, Released s t w none (some (lanesWord (addLanes b.sum x.sum)))))

/-- Barrier instructions, and how arrivals are counted. Arrivals of other modules are log entry 17; hidden records are log
entry 59. -/
def Obligations.BarrierArrivals : Prop :=
  Claims.BarrierInstructions ∧ Claims.ArrivalsAreCounted

/-- R300, R301: a wait of a stroke whose last arrival counts toward the current generation waits for its release; any other
one posts at once. -/
def Claims.WaitsAreDecided : Prop :=
  ∀ (s : State) (id : Nat) (pre post : List Op) (o : Op) (p : Fin 16) (i : Fin 64) (k : Fin 8),
    s.ops = pre ++ o :: post → o.id = id → o.kind = .barWait p i → (∀ q ∈ pre, q.id ≠ id) →
    (∀ q ∈ pre, q.cid = o.cid → (∀ r w u, q.kind ≠ .barArr r i w u) ∧ ∀ r, q.kind ≠ .barWait r i) →
    s.Resides o.nib o.cid k → 1 ≤ barDomain s.parts[p].barcfg[i] → barDomain s.parts[p].barcfg[i] ≤ 6 →
    1 ≤ barCount s.parts[p].barcfg[i] → (barDomain s.parts[p].barcfg[i] = 6 → s.route p (State.folioOf o.nib) = []) →
    let x := (s.stroke o.nib k).ctx.x
    let inst := s.barHere p i o.nib
    let b := s.barInst p i inst
    let current := x.arrived.getLsbD i.val = true ∧ b.gen - x.gen[i] = 0
    ∃ t q, exec (.barrierWait id) s = .next t ∧ t.mem = s.mem ∧ t.nibs = s.nibs ∧ t.findOp id = some q ∧ q.kind = .barPost none none ∧
      (current → t.barInst p i inst = { b with waits := b.waits ++ [id] } ∧ t.agenda = s.agenda) ∧
      (¬ current → t.parts = s.parts ∧ ∃ c, s.cycle < c ∧ c ≤ s.cycle + 2048 ∧ t.agenda = s.agenda ++ [(c, .releaseDelivery id)])

/-- R300, R302, R303: a release that reaches its waiter writes the summed record over the waiter's, delivers BARTMO for an
abandoned generation, and then posts the seal. -/
def Claims.ReleasesAreDelivered : Prop :=
  ∀ (s : State) (id : Nat) (o : Op) (k : Fin 8) (abandoned : Option Word) (sum : Option (Word × BitVec 512)),
    s.findOp id = some o → o.id = id → o.kind = .barPost abandoned sum → s.Resides o.nib o.cid k →
    (o.performed = true → ∃ t, exec (.releaseDelivery id) s = .next t ∧ Landed s t o k (s.stroke o.nib k).ctx.r) ∧
    (o.performed = false → (∀ p : Fin 16, ∀ b ∈ s.parts[p].bars, id ∉ b.waits) → Memory.wf s.mem = true →
      (∀ va x, sum = some (va, x) → s.blockBusy o.nib va.toNat 64 = true → exec (.releaseDelivery id) s =
        .next { s with agenda := s.agenda ++ [(s.cycle + 1, .releaseDelivery id)] }) ∧
      ((∀ va x, sum = some (va, x) → s.blockBusy o.nib va.toNat 64 = false) → ∃ t q,
        exec (.releaseDelivery id) s = .next t ∧ t.findOp id = some q ∧ q.performed = true ∧ q.kind = o.kind ∧
        (sum = none → t.mem = s.mem) ∧
        (∀ va x, sum = some (va, x) → Memory.read t.mem (wellPA o.nib va.toNat) 64 = x.toNat ∧
          ∀ b, b < wellPA o.nib va.toNat ∨ wellPA o.nib va.toNat + 64 ≤ b → Memory.get t.mem b = Memory.get s.mem b) ∧
        (t.stroke o.nib k).ctx.r = (s.stroke o.nib k).ctx.r ∧ (t.stroke o.nib k).ctx.causes.Perm ((s.stroke o.nib k).ctx.causes ++
          (match abandoned with | some v => [⟨0x15, v, s.cycle, s.cycle + 8⟩] | none => []))))

/-- R301, R302, R332: the watchdog of an instance counts a turn, or none while a stroke of its launch is in trap service there
or any stroke of the instance is stopped by debug; at 2^LOG2 turns the generation is abandoned: its arrivals are discarded,
every waiting stroke's seal posts, and the next generation begins. R299, R301: a write of BARCFG sets the register, discards
the arrivals of the id, and posts its waits. -/
def Claims.GenerationsEndEarly : Prop :=
  (∀ (s : State) (p : Fin 16) (i : Fin 64) (inst : Nat), let b := s.barInst p i inst
    let inInst := fun (n : NibId) => s.partOf n = p ∧ barInstance n (barDomain s.parts[p].barcfg[i]) = inst
    let service := ∃ x ∈ s.nibs, inInst x.1 ∧ ((∃ c ∈ s.contexts x.1, b.launch ≠ 0 ∧ c.task.launch = b.launch ∧ c.c.ts = true) ∨
      ∃ k : Fin 8, ∃ r, (x.2.strokes[k]).status = .stopped r)
    (b.arrivals = 0 → exec (.barrierWatchdog p i inst) s = .next s) ∧
    (b.arrivals ≠ 0 → (∀ f, s.route p f = []) → ∀ turns, (service → turns = b.turns) → (¬ service → turns = b.turns + 1) →
      (turns < 2 ^ s.parts[p].barwd.toNat → ∃ t, exec (.barrierWatchdog p i inst) s = .next t ∧ t.nibs = s.nibs ∧
        t.barInst p i inst = { b with turns := turns } ∧ t.agenda = s.agenda ++ [(s.cycle + 8, .barrierWatchdog p i inst)] ∧
        t.ops = s.ops ∧ t.mem = s.mem) ∧
      (2 ^ s.parts[p].barwd.toNat ≤ turns → ∃ t d, exec (.barrierWatchdog p i inst) s = .next t ∧ t.nibs = s.nibs ∧ t.mem = s.mem ∧
        t.barInst p b.id b.inst = d ∧ d.arrivals = 0 ∧ d.gen = b.gen + 1 ∧ d.waits = [] ∧
        ∀ w ∈ b.waits, Released s t w (some (BitVec.ofNat 64 (b.id.val + b.gen.toNat * 256))) none))) ∧
  ∀ (s : State) (p : Fin 16) (i : Fin 64) (x : BitVec 64), (∀ f, s.route p f = []) → ∃ t, exec (.barcfg p i x) s = .next t ∧ t.nibs = s.nibs ∧ t.mem = s.mem ∧
    t.parts[p].barcfg[i] = x.setWidth 27 ∧ (∀ j : Fin 64, j ≠ i → t.parts[p].barcfg[j] = s.parts[p].barcfg[j]) ∧
    (∀ q : Fin 16, q ≠ p → t.parts[q] = s.parts[q]) ∧ t.parts[p].bars = s.parts[p].bars.filter (·.id != i) ∧
    (∀ inst, (t.barInst p i inst).gen = 0 ∧ (t.barInst p i inst).arrivals = 0) ∧
    ∀ b ∈ s.parts[p].bars, b.id = i → ∀ w ∈ b.waits, Released s t w none none

/-- Barrier waits, releases, and generations that end early. -/
def Obligations.BarrierEnds : Prop :=
  Claims.WaitsAreDecided ∧ Claims.ReleasesAreDelivered ∧ Claims.GenerationsEndEarly

/-- R346, R347: QCTL turns a queue off, or on with its error cleared; QTAIL and the launch register offer packets, and a store
to the launch register of a queue that is off is dropped. -/
def Claims.QueuesAreOffered : Prop :=
  ∀ (s : State) (v : Fin 17) (q : Fin 64) (x : BitVec 64) (pkt : BitVec 512) (y : Queue), y = s.queue v q →
    (x.getLsbD 0 = false → ∃ t, exec (.qctl v q x) s = .next t ∧ t = s.setQueue v q { y with en := false }) ∧
    (x.getLsbD 0 = true → (v ≠ 0 ∧ s.partOfVf v = none) ∨ (v = 0 ∧ q ≠ 0) → exec (.qctl v q x) s = .next s) ∧
    (x.getLsbD 0 = true → (v ≠ 0 → (s.partOfVf v).isSome = true) → (v = 0 → q = 0) → ∃ t, exec (.qctl v q x) s = .next t ∧
      t.mem = s.mem ∧ t.nibs = s.nibs ∧ (t.queue v q).en = true ∧ (s.Drained v q → t.queue v q = { y with
        en := true, err := false, dropw := false, code := 0, inlined := (t.queue v q).inlined })) ∧
    (∃ t, exec (.qtail v q x) s = .next t ∧ (t.queue v q).tail = x.setWidth 16 ∧ t.mem = s.mem ∧ t.nibs = s.nibs ∧
      (y.en = false ∨ y.err = true ∨ y.pos = (x.setWidth 16).toNat % State.slots y → t = s.setQueue v q { y with tail := x.setWidth 16 })) ∧
    (y.en = false → exec (.launchRegister v q pkt) s = .next (s.setQueue v q { y with dropw := true })) ∧
    (y.en = true → ∃ t, exec (.launchRegister v q pkt) s = .next t ∧ t.mem = s.mem ∧ t.nibs = s.nibs ∧
      (t.queue v q).tail = BitVec.ofNat 16 ((y.tail.toNat % State.slots y + 1 + pktField pkt 2 2) % State.slots y) ∧
      (y.err = true → (t.queue v q).inlined.lookup (y.tail.toNat % State.slots y) = some pkt))

/-- R346 to R350: a queue that is on takes the packet at its next slot once no other packet of it has yet to start: a bad one
halts the queue with its CODE and HEAD at its slot; one that waits stays until every earlier packet is done; and a good one is
taken, its event due from now on. -/
def Claims.PacketsAreTaken : Prop :=
  ∀ (s : State) (v : Fin 17) (q : Fin 64) (x : BitVec 64) (y : Queue) (b : BitVec 512) (inline : Bool), y = s.queue v q →
    y.en = true → y.err = false → y.skip = 0 → y.pos ≠ (x.setWidth 16).toNat % State.slots y → (∀ p ∈ y.pkts, p.started = true) →
    s.vfs[v].replay = none → s.vfHeld v = false → s.slotPacket y y.pos = (b, inline) →
    let nibs := ((s.partOfVf v).map s.nibCount).getD 0
    (∀ c, pktBad b nibs (v == 0) = some c → ∃ t, exec (.qtail v q x) s = .next t ∧ t.mem = s.mem ∧ t.nibs = s.nibs ∧
      (t.queue v q).err = true ∧ (t.queue v q).code = BitVec.ofNat 8 c ∧ (t.queue v q).head = BitVec.ofNat 16 y.pos ∧
      (t.queue v q).pkts = y.pkts ∧ t.vfs[v].msix[2] = s.vfs[v].msix[2] + 1) ∧
    (pktBad b nibs (v == 0) = none → pktField b 0 1 = 6 →
      s.loopBad { y with tail := x.setWidth 16 } y.pos (pktField b 0x22 1) = true →
      ∃ t, exec (.qtail v q x) s = .next t ∧ t.mem = s.mem ∧ t.nibs = s.nibs ∧ (t.queue v q).err = true ∧
        (t.queue v q).code = 4 ∧ (t.queue v q).head = BitVec.ofNat 16 y.pos ∧ (t.queue v q).pkts = y.pkts) ∧
    (pktBad b nibs (v == 0) = none →
      (pktField b 0 1 = 6 → s.loopBad { y with tail := x.setWidth 16 } y.pos (pktField b 0x22 1) = false) →
      (pktWaits b = true → (∃ p ∈ y.pkts, p.done = false) → ∃ t, exec (.qtail v q x) s = .next t ∧ t.agenda = s.agenda ∧
        t.queue v q = { y with tail := x.setWidth 16 }) ∧
      ((pktWaits b = true → ∀ p ∈ y.pkts, p.done = true) →
        (∀ p ∈ y.pkts, p.done = false → pktField p.bits 0 1 ≠ 5 ∧ pktField p.bits 0 1 ≠ 6) → ∃ t c p, exec (.qtail v q x) s = .next t ∧ t.mem = s.mem ∧ t.nibs = s.nibs ∧ s.cycle ≤ c ∧
        t.agenda = s.agenda ++ [(c, pktEvent b s.nextId)] ∧ (t.queue v q).pkts = y.pkts ++ [p] ∧ p.id = s.nextId ∧ p.bits = b ∧
        p.slot = y.pos ∧ p.started = false ∧ p.done = false ∧ p.paid = false ∧ (t.queue v q).pos = (y.pos + 1) % State.slots y)) ∧
    ∀ op, op = pktField b 0 1 →
      (pktNamed op = none → pktBad b nibs (v == 0) = some 1) ∧
      ((pktNamed op).isSome = true → 0x20 ≤ op → v ≠ 0 → pktBad b nibs (v == 0) = some 3) ∧
      (∀ l, pktNamed op = some l → op < 0x20 ∨ v = 0 →
        (pktReserved b l = true ∨ pktRange b nibs = true → pktBad b nibs (v == 0) = some 2) ∧
        (pktReserved b l = false → pktRange b nibs = false → pktBad b nibs (v == 0) = none))

/-- Command queues are offered packets and take them. Turning on a queue of a virtual function without a partition is log
entry 38; the order of codes is log entry 40. -/
def Obligations.QueuesAndPackets : Prop :=
  Claims.QueuesAreOffered ∧ Claims.PacketsAreTaken

/-- R350, R356: what NOP, FENCE, WAITMEM, SIGNALMEM, COND, LOOP and COPY do, each after the completions that it waits for,
once its accesses wait at no border. -/
def Claims.PacketsRun : Prop :=
  ∀ (s : State) (id : Nat) (v : Fin 17) (q : Fin 64) (p : Packet) (u : State), s.findPacket id = some (v, q, p) → p.id = id →
    s.Runs v p → u = s.startPacket v q p →
    let f := pktField p.bits
    let finishes := fun (i : Instr) (w : State) (status : Nat) => ∃ t, exec i s = .next t ∧ Finished w t v q p status
    let word := u.pktLoad v q (BitVec.ofNat 64 (f 8 8)) 8
    let holds := fun (x : Nat) =>
      (f 0x20 1 = 0 → x &&& f 0x18 8 = f 0x10 8) ∧ (f 0x20 1 = 1 → x &&& f 0x18 8 ≠ f 0x10 8) ∧
      (f 0x20 1 = 2 → f 0x10 8 ≤ x &&& f 0x18 8) ∧ (3 ≤ f 0x20 1 → x &&& f 0x18 8 < f 0x10 8)
    ClocksOnly { s with vfs := u.vfs } u ∧
    finishes (.nopPacket id) u 0 ∧ finishes (.fence id) u 0 ∧
    (∀ i ∈ [Instr.waitmem id, .waitmemPoll id, .cond id], word = none → finishes i (u.haltFault v q) 1) ∧
    (word = none → finishes (.loop id)
      ((u.modQueue v q (fun y => { y with inlined := y.inlined.filter (fun x => x.1 != p.slot) })).haltFault v q) 1) ∧
    (∀ x w, word = some (x, w) → ClocksOnly u w ∧
      (∀ i ∈ [Instr.waitmem id, .waitmemPoll id], (holds x → finishes i w 0) ∧
        (¬ holds x → ∃ t, exec i s = .next t ∧ t.mem = s.mem ∧ t.nibs = s.nibs ∧ (s.cycle + 256, .waitmemPoll id) ∈ t.agenda)) ∧
      (holds x → finishes (.cond id) w 0) ∧
      (¬ holds x → finishes (.cond id) (w.modQueue v q (fun y => { y with skip := f 0x22 2 })) 0) ∧
      (∀ n, n = (match (w.queue v q).loop with | some (slot, n) => if slot = p.slot then n else 0 | none => 0) →
        let first := (p.slot + State.slots (w.queue v q) - f 0x22 1) % State.slots (w.queue v q)
        (holds x → f 0x24 4 = 0 ∨ n < f 0x24 4 → ∃ t, exec (.loop id) s = .next t ∧ t.mem = s.mem ∧ t.nibs = s.nibs ∧
          let z := w.modQueue v q (fun y => { y with
            loop := some (p.slot, n + 1), pos := first, head := BitVec.ofNat 16 first
            pkts := y.pkts.filter (fun x => x.id != id), clk := some (match y.clk with | some c => Clk.max c (w.agentClk v q) | none => w.agentClk v q) })
          t.queue v q = (z.pump v q State.pumpFuel).queue v q ∧ t.agenda = (z.pump v q State.pumpFuel).agenda) ∧
        (¬ holds x ∨ (f 0x24 4 ≠ 0 ∧ f 0x24 4 ≤ n) →
          finishes (.loop id) (w.modQueue v q (fun y => { y with
            loop := none, head := BitVec.ofNat 16 y.pos, inlined := y.inlined.filter (fun x => x.1 != p.slot) })) 0))) ∧
    (let a := BitVec.ofNat 64 (f 8 8)
     (f 0x18 1 = 0 → (∀ w, u.pktStore v q a 8 (f 0x10 8) = some w → finishes (.signalmem id) w 0) ∧
       (u.pktStore v q a 8 (f 0x10 8) = none → finishes (.signalmem id) (u.haltFault v q) 1)) ∧
     (f 0x18 1 ≠ 0 → (u.pktAdd v q a (f 0x10 8) = none → finishes (.signalmem id) (u.haltFault v q) 1) ∧
       ∀ part r, u.queuePart v (s.queue v q).root = some part → Memory.wf s.mem = true → r.size = 8 →
         u.hostPieces part (s.queue v q).root true (State.cellPieces a 0 8 2) [] = some [r] → ∃ w, finishes (.signalmem id) w 0 ∧
         Memory.read w.mem r.pa 8 = (Memory.read s.mem r.pa 8 + f 0x10 8) % 2 ^ 64 ∧
         (∀ b, b < r.pa ∨ r.pa + 8 ≤ b → Memory.get w.mem b = Memory.get s.mem b) ∧
         w.agentClk v q = (u.writeStamp r.pa (u.agentClk v q)).1)) ∧
    (let len := f 0x18 8
     let src := BitVec.ofNat 64 (f 8 8 + p.iters)
     let dst := BitVec.ofNat 64 (f 0x10 8 + p.iters)
     let n := min (len - p.iters) (min (64 - src.toNat % 64) (64 - dst.toNat % 64))
     ∀ x z w, ((f 0x20 1).testBit 0 = true → x = Memory.read s.hostMem src.toNat n ∧ z = u) →
       ((f 0x20 1).testBit 0 = false → u.pktLoad v q src n = some (x, z)) →
       ((f 0x20 1).testBit 1 = true → w = { z with hostMem := Memory.write z.hostMem dst.toNat n x }) →
       ((f 0x20 1).testBit 1 = false → z.pktStore v q dst n x = some w) →
       (len ≤ p.iters + n → finishes (.copy id) w 0) ∧
       (p.iters + n < len → ∃ t c, exec (.copy id) s = .next t ∧ t.mem = w.mem ∧ t.nibs = s.nibs ∧ s.cycle ≤ c ∧
         (c, .copy id) ∈ t.agenda ∧ (w.Drained v q → t.hostMem = w.hostMem) ∧
         ∀ r ∈ (t.queue v q).pkts, r.id = id → id < s.nextId → r.iters = p.iters + n))

/-- R338, R343, R350, R357, R358: CAPSTART clears the status block, opens the capture with its regions, captures itself and
opens the gates of its launches; CAPSTOP writes the size and closes them; SNAPSHOT appends a region to an open capture; and an
item goes behind the last one, or sets FULL where it has no room. -/
def Claims.CapturesAreKept : Prop :=
  (∀ (s : State) (id : Nat) (v : Fin 17) (q : Fin 64) (p : Packet) (u : State), s.findPacket id = some (v, q, p) → p.id = id →
    s.Runs v p → u = s.startPacket v q p →
    let f := pktField p.bits
    let finishes := fun (i : Instr) (w : State) => ∃ t, exec i s = .next t ∧ Finished w t v q p 0
    let area := BitVec.ofNat 64 (f 8 8)
    let opens := fun (w : State) (regions : List (Word × Word)) => ((((w.capWrite area 64 0).modQueue v q (fun y =>
      { y with capture := some ⟨area, BitVec.ofNat 64 (f 0x10 8), 64, regions⟩ })).capItem v q 1 64 0 0 p.bits.toNat).gateQueue v q
        true)
    (f 0x20 1 = 0 → finishes (.capstart id) (opens u [])) ∧
    (f 0x20 1 ≠ 0 → ∀ x w, u.pktLoad v q (BitVec.ofNat 64 (f 0x18 8)) (16 * f 0x20 1) = some (x, w) →
      finishes (.capstart id) (opens w ((List.range (f 0x20 1)).map (fun i =>
        (BitVec.ofNat 64 (x / 2 ^ (128 * i)), BitVec.ofNat 64 (x / 2 ^ (128 * i + 64))))))) ∧
    ((s.queue v q).capture = none → finishes (.capstop id) (u.gateQueue v q false)) ∧
    (∀ c, (s.queue v q).capture = some c → finishes (.capstop id)
      (((u.capWrite (c.area + 8) 8 c.used).modQueue v q (fun y => { y with capture := none })).gateQueue v q false)) ∧
    (let w : Fin 17 := Fin.ofNat 17 (f 8 1)
     let x : Fin 64 := Fin.ofNat 64 (f 9 1)
     (s.partOfVf w = none ∨ (s.queue w x).capture = none → finishes (.snapshot id) u) ∧
     ((s.partOfVf w).isSome = true → (s.queue w x).capture.isSome = true → ∀ d z,
       (u.agentWait w x p.clk).pktLoad w x (BitVec.ofNat 64 (f 0x10 8)) (f 0x18 8) = some (d, z) →
       finishes (.snapshot id) (z.capItem w x 2 (f 0x18 8) (BitVec.ofNat 64 (f 0x10 8)) 0 d)))) ∧
  (∀ (s : State) (v : Fin 17) (q : Fin 64) (on : Bool) (n : NibId) (k : Fin 8), (∃ b, (n, b) ∈ s.nibs) →
    let mine := (s.stroke n k).ctx.owner = some (v, q)
    (mine → (s.gateQueue v q on).stroke n k =
      if on = true then { s.stroke n k with gateOn := true } else { s.stroke n k with gateOff := true }) ∧
    (¬ mine → (s.gateQueue v q on).stroke n k = s.stroke n k)) ∧
  ∀ (s : State) (v : Fin 17) (q : Fin 64) (kind len crcs data : Nat) (va : Word) (c : Capture), (s.queue v q).capture = some c →
    Memory.wf s.hostMem = true → kind < 256 → len < 2 ^ 64 → crcs < 2 ^ 256 →
    let size := 64 + (len + 63) / 64 * 64
    let a := (c.area + BitVec.ofNat 64 c.used).toNat
    let t := s.capItem v q kind len va crcs data
    (c.used + size ≤ c.size.toNat → a + size < 2 ^ 64 → Memory.read t.hostMem a 8 = kind ∧ Memory.read t.hostMem (a + 8) 8 = len ∧
      Memory.read t.hostMem (a + 16) 8 = va.toNat ∧ Memory.read t.hostMem (a + 32) 32 = crcs ∧
      Memory.read t.hostMem (a + 64) (size - 64) = data % 2 ^ (8 * (size - 64)) ∧
      (∀ b, b < a ∨ a + size ≤ b → Memory.get t.hostMem b = Memory.get s.hostMem b) ∧
      (t.queue v q).capture = some { c with used := c.used + size } ∧ t.mem = s.mem) ∧
    (c.size.toNat < c.used + size → Memory.read t.hostMem c.area.toNat 8 = Memory.read s.hostMem c.area.toNat 8 ||| 2 ∧
      (∀ b, b < c.area.toNat ∨ c.area.toNat + 8 ≤ b → Memory.get t.hostMem b = Memory.get s.hostMem b) ∧ t.vfs = s.vfs ∧ t.mem = s.mem)

/-- R343, R344, R357: a replay goes on when the packet that it waits for completes: the next captured packet is issued again,
and the replay ends after the last item. A completed LAUNCH of it is compared with the check record of its number, region by
region: on agreement the replay goes on, and on a mismatch it stops, and the status block names the launch and the region. -/
def Claims.ReplaysCompare : Prop :=
  (∀ (s : State) (v : Fin 17) (r : Replay) (pos got : Nat) (w : State), s.vfs[v].replay = some r → Memory.wf s.hostMem = true →
    let area := r.area.toNat
    s.checkRecord area (Memory.read s.hostMem (area + 8) 8) 64 r.index 65536 = some pos → s.capCrcs v 0 r.regions = (got, w) →
    let differs := fun (i : Nat) => got / 2 ^ (64 * i) % 2 ^ 64 ≠ Memory.read s.hostMem (area + pos + 0x20 + 8 * i) 8
    let n := min 4 r.regions.length
    let t := s.replayCheck v
    t.mem = s.mem ∧ ((∀ i < n, ¬ differs i) → t.hostMem = s.hostMem ∧ t.vfs[v].replay = some { r with index := r.index + 1 }) ∧
    ∀ i < n, differs i → (∀ j < i, ¬ differs j) → t.vfs[v].replay = none ∧ t.vfs[v].msix[2] = s.vfs[v].msix[2] + 1 ∧
      Memory.read t.hostMem area 8 = 1 + Memory.read s.hostMem area 8 / 2 % 2 * 2 + i * 4 + r.index % 2 ^ 32 * 2 ^ 16 ∧
      ∀ b, b < area ∨ area + 8 ≤ b → Memory.get t.hostMem b = Memory.get s.hostMem b) ∧
  (∀ (s : State) (area used pos i fuel : Nat),
    let next := pos + 64 + (Memory.read s.hostMem (area + pos + 8) 8 + 63) / 64 * 64
    let kind := Memory.read s.hostMem (area + pos) 1
    (used < pos + 64 → s.checkRecord area used pos i fuel = none) ∧
    (pos + 64 ≤ used → (kind = 3 → s.checkRecord area used pos 0 (fuel + 1) = some pos ∧
        s.checkRecord area used pos (i + 1) (fuel + 1) = s.checkRecord area used next i fuel) ∧
      (kind ≠ 3 → s.checkRecord area used pos i (fuel + 1) = s.checkRecord area used next i fuel))) ∧
  ∀ (s : State) (id : Nat) (v : Fin 17) (q : Fin 64) (p : Packet) (r : Replay), s.findPacket id = some (v, q, p) → p.id = id →
    (p.started = true ∨ s.vfHeld v = false) → s.vfs[v].replay = some r → r.waitFor = some id → pktField p.bits 0 1 = 0x0B →
    let area := r.area.toNat
    let used := Memory.read s.hostMem (area + 8) 8
    let b : BitVec 512 := BitVec.ofNat 512 (Memory.read s.hostMem (area + r.pos + 64) 64)
    ∃ t, exec (.nopPacket id) s = .next t ∧ t.mem = s.mem ∧ t.nibs = s.nibs ∧
      (used < r.pos + 64 → t.vfs[v].replay = none) ∧
      (r.pos + 64 ≤ used → Memory.read s.hostMem (area + r.pos) 1 = 1 → t.vfs[v].replay = some { r with
          pos := r.pos + 64 + (Memory.read s.hostMem (area + r.pos + 8) 8 + 63) / 64 * 64, waitFor := some s.nextId } ∧
        ∃ c x, (c, pktEvent b s.nextId) ∈ t.agenda ∧ s.cycle ≤ c ∧ x ∈ (t.queue v 0).pkts ∧ x.id = s.nextId ∧ x.bits = b)

/-- What packets do, captures, and the comparisons of a replay. The capture area as a host address and USED with the status
block are log entry 36. -/
def Obligations.PacketsAndCaptures : Prop :=
  Claims.PacketsRun ∧ Claims.CapturesAreKept ∧ Claims.ReplaysCompare

/-- R20, R350 to R353, R386: LAUNCH reads its record and floods its wake, within 1,024 cycles of the packet's acceptance, to
every nib of its partition, where no border lies in the way (R360); a record that cannot be read or is malformed halts the
queue; when the last task has ended the packet completes. The code of a record that cannot be read is log entry 40. -/
def Obligations.LaunchesRun : Prop :=
  (∀ (s : State) (id : Nat) (v : Fin 17) (q : Fin 64) (p : Packet) (u : State), s.findPacket id = some (v, q, p) → p.id = id →
    s.Runs v p → u = s.startPacket v q p →
    let f := pktField p.bits
    let record := u.pktLoad v q (BitVec.ofNat 64 (f 0x20 8)) 128
    (s.partOfVf v = none → ∃ t, exec (.launch id) s = .next t ∧ Finished u t v q p 2) ∧
    (∀ part, s.partOfVf v = some part →
      (record = none ∨ (∃ r w, record = some (r, w) ∧ levelsOk r = false) → ∃ t, exec (.launch id) s = .next t ∧ t.mem = s.mem ∧
        t.nibs = s.nibs ∧ (t.queue v q).err = true ∧ (t.queue v q).code = 2 ∧ (t.queue v q).head = BitVec.ofNat 16 p.slot) ∧
      ∀ r w, record = some (r, w) → levelsOk r = true → (∀ g, s.partHas part g = true → s.folios[g].lost = false) → f 0x18 8 ≠ 0 →
        (∀ g, s.partHas part g = true → s.route part g = []) →
        ∃ t l, exec (.launch id) s = .next t ∧ t.mem = s.mem ∧ t.nibs = s.nibs ∧ t.launches = s.launches ++ [l] ∧ l.vf = v ∧
          l.queue = q ∧ l.pkt = id ∧ l.bits = p.bits ∧ l.record = BitVec.ofNat 1024 r ∧ l.root = (s.queue v q).root ∧
          l.left = f 0x18 8 ∧ l.lost = false ∧ l.part = part ∧ l.folios = s.parts[part].folios ∧
          ∀ m : NibId, s.partHas part (State.folioOf m) = true →
            ∃ c, s.cycle < c ∧ c ≤ max (s.cycle + 1) (p.accepted + 1024) ∧ (c, .wakeAccept m l.id) ∈ t.agenda)) ∧
  ∀ (s : State) (id : Nat) (l : Launch), s.findLaunch id = some l →
    (l.left ≠ 0 → exec (.launchComplete id) s = .next s) ∧
    (l.left = 0 → ∀ v q p u, s.findPacket l.pkt = some (v, q, p) → s.vfs[v].replay = none → s.NoBorders →
      u = ({ s with launches := s.launches.filter (·.id != id) } : State).agentWait v q l.endClk →
      let status := if l.lost = true then 3 else 0
      ((s.queue v q).capture = none → ∃ t, exec (.launchComplete id) s = .next t ∧ Finished u t v q p status) ∧
      ∀ c, (s.queue v q).capture = some c → ∃ t, exec (.launchComplete id) s = .next t ∧
        Finished ((u.capCrcs v q c.regions).2.capItem v q 3 0 0 (u.capCrcs v q c.regions).1 0) t v q p status)

/-- R174: REPLAYALL empties the fault buffer and the coalescing tables of its partition, or of every one from the physical
function, and every access parked there translates again. R261, R358: ERT-WRITE stores an entry at its place in the table. -/
def Claims.PartitionPackets : Prop :=
  ∀ (s : State) (id : Nat) (v : Fin 17) (q : Fin 64) (p : Packet) (u : State), s.findPacket id = some (v, q, p) → p.id = id →
    s.Runs v p → u = s.startPacket v q p →
    let f := pktField p.bits
    (∃ t w, exec (.replayall id) s = .next t ∧ Finished w t v q p 0 ∧ w.mem = s.mem ∧ w.nibs = s.nibs ∧
      ∀ part : Fin 16, v = 0 ∨ s.partOfVf v = some part → t.parts[part].faults = [] ∧ t.parts[part].drop = false ∧
        (∀ g : Fin 16, s.partHas part g = true → t.folios[g].coal = []) ∧
        ∀ o ∈ t.ops, s.partOf o.nib = part → o.parked = false) ∧
    (let part := s.partOfVf (Fin.ofNat 17 (f 8 1))
     (part = none → ∃ t, exec (.ertWrite id) s = .next t ∧ Finished u t v q p 2) ∧
     ∀ x pa, part = some x → pa = s.parts[x].ertFrame.toNat * 0x10000 + 32 * f 0x0A 2 →
       (s.refused x true false pa = true → ∃ t, exec (.ertWrite id) s = .next t ∧ Finished (u.haltFault v q) t v q p 1) ∧
       (s.refused x true false pa = false → ∃ t w, exec (.ertWrite id) s = .next t ∧ Finished w t v q p 0 ∧
         w.mem = Memory.write s.mem pa 32 (f 0x10 32) ∧ ClocksOnly u { w with mem := u.mem }))

/-- R26, R358, R359: PART-CREATE makes a partition of free, connected folios, is refused with STATUS 2 otherwise, and with no
folios destroys the partition in steps; RESIZE moves one folio in steps, or is refused, at its start or when the folio is to
move. Packets that have not started wait while their virtual function is held. That the partition of virtual function VF is
partition VF - 1, that its buckets start full, and the clock with which its host agent starts, are the model's choice (log
entries 5, 37 and 82). -/
def Claims.PartitionsAreMade : Prop :=
  (∀ (s : State) (id : Nat) (v : Fin 17) (q : Fin 64) (p : Packet), s.findPacket id = some (v, q, p) → p.id = id →
    p.started = false → s.vfHeld v = true →
    ∀ i ∈ [Instr.launch id, .copy id, .waitmem id, .signalmem id, .cond id, .loop id, .capstart id, .capstop id, .replayall id,
      .fence id, .partCreate id, .resize id, .ertWrite id, .snapshot id, .nopPacket id],
      exec i s = .next (s.schedule (s.cycle + 1) (pktEvent p.bits id))) ∧
  ∀ (s : State) (id : Nat) (v : Fin 17) (q : Fin 64) (p : Packet) (u : State), s.findPacket id = some (v, q, p) → p.id = id →
    s.RunsAlone v p → u = s.startPacket v q p →
    let f := pktField p.bits
    let finishes := fun (i : Instr) (w : State) (status : Nat) => ∃ t, exec i s = .next t ∧ Finished w t v q p status
    let folios : BitVec 16 := BitVec.ofNat 16 (f 8 2)
    let vf := f 0x0A 1
    let taken := ∃ g : Fin 16, folios.getLsbD g.val = true ∧ ((s.partOfFolio g).isSome = true ∨ s.folios[g].unavailable = true)
    let none_ := s.partOfVf (Fin.ofNat 17 vf) = none
    (folios ≠ 0 → taken ∨ connected folios = false ∨ ¬ none_ → finishes (.partCreate id) u 2) ∧
    (folios ≠ 0 → ¬ taken → connected folios = true → none_ → ∃ w, finishes (.partCreate id) w 0 ∧ w.mem = s.mem ∧
      (s.cycle + 1024, .tokenBucketRefill (Fin.ofNat 16 (vf - 1))) ∈ w.agenda ∧
      (s.cycle + 4096, .clockFloor (Fin.ofNat 16 (vf - 1))) ∈ w.agenda ∧
      (∀ x : Fin 16, x ≠ Fin.ofNat 16 (vf - 1) → w.parts[x] = u.parts[x]) ∧
      w.parts[(Fin.ofNat 16 (vf - 1) : Fin 16)] = { Part.reset with
        vf := vf, folios := folios, pinlim := f 0x0C 4, rate := BitVec.ofNat 64 (f 0x10 8), burst := BitVec.ofNat 64 (f 0x18 8)
        tokens := .replicate 16 (f 0x18 8), hostLc := s.newestStamp folios }) ∧
    (folios = 0 → none_ → finishes (.partCreate id) u 0) ∧
    (folios = 0 → ∀ part, s.partOfVf (Fin.ofNat 17 vf) = some part →
      (p.iters = 0 → ∃ t, exec (.partCreate id) s = .next t ∧ t.parts[part].held = s.parts[part].held + 1 ∧ t.mem = s.mem ∧
        t.nibs = s.nibs ∧ (s.cycle + 8, .partCreate id) ∈ t.agenda) ∧
      (p.iters = 1 → s.partBusy part = true → ∃ t, exec (.partCreate id) s = .next t ∧ t.mem = s.mem ∧ t.nibs = s.nibs ∧
        (s.cycle + 8, .partCreate id) ∈ t.agenda) ∧
      (2 ≤ p.iters → Memory.wf s.mem = true → ∃ w, finishes (.partCreate id) w 0 ∧ Scrubbed s w (s.foliosOf part) ∧
        w.parts[part] = Part.reset ∧ (∀ c, (c, .tokenBucketRefill part) ∉ w.agenda) ∧
        ∀ x ∈ s.parts[part].border, ∀ e ∈ x.evs, e.2 ≠ .clockFloor part → e.2 ≠ .tokenBucketRefill part →
          (max e.1 s.cycle, e.2) ∈ w.agenda)) ∧
    (let g : Fin 16 := Fin.ofNat 16 (f 8 1)
     let src := f 9 1
     let dst := f 0x0A 1
     let a := s.partOfVf (Fin.ofNat 17 src)
     let b := s.partOfVf (Fin.ofNat 17 dst)
     (p.iters = 0 → s.resizeRefused g src dst = true → finishes (.resize id) u 2) ∧
     (p.iters = 0 → s.resizeRefused g src dst = false → ∃ t, exec (.resize id) s = .next t ∧ t.mem = s.mem ∧ t.nibs = s.nibs ∧
       (s.cycle + 8, .resize id) ∈ t.agenda ∧ ∀ x, a = some x → t.parts[x].held = s.parts[x].held + 1) ∧
     (p.iters = 1 → (∃ x, a = some x ∧ s.partBusy x = true) → ∃ t, exec (.resize id) s = .next t ∧ t.mem = s.mem ∧
       t.nibs = s.nibs ∧ (s.cycle + 8, .resize id) ∈ t.agenda) ∧
     (2 ≤ p.iters → s.resizeRefused g src dst = true → ∃ w, finishes (.resize id) w 2 ∧ w.mem = s.mem ∧ w.nibs = s.nibs ∧
       ∀ x, a = some x → w.parts[x].held = s.parts[x].held - 1 ∧ w.parts[x].folios = s.parts[x].folios) ∧
     (2 ≤ p.iters → s.resizeRefused g src dst = false → Memory.wf s.mem = true → ∃ w, finishes (.resize id) w 0 ∧ Scrubbed s w [g] ∧
       (∀ x, a = some x → b ≠ some x → w.parts[x].folios = s.parts[x].folios &&& ~~~ BitVec.twoPow 16 g.val ∧
         w.parts[x].held = s.parts[x].held - 1) ∧
       ∀ x, b = some x → w.parts[x].folios.getLsbD g.val = true))

/-- R26, R360: on its way in from a brim die, traffic of a partition passes the routers of the other partitions' folios that
lie between the die and its own, and out to a die the same ones in reverse, and owes its bytes to each. It pays while tokens
last; where they are short, or other traffic of its channel waits at the router, it waits there, behind what waits already. A
refill adds RATE up to BURST to every bucket and lets the waiting traffic go on, the oldest first. A packet whose accesses are
not paid for makes none of them. Which folios lie on the way is the model's choice (log entry 70). -/
def Claims.BordersAreCharged : Prop :=
  (∀ (s : State) (p f g : Fin 16) (bytes : Nat), (g ∈ s.route p f ↔ g.val / 4 = f.val / 4 ∧ g.val < f.val ∧
      ∃ o, s.partOfFolio g = some o ∧ o ≠ p) ∧ (s.route p f).Pairwise (· < ·) ∧ s.owing p f false 0 = [] ∧ s.owing p f true 0 = [] ∧
    (bytes ≠ 0 → s.owing p f false bytes = (s.route p f).map (fun x => (x, bytes)) ∧
      s.owing p f true bytes = (s.owing p f false bytes).reverse)) ∧
  (∀ (s : State) (p g : Fin 16) (chan : Fin 4) (b : Nat) (r : List (Fin 16 × Nat)) (evs : List (Nat × Instr)),
    let x := s.parts[p]
    let t := s.crossBorder p chan ((g, b) :: r) evs
    let held := ∃ c ∈ x.border, c.chan = chan ∧ c.owes.head?.map Prod.fst = some g
    s.crossBorder p chan [] evs = { s with agenda := s.agenda ++ evs } ∧
    (¬ held → b ≤ x.tokens[g] → t = (s.modPart p (fun y => { y with tokens := y.tokens.set g (y.tokens[g] - b) })).crossBorder p chan r evs) ∧
    (¬ held → x.tokens[g] < b → t = s.modPart p (fun y =>
      { y with tokens := y.tokens.set g 0, border := y.border ++ [⟨chan, (g, b - x.tokens[g]) :: r, evs, false⟩] })) ∧
    (held → t = s.modPart p (fun y => { y with border := y.border ++ [⟨chan, (g, b) :: r, evs, false⟩] }))) ∧
  (∀ (s : State) (p : Fin 16), s.parts[p].vf = 0 → exec (.tokenBucketRefill p) s = .next s) ∧
  (∀ (s : State) (p : Fin 16), s.parts[p].vf ≠ 0 →
    let x := s.parts[p]
    let have_ := fun (g : Fin 16) => min x.burst.toNat (x.tokens[g] + x.rate.toNat)
    let key := fun (c : Crossing) => (c.chan, c.evs, c.asks)
    ∃ t, exec (.tokenBucketRefill p) s = .next t ∧ t.nibs = s.nibs ∧ t.mem = s.mem ∧
      (∀ y : Fin 16, y ≠ p → t.parts[y] = s.parts[y]) ∧ (s.cycle + 1024, .tokenBucketRefill p) ∈ t.agenda ∧
      (∀ g : Fin 16, (t.parts[p].tokens[g] : Nat) ≤ have_ g) ∧
      (x.border = [] → ∀ g : Fin 16, (t.parts[p].tokens[g] : Nat) = have_ g) ∧
      (t.parts[p].border.map key).Sublist (x.border.map key) ∧
      (∀ c ∈ x.border, key c ∉ t.parts[p].border.map key → ∀ e ∈ c.evs, (max e.1 s.cycle, e.2) ∈ t.agenda) ∧
      (∀ pre c post, t.parts[p].border = pre ++ c :: post → ∃ g b r, c.owes = (g, b) :: r ∧
        ((t.parts[p].tokens[g] : Nat) = 0 ∨ ∃ d ∈ pre, d.chan = c.chan ∧ d.owes.head?.map Prod.fst = some g)) ∧
      (∀ c r, x.border = c :: r → (c.owes.map Prod.fst).Nodup →
        ((∀ y ∈ c.owes, y.2 ≤ have_ y.1) → ∀ e ∈ c.evs, (max e.1 s.cycle, e.2) ∈ t.agenda) ∧
        (∀ g b z, c.owes = (g, b) :: z → have_ g < b →
          t.parts[p].border.head? = some { c with owes := (g, b - have_ g) :: z }))) ∧
  ∀ (s : State) (id : Nat) (v : Fin 17) (q : Fin 64) (p : Packet) (part f g : Fin 16) (r : Range) (rest : List (Fin 16 × Nat)),
    s.findPacket id = some (v, q, p) → p.id = id → (p.started = true ∨ s.vfHeld v = false) → s.vfs[v].replay = none → p.paid = false →
    pktField p.bits 0 1 = 3 → s.queuePart v (s.queue v q).root = some part → (unitOf r.pa).folio = some f →
    s.hostPieces part (s.queue v q).root false (State.cellPieces (BitVec.ofNat 64 (pktField p.bits 8 8)) 0 8 2) [] = some [r] →
    s.owing part f false r.size = (g, r.size) :: rest →
    (s.parts[part].tokens[g] < r.size ∨ ∃ c ∈ s.parts[part].border, c.chan = 2 ∧ c.owes.head?.map Prod.fst = some g) →
    ∃ t o, exec (.waitmem id) s = .next t ∧ t.mem = s.mem ∧ t.nibs = s.nibs ∧ t.agenda = s.agenda ∧ t.stamps = s.stamps ∧ o ≠ [] ∧
      t.parts[part].border = s.parts[part].border ++ [⟨2, o, [(s.cycle, .waitmem id)], false⟩] ∧
      ∀ y ∈ (t.queue v q).pkts, y.id = id → y.paid = true

/-- Replays, table writes, partitions made, resized and destroyed, and what their borders charge. The partition number is log
entry 5; the cases of an absent partition, of refusals and of the token buckets are log entries 37, 38 and 70; the clocks of
new partitions and of scrubbed wells are log entry 82; the kernels that start after a scrub are log entry 10. -/
def Obligations.Partitions : Prop :=
  Claims.PartitionPackets ∧ Claims.PartitionsAreMade ∧ Claims.BordersAreCharged

/-- R320, R362, R364 to R368: `gsub` checks its packet's place and then its fields in rising order, waits for its seal and for
room at the port, and else sends the packet, which waits at a border that it meets while tokens are short (R360), with ORIGIN
filled and its clock, and raises PEND; a PREEMPT starts its deadline, and a RESUME ends what a PREEMPT began; the port
completes it itself where the guest is fenced or cannot be used, within 2,048 cycles. -/
def Claims.GuestPacketsAreSent : Prop :=
  (∀ (s : State) (sl : Fin 16) (a : Fin 32), s.Clear [.g a] [] true →
    let va := s.rg a
    let b : BitVec 512 := BitVec.ofNat 512 (s.wellRead va.toNat 64)
    let vf := s.parts[s.partOf s.cur.nib].vf
    (0x60000 < va.toNat + 64 → exec (.gsub sl a) s = .next (s.raise 0x0E va)) ∧
    (va.toNat + 64 ≤ 0x60000 → va.toNat % 64 ≠ 0 → exec (.gsub sl a) s = .next (s.raise 0x04 va)) ∧
    (va.toNat + 64 ≤ 0x60000 → va.toNat % 64 = 0 → s.recordsShut va.toNat 64 = true → exec (.gsub sl a) s = .next (s.raise 0x05 va)) ∧
    (va.toNat + 64 ≤ 0x60000 → va.toNat % 64 = 0 → s.recordsShut va.toNat 64 = false →
      (∀ o, guestBad b (s.turn.mode == .t) = some o → exec (.gsub sl a) s = .next (s.raise 0x02 (va + BitVec.ofNat 64 o))) ∧
      (guestBad b (s.turn.mode == .t) = none →
        (s.sealFull sl = true → exec (.gsub sl a) s = .next s) ∧
        (s.sealFull sl = false → 16 ≤ s.cnib.guestOut ∨ 1024 ≤ s.portHolds → exec (.gsub sl a) s = .next s) ∧
        (s.sealFull sl = false → s.cnib.guestOut < 16 → s.portHolds < 1024 → vf ≤ 16 →
          ∃ t o b' way, exec (.gsub sl a) s = .next t ∧ t.mem = s.mem ∧
          Retired s t [(1, .sealPend sl)] ∧ t.ops = s.ops ++ [o] ∧ o.kind = .guest va b' vf s.ctx.c.ptroot way ∧ o.sl = sl ∧
          o.id = s.nextId ∧ o.nib = s.cur.nib ∧ o.cid = s.ctx.cid ∧
          pktField b' 8 8 = s.strokeNumber s.cur.nib s.cur.k + vf * 2 ^ 40 + (State.asidOf s.ctx.c.ptroot).toNat * 2 ^ 48 ∧
          (∀ i < 64, i < 8 ∨ 16 ≤ i → pktField b' i 1 = pktField b i 1) ∧ (t.nib s.cur.nib).guestOut = s.cnib.guestOut + 1 ∧
          let p := s.partOf s.cur.nib
          let toll := s.owing p (State.folioOf s.cur.nib) true 64
          let usable := s.bonnet.en = true ∧ s.bonnet.up = true ∧ vf ≠ 0 ∧ s.bonnet.vfMask.getLsbD (vf - 1) = true
          (∀ g r, toll = (g, 64) :: r → s.parts[p].tokens[g] < 64 → way = .coming ∧ t.agenda = s.agenda ∧ t.bonnet = s.bonnet ∧
            ∃ w, w ≠ [] ∧ t.parts[p].border = s.parts[p].border ++ [⟨2, w, [(s.cycle, .portRefusal s.nextId)], false⟩]) ∧
          (toll = [] → s.bonnet.fenced = true → way = .refused ∧ ∃ c, s.cycle ≤ c ∧ c ≤ s.cycle + 2048 ∧ t.agenda = s.agenda ++ [(c, .fencedCompletion s.nextId)]) ∧
          (toll = [] → s.bonnet.fenced = false → ¬ usable → way = .refused ∧
            ∃ c, s.cycle ≤ c ∧ c ≤ s.cycle + 2048 ∧ t.agenda = s.agenda ++ [(c, .portRefusal s.nextId)]) ∧
          (toll = [] → s.bonnet.fenced = false → usable → way = .sent ∧ let told := Clk.max s.bonnet.told s.lc
            (pktField b 0 1 < 0x80 → t.agenda = s.agenda ∧ t.bonnet = { s.bonnet with told := told }) ∧
            (pktField b 0 1 = 0x80 → t.agenda = s.agenda ++ [(s.cycle + 165000, .guestDeadline 2)] ∧ t.bonnet = { s.bonnet with
              told := told, deadlines := s.bonnet.deadlines ++ [⟨2, vf, 0, s.cycle + 165000⟩] }) ∧
            (pktField b 0 1 = 0x81 → t.agenda = s.agenda ∧ t.bonnet = { s.bonnet with
              told := told, preempted := s.bonnet.preempted &&& ~~~ BitVec.twoPow 16 (vf - 1) })))))) ∧
  ∀ (b : BitVec 512) (task : Bool),
    let f := fun i => pktField b i 1
    (0x82 ≤ f 0 ∨ (0x80 ≤ f 0 ∧ task = true) → guestBad b task = some 0) ∧
    (f 0 < 0x80 ∨ (f 0 < 0x82 ∧ task = false) → (f 1 ≠ 1 → guestBad b task = some 1) ∧
      (f 1 = 1 → (4 ≤ f 2 → guestBad b task = some 2) ∧ (f 2 < 4 → (f 3 ≠ 0 → guestBad b task = some 3) ∧
        (f 3 = 0 → (f 0 < 0x80 → guestBad b task = none) ∧ (0x80 ≤ f 0 →
          (∀ i, 0x20 ≤ i → i < 0x40 → f i ≠ 0 → (∀ j, 0x20 ≤ j → j < i → f j = 0) → guestBad b task = some i) ∧
          ((∀ i, 0x20 ≤ i → i < 0x40 → f i = 0) → guestBad b task = none))))))

/-- R363, R366, R368: a packet that comes to the port is forwarded or refused; it completes with the guest's status, where the
guest holds it, or with 0x81 or 0x80 from the port: STATUS is written at its address plus 4 and nothing else, and the seal
posts with its clock. -/
def Claims.GuestPacketsComplete : Prop :=
  ∀ (s : State) (id : Nat) (o : Op), s.findOp id = some o → o.id = id →
    (∀ addr pkt vf root way, o.kind = .guest addr pkt vf root way → Memory.wf s.mem = true → (∀ e, s.isThrough e = false) →
      (∀ p, s.partOfVf (Fin.ofNat 17 vf) = some p → s.route p (State.folioOf o.nib) = []) →
      let done := fun (i : Instr) (status : BitVec 32) => ∃ t p, exec i s = .next t ∧ t.findOp id = some p ∧
        p.kind = .guestAns addr status ∧ p.performed = true ∧ p.sl = o.sl ∧
        Memory.read t.mem (wellPA o.nib (addr.toNat + 4)) 4 = status.toNat ∧
        (∀ b, b < wellPA o.nib (addr.toNat + 4) ∨ wellPA o.nib (addr.toNat + 4) + 4 ≤ b → Memory.get t.mem b = Memory.get s.mem b) ∧
        (t.nib o.nib).guestOut = (s.nib o.nib).guestOut - 1 ∧ ∀ m j, t.stroke m j = s.stroke m j
      let usable := s.bonnet.en = true ∧ s.bonnet.up = true ∧ vf ≠ 0 ∧ s.bonnet.vfMask.getLsbD (vf - 1) = true
      let moves := fun (t : State) (w : GuestWay) => exec (.portRefusal id) s = .next t ∧ t.mem = s.mem ∧ t.nibs = s.nibs ∧
        ∃ p, t.findOp id = some p ∧ p.kind = .guest addr pkt vf root w
      (way = .refused → done (.portRefusal id) 0x81) ∧ (way = .sent → exec (.portRefusal id) s = .next s) ∧
      (way = .coming → (s.bonnet.fenced = true → ∃ t c, moves t .refused ∧ s.cycle ≤ c ∧ c ≤ s.cycle + 2048 ∧
          t.agenda = s.agenda ++ [(c, .fencedCompletion id)]) ∧
        (s.bonnet.fenced = false → ¬ usable → ∃ t c, moves t .refused ∧ s.cycle ≤ c ∧ c ≤ s.cycle + 2048 ∧
          t.agenda = s.agenda ++ [(c, .portRefusal id)]) ∧
        (s.bonnet.fenced = false → usable → ∃ t, moves t .sent ∧ t.bonnet.told = Clk.max s.bonnet.told o.lc)) ∧
      done (.fencedCompletion id) 0x80 ∧
      ∀ status clk, (s.bonnet.up = false ∨ s.bonnet.fenced = true → exec (.guestCompletion id status clk) s = .next s) ∧
        (s.bonnet.up = true → s.bonnet.fenced = false → s.TrueClock clk → way ≠ .sent →
          ∃ t, exec (.guestCompletion id status clk) s = .next t ∧ Fenced s t 5) ∧
        (s.bonnet.up = true → s.bonnet.fenced = false → s.TrueClock clk → way = .sent → (s.partOfVf (Fin.ofNat 17 vf)).isSome = true →
          done (.guestCompletion id status clk) status)) ∧
    (∀ addr status k, o.kind = .guestAns addr status → s.Resides o.nib o.cid k →
      ∃ t, exec (.portRefusal id) s = .next t ∧ Landed s t o k (s.stroke o.nib k).ctx.r)

/-- R157, R180, R181, R193, R367, R368: a coherent access of the guest for a packet that is outstanding is performed at its
home where the guest holds the translation and the rules allow it, and its time is returned; a clock below a returned time, or
one that has not risen as it must, and a malformed request fence the guest; that an access for a pre-empted virtual function
is malformed is the model's choice (log entry 14), and which rules allow one that meets a border or a lost home is R360's and
R386's. -/
def Claims.GuestAccesses : Prop :=
  ∀ (s : State) (id : Nat) (va x y : BitVec 64) (op : Fin 16) (clk : Clk), s.bonnet.up = true → s.bonnet.fenced = false →
    (∀ e, s.isThrough e = false) → s.NoBorders →
    let all := [Instr.coherentRead id va clk, .coherentWrite id va x clk, .coherentAtomic id va op x y clk]
    (¬ s.TrueClock clk → ∀ i ∈ all, ∃ t, exec i s = .next t ∧ Fenced s t 4) ∧
    (s.TrueClock clk → (∀ o, s.findOp id = some o → ∀ a b v r, o.kind ≠ .guest a b v r .sent) → ∀ i ∈ all, ∃ t, exec i s = .next t ∧ Fenced s t 5) ∧
    (s.TrueClock clk → ∀ o addr pkt vf root asid, s.findOp id = some o → o.kind = .guest addr pkt vf root .sent → asid = State.asidOf root →
      ∀ p, s.partOfVf (Fin.ofNat 17 vf) = some p →
        (va.toNat % 8 ≠ 0 ∨ s.guestPaused vf = true → ∀ i ∈ all, ∃ t, exec i s = .next t ∧ Fenced s t 5) ∧
        (9 < op.val → ∃ t, exec (.coherentAtomic id va op x y clk) s = .next t ∧ Fenced s t 5) ∧
        (va.toNat % 8 = 0 → s.guestPaused vf = false → op.val ≤ 9 → Memory.wf s.mem = true →
          let heard := { s with bonnet := s.heard clk }
          (s.guestPA vf asid p va false = .none → ∃ t, exec (.coherentRead id va clk) s = .next t ∧ Fenced s t 5) ∧
          (s.guestPA vf asid p va true = .none → ∀ i ∈ all.tail, ∃ t, exec i s = .next t ∧ Fenced s t 5) ∧
          (s.guestPA vf asid p va false = .error → exec (.coherentRead id va clk) s = .next heard) ∧
          (s.guestPA vf asid p va true = .error → ∀ i ∈ all.tail, exec i s = .next heard) ∧
          let answered := fun (t : State) (pa : Nat) (tm : Clk) (w r : Clk) => t.bonnet = { s.heard clk with
              lc := Clk.max s.bonnet.lc tm, told := Clk.max s.bonnet.told tm } ∧
            t.stampOf (pa / 64 * 64) = (w, r) ∧ t.nibs = s.nibs ∧ t.ops = s.ops ∧ t.agenda = s.agenda
          (∀ pa cache, s.guestPA vf asid p va false = .ok pa cache → s.goneHome pa = false → ∀ w r, s.stampOf (pa / 64 * 64) = (w, r) →
            ∃ t, exec (.coherentRead id va clk) s = .next t ∧ t.mem = s.mem ∧ let tm := Clk.max clk w
              answered t pa tm w (Clk.max r (tm + (if cache = true then BitVec.ofNat 48 s.parts[p].lease.toNat else 0)))) ∧
          ∀ pa cache, s.guestPA vf asid p va true = .ok pa cache → s.goneHome pa = false → ∀ w r, s.stampOf (pa / 64 * 64) = (w, r) →
            let tm := Clk.max clk (r + 1)
            let keeps := fun (t : State) => answered t pa tm tm tm ∧
              ∀ b, b < pa ∨ pa + 8 ≤ b → Memory.get t.mem b = Memory.get s.mem b
            (∃ t, exec (.coherentWrite id va x clk) s = .next t ∧ Memory.read t.mem pa 8 = x.toNat ∧ keeps t) ∧
            ∃ t, exec (.coherentAtomic id va op x y clk) s = .next t ∧ keeps t ∧
              Memory.read t.mem pa 8 = (amoNew op.val 64 (Memory.read s.mem pa 8) x.toNat y.toNat).1 % 2 ^ 64))

/-- Guest packets, their completion, and the guest's coherent accesses. What the guest does is an input, and that an access
for a pre-empted virtual function is malformed and fences the guest is the model's choice: log entry 14; that a full port
counts in no class is log entry 49; hidden records are log entry 59. -/
def Obligations.GuestPackets : Prop :=
  Claims.GuestPacketsAreSent ∧ Claims.GuestPacketsComplete ∧ Claims.GuestAccesses

/-- R193, R361, R363, R366, R368: what the link's events and BONCTL do: training brings the link of a guest that is there and
is permitted up at a rate and with the modules that train, and the guest's clock must rise from then on; EN 0 takes it down,
and the port refuses what was outstanding; a failure of a link that is up, a training of it that fails, and a written FENCE,
fence the guest, and a fenced guest stays fenced. -/
def Claims.BonnetLink : Prop :=
  ∀ (s : State) (b : Bonnet), b = s.bonnet →
    (∀ ok rate mods, let good := ok = true ∧ mods ≠ 0 ∧ rate ∈ ([32, 24, 16, 12, 8, 4] : List (BitVec 8))
      let may := b.fenced = false ∧ b.en = true ∧ s.modu.guestOk = true ∧ b.present = true
      (¬ may → exec (.linkTraining ok rate mods) s = .next s) ∧
      (may → good → exec (.linkTraining ok rate mods) s = .next { s with bonnet := { b with
        up := true, rate := rate, mods := mods, seen := if b.up = true then b.seen else (b.seen.1, s.cycle) } }) ∧
      (may → ¬ good → b.up = true → ∃ t, exec (.linkTraining ok rate mods) s = .next t ∧ Fenced s t 6) ∧
      (may → ¬ good → b.up = false → exec (.linkTraining ok rate mods) s = .next s)) ∧
    (∀ l1, (b.up = true → exec (.linkPowerState l1) s = .next { s with bonnet := { b with l1 := l1 } }) ∧
      (b.up = false → exec (.linkPowerState l1) s = .next s)) ∧
    (∀ x : BitVec 64, (x.getLsbD 0 = true → s.modu.guestOk = true →
        exec (.bonctlEn x) s = .next { s with bonnet := { b with en := true } }) ∧
      (x.getLsbD 0 = true → s.modu.guestOk = false → exec (.bonctlEn x) s = .next s) ∧
      (x.getLsbD 0 = false → ∃ t, exec (.bonctlEn x) s = .next t ∧ t.mem = s.mem ∧ t.nibs = s.nibs ∧ (b.fenced = true → t.ops = s.ops) ∧
        t.bonnet = { b with en := false, up := false, rate := 0, mods := 0, l1 := false } ∧ (∀ e ∈ s.agenda, e ∈ t.agenda) ∧
        (b.fenced = false → ∀ o ∈ s.ops, ∀ addr pkt vf root, o.kind = .guest addr pkt vf root .sent →
          (∃ q ∈ t.ops, q.id = o.id ∧ q.kind = .guest addr pkt vf root .refused) ∧
          ∃ c, (c, Instr.portRefusal o.id) ∈ t.agenda ∧ s.cycle ≤ c ∧ c ≤ s.cycle + 2048))) ∧
    (b.fenced = true → exec .bonctlFence s = .next s ∧ exec .linkFailure s = .next s) ∧
    (b.fenced = false → (∃ t, exec .bonctlFence s = .next t ∧ Fenced s t 7) ∧
      (b.up = true → ∃ t, exec .linkFailure s = .next t ∧ Fenced s t 6) ∧ (b.up = false → exec .linkFailure s = .next s))

/-- R171 to R173, R193, R362, R367, R368: the guest's other messages: a translation that it asks for, or the deadline of its
fault report; a fault record, which joins the coalescing table of its packet's folio; the acknowledgements that end a
deadline; and a deadline that passes fences the guest for its reason. Messages with a false clock, for a packet that is not
outstanding, and acknowledgements of what is not asked for fence the guest; that the last are malformed is the model's choice,
log entry 14. -/
def Claims.GuestDuties : Prop :=
  ∀ (s : State), s.bonnet.up = true → s.bonnet.fenced = false → (∀ e, s.isThrough e = false) →
    (∀ (id : Nat) (va : Word) (p : Fin 16) (v : Fin 17) (x : BitVec 64) (st : BitVec 32) (clk : Clk),
      let served := [Instr.translationRequest id ⟨va, clk⟩, .guestFaultRecord id ⟨va, clk⟩, .guestCompletion id st clk]
      (¬ s.TrueClock clk → ∀ i ∈ served ++ [.invalidationAck ⟨p, clk⟩, .preemptAck v ⟨x, clk⟩], ∃ t, exec i s = .next t ∧ Fenced s t 4) ∧
      (s.TrueClock clk → (∀ o, s.findOp id = some o → ∀ a b v r, o.kind ≠ .guest a b v r .sent) →
        ∀ i ∈ served, ∃ t, exec i s = .next t ∧ Fenced s t 5)) ∧
    (∀ (id : Nat) (o : Op) (addr : Word) (pkt : BitVec 512) (vf : Nat) (root : Word) (asid : BitVec 16) (p : Fin 16) (va : Word) (clk : Clk),
      s.findOp id = some o → o.kind = .guest addr pkt vf root .sent → asid = State.asidOf root → s.partOfVf (Fin.ofNat 17 vf) = some p → s.TrueClock clk →
      let walked := s.walk p root va false
      let told := { s.heard clk with told := Clk.max s.bonnet.told s.parts[p].hostLc }
      (canonical va = false → exec (.translationRequest id ⟨va, clk⟩) s = .next { s with bonnet := told }) ∧
      (canonical va = true → (∀ pa big frame home w, walked = .ok pa big frame home w →
          exec (.translationRequest id ⟨va, clk⟩) s = .next { s with bonnet := { told with
            tlb := ⟨vf, State.tlbOf asid va big frame home w⟩ :: s.bonnet.tlb } }) ∧
        (walked = .precise → exec (.translationRequest id ⟨va, clk⟩) s = .next { s with bonnet := told }) ∧
        (walked = .replay → exec (.translationRequest id ⟨va, clk⟩) s = .next { s with
          bonnet := { told with deadlines := s.bonnet.deadlines ++ [⟨3, id, va, s.cycle + 6600⟩] }
          agenda := s.agenda ++ [(s.cycle + 6600, .guestDeadline 3)] })) ∧
      ∃ t, exec (.guestFaultRecord id ⟨va, clk⟩) s = .next t ∧ t.mem = s.mem ∧ t.nibs = s.nibs ∧ t.ops = s.ops ∧
        t.bonnet = { s.heard clk with
          parked := s.bonnet.parked ++ [(va, id)]
          deadlines := s.bonnet.deadlines.filter (fun d => !(d.cause == 3 && d.what == id && d.va == va)) } ∧
        let f := State.folioOf o.nib
        let page := va.toNat % 2 ^ 52 / 2 ^ 16
        let known := ∃ c ∈ s.folios[f].coal, c.asid = asid ∧ c.page = page
        (known → t.agenda = s.agenda ∧ t.parts = s.parts ∧ t.folios[f].coal = s.folios[f].coal.map (fun c =>
          if c.asid = asid ∧ c.page = page then { c with ops := c.ops ++ [id] } else c)) ∧
        (¬ known → s.folios[f].coal.length < 64 → s.route (s.partOf o.nib) f = [] →
          t.folios[f].coal = s.folios[f].coal ++ [⟨asid, page, [id]⟩] ∧ t.parts = s.parts ∧ ∃ c, s.cycle < c ∧
            t.agenda = s.agenda ++ [(c, .faultRecord (s.partOf o.nib) va (s.nibNumber o.nib) asid (BitVec.ofNat 8 (o.stroke.val + 24)))]) ∧
        (¬ known → 64 ≤ s.folios[f].coal.length → t.folios = s.folios ∧ t.agenda = s.agenda ∧
          t.parts[s.partOf o.nib].drop = true)) ∧
    (∀ (p : Fin 16) (clk : Clk), s.TrueClock clk → ∃ t, exec (.invalidationAck ⟨p, clk⟩) s = .next t ∧
      { t with bonnet := s.bonnet } = s ∧ t.bonnet.seen = (s.heard clk).seen ∧
      (∀ e ∈ t.bonnet.tlb, e ∈ s.bonnet.tlb ∧ (e.vf = s.parts[p].vf →
        State.invHits s.parts[p].inval e.entry.asid e.entry.page e.entry.big = false)) ∧
      (∀ d ∈ t.bonnet.deadlines, d.cause ≠ 1 ∨ d.what ≠ p.val) ∧
      ∀ d ∈ s.bonnet.deadlines, d.cause ≠ 1 ∨ d.what ≠ p.val → d ∈ t.bonnet.deadlines) ∧
    (∀ (v : Fin 17) (x : BitVec 64) (clk : Clk), s.TrueClock clk →
      let out := ∃ o ∈ s.ops, ∃ addr b root way, o.kind = .guest addr b v.val root way ∧ pktField b 0 1 < 0x80
      let asked := ∃ d ∈ s.bonnet.deadlines, d.cause = 2 ∧ d.what = v.val
      (out ∨ ¬ asked → ∃ t, exec (.preemptAck v ⟨x, clk⟩) s = .next t ∧ Fenced s t 5) ∧
      (¬ out → asked → exec (.preemptAck v ⟨x, clk⟩) s = .next { s with bonnet := { s.heard clk with
        deadlines := s.bonnet.deadlines.filter (fun d => !(d.cause == 2 && d.what == v.val))
        preempted := s.bonnet.preempted ||| BitVec.twoPow 16 (v.val - 1) } })) ∧
    ∀ c : Fin 8, ((∃ d ∈ s.bonnet.deadlines, d.cause = c.val ∧ d.expiry ≤ s.cycle) → ∃ t, exec (.guestDeadline c) s = .next t ∧
        Fenced s t c.val) ∧
      ((∀ d ∈ s.bonnet.deadlines, d.cause = c.val → s.cycle < d.expiry) → exec (.guestDeadline c) s = .next s)

/-- The link to the guest, its duties and its fences. What the guest does is an input, and that an acknowledgement of what was
not asked for is malformed is the model's choice: log entry 14. -/
def Obligations.GuestLinkAndDuties : Prop :=
  Claims.BonnetLink ∧ Claims.GuestDuties

/-- R11, R369, R373, R375: a module reset, whether asked for, forced by a die at its limit, or after a recovery whose image
verifies, leaves nothing of any partition, and a good image starts the nib kernels afresh (what they are is free: log entry
10); a recovery whose image does not verify changes nothing. -/
def Claims.ModuleResets : Prop :=
  ∀ s : State, (∃ t, exec .moduleReset s = .next t ∧ WasReset s t s.modu.flash) ∧
    (∀ d, ∃ t, exec (.thermalReset d) s = .next t ∧ WasReset s t s.modu.flash) ∧
    ∀ x : BitVec 64, (s.modu.recov = true → x = 1 → Config.imageOk s.modu.window = true →
        ∃ t, exec (.recoveryControl x) s = .next t ∧ WasReset s t s.modu.window) ∧
      (s.modu.recov = false ∨ x ≠ 1 ∨ Config.imageOk s.modu.window = false → exec (.recoveryControl x) s = .next s)

/-- R369, R371, R372, R374: a die at its first limit caps the matrix clock at k = 4 until every die has cooled; a measurement
chooses the largest k from 4 to 16 that keeps the scaled power within 7,500 W and counts a window below 16; and a nonce is
answered by a signed report of the running image, the blob and `devid` once the module is ready. -/
def Claims.PowerAndAttestation : Prop :=
  (∀ (s : State) (d : Fin 32), exec (.thermalCap d) s = .next { s with modu := { s.modu with
      hot := s.modu.hot ||| BitVec.twoPow 32 d.val, therm := true, capk := 4 } } ∧
    ∃ t, exec (.thermalCapRelease d) s = .next t ∧ { t with modu := s.modu } = s ∧
      t.modu.hot = s.modu.hot &&& ~~~ BitVec.twoPow 32 d.val ∧ (t.modu.therm = true ↔ t.modu.hot ≠ 0) ∧
      t.modu.capk = (if t.modu.hot = 0 then s.modu.powerK else 4) ∧ t.modu.powerK = s.modu.powerK) ∧
  (∀ s : State, ∃ t k total matrix, exec .powerMeasurement s = .next t ∧ total = Config.measuredPower s.fresh ∧
    matrix = min total (Config.measuredPower (s.fresh + 1)) ∧ t.modu.powerK = BitVec.ofNat 8 k ∧ 4 ≤ k ∧ k ≤ 16 ∧
    (4 < k → (total - matrix) * 16 + matrix * k ≤ 7500 * 16) ∧
    (∀ j, k < j → j ≤ 16 → 7500 * 16 < (total - matrix) * 16 + matrix * j) ∧
    t.modu.capk = (if s.modu.hot = 0 then BitVec.ofNat 8 k else 4) ∧
    t.modu.capcnt = (if s.modu.hot = 0 ∧ k = 16 then s.modu.capcnt else s.modu.capcnt + 1) ∧
    t.agenda = s.agenda ++ [(s.cycle + 65536, .powerMeasurement)] ∧ t.nibs = s.nibs ∧ t.mem = s.mem) ∧
  ∀ (s : State) (x : BitVec 256),
    (s.modu.ready = true → exec (.attest x) s = .next { s with modu := { s.modu with
      nonce := x
      report := some ⟨s.modu.fwver, Config.imageDigest s.modu.flash, Config.blobDigest, devidValue, x, Config.sign s.modu.key s.modu.fwver
        (Config.imageDigest s.modu.flash) Config.blobDigest devidValue x⟩ } }) ∧
    (s.modu.ready = false → exec (.attest x) s = .next s)

/-- R296, R386: the loss of a folio takes its nibs, their operations and the wakes on their way to it, makes it unavailable,
and sends every other nib its notice within 65,536 cycles; so does the loss of another module. A loss that is known changes
nothing. -/
def Claims.LossesAreTold : Prop :=
  (∀ (s : State) (f : Fin 16), (s.folios[f].lost = true → exec (.folioLoss f) s = .next s) ∧
    (s.folios[f].lost = false → ∃ t, exec (.folioLoss f) s = .next t ∧ t.mem = s.mem ∧
      t.nibs = s.nibs.filter (fun x => State.folioOf x.1 != f) ∧ t.folios[f].lost = true ∧ t.folios[f].unavailable = true ∧
      (∀ g : Fin 16, g ≠ f → t.folios[g] = s.folios[g]) ∧
      (∀ o ∈ t.ops, o ∈ s.ops ∧ (State.folioOf o.nib ≠ f ∨ State.inTransit o = true)) ∧
      (∀ o ∈ s.ops, State.folioOf o.nib ≠ f → o ∈ t.ops) ∧
      (∀ c n id, (c, Instr.wakeAccept n id) ∈ t.agenda → State.folioOf n ≠ f) ∧
      ∀ n b, (n, b) ∈ s.nibs → State.folioOf n ≠ f → ∃ c, s.cycle ≤ c ∧ c ≤ s.cycle + 65536 ∧
        (c, .lossNotice n (s.modu.modn ++ (BitVec.ofNat 4 f.val ++ (1 : BitVec 12)))) ∈ t.agenda)) ∧
  ∀ (s : State) (x : BitVec 16), (x = s.modu.modn ∨ x ∈ s.modu.gone → exec (.moduleLoss x) s = .next s) ∧
    (x ≠ s.modu.modn → x ∉ s.modu.gone → ∃ t, exec (.moduleLoss x) s = .next t ∧ t.mem = s.mem ∧ t.nibs = s.nibs ∧ t.ops = s.ops ∧
      t.modu = { s.modu with gone := x :: s.modu.gone } ∧ ∀ n b, (n, b) ∈ s.nibs →
        ∃ c, s.cycle ≤ c ∧ c ≤ s.cycle + 65536 ∧ (c, .lossNotice n (x ++ (0 : BitVec 16))) ∈ t.agenda)

/-- Module resets, power and attestation, and losses. The sensors, the boot ROM's verdict and the report are opaque inputs,
log entries 15 and 16; what a loss takes is log entry 42; the kernels that boot starts are log entry 10. -/
def Obligations.ModuleEvents : Prop :=
  Claims.ModuleResets ∧ Claims.PowerAndAttestation ∧ Claims.LossesAreTold

/-- R344: RPLCTL with bit 0 clear, or of a virtual function without a partition, does nothing (the physical function's has
queue 0 of its own); else a replay begins at the first item of the area, and its first captured packet is issued. R312, R345:
HOSTSIG sets code 11 of `tip` of stroke 7 of the named nib of the partition, or of every one, once it has crossed the borders
in its way (R360). HOSTSIG of a function without a partition, the physical one among them, has no effect: the model's choice
(log entry 42). -/
def Claims.HostSignals : Prop :=
  ∀ (s : State) (v : Fin 17) (x : BitVec 64),
    (x.getLsbD 0 = false ∨ (v ≠ 0 ∧ s.partOfVf v = none) → exec (.rplctl v x) s = .next s) ∧
    (x.getLsbD 0 = true → v = 0 ∨ (s.partOfVf v).isSome = true → ∀ area n b, area = (x &&& ~~~ 1).toNat →
      n = Memory.read s.hostMem (area + 72) 8 → b = BitVec.ofNat 512 (Memory.read s.hostMem (area + 128) 64) →
      128 ≤ Memory.read s.hostMem (area + 8) 8 → Memory.read s.hostMem (area + 64) 1 = 1 →
      ∃ t c p, exec (.rplctl v x) s = .next t ∧ t.mem = s.mem ∧ t.nibs = s.nibs ∧ t.hostMem = s.hostMem ∧ s.cycle ≤ c ∧
        t.agenda = s.agenda ++ [(c, pktEvent b s.nextId)] ∧ (t.queue v 0).pkts = (s.queue v 0).pkts ++ [p] ∧ p.bits = b ∧
        p.id = s.nextId ∧ t.vfs[v].replay = some ⟨x &&& ~~~ 1, 128 + (n + 63) / 64 * 64, 0, some s.nextId, []⟩) ∧
    (s.partOfVf v = none → exec (.hostsig v x) s = .next s) ∧
    (∀ p n g r, s.partOfVf v = some p → s.isThrough (.hostsig v x) = false → x.getLsbD 63 = false → s.partHas p (State.folioOf n) = true →
      s.nibNumber n = x.setWidth 32 → s.owing p (State.folioOf n) false 64 = (g, 64) :: r → s.parts[p].tokens[g] < 64 →
      ∃ t o, exec (.hostsig v x) s = .next t ∧ t.nibs = s.nibs ∧ t.agenda = s.agenda ∧ o ≠ [] ∧
        t.parts[p].border = s.parts[p].border ++ [⟨1, o, [(s.cycle, .hostsig v x)], true⟩]) ∧
    ∀ p, s.partOfVf v = some p → s.NoBorders → ∃ t, exec (.hostsig v x) s = .next t ∧ t.mem = s.mem ∧ t.ops = s.ops ∧
      ∀ n : NibId,
        let named := s.partHas p (State.folioOf n) = true ∧ (x.getLsbD 63 = true ∨ s.nibNumber n = x.setWidth 32)
        (named → t.stroke n 7 = { s.stroke n 7 with ctx := { (s.stroke n 7).ctx with c := { (s.stroke n 7).ctx.c with
          tip := (s.stroke n 7).ctx.c.tip ||| BitVec.twoPow 64 11 } } }) ∧
        (¬ named → t.stroke n 7 = s.stroke n 7) ∧ ∀ k : Fin 8, k ≠ 7 → t.stroke n k = s.stroke n k

/-- R345, R346, R372 to R375, R384: what a write of the host at a BAR0 offset does: it sets the plain fields of a register or
makes the event of an action register due at once, before what was due; rows of the physical function alone are ignored
elsewhere, and in recovery only the physical function answers, with the window of the new image. A narrower write is one write
of the whole register, whose other bytes hold what they read as, with W1C bits 0. The events' order, the misaligned write, the
ring that QSIZE shrinks and the low bits of QBASE are the model's choices, log entries 35, 74 and 83. No border lies in the
way of the writes here (R360). -/
def Claims.RegistersAreWritten : Prop :=
  ∀ (s : State) (v : Fin 17) (off : BitVec 28) (x : Word), (∀ e, s.isThrough e = false) → s.NoBorders →
    let writes := fun (n : Fin 4) (a : BitVec 28) (y : Word) => exec (.registerWrite v a ⟨n, y⟩) s
    (∀ n : Fin 4, (s.modu.recov = true → v ≠ 0 → writes n off x = .next s) ∧
      (s.modu.recov = false ∨ v = 0 → ∀ q : Fin 64, (v = 0 → q = 0) → 0x20000 + 0x40 * q.val ≤ off.toNat →
        off.toNat < 0x20040 + 0x40 * q.val → writes n off x = .next (s.setQueue v q { s.queue v q with dropw := true })) ∧
      (off.toNat < 0x20000 ∨ 0x21000 ≤ off.toNat → off.toNat % 2 ^ n.val ≠ 0 → writes n off x = .next s) ∧
      (off.toNat < 0x20000 ∨ 0x21000 ≤ off.toNat → off.toNat < 0x8000000 → off.toNat % 2 ^ n.val = 0 →
        let dstat := 0x1000000 ≤ off.toNat ∧ off.toNat < 0x5000000 ∧ off.toNat % 0x400 < 0x80 ∧ off.toNat % 16 / 8 = 1
        let old := s.bar0Read v off.toNat &&& (if dstat then ~~~ 0x600 else ~~~ 0)
        ∀ y : Word, (∀ i : Fin 8, y.toNat / 2 ^ (8 * i.val) % 256 =
            if off.toNat % 8 ≤ i.val ∧ i.val < off.toNat % 8 + 2 ^ n.val then x.toNat / 2 ^ (8 * (i.val - off.toNat % 8)) % 256
            else old.toNat / 2 ^ (8 * i.val) % 256) →
          writes n off x = writes 3 (off &&& ~~~ 7) y) ∧
      (0x8000000 ≤ off.toNat → off.toNat % 2 ^ n.val = 0 → (v = 0 → s.modu.recov = true → writes n off x = .next { s with
          modu := { s.modu with window := Memory.write s.modu.window (off.toNat - 0x8000000) (2 ^ n.val) x.toNat } }) ∧
        (v ≠ 0 ∨ s.modu.recov = false → writes n off x = .next s))) ∧
    (s.modu.recov = false ∨ v = 0 → ∀ o, o = off.toNat → o % 8 = 0 →
      let becomes := fun (t : State) => writes 3 off x = .next t
      let due := fun (e : Instr) => becomes { s with agenda := (s.cycle, e) :: s.agenda }
      let nothing := becomes s
      (o = 0x800 → due (.rplctl v x)) ∧ (o = 0x810 → due (.hostsig v x)) ∧
      (∀ q : Fin 64, (v = 0 → q = 0) → let y := s.queue v q
        let at_ := 0x10000 + 0x40 * q.val
        (o = at_ → due (.qctl v q x)) ∧ (o = at_ + 0x20 → due (.qtail v q x)) ∧
        (o = at_ + 0x28 → becomes (s.setQueue v q { y with root := x })) ∧
        (o = at_ + 8 → y.en = false → becomes (s.setQueue v q { y with base := x &&& ~~~ 63 })) ∧
        (o = at_ + 8 → y.en = true → nothing) ∧
        (o = at_ + 0x10 → ∀ l, l = x.toNat % 32 →
          (y.en = false → 4 ≤ l → l ≤ 16 → ∃ z : Queue, becomes (s.setQueue v q z) ∧ z.log2 = BitVec.ofNat 5 l ∧
            z.head.toNat = y.head.toNat % 2 ^ l ∧ z.tail.toNat = y.tail.toNat % 2 ^ l ∧ z.pos = y.pos % 2 ^ l ∧
            { z with log2 := y.log2, head := y.head, tail := y.tail, pos := y.pos, loop := y.loop, inlineSlots := y.inlineSlots, inlined := y.inlined
                     pkts := y.pkts } = y ∧
            z.pkts = y.pkts.map (fun p => { p with slot := p.slot % 2 ^ l })) ∧
          (y.en = true ∨ l < 4 ∨ 16 < l → nothing)) ∧
        (o = at_ + 0x18 ∨ o = at_ + 0x30 → nothing)) ∧
      (∀ p, s.partOfVf v = some p → let y := s.parts[p]
        let reg := fun (z : Part) => becomes { s with parts := s.parts.set p z }
        (o = 0x1000 → due (.inval p x)) ∧ (o = 0x1600 → due (.tbase p x)) ∧ (o = 0x1608 → due (.tsize p x)) ∧
        (o = 0x1010 → ∀ l, l = x.toNat % 2 ^ 13 → (1 ≤ l → l ≤ 4096 → reg { y with lease := BitVec.ofNat 13 l }) ∧
          (l = 0 ∨ 4096 < l → nothing)) ∧
        (o = 0x1018 → (x.toNat % 2 ^ 13 ≤ 4096 → reg { y with ertFrame := x.extractLsb' 16 32, nexp := x.extractLsb' 0 13 }) ∧
          (4096 < x.toNat % 2 ^ 13 → nothing)) ∧
        (o = 0x1300 → ∀ l, l = x.toNat % 2 ^ 6 → (16 ≤ l → l ≤ 40 → reg { y with barwd := BitVec.ofNat 6 l }) ∧
          (l < 16 ∨ 40 < l → nothing)) ∧
        (o = 0x1618 → ∀ l, l = x.toNat % 2 ^ 6 → (l = 0 ∨ (8 ≤ l ∧ l ≤ 40) → reg { y with tsamp := BitVec.ofNat 6 l }) ∧
          ((1 ≤ l ∧ l < 8) ∨ 40 < l → nothing)) ∧
        (∀ i : Fin 64, o = 0x1400 + 8 * i.val → due (.barcfg p i x)) ∧
        (∀ e : Fin 16, let z := y.pubs[e]
          let pub := fun (w : Pub) => if z.en = true then nothing else reg { y with pubs := y.pubs.set e w }
          (o = 0x1100 + 32 * e.val → pub { z with va := x.extractLsb' 16 48 }) ∧
          (o = 0x1108 + 32 * e.val → pub { z with back0 := x.extractLsb' 16 32 }) ∧
          (o = 0x1110 + 32 * e.val → pub { z with back1 := x.extractLsb' 16 32 }) ∧ (o = 0x1118 + 32 * e.val → due (.pctl p e x))) ∧
        (∀ g : Fin 16, o = 0x1700 + 8 * g.val → (x.getLsbD 0 = true → due (.grpres p g)) ∧ (x.getLsbD 0 = false → nothing)) ∧
        (∀ i : Fin 8, o = 0x1780 + 8 * i.val → reg { y with filters := y.filters.set i (x &&& 0xFFFFFFFF0000000C) }) ∧
        (∀ i : Fin 16, o = 0x1800 + 8 * i.val → ∀ w, w = x.toNat / 2 ^ 8 % 2 ^ 5 →
          (x.getLsbD 0 = true → w = 0 ∨ 16 < w → nothing) ∧
          (x.getLsbD 0 = false ∨ (1 ≤ w ∧ w ≤ 16) → reg { y with
            fwin := y.fwin.set i ⟨x.extractLsb' 16 16, BitVec.ofNat 5 w, x.getLsbD 0⟩ })) ∧
        (o = 0x1008 ∨ o = 0x1610 → nothing)) ∧
      (0x5000000 ≤ o → v ≠ 0 → nothing) ∧
      (v = 0 → (o = 0x7000010 → due (.recoveryControl x)) ∧
        (∀ i : Fin 4, o = 0x7000100 + 8 * i.val → ∃ w : BitVec 256,
          (∀ j : Fin 4, w.extractLsb' (64 * j.val) 64 = if j = i then x else s.modu.nonce.extractLsb' (64 * j.val) 64) ∧
          becomes { s with
            modu := { s.modu with nonce := w }, agenda := if i = 3 then (s.cycle, .attest w) :: s.agenda else s.agenda }) ∧
        (o = 0x6000000 → becomes { s with
          bonnet := { s.bonnet with vfMask := x.extractLsb' 16 16 }
          agenda := [(s.cycle, .bonctlEn x)] ++ (if x.getLsbD 1 = true then [(s.cycle, .bonctlFence)] else []) ++ s.agenda })))

/-- Replays, host signals, and writes of the host's registers. Misaligned writes and the blocks of registers are log entry 35;
a ring that shrinks is log entry 74; the low bits of QBASE are log entry 83; that HOSTSIG of a function without a partition,
the physical one among them, has no effect is log entry 42. -/
def Obligations.HostRegisters : Prop :=
  Claims.HostSignals ∧ Claims.RegistersAreWritten
end

