-- ==== Sys2Proof/Laws/State.lean ====
section
/-! SUPPORT. Sys2Proof/Laws/State.lean: what the named updates of a state leave as it was, one lemma for each field and
each update. -/

namespace Sys2Proof.Machine.State

open Sys2Proof

@[simp] theorem setNib_cycle (s : State) (n : NibId) (x : Nib) :
    (s.setNib n x).cycle = s.cycle := rfl
@[simp] theorem setNib_phase (s : State) (n : NibId) (x : Nib) :
    (s.setNib n x).phase = s.phase := rfl
@[simp] theorem setNib_cur (s : State) (n : NibId) (x : Nib) :
    (s.setNib n x).cur = s.cur := rfl
@[simp] theorem setNib_turn (s : State) (n : NibId) (x : Nib) :
    (s.setNib n x).turn = s.turn := rfl
@[simp] theorem setNib_folios (s : State) (n : NibId) (x : Nib) :
    (s.setNib n x).folios = s.folios := rfl
@[simp] theorem setNib_parts (s : State) (n : NibId) (x : Nib) :
    (s.setNib n x).parts = s.parts := rfl
@[simp] theorem setNib_vfs (s : State) (n : NibId) (x : Nib) :
    (s.setNib n x).vfs = s.vfs := rfl
@[simp] theorem setNib_launches (s : State) (n : NibId) (x : Nib) :
    (s.setNib n x).launches = s.launches := rfl
@[simp] theorem setNib_modu (s : State) (n : NibId) (x : Nib) :
    (s.setNib n x).modu = s.modu := rfl
@[simp] theorem setNib_bonnet (s : State) (n : NibId) (x : Nib) :
    (s.setNib n x).bonnet = s.bonnet := rfl
@[simp] theorem setNib_mem (s : State) (n : NibId) (x : Nib) :
    (s.setNib n x).mem = s.mem := rfl
@[simp] theorem setNib_hostMem (s : State) (n : NibId) (x : Nib) :
    (s.setNib n x).hostMem = s.hostMem := rfl
@[simp] theorem setNib_full (s : State) (n : NibId) (x : Nib) :
    (s.setNib n x).full = s.full := rfl
@[simp] theorem setNib_stamps (s : State) (n : NibId) (x : Nib) :
    (s.setNib n x).stamps = s.stamps := rfl
@[simp] theorem setNib_saved (s : State) (n : NibId) (x : Nib) :
    (s.setNib n x).saved = s.saved := rfl
@[simp] theorem setNib_ops (s : State) (n : NibId) (x : Nib) :
    (s.setNib n x).ops = s.ops := rfl
@[simp] theorem setNib_agenda (s : State) (n : NibId) (x : Nib) :
    (s.setNib n x).agenda = s.agenda := rfl
@[simp] theorem setNib_fresh (s : State) (n : NibId) (x : Nib) :
    (s.setNib n x).fresh = s.fresh := rfl
@[simp] theorem setNib_nextId (s : State) (n : NibId) (x : Nib) :
    (s.setNib n x).nextId = s.nextId := rfl

@[simp] theorem modNib_cycle (s : State) (n : NibId) (f : Nib → Nib) :
    (s.modNib n f).cycle = s.cycle := rfl
@[simp] theorem modNib_phase (s : State) (n : NibId) (f : Nib → Nib) :
    (s.modNib n f).phase = s.phase := rfl
@[simp] theorem modNib_cur (s : State) (n : NibId) (f : Nib → Nib) :
    (s.modNib n f).cur = s.cur := rfl
@[simp] theorem modNib_turn (s : State) (n : NibId) (f : Nib → Nib) :
    (s.modNib n f).turn = s.turn := rfl
@[simp] theorem modNib_folios (s : State) (n : NibId) (f : Nib → Nib) :
    (s.modNib n f).folios = s.folios := rfl
@[simp] theorem modNib_parts (s : State) (n : NibId) (f : Nib → Nib) :
    (s.modNib n f).parts = s.parts := rfl
@[simp] theorem modNib_vfs (s : State) (n : NibId) (f : Nib → Nib) :
    (s.modNib n f).vfs = s.vfs := rfl
@[simp] theorem modNib_launches (s : State) (n : NibId) (f : Nib → Nib) :
    (s.modNib n f).launches = s.launches := rfl
@[simp] theorem modNib_modu (s : State) (n : NibId) (f : Nib → Nib) :
    (s.modNib n f).modu = s.modu := rfl
@[simp] theorem modNib_bonnet (s : State) (n : NibId) (f : Nib → Nib) :
    (s.modNib n f).bonnet = s.bonnet := rfl
@[simp] theorem modNib_mem (s : State) (n : NibId) (f : Nib → Nib) :
    (s.modNib n f).mem = s.mem := rfl
@[simp] theorem modNib_hostMem (s : State) (n : NibId) (f : Nib → Nib) :
    (s.modNib n f).hostMem = s.hostMem := rfl
@[simp] theorem modNib_full (s : State) (n : NibId) (f : Nib → Nib) :
    (s.modNib n f).full = s.full := rfl
@[simp] theorem modNib_stamps (s : State) (n : NibId) (f : Nib → Nib) :
    (s.modNib n f).stamps = s.stamps := rfl
@[simp] theorem modNib_saved (s : State) (n : NibId) (f : Nib → Nib) :
    (s.modNib n f).saved = s.saved := rfl
@[simp] theorem modNib_ops (s : State) (n : NibId) (f : Nib → Nib) :
    (s.modNib n f).ops = s.ops := rfl
@[simp] theorem modNib_agenda (s : State) (n : NibId) (f : Nib → Nib) :
    (s.modNib n f).agenda = s.agenda := rfl
@[simp] theorem modNib_fresh (s : State) (n : NibId) (f : Nib → Nib) :
    (s.modNib n f).fresh = s.fresh := rfl
@[simp] theorem modNib_nextId (s : State) (n : NibId) (f : Nib → Nib) :
    (s.modNib n f).nextId = s.nextId := rfl

@[simp] theorem modStroke_cycle (s : State) (n : NibId) (k : Fin 8) (f : Stroke → Stroke) :
    (s.modStroke n k f).cycle = s.cycle := rfl
@[simp] theorem modStroke_phase (s : State) (n : NibId) (k : Fin 8) (f : Stroke → Stroke) :
    (s.modStroke n k f).phase = s.phase := rfl
@[simp] theorem modStroke_cur (s : State) (n : NibId) (k : Fin 8) (f : Stroke → Stroke) :
    (s.modStroke n k f).cur = s.cur := rfl
@[simp] theorem modStroke_turn (s : State) (n : NibId) (k : Fin 8) (f : Stroke → Stroke) :
    (s.modStroke n k f).turn = s.turn := rfl
@[simp] theorem modStroke_folios (s : State) (n : NibId) (k : Fin 8) (f : Stroke → Stroke) :
    (s.modStroke n k f).folios = s.folios := rfl
@[simp] theorem modStroke_parts (s : State) (n : NibId) (k : Fin 8) (f : Stroke → Stroke) :
    (s.modStroke n k f).parts = s.parts := rfl
@[simp] theorem modStroke_vfs (s : State) (n : NibId) (k : Fin 8) (f : Stroke → Stroke) :
    (s.modStroke n k f).vfs = s.vfs := rfl
@[simp] theorem modStroke_launches (s : State) (n : NibId) (k : Fin 8) (f : Stroke → Stroke) :
    (s.modStroke n k f).launches = s.launches := rfl
@[simp] theorem modStroke_modu (s : State) (n : NibId) (k : Fin 8) (f : Stroke → Stroke) :
    (s.modStroke n k f).modu = s.modu := rfl
@[simp] theorem modStroke_bonnet (s : State) (n : NibId) (k : Fin 8) (f : Stroke → Stroke) :
    (s.modStroke n k f).bonnet = s.bonnet := rfl
@[simp] theorem modStroke_mem (s : State) (n : NibId) (k : Fin 8) (f : Stroke → Stroke) :
    (s.modStroke n k f).mem = s.mem := rfl
@[simp] theorem modStroke_hostMem (s : State) (n : NibId) (k : Fin 8) (f : Stroke → Stroke) :
    (s.modStroke n k f).hostMem = s.hostMem := rfl
@[simp] theorem modStroke_full (s : State) (n : NibId) (k : Fin 8) (f : Stroke → Stroke) :
    (s.modStroke n k f).full = s.full := rfl
@[simp] theorem modStroke_stamps (s : State) (n : NibId) (k : Fin 8) (f : Stroke → Stroke) :
    (s.modStroke n k f).stamps = s.stamps := rfl
@[simp] theorem modStroke_saved (s : State) (n : NibId) (k : Fin 8) (f : Stroke → Stroke) :
    (s.modStroke n k f).saved = s.saved := rfl
@[simp] theorem modStroke_ops (s : State) (n : NibId) (k : Fin 8) (f : Stroke → Stroke) :
    (s.modStroke n k f).ops = s.ops := rfl
@[simp] theorem modStroke_agenda (s : State) (n : NibId) (k : Fin 8) (f : Stroke → Stroke) :
    (s.modStroke n k f).agenda = s.agenda := rfl
@[simp] theorem modStroke_fresh (s : State) (n : NibId) (k : Fin 8) (f : Stroke → Stroke) :
    (s.modStroke n k f).fresh = s.fresh := rfl
@[simp] theorem modStroke_nextId (s : State) (n : NibId) (k : Fin 8) (f : Stroke → Stroke) :
    (s.modStroke n k f).nextId = s.nextId := rfl

@[simp] theorem modCtxAt_cycle (s : State) (n : NibId) (k : Fin 8) (f : Ctx → Ctx) :
    (s.modCtxAt n k f).cycle = s.cycle := rfl
@[simp] theorem modCtxAt_phase (s : State) (n : NibId) (k : Fin 8) (f : Ctx → Ctx) :
    (s.modCtxAt n k f).phase = s.phase := rfl
@[simp] theorem modCtxAt_cur (s : State) (n : NibId) (k : Fin 8) (f : Ctx → Ctx) :
    (s.modCtxAt n k f).cur = s.cur := rfl
@[simp] theorem modCtxAt_turn (s : State) (n : NibId) (k : Fin 8) (f : Ctx → Ctx) :
    (s.modCtxAt n k f).turn = s.turn := rfl
@[simp] theorem modCtxAt_folios (s : State) (n : NibId) (k : Fin 8) (f : Ctx → Ctx) :
    (s.modCtxAt n k f).folios = s.folios := rfl
@[simp] theorem modCtxAt_parts (s : State) (n : NibId) (k : Fin 8) (f : Ctx → Ctx) :
    (s.modCtxAt n k f).parts = s.parts := rfl
@[simp] theorem modCtxAt_vfs (s : State) (n : NibId) (k : Fin 8) (f : Ctx → Ctx) :
    (s.modCtxAt n k f).vfs = s.vfs := rfl
@[simp] theorem modCtxAt_launches (s : State) (n : NibId) (k : Fin 8) (f : Ctx → Ctx) :
    (s.modCtxAt n k f).launches = s.launches := rfl
@[simp] theorem modCtxAt_modu (s : State) (n : NibId) (k : Fin 8) (f : Ctx → Ctx) :
    (s.modCtxAt n k f).modu = s.modu := rfl
@[simp] theorem modCtxAt_bonnet (s : State) (n : NibId) (k : Fin 8) (f : Ctx → Ctx) :
    (s.modCtxAt n k f).bonnet = s.bonnet := rfl
@[simp] theorem modCtxAt_mem (s : State) (n : NibId) (k : Fin 8) (f : Ctx → Ctx) :
    (s.modCtxAt n k f).mem = s.mem := rfl
@[simp] theorem modCtxAt_hostMem (s : State) (n : NibId) (k : Fin 8) (f : Ctx → Ctx) :
    (s.modCtxAt n k f).hostMem = s.hostMem := rfl
@[simp] theorem modCtxAt_full (s : State) (n : NibId) (k : Fin 8) (f : Ctx → Ctx) :
    (s.modCtxAt n k f).full = s.full := rfl
@[simp] theorem modCtxAt_stamps (s : State) (n : NibId) (k : Fin 8) (f : Ctx → Ctx) :
    (s.modCtxAt n k f).stamps = s.stamps := rfl
@[simp] theorem modCtxAt_saved (s : State) (n : NibId) (k : Fin 8) (f : Ctx → Ctx) :
    (s.modCtxAt n k f).saved = s.saved := rfl
@[simp] theorem modCtxAt_ops (s : State) (n : NibId) (k : Fin 8) (f : Ctx → Ctx) :
    (s.modCtxAt n k f).ops = s.ops := rfl
@[simp] theorem modCtxAt_agenda (s : State) (n : NibId) (k : Fin 8) (f : Ctx → Ctx) :
    (s.modCtxAt n k f).agenda = s.agenda := rfl
@[simp] theorem modCtxAt_fresh (s : State) (n : NibId) (k : Fin 8) (f : Ctx → Ctx) :
    (s.modCtxAt n k f).fresh = s.fresh := rfl
@[simp] theorem modCtxAt_nextId (s : State) (n : NibId) (k : Fin 8) (f : Ctx → Ctx) :
    (s.modCtxAt n k f).nextId = s.nextId := rfl

@[simp] theorem modCtx_cycle (s : State) (f : Ctx → Ctx) :
    (s.modCtx f).cycle = s.cycle := rfl
@[simp] theorem modCtx_phase (s : State) (f : Ctx → Ctx) :
    (s.modCtx f).phase = s.phase := rfl
@[simp] theorem modCtx_cur (s : State) (f : Ctx → Ctx) :
    (s.modCtx f).cur = s.cur := rfl
@[simp] theorem modCtx_turn (s : State) (f : Ctx → Ctx) :
    (s.modCtx f).turn = s.turn := rfl
@[simp] theorem modCtx_folios (s : State) (f : Ctx → Ctx) :
    (s.modCtx f).folios = s.folios := rfl
@[simp] theorem modCtx_parts (s : State) (f : Ctx → Ctx) :
    (s.modCtx f).parts = s.parts := rfl
@[simp] theorem modCtx_vfs (s : State) (f : Ctx → Ctx) :
    (s.modCtx f).vfs = s.vfs := rfl
@[simp] theorem modCtx_launches (s : State) (f : Ctx → Ctx) :
    (s.modCtx f).launches = s.launches := rfl
@[simp] theorem modCtx_modu (s : State) (f : Ctx → Ctx) :
    (s.modCtx f).modu = s.modu := rfl
@[simp] theorem modCtx_bonnet (s : State) (f : Ctx → Ctx) :
    (s.modCtx f).bonnet = s.bonnet := rfl
@[simp] theorem modCtx_mem (s : State) (f : Ctx → Ctx) :
    (s.modCtx f).mem = s.mem := rfl
@[simp] theorem modCtx_hostMem (s : State) (f : Ctx → Ctx) :
    (s.modCtx f).hostMem = s.hostMem := rfl
@[simp] theorem modCtx_full (s : State) (f : Ctx → Ctx) :
    (s.modCtx f).full = s.full := rfl
@[simp] theorem modCtx_stamps (s : State) (f : Ctx → Ctx) :
    (s.modCtx f).stamps = s.stamps := rfl
@[simp] theorem modCtx_saved (s : State) (f : Ctx → Ctx) :
    (s.modCtx f).saved = s.saved := rfl
@[simp] theorem modCtx_ops (s : State) (f : Ctx → Ctx) :
    (s.modCtx f).ops = s.ops := rfl
@[simp] theorem modCtx_agenda (s : State) (f : Ctx → Ctx) :
    (s.modCtx f).agenda = s.agenda := rfl
@[simp] theorem modCtx_fresh (s : State) (f : Ctx → Ctx) :
    (s.modCtx f).fresh = s.fresh := rfl
@[simp] theorem modCtx_nextId (s : State) (f : Ctx → Ctx) :
    (s.modCtx f).nextId = s.nextId := rfl

@[simp] theorem land_cycle (s : State) (lat : Nat) (e : Eff) :
    (s.land lat e).cycle = s.cycle := rfl
@[simp] theorem land_phase (s : State) (lat : Nat) (e : Eff) :
    (s.land lat e).phase = s.phase := rfl
@[simp] theorem land_cur (s : State) (lat : Nat) (e : Eff) :
    (s.land lat e).cur = s.cur := rfl
@[simp] theorem land_turn (s : State) (lat : Nat) (e : Eff) :
    (s.land lat e).turn = s.turn := rfl
@[simp] theorem land_folios (s : State) (lat : Nat) (e : Eff) :
    (s.land lat e).folios = s.folios := rfl
@[simp] theorem land_parts (s : State) (lat : Nat) (e : Eff) :
    (s.land lat e).parts = s.parts := rfl
@[simp] theorem land_vfs (s : State) (lat : Nat) (e : Eff) :
    (s.land lat e).vfs = s.vfs := rfl
@[simp] theorem land_launches (s : State) (lat : Nat) (e : Eff) :
    (s.land lat e).launches = s.launches := rfl
@[simp] theorem land_modu (s : State) (lat : Nat) (e : Eff) :
    (s.land lat e).modu = s.modu := rfl
@[simp] theorem land_bonnet (s : State) (lat : Nat) (e : Eff) :
    (s.land lat e).bonnet = s.bonnet := rfl
@[simp] theorem land_mem (s : State) (lat : Nat) (e : Eff) :
    (s.land lat e).mem = s.mem := rfl
@[simp] theorem land_hostMem (s : State) (lat : Nat) (e : Eff) :
    (s.land lat e).hostMem = s.hostMem := rfl
@[simp] theorem land_full (s : State) (lat : Nat) (e : Eff) :
    (s.land lat e).full = s.full := rfl
@[simp] theorem land_stamps (s : State) (lat : Nat) (e : Eff) :
    (s.land lat e).stamps = s.stamps := rfl
@[simp] theorem land_saved (s : State) (lat : Nat) (e : Eff) :
    (s.land lat e).saved = s.saved := rfl
@[simp] theorem land_ops (s : State) (lat : Nat) (e : Eff) :
    (s.land lat e).ops = s.ops := rfl
@[simp] theorem land_agenda (s : State) (lat : Nat) (e : Eff) :
    (s.land lat e).agenda = s.agenda := rfl
@[simp] theorem land_fresh (s : State) (lat : Nat) (e : Eff) :
    (s.land lat e).fresh = s.fresh := rfl
@[simp] theorem land_nextId (s : State) (lat : Nat) (e : Eff) :
    (s.land lat e).nextId = s.nextId := rfl

@[simp] theorem landG_cycle (s : State) (lat : Nat) (d : Fin 32) (x : Word) :
    (s.landG lat d x).cycle = s.cycle := by
  unfold landG; split <;> simp
@[simp] theorem landG_phase (s : State) (lat : Nat) (d : Fin 32) (x : Word) :
    (s.landG lat d x).phase = s.phase := by
  unfold landG; split <;> simp
@[simp] theorem landG_cur (s : State) (lat : Nat) (d : Fin 32) (x : Word) :
    (s.landG lat d x).cur = s.cur := by
  unfold landG; split <;> simp
@[simp] theorem landG_turn (s : State) (lat : Nat) (d : Fin 32) (x : Word) :
    (s.landG lat d x).turn = s.turn := by
  unfold landG; split <;> simp
@[simp] theorem landG_folios (s : State) (lat : Nat) (d : Fin 32) (x : Word) :
    (s.landG lat d x).folios = s.folios := by
  unfold landG; split <;> simp
@[simp] theorem landG_parts (s : State) (lat : Nat) (d : Fin 32) (x : Word) :
    (s.landG lat d x).parts = s.parts := by
  unfold landG; split <;> simp
@[simp] theorem landG_vfs (s : State) (lat : Nat) (d : Fin 32) (x : Word) :
    (s.landG lat d x).vfs = s.vfs := by
  unfold landG; split <;> simp
@[simp] theorem landG_launches (s : State) (lat : Nat) (d : Fin 32) (x : Word) :
    (s.landG lat d x).launches = s.launches := by
  unfold landG; split <;> simp
@[simp] theorem landG_modu (s : State) (lat : Nat) (d : Fin 32) (x : Word) :
    (s.landG lat d x).modu = s.modu := by
  unfold landG; split <;> simp
@[simp] theorem landG_bonnet (s : State) (lat : Nat) (d : Fin 32) (x : Word) :
    (s.landG lat d x).bonnet = s.bonnet := by
  unfold landG; split <;> simp
@[simp] theorem landG_mem (s : State) (lat : Nat) (d : Fin 32) (x : Word) :
    (s.landG lat d x).mem = s.mem := by
  unfold landG; split <;> simp
@[simp] theorem landG_hostMem (s : State) (lat : Nat) (d : Fin 32) (x : Word) :
    (s.landG lat d x).hostMem = s.hostMem := by
  unfold landG; split <;> simp
@[simp] theorem landG_full (s : State) (lat : Nat) (d : Fin 32) (x : Word) :
    (s.landG lat d x).full = s.full := by
  unfold landG; split <;> simp
@[simp] theorem landG_stamps (s : State) (lat : Nat) (d : Fin 32) (x : Word) :
    (s.landG lat d x).stamps = s.stamps := by
  unfold landG; split <;> simp
@[simp] theorem landG_saved (s : State) (lat : Nat) (d : Fin 32) (x : Word) :
    (s.landG lat d x).saved = s.saved := by
  unfold landG; split <;> simp
@[simp] theorem landG_ops (s : State) (lat : Nat) (d : Fin 32) (x : Word) :
    (s.landG lat d x).ops = s.ops := by
  unfold landG; split <;> simp
@[simp] theorem landG_agenda (s : State) (lat : Nat) (d : Fin 32) (x : Word) :
    (s.landG lat d x).agenda = s.agenda := by
  unfold landG; split <;> simp
@[simp] theorem landG_fresh (s : State) (lat : Nat) (d : Fin 32) (x : Word) :
    (s.landG lat d x).fresh = s.fresh := by
  unfold landG; split <;> simp
@[simp] theorem landG_nextId (s : State) (lat : Nat) (d : Fin 32) (x : Word) :
    (s.landG lat d x).nextId = s.nextId := by
  unfold landG; split <;> simp

@[simp] theorem landV_cycle (s : State) (lat : Nat) (d : Fin 32) (x : Vec) :
    (s.landV lat d x).cycle = s.cycle := rfl
@[simp] theorem landV_phase (s : State) (lat : Nat) (d : Fin 32) (x : Vec) :
    (s.landV lat d x).phase = s.phase := rfl
@[simp] theorem landV_cur (s : State) (lat : Nat) (d : Fin 32) (x : Vec) :
    (s.landV lat d x).cur = s.cur := rfl
@[simp] theorem landV_turn (s : State) (lat : Nat) (d : Fin 32) (x : Vec) :
    (s.landV lat d x).turn = s.turn := rfl
@[simp] theorem landV_folios (s : State) (lat : Nat) (d : Fin 32) (x : Vec) :
    (s.landV lat d x).folios = s.folios := rfl
@[simp] theorem landV_parts (s : State) (lat : Nat) (d : Fin 32) (x : Vec) :
    (s.landV lat d x).parts = s.parts := rfl
@[simp] theorem landV_vfs (s : State) (lat : Nat) (d : Fin 32) (x : Vec) :
    (s.landV lat d x).vfs = s.vfs := rfl
@[simp] theorem landV_launches (s : State) (lat : Nat) (d : Fin 32) (x : Vec) :
    (s.landV lat d x).launches = s.launches := rfl
@[simp] theorem landV_modu (s : State) (lat : Nat) (d : Fin 32) (x : Vec) :
    (s.landV lat d x).modu = s.modu := rfl
@[simp] theorem landV_bonnet (s : State) (lat : Nat) (d : Fin 32) (x : Vec) :
    (s.landV lat d x).bonnet = s.bonnet := rfl
@[simp] theorem landV_mem (s : State) (lat : Nat) (d : Fin 32) (x : Vec) :
    (s.landV lat d x).mem = s.mem := rfl
@[simp] theorem landV_hostMem (s : State) (lat : Nat) (d : Fin 32) (x : Vec) :
    (s.landV lat d x).hostMem = s.hostMem := rfl
@[simp] theorem landV_full (s : State) (lat : Nat) (d : Fin 32) (x : Vec) :
    (s.landV lat d x).full = s.full := rfl
@[simp] theorem landV_stamps (s : State) (lat : Nat) (d : Fin 32) (x : Vec) :
    (s.landV lat d x).stamps = s.stamps := rfl
@[simp] theorem landV_saved (s : State) (lat : Nat) (d : Fin 32) (x : Vec) :
    (s.landV lat d x).saved = s.saved := rfl
@[simp] theorem landV_ops (s : State) (lat : Nat) (d : Fin 32) (x : Vec) :
    (s.landV lat d x).ops = s.ops := rfl
@[simp] theorem landV_agenda (s : State) (lat : Nat) (d : Fin 32) (x : Vec) :
    (s.landV lat d x).agenda = s.agenda := rfl
@[simp] theorem landV_fresh (s : State) (lat : Nat) (d : Fin 32) (x : Vec) :
    (s.landV lat d x).fresh = s.fresh := rfl
@[simp] theorem landV_nextId (s : State) (lat : Nat) (d : Fin 32) (x : Vec) :
    (s.landV lat d x).nextId = s.nextId := rfl

@[simp] theorem landP_cycle (s : State) (lat : Nat) (d : Fin 8) (x : Pred) :
    (s.landP lat d x).cycle = s.cycle := by
  unfold landP; split <;> simp
@[simp] theorem landP_phase (s : State) (lat : Nat) (d : Fin 8) (x : Pred) :
    (s.landP lat d x).phase = s.phase := by
  unfold landP; split <;> simp
@[simp] theorem landP_cur (s : State) (lat : Nat) (d : Fin 8) (x : Pred) :
    (s.landP lat d x).cur = s.cur := by
  unfold landP; split <;> simp
@[simp] theorem landP_turn (s : State) (lat : Nat) (d : Fin 8) (x : Pred) :
    (s.landP lat d x).turn = s.turn := by
  unfold landP; split <;> simp
@[simp] theorem landP_folios (s : State) (lat : Nat) (d : Fin 8) (x : Pred) :
    (s.landP lat d x).folios = s.folios := by
  unfold landP; split <;> simp
@[simp] theorem landP_parts (s : State) (lat : Nat) (d : Fin 8) (x : Pred) :
    (s.landP lat d x).parts = s.parts := by
  unfold landP; split <;> simp
@[simp] theorem landP_vfs (s : State) (lat : Nat) (d : Fin 8) (x : Pred) :
    (s.landP lat d x).vfs = s.vfs := by
  unfold landP; split <;> simp
@[simp] theorem landP_launches (s : State) (lat : Nat) (d : Fin 8) (x : Pred) :
    (s.landP lat d x).launches = s.launches := by
  unfold landP; split <;> simp
@[simp] theorem landP_modu (s : State) (lat : Nat) (d : Fin 8) (x : Pred) :
    (s.landP lat d x).modu = s.modu := by
  unfold landP; split <;> simp
@[simp] theorem landP_bonnet (s : State) (lat : Nat) (d : Fin 8) (x : Pred) :
    (s.landP lat d x).bonnet = s.bonnet := by
  unfold landP; split <;> simp
@[simp] theorem landP_mem (s : State) (lat : Nat) (d : Fin 8) (x : Pred) :
    (s.landP lat d x).mem = s.mem := by
  unfold landP; split <;> simp
@[simp] theorem landP_hostMem (s : State) (lat : Nat) (d : Fin 8) (x : Pred) :
    (s.landP lat d x).hostMem = s.hostMem := by
  unfold landP; split <;> simp
@[simp] theorem landP_full (s : State) (lat : Nat) (d : Fin 8) (x : Pred) :
    (s.landP lat d x).full = s.full := by
  unfold landP; split <;> simp
@[simp] theorem landP_stamps (s : State) (lat : Nat) (d : Fin 8) (x : Pred) :
    (s.landP lat d x).stamps = s.stamps := by
  unfold landP; split <;> simp
@[simp] theorem landP_saved (s : State) (lat : Nat) (d : Fin 8) (x : Pred) :
    (s.landP lat d x).saved = s.saved := by
  unfold landP; split <;> simp
@[simp] theorem landP_ops (s : State) (lat : Nat) (d : Fin 8) (x : Pred) :
    (s.landP lat d x).ops = s.ops := by
  unfold landP; split <;> simp
@[simp] theorem landP_agenda (s : State) (lat : Nat) (d : Fin 8) (x : Pred) :
    (s.landP lat d x).agenda = s.agenda := by
  unfold landP; split <;> simp
@[simp] theorem landP_fresh (s : State) (lat : Nat) (d : Fin 8) (x : Pred) :
    (s.landP lat d x).fresh = s.fresh := by
  unfold landP; split <;> simp
@[simp] theorem landP_nextId (s : State) (lat : Nat) (d : Fin 8) (x : Pred) :
    (s.landP lat d x).nextId = s.nextId := by
  unfold landP; split <;> simp

@[simp] theorem landEv_cycle (s : State) (e : BitVec 8) :
    (s.landEv e).cycle = s.cycle := by
  unfold landEv; split <;> simp
@[simp] theorem landEv_phase (s : State) (e : BitVec 8) :
    (s.landEv e).phase = s.phase := by
  unfold landEv; split <;> simp
@[simp] theorem landEv_cur (s : State) (e : BitVec 8) :
    (s.landEv e).cur = s.cur := by
  unfold landEv; split <;> simp
@[simp] theorem landEv_turn (s : State) (e : BitVec 8) :
    (s.landEv e).turn = s.turn := by
  unfold landEv; split <;> simp
@[simp] theorem landEv_folios (s : State) (e : BitVec 8) :
    (s.landEv e).folios = s.folios := by
  unfold landEv; split <;> simp
@[simp] theorem landEv_parts (s : State) (e : BitVec 8) :
    (s.landEv e).parts = s.parts := by
  unfold landEv; split <;> simp
@[simp] theorem landEv_vfs (s : State) (e : BitVec 8) :
    (s.landEv e).vfs = s.vfs := by
  unfold landEv; split <;> simp
@[simp] theorem landEv_launches (s : State) (e : BitVec 8) :
    (s.landEv e).launches = s.launches := by
  unfold landEv; split <;> simp
@[simp] theorem landEv_modu (s : State) (e : BitVec 8) :
    (s.landEv e).modu = s.modu := by
  unfold landEv; split <;> simp
@[simp] theorem landEv_bonnet (s : State) (e : BitVec 8) :
    (s.landEv e).bonnet = s.bonnet := by
  unfold landEv; split <;> simp
@[simp] theorem landEv_mem (s : State) (e : BitVec 8) :
    (s.landEv e).mem = s.mem := by
  unfold landEv; split <;> simp
@[simp] theorem landEv_hostMem (s : State) (e : BitVec 8) :
    (s.landEv e).hostMem = s.hostMem := by
  unfold landEv; split <;> simp
@[simp] theorem landEv_full (s : State) (e : BitVec 8) :
    (s.landEv e).full = s.full := by
  unfold landEv; split <;> simp
@[simp] theorem landEv_stamps (s : State) (e : BitVec 8) :
    (s.landEv e).stamps = s.stamps := by
  unfold landEv; split <;> simp
@[simp] theorem landEv_saved (s : State) (e : BitVec 8) :
    (s.landEv e).saved = s.saved := by
  unfold landEv; split <;> simp
@[simp] theorem landEv_ops (s : State) (e : BitVec 8) :
    (s.landEv e).ops = s.ops := by
  unfold landEv; split <;> simp
@[simp] theorem landEv_agenda (s : State) (e : BitVec 8) :
    (s.landEv e).agenda = s.agenda := by
  unfold landEv; split <;> simp
@[simp] theorem landEv_fresh (s : State) (e : BitVec 8) :
    (s.landEv e).fresh = s.fresh := by
  unfold landEv; split <;> simp
@[simp] theorem landEv_nextId (s : State) (e : BitVec 8) :
    (s.landEv e).nextId = s.nextId := by
  unfold landEv; split <;> simp

@[simp] theorem modSeq_cycle (s : State) (q : Seq) (f : SeqSt → SeqSt) :
    (s.modSeq q f).cycle = s.cycle := by
  unfold modSeq; split
  · simp
  · split <;> simp
@[simp] theorem modSeq_phase (s : State) (q : Seq) (f : SeqSt → SeqSt) :
    (s.modSeq q f).phase = s.phase := by
  unfold modSeq; split
  · simp
  · split <;> simp
@[simp] theorem modSeq_cur (s : State) (q : Seq) (f : SeqSt → SeqSt) :
    (s.modSeq q f).cur = s.cur := by
  unfold modSeq; split
  · simp
  · split <;> simp
@[simp] theorem modSeq_folios (s : State) (q : Seq) (f : SeqSt → SeqSt) :
    (s.modSeq q f).folios = s.folios := by
  unfold modSeq; split
  · simp
  · split <;> simp
@[simp] theorem modSeq_parts (s : State) (q : Seq) (f : SeqSt → SeqSt) :
    (s.modSeq q f).parts = s.parts := by
  unfold modSeq; split
  · simp
  · split <;> simp
@[simp] theorem modSeq_vfs (s : State) (q : Seq) (f : SeqSt → SeqSt) :
    (s.modSeq q f).vfs = s.vfs := by
  unfold modSeq; split
  · simp
  · split <;> simp
@[simp] theorem modSeq_launches (s : State) (q : Seq) (f : SeqSt → SeqSt) :
    (s.modSeq q f).launches = s.launches := by
  unfold modSeq; split
  · simp
  · split <;> simp
@[simp] theorem modSeq_modu (s : State) (q : Seq) (f : SeqSt → SeqSt) :
    (s.modSeq q f).modu = s.modu := by
  unfold modSeq; split
  · simp
  · split <;> simp
@[simp] theorem modSeq_bonnet (s : State) (q : Seq) (f : SeqSt → SeqSt) :
    (s.modSeq q f).bonnet = s.bonnet := by
  unfold modSeq; split
  · simp
  · split <;> simp
@[simp] theorem modSeq_mem (s : State) (q : Seq) (f : SeqSt → SeqSt) :
    (s.modSeq q f).mem = s.mem := by
  unfold modSeq; split
  · simp
  · split <;> simp
@[simp] theorem modSeq_hostMem (s : State) (q : Seq) (f : SeqSt → SeqSt) :
    (s.modSeq q f).hostMem = s.hostMem := by
  unfold modSeq; split
  · simp
  · split <;> simp
@[simp] theorem modSeq_full (s : State) (q : Seq) (f : SeqSt → SeqSt) :
    (s.modSeq q f).full = s.full := by
  unfold modSeq; split
  · simp
  · split <;> simp
@[simp] theorem modSeq_stamps (s : State) (q : Seq) (f : SeqSt → SeqSt) :
    (s.modSeq q f).stamps = s.stamps := by
  unfold modSeq; split
  · simp
  · split <;> simp
@[simp] theorem modSeq_saved (s : State) (q : Seq) (f : SeqSt → SeqSt) :
    (s.modSeq q f).saved = s.saved := by
  unfold modSeq; split
  · simp
  · split <;> simp
@[simp] theorem modSeq_ops (s : State) (q : Seq) (f : SeqSt → SeqSt) :
    (s.modSeq q f).ops = s.ops := by
  unfold modSeq; split
  · simp
  · split <;> simp
@[simp] theorem modSeq_agenda (s : State) (q : Seq) (f : SeqSt → SeqSt) :
    (s.modSeq q f).agenda = s.agenda := by
  unfold modSeq; split
  · simp
  · split <;> simp
@[simp] theorem modSeq_fresh (s : State) (q : Seq) (f : SeqSt → SeqSt) :
    (s.modSeq q f).fresh = s.fresh := by
  unfold modSeq; split
  · simp
  · split <;> simp
@[simp] theorem modSeq_nextId (s : State) (q : Seq) (f : SeqSt → SeqSt) :
    (s.modSeq q f).nextId = s.nextId := by
  unfold modSeq; split
  · simp
  · split <;> simp

@[simp] theorem setLc_cycle (s : State) (x : Clk) :
    (s.setLc x).cycle = s.cycle := by
  simp [setLc]
@[simp] theorem setLc_phase (s : State) (x : Clk) :
    (s.setLc x).phase = s.phase := by
  simp [setLc]
@[simp] theorem setLc_cur (s : State) (x : Clk) :
    (s.setLc x).cur = s.cur := by
  simp [setLc]
@[simp] theorem setLc_folios (s : State) (x : Clk) :
    (s.setLc x).folios = s.folios := by
  simp [setLc]
@[simp] theorem setLc_parts (s : State) (x : Clk) :
    (s.setLc x).parts = s.parts := by
  simp [setLc]
@[simp] theorem setLc_vfs (s : State) (x : Clk) :
    (s.setLc x).vfs = s.vfs := by
  simp [setLc]
@[simp] theorem setLc_launches (s : State) (x : Clk) :
    (s.setLc x).launches = s.launches := by
  simp [setLc]
@[simp] theorem setLc_modu (s : State) (x : Clk) :
    (s.setLc x).modu = s.modu := by
  simp [setLc]
@[simp] theorem setLc_bonnet (s : State) (x : Clk) :
    (s.setLc x).bonnet = s.bonnet := by
  simp [setLc]
@[simp] theorem setLc_mem (s : State) (x : Clk) :
    (s.setLc x).mem = s.mem := by
  simp [setLc]
@[simp] theorem setLc_hostMem (s : State) (x : Clk) :
    (s.setLc x).hostMem = s.hostMem := by
  simp [setLc]
@[simp] theorem setLc_full (s : State) (x : Clk) :
    (s.setLc x).full = s.full := by
  simp [setLc]
@[simp] theorem setLc_stamps (s : State) (x : Clk) :
    (s.setLc x).stamps = s.stamps := by
  simp [setLc]
@[simp] theorem setLc_saved (s : State) (x : Clk) :
    (s.setLc x).saved = s.saved := by
  simp [setLc]
@[simp] theorem setLc_ops (s : State) (x : Clk) :
    (s.setLc x).ops = s.ops := by
  simp [setLc]
@[simp] theorem setLc_agenda (s : State) (x : Clk) :
    (s.setLc x).agenda = s.agenda := by
  simp [setLc]
@[simp] theorem setLc_fresh (s : State) (x : Clk) :
    (s.setLc x).fresh = s.fresh := by
  simp [setLc]
@[simp] theorem setLc_nextId (s : State) (x : Clk) :
    (s.setLc x).nextId = s.nextId := by
  simp [setLc]

@[simp] theorem waitMsg_cycle (s : State) :
    (s.waitMsg).cycle = s.cycle := rfl
@[simp] theorem waitMsg_phase (s : State) :
    (s.waitMsg).phase = s.phase := rfl
@[simp] theorem waitMsg_cur (s : State) :
    (s.waitMsg).cur = s.cur := rfl
@[simp] theorem waitMsg_nibs (s : State) :
    (s.waitMsg).nibs = s.nibs := rfl
@[simp] theorem waitMsg_folios (s : State) :
    (s.waitMsg).folios = s.folios := rfl
@[simp] theorem waitMsg_parts (s : State) :
    (s.waitMsg).parts = s.parts := rfl
@[simp] theorem waitMsg_vfs (s : State) :
    (s.waitMsg).vfs = s.vfs := rfl
@[simp] theorem waitMsg_launches (s : State) :
    (s.waitMsg).launches = s.launches := rfl
@[simp] theorem waitMsg_modu (s : State) :
    (s.waitMsg).modu = s.modu := rfl
@[simp] theorem waitMsg_bonnet (s : State) :
    (s.waitMsg).bonnet = s.bonnet := rfl
@[simp] theorem waitMsg_mem (s : State) :
    (s.waitMsg).mem = s.mem := rfl
@[simp] theorem waitMsg_hostMem (s : State) :
    (s.waitMsg).hostMem = s.hostMem := rfl
@[simp] theorem waitMsg_full (s : State) :
    (s.waitMsg).full = s.full := rfl
@[simp] theorem waitMsg_stamps (s : State) :
    (s.waitMsg).stamps = s.stamps := rfl
@[simp] theorem waitMsg_saved (s : State) :
    (s.waitMsg).saved = s.saved := rfl
@[simp] theorem waitMsg_ops (s : State) :
    (s.waitMsg).ops = s.ops := rfl
@[simp] theorem waitMsg_agenda (s : State) :
    (s.waitMsg).agenda = s.agenda := rfl
@[simp] theorem waitMsg_fresh (s : State) :
    (s.waitMsg).fresh = s.fresh := rfl
@[simp] theorem waitMsg_nextId (s : State) :
    (s.waitMsg).nextId = s.nextId := rfl

@[simp] theorem waitMem_cycle (s : State) :
    (s.waitMem).cycle = s.cycle := rfl
@[simp] theorem waitMem_phase (s : State) :
    (s.waitMem).phase = s.phase := rfl
@[simp] theorem waitMem_cur (s : State) :
    (s.waitMem).cur = s.cur := rfl
@[simp] theorem waitMem_nibs (s : State) :
    (s.waitMem).nibs = s.nibs := rfl
@[simp] theorem waitMem_folios (s : State) :
    (s.waitMem).folios = s.folios := rfl
@[simp] theorem waitMem_parts (s : State) :
    (s.waitMem).parts = s.parts := rfl
@[simp] theorem waitMem_vfs (s : State) :
    (s.waitMem).vfs = s.vfs := rfl
@[simp] theorem waitMem_launches (s : State) :
    (s.waitMem).launches = s.launches := rfl
@[simp] theorem waitMem_modu (s : State) :
    (s.waitMem).modu = s.modu := rfl
@[simp] theorem waitMem_bonnet (s : State) :
    (s.waitMem).bonnet = s.bonnet := rfl
@[simp] theorem waitMem_mem (s : State) :
    (s.waitMem).mem = s.mem := rfl
@[simp] theorem waitMem_hostMem (s : State) :
    (s.waitMem).hostMem = s.hostMem := rfl
@[simp] theorem waitMem_full (s : State) :
    (s.waitMem).full = s.full := rfl
@[simp] theorem waitMem_stamps (s : State) :
    (s.waitMem).stamps = s.stamps := rfl
@[simp] theorem waitMem_saved (s : State) :
    (s.waitMem).saved = s.saved := rfl
@[simp] theorem waitMem_ops (s : State) :
    (s.waitMem).ops = s.ops := rfl
@[simp] theorem waitMem_agenda (s : State) :
    (s.waitMem).agenda = s.agenda := rfl
@[simp] theorem waitMem_fresh (s : State) :
    (s.waitMem).fresh = s.fresh := rfl
@[simp] theorem waitMem_nextId (s : State) :
    (s.waitMem).nextId = s.nextId := rfl

@[simp] theorem markIssued_cycle (s : State) :
    (s.markIssued).cycle = s.cycle := rfl
@[simp] theorem markIssued_phase (s : State) :
    (s.markIssued).phase = s.phase := rfl
@[simp] theorem markIssued_cur (s : State) :
    (s.markIssued).cur = s.cur := rfl
@[simp] theorem markIssued_nibs (s : State) :
    (s.markIssued).nibs = s.nibs := rfl
@[simp] theorem markIssued_folios (s : State) :
    (s.markIssued).folios = s.folios := rfl
@[simp] theorem markIssued_parts (s : State) :
    (s.markIssued).parts = s.parts := rfl
@[simp] theorem markIssued_vfs (s : State) :
    (s.markIssued).vfs = s.vfs := rfl
@[simp] theorem markIssued_launches (s : State) :
    (s.markIssued).launches = s.launches := rfl
@[simp] theorem markIssued_modu (s : State) :
    (s.markIssued).modu = s.modu := rfl
@[simp] theorem markIssued_bonnet (s : State) :
    (s.markIssued).bonnet = s.bonnet := rfl
@[simp] theorem markIssued_mem (s : State) :
    (s.markIssued).mem = s.mem := rfl
@[simp] theorem markIssued_hostMem (s : State) :
    (s.markIssued).hostMem = s.hostMem := rfl
@[simp] theorem markIssued_full (s : State) :
    (s.markIssued).full = s.full := rfl
@[simp] theorem markIssued_stamps (s : State) :
    (s.markIssued).stamps = s.stamps := rfl
@[simp] theorem markIssued_saved (s : State) :
    (s.markIssued).saved = s.saved := rfl
@[simp] theorem markIssued_ops (s : State) :
    (s.markIssued).ops = s.ops := rfl
@[simp] theorem markIssued_agenda (s : State) :
    (s.markIssued).agenda = s.agenda := rfl
@[simp] theorem markIssued_fresh (s : State) :
    (s.markIssued).fresh = s.fresh := rfl
@[simp] theorem markIssued_nextId (s : State) :
    (s.markIssued).nextId = s.nextId := rfl

@[simp] theorem goTo_cycle (s : State) (f : Found) (extra : Nat) :
    (s.goTo f extra).cycle = s.cycle := by
  simp [goTo]
@[simp] theorem goTo_phase (s : State) (f : Found) (extra : Nat) :
    (s.goTo f extra).phase = s.phase := by
  simp [goTo]
@[simp] theorem goTo_cur (s : State) (f : Found) (extra : Nat) :
    (s.goTo f extra).cur = s.cur := by
  simp [goTo]
@[simp] theorem goTo_folios (s : State) (f : Found) (extra : Nat) :
    (s.goTo f extra).folios = s.folios := by
  simp [goTo]
@[simp] theorem goTo_parts (s : State) (f : Found) (extra : Nat) :
    (s.goTo f extra).parts = s.parts := by
  simp [goTo]
@[simp] theorem goTo_vfs (s : State) (f : Found) (extra : Nat) :
    (s.goTo f extra).vfs = s.vfs := by
  simp [goTo]
@[simp] theorem goTo_launches (s : State) (f : Found) (extra : Nat) :
    (s.goTo f extra).launches = s.launches := by
  simp [goTo]
@[simp] theorem goTo_modu (s : State) (f : Found) (extra : Nat) :
    (s.goTo f extra).modu = s.modu := by
  simp [goTo]
@[simp] theorem goTo_bonnet (s : State) (f : Found) (extra : Nat) :
    (s.goTo f extra).bonnet = s.bonnet := by
  simp [goTo]
@[simp] theorem goTo_mem (s : State) (f : Found) (extra : Nat) :
    (s.goTo f extra).mem = s.mem := by
  simp [goTo]
@[simp] theorem goTo_hostMem (s : State) (f : Found) (extra : Nat) :
    (s.goTo f extra).hostMem = s.hostMem := by
  simp [goTo]
@[simp] theorem goTo_full (s : State) (f : Found) (extra : Nat) :
    (s.goTo f extra).full = s.full := by
  simp [goTo]
@[simp] theorem goTo_stamps (s : State) (f : Found) (extra : Nat) :
    (s.goTo f extra).stamps = s.stamps := by
  simp [goTo]
@[simp] theorem goTo_saved (s : State) (f : Found) (extra : Nat) :
    (s.goTo f extra).saved = s.saved := by
  simp [goTo]
@[simp] theorem goTo_ops (s : State) (f : Found) (extra : Nat) :
    (s.goTo f extra).ops = s.ops := by
  simp [goTo]
@[simp] theorem goTo_agenda (s : State) (f : Found) (extra : Nat) :
    (s.goTo f extra).agenda = s.agenda := by
  simp [goTo]
@[simp] theorem goTo_fresh (s : State) (f : Found) (extra : Nat) :
    (s.goTo f extra).fresh = s.fresh := by
  simp [goTo]
@[simp] theorem goTo_nextId (s : State) (f : Found) (extra : Nat) :
    (s.goTo f extra).nextId = s.nextId := by
  simp [goTo]

@[simp] theorem retire_cycle (s : State) :
    (s.retire).cycle = s.cycle := by
  simp [retire]
@[simp] theorem retire_phase (s : State) :
    (s.retire).phase = s.phase := by
  simp [retire]
@[simp] theorem retire_cur (s : State) :
    (s.retire).cur = s.cur := by
  simp [retire]
@[simp] theorem retire_folios (s : State) :
    (s.retire).folios = s.folios := by
  simp [retire]
@[simp] theorem retire_parts (s : State) :
    (s.retire).parts = s.parts := by
  simp [retire]
@[simp] theorem retire_vfs (s : State) :
    (s.retire).vfs = s.vfs := by
  simp [retire]
@[simp] theorem retire_launches (s : State) :
    (s.retire).launches = s.launches := by
  simp [retire]
@[simp] theorem retire_modu (s : State) :
    (s.retire).modu = s.modu := by
  simp [retire]
@[simp] theorem retire_bonnet (s : State) :
    (s.retire).bonnet = s.bonnet := by
  simp [retire]
@[simp] theorem retire_mem (s : State) :
    (s.retire).mem = s.mem := by
  simp [retire]
@[simp] theorem retire_hostMem (s : State) :
    (s.retire).hostMem = s.hostMem := by
  simp [retire]
@[simp] theorem retire_full (s : State) :
    (s.retire).full = s.full := by
  simp [retire]
@[simp] theorem retire_stamps (s : State) :
    (s.retire).stamps = s.stamps := by
  simp [retire]
@[simp] theorem retire_saved (s : State) :
    (s.retire).saved = s.saved := by
  simp [retire]
@[simp] theorem retire_ops (s : State) :
    (s.retire).ops = s.ops := by
  simp [retire]
@[simp] theorem retire_agenda (s : State) :
    (s.retire).agenda = s.agenda := by
  simp [retire]
@[simp] theorem retire_fresh (s : State) :
    (s.retire).fresh = s.fresh := by
  simp [retire]
@[simp] theorem retire_nextId (s : State) :
    (s.retire).nextId = s.nextId := by
  simp [retire]

@[simp] theorem undoReturn_cycle (s : State) :
    (s.undoReturn).cycle = s.cycle := by
  unfold undoReturn; split <;> simp
@[simp] theorem undoReturn_phase (s : State) :
    (s.undoReturn).phase = s.phase := by
  unfold undoReturn; split <;> simp
@[simp] theorem undoReturn_cur (s : State) :
    (s.undoReturn).cur = s.cur := by
  unfold undoReturn; split <;> simp
@[simp] theorem undoReturn_folios (s : State) :
    (s.undoReturn).folios = s.folios := by
  unfold undoReturn; split <;> simp
@[simp] theorem undoReturn_parts (s : State) :
    (s.undoReturn).parts = s.parts := by
  unfold undoReturn; split <;> simp
@[simp] theorem undoReturn_vfs (s : State) :
    (s.undoReturn).vfs = s.vfs := by
  unfold undoReturn; split <;> simp
@[simp] theorem undoReturn_launches (s : State) :
    (s.undoReturn).launches = s.launches := by
  unfold undoReturn; split <;> simp
@[simp] theorem undoReturn_modu (s : State) :
    (s.undoReturn).modu = s.modu := by
  unfold undoReturn; split <;> simp
@[simp] theorem undoReturn_bonnet (s : State) :
    (s.undoReturn).bonnet = s.bonnet := by
  unfold undoReturn; split <;> simp
@[simp] theorem undoReturn_mem (s : State) :
    (s.undoReturn).mem = s.mem := by
  unfold undoReturn; split <;> simp
@[simp] theorem undoReturn_hostMem (s : State) :
    (s.undoReturn).hostMem = s.hostMem := by
  unfold undoReturn; split <;> simp
@[simp] theorem undoReturn_full (s : State) :
    (s.undoReturn).full = s.full := by
  unfold undoReturn; split <;> simp
@[simp] theorem undoReturn_stamps (s : State) :
    (s.undoReturn).stamps = s.stamps := by
  unfold undoReturn; split <;> simp
@[simp] theorem undoReturn_saved (s : State) :
    (s.undoReturn).saved = s.saved := by
  unfold undoReturn; split <;> simp
@[simp] theorem undoReturn_ops (s : State) :
    (s.undoReturn).ops = s.ops := by
  unfold undoReturn; split <;> simp
@[simp] theorem undoReturn_agenda (s : State) :
    (s.undoReturn).agenda = s.agenda := by
  unfold undoReturn; split <;> simp
@[simp] theorem undoReturn_fresh (s : State) :
    (s.undoReturn).fresh = s.fresh := by
  unfold undoReturn; split <;> simp
@[simp] theorem undoReturn_nextId (s : State) :
    (s.undoReturn).nextId = s.nextId := by
  unfold undoReturn; split <;> simp

@[simp] theorem raiseAt_cycle (s : State) (c : BitVec 8) (v a : Word) :
    (s.raiseAt c v a).cycle = s.cycle := by
  unfold raiseAt; repeat' split
  all_goals simp
@[simp] theorem raiseAt_phase (s : State) (c : BitVec 8) (v a : Word) :
    (s.raiseAt c v a).phase = s.phase := by
  unfold raiseAt; repeat' split
  all_goals simp
@[simp] theorem raiseAt_cur (s : State) (c : BitVec 8) (v a : Word) :
    (s.raiseAt c v a).cur = s.cur := by
  unfold raiseAt; repeat' split
  all_goals simp
@[simp] theorem raiseAt_folios (s : State) (c : BitVec 8) (v a : Word) :
    (s.raiseAt c v a).folios = s.folios := by
  unfold raiseAt; repeat' split
  all_goals simp
@[simp] theorem raiseAt_parts (s : State) (c : BitVec 8) (v a : Word) :
    (s.raiseAt c v a).parts = s.parts := by
  unfold raiseAt; repeat' split
  all_goals simp
@[simp] theorem raiseAt_vfs (s : State) (c : BitVec 8) (v a : Word) :
    (s.raiseAt c v a).vfs = s.vfs := by
  unfold raiseAt; repeat' split
  all_goals simp
@[simp] theorem raiseAt_launches (s : State) (c : BitVec 8) (v a : Word) :
    (s.raiseAt c v a).launches = s.launches := by
  unfold raiseAt; repeat' split
  all_goals simp
@[simp] theorem raiseAt_modu (s : State) (c : BitVec 8) (v a : Word) :
    (s.raiseAt c v a).modu = s.modu := by
  unfold raiseAt; repeat' split
  all_goals simp
@[simp] theorem raiseAt_bonnet (s : State) (c : BitVec 8) (v a : Word) :
    (s.raiseAt c v a).bonnet = s.bonnet := by
  unfold raiseAt; repeat' split
  all_goals simp
@[simp] theorem raiseAt_mem (s : State) (c : BitVec 8) (v a : Word) :
    (s.raiseAt c v a).mem = s.mem := by
  unfold raiseAt; repeat' split
  all_goals simp
@[simp] theorem raiseAt_hostMem (s : State) (c : BitVec 8) (v a : Word) :
    (s.raiseAt c v a).hostMem = s.hostMem := by
  unfold raiseAt; repeat' split
  all_goals simp
@[simp] theorem raiseAt_full (s : State) (c : BitVec 8) (v a : Word) :
    (s.raiseAt c v a).full = s.full := by
  unfold raiseAt; repeat' split
  all_goals simp
@[simp] theorem raiseAt_stamps (s : State) (c : BitVec 8) (v a : Word) :
    (s.raiseAt c v a).stamps = s.stamps := by
  unfold raiseAt; repeat' split
  all_goals simp
@[simp] theorem raiseAt_saved (s : State) (c : BitVec 8) (v a : Word) :
    (s.raiseAt c v a).saved = s.saved := by
  unfold raiseAt; repeat' split
  all_goals simp
@[simp] theorem raiseAt_ops (s : State) (c : BitVec 8) (v a : Word) :
    (s.raiseAt c v a).ops = s.ops := by
  unfold raiseAt; repeat' split
  all_goals simp
@[simp] theorem raiseAt_agenda (s : State) (c : BitVec 8) (v a : Word) :
    (s.raiseAt c v a).agenda = s.agenda := by
  unfold raiseAt; repeat' split
  all_goals simp
@[simp] theorem raiseAt_fresh (s : State) (c : BitVec 8) (v a : Word) :
    (s.raiseAt c v a).fresh = s.fresh := by
  unfold raiseAt; repeat' split
  all_goals simp
@[simp] theorem raiseAt_nextId (s : State) (c : BitVec 8) (v a : Word) :
    (s.raiseAt c v a).nextId = s.nextId := by
  unfold raiseAt; repeat' split
  all_goals simp

@[simp] theorem raise_cycle (s : State) (c : BitVec 8) (v : Word) :
    (s.raise c v).cycle = s.cycle := by
  simp [raise]
@[simp] theorem raise_phase (s : State) (c : BitVec 8) (v : Word) :
    (s.raise c v).phase = s.phase := by
  simp [raise]
@[simp] theorem raise_cur (s : State) (c : BitVec 8) (v : Word) :
    (s.raise c v).cur = s.cur := by
  simp [raise]
@[simp] theorem raise_folios (s : State) (c : BitVec 8) (v : Word) :
    (s.raise c v).folios = s.folios := by
  simp [raise]
@[simp] theorem raise_parts (s : State) (c : BitVec 8) (v : Word) :
    (s.raise c v).parts = s.parts := by
  simp [raise]
@[simp] theorem raise_vfs (s : State) (c : BitVec 8) (v : Word) :
    (s.raise c v).vfs = s.vfs := by
  simp [raise]
@[simp] theorem raise_launches (s : State) (c : BitVec 8) (v : Word) :
    (s.raise c v).launches = s.launches := by
  simp [raise]
@[simp] theorem raise_modu (s : State) (c : BitVec 8) (v : Word) :
    (s.raise c v).modu = s.modu := by
  simp [raise]
@[simp] theorem raise_bonnet (s : State) (c : BitVec 8) (v : Word) :
    (s.raise c v).bonnet = s.bonnet := by
  simp [raise]
@[simp] theorem raise_mem (s : State) (c : BitVec 8) (v : Word) :
    (s.raise c v).mem = s.mem := by
  simp [raise]
@[simp] theorem raise_hostMem (s : State) (c : BitVec 8) (v : Word) :
    (s.raise c v).hostMem = s.hostMem := by
  simp [raise]
@[simp] theorem raise_full (s : State) (c : BitVec 8) (v : Word) :
    (s.raise c v).full = s.full := by
  simp [raise]
@[simp] theorem raise_stamps (s : State) (c : BitVec 8) (v : Word) :
    (s.raise c v).stamps = s.stamps := by
  simp [raise]
@[simp] theorem raise_saved (s : State) (c : BitVec 8) (v : Word) :
    (s.raise c v).saved = s.saved := by
  simp [raise]
@[simp] theorem raise_ops (s : State) (c : BitVec 8) (v : Word) :
    (s.raise c v).ops = s.ops := by
  simp [raise]
@[simp] theorem raise_agenda (s : State) (c : BitVec 8) (v : Word) :
    (s.raise c v).agenda = s.agenda := by
  simp [raise]
@[simp] theorem raise_fresh (s : State) (c : BitVec 8) (v : Word) :
    (s.raise c v).fresh = s.fresh := by
  simp [raise]
@[simp] theorem raise_nextId (s : State) (c : BitVec 8) (v : Word) :
    (s.raise c v).nextId = s.nextId := by
  simp [raise]

@[simp] theorem illegal_cycle (s : State) :
    (s.illegal).cycle = s.cycle := by
  simp [illegal]
@[simp] theorem illegal_phase (s : State) :
    (s.illegal).phase = s.phase := by
  simp [illegal]
@[simp] theorem illegal_cur (s : State) :
    (s.illegal).cur = s.cur := by
  simp [illegal]
@[simp] theorem illegal_folios (s : State) :
    (s.illegal).folios = s.folios := by
  simp [illegal]
@[simp] theorem illegal_parts (s : State) :
    (s.illegal).parts = s.parts := by
  simp [illegal]
@[simp] theorem illegal_vfs (s : State) :
    (s.illegal).vfs = s.vfs := by
  simp [illegal]
@[simp] theorem illegal_launches (s : State) :
    (s.illegal).launches = s.launches := by
  simp [illegal]
@[simp] theorem illegal_modu (s : State) :
    (s.illegal).modu = s.modu := by
  simp [illegal]
@[simp] theorem illegal_bonnet (s : State) :
    (s.illegal).bonnet = s.bonnet := by
  simp [illegal]
@[simp] theorem illegal_mem (s : State) :
    (s.illegal).mem = s.mem := by
  simp [illegal]
@[simp] theorem illegal_hostMem (s : State) :
    (s.illegal).hostMem = s.hostMem := by
  simp [illegal]
@[simp] theorem illegal_full (s : State) :
    (s.illegal).full = s.full := by
  simp [illegal]
@[simp] theorem illegal_stamps (s : State) :
    (s.illegal).stamps = s.stamps := by
  simp [illegal]
@[simp] theorem illegal_saved (s : State) :
    (s.illegal).saved = s.saved := by
  simp [illegal]
@[simp] theorem illegal_ops (s : State) :
    (s.illegal).ops = s.ops := by
  simp [illegal]
@[simp] theorem illegal_agenda (s : State) :
    (s.illegal).agenda = s.agenda := by
  simp [illegal]
@[simp] theorem illegal_fresh (s : State) :
    (s.illegal).fresh = s.fresh := by
  simp [illegal]
@[simp] theorem illegal_nextId (s : State) :
    (s.illegal).nextId = s.nextId := by
  simp [illegal]

@[simp] theorem postInc_cycle (s : State) (a : Fin 32) (m : Fin 4) (i : BitVec 10) (size : Nat) :
    (s.postInc a m i size).cycle = s.cycle := by
  unfold postInc; split <;> simp
@[simp] theorem postInc_phase (s : State) (a : Fin 32) (m : Fin 4) (i : BitVec 10) (size : Nat) :
    (s.postInc a m i size).phase = s.phase := by
  unfold postInc; split <;> simp
@[simp] theorem postInc_cur (s : State) (a : Fin 32) (m : Fin 4) (i : BitVec 10) (size : Nat) :
    (s.postInc a m i size).cur = s.cur := by
  unfold postInc; split <;> simp
@[simp] theorem postInc_turn (s : State) (a : Fin 32) (m : Fin 4) (i : BitVec 10) (size : Nat) :
    (s.postInc a m i size).turn = s.turn := by
  unfold postInc; split <;> simp
@[simp] theorem postInc_folios (s : State) (a : Fin 32) (m : Fin 4) (i : BitVec 10) (size : Nat) :
    (s.postInc a m i size).folios = s.folios := by
  unfold postInc; split <;> simp
@[simp] theorem postInc_parts (s : State) (a : Fin 32) (m : Fin 4) (i : BitVec 10) (size : Nat) :
    (s.postInc a m i size).parts = s.parts := by
  unfold postInc; split <;> simp
@[simp] theorem postInc_vfs (s : State) (a : Fin 32) (m : Fin 4) (i : BitVec 10) (size : Nat) :
    (s.postInc a m i size).vfs = s.vfs := by
  unfold postInc; split <;> simp
@[simp] theorem postInc_launches (s : State) (a : Fin 32) (m : Fin 4) (i : BitVec 10) (size : Nat) :
    (s.postInc a m i size).launches = s.launches := by
  unfold postInc; split <;> simp
@[simp] theorem postInc_modu (s : State) (a : Fin 32) (m : Fin 4) (i : BitVec 10) (size : Nat) :
    (s.postInc a m i size).modu = s.modu := by
  unfold postInc; split <;> simp
@[simp] theorem postInc_bonnet (s : State) (a : Fin 32) (m : Fin 4) (i : BitVec 10) (size : Nat) :
    (s.postInc a m i size).bonnet = s.bonnet := by
  unfold postInc; split <;> simp
@[simp] theorem postInc_mem (s : State) (a : Fin 32) (m : Fin 4) (i : BitVec 10) (size : Nat) :
    (s.postInc a m i size).mem = s.mem := by
  unfold postInc; split <;> simp
@[simp] theorem postInc_hostMem (s : State) (a : Fin 32) (m : Fin 4) (i : BitVec 10) (size : Nat) :
    (s.postInc a m i size).hostMem = s.hostMem := by
  unfold postInc; split <;> simp
@[simp] theorem postInc_full (s : State) (a : Fin 32) (m : Fin 4) (i : BitVec 10) (size : Nat) :
    (s.postInc a m i size).full = s.full := by
  unfold postInc; split <;> simp
@[simp] theorem postInc_stamps (s : State) (a : Fin 32) (m : Fin 4) (i : BitVec 10) (size : Nat) :
    (s.postInc a m i size).stamps = s.stamps := by
  unfold postInc; split <;> simp
@[simp] theorem postInc_saved (s : State) (a : Fin 32) (m : Fin 4) (i : BitVec 10) (size : Nat) :
    (s.postInc a m i size).saved = s.saved := by
  unfold postInc; split <;> simp
@[simp] theorem postInc_ops (s : State) (a : Fin 32) (m : Fin 4) (i : BitVec 10) (size : Nat) :
    (s.postInc a m i size).ops = s.ops := by
  unfold postInc; split <;> simp
@[simp] theorem postInc_agenda (s : State) (a : Fin 32) (m : Fin 4) (i : BitVec 10) (size : Nat) :
    (s.postInc a m i size).agenda = s.agenda := by
  unfold postInc; split <;> simp
@[simp] theorem postInc_fresh (s : State) (a : Fin 32) (m : Fin 4) (i : BitVec 10) (size : Nat) :
    (s.postInc a m i size).fresh = s.fresh := by
  unfold postInc; split <;> simp
@[simp] theorem postInc_nextId (s : State) (a : Fin 32) (m : Fin 4) (i : BitVec 10) (size : Nat) :
    (s.postInc a m i size).nextId = s.nextId := by
  unfold postInc; split <;> simp

@[simp] theorem schedule_cycle (s : State) (c : Nat) (i : Instr) :
    (s.schedule c i).cycle = s.cycle := rfl
@[simp] theorem schedule_phase (s : State) (c : Nat) (i : Instr) :
    (s.schedule c i).phase = s.phase := rfl
@[simp] theorem schedule_cur (s : State) (c : Nat) (i : Instr) :
    (s.schedule c i).cur = s.cur := rfl
@[simp] theorem schedule_turn (s : State) (c : Nat) (i : Instr) :
    (s.schedule c i).turn = s.turn := rfl
@[simp] theorem schedule_nibs (s : State) (c : Nat) (i : Instr) :
    (s.schedule c i).nibs = s.nibs := rfl
@[simp] theorem schedule_folios (s : State) (c : Nat) (i : Instr) :
    (s.schedule c i).folios = s.folios := rfl
@[simp] theorem schedule_parts (s : State) (c : Nat) (i : Instr) :
    (s.schedule c i).parts = s.parts := rfl
@[simp] theorem schedule_vfs (s : State) (c : Nat) (i : Instr) :
    (s.schedule c i).vfs = s.vfs := rfl
@[simp] theorem schedule_launches (s : State) (c : Nat) (i : Instr) :
    (s.schedule c i).launches = s.launches := rfl
@[simp] theorem schedule_modu (s : State) (c : Nat) (i : Instr) :
    (s.schedule c i).modu = s.modu := rfl
@[simp] theorem schedule_bonnet (s : State) (c : Nat) (i : Instr) :
    (s.schedule c i).bonnet = s.bonnet := rfl
@[simp] theorem schedule_mem (s : State) (c : Nat) (i : Instr) :
    (s.schedule c i).mem = s.mem := rfl
@[simp] theorem schedule_hostMem (s : State) (c : Nat) (i : Instr) :
    (s.schedule c i).hostMem = s.hostMem := rfl
@[simp] theorem schedule_full (s : State) (c : Nat) (i : Instr) :
    (s.schedule c i).full = s.full := rfl
@[simp] theorem schedule_stamps (s : State) (c : Nat) (i : Instr) :
    (s.schedule c i).stamps = s.stamps := rfl
@[simp] theorem schedule_saved (s : State) (c : Nat) (i : Instr) :
    (s.schedule c i).saved = s.saved := rfl
@[simp] theorem schedule_ops (s : State) (c : Nat) (i : Instr) :
    (s.schedule c i).ops = s.ops := rfl
@[simp] theorem schedule_fresh (s : State) (c : Nat) (i : Instr) :
    (s.schedule c i).fresh = s.fresh := rfl
@[simp] theorem schedule_nextId (s : State) (c : Nat) (i : Instr) :
    (s.schedule c i).nextId = s.nextId := rfl

@[simp] theorem freshNum_cycle (s : State) :
    (s.freshNum).2.cycle = s.cycle := rfl
@[simp] theorem freshNum_phase (s : State) :
    (s.freshNum).2.phase = s.phase := rfl
@[simp] theorem freshNum_cur (s : State) :
    (s.freshNum).2.cur = s.cur := rfl
@[simp] theorem freshNum_turn (s : State) :
    (s.freshNum).2.turn = s.turn := rfl
@[simp] theorem freshNum_nibs (s : State) :
    (s.freshNum).2.nibs = s.nibs := rfl
@[simp] theorem freshNum_folios (s : State) :
    (s.freshNum).2.folios = s.folios := rfl
@[simp] theorem freshNum_parts (s : State) :
    (s.freshNum).2.parts = s.parts := rfl
@[simp] theorem freshNum_vfs (s : State) :
    (s.freshNum).2.vfs = s.vfs := rfl
@[simp] theorem freshNum_launches (s : State) :
    (s.freshNum).2.launches = s.launches := rfl
@[simp] theorem freshNum_modu (s : State) :
    (s.freshNum).2.modu = s.modu := rfl
@[simp] theorem freshNum_bonnet (s : State) :
    (s.freshNum).2.bonnet = s.bonnet := rfl
@[simp] theorem freshNum_mem (s : State) :
    (s.freshNum).2.mem = s.mem := rfl
@[simp] theorem freshNum_hostMem (s : State) :
    (s.freshNum).2.hostMem = s.hostMem := rfl
@[simp] theorem freshNum_full (s : State) :
    (s.freshNum).2.full = s.full := rfl
@[simp] theorem freshNum_stamps (s : State) :
    (s.freshNum).2.stamps = s.stamps := rfl
@[simp] theorem freshNum_saved (s : State) :
    (s.freshNum).2.saved = s.saved := rfl
@[simp] theorem freshNum_ops (s : State) :
    (s.freshNum).2.ops = s.ops := rfl
@[simp] theorem freshNum_agenda (s : State) :
    (s.freshNum).2.agenda = s.agenda := rfl
@[simp] theorem freshNum_nextId (s : State) :
    (s.freshNum).2.nextId = s.nextId := rfl

@[simp] theorem newId_cycle (s : State) :
    (s.newId).2.cycle = s.cycle := rfl
@[simp] theorem newId_phase (s : State) :
    (s.newId).2.phase = s.phase := rfl
@[simp] theorem newId_cur (s : State) :
    (s.newId).2.cur = s.cur := rfl
@[simp] theorem newId_turn (s : State) :
    (s.newId).2.turn = s.turn := rfl
@[simp] theorem newId_nibs (s : State) :
    (s.newId).2.nibs = s.nibs := rfl
@[simp] theorem newId_folios (s : State) :
    (s.newId).2.folios = s.folios := rfl
@[simp] theorem newId_parts (s : State) :
    (s.newId).2.parts = s.parts := rfl
@[simp] theorem newId_vfs (s : State) :
    (s.newId).2.vfs = s.vfs := rfl
@[simp] theorem newId_launches (s : State) :
    (s.newId).2.launches = s.launches := rfl
@[simp] theorem newId_modu (s : State) :
    (s.newId).2.modu = s.modu := rfl
@[simp] theorem newId_bonnet (s : State) :
    (s.newId).2.bonnet = s.bonnet := rfl
@[simp] theorem newId_mem (s : State) :
    (s.newId).2.mem = s.mem := rfl
@[simp] theorem newId_hostMem (s : State) :
    (s.newId).2.hostMem = s.hostMem := rfl
@[simp] theorem newId_full (s : State) :
    (s.newId).2.full = s.full := rfl
@[simp] theorem newId_stamps (s : State) :
    (s.newId).2.stamps = s.stamps := rfl
@[simp] theorem newId_saved (s : State) :
    (s.newId).2.saved = s.saved := rfl
@[simp] theorem newId_ops (s : State) :
    (s.newId).2.ops = s.ops := rfl
@[simp] theorem newId_agenda (s : State) :
    (s.newId).2.agenda = s.agenda := rfl
@[simp] theorem newId_fresh (s : State) :
    (s.newId).2.fresh = s.fresh := rfl

@[simp] theorem setStamp_cycle (s : State) (cell : Nat) (w r : Clk) :
    (s.setStamp cell w r).cycle = s.cycle := rfl
@[simp] theorem setStamp_phase (s : State) (cell : Nat) (w r : Clk) :
    (s.setStamp cell w r).phase = s.phase := rfl
@[simp] theorem setStamp_cur (s : State) (cell : Nat) (w r : Clk) :
    (s.setStamp cell w r).cur = s.cur := rfl
@[simp] theorem setStamp_turn (s : State) (cell : Nat) (w r : Clk) :
    (s.setStamp cell w r).turn = s.turn := rfl
@[simp] theorem setStamp_nibs (s : State) (cell : Nat) (w r : Clk) :
    (s.setStamp cell w r).nibs = s.nibs := rfl
@[simp] theorem setStamp_folios (s : State) (cell : Nat) (w r : Clk) :
    (s.setStamp cell w r).folios = s.folios := rfl
@[simp] theorem setStamp_parts (s : State) (cell : Nat) (w r : Clk) :
    (s.setStamp cell w r).parts = s.parts := rfl
@[simp] theorem setStamp_vfs (s : State) (cell : Nat) (w r : Clk) :
    (s.setStamp cell w r).vfs = s.vfs := rfl
@[simp] theorem setStamp_launches (s : State) (cell : Nat) (w r : Clk) :
    (s.setStamp cell w r).launches = s.launches := rfl
@[simp] theorem setStamp_modu (s : State) (cell : Nat) (w r : Clk) :
    (s.setStamp cell w r).modu = s.modu := rfl
@[simp] theorem setStamp_bonnet (s : State) (cell : Nat) (w r : Clk) :
    (s.setStamp cell w r).bonnet = s.bonnet := rfl
@[simp] theorem setStamp_mem (s : State) (cell : Nat) (w r : Clk) :
    (s.setStamp cell w r).mem = s.mem := rfl
@[simp] theorem setStamp_hostMem (s : State) (cell : Nat) (w r : Clk) :
    (s.setStamp cell w r).hostMem = s.hostMem := rfl
@[simp] theorem setStamp_full (s : State) (cell : Nat) (w r : Clk) :
    (s.setStamp cell w r).full = s.full := rfl
@[simp] theorem setStamp_saved (s : State) (cell : Nat) (w r : Clk) :
    (s.setStamp cell w r).saved = s.saved := rfl
@[simp] theorem setStamp_ops (s : State) (cell : Nat) (w r : Clk) :
    (s.setStamp cell w r).ops = s.ops := rfl
@[simp] theorem setStamp_agenda (s : State) (cell : Nat) (w r : Clk) :
    (s.setStamp cell w r).agenda = s.agenda := rfl
@[simp] theorem setStamp_fresh (s : State) (cell : Nat) (w r : Clk) :
    (s.setStamp cell w r).fresh = s.fresh := rfl
@[simp] theorem setStamp_nextId (s : State) (cell : Nat) (w r : Clk) :
    (s.setStamp cell w r).nextId = s.nextId := rfl

@[simp] theorem readStamp_cycle (s : State) (pa : Nat) (lc : Clk) (l : Nat) :
    (s.readStamp pa lc l).2.cycle = s.cycle := rfl
@[simp] theorem readStamp_phase (s : State) (pa : Nat) (lc : Clk) (l : Nat) :
    (s.readStamp pa lc l).2.phase = s.phase := rfl
@[simp] theorem readStamp_cur (s : State) (pa : Nat) (lc : Clk) (l : Nat) :
    (s.readStamp pa lc l).2.cur = s.cur := rfl
@[simp] theorem readStamp_turn (s : State) (pa : Nat) (lc : Clk) (l : Nat) :
    (s.readStamp pa lc l).2.turn = s.turn := rfl
@[simp] theorem readStamp_nibs (s : State) (pa : Nat) (lc : Clk) (l : Nat) :
    (s.readStamp pa lc l).2.nibs = s.nibs := rfl
@[simp] theorem readStamp_folios (s : State) (pa : Nat) (lc : Clk) (l : Nat) :
    (s.readStamp pa lc l).2.folios = s.folios := rfl
@[simp] theorem readStamp_parts (s : State) (pa : Nat) (lc : Clk) (l : Nat) :
    (s.readStamp pa lc l).2.parts = s.parts := rfl
@[simp] theorem readStamp_vfs (s : State) (pa : Nat) (lc : Clk) (l : Nat) :
    (s.readStamp pa lc l).2.vfs = s.vfs := rfl
@[simp] theorem readStamp_launches (s : State) (pa : Nat) (lc : Clk) (l : Nat) :
    (s.readStamp pa lc l).2.launches = s.launches := rfl
@[simp] theorem readStamp_modu (s : State) (pa : Nat) (lc : Clk) (l : Nat) :
    (s.readStamp pa lc l).2.modu = s.modu := rfl
@[simp] theorem readStamp_bonnet (s : State) (pa : Nat) (lc : Clk) (l : Nat) :
    (s.readStamp pa lc l).2.bonnet = s.bonnet := rfl
@[simp] theorem readStamp_mem (s : State) (pa : Nat) (lc : Clk) (l : Nat) :
    (s.readStamp pa lc l).2.mem = s.mem := rfl
@[simp] theorem readStamp_hostMem (s : State) (pa : Nat) (lc : Clk) (l : Nat) :
    (s.readStamp pa lc l).2.hostMem = s.hostMem := rfl
@[simp] theorem readStamp_full (s : State) (pa : Nat) (lc : Clk) (l : Nat) :
    (s.readStamp pa lc l).2.full = s.full := rfl
@[simp] theorem readStamp_saved (s : State) (pa : Nat) (lc : Clk) (l : Nat) :
    (s.readStamp pa lc l).2.saved = s.saved := rfl
@[simp] theorem readStamp_ops (s : State) (pa : Nat) (lc : Clk) (l : Nat) :
    (s.readStamp pa lc l).2.ops = s.ops := rfl
@[simp] theorem readStamp_agenda (s : State) (pa : Nat) (lc : Clk) (l : Nat) :
    (s.readStamp pa lc l).2.agenda = s.agenda := rfl
@[simp] theorem readStamp_fresh (s : State) (pa : Nat) (lc : Clk) (l : Nat) :
    (s.readStamp pa lc l).2.fresh = s.fresh := rfl
@[simp] theorem readStamp_nextId (s : State) (pa : Nat) (lc : Clk) (l : Nat) :
    (s.readStamp pa lc l).2.nextId = s.nextId := rfl

@[simp] theorem writeStamp_cycle (s : State) (pa : Nat) (lc : Clk) :
    (s.writeStamp pa lc).2.cycle = s.cycle := rfl
@[simp] theorem writeStamp_phase (s : State) (pa : Nat) (lc : Clk) :
    (s.writeStamp pa lc).2.phase = s.phase := rfl
@[simp] theorem writeStamp_cur (s : State) (pa : Nat) (lc : Clk) :
    (s.writeStamp pa lc).2.cur = s.cur := rfl
@[simp] theorem writeStamp_turn (s : State) (pa : Nat) (lc : Clk) :
    (s.writeStamp pa lc).2.turn = s.turn := rfl
@[simp] theorem writeStamp_nibs (s : State) (pa : Nat) (lc : Clk) :
    (s.writeStamp pa lc).2.nibs = s.nibs := rfl
@[simp] theorem writeStamp_folios (s : State) (pa : Nat) (lc : Clk) :
    (s.writeStamp pa lc).2.folios = s.folios := rfl
@[simp] theorem writeStamp_parts (s : State) (pa : Nat) (lc : Clk) :
    (s.writeStamp pa lc).2.parts = s.parts := rfl
@[simp] theorem writeStamp_vfs (s : State) (pa : Nat) (lc : Clk) :
    (s.writeStamp pa lc).2.vfs = s.vfs := rfl
@[simp] theorem writeStamp_launches (s : State) (pa : Nat) (lc : Clk) :
    (s.writeStamp pa lc).2.launches = s.launches := rfl
@[simp] theorem writeStamp_modu (s : State) (pa : Nat) (lc : Clk) :
    (s.writeStamp pa lc).2.modu = s.modu := rfl
@[simp] theorem writeStamp_bonnet (s : State) (pa : Nat) (lc : Clk) :
    (s.writeStamp pa lc).2.bonnet = s.bonnet := rfl
@[simp] theorem writeStamp_mem (s : State) (pa : Nat) (lc : Clk) :
    (s.writeStamp pa lc).2.mem = s.mem := rfl
@[simp] theorem writeStamp_hostMem (s : State) (pa : Nat) (lc : Clk) :
    (s.writeStamp pa lc).2.hostMem = s.hostMem := rfl
@[simp] theorem writeStamp_full (s : State) (pa : Nat) (lc : Clk) :
    (s.writeStamp pa lc).2.full = s.full := rfl
@[simp] theorem writeStamp_saved (s : State) (pa : Nat) (lc : Clk) :
    (s.writeStamp pa lc).2.saved = s.saved := rfl
@[simp] theorem writeStamp_ops (s : State) (pa : Nat) (lc : Clk) :
    (s.writeStamp pa lc).2.ops = s.ops := rfl
@[simp] theorem writeStamp_agenda (s : State) (pa : Nat) (lc : Clk) :
    (s.writeStamp pa lc).2.agenda = s.agenda := rfl
@[simp] theorem writeStamp_fresh (s : State) (pa : Nat) (lc : Clk) :
    (s.writeStamp pa lc).2.fresh = s.fresh := rfl
@[simp] theorem writeStamp_nextId (s : State) (pa : Nat) (lc : Clk) :
    (s.writeStamp pa lc).2.nextId = s.nextId := rfl

end Sys2Proof.Machine.State
end

