-- ==== Sys2Proof/Laws/Nibs.lean ====
section
/-! SUPPORT. Sys2Proof/Laws/Nibs.lean: looking up a nib, a stroke or a context after one has been changed. -/

namespace Sys2Proof.Machine

open Sys2Proof

theorem nibIn_putNib_same (l : List (NibId × Nib)) (n : NibId) (x : Nib) : nibIn (putNib l n x) n = x := by
  induction l with
  | nil => simp [putNib, nibIn]
  | cons y r ih =>
    obtain ⟨m, y⟩ := y
    unfold putNib
    split
    · simp [nibIn]
    · split
      · simp [nibIn]
      · next h => simp [nibIn, h, ih]

theorem nibIn_putNib_ne (l : List (NibId × Nib)) (n m : NibId) (x : Nib) (h : m ≠ n) :
    nibIn (putNib l n x) m = nibIn l m := by
  induction l with
  | nil => simp [putNib, nibIn, h]
  | cons y r ih =>
    obtain ⟨k, y⟩ := y
    unfold putNib
    split
    · simp [nibIn, h]
    · split
      · next e => subst e; simp [nibIn, h]
      · simp [nibIn, ih]

theorem putNib_putNib (l : List (NibId × Nib)) (n : NibId) (x y : Nib) :
    putNib (putNib l n x) n y = putNib l n y := by
  induction l with
  | nil => simp [putNib]
  | cons z r ih =>
    obtain ⟨m, z⟩ := z
    by_cases h : n.val < m.val
    · simp [putNib, h]
    · by_cases e : n = m
      · subst e; simp [putNib]
      · simp [putNib, h, e, ih]

namespace State

@[simp] theorem nib_setNib_same (s : State) (n : NibId) (x : Nib) : (s.setNib n x).nib n = x :=
  nibIn_putNib_same ..

theorem nib_setNib_ne (s : State) (n m : NibId) (x : Nib) (h : m ≠ n) : (s.setNib n x).nib m = s.nib m :=
  nibIn_putNib_ne _ _ _ _ h

@[simp] theorem setNib_setNib (s : State) (n : NibId) (x y : Nib) : (s.setNib n x).setNib n y = s.setNib n y := by
  simp [setNib, putNib_putNib]

@[simp] theorem nib_modNib_same (s : State) (n : NibId) (f : Nib → Nib) : (s.modNib n f).nib n = f (s.nib n) := by
  simp [modNib]

theorem nib_modNib_ne (s : State) (n m : NibId) (f : Nib → Nib) (h : m ≠ n) : (s.modNib n f).nib m = s.nib m :=
  nib_setNib_ne _ _ _ _ h

@[simp] theorem modNib_modNib (s : State) (n : NibId) (f g : Nib → Nib) :
    (s.modNib n f).modNib n g = s.modNib n (fun x => g (f x)) := by
  simp [modNib]

@[simp] theorem stroke_modStroke_same (s : State) (n : NibId) (k : Fin 8) (f : Stroke → Stroke) :
    (s.modStroke n k f).stroke n k = f (s.stroke n k) := by
  simp [modStroke, stroke]

theorem stroke_modStroke_ne (s : State) (n m : NibId) (k j : Fin 8) (f : Stroke → Stroke) (h : m ≠ n ∨ j ≠ k) :
    (s.modStroke n k f).stroke m j = s.stroke m j := by
  by_cases e : m = n
  · subst e
    have hj : k.val ≠ j.val := fun x => (h.resolve_left (fun c => c rfl)) (Fin.ext x.symm)
    simp [modStroke, stroke, hj]
  · simp [modStroke, stroke, nib_modNib_ne _ _ _ _ e]

@[simp] theorem modStroke_modStroke (s : State) (n : NibId) (k : Fin 8) (f g : Stroke → Stroke) :
    (s.modStroke n k f).modStroke n k g = s.modStroke n k (fun x => g (f x)) := by
  simp [modStroke]

@[simp] theorem modCtxAt_modCtxAt (s : State) (n : NibId) (k : Fin 8) (f g : Ctx → Ctx) :
    (s.modCtxAt n k f).modCtxAt n k g = s.modCtxAt n k (fun x => g (f x)) := by
  simp [modCtxAt]

@[simp] theorem ctx_modCtx (s : State) (f : Ctx → Ctx) : (s.modCtx f).ctx = f s.ctx := by
  simp [modCtx, modCtxAt, ctx, cst]

@[simp] theorem cst_modCtx (s : State) (f : Ctx → Ctx) : (s.modCtx f).cst = { s.cst with ctx := f s.ctx } := by
  simp [modCtx, modCtxAt, ctx, cst]

@[simp] theorem modCtx_modCtx (s : State) (f g : Ctx → Ctx) : (s.modCtx f).modCtx g = s.modCtx (fun x => g (f x)) := by
  simp [modCtx]

/-- A change of the turn's record does not change what the nibs hold. -/
@[simp] theorem ctx_turn (s : State) (t : Turn) : ({ s with turn := t } : State).ctx = s.ctx := rfl

/-- The context after an effect has been sent to its landing turn. -/
@[simp] theorem ctx_land (s : State) (lat : Nat) (e : Eff) :
    (s.land lat e).ctx = { s.ctx with inflight := s.ctx.inflight ++ [⟨s.tn + lat, s.tn, s.cur.q, e⟩] } := by
  simp [land]

end State

end Sys2Proof.Machine
end

