-- ==== Sys2Proof/Laws/Issue.lean ====
section
/-! SUPPORT. Sys2Proof/Laws/Issue.lean: what the shared operations of issuing do, said once: the checks that come first, the
effects sent on their way, retiring, and raising an exception. -/

namespace Sys2Proof.Machine

open Sys2Proof

/-! ## The checks of R61 and R62 -/

theorem regTrap_of_clear {s : State} {srcs dsts : List RegRef} {long : Bool} (h : s.Clear srcs dsts long) :
    s.ctx.regTrap s.tn srcs dsts long = none := by
  obtain ⟨h1, h2⟩ := h
  have e1 : srcs.find? s.ctx.r.pending = none := by
    rw [List.find?_eq_none]
    intro x hx
    simp [h1 x hx]
  have e2 : dsts.find? (fun x => s.ctx.r.pending x || (long && x != .g 0 && x != .p 0 && s.ctx.inFlight s.tn x)) = none := by
    rw [List.find?_eq_none]
    intro x hx
    obtain ⟨p, l⟩ := h2 x hx
    by_cases a : long = true <;> by_cases b : x = .g 0 <;> by_cases c : x = .p 0 <;> simp_all
  simp only [Ctx.regTrap, e1, e2]

/-- An instruction whose registers are clear does what its own meaning says. -/
theorem guarded_of_clear {s : State} {srcs dsts : List RegRef} {long : Bool} (h : s.Clear srcs dsts long)
    (body : State → State) : s.guarded srcs dsts long body = .next (body s) := by
  simp only [State.guarded, regTrap_of_clear h]

theorem simple_of_clear {s : State} {srcs dsts : List RegRef} (h : s.Clear srcs dsts false)
    (body : State → State) : s.simple srcs dsts body = .next (body s).retire := guarded_of_clear h _

namespace State

/-! ## Effects on their way -/

/-- Sends effects on their way, one after another. -/
def lands (s : State) (es : List (Nat × Eff)) : State := es.foldl (fun s e => s.land e.1 e.2) s

@[simp] theorem lands_nil (s : State) : s.lands [] = s := rfl

@[simp] theorem lands_cons (s : State) (e : Nat × Eff) (es : List (Nat × Eff)) :
    s.lands (e :: es) = (s.land e.1 e.2).lands es := rfl

theorem lands_append (s : State) (a b : List (Nat × Eff)) : s.lands (a ++ b) = (s.lands a).lands b := by
  simp [lands, List.foldl_append]

theorem landG_eq (s : State) (lat : Nat) (d : Fin 32) (x : Word) : s.landG lat d x = s.lands (gWrite lat d x) := by
  unfold landG gWrite; split <;> rfl

theorem landP_eq (s : State) (lat : Nat) (d : Fin 8) (x : Pred) : s.landP lat d x = s.lands (pWrite lat d x) := by
  unfold landP pWrite; split <;> rfl

theorem landV_eq (s : State) (lat : Nat) (d : Fin 32) (x : Vec) : s.landV lat d x = s.lands (vWrite s lat d x) := rfl

theorem landEv_eq (s : State) (e : BitVec 8) : s.landEv e = s.lands (evCount e) := by
  unfold landEv evCount; split <;> rfl

/-- What several effects sent on their way come to: they join those in flight. -/
theorem lands_eq (s : State) (es : List (Nat × Eff)) :
    s.lands es = if es = [] then s else
      s.modCtx (fun c => { c with inflight := c.inflight ++ es.map (fun e => ⟨s.tn + e.1, s.tn, s.cur.q, e.2⟩) }) := by
  induction es generalizing s with
  | nil => rfl
  | cons e r ih =>
    have htn : (s.land e.1 e.2).tn = s.tn := rfl
    have hcur : (s.land e.1 e.2).cur = s.cur := rfl
    rw [lands_cons, ih, htn, hcur]
    split
    · next h => subst h; simp [land]
    · simp [land, modCtx_modCtx]

end State

/-! ## What issuing leaves alone -/

namespace SameBut

variable {s t u : State}

theorem cur_eq (h : SameBut s t) : t.cur = s.cur := by
  have e := congrArg State.cur h.machine
  exact e

theorem cycle_eq (h : SameBut s t) : t.cycle = s.cycle := by
  have e := congrArg State.cycle h.machine
  exact e

theorem mem_eq (h : SameBut s t) : t.mem = s.mem := by
  have e := congrArg State.mem h.machine
  exact e

theorem trapped_eq (h : SameBut s t) : t.turn.trapped = s.turn.trapped := by
  have e := congrArg Turn.trapped h.turn
  exact e

theorem tret_eq (h : SameBut s t) : t.turn.tret = s.turn.tret := by
  have e := congrArg Turn.tret h.turn
  exact e

theorem refl (s : State) : SameBut s s :=
  ⟨rfl, fun _ _ => rfl, rfl, fun _ _ => rfl, rfl, rfl, rfl, fun _ => rfl, fun _ _ => rfl, rfl⟩

theorem trans (h : SameBut s t) (g : SameBut t u) : SameBut s u := by
  have hc := h.cur_eq
  constructor
  · have := congrArg (fun x : State => ({ x with nibs := s.nibs, turn := s.turn } : State)) g.machine
    exact this.trans h.machine
  · intro n hn; rw [g.nibs n (hc ▸ hn), h.nibs n hn]
  · have h1 := h.nib
    have h2 := g.nib
    rw [hc] at h2
    have := congrArg (fun x : Nib => ({ x with strokes := (s.nib s.cur.nib).strokes } : Nib)) h2
    exact this.trans h1
  · intro k hk
    have := g.strokes k (hc ▸ hk)
    rw [hc] at this
    rw [this, h.strokes k hk]
  · have h2 := g.stroke
    rw [hc] at h2
    have := congrArg (fun x : Stroke => ({ x with ctx := s.ctx } : Stroke)) h2
    exact this.trans h.stroke
  · have := congrArg (fun x : Ctx => ({ x with inflight := s.ctx.inflight, seqs := s.ctx.seqs, c := s.ctx.c } : Ctx)) g.ctx
    exact this.trans h.ctx
  · have := congrArg (fun x : Csrs => ({ x with tpc := s.ctx.c.tpc } : Csrs)) g.csrs
    exact this.trans h.csrs
  · intro e; rw [g.tpc (h.trapped_eq.trans e), h.tpc e]
  · intro q hq; rw [g.seqs q (hc ▸ hq), h.seqs q hq]
  · have := congrArg (fun x : Turn => ({ x with issued := s.turn.issued, seqs := s.turn.seqs } : Turn)) g.turn
    exact this.trans h.turn

end SameBut

/-- A change of the effects in flight, the sequencers and the CSRs of the issuing context that keeps all but the saved PCs. -/
theorem sameBut_modCtx (s : State) (f : Ctx → Ctx)
    (h1 : { f s.ctx with inflight := s.ctx.inflight, seqs := s.ctx.seqs, c := s.ctx.c } = s.ctx)
    (h2 : { (f s.ctx).c with tpc := s.ctx.c.tpc } = s.ctx.c)
    (h3 : s.turn.trapped = false → (f s.ctx).c.tpc = s.ctx.c.tpc)
    (h4 : s.turn.trapped = false → s.turn.tret = false → ∀ q : Seq, q ≠ s.cur.q → (f s.ctx).seqs[q.idx] = s.ctx.seqs[q.idx]) :
    SameBut s (s.modCtx f) := by
  constructor
  · rfl
  · intro n hn; exact State.nib_modNib_ne _ _ _ _ hn
  · simp [State.modCtx, State.modCtxAt, State.modStroke]
  · intro k hk; exact State.stroke_modStroke_ne _ _ _ _ _ _ (.inr hk)
  · simp [State.modCtx, State.modCtxAt]; rfl
  · simpa using h1
  · simpa using h2
  · simpa using h3
  · intro q hq
    simp only [State.seqSt, State.modCtx_turn, State.ctx_modCtx]
    split
    · rfl
    · next h => simp only [Bool.or_eq_true, not_or, Bool.not_eq_true] at h; exact h4 h.1 h.2 q hq
  · rfl

theorem sameBut_lands (s : State) (es : List (Nat × Eff)) : SameBut s (s.lands es) := by
  rw [State.lands_eq]
  split
  · exact SameBut.refl s
  · exact sameBut_modCtx s _ rfl rfl (fun _ => rfl) (fun _ _ _ _ => rfl)

theorem sameBut_markIssued (s : State) : SameBut s s.markIssued :=
  ⟨rfl, fun _ _ => rfl, rfl, fun _ _ => rfl, rfl, rfl, rfl, fun _ => rfl, fun _ _ => rfl, rfl⟩

theorem Seq.idx_ne {p q : Seq} (h : p ≠ q) : (q.idx : Fin 4).val ≠ (p.idx : Fin 4).val := by
  revert h; cases p <;> cases q <;> decide

theorem sameBut_modSeq (s : State) (f : SeqSt → SeqSt) : SameBut s (s.modSeq s.cur.q f) := by
  unfold State.modSeq
  split
  · next ht =>
    refine SameBut.trans (t := { s with turn := { s.turn with seqs := s.turn.seqs.set s.cur.q.idx (f s.turn.seqs[s.cur.q.idx]) } })
      ⟨rfl, fun _ _ => rfl, rfl, fun _ _ => rfl, rfl, rfl, rfl, fun _ => rfl, ?_, rfl⟩ ?_
    · intro q hq
      simp [State.seqSt, ht, Vector.getElem_set_ne _ _ (Seq.idx_ne hq)]
    · exact sameBut_modCtx _ _ rfl rfl (fun h => by simp [ht] at h) (fun h => by simp [ht] at h)
  · split
    · next h1 h2 =>
      refine ⟨rfl, fun _ _ => rfl, rfl, fun _ _ => rfl, rfl, rfl, rfl, fun _ => rfl, ?_, rfl⟩
      intro q hq
      simp [State.seqSt, h2, Vector.getElem_set_ne _ _ (Seq.idx_ne hq)]
    · exact sameBut_modCtx s _ rfl rfl (fun _ => rfl) (fun _ _ q hq => by
        simp [Vector.getElem_set_ne _ _ (Seq.idx_ne hq)])

/-- The issuing sequencer after a change of its own state. -/
theorem seqSt_modSeq (s : State) (f : SeqSt → SeqSt) :
    (s.modSeq s.cur.q f).seqSt s.cur.q = f (s.seqSt s.cur.q) := by
  unfold State.modSeq
  split
  · next ht => simp [State.seqSt, ht]
  · split
    · next h2 => simp [State.seqSt, h2]
    · next h1 h2 => simp [State.seqSt, h1, h2]

theorem inflight_modSeq (s : State) (q : Seq) (f : SeqSt → SeqSt) : (s.modSeq q f).ctx.inflight = s.ctx.inflight := by
  unfold State.modSeq
  split
  · simp
  · split <;> simp

theorem inflight_lands (s : State) (es : List (Nat × Eff)) :
    (s.lands es).ctx.inflight = s.ctx.inflight ++ es.map (fun e => ⟨s.tn + e.1, s.tn, s.cur.q, e.2⟩) := by
  rw [State.lands_eq]
  split
  · next h => subst h; simp
  · simp

theorem issued_modSeq (s : State) (q : Seq) (f : SeqSt → SeqSt) : (s.modSeq q f).turn.issued = s.turn.issued := by
  unfold State.modSeq
  split
  · simp
  · split <;> simp

theorem seqSt_lands (s : State) (es : List (Nat × Eff)) (q : Seq) : (s.lands es).seqSt q = s.seqSt q := by
  rw [State.lands_eq]
  split
  · rfl
  · simp [State.seqSt]

theorem turn_lands (s : State) (es : List (Nat × Eff)) : (s.lands es).turn = s.turn := by
  rw [State.lands_eq]; split <;> rfl

/-- Effects sent on their way, the instruction counted as issued, and the sequencer sent to `f`: all that this does. -/
theorem issuedTo_goTo (s : State) (es : List (Nat × Eff)) (f : Found) (extra : Nat) :
    IssuedTo s ((s.lands es).markIssued.goTo f extra) es f extra := by
  have hcur : (s.lands es).markIssued.cur = s.cur := (sameBut_lands s es).cur_eq
  have hq : (s.lands es).markIssued.cur.q = s.cur.q := by rw [hcur]
  constructor
  · rw [State.goTo, inflight_modSeq]; exact inflight_lands s es
  · rw [State.goTo, issued_modSeq]
    simp only [State.markIssued, turn_lands, (sameBut_lands s es).cur_eq]
  · have := seqSt_modSeq (s.lands es).markIssued (fun q =>
      { q with pc := BitVec.ofNat 64 f.pc, lost := lostFor f.lines + extra, checked := f.ok, thr := none, joining := false, fault := false })
    rw [hq] at this
    rw [State.goTo, hq, this]
    have e : (s.lands es).markIssued.seqSt s.cur.q = s.seqSt s.cur.q := seqSt_lands s es _
    rw [e]; rfl
  · exact ((sameBut_lands s es).trans (sameBut_markIssued _)).trans (sameBut_modSeq _ _)

theorem nextFound_lands (s : State) (es : List (Nat × Eff)) : (s.lands es).nextFound = s.nextFound := by
  have h := sameBut_lands s es
  have hpc : (s.lands es).pc = s.pc := by simp only [State.pc, h.cur_eq, seqSt_lands]
  have hcode : (s.lands es).code = s.code := by
    funext a; simp only [State.code, State.wellWord, h.mem_eq, h.cur_eq]
  have hx : (s.lands es).ctx.c.xob = s.ctx.c.xob := by
    have e := congrArg Csrs.xob h.csrs
    exact e
  simp only [State.nextFound, State.word, hpc, hcode, hx, h.cur_eq]
  rfl

/-- Retiring after sending effects on their way (R32, R35, R55). -/
theorem issued_retire (s : State) (es : List (Nat × Eff)) : Issued s (s.lands es).retire es := by
  have h := issuedTo_goTo s es s.nextFound 0
  have e : (s.lands es).retire = (s.lands es).markIssued.goTo s.nextFound 0 := by
    rw [State.retire, nextFound_lands]
  rw [Issued, e]; exact h

/-- An instruction that only sends effects on their way. -/
theorem issues_of_simple {i : Instr} {s : State} {srcs dsts : List RegRef} {body : State → State} {es : List (Nat × Eff)}
    (h : s.Clear srcs dsts false) (e : exec i s = s.simple srcs dsts body) (b : body s = s.lands es) : Issues i s es :=
  ⟨(body s).retire, by rw [e, simple_of_clear h], by rw [b]; exact issued_retire s es⟩

/-- The same effects, written in another way. -/
theorem issues_congr {i : Instr} {s : State} {es fs : List (Nat × Eff)} (h : Issues i s es) (e : es = fs) : Issues i s fs :=
  e ▸ h

end Sys2Proof.Machine
end

