-- ==== Sys2Proof/Laws/Scalar.lean ====
section
/-! SUPPORT. Sys2Proof/Laws/Scalar.lean: what the shared operations of the scalar instructions do when their registers are
clear: each sends its result on its way and changes nothing else. -/

namespace Sys2Proof.Machine

open Sys2Proof

variable {i : Instr} {s : State} {d a b : Fin 32}

/-- Effects sent on their way one after another, then retiring. -/
theorem issues_of_guarded {srcs dsts : List RegRef} {long : Bool} {body : State → State} {es : List (Nat × Eff)}
    (h : s.Clear srcs dsts long) (e : exec i s = s.guarded srcs dsts long body) (b : body s = (s.lands es).retire) :
    Issues i s es :=
  ⟨body s, by rw [e, guarded_of_clear h], by rw [b]; exact issued_retire s es⟩

theorem issues_of_alu2 {lat : Nat} {f : Word → Word → Word} (h : s.Clear [.g a, .g b] [.g d] false)
    (e : exec i s = s.alu2 lat d a b f) : Issues i s (gWrite lat d (f (s.rg a) (s.rg b))) :=
  issues_of_simple h e (State.landG_eq ..)

theorem issues_of_alu1 {f : Word → Word} (h : s.Clear [.g a] [.g d] false)
    (e : exec i s = s.alu1 d a f) : Issues i s (gWrite 1 d (f (s.rg a))) :=
  issues_of_simple h e (State.landG_eq ..)

theorem issues_of_alu3 {f : Word → Word → Word → Word} (h : s.Clear [.g d, .g a, .g b] [.g d] false)
    (e : exec i s = s.alu3 d a b f) : Issues i s (gWrite 1 d (f (s.rg d) (s.rg a) (s.rg b))) :=
  issues_of_simple h e (State.landG_eq ..)

theorem fpResult_eq (s : State) (lat : Nat) (d : Fin 32) (r : Nat × Ev) :
    s.fpResult lat d r = (s.lands (gWrite lat d (BitVec.ofNat 64 (r.1 % 2 ^ 32)) ++ evCount r.2)).retire := by
  simp only [State.fpResult, State.landG_eq, State.landEv_eq, State.lands_append]

theorem issues_of_fp2 {f : Nat → Nat → Nat × Ev} (h : s.Clear [.g a, .g b] [.g d] false) (e : exec i s = s.fp2 d a b f) :
    Issues i s (gWrite 2 d (BitVec.ofNat 64 ((f ((s.rg a).toNat % 2 ^ 32) ((s.rg b).toNat % 2 ^ 32)).1 % 2 ^ 32)) ++
      evCount (f ((s.rg a).toNat % 2 ^ 32) ((s.rg b).toNat % 2 ^ 32)).2) :=
  issues_of_guarded h e (fpResult_eq ..)

theorem issues_of_fpCmp {op : Nat} (h : s.Clear [.g a, .g b] [.g d] false) (e : exec i s = s.fpCmp d a b op) :
    Issues i s (gWrite 1 d (if (fmt32.cmpB op ((s.rg a).toNat % 2 ^ 32) ((s.rg b).toNat % 2 ^ 32)).1 then 1 else 0) ++
      evCount (fmt32.cmpB op ((s.rg a).toNat % 2 ^ 32) ((s.rg b).toNat % 2 ^ 32)).2) :=
  issues_of_guarded h e (by simp only [State.landG_eq, State.landEv_eq, State.lands_append])

theorem issues_of_divide {sg rem : Bool} (h : s.Clear [.g a, .g b] [.g d] false) (n : s.divideInFlight = false)
    (e : exec i s = s.divide d a b sg rem) :
    let r := divRem sg (s.rg a) (s.rg b)
    Issues i s ((6, .reg (.g d (if rem then r.2.1 else r.1))) :: evCount r.2.2) :=
  issues_of_guarded h e (by
    simp only [n, State.landEv_eq]; rfl)

end Sys2Proof.Machine
end

