-- ==== Sys2Proof/Laws/Control.lean ====
section
/-! SUPPORT. Sys2Proof/Laws/Control.lean: what the shared operations of control transfers do: a transfer whose target passes
its checks, a fall-through, and a conditional branch. -/

namespace Sys2Proof.Machine

open Sys2Proof

variable {i : Instr} {s : State} {t : Word} {es : List (Nat × Eff)}

theorem targetTrap_of_good (h : s.GoodTarget t) : s.targetTrap t = none := by
  have h1 : ¬ s.ctx.c.xob.toNat ≤ t.toNat := Nat.not_le.mpr h.inside
  simp [State.targetTrap, h1, h.aligned, h.line, h.word, h.tag]

theorem transfer_of_good (h : s.GoodTarget t) (lost : Nat) (link : State → State) :
    s.transfer t lost link = (link s).markIssued.goTo (placeAt t) lost := by
  simp only [State.transfer, targetTrap_of_good h]; rfl

/-- A taken transfer with a good target: its link, and its place. -/
theorem issuesTo_transfer {lost : Nat} {link : State → State} (h : s.GoodTarget t) (l : link s = s.lands es)
    (e : exec i s = .next (s.transfer t lost link)) : IssuesTo i s es (placeAt t) lost :=
  ⟨_, e, by rw [transfer_of_good h, l]; exact issuedTo_goTo s es _ lost⟩

/-- A transfer that is not taken. -/
theorem issuesTo_fallThrough {lost : Nat} (e : exec i s = .next (s.fallThrough lost)) : IssuesTo i s [] s.nextFound lost :=
  ⟨_, e, issuedTo_goTo s [] _ lost⟩

/-- A taken branch with a good target. -/
theorem issuesTo_taken {h : Fin 4} (g : s.GoodTarget t) (e : exec i s = .next (s.branch h true t)) :
    IssuesTo i s [] (placeAt t) (if h = 1 then 0 else 1) :=
  issuesTo_transfer g rfl e

/-- A branch that is not taken. -/
theorem issuesTo_untaken {h : Fin 4} (e : exec i s = .next (s.branch h false t)) :
    IssuesTo i s [] s.nextFound (if h = 1 then 1 else 0) :=
  issuesTo_fallThrough e

end Sys2Proof.Machine
end

