-- ==== Sys2Proof/Laws/Memory.lean ====
section
/-! SUPPORT. Sys2Proof/Laws/Memory.lean: the laws of byte memory: every operation keeps the canonical form, a read after a
write gives what was written, and a write leaves every other byte alone. -/

namespace Sys2Proof.Machine

open Sys2Proof

namespace Memory

theorem wfFrom_mono (m : List Host.Cell) (lo hi : Nat) (h : lo ≤ hi) (w : wfFrom hi m = true) : wfFrom lo m = true := by
  cases m with
  | nil => rfl
  | cons c r =>
    simp only [wfFrom, Bool.and_eq_true, decide_eq_true_eq] at w ⊢
    exact ⟨⟨by omega, w.1.2⟩, w.2⟩

theorem wfFrom_set (m : List Host.Cell) (lo a : Nat) (x : Byte) (h : lo ≤ a) (w : wfFrom lo m = true) :
    wfFrom lo (set m a x) = true := by
  induction m generalizing lo with
  | nil =>
    unfold set
    split
    · rfl
    · next hx => simpa [wfFrom, h] using hx
  | cons c r ih =>
    obtain ⟨b, y⟩ := c
    simp only [wfFrom, Bool.and_eq_true, decide_eq_true_eq] at w
    obtain ⟨⟨hb, hy⟩, hr⟩ := w
    unfold set
    split
    · next hab =>
      split
      · simp only [wfFrom, hy, hr, Bool.and_true, decide_eq_true hb]
      · next hx =>
        have hx' : (x != 0) = true := by simpa using hx
        simp only [wfFrom, hy, hr, hx', Bool.and_true, decide_eq_true h, decide_eq_true (Nat.succ_le_of_lt hab)]
    · split
      · next hab =>
        subst hab
        split
        · exact wfFrom_mono r lo (a + 1) (by omega) hr
        · next hx =>
          have hx' : (x != 0) = true := by simpa using hx
          simp only [wfFrom, hr, hx', Bool.and_true, decide_eq_true h]
      · simp only [wfFrom, Bool.and_eq_true, decide_eq_true_eq]
        exact ⟨⟨hb, hy⟩, ih (b + 1) (by omega) hr⟩

/-- A byte written keeps the canonical form. -/
theorem wf_set (m : List Host.Cell) (a : Nat) (x : Byte) (w : wf m = true) : wf (set m a x) = true :=
  wfFrom_set m 0 a x (Nat.zero_le a) w

/-- Bytes written keep the canonical form. -/
theorem wf_write (m : List Host.Cell) (a n x : Nat) (w : wf m = true) : wf (write m a n x) = true := by
  induction n generalizing m a x with
  | zero => exact w
  | succ n ih => exact ih _ _ _ (wf_set m a _ w)

theorem wfFrom_filter (m : List Host.Cell) (f : Host.Cell → Bool) (lo : Nat) (w : wfFrom lo m = true) :
    wfFrom lo (m.filter f) = true := by
  induction m generalizing lo with
  | nil => rfl
  | cons c r ih =>
    simp only [wfFrom, Bool.and_eq_true, decide_eq_true_eq] at w
    rw [List.filter_cons]
    split
    · simp only [wfFrom, Bool.and_eq_true, decide_eq_true_eq]
      exact ⟨w.1, ih _ w.2⟩
    · exact wfFrom_mono _ _ _ (by omega) (ih _ w.2)

/-- Taking cells away keeps the canonical form. -/
theorem wf_filter (m : List Host.Cell) (f : Host.Cell → Bool) (w : wf m = true) : wf (m.filter f) = true :=
  wfFrom_filter m f 0 w

theorem get_of_lt (m : List Host.Cell) (lo a : Nat) (w : wfFrom lo m = true) (h : a < lo) : get m a = 0 := by
  cases m with
  | nil => rfl
  | cons c r =>
    simp only [wfFrom, Bool.and_eq_true, decide_eq_true_eq] at w
    have h1 : a ≠ c.1 := by omega
    have h2 : a < c.1 := by omega
    simp [get, h1, h2]

theorem get_set_same_from (m : List Host.Cell) (lo a : Nat) (x : Byte) (w : wfFrom lo m = true) :
    get (set m a x) a = x := by
  induction m generalizing lo with
  | nil =>
    unfold set
    split
    · next h => simp [get, h]
    · simp [get]
  | cons c r ih =>
    obtain ⟨b, y⟩ := c
    simp only [wfFrom, Bool.and_eq_true, decide_eq_true_eq] at w
    unfold set
    split
    · next hab =>
      split
      · next hx => simp [get, Nat.ne_of_lt hab, hab, hx]
      · simp [get]
    · split
      · next hab =>
        subst hab
        split
        · next hx => rw [get_of_lt r (a + 1) a w.2 (by omega), hx]
        · simp [get]
      · next h1 h2 => simpa [get, h1, h2] using ih _ w.2

/-- A byte reads as it was written. -/
theorem get_set_same (m : List Host.Cell) (a : Nat) (x : Byte) (w : wf m = true) : get (set m a x) a = x :=
  get_set_same_from m 0 a x w

theorem get_set_ne_from (m : List Host.Cell) (lo a b : Nat) (x : Byte) (w : wfFrom lo m = true) (h : b ≠ a) :
    get (set m a x) b = get m b := by
  induction m generalizing lo with
  | nil =>
    unfold set
    split
    · rfl
    · simp [get, h]
  | cons c r ih =>
    obtain ⟨d, y⟩ := c
    simp only [wfFrom, Bool.and_eq_true, decide_eq_true_eq] at w
    unfold set
    split
    · next had =>
      split
      · rfl
      · by_cases hb : b < a
        · have h1 : b ≠ d := by omega
          have h2 : b < d := by omega
          simp [get, h, hb, h1, h2]
        · simp [get, h, hb]
    · split
      · next had =>
        subst had
        split
        · by_cases hb : b < a
          · rw [get_of_lt r (a + 1) b w.2 (by omega)]
            simp [get, h, hb]
          · simp [get, h, hb]
        · simp [get, h]
      · simp [get, ih _ w.2]

/-- A byte written leaves every other byte as it was. -/
theorem get_set_ne (m : List Host.Cell) (a b : Nat) (x : Byte) (w : wf m = true) (h : b ≠ a) :
    get (set m a x) b = get m b := get_set_ne_from m 0 a b x w h

/-- Bytes written leave every byte outside the range as it was. -/
theorem get_write_outside (m : List Host.Cell) (a n x b : Nat) (w : wf m = true) (h : b < a ∨ a + n ≤ b) :
    get (write m a n x) b = get m b := by
  induction n generalizing m a x with
  | zero => rfl
  | succ n ih =>
    rw [write, ih _ _ _ (wf_set m a _ w) (by omega), get_set_ne m a b _ w (by omega)]

/-- The bytes written read as the little-endian bytes of the value. -/
theorem get_write_inside (m : List Host.Cell) (a n x i : Nat) (w : wf m = true) (h : i < n) :
    get (write m a n x) (a + i) = BitVec.ofNat 8 (x / 256 ^ i) := by
  induction n generalizing m a x i with
  | zero => omega
  | succ n ih =>
    cases i with
    | zero =>
      rw [write, get_write_outside _ _ _ _ _ (wf_set m a _ w) (by omega)]
      simp [get_set_same m a _ w]
    | succ i =>
      have := ih (set m a (BitVec.ofNat 8 x)) (a + 1) (x / 256) i (wf_set m a _ w) (by omega)
      rw [write, show a + (i + 1) = a + 1 + i by omega, this, Nat.div_div_eq_div_mul, Nat.pow_succ, Nat.mul_comm]

/-- A read after a write of the same range gives the value, modulo its width. -/
theorem read_write_same (m : List Host.Cell) (a n x : Nat) (w : wf m = true) :
    read (write m a n x) a n = x % 256 ^ n := by
  induction n generalizing m a x with
  | zero => simp [read, Nat.mod_one]
  | succ n ih =>
    rw [read, write, ih _ _ _ (wf_set m a _ w), get_write_outside _ _ _ _ _ (wf_set m a _ w) (by omega),
      get_set_same m a _ w]
    simp only [BitVec.toNat_ofNat]
    change x % 256 + _ = _
    rw [show 256 ^ (n + 1) = 256 * 256 ^ n by rw [Nat.pow_succ, Nat.mul_comm], Nat.mod_mul]

end Memory

end Sys2Proof.Machine
end

