-- ==== Sys2Proof/Tests/Slice0.lean ====
section
/-! SUPPORT. Sys2Proof/Tests/Slice0.lean: tests on fixed values. Words written out from the spec's encodings decode to their
instructions; terms with a reserved field are refused; worked examples of the spec come out as it says; and, for every
statement with hypotheses, states and operands that meet them, clause by clause and at the ends of the ranges. -/

set_option Elab.async false

namespace Sys2Proof.Tests

open Sys2Proof Sys2Proof.Machine

/-! ## Small states -/

/-- A header whose seven words are all tagged for q (R28, R29). -/
def header (q : Seq) : Nat := 1 + seqTag q * 0x11111110

/-- The well of nib 0 with three lines of q's words from 0x100 on, and one at 0x200. -/
def lines (q : Seq) : List Host.Cell :=
  [0x100, 0x120, 0x140, 0x200].foldl (fun m a => Memory.write m (wellPA 0 a) 4 (header q)) []

/-- A context at 0x104, with g4 = 3, g5 = 0x1000, g6 = 0x2000 and the trap vector at 0x200. -/
def ctxAt (q : Seq) : Ctx :=
  { Ctx.reset with
    cid := 1
    r := { Regs.reset with g := ((Regs.reset.g.set 4 3).set 5 0x1000).set 6 0x2000 }
    c := { Csrs.reset with xob := 0x60000, tvec := 0x200 }
    seqs := (Vector.replicate 4 { SeqSt.reset with ended := true }).set q.idx { SeqSt.reset with pc := 0x104, checked := true } }

/-- Stroke 0 of nib 0 in its turn 100, in the slot of q, alone in partition 0 of folio 0. -/
def at_ (q : Seq) : State :=
  { State.reset with
    mem := lines q
    nibs := [(0, { Nib.reset with
      strokes := Nib.reset.strokes.set 0 { Stroke.reset with status := .running, ctx := ctxAt q } })]
    parts := State.reset.parts.set 0 { Part.reset with vf := 1, folios := 1 }
    cycle := 800, cur := ⟨0, 0, q⟩, phase := .turn [0] (.issue q) }

/-- The context of the issuing stroke changed. -/
def withC (s : State) (f : Ctx → Ctx) : State := s.modCtx f

/-- A CSR file changed. -/
def withCsr (s : State) (f : Csrs → Csrs) : State := s.modCtx (fun c => { c with c := f c.c })

/-- The registers changed. -/
def withR (s : State) (f : Regs → Regs) : State := s.modCtx (fun c => { c with r := f c.r })

/-- g[i] holds x. -/
def withG (s : State) (i : Fin 32) (x : Word) : State := withR s (fun r => { r with g := r.g.set i x })

/-- The stroke runs in mode m. -/
def inMode (s : State) (m : Mode) : State :=
  let u := withCsr s (fun c => { c with mode := m })
  { u with turn := { u.turn with mode := m } }

/-- `at_` in mode K. -/
def kern (q : Seq) : State := inMode (at_ q) .k

/-- The n bytes of x stand at the well address a of nib 0. -/
def withW (s : State) (a n x : Nat) : State := { s with mem := Memory.write s.mem (wellPA 0 a) n x }

/-- The state that an outcome answers. -/
def nx : Res → Option State
  | .next t => some t
  | _ => none

/-- `State.Clear` as a test. -/
theorem clear_iff (s : State) (srcs dsts : List RegRef) (long : Bool) : s.Clear srcs dsts long ↔
    (srcs.all (fun x => !s.ctx.r.pending x) && dsts.all (fun x => !s.ctx.r.pending x &&
      (!long || decide (x = .g 0) || decide (x = .p 0) || !s.ctx.inFlight s.tn x))) = true := by
  unfold State.Clear
  cases long <;> simp [or_iff_not_imp_left]

/-- `State.GoodTarget` as a test. -/
theorem good_iff (s : State) (t : Word) : s.GoodTarget t ↔ (t.toNat < s.ctx.c.xob.toNat ∧ t.toNat % 4 = 0 ∧
    lineCheck s.code (t.toNat / 32 * 32) = none ∧ t.toNat % 32 / 4 ≠ 0 ∧
    tagOf (s.code (t.toNat / 32 * 32)) (t.toNat % 32 / 4) = seqTag s.cur.q) :=
  ⟨fun h => ⟨h.1, h.2, h.3, h.4, h.5⟩, fun h => ⟨h.1, h.2.1, h.2.2.1, h.2.2.2.1, h.2.2.2.2⟩⟩

/-- `State.Canonical` as a test. -/
theorem canonical_iff (s : State) : s.Canonical ↔ (Memory.wf s.mem = true ∧ Memory.wf s.hostMem = true ∧
    Memory.wf s.modu.window = true ∧ Memory.wf s.modu.flash = true) :=
  ⟨fun h => ⟨h.1, h.2, h.3, h.4⟩, fun h => ⟨h.1, h.2.1, h.2.2.1, h.2.2.2⟩⟩

/-- `State.LocalOk` as a test. -/
theorem localOk_iff (s : State) (ea : Word) (size al : Nat) : s.LocalOk ea size al ↔ (ea.toNat + size ≤ 0x60000 ∧
    ea.toNat % al = 0 ∧
    (s.turn.mode ≠ .t ∨ s.cnib.ctxEn = false ∨ ea.toNat + size ≤ 0x4C000) ∧
    (∀ b ∈ s.cnib.blocks, b.state = 2 ∨ b.addr + 256 * b.lines ≤ ea.toNat ∨ ea.toNat + size ≤ b.addr) ∧
    ∀ l ∈ s.cnib.locks, l.owner = s.cur.k ∨ l.base + l.len ≤ ea.toNat ∨ ea.toNat + size ≤ l.base) :=
  ⟨fun h => ⟨h.1, h.2, h.3, h.4, h.5⟩, fun h => ⟨h.1, h.2.1, h.2.2.1, h.2.2.2.1, h.2.2.2.2⟩⟩

/-- Accesses that pass, as a test. -/
theorem passes_iff (s : State) (accs : List (State.Acc × Nat)) : (∃ rs, s.Passes accs rs) ↔
    (match s.checkAll accs [] with
      | .ok rs => !s.lockedPieces rs
      | _ => false) = true := by
  unfold State.Passes
  cases s.checkAll accs [] <;> simp

/-! ## Encodings

Every word is written out from the encoding tables of the spec (R43 to R54 and the rule of the instruction), with its operand
fields at values that differ from one another. -/

/-- Every word, with the word after it, reads as its instruction on its sequencer, and no field of it is reserved. -/
abbrev reads (l : List (Seq × BitVec 32 × BitVec 32 × Instr)) : Prop :=
  ∀ r ∈ l, decode r.1 r.2.1 r.2.2.1 = some r.2.2.2 ∧ r.2.2.2.wf = true

theorem test_wordsControl : reads [
  (.s, 0x04005A5A, 0, .dly 0x5a5a), (.a, 0x04000000, 0, .nop),
  (.x, 0x08665A5A, 0, .waits 3 6 0x5a5a), (.w, 0x0C600000, 0, .sinc 3),
  (.s, 0x0C660001, 0, .sadd 3 6), (.a, 0x0C660002, 0, .sset 3 6),
  (.x, 0x0CA30003, 0, .sread 5 3), (.w, 0x0CA30004, 0, .spend 5 3),
  (.s, 0x105A5A5A, 0, .j 0x5a5a5a), (.a, 0x115A5A5A, 0, .jal 0x5a5a5a),
  (.x, 0x14060000, 0, .jr 6), (.w, 0x14A60001, 0, .jalr 5 6),
  (.s, 0x18865A5A, 0, .jtab 4 6 0x5a5a), (.a, 0x1D5A5A5A, 0, .bq 1 0x5a5a5a),
  (.x, 0x20060001, 0, .bpush 6 1), (.x, 0x20060005, 0, .bpushP 6 1),
  (.s, 0x24C75A5A, 0, .beq 6 7 1 0x1a5a), (.a, 0x28C75A5A, 0, .bne 6 7 1 0x1a5a),
  (.x, 0x2CC75A5A, 0, .blt 6 7 1 0x1a5a), (.w, 0x30C75A5A, 0, .bge 6 7 1 0x1a5a),
  (.s, 0x34C75A5A, 0, .bltn 6 7 1 0x1a5a), (.a, 0x38C75A5A, 0, .bgen 6 7 1 0x1a5a),
  (.x, 0x3C000000, 0, .sstop), (.w, 0x3C000001, 0, .sjoin),
  (.x, 0x94C05A5A, 0, .bpAny 6 1 0x1a5a), (.x, 0x94C15A5A, 0, .bpNone 6 1 0x1a5a),
  (.x, 0x94C25A5A, 0, .bpAll 6 1 0x1a5a)] := by decide +kernel

theorem test_wordsScalarA : reads [
  (.s, 0x40A63800, 0, .add 5 6 7), (.a, 0x40A63801, 0, .sub 5 6 7),
  (.w, 0x40A63802, 0, .mul 5 6 7), (.s, 0x40A63803, 0, .mulh 5 6 7),
  (.s, 0x40A63804, 0, .mulhn 5 6 7), (.s, 0x40A63805, 0, .div 5 6 7),
  (.s, 0x40A63806, 0, .divn 5 6 7), (.s, 0x40A63807, 0, .rem 5 6 7),
  (.s, 0x40A63808, 0, .remn 5 6 7), (.s, 0x40A63809, 0, .and 5 6 7),
  (.a, 0x40A6380A, 0, .or 5 6 7), (.w, 0x40A6380B, 0, .xor 5 6 7),
  (.s, 0x40A6380C, 0, .shl 5 6 7), (.a, 0x40A6380D, 0, .shr 5 6 7),
  (.w, 0x40A6380E, 0, .sra 5 6 7), (.s, 0x40A6380F, 0, .slt 5 6 7),
  (.s, 0x40A63810, 0, .sltn 5 6 7), (.s, 0x40A63811, 0, .min 5 6 7),
  (.s, 0x40A63812, 0, .max 5 6 7), (.s, 0x40A63813, 0, .minn 5 6 7),
  (.s, 0x40A63814, 0, .maxn 5 6 7), (.s, 0x40A63815, 0, .sel 5 6 7),
  (.s, 0x40A60016, 0, .clz 5 6), (.s, 0x40A60017, 0, .ctz 5 6),
  (.s, 0x40A60018, 0, .popc 5 6), (.s, 0x40A60019, 0, .rev 5 6),
  (.s, 0x40A6001A, 0, .bswap 5 6), (.s, 0x40A6001B, 0, .sextB 5 6)] := by decide +kernel

theorem test_wordsScalarB : reads [
  (.s, 0x40A6001C, 0, .sextH 5 6), (.s, 0x40A6001D, 0, .sextW 5 6),
  (.s, 0x40A6001E, 0, .zextW 5 6), (.a, 0x44A65A5A, 0, .addi 5 6 0x5a5a),
  (.s, 0x48A65A5A, 0, .andi 5 6 0x5a5a), (.s, 0x4CA65A5A, 0, .ori 5 6 0x5a5a),
  (.s, 0x50A65A5A, 0, .xori 5 6 0x5a5a), (.s, 0x54A65A5A, 0, .slti 5 6 0x5a5a),
  (.s, 0x58A60009, 0, .shli 5 6 9), (.a, 0x58A60049, 0, .shri 5 6 9),
  (.w, 0x58A60089, 0, .srai 5 6 9), (.s, 0x5CA65A5A, 0, .lih 5 6 0x5a5a),
  (.a, 0x60A05A5A, 0, .addpc 5 0x5a5a), (.a, 0x64E00000, 0x89abcdef, .li 7 0x89ABCDEF),
  (.s, 0x68A6020C, 0, .bfx 5 6 8 12), (.s, 0x68A6120C, 0, .bfxs 5 6 8 12),
  (.s, 0x68A6220C, 0, .bfi 5 6 8 12), (.s, 0x6CA61000, 0, .bnet 5 6 2),
  (.s, 0x70460000, 0, .bnld 2 6), (.s, 0x74A63800, 0, .fadd 5 6 7),
  (.s, 0x74A63801, 0, .fsub 5 6 7), (.s, 0x74A63802, 0, .fmul 5 6 7),
  (.s, 0x74A63803, 0, .fmin 5 6 7), (.s, 0x74A63804, 0, .fmax 5 6 7),
  (.s, 0x74A63805, 0, .feq 5 6 7), (.s, 0x74A63806, 0, .flt 5 6 7),
  (.s, 0x74A63807, 0, .fle 5 6 7), (.s, 0x74A60008, 0, .fcvtIF 5 6)] := by decide +kernel

theorem test_wordsScalarC : reads [
  (.s, 0x74A60009, 0, .fcvtFI 5 6), (.s, 0x78A63800, 0, .fmadd 5 6 7),
  (.s, 0xF8660000, 0, .gsub 3 6)] := by decide +kernel

theorem test_wordsSystem : reads [
  (.s, 0x80A00A5A, 0, .csrr 5 0xa5a), (.s, 0x80061A5A, 0, .csrw 6 0xa5a),
  (.s, 0x80062A5A, 0, .csrs 6 0xa5a), (.s, 0x80063A5A, 0, .csrc 6 0xa5a),
  (.s, 0x84000000, 0, .ecall), (.s, 0x84000001, 0, .ebreak),
  (.s, 0x84000002, 0, .tret), (.s, 0x84000003, 0, .wfm),
  (.s, 0x84000004, 0, .halt), (.s, 0x84000005, 0, .fenceI),
  (.s, 0x88060000, 0, .ctxsw 6), (.s, 0x88063801, 0, .ctxst 6 7),
  (.s, 0x88063802, 0, .ctxld 6 7), (.s, 0x8C063800, 0, .rqpush 6 7),
  (.s, 0x8CA00001, 0, .rqpop 5), (.s, 0x8C060002, 0, .rqpark 6),
  (.s, 0x8CA60003, 0, .rqstate 5 6), (.s, 0x90063800, 0, .tmset 6 7),
  (.s, 0x94063800, 0, .wlock 6 7), (.s, 0x94060001, 0, .wunlock 6),
  (.s, 0xF4005A5A, 0, .rpush 0x5a5a), (.s, 0xF4205A5A, 0, .rpop 0x5a5a),
  (.s, 0xF4405A5A, 0, .mark 0x5a5a)] := by decide +kernel

theorem test_wordsExchange : reads [
  (.s, 0x98A63803, 0, .msg 5 6 7 3), (.s, 0xC0660000, 0, .cpy 3 6),
  (.s, 0xC0660001, 0, .cpyTopk 3 6), (.s, 0xC0660002, 0, .cpyPack 3 6),
  (.s, 0xC4663800, 0, .xperm 3 6 7), (.s, 0xC8663800, 0, .xsend 3 6 7),
  (.s, 0xCC060000, 0, .xrcfg 6), (.s, 0xCCA60001, 0, .xrpop 5 6),
  (.s, 0xCCA00002, 0, .xrstat 5), (.s, 0xD0060000, 0, .barArr 6),
  (.s, 0xD0660001, 0, .barWait 3 6), (.s, 0xD0660002, 0, .barSync 3 6),
  (.s, 0xD4663800, 0, .xsum 3 6 7)] := by decide +kernel

theorem test_wordsMatrix : reads [
  (.s, 0xA0000104, 0xa000, .mcfg 0x104 0xA000), (.s, 0xA4060A5A, 0, .mcfgr 6 0xa5a),
  (.s, 0xA8060000, 0, .mfmt 6), (.s, 0xAC600006, 0, .mgo 3 1 2),
  (.s, 0xB0663800, 0, .mgrp 3 6 7), (.s, 0xB4663801, 0, .mwld 3 6 7 1),
  (.s, 0xB8060000, 0, .mzero 6), (.s, 0xB8663801, 0, .mrd 3 6 7),
  (.s, 0xB8000002, 0, .mresume), (.s, 0xB8A00003, 0, .mstat 5)] := by decide +kernel

theorem test_wordsRouting : reads [
  (.s, 0xE0660000, 0, .selr 3 6), (.s, 0xE0660001, 0, .selc 3 6),
  (.s, 0xE4460000, 0, .sdecl 2 6), (.s, 0xE8401800, 0, .sweep 2 3),
  (.s, 0xEC460000, 0, .swake 2 6), (.s, 0xF0A20000, 0, .sstat 5 2),
  (.x, 0x7CA60A20, 0, .vtopk 5 6 0 1 2 2), (.x, 0x7CA60261, 0, .vbinpos 5 6 2 2),
  (.x, 0x7C000002, 0, .vbinclr), (.x, 0x7CA60053, 0, .vbinrd 5 6),
  (.x, 0x7CA60274, 0, .vsortkv 5 6 0 2 1)] := by decide +kernel

theorem test_wordsMemoryA : reads [
  (.w, 0xC0263800, 0, .mmod 1 6 7), (.a, 0x80A64C25, 0, .ldB 5 6 1 3 0x25),
  (.a, 0x84A64C25, 0, .ldH 5 6 1 3 0x25), (.a, 0x88A64C25, 0, .ldW 5 6 1 3 0x25),
  (.a, 0x8CA64C25, 0, .ldD 5 6 1 3 0x25), (.a, 0x90A64C25, 0, .ldBn 5 6 1 3 0x25),
  (.a, 0x94A64C25, 0, .ldHn 5 6 1 3 0x25), (.a, 0x98A64C25, 0, .ldWn 5 6 1 3 0x25),
  (.a, 0x9CA64C25, 0, .ldV 5 6 1 3 0x25), (.a, 0xA0064C25, 0, .ldQ 6 1 3 0x25),
  (.a, 0xA4A63893, 0, .ldgV 5 6 7 2 1 3), (.a, 0xA8063893, 0, .ldgQ 6 7 2 1 3),
  (.a, 0xACA64C25, 0, .ldfe 5 6 1 3 0x25), (.a, 0xB0A64C25, 0, .ldff 5 6 1 3 0x25),
  (.a, 0xB4A63870, 0, .amoAdd 5 6 7 3 1), (.a, 0xB4A63871, 0, .amoAnd 5 6 7 3 1),
  (.a, 0xB4A63872, 0, .amoOr 5 6 7 3 1), (.a, 0xB4A63873, 0, .amoXor 5 6 7 3 1),
  (.a, 0xB4A63874, 0, .amoMin 5 6 7 3 1), (.a, 0xB4A63875, 0, .amoMax 5 6 7 3 1),
  (.a, 0xB4A63876, 0, .amoMinn 5 6 7 3 1), (.a, 0xB4A63877, 0, .amoMaxn 5 6 7 3 1),
  (.a, 0xB4A63878, 0, .amoSwap 5 6 7 3 1), (.a, 0xB4A63879, 0, .amoCas 5 6 7 3 1),
  (.a, 0xB4A6386A, 0, .amoFadd 5 6 7 3), (.a, 0xB8A600C8, 0, .ldblk 5 6 3 8),
  (.a, 0xBC060000, 0, .bfree 6), (.a, 0xBCA60001, 0, .bstat 5 6)] := by decide +kernel

theorem test_wordsMemoryB : reads [
  (.a, 0xBC660002, 0, .bdrain 3 6), (.w, 0x80A64C25, 0, .stB 5 6 1 3 0x25),
  (.w, 0x84A64C25, 0, .stH 5 6 1 3 0x25), (.w, 0x88A64C25, 0, .stW 5 6 1 3 0x25),
  (.w, 0x8CA64C25, 0, .stD 5 6 1 3 0x25), (.w, 0x9CA64C25, 0, .stV 5 6 1 3 0x25),
  (.w, 0xA0064C25, 0, .stQ 6 1 3 0x25), (.w, 0xA4A63893, 0, .stsV 5 6 7 2 1 3),
  (.w, 0xA8063893, 0, .stsQ 6 7 2 1 3), (.w, 0xACA64C25, 0, .stfe 5 6 1 3 0x25),
  (.w, 0xB0A64C25, 0, .stff 5 6 1 3 0x25), (.w, 0xB4660000, 0, .pub 3 6)] := by decide +kernel

theorem test_wordsVectorA : reads [
  (.x, 0x40A63A20, 0, .vadd 5 6 7 2 2), (.x, 0x40A63A21, 0, .vsub 5 6 7 2 2),
  (.x, 0x40A63A22, 0, .vmul 5 6 7 2 2), (.x, 0x40A63A23, 0, .vmulh 5 6 7 2 2),
  (.x, 0x40A63A24, 0, .vand 5 6 7 2 2), (.x, 0x40A63A25, 0, .vor 5 6 7 2 2),
  (.x, 0x40A63A26, 0, .vxor 5 6 7 2 2), (.x, 0x40A63A27, 0, .vshl 5 6 7 2 2),
  (.x, 0x40A63A28, 0, .vshr 5 6 7 2 2), (.x, 0x40A63A29, 0, .vsra 5 6 7 2 2),
  (.x, 0x40A63A2A, 0, .vmin 5 6 7 2 2), (.x, 0x40A63A2B, 0, .vmax 5 6 7 2 2),
  (.x, 0x40A6022C, 0, .vabs 5 6 2 2), (.x, 0x40A6022D, 0, .vneg 5 6 2 2),
  (.x, 0x40A63A2E, 0, .vadds 5 6 7 2 2), (.x, 0x40A63A2F, 0, .vsubs 5 6 7 2 2),
  (.x, 0x44A60220, 0, .vmov 5 6 2 2), (.x, 0x44A63A21, 0, .vsel 5 6 7 2 2),
  (.x, 0x44A63A22, 0, .vshuf 5 6 7 2 2), (.x, 0x44A63A23, 0, .vslide 5 6 7 2 2),
  (.x, 0x44A63A24, 0, .vzip 5 6 7 2 2), (.x, 0x44A63A25, 0, .vunzip 5 6 7 2 2),
  (.x, 0x44A60226, 0, .vidx 5 6 2 2), (.x, 0x44A60227, 0, .vbcast 5 6 2 2),
  (.x, 0x44A63828, 0, .vext 5 6 7 2), (.x, 0x44A63829, 0, .vins 5 6 7 2),
  (.x, 0x44A6022A, 0, .vnot 5 6 2 2), (.x, 0x44A6022B, 0, .vclz 5 6 2 2)] := by decide +kernel

theorem test_wordsVectorB : reads [
  (.x, 0x44A6022C, 0, .vpopc 5 6 2 2), (.x, 0x48A63A20, 0, .vcmpEq 5 6 7 2 2),
  (.x, 0x48A63A21, 0, .vcmpNe 5 6 7 2 2), (.x, 0x48A63A22, 0, .vcmpLt 5 6 7 2 2),
  (.x, 0x48A63A23, 0, .vcmpLe 5 6 7 2 2), (.x, 0x48A63A24, 0, .vcmpGt 5 6 7 2 2),
  (.x, 0x48A63A25, 0, .vcmpGe 5 6 7 2 2), (.x, 0x4CA63A90, 0, .vfadd 5 6 7 2 1),
  (.x, 0x4CA63A91, 0, .vfsub 5 6 7 2 1), (.x, 0x4CA63A92, 0, .vfmul 5 6 7 2 1),
  (.x, 0x4CA63A93, 0, .vfmin 5 6 7 2 1), (.x, 0x4CA63A94, 0, .vfmax 5 6 7 2 1),
  (.x, 0x4CA60295, 0, .vfabs 5 6 2 1), (.x, 0x4CA60296, 0, .vfneg 5 6 2 1),
  (.x, 0x4CA63A97, 0, .vfeq 5 6 7 2 1), (.x, 0x4CA63A98, 0, .vflt 5 6 7 2 1),
  (.x, 0x4CA63A99, 0, .vfle 5 6 7 2 1), (.x, 0x50A63A90, 0, .vfma 5 6 7 2 1),
  (.x, 0x50A63A91, 0, .vfms 5 6 7 2 1), (.x, 0x50A63A92, 0, .vfnma 5 6 7 2 1),
  (.x, 0x50A63A93, 0, .vfnms 5 6 7 2 1), (.x, 0x54A60229, 0, .vcvt 5 6 2 2 9),
  (.x, 0x58A62290, 0, .vpackBfp 5 6 4 2), (.x, 0x58A62291, 0, .vunpackBfp 5 6 4 2),
  (.x, 0x5CA60220, 0, .vredsum 5 6 2 2), (.x, 0x5CA60291, 0, .vfredsum 5 6 2 1),
  (.x, 0x5CA60222, 0, .vredmax 5 6 2 2), (.x, 0x5CA60223, 0, .vredmin 5 6 2 2)] := by decide +kernel

theorem test_wordsVectorC : reads [
  (.x, 0x5CA60294, 0, .vfredmax 5 6 2 1), (.x, 0x5CA60295, 0, .vfredmin 5 6 2 1),
  (.x, 0x5CA60226, 0, .vredand 5 6 2 2), (.x, 0x5CA60227, 0, .vredor 5 6 2 2),
  (.x, 0x60A63800, 0, .pand 5 6 7), (.x, 0x60A63801, 0, .por 5 6 7),
  (.x, 0x60A63802, 0, .pxor 5 6 7), (.x, 0x60A60003, 0, .pnot 5 6),
  (.x, 0x60A00004, 0, .pset 5), (.x, 0x60A00005, 0, .pclr 5),
  (.x, 0x60A60006, 0, .pcount 5 6), (.x, 0x60A60007, 0, .pfirst 5 6),
  (.x, 0x64A44802, 0, .vwhile 5 4 9 2), (.x, 0x68A00000, 0, .vwidth 5),
  (.x, 0x6C005A5A, 0, .sploop 0x5a5a), (.x, 0x6C200009, 0, .vrot 9),
  (.x, 0x70A61A90, 0, .vexp2 5 6 3 2), (.x, 0x70A61A91, 0, .vlog2 5 6 3 2),
  (.x, 0x70A61A92, 0, .vrcp 5 6 3 2), (.x, 0x70A61A93, 0, .vrsqrt 5 6 3 2),
  (.x, 0x74A00260, 0, .vrand 5 2), (.x, 0x78A00000, 0, .vpop 5),
  (.x, 0x78060001, 0, .vpush 6), (.x, 0x80A64414, 0, .vaddi 5 6 2 2 20),
  (.x, 0x84A64414, 0, .vshli 5 6 2 2 20), (.x, 0x88A64414, 0, .vshri 5 6 2 2 20),
  (.x, 0x8CA64414, 0, .vsrai 5 6 2 2 20), (.x, 0x90A04414, 0, .vli 5 2 2 20)] := by decide +kernel
/-- Words of the spec's worked programs (R227, R235, R268, R277, R341 and the examples of their files). -/
theorem test_wordsOfPrograms : reads [
  (.s, 0xA8040000, 0, .mfmt 4), (.s, 0x8C170003, 0, .rqstate 0 23), (.s, 0x8E800001, 0, .rqpop 20),
  (.s, 0x9018B800, 0, .tmset 24 23), (.s, 0xCEF90001, 0, .xrpop 23 25), (.s, 0xB0BBF800, 0, .mgrp 5 27 31),
  (.s, 0xB426A800, 0, .mwld 1 6 21 0), (.s, 0xA4040000, 0, .mcfgr 4 0), (.s, 0x80A00101, 0, .csrr 5 0x101),
  (.s, 0x80041100, 0, .csrw 4 0x100), (.x, 0x41EF4366, 0, .vxor 15 15 8 3 6), (.s, 0xF8C40000, 0, .gsub 6 4),
  (.s, 0xC4642800, 0, .xperm 3 4 5), (.s, 0xC8643000, 0, .xsend 3 4 6), (.x, 0x44635062, 0, .vshuf 3 3 10 0 6)] := by
  decide +kernel

/-- R43, R58, R107, R120, R130, R150, R203, R208, R209, R250 to R252: a field with a reserved value is refused. -/
theorem test_reservedFields : ∀ i ∈ ([.dly 0, .waits 0 4 1, .sread 4 0, .bq 3 8, .beq 4 5 3 8, .bpAny 1 3 8,
    .bfx 4 5 63 1, .bfi 4 5 1 63, .msg 4 5 6 0, .mgo 1 3 0, .mgo 1 0 3, .mgo 0 0 0, .ldD 4 5 3 0 0x100, .ldD 4 4 1 0 8, .ldV 4 4 2 0 8,
    .stW 4 5 3 0 0x200, .vshli 4 5 1 2 32, .vshri 4 5 1 0 8, .vsrai 4 5 1 1 0x1FF, .vtopk 4 5 0 3 1 3, .vtopk 4 5 0 4 1 2,
    .vsortkv 4 5 4 1 1, .vcvt 4 5 1 12 0, .vcvt 4 5 1 0 12, .vpackBfp 4 5 1 1, .vunpackBfp 4 5 9 1, .vmov 4 5 1 12,
    .vexp2 4 5 0 1, .vbinpos 4 5 1 3, .selr 0 4, .cpy 0 4, .pub 0 4] : List Instr), i.wf = false := by
  decide +kernel

/-- The terms beside them, at the last value that the spec admits, are not refused. -/
theorem test_admittedFields : ∀ i ∈ ([.dly 1, .waits 1 4 1, .bq 2 8, .bfx 4 5 63 0, .bfi 4 5 0 63, .mgo 1 2 2, .ldD 4 5 3 0 0xFF,
    .ldD 4 4 0 0 8, .vshli 4 5 1 2 31, .vshri 4 5 1 0 7, .vtopk 4 5 0 3 1 2, .vsortkv 4 5 4 1 0, .vcvt 4 5 1 11 11,
    .vpackBfp 4 5 2 1, .vunpackBfp 4 5 8 1, .vmov 4 5 1 11, .vbinpos 4 5 1 2] : List Instr), i.wf = true := by
  decide +kernel


/-! ## States that meet the hypotheses of the statements -/

/-- The word w stands at the PC of `at_ q`. -/
def wordAt (q : Seq) (w : Nat) : State := withW (at_ q) 0x104 4 w

theorem test_hyp_DecodeInvertsEncode :
    (Instr.jtab 4 5 0xFFFF).wellFormed .w = true ∧ (Instr.li 31 0x80000000).wellFormed .a = true ∧
    (Instr.vsortkv 31 0 4 7 1).wellFormed .x = false ∧ (Instr.vsortkv 31 0 4 7 0).wellFormed .x = true := by decide +kernel

theorem test_hyp_DecodingIsExact :
    decode .s 0x44A40010 0 = some (.addi 5 4 16) ∧ isLong .s 0x64E00000 = true ∧
    (0x03FFFFFF : BitVec 32).toNat / 2 ^ 26 = 0 ∧ (0xFC000000 : BitVec 32).toNat / 2 ^ 26 = 0x3F := by decide +kernel

theorem test_hyp_StepRunsTheDecodedWord :
    (wordAt .x 0x04000000).phase = .turn [0] (.issue .x) ∧
    let u := (wordAt .x 0x04000000).slot 0 [] .x
    u.mayIssue = true ∧ (u.seqSt .x).lost = 0 ∧ (u.seqSt .x).checked = true ∧ (∃ t, u.fetch = .word t ∧ t.pc = 0x104) ∧
    decode .x 0x04000000 0 = some .nop ∧ Instr.nop.wf = true ∧ decode .x 0 0 = none ∧
    decode .x 0x04010000 0 = none ∧ decode .s 0x04000000 7 = some .nop ∧
    (∃ t, ((withC (wordAt .x 0x04000000) (fun c => { c with seqs := c.seqs.set 2 { c.seqs[2] with checked := false } })).slot
      0 [] .x).fetch = .word t ∧ t.pc = 0x104) := by
  refine ⟨by decide +kernel, by decide +kernel, by decide +kernel, by decide +kernel, ⟨_, rfl, by decide +kernel⟩,
    by decide +kernel, by decide +kernel, by decide +kernel, by decide +kernel, by decide +kernel, ⟨_, rfl, by decide +kernel⟩⟩

theorem test_hyp_StepKeepsMemoryCanonical : (at_ .s).Canonical ∧ ∃ t, step (at_ .s) = .next t :=
  ⟨(canonical_iff _).mpr (by decide +kernel), _, rfl⟩

theorem test_hyp_TrapsAreTaken :
    let s := at_ .w
    let ts := withCsr s (fun c => { c with tstatus := 0x100 })
    let ret := { s with turn := { s.turn with tret := true } }
    (s.turn.trapped = false ∧ s.turn.tret = false ∧ s.turn.halt = none ∧ s.turn.mode ≠ .d ∧ s.ctx.c.ts = false) ∧
    ({ s with turn := { s.turn with trapped := true } }).turn.trapped = true ∧
    (ts.turn.trapped = false ∧ ts.turn.halt = none ∧ ts.turn.mode ≠ .d ∧ ts.turn.tret = false ∧ ts.ctx.c.ts = true) ∧
    (ret.turn.tret = true ∧ getBits ret.turn.status 8 1 = 0 ∧ ret.turn.mode ≠ .d ∧ ret.turn.halt = none) ∧
    getBits ({ ret with turn := { ret.turn with status := 0x100 } }).turn.status 8 1 = 1 ∧ (inMode s .d).turn.mode = .d := by
  decide +kernel

theorem test_hyp_PendingRegistersTrap :
    let s := withR (at_ .s) (fun r => { r with pendG := 0x30 })
    s.ctx.r.pending (.g 3) = false ∧ s.ctx.r.pending (.g 4) = true ∧ s.ctx.r.pending (.g 5) = true ∧
    let u := withC (at_ .s) (fun c => { c with inflight := [⟨102, 99, .s, .reg (.g 5 3)⟩] })
    (u.ctx.r.pending (.g 5) = false ∧ ∃ l ∈ u.ctx.inflight, l.eff = .reg (.g 5 3) ∧ l.issued < u.tn) ∧
    let v := withC (at_ .s) (fun c => { c with resumed := some 98, lateWrites := [⟨.g 5 9, 3, .s, 90⟩] })
    v.ctx.resumed ≠ none ∧ ∃ w ∈ v.ctx.lateWrites, w.reg.ref = .g 5 := by decide +kernel

/-- The line checks at a good line, a wrong version, a reserved tag, a stray K word, and long instructions cut off at word 3 and
at the end of the line. -/
theorem test_hyp_LineChecks :
    lineCheck (at_ .s).code 0x100 = none ∧
    lineCheck (withW (at_ .s) 0x100 4 0x11111112).code 0x100 = some (0x0A, 0x100) ∧
    lineCheck (withW (at_ .s) 0x100 4 0x61161111).code 0x100 = some (0x0A, 0x110) ∧
    lineCheck (withW (at_ .s) 0x100 4 0x11151111).code 0x100 = some (0x02, 0x110) ∧
    lineCheck (withW (withW (at_ .s) 0x100 4 0x11151111) 0x10C 4 0x64000000).code 0x100 = none ∧
    lineCheck (withW (at_ .s) 0x10C 4 0x64000000).code 0x100 = some (0x02, 0x10C) ∧
    lineCheck (withW (at_ .s) 0x11C 4 0xA0000000).code 0x100 = some (0x02, 0x11C) := by decide +kernel

/-- A bad target of every kind: at `xob`, no word address, a header, another stream's word, and a line that fails; and the
conditions under which each transfer is taken. -/
theorem test_hyp_BadTargetsTrap :
    let s := withC (at_ .x) (fun c => { c with x := { c.x with oq := c.x.oq.set 2 [⟨true, 9⟩] } })
    s.BadTarget 0x60000 0x01 0x60000 ∧ s.BadTarget 0x126 0x00 0x126 ∧ s.BadTarget 0x140 0x00 0x140 ∧
    (withW s 0x120 4 0x11111121).BadTarget 0x124 0x00 0x124 ∧ s.BadTarget 0x164 0x0A 0x160 ∧
    (s.pc + BitVec.ofInt 64 (4 * (15 : BitVec 24).toInt) = 0x140 ∧ s.pc + BitVec.ofInt 64 (4 * (15 : BitVec 14).toInt) = 0x140 ∧
      s.pc + BitVec.ofInt 64 (4 * (15 : BitVec 16).toInt) = 0x140 ∧ (withG s 8 0x140).rg 8 = 0x140) ∧
    (s.Clear [.g 4, .g 5] [.g 1, .p 4, .p 5, .p 6, .p 7] false ∧ s.ctx.x.oq[s.cur.q.idx] = [⟨true, 9⟩] ∧ s.rg 7 = s.rg 8 ∧
      s.rg 4 ≠ s.rg 5 ∧ (s.rg 4).toInt < (s.rg 5).toInt ∧ (s.rg 4).toNat < (s.rg 5).toNat ∧
      (∃ i < 128, (s.rp 0).getLsbD i = true) ∧ (∀ i < 128, (s.rp 3).getLsbD i = false) ∧
      ∀ i < 128, (s.rp 0).getLsbD i = true) ∧
    (let u := withG (withW s 0x1000 4 15) 8 0;
      (u.rg 8).toNat < (1 : BitVec 16).toNat ∧ u.rg 5 + u.rg 8 * 4 = 0x1000 ∧ u.recordsShut 0x1000 4 = false ∧
      u.lockedOut 0x1000 4 = false ∧ u.pc + (BitVec.ofNat 32 (u.wellRead 0x1000 4)).signExtend 64 * 4 = 0x140) ∧
    getBits (withCsr s (fun c => { c with spctl := 0x10000 })).ctx.c.spctl 16 16 ≠ 0 := by
  refine ⟨.inl (by decide +kernel), .inr ⟨by decide +kernel, .inl (by decide +kernel)⟩,
    .inr ⟨by decide +kernel, .inr ⟨by decide +kernel, .inr (by decide +kernel)⟩⟩,
    .inr ⟨by decide +kernel, .inr ⟨by decide +kernel, .inr (by decide +kernel)⟩⟩,
    .inr ⟨by decide +kernel, .inr ⟨by decide +kernel, .inl ⟨0x160, by decide +kernel, by decide +kernel⟩⟩⟩,
    by decide +kernel, by simp only [clear_iff]; decide +kernel, by decide +kernel, by decide +kernel⟩

/-- Operands that meet the premises of the scalar instructions: none pending, source and destination one register, and g0. -/
theorem test_hyp_ScalarOperands :
    (at_ .s).Clear [.g 4, .g 5] [.g 4] false ∧ (at_ .s).Clear [.g 4, .g 4, .g 5] [.g 4] false ∧
    (at_ .s).Clear [.g 0, .g 0] [.g 0] false ∧ (at_ .s).Clear [] [.g 31] false ∧
    (63 : BitVec 6).toNat + 1 + (0 : BitVec 6).toNat ≤ 64 ∧ (0 : BitVec 6).toNat + 1 + (63 : BitVec 6).toNat ≤ 64 := by
  simp only [clear_iff]; decide +kernel

theorem test_hyp_DividesAndUnaryOperators :
    let s := withG (withG (at_ .s) 7 0x8000000000000000) 8 (-1)
    s.Clear [.g 4, .g 5] [.g 4] false ∧ s.divideInFlight = false ∧ s.rg 0 = 0 ∧ s.rg 5 ≠ 0 ∧
    ¬ ((s.rg 4).toInt = -2 ^ 63 ∧ (s.rg 5).toInt = -1) ∧ (s.rg 7).toInt = -2 ^ 63 ∧ (s.rg 8).toInt = -1 ∧
    (withC s (fun c => { c with inflight := [⟨103, 97, .s, .reg (.g 5 3)⟩] })).divideInFlight = true := by
  simp only [clear_iff]; decide +kernel

/-- Values of each kind, at the ends of the formats: a NaN, both infinities, the largest and smallest numbers and -0. -/
theorem test_hyp_ScalarFloatResults :
    (at_ .s).Clear [.g 4, .g 5] [.g 0] false ∧ (at_ .s).Clear [.g 5, .g 4, .g 5] [.g 5] false ∧
    fmt32.value 0x7FC00000 = .nan ∧ fmt32.value 0x7F800000 = .inf false ∧ fmt16.value 0xFF80 = .inf true ∧
    (match fmt32.value 0x00000001, fmt32.value 0x80000000, fmt16.value 0x7F7F with
      | .fin false m e, .fin true 0 _, .fin false n g => decide (m = 1 ∧ e = -149 ∧ n = 255 ∧ g = 120)
      | _, _, _ => false) = true ∧
    ((0x7F800000 : Nat) < 2 ^ fmt32.bits ∧ (0xFF80 : Nat) < 2 ^ fmt16.bits) ∧ (-(2 : Int) ^ 63 ≤ 0 ∧ (0 : Int) ≤ 2 ^ 63 - 1) := by
  simp only [clear_iff]; decide +kernel

/-- The outcome queue of sequencer i holds l. -/
def withOq (s : State) (i : Fin 4) (l : List OQEntry) : State :=
  withC s (fun c => { c with x := { c.x with oq := c.x.oq.set i l } })

theorem test_hyp_ControlTransfers :
    let s := withG (withW (at_ .x) 0x1000 4 8) 8 0x144
    -- jumps and branches, to the first word of a line and to the last
    s.GoodTarget 0x144 ∧ s.GoodTarget 0x15C ∧ s.Clear [.g 8] [.g 1, .g 14] false ∧
    s.pc + BitVec.ofInt 64 (4 * (16 : BitVec 24).toInt) = 0x144 ∧ s.pc + BitVec.ofInt 64 (4 * (16 : BitVec 14).toInt) = 0x144 ∧
    (s.Clear [.g 4, .g 5] [] false ∧ s.rg 4 ≠ s.rg 5 ∧ (s.rg 4).toInt < (s.rg 5).toInt ∧ s.Clear [.p 3] [] false ∧
      (∀ i < 128, (s.rp 3).getLsbD i = false) ∧ ∃ i < 128, (s.rp 0).getLsbD i = true) ∧
    -- a jump table: at its length, below it, outside the window, misaligned, hidden, and locked
    (let u := withG (withW s 0x1000 4 16) 4 0;
      u.Clear [.g 4, .g 5] [] false ∧ (0 : BitVec 16).toNat ≤ (u.rg 4).toNat ∧ (u.rg 4).toNat < (1 : BitVec 16).toNat ∧
      u.rg 5 + u.rg 4 * 4 = 0x1000 ∧ u.recordsShut 0x1000 4 = false ∧ u.lockedOut 0x1000 4 = false ∧
      u.pc + (BitVec.ofNat 32 (u.wellRead 0x1000 4)).signExtend 64 * 4 = 0x144 ∧
      0x5FFFC < (withG u 5 0x5FFFD).rg 5 + u.rg 4 * 4 ∧ (0x1002 : Word).toNat % 4 ≠ 0 ∧ (0x5FFFC : Word).toNat ≤ 0x5FFFC ∧
      (u.modNib 0 (fun n => { n with ctxEn := true })).recordsShut 0x4C000 4 = true ∧
      (u.modNib 0 (fun n => { n with ctxEn := true })).recordsShut 0x4BFFC 4 = false ∧
      (u.modNib 0 (fun n => { n with locks := [⟨0x1000, 64, 1⟩] })).lockedOut 0x1000 4 = true) ∧
    -- outcome queues: empty, with a bit of either kind at the head, with 15 entries and with 16
    s.ctx.x.oq[s.cur.q.idx] = [] ∧ s.oqCount .a < 16 ∧
    (let u := withOq (withOq s 1 (.replicate 16 ⟨true, 0⟩)) 2 (⟨false, 9⟩ :: .replicate 14 ⟨true, 9⟩);
      16 ≤ u.oqCount .a ∧ u.oqCount .x < 16 ∧ u.ctx.x.oq[u.cur.q.idx] = ⟨false, 9⟩ :: .replicate 14 ⟨true, 9⟩) := by
  simp only [clear_iff, good_iff]; decide +kernel

/-- The state of a step block: W ended it, and S and X still run, or S alone. -/
def inStep (run : List Seq) : State :=
  withC (at_ .s) (fun c => { c with x := { c.x with
    sweep := some ⟨0, 1, [.s, .x], run, [], 3, .run, 0, 0, 0, 0, 0, 0, 0, [], 0, 0⟩ } })

theorem test_hyp_DelaysAndStreamEnds :
    (at_ .x).phase = .turn [0] (.issue .x) ∧ ((at_ .s).slot 0 [] .x).mayIssue = false ∧
    (let s := withC (at_ .x) (fun c => { c with seqs := c.seqs.set 2 { c.seqs[2] with lost := 1 } });
      (s.slot 0 [] .x).mayIssue = true ∧ 0 < ((s.slot 0 [] .x).seqSt .x).lost) ∧
    (at_ .s).inBlock = false ∧ (at_ .s).turn.sEnded = false ∧ ((at_ .s).seqSt .s).fault = false ∧ (at_ .s).turn.trapped = false ∧ (at_ .s).turn.halt = none ∧
    (inStep [.s, .x]).inBlock = true ∧
    ∃ w, (inStep [.s]).ctx.x.sweep = some w ∧ w.running.all (· == .s) = true := by
  refine ⟨by decide +kernel, by decide +kernel, by decide +kernel, by decide +kernel, by decide +kernel, by decide +kernel,
    by decide +kernel, by decide +kernel, by decide +kernel, _, rfl, by decide +kernel⟩

theorem test_hyp_SealsAndHandoffs :
    let s := withR (at_ .s) (fun r => { r with seals := r.seals.set 3 ⟨8, 1, 77⟩ })
    s.Clear [.g 4] [.g 5] false ∧ s.ctx.r.seals[3].pend ≠ 0 ∧ s.ctx.r.seals[2].pend = 0 ∧
    -- a threshold formed now, kept from an earlier attempt, met exactly, and missed by one
    (s.seqSt s.cur.q).thr = none ∧ (8 : BitVec 16) = (s.rg 4 + (5 : BitVec 16).setWidth 64).setWidth 16 ∧
    (s.ctx.r.seals[3].count - 8).toNat < 2 ^ 15 ∧ 2 ^ 15 ≤ (s.ctx.r.seals[3].count - 9).toNat ∧
    ((withC s (fun c => { c with seqs := c.seqs.set 0 { c.seqs[0] with thr := some 4 } })).seqSt .s).thr = some 4 ∧
    -- results in flight, and a record that counts
    (let u := withC s (fun c => { c with inflight := [⟨106, 100, .s, .reg (.g 3 4)⟩, ⟨108, 100, .x, .reg (.g 3 4)⟩], resumed := some 98
                                         lateWrites := [⟨.g 3 9, 5, .s, 90⟩] });
      u.handoffDue = 106 ∧ u.ctx.resumed = some 98) := by
  simp only [clear_iff]; decide +kernel

theorem test_hyp_RegistersAndLandings :
    -- a result due behind one that is not yet due
    (let s := withC (at_ .s) (fun c => { c with inflight := [⟨106, 100, .s, .reg (.g 3 4)⟩, ⟨100, 97, .x, .reg (.p 3 4)⟩,
        ⟨100, 98, .x, .reg (.v 3 4)⟩] });
      (s.stroke 0 0).ctx.inflight = [⟨106, 100, .s, .reg (.g 3 4)⟩] ++ ⟨100, 97, .x, .reg (.p 3 4)⟩ ::
        [⟨100, 98, .x, .reg (.v 3 4)⟩] ∧ s.tn < 106 ∧ 100 ≤ s.tn) ∧
    -- a handoff due, kept results and kept handoffs in their turn
    (let c := { (ctxAt .s) with inflight := [⟨100, 99, .s, .handoff 3 .set 7⟩] };
      (match c.nextHand 100 with
        | .fresh l r => decide (l = ⟨100, 99, .s, .handoff 3 .set 7⟩ ∧ r = [])
        | _ => false) = true) ∧
    (let c := { (ctxAt .s) with resumed := some 98, lateWrites := [⟨.g 3 9, 3, .s, 90⟩, ⟨.g 4 9, 2, .s, 90⟩] };
      c.lateWrites = [⟨.g 3 9, 3, .s, 90⟩] ++ ⟨.g 4 9, 2, .s, 90⟩ :: [] ∧ c.resumed = some 98 ∧ 100 < 98 + 3 ∧ 98 + 2 ≤ 100) ∧
    (let c := { (ctxAt .s) with resumed := some 98, lateWrites := [⟨.g 3 9, 3, .s, 90⟩],
                                 handRecs := [⟨4, .set, 7, .s, 2⟩, ⟨3, .set, 7, .s, 3⟩] };
      (∀ w ∈ c.lateWrites, c.due 100 w.k = false) ∧ (match c.nextHand 100 with
        | .record h r => decide (h = ⟨4, .set, 7, .s, 2⟩ ∧ r = [⟨3, .set, 7, .s, 3⟩])
        | _ => false) = true) ∧
    (ctxAt .s).resumed = none := by decide +kernel

theorem test_hyp_ControlAndStatusRegisters :
    (at_ .s).Clear [] [.g 4] false ∧ (at_ .s).Clear [.g 4] [] false ∧ (at_ .s).turn.mode = .t ∧ (kern .s).turn.mode ≠ .t ∧
    ((kern .s).cur.k ≠ 7 ∧ ({ kern .s with cur := ⟨0, 7, .s⟩ }).cur.k = 7) ∧
    (0x0BF : BitVec 12) ∉ ([0x0C0, 0x101, 0x10B, 0xF00] : List (BitVec 12)) ∧
    (∀ e : Fin 8, ((kern .s).nib 0).entries[e].valid = false) ∧
    (∃ e : Fin 8, (((kern .s).modNib 0 (fun x => { x with entries := x.entries.set 3 { x.entries[3] with valid := true } })).nib
      0).entries[e].valid = true) ∧
    ((withCsr (kern .s) (fun c => { c with mfault := 1 })).stroke 0 0).ctx.c.mfault.getLsbD 0 = true ∧
    (2 : BitVec 64).getLsbD 1 = true ∧ (1 : BitVec 64).getLsbD 0 = true := by
  simp only [clear_iff]; decide +kernel

theorem test_hyp_SystemInstructions :
    let s := kern .s
    let ts := fun (x : Word) => withCsr s (fun c => { c with tstatus := x })
    ((at_ .s).turn.mode = .t ∧ (at_ .s).ctx.c.ts = false ∧ s.turn.mode ≠ .t) ∧
    s.cst.dbg.ebrk = false ∧ (s.modStroke 0 0 (fun x => { x with dbg := { x.dbg with ebrk := true } })).cst.dbg.ebrk = true ∧
    (s.turn.mode = .k ∧ getBits (ts 0x20).ctx.c.tstatus 4 2 = 2 ∧ getBits (ts 0x30).ctx.c.tstatus 4 2 = 3 ∧
      getBits (ts 0x10).ctx.c.tstatus 4 2 < 2 ∧ (inMode s .d).turn.mode = .d ∧
      getBits (withCsr (inMode s .d) (fun c => { c with tstatus := 0x20 })).ctx.c.tstatus 4 2 < 3) ∧
    (s.ctx.seqs[(0 : Fin 4)].held = [] ∧ (withC s (fun c => { c with seqs := c.seqs.set 0 { c.seqs[0] with
      held := [⟨0x104, true, 3, false⟩] } })).ctx.seqs[(0 : Fin 4)].held = [⟨0x104, true, 3, false⟩]) ∧
    (s.cst.mailbox = [] ∧ s.cnib.tip s.cur.k &&& s.ctx.c.tie = 0 ∧
      (s.modStroke 0 0 (fun x => { x with mailbox := [⟨3, 4⟩] })).cst.mailbox ≠ []) := by decide +kernel

theorem test_hyp_TimersAndLocks :
    let s := withG (withG (kern .s) 5 0x40) 6 7
    let held := fun (x : List WLock) => s.modNib 0 (fun n => { n with locks := x })
    s.turn.mode = .k ∧ (at_ .s).turn.mode ≠ .k ∧ s.Clear [.g 6, .g 5] [] false ∧ (s.rg 6).toNat < 8 ∧ 8 ≤ (s.rg 5).toNat ∧
    (let u := s.modStroke 0 0 (fun x => { x with compare := 100 }); (u.stroke 0 0).compare ≠ 0 ∧ (u.stroke 0 0).compare.toNat ≤ u.tn) ∧
    -- a range at the end of the well, one byte block too far, and one of no bytes
    ((0x5FFC0 : Nat) % 64 = 0 ∧ (0x40 : Nat) % 64 = 0 ∧ 64 ≤ (0x40 : Nat) ∧ 0x5FFC0 + 0x40 ≤ 0x60000 ∧ 0x60000 < 0x5FFC0 + 0x80 ∧
      (0 : Nat) < 64) ∧
    -- free, next to another stroke's lock, and meeting it; waiting first, and behind another
    (s.grantedLocks.length < 16 ∧ s.grantedLocks = [] ∧ (held [⟨0x1000, 0x40, 1⟩]).grantedLocks = [(1, 0x1000, 0x40)] ∧
      0x1000 + 0x40 ≤ 0x1040 ∧ ¬ 0x1000 + 0x40 ≤ 0x1000) ∧
    (s.cnib.lockWait = [] ∧ ((s.modNib 0 (fun n => { n with lockWait := [(1, 0x1000, 64), (0, 0x1000, 64)] })).cnib.lockWait.takeWhile
      (fun x => x.1 != s.cur.k)) = [(1, 0x1000, 64)]) ∧
    (s.Clear [.g 5] [] false ∧ ∃ l ∈ (held [⟨0x40, 0x40, 0⟩]).cnib.locks, l.owner = s.cur.k ∧ l.base = (s.rg 5).toNat) := by
  simp only [clear_iff]; decide +kernel

/-- Identifier 19 of nib 0 in state st, listed when it is READY, and selected by g8. -/
def rqAt (st : RqState) (w : Bool) (sel : Word) : State :=
  withG ((kern .s).modNib 0 (fun x => { x with
    rq := x.rq.set 19 ⟨st, w, 0x123, none, false⟩, rqLists := if st = .ready then x.rqLists.set 1 [19, 17] else x.rqLists })) 8 sel

theorem test_hyp_ReadyQueueTable :
    (at_ .s).turn.mode ≠ .k ∧ (rqAt .free false 19).Clear [.g 8, .g 5] [.g 9] false ∧ ((rqAt .free false 19).rg 8).toNat = 19 ∧
    (∀ st ∈ [RqState.free, .ready, .running, .saving, .sleeping], (rqAt st true 19).cnib.rq[(19 : Fin 64)].st = st) ∧
    ((rqAt .running false 0x113).rg 8).toNat = 19 + 0x100 ∧ ((rqAt .sleeping false 0x213).rg 8).toNat = 19 + 0x200 ∧
    (∀ p : Fin 4, (rqAt .free false 19).cnib.rqLists[p] = []) ∧
    ((∀ o : Fin 4, o < 1 → (rqAt .ready false 19).cnib.rqLists[o] = []) ∧ (rqAt .ready false 19).cnib.rqLists[(1 : Fin 4)] = 19 :: [17]) := by
  simp only [clear_iff]; decide +kernel

theorem test_hyp_InterruptsAndDeliveredCauses :
    let s := (withCsr (at_ .s) (fun c => { c with tstatus := 1, tie := 0x82 })).modStroke 0 0 (fun x => { x with mailbox := [⟨3, 4⟩] })
    let c := (s.stroke 0 0).ctx
    (s.turn.trapped = false ∧ s.turn.tret = false ∧ s.turn.halt = none ∧ s.servedWaits 0 c.cid = false ∧
      (s.stroke 0 0).status = .running) ∧
    (getBits c.c.tstatus 0 1 = 1 ∧ c.c.ts = false ∧ c.c.mode ≠ .d ∧ ((s.nib 0).tip 0 &&& c.c.tie).getLsbD 7 = true ∧
      (∀ j ∈ [9, 11, 5], ((s.nib 0).tip 0 &&& c.c.tie).getLsbD j = false)) ∧
    ((at_ .s).nib 0).tip 0 &&& ((at_ .s).stroke 0 0).ctx.c.tie = 0 ∧
    -- a cause that is due, one that is due in the next cycle, and the place of one that arises now
    (let d := withC s (fun c => { c with causes := [⟨0x13, 5, 792, 800⟩, ⟨0x15, 6, 800, 808⟩] });
      (d.stroke 0 0).ctx.causes = ⟨0x13, 5, 792, 800⟩ :: [⟨0x15, 6, 800, 808⟩] ∧ 800 ≤ d.cycle ∧ d.cycle < 801 ∧
      (d.stroke 0 0).status ≠ .vacant ∧ (0x13 : BitVec 8).toNat ≤ (0x13 : BitVec 8).toNat ∧ 800 = d.cycle ∧
      (0x13 : BitVec 8).toNat < (0x15 : BitVec 8).toNat) := by decide +kernel

/-- Stroke 0 of `at_ .s` with another debug unit. -/
def withDbg (s : State) (f : Debug → Debug) : State := s.modStroke 0 0 (fun x => { x with dbg := f x.dbg })

theorem test_hyp_DebugControl :
    let s := at_ .s
    let stopped := s.modStroke 0 0 (fun x => { x with status := .stopped 1 })
    let asked := withDbg stopped (fun d => { d with resumeReq := true })
    ((s.stroke 0 0).status = .running ∧ (s.stroke 0 0).dbg.stopReq = none) ∧
    ((stopped.stroke 0 0).status = .stopped 1 ∧ (stopped.stroke 0 0).dbg.resumeReq = false) ∧
    ((asked.stroke 0 0).dbg.resumeReq = true ∧ (asked.stroke 0 0).swapEnd ≤ asked.cycle ∧ asked.filtersOn (asked.partOf 0) = false ∧
      (asked.stroke 0 0).dbg.drun = false ∧ ((withDbg asked (fun d => { d with drun := true })).stroke 0 0).dbg.drun = true) ∧
    -- the three ways in which a stop is due, and the end of a debug routine
    ((s.stroke 0 0).dbg.gen = false ∧ s.filtersOn (s.partOf 0) = false ∧ s.turn.halt = none ∧
      ({ s with turn := { s.turn with halt := some 3 } }).turn.halt = some 3 ∧
      ((withDbg s (fun d => { d with stopReq := some 5 })).stroke 0 0).dbg.stopReq = some 5 ∧
      ((withDbg s (fun d => { d with stepping := true })).stroke 0 0).dbg.stepping = true ∧
      ((withDbg (inMode s .d) (fun d => { d with inDrun := true })).stroke 0 0).ctx.c.mode = .d) ∧
    -- a halt group with a stopped member
    ((0, 0) ∈ (withDbg stopped (fun d => { d with gen := true, gid := 2 })).groupMembers 0 2 ∧
      (stopped.stroke 0 0).status.isStopped = true) := by decide +kernel

/-- Filter 3 of partition 0 holds x; its trace buffer has room for `size` bytes. -/
def withFilter (x : Word) (size : BitVec 32) : State :=
  { at_ .s with parts := (at_ .s).parts.set 0 { (at_ .s).parts[0] with
      filters := (at_ .s).parts[0].filters.set 3 x, tbase := 0x40000, tsize := size } }

theorem test_hyp_LabelsTraceAndCounters :
    let s := at_ .s
    (∀ f : Fin 8, getBits s.parts[s.partOf s.cur.nib].filters[f] 2 2 = 0) ∧
    ((ctxAt .s).labels.length < 16 ∧ 16 ≤ (List.replicate 16 (5 : BitVec 16)).length ∧ (ctxAt .s).labels = []) ∧
    -- the one filter that is on, with ACT 1 and with ACT 2, and label 0x12
    (let u := withFilter 0x0012FFFF00000004 0x1000;
      u.parts[u.partOf u.cur.nib].filters.toList = [0, 0, 0] ++ 0x0012FFFF00000004 :: [0, 0, 0, 0] ∧ getBits (0 : Word) 2 2 = 0 ∧
      (0x12 : BitVec 16) &&& (0x0012FFFF00000004 : Word).extractLsb' 32 16 =
        (0x0012FFFF00000004 : Word).extractLsb' 48 16 &&& (0x0012FFFF00000004 : Word).extractLsb' 32 16 ∧
      getBits (0x0012FFFF00000004 : Word) 2 2 = 1 ∧ getBits (0x0012FFFF00000008 : Word) 2 2 = 2) ∧
    -- a record that just fits, and one that does not
    (Memory.wf s.mem = true ∧ (0 : BitVec 32).toNat + 32 ≤ (32 : BitVec 32).toNat / 32 * 32 ∧
      (31 : BitVec 32).toNat / 32 * 32 < (0 : BitVec 32).toNat + 32) ∧
    -- turns of every class, and sampled ones
    ((s.stroke 0 0).status ≠ .vacant ∧ s.turn.issued = [] ∧ s.turn.waitMem = false ∧ s.turn.waitMsg = false ∧
      ({ s with turn := { s.turn with issued := [.s], waitMem := true, waitMsg := true } }).turn.issued ≠ [] ∧
      (s.stroke 0 0).ctx.gate = false ∧ ((withC s (fun c => { c with gate := true })).stroke 0 0).ctx.gate = true ∧
      (∀ j : Fin 8, (s.stroke 0 j).gateOn = false ∧ (s.stroke 0 j).gateOff = false) ∧ s.tn % 2 ^ 2 = 0 ∧ s.tn % 2 ^ 3 ≠ 0) := by
  decide +kernel

/-- Nib 0 with its context cache on, a context in entry 3 where `v`, stroke 2 running, and g8 holding `a`. -/
def cacheAt (v : Bool) (a : Word) : State :=
  withG ((kern .s).modNib 0 (fun x => { x with
    ctxEn := true, entries := x.entries.set 3 { x.entries[3] with valid := v, ctx := { ctxAt .x with cid := 5 } }
    strokes := x.strokes.set 2 { x.strokes[2] with status := .running } })) 8 a

/-- Stroke 2 has been swapped with entry 3 in cycle c. -/
def swapAt (v : Bool) (st : Status) (c : Nat) : State :=
  (cacheAt v 0).modStroke 0 2 (fun x => { x with status := st, swap := some (3, c), ctx := { ctxAt .a with cid := 9 } })

theorem test_hyp_ContextSwapIssues :
    let s := cacheAt true 0x302
    s.Clear [.g 8] [] false ∧ s.turn.mode = .k ∧ s.cnib.ctxEn = true ∧ (s.rg 8).toNat = 2 + 0x100 * 3 ∧
    (at_ .s).turn.mode ≠ .k ∧ (kern .s).cnib.ctxEn = false ∧ ((cacheAt true 0x308).rg 8) &&& ~~~ 0x707 ≠ 0 ∧
    ((0 : Fin 8) = s.cur.k ∧ s.holdsLock 2 = false ∧ (s.modNib 0 (fun x => { x with locks := [⟨0, 64, 2⟩] })).holdsLock 2 = true) ∧
    (s.entryBusy 3 = false ∧ (s.modNib 0 (fun x => { x with entries := x.entries.set 3 { x.entries[3] with busyUntil := 801 } })).entryBusy
      3 = true) ∧
    ((s.stroke 0 2).swap = none ∧ (s.stroke 0 2).swapEnd ≤ s.cycle ∧ (s.stroke 0 2).status ≠ .arriving (s.stroke 0 2).swapEnd ∧
      (s.stroke 0 4).status = .vacant ∧ s.cnib.entries[(3 : Fin 8)].valid = true ∧ (cacheAt false 0).cnib.entries[(3 : Fin 8)].valid = false) := by
  simp only [clear_iff]; decide +kernel

theorem test_hyp_SwapsTakePlace :
    ((at_ .s).stroke 0 2).swap = none ∧ ((swapAt true .running 800).stroke 0 2).swap = some (3, 800) ∧
    (swapAt true .running 800).cycle ≤ 800 ∧ 799 < (swapAt true .running 799).cycle ∧
    ((swapAt true .vacant 790).stroke 0 2).status = .vacant ∧ ((swapAt false .running 790).nib 0).entries[(3 : Fin 8)].valid = false ∧
    (Memory.get (swapAt true .running 790).mem (entryPA 0 3 + 0x1432)).getLsbD 1 = false ∧
    (Memory.get (Memory.write [] (entryPA 0 3 + 0x1432) 1 2) (entryPA 0 3 + 0x1432)).getLsbD 1 = true ∧
    ((swapAt true (.arriving 800) 790).stroke 0 2).status = .arriving 800 := by decide +kernel

theorem test_hyp_ContextRecordsMove :
    let s := withG (cacheAt false 3) 5 0x2400
    let busy := { s with ops := [{ id := 4, nib := 0, cid := 1, seq := .s, sl := 3, kind := .ctxMove 3 0x2400 false 0, stroke := 0, due := 0
                                   performed := false, parked := false, lc := 30, tmax := 40, fail := none }] }
    s.Clear [.g 8, .g 5] [] false ∧ s.turn.mode = .k ∧ s.cnib.ctxEn = true ∧ (s.rg 8).toNat = 3 ∧ (s.rg 5).toNat % 1024 = 0 ∧
    (withG s 5 0x2401).rg 5 % 1024 ≠ 0 ∧ s.myMove = none ∧ s.entryBusy 3 = false ∧ (s.rg 5).toNat < 0x60000 ∧
    0x60000 ≤ ((withG s 5 0x60000).rg 5).toNat ∧ s.ctx.c.ptroot.getLsbD 0 = false ∧
    (cacheAt true 3).cnib.entries[(3 : Fin 8)].valid = true ∧
    (busy.myMove.isSome = true ∧ (busy.findOp 4).isSome = true ∧
      (match busy.engPieces 0 (busy.engFor 0 1).1 true false false (State.cellPieces 0x2400 0 64 3) [] with
        | .ok [r] => decide (r.cache = false ∧ r.size = 64)
        | _ => false) = true) := by
  simp only [clear_iff]; decide +kernel

/-- No byte is listed: every read gives 0. -/
theorem read_nil (a n : Nat) : Memory.read [] a n = 0 := by
  induction n generalizing a with
  | zero => rfl
  | succ n ih => simp [Memory.read, Memory.get, ih]

/-- An entry whose record is all zeros is not live; a record of version 1. -/
theorem test_hyp_ContextRecords :
    (({ cacheAt true 3 with mem := [] }).entryCtx 0 3).live (cacheAt true 3).cnib.matrix = false ∧
    recField (Memory.read (Memory.write [] (entryPA 0 3 + 0x1430) 1 1) (entryPA 0 3) recordSize) 0x1430 1 = 1 := by
  refine ⟨?_, by decide +kernel⟩
  unfold State.entryCtx
  show (Ctx.ofRecord (Memory.read [] _ _) _).live _ = false
  rw [read_nil]
  decide +kernel

/-- A launch of 20 tasks with QUOTA 2. -/
def launchAt : Launch :=
  { id := 7, vf := 1, queue := 2, pkt := 3, bits := BitVec.ofNat 512 (0x100 * 2 ^ 64 + 0x2000 * 2 ^ 128 + 2 * 2 ^ 168 + 2 * 2 ^ 160 + 20 * 2 ^ 192)
    record := 5, root := 0x10001, clk := 44, endClk := 0, left := 1, lost := false, part := 0, folios := 1 }

/-- Stroke 0 holds a task of it whose sequencers have ended where b; identifier 5 waits with task 9 of it where w. -/
def endAt (b w : Bool) : State :=
  let s := withC (at_ .s) (fun c => { c with seqs := c.seqs.map (fun q => { q with ended := b }), task := { c.task with launch := 7, index := 5 } })
  let s := { s with launches := [launchAt] }
  if w then s.modNib 0 (fun x => { x with rqLists := x.rqLists.set 0 [5], rq := x.rq.set 5 ⟨.ready, false, 9, some (7, 9), false⟩ }) else s

theorem test_hyp_TasksStartAndEnd :
    ((endAt false false).findLaunch 7 = some launchAt ∧ 1 ≤ launchAt.quota ∧ launchAt.quota ≤ 8 ∧ launchAt.id = 7 ∧
      launchAt.ordinal 0 * launchAt.quota + 1 < launchAt.tasks ∧ ((endAt false false).stroke 0 1).status = .vacant) ∧
    ((endAt false false).taskOver 0 0 = false ∧ (endAt true false).taskOver 0 0 = true ∧ ((endAt true false).nib 0).waiting = [] ∧
      (∀ p : Fin 4, ((endAt true false).nib 0).rqLists[p] = []) ∧ launchAt.left ≤ 1) ∧
    (((endAt true true).nib 0).rqLists.toList.flatten = [] ++ 5 :: [] ∧ ((endAt true true).nib 0).rq[(5 : Fin 64)].task = some (7, 9) ∧
      (0 : Fin 8).val < launchAt.quota ∧ launchAt.det = false) ∧
    -- load reports and a move from nib 0 to its neighbour
    ((endAt false true).nibLost 0 = false ∧ ((endAt false true).nib 0).waiting = [] ∧ (endAt false true).neighbour 0 1 = some 1 ∧
      (endAt false true).nibLost 1 = false ∧ 5 ∈ (endAt false true).movable 0 ∧ ∀ y ∈ (endAt false true).movable 0, y = 5) ∧
    (let s := (endAt false true).modNib 1 (fun x => { x with strokes := x.strokes.map (fun k => { k with status := .running }) });
      launchAt.prio = (5 : Fin 64).val / 16 ∧ (s.nib 1).rq[(0 : Fin 64)].st = .free ∧ (∀ k : Fin 8, (s.stroke 1 k).status ≠ .vacant) ∧
      (s.nib 1).waiting = []) := by decide +kernel

/-- The word at 0x1000 of the well, full, with bytes that tell sign and order. -/
def fullAt : State := withW { at_ .a with full := [wellPA 0 0x1000] } 0x1000 8 0x8182838485868788

/-- v[i] holds x. -/
def withV (s : State) (i : Fin 32) (x : Vec) : State := withR s (fun r => { r with v := r.v.set i x })

/-- The A→X and the X→W queue hold these entries. -/
def withVq (s : State) (ax xw : List VQEntry) : State := withC s (fun c => { c with x := { c.x with ax := ax, xw := xw } })

/-- `at_ .a` with a modulo register over 0x1000 to 0x103F. -/
def modAt : State := withR (at_ .a) (fun r => { r with m := r.m.set 2 ⟨0x1000, 0x40⟩ })

/-- Every address mode, and a modulo register whose region holds the address and one that is off. -/
theorem test_hyp_AddressModes :
    (0x144 : BitVec 10).toNat / 128 = (2 : Fin 8).val ∧ (0x144 : BitVec 10).toNat % 32 = (4 : Fin 32).val ∧
    modAt.ctx.r.m[(2 : Fin 8)].len.toNat ≠ 0 ∧ 0x1000 ≤ (modAt.rg 5).toNat ∧ (modAt.rg 5).toNat < 0x1000 + 0x40 ∧
    (at_ .a).ctx.r.m[(2 : Fin 8)].len.toNat = 0 ∧
    (State.eaSrcs 5 0 0 = [.g 5] ∧ State.eaSrcs 5 1 0 = [.g 5] ∧ State.eaSrcs 5 2 0 = [.g 5]) := by decide +kernel

/-- Local accesses at both ends of the window and past it, and queues that are empty, full, filled and not filled. -/
theorem test_hyp_LocalAccesses :
    modAt.Clear [.g 5] [.g 9, .g 5] false ∧ modAt.Clear [.g 5, .g 4] [.v 9] false ∧
    modAt.LocalOk 0x5FFF8 8 8 ∧ modAt.LocalOk 0 1 1 ∧ modAt.LocalOk 0x5FF80 128 64 ∧ modAt.LocalOk (modAt.ea 5 0 0 4) 4 4 ∧
    0x60000 < (0x5FFC0 : Word).toNat + 128 ∧ Memory.wf modAt.mem = true ∧ modAt.ctx.x.ax.length < 4 ∧
    4 ≤ (withVq modAt (.replicate 4 ⟨0, true, 0, 0⟩) []).ctx.x.ax.length ∧ modAt.ctx.x.xw = [] ∧
    (withVq modAt [] [⟨5, true, 0, 0⟩]).ctx.x.xw = ⟨5, true, 0, 0⟩ :: [] ∧
    (withVq modAt [] [⟨5, false, 7, 0⟩]).ctx.x.xw = ⟨5, false, 7, 0⟩ :: [] := by
  simp only [clear_iff, localOk_iff]; decide +kernel

/-- A gather of all lanes, at 0x1000, and one of no lane. -/
theorem test_hyp_GathersAndScatters :
    let s := at_ .a
    (2 : Nat) ^ (2 : Fin 4).val = 4 ∧ s.Clear [.g 5, .v 7, .p 0] [.v 9] false ∧
    (∀ j : Fin 32, s.LocalOk (s.rg 5 + (BitVec.ofNat 32 (laneOf (s.rv 7) 4 j)).signExtend 64) 4 4) ∧
    (∀ j : Fin 32, (s.rp 3).getLsbD (j * 4) = false) := by
  simp only [clear_iff, localOk_iff]; decide +kernel

/-- A record of a long-form access. -/
def accOf (size al : Nat) (store scalar sync amo : Bool) (ea : Word) : State.Acc × Nat := (⟨ea, size, al, store, true, scalar, sync, amo⟩, 0)

/-- Stroke 0 of `at_ .w` with entry 5 of its partition enabled for its address space, g8 naming it, and g9 one past the entries. -/
def pubAt : State :=
  let s := withG (withG (at_ .w) 8 5) 9 16
  { s with parts := s.parts.set 0 { s.parts[0] with pubs := s.parts[0].pubs.set 5 { Pub.reset with en := true } } }

theorem test_hyp_LongAccessesAndPatterns :
    let s := at_ .a
    ((3 : Fin 16) ≠ 0 ∧ s.sealFull 3 = false ∧ s.Clear [.g 5] [.g 9, .g 5] true ∧ s.Clear [.g 9, .g 5] [] true ∧ s.Clear [.v 9] [.v 9] true) ∧
    ((∃ rs, s.Passes [accOf 8 8 false true false false 0x1000] rs) ∧ (∃ rs, s.Passes [accOf 1 1 true true false false 0x5FFFF] rs) ∧
      (∃ rs, s.Passes [accOf 128 64 false false false false 0x1000] rs) ∧ ∃ rs, s.Passes [accOf 128 64 true false false false 0x5FF80] rs) ∧
    ((pubAt.rg 8).toNat = (5 : Fin 16).val ∧ pubAt.parts[pubAt.partOf 0].pubs[(5 : Fin 16)].en = true ∧
      pubAt.parts[pubAt.partOf 0].pubs[(5 : Fin 16)].asid = State.asidOf pubAt.ctx.c.ptroot ∧
      pubAt.parts[pubAt.partOf 0].pubs[(4 : Fin 16)].en = false ∧ 16 ≤ (pubAt.rg 9).toNat ∧ pubAt.Clear [.g 8] [] true) ∧
    -- patterns at the ends of the window, misaligned, hidden and locked
    (s.Clear [.g 5, .g 4] [] false ∧ (0x60000 : Word).toNat ≥ 0x60000 ∧ (0x5FFC0 : Word).toNat < 0x60000 ∧ (0x5FFC0 : Word).toNat % 64 = 0 ∧
      (0x1020 : Word).toNat % 64 ≠ 0 ∧ s.recordsShut 0x1000 64 = false ∧ s.lockedOut 0x1000 64 = false ∧
      (s.modNib 0 (fun n => { n with ctxEn := true })).recordsShut 0x4C000 64 = true ∧
      (s.modNib 0 (fun n => { n with ctxEn := true })).recordsShut 0x4BFC0 64 = false ∧
      (s.modNib 0 (fun n => { n with locks := [⟨0x1000, 64, 1⟩] })).lockedOut 0x1000 64 = true) := by
  simp only [clear_iff, passes_iff]; decide +kernel

/-- A page table at 0x1_0000: a pointer, a leaf of either level, a replayable entry, a write-protected and a reserved one. -/
def tables (q : Seq) : State :=
  let l := [(0x10000 + 8 * 3, 0x20001), (0x20000 + 8 * 2, 0x30001), (0x20000 + 8 * 5, 0x30002), (0x20000 + 8 * 6, 0x10000003),
    (0x30000 + 8 * 1, 0x70003), (0x30000 + 8 * 2, 0x70007), (0x30000 + 8 * 4, 0x70043)]
  { at_ q with mem := l.foldl (fun m x => Memory.write m x.1 8 x.2) (at_ q).mem }

theorem test_hyp_TranslationAndChecks :
    let s := at_ .a
    let at5 := fun (x : Word) => (withG s 5 x).ea 5 0 0 4
    (s.Clear [.g 9, .g 5] [.g 9] false ∧ s.Clear [.g 9, .g 5] [.g 9] true ∧ s.sealFull 3 = false) ∧
    -- the last word of the window, one past it, misaligned, not canonical, and each refusal of R147
    ((at5 0x5FFFC).toNat + 4 ≤ 0x60000 ∧ 0x60000 < (at5 0x5FFFD).toNat + 4 ∧ (at5 0x1002).toNat % 4 ≠ 0 ∧ 0x60000 ≤ (at5 0x60000).toNat ∧
      ¬ ((at5 0x8000000000000000).getLsbD 51 = (at5 0x8000000000000000).getLsbD 63) ∧ s.ctx.c.ptroot.getLsbD 0 = false) ∧
    (({ s with parts := State.reset.parts }).partHas (s.partOf 0) 0 = false ∧ s.partHas (s.partOf 0) (State.folioOf 0) = true ∧
      s.turn.mode = .t ∧ (s.modNib 0 (fun n => { n with ctxEn := true })).cnib.ctxEn = true ∧ 0x4C000 ≤ (at5 0x4C000).toNat ∧
      (kern .a).turn.mode ≠ .t ∧ (kern .a).cnib.blocks = [] ∧
      (∃ b ∈ ((kern .a).modNib 0 (fun n => { n with blocks := [⟨0x1000, 1, 0, 1, 7⟩] })).cnib.blocks,
        b.state ≠ 2 ∧ b.addr < (at5 0x10FC).toNat + 4 ∧ (at5 0x10FC).toNat < b.addr + 256 * b.lines) ∧
      ∃ l ∈ ((kern .a).modNib 0 (fun n => { n with locks := [⟨0x1000, 64, 3⟩] })).cnib.locks,
        l.owner ≠ (kern .a).cur.k ∧ l.base < (at5 0x103C).toNat + 4 ∧ (at5 0x103C).toNat < l.base + l.len) ∧
    -- entries of every kind
    (let u := tables .a;
      u.tableOk 0 1 = true ∧ u.tableOk 0 0xFFFFFFFF = false ∧
      Memory.read u.mem (1 * 0x10000 + 8 * ((3 * 2 ^ 40 + 2 * 2 ^ 28 + 0x10005) / 2 ^ (4 + 12 * 3) % 4096)) 8 = 0x20001 ∧
      Memory.read u.mem (3 * 0x10000 + 8 * ((3 * 2 ^ 40 + 2 * 2 ^ 28 + 0x10005) / 2 ^ (4 + 12 * 1) % 4096)) 8 = 0x70003 ∧
      Memory.read u.mem (2 * 0x10000 + 8 * ((3 * 2 ^ 40 + 6 * 2 ^ 28 + 77) / 2 ^ (4 + 12 * 2) % 4096)) 8 = 0x10000003 ∧
      homeOk (0x10000003 / 16 % 4) (0x10000003 / 2 ^ 48) (0x10000003 / 2 ^ 16 % 2 ^ 32 * 0x10000) = true ∧
      Memory.read u.mem (1 * 0x10000 + 8 * (7 / 2 ^ (4 + 12 * 3) % 4096)) 8 = 0) := by
  simp only [clear_iff]; decide +kernel

/-- An operation of the context of `at_`, under seal 3, with time 40. -/
def opOf (id : Nat) (k : OpKind) (performed : Bool) : Op :=
  { id := id, nib := 0, cid := 1, seq := .s, sl := 3, kind := k, stroke := 0, due := 0, performed := performed, parked := false
    lc := 30, tmax := 40, fail := none }

/-- The piece of `fullAt`'s word. -/
def piece : Range := ⟨0x1000, wellPA 0 0x1000, 8, false, 0⟩

/-- `fullAt` with these operations. -/
def withOps (l : List Op) : State := { fullAt with ops := l }

theorem test_hyp_SynchronisingAndAtomicAccesses :
    let s := fullAt
    (s.ea 5 0 0 8 = 0x1000 ∧ s.LocalOk 0x1000 8 8 ∧ s.LocalOk 0x1004 4 4 ∧ s.Clear [.g 5] [.g 9] false ∧ s.Clear [.g 9, .g 5] [] false) ∧
    (s.served = none ∧ s.cnib.waiters = [] ∧ s.cnib.heldReqs = [] ∧ s.full.contains (wellPA 0 0x1000) = true ∧ s.full.contains (wellPA 0 0x1008) = false) ∧
    ((withOps [{ opOf 8 (.access (.sync 0 9) [piece] 0x77 false) true with seq := .a, sl := 0 }]).served.isSome = true) ∧
    ([3, 5, 9] : List Nat).Pairwise (· < ·) ∧
    ((withCsr s (fun c => { c with tstatus := 0x8000 })).deterministic = true ∧ s.deterministic = false ∧
      (64 = 32 * ((1 : Fin 2).val + 1) ∧ 32 = 32 * ((0 : Fin 2).val + 1)) ∧ Memory.wf s.mem = true ∧ s.Clear [.g 9, .g 5, .g 4] [.g 9] false) ∧
    ((3 : Fin 16) ≠ 0 ∧ s.sealFull 3 = false ∧ s.Clear [.g 9, .g 5, .g 4] [.g 9] true ∧
      (∃ rs, s.Passes [(⟨0x1000, 8, 8, false, true, false, true, false⟩, 0)] rs) ∧
      (∃ rs, s.Passes [(⟨0x1000, 8, 8, true, true, false, true, false⟩, 0)] rs) ∧
      (∃ rs, s.Passes [(⟨0x1000, 4, 4, true, true, false, false, true⟩, 0)] rs) ∧
      ∃ rs, s.Passes [(⟨0x1000, 8, 8, true, true, false, false, true⟩, 0)] rs) := by
  simp only [clear_iff, localOk_iff, passes_iff]; decide +kernel

/-- The uses of a long-form access. -/
def uses : List Use := [.store, .loadG 3 8 true, .loadG 3 4 false, .loadV 3, .loadQ, .amo 3 8 0 5 6, .pub 0 5, .sync 0 3, .sync 1 3, .sync 2 3, .sync 3 3]

theorem test_hyp_LongAccessesArePerformed :
    (∀ u ∈ uses,
      (withOps [opOf 8 (.access u [piece] 5 false) false]).findOp 8 = some (opOf 8 (.access u [piece] 5 false) false) ∧
      (withOps [opOf 8 (.access u [piece] 5 false) false]).behindOther (opOf 8 (.access u [piece] 5 false) false) = false ∧
      (withOps [opOf 8 (.access u [piece] 5 false) false]).homeGone (opOf 8 (.access u [piece] 5 false) false) = false ∧
      (withOps [opOf 8 (.access u [] 5 false) true]).findOp 8 = some (opOf 8 (.access u [] 5 false) true)) ∧
    ((withOps []).Resides 0 1 0 ∧ (opOf 8 (.access .store [] 5 false) true).sl ≠ 0 ∧ (opOf 8 (.access .store [] 5 false) true).due ≤ (withOps []).cycle) ∧
    (fullAt.pieceNow 0 (fullAt.engFor 0 1).1 (fullAt.engFor 0 1).2 piece false = piece ∧ State.isControl piece.pa = false ∧ Memory.wf fullAt.mem = true ∧
      piece.cache = false) ∧
    -- a copy under lease, and one whose lease has ended
    (let u := fullAt.modNib 0 (fun x => { x with copies := [⟨0x100000, 0x99, 40, 50⟩] });
      (u.copyOf 0 0x100000 40).isSome = true ∧ (u.copyOf 0 0x100000 50).isSome = true ∧ u.copyOf 0 0x100000 51 = none ∧
      u.copyOf 0 0x100000 39 = none) := by
  simp only [State.Resides]; decide +kernel

theorem test_hyp_WaitersAndParks :
    let s := (withOps [opOf 8 (.access (.sync 0 9) [piece] 0 true) false, opOf 9 (.access (.sync 2 9) [piece] 0 true) true]).modNib 0
      (fun x => { x with heldReqs := [8] })
    ((s.nib 0).waiters.length < 64 ∧ 64 ≤ (List.range 64).length ∧ (s.nib 0).heldReqs = 8 :: [] ∧ (fullAt.nib 0).heldReqs = [] ∧
      s.findOp 8 = some (opOf 8 (.access (.sync 0 9) [piece] 0 true) false) ∧ syncReady 0 (s.full.contains piece.pa) = true ∧
      syncReady 2 (s.full.contains piece.pa) = false) ∧
    (let u := s.modStroke 0 0 (fun x => { x with status := .parked [.sync 8, .sync 9] });
      (u.stroke 0 0).status = .parked [.sync 8, .sync 9] ∧ (u.findOp 9).map (·.performed) = some true ∧
      (u.findOp 8).map (·.performed) = some false) := by decide +kernel

/-- A fill of the first-level TLB for `va` in `tables`. -/
def fillAt (va : Word) : State :=
  let s := withCsr (tables .a) (fun c => { c with ptroot := 0x10001 })
  { s with ops := [opOf 8 (.tlbFill 0 va 0) false] }

/-- The walk of `fillAt`. -/
def walkAt (va : Word) : Walk := (fillAt va).walk ((fillAt va).partOf 0) ((fillAt va).engFor 0 1).1 va false

theorem test_hyp_TranslationEvents :
    -- a page of 64 KiB, one of 256 MiB, a replayable and a precise fault, and an entry of the second level
    ((fillAt 7).findOp 8 = some (opOf 8 (.tlbFill 0 7 0) false) ∧
      walkAt 0x30020010005 = .ok 0x70005 false 7 0 false ∧ walkAt 0x3006000004D = .ok 0x1000004D true 0x1000 0 false ∧
      walkAt 0x30050000000 = .replay ∧ walkAt 7 = .precise ∧ (fillAt 7).folios[State.folioOf 0].tlb = [] ∧
      State.TlbEntry.hits (State.tlbOf 0 0x30020010005 false 7 0 true) 0 0x30020010005 = true) ∧
    -- fault records: an empty buffer, one of 7 and one of 8, of this page and of others
    ((at_ .a).parts[0].faults.length < 8 ∧ ((BitVec.ofNat 52 ((0xFFFFFFFFFFF32345 : BitVec 64).toNat % 2 ^ 52 / 2 ^ 16 * 2 ^ 16)).signExtend 64 : Word) =
        0xFFFFFFFFFFF30000 ∧ [(⟨0x10000, 3, 7, 1, 5⟩ : FaultRec)] = [] ++ ⟨0x10000, 3, 7, 1, 5⟩ :: [] ∧
        8 ≤ (List.replicate 8 (⟨0x10000, 3, 7, 1, 5⟩ : FaultRec)).length) ∧
    -- invalidations
    ((at_ .a).parts[0].invBusy = false ∧ (at_ .a).translated 0 = [] ∧ (at_ .a).bonnet.up = false ∧ (at_ .a).partOf 0 = 0 ∧ (at_ .a).partHas 0 0 = true ∧
      (at_ .a).bonnet.deadlines = []) ∧
    -- publish entries: none meets another, one touches it, one meets it; sizes 0, 1, 4,096 and 4,097
    (let y : Pub := ⟨1, 16, 0x20000, 0, 0, true, false, []⟩;
      y.en = false ∧ State.Pub.base y + 1 * 0x10000 ≤ 0x20000 ∧ backingFits y.back0 1 = true ∧ backingFits y.back1 1 = true ∧
      ((0x0007000000010001 : BitVec 64).extractLsb' 16 13).toNat = 1 ∧ ((0x0007000010000001 : BitVec 64).extractLsb' 16 13).toNat = 4096 ∧
      ((0x0007000010010001 : BitVec 64).extractLsb' 16 13).toNat = 4097 ∧ (0x0007000000010001 : BitVec 64).getLsbD 0 = true) ∧
    ((0 : NibId), (at_ .a).nib 0) ∈ (at_ .a).nibs := by decide +kernel

/-- Queue 0 of virtual function 1 is enabled with the root of `tables`. -/
def hostAt : State :=
  { tables .a with vfs := (tables .a).vfs.set 1 { (tables .a).vfs[1] with queues := [(0, { Queue.reset with en := true, root := 0x10001 })] } }

theorem test_hyp_HostAccesses :
    hostAt.partOfVf 1 = some 0 ∧ Memory.wf hostAt.mem = true ∧
    (hostAt.hostPieces 0 (hostAt.queue 1 0).root true (State.cellPieces 0x30020020008 0 8 2) []).map (·.length) = some 1 ∧
    hostAt.hostPieces 0 (hostAt.queue 1 0).root true (State.cellPieces 0x30020010008 0 8 2) [] = none ∧
    (hostAt.hostPieces 0 (hostAt.queue 1 0).root false (State.cellPieces 0x30020010008 0 8 2) []).map (·.map (·.pa)) = some [0x70008] ∧
    hostAt.hostPieces 0 (hostAt.queue 1 0).root false (State.cellPieces 7 0 8 2) [] = none := by decide +kernel

/-- Nib 0 with these blocks, g5 = 0x2000 in the well, and g6 in a page that its TLB holds. -/
def blocksAt (l : List Block) : State :=
  let s := withG (withG (withCsr ((tables .a).modNib 0 (fun x => { x with
    blocks := l, tlb := [State.tlbOf 0 0x30020010000 false 7 0 true] })) (fun c => { c with ptroot := 0x10001 })) 5 0x2000) 6 0x30020010000
  s

/-- The block at 0x2000, of two lines. -/
def blockOf (st : Nat) : Block := ⟨0x2000, 2, 0x30020010000, st, 8⟩

theorem test_hyp_Blocks :
    let fill := fun (s : State) => [(⟨s.rg 5, 0x400, 256, false, false, false, false, false⟩, 0), (⟨s.rg 6, 0x400, 256, false, true, false, false, false⟩, 0)]
    let s := blocksAt []
    (0x400 = 256 * ((3 : BitVec 6).toNat + 1) ∧ s.Clear [.g 5, .g 6] [] true ∧ s.sealFull 3 = false ∧ ∃ rs, s.Passes (fill s) rs) ∧
    -- no block, one that ends where the range begins, one that meets its last byte, and a full table
    (s.cnib.blocks = [] ∧ 0x1E00 + 256 * 2 ≤ 0x2000 ∧ 0x23FF < 0x2000 + 0x400 ∧ 0x2000 + 0x400 ≤ 0x2400 ∧
      64 ≤ (blocksAt ((List.range 64).map (fun i => ⟨0x2400 + 256 * i, 1, 0, 2, 8⟩))).cnib.blocks.length) ∧
    ((blocksAt [blockOf 2]).blockAt 0x2000 = some (blockOf 2) ∧ (blocksAt [blockOf 1]).blockAt 0x2000 = some (blockOf 1) ∧ s.blockAt 0x2000 = none ∧
      s.blockInside 0x2000 = false ∧ s.Clear [] [.g 9] false ∧
      ∃ rs, (blocksAt [blockOf 2]).Passes [(⟨0x30020010000, 512, 256, true, true, false, false, false⟩, 0)] rs) ∧
    (let u := { blocksAt [blockOf 1] with ops := [opOf 8 (.block 0x2000 [] false) false] };
      u.findOp 8 = some (opOf 8 (.block 0x2000 [] false) false) ∧ u.Resides 0 1 0) := by
  simp only [clear_iff, passes_iff, State.Resides]; decide +kernel

/-! ## Vectors (R196 to R218) -/

/-- v4, v5 and v6 with lanes of both signs and all sizes, p2 with every lane on, p3 with some, p4 with none. -/
def vecAt : State :=
  let s := withV (withV (withV (at_ .x) 4 0x7F8000017FC00000BF8000003F80000080000000FFFF7FFF80FF7F01) 5 0x3F800000FF80000000000001807F00FF) 6 0x99
  withR s (fun r => { r with p := ((r.p.set 2 (BitVec.allOnes 128)).set 3 0x10FF).set 4 0 })

theorem test_hyp_VectorIntegers :
    let s := vecAt
    s.Clear [.v (s.vphys 4), .v (s.vphys 5), .p 3] [.v (s.vphys 6)] false ∧ s.Clear [.v (s.vphys 4), .p 0] [.v (s.vphys 4)] false ∧
    s.Clear [.p 7] [.v (s.vphys 31)] false ∧
    -- the ends of the shift counts of the four lane sizes
    (7 : BitVec 9).toNat < 8 ∧ ¬ (8 : BitVec 9).toNat < 8 ∧ (63 : BitVec 9).toNat < 64 ∧
    -- lanes on and off, sums above and below the range, and within it
    (s.rp 3).getLsbD (7 * 1) = true ∧ (s.rp 3).getLsbD (8 * 1) = false ∧
    (127 : Int) < (BitVec.ofNat 8 (laneOf (s.rv 4) 1 1)).toInt + 1 ∧ (BitVec.ofNat 8 (laneOf (s.rv 4) 1 3)).toInt - 1 < -128 ∧
    -(128 : Int) ≤ (BitVec.ofNat 8 (laneOf (s.rv 4) 1 0)).toInt := by
  simp only [clear_iff]; decide +kernel

theorem test_hyp_VectorComparesAndMoves :
    let s := vecAt
    s.Clear [.v (s.vphys 4), .v (s.vphys 5), .p 3] [.p 0] false ∧ s.Clear [.v (s.vphys 4), .v (s.vphys 5), .p 3] [.p 7] false ∧
    s.Clear [.g 4, .p 3] [.v (s.vphys 6)] false ∧ s.Clear [.v (s.vphys 4), .p 3] [.v (s.vphys 6)] false ∧
    s.Clear [.v (s.vphys 4), .v (s.vphys 5), .p 3] [.v (s.vphys 6)] false ∧ s.Clear [.v (s.vphys 4), .g 4, .p 3] [.v (s.vphys 6)] false ∧
    s.Clear [.v (s.vphys 4), .g 5] [.g 0] false ∧ s.Clear [.v (s.vphys 6), .g 4, .g 5] [.v (s.vphys 6)] false ∧
    -- leading zeros: none, some, and all of the lane
    2 ^ (8 - 0 - 1) ≤ laneOf (s.rv 4) 1 2 ∧ laneOf (s.rv 4) 1 0 < 2 ^ (8 - 7) ∧ laneOf (s.rv 4) 1 31 = 0 ∧
    -- a lane index inside the vector and past it, for bytes and for words
    (s.rg 4).toNat < 128 / 1 ∧ (withG s 5 127).rg 5 = 127 ∧ ¬ (withG s 5 128).rg 5 < 128 ∧ ¬ (withG s 5 32).rg 5 < 128 / 4 := by
  simp only [clear_iff]; decide +kernel

theorem test_hyp_VectorFloatsAndConversions :
    let s := vecAt
    ((fmt16 = (if (0 : Fin 2) = 0 then fmt16 else fmt32) ∧ 2 = (if (0 : Fin 2) = 0 then 2 else 4)) ∧
      fmt32 = (if (1 : Fin 2) = 0 then fmt16 else fmt32) ∧ 4 = (if (1 : Fin 2) = 0 then 2 else 4)) ∧
    s.Clear [.v (s.vphys 4), .v (s.vphys 5), .p 3] [.v (s.vphys 6)] false ∧ s.Clear [.v (s.vphys 4), .v (s.vphys 5), .p 3] [.p 1] false ∧
    s.Clear [.v (s.vphys 6), .v (s.vphys 4), .v (s.vphys 5), .p 3] [.v (s.vphys 6)] false ∧
    -- the widths of the block format, every type at either end of a conversion, and values of every kind
    (2 ≤ (2 : Fin 32).val ∧ (8 : Fin 32).val ≤ 8) ∧
    ([8, 9, 10, 11] : List Nat).map (fun y => tySize y) = [2, 4, 1, 1] ∧
    (0x80 < 2 ^ (8 * tySize 0) ∧ (BitVec.ofNat (8 * tySize 0) 0x80).toInt ≠ 0) ∧ (BitVec.ofNat (8 * tySize 0) 0).toInt = 0 ∧
    fmt32.value 0x7FC00000 = .nan ∧ fmt32.value 0x7F800000 = .inf false ∧ fmt32.value 0x80000000 = .fin true 0 (-149) ∧
    ([fmt32, fmt16, fmtE4, fmtE5].map (·.hasInf)) = [true, true, false, true] := by
  simp only [clear_iff]; decide +kernel

theorem test_hyp_VectorReductions :
    let s := vecAt
    s.Clear [.v (s.vphys 4), .p 3] [.g 8] false ∧ s.Clear [.v (s.vphys 4), .p 4] [.g 0] false ∧
    ((List.range 128).filter (fun j => (s.rp 4).getLsbD (j * 1)) = [] ∧ (List.range 16).filter (fun j => (s.rp 3).getLsbD (j * 8)) = [0]) ∧
    (let act := (List.range 32).filter (fun j => (s.rp 3).getLsbD (j * 4));
      act = [0, 1, 3] ∧ (∀ j ∈ act, laneOf (s.rv 4) 4 j ≤ laneOf (s.rv 4) 4 1) ∧ ∀ j ∈ act, laneOf (s.rv 4) 4 3 ≤ laneOf (s.rv 4) 4 j) ∧
    ((∀ j < 32, (s.rp 4).getLsbD (j * 4) = false) ∧ ∃ j < 64, (s.rp 3).getLsbD (j * 2) = true) := by
  simp only [clear_iff]; decide +kernel

/-- The generator's counter at c, with RNGT where t. -/
def rngAt (c : Word) (t : Bool) : State := withCsr vecAt (fun x => { x with rngctr := c, tstatus := if t then 0x1000 else 0 })

/-- `sploop` at 0x104 with these counts, and a line of X's words at 0x120. -/
def loopAt (l e : Nat) : State := withCsr (at_ .x) (fun x => { x with spctl := BitVec.ofNat 64 (l + e * 2 ^ 16 + 5 * 2 ^ 32), vrb := 15 })

theorem test_hyp_PredicatesAndVectorStreams :
    let s := vecAt
    (s.Clear [.p 2, .p 3] [.p 4] false ∧ s.Clear [.p 2] [.p 2] false ∧ s.Clear [] [.p 1] false ∧ s.Clear [.p 3] [.g 9] false ∧
      s.Clear [] [.g 0] false ∧ s.Clear [.g 4, .g 5] [.p 3, .g 4] false) ∧
    -- the last lane, none, and the lane below which none is on
    ((s.rp 2).getLsbD 127 = true ∧ (s.rp 4).toNat = 0 ∧ (s.rp 3).getLsbD 0 = true ∧ (-1 : Int) + (0 : Nat) < 3 ∧ ¬ (-1 : Int) + (4 : Nat) < 3) ∧
    ((rngAt 0xFFFFFFFFFFFFFFF7 true).Clear [.p 3] [.v ((rngAt 0xFFFFFFFFFFFFFFF7 true).vphys 6)] false ∧
      (rngAt 0xFFFFFFFFFFFFFFF7 true).ctx.c.rngctr.toNat + 8 < 2 ^ 64 ∧
      2 ^ 64 ≤ (rngAt 0xFFFFFFFFFFFFFFF8 true).ctx.c.rngctr.toNat + 8 ∧ (rngAt 0xFFFFFFFFFFFFFFF8 true).ctx.c.tstatus.getLsbD 12 = true ∧
      (rngAt 0xFFFFFFFFFFFFFFF8 false).ctx.c.tstatus.getLsbD 12 = false) ∧
    (s.ctx.x.ax = [] ∧ (withVq s [⟨7, false, 3, 0⟩] []).ctx.x.ax = ⟨7, false, 3, 0⟩ :: [] ∧
      (withVq s [⟨7, true, 0, 99⟩] []).ctx.x.ax = ⟨7, true, 0, 99⟩ :: [] ∧
      (withVq s [] [⟨7, true, 0, 1⟩, ⟨7, true, 0, 1⟩, ⟨7, true, 0, 1⟩]).ctx.x.xw.length < 4 ∧
      4 ≤ (withVq s [] (List.replicate 4 ⟨7, true, 0, 1⟩)).ctx.x.xw.length) ∧
    (let t := loopAt 1 2;
      t.Clear [] [.p 4, .p 5, .p 6, .p 7] false ∧ (0x144 : Word) = t.pc + BitVec.ofInt 64 (4 * (16 : BitVec 16).toInt) ∧ t.GoodTarget 0x144 ∧
      (0x104 : Word) = t.pc + BitVec.ofInt 64 (4 * (0 : BitVec 16).toInt) ∧ t.GoodTarget 0x104 ∧
      getBits t.ctx.c.spctl 0 16 ≠ 0 ∧ getBits (loopAt 0 1).ctx.c.spctl 0 16 = 0 ∧ getBits (loopAt 0 1).ctx.c.spctl 16 16 ≠ 0 ∧
      getBits (loopAt 0 0).ctx.c.spctl 16 16 = 0) := by
  simp only [clear_iff, good_iff]; decide +kernel

/-- The special-function unit of nib 0 with n entries, the first of them in service. -/
def sfuAt (n : Nat) : State :=
  { vecAt.modNib 0 (fun x => { x with sfu := List.range n }) with
    ops := (List.range n).map (fun i => { opOf i (.sfu 7 0x1234 5) (i == 0) with due := 801 + i }) }

theorem test_hyp_SpecialFunctionsAndRanking :
    -- requests, an entry free and none; the oldest waiting one, due and not yet due
    ((sfuAt 7).Clear [.v ((sfuAt 7).vphys 4), .p 3] [.v ((sfuAt 7).vphys 6)] true ∧ (sfuAt 7).sealFull 3 = false ∧ (sfuAt 7).sfuHeld 0 < 8 ∧
      8 ≤ (sfuAt 8).sfuHeld 0) ∧
    (let waiting := fun (s : State) => (s.nib 0).sfu.filterMap (fun id => (s.findOp id).filter (!·.performed));
      waiting (sfuAt 1) = [] ∧ (waiting (sfuAt 2)).head? = some { opOf 1 (.sfu 7 0x1234 5) false with due := 802 } ∧
      (sfuAt 2).cycle < 802 ∧ 802 ≤ ({ sfuAt 2 with cycle := 802 }).cycle ∧ ((sfuAt 2).nib 0).sfuFree ≤ 802) ∧
    ((sfuAt 2).findOp 0 = some { opOf 0 (.sfu 7 0x1234 5) true with due := 801 } ∧ (sfuAt 2).Resides 0 1 0) ∧
    -- inputs of every kind, with the ends of the ranges of exp2
    (fmt32.value 0xFF800000 = .inf true ∧ fmt32.value 0x43000000 = .fin false 8388608 (-16) ∧ fmt32.value 0xC3160000 = .fin true 9830400 (-16) ∧
      fmt32.value 0x3FB504F3 = .fin false 0xB504F3 (-23) ∧ fmt32.value 0x3FB504F4 = .fin false 0xB504F4 (-23) ∧
      fmt32.value 1 = .fin false 1 (-149) ∧ splitExp 8388608 (-16) = (7, 0x3F800000) ∧ splitExp 8388608 (-15) = (8, 0x3F800000)) ∧
    -- ranking
    (let s := vecAt;
      s.Clear [.v (s.vphys 4), .p 3] [.v (s.vphys 6)] false ∧ s.Clear [.g 4] [.v (s.vphys 6)] false ∧
      wfTopk 0 0 9 = true ∧ wfTopk 3 7 6 = true ∧ wfSort 0 0 = true ∧ wfSort 4 0 = true ∧ wfSort 3 1 = true ∧
      (let act := (List.range 32).filter (fun i => (s.rp 3).getLsbD (i * 4) && i / 4 == 2 / 4);
        act = [0, 1, 3] ∧ 2 % 4 < act.length ∧ act.length ≤ 3 % 4) ∧
      (withG s 4 255).rg 4 = 255 ∧ ¬ (withG s 4 256).rg 4 < 256) := by
  simp only [clear_iff, State.Resides]; decide +kernel

/-! ## Selection, serifs and sweeps (R254 to R276) -/

/-- The descriptor of a selection of 5 rows of 8 columns with K = 2, its scores and records at these places. -/
def selDesc (col : Bool) (rows k scores out : Nat) : Nat :=
  scores + rows * 2 ^ 32 + 8 * 2 ^ 48 + k * 2 ^ 64 + 32 * 2 ^ 80 + out * 2 ^ 96 + 0x5800 * 2 ^ (if col then 256 else 128)

/-- g4 names a selection descriptor at 0x3000. -/
def selAt (x : Nat) : State := withW (withG (at_ .s) 4 0x3000) 0x3000 48 x

/-- The first check of a selection descriptor that fails (R255). -/
def selFails (s : State) (col : Bool) : Option (BitVec 8 × Word) :=
  let va := s.rg 4
  let f := descField (s.wellRead va.toNat 48)
  let rows := f 4 2
  let cols := f 6 1
  let k := f 8 2
  let bad := fun (o : Nat) (b : Bool) => (((0x02 : BitVec 8), va + BitVec.ofNat 64 o), b)
  let arrays : List (Bool × Nat × Nat × Nat) :=
    [(true, f 0 4, (rows - 1) * f 10 2 + 4 * cols, 4), (true, f 12 4, 8 * k * (if col then cols else rows), 8), (!col, f 0x10 4, 256, 8),
     (!col && f 0x14 4 != 0, f 0x14 4, 64, 2), (!col && f 0x18 4 != 0, f 0x18 4, 32, 1), (col && f 0x20 4 != 0, f 0x20 4, rows, 1)]
  let own : List ((BitVec 8 × Word) × Bool) :=
    [((0x0E, va), 0x60000 < va.toNat + 48), ((0x04, va), va.toNat % 16 ≠ 0), ((0x05, va), s.recordsShut va.toNat 48),
     bad 4 (rows = 0 ∨ 256 < rows), bad 6 (cols = 0 ∨ 32 < cols), bad 7 (f 7 1 ≠ 0), bad 8 (k = 0 ∨ (if col then rows else min 8 cols) < k),
     bad 10 (f 10 2 % 4 ≠ 0 ∨ f 10 2 < 4 * cols), bad 0x10 (col && f 0x10 4 != 0), bad 0x14 (col && f 0x14 4 != 0),
     bad 0x18 (col && f 0x18 4 != 0), bad 0x1C (col && f 0x1C 4 != 0), bad 0x20 (!col && f 0x20 4 != 0), bad 0x24 (f 0x24 12 ≠ 0)]
  let ends : List ((BitVec 8 × Word) × Bool) :=
    arrays.map (fun y => ((0x0E, BitVec.ofNat 64 y.2.1), y.1 && decide (0x60000 < y.2.1 + y.2.2.1)))
  let aligns : List ((BitVec 8 × Word) × Bool) := arrays.map (fun y => ((0x04, BitVec.ofNat 64 y.2.1), y.1 && y.2.1 % y.2.2.2 != 0))
  let hidden : List ((BitVec 8 × Word) × Bool) := (arrays.zip [0x05, 0x07, 0x07, 0x05, 0x05, 0x07]).map (fun (y, c) =>
    ((c, BitVec.ofNat 64 y.2.1), y.1 && s.recordsShut y.2.1 y.2.2.1))
  ((own ++ ends ++ aligns ++ hidden).find? (·.2)).map (·.1)

/-- The unit of nib 0 holds operation 8 with this descriptor, and nib 0 these blocks. -/
def unitAt (col : Bool) (bl : List Block) : State :=
  let s := (selAt 0).modNib 0 (fun x => { x with select := [8, 9], blocks := bl })
  { s with ops := [opOf 8 (.select (BitVec.ofNat 384 (selDesc col 5 2 0x4000 0x5000)) col 1) false] }

/-- A selection whose column 0 is the best of every row, with room for one in each bin. -/
def selIn (policy : Nat) : SelIn :=
  ⟨2, 4, 2, 16, 0x3E8000003F0000003F80000040000000, true, 0x0001000100010001, true, 0x02020202, 5, policy⟩

theorem test_hyp_SelectRequests :
    -- descriptors: good, with each end of the ranges, in a hidden record, and refused
    ((selAt 0).Clear [.g 4] [] true ∧ selFails (selAt (selDesc false 5 2 0x4000 0x5000)) false = none ∧
      selFails (selAt (selDesc true 5 5 0x4000 0x5000)) true = none ∧ selFails (selAt (selDesc false 256 8 0x4000 0x8000)) false = none ∧
      selFails (selAt (selDesc false 257 8 0x4000 0x8000)) false = some (2, 0x3004) ∧ selFails (selAt (selDesc false 0 9 0x4000 0x5000)) false = some (2, 0x3004) ∧
      selFails (selAt (selDesc true 5 6 0x4000 0x5000)) true = some (2, 0x3008) ∧ selFails (selAt (selDesc false 5 2 0x5FF40 0x5FFB0)) false = none ∧
      selFails (selAt (selDesc false 5 2 0x5FF64 0x5002)) false = some (0xE, 0x5FF64) ∧ selFails (selAt (selDesc false 5 2 0x4001 0x5004)) false = some (4, 0x4001) ∧
      selFails (withG (selAt 0) 4 0x5FFE0) false = some (0xE, 0x5FFE0) ∧ selFails (withG (selAt 0) 4 0x3008) false = some (4, 0x3008) ∧
      selFails (withG ((selAt 0).modNib 0 (fun n => { n with ctxEn := true })) 4 0x4C000) false = some (5, 0x4C000) ∧
      (selAt 0).sealFull 3 = false ∧ (selAt 0).cnib.select.length < 4 ∧ 4 ≤ ((selAt 0).modNib 0 (fun n => { n with select := [1, 2, 3, 4] })).cnib.select.length ∧
      (unitAt true []).findOp 8 = some (opOf 8 (.select (BitVec.ofNat 384 (selDesc true 5 2 0x4000 0x5000)) true 1) false) ∧ (unitAt true []).Resides 0 1 0) := by
  simp only [clear_iff, State.Resides]; decide +kernel

theorem test_hyp_SelectService :
    -- service: due, not due, the unit busy, an array in a block that is filling; records apart from the fill table
    (let s := unitAt false [];
      (s.nib 0).select = 8 :: [9] ∧ Memory.wf s.mem = true ∧ 0 ≤ s.cycle ∧ (s.nib 0).selectFree ≤ s.cycle ∧
      s.cycle < ((s.modNib 0 (fun n => { n with selectFree := 801 })).nib 0).selectFree ∧
      (selectArrays false (selDesc false 5 2 0x4000 0x5000)).all (fun y => !s.blockBusy 0 y.1 y.2.1) = true ∧
      (selectArrays false (selDesc false 5 2 0x4000 0x5000)).any (fun y => (unitAt false [⟨0x5000, 1, 0, 1, 7⟩]).blockBusy 0 y.1 y.2.1) = true ∧
      wellPA 0 0x5000 + 8 * 2 * 5 ≤ wellPA 0 0x5800) := by decide +kernel

theorem test_hyp_SelectionResults :
    -- choices: a bin with room, the next rank, the rank after it, another replica, and none
    ((selIn 0).rowOrder 0 = [0, 1, 2, 3] ∧ (selIn 1).room 0 0 1 = true ∧ (selIn 1).room (2 ^ 16) 0 1 = false ∧
      (selIn 1).room (2 ^ 16) 2 1 = true ∧ (selIn 1).room (2 ^ 16 + 2 ^ 144) 2 1 = false ∧ (selIn 1).room (2 ^ 16 + 2 ^ 144) 3 1 = true ∧ (selIn 1).room (2 ^ 16 + 2 ^ 144 + 2 ^ 208) 3 1 = false ∧
      (selIn 1).nrep 0 = 2 ∧ (selIn 1).task % 2 = 1 ∧ (selIn 2).room (2 ^ 16) 0 ((5 + 1) % 2) = true ∧ (selIn 2).room (2 ^ 16 + 1) 0 0 = false ∧
      [0, 1, 2, 3][3]? = some 3 ∧ [0, 1, 2, 3][4]? = none ∧ (selIn 0).cols ≤ 32 ∧ (selIn 0).rows ≤ 256 ∧ (selIn 0).k ≤ (selIn 0).rows) := by decide +kernel

/-- A valid slot of 100 elements. -/
def slotOf : Slot := ⟨true, 0x100000, 0x40, 100, 0x8000, 0x9000, 0xA000, 77, 9, true, false, true⟩

/-- Slot i of the stroke is x. -/
def withSlot (s : State) (i : Fin 8) (x : Slot) : State := withC s (fun c => { c with x := { c.x with slots := c.x.slots.set i x } })

/-- A sweep of slot 2 in its stage, with its cursor and its snap, of S and A. -/
def sweepOf (st : SweepStage) (cursor : Nat) (snap : Vec) : Sweep :=
  { slot := 2, sl := 3, members := [.s, .a], running := [], back := [(.s, 0x104)], cursor := cursor, stage := st, notBefore := 100
    snap := snap, late := 0, last := 0, step := 5, lanes := 0b101, began := 0, merges := [], lc := 5, paused := 0 }

/-- Slot 2 with x as element 40's serif, sk as its first skip word, and a sweep where there is one. -/
def plane (x sk : Nat) (w : Option Sweep) : State :=
  withC (withW (withW (withSlot (at_ .s) 2 slotOf) 0x80A0 4 x) 0x9000 8 sk) (fun c => { c with x := { c.x with sweep := w } })

/-- g4 names a slot descriptor at 0x3000. -/
def slotAt (count serifs reserved : Nat) : State :=
  withG (withW (at_ .s) 0x3000 32 (0x123456789AB + 0x40 * 2 ^ 64 + count * 2 ^ 96 + serifs * 2 ^ 128 + 0x9000 * 2 ^ 160 + 0xA000 * 2 ^ 192 +
    reserved * 2 ^ 224)) 4 0x3000

/-- The first check of `sdecl t g4` that fails (R269). -/
def declFails (s : State) (t : Fin 8) : Option (BitVec 8 × Word) :=
  let va := s.rg 4
  let f := descField (s.wellRead va.toNat 32)
  let count := f 12 4
  let nw := (count + 31) / 32
  let sweeping := match s.ctx.x.sweep with | some w => w.slot == t | none => false
  let meets := fun (c : Ctx) (u : Fin 8) => decide (c.cid ≠ s.ctx.cid ∨ u ≠ t) && (c.x.slots[u]).valid && decide (0 < count) &&
    decide (0 < (c.x.slots[u]).count.toNat) && decide (f 0x10 4 < (c.x.slots[u]).serifs.toNat + 4 * (c.x.slots[u]).count.toNat) &&
    decide ((c.x.slots[u]).serifs.toNat < f 0x10 4 + 4 * count)
  let bad := fun (o al n : Nat) => (((0x18 : BitVec 8), va + BitVec.ofNat 64 o), decide (f o 4 % al ≠ 0 ∨ 0x60000 < f o 4 + n))
  let checks : List ((BitVec 8 × Word) × Bool) :=
    [((0x18, s.pc), s.inBlock), ((0x0E, va), 0x60000 < va.toNat + 32), ((0x04, va), va.toNat % 32 ≠ 0), ((0x05, va), s.recordsShut va.toNat 32),
     ((0x18, va), sweeping), ((0x18, va + 12), 65536 < count), bad 0x10 128 (4 * count), bad 0x14 8 (8 * ((nw + 63) / 64)), bad 0x18 4 256,
     ((0x18, va + 0x1C), f 0x1C 4 ≠ 0), ((0x18, va + 0x10), (s.contexts s.cur.nib).any (fun c => (List.finRange 8).any (meets c))),
     ((0x07, BitVec.ofNat 64 (f 0x10 4)), decide (0 < count) && s.recordsShut (f 0x10 4) (4 * count)),
     ((0x07, BitVec.ofNat 64 (f 0x14 4)), decide (0 < count) && s.recordsShut (f 0x14 4) (8 * ((nw + 63) / 64))),
     ((0x05, BitVec.ofNat 64 (f 0x18 4)), decide (0 < count) && s.recordsShut (f 0x18 4) 256)]
  (checks.find? (·.2)).map (·.1)

theorem test_hyp_TensorSlots :
    (slotAt 100 0x8000 0).Clear [.g 4] [] false ∧ (slotAt 100 0x8000 0).Clear [] [.g 5] false ∧
    declFails (slotAt 100 0x8000 0) 2 = none ∧ declFails (slotAt 0 0x8000 0) 2 = none ∧ declFails (slotAt 65536 0x20000 0) 2 = none ∧
    declFails (slotAt 65537 0x8000 0) 2 = some (0x18, 0x300C) ∧ declFails (slotAt 100 0x8040 0) 2 = some (0x18, 0x3010) ∧
    declFails (slotAt 128 0x5FE00 0) 2 = none ∧ declFails (slotAt 129 0x5FE00 0) 2 = some (0x18, 0x3010) ∧
    declFails (slotAt 100 0x8000 1) 2 = some (0x18, 0x301C) ∧ declFails (withG (slotAt 100 0x8000 0) 4 0x3010) 2 = some (4, 0x3010) ∧
    declFails (withG (slotAt 100 0x8000 0) 4 0x5FFF0) 2 = some (0xE, 0x5FFF0) ∧
    -- another plane that it meets, its own slot's old plane, an empty one inside another, and one that touches
    declFails (withSlot (slotAt 100 0x8000 0) 3 slotOf) 2 = some (0x18, 0x3010) ∧ declFails (withSlot (slotAt 100 0x8000 0) 2 slotOf) 2 = none ∧
    declFails (withSlot (slotAt 0 0x8080 0) 3 slotOf) 2 = none ∧ declFails (withSlot (slotAt 100 0x8200 0) 3 slotOf) 2 = none ∧
    -- a sweep of the slot, and a member's block
    declFails (withC (slotAt 100 0x8000 0) (fun c => { c with x := { c.x with sweep := some (sweepOf .read 0 0) } })) 2 = some (0x18, 0x3000) ∧
    declFails (withC (slotAt 100 0x8000 0) (fun c => { c with x := { c.x with sweep := some { sweepOf .run 1 0 with running := [.s] } } })) 3 =
      some (0x18, 0x104) := by
  simp only [clear_iff]; decide +kernel

theorem test_hyp_SerifsWake :
    -- a plane's serif with COUNT 0, COUNT 1 waiting, COUNT 1 parked, and COUNT 2; a word of no plane
    (let s := plane 0x05010007 0x100 none;
      Memory.read s.mem (wellPA 0 0x80A0) 4 = 0x05010007 ∧ Memory.wf s.mem = true ∧ s.deafTo 0 (s.nibNumber 4096) = false ∧ s.planeOf 0 0x6000 = none ∧
      s.planeOf 0 0x80A0 = some (s.ctx, 2) ∧ s.Resides 0 s.ctx.cid 0 ∧ s.ctx.blockSerif 2 0x80A0 = false ∧ (0x80A0 : Nat) + 4 ≤ 0x4C000 ∧
      (0x80A0 - (s.ctx.x.slots[2]).serifs.toNat) / 128 = 1 ∧ wellPA 0 0x9000 = wellPA 0 ((s.ctx.x.slots[2]).skip.toNat + 8 * (1 / 64)) ∧
      wellPA 0 0x80A0 + 4 ≤ wellPA 0 0x9000) ∧
    (serifCount 0x05000007 = 0 ∧ serifCount 0x05010007 = 1 ∧ serifKind 0x05010007 = 1 ∧ serifCount 0x06010007 = 1 ∧ serifKind 0x06010007 ≠ 1 ∧
      1 < serifCount 0x05020007 ∧ serifKind 0x04330007 = 0 ∧ serifKind 0x05330007 = 1 ∧ serifKind 0x06330007 = 2 ∧ serifKind 0x07330007 = 3) ∧
    -- swake of the last element and of one past it, in hidden records, and while the window runs
    (let s := plane 0x05010007 0x100 none;
      (withG s 4 99).Clear [.g 4] [] false ∧ (s.ctx.x.slots[2]).valid = true ∧ ((withG s 4 99).rg 4).toNat < (s.ctx.x.slots[2]).count.toNat ∧
      (s.ctx.x.slots[2]).count.toNat ≤ ((withG s 4 100).rg 4).toNat ∧ (s.ctx.x.slots[1]).valid = false ∧ s.recordsShut 0x80A0 4 = false) := by
  simp only [clear_iff, State.Resides]; decide +kernel

/-- `plane`'s slot moved into the context cache's records, the cache enabled. -/
def hiddenPlane : State := (withSlot (at_ .s) 2 { slotOf with serifs := 0x4C000 }).modNib 0 (fun n => { n with ctxEn := true })

/-- A running step block of window 1. -/
def blockRuns : State := plane 0x05010007 0x100 (some { sweepOf .run 2 0 with running := [.s], lanes := 0xFFFFFFFF })

theorem test_hyp_SerifsHiddenOrInABlock :
    hiddenPlane.recordsShut 0x4C000 4 = true ∧ blockRuns.ctx.blockSerif 2 0x80A0 = true ∧ blockRuns.recordsShut 0x80A0 4 = false := by decide +kernel

theorem test_hyp_SweepsTakeWindows :
    (let s := plane 0 0 none;
      (s.ctx.x.slots[1]).valid = false ∧ (s.ctx.x.slots[2]).valid = true ∧ s.inBlock = false ∧ blockRuns.inBlock = true ∧ s.sealFull 3 = false) ∧
    -- reading: a bit at the cursor, one only below it, and one past the plane
    (let s := plane 0 0xA (some (sweepOf .read 2 0));
      (s.stroke 0 0).ctx.x.sweep = some (sweepOf .read 2 0) ∧ (sweepOf .read 2 0).paused = 0 ∧ (sweepOf .read 2 0).notBefore ≤ s.tn ∧
      (s.stroke 0 0).ctx.x.slots[2] = slotOf ∧ 4 = (slotOf.count.toNat + 31) / 32 ∧ 0 = min (2 / 64) ((4 - 1) / 64) ∧
      0xA = Memory.read s.mem (wellPA 0 (slotOf.skip.toNat + 8 * 0)) 8 ∧
      ((0xA : Nat).testBit 3 = true ∧ 2 ≤ 64 * 0 + 3 ∧ 64 * 0 + 3 < 4 ∧ ∀ c < 3, (0xA : Nat).testBit c = true → 64 * 0 + c < 2) ∧
      (∀ b < 64, (0xF02 : Nat).testBit b = true → 64 * 0 + b < 2 ∨ 4 ≤ 64 * 0 + b)) ∧
    -- loading: a window with an awake serif, and one with none
    (let s := plane 0x04010007 0x2 (some (sweepOf .load 2 0));
      (sweepOf .load 2 0).stage = .load ∧ Memory.wf s.mem = true ∧ 2 - 1 = (sweepOf .load 2 0).cursor - 1 ∧ realLanes slotOf 3 = [0, 1, 2, 3] ∧
      serifKind 0x04010007 = 0 ∧ serifKind 0x05010007 ≠ 0) ∧
    (sweepOf .read 4 0).members.contains (Seq.ofIdx 2) = false ∧ (sweepOf .read 4 0).sl ≠ 0 := by decide +kernel

/-- A snap whose lane 0 is awake at step `u` and whose lane 2 is awake at step 62; the others are off. -/
def snapOf (u : Nat) : Vec := BitVec.ofNat 1024 ((List.range 32).foldl (fun a j =>
  a + (if j = 0 then u * 2 ^ 26 + 0x10005 else if j = 2 then 0xF8010006 else 0x03000000) * 2 ^ (32 * j)) 0)

/-- Window 1 of slot 2 is about to start its block, its step table holding e for step 63, its last block at `last` - 1. -/
def startAt (u last e : Nat) : State :=
  withW (plane 0 0x100 (some { sweepOf .start 2 (snapOf u) with last := last })) 0xA0FC 4 e

/-- Window 1's block has ended in turn e, its serifs apart from the skip map. -/
def writeAt (e : Nat) : State := plane 0 0x100 (some (sweepOf (.writeBack e) 2 (snapOf 3)))

theorem test_hyp_StepBlocks :
    -- the lowest step among the awake lanes, 3 first and then 63, the last
    ((startAt 3 0 0x140).brushBlocked 0 0 = false ∧ (∃ j ∈ awake slotOf 1 0 (snapOf 3), serifStep (laneOf (snapOf 3) 4 j) = 3) ∧
      (∀ j ∈ awake slotOf 1 0 (snapOf 3), 3 ≤ serifStep (laneOf (snapOf 3) 4 j)) ∧
      (∃ j ∈ awake slotOf 1 63 (snapOf 63), serifStep (laneOf (snapOf 63) 4 j) = 63) ∧
      ∀ j ∈ awake slotOf 1 63 (snapOf 63), 63 ≤ serifStep (laneOf (snapOf 63) 4 j)) ∧
    -- entries: good, zero and misaligned
    (Memory.read (startAt 63 63 0x140).mem (wellPA 0 (slotOf.steps.toNat + 4 * 63)) 4 = 0x140 ∧ 0x140 % 32 = 0 ∧
      Memory.read (startAt 3 0 0x140).mem (wellPA 0 (slotOf.steps.toNat + 4 * 3)) 4 = 0 ∧ 0x144 % 32 ≠ 0 ∧ Memory.wf (startAt 3 0 0x144).mem = true ∧
      ((startAt 3 0 0).stroke 0 0).ctx.causes = [] ∧ (sweepOf .start 2 0).sl ≠ 0) ∧
    -- write-back: due, not yet due, a result still to land, v15 pending
    (let s := writeAt 99;
      (s.stroke 0 0).ctx.x.sweep = some (sweepOf (.writeBack 99) 2 (snapOf 3)) ∧ s.tn = 100 ∧ Memory.wf s.mem = true ∧ (99 : Nat) < 100 ∧ (100 : Nat) ≤ 100 ∧
      s.blockLanding 0 0 (sweepOf (.writeBack 99) 2 (snapOf 3)) = false ∧
      (withC s (fun c => { c with inflight := [⟨103, 98, .a, .reg (.g 8 7)⟩] })).blockLanding 0 0 (sweepOf (.writeBack 99) 2 (snapOf 3)) = true ∧
      (s.stroke 0 0).ctx.r.pending (.v 15) = false ∧ wellPA 0 (slotOf.serifs.toNat + 128 * 1) + 128 ≤ wellPA 0 (slotOf.skip.toNat + 8 * (1 / 64))) := by decide +kernel

/-! ## Matrix (R219 to R249) -/

/-- A field number and a value in range, and one out of it, at each end of each range (R229, R230). -/
def fieldEnds : List (Nat × Nat × Bool) :=
  [(0x00, 1, true), (0x00, 65535, true), (0x50, 0, false), (0x50, 65536, false), (0x51, 0xFFFFFFFF, true), (0x54, 1, true), (0x54, 2, false),
   (0x10B, 65535, true), (0x102, 65536, false), (0x103, 1, true), (0x103, 2, false), (0x106, 1, true), (0x108, 32, true), (0x106, 0, false),
   (0x108, 33, false), (0x109, 7, true), (0x109, 8, false), (0x10A, 2, true), (0x10A, 3, false)]

/-- The range of a field, as the statement gives it. -/
def inRange (f v : Nat) : Bool :=
  if f < 0x60 then (match f % 16 with | 0 => 1 ≤ v && v ≤ 65535 | 4 => v ≤ 1 | _ => true)
  else if f = 0x102 ∨ f = 0x10B then v ≤ 65535 else if f = 0x103 then v ≤ 1 else if f = 0x106 ∨ f = 0x108 then 1 ≤ v && v ≤ 32
  else if f = 0x109 then v ≤ 7 else if f = 0x10A then v ≤ 2 else true

/-- A matrix command with these fields of its snapshot. -/
def cmdOf (id : Nat) (k : MKind) (fields : List (Fin 64 × BitVec 32)) : MCmd :=
  { id := id, cid := 1, stroke := 0, seq := .s, sl := 3, kind := k, fmt := 0x11
    snap := fields.foldl (fun v x => v.set x.1 x.2) (.ofFn (fun i => if i.val % 8 = 0 then 1 else 0)), issue := 700, lc := 44, tmax := 55
    slab := 0, running := false, newTile := true, start := 0, tileSlabs := 0, tiles := 0, rows := [], ev := 0, grp := GrpRun.reset
    failed := 0, rerun := 0, done := false, posted := false }

/-- The matrix engine of nib 0 is m, and the format queue holds these words. -/
def matrixAt (m : Matrix) (fmts : List (BitVec 32)) : State :=
  withC ((at_ .s).modNib 0 (fun x => { x with matrix := m })) (fun c => { c with x := { c.x with fmt := fmts }, task := { c.task with ruled := 0b1010 } })

/-- n commands in the queue. -/
def queued (n : Nat) : Matrix := { Matrix.reset with queue := (List.range n).map (fun i => cmdOf i (.mzero 2) []) }

theorem test_hyp_MatrixIssue :
    (fieldEnds.all (fun x => inRange x.1 x.2.1 == x.2.2) = true ∧ (withG (at_ .s) 4 0x500000020).Clear [.g 4] [] false ∧
      (0x20 : BitVec 32) = ((withG (at_ .s) 4 0x500000020).rg 4).setWidth 32 ∧ (at_ .s).Clear [] [] false ∧
      (0x60 ≤ (0x60 : BitVec 12).toNat ∧ 0x10C ≤ (0x10C : BitVec 12).toNat ∧ 5 ≤ (0x55 : BitVec 12).toNat % 16)) ∧
    -- format words: every field at its last value, and each past it
    ((0x112499 : Nat) / 2 ^ 20 % 16 < 2 ∧ (0x200000 : Nat) / 2 ^ 20 % 16 ≥ 2 ∧ (0x30000 : Nat) / 2 ^ 16 % 16 ≥ 3 ∧ (0x2000 : Nat) / 2 ^ 12 % 4 ≥ 2 ∧
      (0x500 : Nat) / 2 ^ 8 % 16 ≥ 5 ∧ (0xA0 : Nat) / 2 ^ 4 % 16 ≥ 10 ∧ (0xA : Nat) % 16 ≥ 10 ∧
      (matrixAt Matrix.reset [0x11]).ctx.x.fmt.length < 2 ∧ 2 ≤ (matrixAt Matrix.reset [0x11, 0x22]).ctx.x.fmt.length) ∧
    -- commands: room and none, a format word and none, one that is bad and one that grouped runs refuse, open and closed directions
    ((matrixAt (queued 3) [0x11]).cnib.matrix.queue.length < 4 ∧ ¬ (matrixAt (queued 4) [0x11]).cnib.matrix.queue.length < 4 ∧
      (matrixAt (queued 3) []).sealFull 3 = false ∧ (matrixAt (queued 3) []).ctx.x.fmt = [] ∧ (matrixAt (queued 3) [0x11]).ctx.x.fmt = 0x11 :: [] ∧
      fmtBad 0xA = true ∧ fmtBad 0x100011 = false ∧ (0x100011 : BitVec 32).toNat / 2 ^ 20 % 16 = 1 ∧ fmtBad 0x11 = false ∧
      (matrixAt (queued 3) []).ctx.task.ruled.getLsbD 1 = true ∧ ((matrixAt (queued 3) []).neighbour 0 1).isSome = true ∧
      (matrixAt (queued 3) []).ctx.task.ruled.getLsbD 3 = true ∧ ((matrixAt (queued 3) []).neighbour 0 3).isSome = false ∧
      (matrixAt (queued 3) []).ctx.task.ruled.getLsbD 0 = false) ∧
    ((0x5F000 : Word).toNat % 64 = 0 ∧ (0x5F000 : Word).toNat + 4096 ≤ 0x60000 ∧ (0x5F020 : Word).toNat % 64 ≠ 0 ∧ 0x60000 < (0x5F040 : Word).toNat + 4096 ∧
      (matrixAt (queued 3) []).Clear [.g 4, .g 5] [] false ∧ (matrixAt (queued 3) []).Clear [] [.g 4] false) := by
  simp only [clear_iff]; decide +kernel

/-- `mgo` with A at 0x4000, C at 0x5000, two slabs, K = 2, the rows 0 and 2 of 3, and an emit after its last slab. -/
def goOf (asrc afwd : Fin 4) (boff : BitVec 32) : MCmd :=
  cmdOf 8 (.mgo asrc afwd) [(48, 0x4000), (50, boff), (52, 0x5000), (54, 3), (55, 0b101), (56, 3), (57, 2), (58, 0), (59, 128), (4, 1), (0, 2)]

/-- The engine with valid banks of 4,096 bytes, a panel of stroke 0 behind one of stroke 1, and its occupation ended or not. -/
def engineOf (array : Option MCmd) (e : Nat) : Matrix :=
  { Matrix.reset with
    banks := .replicate 2 ⟨true, 4096, 0x3C003C004000⟩, array := array, arrayEnd := e
    fromWest := [(1, 5), (0, 0x3C003C00), (0, 7)], fromNorth := [(1, 5)] }

/-- `engineOf` with these queued, stopped and draining commands. -/
def engineWith (queue stopped draining : List MCmd) : Matrix :=
  { engineOf none 0 with queue := queue, stopped := stopped, draining := draining }

/-- `engineWith` in nib 0 of a stroke whose STOPPED bit is b. -/
def engineAt (queue stopped draining : List MCmd) (b : Bool) : State :=
  withCsr (matrixAt (engineWith queue stopped draining) []) (fun c => { c with mfault := if b then 1 else 0 })

theorem test_hyp_MatrixDispatches :
    let z := cmdOf 8 (.mzero 2) []
    let rd := { cmdOf 7 (.mrd 2 0x3000) [] with done := true, rows := [⟨0x3000, false, 0, 128, 64, 0, none, 0⟩] }
    ((engineAt [] [] [] false).nib 0).matrix.queue = [] ∧
    -- a stopped command of the stroke, none, and a command that holds the array
    (engineAt [z] [] [] true).stopFull 0 z.cid = true ∧ (engineAt [z] [] [] false).stopFull 0 z.cid = false ∧
    (engineWith [z] [] [rd]).draining = [rd] ∧ rd.rows ≠ [] ∧
    ((engineAt [z] [] [rd] false).cmdParked 7 = false ∧
      ({ engineAt [z] [] [goOf 0 0 0] false with ops := [opOf 3 (.matrix 8) false] }).cmdParked 8 = true) ∧
    -- 16 cycles after the issue, and one short of it
    (z.issue + 16 ≤ (engineAt [z] [] [] false).cycle ∧ ({ engineAt [z] [] [] false with cycle := 715 }).cycle < z.issue + 16 ∧
      z.done = false ∧ z.rows = [] ∧ z.grp.loading = false ∧ (engineOf none 0).loader = none) := by decide +kernel

/-- `goOf` at its array, with its slab done or not begun. -/
def goAt (c : MCmd) (e : Nat) : State := matrixAt (engineOf (some c) e) []

theorem test_hyp_SlabsBegin :
    (let c := goOf 1 1 0;
      let s := goAt c 0;
      (s.nib 0).matrix.array = some c ∧ c.running = false ∧ c.grp.loading = false ∧ s.cmdParked c.id = false ∧ c.bOff c.slab = 0 ∧
      ¬ ((s.nib 0).matrix.banks[c.bank]).valid = false ∧ ¬ (0 : Int) < 0 ∧ ¬ ((((s.nib 0).matrix.banks[c.bank]).len : Int) < 0 + c.cols * imgSize c.bfmt) ∧
      (s.nib 0).matrix.fromWest = [(1, 5)] ++ (c.stroke, 0x3C003C00) :: [(0, 7)] ∧ (∀ y ∈ [((1 : Fin 8), 5)], y.1 ≠ c.stroke) ∧
      s.neighbour 0 1 = some 1 ∧ (1 : NibId) ≠ 0 ∧ (∀ y ∈ (s.nib 0).matrix.fromNorth, y.1 ≠ c.stroke) ∧ s.stopFull 0 c.cid = false ∧ s.Resides 0 c.cid 0) ∧
    -- columns up to the bank's end, past it, and before it
    ((goOf 0 0 4000).bOff 0 = 4000 ∧ ((4096 : Nat) : Int) < 4096 + (goOf 0 0 4096).cols * imgSize (goOf 0 0 4096).bfmt ∧
      ({ goOf 0 0 15 with snap := (goOf 0 0 15).snap.set 2 0xFFFFFFF0 }).bOff 1 = -1) ∧
    (let s := goAt (goOf 0 0 0) 0;
      ((s.mreads 0 16 1 (.slabEnd 0) (((goOf 0 0 0).active 3).map (fun m => (m, (goOf 0 0 0).aAddr 0 + BitVec.ofNat 64 (m * 16)))) (goOf 0 0 0) []).1).isSome = true) := by
  simp only [State.Resides]; decide +kernel

theorem test_hyp_SlabsEnd :
    let run := fun (c : MCmd) (x : Nat) => { c with running := true, newTile := false, slab := x }
    let s := goAt (run (goOf 0 0 0) 1) (800 * 720720)
    (s.cycle * 720720 < 800 * 720720 + 1 ∧ (s.nib 0).matrix.arrayEnd ≤ s.cycle * 720720 ∧ (s.nib 0).matrix.array = some (run (goOf 0 0 0) 1)) ∧
    (1 < ({ run (goOf 0 0 0) 1 with rerun := 2 }).rerun ∧ (run (goOf 0 0 0) 1).rerun ≤ 1 ∧ (run (goOf 0 0 0) 1).chk = false) ∧
    ((run (goOf 0 0 0) 0).slab + 1 < (goOf 0 0 0).total ∧ (run (goOf 0 0 0) 1).slab + 1 = (goOf 0 0 0).total ∧ (goOf 0 0 0).field 58 ≤ 2 ∧
      (goOf 0 0 0).active ((goOf 0 0 0).field 54) = [0, 2] ∧ (run (goOf 0 0 0) 1).rows = [] ∧ (run (goOf 0 0 0) 1).posted = false ∧
      ∀ d ∈ (engineOf none 0).draining, d.id ≠ 8) := by decide +kernel

/-- An absent group whose fill seal is 4 and whose threshold is 7. -/
def groupOf : Group := ⟨0x7000, 3, 5, 4, true, 7, 0x7100, 0x7200, 0x7300⟩

/-- A grouped run that has noted it, at the second pass. -/
def groupedOf : MCmd :=
  { cmdOf 8 (.mgrp 0x7000 1) [] with grp := { GrpRun.reset with at_ := 1, noted := [groupOf], loads := 3 } }

/-- `groupedOf` at the array, its fill seal at this count. -/
def groupedAt (count : BitVec 16) : State := withR (goAt groupedOf 0) (fun r => { r with seals := r.seals.set 4 ⟨count, 0, 9⟩ })

/-- A row of an emit. -/
def rowOfEmit (va : Word) : MRow := ⟨va, false, 0x1122334455667788, 64, 64, 0, none, 0⟩

/-- `goOf` draining, with two rows to write. -/
def drainOf : MCmd := { goOf 0 0 0 with rows := [rowOfEmit 0x5000, rowOfEmit 0x5080] }

/-- A weight image of 32 bytes at 0x3000, being loaded. -/
def loadAt : State :=
  withW (matrixAt { engineOf none 0 with loader := some (cmdOf 8 (.mwld 1 0x3000 48) []) } []) 0x3000 48
    (1 + 32 * 2 ^ 32 + 32 * 2 ^ 64 + 0x123456789ABCDEF * 2 ^ 128)

theorem test_hyp_MatrixRowsWaitsAndPosts :
    -- a fill seal one short of its threshold, and at it
    (((groupedAt 6).nib 0).matrix.array = some groupedOf ∧ groupedOf.grp.cur = none ∧ groupedOf.grp.at_ = 1 ∧ groupedOf.grp.noted = groupOf :: [] ∧
      groupOf.fseal ≠ 0 ∧ ((6 : BitVec 16) - groupOf.fthr).msb = true ∧ ((7 : BitVec 16) - groupOf.fthr).msb = false ∧
      (groupedAt 7).filled 0 groupedOf groupOf = true ∧ groupOf.wmem = true ∧ groupedOf.grp.loaded = false) ∧
    -- a panel behind one of the other direction
    (let s := { matrixAt (engineOf none 0) [] with ops := [opOf 7 (.panel 0 1 3 77) false, opOf 8 (.panel 0 0 3 77) false] };
      s.ops = [opOf 7 (.panel 0 1 3 77) false] ++ opOf 8 (.panel 0 0 3 77) false :: [] ∧ (s.nib 0).matrix.array = none ∧ (1 : Fin 4) ≠ 0) ∧
    (let s := matrixAt (engineWith [] [] [drainOf]) [];
      s.cmdNib 8 = some 0 ∧ (s.nib 0).matrix.findCmd 8 = some drainOf ∧ s.cmdParked 8 = false ∧ drainOf.rows = rowOfEmit 0x5000 :: [rowOfEmit 0x5080] ∧
      Memory.wf s.mem = true ∧ s.engCheck 0 (s.engFor 0 1).1 (s.engFor 0 1).2 0x5000 64 64 true = .ok [⟨0x5000, wellPA 0 0x5000, 64, false, 0⟩] ∧
      State.ownPieces 0 [⟨0x5000, wellPA 0 0x5000, 64, false, 0⟩] = true) ∧
    ((loadAt.nib 0).matrix.loader = some (cmdOf 8 (.mwld 1 0x3000 48) []) ∧
      ((loadAt.readImage 0 (cmdOf 8 (.mwld 1 0x3000 48) []) 0x3000 (some 48) (.weightLoadComplete 0)).1.map (fun x => (x.1, x.2.1))) = some (32, 0x123456789ABCDEF)) ∧
    (let s := { matrixAt (engineOf none 0) [] with ops := [opOf 8 (.matrixPost 5) true] };
      s.findOp 8 = some (opOf 8 (.matrixPost 5) true) ∧ s.Resides 0 1 0) ∧
    (let s := engineAt [] [drainOf] [] true;
      (s.nib 0).matrix.stopped = [drainOf] ∧ drainOf.cid = (s.stroke 0 0).ctx.cid ∧ (s.nib 0).matrix.draining = [] ∧
      (s.stroke 0 0).ctx.c.mfault.getLsbD 0 = true ∧ drainOf.sl ≠ 0 ∧ drainOf.posted = false ∧ s.cmdBusy drainOf.id = false) := by
  simp only [State.Resides]; decide +kernel

/-! ## Copies, exchange and barriers (R278 to R303) -/

/-- Bytes with these values at these offsets. -/
def fieldsOf (l : List (Nat × Nat)) : Nat := l.foldl (fun a x => a + x.2 * 2 ^ (8 * x.1)) 0

/-- A descriptor of `cpy` or `cpy.pack`: 2 x 3 rows of w bytes from src to dst, with a DSER and these options. -/
def copyDesc (src dst w dser opt : Nat) : BitVec 512 :=
  BitVec.ofNat 512 (fieldsOf [(0, src), (8, dst), (0x10, w), (0x14, 3), (0x16, 2), (0x18, 0x100), (0x1C, 0x300), (0x20, 0x100), (0x24, 0x300), (0x28, dser), (0x30, opt)])

/-- A descriptor of `cpy.topk`: n rows of a tile, with these options. -/
def topkDesc (tile n opt : Nat) : BitVec 512 := BitVec.ofNat 512 (fieldsOf [(0, tile), (8, 0x5000), (0x14, n), (0x20, 0x80), (0x30, opt)])

/-- g4 names the descriptor, at 0x3000, n commands are in the quill, and m in the matrix queue. -/
def copyAt (d : BitVec 512) (n m : Nat) : State :=
  (withG (withW (at_ .s) 0x3000 64 d.toNat) 4 0x3000).modNib 0 (fun x => { x with quill := List.range n, matrix := queued m })

theorem test_hyp_CopiesIssue :
    -- descriptors at the ends of the ranges, and past them
    copyBad 0 (copyDesc 0x4000 0x5000 1 0 0) = none ∧ copyBad 0 (copyDesc 0x4000 0x5000 16777215 0x9000 0xF2) = none ∧
    copyBad 0 (copyDesc 0x4000 0x5000 16777216 0 0) ≠ none ∧ copyBad 0 (copyDesc 0x4000 0x5000 0 0 0) ≠ none ∧ copyBad 0 (copyDesc 0x4000 0x5000 1 0 0x10) ≠ none ∧
    copyBad 0 (copyDesc 0x4000 0x5000 1 0 3) ≠ none ∧ copyBad 0 (copyDesc 0x4000 0x5000 1 0 4) ≠ none ∧
    copyBad 1 (topkDesc 7 32 0x208) = none ∧ copyBad 1 (topkDesc 0 1 0x11) = none ∧ copyBad 1 (topkDesc 8 1 0x11) ≠ none ∧ copyBad 1 (topkDesc 0 33 0x11) ≠ none ∧
    copyBad 1 (topkDesc 0 1 0x219) ≠ none ∧ copyBad 1 (topkDesc 0 1 0x12) ≠ none ∧ copyBad 1 (topkDesc 0 1 0x11 ||| 0x400 <<< 384) ≠ none ∧
    copyBad 2 (copyDesc 0x4000 0x5000 4 0 0) = none ∧ copyBad 2 (copyDesc 0x4000 0x5000 2 0 1) = none ∧ copyBad 2 (copyDesc 0x4000 0x5000 2 0 0) ≠ none ∧
    copyBad 2 (copyDesc 0x4000 0x5000 4 0 2) ≠ none ∧
    -- the instructions: the quill with room and full, the matrix queue full, and a descriptor at the well's end and past it
    (let s := copyAt (copyDesc 0x4000 0x5000 100 0 0) 511 0;
      s.Clear [.g 4] [] true ∧ BitVec.ofNat 512 (s.wellRead 0x3000 52) = copyDesc 0x4000 0x5000 100 0 0 ∧ ¬ 512 ≤ s.cnib.quill.length ∧ s.sealFull 3 = false ∧
      (copyDesc 0x4000 0x5000 100 0 0).toNat / 2 ^ 416 = 0 ∧ s.recordsShut 0x3000 52 = false) ∧
    512 ≤ (copyAt (topkDesc 0 1 0x11) 512 0).cnib.quill.length ∧ 4 ≤ (copyAt (topkDesc 0 1 0x11) 0 4).cnib.matrix.queue.length ∧
    (0x5FFC0 : Nat) + 64 ≤ 0x60000 ∧ 0x60000 < (0x5FFC4 : Nat) + 64 ∧
    ((copyAt (copyDesc 0x4000 0x5000 100 0 0) 0 0).modNib 0 (fun n => { n with ctxEn := true })).recordsShut 0x4C000 52 = true := by
  simp only [clear_iff]; decide +kernel

/-- The copy in service: row i, as far as r. -/
def copyOf (d : BitVec 512) (k : Fin 4) (i : Nat) (r : CopyRow) (performed : Bool) : Op :=
  opOf 8 (.copy 0x3000 d k i r (some 5) 0) performed

/-- It is the quill's only command, and window 5 of its partition shows its own virtual function where en. -/
def copyRuns (d : BitVec 512) (k : Fin 4) (i : Nat) (r : CopyRow) (performed en : Bool) : State :=
  let s := copyAt d 0 0
  let s := { s with ops := [copyOf d k i r performed], parts := s.parts.set 0 { s.parts[0] with fwin := s.parts[0].fwin.set 5 ⟨s.modu.modn, 1, en⟩ } }
  s.modNib 0 (fun x => { x with quill := [8] })

/-- What one piece of a copy's row finds. -/
def looksAt (s : State) (va : Word) (n : Nat) (write : Bool) : Bool × Nat :=
  match s.engPieces 0 (s.engFor 0 1).1 (s.engFor 0 1).2 write true [⟨va, 0, n, false, 0⟩] [] with
  | .ok rs => (true, (rs.map (·.pa)).sum)
  | .fail _ v => (false, v.toNat)
  | _ => (false, 0)

theorem test_hyp_CopiesRun :
    -- a first part, a last one, a packed row and a row of a tile
    (let d := copyDesc 0x4000 0x5000 100 0x9000 0;
      let s := copyRuns d 0 1 ⟨0, false, 0, 0, false⟩ false false;
      s.findOp 8 = some (copyOf d 0 1 ⟨0, false, 0, 0, false⟩ false) ∧ descNat d 0x30 4 % 4 = 0 ∧ s.copyAtBorder (copyOf d 0 1 ⟨0, false, 0, 0, false⟩ false) = false ∧
      Memory.wf s.mem = true ∧ 1 < copyRows 0 d ∧ looksAt s (copySrc d 1) 64 false = (true, wellPA 0 0x4100) ∧ 0 + 64 < descNat d 0x10 4 ∧
      looksAt s (copySrc d 1 + 64) 36 false = (true, wellPA 0 0x4140) ∧ 64 + 36 = descNat d 0x10 4 ∧ looksAt s (copyDst d 1) 64 true = (true, wellPA 0 0x5100) ∧
      (match s.serifLook 0 1 0x9000 with | .ok (y :: _) => y.pa == wellPA 0 0x9000 | _ => false) = true ∧ copyRows 0 d = 6) ∧
    -- a part past the local window
    (looksAt (copyRuns (copyDesc 0x5FF00 0x5000 100 0 0) 0 1 ⟨0, false, 0, 0, false⟩ false false) 0x60000 64 false = (false, 0x60000)) ∧
    copyRows 1 (topkDesc 3 5 0x84) = 5 ∧ (some (5 : BitVec 32768)).isSome = true := by decide +kernel

theorem test_hyp_CopiesEnd :
    -- performed, ended and not yet performed
    (let d := copyDesc 0x4000 0x5000 100 0 0;
      (copyOf d 0 7 ⟨0, false, 0, 0, false⟩ false).performed = false ∧ copyRows 0 d < 7 ∧
      ((copyRuns d 0 7 ⟨0, false, 0, 0, false⟩ false false).ops.all (fun q => match q.kind with | .decr _ _ _ 8 => false | _ => true)) = true ∧
      (copyRuns d 0 7 ⟨0, false, 0, 0, false⟩ true false).Resides 0 1 0) ∧
    -- remote source and target, the window shut, open to what is this module's, and open to what is not in the partition
    (let d := copyDesc (wellPA 0 0x4000) (wellPA 0 0x5000) 100 0 0x51;
      let s := copyRuns d 0 0 ⟨0, false, 0, 0, true⟩ false true;
      descNat d 0x30 4 % 4 = 1 ∧ descNat d 0x30 4 / 16 = 5 ∧ s.route (s.partOf 0) (State.folioOf 0) = [] ∧ 0 + 64 < descNat d 0x10 4 ∧
      (s.parts[0].fwin[5]).en = true ∧ (s.parts[0].fwin[5]).modn = s.modu.modn ∧
      s.remoteHere s.modu.modn 1 1 (wellPA 0 0x4000) = true ∧ s.goneHome (wellPA 0 0x4000) = false ∧ s.remoteHere s.modu.modn 1 1 (wellPA 4096 0x4000) = false) ∧
    descNat (copyDesc 0 0 100 0 0x52) 0x30 4 % 4 = 2 ∧ 64 + 36 ≥ (100 : Nat) ∧
    -- another module's access, admitted and not
    ((at_ .s).remoteHere 9 3 1 (wellPA 0 0x4000) = false ∧ (9 : BitVec 16) ≠ (at_ .s).modu.modn ∧
      ({ at_ .s with parts := (at_ .s).parts.set 0 { (at_ .s).parts[0] with fwin := (at_ .s).parts[0].fwin.set 5 ⟨9, 3, true⟩ } }).remoteHere 9 3 1 (wellPA 0 0x4000) = true ∧
      (at_ .s).goneHome (wellPA 0 0x4000) = false ∧ (at_ .s).modu.gone = [] ∧ wellPA 0 0x4038 % 64 + 8 ≤ 64) := by
  simp only [State.Resides]; decide +kernel

/-- A record of ring 2 at this offset. -/
def recOf (off len kind : Nat) (complete : Bool) (grant : Nat) : RingRec := ⟨off, len, kind, complete, grant, 2, false, 9000⟩

/-- A ring of 4,096 bytes with a message, a pad, a cancelled record, a message, and a record still to be written. -/
def ringOf (en held : Bool) (tail used grants : Nat) : Ring :=
  ⟨en, 0x10000, 4096, 64, 0, tail, used, grants, [recOf 0 128 0 true 5, recOf 128 128 1 true 0, recOf 256 128 2 true 6, recOf 384 128 0 true 7, recOf 512 256 0 false 8], held, false⟩

/-- Stroke 3 of nib 4096 has this ring and these messages, in the same partition as nib 0. -/
def peerAt (r : Ring) (messages : Nat) : State :=
  let s := (at_ .s).modStroke 4096 3 (fun k => { k with status := .running, rings := k.rings.set 2 r, mailbox := List.replicate messages ⟨5, 6⟩ })
  { s with parts := s.parts.set 0 { s.parts[0] with folios := 3 } }

/-- A permit request of these rows for that ring. -/
def reqOf (rows : Nat) : Word := BitVec.ofNat 64 (0x8003 + 2 * 2 ^ 40 + (rows - 1) * 2 ^ 52)

/-- g4 names a permit block at 0x3000 for that ring, with this STATUS and grant; g5 is a list or a request. -/
def blockAtPeer (status grant : Nat) (g5 : Word) : State :=
  withG (withG (withW (peerAt (ringOf true false 640 640 1) 0) 0x3000 64 (fieldsOf [(0, 0x8003), (8, 2), (9, status), (0x18, grant)])) 4 0x3000) 5 g5

theorem test_hyp_ExchangeAndPermits :
    -- requests: good, with a reserved bit, and blocks at the well's end, past it, misaligned and hidden
    (let s := blockAtPeer 1 8 0x4000;
      s.Clear [.g 4, .g 5] [] true ∧ s.Clear [.g 4, .g 5] [.g 9] true ∧ s.sealFull 3 = false ∧ (0x5FFC0 : Nat) + 64 ≤ 0x60000 ∧ 0x60000 < (0x60000 : Nat) + 64 ∧
      (0x3000 : Nat) % 64 = 0 ∧ (0x3010 : Nat) % 64 ≠ 0 ∧ s.recordsShut 0x3000 64 = false ∧
      (s.modNib 0 (fun n => { n with ctxEn := true })).recordsShut 0x4C000 64 = true ∧
      ((reqOf 3).extractLsb' 42 10 = 0 ∧ (reqOf 3).extractLsb' 35 5 = 0) ∧ (reqOf 3 ||| 0x800000000#64).extractLsb' 35 5 ≠ 0) ∧
    -- sends: the grant is there, is unknown, and the expectations are short
    (let s := blockAtPeer 1 8 0x4000;
      descField (s.wellRead 0x3000 64) 9 1 = 1 ∧ (s.findGrant 0x8003 2 8).isSome = true ∧ s.findGrant 0x8003 2 9 = none ∧
      descField ((blockAtPeer 3 8 0).wellRead 0x3000 64) 9 1 ≠ 1 ∧ s.deafTo 0 (BitVec.ofNat 32 (0x8003 / 8)) = false ∧ s.nibLost (strokeNib 0x8003) = false ∧
      ((s.findGrant 0x8003 2 8).map (·.2)) = some (recOf 512 256 0 false 8) ∧ 2 ≤ s.freeExpects 0 ∧
      (s.modNib 0 (fun n => { n with expectReserved := 1023 })).freeExpects 0 < 2) ∧
    -- permits: refused, busy, no room, room, a wrap, and a wrap at the end
    (let s := { peerAt (ringOf true false 640 640 1) 0 with ops := [opOf 7 (.permit 0x5000 (reqOf 3 + 1)) false, opOf 8 (.permit 0x3000 (reqOf 3)) false] };
      s.ops = [opOf 7 (.permit 0x5000 (reqOf 3 + 1)) false] ++ opOf 8 (.permit 0x3000 (reqOf 3)) false :: [] ∧ strokeNib (State.reqTarget (reqOf 3)) = 4096 ∧
      s.deafTo 4096 (s.nibNumber 0) = false ∧ s.deafTo 0 4096 = false ∧ s.nibLost 4096 = false ∧ s.inPartition 0 0x8003 = true ∧
      (at_ .s).inPartition 0 0x8003 = false ∧ (16 : Nat) ≤ (ringOf true false 640 640 16).grants ∧ (ringOf true false 640 640 15).grants < 16 ∧
      recordLen 3 64 ≤ 4096 - 640 ∧ 4096 - 4000 < recordLen 3 64 ∧ recordLen 3 64 = 256 ∧ 4096 - 3840 = 256 ∧ 4096 - 4096 = 0 ∧
      (4096 - 3904 < 256 ∧ 192 + 256 ≤ 4096 - 640) ∧ State.reqTarget (reqOf 3 + 1) ≠ State.reqTarget (reqOf 3)) ∧
    (let s := { peerAt (ringOf true false 640 640 1) 0 with ops := [opOf 8 (.permitAns 0x3000 (reqOf 2) 1 640 128 9) true] };
      s.findOp 8 = some (opOf 8 (.permitAns 0x3000 (reqOf 2) 1 640 128 9) true) ∧ s.Resides 0 1 0 ∧ s.nibLost 0 = false ∧ Memory.wf s.mem = true) := by
  simp only [clear_iff, State.Resides]; decide +kernel

/-- Stroke 0 has this ring 2 and n messages, and g4 = x; a ring descriptor stands at 0x3000. -/
def ringAt (r : Ring) (n : Nat) (x : Word) (desc : List (Nat × Nat)) : State :=
  withG (withW ((at_ .s).modStroke 0 0 (fun k => { k with mailbox := List.replicate n ⟨55, 7000⟩, rings := k.rings.set 2 r })) 0x3000 16 (fieldsOf desc)) 4 x

/-- The first check of `xrcfg g4` that fails (R287). -/
def ringFails (s : State) : Option (BitVec 8 × Word) :=
  let va := s.rg 4
  let f := descField (s.wellRead va.toNat 16)
  let y := s.cst.rings[(Fin.ofNat 4 (f 0 1) : Fin 4)]
  let bad := fun (o : Nat) (b : Bool) => (((0x02 : BitVec 8), va + BitVec.ofNat 64 o), b)
  let checks : List ((BitVec 8 × Word) × Bool) :=
    [((0x0E, va), 0x60000 < va.toNat + 16), ((0x04, va), va.toNat % 16 ≠ 0), ((0x05, va), s.recordsShut va.toNat 16),
     bad 0 (4 ≤ f 0 1), bad 1 (2 ≤ f 1 1), bad 2 (f 1 1 = 1 ∧ f 2 2 ≠ 0), bad 4 (f 1 1 = 1 ∧ f 4 4 % 64 ≠ 0),
     bad 8 (f 1 1 = 1 ∧ (f 8 4 % 64 ≠ 0 ∨ f 8 4 < 512 ∨ 262144 < f 8 4 ∨ 0x60000 < f 4 4 + f 8 4)),
     bad 12 (f 1 1 = 1 ∧ (f 12 4 % 32 ≠ 0 ∨ f 12 4 < 32 ∨ 16384 < f 12 4)),
     bad 1 ((f 1 1 = 1 ∧ y.en = true) ∨ (¬ f 1 1 = 1 ∧ y.en = true ∧ (y.grants ≠ 0 ∨ y.recs ≠ [])))]
  (checks.find? (·.2)).map (·.1)

theorem test_hyp_RingsArePopped :
    let off := { ringOf false false 0 0 0 with recs := [] }
    let desc := fun (base size row : Nat) => [(0, 2), (1, 1), (4, base), (8, size), (12, row)]
    ((ringAt off 0 0x3000 []).Clear [.g 4] [] false ∧ (ringAt off 0 0x3000 []).Clear [.g 4] [.g 9] false ∧ (ringAt off 0 0x3000 []).Clear [] [.g 9] false) ∧
    -- descriptors at the ends of the ranges, and past them; a ring that is on, or that cannot be disabled yet
    (ringFails (ringAt off 0 0x3000 (desc 0x10000 512 32)) = none ∧ ringFails (ringAt off 0 0x3000 (desc 0x20000 262144 16384)) = none ∧
      ringFails (ringAt off 0 0x3000 (desc 0x20040 262144 32)) = some (2, 0x3008) ∧ ringFails (ringAt off 0 0x3000 (desc 0x10000 448 32)) = some (2, 0x3008) ∧
      ringFails (ringAt off 0 0x3000 (desc 0x10020 512 32)) = some (2, 0x3004) ∧ ringFails (ringAt off 0 0x3000 (desc 0x10000 512 16416)) = some (2, 0x300C) ∧
      ringFails (ringAt off 0 0x3000 [(0, 4)]) = some (2, 0x3000) ∧ ringFails (ringAt off 0 0x3000 [(1, 2)]) = some (2, 0x3001) ∧
      ringFails (ringAt off 0 0x5FFF8 []) = some (0xE, 0x5FFF8) ∧ ringFails (ringAt off 0 0x3004 []) = some (4, 0x3004) ∧
      ringFails (ringAt { off with en := true } 0 0x3000 (desc 0x10000 512 32)) = some (2, 0x3001) ∧ ringFails (ringAt { off with en := true } 0 0x3000 [(0, 2)]) = none ∧
      ringFails (ringAt { off with en := true, grants := 1 } 0 0x3000 [(0, 2)]) = some (2, 0x3001)) ∧
    -- selectors of xrpop, an empty and a full mailbox, and a ring whose held message, pads and next message stand apart
    ((4 : Nat) % 16 = 4 ∧ (4 : Nat) < 32 ∧ 4 < (5 : Nat) % 16 ∧ 32 ≤ (32 : Nat) ∧ (ringAt off 0 4 []).cst.mailbox = [] ∧
      (ringAt off 2 4 []).cst.mailbox = ⟨55, 7000⟩ :: [⟨55, 7000⟩] ∧ (19 : Nat) = (3 : Fin 4).val + 16) ∧
    (let r := ringOf true true 640 640 1;
      r.recs = [recOf 0 128 0 true 5] ++ [recOf 128 128 1 true 0, recOf 256 128 2 true 6] ++ [recOf 384 128 0 true 7, recOf 512 256 0 false 8] ∧
      384 = ([recOf 0 128 0 true 5] ++ [recOf 128 128 1 true 0, recOf 256 128 2 true 6]).foldl (fun m p => m + p.len) 0) := by
  simp only [clear_iff]; decide +kernel

/-- Operation 8 is a send of two rows into ring 2's record at 512; its list is at 0x4000. -/
def sendAt (list : Word) (i : Nat) (performed : Bool) : State :=
  { withW (withW (blockAtPeer 1 8 0x4000) 0x4000 32 (fieldsOf [(0, 0x5000), (8, 0x77777777), (16, 0x6000)])) 0x4020 32 (fieldsOf [(0, 0x5040), (8, 0x8888888)]) with
    ops := [opOf 8 (.send 0x3000 list 8 0x8003 2 2 0x10200 256 64 i) performed] }

theorem test_hyp_SendsComplete :
    (let s := sendAt 0x4000 0 false;
      s.findOp 8 = some (opOf 8 (.send 0x3000 0x4000 8 0x8003 2 2 0x10200 256 64 0) false) ∧ s.deafTo 0 (BitVec.ofNat 32 (0x8003 / 8)) = false ∧
      s.nibLost (strokeNib 0x8003) = false ∧ Memory.wf s.mem = true ∧ s.homeGone (opOf 8 (.send 0x3000 0x4000 8 0x8003 2 2 0x10200 256 64 0) false) = false ∧
      (0x4000 : Word) ≠ 0 ∧ (1 : Nat) < 2 ∧
      ([0, 1].map (fun i => match s.sendEntry (opOf 8 (.send 0x3000 0x4000 8 0x8003 2 2 0x10200 256 64 i) false) (0x4000 + BitVec.ofNat 64 (32 * i)) 64 with
        | .ok (ret, serif, off, _) => some (ret, serif, off) | .error _ => none)) = [some (0x77777777, 0x6000, some 0x6000), some (0x8888888, 0, none)]) ∧
    ((sendAt 0x4000 2 true).Resides 0 1 0 ∧ (2 : Nat) ≤ 2) ∧
    (∃ r ∈ ((((sendAt 0 0 false).stroke 4096 3).rings[2]).recs), r.grant = 8 ∧ r.complete = false) := by
  simp only [State.Resides]; decide +kernel

/-- Operation 8 is a message for this target, behind one for another mailbox. -/
def messageAt (target : Word) (n : Nat) : State :=
  { peerAt (ringOf true false 640 640 1) n with ops := [opOf 7 (.msg 4 0x400001000 5) false, opOf 8 (.msg 6 target 0xFEDCBA9876543210) false] }

theorem test_hyp_MessagesAreDelivered :
    (let s := messageAt 0x300001000 15;
      s.ops = [opOf 7 (.msg 4 0x400001000 5) false] ++ opOf 8 (.msg 6 0x300001000 0xFEDCBA9876543210) false :: [] ∧
      State.mailbox 0x400001000 ≠ State.mailbox 0x300001000 ∧ (Fin.ofNat 65536 (0x300001000 : Word).toNat : NibId) = 4096 ∧ getBits 0x300001000 32 6 = 3 ∧
      s.deafTo 4096 (s.nibNumber 0) = false ∧ s.deafTo 0 ((0x300001000 : Word).setWidth 32) = false ∧ s.nibLost 4096 = false ∧
      (s.stroke 4096 3).mailbox.length < 16 ∧ 16 ≤ ((messageAt 0x300001000 16).stroke 4096 3).mailbox.length ∧ s.inPartition 0 (getBits 0x300001000 0 32 * 8) = true ∧
      (s.stroke 4096 3).status ≠ .vacant) ∧
    -- no such target: a reserved bit, stroke 8, a vacant stroke, another partition; and a task of stroke 7's
    ((0x8300001000 : Word).extractLsb' 39 25 ≠ 0 ∧ 8 ≤ getBits 0x800001000 32 6 ∧ ((messageAt 0 0).stroke 4096 2).status = .vacant ∧
      (messageAt 0 0).inPartition 0 (getBits 0x300008000 0 32 * 8) = false ∧ (0x4300001000 : Word).getLsbD 38 = true ∧ getBits 0x4300001000 32 6 = 3) ∧
    (let s := { messageAt 0 0 with ops := [opOf 8 (.msgAns 6 0x300001000 1) true] };
      s.findOp 8 = some (opOf 8 (.msgAns 6 0x300001000 1) true) ∧ s.Resides 0 1 0) := by
  simp only [State.Resides]; decide +kernel

/-- An exchange engine with an expectation of nib 4096 and one of another, and operations for both. -/
def noticeAt : State :=
  { (withW (peerAt (ringOf true false 640 640 1) 0) 0x9000 4 0x05020000).modNib 0 (fun k => { k with expects := [⟨0x9000, 0x1000, 5, 40⟩, ⟨0x9100, 0x2000, 5, 40⟩] }) with
    ops := [opOf 7 (.msg 4 0x300001000 5) false, opOf 8 (.permit 0x3000 (reqOf 3)) false, opOf 9 (.msg 4 0x300002000 5) false,
      opOf 10 (.permitAns 0x3000 (reqOf 3) 1 0 0 0) false, opOf 11 (.msgAns 4 0x300001000 0) false, opOf 12 (.send 0x3000 0 8 0x8003 2 2 0x10200 256 64 0) false,
      { opOf 13 (.msg 4 0x300001000 5) false with nib := 5 }] }

theorem test_hyp_LossNoticesAct :
    (∀ o ∈ noticeAt.ops, ∀ p ∈ noticeAt.ops, o.id = p.id → o = p) ∧
    ((noticeAt.nib 0).expects.filter (fun e => State.noticeNames 0x1001 e.dest) = [⟨0x9000, 0x1000, 5, 40⟩] ∧
      (∀ e ∈ (noticeAt.nib 0).expects, State.noticeNames 0x3001 e.dest = false) ∧ noticeAt.planeOf 0 0x9000 = none ∧ Memory.wf noticeAt.mem = true) ∧
    State.noticeNames 0x1001 (BitVec.ofNat 32 (State.reqTarget (reqOf 3) / 8)) = true ∧ State.noticeNames 0x1001 ((0x300001000 : Word).setWidth 32) = true ∧
    State.noticeNames 0x1001 (BitVec.ofNat 32 (0x8003 / 8)) = true ∧ State.noticeNames 0x3001 (BitVec.ofNat 32 (0x8003 / 8)) = false := by decide +kernel

/-- A BARCFG value of this domain and count. -/
def barOf (domain count : Nat) : BitVec 27 := BitVec.ofNat 27 (count + domain * 2 ^ 24)

/-- Barrier 5 has generation 9 with this many arrivals and two waits. -/
def barInstOf (arrivals turns : Nat) : BarInst :=
  { BarInst.fresh 5 0 9 (some 77) with arrivals := arrivals, waits := [20, 21], sum := .replicate 8 0xFFFFFFFFFFFFFFFF, clk := some 66, launch := 0, turns := turns }

/-- g4 = x, g5 = y; barrier 5 has this configuration, its watchdog ends at 16 turns, and the stroke has arrived in generation g. -/
def barAt (x y : Word) (cfg : BitVec 27) (bars : List BarInst) (g : BitVec 16) (ops : List Op) : State :=
  let s := withG (withG (at_ .s) 4 x) 5 y
  withC { s with ops := ops, parts := s.parts.set 0 { s.parts[0] with bars := bars, barwd := 4, barcfg := s.parts[0].barcfg.set 5 cfg } }
    (fun c => { c with x := { c.x with arrived := 0x20, gen := c.x.gen.set 5 g } })

/-- The waiting operations of barrier 5, and operation 8 behind them. -/
def barOps (k : OpKind) : List Op :=
  [opOf 20 (.barPost none (some (0x3000, 5))) false, opOf 21 (.barPost none none) false, opOf 7 (.barArr 0 6 true none) false |> fun o => { o with cid := 9 }, opOf 8 k false]

theorem test_hyp_BarrierArrivals :
    -- ids at the ends of their ranges, domains and counts at theirs, and records at the well's end
    (let s := barAt 5 0x3000 (barOf 1 1) [] 9 [];
      s.Clear [.g 4] [] false ∧ s.Clear [.g 4] [] true ∧ s.Clear [.g 4, .g 5] [] true ∧ s.sealFull 3 = false ∧ (5 : Word).toNat < 64 ∧ (5 : Fin 64) = BitVec.toFin ((5 : Word).setWidth 6) ∧
      (2 ^ 6 ≤ (64 : Word).toNat ∧ (127 : Word).toNat < 128 ∧ 2 ^ 7 ≤ (128 : Word).toNat) ∧ (69 : Word).getLsbD 6 = true ∧ (5 : Word).getLsbD 6 = false ∧
      (barDomain (barOf 1 1) = 1 ∧ barDomain (barOf 6 3) = 6 ∧ barDomain (barOf 7 3) = 7 ∧ barDomain (barOf 0 3) = 0 ∧ barCount (barOf 1 1) = 1 ∧ barCount (barOf 1 0) = 0) ∧
      (0x5FFC0 : Nat) + 64 ≤ 0x60000 ∧ 0x60000 < (0x60000 : Nat) + 64 ∧ (0x3010 : Nat) % 64 ≠ 0 ∧ s.recordsShut 0x3000 64 = false ∧
      (s.modNib 0 (fun n => { n with ctxEn := true })).recordsShut 0x4C000 64 = true) ∧
    -- an arrival behind those of others, the last of its generation and not
    (let s := barAt 5 0x3000 (barOf 6 2) [barInstOf 1 0] 9 (barOps (.barArr 0 5 true (some (0x3040, 7))));
      s.ops = (barOps (.barArr 0 5 true (some (0x3040, 7)))).take 3 ++ opOf 8 (.barArr 0 5 true (some (0x3040, 7))) false :: [] ∧
      (∀ q ∈ s.ops.take 3, q.id ≠ 8) ∧ ((s.ops.take 3).filter (fun q => q.cid == 1)).map (·.id) = [20, 21] ∧ s.nibLost 0 = false ∧ s.Resides 0 1 0 ∧
      s.barHere 0 5 0 = 0 ∧ (s.barInst 0 5 0).arrivals + 1 = barCount (barOf 6 2) ∧ (s.barInst 0 5 0).arrivals + 1 ≠ barCount (barOf 6 3)) := by
  simp only [clear_iff, State.Resides]; decide +kernel

theorem test_hyp_BarrierEnds :
    -- a wait of the current generation, and one whose arrival was in an earlier one
    (let s := barAt 5 0x3000 (barOf 6 3) [barInstOf 1 0] 9 (barOps (.barWait 0 5));
      s.ops = (barOps (.barWait 0 5)).take 3 ++ opOf 8 (.barWait 0 5) false :: [] ∧ (∀ q ∈ s.ops.take 3, q.id ≠ 8) ∧ s.Resides 0 1 0 ∧
      (s.stroke 0 0).ctx.x.arrived.getLsbD 5 = true ∧ (s.barInst 0 5 (s.barHere 0 5 0)).gen - (s.stroke 0 0).ctx.x.gen[5] = 0 ∧
      (s.barInst 0 5 (s.barHere 0 5 0)).gen - (8 : BitVec 16) ≠ 0) ∧
    -- releases, performed and not, with a record and an abandoned generation
    (let o := opOf 8 (.barPost (some 0x905) (some (0x3000, 77))) false;
      let s := barAt 5 0x3000 (barOf 6 3) [] 9 [o];
      s.findOp 8 = some o ∧ s.Resides 0 1 0 ∧ (∀ p : Fin 16, ∀ b ∈ s.parts[p].bars, 8 ∉ b.waits) ∧ Memory.wf s.mem = true) ∧
    -- the watchdog one turn short of its end, at it, in trap service, and with no arrival
    (let s := barAt 5 0x3000 (barOf 6 3) [barInstOf 1 14] 9 [];
      (s.barInst 0 5 0).arrivals ≠ 0 ∧ 14 + 1 < 2 ^ s.parts[0].barwd.toNat ∧ 2 ^ s.parts[0].barwd.toNat ≤ 15 + 1 ∧
      ¬ ((s.contexts 0).any (fun c => c.task.launch == 0 && c.c.ts) = true) ∧
      ((withCsr s (fun c => { c with tstatus := 0x100 })).contexts 0).any (fun c => c.task.launch == 0 && c.c.ts) = true ∧
      ((barAt 5 0x3000 (barOf 6 3) [] 9 []).barInst 0 5 0).arrivals = 0) := by
  simp only [State.Resides]; decide +kernel

/-! ## Command queues, launches and partitions (R26, R345 to R360) -/

/-- A packet with this operation, flags, tag and fields. -/
def pktOf (op flags tag : Nat) (l : List (Nat × Nat)) : BitVec 512 := BitVec.ofNat 512 (op + flags * 2 ^ 8 + tag * 2 ^ 32 + fieldsOf l)

/-- A queue of 16 slots whose next packet is at slot 3 and whose tail is as given. -/
def queueOf (tail : BitVec 16) (pkts : List Packet) : Queue :=
  { Queue.reset with en := true, base := 0x400000, log2 := 4, pos := 3, tail := tail, head := 2, root := 0x10001, pkts := pkts }

/-- Queue 2 of virtual function 1 is this one, b stands at slot 3 of its ring, and x at the VA 0x300_2001_0000. -/
def queueAt (y : Queue) (b : BitVec 512) (x : Nat) : State :=
  let s := (tables .a).setQueue 1 2 y
  { s with hostMem := Memory.write s.hostMem 0x4000C0 64 b.toNat, mem := Memory.write s.mem 0x70000 8 x, fresh := 50 }

/-- Packet 9, of slot 2. -/
def packetOf (b : BitVec 512) (iters : Nat) (started done : Bool) : Packet := ⟨9, 2, b, false, started, done, 5000, 0, iters, true⟩

/-- Packets of every operation with every field in range. -/
def goodPackets : List (BitVec 512) :=
  [pktOf 1 2 7 [(8, 0x100), (0x10, 0x10000), (0x14, 4), (0x18, 10), (0x20, 0x30020010000)], pktOf 2 3 7 [(8, 0x1000), (0x18, 2 ^ 40), (0x20, 3)],
   pktOf 3 0 7 [(8, 0x1008), (0x20, 3)], pktOf 4 0 1 [(8, 0x1000), (0x18, 1)], pktOf 5 0 1 [(0x20, 3), (0x22, 1)], pktOf 7 0 1 [], pktOf 8 0 1 [],
   pktOf 9 0 1 [], pktOf 0xA 0 7 [], pktOf 0xB 2 7 [(8, 0)]]

/-- Packets with a field past its range, a reserved bit, or flags past theirs. -/
def badPackets : List (BitVec 512) :=
  [pktOf 2 0 7 [(0x18, 2 ^ 40 + 1)], pktOf 2 0 7 [], pktOf 2 0 7 [(0x18, 1), (0x20, 4)], pktOf 3 0 7 [(8, 0x1004)], pktOf 3 0 7 [(0x20, 4)], pktOf 4 0 7 [(0x18, 2)],
   pktOf 5 0 7 [(0x22, 0)], pktOf 3 4 7 [], pktOf 8 0 1 [(8, 5)]]

theorem test_hyp_QueuesAndPackets :
    (let s := queueAt (queueOf 4 []) 0 0;
      (s.queue 1 2).en = true ∧ (s.queue 2 0).en = false ∧ s.partOfVf 2 = none ∧ (s.partOfVf 1).isSome = true ∧ (1 : Fin 17) ≠ 0 ∧
      (3 : Word).getLsbD 0 = true ∧ (2 : Word).getLsbD 0 = false ∧ ¬ s.Drained 1 2 ∧ (queueAt (queueOf 3 []) 0 0).Drained 1 2 ∧
      (s.queue 1 2).pos = (19 : Word).toNat % State.slots (s.queue 1 2) ∧ ({ queueOf 3 [] with err := true }).err = true) ∧
    -- packets taken: codes 1, 2, 3 and none, one that waits, and one that need not
    goodPackets.all (fun b => pktBad b 4096 false == none) = true ∧ badPackets.all (fun b => pktBad b 4096 false == some 2) = true ∧
    (pktBad (pktOf 0xC 0 7 []) 4096 false = some 1 ∧ pktBad (pktOf 0x20 0 7 []) 4096 false = some 3 ∧ pktBad (pktOf 0x20 0 7 [(8, 6), (0xA, 16)]) 4096 true = none ∧ pktBad (pktOf 0x20 0 7 [(8, 6), (0xA, 17)]) 4096 true = some 2 ∧
      pktNamed 0xC = none ∧ (pktNamed 0x20).isSome = true) ∧
    (let b := pktOf 3 2 7 [(8, 0x1008)];
      let y := queueOf 4 [packetOf b 0 true true];
      let s := queueAt y b 0;
      s.queue 1 2 = y ∧ y.en = true ∧ y.err = false ∧ y.skip = 0 ∧ y.pos ≠ (4 : Word).toNat % State.slots y ∧ (∀ p ∈ y.pkts, p.started = true) ∧
      s.vfs[1].replay = none ∧ s.vfHeld 1 = false ∧ s.slotPacket y y.pos = (b, false) ∧ (pktWaits b = true ∨ pktWaits (pktOf 3 1 7 []) = true) ∧
      (∃ p ∈ [packetOf b 0 true false], p.done = false) ∧ (∀ p ∈ y.pkts, p.done = true) ∧
      s.loopBad y 3 16 = true ∧ s.loopBad y 3 15 = false ∧ s.loopBad { y with inlineSlots := [1] } 3 2 = true) := by
  unfold State.Drained; decide +kernel

/-- `State.Runs` as a test. -/
theorem runs_iff (s : State) (v : Fin 17) (p : Packet) : s.Runs v p ↔
    ((p.started = true ∨ s.vfHeld v = false) ∧ (p.paid = true ∨ ∀ r f, s.partHas r f = true → s.route r f = []) ∧ s.vfs[v].replay = none) :=
  ⟨fun h => ⟨h.1, h.2, h.3⟩, fun h => ⟨h.1, h.2.1, h.2.2⟩⟩

/-- `State.RunsAlone` as a test. -/
theorem runsAlone_iff (s : State) (v : Fin 17) (p : Packet) : s.RunsAlone v p ↔ ((p.started = true ∨ s.vfHeld v = false) ∧
    (p.paid = true ∨ (pktDoneAt p.bits).all (fun o => pktField p.bits o 8 == 0) = true) ∧ s.vfs[v].replay = none) :=
  ⟨fun h => ⟨h.1, h.2, h.3⟩, fun h => ⟨h.1, h.2.1, h.2.2⟩⟩

/-- Packet 9 is about to run in queue 2 of virtual function 1, with x at its word. -/
def runAt (b : BitVec 512) (iters x : Nat) : State := queueAt (queueOf 3 [packetOf b iters false false]) 0 x

/-- Its accesses as its packet makes them. -/
def startedAt (b : BitVec 512) (iters x : Nat) : State := (runAt b iters x).startPacket 1 2 (packetOf b iters false false)

/-- A condition on the word at 0x300_2001_0000: (value AND 0xFF) against 77, by this comparison. -/
def condOf (op cmp : Nat) (l : List (Nat × Nat)) : BitVec 512 := pktOf op 0 7 ([(8, 0x30020010000), (0x10, 77), (0x18, 0xFF), (0x20, cmp)] ++ l)

theorem test_hyp_PacketsRun :
    (let b := condOf 3 2 [];
      (runAt b 0 0x14D).findPacket 9 = some (1, 2, packetOf b 0 false false) ∧ (runAt b 0 0x14D).Runs 1 (packetOf b 0 false false)) ∧
    -- the word: there, not there, and on each side of each comparison
    (((startedAt (condOf 3 0 []) 0 0x14D).pktLoad 1 2 0x30020010000 8).map (·.1) = some 0x14D ∧
      ((startedAt (condOf 3 0 []) 0 0x14D).pktLoad 1 2 0x30050000000 8).map (·.1) = none ∧
      0x14D &&& 0xFF = 77 ∧ 0x14E &&& 0xFF ≠ 77 ∧ 77 ≤ 0x14D &&& 0xFF ∧ 0x14C &&& 0xFF < 77) ∧
    -- LOOP: its first time, its last, and without end
    (((startedAt (condOf 6 0 [(0x22, 2), (0x24, 5)]) 0 0x14D).queue 1 2).loop = none ∧ pktField (condOf 6 0 [(0x22, 2), (0x24, 5)]) 0x24 4 = 5 ∧
      (0 : Nat) < 5 ∧ (5 : Nat) ≤ 5 ∧ pktField (condOf 6 0 [(0x22, 2)]) 0x24 4 = 0) ∧
    -- SIGNALMEM, written and added, to a place that is there, is read-only, and is not there
    (((startedAt (pktOf 4 0 7 [(8, 0x30020010000)]) 0 5).pktStore 1 2 0x30020020000 8 77).isSome = true ∧
      ((startedAt (pktOf 4 0 7 [(8, 0x30020010000)]) 0 5).pktStore 1 2 0x30050000000 8 77).isSome = false ∧ pktField (pktOf 4 0 7 [(0x18, 1)]) 0x18 1 ≠ 0) ∧
    -- COPY: memory to memory and host to host, more to go and the last piece
    ((0 : Nat).testBit 0 = false ∧ (3 : Nat).testBit 0 = true ∧ (3 : Nat).testBit 1 = true ∧ 0 + min 150 (min (64 - 0) (64 - 0x30)) < 150 ∧ 150 ≤ 144 + min 6 (min (64 - 0x10) (64 - 0))) := by
  simp only [runs_iff]; decide +kernel

/-- `runAt` with a capture of 0x800000 in this many bytes. -/
def captureAt (b : BitVec 512) (size : Word) : State :=
  (runAt b 0 0x14D).modQueue 1 2 (fun y => { y with capture := some ⟨0x800000, size, 64, [(0x30020010000, 16)]⟩ })

theorem test_hyp_PacketsAndCaptures :
    (let b := pktOf 7 0 7 [(8, 0x800000), (0x10, 0x10000), (0x18, 0x30020010000), (0x20, 1)];
      (runAt b 0 0x14D).Runs 1 (packetOf b 0 false false) ∧ ((startedAt b 0 0x14D).pktLoad 1 2 0x30020010000 16).isSome = true ∧ pktField b 0x20 1 ≠ 0 ∧
      ((runAt b 0 0x14D).queue 1 2).capture = none ∧ (((captureAt b 0x1000).queue 1 2).capture).isSome = true) ∧
    (let b := pktOf 0x23 0 7 [(8, 1), (9, 2), (0x10, 0x30020010000), (0x18, 40)];
      ((captureAt b 0x1000).partOfVf 1).isSome = true ∧ (Fin.ofNat 17 (pktField b 8 1) : Fin 17) = 1 ∧
      ((((captureAt b 0x1000).startPacket 1 2 (packetOf b 0 false false)).agentWait 1 2 5000).pktLoad 1 2 0x30020010000 40).isSome = true) ∧
    -- an item that fills its area to the last byte, and one that does not fit
    (Memory.wf (captureAt 0 0x1000).hostMem = true ∧ (255 : Nat) < 256 ∧ 64 + (64 + (65 + 63) / 64 * 64) ≤ (0x100 : Word).toNat ∧
      (0xFF : Word).toNat < 64 + (64 + (65 + 63) / 64 * 64)) ∧
    -- a stroke of the queue, and one of another
    (∃ b, (0, b) ∈ (at_ .s).nibs) ∧ ((withC (at_ .s) (fun c => { c with owner := some (1, 2) })).stroke 0 0).ctx.owner = some (1, 2) ∧
    ((at_ .s).stroke 0 0).ctx.owner ≠ some (1, 2) := by
  simp only [runs_iff]
  exact ⟨by decide +kernel, by decide +kernel, by decide +kernel, ⟨_, .head _⟩, by decide +kernel, by decide +kernel⟩

theorem test_hyp_LaunchesRun :
    (let b := pktOf 1 0 7 [(8, 0x100), (0x10, 0x10000), (0x14, 4), (0x18, 10), (0x20, 0x30020010000)];
      let s := runAt b 0 0x0706050403020100;
      s.Runs 1 (packetOf b 0 false false) ∧ s.partOfVf 1 = some 0 ∧ s.partOfVf 2 = none ∧
      (((startedAt b 0 0x0706050403020100).pktLoad 1 2 0x30020010000 128).map (fun x => levelsOk x.1)) = some true ∧
      levelsOk 0x0706050403020001 = false ∧ ((startedAt b 0 0).pktLoad 1 2 0x30050000000 128).map (·.1) = none ∧
      (∀ g, s.partHas 0 g = true → s.folios[g].lost = false) ∧ pktField b 0x18 8 ≠ 0 ∧ (∀ g, s.partHas 0 g = true → s.route 0 g = []) ∧
      min (s.nibCount 0) ((10 + 4 - 1) / 4) = 3 ∧ (launchAt.nibOfOrdinal 2).isSome = true) ∧
    -- a launch with a task left, and one whose last task has ended, of a packet that is there
    ((captureAt (pktOf 1 0 7 []) 0x1000).NoBorders ∧ ({ at_ .s with launches := [launchAt] }).findLaunch 7 = some launchAt ∧ launchAt.left ≠ 0 ∧ ({ launchAt with left := 0 }).left = 0 ∧
      ((captureAt (pktOf 1 0 7 []) 0x1000).findPacket 9).isSome = true ∧ (captureAt (pktOf 1 0 7 []) 0x1000).vfs[1].replay = none) := by
  simp only [runs_iff, State.NoBorders]; decide +kernel

/-- `runAt` from the physical function, with partition 0 of folio 0 held h times, and partition 2 on folio 5. -/
def partsAt (b : BitVec 512) (iters h : Nat) : State :=
  let s := (tables .a).setQueue 0 0 (queueOf 3 [packetOf b iters true false])
  { s with parts := (s.parts.set 0 { s.parts[0] with held := h, burst := 1000, rate := 100, tokens := .replicate 16 950 }).set 2 { Part.reset with vf := 3, folios := 0x20 } }

/-- PART-CREATE of these folios for a virtual function. -/
def createOf (folios vf : Nat) : BitVec 512 := pktOf 0x20 0 7 [(8, folios), (0xA, vf), (0x10, 100), (0x18, 1000)]

theorem test_hyp_PartitionsAreMade :
    ((partsAt 0 0 1).vfHeld 1 = true ∧ (packetOf 0 0 false false).started = false) ∧
    ((partsAt (createOf 6 2) 0 0).findPacket 9 = some (0, 0, packetOf (createOf 6 2) 0 true false) ∧ (partsAt (createOf 6 2) 0 0).RunsAlone 0 (packetOf (createOf 6 2) 0 true false)) ∧
    -- folios free and connected; taken; free and not connected; a virtual function that has a partition
    (let s := partsAt 0 0 0;
      let taken := fun (folios : BitVec 16) => (List.finRange 16).any (fun g => folios.getLsbD g.val && ((s.partOfFolio g).isSome || s.folios[g].unavailable));
      taken 6 = false ∧ connected 6 = true ∧ taken 0x21 = true ∧ connected 0xA = false ∧ s.partOfVf 2 = none ∧ s.partOfVf 1 = some 0 ∧ s.partOfVf 3 = some 2) ∧
    -- the steps of a destruction and of a move of folio 1, with work left and without
    ((partsAt 0 1 1).partBusy 0 = false ∧ ({ partsAt 0 1 1 with launches := [launchAt] }).partBusy 0 = true ∧ Memory.wf (partsAt 0 2 1).mem = true ∧
      (partsAt 0 0 0).resizeRefused 9 1 3 = true ∧
      ({ partsAt 0 0 0 with parts := ((partsAt 0 0 0).parts.set 0 { (partsAt 0 0 0).parts[0] with folios := 3 }) }).resizeRefused 1 1 3 = false) := by
  simp only [runsAlone_iff]; decide +kernel

theorem test_hyp_PartitionPackets :
    ((partsAt (pktOf 9 0 7 []) 0 0).Runs 0 (packetOf (pktOf 9 0 7 []) 0 true false) ∧ (partsAt 0 0 0).partOfVf 1 = some 0 ∧
      (partsAt 0 0 0).partHas 0 0 = true) ∧
    ((partsAt 0 0 0).refused 0 true false 0x70000 = false ∧ (partsAt 0 0 0).refused 0 true false 0xC00000000 = true ∧
      (partsAt 0 0 0).partOfVf (Fin.ofNat 17 5) = none) := by
  simp only [runs_iff]; decide +kernel

/-- Partition 0 holds folios 0 and 5, and partition 2's folio 4 lies between folio 5 and the west column; a page of folio 5 is at
0x300_2001_0000. -/
def borderAt (border : List Crossing) (tokens : Nat) (b : BitVec 512) : State :=
  let s := (tables .a).setQueue 1 2 (queueOf 3 [{ packetOf b 0 false false with paid := false }])
  { s with
    mem := Memory.write s.mem 0x30008 8 0x3C00000003
    parts := (s.parts.set 0 { s.parts[0] with
      folios := 0x21, rate := 100, burst := 1000, tokens := .replicate 16 tokens, border := border }).set 2 { Part.reset with
      vf := 3, folios := 0x10 } }

/-- Traffic on the data channel that owes n bytes to the router of folio 4. -/
def crossingOf (n : Nat) : Crossing := ⟨2, [(4, n)], [(700, .fence 9)], false⟩

theorem test_hyp_BordersAreCharged :
    let s := fun (l : List Crossing) (n : Nat) => borderAt l n (condOf 3 2 [])
    (s [] 0).route 0 5 = [4] ∧ (s [] 0).route 2 4 = [] ∧ (s [] 0).owing 0 5 false 64 = [(4, 64)] ∧
    -- as many bytes as tokens, one more, and traffic of the channel and of another that waits already
    64 ≤ (s [] 64).parts[0].tokens[4] ∧ (s [] 63).parts[0].tokens[4] < 64 ∧
    (∃ c ∈ (s [crossingOf 1] 0).parts[0].border, c.chan = 2 ∧ c.owes.head?.map Prod.fst = some 4) ∧
    (¬ ∃ c ∈ (s [crossingOf 1] 0).parts[0].border, c.chan = 3 ∧ c.owes.head?.map Prod.fst = some 4) ∧
    -- a refill that lets one of two crossings go, one that lets none, and one up to BURST
    ((crossingOf 100).owes.map Prod.fst).Nodup ∧ (∀ y ∈ (crossingOf 100).owes, y.2 ≤ min 1000 (0 + 100)) ∧
    (s [crossingOf 101] 0).parts[0].border.head? = some (crossingOf 101) ∧ min 1000 (0 + 100) < 101 ∧ min 1000 (950 + 100) = 1000 ∧
    (s [] 0).parts[0].vf ≠ 0 ∧ (s [] 0).parts[7].vf = 0 ∧
    -- a packet that waits for tokens, or behind other traffic
    ((s [] 7).findPacket 9).isSome = true ∧ (s [] 7).vfHeld 1 = false ∧ (s [] 7).vfs[1].replay = none ∧
    (s [] 7).queuePart 1 ((s [] 7).queue 1 2).root = some 0 ∧
    ((s [] 7).hostPieces 0 ((s [] 7).queue 1 2).root false (State.cellPieces 0x30020010000 0 8 2) []).map (·.map (fun r =>
      ((unitOf r.pa).folio, r.size))) = some [(some 5, 8)] := by decide +kernel

/-! ## The guest, the module and the host (R361 to R375, R384) -/

/-- A guest packet at 0x3000, named by g4, with these bytes; the link is up for virtual function 1. -/
def guestAt (bytes : List (Nat × Nat)) (f : Bonnet → Bonnet) : State :=
  let s := withG (withW (tables .s) 0x3000 64 (fieldsOf ([(1, 1)] ++ bytes))) 4 0x3000
  { s with bonnet := f { s.bonnet with en := true, up := true, present := true, vfMask := 1, rate := 32, mods := 1, lc := 100, seen := (90, 288) } }

/-- A kernel's packet: `guestAt` in mode K. -/
def guestKern (bytes : List (Nat × Nat)) : State := inMode (guestAt bytes id) .k

/-- The packet as the instruction reads it. -/
def guestBits (s : State) : BitVec 512 := BitVec.ofNat 512 (s.wellRead 0x3000 64)

theorem test_hyp_GuestPacketsAreSent :
    (let s := guestAt [(0, 0x7F), (2, 3)] id;
      s.Clear [.g 4] [] true ∧ s.recordsShut 0x3000 64 = false ∧ (s.modNib 0 (fun n => { n with ctxEn := true })).recordsShut 0x4C000 64 = true ∧
      guestBad (guestBits s) true = none ∧ s.turn.mode = .t ∧ s.sealFull 3 = false ∧ s.cnib.guestOut < 16 ∧ s.portHolds < 1024 ∧ s.parts[s.partOf 0].vf ≤ 16 ∧
      (s.bonnet.vfMask.getLsbD 0 = true ∧ s.parts[s.partOf 0].vf = 1) ∧ 16 ≤ (s.modNib 0 (fun n => { n with guestOut := 16 })).cnib.guestOut ∧
      (guestAt [] (fun b => { b with fenced := true })).bonnet.fenced = true ∧ (guestAt [] (fun b => { b with up := false })).bonnet.up = false) ∧
    -- fields at the ends of their ranges: task and kernel packets
    (guestBad (guestBits (guestAt [(0, 0x80)] id)) true = some 0 ∧ guestBad (guestBits (guestAt [(0, 0x81)] id)) false = none ∧
      guestBad (guestBits (guestAt [(0, 0x82)] id)) false = some 0 ∧ guestBad (guestBits (guestAt [(1, 1)] id)) true = some 1 ∧
      guestBad (guestBits (guestAt [(2, 4)] id)) true = some 2 ∧ guestBad (guestBits (guestAt [(3, 1)] id)) true = some 3 ∧
      guestBad (guestBits (guestAt [(0, 0x80), (0x21, 1), (0x3F, 1)] id)) false = some 0x21 ∧ guestBad (guestBits (guestAt [(0, 0x7F), (0x21, 1)] id)) false = none ∧
      (guestKern [(0, 0x80)]).turn.mode = .k) := by
  simp only [clear_iff]; decide +kernel

/-- Operation 8 is a guest packet of virtual function 1. -/
def guestOp (f : Bonnet → Bonnet) (way : GuestWay := .sent) (root : Word := 0) : State :=
  { guestAt [] f with ops := [opOf 8 (.guest 0x3000 0x100 1 root way) false] }

/-- The guest holds the translation of 0x300_2001_0000. -/
def guestHolds : State := guestOp (fun b => { b with tlb := [⟨1, State.tlbOf 0 0x30020010000 false 7 0 true⟩] })

/-- `State.TrueClock` as a test. -/
theorem trueClock_iff (s : State) (clk : Clk) : s.TrueClock clk ↔ (Clk.le s.bonnet.lc clk = true ∧
    Clk.le (s.bonnet.seen.1 + BitVec.ofNat 48 ((s.cycle - s.bonnet.seen.2) / 512)) clk = true) :=
  ⟨fun h => ⟨h.1, h.2⟩, fun h => ⟨h.1, h.2⟩⟩

theorem test_hyp_GuestPackets :
    -- completions
    (let s := guestOp id;
      s.findOp 8 = some (opOf 8 (.guest 0x3000 0x100 1 0 .sent) false) ∧ (guestOp id .coming).isThrough (.portRefusal 8) = false ∧
      (guestOp id .refused).findOp 8 = some (opOf 8 (.guest 0x3000 0x100 1 0 .refused) false) ∧ (∀ p, s.partOfVf (Fin.ofNat 17 1) = some p → s.route p (State.folioOf 0) = []) ∧
      (guestOp (fun b => { b with fenced := true }) .coming).bonnet.fenced = true ∧ (guestOp (fun b => { b with vfMask := 2 }) .coming).bonnet.vfMask.getLsbD 0 = false ∧ Memory.wf s.mem = true ∧ s.bonnet.up = true ∧ s.bonnet.fenced = false ∧
      (s.partOfVf (Fin.ofNat 17 1)).isSome = true ∧ s.Resides 0 1 0) ∧
    -- clocks: the returned time, one below it, and one that has not risen by 1 in 512 cycles
    ((guestOp id).TrueClock 100 ∧ ¬ (guestOp id).TrueClock 99 ∧ ¬ (guestOp (fun b => { b with lc := 0 })).TrueClock 90 ∧ (guestOp (fun b => { b with lc := 0 })).TrueClock 91) ∧
    -- addresses that it holds, for reading alone, and not; misaligned; paused; outside the partition
    ((guestHolds.guestPA 1 0 0 0x30020010008 true = .ok 0x70008 true ∧ guestHolds.goneHome 0x70008 = false ∧ guestHolds.guestPA 1 0 0 0x30020020000 false = .none ∧
      (guestOp (fun b => { b with tlb := [⟨1, State.tlbOf 0 0x30020010000 false 7 0 false⟩] })).guestPA 1 0 0 0x30020010008 true = .error ∧
      (guestOp (fun b => { b with tlb := [⟨1, State.tlbOf 0 0x30020010000 false 0xC0000 0 true⟩] })).guestPA 1 0 0 0x30020010008 false = .error) ∧
      (0x1008 : BitVec 64).toNat % 8 = 0 ∧ (0x1004 : BitVec 64).toNat % 8 ≠ 0 ∧ (guestOp id).guestPaused 1 = false ∧
      (guestOp (fun b => { b with preempted := 1 })).guestPaused 1 = true ∧ (9 : Fin 16).val ≤ 9 ∧ 9 < (10 : Fin 16).val) := by
  simp only [State.Resides, trueClock_iff]; decide +kernel

theorem test_hyp_GuestLinkAndDuties :
    -- training
    (let b := (guestAt [] (fun b => { b with up := false })).bonnet;
      b.fenced = false ∧ b.en = true ∧ b.present = true ∧ (4 : BitVec 8) ∈ ([32, 24, 16, 12, 8, 4] : List (BitVec 8)) ∧
      (5 : BitVec 8) ∉ ([32, 24, 16, 12, 8, 4] : List (BitVec 8)) ∧ (15 : BitVec 4) ≠ 0) ∧
    (({ guestAt [] id with modu := { (guestAt [] id).modu with guestOk := true } }).modu.guestOk = true ∧ (1 : Word).getLsbD 0 = true ∧ (2 : Word).getLsbD 0 = false ∧
      (guestOp id).ops.any (·.isGuest) = true) ∧
    -- duties
    (canonical 0x30020010000 = true ∧ canonical 0x8000000000000000 = false ∧
      (let s := guestOp id;
        let walked := fun va => s.walk 0 0 va false;
        walked 7 = .precise) ∧
      (let s := guestOp id .sent 0x10001;
        let walked := fun va => s.walk 0 0x10001 va false;
        s.findOp 8 = some (opOf 8 (.guest 0x3000 0x100 1 0x10001 .sent) false) ∧
        walked 0x30020010008 = .ok 0x70008 false 7 0 false ∧ walked 0x30050000000 = .replay)) ∧
    -- acknowledgements: asked for, not asked for, and with packets of the function still out
    (let s := guestAt [] (fun b => { b with deadlines := [⟨2, 1, 0, 900⟩] });
      (∃ d ∈ s.bonnet.deadlines, d.cause = 2 ∧ d.what = 1) ∧ ¬ (∃ d ∈ (guestAt [] id).bonnet.deadlines, d.cause = 2 ∧ d.what = 1) ∧
      (∀ o ∈ s.ops, o.isGuest = false) ∧ pktField (0x100 : BitVec 512) 0 1 < 0x80) ∧
    -- deadlines: one cycle before, and at the end
    (let s := guestAt [] (fun b => { b with deadlines := [⟨3, 8, 0, 801⟩] });
      (∀ d ∈ s.bonnet.deadlines, d.cause = (3 : Fin 8).val → s.cycle < d.expiry) ∧
      ∃ d ∈ s.bonnet.deadlines, d.cause = (3 : Fin 8).val ∧ d.expiry ≤ ({ s with cycle := 801 }).cycle) ∧
    ((guestOp id).folios[State.folioOf 0].coal.length < 64 ∧ (guestOp id).route ((guestOp id).partOf 0) (State.folioOf 0) = []) := by decide +kernel

theorem test_hyp_ModuleEvents :
    (({ at_ .s with modu := { (at_ .s).modu with recov := true } }).modu.recov = true ∧ (at_ .s).modu.recov = false) ∧
    (({ at_ .s with modu := { (at_ .s).modu with ready := true } }).modu.ready = true ∧ ({ at_ .s with modu := { (at_ .s).modu with ready := false } }).modu.ready = false) ∧
    ((at_ .s).folios[0].lost = false ∧ (∃ b, ((0 : NibId), b) ∈ (at_ .s).nibs) ∧ State.folioOf 0 ≠ 1 ∧ (7 : BitVec 16) ≠ (at_ .s).modu.modn ∧ (7 : BitVec 16) ∉ (at_ .s).modu.gone) :=
  ⟨by decide +kernel, by decide +kernel, by decide +kernel, ⟨_, .head _⟩, by decide +kernel, by decide +kernel, by decide +kernel⟩

/-- A capture at 0x900000 of virtual function 1, whose first item is a NOP. -/
def replayAt : State :=
  { hostAt with hostMem := Memory.write (Memory.write (Memory.write (Memory.write [] 0x900008 8 192) 0x900040 8 1) 0x900048 8 64) 0x900080 64 (pktOf 0xA 0 7 []).toNat }

theorem test_hyp_HostRegisters :
    -- replays
    ((0x900001 : Word).getLsbD 0 = true ∧ (replayAt.partOfVf 1).isSome = true ∧ replayAt.partOfVf 2 = none ∧ (0x900001 &&& ~~~ 1 : Word).toNat = 0x900000 ∧
      128 ≤ Memory.read replayAt.hostMem 0x900008 8 ∧ Memory.read replayAt.hostMem 0x900040 1 = 1) ∧
    -- host signals
    (replayAt.partHas 0 (State.folioOf 0) = true ∧ (0x8000000000000000 : Word).getLsbD 63 = true ∧ replayAt.nibNumber 0 = (0 : Word).setWidth 32) ∧
    -- offsets at the ends of the blocks, aligned and not
    ((0x20000 : BitVec 28).toNat = 0x20000 + 0x40 * (0 : Fin 64).val ∧ (0x20FFF : BitVec 28).toNat < 0x20040 + 0x40 * (63 : Fin 64).val ∧
      (0x1FFF8 : BitVec 28).toNat < 0x20000 ∧ 0x21000 ≤ (0x21000 : BitVec 28).toNat ∧ (0x801 : BitVec 28).toNat % 2 ^ (1 : Fin 4).val ≠ 0 ∧
      (0x8000000 : BitVec 28).toNat % 2 ^ (3 : Fin 4).val = 0 ∧ (0x7FFFFF8 : BitVec 28).toNat < 0x8000000 ∧
      (0x10FC0 + 0x28 : Nat) = 0x10000 + 0x40 * (63 : Fin 64).val + 0x28) ∧
    -- values at the ends of their ranges
    ((1 : Nat) ≤ 0x1000 % 2 ^ 13 ∧ 0x1000 % 2 ^ 13 ≤ 4096 ∧ 4096 < 0x1001 % 2 ^ 13 ∧ (4 : Nat) ≤ 0x24 % 32 ∧ (0x10 : Nat) % 32 ≤ 16 ∧ 16 < (0x11 : Nat) % 32 ∧
      (16 : Nat) ≤ 0x28 % 2 ^ 6 ∧ (0x28 : Nat) % 2 ^ 6 ≤ 40 ∧ 40 < (0x29 : Nat) % 2 ^ 6 ∧ (0x1001 : Nat) / 2 ^ 8 % 2 ^ 5 = 16 ∧ 16 < (0x1101 : Nat) / 2 ^ 8 % 2 ^ 5) := by decide +kernel

/-- Nothing that waited at a border has been paid for where no partition says so. -/
theorem unpaid {s : State} (h : (s.parts.toList.all (fun x => x.through.isEmpty)) = true) (e : Instr) : s.isThrough e = false := by
  simp only [State.isThrough, List.any_eq_false, List.all_eq_true, List.isEmpty_iff] at h ⊢
  intro x hx
  simp [h x hx]

/-- States of the host's, the guest's and a packet's statements in which nothing waits at a border. -/
theorem test_hyp_NothingWaitsAtBorders :
    (∀ e, (guestOp id .coming).isThrough e = false) ∧ (∀ e, hostAt.isThrough e = false) ∧
    (guestOp id).NoBorders ∧ hostAt.NoBorders ∧ guestHolds.NoBorders :=
  ⟨unpaid (by decide +kernel), unpaid (by decide +kernel), by unfold State.NoBorders; decide +kernel,
    by unfold State.NoBorders; decide +kernel, by unfold State.NoBorders; decide +kernel⟩

/-! ## Worked examples of the spec -/

/-- The results that issuing i in s sends on their way, and the events that it counts. -/
def lands (i : Instr) (s : State) : List RegWrite × List Ev :=
  match exec i s with
  | .next t => (t.ctx.inflight.filterMap (fun l => match l.eff with | .reg w => some w | _ => none),
      t.ctx.inflight.filterMap (fun l => match l.eff with | .fpev e => some e | _ => none))
  | _ => ([], [])

/-- 01_machine.md, after R18: the example's nib number, stroke number, and global row and column. -/
theorem test_example_numbers :
    (let s := { at_ .s with modu := { (at_ .s).modu with modn := 3 } };
      s.nibNumber 0x994C = 0x0003994C ∧ s.strokeNumber 0x994C 5 = 0x1CCA65 ∧ State.globalRow 0x994C = 165 ∧ State.globalCol 0x994C = 76) := by decide +kernel

/-- 03_arithmetic.md, R77: the BFP4 example's planes give 0.75, -0.25, -2.0 and 1.75. -/
theorem test_example_bfp4 :
    (List.range 5).map (fun i => bfpValue 4 0x80 (bfpMant 4 (0x0000000B + 0x0000000B * 2 ^ 32 + 0x0000000A * 2 ^ 64 + 0x00000006 * 2 ^ 96) i)) =
      [.fin false 3 (-2), .fin true 1 (-2), .fin true 8 (-2), .fin false 7 (-2), .fin false 0 (-2)] := by decide +kernel

/-- 03_arithmetic.md, R81: the BF16 group leaves 0x3F7F_FFFE. -/
theorem test_example_fp_group :
    (fpGroup 0 ([0x3F80, 0xB980, 0x3980].map fmt16.value ++ List.replicate 13 (.fin false 0 0))
      ([0x3F80, 0x3980, 0x3980].map fmt16.value ++ List.replicate 13 (.fin false 0 0))).1 = 0x3F7FFFFE := by decide +kernel

/-- 04_scalar.md, R107: `bfi`, `bfx` and `bfxs`. -/
theorem test_example_bit_fields :
    let s := withG (withG (at_ .s) 5 0xFFFFFFFFFFFFFFFF) 6 3
    lands (.bfi 5 6 3 8) s = ([.g 5 0xFFFFFFFFFFFFF3FF], []) ∧ lands (.bfx 8 5 3 8) (withG s 5 0xFFFFFFFFFFFFF3FF) = ([.g 8 3], []) ∧
    lands (.bfxs 9 5 3 12) (withG s 5 0xFFFFFFFFFFFFF3FF) = ([.g 9 0xFFFFFFFFFFFFFFFF], []) := by decide +kernel

/-- The pattern of R111's example: byte i takes bit 8i, the rest is cleared. -/
def examplePattern : BitVec 512 :=
  BitVec.ofNat 512 ((List.range 64).foldl (fun a i => a + (if i < 8 then 8 * i else 0x80) * 2 ^ (8 * i)) 0)

/-- 04_scalar.md, R111: the mask gather gives 0x96. -/
theorem test_example_bnet :
    lands (.bnet 6 5 2) (withR (withG (at_ .s) 5 0x0100000100010100) (fun r => { r with patterns := r.patterns.set 2 examplePattern })) = ([.g 6 0x96], []) := by decide +kernel

/-- 04_scalar.md, R115: the table of conversions. -/
theorem test_example_conversions :
    lands (.fcvtIF 8 5) (withG (at_ .s) 5 0xC2F70000) = ([.g 8 0xFFFFFFFFFFFFFF85], [evINEXACT]) ∧
    lands (.fcvtIF 8 5) (withG (at_ .s) 5 0x5F000000) = ([.g 8 0x7FFFFFFFFFFFFFFF], [evSAT]) ∧
    lands (.fcvtIF 8 5) (withG (at_ .s) 5 0x7FC00000) = ([.g 8 0], [evINVALID]) ∧
    lands (.fcvtFI 8 5) (withG (at_ .s) 5 16777217) = ([.g 8 0x4B800000], [evINEXACT]) ∧
    lands (.fmin 8 5 6) (withG (withG (at_ .s) 5 0x80000000) 6 0) = ([.g 8 0x80000000], []) := by decide +kernel

/-- The page table of R169's example. -/
def exampleTables : State :=
  { at_ .a with mem := [(0x01001D28, 0x01020001), (0x01026008, 0x01050001), (0x010511A0, 0x32A170007)].foldl (fun m x => Memory.write m x.1 8 x.2) (at_ .a).mem }

/-- 06_memory.md, R169: the walk of VA 0x0003_A5C0_1234_5678 ends at PA 0x3_2A17_5678. -/
theorem test_example_walk :
    exampleTables.walk 0 0x0007000001000001 0x0003A5C012345678 false = .ok 0x32A175678 false 0x32A17 0 true ∧
    ({ exampleTables with mem := Memory.write exampleTables.mem 0x01026008 8 0x400000007 }).walk 0 0x0007000001000001 0x0003A5C012345678 false =
      .ok 0x402345678 true 0x40000 0 true := by decide +kernel

/-- 09_matrix.md, R225: the granule of 7 bytes. -/
theorem test_example_granule :
    decodeGranules 0x403F8080000003 7 1 = some (0x80 + 0x3F * 2 ^ 8 + 0x40 * 2 ^ 248) := by decide +kernel

/-- 10_routing.md, R251: `vtopk.f32` over segments of 4 with k = 2 and R253: `vbinpos` of six keys, and again. -/
theorem test_example_ranking :
    (match lands (.vtopk 6 2 0 1 0 9) (withR (withV (at_ .x) 2 0x800000003F4000003F4000003F000000) (fun r => { r with p := r.p.set 0 (BitVec.allOnes 128) })) with
      | ([.v _ r], []) => r.extractLsb' 0 128 == 0xFFFFFFFFFFFFFFFF0000000200000001#128
      | _ => false) = true ∧
    (match lands (.vbinpos 5 4 1 2) (withR (withV (at_ .x) 4 0x000000000000000200000001000000020000000000000002) (fun r => { r with p := r.p.set 1 0x111111 })) with
      | ([.v _ r], []) => r.extractLsb' 0 192 == 0x000000010000000200000000000000010000000000000000#192
      | _ => false) = true := by decide +kernel

/-- The selection of the example after R260, under a policy. -/
def exampleSelection (policy : Nat) : SelIn :=
  ⟨3, 4, 1, 16, 0x3E8000003E0000003F4000003F4000003F0000003E8000003F1000003F2000003EC000003E0000003F0000003F400000, true, 0x0001000100010001, false, 0, 0, policy⟩

/-- 10_routing.md, R260: the records and the fill table under NEXT, and the records under DROP. -/
theorem test_example_selection :
    (exampleSelection 1).selr 0 = (0x3E800000000000033F100000000000013F40000000000000, 1 + 2 ^ 64 + 2 ^ 192) ∧
    (exampleSelection 0).selr 0 = (0xFFFF00FF00000000FFFF00FF3F40000000000000, 1) := by decide +kernel

/-- 11_exchange.md, R296: the serif of the lost token. -/
theorem test_example_lost_landing :
    (serifDec 0x05020000 false).1 = 0x05010000 ∧ (serifDec 0x05010000 true) = (0x04008000, true, false) := by decide +kernel

/-- The ring of R290's example. -/
def exampleRing (rows : Nat) : State :=
  let r : Ring := { ringOf true false 0xF00 1792 1 with base := 0x20000, rowLen := 32, head := 0x800 }
  let req : Word := BitVec.ofNat 64 (0x8003 + 2 * 2 ^ 40 + (rows - 1) * 2 ^ 52)
  { peerAt r 0 with ops := [opOf 8 (.permit 0x3000 req) false] }

/-- 11_exchange.md, R290: 44 rows are refused for want of room; 7 rows are granted at offset 0 behind a pad of 256 bytes. -/
theorem test_example_permit :
    (recordLen 44 32 = 2176 ∧ rowOffset 44 = 768 ∧ recordLen 7 32 = 384) ∧
    (match exec (.permitRequest 8) (exampleRing 44) with
      | .next t => t.ops.map (fun o => match o.kind with | .permitAns _ _ st off ch _ => (st, off, ch) | _ => (9, 0, 0))
      | _ => []) = [(2, 0, 0)] ∧
    (match exec (.permitRequest 8) (exampleRing 7) with
      | .next t => (t.ops.map (fun o => match o.kind with | .permitAns _ _ st off ch _ => (st, off, ch) | _ => (9, 0, 0)), ((t.stroke 4096 3).rings[2]).tail,
          Memory.read t.mem (wellPA 4096 0x20F00) 8)
      | _ => ([], 0, 0)) = ([(1, 0, 640)], 0x180, 256 + 2 ^ 32) := by decide +kernel

/-- 13_debug.md, R343: the CRC of "123456789". -/
theorem test_example_crc : State.crc64 0x393837363534333231 9 = 0x995DC9BBDF1939FA := by decide +kernel

/-- 14_packets.md, R354: task 10,001 falls to nib 0x6388. -/
theorem test_example_placement :
    ({ launchAt with folios := 0x60 }).nibOfOrdinal 5000 = some 0x6388 ∧ State.globalRow 0x6388 = 78 ∧ State.globalCol 0x6388 = 136 := by decide +kernel

/-- 16_module.md, R371: 7.95 kW, of which 1.9 kW are matrix power, give k = 12. -/
theorem test_example_power : powerStep 7950 1900 = 12 := by decide +kernel

/-! ## States for further clauses -/

/-- A sequencer that keeps the fault of an `sjoin`, and turns in which S has ended, a trap is taken, or the stroke stops. -/
theorem test_hyp_JoinsThatFault :
    (let s := withC (at_ .a) (fun c => { c with seqs := c.seqs.set 1 { c.seqs[1] with fault := true } });
      (s.seqSt s.cur.q).fault = true ∧ s.inBlock = false ∧ s.turn.trapped = false ∧ s.turn.halt = none) ∧
    (let s := { at_ .a with turn := { (at_ .a).turn with sEnded := true, trapped := true } };
      s.turn.sEnded = true ∧ (s.seqSt s.cur.q).fault = false ∧ s.turn.trapped = true) ∧
    ({ at_ .a with turn := { (at_ .a).turn with halt := some 3 } }).turn.halt ≠ none := by decide +kernel

theorem test_hyp_ReadyQueueStates :
    64 ≤ ((rqAt .free false 64).rg 8).toNat ∧ (rqAt .free false 0x40).rg 8 &&& ~~~ 0x33F ≠ 0 ∧
    (((rqAt .free false 0x313).rg 8).getLsbD 8 = true ∧ ((rqAt .free false 0x313).rg 8).getLsbD 9 = true) ∧
    (∀ st ∈ [RqState.free, .ready, .running, .saving, .sleeping], ∀ save free : Bool, save = false ∨ free = false →
      let s := rqAt st true (19 + (if save then 0x100 else 0) + if free then 0x200 else 0)
      (s.rg 8).toNat = (19 : Fin 64).val + save.toNat * 0x100 + free.toNat * 0x200 ∧ s.cnib.rq[(19 : Fin 64)].st = st) ∧
    ((rqAt .saving false 0x213).modNib 0 (fun n => { n with waiting := [⟨7, 3, true⟩] })).cnib.waiting ≠ [] := by decide +kernel

/-- Strokes 0 of nibs 0, 1 and 4096 are in halt group 2, and stroke 0 of nib 0 is about to stop for reason r. -/
def groupAt (r : BitVec 4) : State :=
  let member := fun (x : Stroke) => { x with status := .running, dbg := { x.dbg with gen := true, gid := 2 } }
  let s := (((at_ .s).modStroke 0 0 member).modStroke 1 0 member).modStroke 4096 0 member
  { s with turn := { s.turn with halt := some r }, parts := s.parts.set 0 { s.parts[0] with folios := 3 } }

theorem test_hyp_GroupStopsAreSent :
    (let x := (groupAt 1).stroke 0 0;
      x.dbg.gen = true ∧ x.status = .running ∧ (groupAt 1).turn.halt = some 1 ∧ (1 : BitVec 4) ≠ 5 ∧
      (groupAt 1).groupMembers ((groupAt 1).partOf 0) x.dbg.gid = [(0, 0), (1, 0), (4096, 0)] ∧ State.folioOf 1 = State.folioOf 0 ∧
      State.folioOf 4096 ≠ State.folioOf 0) ∧
    ((groupAt 5).turn.halt = some 5 ∧
      (let s := withDbg { groupAt 5 with turn := (at_ .s).turn } (fun d => { d with stopReq := some 5 });
        s.turn.halt = none ∧ (s.stroke 0 0).dbg.stopReq = some 5)) ∧
    ((groupAt 1).stroke 1 0).dbg.stopReq = none ∧
    (((groupAt 1).modStroke 1 0 (fun x => { x with status := .parked [] })).stroke 1 0).status = .parked [] ∧
    (((groupAt 1).modStroke 1 0 (fun x => { x with status := .stopped 2 })).stroke 1 0).status = .stopped 2 := by decide +kernel

/-- A record that is on its way holds a swap of its stroke up, and the piece of a record at a time is the piece now. -/
theorem test_hyp_RecordsOnTheirWay :
    (let s := cacheAt true 0x302;
      ∀ o ∈ s.ops, o.nib = s.cur.nib → o.cid = (s.stroke s.cur.nib 2).ctx.cid → o.performed = false → ∀ f va store done, o.kind ≠ .ctxMove f va store done) ∧
    (let s := withG (cacheAt false 3) 5 0x2400;
      ∀ r ∈ [(⟨0x2400, wellPA 0 0x2400, 64, false, 0⟩ : Range)], (s.pieceAt 0 (s.engFor 0 1).1 r 30).cache = false) := by
  refine ⟨fun o h => ?_, by decide +kernel⟩
  exact absurd h List.not_mem_nil

/-- Units inside units, inside the module and in the pod, and the top level at each place. -/
theorem test_hyp_UnitIndices :
    (5 ≤ 7 ∧ 7 < 65536 ∧ ([0, 1, 4, 5, 6] : List Nat)[0]? = some 0 ∧ ([0, 1, 4, 5, 6] : List Nat)[1]? = some 1 ∧
      ([0, 1, 4, 5, 6] : List Nat)[4]? = some 6 ∧ ([0, 1, 4, 5, 6] : List Nat)[5]? = none ∧ ([3, 6] : List Nat)[1]? = some 6 ∧
      ([3] : List Nat)[1]? = none ∧ ([5] : List Nat)[1]? = none) ∧
    (let l := { launchAt with record := BitVec.ofNat 1024 0x0707070704030100, folios := 0x60 };
      l.record.toNat % 2 ^ 64 = 0x0707070704030100 ∧ l.folios = 0x60 ∧ l.quota = 2) := by decide +kernel

/-- The worked example of R354: g12 and g13 of task 10001. -/
theorem test_example_units :
    let l := { launchAt with record := BitVec.ofNat 1024 0x0707070704030100, folios := 0x60 }
    let c := (at_ .s).launchCtx l 0x6388 1 10001 none 5 100
    l.ordinal 0x6388 = 5000 ∧ c.r.g[13] = 0x06093001 ∧ c.r.g[12] = 10001 := by decide +kernel

/-- Stroke 7 holds its nib's kernel, in trap service or not. -/
def kernelIn (ts : Bool) : State :=
  let s := (endAt false false).modStroke 0 7 (fun x => { x with
    status := .running, ctx := { Ctx.reset with c := { Csrs.reset with mode := .k, tstatus := if ts then 0x100 else 0 } } })
  { s with modu := { s.modu with ready := true } }

/-- n tasks of a launch wait in nib 0's ready queue, and its neighbours have none. -/
def loaded (n : Nat) : State :=
  (endAt false false).modNib 0 (fun x => { x with
    rqLists := x.rqLists.set 0 ((List.finRange 64).take n)
    rq := .ofFn (fun (i : Fin 64) => if i.val < n then ⟨.ready, false, 9, some (7, 2 * i.val), false⟩ else RqId.reset) })

theorem test_hyp_KernelsAndLoads :
    (((kernelIn false).stroke 0 7).ctx.task = Task.reset ∧ ((kernelIn false).stroke 0 7).ctx.c.ts = false ∧ (kernelIn false).modu.ready = true ∧
      (kernelIn false).roomAt 0 7 = true ∧ (kernelIn true).roomAt 0 7 = false) ∧
    ((loaded 9).movable 0 = (List.finRange 64).take 9 ∧ (∀ e ∈ (loaded 9).agenda, e.2 ≠ .loadBalance (.exchange 0)) ∧
      (loaded 9).neighbour 0 1 = some 1 ∧ (((loaded 9).nib 0).load[(1 : Fin 4)] : Nat) + 2 ≤ ((loaded 9).movable 0).length ∧
      (let s := (loaded 9).modNib 0 (fun x => { x with load := (Vector.replicate 4 8).set 1 0 });
        ∀ d : Fin 4, d ≠ 1 → (s.movable 0).length < ((s.nib 0).load[d] : Nat) + 2)) := by decide +kernel

/-- Word 0x1000 is full, operation 9 waits for it, and 8 waits for it empty. -/
def waitersAt : State :=
  let piece : Range := ⟨0x1000, wellPA 0 0x1000, 8, false, 0⟩
  { fullAt.modNib 0 (fun n => { n with waiters := [8, 9] }) with
    ops := [opOf 8 (.access (.sync 2 3) [piece] 0x77 true) false, opOf 9 (.access (.sync 1 3) [piece] 5 true) false] }

theorem test_hyp_WaitersInOrder :
    (waitersAt.nib 0).waiters = [8] ++ 9 :: [] ∧ waitersAt.full.contains (wellPA 0 0x1000) = true ∧
    waitersAt.findOp 9 = some (opOf 9 (.access (.sync 1 3) [⟨0x1000, wellPA 0 0x1000, 8, false, 0⟩] 5 true) false) ∧
    waitersAt.findOp 8 = some (opOf 8 (.access (.sync 2 3) [⟨0x1000, wellPA 0 0x1000, 8, false, 0⟩] 0x77 true) false) := by decide +kernel

/-- A block of two cells at 0x2000 is being filled or drained. -/
def blockMoves (drain : Bool) (rs : List Range) : State :=
  { blocksAt [blockOf (if drain then 3 else 1)] with ops := [opOf 8 (.block 0x2000 rs drain) false] }

theorem test_hyp_BlockBytesMove :
    let rs : List Range := [⟨0x30020010000, 0x70000, 64, true, 0⟩, ⟨0x30020010040, 0x70040, 64, true, 64⟩]
    ∀ drain : Bool, (blockMoves drain rs).findOp 8 = some (opOf 8 (.block 0x2000 rs drain) false) ∧
      (blockMoves drain rs).homeGone (opOf 8 (.block 0x2000 rs drain) false) = false ∧ Memory.wf (blockMoves drain rs).mem = true := by decide +kernel

/-- Zeros of both signs, NaNs and infinities in the order of R251, and their keys. -/
theorem test_rank_specials :
    rankKey 9 0x7FC00000 < rankKey 9 0xFF800000 ∧ rankKey 9 0xFF800000 < rankKey 9 0x80000000 ∧ rankKey 9 0x80000000 < rankKey 9 0 ∧
    rankKey 9 0 < rankKey 9 0x7F800000 ∧ rankKey 2 0xFFFFFFFF < rankKey 2 0 ∧ rankKey 6 0 < rankKey 6 0xFFFFFFFF ∧
    fmt32.value 0x7FC00000 = .nan ∧ fmt32.value 0xFF800000 ≠ .nan := by decide +kernel

/-- Blocks of 32 equal values, with a NaN, and with an infinity. -/
def bfpIn (x : Fv) : List Fv := x :: List.replicate 31 (.fin false 3 0)

theorem test_hyp_BfpBlocks :
    (bfpIn .nan).length = 32 ∧ Fv.nan ∈ bfpIn .nan ∧ (∀ s, .inf s ∉ bfpIn .nan) ∧ (∃ s, .inf s ∈ bfpIn (.inf true)) ∧
    (bfpIn (.fin true 5 0)).all (fun x => match x with | .fin .. => true | _ => false) = true ∧
    bfpPack 4 false (bfpIn .nan) = (0, 255, 0) ∧ (bfpPack 4 false (bfpIn (.fin true 5 0))).2.1 = 130 := by
  refine ⟨rfl, .head _, ?_, ⟨true, .head _⟩, by decide +kernel, by decide +kernel, by decide +kernel⟩
  decide

/-- Group entry x stands at 0x7000; a grouped run of one entry is at the array and has read it or not. -/
def pickAt (x at_ : Nat) (nexp : BitVec 13) : State :=
  let s := goAt { cmdOf 8 (.mgrp 0x7000 1) [(54, 3), (55, 0b101)] with grp := { GrpRun.reset with at_ := at_ } } 0
  { withW s 0x7000 32 x with parts := s.parts.set 0 { s.parts[0] with nexp := nexp, ertFrame := 9 } }

/-- An entry of 5 rows for expert 3, whose weights are in bank 1. -/
def entryOf (rows rsv : Nat) : Nat := fieldsOf [(0, 3), (2, rows), (4, rsv), (8, 0x7100), (0x10, 0x7200), (0x18, 1)]

theorem test_hyp_GroupsArePicked :
    (let s := pickAt (entryOf 5 0) 0 8;
      ∃ c, (s.nib 0).matrix.array = some c ∧ c.running = false ∧ c.kind = .mgrp 0x7000 1 ∧ c.grp.cur = none ∧ c.grp.loading = false ∧
        s.cmdParked c.id = false ∧ s.stopFull 0 c.cid = false ∧ c.grp.at_ < 1 ∧
        ((s.mread 0 c 0x7000 32 4 (.slabEnd 0)).1.map (·.1)) = some (entryOf 5 0) ∧ s.Resides 0 c.cid 0 ∧
        (s.mread 0 c 0x7000 32 4 (.slabEnd 0)).2.refusedOf 0 (s.engFor 0 1).2 false (0x90000 + 96) = false ∧ (3 : Nat) < s.parts[s.partOf 0].nexp.toNat) ∧
    -- all read, reserved bits, no rows, past the table, and resident or not
    (∃ c, ((pickAt 0 1 8).nib 0).matrix.array = some c ∧ c.grp.at_ = 1 ∧ c.grp.noted = []) ∧
    (16 ≤ entryOf 5 16 / 2 ^ 32 % 256 ∧ entryOf 0 0 / 2 ^ 16 % 2 ^ 16 = 0 ∧ (2 : BitVec 13).toNat ≤ entryOf 5 0 % 2 ^ 16) ∧
    (let y := fieldsOf [(0, 1), (1, 2), (8, 77), (12, 0)];
      y % 256 = 1 ∧ y / 2 ^ 8 % 256 = 2 ∧ y / 2 ^ (8 * (8 + 4 * 1)) % 2 ^ 32 = ((pickAt 0 0 8).nibNumber 0).toNat) :=
  ⟨⟨_, rfl, by simp only [State.Resides]; decide +kernel⟩, ⟨_, rfl, by decide +kernel⟩, by decide +kernel, by decide +kernel⟩

/-- A resident group of 3 rows runs at slab j of output tile q, at the array, with its gather and output entries at 0x7100 and
0x7200. -/
def groupRuns (j q : Nat) (run : Bool) : MCmd :=
  let c := cmdOf 8 (.mgrp 0x7000 1) [(54, 3), (55, 0b101), (56, 3), (57, 2), (52, 0x100), (0, 2), (8, 2), (1, 0x40)]
  { c with running := run, grp := { GrpRun.reset with
      at_ := 1, cur := some ⟨0x7000, 3, 3, 0, false, 0, 0x7100, 0x7200, 1⟩, j := j, q := q, rows := [⟨0, 0x4000, 0x5000, 0⟩, ⟨2, 0x4100, 0, 0⟩] } }

/-- `groupRuns` at the array, whose occupation has ended. -/
def groupState (j q : Nat) (run : Bool) : State :=
  withW (withW (goAt (groupRuns j q run) 0) 0x7100 24 (fieldsOf [(0, 0x4000), (16, 0x4100)])) 0x7200 48 (fieldsOf [(0, 0x5000), (32, 0x5100), (40, 0x6000)])

theorem test_hyp_GroupSlabs :
    -- a first slab, and one in the middle
    (∀ x ∈ [(0, 0), (1, 0), (0, 1)], let s := groupState x.1 x.2 false;
      (s.nib 0).matrix.array = some (groupRuns x.1 x.2 false) ∧ s.cmdParked 8 = false ∧ ((s.nib 0).matrix.banks[(1 : Fin 2)]).valid = true ∧
      0 ≤ (groupRuns x.1 x.2 false).field 50 ∧
      ((s.mreads 0 (imgSize (groupRuns 0 0 false).afmt) 1 (.slabEnd 0) [(0, 0x4000), (2, 0x4100)] (groupRuns x.1 x.2 false) []).1.map (·.1.length)) = some 2) ∧
    ((groupState 0 0 false).readRows 0 ⟨0x7000, 3, 3, 0, false, 0, 0x7100, 0x7200, 1⟩ [0, 2] (groupRuns 0 0 false) []).1.map (·.1) =
      some [⟨0, 0x4000, 0x5000, 0⟩, ⟨2, 0x4100, 0x5100, 0x6000⟩] ∧
    -- the slab that ends: not the last, the last of an output tile, and the last of all
    (let c := groupRuns 0 0 true;
      (((groupState 0 0 true).nib 0).matrix.array = some c ∧ c.running = true ∧ ((groupState 0 0 true).nib 0).matrix.arrayEnd ≤ 800 * 720720 ∧
        c.rerun ≤ 1 ∧ c.chk = false ∧ c.grp.j + 1 < c.count 0) ∧
      (groupRuns 1 0 true).grp.j + 1 = c.count 0 ∧ (groupRuns 1 0 true).grp.q + 1 < c.count 1 ∧ c.count 1 ≤ (groupRuns 1 1 true).grp.q + 1 ∧
      (3 : Nat) ≤ 32 * (c.grp.tile + 1)) := by decide +kernel

/-- `mresume` of stroke 0 is due, with a stopped command and one held behind it. -/
def resumeAt (cid : Nat) : State :=
  withC (matrixAt { queued 1 with stopped := [{ cmdOf 5 (.mzero 2) [] with cid := 9 }, { cmdOf 6 (.mzero 2) [] with cid := cid }], held := [cmdOf 7 (.mzero 3) []] } [])
    (fun c => { c with inflight := [⟨100, 99, .s, .mresume⟩] })

theorem test_hyp_ResumeTakesForce :
    let s := resumeAt 1
    (s.stroke 0 0).ctx.inflight = ⟨100, 99, .s, .mresume⟩ :: [] ∧ 100 ≤ s.tn ∧ (s.stroke 0 0).ctx.cid = 1 ∧
    (s.nib 0).matrix.stopped = [{ cmdOf 5 (.mzero 2) [] with cid := 9 }] ++ cmdOf 6 (.mzero 2) [] :: [] ∧
    ∀ c ∈ ((resumeAt 9).nib 0).matrix.stopped, c.cid ≠ 1 := by decide +kernel

/-- The context cache of nib 0 is on. -/
def cached (s : State) : State := s.modNib 0 (fun n => { n with ctxEn := true })

theorem test_hyp_HiddenArrays :
    selFails (cached (selAt (selDesc false 5 2 0x4C000 0x5000))) false = some (5, 0x4C000) ∧
    selFails (cached (selAt (selDesc false 5 2 0x4000 0x4C000))) false = some (7, 0x4C000) ∧
    selFails (cached (selAt (selDesc false 5 2 0x4000 0x5000))) false = none ∧
    declFails (cached (slotAt 100 0x4C000 0)) 2 = some (7, 0x4C000) ∧ declFails (cached (slotAt 0 0x4C000 0)) 2 = none ∧
    declFails (cached (slotAt 100 0x8000 0)) 2 = none := by decide +kernel

theorem test_hyp_LateWakes :
    -- a serif of the window that the sweep has read, and one of another; a block over the plane; and a last window
    (let s := plane 0x05010007 0x2 (some (sweepOf .load 2 0));
      s.ctx.takenSerif 2 0x80A0 = true ∧ s.ctx.takenSerif 2 0x8000 = false ∧ s.hasCid s.cur.nib s.cur.k s.ctx.cid = true ∧ (∀ j, j < s.cur.k → s.hasCid s.cur.nib j s.ctx.cid = false)) ∧
    (let s := (plane 0 0xA (some (sweepOf .read 2 0))).modNib 0 (fun n => { n with blocks := [⟨0x9000, 1, 0, 1, 8⟩] });
      ∃ r ∈ (sweepOf .read 2 0).ranges slotOf, s.blockBusy 0 r.1 r.2 = true) ∧
    (∀ r ∈ (sweepOf .read 2 0).ranges slotOf, (plane 0 0xA none).blockBusy 0 r.1 r.2 = false) ∧
    ((∀ b < 64, (0x2 : Nat).testBit b = true → 64 * 0 + b < 2 ∨ 4 ≤ 64 * 0 + b) ∧ (4 : Nat) ≤ 64 * 0 + 64 ∧
      Seq.s ∈ (sweepOf .read 2 0).members ∧ (sweepOf .read 2 0).back.lookup .s = some 0x104) ∧
    ({ sweepOf .load 2 0 with late := 8 }).late.getLsbD 3 = true := by decide +kernel

/-- Pieces of an engine's access that lie apart. -/
theorem test_hyp_EngineBytes :
    let rs : List Range := [⟨0x4000, wellPA 0 0x4000, 8, false, 0⟩, ⟨0x4008, wellPA 0 0x4008, 8, false, 8⟩]
    (∀ r ∈ rs, 0 < r.size) ∧ rs.Pairwise (fun a b => a.at_ + a.size ≤ b.at_) ∧
    rs.Pairwise (fun a b => a.pa + a.size ≤ b.pa ∨ b.pa + b.size ≤ a.pa) := by decide +kernel

/-- `loadAt`'s image is read: its header, and its data. -/
theorem test_hyp_WeightImagesAreRead :
    let c := cmdOf 8 (.mwld 1 0x3000 48) []
    (loadAt.mread 0 c 0x3000 16 5 (.slabEnd 0)).1.map (fun x => weightHeader x.1) = some (some (0, 32, 32)) ∧ weightHeader 0 = none ∧
    (loadAt.mread 0 c 0x3010 32 5 (.slabEnd 0)).1.isSome = true ∧ (48 : Nat) = 16 + 32 ∧ decodeImage 1 32 3 0 = none := by decide +kernel

/-- `sendAt`, its target's folio lost and known to be so. -/
def lostSend (i : Nat) : State :=
  let s := sendAt 0x4000 i false
  { s with folios := s.folios.set 1 { s.folios[1] with lost := true } }

theorem test_hyp_LostSendsEnd :
    let s := lostSend 0
    let o := opOf 8 (.send 0x3000 0x4000 8 0x8003 2 2 0x10200 256 64 0) false
    s.findOp 8 = some o ∧ s.sendBlocked o = false ∧ s.deafTo 0 (BitVec.ofNat 32 (0x8003 / 8)) = true ∧ s.homeGone o = false ∧
    Memory.wf s.mem = true ∧ (2 : Nat) ≤ 2 ∧ (0 : Nat) < 2 ∧
    (match s.engCheck 0 (s.engFor 0 1).1 (s.engFor 0 1).2 0x4010 8 1 false with
      | .ok rs => decide ((s.engLoad 0 rs 30 0).1 = 0x6000) && (match (s.engLoad 0 rs 30 0).2.2.serifLook 0 1 0x6000 with
        | .ok (r :: _) => decide (unitOf r.pa = .well 0 0x6000)
        | _ => false)
      | _ => false) = true ∧ s.planeOf 0 0x6000 = none ∧ (0x6000 : Nat) + 4 ≤ 0x4C000 ∧
    (s.modNib 0 (fun n => { n with blocks := [⟨0x3000, 1, 0, 3, 7⟩] })).sendBlocked o = true := by decide +kernel

theorem test_hyp_OlderOnesComeFirst :
    (let ops := [opOf 5 (.permit 0x3000 (reqOf 2)) false, opOf 6 (.permit 0x3040 (reqOf 3)) false];
      ops = [] ++ opOf 5 (.permit 0x3000 (reqOf 2)) false :: [] ++ opOf 6 (.permit 0x3040 (reqOf 3)) false :: [] ∧
      (∀ x ∈ ops, ∀ y ∈ ops, x.id = y.id → x = y) ∧ State.reqTarget (reqOf 2) = State.reqTarget (reqOf 3) ∧
      State.reqRing (reqOf 2) = State.reqRing (reqOf 3) ∧ (peerAt (ringOf true false 640 640 1) 0).nibLost (strokeNib (State.reqTarget (reqOf 2))) = false) ∧
    State.mailbox 0x300001000 = State.mailbox 0x300001000 ∧
    (peerAt (ringOf true false 640 640 1) 0).nibLost (Fin.ofNat 65536 (0x300001000 : Word).toNat) = false := by decide +kernel

/-- A permit block that names a ring of another module. -/
theorem test_hyp_ForeignTargets :
    let s := withW (blockAtPeer 1 8 0x4000) 0x3000 8 (0x8003 + 9 * 2 ^ 19)
    strokeModule (s.wellRead 0x3000 8) ≠ s.modu.modn.toNat ∧ s.deafTo 0 (BitVec.ofNat 32 (s.wellRead 0x3000 8 / 8)) = false := by decide +kernel

theorem test_hyp_BarrierWatchdogs :
    -- a pod barrier where nothing lies in the way; a launch in trap service; a stroke that debug has stopped; a lost module
    (let s := barAt 5 0x3000 (barOf 6 3) [{ barInstOf 1 14 with launch := 7 }] 9 [];
      (∀ f, s.route 0 f = []) ∧ (s.barInst 0 5 0).launch ≠ 0 ∧
      ((withC s (fun c => { c with task := { c.task with launch := 7 }, c := { c.c with tstatus := 0x100 } })).contexts 0).any
        (fun c => c.task.launch == 7 && c.c.ts) = true ∧
      ((s.modStroke 0 3 (fun x => { x with status := .stopped 2 })).stroke 0 3).status = .stopped 2 ∧ (7 : BitVec 16) ∉ s.modu.gone ∧
      (7 : BitVec 16) ∈ ({ s with modu := { s.modu with gone := [7] } }).modu.gone) ∧
    (let s := (at_ .s).modNib 0 (fun n => { n with blocks := [⟨0x3000, 1, 0, 1, 8⟩] });
      s.blockBusy 0 0x3000 64 = true ∧ (at_ .s).blockBusy 0 0x3000 64 = false) := by decide +kernel

/-- A replay of virtual function 1 whose launch 0 has completed, with a check record of one region, right where ok. -/
def compareAt (ok : Bool) : State :=
  let r : Replay := ⟨0x900000, 128, 0, some 9, [(0x30020010000, 16)]⟩
  let s := hostAt
  let s := { s with vfs := s.vfs.set 1 { s.vfs[1] with replay := some r } }
  let crc := (s.capCrcs 1 0 r.regions).1 + (if ok then 0 else 1)
  let items := [(0x900008, 8, 192), (0x900040, 1, 1), (0x900048, 8, 0), (0x900080, 1, 3), (0x9000A0, 8, crc)]
  { s with hostMem := items.foldl (fun m x => Memory.write m x.1 x.2.1 x.2.2) [] }

theorem test_hyp_ReplaysCompare :
    (∀ ok : Bool, ((compareAt ok).vfs[1].replay).isSome = true ∧ Memory.wf (compareAt ok).hostMem = true ∧
      (compareAt ok).checkRecord 0x900000 (Memory.read (compareAt ok).hostMem 0x900008 8) 64 0 65536 = some 128 ∧
      (ok = true ↔ ((compareAt ok).capCrcs 1 0 [(0x30020010000, 16)]).1 % 2 ^ 64 = Memory.read (compareAt ok).hostMem 0x9000A0 8)) ∧
    ((128 : Nat) < 128 + 64 ∧ 128 + 64 ≤ (192 : Nat) ∧ (192 : Nat) < 192 + 64) := by decide +kernel

/-- A packet that a replay waits for. -/
theorem test_hyp_ReplaysGoOn :
    let b := pktOf 0xB 0 7 []
    let s := hostAt
    let s := { s.setQueue 1 0 { queueOf 3 [packetOf b 0 false false] with root := 0x10001 } with
      hostMem := (compareAt true).hostMem, vfs := (s.setQueue 1 0 { queueOf 3 [packetOf b 0 false false] with root := 0x10001 }).vfs.set 1
        { (s.setQueue 1 0 { queueOf 3 [packetOf b 0 false false] with root := 0x10001 }).vfs[1] with replay := some ⟨0x900000, 64, 0, some 9, []⟩ } }
    s.findPacket 9 = some (1, 0, packetOf b 0 false false) ∧ s.vfHeld 1 = false ∧ (s.vfs[1].replay.map (·.waitFor)) = some (some 9) ∧
    pktField b 0 1 = 0x0B ∧ 64 + 64 ≤ Memory.read s.hostMem 0x900008 8 ∧ Memory.read s.hostMem 0x900040 1 = 1 := by decide +kernel

/-- Nib 20480 of folio 5, behind another partition's folio 4, submits a guest packet. -/
def farGuest (tokens : Nat) : State :=
  let s := guestAt [] id
  { s with
    cur := ⟨20480, 0, .s⟩, nibs := [(20480, s.nib 0)], parts := (borderAt [] tokens 0).parts
    mem := Memory.write (Memory.write s.mem (wellPA 20480 0x3000) 64 0x100) (wellPA 20480 0x100) 4 (header .s) }

theorem test_hyp_GuestPacketsCrossBorders :
    (let s := farGuest 63;
      s.Clear [.g 4] [] true ∧ guestBad (guestBits s) true = none ∧ s.sealFull 3 = false ∧ s.cnib.guestOut < 16 ∧ s.portHolds < 1024 ∧
      s.owing (s.partOf s.cur.nib) (State.folioOf s.cur.nib) true 64 = [(4, 64)] ∧ s.parts[s.partOf s.cur.nib].tokens[4] < 64) ∧
    (guestAt [] id).owing 0 0 true 64 = [] ∧
    -- a host signal for a nib behind the border
    (let s := borderAt [] 63 0;
      s.partOfVf 1 = some 0 ∧ (20480 : Word).getLsbD 63 = false ∧ s.partHas 0 (State.folioOf 20480) = true ∧ s.nibNumber 20480 = (20480 : Word).setWidth 32 ∧
      s.owing 0 (State.folioOf 20480) false 64 = [(4, 64)] ∧ s.parts[0].tokens[4] < 64) := by
  simp only [clear_iff]; decide +kernel

end Sys2Proof.Tests
end

section
/-! SUPPORT. The integer operators (04_scalar.md R97 to R104): the model's word functions are the arithmetic
of the rules, and the divides are those of R59 and R70. -/

namespace Sys2Proof.Machine

open Sys2Proof

/-! ## The word functions as arithmetic on the values of their operands -/

theorem add_eq_ofNat (x y : Word) : x + y = BitVec.ofNat 64 (x.toNat + y.toNat) := by
  rw [BitVec.ofNat_add, BitVec.ofNat_toNat, BitVec.ofNat_toNat, BitVec.setWidth_eq, BitVec.setWidth_eq]

theorem sub_eq_ofInt (x y : Word) : x - y = BitVec.ofInt 64 (x.toInt - y.toInt) := by
  rw [Int.sub_eq_add_neg, BitVec.ofInt_add, BitVec.ofInt_neg, BitVec.ofInt_toInt, BitVec.ofInt_toInt, BitVec.sub_eq_add_neg]

theorem mul_eq_ofInt (x y : Word) : x * y = BitVec.ofInt 64 (x.toInt * y.toInt) := by
  rw [BitVec.ofInt_mul, BitVec.ofInt_toInt, BitVec.ofInt_toInt]

/-- The product of the sign-extended words is the exact signed product. -/
theorem signExtend_mul_signExtend_eq_ofInt (x y : Word) :
    x.signExtend 128 * y.signExtend 128 = BitVec.ofInt 128 (x.toInt * y.toInt) := by
  have e (z : Word) : BitVec.ofInt 128 z.toInt = z.signExtend 128 := by
    rw [← BitVec.toInt_signExtend_of_le (by decide : 64 ≤ 128), BitVec.ofInt_toInt]
  rw [BitVec.ofInt_mul, e, e]

theorem mulh_eq_extractLsb' (x y : Word) :
    BitVec.ofInt 64 (x.toInt * y.toInt / 2 ^ 64) = (x.signExtend 128 * y.signExtend 128).extractLsb' 64 64 := by
  rw [signExtend_mul_signExtend_eq_ofInt]
  apply BitVec.eq_of_toNat_eq
  rw [BitVec.extractLsb'_toNat, BitVec.toNat_ofInt, BitVec.toNat_ofInt, Nat.shiftRight_eq_div_pow]
  generalize x.toInt * y.toInt = p
  omega

theorem mulhn_eq_extractLsb' (x y : Word) :
    BitVec.ofNat 64 (x.toNat * y.toNat / 2 ^ 64) = (x.setWidth 128 * y.setWidth 128).extractLsb' 64 64 := by
  have hx : x.toNat % 2 ^ 128 = x.toNat := Nat.mod_eq_of_lt (by omega)
  have hy : y.toNat % 2 ^ 128 = y.toNat := Nat.mod_eq_of_lt (by omega)
  apply BitVec.eq_of_toNat_eq
  rw [BitVec.extractLsb'_toNat, BitVec.toNat_mul, BitVec.toNat_setWidth, BitVec.toNat_setWidth, BitVec.toNat_ofNat, hx, hy,
    Nat.shiftRight_eq_div_pow]
  generalize x.toNat * y.toNat = p
  omega

/-- The count of a shift is bits [5:0] of its operand (R98). -/
theorem shiftCount_eq (y : Word) : y.toNat % 64 = (y.extractLsb' 0 6).toNat := by
  rw [BitVec.extractLsb'_toNat, Nat.shiftRight_zero]

theorem boolWord_slt (x y : Word) : boolWord (x.slt y) = if x.toInt < y.toInt then 1 else 0 := by
  simp only [boolWord, BitVec.slt_iff_toInt_lt]

theorem boolWord_ult (x y : Word) : boolWord (x.ult y) = if x.toNat < y.toNat then 1 else 0 := by
  simp only [boolWord, BitVec.ult_iff_toNat_lt]

theorem ite_slt_eq_ofInt_min (x y : Word) : (if x.slt y then x else y) = BitVec.ofInt 64 (min x.toInt y.toInt) := by
  simp only [BitVec.slt_iff_toInt_lt, min_def_lt, apply_ite (BitVec.ofInt 64), BitVec.ofInt_toInt]

theorem ite_slt_eq_ofInt_max (x y : Word) : (if x.slt y then y else x) = BitVec.ofInt 64 (max x.toInt y.toInt) := by
  simp only [BitVec.slt_iff_toInt_lt, max_def_lt, apply_ite (BitVec.ofInt 64), BitVec.ofInt_toInt]

theorem ite_ult_eq_ofNat_min (x y : Word) : (if x.ult y then x else y) = BitVec.ofNat 64 (min x.toNat y.toNat) := by
  simp only [BitVec.ult_iff_toNat_lt, min_def_lt, apply_ite (BitVec.ofNat 64), BitVec.ofNat_toNat, BitVec.setWidth_eq]

theorem ite_ult_eq_ofNat_max (x y : Word) : (if x.ult y then y else x) = BitVec.ofNat 64 (max x.toNat y.toNat) := by
  simp only [BitVec.ult_iff_toNat_lt, max_def_lt, apply_ite (BitVec.ofNat 64), BitVec.ofNat_toNat, BitVec.setWidth_eq]

/-- An immediate of the signed group has the value of its 16 bits (R102). -/
theorem toInt_signExtend_imm (i : BitVec 16) : (i.signExtend 64 : Word).toInt = i.toInt :=
  BitVec.toInt_signExtend_of_le (by decide)

theorem add_imm_eq_ofInt (x : Word) (i : BitVec 16) : x + i.signExtend 64 = BitVec.ofInt 64 (x.toInt + i.toInt) := by
  rw [BitVec.ofInt_add, ← toInt_signExtend_imm, BitVec.ofInt_toInt, BitVec.ofInt_toInt]

theorem boolWord_slt_imm (x : Word) (i : BitVec 16) :
    boolWord (x.slt (i.signExtend 64)) = if x.toInt < i.toInt then 1 else 0 := by
  rw [boolWord_slt, toInt_signExtend_imm]

/-- Shifting 16 bits in: the two operands of the model's `or` have no bit in common. -/
theorem shiftLeft_or_imm_eq_ofNat (x : Word) (i : BitVec 16) :
    x <<< 16 ||| i.setWidth 64 = BitVec.ofNat 64 (x.toNat * 2 ^ 16 + i.toNat) := by
  have disjoint : x <<< 16 &&& i.setWidth 64 = 0#64 := by
    ext k hk
    by_cases h : k < 16
    · simp [h]
    · simp [BitVec.getLsbD_of_ge i k (by omega)]
  rw [← BitVec.add_eq_or_of_and_eq_zero _ _ disjoint]
  apply BitVec.eq_of_toNat_eq
  rw [BitVec.toNat_add, BitVec.toNat_shiftLeft, BitVec.toNat_setWidth, BitVec.toNat_ofNat, Nat.shiftLeft_eq]
  omega

/-! ## Division (R70) -/

theorem divRem_zero (signed : Bool) (x : Word) : divRem signed x 0 = (BitVec.allOnes 64, x, evINTDIV) := if_pos rfl

theorem divRem_unsigned {y : Word} (x : Word) (h : y ≠ 0) :
    divRem false x y = (BitVec.ofNat 64 (x.toNat / y.toNat), BitVec.ofNat 64 (x.toNat % y.toNat), 0) := if_neg h

/-- The one case in which a signed quotient does not fit its word. -/
theorem signedOverflow_iff (x y : Word) :
    (x = BitVec.intMin 64 ∧ y = BitVec.allOnes 64) ↔ (x.toInt = -2 ^ 63 ∧ y.toInt = -1) := by
  rw [← BitVec.toInt_inj, ← BitVec.toInt_inj (x := y), BitVec.toInt_intMin_of_pos (by decide), BitVec.toInt_allOnes]
  rfl

theorem divRem_signed {x y : Word} (h : y ≠ 0) (fits : ¬ (x.toInt = -2 ^ 63 ∧ y.toInt = -1)) :
    divRem true x y = (BitVec.ofInt 64 (x.toInt.tdiv y.toInt), BitVec.ofInt 64 (x.toInt.tmod y.toInt), 0) := by
  rw [divRem, if_neg h, if_pos rfl, if_neg (mt (signedOverflow_iff x y).mp fits)]

theorem divRem_overflow {x y : Word} (hx : x.toInt = -2 ^ 63) (hy : y.toInt = -1) : divRem true x y = (x, 0, evINTDIV) := by
  have h : y ≠ 0 := by rintro rfl; simp at hy
  rw [divRem, if_neg h, if_pos rfl, if_pos ((signedOverflow_iff x y).mpr ⟨hx, hy⟩)]

/-! ## Issuing with a result that is given -/

section
variable {i : Instr} {s : State} {d a b : Fin 32}

theorem issues_alu2_of_eq {lat : Nat} {z : Word} (h : s.Clear [.g a, .g b] [.g d] false) (f : Word → Word → Word)
    (e : exec i s = s.alu2 lat d a b f) (v : f (s.rg a) (s.rg b) = z) : Issues i s (gWrite lat d z) :=
  v ▸ issues_of_alu2 h e

theorem issues_alu1_of_eq {z : Word} (h : s.Clear [.g a] [.g d] false) (f : Word → Word)
    (e : exec i s = s.alu1 d a f) (v : f (s.rg a) = z) : Issues i s (gWrite 1 d z) :=
  v ▸ issues_of_alu1 h e

/-- A division issues with the quotient and the events that `divRem` gives. -/
theorem issues_quotient {signed : Bool} {q r : Word} {ev : Ev} (h : s.Clear [.g a, .g b] [.g d] false)
    (free : s.divideInFlight = false) (e : exec i s = s.divide d a b signed false)
    (v : divRem signed (s.rg a) (s.rg b) = (q, r, ev)) : Issues i s ((6, .reg (.g d q)) :: evCount ev) :=
  issues_congr (issues_of_divide h free e) (by rw [v]; rfl)

/-- A remainder operator issues with the remainder and the events that `divRem` gives. -/
theorem issues_remainder {signed : Bool} {q r : Word} {ev : Ev} (h : s.Clear [.g a, .g b] [.g d] false)
    (free : s.divideInFlight = false) (e : exec i s = s.divide d a b signed true)
    (v : divRem signed (s.rg a) (s.rg b) = (q, r, ev)) : Issues i s ((6, .reg (.g d r)) :: evCount ev) :=
  issues_congr (issues_of_divide h free e) (by rw [v]; rfl)

/-- R59: while an earlier divide is in flight, a divide is ILLEGAL. -/
theorem divide_of_divideInFlight {signed rem : Bool} (h : s.Clear [.g a, .g b] [.g d] false)
    (busy : s.divideInFlight = true) : s.divide d a b signed rem = .next (s.raise 0x02 (s.word.setWidth 64)) := by
  rw [State.divide, guarded_of_clear h, if_pos busy]
  rfl

end

/-! ## The parts of the statement -/

theorem integerResults : Claims.IntegerResults := by
  rintro s d a b _ _ _ rfl rfl rfl
  refine ⟨fun h => ?binary, fun h => ?select, fun h => ⟨fun i => ?immediate, fun n => ?shiftImmediate⟩⟩
  case binary =>
    have op {i lat z} := issues_alu2_of_eq (i := i) (lat := lat) (z := z) h
    simp only [List.forall_mem_cons]
    exact ⟨op (· + ·) rfl (add_eq_ofNat ..), op (· - ·) rfl (sub_eq_ofInt ..), op (· * ·) rfl (mul_eq_ofInt ..),
      op (fun x y => BitVec.ofInt 64 (x.toInt * y.toInt / 2 ^ 64)) rfl (mulh_eq_extractLsb' ..),
      op (fun x y => BitVec.ofNat 64 (x.toNat * y.toNat / 2 ^ 64)) rfl (mulhn_eq_extractLsb' ..),
      op (· &&& ·) rfl rfl, op (· ||| ·) rfl rfl, op (· ^^^ ·) rfl rfl,
      op (fun x y => x <<< (y.toNat % 64)) rfl (by rw [shiftCount_eq]),
      op (fun x y => x >>> (y.toNat % 64)) rfl (by rw [shiftCount_eq]),
      op (fun x y => x.sshiftRight (y.toNat % 64)) rfl (by rw [shiftCount_eq]),
      op (fun x y => boolWord (x.slt y)) rfl (boolWord_slt ..),
      op (fun x y => boolWord (x.ult y)) rfl (boolWord_ult ..),
      op (fun x y => if x.slt y then x else y) rfl (ite_slt_eq_ofInt_min ..),
      op (fun x y => if x.slt y then y else x) rfl (ite_slt_eq_ofInt_max ..),
      op (fun x y => if x.ult y then x else y) rfl (ite_ult_eq_ofNat_min ..),
      op (fun x y => if x.ult y then y else x) rfl (ite_ult_eq_ofNat_max ..), List.forall_mem_nil _⟩
  case select =>
    have e : exec (.sel d a b) s = s.alu3 d a b (fun c x y => if c ≠ 0 then x else y) := rfl
    exact issues_congr (issues_of_alu3 h e) (by rw [ite_not])
  case immediate =>
    have op {j z} := issues_alu1_of_eq (i := j) (z := z) h
    simp only [List.forall_mem_cons]
    exact ⟨op (· + i.signExtend 64) rfl (add_imm_eq_ofInt ..), op (· &&& i.setWidth 64) rfl rfl,
      op (· ||| i.setWidth 64) rfl rfl, op (· ^^^ i.setWidth 64) rfl rfl,
      op (fun x => boolWord (x.slt (i.signExtend 64))) rfl (boolWord_slt_imm ..),
      op (fun x => x <<< 16 ||| i.setWidth 64) rfl (shiftLeft_or_imm_eq_ofNat ..), List.forall_mem_nil _⟩
  case shiftImmediate =>
    have op {j z} := issues_alu1_of_eq (i := j) (z := z) h
    simp only [List.forall_mem_cons]
    exact ⟨op (· <<< n.toNat) rfl rfl, op (· >>> n.toNat) rfl rfl, op (·.sshiftRight n.toNat) rfl rfl,
      List.forall_mem_nil _⟩

theorem divideResults : Claims.DivideResults := by
  rintro s d a b _ _ rfl rfl h free
  have quotient {i sg q r ev} := issues_quotient (i := i) (signed := sg) (q := q) (r := r) (ev := ev) h free
  have remainder {i sg q r ev} := issues_remainder (i := i) (signed := sg) (q := q) (r := r) (ev := ev) h free
  simp only [List.forall_mem_cons]
  refine ⟨fun zero => ?zero, fun nonzero => ?unsigned, fun nonzero fits => ?signed, fun hx hy => ?overflow⟩
  case zero =>
    have v (signed : Bool) : divRem signed (s.rg a) (s.rg b) = (BitVec.allOnes 64, s.rg a, evINTDIV) := by
      rw [zero, divRem_zero]
    exact ⟨quotient rfl (v true), quotient rfl (v false), remainder rfl (v true), remainder rfl (v false),
      List.forall_mem_nil _⟩
  case unsigned =>
    have v := divRem_unsigned (s.rg a) nonzero
    exact ⟨quotient rfl v, remainder rfl v, List.forall_mem_nil _⟩
  case signed =>
    have v := divRem_signed nonzero fits
    exact ⟨quotient rfl v, remainder rfl v, List.forall_mem_nil _⟩
  case overflow =>
    have v := divRem_overflow hx hy
    exact ⟨quotient rfl v, remainder rfl v, List.forall_mem_nil _⟩

theorem divideInFlightTraps : Claims.DivideInFlightTraps := by
  intro s d a b h busy
  simp only [List.forall_mem_cons]
  exact ⟨divide_of_divideInFlight h busy, divide_of_divideInFlight h busy, divide_of_divideInFlight h busy,
    divide_of_divideInFlight h busy, List.forall_mem_nil _⟩

/-- Settles O11: each operator is one shared operation of the model, whose word function is the arithmetic of its rule. -/
theorem integersAndDivides : Obligations.IntegersAndDivides :=
  ⟨integerResults, divideResults, divideInFlightTraps⟩

end Sys2Proof.Machine
end

section
/-! SUPPORT. The unary operators (04_scalar.md R99): what the counts, the reversals and the extensions of the model are,
bit for bit. -/

namespace Sys2Proof.Machine

open Sys2Proof

/-! ## Numbers built from digits of k bits -/

/-- The number whose n digits of k bits each are `f 0`, `f 1` and so on, the lowest first. -/
def packed (k n : Nat) (f : Nat → Nat) : Nat := (List.range n).foldl (fun a i => a + f i * 2 ^ (k * i)) 0

theorem packed_succ (k n : Nat) (f : Nat → Nat) : packed k (n + 1) f = packed k n f + f n * 2 ^ (k * n) := by
  rw [packed, List.range_succ, List.foldl_concat, packed]

theorem packed_lt {k : Nat} {f : Nat → Nat} (small : ∀ i, f i < 2 ^ k) (n : Nat) : packed k n f < 2 ^ (k * n) := by
  induction n with
  | zero => simp [packed]
  | succ n ih =>
    calc packed k (n + 1) f = packed k n f + f n * 2 ^ (k * n) := packed_succ ..
      _ < (f n + 1) * 2 ^ (k * n) := by rw [Nat.add_one_mul, Nat.add_comm]; exact Nat.add_lt_add_left ih _
      _ ≤ 2 ^ k * 2 ^ (k * n) := Nat.mul_le_mul_right _ (small n)
      _ = 2 ^ (k * (n + 1)) := by rw [← Nat.pow_add, Nat.mul_succ, Nat.add_comm]

/-- Each digit can be read back: those above it fall to the modulus, those below it to the quotient. -/
theorem packed_digit {k : Nat} {f : Nat → Nat} (small : ∀ i, f i < 2 ^ k) {n i : Nat} (hi : i < n) :
    packed k n f / 2 ^ (k * i) % 2 ^ k = f i := by
  induction n with
  | zero => exact absurd hi (Nat.not_lt_zero i)
  | succ n ih =>
    rw [packed_succ]
    obtain rfl | lower := Nat.eq_or_lt_of_le (Nat.le_of_lt_succ hi)
    · rw [Nat.add_mul_div_right _ _ (Nat.two_pow_pos _), Nat.div_eq_of_lt (packed_lt small i), Nat.zero_add,
        Nat.mod_eq_of_lt (small i)]
    · obtain ⟨m, rfl⟩ := Nat.exists_eq_add_of_lt lower
      have top : f (i + m + 1) * 2 ^ (k * (i + m + 1)) = f (i + m + 1) * 2 ^ (k * m) * 2 ^ k * 2 ^ (k * i) := by ring
      rw [top, Nat.add_mul_div_right _ _ (Nat.two_pow_pos _), Nat.add_mul_mod_self_right, ih lower]

theorem bitsOf_eq_packed (n : Nat) (f : Nat → Bool) : bitsOf n f = packed 1 n (fun i => (f i).toNat) := by
  have digit (a i : Nat) : (if f i then a + 2 ^ i else a) = a + (f i).toNat * 2 ^ (1 * i) := by
    cases f i <;> simp
  simp only [bitsOf, packed, digit]

theorem getLsbD_bitsOf (f : Nat → Bool) {i : Nat} (hi : i < 64) : (BitVec.ofNat 64 (bitsOf 64 f)).getLsbD i = f i := by
  have digit := packed_digit (k := 1) (fun i => Bool.toNat_lt (f i)) hi
  rw [Nat.one_mul, ← bitsOf_eq_packed, Nat.pow_one] at digit
  simp only [BitVec.getLsbD_ofNat, hi, Nat.testBit_eq_decide_div_mod_eq, digit, Bool.toNat_eq_one, decide_true, Bool.true_and,
    Bool.decide_eq_true]

/-! ## Counts -/

theorem clzN_le (n x : Nat) : clzN n x ≤ n := by
  unfold clzN; split <;> omega

/-- The leading bits that `clz` counts are zero. -/
theorem getLsbD_of_clzN_le (x : Word) {i : Nat} (hi : 64 - clzN 64 x.toNat ≤ i) : x.getLsbD i = false := by
  rw [← BitVec.testBit_toNat]
  by_cases zero : x.toNat = 0
  · rw [zero, Nat.zero_testBit]
  · rw [clzN, if_neg zero] at hi
    have above : x.toNat.log2 + 1 ≤ i := by have := (Nat.log2_lt zero).mpr x.isLt; omega
    exact Nat.testBit_lt_two_pow (Nat.lt_log2_self.trans_le (Nat.pow_le_pow_right Nat.two_pos above))

/-- The bit below those that `clz` counts is one. -/
theorem getLsbD_clzN (x : Word) (h : clzN 64 x.toNat < 64) : x.getLsbD (63 - clzN 64 x.toNat) = true := by
  have nonzero : x.toNat ≠ 0 := by rintro zero; simp [clzN, zero] at h
  have top : 63 - clzN 64 x.toNat = x.toNat.log2 := by
    have := (Nat.log2_lt nonzero).mpr x.isLt
    rw [clzN, if_neg nonzero]; omega
  rw [top, ← BitVec.testBit_toNat, Nat.testBit_log2 nonzero]

/-- What `ctz` counts: all n bits where none is one, else those below the lowest one bit. -/
theorem ctzN_spec (n x : Nat) : ctzN n x ≤ n ∧ (∀ i < ctzN n x, x.testBit i = false) ∧
    (ctzN n x < n → x.testBit (ctzN n x) = true) := by
  unfold ctzN
  cases found : (List.range n).find? (fun i => x.testBit i) with
  | none =>
    have noneSet := List.find?_range_eq_none.mp found
    exact ⟨le_rfl, fun i hi => by simpa using noneSet i hi, fun h => absurd h (lt_irrefl n)⟩
  | some k =>
    obtain ⟨isOne, inside, lower⟩ := List.find?_range_eq_some.mp found
    exact ⟨(List.mem_range.mp inside).le, fun i hi => by simpa using lower i hi, fun _ => isOne⟩

theorem popcN_eq_finRange (n : Nat) (x : BitVec n) :
    popcN n x.toNat = ((List.finRange n).filter (fun i => x.getLsbD i.val)).length := by
  rw [popcN, ← List.map_coe_finRange_eq_range, List.filter_map, List.length_map]
  rfl

/-! ## Reversals -/

theorem getLsbD_revWord (x : Word) {i : Nat} (hi : i < 64) : (revWord x).getLsbD i = x.getLsbD (63 - i) :=
  getLsbD_bitsOf _ hi

/-- Digit j of a byte reversal is byte 7 - j. -/
theorem toNat_bswapWord (x : Word) : (bswapWord x).toNat = packed 8 8 (fun j => x.toNat / 2 ^ (8 * (7 - j)) % 2 ^ 8) := by
  have fits : packed 8 8 (fun j => x.toNat / 2 ^ (8 * (7 - j)) % 2 ^ 8) < 2 ^ 64 :=
    packed_lt (fun _ => Nat.mod_lt _ (Nat.two_pow_pos 8)) 8
  rw [← Nat.mod_eq_of_lt fits, ← BitVec.toNat_ofNat]
  rfl

theorem byte_bswapWord (x : Word) {i : Nat} (hi : i < 8) :
    (bswapWord x).extractLsb' (8 * i) 8 = x.extractLsb' (8 * (7 - i)) 8 := by
  apply BitVec.eq_of_toNat_eq
  rw [BitVec.extractLsb'_toNat, BitVec.extractLsb'_toNat, Nat.shiftRight_eq_div_pow, Nat.shiftRight_eq_div_pow,
    toNat_bswapWord, packed_digit (fun _ => Nat.mod_lt _ (Nat.two_pow_pos 8)) hi]

/-! ## Extensions (R8) -/

theorem sx_toNat (n : Nat) {w : Nat} (x : BitVec w) : sx n x.toNat = (x.setWidth n).signExtend 64 := by
  rw [sx, BitVec.ofNat_toNat]

theorem zx_toNat (n : Nat) {w : Nat} (x : BitVec w) : zx n x.toNat = (x.setWidth n).setWidth 64 := by
  rw [zx, ← BitVec.toNat_setWidth, BitVec.ofNat_toNat]

/-! ## The statement -/

/-- Settles O12: each operator is `alu1` with a word function, whose bits the lemmas above give. -/
theorem unaryResults : Obligations.UnaryResults := by
  rintro s d a _ rfl h
  have op {i z} := issues_alu1_of_eq (i := i) (z := z) h
  refine ⟨?clz, ?ctz, ?popc, ?rev, ?bswap, ?extensions⟩
  case clz =>
    exact ⟨clzN 64 (s.rg a).toNat, clzN_le .., op (fun x => BitVec.ofNat 64 (clzN 64 x.toNat)) rfl rfl,
      fun _ => getLsbD_of_clzN_le _, getLsbD_clzN _⟩
  case ctz =>
    obtain ⟨le, zeros, one⟩ := ctzN_spec 64 (s.rg a).toNat
    exact ⟨_, le, op (fun x => BitVec.ofNat 64 (ctzN 64 x.toNat)) rfl rfl, zeros, one⟩
  case popc => exact op (fun x => BitVec.ofNat 64 (popcN 64 x.toNat)) rfl (by rw [popcN_eq_finRange])
  case rev => exact ⟨_, op revWord rfl rfl, fun _ => getLsbD_revWord _⟩
  case bswap => exact ⟨_, op bswapWord rfl rfl, fun _ => byte_bswapWord _⟩
  case extensions =>
    simp only [List.forall_mem_cons]
    exact ⟨op (fun x => sx 8 x.toNat) rfl (sx_toNat ..), op (fun x => sx 16 x.toNat) rfl (sx_toNat ..),
      op (fun x => sx 32 x.toNat) rfl (sx_toNat ..), op (fun x => zx 32 x.toNat) rfl (zx_toNat ..), List.forall_mem_nil _⟩

end Sys2Proof.Machine
end

section
/-! SUPPORT. Constants, bit fields and the bit network (04_scalar.md R105 to R111): the model's field arithmetic as bits. -/

namespace Sys2Proof.Machine

open Sys2Proof

/-! ## Bit fields (R107) -/

theorem fieldOf_eq_extractLsb' (x : Word) (l p : BitVec 6) :
    fieldOf x l p = (x.extractLsb' p.toNat (l.toNat + 1)).toNat := by
  rw [BitVec.extractLsb'_toNat, Nat.shiftRight_eq_div_pow, fieldOf]

/-- A word is what lies above a field, the field, and what lies below it. -/
theorem toNat_eq_above_field_below (w : Word) (lo n : Nat) :
    w.toNat = 2 ^ lo * (2 ^ n * (w.toNat / 2 ^ lo / 2 ^ n) + w.toNat / 2 ^ lo % 2 ^ n) + w.toNat % 2 ^ lo := by
  rw [Nat.div_add_mod, Nat.div_add_mod]

/-- The bits of a word whose field of n bits at `lo` has been replaced. -/
theorem getLsbD_setBits (w : Word) (lo n x : Nat) {i : Nat} (hi : i < 64) :
    (setBits w lo n x).getLsbD i = if lo ≤ i ∧ i < lo + n then x.testBit (i - lo) else w.getLsbD i := by
  have replaced : w.toNat - w.toNat / 2 ^ lo % 2 ^ n * 2 ^ lo + x % 2 ^ n * 2 ^ lo =
      2 ^ lo * (2 ^ n * (w.toNat / 2 ^ lo / 2 ^ n) + x % 2 ^ n) + w.toNat % 2 ^ lo := by
    have := toNat_eq_above_field_below w lo n
    rw [Nat.mul_add] at this ⊢
    rw [Nat.mul_comm _ (2 ^ lo), Nat.mul_comm _ (2 ^ lo)]
    omega
  rw [setBits, replaced, BitVec.getLsbD_ofNat, decide_eq_true hi, Bool.true_and,
    Nat.testBit_two_pow_mul_add _ (Nat.mod_lt _ (Nat.two_pow_pos _)),
    Nat.testBit_two_pow_mul_add _ (Nat.mod_lt _ (Nat.two_pow_pos _)), ← BitVec.testBit_toNat]
  by_cases below : i < lo
  · rw [if_pos below, if_neg (by omega), Nat.testBit_mod_two_pow, decide_eq_true below, Bool.true_and]
  · rw [if_neg below]
    by_cases inside : i - lo < n
    · rw [if_pos inside, if_pos (by omega), Nat.testBit_mod_two_pow, decide_eq_true inside, Bool.true_and]
    · rw [if_neg inside, if_neg (by omega), Nat.testBit_div_two_pow, Nat.testBit_div_two_pow]
      congr 1; omega

/-! ## Constants (R106) -/

theorem relTarget_eq_ofInt {n : Nat} (s : State) (i : BitVec n) : s.relTarget i = s.pc + BitVec.ofInt 64 (4 * i.toInt) := by
  rw [Int.mul_comm, BitVec.ofInt_mul]; rfl

/-! ## Issuing with a result that is read from the state -/

theorem issues_landG_of_eq {i : Instr} {s : State} {d : Fin 32} {srcs dsts : List RegRef} {z : Word}
    (h : s.Clear srcs dsts false) (f : State → Word) (e : exec i s = s.simple srcs dsts (fun s => s.landG 1 d (f s)))
    (v : f s = z) : Issues i s (gWrite 1 d z) :=
  issues_of_simple h e (v ▸ State.landG_eq ..)

/-! ## The parts of the statement -/

theorem constantsAndBitFields : Claims.ConstantsAndBitFields := by
  intro s d a
  refine ⟨fun h => ⟨fun k => ?li, fun i => ?addpc⟩, fun l p _ => ⟨fun h => ⟨?bfx, ?bfxs⟩, fun h => ?bfi⟩⟩
  case li => exact issues_landG_of_eq h (fun _ => k.signExtend 64) rfl rfl
  case addpc => exact issues_landG_of_eq h (·.relTarget i) rfl (relTarget_eq_ofInt s i)
  case bfx =>
    refine issues_alu1_of_eq h (fun x => zx (l.toNat + 1) (fieldOf x l p)) rfl ?_
    rw [fieldOf_eq_extractLsb', zx_toNat, BitVec.setWidth_eq]
  case bfxs =>
    refine issues_alu1_of_eq h (fun x => sx (l.toNat + 1) (fieldOf x l p)) rfl ?_
    rw [fieldOf_eq_extractLsb', sx_toNat, BitVec.setWidth_eq]
  case bfi =>
    exact ⟨_, issues_landG_of_eq h (fun s => setBits (s.rg d) p.toNat (l.toNat + 1) (s.rg a).toNat) rfl rfl,
      fun _ => getLsbD_setBits _ _ _ _⟩

/-- R109: the model's reading of a pattern entry is the one of the rule, for every byte value. -/
theorem bitNetworkRoutes : Claims.BitNetworkRoutes := by
  intro s d a p h
  exact ⟨_, issues_alu1_of_eq h (fun x => BitVec.ofNat 64 (bitsOf 64 (patternBit s.ctx.r.patterns[p] x))) rfl rfl,
    fun _ => getLsbD_bitsOf _⟩

/-- Settles O13: `li`, `addpc` and the fields by their arithmetic, `bnet` bit by bit through `patternBit`. -/
theorem constantsFieldsAndNetworks : Obligations.ConstantsFieldsAndNetworks :=
  ⟨constantsAndBitFields, bitNetworkRoutes⟩

end Sys2Proof.Machine
end

section
/-! SUPPORT. The words of the encoder (02_lines.md R41 to R43): a word is fixed bits with fields placed in them, and what stands
in a stretch of its bits. -/

namespace Sys2Proof

/-! ## Fields placed in fixed bits -/

/-- The fixed bits `n` with fields of the values `vs` placed at the spots `ps`; a spot is a lowest bit and a width. -/
def place (n : Nat) : List (Nat × Nat) → List Nat → Nat
  | p :: ps, v :: vs => place (n + v * 2 ^ p.1) ps vs
  | _, _ => n

/-- Two spots share no bit. -/
def apart (p q : Nat × Nat) : Bool := decide (q.1 + q.2 ≤ p.1) || decide (p.1 + p.2 ≤ q.1)

/-- The spots meet neither each other nor a set bit of the base. -/
def spotsApart (n : Nat) : List (Nat × Nat) → Bool
  | [] => true
  | p :: ps => n / 2 ^ p.1 % 2 ^ p.2 == 0 && ps.all (apart p) && spotsApart n ps

/-- Every value fits the width of its spot. -/
def Fits : List (Nat × Nat) → List Nat → Prop
  | p :: ps, v :: vs => v < 2 ^ p.2 ∧ Fits ps vs
  | ps, vs => ps = [] ∧ vs = []

/-- A value added where the bits are free sets its bits there and no other. -/
theorem testBit_add_of_free {n v p w : Nat} (free : n / 2 ^ p % 2 ^ w = 0) (fit : v < 2 ^ w) (i : Nat) :
    (n + v * 2 ^ p).testBit i = (n.testBit i || (decide (p ≤ i) && v.testBit (i - p))) := by
  obtain ⟨h, high⟩ := Nat.dvd_of_mod_eq_zero free
  have low : n % 2 ^ p < 2 ^ p := Nat.mod_lt _ (Nat.two_pow_pos p)
  have split : n = 2 ^ p * (2 ^ w * h) + n % 2 ^ p := by rw [← high, Nat.div_add_mod]
  have sum : n + v * 2 ^ p = 2 ^ p * (2 ^ w * h + v) + n % 2 ^ p := by
    conv => lhs; rw [split]
    ring
  rw [sum, Nat.testBit_two_pow_mul_add _ low]
  conv => rhs; rw [split, Nat.testBit_two_pow_mul_add _ low]
  by_cases below : i < p
  · simp [below, Nat.not_le.mpr below]
  · rw [if_neg below, if_neg below, Nat.testBit_two_pow_mul_add _ fit, decide_eq_true (Nat.not_lt.mp below), Bool.true_and]
    by_cases inside : i - p < w
    · simp [inside, Nat.testBit_two_pow_mul, Nat.not_le.mpr inside]
    · have v0 : v.testBit (i - p) = false :=
        Nat.testBit_lt_two_pow (fit.trans_le (Nat.pow_le_pow_right (by decide) (Nat.not_lt.mp inside)))
      simp [inside, Nat.testBit_two_pow_mul, Nat.not_lt.mp inside, v0]

/-- Two numbers with the same bits in a stretch have the same value there. -/
theorem stretch_congr {a b lo n : Nat} (h : ∀ i, lo ≤ i → i < lo + n → a.testBit i = b.testBit i) :
    a / 2 ^ lo % 2 ^ n = b / 2 ^ lo % 2 ^ n := by
  apply Nat.eq_of_testBit_eq
  intro i
  simp only [Nat.testBit_mod_two_pow, Nat.testBit_div_two_pow]
  by_cases hi : i < n
  · simp only [hi, decide_true, Bool.true_and]
    exact h _ (by omega) (by omega)
  · simp [hi]

/-- A field placed on free bits leaves every stretch apart from it alone. -/
theorem stretch_add {n v : Nat} {p q : Nat × Nat} (free : n / 2 ^ p.1 % 2 ^ p.2 = 0) (fit : v < 2 ^ p.2) (h : apart p q = true) :
    (n + v * 2 ^ p.1) / 2 ^ q.1 % 2 ^ q.2 = n / 2 ^ q.1 % 2 ^ q.2 := by
  simp only [apart, Bool.or_eq_true, decide_eq_true_eq] at h
  refine stretch_congr fun i l u => ?_
  rw [testBit_add_of_free free fit]
  rcases h with above | below
  · rw [decide_eq_false (by omega), Bool.false_and, Bool.or_false]
  · rw [Nat.testBit_lt_two_pow (fit.trans_le (Nat.pow_le_pow_right (by decide) (by omega))), Bool.and_false, Bool.or_false]

theorem spotsApart_add {n v : Nat} {p : Nat × Nat} {ps : List (Nat × Nat)} (free : n / 2 ^ p.1 % 2 ^ p.2 = 0)
    (fit : v < 2 ^ p.2) (others : ps.all (apart p) = true) (rest : spotsApart n ps = true) :
    spotsApart (n + v * 2 ^ p.1) ps = true := by
  induction ps with
  | nil => rfl
  | cons q ps ih =>
    simp only [spotsApart, List.all_cons, Bool.and_eq_true, beq_iff_eq] at rest others ⊢
    obtain ⟨⟨freeq, othersq⟩, rest⟩ := rest
    exact ⟨⟨(stretch_add free fit others.1).trans freeq, othersq⟩, ih others.2 rest⟩

/-- A stretch that no field meets holds the fixed bits. -/
theorem place_fixed {n : Nat} {ps : List (Nat × Nat)} {vs : List Nat} {q : Nat × Nat} (a : spotsApart n ps = true)
    (fit : Fits ps vs) (h : ps.all (apart · q) = true) : place n ps vs / 2 ^ q.1 % 2 ^ q.2 = n / 2 ^ q.1 % 2 ^ q.2 := by
  induction ps generalizing n vs with
  | nil => rfl
  | cons p ps ih =>
    cases vs with
    | nil => rfl
    | cons v vs =>
      obtain ⟨fitv, fit⟩ := fit
      simp only [spotsApart, List.all_cons, Bool.and_eq_true, beq_iff_eq] at a h
      obtain ⟨⟨free, others⟩, rest⟩ := a
      exact (ih (spotsApart_add free fitv others rest) fit h.2).trans (stretch_add free fitv h.1)

theorem apart_comm (p q : Nat × Nat) : apart p q = apart q p := Bool.or_comm ..

/-- A field holds its value. -/
theorem place_field {n v : Nat} {ps : List (Nat × Nat)} {vs : List Nat} {q : Nat × Nat} (a : spotsApart n ps = true)
    (fit : Fits ps vs) (i : Nat) (hp : ps[i]? = some q) (hv : vs[i]? = some v) : place n ps vs / 2 ^ q.1 % 2 ^ q.2 = v := by
  induction ps generalizing n vs i with
  | nil => simp at hp
  | cons p ps ih =>
    cases vs with
    | nil => simp at hv
    | cons x vs =>
      obtain ⟨fitx, fit⟩ := fit
      simp only [spotsApart, Bool.and_eq_true, beq_iff_eq] at a
      obtain ⟨⟨free, others⟩, rest⟩ := a
      have rest' := spotsApart_add free fitx others rest
      cases i with
      | succ i => exact ih rest' fit i hp hv
      | zero =>
        obtain rfl : p = q := Option.some.inj hp
        obtain rfl : x = v := Option.some.inj hv
        refine (place_fixed rest' fit (by simpa only [apart_comm] using others)).trans ?_
        rw [Nat.add_mul_div_right _ _ (Nat.two_pow_pos _), Nat.add_mod, free, Nat.zero_add, Nat.mod_mod, Nat.mod_eq_of_lt fitx]

/-! ## Words -/

/-- The word `w` has the fixed bits `n` and fields of the values `vs` at the spots `ps`. -/
structure Encoded (w : BitVec 32) (n : Nat) (ps : List (Nat × Nat)) (vs : List Nat) : Prop where
  word : w = BitVec.ofNat 32 (place n ps vs)
  spots : spotsApart n ps = true
  fit : Fits ps vs

namespace Encoded

variable {w : BitVec 32} {n : Nat} {ps : List (Nat × Nat)} {vs : List Nat}

theorem stretch (e : Encoded w n ps vs) {lo k : Nat} (h : lo + k ≤ 32) :
    w.toNat / 2 ^ lo % 2 ^ k = place n ps vs / 2 ^ lo % 2 ^ k := by
  rw [e.word, BitVec.toNat_ofNat]
  refine stretch_congr fun i _ u => ?_
  rw [Nat.testBit_mod_two_pow, decide_eq_true (by omega), Bool.true_and]

/-- A stretch apart from the fields reads as the fixed bits. -/
theorem fld_eq (e : Encoded w n ps vs) (lo k c : Nat)
    (h : (decide (lo + k ≤ 32) && ps.all (apart · (lo, k)) && n / 2 ^ lo % 2 ^ k == c) = true) : fld w lo k = c := by
  simp only [Bool.and_eq_true, decide_eq_true_eq, beq_iff_eq] at h
  obtain ⟨⟨l, a⟩, v⟩ := h
  exact (e.stretch l).trans ((place_fixed (q := (lo, k)) e.spots e.fit a).trans v)

theorem field (e : Encoded w n ps vs) (i : Nat) {lo k v : Nat} (hp : (ps[i]? == some (lo, k) && decide (lo + k ≤ 32)) = true)
    (hv : vs[i]? = some v) : w.toNat / 2 ^ lo % 2 ^ k = v := by
  simp only [Bool.and_eq_true, decide_eq_true_eq, beq_iff_eq] at hp
  exact (e.stretch hp.2).trans (place_field (q := (lo, k)) e.spots e.fit i hp.1 hv)

theorem fin1_eq (e : Encoded w n ps vs) (i lo : Nat) {x : Fin 2} (hp : (ps[i]? == some (lo, 1) && decide (lo + 1 ≤ 32)) = true)
    (hv : vs[i]? = some x.val) : fin1 w lo = x := Fin.ext (e.field i hp hv)

theorem fin2_eq (e : Encoded w n ps vs) (i lo : Nat) {x : Fin 4} (hp : (ps[i]? == some (lo, 2) && decide (lo + 2 ≤ 32)) = true)
    (hv : vs[i]? = some x.val) : fin2 w lo = x := Fin.ext (e.field i hp hv)

theorem fin3_eq (e : Encoded w n ps vs) (i lo : Nat) {x : Fin 8} (hp : (ps[i]? == some (lo, 3) && decide (lo + 3 ≤ 32)) = true)
    (hv : vs[i]? = some x.val) : fin3 w lo = x := Fin.ext (e.field i hp hv)

theorem fin4_eq (e : Encoded w n ps vs) (i lo : Nat) {x : Fin 16} (hp : (ps[i]? == some (lo, 4) && decide (lo + 4 ≤ 32)) = true)
    (hv : vs[i]? = some x.val) : fin4 w lo = x := Fin.ext (e.field i hp hv)

theorem fin5_eq (e : Encoded w n ps vs) (i lo : Nat) {x : Fin 32} (hp : (ps[i]? == some (lo, 5) && decide (lo + 5 ≤ 32)) = true)
    (hv : vs[i]? = some x.val) : fin5 w lo = x := Fin.ext (e.field i hp hv)

theorem extract_eq (e : Encoded w n ps vs) (i lo : Nat) {k : Nat} {x : BitVec k}
    (hp : (ps[i]? == some (lo, k) && decide (lo + k ≤ 32)) = true) (hv : vs[i]? = some x.toNat) : w.extractLsb' lo k = x :=
  BitVec.eq_of_toNat_eq (by rw [BitVec.extractLsb'_toNat, Nat.shiftRight_eq_div_pow]; exact e.field i hp hv)

end Encoded

/-- Reading the words of the instruction gives it back, on each sequencer that has it. -/
def RoundTrip (i : Instr) : Prop := ∀ q : Seq, i.wellFormed q = true → decode q (encode i) (encodeK i) = some i

section
variable {i : Instr} {r : Row} {base : Nat} {ps : List (Nat × Nat)} {vs : List Nat}

/-- An instruction whose word has the row `r` on every sequencer that has it, and whose operands `r` reads from the word. -/
theorem roundTrip (e : Encoded (encode i) base ps vs) (built : ∀ w, Encoded w base ps vs → r.build w (encodeK i) = i)
    (row : ∀ w, Encoded w base ps vs → ∀ q ∈ i.seqs, rowOf q w = some r) : RoundTrip i := by
  intro q h
  simp only [Instr.wellFormed, Bool.and_eq_true, List.contains_iff_mem] at h
  rw [decode, row _ e q h.1]
  exact congrArg some (built _ e)

theorem roundTrip_aw (h : i.seqs = [.a, .w]) (e : Encoded (encode i) base ps vs)
    (built : ∀ w, Encoded w base ps vs → r.build w (encodeK i) = i) (row : ∀ w, Encoded w base ps vs → rowA w = some r ∧ rowW w = some r) :
    RoundTrip i := roundTrip e built (by rw [h]; simpa [rowOf] using row)

theorem roundTrip_axw (h : i.seqs = [.a, .x, .w]) (e : Encoded (encode i) base ps vs)
    (built : ∀ w, Encoded w base ps vs → r.build w (encodeK i) = i) (row : ∀ w, Encoded w base ps vs → rowA w = some r ∧ rowX w = some r ∧ rowW w = some r) :
    RoundTrip i := roundTrip e built (by rw [h]; simpa [rowOf] using row)

theorem roundTrip_a (h : i.seqs = [.a]) (e : Encoded (encode i) base ps vs)
    (built : ∀ w, Encoded w base ps vs → r.build w (encodeK i) = i) (row : ∀ w, Encoded w base ps vs → rowA w = some r) :
    RoundTrip i := roundTrip e built (by rw [h]; simpa [rowOf] using row)

theorem roundTrip_saw (h : i.seqs = [.s, .a, .w]) (e : Encoded (encode i) base ps vs)
    (built : ∀ w, Encoded w base ps vs → r.build w (encodeK i) = i) (row : ∀ w, Encoded w base ps vs → rowS w = some r ∧ rowA w = some r ∧ rowW w = some r) :
    RoundTrip i := roundTrip e built (by rw [h]; simpa [rowOf] using row)

theorem roundTrip_saxw (h : i.seqs = [.s, .a, .x, .w]) (e : Encoded (encode i) base ps vs)
    (built : ∀ w, Encoded w base ps vs → r.build w (encodeK i) = i) (row : ∀ w, Encoded w base ps vs → rowS w = some r ∧ rowA w = some r ∧ rowX w = some r ∧ rowW w = some r) :
    RoundTrip i := roundTrip e built (by rw [h]; simpa [rowOf] using row)

theorem roundTrip_s (h : i.seqs = [.s]) (e : Encoded (encode i) base ps vs)
    (built : ∀ w, Encoded w base ps vs → r.build w (encodeK i) = i) (row : ∀ w, Encoded w base ps vs → rowS w = some r) :
    RoundTrip i := roundTrip e built (by rw [h]; simpa [rowOf] using row)

theorem roundTrip_w (h : i.seqs = [.w]) (e : Encoded (encode i) base ps vs)
    (built : ∀ w, Encoded w base ps vs → r.build w (encodeK i) = i) (row : ∀ w, Encoded w base ps vs → rowW w = some r) :
    RoundTrip i := roundTrip e built (by rw [h]; simpa [rowOf] using row)

theorem roundTrip_x (h : i.seqs = [.x]) (e : Encoded (encode i) base ps vs)
    (built : ∀ w, Encoded w base ps vs → r.build w (encodeK i) = i) (row : ∀ w, Encoded w base ps vs → rowX w = some r) :
    RoundTrip i := roundTrip e built (by rw [h]; simpa [rowOf] using row)

end

theorem Encoded.fields_5at21_5at16_5at11 {u : BitVec 32} {base : Nat} {d : Fin 32} {a : Fin 32} {b : Fin 32}
    (enc : Encoded u base [(21, 5), (16, 5), (11, 5)] [d.val, a.val, b.val]) :
    fin5 u 21 = d ∧ fin5 u 16 = a ∧ fin5 u 11 = b :=
  ⟨enc.fin5_eq 0 21 (by decide) rfl, enc.fin5_eq 1 16 (by decide) rfl, enc.fin5_eq 2 11 (by decide) rfl⟩

theorem roundTrip_5at21_5at16_5at11 (d : Fin 32) (a : Fin 32) (b : Fin 32) :
    RoundTrip (.add d a b) ∧ RoundTrip (.sub d a b) ∧ RoundTrip (.mul d a b) ∧ RoundTrip (.mulh d a b) ∧
    RoundTrip (.mulhn d a b) ∧ RoundTrip (.div d a b) ∧ RoundTrip (.divn d a b) ∧ RoundTrip (.rem d a b) ∧
    RoundTrip (.remn d a b) ∧ RoundTrip (.and d a b) ∧ RoundTrip (.or d a b) ∧ RoundTrip (.xor d a b) ∧
    RoundTrip (.shl d a b) ∧ RoundTrip (.shr d a b) ∧ RoundTrip (.sra d a b) ∧ RoundTrip (.slt d a b) ∧
    RoundTrip (.sltn d a b) ∧ RoundTrip (.min d a b) ∧ RoundTrip (.max d a b) ∧ RoundTrip (.minn d a b) ∧
    RoundTrip (.maxn d a b) ∧ RoundTrip (.sel d a b) ∧ RoundTrip (.fadd d a b) ∧ RoundTrip (.fsub d a b) ∧
    RoundTrip (.fmul d a b) ∧ RoundTrip (.fmin d a b) ∧ RoundTrip (.fmax d a b) ∧ RoundTrip (.feq d a b) ∧
    RoundTrip (.flt d a b) ∧ RoundTrip (.fle d a b) ∧ RoundTrip (.fmadd d a b) := by
  have fits : Fits [(21, 5), (16, 5), (11, 5)] [d.val, a.val, b.val] := ⟨d.isLt, a.isLt, b.isLt, rfl, rfl⟩
  refine ⟨?_, ?_, ?_, ?_, ?_, ?_, ?_, ?_, ?_, ?_, ?_, ?_, ?_, ?_, ?_, ?_, ?_, ?_, ?_, ?_, ?_, ?_, ?_, ?_, ?_, ?_, ?_, ?_, ?_, ?_, ?_⟩
  · exact roundTrip_saw (r := .add) (base := 0x40000000) rfl ⟨rfl, by decide, fits⟩
      (fun _ enc => by obtain ⟨rfl, rfl, rfl⟩ := enc.fields_5at21_5at16_5at11; rfl)
      (fun _ enc => ⟨by simp only [rowS, enc.fld_eq 26 6 16 (by decide), decS10, enc.fld_eq 0 11 0 (by decide)],
      by simp only [rowA, enc.fld_eq 26 6 16 (by decide), decAW10, enc.fld_eq 0 11 0 (by decide)],
      by simp only [rowW, enc.fld_eq 26 6 16 (by decide), decAW10, enc.fld_eq 0 11 0 (by decide)]⟩)
  · exact roundTrip_saw (r := .sub) (base := 0x40000001) rfl ⟨rfl, by decide, fits⟩
      (fun _ enc => by obtain ⟨rfl, rfl, rfl⟩ := enc.fields_5at21_5at16_5at11; rfl)
      (fun _ enc => ⟨by simp only [rowS, enc.fld_eq 26 6 16 (by decide), decS10, enc.fld_eq 0 11 1 (by decide)],
      by simp only [rowA, enc.fld_eq 26 6 16 (by decide), decAW10, enc.fld_eq 0 11 1 (by decide)],
      by simp only [rowW, enc.fld_eq 26 6 16 (by decide), decAW10, enc.fld_eq 0 11 1 (by decide)]⟩)
  · exact roundTrip_saw (r := .mul) (base := 0x40000002) rfl ⟨rfl, by decide, fits⟩
      (fun _ enc => by obtain ⟨rfl, rfl, rfl⟩ := enc.fields_5at21_5at16_5at11; rfl)
      (fun _ enc => ⟨by simp only [rowS, enc.fld_eq 26 6 16 (by decide), decS10, enc.fld_eq 0 11 2 (by decide)],
      by simp only [rowA, enc.fld_eq 26 6 16 (by decide), decAW10, enc.fld_eq 0 11 2 (by decide)],
      by simp only [rowW, enc.fld_eq 26 6 16 (by decide), decAW10, enc.fld_eq 0 11 2 (by decide)]⟩)
  · exact roundTrip_s (r := .mulh) (base := 0x40000003) rfl ⟨rfl, by decide, fits⟩
      (fun _ enc => by obtain ⟨rfl, rfl, rfl⟩ := enc.fields_5at21_5at16_5at11; rfl)
      (fun _ enc => by simp only [rowS, enc.fld_eq 26 6 16 (by decide), decS10, enc.fld_eq 0 11 3 (by decide)])
  · exact roundTrip_s (r := .mulhn) (base := 0x40000004) rfl ⟨rfl, by decide, fits⟩
      (fun _ enc => by obtain ⟨rfl, rfl, rfl⟩ := enc.fields_5at21_5at16_5at11; rfl)
      (fun _ enc => by simp only [rowS, enc.fld_eq 26 6 16 (by decide), decS10, enc.fld_eq 0 11 4 (by decide)])
  · exact roundTrip_s (r := .div) (base := 0x40000005) rfl ⟨rfl, by decide, fits⟩
      (fun _ enc => by obtain ⟨rfl, rfl, rfl⟩ := enc.fields_5at21_5at16_5at11; rfl)
      (fun _ enc => by simp only [rowS, enc.fld_eq 26 6 16 (by decide), decS10, enc.fld_eq 0 11 5 (by decide)])
  · exact roundTrip_s (r := .divn) (base := 0x40000006) rfl ⟨rfl, by decide, fits⟩
      (fun _ enc => by obtain ⟨rfl, rfl, rfl⟩ := enc.fields_5at21_5at16_5at11; rfl)
      (fun _ enc => by simp only [rowS, enc.fld_eq 26 6 16 (by decide), decS10, enc.fld_eq 0 11 6 (by decide)])
  · exact roundTrip_s (r := .rem) (base := 0x40000007) rfl ⟨rfl, by decide, fits⟩
      (fun _ enc => by obtain ⟨rfl, rfl, rfl⟩ := enc.fields_5at21_5at16_5at11; rfl)
      (fun _ enc => by simp only [rowS, enc.fld_eq 26 6 16 (by decide), decS10, enc.fld_eq 0 11 7 (by decide)])
  · exact roundTrip_s (r := .remn) (base := 0x40000008) rfl ⟨rfl, by decide, fits⟩
      (fun _ enc => by obtain ⟨rfl, rfl, rfl⟩ := enc.fields_5at21_5at16_5at11; rfl)
      (fun _ enc => by simp only [rowS, enc.fld_eq 26 6 16 (by decide), decS10, enc.fld_eq 0 11 8 (by decide)])
  · exact roundTrip_saw (r := .and) (base := 0x40000009) rfl ⟨rfl, by decide, fits⟩
      (fun _ enc => by obtain ⟨rfl, rfl, rfl⟩ := enc.fields_5at21_5at16_5at11; rfl)
      (fun _ enc => ⟨by simp only [rowS, enc.fld_eq 26 6 16 (by decide), decS10, enc.fld_eq 0 11 9 (by decide)],
      by simp only [rowA, enc.fld_eq 26 6 16 (by decide), decAW10, enc.fld_eq 0 11 9 (by decide)],
      by simp only [rowW, enc.fld_eq 26 6 16 (by decide), decAW10, enc.fld_eq 0 11 9 (by decide)]⟩)
  · exact roundTrip_saw (r := .or) (base := 0x4000000A) rfl ⟨rfl, by decide, fits⟩
      (fun _ enc => by obtain ⟨rfl, rfl, rfl⟩ := enc.fields_5at21_5at16_5at11; rfl)
      (fun _ enc => ⟨by simp only [rowS, enc.fld_eq 26 6 16 (by decide), decS10, enc.fld_eq 0 11 10 (by decide)],
      by simp only [rowA, enc.fld_eq 26 6 16 (by decide), decAW10, enc.fld_eq 0 11 10 (by decide)],
      by simp only [rowW, enc.fld_eq 26 6 16 (by decide), decAW10, enc.fld_eq 0 11 10 (by decide)]⟩)
  · exact roundTrip_saw (r := .xor) (base := 0x4000000B) rfl ⟨rfl, by decide, fits⟩
      (fun _ enc => by obtain ⟨rfl, rfl, rfl⟩ := enc.fields_5at21_5at16_5at11; rfl)
      (fun _ enc => ⟨by simp only [rowS, enc.fld_eq 26 6 16 (by decide), decS10, enc.fld_eq 0 11 11 (by decide)],
      by simp only [rowA, enc.fld_eq 26 6 16 (by decide), decAW10, enc.fld_eq 0 11 11 (by decide)],
      by simp only [rowW, enc.fld_eq 26 6 16 (by decide), decAW10, enc.fld_eq 0 11 11 (by decide)]⟩)
  · exact roundTrip_saw (r := .shl) (base := 0x4000000C) rfl ⟨rfl, by decide, fits⟩
      (fun _ enc => by obtain ⟨rfl, rfl, rfl⟩ := enc.fields_5at21_5at16_5at11; rfl)
      (fun _ enc => ⟨by simp only [rowS, enc.fld_eq 26 6 16 (by decide), decS10, enc.fld_eq 0 11 12 (by decide)],
      by simp only [rowA, enc.fld_eq 26 6 16 (by decide), decAW10, enc.fld_eq 0 11 12 (by decide)],
      by simp only [rowW, enc.fld_eq 26 6 16 (by decide), decAW10, enc.fld_eq 0 11 12 (by decide)]⟩)
  · exact roundTrip_saw (r := .shr) (base := 0x4000000D) rfl ⟨rfl, by decide, fits⟩
      (fun _ enc => by obtain ⟨rfl, rfl, rfl⟩ := enc.fields_5at21_5at16_5at11; rfl)
      (fun _ enc => ⟨by simp only [rowS, enc.fld_eq 26 6 16 (by decide), decS10, enc.fld_eq 0 11 13 (by decide)],
      by simp only [rowA, enc.fld_eq 26 6 16 (by decide), decAW10, enc.fld_eq 0 11 13 (by decide)],
      by simp only [rowW, enc.fld_eq 26 6 16 (by decide), decAW10, enc.fld_eq 0 11 13 (by decide)]⟩)
  · exact roundTrip_saw (r := .sra) (base := 0x4000000E) rfl ⟨rfl, by decide, fits⟩
      (fun _ enc => by obtain ⟨rfl, rfl, rfl⟩ := enc.fields_5at21_5at16_5at11; rfl)
      (fun _ enc => ⟨by simp only [rowS, enc.fld_eq 26 6 16 (by decide), decS10, enc.fld_eq 0 11 14 (by decide)],
      by simp only [rowA, enc.fld_eq 26 6 16 (by decide), decAW10, enc.fld_eq 0 11 14 (by decide)],
      by simp only [rowW, enc.fld_eq 26 6 16 (by decide), decAW10, enc.fld_eq 0 11 14 (by decide)]⟩)
  · exact roundTrip_s (r := .slt) (base := 0x4000000F) rfl ⟨rfl, by decide, fits⟩
      (fun _ enc => by obtain ⟨rfl, rfl, rfl⟩ := enc.fields_5at21_5at16_5at11; rfl)
      (fun _ enc => by simp only [rowS, enc.fld_eq 26 6 16 (by decide), decS10, enc.fld_eq 0 11 15 (by decide)])
  · exact roundTrip_s (r := .sltn) (base := 0x40000010) rfl ⟨rfl, by decide, fits⟩
      (fun _ enc => by obtain ⟨rfl, rfl, rfl⟩ := enc.fields_5at21_5at16_5at11; rfl)
      (fun _ enc => by simp only [rowS, enc.fld_eq 26 6 16 (by decide), decS10, enc.fld_eq 0 11 16 (by decide)])
  · exact roundTrip_s (r := .min) (base := 0x40000011) rfl ⟨rfl, by decide, fits⟩
      (fun _ enc => by obtain ⟨rfl, rfl, rfl⟩ := enc.fields_5at21_5at16_5at11; rfl)
      (fun _ enc => by simp only [rowS, enc.fld_eq 26 6 16 (by decide), decS10, enc.fld_eq 0 11 17 (by decide)])
  · exact roundTrip_s (r := .max) (base := 0x40000012) rfl ⟨rfl, by decide, fits⟩
      (fun _ enc => by obtain ⟨rfl, rfl, rfl⟩ := enc.fields_5at21_5at16_5at11; rfl)
      (fun _ enc => by simp only [rowS, enc.fld_eq 26 6 16 (by decide), decS10, enc.fld_eq 0 11 18 (by decide)])
  · exact roundTrip_s (r := .minn) (base := 0x40000013) rfl ⟨rfl, by decide, fits⟩
      (fun _ enc => by obtain ⟨rfl, rfl, rfl⟩ := enc.fields_5at21_5at16_5at11; rfl)
      (fun _ enc => by simp only [rowS, enc.fld_eq 26 6 16 (by decide), decS10, enc.fld_eq 0 11 19 (by decide)])
  · exact roundTrip_s (r := .maxn) (base := 0x40000014) rfl ⟨rfl, by decide, fits⟩
      (fun _ enc => by obtain ⟨rfl, rfl, rfl⟩ := enc.fields_5at21_5at16_5at11; rfl)
      (fun _ enc => by simp only [rowS, enc.fld_eq 26 6 16 (by decide), decS10, enc.fld_eq 0 11 20 (by decide)])
  · exact roundTrip_saw (r := .sel) (base := 0x40000015) rfl ⟨rfl, by decide, fits⟩
      (fun _ enc => by obtain ⟨rfl, rfl, rfl⟩ := enc.fields_5at21_5at16_5at11; rfl)
      (fun _ enc => ⟨by simp only [rowS, enc.fld_eq 26 6 16 (by decide), decS10, enc.fld_eq 0 11 21 (by decide)],
      by simp only [rowA, enc.fld_eq 26 6 16 (by decide), decAW10, enc.fld_eq 0 11 21 (by decide)],
      by simp only [rowW, enc.fld_eq 26 6 16 (by decide), decAW10, enc.fld_eq 0 11 21 (by decide)]⟩)
  · exact roundTrip_s (r := .fadd) (base := 0x74000000) rfl ⟨rfl, by decide, fits⟩
      (fun _ enc => by obtain ⟨rfl, rfl, rfl⟩ := enc.fields_5at21_5at16_5at11; rfl)
      (fun _ enc => by simp only [rowS, enc.fld_eq 26 6 29 (by decide), decS1D, enc.fld_eq 0 11 0 (by decide)])
  · exact roundTrip_s (r := .fsub) (base := 0x74000001) rfl ⟨rfl, by decide, fits⟩
      (fun _ enc => by obtain ⟨rfl, rfl, rfl⟩ := enc.fields_5at21_5at16_5at11; rfl)
      (fun _ enc => by simp only [rowS, enc.fld_eq 26 6 29 (by decide), decS1D, enc.fld_eq 0 11 1 (by decide)])
  · exact roundTrip_s (r := .fmul) (base := 0x74000002) rfl ⟨rfl, by decide, fits⟩
      (fun _ enc => by obtain ⟨rfl, rfl, rfl⟩ := enc.fields_5at21_5at16_5at11; rfl)
      (fun _ enc => by simp only [rowS, enc.fld_eq 26 6 29 (by decide), decS1D, enc.fld_eq 0 11 2 (by decide)])
  · exact roundTrip_s (r := .fmin) (base := 0x74000003) rfl ⟨rfl, by decide, fits⟩
      (fun _ enc => by obtain ⟨rfl, rfl, rfl⟩ := enc.fields_5at21_5at16_5at11; rfl)
      (fun _ enc => by simp only [rowS, enc.fld_eq 26 6 29 (by decide), decS1D, enc.fld_eq 0 11 3 (by decide)])
  · exact roundTrip_s (r := .fmax) (base := 0x74000004) rfl ⟨rfl, by decide, fits⟩
      (fun _ enc => by obtain ⟨rfl, rfl, rfl⟩ := enc.fields_5at21_5at16_5at11; rfl)
      (fun _ enc => by simp only [rowS, enc.fld_eq 26 6 29 (by decide), decS1D, enc.fld_eq 0 11 4 (by decide)])
  · exact roundTrip_s (r := .feq) (base := 0x74000005) rfl ⟨rfl, by decide, fits⟩
      (fun _ enc => by obtain ⟨rfl, rfl, rfl⟩ := enc.fields_5at21_5at16_5at11; rfl)
      (fun _ enc => by simp only [rowS, enc.fld_eq 26 6 29 (by decide), decS1D, enc.fld_eq 0 11 5 (by decide)])
  · exact roundTrip_s (r := .flt) (base := 0x74000006) rfl ⟨rfl, by decide, fits⟩
      (fun _ enc => by obtain ⟨rfl, rfl, rfl⟩ := enc.fields_5at21_5at16_5at11; rfl)
      (fun _ enc => by simp only [rowS, enc.fld_eq 26 6 29 (by decide), decS1D, enc.fld_eq 0 11 6 (by decide)])
  · exact roundTrip_s (r := .fle) (base := 0x74000007) rfl ⟨rfl, by decide, fits⟩
      (fun _ enc => by obtain ⟨rfl, rfl, rfl⟩ := enc.fields_5at21_5at16_5at11; rfl)
      (fun _ enc => by simp only [rowS, enc.fld_eq 26 6 29 (by decide), decS1D, enc.fld_eq 0 11 7 (by decide)])
  · exact roundTrip_s (r := .fmadd) (base := 0x78000000) rfl ⟨rfl, by decide, fits⟩
      (fun _ enc => by obtain ⟨rfl, rfl, rfl⟩ := enc.fields_5at21_5at16_5at11; rfl)
      (fun _ enc => by simp only [rowS, enc.fld_eq 26 6 30 (by decide), decS1E, enc.fld_eq 0 11 0 (by decide), ↓reduceIte])

theorem Encoded.fields_5at21_5at16_2at14_4at10_10at0 {u : BitVec 32} {base : Nat} {d : Fin 32} {a : Fin 32} {m : Fin 4} {s : Fin 16} {i : BitVec 10}
    (enc : Encoded u base [(21, 5), (16, 5), (14, 2), (10, 4), (0, 10)] [d.val, a.val, m.val, s.val, i.toNat]) :
    fin5 u 21 = d ∧ fin5 u 16 = a ∧ fin2 u 14 = m ∧ fin4 u 10 = s ∧ u.extractLsb' 0 10 = i :=
  ⟨enc.fin5_eq 0 21 (by decide) rfl, enc.fin5_eq 1 16 (by decide) rfl, enc.fin2_eq 2 14 (by decide) rfl, enc.fin4_eq 3 10 (by decide) rfl, enc.extract_eq 4 0 (by decide) rfl⟩

theorem roundTrip_5at21_5at16_2at14_4at10_10at0 (d : Fin 32) (a : Fin 32) (m : Fin 4) (s : Fin 16) (i : BitVec 10) :
    RoundTrip (.ldB d a m s i) ∧ RoundTrip (.ldH d a m s i) ∧ RoundTrip (.ldW d a m s i) ∧ RoundTrip (.ldD d a m s i) ∧
    RoundTrip (.ldBn d a m s i) ∧ RoundTrip (.ldHn d a m s i) ∧ RoundTrip (.ldWn d a m s i) ∧ RoundTrip (.ldV d a m s i) ∧
    RoundTrip (.ldfe d a m s i) ∧ RoundTrip (.ldff d a m s i) ∧ RoundTrip (.stB d a m s i) ∧ RoundTrip (.stH d a m s i) ∧
    RoundTrip (.stW d a m s i) ∧ RoundTrip (.stD d a m s i) ∧ RoundTrip (.stV d a m s i) ∧ RoundTrip (.stfe d a m s i) ∧
    RoundTrip (.stff d a m s i) := by
  have fits : Fits [(21, 5), (16, 5), (14, 2), (10, 4), (0, 10)] [d.val, a.val, m.val, s.val, i.toNat] := ⟨d.isLt, a.isLt, m.isLt, s.isLt, i.isLt, rfl, rfl⟩
  refine ⟨?_, ?_, ?_, ?_, ?_, ?_, ?_, ?_, ?_, ?_, ?_, ?_, ?_, ?_, ?_, ?_, ?_⟩
  · exact roundTrip_a (r := .ldB) (base := 0x80000000) rfl ⟨rfl, by decide, fits⟩
      (fun _ enc => by obtain ⟨rfl, rfl, rfl, rfl, rfl⟩ := enc.fields_5at21_5at16_2at14_4at10_10at0; rfl)
      (fun _ enc => by simp only [rowA, enc.fld_eq 26 6 32 (by decide)])
  · exact roundTrip_a (r := .ldH) (base := 0x84000000) rfl ⟨rfl, by decide, fits⟩
      (fun _ enc => by obtain ⟨rfl, rfl, rfl, rfl, rfl⟩ := enc.fields_5at21_5at16_2at14_4at10_10at0; rfl)
      (fun _ enc => by simp only [rowA, enc.fld_eq 26 6 33 (by decide)])
  · exact roundTrip_a (r := .ldW) (base := 0x88000000) rfl ⟨rfl, by decide, fits⟩
      (fun _ enc => by obtain ⟨rfl, rfl, rfl, rfl, rfl⟩ := enc.fields_5at21_5at16_2at14_4at10_10at0; rfl)
      (fun _ enc => by simp only [rowA, enc.fld_eq 26 6 34 (by decide)])
  · exact roundTrip_a (r := .ldD) (base := 0x8C000000) rfl ⟨rfl, by decide, fits⟩
      (fun _ enc => by obtain ⟨rfl, rfl, rfl, rfl, rfl⟩ := enc.fields_5at21_5at16_2at14_4at10_10at0; rfl)
      (fun _ enc => by simp only [rowA, enc.fld_eq 26 6 35 (by decide)])
  · exact roundTrip_a (r := .ldBn) (base := 0x90000000) rfl ⟨rfl, by decide, fits⟩
      (fun _ enc => by obtain ⟨rfl, rfl, rfl, rfl, rfl⟩ := enc.fields_5at21_5at16_2at14_4at10_10at0; rfl)
      (fun _ enc => by simp only [rowA, enc.fld_eq 26 6 36 (by decide)])
  · exact roundTrip_a (r := .ldHn) (base := 0x94000000) rfl ⟨rfl, by decide, fits⟩
      (fun _ enc => by obtain ⟨rfl, rfl, rfl, rfl, rfl⟩ := enc.fields_5at21_5at16_2at14_4at10_10at0; rfl)
      (fun _ enc => by simp only [rowA, enc.fld_eq 26 6 37 (by decide)])
  · exact roundTrip_a (r := .ldWn) (base := 0x98000000) rfl ⟨rfl, by decide, fits⟩
      (fun _ enc => by obtain ⟨rfl, rfl, rfl, rfl, rfl⟩ := enc.fields_5at21_5at16_2at14_4at10_10at0; rfl)
      (fun _ enc => by simp only [rowA, enc.fld_eq 26 6 38 (by decide)])
  · exact roundTrip_a (r := .ldV) (base := 0x9C000000) rfl ⟨rfl, by decide, fits⟩
      (fun _ enc => by obtain ⟨rfl, rfl, rfl, rfl, rfl⟩ := enc.fields_5at21_5at16_2at14_4at10_10at0; rfl)
      (fun _ enc => by simp only [rowA, enc.fld_eq 26 6 39 (by decide)])
  · exact roundTrip_a (r := .ldfe) (base := 0xAC000000) rfl ⟨rfl, by decide, fits⟩
      (fun _ enc => by obtain ⟨rfl, rfl, rfl, rfl, rfl⟩ := enc.fields_5at21_5at16_2at14_4at10_10at0; rfl)
      (fun _ enc => by simp only [rowA, enc.fld_eq 26 6 43 (by decide)])
  · exact roundTrip_a (r := .ldff) (base := 0xB0000000) rfl ⟨rfl, by decide, fits⟩
      (fun _ enc => by obtain ⟨rfl, rfl, rfl, rfl, rfl⟩ := enc.fields_5at21_5at16_2at14_4at10_10at0; rfl)
      (fun _ enc => by simp only [rowA, enc.fld_eq 26 6 44 (by decide)])
  · exact roundTrip_w (r := .stB) (base := 0x80000000) rfl ⟨rfl, by decide, fits⟩
      (fun _ enc => by obtain ⟨rfl, rfl, rfl, rfl, rfl⟩ := enc.fields_5at21_5at16_2at14_4at10_10at0; rfl)
      (fun _ enc => by simp only [rowW, enc.fld_eq 26 6 32 (by decide)])
  · exact roundTrip_w (r := .stH) (base := 0x84000000) rfl ⟨rfl, by decide, fits⟩
      (fun _ enc => by obtain ⟨rfl, rfl, rfl, rfl, rfl⟩ := enc.fields_5at21_5at16_2at14_4at10_10at0; rfl)
      (fun _ enc => by simp only [rowW, enc.fld_eq 26 6 33 (by decide)])
  · exact roundTrip_w (r := .stW) (base := 0x88000000) rfl ⟨rfl, by decide, fits⟩
      (fun _ enc => by obtain ⟨rfl, rfl, rfl, rfl, rfl⟩ := enc.fields_5at21_5at16_2at14_4at10_10at0; rfl)
      (fun _ enc => by simp only [rowW, enc.fld_eq 26 6 34 (by decide)])
  · exact roundTrip_w (r := .stD) (base := 0x8C000000) rfl ⟨rfl, by decide, fits⟩
      (fun _ enc => by obtain ⟨rfl, rfl, rfl, rfl, rfl⟩ := enc.fields_5at21_5at16_2at14_4at10_10at0; rfl)
      (fun _ enc => by simp only [rowW, enc.fld_eq 26 6 35 (by decide)])
  · exact roundTrip_w (r := .stV) (base := 0x9C000000) rfl ⟨rfl, by decide, fits⟩
      (fun _ enc => by obtain ⟨rfl, rfl, rfl, rfl, rfl⟩ := enc.fields_5at21_5at16_2at14_4at10_10at0; rfl)
      (fun _ enc => by simp only [rowW, enc.fld_eq 26 6 39 (by decide)])
  · exact roundTrip_w (r := .stfe) (base := 0xAC000000) rfl ⟨rfl, by decide, fits⟩
      (fun _ enc => by obtain ⟨rfl, rfl, rfl, rfl, rfl⟩ := enc.fields_5at21_5at16_2at14_4at10_10at0; rfl)
      (fun _ enc => by simp only [rowW, enc.fld_eq 26 6 43 (by decide)])
  · exact roundTrip_w (r := .stff) (base := 0xB0000000) rfl ⟨rfl, by decide, fits⟩
      (fun _ enc => by obtain ⟨rfl, rfl, rfl, rfl, rfl⟩ := enc.fields_5at21_5at16_2at14_4at10_10at0; rfl)
      (fun _ enc => by simp only [rowW, enc.fld_eq 26 6 44 (by decide)])

theorem Encoded.fields_5at21_5at16 {u : BitVec 32} {base : Nat} {d : Fin 32} {a : Fin 32}
    (enc : Encoded u base [(21, 5), (16, 5)] [d.val, a.val]) :
    fin5 u 21 = d ∧ fin5 u 16 = a :=
  ⟨enc.fin5_eq 0 21 (by decide) rfl, enc.fin5_eq 1 16 (by decide) rfl⟩

theorem roundTrip_5at21_5at16 (d : Fin 32) (a : Fin 32) :
    RoundTrip (.jalr d a) ∧ RoundTrip (.clz d a) ∧ RoundTrip (.ctz d a) ∧ RoundTrip (.popc d a) ∧ RoundTrip (.rev d a) ∧
    RoundTrip (.bswap d a) ∧ RoundTrip (.sextB d a) ∧ RoundTrip (.sextH d a) ∧ RoundTrip (.sextW d a) ∧
    RoundTrip (.zextW d a) ∧ RoundTrip (.fcvtIF d a) ∧ RoundTrip (.fcvtFI d a) ∧ RoundTrip (.rqstate d a) ∧
    RoundTrip (.xrpop d a) ∧ RoundTrip (.bstat d a) ∧ RoundTrip (.vbinrd d a) := by
  have fits : Fits [(21, 5), (16, 5)] [d.val, a.val] := ⟨d.isLt, a.isLt, rfl, rfl⟩
  refine ⟨?_, ?_, ?_, ?_, ?_, ?_, ?_, ?_, ?_, ?_, ?_, ?_, ?_, ?_, ?_, ?_⟩
  · exact roundTrip_saxw (r := .jalr) (base := 0x14000001) rfl ⟨rfl, by decide, fits⟩
      (fun _ enc => by obtain ⟨rfl, rfl⟩ := enc.fields_5at21_5at16; rfl)
      (fun _ enc => ⟨by simp only [rowS, enc.fld_eq 26 6 5 (by decide), decSAXW05, enc.fld_eq 0 11 1 (by decide), enc.fld_eq 11 5 0 (by decide), ↓reduceIte],
      by simp only [rowA, enc.fld_eq 26 6 5 (by decide), decSAXW05, enc.fld_eq 0 11 1 (by decide), enc.fld_eq 11 5 0 (by decide), ↓reduceIte],
      by simp only [rowX, enc.fld_eq 26 6 5 (by decide), decSAXW05, enc.fld_eq 0 11 1 (by decide), enc.fld_eq 11 5 0 (by decide), ↓reduceIte],
      by simp only [rowW, enc.fld_eq 26 6 5 (by decide), decSAXW05, enc.fld_eq 0 11 1 (by decide), enc.fld_eq 11 5 0 (by decide), ↓reduceIte]⟩)
  · exact roundTrip_s (r := .clz) (base := 0x40000016) rfl ⟨rfl, by decide, fits⟩
      (fun _ enc => by obtain ⟨rfl, rfl⟩ := enc.fields_5at21_5at16; rfl)
      (fun _ enc => by simp only [rowS, enc.fld_eq 26 6 16 (by decide), decS10, enc.fld_eq 0 11 22 (by decide), enc.fld_eq 11 5 0 (by decide), ↓reduceIte])
  · exact roundTrip_s (r := .ctz) (base := 0x40000017) rfl ⟨rfl, by decide, fits⟩
      (fun _ enc => by obtain ⟨rfl, rfl⟩ := enc.fields_5at21_5at16; rfl)
      (fun _ enc => by simp only [rowS, enc.fld_eq 26 6 16 (by decide), decS10, enc.fld_eq 0 11 23 (by decide), enc.fld_eq 11 5 0 (by decide), ↓reduceIte])
  · exact roundTrip_s (r := .popc) (base := 0x40000018) rfl ⟨rfl, by decide, fits⟩
      (fun _ enc => by obtain ⟨rfl, rfl⟩ := enc.fields_5at21_5at16; rfl)
      (fun _ enc => by simp only [rowS, enc.fld_eq 26 6 16 (by decide), decS10, enc.fld_eq 0 11 24 (by decide), enc.fld_eq 11 5 0 (by decide), ↓reduceIte])
  · exact roundTrip_s (r := .rev) (base := 0x40000019) rfl ⟨rfl, by decide, fits⟩
      (fun _ enc => by obtain ⟨rfl, rfl⟩ := enc.fields_5at21_5at16; rfl)
      (fun _ enc => by simp only [rowS, enc.fld_eq 26 6 16 (by decide), decS10, enc.fld_eq 0 11 25 (by decide), enc.fld_eq 11 5 0 (by decide), ↓reduceIte])
  · exact roundTrip_s (r := .bswap) (base := 0x4000001A) rfl ⟨rfl, by decide, fits⟩
      (fun _ enc => by obtain ⟨rfl, rfl⟩ := enc.fields_5at21_5at16; rfl)
      (fun _ enc => by simp only [rowS, enc.fld_eq 26 6 16 (by decide), decS10, enc.fld_eq 0 11 26 (by decide), enc.fld_eq 11 5 0 (by decide), ↓reduceIte])
  · exact roundTrip_s (r := .sextB) (base := 0x4000001B) rfl ⟨rfl, by decide, fits⟩
      (fun _ enc => by obtain ⟨rfl, rfl⟩ := enc.fields_5at21_5at16; rfl)
      (fun _ enc => by simp only [rowS, enc.fld_eq 26 6 16 (by decide), decS10, enc.fld_eq 0 11 27 (by decide), enc.fld_eq 11 5 0 (by decide), ↓reduceIte])
  · exact roundTrip_s (r := .sextH) (base := 0x4000001C) rfl ⟨rfl, by decide, fits⟩
      (fun _ enc => by obtain ⟨rfl, rfl⟩ := enc.fields_5at21_5at16; rfl)
      (fun _ enc => by simp only [rowS, enc.fld_eq 26 6 16 (by decide), decS10, enc.fld_eq 0 11 28 (by decide), enc.fld_eq 11 5 0 (by decide), ↓reduceIte])
  · exact roundTrip_s (r := .sextW) (base := 0x4000001D) rfl ⟨rfl, by decide, fits⟩
      (fun _ enc => by obtain ⟨rfl, rfl⟩ := enc.fields_5at21_5at16; rfl)
      (fun _ enc => by simp only [rowS, enc.fld_eq 26 6 16 (by decide), decS10, enc.fld_eq 0 11 29 (by decide), enc.fld_eq 11 5 0 (by decide), ↓reduceIte])
  · exact roundTrip_s (r := .zextW) (base := 0x4000001E) rfl ⟨rfl, by decide, fits⟩
      (fun _ enc => by obtain ⟨rfl, rfl⟩ := enc.fields_5at21_5at16; rfl)
      (fun _ enc => by simp only [rowS, enc.fld_eq 26 6 16 (by decide), decS10, enc.fld_eq 0 11 30 (by decide), enc.fld_eq 11 5 0 (by decide), ↓reduceIte])
  · exact roundTrip_s (r := .fcvtIF) (base := 0x74000008) rfl ⟨rfl, by decide, fits⟩
      (fun _ enc => by obtain ⟨rfl, rfl⟩ := enc.fields_5at21_5at16; rfl)
      (fun _ enc => by simp only [rowS, enc.fld_eq 26 6 29 (by decide), decS1D, enc.fld_eq 0 11 8 (by decide), enc.fld_eq 11 5 0 (by decide), ↓reduceIte])
  · exact roundTrip_s (r := .fcvtFI) (base := 0x74000009) rfl ⟨rfl, by decide, fits⟩
      (fun _ enc => by obtain ⟨rfl, rfl⟩ := enc.fields_5at21_5at16; rfl)
      (fun _ enc => by simp only [rowS, enc.fld_eq 26 6 29 (by decide), decS1D, enc.fld_eq 0 11 9 (by decide), enc.fld_eq 11 5 0 (by decide), ↓reduceIte])
  · exact roundTrip_s (r := .rqstate) (base := 0x8C000003) rfl ⟨rfl, by decide, fits⟩
      (fun _ enc => by obtain ⟨rfl, rfl⟩ := enc.fields_5at21_5at16; rfl)
      (fun _ enc => by simp only [rowS, enc.fld_eq 26 6 35 (by decide), decS23, enc.fld_eq 0 11 3 (by decide), enc.fld_eq 11 5 0 (by decide), ↓reduceIte])
  · exact roundTrip_s (r := .xrpop) (base := 0xCC000001) rfl ⟨rfl, by decide, fits⟩
      (fun _ enc => by obtain ⟨rfl, rfl⟩ := enc.fields_5at21_5at16; rfl)
      (fun _ enc => by simp only [rowS, enc.fld_eq 26 6 51 (by decide), decS33, enc.fld_eq 0 11 1 (by decide), enc.fld_eq 11 5 0 (by decide), ↓reduceIte])
  · exact roundTrip_a (r := .bstat) (base := 0xBC000001) rfl ⟨rfl, by decide, fits⟩
      (fun _ enc => by obtain ⟨rfl, rfl⟩ := enc.fields_5at21_5at16; rfl)
      (fun _ enc => by simp only [rowA, enc.fld_eq 26 6 47 (by decide), decA2F, enc.fld_eq 0 11 1 (by decide), enc.fld_eq 11 5 0 (by decide), ↓reduceIte])
  · exact roundTrip_x (r := .vbinrd) (base := 0x7C000053) rfl ⟨rfl, by decide, fits⟩
      (fun _ enc => by obtain ⟨rfl, rfl⟩ := enc.fields_5at21_5at16; rfl)
      (fun _ enc => by simp only [rowX, enc.fld_eq 26 6 31 (by decide), decX1F, enc.fld_eq 0 4 3 (by decide), enc.fld_eq 4 12 5 (by decide), ↓reduceIte])

theorem Encoded.fields_5at21_5at16_5at11_3at8_3at4 {u : BitVec 32} {base : Nat} {d : Fin 32} {a : Fin 32} {b : Fin 32} {p : Fin 8} {y : Fin 8}
    (enc : Encoded u base [(21, 5), (16, 5), (11, 5), (8, 3), (4, 3)] [d.val, a.val, b.val, p.val, y.val]) :
    fin5 u 21 = d ∧ fin5 u 16 = a ∧ fin5 u 11 = b ∧ fin3 u 8 = p ∧ fin3 u 4 = y :=
  ⟨enc.fin5_eq 0 21 (by decide) rfl, enc.fin5_eq 1 16 (by decide) rfl, enc.fin5_eq 2 11 (by decide) rfl, enc.fin3_eq 3 8 (by decide) rfl, enc.fin3_eq 4 4 (by decide) rfl⟩

theorem roundTrip_5at21_5at16_5at11_3at8_3at4 (d : Fin 32) (a : Fin 32) (b : Fin 32) (p : Fin 8) (y : Fin 8) :
    RoundTrip (.vadd d a b p y) ∧ RoundTrip (.vsub d a b p y) ∧ RoundTrip (.vmul d a b p y) ∧ RoundTrip (.vmulh d a b p y) ∧
    RoundTrip (.vand d a b p y) ∧ RoundTrip (.vor d a b p y) ∧ RoundTrip (.vxor d a b p y) ∧ RoundTrip (.vshl d a b p y) ∧
    RoundTrip (.vshr d a b p y) ∧ RoundTrip (.vsra d a b p y) ∧ RoundTrip (.vmin d a b p y) ∧ RoundTrip (.vmax d a b p y) ∧
    RoundTrip (.vadds d a b p y) ∧ RoundTrip (.vsubs d a b p y) := by
  have fits : Fits [(21, 5), (16, 5), (11, 5), (8, 3), (4, 3)] [d.val, a.val, b.val, p.val, y.val] := ⟨d.isLt, a.isLt, b.isLt, p.isLt, y.isLt, rfl, rfl⟩
  refine ⟨?_, ?_, ?_, ?_, ?_, ?_, ?_, ?_, ?_, ?_, ?_, ?_, ?_, ?_⟩
  · exact roundTrip_x (r := .vadd) (base := 0x40000000) rfl ⟨rfl, by decide, fits⟩
      (fun _ enc => by obtain ⟨rfl, rfl, rfl, rfl, rfl⟩ := enc.fields_5at21_5at16_5at11_3at8_3at4; rfl)
      (fun _ enc => by simp only [rowX, enc.fld_eq 26 6 16 (by decide), decX10, enc.fld_eq 0 4 0 (by decide), enc.fld_eq 7 1 0 (by decide), ↓reduceIte])
  · exact roundTrip_x (r := .vsub) (base := 0x40000001) rfl ⟨rfl, by decide, fits⟩
      (fun _ enc => by obtain ⟨rfl, rfl, rfl, rfl, rfl⟩ := enc.fields_5at21_5at16_5at11_3at8_3at4; rfl)
      (fun _ enc => by simp only [rowX, enc.fld_eq 26 6 16 (by decide), decX10, enc.fld_eq 0 4 1 (by decide), enc.fld_eq 7 1 0 (by decide), ↓reduceIte])
  · exact roundTrip_x (r := .vmul) (base := 0x40000002) rfl ⟨rfl, by decide, fits⟩
      (fun _ enc => by obtain ⟨rfl, rfl, rfl, rfl, rfl⟩ := enc.fields_5at21_5at16_5at11_3at8_3at4; rfl)
      (fun _ enc => by simp only [rowX, enc.fld_eq 26 6 16 (by decide), decX10, enc.fld_eq 0 4 2 (by decide), enc.fld_eq 7 1 0 (by decide), ↓reduceIte])
  · exact roundTrip_x (r := .vmulh) (base := 0x40000003) rfl ⟨rfl, by decide, fits⟩
      (fun _ enc => by obtain ⟨rfl, rfl, rfl, rfl, rfl⟩ := enc.fields_5at21_5at16_5at11_3at8_3at4; rfl)
      (fun _ enc => by simp only [rowX, enc.fld_eq 26 6 16 (by decide), decX10, enc.fld_eq 0 4 3 (by decide), enc.fld_eq 7 1 0 (by decide), ↓reduceIte])
  · exact roundTrip_x (r := .vand) (base := 0x40000004) rfl ⟨rfl, by decide, fits⟩
      (fun _ enc => by obtain ⟨rfl, rfl, rfl, rfl, rfl⟩ := enc.fields_5at21_5at16_5at11_3at8_3at4; rfl)
      (fun _ enc => by simp only [rowX, enc.fld_eq 26 6 16 (by decide), decX10, enc.fld_eq 0 4 4 (by decide), enc.fld_eq 7 1 0 (by decide), ↓reduceIte])
  · exact roundTrip_x (r := .vor) (base := 0x40000005) rfl ⟨rfl, by decide, fits⟩
      (fun _ enc => by obtain ⟨rfl, rfl, rfl, rfl, rfl⟩ := enc.fields_5at21_5at16_5at11_3at8_3at4; rfl)
      (fun _ enc => by simp only [rowX, enc.fld_eq 26 6 16 (by decide), decX10, enc.fld_eq 0 4 5 (by decide), enc.fld_eq 7 1 0 (by decide), ↓reduceIte])
  · exact roundTrip_x (r := .vxor) (base := 0x40000006) rfl ⟨rfl, by decide, fits⟩
      (fun _ enc => by obtain ⟨rfl, rfl, rfl, rfl, rfl⟩ := enc.fields_5at21_5at16_5at11_3at8_3at4; rfl)
      (fun _ enc => by simp only [rowX, enc.fld_eq 26 6 16 (by decide), decX10, enc.fld_eq 0 4 6 (by decide), enc.fld_eq 7 1 0 (by decide), ↓reduceIte])
  · exact roundTrip_x (r := .vshl) (base := 0x40000007) rfl ⟨rfl, by decide, fits⟩
      (fun _ enc => by obtain ⟨rfl, rfl, rfl, rfl, rfl⟩ := enc.fields_5at21_5at16_5at11_3at8_3at4; rfl)
      (fun _ enc => by simp only [rowX, enc.fld_eq 26 6 16 (by decide), decX10, enc.fld_eq 0 4 7 (by decide), enc.fld_eq 7 1 0 (by decide), ↓reduceIte])
  · exact roundTrip_x (r := .vshr) (base := 0x40000008) rfl ⟨rfl, by decide, fits⟩
      (fun _ enc => by obtain ⟨rfl, rfl, rfl, rfl, rfl⟩ := enc.fields_5at21_5at16_5at11_3at8_3at4; rfl)
      (fun _ enc => by simp only [rowX, enc.fld_eq 26 6 16 (by decide), decX10, enc.fld_eq 0 4 8 (by decide), enc.fld_eq 7 1 0 (by decide), ↓reduceIte])
  · exact roundTrip_x (r := .vsra) (base := 0x40000009) rfl ⟨rfl, by decide, fits⟩
      (fun _ enc => by obtain ⟨rfl, rfl, rfl, rfl, rfl⟩ := enc.fields_5at21_5at16_5at11_3at8_3at4; rfl)
      (fun _ enc => by simp only [rowX, enc.fld_eq 26 6 16 (by decide), decX10, enc.fld_eq 0 4 9 (by decide), enc.fld_eq 7 1 0 (by decide), ↓reduceIte])
  · exact roundTrip_x (r := .vmin) (base := 0x4000000A) rfl ⟨rfl, by decide, fits⟩
      (fun _ enc => by obtain ⟨rfl, rfl, rfl, rfl, rfl⟩ := enc.fields_5at21_5at16_5at11_3at8_3at4; rfl)
      (fun _ enc => by simp only [rowX, enc.fld_eq 26 6 16 (by decide), decX10, enc.fld_eq 0 4 10 (by decide), enc.fld_eq 7 1 0 (by decide), ↓reduceIte])
  · exact roundTrip_x (r := .vmax) (base := 0x4000000B) rfl ⟨rfl, by decide, fits⟩
      (fun _ enc => by obtain ⟨rfl, rfl, rfl, rfl, rfl⟩ := enc.fields_5at21_5at16_5at11_3at8_3at4; rfl)
      (fun _ enc => by simp only [rowX, enc.fld_eq 26 6 16 (by decide), decX10, enc.fld_eq 0 4 11 (by decide), enc.fld_eq 7 1 0 (by decide), ↓reduceIte])
  · exact roundTrip_x (r := .vadds) (base := 0x4000000E) rfl ⟨rfl, by decide, fits⟩
      (fun _ enc => by obtain ⟨rfl, rfl, rfl, rfl, rfl⟩ := enc.fields_5at21_5at16_5at11_3at8_3at4; rfl)
      (fun _ enc => by simp only [rowX, enc.fld_eq 26 6 16 (by decide), decX10, enc.fld_eq 0 4 14 (by decide), enc.fld_eq 7 1 0 (by decide), ↓reduceIte])
  · exact roundTrip_x (r := .vsubs) (base := 0x4000000F) rfl ⟨rfl, by decide, fits⟩
      (fun _ enc => by obtain ⟨rfl, rfl, rfl, rfl, rfl⟩ := enc.fields_5at21_5at16_5at11_3at8_3at4; rfl)
      (fun _ enc => by simp only [rowX, enc.fld_eq 26 6 16 (by decide), decX10, enc.fld_eq 0 4 15 (by decide), enc.fld_eq 7 1 0 (by decide), ↓reduceIte])

theorem Encoded.fields_4at21_5at16 {u : BitVec 32} {base : Nat} {s : Fin 16} {a : Fin 32}
    (enc : Encoded u base [(21, 4), (16, 5)] [s.val, a.val]) :
    fin4 u 21 = s ∧ fin5 u 16 = a :=
  ⟨enc.fin4_eq 0 21 (by decide) rfl, enc.fin5_eq 1 16 (by decide) rfl⟩

theorem roundTrip_4at21_5at16 (s : Fin 16) (a : Fin 32) :
    RoundTrip (.sadd s a) ∧ RoundTrip (.sset s a) ∧ RoundTrip (.cpy s a) ∧ RoundTrip (.cpyTopk s a) ∧
    RoundTrip (.cpyPack s a) ∧ RoundTrip (.barWait s a) ∧ RoundTrip (.barSync s a) ∧ RoundTrip (.selr s a) ∧
    RoundTrip (.selc s a) ∧ RoundTrip (.gsub s a) ∧ RoundTrip (.bdrain s a) ∧ RoundTrip (.pub s a) := by
  have fits : Fits [(21, 4), (16, 5)] [s.val, a.val] := ⟨s.isLt, a.isLt, rfl, rfl⟩
  refine ⟨?_, ?_, ?_, ?_, ?_, ?_, ?_, ?_, ?_, ?_, ?_, ?_⟩
  · exact roundTrip_saxw (r := .sadd) (base := 0x0C000001) rfl ⟨rfl, by decide, fits⟩
      (fun _ enc => by obtain ⟨rfl, rfl⟩ := enc.fields_4at21_5at16; rfl)
      (fun _ enc => ⟨by simp only [rowS, enc.fld_eq 26 6 3 (by decide), decSAXW03, enc.fld_eq 0 11 1 (by decide), enc.fld_eq 25 1 0 (by decide), enc.fld_eq 11 5 0 (by decide), and_self, ↓reduceIte],
      by simp only [rowA, enc.fld_eq 26 6 3 (by decide), decSAXW03, enc.fld_eq 0 11 1 (by decide), enc.fld_eq 25 1 0 (by decide), enc.fld_eq 11 5 0 (by decide), and_self, ↓reduceIte],
      by simp only [rowX, enc.fld_eq 26 6 3 (by decide), decSAXW03, enc.fld_eq 0 11 1 (by decide), enc.fld_eq 25 1 0 (by decide), enc.fld_eq 11 5 0 (by decide), and_self, ↓reduceIte],
      by simp only [rowW, enc.fld_eq 26 6 3 (by decide), decSAXW03, enc.fld_eq 0 11 1 (by decide), enc.fld_eq 25 1 0 (by decide), enc.fld_eq 11 5 0 (by decide), and_self, ↓reduceIte]⟩)
  · exact roundTrip_saxw (r := .sset) (base := 0x0C000002) rfl ⟨rfl, by decide, fits⟩
      (fun _ enc => by obtain ⟨rfl, rfl⟩ := enc.fields_4at21_5at16; rfl)
      (fun _ enc => ⟨by simp only [rowS, enc.fld_eq 26 6 3 (by decide), decSAXW03, enc.fld_eq 0 11 2 (by decide), enc.fld_eq 25 1 0 (by decide), enc.fld_eq 11 5 0 (by decide), and_self, ↓reduceIte],
      by simp only [rowA, enc.fld_eq 26 6 3 (by decide), decSAXW03, enc.fld_eq 0 11 2 (by decide), enc.fld_eq 25 1 0 (by decide), enc.fld_eq 11 5 0 (by decide), and_self, ↓reduceIte],
      by simp only [rowX, enc.fld_eq 26 6 3 (by decide), decSAXW03, enc.fld_eq 0 11 2 (by decide), enc.fld_eq 25 1 0 (by decide), enc.fld_eq 11 5 0 (by decide), and_self, ↓reduceIte],
      by simp only [rowW, enc.fld_eq 26 6 3 (by decide), decSAXW03, enc.fld_eq 0 11 2 (by decide), enc.fld_eq 25 1 0 (by decide), enc.fld_eq 11 5 0 (by decide), and_self, ↓reduceIte]⟩)
  · exact roundTrip_s (r := .cpy) (base := 0xC0000000) rfl ⟨rfl, by decide, fits⟩
      (fun _ enc => by obtain ⟨rfl, rfl⟩ := enc.fields_4at21_5at16; rfl)
      (fun _ enc => by simp only [rowS, enc.fld_eq 26 6 48 (by decide), decS30, enc.fld_eq 0 11 0 (by decide), enc.fld_eq 25 1 0 (by decide), enc.fld_eq 11 5 0 (by decide), and_self, ↓reduceIte])
  · exact roundTrip_s (r := .cpyTopk) (base := 0xC0000001) rfl ⟨rfl, by decide, fits⟩
      (fun _ enc => by obtain ⟨rfl, rfl⟩ := enc.fields_4at21_5at16; rfl)
      (fun _ enc => by simp only [rowS, enc.fld_eq 26 6 48 (by decide), decS30, enc.fld_eq 0 11 1 (by decide), enc.fld_eq 25 1 0 (by decide), enc.fld_eq 11 5 0 (by decide), and_self, ↓reduceIte])
  · exact roundTrip_s (r := .cpyPack) (base := 0xC0000002) rfl ⟨rfl, by decide, fits⟩
      (fun _ enc => by obtain ⟨rfl, rfl⟩ := enc.fields_4at21_5at16; rfl)
      (fun _ enc => by simp only [rowS, enc.fld_eq 26 6 48 (by decide), decS30, enc.fld_eq 0 11 2 (by decide), enc.fld_eq 25 1 0 (by decide), enc.fld_eq 11 5 0 (by decide), and_self, ↓reduceIte])
  · exact roundTrip_s (r := .barWait) (base := 0xD0000001) rfl ⟨rfl, by decide, fits⟩
      (fun _ enc => by obtain ⟨rfl, rfl⟩ := enc.fields_4at21_5at16; rfl)
      (fun _ enc => by simp only [rowS, enc.fld_eq 26 6 52 (by decide), decS34, enc.fld_eq 0 11 1 (by decide), enc.fld_eq 25 1 0 (by decide), enc.fld_eq 11 5 0 (by decide), and_self, ↓reduceIte])
  · exact roundTrip_s (r := .barSync) (base := 0xD0000002) rfl ⟨rfl, by decide, fits⟩
      (fun _ enc => by obtain ⟨rfl, rfl⟩ := enc.fields_4at21_5at16; rfl)
      (fun _ enc => by simp only [rowS, enc.fld_eq 26 6 52 (by decide), decS34, enc.fld_eq 0 11 2 (by decide), enc.fld_eq 25 1 0 (by decide), enc.fld_eq 11 5 0 (by decide), and_self, ↓reduceIte])
  · exact roundTrip_s (r := .selr) (base := 0xE0000000) rfl ⟨rfl, by decide, fits⟩
      (fun _ enc => by obtain ⟨rfl, rfl⟩ := enc.fields_4at21_5at16; rfl)
      (fun _ enc => by simp only [rowS, enc.fld_eq 26 6 56 (by decide), decS38, enc.fld_eq 0 11 0 (by decide), enc.fld_eq 25 1 0 (by decide), enc.fld_eq 11 5 0 (by decide), and_self, ↓reduceIte])
  · exact roundTrip_s (r := .selc) (base := 0xE0000001) rfl ⟨rfl, by decide, fits⟩
      (fun _ enc => by obtain ⟨rfl, rfl⟩ := enc.fields_4at21_5at16; rfl)
      (fun _ enc => by simp only [rowS, enc.fld_eq 26 6 56 (by decide), decS38, enc.fld_eq 0 11 1 (by decide), enc.fld_eq 25 1 0 (by decide), enc.fld_eq 11 5 0 (by decide), and_self, ↓reduceIte])
  · exact roundTrip_s (r := .gsub) (base := 0xF8000000) rfl ⟨rfl, by decide, fits⟩
      (fun _ enc => by obtain ⟨rfl, rfl⟩ := enc.fields_4at21_5at16; rfl)
      (fun _ enc => by simp only [rowS, enc.fld_eq 26 6 62 (by decide), decS3E, enc.fld_eq 25 1 0 (by decide), enc.fld_eq 0 16 0 (by decide), and_self, ↓reduceIte])
  · exact roundTrip_a (r := .bdrain) (base := 0xBC000002) rfl ⟨rfl, by decide, fits⟩
      (fun _ enc => by obtain ⟨rfl, rfl⟩ := enc.fields_4at21_5at16; rfl)
      (fun _ enc => by simp only [rowA, enc.fld_eq 26 6 47 (by decide), decA2F, enc.fld_eq 0 11 2 (by decide), enc.fld_eq 25 1 0 (by decide), enc.fld_eq 11 5 0 (by decide), and_self, ↓reduceIte])
  · exact roundTrip_w (r := .pub) (base := 0xB4000000) rfl ⟨rfl, by decide, fits⟩
      (fun _ enc => by obtain ⟨rfl, rfl⟩ := enc.fields_4at21_5at16; rfl)
      (fun _ enc => by simp only [rowW, enc.fld_eq 26 6 45 (by decide), decW2D, enc.fld_eq 25 1 0 (by decide), enc.fld_eq 0 16 0 (by decide), and_self, ↓reduceIte])

theorem roundTrip_none  :
    RoundTrip (.nop) ∧ RoundTrip (.sstop) ∧ RoundTrip (.sjoin) ∧ RoundTrip (.ecall) ∧ RoundTrip (.ebreak) ∧
    RoundTrip (.tret) ∧ RoundTrip (.wfm) ∧ RoundTrip (.halt) ∧ RoundTrip (.fenceI) ∧ RoundTrip (.mresume) ∧
    RoundTrip (.vbinclr) := by
  have fits : Fits [] [] := ⟨rfl, rfl⟩
  refine ⟨?_, ?_, ?_, ?_, ?_, ?_, ?_, ?_, ?_, ?_, ?_⟩
  · exact roundTrip_saxw (r := .nop) (base := 0x04000000) rfl ⟨rfl, by decide, fits⟩
      (fun _ enc => rfl)
      (fun _ enc => ⟨by simp only [rowS, enc.fld_eq 26 6 1 (by decide), decSAXW01, enc.fld_eq 16 10 0 (by decide), enc.fld_eq 0 16 0 (by decide), ↓reduceIte],
      by simp only [rowA, enc.fld_eq 26 6 1 (by decide), decSAXW01, enc.fld_eq 16 10 0 (by decide), enc.fld_eq 0 16 0 (by decide), ↓reduceIte],
      by simp only [rowX, enc.fld_eq 26 6 1 (by decide), decSAXW01, enc.fld_eq 16 10 0 (by decide), enc.fld_eq 0 16 0 (by decide), ↓reduceIte],
      by simp only [rowW, enc.fld_eq 26 6 1 (by decide), decSAXW01, enc.fld_eq 16 10 0 (by decide), enc.fld_eq 0 16 0 (by decide), ↓reduceIte]⟩)
  · exact roundTrip_saxw (r := .sstop) (base := 0x3C000000) rfl ⟨rfl, by decide, fits⟩
      (fun _ enc => rfl)
      (fun _ enc => ⟨by simp only [rowS, enc.fld_eq 26 6 15 (by decide), decS0F, enc.fld_eq 0 26 0 (by decide), ↓reduceIte],
      by simp only [rowA, enc.fld_eq 26 6 15 (by decide), decAXW0F, enc.fld_eq 0 11 0 (by decide), enc.fld_eq 11 15 0 (by decide), ↓reduceIte],
      by simp only [rowX, enc.fld_eq 26 6 15 (by decide), decAXW0F, enc.fld_eq 0 11 0 (by decide), enc.fld_eq 11 15 0 (by decide), ↓reduceIte],
      by simp only [rowW, enc.fld_eq 26 6 15 (by decide), decAXW0F, enc.fld_eq 0 11 0 (by decide), enc.fld_eq 11 15 0 (by decide), ↓reduceIte]⟩)
  · exact roundTrip_axw (r := .sjoin) (base := 0x3C000001) rfl ⟨rfl, by decide, fits⟩
      (fun _ enc => rfl)
      (fun _ enc => ⟨by simp only [rowA, enc.fld_eq 26 6 15 (by decide), decAXW0F, enc.fld_eq 0 11 1 (by decide), enc.fld_eq 11 15 0 (by decide), ↓reduceIte],
      by simp only [rowX, enc.fld_eq 26 6 15 (by decide), decAXW0F, enc.fld_eq 0 11 1 (by decide), enc.fld_eq 11 15 0 (by decide), ↓reduceIte],
      by simp only [rowW, enc.fld_eq 26 6 15 (by decide), decAXW0F, enc.fld_eq 0 11 1 (by decide), enc.fld_eq 11 15 0 (by decide), ↓reduceIte]⟩)
  · exact roundTrip_s (r := .ecall) (base := 0x84000000) rfl ⟨rfl, by decide, fits⟩
      (fun _ enc => rfl)
      (fun _ enc => by simp only [rowS, enc.fld_eq 26 6 33 (by decide), decS21, enc.fld_eq 0 11 0 (by decide), enc.fld_eq 11 15 0 (by decide), ↓reduceIte])
  · exact roundTrip_s (r := .ebreak) (base := 0x84000001) rfl ⟨rfl, by decide, fits⟩
      (fun _ enc => rfl)
      (fun _ enc => by simp only [rowS, enc.fld_eq 26 6 33 (by decide), decS21, enc.fld_eq 0 11 1 (by decide), enc.fld_eq 11 15 0 (by decide), ↓reduceIte])
  · exact roundTrip_s (r := .tret) (base := 0x84000002) rfl ⟨rfl, by decide, fits⟩
      (fun _ enc => rfl)
      (fun _ enc => by simp only [rowS, enc.fld_eq 26 6 33 (by decide), decS21, enc.fld_eq 0 11 2 (by decide), enc.fld_eq 11 15 0 (by decide), ↓reduceIte])
  · exact roundTrip_s (r := .wfm) (base := 0x84000003) rfl ⟨rfl, by decide, fits⟩
      (fun _ enc => rfl)
      (fun _ enc => by simp only [rowS, enc.fld_eq 26 6 33 (by decide), decS21, enc.fld_eq 0 11 3 (by decide), enc.fld_eq 11 15 0 (by decide), ↓reduceIte])
  · exact roundTrip_s (r := .halt) (base := 0x84000004) rfl ⟨rfl, by decide, fits⟩
      (fun _ enc => rfl)
      (fun _ enc => by simp only [rowS, enc.fld_eq 26 6 33 (by decide), decS21, enc.fld_eq 0 11 4 (by decide), enc.fld_eq 11 15 0 (by decide), ↓reduceIte])
  · exact roundTrip_s (r := .fenceI) (base := 0x84000005) rfl ⟨rfl, by decide, fits⟩
      (fun _ enc => rfl)
      (fun _ enc => by simp only [rowS, enc.fld_eq 26 6 33 (by decide), decS21, enc.fld_eq 0 11 5 (by decide), enc.fld_eq 11 15 0 (by decide), ↓reduceIte])
  · exact roundTrip_s (r := .mresume) (base := 0xB8000002) rfl ⟨rfl, by decide, fits⟩
      (fun _ enc => rfl)
      (fun _ enc => by simp only [rowS, enc.fld_eq 26 6 46 (by decide), decS2E, enc.fld_eq 0 11 2 (by decide), enc.fld_eq 11 15 0 (by decide), ↓reduceIte])
  · exact roundTrip_x (r := .vbinclr) (base := 0x7C000002) rfl ⟨rfl, by decide, fits⟩
      (fun _ enc => rfl)
      (fun _ enc => by simp only [rowX, enc.fld_eq 26 6 31 (by decide), decX1F, enc.fld_eq 0 4 2 (by decide), enc.fld_eq 4 22 0 (by decide), ↓reduceIte])

theorem Encoded.fields_5at16 {u : BitVec 32} {base : Nat} {a : Fin 32}
    (enc : Encoded u base [(16, 5)] [a.val]) :
    fin5 u 16 = a :=
  enc.fin5_eq 0 16 (by decide) rfl

theorem roundTrip_5at16 (a : Fin 32) :
    RoundTrip (.jr a) ∧ RoundTrip (.ctxsw a) ∧ RoundTrip (.rqpark a) ∧ RoundTrip (.wunlock a) ∧ RoundTrip (.mfmt a) ∧
    RoundTrip (.mzero a) ∧ RoundTrip (.xrcfg a) ∧ RoundTrip (.barArr a) ∧ RoundTrip (.bfree a) ∧ RoundTrip (.vpush a) := by
  have fits : Fits [(16, 5)] [a.val] := ⟨a.isLt, rfl, rfl⟩
  refine ⟨?_, ?_, ?_, ?_, ?_, ?_, ?_, ?_, ?_, ?_⟩
  · exact roundTrip_saxw (r := .jr) (base := 0x14000000) rfl ⟨rfl, by decide, fits⟩
      (fun _ enc => by obtain rfl := enc.fields_5at16; rfl)
      (fun _ enc => ⟨by simp only [rowS, enc.fld_eq 26 6 5 (by decide), decSAXW05, enc.fld_eq 0 11 0 (by decide), enc.fld_eq 21 5 0 (by decide), enc.fld_eq 11 5 0 (by decide), and_self, ↓reduceIte],
      by simp only [rowA, enc.fld_eq 26 6 5 (by decide), decSAXW05, enc.fld_eq 0 11 0 (by decide), enc.fld_eq 21 5 0 (by decide), enc.fld_eq 11 5 0 (by decide), and_self, ↓reduceIte],
      by simp only [rowX, enc.fld_eq 26 6 5 (by decide), decSAXW05, enc.fld_eq 0 11 0 (by decide), enc.fld_eq 21 5 0 (by decide), enc.fld_eq 11 5 0 (by decide), and_self, ↓reduceIte],
      by simp only [rowW, enc.fld_eq 26 6 5 (by decide), decSAXW05, enc.fld_eq 0 11 0 (by decide), enc.fld_eq 21 5 0 (by decide), enc.fld_eq 11 5 0 (by decide), and_self, ↓reduceIte]⟩)
  · exact roundTrip_s (r := .ctxsw) (base := 0x88000000) rfl ⟨rfl, by decide, fits⟩
      (fun _ enc => by obtain rfl := enc.fields_5at16; rfl)
      (fun _ enc => by simp only [rowS, enc.fld_eq 26 6 34 (by decide), decS22, enc.fld_eq 0 11 0 (by decide), enc.fld_eq 21 5 0 (by decide), enc.fld_eq 11 5 0 (by decide), and_self, ↓reduceIte])
  · exact roundTrip_s (r := .rqpark) (base := 0x8C000002) rfl ⟨rfl, by decide, fits⟩
      (fun _ enc => by obtain rfl := enc.fields_5at16; rfl)
      (fun _ enc => by simp only [rowS, enc.fld_eq 26 6 35 (by decide), decS23, enc.fld_eq 0 11 2 (by decide), enc.fld_eq 21 5 0 (by decide), enc.fld_eq 11 5 0 (by decide), and_self, ↓reduceIte])
  · exact roundTrip_s (r := .wunlock) (base := 0x94000001) rfl ⟨rfl, by decide, fits⟩
      (fun _ enc => by obtain rfl := enc.fields_5at16; rfl)
      (fun _ enc => by simp only [rowS, enc.fld_eq 26 6 37 (by decide), decS25, enc.fld_eq 0 11 1 (by decide), enc.fld_eq 21 5 0 (by decide), enc.fld_eq 11 5 0 (by decide), and_self, ↓reduceIte])
  · exact roundTrip_s (r := .mfmt) (base := 0xA8000000) rfl ⟨rfl, by decide, fits⟩
      (fun _ enc => by obtain rfl := enc.fields_5at16; rfl)
      (fun _ enc => by simp only [rowS, enc.fld_eq 26 6 42 (by decide), decS2A, enc.fld_eq 21 5 0 (by decide), enc.fld_eq 0 16 0 (by decide), and_self, ↓reduceIte])
  · exact roundTrip_s (r := .mzero) (base := 0xB8000000) rfl ⟨rfl, by decide, fits⟩
      (fun _ enc => by obtain rfl := enc.fields_5at16; rfl)
      (fun _ enc => by simp only [rowS, enc.fld_eq 26 6 46 (by decide), decS2E, enc.fld_eq 0 11 0 (by decide), enc.fld_eq 21 5 0 (by decide), enc.fld_eq 11 5 0 (by decide), and_self, ↓reduceIte])
  · exact roundTrip_s (r := .xrcfg) (base := 0xCC000000) rfl ⟨rfl, by decide, fits⟩
      (fun _ enc => by obtain rfl := enc.fields_5at16; rfl)
      (fun _ enc => by simp only [rowS, enc.fld_eq 26 6 51 (by decide), decS33, enc.fld_eq 0 11 0 (by decide), enc.fld_eq 21 5 0 (by decide), enc.fld_eq 11 5 0 (by decide), and_self, ↓reduceIte])
  · exact roundTrip_s (r := .barArr) (base := 0xD0000000) rfl ⟨rfl, by decide, fits⟩
      (fun _ enc => by obtain rfl := enc.fields_5at16; rfl)
      (fun _ enc => by simp only [rowS, enc.fld_eq 26 6 52 (by decide), decS34, enc.fld_eq 0 11 0 (by decide), enc.fld_eq 21 5 0 (by decide), enc.fld_eq 11 5 0 (by decide), and_self, ↓reduceIte])
  · exact roundTrip_a (r := .bfree) (base := 0xBC000000) rfl ⟨rfl, by decide, fits⟩
      (fun _ enc => by obtain rfl := enc.fields_5at16; rfl)
      (fun _ enc => by simp only [rowA, enc.fld_eq 26 6 47 (by decide), decA2F, enc.fld_eq 0 11 0 (by decide), enc.fld_eq 21 5 0 (by decide), enc.fld_eq 11 5 0 (by decide), and_self, ↓reduceIte])
  · exact roundTrip_x (r := .vpush) (base := 0x78000001) rfl ⟨rfl, by decide, fits⟩
      (fun _ enc => by obtain rfl := enc.fields_5at16; rfl)
      (fun _ enc => by simp only [rowX, enc.fld_eq 26 6 30 (by decide), decX1E, enc.fld_eq 0 11 1 (by decide), enc.fld_eq 21 5 0 (by decide), enc.fld_eq 11 5 0 (by decide), and_self, ↓reduceIte])

theorem Encoded.fields_5at21_5at16_5at11_4at5_1at4 {u : BitVec 32} {base : Nat} {d : Fin 32} {a : Fin 32} {b : Fin 32} {s : Fin 16} {z : Fin 2}
    (enc : Encoded u base [(21, 5), (16, 5), (11, 5), (5, 4), (4, 1)] [d.val, a.val, b.val, s.val, z.val]) :
    fin5 u 21 = d ∧ fin5 u 16 = a ∧ fin5 u 11 = b ∧ fin4 u 5 = s ∧ fin1 u 4 = z :=
  ⟨enc.fin5_eq 0 21 (by decide) rfl, enc.fin5_eq 1 16 (by decide) rfl, enc.fin5_eq 2 11 (by decide) rfl, enc.fin4_eq 3 5 (by decide) rfl, enc.fin1_eq 4 4 (by decide) rfl⟩

theorem roundTrip_5at21_5at16_5at11_4at5_1at4 (d : Fin 32) (a : Fin 32) (b : Fin 32) (s : Fin 16) (z : Fin 2) :
    RoundTrip (.amoAdd d a b s z) ∧ RoundTrip (.amoAnd d a b s z) ∧ RoundTrip (.amoOr d a b s z) ∧
    RoundTrip (.amoXor d a b s z) ∧ RoundTrip (.amoMin d a b s z) ∧ RoundTrip (.amoMax d a b s z) ∧
    RoundTrip (.amoMinn d a b s z) ∧ RoundTrip (.amoMaxn d a b s z) ∧ RoundTrip (.amoSwap d a b s z) ∧
    RoundTrip (.amoCas d a b s z) := by
  have fits : Fits [(21, 5), (16, 5), (11, 5), (5, 4), (4, 1)] [d.val, a.val, b.val, s.val, z.val] := ⟨d.isLt, a.isLt, b.isLt, s.isLt, z.isLt, rfl, rfl⟩
  refine ⟨?_, ?_, ?_, ?_, ?_, ?_, ?_, ?_, ?_, ?_⟩
  · exact roundTrip_a (r := .amoAdd) (base := 0xB4000000) rfl ⟨rfl, by decide, fits⟩
      (fun _ enc => by obtain ⟨rfl, rfl, rfl, rfl, rfl⟩ := enc.fields_5at21_5at16_5at11_4at5_1at4; rfl)
      (fun _ enc => by simp only [rowA, enc.fld_eq 26 6 45 (by decide), decA2D, enc.fld_eq 0 4 0 (by decide), enc.fld_eq 9 2 0 (by decide), ↓reduceIte])
  · exact roundTrip_a (r := .amoAnd) (base := 0xB4000001) rfl ⟨rfl, by decide, fits⟩
      (fun _ enc => by obtain ⟨rfl, rfl, rfl, rfl, rfl⟩ := enc.fields_5at21_5at16_5at11_4at5_1at4; rfl)
      (fun _ enc => by simp only [rowA, enc.fld_eq 26 6 45 (by decide), decA2D, enc.fld_eq 0 4 1 (by decide), enc.fld_eq 9 2 0 (by decide), ↓reduceIte])
  · exact roundTrip_a (r := .amoOr) (base := 0xB4000002) rfl ⟨rfl, by decide, fits⟩
      (fun _ enc => by obtain ⟨rfl, rfl, rfl, rfl, rfl⟩ := enc.fields_5at21_5at16_5at11_4at5_1at4; rfl)
      (fun _ enc => by simp only [rowA, enc.fld_eq 26 6 45 (by decide), decA2D, enc.fld_eq 0 4 2 (by decide), enc.fld_eq 9 2 0 (by decide), ↓reduceIte])
  · exact roundTrip_a (r := .amoXor) (base := 0xB4000003) rfl ⟨rfl, by decide, fits⟩
      (fun _ enc => by obtain ⟨rfl, rfl, rfl, rfl, rfl⟩ := enc.fields_5at21_5at16_5at11_4at5_1at4; rfl)
      (fun _ enc => by simp only [rowA, enc.fld_eq 26 6 45 (by decide), decA2D, enc.fld_eq 0 4 3 (by decide), enc.fld_eq 9 2 0 (by decide), ↓reduceIte])
  · exact roundTrip_a (r := .amoMin) (base := 0xB4000004) rfl ⟨rfl, by decide, fits⟩
      (fun _ enc => by obtain ⟨rfl, rfl, rfl, rfl, rfl⟩ := enc.fields_5at21_5at16_5at11_4at5_1at4; rfl)
      (fun _ enc => by simp only [rowA, enc.fld_eq 26 6 45 (by decide), decA2D, enc.fld_eq 0 4 4 (by decide), enc.fld_eq 9 2 0 (by decide), ↓reduceIte])
  · exact roundTrip_a (r := .amoMax) (base := 0xB4000005) rfl ⟨rfl, by decide, fits⟩
      (fun _ enc => by obtain ⟨rfl, rfl, rfl, rfl, rfl⟩ := enc.fields_5at21_5at16_5at11_4at5_1at4; rfl)
      (fun _ enc => by simp only [rowA, enc.fld_eq 26 6 45 (by decide), decA2D, enc.fld_eq 0 4 5 (by decide), enc.fld_eq 9 2 0 (by decide), ↓reduceIte])
  · exact roundTrip_a (r := .amoMinn) (base := 0xB4000006) rfl ⟨rfl, by decide, fits⟩
      (fun _ enc => by obtain ⟨rfl, rfl, rfl, rfl, rfl⟩ := enc.fields_5at21_5at16_5at11_4at5_1at4; rfl)
      (fun _ enc => by simp only [rowA, enc.fld_eq 26 6 45 (by decide), decA2D, enc.fld_eq 0 4 6 (by decide), enc.fld_eq 9 2 0 (by decide), ↓reduceIte])
  · exact roundTrip_a (r := .amoMaxn) (base := 0xB4000007) rfl ⟨rfl, by decide, fits⟩
      (fun _ enc => by obtain ⟨rfl, rfl, rfl, rfl, rfl⟩ := enc.fields_5at21_5at16_5at11_4at5_1at4; rfl)
      (fun _ enc => by simp only [rowA, enc.fld_eq 26 6 45 (by decide), decA2D, enc.fld_eq 0 4 7 (by decide), enc.fld_eq 9 2 0 (by decide), ↓reduceIte])
  · exact roundTrip_a (r := .amoSwap) (base := 0xB4000008) rfl ⟨rfl, by decide, fits⟩
      (fun _ enc => by obtain ⟨rfl, rfl, rfl, rfl, rfl⟩ := enc.fields_5at21_5at16_5at11_4at5_1at4; rfl)
      (fun _ enc => by simp only [rowA, enc.fld_eq 26 6 45 (by decide), decA2D, enc.fld_eq 0 4 8 (by decide), enc.fld_eq 9 2 0 (by decide), ↓reduceIte])
  · exact roundTrip_a (r := .amoCas) (base := 0xB4000009) rfl ⟨rfl, by decide, fits⟩
      (fun _ enc => by obtain ⟨rfl, rfl, rfl, rfl, rfl⟩ := enc.fields_5at21_5at16_5at11_4at5_1at4; rfl)
      (fun _ enc => by simp only [rowA, enc.fld_eq 26 6 45 (by decide), decA2D, enc.fld_eq 0 4 9 (by decide), enc.fld_eq 9 2 0 (by decide), ↓reduceIte])

theorem Encoded.fields_5at21_5at16_3at8_3at4 {u : BitVec 32} {base : Nat} {d : Fin 32} {a : Fin 32} {p : Fin 8} {y : Fin 8}
    (enc : Encoded u base [(21, 5), (16, 5), (8, 3), (4, 3)] [d.val, a.val, p.val, y.val]) :
    fin5 u 21 = d ∧ fin5 u 16 = a ∧ fin3 u 8 = p ∧ fin3 u 4 = y :=
  ⟨enc.fin5_eq 0 21 (by decide) rfl, enc.fin5_eq 1 16 (by decide) rfl, enc.fin3_eq 2 8 (by decide) rfl, enc.fin3_eq 3 4 (by decide) rfl⟩

theorem roundTrip_5at21_5at16_3at8_3at4 (d : Fin 32) (a : Fin 32) (p : Fin 8) (y : Fin 8) :
    RoundTrip (.vabs d a p y) ∧ RoundTrip (.vneg d a p y) ∧ RoundTrip (.vidx d a p y) ∧ RoundTrip (.vclz d a p y) ∧
    RoundTrip (.vpopc d a p y) ∧ RoundTrip (.vredsum d a p y) ∧ RoundTrip (.vredmax d a p y) ∧
    RoundTrip (.vredmin d a p y) ∧ RoundTrip (.vredand d a p y) ∧ RoundTrip (.vredor d a p y) := by
  have fits : Fits [(21, 5), (16, 5), (8, 3), (4, 3)] [d.val, a.val, p.val, y.val] := ⟨d.isLt, a.isLt, p.isLt, y.isLt, rfl, rfl⟩
  refine ⟨?_, ?_, ?_, ?_, ?_, ?_, ?_, ?_, ?_, ?_⟩
  · exact roundTrip_x (r := .vabs) (base := 0x4000000C) rfl ⟨rfl, by decide, fits⟩
      (fun _ enc => by obtain ⟨rfl, rfl, rfl, rfl⟩ := enc.fields_5at21_5at16_3at8_3at4; rfl)
      (fun _ enc => by simp only [rowX, enc.fld_eq 26 6 16 (by decide), decX10, enc.fld_eq 0 4 12 (by decide), enc.fld_eq 11 5 0 (by decide), enc.fld_eq 7 1 0 (by decide), and_self, ↓reduceIte])
  · exact roundTrip_x (r := .vneg) (base := 0x4000000D) rfl ⟨rfl, by decide, fits⟩
      (fun _ enc => by obtain ⟨rfl, rfl, rfl, rfl⟩ := enc.fields_5at21_5at16_3at8_3at4; rfl)
      (fun _ enc => by simp only [rowX, enc.fld_eq 26 6 16 (by decide), decX10, enc.fld_eq 0 4 13 (by decide), enc.fld_eq 11 5 0 (by decide), enc.fld_eq 7 1 0 (by decide), and_self, ↓reduceIte])
  · exact roundTrip_x (r := .vidx) (base := 0x44000006) rfl ⟨rfl, by decide, fits⟩
      (fun _ enc => by obtain ⟨rfl, rfl, rfl, rfl⟩ := enc.fields_5at21_5at16_3at8_3at4; rfl)
      (fun _ enc => by simp only [rowX, enc.fld_eq 26 6 17 (by decide), decX11, enc.fld_eq 0 4 6 (by decide), enc.fld_eq 11 5 0 (by decide), enc.fld_eq 7 1 0 (by decide), and_self, ↓reduceIte])
  · exact roundTrip_x (r := .vclz) (base := 0x4400000B) rfl ⟨rfl, by decide, fits⟩
      (fun _ enc => by obtain ⟨rfl, rfl, rfl, rfl⟩ := enc.fields_5at21_5at16_3at8_3at4; rfl)
      (fun _ enc => by simp only [rowX, enc.fld_eq 26 6 17 (by decide), decX11, enc.fld_eq 0 4 11 (by decide), enc.fld_eq 11 5 0 (by decide), enc.fld_eq 7 1 0 (by decide), and_self, ↓reduceIte])
  · exact roundTrip_x (r := .vpopc) (base := 0x4400000C) rfl ⟨rfl, by decide, fits⟩
      (fun _ enc => by obtain ⟨rfl, rfl, rfl, rfl⟩ := enc.fields_5at21_5at16_3at8_3at4; rfl)
      (fun _ enc => by simp only [rowX, enc.fld_eq 26 6 17 (by decide), decX11, enc.fld_eq 0 4 12 (by decide), enc.fld_eq 11 5 0 (by decide), enc.fld_eq 7 1 0 (by decide), and_self, ↓reduceIte])
  · exact roundTrip_x (r := .vredsum) (base := 0x5C000000) rfl ⟨rfl, by decide, fits⟩
      (fun _ enc => by obtain ⟨rfl, rfl, rfl, rfl⟩ := enc.fields_5at21_5at16_3at8_3at4; rfl)
      (fun _ enc => by simp only [rowX, enc.fld_eq 26 6 23 (by decide), decX17, enc.fld_eq 0 4 0 (by decide), enc.fld_eq 11 5 0 (by decide), enc.fld_eq 7 1 0 (by decide), and_self, ↓reduceIte])
  · exact roundTrip_x (r := .vredmax) (base := 0x5C000002) rfl ⟨rfl, by decide, fits⟩
      (fun _ enc => by obtain ⟨rfl, rfl, rfl, rfl⟩ := enc.fields_5at21_5at16_3at8_3at4; rfl)
      (fun _ enc => by simp only [rowX, enc.fld_eq 26 6 23 (by decide), decX17, enc.fld_eq 0 4 2 (by decide), enc.fld_eq 11 5 0 (by decide), enc.fld_eq 7 1 0 (by decide), and_self, ↓reduceIte])
  · exact roundTrip_x (r := .vredmin) (base := 0x5C000003) rfl ⟨rfl, by decide, fits⟩
      (fun _ enc => by obtain ⟨rfl, rfl, rfl, rfl⟩ := enc.fields_5at21_5at16_3at8_3at4; rfl)
      (fun _ enc => by simp only [rowX, enc.fld_eq 26 6 23 (by decide), decX17, enc.fld_eq 0 4 3 (by decide), enc.fld_eq 11 5 0 (by decide), enc.fld_eq 7 1 0 (by decide), and_self, ↓reduceIte])
  · exact roundTrip_x (r := .vredand) (base := 0x5C000006) rfl ⟨rfl, by decide, fits⟩
      (fun _ enc => by obtain ⟨rfl, rfl, rfl, rfl⟩ := enc.fields_5at21_5at16_3at8_3at4; rfl)
      (fun _ enc => by simp only [rowX, enc.fld_eq 26 6 23 (by decide), decX17, enc.fld_eq 0 4 6 (by decide), enc.fld_eq 11 5 0 (by decide), enc.fld_eq 7 1 0 (by decide), and_self, ↓reduceIte])
  · exact roundTrip_x (r := .vredor) (base := 0x5C000007) rfl ⟨rfl, by decide, fits⟩
      (fun _ enc => by obtain ⟨rfl, rfl, rfl, rfl⟩ := enc.fields_5at21_5at16_3at8_3at4; rfl)
      (fun _ enc => by simp only [rowX, enc.fld_eq 26 6 23 (by decide), decX17, enc.fld_eq 0 4 7 (by decide), enc.fld_eq 11 5 0 (by decide), enc.fld_eq 7 1 0 (by decide), and_self, ↓reduceIte])

theorem Encoded.fields_5at21_5at16_5at11_3at8_1at4 {u : BitVec 32} {base : Nat} {d : Fin 32} {a : Fin 32} {b : Fin 32} {p : Fin 8} {y : Fin 2}
    (enc : Encoded u base [(21, 5), (16, 5), (11, 5), (8, 3), (4, 1)] [d.val, a.val, b.val, p.val, y.val]) :
    fin5 u 21 = d ∧ fin5 u 16 = a ∧ fin5 u 11 = b ∧ fin3 u 8 = p ∧ fin1 u 4 = y :=
  ⟨enc.fin5_eq 0 21 (by decide) rfl, enc.fin5_eq 1 16 (by decide) rfl, enc.fin5_eq 2 11 (by decide) rfl, enc.fin3_eq 3 8 (by decide) rfl, enc.fin1_eq 4 4 (by decide) rfl⟩

theorem roundTrip_5at21_5at16_5at11_3at8_1at4 (d : Fin 32) (a : Fin 32) (b : Fin 32) (p : Fin 8) (y : Fin 2) :
    RoundTrip (.vfadd d a b p y) ∧ RoundTrip (.vfsub d a b p y) ∧ RoundTrip (.vfmul d a b p y) ∧
    RoundTrip (.vfmin d a b p y) ∧ RoundTrip (.vfmax d a b p y) ∧ RoundTrip (.vfma d a b p y) ∧
    RoundTrip (.vfms d a b p y) ∧ RoundTrip (.vfnma d a b p y) ∧ RoundTrip (.vfnms d a b p y) := by
  have fits : Fits [(21, 5), (16, 5), (11, 5), (8, 3), (4, 1)] [d.val, a.val, b.val, p.val, y.val] := ⟨d.isLt, a.isLt, b.isLt, p.isLt, y.isLt, rfl, rfl⟩
  refine ⟨?_, ?_, ?_, ?_, ?_, ?_, ?_, ?_, ?_⟩
  · exact roundTrip_x (r := .vfadd) (base := 0x4C000080) rfl ⟨rfl, by decide, fits⟩
      (fun _ enc => by obtain ⟨rfl, rfl, rfl, rfl, rfl⟩ := enc.fields_5at21_5at16_5at11_3at8_1at4; rfl)
      (fun _ enc => by simp only [rowX, enc.fld_eq 26 6 19 (by decide), decX13, enc.fld_eq 0 4 0 (by decide), enc.fld_eq 5 3 4 (by decide), ↓reduceIte])
  · exact roundTrip_x (r := .vfsub) (base := 0x4C000081) rfl ⟨rfl, by decide, fits⟩
      (fun _ enc => by obtain ⟨rfl, rfl, rfl, rfl, rfl⟩ := enc.fields_5at21_5at16_5at11_3at8_1at4; rfl)
      (fun _ enc => by simp only [rowX, enc.fld_eq 26 6 19 (by decide), decX13, enc.fld_eq 0 4 1 (by decide), enc.fld_eq 5 3 4 (by decide), ↓reduceIte])
  · exact roundTrip_x (r := .vfmul) (base := 0x4C000082) rfl ⟨rfl, by decide, fits⟩
      (fun _ enc => by obtain ⟨rfl, rfl, rfl, rfl, rfl⟩ := enc.fields_5at21_5at16_5at11_3at8_1at4; rfl)
      (fun _ enc => by simp only [rowX, enc.fld_eq 26 6 19 (by decide), decX13, enc.fld_eq 0 4 2 (by decide), enc.fld_eq 5 3 4 (by decide), ↓reduceIte])
  · exact roundTrip_x (r := .vfmin) (base := 0x4C000083) rfl ⟨rfl, by decide, fits⟩
      (fun _ enc => by obtain ⟨rfl, rfl, rfl, rfl, rfl⟩ := enc.fields_5at21_5at16_5at11_3at8_1at4; rfl)
      (fun _ enc => by simp only [rowX, enc.fld_eq 26 6 19 (by decide), decX13, enc.fld_eq 0 4 3 (by decide), enc.fld_eq 5 3 4 (by decide), ↓reduceIte])
  · exact roundTrip_x (r := .vfmax) (base := 0x4C000084) rfl ⟨rfl, by decide, fits⟩
      (fun _ enc => by obtain ⟨rfl, rfl, rfl, rfl, rfl⟩ := enc.fields_5at21_5at16_5at11_3at8_1at4; rfl)
      (fun _ enc => by simp only [rowX, enc.fld_eq 26 6 19 (by decide), decX13, enc.fld_eq 0 4 4 (by decide), enc.fld_eq 5 3 4 (by decide), ↓reduceIte])
  · exact roundTrip_x (r := .vfma) (base := 0x50000080) rfl ⟨rfl, by decide, fits⟩
      (fun _ enc => by obtain ⟨rfl, rfl, rfl, rfl, rfl⟩ := enc.fields_5at21_5at16_5at11_3at8_1at4; rfl)
      (fun _ enc => by simp only [rowX, enc.fld_eq 26 6 20 (by decide), decX14, enc.fld_eq 0 4 0 (by decide), enc.fld_eq 5 3 4 (by decide), ↓reduceIte])
  · exact roundTrip_x (r := .vfms) (base := 0x50000081) rfl ⟨rfl, by decide, fits⟩
      (fun _ enc => by obtain ⟨rfl, rfl, rfl, rfl, rfl⟩ := enc.fields_5at21_5at16_5at11_3at8_1at4; rfl)
      (fun _ enc => by simp only [rowX, enc.fld_eq 26 6 20 (by decide), decX14, enc.fld_eq 0 4 1 (by decide), enc.fld_eq 5 3 4 (by decide), ↓reduceIte])
  · exact roundTrip_x (r := .vfnma) (base := 0x50000082) rfl ⟨rfl, by decide, fits⟩
      (fun _ enc => by obtain ⟨rfl, rfl, rfl, rfl, rfl⟩ := enc.fields_5at21_5at16_5at11_3at8_1at4; rfl)
      (fun _ enc => by simp only [rowX, enc.fld_eq 26 6 20 (by decide), decX14, enc.fld_eq 0 4 2 (by decide), enc.fld_eq 5 3 4 (by decide), ↓reduceIte])
  · exact roundTrip_x (r := .vfnms) (base := 0x50000083) rfl ⟨rfl, by decide, fits⟩
      (fun _ enc => by obtain ⟨rfl, rfl, rfl, rfl, rfl⟩ := enc.fields_5at21_5at16_5at11_3at8_1at4; rfl)
      (fun _ enc => by simp only [rowX, enc.fld_eq 26 6 20 (by decide), decX14, enc.fld_eq 0 4 3 (by decide), enc.fld_eq 5 3 4 (by decide), ↓reduceIte])

theorem Encoded.fields_5at21_5at16_16at0 {u : BitVec 32} {base : Nat} {i : Fin 32} {a : Fin 32} {l : BitVec 16}
    (enc : Encoded u base [(21, 5), (16, 5), (0, 16)] [i.val, a.val, l.toNat]) :
    fin5 u 21 = i ∧ fin5 u 16 = a ∧ u.extractLsb' 0 16 = l :=
  ⟨enc.fin5_eq 0 21 (by decide) rfl, enc.fin5_eq 1 16 (by decide) rfl, enc.extract_eq 2 0 (by decide) rfl⟩

theorem roundTrip_5at21_5at16_16at0 (i : Fin 32) (a : Fin 32) (l : BitVec 16) :
    RoundTrip (.jtab i a l) ∧ RoundTrip (.addi i a l) ∧ RoundTrip (.andi i a l) ∧ RoundTrip (.ori i a l) ∧
    RoundTrip (.xori i a l) ∧ RoundTrip (.slti i a l) ∧ RoundTrip (.lih i a l) := by
  have fits : Fits [(21, 5), (16, 5), (0, 16)] [i.val, a.val, l.toNat] := ⟨i.isLt, a.isLt, l.isLt, rfl, rfl⟩
  refine ⟨?_, ?_, ?_, ?_, ?_, ?_, ?_⟩
  · exact roundTrip_saxw (r := .jtab) (base := 0x18000000) rfl ⟨rfl, by decide, fits⟩
      (fun _ enc => by obtain ⟨rfl, rfl, rfl⟩ := enc.fields_5at21_5at16_16at0; rfl)
      (fun _ enc => ⟨by simp only [rowS, enc.fld_eq 26 6 6 (by decide)],
      by simp only [rowA, enc.fld_eq 26 6 6 (by decide)],
      by simp only [rowX, enc.fld_eq 26 6 6 (by decide)],
      by simp only [rowW, enc.fld_eq 26 6 6 (by decide)]⟩)
  · exact roundTrip_saw (r := .addi) (base := 0x44000000) rfl ⟨rfl, by decide, fits⟩
      (fun _ enc => by obtain ⟨rfl, rfl, rfl⟩ := enc.fields_5at21_5at16_16at0; rfl)
      (fun _ enc => ⟨by simp only [rowS, enc.fld_eq 26 6 17 (by decide)],
      by simp only [rowA, enc.fld_eq 26 6 17 (by decide)],
      by simp only [rowW, enc.fld_eq 26 6 17 (by decide)]⟩)
  · exact roundTrip_s (r := .andi) (base := 0x48000000) rfl ⟨rfl, by decide, fits⟩
      (fun _ enc => by obtain ⟨rfl, rfl, rfl⟩ := enc.fields_5at21_5at16_16at0; rfl)
      (fun _ enc => by simp only [rowS, enc.fld_eq 26 6 18 (by decide)])
  · exact roundTrip_s (r := .ori) (base := 0x4C000000) rfl ⟨rfl, by decide, fits⟩
      (fun _ enc => by obtain ⟨rfl, rfl, rfl⟩ := enc.fields_5at21_5at16_16at0; rfl)
      (fun _ enc => by simp only [rowS, enc.fld_eq 26 6 19 (by decide)])
  · exact roundTrip_s (r := .xori) (base := 0x50000000) rfl ⟨rfl, by decide, fits⟩
      (fun _ enc => by obtain ⟨rfl, rfl, rfl⟩ := enc.fields_5at21_5at16_16at0; rfl)
      (fun _ enc => by simp only [rowS, enc.fld_eq 26 6 20 (by decide)])
  · exact roundTrip_s (r := .slti) (base := 0x54000000) rfl ⟨rfl, by decide, fits⟩
      (fun _ enc => by obtain ⟨rfl, rfl, rfl⟩ := enc.fields_5at21_5at16_16at0; rfl)
      (fun _ enc => by simp only [rowS, enc.fld_eq 26 6 21 (by decide)])
  · exact roundTrip_saw (r := .lih) (base := 0x5C000000) rfl ⟨rfl, by decide, fits⟩
      (fun _ enc => by obtain ⟨rfl, rfl, rfl⟩ := enc.fields_5at21_5at16_16at0; rfl)
      (fun _ enc => ⟨by simp only [rowS, enc.fld_eq 26 6 23 (by decide)],
      by simp only [rowA, enc.fld_eq 26 6 23 (by decide)],
      by simp only [rowW, enc.fld_eq 26 6 23 (by decide)]⟩)

theorem Encoded.fields_5at21_5at16_2at14_14at0 {u : BitVec 32} {base : Nat} {a : Fin 32} {b : Fin 32} {h : Fin 4} {x : BitVec 14}
    (enc : Encoded u base [(21, 5), (16, 5), (14, 2), (0, 14)] [a.val, b.val, h.val, x.toNat]) :
    fin5 u 21 = a ∧ fin5 u 16 = b ∧ fin2 u 14 = h ∧ u.extractLsb' 0 14 = x :=
  ⟨enc.fin5_eq 0 21 (by decide) rfl, enc.fin5_eq 1 16 (by decide) rfl, enc.fin2_eq 2 14 (by decide) rfl, enc.extract_eq 3 0 (by decide) rfl⟩

theorem roundTrip_5at21_5at16_2at14_14at0 (a : Fin 32) (b : Fin 32) (h : Fin 4) (x : BitVec 14) :
    RoundTrip (.beq a b h x) ∧ RoundTrip (.bne a b h x) ∧ RoundTrip (.blt a b h x) ∧ RoundTrip (.bge a b h x) ∧
    RoundTrip (.bltn a b h x) ∧ RoundTrip (.bgen a b h x) := by
  have fits : Fits [(21, 5), (16, 5), (14, 2), (0, 14)] [a.val, b.val, h.val, x.toNat] := ⟨a.isLt, b.isLt, h.isLt, x.isLt, rfl, rfl⟩
  refine ⟨?_, ?_, ?_, ?_, ?_, ?_⟩
  · exact roundTrip_saxw (r := .beq) (base := 0x24000000) rfl ⟨rfl, by decide, fits⟩
      (fun _ enc => by obtain ⟨rfl, rfl, rfl, rfl⟩ := enc.fields_5at21_5at16_2at14_14at0; rfl)
      (fun _ enc => ⟨by simp only [rowS, enc.fld_eq 26 6 9 (by decide)],
      by simp only [rowA, enc.fld_eq 26 6 9 (by decide)],
      by simp only [rowX, enc.fld_eq 26 6 9 (by decide)],
      by simp only [rowW, enc.fld_eq 26 6 9 (by decide)]⟩)
  · exact roundTrip_saxw (r := .bne) (base := 0x28000000) rfl ⟨rfl, by decide, fits⟩
      (fun _ enc => by obtain ⟨rfl, rfl, rfl, rfl⟩ := enc.fields_5at21_5at16_2at14_14at0; rfl)
      (fun _ enc => ⟨by simp only [rowS, enc.fld_eq 26 6 10 (by decide)],
      by simp only [rowA, enc.fld_eq 26 6 10 (by decide)],
      by simp only [rowX, enc.fld_eq 26 6 10 (by decide)],
      by simp only [rowW, enc.fld_eq 26 6 10 (by decide)]⟩)
  · exact roundTrip_saxw (r := .blt) (base := 0x2C000000) rfl ⟨rfl, by decide, fits⟩
      (fun _ enc => by obtain ⟨rfl, rfl, rfl, rfl⟩ := enc.fields_5at21_5at16_2at14_14at0; rfl)
      (fun _ enc => ⟨by simp only [rowS, enc.fld_eq 26 6 11 (by decide)],
      by simp only [rowA, enc.fld_eq 26 6 11 (by decide)],
      by simp only [rowX, enc.fld_eq 26 6 11 (by decide)],
      by simp only [rowW, enc.fld_eq 26 6 11 (by decide)]⟩)
  · exact roundTrip_saxw (r := .bge) (base := 0x30000000) rfl ⟨rfl, by decide, fits⟩
      (fun _ enc => by obtain ⟨rfl, rfl, rfl, rfl⟩ := enc.fields_5at21_5at16_2at14_14at0; rfl)
      (fun _ enc => ⟨by simp only [rowS, enc.fld_eq 26 6 12 (by decide)],
      by simp only [rowA, enc.fld_eq 26 6 12 (by decide)],
      by simp only [rowX, enc.fld_eq 26 6 12 (by decide)],
      by simp only [rowW, enc.fld_eq 26 6 12 (by decide)]⟩)
  · exact roundTrip_saxw (r := .bltn) (base := 0x34000000) rfl ⟨rfl, by decide, fits⟩
      (fun _ enc => by obtain ⟨rfl, rfl, rfl, rfl⟩ := enc.fields_5at21_5at16_2at14_14at0; rfl)
      (fun _ enc => ⟨by simp only [rowS, enc.fld_eq 26 6 13 (by decide)],
      by simp only [rowA, enc.fld_eq 26 6 13 (by decide)],
      by simp only [rowX, enc.fld_eq 26 6 13 (by decide)],
      by simp only [rowW, enc.fld_eq 26 6 13 (by decide)]⟩)
  · exact roundTrip_saxw (r := .bgen) (base := 0x38000000) rfl ⟨rfl, by decide, fits⟩
      (fun _ enc => by obtain ⟨rfl, rfl, rfl, rfl⟩ := enc.fields_5at21_5at16_2at14_14at0; rfl)
      (fun _ enc => ⟨by simp only [rowS, enc.fld_eq 26 6 14 (by decide)],
      by simp only [rowA, enc.fld_eq 26 6 14 (by decide)],
      by simp only [rowX, enc.fld_eq 26 6 14 (by decide)],
      by simp only [rowW, enc.fld_eq 26 6 14 (by decide)]⟩)

theorem Encoded.fields_5at21 {u : BitVec 32} {base : Nat} {d : Fin 32}
    (enc : Encoded u base [(21, 5)] [d.val]) :
    fin5 u 21 = d :=
  enc.fin5_eq 0 21 (by decide) rfl

theorem roundTrip_5at21 (d : Fin 32) (k : BitVec 32) :
    RoundTrip (.li d k) ∧ RoundTrip (.rqpop d) ∧ RoundTrip (.mstat d) ∧ RoundTrip (.xrstat d) ∧ RoundTrip (.vwidth d) ∧
    RoundTrip (.vpop d) := by
  have fits : Fits [(21, 5)] [d.val] := ⟨d.isLt, rfl, rfl⟩
  refine ⟨?_, ?_, ?_, ?_, ?_, ?_⟩
  · exact roundTrip_saw (r := .li) (base := 0x64000000) rfl ⟨rfl, by decide, fits⟩
      (fun _ enc => by obtain rfl := enc.fields_5at21; rfl)
      (fun _ enc => ⟨by simp only [rowS, enc.fld_eq 26 6 25 (by decide), decSAW19, enc.fld_eq 0 21 0 (by decide), ↓reduceIte],
      by simp only [rowA, enc.fld_eq 26 6 25 (by decide), decSAW19, enc.fld_eq 0 21 0 (by decide), ↓reduceIte],
      by simp only [rowW, enc.fld_eq 26 6 25 (by decide), decSAW19, enc.fld_eq 0 21 0 (by decide), ↓reduceIte]⟩)
  · exact roundTrip_s (r := .rqpop) (base := 0x8C000001) rfl ⟨rfl, by decide, fits⟩
      (fun _ enc => by obtain rfl := enc.fields_5at21; rfl)
      (fun _ enc => by simp only [rowS, enc.fld_eq 26 6 35 (by decide), decS23, enc.fld_eq 0 11 1 (by decide), enc.fld_eq 11 10 0 (by decide), ↓reduceIte])
  · exact roundTrip_s (r := .mstat) (base := 0xB8000003) rfl ⟨rfl, by decide, fits⟩
      (fun _ enc => by obtain rfl := enc.fields_5at21; rfl)
      (fun _ enc => by simp only [rowS, enc.fld_eq 26 6 46 (by decide), decS2E, enc.fld_eq 0 11 3 (by decide), enc.fld_eq 11 10 0 (by decide), ↓reduceIte])
  · exact roundTrip_s (r := .xrstat) (base := 0xCC000002) rfl ⟨rfl, by decide, fits⟩
      (fun _ enc => by obtain rfl := enc.fields_5at21; rfl)
      (fun _ enc => by simp only [rowS, enc.fld_eq 26 6 51 (by decide), decS33, enc.fld_eq 0 11 2 (by decide), enc.fld_eq 11 10 0 (by decide), ↓reduceIte])
  · exact roundTrip_x (r := .vwidth) (base := 0x68000000) rfl ⟨rfl, by decide, fits⟩
      (fun _ enc => by obtain rfl := enc.fields_5at21; rfl)
      (fun _ enc => by simp only [rowX, enc.fld_eq 26 6 26 (by decide), decX1A, enc.fld_eq 0 21 0 (by decide), ↓reduceIte])
  · exact roundTrip_x (r := .vpop) (base := 0x78000000) rfl ⟨rfl, by decide, fits⟩
      (fun _ enc => by obtain rfl := enc.fields_5at21; rfl)
      (fun _ enc => by simp only [rowX, enc.fld_eq 26 6 30 (by decide), decX1E, enc.fld_eq 0 11 0 (by decide), enc.fld_eq 11 10 0 (by decide), ↓reduceIte])

theorem Encoded.fields_3at21_5at16_5at11_3at8_3at4 {u : BitVec 32} {base : Nat} {d : Fin 8} {a : Fin 32} {b : Fin 32} {p : Fin 8} {y : Fin 8}
    (enc : Encoded u base [(21, 3), (16, 5), (11, 5), (8, 3), (4, 3)] [d.val, a.val, b.val, p.val, y.val]) :
    fin3 u 21 = d ∧ fin5 u 16 = a ∧ fin5 u 11 = b ∧ fin3 u 8 = p ∧ fin3 u 4 = y :=
  ⟨enc.fin3_eq 0 21 (by decide) rfl, enc.fin5_eq 1 16 (by decide) rfl, enc.fin5_eq 2 11 (by decide) rfl, enc.fin3_eq 3 8 (by decide) rfl, enc.fin3_eq 4 4 (by decide) rfl⟩

theorem roundTrip_3at21_5at16_5at11_3at8_3at4 (d : Fin 8) (a : Fin 32) (b : Fin 32) (p : Fin 8) (y : Fin 8) :
    RoundTrip (.vcmpEq d a b p y) ∧ RoundTrip (.vcmpNe d a b p y) ∧ RoundTrip (.vcmpLt d a b p y) ∧
    RoundTrip (.vcmpLe d a b p y) ∧ RoundTrip (.vcmpGt d a b p y) ∧ RoundTrip (.vcmpGe d a b p y) := by
  have fits : Fits [(21, 3), (16, 5), (11, 5), (8, 3), (4, 3)] [d.val, a.val, b.val, p.val, y.val] := ⟨d.isLt, a.isLt, b.isLt, p.isLt, y.isLt, rfl, rfl⟩
  refine ⟨?_, ?_, ?_, ?_, ?_, ?_⟩
  · exact roundTrip_x (r := .vcmpEq) (base := 0x48000000) rfl ⟨rfl, by decide, fits⟩
      (fun _ enc => by obtain ⟨rfl, rfl, rfl, rfl, rfl⟩ := enc.fields_3at21_5at16_5at11_3at8_3at4; rfl)
      (fun _ enc => by simp only [rowX, enc.fld_eq 26 6 18 (by decide), decX12, enc.fld_eq 0 4 0 (by decide), enc.fld_eq 24 2 0 (by decide), enc.fld_eq 7 1 0 (by decide), and_self, ↓reduceIte])
  · exact roundTrip_x (r := .vcmpNe) (base := 0x48000001) rfl ⟨rfl, by decide, fits⟩
      (fun _ enc => by obtain ⟨rfl, rfl, rfl, rfl, rfl⟩ := enc.fields_3at21_5at16_5at11_3at8_3at4; rfl)
      (fun _ enc => by simp only [rowX, enc.fld_eq 26 6 18 (by decide), decX12, enc.fld_eq 0 4 1 (by decide), enc.fld_eq 24 2 0 (by decide), enc.fld_eq 7 1 0 (by decide), and_self, ↓reduceIte])
  · exact roundTrip_x (r := .vcmpLt) (base := 0x48000002) rfl ⟨rfl, by decide, fits⟩
      (fun _ enc => by obtain ⟨rfl, rfl, rfl, rfl, rfl⟩ := enc.fields_3at21_5at16_5at11_3at8_3at4; rfl)
      (fun _ enc => by simp only [rowX, enc.fld_eq 26 6 18 (by decide), decX12, enc.fld_eq 0 4 2 (by decide), enc.fld_eq 24 2 0 (by decide), enc.fld_eq 7 1 0 (by decide), and_self, ↓reduceIte])
  · exact roundTrip_x (r := .vcmpLe) (base := 0x48000003) rfl ⟨rfl, by decide, fits⟩
      (fun _ enc => by obtain ⟨rfl, rfl, rfl, rfl, rfl⟩ := enc.fields_3at21_5at16_5at11_3at8_3at4; rfl)
      (fun _ enc => by simp only [rowX, enc.fld_eq 26 6 18 (by decide), decX12, enc.fld_eq 0 4 3 (by decide), enc.fld_eq 24 2 0 (by decide), enc.fld_eq 7 1 0 (by decide), and_self, ↓reduceIte])
  · exact roundTrip_x (r := .vcmpGt) (base := 0x48000004) rfl ⟨rfl, by decide, fits⟩
      (fun _ enc => by obtain ⟨rfl, rfl, rfl, rfl, rfl⟩ := enc.fields_3at21_5at16_5at11_3at8_3at4; rfl)
      (fun _ enc => by simp only [rowX, enc.fld_eq 26 6 18 (by decide), decX12, enc.fld_eq 0 4 4 (by decide), enc.fld_eq 24 2 0 (by decide), enc.fld_eq 7 1 0 (by decide), and_self, ↓reduceIte])
  · exact roundTrip_x (r := .vcmpGe) (base := 0x48000005) rfl ⟨rfl, by decide, fits⟩
      (fun _ enc => by obtain ⟨rfl, rfl, rfl, rfl, rfl⟩ := enc.fields_3at21_5at16_5at11_3at8_3at4; rfl)
      (fun _ enc => by simp only [rowX, enc.fld_eq 26 6 18 (by decide), decX12, enc.fld_eq 0 4 5 (by decide), enc.fld_eq 24 2 0 (by decide), enc.fld_eq 7 1 0 (by decide), and_self, ↓reduceIte])

theorem Encoded.fields_16at0 {u : BitVec 32} {base : Nat} {n : BitVec 16}
    (enc : Encoded u base [(0, 16)] [n.toNat]) :
    u.extractLsb' 0 16 = n :=
  enc.extract_eq 0 0 (by decide) rfl

theorem roundTrip_16at0 (n : BitVec 16) :
    RoundTrip (.rpush n) ∧ RoundTrip (.rpop n) ∧ RoundTrip (.mark n) ∧ RoundTrip (.sploop n) := by
  have fits : Fits [(0, 16)] [n.toNat] := ⟨n.isLt, rfl, rfl⟩
  refine ⟨?_, ?_, ?_, ?_⟩
  · exact roundTrip_s (r := .rpush) (base := 0xF4000000) rfl ⟨rfl, by decide, fits⟩
      (fun _ enc => by obtain rfl := enc.fields_16at0; rfl)
      (fun _ enc => by simp only [rowS, enc.fld_eq 26 6 61 (by decide), decS3D, enc.fld_eq 21 2 0 (by decide), enc.fld_eq 23 3 0 (by decide), enc.fld_eq 16 5 0 (by decide), and_self, ↓reduceIte])
  · exact roundTrip_s (r := .rpop) (base := 0xF4200000) rfl ⟨rfl, by decide, fits⟩
      (fun _ enc => by obtain rfl := enc.fields_16at0; rfl)
      (fun _ enc => by simp only [rowS, enc.fld_eq 26 6 61 (by decide), decS3D, enc.fld_eq 21 2 1 (by decide), enc.fld_eq 23 3 0 (by decide), enc.fld_eq 16 5 0 (by decide), and_self, ↓reduceIte])
  · exact roundTrip_s (r := .mark) (base := 0xF4400000) rfl ⟨rfl, by decide, fits⟩
      (fun _ enc => by obtain rfl := enc.fields_16at0; rfl)
      (fun _ enc => by simp only [rowS, enc.fld_eq 26 6 61 (by decide), decS3D, enc.fld_eq 21 2 2 (by decide), enc.fld_eq 23 3 0 (by decide), enc.fld_eq 16 5 0 (by decide), and_self, ↓reduceIte])
  · exact roundTrip_x (r := .sploop) (base := 0x6C000000) rfl ⟨rfl, by decide, fits⟩
      (fun _ enc => by obtain rfl := enc.fields_16at0; rfl)
      (fun _ enc => by simp only [rowX, enc.fld_eq 26 6 27 (by decide), decX1B, enc.fld_eq 21 1 0 (by decide), enc.fld_eq 22 4 0 (by decide), enc.fld_eq 16 5 0 (by decide), and_self, ↓reduceIte])

theorem Encoded.fields_5at16_5at11 {u : BitVec 32} {base : Nat} {a : Fin 32} {b : Fin 32}
    (enc : Encoded u base [(16, 5), (11, 5)] [a.val, b.val]) :
    fin5 u 16 = a ∧ fin5 u 11 = b :=
  ⟨enc.fin5_eq 0 16 (by decide) rfl, enc.fin5_eq 1 11 (by decide) rfl⟩

theorem roundTrip_5at16_5at11 (a : Fin 32) (b : Fin 32) :
    RoundTrip (.ctxst a b) ∧ RoundTrip (.ctxld a b) ∧ RoundTrip (.rqpush a b) ∧ RoundTrip (.tmset a b) ∧
    RoundTrip (.wlock a b) := by
  have fits : Fits [(16, 5), (11, 5)] [a.val, b.val] := ⟨a.isLt, b.isLt, rfl, rfl⟩
  refine ⟨?_, ?_, ?_, ?_, ?_⟩
  · exact roundTrip_s (r := .ctxst) (base := 0x88000001) rfl ⟨rfl, by decide, fits⟩
      (fun _ enc => by obtain ⟨rfl, rfl⟩ := enc.fields_5at16_5at11; rfl)
      (fun _ enc => by simp only [rowS, enc.fld_eq 26 6 34 (by decide), decS22, enc.fld_eq 0 11 1 (by decide), enc.fld_eq 21 5 0 (by decide), ↓reduceIte])
  · exact roundTrip_s (r := .ctxld) (base := 0x88000002) rfl ⟨rfl, by decide, fits⟩
      (fun _ enc => by obtain ⟨rfl, rfl⟩ := enc.fields_5at16_5at11; rfl)
      (fun _ enc => by simp only [rowS, enc.fld_eq 26 6 34 (by decide), decS22, enc.fld_eq 0 11 2 (by decide), enc.fld_eq 21 5 0 (by decide), ↓reduceIte])
  · exact roundTrip_s (r := .rqpush) (base := 0x8C000000) rfl ⟨rfl, by decide, fits⟩
      (fun _ enc => by obtain ⟨rfl, rfl⟩ := enc.fields_5at16_5at11; rfl)
      (fun _ enc => by simp only [rowS, enc.fld_eq 26 6 35 (by decide), decS23, enc.fld_eq 0 11 0 (by decide), enc.fld_eq 21 5 0 (by decide), ↓reduceIte])
  · exact roundTrip_s (r := .tmset) (base := 0x90000000) rfl ⟨rfl, by decide, fits⟩
      (fun _ enc => by obtain ⟨rfl, rfl⟩ := enc.fields_5at16_5at11; rfl)
      (fun _ enc => by simp only [rowS, enc.fld_eq 26 6 36 (by decide), decS24, enc.fld_eq 21 5 0 (by decide), enc.fld_eq 0 11 0 (by decide), and_self, ↓reduceIte])
  · exact roundTrip_s (r := .wlock) (base := 0x94000000) rfl ⟨rfl, by decide, fits⟩
      (fun _ enc => by obtain ⟨rfl, rfl⟩ := enc.fields_5at16_5at11; rfl)
      (fun _ enc => by simp only [rowS, enc.fld_eq 26 6 37 (by decide), decS25, enc.fld_eq 0 11 0 (by decide), enc.fld_eq 21 5 0 (by decide), ↓reduceIte])

theorem Encoded.fields_4at21_5at16_5at11 {u : BitVec 32} {base : Nat} {s : Fin 16} {a : Fin 32} {b : Fin 32}
    (enc : Encoded u base [(21, 4), (16, 5), (11, 5)] [s.val, a.val, b.val]) :
    fin4 u 21 = s ∧ fin5 u 16 = a ∧ fin5 u 11 = b :=
  ⟨enc.fin4_eq 0 21 (by decide) rfl, enc.fin5_eq 1 16 (by decide) rfl, enc.fin5_eq 2 11 (by decide) rfl⟩

theorem roundTrip_4at21_5at16_5at11 (s : Fin 16) (a : Fin 32) (b : Fin 32) :
    RoundTrip (.mgrp s a b) ∧ RoundTrip (.mrd s a b) ∧ RoundTrip (.xperm s a b) ∧ RoundTrip (.xsend s a b) ∧
    RoundTrip (.xsum s a b) := by
  have fits : Fits [(21, 4), (16, 5), (11, 5)] [s.val, a.val, b.val] := ⟨s.isLt, a.isLt, b.isLt, rfl, rfl⟩
  refine ⟨?_, ?_, ?_, ?_, ?_⟩
  · exact roundTrip_s (r := .mgrp) (base := 0xB0000000) rfl ⟨rfl, by decide, fits⟩
      (fun _ enc => by obtain ⟨rfl, rfl, rfl⟩ := enc.fields_4at21_5at16_5at11; rfl)
      (fun _ enc => by simp only [rowS, enc.fld_eq 26 6 44 (by decide), decS2C, enc.fld_eq 25 1 0 (by decide), enc.fld_eq 0 11 0 (by decide), and_self, ↓reduceIte])
  · exact roundTrip_s (r := .mrd) (base := 0xB8000001) rfl ⟨rfl, by decide, fits⟩
      (fun _ enc => by obtain ⟨rfl, rfl, rfl⟩ := enc.fields_4at21_5at16_5at11; rfl)
      (fun _ enc => by simp only [rowS, enc.fld_eq 26 6 46 (by decide), decS2E, enc.fld_eq 0 11 1 (by decide), enc.fld_eq 25 1 0 (by decide), ↓reduceIte])
  · exact roundTrip_s (r := .xperm) (base := 0xC4000000) rfl ⟨rfl, by decide, fits⟩
      (fun _ enc => by obtain ⟨rfl, rfl, rfl⟩ := enc.fields_4at21_5at16_5at11; rfl)
      (fun _ enc => by simp only [rowS, enc.fld_eq 26 6 49 (by decide), decS31, enc.fld_eq 25 1 0 (by decide), enc.fld_eq 0 11 0 (by decide), and_self, ↓reduceIte])
  · exact roundTrip_s (r := .xsend) (base := 0xC8000000) rfl ⟨rfl, by decide, fits⟩
      (fun _ enc => by obtain ⟨rfl, rfl, rfl⟩ := enc.fields_4at21_5at16_5at11; rfl)
      (fun _ enc => by simp only [rowS, enc.fld_eq 26 6 50 (by decide), decS32, enc.fld_eq 25 1 0 (by decide), enc.fld_eq 0 11 0 (by decide), and_self, ↓reduceIte])
  · exact roundTrip_s (r := .xsum) (base := 0xD4000000) rfl ⟨rfl, by decide, fits⟩
      (fun _ enc => by obtain ⟨rfl, rfl, rfl⟩ := enc.fields_4at21_5at16_5at11; rfl)
      (fun _ enc => by simp only [rowS, enc.fld_eq 26 6 53 (by decide), decS35, enc.fld_eq 25 1 0 (by decide), enc.fld_eq 0 11 0 (by decide), and_self, ↓reduceIte])

theorem Encoded.fields_5at21_5at16_5at11_3at8_4at4 {u : BitVec 32} {base : Nat} {d : Fin 32} {a : Fin 32} {b : Fin 32} {p : Fin 8} {y : Fin 16}
    (enc : Encoded u base [(21, 5), (16, 5), (11, 5), (8, 3), (4, 4)] [d.val, a.val, b.val, p.val, y.val]) :
    fin5 u 21 = d ∧ fin5 u 16 = a ∧ fin5 u 11 = b ∧ fin3 u 8 = p ∧ fin4 u 4 = y :=
  ⟨enc.fin5_eq 0 21 (by decide) rfl, enc.fin5_eq 1 16 (by decide) rfl, enc.fin5_eq 2 11 (by decide) rfl, enc.fin3_eq 3 8 (by decide) rfl, enc.fin4_eq 4 4 (by decide) rfl⟩

theorem roundTrip_5at21_5at16_5at11_3at8_4at4 (d : Fin 32) (a : Fin 32) (b : Fin 32) (p : Fin 8) (y : Fin 16) :
    RoundTrip (.vsel d a b p y) ∧ RoundTrip (.vshuf d a b p y) ∧ RoundTrip (.vslide d a b p y) ∧
    RoundTrip (.vzip d a b p y) ∧ RoundTrip (.vunzip d a b p y) := by
  have fits : Fits [(21, 5), (16, 5), (11, 5), (8, 3), (4, 4)] [d.val, a.val, b.val, p.val, y.val] := ⟨d.isLt, a.isLt, b.isLt, p.isLt, y.isLt, rfl, rfl⟩
  refine ⟨?_, ?_, ?_, ?_, ?_⟩
  · exact roundTrip_x (r := .vsel) (base := 0x44000001) rfl ⟨rfl, by decide, fits⟩
      (fun _ enc => by obtain ⟨rfl, rfl, rfl, rfl, rfl⟩ := enc.fields_5at21_5at16_5at11_3at8_4at4; rfl)
      (fun _ enc => by simp only [rowX, enc.fld_eq 26 6 17 (by decide), decX11, enc.fld_eq 0 4 1 (by decide)])
  · exact roundTrip_x (r := .vshuf) (base := 0x44000002) rfl ⟨rfl, by decide, fits⟩
      (fun _ enc => by obtain ⟨rfl, rfl, rfl, rfl, rfl⟩ := enc.fields_5at21_5at16_5at11_3at8_4at4; rfl)
      (fun _ enc => by simp only [rowX, enc.fld_eq 26 6 17 (by decide), decX11, enc.fld_eq 0 4 2 (by decide)])
  · exact roundTrip_x (r := .vslide) (base := 0x44000003) rfl ⟨rfl, by decide, fits⟩
      (fun _ enc => by obtain ⟨rfl, rfl, rfl, rfl, rfl⟩ := enc.fields_5at21_5at16_5at11_3at8_4at4; rfl)
      (fun _ enc => by simp only [rowX, enc.fld_eq 26 6 17 (by decide), decX11, enc.fld_eq 0 4 3 (by decide)])
  · exact roundTrip_x (r := .vzip) (base := 0x44000004) rfl ⟨rfl, by decide, fits⟩
      (fun _ enc => by obtain ⟨rfl, rfl, rfl, rfl, rfl⟩ := enc.fields_5at21_5at16_5at11_3at8_4at4; rfl)
      (fun _ enc => by simp only [rowX, enc.fld_eq 26 6 17 (by decide), decX11, enc.fld_eq 0 4 4 (by decide)])
  · exact roundTrip_x (r := .vunzip) (base := 0x44000005) rfl ⟨rfl, by decide, fits⟩
      (fun _ enc => by obtain ⟨rfl, rfl, rfl, rfl, rfl⟩ := enc.fields_5at21_5at16_5at11_3at8_4at4; rfl)
      (fun _ enc => by simp only [rowX, enc.fld_eq 26 6 17 (by decide), decX11, enc.fld_eq 0 4 5 (by decide)])

theorem Encoded.fields_5at21_5at16_3at8_1at4 {u : BitVec 32} {base : Nat} {d : Fin 32} {a : Fin 32} {p : Fin 8} {y : Fin 2}
    (enc : Encoded u base [(21, 5), (16, 5), (8, 3), (4, 1)] [d.val, a.val, p.val, y.val]) :
    fin5 u 21 = d ∧ fin5 u 16 = a ∧ fin3 u 8 = p ∧ fin1 u 4 = y :=
  ⟨enc.fin5_eq 0 21 (by decide) rfl, enc.fin5_eq 1 16 (by decide) rfl, enc.fin3_eq 2 8 (by decide) rfl, enc.fin1_eq 3 4 (by decide) rfl⟩

theorem roundTrip_5at21_5at16_3at8_1at4 (d : Fin 32) (a : Fin 32) (p : Fin 8) (y : Fin 2) :
    RoundTrip (.vfabs d a p y) ∧ RoundTrip (.vfneg d a p y) ∧ RoundTrip (.vfredsum d a p y) ∧
    RoundTrip (.vfredmax d a p y) ∧ RoundTrip (.vfredmin d a p y) := by
  have fits : Fits [(21, 5), (16, 5), (8, 3), (4, 1)] [d.val, a.val, p.val, y.val] := ⟨d.isLt, a.isLt, p.isLt, y.isLt, rfl, rfl⟩
  refine ⟨?_, ?_, ?_, ?_, ?_⟩
  · exact roundTrip_x (r := .vfabs) (base := 0x4C000085) rfl ⟨rfl, by decide, fits⟩
      (fun _ enc => by obtain ⟨rfl, rfl, rfl, rfl⟩ := enc.fields_5at21_5at16_3at8_1at4; rfl)
      (fun _ enc => by simp only [rowX, enc.fld_eq 26 6 19 (by decide), decX13, enc.fld_eq 0 4 5 (by decide), enc.fld_eq 11 5 0 (by decide), enc.fld_eq 5 3 4 (by decide), and_self, ↓reduceIte])
  · exact roundTrip_x (r := .vfneg) (base := 0x4C000086) rfl ⟨rfl, by decide, fits⟩
      (fun _ enc => by obtain ⟨rfl, rfl, rfl, rfl⟩ := enc.fields_5at21_5at16_3at8_1at4; rfl)
      (fun _ enc => by simp only [rowX, enc.fld_eq 26 6 19 (by decide), decX13, enc.fld_eq 0 4 6 (by decide), enc.fld_eq 11 5 0 (by decide), enc.fld_eq 5 3 4 (by decide), and_self, ↓reduceIte])
  · exact roundTrip_x (r := .vfredsum) (base := 0x5C000081) rfl ⟨rfl, by decide, fits⟩
      (fun _ enc => by obtain ⟨rfl, rfl, rfl, rfl⟩ := enc.fields_5at21_5at16_3at8_1at4; rfl)
      (fun _ enc => by simp only [rowX, enc.fld_eq 26 6 23 (by decide), decX17, enc.fld_eq 0 4 1 (by decide), enc.fld_eq 11 5 0 (by decide), enc.fld_eq 5 3 4 (by decide), and_self, ↓reduceIte])
  · exact roundTrip_x (r := .vfredmax) (base := 0x5C000084) rfl ⟨rfl, by decide, fits⟩
      (fun _ enc => by obtain ⟨rfl, rfl, rfl, rfl⟩ := enc.fields_5at21_5at16_3at8_1at4; rfl)
      (fun _ enc => by simp only [rowX, enc.fld_eq 26 6 23 (by decide), decX17, enc.fld_eq 0 4 4 (by decide), enc.fld_eq 11 5 0 (by decide), enc.fld_eq 5 3 4 (by decide), and_self, ↓reduceIte])
  · exact roundTrip_x (r := .vfredmin) (base := 0x5C000085) rfl ⟨rfl, by decide, fits⟩
      (fun _ enc => by obtain ⟨rfl, rfl, rfl, rfl⟩ := enc.fields_5at21_5at16_3at8_1at4; rfl)
      (fun _ enc => by simp only [rowX, enc.fld_eq 26 6 23 (by decide), decX17, enc.fld_eq 0 4 5 (by decide), enc.fld_eq 11 5 0 (by decide), enc.fld_eq 5 3 4 (by decide), and_self, ↓reduceIte])

theorem Encoded.fields_5at16_12at0 {u : BitVec 32} {base : Nat} {a : Fin 32} {c : BitVec 12}
    (enc : Encoded u base [(16, 5), (0, 12)] [a.val, c.toNat]) :
    fin5 u 16 = a ∧ u.extractLsb' 0 12 = c :=
  ⟨enc.fin5_eq 0 16 (by decide) rfl, enc.extract_eq 1 0 (by decide) rfl⟩

theorem roundTrip_5at16_12at0 (a : Fin 32) (c : BitVec 12) :
    RoundTrip (.csrw a c) ∧ RoundTrip (.csrs a c) ∧ RoundTrip (.csrc a c) ∧ RoundTrip (.mcfgr a c) := by
  have fits : Fits [(16, 5), (0, 12)] [a.val, c.toNat] := ⟨a.isLt, c.isLt, rfl, rfl⟩
  refine ⟨?_, ?_, ?_, ?_⟩
  · exact roundTrip_s (r := .csrw) (base := 0x80001000) rfl ⟨rfl, by decide, fits⟩
      (fun _ enc => by obtain ⟨rfl, rfl⟩ := enc.fields_5at16_12at0; rfl)
      (fun _ enc => by simp only [rowS, enc.fld_eq 26 6 32 (by decide), decS20, enc.fld_eq 12 2 1 (by decide), enc.fld_eq 21 5 0 (by decide), enc.fld_eq 14 2 0 (by decide), and_self, ↓reduceIte])
  · exact roundTrip_s (r := .csrs) (base := 0x80002000) rfl ⟨rfl, by decide, fits⟩
      (fun _ enc => by obtain ⟨rfl, rfl⟩ := enc.fields_5at16_12at0; rfl)
      (fun _ enc => by simp only [rowS, enc.fld_eq 26 6 32 (by decide), decS20, enc.fld_eq 12 2 2 (by decide), enc.fld_eq 21 5 0 (by decide), enc.fld_eq 14 2 0 (by decide), and_self, ↓reduceIte])
  · exact roundTrip_s (r := .csrc) (base := 0x80003000) rfl ⟨rfl, by decide, fits⟩
      (fun _ enc => by obtain ⟨rfl, rfl⟩ := enc.fields_5at16_12at0; rfl)
      (fun _ enc => by simp only [rowS, enc.fld_eq 26 6 32 (by decide), decS20, enc.fld_eq 12 2 3 (by decide), enc.fld_eq 21 5 0 (by decide), enc.fld_eq 14 2 0 (by decide), and_self, ↓reduceIte])
  · exact roundTrip_s (r := .mcfgr) (base := 0xA4000000) rfl ⟨rfl, by decide, fits⟩
      (fun _ enc => by obtain ⟨rfl, rfl⟩ := enc.fields_5at16_12at0; rfl)
      (fun _ enc => by simp only [rowS, enc.fld_eq 26 6 41 (by decide), decS29, enc.fld_eq 21 5 0 (by decide), enc.fld_eq 12 4 0 (by decide), and_self, ↓reduceIte])

theorem Encoded.fields_5at21_5at16_4at11_3at8 {u : BitVec 32} {base : Nat} {d : Fin 32} {a : Fin 32} {s : Fin 16} {p : Fin 8}
    (enc : Encoded u base [(21, 5), (16, 5), (11, 4), (8, 3)] [d.val, a.val, s.val, p.val]) :
    fin5 u 21 = d ∧ fin5 u 16 = a ∧ fin4 u 11 = s ∧ fin3 u 8 = p :=
  ⟨enc.fin5_eq 0 21 (by decide) rfl, enc.fin5_eq 1 16 (by decide) rfl, enc.fin4_eq 2 11 (by decide) rfl, enc.fin3_eq 3 8 (by decide) rfl⟩

theorem roundTrip_5at21_5at16_4at11_3at8 (d : Fin 32) (a : Fin 32) (s : Fin 16) (p : Fin 8) :
    RoundTrip (.vexp2 d a s p) ∧ RoundTrip (.vlog2 d a s p) ∧ RoundTrip (.vrcp d a s p) ∧ RoundTrip (.vrsqrt d a s p) := by
  have fits : Fits [(21, 5), (16, 5), (11, 4), (8, 3)] [d.val, a.val, s.val, p.val] := ⟨d.isLt, a.isLt, s.isLt, p.isLt, rfl, rfl⟩
  refine ⟨?_, ?_, ?_, ?_⟩
  · exact roundTrip_x (r := .vexp2) (base := 0x70000090) rfl ⟨rfl, by decide, fits⟩
      (fun _ enc => by obtain ⟨rfl, rfl, rfl, rfl⟩ := enc.fields_5at21_5at16_4at11_3at8; rfl)
      (fun _ enc => by simp only [rowX, enc.fld_eq 26 6 28 (by decide), decX1C, enc.fld_eq 0 4 0 (by decide), enc.fld_eq 15 1 0 (by decide), enc.fld_eq 4 4 9 (by decide), and_self, ↓reduceIte])
  · exact roundTrip_x (r := .vlog2) (base := 0x70000091) rfl ⟨rfl, by decide, fits⟩
      (fun _ enc => by obtain ⟨rfl, rfl, rfl, rfl⟩ := enc.fields_5at21_5at16_4at11_3at8; rfl)
      (fun _ enc => by simp only [rowX, enc.fld_eq 26 6 28 (by decide), decX1C, enc.fld_eq 0 4 1 (by decide), enc.fld_eq 15 1 0 (by decide), enc.fld_eq 4 4 9 (by decide), and_self, ↓reduceIte])
  · exact roundTrip_x (r := .vrcp) (base := 0x70000092) rfl ⟨rfl, by decide, fits⟩
      (fun _ enc => by obtain ⟨rfl, rfl, rfl, rfl⟩ := enc.fields_5at21_5at16_4at11_3at8; rfl)
      (fun _ enc => by simp only [rowX, enc.fld_eq 26 6 28 (by decide), decX1C, enc.fld_eq 0 4 2 (by decide), enc.fld_eq 15 1 0 (by decide), enc.fld_eq 4 4 9 (by decide), and_self, ↓reduceIte])
  · exact roundTrip_x (r := .vrsqrt) (base := 0x70000093) rfl ⟨rfl, by decide, fits⟩
      (fun _ enc => by obtain ⟨rfl, rfl, rfl, rfl⟩ := enc.fields_5at21_5at16_4at11_3at8; rfl)
      (fun _ enc => by simp only [rowX, enc.fld_eq 26 6 28 (by decide), decX1C, enc.fld_eq 0 4 3 (by decide), enc.fld_eq 15 1 0 (by decide), enc.fld_eq 4 4 9 (by decide), and_self, ↓reduceIte])

theorem Encoded.fields_5at21_5at16_3at13_3at9_9at0 {u : BitVec 32} {base : Nat} {d : Fin 32} {a : Fin 32} {p : Fin 8} {y : Fin 8} {i : BitVec 9}
    (enc : Encoded u base [(21, 5), (16, 5), (13, 3), (9, 3), (0, 9)] [d.val, a.val, p.val, y.val, i.toNat]) :
    fin5 u 21 = d ∧ fin5 u 16 = a ∧ fin3 u 13 = p ∧ fin3 u 9 = y ∧ u.extractLsb' 0 9 = i :=
  ⟨enc.fin5_eq 0 21 (by decide) rfl, enc.fin5_eq 1 16 (by decide) rfl, enc.fin3_eq 2 13 (by decide) rfl, enc.fin3_eq 3 9 (by decide) rfl, enc.extract_eq 4 0 (by decide) rfl⟩

theorem roundTrip_5at21_5at16_3at13_3at9_9at0 (d : Fin 32) (a : Fin 32) (p : Fin 8) (y : Fin 8) (i : BitVec 9) :
    RoundTrip (.vaddi d a p y i) ∧ RoundTrip (.vshli d a p y i) ∧ RoundTrip (.vshri d a p y i) ∧ RoundTrip (.vsrai d a p y i) := by
  have fits : Fits [(21, 5), (16, 5), (13, 3), (9, 3), (0, 9)] [d.val, a.val, p.val, y.val, i.toNat] := ⟨d.isLt, a.isLt, p.isLt, y.isLt, i.isLt, rfl, rfl⟩
  refine ⟨?_, ?_, ?_, ?_⟩
  · exact roundTrip_x (r := .vaddi) (base := 0x80000000) rfl ⟨rfl, by decide, fits⟩
      (fun _ enc => by obtain ⟨rfl, rfl, rfl, rfl, rfl⟩ := enc.fields_5at21_5at16_3at13_3at9_9at0; rfl)
      (fun _ enc => by simp only [rowX, enc.fld_eq 26 6 32 (by decide), decX20, enc.fld_eq 12 1 0 (by decide), ↓reduceIte])
  · exact roundTrip_x (r := .vshli) (base := 0x84000000) rfl ⟨rfl, by decide, fits⟩
      (fun _ enc => by obtain ⟨rfl, rfl, rfl, rfl, rfl⟩ := enc.fields_5at21_5at16_3at13_3at9_9at0; rfl)
      (fun _ enc => by simp only [rowX, enc.fld_eq 26 6 33 (by decide), decX21, enc.fld_eq 12 1 0 (by decide), ↓reduceIte])
  · exact roundTrip_x (r := .vshri) (base := 0x88000000) rfl ⟨rfl, by decide, fits⟩
      (fun _ enc => by obtain ⟨rfl, rfl, rfl, rfl, rfl⟩ := enc.fields_5at21_5at16_3at13_3at9_9at0; rfl)
      (fun _ enc => by simp only [rowX, enc.fld_eq 26 6 34 (by decide), decX22, enc.fld_eq 12 1 0 (by decide), ↓reduceIte])
  · exact roundTrip_x (r := .vsrai) (base := 0x8C000000) rfl ⟨rfl, by decide, fits⟩
      (fun _ enc => by obtain ⟨rfl, rfl, rfl, rfl, rfl⟩ := enc.fields_5at21_5at16_3at13_3at9_9at0; rfl)
      (fun _ enc => by simp only [rowX, enc.fld_eq 26 6 35 (by decide), decX23, enc.fld_eq 12 1 0 (by decide), ↓reduceIte])

theorem Encoded.fields_5at21_5at16_6at0 {u : BitVec 32} {base : Nat} {d : Fin 32} {a : Fin 32} {n : BitVec 6}
    (enc : Encoded u base [(21, 5), (16, 5), (0, 6)] [d.val, a.val, n.toNat]) :
    fin5 u 21 = d ∧ fin5 u 16 = a ∧ u.extractLsb' 0 6 = n :=
  ⟨enc.fin5_eq 0 21 (by decide) rfl, enc.fin5_eq 1 16 (by decide) rfl, enc.extract_eq 2 0 (by decide) rfl⟩

theorem roundTrip_5at21_5at16_6at0 (d : Fin 32) (a : Fin 32) (n : BitVec 6) :
    RoundTrip (.shli d a n) ∧ RoundTrip (.shri d a n) ∧ RoundTrip (.srai d a n) := by
  have fits : Fits [(21, 5), (16, 5), (0, 6)] [d.val, a.val, n.toNat] := ⟨d.isLt, a.isLt, n.isLt, rfl, rfl⟩
  refine ⟨?_, ?_, ?_⟩
  · exact roundTrip_saw (r := .shli) (base := 0x58000000) rfl ⟨rfl, by decide, fits⟩
      (fun _ enc => by obtain ⟨rfl, rfl, rfl⟩ := enc.fields_5at21_5at16_6at0; rfl)
      (fun _ enc => ⟨by simp only [rowS, enc.fld_eq 26 6 22 (by decide), decSAW16, enc.fld_eq 6 2 0 (by decide), enc.fld_eq 8 8 0 (by decide), ↓reduceIte],
      by simp only [rowA, enc.fld_eq 26 6 22 (by decide), decSAW16, enc.fld_eq 6 2 0 (by decide), enc.fld_eq 8 8 0 (by decide), ↓reduceIte],
      by simp only [rowW, enc.fld_eq 26 6 22 (by decide), decSAW16, enc.fld_eq 6 2 0 (by decide), enc.fld_eq 8 8 0 (by decide), ↓reduceIte]⟩)
  · exact roundTrip_saw (r := .shri) (base := 0x58000040) rfl ⟨rfl, by decide, fits⟩
      (fun _ enc => by obtain ⟨rfl, rfl, rfl⟩ := enc.fields_5at21_5at16_6at0; rfl)
      (fun _ enc => ⟨by simp only [rowS, enc.fld_eq 26 6 22 (by decide), decSAW16, enc.fld_eq 6 2 1 (by decide), enc.fld_eq 8 8 0 (by decide), ↓reduceIte],
      by simp only [rowA, enc.fld_eq 26 6 22 (by decide), decSAW16, enc.fld_eq 6 2 1 (by decide), enc.fld_eq 8 8 0 (by decide), ↓reduceIte],
      by simp only [rowW, enc.fld_eq 26 6 22 (by decide), decSAW16, enc.fld_eq 6 2 1 (by decide), enc.fld_eq 8 8 0 (by decide), ↓reduceIte]⟩)
  · exact roundTrip_saw (r := .srai) (base := 0x58000080) rfl ⟨rfl, by decide, fits⟩
      (fun _ enc => by obtain ⟨rfl, rfl, rfl⟩ := enc.fields_5at21_5at16_6at0; rfl)
      (fun _ enc => ⟨by simp only [rowS, enc.fld_eq 26 6 22 (by decide), decSAW16, enc.fld_eq 6 2 2 (by decide), enc.fld_eq 8 8 0 (by decide), ↓reduceIte],
      by simp only [rowA, enc.fld_eq 26 6 22 (by decide), decSAW16, enc.fld_eq 6 2 2 (by decide), enc.fld_eq 8 8 0 (by decide), ↓reduceIte],
      by simp only [rowW, enc.fld_eq 26 6 22 (by decide), decSAW16, enc.fld_eq 6 2 2 (by decide), enc.fld_eq 8 8 0 (by decide), ↓reduceIte]⟩)

theorem Encoded.fields_5at21_5at16_6at6_6at0 {u : BitVec 32} {base : Nat} {d : Fin 32} {a : Fin 32} {l : BitVec 6} {p : BitVec 6}
    (enc : Encoded u base [(21, 5), (16, 5), (6, 6), (0, 6)] [d.val, a.val, l.toNat, p.toNat]) :
    fin5 u 21 = d ∧ fin5 u 16 = a ∧ u.extractLsb' 6 6 = l ∧ u.extractLsb' 0 6 = p :=
  ⟨enc.fin5_eq 0 21 (by decide) rfl, enc.fin5_eq 1 16 (by decide) rfl, enc.extract_eq 2 6 (by decide) rfl, enc.extract_eq 3 0 (by decide) rfl⟩

theorem roundTrip_5at21_5at16_6at6_6at0 (d : Fin 32) (a : Fin 32) (l : BitVec 6) (p : BitVec 6) :
    RoundTrip (.bfx d a l p) ∧ RoundTrip (.bfxs d a l p) ∧ RoundTrip (.bfi d a l p) := by
  have fits : Fits [(21, 5), (16, 5), (6, 6), (0, 6)] [d.val, a.val, l.toNat, p.toNat] := ⟨d.isLt, a.isLt, l.isLt, p.isLt, rfl, rfl⟩
  refine ⟨?_, ?_, ?_⟩
  · exact roundTrip_s (r := .bfx) (base := 0x68000000) rfl ⟨rfl, by decide, fits⟩
      (fun _ enc => by obtain ⟨rfl, rfl, rfl, rfl⟩ := enc.fields_5at21_5at16_6at6_6at0; rfl)
      (fun _ enc => by simp only [rowS, enc.fld_eq 26 6 26 (by decide), decS1A, enc.fld_eq 12 2 0 (by decide), enc.fld_eq 14 2 0 (by decide), ↓reduceIte])
  · exact roundTrip_s (r := .bfxs) (base := 0x68001000) rfl ⟨rfl, by decide, fits⟩
      (fun _ enc => by obtain ⟨rfl, rfl, rfl, rfl⟩ := enc.fields_5at21_5at16_6at6_6at0; rfl)
      (fun _ enc => by simp only [rowS, enc.fld_eq 26 6 26 (by decide), decS1A, enc.fld_eq 12 2 1 (by decide), enc.fld_eq 14 2 0 (by decide), ↓reduceIte])
  · exact roundTrip_s (r := .bfi) (base := 0x68002000) rfl ⟨rfl, by decide, fits⟩
      (fun _ enc => by obtain ⟨rfl, rfl, rfl, rfl⟩ := enc.fields_5at21_5at16_6at6_6at0; rfl)
      (fun _ enc => by simp only [rowS, enc.fld_eq 26 6 26 (by decide), decS1A, enc.fld_eq 12 2 2 (by decide), enc.fld_eq 14 2 0 (by decide), ↓reduceIte])

theorem Encoded.fields_3at21_5at16 {u : BitVec 32} {base : Nat} {p : Fin 8} {a : Fin 32}
    (enc : Encoded u base [(21, 3), (16, 5)] [p.val, a.val]) :
    fin3 u 21 = p ∧ fin5 u 16 = a :=
  ⟨enc.fin3_eq 0 21 (by decide) rfl, enc.fin5_eq 1 16 (by decide) rfl⟩

theorem roundTrip_3at21_5at16 (p : Fin 8) (a : Fin 32) :
    RoundTrip (.bnld p a) ∧ RoundTrip (.sdecl p a) ∧ RoundTrip (.swake p a) := by
  have fits : Fits [(21, 3), (16, 5)] [p.val, a.val] := ⟨p.isLt, a.isLt, rfl, rfl⟩
  refine ⟨?_, ?_, ?_⟩
  · exact roundTrip_s (r := .bnld) (base := 0x70000000) rfl ⟨rfl, by decide, fits⟩
      (fun _ enc => by obtain ⟨rfl, rfl⟩ := enc.fields_3at21_5at16; rfl)
      (fun _ enc => by simp only [rowS, enc.fld_eq 26 6 28 (by decide), decS1C, enc.fld_eq 24 2 0 (by decide), enc.fld_eq 0 16 0 (by decide), and_self, ↓reduceIte])
  · exact roundTrip_s (r := .sdecl) (base := 0xE4000000) rfl ⟨rfl, by decide, fits⟩
      (fun _ enc => by obtain ⟨rfl, rfl⟩ := enc.fields_3at21_5at16; rfl)
      (fun _ enc => by simp only [rowS, enc.fld_eq 26 6 57 (by decide), decS39, enc.fld_eq 24 2 0 (by decide), enc.fld_eq 0 16 0 (by decide), and_self, ↓reduceIte])
  · exact roundTrip_s (r := .swake) (base := 0xEC000000) rfl ⟨rfl, by decide, fits⟩
      (fun _ enc => by obtain ⟨rfl, rfl⟩ := enc.fields_3at21_5at16; rfl)
      (fun _ enc => by simp only [rowS, enc.fld_eq 26 6 59 (by decide), decS3B, enc.fld_eq 24 2 0 (by decide), enc.fld_eq 0 16 0 (by decide), and_self, ↓reduceIte])

theorem Encoded.fields_5at21_3at16 {u : BitVec 32} {base : Nat} {d : Fin 32} {t : Fin 8}
    (enc : Encoded u base [(21, 5), (16, 3)] [d.val, t.val]) :
    fin5 u 21 = d ∧ fin3 u 16 = t :=
  ⟨enc.fin5_eq 0 21 (by decide) rfl, enc.fin3_eq 1 16 (by decide) rfl⟩

theorem roundTrip_5at21_3at16 (d : Fin 32) (t : Fin 8) :
    RoundTrip (.sstat d t) ∧ RoundTrip (.pcount d t) ∧ RoundTrip (.pfirst d t) := by
  have fits : Fits [(21, 5), (16, 3)] [d.val, t.val] := ⟨d.isLt, t.isLt, rfl, rfl⟩
  refine ⟨?_, ?_, ?_⟩
  · exact roundTrip_s (r := .sstat) (base := 0xF0000000) rfl ⟨rfl, by decide, fits⟩
      (fun _ enc => by obtain ⟨rfl, rfl⟩ := enc.fields_5at21_3at16; rfl)
      (fun _ enc => by simp only [rowS, enc.fld_eq 26 6 60 (by decide), decS3C, enc.fld_eq 19 2 0 (by decide), enc.fld_eq 0 16 0 (by decide), and_self, ↓reduceIte])
  · exact roundTrip_x (r := .pcount) (base := 0x60000006) rfl ⟨rfl, by decide, fits⟩
      (fun _ enc => by obtain ⟨rfl, rfl⟩ := enc.fields_5at21_3at16; rfl)
      (fun _ enc => by simp only [rowX, enc.fld_eq 26 6 24 (by decide), decX18, enc.fld_eq 0 11 6 (by decide), enc.fld_eq 19 2 0 (by decide), enc.fld_eq 11 5 0 (by decide), and_self, ↓reduceIte])
  · exact roundTrip_x (r := .pfirst) (base := 0x60000007) rfl ⟨rfl, by decide, fits⟩
      (fun _ enc => by obtain ⟨rfl, rfl⟩ := enc.fields_5at21_3at16; rfl)
      (fun _ enc => by simp only [rowX, enc.fld_eq 26 6 24 (by decide), decX18, enc.fld_eq 0 11 7 (by decide), enc.fld_eq 19 2 0 (by decide), enc.fld_eq 11 5 0 (by decide), and_self, ↓reduceIte])

theorem Encoded.fields_5at21_5at16_3at8_4at4 {u : BitVec 32} {base : Nat} {d : Fin 32} {a : Fin 32} {p : Fin 8} {y : Fin 16}
    (enc : Encoded u base [(21, 5), (16, 5), (8, 3), (4, 4)] [d.val, a.val, p.val, y.val]) :
    fin5 u 21 = d ∧ fin5 u 16 = a ∧ fin3 u 8 = p ∧ fin4 u 4 = y :=
  ⟨enc.fin5_eq 0 21 (by decide) rfl, enc.fin5_eq 1 16 (by decide) rfl, enc.fin3_eq 2 8 (by decide) rfl, enc.fin4_eq 3 4 (by decide) rfl⟩

theorem roundTrip_5at21_5at16_3at8_4at4 (d : Fin 32) (a : Fin 32) (p : Fin 8) (y : Fin 16) :
    RoundTrip (.vmov d a p y) ∧ RoundTrip (.vbcast d a p y) ∧ RoundTrip (.vnot d a p y) := by
  have fits : Fits [(21, 5), (16, 5), (8, 3), (4, 4)] [d.val, a.val, p.val, y.val] := ⟨d.isLt, a.isLt, p.isLt, y.isLt, rfl, rfl⟩
  refine ⟨?_, ?_, ?_⟩
  · exact roundTrip_x (r := .vmov) (base := 0x44000000) rfl ⟨rfl, by decide, fits⟩
      (fun _ enc => by obtain ⟨rfl, rfl, rfl, rfl⟩ := enc.fields_5at21_5at16_3at8_4at4; rfl)
      (fun _ enc => by simp only [rowX, enc.fld_eq 26 6 17 (by decide), decX11, enc.fld_eq 0 4 0 (by decide), enc.fld_eq 11 5 0 (by decide), ↓reduceIte])
  · exact roundTrip_x (r := .vbcast) (base := 0x44000007) rfl ⟨rfl, by decide, fits⟩
      (fun _ enc => by obtain ⟨rfl, rfl, rfl, rfl⟩ := enc.fields_5at21_5at16_3at8_4at4; rfl)
      (fun _ enc => by simp only [rowX, enc.fld_eq 26 6 17 (by decide), decX11, enc.fld_eq 0 4 7 (by decide), enc.fld_eq 11 5 0 (by decide), ↓reduceIte])
  · exact roundTrip_x (r := .vnot) (base := 0x4400000A) rfl ⟨rfl, by decide, fits⟩
      (fun _ enc => by obtain ⟨rfl, rfl, rfl, rfl⟩ := enc.fields_5at21_5at16_3at8_4at4; rfl)
      (fun _ enc => by simp only [rowX, enc.fld_eq 26 6 17 (by decide), decX11, enc.fld_eq 0 4 10 (by decide), enc.fld_eq 11 5 0 (by decide), ↓reduceIte])

theorem Encoded.fields_3at21_5at16_5at11_3at8_1at4 {u : BitVec 32} {base : Nat} {d : Fin 8} {a : Fin 32} {b : Fin 32} {p : Fin 8} {y : Fin 2}
    (enc : Encoded u base [(21, 3), (16, 5), (11, 5), (8, 3), (4, 1)] [d.val, a.val, b.val, p.val, y.val]) :
    fin3 u 21 = d ∧ fin5 u 16 = a ∧ fin5 u 11 = b ∧ fin3 u 8 = p ∧ fin1 u 4 = y :=
  ⟨enc.fin3_eq 0 21 (by decide) rfl, enc.fin5_eq 1 16 (by decide) rfl, enc.fin5_eq 2 11 (by decide) rfl, enc.fin3_eq 3 8 (by decide) rfl, enc.fin1_eq 4 4 (by decide) rfl⟩

theorem roundTrip_3at21_5at16_5at11_3at8_1at4 (d : Fin 8) (a : Fin 32) (b : Fin 32) (p : Fin 8) (y : Fin 2) :
    RoundTrip (.vfeq d a b p y) ∧ RoundTrip (.vflt d a b p y) ∧ RoundTrip (.vfle d a b p y) := by
  have fits : Fits [(21, 3), (16, 5), (11, 5), (8, 3), (4, 1)] [d.val, a.val, b.val, p.val, y.val] := ⟨d.isLt, a.isLt, b.isLt, p.isLt, y.isLt, rfl, rfl⟩
  refine ⟨?_, ?_, ?_⟩
  · exact roundTrip_x (r := .vfeq) (base := 0x4C000087) rfl ⟨rfl, by decide, fits⟩
      (fun _ enc => by obtain ⟨rfl, rfl, rfl, rfl, rfl⟩ := enc.fields_3at21_5at16_5at11_3at8_1at4; rfl)
      (fun _ enc => by simp only [rowX, enc.fld_eq 26 6 19 (by decide), decX13, enc.fld_eq 0 4 7 (by decide), enc.fld_eq 24 2 0 (by decide), enc.fld_eq 5 3 4 (by decide), and_self, ↓reduceIte])
  · exact roundTrip_x (r := .vflt) (base := 0x4C000088) rfl ⟨rfl, by decide, fits⟩
      (fun _ enc => by obtain ⟨rfl, rfl, rfl, rfl, rfl⟩ := enc.fields_3at21_5at16_5at11_3at8_1at4; rfl)
      (fun _ enc => by simp only [rowX, enc.fld_eq 26 6 19 (by decide), decX13, enc.fld_eq 0 4 8 (by decide), enc.fld_eq 24 2 0 (by decide), enc.fld_eq 5 3 4 (by decide), and_self, ↓reduceIte])
  · exact roundTrip_x (r := .vfle) (base := 0x4C000089) rfl ⟨rfl, by decide, fits⟩
      (fun _ enc => by obtain ⟨rfl, rfl, rfl, rfl, rfl⟩ := enc.fields_3at21_5at16_5at11_3at8_1at4; rfl)
      (fun _ enc => by simp only [rowX, enc.fld_eq 26 6 19 (by decide), decX13, enc.fld_eq 0 4 9 (by decide), enc.fld_eq 24 2 0 (by decide), enc.fld_eq 5 3 4 (by decide), and_self, ↓reduceIte])

theorem Encoded.fields_3at21_3at16_3at11 {u : BitVec 32} {base : Nat} {d : Fin 8} {a : Fin 8} {b : Fin 8}
    (enc : Encoded u base [(21, 3), (16, 3), (11, 3)] [d.val, a.val, b.val]) :
    fin3 u 21 = d ∧ fin3 u 16 = a ∧ fin3 u 11 = b :=
  ⟨enc.fin3_eq 0 21 (by decide) rfl, enc.fin3_eq 1 16 (by decide) rfl, enc.fin3_eq 2 11 (by decide) rfl⟩

theorem roundTrip_3at21_3at16_3at11 (d : Fin 8) (a : Fin 8) (b : Fin 8) :
    RoundTrip (.pand d a b) ∧ RoundTrip (.por d a b) ∧ RoundTrip (.pxor d a b) := by
  have fits : Fits [(21, 3), (16, 3), (11, 3)] [d.val, a.val, b.val] := ⟨d.isLt, a.isLt, b.isLt, rfl, rfl⟩
  refine ⟨?_, ?_, ?_⟩
  · exact roundTrip_x (r := .pand) (base := 0x60000000) rfl ⟨rfl, by decide, fits⟩
      (fun _ enc => by obtain ⟨rfl, rfl, rfl⟩ := enc.fields_3at21_3at16_3at11; rfl)
      (fun _ enc => by simp only [rowX, enc.fld_eq 26 6 24 (by decide), decX18, enc.fld_eq 0 11 0 (by decide), enc.fld_eq 24 2 0 (by decide), enc.fld_eq 19 2 0 (by decide), enc.fld_eq 14 2 0 (by decide), and_self, ↓reduceIte])
  · exact roundTrip_x (r := .por) (base := 0x60000001) rfl ⟨rfl, by decide, fits⟩
      (fun _ enc => by obtain ⟨rfl, rfl, rfl⟩ := enc.fields_3at21_3at16_3at11; rfl)
      (fun _ enc => by simp only [rowX, enc.fld_eq 26 6 24 (by decide), decX18, enc.fld_eq 0 11 1 (by decide), enc.fld_eq 24 2 0 (by decide), enc.fld_eq 19 2 0 (by decide), enc.fld_eq 14 2 0 (by decide), and_self, ↓reduceIte])
  · exact roundTrip_x (r := .pxor) (base := 0x60000002) rfl ⟨rfl, by decide, fits⟩
      (fun _ enc => by obtain ⟨rfl, rfl, rfl⟩ := enc.fields_3at21_3at16_3at11; rfl)
      (fun _ enc => by simp only [rowX, enc.fld_eq 26 6 24 (by decide), decX18, enc.fld_eq 0 11 2 (by decide), enc.fld_eq 24 2 0 (by decide), enc.fld_eq 19 2 0 (by decide), enc.fld_eq 14 2 0 (by decide), and_self, ↓reduceIte])

theorem Encoded.fields_3at21_2at14_14at0 {u : BitVec 32} {base : Nat} {a : Fin 8} {h : Fin 4} {x : BitVec 14}
    (enc : Encoded u base [(21, 3), (14, 2), (0, 14)] [a.val, h.val, x.toNat]) :
    fin3 u 21 = a ∧ fin2 u 14 = h ∧ u.extractLsb' 0 14 = x :=
  ⟨enc.fin3_eq 0 21 (by decide) rfl, enc.fin2_eq 1 14 (by decide) rfl, enc.extract_eq 2 0 (by decide) rfl⟩

theorem roundTrip_3at21_2at14_14at0 (a : Fin 8) (h : Fin 4) (x : BitVec 14) :
    RoundTrip (.bpAny a h x) ∧ RoundTrip (.bpNone a h x) ∧ RoundTrip (.bpAll a h x) := by
  have fits : Fits [(21, 3), (14, 2), (0, 14)] [a.val, h.val, x.toNat] := ⟨a.isLt, h.isLt, x.isLt, rfl, rfl⟩
  refine ⟨?_, ?_, ?_⟩
  · exact roundTrip_x (r := .bpAny) (base := 0x94000000) rfl ⟨rfl, by decide, fits⟩
      (fun _ enc => by obtain ⟨rfl, rfl, rfl⟩ := enc.fields_3at21_2at14_14at0; rfl)
      (fun _ enc => by simp only [rowX, enc.fld_eq 26 6 37 (by decide), decX25, enc.fld_eq 16 5 0 (by decide), enc.fld_eq 24 2 0 (by decide), ↓reduceIte])
  · exact roundTrip_x (r := .bpNone) (base := 0x94010000) rfl ⟨rfl, by decide, fits⟩
      (fun _ enc => by obtain ⟨rfl, rfl, rfl⟩ := enc.fields_3at21_2at14_14at0; rfl)
      (fun _ enc => by simp only [rowX, enc.fld_eq 26 6 37 (by decide), decX25, enc.fld_eq 16 5 1 (by decide), enc.fld_eq 24 2 0 (by decide), ↓reduceIte])
  · exact roundTrip_x (r := .bpAll) (base := 0x94020000) rfl ⟨rfl, by decide, fits⟩
      (fun _ enc => by obtain ⟨rfl, rfl, rfl⟩ := enc.fields_3at21_2at14_14at0; rfl)
      (fun _ enc => by simp only [rowX, enc.fld_eq 26 6 37 (by decide), decX25, enc.fld_eq 16 5 2 (by decide), enc.fld_eq 24 2 0 (by decide), ↓reduceIte])

theorem Encoded.fields_5at21_4at16 {u : BitVec 32} {base : Nat} {d : Fin 32} {s : Fin 16}
    (enc : Encoded u base [(21, 5), (16, 4)] [d.val, s.val]) :
    fin5 u 21 = d ∧ fin4 u 16 = s :=
  ⟨enc.fin5_eq 0 21 (by decide) rfl, enc.fin4_eq 1 16 (by decide) rfl⟩

theorem roundTrip_5at21_4at16 (d : Fin 32) (s : Fin 16) :
    RoundTrip (.sread d s) ∧ RoundTrip (.spend d s) := by
  have fits : Fits [(21, 5), (16, 4)] [d.val, s.val] := ⟨d.isLt, s.isLt, rfl, rfl⟩
  refine ⟨?_, ?_⟩
  · exact roundTrip_saxw (r := .sread) (base := 0x0C000003) rfl ⟨rfl, by decide, fits⟩
      (fun _ enc => by obtain ⟨rfl, rfl⟩ := enc.fields_5at21_4at16; rfl)
      (fun _ enc => ⟨by simp only [rowS, enc.fld_eq 26 6 3 (by decide), decSAXW03, enc.fld_eq 0 11 3 (by decide), enc.fld_eq 20 1 0 (by decide), enc.fld_eq 11 5 0 (by decide), and_self, ↓reduceIte],
      by simp only [rowA, enc.fld_eq 26 6 3 (by decide), decSAXW03, enc.fld_eq 0 11 3 (by decide), enc.fld_eq 20 1 0 (by decide), enc.fld_eq 11 5 0 (by decide), and_self, ↓reduceIte],
      by simp only [rowX, enc.fld_eq 26 6 3 (by decide), decSAXW03, enc.fld_eq 0 11 3 (by decide), enc.fld_eq 20 1 0 (by decide), enc.fld_eq 11 5 0 (by decide), and_self, ↓reduceIte],
      by simp only [rowW, enc.fld_eq 26 6 3 (by decide), decSAXW03, enc.fld_eq 0 11 3 (by decide), enc.fld_eq 20 1 0 (by decide), enc.fld_eq 11 5 0 (by decide), and_self, ↓reduceIte]⟩)
  · exact roundTrip_saxw (r := .spend) (base := 0x0C000004) rfl ⟨rfl, by decide, fits⟩
      (fun _ enc => by obtain ⟨rfl, rfl⟩ := enc.fields_5at21_4at16; rfl)
      (fun _ enc => ⟨by simp only [rowS, enc.fld_eq 26 6 3 (by decide), decSAXW03, enc.fld_eq 0 11 4 (by decide), enc.fld_eq 20 1 0 (by decide), enc.fld_eq 11 5 0 (by decide), and_self, ↓reduceIte],
      by simp only [rowA, enc.fld_eq 26 6 3 (by decide), decSAXW03, enc.fld_eq 0 11 4 (by decide), enc.fld_eq 20 1 0 (by decide), enc.fld_eq 11 5 0 (by decide), and_self, ↓reduceIte],
      by simp only [rowX, enc.fld_eq 26 6 3 (by decide), decSAXW03, enc.fld_eq 0 11 4 (by decide), enc.fld_eq 20 1 0 (by decide), enc.fld_eq 11 5 0 (by decide), and_self, ↓reduceIte],
      by simp only [rowW, enc.fld_eq 26 6 3 (by decide), decSAXW03, enc.fld_eq 0 11 4 (by decide), enc.fld_eq 20 1 0 (by decide), enc.fld_eq 11 5 0 (by decide), and_self, ↓reduceIte]⟩)

theorem Encoded.fields_24at0 {u : BitVec 32} {base : Nat} {x : BitVec 24}
    (enc : Encoded u base [(0, 24)] [x.toNat]) :
    u.extractLsb' 0 24 = x :=
  enc.extract_eq 0 0 (by decide) rfl

theorem roundTrip_24at0 (x : BitVec 24) :
    RoundTrip (.j x) ∧ RoundTrip (.jal x) := by
  have fits : Fits [(0, 24)] [x.toNat] := ⟨x.isLt, rfl, rfl⟩
  refine ⟨?_, ?_⟩
  · exact roundTrip_saxw (r := .j) (base := 0x10000000) rfl ⟨rfl, by decide, fits⟩
      (fun _ enc => by obtain rfl := enc.fields_24at0; rfl)
      (fun _ enc => ⟨by simp only [rowS, enc.fld_eq 26 6 4 (by decide), decSAXW04, enc.fld_eq 24 2 0 (by decide)],
      by simp only [rowA, enc.fld_eq 26 6 4 (by decide), decSAXW04, enc.fld_eq 24 2 0 (by decide)],
      by simp only [rowX, enc.fld_eq 26 6 4 (by decide), decSAXW04, enc.fld_eq 24 2 0 (by decide)],
      by simp only [rowW, enc.fld_eq 26 6 4 (by decide), decSAXW04, enc.fld_eq 24 2 0 (by decide)]⟩)
  · exact roundTrip_saxw (r := .jal) (base := 0x11000000) rfl ⟨rfl, by decide, fits⟩
      (fun _ enc => by obtain rfl := enc.fields_24at0; rfl)
      (fun _ enc => ⟨by simp only [rowS, enc.fld_eq 26 6 4 (by decide), decSAXW04, enc.fld_eq 24 2 1 (by decide)],
      by simp only [rowA, enc.fld_eq 26 6 4 (by decide), decSAXW04, enc.fld_eq 24 2 1 (by decide)],
      by simp only [rowX, enc.fld_eq 26 6 4 (by decide), decSAXW04, enc.fld_eq 24 2 1 (by decide)],
      by simp only [rowW, enc.fld_eq 26 6 4 (by decide), decSAXW04, enc.fld_eq 24 2 1 (by decide)]⟩)

theorem Encoded.fields_5at16_2at14_4at10_10at0 {u : BitVec 32} {base : Nat} {a : Fin 32} {m : Fin 4} {s : Fin 16} {i : BitVec 10}
    (enc : Encoded u base [(16, 5), (14, 2), (10, 4), (0, 10)] [a.val, m.val, s.val, i.toNat]) :
    fin5 u 16 = a ∧ fin2 u 14 = m ∧ fin4 u 10 = s ∧ u.extractLsb' 0 10 = i :=
  ⟨enc.fin5_eq 0 16 (by decide) rfl, enc.fin2_eq 1 14 (by decide) rfl, enc.fin4_eq 2 10 (by decide) rfl, enc.extract_eq 3 0 (by decide) rfl⟩

theorem roundTrip_5at16_2at14_4at10_10at0 (a : Fin 32) (m : Fin 4) (s : Fin 16) (i : BitVec 10) :
    RoundTrip (.ldQ a m s i) ∧ RoundTrip (.stQ a m s i) := by
  have fits : Fits [(16, 5), (14, 2), (10, 4), (0, 10)] [a.val, m.val, s.val, i.toNat] := ⟨a.isLt, m.isLt, s.isLt, i.isLt, rfl, rfl⟩
  refine ⟨?_, ?_⟩
  · exact roundTrip_a (r := .ldQ) (base := 0xA0000000) rfl ⟨rfl, by decide, fits⟩
      (fun _ enc => by obtain ⟨rfl, rfl, rfl, rfl⟩ := enc.fields_5at16_2at14_4at10_10at0; rfl)
      (fun _ enc => by simp only [rowA, enc.fld_eq 26 6 40 (by decide), decA28, enc.fld_eq 21 5 0 (by decide), ↓reduceIte])
  · exact roundTrip_w (r := .stQ) (base := 0xA0000000) rfl ⟨rfl, by decide, fits⟩
      (fun _ enc => by obtain ⟨rfl, rfl, rfl, rfl⟩ := enc.fields_5at16_2at14_4at10_10at0; rfl)
      (fun _ enc => by simp only [rowW, enc.fld_eq 26 6 40 (by decide), decW28, enc.fld_eq 21 5 0 (by decide), ↓reduceIte])

theorem Encoded.fields_5at21_5at16_5at11_3at6_2at4_4at0 {u : BitVec 32} {base : Nat} {d : Fin 32} {a : Fin 32} {b : Fin 32} {p : Fin 8} {e : Fin 4} {s : Fin 16}
    (enc : Encoded u base [(21, 5), (16, 5), (11, 5), (6, 3), (4, 2), (0, 4)] [d.val, a.val, b.val, p.val, e.val, s.val]) :
    fin5 u 21 = d ∧ fin5 u 16 = a ∧ fin5 u 11 = b ∧ fin3 u 6 = p ∧ fin2 u 4 = e ∧ fin4 u 0 = s :=
  ⟨enc.fin5_eq 0 21 (by decide) rfl, enc.fin5_eq 1 16 (by decide) rfl, enc.fin5_eq 2 11 (by decide) rfl, enc.fin3_eq 3 6 (by decide) rfl, enc.fin2_eq 4 4 (by decide) rfl, enc.fin4_eq 5 0 (by decide) rfl⟩

theorem roundTrip_5at21_5at16_5at11_3at6_2at4_4at0 (d : Fin 32) (a : Fin 32) (b : Fin 32) (p : Fin 8) (e : Fin 4) (s : Fin 16) :
    RoundTrip (.ldgV d a b p e s) ∧ RoundTrip (.stsV d a b p e s) := by
  have fits : Fits [(21, 5), (16, 5), (11, 5), (6, 3), (4, 2), (0, 4)] [d.val, a.val, b.val, p.val, e.val, s.val] := ⟨d.isLt, a.isLt, b.isLt, p.isLt, e.isLt, s.isLt, rfl, rfl⟩
  refine ⟨?_, ?_⟩
  · exact roundTrip_a (r := .ldgV) (base := 0xA4000000) rfl ⟨rfl, by decide, fits⟩
      (fun _ enc => by obtain ⟨rfl, rfl, rfl, rfl, rfl, rfl⟩ := enc.fields_5at21_5at16_5at11_3at6_2at4_4at0; rfl)
      (fun _ enc => by simp only [rowA, enc.fld_eq 26 6 41 (by decide), decA29, enc.fld_eq 9 2 0 (by decide), ↓reduceIte])
  · exact roundTrip_w (r := .stsV) (base := 0xA4000000) rfl ⟨rfl, by decide, fits⟩
      (fun _ enc => by obtain ⟨rfl, rfl, rfl, rfl, rfl, rfl⟩ := enc.fields_5at21_5at16_5at11_3at6_2at4_4at0; rfl)
      (fun _ enc => by simp only [rowW, enc.fld_eq 26 6 41 (by decide), decW29, enc.fld_eq 9 2 0 (by decide), ↓reduceIte])

theorem Encoded.fields_5at16_5at11_3at6_2at4_4at0 {u : BitVec 32} {base : Nat} {a : Fin 32} {b : Fin 32} {p : Fin 8} {e : Fin 4} {s : Fin 16}
    (enc : Encoded u base [(16, 5), (11, 5), (6, 3), (4, 2), (0, 4)] [a.val, b.val, p.val, e.val, s.val]) :
    fin5 u 16 = a ∧ fin5 u 11 = b ∧ fin3 u 6 = p ∧ fin2 u 4 = e ∧ fin4 u 0 = s :=
  ⟨enc.fin5_eq 0 16 (by decide) rfl, enc.fin5_eq 1 11 (by decide) rfl, enc.fin3_eq 2 6 (by decide) rfl, enc.fin2_eq 3 4 (by decide) rfl, enc.fin4_eq 4 0 (by decide) rfl⟩

theorem roundTrip_5at16_5at11_3at6_2at4_4at0 (a : Fin 32) (b : Fin 32) (p : Fin 8) (e : Fin 4) (s : Fin 16) :
    RoundTrip (.ldgQ a b p e s) ∧ RoundTrip (.stsQ a b p e s) := by
  have fits : Fits [(16, 5), (11, 5), (6, 3), (4, 2), (0, 4)] [a.val, b.val, p.val, e.val, s.val] := ⟨a.isLt, b.isLt, p.isLt, e.isLt, s.isLt, rfl, rfl⟩
  refine ⟨?_, ?_⟩
  · exact roundTrip_a (r := .ldgQ) (base := 0xA8000000) rfl ⟨rfl, by decide, fits⟩
      (fun _ enc => by obtain ⟨rfl, rfl, rfl, rfl, rfl⟩ := enc.fields_5at16_5at11_3at6_2at4_4at0; rfl)
      (fun _ enc => by simp only [rowA, enc.fld_eq 26 6 42 (by decide), decA2A, enc.fld_eq 21 5 0 (by decide), enc.fld_eq 9 2 0 (by decide), and_self, ↓reduceIte])
  · exact roundTrip_w (r := .stsQ) (base := 0xA8000000) rfl ⟨rfl, by decide, fits⟩
      (fun _ enc => by obtain ⟨rfl, rfl, rfl, rfl, rfl⟩ := enc.fields_5at16_5at11_3at6_2at4_4at0; rfl)
      (fun _ enc => by simp only [rowW, enc.fld_eq 26 6 42 (by decide), decW2A, enc.fld_eq 21 5 0 (by decide), enc.fld_eq 9 2 0 (by decide), and_self, ↓reduceIte])

theorem Encoded.fields_5at21_5at16_5at11_4at4 {u : BitVec 32} {base : Nat} {d : Fin 32} {a : Fin 32} {b : Fin 32} {y : Fin 16}
    (enc : Encoded u base [(21, 5), (16, 5), (11, 5), (4, 4)] [d.val, a.val, b.val, y.val]) :
    fin5 u 21 = d ∧ fin5 u 16 = a ∧ fin5 u 11 = b ∧ fin4 u 4 = y :=
  ⟨enc.fin5_eq 0 21 (by decide) rfl, enc.fin5_eq 1 16 (by decide) rfl, enc.fin5_eq 2 11 (by decide) rfl, enc.fin4_eq 3 4 (by decide) rfl⟩

theorem roundTrip_5at21_5at16_5at11_4at4 (d : Fin 32) (a : Fin 32) (b : Fin 32) (y : Fin 16) :
    RoundTrip (.vext d a b y) ∧ RoundTrip (.vins d a b y) := by
  have fits : Fits [(21, 5), (16, 5), (11, 5), (4, 4)] [d.val, a.val, b.val, y.val] := ⟨d.isLt, a.isLt, b.isLt, y.isLt, rfl, rfl⟩
  refine ⟨?_, ?_⟩
  · exact roundTrip_x (r := .vext) (base := 0x44000008) rfl ⟨rfl, by decide, fits⟩
      (fun _ enc => by obtain ⟨rfl, rfl, rfl, rfl⟩ := enc.fields_5at21_5at16_5at11_4at4; rfl)
      (fun _ enc => by simp only [rowX, enc.fld_eq 26 6 17 (by decide), decX11, enc.fld_eq 0 4 8 (by decide), enc.fld_eq 8 3 0 (by decide), ↓reduceIte])
  · exact roundTrip_x (r := .vins) (base := 0x44000009) rfl ⟨rfl, by decide, fits⟩
      (fun _ enc => by obtain ⟨rfl, rfl, rfl, rfl⟩ := enc.fields_5at21_5at16_5at11_4at4; rfl)
      (fun _ enc => by simp only [rowX, enc.fld_eq 26 6 17 (by decide), decX11, enc.fld_eq 0 4 9 (by decide), enc.fld_eq 8 3 0 (by decide), ↓reduceIte])

theorem Encoded.fields_5at21_5at16_5at11_3at8 {u : BitVec 32} {base : Nat} {d : Fin 32} {a : Fin 32} {w : Fin 32} {p : Fin 8}
    (enc : Encoded u base [(21, 5), (16, 5), (11, 5), (8, 3)] [d.val, a.val, w.val, p.val]) :
    fin5 u 21 = d ∧ fin5 u 16 = a ∧ fin5 u 11 = w ∧ fin3 u 8 = p :=
  ⟨enc.fin5_eq 0 21 (by decide) rfl, enc.fin5_eq 1 16 (by decide) rfl, enc.fin5_eq 2 11 (by decide) rfl, enc.fin3_eq 3 8 (by decide) rfl⟩

theorem roundTrip_5at21_5at16_5at11_3at8 (d : Fin 32) (a : Fin 32) (w : Fin 32) (p : Fin 8) :
    RoundTrip (.vpackBfp d a w p) ∧ RoundTrip (.vunpackBfp d a w p) := by
  have fits : Fits [(21, 5), (16, 5), (11, 5), (8, 3)] [d.val, a.val, w.val, p.val] := ⟨d.isLt, a.isLt, w.isLt, p.isLt, rfl, rfl⟩
  refine ⟨?_, ?_⟩
  · exact roundTrip_x (r := .vpackBfp) (base := 0x58000090) rfl ⟨rfl, by decide, fits⟩
      (fun _ enc => by obtain ⟨rfl, rfl, rfl, rfl⟩ := enc.fields_5at21_5at16_5at11_3at8; rfl)
      (fun _ enc => by simp only [rowX, enc.fld_eq 26 6 22 (by decide), decX16, enc.fld_eq 0 4 0 (by decide), enc.fld_eq 4 4 9 (by decide), ↓reduceIte])
  · exact roundTrip_x (r := .vunpackBfp) (base := 0x58000091) rfl ⟨rfl, by decide, fits⟩
      (fun _ enc => by obtain ⟨rfl, rfl, rfl, rfl⟩ := enc.fields_5at21_5at16_5at11_3at8; rfl)
      (fun _ enc => by simp only [rowX, enc.fld_eq 26 6 22 (by decide), decX16, enc.fld_eq 0 4 1 (by decide), enc.fld_eq 4 4 9 (by decide), ↓reduceIte])

theorem Encoded.fields_3at21 {u : BitVec 32} {base : Nat} {d : Fin 8}
    (enc : Encoded u base [(21, 3)] [d.val]) :
    fin3 u 21 = d :=
  enc.fin3_eq 0 21 (by decide) rfl

theorem roundTrip_3at21 (d : Fin 8) :
    RoundTrip (.pset d) ∧ RoundTrip (.pclr d) := by
  have fits : Fits [(21, 3)] [d.val] := ⟨d.isLt, rfl, rfl⟩
  refine ⟨?_, ?_⟩
  · exact roundTrip_x (r := .pset) (base := 0x60000004) rfl ⟨rfl, by decide, fits⟩
      (fun _ enc => by obtain rfl := enc.fields_3at21; rfl)
      (fun _ enc => by simp only [rowX, enc.fld_eq 26 6 24 (by decide), decX18, enc.fld_eq 0 11 4 (by decide), enc.fld_eq 24 2 0 (by decide), enc.fld_eq 11 10 0 (by decide), and_self, ↓reduceIte])
  · exact roundTrip_x (r := .pclr) (base := 0x60000005) rfl ⟨rfl, by decide, fits⟩
      (fun _ enc => by obtain rfl := enc.fields_3at21; rfl)
      (fun _ enc => by simp only [rowX, enc.fld_eq 26 6 24 (by decide), decX18, enc.fld_eq 0 11 5 (by decide), enc.fld_eq 24 2 0 (by decide), enc.fld_eq 11 10 0 (by decide), and_self, ↓reduceIte])

theorem Encoded.fields_4at21_5at16_16at0 {u : BitVec 32} {base : Nat} {s : Fin 16} {a : Fin 32} {i : BitVec 16}
    (enc : Encoded u base [(21, 4), (16, 5), (0, 16)] [s.val, a.val, i.toNat]) :
    fin4 u 21 = s ∧ fin5 u 16 = a ∧ u.extractLsb' 0 16 = i :=
  ⟨enc.fin4_eq 0 21 (by decide) rfl, enc.fin5_eq 1 16 (by decide) rfl, enc.extract_eq 2 0 (by decide) rfl⟩

theorem roundTrip_4at21_5at16_16at0 (s : Fin 16) (a : Fin 32) (i : BitVec 16) :
    RoundTrip (.waits s a i) := by
  have fits : Fits [(21, 4), (16, 5), (0, 16)] [s.val, a.val, i.toNat] := ⟨s.isLt, a.isLt, i.isLt, rfl, rfl⟩
  exact roundTrip_saxw (r := .waits) (base := 0x08000000) rfl ⟨rfl, by decide, fits⟩
      (fun _ enc => by obtain ⟨rfl, rfl, rfl⟩ := enc.fields_4at21_5at16_16at0; rfl)
      (fun _ enc => ⟨by simp only [rowS, enc.fld_eq 26 6 2 (by decide), decSAXW02, enc.fld_eq 25 1 0 (by decide), ↓reduceIte],
      by simp only [rowA, enc.fld_eq 26 6 2 (by decide), decSAXW02, enc.fld_eq 25 1 0 (by decide), ↓reduceIte],
      by simp only [rowX, enc.fld_eq 26 6 2 (by decide), decSAXW02, enc.fld_eq 25 1 0 (by decide), ↓reduceIte],
      by simp only [rowW, enc.fld_eq 26 6 2 (by decide), decSAXW02, enc.fld_eq 25 1 0 (by decide), ↓reduceIte]⟩)

theorem Encoded.fields_4at21 {u : BitVec 32} {base : Nat} {s : Fin 16}
    (enc : Encoded u base [(21, 4)] [s.val]) :
    fin4 u 21 = s :=
  enc.fin4_eq 0 21 (by decide) rfl

theorem roundTrip_4at21 (s : Fin 16) :
    RoundTrip (.sinc s) := by
  have fits : Fits [(21, 4)] [s.val] := ⟨s.isLt, rfl, rfl⟩
  exact roundTrip_saxw (r := .sinc) (base := 0x0C000000) rfl ⟨rfl, by decide, fits⟩
      (fun _ enc => by obtain rfl := enc.fields_4at21; rfl)
      (fun _ enc => ⟨by simp only [rowS, enc.fld_eq 26 6 3 (by decide), decSAXW03, enc.fld_eq 0 11 0 (by decide), enc.fld_eq 25 1 0 (by decide), enc.fld_eq 11 10 0 (by decide), and_self, ↓reduceIte],
      by simp only [rowA, enc.fld_eq 26 6 3 (by decide), decSAXW03, enc.fld_eq 0 11 0 (by decide), enc.fld_eq 25 1 0 (by decide), enc.fld_eq 11 10 0 (by decide), and_self, ↓reduceIte],
      by simp only [rowX, enc.fld_eq 26 6 3 (by decide), decSAXW03, enc.fld_eq 0 11 0 (by decide), enc.fld_eq 25 1 0 (by decide), enc.fld_eq 11 10 0 (by decide), and_self, ↓reduceIte],
      by simp only [rowW, enc.fld_eq 26 6 3 (by decide), decSAXW03, enc.fld_eq 0 11 0 (by decide), enc.fld_eq 25 1 0 (by decide), enc.fld_eq 11 10 0 (by decide), and_self, ↓reduceIte]⟩)

theorem Encoded.fields_2at24_24at0 {u : BitVec 32} {base : Nat} {h : Fin 4} {x : BitVec 24}
    (enc : Encoded u base [(24, 2), (0, 24)] [h.val, x.toNat]) :
    fin2 u 24 = h ∧ u.extractLsb' 0 24 = x :=
  ⟨enc.fin2_eq 0 24 (by decide) rfl, enc.extract_eq 1 0 (by decide) rfl⟩

theorem roundTrip_2at24_24at0 (h : Fin 4) (x : BitVec 24) :
    RoundTrip (.bq h x) := by
  have fits : Fits [(24, 2), (0, 24)] [h.val, x.toNat] := ⟨h.isLt, x.isLt, rfl, rfl⟩
  exact roundTrip_saxw (r := .bq) (base := 0x1C000000) rfl ⟨rfl, by decide, fits⟩
      (fun _ enc => by obtain ⟨rfl, rfl⟩ := enc.fields_2at24_24at0; rfl)
      (fun _ enc => ⟨by simp only [rowS, enc.fld_eq 26 6 7 (by decide)],
      by simp only [rowA, enc.fld_eq 26 6 7 (by decide)],
      by simp only [rowX, enc.fld_eq 26 6 7 (by decide)],
      by simp only [rowW, enc.fld_eq 26 6 7 (by decide)]⟩)

theorem Encoded.fields_5at16_2at0 {u : BitVec 32} {base : Nat} {a : Fin 32} {q : Fin 4}
    (enc : Encoded u base [(16, 5), (0, 2)] [a.val, q.val]) :
    fin5 u 16 = a ∧ fin2 u 0 = q :=
  ⟨enc.fin5_eq 0 16 (by decide) rfl, enc.fin2_eq 1 0 (by decide) rfl⟩

theorem roundTrip_5at16_2at0 (a : Fin 32) (q : Fin 4) :
    RoundTrip (.bpush a q) := by
  have fits : Fits [(16, 5), (0, 2)] [a.val, q.val] := ⟨a.isLt, q.isLt, rfl, rfl⟩
  exact roundTrip_saxw (r := .bpush) (base := 0x20000000) rfl ⟨rfl, by decide, fits⟩
      (fun _ enc => by obtain ⟨rfl, rfl⟩ := enc.fields_5at16_2at0; rfl)
      (fun _ enc => ⟨by simp only [rowS, enc.fld_eq 26 6 8 (by decide), decSAW08, enc.fld_eq 21 5 0 (by decide), enc.fld_eq 2 14 0 (by decide), and_self, ↓reduceIte],
      by simp only [rowA, enc.fld_eq 26 6 8 (by decide), decSAW08, enc.fld_eq 21 5 0 (by decide), enc.fld_eq 2 14 0 (by decide), and_self, ↓reduceIte],
      by simp only [rowX, enc.fld_eq 26 6 8 (by decide), decX08, enc.fld_eq 2 1 0 (by decide), enc.fld_eq 21 5 0 (by decide), enc.fld_eq 3 13 0 (by decide), and_self, ↓reduceIte],
      by simp only [rowW, enc.fld_eq 26 6 8 (by decide), decSAW08, enc.fld_eq 21 5 0 (by decide), enc.fld_eq 2 14 0 (by decide), and_self, ↓reduceIte]⟩)

theorem Encoded.fields_3at16_2at0 {u : BitVec 32} {base : Nat} {a : Fin 8} {q : Fin 4}
    (enc : Encoded u base [(16, 3), (0, 2)] [a.val, q.val]) :
    fin3 u 16 = a ∧ fin2 u 0 = q :=
  ⟨enc.fin3_eq 0 16 (by decide) rfl, enc.fin2_eq 1 0 (by decide) rfl⟩

theorem roundTrip_3at16_2at0 (a : Fin 8) (q : Fin 4) :
    RoundTrip (.bpushP a q) := by
  have fits : Fits [(16, 3), (0, 2)] [a.val, q.val] := ⟨a.isLt, q.isLt, rfl, rfl⟩
  exact roundTrip_x (r := .bpushP) (base := 0x20000004) rfl ⟨rfl, by decide, fits⟩
      (fun _ enc => by obtain ⟨rfl, rfl⟩ := enc.fields_3at16_2at0; rfl)
      (fun _ enc => by simp only [rowX, enc.fld_eq 26 6 8 (by decide), decX08, enc.fld_eq 2 1 1 (by decide), enc.fld_eq 19 7 0 (by decide), enc.fld_eq 3 13 0 (by decide), and_self, ↓reduceIte])

theorem Encoded.fields_5at21_16at0 {u : BitVec 32} {base : Nat} {d : Fin 32} {i : BitVec 16}
    (enc : Encoded u base [(21, 5), (0, 16)] [d.val, i.toNat]) :
    fin5 u 21 = d ∧ u.extractLsb' 0 16 = i :=
  ⟨enc.fin5_eq 0 21 (by decide) rfl, enc.extract_eq 1 0 (by decide) rfl⟩

theorem roundTrip_5at21_16at0 (d : Fin 32) (i : BitVec 16) :
    RoundTrip (.addpc d i) := by
  have fits : Fits [(21, 5), (0, 16)] [d.val, i.toNat] := ⟨d.isLt, i.isLt, rfl, rfl⟩
  exact roundTrip_saw (r := .addpc) (base := 0x60000000) rfl ⟨rfl, by decide, fits⟩
      (fun _ enc => by obtain ⟨rfl, rfl⟩ := enc.fields_5at21_16at0; rfl)
      (fun _ enc => ⟨by simp only [rowS, enc.fld_eq 26 6 24 (by decide), decSAW18, enc.fld_eq 16 5 0 (by decide), ↓reduceIte],
      by simp only [rowA, enc.fld_eq 26 6 24 (by decide), decSAW18, enc.fld_eq 16 5 0 (by decide), ↓reduceIte],
      by simp only [rowW, enc.fld_eq 26 6 24 (by decide), decSAW18, enc.fld_eq 16 5 0 (by decide), ↓reduceIte]⟩)

theorem Encoded.fields_5at21_5at16_3at11 {u : BitVec 32} {base : Nat} {d : Fin 32} {a : Fin 32} {p : Fin 8}
    (enc : Encoded u base [(21, 5), (16, 5), (11, 3)] [d.val, a.val, p.val]) :
    fin5 u 21 = d ∧ fin5 u 16 = a ∧ fin3 u 11 = p :=
  ⟨enc.fin5_eq 0 21 (by decide) rfl, enc.fin5_eq 1 16 (by decide) rfl, enc.fin3_eq 2 11 (by decide) rfl⟩

theorem roundTrip_5at21_5at16_3at11 (d : Fin 32) (a : Fin 32) (p : Fin 8) :
    RoundTrip (.bnet d a p) := by
  have fits : Fits [(21, 5), (16, 5), (11, 3)] [d.val, a.val, p.val] := ⟨d.isLt, a.isLt, p.isLt, rfl, rfl⟩
  exact roundTrip_s (r := .bnet) (base := 0x6C000000) rfl ⟨rfl, by decide, fits⟩
      (fun _ enc => by obtain ⟨rfl, rfl, rfl⟩ := enc.fields_5at21_5at16_3at11; rfl)
      (fun _ enc => by simp only [rowS, enc.fld_eq 26 6 27 (by decide), decS1B, enc.fld_eq 14 2 0 (by decide), enc.fld_eq 0 11 0 (by decide), and_self, ↓reduceIte])

theorem Encoded.fields_5at21_12at0 {u : BitVec 32} {base : Nat} {d : Fin 32} {c : BitVec 12}
    (enc : Encoded u base [(21, 5), (0, 12)] [d.val, c.toNat]) :
    fin5 u 21 = d ∧ u.extractLsb' 0 12 = c :=
  ⟨enc.fin5_eq 0 21 (by decide) rfl, enc.extract_eq 1 0 (by decide) rfl⟩

theorem roundTrip_5at21_12at0 (d : Fin 32) (c : BitVec 12) :
    RoundTrip (.csrr d c) := by
  have fits : Fits [(21, 5), (0, 12)] [d.val, c.toNat] := ⟨d.isLt, c.isLt, rfl, rfl⟩
  exact roundTrip_s (r := .csrr) (base := 0x80000000) rfl ⟨rfl, by decide, fits⟩
      (fun _ enc => by obtain ⟨rfl, rfl⟩ := enc.fields_5at21_12at0; rfl)
      (fun _ enc => by simp only [rowS, enc.fld_eq 26 6 32 (by decide), decS20, enc.fld_eq 12 2 0 (by decide), enc.fld_eq 14 7 0 (by decide), ↓reduceIte])

theorem Encoded.fields_5at21_5at16_5at11_4at0 {u : BitVec 32} {base : Nat} {d : Fin 32} {a : Fin 32} {b : Fin 32} {s : Fin 16}
    (enc : Encoded u base [(21, 5), (16, 5), (11, 5), (0, 4)] [d.val, a.val, b.val, s.val]) :
    fin5 u 21 = d ∧ fin5 u 16 = a ∧ fin5 u 11 = b ∧ fin4 u 0 = s :=
  ⟨enc.fin5_eq 0 21 (by decide) rfl, enc.fin5_eq 1 16 (by decide) rfl, enc.fin5_eq 2 11 (by decide) rfl, enc.fin4_eq 3 0 (by decide) rfl⟩

theorem roundTrip_5at21_5at16_5at11_4at0 (d : Fin 32) (a : Fin 32) (b : Fin 32) (s : Fin 16) :
    RoundTrip (.msg d a b s) := by
  have fits : Fits [(21, 5), (16, 5), (11, 5), (0, 4)] [d.val, a.val, b.val, s.val] := ⟨d.isLt, a.isLt, b.isLt, s.isLt, rfl, rfl⟩
  exact roundTrip_s (r := .msg) (base := 0x98000000) rfl ⟨rfl, by decide, fits⟩
      (fun _ enc => by obtain ⟨rfl, rfl, rfl, rfl⟩ := enc.fields_5at21_5at16_5at11_4at0; rfl)
      (fun _ enc => by simp only [rowS, enc.fld_eq 26 6 38 (by decide), decS26, enc.fld_eq 4 7 0 (by decide), ↓reduceIte])

theorem Encoded.fields_12at0 {u : BitVec 32} {base : Nat} {f : BitVec 12}
    (enc : Encoded u base [(0, 12)] [f.toNat]) :
    u.extractLsb' 0 12 = f :=
  enc.extract_eq 0 0 (by decide) rfl

theorem roundTrip_12at0 (f : BitVec 12) (k : BitVec 32) :
    RoundTrip (.mcfg f k) := by
  have fits : Fits [(0, 12)] [f.toNat] := ⟨f.isLt, rfl, rfl⟩
  exact roundTrip_s (r := .mcfg) (base := 0xA0000000) rfl ⟨rfl, by decide, fits⟩
      (fun _ enc => by obtain rfl := enc.fields_12at0; rfl)
      (fun _ enc => by simp only [rowS, enc.fld_eq 26 6 40 (by decide), decS28, enc.fld_eq 12 14 0 (by decide), ↓reduceIte])

theorem Encoded.fields_4at21_2at2_2at0 {u : BitVec 32} {base : Nat} {s : Fin 16} {w : Fin 4} {c : Fin 4}
    (enc : Encoded u base [(21, 4), (2, 2), (0, 2)] [s.val, w.val, c.val]) :
    fin4 u 21 = s ∧ fin2 u 2 = w ∧ fin2 u 0 = c :=
  ⟨enc.fin4_eq 0 21 (by decide) rfl, enc.fin2_eq 1 2 (by decide) rfl, enc.fin2_eq 2 0 (by decide) rfl⟩

theorem roundTrip_4at21_2at2_2at0 (s : Fin 16) (w : Fin 4) (c : Fin 4) :
    RoundTrip (.mgo s w c) := by
  have fits : Fits [(21, 4), (2, 2), (0, 2)] [s.val, w.val, c.val] := ⟨s.isLt, w.isLt, c.isLt, rfl, rfl⟩
  exact roundTrip_s (r := .mgo) (base := 0xAC000000) rfl ⟨rfl, by decide, fits⟩
      (fun _ enc => by obtain ⟨rfl, rfl, rfl⟩ := enc.fields_4at21_2at2_2at0; rfl)
      (fun _ enc => by simp only [rowS, enc.fld_eq 26 6 43 (by decide), decS2B, enc.fld_eq 25 1 0 (by decide), enc.fld_eq 4 17 0 (by decide), and_self, ↓reduceIte])

theorem Encoded.fields_4at21_5at16_5at11_1at0 {u : BitVec 32} {base : Nat} {s : Fin 16} {a : Fin 32} {b : Fin 32} {k : Fin 2}
    (enc : Encoded u base [(21, 4), (16, 5), (11, 5), (0, 1)] [s.val, a.val, b.val, k.val]) :
    fin4 u 21 = s ∧ fin5 u 16 = a ∧ fin5 u 11 = b ∧ fin1 u 0 = k :=
  ⟨enc.fin4_eq 0 21 (by decide) rfl, enc.fin5_eq 1 16 (by decide) rfl, enc.fin5_eq 2 11 (by decide) rfl, enc.fin1_eq 3 0 (by decide) rfl⟩

theorem roundTrip_4at21_5at16_5at11_1at0 (s : Fin 16) (a : Fin 32) (b : Fin 32) (k : Fin 2) :
    RoundTrip (.mwld s a b k) := by
  have fits : Fits [(21, 4), (16, 5), (11, 5), (0, 1)] [s.val, a.val, b.val, k.val] := ⟨s.isLt, a.isLt, b.isLt, k.isLt, rfl, rfl⟩
  exact roundTrip_s (r := .mwld) (base := 0xB4000000) rfl ⟨rfl, by decide, fits⟩
      (fun _ enc => by obtain ⟨rfl, rfl, rfl, rfl⟩ := enc.fields_4at21_5at16_5at11_1at0; rfl)
      (fun _ enc => by simp only [rowS, enc.fld_eq 26 6 45 (by decide), decS2D, enc.fld_eq 25 1 0 (by decide), enc.fld_eq 1 10 0 (by decide), and_self, ↓reduceIte])

theorem Encoded.fields_3at21_4at11 {u : BitVec 32} {base : Nat} {t : Fin 8} {s : Fin 16}
    (enc : Encoded u base [(21, 3), (11, 4)] [t.val, s.val]) :
    fin3 u 21 = t ∧ fin4 u 11 = s :=
  ⟨enc.fin3_eq 0 21 (by decide) rfl, enc.fin4_eq 1 11 (by decide) rfl⟩

theorem roundTrip_3at21_4at11 (t : Fin 8) (s : Fin 16) :
    RoundTrip (.sweep t s) := by
  have fits : Fits [(21, 3), (11, 4)] [t.val, s.val] := ⟨t.isLt, s.isLt, rfl, rfl⟩
  exact roundTrip_s (r := .sweep) (base := 0xE8000000) rfl ⟨rfl, by decide, fits⟩
      (fun _ enc => by obtain ⟨rfl, rfl⟩ := enc.fields_3at21_4at11; rfl)
      (fun _ enc => by simp only [rowS, enc.fld_eq 26 6 58 (by decide), decS3A, enc.fld_eq 24 2 0 (by decide), enc.fld_eq 15 6 0 (by decide), enc.fld_eq 0 11 0 (by decide), and_self, ↓reduceIte])

theorem Encoded.fields_3at21_5at16_5at11 {u : BitVec 32} {base : Nat} {i : Fin 8} {a : Fin 32} {b : Fin 32}
    (enc : Encoded u base [(21, 3), (16, 5), (11, 5)] [i.val, a.val, b.val]) :
    fin3 u 21 = i ∧ fin5 u 16 = a ∧ fin5 u 11 = b :=
  ⟨enc.fin3_eq 0 21 (by decide) rfl, enc.fin5_eq 1 16 (by decide) rfl, enc.fin5_eq 2 11 (by decide) rfl⟩

theorem roundTrip_3at21_5at16_5at11 (i : Fin 8) (a : Fin 32) (b : Fin 32) :
    RoundTrip (.mmod i a b) := by
  have fits : Fits [(21, 3), (16, 5), (11, 5)] [i.val, a.val, b.val] := ⟨i.isLt, a.isLt, b.isLt, rfl, rfl⟩
  exact roundTrip_aw (r := .mmod) (base := 0xC0000000) rfl ⟨rfl, by decide, fits⟩
      (fun _ enc => by obtain ⟨rfl, rfl, rfl⟩ := enc.fields_3at21_5at16_5at11; rfl)
      (fun _ enc => ⟨by simp only [rowA, enc.fld_eq 26 6 48 (by decide), decAW30, enc.fld_eq 24 2 0 (by decide), enc.fld_eq 0 11 0 (by decide), and_self, ↓reduceIte],
      by simp only [rowW, enc.fld_eq 26 6 48 (by decide), decAW30, enc.fld_eq 24 2 0 (by decide), enc.fld_eq 0 11 0 (by decide), and_self, ↓reduceIte]⟩)

theorem Encoded.fields_5at21_5at16_5at11_4at5 {u : BitVec 32} {base : Nat} {d : Fin 32} {a : Fin 32} {b : Fin 32} {s : Fin 16}
    (enc : Encoded u base [(21, 5), (16, 5), (11, 5), (5, 4)] [d.val, a.val, b.val, s.val]) :
    fin5 u 21 = d ∧ fin5 u 16 = a ∧ fin5 u 11 = b ∧ fin4 u 5 = s :=
  ⟨enc.fin5_eq 0 21 (by decide) rfl, enc.fin5_eq 1 16 (by decide) rfl, enc.fin5_eq 2 11 (by decide) rfl, enc.fin4_eq 3 5 (by decide) rfl⟩

theorem roundTrip_5at21_5at16_5at11_4at5 (d : Fin 32) (a : Fin 32) (b : Fin 32) (s : Fin 16) :
    RoundTrip (.amoFadd d a b s) := by
  have fits : Fits [(21, 5), (16, 5), (11, 5), (5, 4)] [d.val, a.val, b.val, s.val] := ⟨d.isLt, a.isLt, b.isLt, s.isLt, rfl, rfl⟩
  exact roundTrip_a (r := .amoFadd) (base := 0xB400000A) rfl ⟨rfl, by decide, fits⟩
      (fun _ enc => by obtain ⟨rfl, rfl, rfl, rfl⟩ := enc.fields_5at21_5at16_5at11_4at5; rfl)
      (fun _ enc => by simp only [rowA, enc.fld_eq 26 6 45 (by decide), decA2D, enc.fld_eq 0 4 10 (by decide), enc.fld_eq 9 2 0 (by decide), enc.fld_eq 4 1 0 (by decide), and_self, ↓reduceIte])

theorem Encoded.fields_5at21_5at16_4at6_6at0 {u : BitVec 32} {base : Nat} {d : Fin 32} {a : Fin 32} {s : Fin 16} {l : BitVec 6}
    (enc : Encoded u base [(21, 5), (16, 5), (6, 4), (0, 6)] [d.val, a.val, s.val, l.toNat]) :
    fin5 u 21 = d ∧ fin5 u 16 = a ∧ fin4 u 6 = s ∧ u.extractLsb' 0 6 = l :=
  ⟨enc.fin5_eq 0 21 (by decide) rfl, enc.fin5_eq 1 16 (by decide) rfl, enc.fin4_eq 2 6 (by decide) rfl, enc.extract_eq 3 0 (by decide) rfl⟩

theorem roundTrip_5at21_5at16_4at6_6at0 (d : Fin 32) (a : Fin 32) (s : Fin 16) (l : BitVec 6) :
    RoundTrip (.ldblk d a s l) := by
  have fits : Fits [(21, 5), (16, 5), (6, 4), (0, 6)] [d.val, a.val, s.val, l.toNat] := ⟨d.isLt, a.isLt, s.isLt, l.isLt, rfl, rfl⟩
  exact roundTrip_a (r := .ldblk) (base := 0xB8000000) rfl ⟨rfl, by decide, fits⟩
      (fun _ enc => by obtain ⟨rfl, rfl, rfl, rfl⟩ := enc.fields_5at21_5at16_4at6_6at0; rfl)
      (fun _ enc => by simp only [rowA, enc.fld_eq 26 6 46 (by decide), decA2E, enc.fld_eq 10 6 0 (by decide), ↓reduceIte])

theorem Encoded.fields_5at21_5at16_3at8_4at4_4at0 {u : BitVec 32} {base : Nat} {d : Fin 32} {a : Fin 32} {p : Fin 8} {y : Fin 16} {x : Fin 16}
    (enc : Encoded u base [(21, 5), (16, 5), (8, 3), (4, 4), (0, 4)] [d.val, a.val, p.val, y.val, x.val]) :
    fin5 u 21 = d ∧ fin5 u 16 = a ∧ fin3 u 8 = p ∧ fin4 u 4 = y ∧ fin4 u 0 = x :=
  ⟨enc.fin5_eq 0 21 (by decide) rfl, enc.fin5_eq 1 16 (by decide) rfl, enc.fin3_eq 2 8 (by decide) rfl, enc.fin4_eq 3 4 (by decide) rfl, enc.fin4_eq 4 0 (by decide) rfl⟩

theorem roundTrip_5at21_5at16_3at8_4at4_4at0 (d : Fin 32) (a : Fin 32) (p : Fin 8) (y : Fin 16) (x : Fin 16) :
    RoundTrip (.vcvt d a p y x) := by
  have fits : Fits [(21, 5), (16, 5), (8, 3), (4, 4), (0, 4)] [d.val, a.val, p.val, y.val, x.val] := ⟨d.isLt, a.isLt, p.isLt, y.isLt, x.isLt, rfl, rfl⟩
  exact roundTrip_x (r := .vcvt) (base := 0x54000000) rfl ⟨rfl, by decide, fits⟩
      (fun _ enc => by obtain ⟨rfl, rfl, rfl, rfl, rfl⟩ := enc.fields_5at21_5at16_3at8_4at4_4at0; rfl)
      (fun _ enc => by simp only [rowX, enc.fld_eq 26 6 21 (by decide), decX15, enc.fld_eq 11 5 0 (by decide), ↓reduceIte])

theorem Encoded.fields_3at21_3at16 {u : BitVec 32} {base : Nat} {d : Fin 8} {a : Fin 8}
    (enc : Encoded u base [(21, 3), (16, 3)] [d.val, a.val]) :
    fin3 u 21 = d ∧ fin3 u 16 = a :=
  ⟨enc.fin3_eq 0 21 (by decide) rfl, enc.fin3_eq 1 16 (by decide) rfl⟩

theorem roundTrip_3at21_3at16 (d : Fin 8) (a : Fin 8) :
    RoundTrip (.pnot d a) := by
  have fits : Fits [(21, 3), (16, 3)] [d.val, a.val] := ⟨d.isLt, a.isLt, rfl, rfl⟩
  exact roundTrip_x (r := .pnot) (base := 0x60000003) rfl ⟨rfl, by decide, fits⟩
      (fun _ enc => by obtain ⟨rfl, rfl⟩ := enc.fields_3at21_3at16; rfl)
      (fun _ enc => by simp only [rowX, enc.fld_eq 26 6 24 (by decide), decX18, enc.fld_eq 0 11 3 (by decide), enc.fld_eq 24 2 0 (by decide), enc.fld_eq 19 2 0 (by decide), enc.fld_eq 11 5 0 (by decide), and_self, ↓reduceIte])

theorem Encoded.fields_3at21_5at16_5at11_4at0 {u : BitVec 32} {base : Nat} {d : Fin 8} {i : Fin 32} {n : Fin 32} {y : Fin 16}
    (enc : Encoded u base [(21, 3), (16, 5), (11, 5), (0, 4)] [d.val, i.val, n.val, y.val]) :
    fin3 u 21 = d ∧ fin5 u 16 = i ∧ fin5 u 11 = n ∧ fin4 u 0 = y :=
  ⟨enc.fin3_eq 0 21 (by decide) rfl, enc.fin5_eq 1 16 (by decide) rfl, enc.fin5_eq 2 11 (by decide) rfl, enc.fin4_eq 3 0 (by decide) rfl⟩

theorem roundTrip_3at21_5at16_5at11_4at0 (d : Fin 8) (i : Fin 32) (n : Fin 32) (y : Fin 16) :
    RoundTrip (.vwhile d i n y) := by
  have fits : Fits [(21, 3), (16, 5), (11, 5), (0, 4)] [d.val, i.val, n.val, y.val] := ⟨d.isLt, i.isLt, n.isLt, y.isLt, rfl, rfl⟩
  exact roundTrip_x (r := .vwhile) (base := 0x64000000) rfl ⟨rfl, by decide, fits⟩
      (fun _ enc => by obtain ⟨rfl, rfl, rfl, rfl⟩ := enc.fields_3at21_5at16_5at11_4at0; rfl)
      (fun _ enc => by simp only [rowX, enc.fld_eq 26 6 25 (by decide), decX19, enc.fld_eq 24 2 0 (by decide), enc.fld_eq 4 7 0 (by decide), and_self, ↓reduceIte])

theorem Encoded.fields_4at0 {u : BitVec 32} {base : Nat} {n : Fin 16}
    (enc : Encoded u base [(0, 4)] [n.val]) :
    fin4 u 0 = n :=
  enc.fin4_eq 0 0 (by decide) rfl

theorem roundTrip_4at0 (n : Fin 16) :
    RoundTrip (.vrot n) := by
  have fits : Fits [(0, 4)] [n.val] := ⟨n.isLt, rfl, rfl⟩
  exact roundTrip_x (r := .vrot) (base := 0x6C200000) rfl ⟨rfl, by decide, fits⟩
      (fun _ enc => by obtain rfl := enc.fields_4at0; rfl)
      (fun _ enc => by simp only [rowX, enc.fld_eq 26 6 27 (by decide), decX1B, enc.fld_eq 21 1 1 (by decide), enc.fld_eq 22 4 0 (by decide), enc.fld_eq 4 17 0 (by decide), and_self, ↓reduceIte])

theorem Encoded.fields_5at21_3at8 {u : BitVec 32} {base : Nat} {d : Fin 32} {p : Fin 8}
    (enc : Encoded u base [(21, 5), (8, 3)] [d.val, p.val]) :
    fin5 u 21 = d ∧ fin3 u 8 = p :=
  ⟨enc.fin5_eq 0 21 (by decide) rfl, enc.fin3_eq 1 8 (by decide) rfl⟩

theorem roundTrip_5at21_3at8 (d : Fin 32) (p : Fin 8) :
    RoundTrip (.vrand d p) := by
  have fits : Fits [(21, 5), (8, 3)] [d.val, p.val] := ⟨d.isLt, p.isLt, rfl, rfl⟩
  exact roundTrip_x (r := .vrand) (base := 0x74000060) rfl ⟨rfl, by decide, fits⟩
      (fun _ enc => by obtain ⟨rfl, rfl⟩ := enc.fields_5at21_3at8; rfl)
      (fun _ enc => by simp only [rowX, enc.fld_eq 26 6 29 (by decide), decX1D, enc.fld_eq 11 10 0 (by decide), enc.fld_eq 0 8 96 (by decide), and_self, ↓reduceIte])

theorem Encoded.fields_5at21_5at16_2at14_3at11_3at8_4at4 {u : BitVec 32} {base : Nat} {d : Fin 32} {a : Fin 32} {l : Fin 4} {k : Fin 8} {p : Fin 8} {y : Fin 16}
    (enc : Encoded u base [(21, 5), (16, 5), (14, 2), (11, 3), (8, 3), (4, 4)] [d.val, a.val, l.val, k.val, p.val, y.val]) :
    fin5 u 21 = d ∧ fin5 u 16 = a ∧ fin2 u 14 = l ∧ fin3 u 11 = k ∧ fin3 u 8 = p ∧ fin4 u 4 = y :=
  ⟨enc.fin5_eq 0 21 (by decide) rfl, enc.fin5_eq 1 16 (by decide) rfl, enc.fin2_eq 2 14 (by decide) rfl, enc.fin3_eq 3 11 (by decide) rfl, enc.fin3_eq 4 8 (by decide) rfl, enc.fin4_eq 5 4 (by decide) rfl⟩

theorem roundTrip_5at21_5at16_2at14_3at11_3at8_4at4 (d : Fin 32) (a : Fin 32) (l : Fin 4) (k : Fin 8) (p : Fin 8) (y : Fin 16) :
    RoundTrip (.vtopk d a l k p y) := by
  have fits : Fits [(21, 5), (16, 5), (14, 2), (11, 3), (8, 3), (4, 4)] [d.val, a.val, l.val, k.val, p.val, y.val] := ⟨d.isLt, a.isLt, l.isLt, k.isLt, p.isLt, y.isLt, rfl, rfl⟩
  exact roundTrip_x (r := .vtopk) (base := 0x7C000000) rfl ⟨rfl, by decide, fits⟩
      (fun _ enc => by obtain ⟨rfl, rfl, rfl, rfl, rfl, rfl⟩ := enc.fields_5at21_5at16_2at14_3at11_3at8_4at4; rfl)
      (fun _ enc => by simp only [rowX, enc.fld_eq 26 6 31 (by decide), decX1F, enc.fld_eq 0 4 0 (by decide)])

theorem Encoded.fields_5at21_5at16_3at8_2at4 {u : BitVec 32} {base : Nat} {d : Fin 32} {a : Fin 32} {p : Fin 8} {y : Fin 4}
    (enc : Encoded u base [(21, 5), (16, 5), (8, 3), (4, 2)] [d.val, a.val, p.val, y.val]) :
    fin5 u 21 = d ∧ fin5 u 16 = a ∧ fin3 u 8 = p ∧ fin2 u 4 = y :=
  ⟨enc.fin5_eq 0 21 (by decide) rfl, enc.fin5_eq 1 16 (by decide) rfl, enc.fin3_eq 2 8 (by decide) rfl, enc.fin2_eq 3 4 (by decide) rfl⟩

theorem roundTrip_5at21_5at16_3at8_2at4 (d : Fin 32) (a : Fin 32) (p : Fin 8) (y : Fin 4) :
    RoundTrip (.vbinpos d a p y) := by
  have fits : Fits [(21, 5), (16, 5), (8, 3), (4, 2)] [d.val, a.val, p.val, y.val] := ⟨d.isLt, a.isLt, p.isLt, y.isLt, rfl, rfl⟩
  exact roundTrip_x (r := .vbinpos) (base := 0x7C000041) rfl ⟨rfl, by decide, fits⟩
      (fun _ enc => by obtain ⟨rfl, rfl, rfl, rfl⟩ := enc.fields_5at21_5at16_3at8_2at4; rfl)
      (fun _ enc => by simp only [rowX, enc.fld_eq 26 6 31 (by decide), decX1F, enc.fld_eq 0 4 1 (by decide), enc.fld_eq 11 5 0 (by decide), enc.fld_eq 6 2 1 (by decide), and_self, ↓reduceIte])

theorem Encoded.fields_5at21_5at16_3at11_3at8_1at4 {u : BitVec 32} {base : Nat} {d : Fin 32} {a : Fin 32} {l : Fin 8} {p : Fin 8} {y : Fin 2}
    (enc : Encoded u base [(21, 5), (16, 5), (11, 3), (8, 3), (4, 1)] [d.val, a.val, l.val, p.val, y.val]) :
    fin5 u 21 = d ∧ fin5 u 16 = a ∧ fin3 u 11 = l ∧ fin3 u 8 = p ∧ fin1 u 4 = y :=
  ⟨enc.fin5_eq 0 21 (by decide) rfl, enc.fin5_eq 1 16 (by decide) rfl, enc.fin3_eq 2 11 (by decide) rfl, enc.fin3_eq 3 8 (by decide) rfl, enc.fin1_eq 4 4 (by decide) rfl⟩

theorem roundTrip_5at21_5at16_3at11_3at8_1at4 (d : Fin 32) (a : Fin 32) (l : Fin 8) (p : Fin 8) (y : Fin 2) :
    RoundTrip (.vsortkv d a l p y) := by
  have fits : Fits [(21, 5), (16, 5), (11, 3), (8, 3), (4, 1)] [d.val, a.val, l.val, p.val, y.val] := ⟨d.isLt, a.isLt, l.isLt, p.isLt, y.isLt, rfl, rfl⟩
  exact roundTrip_x (r := .vsortkv) (base := 0x7C000064) rfl ⟨rfl, by decide, fits⟩
      (fun _ enc => by obtain ⟨rfl, rfl, rfl, rfl, rfl⟩ := enc.fields_5at21_5at16_3at11_3at8_1at4; rfl)
      (fun _ enc => by simp only [rowX, enc.fld_eq 26 6 31 (by decide), decX1F, enc.fld_eq 0 4 4 (by decide), enc.fld_eq 14 2 0 (by decide), enc.fld_eq 5 3 3 (by decide), and_self, ↓reduceIte])

theorem Encoded.fields_5at21_3at13_3at9_9at0 {u : BitVec 32} {base : Nat} {d : Fin 32} {p : Fin 8} {y : Fin 8} {i : BitVec 9}
    (enc : Encoded u base [(21, 5), (13, 3), (9, 3), (0, 9)] [d.val, p.val, y.val, i.toNat]) :
    fin5 u 21 = d ∧ fin3 u 13 = p ∧ fin3 u 9 = y ∧ u.extractLsb' 0 9 = i :=
  ⟨enc.fin5_eq 0 21 (by decide) rfl, enc.fin3_eq 1 13 (by decide) rfl, enc.fin3_eq 2 9 (by decide) rfl, enc.extract_eq 3 0 (by decide) rfl⟩

theorem roundTrip_5at21_3at13_3at9_9at0 (d : Fin 32) (p : Fin 8) (y : Fin 8) (i : BitVec 9) :
    RoundTrip (.vli d p y i) := by
  have fits : Fits [(21, 5), (13, 3), (9, 3), (0, 9)] [d.val, p.val, y.val, i.toNat] := ⟨d.isLt, p.isLt, y.isLt, i.isLt, rfl, rfl⟩
  exact roundTrip_x (r := .vli) (base := 0x90000000) rfl ⟨rfl, by decide, fits⟩
      (fun _ enc => by obtain ⟨rfl, rfl, rfl, rfl⟩ := enc.fields_5at21_3at13_3at9_9at0; rfl)
      (fun _ enc => by simp only [rowX, enc.fld_eq 26 6 36 (by decide), decX24, enc.fld_eq 16 5 0 (by decide), enc.fld_eq 12 1 0 (by decide), and_self, ↓reduceIte])

/-- `dly` with a count: the word of count 0 is that of `nop` (R58). -/
theorem roundTrip_dly (n : BitVec 16) : RoundTrip (.dly n) := by
  intro q h
  have e : Encoded (encode (.dly n)) 0x04000000 [(0, 16)] [n.toNat] := ⟨rfl, by decide, n.isLt, rfl, rfl⟩
  simp only [Instr.wellFormed, Bool.and_eq_true] at h
  have ne : n ≠ 0 := bne_iff_ne.mp h.2
  have count : fld (encode (.dly n)) 0 16 ≠ 0 := by
    rw [fld, e.field 0 (by decide) rfl]
    exact fun z => ne (BitVec.eq_of_toNat_eq z)
  have built : Row.dly.build (encode (.dly n)) (encodeK (.dly n)) = .dly n := congrArg Instr.dly e.fields_16at0
  have row : rowOf q (encode (.dly n)) = some .dly := by
    generalize encode (.dly n) = w at e count
    have major := e.fld_eq 26 6 1 (by decide)
    have high := e.fld_eq 16 10 0 (by decide)
    cases q <;> simp only [rowOf, rowS, rowA, rowX, rowW, major, decSAXW01, high, count, ↓reduceIte]
  rw [decode, row]
  exact congrArg some built

/-- An event or a packet stands in no opcode space. -/
theorem roundTrip_of_no_seqs {i : Instr} (h : i.seqs = []) : RoundTrip i := by
  intro q w
  rw [Instr.wellFormed, h] at w
  cases w

theorem roundTrip_all (i : Instr) : RoundTrip i := by
  cases i with
  | resultLanding _ _ => exact roundTrip_of_no_seqs rfl
  | handoffEffect _ _ => exact roundTrip_of_no_seqs rfl
  | lateWriteLanding _ _ => exact roundTrip_of_no_seqs rfl
  | takeInterrupt _ _ => exact roundTrip_of_no_seqs rfl
  | deliveredCause _ _ => exact roundTrip_of_no_seqs rfl
  | taskEnd _ _ => exact roundTrip_of_no_seqs rfl
  | wakeAccept _ _ => exact roundTrip_of_no_seqs rfl
  | longAccessComplete _ => exact roundTrip_of_no_seqs rfl
  | homeRead _ => exact roundTrip_of_no_seqs rfl
  | homeWrite _ => exact roundTrip_of_no_seqs rfl
  | tlbFill _ _ => exact roundTrip_of_no_seqs rfl
  | parkResume _ _ => exact roundTrip_of_no_seqs rfl
  | waiterTableJoin _ => exact roundTrip_of_no_seqs rfl
  | blockFillComplete _ => exact roundTrip_of_no_seqs rfl
  | blockDrainComplete _ => exact roundTrip_of_no_seqs rfl
  | inval _ _ => exact roundTrip_of_no_seqs rfl
  | invalidationComplete _ => exact roundTrip_of_no_seqs rfl
  | faultRecord _ _ _ _ _ => exact roundTrip_of_no_seqs rfl
  | clockFloor _ => exact roundTrip_of_no_seqs rfl
  | lcTick _ _ => exact roundTrip_of_no_seqs rfl
  | pctl _ _ _ => exact roundTrip_of_no_seqs rfl
  | hostAccess _ _ _ _ => exact roundTrip_of_no_seqs rfl
  | sfuService _ => exact roundTrip_of_no_seqs rfl
  | sfuResult _ => exact roundTrip_of_no_seqs rfl
  | matrixDispatch _ => exact roundTrip_of_no_seqs rfl
  | slabEnd _ => exact roundTrip_of_no_seqs rfl
  | matrixRowWrite _ => exact roundTrip_of_no_seqs rfl
  | matrixPost _ => exact roundTrip_of_no_seqs rfl
  | weightLoadComplete _ => exact roundTrip_of_no_seqs rfl
  | groupFillWait _ => exact roundTrip_of_no_seqs rfl
  | chainPanelArrival _ _ _ => exact roundTrip_of_no_seqs rfl
  | mfaultAbort _ _ => exact roundTrip_of_no_seqs rfl
  | selectService _ => exact roundTrip_of_no_seqs rfl
  | selectPost _ => exact roundTrip_of_no_seqs rfl
  | landingDecrement _ _ _ => exact roundTrip_of_no_seqs rfl
  | brushRead _ _ => exact roundTrip_of_no_seqs rfl
  | brushLoad _ _ => exact roundTrip_of_no_seqs rfl
  | stepBlockStart _ _ => exact roundTrip_of_no_seqs rfl
  | writeBack _ _ => exact roundTrip_of_no_seqs rfl
  | copyComplete _ => exact roundTrip_of_no_seqs rfl
  | remoteAccess _ => exact roundTrip_of_no_seqs rfl
  | permitRequest _ => exact roundTrip_of_no_seqs rfl
  | permitAnswer _ => exact roundTrip_of_no_seqs rfl
  | sendComplete _ => exact roundTrip_of_no_seqs rfl
  | messageDelivery _ => exact roundTrip_of_no_seqs rfl
  | messageStatus _ => exact roundTrip_of_no_seqs rfl
  | folioLoss _ => exact roundTrip_of_no_seqs rfl
  | moduleLoss _ => exact roundTrip_of_no_seqs rfl
  | lossNotice _ _ => exact roundTrip_of_no_seqs rfl
  | barrierArrival _ => exact roundTrip_of_no_seqs rfl
  | barrierWait _ => exact roundTrip_of_no_seqs rfl
  | releaseDelivery _ => exact roundTrip_of_no_seqs rfl
  | barrierWatchdog _ _ _ => exact roundTrip_of_no_seqs rfl
  | barcfg _ _ _ => exact roundTrip_of_no_seqs rfl
  | swapStop _ _ => exact roundTrip_of_no_seqs rfl
  | swapResume _ _ => exact roundTrip_of_no_seqs rfl
  | ctxcfg _ _ => exact roundTrip_of_no_seqs rfl
  | timerFire _ _ => exact roundTrip_of_no_seqs rfl
  | nksig _ _ => exact roundTrip_of_no_seqs rfl
  | loadBalance _ => exact roundTrip_of_no_seqs rfl
  | debugStop _ _ => exact roundTrip_of_no_seqs rfl
  | dctlStop _ _ => exact roundTrip_of_no_seqs rfl
  | dctlResume _ _ => exact roundTrip_of_no_seqs rfl
  | dctlStep _ _ => exact roundTrip_of_no_seqs rfl
  | dctlDrun _ _ => exact roundTrip_of_no_seqs rfl
  | groupStop _ _ => exact roundTrip_of_no_seqs rfl
  | grpres _ _ => exact roundTrip_of_no_seqs rfl
  | histogramBin _ _ => exact roundTrip_of_no_seqs rfl
  | traceSample _ _ => exact roundTrip_of_no_seqs rfl
  | tbase _ _ => exact roundTrip_of_no_seqs rfl
  | tsize _ _ => exact roundTrip_of_no_seqs rfl
  | rplctl _ _ => exact roundTrip_of_no_seqs rfl
  | hostsig _ _ => exact roundTrip_of_no_seqs rfl
  | qctl _ _ _ => exact roundTrip_of_no_seqs rfl
  | qtail _ _ _ => exact roundTrip_of_no_seqs rfl
  | launchRegister _ _ _ => exact roundTrip_of_no_seqs rfl
  | launch _ => exact roundTrip_of_no_seqs rfl
  | launchComplete _ => exact roundTrip_of_no_seqs rfl
  | copy _ => exact roundTrip_of_no_seqs rfl
  | waitmem _ => exact roundTrip_of_no_seqs rfl
  | waitmemPoll _ => exact roundTrip_of_no_seqs rfl
  | signalmem _ => exact roundTrip_of_no_seqs rfl
  | cond _ => exact roundTrip_of_no_seqs rfl
  | loop _ => exact roundTrip_of_no_seqs rfl
  | capstart _ => exact roundTrip_of_no_seqs rfl
  | capstop _ => exact roundTrip_of_no_seqs rfl
  | replayall _ => exact roundTrip_of_no_seqs rfl
  | fence _ => exact roundTrip_of_no_seqs rfl
  | nopPacket _ => exact roundTrip_of_no_seqs rfl
  | partCreate _ => exact roundTrip_of_no_seqs rfl
  | resize _ => exact roundTrip_of_no_seqs rfl
  | ertWrite _ => exact roundTrip_of_no_seqs rfl
  | snapshot _ => exact roundTrip_of_no_seqs rfl
  | tokenBucketRefill _ => exact roundTrip_of_no_seqs rfl
  | bonctlEn _ => exact roundTrip_of_no_seqs rfl
  | bonctlFence => exact roundTrip_of_no_seqs rfl
  | linkTraining _ _ _ => exact roundTrip_of_no_seqs rfl
  | linkFailure => exact roundTrip_of_no_seqs rfl
  | guestCompletion _ _ _ => exact roundTrip_of_no_seqs rfl
  | portRefusal _ => exact roundTrip_of_no_seqs rfl
  | coherentRead _ _ _ => exact roundTrip_of_no_seqs rfl
  | coherentWrite _ _ _ _ => exact roundTrip_of_no_seqs rfl
  | coherentAtomic _ _ _ _ _ _ => exact roundTrip_of_no_seqs rfl
  | translationRequest _ _ => exact roundTrip_of_no_seqs rfl
  | invalidationAck _ => exact roundTrip_of_no_seqs rfl
  | guestFaultRecord _ _ => exact roundTrip_of_no_seqs rfl
  | preemptAck _ _ => exact roundTrip_of_no_seqs rfl
  | guestDeadline _ => exact roundTrip_of_no_seqs rfl
  | fencedCompletion _ => exact roundTrip_of_no_seqs rfl
  | thermalCap _ => exact roundTrip_of_no_seqs rfl
  | thermalCapRelease _ => exact roundTrip_of_no_seqs rfl
  | thermalReset _ => exact roundTrip_of_no_seqs rfl
  | powerMeasurement => exact roundTrip_of_no_seqs rfl
  | moduleReset => exact roundTrip_of_no_seqs rfl
  | attest _ => exact roundTrip_of_no_seqs rfl
  | recoveryControl _ => exact roundTrip_of_no_seqs rfl
  | registerWrite _ _ _ => exact roundTrip_of_no_seqs rfl
  | illegalOnDecode _ => exact roundTrip_of_no_seqs rfl
  | cacheCopyDrop _ _ => exact roundTrip_of_no_seqs rfl
  | turnClassCount _ _ => exact roundTrip_of_no_seqs rfl
  | readyHistogramCount _ => exact roundTrip_of_no_seqs rfl
  | linkPowerState _ => exact roundTrip_of_no_seqs rfl
  | dly n => exact roundTrip_dly n
  | nop => exact roundTrip_none.1
  | waits s a i => exact (roundTrip_4at21_5at16_16at0 s a i)
  | sinc s => exact (roundTrip_4at21 s)
  | sadd s a => exact (roundTrip_4at21_5at16 s a).1
  | sset s a => exact (roundTrip_4at21_5at16 s a).2.1
  | sread d s => exact (roundTrip_5at21_4at16 d s).1
  | spend d s => exact (roundTrip_5at21_4at16 d s).2
  | j x => exact (roundTrip_24at0 x).1
  | jal x => exact (roundTrip_24at0 x).2
  | jr a => exact (roundTrip_5at16 a).1
  | jalr d a => exact (roundTrip_5at21_5at16 d a).1
  | jtab i a l => exact (roundTrip_5at21_5at16_16at0 i a l).1
  | bq h x => exact (roundTrip_2at24_24at0 h x)
  | bpush a q => exact (roundTrip_5at16_2at0 a q)
  | bpushP a q => exact (roundTrip_3at16_2at0 a q)
  | beq a b h x => exact (roundTrip_5at21_5at16_2at14_14at0 a b h x).1
  | bne a b h x => exact (roundTrip_5at21_5at16_2at14_14at0 a b h x).2.1
  | blt a b h x => exact (roundTrip_5at21_5at16_2at14_14at0 a b h x).2.2.1
  | bge a b h x => exact (roundTrip_5at21_5at16_2at14_14at0 a b h x).2.2.2.1
  | bltn a b h x => exact (roundTrip_5at21_5at16_2at14_14at0 a b h x).2.2.2.2.1
  | bgen a b h x => exact (roundTrip_5at21_5at16_2at14_14at0 a b h x).2.2.2.2.2
  | sstop => exact roundTrip_none.2.1
  | sjoin => exact roundTrip_none.2.2.1
  | add d a b => exact (roundTrip_5at21_5at16_5at11 d a b).1
  | sub d a b => exact (roundTrip_5at21_5at16_5at11 d a b).2.1
  | mul d a b => exact (roundTrip_5at21_5at16_5at11 d a b).2.2.1
  | mulh d a b => exact (roundTrip_5at21_5at16_5at11 d a b).2.2.2.1
  | mulhn d a b => exact (roundTrip_5at21_5at16_5at11 d a b).2.2.2.2.1
  | div d a b => exact (roundTrip_5at21_5at16_5at11 d a b).2.2.2.2.2.1
  | divn d a b => exact (roundTrip_5at21_5at16_5at11 d a b).2.2.2.2.2.2.1
  | rem d a b => exact (roundTrip_5at21_5at16_5at11 d a b).2.2.2.2.2.2.2.1
  | remn d a b => exact (roundTrip_5at21_5at16_5at11 d a b).2.2.2.2.2.2.2.2.1
  | and d a b => exact (roundTrip_5at21_5at16_5at11 d a b).2.2.2.2.2.2.2.2.2.1
  | or d a b => exact (roundTrip_5at21_5at16_5at11 d a b).2.2.2.2.2.2.2.2.2.2.1
  | xor d a b => exact (roundTrip_5at21_5at16_5at11 d a b).2.2.2.2.2.2.2.2.2.2.2.1
  | shl d a b => exact (roundTrip_5at21_5at16_5at11 d a b).2.2.2.2.2.2.2.2.2.2.2.2.1
  | shr d a b => exact (roundTrip_5at21_5at16_5at11 d a b).2.2.2.2.2.2.2.2.2.2.2.2.2.1
  | sra d a b => exact (roundTrip_5at21_5at16_5at11 d a b).2.2.2.2.2.2.2.2.2.2.2.2.2.2.1
  | slt d a b => exact (roundTrip_5at21_5at16_5at11 d a b).2.2.2.2.2.2.2.2.2.2.2.2.2.2.2.1
  | sltn d a b => exact (roundTrip_5at21_5at16_5at11 d a b).2.2.2.2.2.2.2.2.2.2.2.2.2.2.2.2.1
  | min d a b => exact (roundTrip_5at21_5at16_5at11 d a b).2.2.2.2.2.2.2.2.2.2.2.2.2.2.2.2.2.1
  | max d a b => exact (roundTrip_5at21_5at16_5at11 d a b).2.2.2.2.2.2.2.2.2.2.2.2.2.2.2.2.2.2.1
  | minn d a b => exact (roundTrip_5at21_5at16_5at11 d a b).2.2.2.2.2.2.2.2.2.2.2.2.2.2.2.2.2.2.2.1
  | maxn d a b => exact (roundTrip_5at21_5at16_5at11 d a b).2.2.2.2.2.2.2.2.2.2.2.2.2.2.2.2.2.2.2.2.1
  | sel d a b => exact (roundTrip_5at21_5at16_5at11 d a b).2.2.2.2.2.2.2.2.2.2.2.2.2.2.2.2.2.2.2.2.2.1
  | clz d a => exact (roundTrip_5at21_5at16 d a).2.1
  | ctz d a => exact (roundTrip_5at21_5at16 d a).2.2.1
  | popc d a => exact (roundTrip_5at21_5at16 d a).2.2.2.1
  | rev d a => exact (roundTrip_5at21_5at16 d a).2.2.2.2.1
  | bswap d a => exact (roundTrip_5at21_5at16 d a).2.2.2.2.2.1
  | sextB d a => exact (roundTrip_5at21_5at16 d a).2.2.2.2.2.2.1
  | sextH d a => exact (roundTrip_5at21_5at16 d a).2.2.2.2.2.2.2.1
  | sextW d a => exact (roundTrip_5at21_5at16 d a).2.2.2.2.2.2.2.2.1
  | zextW d a => exact (roundTrip_5at21_5at16 d a).2.2.2.2.2.2.2.2.2.1
  | addi d a i => exact (roundTrip_5at21_5at16_16at0 d a i).2.1
  | andi d a i => exact (roundTrip_5at21_5at16_16at0 d a i).2.2.1
  | ori d a i => exact (roundTrip_5at21_5at16_16at0 d a i).2.2.2.1
  | xori d a i => exact (roundTrip_5at21_5at16_16at0 d a i).2.2.2.2.1
  | slti d a i => exact (roundTrip_5at21_5at16_16at0 d a i).2.2.2.2.2.1
  | shli d a n => exact (roundTrip_5at21_5at16_6at0 d a n).1
  | shri d a n => exact (roundTrip_5at21_5at16_6at0 d a n).2.1
  | srai d a n => exact (roundTrip_5at21_5at16_6at0 d a n).2.2
  | lih d a i => exact (roundTrip_5at21_5at16_16at0 d a i).2.2.2.2.2.2
  | addpc d i => exact (roundTrip_5at21_16at0 d i)
  | li d k => exact (roundTrip_5at21 d k).1
  | bfx d a l p => exact (roundTrip_5at21_5at16_6at6_6at0 d a l p).1
  | bfxs d a l p => exact (roundTrip_5at21_5at16_6at6_6at0 d a l p).2.1
  | bfi d a l p => exact (roundTrip_5at21_5at16_6at6_6at0 d a l p).2.2
  | bnet d a p => exact (roundTrip_5at21_5at16_3at11 d a p)
  | bnld p a => exact (roundTrip_3at21_5at16 p a).1
  | fadd d a b => exact (roundTrip_5at21_5at16_5at11 d a b).2.2.2.2.2.2.2.2.2.2.2.2.2.2.2.2.2.2.2.2.2.2.1
  | fsub d a b => exact (roundTrip_5at21_5at16_5at11 d a b).2.2.2.2.2.2.2.2.2.2.2.2.2.2.2.2.2.2.2.2.2.2.2.1
  | fmul d a b => exact (roundTrip_5at21_5at16_5at11 d a b).2.2.2.2.2.2.2.2.2.2.2.2.2.2.2.2.2.2.2.2.2.2.2.2.1
  | fmin d a b => exact (roundTrip_5at21_5at16_5at11 d a b).2.2.2.2.2.2.2.2.2.2.2.2.2.2.2.2.2.2.2.2.2.2.2.2.2.1
  | fmax d a b => exact (roundTrip_5at21_5at16_5at11 d a b).2.2.2.2.2.2.2.2.2.2.2.2.2.2.2.2.2.2.2.2.2.2.2.2.2.2.1
  | feq d a b => exact (roundTrip_5at21_5at16_5at11 d a b).2.2.2.2.2.2.2.2.2.2.2.2.2.2.2.2.2.2.2.2.2.2.2.2.2.2.2.1
  | flt d a b => exact (roundTrip_5at21_5at16_5at11 d a b).2.2.2.2.2.2.2.2.2.2.2.2.2.2.2.2.2.2.2.2.2.2.2.2.2.2.2.2.1
  | fle d a b => exact (roundTrip_5at21_5at16_5at11 d a b).2.2.2.2.2.2.2.2.2.2.2.2.2.2.2.2.2.2.2.2.2.2.2.2.2.2.2.2.2.1
  | fcvtIF d a => exact (roundTrip_5at21_5at16 d a).2.2.2.2.2.2.2.2.2.2.1
  | fcvtFI d a => exact (roundTrip_5at21_5at16 d a).2.2.2.2.2.2.2.2.2.2.2.1
  | fmadd d a b => exact (roundTrip_5at21_5at16_5at11 d a b).2.2.2.2.2.2.2.2.2.2.2.2.2.2.2.2.2.2.2.2.2.2.2.2.2.2.2.2.2.2
  | csrr d c => exact (roundTrip_5at21_12at0 d c)
  | csrw a c => exact (roundTrip_5at16_12at0 a c).1
  | csrs a c => exact (roundTrip_5at16_12at0 a c).2.1
  | csrc a c => exact (roundTrip_5at16_12at0 a c).2.2.1
  | ecall => exact roundTrip_none.2.2.2.1
  | ebreak => exact roundTrip_none.2.2.2.2.1
  | tret => exact roundTrip_none.2.2.2.2.2.1
  | wfm => exact roundTrip_none.2.2.2.2.2.2.1
  | halt => exact roundTrip_none.2.2.2.2.2.2.2.1
  | fenceI => exact roundTrip_none.2.2.2.2.2.2.2.2.1
  | ctxsw a => exact (roundTrip_5at16 a).2.1
  | ctxst a b => exact (roundTrip_5at16_5at11 a b).1
  | ctxld a b => exact (roundTrip_5at16_5at11 a b).2.1
  | rqpush a b => exact (roundTrip_5at16_5at11 a b).2.2.1
  | rqpop d => exact (roundTrip_5at21 d 0).2.1
  | rqpark a => exact (roundTrip_5at16 a).2.2.1
  | rqstate d a => exact (roundTrip_5at21_5at16 d a).2.2.2.2.2.2.2.2.2.2.2.2.1
  | tmset a b => exact (roundTrip_5at16_5at11 a b).2.2.2.1
  | wlock a b => exact (roundTrip_5at16_5at11 a b).2.2.2.2
  | wunlock a => exact (roundTrip_5at16 a).2.2.2.1
  | msg d a b s => exact (roundTrip_5at21_5at16_5at11_4at0 d a b s)
  | mcfg f k => exact (roundTrip_12at0 f k)
  | mcfgr a f => exact (roundTrip_5at16_12at0 a f).2.2.2
  | mfmt a => exact (roundTrip_5at16 a).2.2.2.2.1
  | mgo s w c => exact (roundTrip_4at21_2at2_2at0 s w c)
  | mgrp s a b => exact (roundTrip_4at21_5at16_5at11 s a b).1
  | mwld s a b k => exact (roundTrip_4at21_5at16_5at11_1at0 s a b k)
  | mzero a => exact (roundTrip_5at16 a).2.2.2.2.2.1
  | mrd s a b => exact (roundTrip_4at21_5at16_5at11 s a b).2.1
  | mresume => exact roundTrip_none.2.2.2.2.2.2.2.2.2.1
  | mstat d => exact (roundTrip_5at21 d 0).2.2.1
  | cpy s a => exact (roundTrip_4at21_5at16 s a).2.2.1
  | cpyTopk s a => exact (roundTrip_4at21_5at16 s a).2.2.2.1
  | cpyPack s a => exact (roundTrip_4at21_5at16 s a).2.2.2.2.1
  | xperm s a b => exact (roundTrip_4at21_5at16_5at11 s a b).2.2.1
  | xsend s a b => exact (roundTrip_4at21_5at16_5at11 s a b).2.2.2.1
  | xrcfg a => exact (roundTrip_5at16 a).2.2.2.2.2.2.1
  | xrpop d a => exact (roundTrip_5at21_5at16 d a).2.2.2.2.2.2.2.2.2.2.2.2.2.1
  | xrstat d => exact (roundTrip_5at21 d 0).2.2.2.1
  | barArr a => exact (roundTrip_5at16 a).2.2.2.2.2.2.2.1
  | barWait s a => exact (roundTrip_4at21_5at16 s a).2.2.2.2.2.1
  | barSync s a => exact (roundTrip_4at21_5at16 s a).2.2.2.2.2.2.1
  | xsum s a b => exact (roundTrip_4at21_5at16_5at11 s a b).2.2.2.2
  | selr s a => exact (roundTrip_4at21_5at16 s a).2.2.2.2.2.2.2.1
  | selc s a => exact (roundTrip_4at21_5at16 s a).2.2.2.2.2.2.2.2.1
  | sdecl t a => exact (roundTrip_3at21_5at16 t a).2.1
  | sweep t s => exact (roundTrip_3at21_4at11 t s)
  | swake t a => exact (roundTrip_3at21_5at16 t a).2.2
  | sstat d t => exact (roundTrip_5at21_3at16 d t).1
  | rpush l => exact (roundTrip_16at0 l).1
  | rpop l => exact (roundTrip_16at0 l).2.1
  | mark l => exact (roundTrip_16at0 l).2.2.1
  | gsub s a => exact (roundTrip_4at21_5at16 s a).2.2.2.2.2.2.2.2.2.1
  | mmod i a b => exact (roundTrip_3at21_5at16_5at11 i a b)
  | ldB d a m s i => exact (roundTrip_5at21_5at16_2at14_4at10_10at0 d a m s i).1
  | ldH d a m s i => exact (roundTrip_5at21_5at16_2at14_4at10_10at0 d a m s i).2.1
  | ldW d a m s i => exact (roundTrip_5at21_5at16_2at14_4at10_10at0 d a m s i).2.2.1
  | ldD d a m s i => exact (roundTrip_5at21_5at16_2at14_4at10_10at0 d a m s i).2.2.2.1
  | ldBn d a m s i => exact (roundTrip_5at21_5at16_2at14_4at10_10at0 d a m s i).2.2.2.2.1
  | ldHn d a m s i => exact (roundTrip_5at21_5at16_2at14_4at10_10at0 d a m s i).2.2.2.2.2.1
  | ldWn d a m s i => exact (roundTrip_5at21_5at16_2at14_4at10_10at0 d a m s i).2.2.2.2.2.2.1
  | ldV d a m s i => exact (roundTrip_5at21_5at16_2at14_4at10_10at0 d a m s i).2.2.2.2.2.2.2.1
  | ldQ a m s i => exact (roundTrip_5at16_2at14_4at10_10at0 a m s i).1
  | ldgV d a b p e s => exact (roundTrip_5at21_5at16_5at11_3at6_2at4_4at0 d a b p e s).1
  | ldgQ a b p e s => exact (roundTrip_5at16_5at11_3at6_2at4_4at0 a b p e s).1
  | ldfe d a m s i => exact (roundTrip_5at21_5at16_2at14_4at10_10at0 d a m s i).2.2.2.2.2.2.2.2.1
  | ldff d a m s i => exact (roundTrip_5at21_5at16_2at14_4at10_10at0 d a m s i).2.2.2.2.2.2.2.2.2.1
  | amoAdd d a b s z => exact (roundTrip_5at21_5at16_5at11_4at5_1at4 d a b s z).1
  | amoAnd d a b s z => exact (roundTrip_5at21_5at16_5at11_4at5_1at4 d a b s z).2.1
  | amoOr d a b s z => exact (roundTrip_5at21_5at16_5at11_4at5_1at4 d a b s z).2.2.1
  | amoXor d a b s z => exact (roundTrip_5at21_5at16_5at11_4at5_1at4 d a b s z).2.2.2.1
  | amoMin d a b s z => exact (roundTrip_5at21_5at16_5at11_4at5_1at4 d a b s z).2.2.2.2.1
  | amoMax d a b s z => exact (roundTrip_5at21_5at16_5at11_4at5_1at4 d a b s z).2.2.2.2.2.1
  | amoMinn d a b s z => exact (roundTrip_5at21_5at16_5at11_4at5_1at4 d a b s z).2.2.2.2.2.2.1
  | amoMaxn d a b s z => exact (roundTrip_5at21_5at16_5at11_4at5_1at4 d a b s z).2.2.2.2.2.2.2.1
  | amoSwap d a b s z => exact (roundTrip_5at21_5at16_5at11_4at5_1at4 d a b s z).2.2.2.2.2.2.2.2.1
  | amoCas d a b s z => exact (roundTrip_5at21_5at16_5at11_4at5_1at4 d a b s z).2.2.2.2.2.2.2.2.2
  | amoFadd d a b s => exact (roundTrip_5at21_5at16_5at11_4at5 d a b s)
  | ldblk d a s l => exact (roundTrip_5at21_5at16_4at6_6at0 d a s l)
  | bfree a => exact (roundTrip_5at16 a).2.2.2.2.2.2.2.2.1
  | bstat d a => exact (roundTrip_5at21_5at16 d a).2.2.2.2.2.2.2.2.2.2.2.2.2.2.1
  | bdrain s a => exact (roundTrip_4at21_5at16 s a).2.2.2.2.2.2.2.2.2.2.1
  | stB d a m s i => exact (roundTrip_5at21_5at16_2at14_4at10_10at0 d a m s i).2.2.2.2.2.2.2.2.2.2.1
  | stH d a m s i => exact (roundTrip_5at21_5at16_2at14_4at10_10at0 d a m s i).2.2.2.2.2.2.2.2.2.2.2.1
  | stW d a m s i => exact (roundTrip_5at21_5at16_2at14_4at10_10at0 d a m s i).2.2.2.2.2.2.2.2.2.2.2.2.1
  | stD d a m s i => exact (roundTrip_5at21_5at16_2at14_4at10_10at0 d a m s i).2.2.2.2.2.2.2.2.2.2.2.2.2.1
  | stV d a m s i => exact (roundTrip_5at21_5at16_2at14_4at10_10at0 d a m s i).2.2.2.2.2.2.2.2.2.2.2.2.2.2.1
  | stQ a m s i => exact (roundTrip_5at16_2at14_4at10_10at0 a m s i).2
  | stsV d a b p e s => exact (roundTrip_5at21_5at16_5at11_3at6_2at4_4at0 d a b p e s).2
  | stsQ a b p e s => exact (roundTrip_5at16_5at11_3at6_2at4_4at0 a b p e s).2
  | stfe d a m s i => exact (roundTrip_5at21_5at16_2at14_4at10_10at0 d a m s i).2.2.2.2.2.2.2.2.2.2.2.2.2.2.2.1
  | stff d a m s i => exact (roundTrip_5at21_5at16_2at14_4at10_10at0 d a m s i).2.2.2.2.2.2.2.2.2.2.2.2.2.2.2.2
  | pub s a => exact (roundTrip_4at21_5at16 s a).2.2.2.2.2.2.2.2.2.2.2
  | vadd d a b p y => exact (roundTrip_5at21_5at16_5at11_3at8_3at4 d a b p y).1
  | vsub d a b p y => exact (roundTrip_5at21_5at16_5at11_3at8_3at4 d a b p y).2.1
  | vmul d a b p y => exact (roundTrip_5at21_5at16_5at11_3at8_3at4 d a b p y).2.2.1
  | vmulh d a b p y => exact (roundTrip_5at21_5at16_5at11_3at8_3at4 d a b p y).2.2.2.1
  | vand d a b p y => exact (roundTrip_5at21_5at16_5at11_3at8_3at4 d a b p y).2.2.2.2.1
  | vor d a b p y => exact (roundTrip_5at21_5at16_5at11_3at8_3at4 d a b p y).2.2.2.2.2.1
  | vxor d a b p y => exact (roundTrip_5at21_5at16_5at11_3at8_3at4 d a b p y).2.2.2.2.2.2.1
  | vshl d a b p y => exact (roundTrip_5at21_5at16_5at11_3at8_3at4 d a b p y).2.2.2.2.2.2.2.1
  | vshr d a b p y => exact (roundTrip_5at21_5at16_5at11_3at8_3at4 d a b p y).2.2.2.2.2.2.2.2.1
  | vsra d a b p y => exact (roundTrip_5at21_5at16_5at11_3at8_3at4 d a b p y).2.2.2.2.2.2.2.2.2.1
  | vmin d a b p y => exact (roundTrip_5at21_5at16_5at11_3at8_3at4 d a b p y).2.2.2.2.2.2.2.2.2.2.1
  | vmax d a b p y => exact (roundTrip_5at21_5at16_5at11_3at8_3at4 d a b p y).2.2.2.2.2.2.2.2.2.2.2.1
  | vabs d a p y => exact (roundTrip_5at21_5at16_3at8_3at4 d a p y).1
  | vneg d a p y => exact (roundTrip_5at21_5at16_3at8_3at4 d a p y).2.1
  | vadds d a b p y => exact (roundTrip_5at21_5at16_5at11_3at8_3at4 d a b p y).2.2.2.2.2.2.2.2.2.2.2.2.1
  | vsubs d a b p y => exact (roundTrip_5at21_5at16_5at11_3at8_3at4 d a b p y).2.2.2.2.2.2.2.2.2.2.2.2.2
  | vmov d a p y => exact (roundTrip_5at21_5at16_3at8_4at4 d a p y).1
  | vsel d a b p y => exact (roundTrip_5at21_5at16_5at11_3at8_4at4 d a b p y).1
  | vshuf d a b p y => exact (roundTrip_5at21_5at16_5at11_3at8_4at4 d a b p y).2.1
  | vslide d a b p y => exact (roundTrip_5at21_5at16_5at11_3at8_4at4 d a b p y).2.2.1
  | vzip d a b p y => exact (roundTrip_5at21_5at16_5at11_3at8_4at4 d a b p y).2.2.2.1
  | vunzip d a b p y => exact (roundTrip_5at21_5at16_5at11_3at8_4at4 d a b p y).2.2.2.2
  | vidx d a p y => exact (roundTrip_5at21_5at16_3at8_3at4 d a p y).2.2.1
  | vbcast d a p y => exact (roundTrip_5at21_5at16_3at8_4at4 d a p y).2.1
  | vext d a b y => exact (roundTrip_5at21_5at16_5at11_4at4 d a b y).1
  | vins d a b y => exact (roundTrip_5at21_5at16_5at11_4at4 d a b y).2
  | vnot d a p y => exact (roundTrip_5at21_5at16_3at8_4at4 d a p y).2.2
  | vclz d a p y => exact (roundTrip_5at21_5at16_3at8_3at4 d a p y).2.2.2.1
  | vpopc d a p y => exact (roundTrip_5at21_5at16_3at8_3at4 d a p y).2.2.2.2.1
  | vcmpEq d a b p y => exact (roundTrip_3at21_5at16_5at11_3at8_3at4 d a b p y).1
  | vcmpNe d a b p y => exact (roundTrip_3at21_5at16_5at11_3at8_3at4 d a b p y).2.1
  | vcmpLt d a b p y => exact (roundTrip_3at21_5at16_5at11_3at8_3at4 d a b p y).2.2.1
  | vcmpLe d a b p y => exact (roundTrip_3at21_5at16_5at11_3at8_3at4 d a b p y).2.2.2.1
  | vcmpGt d a b p y => exact (roundTrip_3at21_5at16_5at11_3at8_3at4 d a b p y).2.2.2.2.1
  | vcmpGe d a b p y => exact (roundTrip_3at21_5at16_5at11_3at8_3at4 d a b p y).2.2.2.2.2
  | vfadd d a b p y => exact (roundTrip_5at21_5at16_5at11_3at8_1at4 d a b p y).1
  | vfsub d a b p y => exact (roundTrip_5at21_5at16_5at11_3at8_1at4 d a b p y).2.1
  | vfmul d a b p y => exact (roundTrip_5at21_5at16_5at11_3at8_1at4 d a b p y).2.2.1
  | vfmin d a b p y => exact (roundTrip_5at21_5at16_5at11_3at8_1at4 d a b p y).2.2.2.1
  | vfmax d a b p y => exact (roundTrip_5at21_5at16_5at11_3at8_1at4 d a b p y).2.2.2.2.1
  | vfabs d a p y => exact (roundTrip_5at21_5at16_3at8_1at4 d a p y).1
  | vfneg d a p y => exact (roundTrip_5at21_5at16_3at8_1at4 d a p y).2.1
  | vfeq d a b p y => exact (roundTrip_3at21_5at16_5at11_3at8_1at4 d a b p y).1
  | vflt d a b p y => exact (roundTrip_3at21_5at16_5at11_3at8_1at4 d a b p y).2.1
  | vfle d a b p y => exact (roundTrip_3at21_5at16_5at11_3at8_1at4 d a b p y).2.2
  | vfma d a b p y => exact (roundTrip_5at21_5at16_5at11_3at8_1at4 d a b p y).2.2.2.2.2.1
  | vfms d a b p y => exact (roundTrip_5at21_5at16_5at11_3at8_1at4 d a b p y).2.2.2.2.2.2.1
  | vfnma d a b p y => exact (roundTrip_5at21_5at16_5at11_3at8_1at4 d a b p y).2.2.2.2.2.2.2.1
  | vfnms d a b p y => exact (roundTrip_5at21_5at16_5at11_3at8_1at4 d a b p y).2.2.2.2.2.2.2.2
  | vcvt d a p y x => exact (roundTrip_5at21_5at16_3at8_4at4_4at0 d a p y x)
  | vpackBfp d a w p => exact (roundTrip_5at21_5at16_5at11_3at8 d a w p).1
  | vunpackBfp d a w p => exact (roundTrip_5at21_5at16_5at11_3at8 d a w p).2
  | vredsum d a p y => exact (roundTrip_5at21_5at16_3at8_3at4 d a p y).2.2.2.2.2.1
  | vfredsum d a p y => exact (roundTrip_5at21_5at16_3at8_1at4 d a p y).2.2.1
  | vredmax d a p y => exact (roundTrip_5at21_5at16_3at8_3at4 d a p y).2.2.2.2.2.2.1
  | vredmin d a p y => exact (roundTrip_5at21_5at16_3at8_3at4 d a p y).2.2.2.2.2.2.2.1
  | vfredmax d a p y => exact (roundTrip_5at21_5at16_3at8_1at4 d a p y).2.2.2.1
  | vfredmin d a p y => exact (roundTrip_5at21_5at16_3at8_1at4 d a p y).2.2.2.2
  | vredand d a p y => exact (roundTrip_5at21_5at16_3at8_3at4 d a p y).2.2.2.2.2.2.2.2.1
  | vredor d a p y => exact (roundTrip_5at21_5at16_3at8_3at4 d a p y).2.2.2.2.2.2.2.2.2
  | pand d a b => exact (roundTrip_3at21_3at16_3at11 d a b).1
  | por d a b => exact (roundTrip_3at21_3at16_3at11 d a b).2.1
  | pxor d a b => exact (roundTrip_3at21_3at16_3at11 d a b).2.2
  | pnot d a => exact (roundTrip_3at21_3at16 d a)
  | pset d => exact (roundTrip_3at21 d).1
  | pclr d => exact (roundTrip_3at21 d).2
  | pcount d a => exact (roundTrip_5at21_3at16 d a).2.1
  | pfirst d a => exact (roundTrip_5at21_3at16 d a).2.2
  | vwhile d i n y => exact (roundTrip_3at21_5at16_5at11_4at0 d i n y)
  | vwidth d => exact (roundTrip_5at21 d 0).2.2.2.2.1
  | sploop x => exact (roundTrip_16at0 x).2.2.2
  | vrot n => exact (roundTrip_4at0 n)
  | vexp2 d a s p => exact (roundTrip_5at21_5at16_4at11_3at8 d a s p).1
  | vlog2 d a s p => exact (roundTrip_5at21_5at16_4at11_3at8 d a s p).2.1
  | vrcp d a s p => exact (roundTrip_5at21_5at16_4at11_3at8 d a s p).2.2.1
  | vrsqrt d a s p => exact (roundTrip_5at21_5at16_4at11_3at8 d a s p).2.2.2
  | vrand d p => exact (roundTrip_5at21_3at8 d p)
  | vpop d => exact (roundTrip_5at21 d 0).2.2.2.2.2
  | vpush a => exact (roundTrip_5at16 a).2.2.2.2.2.2.2.2.2
  | vtopk d a l k p y => exact (roundTrip_5at21_5at16_2at14_3at11_3at8_4at4 d a l k p y)
  | vbinpos d a p y => exact (roundTrip_5at21_5at16_3at8_2at4 d a p y)
  | vbinclr => exact roundTrip_none.2.2.2.2.2.2.2.2.2.2
  | vbinrd d a => exact (roundTrip_5at21_5at16 d a).2.2.2.2.2.2.2.2.2.2.2.2.2.2.2
  | vsortkv d a l p y => exact (roundTrip_5at21_5at16_3at11_3at8_1at4 d a l p y)
  | vaddi d a p y i => exact (roundTrip_5at21_5at16_3at13_3at9_9at0 d a p y i).1
  | vshli d a p y i => exact (roundTrip_5at21_5at16_3at13_3at9_9at0 d a p y i).2.1
  | vshri d a p y i => exact (roundTrip_5at21_5at16_3at13_3at9_9at0 d a p y i).2.2.1
  | vsrai d a p y i => exact (roundTrip_5at21_5at16_3at13_3at9_9at0 d a p y i).2.2.2
  | vli d p y i => exact (roundTrip_5at21_3at13_3at9_9at0 d p y i)
  | bpAny a h x => exact (roundTrip_3at21_2at14_14at0 a h x).1
  | bpNone a h x => exact (roundTrip_3at21_2at14_14at0 a h x).2.1
  | bpAll a h x => exact (roundTrip_3at21_2at14_14at0 a h x).2.2

/-- Settles O2: each word is fixed bits with fields placed in them, so the stretches that the decoder reads give its row and its
operands. -/
theorem decodeInvertsEncode : Obligations.DecodeInvertsEncode := fun q i h => roundTrip_all i q h

end Sys2Proof
end

section
/-! SUPPORT. Words that decode (02_lines.md R41, R42, R47): each row of the decoder is that of one word. -/

namespace Sys2Proof

/-! ## Words that decode (R41, R42, R47) -/

/-- The row `o` that sequencer `q` has found for the word `w`, if it is one, has `w` as the word of its instruction, and that
instruction stands in the opcode space of `q`. -/
def Exact (q : Seq) (w : BitVec 32) (o : Option Row) : Prop :=
  ∀ r, o = some r → ∀ k, encode (r.build w k) = w ∧ (r.build w k).seqs.contains q = true

/-- The values are those that the word holds at the spots. -/
def Held (w : BitVec 32) : List (Nat × Nat) → List Nat → Prop
  | p :: ps, v :: vs => v = fld w p.1 p.2 ∧ Held w ps vs
  | ps, vs => ps = [] ∧ vs = []

/-- The word holds at each stretch, given by its lowest bit and its width, the value beside them. -/
def Holds (w : BitVec 32) : List (Nat × Nat × Nat) → Prop
  | [] => True
  | g :: gs => fld w g.1 g.2.1 = g.2.2 ∧ Holds w gs

/-- The spots and the stretches cover a word, and the stretches lie apart from the spots and agree with the fixed bits. -/
def covers (n : Nat) (ps : List (Nat × Nat)) (gs : List (Nat × Nat × Nat)) : Bool :=
  spotsApart n ps && ps.all (fun p => decide (p.1 + p.2 ≤ 32)) &&
  gs.all (fun g => decide (g.1 + g.2.1 ≤ 32) && ps.all (apart · (g.1, g.2.1)) && n / 2 ^ g.1 % 2 ^ g.2.1 == g.2.2) &&
  (List.range 32).all (fun i => ps.any (fun p => decide (p.1 ≤ i) && decide (i < p.1 + p.2)) ||
    gs.any (fun g => decide (g.1 ≤ i) && decide (i < g.1 + g.2.1)))

theorem toNat_extractLsb'_eq_fld (w : BitVec 32) (lo k : Nat) : (w.extractLsb' lo k).toNat = fld w lo k := by
  rw [BitVec.extractLsb'_toNat, Nat.shiftRight_eq_div_pow, fld]

section
variable {q : Seq} {w : BitVec 32} {ps : List (Nat × Nat)} {vs : List Nat}

theorem Held.fits (h : Held w ps vs) : Fits ps vs := by
  induction ps generalizing vs with
  | nil => cases vs <;> exact h
  | cons p ps ih =>
    cases vs with
    | nil => exact h
    | cons v vs => exact ⟨h.1 ▸ Nat.mod_lt _ (Nat.two_pow_pos _), ih h.2⟩

theorem Held.getElem? (h : Held w ps vs) (i : Nat) {p : Nat × Nat} (hp : ps[i]? = some p) : vs[i]? = some (fld w p.1 p.2) := by
  induction ps generalizing vs i with
  | nil => simp at hp
  | cons x ps ih =>
    cases vs with
    | nil => cases h.1
    | cons v vs =>
      cases i with
      | zero => obtain rfl : x = p := Option.some.inj hp; exact congrArg some h.1
      | succ i => exact ih h.2 i hp

theorem Holds.of_mem {gs : List (Nat × Nat × Nat)} (h : Holds w gs) {g : Nat × Nat × Nat} (m : g ∈ gs) : fld w g.1 g.2.1 = g.2.2 := by
  induction gs with
  | nil => cases m
  | cons x gs ih =>
    cases m with
    | head => exact h.1
    | tail _ m => exact ih h.2 m

/-- Two words with the same value in a stretch have the same bits there. -/
theorem getLsbD_eq_of_stretch {x y : BitVec 32} {lo k i : Nat} (l : lo ≤ i) (u : i < lo + k)
    (h : x.toNat / 2 ^ lo % 2 ^ k = y.toNat / 2 ^ lo % 2 ^ k) : x.getLsbD i = y.getLsbD i := by
  have bit := congrArg (Nat.testBit · (i - lo)) h
  simpa only [Nat.testBit_mod_two_pow, Nat.testBit_div_two_pow, decide_eq_true (show i - lo < k by omega), Bool.true_and,
    show i - lo + lo = i by omega, BitVec.testBit_toNat] using bit

/-- A word is put together again from the values at its spots and the fixed bits that it holds elsewhere. -/
theorem place_held {n : Nat} {gs : List (Nat × Nat × Nat)} (c : covers n ps gs = true) (held : Held w ps vs) (holds : Holds w gs) :
    BitVec.ofNat 32 (place n ps vs) = w := by
  simp only [covers, Bool.and_eq_true, List.all_eq_true, Bool.or_eq_true, List.any_eq_true, decide_eq_true_eq, beq_iff_eq,
    List.mem_range] at c
  obtain ⟨⟨⟨spots, inside⟩, gaps⟩, all⟩ := c
  have e : Encoded (BitVec.ofNat 32 (place n ps vs)) n ps vs := ⟨rfl, spots, held.fits⟩
  refine BitVec.eq_of_getLsbD_eq fun i hi => ?_
  rcases all i hi with ⟨p, hp, l, u⟩ | ⟨g, hg, l, u⟩
  · obtain ⟨j, hj⟩ := List.mem_iff_getElem?.mp hp
    exact getLsbD_eq_of_stretch l u
      ((e.stretch (inside p hp)).trans (place_field (q := p) spots held.fits j hj (held.getElem? j hj)))
  · obtain ⟨⟨hl, ha⟩, hv⟩ := gaps g hg
    exact getLsbD_eq_of_stretch l u ((e.stretch hl).trans
      ((place_fixed (q := (g.1, g.2.1)) spots held.fits (List.all_eq_true.mpr ha)).trans (hv.trans (holds.of_mem hg).symm)))

theorem exact_none : Exact q w none := fun _ h => nomatch h

theorem exact_ite {c : Prop} [Decidable c] {o : Option Row} (h : c → Exact q w o) : Exact q w (if c then o else none) := by
  split
  · next hc => exact h hc
  · exact exact_none

/-- A row whose operands and fixed bits make up the whole word. -/
theorem exact_some {r : Row} (n : Nat) (ps : List (Nat × Nat)) (vs : List Nat) (gs : List (Nat × Nat × Nat))
    (mem : ∀ k, (r.build w k).seqs.contains q = true) (e : ∀ k, encode (r.build w k) = BitVec.ofNat 32 (place n ps vs))
    (c : covers n ps gs = true) (held : Held w ps vs) (holds : Holds w gs) : Exact q w (some r) := by
  rintro _ ⟨⟩ k
  exact ⟨(e k).trans (place_held c held holds), mem k⟩

theorem exact_decSAXW01 (hq : [Seq.s, .a, .x, .w].contains q = true) (major : fld w 26 6 = 1) : Exact q w (decSAXW01 w) := by
  unfold decSAXW01
  refine exact_ite fun high => ?_
  split
  · next count =>
    exact exact_some 0x04000000 [] [] [(26, 6, 1), (16, 10, 0), (0, 16, 0)]
        (fun _ => hq) (fun _ => rfl) (by decide) ⟨rfl, rfl⟩ ⟨major, high, count, trivial⟩
  · exact exact_some 0x04000000 [(0, 16)] [(w.extractLsb' 0 16).toNat] [(26, 6, 1), (16, 10, 0)]
        (fun _ => hq) (fun _ => rfl) (by decide) ⟨toNat_extractLsb'_eq_fld .., rfl, rfl⟩ ⟨major, high, trivial⟩

theorem exact_decSAXW02 (hq : [Seq.s, .a, .x, .w].contains q = true) (major : fld w 26 6 = 2) : Exact q w (decSAXW02 w) := by
  unfold decSAXW02
  exact exact_ite fun fixed => exact_some 0x08000000 [(21, 4), (16, 5), (0, 16)] [fin4 w 21, fin5 w 16, (w.extractLsb' 0 16).toNat] [(26, 6, 2), (25, 1, 0)]
      (fun _ => hq) (fun _ => rfl) (by decide) ⟨rfl, rfl, toNat_extractLsb'_eq_fld .., rfl, rfl⟩ ⟨major, fixed, trivial⟩

theorem exact_decSAXW03 (hq : [Seq.s, .a, .x, .w].contains q = true) (major : fld w 26 6 = 3) : Exact q w (decSAXW03 w) := by
  unfold decSAXW03
  split
  · next code =>
    exact exact_ite fun fixed => exact_some 0x0C000000 [(21, 4)] [fin4 w 21] [(26, 6, 3), (0, 11, 0), (25, 1, 0), (11, 10, 0)]
      (fun _ => hq) (fun _ => rfl) (by decide) ⟨rfl, rfl, rfl⟩ ⟨major, code, fixed.1, fixed.2, trivial⟩
  · next code =>
    exact exact_ite fun fixed => exact_some 0x0C000001 [(21, 4), (16, 5)] [fin4 w 21, fin5 w 16] [(26, 6, 3), (0, 11, 1), (25, 1, 0), (11, 5, 0)]
      (fun _ => hq) (fun _ => rfl) (by decide) ⟨rfl, rfl, rfl, rfl⟩ ⟨major, code, fixed.1, fixed.2, trivial⟩
  · next code =>
    exact exact_ite fun fixed => exact_some 0x0C000002 [(21, 4), (16, 5)] [fin4 w 21, fin5 w 16] [(26, 6, 3), (0, 11, 2), (25, 1, 0), (11, 5, 0)]
      (fun _ => hq) (fun _ => rfl) (by decide) ⟨rfl, rfl, rfl, rfl⟩ ⟨major, code, fixed.1, fixed.2, trivial⟩
  · next code =>
    exact exact_ite fun fixed => exact_some 0x0C000003 [(21, 5), (16, 4)] [fin5 w 21, fin4 w 16] [(26, 6, 3), (0, 11, 3), (20, 1, 0), (11, 5, 0)]
      (fun _ => hq) (fun _ => rfl) (by decide) ⟨rfl, rfl, rfl, rfl⟩ ⟨major, code, fixed.1, fixed.2, trivial⟩
  · next code =>
    exact exact_ite fun fixed => exact_some 0x0C000004 [(21, 5), (16, 4)] [fin5 w 21, fin4 w 16] [(26, 6, 3), (0, 11, 4), (20, 1, 0), (11, 5, 0)]
      (fun _ => hq) (fun _ => rfl) (by decide) ⟨rfl, rfl, rfl, rfl⟩ ⟨major, code, fixed.1, fixed.2, trivial⟩
  · exact exact_none

theorem exact_decSAXW04 (hq : [Seq.s, .a, .x, .w].contains q = true) (major : fld w 26 6 = 4) : Exact q w (decSAXW04 w) := by
  unfold decSAXW04
  split
  · next code =>
    exact exact_some 0x10000000 [(0, 24)] [(w.extractLsb' 0 24).toNat] [(26, 6, 4), (24, 2, 0)]
      (fun _ => hq) (fun _ => rfl) (by decide) ⟨toNat_extractLsb'_eq_fld .., rfl, rfl⟩ ⟨major, code, trivial⟩
  · next code =>
    exact exact_some 0x11000000 [(0, 24)] [(w.extractLsb' 0 24).toNat] [(26, 6, 4), (24, 2, 1)]
      (fun _ => hq) (fun _ => rfl) (by decide) ⟨toNat_extractLsb'_eq_fld .., rfl, rfl⟩ ⟨major, code, trivial⟩
  · exact exact_none

theorem exact_decSAXW05 (hq : [Seq.s, .a, .x, .w].contains q = true) (major : fld w 26 6 = 5) : Exact q w (decSAXW05 w) := by
  unfold decSAXW05
  split
  · next code =>
    exact exact_ite fun fixed => exact_some 0x14000000 [(16, 5)] [fin5 w 16] [(26, 6, 5), (0, 11, 0), (21, 5, 0), (11, 5, 0)]
      (fun _ => hq) (fun _ => rfl) (by decide) ⟨rfl, rfl, rfl⟩ ⟨major, code, fixed.1, fixed.2, trivial⟩
  · next code =>
    exact exact_ite fun fixed => exact_some 0x14000001 [(21, 5), (16, 5)] [fin5 w 21, fin5 w 16] [(26, 6, 5), (0, 11, 1), (11, 5, 0)]
      (fun _ => hq) (fun _ => rfl) (by decide) ⟨rfl, rfl, rfl, rfl⟩ ⟨major, code, fixed, trivial⟩
  · exact exact_none

theorem exact_decSAW08 (hq : [Seq.s, .a, .x, .w].contains q = true) (major : fld w 26 6 = 8) : Exact q w (decSAW08 w) := by
  unfold decSAW08
  exact exact_ite fun fixed => exact_some 0x20000000 [(16, 5), (0, 2)] [fin5 w 16, fin2 w 0] [(26, 6, 8), (21, 5, 0), (2, 14, 0)]
      (fun _ => hq) (fun _ => rfl) (by decide) ⟨rfl, rfl, rfl, rfl⟩ ⟨major, fixed.1, fixed.2, trivial⟩

theorem exact_decS0F (major : fld w 26 6 = 15) : Exact .s w (decS0F w) := by
  unfold decS0F
  exact exact_ite fun fixed => exact_some 0x3C000000 [] [] [(26, 6, 15), (0, 26, 0)]
      (fun _ => rfl) (fun _ => rfl) (by decide) ⟨rfl, rfl⟩ ⟨major, fixed, trivial⟩

theorem exact_decS10 (major : fld w 26 6 = 16) : Exact .s w (decS10 w) := by
  unfold decS10
  split
  · next code =>
    exact exact_some 0x40000000 [(21, 5), (16, 5), (11, 5)] [fin5 w 21, fin5 w 16, fin5 w 11] [(26, 6, 16), (0, 11, 0)]
      (fun _ => rfl) (fun _ => rfl) (by decide) ⟨rfl, rfl, rfl, rfl, rfl⟩ ⟨major, code, trivial⟩
  · next code =>
    exact exact_some 0x40000001 [(21, 5), (16, 5), (11, 5)] [fin5 w 21, fin5 w 16, fin5 w 11] [(26, 6, 16), (0, 11, 1)]
      (fun _ => rfl) (fun _ => rfl) (by decide) ⟨rfl, rfl, rfl, rfl, rfl⟩ ⟨major, code, trivial⟩
  · next code =>
    exact exact_some 0x40000002 [(21, 5), (16, 5), (11, 5)] [fin5 w 21, fin5 w 16, fin5 w 11] [(26, 6, 16), (0, 11, 2)]
      (fun _ => rfl) (fun _ => rfl) (by decide) ⟨rfl, rfl, rfl, rfl, rfl⟩ ⟨major, code, trivial⟩
  · next code =>
    exact exact_some 0x40000003 [(21, 5), (16, 5), (11, 5)] [fin5 w 21, fin5 w 16, fin5 w 11] [(26, 6, 16), (0, 11, 3)]
      (fun _ => rfl) (fun _ => rfl) (by decide) ⟨rfl, rfl, rfl, rfl, rfl⟩ ⟨major, code, trivial⟩
  · next code =>
    exact exact_some 0x40000004 [(21, 5), (16, 5), (11, 5)] [fin5 w 21, fin5 w 16, fin5 w 11] [(26, 6, 16), (0, 11, 4)]
      (fun _ => rfl) (fun _ => rfl) (by decide) ⟨rfl, rfl, rfl, rfl, rfl⟩ ⟨major, code, trivial⟩
  · next code =>
    exact exact_some 0x40000005 [(21, 5), (16, 5), (11, 5)] [fin5 w 21, fin5 w 16, fin5 w 11] [(26, 6, 16), (0, 11, 5)]
      (fun _ => rfl) (fun _ => rfl) (by decide) ⟨rfl, rfl, rfl, rfl, rfl⟩ ⟨major, code, trivial⟩
  · next code =>
    exact exact_some 0x40000006 [(21, 5), (16, 5), (11, 5)] [fin5 w 21, fin5 w 16, fin5 w 11] [(26, 6, 16), (0, 11, 6)]
      (fun _ => rfl) (fun _ => rfl) (by decide) ⟨rfl, rfl, rfl, rfl, rfl⟩ ⟨major, code, trivial⟩
  · next code =>
    exact exact_some 0x40000007 [(21, 5), (16, 5), (11, 5)] [fin5 w 21, fin5 w 16, fin5 w 11] [(26, 6, 16), (0, 11, 7)]
      (fun _ => rfl) (fun _ => rfl) (by decide) ⟨rfl, rfl, rfl, rfl, rfl⟩ ⟨major, code, trivial⟩
  · next code =>
    exact exact_some 0x40000008 [(21, 5), (16, 5), (11, 5)] [fin5 w 21, fin5 w 16, fin5 w 11] [(26, 6, 16), (0, 11, 8)]
      (fun _ => rfl) (fun _ => rfl) (by decide) ⟨rfl, rfl, rfl, rfl, rfl⟩ ⟨major, code, trivial⟩
  · next code =>
    exact exact_some 0x40000009 [(21, 5), (16, 5), (11, 5)] [fin5 w 21, fin5 w 16, fin5 w 11] [(26, 6, 16), (0, 11, 9)]
      (fun _ => rfl) (fun _ => rfl) (by decide) ⟨rfl, rfl, rfl, rfl, rfl⟩ ⟨major, code, trivial⟩
  · next code =>
    exact exact_some 0x4000000A [(21, 5), (16, 5), (11, 5)] [fin5 w 21, fin5 w 16, fin5 w 11] [(26, 6, 16), (0, 11, 10)]
      (fun _ => rfl) (fun _ => rfl) (by decide) ⟨rfl, rfl, rfl, rfl, rfl⟩ ⟨major, code, trivial⟩
  · next code =>
    exact exact_some 0x4000000B [(21, 5), (16, 5), (11, 5)] [fin5 w 21, fin5 w 16, fin5 w 11] [(26, 6, 16), (0, 11, 11)]
      (fun _ => rfl) (fun _ => rfl) (by decide) ⟨rfl, rfl, rfl, rfl, rfl⟩ ⟨major, code, trivial⟩
  · next code =>
    exact exact_some 0x4000000C [(21, 5), (16, 5), (11, 5)] [fin5 w 21, fin5 w 16, fin5 w 11] [(26, 6, 16), (0, 11, 12)]
      (fun _ => rfl) (fun _ => rfl) (by decide) ⟨rfl, rfl, rfl, rfl, rfl⟩ ⟨major, code, trivial⟩
  · next code =>
    exact exact_some 0x4000000D [(21, 5), (16, 5), (11, 5)] [fin5 w 21, fin5 w 16, fin5 w 11] [(26, 6, 16), (0, 11, 13)]
      (fun _ => rfl) (fun _ => rfl) (by decide) ⟨rfl, rfl, rfl, rfl, rfl⟩ ⟨major, code, trivial⟩
  · next code =>
    exact exact_some 0x4000000E [(21, 5), (16, 5), (11, 5)] [fin5 w 21, fin5 w 16, fin5 w 11] [(26, 6, 16), (0, 11, 14)]
      (fun _ => rfl) (fun _ => rfl) (by decide) ⟨rfl, rfl, rfl, rfl, rfl⟩ ⟨major, code, trivial⟩
  · next code =>
    exact exact_some 0x4000000F [(21, 5), (16, 5), (11, 5)] [fin5 w 21, fin5 w 16, fin5 w 11] [(26, 6, 16), (0, 11, 15)]
      (fun _ => rfl) (fun _ => rfl) (by decide) ⟨rfl, rfl, rfl, rfl, rfl⟩ ⟨major, code, trivial⟩
  · next code =>
    exact exact_some 0x40000010 [(21, 5), (16, 5), (11, 5)] [fin5 w 21, fin5 w 16, fin5 w 11] [(26, 6, 16), (0, 11, 16)]
      (fun _ => rfl) (fun _ => rfl) (by decide) ⟨rfl, rfl, rfl, rfl, rfl⟩ ⟨major, code, trivial⟩
  · next code =>
    exact exact_some 0x40000011 [(21, 5), (16, 5), (11, 5)] [fin5 w 21, fin5 w 16, fin5 w 11] [(26, 6, 16), (0, 11, 17)]
      (fun _ => rfl) (fun _ => rfl) (by decide) ⟨rfl, rfl, rfl, rfl, rfl⟩ ⟨major, code, trivial⟩
  · next code =>
    exact exact_some 0x40000012 [(21, 5), (16, 5), (11, 5)] [fin5 w 21, fin5 w 16, fin5 w 11] [(26, 6, 16), (0, 11, 18)]
      (fun _ => rfl) (fun _ => rfl) (by decide) ⟨rfl, rfl, rfl, rfl, rfl⟩ ⟨major, code, trivial⟩
  · next code =>
    exact exact_some 0x40000013 [(21, 5), (16, 5), (11, 5)] [fin5 w 21, fin5 w 16, fin5 w 11] [(26, 6, 16), (0, 11, 19)]
      (fun _ => rfl) (fun _ => rfl) (by decide) ⟨rfl, rfl, rfl, rfl, rfl⟩ ⟨major, code, trivial⟩
  · next code =>
    exact exact_some 0x40000014 [(21, 5), (16, 5), (11, 5)] [fin5 w 21, fin5 w 16, fin5 w 11] [(26, 6, 16), (0, 11, 20)]
      (fun _ => rfl) (fun _ => rfl) (by decide) ⟨rfl, rfl, rfl, rfl, rfl⟩ ⟨major, code, trivial⟩
  · next code =>
    exact exact_some 0x40000015 [(21, 5), (16, 5), (11, 5)] [fin5 w 21, fin5 w 16, fin5 w 11] [(26, 6, 16), (0, 11, 21)]
      (fun _ => rfl) (fun _ => rfl) (by decide) ⟨rfl, rfl, rfl, rfl, rfl⟩ ⟨major, code, trivial⟩
  · next code =>
    exact exact_ite fun fixed => exact_some 0x40000016 [(21, 5), (16, 5)] [fin5 w 21, fin5 w 16] [(26, 6, 16), (0, 11, 22), (11, 5, 0)]
      (fun _ => rfl) (fun _ => rfl) (by decide) ⟨rfl, rfl, rfl, rfl⟩ ⟨major, code, fixed, trivial⟩
  · next code =>
    exact exact_ite fun fixed => exact_some 0x40000017 [(21, 5), (16, 5)] [fin5 w 21, fin5 w 16] [(26, 6, 16), (0, 11, 23), (11, 5, 0)]
      (fun _ => rfl) (fun _ => rfl) (by decide) ⟨rfl, rfl, rfl, rfl⟩ ⟨major, code, fixed, trivial⟩
  · next code =>
    exact exact_ite fun fixed => exact_some 0x40000018 [(21, 5), (16, 5)] [fin5 w 21, fin5 w 16] [(26, 6, 16), (0, 11, 24), (11, 5, 0)]
      (fun _ => rfl) (fun _ => rfl) (by decide) ⟨rfl, rfl, rfl, rfl⟩ ⟨major, code, fixed, trivial⟩
  · next code =>
    exact exact_ite fun fixed => exact_some 0x40000019 [(21, 5), (16, 5)] [fin5 w 21, fin5 w 16] [(26, 6, 16), (0, 11, 25), (11, 5, 0)]
      (fun _ => rfl) (fun _ => rfl) (by decide) ⟨rfl, rfl, rfl, rfl⟩ ⟨major, code, fixed, trivial⟩
  · next code =>
    exact exact_ite fun fixed => exact_some 0x4000001A [(21, 5), (16, 5)] [fin5 w 21, fin5 w 16] [(26, 6, 16), (0, 11, 26), (11, 5, 0)]
      (fun _ => rfl) (fun _ => rfl) (by decide) ⟨rfl, rfl, rfl, rfl⟩ ⟨major, code, fixed, trivial⟩
  · next code =>
    exact exact_ite fun fixed => exact_some 0x4000001B [(21, 5), (16, 5)] [fin5 w 21, fin5 w 16] [(26, 6, 16), (0, 11, 27), (11, 5, 0)]
      (fun _ => rfl) (fun _ => rfl) (by decide) ⟨rfl, rfl, rfl, rfl⟩ ⟨major, code, fixed, trivial⟩
  · next code =>
    exact exact_ite fun fixed => exact_some 0x4000001C [(21, 5), (16, 5)] [fin5 w 21, fin5 w 16] [(26, 6, 16), (0, 11, 28), (11, 5, 0)]
      (fun _ => rfl) (fun _ => rfl) (by decide) ⟨rfl, rfl, rfl, rfl⟩ ⟨major, code, fixed, trivial⟩
  · next code =>
    exact exact_ite fun fixed => exact_some 0x4000001D [(21, 5), (16, 5)] [fin5 w 21, fin5 w 16] [(26, 6, 16), (0, 11, 29), (11, 5, 0)]
      (fun _ => rfl) (fun _ => rfl) (by decide) ⟨rfl, rfl, rfl, rfl⟩ ⟨major, code, fixed, trivial⟩
  · next code =>
    exact exact_ite fun fixed => exact_some 0x4000001E [(21, 5), (16, 5)] [fin5 w 21, fin5 w 16] [(26, 6, 16), (0, 11, 30), (11, 5, 0)]
      (fun _ => rfl) (fun _ => rfl) (by decide) ⟨rfl, rfl, rfl, rfl⟩ ⟨major, code, fixed, trivial⟩
  · exact exact_none

theorem exact_decSAW16 (hq : [Seq.s, .a, .w].contains q = true) (major : fld w 26 6 = 22) : Exact q w (decSAW16 w) := by
  unfold decSAW16
  split
  · next code =>
    exact exact_ite fun fixed => exact_some 0x58000000 [(21, 5), (16, 5), (0, 6)] [fin5 w 21, fin5 w 16, (w.extractLsb' 0 6).toNat] [(26, 6, 22), (6, 2, 0), (8, 8, 0)]
      (fun _ => hq) (fun _ => rfl) (by decide) ⟨rfl, rfl, toNat_extractLsb'_eq_fld .., rfl, rfl⟩ ⟨major, code, fixed, trivial⟩
  · next code =>
    exact exact_ite fun fixed => exact_some 0x58000040 [(21, 5), (16, 5), (0, 6)] [fin5 w 21, fin5 w 16, (w.extractLsb' 0 6).toNat] [(26, 6, 22), (6, 2, 1), (8, 8, 0)]
      (fun _ => hq) (fun _ => rfl) (by decide) ⟨rfl, rfl, toNat_extractLsb'_eq_fld .., rfl, rfl⟩ ⟨major, code, fixed, trivial⟩
  · next code =>
    exact exact_ite fun fixed => exact_some 0x58000080 [(21, 5), (16, 5), (0, 6)] [fin5 w 21, fin5 w 16, (w.extractLsb' 0 6).toNat] [(26, 6, 22), (6, 2, 2), (8, 8, 0)]
      (fun _ => hq) (fun _ => rfl) (by decide) ⟨rfl, rfl, toNat_extractLsb'_eq_fld .., rfl, rfl⟩ ⟨major, code, fixed, trivial⟩
  · exact exact_none

theorem exact_decSAW18 (hq : [Seq.s, .a, .w].contains q = true) (major : fld w 26 6 = 24) : Exact q w (decSAW18 w) := by
  unfold decSAW18
  exact exact_ite fun fixed => exact_some 0x60000000 [(21, 5), (0, 16)] [fin5 w 21, (w.extractLsb' 0 16).toNat] [(26, 6, 24), (16, 5, 0)]
      (fun _ => hq) (fun _ => rfl) (by decide) ⟨rfl, toNat_extractLsb'_eq_fld .., rfl, rfl⟩ ⟨major, fixed, trivial⟩

theorem exact_decSAW19 (hq : [Seq.s, .a, .w].contains q = true) (major : fld w 26 6 = 25) : Exact q w (decSAW19 w) := by
  unfold decSAW19
  exact exact_ite fun fixed => exact_some 0x64000000 [(21, 5)] [fin5 w 21] [(26, 6, 25), (0, 21, 0)]
      (fun _ => hq) (fun _ => rfl) (by decide) ⟨rfl, rfl, rfl⟩ ⟨major, fixed, trivial⟩

theorem exact_decS1A (major : fld w 26 6 = 26) : Exact .s w (decS1A w) := by
  unfold decS1A
  split
  · next code =>
    exact exact_ite fun fixed => exact_some 0x68000000 [(21, 5), (16, 5), (6, 6), (0, 6)] [fin5 w 21, fin5 w 16, (w.extractLsb' 6 6).toNat, (w.extractLsb' 0 6).toNat] [(26, 6, 26), (12, 2, 0), (14, 2, 0)]
      (fun _ => rfl) (fun _ => rfl) (by decide) ⟨rfl, rfl, toNat_extractLsb'_eq_fld .., toNat_extractLsb'_eq_fld .., rfl, rfl⟩ ⟨major, code, fixed, trivial⟩
  · next code =>
    exact exact_ite fun fixed => exact_some 0x68001000 [(21, 5), (16, 5), (6, 6), (0, 6)] [fin5 w 21, fin5 w 16, (w.extractLsb' 6 6).toNat, (w.extractLsb' 0 6).toNat] [(26, 6, 26), (12, 2, 1), (14, 2, 0)]
      (fun _ => rfl) (fun _ => rfl) (by decide) ⟨rfl, rfl, toNat_extractLsb'_eq_fld .., toNat_extractLsb'_eq_fld .., rfl, rfl⟩ ⟨major, code, fixed, trivial⟩
  · next code =>
    exact exact_ite fun fixed => exact_some 0x68002000 [(21, 5), (16, 5), (6, 6), (0, 6)] [fin5 w 21, fin5 w 16, (w.extractLsb' 6 6).toNat, (w.extractLsb' 0 6).toNat] [(26, 6, 26), (12, 2, 2), (14, 2, 0)]
      (fun _ => rfl) (fun _ => rfl) (by decide) ⟨rfl, rfl, toNat_extractLsb'_eq_fld .., toNat_extractLsb'_eq_fld .., rfl, rfl⟩ ⟨major, code, fixed, trivial⟩
  · exact exact_none

theorem exact_decS1B (major : fld w 26 6 = 27) : Exact .s w (decS1B w) := by
  unfold decS1B
  exact exact_ite fun fixed => exact_some 0x6C000000 [(21, 5), (16, 5), (11, 3)] [fin5 w 21, fin5 w 16, fin3 w 11] [(26, 6, 27), (14, 2, 0), (0, 11, 0)]
      (fun _ => rfl) (fun _ => rfl) (by decide) ⟨rfl, rfl, rfl, rfl, rfl⟩ ⟨major, fixed.1, fixed.2, trivial⟩

theorem exact_decS1C (major : fld w 26 6 = 28) : Exact .s w (decS1C w) := by
  unfold decS1C
  exact exact_ite fun fixed => exact_some 0x70000000 [(21, 3), (16, 5)] [fin3 w 21, fin5 w 16] [(26, 6, 28), (24, 2, 0), (0, 16, 0)]
      (fun _ => rfl) (fun _ => rfl) (by decide) ⟨rfl, rfl, rfl, rfl⟩ ⟨major, fixed.1, fixed.2, trivial⟩

theorem exact_decS1D (major : fld w 26 6 = 29) : Exact .s w (decS1D w) := by
  unfold decS1D
  split
  · next code =>
    exact exact_some 0x74000000 [(21, 5), (16, 5), (11, 5)] [fin5 w 21, fin5 w 16, fin5 w 11] [(26, 6, 29), (0, 11, 0)]
      (fun _ => rfl) (fun _ => rfl) (by decide) ⟨rfl, rfl, rfl, rfl, rfl⟩ ⟨major, code, trivial⟩
  · next code =>
    exact exact_some 0x74000001 [(21, 5), (16, 5), (11, 5)] [fin5 w 21, fin5 w 16, fin5 w 11] [(26, 6, 29), (0, 11, 1)]
      (fun _ => rfl) (fun _ => rfl) (by decide) ⟨rfl, rfl, rfl, rfl, rfl⟩ ⟨major, code, trivial⟩
  · next code =>
    exact exact_some 0x74000002 [(21, 5), (16, 5), (11, 5)] [fin5 w 21, fin5 w 16, fin5 w 11] [(26, 6, 29), (0, 11, 2)]
      (fun _ => rfl) (fun _ => rfl) (by decide) ⟨rfl, rfl, rfl, rfl, rfl⟩ ⟨major, code, trivial⟩
  · next code =>
    exact exact_some 0x74000003 [(21, 5), (16, 5), (11, 5)] [fin5 w 21, fin5 w 16, fin5 w 11] [(26, 6, 29), (0, 11, 3)]
      (fun _ => rfl) (fun _ => rfl) (by decide) ⟨rfl, rfl, rfl, rfl, rfl⟩ ⟨major, code, trivial⟩
  · next code =>
    exact exact_some 0x74000004 [(21, 5), (16, 5), (11, 5)] [fin5 w 21, fin5 w 16, fin5 w 11] [(26, 6, 29), (0, 11, 4)]
      (fun _ => rfl) (fun _ => rfl) (by decide) ⟨rfl, rfl, rfl, rfl, rfl⟩ ⟨major, code, trivial⟩
  · next code =>
    exact exact_some 0x74000005 [(21, 5), (16, 5), (11, 5)] [fin5 w 21, fin5 w 16, fin5 w 11] [(26, 6, 29), (0, 11, 5)]
      (fun _ => rfl) (fun _ => rfl) (by decide) ⟨rfl, rfl, rfl, rfl, rfl⟩ ⟨major, code, trivial⟩
  · next code =>
    exact exact_some 0x74000006 [(21, 5), (16, 5), (11, 5)] [fin5 w 21, fin5 w 16, fin5 w 11] [(26, 6, 29), (0, 11, 6)]
      (fun _ => rfl) (fun _ => rfl) (by decide) ⟨rfl, rfl, rfl, rfl, rfl⟩ ⟨major, code, trivial⟩
  · next code =>
    exact exact_some 0x74000007 [(21, 5), (16, 5), (11, 5)] [fin5 w 21, fin5 w 16, fin5 w 11] [(26, 6, 29), (0, 11, 7)]
      (fun _ => rfl) (fun _ => rfl) (by decide) ⟨rfl, rfl, rfl, rfl, rfl⟩ ⟨major, code, trivial⟩
  · next code =>
    exact exact_ite fun fixed => exact_some 0x74000008 [(21, 5), (16, 5)] [fin5 w 21, fin5 w 16] [(26, 6, 29), (0, 11, 8), (11, 5, 0)]
      (fun _ => rfl) (fun _ => rfl) (by decide) ⟨rfl, rfl, rfl, rfl⟩ ⟨major, code, fixed, trivial⟩
  · next code =>
    exact exact_ite fun fixed => exact_some 0x74000009 [(21, 5), (16, 5)] [fin5 w 21, fin5 w 16] [(26, 6, 29), (0, 11, 9), (11, 5, 0)]
      (fun _ => rfl) (fun _ => rfl) (by decide) ⟨rfl, rfl, rfl, rfl⟩ ⟨major, code, fixed, trivial⟩
  · exact exact_none

theorem exact_decS1E (major : fld w 26 6 = 30) : Exact .s w (decS1E w) := by
  unfold decS1E
  exact exact_ite fun fixed => exact_some 0x78000000 [(21, 5), (16, 5), (11, 5)] [fin5 w 21, fin5 w 16, fin5 w 11] [(26, 6, 30), (0, 11, 0)]
      (fun _ => rfl) (fun _ => rfl) (by decide) ⟨rfl, rfl, rfl, rfl, rfl⟩ ⟨major, fixed, trivial⟩

theorem exact_decS20 (major : fld w 26 6 = 32) : Exact .s w (decS20 w) := by
  unfold decS20
  split
  · next code =>
    exact exact_ite fun fixed => exact_some 0x80000000 [(21, 5), (0, 12)] [fin5 w 21, (w.extractLsb' 0 12).toNat] [(26, 6, 32), (12, 2, 0), (14, 7, 0)]
      (fun _ => rfl) (fun _ => rfl) (by decide) ⟨rfl, toNat_extractLsb'_eq_fld .., rfl, rfl⟩ ⟨major, code, fixed, trivial⟩
  · next code =>
    exact exact_ite fun fixed => exact_some 0x80001000 [(16, 5), (0, 12)] [fin5 w 16, (w.extractLsb' 0 12).toNat] [(26, 6, 32), (12, 2, 1), (21, 5, 0), (14, 2, 0)]
      (fun _ => rfl) (fun _ => rfl) (by decide) ⟨rfl, toNat_extractLsb'_eq_fld .., rfl, rfl⟩ ⟨major, code, fixed.1, fixed.2, trivial⟩
  · next code =>
    exact exact_ite fun fixed => exact_some 0x80002000 [(16, 5), (0, 12)] [fin5 w 16, (w.extractLsb' 0 12).toNat] [(26, 6, 32), (12, 2, 2), (21, 5, 0), (14, 2, 0)]
      (fun _ => rfl) (fun _ => rfl) (by decide) ⟨rfl, toNat_extractLsb'_eq_fld .., rfl, rfl⟩ ⟨major, code, fixed.1, fixed.2, trivial⟩
  · next code =>
    exact exact_ite fun fixed => exact_some 0x80003000 [(16, 5), (0, 12)] [fin5 w 16, (w.extractLsb' 0 12).toNat] [(26, 6, 32), (12, 2, 3), (21, 5, 0), (14, 2, 0)]
      (fun _ => rfl) (fun _ => rfl) (by decide) ⟨rfl, toNat_extractLsb'_eq_fld .., rfl, rfl⟩ ⟨major, code, fixed.1, fixed.2, trivial⟩
  · exact exact_none

theorem exact_decS21 (major : fld w 26 6 = 33) : Exact .s w (decS21 w) := by
  unfold decS21
  split
  · next code =>
    exact exact_ite fun fixed => exact_some 0x84000000 [] [] [(26, 6, 33), (0, 11, 0), (11, 15, 0)]
      (fun _ => rfl) (fun _ => rfl) (by decide) ⟨rfl, rfl⟩ ⟨major, code, fixed, trivial⟩
  · next code =>
    exact exact_ite fun fixed => exact_some 0x84000001 [] [] [(26, 6, 33), (0, 11, 1), (11, 15, 0)]
      (fun _ => rfl) (fun _ => rfl) (by decide) ⟨rfl, rfl⟩ ⟨major, code, fixed, trivial⟩
  · next code =>
    exact exact_ite fun fixed => exact_some 0x84000002 [] [] [(26, 6, 33), (0, 11, 2), (11, 15, 0)]
      (fun _ => rfl) (fun _ => rfl) (by decide) ⟨rfl, rfl⟩ ⟨major, code, fixed, trivial⟩
  · next code =>
    exact exact_ite fun fixed => exact_some 0x84000003 [] [] [(26, 6, 33), (0, 11, 3), (11, 15, 0)]
      (fun _ => rfl) (fun _ => rfl) (by decide) ⟨rfl, rfl⟩ ⟨major, code, fixed, trivial⟩
  · next code =>
    exact exact_ite fun fixed => exact_some 0x84000004 [] [] [(26, 6, 33), (0, 11, 4), (11, 15, 0)]
      (fun _ => rfl) (fun _ => rfl) (by decide) ⟨rfl, rfl⟩ ⟨major, code, fixed, trivial⟩
  · next code =>
    exact exact_ite fun fixed => exact_some 0x84000005 [] [] [(26, 6, 33), (0, 11, 5), (11, 15, 0)]
      (fun _ => rfl) (fun _ => rfl) (by decide) ⟨rfl, rfl⟩ ⟨major, code, fixed, trivial⟩
  · exact exact_none

theorem exact_decS22 (major : fld w 26 6 = 34) : Exact .s w (decS22 w) := by
  unfold decS22
  split
  · next code =>
    exact exact_ite fun fixed => exact_some 0x88000000 [(16, 5)] [fin5 w 16] [(26, 6, 34), (0, 11, 0), (21, 5, 0), (11, 5, 0)]
      (fun _ => rfl) (fun _ => rfl) (by decide) ⟨rfl, rfl, rfl⟩ ⟨major, code, fixed.1, fixed.2, trivial⟩
  · next code =>
    exact exact_ite fun fixed => exact_some 0x88000001 [(16, 5), (11, 5)] [fin5 w 16, fin5 w 11] [(26, 6, 34), (0, 11, 1), (21, 5, 0)]
      (fun _ => rfl) (fun _ => rfl) (by decide) ⟨rfl, rfl, rfl, rfl⟩ ⟨major, code, fixed, trivial⟩
  · next code =>
    exact exact_ite fun fixed => exact_some 0x88000002 [(16, 5), (11, 5)] [fin5 w 16, fin5 w 11] [(26, 6, 34), (0, 11, 2), (21, 5, 0)]
      (fun _ => rfl) (fun _ => rfl) (by decide) ⟨rfl, rfl, rfl, rfl⟩ ⟨major, code, fixed, trivial⟩
  · exact exact_none

theorem exact_decS23 (major : fld w 26 6 = 35) : Exact .s w (decS23 w) := by
  unfold decS23
  split
  · next code =>
    exact exact_ite fun fixed => exact_some 0x8C000000 [(16, 5), (11, 5)] [fin5 w 16, fin5 w 11] [(26, 6, 35), (0, 11, 0), (21, 5, 0)]
      (fun _ => rfl) (fun _ => rfl) (by decide) ⟨rfl, rfl, rfl, rfl⟩ ⟨major, code, fixed, trivial⟩
  · next code =>
    exact exact_ite fun fixed => exact_some 0x8C000001 [(21, 5)] [fin5 w 21] [(26, 6, 35), (0, 11, 1), (11, 10, 0)]
      (fun _ => rfl) (fun _ => rfl) (by decide) ⟨rfl, rfl, rfl⟩ ⟨major, code, fixed, trivial⟩
  · next code =>
    exact exact_ite fun fixed => exact_some 0x8C000002 [(16, 5)] [fin5 w 16] [(26, 6, 35), (0, 11, 2), (21, 5, 0), (11, 5, 0)]
      (fun _ => rfl) (fun _ => rfl) (by decide) ⟨rfl, rfl, rfl⟩ ⟨major, code, fixed.1, fixed.2, trivial⟩
  · next code =>
    exact exact_ite fun fixed => exact_some 0x8C000003 [(21, 5), (16, 5)] [fin5 w 21, fin5 w 16] [(26, 6, 35), (0, 11, 3), (11, 5, 0)]
      (fun _ => rfl) (fun _ => rfl) (by decide) ⟨rfl, rfl, rfl, rfl⟩ ⟨major, code, fixed, trivial⟩
  · exact exact_none

theorem exact_decS24 (major : fld w 26 6 = 36) : Exact .s w (decS24 w) := by
  unfold decS24
  exact exact_ite fun fixed => exact_some 0x90000000 [(16, 5), (11, 5)] [fin5 w 16, fin5 w 11] [(26, 6, 36), (21, 5, 0), (0, 11, 0)]
      (fun _ => rfl) (fun _ => rfl) (by decide) ⟨rfl, rfl, rfl, rfl⟩ ⟨major, fixed.1, fixed.2, trivial⟩

theorem exact_decS25 (major : fld w 26 6 = 37) : Exact .s w (decS25 w) := by
  unfold decS25
  split
  · next code =>
    exact exact_ite fun fixed => exact_some 0x94000000 [(16, 5), (11, 5)] [fin5 w 16, fin5 w 11] [(26, 6, 37), (0, 11, 0), (21, 5, 0)]
      (fun _ => rfl) (fun _ => rfl) (by decide) ⟨rfl, rfl, rfl, rfl⟩ ⟨major, code, fixed, trivial⟩
  · next code =>
    exact exact_ite fun fixed => exact_some 0x94000001 [(16, 5)] [fin5 w 16] [(26, 6, 37), (0, 11, 1), (21, 5, 0), (11, 5, 0)]
      (fun _ => rfl) (fun _ => rfl) (by decide) ⟨rfl, rfl, rfl⟩ ⟨major, code, fixed.1, fixed.2, trivial⟩
  · exact exact_none

theorem exact_decS26 (major : fld w 26 6 = 38) : Exact .s w (decS26 w) := by
  unfold decS26
  exact exact_ite fun fixed => exact_some 0x98000000 [(21, 5), (16, 5), (11, 5), (0, 4)] [fin5 w 21, fin5 w 16, fin5 w 11, fin4 w 0] [(26, 6, 38), (4, 7, 0)]
      (fun _ => rfl) (fun _ => rfl) (by decide) ⟨rfl, rfl, rfl, rfl, rfl, rfl⟩ ⟨major, fixed, trivial⟩

theorem exact_decS28 (major : fld w 26 6 = 40) : Exact .s w (decS28 w) := by
  unfold decS28
  exact exact_ite fun fixed => exact_some 0xA0000000 [(0, 12)] [(w.extractLsb' 0 12).toNat] [(26, 6, 40), (12, 14, 0)]
      (fun _ => rfl) (fun _ => rfl) (by decide) ⟨toNat_extractLsb'_eq_fld .., rfl, rfl⟩ ⟨major, fixed, trivial⟩

theorem exact_decS29 (major : fld w 26 6 = 41) : Exact .s w (decS29 w) := by
  unfold decS29
  exact exact_ite fun fixed => exact_some 0xA4000000 [(16, 5), (0, 12)] [fin5 w 16, (w.extractLsb' 0 12).toNat] [(26, 6, 41), (21, 5, 0), (12, 4, 0)]
      (fun _ => rfl) (fun _ => rfl) (by decide) ⟨rfl, toNat_extractLsb'_eq_fld .., rfl, rfl⟩ ⟨major, fixed.1, fixed.2, trivial⟩

theorem exact_decS2A (major : fld w 26 6 = 42) : Exact .s w (decS2A w) := by
  unfold decS2A
  exact exact_ite fun fixed => exact_some 0xA8000000 [(16, 5)] [fin5 w 16] [(26, 6, 42), (21, 5, 0), (0, 16, 0)]
      (fun _ => rfl) (fun _ => rfl) (by decide) ⟨rfl, rfl, rfl⟩ ⟨major, fixed.1, fixed.2, trivial⟩

theorem exact_decS2B (major : fld w 26 6 = 43) : Exact .s w (decS2B w) := by
  unfold decS2B
  exact exact_ite fun fixed => exact_some 0xAC000000 [(21, 4), (2, 2), (0, 2)] [fin4 w 21, fin2 w 2, fin2 w 0] [(26, 6, 43), (25, 1, 0), (4, 17, 0)]
      (fun _ => rfl) (fun _ => rfl) (by decide) ⟨rfl, rfl, rfl, rfl, rfl⟩ ⟨major, fixed.1, fixed.2, trivial⟩

theorem exact_decS2C (major : fld w 26 6 = 44) : Exact .s w (decS2C w) := by
  unfold decS2C
  exact exact_ite fun fixed => exact_some 0xB0000000 [(21, 4), (16, 5), (11, 5)] [fin4 w 21, fin5 w 16, fin5 w 11] [(26, 6, 44), (25, 1, 0), (0, 11, 0)]
      (fun _ => rfl) (fun _ => rfl) (by decide) ⟨rfl, rfl, rfl, rfl, rfl⟩ ⟨major, fixed.1, fixed.2, trivial⟩

theorem exact_decS2D (major : fld w 26 6 = 45) : Exact .s w (decS2D w) := by
  unfold decS2D
  exact exact_ite fun fixed => exact_some 0xB4000000 [(21, 4), (16, 5), (11, 5), (0, 1)] [fin4 w 21, fin5 w 16, fin5 w 11, fin1 w 0] [(26, 6, 45), (25, 1, 0), (1, 10, 0)]
      (fun _ => rfl) (fun _ => rfl) (by decide) ⟨rfl, rfl, rfl, rfl, rfl, rfl⟩ ⟨major, fixed.1, fixed.2, trivial⟩

theorem exact_decS2E (major : fld w 26 6 = 46) : Exact .s w (decS2E w) := by
  unfold decS2E
  split
  · next code =>
    exact exact_ite fun fixed => exact_some 0xB8000000 [(16, 5)] [fin5 w 16] [(26, 6, 46), (0, 11, 0), (21, 5, 0), (11, 5, 0)]
      (fun _ => rfl) (fun _ => rfl) (by decide) ⟨rfl, rfl, rfl⟩ ⟨major, code, fixed.1, fixed.2, trivial⟩
  · next code =>
    exact exact_ite fun fixed => exact_some 0xB8000001 [(21, 4), (16, 5), (11, 5)] [fin4 w 21, fin5 w 16, fin5 w 11] [(26, 6, 46), (0, 11, 1), (25, 1, 0)]
      (fun _ => rfl) (fun _ => rfl) (by decide) ⟨rfl, rfl, rfl, rfl, rfl⟩ ⟨major, code, fixed, trivial⟩
  · next code =>
    exact exact_ite fun fixed => exact_some 0xB8000002 [] [] [(26, 6, 46), (0, 11, 2), (11, 15, 0)]
      (fun _ => rfl) (fun _ => rfl) (by decide) ⟨rfl, rfl⟩ ⟨major, code, fixed, trivial⟩
  · next code =>
    exact exact_ite fun fixed => exact_some 0xB8000003 [(21, 5)] [fin5 w 21] [(26, 6, 46), (0, 11, 3), (11, 10, 0)]
      (fun _ => rfl) (fun _ => rfl) (by decide) ⟨rfl, rfl, rfl⟩ ⟨major, code, fixed, trivial⟩
  · exact exact_none

theorem exact_decS30 (major : fld w 26 6 = 48) : Exact .s w (decS30 w) := by
  unfold decS30
  split
  · next code =>
    exact exact_ite fun fixed => exact_some 0xC0000000 [(21, 4), (16, 5)] [fin4 w 21, fin5 w 16] [(26, 6, 48), (0, 11, 0), (25, 1, 0), (11, 5, 0)]
      (fun _ => rfl) (fun _ => rfl) (by decide) ⟨rfl, rfl, rfl, rfl⟩ ⟨major, code, fixed.1, fixed.2, trivial⟩
  · next code =>
    exact exact_ite fun fixed => exact_some 0xC0000001 [(21, 4), (16, 5)] [fin4 w 21, fin5 w 16] [(26, 6, 48), (0, 11, 1), (25, 1, 0), (11, 5, 0)]
      (fun _ => rfl) (fun _ => rfl) (by decide) ⟨rfl, rfl, rfl, rfl⟩ ⟨major, code, fixed.1, fixed.2, trivial⟩
  · next code =>
    exact exact_ite fun fixed => exact_some 0xC0000002 [(21, 4), (16, 5)] [fin4 w 21, fin5 w 16] [(26, 6, 48), (0, 11, 2), (25, 1, 0), (11, 5, 0)]
      (fun _ => rfl) (fun _ => rfl) (by decide) ⟨rfl, rfl, rfl, rfl⟩ ⟨major, code, fixed.1, fixed.2, trivial⟩
  · exact exact_none

theorem exact_decS31 (major : fld w 26 6 = 49) : Exact .s w (decS31 w) := by
  unfold decS31
  exact exact_ite fun fixed => exact_some 0xC4000000 [(21, 4), (16, 5), (11, 5)] [fin4 w 21, fin5 w 16, fin5 w 11] [(26, 6, 49), (25, 1, 0), (0, 11, 0)]
      (fun _ => rfl) (fun _ => rfl) (by decide) ⟨rfl, rfl, rfl, rfl, rfl⟩ ⟨major, fixed.1, fixed.2, trivial⟩

theorem exact_decS32 (major : fld w 26 6 = 50) : Exact .s w (decS32 w) := by
  unfold decS32
  exact exact_ite fun fixed => exact_some 0xC8000000 [(21, 4), (16, 5), (11, 5)] [fin4 w 21, fin5 w 16, fin5 w 11] [(26, 6, 50), (25, 1, 0), (0, 11, 0)]
      (fun _ => rfl) (fun _ => rfl) (by decide) ⟨rfl, rfl, rfl, rfl, rfl⟩ ⟨major, fixed.1, fixed.2, trivial⟩

theorem exact_decS33 (major : fld w 26 6 = 51) : Exact .s w (decS33 w) := by
  unfold decS33
  split
  · next code =>
    exact exact_ite fun fixed => exact_some 0xCC000000 [(16, 5)] [fin5 w 16] [(26, 6, 51), (0, 11, 0), (21, 5, 0), (11, 5, 0)]
      (fun _ => rfl) (fun _ => rfl) (by decide) ⟨rfl, rfl, rfl⟩ ⟨major, code, fixed.1, fixed.2, trivial⟩
  · next code =>
    exact exact_ite fun fixed => exact_some 0xCC000001 [(21, 5), (16, 5)] [fin5 w 21, fin5 w 16] [(26, 6, 51), (0, 11, 1), (11, 5, 0)]
      (fun _ => rfl) (fun _ => rfl) (by decide) ⟨rfl, rfl, rfl, rfl⟩ ⟨major, code, fixed, trivial⟩
  · next code =>
    exact exact_ite fun fixed => exact_some 0xCC000002 [(21, 5)] [fin5 w 21] [(26, 6, 51), (0, 11, 2), (11, 10, 0)]
      (fun _ => rfl) (fun _ => rfl) (by decide) ⟨rfl, rfl, rfl⟩ ⟨major, code, fixed, trivial⟩
  · exact exact_none

theorem exact_decS34 (major : fld w 26 6 = 52) : Exact .s w (decS34 w) := by
  unfold decS34
  split
  · next code =>
    exact exact_ite fun fixed => exact_some 0xD0000000 [(16, 5)] [fin5 w 16] [(26, 6, 52), (0, 11, 0), (21, 5, 0), (11, 5, 0)]
      (fun _ => rfl) (fun _ => rfl) (by decide) ⟨rfl, rfl, rfl⟩ ⟨major, code, fixed.1, fixed.2, trivial⟩
  · next code =>
    exact exact_ite fun fixed => exact_some 0xD0000001 [(21, 4), (16, 5)] [fin4 w 21, fin5 w 16] [(26, 6, 52), (0, 11, 1), (25, 1, 0), (11, 5, 0)]
      (fun _ => rfl) (fun _ => rfl) (by decide) ⟨rfl, rfl, rfl, rfl⟩ ⟨major, code, fixed.1, fixed.2, trivial⟩
  · next code =>
    exact exact_ite fun fixed => exact_some 0xD0000002 [(21, 4), (16, 5)] [fin4 w 21, fin5 w 16] [(26, 6, 52), (0, 11, 2), (25, 1, 0), (11, 5, 0)]
      (fun _ => rfl) (fun _ => rfl) (by decide) ⟨rfl, rfl, rfl, rfl⟩ ⟨major, code, fixed.1, fixed.2, trivial⟩
  · exact exact_none

theorem exact_decS35 (major : fld w 26 6 = 53) : Exact .s w (decS35 w) := by
  unfold decS35
  exact exact_ite fun fixed => exact_some 0xD4000000 [(21, 4), (16, 5), (11, 5)] [fin4 w 21, fin5 w 16, fin5 w 11] [(26, 6, 53), (25, 1, 0), (0, 11, 0)]
      (fun _ => rfl) (fun _ => rfl) (by decide) ⟨rfl, rfl, rfl, rfl, rfl⟩ ⟨major, fixed.1, fixed.2, trivial⟩

theorem exact_decS38 (major : fld w 26 6 = 56) : Exact .s w (decS38 w) := by
  unfold decS38
  split
  · next code =>
    exact exact_ite fun fixed => exact_some 0xE0000000 [(21, 4), (16, 5)] [fin4 w 21, fin5 w 16] [(26, 6, 56), (0, 11, 0), (25, 1, 0), (11, 5, 0)]
      (fun _ => rfl) (fun _ => rfl) (by decide) ⟨rfl, rfl, rfl, rfl⟩ ⟨major, code, fixed.1, fixed.2, trivial⟩
  · next code =>
    exact exact_ite fun fixed => exact_some 0xE0000001 [(21, 4), (16, 5)] [fin4 w 21, fin5 w 16] [(26, 6, 56), (0, 11, 1), (25, 1, 0), (11, 5, 0)]
      (fun _ => rfl) (fun _ => rfl) (by decide) ⟨rfl, rfl, rfl, rfl⟩ ⟨major, code, fixed.1, fixed.2, trivial⟩
  · exact exact_none

theorem exact_decS39 (major : fld w 26 6 = 57) : Exact .s w (decS39 w) := by
  unfold decS39
  exact exact_ite fun fixed => exact_some 0xE4000000 [(21, 3), (16, 5)] [fin3 w 21, fin5 w 16] [(26, 6, 57), (24, 2, 0), (0, 16, 0)]
      (fun _ => rfl) (fun _ => rfl) (by decide) ⟨rfl, rfl, rfl, rfl⟩ ⟨major, fixed.1, fixed.2, trivial⟩

theorem exact_decS3A (major : fld w 26 6 = 58) : Exact .s w (decS3A w) := by
  unfold decS3A
  exact exact_ite fun fixed => exact_some 0xE8000000 [(21, 3), (11, 4)] [fin3 w 21, fin4 w 11] [(26, 6, 58), (24, 2, 0), (15, 6, 0), (0, 11, 0)]
      (fun _ => rfl) (fun _ => rfl) (by decide) ⟨rfl, rfl, rfl, rfl⟩ ⟨major, fixed.1, fixed.2.1, fixed.2.2, trivial⟩

theorem exact_decS3B (major : fld w 26 6 = 59) : Exact .s w (decS3B w) := by
  unfold decS3B
  exact exact_ite fun fixed => exact_some 0xEC000000 [(21, 3), (16, 5)] [fin3 w 21, fin5 w 16] [(26, 6, 59), (24, 2, 0), (0, 16, 0)]
      (fun _ => rfl) (fun _ => rfl) (by decide) ⟨rfl, rfl, rfl, rfl⟩ ⟨major, fixed.1, fixed.2, trivial⟩

theorem exact_decS3C (major : fld w 26 6 = 60) : Exact .s w (decS3C w) := by
  unfold decS3C
  exact exact_ite fun fixed => exact_some 0xF0000000 [(21, 5), (16, 3)] [fin5 w 21, fin3 w 16] [(26, 6, 60), (19, 2, 0), (0, 16, 0)]
      (fun _ => rfl) (fun _ => rfl) (by decide) ⟨rfl, rfl, rfl, rfl⟩ ⟨major, fixed.1, fixed.2, trivial⟩

theorem exact_decS3D (major : fld w 26 6 = 61) : Exact .s w (decS3D w) := by
  unfold decS3D
  split
  · next code =>
    exact exact_ite fun fixed => exact_some 0xF4000000 [(0, 16)] [(w.extractLsb' 0 16).toNat] [(26, 6, 61), (21, 2, 0), (23, 3, 0), (16, 5, 0)]
      (fun _ => rfl) (fun _ => rfl) (by decide) ⟨toNat_extractLsb'_eq_fld .., rfl, rfl⟩ ⟨major, code, fixed.1, fixed.2, trivial⟩
  · next code =>
    exact exact_ite fun fixed => exact_some 0xF4200000 [(0, 16)] [(w.extractLsb' 0 16).toNat] [(26, 6, 61), (21, 2, 1), (23, 3, 0), (16, 5, 0)]
      (fun _ => rfl) (fun _ => rfl) (by decide) ⟨toNat_extractLsb'_eq_fld .., rfl, rfl⟩ ⟨major, code, fixed.1, fixed.2, trivial⟩
  · next code =>
    exact exact_ite fun fixed => exact_some 0xF4400000 [(0, 16)] [(w.extractLsb' 0 16).toNat] [(26, 6, 61), (21, 2, 2), (23, 3, 0), (16, 5, 0)]
      (fun _ => rfl) (fun _ => rfl) (by decide) ⟨toNat_extractLsb'_eq_fld .., rfl, rfl⟩ ⟨major, code, fixed.1, fixed.2, trivial⟩
  · exact exact_none

theorem exact_decS3E (major : fld w 26 6 = 62) : Exact .s w (decS3E w) := by
  unfold decS3E
  exact exact_ite fun fixed => exact_some 0xF8000000 [(21, 4), (16, 5)] [fin4 w 21, fin5 w 16] [(26, 6, 62), (25, 1, 0), (0, 16, 0)]
      (fun _ => rfl) (fun _ => rfl) (by decide) ⟨rfl, rfl, rfl, rfl⟩ ⟨major, fixed.1, fixed.2, trivial⟩

theorem exact_decAXW0F (hq : [Seq.a, .x, .w].contains q = true) (major : fld w 26 6 = 15) : Exact q w (decAXW0F w) := by
  unfold decAXW0F
  split
  · next code =>
    exact exact_ite fun fixed => exact_some 0x3C000000 [] [] [(26, 6, 15), (0, 11, 0), (11, 15, 0)]
      (fun _ => by cases q <;> rfl) (fun _ => rfl) (by decide) ⟨rfl, rfl⟩ ⟨major, code, fixed, trivial⟩
  · next code =>
    exact exact_ite fun fixed => exact_some 0x3C000001 [] [] [(26, 6, 15), (0, 11, 1), (11, 15, 0)]
      (fun _ => hq) (fun _ => rfl) (by decide) ⟨rfl, rfl⟩ ⟨major, code, fixed, trivial⟩
  · exact exact_none

theorem exact_decAW10 (hq : [Seq.s, .a, .w].contains q = true) (major : fld w 26 6 = 16) : Exact q w (decAW10 w) := by
  unfold decAW10
  split
  · next code =>
    exact exact_some 0x40000000 [(21, 5), (16, 5), (11, 5)] [fin5 w 21, fin5 w 16, fin5 w 11] [(26, 6, 16), (0, 11, 0)]
      (fun _ => hq) (fun _ => rfl) (by decide) ⟨rfl, rfl, rfl, rfl, rfl⟩ ⟨major, code, trivial⟩
  · next code =>
    exact exact_some 0x40000001 [(21, 5), (16, 5), (11, 5)] [fin5 w 21, fin5 w 16, fin5 w 11] [(26, 6, 16), (0, 11, 1)]
      (fun _ => hq) (fun _ => rfl) (by decide) ⟨rfl, rfl, rfl, rfl, rfl⟩ ⟨major, code, trivial⟩
  · next code =>
    exact exact_some 0x40000002 [(21, 5), (16, 5), (11, 5)] [fin5 w 21, fin5 w 16, fin5 w 11] [(26, 6, 16), (0, 11, 2)]
      (fun _ => hq) (fun _ => rfl) (by decide) ⟨rfl, rfl, rfl, rfl, rfl⟩ ⟨major, code, trivial⟩
  · next code =>
    exact exact_some 0x40000009 [(21, 5), (16, 5), (11, 5)] [fin5 w 21, fin5 w 16, fin5 w 11] [(26, 6, 16), (0, 11, 9)]
      (fun _ => hq) (fun _ => rfl) (by decide) ⟨rfl, rfl, rfl, rfl, rfl⟩ ⟨major, code, trivial⟩
  · next code =>
    exact exact_some 0x4000000A [(21, 5), (16, 5), (11, 5)] [fin5 w 21, fin5 w 16, fin5 w 11] [(26, 6, 16), (0, 11, 10)]
      (fun _ => hq) (fun _ => rfl) (by decide) ⟨rfl, rfl, rfl, rfl, rfl⟩ ⟨major, code, trivial⟩
  · next code =>
    exact exact_some 0x4000000B [(21, 5), (16, 5), (11, 5)] [fin5 w 21, fin5 w 16, fin5 w 11] [(26, 6, 16), (0, 11, 11)]
      (fun _ => hq) (fun _ => rfl) (by decide) ⟨rfl, rfl, rfl, rfl, rfl⟩ ⟨major, code, trivial⟩
  · next code =>
    exact exact_some 0x4000000C [(21, 5), (16, 5), (11, 5)] [fin5 w 21, fin5 w 16, fin5 w 11] [(26, 6, 16), (0, 11, 12)]
      (fun _ => hq) (fun _ => rfl) (by decide) ⟨rfl, rfl, rfl, rfl, rfl⟩ ⟨major, code, trivial⟩
  · next code =>
    exact exact_some 0x4000000D [(21, 5), (16, 5), (11, 5)] [fin5 w 21, fin5 w 16, fin5 w 11] [(26, 6, 16), (0, 11, 13)]
      (fun _ => hq) (fun _ => rfl) (by decide) ⟨rfl, rfl, rfl, rfl, rfl⟩ ⟨major, code, trivial⟩
  · next code =>
    exact exact_some 0x4000000E [(21, 5), (16, 5), (11, 5)] [fin5 w 21, fin5 w 16, fin5 w 11] [(26, 6, 16), (0, 11, 14)]
      (fun _ => hq) (fun _ => rfl) (by decide) ⟨rfl, rfl, rfl, rfl, rfl⟩ ⟨major, code, trivial⟩
  · next code =>
    exact exact_some 0x40000015 [(21, 5), (16, 5), (11, 5)] [fin5 w 21, fin5 w 16, fin5 w 11] [(26, 6, 16), (0, 11, 21)]
      (fun _ => hq) (fun _ => rfl) (by decide) ⟨rfl, rfl, rfl, rfl, rfl⟩ ⟨major, code, trivial⟩
  · exact exact_none

theorem exact_decA28 (major : fld w 26 6 = 40) : Exact .a w (decA28 w) := by
  unfold decA28
  exact exact_ite fun fixed => exact_some 0xA0000000 [(16, 5), (14, 2), (10, 4), (0, 10)] [fin5 w 16, fin2 w 14, fin4 w 10, (w.extractLsb' 0 10).toNat] [(26, 6, 40), (21, 5, 0)]
      (fun _ => rfl) (fun _ => rfl) (by decide) ⟨rfl, rfl, rfl, toNat_extractLsb'_eq_fld .., rfl, rfl⟩ ⟨major, fixed, trivial⟩

theorem exact_decA29 (major : fld w 26 6 = 41) : Exact .a w (decA29 w) := by
  unfold decA29
  exact exact_ite fun fixed => exact_some 0xA4000000 [(21, 5), (16, 5), (11, 5), (6, 3), (4, 2), (0, 4)] [fin5 w 21, fin5 w 16, fin5 w 11, fin3 w 6, fin2 w 4, fin4 w 0] [(26, 6, 41), (9, 2, 0)]
      (fun _ => rfl) (fun _ => rfl) (by decide) ⟨rfl, rfl, rfl, rfl, rfl, rfl, rfl, rfl⟩ ⟨major, fixed, trivial⟩

theorem exact_decA2A (major : fld w 26 6 = 42) : Exact .a w (decA2A w) := by
  unfold decA2A
  exact exact_ite fun fixed => exact_some 0xA8000000 [(16, 5), (11, 5), (6, 3), (4, 2), (0, 4)] [fin5 w 16, fin5 w 11, fin3 w 6, fin2 w 4, fin4 w 0] [(26, 6, 42), (21, 5, 0), (9, 2, 0)]
      (fun _ => rfl) (fun _ => rfl) (by decide) ⟨rfl, rfl, rfl, rfl, rfl, rfl, rfl⟩ ⟨major, fixed.1, fixed.2, trivial⟩

theorem exact_decA2D (major : fld w 26 6 = 45) : Exact .a w (decA2D w) := by
  unfold decA2D
  split
  · next code =>
    exact exact_ite fun fixed => exact_some 0xB4000000 [(21, 5), (16, 5), (11, 5), (5, 4), (4, 1)] [fin5 w 21, fin5 w 16, fin5 w 11, fin4 w 5, fin1 w 4] [(26, 6, 45), (0, 4, 0), (9, 2, 0)]
      (fun _ => rfl) (fun _ => rfl) (by decide) ⟨rfl, rfl, rfl, rfl, rfl, rfl, rfl⟩ ⟨major, code, fixed, trivial⟩
  · next code =>
    exact exact_ite fun fixed => exact_some 0xB4000001 [(21, 5), (16, 5), (11, 5), (5, 4), (4, 1)] [fin5 w 21, fin5 w 16, fin5 w 11, fin4 w 5, fin1 w 4] [(26, 6, 45), (0, 4, 1), (9, 2, 0)]
      (fun _ => rfl) (fun _ => rfl) (by decide) ⟨rfl, rfl, rfl, rfl, rfl, rfl, rfl⟩ ⟨major, code, fixed, trivial⟩
  · next code =>
    exact exact_ite fun fixed => exact_some 0xB4000002 [(21, 5), (16, 5), (11, 5), (5, 4), (4, 1)] [fin5 w 21, fin5 w 16, fin5 w 11, fin4 w 5, fin1 w 4] [(26, 6, 45), (0, 4, 2), (9, 2, 0)]
      (fun _ => rfl) (fun _ => rfl) (by decide) ⟨rfl, rfl, rfl, rfl, rfl, rfl, rfl⟩ ⟨major, code, fixed, trivial⟩
  · next code =>
    exact exact_ite fun fixed => exact_some 0xB4000003 [(21, 5), (16, 5), (11, 5), (5, 4), (4, 1)] [fin5 w 21, fin5 w 16, fin5 w 11, fin4 w 5, fin1 w 4] [(26, 6, 45), (0, 4, 3), (9, 2, 0)]
      (fun _ => rfl) (fun _ => rfl) (by decide) ⟨rfl, rfl, rfl, rfl, rfl, rfl, rfl⟩ ⟨major, code, fixed, trivial⟩
  · next code =>
    exact exact_ite fun fixed => exact_some 0xB4000004 [(21, 5), (16, 5), (11, 5), (5, 4), (4, 1)] [fin5 w 21, fin5 w 16, fin5 w 11, fin4 w 5, fin1 w 4] [(26, 6, 45), (0, 4, 4), (9, 2, 0)]
      (fun _ => rfl) (fun _ => rfl) (by decide) ⟨rfl, rfl, rfl, rfl, rfl, rfl, rfl⟩ ⟨major, code, fixed, trivial⟩
  · next code =>
    exact exact_ite fun fixed => exact_some 0xB4000005 [(21, 5), (16, 5), (11, 5), (5, 4), (4, 1)] [fin5 w 21, fin5 w 16, fin5 w 11, fin4 w 5, fin1 w 4] [(26, 6, 45), (0, 4, 5), (9, 2, 0)]
      (fun _ => rfl) (fun _ => rfl) (by decide) ⟨rfl, rfl, rfl, rfl, rfl, rfl, rfl⟩ ⟨major, code, fixed, trivial⟩
  · next code =>
    exact exact_ite fun fixed => exact_some 0xB4000006 [(21, 5), (16, 5), (11, 5), (5, 4), (4, 1)] [fin5 w 21, fin5 w 16, fin5 w 11, fin4 w 5, fin1 w 4] [(26, 6, 45), (0, 4, 6), (9, 2, 0)]
      (fun _ => rfl) (fun _ => rfl) (by decide) ⟨rfl, rfl, rfl, rfl, rfl, rfl, rfl⟩ ⟨major, code, fixed, trivial⟩
  · next code =>
    exact exact_ite fun fixed => exact_some 0xB4000007 [(21, 5), (16, 5), (11, 5), (5, 4), (4, 1)] [fin5 w 21, fin5 w 16, fin5 w 11, fin4 w 5, fin1 w 4] [(26, 6, 45), (0, 4, 7), (9, 2, 0)]
      (fun _ => rfl) (fun _ => rfl) (by decide) ⟨rfl, rfl, rfl, rfl, rfl, rfl, rfl⟩ ⟨major, code, fixed, trivial⟩
  · next code =>
    exact exact_ite fun fixed => exact_some 0xB4000008 [(21, 5), (16, 5), (11, 5), (5, 4), (4, 1)] [fin5 w 21, fin5 w 16, fin5 w 11, fin4 w 5, fin1 w 4] [(26, 6, 45), (0, 4, 8), (9, 2, 0)]
      (fun _ => rfl) (fun _ => rfl) (by decide) ⟨rfl, rfl, rfl, rfl, rfl, rfl, rfl⟩ ⟨major, code, fixed, trivial⟩
  · next code =>
    exact exact_ite fun fixed => exact_some 0xB4000009 [(21, 5), (16, 5), (11, 5), (5, 4), (4, 1)] [fin5 w 21, fin5 w 16, fin5 w 11, fin4 w 5, fin1 w 4] [(26, 6, 45), (0, 4, 9), (9, 2, 0)]
      (fun _ => rfl) (fun _ => rfl) (by decide) ⟨rfl, rfl, rfl, rfl, rfl, rfl, rfl⟩ ⟨major, code, fixed, trivial⟩
  · next code =>
    exact exact_ite fun fixed => exact_some 0xB400000A [(21, 5), (16, 5), (11, 5), (5, 4)] [fin5 w 21, fin5 w 16, fin5 w 11, fin4 w 5] [(26, 6, 45), (0, 4, 10), (9, 2, 0), (4, 1, 0)]
      (fun _ => rfl) (fun _ => rfl) (by decide) ⟨rfl, rfl, rfl, rfl, rfl, rfl⟩ ⟨major, code, fixed.1, fixed.2, trivial⟩
  · exact exact_none

theorem exact_decA2E (major : fld w 26 6 = 46) : Exact .a w (decA2E w) := by
  unfold decA2E
  exact exact_ite fun fixed => exact_some 0xB8000000 [(21, 5), (16, 5), (6, 4), (0, 6)] [fin5 w 21, fin5 w 16, fin4 w 6, (w.extractLsb' 0 6).toNat] [(26, 6, 46), (10, 6, 0)]
      (fun _ => rfl) (fun _ => rfl) (by decide) ⟨rfl, rfl, rfl, toNat_extractLsb'_eq_fld .., rfl, rfl⟩ ⟨major, fixed, trivial⟩

theorem exact_decA2F (major : fld w 26 6 = 47) : Exact .a w (decA2F w) := by
  unfold decA2F
  split
  · next code =>
    exact exact_ite fun fixed => exact_some 0xBC000000 [(16, 5)] [fin5 w 16] [(26, 6, 47), (0, 11, 0), (21, 5, 0), (11, 5, 0)]
      (fun _ => rfl) (fun _ => rfl) (by decide) ⟨rfl, rfl, rfl⟩ ⟨major, code, fixed.1, fixed.2, trivial⟩
  · next code =>
    exact exact_ite fun fixed => exact_some 0xBC000001 [(21, 5), (16, 5)] [fin5 w 21, fin5 w 16] [(26, 6, 47), (0, 11, 1), (11, 5, 0)]
      (fun _ => rfl) (fun _ => rfl) (by decide) ⟨rfl, rfl, rfl, rfl⟩ ⟨major, code, fixed, trivial⟩
  · next code =>
    exact exact_ite fun fixed => exact_some 0xBC000002 [(21, 4), (16, 5)] [fin4 w 21, fin5 w 16] [(26, 6, 47), (0, 11, 2), (25, 1, 0), (11, 5, 0)]
      (fun _ => rfl) (fun _ => rfl) (by decide) ⟨rfl, rfl, rfl, rfl⟩ ⟨major, code, fixed.1, fixed.2, trivial⟩
  · exact exact_none

theorem exact_decAW30 (hq : [Seq.a, .w].contains q = true) (major : fld w 26 6 = 48) : Exact q w (decAW30 w) := by
  unfold decAW30
  exact exact_ite fun fixed => exact_some 0xC0000000 [(21, 3), (16, 5), (11, 5)] [fin3 w 21, fin5 w 16, fin5 w 11] [(26, 6, 48), (24, 2, 0), (0, 11, 0)]
      (fun _ => hq) (fun _ => rfl) (by decide) ⟨rfl, rfl, rfl, rfl, rfl⟩ ⟨major, fixed.1, fixed.2, trivial⟩

theorem exact_decX08 (major : fld w 26 6 = 8) : Exact .x w (decX08 w) := by
  unfold decX08
  split
  · next code =>
    exact exact_ite fun fixed => exact_some 0x20000000 [(16, 5), (0, 2)] [fin5 w 16, fin2 w 0] [(26, 6, 8), (2, 1, 0), (21, 5, 0), (3, 13, 0)]
      (fun _ => rfl) (fun _ => rfl) (by decide) ⟨rfl, rfl, rfl, rfl⟩ ⟨major, code, fixed.1, fixed.2, trivial⟩
  · next code =>
    exact exact_ite fun fixed => exact_some 0x20000004 [(16, 3), (0, 2)] [fin3 w 16, fin2 w 0] [(26, 6, 8), (2, 1, 1), (19, 7, 0), (3, 13, 0)]
      (fun _ => rfl) (fun _ => rfl) (by decide) ⟨rfl, rfl, rfl, rfl⟩ ⟨major, code, fixed.1, fixed.2, trivial⟩
  · exact exact_none

theorem exact_decX10 (major : fld w 26 6 = 16) : Exact .x w (decX10 w) := by
  unfold decX10
  split
  · next code =>
    exact exact_ite fun fixed => exact_some 0x40000000 [(21, 5), (16, 5), (11, 5), (8, 3), (4, 3)] [fin5 w 21, fin5 w 16, fin5 w 11, fin3 w 8, fin3 w 4] [(26, 6, 16), (0, 4, 0), (7, 1, 0)]
      (fun _ => rfl) (fun _ => rfl) (by decide) ⟨rfl, rfl, rfl, rfl, rfl, rfl, rfl⟩ ⟨major, code, fixed, trivial⟩
  · next code =>
    exact exact_ite fun fixed => exact_some 0x40000001 [(21, 5), (16, 5), (11, 5), (8, 3), (4, 3)] [fin5 w 21, fin5 w 16, fin5 w 11, fin3 w 8, fin3 w 4] [(26, 6, 16), (0, 4, 1), (7, 1, 0)]
      (fun _ => rfl) (fun _ => rfl) (by decide) ⟨rfl, rfl, rfl, rfl, rfl, rfl, rfl⟩ ⟨major, code, fixed, trivial⟩
  · next code =>
    exact exact_ite fun fixed => exact_some 0x40000002 [(21, 5), (16, 5), (11, 5), (8, 3), (4, 3)] [fin5 w 21, fin5 w 16, fin5 w 11, fin3 w 8, fin3 w 4] [(26, 6, 16), (0, 4, 2), (7, 1, 0)]
      (fun _ => rfl) (fun _ => rfl) (by decide) ⟨rfl, rfl, rfl, rfl, rfl, rfl, rfl⟩ ⟨major, code, fixed, trivial⟩
  · next code =>
    exact exact_ite fun fixed => exact_some 0x40000003 [(21, 5), (16, 5), (11, 5), (8, 3), (4, 3)] [fin5 w 21, fin5 w 16, fin5 w 11, fin3 w 8, fin3 w 4] [(26, 6, 16), (0, 4, 3), (7, 1, 0)]
      (fun _ => rfl) (fun _ => rfl) (by decide) ⟨rfl, rfl, rfl, rfl, rfl, rfl, rfl⟩ ⟨major, code, fixed, trivial⟩
  · next code =>
    exact exact_ite fun fixed => exact_some 0x40000004 [(21, 5), (16, 5), (11, 5), (8, 3), (4, 3)] [fin5 w 21, fin5 w 16, fin5 w 11, fin3 w 8, fin3 w 4] [(26, 6, 16), (0, 4, 4), (7, 1, 0)]
      (fun _ => rfl) (fun _ => rfl) (by decide) ⟨rfl, rfl, rfl, rfl, rfl, rfl, rfl⟩ ⟨major, code, fixed, trivial⟩
  · next code =>
    exact exact_ite fun fixed => exact_some 0x40000005 [(21, 5), (16, 5), (11, 5), (8, 3), (4, 3)] [fin5 w 21, fin5 w 16, fin5 w 11, fin3 w 8, fin3 w 4] [(26, 6, 16), (0, 4, 5), (7, 1, 0)]
      (fun _ => rfl) (fun _ => rfl) (by decide) ⟨rfl, rfl, rfl, rfl, rfl, rfl, rfl⟩ ⟨major, code, fixed, trivial⟩
  · next code =>
    exact exact_ite fun fixed => exact_some 0x40000006 [(21, 5), (16, 5), (11, 5), (8, 3), (4, 3)] [fin5 w 21, fin5 w 16, fin5 w 11, fin3 w 8, fin3 w 4] [(26, 6, 16), (0, 4, 6), (7, 1, 0)]
      (fun _ => rfl) (fun _ => rfl) (by decide) ⟨rfl, rfl, rfl, rfl, rfl, rfl, rfl⟩ ⟨major, code, fixed, trivial⟩
  · next code =>
    exact exact_ite fun fixed => exact_some 0x40000007 [(21, 5), (16, 5), (11, 5), (8, 3), (4, 3)] [fin5 w 21, fin5 w 16, fin5 w 11, fin3 w 8, fin3 w 4] [(26, 6, 16), (0, 4, 7), (7, 1, 0)]
      (fun _ => rfl) (fun _ => rfl) (by decide) ⟨rfl, rfl, rfl, rfl, rfl, rfl, rfl⟩ ⟨major, code, fixed, trivial⟩
  · next code =>
    exact exact_ite fun fixed => exact_some 0x40000008 [(21, 5), (16, 5), (11, 5), (8, 3), (4, 3)] [fin5 w 21, fin5 w 16, fin5 w 11, fin3 w 8, fin3 w 4] [(26, 6, 16), (0, 4, 8), (7, 1, 0)]
      (fun _ => rfl) (fun _ => rfl) (by decide) ⟨rfl, rfl, rfl, rfl, rfl, rfl, rfl⟩ ⟨major, code, fixed, trivial⟩
  · next code =>
    exact exact_ite fun fixed => exact_some 0x40000009 [(21, 5), (16, 5), (11, 5), (8, 3), (4, 3)] [fin5 w 21, fin5 w 16, fin5 w 11, fin3 w 8, fin3 w 4] [(26, 6, 16), (0, 4, 9), (7, 1, 0)]
      (fun _ => rfl) (fun _ => rfl) (by decide) ⟨rfl, rfl, rfl, rfl, rfl, rfl, rfl⟩ ⟨major, code, fixed, trivial⟩
  · next code =>
    exact exact_ite fun fixed => exact_some 0x4000000A [(21, 5), (16, 5), (11, 5), (8, 3), (4, 3)] [fin5 w 21, fin5 w 16, fin5 w 11, fin3 w 8, fin3 w 4] [(26, 6, 16), (0, 4, 10), (7, 1, 0)]
      (fun _ => rfl) (fun _ => rfl) (by decide) ⟨rfl, rfl, rfl, rfl, rfl, rfl, rfl⟩ ⟨major, code, fixed, trivial⟩
  · next code =>
    exact exact_ite fun fixed => exact_some 0x4000000B [(21, 5), (16, 5), (11, 5), (8, 3), (4, 3)] [fin5 w 21, fin5 w 16, fin5 w 11, fin3 w 8, fin3 w 4] [(26, 6, 16), (0, 4, 11), (7, 1, 0)]
      (fun _ => rfl) (fun _ => rfl) (by decide) ⟨rfl, rfl, rfl, rfl, rfl, rfl, rfl⟩ ⟨major, code, fixed, trivial⟩
  · next code =>
    exact exact_ite fun fixed => exact_some 0x4000000C [(21, 5), (16, 5), (8, 3), (4, 3)] [fin5 w 21, fin5 w 16, fin3 w 8, fin3 w 4] [(26, 6, 16), (0, 4, 12), (11, 5, 0), (7, 1, 0)]
      (fun _ => rfl) (fun _ => rfl) (by decide) ⟨rfl, rfl, rfl, rfl, rfl, rfl⟩ ⟨major, code, fixed.1, fixed.2, trivial⟩
  · next code =>
    exact exact_ite fun fixed => exact_some 0x4000000D [(21, 5), (16, 5), (8, 3), (4, 3)] [fin5 w 21, fin5 w 16, fin3 w 8, fin3 w 4] [(26, 6, 16), (0, 4, 13), (11, 5, 0), (7, 1, 0)]
      (fun _ => rfl) (fun _ => rfl) (by decide) ⟨rfl, rfl, rfl, rfl, rfl, rfl⟩ ⟨major, code, fixed.1, fixed.2, trivial⟩
  · next code =>
    exact exact_ite fun fixed => exact_some 0x4000000E [(21, 5), (16, 5), (11, 5), (8, 3), (4, 3)] [fin5 w 21, fin5 w 16, fin5 w 11, fin3 w 8, fin3 w 4] [(26, 6, 16), (0, 4, 14), (7, 1, 0)]
      (fun _ => rfl) (fun _ => rfl) (by decide) ⟨rfl, rfl, rfl, rfl, rfl, rfl, rfl⟩ ⟨major, code, fixed, trivial⟩
  · next code =>
    exact exact_ite fun fixed => exact_some 0x4000000F [(21, 5), (16, 5), (11, 5), (8, 3), (4, 3)] [fin5 w 21, fin5 w 16, fin5 w 11, fin3 w 8, fin3 w 4] [(26, 6, 16), (0, 4, 15), (7, 1, 0)]
      (fun _ => rfl) (fun _ => rfl) (by decide) ⟨rfl, rfl, rfl, rfl, rfl, rfl, rfl⟩ ⟨major, code, fixed, trivial⟩
  · exact exact_none

theorem exact_decX11 (major : fld w 26 6 = 17) : Exact .x w (decX11 w) := by
  unfold decX11
  split
  · next code =>
    exact exact_ite fun fixed => exact_some 0x44000000 [(21, 5), (16, 5), (8, 3), (4, 4)] [fin5 w 21, fin5 w 16, fin3 w 8, fin4 w 4] [(26, 6, 17), (0, 4, 0), (11, 5, 0)]
      (fun _ => rfl) (fun _ => rfl) (by decide) ⟨rfl, rfl, rfl, rfl, rfl, rfl⟩ ⟨major, code, fixed, trivial⟩
  · next code =>
    exact exact_some 0x44000001 [(21, 5), (16, 5), (11, 5), (8, 3), (4, 4)] [fin5 w 21, fin5 w 16, fin5 w 11, fin3 w 8, fin4 w 4] [(26, 6, 17), (0, 4, 1)]
      (fun _ => rfl) (fun _ => rfl) (by decide) ⟨rfl, rfl, rfl, rfl, rfl, rfl, rfl⟩ ⟨major, code, trivial⟩
  · next code =>
    exact exact_some 0x44000002 [(21, 5), (16, 5), (11, 5), (8, 3), (4, 4)] [fin5 w 21, fin5 w 16, fin5 w 11, fin3 w 8, fin4 w 4] [(26, 6, 17), (0, 4, 2)]
      (fun _ => rfl) (fun _ => rfl) (by decide) ⟨rfl, rfl, rfl, rfl, rfl, rfl, rfl⟩ ⟨major, code, trivial⟩
  · next code =>
    exact exact_some 0x44000003 [(21, 5), (16, 5), (11, 5), (8, 3), (4, 4)] [fin5 w 21, fin5 w 16, fin5 w 11, fin3 w 8, fin4 w 4] [(26, 6, 17), (0, 4, 3)]
      (fun _ => rfl) (fun _ => rfl) (by decide) ⟨rfl, rfl, rfl, rfl, rfl, rfl, rfl⟩ ⟨major, code, trivial⟩
  · next code =>
    exact exact_some 0x44000004 [(21, 5), (16, 5), (11, 5), (8, 3), (4, 4)] [fin5 w 21, fin5 w 16, fin5 w 11, fin3 w 8, fin4 w 4] [(26, 6, 17), (0, 4, 4)]
      (fun _ => rfl) (fun _ => rfl) (by decide) ⟨rfl, rfl, rfl, rfl, rfl, rfl, rfl⟩ ⟨major, code, trivial⟩
  · next code =>
    exact exact_some 0x44000005 [(21, 5), (16, 5), (11, 5), (8, 3), (4, 4)] [fin5 w 21, fin5 w 16, fin5 w 11, fin3 w 8, fin4 w 4] [(26, 6, 17), (0, 4, 5)]
      (fun _ => rfl) (fun _ => rfl) (by decide) ⟨rfl, rfl, rfl, rfl, rfl, rfl, rfl⟩ ⟨major, code, trivial⟩
  · next code =>
    exact exact_ite fun fixed => exact_some 0x44000006 [(21, 5), (16, 5), (8, 3), (4, 3)] [fin5 w 21, fin5 w 16, fin3 w 8, fin3 w 4] [(26, 6, 17), (0, 4, 6), (11, 5, 0), (7, 1, 0)]
      (fun _ => rfl) (fun _ => rfl) (by decide) ⟨rfl, rfl, rfl, rfl, rfl, rfl⟩ ⟨major, code, fixed.1, fixed.2, trivial⟩
  · next code =>
    exact exact_ite fun fixed => exact_some 0x44000007 [(21, 5), (16, 5), (8, 3), (4, 4)] [fin5 w 21, fin5 w 16, fin3 w 8, fin4 w 4] [(26, 6, 17), (0, 4, 7), (11, 5, 0)]
      (fun _ => rfl) (fun _ => rfl) (by decide) ⟨rfl, rfl, rfl, rfl, rfl, rfl⟩ ⟨major, code, fixed, trivial⟩
  · next code =>
    exact exact_ite fun fixed => exact_some 0x44000008 [(21, 5), (16, 5), (11, 5), (4, 4)] [fin5 w 21, fin5 w 16, fin5 w 11, fin4 w 4] [(26, 6, 17), (0, 4, 8), (8, 3, 0)]
      (fun _ => rfl) (fun _ => rfl) (by decide) ⟨rfl, rfl, rfl, rfl, rfl, rfl⟩ ⟨major, code, fixed, trivial⟩
  · next code =>
    exact exact_ite fun fixed => exact_some 0x44000009 [(21, 5), (16, 5), (11, 5), (4, 4)] [fin5 w 21, fin5 w 16, fin5 w 11, fin4 w 4] [(26, 6, 17), (0, 4, 9), (8, 3, 0)]
      (fun _ => rfl) (fun _ => rfl) (by decide) ⟨rfl, rfl, rfl, rfl, rfl, rfl⟩ ⟨major, code, fixed, trivial⟩
  · next code =>
    exact exact_ite fun fixed => exact_some 0x4400000A [(21, 5), (16, 5), (8, 3), (4, 4)] [fin5 w 21, fin5 w 16, fin3 w 8, fin4 w 4] [(26, 6, 17), (0, 4, 10), (11, 5, 0)]
      (fun _ => rfl) (fun _ => rfl) (by decide) ⟨rfl, rfl, rfl, rfl, rfl, rfl⟩ ⟨major, code, fixed, trivial⟩
  · next code =>
    exact exact_ite fun fixed => exact_some 0x4400000B [(21, 5), (16, 5), (8, 3), (4, 3)] [fin5 w 21, fin5 w 16, fin3 w 8, fin3 w 4] [(26, 6, 17), (0, 4, 11), (11, 5, 0), (7, 1, 0)]
      (fun _ => rfl) (fun _ => rfl) (by decide) ⟨rfl, rfl, rfl, rfl, rfl, rfl⟩ ⟨major, code, fixed.1, fixed.2, trivial⟩
  · next code =>
    exact exact_ite fun fixed => exact_some 0x4400000C [(21, 5), (16, 5), (8, 3), (4, 3)] [fin5 w 21, fin5 w 16, fin3 w 8, fin3 w 4] [(26, 6, 17), (0, 4, 12), (11, 5, 0), (7, 1, 0)]
      (fun _ => rfl) (fun _ => rfl) (by decide) ⟨rfl, rfl, rfl, rfl, rfl, rfl⟩ ⟨major, code, fixed.1, fixed.2, trivial⟩
  · exact exact_none

theorem exact_decX12 (major : fld w 26 6 = 18) : Exact .x w (decX12 w) := by
  unfold decX12
  split
  · next code =>
    exact exact_ite fun fixed => exact_some 0x48000000 [(21, 3), (16, 5), (11, 5), (8, 3), (4, 3)] [fin3 w 21, fin5 w 16, fin5 w 11, fin3 w 8, fin3 w 4] [(26, 6, 18), (0, 4, 0), (24, 2, 0), (7, 1, 0)]
      (fun _ => rfl) (fun _ => rfl) (by decide) ⟨rfl, rfl, rfl, rfl, rfl, rfl, rfl⟩ ⟨major, code, fixed.1, fixed.2, trivial⟩
  · next code =>
    exact exact_ite fun fixed => exact_some 0x48000001 [(21, 3), (16, 5), (11, 5), (8, 3), (4, 3)] [fin3 w 21, fin5 w 16, fin5 w 11, fin3 w 8, fin3 w 4] [(26, 6, 18), (0, 4, 1), (24, 2, 0), (7, 1, 0)]
      (fun _ => rfl) (fun _ => rfl) (by decide) ⟨rfl, rfl, rfl, rfl, rfl, rfl, rfl⟩ ⟨major, code, fixed.1, fixed.2, trivial⟩
  · next code =>
    exact exact_ite fun fixed => exact_some 0x48000002 [(21, 3), (16, 5), (11, 5), (8, 3), (4, 3)] [fin3 w 21, fin5 w 16, fin5 w 11, fin3 w 8, fin3 w 4] [(26, 6, 18), (0, 4, 2), (24, 2, 0), (7, 1, 0)]
      (fun _ => rfl) (fun _ => rfl) (by decide) ⟨rfl, rfl, rfl, rfl, rfl, rfl, rfl⟩ ⟨major, code, fixed.1, fixed.2, trivial⟩
  · next code =>
    exact exact_ite fun fixed => exact_some 0x48000003 [(21, 3), (16, 5), (11, 5), (8, 3), (4, 3)] [fin3 w 21, fin5 w 16, fin5 w 11, fin3 w 8, fin3 w 4] [(26, 6, 18), (0, 4, 3), (24, 2, 0), (7, 1, 0)]
      (fun _ => rfl) (fun _ => rfl) (by decide) ⟨rfl, rfl, rfl, rfl, rfl, rfl, rfl⟩ ⟨major, code, fixed.1, fixed.2, trivial⟩
  · next code =>
    exact exact_ite fun fixed => exact_some 0x48000004 [(21, 3), (16, 5), (11, 5), (8, 3), (4, 3)] [fin3 w 21, fin5 w 16, fin5 w 11, fin3 w 8, fin3 w 4] [(26, 6, 18), (0, 4, 4), (24, 2, 0), (7, 1, 0)]
      (fun _ => rfl) (fun _ => rfl) (by decide) ⟨rfl, rfl, rfl, rfl, rfl, rfl, rfl⟩ ⟨major, code, fixed.1, fixed.2, trivial⟩
  · next code =>
    exact exact_ite fun fixed => exact_some 0x48000005 [(21, 3), (16, 5), (11, 5), (8, 3), (4, 3)] [fin3 w 21, fin5 w 16, fin5 w 11, fin3 w 8, fin3 w 4] [(26, 6, 18), (0, 4, 5), (24, 2, 0), (7, 1, 0)]
      (fun _ => rfl) (fun _ => rfl) (by decide) ⟨rfl, rfl, rfl, rfl, rfl, rfl, rfl⟩ ⟨major, code, fixed.1, fixed.2, trivial⟩
  · exact exact_none

theorem exact_decX13 (major : fld w 26 6 = 19) : Exact .x w (decX13 w) := by
  unfold decX13
  split
  · next code =>
    exact exact_ite fun fixed => exact_some 0x4C000080 [(21, 5), (16, 5), (11, 5), (8, 3), (4, 1)] [fin5 w 21, fin5 w 16, fin5 w 11, fin3 w 8, fin1 w 4] [(26, 6, 19), (0, 4, 0), (5, 3, 4)]
      (fun _ => rfl) (fun _ => rfl) (by decide) ⟨rfl, rfl, rfl, rfl, rfl, rfl, rfl⟩ ⟨major, code, fixed, trivial⟩
  · next code =>
    exact exact_ite fun fixed => exact_some 0x4C000081 [(21, 5), (16, 5), (11, 5), (8, 3), (4, 1)] [fin5 w 21, fin5 w 16, fin5 w 11, fin3 w 8, fin1 w 4] [(26, 6, 19), (0, 4, 1), (5, 3, 4)]
      (fun _ => rfl) (fun _ => rfl) (by decide) ⟨rfl, rfl, rfl, rfl, rfl, rfl, rfl⟩ ⟨major, code, fixed, trivial⟩
  · next code =>
    exact exact_ite fun fixed => exact_some 0x4C000082 [(21, 5), (16, 5), (11, 5), (8, 3), (4, 1)] [fin5 w 21, fin5 w 16, fin5 w 11, fin3 w 8, fin1 w 4] [(26, 6, 19), (0, 4, 2), (5, 3, 4)]
      (fun _ => rfl) (fun _ => rfl) (by decide) ⟨rfl, rfl, rfl, rfl, rfl, rfl, rfl⟩ ⟨major, code, fixed, trivial⟩
  · next code =>
    exact exact_ite fun fixed => exact_some 0x4C000083 [(21, 5), (16, 5), (11, 5), (8, 3), (4, 1)] [fin5 w 21, fin5 w 16, fin5 w 11, fin3 w 8, fin1 w 4] [(26, 6, 19), (0, 4, 3), (5, 3, 4)]
      (fun _ => rfl) (fun _ => rfl) (by decide) ⟨rfl, rfl, rfl, rfl, rfl, rfl, rfl⟩ ⟨major, code, fixed, trivial⟩
  · next code =>
    exact exact_ite fun fixed => exact_some 0x4C000084 [(21, 5), (16, 5), (11, 5), (8, 3), (4, 1)] [fin5 w 21, fin5 w 16, fin5 w 11, fin3 w 8, fin1 w 4] [(26, 6, 19), (0, 4, 4), (5, 3, 4)]
      (fun _ => rfl) (fun _ => rfl) (by decide) ⟨rfl, rfl, rfl, rfl, rfl, rfl, rfl⟩ ⟨major, code, fixed, trivial⟩
  · next code =>
    exact exact_ite fun fixed => exact_some 0x4C000085 [(21, 5), (16, 5), (8, 3), (4, 1)] [fin5 w 21, fin5 w 16, fin3 w 8, fin1 w 4] [(26, 6, 19), (0, 4, 5), (11, 5, 0), (5, 3, 4)]
      (fun _ => rfl) (fun _ => rfl) (by decide) ⟨rfl, rfl, rfl, rfl, rfl, rfl⟩ ⟨major, code, fixed.1, fixed.2, trivial⟩
  · next code =>
    exact exact_ite fun fixed => exact_some 0x4C000086 [(21, 5), (16, 5), (8, 3), (4, 1)] [fin5 w 21, fin5 w 16, fin3 w 8, fin1 w 4] [(26, 6, 19), (0, 4, 6), (11, 5, 0), (5, 3, 4)]
      (fun _ => rfl) (fun _ => rfl) (by decide) ⟨rfl, rfl, rfl, rfl, rfl, rfl⟩ ⟨major, code, fixed.1, fixed.2, trivial⟩
  · next code =>
    exact exact_ite fun fixed => exact_some 0x4C000087 [(21, 3), (16, 5), (11, 5), (8, 3), (4, 1)] [fin3 w 21, fin5 w 16, fin5 w 11, fin3 w 8, fin1 w 4] [(26, 6, 19), (0, 4, 7), (24, 2, 0), (5, 3, 4)]
      (fun _ => rfl) (fun _ => rfl) (by decide) ⟨rfl, rfl, rfl, rfl, rfl, rfl, rfl⟩ ⟨major, code, fixed.1, fixed.2, trivial⟩
  · next code =>
    exact exact_ite fun fixed => exact_some 0x4C000088 [(21, 3), (16, 5), (11, 5), (8, 3), (4, 1)] [fin3 w 21, fin5 w 16, fin5 w 11, fin3 w 8, fin1 w 4] [(26, 6, 19), (0, 4, 8), (24, 2, 0), (5, 3, 4)]
      (fun _ => rfl) (fun _ => rfl) (by decide) ⟨rfl, rfl, rfl, rfl, rfl, rfl, rfl⟩ ⟨major, code, fixed.1, fixed.2, trivial⟩
  · next code =>
    exact exact_ite fun fixed => exact_some 0x4C000089 [(21, 3), (16, 5), (11, 5), (8, 3), (4, 1)] [fin3 w 21, fin5 w 16, fin5 w 11, fin3 w 8, fin1 w 4] [(26, 6, 19), (0, 4, 9), (24, 2, 0), (5, 3, 4)]
      (fun _ => rfl) (fun _ => rfl) (by decide) ⟨rfl, rfl, rfl, rfl, rfl, rfl, rfl⟩ ⟨major, code, fixed.1, fixed.2, trivial⟩
  · exact exact_none

theorem exact_decX14 (major : fld w 26 6 = 20) : Exact .x w (decX14 w) := by
  unfold decX14
  split
  · next code =>
    exact exact_ite fun fixed => exact_some 0x50000080 [(21, 5), (16, 5), (11, 5), (8, 3), (4, 1)] [fin5 w 21, fin5 w 16, fin5 w 11, fin3 w 8, fin1 w 4] [(26, 6, 20), (0, 4, 0), (5, 3, 4)]
      (fun _ => rfl) (fun _ => rfl) (by decide) ⟨rfl, rfl, rfl, rfl, rfl, rfl, rfl⟩ ⟨major, code, fixed, trivial⟩
  · next code =>
    exact exact_ite fun fixed => exact_some 0x50000081 [(21, 5), (16, 5), (11, 5), (8, 3), (4, 1)] [fin5 w 21, fin5 w 16, fin5 w 11, fin3 w 8, fin1 w 4] [(26, 6, 20), (0, 4, 1), (5, 3, 4)]
      (fun _ => rfl) (fun _ => rfl) (by decide) ⟨rfl, rfl, rfl, rfl, rfl, rfl, rfl⟩ ⟨major, code, fixed, trivial⟩
  · next code =>
    exact exact_ite fun fixed => exact_some 0x50000082 [(21, 5), (16, 5), (11, 5), (8, 3), (4, 1)] [fin5 w 21, fin5 w 16, fin5 w 11, fin3 w 8, fin1 w 4] [(26, 6, 20), (0, 4, 2), (5, 3, 4)]
      (fun _ => rfl) (fun _ => rfl) (by decide) ⟨rfl, rfl, rfl, rfl, rfl, rfl, rfl⟩ ⟨major, code, fixed, trivial⟩
  · next code =>
    exact exact_ite fun fixed => exact_some 0x50000083 [(21, 5), (16, 5), (11, 5), (8, 3), (4, 1)] [fin5 w 21, fin5 w 16, fin5 w 11, fin3 w 8, fin1 w 4] [(26, 6, 20), (0, 4, 3), (5, 3, 4)]
      (fun _ => rfl) (fun _ => rfl) (by decide) ⟨rfl, rfl, rfl, rfl, rfl, rfl, rfl⟩ ⟨major, code, fixed, trivial⟩
  · exact exact_none

theorem exact_decX15 (major : fld w 26 6 = 21) : Exact .x w (decX15 w) := by
  unfold decX15
  exact exact_ite fun fixed => exact_some 0x54000000 [(21, 5), (16, 5), (8, 3), (4, 4), (0, 4)] [fin5 w 21, fin5 w 16, fin3 w 8, fin4 w 4, fin4 w 0] [(26, 6, 21), (11, 5, 0)]
      (fun _ => rfl) (fun _ => rfl) (by decide) ⟨rfl, rfl, rfl, rfl, rfl, rfl, rfl⟩ ⟨major, fixed, trivial⟩

theorem exact_decX16 (major : fld w 26 6 = 22) : Exact .x w (decX16 w) := by
  unfold decX16
  split
  · next code =>
    exact exact_ite fun fixed => exact_some 0x58000090 [(21, 5), (16, 5), (11, 5), (8, 3)] [fin5 w 21, fin5 w 16, fin5 w 11, fin3 w 8] [(26, 6, 22), (0, 4, 0), (4, 4, 9)]
      (fun _ => rfl) (fun _ => rfl) (by decide) ⟨rfl, rfl, rfl, rfl, rfl, rfl⟩ ⟨major, code, fixed, trivial⟩
  · next code =>
    exact exact_ite fun fixed => exact_some 0x58000091 [(21, 5), (16, 5), (11, 5), (8, 3)] [fin5 w 21, fin5 w 16, fin5 w 11, fin3 w 8] [(26, 6, 22), (0, 4, 1), (4, 4, 9)]
      (fun _ => rfl) (fun _ => rfl) (by decide) ⟨rfl, rfl, rfl, rfl, rfl, rfl⟩ ⟨major, code, fixed, trivial⟩
  · exact exact_none

theorem exact_decX17 (major : fld w 26 6 = 23) : Exact .x w (decX17 w) := by
  unfold decX17
  split
  · next code =>
    exact exact_ite fun fixed => exact_some 0x5C000000 [(21, 5), (16, 5), (8, 3), (4, 3)] [fin5 w 21, fin5 w 16, fin3 w 8, fin3 w 4] [(26, 6, 23), (0, 4, 0), (11, 5, 0), (7, 1, 0)]
      (fun _ => rfl) (fun _ => rfl) (by decide) ⟨rfl, rfl, rfl, rfl, rfl, rfl⟩ ⟨major, code, fixed.1, fixed.2, trivial⟩
  · next code =>
    exact exact_ite fun fixed => exact_some 0x5C000081 [(21, 5), (16, 5), (8, 3), (4, 1)] [fin5 w 21, fin5 w 16, fin3 w 8, fin1 w 4] [(26, 6, 23), (0, 4, 1), (11, 5, 0), (5, 3, 4)]
      (fun _ => rfl) (fun _ => rfl) (by decide) ⟨rfl, rfl, rfl, rfl, rfl, rfl⟩ ⟨major, code, fixed.1, fixed.2, trivial⟩
  · next code =>
    exact exact_ite fun fixed => exact_some 0x5C000002 [(21, 5), (16, 5), (8, 3), (4, 3)] [fin5 w 21, fin5 w 16, fin3 w 8, fin3 w 4] [(26, 6, 23), (0, 4, 2), (11, 5, 0), (7, 1, 0)]
      (fun _ => rfl) (fun _ => rfl) (by decide) ⟨rfl, rfl, rfl, rfl, rfl, rfl⟩ ⟨major, code, fixed.1, fixed.2, trivial⟩
  · next code =>
    exact exact_ite fun fixed => exact_some 0x5C000003 [(21, 5), (16, 5), (8, 3), (4, 3)] [fin5 w 21, fin5 w 16, fin3 w 8, fin3 w 4] [(26, 6, 23), (0, 4, 3), (11, 5, 0), (7, 1, 0)]
      (fun _ => rfl) (fun _ => rfl) (by decide) ⟨rfl, rfl, rfl, rfl, rfl, rfl⟩ ⟨major, code, fixed.1, fixed.2, trivial⟩
  · next code =>
    exact exact_ite fun fixed => exact_some 0x5C000084 [(21, 5), (16, 5), (8, 3), (4, 1)] [fin5 w 21, fin5 w 16, fin3 w 8, fin1 w 4] [(26, 6, 23), (0, 4, 4), (11, 5, 0), (5, 3, 4)]
      (fun _ => rfl) (fun _ => rfl) (by decide) ⟨rfl, rfl, rfl, rfl, rfl, rfl⟩ ⟨major, code, fixed.1, fixed.2, trivial⟩
  · next code =>
    exact exact_ite fun fixed => exact_some 0x5C000085 [(21, 5), (16, 5), (8, 3), (4, 1)] [fin5 w 21, fin5 w 16, fin3 w 8, fin1 w 4] [(26, 6, 23), (0, 4, 5), (11, 5, 0), (5, 3, 4)]
      (fun _ => rfl) (fun _ => rfl) (by decide) ⟨rfl, rfl, rfl, rfl, rfl, rfl⟩ ⟨major, code, fixed.1, fixed.2, trivial⟩
  · next code =>
    exact exact_ite fun fixed => exact_some 0x5C000006 [(21, 5), (16, 5), (8, 3), (4, 3)] [fin5 w 21, fin5 w 16, fin3 w 8, fin3 w 4] [(26, 6, 23), (0, 4, 6), (11, 5, 0), (7, 1, 0)]
      (fun _ => rfl) (fun _ => rfl) (by decide) ⟨rfl, rfl, rfl, rfl, rfl, rfl⟩ ⟨major, code, fixed.1, fixed.2, trivial⟩
  · next code =>
    exact exact_ite fun fixed => exact_some 0x5C000007 [(21, 5), (16, 5), (8, 3), (4, 3)] [fin5 w 21, fin5 w 16, fin3 w 8, fin3 w 4] [(26, 6, 23), (0, 4, 7), (11, 5, 0), (7, 1, 0)]
      (fun _ => rfl) (fun _ => rfl) (by decide) ⟨rfl, rfl, rfl, rfl, rfl, rfl⟩ ⟨major, code, fixed.1, fixed.2, trivial⟩
  · exact exact_none

theorem exact_decX18 (major : fld w 26 6 = 24) : Exact .x w (decX18 w) := by
  unfold decX18
  split
  · next code =>
    exact exact_ite fun fixed => exact_some 0x60000000 [(21, 3), (16, 3), (11, 3)] [fin3 w 21, fin3 w 16, fin3 w 11] [(26, 6, 24), (0, 11, 0), (24, 2, 0), (19, 2, 0), (14, 2, 0)]
      (fun _ => rfl) (fun _ => rfl) (by decide) ⟨rfl, rfl, rfl, rfl, rfl⟩ ⟨major, code, fixed.1, fixed.2.1, fixed.2.2, trivial⟩
  · next code =>
    exact exact_ite fun fixed => exact_some 0x60000001 [(21, 3), (16, 3), (11, 3)] [fin3 w 21, fin3 w 16, fin3 w 11] [(26, 6, 24), (0, 11, 1), (24, 2, 0), (19, 2, 0), (14, 2, 0)]
      (fun _ => rfl) (fun _ => rfl) (by decide) ⟨rfl, rfl, rfl, rfl, rfl⟩ ⟨major, code, fixed.1, fixed.2.1, fixed.2.2, trivial⟩
  · next code =>
    exact exact_ite fun fixed => exact_some 0x60000002 [(21, 3), (16, 3), (11, 3)] [fin3 w 21, fin3 w 16, fin3 w 11] [(26, 6, 24), (0, 11, 2), (24, 2, 0), (19, 2, 0), (14, 2, 0)]
      (fun _ => rfl) (fun _ => rfl) (by decide) ⟨rfl, rfl, rfl, rfl, rfl⟩ ⟨major, code, fixed.1, fixed.2.1, fixed.2.2, trivial⟩
  · next code =>
    exact exact_ite fun fixed => exact_some 0x60000003 [(21, 3), (16, 3)] [fin3 w 21, fin3 w 16] [(26, 6, 24), (0, 11, 3), (24, 2, 0), (19, 2, 0), (11, 5, 0)]
      (fun _ => rfl) (fun _ => rfl) (by decide) ⟨rfl, rfl, rfl, rfl⟩ ⟨major, code, fixed.1, fixed.2.1, fixed.2.2, trivial⟩
  · next code =>
    exact exact_ite fun fixed => exact_some 0x60000004 [(21, 3)] [fin3 w 21] [(26, 6, 24), (0, 11, 4), (24, 2, 0), (11, 10, 0)]
      (fun _ => rfl) (fun _ => rfl) (by decide) ⟨rfl, rfl, rfl⟩ ⟨major, code, fixed.1, fixed.2, trivial⟩
  · next code =>
    exact exact_ite fun fixed => exact_some 0x60000005 [(21, 3)] [fin3 w 21] [(26, 6, 24), (0, 11, 5), (24, 2, 0), (11, 10, 0)]
      (fun _ => rfl) (fun _ => rfl) (by decide) ⟨rfl, rfl, rfl⟩ ⟨major, code, fixed.1, fixed.2, trivial⟩
  · next code =>
    exact exact_ite fun fixed => exact_some 0x60000006 [(21, 5), (16, 3)] [fin5 w 21, fin3 w 16] [(26, 6, 24), (0, 11, 6), (19, 2, 0), (11, 5, 0)]
      (fun _ => rfl) (fun _ => rfl) (by decide) ⟨rfl, rfl, rfl, rfl⟩ ⟨major, code, fixed.1, fixed.2, trivial⟩
  · next code =>
    exact exact_ite fun fixed => exact_some 0x60000007 [(21, 5), (16, 3)] [fin5 w 21, fin3 w 16] [(26, 6, 24), (0, 11, 7), (19, 2, 0), (11, 5, 0)]
      (fun _ => rfl) (fun _ => rfl) (by decide) ⟨rfl, rfl, rfl, rfl⟩ ⟨major, code, fixed.1, fixed.2, trivial⟩
  · exact exact_none

theorem exact_decX19 (major : fld w 26 6 = 25) : Exact .x w (decX19 w) := by
  unfold decX19
  exact exact_ite fun fixed => exact_some 0x64000000 [(21, 3), (16, 5), (11, 5), (0, 4)] [fin3 w 21, fin5 w 16, fin5 w 11, fin4 w 0] [(26, 6, 25), (24, 2, 0), (4, 7, 0)]
      (fun _ => rfl) (fun _ => rfl) (by decide) ⟨rfl, rfl, rfl, rfl, rfl, rfl⟩ ⟨major, fixed.1, fixed.2, trivial⟩

theorem exact_decX1A (major : fld w 26 6 = 26) : Exact .x w (decX1A w) := by
  unfold decX1A
  exact exact_ite fun fixed => exact_some 0x68000000 [(21, 5)] [fin5 w 21] [(26, 6, 26), (0, 21, 0)]
      (fun _ => rfl) (fun _ => rfl) (by decide) ⟨rfl, rfl, rfl⟩ ⟨major, fixed, trivial⟩

theorem exact_decX1B (major : fld w 26 6 = 27) : Exact .x w (decX1B w) := by
  unfold decX1B
  split
  · next code =>
    exact exact_ite fun fixed => exact_some 0x6C000000 [(0, 16)] [(w.extractLsb' 0 16).toNat] [(26, 6, 27), (21, 1, 0), (22, 4, 0), (16, 5, 0)]
      (fun _ => rfl) (fun _ => rfl) (by decide) ⟨toNat_extractLsb'_eq_fld .., rfl, rfl⟩ ⟨major, code, fixed.1, fixed.2, trivial⟩
  · next code =>
    exact exact_ite fun fixed => exact_some 0x6C200000 [(0, 4)] [fin4 w 0] [(26, 6, 27), (21, 1, 1), (22, 4, 0), (4, 17, 0)]
      (fun _ => rfl) (fun _ => rfl) (by decide) ⟨rfl, rfl, rfl⟩ ⟨major, code, fixed.1, fixed.2, trivial⟩
  · exact exact_none

theorem exact_decX1C (major : fld w 26 6 = 28) : Exact .x w (decX1C w) := by
  unfold decX1C
  split
  · next code =>
    exact exact_ite fun fixed => exact_some 0x70000090 [(21, 5), (16, 5), (11, 4), (8, 3)] [fin5 w 21, fin5 w 16, fin4 w 11, fin3 w 8] [(26, 6, 28), (0, 4, 0), (15, 1, 0), (4, 4, 9)]
      (fun _ => rfl) (fun _ => rfl) (by decide) ⟨rfl, rfl, rfl, rfl, rfl, rfl⟩ ⟨major, code, fixed.1, fixed.2, trivial⟩
  · next code =>
    exact exact_ite fun fixed => exact_some 0x70000091 [(21, 5), (16, 5), (11, 4), (8, 3)] [fin5 w 21, fin5 w 16, fin4 w 11, fin3 w 8] [(26, 6, 28), (0, 4, 1), (15, 1, 0), (4, 4, 9)]
      (fun _ => rfl) (fun _ => rfl) (by decide) ⟨rfl, rfl, rfl, rfl, rfl, rfl⟩ ⟨major, code, fixed.1, fixed.2, trivial⟩
  · next code =>
    exact exact_ite fun fixed => exact_some 0x70000092 [(21, 5), (16, 5), (11, 4), (8, 3)] [fin5 w 21, fin5 w 16, fin4 w 11, fin3 w 8] [(26, 6, 28), (0, 4, 2), (15, 1, 0), (4, 4, 9)]
      (fun _ => rfl) (fun _ => rfl) (by decide) ⟨rfl, rfl, rfl, rfl, rfl, rfl⟩ ⟨major, code, fixed.1, fixed.2, trivial⟩
  · next code =>
    exact exact_ite fun fixed => exact_some 0x70000093 [(21, 5), (16, 5), (11, 4), (8, 3)] [fin5 w 21, fin5 w 16, fin4 w 11, fin3 w 8] [(26, 6, 28), (0, 4, 3), (15, 1, 0), (4, 4, 9)]
      (fun _ => rfl) (fun _ => rfl) (by decide) ⟨rfl, rfl, rfl, rfl, rfl, rfl⟩ ⟨major, code, fixed.1, fixed.2, trivial⟩
  · exact exact_none

theorem exact_decX1D (major : fld w 26 6 = 29) : Exact .x w (decX1D w) := by
  unfold decX1D
  exact exact_ite fun fixed => exact_some 0x74000060 [(21, 5), (8, 3)] [fin5 w 21, fin3 w 8] [(26, 6, 29), (11, 10, 0), (0, 8, 96)]
      (fun _ => rfl) (fun _ => rfl) (by decide) ⟨rfl, rfl, rfl, rfl⟩ ⟨major, fixed.1, fixed.2, trivial⟩

theorem exact_decX1E (major : fld w 26 6 = 30) : Exact .x w (decX1E w) := by
  unfold decX1E
  split
  · next code =>
    exact exact_ite fun fixed => exact_some 0x78000000 [(21, 5)] [fin5 w 21] [(26, 6, 30), (0, 11, 0), (11, 10, 0)]
      (fun _ => rfl) (fun _ => rfl) (by decide) ⟨rfl, rfl, rfl⟩ ⟨major, code, fixed, trivial⟩
  · next code =>
    exact exact_ite fun fixed => exact_some 0x78000001 [(16, 5)] [fin5 w 16] [(26, 6, 30), (0, 11, 1), (21, 5, 0), (11, 5, 0)]
      (fun _ => rfl) (fun _ => rfl) (by decide) ⟨rfl, rfl, rfl⟩ ⟨major, code, fixed.1, fixed.2, trivial⟩
  · exact exact_none

theorem exact_decX1F (major : fld w 26 6 = 31) : Exact .x w (decX1F w) := by
  unfold decX1F
  split
  · next code =>
    exact exact_some 0x7C000000 [(21, 5), (16, 5), (14, 2), (11, 3), (8, 3), (4, 4)] [fin5 w 21, fin5 w 16, fin2 w 14, fin3 w 11, fin3 w 8, fin4 w 4] [(26, 6, 31), (0, 4, 0)]
      (fun _ => rfl) (fun _ => rfl) (by decide) ⟨rfl, rfl, rfl, rfl, rfl, rfl, rfl, rfl⟩ ⟨major, code, trivial⟩
  · next code =>
    exact exact_ite fun fixed => exact_some 0x7C000041 [(21, 5), (16, 5), (8, 3), (4, 2)] [fin5 w 21, fin5 w 16, fin3 w 8, fin2 w 4] [(26, 6, 31), (0, 4, 1), (11, 5, 0), (6, 2, 1)]
      (fun _ => rfl) (fun _ => rfl) (by decide) ⟨rfl, rfl, rfl, rfl, rfl, rfl⟩ ⟨major, code, fixed.1, fixed.2, trivial⟩
  · next code =>
    exact exact_ite fun fixed => exact_some 0x7C000002 [] [] [(26, 6, 31), (0, 4, 2), (4, 22, 0)]
      (fun _ => rfl) (fun _ => rfl) (by decide) ⟨rfl, rfl⟩ ⟨major, code, fixed, trivial⟩
  · next code =>
    exact exact_ite fun fixed => exact_some 0x7C000053 [(21, 5), (16, 5)] [fin5 w 21, fin5 w 16] [(26, 6, 31), (0, 4, 3), (4, 12, 5)]
      (fun _ => rfl) (fun _ => rfl) (by decide) ⟨rfl, rfl, rfl, rfl⟩ ⟨major, code, fixed, trivial⟩
  · next code =>
    exact exact_ite fun fixed => exact_some 0x7C000064 [(21, 5), (16, 5), (11, 3), (8, 3), (4, 1)] [fin5 w 21, fin5 w 16, fin3 w 11, fin3 w 8, fin1 w 4] [(26, 6, 31), (0, 4, 4), (14, 2, 0), (5, 3, 3)]
      (fun _ => rfl) (fun _ => rfl) (by decide) ⟨rfl, rfl, rfl, rfl, rfl, rfl, rfl⟩ ⟨major, code, fixed.1, fixed.2, trivial⟩
  · exact exact_none

theorem exact_decX20 (major : fld w 26 6 = 32) : Exact .x w (decX20 w) := by
  unfold decX20
  exact exact_ite fun fixed => exact_some 0x80000000 [(21, 5), (16, 5), (13, 3), (9, 3), (0, 9)] [fin5 w 21, fin5 w 16, fin3 w 13, fin3 w 9, (w.extractLsb' 0 9).toNat] [(26, 6, 32), (12, 1, 0)]
      (fun _ => rfl) (fun _ => rfl) (by decide) ⟨rfl, rfl, rfl, rfl, toNat_extractLsb'_eq_fld .., rfl, rfl⟩ ⟨major, fixed, trivial⟩

theorem exact_decX21 (major : fld w 26 6 = 33) : Exact .x w (decX21 w) := by
  unfold decX21
  exact exact_ite fun fixed => exact_some 0x84000000 [(21, 5), (16, 5), (13, 3), (9, 3), (0, 9)] [fin5 w 21, fin5 w 16, fin3 w 13, fin3 w 9, (w.extractLsb' 0 9).toNat] [(26, 6, 33), (12, 1, 0)]
      (fun _ => rfl) (fun _ => rfl) (by decide) ⟨rfl, rfl, rfl, rfl, toNat_extractLsb'_eq_fld .., rfl, rfl⟩ ⟨major, fixed, trivial⟩

theorem exact_decX22 (major : fld w 26 6 = 34) : Exact .x w (decX22 w) := by
  unfold decX22
  exact exact_ite fun fixed => exact_some 0x88000000 [(21, 5), (16, 5), (13, 3), (9, 3), (0, 9)] [fin5 w 21, fin5 w 16, fin3 w 13, fin3 w 9, (w.extractLsb' 0 9).toNat] [(26, 6, 34), (12, 1, 0)]
      (fun _ => rfl) (fun _ => rfl) (by decide) ⟨rfl, rfl, rfl, rfl, toNat_extractLsb'_eq_fld .., rfl, rfl⟩ ⟨major, fixed, trivial⟩

theorem exact_decX23 (major : fld w 26 6 = 35) : Exact .x w (decX23 w) := by
  unfold decX23
  exact exact_ite fun fixed => exact_some 0x8C000000 [(21, 5), (16, 5), (13, 3), (9, 3), (0, 9)] [fin5 w 21, fin5 w 16, fin3 w 13, fin3 w 9, (w.extractLsb' 0 9).toNat] [(26, 6, 35), (12, 1, 0)]
      (fun _ => rfl) (fun _ => rfl) (by decide) ⟨rfl, rfl, rfl, rfl, toNat_extractLsb'_eq_fld .., rfl, rfl⟩ ⟨major, fixed, trivial⟩

theorem exact_decX24 (major : fld w 26 6 = 36) : Exact .x w (decX24 w) := by
  unfold decX24
  exact exact_ite fun fixed => exact_some 0x90000000 [(21, 5), (13, 3), (9, 3), (0, 9)] [fin5 w 21, fin3 w 13, fin3 w 9, (w.extractLsb' 0 9).toNat] [(26, 6, 36), (16, 5, 0), (12, 1, 0)]
      (fun _ => rfl) (fun _ => rfl) (by decide) ⟨rfl, rfl, rfl, toNat_extractLsb'_eq_fld .., rfl, rfl⟩ ⟨major, fixed.1, fixed.2, trivial⟩

theorem exact_decX25 (major : fld w 26 6 = 37) : Exact .x w (decX25 w) := by
  unfold decX25
  split
  · next code =>
    exact exact_ite fun fixed => exact_some 0x94000000 [(21, 3), (14, 2), (0, 14)] [fin3 w 21, fin2 w 14, (w.extractLsb' 0 14).toNat] [(26, 6, 37), (16, 5, 0), (24, 2, 0)]
      (fun _ => rfl) (fun _ => rfl) (by decide) ⟨rfl, rfl, toNat_extractLsb'_eq_fld .., rfl, rfl⟩ ⟨major, code, fixed, trivial⟩
  · next code =>
    exact exact_ite fun fixed => exact_some 0x94010000 [(21, 3), (14, 2), (0, 14)] [fin3 w 21, fin2 w 14, (w.extractLsb' 0 14).toNat] [(26, 6, 37), (16, 5, 1), (24, 2, 0)]
      (fun _ => rfl) (fun _ => rfl) (by decide) ⟨rfl, rfl, toNat_extractLsb'_eq_fld .., rfl, rfl⟩ ⟨major, code, fixed, trivial⟩
  · next code =>
    exact exact_ite fun fixed => exact_some 0x94020000 [(21, 3), (14, 2), (0, 14)] [fin3 w 21, fin2 w 14, (w.extractLsb' 0 14).toNat] [(26, 6, 37), (16, 5, 2), (24, 2, 0)]
      (fun _ => rfl) (fun _ => rfl) (by decide) ⟨rfl, rfl, toNat_extractLsb'_eq_fld .., rfl, rfl⟩ ⟨major, code, fixed, trivial⟩
  · exact exact_none

theorem exact_decW28 (major : fld w 26 6 = 40) : Exact .w w (decW28 w) := by
  unfold decW28
  exact exact_ite fun fixed => exact_some 0xA0000000 [(16, 5), (14, 2), (10, 4), (0, 10)] [fin5 w 16, fin2 w 14, fin4 w 10, (w.extractLsb' 0 10).toNat] [(26, 6, 40), (21, 5, 0)]
      (fun _ => rfl) (fun _ => rfl) (by decide) ⟨rfl, rfl, rfl, toNat_extractLsb'_eq_fld .., rfl, rfl⟩ ⟨major, fixed, trivial⟩

theorem exact_decW29 (major : fld w 26 6 = 41) : Exact .w w (decW29 w) := by
  unfold decW29
  exact exact_ite fun fixed => exact_some 0xA4000000 [(21, 5), (16, 5), (11, 5), (6, 3), (4, 2), (0, 4)] [fin5 w 21, fin5 w 16, fin5 w 11, fin3 w 6, fin2 w 4, fin4 w 0] [(26, 6, 41), (9, 2, 0)]
      (fun _ => rfl) (fun _ => rfl) (by decide) ⟨rfl, rfl, rfl, rfl, rfl, rfl, rfl, rfl⟩ ⟨major, fixed, trivial⟩

theorem exact_decW2A (major : fld w 26 6 = 42) : Exact .w w (decW2A w) := by
  unfold decW2A
  exact exact_ite fun fixed => exact_some 0xA8000000 [(16, 5), (11, 5), (6, 3), (4, 2), (0, 4)] [fin5 w 16, fin5 w 11, fin3 w 6, fin2 w 4, fin4 w 0] [(26, 6, 42), (21, 5, 0), (9, 2, 0)]
      (fun _ => rfl) (fun _ => rfl) (by decide) ⟨rfl, rfl, rfl, rfl, rfl, rfl, rfl⟩ ⟨major, fixed.1, fixed.2, trivial⟩

theorem exact_decW2D (major : fld w 26 6 = 45) : Exact .w w (decW2D w) := by
  unfold decW2D
  exact exact_ite fun fixed => exact_some 0xB4000000 [(21, 4), (16, 5)] [fin4 w 21, fin5 w 16] [(26, 6, 45), (25, 1, 0), (0, 16, 0)]
      (fun _ => rfl) (fun _ => rfl) (by decide) ⟨rfl, rfl, rfl, rfl⟩ ⟨major, fixed.1, fixed.2, trivial⟩

theorem exact_jtab (hq : [Seq.s, .a, .x, .w].contains q = true) (major : fld w 26 6 = 6) : Exact q w (some .jtab) :=
  exact_some 0x18000000 [(21, 5), (16, 5), (0, 16)] [fin5 w 21, fin5 w 16, (w.extractLsb' 0 16).toNat] [(26, 6, 6)]
      (fun _ => hq) (fun _ => rfl) (by decide) ⟨rfl, rfl, toNat_extractLsb'_eq_fld .., rfl, rfl⟩ ⟨major, trivial⟩

theorem exact_bq (hq : [Seq.s, .a, .x, .w].contains q = true) (major : fld w 26 6 = 7) : Exact q w (some .bq) :=
  exact_some 0x1C000000 [(24, 2), (0, 24)] [fin2 w 24, (w.extractLsb' 0 24).toNat] [(26, 6, 7)]
      (fun _ => hq) (fun _ => rfl) (by decide) ⟨rfl, toNat_extractLsb'_eq_fld .., rfl, rfl⟩ ⟨major, trivial⟩

theorem exact_beq (hq : [Seq.s, .a, .x, .w].contains q = true) (major : fld w 26 6 = 9) : Exact q w (some .beq) :=
  exact_some 0x24000000 [(21, 5), (16, 5), (14, 2), (0, 14)] [fin5 w 21, fin5 w 16, fin2 w 14, (w.extractLsb' 0 14).toNat] [(26, 6, 9)]
      (fun _ => hq) (fun _ => rfl) (by decide) ⟨rfl, rfl, rfl, toNat_extractLsb'_eq_fld .., rfl, rfl⟩ ⟨major, trivial⟩

theorem exact_bne (hq : [Seq.s, .a, .x, .w].contains q = true) (major : fld w 26 6 = 10) : Exact q w (some .bne) :=
  exact_some 0x28000000 [(21, 5), (16, 5), (14, 2), (0, 14)] [fin5 w 21, fin5 w 16, fin2 w 14, (w.extractLsb' 0 14).toNat] [(26, 6, 10)]
      (fun _ => hq) (fun _ => rfl) (by decide) ⟨rfl, rfl, rfl, toNat_extractLsb'_eq_fld .., rfl, rfl⟩ ⟨major, trivial⟩

theorem exact_blt (hq : [Seq.s, .a, .x, .w].contains q = true) (major : fld w 26 6 = 11) : Exact q w (some .blt) :=
  exact_some 0x2C000000 [(21, 5), (16, 5), (14, 2), (0, 14)] [fin5 w 21, fin5 w 16, fin2 w 14, (w.extractLsb' 0 14).toNat] [(26, 6, 11)]
      (fun _ => hq) (fun _ => rfl) (by decide) ⟨rfl, rfl, rfl, toNat_extractLsb'_eq_fld .., rfl, rfl⟩ ⟨major, trivial⟩

theorem exact_bge (hq : [Seq.s, .a, .x, .w].contains q = true) (major : fld w 26 6 = 12) : Exact q w (some .bge) :=
  exact_some 0x30000000 [(21, 5), (16, 5), (14, 2), (0, 14)] [fin5 w 21, fin5 w 16, fin2 w 14, (w.extractLsb' 0 14).toNat] [(26, 6, 12)]
      (fun _ => hq) (fun _ => rfl) (by decide) ⟨rfl, rfl, rfl, toNat_extractLsb'_eq_fld .., rfl, rfl⟩ ⟨major, trivial⟩

theorem exact_bltn (hq : [Seq.s, .a, .x, .w].contains q = true) (major : fld w 26 6 = 13) : Exact q w (some .bltn) :=
  exact_some 0x34000000 [(21, 5), (16, 5), (14, 2), (0, 14)] [fin5 w 21, fin5 w 16, fin2 w 14, (w.extractLsb' 0 14).toNat] [(26, 6, 13)]
      (fun _ => hq) (fun _ => rfl) (by decide) ⟨rfl, rfl, rfl, toNat_extractLsb'_eq_fld .., rfl, rfl⟩ ⟨major, trivial⟩

theorem exact_bgen (hq : [Seq.s, .a, .x, .w].contains q = true) (major : fld w 26 6 = 14) : Exact q w (some .bgen) :=
  exact_some 0x38000000 [(21, 5), (16, 5), (14, 2), (0, 14)] [fin5 w 21, fin5 w 16, fin2 w 14, (w.extractLsb' 0 14).toNat] [(26, 6, 14)]
      (fun _ => hq) (fun _ => rfl) (by decide) ⟨rfl, rfl, rfl, toNat_extractLsb'_eq_fld .., rfl, rfl⟩ ⟨major, trivial⟩

theorem exact_addi (hq : [Seq.s, .a, .w].contains q = true) (major : fld w 26 6 = 17) : Exact q w (some .addi) :=
  exact_some 0x44000000 [(21, 5), (16, 5), (0, 16)] [fin5 w 21, fin5 w 16, (w.extractLsb' 0 16).toNat] [(26, 6, 17)]
      (fun _ => hq) (fun _ => rfl) (by decide) ⟨rfl, rfl, toNat_extractLsb'_eq_fld .., rfl, rfl⟩ ⟨major, trivial⟩

theorem exact_lih (hq : [Seq.s, .a, .w].contains q = true) (major : fld w 26 6 = 23) : Exact q w (some .lih) :=
  exact_some 0x5C000000 [(21, 5), (16, 5), (0, 16)] [fin5 w 21, fin5 w 16, (w.extractLsb' 0 16).toNat] [(26, 6, 23)]
      (fun _ => hq) (fun _ => rfl) (by decide) ⟨rfl, rfl, toNat_extractLsb'_eq_fld .., rfl, rfl⟩ ⟨major, trivial⟩

theorem exact_rowS : Exact .s w (rowS w) := by
  unfold rowS
  split
  · next major => exact exact_decSAXW01 rfl major
  · next major => exact exact_decSAXW02 rfl major
  · next major => exact exact_decSAXW03 rfl major
  · next major => exact exact_decSAXW04 rfl major
  · next major => exact exact_decSAXW05 rfl major
  · next major => exact exact_jtab rfl major
  · next major => exact exact_bq rfl major
  · next major => exact exact_decSAW08 rfl major
  · next major => exact exact_beq rfl major
  · next major => exact exact_bne rfl major
  · next major => exact exact_blt rfl major
  · next major => exact exact_bge rfl major
  · next major => exact exact_bltn rfl major
  · next major => exact exact_bgen rfl major
  · next major => exact exact_decS0F major
  · next major => exact exact_decS10 major
  · next major => exact exact_addi rfl major
  · next major =>
    exact exact_some 0x48000000 [(21, 5), (16, 5), (0, 16)] [fin5 w 21, fin5 w 16, (w.extractLsb' 0 16).toNat] [(26, 6, 18)]
      (fun _ => rfl) (fun _ => rfl) (by decide) ⟨rfl, rfl, toNat_extractLsb'_eq_fld .., rfl, rfl⟩ ⟨major, trivial⟩
  · next major =>
    exact exact_some 0x4C000000 [(21, 5), (16, 5), (0, 16)] [fin5 w 21, fin5 w 16, (w.extractLsb' 0 16).toNat] [(26, 6, 19)]
      (fun _ => rfl) (fun _ => rfl) (by decide) ⟨rfl, rfl, toNat_extractLsb'_eq_fld .., rfl, rfl⟩ ⟨major, trivial⟩
  · next major =>
    exact exact_some 0x50000000 [(21, 5), (16, 5), (0, 16)] [fin5 w 21, fin5 w 16, (w.extractLsb' 0 16).toNat] [(26, 6, 20)]
      (fun _ => rfl) (fun _ => rfl) (by decide) ⟨rfl, rfl, toNat_extractLsb'_eq_fld .., rfl, rfl⟩ ⟨major, trivial⟩
  · next major =>
    exact exact_some 0x54000000 [(21, 5), (16, 5), (0, 16)] [fin5 w 21, fin5 w 16, (w.extractLsb' 0 16).toNat] [(26, 6, 21)]
      (fun _ => rfl) (fun _ => rfl) (by decide) ⟨rfl, rfl, toNat_extractLsb'_eq_fld .., rfl, rfl⟩ ⟨major, trivial⟩
  · next major => exact exact_decSAW16 rfl major
  · next major => exact exact_lih rfl major
  · next major => exact exact_decSAW18 rfl major
  · next major => exact exact_decSAW19 rfl major
  · next major => exact exact_decS1A major
  · next major => exact exact_decS1B major
  · next major => exact exact_decS1C major
  · next major => exact exact_decS1D major
  · next major => exact exact_decS1E major
  · next major => exact exact_decS20 major
  · next major => exact exact_decS21 major
  · next major => exact exact_decS22 major
  · next major => exact exact_decS23 major
  · next major => exact exact_decS24 major
  · next major => exact exact_decS25 major
  · next major => exact exact_decS26 major
  · next major => exact exact_decS28 major
  · next major => exact exact_decS29 major
  · next major => exact exact_decS2A major
  · next major => exact exact_decS2B major
  · next major => exact exact_decS2C major
  · next major => exact exact_decS2D major
  · next major => exact exact_decS2E major
  · next major => exact exact_decS30 major
  · next major => exact exact_decS31 major
  · next major => exact exact_decS32 major
  · next major => exact exact_decS33 major
  · next major => exact exact_decS34 major
  · next major => exact exact_decS35 major
  · next major => exact exact_decS38 major
  · next major => exact exact_decS39 major
  · next major => exact exact_decS3A major
  · next major => exact exact_decS3B major
  · next major => exact exact_decS3C major
  · next major => exact exact_decS3D major
  · next major => exact exact_decS3E major
  · exact exact_none

theorem exact_rowA : Exact .a w (rowA w) := by
  unfold rowA
  split
  · next major => exact exact_decSAXW01 rfl major
  · next major => exact exact_decSAXW02 rfl major
  · next major => exact exact_decSAXW03 rfl major
  · next major => exact exact_decSAXW04 rfl major
  · next major => exact exact_decSAXW05 rfl major
  · next major => exact exact_jtab rfl major
  · next major => exact exact_bq rfl major
  · next major => exact exact_decSAW08 rfl major
  · next major => exact exact_beq rfl major
  · next major => exact exact_bne rfl major
  · next major => exact exact_blt rfl major
  · next major => exact exact_bge rfl major
  · next major => exact exact_bltn rfl major
  · next major => exact exact_bgen rfl major
  · next major => exact exact_decAXW0F rfl major
  · next major => exact exact_decAW10 rfl major
  · next major => exact exact_addi rfl major
  · next major => exact exact_decSAW16 rfl major
  · next major => exact exact_lih rfl major
  · next major => exact exact_decSAW18 rfl major
  · next major => exact exact_decSAW19 rfl major
  · next major =>
    exact exact_some 0x80000000 [(21, 5), (16, 5), (14, 2), (10, 4), (0, 10)] [fin5 w 21, fin5 w 16, fin2 w 14, fin4 w 10, (w.extractLsb' 0 10).toNat] [(26, 6, 32)]
      (fun _ => rfl) (fun _ => rfl) (by decide) ⟨rfl, rfl, rfl, rfl, toNat_extractLsb'_eq_fld .., rfl, rfl⟩ ⟨major, trivial⟩
  · next major =>
    exact exact_some 0x84000000 [(21, 5), (16, 5), (14, 2), (10, 4), (0, 10)] [fin5 w 21, fin5 w 16, fin2 w 14, fin4 w 10, (w.extractLsb' 0 10).toNat] [(26, 6, 33)]
      (fun _ => rfl) (fun _ => rfl) (by decide) ⟨rfl, rfl, rfl, rfl, toNat_extractLsb'_eq_fld .., rfl, rfl⟩ ⟨major, trivial⟩
  · next major =>
    exact exact_some 0x88000000 [(21, 5), (16, 5), (14, 2), (10, 4), (0, 10)] [fin5 w 21, fin5 w 16, fin2 w 14, fin4 w 10, (w.extractLsb' 0 10).toNat] [(26, 6, 34)]
      (fun _ => rfl) (fun _ => rfl) (by decide) ⟨rfl, rfl, rfl, rfl, toNat_extractLsb'_eq_fld .., rfl, rfl⟩ ⟨major, trivial⟩
  · next major =>
    exact exact_some 0x8C000000 [(21, 5), (16, 5), (14, 2), (10, 4), (0, 10)] [fin5 w 21, fin5 w 16, fin2 w 14, fin4 w 10, (w.extractLsb' 0 10).toNat] [(26, 6, 35)]
      (fun _ => rfl) (fun _ => rfl) (by decide) ⟨rfl, rfl, rfl, rfl, toNat_extractLsb'_eq_fld .., rfl, rfl⟩ ⟨major, trivial⟩
  · next major =>
    exact exact_some 0x90000000 [(21, 5), (16, 5), (14, 2), (10, 4), (0, 10)] [fin5 w 21, fin5 w 16, fin2 w 14, fin4 w 10, (w.extractLsb' 0 10).toNat] [(26, 6, 36)]
      (fun _ => rfl) (fun _ => rfl) (by decide) ⟨rfl, rfl, rfl, rfl, toNat_extractLsb'_eq_fld .., rfl, rfl⟩ ⟨major, trivial⟩
  · next major =>
    exact exact_some 0x94000000 [(21, 5), (16, 5), (14, 2), (10, 4), (0, 10)] [fin5 w 21, fin5 w 16, fin2 w 14, fin4 w 10, (w.extractLsb' 0 10).toNat] [(26, 6, 37)]
      (fun _ => rfl) (fun _ => rfl) (by decide) ⟨rfl, rfl, rfl, rfl, toNat_extractLsb'_eq_fld .., rfl, rfl⟩ ⟨major, trivial⟩
  · next major =>
    exact exact_some 0x98000000 [(21, 5), (16, 5), (14, 2), (10, 4), (0, 10)] [fin5 w 21, fin5 w 16, fin2 w 14, fin4 w 10, (w.extractLsb' 0 10).toNat] [(26, 6, 38)]
      (fun _ => rfl) (fun _ => rfl) (by decide) ⟨rfl, rfl, rfl, rfl, toNat_extractLsb'_eq_fld .., rfl, rfl⟩ ⟨major, trivial⟩
  · next major =>
    exact exact_some 0x9C000000 [(21, 5), (16, 5), (14, 2), (10, 4), (0, 10)] [fin5 w 21, fin5 w 16, fin2 w 14, fin4 w 10, (w.extractLsb' 0 10).toNat] [(26, 6, 39)]
      (fun _ => rfl) (fun _ => rfl) (by decide) ⟨rfl, rfl, rfl, rfl, toNat_extractLsb'_eq_fld .., rfl, rfl⟩ ⟨major, trivial⟩
  · next major => exact exact_decA28 major
  · next major => exact exact_decA29 major
  · next major => exact exact_decA2A major
  · next major =>
    exact exact_some 0xAC000000 [(21, 5), (16, 5), (14, 2), (10, 4), (0, 10)] [fin5 w 21, fin5 w 16, fin2 w 14, fin4 w 10, (w.extractLsb' 0 10).toNat] [(26, 6, 43)]
      (fun _ => rfl) (fun _ => rfl) (by decide) ⟨rfl, rfl, rfl, rfl, toNat_extractLsb'_eq_fld .., rfl, rfl⟩ ⟨major, trivial⟩
  · next major =>
    exact exact_some 0xB0000000 [(21, 5), (16, 5), (14, 2), (10, 4), (0, 10)] [fin5 w 21, fin5 w 16, fin2 w 14, fin4 w 10, (w.extractLsb' 0 10).toNat] [(26, 6, 44)]
      (fun _ => rfl) (fun _ => rfl) (by decide) ⟨rfl, rfl, rfl, rfl, toNat_extractLsb'_eq_fld .., rfl, rfl⟩ ⟨major, trivial⟩
  · next major => exact exact_decA2D major
  · next major => exact exact_decA2E major
  · next major => exact exact_decA2F major
  · next major => exact exact_decAW30 rfl major
  · exact exact_none

theorem exact_rowX : Exact .x w (rowX w) := by
  unfold rowX
  split
  · next major => exact exact_decSAXW01 rfl major
  · next major => exact exact_decSAXW02 rfl major
  · next major => exact exact_decSAXW03 rfl major
  · next major => exact exact_decSAXW04 rfl major
  · next major => exact exact_decSAXW05 rfl major
  · next major => exact exact_jtab rfl major
  · next major => exact exact_bq rfl major
  · next major => exact exact_decX08 major
  · next major => exact exact_beq rfl major
  · next major => exact exact_bne rfl major
  · next major => exact exact_blt rfl major
  · next major => exact exact_bge rfl major
  · next major => exact exact_bltn rfl major
  · next major => exact exact_bgen rfl major
  · next major => exact exact_decAXW0F rfl major
  · next major => exact exact_decX10 major
  · next major => exact exact_decX11 major
  · next major => exact exact_decX12 major
  · next major => exact exact_decX13 major
  · next major => exact exact_decX14 major
  · next major => exact exact_decX15 major
  · next major => exact exact_decX16 major
  · next major => exact exact_decX17 major
  · next major => exact exact_decX18 major
  · next major => exact exact_decX19 major
  · next major => exact exact_decX1A major
  · next major => exact exact_decX1B major
  · next major => exact exact_decX1C major
  · next major => exact exact_decX1D major
  · next major => exact exact_decX1E major
  · next major => exact exact_decX1F major
  · next major => exact exact_decX20 major
  · next major => exact exact_decX21 major
  · next major => exact exact_decX22 major
  · next major => exact exact_decX23 major
  · next major => exact exact_decX24 major
  · next major => exact exact_decX25 major
  · exact exact_none

theorem exact_rowW : Exact .w w (rowW w) := by
  unfold rowW
  split
  · next major => exact exact_decSAXW01 rfl major
  · next major => exact exact_decSAXW02 rfl major
  · next major => exact exact_decSAXW03 rfl major
  · next major => exact exact_decSAXW04 rfl major
  · next major => exact exact_decSAXW05 rfl major
  · next major => exact exact_jtab rfl major
  · next major => exact exact_bq rfl major
  · next major => exact exact_decSAW08 rfl major
  · next major => exact exact_beq rfl major
  · next major => exact exact_bne rfl major
  · next major => exact exact_blt rfl major
  · next major => exact exact_bge rfl major
  · next major => exact exact_bltn rfl major
  · next major => exact exact_bgen rfl major
  · next major => exact exact_decAXW0F rfl major
  · next major => exact exact_decAW10 rfl major
  · next major => exact exact_addi rfl major
  · next major => exact exact_decSAW16 rfl major
  · next major => exact exact_lih rfl major
  · next major => exact exact_decSAW18 rfl major
  · next major => exact exact_decSAW19 rfl major
  · next major =>
    exact exact_some 0x80000000 [(21, 5), (16, 5), (14, 2), (10, 4), (0, 10)] [fin5 w 21, fin5 w 16, fin2 w 14, fin4 w 10, (w.extractLsb' 0 10).toNat] [(26, 6, 32)]
      (fun _ => rfl) (fun _ => rfl) (by decide) ⟨rfl, rfl, rfl, rfl, toNat_extractLsb'_eq_fld .., rfl, rfl⟩ ⟨major, trivial⟩
  · next major =>
    exact exact_some 0x84000000 [(21, 5), (16, 5), (14, 2), (10, 4), (0, 10)] [fin5 w 21, fin5 w 16, fin2 w 14, fin4 w 10, (w.extractLsb' 0 10).toNat] [(26, 6, 33)]
      (fun _ => rfl) (fun _ => rfl) (by decide) ⟨rfl, rfl, rfl, rfl, toNat_extractLsb'_eq_fld .., rfl, rfl⟩ ⟨major, trivial⟩
  · next major =>
    exact exact_some 0x88000000 [(21, 5), (16, 5), (14, 2), (10, 4), (0, 10)] [fin5 w 21, fin5 w 16, fin2 w 14, fin4 w 10, (w.extractLsb' 0 10).toNat] [(26, 6, 34)]
      (fun _ => rfl) (fun _ => rfl) (by decide) ⟨rfl, rfl, rfl, rfl, toNat_extractLsb'_eq_fld .., rfl, rfl⟩ ⟨major, trivial⟩
  · next major =>
    exact exact_some 0x8C000000 [(21, 5), (16, 5), (14, 2), (10, 4), (0, 10)] [fin5 w 21, fin5 w 16, fin2 w 14, fin4 w 10, (w.extractLsb' 0 10).toNat] [(26, 6, 35)]
      (fun _ => rfl) (fun _ => rfl) (by decide) ⟨rfl, rfl, rfl, rfl, toNat_extractLsb'_eq_fld .., rfl, rfl⟩ ⟨major, trivial⟩
  · next major =>
    exact exact_some 0x9C000000 [(21, 5), (16, 5), (14, 2), (10, 4), (0, 10)] [fin5 w 21, fin5 w 16, fin2 w 14, fin4 w 10, (w.extractLsb' 0 10).toNat] [(26, 6, 39)]
      (fun _ => rfl) (fun _ => rfl) (by decide) ⟨rfl, rfl, rfl, rfl, toNat_extractLsb'_eq_fld .., rfl, rfl⟩ ⟨major, trivial⟩
  · next major => exact exact_decW28 major
  · next major => exact exact_decW29 major
  · next major => exact exact_decW2A major
  · next major =>
    exact exact_some 0xAC000000 [(21, 5), (16, 5), (14, 2), (10, 4), (0, 10)] [fin5 w 21, fin5 w 16, fin2 w 14, fin4 w 10, (w.extractLsb' 0 10).toNat] [(26, 6, 43)]
      (fun _ => rfl) (fun _ => rfl) (by decide) ⟨rfl, rfl, rfl, rfl, toNat_extractLsb'_eq_fld .., rfl, rfl⟩ ⟨major, trivial⟩
  · next major =>
    exact exact_some 0xB0000000 [(21, 5), (16, 5), (14, 2), (10, 4), (0, 10)] [fin5 w 21, fin5 w 16, fin2 w 14, fin4 w 10, (w.extractLsb' 0 10).toNat] [(26, 6, 44)]
      (fun _ => rfl) (fun _ => rfl) (by decide) ⟨rfl, rfl, rfl, rfl, toNat_extractLsb'_eq_fld .., rfl, rfl⟩ ⟨major, trivial⟩
  · next major => exact exact_decW2D major
  · next major => exact exact_decAW30 rfl major
  · exact exact_none

theorem exact_rowOf : Exact q w (rowOf q w) := by
  cases q with
  | s => exact exact_rowS
  | a => exact exact_rowA
  | x => exact exact_rowX
  | w => exact exact_rowW

end

theorem row_of_decode {q : Seq} {w k : BitVec 32} {i : Instr} (h : decode q w k = some i) :
    ∃ r, rowOf q w = some r ∧ r.build w k = i := Option.map_eq_some_iff.mp h

/-- The rows of the two long majors (R30, R105, R230). -/
theorem long_row {q : Seq} {w : BitVec 32} {r : Row} (l : isLong q w = true) (h : rowOf q w = some r) : r = .li ∨ r = .mcfg := by
  simp only [isLong, Bool.or_eq_true, Bool.and_eq_true, beq_iff_eq, bne_iff_ne] at l
  rcases l with ⟨hq, major⟩ | ⟨rfl, major⟩
  · have row : rowOf q w = decSAW19 w := by
      cases q with
      | x => exact absurd rfl hq
      | s | a | w => simp only [rowOf, rowS, rowA, rowW, major]
    rw [row, decSAW19] at h
    split at h
    · exact .inl (Option.some.inj h).symm
    · cases h
  · simp only [rowOf, rowS, major, decS28] at h
    split at h
    · exact .inr (Option.some.inj h).symm
    · cases h

theorem encodeInvertsDecode : Claims.EncodeInvertsDecode := by
  intro q w k i h
  obtain ⟨r, row, rfl⟩ := row_of_decode h
  obtain ⟨word, seq⟩ := exact_rowOf r row k
  refine ⟨word, fun l => ?_, List.contains_iff_mem.mp seq⟩
  rcases long_row l row with rfl | rfl <;> rfl

theorem reservedMajorsDoNotDecode : Claims.ReservedMajorsDoNotDecode := by
  intro q w k h
  have row : rowOf q w = none := by
    rcases h with major | major
    · have major : fld w 26 6 = 0 := by rw [fld, major]; rfl
      cases q <;> simp only [rowOf, rowS, rowA, rowX, rowW, major]
    · have major : fld w 26 6 = 63 := by rw [fld, major]; rfl
      cases q <;> simp only [rowOf, rowS, rowA, rowX, rowW, major]
  rw [decode, row]
  rfl

/-- Settles O3: the bits that a row does not read as operands are its fixed bits, so its instruction has no other word. -/
theorem decodingIsExact : Obligations.DecodingIsExact := ⟨encodeInvertsDecode, reservedMajorsDoNotDecode⟩

end Sys2Proof
end

section
/-! SUPPORT. The words that the spec writes out, the state after reset, and what a slot executes (02_lines.md, 16_module.md). -/

namespace Sys2Proof.Machine

open Sys2Proof

/-- Settles O1: the words are evaluated. -/
theorem specWordsDecode : Obligations.SpecWordsDecode := by
  unfold Obligations.SpecWordsDecode
  decide

theorem stroke_reset (n : NibId) (k : Fin 8) : State.reset.stroke n k = Stroke.reset := Vector.getElem_replicate ..

theorem parts_reset (p : Fin 16) : State.reset.parts[p] = Part.reset := Vector.getElem_replicate ..

/-- Settles O8: no nib is listed at reset, so each stands as `Nib.reset`, and every stroke and partition is a copy of one. -/
theorem resetValues : Obligations.ResetValues := by
  refine ⟨fun n k => ?_, fun n k x => ?_, fun n => ⟨rfl, rfl⟩, fun p => ?_, rfl, rfl⟩
  · rw [stroke_reset]
    exact ⟨rfl, rfl, rfl, rfl, rfl, rfl, rfl, rfl⟩
  · rw [stroke_reset]
    exact Vector.getElem_replicate ..
  · rw [parts_reset]
    exact ⟨rfl, rfl, fun e => congrArg Pub.pages (Vector.getElem_replicate ..)⟩

namespace State

/-! ## The word that issues (R30 to R35) -/

theorem mem_modSeq (s : State) (q : Seq) (f : SeqSt → SeqSt) : (s.modSeq q f).mem = s.mem := by
  unfold modSeq; split
  · rfl
  · split <;> rfl

theorem cur_modSeq (s : State) (q : Seq) (f : SeqSt → SeqSt) : (s.modSeq q f).cur = s.cur := by
  unfold modSeq; split
  · rfl
  · split <;> rfl

theorem regs_modSeq (s : State) (q : Seq) (f : SeqSt → SeqSt) : (s.modSeq q f).ctx.r = s.ctx.r := by
  unfold modSeq; split
  · simp
  · split <;> simp

/-- A search that ends at a word leaves memory, the place of the slot, the registers and the effects in flight alone. -/
theorem fetch_word {s t : State} (h : s.fetch = .word t) :
    t.mem = s.mem ∧ t.cur = s.cur ∧ t.ctx.r = s.ctx.r ∧ t.ctx.inflight = s.ctx.inflight := by
  unfold fetch at h
  simp only at h
  split at h
  · cases h
  · split at h
    · cases h; exact ⟨rfl, rfl, rfl, rfl⟩
    · split at h
      · split at h
        · cases h
          exact ⟨mem_modSeq .., cur_modSeq .., regs_modSeq .., inflight_modSeq ..⟩
        · cases h
      · cases h

end State

/-- Running the row that has been found is executing what the word decodes to. -/
theorem runRow_of_wf {r : Row} {w k : BitVec 32} {s : State} (h : (r.build w k).wf = true) :
    runRow r w k s = exec (r.build w k) s := by
  rw [runRow, if_pos h]

theorem runRow_of_not_wf {r : Row} {w k : BitVec 32} {s : State} (h : (r.build w k).wf = false) :
    runRow r w k s = exec (.illegalOnDecode w) s := by
  rw [runRow, if_neg (by simp [h])]

/-- A slot whose sequencer may issue executes what the word at which its search ends decodes to. -/
theorem stepSlot_of_decode {s t : State} {i : Instr} (may : s.mayIssue = true) (f : s.fetch = .word t)
    (d : decode t.cur.q t.word (t.code (t.pc.toNat + 4)) = some i) (wf : i.wf = true) : s.stepSlot = exec i t := by
  obtain ⟨r, row, rfl⟩ := row_of_decode d
  simp only [State.stepSlot, may, f, row, if_true, runRow_of_wf wf]

/-- A word that decodes to nothing, or holds a reserved value, is refused. -/
theorem stepSlot_of_refused {s t : State} (may : s.mayIssue = true) (f : s.fetch = .word t)
    (d : decode t.cur.q t.word (t.code (t.pc.toNat + 4)) = none ∨
      ∃ i, decode t.cur.q t.word (t.code (t.pc.toNat + 4)) = some i ∧ i.wf = false) :
    s.stepSlot = exec (.illegalOnDecode t.word) t := by
  rcases d with none | ⟨i, d, wf⟩
  · have row : rowOf t.cur.q t.word = Option.none := Option.map_eq_none_iff.mp none
    simp only [State.stepSlot, may, f, row, if_true]
  · obtain ⟨r, row, rfl⟩ := row_of_decode d
    simp only [State.stepSlot, may, f, row, if_true, runRow_of_not_wf wf]

/-- Settles O4: the slot runs `stepSlot`, whose search ends at `t` with the memory and the place of `s`. -/
theorem stepRunsTheDecodedWord : Obligations.StepRunsTheDecodedWord := by
  intro s n ns q phase u wordAt
  have step_eq : step s = u.stepSlot := by simp only [step, phase]; rfl
  refine ⟨rfl, rfl, fun _ lost checked => ?_, fun may t f => ?_⟩
  · have lost : (u.seqSt u.cur.q).lost = 0 := lost
    have checked : (u.seqSt u.cur.q).checked = true := checked
    simp only [State.fetch, lost, checked, if_true, Nat.lt_irrefl, if_false]
  · obtain ⟨mem, cur, regs, inflight⟩ := State.fetch_word f
    have word (a : Nat) : t.code a = wordAt a := by
      rw [State.code, State.wellWord, mem, cur]; rfl
    have seq : t.cur.q = q := by rw [cur]; rfl
    refine ⟨mem, cur, regs, inflight, fun i d wf => ?_, fun d => ?_⟩
    · exact step_eq.trans (stepSlot_of_decode may f (by rw [seq, State.word, word, word]; exact d) wf)
    · refine step_eq.trans ((stepSlot_of_refused may f ?_).trans ?_)
      · rw [seq, State.word, word, word]; exact d
      · rw [State.word, word]

end Sys2Proof.Machine
end

section
/-! SUPPORT. The canonical form of the byte stores, through every operation (00_scope.md R4, 06_memory.md R140): each lemma says
of one function of the model that it keeps `Good`, and the rule of a write to memory is the only one that looks inside a store. -/

namespace Sys2Proof.Machine

open Sys2Proof State

/-- Under the assumption `C` the byte stores of the state are in canonical form. -/
structure Good (C : Prop) (s : State) : Prop where
  canonical : C → s.Canonical

/-- The answer is a next state, whose byte stores are in canonical form under the assumption `C`. -/
def Next (C : Prop) (r : Res) : Prop := ∃ t, r = .next t ∧ Good C t

section
variable {C : Prop}

theorem next_mk {t : State} (h : Good C t) : Next C (.next t) := ⟨t, rfl, h⟩

/-- The stores are all that the canonical form speaks of. -/
theorem good_of_eq {s t : State} (h : Good C s) (mem : t.mem = s.mem) (host : t.hostMem = s.hostMem)
    (window : t.modu.window = s.modu.window) (flash : t.modu.flash = s.modu.flash) : Good C t := by
  refine ⟨fun c => ?_⟩
  obtain ⟨h1, h2, h3, h4⟩ := h.canonical c
  exact ⟨mem ▸ h1, host ▸ h2, window ▸ h3, flash ▸ h4⟩

/-- A state with the same stores, whatever stands in its other fields. -/
theorem good_mk {s : State} (h : Good C s) {cycle phase cur turn nibs folios parts vfs launches bonnet full stamps saved ops agenda fresh nextId} :
    Good C ⟨cycle, phase, cur, turn, nibs, folios, parts, vfs, launches, s.modu, bonnet, s.mem, s.hostMem, full, stamps, saved, ops,
      agenda, fresh, nextId⟩ := good_of_eq h rfl rfl rfl rfl

/-- A write to module memory keeps its canonical form. -/
theorem good_write {s : State} (h : Good C s) (a k x : Nat) {cycle phase cur turn nibs folios parts vfs launches bonnet full stamps saved ops agenda fresh nextId} :
    Good C ⟨cycle, phase, cur, turn, nibs, folios, parts, vfs, launches, s.modu, bonnet, Memory.write s.mem a k x, s.hostMem, full, stamps, saved, ops,
      agenda, fresh, nextId⟩ := by
  refine ⟨fun c => ?_⟩
  obtain ⟨h1, h2, h3, h4⟩ := h.canonical c
  exact ⟨Memory.wf_write _ _ _ _ h1, h2, h3, h4⟩

/-- What every step of a fold keeps, the fold keeps. -/
theorem good_foldl {α : Type} {f : State → α → State} (l : List α) (h : ∀ s x, Good C s → Good C (f s x)) {s : State} (hs : Good C s) :
    Good C (l.foldl f s) := by
  induction l generalizing s with
  | nil => exact hs
  | cons x l ih => exact ih (h _ _ hs)

theorem good_foldl_snd {α β : Type} {f : β × State → α → β × State} (l : List α) (h : ∀ a x, Good C a.2 → Good C (f a x).2) {a : β × State}
    (ha : Good C a.2) : Good C (l.foldl f a).2 := by
  induction l generalizing a with
  | nil => exact ha
  | cons x l ih => exact ih (h _ _ ha)

/-- Both branches are good. -/
theorem good_ite {p : Prop} [Decidable p] {s t : State} (hs : Good C s) (ht : Good C t) : Good C (if p then s else t) := by
  split
  · exact hs
  · exact ht

theorem good_ite_snd {α : Type} {p : Prop} [Decidable p] {s t : α × State} (hs : Good C s.2) (ht : Good C t.2) :
    Good C (if p then s else t).2 := by
  split
  · exact hs
  · exact ht

theorem next_ite {p : Prop} [Decidable p] {r u : Res} (hr : Next C r) (hu : Next C u) : Next C (if p then r else u) := by
  split
  · exact hr
  · exact hu

theorem good_getD {s : State} {o : Option State} (hs : Good C s) (ho : ∀ t, o = some t → Good C t) : Good C (o.getD s) := by
  cases o with
  | none => exact hs
  | some t => exact ho t rfl

/-- What is read from elsewhere, with the state as it was, or by a read of the state. -/
theorem good_rd {α : Type} {p : Prop} [Decidable p] {x : α} {s : State} {t : α × State} {o : Option (α × State)} (ho : ∀ u, o = some u → Good C u.2)
    (hs : Good C s) (h : (if p then some (x, s) else o) = some t) : Good C t.2 := by
  split at h
  · cases h
    exact hs
  · exact ho _ h

theorem good_wr {p : Prop} [Decidable p] {s t : State} {o : Option State} (ho : ∀ u, o = some u → Good C u)
    (hs : Good C s) (h : (if p then some s else o) = some t) : Good C t := by
  split at h
  · cases h
    exact hs
  · exact ho _ h

/-- A pair that is taken apart. -/
theorem good_snd {α : Type} {p : α × State} {x : α} {t : State} (h : p = (x, t)) (g : Good C p.2) : Good C t := by
  subst h; exact g

theorem good_snd_snd {α β : Type} {p : α × β × State} {x : α} {y : β} {t : State} (h : p = (x, y, t)) (g : Good C p.2.2) : Good C t := by
  subst h; exact g

theorem good_setNib {s : State} (hs : Good C s) (n : NibId) (x : Nib) :
    Good C (State.setNib s n x) := by
  unfold State.setNib
  grind [good_mk]

theorem good_modNib {s : State} (hs : Good C s) (n : NibId) (f : Nib → Nib) :
    Good C (State.modNib s n f) := by
  unfold State.modNib
  grind [good_mk, good_setNib]

theorem good_modStroke {s : State} (hs : Good C s) (n : NibId) (k : Fin 8) (f : Stroke → Stroke) :
    Good C (State.modStroke s n k f) := by
  unfold State.modStroke
  grind [good_mk, good_modNib]

theorem good_modCtxAt {s : State} (hs : Good C s) (n : NibId) (k : Fin 8) (f : Ctx → Ctx) :
    Good C (State.modCtxAt s n k f) := by
  unfold State.modCtxAt
  grind [good_mk, good_modStroke]

theorem good_modCtx {s : State} (hs : Good C s) (f : Ctx → Ctx) :
    Good C (State.modCtx s f) := by
  unfold State.modCtx
  grind [good_mk, good_modCtxAt]

theorem good_keepOld {s : State} (hs : Good C s) (a : Nat) (y0 : Nat) :
    Good C (State.keepOld s a y0) := by
  induction y0 generalizing s a with
  | zero => exact hs
  | succ n ih => exact ih (by split <;> exact good_of_eq hs rfl rfl rfl rfl) _

theorem good_wellWrite {s : State} (hs : Good C s) (off : Nat) (n : Nat) (x : Nat) :
    Good C (State.wellWrite s off n x) := by
  unfold State.wellWrite
  grind [good_mk, good_write, good_keepOld]

theorem good_modSeq {s : State} (hs : Good C s) (q : Seq) (f : SeqSt → SeqSt) :
    Good C (State.modSeq s q f) := by
  unfold State.modSeq
  grind [good_mk, good_modCtx]

theorem good_setLc {s : State} (hs : Good C s) (x : Clk) :
    Good C (State.setLc s x) := by
  unfold State.setLc
  grind [good_mk, good_modSeq]

theorem good_land {s : State} (hs : Good C s) (lat : Nat) (e : Eff) :
    Good C (State.land s lat e) := by
  unfold State.land
  grind [good_mk, good_modCtx]

theorem good_landG {s : State} (hs : Good C s) (lat : Nat) (d : Fin 32) (x : Word) :
    Good C (State.landG s lat d x) := by
  unfold State.landG
  grind [good_mk, good_land]

theorem good_landEv {s : State} (hs : Good C s) (e : BitVec 8) :
    Good C (State.landEv s e) := by
  unfold State.landEv
  grind [good_mk, good_land]

theorem good_landV {s : State} (hs : Good C s) (lat : Nat) (d : Fin 32) (x : Vec) :
    Good C (State.landV s lat d x) := by
  unfold State.landV
  grind [good_mk, good_land]

theorem good_landP {s : State} (hs : Good C s) (lat : Nat) (d : Fin 8) (x : Pred) :
    Good C (State.landP s lat d x) := by
  unfold State.landP
  grind [good_mk, good_land]

theorem good_undoReturn {s : State} (hs : Good C s) :
    Good C (State.undoReturn s) := by
  unfold State.undoReturn
  grind [good_mk, good_modCtx]

theorem good_raiseAt {s : State} (hs : Good C s) (cause : BitVec 8) (val : Word) (at_ : Word) :
    Good C (State.raiseAt s cause val at_) := by
  unfold State.raiseAt
  grind [good_mk, good_modStroke, good_undoReturn, good_modCtx]

theorem good_raise {s : State} (hs : Good C s) (cause : BitVec 8) (val : Word) :
    Good C (State.raise s cause val) := by
  unfold State.raise
  grind [good_mk, good_raiseAt]

theorem good_illegal {s : State} (hs : Good C s) :
    Good C (State.illegal s) := by
  unfold State.illegal
  grind [good_mk, good_raise]

theorem good_waitMsg {s : State} (hs : Good C s) :
    Good C (State.waitMsg s) := by
  unfold State.waitMsg
  grind [good_mk]

theorem good_waitMem {s : State} (hs : Good C s) :
    Good C (State.waitMem s) := by
  unfold State.waitMem
  grind [good_mk]

theorem good_markIssued {s : State} (hs : Good C s) :
    Good C (State.markIssued s) := by
  unfold State.markIssued
  grind [good_mk]

theorem good_goTo {s : State} (hs : Good C s) (f : Found) (extra : Nat) :
    Good C (State.goTo s f extra) := by
  unfold State.goTo
  grind [good_mk, good_modSeq]

theorem good_retire {s : State} (hs : Good C s) :
    Good C (State.retire s) := by
  unfold State.retire
  grind [good_mk, good_goTo, good_markIssued]

theorem good_guarded {s : State} (hs : Good C s) (srcs : List RegRef) (dsts : List RegRef) (long : Bool) {body : State → State} (hbody : ∀ x0, Good C x0 → Good C (body x0)) :
    Next C (State.guarded s srcs dsts long body) := by
  unfold State.guarded
  grind [next_mk, good_mk, good_raise]

theorem good_simple {s : State} (hs : Good C s) (srcs : List RegRef) (dsts : List RegRef) {body : State → State} (hbody : ∀ x0, Good C x0 → Good C (body x0)) :
    Next C (State.simple s srcs dsts body) := by
  unfold State.simple
  grind [next_mk, good_mk, good_guarded, good_retire]

theorem good_freshNum {s : State} (hs : Good C s) :
    Good C (State.freshNum s).2 := by
  unfold State.freshNum
  grind [good_mk]

theorem good_newId {s : State} (hs : Good C s) :
    Good C (State.newId s).2 := by
  unfold State.newId
  grind [good_mk]

theorem good_schedule {s : State} (hs : Good C s) (c : Nat) (i : Instr) :
    Good C (State.schedule s c i) := by
  unfold State.schedule
  grind [good_mk]

theorem good_freeCycle {s : State} (hs : Good C s) (lo : Nat) (hi : Option Nat) :
    Good C (State.freeCycle s lo hi).2 := by
  unfold State.freeCycle
  grind [good_mk, good_freshNum]

theorem good_postInc {s : State} (hs : Good C s) (a : Fin 32) (m : Fin 4) (i : BitVec 10) (size : Nat) :
    Good C (State.postInc s a m i size) := by
  unfold State.postInc
  grind [good_mk, good_landG]

theorem good_alu2 {s : State} (hs : Good C s) (lat : Nat) (d : Fin 32) (a : Fin 32) (b : Fin 32) (f : Word → Word → Word) :
    Next C (State.alu2 s lat d a b f) := by
  unfold State.alu2
  grind [next_mk, good_mk, good_simple, good_landG]

theorem good_alu1 {s : State} (hs : Good C s) (d : Fin 32) (a : Fin 32) (f : Word → Word) :
    Next C (State.alu1 s d a f) := by
  unfold State.alu1
  grind [next_mk, good_mk, good_simple, good_landG]

theorem good_alu3 {s : State} (hs : Good C s) (d : Fin 32) (a : Fin 32) (b : Fin 32) (f : Word → Word → Word → Word) :
    Next C (State.alu3 s d a b f) := by
  unfold State.alu3
  grind [next_mk, good_mk, good_simple, good_landG]

theorem good_divide {s : State} (hs : Good C s) (d : Fin 32) (a : Fin 32) (b : Fin 32) (signed : Bool) (rem : Bool) :
    Next C (State.divide s d a b signed rem) := by
  unfold State.divide
  grind [next_mk, good_mk, good_guarded, good_illegal, good_retire, good_landEv, good_land]

theorem good_fpResult {s : State} (hs : Good C s) (lat : Nat) (d : Fin 32) (r : Nat × Ev) :
    Good C (State.fpResult s lat d r) := by
  unfold State.fpResult
  grind [good_mk, good_retire, good_landEv, good_landG]

theorem good_fp2 {s : State} (hs : Good C s) (d : Fin 32) (a : Fin 32) (b : Fin 32) (f : Nat → Nat → Nat × Ev) :
    Next C (State.fp2 s d a b f) := by
  unfold State.fp2
  grind [next_mk, good_mk, good_guarded, good_fpResult]

theorem good_fpCmp {s : State} (hs : Good C s) (d : Fin 32) (a : Fin 32) (b : Fin 32) (op : Nat) :
    Next C (State.fpCmp s d a b op) := by
  unfold State.fpCmp
  grind [next_mk, good_mk, good_guarded, good_retire, good_landEv, good_landG]

theorem good_execAdd (d : Fin 32) (a : Fin 32) (b : Fin 32) {s : State} (hs : Good C s) :
    Next C (execAdd d a b s) := by
  unfold execAdd
  grind [next_mk, good_mk, good_alu2]

theorem good_execSub (d : Fin 32) (a : Fin 32) (b : Fin 32) {s : State} (hs : Good C s) :
    Next C (execSub d a b s) := by
  unfold execSub
  grind [next_mk, good_mk, good_alu2]

theorem good_execMul (d : Fin 32) (a : Fin 32) (b : Fin 32) {s : State} (hs : Good C s) :
    Next C (execMul d a b s) := by
  unfold execMul
  grind [next_mk, good_mk, good_alu2]

theorem good_execMulh (d : Fin 32) (a : Fin 32) (b : Fin 32) {s : State} (hs : Good C s) :
    Next C (execMulh d a b s) := by
  unfold execMulh
  grind [next_mk, good_mk, good_alu2]

theorem good_execMulhn (d : Fin 32) (a : Fin 32) (b : Fin 32) {s : State} (hs : Good C s) :
    Next C (execMulhn d a b s) := by
  unfold execMulhn
  grind [next_mk, good_mk, good_alu2]

theorem good_execDiv (d : Fin 32) (a : Fin 32) (b : Fin 32) {s : State} (hs : Good C s) :
    Next C (execDiv d a b s) := by
  unfold execDiv
  grind [next_mk, good_mk, good_divide]

theorem good_execDivn (d : Fin 32) (a : Fin 32) (b : Fin 32) {s : State} (hs : Good C s) :
    Next C (execDivn d a b s) := by
  unfold execDivn
  grind [next_mk, good_mk, good_divide]

theorem good_execRem (d : Fin 32) (a : Fin 32) (b : Fin 32) {s : State} (hs : Good C s) :
    Next C (execRem d a b s) := by
  unfold execRem
  grind [next_mk, good_mk, good_divide]

theorem good_execRemn (d : Fin 32) (a : Fin 32) (b : Fin 32) {s : State} (hs : Good C s) :
    Next C (execRemn d a b s) := by
  unfold execRemn
  grind [next_mk, good_mk, good_divide]

theorem good_execAnd (d : Fin 32) (a : Fin 32) (b : Fin 32) {s : State} (hs : Good C s) :
    Next C (execAnd d a b s) := by
  unfold execAnd
  grind [next_mk, good_mk, good_alu2]

theorem good_execOr (d : Fin 32) (a : Fin 32) (b : Fin 32) {s : State} (hs : Good C s) :
    Next C (execOr d a b s) := by
  unfold execOr
  grind [next_mk, good_mk, good_alu2]

theorem good_execXor (d : Fin 32) (a : Fin 32) (b : Fin 32) {s : State} (hs : Good C s) :
    Next C (execXor d a b s) := by
  unfold execXor
  grind [next_mk, good_mk, good_alu2]

theorem good_execShl (d : Fin 32) (a : Fin 32) (b : Fin 32) {s : State} (hs : Good C s) :
    Next C (execShl d a b s) := by
  unfold execShl
  grind [next_mk, good_mk, good_alu2]

theorem good_execShr (d : Fin 32) (a : Fin 32) (b : Fin 32) {s : State} (hs : Good C s) :
    Next C (execShr d a b s) := by
  unfold execShr
  grind [next_mk, good_mk, good_alu2]

theorem good_execSra (d : Fin 32) (a : Fin 32) (b : Fin 32) {s : State} (hs : Good C s) :
    Next C (execSra d a b s) := by
  unfold execSra
  grind [next_mk, good_mk, good_alu2]

theorem good_execSlt (d : Fin 32) (a : Fin 32) (b : Fin 32) {s : State} (hs : Good C s) :
    Next C (execSlt d a b s) := by
  unfold execSlt
  grind [next_mk, good_mk, good_alu2]

theorem good_execSltn (d : Fin 32) (a : Fin 32) (b : Fin 32) {s : State} (hs : Good C s) :
    Next C (execSltn d a b s) := by
  unfold execSltn
  grind [next_mk, good_mk, good_alu2]

theorem good_execMin (d : Fin 32) (a : Fin 32) (b : Fin 32) {s : State} (hs : Good C s) :
    Next C (execMin d a b s) := by
  unfold execMin
  grind [next_mk, good_mk, good_alu2]

theorem good_execMax (d : Fin 32) (a : Fin 32) (b : Fin 32) {s : State} (hs : Good C s) :
    Next C (execMax d a b s) := by
  unfold execMax
  grind [next_mk, good_mk, good_alu2]

theorem good_execMinn (d : Fin 32) (a : Fin 32) (b : Fin 32) {s : State} (hs : Good C s) :
    Next C (execMinn d a b s) := by
  unfold execMinn
  grind [next_mk, good_mk, good_alu2]

theorem good_execMaxn (d : Fin 32) (a : Fin 32) (b : Fin 32) {s : State} (hs : Good C s) :
    Next C (execMaxn d a b s) := by
  unfold execMaxn
  grind [next_mk, good_mk, good_alu2]

theorem good_execSel (d : Fin 32) (a : Fin 32) (b : Fin 32) {s : State} (hs : Good C s) :
    Next C (execSel d a b s) := by
  unfold execSel
  grind [next_mk, good_mk, good_alu3]

theorem good_execClz (d : Fin 32) (a : Fin 32) {s : State} (hs : Good C s) :
    Next C (execClz d a s) := by
  unfold execClz
  grind [next_mk, good_mk, good_alu1]

theorem good_execCtz (d : Fin 32) (a : Fin 32) {s : State} (hs : Good C s) :
    Next C (execCtz d a s) := by
  unfold execCtz
  grind [next_mk, good_mk, good_alu1]

theorem good_execPopc (d : Fin 32) (a : Fin 32) {s : State} (hs : Good C s) :
    Next C (execPopc d a s) := by
  unfold execPopc
  grind [next_mk, good_mk, good_alu1]

theorem good_execRev (d : Fin 32) (a : Fin 32) {s : State} (hs : Good C s) :
    Next C (execRev d a s) := by
  unfold execRev
  grind [next_mk, good_mk, good_alu1]

theorem good_execBswap (d : Fin 32) (a : Fin 32) {s : State} (hs : Good C s) :
    Next C (execBswap d a s) := by
  unfold execBswap
  grind [next_mk, good_mk, good_alu1]

theorem good_execSextB (d : Fin 32) (a : Fin 32) {s : State} (hs : Good C s) :
    Next C (execSextB d a s) := by
  unfold execSextB
  grind [next_mk, good_mk, good_alu1]

theorem good_execSextH (d : Fin 32) (a : Fin 32) {s : State} (hs : Good C s) :
    Next C (execSextH d a s) := by
  unfold execSextH
  grind [next_mk, good_mk, good_alu1]

theorem good_execSextW (d : Fin 32) (a : Fin 32) {s : State} (hs : Good C s) :
    Next C (execSextW d a s) := by
  unfold execSextW
  grind [next_mk, good_mk, good_alu1]

theorem good_execZextW (d : Fin 32) (a : Fin 32) {s : State} (hs : Good C s) :
    Next C (execZextW d a s) := by
  unfold execZextW
  grind [next_mk, good_mk, good_alu1]

theorem good_execAddi (d : Fin 32) (a : Fin 32) (i : BitVec 16) {s : State} (hs : Good C s) :
    Next C (execAddi d a i s) := by
  unfold execAddi
  grind [next_mk, good_mk, good_alu1]

theorem good_execAndi (d : Fin 32) (a : Fin 32) (i : BitVec 16) {s : State} (hs : Good C s) :
    Next C (execAndi d a i s) := by
  unfold execAndi
  grind [next_mk, good_mk, good_alu1]

theorem good_execOri (d : Fin 32) (a : Fin 32) (i : BitVec 16) {s : State} (hs : Good C s) :
    Next C (execOri d a i s) := by
  unfold execOri
  grind [next_mk, good_mk, good_alu1]

theorem good_execXori (d : Fin 32) (a : Fin 32) (i : BitVec 16) {s : State} (hs : Good C s) :
    Next C (execXori d a i s) := by
  unfold execXori
  grind [next_mk, good_mk, good_alu1]

theorem good_execSlti (d : Fin 32) (a : Fin 32) (i : BitVec 16) {s : State} (hs : Good C s) :
    Next C (execSlti d a i s) := by
  unfold execSlti
  grind [next_mk, good_mk, good_alu1]

theorem good_execShli (d : Fin 32) (a : Fin 32) (n : BitVec 6) {s : State} (hs : Good C s) :
    Next C (execShli d a n s) := by
  unfold execShli
  grind [next_mk, good_mk, good_alu1]

theorem good_execShri (d : Fin 32) (a : Fin 32) (n : BitVec 6) {s : State} (hs : Good C s) :
    Next C (execShri d a n s) := by
  unfold execShri
  grind [next_mk, good_mk, good_alu1]

theorem good_execSrai (d : Fin 32) (a : Fin 32) (n : BitVec 6) {s : State} (hs : Good C s) :
    Next C (execSrai d a n s) := by
  unfold execSrai
  grind [next_mk, good_mk, good_alu1]

theorem good_execLih (d : Fin 32) (a : Fin 32) (i : BitVec 16) {s : State} (hs : Good C s) :
    Next C (execLih d a i s) := by
  unfold execLih
  grind [next_mk, good_mk, good_alu1]

theorem good_execLi (d : Fin 32) (k : BitVec 32) {s : State} (hs : Good C s) :
    Next C (execLi d k s) := by
  unfold execLi
  grind [next_mk, good_mk, good_simple, good_landG]

theorem good_execAddpc (d : Fin 32) (i : BitVec 16) {s : State} (hs : Good C s) :
    Next C (execAddpc d i s) := by
  unfold execAddpc
  grind [next_mk, good_mk, good_simple, good_landG]

theorem good_execBfx (d : Fin 32) (a : Fin 32) (l : BitVec 6) (p : BitVec 6) {s : State} (hs : Good C s) :
    Next C (execBfx d a l p s) := by
  unfold execBfx
  grind [next_mk, good_mk, good_alu1]

theorem good_execBfxs (d : Fin 32) (a : Fin 32) (l : BitVec 6) (p : BitVec 6) {s : State} (hs : Good C s) :
    Next C (execBfxs d a l p s) := by
  unfold execBfxs
  grind [next_mk, good_mk, good_alu1]

theorem good_execBfi (d : Fin 32) (a : Fin 32) (l : BitVec 6) (p : BitVec 6) {s : State} (hs : Good C s) :
    Next C (execBfi d a l p s) := by
  unfold execBfi
  grind [next_mk, good_mk, good_simple, good_landG]

theorem good_execBnet (d : Fin 32) (a : Fin 32) (p : Fin 8) {s : State} (hs : Good C s) :
    Next C (execBnet d a p s) := by
  unfold execBnet
  grind [next_mk, good_mk, good_alu1]

theorem good_setStamp {s : State} (hs : Good C s) (cell : Nat) (w : Clk) (r : Clk) :
    Good C (State.setStamp s cell w r) := by
  unfold State.setStamp
  grind [good_mk]

theorem good_readStamp {s : State} (hs : Good C s) (pa : Nat) (lc : Clk) (l : Nat) :
    Good C (State.readStamp s pa lc l).2 := by
  unfold State.readStamp
  grind [good_mk, good_setStamp]

theorem good_writeStamp {s : State} (hs : Good C s) (pa : Nat) (lc : Clk) :
    Good C (State.writeStamp s pa lc).2 := by
  unfold State.writeStamp
  grind [good_mk, good_setStamp]

theorem good_stampRange {s : State} (hs : Good C s) (write : Bool) (pa : Nat) (lc : Clk) (l : Nat) (y0 : Nat) :
    Good C (State.stampRange s write pa lc l y0).2 := by
  induction y0 generalizing s pa lc with
  | zero => exact hs
  | succ n ih =>
    refine ih (s := (if write then s.writeStamp pa lc else s.readStamp pa lc l).2) ?_ ..
    split
    · exact good_writeStamp hs ..
    · exact good_readStamp hs ..

theorem good_localLoad {s : State} (hs : Good C s) (off : Nat) (n : Nat) :
    Good C (State.localLoad s off n).2 := by
  unfold State.localLoad
  grind [good_mk, good_stampRange, good_setLc]

theorem good_localStore {s : State} (hs : Good C s) (off : Nat) (n : Nat) (x : Nat) :
    Good C (State.localStore s off n x) := by
  unfold State.localStore
  grind [good_mk, good_wellWrite, good_stampRange, good_setLc]

theorem good_execBnld (p : Fin 8) (a : Fin 32) {s : State} (hs : Good C s) :
    Next C (execBnld p a s) := by
  unfold execBnld
  grind [next_mk, good_mk, good_guarded, good_raise, good_waitMsg, good_localLoad, good_retire, good_land]

theorem good_execFadd (d : Fin 32) (a : Fin 32) (b : Fin 32) {s : State} (hs : Good C s) :
    Next C (execFadd d a b s) := by
  unfold execFadd
  grind [next_mk, good_mk, good_fp2]

theorem good_execFsub (d : Fin 32) (a : Fin 32) (b : Fin 32) {s : State} (hs : Good C s) :
    Next C (execFsub d a b s) := by
  unfold execFsub
  grind [next_mk, good_mk, good_fp2]

theorem good_execFmul (d : Fin 32) (a : Fin 32) (b : Fin 32) {s : State} (hs : Good C s) :
    Next C (execFmul d a b s) := by
  unfold execFmul
  grind [next_mk, good_mk, good_fp2]

theorem good_execFmin (d : Fin 32) (a : Fin 32) (b : Fin 32) {s : State} (hs : Good C s) :
    Next C (execFmin d a b s) := by
  unfold execFmin
  grind [next_mk, good_mk, good_fp2]

theorem good_execFmax (d : Fin 32) (a : Fin 32) (b : Fin 32) {s : State} (hs : Good C s) :
    Next C (execFmax d a b s) := by
  unfold execFmax
  grind [next_mk, good_mk, good_fp2]

theorem good_execFeq (d : Fin 32) (a : Fin 32) (b : Fin 32) {s : State} (hs : Good C s) :
    Next C (execFeq d a b s) := by
  unfold execFeq
  grind [next_mk, good_mk, good_fpCmp]

theorem good_execFlt (d : Fin 32) (a : Fin 32) (b : Fin 32) {s : State} (hs : Good C s) :
    Next C (execFlt d a b s) := by
  unfold execFlt
  grind [next_mk, good_mk, good_fpCmp]

theorem good_execFle (d : Fin 32) (a : Fin 32) (b : Fin 32) {s : State} (hs : Good C s) :
    Next C (execFle d a b s) := by
  unfold execFle
  grind [next_mk, good_mk, good_fpCmp]

theorem good_execFcvtIF (d : Fin 32) (a : Fin 32) {s : State} (hs : Good C s) :
    Next C (execFcvtIF d a s) := by
  unfold execFcvtIF
  grind [next_mk, good_mk, good_guarded, good_retire, good_landEv, good_landG]

theorem good_execFcvtFI (d : Fin 32) (a : Fin 32) {s : State} (hs : Good C s) :
    Next C (execFcvtFI d a s) := by
  unfold execFcvtFI
  grind [next_mk, good_mk, good_guarded, good_fpResult]

theorem good_execFmadd (d : Fin 32) (a : Fin 32) (b : Fin 32) {s : State} (hs : Good C s) :
    Next C (execFmadd d a b s) := by
  unfold execFmadd
  grind [next_mk, good_mk, good_guarded, good_fpResult]

theorem good_transfer {s : State} (hs : Good C s) (t : Word) (lost : Nat) {link : State → State} (hlink : ∀ x0, Good C x0 → Good C (link x0)) :
    Good C (State.transfer s t lost link) := by
  unfold State.transfer
  grind [good_mk, good_raise, good_goTo, good_markIssued]

theorem good_fallThrough {s : State} (hs : Good C s) (lost : Nat) :
    Good C (State.fallThrough s lost) := by
  unfold State.fallThrough
  grind [good_mk, good_goTo, good_markIssued]

theorem good_branch {s : State} (hs : Good C s) (h : Fin 4) (taken : Bool) (t : Word) :
    Good C (State.branch s h taken t) := by
  unfold State.branch
  grind [good_mk, good_transfer, good_fallThrough]

theorem good_compareBranch {s : State} (hs : Good C s) (a : Fin 32) (b : Fin 32) (h : Fin 4) (x : BitVec 14) (f : Word → Word → Bool) :
    Next C (State.compareBranch s a b h x f) := by
  unfold State.compareBranch
  grind [next_mk, good_mk, good_guarded, good_branch]

theorem good_execJ (x : BitVec 24) {s : State} (hs : Good C s) :
    Next C (execJ x s) := by
  unfold execJ
  grind [next_mk, good_mk, good_guarded, good_transfer]

theorem good_execJal (x : BitVec 24) {s : State} (hs : Good C s) :
    Next C (execJal x s) := by
  unfold execJal
  grind [next_mk, good_mk, good_guarded, good_transfer, good_landG]

theorem good_execJr (a : Fin 32) {s : State} (hs : Good C s) :
    Next C (execJr a s) := by
  unfold execJr
  grind [next_mk, good_mk, good_guarded, good_transfer]

theorem good_execJalr (d : Fin 32) (a : Fin 32) {s : State} (hs : Good C s) :
    Next C (execJalr d a s) := by
  unfold execJalr
  grind [next_mk, good_mk, good_guarded, good_transfer, good_landG]

theorem good_execBeq (a : Fin 32) (b : Fin 32) (h : Fin 4) (x : BitVec 14) {s : State} (hs : Good C s) :
    Next C (execBeq a b h x s) := by
  unfold execBeq
  grind [next_mk, good_mk, good_compareBranch]

theorem good_execBne (a : Fin 32) (b : Fin 32) (h : Fin 4) (x : BitVec 14) {s : State} (hs : Good C s) :
    Next C (execBne a b h x s) := by
  unfold execBne
  grind [next_mk, good_mk, good_compareBranch]

theorem good_execBlt (a : Fin 32) (b : Fin 32) (h : Fin 4) (x : BitVec 14) {s : State} (hs : Good C s) :
    Next C (execBlt a b h x s) := by
  unfold execBlt
  grind [next_mk, good_mk, good_compareBranch]

theorem good_execBge (a : Fin 32) (b : Fin 32) (h : Fin 4) (x : BitVec 14) {s : State} (hs : Good C s) :
    Next C (execBge a b h x s) := by
  unfold execBge
  grind [next_mk, good_mk, good_compareBranch]

theorem good_execBltn (a : Fin 32) (b : Fin 32) (h : Fin 4) (x : BitVec 14) {s : State} (hs : Good C s) :
    Next C (execBltn a b h x s) := by
  unfold execBltn
  grind [next_mk, good_mk, good_compareBranch]

theorem good_execBgen (a : Fin 32) (b : Fin 32) (h : Fin 4) (x : BitVec 14) {s : State} (hs : Good C s) :
    Next C (execBgen a b h x s) := by
  unfold execBgen
  grind [next_mk, good_mk, good_compareBranch]

theorem good_predBranch {s : State} (hs : Good C s) (a : Fin 8) (h : Fin 4) (x : BitVec 14) (f : Pred → Bool) :
    Next C (State.predBranch s a h x f) := by
  unfold State.predBranch
  grind [next_mk, good_mk, good_guarded, good_branch]

theorem good_execBpAny (a : Fin 8) (h : Fin 4) (x : BitVec 14) {s : State} (hs : Good C s) :
    Next C (execBpAny a h x s) := by
  unfold execBpAny
  grind [next_mk, good_mk, good_predBranch]

theorem good_execBpNone (a : Fin 8) (h : Fin 4) (x : BitVec 14) {s : State} (hs : Good C s) :
    Next C (execBpNone a h x s) := by
  unfold execBpNone
  grind [next_mk, good_mk, good_predBranch]

theorem good_execBpAll (a : Fin 8) (h : Fin 4) (x : BitVec 14) {s : State} (hs : Good C s) :
    Next C (execBpAll a h x s) := by
  unfold execBpAll
  grind [next_mk, good_mk, good_predBranch]

theorem good_execJtab (i : Fin 32) (a : Fin 32) (l : BitVec 16) {s : State} (hs : Good C s) :
    Next C (execJtab i a l s) := by
  unfold execJtab
  grind [next_mk, good_mk, good_guarded, good_fallThrough, good_raise, good_waitMsg, good_transfer, good_localLoad]

theorem good_execDly (n : BitVec 16) {s : State} (hs : Good C s) :
    Next C (execDly n s) := by
  unfold execDly
  grind [next_mk, good_mk, good_guarded, good_goTo, good_markIssued]

theorem good_execNop {s : State} (hs : Good C s) :
    Next C (execNop s) := by
  unfold execNop
  grind [next_mk, good_mk, good_simple]

theorem good_pushOutcome {s : State} (hs : Good C s) (q : Fin 4) (b : Bool) :
    Good C (State.pushOutcome s q b) := by
  unfold State.pushOutcome
  grind [good_mk, good_waitMsg, good_retire, good_land]

theorem good_execBpush (a : Fin 32) (q : Fin 4) {s : State} (hs : Good C s) :
    Next C (execBpush a q s) := by
  unfold execBpush
  grind [next_mk, good_mk, good_guarded, good_pushOutcome]

theorem good_execBpushP (a : Fin 8) (q : Fin 4) {s : State} (hs : Good C s) :
    Next C (execBpushP a q s) := by
  unfold execBpushP
  grind [next_mk, good_mk, good_guarded, good_pushOutcome]

theorem good_execBq (h : Fin 4) (x : BitVec 24) {s : State} (hs : Good C s) :
    Next C (execBq h x s) := by
  unfold execBq
  grind [next_mk, good_mk, good_guarded, good_waitMsg, good_setLc, good_land, good_transfer, good_fallThrough]

theorem good_handoff {s : State} (hs : Good C s) (x : Fin 16) (k : HandKind) (n : BitVec 16) :
    Good C (State.handoff s x k n) := by
  unfold State.handoff
  grind [good_mk, good_retire, good_land]

theorem good_execSinc (sl : Fin 16) {s : State} (hs : Good C s) :
    Next C (execSinc sl s) := by
  unfold execSinc
  grind [next_mk, good_mk, good_guarded, good_handoff]

theorem good_execSadd (sl : Fin 16) (a : Fin 32) {s : State} (hs : Good C s) :
    Next C (execSadd sl a s) := by
  unfold execSadd
  grind [next_mk, good_mk, good_guarded, good_handoff]

theorem good_execSset (sl : Fin 16) (a : Fin 32) {s : State} (hs : Good C s) :
    Next C (execSset sl a s) := by
  unfold execSset
  grind [next_mk, good_mk, good_guarded, good_raise, good_handoff]

theorem good_execSread (d : Fin 32) (sl : Fin 16) {s : State} (hs : Good C s) :
    Next C (execSread d sl s) := by
  unfold execSread
  grind [next_mk, good_mk, good_simple, good_landG]

theorem good_execSpend (d : Fin 32) (sl : Fin 16) {s : State} (hs : Good C s) :
    Next C (execSpend d sl s) := by
  unfold execSpend
  grind [next_mk, good_mk, good_simple, good_landG]

theorem good_execWaits (sl : Fin 16) (a : Fin 32) (i : BitVec 16) {s : State} (hs : Good C s) :
    Next C (execWaits sl a i s) := by
  unfold execWaits
  grind [next_mk, good_mk, good_guarded, good_retire, good_setLc, good_waitMsg, good_modSeq]

theorem good_execSstop {s : State} (hs : Good C s) :
    Next C (execSstop s) := by
  unfold execSstop
  grind [next_mk, good_mk, good_guarded, good_markIssued, good_modCtx, good_modSeq]

theorem good_execSjoin {s : State} (hs : Good C s) :
    Next C (execSjoin s) := by
  unfold execSjoin
  grind [next_mk, good_mk, good_guarded, good_raise, good_modSeq, good_waitMsg]

theorem good_putEntry {s : State} (hs : Good C s) (n : NibId) (e : Fin 8) (c : Ctx) (stopped : Bool) (tip : Word) :
    Good C (State.putEntry s n e c stopped tip) := by
  unfold State.putEntry
  grind [good_mk, good_write, good_modNib]

theorem good_modEntry {s : State} (hs : Good C s) (n : NibId) (e : Fin 8) (f : Ctx → Ctx) :
    Good C (State.modEntry s n e f) := by
  unfold State.modEntry
  grind [good_mk, good_putEntry]

theorem good_modCid {s : State} (hs : Good C s) (n : NibId) (cid : Nat) (f : Ctx → Ctx) :
    Good C (State.modCid s n cid f) := by
  unfold State.modCid
  grind [good_mk, good_modCtxAt, good_modEntry]

theorem good_setTip {s : State} (hs : Good C s) (n : NibId) (code : Nat) :
    Good C (State.setTip s n code) := by
  unfold State.setTip
  grind [good_mk, good_modNib, good_modCtxAt]

theorem good_csrWrite {s : State} (hs : Good C s) (n : NibId) (k : Fin 8) (num : BitVec 12) (op : Fin 4) (x : Word) (task : Bool) :
    Good C (State.csrWrite s n k num op x task) := by
  unfold State.csrWrite
  grind [good_mk, good_modNib, good_modCtxAt, good_schedule, good_setTip]

theorem good_csrIssue {s : State} (hs : Good C s) (op : Fin 4) (a : Fin 32) (c : BitVec 12) :
    Next C (State.csrIssue s op a c) := by
  unfold State.csrIssue
  grind [next_mk, good_mk, good_illegal, good_simple, good_land]

theorem good_execCsrr (d : Fin 32) (c : BitVec 12) {s : State} (hs : Good C s) :
    Next C (execCsrr d c s) := by
  unfold execCsrr
  grind [next_mk, good_mk, good_illegal, good_simple, good_landG]

theorem good_execCsrw (a : Fin 32) (c : BitVec 12) {s : State} (hs : Good C s) :
    Next C (execCsrw a c s) := by
  unfold execCsrw
  grind [next_mk, good_mk, good_csrIssue]

theorem good_execCsrs (a : Fin 32) (c : BitVec 12) {s : State} (hs : Good C s) :
    Next C (execCsrs a c s) := by
  unfold execCsrs
  grind [next_mk, good_mk, good_csrIssue]

theorem good_execCsrc (a : Fin 32) (c : BitVec 12) {s : State} (hs : Good C s) :
    Next C (execCsrc a c s) := by
  unfold execCsrc
  grind [next_mk, good_mk, good_csrIssue]

theorem good_newOp {s : State} (hs : Good C s) (sl : Fin 16) (kind : OpKind) :
    Good C (State.newOp s sl kind).2 := by
  unfold State.newOp
  grind [good_mk, good_newId]

theorem good_modOp {s : State} (hs : Good C s) (id : Nat) (f : Op → Op) :
    Good C (State.modOp s id f) := by
  unfold State.modOp
  grind [good_mk]

theorem good_dropOp {s : State} (hs : Good C s) (id : Nat) :
    Good C (State.dropOp s id) := by
  unfold State.dropOp
  grind [good_mk]

theorem good_pendReg {s : State} (hs : Good C s) (r : RegRef) :
    Good C (State.pendReg s r) := by
  unfold State.pendReg
  grind [good_mk, good_land]

theorem good_pendSeal {s : State} (hs : Good C s) (sl : Fin 16) :
    Good C (State.pendSeal s sl) := by
  unfold State.pendSeal
  grind [good_mk, good_land]

theorem good_dropAnswers {s : State} (hs : Good C s) :
    Good C (State.dropAnswers s) := by
  unfold State.dropAnswers
  grind [good_mk]

theorem good_startFill {s : State} (hs : Good C s) (va : Word) (code : Fin 4) :
    Good C (State.startFill s va code) := by
  unfold State.startFill
  grind [good_mk, good_waitMem, good_newOp, good_freeCycle, good_schedule]

theorem good_parkReplay {s : State} (hs : Good C s) (va : Word) (code : Fin 4) :
    Good C (State.parkReplay s va code) := by
  unfold State.parkReplay
  grind [good_mk, good_newOp, good_modOp]

theorem good_access {s : State} (hs : Good C s) (p : Plan) {act : State → List Range → State} (hact : ∀ x0 x1, Good C x0 → Good C (act x0 x1)) :
    Good C (State.access s p act) := by
  unfold State.access
  grind [good_mk, good_raise, good_waitMsg, good_dropAnswers, good_startFill, good_parkReplay]

theorem good_localGather {s : State} (hs : Good C s) (y0 : List Range) (y1 : Nat) :
    Good C (State.localGather s y0 y1).2 := by
  induction y0 generalizing s y1 with
  | nil => exact hs
  | cons r rs ih => exact ih (good_localLoad hs ..) _

theorem good_localScatter {s : State} (hs : Good C s) (x : Nat) (y0 : List Range) :
    Good C (State.localScatter s x y0) := by
  induction y0 generalizing s with
  | nil => exact hs
  | cons r rs ih => exact ih (good_localStore hs ..)

theorem good_issueLong {s : State} (hs : Good C s) (sl : Fin 16) (use : Use) (rs : List Range) (data : Nat) (write : Bool) :
    Good C (State.issueLong s sl use rs data write) := by
  unfold State.issueLong
  grind [good_mk, good_newOp, good_freeCycle, good_pendSeal, good_schedule]

theorem good_loadScalar {s : State} (hs : Good C s) (d : Fin 32) (a : Fin 32) (m : Fin 4) (sl : Fin 16) (i : BitVec 10) (size : Nat) (sgn : Bool) :
    Next C (State.loadScalar s d a m sl i size sgn) := by
  unfold State.loadScalar
  grind [next_mk, good_mk, good_guarded, good_access, good_localGather, good_retire, good_postInc, good_landG, good_issueLong, good_pendReg]

theorem good_storeScalar {s : State} (hs : Good C s) (d : Fin 32) (a : Fin 32) (m : Fin 4) (sl : Fin 16) (i : BitVec 10) (size : Nat) :
    Next C (State.storeScalar s d a m sl i size) := by
  unfold State.storeScalar
  grind [next_mk, good_mk, good_guarded, good_access, good_retire, good_localScatter, good_postInc, good_issueLong]

theorem good_fillLocal {s : State} (hs : Good C s) (x : Nat) :
    Good C (State.fillLocal s x) := by
  unfold State.fillLocal
  grind [good_mk, good_newId, good_land]

theorem good_issueLongQ {s : State} (hs : Good C s) (sl : Fin 16) (rs : List Range) :
    Good C (State.issueLongQ s sl rs) := by
  unfold State.issueLongQ
  grind [good_mk, good_land, good_issueLong]

theorem good_takeXw {s : State} (hs : Good C s) (e : VQEntry) :
    Good C (State.takeXw s e) := by
  unfold State.takeXw
  grind [good_mk, good_land, good_setLc]

theorem good_execLdB (d : Fin 32) (a : Fin 32) (m : Fin 4) (sl : Fin 16) (i : BitVec 10) {s : State} (hs : Good C s) :
    Next C (execLdB d a m sl i s) := by
  unfold execLdB
  grind [next_mk, good_mk, good_loadScalar]

theorem good_execLdH (d : Fin 32) (a : Fin 32) (m : Fin 4) (sl : Fin 16) (i : BitVec 10) {s : State} (hs : Good C s) :
    Next C (execLdH d a m sl i s) := by
  unfold execLdH
  grind [next_mk, good_mk, good_loadScalar]

theorem good_execLdW (d : Fin 32) (a : Fin 32) (m : Fin 4) (sl : Fin 16) (i : BitVec 10) {s : State} (hs : Good C s) :
    Next C (execLdW d a m sl i s) := by
  unfold execLdW
  grind [next_mk, good_mk, good_loadScalar]

theorem good_execLdD (d : Fin 32) (a : Fin 32) (m : Fin 4) (sl : Fin 16) (i : BitVec 10) {s : State} (hs : Good C s) :
    Next C (execLdD d a m sl i s) := by
  unfold execLdD
  grind [next_mk, good_mk, good_loadScalar]

theorem good_execLdBn (d : Fin 32) (a : Fin 32) (m : Fin 4) (sl : Fin 16) (i : BitVec 10) {s : State} (hs : Good C s) :
    Next C (execLdBn d a m sl i s) := by
  unfold execLdBn
  grind [next_mk, good_mk, good_loadScalar]

theorem good_execLdHn (d : Fin 32) (a : Fin 32) (m : Fin 4) (sl : Fin 16) (i : BitVec 10) {s : State} (hs : Good C s) :
    Next C (execLdHn d a m sl i s) := by
  unfold execLdHn
  grind [next_mk, good_mk, good_loadScalar]

theorem good_execLdWn (d : Fin 32) (a : Fin 32) (m : Fin 4) (sl : Fin 16) (i : BitVec 10) {s : State} (hs : Good C s) :
    Next C (execLdWn d a m sl i s) := by
  unfold execLdWn
  grind [next_mk, good_mk, good_loadScalar]

theorem good_execStB (d : Fin 32) (a : Fin 32) (m : Fin 4) (sl : Fin 16) (i : BitVec 10) {s : State} (hs : Good C s) :
    Next C (execStB d a m sl i s) := by
  unfold execStB
  grind [next_mk, good_mk, good_storeScalar]

theorem good_execStH (d : Fin 32) (a : Fin 32) (m : Fin 4) (sl : Fin 16) (i : BitVec 10) {s : State} (hs : Good C s) :
    Next C (execStH d a m sl i s) := by
  unfold execStH
  grind [next_mk, good_mk, good_storeScalar]

theorem good_execStW (d : Fin 32) (a : Fin 32) (m : Fin 4) (sl : Fin 16) (i : BitVec 10) {s : State} (hs : Good C s) :
    Next C (execStW d a m sl i s) := by
  unfold execStW
  grind [next_mk, good_mk, good_storeScalar]

theorem good_execStD (d : Fin 32) (a : Fin 32) (m : Fin 4) (sl : Fin 16) (i : BitVec 10) {s : State} (hs : Good C s) :
    Next C (execStD d a m sl i s) := by
  unfold execStD
  grind [next_mk, good_mk, good_storeScalar]

theorem good_execLdV (d : Fin 32) (a : Fin 32) (m : Fin 4) (sl : Fin 16) (i : BitVec 10) {s : State} (hs : Good C s) :
    Next C (execLdV d a m sl i s) := by
  unfold execLdV
  grind [next_mk, good_mk, good_guarded, good_access, good_localGather, good_retire, good_postInc, good_landV, good_issueLong, good_pendReg]

theorem good_execLdQ (a : Fin 32) (m : Fin 4) (sl : Fin 16) (i : BitVec 10) {s : State} (hs : Good C s) :
    Next C (execLdQ a m sl i s) := by
  unfold execLdQ
  grind [next_mk, good_mk, good_guarded, good_access, good_localGather, good_retire, good_postInc, good_fillLocal, good_issueLongQ]

theorem good_execStV (d : Fin 32) (a : Fin 32) (m : Fin 4) (sl : Fin 16) (i : BitVec 10) {s : State} (hs : Good C s) :
    Next C (execStV d a m sl i s) := by
  unfold execStV
  grind [next_mk, good_mk, good_guarded, good_access, good_retire, good_localScatter, good_postInc, good_issueLong]

theorem good_execStQ (a : Fin 32) (m : Fin 4) (sl : Fin 16) (i : BitVec 10) {s : State} (hs : Good C s) :
    Next C (execStQ a m sl i s) := by
  unfold execStQ
  grind [next_mk, good_mk, good_guarded, good_access, good_waitMsg, good_takeXw, good_postInc, good_retire, good_localScatter, good_issueLong]

theorem good_execLdgV (d : Fin 32) (a : Fin 32) (b : Fin 32) (p : Fin 8) (e : Fin 4) (sl : Fin 16) {s : State} (hs : Good C s) :
    Next C (execLdgV d a b p e sl s) := by
  unfold execLdgV
  grind [next_mk, good_mk, good_guarded, good_access, good_localGather, good_retire, good_landV, good_pendReg, good_issueLong]

theorem good_execLdgQ (a : Fin 32) (b : Fin 32) (p : Fin 8) (e : Fin 4) (sl : Fin 16) {s : State} (hs : Good C s) :
    Next C (execLdgQ a b p e sl s) := by
  unfold execLdgQ
  grind [next_mk, good_mk, good_guarded, good_access, good_localGather, good_retire, good_fillLocal, good_issueLongQ]

theorem good_execStsV (d : Fin 32) (a : Fin 32) (b : Fin 32) (p : Fin 8) (e : Fin 4) (sl : Fin 16) {s : State} (hs : Good C s) :
    Next C (execStsV d a b p e sl s) := by
  unfold execStsV
  grind [next_mk, good_mk, good_guarded, good_access, good_retire, good_localScatter, good_issueLong]

theorem good_execStsQ (a : Fin 32) (b : Fin 32) (p : Fin 8) (e : Fin 4) (sl : Fin 16) {s : State} (hs : Good C s) :
    Next C (execStsQ a b p e sl s) := by
  unfold execStsQ
  grind [next_mk, good_mk, good_guarded, good_access, good_waitMsg, good_takeXw, good_retire, good_localScatter, good_issueLong]

theorem good_setOpLc {s : State} (hs : Good C s) (o : Op) (t : Clk) :
    Good C (State.setOpLc s o t) := by
  unfold State.setOpLc
  grind [good_mk, good_modCid]

theorem good_syncAct {s : State} (hs : Good C s) (kind : Fin 4) (pa : Nat) (data : Nat) (lc : Clk) :
    Good C (State.syncAct s kind pa data lc).2.2 := by
  unfold State.syncAct
  grind [good_mk, good_write, good_writeStamp, good_readStamp]

theorem good_cascade {s : State} (hs : Good C s) (n : NibId) (pa : Nat) (y0 : Nat) :
    Good C (State.cascade s n pa y0) := by
  induction y0 generalizing s with
  | zero => exact hs
  | succ n ih =>
    unfold State.cascade
    dsimp only
    split
    · exact hs
    · exact ih (good_modOp (good_modNib (good_setOpLc (good_syncAct hs ..) ..) ..) ..)

theorem good_syncNow {s : State} (hs : Good C s) (n : NibId) (kind : Fin 4) (pa : Nat) (data : Nat) (lc : Clk) :
    Good C (State.syncNow s n kind pa data lc).2.2 := by
  unfold State.syncNow
  grind [good_mk, good_syncAct, good_cascade, good_schedule]

theorem good_syncAccess {s : State} (hs : Good C s) (kind : Fin 4) (d : Fin 32) (a : Fin 32) (m : Fin 4) (sl : Fin 16) (i : BitVec 10) :
    Next C (State.syncAccess s kind d a m sl i) := by
  unfold State.syncAccess
  have finish {t : State} (ht : Good C t) (y : Nat) :
      Good C (((if (decide (kind.val < 2)) = true then t.landG 2 d (BitVec.ofNat 64 y) else t).postInc a m i 8).retire) := by
    refine good_retire (good_postInc ?_ ..)
    split
    · exact good_landG ht ..
    · exact ht
  refine good_guarded hs _ _ _ fun t ht => ?_
  dsimp only
  split
  · exact finish (good_dropOp ht ..) _
  · refine good_access ht _ fun u rs hu => ?_
    grind [good_mk, good_retire, good_keepOld, good_syncNow, good_setLc, good_newOp, good_issueLong, good_postInc, good_pendReg]

theorem good_execLdfe (d : Fin 32) (a : Fin 32) (m : Fin 4) (sl : Fin 16) (i : BitVec 10) {s : State} (hs : Good C s) :
    Next C (execLdfe d a m sl i s) := by
  unfold execLdfe
  grind [next_mk, good_mk, good_syncAccess]

theorem good_execLdff (d : Fin 32) (a : Fin 32) (m : Fin 4) (sl : Fin 16) (i : BitVec 10) {s : State} (hs : Good C s) :
    Next C (execLdff d a m sl i s) := by
  unfold execLdff
  grind [next_mk, good_mk, good_syncAccess]

theorem good_execStfe (d : Fin 32) (a : Fin 32) (m : Fin 4) (sl : Fin 16) (i : BitVec 10) {s : State} (hs : Good C s) :
    Next C (execStfe d a m sl i s) := by
  unfold execStfe
  grind [next_mk, good_mk, good_syncAccess]

theorem good_execStff (d : Fin 32) (a : Fin 32) (m : Fin 4) (sl : Fin 16) (i : BitVec 10) {s : State} (hs : Good C s) :
    Next C (execStff d a m sl i s) := by
  unfold execStff
  grind [next_mk, good_mk, good_syncAccess]

theorem good_amo {s : State} (hs : Good C s) (op : Fin 16) (d : Fin 32) (a : Fin 32) (b : Fin 32) (sl : Fin 16) (z : Nat) :
    Next C (State.amo s op d a b sl z) := by
  unfold State.amo
  refine good_guarded hs _ _ _ fun t ht => ?_
  dsimp only
  split
  · exact good_raise ht ..
  · refine good_access ht _ fun u rs hu => ?_
    split
    · exact good_retire (good_landEv (good_landG (good_localScatter hu ..) ..) ..)
    · exact good_retire (good_pendReg (good_issueLong hu ..) ..)

theorem good_execAmoAdd (d : Fin 32) (a : Fin 32) (b : Fin 32) (sl : Fin 16) (z : Fin 2) {s : State} (hs : Good C s) :
    Next C (execAmoAdd d a b sl z s) := by
  unfold execAmoAdd
  grind [next_mk, good_mk, good_amo]

theorem good_execAmoAnd (d : Fin 32) (a : Fin 32) (b : Fin 32) (sl : Fin 16) (z : Fin 2) {s : State} (hs : Good C s) :
    Next C (execAmoAnd d a b sl z s) := by
  unfold execAmoAnd
  grind [next_mk, good_mk, good_amo]

theorem good_execAmoOr (d : Fin 32) (a : Fin 32) (b : Fin 32) (sl : Fin 16) (z : Fin 2) {s : State} (hs : Good C s) :
    Next C (execAmoOr d a b sl z s) := by
  unfold execAmoOr
  grind [next_mk, good_mk, good_amo]

theorem good_execAmoXor (d : Fin 32) (a : Fin 32) (b : Fin 32) (sl : Fin 16) (z : Fin 2) {s : State} (hs : Good C s) :
    Next C (execAmoXor d a b sl z s) := by
  unfold execAmoXor
  grind [next_mk, good_mk, good_amo]

theorem good_execAmoMin (d : Fin 32) (a : Fin 32) (b : Fin 32) (sl : Fin 16) (z : Fin 2) {s : State} (hs : Good C s) :
    Next C (execAmoMin d a b sl z s) := by
  unfold execAmoMin
  grind [next_mk, good_mk, good_amo]

theorem good_execAmoMax (d : Fin 32) (a : Fin 32) (b : Fin 32) (sl : Fin 16) (z : Fin 2) {s : State} (hs : Good C s) :
    Next C (execAmoMax d a b sl z s) := by
  unfold execAmoMax
  grind [next_mk, good_mk, good_amo]

theorem good_execAmoMinn (d : Fin 32) (a : Fin 32) (b : Fin 32) (sl : Fin 16) (z : Fin 2) {s : State} (hs : Good C s) :
    Next C (execAmoMinn d a b sl z s) := by
  unfold execAmoMinn
  grind [next_mk, good_mk, good_amo]

theorem good_execAmoMaxn (d : Fin 32) (a : Fin 32) (b : Fin 32) (sl : Fin 16) (z : Fin 2) {s : State} (hs : Good C s) :
    Next C (execAmoMaxn d a b sl z s) := by
  unfold execAmoMaxn
  grind [next_mk, good_mk, good_amo]

theorem good_execAmoSwap (d : Fin 32) (a : Fin 32) (b : Fin 32) (sl : Fin 16) (z : Fin 2) {s : State} (hs : Good C s) :
    Next C (execAmoSwap d a b sl z s) := by
  unfold execAmoSwap
  grind [next_mk, good_mk, good_amo]

theorem good_execAmoCas (d : Fin 32) (a : Fin 32) (b : Fin 32) (sl : Fin 16) (z : Fin 2) {s : State} (hs : Good C s) :
    Next C (execAmoCas d a b sl z s) := by
  unfold execAmoCas
  grind [next_mk, good_mk, good_amo]

theorem good_execAmoFadd (d : Fin 32) (a : Fin 32) (b : Fin 32) (sl : Fin 16) {s : State} (hs : Good C s) :
    Next C (execAmoFadd d a b sl s) := by
  unfold execAmoFadd
  grind [next_mk, good_mk, good_amo]

theorem good_execMmod (i : Fin 8) (a : Fin 32) (b : Fin 32) {s : State} (hs : Good C s) :
    Next C (execMmod i a b s) := by
  unfold execMmod
  grind [next_mk, good_mk, good_simple, good_land]

theorem good_execPub (sl : Fin 16) (a : Fin 32) {s : State} (hs : Good C s) :
    Next C (execPub sl a s) := by
  unfold execPub
  grind [next_mk, good_mk, good_guarded, good_raise, good_retire, good_issueLong]

theorem good_hostWrite {s : State} (hs : Good C s) (p : Fin 16) (pa : Nat) (n : Nat) (x : Nat) :
    Good C (State.hostWrite s p pa n x) := by
  unfold State.hostWrite
  grind [good_mk, good_write, good_writeStamp]

theorem good_modPart {s : State} (hs : Good C s) (p : Fin 16) (f : Part → Part) :
    Good C (State.modPart s p f) := by
  unfold State.modPart
  grind [good_mk]

theorem good_trace {s : State} (hs : Good C s) (n : NibId) (k : Fin 8) (r : TraceRec) :
    Good C (State.trace s n k r) := by
  unfold State.trace
  grind [good_mk, good_modPart, good_hostWrite]

theorem good_traceIfOn {s : State} (hs : Good C s) (n : NibId) (k : Fin 8) (kind : Nat) (info : Nat) :
    Good C (State.traceIfOn s n k kind info) := by
  unfold State.traceIfOn
  grind [good_mk, good_trace]

theorem good_labelSeen {s : State} (hs : Good C s) (kind : Nat) (l : BitVec 16) :
    Good C (State.labelSeen s kind l) := by
  refine good_foldl _ (fun t f ht => ?_) hs
  grind [good_mk, good_trace, good_modStroke]

theorem good_execRpush (l : BitVec 16) {s : State} (hs : Good C s) :
    Next C (execRpush l s) := by
  unfold execRpush
  grind [next_mk, good_mk, good_simple, good_labelSeen, good_land]

theorem good_execRpop (l : BitVec 16) {s : State} (hs : Good C s) :
    Next C (execRpop l s) := by
  unfold execRpop
  grind [next_mk, good_mk, good_simple, good_labelSeen, good_land]

theorem good_execMark (l : BitVec 16) {s : State} (hs : Good C s) :
    Next C (execMark l s) := by
  unfold execMark
  grind [next_mk, good_mk, good_simple, good_labelSeen]

theorem good_fireTimer {s : State} (hs : Good C s) (n : NibId) (i : Fin 8) :
    Good C (State.fireTimer s n i) := by
  unfold State.fireTimer
  grind [good_mk, good_modNib, good_modStroke]

theorem good_setTimer {s : State} (hs : Good C s) (n : NibId) (i : Fin 8) (x : Word) :
    Good C (State.setTimer s n i x) := by
  unfold State.setTimer
  grind [good_mk, good_modStroke, good_fireTimer, good_schedule]

theorem good_resumeMatrix {s : State} (hs : Good C s) (n : NibId) (k : Fin 8) :
    Good C (State.resumeMatrix s n k) := by
  unfold State.resumeMatrix
  grind [good_mk, good_modNib, good_schedule, good_modCtxAt]

theorem good_setRing {s : State} (hs : Good C s) (n : NibId) (k : Fin 8) (r : Fin 4) (en : Bool) (base : Nat) (size : Nat) (rowLen : Nat) :
    Good C (State.setRing s n k r en base size rowLen) := by
  unfold State.setRing
  grind [good_mk, good_modStroke]

theorem good_applyEff {s : State} (hs : Good C s) (n : NibId) (k : Fin 8) (q : Seq) (e : Eff) :
    Good C (State.applyEff s n k q e) := by
  unfold State.applyEff
  cases e <;> grind [good_mk, good_csrWrite, good_setTimer, good_modNib, good_setRing, good_resumeMatrix, good_modStroke, good_modCtxAt]

theorem good_execResultLanding (n : NibId) (k : Fin 8) {s : State} (hs : Good C s) :
    Next C (execResultLanding n k s) := by
  unfold execResultLanding
  grind [next_mk, good_mk, good_applyEff, good_modCtxAt]

theorem good_execHandoffEffect (n : NibId) (k : Fin 8) {s : State} (hs : Good C s) :
    Next C (execHandoffEffect n k s) := by
  unfold execHandoffEffect
  grind [next_mk, good_mk, good_applyEff, good_modCtxAt]

theorem good_execLateWriteLanding (n : NibId) (k : Fin 8) {s : State} (hs : Good C s) :
    Next C (execLateWriteLanding n k s) := by
  unfold execLateWriteLanding
  grind [next_mk, good_mk, good_modCtxAt]

theorem good_execLcTick (n : NibId) (k : Fin 8) {s : State} (hs : Good C s) :
    Next C (execLcTick n k s) := by
  unfold execLcTick
  grind [next_mk, good_mk, good_modCtxAt]

theorem good_execTimerFire (n : NibId) (k : Fin 8) {s : State} (hs : Good C s) :
    Next C (execTimerFire n k s) := by
  unfold execTimerFire
  grind [next_mk, good_mk, good_fireTimer]

theorem good_execIllegalOnDecode (w : BitVec 32) {s : State} (hs : Good C s) :
    Next C (execIllegalOnDecode w s) := by
  unfold execIllegalOnDecode
  grind [next_mk, good_mk, good_raise]

theorem good_vec2 {s : State} (hs : Good C s) (lat : Nat) (d : Fin 32) (a : Fin 32) (b : Fin 32) (p : Fin 8) (ty : Nat) (f : Nat → Nat → Nat × Ev) :
    Next C (State.vec2 s lat d a b p ty f) := by
  unfold State.vec2
  grind [next_mk, good_mk, good_guarded, good_retire, good_landEv, good_landV]

theorem good_vec1 {s : State} (hs : Good C s) (lat : Nat) (d : Fin 32) (a : Fin 32) (p : Fin 8) (ty : Nat) (f : Nat → Nat × Ev) :
    Next C (State.vec1 s lat d a p ty f) := by
  unfold State.vec1
  grind [next_mk, good_mk, good_guarded, good_retire, good_landEv, good_landV]

theorem good_vecCmp {s : State} (hs : Good C s) (d : Fin 8) (a : Fin 32) (b : Fin 32) (p : Fin 8) (ty : Nat) (f : Nat → Nat → Bool × Ev) :
    Next C (State.vecCmp s d a b p ty f) := by
  unfold State.vecCmp
  grind [next_mk, good_mk, good_guarded, good_retire, good_landEv, good_landP]

theorem good_vecMove {s : State} (hs : Good C s) (srcs : List RegRef) (d : Fin 32) (p : Fin 8) (ty : Nat) (f : State → Nat → Nat) :
    Next C (State.vecMove s srcs d p ty f) := by
  unfold State.vecMove
  grind [next_mk, good_mk, good_guarded, good_retire, good_landV]

theorem good_pred2 {s : State} (hs : Good C s) (d : Fin 8) (a : Fin 8) (b : Fin 8) (f : Pred → Pred → Pred) :
    Next C (State.pred2 s d a b f) := by
  unfold State.pred2
  grind [next_mk, good_mk, good_simple, good_landP]

theorem good_execVwhile (d : Fin 8) (i : Fin 32) (n : Fin 32) (y : Fin 16) {s : State} (hs : Good C s) :
    Next C (execVwhile d i n y s) := by
  unfold execVwhile
  grind [next_mk, good_mk, good_simple, good_landP, good_landG]

theorem good_execVwidth (d : Fin 32) {s : State} (hs : Good C s) :
    Next C (execVwidth d s) := by
  unfold execVwidth
  grind [next_mk, good_mk, good_simple, good_landG]

theorem good_execPand (d : Fin 8) (a : Fin 8) (b : Fin 8) {s : State} (hs : Good C s) :
    Next C (execPand d a b s) := by
  unfold execPand
  grind [next_mk, good_mk, good_pred2]

theorem good_execPor (d : Fin 8) (a : Fin 8) (b : Fin 8) {s : State} (hs : Good C s) :
    Next C (execPor d a b s) := by
  unfold execPor
  grind [next_mk, good_mk, good_pred2]

theorem good_execPxor (d : Fin 8) (a : Fin 8) (b : Fin 8) {s : State} (hs : Good C s) :
    Next C (execPxor d a b s) := by
  unfold execPxor
  grind [next_mk, good_mk, good_pred2]

theorem good_execPnot (d : Fin 8) (a : Fin 8) {s : State} (hs : Good C s) :
    Next C (execPnot d a s) := by
  unfold execPnot
  grind [next_mk, good_mk, good_simple, good_landP]

theorem good_execPset (d : Fin 8) {s : State} (hs : Good C s) :
    Next C (execPset d s) := by
  unfold execPset
  grind [next_mk, good_mk, good_simple, good_landP]

theorem good_execPclr (d : Fin 8) {s : State} (hs : Good C s) :
    Next C (execPclr d s) := by
  unfold execPclr
  grind [next_mk, good_mk, good_simple, good_landP]

theorem good_execPcount (d : Fin 32) (a : Fin 8) {s : State} (hs : Good C s) :
    Next C (execPcount d a s) := by
  unfold execPcount
  grind [next_mk, good_mk, good_simple, good_landG]

theorem good_execPfirst (d : Fin 32) (a : Fin 8) {s : State} (hs : Good C s) :
    Next C (execPfirst d a s) := by
  unfold execPfirst
  grind [next_mk, good_mk, good_simple, good_landG]

theorem good_vint {s : State} (hs : Good C s) (fn : Nat) (lat : Nat) (d : Fin 32) (a : Fin 32) (b : Fin 32) (p : Fin 8) (y : Fin 8) :
    Next C (State.vint s fn lat d a b p y) := by
  unfold State.vint
  grind [next_mk, good_mk, good_vec2]

theorem good_vint1 {s : State} (hs : Good C s) (fn : Nat) (d : Fin 32) (a : Fin 32) (p : Fin 8) (y : Fin 8) :
    Next C (State.vint1 s fn d a p y) := by
  unfold State.vint1
  grind [next_mk, good_mk, good_vec1]

theorem good_execVadd (d : Fin 32) (a : Fin 32) (b : Fin 32) (p : Fin 8) (y : Fin 8) {s : State} (hs : Good C s) :
    Next C (execVadd d a b p y s) := by
  unfold execVadd
  grind [next_mk, good_mk, good_vint]

theorem good_execVsub (d : Fin 32) (a : Fin 32) (b : Fin 32) (p : Fin 8) (y : Fin 8) {s : State} (hs : Good C s) :
    Next C (execVsub d a b p y s) := by
  unfold execVsub
  grind [next_mk, good_mk, good_vint]

theorem good_execVmul (d : Fin 32) (a : Fin 32) (b : Fin 32) (p : Fin 8) (y : Fin 8) {s : State} (hs : Good C s) :
    Next C (execVmul d a b p y s) := by
  unfold execVmul
  grind [next_mk, good_mk, good_vint]

theorem good_execVmulh (d : Fin 32) (a : Fin 32) (b : Fin 32) (p : Fin 8) (y : Fin 8) {s : State} (hs : Good C s) :
    Next C (execVmulh d a b p y s) := by
  unfold execVmulh
  grind [next_mk, good_mk, good_vint]

theorem good_execVand (d : Fin 32) (a : Fin 32) (b : Fin 32) (p : Fin 8) (y : Fin 8) {s : State} (hs : Good C s) :
    Next C (execVand d a b p y s) := by
  unfold execVand
  grind [next_mk, good_mk, good_vint]

theorem good_execVor (d : Fin 32) (a : Fin 32) (b : Fin 32) (p : Fin 8) (y : Fin 8) {s : State} (hs : Good C s) :
    Next C (execVor d a b p y s) := by
  unfold execVor
  grind [next_mk, good_mk, good_vint]

theorem good_execVxor (d : Fin 32) (a : Fin 32) (b : Fin 32) (p : Fin 8) (y : Fin 8) {s : State} (hs : Good C s) :
    Next C (execVxor d a b p y s) := by
  unfold execVxor
  grind [next_mk, good_mk, good_vint]

theorem good_execVshl (d : Fin 32) (a : Fin 32) (b : Fin 32) (p : Fin 8) (y : Fin 8) {s : State} (hs : Good C s) :
    Next C (execVshl d a b p y s) := by
  unfold execVshl
  grind [next_mk, good_mk, good_vint]

theorem good_execVshr (d : Fin 32) (a : Fin 32) (b : Fin 32) (p : Fin 8) (y : Fin 8) {s : State} (hs : Good C s) :
    Next C (execVshr d a b p y s) := by
  unfold execVshr
  grind [next_mk, good_mk, good_vint]

theorem good_execVsra (d : Fin 32) (a : Fin 32) (b : Fin 32) (p : Fin 8) (y : Fin 8) {s : State} (hs : Good C s) :
    Next C (execVsra d a b p y s) := by
  unfold execVsra
  grind [next_mk, good_mk, good_vint]

theorem good_execVmin (d : Fin 32) (a : Fin 32) (b : Fin 32) (p : Fin 8) (y : Fin 8) {s : State} (hs : Good C s) :
    Next C (execVmin d a b p y s) := by
  unfold execVmin
  grind [next_mk, good_mk, good_vint]

theorem good_execVmax (d : Fin 32) (a : Fin 32) (b : Fin 32) (p : Fin 8) (y : Fin 8) {s : State} (hs : Good C s) :
    Next C (execVmax d a b p y s) := by
  unfold execVmax
  grind [next_mk, good_mk, good_vint]

theorem good_execVabs (d : Fin 32) (a : Fin 32) (p : Fin 8) (y : Fin 8) {s : State} (hs : Good C s) :
    Next C (execVabs d a p y s) := by
  unfold execVabs
  grind [next_mk, good_mk, good_vint1]

theorem good_execVneg (d : Fin 32) (a : Fin 32) (p : Fin 8) (y : Fin 8) {s : State} (hs : Good C s) :
    Next C (execVneg d a p y s) := by
  unfold execVneg
  grind [next_mk, good_mk, good_vint1]

theorem good_execVadds (d : Fin 32) (a : Fin 32) (b : Fin 32) (p : Fin 8) (y : Fin 8) {s : State} (hs : Good C s) :
    Next C (execVadds d a b p y s) := by
  unfold execVadds
  grind [next_mk, good_mk, good_vint]

theorem good_execVsubs (d : Fin 32) (a : Fin 32) (b : Fin 32) (p : Fin 8) (y : Fin 8) {s : State} (hs : Good C s) :
    Next C (execVsubs d a b p y s) := by
  unfold execVsubs
  grind [next_mk, good_mk, good_vint]

theorem good_vimm {s : State} (hs : Good C s) (fn : Nat) (d : Fin 32) (a : Fin 32) (p : Fin 8) (y : Fin 8) (i : BitVec 9) :
    Next C (State.vimm s fn d a p y i) := by
  unfold State.vimm
  grind [next_mk, good_mk, good_vec1]

theorem good_execVaddi (d : Fin 32) (a : Fin 32) (p : Fin 8) (y : Fin 8) (i : BitVec 9) {s : State} (hs : Good C s) :
    Next C (execVaddi d a p y i s) := by
  unfold execVaddi
  grind [next_mk, good_mk, good_vimm]

theorem good_execVshli (d : Fin 32) (a : Fin 32) (p : Fin 8) (y : Fin 8) (i : BitVec 9) {s : State} (hs : Good C s) :
    Next C (execVshli d a p y i s) := by
  unfold execVshli
  grind [next_mk, good_mk, good_vimm]

theorem good_execVshri (d : Fin 32) (a : Fin 32) (p : Fin 8) (y : Fin 8) (i : BitVec 9) {s : State} (hs : Good C s) :
    Next C (execVshri d a p y i s) := by
  unfold execVshri
  grind [next_mk, good_mk, good_vimm]

theorem good_execVsrai (d : Fin 32) (a : Fin 32) (p : Fin 8) (y : Fin 8) (i : BitVec 9) {s : State} (hs : Good C s) :
    Next C (execVsrai d a p y i s) := by
  unfold execVsrai
  grind [next_mk, good_mk, good_vimm]

theorem good_execVli (d : Fin 32) (p : Fin 8) (y : Fin 8) (i : BitVec 9) {s : State} (hs : Good C s) :
    Next C (execVli d p y i s) := by
  unfold execVli
  grind [next_mk, good_mk, good_vecMove]

theorem good_vcmp {s : State} (hs : Good C s) (cc : Nat) (d : Fin 8) (a : Fin 32) (b : Fin 32) (p : Fin 8) (y : Fin 8) :
    Next C (State.vcmp s cc d a b p y) := by
  unfold State.vcmp
  grind [next_mk, good_mk, good_vecCmp]

theorem good_execVcmpEq (d : Fin 8) (a : Fin 32) (b : Fin 32) (p : Fin 8) (y : Fin 8) {s : State} (hs : Good C s) :
    Next C (execVcmpEq d a b p y s) := by
  unfold execVcmpEq
  grind [next_mk, good_mk, good_vcmp]

theorem good_execVcmpNe (d : Fin 8) (a : Fin 32) (b : Fin 32) (p : Fin 8) (y : Fin 8) {s : State} (hs : Good C s) :
    Next C (execVcmpNe d a b p y s) := by
  unfold execVcmpNe
  grind [next_mk, good_mk, good_vcmp]

theorem good_execVcmpLt (d : Fin 8) (a : Fin 32) (b : Fin 32) (p : Fin 8) (y : Fin 8) {s : State} (hs : Good C s) :
    Next C (execVcmpLt d a b p y s) := by
  unfold execVcmpLt
  grind [next_mk, good_mk, good_vcmp]

theorem good_execVcmpLe (d : Fin 8) (a : Fin 32) (b : Fin 32) (p : Fin 8) (y : Fin 8) {s : State} (hs : Good C s) :
    Next C (execVcmpLe d a b p y s) := by
  unfold execVcmpLe
  grind [next_mk, good_mk, good_vcmp]

theorem good_execVcmpGt (d : Fin 8) (a : Fin 32) (b : Fin 32) (p : Fin 8) (y : Fin 8) {s : State} (hs : Good C s) :
    Next C (execVcmpGt d a b p y s) := by
  unfold execVcmpGt
  grind [next_mk, good_mk, good_vcmp]

theorem good_execVcmpGe (d : Fin 8) (a : Fin 32) (b : Fin 32) (p : Fin 8) (y : Fin 8) {s : State} (hs : Good C s) :
    Next C (execVcmpGe d a b p y s) := by
  unfold execVcmpGe
  grind [next_mk, good_mk, good_vcmp]

theorem good_execVmov (d : Fin 32) (a : Fin 32) (p : Fin 8) (y : Fin 16) {s : State} (hs : Good C s) :
    Next C (execVmov d a p y s) := by
  unfold execVmov
  grind [next_mk, good_mk, good_vecMove]

theorem good_execVsel (d : Fin 32) (a : Fin 32) (b : Fin 32) (p : Fin 8) (y : Fin 16) {s : State} (hs : Good C s) :
    Next C (execVsel d a b p y s) := by
  unfold execVsel
  grind [next_mk, good_mk, good_simple, good_landV]

theorem good_execVshuf (d : Fin 32) (a : Fin 32) (b : Fin 32) (p : Fin 8) (y : Fin 16) {s : State} (hs : Good C s) :
    Next C (execVshuf d a b p y s) := by
  unfold execVshuf
  grind [next_mk, good_mk, good_vecMove]

theorem good_execVslide (d : Fin 32) (a : Fin 32) (b : Fin 32) (p : Fin 8) (y : Fin 16) {s : State} (hs : Good C s) :
    Next C (execVslide d a b p y s) := by
  unfold execVslide
  grind [next_mk, good_mk, good_vecMove]

theorem good_execVzip (d : Fin 32) (a : Fin 32) (b : Fin 32) (p : Fin 8) (y : Fin 16) {s : State} (hs : Good C s) :
    Next C (execVzip d a b p y s) := by
  unfold execVzip
  grind [next_mk, good_mk, good_vecMove]

theorem good_execVunzip (d : Fin 32) (a : Fin 32) (b : Fin 32) (p : Fin 8) (y : Fin 16) {s : State} (hs : Good C s) :
    Next C (execVunzip d a b p y s) := by
  unfold execVunzip
  grind [next_mk, good_mk, good_vecMove]

theorem good_execVidx (d : Fin 32) (a : Fin 32) (p : Fin 8) (y : Fin 8) {s : State} (hs : Good C s) :
    Next C (execVidx d a p y s) := by
  unfold execVidx
  grind [next_mk, good_mk, good_vecMove]

theorem good_execVbcast (d : Fin 32) (a : Fin 32) (p : Fin 8) (y : Fin 16) {s : State} (hs : Good C s) :
    Next C (execVbcast d a p y s) := by
  unfold execVbcast
  grind [next_mk, good_mk, good_vecMove]

theorem good_execVext (d : Fin 32) (a : Fin 32) (b : Fin 32) (y : Fin 16) {s : State} (hs : Good C s) :
    Next C (execVext d a b y s) := by
  unfold execVext
  grind [next_mk, good_mk, good_simple, good_landG]

theorem good_execVins (d : Fin 32) (a : Fin 32) (b : Fin 32) (y : Fin 16) {s : State} (hs : Good C s) :
    Next C (execVins d a b y s) := by
  unfold execVins
  grind [next_mk, good_mk, good_simple, good_landV]

theorem good_execVnot (d : Fin 32) (a : Fin 32) (p : Fin 8) (y : Fin 16) {s : State} (hs : Good C s) :
    Next C (execVnot d a p y s) := by
  unfold execVnot
  grind [next_mk, good_mk, good_vecMove]

theorem good_execVclz (d : Fin 32) (a : Fin 32) (p : Fin 8) (y : Fin 8) {s : State} (hs : Good C s) :
    Next C (execVclz d a p y s) := by
  unfold execVclz
  grind [next_mk, good_mk, good_vecMove]

theorem good_execVpopc (d : Fin 32) (a : Fin 32) (p : Fin 8) (y : Fin 8) {s : State} (hs : Good C s) :
    Next C (execVpopc d a p y s) := by
  unfold execVpopc
  grind [next_mk, good_mk, good_vecMove]

theorem good_vfp {s : State} (hs : Good C s) (d : Fin 32) (a : Fin 32) (b : Fin 32) (p : Fin 8) (y : Fin 2) (f : Fmt → Nat → Nat → Nat × Ev) :
    Next C (State.vfp s d a b p y f) := by
  unfold State.vfp
  grind [next_mk, good_mk, good_vec2]

theorem good_execVfadd (d : Fin 32) (a : Fin 32) (b : Fin 32) (p : Fin 8) (y : Fin 2) {s : State} (hs : Good C s) :
    Next C (execVfadd d a b p y s) := by
  unfold execVfadd
  grind [next_mk, good_mk, good_vfp]

theorem good_execVfsub (d : Fin 32) (a : Fin 32) (b : Fin 32) (p : Fin 8) (y : Fin 2) {s : State} (hs : Good C s) :
    Next C (execVfsub d a b p y s) := by
  unfold execVfsub
  grind [next_mk, good_mk, good_vfp]

theorem good_execVfmul (d : Fin 32) (a : Fin 32) (b : Fin 32) (p : Fin 8) (y : Fin 2) {s : State} (hs : Good C s) :
    Next C (execVfmul d a b p y s) := by
  unfold execVfmul
  grind [next_mk, good_mk, good_vfp]

theorem good_execVfmin (d : Fin 32) (a : Fin 32) (b : Fin 32) (p : Fin 8) (y : Fin 2) {s : State} (hs : Good C s) :
    Next C (execVfmin d a b p y s) := by
  unfold execVfmin
  grind [next_mk, good_mk, good_vfp]

theorem good_execVfmax (d : Fin 32) (a : Fin 32) (b : Fin 32) (p : Fin 8) (y : Fin 2) {s : State} (hs : Good C s) :
    Next C (execVfmax d a b p y s) := by
  unfold execVfmax
  grind [next_mk, good_mk, good_vfp]

theorem good_execVfabs (d : Fin 32) (a : Fin 32) (p : Fin 8) (y : Fin 2) {s : State} (hs : Good C s) :
    Next C (execVfabs d a p y s) := by
  unfold execVfabs
  grind [next_mk, good_mk, good_vec1]

theorem good_execVfneg (d : Fin 32) (a : Fin 32) (p : Fin 8) (y : Fin 2) {s : State} (hs : Good C s) :
    Next C (execVfneg d a p y s) := by
  unfold execVfneg
  grind [next_mk, good_mk, good_vec1]

theorem good_execVfeq (d : Fin 8) (a : Fin 32) (b : Fin 32) (p : Fin 8) (y : Fin 2) {s : State} (hs : Good C s) :
    Next C (execVfeq d a b p y s) := by
  unfold execVfeq
  grind [next_mk, good_mk, good_vecCmp]

theorem good_execVflt (d : Fin 8) (a : Fin 32) (b : Fin 32) (p : Fin 8) (y : Fin 2) {s : State} (hs : Good C s) :
    Next C (execVflt d a b p y s) := by
  unfold execVflt
  grind [next_mk, good_mk, good_vecCmp]

theorem good_execVfle (d : Fin 8) (a : Fin 32) (b : Fin 32) (p : Fin 8) (y : Fin 2) {s : State} (hs : Good C s) :
    Next C (execVfle d a b p y s) := by
  unfold execVfle
  grind [next_mk, good_mk, good_vecCmp]

theorem good_vfused {s : State} (hs : Good C s) (negP : Bool) (negC : Bool) (d : Fin 32) (a : Fin 32) (b : Fin 32) (p : Fin 8) (y : Fin 2) :
    Next C (State.vfused s negP negC d a b p y) := by
  unfold State.vfused
  grind [next_mk, good_mk, good_guarded, good_retire, good_landEv, good_landV]

theorem good_execVfma (d : Fin 32) (a : Fin 32) (b : Fin 32) (p : Fin 8) (y : Fin 2) {s : State} (hs : Good C s) :
    Next C (execVfma d a b p y s) := by
  unfold execVfma
  grind [next_mk, good_mk, good_vfused]

theorem good_execVfms (d : Fin 32) (a : Fin 32) (b : Fin 32) (p : Fin 8) (y : Fin 2) {s : State} (hs : Good C s) :
    Next C (execVfms d a b p y s) := by
  unfold execVfms
  grind [next_mk, good_mk, good_vfused]

theorem good_execVfnma (d : Fin 32) (a : Fin 32) (b : Fin 32) (p : Fin 8) (y : Fin 2) {s : State} (hs : Good C s) :
    Next C (execVfnma d a b p y s) := by
  unfold execVfnma
  grind [next_mk, good_mk, good_vfused]

theorem good_execVfnms (d : Fin 32) (a : Fin 32) (b : Fin 32) (p : Fin 8) (y : Fin 2) {s : State} (hs : Good C s) :
    Next C (execVfnms d a b p y s) := by
  unfold execVfnms
  grind [next_mk, good_mk, good_vfused]

theorem good_execVcvt (d : Fin 32) (a : Fin 32) (p : Fin 8) (y : Fin 16) (x : Fin 16) {s : State} (hs : Good C s) :
    Next C (execVcvt d a p y x s) := by
  unfold execVcvt
  grind [next_mk, good_mk, good_guarded, good_retire, good_landEv, good_landV]

theorem good_execVpackBfp (d : Fin 32) (a : Fin 32) (w : Fin 32) (p : Fin 8) {s : State} (hs : Good C s) :
    Next C (execVpackBfp d a w p s) := by
  unfold execVpackBfp
  grind [next_mk, good_mk, good_guarded, good_retire, good_landEv, good_landV]

theorem good_execVunpackBfp (d : Fin 32) (a : Fin 32) (w : Fin 32) (p : Fin 8) {s : State} (hs : Good C s) :
    Next C (execVunpackBfp d a w p s) := by
  unfold execVunpackBfp
  grind [next_mk, good_mk, good_guarded, good_retire, good_landV]

theorem good_redInt {s : State} (hs : Good C s) (d : Fin 32) (a : Fin 32) (p : Fin 8) (y : Fin 8) (identity : Int) (op : Word → Word → Word) (empty : Bool) :
    Next C (State.redInt s d a p y identity op empty) := by
  unfold State.redInt
  grind [next_mk, good_mk, good_guarded, good_retire, good_landEv, good_landG]

theorem good_redFp {s : State} (hs : Good C s) (d : Fin 32) (a : Fin 32) (p : Fin 8) (y : Fin 2) (identity : Nat) (empty : Nat) (op : Nat → Nat → Nat × Ev) (ev : Ev) :
    Next C (State.redFp s d a p y identity empty op ev) := by
  unfold State.redFp
  grind [next_mk, good_mk, good_guarded, good_retire, good_landEv, good_landG]

theorem good_execVredsum (d : Fin 32) (a : Fin 32) (p : Fin 8) (y : Fin 8) {s : State} (hs : Good C s) :
    Next C (execVredsum d a p y s) := by
  unfold execVredsum
  grind [next_mk, good_mk, good_redInt]

theorem good_execVfredsum (d : Fin 32) (a : Fin 32) (p : Fin 8) (y : Fin 2) {s : State} (hs : Good C s) :
    Next C (execVfredsum d a p y s) := by
  unfold execVfredsum
  grind [next_mk, good_mk, good_redFp]

theorem good_execVredmax (d : Fin 32) (a : Fin 32) (p : Fin 8) (y : Fin 8) {s : State} (hs : Good C s) :
    Next C (execVredmax d a p y s) := by
  unfold execVredmax
  grind [next_mk, good_mk, good_redInt]

theorem good_execVredmin (d : Fin 32) (a : Fin 32) (p : Fin 8) (y : Fin 8) {s : State} (hs : Good C s) :
    Next C (execVredmin d a p y s) := by
  unfold execVredmin
  grind [next_mk, good_mk, good_redInt]

theorem good_execVfredmax (d : Fin 32) (a : Fin 32) (p : Fin 8) (y : Fin 2) {s : State} (hs : Good C s) :
    Next C (execVfredmax d a p y s) := by
  unfold execVfredmax
  grind [next_mk, good_mk, good_redFp]

theorem good_execVfredmin (d : Fin 32) (a : Fin 32) (p : Fin 8) (y : Fin 2) {s : State} (hs : Good C s) :
    Next C (execVfredmin d a p y s) := by
  unfold execVfredmin
  grind [next_mk, good_mk, good_redFp]

theorem good_execVredand (d : Fin 32) (a : Fin 32) (p : Fin 8) (y : Fin 8) {s : State} (hs : Good C s) :
    Next C (execVredand d a p y s) := by
  unfold execVredand
  grind [next_mk, good_mk, good_redInt]

theorem good_execVredor (d : Fin 32) (a : Fin 32) (p : Fin 8) (y : Fin 8) {s : State} (hs : Good C s) :
    Next C (execVredor d a p y s) := by
  unfold execVredor
  grind [next_mk, good_mk, good_redInt]

theorem good_sfu {s : State} (hs : Good C s) (d : Fin 32) (a : Fin 32) (sl : Fin 16) (p : Fin 8) (f : Nat → Nat × Ev) :
    Next C (State.sfu s d a sl p f) := by
  unfold State.sfu
  refine good_guarded hs _ _ _ fun t ht => ?_
  dsimp only
  split
  · exact ht
  split
  · exact good_waitMem ht
  · exact good_retire (good_pendSeal (good_pendReg (good_schedule (good_modNib (good_modOp (good_newOp ht ..) ..) ..) ..) ..) ..)

theorem good_landOp {s : State} (hs : Good C s) (o : Op) (ws : List RegWrite) (e : Ev) :
    Good C (State.landOp s o ws e) := by
  unfold State.landOp
  grind [good_mk, good_dropOp, good_modCid]

theorem good_execSfuService (n : NibId) {s : State} (hs : Good C s) :
    Next C (execSfuService n s) := by
  unfold execSfuService
  grind [next_mk, good_mk, good_schedule, good_modOp, good_modNib]

theorem good_execSfuResult (id : Nat) {s : State} (hs : Good C s) :
    Next C (execSfuResult id s) := by
  unfold execSfuResult
  grind [next_mk, good_mk, good_modNib, good_landOp]

theorem good_execVexp2 (d : Fin 32) (a : Fin 32) (sl : Fin 16) (p : Fin 8) {s : State} (hs : Good C s) :
    Next C (execVexp2 d a sl p s) := by
  unfold execVexp2
  grind [next_mk, good_mk, good_sfu]

theorem good_execVlog2 (d : Fin 32) (a : Fin 32) (sl : Fin 16) (p : Fin 8) {s : State} (hs : Good C s) :
    Next C (execVlog2 d a sl p s) := by
  unfold execVlog2
  grind [next_mk, good_mk, good_sfu]

theorem good_execVrcp (d : Fin 32) (a : Fin 32) (sl : Fin 16) (p : Fin 8) {s : State} (hs : Good C s) :
    Next C (execVrcp d a sl p s) := by
  unfold execVrcp
  grind [next_mk, good_mk, good_sfu]

theorem good_execVrsqrt (d : Fin 32) (a : Fin 32) (sl : Fin 16) (p : Fin 8) {s : State} (hs : Good C s) :
    Next C (execVrsqrt d a sl p s) := by
  unfold execVrsqrt
  grind [next_mk, good_mk, good_sfu]

theorem good_execVrand (d : Fin 32) (p : Fin 8) {s : State} (hs : Good C s) :
    Next C (execVrand d p s) := by
  unfold execVrand
  grind [next_mk, good_mk, good_guarded, good_raise, good_retire, good_land, good_landV]

theorem good_execVpop (d : Fin 32) {s : State} (hs : Good C s) :
    Next C (execVpop d s) := by
  unfold execVpop
  grind [next_mk, good_mk, good_guarded, good_waitMsg, good_retire, good_setLc, good_land, good_landV]

theorem good_execVpush (a : Fin 32) {s : State} (hs : Good C s) :
    Next C (execVpush a s) := by
  unfold execVpush
  grind [next_mk, good_mk, good_guarded, good_waitMsg, good_retire, good_land]

theorem good_execVrot (n : Fin 16) {s : State} (hs : Good C s) :
    Next C (execVrot n s) := by
  unfold execVrot
  grind [next_mk, good_mk, good_simple, good_land]

theorem good_execSploop (x : BitVec 16) {s : State} (hs : Good C s) :
    Next C (execSploop x s) := by
  unfold execSploop
  refine good_guarded hs _ _ _ fun t ht => ?_
  have rotate (v : Word) (c stg : Nat) {u : State} (hu : Good C u) :
      Good C (((List.range 4).foldl (fun s k => s.landP 1 (Fin.ofNat 8 (4 + k)) (if stg.testBit k then BitVec.allOnes 128 else 0))
        ((u.land 1 (.spctl v)).land 1 (.vrb c)))) :=
    good_foldl _ (fun _ _ h => good_landP h ..) (good_land (good_land hu ..) ..)
  dsimp only
  split
  · exact good_transfer ht _ _ fun u hu => rotate _ _ _ hu
  split
  · exact good_transfer ht _ _ fun u hu => rotate _ _ _ hu
  · exact good_fallThrough ht _

theorem good_execVtopk (d : Fin 32) (a : Fin 32) (l : Fin 4) (k : Fin 8) (p : Fin 8) (y : Fin 16) {s : State} (hs : Good C s) :
    Next C (execVtopk d a l k p y s) := by
  unfold execVtopk
  grind [next_mk, good_mk, good_simple, good_landV]

theorem good_execVsortkv (d : Fin 32) (a : Fin 32) (l : Fin 8) (p : Fin 8) (y : Fin 2) {s : State} (hs : Good C s) :
    Next C (execVsortkv d a l p y s) := by
  unfold execVsortkv
  grind [next_mk, good_mk, good_simple, good_landV]

theorem good_execVbinpos (d : Fin 32) (a : Fin 32) (p : Fin 8) (y : Fin 4) {s : State} (hs : Good C s) :
    Next C (execVbinpos d a p y s) := by
  unfold execVbinpos
  grind [next_mk, good_mk, good_guarded, good_retire, good_landEv, good_landV, good_land]

theorem good_execVbinclr {s : State} (hs : Good C s) :
    Next C (execVbinclr s) := by
  unfold execVbinclr
  grind [next_mk, good_mk, good_simple, good_land]

theorem good_execVbinrd (d : Fin 32) (a : Fin 32) {s : State} (hs : Good C s) :
    Next C (execVbinrd d a s) := by
  unfold execVbinrd
  grind [next_mk, good_mk, good_simple, good_landV]

theorem good_select {s : State} (hs : Good C s) (col : Bool) (sl : Fin 16) (a : Fin 32) :
    Next C (State.select s col sl a) := by
  unfold State.select
  refine good_guarded hs _ _ _ fun t ht => ?_
  dsimp only
  split
  · exact good_raise ht ..
  split
  · exact good_raise ht ..
  split
  · exact good_raise ht ..
  split
  · exact good_raise ht ..
  split
  · exact ht
  split
  · exact good_waitMem ht
  · exact good_retire (good_pendSeal (good_schedule (good_modNib (good_modOp (good_newOp (good_localLoad ht ..) ..) ..) ..) ..) ..)

theorem good_execSelr (sl : Fin 16) (a : Fin 32) {s : State} (hs : Good C s) :
    Next C (execSelr sl a s) := by
  unfold execSelr
  grind [next_mk, good_mk, good_select]

theorem good_execSelc (sl : Fin 16) (a : Fin 32) {s : State} (hs : Good C s) :
    Next C (execSelc sl a s) := by
  unfold execSelc
  grind [next_mk, good_mk, good_select]

theorem good_engRead {s : State} (hs : Good C s) (n : NibId) (off : Nat) (size : Nat) (lc : Clk) :
    Good C (State.engRead s n off size lc).2.2 := by
  unfold State.engRead
  grind [good_mk, good_stampRange]

theorem good_engWrite {s : State} (hs : Good C s) (n : NibId) (off : Nat) (size : Nat) (x : Nat) (lc : Clk) :
    Good C (State.engWrite s n off size x lc).2 := by
  unfold State.engWrite
  grind [good_mk, good_write, good_stampRange]

theorem good_selServe {u : State} (hu : Good C u) (n : NibId) (i : SelIn) (x y z w : Nat) (t : Clk) (col : Bool) :
    Good C (if col then
        let (out, cover) := i.selc
        let (t, s) := u.engWrite n x y out t
        if w = 0 then (t, s) else s.engWrite n w i.rows cover t
      else
        let (fill, t, s) := u.engRead n z 256 t
        let (out, fill) := i.selr fill
        let (t, s) := s.engWrite n x (8 * i.k * i.rows) out t
        s.engWrite n z 256 fill t).2 := by
  refine good_ite_snd ?_ ?_
  · exact good_ite_snd (good_engWrite hu ..) (good_engWrite (good_engWrite hu ..) ..)
  · split
    next h => exact good_engWrite (good_engWrite (good_snd_snd h (good_engRead hu ..)) ..) ..

theorem good_selArray {u : State} (hu : Good C u) (n : NibId) (x : Nat) (t : Clk) (off size : Nat) :
    Good C (if descField x off 4 = 0 then (0, t, u) else u.engRead n (descField x off 4) size t).2.2 := by
  split
  · exact hu
  · exact good_engRead hu ..

theorem good_execSelectService (n : NibId) {s : State} (hs : Good C s) :
    Next C (execSelectService n s) := by
  unfold execSelectService
  split
  · exact next_mk hs
  split
  · exact next_mk (good_modNib hs ..)
  split
  · refine next_ite (next_mk hs) (next_ite (next_mk (good_schedule hs ..)) (next_ite (next_mk (good_schedule hs ..)) ?_))
    extract_lets x rows cols k pitch opt
    split
    next scores t s1 h1 =>
    have g1 : Good C s1 := good_snd_snd h1 (good_engRead hs ..)
    split
    next cap t2 s2 h2 =>
    have g2 : Good C s2 := good_snd_snd h2 (good_selArray g1 ..)
    split
    next repl t3 s3 h3 =>
    have g3 : Good C s3 := good_snd_snd h3 (good_selArray g2 ..)
    extract_lets i
    split
    next t4 s4 h4 =>
    have g4 : Good C s4 := good_snd h4 (good_selServe g3 n i ..)
    exact next_mk (good_ite (good_modNib (good_modOp g4 ..) ..) (good_schedule (good_modNib (good_modOp g4 ..) ..) ..))
  · exact next_mk (good_modNib hs ..)

theorem good_execSelectPost (id : Nat) {s : State} (hs : Good C s) :
    Next C (execSelectPost id s) := by
  unfold execSelectPost
  grind [next_mk, good_mk, good_landOp]

theorem good_modMatrix {s : State} (hs : Good C s) (n : NibId) (f : Matrix → Matrix) :
    Good C (State.modMatrix s n f) := by
  unfold State.modMatrix
  grind [good_mk, good_modNib]

theorem good_deliver {s : State} (hs : Good C s) (n : NibId) (cid : Nat) (code : BitVec 8) (val : Word) :
    Good C (State.deliver s n cid code val) := by
  unfold State.deliver
  grind [good_mk, good_modCid]

theorem good_setSkip {s : State} (hs : Good C s) (n : NibId) (c : Ctx) (t : Fin 8) (off : Nat) (clk : Clk) :
    Good C (State.setSkip s n c t off clk).2 := by
  unfold State.setSkip
  grind [good_mk, good_write, good_writeStamp]

theorem good_wakeSerif {s : State} (hs : Good C s) (n : NibId) (off : Nat) (woke : Bool) (clk : Clk) :
    Good C (State.wakeSerif s n off woke clk).2 := by
  unfold State.wakeSerif
  grind [good_mk, good_modCid, good_setSkip]

theorem good_serifDecNow {s : State} (hs : Good C s) (n : NibId) (off : Nat) (lost : Bool) (clk : Clk) :
    Good C (State.serifDecNow s n off lost clk).2 := by
  unfold State.serifDecNow
  grind [good_mk, good_write, good_modCid, good_wakeSerif]

theorem good_serifWakeNow {s : State} (hs : Good C s) (n : NibId) (off : Nat) (clk : Clk) :
    Good C (State.serifWakeNow s n off clk).2 := by
  unfold State.serifWakeNow
  grind [good_mk, good_write, good_wakeSerif]

theorem good_decrement {s : State} (hs : Good C s) (n : NibId) (off : Nat) (lost : Bool) (clk : Clk) :
    Good C (State.decrement s n off lost clk).2 := by
  unfold State.decrement
  grind [good_mk, good_writeStamp, good_modCid, good_serifDecNow]

theorem good_clearExpect {s : State} (hs : Good C s) (n : NibId) (off : Nat) (src : BitVec 32) :
    Good C (State.clearExpect s n off src) := by
  unfold State.clearExpect
  grind [good_mk, good_modNib]

theorem good_decrDone {s : State} (hs : Good C s) (o : Op) (t : Clk) :
    Good C (State.decrDone s o t) := by
  unfold State.decrDone
  grind [good_mk, good_modOp, good_schedule, good_modMatrix]

theorem good_execLandingDecrement (n : NibId) (x : BitVec 64) (src : NibId) {s : State} (hs : Good C s) :
    Next C (execLandingDecrement n x src s) := by
  unfold execLandingDecrement
  grind [next_mk, good_mk, good_dropOp, good_decrement, good_clearExpect, good_decrDone]

theorem good_execSwake (t : Fin 8) (a : Fin 32) {s : State} (hs : Good C s) :
    Next C (execSwake t a s) := by
  unfold execSwake
  grind [next_mk, good_mk, good_guarded, good_raise, good_keepOld, good_writeStamp, good_setLc, good_retire, good_modCtx, good_serifWakeNow]

theorem good_execSstat (d : Fin 32) (t : Fin 8) {s : State} (hs : Good C s) :
    Next C (execSstat d t s) := by
  unfold execSstat
  grind [next_mk, good_mk, good_simple, good_landG]

theorem good_execSdecl (t : Fin 8) (a : Fin 32) {s : State} (hs : Good C s) :
    Next C (execSdecl t a s) := by
  unfold execSdecl
  refine good_guarded hs _ _ _ fun u hu => ?_
  dsimp only
  have load := good_localLoad hu (u.rg a).toNat 32
  generalize u.localLoad (u.rg a).toNat 32 = y at *
  repeat' split
  all_goals first
    | exact hu
    | exact good_raise hu ..
    | exact good_retire (good_land load ..)

theorem good_execSweep (t : Fin 8) (sl : Fin 16) {s : State} (hs : Good C s) :
    Next C (execSweep t sl s) := by
  unfold execSweep
  grind [next_mk, good_mk, good_guarded, good_raise, good_retire, good_pendSeal, good_modCtx]

theorem good_modSweepAt {s : State} (hs : Good C s) (n : NibId) (k : Fin 8) (f : Sweep → Sweep) :
    Good C (State.modSweepAt s n k f) := by
  unfold State.modSweepAt
  grind [good_mk, good_modCtxAt]

theorem good_afterSnap {s : State} (hs : Good C s) (n : NibId) (k : Fin 8) (w : Sweep) (t : Slot) :
    Good C (State.afterSnap s n k w t) := by
  unfold State.afterSnap
  grind [good_mk, good_engRead, good_engWrite, good_modSweepAt]

theorem good_endSweep {s : State} (hs : Good C s) (n : NibId) (k : Fin 8) (w : Sweep) (done : Bool) :
    Good C (State.endSweep s n k w done) := by
  unfold State.endSweep
  grind [good_mk, good_modCtxAt]

theorem good_execBrushRead (n : NibId) (k : Fin 8) {s : State} (hs : Good C s) :
    Next C (execBrushRead n k s) := by
  unfold execBrushRead
  grind [next_mk, good_mk, good_engRead, good_modSweepAt, good_endSweep]

theorem good_execBrushLoad (n : NibId) (k : Fin 8) {s : State} (hs : Good C s) :
    Next C (execBrushLoad n k s) := by
  unfold execBrushLoad
  grind [next_mk, good_mk, good_engRead, good_engWrite, good_afterSnap]

theorem good_execStepBlockStart (n : NibId) (k : Fin 8) {s : State} (hs : Good C s) :
    Next C (execStepBlockStart n k s) := by
  unfold execStepBlockStart
  grind [next_mk, good_mk, good_engRead, good_engWrite, good_endSweep, good_modCtxAt, good_modSweepAt]

theorem good_execWriteBack (n : NibId) (k : Fin 8) {s : State} (hs : Good C s) :
    Next C (execWriteBack n k s) := by
  have merge (l : List Merge) (acc : Clk × State) (h : Good C acc.2) :
      Good C (l.foldl (fun (acc : Clk × State) m => match m with
          | .dec off lost t =>
            let (u, s) := acc.2.writeStamp (wellPA n off) (Clk.max acc.1 t)
            s.serifDecNow n off lost u
          | .wake off t =>
            let (u, s) := acc.2.writeStamp (wellPA n off) (Clk.max acc.1 t)
            s.serifWakeNow n off u) acc).2 := by
    refine good_foldl_snd _ (fun acc m h => ?_) h
    split
    · exact good_serifDecNow (good_writeStamp h ..) ..
    · exact good_serifWakeNow (good_writeStamp h ..) ..
  unfold execWriteBack
  split
  · exact next_mk hs
  split
  · split
    · exact next_mk hs
    · exact next_mk (good_afterSnap (merge _ _ (good_modSweepAt (good_foldl_snd _ (fun acc j h => good_engWrite h ..) hs) ..)) ..)
  · exact next_mk hs

theorem good_execEcall {s : State} (hs : Good C s) :
    Next C (execEcall s) := by
  unfold execEcall
  grind [next_mk, good_mk, good_guarded, good_raiseAt]

theorem good_execEbreak {s : State} (hs : Good C s) :
    Next C (execEbreak s) := by
  unfold execEbreak
  grind [next_mk, good_mk, good_guarded, good_retire, good_raise]

theorem good_execTret {s : State} (hs : Good C s) :
    Next C (execTret s) := by
  unfold execTret
  grind [next_mk, good_mk, good_illegal, good_guarded, good_markIssued, good_modCtx]

theorem good_execWfm {s : State} (hs : Good C s) :
    Next C (execWfm s) := by
  unfold execWfm
  grind [next_mk, good_mk, good_guarded, good_waitMsg, good_retire]

theorem good_execHalt {s : State} (hs : Good C s) :
    Next C (execHalt s) := by
  unfold execHalt
  grind [next_mk, good_mk, good_illegal, good_guarded, good_retire]

theorem good_execFenceI {s : State} (hs : Good C s) :
    Next C (execFenceI s) := by
  unfold execFenceI
  grind [next_mk, good_mk, good_guarded, good_retire]

theorem good_kernelOnly {s : State} (hs : Good C s) {r : State → Res} (h : Next C (r s)) : Next C (s.kernelOnly r) := by
  unfold State.kernelOnly
  split
  · exact h
  · exact next_mk (good_illegal hs)

theorem good_illegalVal {s : State} (hs : Good C s) (x : Word) :
    Good C (State.illegalVal s x) := by
  unfold State.illegalVal
  grind [good_mk, good_raise]

theorem good_execRqpush (a : Fin 32) (b : Fin 32) {s : State} (hs : Good C s) :
    Next C (execRqpush a b s) := by
  unfold execRqpush
  grind [next_mk, good_mk, good_kernelOnly, good_guarded, good_illegalVal, good_retire, good_setNib]

theorem good_execRqpop (d : Fin 32) {s : State} (hs : Good C s) :
    Next C (execRqpop d s) := by
  unfold execRqpop
  grind [next_mk, good_mk, good_kernelOnly, good_guarded, good_retire, good_landG, good_setNib]

theorem good_execRqpark (a : Fin 32) {s : State} (hs : Good C s) :
    Next C (execRqpark a s) := by
  unfold execRqpark
  grind [next_mk, good_mk, good_kernelOnly, good_guarded, good_illegalVal, good_retire, good_setNib]

theorem good_execRqstate (d : Fin 32) (a : Fin 32) {s : State} (hs : Good C s) :
    Next C (execRqstate d a s) := by
  unfold execRqstate
  grind [next_mk, good_mk, good_kernelOnly, good_guarded, good_illegalVal, good_setNib, good_schedule, good_retire, good_landG]

theorem good_execTmset (a : Fin 32) (b : Fin 32) {s : State} (hs : Good C s) :
    Next C (execTmset a b s) := by
  unfold execTmset
  grind [next_mk, good_mk, good_kernelOnly, good_guarded, good_illegal, good_retire, good_land]

theorem good_unwaitLock {s : State} (hs : Good C s) (n : NibId) (k : Fin 8) :
    Good C (State.unwaitLock s n k) := by
  unfold State.unwaitLock
  grind [good_mk, good_modNib]

theorem good_execWlock (a : Fin 32) (b : Fin 32) {s : State} (hs : Good C s) :
    Next C (execWlock a b s) := by
  unfold execWlock
  grind [next_mk, good_mk, good_guarded, good_illegalVal, good_modNib, good_waitMsg, good_retire, good_land, good_unwaitLock]

theorem good_execWunlock (a : Fin 32) {s : State} (hs : Good C s) :
    Next C (execWunlock a s) := by
  unfold execWunlock
  grind [next_mk, good_mk, good_guarded, good_retire, good_land, good_illegalVal]

theorem good_execCtxsw (a : Fin 32) {s : State} (hs : Good C s) :
    Next C (execCtxsw a s) := by
  unfold execCtxsw
  grind [next_mk, good_mk, good_guarded, good_illegalVal, good_retire, good_modStroke]

theorem good_ctxMove {s : State} (hs : Good C s) (store : Bool) (a : Fin 32) (b : Fin 32) :
    Next C (State.ctxMove s store a b) := by
  unfold State.ctxMove
  refine good_guarded hs _ _ _ fun t ht => ?_
  refine good_ite (good_illegalVal ht ..) (good_ite (good_raise ht ..) ?_)
  split
  · refine good_ite ht ?_
    dsimp only
    split
    · exact good_parkReplay (good_dropOp ht ..) ..
    · exact good_raise (good_dropOp ht ..) ..
    · exact good_retire (good_dropOp ht ..)
  · dsimp only
    exact good_ite (good_illegalVal ht ..) (good_ite (good_raise ht ..) (good_schedule (good_freeCycle (good_newOp ht ..) ..) ..))

theorem good_execCtxst (a : Fin 32) (b : Fin 32) {s : State} (hs : Good C s) :
    Next C (execCtxst a b s) := by
  unfold execCtxst
  grind [next_mk, good_mk, good_ctxMove]

theorem good_execCtxld (a : Fin 32) (b : Fin 32) {s : State} (hs : Good C s) :
    Next C (execCtxld a b s) := by
  unfold execCtxld
  grind [next_mk, good_mk, good_ctxMove]

theorem good_engLoad {s : State} (hs : Good C s) (n : NibId) (y0 : List Range) (y1 : Clk) (y2 : Nat) :
    Good C (State.engLoad s n y0 y1 y2).2.2 := by
  induction y0 generalizing s y1 y2 with
  | nil => exact hs
  | cons r rs ih => exact ih (good_readStamp hs ..) ..

theorem good_engStore {s : State} (hs : Good C s) (x : Nat) (y0 : List Range) (y1 : Clk) :
    Good C (State.engStore s x y0 y1).2 := by
  induction y0 generalizing s y1 with
  | nil => exact hs
  | cons r rs ih => exact ih (good_write (good_writeStamp hs r.pa y1) ..) _

theorem good_crossBorder {s : State} (hs : Good C s) (p : Fin 16) (chan : Fin 4) (owes : List (Fin 16 × Nat)) (evs : List (Nat × Instr)) :
    Good C (State.crossBorder s p chan owes evs) := by
  unfold State.crossBorder
  grind [good_mk]

theorem good_dropThrough {s : State} (hs : Good C s) (ev : Instr) :
    Good C (State.dropThrough s ev) := by
  unfold State.dropThrough
  grind [good_mk]

theorem good_atBorder {s : State} (hs : Good C s) (p : Fin 16) (chan : Fin 4) (owes : List (Fin 16 × Nat)) (ev : Instr) {act : State → State} (hact : ∀ x0, Good C x0 → Good C (act x0)) :
    Good C (State.atBorder s p chan owes ev act) := by
  unfold State.atBorder
  grind [good_mk, good_dropThrough]

theorem good_goOn {s : State} (hs : Good C s) (p : Fin 16) (c : Crossing) :
    Good C (State.goOn s p c) := by
  unfold State.goOn
  grind [good_mk]

theorem good_coalesce {s : State} (hs : Good C s) (op : Nat) (n : NibId) (k : Fin 8) (asid : BitVec 16) (va : Word) (code : Nat) :
    Good C (State.coalesce s op n k asid va code) := by
  unfold State.coalesce
  grind [good_mk, good_freeCycle, good_crossBorder, good_modPart]

theorem good_parkEngine {s : State} (hs : Good C s) (n : NibId) (k : Fin 8) (cid : Nat) (root : Word) (va : Word) (kind : OpKind) :
    Good C (State.parkEngine s n k cid root va kind) := by
  unfold State.parkEngine
  grind [good_mk, good_newId, good_coalesce]

theorem good_quillGo {s : State} (hs : Good C s) (n : NibId) :
    Good C (State.quillGo s n) := by
  unfold State.quillGo
  grind [good_mk, good_schedule]

theorem good_raisePart {s : State} (hs : Good C s) (p : Fin 16) (f : Clk) :
    Good C (State.raisePart s p f) := by
  unfold State.raisePart
  refine good_foldl _ (fun t n ht => good_foldl _ (fun u e hu => ?_) (good_modNib ht ..)) (good_modPart ?_ ..)
  · split
    · exact good_modEntry hu ..
    · exact hu
  · exact good_of_eq hs rfl rfl rfl rfl

theorem good_matrixSettle {s : State} (hs : Good C s) (n : NibId) (id : Nat) :
    Good C (State.matrixSettle s n id) := by
  unfold State.matrixSettle
  grind [good_mk, good_newId, good_modMatrix]

theorem good_matrixStop {s : State} (hs : Good C s) (n : NibId) (c : MCmd) (kind : Nat) (cause : BitVec 8) (va : Word) (again : Instr) :
    Good C (State.matrixStop s n c kind cause va again) := by
  unfold State.matrixStop
  grind [good_mk, good_schedule, good_modMatrix, good_modCid, good_deliver]

theorem good_bankStop {s : State} (hs : Good C s) (n : NibId) (c : MCmd) (off : Int) :
    Good C (State.bankStop s n c off) := by
  unfold State.bankStop
  grind [good_mk, good_freshNum, good_matrixStop]

theorem good_mfetch {s : State} (hs : Good C s) (n : NibId) (c : MCmd) (va : Word) (size align : Nat) (write : Bool) (kind : Nat)
    (again : Instr) : ∀ t, s.mfetch n c va size align write kind again = .stop t → Good C t := by
  unfold State.mfetch
  dsimp only
  grind [good_matrixStop, good_parkEngine, good_modMatrix, good_schedule]

theorem good_mread {s : State} (hs : Good C s) (n : NibId) (c : MCmd) (va : Word) (size : Nat) (kind : Nat) (again : Instr) :
    Good C (State.mread s n c va size kind again).2 := by
  unfold State.mread
  split
  · exact good_mfetch hs _ _ _ _ _ _ _ _ _ ‹_›
  · exact good_engLoad hs ..

theorem good_mreads {s : State} (hs : Good C s) (n : NibId) (size : Nat) (kind : Nat) (again : Instr) (y0 : List (Nat × Word)) (y1 : MCmd) (y2 : List (Nat × Nat)) :
    Good C (State.mreads s n size kind again y0 y1 y2).2 := by
  induction y0 generalizing s y1 y2 with
  | nil => exact hs
  | cons r rs ih =>
    unfold State.mreads
    split
    · exact good_snd ‹_› (good_mread hs ..)
    · exact ih (good_snd ‹_› (good_mread hs ..)) ..

theorem good_holdArray {s : State} (hs : Good C s) (n : NibId) (c : MCmd) (units : Nat) :
    Good C (State.holdArray s n c units) := by
  unfold State.holdArray
  grind [good_mk, good_schedule, good_modMatrix]

theorem good_beginSlab {s : State} (hs : Good C s) (n : NibId) (c : MCmd) (rows : List (Nat × Nat)) (off : Nat) :
    Good C (State.beginSlab s n c rows off) := by
  unfold State.beginSlab
  grind [good_mk, good_modMatrix, good_holdArray]

theorem good_forwardPanel {s : State} (hs : Good C s) (n : NibId) (c : MCmd) (afwd : Fin 4) (data : Nat) :
    Good C (State.forwardPanel s n c afwd data) := by
  unfold State.forwardPanel
  grind [good_mk, good_newId, good_freeCycle, good_schedule]

theorem good_takePanel {s : State} (hs : Good C s) (n : NibId) (c : MCmd) (asrc : Fin 4) :
    ∀ t, State.takePanel s n c asrc = some t → Good C t.2 := by
  unfold State.takePanel
  grind [good_mk, good_modMatrix]

theorem good_nextNest {s : State} (hs : Good C s) (n : NibId) (c : MCmd) (asrc : Fin 4) (afwd : Fin 4) :
    Good C (State.nextNest s n c asrc afwd) := by
  unfold State.nextNest
  dsimp only
  split
  · exact good_bankStop hs ..
  split
  · split
    next h => exact good_snd h (good_mreads hs ..)
    next h => exact good_beginSlab (good_forwardPanel (good_snd h (good_mreads hs ..)) ..) ..
  · split
    · exact hs
    next h => exact good_beginSlab (good_forwardPanel (good_takePanel hs _ _ _ _ h) ..) ..

theorem good_resident {s : State} (hs : Good C s) (n : NibId) (c : MCmd) (expert : Nat) :
    Good C (State.resident s n c expert).2 := by
  unfold State.resident
  grind [good_mk, good_matrixStop, good_modMatrix, good_readStamp]

theorem good_leaveArray {s : State} (hs : Good C s) (n : NibId) (c : MCmd) :
    Good C (State.leaveArray s n c) := by
  unfold State.leaveArray
  grind [good_mk, good_modMatrix, good_schedule, good_matrixSettle]

theorem good_putArray {s : State} (hs : Good C s) (n : NibId) (c : MCmd) :
    Good C (State.putArray s n c) := by
  unfold State.putArray
  grind [good_mk, good_modMatrix]

theorem good_pickGroup {s : State} (hs : Good C s) (n : NibId) (list : Word) (total : Nat) (c : MCmd) (y0 : Nat) :
    Good C (State.pickGroup s n list total c y0).2 := by
  induction y0 generalizing s c with
  | zero => exact hs
  | succ fuel ih =>
    unfold State.pickGroup
    split
    · dsimp only
      split
      · exact good_snd ‹_› (good_mread hs ..)
      have hm := good_snd ‹_› (good_mread hs ..)
      split
      · exact good_matrixStop hm ..
      split
      · exact ih hm ..
      split
      · exact good_snd ‹_› (good_resident hm ..)
      have hr := good_snd ‹_› (good_resident hm ..)
      split
      · exact hr
      · exact ih hr ..
    · split
      · exact good_leaveArray hs ..
      · split
        · exact hs
        · exact good_schedule (good_putArray hs ..) ..

theorem good_readRows {s : State} (hs : Good C s) (n : NibId) (g : Group) (y0 : List Nat) (y1 : MCmd) (y2 : List GRow) :
    Good C (State.readRows s n g y0 y1 y2).2 := by
  induction y0 generalizing s y1 y2 with
  | nil => exact hs
  | cons r rs ih =>
    unfold State.readRows
    dsimp only
    split
    · exact good_snd ‹_› (good_mread hs ..)
    have hm := good_snd ‹_› (good_mread hs ..)
    split
    · exact good_snd ‹_› (good_mread hm ..)
    · exact ih (good_snd ‹_› (good_mread hm ..)) ..

theorem good_groupSlab {s : State} (hs : Good C s) (n : NibId) (c : MCmd) (g : Group) :
    Good C (State.groupSlab s n c g) := by
  unfold State.groupSlab
  grind [good_mk, good_bankStop, good_mreads, good_beginSlab, good_readRows]

theorem good_nextGroup {s : State} (hs : Good C s) (n : NibId) (c : MCmd) (list : Word) (total : Nat) :
    Good C (State.nextGroup s n c list total) := by
  unfold State.nextGroup
  grind [good_mk, good_pickGroup, good_groupSlab, good_modMatrix, good_freeCycle, good_schedule]

theorem good_startSlab {s : State} (hs : Good C s) (n : NibId) :
    Good C (State.startSlab s n) := by
  unfold State.startSlab
  grind [good_mk, good_nextNest, good_nextGroup]

theorem good_addRows {s : State} (hs : Good C s) (c : MCmd) (rs : List MRow) (e : Ev) (at_ : Nat) :
    Good C (State.addRows s c rs e at_).2 := by
  unfold State.addRows
  grind [good_mk, good_schedule]

theorem good_emitNest {s : State} (hs : Good C s) (n : NibId) (c : MCmd) (a : Word) :
    Good C (State.emitNest s n c a).2 := by
  unfold State.emitNest
  grind [good_mk, good_addRows]

theorem good_emitGroup {s : State} (hs : Good C s) (n : NibId) (c : MCmd) :
    Good C (State.emitGroup s n c).2 := by
  unfold State.emitGroup
  grind [good_mk, good_addRows]

theorem good_afterSlab {s : State} (hs : Good C s) (n : NibId) (c : MCmd) :
    Good C (State.afterSlab s n c) := by
  have emitted (l : List Nat) (f : MCmd → Nat → Word) (c : MCmd) :
      Good C (l.foldl (fun (acc : MCmd × State) x => acc.2.emitNest n acc.1 (f acc.1 x)) (c, s)).2 :=
    good_foldl_snd l (fun _ _ h => good_emitNest h ..) hs
  unfold State.afterSlab
  dsimp only
  split
  · split
    · exact good_putArray hs ..
    · exact good_ite (good_startSlab (good_putArray (good_emitGroup hs ..) ..) ..) (good_startSlab (good_putArray hs ..) ..)
  · have he := emitted (c.emitLevels c.slab) (fun d l => d.cAddr c.slab l) { c with running := false, failed := 0 }
    exact good_ite (good_leaveArray he ..) (good_startSlab (good_putArray he ..) ..)

theorem good_failTile {s : State} (hs : Good C s) (n : NibId) (c : MCmd) :
    Good C (State.failTile s n c) := by
  unfold State.failTile
  grind [good_mk, good_schedule, good_putArray, good_modMatrix, good_modCid, good_leaveArray, good_deliver]

theorem good_checkTile {s : State} (hs : Good C s) (n : NibId) (c : MCmd) :
    Good C (State.checkTile s n c) := by
  unfold State.checkTile
  grind [good_mk, good_failTile, good_freshNum, good_afterSlab, good_holdArray]

theorem good_slabEnds {s : State} (hs : Good C s) (n : NibId) (c : MCmd) :
    Good C (State.slabEnds s n c) := by
  unfold State.slabEnds
  grind [good_mk, good_holdArray, good_checkTile, good_afterSlab]

theorem good_execSlabEnd (n : NibId) {s : State} (hs : Good C s) :
    Next C (execSlabEnd n s) := by
  unfold execSlabEnd
  repeat' split
  all_goals grind [next_mk, good_slabEnds, good_leaveArray, good_startSlab]

theorem good_execGroupFillWait (n : NibId) {s : State} (hs : Good C s) :
    Next C (execGroupFillWait n s) := by
  unfold execGroupFillWait
  grind [next_mk, good_mk, good_startSlab]

theorem good_execChainPanelArrival (n : NibId) (dir : Fin 4) (_id : Nat) {s : State} (hs : Good C s) :
    Next C (execChainPanelArrival n dir _id s) := by
  unfold execChainPanelArrival
  grind [next_mk, good_mk, good_modMatrix, good_dropOp, good_startSlab]

theorem good_serve {s : State} (hs : Good C s) (n : NibId) (c : MCmd) :
    Good C (State.serve s n c) := by
  unfold State.serve
  grind [good_mk, good_modMatrix, good_freeCycle, good_schedule, good_leaveArray, good_holdArray, good_startSlab, good_putArray, good_matrixSettle, good_modOp, good_quillGo]

theorem good_dispatchQueue {s : State} (hs : Good C s) (n : NibId) (y0 : Nat) :
    Good C (State.dispatchQueue s n y0) := by
  induction y0 generalizing s with
  | zero => exact hs
  | succ fuel ih =>
    unfold State.dispatchQueue
    dsimp only
    repeat' split
    all_goals first
      | exact hs
      | exact good_schedule hs ..
      | exact ih (good_modMatrix hs ..)
      | exact ih (good_serve (good_modMatrix hs ..) ..)

theorem good_execMatrixDispatch (n : NibId) {s : State} (hs : Good C s) :
    Next C (execMatrixDispatch n s) := by
  unfold execMatrixDispatch
  grind [next_mk, good_mk, good_dispatchQueue]

theorem good_readImage {s : State} (hs : Good C s) (n : NibId) (c : MCmd) (va : Word) (want : Option Nat) (again : Instr) :
    Good C (State.readImage s n c va want again).2 := by
  have bad {t : State} (ht : Good C t) (c : MCmd) : Good C (t.matrixStop n c 5 causeILLEGAL va again) := good_matrixStop ht ..
  unfold State.readImage
  split
  next h => exact good_snd h (good_mread hs ..)
  next h =>
    have hm := good_snd h (good_mread hs ..)
    dsimp only
    repeat' split
    all_goals grind [good_mread]

theorem good_execWeightLoadComplete (n : NibId) {s : State} (hs : Good C s) :
    Next C (execWeightLoadComplete n s) := by
  unfold execWeightLoadComplete
  dsimp only
  split
  · split
    · split
      · exact next_mk hs
      split
      · exact next_mk (good_snd ‹_› (good_readImage hs ..))
      · exact next_mk (good_schedule (good_matrixSettle (good_modMatrix (good_snd ‹_› (good_readImage hs ..)) ..) ..) ..)
    · exact next_mk hs
  · split
    · exact next_mk hs
    split
    · exact next_mk hs
    split
    · exact next_mk hs
    split
    · exact next_mk (good_snd ‹_› (good_readImage hs ..))
    · exact next_mk (good_startSlab (good_modMatrix (good_snd ‹_› (good_readImage hs ..)) ..) ..)

theorem good_sendDecr {s : State} (hs : Good C s) (n : NibId) (k : Fin 8) (cid : Nat) (va : Word) (pa : Nat) (owner : Nat) (t : Clk) :
    Good C (State.sendDecr s n k cid va pa owner t) := by
  unfold State.sendDecr
  grind [good_mk, good_newId, good_freeCycle, good_schedule]

theorem good_rowDone {s : State} (hs : Good C s) (n : NibId) (id : Nat) :
    Good C (State.rowDone s n id) := by
  unfold State.rowDone
  grind [good_mk, good_modMatrix, good_schedule, good_matrixSettle]

theorem good_writeRow {s : State} (hs : Good C s) (n : NibId) (c : MCmd) (r : MRow) (rs : List Range) :
    Good C (State.writeRow s n c r rs).2.2 := by
  unfold State.writeRow
  grind [good_mk, good_engStore, good_modMatrix, good_newId, good_freeCycle, good_schedule]

theorem good_rowSerif {s : State} (hs : Good C s) (n : NibId) (c : MCmd) (r : MRow) (op : Nat) :
    Good C (State.rowSerif s n c r op) := by
  unfold State.rowSerif
  grind [good_mk, good_rowDone, good_matrixStop, good_parkEngine, good_schedule, good_modOp, good_sendDecr]

theorem good_stepRow {s : State} (hs : Good C s) (n : NibId) (id : Nat) (y0 : Nat) :
    Good C (State.stepRow s n id y0) := by
  induction y0 generalizing s with
  | zero => exact hs
  | succ fuel ih =>
    unfold State.stepRow
    split
    · exact hs
    dsimp only
    split
    · exact good_matrixSettle hs ..
    split
    · split
      next h => exact good_snd h (good_mread hs ..)
      next h =>
        have hm := good_snd h (good_mread hs ..)
        split
        · exact ih (good_modMatrix hm ..)
        · exact ih (good_modMatrix hm ..)
    · split
      · exact good_rowSerif hs ..
      split
      next h => exact good_mfetch hs _ _ _ _ _ _ _ _ _ h
      · exact good_rowSerif (good_modMatrix (good_writeRow hs ..) ..) ..

theorem good_execMatrixRowWrite (id : Nat) {s : State} (hs : Good C s) :
    Next C (execMatrixRowWrite id s) := by
  unfold execMatrixRowWrite
  grind [next_mk, good_mk, good_stepRow]

theorem good_execMatrixPost (id : Nat) {s : State} (hs : Good C s) :
    Next C (execMatrixPost id s) := by
  unfold execMatrixPost
  grind [next_mk, good_mk, good_landOp, good_matrixSettle]

theorem good_execMfaultAbort (n : NibId) (k : Fin 8) {s : State} (hs : Good C s) :
    Next C (execMfaultAbort n k s) := by
  unfold execMfaultAbort
  refine next_mk (good_schedule (good_foldl _ (fun t i ht => good_matrixSettle ht ..) ?_) ..)
  split
  · exact good_modCtxAt (good_modMatrix hs ..) ..
  · exact hs

theorem good_configure {s : State} (hs : Good C s) (f : BitVec 12) (v : BitVec 32) :
    Good C (State.configure s f v) := by
  unfold State.configure
  grind [good_mk, good_illegal, good_retire, good_land]

theorem good_enqueue {s : State} (hs : Good C s) (sl : Fin 16) (kind : MKind) (fmt : BitVec 32) :
    Good C (State.enqueue s sl kind fmt) := by
  unfold State.enqueue
  grind [good_mk, good_newId, good_modMatrix, good_schedule]

theorem good_submit {s : State} (hs : Good C s) (sl : Fin 16) (kind : MKind) (fmt : BitVec 32) :
    Good C (State.submit s sl kind fmt) := by
  unfold State.submit
  grind [good_mk, good_waitMem, good_retire, good_enqueue, good_pendSeal]

theorem good_submitFmt {s : State} (hs : Good C s) (sl : Fin 16) (kind : MKind) (grouped : Bool) :
    Good C (State.submitFmt s sl kind grouped) := by
  unfold State.submitFmt
  grind [good_mk, good_raise, good_modCtx, good_waitMem, good_retire, good_pendSeal, good_enqueue]

theorem good_execMcfg (f : BitVec 12) (k : BitVec 32) {s : State} (hs : Good C s) :
    Next C (execMcfg f k s) := by
  unfold execMcfg
  grind [next_mk, good_mk, good_guarded, good_configure]

theorem good_execMcfgr (a : Fin 32) (f : BitVec 12) {s : State} (hs : Good C s) :
    Next C (execMcfgr a f s) := by
  unfold execMcfgr
  grind [next_mk, good_mk, good_illegal, good_guarded, good_configure]

theorem good_execMfmt (a : Fin 32) {s : State} (hs : Good C s) :
    Next C (execMfmt a s) := by
  unfold execMfmt
  grind [next_mk, good_mk, good_guarded, good_raise, good_retire, good_land]

theorem good_execMgo (sl : Fin 16) (w : Fin 4) (c : Fin 4) {s : State} (hs : Good C s) :
    Next C (execMgo sl w c s) := by
  unfold execMgo
  grind [next_mk, good_mk, good_guarded, good_submitFmt, good_illegal]

theorem good_execMgrp (sl : Fin 16) (a : Fin 32) (b : Fin 32) {s : State} (hs : Good C s) :
    Next C (execMgrp sl a b s) := by
  unfold execMgrp
  grind [next_mk, good_mk, good_guarded, good_submitFmt]

theorem good_execMwld (sl : Fin 16) (a : Fin 32) (b : Fin 32) (k : Fin 2) {s : State} (hs : Good C s) :
    Next C (execMwld sl a b k s) := by
  unfold execMwld
  grind [next_mk, good_mk, good_guarded, good_submit]

theorem good_execMzero (a : Fin 32) {s : State} (hs : Good C s) :
    Next C (execMzero a s) := by
  unfold execMzero
  grind [next_mk, good_mk, good_guarded, good_submit]

theorem good_execMrd (sl : Fin 16) (a : Fin 32) (b : Fin 32) {s : State} (hs : Good C s) :
    Next C (execMrd sl a b s) := by
  unfold execMrd
  grind [next_mk, good_mk, good_guarded, good_raise, good_submit]

theorem good_execMresume {s : State} (hs : Good C s) :
    Next C (execMresume s) := by
  unfold execMresume
  grind [next_mk, good_mk, good_simple, good_land]

theorem good_execMstat (d : Fin 32) {s : State} (hs : Good C s) :
    Next C (execMstat d s) := by
  unfold execMstat
  grind [next_mk, good_mk, good_simple, good_landG]

theorem good_issueBlock {s : State} (hs : Good C s) (sl : Fin 16) (addr : Nat) (lines : Nat) (va : Word) (cells : List Range) (drain : Bool) :
    Good C (State.issueBlock s sl addr lines va cells drain) := by
  unfold State.issueBlock
  grind [good_mk, good_newOp, good_freeCycle, good_land, good_retire, good_pendSeal, good_schedule]

theorem good_execLdblk (d : Fin 32) (a : Fin 32) (sl : Fin 16) (l : BitVec 6) {s : State} (hs : Good C s) :
    Next C (execLdblk d a sl l s) := by
  unfold execLdblk
  grind [next_mk, good_mk, good_guarded, good_access, good_raise, good_waitMem, good_issueBlock]

theorem good_execBfree (a : Fin 32) {s : State} (hs : Good C s) :
    Next C (execBfree a s) := by
  unfold execBfree
  grind [next_mk, good_mk, good_guarded, good_retire, good_land, good_raise]

theorem good_execBstat (d : Fin 32) (a : Fin 32) {s : State} (hs : Good C s) :
    Next C (execBstat d a s) := by
  unfold execBstat
  grind [next_mk, good_mk, good_simple, good_landG, good_freshNum]

theorem good_execBdrain (sl : Fin 16) (a : Fin 32) {s : State} (hs : Good C s) :
    Next C (execBdrain sl a s) := by
  unfold execBdrain
  grind [next_mk, good_mk, good_guarded, good_raise, good_access, good_issueBlock]

theorem good_execBlockFillComplete (id : Nat) {s : State} (hs : Good C s) :
    Next C (execBlockFillComplete id s) := by
  unfold execBlockFillComplete
  grind [next_mk, good_mk, good_landOp, good_modNib]

theorem good_execBlockDrainComplete (id : Nat) {s : State} (hs : Good C s) :
    Next C (execBlockDrainComplete id s) := by
  unfold execBlockDrainComplete
  grind [next_mk, good_mk, good_landOp, good_modNib]

theorem good_copyEnd {s : State} (hs : Good C s) (o : Op) (desc : Word) (status : Nat) (va : Word) :
    Good C (State.copyEnd s o desc status va) := by
  unfold State.copyEnd
  grind [good_mk, good_engWrite, good_modOp]

theorem good_copyFail {s : State} (hs : Good C s) (o : Op) (desc : Word) (c : BitVec 8) (va : Word) :
    Good C (State.copyFail s o desc c va) := by
  unfold State.copyFail
  grind [good_mk, good_copyEnd]

theorem good_copyHold {s : State} (hs : Good C s) (o : Op) :
    Good C (State.copyHold s o) := by
  unfold State.copyHold
  grind [good_mk, good_modOp]

theorem good_copyStall {s : State} (hs : Good C s) (o : Op) (desc : Word) (l : EngLook) :
    Good C (State.copyStall s o desc l) := by
  unfold State.copyStall
  cases l with
  | fail c va => exact good_copyFail hs ..
  | replay va => exact good_coalesce (good_modOp hs ..) ..
  | gone => exact good_copyHold hs ..
  | ok | wait => exact good_modOp hs ..

theorem good_remoteCell {s : State} (hs : Good C s) (pvf : Nat) (write : Bool) (pa : Nat) (size : Nat) (x : Nat) (lc : Clk) :
    Good C (State.remoteCell s pvf write pa size x lc).2.2 := by
  unfold State.remoteCell
  grind [good_mk, good_write, good_writeStamp, good_readStamp]

theorem good_remoteAccess {s : State} (hs : Good C s) (o : Op) (desc : Word) (win : Fin 16) (write : Bool) (va : Word) (size : Nat) (x : Nat) :
    Good C (State.remoteAccess s o desc win write va size x).2 := by
  unfold State.remoteAccess
  grind [good_mk, good_copyFail, good_copyHold, good_remoteCell, good_freshNum]

theorem good_copyAccess {s : State} (hs : Good C s) (o : Op) (desc : Word) (win : Option (Fin 16)) (write : Bool) (va : Word) (size : Nat) (x : Nat) :
    Good C (State.copyAccess s o desc win write va size x).2 := by
  unfold State.copyAccess
  grind [good_mk, good_remoteAccess, good_engStore, good_engLoad, good_copyStall]

theorem good_copyRead {s : State} (hs : Good C s) (o : Op) (desc : Word) (d : BitVec 512) (kind : Fin 4) (i : Nat) (r : CopyRow) (tile : BitVec 32768) :
    Good C (State.copyRead s o desc d kind i r tile).2 := by
  unfold State.copyRead
  grind [good_mk, good_copyAccess]

theorem good_copyServed {s : State} (hs : Good C s) (o : Op) (t : Clk) (kind : OpKind) :
    Good C (State.copyServed s o t kind) := by
  unfold State.copyServed
  grind [good_mk, good_freeCycle, good_modOp]

theorem good_copyServe {s : State} (hs : Good C s) (o : Op) :
    Good C (State.copyServe s o) := by
  unfold State.copyServe
  split
  · dsimp only
    split
    · split
      next h => exact good_snd h (good_copyRead hs ..)
      next h =>
        have hr := good_copyServed (good_snd h (good_copyRead hs ..))
        split
        · exact hr ..
        split
        next h => exact good_snd h (good_copyAccess (hr ..) ..)
        next h =>
          split
          · exact good_copyServed (good_snd h (good_copyAccess (hr ..) ..)) ..
          · exact good_copyServed (good_snd h (good_copyAccess (hr ..) ..)) ..
    · split
      · exact good_schedule (good_modOp hs ..) ..
      split
      · exact good_sendDecr (good_modOp hs ..) ..
      · exact good_copyStall hs ..
  · exact hs

theorem good_copyTurn {s : State} (hs : Good C s) (o : Op) :
    Good C (State.copyTurn s o) := by
  unfold State.copyTurn
  grind [good_mk, good_modPart, good_copyServe, good_modNib, good_modOp]

theorem good_copyStep {s : State} (hs : Good C s) (o : Op) :
    Good C (State.copyStep s o) := by
  unfold State.copyStep
  grind [good_mk, good_modOp, good_copyTurn, good_quillGo]

theorem good_peerAccess {s : State} (hs : Good C s) (x : PeerAccess) :
    Good C (State.peerAccess s x) := by
  unfold State.peerAccess
  grind [good_mk, good_atBorder, good_remoteCell]

theorem good_execCopyComplete (id : Nat) {s : State} (hs : Good C s) :
    Next C (execCopyComplete id s) := by
  unfold execCopyComplete
  grind [next_mk, good_mk, good_landOp, good_modNib, good_schedule, good_copyEnd]

theorem good_execRemoteAccess (x : Source PeerAccess) {s : State} (hs : Good C s) :
    Next C (execRemoteAccess x s) := by
  unfold execRemoteAccess
  grind [next_mk, good_mk, good_peerAccess, good_copyStep]

theorem good_copy {s : State} (hs : Good C s) (kind : Fin 4) (sl : Fin 16) (a : Fin 32) :
    Next C (State.copy s kind sl a) := by
  unfold State.copy
  refine good_guarded hs _ _ _ fun t ht => ?_
  dsimp only
  split
  · exact good_raise ht ..
  split
  · exact good_raise ht ..
  split
  · exact good_raise ht ..
  split
  · exact good_raise ht ..
  split
  · exact good_waitMem ht
  split
  · exact ht
  · refine good_retire (good_pendSeal ?_ ..)
    split
    · exact good_schedule (good_modMatrix (good_modOp (good_modNib (good_newOp (good_localLoad ht ..) ..) ..) ..) ..) ..
    · exact good_quillGo (good_modOp (good_modNib (good_newOp (good_localLoad ht ..) ..) ..) ..) ..

theorem good_execCpy (sl : Fin 16) (a : Fin 32) {s : State} (hs : Good C s) :
    Next C (execCpy sl a s) := by
  unfold execCpy
  grind [next_mk, good_mk, good_copy]

theorem good_execCpyTopk (sl : Fin 16) (a : Fin 32) {s : State} (hs : Good C s) :
    Next C (execCpyTopk sl a s) := by
  unfold execCpyTopk
  grind [next_mk, good_mk, good_copy]

theorem good_execCpyPack (sl : Fin 16) (a : Fin 32) {s : State} (hs : Good C s) :
    Next C (execCpyPack sl a s) := by
  unfold execCpyPack
  grind [next_mk, good_mk, good_copy]

theorem good_modRing {s : State} (hs : Good C s) (n : NibId) (k : Fin 8) (r : Fin 4) (f : Ring → Ring) :
    Good C (State.modRing s n k r f) := by
  unfold State.modRing
  grind [good_mk, good_modStroke]

theorem good_decidePermit {s : State} (hs : Good C s) (n : NibId) (target : Nat) (ring : Fin 4) (rows : Nat) (lc : Clk) :
    Good C (State.decidePermit s n target ring rows lc).2.2 := by
  unfold State.decidePermit
  grind [good_mk, good_newId, good_engWrite, good_modRing]

theorem good_answerPermit {s : State} (hs : Good C s) (o : Op) (blk : Word) (req : Word) (status : Nat) (off : Nat) (charge : Nat) (grant : Nat) (t : Clk) :
    Good C (State.answerPermit s o blk req status off charge grant t) := by
  unfold State.answerPermit
  grind [good_mk, good_modOp, good_freeCycle, good_schedule]

theorem good_execXperm (sl : Fin 16) (a : Fin 32) (b : Fin 32) {s : State} (hs : Good C s) :
    Next C (execXperm sl a b s) := by
  unfold execXperm
  refine good_guarded hs _ _ _ fun t ht => ?_
  dsimp only
  split
  · exact good_raise ht ..
  split
  · exact good_raise ht ..
  split
  · exact good_raise ht ..
  split
  · exact good_illegalVal ht ..
  split
  · exact ht
  · exact good_retire (good_pendSeal (good_schedule (good_freeCycle (good_modOp (good_newOp ht ..) ..) ..) ..) ..)

theorem good_execPermitRequest (id : Nat) {s : State} (hs : Good C s) :
    Next C (execPermitRequest id s) := by
  unfold execPermitRequest
  dsimp only
  split
  · exact next_mk hs
  split
  · exact next_mk hs
  split
  · exact next_ite (next_mk (good_dropOp (good_ite hs (good_schedule hs ..)) ..))
      (next_ite (next_mk (good_answerPermit (good_ite hs (good_schedule hs ..)) ..))
      (next_ite (next_mk (good_ite hs (good_schedule hs ..)))
      (next_mk (good_answerPermit (good_decidePermit (good_ite hs (good_schedule hs ..)) ..) ..))))
  · exact next_mk hs

theorem good_execPermitAnswer (id : Nat) {s : State} (hs : Good C s) :
    Next C (execPermitAnswer id s) := by
  unfold execPermitAnswer
  grind [next_mk, good_mk, good_landOp, good_dropOp, good_schedule, good_engWrite, good_modOp]

theorem good_closeRecord {s : State} (hs : Good C s) (target : Nat) (ring : Fin 4) (grant : Nat) (kind : Nat) (t : Clk) :
    Good C (State.closeRecord s target ring grant kind t) := by
  unfold State.closeRecord
  grind [good_mk, good_modRing]

theorem good_sendEnd {s : State} (hs : Good C s) (o : Op) (status : Nat) (cause : Nat) (va : Word) :
    Good C (State.sendEnd s o status cause va) := by
  unfold State.sendEnd
  grind [good_mk, good_engWrite, good_modNib, good_modOp]

theorem good_ringWrite {s : State} (hs : Good C s) (o : Op) (target : Nat) (off : Nat) (size : Nat) (x : Nat) :
    Good C (State.ringWrite s o target off size x) := by
  unfold State.ringWrite
  grind [good_mk, good_engWrite, good_modOp]

theorem good_sendFail {s : State} (hs : Good C s) (o : Op) (c : BitVec 8) (va : Word) :
    Good C (State.sendFail s o c va) := by
  unfold State.sendFail
  grind [good_mk, good_ringWrite, good_closeRecord, good_modNib, good_sendEnd]

theorem good_sendStall {s : State} (hs : Good C s) (o : Op) (l : EngLook) :
    Good C (State.sendStall s o l) := by
  unfold State.sendStall
  cases l with
  | fail c va => exact good_sendFail hs ..
  | replay va => exact good_coalesce (good_modOp hs ..) ..
  | gone => exact good_modOp hs ..
  | ok | wait => exact good_schedule hs ..

theorem good_sendSkip {s : State} (hs : Good C s) (o : Op) :
    Good C (State.sendSkip s o) := by
  unfold State.sendSkip
  grind [good_mk, good_modNib, good_modOp]

theorem good_sendLost {s : State} (hs : Good C s) (o : Op) (y0 : Nat) :
    Good C (State.sendLost s o y0) := by
  induction y0 generalizing s o with
  | zero => exact hs
  | succ fuel ih =>
    have skipped {t : State} (ht : Good C t) : Good C ((t.sendSkip o).sendLost ((t.sendSkip o).opNow o) fuel) := ih (good_sendSkip ht ..) _
    unfold State.sendLost
    split
    · split
      · exact good_sendEnd hs ..
      dsimp only
      split
      · split
        · exact skipped (good_modOp (good_engLoad hs ..) ..)
        split
        · exact good_sendStall (good_engLoad hs ..) ..
        · exact skipped (good_modOp (good_engLoad hs ..) ..)
        · exact skipped (good_modOp (good_decrement (good_engLoad hs ..) ..) ..)
      · exact skipped hs
      · exact good_sendStall hs ..
    · exact hs

theorem good_sendGone {s : State} (hs : Good C s) (o : Op) :
    Good C (State.sendGone s o) := by
  unfold State.sendGone
  grind [good_mk, good_sendLost, good_modOp]

theorem good_sendEntry {s : State} (hs : Good C s) (o : Op) (va : Word) (rowLen : Nat) {ret serif : Word} {off : Option Nat}
    {rows : List Range} {c : Clk} {t : State} (h : s.sendEntry o va rowLen = .ok (ret, serif, off, rows, c, t)) : Good C t := by
  unfold State.sendEntry at h
  dsimp only at h
  split at h
  · split at h
    · cases h
    split at h
    · cases h
    split at h
    · cases h
      exact good_engLoad hs ..
    · cases h
  · cases h

theorem good_sendStep {s : State} (hs : Good C s) (o : Op) :
    Good C (State.sendStep s o) := by
  unfold State.sendStep
  split
  · dsimp only
    split
    · exact hs
    split
    · exact good_sendStall hs ..
    split
    · exact good_sendGone hs ..
    split
    · exact hs
    split
    · exact good_schedule hs ..
    split
    · exact good_schedule (good_ringWrite hs ..) ..
    split
    · exact good_schedule hs ..
    split
    · exact good_sendStall hs ..
    next h =>
      have hm := good_engLoad (good_sendEntry hs _ _ _ h)
      exact good_schedule (good_freeCycle (good_modOp (good_modNib (good_ringWrite (good_ringWrite
        (good_ite (good_ringWrite (good_modOp (hm ..) ..) ..) (good_modOp (hm ..) ..)) ..) ..) ..) ..) ..) ..
  · exact hs

theorem good_execXsend (sl : Fin 16) (a : Fin 32) (b : Fin 32) {s : State} (hs : Good C s) :
    Next C (execXsend sl a b s) := by
  have issued (c : Prop) [Decidable c] (t : State) (f : Nat → Instr) (k : Nat) (sl : Fin 16) (g : Ring → Ring) (h : Nib → Nib) (o : OpKind)
      (n : NibId) (i : Fin 8) (r : Fin 4) {u : State} (hu : Good C u) :
      Good C ((((((if c then u.modRing n i r g else (u.modRing n i r g).modNib t.cur.nib h).newOp sl o).2.freeCycle k none).2.schedule k
        (f k)).pendSeal sl).retire) :=
    good_retire (good_pendSeal (good_schedule (good_freeCycle (good_newOp (good_ite (good_modRing hu ..) (good_modNib (good_modRing hu ..) ..)) ..) ..) ..) ..)
  unfold execXsend
  refine good_guarded hs _ _ _ fun t ht => ?_
  have load := good_localLoad ht (t.rg a).toNat 64
  dsimp only
  refine good_ite (good_raise ht ..) (good_ite (good_raise ht ..) (good_ite (good_raise ht ..) (good_ite (good_illegalVal ht ..) ?_)))
  split
  · exact good_ite ht (good_ite (good_waitMem ht) (good_retire (good_pendSeal (good_schedule (good_freeCycle (good_newOp
      (good_ite (good_modRing load ..) (good_modNib (good_modRing load ..) ..)) ..) ..) ..) ..)))
  · exact good_ite (good_ite ht (good_ite (good_waitMem ht) (good_retire (good_pendSeal (good_schedule (good_freeCycle (good_newOp
      (good_ite (good_modRing load ..) (good_modNib (good_modRing load ..) ..)) ..) ..) ..) ..)))) (good_illegalVal ht ..)

theorem good_execSendComplete (id : Nat) {s : State} (hs : Good C s) :
    Next C (execSendComplete id s) := by
  unfold execSendComplete
  grind [next_mk, good_mk, good_landOp, good_schedule, good_sendEnd, good_closeRecord]

theorem good_execXrcfg (a : Fin 32) {s : State} (hs : Good C s) :
    Next C (execXrcfg a s) := by
  unfold execXrcfg
  grind [next_mk, good_mk, good_guarded, good_raise, good_localLoad, good_illegalVal, good_retire, good_land]

theorem good_execXrpop (d : Fin 32) (a : Fin 32) {s : State} (hs : Good C s) :
    Next C (execXrpop d a s) := by
  unfold execXrpop
  grind [next_mk, good_mk, good_guarded, good_illegalVal, good_retire, good_landG, good_land, good_setLc, good_modRing]

theorem good_execXrstat (d : Fin 32) {s : State} (hs : Good C s) :
    Next C (execXrstat d s) := by
  unfold execXrstat
  grind [next_mk, good_mk, good_simple, good_landG]

theorem good_execMsg (d : Fin 32) (a : Fin 32) (b : Fin 32) (sl : Fin 16) {s : State} (hs : Good C s) :
    Next C (execMsg d a b sl s) := by
  unfold execMsg
  refine good_guarded hs _ _ _ fun t ht => ?_
  dsimp only
  split
  · exact ht
  · exact good_retire (good_pendReg (good_pendSeal (good_schedule (good_freeCycle (good_newOp ht ..) ..) ..) ..) ..)

theorem good_deliverMsg {s : State} (hs : Good C s) (o : Op) (target : Word) (val : Word) :
    Good C (State.deliverMsg s o target val).2 := by
  unfold State.deliverMsg
  grind [good_mk, good_modStroke, good_modNib]

theorem good_answerMsg {s : State} (hs : Good C s) (o : Op) (d : Fin 32) (target : Word) (status : Nat) :
    Good C (State.answerMsg s o d target status) := by
  unfold State.answerMsg
  grind [good_mk, good_modOp, good_freeCycle, good_schedule]

theorem good_execMessageDelivery (id : Nat) {s : State} (hs : Good C s) :
    Next C (execMessageDelivery id s) := by
  unfold execMessageDelivery
  dsimp only
  split
  · exact next_mk hs
  split
  · exact next_mk hs
  split
  · exact next_ite (next_mk (good_dropOp (good_ite hs (good_schedule hs ..)) ..))
      (next_ite (next_mk (good_answerMsg (good_ite hs (good_schedule hs ..)) ..))
      (next_ite (next_mk (good_ite hs (good_schedule hs ..)))
      (next_mk (good_answerMsg (good_deliverMsg (good_ite hs (good_schedule hs ..)) ..) ..))))
  · exact next_mk hs

theorem good_execMessageStatus (id : Nat) {s : State} (hs : Good C s) :
    Next C (execMessageStatus id s) := by
  unfold execMessageStatus
  grind [next_mk, good_mk, good_landOp, good_modOp]

theorem good_execLossNotice (n : NibId) (x : BitVec 32) {s : State} (hs : Good C s) :
    Next C (execLossNotice n x s) := by
  unfold execLossNotice
  refine next_mk (good_foldl _ (fun t o ht => ?_) (good_foldl _ (fun t e ht => good_decrement ht ..) (good_modNib hs ..)))
  repeat' split
  all_goals grind [good_answerPermit, good_modOp, good_answerMsg, good_sendStall, good_sendGone]

theorem good_putBar {s : State} (hs : Good C s) (p : Fin 16) (b : BarInst) :
    Good C (State.putBar s p b) := by
  unfold State.putBar
  grind [good_mk, good_modPart]

theorem good_barSend {s : State} (hs : Good C s) (p : Fin 16) (id : Fin 64) (n : NibId) (out : Bool) (c : Nat) (ev : Instr) :
    Good C (State.barSend s p id n out c ev) := by
  unfold State.barSend
  grind [good_mk, good_crossBorder]

theorem good_releaseOp {s : State} (hs : Good C s) (p : Fin 16) (id : Fin 64) (op : Nat) (abandoned : Option Word) (sum : Option (BitVec 512)) (clk : Option Clk) :
    Good C (State.releaseOp s p id op abandoned sum clk) := by
  unfold State.releaseOp
  grind [good_mk, good_modOp, good_freeCycle, good_barSend]

theorem good_endGeneration {s : State} (hs : Good C s) (p : Fin 16) (b : BarInst) (abandoned : Bool) :
    Good C (State.endGeneration s p b abandoned) := by
  unfold State.endGeneration
  exact good_foldl _ (fun t w ht => good_releaseOp ht ..) (good_putBar hs ..)

theorem good_decideWait {s : State} (hs : Good C s) (o : Op) (p : Fin 16) (id : Fin 64) (inst : Nat) (va : Option Word) :
    Good C (State.decideWait s o p id inst va) := by
  unfold State.decideWait
  grind [good_mk, good_modOp, good_putBar, good_releaseOp]

theorem good_countArrival {s : State} (hs : Good C s) (p : Fin 16) (id : Fin 64) (inst : Nat) (sum : Option (BitVec 512)) (clk : Clk) (launch : Nat) :
    Good C (State.countArrival s p id inst sum clk launch) := by
  unfold State.countArrival
  grind [good_mk, good_schedule, good_putBar]

theorem good_releaseFull {s : State} (hs : Good C s) (p : Fin 16) (id : Fin 64) (inst : Nat) :
    Good C (State.releaseFull s p id inst) := by
  unfold State.releaseFull
  grind [good_mk, good_endGeneration]

theorem good_arrive {s : State} (hs : Good C s) (o : Op) (p : Fin 16) (id : Fin 64) (inst : Nat) (wait : Bool) (sum : Option (Word × BitVec 512)) :
    Good C (State.arrive s o p id inst wait sum) := by
  unfold State.arrive
  grind [good_mk, good_modCid, good_countArrival, good_decideWait, good_dropOp, good_releaseFull]

theorem good_barReach {s : State} (hs : Good C s) (op : Nat) (ev : Instr) :
    Good C (State.barReach s op ev) := by
  unfold State.barReach
  extract_lets key
  clear_value key
  split
  · exact hs
  split
  · exact hs
  next o _ =>
  extract_lets s1
  have h1 : Good C s1 := good_ite hs (good_schedule hs ..)
  split
  · exact good_ite (good_dropOp h1 ..) (good_ite (good_arrive h1 ..) (good_ite (good_releaseOp (good_modOp h1 ..) ..) (good_dropOp h1 ..)))
  · exact good_ite (good_decideWait h1 ..) (good_releaseOp (good_modOp h1 ..) ..)
  · exact h1

theorem good_execBarrierArrival (x : Source PeerArrival) {s : State} (hs : Good C s) :
    Next C (execBarrierArrival x s) := by
  unfold execBarrierArrival
  grind [next_mk, good_mk, good_barReach, good_releaseFull, good_countArrival]

theorem good_execBarrierWait (id : Nat) {s : State} (hs : Good C s) :
    Next C (execBarrierWait id s) := by
  unfold execBarrierWait
  grind [next_mk, good_mk, good_barReach]

theorem good_execReleaseDelivery (id : Nat) {s : State} (hs : Good C s) :
    Next C (execReleaseDelivery id s) := by
  unfold execReleaseDelivery
  grind [next_mk, good_mk, good_landOp, good_schedule, good_engWrite, good_deliver, good_modOp]

theorem good_execBarrierWatchdog (p : Fin 16) (i : Fin 64) (inst : Nat) {s : State} (hs : Good C s) :
    Next C (execBarrierWatchdog p i inst s) := by
  unfold execBarrierWatchdog
  grind [next_mk, good_mk, good_endGeneration, good_schedule, good_putBar]

theorem good_execBarcfg (p : Fin 16) (i : Fin 64) (x : BitVec 64) {s : State} (hs : Good C s) :
    Next C (execBarcfg p i x s) := by
  unfold execBarcfg
  exact next_mk (good_foldl _ (fun t b ht => good_foldl _ (fun u w hu => good_releaseOp hu ..) ht) (good_modPart hs ..))

theorem good_barrier {s : State} (hs : Good C s) (a : Fin 32) (width : Nat) {body : State → Fin 16 → Fin 64 → State} (hbody : ∀ x0 x1 x2, Good C x0 → Good C (body x0 x1 x2)) :
    Good C (State.barrier s a width body) := by
  unfold State.barrier
  grind [good_mk, good_illegalVal]

theorem good_sendBar {s : State} (hs : Good C s) (p : Fin 16) (id : Fin 64) (sl : Fin 16) (kind : OpKind) (ev : Nat → Instr) :
    Good C (State.sendBar s p id sl kind ev) := by
  unfold State.sendBar
  grind [good_mk, good_newOp, good_freeCycle, good_barSend, good_retire, good_pendSeal]

theorem good_execBarArr (a : Fin 32) {s : State} (hs : Good C s) :
    Next C (execBarArr a s) := by
  unfold execBarArr
  grind [next_mk, good_mk, good_guarded, good_barrier, good_sendBar]

theorem good_execBarWait (sl : Fin 16) (a : Fin 32) {s : State} (hs : Good C s) :
    Next C (execBarWait sl a s) := by
  unfold execBarWait
  grind [next_mk, good_mk, good_guarded, good_barrier, good_sendBar]

theorem good_execBarSync (sl : Fin 16) (a : Fin 32) {s : State} (hs : Good C s) :
    Next C (execBarSync sl a s) := by
  unfold execBarSync
  grind [next_mk, good_mk, good_guarded, good_barrier, good_sendBar]

theorem good_execXsum (sl : Fin 16) (a : Fin 32) (b : Fin 32) {s : State} (hs : Good C s) :
    Next C (execXsum sl a b s) := by
  unfold execXsum
  grind [next_mk, good_mk, good_guarded, good_barrier, good_raise, good_localLoad, good_sendBar]

theorem good_joinWaiters {s : State} (hs : Good C s) (n : NibId) (id : Nat) :
    Good C (State.joinWaiters s n id) := by
  unfold State.joinWaiters
  grind [good_mk, good_syncNow, good_setOpLc, good_modOp, good_modNib]

theorem good_withdraw {s : State} (hs : Good C s) (n : NibId) (cid : Nat) :
    Good C (State.withdraw s n cid) := by
  unfold State.withdraw
  grind [good_mk, good_modNib, good_schedule]

theorem good_interrupt {s : State} (hs : Good C s) (n : NibId) (k : Fin 8) :
    Good C (State.interrupt s n k) := by
  unfold State.interrupt
  grind [good_mk, good_unwaitLock, good_withdraw, good_modCtxAt]

theorem good_takeAtEnd {s : State} (hs : Good C s) (n : NibId) (k : Fin 8) (code : Word) (val : Word) :
    Good C (State.takeAtEnd s n k code val) := by
  unfold State.takeAtEnd
  grind [good_mk, good_modCtxAt, good_modStroke, good_interrupt]

theorem good_raiseMsix {s : State} (hs : Good C s) (v : Fin 17) (i : Fin 4) :
    Good C (State.raiseMsix s v i) := by
  unfold State.raiseMsix
  grind [good_mk]

theorem good_crossTrigger {s : State} (hs : Good C s) (n : NibId) (m : NibId) (e : Instr) :
    Good C (State.crossTrigger s n m e) := by
  unfold State.crossTrigger
  grind [good_mk, good_freeCycle, good_schedule]

theorem good_stopGroup {s : State} (hs : Good C s) (n : NibId) (k : Fin 8) :
    Good C (State.stopGroup s n k) := by
  unfold State.stopGroup
  dsimp only
  split
  · refine good_foldl _ (fun t x ht => ?_) hs
    split
    · exact ht
    · exact good_crossTrigger ht ..
  · exact hs

theorem good_debugStop {s : State} (hs : Good C s) (n : NibId) (k : Fin 8) (reason : BitVec 4) :
    Good C (State.debugStop s n k reason) := by
  unfold State.debugStop
  grind [good_mk, good_interrupt, good_modStroke, good_traceIfOn, good_raiseMsix, good_setTip, good_stopGroup]

theorem good_execDeliveredCause (n : NibId) (k : Fin 8) {s : State} (hs : Good C s) :
    Next C (execDeliveredCause n k s) := by
  unfold execDeliveredCause
  grind [next_mk, good_mk, good_modCtxAt, good_modStroke, good_takeAtEnd]

theorem good_execTakeInterrupt (n : NibId) (k : Fin 8) {s : State} (hs : Good C s) :
    Next C (execTakeInterrupt n k s) := by
  unfold execTakeInterrupt
  grind [next_mk, good_mk, good_takeAtEnd]

theorem good_execDebugStop (n : NibId) (k : Fin 8) {s : State} (hs : Good C s) :
    Next C (execDebugStop n k s) := by
  unfold execDebugStop
  grind [next_mk, good_mk, good_debugStop]

theorem good_execParkResume (n : NibId) (k : Fin 8) {s : State} (hs : Good C s) :
    Next C (execParkResume n k s) := by
  unfold execParkResume
  grind [next_mk, good_mk, good_withdraw, good_modStroke]

theorem good_execWaiterTableJoin (n : NibId) {s : State} (hs : Good C s) :
    Next C (execWaiterTableJoin n s) := by
  unfold execWaiterTableJoin
  grind [next_mk, good_mk, good_modNib, good_joinWaiters, good_schedule]

theorem good_startSweep {s : State} (hs : Good C s) :
    Good C (State.startSweep s) := by
  unfold State.startSweep
  grind [good_mk, good_modCtx]

theorem good_landBlocks {s : State} (hs : Good C s) :
    Good C (State.landBlocks s) := by
  unfold State.landBlocks
  exact good_foldl _ (fun t l ht => good_applyEff ht ..) (good_modCtx hs ..)

theorem good_keepSeqs {s : State} (hs : Good C s) :
    Good C (State.keepSeqs s) := by
  unfold State.keepSeqs
  grind [good_mk, good_modCtx]

theorem good_parkNow {s : State} (hs : Good C s) :
    Good C (State.parkNow s) := by
  unfold State.parkNow
  refine good_foldl _ (fun t w ht => ?_) (good_modStroke hs ..)
  repeat' split
  all_goals grind [good_coalesce, good_joinWaiters]

theorem good_closeTurn {s : State} (hs : Good C s) :
    Good C (State.closeTurn s) := by
  unfold State.closeTurn
  grind [good_mk, good_keepSeqs, good_landBlocks, good_startSweep, good_modCtx, good_interrupt, good_parkNow]

theorem good_askStop {s : State} (hs : Good C s) (n : NibId) (k : Fin 8) (reason : BitVec 4) :
    Good C (State.askStop s n k reason) := by
  unfold State.askStop
  grind [good_mk, good_modStroke]

theorem good_askResume {s : State} (hs : Good C s) (n : NibId) (k : Fin 8) (f : Stroke → Stroke) :
    Good C (State.askResume s n k f) := by
  unfold State.askResume
  grind [good_mk, good_modStroke]

theorem good_resumeStopped {s : State} (hs : Good C s) (n : NibId) (k : Fin 8) :
    Good C (State.resumeStopped s n k) := by
  unfold State.resumeStopped
  grind [good_mk, good_modStroke, good_traceIfOn]

theorem good_execDctlStop (n : NibId) (k : Fin 8) {s : State} (hs : Good C s) :
    Next C (execDctlStop n k s) := by
  unfold execDctlStop
  grind [next_mk, good_mk, good_askStop]

theorem good_execDctlResume (n : NibId) (k : Fin 8) {s : State} (hs : Good C s) :
    Next C (execDctlResume n k s) := by
  unfold execDctlResume
  grind [next_mk, good_mk, good_askResume]

theorem good_execDctlStep (n : NibId) (k : Fin 8) {s : State} (hs : Good C s) :
    Next C (execDctlStep n k s) := by
  unfold execDctlStep
  grind [next_mk, good_mk, good_askResume]

theorem good_execDctlDrun (n : NibId) (k : Fin 8) {s : State} (hs : Good C s) :
    Next C (execDctlDrun n k s) := by
  unfold execDctlDrun
  grind [next_mk, good_mk, good_askResume]

theorem good_execGroupStop (n : NibId) (k : Fin 8) {s : State} (hs : Good C s) :
    Next C (execGroupStop n k s) := by
  unfold execGroupStop
  grind [next_mk, good_mk, good_askStop]

theorem good_execGrpres (p : Fin 16) (g : Fin 16) {s : State} (hs : Good C s) :
    Next C (execGrpres p g s) := by
  unfold execGrpres
  refine next_mk (good_foldl _ (fun t x ht => ?_) hs)
  split
  next h => exact good_schedule (good_snd h (good_freeCycle ht ..)) ..

theorem good_execTurnClassCount (n : NibId) (k : Fin 8) {s : State} (hs : Good C s) :
    Next C (execTurnClassCount n k s) := by
  unfold execTurnClassCount
  grind [next_mk, good_mk, good_modStroke]

theorem good_settleGate {s : State} (hs : Good C s) (n : NibId) (k : Fin 8) :
    Good C (State.settleGate s n k) := by
  unfold State.settleGate
  grind [good_mk, good_modStroke, good_traceIfOn]

theorem good_execReadyHistogramCount (n : NibId) {s : State} (hs : Good C s) :
    Next C (execReadyHistogramCount n s) := by
  unfold execReadyHistogramCount
  exact next_mk (good_foldl _ (fun t k ht => good_settleGate ht ..) (good_ite (good_modNib hs ..) hs))

theorem good_execHistogramBin (n : NibId) (b : Fin 9) {s : State} (hs : Good C s) :
    Next C (execHistogramBin n b s) := by
  unfold execHistogramBin
  grind [next_mk, good_mk, good_modNib]

theorem good_execTraceSample (n : NibId) (k : Fin 8) {s : State} (hs : Good C s) :
    Next C (execTraceSample n k s) := by
  unfold execTraceSample
  grind [next_mk, good_mk, good_trace]

theorem good_execTbase (p : Fin 16) (x : BitVec 64) {s : State} (hs : Good C s) :
    Next C (execTbase p x s) := by
  unfold execTbase
  grind [next_mk, good_mk, good_modPart]

theorem good_execTsize (p : Fin 16) (x : BitVec 64) {s : State} (hs : Good C s) :
    Next C (execTsize p x s) := by
  unfold execTsize
  grind [next_mk, good_mk, good_modPart]

theorem good_partWrite {s : State} (hs : Good C s) (p : Fin 16) (o : Nat) (x : Word) :
    Good C (State.partWrite s p o x) := by
  unfold State.partWrite
  repeat' refine good_ite ?_ ?_
  all_goals first
    | exact hs
    | exact good_schedule hs ..
    | exact good_modPart hs ..

theorem good_dctlWrite {s : State} (hs : Good C s) (n : NibId) (k : Fin 8) (x : Word) :
    Good C (State.dctlWrite s n k x) := by
  unfold State.dctlWrite
  grind [good_mk, good_modStroke, good_schedule]

theorem good_debugWrite {s : State} (hs : Good C s) (n : NibId) (o : Nat) (x : Word) :
    Good C (State.debugWrite s n o x) := by
  unfold State.debugWrite
  grind [good_mk, good_dctlWrite, good_modCtxAt, good_modNib, good_schedule]

theorem good_bonctlWrite {s : State} (hs : Good C s) (x : Word) :
    Good C (State.bonctlWrite s x) := by
  unfold State.bonctlWrite
  grind [good_mk, good_schedule]

theorem good_regWrite {s : State} (hs : Good C s) (pa : Nat) (x : Word) :
    Good C (State.regWrite s pa x) := by
  have unfolded : ∀ f, f = State.regWrite → Good C (f s pa x) := by
    delta State.regWrite
    rintro _ rfl
    beta_reduce
    generalize regBlock (pa / 8 * 8) = b
    rcases b with o | o | ⟨p, o⟩ | ⟨n, o⟩ | -
    · exact hs
    · exact good_ite (good_bonctlWrite hs ..) hs
    · exact good_partWrite hs ..
    · exact good_debugWrite hs ..
    · exact hs
  exact unfolded _ rfl

theorem good_regStore {s : State} (hs : Good C s) (pa : Nat) (n : Nat) (x : Nat) :
    Good C (State.regStore s pa n x) := by
  unfold State.regStore
  grind [good_mk, good_regWrite]

theorem good_setQueue {s : State} (hs : Good C s) (v : Fin 17) (q : Fin 64) (x : Queue) :
    Good C (State.setQueue s v q x) := by
  unfold State.setQueue
  grind [good_mk]

theorem good_modQueue {s : State} (hs : Good C s) (v : Fin 17) (q : Fin 64) (f : Queue → Queue) :
    Good C (State.modQueue s v q f) := by
  unfold State.modQueue
  grind [good_mk, good_setQueue]

theorem good_queueWrite {s : State} (hs : Good C s) (v : Fin 17) (q : Fin 64) (o : Nat) (x : Word) :
    Good C (State.queueWrite s v q o x) := by
  unfold State.queueWrite
  grind [good_mk, good_schedule, good_setQueue]

theorem good_nonce {s : State} (hs : Good C s) (c : BitVec 256) (p : Prop) [Decidable p] :
    Good C (if p then ({ s with modu := { s.modu with nonce := c } } : State).schedule s.cycle (.attest c)
      else { s with modu := { s.modu with nonce := c } }) := by
  refine good_ite (good_schedule ?_ ..) ?_
  all_goals exact good_of_eq hs rfl rfl rfl rfl

theorem good_bar0Write {s : State} (hs : Good C s) (v : Fin 17) (off : Nat) (x : Word) :
    Good C (State.bar0Write s v off x) := by
  unfold State.bar0Write
  extract_lets o q r n
  clear_value n
  refine good_ite hs (good_ite (good_schedule hs ..) (good_ite (good_schedule hs ..) (good_ite ?_ (good_ite (good_ite hs (good_queueWrite hs ..))
    (good_ite (good_ite hs (good_modQueue hs ..)) (good_ite ?_ (good_ite hs (good_ite (good_bonctlWrite hs ..)
    (good_ite (good_schedule hs ..) (good_ite (good_nonce hs _ _) hs))))))))))
  · split
    · exact good_partWrite hs ..
    · exact hs
  · split
    · exact good_ite (good_debugWrite hs ..) hs
    · exact hs

theorem good_window {s : State} (hs : Good C s) (a k x : Nat) :
    Good C { s with modu := { s.modu with window := Memory.write s.modu.window a k x } } := by
  refine ⟨fun c => ?_⟩
  obtain ⟨h1, h2, h3, h4⟩ := hs.canonical c
  exact ⟨h1, h2, Memory.wf_write _ _ _ _ h3, h4⟩

theorem good_bar0Store {s : State} (hs : Good C s) (v : Fin 17) (off : Nat) (n : Nat) (x : Nat) :
    Good C (State.bar0Store s v off n x) := by
  unfold State.bar0Store
  exact good_ite (good_bar0Write hs ..) (good_ite hs (good_ite (good_ite (good_window hs ..) hs) (good_bar0Write hs ..)))

theorem good_newEventsFirst {s : State} (hs : Good C s) (k : Nat) :
    Good C (State.newEventsFirst s k) := by
  unfold State.newEventsFirst
  grind [good_mk]

theorem good_execRegisterWrite (v : Fin 17) (off : BitVec 28) (x : HostStore) {s : State} (hs : Good C s) :
    Next C (execRegisterWrite v off x s) := by
  unfold execRegisterWrite
  grind [next_mk, good_mk, good_atBorder, good_newEventsFirst, good_bar0Store]

theorem good_nextAccess {s : State} (hs : Good C s) (n : NibId) (e : Instr) :
    Good C (State.nextAccess s n e) := by
  unfold State.nextAccess
  grind [good_mk, good_freeCycle, good_schedule]

theorem good_seqRead {s : State} (hs : Good C s) (n : NibId) (r : Range) (old : Range) (lc : Clk) :
    Good C (State.seqRead s n r old lc).2.2 := by
  unfold State.seqRead
  grind [good_mk, good_readStamp, good_modNib, good_freeCycle, good_schedule]

theorem good_accessDone {s : State} (hs : Good C s) (id : Nat) :
    Good C (State.accessDone s id) := by
  unfold State.accessDone
  grind [good_mk, good_freeCycle, good_modOp]

theorem good_publish {s : State} (hs : Good C s) (o : Op) (p : Fin 16) (e : Fin 16) :
    Good C (State.publish s o p e) := by
  unfold State.publish
  grind [good_mk, good_modPart, good_accessDone, good_modOp, good_setOpLc]

theorem good_performPiece {s : State} (hs : Good C s) (o : Op) (use : Use) (r : Range) (old : Range) (data : Nat) :
    Good C (State.performPiece s o use r old data).2.2 := by
  unfold State.performPiece
  grind [good_mk, good_write, good_writeStamp, good_newEventsFirst, good_regStore, good_readStamp, good_seqRead]

theorem good_accessStep {s : State} (hs : Good C s) (o : Op) (again : Instr) :
    Good C (State.accessStep s o again) := by
  unfold State.accessStep
  grind [good_mk, good_schedule, good_publish, good_joinWaiters, good_accessDone, good_performPiece, good_modOp, good_setOpLc, good_nextAccess]

set_option maxRecDepth 4000 in
theorem good_moveDone {s : State} (hs : Good C s) (o : Op) (e : Fin 8) (va : Word) (store : Bool) :
    Good C (State.moveDone s o e va store) := by
  unfold State.moveDone
  extract_lets n done beside img det
  have hd {t : State} (ht : Good C t) (f : Option (BitVec 8 × Word)) : Good C (done t f) := good_modOp ht ..
  refine good_ite (hd ?_ _) ?_
  · exact good_of_eq hs rfl rfl rfl rfl
  split
  · exact hd hs _
  · split
    next h => exact hd (good_putEntry (good_snd h (good_newId hs)) ..) _

theorem good_moveStep {s : State} (hs : Good C s) (o : Op) (again : Instr) :
    Good C (State.moveStep s o again) := by
  unfold State.moveStep
  split
  · refine good_ite hs ?_
    extract_lets root
    split
    · split
      next t s1 h1 =>
      have g1 : Good C s1 := good_snd h1 (good_ite_snd (good_write (good_writeStamp hs ..) ..) (by
        split
        next h => exact good_write (good_snd_snd h (good_seqRead hs ..)) ..))
      exact good_ite (good_moveDone (good_modOp (good_setOpLc g1 ..) ..) ..) (good_nextAccess (good_modOp (good_setOpLc g1 ..) ..) ..)
    · exact good_modOp hs ..
    · exact good_modOp hs ..
    · exact hs
  · exact hs

theorem good_blockStep {s : State} (hs : Good C s) (o : Op) (again : Instr) :
    Good C (State.blockStep s o again) := by
  unfold State.blockStep
  split
  · dsimp only
    refine good_ite hs (good_ite (good_schedule hs ..) ?_)
    split
    · exact good_accessDone hs ..
    · refine good_ite (good_accessDone (good_modOp ?_ ..) ..) (good_nextAccess (good_modOp ?_ ..) ..)
      · exact good_ite_snd (good_write (good_writeStamp (good_engRead hs ..) ..) ..) (good_engWrite (good_readStamp hs ..) ..)
      · exact good_ite_snd (good_write (good_writeStamp (good_engRead hs ..) ..) ..) (good_engWrite (good_readStamp hs ..) ..)
  · exact hs

theorem good_rowStep {s : State} (hs : Good C s) (o : Op) (again : Instr) :
    Good C (State.rowStep s o again) := by
  unfold State.rowStep
  split
  · split
    · exact good_nextAccess (good_modOp (good_modMatrix (good_write (good_writeStamp hs ..) ..) ..) ..) ..
    · dsimp only
      split
      · exact good_sendDecr (good_dropOp hs ..) ..
      · exact good_schedule (good_dropOp hs ..) ..
  · exact hs

theorem good_homeEvent {s : State} (hs : Good C s) (id : Nat) (again : Instr) :
    Good C (State.homeEvent s id again) := by
  unfold State.homeEvent
  grind [good_mk, good_accessStep, good_moveStep, good_blockStep, good_rowStep, good_copyStep, good_sendStep]

theorem good_execHomeRead (id : Nat) {s : State} (hs : Good C s) :
    Next C (execHomeRead id s) := by
  unfold execHomeRead
  grind [next_mk, good_mk, good_homeEvent]

theorem good_execHomeWrite (id : Nat) {s : State} (hs : Good C s) :
    Next C (execHomeWrite id s) := by
  unfold execHomeWrite
  grind [next_mk, good_mk, good_homeEvent]

theorem good_execLongAccessComplete (id : Nat) {s : State} (hs : Good C s) :
    Next C (execLongAccessComplete id s) := by
  unfold execLongAccessComplete
  grind [next_mk, good_mk, good_landOp, good_modCid]

theorem good_execCacheCopyDrop (n : NibId) (c : Nat) {s : State} (hs : Good C s) :
    Next C (execCacheCopyDrop n c s) := by
  unfold execCacheCopyDrop
  grind [next_mk, good_mk, good_modNib]

theorem good_tlbKeep {s : State} (hs : Good C s) (n : NibId) (e : TlbEntry) :
    Good C (State.tlbKeep s n e) := by
  unfold State.tlbKeep
  grind [good_mk, good_modNib]

theorem good_execTlbFill (n : NibId) (id : Nat) {s : State} (hs : Good C s) :
    Next C (execTlbFill n id s) := by
  unfold execTlbFill
  split
  · split
    · refine next_ite (next_mk hs) ?_
      split
      · exact next_mk (good_dropOp (good_tlbKeep hs ..) ..)
      split
      · exact next_mk (good_dropOp (good_tlbKeep hs ..) ..)
      · exact next_mk (good_modOp hs ..)
      · exact next_ite (next_mk (good_coalesce (good_modOp hs ..) ..)) (next_mk (good_modOp hs ..))
    · exact next_mk hs
  · exact next_mk hs

theorem good_execFaultRecord (p : Fin 16) (va : BitVec 64) (n : BitVec 32) (asid : BitVec 16) (kind : BitVec 8) {s : State} (hs : Good C s) :
    Next C (execFaultRecord p va n asid kind s) := by
  unfold execFaultRecord
  grind [next_mk, good_mk, good_modPart, good_raiseMsix]

theorem good_execInval (p : Fin 16) (x : BitVec 64) {s : State} (hs : Good C s) :
    Next C (execInval p x s) := by
  unfold execInval
  grind [next_mk, good_mk, good_modPart, good_schedule, good_freeCycle]

theorem good_execInvalidationComplete (p : Fin 16) {s : State} (hs : Good C s) :
    Next C (execInvalidationComplete p s) := by
  unfold execInvalidationComplete
  grind [next_mk, good_mk, good_schedule, good_modPart]

theorem good_execPctl (p : Fin 16) (e : Fin 16) (x : BitVec 64) {s : State} (hs : Good C s) :
    Next C (execPctl p e x s) := by
  unfold execPctl
  grind [next_mk, good_mk, good_modPart]

theorem good_execClockFloor (p : Fin 16) {s : State} (hs : Good C s) :
    Next C (execClockFloor p s) := by
  unfold execClockFloor
  grind [next_mk, good_mk, good_raisePart, good_freeCycle, good_schedule]

theorem good_addToll {s : State} (hs : Good C s) (p : Fin 16) (rs : List Range) :
    Good C (State.addToll s p rs) := by
  unfold State.addToll
  grind [good_mk, good_modPart]

theorem good_hostLoad {s : State} (hs : Good C s) (p : Fin 16) (root : Word) (va : Word) (n : Nat) :
    ∀ t, State.hostLoad s p root va n = some t → Good C t.2 := by
  intro t h
  obtain ⟨rs, -, rfl⟩ := Option.map_eq_some_iff.mp h
  refine good_foldl_snd _ (fun acc r h => ?_) (good_addToll hs ..)
  dsimp only
  exact good_modPart (good_readStamp h ..) ..

theorem good_hostStore {s : State} (hs : Good C s) (p : Fin 16) (root : Word) (va : Word) (n : Nat) (x : Nat) :
    ∀ t, State.hostStore s p root va n x = some t → Good C t := by
  intro t h
  obtain ⟨rs, -, rfl⟩ := Option.map_eq_some_iff.mp h
  exact good_foldl _ (fun t r h => good_hostWrite h ..) (good_addToll hs ..)

theorem good_hostAdd {s : State} (hs : Good C s) (p : Fin 16) (root : Word) (va : Word) (x : Nat) :
    ∀ t, State.hostAdd s p root va x = some t → Good C t := by
  intro t h
  obtain ⟨rs, -, rfl⟩ := Option.map_eq_some_iff.mp h
  exact good_foldl _ (fun t r h => good_hostWrite h ..) (good_addToll hs ..)

theorem good_noTolls {s : State} (hs : Good C s) :
    Good C (State.noTolls s) := by
  unfold State.noTolls
  grind [good_mk]

theorem good_settleEvent {s : State} (hs : Good C s) (ev : Instr) {t : State} (ht : Good C t) :
    Good C (State.settleEvent s ev t) := by
  unfold State.settleEvent
  dsimp only
  split
  · exact good_ite (good_schedule (good_modPart hs ..) ..) (good_modPart hs ..)
  · exact good_dropThrough (good_noTolls (good_foldl _ (fun u i hu => good_ite hu (good_modPart hu ..)) ht)) ..

theorem good_execHostAccess (v : Fin 17) (w : Bool) (va : BitVec 64) (x : BitVec 64) {s : State} (hs : Good C s) :
    Next C (execHostAccess v w va x s) := by
  unfold execHostAccess
  split
  · exact next_mk hs
  · dsimp only
    split
    next e =>
      refine next_mk (good_settleEvent hs _ ?_)
      split at e
      · exact good_hostStore (good_noTolls hs) _ _ _ _ _ _ e
      · obtain ⟨u, l, rfl⟩ := Option.map_eq_some_iff.mp e
        exact good_hostLoad (good_noTolls hs) _ _ _ _ u l
    · exact next_mk (good_dropThrough hs ..)

theorem good_startTask {s : State} (hs : Good C s) (l : Launch) (n : NibId) (k : Fin 8) (x : Nat) (rq : Option (Fin 64)) (at_ : Nat) :
    Good C (State.startTask s l n k x rq at_) := by
  unfold State.startTask
  grind [good_mk, good_newId, good_modStroke]

theorem good_kernelUp {s : State} (hs : Good C s) (n : NibId) :
    Good C (State.kernelUp s n) := by
  unfold State.kernelUp
  grind [good_mk, good_newId, good_modStroke]

theorem good_loadKernel {s : State} (hs : Good C s) (n : NibId) :
    Good C (State.loadKernel s n) := by
  unfold State.loadKernel
  grind [good_mk, good_write, good_kernelUp]

theorem good_startKernels {s : State} (hs : Good C s) (f : Fin 16) :
    Good C (State.startKernels s f) := by
  unfold State.startKernels
  exact good_foldl _ (fun t o ht => good_loadKernel ht ..) hs

theorem good_refill {s : State} (hs : Good C s) (n : NibId) (y0 : Nat) :
    Good C (State.refill s n y0) := by
  induction y0 generalizing s with
  | zero => exact hs
  | succ fuel ih =>
    unfold State.refill
    dsimp only
    split
    · exact hs
    · exact ih (good_setNib hs ..)

theorem good_startNext {s : State} (hs : Good C s) (n : NibId) (k : Fin 8) :
    Good C (State.startNext s n k) := by
  unfold State.startNext
  grind [good_mk, good_setNib, good_freeCycle, good_startTask]

theorem good_reportNext {s : State} (hs : Good C s) (n : NibId) :
    Good C (State.reportNext s n) := by
  unfold State.reportNext
  grind [good_mk, good_schedule]

theorem good_reportLoad {s : State} (hs : Good C s) (n : NibId) :
    Good C (State.reportLoad s n) := by
  unfold State.reportLoad
  grind [good_mk, good_reportNext]

theorem good_execWakeAccept (n : NibId) (id : Nat) {s : State} (hs : Good C s) :
    Next C (execWakeAccept n id s) := by
  unfold execWakeAccept
  split
  · exact next_mk hs
  · refine next_mk (good_reportLoad (good_refill (good_ite (good_modNib ?_ ..) ?_) ..) ..)
    all_goals exact good_foldl _ (fun t x ht => good_ite (good_startTask ht ..) (good_modNib ht ..)) (good_ite hs (good_modNib hs ..))

theorem good_moveTask {s : State} (hs : Good C s) (n : NibId) (m : NibId) :
    Good C (State.moveTask s n m) := by
  unfold State.moveTask
  extract_lets key
  split
  · exact hs
  split
  · exact hs
  extract_lets s1 s2
  have h1 : Good C s1 := good_modNib hs ..
  have h2 : Good C s2 := good_reportLoad (good_refill (good_modNib h1 ..) ..) ..
  split
  · exact h2
  split
  · exact good_startNext h2 ..
  · exact h2

theorem good_moveTasks {s : State} (hs : Good C s) (n : NibId) (m : NibId) (y0 : Nat) :
    Good C (State.moveTasks s n m y0) := by
  induction y0 generalizing s with
  | zero => exact hs
  | succ k ih => exact ih (good_moveTask hs ..)

theorem good_tellNeighbours {s : State} (hs : Good C s) (next : Fin 4 → Option NibId) (c : Nat) (ds : List (Fin 4)) :
    Good C (ds.foldl (fun s (d : Fin 4) =>
        match next d with
        | some m =>
          let (t, s) := s.freeCycle (s.cycle + 1) none
          s.schedule t (.loadBalance (.report m ⟨d + 2, c⟩))
        | none => s) s) := by
  refine good_foldl _ (fun t d ht => ?_) hs
  dsimp only
  split
  · exact good_schedule (good_freeCycle ht ..) ..
  · exact ht

theorem good_shareTasks {s : State} (hs : Good C s) (n : NibId) (next : Fin 4 → Option NibId) (ds : List (Fin 4)) :
    Good C (ds.foldl (fun s (d : Fin 4) =>
        match next d with
        | some m =>
          let c := (s.movable n).length
          let o := (s.nib n).load[d]
          if o + 2 ≤ c then s.moveTasks n m (min 4 ((c - o) / 2)) else s
        | none => s) s) := by
  refine good_foldl _ (fun t d ht => ?_) hs
  split
  · exact good_ite (good_moveTasks ht ..) ht
  · exact ht

theorem good_execLoadBalance (x : LoadEvent) {s : State} (hs : Good C s) :
    Next C (execLoadBalance x s) := by
  unfold execLoadBalance
  cases x with
  | report n r => exact next_ite (next_mk hs) (next_mk (good_modNib hs ..))
  | exchange n =>
    have shared := fun next => good_shareTasks (good_tellNeighbours (good_refill hs n 64) next (((s.refill n 64).movable n).length) [0, 1, 2, 3]) n next [0, 1, 2, 3]
    exact next_ite (next_mk hs) (next_mk (good_ite (good_reportLoad (shared _) ..) (good_reportNext (shared _) ..)))
  | refill n => exact next_mk (good_ite hs (good_reportLoad (good_refill hs ..) ..))

theorem good_execTaskEnd (n : NibId) (k : Fin 8) {s : State} (hs : Good C s) :
    Next C (execTaskEnd n k s) := by
  unfold execTaskEnd
  refine next_ite (next_mk hs) ?_
  extract_lets c s1 s2 idle clk
  have ready {t : State} (ht : Good C t) : Good C (idle t) := good_ite (good_kernelUp ht ..) ht
  have h1 : Good C s1 := good_modNib hs ..
  have h2 : Good C s2 := good_modStroke h1 ..
  clear_value s1 s2
  split
  · exact next_mk (ready h2)
  · extract_lets s3 s4
    have h3 : Good C s3 := good_of_eq h2 rfl rfl rfl rfl
    have h4 : Good C s4 := good_ite (good_schedule h3 ..) h3
    exact next_mk (ready (good_reportLoad (good_startNext (good_refill h4 ..) ..) ..))

theorem good_pktLoad {s : State} (hs : Good C s) (v : Fin 17) (q : Fin 64) (va : Word) (n : Nat) :
    ∀ t, State.pktLoad s v q va n = some t → Good C t.2 := by
  intro t h
  obtain ⟨r, -, h⟩ := Option.bind_eq_some_iff.mp h
  exact good_hostLoad hs _ _ _ _ _ h

theorem good_pktStore {s : State} (hs : Good C s) (v : Fin 17) (q : Fin 64) (va : Word) (n : Nat) (x : Nat) :
    ∀ t, State.pktStore s v q va n x = some t → Good C t := by
  intro t h
  obtain ⟨r, -, h⟩ := Option.bind_eq_some_iff.mp h
  exact good_hostStore hs _ _ _ _ _ _ h

theorem good_pktAdd {s : State} (hs : Good C s) (v : Fin 17) (q : Fin 64) (va : Word) (x : Nat) :
    ∀ t, State.pktAdd s v q va x = some t → Good C t := by
  intro t h
  obtain ⟨r, -, h⟩ := Option.bind_eq_some_iff.mp h
  exact good_hostAdd hs _ _ _ _ _ h

theorem good_agentWait {s : State} (hs : Good C s) (v : Fin 17) (q : Fin 64) (t : Clk) :
    Good C (State.agentWait s v q t) := by
  unfold State.agentWait
  grind [good_mk, good_modPart]

theorem good_capWrite {s : State} (hs : Good C s) (va : Word) (n : Nat) (x : Nat) :
    Good C (State.capWrite s va n x) := by
  refine ⟨fun c => ?_⟩
  obtain ⟨h1, h2, h3, h4⟩ := hs.canonical c
  exact ⟨h1, Memory.wf_write _ _ _ _ h2, h3, h4⟩

theorem good_capItem {s : State} (hs : Good C s) (v : Fin 17) (q : Fin 64) (kind : Nat) (len : Nat) (va : Word) (crcs : Nat) (data : Nat) :
    Good C (State.capItem s v q kind len va crcs data) := by
  unfold State.capItem
  grind [good_mk, good_capWrite, good_modQueue]

theorem good_capCrcs {s : State} (hs : Good C s) (v : Fin 17) (q : Fin 64) (regions : List (Word × Word)) :
    Good C (State.capCrcs s v q regions).2 := by
  refine good_foldl_snd _ (fun acc x h => ?_) hs
  dsimp only
  split
  next d t e => exact good_pktLoad h _ _ _ _ (d, t) e
  · exact h

theorem good_haltAt {s : State} (hs : Good C s) (v : Fin 17) (q : Fin 64) (slot : Nat) (code : Nat) :
    Good C (State.haltAt s v q slot code) := by
  unfold State.haltAt
  grind [good_mk, good_raiseMsix, good_modQueue]

theorem good_haltFault {s : State} (hs : Good C s) (v : Fin 17) (q : Fin 64) :
    Good C (State.haltFault s v q) := by
  unfold State.haltFault
  grind [good_mk, good_haltAt]

theorem good_pump {s : State} (hs : Good C s) (v : Fin 17) (q : Fin 64) (y0 : Nat) :
    Good C (State.pump s v q y0) := by
  induction y0 generalizing s with
  | zero => exact hs
  | succ fuel ih =>
    unfold State.pump
    dsimp only
    refine good_ite hs (good_ite (ih (good_modQueue (good_modQueue hs ..) ..)) ?_)
    split
    · exact good_haltAt (good_modQueue hs ..) ..
    · exact good_ite (good_haltAt (good_modQueue hs ..) ..) (good_ite hs (good_schedule (good_freeCycle (good_capItem (good_modQueue
        (good_modQueue (good_newId hs) ..) ..) ..) ..) ..))

theorem good_modPacket {s : State} (hs : Good C s) (v : Fin 17) (q : Fin 64) (id : Nat) (f : Packet → Packet) :
    Good C (State.modPacket s v q id f) := by
  unfold State.modPacket
  grind [good_mk, good_modQueue]

theorem good_startPacket {s : State} (hs : Good C s) (v : Fin 17) (q : Fin 64) (p : Packet) :
    Good C (State.startPacket s v q p) := by
  unfold State.startPacket
  grind [good_mk, good_modPacket, good_agentWait]

theorem good_putReplay {s : State} (hs : Good C s) (v : Fin 17) (r : Option Replay) :
    Good C { s with vfs := s.vfs.set v { s.vfs[v] with replay := r } } := good_of_eq hs rfl rfl rfl rfl

theorem good_replayCheck {s : State} (hs : Good C s) (v : Fin 17) :
    Good C (State.replayCheck s v) := by
  unfold State.replayCheck
  split
  · exact hs
  · dsimp only
    split
    · exact good_putReplay hs ..
    split
    · exact good_raiseMsix (good_putReplay (good_capWrite (good_capCrcs hs ..) ..) ..) ..
    · exact good_putReplay (good_capCrcs hs ..) ..

theorem good_replayStep {s : State} (hs : Good C s) (v : Fin 17) (y0 : Nat) :
    Good C (State.replayStep s v y0) := by
  induction y0 generalizing s with
  | zero => exact hs
  | succ fuel ih =>
    unfold State.replayStep
    split
    · exact hs
    · extract_lets area used put a len r'
      have hp (t : State) (ht : Good C t) (r : Option Replay) : Good C (put t r) := good_putReplay ht ..
      refine good_ite (good_pump (hp _ hs _) ..) ?_
      split
      · split
        next e =>
        extract_lets s2 s3
        have h2 : Good C s2 := hp _ (good_snd e (good_newId hs)) _
        have h3 : Good C s3 := good_modQueue h2 ..
        split
        next h => exact good_schedule (good_snd h (good_freeCycle h3 ..)) ..
      · exact ih (good_getD (hp _ hs _) fun t ht => good_pktStore (hp _ hs _) _ _ _ _ _ _ ht)
      · exact ih (hp _ hs _)
      · exact good_pump (hp _ hs _) ..

theorem good_finishPacket {s : State} (hs : Good C s) (v : Fin 17) (q : Fin 64) (p : Packet) (status : Nat) (clk : Clk) :
    Good C (State.finishPacket s v q p status clk) := by
  unfold State.finishPacket
  extract_lets s1 done s2 s3 t s4
  have h1 : Good C s1 := good_agentWait hs ..
  have h2 : Good C s2 := good_ite h1 (good_getD (good_haltFault h1 ..) fun t ht => good_pktStore h1 _ _ _ _ _ _ ht)
  have h3 : Good C s3 := good_ite (good_raiseMsix h2 ..) h2
  have h4 : Good C s4 := good_modQueue h3 ..
  split
  · extract_lets s5 s6
    have h5 : Good C s5 := good_putReplay h4 ..
    have h6 : Good C s6 := good_ite (good_replayCheck h5 ..) h5
    exact good_ite (good_ite (good_replayStep h6 ..) (good_pump h6 ..)) h4
  · exact good_pump h4 ..

theorem good_faultPacket {s : State} (hs : Good C s) (v : Fin 17) (q : Fin 64) (p : Packet) :
    Good C (State.faultPacket s v q p) := by
  unfold State.faultPacket
  grind [good_mk, good_finishPacket, good_haltFault]

theorem good_settlePacket {s : State} (hs : Good C s) (v : Fin 17) (q : Fin 64) (p : Packet) {t : State} (ht : Good C t) :
    Good C (State.settlePacket s v q p t) := by
  unfold State.settlePacket
  dsimp only
  refine good_ite (good_modPacket (good_noTolls ht) ..) ?_
  split
  · exact good_modPacket (good_modPart hs ..) ..
  · exact good_noTolls (good_foldl _ (fun u i hu => good_modPart hu ..) ht)

theorem good_onPacket {s : State} (hs : Good C s) (id : Nat) {f : State → Fin 17 → Fin 64 → Packet → State} (hf : ∀ x0 x1 x2 x3, Good C x0 → Good C (f x0 x1 x2 x3)) :
    Next C (State.onPacket s id f) := by
  unfold State.onPacket
  grind [next_mk, good_mk, good_schedule, good_settlePacket, good_noTolls, good_startPacket]

theorem good_execQctl (v : Fin 17) (q : Fin 64) (x : BitVec 64) {s : State} (hs : Good C s) :
    Next C (execQctl v q x s) := by
  unfold execQctl
  grind [next_mk, good_mk, good_modQueue, good_pump]

theorem good_execQtail (v : Fin 17) (q : Fin 64) (x : BitVec 64) {s : State} (hs : Good C s) :
    Next C (execQtail v q x s) := by
  unfold execQtail
  grind [next_mk, good_mk, good_pump, good_modQueue]

theorem good_execLaunchRegister (v : Fin 17) (q : Fin 64) (pkt : BitVec 512) {s : State} (hs : Good C s) :
    Next C (execLaunchRegister v q pkt s) := by
  unfold execLaunchRegister
  grind [next_mk, good_mk, good_setQueue, good_pump]

theorem good_floodFolio {s : State} (hs : Good C s) (l : Launch) (from_ : Nat) (f : Fin 16) :
    Good C (State.floodFolio s l from_ f) := by
  unfold State.floodFolio
  grind [good_mk, good_freeCycle, good_crossBorder]

theorem good_floodWake {s : State} (hs : Good C s) (l : Launch) (from_ : Nat) :
    Good C (State.floodWake s l from_) := by
  unfold State.floodWake
  exact good_foldl _ (fun t f ht => good_ite ht (good_floodFolio ht ..)) hs

theorem good_launch {s : State} (hs : Good C s) (v : Fin 17) (q : Fin 64) (p : Packet) :
    Good C (State.launch s v q p) := by
  unfold State.launch
  split
  · exact good_finishPacket hs ..
  · extract_lets bad
    have hb {t : State} (ht : Good C t) : Good C (bad t) := good_haltAt (good_modQueue ht ..) ..
    split
    · exact hb hs
    next e =>
      have hl := good_pktLoad hs _ _ _ _ (_, _) e
      refine good_ite (hb hl) ?_
      extract_lets
      split
      next id s1 h =>
      have h1 : Good C s1 := good_snd h (good_newId hl)
      extract_lets clk l gone l2 s2 s3
      have h2 : Good C s2 := good_of_eq h1 rfl rfl rfl rfl
      exact good_pump (good_ite (good_schedule h2 ..) (good_floodWake h2 ..)) ..

theorem good_execLaunch (id : Nat) {s : State} (hs : Good C s) :
    Next C (execLaunch id s) := by
  unfold execLaunch
  grind [next_mk, good_mk, good_onPacket, good_launch]

theorem good_execLaunchComplete (id : Nat) {s0 : State} (hs0 : Good C s0) :
    Next C (execLaunchComplete id s0) := by
  unfold execLaunchComplete
  extract_lets s1 s2
  have h1 : Good C s1 := good_noTolls hs0
  split
  · exact next_mk hs0
  · refine next_ite (next_mk hs0) ?_
    have h2 : Good C s2 := good_of_eq h1 rfl rfl rfl rfl
    split
    · exact next_mk h2
    · extract_lets s3 s4
      have h3 : Good C s3 := good_agentWait h2 ..
      have h4 : Good C s4 := by
        unfold s4
        split
        · exact good_ite h3 (good_capItem (good_capCrcs h3 ..) ..)
        · exact h3
      exact next_mk (good_settleEvent hs0 _ (good_finishPacket h4 ..))

theorem good_copyPacket {s : State} (hs : Good C s) (v : Fin 17) (q : Fin 64) (p : Packet) :
    Good C (State.copyPacket s v q p) := by
  unfold State.copyPacket
  extract_lets f len i src dst n rd
  have read (t) : rd = some t → Good C t.2 := good_rd (fun t h => good_pktLoad hs _ _ _ _ t h) hs
  clear_value rd
  split
  · exact good_faultPacket hs ..
  next x s1 =>
    have hr := read (x, s1) rfl
    extract_lets wr
    have written (t) : wr = some t → Good C t := good_wr (fun t h => good_pktStore hr _ _ _ _ _ t h) (good_capWrite hr ..)
    clear_value wr
    split
    · exact good_faultPacket hr ..
    next s2 =>
      have hw := written s2 rfl
      dsimp only
      exact good_ite (good_finishPacket hw ..) (good_pump (good_schedule (good_freeCycle (good_modPacket hw ..) ..) ..) ..)

theorem good_condWord {s : State} (hs : Good C s) (v : Fin 17) (q : Fin 64) (p : Packet) :
    ∀ t, State.condWord s v q p = some t → Good C t.2 := by
  exact fun t h => good_pktLoad hs _ _ _ _ t h

theorem good_waitPacket {s : State} (hs : Good C s) (v : Fin 17) (q : Fin 64) (p : Packet) :
    Good C (State.waitPacket s v q p) := by
  unfold State.waitPacket
  split
  · exact good_faultPacket hs ..
  next e =>
    have hl := good_condWord hs _ _ _ (_, _) e
    exact good_ite (good_finishPacket hl ..) (good_pump (good_schedule hl ..) ..)

theorem good_execCopy (id : Nat) {s : State} (hs : Good C s) :
    Next C (execCopy id s) := by
  unfold execCopy
  grind [next_mk, good_mk, good_onPacket, good_copyPacket]

theorem good_execWaitmem (id : Nat) {s : State} (hs : Good C s) :
    Next C (execWaitmem id s) := by
  unfold execWaitmem
  grind [next_mk, good_mk, good_onPacket, good_waitPacket]

theorem good_execWaitmemPoll (id : Nat) {s : State} (hs : Good C s) :
    Next C (execWaitmemPoll id s) := by
  unfold execWaitmemPoll
  grind [next_mk, good_mk, good_onPacket, good_waitPacket]

theorem good_execSignalmem (id : Nat) {s : State} (hs : Good C s) :
    Next C (execSignalmem id s) := by
  unfold execSignalmem
  grind [next_mk, good_mk, good_onPacket, good_pktStore, good_pktAdd, good_faultPacket, good_finishPacket]

theorem good_execCond (id : Nat) {s : State} (hs : Good C s) :
    Next C (execCond id s) := by
  unfold execCond
  refine good_onPacket hs _ fun t v q p ht => ?_
  split
  · exact good_faultPacket ht ..
  next e =>
    have hl := good_condWord ht _ _ _ (_, _) e
    exact good_finishPacket (good_ite hl (good_modQueue hl ..)) ..

theorem good_execLoop (id : Nat) {s : State} (hs : Good C s) :
    Next C (execLoop id s) := by
  unfold execLoop
  refine good_onPacket hs _ fun t v q p ht => ?_
  split
  · exact good_faultPacket (good_modQueue ht ..) ..
  next e =>
    have hl := good_condWord ht _ _ _ (_, _) e
    exact good_ite (good_finishPacket hl ..) (good_ite (good_pump (good_modQueue hl ..) ..) (good_finishPacket (good_modQueue hl ..) ..))

theorem good_gateQueue {s : State} (hs : Good C s) (v : Fin 17) (q : Fin 64) (on : Bool) :
    Good C (State.gateQueue s v q on) := by
  unfold State.gateQueue
  grind [good_mk]

theorem good_execCapstart (id : Nat) {s : State} (hs : Good C s) :
    Next C (execCapstart id s) := by
  unfold execCapstart
  refine good_onPacket hs _ fun t v q p ht => ?_
  extract_lets f area n rd
  have read (u) : rd = some u → Good C u.2 := good_rd (fun u h => good_pktLoad ht _ _ _ _ u h) ht
  clear_value rd
  split
  · exact good_faultPacket ht ..
  next x s1 =>
    have hr := read (x, s1) rfl
    exact good_finishPacket (good_gateQueue (good_ite (good_putReplay hr ..) (good_capItem (good_modQueue (good_capWrite hr ..) ..) ..)) ..) ..

theorem good_execCapstop (id : Nat) {s : State} (hs : Good C s) :
    Next C (execCapstop id s) := by
  unfold execCapstop
  grind [next_mk, good_mk, good_onPacket, good_modQueue, good_capWrite, good_finishPacket, good_gateQueue]

theorem good_replayPart {s : State} (hs : Good C s) (p : Fin 16) :
    Good C (State.replayPart s p) := by
  unfold State.replayPart
  extract_lets s1 s2 mine s3
  have h1 : Good C s1 := good_modPart hs ..
  have h2 : Good C s2 := good_of_eq h1 rfl rfl rfl rfl
  have h3 : Good C s3 := by
    refine good_foldl _ (fun u o hu => ?_) h2
    extract_lets u1
    split
    next c u2 e =>
    have h : Good C u2 := good_snd e (good_freeCycle (good_modOp hu ..) ..)
    split
    · exact good_schedule h ..
    · exact good_quillGo h ..
    · exact good_schedule h ..
    · exact good_schedule (good_schedule (good_schedule (good_schedule (good_dropOp h ..) ..) ..) ..) ..
    · exact h
  exact good_of_eq h3 rfl rfl rfl rfl

theorem good_execReplayall (id : Nat) {s : State} (hs : Good C s) :
    Next C (execReplayall id s) := by
  unfold execReplayall
  exact good_onPacket hs _ fun t v q p ht => good_finishPacket (good_foldl _ (fun u i hu => good_replayPart hu ..) ht) ..

theorem good_execFence (id : Nat) {s : State} (hs : Good C s) :
    Next C (execFence id s) := by
  unfold execFence
  grind [next_mk, good_mk, good_onPacket, good_finishPacket]

theorem good_execNopPacket (id : Nat) {s : State} (hs : Good C s) :
    Next C (execNopPacket id s) := by
  unfold execNopPacket
  grind [next_mk, good_mk, good_onPacket, good_finishPacket]

theorem good_execRplctl (v : Fin 17) (x : BitVec 64) {s0 : State} (hs0 : Good C s0) :
    Next C (execRplctl v x s0) := by
  unfold execRplctl
  grind [next_mk, good_mk, good_noTolls, good_settleEvent, good_replayStep]

theorem good_execHostsig (v : Fin 17) (x : BitVec 64) {s : State} (hs : Good C s) :
    Next C (execHostsig v x s) := by
  unfold execHostsig
  split
  · exact next_mk hs
  · exact next_mk (good_atBorder hs _ _ _ _ fun t ht => good_foldl _ (fun u n hu => good_setTip hu ..) ht)

theorem good_preemptGuest {s : State} (hs : Good C s) (v : Nat) :
    Good C (State.preemptGuest s v) := by
  unfold State.preemptGuest
  grind [good_mk, good_schedule]

theorem good_scrubFolio {s : State} (hs : Good C s) (f : Fin 16) (floor : Clk) :
    Good C (State.scrubFolio s f floor) := by
  refine ⟨fun c => ?_⟩
  obtain ⟨h1, h2, h3, h4⟩ := hs.canonical c
  exact ⟨Memory.wf_filter _ _ h1, h2, h3, h4⟩

theorem good_resumeQueues {s : State} (hs : Good C s) (v : Fin 17) :
    Good C (State.resumeQueues s v) := by
  unfold State.resumeQueues
  exact good_foldl _ (fun t x ht => good_pump ht ..) hs

theorem good_makePart {s : State} (hs : Good C s) (b : BitVec 512) :
    Good C (State.makePart s b) := by
  unfold State.makePart
  grind [good_mk, good_schedule]

theorem good_destroyPart {s : State} (hs : Good C s) (v : Fin 17) (q : Fin 64) (p : Packet) (part : Fin 16) :
    Good C (State.destroyPart s v q p part) := by
  unfold State.destroyPart
  extract_lets vf again floor s1 w s2 _ s3
  have hr {t : State} (ht : Good C t) (k : Nat) : Good C (again t k) := good_schedule (good_modPacket ht ..) ..
  have h1 : Good C s1 := good_foldl _ (fun t f ht => good_startKernels (good_scrubFolio ht ..) ..) hs
  have h2 : Good C s2 := good_foldl _ (fun t x ht => good_goOn ht ..) h1
  have h3 : Good C s3 := good_of_eq h2 rfl rfl rfl rfl
  refine good_ite (hr (good_preemptGuest (good_modPart hs ..) ..) _) (good_ite (good_ite (hr hs _) ?_) (good_finishPacket h3 ..))
  split
  next h => exact good_schedule (good_modPacket (good_snd h (good_freeCycle hs ..)) ..) ..

theorem good_execPartCreate (id : Nat) {s : State} (hs : Good C s) :
    Next C (execPartCreate id s) := by
  unfold execPartCreate
  grind [next_mk, good_mk, good_onPacket, good_finishPacket, good_pump, good_destroyPart, good_makePart]

theorem good_resizeStep {s : State} (hs : Good C s) (v : Fin 17) (q : Fin 64) (p : Packet) :
    Good C (State.resizeStep s v q p) := by
  unfold State.resizeStep
  grind [good_mk, good_schedule, good_modPacket, good_finishPacket, good_preemptGuest, good_modPart, good_freeCycle, good_resumeQueues, good_scrubFolio, good_startKernels]

theorem good_execResize (id : Nat) {s : State} (hs : Good C s) :
    Next C (execResize id s) := by
  unfold execResize
  grind [next_mk, good_mk, good_onPacket, good_pump, good_resizeStep]

theorem good_execErtWrite (id : Nat) {s : State} (hs : Good C s) :
    Next C (execErtWrite id s) := by
  unfold execErtWrite
  grind [next_mk, good_mk, good_onPacket, good_finishPacket, good_faultPacket, good_modPart, good_addToll, good_hostWrite]

theorem good_execSnapshot (id : Nat) {s : State} (hs : Good C s) :
    Next C (execSnapshot id s) := by
  unfold execSnapshot
  refine good_onPacket hs _ fun t v q p ht => ?_
  extract_lets w x va len
  refine good_ite (good_finishPacket ht ..) ?_
  split
  · exact good_faultPacket ht ..
  next e => exact good_finishPacket (good_capItem (good_pktLoad (good_agentWait ht ..) _ _ _ _ (_, _) e) ..) ..

theorem good_execTokenBucketRefill (p : Fin 16) {s : State} (hs : Good C s) :
    Next C (execTokenBucketRefill p s) := by
  unfold execTokenBucketRefill
  exact next_ite (next_mk hs) (next_mk (good_foldl _ (fun t x ht => good_goOn ht ..) (good_schedule (good_modPart hs ..) ..)))

theorem good_modBonnet {s : State} (hs : Good C s) (f : Bonnet → Bonnet) :
    Good C (State.modBonnet s f) := by
  unfold State.modBonnet
  grind [good_mk]

theorem good_portAnswer {s : State} (hs : Good C s) (id : Nat) (refusal : Bool) :
    Good C (State.portAnswer s id refusal) := by
  unfold State.portAnswer
  grind [good_mk, good_freeCycle, good_schedule]

theorem good_guestDone {s : State} (hs : Good C s) (o : Op) (status : BitVec 32) (clk : Clk) :
    Good C (State.guestDone s o status clk) := by
  unfold State.guestDone
  grind [good_mk, good_engWrite, good_modOp, good_modNib, good_modBonnet]

theorem good_portDone {s : State} (hs : Good C s) (id : Nat) (status : BitVec 32) :
    Good C (State.portDone s id status) := by
  unfold State.portDone
  grind [good_mk, good_guestDone]

theorem good_tellGuest {s : State} (hs : Good C s) (t : Clk) :
    Good C (State.tellGuest s t) := by
  unfold State.tellGuest
  grind [good_mk, good_modBonnet]

theorem good_sendPreempt {s : State} (hs : Good C s) (v : Nat) :
    Good C (State.sendPreempt s v) := by
  unfold State.sendPreempt
  grind [good_mk, good_schedule, good_modBonnet]

theorem good_setWay {s : State} (hs : Good C s) (id : Nat) (way : GuestWay) :
    Good C (State.setWay s id way) := by
  unfold State.setWay
  grind [good_mk, good_modOp]

theorem good_forward {s : State} (hs : Good C s) (o : Op) :
    Good C (State.forward s o) := by
  unfold State.forward
  grind [good_mk, good_portAnswer, good_setWay, good_tellGuest, good_sendPreempt, good_modBonnet]

theorem good_leaveForPort {s : State} (hs : Good C s) (n : NibId) (id : Nat) :
    Good C (State.leaveForPort s n id) := by
  unfold State.leaveForPort
  grind [good_mk, good_modPart, good_forward]

theorem good_execGsub (sl : Fin 16) (a : Fin 32) {s : State} (hs : Good C s) :
    Next C (execGsub sl a s) := by
  unfold execGsub
  refine good_guarded hs _ _ _ fun t ht => ?_
  extract_lets va
  refine good_ite (good_raise ht ..) (good_ite (good_raise ht ..) (good_ite (good_raise ht ..) ?_))
  split
  next x t1 h =>
  have h1 : Good C t1 := good_snd h (good_localLoad ht ..)
  extract_lets b
  split
  · exact good_illegalVal ht ..
  · refine good_ite ht (good_ite ht ?_)
    extract_lets
    split
    next id t2 h =>
    have h2 : Good C t2 := good_snd h (good_newOp h1 ..)
    exact good_retire (good_pendSeal (good_leaveForPort (good_modNib h2 ..) ..) ..)

theorem good_fenceGuest {s : State} (hs : Good C s) (code : Nat) :
    Good C (State.fenceGuest s code) := by
  unfold State.fenceGuest
  refine good_ite hs ?_
  extract_lets ids s1 s2 s3
  have h1 : Good C s1 := good_modBonnet hs ..
  have h2 : Good C s2 := good_of_eq h1 rfl rfl rfl rfl
  have h3 : Good C s3 := good_foldl _ (fun t i ht => good_portAnswer ht ..) h2
  exact good_foldl _ (fun t v ht => good_raiseMsix ht ..) h3

theorem good_execBonctlEn (x : BitVec 64) {s : State} (hs : Good C s) :
    Next C (execBonctlEn x s) := by
  unfold execBonctlEn
  refine next_ite (next_mk (good_ite (good_modBonnet hs ..) hs)) ?_
  extract_lets s1 left
  have h1 : Good C s1 := good_modBonnet hs ..
  exact next_ite (next_mk h1) (next_mk (good_foldl _ (fun t i ht => good_portAnswer (good_setWay ht ..) ..) h1))

theorem good_execBonctlFence {s : State} (hs : Good C s) :
    Next C (execBonctlFence s) := by
  unfold execBonctlFence
  grind [next_mk, good_mk, good_fenceGuest]

theorem good_trainLink {s : State} (hs : Good C s) (ok : Bool) (rate : BitVec 8) (mods : BitVec 4) :
    Good C (State.trainLink s ok rate mods) := by
  unfold State.trainLink
  grind [good_mk, good_modBonnet, good_fenceGuest]

theorem good_execLinkTraining (ok : Bool) (rate : BitVec 8) (mods : BitVec 4) {s : State} (hs : Good C s) :
    Next C (execLinkTraining ok rate mods s) := by
  unfold execLinkTraining
  grind [next_mk, good_mk, good_trainLink]

theorem good_execLinkFailure {s : State} (hs : Good C s) :
    Next C (execLinkFailure s) := by
  unfold execLinkFailure
  grind [next_mk, good_mk, good_fenceGuest]

theorem good_execLinkPowerState (l1 : Bool) {s : State} (hs : Good C s) :
    Next C (execLinkPowerState l1 s) := by
  unfold execLinkPowerState
  grind [next_mk, good_mk, good_modBonnet]

theorem good_execPortRefusal (id : Nat) {s : State} (hs : Good C s) :
    Next C (execPortRefusal id s) := by
  unfold execPortRefusal
  grind [next_mk, good_mk, good_landOp, good_forward, good_portDone]

theorem good_execFencedCompletion (id : Nat) {s : State} (hs : Good C s) :
    Next C (execFencedCompletion id s) := by
  unfold execFencedCompletion
  grind [next_mk, good_mk, good_portDone]

theorem good_guestSays {s : State} (hs : Good C s) (clk : Clk) {f : State → Res} (hf : ∀ t, Good C t → Next C (f t)) :
    Next C (s.guestSays clk f) := by
  unfold State.guestSays
  refine next_ite (next_mk hs) ?_
  dsimp only
  exact next_ite (next_mk (good_fenceGuest hs ..)) (hf _ (good_ite hs (good_modBonnet hs ..)))

theorem good_fromGuest {s : State} (hs : Good C s) (ev : Instr) (id : Nat) (clk : Clk) {f : State → Op → Nat → Word → Fin 16 → State} (hf : ∀ x0 x1 x2 x3 x4, Good C x0 → Good C (f x0 x1 x2 x3 x4)) :
    Next C (State.fromGuest s ev id clk f) := by
  unfold State.fromGuest
  extract_lets serve
  have served {t u : State} (ht : Good C t) (hu : Good C u) : Good C (serve t u) := by
    dsimp only [serve]
    repeat' split
    all_goals first
      | exact hf _ _ _ _ _ ht
      | exact ht
      | exact hu
  exact next_ite (next_mk (served hs (good_dropThrough hs ..))) (good_guestSays hs _ fun t ht => next_mk (served ht (good_fenceGuest ht ..)))

theorem good_guestAccess {s : State} (hs : Good C s) (ev : Instr) (id : Nat) (va : Word) (write : Bool) (clk : Clk)
    {act : State → Nat → Bool → Fin 16 → Clk × State} (ha : ∀ t pa c p, Good C t → Good C (act t pa c p).2) :
    Next C (s.guestAccess ev id va write clk act) := by
  unfold State.guestAccess
  refine good_fromGuest hs _ _ _ fun t o vf root p ht => ?_
  refine good_ite (good_fenceGuest (good_dropThrough ht ..) ..) ?_
  split
  · exact good_fenceGuest (good_dropThrough ht ..) ..
  · exact good_dropThrough ht ..
  · refine good_ite (good_dropThrough ht ..) (good_atBorder ht _ _ _ _ fun u hu => ?_)
    split
    next h => exact good_modBonnet (good_snd h (ha _ _ _ _ hu)) ..

theorem good_execCoherentRead (id : Nat) (va : BitVec 64) (clk : BitVec 48) {s : State} (hs : Good C s) :
    Next C (execCoherentRead id va clk s) := by
  exact good_guestAccess hs _ _ _ _ _ fun t pa c p ht => good_readStamp ht ..

theorem good_execCoherentWrite (id : Nat) (va : BitVec 64) (x : BitVec 64) (clk : BitVec 48) {s : State} (hs : Good C s) :
    Next C (execCoherentWrite id va x clk s) := by
  exact good_guestAccess hs _ _ _ _ _ fun t pa c p ht => good_write (good_writeStamp ht ..) ..

theorem good_execCoherentAtomic (id : Nat) (va : BitVec 64) (op : Fin 16) (x : BitVec 64) (y : BitVec 64) (clk : BitVec 48) {s : State} (hs : Good C s) :
    Next C (execCoherentAtomic id va op x y clk s) := by
  unfold execCoherentAtomic
  exact next_ite (good_fromGuest hs _ _ _ fun t o vf root p ht => good_fenceGuest ht ..)
    (good_guestAccess hs _ _ _ _ _ fun t pa c p ht => good_write (good_writeStamp ht ..) ..)

theorem good_execGuestCompletion (id : Nat) (status : BitVec 32) (clk : BitVec 48) {s : State} (hs : Good C s) :
    Next C (execGuestCompletion id status clk s) := by
  unfold execGuestCompletion
  grind [next_mk, good_mk, good_fromGuest, good_atBorder, good_guestDone]

theorem good_execTranslationRequest (id : Nat) (va : Stamped Word) {s : State} (hs : Good C s) :
    Next C (execTranslationRequest id va s) := by
  unfold execTranslationRequest
  grind [next_mk, good_mk, good_fromGuest, good_tellGuest, good_modBonnet, good_schedule]

theorem good_execInvalidationAck (p : Stamped (Fin 16)) {s : State} (hs : Good C s) :
    Next C (execInvalidationAck p s) := by
  unfold execInvalidationAck
  exact good_guestSays hs _ fun t ht => next_mk (good_modBonnet ht ..)

theorem good_execGuestFaultRecord (id : Nat) (va : Stamped Word) {s : State} (hs : Good C s) :
    Next C (execGuestFaultRecord id va s) := by
  unfold execGuestFaultRecord
  grind [next_mk, good_mk, good_fromGuest, good_modBonnet, good_coalesce]

theorem good_execPreemptAck (v : Fin 17) (x : Stamped Word) {s : State} (hs : Good C s) :
    Next C (execPreemptAck v x s) := by
  unfold execPreemptAck
  exact good_guestSays hs _ fun t ht => next_ite (next_mk (good_fenceGuest ht ..)) (next_mk (good_modBonnet ht ..))

theorem good_execGuestDeadline (c : Fin 8) {s : State} (hs : Good C s) :
    Next C (execGuestDeadline c s) := by
  unfold execGuestDeadline
  grind [next_mk, good_mk, good_fenceGuest]

theorem good_bootLink {s : State} (hs : Good C s) :
    Good C (State.bootLink s) := by
  unfold State.bootLink
  grind [good_mk, good_freshNum, good_trainLink]

theorem good_boot {s : State} (hs : Good C s) :
    Good C (State.boot s) := by
  unfold State.boot
  extract_lets s1 s2 guest _ _ s3 s4
  have h1 : Good C s1 := good_schedule hs ..
  have h2 : Good C s2 := good_modBonnet h1 ..
  clear_value s1 s2
  have h3 : Good C s3 := good_of_eq h2 rfl rfl rfl rfl
  have h4 : Good C s4 := good_foldl _ (fun t f ht => good_startKernels ht ..) (good_bootLink h3)
  clear_value s4
  exact good_ite (good_of_eq h4 rfl rfl rfl rfl) (good_of_eq h2 rfl rfl rfl rfl)

theorem good_moduleReset {s : State} (hs : Good C s) :
    Good C (State.moduleReset s) := by
  refine good_boot ⟨fun c => ?_⟩
  obtain ⟨h1, h2, h3, h4⟩ := hs.canonical c
  exact ⟨rfl, h2, rfl, h4⟩

theorem good_execModuleReset {s : State} (hs : Good C s) :
    Next C (execModuleReset s) := by
  unfold execModuleReset
  grind [next_mk, good_mk, good_moduleReset]

theorem good_execThermalCap (d : Fin 32) {s : State} (hs : Good C s) :
    Next C (execThermalCap d s) := by
  exact next_mk (good_of_eq hs rfl rfl rfl rfl)

theorem good_execThermalCapRelease (d : Fin 32) {s : State} (hs : Good C s) :
    Next C (execThermalCapRelease d s) := by
  exact next_mk (good_of_eq hs rfl rfl rfl rfl)

theorem good_execThermalReset (_d : Fin 32) {s : State} (hs : Good C s) :
    Next C (execThermalReset _d s) := by
  unfold execThermalReset
  grind [next_mk, good_mk, good_moduleReset]

theorem good_execPowerMeasurement {s : State} (hs : Good C s) :
    Next C (execPowerMeasurement s) := by
  unfold execPowerMeasurement
  split
  next i s1 h =>
  have h1 : Good C s1 := good_snd h (good_freshNum hs)
  split
  next j s2 h =>
  have h2 : Good C s2 := good_snd h (good_freshNum h1)
  extract_lets total k now _ s3
  have h3 : Good C s3 := good_of_eq h2 rfl rfl rfl rfl
  exact next_mk (good_schedule h3 ..)

theorem good_execAttest (x : BitVec 256) {s : State} (hs : Good C s) :
    Next C (execAttest x s) := by
  exact next_mk (good_ite (good_of_eq hs rfl rfl rfl rfl) hs)

theorem good_flash {s : State} (hs : Good C s) : Good C { s with modu := { s.modu with flash := s.modu.window } } := by
  refine ⟨fun c => ?_⟩
  obtain ⟨h1, h2, h3, -⟩ := hs.canonical c
  exact ⟨h1, h2, h3, h3⟩

theorem good_execRecoveryControl (x : BitVec 64) {s : State} (hs : Good C s) :
    Next C (execRecoveryControl x s) := by
  exact next_ite (next_mk (good_moduleReset (good_flash hs))) (next_mk hs)

theorem good_loseTasks {s : State} (hs : Good C s) (f : Fin 16) :
    Good C (State.loseTasks s f) := by
  unfold State.loseTasks
  extract_lets counts s1
  have h1 : Good C s1 := good_of_eq hs rfl rfl rfl rfl
  exact good_foldl _ (fun t x ht => good_ite (good_schedule ht ..) ht) h1

theorem good_floodNotice {s : State} (hs : Good C s) (x : BitVec 32) :
    Good C (State.floodNotice s x) := by
  unfold State.floodNotice
  refine good_foldl _ (fun t y ht => ?_) hs
  split
  next h => exact good_schedule (good_snd h (good_freeCycle ht ..)) ..

theorem good_execFolioLoss (f : Fin 16) {s : State} (hs : Good C s) :
    Next C (execFolioLoss f s) := by
  unfold execFolioLoss
  grind [next_mk, good_mk, good_loseTasks, good_floodNotice]

theorem good_execModuleLoss (x : BitVec 16) {s : State} (hs : Good C s) :
    Next C (execModuleLoss x s) := by
  unfold execModuleLoss
  refine next_ite (next_mk hs) (next_mk (good_floodNotice ?_ ..))
  exact good_of_eq hs rfl rfl rfl rfl

theorem good_landAll {s : State} (hs : Good C s) (n : NibId) (k : Fin 8) (y0 : Nat) :
    Good C (State.landAll s n k y0) := by
  induction y0 generalizing s with
  | zero => exact hs
  | succ fuel ih =>
    unfold State.landAll
    extract_lets c
    split
    · exact ih (good_applyEff (good_modCtxAt hs ..) ..)
    split
    · exact ih (good_applyEff (good_modCtxAt hs ..) ..)
    · exact hs

theorem good_swapOut {s : State} (hs : Good C s) (n : NibId) (k : Fin 8) (e : Fin 8) :
    Good C (State.swapOut s n k e) := by
  unfold State.swapOut
  grind [good_mk, good_interrupt, good_landAll, good_putEntry]

theorem good_swapIn {s : State} (hs : Good C s) (n : NibId) (k : Fin 8) (c : Option (Ctx × Bool)) (set : Ctx) (from_ : Nat) :
    Good C (State.swapIn s n k c set from_) := by
  unfold State.swapIn
  grind [good_mk, good_modStroke]

theorem good_execSwapStop (n : NibId) (k : Fin 8) {s : State} (hs : Good C s) :
    Next C (execSwapStop n k s) := by
  unfold execSwapStop
  grind [next_mk, good_mk, good_swapIn, good_swapOut, good_modNib]

theorem good_execSwapResume (n : NibId) (k : Fin 8) {s : State} (hs : Good C s) :
    Next C (execSwapResume n k s) := by
  unfold execSwapResume
  grind [next_mk, good_mk, good_modStroke]

theorem good_execCtxcfg (n : NibId) (x : BitVec 64) {s : State} (hs : Good C s) :
    Next C (execCtxcfg n x s) := by
  unfold execCtxcfg
  grind [next_mk, good_mk, good_csrWrite]

theorem good_execNksig (n : NibId) (x : BitVec 64) {s : State} (hs : Good C s) :
    Next C (execNksig n x s) := by
  unfold execNksig
  grind [next_mk, good_mk, good_csrWrite]

theorem good_nextEvent {s : State} (hs : Good C s) :
    ∀ t, State.nextEvent s = some t → Good C t.2 := by
  intro t h
  obtain ⟨x, -, rfl⟩ := Option.map_eq_some_iff.mp h
  exact good_of_eq hs rfl rfl rfl rfl

theorem good_nextMessage {s : State} (hs : Good C s) :
    ∀ t, State.nextMessage s = some t → Good C t.2 := by
  unfold State.nextMessage
  grind [good_mk]

/-- Every instruction keeps the stores canonical and answers a next state: each arm of `exec` has its lemma. -/
theorem good_exec (i : Instr) {s : State} (hs : Good C s) : Next C (exec i s) :=
  match i with
  | .resultLanding n k => good_execResultLanding n k hs
  | .handoffEffect n k => good_execHandoffEffect n k hs
  | .lateWriteLanding n k => good_execLateWriteLanding n k hs
  | .takeInterrupt n k => good_execTakeInterrupt n k hs
  | .deliveredCause n k => good_execDeliveredCause n k hs
  | .taskEnd n k => good_execTaskEnd n k hs
  | .wakeAccept n id => good_execWakeAccept n id hs
  | .longAccessComplete id => good_execLongAccessComplete id hs
  | .homeRead id => good_execHomeRead id hs
  | .homeWrite id => good_execHomeWrite id hs
  | .tlbFill n id => good_execTlbFill n id hs
  | .parkResume n k => good_execParkResume n k hs
  | .waiterTableJoin n => good_execWaiterTableJoin n hs
  | .blockFillComplete id => good_execBlockFillComplete id hs
  | .blockDrainComplete id => good_execBlockDrainComplete id hs
  | .inval p x => good_execInval p x hs
  | .invalidationComplete p => good_execInvalidationComplete p hs
  | .faultRecord p va n asid kind => good_execFaultRecord p va n asid kind hs
  | .clockFloor p => good_execClockFloor p hs
  | .lcTick n k => good_execLcTick n k hs
  | .pctl p e x => good_execPctl p e x hs
  | .hostAccess v w va x => good_execHostAccess v w va x hs
  | .sfuService n => good_execSfuService n hs
  | .sfuResult id => good_execSfuResult id hs
  | .matrixDispatch n => good_execMatrixDispatch n hs
  | .slabEnd n => good_execSlabEnd n hs
  | .matrixRowWrite id => good_execMatrixRowWrite id hs
  | .matrixPost id => good_execMatrixPost id hs
  | .weightLoadComplete n => good_execWeightLoadComplete n hs
  | .groupFillWait n => good_execGroupFillWait n hs
  | .chainPanelArrival n dir id => good_execChainPanelArrival n dir id hs
  | .mfaultAbort n k => good_execMfaultAbort n k hs
  | .selectService n => good_execSelectService n hs
  | .selectPost id => good_execSelectPost id hs
  | .landingDecrement n x src => good_execLandingDecrement n x src hs
  | .brushRead n k => good_execBrushRead n k hs
  | .brushLoad n k => good_execBrushLoad n k hs
  | .stepBlockStart n k => good_execStepBlockStart n k hs
  | .writeBack n k => good_execWriteBack n k hs
  | .copyComplete id => good_execCopyComplete id hs
  | .remoteAccess x => good_execRemoteAccess x hs
  | .permitRequest id => good_execPermitRequest id hs
  | .permitAnswer id => good_execPermitAnswer id hs
  | .sendComplete id => good_execSendComplete id hs
  | .messageDelivery id => good_execMessageDelivery id hs
  | .messageStatus id => good_execMessageStatus id hs
  | .folioLoss f => good_execFolioLoss f hs
  | .moduleLoss x => good_execModuleLoss x hs
  | .lossNotice n x => good_execLossNotice n x hs
  | .barrierArrival x => good_execBarrierArrival x hs
  | .barrierWait id => good_execBarrierWait id hs
  | .releaseDelivery id => good_execReleaseDelivery id hs
  | .barrierWatchdog p ix inst => good_execBarrierWatchdog p ix inst hs
  | .barcfg p ix x => good_execBarcfg p ix x hs
  | .swapStop n k => good_execSwapStop n k hs
  | .swapResume n k => good_execSwapResume n k hs
  | .ctxcfg n x => good_execCtxcfg n x hs
  | .timerFire n k => good_execTimerFire n k hs
  | .nksig n x => good_execNksig n x hs
  | .loadBalance x => good_execLoadBalance x hs
  | .debugStop n k => good_execDebugStop n k hs
  | .dctlStop n k => good_execDctlStop n k hs
  | .dctlResume n k => good_execDctlResume n k hs
  | .dctlStep n k => good_execDctlStep n k hs
  | .dctlDrun n k => good_execDctlDrun n k hs
  | .groupStop n k => good_execGroupStop n k hs
  | .grpres p g => good_execGrpres p g hs
  | .histogramBin n b => good_execHistogramBin n b hs
  | .traceSample n k => good_execTraceSample n k hs
  | .tbase p x => good_execTbase p x hs
  | .tsize p x => good_execTsize p x hs
  | .rplctl v x => good_execRplctl v x hs
  | .hostsig v x => good_execHostsig v x hs
  | .qctl v q x => good_execQctl v q x hs
  | .qtail v q x => good_execQtail v q x hs
  | .launchRegister v q pkt => good_execLaunchRegister v q pkt hs
  | .launch id => good_execLaunch id hs
  | .launchComplete id => good_execLaunchComplete id hs
  | .copy id => good_execCopy id hs
  | .waitmem id => good_execWaitmem id hs
  | .waitmemPoll id => good_execWaitmemPoll id hs
  | .signalmem id => good_execSignalmem id hs
  | .cond id => good_execCond id hs
  | .loop id => good_execLoop id hs
  | .capstart id => good_execCapstart id hs
  | .capstop id => good_execCapstop id hs
  | .replayall id => good_execReplayall id hs
  | .fence id => good_execFence id hs
  | .nopPacket id => good_execNopPacket id hs
  | .partCreate id => good_execPartCreate id hs
  | .resize id => good_execResize id hs
  | .ertWrite id => good_execErtWrite id hs
  | .snapshot id => good_execSnapshot id hs
  | .tokenBucketRefill p => good_execTokenBucketRefill p hs
  | .bonctlEn x => good_execBonctlEn x hs
  | .bonctlFence => good_execBonctlFence hs
  | .linkTraining ok rate mods => good_execLinkTraining ok rate mods hs
  | .linkFailure => good_execLinkFailure hs
  | .guestCompletion id status clk => good_execGuestCompletion id status clk hs
  | .portRefusal id => good_execPortRefusal id hs
  | .coherentRead id va clk => good_execCoherentRead id va clk hs
  | .coherentWrite id va x clk => good_execCoherentWrite id va x clk hs
  | .coherentAtomic id va op x y clk => good_execCoherentAtomic id va op x y clk hs
  | .translationRequest id va => good_execTranslationRequest id va hs
  | .invalidationAck p => good_execInvalidationAck p hs
  | .guestFaultRecord id va => good_execGuestFaultRecord id va hs
  | .preemptAck v x => good_execPreemptAck v x hs
  | .guestDeadline c => good_execGuestDeadline c hs
  | .fencedCompletion id => good_execFencedCompletion id hs
  | .thermalCap d => good_execThermalCap d hs
  | .thermalCapRelease d => good_execThermalCapRelease d hs
  | .thermalReset d => good_execThermalReset d hs
  | .powerMeasurement => good_execPowerMeasurement hs
  | .moduleReset => good_execModuleReset hs
  | .attest x => good_execAttest x hs
  | .recoveryControl x => good_execRecoveryControl x hs
  | .registerWrite v off x => good_execRegisterWrite v off x hs
  | .illegalOnDecode w => good_execIllegalOnDecode w hs
  | .cacheCopyDrop n c => good_execCacheCopyDrop n c hs
  | .turnClassCount n k => good_execTurnClassCount n k hs
  | .readyHistogramCount n => good_execReadyHistogramCount n hs
  | .linkPowerState l1 => good_execLinkPowerState l1 hs
  | .dly n => good_execDly n hs
  | .nop => good_execNop hs
  | .waits sl a ix => good_execWaits sl a ix hs
  | .sinc sl => good_execSinc sl hs
  | .sadd sl a => good_execSadd sl a hs
  | .sset sl a => good_execSset sl a hs
  | .sread d sl => good_execSread d sl hs
  | .spend d sl => good_execSpend d sl hs
  | .j x => good_execJ x hs
  | .jal x => good_execJal x hs
  | .jr a => good_execJr a hs
  | .jalr d a => good_execJalr d a hs
  | .jtab ix a l => good_execJtab ix a l hs
  | .bq h x => good_execBq h x hs
  | .bpush a q => good_execBpush a q hs
  | .bpushP a q => good_execBpushP a q hs
  | .beq a b h x => good_execBeq a b h x hs
  | .bne a b h x => good_execBne a b h x hs
  | .blt a b h x => good_execBlt a b h x hs
  | .bge a b h x => good_execBge a b h x hs
  | .bltn a b h x => good_execBltn a b h x hs
  | .bgen a b h x => good_execBgen a b h x hs
  | .sstop => good_execSstop hs
  | .sjoin => good_execSjoin hs
  | .add d a b => good_execAdd d a b hs
  | .sub d a b => good_execSub d a b hs
  | .mul d a b => good_execMul d a b hs
  | .mulh d a b => good_execMulh d a b hs
  | .mulhn d a b => good_execMulhn d a b hs
  | .div d a b => good_execDiv d a b hs
  | .divn d a b => good_execDivn d a b hs
  | .rem d a b => good_execRem d a b hs
  | .remn d a b => good_execRemn d a b hs
  | .and d a b => good_execAnd d a b hs
  | .or d a b => good_execOr d a b hs
  | .xor d a b => good_execXor d a b hs
  | .shl d a b => good_execShl d a b hs
  | .shr d a b => good_execShr d a b hs
  | .sra d a b => good_execSra d a b hs
  | .slt d a b => good_execSlt d a b hs
  | .sltn d a b => good_execSltn d a b hs
  | .min d a b => good_execMin d a b hs
  | .max d a b => good_execMax d a b hs
  | .minn d a b => good_execMinn d a b hs
  | .maxn d a b => good_execMaxn d a b hs
  | .sel d a b => good_execSel d a b hs
  | .clz d a => good_execClz d a hs
  | .ctz d a => good_execCtz d a hs
  | .popc d a => good_execPopc d a hs
  | .rev d a => good_execRev d a hs
  | .bswap d a => good_execBswap d a hs
  | .sextB d a => good_execSextB d a hs
  | .sextH d a => good_execSextH d a hs
  | .sextW d a => good_execSextW d a hs
  | .zextW d a => good_execZextW d a hs
  | .addi d a ix => good_execAddi d a ix hs
  | .andi d a ix => good_execAndi d a ix hs
  | .ori d a ix => good_execOri d a ix hs
  | .xori d a ix => good_execXori d a ix hs
  | .slti d a ix => good_execSlti d a ix hs
  | .shli d a n => good_execShli d a n hs
  | .shri d a n => good_execShri d a n hs
  | .srai d a n => good_execSrai d a n hs
  | .lih d a ix => good_execLih d a ix hs
  | .addpc d ix => good_execAddpc d ix hs
  | .li d k => good_execLi d k hs
  | .bfx d a l p => good_execBfx d a l p hs
  | .bfxs d a l p => good_execBfxs d a l p hs
  | .bfi d a l p => good_execBfi d a l p hs
  | .bnet d a p => good_execBnet d a p hs
  | .bnld p a => good_execBnld p a hs
  | .fadd d a b => good_execFadd d a b hs
  | .fsub d a b => good_execFsub d a b hs
  | .fmul d a b => good_execFmul d a b hs
  | .fmin d a b => good_execFmin d a b hs
  | .fmax d a b => good_execFmax d a b hs
  | .feq d a b => good_execFeq d a b hs
  | .flt d a b => good_execFlt d a b hs
  | .fle d a b => good_execFle d a b hs
  | .fcvtIF d a => good_execFcvtIF d a hs
  | .fcvtFI d a => good_execFcvtFI d a hs
  | .fmadd d a b => good_execFmadd d a b hs
  | .csrr d c => good_execCsrr d c hs
  | .csrw a c => good_execCsrw a c hs
  | .csrs a c => good_execCsrs a c hs
  | .csrc a c => good_execCsrc a c hs
  | .ecall => good_execEcall hs
  | .ebreak => good_execEbreak hs
  | .tret => good_execTret hs
  | .wfm => good_execWfm hs
  | .halt => good_execHalt hs
  | .fenceI => good_execFenceI hs
  | .ctxsw a => good_execCtxsw a hs
  | .ctxst a b => good_execCtxst a b hs
  | .ctxld a b => good_execCtxld a b hs
  | .rqpush a b => good_execRqpush a b hs
  | .rqpop d => good_execRqpop d hs
  | .rqpark a => good_execRqpark a hs
  | .rqstate d a => good_execRqstate d a hs
  | .tmset a b => good_execTmset a b hs
  | .wlock a b => good_execWlock a b hs
  | .wunlock a => good_execWunlock a hs
  | .msg d a b sl => good_execMsg d a b sl hs
  | .mcfg f k => good_execMcfg f k hs
  | .mcfgr a f => good_execMcfgr a f hs
  | .mfmt a => good_execMfmt a hs
  | .mgo sl w c => good_execMgo sl w c hs
  | .mgrp sl a b => good_execMgrp sl a b hs
  | .mwld sl a b k => good_execMwld sl a b k hs
  | .mzero a => good_execMzero a hs
  | .mrd sl a b => good_execMrd sl a b hs
  | .mresume => good_execMresume hs
  | .mstat d => good_execMstat d hs
  | .cpy sl a => good_execCpy sl a hs
  | .cpyTopk sl a => good_execCpyTopk sl a hs
  | .cpyPack sl a => good_execCpyPack sl a hs
  | .xperm sl a b => good_execXperm sl a b hs
  | .xsend sl a b => good_execXsend sl a b hs
  | .xrcfg a => good_execXrcfg a hs
  | .xrpop d a => good_execXrpop d a hs
  | .xrstat d => good_execXrstat d hs
  | .barArr a => good_execBarArr a hs
  | .barWait sl a => good_execBarWait sl a hs
  | .barSync sl a => good_execBarSync sl a hs
  | .xsum sl a b => good_execXsum sl a b hs
  | .selr sl a => good_execSelr sl a hs
  | .selc sl a => good_execSelc sl a hs
  | .sdecl t a => good_execSdecl t a hs
  | .sweep t sl => good_execSweep t sl hs
  | .swake t a => good_execSwake t a hs
  | .sstat d t => good_execSstat d t hs
  | .rpush l => good_execRpush l hs
  | .rpop l => good_execRpop l hs
  | .mark l => good_execMark l hs
  | .gsub sl a => good_execGsub sl a hs
  | .mmod ix a b => good_execMmod ix a b hs
  | .ldB d a m sl ix => good_execLdB d a m sl ix hs
  | .ldH d a m sl ix => good_execLdH d a m sl ix hs
  | .ldW d a m sl ix => good_execLdW d a m sl ix hs
  | .ldD d a m sl ix => good_execLdD d a m sl ix hs
  | .ldBn d a m sl ix => good_execLdBn d a m sl ix hs
  | .ldHn d a m sl ix => good_execLdHn d a m sl ix hs
  | .ldWn d a m sl ix => good_execLdWn d a m sl ix hs
  | .ldV d a m sl ix => good_execLdV d a m sl ix hs
  | .ldQ a m sl ix => good_execLdQ a m sl ix hs
  | .ldgV d a b p e sl => good_execLdgV d a b p e sl hs
  | .ldgQ a b p e sl => good_execLdgQ a b p e sl hs
  | .ldfe d a m sl ix => good_execLdfe d a m sl ix hs
  | .ldff d a m sl ix => good_execLdff d a m sl ix hs
  | .amoAdd d a b sl z => good_execAmoAdd d a b sl z hs
  | .amoAnd d a b sl z => good_execAmoAnd d a b sl z hs
  | .amoOr d a b sl z => good_execAmoOr d a b sl z hs
  | .amoXor d a b sl z => good_execAmoXor d a b sl z hs
  | .amoMin d a b sl z => good_execAmoMin d a b sl z hs
  | .amoMax d a b sl z => good_execAmoMax d a b sl z hs
  | .amoMinn d a b sl z => good_execAmoMinn d a b sl z hs
  | .amoMaxn d a b sl z => good_execAmoMaxn d a b sl z hs
  | .amoSwap d a b sl z => good_execAmoSwap d a b sl z hs
  | .amoCas d a b sl z => good_execAmoCas d a b sl z hs
  | .amoFadd d a b sl => good_execAmoFadd d a b sl hs
  | .ldblk d a sl l => good_execLdblk d a sl l hs
  | .bfree a => good_execBfree a hs
  | .bstat d a => good_execBstat d a hs
  | .bdrain sl a => good_execBdrain sl a hs
  | .stB d a m sl ix => good_execStB d a m sl ix hs
  | .stH d a m sl ix => good_execStH d a m sl ix hs
  | .stW d a m sl ix => good_execStW d a m sl ix hs
  | .stD d a m sl ix => good_execStD d a m sl ix hs
  | .stV d a m sl ix => good_execStV d a m sl ix hs
  | .stQ a m sl ix => good_execStQ a m sl ix hs
  | .stsV d a b p e sl => good_execStsV d a b p e sl hs
  | .stsQ a b p e sl => good_execStsQ a b p e sl hs
  | .stfe d a m sl ix => good_execStfe d a m sl ix hs
  | .stff d a m sl ix => good_execStff d a m sl ix hs
  | .pub sl a => good_execPub sl a hs
  | .vadd d a b p y => good_execVadd d a b p y hs
  | .vsub d a b p y => good_execVsub d a b p y hs
  | .vmul d a b p y => good_execVmul d a b p y hs
  | .vmulh d a b p y => good_execVmulh d a b p y hs
  | .vand d a b p y => good_execVand d a b p y hs
  | .vor d a b p y => good_execVor d a b p y hs
  | .vxor d a b p y => good_execVxor d a b p y hs
  | .vshl d a b p y => good_execVshl d a b p y hs
  | .vshr d a b p y => good_execVshr d a b p y hs
  | .vsra d a b p y => good_execVsra d a b p y hs
  | .vmin d a b p y => good_execVmin d a b p y hs
  | .vmax d a b p y => good_execVmax d a b p y hs
  | .vabs d a p y => good_execVabs d a p y hs
  | .vneg d a p y => good_execVneg d a p y hs
  | .vadds d a b p y => good_execVadds d a b p y hs
  | .vsubs d a b p y => good_execVsubs d a b p y hs
  | .vmov d a p y => good_execVmov d a p y hs
  | .vsel d a b p y => good_execVsel d a b p y hs
  | .vshuf d a b p y => good_execVshuf d a b p y hs
  | .vslide d a b p y => good_execVslide d a b p y hs
  | .vzip d a b p y => good_execVzip d a b p y hs
  | .vunzip d a b p y => good_execVunzip d a b p y hs
  | .vidx d a p y => good_execVidx d a p y hs
  | .vbcast d a p y => good_execVbcast d a p y hs
  | .vext d a b y => good_execVext d a b y hs
  | .vins d a b y => good_execVins d a b y hs
  | .vnot d a p y => good_execVnot d a p y hs
  | .vclz d a p y => good_execVclz d a p y hs
  | .vpopc d a p y => good_execVpopc d a p y hs
  | .vcmpEq d a b p y => good_execVcmpEq d a b p y hs
  | .vcmpNe d a b p y => good_execVcmpNe d a b p y hs
  | .vcmpLt d a b p y => good_execVcmpLt d a b p y hs
  | .vcmpLe d a b p y => good_execVcmpLe d a b p y hs
  | .vcmpGt d a b p y => good_execVcmpGt d a b p y hs
  | .vcmpGe d a b p y => good_execVcmpGe d a b p y hs
  | .vfadd d a b p y => good_execVfadd d a b p y hs
  | .vfsub d a b p y => good_execVfsub d a b p y hs
  | .vfmul d a b p y => good_execVfmul d a b p y hs
  | .vfmin d a b p y => good_execVfmin d a b p y hs
  | .vfmax d a b p y => good_execVfmax d a b p y hs
  | .vfabs d a p y => good_execVfabs d a p y hs
  | .vfneg d a p y => good_execVfneg d a p y hs
  | .vfeq d a b p y => good_execVfeq d a b p y hs
  | .vflt d a b p y => good_execVflt d a b p y hs
  | .vfle d a b p y => good_execVfle d a b p y hs
  | .vfma d a b p y => good_execVfma d a b p y hs
  | .vfms d a b p y => good_execVfms d a b p y hs
  | .vfnma d a b p y => good_execVfnma d a b p y hs
  | .vfnms d a b p y => good_execVfnms d a b p y hs
  | .vcvt d a p y x => good_execVcvt d a p y x hs
  | .vpackBfp d a w p => good_execVpackBfp d a w p hs
  | .vunpackBfp d a w p => good_execVunpackBfp d a w p hs
  | .vredsum d a p y => good_execVredsum d a p y hs
  | .vfredsum d a p y => good_execVfredsum d a p y hs
  | .vredmax d a p y => good_execVredmax d a p y hs
  | .vredmin d a p y => good_execVredmin d a p y hs
  | .vfredmax d a p y => good_execVfredmax d a p y hs
  | .vfredmin d a p y => good_execVfredmin d a p y hs
  | .vredand d a p y => good_execVredand d a p y hs
  | .vredor d a p y => good_execVredor d a p y hs
  | .pand d a b => good_execPand d a b hs
  | .por d a b => good_execPor d a b hs
  | .pxor d a b => good_execPxor d a b hs
  | .pnot d a => good_execPnot d a hs
  | .pset d => good_execPset d hs
  | .pclr d => good_execPclr d hs
  | .pcount d a => good_execPcount d a hs
  | .pfirst d a => good_execPfirst d a hs
  | .vwhile d ix n y => good_execVwhile d ix n y hs
  | .vwidth d => good_execVwidth d hs
  | .sploop x => good_execSploop x hs
  | .vrot n => good_execVrot n hs
  | .vexp2 d a sl p => good_execVexp2 d a sl p hs
  | .vlog2 d a sl p => good_execVlog2 d a sl p hs
  | .vrcp d a sl p => good_execVrcp d a sl p hs
  | .vrsqrt d a sl p => good_execVrsqrt d a sl p hs
  | .vrand d p => good_execVrand d p hs
  | .vpop d => good_execVpop d hs
  | .vpush a => good_execVpush a hs
  | .vtopk d a l k p y => good_execVtopk d a l k p y hs
  | .vbinpos d a p y => good_execVbinpos d a p y hs
  | .vbinclr => good_execVbinclr hs
  | .vbinrd d a => good_execVbinrd d a hs
  | .vsortkv d a l p y => good_execVsortkv d a l p y hs
  | .vaddi d a p y ix => good_execVaddi d a p y ix hs
  | .vshli d a p y ix => good_execVshli d a p y ix hs
  | .vshri d a p y ix => good_execVshri d a p y ix hs
  | .vsrai d a p y ix => good_execVsrai d a p y ix hs
  | .vli d p y ix => good_execVli d p y ix hs
  | .bpAny a h x => good_execBpAny a h x hs
  | .bpNone a h x => good_execBpNone a h x hs
  | .bpAll a h x => good_execBpAll a h x hs

theorem good_runRow (r : Row) (w : BitVec 32) (k : BitVec 32) {s : State} (hs : Good C s) :
    Next C (runRow r w k s) := by
  unfold runRow
  exact next_ite (good_exec _ hs) (good_exec _ hs)

theorem good_fetch {s : State} (hs : Good C s) : ∀ t, s.fetch = .idle t ∨ s.fetch = .word t → Good C t := by
  unfold State.fetch
  dsimp only
  split
  · rintro t (h | h) <;> cases h
    exact good_modSeq hs ..
  split
  · rintro t (h | h) <;> cases h
    exact hs
  split
  · split <;> rintro t (h | h) <;> cases h
    all_goals exact good_modSeq hs ..
  · rintro t (h | h) <;> cases h
    exact good_raiseAt hs ..

theorem good_stepSlot {s : State} (hs : Good C s) :
    Next C (State.stepSlot s) := by
  unfold State.stepSlot
  refine next_ite ?_ (next_mk hs)
  split
  next h => exact next_mk (good_fetch hs _ (.inl h))
  next h =>
    have ht := good_fetch hs _ (.inr h)
    split
    · exact good_runRow _ _ _ ht
    · exact good_exec _ ht

theorem good_stepBegin {s : State} (hs : Good C s) (n : NibId) (ns : List NibId) :
    Next C (State.stepBegin s n ns) := by
  unfold State.stepBegin
  refine next_ite (next_mk (good_resumeStopped hs ..)) ?_
  split
  next t _ => exact good_exec _ (good_of_eq (t := { s with turn := t }) hs rfl rfl rfl rfl)
  · exact next_mk (good_of_eq hs rfl rfl rfl rfl)

theorem good_stepFinish {s : State} (hs : Good C s) (n : NibId) (ns : List NibId) :
    Next C (State.stepFinish s n ns) := by
  unfold State.stepFinish
  extract_lets i _ t
  have ht : Good C t := good_of_eq hs rfl rfl rfl rfl
  refine next_ite (next_mk (good_closeTurn ht)) ?_
  split
  · exact good_exec _ ht
  · exact next_mk (good_of_eq hs rfl rfl rfl rfl)

theorem good_stepCycle {s : State} (hs : Good C s) :
    Next C (State.stepCycle s) := by
  unfold State.stepCycle
  split
  next h => exact good_exec _ (good_nextEvent hs _ h)
  split
  next h => exact good_exec _ (good_nextMessage hs _ h)
  · exact next_mk (good_of_eq hs rfl rfl rfl rfl)

/-- A step, whatever its phase: what falls due is executed, or the phase moves on. -/
theorem good_step {s : State} (hs : Good C s) : Next C (step s) := by
  unfold step
  split
  · exact good_exec _ hs
  · split
    next h => exact good_exec _ (good_nextEvent hs _ h)
    · exact next_mk (good_of_eq hs rfl rfl rfl rfl)
  · exact good_stepCycle hs
  · exact good_stepBegin hs ..
  next n ns q _ => exact good_stepSlot (good_of_eq (t := s.slot n ns q) hs rfl rfl rfl rfl)
  · exact good_stepFinish hs ..

end

/-! ## The statements -/

theorem after_isSome (n : Nat) (s : State) : (s.after n).isSome = true := by
  induction n generalizing s with
  | zero => rfl
  | succ n ih =>
    obtain ⟨t, h, -⟩ := good_step (C := False) (s := s) ⟨False.elim⟩
    rw [State.after, h]
    exact ih t

/-- Settles O5: each instruction and each step answers `.next`, so that a run never stops. -/
theorem everyStepAnswersNext : Obligations.EveryStepAnswersNext := by
  refine ⟨fun i s => ?_, fun s n => after_isSome n s⟩
  obtain ⟨t, h, -⟩ := good_exec (C := False) i (s := s) ⟨False.elim⟩
  exact ⟨t, h⟩

/-- Settles O6: the step keeps `Good`, taken under the assumption that the state is canonical. -/
theorem stepKeepsMemoryCanonical : Obligations.StepKeepsMemoryCanonical := by
  intro s t c h
  obtain ⟨u, e, g⟩ := good_step (C := s.Canonical) (s := s) ⟨id⟩
  cases h.symm.trans e
  exact g.canonical c

/-- Settles O7: the stores are empty at reset but for the image in flash. -/
theorem resetIsCanonical : Obligations.ResetIsCanonical := by
  have canonical : State.reset.Canonical := ⟨rfl, rfl, rfl, rfl⟩
  obtain ⟨t, h, g⟩ := good_step (C := True) (s := State.reset) ⟨fun _ => canonical⟩
  exact ⟨canonical, t, h, g.canonical trivial⟩

end Sys2Proof.Machine
end

section
/-! SUPPORT. Taking an exception (02_lines.md R40, 12_system.md R313 to R315, 13_debug.md R334): the fields of `tstatus` after a
trap, and what `raiseAt` and `undoReturn` are in each case. -/

namespace Sys2Proof.Machine
open Sys2Proof

/-! ## Bit fields of a CSR -/

theorem testBit_getBits (w : Word) (lo n i : Nat) : (getBits w lo n).testBit i = (decide (i < n) && w.getLsbD (lo + i)) := by
  rw [getBits, Nat.testBit_mod_two_pow, Nat.testBit_div_two_pow, BitVec.getLsbD, Nat.add_comm]

/-- A field reads as it was written. -/
theorem getBits_setBits_same (w : Word) {lo n : Nat} (x : Nat) (fits : lo + n ≤ 64) : getBits (setBits w lo n x) lo n = x % 2 ^ n := by
  refine Nat.eq_of_testBit_eq fun i => ?_
  rw [testBit_getBits, Nat.testBit_mod_two_pow]
  by_cases h : i < n
  · rw [getLsbD_setBits w lo n x (by omega), if_pos (by omega), Nat.add_sub_cancel_left]
  · simp only [h, decide_false, Bool.false_and]

/-- A field written leaves a field beside it as it was. -/
theorem getBits_setBits_ne (w : Word) {lo n lo' n' : Nat} (x : Nat) (fits : lo' + n' ≤ 64) (apart : lo' + n' ≤ lo ∨ lo + n ≤ lo') :
    getBits (setBits w lo n x) lo' n' = getBits w lo' n' := by
  refine Nat.eq_of_testBit_eq fun i => ?_
  rw [testBit_getBits, testBit_getBits]
  by_cases h : i < n'
  · rw [getLsbD_setBits w lo n x (by omega), if_neg (by omega)]
  · simp only [h, decide_false, Bool.false_and]

/-! ## The status that a trap leaves (R313) -/

theorem getBits_trapStatus_pprv (t : Word) (m : Mode) : getBits (trapStatus t m) 4 2 = m.code := by
  rw [trapStatus, getBits_setBits_ne _ _ (by omega) (by omega), getBits_setBits_ne _ _ (by omega) (by omega),
    getBits_setBits_ne _ _ (by omega) (by omega), getBits_setBits_same _ _ (by omega)]
  cases m <;> rfl

theorem getBits_trapStatus_pie (t : Word) (m : Mode) : getBits (trapStatus t m) 1 1 = getBits t 0 1 := by
  rw [trapStatus, getBits_setBits_ne _ _ (by omega) (by omega), getBits_setBits_ne _ _ (by omega) (by omega),
    getBits_setBits_same _ _ (by omega), getBits, Nat.mod_mod]

theorem getBits_trapStatus_ie (t : Word) (m : Mode) : getBits (trapStatus t m) 0 1 = 0 := by
  rw [trapStatus, getBits_setBits_ne _ _ (by omega) (by omega), getBits_setBits_same _ _ (by omega), Nat.zero_mod]

theorem getBits_trapStatus_ts (t : Word) (m : Mode) : getBits (trapStatus t m) 8 1 = 1 := by
  rw [trapStatus, getBits_setBits_same _ _ (by omega), Nat.mod_eq_of_lt (by decide)]

/-! ## Raising an exception (R40, R313, R314, R334) -/

theorem raiseAt_of_trapped {s : State} (h : s.turn.trapped = true) (c : BitVec 8) (v a : Word) : s.raiseAt c v a = s := by
  rw [State.raiseAt, if_pos (by rw [h, Bool.true_or])]

/-- The exception taken: the context enters its handler, and the PCs that the trap saved are kept for the rest of the turn. -/
def State.takeAt (s : State) (cause : BitVec 8) (val at_ : Word) : State :=
  let seqs := s.ctx.seqs.set s.cur.q.idx { s.ctx.seqs[s.cur.q.idx] with pc := at_ }
  { s.modCtx (fun c => c.takeTrap (BitVec.ofNat 64 cause.toNat) val (BitVec.ofNat 64 s.cur.q.idx.val) s.turn.mode seqs) with
    turn := { s.turn with trapped := true, seqs := seqs } }

theorem undoReturn_of_not_tret {s : State} (tret : s.turn.tret = false) : s.undoReturn = s := by
  rw [State.undoReturn, if_neg (by simp [tret])]

section
variable {s : State} (tret : s.turn.tret = true)
include tret

theorem undoReturn_turn : s.undoReturn.turn = { s.turn with tret := false } := by rw [State.undoReturn, if_pos tret]; rfl

theorem undoReturn_ctx : s.undoReturn.ctx = { s.ctx with
    c := { s.ctx.c with mode := s.turn.mode, tstatus := s.turn.status }
    x := { s.ctx.x with sweep := s.ctx.x.sweep.map (fun w => { w with paused := s.turn.paused }) }
    seqs := s.turn.seqs } := by
  rw [State.undoReturn, if_pos tret, State.ctx_turn, State.ctx_modCtx]

end

section
variable {s : State} (trapped : s.turn.trapped = false) (halt : s.turn.halt = none)
include trapped halt

theorem raiseAt_of_inService (mode : s.turn.mode ≠ .d) (service : s.inService = true) (c : BitVec 8) (v a : Word) :
    s.raiseAt c v a = { s with turn := { s.turn with halt := some 4 } } := by
  rw [State.raiseAt, if_neg (by simp [trapped, halt]), if_neg mode, if_pos service]

/-- Outside trap service the exception is taken, once the return of this turn has been undone. -/
theorem raiseAt_of_notInService (mode : s.turn.mode ≠ .d) (service : s.inService = false) (c : BitVec 8) (v a : Word) :
    s.raiseAt c v a = s.undoReturn.takeAt c v a := by
  rw [State.raiseAt, if_neg (by simp [trapped, halt]), if_neg mode, if_neg (by simp [service])]
  rfl

/-- Outside trap service, in a turn without a return, the exception is taken (R313). -/
theorem trapped_raiseAt (mode : s.turn.mode ≠ .d) (tret : s.turn.tret = false) (ts : s.ctx.c.ts = false) (c : BitVec 8) (v a : Word) :
    Trapped s (s.raiseAt c v a) c v a := by
  have service : s.inService = false := by rw [State.inService, if_neg (by simp [tret])]; exact ts
  rw [raiseAt_of_notInService trapped halt mode service, undoReturn_of_not_tret tret, State.takeAt]
  constructor
  all_goals simp only [State.ctx_turn, State.ctx_modCtx, Ctx.takeTrap]
  case tpc =>
    intro q
    by_cases h : q = s.cur.q
    · subst h; simp [pcField]
    · simp [pcField, h, Vector.getElem_set_ne _ _ (Seq.idx_ne h)]
  case pprv => exact getBits_trapStatus_pprv ..
  case pie => exact getBits_trapStatus_pie ..
  case ie => exact getBits_trapStatus_ie ..
  case ts => exact decide_eq_true (getBits_trapStatus_ts ..)
  case start =>
    intro q
    simp only [Fin.getElem_fin, Vector.getElem_map]
    exact ⟨rfl, rfl⟩
  case landed => rfl
  case regs => rfl
  case mem => rfl
  case rest => rfl

end

/-- The exception of the turn of a return is taken as if S had not returned (R314, R315). -/
theorem raiseAt_undoReturn {s : State} (trapped : s.turn.trapped = false) (halt : s.turn.halt = none) (mode : s.turn.mode ≠ .d)
    (tret : s.turn.tret = true) (ts : getBits s.turn.status 8 1 = 0) (c : BitVec 8) (v a : Word) :
    s.raiseAt c v a = s.undoReturn.raiseAt c v a := by
  have undone := undoReturn_turn tret
  have service : s.inService = false := by simp [State.inService, tret, ts]
  have service' : s.undoReturn.inService = false := by simp [State.inService, undone, undoReturn_ctx tret, ts]
  rw [raiseAt_of_notInService trapped halt mode service, raiseAt_of_notInService (by rw [undone]; exact trapped)
    (by rw [undone]; exact halt) (by rw [undone]; exact mode) service',
    undoReturn_of_not_tret (s := s.undoReturn) (by rw [undone])]

/-! ## The statement -/

theorem exceptionIsTaken : Claims.ExceptionIsTaken :=
  fun _ cause val at_ trapped tret halt mode ts => trapped_raiseAt trapped halt mode tret ts cause val at_

theorem illegalWordTraps : Claims.IllegalWordTraps :=
  fun _ _ trapped tret halt mode ts => ⟨_, rfl, trapped_raiseAt trapped halt mode tret ts _ _ _⟩

theorem laterAndNestedExceptions : Claims.LaterAndNestedExceptions := by
  intro s cause val at_
  refine ⟨fun trapped => raiseAt_of_trapped trapped .., fun trapped halt mode tret ts => ?_, fun trapped halt mode tret status => ?_,
    fun trapped halt mode tret status => ?_, fun trapped halt mode => ?_⟩
  · exact raiseAt_of_inService trapped halt mode (by rw [State.inService, if_neg (by simp [tret])]; exact ts) ..
  · exact raiseAt_of_inService trapped halt mode (by simpa [State.inService, tret] using status) ..
  · have undone := undoReturn_turn tret
    have ctx := undoReturn_ctx tret
    refine ⟨s.undoReturn, ?_, by rw [ctx], by rw [ctx], by rw [ctx], by rw [ctx], by simp, by rw [undone]⟩
    rw [raiseAt_undoReturn trapped halt mode tret status]
    exact trapped_raiseAt (by rw [undone]; exact trapped) (by rw [undone]; exact halt) (by rw [undone]; exact mode)
      (by rw [undone]) (decide_eq_false (by rw [ctx, status]; decide)) ..
  · have stops : s.raiseAt cause val at_ = ({ s with turn := { s.turn with halt := some 7 } } : State).modStroke s.cur.nib s.cur.k (fun x =>
        { x with dbg := { x.dbg with keptPc := x.dbg.keptPc.set 0 (setBits x.dbg.keptPc[0] 0 8 cause.toNat) } }) := by
      rw [State.raiseAt, if_neg (by simp [trapped, halt]), if_pos mode]
    rw [stops]
    refine ⟨rfl, ?_, rfl, ?_⟩
    · simp [State.ctx, State.cst]; rfl
    · simp only [State.cst, State.modStroke_cur, State.stroke_modStroke_same]
      exact (congrArg (getBits · 0 8) (Vector.getElem_set_self ..)).trans
        ((getBits_setBits_same _ _ (by omega)).trans (Nat.mod_eq_of_lt cause.isLt))

/-- Settles O9: an exception is a change of the context that the fields of `Trapped` read off, or a note to stop the stroke. -/
theorem trapsAreTaken : Obligations.TrapsAreTaken := ⟨exceptionIsTaken, illegalWordTraps, laterAndNestedExceptions⟩

end Sys2Proof.Machine
end

section
/-! SUPPORT. The checks that come before an instruction's effect (02_lines.md R28 to R30, R36, R39, R61, R62): pending registers,
the line of a word, and the target of a transfer. -/

namespace Sys2Proof.Machine

open Sys2Proof

/-! ## Pending registers -/

/-- What the search for a first element finds, from a list cut at that element. -/
theorem find?_cut {α : Type} {p : α → Bool} {pre post : List α} {x : α} (hpre : ∀ y ∈ pre, p y = false) (hx : p x = true) :
    (pre ++ x :: post).find? p = some x := by
  have none_before : pre.find? p = none := List.find?_eq_none.mpr fun y hy => by simp [hpre y hy]
  rw [List.find?_append, none_before, Option.none_or, List.find?_cons_of_pos hx]

section
variable {s : State} {srcs dsts : List RegRef} {long : Bool} {body : State → State}

/-- R62's condition on a destination, as `regTrap` tests it. -/
def Ctx.dstBlocks (c : Ctx) (tn : Nat) (long : Bool) (x : RegRef) : Bool :=
  c.r.pending x || (long && x != .g 0 && x != .p 0 && c.inFlight tn x)

theorem inFlight_iff (c : Ctx) (tn : Nat) (x : RegRef) :
    c.inFlight tn x = true ↔ (∃ l ∈ c.inflight, ∃ w, l.eff = .reg w ∧ w.ref = x ∧ l.issued < tn) ∨
      (c.resumed ≠ none ∧ ∃ w ∈ c.lateWrites, w.reg.ref = x) := by
  have one (l : Landing) : (match l.eff with | .reg w => w.ref == x && decide (l.issued < tn) | _ => false) = true ↔
      ∃ w, l.eff = .reg w ∧ w.ref = x ∧ l.issued < tn := by
    cases l.eff <;> simp
  rw [Ctx.inFlight, Bool.or_eq_true]
  refine or_congr (List.any_eq_true.trans (exists_congr fun l => and_congr_right fun _ => one l)) ?_
  simp [Option.isSome_iff_ne_none]

theorem dstBlocks_iff (c : Ctx) (tn : Nat) (long : Bool) (x : RegRef) :
    c.dstBlocks tn long x = true ↔ c.r.pending x = true ∨ (long = true ∧ x ≠ .g 0 ∧ x ≠ .p 0 ∧
      ((∃ l ∈ c.inflight, ∃ w, l.eff = .reg w ∧ w.ref = x ∧ l.issued < tn) ∨
        (c.resumed ≠ none ∧ ∃ w ∈ c.lateWrites, w.reg.ref = x))) := by
  rw [← inFlight_iff, Ctx.dstBlocks]
  simp only [Bool.or_eq_true, Bool.and_eq_true, bne_iff_ne, and_assoc]

theorem guarded_of_pending_source {x : RegRef} (found : srcs.find? s.ctx.r.pending = some x) :
    s.guarded srcs dsts long body = .next (s.raise 0x0B x.tval) := by
  simp only [State.guarded, Ctx.regTrap, found, causeUWREAD]

theorem guarded_of_blocked_destination {x : RegRef} (none_pending : srcs.find? s.ctx.r.pending = none)
    (found : dsts.find? (s.ctx.dstBlocks s.tn long) = some x) :
    s.guarded srcs dsts long body = .next (s.raise 0x0C x.tval) := by
  change dsts.find? (fun x => s.ctx.r.pending x || (long && x != .g 0 && x != .p 0 && s.ctx.inFlight s.tn x)) = _ at found
  simp only [State.guarded, Ctx.regTrap, none_pending, found, causePENDWRITE]

end

theorem pendingRegistersTrap : Claims.PendingRegistersTrap := by
  intro s srcs dsts long body flies blocks
  have find_none (h : ∀ y ∈ srcs, s.ctx.r.pending y = false) : srcs.find? s.ctx.r.pending = none :=
    List.find?_eq_none.mpr fun y hy => by simp [h y hy]
  have blocks_iff (x : RegRef) : s.ctx.dstBlocks s.tn long x = true ↔ blocks x := dstBlocks_iff _ _ _ x
  have not_blocks {x : RegRef} (h : ¬ blocks x) : s.ctx.dstBlocks s.tn long x = false := by rwa [← blocks_iff, Bool.not_eq_true] at h
  refine ⟨fun pre x post cut before pending => ?_, fun pre x post none_pending cut before blocked => ?_, fun none_pending free => ?_⟩
  · exact guarded_of_pending_source (cut ▸ find?_cut before pending)
  · exact guarded_of_blocked_destination (find_none none_pending)
      (cut ▸ find?_cut (fun y hy => not_blocks (before y hy)) ((blocks_iff x).mpr blocked))
  · refine guarded_of_clear ⟨none_pending, fun x hx => ?_⟩ body
    have h := not_blocks (free x hx)
    simp only [Ctx.dstBlocks, Bool.or_eq_false_iff] at h
    refine ⟨h.1, fun l g p => ?_⟩
    simpa [l, g, p] using h.2

/-! ## The line of a word -/

/-- The first of the words 1 to 7 for which a test holds. -/
theorem firstWord_of_first {f : Nat → Bool} {k : Nat} (lo : 1 ≤ k) (hi : k ≤ 7) (hk : f k = true)
    (before : ∀ j, 1 ≤ j → j < k → f j = false) : firstWord f = some k := by
  have cut : [1, 2, 3, 4, 5, 6, 7] = List.range' 1 (k - 1) ++ k :: List.range' (k + 1) (7 - k) := by
    interval_cases k <;> rfl
  rw [firstWord, cut, find?_cut (fun j hj => ?_) hk]
  obtain ⟨a, b⟩ := List.mem_range'_1.mp hj
  exact before j a (by omega)

theorem firstWord_eq_none {f : Nat → Bool} (h : ∀ j, 1 ≤ j → j ≤ 7 → f j = false) : firstWord f = none :=
  List.find?_eq_none.mpr fun j hj => by
    have range : 1 ≤ j ∧ j ≤ 7 := by simp at hj; omega
    simp [h j range.1 range.2]

theorem isLong_iff (q : Seq) (w : BitVec 32) :
    isLong q w = true ↔ q ≠ .x ∧ w.toNat / 2 ^ 26 = 0x19 ∨ q = .s ∧ w.toNat / 2 ^ 26 = 0x28 := by
  have major : fld w 26 6 = w.toNat / 2 ^ 26 := Nat.mod_eq_of_lt (by have := w.isLt; omega)
  simp [isLong, major]

theorem longTag_iff (t : Nat) (w : BitVec 32) :
    longTag t w = true ↔ (t = 1 ∨ t = 2 ∨ t = 4) ∧ w.toNat / 2 ^ 26 = 0x19 ∨ t = 1 ∧ w.toNat / 2 ^ 26 = 0x28 := by
  simp only [longTag, Bool.or_eq_true, Bool.and_eq_true, beq_iff_eq, isLong_iff]
  simp
  omega

section
variable {rd : Nat → BitVec 32} {l : Nat}

/-- Word k is a K word that follows no long instruction's first word (R30), as `lineCheck` tests it. -/
def strayWord (rd : Nat → BitVec 32) (l k : Nat) : Bool :=
  tagOf (rd l) k == 5 && (k == 1 || !longTag (tagOf (rd l) (k - 1)) (rd (l + 4 * (k - 1))))

/-- Word k is a long instruction's first word that no K word follows (R30), as `lineCheck` tests it. -/
def cutWord (rd : Nat → BitVec 32) (l k : Nat) : Bool :=
  longTag (tagOf (rd l) k) (rd (l + 4 * k)) && (k == 7 || tagOf (rd l) (k + 1) != 5)

/-- The checks of a line of this version, one after another. -/
theorem lineCheck_of_version (version : (rd l).toNat % 16 = 1) : lineCheck rd l =
    match firstWord (fun k => 6 ≤ tagOf (rd l) k) with
    | some k => some (0x0A, l + 4 * k)
    | none =>
      match firstWord (strayWord rd l) with
      | some k => some (0x02, l + 4 * k)
      | none =>
        match firstWord (cutWord rd l) with
        | some k => some (0x02, l + 4 * k)
        | none => none := by
  simp only [lineCheck, if_neg (not_not.mpr version)]; rfl

end

theorem lineChecks : Claims.LineChecks := by
  intro rd l tag long stray cut
  have long_iff (k : Nat) : longTag (tagOf (rd l) k) (rd (l + 4 * k)) = true ↔ long k := longTag_iff _ _
  have stray_iff {k : Nat} (lo : 1 ≤ k) (hi : k ≤ 7) : strayWord rd l k = true ↔ stray k := by
    simp only [strayWord, Bool.and_eq_true, Bool.or_eq_true, beq_iff_eq, Bool.not_eq_true', ← Bool.not_eq_true, long_iff]
    exact ⟨fun h => ⟨lo, hi, h⟩, fun h => h.2.2⟩
  have cut_iff {k : Nat} (lo : 1 ≤ k) (hi : k ≤ 7) : cutWord rd l k = true ↔ cut k := by
    simp only [cutWord, Bool.and_eq_true, Bool.or_eq_true, beq_iff_eq, bne_iff_ne, long_iff]
    exact ⟨fun h => ⟨lo, hi, h⟩, fun h => h.2.2⟩
  refine ⟨fun version => ?_, fun version k lo hi => ?_⟩
  · simp only [lineCheck, if_pos version, causeILLINE]
  rw [lineCheck_of_version version]
  refine ⟨fun reserved before => ?_, fun tags => ?_⟩
  · have here : decide (6 ≤ tagOf (rd l) k) = true := decide_eq_true reserved
    rw [firstWord_of_first (f := fun k => decide (6 ≤ tagOf (rd l) k)) lo hi here
      (fun j a b => decide_eq_false (Nat.not_le.mpr (before j a b)))]
  rw [firstWord_eq_none (f := fun k => decide (6 ≤ tagOf (rd l) k)) (fun j a b => decide_eq_false (Nat.not_le.mpr (tags j a b)))]
  refine ⟨fun here before => ?_, fun placed => ?_⟩
  · rw [firstWord_of_first lo hi ((stray_iff lo hi).mpr here)
      (fun j a b => Bool.eq_false_iff.mpr fun h => before j b ((stray_iff a (by omega)).mp h))]
  rw [firstWord_eq_none (fun j a b => Bool.eq_false_iff.mpr fun h => placed j ((stray_iff a b).mp h))]
  refine ⟨fun here before => ?_, fun whole => ?_⟩
  · rw [firstWord_of_first lo hi ((cut_iff lo hi).mpr here)
      (fun j a b => Bool.eq_false_iff.mpr fun h => before j b ((cut_iff a (by omega)).mp h))]
  · rw [firstWord_eq_none (fun j a b => Bool.eq_false_iff.mpr fun h => whole j ((cut_iff a b).mp h))]

/-! ## The target of a transfer -/

theorem pred_eq_zero_iff (x : Pred) : (x == 0) = true ↔ ∀ i < 128, x.getLsbD i = false := by
  rw [beq_iff_eq]
  exact ⟨fun h i _ => by simp [h], fun h => BitVec.eq_of_getLsbD_eq fun i hi => by simp [h i hi]⟩

theorem pred_ne_zero_iff (x : Pred) : (x != 0) = true ↔ ∃ i < 128, x.getLsbD i = true := by
  rw [bne, Bool.not_eq_true', ← Bool.not_eq_true, pred_eq_zero_iff]
  simp

theorem pred_eq_allOnes_iff (x : Pred) : (x == BitVec.allOnes 128) = true ↔ ∀ i < 128, x.getLsbD i = true := by
  rw [beq_iff_eq]
  exact ⟨fun h i hi => by rw [h, BitVec.getLsbD_allOnes, decide_eq_true hi],
    fun h => BitVec.eq_of_getLsbD_eq fun i hi => by rw [h i hi, BitVec.getLsbD_allOnes, decide_eq_true hi]⟩

theorem mul_four_eq_ofNat (x : Word) : x * 4 = BitVec.ofNat 64 (4 * x.toNat) := by
  apply BitVec.eq_of_toNat_eq
  rw [BitVec.toNat_mul, BitVec.toNat_ofNat, Nat.mul_comm]; rfl

/-- The two ways to say that a read meets the records of the context cache (R320). -/
theorem hidesRecords_eq (s : State) (off : Nat) {n : Nat} (_some : 0 < n) : s.hidesRecords off n = s.recordsShut off n := by
  have reach : decide (0x4C000 ≤ off + n - 1) = decide (0x4C000 < off + n) := decide_eq_decide.mpr (by omega)
  rw [State.hidesRecords, State.inRecords, State.recordsShut, State.cnib, reach, Bool.and_assoc]; rfl

section
variable {s : State} {t : Word} {c : BitVec 8} {v : Word}

theorem targetTrap_of_bad (h : s.BadTarget t c v) : s.targetTrap t = some (c, v) := by
  rcases h with ⟨beyond, rfl, rfl⟩ | ⟨inside, ⟨odd, rfl, rfl⟩ | ⟨aligned, ⟨w, bad, rfl⟩ | ⟨good, word, rfl, rfl⟩⟩⟩
  · rw [State.targetTrap, if_pos beyond]; rfl
  all_goals rw [State.targetTrap, if_neg (Nat.not_le.mpr inside)]
  · rw [if_pos odd]; rfl
  all_goals rw [if_neg (not_not.mpr aligned)]
  · simp only [bad]
  · have test : v.toNat % 32 / 4 = 0 ∨ tagOf (s.code (v.toNat / 32 * 32)) (v.toNat % 32 / 4) ≠ seqTag s.cur.q :=
      word.imp (fun (h : v.toNat % 32 = 0) => by omega) id
    simp only [good, if_pos test]; rfl

/-- A taken transfer with a bad target raises the exception of the target, and does nothing else. -/
theorem transfer_of_bad (h : s.BadTarget t c v) (lost : Nat) (link : State → State) : s.transfer t lost link = s.raise c v := by
  simp only [State.transfer, targetTrap_of_bad h]

theorem taken_of_bad (h : s.BadTarget t c v) (hint : Fin 4) : s.branch hint true t = s.raise c v := transfer_of_bad h _ _

/-- A compare-and-branch whose condition holds, with a bad target. -/
theorem compareBranch_of_bad {i : Instr} {a b : Fin 32} {hint : Fin 4} {x : BitVec 14} {f : Word → Word → Bool}
    (clear : s.Clear [.g a, .g b] [] false) (bad : s.BadTarget (s.pc + BitVec.ofInt 64 (4 * x.toInt)) c v)
    (e : exec i s = s.compareBranch a b hint x f) (holds : f (s.rg a) (s.rg b) = true) : exec i s = .next (s.raise c v) := by
  rw [e, State.compareBranch, guarded_of_clear clear, holds, relTarget_eq_ofInt, taken_of_bad bad]

/-- A branch on a predicate whose condition holds, with a bad target. -/
theorem predBranch_of_bad {i : Instr} {p : Fin 8} {hint : Fin 4} {x : BitVec 14} {f : Pred → Bool}
    (clear : s.Clear [.p p] [] false) (bad : s.BadTarget (s.pc + BitVec.ofInt 64 (4 * x.toInt)) c v)
    (e : exec i s = s.predBranch p hint x f) (holds : f (s.rp p) = true) : exec i s = .next (s.raise c v) := by
  rw [e, State.predBranch, guarded_of_clear clear, holds, relTarget_eq_ofInt, taken_of_bad bad]

end

theorem badTargetsTrap : Claims.BadTargetsTrap := by
  intro s c v
  have free : s.Clear [] [] false := ⟨by simp, by simp⟩
  refine ⟨fun x bad => ⟨?_, fun clear => ?_, fun h e r head bit => ?_⟩, fun d a bad => ⟨fun clear => ?_, fun clear => ?_⟩,
    fun a b h x bad clear => ?_, fun p h x bad clear => ?_, fun i a l ea clear inside at_ window aligned shown free bad => ?_,
    fun x bad clear counts => ?_⟩
  · change execJ x s = _
    rw [execJ, guarded_of_clear free, relTarget_eq_ofInt, transfer_of_bad bad]
  · change execJal x s = _
    rw [execJal, guarded_of_clear clear, relTarget_eq_ofInt, transfer_of_bad bad]
  · change execBq h x s = _
    rw [execBq, guarded_of_clear free]
    simp only [head, bit, if_true, relTarget_eq_ofInt, transfer_of_bad bad]
  · change execJr a s = _
    rw [execJr, guarded_of_clear clear, transfer_of_bad bad]
  · change execJalr d a s = _
    rw [execJalr, guarded_of_clear clear, transfer_of_bad bad]
  · exact ⟨fun q => compareBranch_of_bad clear bad rfl (by simpa using q),
      fun q => compareBranch_of_bad clear bad rfl (by simpa using q),
      fun q => compareBranch_of_bad clear bad rfl (by simpa [BitVec.slt] using q),
      fun q => compareBranch_of_bad (f := fun p q => !p.slt q) clear bad rfl (by simpa [BitVec.slt] using q),
      fun q => compareBranch_of_bad clear bad rfl (by simpa [BitVec.ult] using q),
      fun q => compareBranch_of_bad (f := fun p q => !p.ult q) clear bad rfl (by simpa [BitVec.ult] using q)⟩
  · exact ⟨fun q => predBranch_of_bad (f := fun p => p != 0) clear bad rfl ((pred_ne_zero_iff _).mpr q),
      fun q => predBranch_of_bad (f := fun p => p == 0) clear bad rfl ((pred_eq_zero_iff _).mpr q),
      fun q => predBranch_of_bad (f := fun p => p == BitVec.allOnes 128) clear bad rfl ((pred_eq_allOnes_iff _).mpr q)⟩
  · have entry : ea = s.rg a + BitVec.ofNat 64 (4 * (s.rg i).toNat) := at_.trans (congrArg (s.rg a + ·) (mul_four_eq_ofNat _))
    change execJtab i a l s = _
    rw [execJtab, guarded_of_clear clear]
    simp only [← entry]
    rw [if_neg (Nat.not_le.mpr inside), if_neg (Nat.not_lt.mpr window), if_neg (not_not.mpr aligned),
      hidesRecords_eq s _ (by decide), if_neg (by simp [shown]), if_neg (by simp [free]), transfer_of_bad (by exact bad)]
  · change execSploop x s = _
    rw [execSploop, guarded_of_clear clear]
    rw [← relTarget_eq_ofInt] at bad
    dsimp only
    split
    · rw [transfer_of_bad bad]
    · rw [if_pos (counts.resolve_left ‹_›), transfer_of_bad bad]

/-- Settles O10: each check is the first of a search, and a list cut at its first failure gives the cause. -/
theorem operandAndTargetChecks : Obligations.OperandAndTargetChecks := ⟨pendingRegistersTrap, lineChecks, badTargetsTrap⟩

end Sys2Proof.Machine
end

section
/-! SUPPORT. Control transfers (02_lines.md R36 to R38, 05_control.md R119 to R127). -/

namespace Sys2Proof.Machine

open Sys2Proof

theorem clear_nothing (s : State) (long : Bool) : s.Clear [] [] long := ⟨by simp, by simp⟩

theorem jumpsReachTheirTargets : Claims.JumpsReachTheirTargets := by
  intro s d a x
  rw [← relTarget_eq_ofInt]
  refine ⟨fun good => ⟨?_, fun clear => ?_⟩, fun good => ⟨fun clear => ?_, fun clear => ?_⟩⟩
  · have run := show exec (.j x) s = execJ x s from rfl
    rw [execJ, guarded_of_clear (clear_nothing s false)] at run
    exact issuesTo_transfer (link := id) good rfl run
  · have run := show exec (.jal x) s = execJal x s from rfl
    rw [execJal, guarded_of_clear clear] at run
    exact issuesTo_transfer good (s.landG_eq 1 1 s.linkAddr) run
  · have run := show exec (.jr a) s = execJr a s from rfl
    rw [execJr, guarded_of_clear clear] at run
    exact issuesTo_transfer (link := id) good rfl run
  · have run := show exec (.jalr d a) s = execJalr d a s from rfl
    rw [execJalr, guarded_of_clear clear] at run
    exact issuesTo_transfer good (s.landG_eq 1 d s.linkAddr) run

/-- A conditional branch is taken when its condition holds, and else falls through. -/
theorem issuesTo_branch {i : Instr} {s : State} {b : Bool} {c : Prop} {h : Fin 4} {t : Word}
    (e : exec i s = .next (s.branch h b t)) (cond : b = true ↔ c) :
    (c → s.GoodTarget t → IssuesTo i s [] (placeAt t) (if h = 1 then 0 else 1)) ∧
    (¬ c → IssuesTo i s [] s.nextFound (if h = 1 then 1 else 0)) := by
  refine ⟨fun holds good => issuesTo_taken good ?_, fun fails => issuesTo_untaken (t := t) ?_⟩
  · rw [e, cond.mpr holds]
  · rw [e, Bool.eq_false_iff.mpr (fails ∘ cond.mp)]

theorem branchesFollowTheirConditions : Claims.BranchesFollowTheirConditions := by
  intro s a b p h x t target
  rw [← relTarget_eq_ofInt] at target
  subst target
  refine ⟨fun clear => ?_, fun clear => ?_⟩
  · have follow {i : Instr} {f : Word → Word → Bool} {c : Prop} (e : exec i s = s.compareBranch a b h x f)
        (cond : f (s.rg a) (s.rg b) = true ↔ c) := issuesTo_branch (e.trans (guarded_of_clear clear _)) cond
    simp only [List.forall_mem_cons, List.not_mem_nil, false_implies, implies_true, and_true]
    exact ⟨follow (f := fun p q => p == q) rfl (by simp), follow (f := fun p q => p != q) rfl (by simp),
      follow (f := BitVec.slt) rfl (by simp [BitVec.slt]), follow (f := fun p q => !p.slt q) rfl (by simp [BitVec.slt]),
      follow (f := BitVec.ult) rfl (by simp [BitVec.ult]), follow (f := fun p q => !p.ult q) rfl (by simp [BitVec.ult])⟩
  · have follow {i : Instr} {f : Pred → Bool} {c : Prop} (e : exec i s = s.predBranch p h x f)
        (cond : f (s.rp p) = true ↔ c) := issuesTo_branch (e.trans (guarded_of_clear clear _)) cond
    simp only [List.forall_mem_cons, List.not_mem_nil, false_implies, implies_true, and_true]
    exact ⟨follow (f := fun p => p != 0) rfl (pred_ne_zero_iff _), follow (f := fun p => p == 0) rfl (pred_eq_zero_iff _),
      follow (f := fun p => p == BitVec.allOnes 128) rfl (pred_eq_allOnes_iff _)⟩

theorem jumpTableReads : Claims.JumpTableReads := by
  intro s i a l ea t clear
  have run := show exec (.jtab i a l) s = execJtab i a l s from rfl
  rw [execJtab, guarded_of_clear clear] at run
  refine ⟨fun beyond => ?_, fun inside entry => ?_⟩
  · exact issuesTo_fallThrough (run.trans (congrArg _ (if_pos beyond)))
  have entry : s.rg a + BitVec.ofNat 64 (4 * (s.rg i).toNat) = ea := by rw [entry, mul_four_eq_ofNat]
  simp only [if_neg (Nat.not_le.mpr inside), entry, hidesRecords_eq s _ (show 0 < 4 by decide)] at run
  refine ⟨fun far => ?_, fun near odd => ?_, fun near word hidden => ?_, fun near word shown locked => ?_,
    fun near word shown free target good => ?_⟩
  · rw [run, if_pos far]; rfl
  all_goals rw [if_neg (Nat.not_lt.mpr near)] at run
  · rw [run, if_pos odd]; rfl
  all_goals rw [if_neg (not_not.mpr word)] at run
  · rw [run, if_pos hidden]; rfl
  all_goals rw [if_neg (by simp [shown])] at run
  · rw [run, if_pos locked]
  · rw [if_neg (by simp [free])] at run
    refine ⟨_, run, ?_⟩
    have same : s.pc + sx 32 (s.wellRead ea.toNat 4) * 4 = t := target.symm
    rw [same, transfer_of_good good]
    exact issuedTo_goTo _ [] _ 1

/-- A push to an outcome queue, once the instruction's register is clear (R125). -/
theorem issues_pushOutcome {i : Instr} {s : State} {q : Fin 4} {b : Bool} (e : exec i s = .next (s.pushOutcome q b)) :
    (s.oqCount (Seq.ofIdx q) < 16 → Issues i s [(1, .oqPush (Seq.ofIdx q) b s.lc)]) ∧
    (16 ≤ s.oqCount (Seq.ofIdx q) → exec i s = .next s.waitMsg) := by
  refine ⟨fun room => ⟨_, e, ?_⟩, fun full => ?_⟩
  · rw [State.pushOutcome, if_neg (Nat.not_le.mpr room)]
    exact issued_retire s [(1, .oqPush (Seq.ofIdx q) b s.lc)]
  · rw [e, State.pushOutcome, if_pos full]

theorem bne_eq_decide_ne {n : Nat} (x : BitVec n) : (x != 0) = decide (x ≠ 0) := by
  rw [Bool.eq_iff_iff]; simp

/-- Sequential flow depends on the code, `xob` and the sequencer's PC alone. -/
theorem nextFound_of_sameBut {s t : State} (h : SameBut s t) (pc : (t.seqSt s.cur.q).pc = (s.seqSt s.cur.q).pc) :
    t.nextFound = s.nextFound := by
  have same_pc : t.pc = s.pc := by rw [State.pc, h.cur_eq, pc]; rfl
  have code : t.code = s.code := by funext a; simp only [State.code, State.wellWord, h.mem_eq, h.cur_eq]
  have xob : t.ctx.c.xob = s.ctx.c.xob := by
    have e := congrArg Csrs.xob h.csrs
    exact e
  simp only [State.nextFound, State.word, same_pc, code, xob, h.cur_eq]
  rfl

theorem nextFound_setLc (s : State) (x : Clk) : (s.setLc x).nextFound = s.nextFound :=
  nextFound_of_sameBut (sameBut_modSeq s _) (by rw [State.setLc, seqSt_modSeq])

/-- An effect sent on its way and the clock of the sequencer do not touch one another. -/
theorem setLc_land (s : State) (lat : Nat) (e : Eff) (x : Clk) : (s.land lat e).setLc x = (s.setLc x).land lat e := by
  let sent : Ctx → Ctx := fun c => { c with inflight := c.inflight ++ [⟨s.tn + lat, s.tn, s.cur.q, e⟩] }
  let clock : SeqSt → SeqSt := fun q => { q with lc := x }
  have land (u : State) (cycle : u.cycle = s.cycle) (cur : u.cur = s.cur) : u.land lat e = u.modCtx sent := by
    rw [State.land, State.tn, cycle, cur]; rfl
  rw [State.setLc, State.setLc, land s rfl rfl, land _ (State.modSeq_cycle ..) (State.modSeq_cur ..)]
  change (s.modCtx sent).modSeq s.cur.q clock = (s.modSeq s.cur.q clock).modCtx sent
  have turn : (s.modCtx sent).turn = s.turn := rfl
  rw [State.modSeq, State.modSeq, turn]
  split
  · let t : State := { s with turn := { s.turn with seqs := s.turn.seqs.set s.cur.q.idx (clock s.turn.seqs[s.cur.q.idx]) } }
    let save : Ctx → Ctx := fun c =>
      { c with c := { c.c with tpc := c.c.tpc.set s.cur.q.idx (pcField (clock s.turn.seqs[s.cur.q.idx]).pc) } }
    change (t.modCtx sent).modCtx save = (t.modCtx save).modCtx sent
    rw [State.modCtx_modCtx, State.modCtx_modCtx]
  · split
    · rfl
    · rw [State.modCtx_modCtx, State.modCtx_modCtx]

theorem outcomeQueuesPassBits : Claims.OutcomeQueuesPassBits := by
  intro s a p q h x t target
  rw [← relTarget_eq_ofInt] at target
  subst target
  have run := show exec (.bq h x) s = execBq h x s from rfl
  rw [execBq, guarded_of_clear (clear_nothing s false)] at run
  refine ⟨fun clear => ?_, fun clear => ?_, fun empty => ?_, fun e r head => ⟨fun bit good => ?_, fun bit => ?_⟩⟩
  · have run := show exec (.bpush a q) s = execBpush a q s from rfl
    rw [execBpush, guarded_of_clear clear] at run
    rw [← bne_eq_decide_ne]
    exact issues_pushOutcome run
  · have run := show exec (.bpushP p q) s = execBpushP p q s from rfl
    rw [execBpushP, guarded_of_clear clear] at run
    rw [← bne_eq_decide_ne]
    exact issues_pushOutcome run
  · simp only [run, empty]
  all_goals simp only [head, bit, if_true, Bool.false_eq_true, if_false] at run; refine ⟨_, run, ?_⟩
  · rw [transfer_of_good good, setLc_land]
    exact issuedTo_goTo (s.setLc (Clk.max s.lc e.clk)) [(1, .oqPop s.cur.q)] _ _
  · rw [setLc_land, State.fallThrough, ← nextFound_setLc s (Clk.max s.lc e.clk),
      ← nextFound_lands (s.setLc (Clk.max s.lc e.clk)) [(1, .oqPop s.cur.q)]]
    exact issuedTo_goTo (s.setLc (Clk.max s.lc e.clk)) [(1, .oqPop s.cur.q)] _ _

/-- Settles O15: a target that passes its checks leaves the place of the target, and a fall-through that of sequential flow. -/
theorem controlTransfers : Obligations.ControlTransfers :=
  ⟨jumpsReachTheirTargets, branchesFollowTheirConditions, jumpTableReads, outcomeQueuesPassBits⟩

end Sys2Proof.Machine
end

section
/-! SUPPORT. An `sjoin` that keeps a fault, in the turn of a `tret` (02_lines.md R40, 05_control.md R134): the sequencers' state
of such a turn is kept in the turn's own record, so that clearing the fault changes that record. -/

namespace Sys2Proof.Machine

open Sys2Proof

/-- A turn in which S has returned from a trap, and the sequencer that issues keeps a fault of R40. -/
def State.returnedWithFault : State :=
  { State.reset with turn := { State.reset.turn with
      tret := true, trapped := false, halt := none, seqs := Vector.replicate 4 { State.reset.seqSt .s with fault := true } } }

/-- Refutes O16: in the turn of a `tret`, the fault that an `sjoin` gives up stands in the turn's record, which the statement
says is as it was. -/
theorem not_delaysAndStreamEnds : ¬ Obligations.DelaysAndStreamEnds := by
  intro h
  obtain ⟨-, -, streams⟩ := h
  obtain ⟨outside, -⟩ := streams State.returnedWithFault
  obtain ⟨-, faulty, -⟩ := outside rfl
  obtain ⟨traps, -⟩ := faulty (.inr rfl)
  obtain ⟨u, -, -, place, turn⟩ := traps rfl rfl
  have kept : (u.seqSt State.returnedWithFault.cur.q).fault = true := by
    rw [State.seqSt, turn]; rfl
  rw [place] at kept
  exact Bool.false_ne_true kept

end Sys2Proof.Machine
end

section
/-! SUPPORT. Seals and handoffs (05_control.md R129 to R133). -/

namespace Sys2Proof.Machine

open Sys2Proof

theorem SameBut.regs_eq {s t : State} (h : SameBut s t) : t.ctx.r = s.ctx.r := by
  have e := congrArg Ctx.r h.ctx
  exact e

/-! ## The seal instructions -/

/-- A handoff retires with its effect in flight. -/
theorem issues_handoff {i : Instr} {s : State} {x : Fin 16} {k : HandKind} {n : BitVec 16}
    (e : exec i s = .next (s.handoff x k n)) : Issues i s [(s.handoffDue - s.tn, .handoff x k n)] :=
  ⟨_, e, issued_retire s [(s.handoffDue - s.tn, .handoff x k n)]⟩

theorem sealInstructions : Claims.SealInstructions := by
  intro s sl a d
  refine ⟨?_, fun clear => ⟨?_, fun free => ?_, fun busy => ?_⟩, fun clear => ⟨?_, ?_⟩⟩
  · exact issues_handoff (guarded_of_clear (clear_nothing s false) fun s => s.handoff sl .add 1)
  · exact issues_handoff (guarded_of_clear clear fun s => s.handoff sl .add ((s.rg a).setWidth 16))
  · have run := show exec (.sset sl a) s = execSset sl a s from rfl
    rw [execSset, guarded_of_clear clear, if_neg (not_not.mpr (show (s.seal_ sl).pend = 0 from free))] at run
    exact issues_handoff run
  · have run := show exec (.sset sl a) s = execSset sl a s from rfl
    rw [execSset, guarded_of_clear clear, if_pos (show (s.seal_ sl).pend ≠ 0 from busy)] at run
    exact run
  · exact issues_of_simple (body := fun s => s.landG 1 d ((s.seal_ sl).count.setWidth 64)) clear rfl (s.landG_eq 1 d _)
  · exact issues_of_simple (body := fun s => s.landG 1 d ((s.seal_ sl).pend.setWidth 64)) clear rfl (s.landG_eq 1 d _)

/-! ## The turn of a handoff -/

/-- The latest of some turns, of those elements for which there is one, and of a first turn. -/
def latest {α : Type} (f : α → Option Nat) (d : Nat) (l : List α) : Nat :=
  l.foldl (fun d x => max d ((f x).getD 0)) d

section
variable {α : Type} {f : α → Option Nat}

theorem le_latest (d : Nat) (l : List α) : d ≤ latest f d l := by
  induction l generalizing d with
  | nil => exact le_rfl
  | cons x r ih => exact (le_max_left _ _).trans (ih _)

theorem le_latest_of_mem {l : List α} {x : α} (hx : x ∈ l) {n : Nat} (due : f x = some n) (d : Nat) : n ≤ latest f d l := by
  induction l generalizing d with
  | nil => cases hx
  | cons y r ih =>
    rcases List.mem_cons.mp hx with rfl | inside
    · refine le_trans ?_ (le_latest _ r)
      simp [due]
    · exact ih inside _

theorem latest_eq (d : Nat) (l : List α) : latest f d l = d ∨ ∃ x ∈ l, f x = some (latest f d l) := by
  induction l generalizing d with
  | nil => exact .inl rfl
  | cons x r ih =>
    rcases ih (max d ((f x).getD 0)) with same | ⟨y, hy, e⟩
    · change latest f _ r = d ∨ ∃ y ∈ x :: r, f y = some (latest f _ r)
      rw [same]
      cases due : f x with
      | none => exact .inl (by simp)
      | some n =>
        rcases le_total n d with h | h
        · exact .inl (by simpa using h)
        · exact .inr ⟨x, List.mem_cons_self, by simp [due, h]⟩
    · exact .inr ⟨y, List.mem_cons_of_mem _ hy, e⟩

end

/-- The turn in which a result that a handoff of `q` waits for lands (R132). -/
def Landing.resultOf (q : Seq) (l : Landing) : Option Nat :=
  match l.eff with
  | .reg w => if l.seq = q ∧ w.ref ≠ .g 0 then some l.due else none
  | _ => none

/-- The turn in which a record that a handoff of `q` waits for lands, once its stroke has resumed in turn u (R63). -/
def LateWrite.resultOf (q : Seq) (u : Nat) (w : LateWrite) : Option Nat := if w.seq = q then some (u + w.k) else none

theorem handoffDue_eq (s : State) : s.handoffDue =
    match s.ctx.resumed with
    | some u => latest (LateWrite.resultOf s.cur.q u) (latest (Landing.resultOf s.cur.q) (s.tn + 1) s.ctx.inflight) s.ctx.lateWrites
    | none => latest (Landing.resultOf s.cur.q) (s.tn + 1) s.ctx.inflight := by
  have landing (d : Nat) (l : Landing) : (match l.eff with
      | .reg w => if l.seq = s.cur.q ∧ w.ref ≠ .g 0 then max d l.due else d
      | _ => d) = max d ((l.resultOf s.cur.q).getD 0) := by
    rw [Landing.resultOf]
    cases l.eff <;> simp
    split <;> simp
  have record (u d : Nat) (w : LateWrite) :
      (if w.seq = s.cur.q then max d (u + w.k) else d) = max d ((w.resultOf s.cur.q u).getD 0) := by
    rw [LateWrite.resultOf]
    split <;> simp
  have results := congrArg (fun g => List.foldl g (s.tn + 1) s.ctx.inflight) (funext₂ landing)
  rw [State.handoffDue]
  cases s.ctx.resumed with
  | none => exact results
  | some u => exact congrArg₂ (fun g d => List.foldl g d s.ctx.lateWrites) (funext₂ (record u)) results

theorem handoffWaitsForResults : Claims.HandoffWaitsForResults := by
  intro s
  have landing_some {l : Landing} {n : Nat} : l.resultOf s.cur.q = some n ↔
      ∃ w, l.eff = .reg w ∧ w.ref ≠ .g 0 ∧ l.seq = s.cur.q ∧ l.due = n := by
    rw [Landing.resultOf]
    cases l.eff <;> simp
    tauto
  have record_some {u n : Nat} {w : LateWrite} : w.resultOf s.cur.q u = some n ↔ w.seq = s.cur.q ∧ u + w.k = n := by
    rw [LateWrite.resultOf]; simp
  have results := le_latest (f := Landing.resultOf s.cur.q) (s.tn + 1) s.ctx.inflight
  have each {l : Landing} (hl : l ∈ s.ctx.inflight) {w : RegWrite} (reg : l.eff = .reg w) (other : w.ref ≠ .g 0)
      (seq : l.seq = s.cur.q) : l.due ≤ latest (Landing.resultOf s.cur.q) (s.tn + 1) s.ctx.inflight :=
    le_latest_of_mem hl (landing_some.mpr ⟨w, reg, other, seq, rfl⟩) _
  have latest_result : (latest (Landing.resultOf s.cur.q) (s.tn + 1) s.ctx.inflight = s.tn + 1) ∨ ∃ l ∈ s.ctx.inflight,
      ∃ w, l.eff = .reg w ∧ w.ref ≠ .g 0 ∧ l.seq = s.cur.q ∧ l.due = latest (Landing.resultOf s.cur.q) (s.tn + 1) s.ctx.inflight :=
    (latest_eq _ _).imp_right fun ⟨l, hl, e⟩ => ⟨l, hl, landing_some.mp e⟩
  rw [handoffDue_eq]
  cases s.ctx.resumed with
  | none =>
    exact ⟨results, fun l hl w reg other seq => each hl reg other seq, by simp, latest_result.imp_right .inl⟩
  | some u =>
    have records := le_latest (f := LateWrite.resultOf s.cur.q u)
      (latest (Landing.resultOf s.cur.q) (s.tn + 1) s.ctx.inflight) s.ctx.lateWrites
    refine ⟨results.trans records, fun l hl w reg other seq => (each hl reg other seq).trans records, fun u' hu w hw seq => ?_, ?_⟩
    · cases hu
      exact le_latest_of_mem hw (record_some.mpr ⟨seq, rfl⟩) _
    · rcases latest_eq (f := LateWrite.resultOf s.cur.q u) (latest (Landing.resultOf s.cur.q) (s.tn + 1) s.ctx.inflight)
        s.ctx.lateWrites with same | ⟨w, hw, e⟩
      · dsimp only
        rw [same]
        exact latest_result.imp_right .inl
      · exact .inr (.inr ⟨u, rfl, w, hw, record_some.mp e⟩)

/-! ## Waiting for a seal -/

theorem waitsForTheSeal : Claims.WaitsForTheSeal := by
  intro s sl a i thr clear formed
  have run := show exec (.waits sl a i) s = execWaits sl a i s from rfl
  have threshold : ((s.seqSt s.cur.q).thr).getD ((s.rg a).setWidth 16 + i) = thr := by
    rcases formed with ⟨first, rfl⟩ | kept
    · rw [first, Option.getD_none, BitVec.setWidth_add _ _ (by decide)]
      simp
    · rw [kept, Option.getD_some]
  rw [execWaits, guarded_of_clear clear] at run
  simp only [threshold, sealReached] at run
  refine ⟨fun reached => ?_, fun waiting => ?_⟩
  · rw [if_pos (by exact decide_eq_true reached)] at run
    refine ⟨_, run, ?_⟩
    have retired := issued_retire (s.setLc (Clk.max s.lc (s.seal_ sl).clk)) []
    rw [Issued, nextFound_setLc] at retired
    exact retired
  · rw [if_neg (by exact Bool.eq_false_iff.mp (decide_eq_false (Nat.not_lt.mpr waiting)))] at run
    have same := sameBut_modSeq s (fun q => { q with thr := some thr })
    refine ⟨_, run, seqSt_modSeq s _, issued_modSeq s _ _, same.mem_eq, inflight_modSeq s _ _, same.regs_eq⟩

/-- Settles O17: the turn of a handoff is the latest of the landings that its sequencer waits for. -/
theorem sealsAndHandoffs : Obligations.SealsAndHandoffs := ⟨sealInstructions, handoffWaitsForResults, waitsForTheSeal⟩

end Sys2Proof.Machine
end

section
/-! SUPPORT. Register files, and how results, handoffs and records take force (02_lines.md R44, R45, R56, R57, R63, 05_control.md
R130 to R132, 07_ordering.md R187, R189). -/

namespace Sys2Proof.Machine

open Sys2Proof

theorem registerFiles : Claims.RegisterFiles := by
  refine ⟨fun s => ⟨rfl, rfl, fun n low => ?_, fun n high => ?_⟩, fun r x y z => ⟨rfl, rfl, fun i other => ?_, fun i => ?_, fun i other => ?_⟩⟩
  · rw [State.vphys, if_pos low]
  · rw [State.vphys, if_neg (Nat.not_lt.mpr high)]
  · rw [Regs.write, if_neg other]
    exact ⟨Vector.getElem_set_self _, fun j hj => Vector.getElem_set_ne i.isLt j.isLt (Fin.val_ne_of_ne hj.symm), rfl⟩
  · exact ⟨Vector.getElem_set_self _, fun j hj => Vector.getElem_set_ne i.isLt j.isLt (Fin.val_ne_of_ne hj.symm), rfl⟩
  · rw [Regs.write, if_neg other]
    exact ⟨Vector.getElem_set_self _, fun j hj => Vector.getElem_set_ne i.isLt j.isLt (Fin.val_ne_of_ne hj.symm), rfl⟩

/-! ## What is due -/

/-- What taking the first element out of a list gives, from a list cut at that element. -/
theorem takeFirst_cut {α : Type} {f : α → Bool} {pre post : List α} {x : α} (hpre : ∀ y ∈ pre, f y = false) (hx : f x = true) :
    takeFirst f (pre ++ x :: post) = some (x, pre ++ post) := by
  induction pre with
  | nil => rw [List.nil_append, takeFirst, if_pos hx]; rfl
  | cons y r ih =>
    have rest := ih fun z hz => hpre z (List.mem_cons_of_mem _ hz)
    rw [List.cons_append, takeFirst, if_neg (by simp [hpre y List.mem_cons_self]), rest]; rfl

theorem takeFirst_eq_none {α : Type} {f : α → Bool} {l : List α} (h : ∀ y ∈ l, f y = false) : takeFirst f l = none := by
  induction l with
  | nil => rfl
  | cons y r ih =>
    rw [takeFirst, if_neg (by simp [h y List.mem_cons_self]), ih fun z hz => h z (List.mem_cons_of_mem _ hz)]

/-- A change of one context leaves the other strokes and everything outside the nibs. -/
theorem stroke_modCtxAt_ne' (s : State) (n : NibId) (k : Fin 8) (f : Ctx → Ctx) {m : NibId} {j : Fin 8} (h : (m, j) ≠ (n, k)) :
    (s.modCtxAt n k f).stroke m j = s.stroke m j := by
  refine State.stroke_modStroke_ne _ _ _ _ _ _ ?_
  rw [ne_eq, Prod.mk.injEq, not_and_or] at h
  exact h

theorem modCtxAt_nibs (s : State) (n : NibId) (k : Fin 8) (f : Ctx → Ctx) : { s.modCtxAt n k f with nibs := s.nibs } = s := rfl

theorem ctx_modCtxAt_same (s : State) (n : NibId) (k : Fin 8) (f : Ctx → Ctx) :
    ((s.modCtxAt n k f).stroke n k).ctx = f (s.stroke n k).ctx := by
  simp [State.modCtxAt]

theorem applyEff_reg (s : State) (n : NibId) (k : Fin 8) (q : Seq) (w : RegWrite) :
    s.applyEff n k q (.reg w) = s.modCtxAt n k (fun c => { c with r := c.r.write w }) := rfl

theorem applyEff_handoff (s : State) (n : NibId) (k : Fin 8) (q : Seq) (x : Fin 16) (kind : HandKind) (m : BitVec 16) :
    s.applyEff n k q (.handoff x kind m) =
      s.modCtxAt n k (fun c => { c with r := c.r.modSeal x (·.handoff kind m c.seqs[q.idx].lc) }) := rfl

theorem resultsLandInOrder : Claims.ResultsLandInOrder := by
  intro s n k pre post l flight before due result
  have taken : takeFirst (fun l => l.due ≤ s.tn && !l.isHandoff) (s.stroke n k).ctx.inflight = some (l, pre ++ post) := by
    rw [flight]
    refine takeFirst_cut (fun y hy => ?_) (by simp [due, result])
    rcases before y hy with late | hand
    · simp [Nat.not_le.mpr late]
    · simp [hand]
  have run := show exec (.resultLanding n k) s = execResultLanding n k s from rfl
  simp only [execResultLanding, taken] at run
  refine ⟨run, fun w reg => ⟨_, run, ?_⟩⟩
  rw [reg, applyEff_reg, State.modCtxAt_modCtxAt]
  exact ⟨ctx_modCtxAt_same .., fun m j h => stroke_modCtxAt_ne' s n k _ h, modCtxAt_nibs s n k _⟩

/-! ## Handoffs and records -/

theorem settle_r (c : Ctx) : c.settle.r = c.r := by rw [Ctx.settle]; split <;> rfl
theorem settle_lateWrites (c : Ctx) : c.settle.lateWrites = c.lateWrites := by rw [Ctx.settle]; split <;> rfl
theorem settle_handRecs (c : Ctx) : c.settle.handRecs = c.handRecs := by rw [Ctx.settle]; split <;> rfl
theorem settle_inflight (c : Ctx) : c.settle.inflight = c.inflight := by rw [Ctx.settle]; split <;> rfl

theorem seals_modSeal_same (r : Regs) (x : Fin 16) (f : Seal → Seal) : (r.modSeal x f).seals[x] = f r.seals[x] :=
  Vector.getElem_set_self _

theorem seals_modSeal_ne (r : Regs) {x y : Fin 16} (f : Seal → Seal) (h : y ≠ x) : (r.modSeal x f).seals[y] = r.seals[y] :=
  Vector.getElem_set_ne x.isLt y.isLt (Fin.val_ne_of_ne h.symm)

/-- What a handoff makes of its seal: COUNT is set or added to, and CLK takes the later clock. -/
theorem handoff_eq (x : Seal) (kind : HandKind) (m : BitVec 16) (lc : Clk) :
    x.handoff kind m lc = ⟨if kind = .set then m else x.count + m, x.pend, Clk.max x.clk lc⟩ := by
  cases kind <;> rfl

theorem handoffsAndRecordsTakeForce : Claims.HandoffsAndRecordsTakeForce := by
  rintro s n k c rfl
  refine ⟨fun l r x kind m next eff => ?_, fun pre post w u late resumed before due => ?_, fun h r waits next => ?_⟩
  · have run := show exec (.handoffEffect n k) s = execHandoffEffect n k s from rfl
    simp only [execHandoffEffect, next] at run
    refine ⟨_, run, ?_⟩
    rw [eff, applyEff_handoff, State.modCtxAt_modCtxAt, ctx_modCtxAt_same]
    refine ⟨rfl, ?_, fun y other => seals_modSeal_ne _ _ other, rfl, rfl⟩
    exact (seals_modSeal_same ..).trans (handoff_eq ..)
  · have run := show exec (.lateWriteLanding n k) s = execLateWriteLanding n k s from rfl
    have taken : takeFirst (fun w => (s.stroke n k).ctx.due s.tn w.k) (s.stroke n k).ctx.lateWrites = some (w, pre ++ post) := by
      rw [late]
      refine takeFirst_cut (fun y hy => ?_) ?_
      · simp [Ctx.due, resumed, before y hy]
      · simp [Ctx.due, resumed, due]
    simp only [execLateWriteLanding, taken] at run
    refine ⟨_, run, ?_⟩
    simp only [ctx_modCtxAt_same, settle_r, settle_lateWrites, settle_inflight, true_and]
    rfl
  · have run := show exec (.lateWriteLanding n k) s = execLateWriteLanding n k s from rfl
    simp only [execLateWriteLanding, takeFirst_eq_none waits, next] at run
    refine ⟨_, run, ?_⟩
    simp only [ctx_modCtxAt_same, settle_r, settle_handRecs, true_and, seals_modSeal_same, handoff_eq]

theorem clocksRise : Claims.ClocksRise := by
  intro s n k
  refine ⟨_, rfl, fun q => ?_, ?_, fun m j h => stroke_modCtxAt_ne' s n k _ h, modCtxAt_nibs s n k _⟩
  · rw [ctx_modCtxAt_same]
    exact Vector.getElem_map _ q.isLt
  · rw [ctx_modCtxAt_same]

/-! ## Interruptions (R63) -/

theorem lateWrite_of_not_kept {tn : Nat} {l : Landing} (h : l.eff.kept = false) : l.lateWrite tn = none := by
  rw [Landing.lateWrite]; revert h; cases l.eff <;> simp [Eff.kept]

theorem handRec_of_not_kept {tn : Nat} {l : Landing} (h : l.eff.kept = false) : l.handRec tn = none := by
  rw [Landing.handRec]; revert h; cases l.eff <;> simp [Eff.kept]

/-- Elements that a further test drops and that give nothing do not change what a list gives. -/
theorem filterMap_filter_and {α β : Type} (f : α → Option β) (p q : α → Bool) (l : List α) (h : ∀ x, q x = false → f x = none) :
    (l.filter (fun x => p x && q x)).filterMap f = (l.filter p).filterMap f := by
  induction l with
  | nil => rfl
  | cons x r ih =>
    cases hp : p x with
    | false => simp [hp, ih]
    | true =>
      cases hq : q x with
      | false => simp [hp, hq, ih, h x hq]
      | true => simp [hp, hq, ih, List.filterMap_cons]

theorem interruptedResultsAreKept : Claims.InterruptedResultsAreKept := by
  intro c tn
  refine ⟨fun fresh => ?_, fun u resumed => ?_⟩
  · have counted : c.recount tn = c := by rw [Ctx.recount, fresh]
    rw [Ctx.freeze, counted]
    refine ⟨?_, ?_, ?_, rfl⟩
    · exact List.filter_congr fun l _ => by
        rw [Bool.not_and, ← decide_not, (decide_eq_decide.mpr Nat.not_le : decide (¬ tn + 2 ≤ l.due) = decide (l.due < tn + 2))]
    · change (c.lateWrites ++ (c.inflight.filter fun l => decide (tn + 2 ≤ l.due) && l.eff.kept).filterMap (Landing.lateWrite tn)).take 12 = _
      rw [filterMap_filter_and _ _ _ _ fun l h => lateWrite_of_not_kept h]
      rfl
    · change (c.handRecs ++ (c.inflight.filter fun l => decide (tn + 2 ≤ l.due) && l.eff.kept).filterMap (Landing.handRec tn)).take 8 = _
      rw [filterMap_filter_and _ _ _ _ fun l h => handRec_of_not_kept h]
      rfl
  · have near (n : Nat) : decide (n < tn + 2) = decide (n ≤ tn + 1) := decide_eq_decide.mpr Nat.lt_succ_iff
    simp only [Ctx.freeze, Ctx.recount, resumed, near]
    rfl

/-- Settles O18: what lands is the first of a list that is due, and an interruption sorts the list by what is kept. -/
theorem registersAndLandings : Obligations.RegistersAndLandings :=
  ⟨registerFiles, resultsLandInOrder, handoffsAndRecordsTakeForce, clocksRise, interruptedResultsAreKept⟩

end Sys2Proof.Machine
end

section
/-! SUPPORT. The control and status registers (12_system.md R307 to R312, R320, R327, R328). -/

namespace Sys2Proof.Machine

open Sys2Proof

/-! ## Reading a nib and a stroke after a change -/

section
variable (s : State) (n : NibId) (k : Fin 8)

@[simp] theorem nib_schedule (c : Nat) (i : Instr) : (s.schedule c i).nib n = s.nib n := rfl

@[simp] theorem stroke_schedule (c : Nat) (i : Instr) : (s.schedule c i).stroke n k = s.stroke n k := rfl

@[simp] theorem stroke_modNib_same (f : Nib → Nib) : (s.modNib n f).stroke n k = (f (s.nib n)).strokes[k] := by
  simp [State.stroke]

theorem stroke_modNib_ne (f : Nib → Nib) {m : NibId} (h : m ≠ n) : (s.modNib n f).stroke m k = s.stroke m k := by
  rw [State.stroke, State.nib_modNib_ne _ _ _ _ h]; rfl

@[simp] theorem stroke_modCtxAt_same (f : Ctx → Ctx) :
    (s.modCtxAt n k f).stroke n k = { s.stroke n k with ctx := f (s.stroke n k).ctx } :=
  State.stroke_modStroke_same ..

/-- A change of a context changes the strokes of its nib alone. -/
theorem nib_modCtxAt_same (f : Ctx → Ctx) :
    { (s.modCtxAt n k f).nib n with strokes := (s.nib n).strokes } = s.nib n := by
  simp [State.modCtxAt, State.modStroke]

end

/-! ## Numbers -/

/-- The number of a CSR (R308). -/
def CsrId.num : CsrId → BitVec 12
  | .rngctr => 0x0C0 | .rngseed => 0x0C1 | .rngsid => 0x0C2 | .fpev => 0x0C3 | .vrb => 0x0C4 | .spctl => 0x0C5
  | .mfault => 0x0C8 | .rpolicy => 0x0C9 | .tvec => 0x100 | .tstatus => 0x101 | .tscratch => 0x102 | .tcause => 0x103
  | .tval => 0x104 | .tseq => 0x105 | .tpc q => BitVec.ofNat 12 (0x106 + q.val) | .tie => 0x10A | .tip => 0x10B
  | .lwstat => 0x10C | .xob => 0x10D | .ptroot => 0x180 | .ctxcfg => 0x1C0 | .nturn => 0x1C1 | .tmpend => 0x1C2
  | .nksig => 0x1C3 | .devid => 0xF00

theorem ofNum_num (c : CsrId) : CsrId.ofNum c.num = some c := by
  cases c with
  | tpc q => fin_cases q <;> rfl
  | _ => rfl

theorem ofNum_eq_some_iff {n : BitVec 12} {c : CsrId} : CsrId.ofNum n = some c ↔ n = c.num := by
  refine ⟨fun h => BitVec.eq_of_toNat_eq ?_, fun h => h ▸ ofNum_num c⟩
  unfold CsrId.ofNum at h
  split at h <;> cases h <;> assumption

/-- A number outside the table of R308 names no CSR. -/
theorem ofNum_eq_none {n : BitVec 12} (absent : ∀ c : CsrId, n ≠ c.num) : CsrId.ofNum n = none :=
  Option.eq_none_iff_forall_ne_some.mpr fun c h => absent c (ofNum_eq_some_iff.mp h)

/-! ## Reads -/

theorem issues_csrr {s : State} {d : Fin 32} {c : CsrId} (clear : s.Clear [] [.g d] false) (may : c.readable s.turn.mode = true) :
    Issues (.csrr d c.num) s (gWrite 1 d (s.csrRead c)) := by
  have run := show exec (.csrr d c.num) s = execCsrr d c.num s from rfl
  simp only [execCsrr, ofNum_num, if_pos may] at run
  exact issues_of_simple clear run (s.landG_eq 1 d _)

theorem csrr_illegal {s : State} {d : Fin 32} {c : CsrId} (may_not : c.readable s.turn.mode = false) :
    exec (.csrr d c.num) s = .next s.illegal := by
  have run := show exec (.csrr d c.num) s = execCsrr d c.num s from rfl
  simpa only [execCsrr, ofNum_num, may_not, Bool.false_eq_true, if_false] using run

theorem readable_of_kernel {c : CsrId} {m : Mode} (h : m ≠ .t) : c.readable m = true := by
  simp [CsrId.readable, h]

theorem csrReads : Claims.CsrReads := by
  intro s d c shared kernel
  refine ⟨fun clear => ⟨?_, fun mode => ⟨?_, ?_, ?_, ?_⟩⟩, fun mode => ?_, fun n out special => ?_⟩
  · have each (c : CsrId) (m : c.readable .t = true) : Issues (.csrr d c.num) s (gWrite 1 d (s.csrRead c)) := by
      refine issues_csrr clear ?_
      by_cases mode : s.turn.mode = .t
      · rw [mode, m]
      · exact readable_of_kernel mode
    simp only [shared, List.forall_mem_cons, List.not_mem_nil, false_implies, implies_true, and_true]
    exact ⟨each .rngctr rfl, each .rngseed rfl, each .rngsid rfl, each .fpev rfl, each .vrb rfl, each .spctl rfl, each .mfault rfl,
      each .rpolicy rfl, each .tstatus rfl, each .xob rfl, each .ptroot rfl, each .devid rfl⟩
  · have each (c : CsrId) : Issues (.csrr d c.num) s (gWrite 1 d (s.csrRead c)) := issues_csrr clear (readable_of_kernel mode)
    simp only [kernel, List.forall_mem_cons, List.not_mem_nil, false_implies, implies_true, and_true]
    exact ⟨each .tvec, each .tscratch, each .tcause, each .tval, each .tseq, each (.tpc 0), each (.tpc 1), each (.tpc 2),
      each (.tpc 3), each .tie, each .nturn, each .tmpend, each .nksig⟩
  · exact issues_csrr (c := .tip) clear (readable_of_kernel mode)
  · exact issues_csrr (c := .lwstat) clear (readable_of_kernel mode)
  · exact issues_csrr (c := .ctxcfg) clear (readable_of_kernel mode)
  · have each (c : CsrId) (h : c.readable .t = false) : exec (.csrr d c.num) s = .next s.illegal := csrr_illegal (by rw [mode]; exact h)
    simp only [kernel, List.map_cons, List.map_nil, List.cons_append, List.nil_append, List.forall_mem_cons, List.not_mem_nil,
      false_implies, implies_true, and_true]
    exact ⟨each .tvec rfl, each .tscratch rfl, each .tcause rfl, each .tval rfl, each .tseq rfl, each (.tpc 0) rfl,
      each (.tpc 1) rfl, each (.tpc 2) rfl, each (.tpc 3) rfl, each .tie rfl, each .nturn rfl, each .tmpend rfl, each .nksig rfl,
      each .tip rfl, each .lwstat rfl, each .ctxcfg rfl⟩
  · have absent (c : CsrId) : n ≠ c.num := by
      rintro rfl
      cases c with
      | tpc q => fin_cases q <;> simp [shared, kernel, CsrId.num] at out
      | _ => simp [shared, kernel, CsrId.num] at out special
    have run := show exec (.csrr d n) s = execCsrr d n s from rfl
    simpa only [execCsrr, ofNum_eq_none absent] using run

/-! ## Writes at issue -/

/-- The CSRs that mode T may write, and those that the other modes alone may (R308). -/
def CsrId.taskWrites : List CsrId := [.rngctr, .rngseed, .rngsid, .fpev, .vrb, .spctl, .mfault, .tstatus]
def CsrId.kernelWrites : List CsrId := [.rpolicy, .tvec, .tscratch, .tcause, .tval, .tseq, .tpc 0, .tpc 1, .tpc 2, .tpc 3, .tie,
  .tip, .xob, .ptroot, .ctxcfg, .tmpend, .nksig]

theorem writable_iff (c : CsrId) (m : Mode) (k : Fin 8) : (c.writable m && !c.fixedOn k) = true ↔
    c.num ∈ CsrId.taskWrites.map CsrId.num ∨ c.num ∈ CsrId.kernelWrites.map CsrId.num ∧ m ≠ .t ∧ (c.num = 0x10B → k = 7) := by
  cases c with
  | tpc q => fin_cases q <;> simp [CsrId.writable, CsrId.fixedOn, CsrId.taskWrites, CsrId.kernelWrites, CsrId.num]
  | _ => simp [CsrId.writable, CsrId.fixedOn, CsrId.taskWrites, CsrId.kernelWrites, CsrId.num]

/-- A CSR write issues where it may, with its operand on its way. -/
theorem issues_csrIssue {i : Instr} {s : State} {op : Fin 4} {a : Fin 32} {c : CsrId} (clear : s.Clear [.g a] [] false)
    (may : (c.writable s.turn.mode && !c.fixedOn s.cur.k) = true) (e : exec i s = s.csrIssue op a c.num) :
    Issues i s [(1, .csr op c.num (s.rg a) (decide (s.turn.mode = .t)))] := by
  simp only [State.csrIssue, ofNum_num, if_pos may] at e
  exact issues_of_simple clear e rfl

/-- A CSR write traps ILLEGAL where it may not be made. -/
theorem csrIssue_illegal {s : State} {op : Fin 4} {a : Fin 32} {n : BitVec 12}
    (may_not : ∀ c : CsrId, n = c.num → (c.writable s.turn.mode && !c.fixedOn s.cur.k) = false) :
    s.csrIssue op a n = .next s.illegal := by
  rw [State.csrIssue]
  cases found : CsrId.ofNum n with
  | none => rfl
  | some c => simp only [may_not c (ofNum_eq_some_iff.mp found), Bool.false_eq_true, if_false]

theorem csrWritesIssue : Claims.CsrWritesIssue := by
  intro s a n task kernel
  refine ⟨fun clear may => ?_, fun untask rest => ?_⟩
  · have named : ∃ c : CsrId, n = c.num := by
      have listed : n ∈ CsrId.taskWrites.map CsrId.num ∨ n ∈ CsrId.kernelWrites.map CsrId.num := may.imp_right And.left
      rw [← List.mem_append, ← List.map_append] at listed
      obtain ⟨c, -, rfl⟩ := List.mem_map.mp listed
      exact ⟨c, rfl⟩
    obtain ⟨c, rfl⟩ := named
    have may := (writable_iff c s.turn.mode s.cur.k).mpr may
    exact ⟨issues_csrIssue clear may rfl, issues_csrIssue clear may rfl, issues_csrIssue clear may rfl⟩
  · have may_not (c : CsrId) (named : n = c.num) : (c.writable s.turn.mode && !c.fixedOn s.cur.k) = false := by
      rw [← Bool.not_eq_true, writable_iff, ← named]
      rintro (inside | ⟨inside, mode, seven⟩)
      · exact untask inside
      · rcases rest with out | t | ⟨tip, other⟩
        · exact out inside
        · exact mode t
        · exact other (seven tip)
    simp only [List.forall_mem_cons, List.not_mem_nil, false_implies, implies_true, and_true]
    exact ⟨csrIssue_illegal may_not, csrIssue_illegal may_not, csrIssue_illegal may_not⟩

/-! ## Writes that take force -/

/-- What a CSR of the context holds. -/
def Csrs.field (c : Csrs) : CsrId → Word
  | .rngctr => c.rngctr | .rngseed => c.rngseed | .rngsid => c.rngsid | .fpev => c.fpev | .vrb => c.vrb.setWidth 64
  | .spctl => c.spctl | .mfault => c.mfault | .rpolicy => c.rpolicy | .tvec => c.tvec | .tstatus => c.tstatus
  | .tscratch => c.tscratch | .tcause => c.tcause | .tval => c.tval | .tseq => c.tseq | .tpc q => c.tpc[q] | .tie => c.tie
  | .tip => c.tip | .xob => c.xob | .ptroot => c.ptroot | .lwstat | .ctxcfg | .nturn | .tmpend | .nksig | .devid => 0

/-- The RW bits of the CSRs that `plainCsrs` lists (R309, R310). -/
def CsrId.rwBits : CsrId → Word
  | .rngsid => 0xFFFFFFFF | .vrb => 0xF | .spctl => 0xFFFFFFFFF | .rpolicy => 3 | .tvec => 0x7FFE0 | .tstatus => 0x1933
  | .tcause => 0x80000000000000FF | .tseq => 3 | .tpc _ => 0x7FFFC | .tie => 0xAA2 | .ptroot => 0xFFFFFFFFFFFF0001
  | _ => BitVec.allOnes 64

/-- The CSRs of a context whose write is a plain write of their RW bits. -/
def plainCsrs : List CsrId := [.rngctr, .rngseed, .rngsid, .fpev, .rpolicy, .tvec, .tstatus, .tscratch, .tcause, .tval, .tseq,
  .tpc 0, .tpc 1, .tpc 2, .tpc 3, .tie, .vrb, .spctl, .ptroot]

theorem csrMask_allOnes (op : Fin 4) (old x : Word) : csrMask op old x (BitVec.allOnes 64) = csrCombine op old x := by
  rw [csrMask, BitVec.and_allOnes, BitVec.not_allOnes, BitVec.and_zero, BitVec.or_zero]

theorem csrMask_set (old x mask : Word) : old ||| (x &&& mask) = csrMask 2 old x mask := by
  refine BitVec.eq_of_getLsbD_eq fun i hi => ?_
  change _ = (((old ||| x) &&& mask) ||| (old &&& ~~~mask)).getLsbD i
  simp only [BitVec.getLsbD_or, BitVec.getLsbD_and, BitVec.getLsbD_not, hi, decide_true, Bool.true_and]
  cases old.getLsbD i <;> cases x.getLsbD i <;> cases mask.getLsbD i <;> rfl

theorem csrMask_clear (old x mask : Word) : old &&& ~~~(x &&& mask) = csrMask 3 old x mask := by
  refine BitVec.eq_of_getLsbD_eq fun i hi => ?_
  change _ = (((old &&& ~~~x) &&& mask) ||| (old &&& ~~~mask)).getLsbD i
  simp only [BitVec.getLsbD_or, BitVec.getLsbD_and, BitVec.getLsbD_not, hi, decide_true, Bool.true_and]
  cases old.getLsbD i <;> cases x.getLsbD i <;> cases mask.getLsbD i <;> rfl

theorem setWidth_csrMask_vrb (op : Fin 4) (old : BitVec 4) (x : Word) :
    ((csrCombine op (old.setWidth 64) x).setWidth 4).setWidth 64 = csrMask op (old.setWidth 64) x 0xF := by
  have low : (0xF : Word) = (BitVec.allOnes 4).setWidth 64 := by decide
  rw [csrMask, low]
  refine BitVec.eq_of_getLsbD_eq fun i hi => ?_
  simp only [BitVec.getLsbD_setWidth, BitVec.getLsbD_or, BitVec.getLsbD_and, BitVec.getLsbD_not, BitVec.getLsbD_allOnes, hi]
  by_cases h : i < 4
  · simp [h]
  · simp [h, BitVec.getLsbD_of_ge old i (by omega)]

theorem field_write_same (c : Csrs) {id : CsrId} (plain : id ∈ plainCsrs) (op : Fin 4) (x : Word) :
    (c.write id op x false).field id = csrMask op (c.field id) x id.rwBits := by
  cases id with
  | rngctr | rngseed | fpev | tscratch | tval => exact (csrMask_allOnes op _ x).symm
  | tpc q => exact Vector.getElem_set_self _
  | vrb => exact setWidth_csrMask_vrb op c.vrb x
  | mfault | tip | xob | lwstat | ctxcfg | nturn | tmpend | nksig | devid => simp [plainCsrs] at plain
  | _ => rfl

theorem field_write_ne (c : Csrs) {id j : CsrId} (other : j ≠ id) (op : Fin 4) (x : Word) (task : Bool) :
    (c.write id op x task).field j = c.field j := by
  cases id with
  | tpc q =>
    cases j with
    | tpc r => exact Vector.getElem_set_ne q.isLt r.isLt (fun h => other (by rw [Fin.ext h]))
    | _ => rfl
  | _ => cases j <;> simp_all [Csrs.write, Csrs.field]

theorem csrWrite_plain (s : State) (n : NibId) (k : Fin 8) {id : CsrId} (plain : id ∈ plainCsrs) (op : Fin 4) (x : Word)
    (task : Bool) : s.csrWrite n k id.num op x task = s.modCtxAt n k (fun c => { c with c := c.c.write id op x task }) := by
  rw [State.csrWrite, ofNum_num]
  cases id with
  | mfault | tip | lwstat | ctxcfg | nturn | tmpend | nksig | devid => simp [plainCsrs] at plain
  | _ => rfl

theorem xobClamp_toNat (y : Word) : (xobClamp y).toNat = if 0x60000 < y.toNat then 0x60000 else y.toNat / 32 * 32 := by
  rw [xobClamp]
  split
  · rfl
  · next below =>
    have small : y.toNat < 2 ^ 19 := by omega
    rw [BitVec.toNat_and]
    refine Nat.eq_of_testBit_eq fun i => ?_
    have cut : (y.toNat / 32 * 32).testBit i = (decide (5 ≤ i) && y.toNat.testBit i) := by
      rw [show (32 : Nat) = 2 ^ 5 from rfl, Nat.testBit_mul_two_pow, Nat.testBit_div_two_pow]
      by_cases h : 5 ≤ i
      · simp [h, Nat.sub_add_cancel h]
      · simp [h]
    rw [cut, Nat.testBit_and, Bool.and_comm]
    by_cases high : 19 ≤ i
    · rw [Nat.testBit_lt_two_pow (lt_of_lt_of_le small (Nat.pow_le_pow_right (by decide) high)), Bool.and_false, Bool.and_false]
    · have mask : (BitVec.toNat (0x7FFE0 : Word)).testBit i = decide (5 ≤ i) := by
        interval_cases i <;> rfl
      rw [mask]

theorem csrWritesTakeForce : Claims.CsrWritesTakeForce := by
  intro s n k x new fields op hop
  have new_eq (old mask : Word) : new op old mask = csrMask op old x mask := by
    simp only [List.mem_cons, List.not_mem_nil, or_false] at hop
    rcases hop with rfl | rfl | rfl
    · rfl
    · exact csrMask_set old x mask
    · exact csrMask_clear old x mask
  have listed : fields = plainCsrs.map (fun id => (id.num, id.rwBits, fun c => c.field id)) := rfl
  refine ⟨fun f hf => ?_, ?_, ?_, fun y hy => ?_⟩
  · rw [listed] at hf ⊢
    obtain ⟨id, plain, rfl⟩ := List.mem_map.mp hf
    refine ⟨_, rfl, ?_⟩
    dsimp only
    rw [csrWrite_plain s n k plain, ctx_modCtxAt_same, new_eq]
    refine ⟨field_write_same _ plain op x, fun g hg other => ?_, fun m j h => stroke_modCtxAt_ne' s n k _ h, modCtxAt_nibs s n k _⟩
    obtain ⟨j, -, rfl⟩ := List.mem_map.mp hg
    exact field_write_ne _ (fun h => other (by rw [h])) op x false
  · have force := csrWrite_plain s n k (id := .tstatus) (by simp [plainCsrs]) op x true
    change s.csrWrite n k 0x101 op x true = _ at force
    rw [force, ctx_modCtxAt_same, new_eq]; rfl
  · have force : s.csrWrite n k 0x10B op x false = if k = 7 then _ else s := rfl
    rw [force]
    split
    · rw [ctx_modCtxAt_same]; rfl
    · rfl
  · have force : s.csrWrite n k 0x10D op x false =
        s.modCtxAt n k (fun c => { c with c := c.c.write .xob op x false }) := rfl
    have combined : csrCombine op (s.stroke n k).ctx.c.xob x = y := by
      rw [hy]
      simp only [List.mem_cons, List.not_mem_nil, or_false] at hop
      rcases hop with rfl | rfl | rfl <;> rfl
    rw [force, ctx_modCtxAt_same, ← combined]
    exact xobClamp_toNat _

/-! ## The CSRs of a nib -/

theorem csrCombine_bit (op : Fin 4) (hop : op ≠ 0) (x : Word) (i : Nat) :
    (csrCombine op 0 x).getLsbD i = (decide (op ≠ 3) && x.getLsbD i) := by
  revert hop
  fin_cases op <;> simp [csrCombine]

theorem any_valid_iff (b : Nib) : b.entries.toList.any (·.valid) = true ↔ ∃ e : Fin 8, b.entries[e].valid = true := by
  rw [List.any_eq_true]
  constructor
  · rintro ⟨x, hx, v⟩
    obtain ⟨i, hi, rfl⟩ := Vector.mem_iff_getElem.mp (Vector.mem_toList_iff.mp hx)
    exact ⟨⟨i, hi⟩, v⟩
  · rintro ⟨e, v⟩
    exact ⟨b.entries[e], Vector.mem_toList_iff.mpr (Vector.getElem_mem _), v⟩

theorem csrWrite_mfault (s : State) (n : NibId) (k : Fin 8) (op : Fin 4) (x : Word) (task : Bool) :
    s.csrWrite n k 0x0C8 op x task =
      if (csrCombine op 0 x).getLsbD 1 && (s.stroke n k).ctx.c.stopped then
        (((s.modNib n (fun b => { b with matrix := b.matrix.abort (s.stroke n k).ctx.cid })).modCtxAt n k
          (fun c => { c with c := { c.c with mfault := c.c.mfault &&& ~~~ 1 } })).schedule s.cycle (.mfaultAbort n k)).schedule
            s.cycle (.matrixDispatch n)
      else s := rfl

theorem nibCsrWrites : Claims.NibCsrWrites := by
  intro s n x
  have enable : exec (.ctxcfg n x) s = .next (s.modNib n (fun b =>
      if b.entries.toList.any (·.valid) then b
      else { b with ctxEn := (csrCombine 1 (if b.ctxEn then 1 else 0) x).getLsbD 0 })) := rfl
  refine ⟨fun used => ?_, fun free => ?_, fun off => ?_, fun on => ?_, fun k op task hop => ⟨?_, ?_, ?_, ?_⟩⟩
  · exact enable.trans (congrArg (fun b => Host.Outcome.next (s.setNib n b)) (if_pos ((any_valid_iff _).mpr used)))
  · have empty : ¬ (s.nib n).entries.toList.any (·.valid) = true := by
      rw [any_valid_iff]
      rintro ⟨e, v⟩
      exact Bool.false_ne_true ((free e).symm.trans v)
    refine ⟨_, enable, ?_, rfl⟩
    rw [State.nib_modNib_same, if_neg empty]
    rfl
  · have silent := show exec (.nksig n x) s = .next (if x.getLsbD 0 then s.setTip n 1 else s) from rfl
    rw [silent, off]; rfl
  · have raised := show exec (.nksig n x) s = .next (if x.getLsbD 0 then s.setTip n 1 else s) from rfl
    rw [if_pos on] at raised
    refine ⟨_, raised, ?_, rfl⟩
    rw [State.setTip, ctx_modCtxAt_same, stroke_modNib_same, show BitVec.twoPow 64 1 = 2 from rfl]; rfl
  · have force : s.csrWrite n k 0x1C2 op x task = s.modNib n (fun b =>
        { b with tmpend := (b.tmpend &&& ~~~ (csrClears op x).setWidth 8) ||| b.firedIn s.cycle }) := rfl
    rw [force, State.nib_modNib_same, csrClears]
    split <;> rfl
  · rfl
  · intro idle
    rw [csrWrite_mfault, csrCombine_bit op hop, if_neg]
    rcases idle with rfl | off | running
    · simp
    · rw [off, Bool.and_false, Bool.false_and]; exact Bool.false_ne_true
    · rw [Csrs.stopped, running, Bool.and_false]; exact Bool.false_ne_true
  · intro set on stopped
    refine ⟨_, rfl, ?_⟩
    rw [csrWrite_mfault, csrCombine_bit op hop, if_pos (by simp [set, on, Csrs.stopped, stopped])]
    refine ⟨?_, ?_, ?_, rfl, fun j other => ?_⟩
    · simp only [stroke_schedule, stroke_modCtxAt_same, stroke_modNib_same]; rfl
    · have matrix := congrArg Nib.matrix (nib_modCtxAt_same (s.modNib n (fun b => { b with matrix := b.matrix.abort (s.stroke n k).ctx.cid }))
        n k (fun c => { c with c := { c.c with mfault := c.c.mfault &&& ~~~ 1 } }))
      rw [State.nib_modNib_same] at matrix
      exact matrix
    · simp [State.schedule]
    · rw [stroke_schedule, stroke_schedule, stroke_modCtxAt_ne' _ n k _ (by simp [other]), stroke_modNib_same]; rfl

/-- Settles O19: a CSR is named by its number, and a write combines the operand with the bits that may be written. -/
theorem controlAndStatusRegisters : Obligations.ControlAndStatusRegisters :=
  ⟨csrReads, csrWritesIssue, csrWritesTakeForce, nibCsrWrites⟩

end Sys2Proof.Machine
end

section
/-! SUPPORT. System calls, the return from a trap, and `wfm`, `halt` and `fence.i` (12_system.md R313 to R316). -/

namespace Sys2Proof.Machine

open Sys2Proof

/-- An instruction retires and asks for a stop: beside the request it has only issued. -/
theorem issued_of_halt (s : State) (reason : Option (Fin 16)) :
    Issued s { ({ s.retire with turn := { s.retire.turn with halt := reason } } : State) with
      turn := { ({ s.retire with turn := { s.retire.turn with halt := reason } } : State).turn with halt := s.turn.halt } } [] := by
  have issued := issued_retire s []
  have halt : s.retire.turn.halt = s.turn.halt := by
    have e := congrArg Turn.halt issued.same.turn
    exact e
  rw [← halt]
  exact issued

theorem issued_of_fence (s : State) :
    Issued s { ({ s.retire with turn := { s.retire.turn with fence := true } } : State) with
      turn := { ({ s.retire with turn := { s.retire.turn with fence := true } } : State).turn with fence := s.turn.fence } } [] := by
  have issued := issued_retire s []
  have fence : s.retire.turn.fence = s.turn.fence := by
    have e := congrArg Turn.fence issued.same.turn
    exact e
  rw [← fence]
  exact issued

theorem systemCallsTrap : Claims.SystemCallsTrap := by
  intro s
  have call := show exec .ecall s = execEcall s from rfl
  rw [execEcall, guarded_of_clear (clear_nothing s false)] at call
  have brk := show exec .ebreak s = execEbreak s from rfl
  rw [execEbreak, guarded_of_clear (clear_nothing s false)] at brk
  refine ⟨fun mode => ?_, fun mode => ?_, fun trapped tret halt mode ts => ⟨_, call, ?_⟩, fun ebrk => ?_,
    fun trapped tret halt mode ts ebrk => ⟨_, brk, ?_⟩, fun ebrk => ⟨_, brk, ?_⟩⟩
  · rw [call, if_pos mode]; rfl
  · rw [call, if_neg mode]; rfl
  · rw [if_pos mode]
    exact trapped_raiseAt trapped halt (by rw [mode]; decide) tret ts _ _ _
  · rw [brk, ebrk, if_neg Bool.false_ne_true]; rfl
  · rw [ebrk, if_neg Bool.false_ne_true]
    exact trapped_raiseAt trapped halt mode tret ts _ _ _
  · rw [if_pos ebrk]
    exact ⟨rfl, issued_of_halt s (some 2)⟩

theorem waitHaltFence : Claims.WaitHaltFence := by
  intro s
  have wait := show exec .wfm s = execWfm s from rfl
  rw [execWfm, guarded_of_clear (clear_nothing s false)] at wait
  have halt := show exec .halt s = execHalt s from rfl
  have fence := show exec .fenceI s = execFenceI s from rfl
  rw [execFenceI, guarded_of_clear (clear_nothing s false)] at fence
  refine ⟨fun ready => ?_, fun empty none_pending => ?_, fun mode => ?_, fun mode => ?_, _, fence, rfl, issued_of_fence s⟩
  · refine ⟨_, wait, ?_⟩
    rw [if_neg]
    · exact issued_retire s []
    · rw [Bool.and_eq_true, List.isEmpty_iff, decide_eq_true_eq]
      rintro ⟨empty, none_pending⟩
      rcases ready with some_message | pending
      · exact some_message empty
      · exact pending none_pending
  · rw [wait, if_pos]
    rw [Bool.and_eq_true, List.isEmpty_iff, decide_eq_true_eq]
    exact ⟨empty, none_pending⟩
  · rw [halt, execHalt, if_pos mode]
  · rw [execHalt, if_neg mode, guarded_of_clear (clear_nothing s false)] at halt
    exact ⟨_, halt, rfl, issued_of_halt s (some 3)⟩

/-! ## The return from a trap (R315) -/

theorem code_ofCode {n : Nat} (h : n < 3) : (Mode.ofCode n).code = n := by
  interval_cases n <;> rfl

theorem back_pc (q : SeqSt) (pc : Word) : (q.back pc).pc = pc := by
  unfold SeqSt.back; split
  · rfl
  · split <;> rfl

theorem back_same (q : SeqSt) (pc : Word) : (q.back pc).checked = false ∧ (q.back pc).thr = none ∧ (q.back pc).lc = q.lc := by
  unfold SeqSt.back; split
  · exact ⟨rfl, rfl, rfl⟩
  · split <;> exact ⟨rfl, rfl, rfl⟩

theorem back_of_nothing_held {q : SeqSt} (h : q.held = []) (pc : Word) : q.back pc = q.enter pc := by
  unfold SeqSt.back; rw [h]

theorem back_of_held {q : SeqSt} {x : SeqHold} {r : List SeqHold} (h : q.held = x :: r) (pc : Word) :
    q.back pc = { q.enter pc with
      ended := decide (x.pc = pcField pc) && x.ended, lost := if x.pc = pcField pc then x.lost else 0
      fault := decide (x.pc = pcField pc) && x.fault, held := r } := by
  unfold SeqSt.back; rw [h]
  by_cases same : x.pc = pcField pc
  · simp [same]
  · simp [same, SeqSt.enter]

theorem tretReturns : Claims.TretReturns := by
  intro s
  have run := show exec .tret s = execTret s from rfl
  refine ⟨fun bad => ?_, fun good => ?_⟩
  · rw [run, execTret, if_pos]
    rcases bad with t | ⟨k, two⟩ | three
    · exact .inl t
    · exact .inr (.inl ⟨k, two.ge⟩)
    · exact .inr (.inr three)
  · have below : getBits s.ctx.c.tstatus 4 2 < 3 := by
      rcases good with ⟨-, h⟩ | ⟨-, h⟩ <;> omega
    have legal : ¬ (s.turn.mode = .t ∨ (s.turn.mode = .k ∧ 2 ≤ getBits s.ctx.c.tstatus 4 2) ∨ getBits s.ctx.c.tstatus 4 2 = 3) := by
      rcases good with ⟨mode, h⟩ | ⟨mode, h⟩ <;> simp [mode] <;> omega
    rw [execTret] at run
    dsimp only at run
    rw [if_neg legal, guarded_of_clear (clear_nothing s false)] at run
    refine ⟨_, run, ?_⟩
    simp only [State.ctx_modCtx, State.ctx_turn]
    have seq (q : Fin 4) : (Ctx.tret s.markIssued.ctx).seqs[q] = (s.ctx.seqs[q]).back s.ctx.c.tpc[q] := by
      simp only [Ctx.tret, Ctx.resumeSeqs, Fin.getElem_fin, Vector.getElem_ofFn]; rfl
    refine ⟨code_ofCode below, ?_, ?_, fun q => ?_, fun q => if_pos (Bool.or_true _), rfl, rfl, rfl, rfl, rfl, rfl, rfl, rfl, rfl⟩
    · change getBits (setBits (setBits _ 0 1 _) 8 1 0) 0 1 = _
      rw [getBits_setBits_ne _ _ (by decide) (by decide), getBits_setBits_same _ _ (by decide), getBits, Nat.mod_mod]; rfl
    · change decide (getBits (setBits (setBits _ 0 1 _) 8 1 0) 8 1 = 1) = false
      rw [getBits_setBits_same _ _ (by decide)]; rfl
    · rw [seq q]
      obtain ⟨checked, thr, lc⟩ := back_same (s.ctx.seqs[q]) s.ctx.c.tpc[q]
      refine ⟨back_pc .., checked, thr, lc, fun nothing => ?_, fun h r held => ?_⟩
      · rw [back_of_nothing_held nothing]; exact ⟨rfl, rfl⟩
      · rw [back_of_held held]; exact ⟨rfl, rfl, rfl, rfl⟩

/-- Settles O20: the return gives every sequencer back what its interruption held, where it resumes at the PC that was interrupted. -/
theorem systemInstructions : Obligations.SystemInstructions := ⟨systemCallsTrap, tretReturns, waitHaltFence⟩

end Sys2Proof.Machine
end

section
/-! SUPPORT. Timers, well locks and the ready queue (12_system.md R324 to R329). -/

namespace Sys2Proof.Machine

open Sys2Proof

/-! ## Instructions of mode K -/

theorem kernelOnly_of_kernel {s : State} (mode : s.turn.mode = .k) (r : State → Res) : s.kernelOnly r = r s := if_pos mode

theorem kernelOnly_of_other {s : State} (mode : s.turn.mode ≠ .k) (r : State → Res) : s.kernelOnly r = .next s.illegal := if_neg mode

/-- Fewer registers to check are clear with more. -/
theorem State.Clear.mono {s : State} {srcs dsts srcs' dsts' : List RegRef} (h : s.Clear srcs dsts false)
    (hs : ∀ x ∈ srcs', x ∈ srcs) (hd : ∀ x ∈ dsts', x ∈ dsts) : s.Clear srcs' dsts' false :=
  ⟨fun x hx => h.1 x (hs x hx), fun x hx => ⟨(h.2 x (hd x hx)).1, fun l => absurd l (by decide)⟩⟩

/-! ## Timers and locks -/

theorem fin_of_small {n m : Nat} (x : Word) (h : x.toNat < m) (e : 2 ^ n = m) : (BitVec.toFin (x.setWidth n)).val = x.toNat := by
  change (x.setWidth n).toNat = _
  rw [BitVec.toNat_setWidth, Nat.mod_eq_of_lt (by omega)]

/-- A lock of a range could be granted (R329). -/
def State.lockFree (s : State) (x : Fin 8 × Nat × Nat) : Bool :=
  s.grantedLocks.length < 16 && !s.grantedLocks.any (fun (k, c, n) => k != x.1 && x.2.1 < c + n && c < x.2.1 + x.2.2)

theorem lockFree_iff (s : State) (x : Fin 8 × Nat × Nat) : s.lockFree x = true ↔
    s.grantedLocks.length < 16 ∧ ∀ l ∈ s.grantedLocks, l.1 = x.1 ∨ l.2.1 + l.2.2 ≤ x.2.1 ∨ x.2.1 + x.2.2 ≤ l.2.1 := by
  rcases x with ⟨k, base, len⟩
  simp only [State.lockFree, Bool.and_eq_true, decide_eq_true_eq, Bool.not_eq_true', List.any_eq_false, bne_iff_ne]
  refine and_congr_right fun _ => forall₂_congr fun ⟨j, c, n⟩ _ => ?_
  by_cases same : j = k
  · simp [same]
  · simp only [same, ne_eq, not_false_eq_true, true_and, false_or, not_and]
    omega

theorem fireTimer_nib (s : State) (n : NibId) (k : Fin 8) :
    ((s.fireTimer n k).nib n).tmpend = (s.nib n).tmpend ||| BitVec.twoPow 8 k.val := by
  simp [State.fireTimer, State.modStroke]

theorem fireTimer_stroke (s : State) (n : NibId) (k : Fin 8) :
    (s.fireTimer n k).stroke n k = { s.stroke n k with compare := 0 } := by
  rw [State.fireTimer, State.stroke_modStroke_same, stroke_modNib_same]; rfl

theorem timersAndLocks : Claims.TimersAndLocks := by
  intro s a b
  have tmset := show exec (.tmset a b) s = execTmset a b s from rfl
  rw [execTmset] at tmset
  refine ⟨fun mode clear small => ?_, fun mode => ?_, fun mode clear large => ?_, fun n k armed reached => ?_, fun clear => ?_, fun clear => ?_⟩
  · rw [kernelOnly_of_kernel mode, guarded_of_clear clear, if_neg (Nat.not_le.mpr small)] at tmset
    exact ⟨_, fin_of_small _ small rfl, _, tmset, issued_retire s [(1, .timer (BitVec.toFin ((s.rg a).setWidth 3)) (s.rg b))]⟩
  · rw [tmset, kernelOnly_of_other mode]
  · rw [tmset, kernelOnly_of_kernel mode, guarded_of_clear clear, if_pos large]
  · have fire := show exec (.timerFire n k) s = execTimerFire n k s from rfl
    rw [execTimerFire] at fire
    rw [if_pos ⟨armed, reached⟩] at fire
    exact ⟨_, fire, fireTimer_nib s n k, fireTimer_stroke s n k, rfl⟩
  · intro base len free listed first
    have wlock := show exec (.wlock a b) s = execWlock a b s from rfl
    rw [execWlock, guarded_of_clear clear] at wlock
    have listed_iff : s.cnib.lockWait.any (fun x => x.1 == s.cur.k) = true ↔ listed := by
      simp [listed]
    have first_iff : (s.cnib.lockWait.any (fun x => x.1 == s.cur.k) &&
        (s.cnib.lockWait.takeWhile (fun x => x.1 != s.cur.k)).any s.lockFree) = true ↔ ¬ first := by
      rw [Bool.and_eq_true, listed_iff, List.any_eq_true]
      simp only [first, Classical.not_imp, not_forall, not_not]
      refine and_congr_right fun _ => exists_congr fun x => ?_
      rw [lockFree_iff]
    change _ = Host.Outcome.next (if base % 64 ≠ 0 ∨ len % 64 ≠ 0 ∨ len < 64 ∨ windowEnd < len ∨ windowEnd < base + len then _
      else if !s.lockFree (s.cur.k, base, len) || (s.cnib.lockWait.any (fun x => x.1 == s.cur.k) &&
        (s.cnib.lockWait.takeWhile (fun x => x.1 != s.cur.k)).any s.lockFree) then
          (if s.cnib.lockWait.any (fun x => x.1 == s.cur.k) then s
            else s.modNib s.cur.nib (fun y => { y with lockWait := y.lockWait ++ [(s.cur.k, base, len)] })).waitMsg
      else ((s.unwaitLock s.cur.nib s.cur.k).land 1 (.lock base len)).retire) at wlock
    refine ⟨fun base_aligned len_aligned some_bytes inside => ?_, fun bad => ?_⟩
    · rw [if_neg (by simp only [windowEnd]; omega)] at wlock
      refine ⟨fun is_free is_first => ⟨_, wlock, ?_⟩, fun blocked => ?_⟩
      · rw [if_neg]
        · exact issued_retire (s.unwaitLock s.cur.nib s.cur.k) [(1, .lock base len)]
        · rw [Bool.or_eq_true, first_iff, (lockFree_iff s _).mpr is_free]
          simp [is_first]
      · rw [if_pos] at wlock
        · refine ⟨fun l => ?_, fun l => ?_⟩
          · rw [wlock, if_pos (listed_iff.mpr l)]
          · rw [wlock, if_neg (fun h => l (listed_iff.mp h))]
        · rw [Bool.or_eq_true, first_iff, Bool.not_eq_true', ← Bool.not_eq_true, lockFree_iff]
          exact blocked
    · rw [wlock, if_pos (by simp only [windowEnd]; omega)]; rfl
  · have unlock := show exec (.wunlock a) s = execWunlock a s from rfl
    rw [execWunlock, guarded_of_clear clear] at unlock
    refine ⟨fun held => ?_, fun not_held => ?_⟩
    · rw [if_pos (by simpa using held)] at unlock
      exact ⟨_, unlock, issued_retire s [(1, .unlock (s.rg a).toNat)]⟩
    · rw [if_neg (by simpa using not_held)] at unlock
      exact unlock

/-! ## The ready queue -/

section
variable (b : Nib) (x y : Fin 64) (st : RqState) (wake : Bool)

@[simp] theorem rq_setRq_same : (b.setRq x st wake).rq[x] = { b.rq[x] with st := st, wakePend := wake } := Vector.getElem_set_self _

theorem rq_setRq_ne (h : y ≠ x) : (b.setRq x st wake).rq[y] = b.rq[y] :=
  Vector.getElem_set_ne x.isLt y.isLt (Fin.val_ne_of_ne h.symm)

@[simp] theorem rqLists_setRq : (b.setRq x st wake).rqLists = b.rqLists := rfl

@[simp] theorem waiting_setRq : (b.setRq x st wake).waiting = b.waiting := rfl

theorem rq_rqTaken_same : (b.rqTaken x).rq[x] = { b.rq[x] with ran := true } := Vector.getElem_set_self _

@[simp] theorem rq_rqReady_same : (b.rqReady x wake).rq[x] = { b.rq[x] with st := .ready, wakePend := wake } := rq_setRq_same ..

/-- The id takes a tag (R325). -/
def Nib.tagged (b : Nib) (x : Fin 64) (tag : Clk) : Nib := { b with rq := b.rq.set x { b.rq[x] with tag := tag } }

@[simp] theorem rq_tagged_same (tag : Clk) : (b.tagged x tag).rq[x] = { b.rq[x] with tag := tag } := Vector.getElem_set_self _

@[simp] theorem rqLists_rqReady_same : (b.rqReady x wake).rqLists[rqPrio x] = b.rqLists[rqPrio x] ++ [x] := Vector.getElem_set_self _

end

theorem State.cnib_of_cur {s t : State} (h : t.cur = s.cur) : t.cnib = t.nib s.cur.nib := by rw [State.cnib, h]

/-- What an instruction of the ready queue that changes its nib leaves (R325). -/
structure RqDone (s t : State) (n : Nib) (es : List (Nat × Eff)) (agenda : List (Nat × Instr)) : Prop where
  rq : t.cnib.rq = n.rq
  rqLists : t.cnib.rqLists = n.rqLists
  issued : t.turn.issued = s.turn.issued ++ [s.cur.q]
  regs : t.ctx.r = s.ctx.r
  mem : t.mem = s.mem
  events : t.agenda = agenda
  effects : t.ctx.inflight = s.ctx.inflight ++ es.map (fun e => ⟨s.tn + e.1, s.tn, s.cur.q, e.2⟩)

theorem rqDone_retire (s : State) (n : Nib) (strokes : n.strokes = s.cnib.strokes) (es : List (Nat × Eff)) (agenda : List (Nat × Instr)) :
    RqDone s ((({ s.setNib s.cur.nib n with agenda := agenda } : State).lands es).retire) n es agenda := by
  have issued := issued_retire { s.setNib s.cur.nib n with agenda := agenda } es
  have same := issued.same
  have nib : (s.setNib s.cur.nib n).cnib = n := State.nib_setNib_same ..
  have ctx : (s.setNib s.cur.nib n).ctx = s.ctx :=
    congrArg (fun v : Vector Stroke 8 => v[s.cur.k].ctx) ((congrArg Nib.strokes nib).trans strokes)
  have cnib := State.cnib_of_cur same.cur_eq
  have rq := congrArg Nib.rq same.nib
  have rqLists := congrArg Nib.rqLists same.nib
  have events := congrArg State.agenda same.machine
  exact ⟨(congrArg Nib.rq cnib).trans (rq.trans (congrArg Nib.rq nib)),
    (congrArg Nib.rqLists cnib).trans (rqLists.trans (congrArg Nib.rqLists nib)),
    issued.marked, same.regs_eq.trans (congrArg Ctx.r ctx), same.mem_eq, events,
    issued.effects.trans (congrArg (fun c : Ctx => c.inflight ++ _) ctx)⟩

section
variable {s t : State} {n : Nib} {es : List (Nat × Eff)} {agenda : List (Nat × Instr)} (h : RqDone s t n es agenda)
include h

theorem RqDone.rq_at (x : Fin 64) : t.cnib.rq[x] = n.rq[x] := congrArg (fun v : Vector RqId 64 => v[x]) h.rq

theorem RqDone.list_at (p : Fin 4) : t.cnib.rqLists[p] = n.rqLists[p] := congrArg (fun v : Vector (List (Fin 64)) 4 => v[p]) h.rqLists

end

/-! The table of states (R324), instruction by instruction. -/

section
variable (b : Nib) (x : Fin 64)

theorem rqPush_eq_some (h : b.rq[x].st = .free ∨ b.rq[x].st = .sleeping ∨ b.rq[x].st = .saving) :
    b.rqPush x = some (b.rqReady x (b.rq[x].wakePend && decide (b.rq[x].st ≠ .saving))) := by
  rcases h with h | h | h <;> rw [Nib.rqPush, h] <;> simp

theorem rqPush_eq_none (h : b.rq[x].st = .ready ∨ b.rq[x].st = .running) : b.rqPush x = none := by
  rcases h with h | h <;> rw [Nib.rqPush, h]

theorem rqPark_of_running (h : b.rq[x].st = .running) : b.rqPark x = some (b.setRq x .sleeping b.rq[x].wakePend) := by
  rw [Nib.rqPark, h]

theorem rqPark_of_saving (h : b.rq[x].st = .saving) :
    b.rqPark x = some (if b.rq[x].wakePend then b.rqReady x false else b.setRq x .sleeping false) := by
  rw [Nib.rqPark, h]

theorem rqPark_eq_none (h : b.rq[x].st = .free ∨ b.rq[x].st = .ready ∨ b.rq[x].st = .sleeping) : b.rqPark x = none := by
  rcases h with h | h | h <;> rw [Nib.rqPark, h]

/-- What `rqstate` makes of an id (R324); none is ILLEGAL. -/
def RqId.change (r : RqId) (save free : Bool) : Option RqId :=
  match r.st with
  | .free => some r
  | .ready => if free then none else some r
  | .running => some (if save then { r with st := .saving } else if free then { r with st := .free, wakePend := false } else r)
  | .sleeping => some (if free then { r with st := .free, wakePend := false } else r)
  | .saving => some (if free then { r with st := .free, wakePend := false } else r)

theorem rqChange_eq (save free : Bool) :
    b.rqChange x save free = (b.rq[x].change save free).map (fun r => { b with rq := b.rq.set x r }) := by
  rw [Nib.rqChange, RqId.change]
  cases b.rq[x].st <;> cases save <;> cases free <;> simp [Nib.setRq]

theorem rqPop_eq_none (h : ∀ p : Fin 4, b.rqLists[p] = []) : b.rqPop = none := by
  have none_found : [0, 1, 2, 3].find? (fun i => !b.rqLists[(i : Fin 4)].isEmpty) = none :=
    List.find?_eq_none.mpr fun i _ => by rw [h i]; simp
  simp only [Nib.rqPop, none_found]

theorem rqPop_eq_some {p : Fin 4} {l : List (Fin 64)} (above : ∀ o : Fin 4, o < p → b.rqLists[o] = []) (head : b.rqLists[p] = x :: l) :
    b.rqPop = some (x, (({ b with rqLists := b.rqLists.set p l }).setRq x .running b.rq[x].wakePend).rqTaken x) := by
  have found : [0, 1, 2, 3].find? (fun i => !b.rqLists[(i : Fin 4)].isEmpty) = some p := by
    have cut : [0, 1, 2, 3] = (List.finRange 4).take p ++ p :: (List.finRange 4).drop (p + 1) := by
      fin_cases p <;> rfl
    rw [cut]
    refine find?_cut (fun o ho => ?_) (by simp [head])
    have below : o < p := by
      revert ho; revert o; fin_cases p <;> decide
    rw [above o below]; rfl
  simp only [Nib.rqPop, found]
  rw [head]

end

/-- The operand of `rqstate`: an id with SAVE in bit 8 and FREE in bit 9 (R325). -/
theorem rqstate_operand (x : Fin 64) (save free : Bool) (one : save = false ∨ free = false) (w : Word)
    (h : w.toNat = x.val + save.toNat * 0x100 + free.toNat * 0x200) :
    w &&& ~~~ 0x33F = 0 ∧ w.getLsbD 8 = save ∧ w.getLsbD 9 = free ∧ BitVec.toFin (w.setWidth 6) = x := by
  have e : w = BitVec.ofNat 64 (x.val + save.toNat * 0x100 + free.toNat * 0x200) := by
    rw [← h, BitVec.ofNat_toNat, BitVec.setWidth_eq]
  subst e
  clear h
  revert x
  cases save <;> cases free <;> simp at one <;> decide

/-! The instructions, once their checks are passed. -/

section
variable {s : State} {a b d : Fin 32} {x : Fin 64} (mode : s.turn.mode = .k)
include mode

theorem exec_rqpush (clear : s.Clear [.g a, .g b] [] false) (small : (s.rg a).toNat < 64)
    (named : BitVec.toFin ((s.rg a).setWidth 6) = x) : exec (.rqpush a b) s = .next (match s.cnib.rqPush x with
      | none => s.illegalVal (s.rg a)
      | some n => (s.setNib s.cur.nib (n.tagged x ((s.rg b).setWidth 48))).retire) := by
  have run := show exec (.rqpush a b) s = execRqpush a b s from rfl
  rw [execRqpush, kernelOnly_of_kernel mode, guarded_of_clear clear] at run
  dsimp only at run
  rw [if_neg (Nat.not_le.mpr small)] at run
  subst named
  exact run

theorem exec_rqpark (clear : s.Clear [.g a] [] false) (small : (s.rg a).toNat < 64)
    (named : BitVec.toFin ((s.rg a).setWidth 6) = x) : exec (.rqpark a) s = .next (match s.cnib.rqPark x with
      | none => s.illegalVal (s.rg a)
      | some n => (s.setNib s.cur.nib n).retire) := by
  have run := show exec (.rqpark a) s = execRqpark a s from rfl
  rw [execRqpark, kernelOnly_of_kernel mode, guarded_of_clear clear] at run
  dsimp only at run
  rw [if_neg (Nat.not_le.mpr small)] at run
  subst named
  exact run

theorem exec_rqstate (clear : s.Clear [.g a] [.g d] false) (legal : s.rg a &&& ~~~ 0x33F = 0) {save free : Bool}
    (save_bit : (s.rg a).getLsbD 8 = save) (free_bit : (s.rg a).getLsbD 9 = free) (one : save = false ∨ free = false)
    (named : BitVec.toFin ((s.rg a).setWidth 6) = x) :
    exec (.rqstate d a) s = .next (match s.cnib.rq[x].change save free with
      | none => s.illegalVal (s.rg a)
      | some r =>
        let t := s.setNib s.cur.nib { s.cnib with rq := s.cnib.rq.set x r }
        ((if free && !s.cnib.waiting.isEmpty then t.schedule s.cycle (.loadBalance (.refill s.cur.nib)) else t).landG 1 d
          (BitVec.ofNat 64 (s.cnib.rq[x].tag.toNat * 2 ^ 8 + s.cnib.rq[x].wakePend.toNat * 8 + s.cnib.rq[x].st.code))).retire) := by
  have run := show exec (.rqstate d a) s = execRqstate d a s from rfl
  rw [execRqstate, kernelOnly_of_kernel mode, guarded_of_clear clear] at run
  dsimp only at run
  rw [if_neg, rqChange_eq] at run
  · subst named save_bit free_bit
    rw [run]
    cases s.cnib.rq[BitVec.toFin ((s.rg a).setWidth 6)].change ((s.rg a).getLsbD 8) ((s.rg a).getLsbD 9) <;> rfl
  · rw [save_bit, free_bit, legal]
    rcases one with h | h <;> simp [h]

end

theorem readyQueueTable : Claims.ReadyQueueTable := by
  intro s a b d x r tail hr htail
  have push := show exec (.rqpush a b) s = execRqpush a b s from rfl
  have pop := show exec (.rqpop d) s = execRqpop d s from rfl
  have park := show exec (.rqpark a) s = execRqpark a s from rfl
  have state := show exec (.rqstate d a) s = execRqstate d a s from rfl
  refine ⟨fun mode => ?_, fun mode clear => ?_⟩
  · simp only [List.forall_mem_cons, List.not_mem_nil, false_implies, implies_true, and_true]
    exact ⟨push.trans (kernelOnly_of_other mode _), pop.trans (kernelOnly_of_other mode _),
      park.trans (kernelOnly_of_other mode _), state.trans (kernelOnly_of_other mode _)⟩
  rw [execRqpush, kernelOnly_of_kernel mode, guarded_of_clear (clear.mono (by simp) (by simp))] at push
  rw [execRqpop, kernelOnly_of_kernel mode, guarded_of_clear (clear.mono (by simp) (by simp))] at pop
  rw [execRqpark, kernelOnly_of_kernel mode, guarded_of_clear (clear.mono (by simp) (by simp))] at park
  rw [execRqstate, kernelOnly_of_kernel mode, guarded_of_clear (clear.mono (by simp) (by simp))] at state
  dsimp only at push pop park state
  refine ⟨fun id => ?_, fun large => ?_, fun reserved => ?_, fun save free one id => ?_, fun empty => ?_, fun p l above head => ?_⟩
  · have small : (s.rg a).toNat < 64 := by omega
    have named : BitVec.toFin ((s.rg a).setWidth 6) = x := Fin.ext ((fin_of_small _ small rfl).trans id)
    have push := exec_rqpush (b := b) mode (clear.mono (by simp) (by simp)) small named
    have park := exec_rqpark mode (clear.mono (by simp) (by simp)) small named
    subst hr htail
    refine ⟨fun st => ?_, fun st => ?_, fun st => ?_, fun st wake => ?_, fun st wake => ?_, fun st => ?_⟩
    · rw [rqPush_eq_some _ _ st] at push
      have done := rqDone_retire s ((s.cnib.rqReady x (s.cnib.rq[x].wakePend && decide (s.cnib.rq[x].st ≠ .saving))).tagged x
        ((s.rg b).setWidth 48)) rfl [] s.agenda
      refine ⟨_, push, (done.rq_at x).trans ?_, (done.list_at _).trans ?_, done.issued, done.regs, done.mem⟩
      · rw [rq_tagged_same, rq_rqReady_same]
      · exact rqLists_rqReady_same ..
    · rw [rqPush_eq_none _ _ st] at push
      exact push
    · rw [rqPark_of_running _ _ st] at park
      have done := rqDone_retire s (s.cnib.setRq x .sleeping s.cnib.rq[x].wakePend) rfl [] s.agenda
      exact ⟨_, park, (done.rq_at _).trans (rq_setRq_same ..), done.rqLists, done.issued⟩
    · rw [rqPark_of_saving _ _ st, if_pos wake] at park
      have done := rqDone_retire s (s.cnib.rqReady x false) rfl [] s.agenda
      exact ⟨_, park, (done.rq_at _).trans (rq_rqReady_same ..), (done.list_at _).trans (rqLists_rqReady_same ..), done.issued⟩
    · rw [rqPark_of_saving _ _ st, if_neg (by rw [wake]; exact Bool.false_ne_true)] at park
      have done := rqDone_retire s (s.cnib.setRq x .sleeping false) rfl [] s.agenda
      refine ⟨_, park, (done.rq_at _).trans ((rq_setRq_same ..).trans ?_), done.rqLists⟩
      rw [wake]
    · rw [rqPark_eq_none _ _ st] at park
      exact park
  · rw [if_pos large] at push park
    exact ⟨push, park⟩
  · rw [state, if_pos (by simpa using reserved)]; rfl
  · intro freed change
    obtain ⟨allowed, save_bit, free_bit, named⟩ := rqstate_operand x save free one (s.rg a) id
    have run := exec_rqstate (d := d) mode (clear.mono (by simp) (by simp)) allowed save_bit free_bit one named
    have change_eq : s.cnib.rq[x].change save free = change := by
      simp only [change, freed, RqId.change, hr] <;> cases s.cnib.rq[x].st <;> rfl
    rw [change_eq] at run
    refine ⟨fun none_left => ?_, fun r' some_left => ?_⟩
    · rw [none_left] at run
      exact run
    · rw [some_left] at run
      refine ⟨_, run, ?_⟩
      have done := rqDone_retire s { s.cnib with rq := s.cnib.rq.set x r' } rfl (gWrite 1 d
        (BitVec.ofNat 64 (s.cnib.rq[x].tag.toNat * 2 ^ 8 + s.cnib.rq[x].wakePend.toNat * 8 + s.cnib.rq[x].st.code)))
        (s.agenda ++ (if free = true ∧ s.cnib.waiting ≠ [] then [(s.cycle, .loadBalance (.refill s.cur.nib))] else []))
      have state : (if (free && !s.cnib.waiting.isEmpty) = true then
            (s.setNib s.cur.nib { s.cnib with rq := s.cnib.rq.set x r' }).schedule s.cycle (.loadBalance (.refill s.cur.nib))
          else s.setNib s.cur.nib { s.cnib with rq := s.cnib.rq.set x r' }) =
          { s.setNib s.cur.nib { s.cnib with rq := s.cnib.rq.set x r' } with
            agenda := s.agenda ++ (if free = true ∧ s.cnib.waiting ≠ [] then [(s.cycle, .loadBalance (.refill s.cur.nib))] else []) } := by
        have test : ((free && !s.cnib.waiting.isEmpty) = true) = (free = true ∧ s.cnib.waiting ≠ []) := by simp
        simp only [test]
        split
        · rfl
        · rw [List.append_nil]; rfl
      dsimp only
      rw [state, State.landG_eq]
      subst hr
      exact ⟨(done.rq_at x).trans (Vector.getElem_set_self _), fun y other =>
        (done.rq_at y).trans (Vector.getElem_set_ne x.isLt y.isLt (Fin.val_ne_of_ne other.symm)), done.rqLists, done.issued, done.regs,
        done.mem, done.events, done.effects⟩
  · rw [rqPop_eq_none _ empty] at pop
    refine ⟨_, pop, ?_⟩
    rw [State.landG_eq]
    exact issued_retire s _
  · rw [rqPop_eq_some _ x above head] at pop
    let popped := (({ s.cnib with rqLists := s.cnib.rqLists.set p l } : Nib).setRq x .running s.cnib.rq[x].wakePend).rqTaken x
    have taken : popped.rq[x] = { s.cnib.rq[x] with st := .running, ran := true } := by
      rw [rq_rqTaken_same, rq_setRq_same]
    have value : (BitVec.ofNat 64 (2 ^ 63 + (popped.rq[x].tag.toNat % 2 ^ 48) * 2 ^ 8 + x.val) : Word) =
        BitVec.ofNat 64 (2 ^ 63 + r.tag.toNat * 2 ^ 8 + x.val) := by
      rw [taken, Nat.mod_eq_of_lt (BitVec.isLt _), hr]
    have done := rqDone_retire s popped rfl (gWrite 1 d (BitVec.ofNat 64 (2 ^ 63 + r.tag.toNat * 2 ^ 8 + x.val))) s.agenda
    have run : exec (.rqpop d) s = .next (((s.setNib s.cur.nib popped).landG 1 d (BitVec.ofNat 64
      (2 ^ 63 + (popped.rq[x].tag.toNat % 2 ^ 48) * 2 ^ 8 + x.val))).retire) := pop
    rw [State.landG_eq, value] at run
    refine ⟨_, run, ?_⟩
    exact ⟨(done.rq_at x).trans (hr ▸ taken), (done.list_at p).trans (Vector.getElem_set_self _), done.effects⟩

/-- Settles O21: each ready-queue instruction is a change of one id by the table, and then retires. -/
theorem timersLocksAndReadyQueue : Obligations.TimersLocksAndReadyQueue := ⟨timersAndLocks, readyQueueTable⟩

end Sys2Proof.Machine
end

section
/-! SUPPORT. Interrupts and delivered causes (09_matrix.md R244, 12_system.md R311 to R314). -/

namespace Sys2Proof.Machine

open Sys2Proof

/-! ## The bits of `tip` (R312) -/

theorem tip_of_other (x : Nib) {k : Fin 8} (h : k ≠ 7) :
    x.tip k = if (x.strokes[k]).mailbox.isEmpty then 0 else BitVec.twoPow 64 7 := by
  simp only [Nib.tip, if_neg h]
  split <;> rfl

theorem ofNat_ite_add_ite (p q : Prop) [Decidable p] [Decidable q] :
    BitVec.ofNat 64 ((if p then 0 else 2 ^ 7) + if q then 0 else 2 ^ 5) =
      (if p then 0 else BitVec.twoPow 64 7) ||| (if q then 0 else BitVec.twoPow 64 5) := by
  by_cases hp : p <;> by_cases hq : q <;> simp only [hp, hq, if_true, if_false] <;> rfl

theorem tip_of_seven (x : Nib) : x.tip 7 =
    ((if (x.strokes[7]).mailbox.isEmpty then 0 else BitVec.twoPow 64 7) ||| (if x.tmpend = 0 then 0 else BitVec.twoPow 64 5)) |||
      ((x.strokes[7]).ctx.c.tip &&& (BitVec.twoPow 64 1 ||| BitVec.twoPow 64 9 ||| BitVec.twoPow 64 11)) := by
  simp only [Nib.tip, if_pos]
  congr 1
  exact ofNat_ite_add_ite ..

theorem getLsbD_ite_twoPow {c : Prop} [Decidable c] {i : Nat} (hi : i < 64) (j : Nat) :
    (if c then 0 else BitVec.twoPow 64 i : Word).getLsbD j = (decide (j = i) && decide (¬ c)) := by
  split
  · next h => simp [h]
  · next h => simp [h, BitVec.getLsbD_twoPow, hi, eq_comm]

theorem pendingInterrupts : Claims.PendingInterrupts := by
  intro x k
  have seven (i : Nat) : (x.tip 7).getLsbD i = ((decide (i = 7) && decide (¬ (x.strokes[7]).mailbox.isEmpty = true) ||
      decide (i = 5) && decide (¬ x.tmpend = 0)) ||
      ((x.strokes[7]).ctx.c.tip.getLsbD i && (decide (1 = i) || decide (9 = i) || decide (11 = i)))) := by
    simp only [tip_of_seven, BitVec.getLsbD_or, BitVec.getLsbD_and, getLsbD_ite_twoPow (show 7 < 64 by decide),
      getLsbD_ite_twoPow (show 5 < 64 by decide), BitVec.getLsbD_twoPow]
    simp
  refine ⟨?_, fun other i hi => ?_, ?_, fun i hi => ?_, fun i hi => ?_⟩
  · by_cases h : k = 7
    · subst h; rw [seven]; simp
    · rw [tip_of_other x h, getLsbD_ite_twoPow (by decide)]; simp
  · rw [tip_of_other x other, getLsbD_ite_twoPow (by decide), decide_eq_false hi, Bool.false_and]
  · rw [seven]; simp
  · rw [seven]
    simp only [List.mem_cons, List.not_mem_nil, or_false] at hi
    rcases hi with rfl | rfl | rfl <;> simp
  · rw [seven]
    simp only [List.mem_cons, List.not_mem_nil, or_false, not_or] at hi
    obtain ⟨h1, h5, h7, h9, h11⟩ := hi
    simp [h5, h7, Ne.symm h1, Ne.symm h9, Ne.symm h11]

/-! ## What the end of a turn leaves alone -/

theorem stroke_modNib_of_strokes (s : State) (n m : NibId) (k : Fin 8) (f : Nib → Nib) (h : ∀ b, (f b).strokes = b.strokes) :
    (s.modNib n f).stroke m k = s.stroke m k := by
  by_cases same : m = n
  · subst same
    rw [stroke_modNib_same]
    exact congrArg (fun v : Vector Stroke 8 => v[k]) (h _)
  · exact stroke_modNib_ne s n k f same

section
variable (s : State) (n : NibId) (cid : Nat)

theorem withdraw_stroke (m : NibId) (k : Fin 8) : (s.withdraw n cid).stroke m k = s.stroke m k := by
  rw [State.withdraw]
  dsimp only
  split
  · rfl
  · split
    · rw [stroke_modNib_of_strokes _ _ _ _ _ (by exact fun _ => rfl)]; rfl
    · rw [stroke_schedule, stroke_modNib_of_strokes _ _ _ _ _ (by exact fun _ => rfl)]; rfl

theorem withdraw_mem : (s.withdraw n cid).mem = s.mem := by
  rw [State.withdraw]
  dsimp only
  split
  · rfl
  · split <;> rfl

end

/-- What an interruption leaves of its own context is what `freeze` leaves. -/
theorem interrupt_stroke (s : State) (n : NibId) (k : Fin 8) :
    (s.interrupt n k).stroke n k = { s.stroke n k with ctx := (s.stroke n k).ctx.freeze s.tn } := by
  rw [State.interrupt, State.unwaitLock, stroke_modNib_of_strokes, withdraw_stroke, stroke_modCtxAt_same]
  exact fun _ => rfl

theorem interrupt_mem (s : State) (n : NibId) (k : Fin 8) : (s.interrupt n k).mem = s.mem :=
  withdraw_mem (s.modCtxAt n k (fun c => c.freeze s.tn)) n _

section
variable (c : Ctx) (tn : Nat)

theorem recount_same : (c.recount tn).c = c.c ∧ (c.recount tn).r = c.r ∧ (c.recount tn).x = c.x ∧ (c.recount tn).seqs = c.seqs ∧
    (c.recount tn).causes = c.causes := by
  rw [Ctx.recount]
  split <;> exact ⟨rfl, rfl, rfl, rfl, rfl⟩

/-- An interruption changes of the context only what is on its way (R63). -/
theorem freeze_same : (c.freeze tn).c = c.c ∧ (c.freeze tn).r = c.r ∧ (c.freeze tn).x = c.x ∧ (c.freeze tn).seqs = c.seqs ∧
    (c.freeze tn).causes = c.causes := recount_same c tn

end

/-- Entering the handler (R313). -/
theorem trapEntry_takeTrap (c : Ctx) (code val seq : Word) (m : Mode) : TrapEntry c (c.takeTrap code val seq m c.seqs) m code val seq := by
  constructor
  case cause | val | seq | mode | regs => rfl
  case tpc =>
    intro q
    simp only [Ctx.takeTrap, Fin.getElem_fin, Vector.getElem_map]; rfl
  case pprv => exact getBits_trapStatus_pprv ..
  case pie => exact getBits_trapStatus_pie ..
  case ie => exact getBits_trapStatus_ie ..
  case ts => exact decide_eq_true (getBits_trapStatus_ts ..)
  case start =>
    intro q
    simp only [Ctx.takeTrap, Fin.getElem_fin, Vector.getElem_map]
    exact ⟨rfl, rfl⟩

/-- What stays of a trap's entry when the stroke's results are kept. -/
theorem TrapEntry.of_same {c d e : Ctx} {m : Mode} {code val seq : Word} (h : TrapEntry c d m code val seq) (hc : e.c = d.c)
    (hr : e.r = d.r) (hs : e.seqs = d.seqs) : TrapEntry c e m code val seq := by
  obtain ⟨h1, h2, h3, h4, h5, h6, h7, h8, h9, h10, h11⟩ := h
  constructor
  case start => rw [hs]; exact h10
  case regs => rw [hr]; exact h11
  all_goals rw [hc]; assumption

@[simp] theorem stroke_turn (s : State) (t : Turn) (n : NibId) (k : Fin 8) : ({ s with turn := t } : State).stroke n k = s.stroke n k := rfl

theorem takeAtEnd_stroke (s : State) (n : NibId) (k : Fin 8) (code val : Word) :
    ((s.takeAtEnd n k code val).stroke n k) = { s.stroke n k with
      status := .running
      ctx := ((s.stroke n k).ctx.takeTrap code val 0 (s.stroke n k).ctx.c.mode (s.stroke n k).ctx.seqs).freeze s.tn } := by
  rw [State.takeAtEnd]
  dsimp only
  rw [stroke_turn, State.stroke_modStroke_same, interrupt_stroke, stroke_modCtxAt_same, State.tn, State.modCtxAt_cycle]
  rfl

theorem trapEntry_takeAtEnd (s : State) (n : NibId) (k : Fin 8) (code val : Word) :
    TrapEntry (s.stroke n k).ctx ((s.takeAtEnd n k code val).stroke n k).ctx (s.stroke n k).ctx.c.mode code val 0 := by
  rw [takeAtEnd_stroke]
  obtain ⟨hc, hr, -, hs, -⟩ := freeze_same ((s.stroke n k).ctx.takeTrap code val 0 (s.stroke n k).ctx.c.mode (s.stroke n k).ctx.seqs) s.tn
  exact (trapEntry_takeTrap ..).of_same hc hr hs

theorem takeAtEnd_mem (s : State) (n : NibId) (k : Fin 8) (code val : Word) : (s.takeAtEnd n k code val).mem = s.mem :=
  interrupt_mem (s.modCtxAt n k _) n k

theorem takeAtEnd_causes (s : State) (n : NibId) (k : Fin 8) (code val : Word) :
    ((s.takeAtEnd n k code val).stroke n k).ctx.causes = (s.stroke n k).ctx.causes := by
  rw [takeAtEnd_stroke]
  exact (freeze_same _ _).2.2.2.2

/-! ## Interrupts and causes at the end of a turn -/

theorem awakeStroke_of {s : State} {n : NibId} {k : Fin 8}
    (h : (s.stroke n k).status = .running ∨ ∃ ws, (s.stroke n k).status = .parked ws) : s.awakeStroke n k = true := by
  rcases h with h | ⟨ws, h⟩ <;> rw [State.awakeStroke, h]

/-- The interrupts in their order, each with those that go before it and with its value (R312). -/
theorem find?_interrupt {p : Word} {i : Nat} {before after : List Nat} (cut : [9, 11, 5, 7, 1] = before ++ i :: after)
    (hi : p.getLsbD i = true) (none_before : ∀ j ∈ before, p.getLsbD j = false) :
    [9, 11, 5, 7, 1].find? (fun i => p.getLsbD i) = some i := by
  rw [cut]; exact find?_cut none_before hi

theorem interruptsAreTaken : Claims.InterruptsAreTaken := by
  rintro s n k c rfl trapped halt served awake
  have run := show exec (.takeInterrupt n k) s = execTakeInterrupt n k s from rfl
  rw [execTakeInterrupt, awakeStroke_of awake, State.turnSpoilt, trapped, halt, served] at run
  refine ⟨fun none_taken => ?_, fun ie ts mode r hr pending none_before => ?_⟩
  · have nothing : s.pendingInt n k = none := by
      simp only [State.pendingInt]
      rcases none_taken with ie | ts | mode | none_pending
      · simp [ie]
      · simp [ts]
      · simp [mode]
      · simp [none_pending]
    rw [nothing] at run
    exact run
  · have pendingInt : s.pendingInt n k = some r.1 := by
      simp only [State.pendingInt, ie, ts, bne_iff_ne.mpr mode, decide_true, Bool.not_false, Bool.and_self, if_true]
      simp only [List.mem_cons, List.not_mem_nil, or_false] at hr
      rcases hr with rfl | rfl | rfl | rfl | rfl
      · exact find?_interrupt (before := []) rfl pending (by simp)
      · exact find?_interrupt (before := [9]) rfl pending none_before
      · exact find?_interrupt (before := [9, 11]) rfl pending none_before
      · exact find?_interrupt (before := [9, 11, 5]) rfl pending none_before
      · exact find?_interrupt (before := [9, 11, 5, 7]) rfl pending none_before
    rw [pendingInt] at run
    have taken : exec (.takeInterrupt n k) s = .next (s.takeAtEnd n k (BitVec.ofNat 64 (2 ^ 63 + r.1)) r.2.2) := by
      rw [run]
      simp only [List.mem_cons, List.not_mem_nil, or_false] at hr
      rcases hr with rfl | rfl | rfl | rfl | rfl <;> rfl
    refine ⟨_, taken, trapEntry_takeAtEnd .., ?_, rfl, takeAtEnd_mem ..⟩
    rw [takeAtEnd_stroke]

/-! ## Delivered causes -/

theorem modCid_of_resident {s : State} {n : NibId} {k : Fin 8} {cid : Nat} (here : s.hasCid n k cid = true)
    (first : ∀ j, j < k → s.hasCid n j cid = false) (f : Ctx → Ctx) : s.modCid n cid f = s.modCtxAt n k f := by
  have cut : List.finRange 8 = (List.finRange 8).take k ++ k :: (List.finRange 8).drop (k + 1) := by
    fin_cases k <;> rfl
  have found : (List.finRange 8).find? (fun k => s.hasCid n k cid) = some k := by
    rw [cut]
    refine find?_cut (fun j hj => first j ?_) here
    revert hj; revert j; fin_cases k <;> decide
  simp only [State.modCid, found]

/-- A list cut at a place where a test stops holding. -/
theorem takeWhile_cut {α : Type} {p : α → Bool} {pre post : List α} (hpre : ∀ y ∈ pre, p y = true)
    (hpost : ∀ y, post.head? = some y → p y = false) :
    (pre ++ post).takeWhile p = pre ∧ (pre ++ post).dropWhile p = post := by
  have stop : post.takeWhile p = [] ∧ post.dropWhile p = post := by
    cases post with
    | nil => exact ⟨rfl, rfl⟩
    | cons y r => simp [hpost y rfl]
  rw [List.takeWhile_append_of_pos hpre, List.dropWhile_append_of_pos hpre, stop.1, stop.2, List.append_nil]
  exact ⟨rfl, rfl⟩

theorem deliveredCausesAreTaken : Claims.DeliveredCausesAreTaken := by
  rintro s n k c x r rfl causes awake
  have run := show exec (.deliveredCause n k) s = execDeliveredCause n k s from rfl
  simp only [execDeliveredCause, causes, awakeStroke_of awake, State.turnSpoilt] at run
  refine ⟨fun trapped tret halt ts due served => ?_, fun waits => ?_, fun pre post code v resident first split before after => ?_⟩
  · rw [trapped, halt, tret, ts, decide_eq_true due, served] at run
    change exec (.deliveredCause n k) s = if _ then _ else _ at run
    refine ⟨fun mode => ?_, fun mode => ?_⟩
    · rw [if_neg mode] at run
      have entry := trapEntry_takeAtEnd (s.modCtxAt n k (fun c => { c with causes := r })) n k (x.code.setWidth 64) x.val
      have left := takeAtEnd_causes (s.modCtxAt n k (fun c => { c with causes := r })) n k (x.code.setWidth 64) x.val
      rw [stroke_modCtxAt_same] at entry left
      obtain ⟨h1, h2, h3, h4, h5, h6, h7, h8, h9, h10, h11⟩ := entry
      refine ⟨_, run, ⟨h1, h2, h3, h4, h5, h6, h7, h8, h9, h10, h11⟩, left, ?_, takeAtEnd_mem ..⟩
      rw [takeAtEnd_stroke]
    · rw [if_pos mode] at run
      refine ⟨_, run, rfl, ?_, ?_⟩ <;> rw [stroke_turn, State.stroke_modStroke_same, stroke_modCtxAt_same]
  · rw [run, if_neg]
    rcases waits with h | h | h | h <;> simp [h]
  · rw [State.deliver, modCid_of_resident (by simp [State.hasCid, resident]) first, stroke_modCtxAt_same]
    obtain ⟨take, drop⟩ := takeWhile_cut (p := fun (y : Cause) => y.arose < s.cycle || (y.arose == s.cycle && y.code.toNat ≤ code.toNat))
      (fun y hy => by simpa using before y hy) (fun y hy => by have := after y hy; simp; omega)
    rw [Ctx.addCause, split]
    dsimp only
    rw [take, drop]

/-- Settles O22: what is taken is the first of a fixed order, and taking it enters the handler as R313 says. -/
theorem interruptsAndDeliveredCauses : Obligations.InterruptsAndDeliveredCauses :=
  ⟨pendingInterrupts, interruptsAreTaken, deliveredCausesAreTaken⟩

end Sys2Proof.Machine
end

section
/-! SUPPORT. Debug stops, resumptions and halt groups (13_debug.md R332 to R335). -/

namespace Sys2Proof.Machine

open Sys2Proof

/-! ## What a trace record, a host write and a signal leave alone -/

section
variable (s : State) (n m : NibId) (j k : Fin 8)

theorem stroke_of_nibs {s t : State} (h : t.nibs = s.nibs) (n : NibId) (k : Fin 8) : t.stroke n k = s.stroke n k := by
  rw [State.stroke, State.nib, h]; rfl

theorem trace_nibs (r : TraceRec) : (s.trace n k r).nibs = s.nibs := by
  rw [State.trace]; dsimp only; split <;> rfl

theorem trace_agenda (r : TraceRec) : (s.trace n k r).agenda = s.agenda := by
  rw [State.trace]; dsimp only; split <;> rfl

theorem trace_cycle (r : TraceRec) : (s.trace n k r).cycle = s.cycle := by
  rw [State.trace]; dsimp only; split <;> rfl

theorem traceIfOn_nibs (kind info : Nat) : (s.traceIfOn n k kind info).nibs = s.nibs := by
  rw [State.traceIfOn]; split
  · exact trace_nibs ..
  · rfl

theorem traceIfOn_agenda (kind info : Nat) : (s.traceIfOn n k kind info).agenda = s.agenda := by
  rw [State.traceIfOn]; split
  · exact trace_agenda ..
  · rfl

theorem traceIfOn_cycle (kind info : Nat) : (s.traceIfOn n k kind info).cycle = s.cycle := by
  rw [State.traceIfOn]; split
  · exact trace_cycle ..
  · rfl

theorem traceIfOn_of_off {kind info : Nat} (off : s.filtersOn (s.partOf n) = false) : s.traceIfOn n k kind info = s := by
  rw [State.traceIfOn, off]; rfl

end

/-- A free cycle lies within its bounds, and taking it uses up one free value. -/
theorem freeCycle_bounds (s : State) {lo hi : Nat} (h : lo ≤ hi) :
    lo ≤ (s.freeCycle lo (some hi)).1 ∧ (s.freeCycle lo (some hi)).1 ≤ hi ∧
      (s.freeCycle lo (some hi)).2 = { s with fresh := s.fresh + 1 } := by
  simp only [State.freeCycle, State.freshNum, max_eq_right h]
  exact ⟨le_min (Nat.le_add_right ..) h, min_le_right .., trivial⟩

/-! ## Asking a stroke to stop or to go on -/

theorem stroke_modStroke_others (s : State) (n : NibId) (k : Fin 8) (f : Stroke → Stroke) {m : NibId} {j : Fin 8} (h : (m, j) ≠ (n, k)) :
    (s.modStroke n k f).stroke m j = s.stroke m j := by
  refine State.stroke_modStroke_ne _ _ _ _ _ _ ?_
  rw [ne_eq, Prod.mk.injEq, not_and_or] at h
  exact h

theorem askStop_of_running {s : State} {n : NibId} {k : Fin 8} (status : (s.stroke n k).status = .running)
    (none_asked : (s.stroke n k).dbg.stopReq = none) (r : BitVec 4) :
    s.askStop n k r = s.modStroke n k (fun x => { x with dbg := { x.dbg with stopReq := some r } }) := by
  rw [State.askStop]
  dsimp only
  rw [status, none_asked, if_neg (by simp [Status.isStopped])]

theorem askStop_of_stopped {s : State} {n : NibId} {k : Fin 8} {q : BitVec 4} (status : (s.stroke n k).status = .stopped q)
    (r : BitVec 4) : s.askStop n k r = s := by
  rw [State.askStop]
  dsimp only
  rw [status, if_pos (by simp [Status.isStopped])]

theorem askStop_of_asked {s : State} {n : NibId} {k : Fin 8} {q : BitVec 4} (asked : (s.stroke n k).dbg.stopReq = some q)
    (r : BitVec 4) : s.askStop n k r = s := by
  rw [State.askStop]
  dsimp only
  rw [asked, if_pos (by simp)]

theorem askResume_of_running {s : State} {n : NibId} {k : Fin 8} (status : (s.stroke n k).status = .running) (f : Stroke → Stroke) :
    s.askResume n k f = s := by
  rw [State.askResume]
  dsimp only
  rw [status, if_neg (by simp [Status.isStopped])]

theorem askResume_of_stopped {s : State} {n : NibId} {k : Fin 8} {r : BitVec 4} (status : (s.stroke n k).status = .stopped r)
    (none_asked : (s.stroke n k).dbg.resumeReq = false) (f : Stroke → Stroke) :
    s.askResume n k f = s.modStroke n k (fun x => { f x with dbg := { (f x).dbg with resumeReq := true } }) := by
  rw [State.askResume]
  dsimp only
  rw [status, none_asked, if_pos (by simp [Status.isStopped])]

/-- What a stopped stroke is in the first turn after its resumption (R334). -/
def Stroke.goOn (tn : Nat) (x : Stroke) : Stroke :=
  { x with
    status := .running
    ctx := if x.dbg.drun then x.ctx
      else { x.ctx with
        resumed := some tn, withdrawn := false
        seqs := x.ctx.seqs.map (fun q => { q with checked := false, thr := none, joining := false }) }
    dbg := { x.dbg with resumeReq := false, drun := false } }

theorem debugActions : Claims.DebugActions := by
  rintro s n k x rfl
  refine ⟨fun running free => ⟨_, rfl, ?_, ?_⟩, fun running free => ⟨_, rfl, ?_, ?_⟩, fun running => ?_, fun r stopped => ⟨?_, fun free => ⟨⟨_, rfl, ?_⟩,
    ⟨_, rfl, ?_⟩, _, rfl, ?_⟩⟩, fun r stopped asked due off => ?_⟩
  · rw [askStop_of_running running free, State.stroke_modStroke_same]
  · rw [askStop_of_running running free]; rfl
  · rw [askStop_of_running running free, State.stroke_modStroke_same]
  · rw [askStop_of_running running free]; rfl
  · simp only [List.forall_mem_cons, List.not_mem_nil, false_implies, implies_true, and_true]
    exact ⟨congrArg _ (askResume_of_running running _), congrArg _ (askResume_of_running running _),
      congrArg _ (askResume_of_running running _)⟩
  · exact congrArg _ (askStop_of_stopped stopped _)
  · rw [askResume_of_stopped stopped free, State.stroke_modStroke_same]; rfl
  · rw [askResume_of_stopped stopped free, State.stroke_modStroke_same]
  · rw [askResume_of_stopped stopped free, State.stroke_modStroke_same]
    refine ⟨rfl, rfl, rfl, rfl, fun q => ⟨?_, ?_⟩⟩ <;> simp only [Fin.getElem_fin, Vector.getElem_map]
    rfl
  · have go : s.resumeDue n k = true := by
      simp only [State.resumeDue, stopped, Status.isStopped, asked, Bool.and_self, Bool.true_and, decide_eq_true_eq]
      exact due
    have running : (s.resumeStopped n k).stroke n k = (s.stroke n k).goOn s.tn ∧ (s.resumeStopped n k).mem = s.mem := by
      rw [State.resumeStopped, if_pos go]
      dsimp only
      rw [traceIfOn_of_off _ _ _ (by exact off), State.stroke_modStroke_same]
      exact ⟨rfl, rfl⟩
    obtain ⟨same, mem⟩ := running
    dsimp only
    rw [same]
    refine ⟨rfl, rfl, mem, ?_, fun drun => ?_, fun drun => ⟨?_, fun q => ?_⟩⟩
    · cases drun : (s.stroke n k).dbg.drun <;> simp [Stroke.goOn, drun]
    all_goals simp [Stroke.goOn, drun]

/-! ## A debug stop -/

/-- The `halt` that ends a debug routine (R334). -/
def Stroke.leavesRoutine (x : Stroke) (reason : BitVec 4) : Bool := x.dbg.inDrun && reason == 3 && x.ctx.c.mode == .d

def Status.isParked : Status → Bool
  | .parked _ => true
  | _ => false

/-- A stroke that stops (R332), in the return from a debug routine or not. -/
def Stroke.stop (reason : BitVec 4) (back parked : Bool) (x : Stroke) : Stroke :=
  { x with
    status := .stopped reason
    ctx := if back then
        { x.ctx with
          c := { x.ctx.c with mode := x.dbg.keptMode }
          x := { x.ctx.x with sweep := x.ctx.x.sweep.map (fun w => { w with paused := w.paused - 1 }) }
          seqs := Vector.ofFn (fun (q : Fin 4) => (x.ctx.seqs[q]).back x.dbg.keptPc[q]) }
      else { x.ctx with withdrawn := x.ctx.withdrawn || parked }
    dbg := { x.dbg with stopReq := none, stepping := false, resumeReq := false, inDrun := x.dbg.inDrun && !back } }

/-- The stroke is interrupted and stopped. -/
def State.stopStroke (s : State) (n : NibId) (k : Fin 8) (reason : BitVec 4) : State :=
  (s.interrupt n k).modStroke n k
    (Stroke.stop reason ((s.stroke n k).leavesRoutine reason) (s.stroke n k).status.isParked)

/-- What a stop tells the host and the nib's stroke 7 (R314, R360). -/
def State.signalStop (s : State) (n : NibId) (k : Fin 8) (reason : BitVec 4) : State :=
  let s := s.raiseMsix (s.vfOf n) 3
  if reason = 4 then (if k = 7 then s.raiseMsix (s.vfOf n) 2 else s.setTip n 9) else s

/-- A debug stop before its halt group is told: R332 without R335. -/
def State.stopAt (s : State) (n : NibId) (k : Fin 8) (reason : BitVec 4) : State :=
  ((s.stopStroke n k reason).traceIfOn n k 4 reason.toNat).signalStop n k reason

theorem debugStop_eq (s : State) (n : NibId) (k : Fin 8) (r : BitVec 4) :
    s.debugStop n k r = if r = 5 then s.stopAt n k r else (s.stopAt n k r).stopGroup n k := rfl

theorem signalStop_cases (s : State) (n : NibId) (k : Fin 8) (r : BitVec 4) :
    ∃ v, ((s.signalStop n k r) = { s with vfs := v } ∨ k ≠ 7 ∧ s.signalStop n k r = ({ s with vfs := v } : State).setTip n 9) := by
  rw [State.signalStop]
  by_cases four : r = 4
  · by_cases seven : k = 7
    · rw [if_pos four, if_pos seven]; exact ⟨_, .inl rfl⟩
    · rw [if_pos four, if_neg seven]; exact ⟨_, .inr ⟨seven, rfl⟩⟩
  · rw [if_neg four]; exact ⟨_, .inl rfl⟩

theorem setTip_stroke_ne (s : State) (n : NibId) {k : Fin 8} (c : Nat) (h : k ≠ 7) : (s.setTip n c).stroke n k = s.stroke n k := by
  rw [State.setTip, State.modCtxAt, State.stroke_modStroke_ne _ _ _ _ _ _ (.inr h),
    stroke_modNib_of_strokes _ _ _ _ _ (by exact fun _ => rfl)]

theorem signalStop_stroke (s : State) (n : NibId) (k : Fin 8) (r : BitVec 4) : (s.signalStop n k r).stroke n k = s.stroke n k := by
  obtain ⟨v, h | ⟨seven, h⟩⟩ := signalStop_cases s n k r
  · rw [h]; rfl
  · rw [h, setTip_stroke_ne _ _ _ seven]; rfl

theorem signalStop_same (s : State) (n : NibId) (k : Fin 8) (r : BitVec 4) :
    (s.signalStop n k r).mem = s.mem ∧ (s.signalStop n k r).agenda = s.agenda ∧ (s.signalStop n k r).cycle = s.cycle ∧
      (s.signalStop n k r).parts = s.parts := by
  obtain ⟨v, h | ⟨-, h⟩⟩ := signalStop_cases s n k r <;> rw [h] <;> exact ⟨rfl, rfl, rfl, rfl⟩

/-- The stopped stroke itself: what `freeze` and the stop make of it. -/
theorem stopAt_stroke (s : State) (n : NibId) (k : Fin 8) (r : BitVec 4) :
    (s.stopAt n k r).stroke n k = Stroke.stop r ((s.stroke n k).leavesRoutine r) (s.stroke n k).status.isParked
      { s.stroke n k with ctx := (s.stroke n k).ctx.freeze s.tn } := by
  rw [State.stopAt, signalStop_stroke, stroke_of_nibs (traceIfOn_nibs ..), State.stopStroke, State.stroke_modStroke_same,
    interrupt_stroke]

theorem stopGroup_of_single {s : State} {n : NibId} {k : Fin 8} (single : (s.stroke n k).dbg.gen = false) : s.stopGroup n k = s := by
  rw [State.stopGroup]
  rw [single]
  rfl

theorem withdraw_parts (s : State) (n : NibId) (cid : Nat) : (s.withdraw n cid).parts = s.parts := by
  rw [State.withdraw]
  dsimp only
  split
  · rfl
  · split <;> rfl

theorem withdraw_cycle (s : State) (n : NibId) (cid : Nat) : (s.withdraw n cid).cycle = s.cycle := by
  rw [State.withdraw]
  dsimp only
  split
  · rfl
  · split <;> rfl

theorem stopStroke_parts (s : State) (n : NibId) (k : Fin 8) (r : BitVec 4) : (s.stopStroke n k r).parts = s.parts :=
  withdraw_parts (s.modCtxAt n k (fun c => c.freeze s.tn)) n _

theorem stopStroke_cycle (s : State) (n : NibId) (k : Fin 8) (r : BitVec 4) : (s.stopStroke n k r).cycle = s.cycle :=
  withdraw_cycle (s.modCtxAt n k (fun c => c.freeze s.tn)) n _

theorem filtersOn_of_parts {s t : State} (h : t.parts = s.parts) (n : NibId) :
    t.filtersOn (t.partOf n) = s.filtersOn (s.partOf n) := by
  simp only [State.filtersOn, State.partOf, State.partOfFolio, State.partHas, h]

theorem stopAt_mem {s : State} {n : NibId} (off : s.filtersOn (s.partOf n) = false) (k : Fin 8) (r : BitVec 4) :
    (s.stopAt n k r).mem = s.mem := by
  rw [State.stopAt, (signalStop_same ..).1, traceIfOn_of_off _ _ _ ((filtersOn_of_parts (stopStroke_parts ..) n).trans off)]
  exact interrupt_mem s n k

theorem exec_debugStop {s : State} {n : NibId} {k : Fin 8} {r : BitVec 4} (due : s.stopDue n k = some r)
    (awake : s.awakeStroke n k = true) : exec (.debugStop n k) s = .next (s.debugStop n k r) := by
  show execDebugStop n k s = _
  rw [execDebugStop, due]
  exact if_pos awake

theorem stop_regs (r : BitVec 4) (back parked : Bool) (x : Stroke) :
    (x.stop r back parked).ctx.r = x.ctx.r ∧ (x.stop r back parked).ctx.inflight = x.ctx.inflight ∧
      (x.stop r back parked).ctx.lateWrites = x.ctx.lateWrites := by
  cases back <;> exact ⟨rfl, rfl, rfl⟩

theorem debugStopsTakeEffect : Claims.DebugStopsTakeEffect := by
  rintro s n k r x rfl single awake off due
  have due : s.stopDue n k = some r := by
    rw [State.stopDue]
    rcases due with h | ⟨h, asked⟩ | ⟨h, asked, step, still, rfl⟩
    · rw [h]
    · rw [h, asked]
    · rw [h, asked, step, still]; rfl
  obtain ⟨-, regs, -, seqs, -⟩ := freeze_same (s.stroke n k).ctx s.tn
  have plain : s.debugStop n k r = s.stopAt n k r := by
    rw [debugStop_eq, stopGroup_of_single, ite_self]
    rw [stopAt_stroke]
    exact single
  refine ⟨_, exec_debugStop due (awakeStroke_of awake), ?_⟩
  rw [plain, stopAt_stroke]
  obtain ⟨hr, hfl, hlate⟩ := stop_regs r ((s.stroke n k).leavesRoutine r) (s.stroke n k).status.isParked
    { s.stroke n k with ctx := (s.stroke n k).ctx.freeze s.tn }
  refine ⟨rfl, hr.trans regs, stopAt_mem off k r, hfl, hlate, fun out q => ?_, fun inside three d => ?_⟩
  · have stay : (s.stroke n k).leavesRoutine r = false := by rw [Stroke.leavesRoutine, out]; rfl
    rw [stay]
    exact congrArg (fun v : Vector SeqSt 4 => v[q].pc) seqs
  · have leaves : (s.stroke n k).leavesRoutine r = true := by rw [Stroke.leavesRoutine, inside, three, d]; rfl
    rw [leaves]
    refine ⟨rfl, ?_, fun q => ?_⟩
    · simp [Stroke.stop]
    · simp only [Stroke.stop, if_true, Fin.getElem_fin, Vector.getElem_ofFn]
      exact back_pc _ _

/-! ## Halt groups -/

/-- The same membership of halt groups. -/
def Nib.SameMembers (a b : Nib) : Prop :=
  ∀ k : Fin 8, b.strokes[k].dbg.gen = a.strokes[k].dbg.gen ∧ b.strokes[k].dbg.gid = a.strokes[k].dbg.gid

/-- Every nib of `s` stands in `t`, its strokes members of the groups that they were members of, and `t` has the partitions of
`s`. -/
def State.KeepsMembers (s t : State) : Prop :=
  (∀ p f, t.partHas p f = s.partHas p f) ∧ ∀ e ∈ s.nibs, ∃ b, (e.1, b) ∈ t.nibs ∧ e.2.SameMembers b

theorem State.KeepsMembers.refl (s : State) : s.KeepsMembers s :=
  ⟨fun _ _ => rfl, fun e he => ⟨e.2, he, fun _ => ⟨rfl, rfl⟩⟩⟩

theorem State.KeepsMembers.trans {s t u : State} (h : s.KeepsMembers t) (h' : t.KeepsMembers u) : s.KeepsMembers u := by
  refine ⟨fun p f => (h'.1 p f).trans (h.1 p f), fun e he => ?_⟩
  obtain ⟨b, hb, sb⟩ := h.2 e he
  obtain ⟨c, hc, sc⟩ := h'.2 _ hb
  exact ⟨c, hc, fun k => ⟨(sc k).1.trans (sb k).1, (sc k).2.trans (sb k).2⟩⟩

theorem keepsMembers_of_same {s t : State} (nibs : t.nibs = s.nibs) (parts : t.parts = s.parts) : s.KeepsMembers t :=
  ⟨fun p f => by simp only [State.partHas, parts], fun e he => ⟨e.2, nibs ▸ he, fun _ => ⟨rfl, rfl⟩⟩⟩

theorem entries_putNib {x : Nib} (n : NibId) (l : List (NibId × Nib)) (same : (nibIn l n).SameMembers x) :
    ∀ e ∈ l, ∃ b, (e.1, b) ∈ putNib l n x ∧ e.2.SameMembers b := by
  induction l with
  | nil => exact fun e he => absurd he List.not_mem_nil
  | cons a l ih =>
    have stays : ∀ e : NibId × Nib, e.2.SameMembers e.2 := fun e k => ⟨rfl, rfl⟩
    rw [putNib]
    split
    · exact fun e he => ⟨e.2, List.mem_cons_of_mem _ he, stays e⟩
    · split
      case isTrue here =>
        rw [nibIn, if_pos here] at same
        intro e he
        rcases List.mem_cons.1 he with rfl | he
        · exact ⟨x, by rw [here]; exact List.mem_cons_self .., same⟩
        · exact ⟨e.2, List.mem_cons_of_mem _ he, stays e⟩
      case isFalse other =>
        rw [nibIn, if_neg other] at same
        intro e he
        rcases List.mem_cons.1 he with rfl | he
        · exact ⟨_, List.mem_cons_self .., stays _⟩
        · obtain ⟨b, hb, sb⟩ := ih same e he
          exact ⟨b, List.mem_cons_of_mem _ hb, sb⟩

theorem keepsMembers_modNib (s : State) (n : NibId) {f : Nib → Nib} (same : ∀ b : Nib, b.SameMembers (f b)) : s.KeepsMembers (s.modNib n f) :=
  ⟨fun _ _ => rfl, entries_putNib n s.nibs (same _)⟩

theorem keepsMembers_modStroke (s : State) (n : NibId) (k : Fin 8) {f : Stroke → Stroke}
    (same : ∀ x, (f x).dbg.gen = x.dbg.gen ∧ (f x).dbg.gid = x.dbg.gid) : s.KeepsMembers (s.modStroke n k f) := by
  refine keepsMembers_modNib s n (fun b j => ?_)
  by_cases h : j = k
  · subst h
    simp only [Fin.getElem_fin, Vector.getElem_set_self]
    exact same _
  · have ne : (b.strokes.set k (f b.strokes[k]))[j] = b.strokes[j] :=
      Vector.getElem_set_ne k.isLt j.isLt (fun e => h (Fin.ext e.symm))
    rw [ne]
    exact ⟨rfl, rfl⟩

theorem keepsMembers_withdraw (s : State) (n : NibId) (cid : Nat) : s.KeepsMembers (s.withdraw n cid) := by
  rw [State.withdraw]
  dsimp only
  split
  · exact .refl s
  · split
    all_goals exact ⟨fun _ _ => rfl, entries_putNib n s.nibs (fun _ => ⟨rfl, rfl⟩)⟩

theorem keepsMembers_modCtxAt (s : State) (n : NibId) (k : Fin 8) (f : Ctx → Ctx) : s.KeepsMembers (s.modCtxAt n k f) :=
  keepsMembers_modStroke s n k (fun _ => ⟨rfl, rfl⟩)

theorem keepsMembers_interrupt (s : State) (n : NibId) (k : Fin 8) : s.KeepsMembers (s.interrupt n k) := by
  rw [State.interrupt, State.unwaitLock]
  refine State.KeepsMembers.trans ((keepsMembers_modCtxAt s n k fun c => c.freeze s.tn).trans
    (keepsMembers_withdraw _ n (s.stroke n k).ctx.cid)) ?_
  exact keepsMembers_modNib _ n (fun _ _ => ⟨rfl, rfl⟩)

theorem keepsMembers_stopStroke (s : State) (n : NibId) (k : Fin 8) (r : BitVec 4) : s.KeepsMembers (s.stopStroke n k r) := by
  refine (keepsMembers_interrupt s n k).trans ?_
  rw [State.stopStroke]
  exact keepsMembers_modStroke _ n k (fun _ => ⟨rfl, rfl⟩)

theorem partHas_modPart (s : State) {q : Fin 16} {f : Part → Part} (same : ∀ x, (f x).vf = x.vf ∧ (f x).folios = x.folios)
    (p g : Fin 16) : (s.modPart q f).partHas p g = s.partHas p g := by
  rw [State.partHas, State.modPart]
  by_cases h : q = p
  · subst h
    simp only [Fin.getElem_fin, Vector.getElem_set_self, (same _).1, (same _).2]
    rfl
  · have ne : (s.parts.set q (f s.parts[q]))[p] = s.parts[p] := Vector.getElem_set_ne q.isLt p.isLt (Fin.val_ne_of_ne h)
    simp only [ne]
    rfl

theorem partHas_hostWrite (s : State) (q : Fin 16) (pa n x : Nat) (p f : Fin 16) :
    (s.hostWrite q pa n x).partHas p f = s.partHas p f :=
  partHas_modPart s (q := q) (f := fun y => { y with hostLc := (s.writeStamp pa s.parts[q].hostLc).1 }) (fun _ => ⟨rfl, rfl⟩) p f

theorem partHas_trace (s : State) (n : NibId) (k : Fin 8) (r : TraceRec) (p f : Fin 16) :
    (s.trace n k r).partHas p f = s.partHas p f := by
  rw [State.trace]
  dsimp only
  split
  · rw [partHas_modPart _ (by exact fun _ => ⟨rfl, rfl⟩)]
  · rw [partHas_modPart _ (by exact fun _ => ⟨rfl, rfl⟩), partHas_hostWrite]

theorem keepsMembers_traceIfOn (s : State) (n : NibId) (k : Fin 8) (kind info : Nat) : s.KeepsMembers (s.traceIfOn n k kind info) := by
  refine ⟨fun p f => ?_, fun e he => ⟨e.2, traceIfOn_nibs s n k kind info ▸ he, fun _ => ⟨rfl, rfl⟩⟩⟩
  rw [State.traceIfOn]
  split
  · exact partHas_trace ..
  · rfl

theorem keepsMembers_setTip (s : State) (n : NibId) (c : Nat) : s.KeepsMembers (s.setTip n c) := by
  rw [State.setTip]
  refine State.KeepsMembers.trans ?_ (keepsMembers_modCtxAt _ n 7 _)
  exact keepsMembers_modNib s n (fun _ _ => ⟨rfl, rfl⟩)

theorem keepsMembers_signalStop (s : State) (n : NibId) (k : Fin 8) (r : BitVec 4) : s.KeepsMembers (s.signalStop n k r) := by
  obtain ⟨v, h | ⟨-, h⟩⟩ := signalStop_cases s n k r <;> rw [h]
  · exact keepsMembers_of_same rfl rfl
  · exact (keepsMembers_of_same (t := { s with vfs := v }) rfl rfl).trans (keepsMembers_setTip _ n 9)

theorem keepsMembers_stopAt (s : State) (n : NibId) (k : Fin 8) (r : BitVec 4) : s.KeepsMembers (s.stopAt n k r) :=
  ((keepsMembers_stopStroke s n k r).trans (keepsMembers_traceIfOn ..)).trans (keepsMembers_signalStop ..)

theorem partOf_of_keepsMembers {s t : State} (h : s.KeepsMembers t) (n : NibId) : t.partOf n = s.partOf n := by
  simp only [State.partOf, State.partOfFolio, h.1]

theorem mem_groupMembers {s : State} {p : Fin 16} {g : BitVec 4} {m : NibId × Fin 8} :
    m ∈ s.groupMembers p g ↔ s.partHas p (State.folioOf m.1) = true ∧
      ∃ b, (m.1, b) ∈ s.nibs ∧ b.strokes[m.2].dbg.gen = true ∧ b.strokes[m.2].dbg.gid = g := by
  simp only [State.groupMembers, List.mem_flatten, List.mem_map]
  constructor
  · rintro ⟨_, ⟨e, he, rfl⟩, hm⟩
    split at hm
    case isTrue has =>
      simp only [List.mem_map, List.mem_filter, Bool.and_eq_true, beq_iff_eq] at hm
      obtain ⟨k, ⟨-, gen, gid⟩, rfl⟩ := hm
      exact ⟨has, e.2, he, gen, gid⟩
    case isFalse => exact absurd hm List.not_mem_nil
  · rintro ⟨has, b, hb, gen, gid⟩
    refine ⟨_, ⟨(m.1, b), hb, rfl⟩, ?_⟩
    rw [if_pos has]
    simp only [List.mem_map, List.mem_filter, Bool.and_eq_true, beq_iff_eq]
    exact ⟨m.2, ⟨List.mem_finRange _, gen, gid⟩, rfl⟩

theorem groupMembers_of_keepsMembers {s t : State} (h : s.KeepsMembers t) {p : Fin 16} {g : BitVec 4} {m : NibId × Fin 8}
    (hm : m ∈ s.groupMembers p g) : m ∈ t.groupMembers p g := by
  obtain ⟨has, b, hb, gen, gid⟩ := mem_groupMembers.1 hm
  obtain ⟨c, hc, same⟩ := h.2 _ hb
  exact mem_groupMembers.2 ⟨(h.1 _ _).trans has, c, hc, (same m.2).1.trans gen, (same m.2).2.trans gid⟩

/-! ## Signals to the members of a group -/

/-- One signal for each listed item: event `e x` within `bound x` cycles. -/
def State.sendAll {α : Type} (s : State) (e : α → Instr) (bound : α → Nat) (l : List α) : State :=
  l.foldl (fun s x => (s.freeCycle s.cycle (some (s.cycle + bound x))).2.schedule
    (s.freeCycle s.cycle (some (s.cycle + bound x))).1 (e x)) s

section
variable {α : Type} (e : α → Instr) (bound : α → Nat)

/-- Sending changes the agenda and uses up free values, and nothing else. -/
theorem sendAll_same (s : State) (l : List α) :
    (s.sendAll e bound l).nibs = s.nibs ∧ (s.sendAll e bound l).mem = s.mem ∧ (s.sendAll e bound l).cycle = s.cycle := by
  induction l generalizing s with
  | nil => exact ⟨rfl, rfl, rfl⟩
  | cons x l ih =>
    rw [State.sendAll, List.foldl_cons]
    obtain ⟨hn, hm, hc⟩ := ih ((s.freeCycle s.cycle (some (s.cycle + bound x))).2.schedule
      (s.freeCycle s.cycle (some (s.cycle + bound x))).1 (e x))
    exact ⟨hn, hm, hc⟩

theorem agenda_sendAll (s : State) (l : List α) (a : Nat × Instr) :
    a ∈ (s.sendAll e bound l).agenda → a ∈ s.agenda ∨ ∃ x ∈ l, a.2 = e x := by
  induction l generalizing s with
  | nil => exact .inl
  | cons x l ih =>
    intro ha
    rw [State.sendAll, List.foldl_cons] at ha
    rcases ih _ ha with h | ⟨y, hy, h⟩
    · rw [State.schedule] at h
      rcases List.mem_append.1 h with h | h
      · exact .inl h
      · exact .inr ⟨x, List.mem_cons_self .., by rw [List.mem_singleton.1 h]⟩
    · exact .inr ⟨y, List.mem_cons_of_mem _ hy, h⟩

theorem agenda_subset_sendAll (s : State) (l : List α) : s.agenda ⊆ (s.sendAll e bound l).agenda := by
  induction l generalizing s with
  | nil => exact fun _ h => h
  | cons x l ih =>
    rw [State.sendAll, List.foldl_cons]
    exact fun a ha => ih _ (List.mem_append_left _ ha)

theorem sendAll_sends (s : State) (l : List α) (x : α) (hx : x ∈ l) :
    ∃ c, s.cycle ≤ c ∧ c ≤ s.cycle + bound x ∧ (c, e x) ∈ (s.sendAll e bound l).agenda := by
  induction l generalizing s with
  | nil => exact absurd hx List.not_mem_nil
  | cons y l ih =>
    rcases List.mem_cons.1 hx with rfl | hx
    · obtain ⟨lo, hi, -⟩ := freeCycle_bounds s (Nat.le_add_right s.cycle (bound x))
      exact ⟨_, lo, hi, agenda_subset_sendAll e bound _ l (List.mem_append_right _ (List.mem_singleton_self _))⟩
    · rw [State.sendAll, List.foldl_cons]
      exact ih ((s.freeCycle s.cycle (some (s.cycle + bound y))).2.schedule
        (s.freeCycle s.cycle (some (s.cycle + bound y))).1 (e y)) hx

end

theorem stopGroup_eq {s : State} {n : NibId} {k : Fin 8} (member : (s.stroke n k).dbg.gen = true) :
    s.stopGroup n k = s.sendAll (fun x : NibId × Fin 8 => .groupStop x.1 x.2)
      (fun x => if State.folioOf n = State.folioOf x.1 then 88 else 392)
      ((s.groupMembers (s.partOf n) (s.stroke n k).dbg.gid).filter (fun x => decide (x ≠ (n, k)))) := by
  rw [State.stopGroup]
  rw [if_pos member, State.sendAll, List.foldl_filter]
  congr 1
  funext t x
  by_cases h : x = (n, k)
  · subst h; simp
  · have : ¬ (x.1 = n ∧ x.2 = k) := fun ⟨a, b⟩ => h (Prod.ext a b)
    rw [if_neg this, if_pos (by simpa using h)]
    rfl

/-- What an interruption puts on the agenda is at most a join of the waiter table. -/
theorem agenda_withdraw (s : State) (n : NibId) (cid : Nat) : ∀ a ∈ (s.withdraw n cid).agenda, a ∈ s.agenda ∨ a.2 = .waiterTableJoin n := by
  rw [State.withdraw]
  dsimp only
  split
  · exact fun a => .inl
  · split
    · exact fun a => .inl
    · intro a ha
      rcases List.mem_append.1 ha with h | h
      · exact .inl h
      · exact .inr (by rw [List.mem_singleton.1 h])

theorem agenda_stopAt (s : State) (n : NibId) (k : Fin 8) (r : BitVec 4) :
    ∀ a ∈ (s.stopAt n k r).agenda, a ∈ s.agenda ∨ a.2 = .waiterTableJoin n := by
  rw [State.stopAt, (signalStop_same ..).2.1, traceIfOn_agenda]
  exact agenda_withdraw (s.modCtxAt n k (fun c => c.freeze s.tn)) n _

theorem cycle_stopAt (s : State) (n : NibId) (k : Fin 8) (r : BitVec 4) : (s.stopAt n k r).cycle = s.cycle := by
  rw [State.stopAt, (signalStop_same ..).2.2.1, traceIfOn_cycle, stopStroke_cycle]

theorem debugStop_status (s : State) (n : NibId) (k : Fin 8) (r : BitVec 4) : ((s.debugStop n k r).stroke n k).status = .stopped r := by
  have stopped : ((s.stopAt n k r).stroke n k).status = .stopped r := by rw [stopAt_stroke]; rfl
  rw [debugStop_eq]
  split
  · exact stopped
  · cases member : ((s.stopAt n k r).stroke n k).dbg.gen with
    | false => rw [stopGroup_of_single member]; exact stopped
    | true => rw [stopGroup_eq member, stroke_of_nibs (sendAll_same ..).1]; exact stopped

theorem stopGroup_tells (s : State) (n : NibId) (k : Fin 8) {r : BitVec 4} (other : r ≠ 5) (member : (s.stroke n k).dbg.gen = true)
    (m : NibId × Fin 8) (hm : m ∈ s.groupMembers (s.partOf n) (s.stroke n k).dbg.gid) (ne : m ≠ (n, k)) :
    ∃ c, s.cycle ≤ c ∧ c ≤ s.cycle + (if State.folioOf n = State.folioOf m.1 then 88 else 392) ∧
      (c, Instr.groupStop m.1 m.2) ∈ (s.debugStop n k r).agenda := by
  have keeps := keepsMembers_stopAt s n k r
  have dbg : ((s.stopAt n k r).stroke n k).dbg.gen = true ∧
      ((s.stopAt n k r).stroke n k).dbg.gid = (s.stroke n k).dbg.gid := by
    rw [stopAt_stroke]; exact ⟨member, rfl⟩
  rw [debugStop_eq, if_neg other, stopGroup_eq dbg.1]
  have := sendAll_sends (fun x : NibId × Fin 8 => .groupStop x.1 x.2)
    (fun x => if State.folioOf n = State.folioOf x.1 then 88 else 392) (s.stopAt n k r)
    (((s.stopAt n k r).groupMembers ((s.stopAt n k r).partOf n) ((s.stopAt n k r).stroke n k).dbg.gid).filter
      (fun x => decide (x ≠ (n, k)))) m
    (List.mem_filter.2 ⟨by rw [partOf_of_keepsMembers keeps, dbg.2]; exact groupMembers_of_keepsMembers keeps hm, by simpa using ne⟩)
  rwa [cycle_stopAt] at this

theorem groupStopsAreSent : Claims.GroupStopsAreSent := by
  refine ⟨?_, ?_⟩
  · rintro s n k r x rfl member awake due
    have due : s.stopDue n k = some r := by
      rw [State.stopDue]
      rcases due with h | ⟨h, asked⟩
      · rw [h]
      · rw [h, asked]
    refine ⟨_, exec_debugStop due (awakeStroke_of awake), debugStop_status s n k r,
      fun other m hm ne => stopGroup_tells s n k other member m hm ne, ?_⟩
    rintro rfl a ha ⟨m, j, told⟩
    rcases agenda_stopAt s n k 5 a ha with h | h
    · exact h
    · rw [told] at h; exact absurd h (by simp)
  · rintro s n k x rfl
    refine ⟨fun running free => ⟨_, rfl, ?_⟩, fun r stopped => congrArg _ (askStop_of_stopped stopped _),
      fun r asked => congrArg _ (askStop_of_asked asked _)⟩
    rw [askStop_of_running running free, State.stroke_modStroke_same]

theorem groupResumes : Claims.GroupResumes := by
  intro s p g
  have same := sendAll_same (fun x : NibId × Fin 8 => .dctlResume x.1 x.2) (fun _ => 392) s
    ((s.groupMembers p (BitVec.ofFin g)).filter (fun x => (s.stroke x.1 x.2).status.isStopped))
  obtain ⟨nibs, mem, -⟩ := same
  refine ⟨_, rfl, nibs, mem, fun m hm stopped => ?_, fun a ha => ?_⟩
  · exact sendAll_sends (fun x : NibId × Fin 8 => .dctlResume x.1 x.2) (fun _ => 392) s _ m (List.mem_filter.2 ⟨hm, stopped⟩)
  · rcases agenda_sendAll (fun x : NibId × Fin 8 => .dctlResume x.1 x.2) (fun _ => 392) s _ a ha with h | ⟨m, hm, h⟩
    · exact .inl h
    · obtain ⟨hm, stopped⟩ := List.mem_filter.1 hm
      exact .inr ⟨m, hm, h, stopped⟩

/-- Settles O23: what a stop leaves of its stroke, and that the members of a halt group stay members while one of them stops. -/
theorem debugControl : Obligations.DebugControl := ⟨debugActions, debugStopsTakeEffect, groupStopsAreSent, groupResumes⟩

end Sys2Proof.Machine
end

section
/-! SUPPORT. Labels, filters, trace records and turn counters (13_debug.md R336 to R342). -/

namespace Sys2Proof.Machine

open Sys2Proof

/-! ## Parts of a range that has been written -/

theorem Memory.read_of_bytes (m : List Host.Cell) (a k y : Nat) (h : ∀ j < k, Memory.get m (a + j) = BitVec.ofNat 8 (y / 256 ^ j)) :
    Memory.read m a k = y % 256 ^ k := by
  induction k generalizing a y with
  | zero => simp [Memory.read, Nat.mod_one]
  | succ k ih =>
    have first := h 0 (Nat.succ_pos k)
    have rest : Memory.read m (a + 1) k = y / 256 % 256 ^ k := by
      refine ih (a + 1) (y / 256) (fun j hj => ?_)
      rw [show a + 1 + j = a + (j + 1) by omega, h (j + 1) (by omega), Nat.pow_succ', Nat.div_div_eq_div_mul]
    have split : y % 256 ^ (k + 1) = y % 256 + 256 * (y / 256 % 256 ^ k) := by rw [Nat.pow_succ', Nat.mod_mul]
    rw [Memory.read, rest, split, show Memory.get m a = _ from first]
    simp

/-- Bytes i to i+k of a value that has been written. -/
theorem Memory.read_write_part (m : List Host.Cell) (a n x i k : Nat) (w : Memory.wf m = true) (h : i + k ≤ n) :
    Memory.read (Memory.write m a n x) (a + i) k = x / 256 ^ i % 256 ^ k := by
  refine Memory.read_of_bytes _ _ _ _ (fun j hj => ?_)
  rw [show a + i + j = a + (i + j) by omega, Memory.get_write_inside _ _ _ _ _ w (by omega), Nat.pow_add, Nat.div_div_eq_div_mul]

/-! ## Labels -/

/-- What one filter does about a label event. -/
def State.filterSees (kind : Nat) (l : BitVec 16) (s : State) (f : Word) : State :=
  if getBits f 2 2 ≠ 0 ∧ l &&& f.extractLsb' 32 16 = f.extractLsb' 48 16 &&& f.extractLsb' 32 16 then
    let s := if getBits f 2 2 % 2 = 1 then s.trace s.cur.nib s.cur.k ⟨kind, s.cur.q.idx.val, l.toNat, s.pc.toNat, 0⟩ else s
    if 2 ≤ getBits f 2 2 then
      s.modStroke s.cur.nib s.cur.k (fun x => if kind = 3 then { x with gateOff := true } else { x with gateOn := true })
    else s
  else s

theorem labelSeen_eq (s : State) (kind : Nat) (l : BitVec 16) :
    s.labelSeen kind l = (s.parts[s.partOf s.cur.nib].filters.toList).foldl (State.filterSees kind l) s := rfl

theorem filterSees_of_off {f : Word} (off : getBits f 2 2 = 0) (kind : Nat) (l : BitVec 16) (s : State) :
    State.filterSees kind l s f = s := if_neg (fun h => h.1 off)

theorem foldl_filterSees_of_off {fs : List Word} (off : ∀ f ∈ fs, getBits f 2 2 = 0) (kind : Nat) (l : BitVec 16) (s : State) :
    fs.foldl (State.filterSees kind l) s = s := by
  induction fs with
  | nil => rfl
  | cons f fs ih =>
    rw [List.foldl_cons, filterSees_of_off (off f (List.mem_cons_self ..))]
    exact ih (fun g hg => off g (List.mem_cons_of_mem _ hg))

theorem labelSeen_of_off {s : State} (off : ∀ f : Fin 8, getBits s.parts[s.partOf s.cur.nib].filters[f] 2 2 = 0) (kind : Nat)
    (l : BitVec 16) : s.labelSeen kind l = s := by
  rw [labelSeen_eq]
  refine foldl_filterSees_of_off (fun f hf => ?_) kind l s
  obtain ⟨i, hi, rfl⟩ := List.getElem_of_mem hf
  have bound : i < 8 := by simpa using hi
  rw [Vector.getElem_toList]
  exact off ⟨i, bound⟩

theorem labelsStack : Claims.LabelsStack := by
  refine ⟨fun s l off => ⟨?_, ?_, ?_⟩, fun c l x r => ⟨?_, ?_, ?_, ?_, rfl⟩⟩
  · refine issues_of_simple (srcs := []) (dsts := []) (clear_nothing s _)
      (body := fun s => (if 16 ≤ s.ctx.labels.length then s else s.labelSeen 2 l).land 1 (.label .push l)) rfl ?_
    rw [labelSeen_of_off off, ite_self]
    rfl
  · refine issues_of_simple (srcs := []) (dsts := []) (clear_nothing s _)
      (body := fun s => (match s.ctx.labels with
        | [] => s
        | t :: _ => s.labelSeen 3 t).land 1 (.label .pop l)) rfl ?_
    cases s.ctx.labels with
    | nil => rfl
    | cons t r => exact congrArg (fun u => State.land u 1 (.label .pop l)) (labelSeen_of_off off 3 t)
  · exact issues_of_simple (srcs := []) (dsts := []) (clear_nothing s _) (body := fun s => s.labelSeen 1 l) rfl (labelSeen_of_off off 1 l)
  · exact fun h => if_neg (Nat.not_le.2 h)
  · exact fun h => if_pos h
  · intro h; rw [Ctx.label, h]
  · intro h
    rw [Ctx.label, h]
    refine congrArg (fun b => ({ c with labels := r, lmis := c.lmis || b } : Ctx)) ?_
    cases h : decide (x = l) <;> simp_all

theorem matchingFiltersAct : Claims.MatchingFiltersAct := by
  intro s l f pre post filters off hit
  have seen : s.labelSeen 1 l = State.filterSees 1 l s f := by
    rw [labelSeen_eq, filters, List.foldl_append, List.foldl_cons,
      foldl_filterSees_of_off (fun x hx => off x (List.mem_append_left _ hx)),
      foldl_filterSees_of_off (fun x hx => off x (List.mem_append_right _ hx))]
  have run : exec (.mark l) s = .next (State.filterSees 1 l s f).retire := by
    rw [← seen]
    exact simple_of_clear (clear_nothing s _) (fun s => s.labelSeen 1 l)
  refine ⟨fun act => ⟨_, run, ?_⟩, fun act => ⟨_, run, ?_⟩⟩
  · have one : State.filterSees 1 l s f = s.trace s.cur.nib s.cur.k ⟨1, s.cur.q.idx.val, l.toNat, s.pc.toNat, 0⟩ := by
      rw [State.filterSees, if_pos ⟨by rw [act]; decide, hit⟩, act]; rfl
    rw [one]
    exact issued_retire _ []
  · have two : State.filterSees 1 l s f = s.modStroke s.cur.nib s.cur.k (fun x => { x with gateOn := true }) := by
      rw [State.filterSees, if_pos ⟨by rw [act]; decide, hit⟩, act]; rfl
    rw [two]
    exact issued_retire _ []

/-! ## Trace records -/

/-- The 32 bytes of a trace record (R342). -/
def TraceRec.packed (r : TraceRec) (stroke turn : Nat) : Nat :=
  r.kind % 256 + r.info % 256 * 2 ^ 8 + r.label % 2 ^ 16 * 2 ^ 16 + r.pc % 2 ^ 32 * 2 ^ 32 +
    stroke * 2 ^ 64 + turn % 2 ^ 64 * 2 ^ 128 + r.data % 2 ^ 64 * 2 ^ 192

theorem strokeNumber_lt (s : State) (n : NibId) (k : Fin 8) : s.strokeNumber n k < 2 ^ 64 := by
  have := (s.nibNumber n).isLt
  rw [State.strokeNumber]
  omega

/-- Each field of a packed record stands at its place. -/
theorem TraceRec.packed_fields (r : TraceRec) {e : Nat} (he : e < 2 ^ 64) (turn : Nat) :
    let w := r.packed e turn
    w / 256 ^ 0 % 256 ^ 1 = r.kind % 256 ∧ w / 256 ^ 1 % 256 ^ 1 = r.info % 256 ∧ w / 256 ^ 2 % 256 ^ 2 = r.label % 65536 ∧
      w / 256 ^ 4 % 256 ^ 4 = r.pc % 2 ^ 32 ∧ w / 256 ^ 8 % 256 ^ 8 = e ∧ w / 256 ^ 16 % 256 ^ 8 = turn % 2 ^ 64 ∧
      w / 256 ^ 24 % 256 ^ 8 = r.data % 2 ^ 64 := by
  have h0 := Nat.mod_lt r.kind (show 256 > 0 by decide)
  have h1 := Nat.mod_lt r.info (show 256 > 0 by decide)
  have h2 := Nat.mod_lt r.label (show 2 ^ 16 > 0 by decide)
  have h3 := Nat.mod_lt r.pc (show 2 ^ 32 > 0 by decide)
  have h4 := Nat.mod_lt turn (show 2 ^ 64 > 0 by decide)
  have h5 := Nat.mod_lt r.data (show 2 ^ 64 > 0 by decide)
  dsimp only
  rw [TraceRec.packed]
  generalize r.kind % 256 = a at *
  generalize r.info % 256 = b at *
  rw [show (65536 : Nat) = 2 ^ 16 from rfl]
  generalize r.label % 2 ^ 16 = c at *
  generalize r.pc % 2 ^ 32 = d at *
  generalize turn % 2 ^ 64 = f at *
  generalize r.data % 2 ^ 64 = g at *
  refine ⟨?_, ?_, ?_, ?_, ?_, ?_, ?_⟩ <;> omega

/-- The partition of a record that is dropped. -/
def Part.dropRecord (x : Part) : Part :=
  { x with tovf := true, tdrop := if x.tdrop = BitVec.allOnes 15 then x.tdrop else x.tdrop + 1 }

section
variable {s : State} {n : NibId} {k : Fin 8} {r : TraceRec}

theorem trace_of_fits (fits : s.parts[s.partOf n].tpos.toNat + 32 ≤ s.parts[s.partOf n].tsize.toNat / 32 * 32) :
    s.trace n k r = (s.hostWrite (s.partOf n) (s.parts[s.partOf n].tbase.toNat + s.parts[s.partOf n].tpos.toNat) 32
      (r.packed (s.strokeNumber n k) s.tn)).modPart (s.partOf n) (fun x => { x with tpos := x.tpos + 32 }) := by
  rw [State.trace]
  exact if_neg (Nat.not_lt.2 fits)

theorem trace_of_full (full : s.parts[s.partOf n].tsize.toNat / 32 * 32 < s.parts[s.partOf n].tpos.toNat + 32) :
    s.trace n k r = s.modPart (s.partOf n) Part.dropRecord := by
  rw [State.trace]
  exact if_pos full

end

theorem modPart_same (s : State) (p : Fin 16) (f : Part → Part) : (s.modPart p f).parts[p] = f s.parts[p] :=
  Vector.getElem_set_self _

theorem modPart_ne (s : State) {p q : Fin 16} (f : Part → Part) (h : q ≠ p) : (s.modPart p f).parts[q] = s.parts[q] :=
  Vector.getElem_set_ne p.isLt q.isLt (Fin.val_ne_of_ne h.symm)

theorem hostWrite_mem (s : State) (p : Fin 16) (pa n x : Nat) : (s.hostWrite p pa n x).mem = Memory.write s.mem pa n x := rfl

theorem modPart_mem (s : State) (p : Fin 16) (f : Part → Part) : (s.modPart p f).mem = s.mem := rfl

theorem trace_mem_of_fits {s : State} {n : NibId} {k : Fin 8} {r : TraceRec}
    (fits : s.parts[s.partOf n].tpos.toNat + 32 ≤ s.parts[s.partOf n].tsize.toNat / 32 * 32) :
    (s.trace n k r).mem = Memory.write s.mem (s.parts[s.partOf n].tbase.toNat + s.parts[s.partOf n].tpos.toNat) 32
      (r.packed (s.strokeNumber n k) s.tn) := by
  rw [trace_of_fits fits, modPart_mem, hostWrite_mem]

theorem hostWrite_part (s : State) (p : Fin 16) (pa n x : Nat) :
    (s.hostWrite p pa n x).parts[p] = { s.parts[p] with hostLc := (s.writeStamp pa s.parts[p].hostLc).1 } :=
  Vector.getElem_set_self _

theorem saturating_count (d : BitVec 15) : (if d = BitVec.allOnes 15 then d else d + 1).toNat = min 32767 (d.toNat + 1) := by
  split
  case isTrue h => subst h; rfl
  case isFalse h =>
    have : d.toNat ≠ 32767 := fun e => h (BitVec.eq_of_toNat_eq e)
    have := d.isLt
    rw [BitVec.toNat_add, show (1 : BitVec 15).toNat = 1 from rfl]
    omega

/-- The fields of a record that has been written read as they were packed. -/
theorem TraceRec.read_packed {m : List Host.Cell} (wf : Memory.wf m = true) (r : TraceRec) {e : Nat} (he : e < 2 ^ 64) (turn a : Nat) :
    Memory.read (Memory.write m a 32 (r.packed e turn)) a 1 = r.kind % 256 ∧
      Memory.read (Memory.write m a 32 (r.packed e turn)) (a + 1) 1 = r.info % 256 ∧
      Memory.read (Memory.write m a 32 (r.packed e turn)) (a + 2) 2 = r.label % 65536 ∧
      Memory.read (Memory.write m a 32 (r.packed e turn)) (a + 4) 4 = r.pc % 2 ^ 32 ∧
      Memory.read (Memory.write m a 32 (r.packed e turn)) (a + 8) 8 = e ∧
      Memory.read (Memory.write m a 32 (r.packed e turn)) (a + 16) 8 = turn % 2 ^ 64 ∧
      Memory.read (Memory.write m a 32 (r.packed e turn)) (a + 24) 8 = r.data % 2 ^ 64 := by
  have fields := r.packed_fields he turn
  generalize r.packed e turn = w at fields ⊢
  obtain ⟨h0, h1, h2, h3, h4, h5, h6⟩ := fields
  have part := fun i k (h : i + k ≤ 32) => Memory.read_write_part m a 32 w i k wf h
  exact ⟨(part 0 1 (by decide)).trans h0, (part 1 1 (by decide)).trans h1, (part 2 2 (by decide)).trans h2,
    (part 4 4 (by decide)).trans h3, (part 8 8 (by decide)).trans h4, (part 16 8 (by decide)).trans h5, (part 24 8 (by decide)).trans h6⟩

theorem traceRecords : Claims.TraceRecords := by
  rintro s n k r p wf rfl
  refine ⟨fun fits => ?_, fun full => ?_⟩
  · obtain ⟨h0, h1, h2, h3, h4, h5, h6⟩ := r.read_packed wf (strokeNumber_lt s n k) s.tn
      (s.parts[s.partOf n].tbase.toNat + s.parts[s.partOf n].tpos.toNat)
    have mem := trace_mem_of_fits (k := k) (r := r) fits
    dsimp only
    rw [mem]
    refine ⟨h0, h1, h2, h3, h4, h5, h6, fun b out => Memory.get_write_outside _ _ _ _ _ wf out, ?_, trace_nibs s n k r⟩
    rw [trace_of_fits fits, modPart_same, hostWrite_part]
  · have gone := trace_of_full (k := k) (r := r) full
    have part : (s.trace n k r).parts[s.partOf n] = s.parts[s.partOf n].dropRecord := by rw [gone, modPart_same]
    dsimp only
    rw [part]
    exact ⟨by rw [gone]; rfl, rfl, rfl, saturating_count _, trace_nibs s n k r⟩

/-! ## Turns and their classes -/

section
variable (s : State) (n : NibId) (k : Fin 8)

/-- Counting a turn of this class. -/
def Stroke.countTurn (cls : TurnClass) (issued : Nat) (x : Stroke) : Stroke :=
  { x with
    lastIssued := cls = .issued
    ctx := if x.counts && x.status != .vacant then
        { x.ctx with
          issued := if cls = .issued then x.ctx.issued + 1 else x.ctx.issued
          nrMem := if cls = .memory then x.ctx.nrMem + 1 else x.ctx.nrMem
          nrMsg := if cls = .message then x.ctx.nrMsg + 1 else x.ctx.nrMsg
          instr := x.ctx.instr + BitVec.ofNat 48 issued }
      else x.ctx }

theorem exec_turnClassCount : exec (.turnClassCount n k) s =
    .next (s.modStroke n k (Stroke.countTurn (s.turnClass n k) s.turn.issued.length)) := rfl

end

theorem counts_iff (x : Stroke) :
    x.counts = true ↔ (x.ctx.gate = true ∨ x.gateOn = true) ∧ ¬ (x.gateOn = true ∧ x.gateOff = true) := by
  rw [Stroke.counts]
  cases x.gateOn <;> cases x.gateOff <;> cases x.ctx.gate <;> decide

/-- Some place of a parked stroke satisfies `f`. -/
def Status.parkedOn (f : Park → Bool) : Status → Bool
  | .parked ws => ws.any f
  | _ => false

def Park.isReplay : Park → Bool
  | .replay _ => true
  | _ => false

def Park.isSync : Park → Bool
  | .sync _ => true
  | _ => false

theorem parkedOn_isReplay (x : Status) : x.parkedOn Park.isReplay = true ↔ ∃ ws id, x = .parked ws ∧ .replay id ∈ ws := by
  constructor
  · intro h
    cases x with
    | parked ws =>
      obtain ⟨w, hw, is⟩ := List.any_eq_true.1 h
      cases w with
      | replay id => exact ⟨ws, id, rfl, hw⟩
      | sync id => exact absurd is Bool.false_ne_true
    | _ => exact absurd h Bool.false_ne_true
  · rintro ⟨ws, id, rfl, h⟩
    exact List.any_eq_true.2 ⟨_, h, rfl⟩

theorem parkedOn_isSync (x : Status) : x.parkedOn Park.isSync = true ↔ ∃ ws id, x = .parked ws ∧ .sync id ∈ ws := by
  constructor
  · intro h
    cases x with
    | parked ws =>
      obtain ⟨w, hw, is⟩ := List.any_eq_true.1 h
      cases w with
      | sync id => exact ⟨ws, id, rfl, hw⟩
      | replay id => exact absurd is Bool.false_ne_true
    | _ => exact absurd h Bool.false_ne_true
  · rintro ⟨ws, id, rfl, h⟩
    exact List.any_eq_true.2 ⟨_, h, rfl⟩

theorem awakeStroke_iff (s : State) (n : NibId) (k : Fin 8) :
    s.awakeStroke n k = true ↔ (s.stroke n k).status = .running ∨ ∃ ws, (s.stroke n k).status = .parked ws := by
  rw [State.awakeStroke]
  cases (s.stroke n k).status <;> simp

theorem any_seqs_iff (v : Vector SeqSt 4) (f : SeqSt → Bool) : v.toList.any f = true ↔ ∃ q : Fin 4, f v[q] = true := by
  rw [List.any_eq_true]
  constructor
  · rintro ⟨x, hx, h⟩
    obtain ⟨i, hi, rfl⟩ := List.getElem_of_mem hx
    have bound : i < 4 := by simpa using hi
    exact ⟨⟨i, bound⟩, by rwa [Vector.getElem_toList] at h⟩
  · rintro ⟨q, h⟩
    exact ⟨_, by simp, h⟩

/-- The turn waits on memory, or its stroke is parked on a replayable fault (R339). -/
def State.waitsOnMemory (s : State) (n : NibId) (k : Fin 8) : Bool :=
  s.turn.waitMem || (s.stroke n k).status.parkedOn Park.isReplay

/-- The turn waits on a message-like coupling (R339). -/
def State.waitsOnMessage (s : State) (n : NibId) (k : Fin 8) : Bool :=
  s.turn.waitMsg || (s.stroke n k).status.parkedOn Park.isSync ||
    (s.awakeStroke n k && (s.stroke n k).ctx.seqs.toList.any (·.joining)) || s.chainStalled n (s.stroke n k).ctx.cid

theorem turnClass_eq (s : State) (n : NibId) (k : Fin 8) :
    s.turnClass n k = if (s.stroke n k).status = .vacant then .other else if !s.turn.issued.isEmpty then .issued
      else if s.waitsOnMemory n k then .memory else if s.waitsOnMessage n k then .message else .other := rfl

theorem waitsOnMemory_iff (s : State) (n : NibId) (k : Fin 8) : s.waitsOnMemory n k = true ↔
    s.turn.waitMem = true ∨ ∃ ws id, (s.stroke n k).status = .parked ws ∧ .replay id ∈ ws := by
  rw [State.waitsOnMemory, Bool.or_eq_true, parkedOn_isReplay]

theorem waitsOnMessage_iff (s : State) (n : NibId) (k : Fin 8) : s.waitsOnMessage n k = true ↔
    s.turn.waitMsg = true ∨ (∃ ws id, (s.stroke n k).status = .parked ws ∧ .sync id ∈ ws) ∨
      (((s.stroke n k).status = .running ∨ ∃ ws, (s.stroke n k).status = .parked ws) ∧
        ∃ q : Fin 4, (s.stroke n k).ctx.seqs[q].joining = true) ∨ s.chainStalled n (s.stroke n k).ctx.cid = true := by
  rw [State.waitsOnMessage, Bool.or_eq_true, Bool.or_eq_true, Bool.or_eq_true, parkedOn_isSync, Bool.and_eq_true, awakeStroke_iff,
    any_seqs_iff, or_assoc, or_assoc]

section
variable {s : State} {n : NibId} {k : Fin 8} (there : (s.stroke n k).status ≠ .vacant)
include there

theorem turnClass_of_issued (issued : s.turn.issued ≠ []) : s.turnClass n k = .issued := by
  rw [turnClass_eq, if_neg there, if_pos (by simpa using issued)]

theorem turnClass_of_memory (none_issued : s.turn.issued = []) (memory : s.waitsOnMemory n k = true) : s.turnClass n k = .memory := by
  rw [turnClass_eq, if_neg there, if_neg (by simp [none_issued]), if_pos memory]

theorem turnClass_of_message (none_issued : s.turn.issued = []) (memory : ¬ s.waitsOnMemory n k = true)
    (message : s.waitsOnMessage n k = true) : s.turnClass n k = .message := by
  rw [turnClass_eq, if_neg there, if_neg (by simp [none_issued]), if_neg memory, if_pos message]

theorem turnClass_of_other (none_issued : s.turn.issued = []) (memory : ¬ s.waitsOnMemory n k = true)
    (message : ¬ s.waitsOnMessage n k = true) : s.turnClass n k = .other := by
  rw [turnClass_eq, if_neg there, if_neg (by simp [none_issued]), if_neg memory, if_neg message]

end

theorem turnClass_issued_iff (s : State) (n : NibId) (k : Fin 8) :
    s.turnClass n k = .issued ↔ (s.stroke n k).status ≠ .vacant ∧ s.turn.issued ≠ [] := by
  constructor
  · intro h
    rw [turnClass_eq] at h
    split at h
    · exact absurd h (by decide)
    · split at h
      case isTrue there issued => exact ⟨there, by simpa using issued⟩
      case isFalse => split at h <;> [skip; split at h] <;> exact absurd h (by decide)
  · exact fun ⟨there, issued⟩ => turnClass_of_issued there issued

theorem countTurn_of_closed (cls : TurnClass) (m : Nat) {x : Stroke} (h : x.status = .vacant ∨ ¬ x.counts = true) :
    (x.countTurn cls m).ctx = x.ctx := by
  refine if_neg ?_
  rcases h with h | h <;> simp [h]

theorem countTurn_of_open (cls : TurnClass) (m : Nat) {x : Stroke} (there : x.status ≠ .vacant) (open_ : x.counts = true) :
    (x.countTurn cls m).ctx = { x.ctx with
      issued := if cls = .issued then x.ctx.issued + 1 else x.ctx.issued
      nrMem := if cls = .memory then x.ctx.nrMem + 1 else x.ctx.nrMem
      nrMsg := if cls = .message then x.ctx.nrMsg + 1 else x.ctx.nrMsg
      instr := x.ctx.instr + BitVec.ofNat 48 m } :=
  if_pos (by simp [there, open_])

theorem add_no_instructions (x : BitVec 48) : x + BitVec.ofNat 48 ([] : List Seq).length = x := BitVec.add_zero x

theorem turnsAreClassed (s : State) (n : NibId) (k : Fin 8) (t : State)
    (ht : t = s.modStroke n k (Stroke.countTurn (s.turnClass n k) s.turn.issued.length)) :
    ((s.stroke n k).status = .vacant ∨ ¬ (s.stroke n k).counts = true → (t.stroke n k).ctx = (s.stroke n k).ctx) ∧
    ((s.stroke n k).status ≠ .vacant → (s.stroke n k).counts = true →
      (s.turn.issued ≠ [] → (t.stroke n k).ctx = { (s.stroke n k).ctx with
        issued := (s.stroke n k).ctx.issued + 1, instr := (s.stroke n k).ctx.instr + BitVec.ofNat 48 s.turn.issued.length }) ∧
      (s.turn.issued = [] → s.waitsOnMemory n k = true →
        (t.stroke n k).ctx = { (s.stroke n k).ctx with nrMem := (s.stroke n k).ctx.nrMem + 1 }) ∧
      (s.turn.issued = [] → ¬ s.waitsOnMemory n k = true → s.waitsOnMessage n k = true →
        (t.stroke n k).ctx = { (s.stroke n k).ctx with nrMsg := (s.stroke n k).ctx.nrMsg + 1 }) ∧
      (s.turn.issued = [] → ¬ s.waitsOnMemory n k = true → ¬ s.waitsOnMessage n k = true → (t.stroke n k).ctx = (s.stroke n k).ctx)) := by
  subst ht
  rw [State.stroke_modStroke_same]
  refine ⟨countTurn_of_closed _ _, fun there open_ => ?_⟩
  rw [countTurn_of_open _ _ there open_]
  refine ⟨fun issued => ?_, fun idle memory => ?_, fun idle memory message => ?_, fun idle memory message => ?_⟩
  · rw [turnClass_of_issued there issued]; rfl
  · rw [turnClass_of_memory there idle memory, idle, add_no_instructions]; rfl
  · rw [turnClass_of_message there idle memory message, idle, add_no_instructions]; rfl
  · rw [turnClass_of_other there idle memory message, idle, add_no_instructions]; rfl

/-! ## The histogram -/

theorem foldl_settleGate_of_still {s : State} {n : NibId} (still : ∀ j : Fin 8, (s.stroke n j).gateOn = false ∧ (s.stroke n j).gateOff = false)
    (l : List (Fin 8)) : l.foldl (fun s k => s.settleGate n k) s = s := by
  induction l with
  | nil => rfl
  | cons k l ih =>
    have same : s.settleGate n k = s := by
      rw [State.settleGate]
      exact if_neg (by simp [(still k).1, (still k).2])
    rw [List.foldl_cons, same]
    exact ih

theorem any_strokes_iff (v : Vector Stroke 8) (f : Stroke → Bool) : v.toList.any f = true ↔ ∃ q : Fin 8, f v[q] = true := by
  rw [List.any_eq_true]
  constructor
  · rintro ⟨x, hx, h⟩
    obtain ⟨i, hi, rfl⟩ := List.getElem_of_mem hx
    have bound : i < 8 := by simpa using hi
    exact ⟨⟨i, bound⟩, by rwa [Vector.getElem_toList] at h⟩
  · rintro ⟨q, h⟩
    exact ⟨_, by simp, h⟩

/-- The bin of a nib's cycle: how many of its strokes issued in their latest turn (R341). -/
def Nib.bin (b : Nib) : Fin 9 := Fin.ofNat 9 ((b.strokes.toList.filter (·.lastIssued)).length)

theorem bin_val (b : Nib) : b.bin.val = (b.strokes.toList.filter (·.lastIssued)).length := by
  have := List.length_filter_le (·.lastIssued) b.strokes.toList
  rw [Vector.length_toList] at this
  exact Nat.mod_eq_of_lt (by omega)

/-- The count of a bin rises by 1. -/
def Nib.countBin (b : Nib) (i : Fin 9) : Nib := { b with hist := b.hist.set i (b.hist[i] + 1) }

theorem countBin_hist (b : Nib) (i : Fin 9) :
    (b.countBin i).hist[i] = b.hist[i] + 1 ∧ ∀ j : Fin 9, j ≠ i → (b.countBin i).hist[j] = b.hist[j] :=
  ⟨Vector.getElem_set_self _, fun j h => Vector.getElem_set_ne i.isLt j.isLt (Fin.val_ne_of_ne h.symm)⟩

theorem exec_readyHistogramCount {s : State} {n : NibId}
    (still : ∀ j : Fin 8, (s.stroke n j).gateOn = false ∧ (s.stroke n j).gateOff = false) :
    exec (.readyHistogramCount n) s = .next (if (s.nib n).strokes.toList.any Stroke.counts then
      s.modNib n (fun b => b.countBin (s.nib n).bin) else s) := by
  have same : ∀ t : State, (t.nib n).strokes = (s.nib n).strokes →
      ∀ j : Fin 8, (t.stroke n j).gateOn = false ∧ (t.stroke n j).gateOff = false := by
    intro t h j
    rw [show t.stroke n j = s.stroke n j from congrArg (fun v : Vector Stroke 8 => v[j]) h]
    exact still j
  show execReadyHistogramCount n s = _
  rw [execReadyHistogramCount]
  by_cases open_ : (s.nib n).strokes.toList.any Stroke.counts = true
  · simp only [if_pos open_]
    rw [foldl_settleGate_of_still (same _ (by rw [State.nib_modNib_same]))]
    rfl
  · simp only [if_neg open_]
    rw [foldl_settleGate_of_still still]

theorem histogramCounts (s : State) (n : NibId) (still : ∀ j : Fin 8, (s.stroke n j).gateOn = false ∧ (s.stroke n j).gateOff = false) :
    ∃ t, exec (.readyHistogramCount n) s = .next t ∧ (t.nib n).strokes = (s.nib n).strokes ∧ { t with nibs := s.nibs } = s ∧
      ((∀ j : Fin 8, (s.stroke n j).ctx.gate = false) → (t.nib n).hist = (s.nib n).hist) ∧
      ((∃ j : Fin 8, (s.stroke n j).ctx.gate = true) →
        ∃ i : Fin 9, i.val = ((s.nib n).strokes.toList.filter (·.lastIssued)).length ∧
          (t.nib n).hist[i] = (s.nib n).hist[i] + 1 ∧ ∀ j : Fin 9, j ≠ i → (t.nib n).hist[j] = (s.nib n).hist[j]) := by
  have gates : (s.nib n).strokes.toList.any Stroke.counts = true ↔ ∃ j : Fin 8, (s.stroke n j).ctx.gate = true := by
    rw [any_strokes_iff]
    refine exists_congr (fun j => (counts_iff _).trans ?_)
    rw [show (s.nib n).strokes[j] = s.stroke n j from rfl, (still j).1]
    simp
  refine ⟨_, exec_readyHistogramCount still, ?_⟩
  by_cases open_ : (s.nib n).strokes.toList.any Stroke.counts = true
  · rw [if_pos open_, State.nib_modNib_same]
    refine ⟨rfl, rfl, fun shut => ?_, fun _ => ⟨_, bin_val _, countBin_hist _ _⟩⟩
    obtain ⟨j, h⟩ := gates.1 open_
    rw [shut j] at h
    exact absurd h Bool.false_ne_true
  · rw [if_neg open_]
    exact ⟨rfl, rfl, fun _ => rfl, fun h => absurd (gates.2 h) open_⟩

theorem turnsAreCounted : Claims.TurnsAreCounted := by
  rintro s n k x rfl open_ memory message
  obtain ⟨closed, counted⟩ := turnsAreClassed s n k _ rfl
  have isOpen : (s.stroke n k).counts = true ↔ open_ := counts_iff _
  have isMemory : s.waitsOnMemory n k = true ↔ memory := waitsOnMemory_iff s n k
  have isMessage : s.waitsOnMessage n k = true ↔ message := waitsOnMessage_iff s n k
  rw [isOpen] at closed counted
  rw [isMemory, isMessage] at counted
  refine ⟨⟨_, exec_turnClassCount s n k, rfl, fun m j ne => stroke_modStroke_others s n k _ ne, ?_, closed, counted⟩,
    histogramCounts s n, fun b => ⟨_, rfl, ?_⟩, fun p w => ⟨⟨_, rfl, modPart_same .., rfl⟩, _, rfl, rfl, modPart_same ..⟩, ?_⟩
  · rw [State.stroke_modStroke_same, ← turnClass_issued_iff]
    exact decide_eq_true_iff
  · rw [State.nib_modNib_same]
    exact ⟨Vector.getElem_set_self _, fun j h => Vector.getElem_set_ne b.isLt j.isLt (Fin.val_ne_of_ne h.symm), rfl, rfl⟩
  · rintro e rfl
    refine ⟨fun on phase go => if_pos ⟨on, phase, isOpen.2 go⟩, fun h => if_neg ?_⟩
    rintro ⟨on, phase, go⟩
    rcases h with h | h | h
    · exact on h
    · exact h phase
    · exact h (isOpen.1 go)

/-- Settles O24: a filter that is off leaves a label event alone, and a packed record reads field by field. -/
theorem labelsTraceAndCounters : Obligations.LabelsTraceAndCounters :=
  ⟨labelsStack, matchingFiltersAct, traceRecords, turnsAreCounted⟩

end Sys2Proof.Machine
end

section
/-! SUPPORT. A transfer of a context record whose own context stands in another entry (12_system.md R320, R322). -/

namespace Sys2Proof.Machine

open Sys2Proof

/-! ## A counterexample -/

/-- The last cell of a `ctxld` of entry 0, issued by context 1. -/
def movingOp : Op :=
  { id := 4, nib := 0, cid := 1, seq := .s, sl := 0, kind := .ctxMove 0 0 false 159, stroke := 0, due := 0, performed := false
    parked := false, lc := 0, tmax := 0, fail := none }

/-- What stands beside entry 1: context 1, with requests withdrawn, which the zeros of its record do not say. -/
def movingEntry : Entry := ⟨true, { Ctx.reset with cid := 1, withdrawn := true }, 0⟩

/-- Context 1, for which `movingOp` runs, stands in entry 1 of the cache. -/
def movingState : State :=
  { State.reset with
    mem := [], ops := [movingOp], nibs := [(0, { Nib.reset with entries := Nib.reset.entries.set 1 movingEntry })] }

/-- The cell that `movingOp` reads. -/
def movingPiece : Range := ⟨10176, wellPA 0 10176, 64, false, 0⟩

theorem moving_cellPieces : State.cellPieces (0 + BitVec.ofNat 64 (64 * 159)) 0 64 3 = [⟨10176, 0, 64, false, 0⟩] := by
  decide +kernel

theorem moving_engPieces (root : Word) : movingState.engPieces 0 root true false false
    (State.cellPieces (0 + BitVec.ofNat 64 (64 * 159)) 0 64 3) [] = .ok [movingPiece] := by
  have near : (10176 : Word).toNat < windowEnd := by decide
  have seen : movingState.refusedOf 0 true false (wellPA 0 10176) = false := by decide +kernel
  have here : movingState.goneHome (wellPA 0 10176) = false := by decide +kernel
  rw [moving_cellPieces, State.engPieces]
  have look : movingState.engineLook 0 root 10176 false (false && false) = .hit (wellPA 0 10176) false := if_pos near
  rw [if_neg (by rw [decide_eq_false (Nat.not_le.2 near)]; exact Bool.false_ne_true), look]
  show (if _ then _ else _) = _
  rw [seen, here]
  rfl

theorem recField_zero (o n : Nat) : recField 0 o n = 0 := by rw [recField, Nat.zero_div, Nat.zero_mod]

/-- What the reading of an all-zero record makes of context 1 differs from what stands beside its entry. -/
theorem withdrawn_of_zeros (side : Ctx) : (Ctx.ofRecord 0 side).withdrawn = false := by
  simp only [Ctx.ofRecord, recField_zero, Nat.zero_testBit]

theorem Memory.read_empty (a n : Nat) : Memory.read [] a n = 0 := by
  induction n generalizing a with
  | zero => rfl
  | succ n ih => simp [Memory.read, Memory.get, ih]

theorem write_nil_zero (a n : Nat) : Memory.write [] a n 0 = [] := by
  induction n generalizing a with
  | zero => rfl
  | succ n ih => rw [Memory.write]; exact ih (a + 1)

/-- The nib with context `c` in entry e. -/
def Nib.withEntry (b : Nib) (e : Fin 8) (c : Ctx) : Nib :=
  { b with entries := b.entries.set e { b.entries[e] with valid := true, ctx := c } }

section
variable (s : State) (n : NibId) (e : Fin 8)

theorem nib_mem (m : List Host.Cell) : ({ s with mem := m } : State).nib n = s.nib n := rfl

theorem nib_modOp (id : Nat) (f : Op → Op) : (s.modOp id f).nib n = s.nib n := rfl

theorem nib_newId : s.newId.2.nib n = s.nib n := rfl

theorem putEntry_nib (c : Ctx) (b : Bool) (tip : Word) : (s.putEntry n e c b tip).nib n = (s.nib n).withEntry e c := by
  rw [State.putEntry]
  generalize Memory.write _ _ _ _ = m
  exact (nib_mem _ n m).trans (State.nib_modNib_same ..)

theorem withEntry_same (b : Nib) (c : Ctx) : (b.withEntry e c).entries[e] = { b.entries[e] with valid := true, ctx := c } :=
  Vector.getElem_set_self _

theorem withEntry_ne (b : Nib) (c : Ctx) {f : Fin 8} (h : f ≠ e) : (b.withEntry e c).entries[f] = b.entries[f] :=
  Vector.getElem_set_ne e.isLt f.isLt (Fin.val_ne_of_ne h.symm)

theorem putEntry_entry_ne (c : Ctx) (b : Bool) (tip : Word) {f : Fin 8} (h : f ≠ e) :
    ((s.putEntry n e c b tip).nib n).entries[f] = (s.nib n).entries[f] := by
  rw [putEntry_nib, withEntry_ne _ _ _ h]

theorem modEntry_ctx (f : Ctx → Ctx) : ((s.modEntry n e f).nib n).entries[e].ctx = f (s.entryCtx n e) := by
  rw [State.modEntry, putEntry_nib, withEntry_same]

end

set_option maxRecDepth 4000 in
/-- The end of a `ctxld` leaves every entry but its own. -/
theorem moveDone_entry_ne (s : State) (o : Op) (e : Fin 8) (va : Word) {f : Fin 8} (h : f ≠ e) :
    ((s.moveDone o e va false).nib o.nib).entries[f] = (s.nib o.nib).entries[f] := by
  unfold State.moveDone
  extract_lets n done beside img det
  have stands : ∀ (u : State) (x : Option (BitVec 8 × Word)), (done u x).nib o.nib = u.nib o.nib := fun u x => nib_modOp u o.nib _ _
  rw [if_neg Bool.false_ne_true]
  split
  · rw [stands]
  · split
    next made =>
      cases made
      rw [stands, putEntry_entry_ne _ _ _ _ _ _ h]
      rfl

theorem moving_modCid {s : State} (nibs : s.nibs = movingState.nibs) (f : Ctx → Ctx) : s.modCid 0 1 f = s.modEntry 0 1 f := by
  have away : (List.finRange 8).find? (fun k => s.hasCid 0 k 1) = none := by
    have same : ∀ k, s.hasCid 0 k 1 = movingState.hasCid 0 k 1 := by
      intro k; rw [State.hasCid, stroke_of_nibs nibs, ← State.hasCid]
    simp only [same]
    decide +kernel
  have kept : (List.finRange 8).find? (fun e => (s.nib 0).entries[e].valid && (s.nib 0).entries[e].ctx.cid == 1) = some 1 := by
    rw [show s.nib 0 = movingState.nib 0 by rw [State.nib, nibs]; rfl]
    decide +kernel
  rw [State.modCid, away]
  dsimp only
  rw [kept]

/-- The last cell of a `ctxld` is read, the sequencer's clock follows, and the transfer is done. -/
theorem moveStep_last_load {s : State} {o : Op} {e : Fin 8} {va : Word} {r : Range} {tl : List Range} (again : Instr)
    (kind : o.kind = .ctxMove e va false 159) (new : o.performed = false)
    (pieces : s.engPieces o.nib (s.engFor o.nib o.cid).1 true false false
      (State.cellPieces (va + BitVec.ofNat 64 (64 * 159)) 0 64 3) [] = .ok (r :: tl)) :
    ∃ x t u, s.seqRead o.nib r (s.pieceAt o.nib (s.engFor o.nib o.cid).1 r (s.opLc o)) (s.opLc o) = (x, t, u) ∧
      s.moveStep o again = ((({ u with mem := Memory.write u.mem (entryPA o.nib e + 64 * 159) 64 x } : State).setOpLc o t).modOp o.id
        (fun o => { o with kind := .ctxMove e va false 160 })).moveDone o e va false := by
  rcases read : s.seqRead o.nib r (s.pieceAt o.nib (s.engFor o.nib o.cid).1 r (s.opLc o)) (s.opLc o) with ⟨x, t, u⟩
  refine ⟨x, t, u, rfl, ?_⟩
  rw [State.moveStep, kind]
  dsimp only
  rw [new, if_neg Bool.false_ne_true, pieces]
  dsimp only
  rw [if_neg Bool.false_ne_true, if_pos rfl, read]

/-- The cell of `movingState` is read at its home, where every byte is 0, and leaves no copy. -/
theorem moving_seqRead (root : Word) (lc : Clk) :
    ((movingState.seqRead 0 movingPiece (movingState.pieceAt 0 root movingPiece lc) lc).1 = 0) ∧
      ((movingState.seqRead 0 movingPiece (movingState.pieceAt 0 root movingPiece lc) lc).2.2.nibs = movingState.nibs) ∧
      ((movingState.seqRead 0 movingPiece (movingState.pieceAt 0 root movingPiece lc) lc).2.2.mem = []) := by
  have same : movingState.pieceAt 0 root movingPiece lc = movingPiece := if_pos (by decide)
  rw [same]
  exact ⟨Memory.read_empty (wellPA 0 10176) 64, rfl, rfl⟩

theorem entryCtx_withdrawn {s : State} (n : NibId) (e : Fin 8) (none_listed : s.mem = []) : (s.entryCtx n e).withdrawn = false := by
  rw [State.entryCtx, none_listed, Memory.read_empty]
  exact withdrawn_of_zeros _

/-- The transfer rewrites the entry in which its own context stands. -/
theorem moving_rewrites : ∃ t, exec (.homeRead 4) movingState = .next t ∧ ((t.nib 0).entries[(1 : Fin 8)]).ctx.withdrawn = false := by
  have found : movingState.findOp 4 = some movingOp := rfl
  have run : exec (.homeRead 4) movingState = .next (movingState.moveStep movingOp (.homeRead 4)) := by
    show execHomeRead 4 movingState = _
    rw [execHomeRead, State.homeEvent, found]
    exact congrArg Host.Outcome.next (if_neg (by decide))
  obtain ⟨x, t, u, read, step⟩ := moveStep_last_load (s := movingState) (o := movingOp) (.homeRead 4) rfl rfl (moving_engPieces _)
  obtain ⟨zero, nibs, mem⟩ := moving_seqRead (movingState.engFor 0 1).1 (movingState.opLc movingOp)
  have read' : movingState.seqRead 0 movingPiece (movingState.pieceAt 0 (movingState.engFor 0 1).1 movingPiece (movingState.opLc movingOp))
    (movingState.opLc movingOp) = (x, t, u) := read
  rw [read'] at zero nibs mem
  obtain rfl : x = 0 := zero
  have bytes : ∀ a, Memory.write u.mem a 64 0 = [] := fun a => by rw [show u.mem = [] from mem, write_nil_zero]
  refine ⟨_, run, ?_⟩
  rw [step, show (0 : NibId) = movingOp.nib from rfl, moveDone_entry_ne _ _ _ _ (by decide), nib_modOp, State.setOpLc,
    show movingOp.nib = 0 from rfl, show movingOp.cid = 1 from rfl, moving_modCid (by exact nibs), modEntry_ctx]
  rw [bytes]
  have zeros := entryCtx_withdrawn (s := { u with mem := [] }) 0 1 rfl
  generalize State.entryCtx _ 0 1 = c at zeros ⊢
  exact zeros

/-- Refutes O25: a `ctxld` whose own context stands in another entry of the cache (its sequencer's clock is kept there, R322)
rewrites that entry with every cell that it reads, so the entries of its nib do not stand where its record is refused. -/
theorem not_contextsSwap : ¬ Obligations.ContextsSwap := by
  rintro ⟨-, -, -, moves⟩
  obtain ⟨-, load⟩ := moves movingState movingOp 0 0 false 159 movingPiece [] rfl rfl rfl rfl (moving_engPieces _) rfl rfl
  obtain ⟨t, run, -, last⟩ := load rfl
  obtain ⟨_, -, -, refused, -⟩ := last rfl rfl _ _ rfl rfl
  obtain ⟨u, run', lost⟩ := moving_rewrites
  obtain rfl : t = u := Host.Outcome.next.inj (run.symm.trans run')
  have zeros : Memory.read movingState.mem movingPiece.pa 64 = 0 := Memory.read_empty _ _
  obtain ⟨-, entries⟩ := refused (by
    rw [zeros, show movingState.mem = [] from rfl, write_nil_zero, Memory.read_empty, recField_zero]
    exact Nat.zero_ne_one)
  have was : ((movingState.nib 0).entries[(1 : Fin 8)]).ctx.withdrawn = true := rfl
  have now : ((movingState.nib 0).entries[(1 : Fin 8)]).ctx.withdrawn = false := by
    rw [← show (t.nib 0).entries = (movingState.nib 0).entries from entries]
    exact lost
  exact absurd (was.symm.trans now) (by decide)

end Sys2Proof.Machine
end

section
/-! SUPPORT. A waiter whose context stands in an entry of the context cache (06_memory.md R155, 12_system.md R323). -/

namespace Sys2Proof.Machine

open Sys2Proof

/-! ## A counterexample -/

/-- A long-form load that waits at the word 0, issued by context 1. -/
def waitingOp : Op :=
  { id := 4, nib := 0, cid := 1, seq := .s, sl := 1, kind := .access (.sync 0 0) [⟨0, 0, 8, false, 0⟩] 0 false, stroke := 0
    due := 0, performed := false, parked := false, lc := 0, tmax := 0, fail := none }

/-- `waitingOp` waits at a full word, while its context stands in entry 0 of the cache. -/
def waitingState : State :=
  { State.reset with
    mem := [], full := [0], ops := [waitingOp]
    nibs := [(0, { Nib.reset with
      waiters := [4], entries := Nib.reset.entries.set 0 ⟨true, { Ctx.reset with cid := 1 }, 0⟩ })] }

/-- The context of `waitingOp` is changed in its entry. -/
theorem waiting_modCid {s : State} (nibs : s.nibs = waitingState.nibs) (f : Ctx → Ctx) : s.modCid 0 1 f = s.modEntry 0 0 f := by
  have away : (List.finRange 8).find? (fun k => s.hasCid 0 k 1) = none := by
    have same : ∀ k, s.hasCid 0 k 1 = waitingState.hasCid 0 k 1 := by
      intro k; rw [State.hasCid, stroke_of_nibs nibs, ← State.hasCid]
    simp only [same]
    decide +kernel
  have kept : (List.finRange 8).find? (fun e => (s.nib 0).entries[e].valid && (s.nib 0).entries[e].ctx.cid == 1) = some 0 := by
    rw [show s.nib 0 = waitingState.nib 0 by rw [State.nib, nibs]; rfl]
    decide +kernel
  rw [State.modCid, away]
  dsimp only
  rw [kept]

/-- The first waiter of a word that can proceed, with what it does there (R155). -/
def State.readyWaiter (s : State) (n : NibId) (pa : Nat) : Option (Op × Fin 4 × Fin 32 × Nat) :=
  (s.nib n).waiters.findSome? (fun id =>
    match s.findOp id with
    | some o =>
      match o.kind with
      | .access (.sync kind d) (r :: _) x _ =>
        if r.pa = pa && syncReady kind (s.full.contains pa) then some (o, kind, d, x) else none
      | _ => none
    | none => none)

/-- Serving one waiter: its access, the clock of its sequencer, its place in the table, and the operation itself. -/
def State.serveWaiter (s : State) (n : NibId) (pa : Nat) (o : Op) (kind : Fin 4) (d : Fin 32) (x : Nat) : State :=
  let a := s.syncAct kind pa x (s.opLc o)
  let u := (a.2.2.setOpLc o a.2.1).modNib n (fun b => { b with waiters := b.waiters.filter (· != o.id) })
  u.modOp o.id (fun o =>
    { o with performed := true, due := u.cycle, tmax := a.2.1, kind := .access (.sync kind d) [] a.1 false })

theorem cascade_succ (s : State) (n : NibId) (pa fuel : Nat) : s.cascade n pa (fuel + 1) =
    match s.readyWaiter n pa with
    | none => s
    | some (o, kind, d, x) => (s.serveWaiter n pa o kind d x).cascade n pa fuel := by
  rw [State.cascade]
  rfl

theorem cascade_of_no_waiters {s : State} {n : NibId} (h : (s.nib n).waiters = []) (pa fuel : Nat) : s.cascade n pa fuel = s := by
  cases fuel with
  | zero => rfl
  | succ fuel => rw [cascade_succ, State.readyWaiter, h]; rfl

/-- The access of `waitingOp` at its word changes no memory and no nib. -/
theorem waiting_act (lc : Clk) :
    (waitingState.syncAct 0 0 0 lc).2.2.mem = [] ∧ (waitingState.syncAct 0 0 0 lc).2.2.nibs = waitingState.nibs := ⟨rfl, rfl⟩

/-- The context with the clock of one sequencer set. -/
def Ctx.withLc (c : Ctx) (q : Fin 4) (t : Clk) : Ctx := { c with seqs := c.seqs.set q { c.seqs[q] with lc := t } }

theorem Ctx.withLc_c (c : Ctx) (q : Fin 4) (t : Clk) : (c.withLc q t).c = c.c := rfl

theorem Ctx.record_withLc (c : Ctx) (q : Fin 4) (t : Clk) (stopped : Bool) (tip : Word) :
    (c.withLc q t).record stopped tip = c.record stopped tip := by
  have pc : ∀ (i : Nat) (h : i < 4), ((c.seqs.set q { c.seqs[q] with lc := t })[i]).pc = c.seqs[i].pc := by
    intro i h
    rcases eq_or_ne q.val i with rfl | ne
    · rw [Vector.getElem_set_self]; rfl
    · rw [Vector.getElem_set_ne _ _ ne]
  simp only [Ctx.record, Ctx.fields, Ctx.withLc, pc]
  rfl

/-- Context 1, read from an entry of zeros. -/
def zeroCtx : Ctx := Ctx.ofRecord 0 { Ctx.reset with cid := 1 }

/-- Its record, written again, has version 1. -/
theorem record_of_zeros : (zeroCtx.record false 0).testBit (8 * 0x1430) = true := by
  decide +kernel

theorem getLsbD_byte (x n : Nat) : (BitVec.ofNat 8 (x / 256 ^ n)).getLsbD 0 = x.testBit (8 * n) := by
  rw [BitVec.getLsbD_ofNat, show (256 : Nat) = 2 ^ 8 from rfl, ← Nat.pow_mul, Nat.testBit_div_two_pow]
  simp

theorem putEntry_mem (s : State) (n : NibId) (e : Fin 8) (c : Ctx) (stopped : Bool) (tip : Word) :
    (s.putEntry n e c stopped tip).mem = Memory.write s.mem (entryPA n e) recordSize (c.record stopped tip) := by
  rw [State.putEntry]
  dsimp only
  rw [State.modNib_mem]

/-- Serving `waitingOp` writes its sequencer's clock to its entry. -/
theorem waiting_serve : ((waitingState.serveWaiter 0 0 waitingOp 0 0 0).nib 0).waiters = [] ∧
    ∃ c : Ctx, (waitingState.serveWaiter 0 0 waitingOp 0 0 0).mem = Memory.write [] (entryPA 0 0) recordSize (c.record false 0) ∧
      (c.record false 0).testBit (8 * 0x1430) = true := by
  obtain ⟨mem, nibs⟩ := waiting_act (waitingState.opLc waitingOp)
  rw [State.serveWaiter]
  generalize waitingState.syncAct 0 0 0 (waitingState.opLc waitingOp) = a at mem nibs ⊢
  obtain ⟨y, t, u⟩ := a
  have set : u.setOpLc waitingOp t = u.modEntry 0 0 (fun c => c.withLc 0 t) :=
    waiting_modCid (by exact nibs) _
  dsimp only
  rw [set]
  constructor
  · rw [nib_modOp, State.nib_modNib_same, State.modEntry, putEntry_nib, State.nib, nibs]
    rfl
  · refine ⟨zeroCtx.withLc 0 t, ?_, ?_⟩
    rotate_left
    · rw [Ctx.record_withLc]; exact record_of_zeros
    have was : u.entryCtx 0 0 = zeroCtx := by
      rw [State.entryCtx, show u.mem = [] from mem, Memory.read_empty, State.nib, nibs]
      rfl
    have field : Memory.read u.mem (entryPA 0 0 + 0x17A0) 8 = 0 := by
      rw [show u.mem = [] from mem, Memory.read_empty]
    have running : u.entryStopped 0 0 = false := by
      rw [State.entryStopped, show u.mem = [] from mem]; rfl
    have tip : BitVec.ofNat 64 0 &&& 0xA0 ||| zeroCtx.c.tip = 0 := by decide +kernel
    rw [show ∀ (v : State) f, (v.modOp waitingOp.id f).mem = v.mem from fun _ _ => rfl, State.modNib_mem, State.modEntry, was, field,
      running, putEntry_mem, Ctx.withLc_c, tip, show u.mem = [] from mem]

/-- Refutes O32: a waiter whose context stands in an entry of the context cache has its sequencer's clock set there (R155,
R323), so that serving a load writes the bytes of that entry's record. -/
theorem not_waitersAndParks : ¬ Obligations.WaitersAndParks := by
  rintro ⟨served, -⟩
  obtain ⟨-, -, first⟩ := served waitingState 0 0 2 (by decide)
  obtain ⟨u, p, again, waiters, -, mem, -⟩ := first [] 4 [] waitingOp 0 0 0 rfl (fun _ h => nomatch h)
    ⟨rfl, ⟨_, _, _, rfl, rfl⟩, fun _ => rfl, fun h => absurd h (by decide)⟩
  have none_left : (u.nib 0).waiters = [] := waiters
  rw [cascade_of_no_waiters none_left, cascade_succ, show waitingState.readyWaiter 0 0 = some (waitingOp, 0, 0, 0) from rfl] at again
  obtain ⟨empty, c, written, version⟩ := waiting_serve
  dsimp only at again
  rw [cascade_of_no_waiters empty] at again
  have bytes : Memory.write [] (entryPA 0 0) recordSize (c.record false 0) = [] := by
    rw [← written, again]; exact mem
  have byte := Memory.get_write_inside [] (entryPA 0 0) recordSize (c.record false 0) 0x1430 rfl (by decide)
  rw [bytes] at byte
  have bit := (getLsbD_byte (c.record false 0) 0x1430).trans version
  rw [← byte] at bit
  exact Bool.false_ne_true bit

end Sys2Proof.Machine
end

section
/-! SUPPORT. Translations that arrive, fault records, invalidations, publish entries and clock floors (06_memory.md R165 to R173,
07_ordering.md R176, R182, R190). -/

namespace Sys2Proof.Machine

open Sys2Proof

/-! ## Operations -/

theorem id_of_findOp {s : State} {id : Nat} {o : Op} (found : s.findOp id = some o) : o.id = id :=
  beq_iff_eq.1 (List.find?_some (p := fun x : Op => x.id == id) found)

theorem findOp_modOp {s : State} {id : Nat} {o : Op} (found : s.findOp id = some o) {f : Op → Op} (keeps : ∀ x, (f x).id = x.id) :
    (s.modOp id f).findOp id = some (f o) := by
  have same : (fun x : Op => x.id == id) ∘ (fun x : Op => if x.id = id then f x else x) = fun x => x.id == id := by
    funext x
    rw [Function.comp_apply]
    split
    · rw [keeps]
    · rfl
  rw [State.findOp, State.modOp, List.find?_map, same, ← State.findOp, found, Option.map_some, if_pos (id_of_findOp found)]

theorem findOp_modOp_ne (s : State) {id j : Nat} (other : j ≠ id) {f : Op → Op} (keeps : ∀ x, (f x).id = x.id) :
    (s.modOp id f).findOp j = s.findOp j := by
  have same : (fun x : Op => x.id == j) ∘ (fun x : Op => if x.id = id then f x else x) = fun x => x.id == j := by
    funext x
    rw [Function.comp_apply]
    split
    · rw [keeps]
    · rfl
  rw [State.findOp, State.modOp, List.find?_map, same, ← State.findOp]
  cases found : s.findOp j with
  | none => rfl
  | some o => rw [Option.map_some, if_neg (by rw [id_of_findOp found]; exact other)]

/-! ## Translations -/

section
variable {s : State} {n : NibId} {id : Nat} {o : Op} {asid : BitVec 16} {va : Word} {code : Fin 4}

/-- A fill that is still awaited takes the entry of the second level, or what the walk comes to. -/
theorem tlbFill_eq (found : s.findOp id = some o) (kind : o.kind = .tlbFill asid va code) (new : o.performed = false)
    (unparked : o.parked = false) : exec (.tlbFill n id) s =
      match s.folios[State.folioOf n].tlb.find? (fun t => State.TlbEntry.hits t asid va) with
      | some e => .next ((s.tlbKeep n e).dropOp id)
      | none =>
        match s.walk (s.partOf n) (s.engFor n o.cid).1 va (code != 0) with
        | .ok _ big frame home w => .next ((s.tlbKeep n (State.tlbOf asid va big frame home w)).dropOp id)
        | .precise => .next (s.modOp id (fun o => { o with performed := true, due := s.cycle, fail := some (1, va) }))
        | .replay =>
          if (match (s.stroke n o.stroke).status with | .parked ws => ws.contains (.replay id) | _ => false) then
            .next ((s.modOp id (fun o => { o with parked := true })).coalesce id n o.stroke asid va code.val)
          else .next (s.modOp id (fun o => { o with performed := true, due := s.cycle, fail := some (0, va) })) := by
  show execTlbFill n id s = _
  rw [execTlbFill, found]
  dsimp only
  rw [kind]
  dsimp only
  rw [new, unparked]
  exact if_neg Bool.false_ne_true

theorem tlbAdd_head (l : List TlbEntry) (e : TlbEntry) (n : Nat) : (State.tlbAdd l e (n + 1)).head? = some e := rfl

theorem tlbAdd_length (l : List TlbEntry) (e : TlbEntry) (n : Nat) : (State.tlbAdd l e n).length ≤ n := List.length_take_le ..

/-- A translation that both levels keep. -/
theorem tlbKeep_dropOp (s : State) (n : NibId) (id : Nat) (e : TlbEntry) : ∃ t, (s.tlbKeep n e).dropOp id = t ∧ t.mem = s.mem ∧
    (t.nib n).tlb.head? = some e ∧ (t.nib n).tlb.length ≤ 32 ∧ t.folios[State.folioOf n].tlb.head? = some e ∧
    t.folios[State.folioOf n].tlb.length ≤ 8192 ∧ t.ops = s.ops.filter (·.id != id) ∧ ∀ k, t.stroke n k = s.stroke n k := by
  have nib : ((s.tlbKeep n e).dropOp id).nib n = { s.nib n with tlb := State.tlbAdd (s.nib n).tlb e 32 } :=
    State.nib_modNib_same s n (fun b => { b with tlb := State.tlbAdd b.tlb e 32 })
  have folio : ((s.tlbKeep n e).dropOp id).folios[State.folioOf n].tlb = State.tlbAdd s.folios[State.folioOf n].tlb e 8192 := by
    rw [State.dropOp, State.tlbKeep]
    exact congrArg Folio.tlb (Vector.getElem_set_self _)
  refine ⟨_, rfl, rfl, ?_, ?_, ?_, ?_, rfl, fun k => ?_⟩
  · rw [nib]; exact tlbAdd_head ..
  · rw [nib]; exact tlbAdd_length ..
  · rw [folio]; exact tlbAdd_head ..
  · rw [folio]; exact tlbAdd_length ..
  · rw [State.stroke, nib]; rfl

end

theorem translationsArrive : Claims.TranslationsArrive := by
  intro s n id o asid va code found kind new unparked l2 walked keeps fails
  have run := tlbFill_eq (n := n) found kind new unparked
  have kept : ∀ e, exec (.tlbFill n id) s = .next ((s.tlbKeep n e).dropOp id) → keeps e := by
    intro e h
    obtain ⟨t, rfl, frame⟩ := tlbKeep_dropOp s n id e
    exact ⟨_, h, frame⟩
  have failed : ∀ c, exec (.tlbFill n id) s = .next (s.modOp id (fun o => { o with performed := true, due := s.cycle, fail := some (c, va) })) →
      fails c := fun c h => ⟨_, _, h, rfl, rfl, findOp_modOp found (by exact fun _ => rfl), rfl, rfl⟩
  refine ⟨fun e hit => kept e ?_, fun miss => ⟨fun pa big frame home w ok => kept _ ?_, fun bad => failed 1 ?_, fun later awake => failed 0 ?_⟩⟩
  · rw [run, show s.folios[State.folioOf n].tlb.find? _ = some e from hit]
  · rw [run, show s.folios[State.folioOf n].tlb.find? _ = none from miss, show s.walk _ _ va _ = _ from ok]
  · rw [run, show s.folios[State.folioOf n].tlb.find? _ = none from miss, show s.walk _ _ va _ = _ from bad]
  · rw [run, show s.folios[State.folioOf n].tlb.find? _ = none from miss, show s.walk _ _ va _ = _ from later]
    dsimp only
    split
    · next ws h => exact absurd h (awake ws)
    · rfl

/-! ## Fault records -/

theorem again_saturates (x : BitVec 8) : (if x = 255 then 255 else x + 1) = BitVec.ofNat 8 (min 255 (x.toNat + 1)) := by
  by_cases full : x = 255
  · rw [if_pos full, full]; rfl
  · have less : x.toNat ≠ 255 := fun h => full (BitVec.eq_of_toNat_eq h)
    have bound := x.isLt
    rw [if_neg full, min_eq_right (by omega), BitVec.ofNat_add, BitVec.ofNat_toNat, BitVec.setWidth_eq]
    rfl

section
variable {s : State} {p : Fin 16} {va : BitVec 64} {asid : BitVec 16} {page : Word}

/-- The page of a fault record (R173). -/
theorem faultRecord_eq (here : page = (BitVec.ofNat 52 (va.toNat % 2 ^ 52 / 2 ^ 16 * 2 ^ 16)).signExtend 64) (n : BitVec 32)
    (kind : BitVec 8) : exec (.faultRecord p va n asid kind) s =
      if s.parts[p].faults.any (fun r => r.asid == asid && r.va == page) then
        .next (s.modPart p (fun y => { y with faults := s.parts[p].faults.map (fun r =>
          if r.asid == asid && r.va == page then { r with reqs := if r.reqs = 255 then 255 else r.reqs + 1 } else r) }))
      else if s.parts[p].faults.length < 8 then
        .next ((s.modPart p (fun y => { y with faults := s.parts[p].faults ++ [⟨page, n, asid, kind, 1⟩] })).raiseMsix
          (Fin.ofNat 17 s.parts[p].vf) 1)
      else .next (s.modPart p (fun y => { y with drop := true })) := by
  subst here
  rfl

theorem not_any_faults (fresh : ∀ x ∈ s.parts[p].faults, x.asid ≠ asid ∨ x.va ≠ page) :
    s.parts[p].faults.any (fun r => r.asid == asid && r.va == page) = false := by
  simpa [List.any_eq_false, ← not_and_or] using fresh

end

theorem raiseMsix_msix (s : State) (v : Fin 17) (i : Fin 4) : (s.raiseMsix v i).vfs[v].msix[i] = s.vfs[v].msix[i] + 1 := by
  have raised : (s.raiseMsix v i).vfs[v] = { s.vfs[v] with msix := s.vfs[v].msix.set i (s.vfs[v].msix[i] + 1) } :=
    Vector.getElem_set_self _
  rw [raised]
  exact Vector.getElem_set_self _

theorem raiseMsix_parts (s : State) (v : Fin 17) (i : Fin 4) : (s.raiseMsix v i).parts = s.parts := rfl

theorem map_unmatched {α : Type} {l : List α} {p : α → Bool} (none : ∀ x ∈ l, p x = false) (f : α → α) :
    l.map (fun x => if p x then f x else x) = l := by
  conv_rhs => rw [← List.map_id l]
  exact List.map_congr_left (fun x hx => by rw [none x hx]; rfl)

theorem faultRecordsAndCopies : Claims.FaultRecordsAndCopies := by
  refine ⟨fun s n c => ⟨_, rfl, rfl, State.nib_modNib_same .., rfl⟩, ?_⟩
  intro s p va n asid kind page here
  have run := faultRecord_eq (s := s) (p := p) (asid := asid) here n kind
  have others : ∀ (f : Part → Part) (q : Fin 16), q ≠ p → (s.modPart p f).parts[q] = s.parts[q] := fun f q h => modPart_ne s f h
  by_cases held : s.parts[p].faults.any (fun r => r.asid == asid && r.va == page) = true
  · rw [if_pos held] at run
    refine ⟨_, run, rfl, rfl, others _, fun pre r post split ra rv rest => ?_, fun fresh => ?_⟩
    · have apart : ∀ l : List FaultRec, (∀ x ∈ l, x ∈ pre ++ post) → ∀ x ∈ l, (x.asid == asid && x.va == page) = false := by
        intro l inside x hx
        rcases rest x (inside x hx) with h | h
        · rw [beq_false_of_ne h, Bool.false_and]
        · rw [beq_false_of_ne h, Bool.and_false]
      rw [modPart_same, split, List.map_append, List.map_cons, map_unmatched (apart pre fun x hx => List.mem_append_left _ hx),
        map_unmatched (apart post fun x hx => List.mem_append_right _ hx), ← again_saturates, if_pos (by simp [ra, rv])]
    · rw [not_any_faults fresh] at held
      exact absurd held Bool.false_ne_true
  · rw [if_neg held] at run
    have stale : ∀ pre r post, s.parts[p].faults = pre ++ r :: post → r.asid = asid → r.va = page → False := by
      intro pre r post split ra rv
      exact held (List.any_eq_true.2 ⟨r, split ▸ List.mem_append_right _ (List.mem_cons_self ..), by simp [ra, rv]⟩)
    by_cases room : s.parts[p].faults.length < 8
    · rw [if_pos room] at run
      refine ⟨_, run, rfl, rfl, fun q h => ?_, fun pre r post split ra rv => (stale pre r post split ra rv).elim, fun _ =>
        ⟨fun _ => ⟨?_, fun v hv => ?_⟩, fun full => absurd room (Nat.not_lt.2 full)⟩⟩
      · rw [raiseMsix_parts, others _ q h]
      · rw [raiseMsix_parts, modPart_same]
      have same : Fin.ofNat 17 s.parts[p].vf = v := Fin.ext (by rw [← hv]; exact Nat.mod_eq_of_lt v.isLt)
      rw [same]
      exact raiseMsix_msix _ v 1
    · rw [if_neg room] at run
      exact ⟨_, run, rfl, rfl, others _, fun pre r post split ra rv => (stale pre r post split ra rv).elim, fun _ =>
        ⟨fun h => absurd h room, fun _ => ⟨modPart_same .., rfl⟩⟩⟩

/-! ## Invalidations -/

theorem nibIn_map (l : List (NibId × Nib)) (c : NibId → Bool) (f : Nib → Nib) (reset : f Nib.reset = Nib.reset) (n : NibId) :
    nibIn (l.map (fun y => if c y.1 then (y.1, f y.2) else y)) n = if c n then f (nibIn l n) else nibIn l n := by
  induction l with
  | nil => simp [nibIn, reset]
  | cons y r ih =>
    obtain ⟨m, x⟩ := y
    rw [List.map_cons]
    by_cases hm : n = m
    · subst hm
      by_cases hc : c n = true
      · simp [hc, nibIn]
      · simp [hc, nibIn]
    · have head : (if c m = true then (m, f x) else (m, x)).1 = m := by split <;> rfl
      rw [show (if c (m, x).1 = true then ((m, x).1, f (m, x).2) else (m, x)) = (m, (if c m = true then (m, f x) else (m, x)).2) from
        Prod.ext head rfl, nibIn, if_neg hm, ih, nibIn, if_neg hm]

/-- The entries of a TLB that an invalidation leaves (R169). -/
def keptBy (x : Word) (t : TlbEntry) : Bool := !State.invHits x t.asid t.page t.big

theorem keptBy_filter {x : Word} {l : List TlbEntry} {e : TlbEntry} (h : e ∈ l.filter (keptBy x)) :
    e ∈ l ∧ State.invHits x e.asid e.page e.big = false := by
  obtain ⟨listed, kept⟩ := List.mem_filter.1 h
  exact ⟨listed, by simpa [keptBy] using kept⟩

/-- INVAL as it stands from the start of an invalidation. -/
def Part.startInval (y : Part) (x : Word) (hi : Nat) : Part :=
  { y with inval := x &&& 0xFFFFFFFFFFFFF003, invBusy := true, invEnd := hi }

namespace State

/-- The guest of a partition's virtual function can be told (R169, R367). -/
def tellsGuest (s : State) (p : Fin 16) : Bool := s.bonnet.up && s.bonnet.vfMask.getLsbD (s.parts[p].vf - 1)

/-- The matching entries go, and the guest is told where it can be (R169). -/
def dropEntries (t : State) (p : Fin 16) (x : Word) (hi : Nat) : State :=
  { t with
    nibs := t.nibs.map (fun y => if t.partOf y.1 = p then (y.1, { y.2 with tlb := y.2.tlb.filter (keptBy x) }) else y)
    folios := Vector.ofFn (fun (f : Fin 16) =>
      if t.partHas p f then { t.folios[f] with tlb := t.folios[f].tlb.filter (keptBy x) } else t.folios[f])
    agenda := t.agenda.map (fun e => match e.2 with
      | .homeRead i | .homeWrite i => if (t.translated p).contains i then (min e.1 (t.cycle + 6000), e.2) else e
      | .landingDecrement .. => (min e.1 (t.cycle + 6000), e.2)
      | _ => e)
    bonnet := if t.tellsGuest p then
        { t.bonnet with deadlines := t.bonnet.deadlines ++ [⟨1, p.val, 0, hi⟩], told := Clk.max t.bonnet.told t.parts[p].hostLc }
      else { t.bonnet with tlb := t.bonnet.tlb.filter (fun e => e.vf != t.parts[p].vf || keptBy x e.entry) } }

/-- The events of an invalidation. -/
def awaitInval (u : State) (p : Fin 16) (hi : Nat) (told : Bool) : State :=
  let u := if told then u.schedule hi (.guestDeadline 1) else u
  let (c, u) := u.freeCycle u.cycle (some hi)
  u.schedule c (.invalidationComplete p)

end State

theorem inval_eq {s : State} {p : Fin 16} (idle : s.parts[p].invBusy = false) (x : Word) :
    let t := s.modPart p (·.startInval x (s.cycle + 6600))
    exec (.inval p x) s = .next ((t.dropEntries p x (s.cycle + 6600)).awaitInval p (s.cycle + 6600) (t.tellsGuest p)) := by
  show execInval p x s = _
  rw [execInval, idle, if_neg Bool.false_ne_true]
  rfl

section
variable (u : State) (p : Fin 16) (hi : Nat) (told : Bool)

/-- The events that follow change the agenda and the count of free choices alone. -/
theorem awaitInval_frame : ∃ a c, u.awaitInval p hi told = { u with agenda := a, fresh := c } := by
  cases told <;> exact ⟨_, _, rfl⟩

theorem awaitInval_agenda (h : told = true) : (hi, Instr.guestDeadline 1) ∈ (u.awaitInval p hi told).agenda := by
  subst h
  exact List.mem_append_left _ (List.mem_append_right _ (List.mem_singleton_self _))

end

theorem partHas_startInval (s : State) (p : Fin 16) (x : Word) (hi : Nat) (q f : Fin 16) :
    (s.modPart p (·.startInval x hi)).partHas q f = s.partHas q f :=
  partHas_modPart s (by exact fun _ => ⟨rfl, rfl⟩) q f

theorem partOf_startInval (s : State) (p : Fin 16) (x : Word) (hi : Nat) (n : NibId) :
    (s.modPart p (·.startInval x hi)).partOf n = s.partOf n := by
  simp only [State.partOf, State.partOfFolio, partHas_startInval]

theorem tellsGuest_startInval (s : State) (p : Fin 16) (x : Word) (hi : Nat) :
    (s.modPart p (·.startInval x hi)).tellsGuest p = s.tellsGuest p := by
  rw [State.tellsGuest, modPart_same]; rfl

theorem dropEntries_nib (t : State) (p : Fin 16) (x : Word) (hi : Nat) (n : NibId) : (t.dropEntries p x hi).nib n =
    if t.partOf n = p then { t.nib n with tlb := (t.nib n).tlb.filter (keptBy x) } else t.nib n := by
  have mapped := nibIn_map t.nibs (fun n => decide (t.partOf n = p)) (fun b => { b with tlb := b.tlb.filter (keptBy x) }) rfl n
  simpa [State.dropEntries, State.nib] using mapped

theorem dropEntries_folio (t : State) (p : Fin 16) (x : Word) (hi : Nat) {f : Fin 16} (has : t.partHas p f = true) :
    (t.dropEntries p x hi).folios[f].tlb = t.folios[f].tlb.filter (keptBy x) := by
  simp [State.dropEntries, has]

theorem invalidations : Claims.Invalidations := by
  intro s p x
  refine ⟨fun busy => ?_, fun idle => ?_, fun idle => ?_, fun busy done answered => ?_, fun asid page => ?_⟩
  · show execInval p x s = _
    rw [execInval, if_pos busy]
  · have run := inval_eq idle x
    dsimp only at run
    generalize ht : s.modPart p (·.startInval x (s.cycle + 6600)) = t at run
    have startedMem : t.mem = s.mem := by rw [← ht]; rfl
    have nibs : ∀ n, t.nib n = s.nib n := fun n => by rw [← ht]; rfl
    have busy : t.parts[p].invBusy = true := by rw [← ht, modPart_same]; rfl
    have vf : t.parts[p].vf = s.parts[p].vf := by rw [← ht, modPart_same]; rfl
    have bonnet : t.bonnet = s.bonnet := by rw [← ht]; rfl
    have tells : t.tellsGuest p = s.tellsGuest p := by rw [← ht, tellsGuest_startInval]
    have mine : ∀ n, t.partOf n = s.partOf n := fun n => by rw [← ht, partOf_startInval]
    have has : ∀ f, t.partHas p f = s.partHas p f := fun f => by rw [← ht, partHas_startInval]
    have awaited := awaitInval_agenda (t.dropEntries p x (s.cycle + 6600)) p (s.cycle + 6600) (t.tellsGuest p)
    obtain ⟨a, c, frame⟩ := awaitInval_frame (t.dropEntries p x (s.cycle + 6600)) p (s.cycle + 6600) (t.tellsGuest p)
    rw [frame] at run awaited
    generalize hv : ({ t.dropEntries p x (s.cycle + 6600) with agenda := a, fresh := c } : State) = v at run awaited
    have nib : ∀ n, v.nib n = if s.partOf n = p then { s.nib n with tlb := (s.nib n).tlb.filter (keptBy x) } else s.nib n := by
      intro n
      rw [← mine, ← nibs, ← dropEntries_nib t p x (s.cycle + 6600) n, ← hv]
      rfl
    have guest : v.bonnet = (t.dropEntries p x (s.cycle + 6600)).bonnet := by rw [← hv]
    refine ⟨v, run, ?_, ?_, fun n k => ?_, fun n here e he => ?_, fun n other => ?_, fun up listed => ⟨?_, ?_⟩, fun untold => ⟨?_, fun e he same => ?_⟩,
      fun f hf e he => ?_⟩
    · rw [show v.parts = t.parts by rw [← hv]; rfl, busy]
    · rw [show v.mem = t.mem by rw [← hv]; rfl, startedMem]
    · rw [State.stroke, nib]; split <;> rfl
    · rw [nib, if_pos here] at he
      exact keptBy_filter he
    · rw [nib, if_neg other]
    · have told : t.tellsGuest p = true := by rw [tells, State.tellsGuest, up, listed]; rfl
      rw [guest, State.dropEntries, if_pos told, bonnet]
    · have told : t.tellsGuest p = true := by rw [tells, State.tellsGuest, up, listed]; rfl
      exact awaited told
    · have mute : ¬ t.tellsGuest p = true := by rw [tells, State.tellsGuest]; rcases untold with h | h <;> rw [h] <;> simp
      rw [guest, State.dropEntries, if_neg mute, bonnet]
    · have mute : ¬ t.tellsGuest p = true := by rw [tells, State.tellsGuest]; rcases untold with h | h <;> rw [h] <;> simp
      rw [guest, State.dropEntries, if_neg mute, vf] at he
      have kept := (List.mem_filter.1 he).2
      rw [same, bne_self_eq_false, Bool.false_or] at kept
      simpa [keptBy] using kept
    · rw [show v.folios = (t.dropEntries p x (s.cycle + 6600)).folios by rw [← hv],
        dropEntries_folio t p x _ (by rw [has]; exact hf)] at he
      exact (keptBy_filter he).2
  · show execInvalidationComplete p s = _
    rw [execInvalidationComplete, idle]; rfl
  · refine ⟨s.modPart p (fun y => { y with invBusy := false }), ?_, modPart_same .., rfl, rfl⟩
    have none_waits : s.bonnet.deadlines.any (fun d => d.cause == 1 && d.what == p.val) = false := by
      simpa [List.any_eq_false, ← not_and_or] using answered
    show execInvalidationComplete p s = _
    rw [execInvalidationComplete, busy, done, none_waits]
    rfl
  · have high : x.extractLsb' 48 16 = asid ↔ asid.toNat = x.toNat / 2 ^ 48 := by
      rw [← BitVec.toNat_inj, BitVec.extractLsb'_toNat, Nat.shiftRight_eq_div_pow, Nat.mod_eq_of_lt (by have := x.isLt; omega), eq_comm]
    simp only [State.invHits, Bool.and_eq_true, Bool.or_eq_true, beq_iff_eq, getBits, Bool.false_eq_true, if_false, Nat.div_one, ← high]
    rw [@eq_comm _ asid]

/-! ## Publish entries -/

theorem pctl_eq (s : State) (p e : Fin 16) (x : Word) : exec (.pctl p e x) s =
    let y := s.parts[p].pubs[e]
    let n := (x.extractLsb' 16 13).toNat
    let z : Pub := { y with asid := x.extractLsb' 48 16, pages := x.extractLsb' 16 13 }
    let put := fun (z : Pub) => Host.Outcome.next (s.modPart p (fun q => { q with pubs := q.pubs.set e z }))
    if y.en then put { y with en := x.getLsbD 0 }
    else if x.getLsbD 0 then
      (if n = 0 || 4096 < n || s.parts[p].pubs.toList.any (fun w => w.en && w.asid == x.extractLsb' 48 16 &&
          State.Pub.base w < State.Pub.base y + n * 0x10000 && State.Pub.base y < State.Pub.base w + w.pages.toNat * 0x10000) ||
          !backingFits y.back0 n || !backingFits y.back1 n then .next s
      else put { z with en := true, sel := false, flips := [] })
    else put z := rfl

theorem any_pubs_iff {v : Vector Pub 16} {c : Pub → Bool} : v.toList.any c = true ↔ ∃ f : Fin 16, c v[f] = true := by
  rw [List.any_eq_true]
  constructor
  · rintro ⟨w, hw, h⟩
    obtain ⟨i, hi, rfl⟩ := Vector.mem_iff_getElem.1 (Vector.mem_toList_iff.1 hw)
    exact ⟨⟨i, hi⟩, h⟩
  · rintro ⟨f, h⟩
    exact ⟨v[f], Vector.mem_toList_iff.2 (Vector.getElem_mem f.isLt), h⟩

theorem publishEntries (s : State) (p e : Fin 16) (x : BitVec 64) (y : Pub) (here : y = s.parts[p].pubs[e]) :
    (y.en = true → ∃ t, exec (.pctl p e x) s = .next t ∧ t.parts[p].pubs[e] = { y with en := x.getLsbD 0 } ∧ t.mem = s.mem ∧
      t.nibs = s.nibs) ∧
    (y.en = false → x.getLsbD 0 = false → ∃ t, exec (.pctl p e x) s = .next t ∧ t.mem = s.mem ∧ t.nibs = s.nibs ∧
      t.parts[p].pubs[e] = { y with asid := x.extractLsb' 48 16, pages := x.extractLsb' 16 13 }) ∧
    (y.en = false → x.getLsbD 0 = true → ∀ n, n = (x.extractLsb' 16 13).toNat →
      let meets := fun (w : Pub) => w.en = true ∧ w.asid = x.extractLsb' 48 16 ∧
        State.Pub.base w < State.Pub.base y + n * 0x10000 ∧ State.Pub.base y < State.Pub.base w + w.pages.toNat * 0x10000
      (n = 0 ∨ 4096 < n ∨ (∃ f : Fin 16, meets s.parts[p].pubs[f]) → exec (.pctl p e x) s = .next s) ∧
      (0 < n → n ≤ 4096 → (∀ f : Fin 16, ¬ meets s.parts[p].pubs[f]) → backingFits y.back0 n = true →
        backingFits y.back1 n = true → ∃ t, exec (.pctl p e x) s = .next t ∧ t.mem = s.mem ∧ t.nibs = s.nibs ∧
        t.parts[p].pubs[e] = { y with asid := x.extractLsb' 48 16, pages := x.extractLsb' 16 13, en := true, sel := false, flips := [] })) := by
  have run := pctl_eq s p e x
  rw [← here] at run
  dsimp only at run
  have put : ∀ z, ((s.modPart p (fun q => { q with pubs := q.pubs.set e z })).parts[p]).pubs[e] = z := by
    intro z
    rw [modPart_same]
    exact Vector.getElem_set_self _
  refine ⟨fun on => ?_, fun off clear => ?_, fun off enables n size => ?_⟩
  · rw [if_pos on] at run
    exact ⟨_, run, put _, rfl, rfl⟩
  · rw [if_neg (by rw [off]; exact Bool.false_ne_true), if_neg (by rw [clear]; exact Bool.false_ne_true)] at run
    exact ⟨_, run, rfl, rfl, put _⟩
  · rw [if_neg (by rw [off]; exact Bool.false_ne_true), if_pos enables, ← size] at run
    refine ⟨fun bad => ?_, fun pos small alone fits0 fits1 => ?_⟩
    · rw [run, if_pos]
      rcases bad with h | h | ⟨f, en, asid, below, above⟩
      · simp [h]
      · simp [h]
      · have met := any_pubs_iff (v := s.parts[p].pubs) (c := fun w => w.en && w.asid == x.extractLsb' 48 16 &&
            State.Pub.base w < State.Pub.base y + n * 0x10000 && State.Pub.base y < State.Pub.base w + w.pages.toNat * 0x10000) |>.2
          ⟨f, by simpa only [Bool.and_eq_true, beq_iff_eq, decide_eq_true_eq] using ⟨⟨⟨en, asid⟩, below⟩, above⟩⟩
        rw [met]
        simp
    · rw [if_neg] at run
      · exact ⟨_, run, rfl, rfl, put _⟩
      · have apart : s.parts[p].pubs.toList.any (fun w => w.en && w.asid == x.extractLsb' 48 16 &&
            State.Pub.base w < State.Pub.base y + n * 0x10000 && State.Pub.base y < State.Pub.base w + w.pages.toNat * 0x10000) = false := by
          rw [Bool.eq_false_iff, Ne, any_pubs_iff]
          rintro ⟨f, hf⟩
          simp only [Bool.and_eq_true, beq_iff_eq, decide_eq_true_eq] at hf
          obtain ⟨⟨⟨en, asid⟩, below⟩, above⟩ := hf
          exact alone f ⟨en, asid, below, above⟩
        rw [apart, fits0, fits1]
        simp [Nat.pos_iff_ne_zero.1 pos, Nat.not_lt.2 small]

/-! ## Clock floors -/

theorem Clk.le_self (a : Clk) : Clk.le a a = true := by simp [Clk.le]

/-- Rising to a floor twice is rising to it once. -/
theorem Clk.max_max (a f : Clk) : Clk.max (Clk.max a f) f = Clk.max a f := by
  unfold Clk.max
  by_cases h : Clk.le a f = true
  · rw [if_pos h, if_pos (Clk.le_self f)]
  · rw [if_neg h, if_neg h]

/-- The nib with the clocks of its entries' contexts raised: what `raisePart` does to each nib of the partition. -/
def State.raiseNib (s : State) (n : NibId) (f : Clk) : State :=
  (List.finRange 8).foldl (fun s e => if (s.nib n).entries[e].valid then s.modEntry n e (·.raiseTo f) else s)
    (s.modNib n (·.raiseTo f))

theorem modEntry_nib (s : State) (n : NibId) (e : Fin 8) (f : Ctx → Ctx) :
    (s.modEntry n e f).nib n = (s.nib n).withEntry e (f (s.entryCtx n e)) := by rw [State.modEntry, putEntry_nib]

theorem modEntry_strokes (s : State) (n : NibId) (e : Fin 8) (f : Ctx → Ctx) :
    ((s.modEntry n e f).nib n).strokes = (s.nib n).strokes := by rw [modEntry_nib]; rfl

theorem modEntry_frame (s : State) (n : NibId) (e : Fin 8) (f : Ctx → Ctx) : (∀ m, m ≠ n → (s.modEntry n e f).nib m = s.nib m) ∧
    (s.modEntry n e f).folios = s.folios ∧ (s.modEntry n e f).parts = s.parts := by
  rw [State.modEntry, State.putEntry]
  generalize Memory.write _ _ _ _ = m
  exact ⟨fun _ h => (nib_mem _ _ m).trans (State.nib_modNib_ne _ _ _ _ h), rfl, rfl⟩

theorem raiseEntries_frame (n : NibId) (f : Clk) (l : List (Fin 8)) (s : State) :
    let t := l.foldl (fun s e => if (s.nib n).entries[e].valid then s.modEntry n e (·.raiseTo f) else s) s
    (t.nib n).strokes = (s.nib n).strokes ∧ (∀ m, m ≠ n → t.nib m = s.nib m) ∧ t.folios = s.folios ∧ t.parts = s.parts := by
  induction l generalizing s with
  | nil => exact ⟨rfl, fun _ _ => rfl, rfl, rfl⟩
  | cons e l ih =>
    rw [List.foldl_cons]
    split
    · obtain ⟨strokes, nibs, folios, parts⟩ := ih (s.modEntry n e (·.raiseTo f))
      obtain ⟨others, folios', parts'⟩ := modEntry_frame s n e (·.raiseTo f)
      exact ⟨strokes.trans (modEntry_strokes ..), fun m h => (nibs m h).trans (others m h), folios.trans folios', parts.trans parts'⟩
    · exact ih s

theorem raiseNib_frame (s : State) (n : NibId) (f : Clk) :
    ((s.raiseNib n f).nib n).strokes = (s.nib n).strokes.map (·.raiseTo f) ∧ (∀ m, m ≠ n → (s.raiseNib n f).nib m = s.nib m) ∧
      (s.raiseNib n f).folios = s.folios ∧ (s.raiseNib n f).parts = s.parts := by
  obtain ⟨strokes, nibs, folios, parts⟩ := raiseEntries_frame n f (List.finRange 8) (s.modNib n (·.raiseTo f))
  refine ⟨strokes.trans ?_, fun m h => (nibs m h).trans (State.nib_modNib_ne _ _ _ _ h), folios.trans (State.modNib_folios ..),
    parts.trans (State.modNib_parts ..)⟩
  rw [State.nib_modNib_same]
  rfl

/-- Stroke y is stroke x with its clocks raised to f, as far as the floor is stated of it (R176). -/
structure RaisedTo (f : Clk) (x y : Stroke) : Prop where
  seqs : ∀ q : Fin 4, y.ctx.seqs[q] = { x.ctx.seqs[q] with lc := Clk.max x.ctx.seqs[q].lc f }
  vals : y.mailbox.map (·.val) = x.mailbox.map (·.val)
  clks : y.mailbox.map (·.clk) = x.mailbox.map (fun m => Clk.max m.clk f)

theorem raiseTo_seqs (x : Stroke) (f : Clk) (q : Fin 4) :
    (x.raiseTo f).ctx.seqs[q] = { x.ctx.seqs[q] with lc := Clk.max x.ctx.seqs[q].lc f } :=
  Vector.getElem_map _ q.isLt

theorem raisedTo_once (f : Clk) (x : Stroke) : RaisedTo f x (x.raiseTo f) where
  seqs := raiseTo_seqs x f
  vals := by simp [Stroke.raiseTo]
  clks := by simp [Stroke.raiseTo]

theorem RaisedTo.again {f : Clk} {x y : Stroke} (h : RaisedTo f x y) : RaisedTo f x (y.raiseTo f) where
  seqs q := by rw [raiseTo_seqs, h.seqs, Clk.max_max]
  vals := by rw [← h.vals]; simp [Stroke.raiseTo]
  clks := by
    have once : (y.raiseTo f).mailbox.map (·.clk) = (y.mailbox.map (·.clk)).map (Clk.max · f) := by simp [Stroke.raiseTo]
    rw [once, h.clks, List.map_map]
    exact List.map_congr_left fun m _ => Clk.max_max m.clk f

/-- What `raisePart` does to the nibs of a list. -/
def State.raiseNibs (f : Clk) (l : List NibId) (s : State) : State := l.foldl (fun s n => s.raiseNib n f) s

theorem raiseNib_stroke_same (s : State) (n : NibId) (f : Clk) (k : Fin 8) :
    (s.raiseNib n f).stroke n k = (s.stroke n k).raiseTo f := by
  rw [State.stroke, (raiseNib_frame s n f).1]
  exact Vector.getElem_map _ k.isLt

theorem raiseNib_ne (s : State) {n m : NibId} (f : Clk) (h : m ≠ n) : (s.raiseNib n f).nib m = s.nib m := (raiseNib_frame s n f).2.1 m h

theorem raiseNibs_outside (f : Clk) {l : List NibId} (s : State) {n : NibId} (h : n ∉ l) : (s.raiseNibs f l).nib n = s.nib n := by
  induction l generalizing s with
  | nil => rfl
  | cons m l ih =>
    rw [List.mem_cons, not_or] at h
    rw [State.raiseNibs, List.foldl_cons, ← State.raiseNibs, ih _ h.2, raiseNib_ne s f h.1]

theorem raiseNibs_keeps (f : Clk) (l : List NibId) (s : State) {n : NibId} {k : Fin 8} {x : Stroke} (h : RaisedTo f x (s.stroke n k)) :
    RaisedTo f x ((s.raiseNibs f l).stroke n k) := by
  induction l generalizing s with
  | nil => exact h
  | cons m l ih =>
    rw [State.raiseNibs, List.foldl_cons, ← State.raiseNibs]
    apply ih
    by_cases hm : n = m
    · subst hm
      rw [raiseNib_stroke_same]
      exact h.again
    · rw [State.stroke, raiseNib_ne s f hm]
      exact h

theorem raiseNibs_inside (f : Clk) {l : List NibId} (s : State) {n : NibId} (h : n ∈ l) (k : Fin 8) :
    RaisedTo f (s.stroke n k) ((s.raiseNibs f l).stroke n k) := by
  induction l generalizing s with
  | nil => exact absurd h List.not_mem_nil
  | cons m l ih =>
    rw [State.raiseNibs, List.foldl_cons, ← State.raiseNibs]
    by_cases hm : n = m
    · subst hm
      apply raiseNibs_keeps
      rw [raiseNib_stroke_same]
      exact raisedTo_once f _
    · have same : (s.raiseNib m f).stroke n k = s.stroke n k := by rw [State.stroke, raiseNib_ne s f hm]; rfl
      rw [← same]
      exact ih _ ((List.mem_cons.1 h).resolve_left hm)

theorem raiseNibs_frame (f : Clk) (l : List NibId) (s : State) :
    (s.raiseNibs f l).folios = s.folios ∧ (s.raiseNibs f l).parts = s.parts := by
  induction l generalizing s with
  | nil => exact ⟨rfl, rfl⟩
  | cons m l ih =>
    rw [State.raiseNibs, List.foldl_cons, ← State.raiseNibs]
    obtain ⟨-, -, folios, parts⟩ := raiseNib_frame s m f
    exact ⟨(ih _).1.trans folios, (ih _).2.trans parts⟩

/-- The part of `raisePart` that changes no nib. -/
def State.raiseOutside (s : State) (p : Fin 16) (f : Clk) : State :=
  let inside := fun (a : Nat) => match unitOf a with
    | .control => true
    | u => (u.folio.map (s.partHas p)).getD false
  let s : State := { s with
    stamps := s.stamps.map (fun y => if inside y.lo then { y with wts := Clk.max y.wts f, rts := Clk.max y.rts f } else y)
    folios := Vector.ofFn (fun (g : Fin 16) =>
      if s.partHas p g then { s.folios[g] with base := Clk.max s.folios[g].base f } else s.folios[g])
    modu := { s.modu with base := Clk.max s.modu.base f }
    ops := s.ops.map (fun o => if s.partOf o.nib = p then { o with lc := Clk.max o.lc f, tmax := Clk.max o.tmax f } else o)
    launches := s.launches.map (fun l =>
      if l.part = p then { l with clk := Clk.max l.clk f, endClk := Clk.max l.endClk f } else l)
    vfs := s.vfs.mapFinIdx (fun i v _ =>
      { v with queues := v.queues.map (fun q =>
          if i = s.parts[p].vf || (i = 0 && s.rootIn p q.2.root) then (q.1, q.2.raiseTo f) else q) })
    bonnet := if s.guestServes p then { s.bonnet with lc := Clk.max s.bonnet.lc f, told := Clk.max s.bonnet.told f } else s.bonnet }
  s.modPart p (·.raiseTo f)

theorem raisePart_eq (s : State) (p : Fin 16) (f : Clk) : s.raisePart p f =
    (s.raiseOutside p f).raiseNibs f ((s.nibs.map (·.1)).filter (fun n => s.partOf n = p)) := rfl

theorem clockFloors (s : State) (p : Fin 16) : ∃ t, exec (.clockFloor p) s = .next t ∧
    (∀ n k, (∃ b, (n, b) ∈ s.nibs) → s.partOf n = p → ∀ q : Fin 4,
      (t.stroke n k).ctx.seqs[q] = { (s.stroke n k).ctx.seqs[q] with lc := Clk.max (s.stroke n k).ctx.seqs[q].lc (s.floorOf p) }) ∧
    t.parts[p].hostLc = Clk.max s.parts[p].hostLc (s.floorOf p) ∧
    (∀ f : Fin 16, s.partHas p f = true → t.folios[f].base = Clk.max s.folios[f].base (s.floorOf p)) ∧
    (∀ n k, (∃ b, (n, b) ∈ s.nibs) → s.partOf n = p →
      (t.stroke n k).mailbox.map (·.val) = (s.stroke n k).mailbox.map (·.val) ∧
      (t.stroke n k).mailbox.map (·.clk) = (s.stroke n k).mailbox.map (fun m => Clk.max m.clk (s.floorOf p))) ∧
    ∀ n, s.partOf n ≠ p → t.nib n = s.nib n := by
  generalize hf : s.floorOf p = f
  obtain ⟨folios, parts⟩ := raiseNibs_frame f ((s.nibs.map (·.1)).filter (fun n => s.partOf n = p)) (s.raiseOutside p f)
  rw [← raisePart_eq] at folios parts
  obtain ⟨t, run, frame⟩ : ∃ t, exec (.clockFloor p) s = .next t ∧ t.nibs = (s.raisePart p f).nibs ∧
      t.folios = (s.raisePart p f).folios ∧ t.parts = (s.raisePart p f).parts := by
    have run : exec (.clockFloor p) s = execClockFloor p s := rfl
    rw [execClockFloor, hf] at run
    dsimp only at run
    refine ⟨_, run, ?_⟩
    split <;> exact ⟨rfl, rfl, rfl⟩
  obtain ⟨nibs', folios', parts'⟩ := frame
  have mine : ∀ n k, (∃ b, (n, b) ∈ s.nibs) → s.partOf n = p → RaisedTo f (s.stroke n k) (t.stroke n k) := by
    rintro n k ⟨b, hb⟩ here
    have listed : n ∈ (s.nibs.map (·.1)).filter (fun n => s.partOf n = p) :=
      List.mem_filter.2 ⟨List.mem_map.2 ⟨(n, b), hb, rfl⟩, decide_eq_true here⟩
    rw [stroke_of_nibs nibs', raisePart_eq]
    exact raiseNibs_inside f (s.raiseOutside p f) listed k
  refine ⟨t, run, fun n k hb here => (mine n k hb here).seqs, ?_, fun g has => ?_, fun n k hb here =>
    ⟨(mine n k hb here).vals, (mine n k hb here).clks⟩, fun n other => ?_⟩
  · rw [parts', parts, State.raiseOutside, modPart_same]
    rfl
  · rw [folios', folios]
    simp [State.raiseOutside, State.modPart, has]
  · have away : n ∉ (s.nibs.map (·.1)).filter (fun n => s.partOf n = p) := by simp [other]
    rw [State.nib, nibs', ← State.nib, raisePart_eq, raiseNibs_outside _ _ away]
    rfl

/-- Settles O33: a fill ends with the entry found or with a fault; a further request of a page raises its record's count; an
invalidation filters every TLB of the partition; and rising to the floor twice is rising once, so that each nib's clocks stand
at the larger of their value and the floor however often the nib is listed. -/
theorem translationEvents : Obligations.TranslationEvents :=
  ⟨translationsArrive, faultRecordsAndCopies, invalidations, publishEntries, clockFloors⟩

end Sys2Proof.Machine
end

section
/-! SUPPORT. Accesses of host agents where no border lies in the way (07_ordering.md R194, 14_packets.md R360). -/

namespace Sys2Proof.Machine

open Sys2Proof

/-! ## Tolls -/

/-- No traffic stands to be charged at any partition (R360). -/
def State.TollFree (s : State) : Prop := ∀ p : Fin 16, s.parts[p].toll = []

/-- The same partitions, but for what they have to be charged. -/
def SameParts (s t : State) : Prop := ∀ p : Fin 16, { t.parts[p] with toll := s.parts[p].toll } = s.parts[p]

theorem noTolls_part (s : State) (p : Fin 16) : s.noTolls.parts[p] = { s.parts[p] with toll := [] } := Vector.getElem_map _ p.isLt

theorem noTolls_tollFree (s : State) : s.noTolls.TollFree := fun p => by rw [noTolls_part]

theorem noTolls_mem (s : State) : s.noTolls.mem = s.mem := rfl

theorem noTolls_of_tollFree {s : State} (free : s.TollFree) : s.noTolls = s := by
  have parts : s.parts.map (fun y => { y with toll := [] }) = s.parts := by
    apply Vector.ext
    intro i hi
    rw [Vector.getElem_map]
    have toll := free ⟨i, hi⟩
    exact (congrArg (fun l => { s.parts[i] with toll := l }) toll.symm :)
  rw [State.noTolls, parts]

theorem modPart_self (s : State) (p : Fin 16) {f : Part → Part} (same : f s.parts[p] = s.parts[p]) : s.modPart p f = s := by
  have parts : s.parts.set p (f s.parts[p]) = s.parts := by
    rw [same]
    exact Vector.set_getElem_self p.isLt
  rw [State.modPart, parts]

section
variable (s : State) (p f : Fin 16)

theorem noTolls_partHas : s.noTolls.partHas p f = s.partHas p f := by rw [State.partHas, noTolls_part]; rfl

theorem noTolls_partOfFolio : s.noTolls.partOfFolio f = s.partOfFolio f := by simp only [State.partOfFolio, noTolls_partHas]

theorem noTolls_route : s.noTolls.route p f = s.route p f := by simp only [State.route, noTolls_partOfFolio]

theorem noTolls_noBorders {s : State} (clear : s.NoBorders) : s.noTolls.NoBorders := fun p f has => by
  rw [noTolls_route]
  exact clear p f (by rw [← noTolls_partHas]; exact has)

theorem noTolls_pinEnd : s.noTolls.pinEnd f = s.pinEnd f := by
  simp only [State.pinEnd, noTolls_partOfFolio, noTolls_part]

theorem noTolls_refused (priv scalar : Bool) (pa : Nat) : s.noTolls.refused p priv scalar pa = s.refused p priv scalar pa := by
  simp only [State.refused, State.controlReach, noTolls_partHas, noTolls_pinEnd]
  rfl

theorem walkFrom_congr {t : State} (mem : t.mem = s.mem) (table : ∀ frame, t.tableOk p frame = s.tableOk p frame) (va : Nat) (store : Bool)
    (level frame : Nat) : t.walkFrom p va store frame level = s.walkFrom p va store frame level := by
  induction level generalizing frame with
  | zero => rfl
  | succ level ih =>
    rw [State.walkFrom, State.walkFrom, table, mem]
    simp only [ih]

theorem walk_congr {t : State} (mem : t.mem = s.mem) (table : ∀ frame, t.tableOk p frame = s.tableOk p frame) (root va : Word) (store : Bool) :
    t.walk p root va store = s.walk p root va store := by
  unfold State.walk
  generalize 3 = level
  exact walkFrom_congr s p mem table ..

theorem noTolls_tableOk (frame : Nat) : s.noTolls.tableOk p frame = s.tableOk p frame := by
  have same : s.noTolls.partHas p = s.partHas p := funext fun f => noTolls_partHas s p f
  delta State.tableOk
  rw [same]

theorem noTolls_walk (root va : Word) (store : Bool) : s.noTolls.walk p root va store = s.walk p root va store :=
  walk_congr s p (t := s.noTolls) rfl (fun frame => noTolls_tableOk s p frame) root va store

theorem noTolls_pubEntry (asid : BitVec 16) (va : Word) : s.noTolls.pubEntry p asid va = s.pubEntry p asid va := by
  rw [State.pubEntry, noTolls_part]; rfl

theorem noTolls_hostPieces (root : Word) (write : Bool) (rs acc : List Range) :
    s.noTolls.hostPieces p root write rs acc = s.hostPieces p root write rs acc := by
  induction rs generalizing acc with
  | nil => rfl
  | cons r rs ih => simp only [State.hostPieces, noTolls_pubEntry, noTolls_walk, noTolls_refused, ih]

theorem noTolls_isThrough (ev : Instr) : s.noTolls.isThrough ev = s.isThrough ev := by
  simp [State.isThrough, State.noTolls]

end

/-- The pieces of an access that does not fail lie where the host agent may reach. -/
theorem hostPieces_reach {s : State} {p : Fin 16} {root : Word} {write : Bool} {rs acc out : List Range}
    (ok : s.hostPieces p root write rs acc = some out) (before : ∀ r ∈ acc, s.refused p true false r.pa = false) :
    ∀ r ∈ out, s.refused p true false r.pa = false := by
  induction rs generalizing acc with
  | nil =>
    rw [State.hostPieces, Option.some.injEq] at ok
    subst ok
    exact fun r hr => before r (List.mem_reverse.1 hr)
  | cons r rs ih =>
    rw [State.hostPieces] at ok
    split at ok
    · exact nomatch ok
    · dsimp only at ok
      split at ok
      · next a _ =>
        split at ok
        · exact nomatch ok
        · next reach =>
          refine ih ok fun x hx => ?_
          rcases List.mem_cons.1 hx with rfl | hx
          · exact Bool.eq_false_iff.2 reach
          · exact before x hx
      · exact nomatch ok

/-- What an agent may reach lies in its partition. -/
theorem partHas_of_reach {s : State} {p f : Fin 16} {pa : Nat} (reach : s.refused p true false pa = false)
    (home : (unitOf pa).folio = some f) : s.partHas p f = true := by
  unfold State.refused at reach
  cases hu : unitOf pa with
  | hbm g => rw [hu] at reach home; cases home; simpa using reach
  | well n off => rw [hu] at reach home; cases home; simp only [Bool.or_eq_false_iff] at reach; simpa using reach.1.2
  | slice i off => rw [hu] at reach home; cases home; simp only [Bool.or_eq_false_iff] at reach; simpa using reach.2
  | control => rw [hu] at home; exact nomatch home
  | none => rw [hu] at home; exact nomatch home

/-- Without a border in the way an access has nothing to pay. -/
theorem addToll_of_noBorders {s : State} (clear : s.NoBorders) {p : Fin 16} {rs : List Range}
    (reach : ∀ r ∈ rs, s.refused p true false r.pa = false) : s.addToll p rs = s := by
  have owes : rs.flatMap (fun r => ((unitOf r.pa).folio.map (fun f => s.owing p f false r.size)).getD []) = [] := by
    rw [List.flatMap_eq_nil_iff]
    intro r hr
    cases home : (unitOf r.pa).folio with
    | none => rfl
    | some f =>
      have way : s.route p f = [] := clear p f (partHas_of_reach (reach r hr) home)
      simp [State.owing, way]
  rw [State.addToll, owes]
  exact modPart_self s p (by rw [List.append_nil])

theorem dropThrough_of_not {s : State} {ev : Instr} (h : s.isThrough ev = false) : s.dropThrough ev = s := by
  rw [State.dropThrough, h]; rfl

/-- An event whose accesses have nothing to pay has made them. -/
theorem settleEvent_of_tollFree {s t : State} {ev : Instr} (free : t.TollFree) (new : t.isThrough ev = false) :
    s.settleEvent ev t = t := by
  have due : (List.finRange 16).filter (fun i => !t.parts[i].toll.isEmpty) = [] := by
    rw [List.filter_eq_nil_iff]
    intro i _
    rw [free i]
    exact Bool.false_ne_true
  simp only [State.settleEvent, due, List.find?_nil, List.foldl_nil, noTolls_of_tollFree free, dropThrough_of_not new]

/-! ## Clocks of the host agent -/

/-- t differs from s in the clocks of a host agent, in stamps and in memory alone. -/
structure AgentOnly (s t : State) : Prop where
  rest : { t with stamps := s.stamps, parts := s.parts, mem := s.mem } = s
  parts : ∀ p : Fin 16, { t.parts[p] with hostLc := s.parts[p].hostLc } = s.parts[p]

theorem AgentOnly.nibs {s t : State} (h : AgentOnly s t) : t.nibs = s.nibs := by
  have rest := congrArg State.nibs h.rest
  exact rest

theorem AgentOnly.refl (s : State) : AgentOnly s s := ⟨rfl, fun _ => rfl⟩

theorem AgentOnly.trans {s t u : State} (h : AgentOnly s t) (h' : AgentOnly t u) : AgentOnly s u where
  rest := by rw [← h.rest, ← h'.rest]
  parts p := by
    have a := h.parts p
    have b := h'.parts p
    rw [← b] at a
    exact a

theorem AgentOnly.tollFree {s t : State} (h : AgentOnly s t) (free : s.TollFree) : t.TollFree := fun p => by
  rw [← free p, ← h.parts p]

theorem AgentOnly.through {s t : State} (h : AgentOnly s t) (p : Fin 16) : t.parts[p].through = s.parts[p].through := by
  rw [← h.parts p]

theorem isThrough_iff {s : State} {ev : Instr} : s.isThrough ev = true ↔ ∃ p : Fin 16, s.parts[p].through.contains ev = true := by
  rw [State.isThrough, List.any_eq_true]
  constructor
  · rintro ⟨w, hw, h⟩
    obtain ⟨i, hi, rfl⟩ := Vector.mem_iff_getElem.1 (Vector.mem_toList_iff.1 hw)
    exact ⟨⟨i, hi⟩, h⟩
  · rintro ⟨f, h⟩
    exact ⟨s.parts[f], Vector.mem_toList_iff.2 (Vector.getElem_mem f.isLt), h⟩

theorem AgentOnly.isThrough {s t : State} (h : AgentOnly s t) (ev : Instr) : t.isThrough ev = s.isThrough ev := by
  rw [Bool.eq_iff_iff, isThrough_iff, isThrough_iff]
  simp only [h.through]

theorem agentOnly_modPart (s : State) (p : Fin 16) (t : Clk) : AgentOnly s (s.modPart p (fun y => { y with hostLc := t })) where
  rest := rfl
  parts q := by
    by_cases h : q = p
    · subst h
      rw [modPart_same]
    · rw [modPart_ne s _ h]

theorem agentOnly_hostWrite (s : State) (p : Fin 16) (pa n x : Nat) : AgentOnly s (s.hostWrite p pa n x) where
  rest := rfl
  parts q := by
    by_cases h : q = p
    · subst h
      exact congrArg (fun y : Part => { y with hostLc := s.parts[q].hostLc }) (Vector.getElem_set_self q.isLt)
    · exact congrArg (fun y : Part => { y with hostLc := s.parts[q].hostLc }) (Vector.getElem_set_ne p.isLt q.isLt (Fin.val_ne_of_ne (Ne.symm h)))

/-- One read of a host agent at its home (R194). -/
def State.hostRead (s : State) (p : Fin 16) (pa : Nat) : State :=
  (s.readStamp pa s.parts[p].hostLc 0).2.modPart p (fun y => { y with hostLc := (s.readStamp pa s.parts[p].hostLc 0).1 })

theorem agentOnly_hostRead (s : State) (p : Fin 16) (pa : Nat) : AgentOnly s (s.hostRead p pa) :=
  AgentOnly.trans (t := (s.readStamp pa s.parts[p].hostLc 0).2) ⟨rfl, fun _ => rfl⟩ (agentOnly_modPart ..)

theorem hostRead_mem (s : State) (p : Fin 16) (pa : Nat) : (s.hostRead p pa).mem = s.mem := rfl

/-- The reads of the pieces of a host agent's access change no memory. -/
theorem hostReads_frame (p : Fin 16) (rs : List Range) (x : Nat) (s : State) :
    let t := (rs.foldl (fun (acc : Nat × State) r =>
      let (t, s) := acc.2.readStamp r.pa acc.2.parts[p].hostLc 0
      (acc.1 + Memory.read s.mem r.pa r.size * 2 ^ (8 * r.at_), s.modPart p (fun y => { y with hostLc := t }))) (x, s)).2
    AgentOnly s t ∧ t.mem = s.mem := by
  induction rs generalizing x s with
  | nil => exact ⟨.refl s, rfl⟩
  | cons r rs ih =>
    rw [List.foldl_cons]
    obtain ⟨only, mem⟩ := ih (x + Memory.read s.mem r.pa r.size * 2 ^ (8 * r.at_)) (s.hostRead p r.pa)
    exact ⟨(agentOnly_hostRead s p r.pa).trans only, mem.trans (hostRead_mem s p r.pa)⟩

theorem hostLoad_eq {s : State} {p : Fin 16} {root va : Word} {n : Nat} {rs : List Range} (clear : s.NoBorders)
    (ok : s.hostPieces p root false (State.cellPieces va 0 n (n / 64 + 2)) [] = some rs) :
    ∃ x t, s.hostLoad p root va n = some (x, t) ∧ AgentOnly s t ∧ t.mem = s.mem := by
  rw [State.hostLoad, ok, Option.map_some, addToll_of_noBorders clear (hostPieces_reach ok (fun _ h => absurd h List.not_mem_nil))]
  obtain ⟨only, mem⟩ := hostReads_frame p rs 0 s
  exact ⟨_, _, rfl, only, mem⟩

/-- The settled access of an event, whose state stands at no toll. -/
theorem settleEvent_agent {s t : State} {ev : Instr} (only : AgentOnly s.noTolls t) (new : s.isThrough ev = false) :
    s.settleEvent ev t = t :=
  settleEvent_of_tollFree (only.tollFree (noTolls_tollFree s)) (by rw [only.isThrough, noTolls_isThrough, new])

/-- Settles O34: with no border in the way an access owes nothing, so that it is made as its pieces stand: a write of one piece
leaves its bytes there alone, reads change clocks only, and an access that fails leaves the state. -/
theorem hostAccesses : Obligations.HostAccesses := by
  intro s v va x p here wf clear new pieces
  have fails : ∀ w, pieces w = none → exec (.hostAccess v w va x) s = .next s := by
    intro w bad
    have bad' : s.noTolls.hostPieces p (s.queue v 0).root w (State.cellPieces va 0 8 (8 / 64 + 2)) [] = none := by
      rw [noTolls_hostPieces]; exact bad
    show execHostAccess v w va x s = _
    rw [execHostAccess, here]
    cases w with
    | false => simp only [State.hostLoad, bad', Option.map_none, Bool.false_eq_true, if_false, dropThrough_of_not (new false)]
    | true => simp only [State.hostStore, bad', Option.map_none, if_true, dropThrough_of_not (new true)]
  refine ⟨fails true, fails false, fun r ok size at_ => ?_, fun rs ok => ?_⟩
  · have ok' : s.noTolls.hostPieces p (s.queue v 0).root true (State.cellPieces va 0 8 (8 / 64 + 2)) [] = some [r] := by
      rw [noTolls_hostPieces]; exact ok
    have stored : s.noTolls.hostStore p (s.queue v 0).root va 8 x.toNat = some (s.noTolls.hostWrite p r.pa 8 x.toNat) := by
      rw [State.hostStore, ok', Option.map_some, List.foldl_cons, List.foldl_nil, size, at_,
        addToll_of_noBorders (noTolls_noBorders clear) (hostPieces_reach ok' (fun _ h => absurd h List.not_mem_nil)),
        Nat.mul_zero, Nat.pow_zero, Nat.div_one]
    have run : exec (.hostAccess v true va x) s = .next (s.noTolls.hostWrite p r.pa 8 x.toNat) := by
      show execHostAccess v true va x s = _
      rw [execHostAccess, here]
      simp only [if_true, stored, settleEvent_agent (agentOnly_hostWrite s.noTolls p r.pa 8 x.toNat) (new true)]
    refine ⟨_, run, ?_, fun b out => ?_, rfl⟩
    · rw [hostWrite_mem, noTolls_mem, Memory.read_write_same _ _ _ _ wf, Nat.mod_eq_of_lt (by exact x.isLt)]
    · rw [hostWrite_mem, noTolls_mem, Memory.get_write_outside _ _ _ _ _ wf out]
  · have ok' : s.noTolls.hostPieces p (s.queue v 0).root false (State.cellPieces va 0 8 (8 / 64 + 2)) [] = some rs := by
      rw [noTolls_hostPieces]; exact ok
    obtain ⟨y, t, loaded, only, mem⟩ := hostLoad_eq (noTolls_noBorders clear) ok'
    have run : exec (.hostAccess v false va x) s = .next t := by
      show execHostAccess v false va x s = _
      rw [execHostAccess, here]
      simp only [Bool.false_eq_true, if_false, loaded, Option.map_some, settleEvent_agent only (new false)]
    exact ⟨t, run, mem, only.nibs⟩

end Sys2Proof.Machine
end

section
/-! SUPPORT. Instructions that reach memory or an engine: what stands while their effects are sent, until they retire
(02_lines.md R32, R35, R55, 06_memory.md R143). -/

namespace Sys2Proof.Machine

open Sys2Proof

/-- The instruction of `s` has come to `t`: its effects `es` are on their way, it has not yet retired, and nothing that
`Retired` speaks of has changed but the clock of its sequencer. -/
structure Sending (s t : State) (es : List (Nat × Eff)) : Prop where
  cur : t.cur = s.cur
  cycle : t.cycle = s.cycle
  effects : t.ctx.inflight = s.ctx.inflight ++ es.map (fun e => ⟨s.tn + e.1, s.tn, s.cur.q, e.2⟩)
  issued : t.turn.issued = s.turn.issued
  seq : { t.seqSt s.cur.q with lc := (s.seqSt s.cur.q).lc } = s.seqSt s.cur.q
  seqs : ∀ q, q ≠ s.cur.q → t.seqSt q = s.seqSt q
  ctx : { t.ctx with inflight := s.ctx.inflight, seqs := s.ctx.seqs, c := s.ctx.c } = s.ctx
  csrs : { t.ctx.c with tpc := s.ctx.c.tpc } = s.ctx.c
  strokes : ∀ n k, (n, k) ≠ (s.cur.nib, s.cur.k) → t.stroke n k = s.stroke n k

namespace Sending

variable {s t u : State} {es : List (Nat × Eff)}

theorem refl (s : State) : Sending s s [] :=
  ⟨rfl, rfl, by rw [List.map_nil, List.append_nil], rfl, rfl, fun _ _ => rfl, rfl, rfl, fun _ _ _ => rfl⟩

theorem tn (h : Sending s t es) : t.tn = s.tn := by rw [State.tn, h.cycle, State.tn]

theorem regs (h : Sending s t es) : t.ctx.r = s.ctx.r := by
  have e := congrArg Ctx.r h.ctx
  exact e

theorem queues (h : Sending s t es) : t.ctx.x = s.ctx.x := by
  have e := congrArg Ctx.x h.ctx
  exact e

theorem cid (h : Sending s t es) : t.ctx.cid = s.ctx.cid := by
  have e := congrArg Ctx.cid h.ctx
  exact e

theorem rg (h : Sending s t es) (a : Fin 32) : t.rg a = s.rg a := by rw [State.rg, h.regs, State.rg]

/-- A change that `Retired` does not speak of. -/
theorem quiet (h : Sending s t es) (cur : u.cur = t.cur) (cycle : u.cycle = t.cycle) (strokes : ∀ n k, u.stroke n k = t.stroke n k)
    (turn : { u.turn with undo := t.turn.undo } = t.turn) : Sending s u es := by
  have ctx : u.ctx = t.ctx := by
    show (u.stroke u.cur.nib u.cur.k).ctx = (t.stroke t.cur.nib t.cur.k).ctx
    rw [cur, strokes]
  have seqSt : ∀ q, u.seqSt q = t.seqSt q := by
    intro q
    have trapped : u.turn.trapped = t.turn.trapped := by rw [← turn]
    have tret : u.turn.tret = t.turn.tret := by rw [← turn]
    have seqs : u.turn.seqs = t.turn.seqs := by rw [← turn]
    rw [State.seqSt, State.seqSt, trapped, tret, seqs, ctx]
  exact ⟨cur.trans h.cur, cycle.trans h.cycle, by rw [ctx]; exact h.effects, by rw [← h.issued, ← turn],
    by rw [seqSt]; exact h.seq, fun q hq => (seqSt q).trans (h.seqs q hq), by rw [ctx]; exact h.ctx, by rw [ctx]; exact h.csrs,
    fun n k hk => (strokes n k).trans (h.strokes n k hk)⟩

/-- A change that leaves the nibs and the turn's record alone. -/
theorem still (h : Sending s t es) (cur : u.cur = t.cur) (cycle : u.cycle = t.cycle) (nibs : u.nibs = t.nibs) (turn : u.turn = t.turn) :
    Sending s u es := h.quiet cur cycle (stroke_of_nibs nibs) (by rw [turn])

/-- A change within `SameBut` that sends nothing and issues nothing. -/
theorem within (h : Sending s t es) (same : SameBut t u) (effects : u.ctx.inflight = t.ctx.inflight)
    (issued : u.turn.issued = t.turn.issued) (seq : { u.seqSt t.cur.q with lc := (t.seqSt t.cur.q).lc } = t.seqSt t.cur.q) :
    Sending s u es := by
  have cur := h.cur
  refine ⟨same.cur_eq.trans cur, same.cycle_eq.trans h.cycle, effects.trans h.effects, issued.trans h.issued, ?_, fun q hq => ?_, ?_, ?_,
    fun n k hk => ?_⟩
  · rw [cur] at seq
    rw [← h.seq, ← seq]
  · exact (same.seqs q (by rw [cur]; exact hq)).trans (h.seqs q hq)
  · rw [← h.ctx, ← same.ctx]
  · rw [← h.csrs, ← same.csrs]
  · refine Eq.trans ?_ (h.strokes n k hk)
    by_cases hn : n = t.cur.nib
    · subst hn
      exact same.strokes k (fun hk' => hk (by rw [hk', cur]))
    · rw [State.stroke, same.nibs n hn]; rfl

theorem lands (h : Sending s t es) (fs : List (Nat × Eff)) : Sending s (t.lands fs) (es ++ fs) := by
  have same := sameBut_lands t fs
  have base : Sending s t es := h
  refine ⟨same.cur_eq.trans h.cur, same.cycle_eq.trans h.cycle, ?_, by rw [turn_lands]; exact h.issued,
    by rw [seqSt_lands]; exact h.seq, fun q hq => (seqSt_lands t fs q).trans (h.seqs q hq), ?_, ?_, fun n k hk => ?_⟩
  · rw [inflight_lands, h.effects, h.tn, h.cur, List.map_append, List.append_assoc]
  · rw [← h.ctx, ← same.ctx]
  · rw [← h.csrs, ← same.csrs]
  · refine Eq.trans ?_ (h.strokes n k hk)
    by_cases hn : n = t.cur.nib
    · subst hn
      exact same.strokes k (fun hk' => hk (by rw [hk', h.cur]))
    · rw [State.stroke, same.nibs n hn]; rfl

theorem land (h : Sending s t es) (lat : Nat) (e : Eff) : Sending s (t.land lat e) (es ++ [(lat, e)]) := h.lands [(lat, e)]

theorem setLc (h : Sending s t es) (x : Clk) : Sending s (t.setLc x) es :=
  h.within (sameBut_modSeq t _) (inflight_modSeq t _ _) (issued_modSeq t _ _) (by rw [State.setLc, seqSt_modSeq])

theorem nextFound (h : Sending s t es) : t.nextFound = ({ s with mem := t.mem } : State).nextFound := by
  have pc : t.pc = ({ s with mem := t.mem } : State).pc := by
    have e := congrArg SeqSt.pc h.seq
    rw [State.pc, h.cur]
    exact e
  have code : t.code = ({ s with mem := t.mem } : State).code := by
    funext a
    rw [State.code, State.wellWord, h.cur]
    rfl
  have xob : t.ctx.c.xob = s.ctx.c.xob := by
    have e := congrArg Csrs.xob h.csrs
    exact e
  rw [State.nextFound, State.nextFound, State.word, State.word, pc, code, xob, h.cur]
  rfl

/-- An instruction that retires with these effects on their way. -/
theorem retired (h : Sending s t es) : Retired s t.retire es := by
  obtain ⟨effects, marked, place, same⟩ := issued_retire t []
  have lc : (t.seqSt s.cur.q).lc = (t.seqSt t.cur.q).lc := by rw [h.cur]
  rw [State.lands_nil] at effects marked place same
  rw [h.cur, h.nextFound] at place
  have found : ({ s with mem := t.retire.mem } : State).nextFound = ({ s with mem := t.mem } : State).nextFound := by rw [same.mem_eq]
  refine ⟨?_, ?_, ?_, ?_, fun q hq => ?_, ?_, ?_, ?_, fun n k hk => ?_⟩
  · rw [effects, List.map_nil, List.append_nil, h.effects]
  · rw [marked, h.issued, h.cur]
  · rw [place, found]
  · rw [place, found]; rfl
  · exact (same.seqs q (by rw [h.cur]; exact hq)).trans (h.seqs q hq)
  · have e := congrArg Ctx.r same.ctx
    exact Eq.trans e h.regs
  · rw [← h.csrs, ← same.csrs]
  · have e := congrArg Ctx.x same.ctx
    exact Eq.trans e h.queues
  · refine Eq.trans ?_ (h.strokes n k hk)
    by_cases hn : n = t.cur.nib
    · subst hn
      exact same.strokes k (fun hk' => hk (by rw [hk', h.cur]))
    · rw [State.stroke, same.nibs n hn]; rfl

end Sending

/-! ## Pieces of the local window -/

theorem unitOf_wellPA (n : NibId) {off : Nat} (h : off < 0x80000) : unitOf (wellPA n off) = .well n off := by
  have bound := n.isLt
  unfold unitOf wellPA
  rw [if_neg (by omega), if_pos (by omega)]
  have number : (0xC000000000 + n.val * 0x80000 + off - 0xC000000000) / 0x80000 = n.val := by omega
  have offset : (0xC000000000 + n.val * 0x80000 + off) % 0x80000 = off := by omega
  rw [number, offset]
  congr
  exact Fin.ext (Nat.mod_eq_of_lt bound)

/-- A piece with its place in the well of the issuing nib. -/
def State.ownPiece (s : State) (r : Range) : Range := { r with pa := wellPA s.cur.nib r.va.toNat, cache := false }

theorem cellPieces_zero (va : Word) (at_ fuel : Nat) : State.cellPieces va at_ 0 fuel = [] := by
  cases fuel <;> simp [State.cellPieces]

/-- An access that stays in its cell has one piece. -/
theorem cellPieces_one {va : Word} {at_ n : Nat} (pos : 0 < n) (fits : n ≤ 64 - va.toNat % 64) (fuel : Nat) :
    State.cellPieces va at_ n (fuel + 1) = [⟨va, 0, n, false, at_⟩] := by
  simp only [State.cellPieces, if_neg (Nat.pos_iff_ne_zero.1 pos), min_eq_left fits, Nat.sub_self, cellPieces_zero]

/-- The pieces of a range lie in it. -/
theorem cellPieces_inside {va : Word} {at_ n fuel : Nat} (fits : va.toNat + n < 2 ^ 64) :
    ∀ r ∈ State.cellPieces va at_ n fuel, va.toNat ≤ r.va.toNat ∧ r.va.toNat + r.size ≤ va.toNat + n ∧ 0 < r.size := by
  induction fuel generalizing va at_ n with
  | zero => intro r hr; exact absurd hr List.not_mem_nil
  | succ fuel ih =>
    intro r hr
    rw [State.cellPieces] at hr
    split at hr
    · exact absurd hr List.not_mem_nil
    · next pos =>
      have least : 0 < min n (64 - va.toNat % 64) := by omega
      rcases List.mem_cons.1 hr with rfl | hr
      · exact ⟨Nat.le_refl _, Nat.add_le_add_left (Nat.min_le_left ..) _, least⟩
      · have step : (va + BitVec.ofNat 64 (min n (64 - va.toNat % 64))).toNat = va.toNat + min n (64 - va.toNat % 64) := by
          rw [BitVec.toNat_add, BitVec.toNat_ofNat]
          omega
        obtain ⟨lo, hi, pos⟩ := ih (by rw [step]; omega) r hr
        rw [step] at lo hi
        exact ⟨by omega, by omega, pos⟩

section
variable {s : State}

theorem lookAll_local {a : State.Acc} {rs : List Range} (near : ∀ r ∈ rs, r.va.toNat < windowEnd) (acc : List Range) :
    s.lookAll a rs acc = .ok (acc.reverse ++ rs.map s.ownPiece) := by
  induction rs generalizing acc with
  | nil => rw [State.lookAll, List.map_nil, List.append_nil]
  | cons r rs ih =>
    have hit : s.look r.va a.store = .hit (wellPA s.cur.nib r.va.toNat) false := if_pos (near r (List.mem_cons_self ..))
    rw [State.lookAll, hit]
    dsimp only
    rw [ih (fun x hx => near x (List.mem_cons_of_mem _ hx)), List.reverse_cons, List.append_assoc]
    rfl

theorem ownWell_wellPA {off : Nat} (small : off < 0x80000) : s.ownWell (wellPA s.cur.nib off) = some off := by
  rw [State.ownWell, unitOf_wellPA _ small]
  exact if_pos rfl

theorem refusedOf_wellPA {off : Nat} (small : off < 0x80000) (priv scalar : Bool) :
    s.refusedOf s.cur.nib priv scalar (wellPA s.cur.nib off) = (decide (0x60000 ≤ off) || !priv && s.inRecords s.cur.nib off) := by
  rw [State.refusedOf, unitOf_wellPA _ small]
  exact if_pos rfl

theorem ownWell_ownPiece {r : Range} (near : r.va.toNat < windowEnd) : s.ownWell (s.ownPiece r).pa = some r.va.toNat := by
  have off : r.va.toNat < 0x80000 := Nat.lt_of_lt_of_le near (by decide)
  exact ownWell_wellPA off

/-- The pieces of a range lie in the window, past the checks of R147, and in no range that another stroke has locked. -/
structure State.FreePiece (s : State) (r : Range) : Prop where
  near : r.va.toNat < windowEnd
  seen : s.turn.mode ≠ .t ∨ s.inRecords s.cur.nib r.va.toNat = false
  block : s.blockBusy s.cur.nib r.va.toNat r.size = false
  lock : s.lockedOut r.va.toNat r.size = false

theorem localOk_free {ea : Word} {size al : Nat} (ok : s.LocalOk ea size al) {r : Range} (lo : ea.toNat ≤ r.va.toNat)
    (hi : r.va.toNat + r.size ≤ ea.toNat + size) (pos : 0 < r.size) : s.FreePiece r := by
  obtain ⟨inside, -, records, blocks, locks⟩ := ok
  refine ⟨show r.va.toNat < 0x60000 by omega, ?_, ?_, ?_⟩
  · rcases records with h | h | h
    · exact .inl h
    · exact .inr (by rw [State.inRecords, show (s.nib s.cur.nib).ctxEn = false from h]; rfl)
    · exact .inr (by rw [State.inRecords, decide_eq_false (show ¬ 0x4C000 ≤ r.va.toNat by omega), Bool.and_false])
  · rw [State.blockBusy, List.any_eq_false]
    intro b hb
    rcases blocks b hb with h | h | h
    · simp [h]
    · simp [show ¬ r.va.toNat < b.addr + 256 * b.lines by omega]
    · simp [show ¬ b.addr < r.va.toNat + r.size by omega]
  · rw [State.lockedOut, List.any_eq_false]
    intro l hl
    rcases locks l hl with h | h | h
    · simp [h]
    · simp [show ¬ r.va.toNat < l.base + l.len by omega]
    · simp [show ¬ l.base < r.va.toNat + r.size by omega]

theorem localOk_pieces {a : State.Acc} (ok : s.LocalOk a.ea a.size a.align) (at_ : Nat) :
    ∀ r ∈ State.Acc.pieces a at_, s.FreePiece r := by
  intro r hr
  have inside := ok.inside
  obtain ⟨lo, hi, pos⟩ := cellPieces_inside (by omega) r hr
  exact localOk_free ok lo hi pos

theorem checkEarly_local {a : State.Acc} (ok : s.LocalOk a.ea a.size a.align) : s.checkEarly a = none := by
  have near : (State.Acc.pieces a 0).any (fun r => windowEnd ≤ r.va.toNat) = false := by
    rw [List.any_eq_false]
    intro r hr
    simpa using (localOk_pieces ok 0 r hr).near
  have near' : (State.Acc.pieces a 0).any (fun r => windowEnd ≤ r.va.toNat && !canonical r.va) = false := by
    rw [List.any_eq_false] at near ⊢
    intro r hr
    simp only [Bool.and_eq_true, not_and]
    exact fun h => absurd h (near r hr)
  have inside : State.inWindow a.ea a.size = true := decide_eq_true ok.inside
  rw [State.checkEarly, inside, Bool.not_true, Bool.and_false, if_neg Bool.false_ne_true, if_neg (not_not.2 ok.aligned), near', near,
    if_neg Bool.false_ne_true, Bool.false_and, if_neg Bool.false_ne_true]

theorem refusedOf_ownPiece {r : Range} (free : s.FreePiece r) (scalar : Bool) :
    s.refusedOf s.cur.nib (s.turn.mode != .t) scalar (s.ownPiece r).pa = false := by
  have near := free.near
  have off : r.va.toNat < 0x80000 := Nat.lt_of_lt_of_le near (by decide)
  have refuses : s.refusedOf s.cur.nib (s.turn.mode != .t) scalar (s.ownPiece r).pa = _ := refusedOf_wellPA off _ scalar
  rw [refuses, decide_eq_false (show ¬ 0x60000 ≤ r.va.toNat from Nat.not_le.2 near), Bool.false_or]
  rcases free.seen with h | h
  · simp [bne, beq_false_of_ne h]
  · rw [h, Bool.and_false]

theorem checkLate_local {a : State.Acc} (ok : s.LocalOk a.ea a.size a.align) (at_ : Nat) :
    s.checkLate a at_ = .ok ((State.Acc.pieces a at_).map s.ownPiece) := by
  have free := localOk_pieces ok at_
  have access : ((State.Acc.pieces a at_).map s.ownPiece).any (fun r => s.refusedOf s.cur.nib (s.turn.mode != .t) a.scalar r.pa ||
      (a.sync && !(match unitOf r.pa with | .well _ _ => true | _ => false))) = false := by
    rw [List.any_eq_false]
    intro r hr
    obtain ⟨q, hq, rfl⟩ := List.mem_map.1 hr
    have off : q.va.toNat < 0x80000 := Nat.lt_of_lt_of_le (free q hq).near (by decide)
    have own : unitOf (s.ownPiece q).pa = .well s.cur.nib q.va.toNat := unitOf_wellPA _ off
    rw [refusedOf_ownPiece (free q hq), own]
    simp
  have blocks : ((State.Acc.pieces a at_).map s.ownPiece).any (fun r => match s.ownWell r.pa with
      | some off => s.blockBusy s.cur.nib off r.size
      | none => false) = false := by
    rw [List.any_eq_false]
    intro r hr
    obtain ⟨q, hq, rfl⟩ := List.mem_map.1 hr
    rw [ownWell_ownPiece (free q hq).near]
    exact Bool.eq_false_iff.1 (free q hq).block
  rw [State.checkLate, lookAll_local (fun r hr => (free r hr).near), List.reverse_nil, List.nil_append]
  exact (if_neg fun h => Bool.false_ne_true (access.symm.trans h)).trans (if_neg fun h => Bool.false_ne_true (blocks.symm.trans h))

/-- The pieces of local accesses that pass every check. -/
def State.windowPieces (s : State) (accs : List (State.Acc × Nat)) : List Range :=
  accs.flatMap (fun x => (State.Acc.pieces x.1 x.2).map s.ownPiece)

theorem checkAll_local {accs : List (State.Acc × Nat)} (ok : ∀ x ∈ accs, s.LocalOk x.1.ea x.1.size x.1.align) (acc : List Range) :
    s.checkAll accs acc = .ok (acc ++ s.windowPieces accs) := by
  induction accs generalizing acc with
  | nil => rw [State.checkAll]; simp [State.windowPieces]
  | cons x accs ih =>
    obtain ⟨a, at_⟩ := x
    have here := ok (a, at_) (List.mem_cons_self ..)
    rw [State.checkAll, checkEarly_local here]
    dsimp only
    rw [checkLate_local here]
    dsimp only
    rw [ih (fun y hy => ok y (List.mem_cons_of_mem _ hy)), List.append_assoc]
    rfl

theorem lockedPieces_local {accs : List (State.Acc × Nat)} (ok : ∀ x ∈ accs, s.LocalOk x.1.ea x.1.size x.1.align) :
    s.lockedPieces (s.windowPieces accs) = false := by
  rw [State.lockedPieces, List.any_eq_false]
  intro r hr
  obtain ⟨x, hx, hr⟩ := List.mem_flatMap.1 hr
  obtain ⟨q, hq, rfl⟩ := List.mem_map.1 hr
  have free := localOk_pieces (ok x hx) x.2 q hq
  rw [ownWell_ownPiece free.near]
  exact Bool.eq_false_iff.1 free.lock

theorem passes_local {accs : List (State.Acc × Nat)} (ok : ∀ x ∈ accs, s.LocalOk x.1.ea x.1.size x.1.align) :
    s.Passes accs (s.windowPieces accs) := ⟨checkAll_local ok [], lockedPieces_local ok⟩

end

/-! ## Issuing an access -/

/-- An access whose checks pass acts on its pieces. -/
theorem access_of_passes {s : State} {accs : List (State.Acc × Nat)} {rs : List Range} {sl : Fin 16} (pass : s.Passes accs rs)
    (room : s.sealFull sl = false) (code : Fin 4) (act : State → List Range → State) :
    s.access ⟨accs, sl, false, code⟩ act = act s.dropAnswers rs := by
  rw [State.access, room, Bool.or_false, if_neg Bool.false_ne_true, pass.1]
  exact if_neg (by rw [show s.dropAnswers.lockedPieces rs = s.lockedPieces rs from rfl, pass.2]; exact Bool.false_ne_true)

theorem sealFull_zero (s : State) : s.sealFull 0 = false := rfl

/-- An access that waits for a vector queue, and would pass its checks. -/
theorem access_of_queueWait {s : State} {accs : List (State.Acc × Nat)} (ok : ∀ x ∈ accs, s.LocalOk x.1.ea x.1.size x.1.align)
    (sl : Fin 16) (code : Fin 4) (act : State → List Range → State) : s.access ⟨accs, sl, true, code⟩ act = s.waitMsg := by
  have early : accs.findSome? (fun x => s.checkEarly x.1) = none := by
    rw [List.findSome?_eq_none_iff]
    exact fun x hx => checkEarly_local (ok x hx)
  rw [State.access, Bool.true_or, if_pos rfl, early]
  rfl

/-! ## Reading and writing the window -/

/-- t differs from s in the nibs, the turn's record, memory and stamps alone. -/
def WellOnly (s t : State) : Prop := { t with nibs := s.nibs, turn := s.turn, mem := s.mem, stamps := s.stamps } = s

namespace WellOnly

variable {s t u : State}

theorem refl (s : State) : WellOnly s s := rfl

theorem trans (h : WellOnly s t) (g : WellOnly t u) : WellOnly s u := by
  have e := congrArg (fun x : State => { x with nibs := s.nibs, turn := s.turn, mem := s.mem, stamps := s.stamps }) g
  exact Eq.trans e h

theorem ops (h : WellOnly s t) : t.ops = s.ops := by
  have e := congrArg State.ops h
  exact e

theorem agenda (h : WellOnly s t) : t.agenda = s.agenda := by
  have e := congrArg State.agenda h
  exact e

theorem full (h : WellOnly s t) : t.full = s.full := by
  have e := congrArg State.full h
  exact e

theorem cur (h : WellOnly s t) : t.cur = s.cur := by
  have e := congrArg State.cur h
  exact e

theorem nextId (h : WellOnly s t) : t.nextId = s.nextId := by
  have e := congrArg State.nextId h
  exact e

end WellOnly

theorem wellOnly_of_sameBut {s t : State} (h : SameBut s t) : WellOnly s t := by
  have e := congrArg (fun x : State => { x with mem := s.mem, stamps := s.stamps }) h.machine
  exact e

theorem stampRange_only (s : State) (write : Bool) (pa : Nat) (lc : Clk) (l n : Nat) :
    ∃ st, (s.stampRange write pa lc l n).2 = { s with stamps := st } := by
  induction n generalizing s pa lc with
  | zero => exact ⟨s.stamps, rfl⟩
  | succ n ih =>
    rw [State.stampRange]
    cases write with
    | false =>
      obtain ⟨st, h⟩ := ih (s.readStamp pa lc l).2 (pa / 64 * 64 + 64) (s.readStamp pa lc l).1
      exact ⟨st, h.trans rfl⟩
    | true =>
      obtain ⟨st, h⟩ := ih (s.writeStamp pa lc).2 (pa / 64 * 64 + 64) (s.writeStamp pa lc).1
      exact ⟨st, h.trans rfl⟩

theorem keepOld_only (s : State) (a n : Nat) : ∃ u, s.keepOld a n = { s with turn := { s.turn with undo := u } } := by
  induction n generalizing s a with
  | zero => exact ⟨s.turn.undo, rfl⟩
  | succ n ih =>
    rw [State.keepOld]
    split
    · exact ih s (a + 1)
    · obtain ⟨u, h⟩ := ih { s with turn := { s.turn with undo := (a, Memory.get s.mem a) :: s.turn.undo } } (a + 1)
      exact ⟨u, h⟩

theorem setLc_undo (s : State) (x : Clk) : (s.setLc x).turn.undo = s.turn.undo := by
  have e := congrArg Turn.undo (sameBut_modSeq s (fun q => { q with lc := x })).turn
  exact e

theorem wellRead_congr {s t : State} (cur : t.cur = s.cur) (undo : t.turn.undo = s.turn.undo) (mem : t.mem = s.mem) (off n : Nat) :
    t.wellRead off n = s.wellRead off n := by
  induction n generalizing off with
  | zero => rfl
  | succ n ih => rw [State.wellRead, State.wellRead, ih, State.wellOld, State.wellOld, cur, undo, mem]

theorem wellRead_add (s : State) (off m n : Nat) : s.wellRead off (m + n) = s.wellRead off m + 256 ^ m * s.wellRead (off + m) n := by
  induction m generalizing off with
  | zero => simp [State.wellRead]
  | succ m ih =>
    rw [Nat.succ_add, State.wellRead, ih, State.wellRead, show off + 1 + m = off + (m + 1) by omega, Nat.pow_succ]
    ring

theorem wellRead_lt (s : State) (off n : Nat) : s.wellRead off n < 256 ^ n := by
  induction n generalizing off with
  | zero => simp [State.wellRead]
  | succ n ih =>
    have byte := (s.wellOld off).isLt
    have rest := ih (off + 1)
    rw [State.wellRead, Nat.pow_succ]
    omega

/-- A read of the window: the value as the turn found it; nothing changes but stamps and the sequencer's clock. -/
theorem localLoad_frame (s : State) (off n : Nat) : (s.localLoad off n).1 = s.wellRead off n ∧ WellOnly s (s.localLoad off n).2 ∧
    (s.localLoad off n).2.mem = s.mem ∧ (s.localLoad off n).2.turn.undo = s.turn.undo ∧
    ∀ {r : State} {es}, Sending r s es → Sending r (s.localLoad off n).2 es := by
  obtain ⟨st, h⟩ := stampRange_only s false (wellPA s.cur.nib off) s.lc 0 (State.cellsOf off n)
  have after : (s.localLoad off n).2 = ({ s with stamps := st } : State).setLc (s.stampRange false (wellPA s.cur.nib off) s.lc 0
      (State.cellsOf off n)).1 := by
    rw [State.localLoad, ← h]
  refine ⟨rfl, ?_, ?_, ?_, fun sending => ?_⟩
  · rw [after]
    exact WellOnly.trans (t := { s with stamps := st }) rfl (wellOnly_of_sameBut (sameBut_modSeq _ _))
  · rw [after, State.setLc_mem]
  · rw [after, setLc_undo]
  · rw [after]
    exact (sending.still (u := { s with stamps := st }) rfl rfl rfl rfl).setLc _

theorem localStore_frame (s : State) (off n x : Nat) : WellOnly s (s.localStore off n x) ∧
    (s.localStore off n x).mem = Memory.write s.mem (wellPA s.cur.nib off) n x ∧
    ∀ {r : State} {es}, Sending r s es → Sending r (s.localStore off n x) es := by
  obtain ⟨u, kept⟩ := keepOld_only s (wellPA s.cur.nib off) n
  have wrote : s.wellWrite off n x = { s with turn := { s.turn with undo := u }, mem := Memory.write s.mem (wellPA s.cur.nib off) n x } := by
    rw [State.wellWrite, kept]
  obtain ⟨st, h⟩ := stampRange_only (s.wellWrite off n x) true (wellPA s.cur.nib off) (s.wellWrite off n x).lc 0 (State.cellsOf off n)
  have after : s.localStore off n x = ({ s with
      turn := { s.turn with undo := u }, mem := Memory.write s.mem (wellPA s.cur.nib off) n x, stamps := st } : State).setLc
        ((s.wellWrite off n x).stampRange true (wellPA s.cur.nib off) (s.wellWrite off n x).lc 0 (State.cellsOf off n)).1 := by
    have cur : (s.wellWrite off n x).cur = s.cur := by rw [wrote]
    rw [State.localStore]
    dsimp only
    rw [cur, h]
    rw [wrote]
  refine ⟨?_, ?_, fun sending => ?_⟩
  · rw [after]
    exact WellOnly.trans (t := { s with
      turn := { s.turn with undo := u }, mem := Memory.write s.mem (wellPA s.cur.nib off) n x, stamps := st }) rfl
      (wellOnly_of_sameBut (sameBut_modSeq _ _))
  · rw [after, State.setLc_mem]
  · rw [after]
    exact (sending.quiet (u := { s with
      turn := { s.turn with undo := u }, mem := Memory.write s.mem (wellPA s.cur.nib off) n x, stamps := st }) rfl rfl
      (fun _ _ => rfl) rfl).setLc _

/-- What the pieces of a local read come to. -/
def State.gathered (s : State) (rs : List Range) (x : Nat) : Nat :=
  rs.foldl (fun x r => x + s.wellRead r.va.toNat r.size * 2 ^ (8 * r.at_)) x

theorem localGather_frame (s : State) (rs : List Range) (x : Nat) : (s.localGather rs x).1 = s.gathered rs x ∧
    WellOnly s (s.localGather rs x).2 ∧ (s.localGather rs x).2.mem = s.mem ∧
    ∀ {r : State} {es}, Sending r s es → Sending r (s.localGather rs x).2 es := by
  induction rs generalizing s x with
  | nil => exact ⟨rfl, .refl s, rfl, fun h => h⟩
  | cons r rs ih =>
    obtain ⟨value, only, mem, undo, send⟩ := localLoad_frame s r.va.toNat r.size
    obtain ⟨values, onlys, mems, sends⟩ := ih (s.localLoad r.va.toNat r.size).2 (x + (s.localLoad r.va.toNat r.size).1 * 2 ^ (8 * r.at_))
    have same : ∀ l y, (s.localLoad r.va.toNat r.size).2.gathered l y = s.gathered l y := by
      intro l y
      simp only [State.gathered, wellRead_congr only.cur undo mem]
    rw [State.localGather]
    exact ⟨by rw [values, same, value]; rfl, only.trans onlys, mems.trans mem, fun h => sends (send h)⟩

/-- Memory after the pieces of a local write. -/
def scattered (n : NibId) (m : List Host.Cell) (x : Nat) (rs : List Range) : List Host.Cell :=
  rs.foldl (fun m r => Memory.write m (wellPA n r.va.toNat) r.size (x / 2 ^ (8 * r.at_))) m

theorem localScatter_frame (s : State) (x : Nat) (rs : List Range) : WellOnly s (s.localScatter x rs) ∧
    (s.localScatter x rs).mem = scattered s.cur.nib s.mem x rs ∧
    ∀ {r : State} {es}, Sending r s es → Sending r (s.localScatter x rs) es := by
  induction rs generalizing s with
  | nil => exact ⟨.refl s, rfl, fun h => h⟩
  | cons r rs ih =>
    obtain ⟨only, mem, send⟩ := localStore_frame s r.va.toNat r.size (x / 2 ^ (8 * r.at_))
    obtain ⟨onlys, mems, sends⟩ := ih (s.localStore r.va.toNat r.size (x / 2 ^ (8 * r.at_)))
    rw [State.localScatter]
    refine ⟨only.trans onlys, ?_, fun h => sends (send h)⟩
    rw [mems, only.cur, mem]
    rfl

/-! ## Effects of an access -/

namespace Sending

variable {s t : State} {es : List (Nat × Eff)}

theorem landG (h : Sending s t es) (lat : Nat) (d : Fin 32) (x : Word) : Sending s (t.landG lat d x) (es ++ gWrite lat d x) := by
  rw [State.landG_eq]
  exact h.lands _

theorem landEv (h : Sending s t es) (e : Ev) : Sending s (t.landEv e) (es ++ evCount e) := by
  rw [State.landEv_eq]
  exact h.lands _

theorem vphys (h : Sending s t es) (d : Fin 32) : t.vphys d = s.vphys d := by
  have vrb : t.ctx.c.vrb = s.ctx.c.vrb := by
    have e := congrArg Csrs.vrb h.csrs
    exact e
  simp only [State.vphys, vrb]

theorem landV (h : Sending s t es) (lat : Nat) (d : Fin 32) (x : Vec) : Sending s (t.landV lat d x) (es ++ vWrite s lat d x) := by
  rw [State.landV_eq, vWrite, h.vphys]
  exact h.lands _

theorem eaNext (h : Sending s t es) (a : Fin 32) (m : Fin 4) (i : BitVec 10) (size : Nat) : t.eaNext a m i size = s.eaNext a m i size := by
  simp only [State.eaNext, h.rg, h.regs]

theorem postInc (h : Sending s t es) (a : Fin 32) (m : Fin 4) (i : BitVec 10) (size : Nat) :
    Sending s (t.postInc a m i size) (es ++ incWrite s a m i size) := by
  rw [State.postInc, incWrite]
  split
  · rw [h.eaNext]
    exact h.landG ..
  · rw [List.append_nil]
    exact h

theorem turnCycle (h : Sending s t es) (n : Nat) : t.turnCycle n = s.turnCycle n := by
  rw [State.turnCycle, State.turnCycle, h.tn, h.cur]

/-- Dropping the answers of finished fills, and other changes of the operations alone. -/
theorem dropAnswers (s : State) : Sending s s.dropAnswers [] := (Sending.refl s).still rfl rfl rfl rfl

end Sending

theorem Sent.congr {s t u : State} {ops : List Op} {sl : Fin 16} {k : OpKind} {lo : Nat} {ev : Nat → Instr} (h : Sent s t ops sl k lo ev)
    (same : u.ops = t.ops) (agenda : u.agenda = t.agenda) : Sent s u ops sl k lo ev := by
  obtain ⟨o, c, joined, rest⟩ := h
  exact ⟨o, c, same.trans joined, by rw [agenda]; exact rest⟩

theorem freeCycle_none (s : State) (lo : Nat) : ∃ c, lo ≤ c ∧ s.freeCycle lo none = (c, { s with fresh := s.fresh + 1 }) :=
  ⟨_, Nat.le_add_right .., rfl⟩

/-- The operation that the issuing sequencer of `t` starts. -/
def State.freshOp (t : State) (sl : Fin 16) (kind : OpKind) : Op :=
  ⟨t.nextId, t.cur.nib, t.ctx.cid, t.cur.q, sl, kind, t.cur.k, t.turnCycle 2, false, false, t.lc, t.lc, none⟩

/-- A new operation whose first event comes no earlier than turn t+2: what it changes. -/
def State.sendOp (t : State) (sl : Fin 16) (kind : OpKind) (c : Nat) (ev : Instr) : State :=
  { t with ops := t.ops ++ [t.freshOp sl kind], nextId := t.nextId + 1, fresh := t.fresh + 1, agenda := t.agenda ++ [(c, ev)] }

section
variable {s t : State} {es : List (Nat × Eff)}

theorem Sending.sendOp (h : Sending s t es) (sl : Fin 16) (kind : OpKind) (c : Nat) (ev : Instr) : Sending s (t.sendOp sl kind c ev) es :=
  h.still rfl rfl rfl rfl

theorem Sending.sent (h : Sending s t es) (agenda : t.agenda = s.agenda) (nextId : t.nextId = s.nextId) (sl : Fin 16) (kind : OpKind)
    {c : Nat} (late : t.turnCycle 2 ≤ c) (ev : Nat → Instr) : Sent s (t.sendOp sl kind c (ev t.nextId)) t.ops sl kind (s.turnCycle 2) ev := by
  refine ⟨t.freshOp sl kind, c, rfl, rfl, ?_, h.cid, ?_, rfl, nextId, rfl, rfl, h.turnCycle 2 ▸ late, ?_⟩
  · rw [State.freshOp, h.cur]
  · rw [State.freshOp, h.cur]
  · rw [State.sendOp, agenda]
    rfl

theorem issueLong_eq (t : State) (sl : Fin 16) (use : Use) (rs : List Range) (data : Nat) (write : Bool) : ∃ c, t.turnCycle 2 ≤ c ∧
    t.issueLong sl use rs data write = (t.sendOp sl (.access use rs data false) c
      (if write then .homeWrite t.nextId else .homeRead t.nextId)).land 1 (.sealPend sl) :=
  ⟨_, Nat.le_add_right .., rfl⟩

end

/-- A long-form access joins the operations, and its seal is to rise. -/
theorem issueLong_frame {s t : State} {es : List (Nat × Eff)} (h : Sending s t es) (agenda : t.agenda = s.agenda)
    (nextId : t.nextId = s.nextId) (sl : Fin 16) (use : Use) (rs : List Range) (data : Nat) (write : Bool) :
    Sending s (t.issueLong sl use rs data write) (es ++ [(1, .sealPend sl)]) ∧
    Sent s (t.issueLong sl use rs data write) t.ops sl (.access use rs data false) (s.turnCycle 2)
      (if write then .homeWrite else .homeRead) ∧
    (t.issueLong sl use rs data write).mem = t.mem ∧ (t.issueLong sl use rs data write).full = t.full ∧
    (t.issueLong sl use rs data write).parts = t.parts := by
  obtain ⟨c, late, eq⟩ := issueLong_eq t sl use rs data write
  have sent := h.sent agenda nextId sl (.access use rs data false) late (if write then .homeWrite else .homeRead)
  have ev : (if write then Instr.homeWrite else Instr.homeRead) t.nextId = if write then .homeWrite t.nextId else .homeRead t.nextId := by
    cases write <;> rfl
  rw [ev] at sent
  rw [eq]
  exact ⟨(h.sendOp ..).land .., sent.congr (State.land_ops ..) (State.land_agenda ..), State.land_mem .., State.land_full ..,
    State.land_parts ..⟩

end Sys2Proof.Machine
end

section
/-! SUPPORT. Long-form accesses as they issue, and the loads of pattern and modulo registers (04_scalar.md R111, 06_memory.md R143 to
R145, 07_ordering.md R192). -/

namespace Sys2Proof.Machine

open Sys2Proof

section
variable {s : State} {d a : Fin 32} {m : Fin 4} {sl : Fin 16} {i : BitVec 10} {rs : List Range}

theorem bne_zero_of_ne (long : sl ≠ 0) : (sl != 0) = true := bne_iff_ne.2 long

/-- What a long-form access leaves as it issues: its operation is sent under its seal, memory stands, and its effects are on
their way. -/
def SendsLong (i : Instr) (s : State) (sl : Fin 16) (use : Use) (rs : List Range) (data : Nat) (ev : Nat → Instr)
    (es : List (Nat × Eff)) : Prop :=
  ∃ t, exec i s = .next t ∧ t.mem = s.mem ∧ t.full = s.full ∧
    Sent s t s.dropAnswers.ops sl (.access use rs data false) (s.turnCycle 2) ev ∧ Retired s t es

/-- An access that, its checks passed, takes some effects `es` first, sends its operation, sends `fs`, and retires. -/
theorem sendsLong_of_run {ins : Instr} {use : Use} {data : Nat} {write : Bool} {es fs : List (Nat × Eff)} {t : State}
    (before : Sending s t es) (rest : WellOnly s.dropAnswers t) (mem : t.mem = s.mem)
    (run : exec ins s = .next ((t.issueLong sl use rs data write).lands fs).retire) :
    SendsLong ins s sl use rs data (if write then .homeWrite else .homeRead) (es ++ [(1, .sealPend sl)] ++ fs) := by
  obtain ⟨send, sent, mem', full', -⟩ := issueLong_frame before rest.agenda rest.nextId sl use rs data write
  have only := wellOnly_of_sameBut (sameBut_lands (t.issueLong sl use rs data write) fs)
  have same := (issued_retire ((t.issueLong sl use rs data write).lands fs) []).same
  rw [rest.ops] at sent
  refine ⟨_, run, ?_, ?_, sent.congr ?_ ?_, (send.lands fs).retired⟩
  · rw [State.retire_mem, (sameBut_lands _ fs).mem_eq, mem', mem]
  · rw [State.retire_full, only.full, full', rest.full]; rfl
  · rw [State.retire_ops, only.ops]
  · rw [State.retire_agenda, only.agenda]

theorem postInc_only (t : State) (a : Fin 32) (m : Fin 4) (i : BitVec 10) (size : Nat) : WellOnly t (t.postInc a m i size) := by
  rw [State.postInc]
  split
  · rw [State.landG_eq]
    exact wellOnly_of_sameBut (sameBut_lands t _)
  · exact .refl t

/-- The address register's increment, before the operation is sent. -/
theorem sending_postInc (s : State) (a : Fin 32) (m : Fin 4) (i : BitVec 10) (size : Nat) :
    Sending s (s.dropAnswers.postInc a m i size) (incWrite s a m i size) := (Sending.dropAnswers s).postInc a m i size

theorem long_loadScalar {ins : Instr} {size : Nat} {sgn : Bool} (run : exec ins s = s.loadScalar d a m sl i size sgn)
    (long : sl ≠ 0) (room : s.sealFull sl = false) (clear : s.Clear (State.eaSrcs a m i) (.g d :: State.eaDsts a m) true)
    (pass : s.Passes [(⟨s.ea a m i size, size, size, false, true, true, false, false⟩, 0)] rs) :
    SendsLong ins s sl (.loadG d size sgn) rs 0 .homeRead (incWrite s a m i size ++ [(1, .sealPend sl), (1, .pend (.g d))]) := by
  rw [State.loadScalar, List.singleton_append, bne_zero_of_ne long, guarded_of_clear clear, access_of_passes pass room, if_neg long] at run
  have sends := sendsLong_of_run (write := false) (fs := [(1, .pend (.g d))]) (sending_postInc s a m i size)
    (postInc_only _ a m i size) (State.postInc_mem ..) run
  rw [List.append_assoc] at sends
  exact sends

theorem long_storeScalar {ins : Instr} {size : Nat} (run : exec ins s = s.storeScalar d a m sl i size)
    (long : sl ≠ 0) (room : s.sealFull sl = false) (clear : s.Clear (.g d :: State.eaSrcs a m i) (State.eaDsts a m) true)
    (pass : s.Passes [(⟨s.ea a m i size, size, size, true, true, true, false, false⟩, 0)] rs) :
    SendsLong ins s sl .store rs ((s.rg d).toNat % 2 ^ (8 * size)) .homeWrite (incWrite s a m i size ++ [(1, .sealPend sl)]) := by
  rw [State.storeScalar, bne_zero_of_ne long, guarded_of_clear clear, access_of_passes pass room, if_neg long] at run
  have sends := sendsLong_of_run (write := true) (fs := []) (sending_postInc s a m i size)
    (postInc_only _ a m i size) (State.postInc_mem ..) run
  rw [List.append_nil] at sends
  exact sends

theorem long_ldV (long : sl ≠ 0) (room : s.sealFull sl = false)
    (clear : s.Clear (State.eaSrcs a m i) (.v (s.vphys d) :: State.eaDsts a m) true)
    (pass : s.Passes [(⟨s.ea a m i 128, 128, 64, false, true, false, false, false⟩, 0)] rs) :
    SendsLong (.ldV d a m sl i) s sl (.loadV (s.vphys d)) rs 0 .homeRead
      (incWrite s a m i 128 ++ [(1, .sealPend sl), (1, .pend (.v (s.vphys d)))]) := by
  have run := show exec (.ldV d a m sl i) s = execLdV d a m sl i s from rfl
  have acc : s.vecAcc a m sl i false = ⟨s.ea a m i 128, 128, 64, false, true, false, false, false⟩ := by
    rw [State.vecAcc, bne_zero_of_ne long]
  have here : s.dropAnswers.vphys d = s.vphys d := (Sending.dropAnswers s).vphys d
  rw [execLdV, List.singleton_append, bne_zero_of_ne long, guarded_of_clear clear, acc, access_of_passes pass room, if_neg long, here] at run
  dsimp only at run
  have there := (issueLong_frame (sending_postInc s a m i 128) (postInc_only _ a m i 128).agenda (postInc_only _ a m i 128).nextId sl
    (.loadV (s.vphys d)) rs 0 false).1.vphys d
  rw [there] at run
  have sends := sendsLong_of_run (write := false) (fs := [(1, .pend (.v (s.vphys d)))]) (sending_postInc s a m i 128)
    (postInc_only _ a m i 128) (State.postInc_mem ..) run
  rw [List.append_assoc] at sends
  exact sends

theorem axFull_of_room (room : s.ctx.x.ax.length < 4) : s.axFull = false := decide_eq_false (Nat.not_le.2 room)

theorem long_ldQ (long : sl ≠ 0) (room : s.sealFull sl = false) (clear : s.Clear (State.eaSrcs a m i) (State.eaDsts a m) true)
    (pass : s.Passes [(⟨s.ea a m i 128, 128, 64, false, true, false, false, false⟩, 0)] rs) (slot : s.ctx.x.ax.length < 4) :
    SendsLong (.ldQ a m sl i) s sl .loadQ rs 0 .homeRead (incWrite s a m i 128 ++ [(1, .sealPend sl), (1, .vqReserve s.nextId)]) := by
  have run := show exec (.ldQ a m sl i) s = execLdQ a m sl i s from rfl
  have acc : s.vecAcc a m sl i false = ⟨s.ea a m i 128, 128, 64, false, true, false, false, false⟩ := by
    rw [State.vecAcc, bne_zero_of_ne long]
  rw [execLdQ, bne_zero_of_ne long, guarded_of_clear clear, acc, axFull_of_room slot, access_of_passes pass room, if_neg long,
    State.issueLongQ, State.postInc_nextId] at run
  have sends := sendsLong_of_run (write := false) (fs := [(1, .vqReserve s.nextId)]) (sending_postInc s a m i 128)
    (postInc_only _ a m i 128) (State.postInc_mem ..) run
  rw [List.append_assoc] at sends
  exact sends

theorem long_stV (long : sl ≠ 0) (room : s.sealFull sl = false)
    (clear : s.Clear (.v (s.vphys d) :: State.eaSrcs a m i) (State.eaDsts a m) true)
    (pass : s.Passes [(⟨s.ea a m i 128, 128, 64, true, true, false, false, false⟩, 0)] rs) :
    SendsLong (.stV d a m sl i) s sl .store rs (s.rv d).toNat .homeWrite (incWrite s a m i 128 ++ [(1, .sealPend sl)]) := by
  have run := show exec (.stV d a m sl i) s = execStV d a m sl i s from rfl
  have acc : s.vecAcc a m sl i true = ⟨s.ea a m i 128, 128, 64, true, true, false, false, false⟩ := by
    rw [State.vecAcc, bne_zero_of_ne long]
  rw [execStV, bne_zero_of_ne long, guarded_of_clear clear, acc, access_of_passes pass room, if_neg long] at run
  have sends := sendsLong_of_run (write := true) (fs := []) (sending_postInc s a m i 128)
    (postInc_only _ a m i 128) (State.postInc_mem ..) run
  rw [List.append_nil] at sends
  exact sends

theorem xwHead_of_filled {e : VQEntry} {r : List VQEntry} (queue : s.ctx.x.xw = e :: r) (filled : e.filled = true) :
    s.xwHead = some e := by
  rw [State.xwHead, queue, List.head?_cons, Option.filter_some, if_pos filled]

theorem takeXw_only (t : State) (e : VQEntry) : WellOnly t (t.takeXw e) :=
  (wellOnly_of_sameBut (sameBut_modSeq t _)).trans (wellOnly_of_sameBut (sameBut_lands _ [(1, .vqPop .xw)]))

theorem takeXw_mem (t : State) (e : VQEntry) : (t.takeXw e).mem = t.mem := by rw [State.takeXw, State.land_mem, State.setLc_mem]

theorem Sending.takeXw {t : State} {es : List (Nat × Eff)} (h : Sending s t es) (e : VQEntry) :
    Sending s (t.takeXw e) (es ++ [(1, .vqPop .xw)]) := (h.setLc _).land 1 _

theorem long_stQ (long : sl ≠ 0) (room : s.sealFull sl = false) (clear : s.Clear (State.eaSrcs a m i) (State.eaDsts a m) true)
    (pass : s.Passes [(⟨s.ea a m i 128, 128, 64, true, true, false, false, false⟩, 0)] rs) {e : VQEntry} {r : List VQEntry}
    (queue : s.ctx.x.xw = e :: r) (filled : e.filled = true) :
    SendsLong (.stQ a m sl i) s sl .store rs e.val.toNat .homeWrite
      (incWrite s a m i 128 ++ [(1, .vqPop .xw), (1, .sealPend sl)]) := by
  have run := show exec (.stQ a m sl i) s = execStQ a m sl i s from rfl
  have acc : s.vecAcc a m sl i true = ⟨s.ea a m i 128, 128, 64, true, true, false, false, false⟩ := by
    rw [State.vecAcc, bne_zero_of_ne long]
  have head := xwHead_of_filled queue filled
  have head' : s.dropAnswers.xwHead = some e := xwHead_of_filled (s := s.dropAnswers) queue filled
  rw [execStQ, bne_zero_of_ne long, guarded_of_clear clear, acc, show s.xwHead.isNone = false by rw [head]; rfl,
    access_of_passes pass room, head'] at run
  dsimp only at run
  rw [if_neg long] at run
  have sends := sendsLong_of_run (write := true) (fs := []) ((sending_postInc s a m i 128).takeXw e)
    ((postInc_only _ a m i 128).trans (takeXw_only _ e)) (by rw [takeXw_mem, State.postInc_mem]; rfl) run
  rw [List.append_nil, List.append_assoc] at sends
  exact sends

end

/-- The union of two register checks. -/
theorem Clear.append {s : State} {srcs srcs' dsts dsts' : List RegRef} {long : Bool} (h : s.Clear srcs dsts long)
    (h' : s.Clear srcs' dsts' long) : s.Clear (srcs' ++ srcs) (dsts' ++ dsts) long :=
  ⟨fun x hx => (List.mem_append.1 hx).elim (h'.1 x) (h.1 x), fun x hx => (List.mem_append.1 hx).elim (h'.2 x) (h.2 x)⟩

theorem SendsLong.weaken {ins : Instr} {s : State} {sl : Fin 16} {use : Use} {rs : List Range} {data : Nat} {ev : Nat → Instr}
    {es : List (Nat × Eff)} (h : SendsLong ins s sl use rs data ev es) : ∃ t, exec ins s = .next t ∧ t.mem = s.mem ∧
      Sent s t s.dropAnswers.ops sl (.access use rs data false) (s.turnCycle 2) ev ∧ Retired s t es := by
  obtain ⟨t, run, mem, -, rest⟩ := h
  exact ⟨t, run, mem, rest⟩

/-- `pub` whose entry is number e, as R192 counts them. -/
theorem pub_eq {s : State} {a : Fin 32} {sl : Fin 16} {e : Fin 16} (room : s.sealFull sl = false) (clear : s.Clear [.g a] [] true)
    (number : Fin.ofNat 16 (s.rg a).toNat = e) : exec (.pub sl a) s = .next
      (if 16 ≤ (s.rg a).toNat || !s.parts[s.partOf s.cur.nib].pubs[e].en ||
          s.parts[s.partOf s.cur.nib].pubs[e].asid != State.asidOf s.ctx.c.ptroot then s.raise causeSTOREACC (s.rg a)
      else (s.issueLong sl (.pub (s.partOf s.cur.nib) e) [] 0 true).retire) := by
  subst number
  have run := show exec (.pub sl a) s = execPub sl a s from rfl
  rw [execPub, guarded_of_clear clear, room, if_neg Bool.false_ne_true] at run
  exact run

/-- `pub` of an entry (R192). -/
theorem pub_sends {s : State} {a : Fin 32} {sl : Fin 16} (room : s.sealFull sl = false)
    (clear : s.Clear [.g a] [] true) : let p := s.partOf s.cur.nib
    (∀ e : Fin 16, (s.rg a).toNat = e.val → s.parts[p].pubs[e].en = true → s.parts[p].pubs[e].asid = State.asidOf s.ctx.c.ptroot →
      ∃ t, exec (.pub sl a) s = .next t ∧ t.mem = s.mem ∧ t.parts = s.parts ∧
        Sent s t s.ops sl (.access (.pub p e) [] 0 false) (s.turnCycle 2) .homeWrite ∧ Retired s t [(1, .sealPend sl)]) ∧
    ((16 ≤ (s.rg a).toNat ∨ ∃ e : Fin 16, (s.rg a).toNat = e.val ∧ (s.parts[p].pubs[e].en = false ∨
      s.parts[p].pubs[e].asid ≠ State.asidOf s.ctx.c.ptroot)) → exec (.pub sl a) s = .next (s.raise 0x07 (s.rg a))) := by
  intro p
  have number : ∀ e : Fin 16, (s.rg a).toNat = e.val → Fin.ofNat 16 (s.rg a).toNat = e := fun e h =>
    Fin.ext (by rw [h]; exact Nat.mod_eq_of_lt e.isLt)
  refine ⟨fun e he en asid => ?_, fun bad => ?_⟩
  · have run := pub_eq room clear (number e he)
    rw [if_neg] at run
    · obtain ⟨send, sent, mem, -, parts⟩ := issueLong_frame (Sending.refl s) rfl rfl sl (.pub p e) [] 0 true
      exact ⟨_, run, by rw [State.retire_mem, mem], by rw [State.retire_parts, parts],
        sent.congr (State.retire_ops _) (State.retire_agenda _), send.retired⟩
    · rw [show s.parts[s.partOf s.cur.nib].pubs[e].en = true from en, show s.parts[s.partOf s.cur.nib].pubs[e].asid = _ from asid]
      simp [he]
  · rcases bad with big | ⟨e, he, bad⟩
    · rw [pub_eq room clear rfl, decide_eq_true big, Bool.true_or, Bool.true_or, if_pos rfl]
      rfl
    · rw [pub_eq room clear (number e he), if_pos]
      · rfl
      · rcases bad with off | other
        · rw [show s.parts[s.partOf s.cur.nib].pubs[e].en = false from off]
          simp
        · rw [bne_iff_ne.2 (show s.parts[s.partOf s.cur.nib].pubs[e].asid ≠ _ from other), Bool.or_true]

theorem longFormsAreSent : Claims.LongFormsAreSent := by
  intro s d a m sl i rs long room
  refine ⟨?_, ?_, fun pass clear => ⟨fun reg => ?_, fun slot => ?_⟩, fun pass clear => ⟨fun reg => ?_, fun e r queue filled => ?_⟩, fun clear => ?_⟩
  · simp only [List.forall_mem_cons]
    exact ⟨fun clear pass => (long_loadScalar rfl long room clear pass).weaken,
      fun clear pass => (long_loadScalar rfl long room clear pass).weaken,
      fun clear pass => (long_loadScalar rfl long room clear pass).weaken,
      fun clear pass => (long_loadScalar rfl long room clear pass).weaken,
      fun clear pass => (long_loadScalar rfl long room clear pass).weaken,
      fun clear pass => (long_loadScalar rfl long room clear pass).weaken,
      fun clear pass => (long_loadScalar rfl long room clear pass).weaken, fun _ h => absurd h List.not_mem_nil⟩
  · simp only [List.forall_mem_cons]
    exact ⟨fun clear pass => (long_storeScalar rfl long room clear pass).weaken,
      fun clear pass => (long_storeScalar rfl long room clear pass).weaken,
      fun clear pass => (long_storeScalar rfl long room clear pass).weaken,
      fun clear pass => (long_storeScalar rfl long room clear pass).weaken, fun _ h => absurd h List.not_mem_nil⟩
  · exact (long_ldV long room (Clear.append clear reg) pass).weaken
  · exact (long_ldQ long room clear pass slot).weaken
  · exact (long_stV long room (Clear.append clear reg) pass).weaken
  · exact (long_stQ long room clear pass queue filled).weaken
  · exact pub_sends room clear

theorem patternAndModuloLoads : Claims.PatternAndModuloLoads := by
  intro s a b p
  refine ⟨fun clear => issues_of_simple (srcs := [.g a, .g b]) (dsts := [])
    (body := fun s => s.land 1 (.modReg p (s.rg a) ((s.rg b).setWidth 32))) clear rfl rfl, fun clear => ?_⟩
  have run := show exec (.bnld p a) s = execBnld p a s from rfl
  rw [execBnld, guarded_of_clear clear] at run
  dsimp only at run
  refine ⟨fun out => ?_, fun inside bad => ?_, fun inside aligned shut => ?_, fun inside aligned seen locked => ?_,
    fun inside aligned seen free => ?_⟩
  · rw [run, show State.inWindow (s.rg a) 1 = false from decide_eq_false (Nat.not_le.2 (Nat.lt_succ_of_le out))]
    rfl
  all_goals rw [show State.inWindow (s.rg a) 1 = true from decide_eq_true inside, Bool.not_true, if_neg Bool.false_ne_true] at run
  · rw [run, if_pos bad]
    rfl
  all_goals rw [if_neg (not_not.2 aligned), hidesRecords_eq _ _ (by decide : 0 < 64)] at run
  · rw [run, if_pos shut]
    rfl
  all_goals rw [seen, if_neg Bool.false_ne_true] at run
  · rw [run, if_pos locked]
  · rw [free, if_neg Bool.false_ne_true] at run
    obtain ⟨value, -, mem, -, send⟩ := localLoad_frame s (s.rg a).toNat 64
    rw [value] at run
    exact ⟨_, run, by rw [State.retire_mem, State.land_mem, mem], ((send (Sending.refl s)).land 1 _).retired⟩

/-- Settles O28: an access whose checks pass comes to its operation by steps that change nothing but the effects in flight and
its sequencer's clock. -/
theorem longAccessesAndPatterns : Obligations.LongAccessesAndPatterns := ⟨longFormsAreSent, patternAndModuloLoads⟩

end Sys2Proof.Machine
end

section
/-! SUPPORT. Lanes of vectors and predicates, and the events of lanes (08_vector.md R196, R197). -/

namespace Sys2Proof.Machine

open Sys2Proof

/-! ## Lanes that are packed -/

theorem packN_eq (w n : Nat) (f : Nat → Nat) : packN w n f = packed w n (fun i => f i % 2 ^ w) := rfl

theorem laneOf_lt (v : Vec) (z j : Nat) : laneOf v z j < 2 ^ (8 * z) := Nat.mod_lt _ (Nat.two_pow_pos _)

/-- A lane of a packed number of n lanes that fit a vector. -/
theorem laneOf_packed {z n j : Nat} {f : Nat → Nat} (small : ∀ i, f i < 2 ^ (8 * z)) (fits : 8 * z * n ≤ 1024) (hj : j < n) :
    laneOf (BitVec.ofNat 1024 (packed (8 * z) n f)) z j = f j := by
  have whole : packed (8 * z) n f < 2 ^ 1024 := Nat.lt_of_lt_of_le (packed_lt small n) (Nat.pow_le_pow_right (by decide) fits)
  rw [laneOf, BitVec.toNat_ofNat, Nat.mod_eq_of_lt whole, packed_digit small hj]

theorem laneOf_packLanes {z n j : Nat} {f : Nat → Nat} (fits : 8 * z * n ≤ 1024) (hj : j < n) :
    laneOf (packLanes z n f) z j = f j % 2 ^ (8 * z) := by
  rw [packLanes, packN_eq]
  exact laneOf_packed (fun _ => Nat.mod_lt _ (Nat.two_pow_pos _)) fits hj

theorem lanes_fit (z : Nat) : 8 * z * (128 / z) ≤ 1024 := by
  have h := Nat.mul_div_le 128 z
  rw [Nat.mul_assoc]
  omega

/-- The lanes of a vector that is packed from values that fit them. -/
theorem lanes_packLanes {z : Nat} {f : Nat → Nat} (small : ∀ j, j < 128 / z → f j < 2 ^ (8 * z)) : Lanes (packLanes z (128 / z) f) z f :=
  fun j hj => by rw [laneOf_packLanes (lanes_fit z) hj, Nat.mod_eq_of_lt (small j hj)]

/-! ## Predicates -/

theorem testBit_packed {k n : Nat} {f : Nat → Nat} (small : ∀ i, f i < 2 ^ k) {j i : Nat} (hj : j < n) (hi : i < k) :
    (packed k n f).testBit (j * k + i) = (f j).testBit i := by
  rw [← packed_digit small hj, Nat.testBit_mod_two_pow, Nat.testBit_div_two_pow, decide_eq_true hi, Bool.true_and, Nat.mul_comm k j,
    Nat.add_comm]

theorem predLanes_packPred {z : Nat} (f : Nat → Bool) : PredLanes (packPred z (128 / z) f) z f := by
  intro j k hj hk
  have small : ∀ i, (fun i => (if f i then 2 ^ z - 1 else 0) % 2 ^ z) i < 2 ^ z := fun _ => Nat.mod_lt _ (Nat.two_pow_pos _)
  have inside : j * z + k < 128 := by
    have last : (j + 1) * z ≤ 128 / z * z := Nat.mul_le_mul_right z hj
    have all := Nat.div_mul_le_self 128 z
    rw [Nat.succ_mul] at last
    omega
  rw [packPred, BitVec.getLsbD_ofNat, decide_eq_true inside, Bool.true_and, packN_eq, testBit_packed small hj hk]
  cases f j with
  | false => simp
  | true => simp [Nat.testBit_two_pow_sub_one, hk]

/-! ## Events -/

theorem orEvents_succ (n : Nat) (f : Nat → Ev) : orEvents (n + 1) f = orEvents n f ||| f n := by
  rw [orEvents, List.range_succ, List.foldl_concat, orEvents]

theorem getLsbD_orEvents (n : Nat) (f : Nat → Ev) (i : Nat) : (orEvents n f).getLsbD i = true ↔ ∃ j, j < n ∧ (f j).getLsbD i = true := by
  induction n with
  | zero => simp [orEvents]
  | succ n ih =>
    rw [orEvents_succ, BitVec.getLsbD_or, Bool.or_eq_true, ih]
    constructor
    · rintro (⟨j, hj, h⟩ | h)
      · exact ⟨j, Nat.lt_succ_of_lt hj, h⟩
      · exact ⟨n, Nat.lt_succ_self n, h⟩
    · rintro ⟨j, hj, h⟩
      rcases Nat.lt_succ_iff_lt_or_eq.1 hj with hj | rfl
      · exact .inl ⟨j, hj, h⟩
      · exact .inr h

/-- Events that the active lanes alone raise. -/
theorem eventsOf_orEvents {n : Nat} {on : Nat → Bool} {f g : Nat → Ev} (active : ∀ j, j < n → f j = if on j then g j else 0) :
    EventsOf (orEvents n f) n on g := by
  intro i _
  rw [getLsbD_orEvents]
  constructor
  · rintro ⟨j, hj, h⟩
    rw [active j hj] at h
    split at h
    · next hon => exact ⟨j, hj, hon, h⟩
    · simp at h
  · rintro ⟨j, hj, hon, h⟩
    exact ⟨j, hj, by rw [active j hj, if_pos hon]; exact h⟩

end Sys2Proof.Machine
end

section
/-! SUPPORT. Address modes and local accesses (02_lines.md R43, 06_memory.md R143, R144, R150, R152). -/

namespace Sys2Proof.Machine

open Sys2Proof

/-! ## Addresses -/

theorem addressModes : Claims.AddressModes := by
  intro s a i size
  have step : i.signExtend 64 * BitVec.ofNat 64 size = BitVec.ofInt 64 (i.toInt * size) := by
    rw [BitVec.ofInt_mul, ← BitVec.ofInt_toInt (x := i.signExtend 64), BitVec.toInt_signExtend_of_le (by decide), BitVec.ofInt_natCast]
  refine ⟨?_, rfl, rfl, fun b hb => ?_, ?_, fun j hj => ?_⟩
  · show s.rg a + i.signExtend 64 * BitVec.ofNat 64 size = _
    rw [step]
  · have low : (BitVec.toFin (i.extractLsb' 0 5) : Fin 32) = b := Fin.ext (by
      show (i.extractLsb' 0 5).toNat = _
      rw [BitVec.extractLsb'_toNat, Nat.shiftRight_zero, ← hb])
    have high : (i.extractLsb' 5 3).toNat = i.toNat / 32 % 8 := by
      rw [BitVec.extractLsb'_toNat, Nat.shiftRight_eq_div_pow]
    show s.rg a + (s.rg (BitVec.toFin (i.extractLsb' 0 5)) <<< (i.extractLsb' 5 3).toNat) = _
    rw [low, high]
  · rw [State.eaNext, if_pos rfl, step]
  · have reg : (BitVec.toFin (i.extractLsb' 7 3) : Fin 8) = j := Fin.ext (by
      have bound := i.isLt
      show (i.extractLsb' 7 3).toNat = _
      rw [BitVec.extractLsb'_toNat, Nat.shiftRight_eq_div_pow, ← hj]
      omega)
    have inc : (i.extractLsb' 0 7).toNat = i.toNat % 128 := by
      rw [BitVec.extractLsb'_toNat, Nat.shiftRight_zero]
    have next : s.eaNext a 2 i size =
        if (s.ctx.r.m[j]).len.toNat ≠ 0 ∧ (s.ctx.r.m[j]).base.toNat ≤ (s.rg a).toNat ∧
            (s.rg a).toNat < (s.ctx.r.m[j]).base.toNat + (s.ctx.r.m[j]).len.toNat then
          BitVec.ofNat 64 ((s.ctx.r.m[j]).base.toNat + ((s.rg a).toNat - (s.ctx.r.m[j]).base.toNat + i.toNat % 128 * size) %
            (s.ctx.r.m[j]).len.toNat)
        else BitVec.ofNat 64 ((s.rg a).toNat + i.toNat % 128 * size) := by
      subst reg
      rw [State.eaNext, if_neg (by decide), inc]
    exact ⟨fun some lo hi => by rw [next, if_pos ⟨some, lo, hi⟩], fun out => by rw [next, if_neg (by omega)]⟩

/-! ## Pieces of aligned accesses -/

theorem aligned_fits {x size : Nat} (divides : size ∣ 64) (aligned : x % size = 0) : size ≤ 64 - x % 64 := by
  have pos : 0 < size := Nat.pos_of_dvd_of_pos divides (by decide)
  have low : x % 64 % size = 0 := by rw [Nat.mod_mod_of_dvd x divides, aligned]
  obtain ⟨k, hk⟩ := Nat.dvd_of_mod_eq_zero low
  obtain ⟨n, hn⟩ := divides
  have less : x % 64 < 64 := Nat.mod_lt _ (by decide)
  rw [hk, hn] at less
  have room : k + 1 ≤ n := Nat.lt_of_mul_lt_mul_left less
  have := Nat.mul_le_mul_left size room
  rw [Nat.mul_add, Nat.mul_one] at this
  omega

theorem windowPieces_one (s : State) {a : State.Acc} {at_ : Nat} (divides : a.size ∣ 64) (aligned : a.ea.toNat % a.size = 0) :
    s.windowPieces [(a, at_)] = [s.ownPiece ⟨a.ea, 0, a.size, false, at_⟩] := by
  have pos : 0 < a.size := Nat.pos_of_dvd_of_pos divides (by decide)
  rw [State.windowPieces, List.flatMap_singleton, State.Acc.pieces, cellPieces_one pos (aligned_fits divides aligned)]
  rfl

/-- The two cells of a vector's access. -/
theorem windowPieces_vec (s : State) {a : State.Acc} (size : a.size = 128) (aligned : a.ea.toNat % 64 = 0) :
    s.windowPieces [(a, 0)] = [s.ownPiece ⟨a.ea, 0, 64, false, 0⟩, s.ownPiece ⟨a.ea + 64, 0, 64, false, 64⟩] := by
  have next : (a.ea + 64).toNat % 64 = 0 := by
    rw [BitVec.toNat_add, Nat.mod_mod_of_dvd _ (by decide : (64 : Nat) ∣ 2 ^ 64)]
    show (a.ea.toNat + 64) % 64 = 0
    omega
  have cells : State.cellPieces a.ea 0 128 4 = [⟨a.ea, 0, 64, false, 0⟩, ⟨a.ea + 64, 0, 64, false, 64⟩] := by
    have second := cellPieces_one (va := a.ea + 64) (at_ := 64) (n := 64) (by decide) (by rw [next]) 2
    rw [State.cellPieces, if_neg (by decide), aligned]
    exact congrArg _ second
  rw [State.windowPieces, List.flatMap_singleton, State.Acc.pieces, size]
  show List.map _ (State.cellPieces a.ea 0 128 4) = _
  rw [cells]
  rfl

theorem gathered_one (s : State) (ea : Word) (size : Nat) : s.gathered [s.ownPiece ⟨ea, 0, size, false, 0⟩] 0 = s.wellRead ea.toNat size := by
  simp [State.gathered, State.ownPiece]

theorem toNat_add_64 {ea : Word} {n : Nat} (inside : ea.toNat + n ≤ 0x60000) (some : 64 ≤ n) : (ea + 64).toNat = ea.toNat + 64 := by
  rw [BitVec.toNat_add]
  exact Nat.mod_eq_of_lt (show ea.toNat + 64 < 2 ^ 64 by omega)

theorem gathered_vec (s : State) {ea : Word} (inside : ea.toNat + 128 ≤ 0x60000) :
    s.gathered [s.ownPiece ⟨ea, 0, 64, false, 0⟩, s.ownPiece ⟨ea + 64, 0, 64, false, 64⟩] 0 = s.wellRead ea.toNat 128 := by
  have half : s.wellRead ea.toNat 128 = s.wellRead ea.toNat 64 + 256 ^ 64 * s.wellRead (ea.toNat + 64) 64 := wellRead_add s ea.toNat 64 64
  have weight : 2 ^ (8 * 64) = 256 ^ 64 := by rw [Nat.pow_mul]
  rw [half, State.gathered, List.foldl_cons, List.foldl_cons, List.foldl_nil]
  simp only [State.ownPiece, toNat_add_64 inside (by decide : 64 ≤ 128), Nat.mul_zero, Nat.pow_zero, Nat.mul_one, Nat.zero_add, weight]
  rw [Nat.mul_comm (256 ^ 64)]

/-! ## Loads -/

section
variable {s : State} {d a : Fin 32} {m : Fin 4} {i : BitVec 10}

/-- The local accesses `accs`, whose checks pass, give their pieces to the instruction. -/
theorem access_local {accs : List (State.Acc × Nat)} (ok : ∀ x ∈ accs, s.LocalOk x.1.ea x.1.size x.1.align) (code : Fin 4)
    (act : State → List Range → State) : s.access ⟨accs, 0, false, code⟩ act = act s.dropAnswers (s.windowPieces accs) :=
  access_of_passes (passes_local ok) (sealFull_zero s) code act

theorem localOk_single {acc : State.Acc} {at_ : Nat} (ok : s.LocalOk acc.ea acc.size acc.align) :
    ∀ x ∈ [(acc, at_)], s.LocalOk x.1.ea x.1.size x.1.align := fun x hx => by
  rw [List.mem_singleton.1 hx]
  exact ok

theorem gathered_dropAnswers (s : State) (rs : List Range) (x : Nat) : s.dropAnswers.gathered rs x = s.gathered rs x := by
  simp only [State.gathered, wellRead_congr (t := s.dropAnswers) (s := s) rfl rfl rfl]

/-- A local read that sends its value and then the increment of its base register. -/
theorem local_read {ins : Instr} {rs : List Range} {f : Nat → List (Nat × Eff)} {size : Nat}
    (run : exec ins s = .next (((((s.dropAnswers.localGather rs 0).2).lands (f (s.dropAnswers.localGather rs 0).1)).postInc a m i size).retire)) :
    ∃ t, exec ins s = .next t ∧ t.mem = s.mem ∧ Retired s t (f (s.gathered rs 0) ++ incWrite s a m i size) := by
  obtain ⟨value, -, mem, send⟩ := localGather_frame s.dropAnswers rs 0
  refine ⟨_, run, ?_, ?_⟩
  · rw [State.retire_mem, State.postInc_mem, (sameBut_lands _ _).mem_eq, mem]
    rfl
  · rw [value, gathered_dropAnswers]
    exact (((send (Sending.dropAnswers s)).lands _).postInc a m i size).retired

theorem local_loadScalar {ins : Instr} {size : Nat} {sgn : Bool} (run : exec ins s = s.loadScalar d a m 0 i size sgn)
    (divides : size ∣ 64) (clear : s.Clear (State.eaSrcs a m i) (.g d :: State.eaDsts a m) false)
    (ok : s.LocalOk (s.ea a m i size) size size) : ∃ t, exec ins s = .next t ∧ t.mem = s.mem ∧
      Retired s t (gWrite 2 d (State.loadValue size sgn (s.wellRead (s.ea a m i size).toNat size)) ++ incWrite s a m i size) := by
  have pieces : s.windowPieces [(⟨s.ea a m i size, size, size, false, false, true, false, false⟩, 0)] =
      [s.ownPiece ⟨s.ea a m i size, 0, size, false, 0⟩] := windowPieces_one s divides ok.aligned
  rw [State.loadScalar, List.singleton_append, show ((0 : Fin 16) != 0) = false from rfl, guarded_of_clear clear,
    access_local (localOk_single (by exact ok)), if_pos rfl, pieces] at run
  dsimp only at run
  rw [State.landG_eq] at run
  rw [← gathered_one]
  exact local_read (f := fun x => gWrite 2 d (State.loadValue size sgn x)) run

theorem local_ldV (clear : s.Clear (State.eaSrcs a m i) (.v (s.vphys d) :: State.eaDsts a m) false)
    (ok : s.LocalOk (s.ea a m i 128) 128 64) : ∃ t, exec (.ldV d a m 0 i) s = .next t ∧ t.mem = s.mem ∧
      Retired s t (vWrite s 2 d (BitVec.ofNat 1024 (s.wellRead (s.ea a m i 128).toNat 128)) ++ incWrite s a m i 128) := by
  have run := show exec (.ldV d a m 0 i) s = execLdV d a m 0 i s from rfl
  have pieces := windowPieces_vec s (a := s.vecAcc a m 0 i false) rfl ok.aligned
  rw [execLdV, List.singleton_append, show ((0 : Fin 16) != 0) = false from rfl, guarded_of_clear clear,
    access_local (localOk_single (by exact ok)), if_pos rfl, pieces] at run
  dsimp only at run
  obtain ⟨-, -, -, send⟩ := localGather_frame s.dropAnswers [s.ownPiece ⟨s.ea a m i 128, 0, 64, false, 0⟩,
    s.ownPiece ⟨s.ea a m i 128 + 64, 0, 64, false, 64⟩] 0
  have reg := (send (Sending.dropAnswers s)).vphys d
  rw [State.landV_eq, vWrite, show (s.vecAcc a m 0 i false).ea = s.ea a m i 128 from rfl, reg] at run
  rw [← gathered_vec s ok.inside]
  exact local_read (f := fun x => vWrite s 2 d (BitVec.ofNat 1024 x)) run

theorem fillLocal_eq (t : State) (x : Nat) : t.fillLocal x = ({ t with nextId := t.nextId + 1 } : State).lands
    [(1, .vqReserve t.nextId), (2, .vqFill t.nextId (BitVec.ofNat 1024 x) t.lc)] := rfl

/-- A local read into the A→X queue. -/
theorem local_fill {ins : Instr} {rs : List Range} {size : Nat}
    (run : exec ins s = .next ((((s.dropAnswers.localGather rs 0).2.fillLocal (s.dropAnswers.localGather rs 0).1).postInc a m i size).retire)) :
    ∃ t c, exec ins s = .next t ∧ t.mem = s.mem ∧
      Retired s t ([(1, .vqReserve s.nextId), (2, .vqFill s.nextId (BitVec.ofNat 1024 (s.gathered rs 0)) c)] ++ incWrite s a m i size) := by
  obtain ⟨value, only, mem, send⟩ := localGather_frame s.dropAnswers rs 0
  have id : (s.dropAnswers.localGather rs 0).2.nextId = s.nextId := only.nextId
  rw [value, gathered_dropAnswers, fillLocal_eq, id] at run
  have sending := (((send (Sending.dropAnswers s)).still
    (u := { (s.dropAnswers.localGather rs 0).2 with nextId := s.nextId + 1 }) rfl rfl rfl rfl).lands
    [(1, .vqReserve s.nextId), (2, .vqFill s.nextId (BitVec.ofNat 1024 (s.gathered rs 0)) (s.dropAnswers.localGather rs 0).2.lc)]).postInc
    a m i size
  exact ⟨_, _, run, by rw [State.retire_mem, State.postInc_mem, (sameBut_lands _ _).mem_eq]; exact mem, sending.retired⟩

theorem local_ldQ (clear : s.Clear (State.eaSrcs a m i) (State.eaDsts a m) false)
    (ok : s.LocalOk (s.ea a m i 128) 128 64) : (s.ctx.x.ax.length < 4 → ∃ t c, exec (.ldQ a m 0 i) s = .next t ∧ t.mem = s.mem ∧
      Retired s t ([(1, .vqReserve s.nextId), (2, .vqFill s.nextId (BitVec.ofNat 1024 (s.wellRead (s.ea a m i 128).toNat 128)) c)] ++
        incWrite s a m i 128)) ∧ (4 ≤ s.ctx.x.ax.length → exec (.ldQ a m 0 i) s = .next s.waitMsg) := by
  have run := show exec (.ldQ a m 0 i) s = execLdQ a m 0 i s from rfl
  rw [execLdQ, show ((0 : Fin 16) != 0) = false from rfl, guarded_of_clear clear] at run
  refine ⟨fun room => ?_, fun full => ?_⟩
  · have pieces := windowPieces_vec s (a := s.vecAcc a m 0 i false) rfl ok.aligned
    rw [axFull_of_room room, access_local (localOk_single (by exact ok)), if_pos rfl, pieces,
      show (s.vecAcc a m 0 i false).ea = s.ea a m i 128 from rfl] at run
    dsimp only at run
    rw [← gathered_vec s ok.inside]
    exact local_fill run
  · rw [run, show s.axFull = true from decide_eq_true full, access_of_queueWait (localOk_single (by exact ok))]

theorem localLoads : Claims.LocalLoads := by
  intro s d a m i
  refine ⟨?_, fun ok x hx => ⟨fun clear => ?_, fun clear => ?_, fun clear => (local_ldQ clear ok).2⟩⟩
  · simp only [List.forall_mem_cons]
    have signed : ∀ {ins : Instr} {size : Nat}, exec ins s = s.loadScalar d a m 0 i size true → size ∣ 64 →
        s.Clear (State.eaSrcs a m i) (.g d :: State.eaDsts a m) false → s.LocalOk (s.ea a m i size) size size → ∀ x,
        x = s.wellRead (s.ea a m i size).toNat size → ∃ t, exec ins s = .next t ∧ t.mem = s.mem ∧
          Retired s t (gWrite 2 d (if true = true then (BitVec.ofNat (8 * size) x).signExtend 64 else BitVec.ofNat 64 x) ++
            incWrite s a m i size) := by
      intro ins size run divides clear ok x hx
      subst hx
      exact local_loadScalar run divides clear ok
    have unsigned : ∀ {ins : Instr} {size : Nat}, exec ins s = s.loadScalar d a m 0 i size false → size ∣ 64 →
        s.Clear (State.eaSrcs a m i) (.g d :: State.eaDsts a m) false → s.LocalOk (s.ea a m i size) size size → ∀ x,
        x = s.wellRead (s.ea a m i size).toNat size → ∃ t, exec ins s = .next t ∧ t.mem = s.mem ∧
          Retired s t (gWrite 2 d (if false = true then (BitVec.ofNat (8 * size) x).signExtend 64 else BitVec.ofNat 64 x) ++
            incWrite s a m i size) := by
      intro ins size run divides clear ok x hx
      subst hx
      have value : zx (8 * size) (s.wellRead (s.ea a m i size).toNat size) = BitVec.ofNat 64 (s.wellRead (s.ea a m i size).toNat size) := by
        rw [zx, Nat.mod_eq_of_lt (by rw [Nat.pow_mul]; exact wellRead_lt ..)]
      rw [if_neg Bool.false_ne_true, ← value]
      exact local_loadScalar run divides clear ok
    exact ⟨signed rfl (by decide), signed rfl (by decide), signed rfl (by decide), unsigned rfl (by decide), unsigned rfl (by decide),
      unsigned rfl (by decide), unsigned rfl (by decide), fun _ h => absurd h List.not_mem_nil⟩
  · subst hx
    exact local_ldV clear ok
  · subst hx
    exact (local_ldQ clear ok).1

end

/-! ## Stores -/

theorem write_add (m : List Host.Cell) (a j n x : Nat) :
    Memory.write m a (j + n) x = Memory.write (Memory.write m a j x) (a + j) n (x / 256 ^ j) := by
  induction j generalizing m a x with
  | zero => simp [Memory.write]
  | succ j ih =>
    rw [Nat.succ_add, Memory.write, ih, Memory.write, show a + 1 + j = a + (j + 1) by omega, Nat.div_div_eq_div_mul, Nat.pow_succ,
      Nat.mul_comm 256]

/-- The n bytes of x, little-endian, stand at a well address of a nib, and every other byte as it was. -/
def Stored (s t : State) (ea : Word) (n x : Nat) : Prop :=
  (∀ j < n, Memory.get t.mem (wellPA s.cur.nib ea.toNat + j) = BitVec.ofNat 8 (x / 256 ^ j)) ∧
  ∀ b, b < wellPA s.cur.nib ea.toNat ∨ wellPA s.cur.nib ea.toNat + n ≤ b → Memory.get t.mem b = Memory.get s.mem b

theorem stored_of_write {s t : State} {ea : Word} {n x : Nat} (wf : Memory.wf s.mem = true)
    (mem : t.mem = Memory.write s.mem (wellPA s.cur.nib ea.toNat) n x) : Stored s t ea n x :=
  ⟨fun j hj => by rw [mem, Memory.get_write_inside _ _ _ _ _ wf hj], fun b hb => by rw [mem, Memory.get_write_outside _ _ _ _ _ wf hb]⟩

/-- The bytes of a value are those of its low bytes. -/
theorem byte_mod {x size j : Nat} (hj : j < size) : BitVec.ofNat 8 (x % 2 ^ (8 * size) / 256 ^ j) = BitVec.ofNat 8 (x / 256 ^ j) := by
  apply BitVec.eq_of_toNat_eq
  obtain ⟨k, rfl⟩ := Nat.exists_eq_add_of_lt hj
  rw [BitVec.toNat_ofNat, BitVec.toNat_ofNat, show (256 : Nat) = 2 ^ 8 from rfl, ← Nat.pow_mul,
    show 8 * (j + k + 1) = 8 * j + (8 * k + 8) by ring, Nat.pow_add, Nat.mod_mul_right_div_self, Nat.mod_mod_of_dvd]
  exact ⟨2 ^ (8 * k), by rw [Nat.pow_add, Nat.mul_comm]⟩

theorem Stored.of_mod {s t : State} {ea : Word} {n x : Nat} (h : Stored s t ea n (x % 2 ^ (8 * n))) : Stored s t ea n x :=
  ⟨fun j hj => (h.1 j hj).trans (byte_mod hj), h.2⟩

theorem scattered_one (n : NibId) (s : State) (mem : List Host.Cell) (x : Nat) (ea : Word) (size : Nat) :
    scattered n mem x [s.ownPiece ⟨ea, 0, size, false, 0⟩] = Memory.write mem (wellPA n ea.toNat) size x := by
  simp [scattered, State.ownPiece]

theorem scattered_vec (n : NibId) (s : State) (mem : List Host.Cell) (x : Nat) {ea : Word} (inside : ea.toNat + 128 ≤ 0x60000) :
    scattered n mem x [s.ownPiece ⟨ea, 0, 64, false, 0⟩, s.ownPiece ⟨ea + 64, 0, 64, false, 64⟩] =
      Memory.write mem (wellPA n ea.toNat) 128 x := by
  have whole := write_add mem (wellPA n ea.toNat) 64 64 x
  have weight : 2 ^ (8 * 64) = 256 ^ 64 := by rw [Nat.pow_mul]
  have place : wellPA n (ea.toNat + 64) = wellPA n ea.toNat + 64 := (Nat.add_assoc ..).symm
  rw [scattered, List.foldl_cons, List.foldl_cons, List.foldl_nil]
  simp only [State.ownPiece, toNat_add_64 inside (by decide : 64 ≤ 128), Nat.mul_zero, Nat.pow_zero, Nat.div_one, weight, place]
  exact whole.symm

section
variable {s : State} {d a : Fin 32} {m : Fin 4} {i : BitVec 10}

/-- A local write that comes to its pieces with some effects on their way, and then retires. -/
theorem local_write {ins : Instr} {rs : List Range} {x : Nat} {t : State} {es : List (Nat × Eff)} (before : Sending s t es)
    (mem : t.mem = s.mem) (run : exec ins s = .next (t.localScatter x rs).retire) :
    ∃ t, exec ins s = .next t ∧ t.mem = scattered s.cur.nib s.mem x rs ∧ Retired s t es := by
  obtain ⟨-, bytes, send⟩ := localScatter_frame t x rs
  exact ⟨_, run, by rw [State.retire_mem, bytes, before.cur, mem], (send before).retired⟩

theorem local_storeScalar {ins : Instr} {size : Nat} (wf : Memory.wf s.mem = true) (run : exec ins s = s.storeScalar d a m 0 i size)
    (divides : size ∣ 64) (clear : s.Clear (.g d :: State.eaSrcs a m i) (State.eaDsts a m) false)
    (ok : s.LocalOk (s.ea a m i size) size size) :
    ∃ t, exec ins s = .next t ∧ Stored s t (s.ea a m i size) size (s.rg d).toNat ∧ Retired s t (incWrite s a m i size) := by
  have pieces : s.windowPieces [(⟨s.ea a m i size, size, size, true, false, true, false, false⟩, 0)] =
      [s.ownPiece ⟨s.ea a m i size, 0, size, false, 0⟩] := windowPieces_one s divides ok.aligned
  rw [State.storeScalar, show ((0 : Fin 16) != 0) = false from rfl, guarded_of_clear clear,
    access_local (localOk_single (by exact ok)), if_pos rfl, pieces] at run
  obtain ⟨t, run, mem, retired⟩ := local_write (sending_postInc s a m i size) (by exact State.postInc_mem ..) run
  rw [scattered_one] at mem
  exact ⟨t, run, (stored_of_write wf mem).of_mod, retired⟩

theorem local_stV (wf : Memory.wf s.mem = true) (clear : s.Clear (.v (s.vphys d) :: State.eaSrcs a m i) (State.eaDsts a m) false)
    (ok : s.LocalOk (s.ea a m i 128) 128 64) : ∃ t, exec (.stV d a m 0 i) s = .next t ∧
      Stored s t (s.ea a m i 128) 128 (s.rv d).toNat ∧ Retired s t (incWrite s a m i 128) := by
  have run := show exec (.stV d a m 0 i) s = execStV d a m 0 i s from rfl
  have pieces := windowPieces_vec s (a := s.vecAcc a m 0 i true) rfl ok.aligned
  rw [execStV, show ((0 : Fin 16) != 0) = false from rfl, guarded_of_clear clear, access_local (localOk_single (by exact ok)),
    if_pos rfl, pieces, show (s.vecAcc a m 0 i true).ea = s.ea a m i 128 from rfl] at run
  obtain ⟨t, run, mem, retired⟩ := local_write (sending_postInc s a m i 128) (by exact State.postInc_mem ..) run
  rw [scattered_vec _ _ _ _ ok.inside] at mem
  exact ⟨t, run, stored_of_write wf mem, retired⟩

theorem local_stQ (wf : Memory.wf s.mem = true) (clear : s.Clear (State.eaSrcs a m i) (State.eaDsts a m) false)
    (ok : s.LocalOk (s.ea a m i 128) 128 64) {e : VQEntry} {r : List VQEntry} (queue : s.ctx.x.xw = e :: r) (filled : e.filled = true) :
    ∃ t, exec (.stQ a m 0 i) s = .next t ∧ Stored s t (s.ea a m i 128) 128 e.val.toNat ∧
      Retired s t (incWrite s a m i 128 ++ [(1, .vqPop .xw)]) := by
  have run := show exec (.stQ a m 0 i) s = execStQ a m 0 i s from rfl
  have pieces := windowPieces_vec s (a := s.vecAcc a m 0 i true) rfl ok.aligned
  have head := xwHead_of_filled queue filled
  have head' : s.dropAnswers.xwHead = some e := xwHead_of_filled (s := s.dropAnswers) queue filled
  rw [execStQ, show ((0 : Fin 16) != 0) = false from rfl, guarded_of_clear clear, show s.xwHead.isNone = false by rw [head]; rfl,
    access_local (localOk_single (by exact ok)), pieces, head', show (s.vecAcc a m 0 i true).ea = s.ea a m i 128 from rfl] at run
  dsimp only at run
  rw [if_pos rfl] at run
  obtain ⟨t, run, mem, retired⟩ := local_write ((sending_postInc s a m i 128).takeXw e)
    (by rw [takeXw_mem, State.postInc_mem]; rfl) run
  rw [scattered_vec _ _ _ _ ok.inside] at mem
  exact ⟨t, run, stored_of_write wf mem, retired⟩

theorem xwHead_of_unfilled (none_filled : s.ctx.x.xw = [] ∨ ∃ e r, s.ctx.x.xw = e :: r ∧ e.filled = false) : s.xwHead = none := by
  rcases none_filled with empty | ⟨e, r, queue, unfilled⟩
  · rw [State.xwHead, empty]; rfl
  · rw [State.xwHead, queue, List.head?_cons, Option.filter_some, if_neg (by rw [unfilled]; exact Bool.false_ne_true)]

theorem localStores : Claims.LocalStores := by
  intro s d a m i wf stored
  refine ⟨?_, fun ok => ⟨fun clear => local_stV wf clear ok, fun clear => ⟨fun e r queue filled => local_stQ wf clear ok queue filled,
    fun none_filled => ?_⟩⟩⟩
  · simp only [List.forall_mem_cons]
    exact ⟨fun clear ok => local_storeScalar wf rfl (by decide) clear ok, fun clear ok => local_storeScalar wf rfl (by decide) clear ok,
      fun clear ok => local_storeScalar wf rfl (by decide) clear ok, fun clear ok => local_storeScalar wf rfl (by decide) clear ok,
      fun _ h => absurd h List.not_mem_nil⟩
  · have run := show exec (.stQ a m 0 i) s = execStQ a m 0 i s from rfl
    rw [execStQ, show ((0 : Fin 16) != 0) = false from rfl, guarded_of_clear clear,
      show s.xwHead.isNone = true by rw [xwHead_of_unfilled none_filled]; rfl, access_of_queueWait (localOk_single (by exact ok))] at run
    exact run

end

/-! ## Gathers and scatters -/

/-- A gathered or scattered lane is active. -/
def LaneOn (p : Pred) (lane j : Nat) : Prop := j < 128 / lane ∧ p.getLsbD (j * lane) = true

/-- The element of lane j of a gather or scatter (R152). -/
def State.laneEa (s : State) (a b : Fin 32) (lane j : Nat) : Word :=
  s.rg a + (BitVec.ofNat (8 * lane) (laneOf (s.rv b) lane j)).signExtend 64

/-- The active lanes, in increasing order. -/
def activeLanes (p : Pred) (lane : Nat) : List Nat := (List.range (128 / lane)).filter (laneOn p lane)

theorem mem_activeLanes {p : Pred} {lane j : Nat} : j ∈ activeLanes p lane ↔ LaneOn p lane j := by
  rw [activeLanes, List.mem_filter, List.mem_range]
  rfl

section
variable {s : State} {a b : Fin 32} {p : Fin 8} {size lane : Nat}

/-- The pieces of a gather or scatter whose elements are aligned: one for each active lane. -/
theorem windowPieces_lanes (divides : size ∣ 64) (wide : lane = max size 4) (long store : Bool)
    (aligned : ∀ j, LaneOn (s.rp p) lane j → (s.laneEa a b lane j).toNat % size = 0) :
    s.windowPieces (s.laneAccs a b p size long store) =
      (activeLanes (s.rp p) lane).map (fun j => s.ownPiece ⟨s.laneEa a b lane j, 0, size, false, j * lane⟩) := by
  have pos : 0 < size := Nat.pos_of_dvd_of_pos divides (by decide)
  subst wide
  rw [State.windowPieces, State.laneAccs, List.flatMap_map, List.map_eq_flatMap]
  refine List.flatMap_congr fun j hj => ?_
  have fits := aligned_fits divides (aligned j (mem_activeLanes.1 hj))
  show (State.cellPieces (s.laneEa a b (max size 4) j) (j * max size 4) size (size / 64 + 2)).map s.ownPiece = _
  rw [cellPieces_one pos fits]
  rfl

theorem foldl_lanes (c : Nat → Bool) (g : Nat → Nat) (lane n : Nat) :
    ((List.range n).filter c).foldl (fun x j => x + g j * 2 ^ (8 * (j * lane))) 0 = packed (8 * lane) n (fun j => if c j then g j else 0) := by
  rw [List.foldl_filter, packed]
  congr 1
  funext x j
  rw [show 8 * (j * lane) = 8 * lane * j by ring]
  split <;> simp

/-- What a gather reads, lane by lane (R152). -/
def State.gatherLanes (s : State) (a b : Fin 32) (p : Fin 8) (size lane : Nat) : Vec :=
  BitVec.ofNat 1024 (packed (8 * lane) (128 / lane) (fun j => if laneOn (s.rp p) lane j then s.wellRead (s.laneEa a b lane j).toNat size else 0))

theorem laneOf_gatherLanes (narrow : size ≤ lane) {j : Nat} (hj : j < 128 / lane) : laneOf (s.gatherLanes a b p size lane) lane j =
    if laneOn (s.rp p) lane j then s.wellRead (s.laneEa a b lane j).toNat size else 0 := by
  refine laneOf_packed (fun i => ?_) (lanes_fit lane) hj
  split
  · refine Nat.lt_of_lt_of_le (wellRead_lt ..) ?_
    rw [Nat.pow_mul]
    exact Nat.pow_le_pow_right (by decide) narrow
  · exact Nat.two_pow_pos _

theorem gathered_lanes : BitVec.ofNat 1024 (s.gathered ((activeLanes (s.rp p) lane).map
    (fun j => s.ownPiece ⟨s.laneEa a b lane j, 0, size, false, j * lane⟩)) 0) = s.gatherLanes a b p size lane := by
  rw [State.gathered, List.foldl_map]
  exact congrArg _ (foldl_lanes (laneOn (s.rp p) lane) (fun j => s.wellRead (s.laneEa a b lane j).toNat size) lane (128 / lane))

/-- A byte of memory that no piece of a scatter reaches. -/
theorem get_scattered_outside {n : NibId} {m : List Host.Cell} (wf : Memory.wf m = true) {rs : List Range} {x q : Nat}
    (out : ∀ r ∈ rs, q < wellPA n r.va.toNat ∨ wellPA n r.va.toNat + r.size ≤ q) :
    Memory.get (scattered n m x rs) q = Memory.get m q := by
  induction rs generalizing m with
  | nil => rfl
  | cons r rs ih =>
    rw [scattered, List.foldl_cons, ← scattered, ih (Memory.wf_write _ _ _ _ wf) (fun y hy => out y (List.mem_cons_of_mem _ hy)),
      Memory.get_write_outside _ _ _ _ _ wf (out r (List.mem_cons_self ..))]

theorem wf_scattered {n : NibId} {m : List Host.Cell} (wf : Memory.wf m = true) (x : Nat) (rs : List Range) :
    Memory.wf (scattered n m x rs) = true := by
  induction rs generalizing m with
  | nil => exact wf
  | cons r rs ih => exact ih (Memory.wf_write _ _ _ _ wf)

/-- The last piece of a scatter that reaches a byte leaves it. -/
theorem get_scattered_last {n : NibId} {m : List Host.Cell} (wf : Memory.wf m = true) {pre post : List Range} {r : Range} {x k : Nat}
    (hk : k < r.size)
    (later : ∀ y ∈ post, wellPA n r.va.toNat + k < wellPA n y.va.toNat ∨ wellPA n y.va.toNat + y.size ≤ wellPA n r.va.toNat + k) :
    Memory.get (scattered n m x (pre ++ r :: post)) (wellPA n r.va.toNat + k) = BitVec.ofNat 8 (x / 2 ^ (8 * r.at_) / 256 ^ k) := by
  have split : scattered n m x (pre ++ r :: post) =
      scattered n (Memory.write (scattered n m x pre) (wellPA n r.va.toNat) r.size (x / 2 ^ (8 * r.at_))) x post := by
    rw [scattered, List.foldl_append, List.foldl_cons]
    rfl
  have wf' := wf_scattered (n := n) wf x pre
  rw [split, get_scattered_outside (Memory.wf_write _ _ _ _ wf') later, Memory.get_write_inside _ _ _ _ _ wf' hk]

theorem activeLanes_sorted (q : Pred) (lane : Nat) : (activeLanes q lane).Pairwise (· < ·) := List.pairwise_lt_range.filter _

/-- The bytes that a scatter leaves (R152): the low bytes of each active lane, the higher lane's where lanes overlap. -/
def ScatterStored (s t : State) (a b : Fin 32) (p : Fin 8) (size lane : Nat) (x : Vec) : Prop :=
  (∀ q, (∀ j, LaneOn (s.rp p) lane j → q < wellPA s.cur.nib (s.laneEa a b lane j).toNat ∨
      wellPA s.cur.nib (s.laneEa a b lane j).toNat + size ≤ q) → Memory.get t.mem q = Memory.get s.mem q) ∧
  ∀ j k, LaneOn (s.rp p) lane j → k < size →
    (∀ l, j < l → LaneOn (s.rp p) lane l → (s.laneEa a b lane j).toNat + k < (s.laneEa a b lane l).toNat ∨
      (s.laneEa a b lane l).toNat + size ≤ (s.laneEa a b lane j).toNat + k) →
    Memory.get t.mem (wellPA s.cur.nib (s.laneEa a b lane j).toNat + k) = BitVec.ofNat 8 (laneOf x lane j / 256 ^ k)

theorem scatterStored {t : State} (wf : Memory.wf s.mem = true) (narrow : size ≤ lane) {x : Vec}
    (mem : t.mem = scattered s.cur.nib s.mem x.toNat ((activeLanes (s.rp p) lane).map
      (fun j => s.ownPiece ⟨s.laneEa a b lane j, 0, size, false, j * lane⟩))) : ScatterStored s t a b p size lane x := by
  refine ⟨fun q out => ?_, fun j k on hk later => ?_⟩
  · rw [mem, get_scattered_outside wf]
    intro r hr
    obtain ⟨j, hj, rfl⟩ := List.mem_map.1 hr
    exact out j (mem_activeLanes.1 hj)
  · obtain ⟨pre, post, split⟩ := List.append_of_mem (mem_activeLanes.2 on)
    have sorted := activeLanes_sorted (s.rp p) lane
    rw [split, List.pairwise_append, List.pairwise_cons] at sorted
    obtain ⟨-, ⟨above, -⟩, -⟩ := sorted
    have byte : BitVec.ofNat 8 (x.toNat / 2 ^ (8 * (j * lane)) / 256 ^ k) = BitVec.ofNat 8 (laneOf x lane j / 256 ^ k) := by
      rw [laneOf, show 8 * lane * j = 8 * (j * lane) by ring]
      exact (byte_mod (Nat.lt_of_lt_of_le hk narrow)).symm
    have last := get_scattered_last (n := s.cur.nib) wf (x := x.toNat) (k := k)
      (pre := pre.map (fun j => s.ownPiece ⟨s.laneEa a b lane j, 0, size, false, j * lane⟩))
      (post := post.map (fun j => s.ownPiece ⟨s.laneEa a b lane j, 0, size, false, j * lane⟩))
      (r := s.ownPiece ⟨s.laneEa a b lane j, 0, size, false, j * lane⟩) hk (by
        intro y hy
        obtain ⟨l, hl, rfl⟩ := List.mem_map.1 hy
        have on' : LaneOn (s.rp p) lane l := mem_activeLanes.1 (by
          rw [split]
          exact List.mem_append_right _ (List.mem_cons_of_mem _ hl))
        have apart := later l (above l hl) on'
        simp only [State.ownPiece, wellPA]
        omega)
    rw [mem, split, List.map_append, List.map_cons, ← byte]
    exact last

end

/-- The accesses of a gather or scatter whose active lanes pass their checks. -/
theorem localOk_lanes {s : State} {a b : Fin 32} {p : Fin 8} {size lane : Nat} (wide : lane = max size 4) (store : Bool)
    (ok : ∀ j, LaneOn (s.rp p) lane j → s.LocalOk (s.laneEa a b lane j) size size) :
    ∀ x ∈ s.laneAccs a b p size false store, s.LocalOk x.1.ea x.1.size x.1.align := by
  intro x hx
  subst wide
  obtain ⟨j, hj, rfl⟩ := List.mem_map.1 hx
  exact ok j (mem_activeLanes.1 hj)

theorem incWrite_offset (s : State) (a : Fin 32) (i : BitVec 10) (size : Nat) : incWrite s a 0 i size = [] := rfl

theorem postInc_offset (t : State) (a : Fin 32) (i : BitVec 10) (size : Nat) : t.postInc a 0 i size = t := rfl

section
variable {s : State} {d a b : Fin 32} {p : Fin 8} {e : Fin 4} {size lane : Nat}

theorem element_divides (e : Fin 4) : 2 ^ e.val ∣ 64 := (Nat.pow_dvd_pow 2 (by omega : e.val ≤ 6))

variable (wide : lane = max (2 ^ e.val) 4) (ok : ∀ j, LaneOn (s.rp p) lane j → s.LocalOk (s.laneEa a b lane j) (2 ^ e.val) (2 ^ e.val))

include wide ok

theorem gather_pieces (store : Bool) : s.windowPieces (s.laneAccs a b p (2 ^ e.val) false store) =
    (activeLanes (s.rp p) lane).map (fun j => s.ownPiece ⟨s.laneEa a b lane j, 0, 2 ^ e.val, false, j * lane⟩) :=
  windowPieces_lanes (element_divides e) wide false store fun j on => (ok j on).aligned

theorem local_ldgV (clear : s.Clear [.g a, .v (s.vphys b), .p p] [.v (s.vphys d)] false) : ∃ t, exec (.ldgV d a b p e 0) s = .next t ∧
    t.mem = s.mem ∧ Retired s t (vWrite s 2 d (s.gatherLanes a b p (2 ^ e.val) lane)) := by
  have run := show exec (.ldgV d a b p e 0) s = execLdgV d a b p e 0 s from rfl
  rw [execLdgV, State.laneSrcs, show ((0 : Fin 16) != 0) = false from rfl, guarded_of_clear clear,
    access_local (localOk_lanes wide false ok), if_pos rfl, gather_pieces wide ok] at run
  dsimp only at run
  obtain ⟨-, -, -, send⟩ := localGather_frame s.dropAnswers ((activeLanes (s.rp p) lane).map
    (fun j => s.ownPiece ⟨s.laneEa a b lane j, 0, 2 ^ e.val, false, j * lane⟩)) 0
  have reg := (send (Sending.dropAnswers s)).vphys d
  rw [State.landV_eq, vWrite, reg] at run
  have done := local_read (a := a) (m := 0) (i := 0) (size := 0) (f := fun x => vWrite s 2 d (BitVec.ofNat 1024 x)) run
  rw [incWrite_offset, List.append_nil, gathered_lanes] at done
  exact done

theorem local_ldgQ (clear : s.Clear [.g a, .v (s.vphys b), .p p] [] false) (room : s.ctx.x.ax.length < 4) :
    ∃ t c, exec (.ldgQ a b p e 0) s = .next t ∧ t.mem = s.mem ∧
      Retired s t [(1, .vqReserve s.nextId), (2, .vqFill s.nextId (s.gatherLanes a b p (2 ^ e.val) lane) c)] := by
  have run := show exec (.ldgQ a b p e 0) s = execLdgQ a b p e 0 s from rfl
  rw [execLdgQ, State.laneSrcs, show ((0 : Fin 16) != 0) = false from rfl, guarded_of_clear clear, axFull_of_room room,
    access_local (localOk_lanes wide false ok), if_pos rfl, gather_pieces wide ok] at run
  dsimp only at run
  obtain ⟨t, c, done⟩ := local_fill (a := a) (m := 0) (i := 0) (size := 0) run
  rw [incWrite_offset, List.append_nil, gathered_lanes] at done
  exact ⟨t, c, done⟩

theorem local_stsV (wf : Memory.wf s.mem = true) (clear : s.Clear [.v (s.vphys d), .g a, .v (s.vphys b), .p p] [] false) :
    ∃ t, exec (.stsV d a b p e 0) s = .next t ∧ ScatterStored s t a b p (2 ^ e.val) lane (s.rv d) ∧ Retired s t [] := by
  have run := show exec (.stsV d a b p e 0) s = execStsV d a b p e 0 s from rfl
  rw [execStsV, State.laneSrcs, show ((0 : Fin 16) != 0) = false from rfl, guarded_of_clear clear,
    access_local (localOk_lanes wide true ok), if_pos rfl, gather_pieces wide ok] at run
  obtain ⟨t, run, mem, retired⟩ := local_write (Sending.dropAnswers s) rfl run
  exact ⟨t, run, scatterStored wf (by rw [wide]; exact Nat.le_max_left ..) mem, retired⟩

theorem local_stsQ (wf : Memory.wf s.mem = true) (clear : s.Clear [.g a, .v (s.vphys b), .p p] [] false) {x : VQEntry}
    {r : List VQEntry} (queue : s.ctx.x.xw = x :: r) (filled : x.filled = true) : ∃ t, exec (.stsQ a b p e 0) s = .next t ∧
      ScatterStored s t a b p (2 ^ e.val) lane x.val ∧ Retired s t [(1, .vqPop .xw)] := by
  have run := show exec (.stsQ a b p e 0) s = execStsQ a b p e 0 s from rfl
  have head := xwHead_of_filled queue filled
  have head' : s.dropAnswers.xwHead = some x := xwHead_of_filled (s := s.dropAnswers) queue filled
  rw [execStsQ, State.laneSrcs, show ((0 : Fin 16) != 0) = false from rfl, guarded_of_clear clear,
    show s.xwHead.isNone = false by rw [head]; rfl, access_local (localOk_lanes wide true ok), gather_pieces wide ok, head'] at run
  dsimp only at run
  rw [if_pos rfl] at run
  obtain ⟨t, run, mem, retired⟩ := local_write ((Sending.dropAnswers s).takeXw x) (by rw [takeXw_mem]; rfl) run
  exact ⟨t, run, scatterStored wf (by rw [wide]; exact Nat.le_max_left ..) mem, retired⟩

end

theorem gathersAndScatters : Claims.GathersAndScatters := by
  intro s d a b p e size lane narrow wide on ea clear ok
  subst narrow
  have fits : 2 ^ e.val ≤ lane := by rw [wide]; exact Nat.le_max_left ..
  refine ⟨⟨s.gatherLanes a b p (2 ^ e.val) lane, fun j hj => ⟨fun hon => ?_, fun off => ?_⟩, fun reg => ?_, fun room => ?_⟩,
    fun wf => ⟨fun reg => ?_, fun x r queue filled => local_stsQ wide ok wf clear queue filled⟩⟩
  · rw [laneOf_gatherLanes fits hj, if_pos (show laneOn (s.rp p) lane j = true from hon.2)]
    rfl
  · rw [laneOf_gatherLanes fits hj, if_neg (show ¬ laneOn (s.rp p) lane j = true from fun h => off ⟨hj, h⟩)]
  · exact local_ldgV wide ok (by have both := Clear.append clear reg; simpa using both)
  · exact local_ldgQ wide ok clear room
  · exact local_stsV wide ok wf (by have both := Clear.append clear reg; simpa using both)

/-- Settles O27: local accesses of aligned elements have one piece each, a vector's two; reads of pieces come to the bytes as
the turn found them, and writes of pieces to a write of the whole, the last one standing where lanes overlap. -/
theorem localAccesses : Obligations.LocalAccesses := ⟨addressModes, localLoads, localStores, gathersAndScatters⟩

end Sys2Proof.Machine
end

section
/-! SUPPORT. Synchronising accesses and atomics as they issue (06_memory.md R143, R153 to R157). -/

namespace Sys2Proof.Machine

open Sys2Proof

/-! ## Full/empty bits -/

theorem mem_setFull_of_sorted {l : List Nat} (sorted : l.Pairwise (· < ·)) (x : Nat) (b : Bool) (y : Nat) :
    y ∈ setFull l x b ↔ if y = x then b = true else y ∈ l := by
  induction l with
  | nil => cases b <;> simp [setFull]
  | cons z r ih =>
    obtain ⟨above, rest⟩ := List.pairwise_cons.1 sorted
    have ih := ih rest
    rw [setFull]
    rcases Nat.lt_trichotomy x z with lt | rfl | gt
    · have absent : x ∉ z :: r := by
        intro h
        rcases List.mem_cons.1 h with h | h
        · omega
        · have := above x h
          omega
      rw [if_pos lt]
      by_cases hy : y = x
      · subst hy
        cases b <;> simp [absent]
      · cases b <;> simp [hy]
    · rw [if_neg (Nat.lt_irrefl x), if_pos rfl]
      have absent : x ∉ r := fun h => absurd (above x h) (Nat.lt_irrefl x)
      by_cases hy : y = x
      · subst hy
        cases b <;> simp [absent]
      · cases b <;> simp [hy]
    · rw [if_neg (by omega), if_neg (by omega), List.mem_cons, ih, List.mem_cons]
      by_cases hy : y = x
      · subst hy
        simp [show y ≠ z by omega]
      · simp [hy]

theorem setFull_sorted {l : List Nat} (sorted : l.Pairwise (· < ·)) (x : Nat) (b : Bool) : (setFull l x b).Pairwise (· < ·) := by
  induction l with
  | nil => cases b <;> simp [setFull]
  | cons z r ih =>
    obtain ⟨above, rest⟩ := List.pairwise_cons.1 sorted
    rw [setFull]
    split
    · next lt =>
      cases b
      · exact sorted
      · refine List.pairwise_cons.2 ⟨fun y hy => ?_, sorted⟩
        rcases List.mem_cons.1 hy with rfl | hy
        · exact lt
        · exact Nat.lt_trans lt (above y hy)
    · split
      · cases b
        · exact rest
        · exact sorted
      · next nlt ne =>
        refine List.pairwise_cons.2 ⟨fun y hy => ?_, ih rest⟩
        have listed := (mem_setFull_of_sorted rest x b y).1 hy
        split at listed
        · omega
        · exact above y listed

theorem contains_setFull {l : List Nat} (sorted : l.Pairwise (· < ·)) (x y : Nat) (b : Bool) :
    (setFull l x b).contains y = (if y = x then b else l.contains y) := by
  rw [Bool.eq_iff_iff, List.contains_iff_mem, mem_setFull_of_sorted sorted]
  split
  · rfl
  · rw [List.contains_iff_mem]

/-! ## What an access of a word does -/

/-- A word's access changes its bit, stamps, and for a store its bytes. -/
theorem syncAct_eq (t : State) (kind : Fin 4) (pa data : Nat) (lc : Clk) : (t.syncAct kind pa data lc).1 = Memory.read t.mem pa 8 ∧
    ∃ st, (t.syncAct kind pa data lc).2.2 = { t with
      full := setFull t.full pa (kind.val ≠ 0), stamps := st
      mem := if kind.val < 2 then t.mem else Memory.write t.mem pa 8 data } := by
  by_cases load : kind.val < 2
  · by_cases take : kind = 0
    · simp only [State.syncAct, if_pos load, if_pos take]
      exact ⟨trivial, _, rfl⟩
    · simp only [State.syncAct, if_pos load, if_neg take]
      exact ⟨trivial, _, rfl⟩
  · simp only [State.syncAct, if_neg load]
    exact ⟨trivial, _, rfl⟩

/-- An access that finds no waiter and no held request serves none. -/
theorem syncNow_of_idle {t : State} {n : NibId} (alone : (t.nib n).waiters = []) (idle : (t.nib n).heldReqs = []) (kind : Fin 4)
    (pa data : Nat) (lc : Clk) : t.syncNow n kind pa data lc = t.syncAct kind pa data lc := by
  obtain ⟨-, st, eq⟩ := syncAct_eq t kind pa data lc
  have nib : (t.syncAct kind pa data lc).2.2.nib n = t.nib n := by rw [eq]; rfl
  have served : (t.syncAct kind pa data lc).2.2.cascade n pa 65 = (t.syncAct kind pa data lc).2.2 :=
    cascade_of_no_waiters (by rw [nib, alone]) pa 65
  rw [State.syncNow]
  dsimp only
  rw [served, nib, idle]
  rfl

/-- The byte at a PA of the nib's well as it stood at the start of the turn. -/
def State.oldAt (t : State) (pa : Nat) : Byte := (t.turn.undo.lookup pa).getD (Memory.get t.mem pa)

theorem oldAt_keepOld (t : State) (pa n b : Nat) : (t.keepOld pa n).oldAt b = t.oldAt b := by
  induction n generalizing t pa with
  | zero => rfl
  | succ n ih =>
    rw [State.keepOld, ih]
    split
    · rfl
    · next absent =>
      rw [State.oldAt, State.oldAt]
      dsimp only
      rw [List.lookup_cons]
      by_cases here : b = pa
      · have missing : t.turn.undo.lookup pa = none := Option.not_isSome_iff_eq_none.1 absent
        rw [here, beq_self_eq_true, missing]
        rfl
      · rw [beq_false_of_ne here]

theorem keepOld_cur (t : State) (pa n : Nat) : (t.keepOld pa n).cur = t.cur := by
  induction n generalizing t pa with
  | zero => rfl
  | succ n ih =>
    rw [State.keepOld, ih]
    split <;> rfl

theorem wellOld_eq (t : State) (off : Nat) : t.wellOld off = t.oldAt (wellPA t.cur.nib off) := by
  rw [State.wellOld, State.oldAt]
  generalize wellPA t.cur.nib off = pa
  cases t.turn.undo.lookup pa <;> rfl

theorem wellOld_keepOld (t : State) (pa n off : Nat) : (t.keepOld pa n).wellOld off = t.wellOld off := by
  rw [wellOld_eq, wellOld_eq, oldAt_keepOld, keepOld_cur]

theorem wellRead_keepOld (t : State) (pa n off size : Nat) : (t.keepOld pa n).wellRead off size = t.wellRead off size := by
  induction size generalizing off with
  | zero => rfl
  | succ size ih => rw [State.wellRead, State.wellRead, ih, wellOld_keepOld]

section
variable {s : State} {d a : Fin 32} {m : Fin 4} {i : BitVec 10} {kind : Fin 4} {ins : Instr}

/-- The registers that a synchronising access reads and writes. -/
def syncSrcs (kind : Fin 4) (d a : Fin 32) (m : Fin 4) (i : BitVec 10) : List RegRef :=
  if kind.val < 2 then State.eaSrcs a m i else .g d :: State.eaSrcs a m i

def syncDsts (kind : Fin 4) (d a : Fin 32) (m : Fin 4) : List RegRef := (if kind.val < 2 then [RegRef.g d] else []) ++ State.eaDsts a m

/-- The end of a synchronising access, with the word that it read. -/
def State.syncFinish (t : State) (kind : Fin 4) (d a : Fin 32) (m : Fin 4) (i : BitVec 10) (y : Nat) : State :=
  ((if kind.val < 2 then t.landG 2 d (BitVec.ofNat 64 y) else t).postInc a m i 8).retire

/-- The effects of a synchronising access. -/
def syncWrites (s : State) (kind : Fin 4) (d a : Fin 32) (m : Fin 4) (i : BitVec 10) (y : Nat) : List (Nat × Eff) :=
  (if kind.val < 2 then gWrite 2 d (BitVec.ofNat 64 y) else []) ++ incWrite s a m i 8

theorem Sending.syncFinish {t : State} (h : Sending s t []) (kind : Fin 4) (d a : Fin 32) (m : Fin 4) (i : BitVec 10) (y : Nat) :
    Retired s (t.syncFinish kind d a m i y) (syncWrites s kind d a m i y) ∧ WellOnly t (t.syncFinish kind d a m i y) ∧
      (t.syncFinish kind d a m i y).mem = t.mem := by
  rw [State.syncFinish, syncWrites]
  split
  · rw [State.landG_eq]
    refine ⟨((h.lands _).postInc a m i 8).retired, ?_, by rw [State.retire_mem, State.postInc_mem, (sameBut_lands _ _).mem_eq]⟩
    exact ((wellOnly_of_sameBut (sameBut_lands t _)).trans (postInc_only _ a m i 8)).trans
      (wellOnly_of_sameBut (issued_retire _ []).same)
  · exact ⟨(h.postInc a m i 8).retired, (postInc_only _ a m i 8).trans (wellOnly_of_sameBut (issued_retire _ []).same),
      by rw [State.retire_mem, State.postInc_mem]⟩

/-- The access of a synchronising instruction in its local form. -/
def State.syncAcc (s : State) (kind : Fin 4) (a : Fin 32) (m : Fin 4) (i : BitVec 10) (long : Bool) : State.Acc :=
  ⟨s.ea a m i 8, 8, 8, !decide (kind.val < 2), long, false, true, false⟩

theorem syncAccess_eq (s : State) (kind : Fin 4) (d a : Fin 32) (m : Fin 4) (sl : Fin 16) (i : BitVec 10) :
    s.syncAccess kind d a m sl i = s.guarded (syncSrcs kind d a m i) (syncDsts kind d a m) (sl != 0) (fun s =>
      match s.served with
      | some (o, y) => (s.dropOp o.id).syncFinish kind d a m i y
      | none =>
        s.access ⟨[(s.syncAcc kind a m i (sl != 0), 0)], sl, false, if kind.val < 2 then 0 else 1⟩ (fun t rs =>
          if sl = 0 then
            match rs with
            | [] => t
            | r :: _ =>
              if syncReady kind (t.full.contains r.pa) then
                let u := t.keepOld r.pa 8
                let (y, c, v) := u.syncNow u.cur.nib kind r.pa (s.rg d).toNat u.lc
                (v.setLc c).syncFinish kind d a m i (if kind.val < 2 then v.wellRead r.va.toNat 8 else y)
              else
                let (id, t) := t.newOp 0 (.access (.sync kind d) rs (s.rg d).toNat false)
                { t with turn := { t.turn with park := t.turn.park ++ [(.sync id, t.cur.q)] } }
          else
            let t := (t.postInc a m i 8).issueLong sl (.sync kind d) rs (s.rg d).toNat true
            (if kind.val < 2 then t.pendReg (.g d) else t).retire)) := by
  rw [State.syncAccess]
  simp only [decide_eq_true_eq]
  rfl

theorem setLc_only (t : State) (x : Clk) : WellOnly t (t.setLc x) := wellOnly_of_sameBut (sameBut_modSeq t _)

section
variable (clear : s.Clear (syncSrcs kind d a m i) (syncDsts kind d a m) false) (run : exec ins s = s.syncAccess kind d a m 0 i)

include clear run

/-- A served access issues with the word that it read. -/
theorem sync_of_served {o : Op} {y : Nat} (served : s.served = some (o, y)) : ∃ t, exec ins s = .next t ∧ t.mem = s.mem ∧
    t.full = s.full ∧ t.ops = s.ops.filter (·.id != o.id) ∧ Retired s t (syncWrites s kind d a m i y) := by
  rw [syncAccess_eq, show ((0 : Fin 16) != 0) = false from rfl, guarded_of_clear clear, served] at run
  obtain ⟨retired, only, mem⟩ := Sending.syncFinish (t := s.dropOp o.id) ((Sending.refl s).still rfl rfl rfl rfl) kind d a m i y
  exact ⟨_, run, mem, only.full, only.ops, retired⟩

variable (new : s.served = none) (ok : s.LocalOk (s.ea a m i 8) 8 8)

include new ok

/-- A new access with its piece in the window. -/
theorem sync_of_local (act : Bool) (is : syncReady kind (s.full.contains (wellPA s.cur.nib (s.ea a m i 8).toNat)) = act) :
    exec ins s = .next (
      let t := s.dropAnswers
      let r := s.ownPiece ⟨s.ea a m i 8, 0, 8, false, 0⟩
      if act then
        let u := t.keepOld r.pa 8
        let (y, c, v) := u.syncNow u.cur.nib kind r.pa (s.rg d).toNat u.lc
        (v.setLc c).syncFinish kind d a m i (if kind.val < 2 then v.wellRead r.va.toNat 8 else y)
      else
        let (id, t) := t.newOp 0 (.access (.sync kind d) [r] (s.rg d).toNat false)
        { t with turn := { t.turn with park := t.turn.park ++ [(.sync id, t.cur.q)] } }) := by
  have pieces : s.windowPieces [(s.syncAcc kind a m i false, 0)] = [s.ownPiece ⟨s.ea a m i 8, 0, 8, false, 0⟩] :=
    windowPieces_one s (by exact (by decide : 8 ∣ 64)) ok.aligned
  rw [syncAccess_eq, show ((0 : Fin 16) != 0) = false from rfl, guarded_of_clear clear, new] at run
  dsimp only at run
  rw [access_local (localOk_single (by exact ok)), if_pos rfl, pieces] at run
  dsimp only at run
  rw [show (s.dropAnswers.full.contains (s.ownPiece ⟨s.ea a m i 8, 0, 8, false, 0⟩).pa) =
    s.full.contains (wellPA s.cur.nib (s.ea a m i 8).toNat) from rfl, is] at run
  exact run

/-- An access of a word in the wrong state parks its stroke. -/
theorem sync_parks (wrong : syncReady kind (s.full.contains (wellPA s.cur.nib (s.ea a m i 8).toNat)) = false) :
    ∃ t, exec ins s = .next t ∧ t.turn.park = s.turn.park ++ [(.sync s.nextId, s.cur.q)] ∧ t.turn.issued = s.turn.issued ∧
      t.mem = s.mem ∧ t.full = s.full ∧ t.ctx.inflight = s.ctx.inflight :=
  ⟨_, sync_of_local clear run new ok false wrong, rfl, rfl, rfl, rfl, rfl⟩

/-- An access of a word in the right state is performed in its turn. -/
theorem sync_acts (ready : syncReady kind (s.full.contains (wellPA s.cur.nib (s.ea a m i 8).toNat)) = true)
    (alone : s.cnib.waiters = []) (idle : s.cnib.heldReqs = []) : ∃ t y, exec ins s = .next t ∧
      t.mem = (if kind.val < 2 then s.mem else Memory.write s.mem (wellPA s.cur.nib (s.ea a m i 8).toNat) 8 (s.rg d).toNat) ∧
      t.full = setFull s.full (wellPA s.cur.nib (s.ea a m i 8).toNat) (kind.val ≠ 0) ∧
      (kind.val < 2 → y = s.wellRead (s.ea a m i 8).toNat 8) ∧ Retired s t (syncWrites s kind d a m i y) := by
  have run := sync_of_local clear run new ok true ready
  dsimp only at run
  rw [if_pos rfl] at run
  generalize hpa : wellPA s.cur.nib (s.ea a m i 8).toNat = pa
  have place : (s.ownPiece ⟨s.ea a m i 8, 0, 8, false, 0⟩).pa = pa := hpa
  rw [place, show (s.ownPiece ⟨s.ea a m i 8, 0, 8, false, 0⟩).va = s.ea a m i 8 from rfl] at run
  obtain ⟨undo, kept⟩ := keepOld_only s.dropAnswers pa 8
  have old := wellRead_keepOld s.dropAnswers pa 8 (s.ea a m i 8).toNat 8
  generalize s.dropAnswers.keepOld pa 8 = u at run kept old
  have nib : u.nib u.cur.nib = s.cnib := by rw [kept]; rfl
  rw [syncNow_of_idle (by rw [nib, alone]) (by rw [nib, idle])] at run
  obtain ⟨value, st, after⟩ := syncAct_eq u kind pa (s.rg d).toNat u.lc
  rcases act : u.syncAct kind pa (s.rg d).toNat u.lc with ⟨y, c, v⟩
  rw [act] at run value after
  dsimp only at run value after
  have sending : Sending s v [] := by
    refine (Sending.dropAnswers s).quiet ?_ ?_ (fun n k => ?_) ?_ <;> rw [after, kept] <;> rfl
  obtain ⟨retired, only, mem⟩ := (sending.setLc c).syncFinish kind d a m i
    (if kind.val < 2 then v.wellRead (s.ea a m i 8).toNat 8 else y)
  refine ⟨_, _, run, ?_, ?_, fun load => ?_, retired⟩
  · rw [mem, State.setLc_mem, after, kept]
    rfl
  · rw [only.full, (setLc_only v c).full, after, kept]
    rfl
  · rw [if_pos load, wellRead_congr (t := v) (s := u) (by rw [after]) (by rw [after]) (by rw [after]; exact if_pos load), old]
    exact wellRead_congr rfl rfl rfl _ _

end

end

theorem synchronisingAccesses : Claims.SynchronisingAccesses := by
  intro s d a m i ea pa hea hpa ok
  subst hea hpa
  refine ⟨fun clear => ⟨fun new alone idle full => ⟨?_, ?_⟩, fun new empty => ?_, fun o y served => ?_⟩,
    fun clear new wf => ⟨fun alone idle k hk => ?_, fun full => ?_⟩, fun clear o y served => ?_, fun l x y b sorted =>
      ⟨contains_setFull sorted x y b, setFull_sorted sorted x b⟩⟩
  · obtain ⟨t, y, run, mem, bits, value, retired⟩ := sync_acts (kind := 0) (ins := .ldfe d a m 0 i) clear rfl new ok full alone idle
    rw [value (by decide)] at retired
    exact ⟨t, run, mem, bits, retired⟩
  · obtain ⟨t, y, run, mem, bits, value, retired⟩ := sync_acts (kind := 1) (ins := .ldff d a m 0 i) clear rfl new ok full alone idle
    rw [value (by decide)] at retired
    exact ⟨t, run, mem, bits, retired⟩
  · simp only [List.forall_mem_cons]
    exact ⟨sync_parks (kind := 0) clear rfl new ok empty, sync_parks (kind := 1) clear rfl new ok empty,
      fun _ h => absurd h List.not_mem_nil⟩
  · simp only [List.forall_mem_cons]
    exact ⟨sync_of_served (kind := 0) clear rfl served, sync_of_served (kind := 1) clear rfl served,
      fun _ h => absurd h List.not_mem_nil⟩
  · have stores : ∀ {kind : Fin 4}, ¬ kind.val < 2 → s.Clear (syncSrcs kind d a m i) (syncDsts kind d a m) false →
        exec k s = s.syncAccess kind d a m 0 i →
        syncReady kind (s.full.contains (wellPA s.cur.nib (s.ea a m i 8).toNat)) = true → ∃ t, exec k s = .next t ∧
          t.full = setFull s.full (wellPA s.cur.nib (s.ea a m i 8).toNat) true ∧
          Memory.read t.mem (wellPA s.cur.nib (s.ea a m i 8).toNat) 8 = (s.rg d).toNat ∧
          (∀ b, b < wellPA s.cur.nib (s.ea a m i 8).toNat ∨ wellPA s.cur.nib (s.ea a m i 8).toNat + 8 ≤ b →
            Memory.get t.mem b = Memory.get s.mem b) ∧ Retired s t (incWrite s a m i 8) := by
      intro kind store clear run ready
      obtain ⟨t, y, run, mem, bits, -, retired⟩ := sync_acts clear run new ok ready alone idle
      rw [if_neg store] at mem
      rw [decide_eq_true (show kind.val ≠ 0 by omega)] at bits
      rw [syncWrites, if_neg store, List.nil_append] at retired
      refine ⟨t, run, bits, ?_, fun b out => by rw [mem, Memory.get_write_outside _ _ _ _ _ wf out], retired⟩
      rw [mem, Memory.read_write_same _ _ _ _ wf, Nat.mod_eq_of_lt (by exact (s.rg d).isLt)]
    rcases hk with rfl | ⟨rfl, empty⟩
    · exact stores (kind := 3) (by decide) clear rfl rfl
    · exact stores (kind := 2) (by decide) clear rfl (by rw [empty]; rfl)
  · obtain ⟨t, run, park, issued, mem, bits, -⟩ := sync_parks (kind := 2) (ins := .stfe d a m 0 i) clear rfl new ok (by rw [full]; rfl)
    exact ⟨t, run, park, issued, mem, bits⟩
  · exact sync_of_served (kind := 2) clear rfl served

/-! ## Atomics -/

section
variable {s : State} {d a b : Fin 32} {op : Fin 16} {z : Nat} {ins : Instr}

/-- The registers that an atomic reads. -/
def amoSrcs (op : Fin 16) (d a b : Fin 32) : List RegRef := if op = 9 then [RegRef.g d, .g a, .g b] else [.g a, .g b]

/-- A local-form atomic in its turn. -/
theorem local_amo (run : exec ins s = s.amo op d a b 0 z) (width : 4 * (z + 1) ∣ 64)
    (clear : s.Clear (amoSrcs op d a b) [.g d] false) (free : ¬ (op = 10 ∧ s.deterministic = true))
    (ok : s.LocalOk (s.rg a) (4 * (z + 1)) (4 * (z + 1))) :
    let r := amoNew op.val (8 * (4 * (z + 1))) (s.wellRead (s.rg a).toNat (4 * (z + 1))) ((s.rg b).toNat % 2 ^ (8 * (4 * (z + 1))))
      ((s.rg d).toNat % 2 ^ (8 * (4 * (z + 1))))
    ∃ t, exec ins s = .next t ∧ t.mem = Memory.write s.mem (wellPA s.cur.nib (s.rg a).toNat) (4 * (z + 1)) r.1 ∧
      Retired s t (gWrite 2 d (BitVec.ofNat 64 (s.wellRead (s.rg a).toNat (4 * (z + 1)))) ++ evCount r.2) := by
  have pieces : s.windowPieces [(⟨s.rg a, 4 * (z + 1), 4 * (z + 1), true, false, false, false, true⟩, 0)] =
      [s.ownPiece ⟨s.rg a, 0, 4 * (z + 1), false, 0⟩] := windowPieces_one s (by exact width) ok.aligned
  rw [State.amo, ← amoSrcs, show ((0 : Fin 16) != 0) = false from rfl, guarded_of_clear clear, if_neg free,
    access_local (localOk_single (by exact ok)), if_pos rfl, pieces] at run
  obtain ⟨old, -, -, -⟩ := localGather_frame s.dropAnswers [s.ownPiece ⟨s.rg a, 0, 4 * (z + 1), false, 0⟩] 0
  rw [gathered_dropAnswers, gathered_one] at old
  dsimp only at run
  rw [old] at run
  intro r
  obtain ⟨-, mem, send⟩ := localScatter_frame s.dropAnswers r.1 [s.ownPiece ⟨s.rg a, 0, 4 * (z + 1), false, 0⟩]
  rw [scattered_one] at mem
  refine ⟨_, run, ?_, (((send (Sending.dropAnswers s)).landG 2 d _).landEv r.2).retired⟩
  rw [State.retire_mem, State.landEv_mem, State.landG_mem]
  exact mem

end

theorem word_divides (z : Fin 2) : 4 * (z.val + 1) ∣ 64 := by
  have h : z.val = 0 ∨ z.val = 1 := by omega
  rcases h with h | h <;> rw [h] <;> decide

theorem pow_bytes (k : Nat) : 2 ^ (8 * k) = 256 ^ k := by rw [Nat.pow_mul]

/-- What an atomic has done, whose new value is `new` and whose events are `e`. -/
def AmoDoes (s : State) (d a : Fin 32) (k : Nat) (i : Instr) (new : Nat) (e : Ev) : Prop :=
  ∃ t, exec i s = .next t ∧ Memory.read t.mem (wellPA s.cur.nib (s.rg a).toNat) k = new ∧
    (∀ q, q < wellPA s.cur.nib (s.rg a).toNat ∨ wellPA s.cur.nib (s.rg a).toNat + k ≤ q → Memory.get t.mem q = Memory.get s.mem q) ∧
    Retired s t (gWrite 2 d (BitVec.ofNat 64 (s.wellRead (s.rg a).toNat k)) ++ evCount e)

theorem amoDoes {s : State} {d a b : Fin 32} {op : Fin 16} {z : Fin 2} {ins : Instr} (wf : Memory.wf s.mem = true)
    (run : exec ins s = s.amo op d a b 0 z.val) (clear : s.Clear (amoSrcs op d a b) [.g d] false)
    (free : ¬ (op = 10 ∧ s.deterministic = true)) (ok : s.LocalOk (s.rg a) (4 * (z.val + 1)) (4 * (z.val + 1))) {x new : Nat} {e : Ev}
    (value : amoNew op.val (8 * (4 * (z.val + 1))) (s.wellRead (s.rg a).toNat (4 * (z.val + 1)))
      ((s.rg b).toNat % 2 ^ (8 * (4 * (z.val + 1)))) ((s.rg d).toNat % 2 ^ (8 * (4 * (z.val + 1)))) = (x, e))
    (rest : x % 2 ^ (8 * (4 * (z.val + 1))) = new) : AmoDoes s d a (4 * (z.val + 1)) ins new e := by
  obtain ⟨t, run, mem, retired⟩ := local_amo run (word_divides z) clear free ok
  rw [value] at mem retired
  refine ⟨t, run, ?_, fun q out => by rw [mem, Memory.get_write_outside _ _ _ _ _ wf out], retired⟩
  rw [mem, Memory.read_write_same _ _ _ _ wf, ← pow_bytes, rest]

/-- The smaller or greater of two signed values is one of them. -/
theorem ite_mod_of_lt {c : Prop} [Decidable c] {x y m : Nat} (hx : x < m) (hy : y < m) :
    (if c then x else y) % m = if c then x else y := by
  split
  · exact Nat.mod_eq_of_lt hx
  · exact Nat.mod_eq_of_lt hy

theorem atomics : Claims.Atomics := by
  refine ⟨fun s d a b sl clear det => ?_, fun s d a b z n hn ok wf => ?_⟩
  · have run := show exec (.amoFadd d a b sl) s = s.amo 10 d a b sl 0 from rfl
    rw [State.amo, ← amoSrcs, guarded_of_clear (by exact clear), if_pos ⟨rfl, det⟩] at run
    exact run
  · obtain rfl : n = 8 * (4 * (z.val + 1)) := by omega
    rw [Nat.mul_div_cancel_left _ (by decide : 0 < 8)] at ok ⊢
    intro pa old y c sg does
    have lo : old < 2 ^ (8 * (4 * (z.val + 1))) := by rw [pow_bytes]; exact wellRead_lt ..
    have ly : y < 2 ^ (8 * (4 * (z.val + 1))) := Nat.mod_lt _ (Nat.two_pow_pos _)
    refine ⟨fun clear => ⟨?_, ?_, ?_, ?_, ?_, ?_, ?_, ?_, ?_, fun word free => ?_⟩, fun clear => ?_⟩
    · exact amoDoes (op := 0) (b := b) wf rfl (by exact clear) (by simp) ok rfl (Nat.mod_mod ..)
    · exact amoDoes (op := 1) (b := b) wf rfl (by exact clear) (by simp) ok rfl (Nat.mod_eq_of_lt (Nat.lt_of_le_of_lt Nat.and_le_left lo))
    · exact amoDoes (op := 2) (b := b) wf rfl (by exact clear) (by simp) ok rfl (Nat.mod_eq_of_lt (Nat.or_lt_two_pow lo ly))
    · exact amoDoes (op := 3) (b := b) wf rfl (by exact clear) (by simp) ok rfl (Nat.mod_eq_of_lt (Nat.xor_lt_two_pow lo ly))
    · exact amoDoes (op := 4) (b := b) wf rfl (by exact clear) (by simp) ok rfl (ite_mod_of_lt lo ly)
    · exact amoDoes (op := 5) (b := b) wf rfl (by exact clear) (by simp) ok rfl (ite_mod_of_lt ly lo)
    · exact amoDoes (op := 6) (b := b) wf rfl (by exact clear) (by simp) ok rfl (Nat.mod_eq_of_lt (Nat.lt_of_le_of_lt (Nat.min_le_left ..) lo))
    · exact amoDoes (op := 7) (b := b) wf rfl (by exact clear) (by simp) ok rfl (Nat.mod_eq_of_lt (Nat.max_lt.2 ⟨lo, ly⟩))
    · exact amoDoes (op := 8) (b := b) wf rfl (by exact clear) (by simp) ok rfl (Nat.mod_eq_of_lt ly)
    · obtain rfl : z = 0 := Fin.ext (by omega)
      exact amoDoes (op := 10) (b := b) (z := 0) wf rfl (by exact clear) (by simp [free]) ok rfl rfl
    · exact amoDoes (op := 9) (b := b) wf rfl (by exact clear) (by simp) ok rfl (ite_mod_of_lt ly lo)

/-! ## Long forms -/

section
variable {s : State} {d a b : Fin 32} {m : Fin 4} {sl : Fin 16} {i : BitVec 10} {rs : List Range} {ins : Instr}

theorem long_sync {kind : Fin 4} (long : sl ≠ 0) (room : s.sealFull sl = false) (new : s.served = none)
    (run : exec ins s = s.syncAccess kind d a m sl i) (clear : s.Clear (syncSrcs kind d a m i) (syncDsts kind d a m) true)
    (pass : s.Passes [(s.syncAcc kind a m i true, 0)] rs) :
    SendsLong ins s sl (.sync kind d) rs (s.rg d).toNat .homeWrite
      (incWrite s a m i 8 ++ [(1, .sealPend sl)] ++ if kind.val < 2 then [(1, .pend (.g d))] else []) := by
  rw [syncAccess_eq, bne_zero_of_ne long, guarded_of_clear clear, new] at run
  dsimp only at run
  rw [access_of_passes pass room, if_neg long] at run
  split at run
  · next load =>
    rw [if_pos load]
    exact sendsLong_of_run (write := true) (fs := [(1, .pend (.g d))]) (sending_postInc s a m i 8) (postInc_only _ a m i 8)
      (State.postInc_mem ..) run
  · next store =>
    rw [if_neg store]
    exact sendsLong_of_run (write := true) (fs := []) (sending_postInc s a m i 8) (postInc_only _ a m i 8) (State.postInc_mem ..) run

theorem long_amo {op : Fin 16} {z : Nat} (long : sl ≠ 0) (room : s.sealFull sl = false) (run : exec ins s = s.amo op d a b sl z)
    (clear : s.Clear (amoSrcs op d a b) [.g d] true) (free : ¬ (op = 10 ∧ s.deterministic = true))
    (pass : s.Passes [(⟨s.rg a, 4 * (z + 1), 4 * (z + 1), true, true, false, false, true⟩, 0)] rs) :
    SendsLong ins s sl (.amo d (4 * (z + 1)) op ((s.rg b).toNat % 2 ^ (8 * (4 * (z + 1)))) ((s.rg d).toNat % 2 ^ (8 * (4 * (z + 1)))))
      rs 0 .homeWrite [(1, .sealPend sl), (1, .pend (.g d))] := by
  rw [State.amo, ← amoSrcs, bne_zero_of_ne long, guarded_of_clear clear, if_neg free] at run
  dsimp only at run
  rw [access_of_passes pass room, if_neg long] at run
  exact sendsLong_of_run (write := true) (es := []) (fs := [(1, .pend (.g d))]) (Sending.dropAnswers s) (.refl _) rfl run

end

theorem longSyncsAndAtomicsAreSent : Claims.LongSyncsAndAtomicsAreSent := by
  intro s d a b m sl i z rs n long room hn
  subst hn
  refine ⟨fun new clear pass => ?_, fun new clear pass => ?_, fun clear pass => ?_, fun clear free pass => ?_⟩
  · have sends : ∀ {kind : Fin 4} {ins : Instr}, exec ins s = s.syncAccess kind d a m sl i → kind.val < 2 →
        SendsLong ins s sl (.sync kind d) rs (s.rg d).toNat .homeWrite (incWrite s a m i 8 ++ [(1, .sealPend sl), (1, .pend (.g d))]) := by
      intro kind ins run load
      have clear : s.Clear (syncSrcs kind d a m i) (syncDsts kind d a m) true := by
        rw [syncSrcs, syncDsts, if_pos load, if_pos load]
        exact clear
      have pass : s.Passes [(s.syncAcc kind a m i true, 0)] rs := by
        rw [State.syncAcc, decide_eq_true load]
        exact pass
      have sends := long_sync long room new run clear pass
      rw [if_pos load, List.append_assoc] at sends
      exact sends
    simp only [List.forall_mem_cons]
    exact ⟨sends rfl (by decide), sends rfl (by decide), fun _ h => absurd h List.not_mem_nil⟩
  · have sends : ∀ {kind : Fin 4} {ins : Instr}, exec ins s = s.syncAccess kind d a m sl i → ¬ kind.val < 2 →
        SendsLong ins s sl (.sync kind d) rs (s.rg d).toNat .homeWrite (incWrite s a m i 8 ++ [(1, .sealPend sl)]) := by
      intro kind ins run store
      have clear : s.Clear (syncSrcs kind d a m i) (syncDsts kind d a m) true := by
        rw [syncSrcs, syncDsts, if_neg store, if_neg store]
        exact clear
      have pass : s.Passes [(s.syncAcc kind a m i true, 0)] rs := by
        rw [State.syncAcc, decide_eq_false store]
        exact pass
      have sends := long_sync long room new run clear pass
      rw [if_neg store, List.append_nil] at sends
      exact sends
    simp only [List.forall_mem_cons]
    exact ⟨sends rfl (by decide), sends rfl (by decide), fun _ h => absurd h List.not_mem_nil⟩
  · have fewer : ∀ op : Fin 16, s.Clear (amoSrcs op d a b) [.g d] true := by
      intro op
      refine ⟨fun x hx => clear.1 x ?_, clear.2⟩
      rw [amoSrcs] at hx
      split at hx
      · exact hx
      · exact List.mem_cons_of_mem _ hx
    have sends : ∀ {op : Fin 16} {ins : Instr}, exec ins s = s.amo op d a b sl z.val → op ≠ 10 → _ := fun {op ins} run other =>
      (long_amo long room run (fewer op) (fun h => other h.1) pass).weaken
    simp only [List.forall_mem_cons]
    exact ⟨sends rfl (by decide), sends rfl (by decide), sends rfl (by decide), sends rfl (by decide), sends rfl (by decide),
      sends rfl (by decide), sends rfl (by decide), sends rfl (by decide), sends rfl (by decide), sends rfl (by decide),
      fun _ h => absurd h List.not_mem_nil⟩
  · exact (long_amo (op := 10) (b := b) (z := 0) long room rfl (by exact clear) (by simp [free]) pass).weaken

/-- Settles O30: an access of a word in the right state, with no waiter to serve, is one change of its bit and its bytes; what an
atomic reads and writes is its one piece; and long forms are sent as every long access is. -/
theorem synchronisingAndAtomicAccesses : Obligations.SynchronisingAndAtomicAccesses :=
  ⟨synchronisingAccesses, atomics, longSyncsAndAtomicsAreSent⟩

end Sys2Proof.Machine
end

section
/-! SUPPORT. The checks of an access, each in its turn, and the page-table walk (06_memory.md R147, R163 to R167). -/

namespace Sys2Proof.Machine

open Sys2Proof

/-! ## Canonical addresses -/

theorem high_eq_iff (va : Word) (x : BitVec 13) :
    va.toNat / 2 ^ 51 = x.toNat ↔ ∀ j : Nat, 51 ≤ j → j < 64 → va.getLsbD j = x.getLsbD (j - 51) := by
  have bound := va.isLt
  have value : (va.extractLsb' 51 13).toNat = va.toNat / 2 ^ 51 := by
    rw [BitVec.extractLsb'_toNat, Nat.shiftRight_eq_div_pow]
    exact Nat.mod_eq_of_lt (by omega)
  rw [← value, BitVec.toNat_inj]
  refine ⟨fun h j lo hi => ?_, fun h => BitVec.eq_of_getLsbD_eq fun j lt => ?_⟩
  · rw [← h, BitVec.getLsbD_extractLsb', decide_eq_true (by omega), Bool.true_and, Nat.add_sub_cancel' lo]
  · rw [BitVec.getLsbD_extractLsb', decide_eq_true lt, Bool.true_and, h _ (by omega) (by omega), Nat.add_sub_cancel_left]

/-- A VA is canonical where its high bits agree. -/
theorem canonical_iff (va : Word) :
    canonical va = true ↔ (∀ j : Nat, 51 ≤ j → j < 64 → va.getLsbD j = false) ∨ ∀ j : Nat, 51 ≤ j → j < 64 → va.getLsbD j = true := by
  have ones : ∀ j : Nat, 51 ≤ j → j < 64 → (BitVec.allOnes 13).getLsbD (j - 51) = true := fun j lo hi => by
    rw [BitVec.getLsbD_allOnes, decide_eq_true (by omega)]
  rw [canonical, Bool.or_eq_true, decide_eq_true_eq, decide_eq_true_eq]
  refine or_congr ((high_eq_iff va 0#13).trans (by simp only [BitVec.getLsbD_zero])) ((high_eq_iff va (BitVec.allOnes 13)).trans ?_)
  exact forall_congr' fun j => forall_congr' fun lo => forall_congr' fun hi => by rw [ones j lo hi]

/-! ## The checks of one piece -/

/-- The access is aligned and as large as an element, so that it lies in one cell. -/
structure OnePiece (a : State.Acc) : Prop where
  align : a.align = a.size
  divides : a.size ∣ 64
  aligned : a.ea.toNat % a.size = 0

namespace OnePiece

variable {s : State} {a : State.Acc}

theorem pos (one : OnePiece a) : 0 < a.size := Nat.pos_of_dvd_of_pos one.divides (by decide)

theorem pieces (one : OnePiece a) : State.Acc.pieces a 0 = [⟨a.ea, 0, a.size, false, 0⟩] := by
  rw [State.Acc.pieces, cellPieces_one one.pos (aligned_fits one.divides one.aligned)]

theorem early_of_far {s : State} {a : State.Acc} (one : OnePiece a) (long : a.long = true) (far : 0x60000 ≤ a.ea.toNat) :
    s.checkEarly a = if canonical a.ea = true ∧ s.ctx.c.ptroot.getLsbD 0 = true then none else some (State.Acc.accCause a, a.ea) := by
  have outside : decide (windowEnd ≤ a.ea.toNat) = true := decide_eq_true far
  simp only [State.checkEarly, long, Bool.not_true, Bool.false_and, Bool.false_eq_true, if_false, one.align, one.aligned, ne_eq,
    not_true_eq_false, one.pieces, List.any_cons, List.any_nil, Bool.or_false, outside, Bool.true_and]
  cases canonical a.ea <;> cases s.ctx.c.ptroot.getLsbD 0 <;> rfl

theorem early_of_near (one : OnePiece a) (near : a.ea.toNat + a.size ≤ 0x60000) : s.checkEarly a = none := by
  have inside : State.inWindow a.ea a.size = true := decide_eq_true near
  have pos := one.pos
  have outside : decide (windowEnd ≤ a.ea.toNat) = false := decide_eq_false (show ¬ 0x60000 ≤ a.ea.toNat by omega)
  simp only [State.checkEarly, inside, Bool.not_true, Bool.and_false, Bool.false_eq_true, if_false, one.align, one.aligned, ne_eq,
    not_true_eq_false, one.pieces, List.any_cons, List.any_nil, Bool.or_false, outside, Bool.false_and]

/-- What the later checks come to for an access of the window. -/
theorem late_of_near (one : OnePiece a) (near : a.ea.toNat + a.size ≤ 0x60000) (plain : a.sync = false) :
    s.checkLate a 0 = if s.turn.mode = .t ∧ s.inRecords s.cur.nib a.ea.toNat = true then .trap (State.Acc.accCause a) a.ea
      else if s.blockBusy s.cur.nib a.ea.toNat a.size = true then .trap causeBLKNRDY a.ea
      else .ok [s.ownPiece ⟨a.ea, 0, a.size, false, 0⟩] := by
  have pos := one.pos
  have lt : a.ea.toNat < windowEnd := show a.ea.toNat < 0x60000 by omega
  have within : decide (0x60000 ≤ a.ea.toNat) = false := decide_eq_false (Nat.not_le.2 lt)
  have own : unitOf (wellPA s.cur.nib a.ea.toNat) = .well s.cur.nib a.ea.toNat := unitOf_wellPA _ (Nat.lt_of_lt_of_le lt (by decide))
  rw [State.checkLate, one.pieces, lookAll_local (fun r hr => by rw [List.mem_singleton.1 hr]; exact lt)]
  simp only [List.reverse_nil, List.nil_append, List.map_cons, List.map_nil, List.any_cons, List.any_nil, Bool.or_false, plain,
    Bool.false_and, State.ownPiece, State.refusedOf, State.ownWell, own, if_true, within, Bool.false_or]
  cases s.turn.mode <;> simp

end OnePiece

/-! ## The answer of an access -/

theorem access_of_trap {s : State} {a : State.Acc} {sl : Fin 16} {c : BitVec 8} (room : s.sealFull sl = false)
    (trap : s.checkAll [(a, 0)] [] = .trap c a.ea) (code : Fin 4) (act : State → List Range → State) :
    s.access ⟨[(a, 0)], sl, false, code⟩ act = s.dropAnswers.raise c a.ea := by
  rw [State.access, room, Bool.or_false, if_neg Bool.false_ne_true, trap]

theorem access_of_locked {s : State} {a : State.Acc} {sl : Fin 16} {rs : List Range} (room : s.sealFull sl = false)
    (ok : s.checkAll [(a, 0)] [] = .ok rs) (locked : s.lockedPieces rs = true) (code : Fin 4)
    (act : State → List Range → State) : s.access ⟨[(a, 0)], sl, false, code⟩ act = s.dropAnswers.waitMsg := by
  rw [State.access, room, Bool.or_false, if_neg Bool.false_ne_true, ok]
  exact if_pos (show s.dropAnswers.lockedPieces rs = true from locked)

theorem checkAll_of_early {s : State} {a : State.Acc} {c : BitVec 8} (early : s.checkEarly a = some (c, a.ea)) :
    s.checkAll [(a, 0)] [] = .trap c a.ea := by rw [State.checkAll, early]

theorem checkAll_of_late {s : State} {a : State.Acc} {c : BitVec 8} (early : s.checkEarly a = none)
    (late : s.checkLate a 0 = .trap c a.ea) : s.checkAll [(a, 0)] [] = .trap c a.ea := by rw [State.checkAll, early, late]

theorem checkAll_of_ok {s : State} {a : State.Acc} {rs : List Range} (early : s.checkEarly a = none)
    (late : s.checkLate a 0 = .ok rs) : s.checkAll [(a, 0)] [] = .ok rs := by
  rw [State.checkAll, early, late]
  rfl

/-! ## Scalar loads and stores -/

/-- The access of a scalar load or store. -/
def State.scalarAcc (s : State) (a : Fin 32) (m : Fin 4) (sl : Fin 16) (i : BitVec 10) (n : Nat) (store : Bool) : State.Acc :=
  ⟨s.ea a m i n, n, n, store, sl != 0, true, false, false⟩

/-- The instruction makes this one access. -/
def State.Makes (s : State) (ins : Instr) (sl : Fin 16) (a : State.Acc) : Prop :=
  ∃ code act, exec ins s = .next (s.access ⟨[(a, 0)], sl, false, code⟩ act)

section
variable {s : State} {d a : Fin 32} {m : Fin 4} {sl : Fin 16} {i : BitVec 10} {ins : Instr} {n : Nat} {store : Bool}

theorem makes_load {sgn : Bool} (run : exec ins s = s.loadScalar d a m sl i n sgn)
    (clear : s.Clear (.g d :: State.eaSrcs a m i) (.g d :: State.eaDsts a m) (sl != 0)) :
    s.Makes ins sl (s.scalarAcc a m sl i n false) := by
  rw [State.loadScalar, guarded_of_clear (by exact ⟨fun x hx => clear.1 x (List.mem_cons_of_mem _ hx), clear.2⟩)] at run
  exact ⟨_, _, run⟩

theorem makes_store (run : exec ins s = s.storeScalar d a m sl i n)
    (clear : s.Clear (.g d :: State.eaSrcs a m i) (.g d :: State.eaDsts a m) (sl != 0)) :
    s.Makes ins sl (s.scalarAcc a m sl i n true) := by
  rw [State.storeScalar, guarded_of_clear (by exact ⟨clear.1, fun x hx => clear.2 x (List.mem_cons_of_mem _ hx)⟩)] at run
  exact ⟨_, _, run⟩

/-- What the checks say of one instruction. -/
def State.ChecksSay (s : State) (sl : Fin 16) (ins : Instr) (ea : Word) (n : Nat) (store : Bool) : Prop :=
  let traps := fun (c : BitVec 8) => exec ins s = .next (s.dropAnswers.raise c ea)
  (sl = 0 → 0x60000 < ea.toNat + n → traps 0x0E) ∧
  (sl ≠ 0 ∨ ea.toNat + n ≤ 0x60000 →
    (ea.toNat % n ≠ 0 → traps (if store then 0x06 else 0x04)) ∧
    (ea.toNat % n = 0 → 0x60000 ≤ ea.toNat →
      (¬ ((∀ j : Nat, 51 ≤ j → j < 64 → ea.getLsbD j = false) ∨ ∀ j : Nat, 51 ≤ j → j < 64 → ea.getLsbD j = true) ∨
        s.ctx.c.ptroot.getLsbD 0 = false) → traps (if store then 0x07 else 0x05)) ∧
    (ea.toNat % n = 0 → ea.toNat + n ≤ 0x60000 →
      (s.turn.mode = .t → s.cnib.ctxEn = true → 0x4C000 ≤ ea.toNat → traps (if store then 0x07 else 0x05)) ∧
      (s.turn.mode ≠ .t →
        (∃ b ∈ s.cnib.blocks, b.state ≠ 2 ∧ b.addr < ea.toNat + n ∧ ea.toNat < b.addr + 256 * b.lines) → traps 0x0D) ∧
      (s.turn.mode ≠ .t → s.cnib.blocks = [] →
        (∃ l ∈ s.cnib.locks, l.owner ≠ s.cur.k ∧ l.base < ea.toNat + n ∧ ea.toNat < l.base + l.len) →
        exec ins s = .next s.dropAnswers.waitMsg)))

theorem checksSay_of_makes (divides : n ∣ 64) (room : s.sealFull sl = false) (makes : s.Makes ins sl (s.scalarAcc a m sl i n store)) :
    s.ChecksSay sl ins (s.ea a m i n) n store := by
  obtain ⟨code, act, run⟩ := makes
  have pos : 0 < n := Nat.pos_of_dvd_of_pos divides (by decide)
  have traps : ∀ {c : BitVec 8}, s.checkAll [(s.scalarAcc a m sl i n store, 0)] [] = .trap c (s.ea a m i n) →
      exec ins s = .next (s.dropAnswers.raise c (s.ea a m i n)) := fun trap =>
    run.trans (congrArg Host.Outcome.next (access_of_trap room trap code act))
  have one : (s.ea a m i n).toNat % n = 0 → OnePiece (s.scalarAcc a m sl i n store) := fun aligned => ⟨rfl, divides, aligned⟩
  refine ⟨fun short far => traps (checkAll_of_early ?_), fun reaches => ⟨fun odd => traps (checkAll_of_early ?_),
    fun aligned far bad => traps (checkAll_of_early ?_), fun aligned near => ⟨fun mode on area => traps ?_, fun mode busy => traps ?_,
      fun mode none locked => ?_⟩⟩⟩
  · subst short
    have out : State.inWindow (s.ea a m i n) n = false := decide_eq_false (Nat.not_le.2 far)
    simp only [State.checkEarly, State.scalarAcc, out]
    rfl
  · have form : (!(sl != 0) && !State.inWindow (s.ea a m i n) n) = false := by
      rcases reaches with long | near
      · rw [bne_zero_of_ne long]; rfl
      · rw [State.inWindow, decide_eq_true (show _ ≤ windowEnd from near)]; exact Bool.and_false _
    simp only [State.checkEarly, State.scalarAcc, form, Bool.false_eq_true, if_false, ne_eq, odd, not_false_eq_true, if_true]
    cases store <;> rfl
  · have long : sl ≠ 0 := reaches.resolve_right (by omega)
    rw [(one aligned).early_of_far (bne_zero_of_ne long) far]
    refine (if_neg fun h => ?_).trans (by cases store <;> rfl)
    rcases bad with bad | off
    · exact bad ((canonical_iff _).1 h.1)
    · exact Bool.false_ne_true (off.symm.trans h.2)
  · have records : s.inRecords s.cur.nib (s.ea a m i n).toNat = true := by
      rw [State.inRecords, show (s.nib s.cur.nib).ctxEn = true from on, decide_eq_true area]; rfl
    refine checkAll_of_late ((one aligned).early_of_near near) (((one aligned).late_of_near near rfl).trans ((if_pos ⟨mode, records⟩).trans ?_))
    cases store <;> rfl
  · have busy : s.blockBusy s.cur.nib (s.ea a m i n).toNat n = true := by
      obtain ⟨b, mem, state, lo, hi⟩ := busy
      exact List.any_eq_true.2 ⟨b, mem, by simp [state, lo, hi]⟩
    exact checkAll_of_late ((one aligned).early_of_near near)
      (((one aligned).late_of_near near rfl).trans ((if_neg fun h => mode h.1).trans (if_pos busy)))
  · have idle : s.blockBusy s.cur.nib (s.ea a m i n).toNat n = false := by
      rw [State.blockBusy, show (s.nib s.cur.nib).blocks = [] from none]
      rfl
    have held : s.lockedPieces [s.ownPiece ⟨s.ea a m i n, 0, n, false, 0⟩] = true := by
      obtain ⟨l, mem, owner, lo, hi⟩ := locked
      have own := ownWell_ownPiece (s := s) (r := ⟨s.ea a m i n, 0, n, false, 0⟩) (show _ < windowEnd by
        show (s.ea a m i n).toNat < 0x60000
        omega)
      rw [State.lockedPieces, List.any_cons, own]
      simp only [List.any_nil, Bool.or_false]
      exact List.any_eq_true.2 ⟨l, mem, by simp [owner, lo, hi, State.ownPiece]⟩
    refine run.trans (congrArg Host.Outcome.next (access_of_locked room (checkAll_of_ok ((one aligned).early_of_near near)
      (((one aligned).late_of_near near rfl).trans ((if_neg fun h => mode h.1).trans (if_neg ?_)))) held code act))
    exact Bool.eq_false_iff.1 idle

end

theorem accessChecks : Claims.AccessChecks := by
  intro s d a m sl i short long room
  have clear : s.Clear (.g d :: State.eaSrcs a m i) (.g d :: State.eaDsts a m) (sl != 0) := by
    by_cases form : sl = 0
    · subst form; exact short rfl
    · rw [bne_zero_of_ne form]; exact long form
  have load : ∀ {ins : Instr} {n : Nat} {sgn : Bool}, n ∣ 64 → exec ins s = s.loadScalar d a m sl i n sgn →
      s.ChecksSay sl ins (s.ea a m i n) n false := fun divides run => checksSay_of_makes divides room (makes_load run clear)
  have store : ∀ {ins : Instr} {n : Nat}, n ∣ 64 → exec ins s = s.storeScalar d a m sl i n →
      s.ChecksSay sl ins (s.ea a m i n) n true := fun divides run => checksSay_of_makes divides room (makes_store run clear)
  simp only [List.forall_mem_cons]
  exact ⟨load (sgn := true) (by decide) rfl, load (sgn := true) (by decide) rfl, load (sgn := true) (by decide) rfl,
    load (sgn := false) (by decide) rfl, load (sgn := false) (by decide) rfl, load (sgn := false) (by decide) rfl,
    load (sgn := false) (by decide) rfl, store (by decide) rfl, store (by decide) rfl, store (by decide) rfl, store (by decide) rfl,
    fun _ h => absurd h List.not_mem_nil⟩

/-! ## The walk -/

/-- What the walk makes of the entry `e` of a table at the level above `level`. -/
def State.walkEntry (s : State) (p : Fin 16) (va : Nat) (store : Bool) (e level : Nat) : Walk :=
  if e % 2 = 1 then
    if e / 64 % 2 ^ 10 = 0 ∧ e / 8 % 2 = 0 then
      if e / 2 % 2 = 1 then
        if (level = 0 ∨ level = 1 ∧ e / 2 ^ 16 % 2 ^ 32 % 4096 = 0 ∧ e / 16 % 4 < 2) ∧
            homeOk (e / 16 % 4) (e / 2 ^ 48) (e / 2 ^ 16 % 2 ^ 32 * 0x10000) = true ∧ (store = true → e / 4 % 2 = 1) then
          .ok (e / 2 ^ 16 % 2 ^ 32 * 0x10000 + va % 2 ^ (16 + 12 * level)) (decide (level = 1))
            (BitVec.ofNat 32 (e / 2 ^ 16 % 2 ^ 32)) (BitVec.ofNat 2 (e / 16)) (decide (e / 4 % 2 = 1))
        else .precise
      else if level ≠ 0 ∧ e / 4 % 2 = 0 ∧ e / 16 % 4 = 0 ∧ e / 2 ^ 48 = 0 then s.walkFrom p va store (e / 2 ^ 16 % 2 ^ 32) level
      else .precise
    else .precise
  else if e / 2 % 2 = 1 then .replay else .precise

theorem walkFrom_of_bad {s : State} {p : Fin 16} {frame : Nat} (bad : s.tableOk p frame = false) (va : Nat) (store : Bool)
    (level : Nat) : s.walkFrom p va store frame (level + 1) = .precise := by
  rw [State.walkFrom, bad]
  rfl

theorem walkFrom_of_ok {s : State} {p : Fin 16} {frame : Nat} (ok : s.tableOk p frame = true) (va : Nat) (store : Bool)
    {level : Nat} (bound : level ≤ 2) : s.walkFrom p va store frame (level + 1) =
      s.walkEntry p va store (Memory.read s.mem (frame * 0x10000 + 8 * (va / 2 ^ (16 + 12 * level) % 4096)) 8) level := by
  rw [State.walkFrom, ok, State.walkEntry]
  dsimp only
  generalize Memory.read s.mem (frame * 0x10000 + 8 * (va / 2 ^ (16 + 12 * level) % 4096)) 8 = e
  have home : BitVec.ofNat 2 (e / 16 % 4) = BitVec.ofNat 2 (e / 16) := BitVec.eq_of_toNat_eq (by simp)
  rw [home]
  by_cases valid : e % 2 = 1
  · rw [if_pos valid]
    by_cases tidy : e / 64 % 2 ^ 10 = 0 ∧ e / 8 % 2 = 0
    · rw [if_pos tidy]
      by_cases leaf : e / 2 % 2 = 1
      · rw [if_pos leaf]
        generalize homeOk (e / 16 % 4) (e / 2 ^ 48) (e / 2 ^ 16 % 2 ^ 32 * 0x10000) = there
        obtain rfl | rfl | rfl : level = 0 ∨ level = 1 ∨ level = 2 := by omega
        · by_cases w : e / 4 % 2 = 1 <;> cases there <;> cases store <;> simp_all
        · by_cases shape : e / 2 ^ 16 % 2 ^ 32 % 4096 = 0 ∧ e / 16 % 4 < 2
          · by_cases w : e / 4 % 2 = 1 <;> cases there <;> cases store <;> simp_all
          · have beyond : (decide (e / 2 ^ 16 % 2 ^ 32 % 4096 ≠ 0) || decide (2 ≤ e / 16 % 4)) = true := by
              simp only [ne_eq, Bool.or_eq_true, decide_eq_true_eq]
              omega
            simp only [valid, tidy.1, tidy.2, leaf, beyond, decide_true, ne_eq, not_true_eq_false, decide_false, Bool.not_true, Bool.or_self,
              Bool.true_and, Bool.false_eq_true, if_false, if_true, if_neg (show ¬ (1 : Nat) = 2 by decide)]
            exact (if_neg fun h => shape (h.1.resolve_left (by decide)).2).symm
        · simp_all
      · rw [if_neg leaf]
        by_cases w : e / 4 % 2 = 1 <;> by_cases top : level = 0 <;> by_cases h : e / 16 % 4 = 0 <;> simp_all
    · rw [if_neg tidy]
      simp only [valid, decide_true, Bool.not_true, Bool.false_eq_true, if_false]
      exact if_pos (by
        simp only [ne_eq, Bool.or_eq_true, decide_eq_true_eq]
        omega)
  · rw [if_neg valid]
    simp [valid]

theorem pageWalk : Claims.PageWalk := by
  refine ⟨fun s p root va store => rfl, fun s p va frame e level store lo hi entry => ?_⟩
  obtain ⟨level, rfl⟩ := Nat.exists_eq_succ_of_ne_zero (Nat.pos_iff_ne_zero.1 lo)
  have width : 4 + 12 * (level + 1) = 16 + 12 * level := by omega
  rw [width] at entry ⊢
  intro next clean leaf
  have sees : s.tableOk p frame = true → s.walkFrom p va store frame (level + 1) = s.walkEntry p va store e level := fun ok => by
    rw [walkFrom_of_ok ok va store (by omega), ← entry]
  have leaf_iff : leaf ↔ level = 0 ∨ level = 1 ∧ e / 2 ^ 16 % 2 ^ 32 % 4096 = 0 ∧ e / 16 % 4 < 2 :=
    or_congr (by omega) (and_congr_left' (by omega))
  refine ⟨fun bad => walkFrom_of_bad bad va store level, fun ok => ?_⟩
  rw [sees ok, State.walkEntry]
  refine ⟨fun invalid => ?_, fun valid dirty => ?_, fun valid tidy pointer => ⟨fun deeper w home id => ?_, fun other => ?_⟩,
    fun valid tidy isLeaf => ⟨fun other => ?_, fun shape home w => ?_⟩⟩
  · rw [if_neg (by omega)]
  · rw [if_pos valid, if_neg dirty]
  · rw [if_pos valid, if_pos tidy, if_neg (by omega), if_pos ⟨by omega, w, home, id⟩]
    rfl
  · rw [if_pos valid, if_pos tidy, if_neg (by omega), if_neg (by omega)]
  · rw [if_pos valid, if_pos tidy, if_pos isLeaf]
    refine if_neg fun h => ?_
    obtain ⟨shape, home, w⟩ := h
    rcases other with h | h | h
    · exact h (leaf_iff.2 shape)
    · exact Bool.false_ne_true (h.symm.trans home)
    · have := w h.1
      omega
  · rw [if_pos valid, if_pos tidy, if_pos isLeaf, if_pos ⟨leaf_iff.1 shape, home, w⟩, Bool.decide_congr (show level = 1 ↔ level + 1 = 2 by omega)]

/-- Settles O29: an access of a scalar has one piece, on which each check is decided; and a step of the walk is what its entry says. -/
theorem translationAndChecks : Obligations.TranslationAndChecks := ⟨accessChecks, pageWalk⟩

end Sys2Proof.Machine
end

section
/-! SUPPORT. Accesses performed at their homes, and operations that land on their context (02_lines.md R60, 06_memory.md R143,
R150, R157, 07_ordering.md R180 to R185). -/

namespace Sys2Proof.Machine

open Sys2Proof

/-! ## Landing on a context -/

/-- An operation has landed where its context's registers hold its results and its post, and nothing else has changed. -/
theorem landed_of_post {s t : State} {o : Op} {k : Fin 8} {r : Regs} (regs : (t.stroke o.nib k).ctx.r = r.post o.sl o.tmax)
    (gone : t.ops = s.ops.filter (·.id != o.id)) (mem : t.mem = s.mem)
    (others : ∀ m j, (m, j) ≠ (o.nib, k) → t.stroke m j = s.stroke m j)
    (seqs : (t.stroke o.nib k).ctx.seqs = (s.stroke o.nib k).ctx.seqs)
    (inflight : (t.stroke o.nib k).ctx.inflight = (s.stroke o.nib k).ctx.inflight) : Landed s t o k r := by
  by_cases none : o.sl = 0
  · have same : r.post o.sl o.tmax = r := if_pos none
    rw [same] at regs
    exact ⟨by rw [regs], fun some => absurd none some, fun x _ => by rw [regs], gone, mem, others, seqs, inflight⟩
  · have posts : r.post o.sl o.tmax = r.modSeal o.sl (fun y => ⟨y.count + 1, y.pend - 1, Clk.max y.clk o.tmax⟩) := if_neg none
    rw [posts] at regs
    refine ⟨by rw [regs]; rfl, fun _ => ?_, fun x other => ?_, gone, mem, others, seqs, inflight⟩
    · rw [regs]
      exact Vector.getElem_set_self _
    · rw [regs]
      exact Vector.getElem_set_ne o.sl.isLt x.isLt (fun e => other (Fin.ext e.symm))

/-- The registers after results have arrived. -/
def Regs.arriveAll (r : Regs) (ws : List RegWrite) : Regs := ws.foldl Regs.arrive r

/-- What landing does to the context. -/
def Ctx.landed (o : Op) (ws : List RegWrite) (e : Ev) (c : Ctx) : Ctx :=
  Ctx.count { c with r := (c.r.arriveAll ws).post o.sl o.tmax } e

section
variable {s : State} {o : Op} {k : Fin 8}

theorem modCid_of_resides (res : s.Resides o.nib o.cid k) (f : Ctx → Ctx) : s.modCid o.nib o.cid f = s.modCtxAt o.nib k f :=
  modCid_of_resident res.1 res.2 f

theorem landOp_eq (res : s.Resides o.nib o.cid k) (ws : List RegWrite) (e : Ev) :
    s.landOp o ws e = (s.modCtxAt o.nib k (Ctx.landed o ws e)).dropOp o.id := by
  rw [State.landOp, modCid_of_resides res]
  rfl

/-- A change of the context that holds its results and its post, with the operation gone, is its landing. -/
theorem landed_of_modCtxAt (f : Ctx → Ctx) {r : Regs} (regs : (f (s.stroke o.nib k).ctx).r = r.post o.sl o.tmax)
    (seqs : (f (s.stroke o.nib k).ctx).seqs = (s.stroke o.nib k).ctx.seqs)
    (inflight : (f (s.stroke o.nib k).ctx).inflight = (s.stroke o.nib k).ctx.inflight) :
    Landed s ((s.modCtxAt o.nib k f).dropOp o.id) o k r := by
  have ctx : (((s.modCtxAt o.nib k f).dropOp o.id).stroke o.nib k).ctx = f (s.stroke o.nib k).ctx := ctx_modCtxAt_same ..
  exact landed_of_post (by rw [ctx, regs]) rfl rfl (fun m j h => stroke_modCtxAt_ne' s o.nib k f h) (by rw [ctx, seqs])
    (by rw [ctx, inflight])

theorem landed_of_landOp (res : s.Resides o.nib o.cid k) (ws : List RegWrite) (e : Ev) :
    Landed s (s.landOp o ws e) o k ((s.stroke o.nib k).ctx.r.arriveAll ws) := by
  rw [landOp_eq res]
  exact landed_of_modCtxAt _ rfl rfl rfl

theorem resides_of_strokes {t : State} (same : ∀ n k, t.stroke n k = s.stroke n k) {n : NibId} {cid : Nat}
    (res : s.Resides n cid k) : t.Resides n cid k := by
  have has : ∀ j, t.hasCid n j cid = s.hasCid n j cid := fun j => by rw [State.hasCid, State.hasCid, same]
  exact ⟨(has k).trans res.1, fun j lt => (has j).trans (res.2 j lt)⟩

end

/-- A change of the context that keeps its number leaves it where it resides. -/
theorem resides_modCtxAt {s : State} {n : NibId} {cid : Nat} {k : Fin 8} (res : s.Resides n cid k) {f : Ctx → Ctx}
    (keeps : ∀ c, (f c).cid = c.cid) : (s.modCtxAt n k f).Resides n cid k := by
  have has : ∀ j, (s.modCtxAt n k f).hasCid n j cid = s.hasCid n j cid := fun j => by
    by_cases here : j = k
    · subst here
      rw [State.hasCid, State.hasCid, ctx_modCtxAt_same, keeps]
      simp [State.modCtxAt]
    · rw [State.hasCid, State.hasCid, stroke_modCtxAt_ne' s n k f (fun e => here (congrArg Prod.snd e))]
  exact ⟨(has k).trans res.1, fun j lt => (has j).trans (res.2 j lt)⟩

/-- A queue load fills its slot. -/
def Ctx.fillQueue (op x : Nat) (clk : Clk) (c : Ctx) : Ctx :=
  { c with x := { c.x with ax := fillSlot c.x.ax op (BitVec.ofNat 1024 x) clk } }

/-- What the landing of a queue load does to the context. -/
def Ctx.queueLanded (o : Op) (op x : Nat) (c : Ctx) : Ctx := Ctx.landed o [] 0 (Ctx.fillQueue op x o.tmax c)

theorem longAccessesLand : Claims.LongAccessesLand := by
  intro s id o k use todo x w found hid kind performed posts res r lands
  have run : exec (.longAccessComplete id) s = _ := show execLongAccessComplete id s = _ from rfl
  have cond : (o.performed && o.sl != 0) = true := by rw [performed, bne_zero_of_ne posts]; rfl
  rw [execLongAccessComplete, found] at run
  dsimp only at run
  rw [kind] at run
  dsimp only at run
  rw [if_pos cond] at run
  have lands' : ∀ {ws : List RegWrite} {e : Ev}, exec (.longAccessComplete id) s = .next (s.landOp o ws e) → lands (r.arriveAll ws) :=
    fun run => ⟨_, run, landed_of_landOp res _ _⟩
  refine ⟨?_, ?_, ?_, ?_, ?_, ?_, ?_, ?_, ?_⟩
  · rintro d size rfl
    exact lands' run
  · rintro d size rfl
    exact lands' run
  · rintro d rfl
    exact lands' run
  · rintro rfl
    exact lands' run
  · rintro p e rfl
    exact lands' run
  · rintro d n op y c rfl
    exact lands' run
  · rintro d (rfl | rfl)
    · exact lands' run
    · exact lands' run
  · rintro d (rfl | rfl)
    · exact lands' run
    · exact lands' run
  · rintro rfl
    rw [modCid_of_resides res] at run
    have still : (s.modCtxAt o.nib k (Ctx.fillQueue id x o.tmax)).Resides o.nib o.cid k := resides_modCtxAt res (fun _ => rfl)
    have run : exec (.longAccessComplete id) s =
        .next (((s.modCtxAt o.nib k (Ctx.fillQueue id x o.tmax)).modCtxAt o.nib k (Ctx.landed o [] 0)).dropOp o.id) :=
      run.trans (congrArg Host.Outcome.next (landOp_eq still [] 0))
    rw [State.modCtxAt_modCtxAt] at run
    exact ⟨_, run, landed_of_modCtxAt (Ctx.queueLanded o id x) rfl rfl rfl,
      congrArg (fun c : Ctx => c.x.ax) (ctx_modCtxAt_same s o.nib k (Ctx.queueLanded o id x))⟩

/-! ## Accesses at their homes -/

/-- The operations and the strokes stand as they did. -/
structure OpsStand (s t : State) : Prop where
  ops : t.ops = s.ops
  strokes : ∀ n k, t.stroke n k = s.stroke n k

section
variable {s : State}

theorem OpsStand.findOp {t : State} (h : OpsStand s t) (id : Nat) : t.findOp id = s.findOp id := by
  rw [State.findOp, h.ops]
  rfl

theorem writeStamp_mem (s : State) (pa : Nat) (lc : Clk) : (s.writeStamp pa lc).2.mem = s.mem := rfl

theorem readStamp_mem (s : State) (pa : Nat) (lc : Clk) (l : Nat) : (s.readStamp pa lc l).2.mem = s.mem := rfl

theorem stroke_modNib_of_keeps (s : State) (n m : NibId) (k : Fin 8) {f : Nib → Nib} (keeps : ∀ b, (f b).strokes = b.strokes) :
    (s.modNib n f).stroke m k = s.stroke m k := by
  by_cases here : m = n
  · subst here
    rw [State.stroke, State.stroke, State.nib_modNib_same, keeps]
  · rw [State.stroke, State.stroke, State.nib_modNib_ne _ _ _ _ here]

/-- The nib keeps a copy of a cell, in the place of an older one. -/
def Nib.withCopy (c : Copy) (b : Nib) : Nib := { b with copies := c :: b.copies.filter (·.cell != c.cell) }

/-- What a sequencer's read of one piece leaves alone, and gives. -/
theorem seqRead_frame (s : State) (n : NibId) (r old : Range) (lc : Clk) :
    OpsStand s (s.seqRead n r old lc).2.2 ∧ (s.seqRead n r old lc).2.2.mem = s.mem ∧
      (∀ c, old.cache = true → s.copyOf n old.pa lc = some c →
        (s.seqRead n r old lc).1 = c.data.toNat / 2 ^ (8 * (old.pa % 64)) % 2 ^ (8 * r.size)) ∧
      (old.cache = false ∨ s.copyOf n old.pa lc = none → (s.seqRead n r old lc).1 = Memory.read s.mem r.pa r.size) := by
  rw [State.seqRead]
  split
  · next c copy =>
    refine ⟨⟨rfl, fun _ _ => rfl⟩, rfl, fun d cached held => ?_, fun none => ?_⟩
    · rw [if_pos cached, held, Option.some.injEq] at copy
      rw [copy]
    · rcases none with off | none
      · rw [if_neg (by rw [off]; exact Bool.false_ne_true)] at copy
        exact absurd copy (by simp)
      · rw [none, ite_self] at copy
        exact absurd copy (by simp)
  · next copy =>
    have home : ∀ c, old.cache = true → s.copyOf n old.pa lc ≠ some c := fun c cached held => by
      rw [if_pos cached, held] at copy
      exact absurd copy (by simp)
    dsimp only
    split
    · refine ⟨⟨rfl, fun m k => ?_⟩, rfl, fun c cached held => absurd held (home c cached), fun _ => rfl⟩
      refine Eq.trans ?_ (show (s.readStamp r.pa lc (s.leaseOf n r)).2.stroke m k = s.stroke m k from rfl)
      generalize (s.readStamp r.pa lc (s.leaseOf n r)).2 = u
      exact stroke_modNib_of_keeps u n m k (f := Nib.withCopy ⟨r.pa / 64 * 64, BitVec.ofNat 512 (Memory.read u.mem (r.pa / 64 * 64) 64),
        (u.stampOf (r.pa / 64 * 64)).1, (u.stampOf (r.pa / 64 * 64)).2⟩) fun _ => rfl
    · exact ⟨⟨rfl, fun _ _ => rfl⟩, rfl, fun c cached held => absurd held (home c cached), fun _ => rfl⟩

theorem accessDone_mem (s : State) (id : Nat) : (s.accessDone id).mem = s.mem := rfl

/-- The operation that has performed its last access. -/
theorem findOp_accessDone {o : Op} {id : Nat} (found : s.findOp id = some o) :
    ∃ c, (s.accessDone id).findOp id = some { o with performed := true, due := c } := by
  obtain ⟨c, -, free⟩ := freeCycle_none s s.cycle
  have ends : s.accessDone id = ({ s with fresh := s.fresh + 1 } : State).modOp id (fun o => { o with performed := true, due := c }) := by
    rw [State.accessDone, free]
  rw [ends]
  exact ⟨c, findOp_modOp (s := { s with fresh := s.fresh + 1 }) found (by exact fun _ => rfl)⟩

/-- The operation after a piece of its access. -/
def Op.pieceTaken (clk : Clk) (use : Use) (rest : List Range) (x : Nat) (o : Op) : Op :=
  { o with tmax := Clk.max o.tmax clk, kind := .access use rest x false }

/-- The end of the last piece of an access. -/
theorem pieceDone {o : Op} {id : Nat} {k : Fin 8} {t : State} (found : s.findOp id = some o) (res : s.Resides o.nib o.cid k)
    (stands : OpsStand s t) (clk : Clk) (use : Use) (x : Nat) :
    let u := ((t.setOpLc o clk).modOp o.id (Op.pieceTaken clk use [] x)).accessDone o.id
    u.mem = t.mem ∧ ∃ p, u.findOp id = some p ∧ p.performed = true ∧ p.kind = .access use [] x false := by
  have moved : t.setOpLc o clk = t.modCtxAt o.nib k _ := modCid_of_resides (resides_of_strokes stands.strokes res) _
  obtain rfl := id_of_findOp found
  have stays : (t.setOpLc o clk).findOp o.id = some o := by
    rw [moved]
    exact (stands.findOp o.id).trans found
  obtain ⟨c, last⟩ := findOp_accessDone (findOp_modOp (f := Op.pieceTaken clk use [] x) stays (by exact fun _ => rfl))
  exact ⟨by rw [accessDone_mem, moved]; rfl, _, last, rfl, rfl⟩

theorem performPiece_store {o : Op} {r : Range} (plain : State.isControl r.pa = false) (old : Range) (data : Nat) :
    s.performPiece o .store r old data = (data, (s.writeStamp r.pa (s.opLc o)).1,
      { (s.writeStamp r.pa (s.opLc o)).2 with mem := Memory.write s.mem r.pa r.size (data / 2 ^ (8 * r.at_)) }) := by
  rw [State.performPiece]
  exact if_neg (by rw [plain]; exact Bool.false_ne_true)

/-- The last piece of an access of the plain uses. -/
theorem accessStep_last {o : Op} {use : Use} {r : Range} {data : Nat} (kind : o.kind = .access use [r] data false)
    (new : o.performed = false) (due : o.due ≤ s.cycle) (free : s.behindOther o = false)
    (plain : (∀ k d, use ≠ .sync k d) ∧ ∀ p e, use ≠ .pub p e) (again : Instr) :
    s.accessStep o again =
      let x := s.performPiece o use (s.pieceNow o.nib (s.engFor o.nib o.cid).1 (s.engFor o.nib o.cid).2 r false)
        (s.pieceAt o.nib (s.engFor o.nib o.cid).1 r (s.opLc o)) data
      ((x.2.2.setOpLc o x.2.1).modOp o.id (Op.pieceTaken x.2.1 use [] x.1)).accessDone o.id := by
  rw [State.accessStep, kind]
  dsimp only
  rw [new, if_neg (by simp), if_neg (Nat.not_lt.2 due), free, if_neg Bool.false_ne_true]
  cases use with
  | sync k d => exact absurd rfl (plain.1 k d)
  | pub p e => exact absurd rfl (plain.2 p e)
  | _ => rfl

end

theorem homeAccesses : Claims.HomeAccesses := by
  intro s id o k use r q h data found kind res new awake due free home hq hh plain wf stored done i hi
  have run : exec i s = .next (s.accessStep o i) := by
    have event : s.homeEvent id i = s.accessStep o i := by
      rw [State.homeEvent, found]
      dsimp only
      rw [awake, home, if_neg (by decide), kind]
    rcases List.mem_cons.1 hi with rfl | hi
    · exact congrArg Host.Outcome.next event
    · obtain rfl := List.mem_singleton.1 hi
      exact congrArg Host.Outcome.next event
  have last := fun plain => accessStep_last (s := s) (o := o) kind new due free plain i
  rw [← hq, ← hh] at last
  have ends : ∀ {x : Nat × Clk × State}, ((∀ k d, use ≠ .sync k d) ∧ ∀ p e, use ≠ .pub p e) → s.performPiece o use q h data = x →
      OpsStand s x.2.2 → ∃ t, exec i s = .next t ∧ t.mem = x.2.2.mem ∧ done t x.1 := by
    intro x uses performs stands
    obtain ⟨mem, p, at_, gone, kind⟩ := pieceDone found res stands x.2.1 use x.1
    refine ⟨_, ?_, mem, p, at_, gone, kind⟩
    rw [run, last uses, performs]
  have stores : ∀ {t : State} {n x : Nat}, t.mem = Memory.write s.mem q.pa n x → stored t n x := fun mem =>
    ⟨fun j lt => by rw [mem, Memory.get_write_inside _ _ _ _ _ wf lt], fun b out => by rw [mem, Memory.get_write_outside _ _ _ _ _ wf out]⟩
  refine ⟨?_, ?_, ?_, ?_⟩
  · rintro rfl
    have performs := performPiece_store (s := s) (o := o) plain h data
    obtain ⟨t, run, mem, ends⟩ := ends (by simp) performs ⟨rfl, fun _ _ => rfl⟩
    exact ⟨t, run, stores mem, ends⟩
  · rintro d n op y c rfl
    obtain ⟨t, run, mem, ends⟩ := ends (by simp) rfl ⟨rfl, fun _ _ => rfl⟩
    exact ⟨t, run, stores mem, ends⟩
  · intro uses x cached uncached
    obtain ⟨stands, mem, copy, read⟩ := seqRead_frame s o.nib q h (s.opLc o)
    have plainUse : (∀ k d, use ≠ .sync k d) ∧ ∀ p e, use ≠ .pub p e := by
      rcases uses with ⟨d, n, sg, rfl⟩ | ⟨d, rfl⟩ | rfl <;> simp
    have performs : s.performPiece o use q h data = (data + (s.seqRead o.nib q h (s.opLc o)).1 * 2 ^ (8 * q.at_),
        (s.seqRead o.nib q h (s.opLc o)).2.1, (s.seqRead o.nib q h (s.opLc o)).2.2) := by
      rcases uses with ⟨d, n, sg, rfl⟩ | ⟨d, rfl⟩ | rfl
      · exact if_neg (by rw [plain]; exact Bool.false_ne_true)
      · exact if_neg (by rw [plain]; exact Bool.false_ne_true)
      · exact if_neg (by rw [plain]; exact Bool.false_ne_true)
    obtain ⟨t, run, same, ends⟩ := ends plainUse performs stands
    have value : (s.seqRead o.nib q h (s.opLc o)).1 = x := by
      by_cases held : h.cache = true ∧ (s.copyOf o.nib h.pa (s.opLc o)).isSome = true
      · obtain ⟨c, eq⟩ := Option.isSome_iff_exists.1 held.2
        rw [copy c held.1 eq, cached held.1 c eq]
      · have none : h.cache = false ∨ s.copyOf o.nib h.pa (s.opLc o) = none := by
          cases cache : h.cache
          · exact .inl rfl
          · exact .inr (Option.not_isSome_iff_eq_none.1 fun some => held ⟨cache, some⟩)
        rw [read none, uncached none]
    rw [← value]
    exact ⟨t, run, same.trans mem, ends⟩
  · intro c copy
    have holds := List.find?_some copy
    simp only [Bool.and_eq_true, beq_iff_eq] at holds
    obtain ⟨⟨cell, wts⟩, rc⟩ := holds
    exact ⟨List.mem_of_find?_eq_some copy, cell, wts, rc⟩

/-- Settles O31: an access's last piece is one read, one write or both at its home, after which its operation has been performed;
and a landing is one change of the context in which the operation resides. -/
theorem longAccessesArePerformed : Obligations.LongAccessesArePerformed := ⟨homeAccesses, longAccessesLand⟩

end Sys2Proof.Machine
end

section
/-! SUPPORT. Well blocks: how they start and end, and the bytes that they move (06_memory.md R158 to R160). -/

namespace Sys2Proof.Machine

open Sys2Proof

/-! ## The block instructions -/

section
variable {s : State}

theorem issueBlock_eq (t : State) (sl : Fin 16) (addr lines : Nat) (va : Word) (cells : List Range) (drain : Bool) :
    ∃ c, t.turnCycle 2 ≤ c ∧ t.issueBlock sl addr lines va cells drain =
      ((t.sendOp sl (.block addr cells drain) c (if drain then .homeWrite t.nextId else .homeRead t.nextId)).lands
        [(1, .blockSet addr lines va (if drain then 3 else 1) t.nextId), (1, .sealPend sl)]).retire :=
  ⟨_, Nat.le_add_right .., rfl⟩

/-- A fill or drain that an instruction starts. -/
theorem issueBlock_frame (s : State) (sl : Fin 16) (addr lines : Nat) (va : Word) (cells : List Range) (drain : Bool) :
    let t := s.dropAnswers.issueBlock sl addr lines va cells drain
    t.mem = s.mem ∧ Sent s t s.dropAnswers.ops sl (.block addr cells drain) (s.turnCycle 2) (if drain then .homeWrite else .homeRead) ∧
      Retired s t [(1, .blockSet addr lines va (if drain then 3 else 1) s.nextId), (1, .sealPend sl)] := by
  intro t
  obtain ⟨c, late, eq⟩ := issueBlock_eq s.dropAnswers sl addr lines va cells drain
  have eq : t = _ := eq
  have ev : (if drain then Instr.homeWrite else Instr.homeRead) s.dropAnswers.nextId =
      if drain then .homeWrite s.dropAnswers.nextId else .homeRead s.dropAnswers.nextId := by cases drain <;> rfl
  have before := Sending.dropAnswers s
  have sent := before.sent rfl rfl sl (.block addr cells drain) late (if drain then .homeWrite else .homeRead)
  rw [ev] at sent
  have sending := before.sendOp sl (.block addr cells drain) c
    (if drain then .homeWrite s.dropAnswers.nextId else .homeRead s.dropAnswers.nextId)
  have mem : (s.dropAnswers.sendOp sl (.block addr cells drain) c
    (if drain then .homeWrite s.dropAnswers.nextId else .homeRead s.dropAnswers.nextId)).mem = s.mem := rfl
  have only := wellOnly_of_sameBut (sameBut_lands (s.dropAnswers.sendOp sl (.block addr cells drain) c
    (if drain then .homeWrite s.dropAnswers.nextId else .homeRead s.dropAnswers.nextId))
    [(1, .blockSet addr lines va (if drain then 3 else 1) s.dropAnswers.nextId), (1, .sealPend sl)])
  refine ⟨?_, ?_, ?_⟩
  · rw [eq, State.retire_mem, (sameBut_lands _ _).mem_eq, mem]
  · exact sent.congr (by rw [eq, State.retire_ops, only.ops]) (by rw [eq, State.retire_agenda, only.agenda])
  · rw [eq]
    exact (sending.lands [(1, .blockSet addr lines va (if drain then 3 else 1) s.dropAnswers.nextId), (1, .sealPend sl)]).retired

/-- The test of `ldblk`: a live block shares bytes with the range. -/
theorem meets_false {base size : Nat} {c : Block} (apart : base + size ≤ c.addr ∨ c.addr + 256 * c.lines ≤ base) :
    (c.addr < base + size && base < c.addr + 256 * c.lines : Bool) = false := by
  simp only [Bool.and_eq_false_imp, decide_eq_true_eq, decide_eq_false_iff_not]
  omega

theorem ldblk_acts {d a : Fin 32} {sl : Fin 16} {l : BitVec 6} {rs : List Range} {size : Nat} (hs : size = 256 * (l.toNat + 1))
    (clear : s.Clear [.g d, .g a] [] true) (room : s.sealFull sl = false)
    (pass : s.Passes [(⟨s.rg d, size, 256, false, false, false, false, false⟩, 0),
      (⟨s.rg a, size, 256, false, true, false, false, false⟩, 0)] rs) :
    (∀ b, s.cnib.blocks.find? (fun b => b.addr < (s.rg d).toNat + size && (s.rg d).toNat < b.addr + 256 * b.lines) = some b →
      exec (.ldblk d a sl l) s = .next (s.dropAnswers.raise causeBLKNRDY (BitVec.ofNat 64 b.addr))) ∧
    (s.cnib.blocks.find? (fun b => b.addr < (s.rg d).toNat + size && (s.rg d).toNat < b.addr + 256 * b.lines) = none →
      exec (.ldblk d a sl l) s = .next (if 64 ≤ s.cnib.blocks.length then s.dropAnswers.waitMem
        else s.dropAnswers.issueBlock sl (s.rg d).toNat (l.toNat + 1) (s.rg a) (rs.drop (4 * (l.toNat + 1))) false)) := by
  subst hs
  have run := show exec (.ldblk d a sl l) s = execLdblk d a sl l s from rfl
  rw [execLdblk, guarded_of_clear clear] at run
  dsimp only at run
  rw [access_of_passes pass room, show s.dropAnswers.rg = s.rg from rfl] at run
  refine ⟨fun b meets => ?_, fun free => ?_⟩
  · rw [show s.dropAnswers.cnib.blocks.find? _ = some b from meets] at run
    exact run
  · rw [show s.dropAnswers.cnib.blocks.find? _ = none from free] at run
    exact run

theorem blockAt_bdrain {a : Fin 32} {sl : Fin 16} {b : Block} (clear : s.Clear [.g a] [] true) (at_ : s.blockAt (s.rg a) = some b) :
    (b.state ≠ 2 → exec (.bdrain sl a) s = .next (s.raise causeBLKNRDY (s.rg a))) ∧
    (b.state = 2 → exec (.bdrain sl a) s = .next (s.access ⟨[(⟨b.va, 256 * b.lines, 256, true, true, false, false, false⟩, 0)], sl, false, 1⟩
      (fun s rs => s.issueBlock sl b.addr b.lines b.va rs true))) := by
  have run := show exec (.bdrain sl a) s = execBdrain sl a s from rfl
  rw [execBdrain, guarded_of_clear clear, at_] at run
  refine ⟨fun busy => ?_, fun ready => ?_⟩
  · rw [Option.filter_some_neg (by simp [busy])] at run
    exact run
  · rw [Option.filter_some_pos (by simp [ready])] at run
    exact run

theorem bdrain_of_none {a : Fin 32} {sl : Fin 16} (clear : s.Clear [.g a] [] true) (absent : s.blockAt (s.rg a) = none) :
    exec (.bdrain sl a) s = .next (s.raise causeBLKNRDY (s.rg a)) := by
  have run := show exec (.bdrain sl a) s = execBdrain sl a s from rfl
  rw [execBdrain, guarded_of_clear clear, absent] at run
  exact run

/-- The operation of a block lands, once its nib's block table has been changed. -/
theorem blockLands {o : Op} {k : Fin 8} (res : s.Resides o.nib o.cid k) (f : Nib → Nib) (keeps : ∀ b, (f b).strokes = b.strokes) :
    Landed s ((s.modNib o.nib f).landOp o [] 0) o k (s.stroke o.nib k).ctx.r ∧
      (((s.modNib o.nib f).landOp o [] 0).nib o.nib).blocks = (f (s.nib o.nib)).blocks := by
  have strokes := fun n j => stroke_modNib_of_keeps s o.nib n j keeps
  have still := resides_of_strokes strokes res
  obtain ⟨regs, posts, seals, gone, mem, others, seqs, inflight⟩ := landed_of_landOp still [] 0
  rw [strokes] at regs posts seals seqs inflight
  refine ⟨⟨regs, posts, seals, gone, mem, fun m j h => (others m j h).trans (strokes m j), seqs, inflight⟩, ?_⟩
  rw [landOp_eq still]
  have blocks : ∀ (u : State) (g : Ctx → Ctx), (((u.modCtxAt o.nib k g).dropOp o.id).nib o.nib).blocks = (u.nib o.nib).blocks := by
    intro u g
    show ((u.modStroke o.nib k fun x => { x with ctx := g x.ctx }).nib o.nib).blocks = _
    rw [State.modStroke, State.nib_modNib_same]
  rw [blocks, State.nib_modNib_same]

end

theorem blockInstructions : Claims.Blocks := by
  refine ⟨fun s d a sl l rs size hs clear room pass => ?_, fun s d a sl clear => ⟨fun b at_ => ⟨?_, ?_, ?_, ?_, ?_⟩, fun absent outside => ⟨?_, ?_, ?_⟩⟩,
    fun s id o k addr todo dr found hid kind res => ⟨?_, ?_⟩⟩
  · obtain ⟨meets, free⟩ := ldblk_acts hs clear room pass
    refine ⟨fun pre b post table lo hi apart => meets b ?_, fun apart => ?_⟩
    · rw [table]
      exact find?_cut (fun c hc => meets_false (apart c hc)) (by simp [lo, hi])
    · have run := free (List.find?_eq_none.2 fun c hc => Bool.eq_false_iff.1 (meets_false (apart c hc)))
      refine ⟨fun full => run.trans (congrArg _ (if_pos full)), fun space => ?_⟩
      rw [if_neg (Nat.not_le.2 space)] at run
      obtain ⟨mem, sent, retired⟩ := issueBlock_frame s sl (s.rg d).toNat (l.toNat + 1) (s.rg a) (rs.drop (4 * (l.toNat + 1))) false
      exact ⟨_, run, mem, sent, retired⟩
  · intro ready
    refine issues_of_guarded clear (show exec (.bfree a) s = execBfree a s from rfl) ?_
    rw [at_]
    exact if_pos ready
  · intro busy
    have run := show exec (.bfree a) s = execBfree a s from rfl
    rw [execBfree, guarded_of_clear clear, at_] at run
    exact run.trans (congrArg Host.Outcome.next (if_neg busy))
  · intro free
    refine issues_of_simple ⟨clear.1, free.2⟩ (show exec (.bstat d a) s = execBstat d a s from rfl) ?_
    rw [at_]
    exact State.landG_eq ..
  · exact fun clear => (blockAt_bdrain clear at_).1
  · intro clear ready room rs pass
    have run := (blockAt_bdrain (sl := sl) clear at_).2 ready
    rw [access_of_passes pass room] at run
    obtain ⟨mem, sent, retired⟩ := issueBlock_frame s sl b.addr b.lines b.va rs true
    exact ⟨_, run, mem, sent, retired⟩
  · refine issues_of_guarded clear (show exec (.bfree a) s = execBfree a s from rfl) ?_
    rw [absent]
    exact if_neg (by rw [outside]; exact Bool.false_ne_true)
  · intro free
    refine issues_congr (issues_of_simple ⟨clear.1, free.2⟩ (show exec (.bstat d a) s = execBstat d a s from rfl) (es := gWrite 1 d 0) ?_) rfl
    rw [absent]
    exact (if_neg (by rw [outside]; exact Bool.false_ne_true)).trans (State.landG_eq ..)
  · exact bdrain_of_none ⟨clear.1, fun _ h => absurd h List.not_mem_nil⟩ absent
  · have run := show exec (.blockFillComplete id) s = execBlockFillComplete id s from rfl
    rw [execBlockFillComplete, found] at run
    dsimp only at run
    rw [kind] at run
    exact ⟨_, run, blockLands res _ (fun _ => rfl)⟩
  · have run := show exec (.blockDrainComplete id) s = execBlockDrainComplete id s from rfl
    rw [execBlockDrainComplete, found] at run
    dsimp only at run
    rw [kind] at run
    exact ⟨_, run, blockLands res _ (fun _ => rfl)⟩

/-! ## The bytes of a block -/

/-- Byte j of what a read gives. -/
theorem Memory.byte_of_read (m : List Host.Cell) (a : Nat) {n j : Nat} (lt : j < n) :
    BitVec.ofNat 8 (Memory.read m a n / 256 ^ j) = Memory.get m (a + j) := by
  induction n generalizing a j with
  | zero => exact absurd lt (Nat.not_lt_zero j)
  | succ n ih =>
    have bound := (Memory.get m a).isLt
    cases j with
    | zero =>
      apply BitVec.eq_of_toNat_eq
      show _ = (Memory.get m a).toNat
      rw [BitVec.toNat_ofNat, Memory.read, Nat.pow_zero, Nat.div_one]
      omega
    | succ j =>
      rw [Memory.read, Nat.pow_succ, Nat.mul_comm _ 256, ← Nat.div_div_eq_div_mul,
        show ((Memory.get m a).toNat + 256 * Memory.read m (a + 1) n) / 256 = Memory.read m (a + 1) n by omega, ih (a + 1) (by omega)]
      congr 1
      omega

/-- Bytes read in one place and written in another are a copy. -/
theorem Memory.copied {m : List Host.Cell} (wf : Memory.wf m = true) (src dst n : Nat) :
    (∀ j < n, Memory.get (Memory.write m dst n (Memory.read m src n)) (dst + j) = Memory.get m (src + j)) ∧
      ∀ b, b < dst ∨ dst + n ≤ b → Memory.get (Memory.write m dst n (Memory.read m src n)) b = Memory.get m b := by
  refine ⟨fun j lt => ?_, fun b out => Memory.get_write_outside _ _ _ _ _ wf out⟩
  rw [Memory.get_write_inside _ _ _ _ _ wf lt]
  exact Memory.byte_of_read m src lt

/-- The operation of a block after one cell. -/
def Op.cellMoved (t : Clk) (addr : Nat) (rest : List Range) (drain : Bool) (o : Op) : Op :=
  { o with lc := t, tmax := Clk.max o.tmax t, kind := .block addr rest drain }

section
variable {s : State}

theorem pieceNow_at (n : NibId) (root : Word) (priv : Bool) (r : Range) (shadow : Bool) :
    (s.pieceNow n root priv r shadow).at_ = r.at_ := by
  rw [State.pieceNow]
  by_cases near : r.va.toNat < windowEnd
  · rw [if_pos near]
  · rw [if_neg near]
    cases s.pubEntry (s.partOf n) (State.asidOf root) r.va with
    | none => rfl
    | some e => exact (apply_ite Range.at_ ..).trans (ite_self _)

/-- The next event of an access is at this cycle or later. -/
theorem nextAccess_frame (s : State) (n : NibId) (ev : Instr) : (s.nextAccess n ev).mem = s.mem ∧ (s.nextAccess n ev).full = s.full ∧
    (s.nextAccess n ev).ops = s.ops ∧ ∃ c, s.cycle ≤ c ∧ (c, ev) ∈ (s.nextAccess n ev).agenda := by
  rw [State.nextAccess]
  cases s.parts[s.partOf n].invBusy
  · exact ⟨rfl, rfl, rfl, _, Nat.le_add_right .., List.mem_append_right _ (List.mem_singleton.2 rfl)⟩
  · exact ⟨rfl, rfl, rfl, _, le_min (Nat.le_add_right ..) (le_max_left ..), List.mem_append_right _ (List.mem_singleton.2 rfl)⟩

/-- One cell moves: what stands and the bytes that change. -/
theorem blockStep_cell {o : Op} {addr : Nat} {r : Range} {rest : List Range} {drain : Bool} (kind : o.kind = .block addr (r :: rest) drain)
    (new : o.performed = false) (due : o.due ≤ s.cycle) (again : Instr) {q : Range}
    (hq : q = s.pieceNow o.nib (s.engFor o.nib o.cid).1 (s.engFor o.nib o.cid).2 r drain) :
    ∃ st clk, s.blockStep o again =
      let u : State := ({ s with
        stamps := st,
        mem := if drain then Memory.write s.mem q.pa q.size (Memory.read s.mem (wellPA o.nib (addr + r.at_)) q.size)
          else Memory.write s.mem (wellPA o.nib (addr + r.at_)) q.size (Memory.read s.mem q.pa q.size) } : State).modOp o.id
            (Op.cellMoved clk addr rest drain)
      if rest.isEmpty then u.accessDone o.id else u.nextAccess o.nib again := by
  rw [State.blockStep, kind]
  dsimp only
  rw [new, if_neg Bool.false_ne_true, if_neg (Nat.not_lt.2 due), ← hq]
  have at_ : q.at_ = r.at_ := by rw [hq, pieceNow_at]
  rw [at_]
  cases drain with
  | true =>
    obtain ⟨st, read⟩ := stampRange_only s false (wellPA o.nib (addr + r.at_)) o.lc 0 (State.cellsOf (addr + r.at_) q.size)
    refine ⟨(({ s with stamps := st } : State).writeStamp q.pa (s.stampRange false (wellPA o.nib (addr + r.at_)) o.lc 0
      (State.cellsOf (addr + r.at_) q.size)).1).2.stamps, (({ s with stamps := st } : State).writeStamp q.pa
        (s.stampRange false (wellPA o.nib (addr + r.at_)) o.lc 0 (State.cellsOf (addr + r.at_) q.size)).1).1, ?_⟩
    rw [if_pos rfl]
    rw [State.engRead]
    dsimp only
    rw [read]
    rfl
  | false =>
    obtain ⟨st, wrote⟩ := stampRange_only (s.readStamp q.pa o.lc 0).2 true (wellPA o.nib (addr + r.at_)) (s.readStamp q.pa o.lc 0).1 0
      (State.cellsOf (addr + r.at_) q.size)
    refine ⟨st, ((s.readStamp q.pa o.lc 0).2.stampRange true (wellPA o.nib (addr + r.at_)) (s.readStamp q.pa o.lc 0).1 0
      (State.cellsOf (addr + r.at_) q.size)).1, ?_⟩
    rw [if_neg Bool.false_ne_true]
    rw [State.engWrite]
    dsimp only
    rw [wrote]
    rfl

end

theorem blockBytesMove : Claims.BlockBytesMove := by
  intro s id o addr r q rest drain found kind new awake due home wf hq well moved i hi
  have run : exec i s = .next (s.blockStep o i) := by
    have event : s.homeEvent id i = s.blockStep o i := by
      rw [State.homeEvent, found]
      dsimp only
      rw [awake, home, if_neg (by decide), kind]
    rcases List.mem_cons.1 hi with rfl | hi
    · exact congrArg Host.Outcome.next event
    · obtain rfl := List.mem_singleton.1 hi
      exact congrArg Host.Outcome.next event
  obtain ⟨st, clk, step⟩ := blockStep_cell kind new due i hq
  rw [step] at run
  generalize hm : (if drain then Memory.write s.mem q.pa q.size (Memory.read s.mem (wellPA o.nib (addr + r.at_)) q.size)
    else Memory.write s.mem (wellPA o.nib (addr + r.at_)) q.size (Memory.read s.mem q.pa q.size)) = m at run
  have moves : ∀ {t : State}, t.mem = m → (drain = false → moved t q.pa well) ∧ (drain = true → moved t well q.pa) := by
    intro t mem
    rw [← hm] at mem
    refine ⟨?_, ?_⟩ <;> rintro rfl
    · rw [if_neg Bool.false_ne_true] at mem
      dsimp only [moved]
      rw [mem]
      exact Memory.copied wf q.pa well q.size
    · rw [if_pos rfl] at mem
      dsimp only [moved]
      rw [mem]
      exact Memory.copied wf well q.pa q.size
  obtain rfl := id_of_findOp found
  have here : (({ s with stamps := st, mem := m } : State).modOp o.id (Op.cellMoved clk addr rest drain)).findOp o.id =
      some (Op.cellMoved clk addr rest drain o) := findOp_modOp (s := { s with stamps := st, mem := m }) found (by exact fun _ => rfl)
  have mem : (({ s with stamps := st, mem := m } : State).modOp o.id (Op.cellMoved clk addr rest drain)).mem = m := rfl
  have full : (({ s with stamps := st, mem := m } : State).modOp o.id (Op.cellMoved clk addr rest drain)).full = s.full := rfl
  have cycle : (({ s with stamps := st, mem := m } : State).modOp o.id (Op.cellMoved clk addr rest drain)).cycle = s.cycle := rfl
  dsimp only at run
  generalize ({ s with stamps := st, mem := m } : State).modOp o.id (Op.cellMoved clk addr rest drain) = u at run here mem full cycle
  cases rest with
  | nil =>
    obtain ⟨c, last⟩ := findOp_accessDone here
    obtain ⟨fills, drains⟩ := moves (t := u.accessDone o.id) mem
    exact ⟨_, _, run, full, fills, drains, last, rfl, fun _ => rfl, fun more => absurd rfl more⟩
  | cons y ys =>
    obtain ⟨mem', full', ops, c, late, queued⟩ := nextAccess_frame u o.nib i
    obtain ⟨fills, drains⟩ := moves (mem'.trans mem)
    refine ⟨_, Op.cellMoved clk addr (y :: ys) drain o, run, full'.trans full, fills, drains, ?_, rfl, fun none => absurd none (List.cons_ne_nil y ys), fun _ => ⟨new, c, cycle ▸ late, queued⟩⟩
    exact (congrArg (List.find? fun x : Op => x.id == o.id) ops).trans here

/-- Settles O35: a block instruction changes its nib's table when its effects land; and one cell of a fill or drain is a copy of its
bytes from one place to the other. -/
theorem blocks : Obligations.Blocks := ⟨blockInstructions, blockBytesMove⟩

end Sys2Proof.Machine
end

section
/-! SUPPORT. Vector instructions: what a lane operation issues, and the integer operations (08_vector.md R196 to R205). -/

namespace Sys2Proof.Machine

open Sys2Proof

/-! ## What a lane operation issues -/

theorem orEvents_zero (n : Nat) : orEvents n (fun _ => 0) = 0 := by
  induction n with
  | zero => rfl
  | succ n ih => rw [orEvents_succ, ih]; rfl

/-- Lanes that are cut to their size. -/
theorem lanes_cut (ty : Nat) (f : Nat → Nat) :
    Lanes (packLanes (tySize ty) (tyLanes ty) f) (tySize ty) (fun j => f j % 2 ^ (8 * tySize ty)) :=
  fun _ hj => laneOf_packLanes (lanes_fit _) hj

section
variable {s : State} {d a b : Fin 32} {p : Fin 8} {ty lat : Nat} {i : Instr}

/-- The active lanes of type `ty` under pg. -/
def State.active (s : State) (p : Fin 8) (ty : Nat) (j : Nat) : Bool := (s.rp p).getLsbD (j * tySize ty)

/-- The effects of a lane operation whose lane j comes to `r j`. -/
def laneWrites (s : State) (lat : Nat) (d : Fin 32) (ty : Nat) (r : Nat → Nat × Ev) : List (Nat × Eff) :=
  vWrite s lat d (packLanes (tySize ty) (tyLanes ty) (fun j => (r j).1)) ++ evCount (orEvents (tyLanes ty) (fun j => (r j).2))

theorem issues_vec2 {f : Nat → Nat → Nat × Ev} (run : exec i s = s.vec2 lat d a b p ty f)
    (clear : s.Clear [.v (s.vphys a), .v (s.vphys b), .p p] [.v (s.vphys d)] false) :
    Issues i s (laneWrites s lat d ty (fun j => if s.active p ty j then
      f (laneOf (s.rv a) (tySize ty) j) (laneOf (s.rv b) (tySize ty) j) else (0, 0))) :=
  issues_of_guarded clear run (by simp only [State.landV_eq, State.landEv_eq, laneWrites, State.lands_append]; rfl)

theorem issues_vec1 {f : Nat → Nat × Ev} (run : exec i s = s.vec1 lat d a p ty f)
    (clear : s.Clear [.v (s.vphys a), .p p] [.v (s.vphys d)] false) :
    Issues i s (laneWrites s lat d ty (fun j => if s.active p ty j then f (laneOf (s.rv a) (tySize ty) j) else (0, 0))) :=
  issues_of_guarded clear run (by simp only [State.landV_eq, State.landEv_eq, laneWrites, State.lands_append]; rfl)

theorem issues_vecMove {srcs : List RegRef} {f : State → Nat → Nat} (run : exec i s = s.vecMove srcs d p ty f)
    (clear : s.Clear (srcs ++ [.p p]) [.v (s.vphys d)] false) :
    Issues i s (vWrite s 1 d (packLanes (tySize ty) (tyLanes ty) (fun j => if s.active p ty j then f s j else 0))) :=
  issues_of_guarded clear run rfl

/-- A lane operation of the active lanes: its lanes and its events. -/
theorem lanes_of_active {on : Nat → Bool} {g : Nat → Nat × Ev} (issues : Issues i s (laneWrites s lat d ty (fun j => if on j then g j else (0, 0)))) :
    ∃ r e, Lanes r (tySize ty) (fun j => if on j then (g j).1 % 2 ^ (8 * tySize ty) else 0) ∧
      EventsOf e (tyLanes ty) on (fun j => (g j).2) ∧ Issues i s (vWrite s lat d r ++ evCount e) := by
  refine ⟨_, _, fun j hj => ?_, eventsOf_orEvents fun j _ => ?_, issues⟩
  · rw [lanes_cut ty _ j hj]
    by_cases active : on j = true <;> simp [active]
  · by_cases active : on j = true <;> simp [active]

/-- A lane operation that raises no event. -/
theorem lanes_of_quiet {on : Nat → Bool} {g : Nat → Nat × Ev} (issues : Issues i s (laneWrites s lat d ty (fun j => if on j then g j else (0, 0))))
    (quiet : ∀ j, (g j).2 = 0) {h : Nat → Nat} (value : ∀ j, (g j).1 % 2 ^ (8 * tySize ty) = h j) :
    ∃ r, Lanes r (tySize ty) (fun j => if on j then h j else 0) ∧ Issues i s (vWrite s lat d r) := by
  have none : orEvents (tyLanes ty) (fun j => (if on j then g j else (0, 0)).2) = 0 := by
    have each : (fun j => (if on j then g j else (0, 0)).2) = fun _ => 0 := by
      funext j
      by_cases active : on j = true <;> simp [active, quiet j]
    rw [each, orEvents_zero]
  refine ⟨packLanes (tySize ty) (tyLanes ty) (fun j => (if on j then g j else (0, 0)).1), fun j hj => ?_, issues_congr issues ?_⟩
  · rw [lanes_cut ty _ j hj]
    by_cases active : on j = true <;> simp [active, value]
  · rw [laneWrites, none]
    exact List.append_nil _

/-- A lane move. -/
theorem lanes_of_move {srcs : List RegRef} {f : State → Nat → Nat} (run : exec i s = s.vecMove srcs d p ty f)
    (clear : s.Clear (srcs ++ [.p p]) [.v (s.vphys d)] false) {h : Nat → Nat}
    (value : ∀ j < tyLanes ty, f s j % 2 ^ (8 * tySize ty) = h j) :
    ∃ r, Lanes r (tySize ty) (fun j => if s.active p ty j then h j else 0) ∧ Issues i s (vWrite s 1 d r) := by
  refine ⟨_, fun j hj => ?_, issues_vecMove run clear⟩
  rw [lanes_cut ty _ j hj]
  by_cases active : s.active p ty j = true <;> simp [active, value j hj]

end

/-! ## Integer lanes -/

theorem tySize_small (y : Fin 8) : tySize y.val = 2 ^ (y.val % 4) := by
  revert y
  decide

theorem bits_pos (ty : Nat) : 0 < 8 * tySize ty := by
  unfold tySize
  split <;> decide

theorem readLane_eq (ty bits n : Nat) : readLane (tySigned ty) bits n = if ty < 4 then (BitVec.ofNat bits n).toInt else (n : Int) := by
  rw [readLane, tySigned]
  exact if_congr decide_eq_true_iff rfl rfl

theorem typeMin_eq (ty bits : Nat) : typeMin (tySigned ty) bits = if ty < 4 then -(2 ^ (bits - 1)) else 0 := by
  rw [typeMin, tySigned]
  exact if_congr decide_eq_true_iff rfl rfl

theorem typeMax_eq (ty bits : Nat) : typeMax (tySigned ty) bits = if ty < 4 then 2 ^ (bits - 1) - 1 else 2 ^ bits - 1 := by
  rw [typeMax, tySigned]
  exact if_congr decide_eq_true_iff rfl rfl

theorem typeMin_le_typeMax (sg : Bool) (bits : Nat) : typeMin sg bits ≤ typeMax sg bits := by
  have low := Int.pow_pos (n := 2) (m := bits - 1) (by decide)
  have high := Int.pow_pos (n := 2) (m := bits) (by decide)
  cases sg <;> simp only [typeMin, typeMax] <;> omega

theorem wrapLane_lt (bits : Nat) (n : Int) : wrapLane bits n < 2 ^ bits := (BitVec.ofInt bits n).isLt

theorem wrapLane_mod (bits : Nat) (n : Int) : wrapLane bits n % 2 ^ bits = wrapLane bits n := Nat.mod_eq_of_lt (wrapLane_lt bits n)

/-- A clamped lane, in one expression. -/
theorem clampLane_eq (sg : Bool) (bits : Nat) (n : Int) :
    clampLane sg bits n = (wrapLane bits (max (typeMin sg bits) (min (typeMax sg bits) n)),
      if n < typeMin sg bits ∨ typeMax sg bits < n then evSAT else 0) := by
  have order := typeMin_le_typeMax sg bits
  rw [clampLane, clampInt]
  by_cases low : n < typeMin sg bits
  · rw [if_pos low, if_pos (.inl low), min_eq_right (by omega), max_eq_left (by omega)]
  · by_cases high : typeMax sg bits < n
    · rw [if_neg low, if_pos high, if_pos (.inr high), min_eq_left (by omega), max_eq_right order]
    · rw [if_neg low, if_neg high, if_neg (by omega), min_eq_right (by omega), max_eq_right (by omega)]

section
variable {s : State} {d a b : Fin 32} {p y : Fin 8} {fn lat : Nat} {ins : Instr}

/-- An integer lane operation that raises no event. -/
theorem vint_lanes (run : exec ins s = s.vint fn lat d a b p y)
    (clear : s.Clear [.v (s.vphys a), .v (s.vphys b), .p p] [.v (s.vphys d)] false)
    (quiet : ∀ x w, (laneOp fn (tySigned y.val) (8 * tySize y.val) x w).2 = 0) {g : Nat → Nat → Nat}
    (value : ∀ x w, x < 2 ^ (8 * tySize y.val) → w < 2 ^ (8 * tySize y.val) →
      (laneOp fn (tySigned y.val) (8 * tySize y.val) x w).1 % 2 ^ (8 * tySize y.val) = g x w) :
    ∃ r, Lanes r (tySize y.val) (fun j => if s.active p y.val j then
      g (laneOf (s.rv a) (tySize y.val) j) (laneOf (s.rv b) (tySize y.val) j) else 0) ∧ Issues ins s (vWrite s lat d r) :=
  lanes_of_quiet (issues_vec2 run clear) (fun _ => quiet _ _) (fun _ => value _ _ (laneOf_lt ..) (laneOf_lt ..))

theorem vint1_lanes (run : exec ins s = s.vint1 fn d a p y) (clear : s.Clear [.v (s.vphys a), .p p] [.v (s.vphys d)] false)
    (quiet : ∀ x w, (laneOp fn (tySigned y.val) (8 * tySize y.val) x w).2 = 0) {g : Nat → Nat}
    (value : ∀ x, x < 2 ^ (8 * tySize y.val) →
      (laneOp fn (tySigned y.val) (8 * tySize y.val) x 0).1 % 2 ^ (8 * tySize y.val) = g x) :
    ∃ r, Lanes r (tySize y.val) (fun j => if s.active p y.val j then g (laneOf (s.rv a) (tySize y.val) j) else 0) ∧
      Issues ins s (vWrite s 1 d r) :=
  lanes_of_quiet (issues_vec1 run clear) (fun _ => quiet _ _) (fun _ => value _ (laneOf_lt ..))

theorem vimm_lanes {i : BitVec 9} (run : exec ins s = s.vimm fn d a p y i) (clear : s.Clear [.v (s.vphys a), .p p] [.v (s.vphys d)] false)
    (quiet : ∀ x w, (laneOp fn (tySigned y.val) (8 * tySize y.val) x w).2 = 0) {g : Nat → Nat}
    (value : ∀ x, x < 2 ^ (8 * tySize y.val) →
      (laneOp fn (tySigned y.val) (8 * tySize y.val) x (wrapLane (8 * tySize y.val) i.toInt)).1 % 2 ^ (8 * tySize y.val) = g x) :
    ∃ r, Lanes r (tySize y.val) (fun j => if s.active p y.val j then g (laneOf (s.rv a) (tySize y.val) j) else 0) ∧
      Issues ins s (vWrite s 1 d r) :=
  lanes_of_quiet (issues_vec1 (f := fun x => laneOp fn (tySigned y.val) (8 * tySize y.val) x (wrapLane (8 * tySize y.val) i.toInt))
    (by exact run) clear) (fun _ => quiet _ _) (fun _ => value _ (laneOf_lt ..))

/-- A clamping lane operation. -/
theorem vclamp_lanes (run : exec ins s = s.vint fn 1 d a b p y)
    (clear : s.Clear [.v (s.vphys a), .v (s.vphys b), .p p] [.v (s.vphys d)] false) {g : Nat → Nat → Int}
    (clamps : ∀ x w, laneOp fn (tySigned y.val) (8 * tySize y.val) x w = clampLane (tySigned y.val) (8 * tySize y.val) (g x w)) :
    ∃ r e, Lanes r (tySize y.val) (fun j => if s.active p y.val j then
        wrapLane (8 * tySize y.val) (max (typeMin (tySigned y.val) (8 * tySize y.val)) (min (typeMax (tySigned y.val) (8 * tySize y.val))
          (g (laneOf (s.rv a) (tySize y.val) j) (laneOf (s.rv b) (tySize y.val) j)))) else 0) ∧
      EventsOf e (tyLanes y.val) (s.active p y.val) (fun j =>
        if g (laneOf (s.rv a) (tySize y.val) j) (laneOf (s.rv b) (tySize y.val) j) < typeMin (tySigned y.val) (8 * tySize y.val) ∨
          typeMax (tySigned y.val) (8 * tySize y.val) < g (laneOf (s.rv a) (tySize y.val) j) (laneOf (s.rv b) (tySize y.val) j)
        then evSAT else 0) ∧
      Issues ins s (vWrite s 1 d r ++ evCount e) := by
  have issues := issues_vec2 run clear
  simp only [clamps, clampLane_eq] at issues
  obtain ⟨r, e, lanes, events, issues⟩ := lanes_of_active issues
  simp only [wrapLane_mod] at lanes
  exact ⟨r, e, lanes, events, issues⟩

end

theorem addImmediate (bits x : Nat) (i : Int) : (x + wrapLane bits i) % 2 ^ bits = wrapLane bits (x + i) := by
  have sum : BitVec.ofInt bits (x + i) = BitVec.ofNat bits x + BitVec.ofInt bits i := by
    rw [BitVec.ofInt_add, BitVec.ofInt_natCast]
  rw [wrapLane, wrapLane, sum, BitVec.toNat_add, BitVec.toNat_ofNat, Nat.mod_add_mod]

/-- A shift amount that is an immediate below the width. -/
theorem shiftImmediate {ty : Nat} {i : BitVec 9} (small : i.toNat < 8 * tySize ty) :
    wrapLane (8 * tySize ty) i.toInt % (8 * tySize ty) = i.toNat := by
  have wide : 8 * tySize ty ≤ 64 := by
    unfold tySize
    split <;> decide
  have positive : i.toInt = (i.toNat : Int) := BitVec.toInt_eq_toNat_of_lt (by omega)
  have fits : i.toNat < 2 ^ (8 * tySize ty) := Nat.lt_trans small Nat.lt_two_pow_self
  rw [wrapLane, positive, BitVec.ofInt_natCast, BitVec.toNat_ofNat, Nat.mod_eq_of_lt fits, Nat.mod_eq_of_lt small]

/-- Settles O36: an integer operation is one function of the lanes under pg, whose value is the wrapped or clamped result. -/
theorem vectorIntegers : Obligations.VectorIntegers := by
  unfold Obligations.VectorIntegers
  intro s d a b p y
  rw [← tySize_small y]
  intro z B rd wr lo hi x w on does clamps
  have reads : ∀ n, readLane (tySigned y.val) B n = rd n := readLane_eq y.val B
  have hlo : typeMin (tySigned y.val) B = lo := typeMin_eq y.val B
  have hhi : typeMax (tySigned y.val) B = hi := typeMax_eq y.val B
  have pos : 0 < B := bits_pos y.val
  have wraps : ∀ n, wr n % 2 ^ B = wr n := wrapLane_mod B
  refine ⟨fun clear => ⟨?_, ?_, ?_, ?_, ?_, ?_, ?_, ?_, ?_, ?_, ?_, ?_, ?_, ?_⟩, fun clear => ⟨?_, ?_, fun i => ⟨?_, fun small => ⟨?_, ?_, ?_⟩⟩⟩,
    fun clear i => ?_⟩
  · exact vint_lanes (fn := 0) rfl clear (fun _ _ => rfl) (fun _ _ _ _ => Nat.mod_mod ..)
  · exact vint_lanes (fn := 1) rfl clear (fun _ _ => rfl) (fun _ _ _ _ => wraps _)
  · exact vint_lanes (fn := 2) rfl clear (fun _ _ => rfl) (fun _ _ _ _ => Nat.mod_mod ..)
  · refine vint_lanes (fn := 3) (g := fun x w => wr (rd x * rd w / 2 ^ B)) rfl clear (fun _ _ => rfl) (fun x w _ _ => ?_)
    rw [← reads, ← reads]
    exact wraps _
  · exact vint_lanes (fn := 4) rfl clear (fun _ _ => rfl) (fun _ _ hx _ => Nat.mod_eq_of_lt (Nat.lt_of_le_of_lt Nat.and_le_left hx))
  · exact vint_lanes (fn := 5) rfl clear (fun _ _ => rfl) (fun _ _ hx hw => Nat.mod_eq_of_lt (Nat.or_lt_two_pow hx hw))
  · exact vint_lanes (fn := 6) rfl clear (fun _ _ => rfl) (fun _ _ hx hw => Nat.mod_eq_of_lt (Nat.xor_lt_two_pow hx hw))
  · exact vint_lanes (fn := 7) rfl clear (fun _ _ => rfl) (fun _ _ _ _ => Nat.mod_mod ..)
  · exact vint_lanes (fn := 8) rfl clear (fun _ _ => rfl) (fun _ _ hx _ => Nat.mod_eq_of_lt (Nat.lt_of_le_of_lt (Nat.div_le_self ..) hx))
  · exact vint_lanes (fn := 9) rfl clear (fun _ _ => rfl) (fun _ _ _ _ => Nat.mod_eq_of_lt (BitVec.isLt _))
  · refine vint_lanes (fn := 10) (g := fun x w => if rd x < rd w then x else w) rfl clear (fun _ _ => rfl) (fun x w hx hw => ?_)
    rw [← reads, ← reads]
    exact ite_mod_of_lt hx hw
  · refine vint_lanes (fn := 11) (g := fun x w => if rd x < rd w then w else x) rfl clear (fun _ _ => rfl) (fun x w hx hw => ?_)
    rw [← reads, ← reads]
    exact ite_mod_of_lt hw hx
  · have h := vclamp_lanes (fn := 14) (g := fun x w => rd x + rd w) (show exec (.vadds d a b p y) s = _ from rfl) clear (fun x w => by
      rw [← reads, ← reads]
      rfl)
    rw [hlo, hhi] at h
    exact h
  · have h := vclamp_lanes (fn := 15) (g := fun x w => rd x - rd w) (show exec (.vsubs d a b p y) s = _ from rfl) clear (fun x w => by
      rw [← reads, ← reads]
      rfl)
    rw [hlo, hhi] at h
    exact h
  · refine vint1_lanes (fn := 12) (g := fun x => wr (rd x).natAbs) rfl clear (fun _ _ => rfl) (fun x _ => ?_)
    rw [← reads]
    refine (wraps _).trans (congrArg (wrapLane B) ?_)
    cases signed : tySigned y.val
    · simp [readLane]
    · rfl
  · exact vint1_lanes (fn := 13) rfl clear (fun _ _ => rfl) (fun _ _ => wraps _)
  · refine vimm_lanes (fn := 0) (g := fun x => wr (x + i.toInt)) rfl clear (fun _ _ => rfl) (fun x _ => ?_)
    exact (Nat.mod_mod ..).trans (addImmediate B x i.toInt)
  · refine vimm_lanes (fn := 7) (g := fun x => x * 2 ^ i.toNat % 2 ^ B) rfl clear (fun _ _ => rfl) (fun x _ => ?_)
    exact (Nat.mod_mod ..).trans (by rw [shiftImmediate (show i.toNat < 8 * tySize y.val from small)])
  · refine vimm_lanes (fn := 8) (g := fun x => x / 2 ^ i.toNat) rfl clear (fun _ _ => rfl) (fun x hx => ?_)
    refine Eq.trans (congrArg (fun k => x / 2 ^ k % 2 ^ B) (shiftImmediate (show i.toNat < 8 * tySize y.val from small))) ?_
    exact Nat.mod_eq_of_lt (Nat.lt_of_le_of_lt (Nat.div_le_self ..) hx)
  · refine vimm_lanes (fn := 9) (g := fun x => ((BitVec.ofNat B x).sshiftRight i.toNat).toNat) rfl clear (fun _ _ => rfl) (fun x _ => ?_)
    refine Eq.trans (congrArg (fun k => sraLane B x k % 2 ^ B) (shiftImmediate (show i.toNat < 8 * tySize y.val from small))) ?_
    exact Nat.mod_eq_of_lt (BitVec.isLt _)
  · exact lanes_of_move (srcs := []) (f := fun _ _ => wrapLane B i.toInt) rfl clear (fun _ _ => wraps _)

end Sys2Proof.Machine
end

section
/-! SUPPORT. Vector comparisons, moves and permutes (08_vector.md R204, R205). -/

namespace Sys2Proof.Machine

open Sys2Proof

theorem tyLanes_eq (ty : Nat) : tyLanes ty = 128 / tySize ty := rfl

theorem laneAt_natCast {v : Vec} {ty j : Nat} (h : j < tyLanes ty) : laneAt v ty (j : Int) = laneOf v (tySize ty) j := by
  rw [laneAt, if_pos ⟨Int.natCast_nonneg j, Int.ofNat_lt.2 h⟩, Int.toNat_natCast]

theorem laneAt_lt (v : Vec) (ty : Nat) (i : Int) : laneAt v ty i < 2 ^ (8 * tySize ty) := by
  rw [laneAt]
  split
  · exact laneOf_lt ..
  · exact Nat.two_pow_pos _

/-- Two lanes at least, for the halves of a vector. -/
theorem tyLanes_even (ty : Nat) : 2 * (tyLanes ty / 2) = tyLanes ty := by
  unfold tyLanes tySize
  split <;> rfl

section
variable {s : State} {a b : Fin 32} {q p y : Fin 8} {i : Instr}

/-- The effects of a compare whose lane j comes to `r j`. -/
def cmpWrites (q : Fin 8) (ty : Nat) (r : Nat → Bool × Ev) : List (Nat × Eff) :=
  pWrite 1 q (packPred (tySize ty) (tyLanes ty) (fun j => (r j).1)) ++ evCount (orEvents (tyLanes ty) (fun j => (r j).2))

theorem issues_vecCmp {ty : Nat} {f : Nat → Nat → Bool × Ev} (run : exec i s = s.vecCmp q a b p ty f)
    (clear : s.Clear [.v (s.vphys a), .v (s.vphys b), .p p] [.p q] false) :
    Issues i s (cmpWrites q ty (fun j => if s.active p ty j then
      f (laneOf (s.rv a) (tySize ty) j) (laneOf (s.rv b) (tySize ty) j) else (false, 0))) :=
  issues_of_guarded clear run (by simp only [State.landP_eq, State.landEv_eq, cmpWrites, State.lands_append]; rfl)

/-- A compare of the active lanes: its predicate and its events. -/
theorem tests_of_active {ty : Nat} {on : Nat → Bool} {g : Nat → Bool × Ev}
    (issues : Issues i s (cmpWrites q ty (fun j => if on j then g j else (false, 0)))) :
    ∃ m e, PredLanes m (tySize ty) (fun j => on j && (g j).1) ∧ EventsOf e (tyLanes ty) on (fun j => (g j).2) ∧
      Issues i s (pWrite 1 q m ++ evCount e) := by
  refine ⟨_, _, fun j k hj hk => (predLanes_packPred _ j k hj hk).trans ?_, eventsOf_orEvents fun j _ => ?_, issues⟩
  · by_cases active : on j = true <;> simp [active]
  · by_cases active : on j = true <;> simp [active]

theorem orEvents_of_quiet {n : Nat} {f : Nat → Ev} (quiet : ∀ j, f j = 0) : orEvents n f = 0 :=
  (congrArg (orEvents n) (funext quiet)).trans (orEvents_zero n)

/-- A compare that raises no event. -/
theorem tests_of_quiet {ty : Nat} {on g : Nat → Bool}
    (issues : Issues i s (cmpWrites q ty (fun j => if on j then (g j, 0) else (false, 0)))) :
    ∃ m, PredLanes m (tySize ty) (fun j => on j && g j) ∧ Issues i s (pWrite 1 q m) := by
  refine ⟨packPred (tySize ty) (tyLanes ty) (fun j => (if on j then (g j, (0 : Ev)) else (false, 0)).1),
    fun j k hj hk => (predLanes_packPred _ j k hj hk).trans ?_, issues_congr issues ?_⟩
  · by_cases active : on j = true <;> simp [active]
  · rw [cmpWrites, orEvents_of_quiet (fun j => by by_cases active : on j = true <;> simp [active])]
    exact List.append_nil _

/-- A compare sets the lanes that it holds in. -/
theorem vcmp_lanes {cc : Nat} (run : exec i s = s.vcmp cc q a b p y)
    (clear : s.Clear [.v (s.vphys a), .v (s.vphys b), .p p] [.p q] false) :
    ∃ m, PredLanes m (tySize y.val) (fun j => s.active p y.val j && laneCmp cc
      (readLane (tySigned y.val) (8 * tySize y.val) (laneOf (s.rv a) (tySize y.val) j))
      (readLane (tySigned y.val) (8 * tySize y.val) (laneOf (s.rv b) (tySize y.val) j))) ∧ Issues i s (pWrite 1 q m) :=
  tests_of_quiet (issues_vecCmp (f := fun u v => (laneCmp cc (readLane (tySigned y.val) (8 * tySize y.val) u)
    (readLane (tySigned y.val) (8 * tySize y.val) v), 0)) (by exact run) clear)

end

theorem clzN_spec {bits x : Nat} (small : x < 2 ^ bits) : clzN bits x ≤ bits ∧ x < 2 ^ (bits - clzN bits x) ∧
    (clzN bits x < bits → 2 ^ (bits - clzN bits x - 1) ≤ x) := by
  refine ⟨clzN_le bits x, ?_⟩
  rw [clzN]
  split
  · next zero => exact ⟨by simp [zero], fun h => absurd h (Nat.lt_irrefl bits)⟩
  · next nonzero =>
    have top := (Nat.log2_lt nonzero).2 small
    rw [show bits - (bits - 1 - x.log2) = x.log2 + 1 by omega, Nat.add_sub_cancel]
    exact ⟨Nat.lt_log2_self, fun _ => Nat.log2_self_le nonzero⟩

theorem popcN_le (bits x : Nat) : popcN bits x ≤ bits := by
  rw [popcN]
  exact (List.length_filter_le ..).trans (by rw [List.length_range])

/-- Lanes that fit need no cut. -/
theorem lanes_small (ty : Nat) {f : Nat → Nat} (small : ∀ j < tyLanes ty, f j < 2 ^ (8 * tySize ty)) :
    Lanes (packLanes (tySize ty) (tyLanes ty) f) (tySize ty) f := lanes_packLanes small

/-- Settles O37: a compare packs one bit per active lane; a move gives an active lane one lane of its sources. -/
theorem vectorComparesAndMoves : Obligations.VectorComparesAndMoves := by
  unfold Obligations.VectorComparesAndMoves
  intro s d a b q p
  refine ⟨fun y => ?_, fun y => ?_⟩
  · rw [← tySize_small y]
    intro z B rd x w on does
    have reads : ∀ n, readLane (tySigned y.val) B n = rd n := readLane_eq y.val B
    refine ⟨fun clear => ?_, fun clear => ?_, fun clear => ⟨?_, ?_⟩⟩
    · have compares : ∀ {i : Instr} {cc : Nat} {f : Nat → Bool}, exec i s = s.vcmp cc q a b p y → (∀ j, laneCmp cc (x j) (w j) = f j) →
          ∃ m, PredLanes m z (fun j => on j && f j) ∧ Issues i s (pWrite 1 q m) := fun run value => by
        obtain ⟨m, lanes, issues⟩ := vcmp_lanes run clear
        refine ⟨m, fun j k hj hk => (lanes j k hj hk).trans ?_, issues⟩
        exact congrArg (on j && ·) ((congrArg₂ (laneCmp _) (reads _) (reads _)).trans (value j))
      simp only [List.forall_mem_cons]
      exact ⟨compares (cc := 0) rfl (fun _ => rfl), compares (cc := 1) rfl (fun j => by simp only [laneCmp, bne, ne_eq, decide_not]; rfl),
        compares (cc := 2) rfl (fun _ => rfl), compares (cc := 3) rfl (fun _ => rfl), compares (cc := 4) rfl (fun _ => rfl),
        compares (cc := 5) rfl (fun _ => rfl), fun _ h => absurd h List.not_mem_nil⟩
    · exact lanes_of_move (srcs := [.g a]) (f := fun s j => ((s.rg a).toNat + j) % 2 ^ (8 * tySize y.val)) rfl clear
        (fun j _ => Nat.mod_mod ..)
    · refine ⟨fun j => clzN B (laneOf (s.rv a) z j), ?_, fun j _ => clzN_spec (laneOf_lt ..)⟩
      refine lanes_of_move (srcs := [.v (s.vphys a)]) (f := fun s j => clzN (8 * tySize y.val) (laneAt (s.rv a) y.val j)) rfl clear
        (fun j hj => ?_)
      rw [laneAt_natCast hj, Nat.mod_eq_of_lt (Nat.lt_of_le_of_lt (clzN_le ..) Nat.lt_two_pow_self)]
    · refine lanes_of_move (srcs := [.v (s.vphys a)]) (f := fun s j => popcN (8 * tySize y.val) (laneAt (s.rv a) y.val j)) rfl clear
        (fun j hj => ?_)
      rw [laneAt_natCast hj, Nat.mod_eq_of_lt (Nat.lt_of_le_of_lt (popcN_le ..) Nat.lt_two_pow_self)]
      rfl
  · intro z n at_ on does
    have even := tyLanes_even y.val
    have moves : ∀ {srcs : List RegRef} {i : Instr} {f : State → Nat → Nat} {h : Nat → Nat}, exec i s = s.vecMove srcs d p y.val f →
        s.Clear (srcs ++ [.p p]) [.v (s.vphys d)] false → (∀ j < tyLanes y.val, h j < 2 ^ (8 * z) ∧ f s j = h j) → does i h :=
      fun run clear value => lanes_of_move run clear (fun j hj => by
        obtain ⟨small, same⟩ := value j hj
        rw [same, Nat.mod_eq_of_lt small])
    refine ⟨fun clear => ⟨?_, ?_⟩, fun clear => ⟨?_, ?_, ?_, ?_⟩, fun clear => ?_, fun clear => ?_, fun clear => ?_, fun clear => ?_⟩
    · exact moves (srcs := [.v (s.vphys a)]) (f := fun s j => laneAt (s.rv a) y.val j) rfl clear
        (fun j hj => ⟨laneOf_lt .., laneAt_natCast hj⟩)
    · exact moves (srcs := [.v (s.vphys a)]) (f := fun s j => 2 ^ (8 * tySize y.val) - 1 - laneAt (s.rv a) y.val j) rfl clear
        (fun j hj => ⟨Nat.lt_of_le_of_lt (Nat.sub_le ..) (Nat.sub_one_lt (Nat.two_pow_pos _).ne'), by rw [laneAt_natCast hj]⟩)
    · refine ⟨_, fun j hj => (lanes_small y.val (fun j _ => laneOf_lt ..) j hj).trans ?_,
        issues_of_simple clear (show exec (.vsel d a b p y) s = execVsel d a b p y s from rfl) (State.landV_eq ..)⟩
      exact apply_ite (fun v => laneOf v z j) _ _ _
    · exact moves (srcs := [.v (s.vphys a), .v (s.vphys b)]) (f := fun s j => laneAt (s.rv a) y.val (laneAt (s.rv b) y.val j)) rfl clear
        (fun j hj => ⟨laneAt_lt .., by rw [laneAt_natCast hj]; rfl⟩)
    · refine moves (srcs := [.v (s.vphys a), .v (s.vphys b)])
        (f := fun s j => laneAt (if j % 2 = 0 then s.rv a else s.rv b) y.val (j / 2 : Nat)) rfl clear (fun j hj => ⟨?_, ?_⟩)
      · split <;> exact laneOf_lt ..
      · rw [laneAt_natCast (by omega)]
        exact apply_ite (fun v => laneOf v z (j / 2)) _ _ _
    · refine moves (srcs := [.v (s.vphys a), .v (s.vphys b)])
        (f := fun s j => if j < tyLanes y.val / 2 then laneAt (s.rv a) y.val (2 * j : Nat)
          else laneAt (s.rv b) y.val (2 * (j - tyLanes y.val / 2) : Nat)) rfl clear (fun j hj => ⟨?_, ?_⟩)
      · split <;> exact laneOf_lt ..
      · by_cases low : j < tyLanes y.val / 2
        · exact (if_pos low).trans ((laneAt_natCast (by omega)).trans (if_pos low).symm)
        · exact (if_neg low).trans ((laneAt_natCast (by omega)).trans (if_neg low).symm)
    · exact moves (srcs := [.v (s.vphys a), .g b]) (f := fun s j => laneAt (s.rv a) y.val (j + (s.rg b).toInt)) rfl clear
        (fun j _ => ⟨laneAt_lt .., rfl⟩)
    · exact moves (srcs := [.g a]) (f := fun s _ => (s.rg a).toNat % 2 ^ (8 * tySize y.val)) rfl clear
        (fun j _ => ⟨Nat.mod_lt _ (Nat.two_pow_pos _), rfl⟩)
    · refine issues_congr (issues_of_simple clear (show exec (.vext d a b y) s = execVext d a b y s from rfl) (State.landG_eq ..)) ?_
      have source : laneAt (s.rv a) y.val ((s.rg b).toNat : Int) = if (s.rg b).toNat < n then laneOf (s.rv a) z (s.rg b).toNat else 0 := by
        by_cases inside : (s.rg b).toNat < n
        · rw [if_pos inside, laneAt_natCast inside]
        · rw [if_neg inside, laneAt, if_neg fun h => inside (Int.ofNat_lt.1 h.2)]
      have small := laneAt_lt (s.rv a) y.val ((s.rg b).toNat : Int)
      rw [← source]
      congr 1
      by_cases signed : y.val < 4
      · rw [if_pos signed]
        exact if_pos (decide_eq_true signed)
      · rw [if_neg signed]
        exact (if_neg (by simp [tySigned, signed])).trans (by rw [zx, Nat.mod_eq_of_lt small])
    · refine ⟨_, lanes_small y.val (fun j _ => ?_), issues_of_simple clear (show exec (.vins d a b y) s = execVins d a b y s from rfl) (State.landV_eq ..)⟩
      split
      · exact Nat.mod_lt _ (Nat.two_pow_pos _)
      · exact laneOf_lt ..

end Sys2Proof.Machine
end

section
/-! SUPPORT. Predicates, random numbers, the vector queues, rotation and software-pipelined loops (08_vector.md R199 to R201,
R214 to R218). -/

namespace Sys2Proof.Machine

open Sys2Proof

/-! ## Predicates -/

theorem vwhile_body (s : State) (d : Fin 8) (i : Fin 32) (m : Pred) (x : Word) :
    (s.landP 1 d m).landG 1 i x = s.lands (pWrite 1 d m ++ gWrite 1 i x) := by
  rw [State.landP_eq, State.landG_eq, State.lands_append]

theorem predicates : Claims.Predicates := by
  intro s d a b g i n
  refine ⟨fun clear => ?_, fun clear => ?_, fun clear => ?_, fun clear => ⟨?_, ?_⟩, fun clear => ?_, fun y clear => ?_⟩
  · have combines : ∀ {ins : Instr} {f : Pred → Pred → Pred}, exec ins s = s.pred2 d a b f → Issues ins s (pWrite 1 d (f (s.rp a) (s.rp b))) :=
      fun run => issues_of_simple clear run (State.landP_eq ..)
    exact ⟨combines (f := (· &&& ·)) rfl, combines (f := (· ||| ·)) rfl, combines (f := (· ^^^ ·)) rfl⟩
  · exact issues_of_simple clear (show exec (.pnot d a) s = execPnot d a s from rfl) (State.landP_eq ..)
  · exact ⟨issues_of_simple clear (show exec (.pset d) s = execPset d s from rfl) (State.landP_eq ..),
      issues_of_simple clear (show exec (.pclr d) s = execPclr d s from rfl) (State.landP_eq ..)⟩
  · rw [← popcN_eq_finRange]
    exact issues_of_simple clear (show exec (.pcount g a) s = execPcount g a s from rfl) (State.landG_eq ..)
  · obtain ⟨bound, zeros, one⟩ := ctzN_spec 128 (s.rp a).toNat
    exact ⟨_, bound, issues_of_simple clear (show exec (.pfirst g a) s = execPfirst g a s from rfl) (State.landG_eq ..), zeros, one⟩
  · exact issues_of_simple clear (show exec (.vwidth g) s = execVwidth g s from rfl) (State.landG_eq ..)
  · exact ⟨_, predLanes_packPred _, issues_of_simple clear (show exec (.vwhile d i n y) s = execVwhile d i n y s from rfl) (vwhile_body ..)⟩

/-! ## Random numbers -/

theorem toNat_append_word {n : Nat} (x : BitVec n) (y : BitVec 32) : (x ++ y).toNat = x.toNat * 2 ^ 32 + y.toNat := by
  rw [BitVec.toNat_append, ← Nat.shiftLeft_add_eq_or_of_lt y.isLt, Nat.shiftLeft_eq]

/-- A digit of four to the base 2^32. -/
theorem word_of_four {w0 w1 w2 w3 : Nat} (h0 : w0 < 2 ^ 32) (h1 : w1 < 2 ^ 32) (h2 : w2 < 2 ^ 32) (h3 : w3 < 2 ^ 32) {r : Nat} (hr : r < 4) :
    (((w3 * 2 ^ 32 + w2) * 2 ^ 32 + w1) * 2 ^ 32 + w0) / 2 ^ (32 * r) % 2 ^ 32 = [w0, w1, w2, w3].getD r 0 := by
  obtain rfl | rfl | rfl | rfl : r = 0 ∨ r = 1 ∨ r = 2 ∨ r = 3 := by omega
  · show _ = w0
    omega
  · show _ = w1
    omega
  · show _ = w2
    omega
  · show _ = w3
    omega

/-- Word r of the four that one counter value gives. -/
theorem word_of_rngBits (k0 k1 k2 : BitVec 32) (c : Word) {r : Nat} (hr : r < 4) :
    (rngBits k0 k1 k2 c).toNat / 2 ^ (32 * r) % 2 ^ 32 = [(rngWords k0 k1 k2 c).w0.toNat, (rngWords k0 k1 k2 c).w1.toNat,
      (rngWords k0 k1 k2 c).w2.toNat, (rngWords k0 k1 k2 c).w3.toNat].getD r 0 := by
  have bits : (rngBits k0 k1 k2 c).toNat = (((rngWords k0 k1 k2 c).w3.toNat * 2 ^ 32 + (rngWords k0 k1 k2 c).w2.toNat) * 2 ^ 32 +
      (rngWords k0 k1 k2 c).w1.toNat) * 2 ^ 32 + (rngWords k0 k1 k2 c).w0.toNat := by
    rw [← toNat_append_word, ← toNat_append_word, ← toNat_append_word]
    rfl
  rw [bits, word_of_four (BitVec.isLt _) (BitVec.isLt _) (BitVec.isLt _) (BitVec.isLt _) hr]

theorem word_select (q : Quad) {r : Nat} (hr : r < 4) : [q.w0.toNat, q.w1.toNat, q.w2.toNat, q.w3.toNat].getD r 0 =
    (match r with | 0 => q.w0 | 1 => q.w1 | 2 => q.w2 | _ => q.w3).toNat := by
  obtain rfl | rfl | rfl | rfl : r = 0 ∨ r = 1 ∨ r = 2 ∨ r = 3 := by omega
  all_goals rfl

theorem randLane_eq (c : Csrs) (j : Nat) : randLane c j =
    (let q := rngWords (c.rngseed.extractLsb' 0 32) (c.rngseed.extractLsb' 32 32) (c.rngsid.extractLsb' 0 32)
      (c.rngctr + BitVec.ofNat 64 (j / 4))
    (match j % 4 with | 0 => q.w0 | 1 => q.w1 | 2 => q.w2 | _ => q.w3).toNat) := by
  have low : ∀ w : Word, w.setWidth 32 = w.extractLsb' 0 32 := fun w => by
    apply BitVec.eq_of_toNat_eq
    simp
  have high : (c.rngseed >>> 32).setWidth 32 = c.rngseed.extractLsb' 32 32 := by
    apply BitVec.eq_of_toNat_eq
    simp
  have words : randLane c j = (rngBits (c.rngseed.extractLsb' 0 32) (c.rngseed.extractLsb' 32 32) (c.rngsid.extractLsb' 0 32)
      (c.rngctr + BitVec.ofNat 64 (j / 4))).toNat / 2 ^ (32 * (j % 4)) % 2 ^ 32 := by
    rw [← low, ← low, ← high]
    rfl
  rw [words, word_of_rngBits _ _ _ _ (Nat.mod_lt _ (by decide))]
  exact word_select _ (Nat.mod_lt _ (by decide))

/-- What an instruction does as it retires leaves its sequencer's clock. -/
theorem retire_lc (t : State) : (t.retire.seqSt t.cur.q).lc = (t.seqSt t.cur.q).lc := by
  have place := (issued_retire t []).place
  rw [State.lands_nil] at place
  rw [place]

theorem landV_land (s : State) (lat : Nat) (d : Fin 32) (v : Vec) (n : Nat) (e : Eff) :
    (s.landV lat d v).land n e = s.lands (vWrite s lat d v ++ [(n, e)]) := rfl

/-! ## Loops -/

theorem high_of_setBits (w : Word) {lo n : Nat} (x : Nat) (below : lo + n ≤ 36) : (setBits w lo n x).toNat / 2 ^ 36 = w.toNat / 2 ^ 36 := by
  have field : ∀ v : Word, v.toNat / 2 ^ 36 = getBits v 36 28 := fun v => by
    have := v.isLt
    rw [getBits, Nat.mod_eq_of_lt (by omega)]
  rw [field, field, getBits_setBits_ne _ _ (by decide) (by omega)]

/-- A field counted down still fits. -/
theorem field_pred_mod (w : Word) (lo n : Nat) : (getBits w lo n - 1) % 2 ^ n = getBits w lo n - 1 :=
  Nat.mod_eq_of_lt (Nat.lt_of_le_of_lt (Nat.sub_le ..) (Nat.mod_lt _ (Nat.two_pow_pos _)))

/-- The effects of a turn of a pipelined loop. -/
def loopWrites (s : State) (w : Word) (stage : Nat) : List (Nat × Eff) :=
  [(1, .spctl w), (1, .vrb (BitVec.ofNat 4 (s.ctx.c.vrb.toNat + 15)))] ++
    ([0, 1, 2, 3] : List (Fin 8)).flatMap (fun k => pWrite 1 (4 + k) (if stage.testBit k.val then BitVec.allOnes 128 else 0))

theorem loop_lands (s : State) (w : Word) (stage : Nat) :
    (List.range 4).foldl (fun s k => s.landP 1 (Fin.ofNat 8 (4 + k)) (if (stage % 16).testBit k then BitVec.allOnes 128 else 0))
      ((s.land 1 (.spctl w)).land 1 (.vrb (s.ctx.c.vrb + 15))) = s.lands (loopWrites s w stage) := by
  have bit : ∀ k, k < 4 → (stage % 16).testBit k = stage.testBit k := fun k lt => by
    rw [show (16 : Nat) = 2 ^ 4 from rfl, Nat.testBit_mod_two_pow, decide_eq_true lt, Bool.true_and]
  have turn : s.ctx.c.vrb + 15 = BitVec.ofNat 4 (s.ctx.c.vrb.toNat + 15) := by
    rw [BitVec.ofNat_add, BitVec.ofNat_toNat, BitVec.setWidth_eq]
    rfl
  rw [loopWrites, ← turn]
  simp only [List.range_succ, List.range_zero, List.nil_append, List.cons_append, List.foldl_cons, List.foldl_nil, List.flatMap_cons,
    List.flatMap_nil, State.landP_eq, List.append_nil, bit 0 (by decide), bit 1 (by decide), bit 2 (by decide), bit 3 (by decide)]
  simp only [← State.lands_append]
  rfl

/-- A turn of a pipelined loop that goes on: its counts, its stage predicates and its rotation. -/
theorem loopTurn {s : State} {x : BitVec 16} {bit l e : Nat} {spctl : Word} (good : s.GoodTarget (s.relTarget x))
    (run : exec (.sploop x) s = .next (s.transfer (s.relTarget x) 0 (fun u =>
      (List.range 4).foldl (fun u k => u.landP 1 (Fin.ofNat 8 (4 + k))
        (if ((getBits s.ctx.c.spctl 32 4 * 2 + bit) % 16).testBit k then BitVec.allOnes 128 else 0))
        ((u.land 1 (.spctl (setBits spctl 32 4 ((getBits s.ctx.c.spctl 32 4 * 2 + bit) % 16)))).land 1 (.vrb (u.ctx.c.vrb + 15))))))
    (hl : getBits spctl 0 16 = l) (he : getBits spctl 16 16 = e) (high : spctl.toNat / 2 ^ 36 = s.ctx.c.spctl.toNat / 2 ^ 36) :
    ∃ w : Word, getBits w 0 16 = l ∧ getBits w 16 16 = e ∧ getBits w 32 4 = (getBits s.ctx.c.spctl 32 4 * 2 + bit) % 16 ∧
      w.toNat / 2 ^ 36 = s.ctx.c.spctl.toNat / 2 ^ 36 ∧
      IssuesTo (.sploop x) s (loopWrites s w (getBits s.ctx.c.spctl 32 4 * 2 + bit)) (placeAt (s.relTarget x)) 0 := by
  refine ⟨_, ?_, ?_, ?_, ?_, issuesTo_transfer good (loop_lands s (setBits spctl 32 4 ((getBits s.ctx.c.spctl 32 4 * 2 + bit) % 16)) _) run⟩
  · rw [getBits_setBits_ne _ _ (by decide) (by decide), hl]
  · rw [getBits_setBits_ne _ _ (by decide) (by decide), he]
  · rw [getBits_setBits_same _ _ (by decide), show (2 : Nat) ^ 4 = 16 from rfl, Nat.mod_mod]
  · rw [high_of_setBits _ _ (by decide), high]

theorem vectorStreams : Claims.VectorStreams := by
  intro s d a p c
  refine ⟨fun clear => ⟨fun goes => ?_, fun wraps trapping => ?_⟩, fun clear => ⟨fun empty => ?_, fun e r queue => ⟨fun absent => ?_, fun there => ?_⟩⟩,
    fun clear => ⟨fun room => ?_, fun full => ?_⟩, fun n => ?_, fun x t target clear => ?_⟩
  · have run := show exec (.vrand d p) s = execVrand d p s from rfl
    rw [execVrand, guarded_of_clear clear] at run
    have stays : ¬ ((decide (2 ^ 64 ≤ s.ctx.c.rngctr.toNat + 8) && s.ctx.c.tstatus.getLsbD 12) = true) := by
      rw [Bool.and_eq_true, decide_eq_true_eq]
      rintro ⟨wraps, trapping⟩
      rcases goes with fits | off
      · exact absurd wraps (Nat.not_le.2 fits)
      · exact Bool.false_ne_true (off.symm.trans trapping)
    refine ⟨packLanes 4 32 (fun j => if laneOn (s.rp p) 4 j then randLane s.ctx.c j else 0), fun j hj => ?_, _,
      run.trans (congrArg Host.Outcome.next ((if_neg stays).trans (congrArg State.retire (landV_land ..)))), issued_retire s _⟩
    refine (laneOf_packLanes (z := 4) (n := 32) (by decide) hj).trans ?_
    by_cases active : laneOn (s.rp p) 4 j = true
    · rw [if_pos active]
      exact (Nat.mod_eq_of_lt (Nat.mod_lt _ (by decide))).trans ((randLane_eq s.ctx.c j).trans (if_pos active).symm)
    · rw [if_neg active, Nat.zero_mod]
      exact (if_neg active).symm
  · have run := show exec (.vrand d p) s = execVrand d p s from rfl
    rw [execVrand, guarded_of_clear clear] at run
    exact run.trans (congrArg Host.Outcome.next (if_pos (by rw [decide_eq_true wraps, Bool.true_and]; exact trapping)))
  · have run := show exec (.vpop d) s = execVpop d s from rfl
    rw [execVpop, guarded_of_clear clear, empty] at run
    exact run
  · have run := show exec (.vpop d) s = execVpop d s from rfl
    rw [execVpop, guarded_of_clear clear, queue] at run
    exact run.trans (congrArg Host.Outcome.next (if_neg (by rw [absent]; exact Bool.false_ne_true)))
  · have run := show exec (.vpop d) s = execVpop d s from rfl
    rw [execVpop, guarded_of_clear clear, queue] at run
    have run := run.trans (congrArg Host.Outcome.next (if_pos there))
    rw [landV_land] at run
    have sending := ((Sending.refl s).lands (vWrite s 1 d e.val ++ [(1, .vqPop .ax)])).setLc (Clk.max s.lc e.clk)
    refine ⟨_, run, ?_, sending.retired, ?_⟩
    · exact (State.retire_mem _).trans ((State.setLc_mem _ _).trans (sameBut_lands s (vWrite s 1 d e.val ++ [(1, .vqPop .ax)])).mem_eq)
    · have lc := retire_lc ((s.lands (vWrite s 1 d e.val ++ [(1, .vqPop .ax)])).setLc (Clk.max s.lc e.clk))
      rw [sending.cur, ← (sameBut_lands s (vWrite s 1 d e.val ++ [(1, .vqPop .ax)])).cur_eq, State.setLc, seqSt_modSeq] at lc
      rw [← (sameBut_lands s (vWrite s 1 d e.val ++ [(1, .vqPop .ax)])).cur_eq]
      exact lc
  · have run := show exec (.vpush a) s = execVpush a s from rfl
    rw [execVpush, guarded_of_clear clear] at run
    exact ⟨_, run.trans (congrArg Host.Outcome.next (if_neg (Nat.not_le.2 room))), issued_retire s [(1, .vqPush (s.rv a) s.lc)]⟩
  · have run := show exec (.vpush a) s = execVpush a s from rfl
    rw [execVpush, guarded_of_clear clear] at run
    exact run.trans (congrArg Host.Outcome.next (if_pos full))
  · refine issues_congr (issues_of_simple (es := [(1, .vrb (s.ctx.c.vrb + BitVec.ofNat 4 n.val))]) (clear_nothing s false)
      (show exec (.vrot n) s = execVrot n s from rfl) rfl) ?_
    rw [BitVec.ofNat_add, BitVec.ofNat_toNat, BitVec.setWidth_eq]
  · rw [← relTarget_eq_ofInt] at target
    subst target
    have run := show exec (.sploop x) s = execSploop x s from rfl
    rw [execSploop, guarded_of_clear clear] at run
    dsimp only at run
    intro lc ec stg goes
    refine ⟨fun more good => ?_, fun last drains good => ?_, fun last done => ?_⟩
    · refine loopTurn (bit := 1) (spctl := setBits s.ctx.c.spctl 0 16 (lc - 1)) good (run.trans (congrArg Host.Outcome.next (if_pos more)))
        ?_ ?_ (high_of_setBits _ _ (by decide))
      · exact (getBits_setBits_same _ _ (by decide)).trans (field_pred_mod _ _ _)
      · exact getBits_setBits_ne _ _ (by decide) (by decide)
    · refine loopTurn (bit := 0) (spctl := setBits s.ctx.c.spctl 16 16 (ec - 1)) good
        (run.trans (congrArg Host.Outcome.next ((if_neg (not_not.2 last)).trans (if_pos drains)))) ?_ ?_ (high_of_setBits _ _ (by decide))
      · exact (getBits_setBits_ne _ _ (by decide) (by decide)).trans last
      · exact (getBits_setBits_same _ _ (by decide)).trans (field_pred_mod _ _ _)
    · exact issuesTo_fallThrough (run.trans (congrArg Host.Outcome.next ((if_neg (not_not.2 last)).trans (if_neg (not_not.2 done)))))

/-- Settles O40: predicates and streams each send their effects and retire; a pipelined loop is one transfer with its counts, its stage
predicates and its rotation as its link. -/
theorem predicatesAndVectorStreams : Obligations.PredicatesAndVectorStreams := ⟨predicates, vectorStreams⟩

end Sys2Proof.Machine
end

section
/-! SUPPORT. Vector reductions: the pairwise tree and what it keeps (03_arithmetic.md R82, R83, 08_vector.md R210). -/

namespace Sys2Proof.Machine

open Sys2Proof

/-! ## The tree -/

section
variable {α : Type} {op : α → α → α}

/-- One level of the tree. -/
theorem pairTree_go_cons (op : α → α → α) (x y : α) (r : List α) : pairTree.go op (x :: y :: r) = op x y :: pairTree.go op r := by
  rw [pairTree.go]

theorem length_pairTree_go (op : α → α → α) (l : List α) : (pairTree.go op l).length = (l.length + 1) / 2 := by
  induction l using pairTree.go.induct with
  | case1 x y r ih =>
    rw [pairTree.go, List.length_cons, ih, List.length_cons, List.length_cons]
    omega
  | case2 r other =>
    match r, other with
    | [], other => rw [pairTree.go]; simp; exact other
    | [x], other => rw [pairTree.go]; simp; exact other
    | x :: y :: r, other => exact absurd rfl (other x y r)

/-- A relation of a list to a value that every level of the tree keeps. -/
theorem pairTree_keeps {P : List α → Prop} (keeps : ∀ l, P l → P (pairTree.go op l)) (n : Nat) {l : List α} (h : P l) :
    P (pairTree op n l) := by
  induction n generalizing l with
  | zero => exact h
  | succ n ih => exact ih (keeps l h)

/-- A list of at most 2^n elements, and not none, ends as one. -/
theorem length_pairTree (op : α → α → α) {n : Nat} {l : List α} (some : 0 < l.length) (few : l.length ≤ 2 ^ n) : (pairTree op n l).length = 1 := by
  induction n generalizing l with
  | zero => exact Nat.le_antisymm few some
  | succ n ih =>
    refine ih ?_ ?_ <;> rw [length_pairTree_go]
    · omega
    · rw [Nat.pow_succ] at few
      omega

/-- What holds of the one element that is left. -/
theorem headD_of_pairTree {P : List α → Prop} (keeps : ∀ l, P l → P (pairTree.go op l)) {n : Nat} {l : List α} (some : 0 < l.length)
    (few : l.length ≤ 2 ^ n) (h : P l) (default : α) : P [(pairTree op n l).headD default] := by
  obtain ⟨x, one⟩ := List.length_eq_one_iff.1 (length_pairTree op some few)
  have last := pairTree_keeps keeps n h
  rw [one] at last ⊢
  exact last

/-- A property of the elements that the operator keeps. -/
theorem forall_pairTree_go {p : α → Prop} (keeps : ∀ x y, p x → p y → p (op x y)) (l : List α) (h : ∀ x ∈ l, p x) :
    ∀ x ∈ pairTree.go op l, p x := by
  induction l using pairTree.go.induct with
  | case1 x y r ih =>
    rw [pairTree.go, List.forall_mem_cons]
    rw [List.forall_mem_cons, List.forall_mem_cons] at h
    exact ⟨keeps x y h.1 h.2.1, ih h.2.2⟩
  | case2 r other =>
    rw [pairTree.go]
    · exact h
    · exact other

/-- A property that some element has, and that the operator takes from either of a pair. -/
theorem exists_pairTree_go {p : α → Prop} (takes : ∀ x y, p x ∨ p y → p (op x y)) (l : List α) (h : ∃ x ∈ l, p x) :
    ∃ x ∈ pairTree.go op l, p x := by
  induction l using pairTree.go.induct with
  | case1 x y r ih =>
    rw [pairTree.go, List.exists_mem_cons_iff]
    rw [List.exists_mem_cons_iff, List.exists_mem_cons_iff, ← or_assoc] at h
    exact h.imp (takes x y) ih
  | case2 r other =>
    rw [pairTree.go]
    · exact h
    · exact other

end

theorem sum_pairTree_go (l : List Word) : (pairTree.go (· + ·) l).sum = l.sum := by
  induction l using pairTree.go.induct with
  | case1 x y r ih => rw [pairTree.go, List.sum_cons, ih, List.sum_cons, List.sum_cons, BitVec.add_assoc]
  | case2 r other =>
    rw [pairTree.go]
    exact other

/-! ## Integer reductions -/

/-- The lanes of an integer reduction, inactive ones at the identity. -/
def State.redLanes (s : State) (a : Fin 32) (p y : Fin 8) (identity : Int) : List Word :=
  (List.range (tyLanes y.val)).map (fun j => if s.active p y.val j then
    BitVec.ofInt 64 (readLane (tySigned y.val) (8 * tySize y.val) (laneOf (s.rv a) (tySize y.val) j)) else BitVec.ofInt 64 identity)

/-- The active lanes of a type. -/
def State.actives (s : State) (p : Fin 8) (ty : Nat) : List Nat := (List.range (tyLanes ty)).filter (s.active p ty)

/-- Lane j as an integer. -/
def State.laneInt (s : State) (a : Fin 32) (y : Fin 8) (j : Nat) : Int :=
  readLane (tySigned y.val) (8 * tySize y.val) (laneOf (s.rv a) (tySize y.val) j)

theorem tyLanes_bounds (ty : Nat) : 0 < tyLanes ty ∧ tyLanes ty ≤ 2 ^ 7 := by
  unfold tyLanes tySize
  split <;> decide

section
variable {s : State} {d a : Fin 32} {p y : Fin 8} {identity : Int} {op : Word → Word → Word} {empty : Bool} {i : Instr}

theorem length_redLanes : (s.redLanes a p y identity).length = tyLanes y.val := by
  rw [State.redLanes, List.length_map, List.length_range]

theorem mem_actives {ty j : Nat} : j ∈ s.actives p ty ↔ j < tyLanes ty ∧ s.active p ty j = true := by
  rw [State.actives, List.mem_filter, List.mem_range]

theorem forall_redLanes {q : Word → Prop} : (∀ x ∈ s.redLanes a p y identity, q x) ↔
    (∀ j ∈ s.actives p y.val, q (BitVec.ofInt 64 (s.laneInt a y j))) ∧
      ((∃ j < tyLanes y.val, s.active p y.val j = false) → q (BitVec.ofInt 64 identity)) := by
  rw [State.redLanes, List.forall_mem_map]
  constructor
  · refine fun h => ⟨fun j hj => ?_, fun ⟨j, lt, idle⟩ => ?_⟩
    · obtain ⟨lt, on⟩ := mem_actives.1 hj
      have := h j (List.mem_range.2 lt)
      rw [if_pos on] at this
      exact this
    · have := h j (List.mem_range.2 lt)
      rw [if_neg (by rw [idle]; exact Bool.false_ne_true)] at this
      exact this
  · rintro ⟨active, idle⟩ j hj
    by_cases on : s.active p y.val j = true
    · rw [if_pos on]
      exact active j (mem_actives.2 ⟨List.mem_range.1 hj, on⟩)
    · rw [if_neg on]
      exact idle ⟨j, List.mem_range.1 hj, Bool.eq_false_iff.2 on⟩

theorem anyLane_iff (ty : Nat) : s.anyLane p ty = true ↔ ∃ j, j ∈ s.actives p ty := by
  rw [State.anyLane, List.any_eq_true]
  exact exists_congr fun j => by rw [mem_actives, List.mem_range]; rfl

/-- What an integer reduction issues. -/
theorem issues_redInt (run : exec i s = s.redInt d a p y identity op empty) (clear : s.Clear [.v (s.vphys a), .p p] [.g d] false) :
    Issues i s (gWrite 3 d ((pairTree op 7 (s.redLanes a p y identity)).headD 0) ++
      evCount (evIf (empty && !s.anyLane p y.val) evEMPTY)) :=
  issues_of_guarded clear run (by simp only [State.landG_eq, State.landEv_eq, State.lands_append]; rfl)

/-- The result has what every level of the tree keeps. -/
theorem redInt_result {P : List Word → Prop} (keeps : ∀ l, P l → P (pairTree.go op l)) (h : P (s.redLanes a p y identity)) :
    P [(pairTree op 7 (s.redLanes a p y identity)).headD 0] := by
  obtain ⟨some, few⟩ := tyLanes_bounds y.val
  exact headD_of_pairTree keeps (by rw [length_redLanes]; exact some) (by rw [length_redLanes]; exact few) h 0

/-- With no active lane the result is the identity. -/
theorem redInt_empty (none : s.actives p y.val = []) (idem : op (BitVec.ofInt 64 identity) (BitVec.ofInt 64 identity) = BitVec.ofInt 64 identity) :
    (pairTree op 7 (s.redLanes a p y identity)).headD 0 = BitVec.ofInt 64 identity := by
  have all := redInt_result (s := s) (a := a) (p := p) (y := y) (identity := identity) (op := op)
    (P := fun l => ∀ x ∈ l, x = BitVec.ofInt 64 identity)
    (forall_pairTree_go (fun u v hu hv => by rw [hu, hv, idem]))
    (forall_redLanes.2 ⟨fun j hj => absurd hj (by rw [none]; exact List.not_mem_nil), fun _ => rfl⟩)
  exact all _ (List.mem_singleton.2 rfl)

/-- An operator that gives one of its operands, the one that the order puts first, gives the lane that comes before every other. -/
theorem redInt_extreme {ord : Word → Int} {m : Nat} (hm : m ∈ s.actives p y.val) (picks : ∀ u v, op u v = u ∨ op u v = v)
    (best : ∀ u v, ord u ≤ ord (op u v) ∧ ord v ≤ ord (op u v)) (inj : ∀ u v, ord u = ord v → u = v)
    (top : ∀ j ∈ s.actives p y.val, ord (BitVec.ofInt 64 (s.laneInt a y j)) ≤ ord (BitVec.ofInt 64 (s.laneInt a y m)))
    (low : ord (BitVec.ofInt 64 identity) ≤ ord (BitVec.ofInt 64 (s.laneInt a y m))) :
    (pairTree op 7 (s.redLanes a p y identity)).headD 0 = BitVec.ofInt 64 (s.laneInt a y m) := by
  have above := redInt_result (s := s) (a := a) (p := p) (y := y) (identity := identity)
    (op := op) (P := fun l => ∀ x ∈ l, ord x ≤ ord (BitVec.ofInt 64 (s.laneInt a y m)))
    (forall_pairTree_go (fun u v hu hv => by rcases picks u v with h | h <;> rw [h] <;> assumption))
    (forall_redLanes.2 ⟨top, fun _ => low⟩)
  have reached := redInt_result (s := s) (a := a) (p := p) (y := y) (identity := identity)
    (P := fun l => ∃ x ∈ l, ord (BitVec.ofInt 64 (s.laneInt a y m)) ≤ ord x) (op := op)
    (exists_pairTree_go (fun u v h => h.elim (fun h => h.trans (best u v).1) (fun h => h.trans (best u v).2))) ?_
  · obtain ⟨x, hx, le⟩ := reached
    rw [List.mem_singleton.1 hx] at le
    exact inj _ _ (Int.le_antisymm (above _ (List.mem_singleton.2 rfl)) le)
  · by_contra none
    have least := (forall_redLanes (q := fun x => ¬ ord (BitVec.ofInt 64 (s.laneInt a y m)) ≤ ord x)).1 (fun x hx le => none ⟨x, hx, le⟩)
    exact least.1 m hm (Int.le_refl _)

/-- A bit of the conjunction of all lanes. -/
theorem redInt_and {k : Nat} : ((pairTree (· &&& ·) 7 (s.redLanes a p y (-1))).headD 0).getLsbD k = true ↔
    (∀ j ∈ s.actives p y.val, (BitVec.ofInt 64 (s.laneInt a y j)).getLsbD k = true) ∧
      ((∃ j < tyLanes y.val, s.active p y.val j = false) → (BitVec.ofInt 64 (-1)).getLsbD k = true) := by
  rw [← forall_redLanes (q := fun x => x.getLsbD k = true)]
  constructor
  · intro h
    by_contra some
    rw [not_forall₂] at some
    have kept := redInt_result (s := s) (a := a) (p := p) (y := y) (identity := -1) (op := (· &&& ·)) (P := fun l => ∃ x ∈ l, ¬ x.getLsbD k = true)
      (exists_pairTree_go (fun u v h => by rw [BitVec.getLsbD_and, Bool.and_eq_true, not_and_or]; exact h))
      (some.imp fun x ⟨hx, no⟩ => ⟨hx, no⟩)
    obtain ⟨x, hx, no⟩ := kept
    rw [List.mem_singleton.1 hx] at no
    exact no h
  · intro h
    exact redInt_result (op := (· &&& ·)) (P := fun l => ∀ x ∈ l, x.getLsbD k = true)
      (forall_pairTree_go (fun u v hu hv => by rw [BitVec.getLsbD_and, hu, hv]; rfl)) h _ (List.mem_singleton.2 rfl)

/-- A bit of the disjunction of all lanes. -/
theorem redInt_or {k : Nat} : ((pairTree (· ||| ·) 7 (s.redLanes a p y 0)).headD 0).getLsbD k = true ↔
    ∃ j ∈ s.actives p y.val, (BitVec.ofInt 64 (s.laneInt a y j)).getLsbD k = true := by
  have zero : (BitVec.ofInt 64 0).getLsbD k = false := BitVec.getLsbD_zero
  constructor
  · intro h
    by_contra none
    have kept := redInt_result (s := s) (a := a) (p := p) (y := y) (identity := 0) (op := (· ||| ·)) (P := fun l => ∀ x ∈ l, x.getLsbD k = false)
      (forall_pairTree_go (fun u v hu hv => by rw [BitVec.getLsbD_or, hu, hv]; rfl))
      (forall_redLanes.2 ⟨fun j hj => Bool.eq_false_iff.2 fun on => none ⟨j, hj, on⟩, fun _ => zero⟩) _ (List.mem_singleton.2 rfl)
    exact Bool.false_ne_true (kept.symm.trans h)
  · rintro ⟨j, hj, on⟩
    have kept := redInt_result (s := s) (a := a) (p := p) (y := y) (identity := 0) (op := (· ||| ·)) (P := fun l => ∃ x ∈ l, x.getLsbD k = true)
      (exists_pairTree_go (fun u v h => by rw [BitVec.getLsbD_or, Bool.or_eq_true]; exact h)) (by
        by_contra none
        exact (forall_redLanes.1 (fun x hx h => none ⟨x, hx, h⟩ : ∀ x ∈ s.redLanes a p y 0, ¬ x.getLsbD k = true)).1 j hj on)
    obtain ⟨x, hx, one⟩ := kept
    rw [List.mem_singleton.1 hx] at one
    exact one

/-- The sum of all lanes. -/
theorem redInt_sum : (pairTree (· + ·) 7 (s.redLanes a p y 0)).headD 0 = BitVec.ofInt 64 ((s.actives p y.val).map (s.laneInt a y)).sum := by
  have total : (s.redLanes a p y 0).sum = BitVec.ofInt 64 ((s.actives p y.val).map (s.laneInt a y)).sum := by
    rw [State.redLanes, State.actives]
    induction List.range (tyLanes y.val) with
    | nil => rfl
    | cons j r ih =>
      rw [List.map_cons, List.sum_cons, ih, List.filter_cons]
      by_cases on : s.active p y.val j = true
      · rw [if_pos on, if_pos on, List.map_cons, List.sum_cons, BitVec.ofInt_add]
        rfl
      · rw [if_neg on, if_neg on]
        exact BitVec.zero_add _
  have kept := redInt_result (s := s) (a := a) (p := p) (y := y) (identity := 0) (op := (· + ·))
    (P := fun l => l.sum = BitVec.ofInt 64 ((s.actives p y.val).map (s.laneInt a y)).sum) (fun l h => (sum_pairTree_go l).trans h) total
  rw [← kept, List.sum_singleton]

end

/-! ## The order of lanes -/

/-- A word as the integer that its type says. -/
def wordInt (sg : Bool) (w : Word) : Int := if sg then w.toInt else w.toNat

theorem wordInt_lt (sg : Bool) (u v : Word) : (if sg then u.slt v else u.ult v) = decide (wordInt sg u < wordInt sg v) := by
  cases sg with
  | true => rfl
  | false => exact decide_eq_decide.2 Int.ofNat_lt.symm

theorem wordInt_inj (sg : Bool) {u v : Word} (h : wordInt sg u = wordInt sg v) : u = v := by
  cases sg with
  | true => exact BitVec.eq_of_toInt_eq h
  | false => exact BitVec.eq_of_toNat_eq (Int.ofNat_inj.1 h)

theorem bits_le (ty : Nat) : 8 * tySize ty ≤ 64 := by
  unfold tySize
  split <;> decide

/-- An integer of the type's range stands for itself in 64 bits. -/
theorem wordInt_ofInt (ty : Nat) {x : Int} (lo : typeMin (tySigned ty) (8 * tySize ty) ≤ x) (hi : x ≤ typeMax (tySigned ty) (8 * tySize ty)) :
    wordInt (tySigned ty) (BitVec.ofInt 64 x) = x := by
  have wide := bits_le ty
  have half : (2 : Int) ^ (8 * tySize ty - 1) ≤ 2 ^ 63 := pow_le_pow_right₀ (by decide) (by omega)
  have whole : (2 : Int) ^ (8 * tySize ty) ≤ 2 ^ 64 := pow_le_pow_right₀ (by decide) wide
  cases sg : tySigned ty with
  | true =>
    rw [sg] at lo hi
    simp only [typeMin, typeMax, if_true] at lo hi
    rw [wordInt, if_pos rfl, BitVec.toInt_ofInt]
    exact Int.bmod_eq_of_le (by omega) (by omega)
  | false =>
    rw [sg] at lo hi
    simp only [typeMin, typeMax, Bool.false_eq_true, if_false] at lo hi
    rw [wordInt, if_neg Bool.false_ne_true, BitVec.toNat_ofInt, Int.toNat_of_nonneg (Int.emod_nonneg _ (by decide))]
    exact Int.emod_eq_of_lt lo (by omega)

theorem laneInt_bounds (s : State) (a : Fin 32) (y : Fin 8) (j : Nat) :
    typeMin (tySigned y.val) (8 * tySize y.val) ≤ s.laneInt a y j ∧ s.laneInt a y j ≤ typeMax (tySigned y.val) (8 * tySize y.val) := by
  have small := laneOf_lt (s.rv a) (tySize y.val) j
  have pos := bits_pos y.val
  rw [State.laneInt]
  cases tySigned y.val with
  | true =>
    have lo := BitVec.le_toInt (BitVec.ofNat (8 * tySize y.val) (laneOf (s.rv a) (tySize y.val) j))
    have hi := BitVec.toInt_lt (x := BitVec.ofNat (8 * tySize y.val) (laneOf (s.rv a) (tySize y.val) j))
    simp only [readLane, typeMin, typeMax, if_true]
    omega
  | false =>
    simp only [readLane, typeMin, typeMax, Bool.false_eq_true, if_false]
    have := Int.ofNat_lt.2 small
    rw [Nat.cast_pow, Nat.cast_ofNat] at this
    omega

section
variable {s : State} {d a : Fin 32} {p y : Fin 8}

theorem wordInt_lane (j : Nat) : wordInt (tySigned y.val) (BitVec.ofInt 64 (s.laneInt a y j)) = s.laneInt a y j :=
  wordInt_ofInt y.val (laneInt_bounds s a y j).1 (laneInt_bounds s a y j).2

/-- The greatest active lane. -/
theorem redInt_max {m : Nat} (hm : m ∈ s.actives p y.val) (top : ∀ j ∈ s.actives p y.val, s.laneInt a y j ≤ s.laneInt a y m) :
    (pairTree (fun u v => if (if tySigned y.val then u.slt v else u.ult v) then v else u) 7
      (s.redLanes a p y (typeMin (tySigned y.val) (8 * tySize y.val)))).headD 0 = BitVec.ofInt 64 (s.laneInt a y m) := by
  refine redInt_extreme (ord := wordInt (tySigned y.val)) hm (fun u v => ?_) (fun u v => ?_) (fun u v => wordInt_inj _) (fun j hj => ?_) ?_
  · exact (ite_eq_or_eq _ v u).symm
  · rw [wordInt_lt]
    by_cases less : wordInt (tySigned y.val) u < wordInt (tySigned y.val) v
    · rw [if_pos (decide_eq_true less)]
      exact ⟨Int.le_of_lt less, Int.le_refl _⟩
    · rw [if_neg (by rw [decide_eq_true_iff]; exact less)]
      exact ⟨Int.le_refl _, Int.not_lt.1 less⟩
  · rw [wordInt_lane, wordInt_lane]
    exact top j hj
  · rw [wordInt_lane, wordInt_ofInt y.val (Int.le_refl _) (typeMin_le_typeMax ..)]
    exact (laneInt_bounds s a y m).1

/-- The smallest active lane. -/
theorem redInt_min {m : Nat} (hm : m ∈ s.actives p y.val) (least : ∀ j ∈ s.actives p y.val, s.laneInt a y m ≤ s.laneInt a y j) :
    (pairTree (fun u v => if (if tySigned y.val then u.slt v else u.ult v) then u else v) 7
      (s.redLanes a p y (typeMax (tySigned y.val) (8 * tySize y.val)))).headD 0 = BitVec.ofInt 64 (s.laneInt a y m) := by
  refine redInt_extreme (ord := fun w => -wordInt (tySigned y.val) w) hm (fun u v => ?_) (fun u v => ?_)
    (fun u v h => wordInt_inj _ (Int.neg_inj.1 h)) (fun j hj => ?_) ?_
  · exact ite_eq_or_eq _ u v
  · rw [wordInt_lt]
    by_cases less : wordInt (tySigned y.val) u < wordInt (tySigned y.val) v
    · rw [if_pos (decide_eq_true less)]
      exact ⟨Int.le_refl _, Int.neg_le_neg (Int.le_of_lt less)⟩
    · rw [if_neg (by rw [decide_eq_true_iff]; exact less)]
      exact ⟨Int.neg_le_neg (Int.not_lt.1 less), Int.le_refl _⟩
  · rw [wordInt_lane, wordInt_lane]
    exact Int.neg_le_neg (least j hj)
  · rw [wordInt_lane, wordInt_ofInt y.val (typeMin_le_typeMax ..) (Int.le_refl _)]
    exact Int.neg_le_neg (laneInt_bounds s a y m).2

/-- The events of a reduction that counts EMPTY. -/
theorem events_of_none (none : s.actives p y.val = []) : evIf (true && !s.anyLane p y.val) evEMPTY = evEMPTY := by
  have idle : s.anyLane p y.val = false := Bool.eq_false_iff.2 fun any => by
    obtain ⟨j, hj⟩ := (anyLane_iff y.val).1 any
    rw [none] at hj
    exact List.not_mem_nil hj
  rw [idle]
  rfl

theorem events_of_some {m : Nat} (hm : m ∈ s.actives p y.val) : evIf (true && !s.anyLane p y.val) evEMPTY = 0 := by
  rw [(anyLane_iff y.val).2 ⟨m, hm⟩]
  rfl

theorem integerReductions (s : State) (d a : Fin 32) (p y : Fin 8) (clear : s.Clear [.v (s.vphys a), .p p] [.g d] false) :
    let gives := fun (i : Instr) (r : Word) (e : Ev) => Issues i s (gWrite 3 d r ++ evCount e)
    gives (.vredsum d a p y) (BitVec.ofInt 64 ((s.actives p y.val).map (s.laneInt a y)).sum) 0 ∧
    (s.actives p y.val = [] → gives (.vredmax d a p y) (BitVec.ofInt 64 (typeMin (tySigned y.val) (8 * tySize y.val))) evEMPTY ∧
      gives (.vredmin d a p y) (BitVec.ofInt 64 (typeMax (tySigned y.val) (8 * tySize y.val))) evEMPTY ∧
      gives (.vredand d a p y) (BitVec.allOnes 64) 0 ∧ gives (.vredor d a p y) 0 0) ∧
    (∀ m ∈ s.actives p y.val, (∀ j ∈ s.actives p y.val, s.laneInt a y j ≤ s.laneInt a y m) →
      gives (.vredmax d a p y) (BitVec.ofInt 64 (s.laneInt a y m)) 0) ∧
    (∀ m ∈ s.actives p y.val, (∀ j ∈ s.actives p y.val, s.laneInt a y m ≤ s.laneInt a y j) →
      gives (.vredmin d a p y) (BitVec.ofInt 64 (s.laneInt a y m)) 0) ∧
    (∃ r, gives (.vredand d a p y) r 0 ∧
      ∀ i : Nat, i < 64 → (r.getLsbD i = true ↔ ∀ j ∈ s.actives p y.val, (BitVec.ofInt 64 (s.laneInt a y j)).getLsbD i = true)) ∧
    ∃ r, gives (.vredor d a p y) r 0 ∧
      ∀ i : Nat, i < 64 → (r.getLsbD i = true ↔ ∃ j ∈ s.actives p y.val, (BitVec.ofInt 64 (s.laneInt a y j)).getLsbD i = true) := by
  intro gives
  have sum := issues_redInt (i := .vredsum d a p y) (identity := 0) (op := (· + ·)) (empty := false) (by exact rfl) clear
  have max := issues_redInt (i := .vredmax d a p y) (identity := typeMin (tySigned y.val) (8 * tySize y.val))
    (op := fun u v => if (if tySigned y.val then u.slt v else u.ult v) then v else u) (empty := true) (by exact rfl) clear
  have min := issues_redInt (i := .vredmin d a p y) (identity := typeMax (tySigned y.val) (8 * tySize y.val))
    (op := fun u v => if (if tySigned y.val then u.slt v else u.ult v) then u else v) (empty := true) (by exact rfl) clear
  have and := issues_redInt (i := .vredand d a p y) (identity := -1) (op := (· &&& ·)) (empty := false) (by exact rfl) clear
  have or := issues_redInt (i := .vredor d a p y) (identity := 0) (op := (· ||| ·)) (empty := false) (by exact rfl) clear
  have ones : BitVec.ofInt 64 (-1) = BitVec.allOnes 64 := rfl
  refine ⟨?_, fun none => ⟨?_, ?_, ?_, ?_⟩, fun m hm top => ?_, fun m hm least => ?_, ⟨_, and, fun i small => ?_⟩, ⟨_, or, fun i _ => redInt_or⟩⟩
  · rw [redInt_sum] at sum
    exact sum
  · rw [redInt_empty (op := fun u v => if (if tySigned y.val then u.slt v else u.ult v) then v else u) none (ite_self _), events_of_none none] at max
    exact max
  · rw [redInt_empty (op := fun u v => if (if tySigned y.val then u.slt v else u.ult v) then u else v) none (ite_self _), events_of_none none] at min
    exact min
  · rw [redInt_empty (op := (· &&& ·)) none BitVec.and_self, ones] at and
    exact and
  · rw [redInt_empty (op := (· ||| ·)) none BitVec.or_self] at or
    exact or
  · rw [redInt_max hm top, events_of_some hm] at max
    exact max
  · rw [redInt_min hm least, events_of_some hm] at min
    exact min
  · exact redInt_and.trans (and_iff_left fun _ => by rw [ones, BitVec.getLsbD_allOnes, decide_eq_true small])

end

/-! ## Floating-point reductions -/

section
variable {α : Type}

theorem pairTree_succ (op : α → α → α) (n : Nat) (l : List α) : pairTree op (n + 1) l = pairTree.go op (pairTree op n l) := by
  induction n generalizing l with
  | zero => rfl
  | succ n ih => exact ih (pairTree.go op l)

/-- A list of 2^n elements, level after level. -/
theorem length_pairTree_level (op : α → α → α) {top : Nat} {l : List α} (len : l.length = 2 ^ top) {n : Nat} (le : n ≤ top) :
    (pairTree op n l).length = 2 ^ (top - n) := by
  induction n with
  | zero => exact len
  | succ n ih =>
    have half : top - n = top - (n + 1) + 1 := by omega
    rw [pairTree_succ, length_pairTree_go, ih (by omega), half, Nat.pow_succ]
    omega

theorem getD_pairTree_go (op : α → α → α) (default : α) (l : List α) {j : Nat} (small : 2 * j + 1 < l.length) :
    (pairTree.go op l).getD j default = op (l.getD (2 * j) default) (l.getD (2 * j + 1) default) := by
  induction l using pairTree.go.induct generalizing j with
  | case1 x y r ih =>
    rw [pairTree.go]
    cases j with
    | zero => rfl
    | succ j =>
      rw [List.length_cons, List.length_cons] at small
      exact ih (by omega)
  | case2 r other =>
    match r, other with
    | [], _ => exact absurd small (Nat.not_lt_zero _)
    | [_], _ => exact absurd small (by rw [List.length_singleton]; omega)
    | x :: y :: r, other => exact absurd rfl (other x y r)

end

/-- A node of the tree of a floating-point reduction, which keeps the events below it. -/
def fpNode (op : Nat → Nat → Nat × Ev) (u v : Nat × Ev) : Nat × Ev := ((op u.1 v.1).1, (op u.1 v.1).2 ||| u.2 ||| v.2)

/-- A value of a list of values with their events. -/
def valueAt (l : List (Nat × Ev)) (j : Nat) : Nat := (l.getD j (0, 0)).1

/-- Some element has event k. -/
def HasEvent (k : Nat) (l : List (Nat × Ev)) : Prop := ∃ u ∈ l, u.2.getLsbD k = true

section
variable {op : Nat → Nat → Nat × Ev} {k : Nat}

/-- The events after a level are those before it and those of its nodes. -/
theorem hasEvent_go (l : List (Nat × Ev)) : HasEvent k (pairTree.go (fpNode op) l) ↔
    HasEvent k l ∨ ∃ j, 2 * j + 1 < l.length ∧ (op (valueAt l (2 * j)) (valueAt l (2 * j + 1))).2.getLsbD k = true := by
  induction l using pairTree.go.induct with
  | case1 x y r ih =>
    have below : (∃ j, 2 * j + 1 < (x :: y :: r).length ∧
          (op (valueAt (x :: y :: r) (2 * j)) (valueAt (x :: y :: r) (2 * j + 1))).2.getLsbD k = true) ↔
        (op x.1 y.1).2.getLsbD k = true ∨ ∃ j, 2 * j + 1 < r.length ∧ (op (valueAt r (2 * j)) (valueAt r (2 * j + 1))).2.getLsbD k = true := by
      constructor
      · rintro ⟨j, small, bit⟩
        cases j with
        | zero => exact Or.inl bit
        | succ j =>
          rw [List.length_cons, List.length_cons] at small
          exact Or.inr ⟨j, by omega, bit⟩
      · rintro (bit | ⟨j, small, bit⟩)
        · exact ⟨0, by rw [List.length_cons, List.length_cons]; omega, bit⟩
        · exact ⟨j + 1, by rw [List.length_cons, List.length_cons]; omega, bit⟩
    rw [pairTree.go, below]
    simp only [HasEvent, List.exists_mem_cons_iff, fpNode, BitVec.getLsbD_or, Bool.or_eq_true] at ih ⊢
    rw [ih]
    exact iff_of_eq (by ac_rfl)
  | case2 r other =>
    have short : ¬ ∃ j, 2 * j + 1 < r.length ∧ (op (valueAt r (2 * j)) (valueAt r (2 * j + 1))).2.getLsbD k = true := by
      rintro ⟨j, small, -⟩
      match r, other with
      | [], _ => exact Nat.not_lt_zero _ small
      | [_], _ => rw [List.length_singleton] at small; omega
      | x :: y :: r, other => exact other x y r rfl
    rw [pairTree.go, or_iff_left short]
    exact other

/-- The events after some levels are those of the nodes of these levels. -/
theorem hasEvent_level {top : Nat} {l : List (Nat × Ev)} (len : l.length = 2 ^ top) (quiet : ¬ HasEvent k l) {n : Nat} (le : n ≤ top) :
    HasEvent k (pairTree (fpNode op) n l) ↔ ∃ m < n, ∃ j < 2 ^ (top - m - 1),
      (op (valueAt (pairTree (fpNode op) m l) (2 * j)) (valueAt (pairTree (fpNode op) m l) (2 * j + 1))).2.getLsbD k = true := by
  induction n with
  | zero => exact iff_of_false quiet fun ⟨m, small, _⟩ => Nat.not_lt_zero _ small
  | succ n ih =>
    have double : ∀ j, 2 * j + 1 < 2 ^ (top - n) ↔ j < 2 ^ (top - n - 1) := fun j => by
      have half : top - n = top - n - 1 + 1 := by omega
      rw [half, Nat.pow_succ, Nat.add_sub_cancel]
      omega
    rw [pairTree_succ, hasEvent_go, ih (by omega), length_pairTree_level (fpNode op) len (by omega)]
    simp only [double, Nat.lt_succ_iff_lt_or_eq, or_and_right, exists_or, exists_eq_left]

/-- A value of the next level. -/
theorem valueAt_level {top : Nat} {l : List (Nat × Ev)} (len : l.length = 2 ^ top) {n j : Nat} (lt : n < top) (small : j < 2 ^ (top - n - 1)) :
    valueAt (pairTree (fpNode op) (n + 1) l) j =
      (op (valueAt (pairTree (fpNode op) n l) (2 * j)) (valueAt (pairTree (fpNode op) n l) (2 * j + 1))).1 := by
  have half : top - n = top - n - 1 + 1 := by omega
  rw [valueAt, pairTree_succ, getD_pairTree_go (fpNode op) (0, 0)]
  · rfl
  · rw [length_pairTree_level (fpNode op) len (by omega), half, Nat.pow_succ]
    omega

/-- One element stays as it is. -/
theorem pairTree_single (f : Nat × Ev → Nat × Ev → Nat × Ev) (n : Nat) (u : Nat × Ev) : pairTree f n [u] = [u] := by
  induction n with
  | zero => rfl
  | succ n ih => exact ih

theorem pairTree_add (f : Nat × Ev → Nat × Ev → Nat × Ev) (m n : Nat) (l : List (Nat × Ev)) : pairTree f (m + n) l = pairTree f n (pairTree f m l) := by
  induction m generalizing l with
  | zero => rw [Nat.zero_add]; rfl
  | succ m ih => rw [Nat.succ_add]; exact ih _

/-- What the tree leaves of 2^top values, in 6 levels. -/
theorem pairTree_six {top : Nat} (le : top ≤ 6) {l : List (Nat × Ev)} (len : l.length = 2 ^ top) :
    ∃ u : Nat × Ev, pairTree (fpNode op) top l = [u] ∧ pairTree (fpNode op) 6 l = [u] := by
  obtain ⟨u, one⟩ := List.length_eq_one_iff.1 ((length_pairTree_level (fpNode op) len (Nat.le_refl top)).trans (by rw [Nat.sub_self]; rfl))
  refine ⟨u, one, ?_⟩
  have split := pairTree_add (fpNode op) top (6 - top) l
  rw [Nat.add_sub_cancel' le, one, pairTree_single] at split
  exact split

end

/-- The lanes of a floating-point reduction in FP32, inactive ones at the identity. -/
def State.fpLanes (s : State) (a : Fin 32) (p : Fin 8) (y : Fin 2) (identity : Nat) : List (Nat × Ev) :=
  (List.range (tyLanes (fpTy y))).map (fun j => if laneOn (s.rp p) (tySize (fpTy y)) j then
    ((if y = 0 then (fmt32.round false false (fmt16.value (laneOf (s.rv a) (tySize (fpTy y)) j))).1
      else laneOf (s.rv a) (tySize (fpTy y)) j), (0 : Ev)) else (identity, 0))

section
variable {s : State} {d a : Fin 32} {p : Fin 8} {y : Fin 2} {identity empty : Nat} {op : Nat → Nat → Nat × Ev} {ev : Ev} {i : Instr}

/-- What a floating-point reduction issues, by whether a lane is active. -/
theorem issues_redFp (run : exec i s = s.redFp d a p y identity empty op ev) (clear : s.Clear [.v (s.vphys a), .p p] [.g d] false) :
    (s.anyLane p (fpTy y) = false → Issues i s (gWrite 3 d (BitVec.ofNat 64 empty) ++ evCount ev)) ∧
    (s.anyLane p (fpTy y) = true → ∀ u : Nat × Ev, pairTree (fpNode op) 6 (s.fpLanes a p y identity) = [u] →
      Issues i s (gWrite 3 d (BitVec.ofNat 64 u.1) ++ evCount u.2)) := by
  constructor
  · refine fun idle => issues_of_guarded clear run ?_
    simp only [idle, State.landG_eq, State.landEv_eq, State.lands_append]
    rfl
  · intro busy u one
    have head : (pairTree (fun (u v : Nat × Ev) => let (r, e) := op u.1 v.1; (r, e ||| u.2 ||| v.2)) 6
        (s.fpLanes a p y identity)).headD (0, 0) = u := congrArg (fun l => l.headD (0, 0)) one
    rw [State.fpLanes] at head
    refine issues_of_guarded clear run ?_
    simp only [busy, head, State.landG_eq, State.landEv_eq, State.lands_append]
    rfl

theorem fpLanes_quiet (k : Nat) : ¬ HasEvent k (s.fpLanes a p y identity) := by
  rintro ⟨u, hu, bit⟩
  obtain ⟨j, -, rfl⟩ := List.mem_map.1 hu
  revert bit
  split <;> exact fun bit => Bool.false_ne_true (BitVec.getLsbD_zero.symm.trans bit)

theorem valueAt_fpLanes {j : Nat} (small : j < tyLanes (fpTy y)) : valueAt (s.fpLanes a p y identity) j =
    if laneOn (s.rp p) (tySize (fpTy y)) j then
      (if y = 0 then (fmt32.round false false (fmt16.value (laneOf (s.rv a) (tySize (fpTy y)) j))).1 else laneOf (s.rv a) (tySize (fpTy y)) j)
    else identity := by
  rw [valueAt, State.fpLanes, List.getD_eq_getElem?_getD, List.getElem?_map, List.getElem?_range small]
  exact apply_ite Prod.fst ..

theorem fpTy_lanes (y : Fin 2) : tySize (fpTy y) = (if y = 0 then 2 else 4) ∧ tyLanes (fpTy y) = 2 ^ (if y = 0 then 6 else 5) := by
  revert y
  decide

/-- A floating-point reduction: what it issues where no lane is active, and the values of its tree where some lane is. -/
theorem fpReduction (run : exec i s = s.redFp d a p y identity empty op ev) (clear : s.Clear [.v (s.vphys a), .p p] [.g d] false) :
    let z := if y = 0 then 2 else 4
    let on := fun j => (s.rp p).getLsbD (j * z)
    let x := fun j => if y = 0 then (fmt32.round false false (fmt16.value (laneOf (s.rv a) z j))).1 else laneOf (s.rv a) z j
    let top := if y = 0 then 6 else 5
    ((∀ j < 128 / z, on j = false) → Issues i s (gWrite 3 d (BitVec.ofNat 64 empty) ++ evCount ev)) ∧
    ((∃ j < 128 / z, on j = true) → ∃ (t : Nat → Nat → Nat) (e : Ev),
      (∀ j < 128 / z, t 0 j = if on j then x j else identity) ∧
      (∀ l < top, ∀ j < 2 ^ (top - l - 1), t (l + 1) j = (op (t l (2 * j)) (t l (2 * j + 1))).1) ∧
      (∀ i < 8, e.getLsbD i = true ↔ ∃ l < top, ∃ j < 2 ^ (top - l - 1), ((op (t l (2 * j)) (t l (2 * j + 1))).2).getLsbD i = true) ∧
      Issues i s (gWrite 3 d (BitVec.ofNat 64 (t top 0)) ++ evCount e)) := by
  obtain ⟨quiet, busy⟩ := issues_redFp run clear
  obtain ⟨size, count⟩ := fpTy_lanes y
  rw [← size]
  intro z on x top
  have le : top ≤ 6 := by
    simp only [top]
    split <;> decide
  have idle : s.anyLane p (fpTy y) = false ↔ ∀ j < 128 / z, on j = false := by
    rw [State.anyLane, List.any_eq_false]
    exact forall_congr' fun j => by rw [List.mem_range, Bool.not_eq_true]; rfl
  have len : (s.fpLanes a p y identity).length = 2 ^ top := by
    rw [State.fpLanes, List.length_map, List.length_range, count]
  refine ⟨fun none => quiet (idle.2 none), fun ⟨j, small, one⟩ => ?_⟩
  obtain ⟨u, last, six⟩ := pairTree_six (op := op) le len
  refine ⟨fun l => valueAt (pairTree (fpNode op) l (s.fpLanes a p y identity)), u.2, fun j small => valueAt_fpLanes small,
    fun l lt j small => valueAt_level len lt small, fun k _ => ?_, ?_⟩
  · rw [← hasEvent_level len (fpLanes_quiet k) (Nat.le_refl top), last, HasEvent]
    exact ⟨fun bit => ⟨u, List.mem_singleton.2 rfl, bit⟩, fun ⟨v, one, bit⟩ => by rw [List.mem_singleton.1 one] at bit; exact bit⟩
  · have value : valueAt (pairTree (fpNode op) top (s.fpLanes a p y identity)) 0 = u.1 := by
      rw [last]
      rfl
    have some : s.anyLane p (fpTy y) = true := by
      by_contra no
      have := idle.1 (Bool.eq_false_iff.2 no) j small
      exact Bool.false_ne_true (this.symm.trans one)
    dsimp only
    rw [value]
    exact busy some u six

end

/-- Settles O39, level by level of the pairwise tree: what every level keeps holds of the one element that is left. -/
theorem vectorReductions : Obligations.VectorReductions := by
  unfold Obligations.VectorReductions
  constructor
  · intro s d a p y clear
    rw [← tySize_small y]
    have ints := integerReductions s d a p y clear
    have lane : (fun j : Nat => if y.val < 4 then (BitVec.ofNat (8 * tySize y.val) (laneOf (s.rv a) (tySize y.val) j)).toInt
        else (laneOf (s.rv a) (tySize y.val) j : Int)) = s.laneInt a y := funext fun j => (readLane_eq ..).symm
    rw [typeMin_eq, typeMax_eq, ← lane] at ints
    exact ints
  · intro s d a p y clear z on x top
    simp only [List.forall_mem_cons]
    exact ⟨fpReduction rfl clear, fpReduction rfl clear, fpReduction rfl clear, fun _ h => absurd h List.not_mem_nil⟩

end Sys2Proof.Machine
end

section
/-! SUPPORT. A woken serif of a plane whose context stands in an entry of the context cache (10_routing.md R267, R275,
12_system.md R323). -/

namespace Sys2Proof.Machine

open Sys2Proof

/-! ## A counterexample -/

/-- A sweep of slot 0 that has taken window 0 and not yet loaded it. -/
def wakingSweep : Sweep :=
  { slot := 0, sl := 0, members := [], running := [], back := [], cursor := 1, stage := .load, notBefore := 0, snap := 0, late := 0
    last := 0, step := 0, lanes := 0, began := 0, merges := [], lc := 0, paused := 0 }

/-- What stands beside entry 0: context 1, with `wakingSweep`. -/
def wakingSide : Ctx := { Ctx.reset with cid := 1, x := { Ctx.reset.x with sweep := some wakingSweep } }

/-- A waiting serif at offset 0 of the well; and in the record of entry 0 a sweep, and slot 0: valid, of one serif, with its
skip map at offset 8. The version of that record is 0. -/
def wakingMem : List Host.Cell :=
  [(wellPA 0 3, 1), (wellPA 0 0x4D432, 8), (wellPA 0 0x4D62C, 1), (wellPA 0 0x4D634, 8), (wellPA 0 0x4D642, 1)]

/-- The record of entry 0. -/
@[irreducible] def wakingBytes : Nat := 8 * 256 ^ 0x1432 + 256 ^ 0x162C + 8 * 256 ^ 0x1634 + 256 ^ 0x1642

/-- The context of entry 0. -/
def wakingCtx : Ctx := Ctx.ofRecord wakingBytes wakingSide

/-- A nib with `wakingCtx` in entry 0 and in its vacant stroke 0. -/
def wakingState : State :=
  { State.reset with
    mem := wakingMem
    nibs := [(0, { Nib.reset with
      strokes := Nib.reset.strokes.set 0 { Stroke.reset with ctx := wakingCtx }, entries := Nib.reset.entries.set 0 ⟨true, wakingSide, 0⟩ })] }

theorem Memory.get_unlisted {m : List Host.Cell} {b : Nat} (none : ∀ c ∈ m, c.1 ≠ b) : Memory.get m b = 0 := by
  induction m with
  | nil => rfl
  | cons c r ih =>
    rw [Memory.get, if_neg fun h => none c List.mem_cons_self h.symm, ih fun d hd => none d (List.mem_cons_of_mem _ hd), ite_self]

/-- Bytes that are not listed add nothing to what follows. -/
theorem Memory.read_skip {m : List Host.Cell} {a : Nat} (k n : Nat) (zero : ∀ c ∈ m, c.1 < a ∨ a + k ≤ c.1) :
    Memory.read m a (k + n) = 256 ^ k * Memory.read m (a + k) n := by
  induction k generalizing a with
  | zero => rw [Nat.zero_add, Nat.pow_zero, Nat.one_mul, Nat.add_zero]
  | succ k ih =>
    have here : Memory.get m a = 0 := Memory.get_unlisted fun c hc => by have := zero c hc; omega
    have rest := ih (a := a + 1) fun c hc => by have := zero c hc; omega
    rw [Nat.succ_add, Memory.read, here, rest, Nat.add_assoc a 1 k, Nat.add_comm 1 k, Nat.pow_succ, Nat.mul_comm (256 ^ k) 256, Nat.mul_assoc]
    exact Nat.zero_add _

theorem Memory.read_rest {m : List Host.Cell} {a : Nat} (n : Nat) (zero : ∀ c ∈ m, c.1 < a) : Memory.read m a n = 0 := by
  induction n generalizing a with
  | zero => rfl
  | succ n ih =>
    rw [Memory.read, Memory.get_unlisted fun c hc => Nat.ne_of_lt (zero c hc), ih fun c hc => Nat.lt_succ_of_lt (zero c hc)]
    rfl

/-- A byte that is listed, the bytes behind it that are not, and the rest. -/
theorem Memory.read_next {m : List Host.Cell} {a b len : Nat} (k n : Nat) (split : k + n + 1 = len) (at_ : a + 1 + k = b)
    (zero : ∀ c ∈ m, c.1 < a + 1 ∨ a + 1 + k ≤ c.1) :
    Memory.read m a len = (Memory.get m a).toNat + 256 * (256 ^ k * Memory.read m b n) := by
  subst split at_
  rw [Memory.read, Memory.read_skip k n zero]

theorem waking_record : Memory.read wakingMem (entryPA 0 0) recordSize = wakingBytes := by
  have none : Memory.read wakingMem (entryPA 0 0) recordSize = 256 ^ 0x1432 * Memory.read wakingMem (entryPA 0 0 + 0x1432) 5070 :=
    Memory.read_skip 0x1432 5070 (by decide)
  have swept : Memory.read wakingMem (entryPA 0 0 + 0x1432) 5070 = (Memory.get wakingMem (entryPA 0 0 + 0x1432)).toNat + 256 * (256 ^ 505 * Memory.read wakingMem (entryPA 0 0 + 0x162C) 4564) :=
    Memory.read_next 505 4564 rfl rfl (by decide)
  have count : Memory.read wakingMem (entryPA 0 0 + 0x162C) 4564 = (Memory.get wakingMem (entryPA 0 0 + 0x162C)).toNat + 256 * (256 ^ 7 * Memory.read wakingMem (entryPA 0 0 + 0x1634) 4556) :=
    Memory.read_next 7 4556 rfl rfl (by decide)
  have skip : Memory.read wakingMem (entryPA 0 0 + 0x1634) 4556 = (Memory.get wakingMem (entryPA 0 0 + 0x1634)).toNat + 256 * (256 ^ 13 * Memory.read wakingMem (entryPA 0 0 + 0x1642) 4542) :=
    Memory.read_next 13 4542 rfl rfl (by decide)
  have valid : Memory.read wakingMem (entryPA 0 0 + 0x1642) 4542 = (Memory.get wakingMem (entryPA 0 0 + 0x1642)).toNat + 256 * (256 ^ 4541 * Memory.read wakingMem (entryPA 0 0 + 0x2800) 0) :=
    Memory.read_next 4541 0 rfl rfl (by decide)
  rw [none, swept, count, skip, valid, Memory.read]
  decide +kernel

/-- The context with lanes noted for the next sweep. -/
def Ctx.noteLate (off : Nat) (t : Fin 8) (c : Ctx) : Ctx :=
  c.modSweep (fun w => { w with late := w.late ||| BitVec.twoPow 32 ((off - c.x.slots[t].serifs.toNat) / 4 % 32) })

theorem Ctx.noteLate_c (off : Nat) (t : Fin 8) (c : Ctx) : (Ctx.noteLate off t c).c = c.c := rfl

/-- The record of the context, written again, has version 1. -/
theorem waking_version : ((Ctx.noteLate 0 0 wakingCtx).record false 0).testBit (8 * 0x1430) = true := by
  decide +kernel

/-- A wake of a serif whose window the sweep has taken. -/
theorem wakeSerif_taken {s : State} {n : NibId} {off : Nat} {c : Ctx} {t : Fin 8} {clk : Clk} (plane : s.planeOf n off = some (c, t))
    (taken : c.takenSerif t off = true) :
    s.wakeSerif n off true clk = (s.modCid n c.cid (Ctx.noteLate off t)).setSkip n c t off clk := by
  rw [State.wakeSerif, plane]
  dsimp only
  rw [if_pos rfl, if_pos taken]
  rfl

theorem setSkip_get (s : State) (n : NibId) (c : Ctx) (t : Fin 8) (off b : Nat) {clk : Clk} (wf : Memory.wf s.mem = true)
    (away : b < wellPA n (c.x.slots[t].skip.toNat + 8 * ((off - c.x.slots[t].serifs.toNat) / 128 / 64)) ∨
      wellPA n (c.x.slots[t].skip.toNat + 8 * ((off - c.x.slots[t].serifs.toNat) / 128 / 64)) + 8 ≤ b) :
    Memory.get (s.setSkip n c t off clk).2.mem b = Memory.get s.mem b := by
  rw [State.setSkip]
  exact Memory.get_write_outside _ _ _ _ _ wf away

theorem Memory.read_congr {m m' : List Host.Cell} {a n : Nat} (same : ∀ b, a ≤ b → Memory.get m b = Memory.get m' b) :
    Memory.read m a n = Memory.read m' a n := by
  induction n generalizing a with
  | zero => rfl
  | succ n ih => rw [Memory.read, Memory.read, same a (Nat.le_refl a), ih fun b le => same b (Nat.le_of_succ_le le)]

/-- The state differs from `wakingState` below the records of the context cache, in clocks, and in the contexts of strokes alone. -/
structure Waking (s : State) : Prop where
  entries : (s.nib 0).entries = Nib.reset.entries.set 0 ⟨true, wakingSide, 0⟩
  vacant : ∀ k, (s.stroke 0 k).status = .vacant
  records : ∀ b, entryPA 0 0 ≤ b → Memory.get s.mem b = Memory.get wakingMem b

namespace Waking

variable {s : State}

theorem hasCid (h : Waking s) (k : Fin 8) (cid : Nat) : s.hasCid 0 k cid = false := by
  rw [State.hasCid, h.vacant]
  rfl

theorem entryCtx (h : Waking s) : s.entryCtx 0 0 = wakingCtx := by
  rw [State.entryCtx, Memory.read_congr h.records, waking_record, h.entries]
  rfl

theorem entryStopped (h : Waking s) : s.entryStopped 0 0 = false := by
  rw [State.entryStopped, h.records _ (Nat.le_add_right ..)]
  decide +kernel

theorem entryTip (h : Waking s) : Memory.read s.mem (entryPA 0 0 + 0x17A0) 8 = 0 := by
  rw [Memory.read_congr fun b le => h.records b (Nat.le_of_add_right_le le)]
  decide +kernel

theorem contexts (h : Waking s) : s.contexts 0 = [wakingCtx] := by
  have none : (List.finRange 8).filter (fun k => (s.stroke 0 k).status != .vacant) = [] :=
    List.filter_eq_nil_iff.2 fun k _ => by rw [h.vacant]; decide
  have one : (List.finRange 8).filter (fun e => (s.nib 0).entries[e].valid) = [0] := by
    rw [h.entries]
    decide +kernel
  rw [State.contexts, none, one, List.map_singleton, h.entryCtx]
  rfl

theorem planeOf (h : Waking s) : s.planeOf 0 0 = some (wakingCtx, 0) := by
  have slot : wakingCtx.slotAt 0 = some 0 := by decide +kernel
  rw [State.planeOf, h.contexts, List.findSome?_cons, slot]
  rfl

theorem modCid (h : Waking s) (f : Ctx → Ctx) : s.modCid 0 1 f = s.modEntry 0 0 f := by
  have away : (List.finRange 8).find? (fun k => s.hasCid 0 k 1) = none := List.find?_eq_none.2 fun k _ => by
    rw [h.hasCid]
    exact Bool.false_ne_true
  have kept : (List.finRange 8).find? (fun e => (s.nib 0).entries[e].valid && (s.nib 0).entries[e].ctx.cid == 1) = some 0 := by
    rw [h.entries]
    decide +kernel
  rw [State.modCid, away]
  dsimp only
  rw [kept]

/-- The record of entry 0 after a change of its context that keeps its CSRs. -/
theorem modEntry_mem (h : Waking s) (f : Ctx → Ctx) (keeps : (f wakingCtx).c = wakingCtx.c) :
    (s.modEntry 0 0 f).mem = Memory.write s.mem (entryPA 0 0) recordSize ((f wakingCtx).record false 0) := by
  have tip : BitVec.ofNat 64 0 &&& 0xA0 ||| wakingCtx.c.tip = 0 := by decide +kernel
  rw [State.modEntry, h.entryCtx, h.entryStopped, h.entryTip, putEntry_mem, keeps, tip]

/-- The wake of the serif at offset 0. -/
theorem wake (h : Waking s) (wf : Memory.wf s.mem = true) (clk : Clk) :
    (Memory.get (s.wakeSerif 0 0 true clk).2.mem (entryPA 0 0 + 0x1430)).getLsbD 0 = true := by
  have taken : wakingCtx.takenSerif 0 0 = true := by decide +kernel
  have cid : wakingCtx.cid = 1 := rfl
  have skip : wellPA 0 ((wakingCtx.x.slots[(0 : Fin 8)]).skip.toNat + 8 * ((0 - (wakingCtx.x.slots[(0 : Fin 8)]).serifs.toNat) / 128 / 64)) = wellPA 0 8 := by
    decide +kernel
  have away : wellPA 0 8 + 8 ≤ entryPA 0 0 + 0x1430 := by decide
  rw [wakeSerif_taken h.planeOf taken, cid, h.modCid, setSkip_get _ _ _ _ _ _ (by
    rw [h.modEntry_mem _ (Ctx.noteLate_c ..)]
    exact Memory.wf_write _ _ _ _ wf) (by rw [skip]; exact Or.inr away), h.modEntry_mem _ (Ctx.noteLate_c ..),
    Memory.get_write_inside _ _ _ _ _ wf (by decide), getLsbD_byte]
  exact waking_version

/-- `swake` of the serif at offset 0, which waits. -/
theorem swake (h : Waking s) (mem : s.mem = wakingMem) (clk : Clk) :
    (Memory.get (s.serifWakeNow 0 0 clk).2.mem (entryPA 0 0 + 0x1430)).getLsbD 0 = true := by
  have waits : serifWake (Memory.read wakingMem (wellPA 0 0) 4) = (0, true) := by decide +kernel
  have wf : Memory.wf wakingMem = true := by decide +kernel
  have below : wellPA 0 0 + 4 ≤ entryPA 0 0 := by decide
  rw [State.serifWakeNow]
  dsimp only
  rw [mem, waits]
  dsimp only
  have kept : ∀ b, entryPA 0 0 ≤ b → Memory.get (Memory.write wakingMem (wellPA 0 0) 4 0) b = Memory.get wakingMem b :=
    fun b le => Memory.get_write_outside wakingMem (wellPA 0 0) 4 0 b wf (Or.inr (Nat.le_trans below le))
  have wf' := Memory.wf_write wakingMem (wellPA 0 0) 4 0 wf
  generalize Memory.write wakingMem (wellPA 0 0) 4 0 = m at kept wf' ⊢
  exact wake (s := { s with mem := m }) ⟨h.entries, h.vacant, kept⟩ wf' clk

end Waking

theorem waking_nib : wakingState.nib 0 = { Nib.reset with
    strokes := Nib.reset.strokes.set 0 { Stroke.reset with ctx := wakingCtx }, entries := Nib.reset.entries.set 0 ⟨true, wakingSide, 0⟩ } := rfl

theorem waking_ctx : wakingState.ctx = wakingCtx := rfl

theorem wakingState_waking : Waking wakingState where
  entries := by rw [waking_nib]
  vacant k := by
    rw [State.stroke, waking_nib]
    revert k
    decide +kernel
  records _ _ := rfl

/-- A state that differs from one in clocks and the place of the issuing sequencer alone. -/
theorem Waking.of_nibs {s t : State} (h : Waking s) (nibs : t.nibs = s.nibs) (mem : t.mem = s.mem) : Waking t where
  entries := by rw [State.nib, nibs, ← State.nib]; exact h.entries
  vacant k := by rw [State.stroke, State.nib, nibs, ← State.nib, ← State.stroke]; exact h.vacant k
  records b le := by rw [mem]; exact h.records b le

theorem Waking.of_setLc {s : State} (h : Waking s) (x : Clk) (here : s.cur = wakingState.cur) : Waking (s.setLc x) := by
  have same := sameBut_modSeq s (fun q => { q with lc := x })
  have at0 : s.cur.nib = 0 ∧ s.cur.k = 0 := by rw [here]; exact ⟨rfl, rfl⟩
  obtain ⟨nib0, k0⟩ := at0
  refine ⟨?_, fun k => ?_, fun b le => ?_⟩
  · have := congrArg Nib.entries same.nib
    rw [nib0] at this
    exact this.trans h.entries
  · by_cases hk : k = s.cur.k
    · have := congrArg Stroke.status same.stroke
      rw [← hk, nib0] at this
      exact this.trans (h.vacant k)
    · have := same.strokes k hk
      rw [nib0] at this
      exact (congrArg Stroke.status this).trans (h.vacant k)
  · rw [State.setLc_mem]
    exact h.records b le

/-- What `swake` leaves before it acts on its serif: its write stamps the serif's cell, and its sequencer's clock follows. -/
def State.swakeStamped (s : State) (off : Nat) : Clk × State :=
  let v := s.keepOld (wellPA s.cur.nib off) 4
  let p := v.writeStamp (wellPA v.cur.nib off) v.lc
  (p.1, p.2.setLc p.1)

/-- What `swake` leaves once it has acted on its serif: the skip word's bytes are kept as they were, and its clock follows. -/
def State.swakeDone (p : Clk × State) (off word : Nat) : State :=
  let u := p.2.keepOld (wellPA p.2.cur.nib word) 8
  let r := u.serifWakeNow u.cur.nib off p.1
  (r.2.setLc r.1).retire

theorem keepOld_ctx (s : State) (a n : Nat) : (s.keepOld a n).ctx = s.ctx := by
  obtain ⟨u, h⟩ := keepOld_only s a n
  rw [h]
  rfl

theorem setLc_x (s : State) (x : Clk) : (s.setLc x).ctx.x = s.ctx.x := by
  have same := congrArg Ctx.x (sameBut_modSeq s (fun q => { q with lc := x })).ctx
  exact same

theorem writeStamp_ctx (s : State) (pa : Nat) (lc : Clk) : (s.writeStamp pa lc).2.ctx = s.ctx := rfl

theorem swakeStamped_x (s : State) (off : Nat) : (s.swakeStamped off).2.ctx.x = s.ctx.x := by
  rw [State.swakeStamped]
  dsimp only
  rw [setLc_x, writeStamp_ctx, keepOld_ctx]

/-- `swake` of a serif that is in no running block. -/
theorem exec_swake {s : State} {i : Fin 8} {a : Fin 32} {slot : Slot} {e off word : Nat} (clear : s.Clear [.g a] [] false)
    (declared : s.ctx.x.slots[i] = slot) (elem : (s.rg a).toNat = e) (valid : slot.valid = true) (one : e < slot.count.toNat)
    (place : slot.serifs.toNat + 4 * e = off) (seen : s.hidesRecords off 4 = false) (quiet : s.ctx.blockSerif i off = false)
    (skip : slot.skip.toNat + 8 * (e / 2048) = word) :
    exec (.swake i a) s = .next (State.swakeDone (s.swakeStamped off) off word) := by
  have quiet' : (s.swakeStamped off).2.ctx.blockSerif i off = false := by
    rw [Ctx.blockSerif, swakeStamped_x, ← Ctx.blockSerif, quiet]
  have run := show exec (.swake i a) s = execSwake i a s from rfl
  rw [execSwake, guarded_of_clear clear] at run
  rw [run]
  have known : (!slot.valid || decide (slot.count.toNat ≤ e)) = false := by
    rw [valid, decide_eq_false (Nat.not_le.2 one)]
    rfl
  dsimp only
  rw [declared, elem, known, if_neg Bool.false_ne_true, place, skip, seen, if_neg Bool.false_ne_true]
  rw [State.swakeDone, State.swakeStamped]
  rw [State.swakeStamped] at quiet'
  dsimp only at quiet' ⊢
  rw [quiet', if_neg Bool.false_ne_true]

theorem Waking.swakeStamped {s : State} (h : Waking s) (here : s.cur = wakingState.cur) (off : Nat) :
    Waking (s.swakeStamped off).2 ∧ (s.swakeStamped off).2.mem = s.mem ∧ (s.swakeStamped off).2.cur = wakingState.cur := by
  obtain ⟨u, kept⟩ := keepOld_only s (wellPA s.cur.nib off) 4
  rw [State.swakeStamped, kept]
  exact ⟨(h.of_nibs (by exact rfl) (by exact rfl)).of_setLc _ here, State.setLc_mem .., (State.setLc_cur ..).trans here⟩

theorem waking_clear : wakingState.Clear [.g 0] [] false := by
  rw [State.Clear, waking_ctx]
  decide +kernel

/-- Slot 0 of `wakingCtx`. -/
def wakingSlot : Slot := { Slot.reset with valid := true, count := 1, skip := 8 }

theorem waking_slot : wakingState.ctx.x.slots[(0 : Fin 8)] = wakingSlot := by
  rw [waking_ctx]
  decide +kernel

theorem waking_elem : (wakingState.rg 0).toNat = 0 := by
  rw [State.rg, waking_ctx]
  decide +kernel

theorem waking_seen : wakingState.hidesRecords 0 4 = false := by
  decide

theorem waking_quiet : wakingState.ctx.blockSerif 0 0 = false := by
  rw [waking_ctx]
  decide +kernel

theorem Waking.keepOld {s : State} (h : Waking s) (a n : Nat) :
    Waking (s.keepOld a n) ∧ (s.keepOld a n).mem = s.mem ∧ (s.keepOld a n).cur = s.cur := by
  obtain ⟨u, kept⟩ := keepOld_only s a n
  rw [kept]
  exact ⟨h.of_nibs (by exact rfl) (by exact rfl), rfl, rfl⟩

theorem Waking.swakeDone {p : Clk × State} (h : Waking p.2) (mem : p.2.mem = wakingMem) (here : p.2.cur.nib = 0) (word : Nat) :
    (Memory.get (State.swakeDone p 0 word).mem (entryPA 0 0 + 0x1430)).getLsbD 0 = true := by
  obtain ⟨ready, mem', here'⟩ := h.keepOld (wellPA p.2.cur.nib word) 8
  rw [State.swakeDone, State.retire_mem, State.setLc_mem, here', here]
  rw [here] at ready mem'
  exact ready.swake (mem'.trans mem) p.1

/-- The wake of the serif writes the version of the entry's record. -/
theorem waking_swake : ∃ t, exec (.swake 0 0) wakingState = .next t ∧
    (Memory.get t.mem (entryPA 0 0 + 0x1430)).getLsbD 0 = true := by
  obtain ⟨stamped, mem, here⟩ := wakingState_waking.swakeStamped rfl 0
  exact ⟨_, exec_swake waking_clear waking_slot waking_elem rfl (by decide) rfl waking_seen waking_quiet rfl,
    stamped.swakeDone mem (congrArg Cur.nib here) _⟩

/-- Refutes O43: `swake` of a serif that a sweep has taken notes its lane in the context that declares the plane. Where that
context stands in an entry of the context cache (R323), the bytes of the entry's record are written again, far from the serif and
its skip word. -/
theorem not_serifsAndSweeps : ¬ Obligations.SerifsAndSweeps := by
  rintro ⟨⟨-, -, wakes⟩, -, -⟩
  obtain ⟨-, -, -, acts, -⟩ := wakes wakingState 0 0 0 0 (wellPA 0 0) (2 ^ 24) (wellPA 0 8) waking_clear (by rw [waking_elem])
    (by rw [waking_slot]; rfl) (by decide +kernel) (by decide +kernel) (by rw [waking_slot]; rfl)
  rw [waking_slot] at acts
  obtain ⟨t, run, -, -, -, -, -, stands⟩ := acts rfl (by decide) (by decide) waking_quiet
    wakingState_waking.planeOf (by decide +kernel) (by decide) (Or.inl (by decide)) (Or.inl (by decide))
  obtain ⟨u, run', version⟩ := waking_swake
  obtain rfl : t = u := Host.Outcome.next.inj (run.symm.trans run')
  rw [stands _ (Or.inr (by decide)) (Or.inr (by decide))] at version
  revert version
  decide +kernel

end Sys2Proof.Machine
end

section
/-! SUPPORT. Matrix configuration, matrix commands at issue, and `mresume` (09_matrix.md R227 to R249). -/

namespace Sys2Proof.Machine

open Sys2Proof

/-! ## Configuration -/

theorem fmtField_eq (w : BitVec 32) (lo n : Nat) : fmtField w lo n = w.toNat / 2 ^ lo % 2 ^ n := by
  rw [fmtField, BitVec.extractLsb'_toNat, Nat.shiftRight_eq_div_pow]

theorem fmtBad_iff (w : BitVec 32) : fmtBad w = true ↔ 2 ≤ w.toNat / 2 ^ 20 % 16 ∨ 3 ≤ w.toNat / 2 ^ 16 % 16 ∨
    2 ≤ w.toNat / 2 ^ 12 % 4 ∨ 5 ≤ w.toNat / 2 ^ 8 % 16 ∨ 10 ≤ w.toNat / 2 ^ 4 % 16 ∨ 10 ≤ w.toNat % 16 := by
  simp only [fmtBad, fmtField_eq, Bool.or_eq_true, decide_eq_true_eq, or_assoc]
  norm_num

section
variable {s : State} {i : Instr} {f : BitVec 12} {v : BitVec 32}

/-- What a write of a field of the shadow bank comes to, by the entry of its field number. -/
theorem writes_of_configure (run : exec i s = .next (s.configure f v)) {e : Nat} (small : e < 64) (entry : shadowIndex f = some ⟨e, small⟩)
    {ok : Prop} (range : shadowRange ⟨e, small⟩ v.toNat = true ↔ ok) :
    (ok → ∀ j : Fin 64, j.val = e → Issues i s [(1, .shadow j v)]) ∧ (¬ ok → exec i s = .next (s.raise 0x02 s.wordVal)) := by
  rw [State.configure, entry] at run
  dsimp only at run
  refine ⟨fun holds j at_ => ?_, fun fails => ?_⟩
  · rw [if_pos (range.2 holds)] at run
    obtain rfl : j = ⟨e, small⟩ := Fin.ext at_
    exact ⟨_, run, issued_retire s [(1, .shadow ⟨e, small⟩ v)]⟩
  · rw [if_neg (range.not.2 fails)] at run
    exact run

theorem shadowIndex_level {l c : Nat} (level : l < 6) (field : c < 5) (at_ : f.toNat = 16 * l + c) :
    shadowIndex f = some ⟨8 * l + c, by omega⟩ := by
  have entry : Fin.ofNat 64 (f.toNat / 16 * 8 + f.toNat % 16) = ⟨8 * l + c, by omega⟩ := Fin.ext (by
    show (f.toNat / 16 * 8 + f.toNat % 16) % 64 = 8 * l + c
    omega)
  rw [shadowIndex, if_pos (by omega), entry]

theorem shadowIndex_other {c : Nat} (field : c < 12) (at_ : f.toNat = 0x100 + c) : shadowIndex f = some ⟨48 + c, by omega⟩ := by
  have entry : Fin.ofNat 64 (48 + (f.toNat - 0x100)) = ⟨48 + c, by omega⟩ := Fin.ext (by
    show (48 + (f.toNat - 0x100)) % 64 = 48 + c
    omega)
  rw [shadowIndex, if_neg (by omega), if_pos (by omega), entry]

theorem shadowIndex_none (reserved : (0x60 ≤ f.toNat ∧ f.toNat < 0x100) ∨ 0x10C ≤ f.toNat ∨ (f.toNat < 0x60 ∧ 5 ≤ f.toNat % 16)) :
    shadowIndex f = none := by
  rw [shadowIndex, if_neg (by omega), if_neg (by omega)]

theorem shadowRange_level {l c : Nat} (small : 8 * l + c < 64) (level : l < 6) (field : c < 5) (x : Nat) :
    shadowRange ⟨8 * l + c, small⟩ x = true ↔ (c = 0 → 1 ≤ x ∧ x ≤ 65535) ∧ (c = 4 → 0 ≤ x ∧ x ≤ 1) := by
  have digit : (8 * l + c) % 8 = c := by omega
  have low : 8 * l + c < 48 := by omega
  simp only [shadowRange, low, if_true, digit]
  interval_cases c <;> simp

theorem shadowRange_other {c : Nat} (small : 48 + c < 64) (field : c < 12) (x : Nat) :
    shadowRange ⟨48 + c, small⟩ x = true ↔ (c = 2 ∨ c = 11 → 0 ≤ x ∧ x ≤ 65535) ∧ (c = 3 → 0 ≤ x ∧ x ≤ 1) ∧
      (c = 6 ∨ c = 8 → 1 ≤ x ∧ x ≤ 32) ∧ (c = 9 → 0 ≤ x ∧ x ≤ 7) ∧ (c = 10 → 0 ≤ x ∧ x ≤ 2) := by
  have high : ¬ 48 + c < 48 := by omega
  simp only [shadowRange, high, if_false, Nat.add_sub_cancel_left]
  interval_cases c <;> simp

/-- The field number of a row of R229. -/
theorem configure_run (h : (i = .mcfg f v ∧ s.Clear [] [] false) ∨ ∃ a, i = .mcfgr a f ∧ v = (s.rg a).setWidth 32 ∧ s.Clear [.g a] [] false)  :
    (shadowIndex f = none → exec i s = .next (s.raise 0x02 s.wordVal)) ∧ (shadowIndex f ≠ none → exec i s = .next (s.configure f v)) := by
  rcases h with ⟨rfl, clear⟩ | ⟨a, rfl, rfl, clear⟩
  · have run := show exec (.mcfg f v) s = execMcfg f v s from rfl
    rw [execMcfg, guarded_of_clear clear] at run
    refine ⟨fun none => ?_, fun _ => run⟩
    rw [run, State.configure, none]
    rfl
  · have run := show exec (.mcfgr a f) s = execMcfgr a f s from rfl
    rw [execMcfgr, guarded_of_clear clear] at run
    refine ⟨fun none => run.trans (if_pos (by rw [none]; rfl)), fun some => run.trans (if_neg fun none => some (Option.isNone_iff_eq_none.1 none))⟩

/-- A field number of a level: what its write comes to. -/
theorem writes_level (run : shadowIndex f ≠ none → exec i s = .next (s.configure f v)) {l c : Nat} (level : l < 6) (field : c < 5)
    (at_ : f.toNat = 16 * l + c) {ok : Prop} (range : ((c = 0 → 1 ≤ v.toNat ∧ v.toNat ≤ 65535) ∧ (c = 4 → 0 ≤ v.toNat ∧ v.toNat ≤ 1)) ↔ ok) :
    (ok → ∀ j : Fin 64, j.val = 8 * l + c → Issues i s [(1, .shadow j v)]) ∧ (¬ ok → exec i s = .next (s.raise 0x02 s.wordVal)) := by
  have entry := shadowIndex_level level field at_
  exact writes_of_configure (run (by rw [entry]; exact Option.some_ne_none _)) (by omega) entry
    ((shadowRange_level (by omega) level field _).trans range)

/-- A field number beyond the levels: what its write comes to. -/
theorem writes_other (run : shadowIndex f ≠ none → exec i s = .next (s.configure f v)) {c : Nat} (field : c < 12) (at_ : f.toNat = 0x100 + c)
    {ok : Prop} (range : ((c = 2 ∨ c = 11 → 0 ≤ v.toNat ∧ v.toNat ≤ 65535) ∧ (c = 3 → 0 ≤ v.toNat ∧ v.toNat ≤ 1) ∧
      (c = 6 ∨ c = 8 → 1 ≤ v.toNat ∧ v.toNat ≤ 32) ∧ (c = 9 → 0 ≤ v.toNat ∧ v.toNat ≤ 7) ∧ (c = 10 → 0 ≤ v.toNat ∧ v.toNat ≤ 2)) ↔ ok) :
    (ok → ∀ j : Fin 64, j.val = 48 + c → Issues i s [(1, .shadow j v)]) ∧ (¬ ok → exec i s = .next (s.raise 0x02 s.wordVal)) := by
  have entry := shadowIndex_other field at_
  exact writes_of_configure (run (by rw [entry]; exact Option.some_ne_none _)) (by omega) entry
    ((shadowRange_other (by omega) field _).trans range)

end

theorem matrixConfiguration : Claims.MatrixConfiguration := by
  intro s a f
  constructor
  · intro i v h
    obtain ⟨trap, run⟩ := configure_run (h.imp_right fun h => ⟨a, h⟩)
    refine ⟨fun l level => ⟨fun at_ => ?_, fun at_ => ?_, fun at_ => ?_, fun at_ => ?_, fun at_ => ?_⟩, fun h => ?_, fun h => ?_,
      fun h => ?_, fun h => ?_, fun h => ?_, fun h => ?_, fun reserved => trap (shadowIndex_none reserved)⟩
    · exact writes_level run (c := 0) level (by decide) at_ (by simp)
    · exact writes_level run (c := 1) level (by decide) at_ (by simp)
    · exact writes_level run (c := 2) level (by decide) at_ (by simp)
    · exact writes_level run (c := 3) level (by decide) at_ (by simp)
    · exact writes_level run (c := 4) level (by decide) at_ (by simp)
    · rcases h with rfl | rfl | rfl | rfl | rfl
      · exact writes_other run (c := 0) (by decide) rfl (by simp)
      · exact writes_other run (c := 1) (by decide) rfl (by simp)
      · exact writes_other run (c := 4) (by decide) rfl (by simp)
      · exact writes_other run (c := 5) (by decide) rfl (by simp)
      · exact writes_other run (c := 7) (by decide) rfl (by simp)
    · rcases h with rfl | rfl
      · exact writes_other run (c := 2) (by decide) rfl (by simp)
      · exact writes_other run (c := 11) (by decide) rfl (by simp)
    · subst h
      exact writes_other run (c := 3) (by decide) rfl (by simp)
    · rcases h with rfl | rfl
      · exact writes_other run (c := 6) (by decide) rfl (by simp)
      · exact writes_other run (c := 8) (by decide) rfl (by simp)
    · subst h
      exact writes_other run (c := 9) (by decide) rfl (by simp)
    · subst h
      exact writes_other run (c := 10) (by decide) rfl (by simp)
  · rintro clear w rfl n bad
    have run := show exec (.mfmt a) s = execMfmt a s from rfl
    rw [execMfmt, guarded_of_clear clear] at run
    have wrong : fmtBad ((s.rg a).setWidth 32) = true ↔ bad := fmtBad_iff _
    refine ⟨fun h => run.trans (congrArg Host.Outcome.next (if_pos (wrong.2 h))), fun h => ?_⟩
    have run := run.trans (congrArg Host.Outcome.next (if_neg fun e => h (wrong.1 e)))
    refine ⟨fun full => run.trans (congrArg Host.Outcome.next (if_pos full)), fun room => ?_⟩
    exact ⟨_, run.trans (congrArg Host.Outcome.next (if_neg (Nat.not_le.2 room))), issued_retire s [(1, .fmtPush _)]⟩

/-! ## Commands -/

section
variable {s u v : State} {sl : Fin 16} {k : MKind} {w : BitVec 32}

/-- A command as it enters the queue (R235, R236). -/
def State.matrixCommand (s : State) (sl : Fin 16) (k : MKind) (w : BitVec 32) : MCmd :=
  { id := s.nextId, cid := s.ctx.cid, stroke := s.cur.k, seq := s.cur.q, sl := sl, kind := k, fmt := w, snap := s.ctx.x.shadow
    issue := s.cycle, lc := s.lc, tmax := s.lc, slab := 0, running := false, newTile := true, start := 0, tileSlabs := 0, tiles := 0
    rows := [], ev := 0, grp := GrpRun.reset, failed := 0, rerun := 0, done := false, posted := false }

/-- A matrix engine with one command more in its queue. -/
def Matrix.entered (c : MCmd) (m : Matrix) : Matrix := { m with queue := m.queue ++ [c] }

theorem enqueue_eq (s : State) (sl : Fin 16) (k : MKind) (w : BitVec 32) :
    s.enqueue sl k w = (s.newId.2.modMatrix s.cur.nib (Matrix.entered (s.matrixCommand sl k w))).schedule (s.cycle + 16)
      (.matrixDispatch s.cur.nib) := rfl

theorem matrix_modMatrix (s : State) (n : NibId) (f : Matrix → Matrix) : ((s.modMatrix n f).nib n).matrix = f (s.nib n).matrix :=
  congrArg Nib.matrix (State.nib_modNib_same s n (fun b => { b with matrix := f b.matrix }))

theorem matrix_modCtxAt (s : State) (n : NibId) (k : Fin 8) (f : Ctx → Ctx) : ((s.modCtxAt n k f).nib n).matrix = (s.nib n).matrix := by
  have same := congrArg Nib.matrix (nib_modCtxAt_same (s := s) (n := n) (k := k) f)
  exact same

/-- A command in the queue: nothing that `Retired` speaks of changes. -/
theorem Sending.enqueue {es : List (Nat × Eff)} (h : Sending s u es) (sl : Fin 16) (k : MKind) (w : BitVec 32) :
    Sending s (u.enqueue sl k w) es := by
  rw [enqueue_eq]
  exact h.quiet rfl rfl (fun n j => stroke_modNib_of_keeps u.newId.2 u.cur.nib n j
    (f := fun b => { b with matrix := Matrix.entered (u.matrixCommand sl k w) b.matrix }) fun b => rfl) rfl

/-- The state of the queue after a command has entered it from `u`, which differs from `s` in what a command does not take with it. -/
theorem entered_enqueue (cur : u.cur = s.cur) (cycle : u.cycle = s.cycle) (nextId : u.nextId = s.nextId) (agenda : u.agenda = s.agenda)
    (mem : u.mem = s.mem) (ops : u.ops = s.ops) (matrix : (u.nib u.cur.nib).matrix = s.cnib.matrix) (shadow : u.ctx.x.shadow = s.ctx.x.shadow)
    (cid : u.ctx.cid = s.ctx.cid) (same : SameBut (u.enqueue sl k w) v) : Entered s v sl k w := by
  rw [enqueue_eq] at same
  have nib := congrArg Nib.matrix same.nib
  have stands := same.machine
  have queue : (v.nib s.cur.nib).matrix = Matrix.entered (u.matrixCommand sl k w) s.cnib.matrix := by
    rw [← cur, ← matrix]
    exact nib.trans (matrix_modMatrix u.newId.2 u.cur.nib _)
  have events := congrArg State.agenda stands
  have bytes := congrArg State.mem stands
  have requests := congrArg State.ops stands
  refine ⟨u.matrixCommand sl k w, queue, rfl, rfl, rfl, shadow, cycle, nextId, cid, congrArg Cur.k cur, congrArg Cur.q cur, rfl, rfl, rfl, rfl,
    rfl, ?_, Eq.trans bytes mem, Eq.trans requests ops⟩
  rw [← agenda, ← cycle, ← cur]
  exact events

/-- A command that issues: it is in the queue, and its effects are on their way. -/
theorem enters (cur : u.cur = s.cur) (before : Sending u u []) (nextId : u.nextId = s.nextId) (agenda : u.agenda = s.agenda)
    (mem : u.mem = s.mem) (ops : u.ops = s.ops) (matrix : (u.nib u.cur.nib).matrix = s.cnib.matrix) (cycle : u.cycle = s.cycle)
    (shadow : u.ctx.x.shadow = s.ctx.x.shadow) (cid : u.ctx.cid = s.ctx.cid) (es : List (Nat × Eff)) :
    Entered s ((u.enqueue sl k w).lands es).retire sl k w ∧ Retired u ((u.enqueue sl k w).lands es).retire es := by
  obtain ⟨-, -, -, same⟩ := issued_retire (u.enqueue sl k w) es
  exact ⟨entered_enqueue cur cycle nextId agenda mem ops matrix shadow cid same, ((before.enqueue sl k w).lands es).retired⟩

theorem submit_full (full : ¬ s.cnib.matrix.queue.length < 4) : s.submit sl k w = s.waitMem :=
  if_pos (decide_eq_true (Nat.not_lt.1 full))

/-- The waits of R235, and the issue of a command under a seal. -/
theorem submits {i : Instr} (seal_ : sl ≠ 0) (run : exec i s = .next (s.submit sl k 0)) :
    (¬ s.cnib.matrix.queue.length < 4 → exec i s = .next s.waitMem) ∧
    (s.cnib.matrix.queue.length < 4 → s.sealFull sl = true → exec i s = .next s) ∧
    (s.cnib.matrix.queue.length < 4 → s.sealFull sl = false → ∃ t, exec i s = .next t ∧ Entered s t sl k 0 ∧
      Retired s t [(1, .sealPend sl)]) := by
  have open_ : s.cnib.matrix.queue.length < 4 → ¬ s.queueFull = true := fun room full =>
    Nat.not_le.2 room (of_decide_eq_true full)
  refine ⟨fun full => ?_, fun room full => ?_, fun room free => ?_⟩
  · rw [run, submit_full full]
  · rw [run, State.submit, if_neg (open_ room), if_pos full]
  · rw [State.submit, if_neg (open_ room), if_neg (by rw [free]; exact Bool.false_ne_true), if_neg seal_] at run
    exact ⟨_, run, enters rfl (Sending.refl s) rfl rfl rfl rfl rfl rfl rfl rfl [(1, .sealPend sl)]⟩

/-- `mgo` and `mgrp`: the format word, the waits and the issue. -/
theorem submitsFormat {i : Instr} {grouped : Bool} (run : exec i s = .next (s.submitFmt sl k grouped)) :
    (s.ctx.x.fmt = [] → exec i s = .next (s.raise 0x12 0)) ∧
    ∀ w r, s.ctx.x.fmt = w :: r →
      let u := s.modCtx (fun c => { c with x := { c.x with fmt := r } })
      let bad := fmtBad w = true ∨ (grouped = true ∧ w.toNat / 2 ^ 20 % 16 = 1)
      (bad → exec i s = .next (u.raise 0x02 (BitVec.ofNat 64 (0x100000000 + w.toNat)))) ∧
      (¬ bad → (¬ s.cnib.matrix.queue.length < 4 → exec i s = .next s.waitMem) ∧
        (s.cnib.matrix.queue.length < 4 → s.sealFull sl = true → exec i s = .next s) ∧
        (s.cnib.matrix.queue.length < 4 → s.sealFull sl = false → ∃ t, exec i s = .next t ∧ Entered s t sl k w ∧
          Retired u t [(1, .sealPend sl)])) := by
  have open_ : s.cnib.matrix.queue.length < 4 → ¬ s.queueFull = true := fun room full =>
    Nat.not_le.2 room (of_decide_eq_true full)
  refine ⟨fun none => ?_, fun w r some => ?_⟩
  · rw [run, State.submitFmt, none]
    rfl
  · intro u bad
    rw [State.submitFmt, some] at run
    dsimp only at run
    have wrong : (fmtBad w || (grouped && decide (fmtField w 20 4 = 1))) = true ↔ bad := by
      rw [Bool.or_eq_true, Bool.and_eq_true, decide_eq_true_eq, fmtField_eq]
      rfl
    refine ⟨fun h => run.trans (congrArg Host.Outcome.next (if_pos (wrong.2 h))), fun h => ?_⟩
    rw [if_neg fun e => h (wrong.1 e)] at run
    refine ⟨fun full => ?_, fun room full => ?_, fun room free => ?_⟩
    · rw [run, if_pos (show s.queueFull = true from decide_eq_true (Nat.not_lt.1 full))]
    · rw [run, if_neg (open_ room), if_pos full]
    · rw [if_neg (open_ room), if_neg (by rw [free]; exact Bool.false_ne_true)] at run
      have ctx : u.ctx = { s.ctx with x := { s.ctx.x with fmt := r } } := State.ctx_modCtx ..
      have matrix : (u.nib s.cur.nib).matrix = s.cnib.matrix := matrix_modCtxAt ..
      have shadow := congrArg (fun c : Ctx => c.x.shadow) ctx
      have same := congrArg Ctx.cid ctx
      have both := enters (s := s) (u := u) (sl := sl) (k := k) (w := w) rfl (Sending.refl u) rfl rfl rfl rfl matrix rfl
        shadow same [(1, .sealPend sl)]
      exact ⟨_, run, both⟩

end

theorem ruledSlots (s : State) (c w : Fin 4) :
    ((if c = 1 then [(3 : Fin 4)] else if c = 2 then [0] else []) ++ (if w = 1 then [1] else if w = 2 then [2] else [])).all s.ruledSlot = true ↔
      (c = 1 → s.ruledSlot 3 = true) ∧ (c = 2 → s.ruledSlot 0 = true) ∧ (w = 1 → s.ruledSlot 1 = true) ∧ (w = 2 → s.ruledSlot 2 = true) := by
  rw [List.all_append, Bool.and_eq_true]
  have column : (if c = 1 then [(3 : Fin 4)] else if c = 2 then [0] else []).all s.ruledSlot = true ↔
      (c = 1 → s.ruledSlot 3 = true) ∧ (c = 2 → s.ruledSlot 0 = true) := by
    split
    · next h => subst h; simp
    · split
      · next h => subst h; simp
      · next h1 h2 => simp [h1, h2]
  have row : (if w = 1 then [(1 : Fin 4)] else if w = 2 then [2] else []).all s.ruledSlot = true ↔
      (w = 1 → s.ruledSlot 1 = true) ∧ (w = 2 → s.ruledSlot 2 = true) := by
    split
    · next h => subst h; simp
    · split
      · next h => subst h; simp
      · next h1 h2 => simp [h1, h2]
  rw [column, row, and_assoc]

theorem ruledSlot_iff (s : State) (d : Fin 4) :
    s.ruledSlot d = true ↔ s.ctx.task.ruled.getLsbD d.val = true ∧ (s.neighbour s.cur.nib d).isSome = true := by
  rw [State.ruledSlot, Bool.and_eq_true]

/-- The word of `mstat` (R249). -/
def matrixStatus (x15 x11 x10 x9 x8 : Bool) (words length : Nat) : Word :=
  let b := fun (i : Nat) (x : Bool) => if x then 2 ^ i else 0
  BitVec.ofNat 64 (b 15 x15 + b 11 x11 + b 10 x10 + b 9 x9 + b 8 x8 + words * 2 ^ 4 + length)

/-- The flags of the word of `mstat`. -/
def matrixFlags (x15 x11 x10 x9 x8 : Bool) : Nat := x15.toNat * 128 + x11.toNat * 8 + x10.toNat * 4 + x9.toNat * 2 + x8.toNat

theorem matrixFlags_bits : ∀ x15 x11 x10 x9 x8 : Bool, matrixFlags x15 x11 x10 x9 x8 < 256 ∧
    (∀ i : Fin 8, (matrixFlags x15 x11 x10 x9 x8).testBit i.val = ([x8, x9, x10, x11, false, false, false, x15])[i]) := by
  decide

theorem matrixStatus_eq (x15 x11 x10 x9 x8 : Bool) (words length : Nat) : matrixStatus x15 x11 x10 x9 x8 words length =
    BitVec.ofNat 64 (2 ^ 8 * matrixFlags x15 x11 x10 x9 x8 + (2 ^ 4 * words + length)) := by
  have flag : ∀ (x : Bool) (i : Nat), (if x then 2 ^ i else 0) = x.toNat * 2 ^ i := by
    intro x i
    cases x
    · exact (Nat.zero_mul _).symm
    · exact (Nat.one_mul _).symm
  rw [matrixStatus, matrixFlags]
  refine congrArg (BitVec.ofNat 64) ?_
  simp only [flag]
  omega

section
variable {x15 x11 x10 x9 x8 : Bool} {words length : Nat}

/-- A bit of the word of `mstat`. -/
theorem matrixStatus_bit (few : words < 4) (small : length < 16) {i : Nat} (lt : i < 64) :
    (matrixStatus x15 x11 x10 x9 x8 words length).getLsbD i =
      if i < 4 then length.testBit i else if i < 8 then words.testBit (i - 4) else (matrixFlags x15 x11 x10 x9 x8).testBit (i - 8) := by
  rw [matrixStatus_eq, BitVec.getLsbD_ofNat, decide_eq_true lt, Bool.true_and, Nat.testBit_two_pow_mul_add _ (by omega),
    Nat.testBit_two_pow_mul_add _ small]
  by_cases low : i < 4
  · rw [if_pos low, if_pos low, if_pos (by omega)]
  · rw [if_neg low, if_neg low]

theorem matrixStatus_fields (few : words < 4) (small : length < 16) :
    let w := matrixStatus x15 x11 x10 x9 x8 words length
    w.extractLsb' 16 48 = 0 ∧ w.getLsbD 15 = x15 ∧ w.extractLsb' 12 3 = 0 ∧ w.getLsbD 11 = x11 ∧ w.getLsbD 10 = x10 ∧
      w.getLsbD 9 = x9 ∧ w.getLsbD 8 = x8 ∧ w.extractLsb' 6 2 = 0 ∧ w.extractLsb' 4 2 = BitVec.ofNat 2 words ∧
      w.extractLsb' 0 4 = BitVec.ofNat 4 length := by
  obtain ⟨bound, bits⟩ := matrixFlags_bits x15 x11 x10 x9 x8
  have flag : ∀ i : Fin 8, (matrixStatus x15 x11 x10 x9 x8 words length).getLsbD (8 + i.val) =
      ([x8, x9, x10, x11, false, false, false, x15])[i] := fun i => by
    rw [matrixStatus_bit few small (by omega), if_neg (by omega), if_neg (by omega), Nat.add_sub_cancel_left, bits]
  refine ⟨BitVec.eq_of_getLsbD_eq fun i lt => ?_, flag 7, BitVec.eq_of_getLsbD_eq fun i lt => ?_, flag 3, flag 2, flag 1, flag 0,
    BitVec.eq_of_getLsbD_eq fun i lt => ?_, BitVec.eq_of_getLsbD_eq fun i lt => ?_, BitVec.eq_of_getLsbD_eq fun i lt => ?_⟩ <;>
    rw [BitVec.getLsbD_extractLsb', decide_eq_true lt, Bool.true_and]
  · rw [matrixStatus_bit few small (by omega), if_neg (by omega), if_neg (by omega), show BitVec.getLsbD (0 : BitVec 48) i = false from BitVec.getLsbD_zero]
    exact Nat.testBit_lt_two_pow (Nat.lt_of_lt_of_le bound (Nat.pow_le_pow_right (by decide : 0 < 2) (by omega : 8 ≤ 16 + i - 8)))
  · rw [show BitVec.getLsbD (0 : BitVec 3) i = false from BitVec.getLsbD_zero]
    interval_cases i
    · exact flag 4
    · exact flag 5
    · exact flag 6
  · rw [matrixStatus_bit few small (by omega), if_neg (by omega), if_pos (by omega),
      show BitVec.getLsbD (0 : BitVec 2) i = false from BitVec.getLsbD_zero]
    exact Nat.testBit_lt_two_pow (Nat.lt_of_lt_of_le few (Nat.pow_le_pow_right (by decide : 0 < 2) (by omega : 2 ≤ 6 + i - 4)))
  · rw [matrixStatus_bit few small (by omega), if_neg (by omega), if_pos (by omega), BitVec.getLsbD_ofNat, decide_eq_true lt,
      Bool.true_and, Nat.add_sub_cancel_left]
  · rw [matrixStatus_bit few small (by omega), if_pos (by omega), BitVec.getLsbD_ofNat, decide_eq_true lt, Bool.true_and, Nat.zero_add]

end

/-- The array is held. -/
theorem arrayHeld_iff (s : State) (n : NibId) : (!(s.arrayHolders n).isEmpty) = true ↔ (s.nib n).matrix.array.isSome = true ∨
    ∃ d ∈ (s.nib n).matrix.draining, s.cmdParked d.id = true ∨ (∃ y v, d.kind = .mrd y v) ∧ d.rows ≠ [] := by
  have holds : ∀ d : MCmd, (s.cmdParked d.id || (match d.kind with | .mrd .. => !d.rows.isEmpty | _ => false)) = true ↔
      s.cmdParked d.id = true ∨ (∃ y v, d.kind = .mrd y v) ∧ d.rows ≠ [] := by
    intro d
    rw [Bool.or_eq_true]
    cases d.kind <;> simp
  rw [Bool.not_eq_true', List.isEmpty_eq_false_iff_exists_mem]
  simp only [State.arrayHolders, State.matrix, List.mem_append, Option.mem_toList, List.mem_filter, exists_or, Option.isSome_iff_exists]
  exact or_congr Iff.rfl (exists_congr fun d => and_congr Iff.rfl (holds d))

theorem matrixCommands : Claims.MatrixCommands := by
  intro s sl a b room enters_ withFormat
  refine ⟨fun w c clear => ?_, fun clear => ⟨?_, fun seal_ k => ?_, ?_⟩, fun clear => ?_, fun clear => ?_, fun clear => ?_⟩
  · intro open_ ok
    have run := show exec (.mgo sl w c) s = execMgo sl w c s from rfl
    rw [execMgo, guarded_of_clear clear] at run
    have allowed : _ ↔ ok := (ruledSlots s c w).trans (by simp only [ruledSlot_iff]; rfl)
    refine ⟨fun no => run.trans (congrArg Host.Outcome.next (if_neg (fun e => no (allowed.1 e)))), fun yes => ?_⟩
    obtain ⟨none, some⟩ := submitsFormat (grouped := false) (run.trans (congrArg Host.Outcome.next (if_pos (allowed.2 yes))))
    exact ⟨none, some⟩
  · have run := show exec (.mgrp sl a b) s = execMgrp sl a b s from rfl
    rw [execMgrp, guarded_of_clear clear] at run
    exact submitsFormat run
  · have run := show exec (.mwld sl a b k) s = execMwld sl a b k s from rfl
    rw [execMwld, guarded_of_clear clear] at run
    exact submits seal_ run
  · have run := show exec (.mrd sl a b) s = execMrd sl a b s from rfl
    rw [execMrd, guarded_of_clear clear] at run
    refine ⟨fun odd => run.trans (congrArg Host.Outcome.next (if_pos odd)), fun even out => ?_, fun even inside seal_ => ?_⟩
    · have run := run.trans (congrArg Host.Outcome.next (if_neg (not_not.2 even)))
      exact run.trans (congrArg Host.Outcome.next (if_pos (by
        rw [show State.inWindow (s.rg b) 4096 = false from decide_eq_false (Nat.not_le.2 out)]
        rfl)))
    · have run := run.trans (congrArg Host.Outcome.next (if_neg (not_not.2 even)))
      exact submits seal_ (run.trans (congrArg Host.Outcome.next (if_neg (by
        rw [show State.inWindow (s.rg b) 4096 = true from decide_eq_true inside]
        exact Bool.false_ne_true))))
  · have run := show exec (.mzero a) s = execMzero a s from rfl
    rw [execMzero, guarded_of_clear clear] at run
    refine ⟨fun full => by rw [run, submit_full full], fun free => ?_⟩
    have open_ : ¬ s.queueFull = true := fun full => Nat.not_le.2 free (of_decide_eq_true full)
    rw [State.submit, if_neg open_, if_neg (by rw [sealFull_zero]; exact Bool.false_ne_true), if_pos rfl] at run
    exact ⟨_, run, enters rfl (Sending.refl s) rfl rfl rfl rfl rfl rfl rfl rfl []⟩
  · exact issues_of_simple clear (show exec .mresume s = execMresume s from rfl) rfl
  · obtain ⟨high, x15, none, x11, x10, x9, x8, gap, words, length⟩ := matrixStatus_fields (x15 := s.ctx.c.stopped) (x11 := s.cnib.matrix.banks[1].valid)
      (x10 := s.cnib.matrix.banks[0].valid) (x9 := s.cnib.matrix.loading) (x8 := !(s.arrayHolders s.cur.nib).isEmpty)
      (Nat.mod_lt s.ctx.x.fmt.length (by decide : 0 < 4)) (Nat.mod_lt s.cnib.matrix.queue.length (by decide : 0 < 16))
    refine ⟨_, issues_of_simple clear (show exec (.mstat a) s = execMstat a s from rfl) (State.landG_eq ..), high, x15, none, x11, x10, x9,
      ?_, gap, ?_, ?_⟩
    · exact (iff_of_eq (congrArg (· = true) x8)).trans (arrayHeld_iff s s.cur.nib)
    · refine words.trans ?_
      exact BitVec.eq_of_toNat_eq (by simp)
    · refine length.trans ?_
      exact BitVec.eq_of_toNat_eq (by simp)

/-! ## `mresume` -/

/-- The context with STOPPED clear. -/
def Ctx.clearStopped (c : Ctx) : Ctx := { c with c := { c.c with mfault := c.c.mfault &&& ~~~ 1 } }

theorem applyEff_mresume (s : State) (n : NibId) (k : Fin 8) (q : Seq) : s.applyEff n k q .mresume = s.resumeMatrix n k := rfl

/-- The one stopped command of a context. -/
theorem filter_only {c : MCmd} {pre post : List MCmd} {cid : Nat} (mine : c.cid = cid) (other : ∀ x ∈ pre ++ post, x.cid ≠ cid) :
    (pre ++ c :: post).filter (·.cid == cid) = [c] ∧ (pre ++ c :: post).filter (·.cid != cid) = pre ++ post := by
  have out : ∀ x ∈ pre ++ post, (x.cid == cid) = false := fun x hx => beq_eq_false_iff_ne.2 (other x hx)
  have before : ∀ x ∈ pre, (x.cid == cid) = false := fun x hx => out x (List.mem_append_left _ hx)
  have after : ∀ x ∈ post, (x.cid == cid) = false := fun x hx => out x (List.mem_append_right _ hx)
  constructor
  · rw [List.filter_append, List.filter_cons_of_pos (by rw [mine]; exact beq_self_eq_true _),
      List.filter_eq_nil_iff.2 fun x hx => by rw [before x hx]; exact Bool.false_ne_true,
      List.filter_eq_nil_iff.2 fun x hx => by rw [after x hx]; exact Bool.false_ne_true]
    rfl
  · rw [List.filter_append, List.filter_cons_of_neg (by rw [mine, bne_self_eq_false]; exact Bool.false_ne_true),
      List.filter_eq_self.2 fun x hx => by rw [bne, before x hx]; rfl, List.filter_eq_self.2 fun x hx => by rw [bne, after x hx]; rfl]

theorem resumeTakesForce : Claims.ResumeTakesForce := by
  rintro s n k l r m cid rfl flight due eff rfl
  have taken : takeFirst (fun l => l.due ≤ s.tn && !l.isHandoff) (s.stroke n k).ctx.inflight = some (l, r) := by
    rw [flight]
    exact takeFirst_cut (pre := []) (fun _ h => absurd h List.not_mem_nil) (by simp [due, Landing.isHandoff, eff])
  have run := show exec (.resultLanding n k) s = execResultLanding n k s from rfl
  simp only [execResultLanding, taken, eff, applyEff_mresume] at run
  generalize landed : s.modCtxAt n k (fun c => { c with inflight := r }) = u at run
  have matrix : (u.nib n).matrix = (s.nib n).matrix := by
    rw [← landed]
    exact matrix_modCtxAt ..
  have ctx : (u.stroke n k).ctx = { (s.stroke n k).ctx with inflight := r } := by
    rw [← landed]
    exact ctx_modCtxAt_same ..
  have cid : (u.stroke n k).ctx.cid = (s.stroke n k).ctx.cid := by rw [ctx]
  have cycle : u.cycle = s.cycle := by
    rw [← landed]
    rfl
  have mem : u.mem = s.mem := by
    rw [← landed]
    rfl
  refine ⟨fun c pre post stopped mine other => ?_, fun none => ⟨_, run, ?_⟩⟩
  · have any : (u.nib n).matrix.stopped.any (·.cid == (u.stroke n k).ctx.cid) = true := by
      rw [matrix, cid, stopped]
      exact List.any_eq_true.2 ⟨c, List.mem_append_right _ List.mem_cons_self, beq_iff_eq.2 mine⟩
    have resumed : u.resumeMatrix n k = ((u.modMatrix n (·.resume (u.stroke n k).ctx.cid)).modCtxAt n k Ctx.clearStopped).schedule
        u.cycle (.matrixDispatch n) := if_pos any
    refine ⟨_, run, ?_, ?_, ?_, ?_⟩
    · rw [resumed, ← mem]
      rfl
    · obtain ⟨only, rest⟩ := filter_only mine other
      rw [resumed]
      refine (matrix_modCtxAt (u.modMatrix n (·.resume (u.stroke n k).ctx.cid)) n k Ctx.clearStopped).trans ?_
      rw [matrix_modMatrix, matrix, cid, Matrix.resume, stopped, only, rest]
      rfl
    · rw [resumed]
      refine (ctx_modCtxAt_same (u.modMatrix n (·.resume (u.stroke n k).ctx.cid)) n k Ctx.clearStopped).trans ?_
      have same : (u.modMatrix n (·.resume (u.stroke n k).ctx.cid)).stroke n k = u.stroke n k :=
        stroke_modNib_of_keeps u n n k (f := fun b => { b with matrix := b.matrix.resume (u.stroke n k).ctx.cid }) fun b => rfl
      rw [same, ctx]
      rfl
    · rw [resumed, ← cycle]
      exact List.mem_append_right _ (List.mem_singleton.2 rfl)
  · refine if_neg fun any => ?_
    rw [matrix, cid] at any
    obtain ⟨c, hc, mine⟩ := List.any_eq_true.1 any
    exact none c hc (beq_iff_eq.1 mine)

/-- Settles O44: each instruction by the branches of its definition, the shadow bank by the row of R229 that names the field. -/
theorem matrixIssue : Obligations.MatrixIssue := ⟨matrixConfiguration, matrixCommands, resumeTakesForce⟩

end Sys2Proof.Machine
end

section
/-! SUPPORT. Dispatch of matrix commands, and slabs (09_matrix.md R221 to R249). -/

namespace Sys2Proof.Machine

open Sys2Proof

/-! ## What the operations of the engine keep -/

section
variable {s t u : State} {n : NibId} {c : MCmd}

/-- The engine of nib n has gone on: memory, the strokes and the tiles stand, and the agenda has only grown. -/
structure EngineRuns (n : NibId) (s t : State) : Prop where
  mem : t.mem = s.mem
  cycle : t.cycle = s.cycle
  strokes : ∀ j k, t.stroke j k = s.stroke j k
  agenda : ∃ l, t.agenda = s.agenda ++ l
  tiles : (t.nib n).matrix.tiles = (s.nib n).matrix.tiles

namespace EngineRuns

theorem refl (n : NibId) (s : State) : EngineRuns n s s := ⟨rfl, rfl, fun _ _ => rfl, ⟨[], (List.append_nil _).symm⟩, rfl⟩

theorem trans (h : EngineRuns n s t) (g : EngineRuns n t u) : EngineRuns n s u := by
  obtain ⟨l, hl⟩ := h.agenda
  obtain ⟨l', hl'⟩ := g.agenda
  exact ⟨g.mem.trans h.mem, g.cycle.trans h.cycle, fun j k => (g.strokes j k).trans (h.strokes j k),
    ⟨l ++ l', by rw [hl', hl, List.append_assoc]⟩, g.tiles.trans h.tiles⟩

theorem mem_agenda (h : EngineRuns n s t) {e : Nat × Instr} (he : e ∈ s.agenda) : e ∈ t.agenda := by
  obtain ⟨l, hl⟩ := h.agenda
  rw [hl]
  exact List.mem_append_left _ he

end EngineRuns

theorem stroke_modMatrix (s : State) (n j : NibId) (k : Fin 8) (f : Matrix → Matrix) : (s.modMatrix n f).stroke j k = s.stroke j k :=
  stroke_modNib_of_keeps s n j k (f := fun b => { b with matrix := f b.matrix }) fun _ => rfl

theorem engineRuns_modMatrix (s : State) (n : NibId) {f : Matrix → Matrix} (tiles : ∀ m, (f m).tiles = m.tiles) :
    EngineRuns n s (s.modMatrix n f) :=
  ⟨rfl, rfl, fun j k => stroke_modMatrix s n j k f, ⟨[], (List.append_nil _).symm⟩, by rw [matrix_modMatrix, tiles]⟩

theorem engineRuns_schedule (s : State) (n : NibId) (e : Nat) (i : Instr) : EngineRuns n s (s.schedule e i) :=
  ⟨rfl, rfl, fun _ _ => rfl, ⟨[(e, i)], rfl⟩, rfl⟩

theorem arrayNow_eq (s : State) (n : NibId) : s.arrayNow n =
    if ((s.nib n).matrix.arrayEnd + 720719) / 720720 = s.cycle then (s.nib n).matrix.arrayEnd else s.cycle * 720720 := by
  have same : ∀ e : Nat, e + State.matrixUnit - 1 = e + 720719 := fun e => by
    rw [State.matrixUnit]
    omega
  simp only [State.arrayNow, State.matrix, same]
  rfl

theorem arrayNow_congr (end_ : (t.nib n).matrix.arrayEnd = (s.nib n).matrix.arrayEnd) (cycle : t.cycle = s.cycle) :
    t.arrayNow n = s.arrayNow n := by
  rw [arrayNow_eq, arrayNow_eq, end_, cycle]

/-- The engine that a command holds. -/
def Matrix.heldBy (c : MCmd) (e : Nat) (m : Matrix) : Matrix := { m with array := some { c with running := true }, arrayEnd := e }

theorem holdArray_eq (s : State) (n : NibId) (c : MCmd) (units : Nat) : s.holdArray n c units =
    (s.modMatrix n (Matrix.heldBy c (s.arrayNow n + units))).schedule
      ((s.arrayNow n + units + State.matrixUnit - 1) / State.matrixUnit) (.slabEnd n) := rfl

theorem matrix_holdArray (s : State) (n : NibId) (c : MCmd) (units : Nat) :
    ((s.holdArray n c units).nib n).matrix = Matrix.heldBy c (s.arrayNow n + units) (s.nib n).matrix := by
  rw [holdArray_eq]
  exact matrix_modMatrix s n _

theorem engineRuns_holdArray (s : State) (n : NibId) (c : MCmd) (units : Nat) : EngineRuns n s (s.holdArray n c units) := by
  rw [holdArray_eq]
  exact (engineRuns_modMatrix s n (f := Matrix.heldBy c _) fun _ => rfl).trans (engineRuns_schedule ..)

/-! ## Posts -/

/-- The engine after the post of command `id`. -/
def Matrix.settled (id : Nat) (m : Matrix) : Matrix :=
  { m with array := m.array.map (fun d => if d.id = id then { d with posted := true } else d)
           draining := m.draining.filter (·.id != id) }

/-- The post of a command's seal, on its way. -/
def State.matrixPostOf (s : State) (n : NibId) (c : MCmd) : Op :=
  ⟨s.nextId, n, c.cid, c.seq, c.sl, .matrixPost c.ev, c.stroke, s.cycle, true, false, c.lc, c.tmax, none⟩

/-- The state before a command leaves the engine, with the post of its seal on its way. -/
def State.posting (s : State) (n : NibId) (c : MCmd) : State :=
  if c.sl = 0 then s else { s with ops := s.ops ++ [s.matrixPostOf n c], nextId := s.nextId + 1 }

theorem matrixSettle_posts {id : Nat} (found : (s.nib n).matrix.findCmd id = some c) (done : c.done = true) (posted : c.posted = false)
    (rows : c.rows = []) (free : s.cmdBusy id = false) : s.matrixSettle n id = (s.posting n c).modMatrix n (Matrix.settled id) := by
  have at_ : (s.matrix n).findCmd id = some c := found
  rw [State.matrixSettle, at_]
  exact if_pos (by rw [done, posted, rows, free]; rfl)

theorem matrixSettle_waits {id : Nat} (found : (s.nib n).matrix.findCmd id = some c) (waits : c.rows ≠ []) : s.matrixSettle n id = s := by
  have at_ : (s.matrix n).findCmd id = some c := found
  rw [State.matrixSettle, at_]
  exact if_neg (by rw [List.isEmpty_eq_false_iff.2 waits, Bool.and_false, Bool.false_and]; exact Bool.false_ne_true)

theorem matrixSettle_cases (s : State) (n : NibId) (id : Nat) : s.matrixSettle n id = s ∨
    ∃ ops next, s.matrixSettle n id = ({ s with ops := ops, nextId := next } : State).modMatrix n (Matrix.settled id) := by
  cases found : (s.nib n).matrix.findCmd id with
  | none =>
    have at_ : (s.matrix n).findCmd id = none := found
    exact Or.inl (by rw [State.matrixSettle, at_])
  | some c =>
    by_cases ready : c.done = true ∧ c.posted = false ∧ c.rows = [] ∧ s.cmdBusy id = false
    · obtain ⟨done, posted, rows, free⟩ := ready
      rw [matrixSettle_posts found done posted rows free, State.posting]
      split
      · exact Or.inr ⟨s.ops, s.nextId, rfl⟩
      · exact Or.inr ⟨_, _, rfl⟩
    · refine Or.inl ?_
      have at_ : (s.matrix n).findCmd id = some c := found
      rw [State.matrixSettle, at_]
      exact if_neg fun h => ready (by
        simp only [Bool.and_eq_true, Bool.not_eq_true', List.isEmpty_iff] at h
        exact ⟨h.1.1.1, h.1.1.2, h.1.2, h.2⟩)

theorem engineRuns_settle (s : State) (n : NibId) (id : Nat) : EngineRuns n s (s.matrixSettle n id) := by
  rcases matrixSettle_cases s n id with same | ⟨ops, next, settled⟩
  · rw [same]
    exact EngineRuns.refl n s
  · rw [settled]
    have before : EngineRuns n s { s with ops := ops, nextId := next } :=
      ⟨rfl, rfl, fun _ _ => rfl, ⟨[], (List.append_nil _).symm⟩, rfl⟩
    exact before.trans (engineRuns_modMatrix _ n (f := Matrix.settled id) fun _ => rfl)

theorem agenda_settle (s : State) (n : NibId) (id : Nat) : (s.matrixSettle n id).agenda = s.agenda := by
  rcases matrixSettle_cases s n id with same | ⟨ops, next, settled⟩
  · rw [same]
  · rw [settled]
    rfl

theorem array_settle (s : State) (n : NibId) (id : Nat) : ((s.matrixSettle n id).nib n).matrix.arrayEnd = (s.nib n).matrix.arrayEnd ∧
    ((s.nib n).matrix.array = none → ((s.matrixSettle n id).nib n).matrix.array = none) ∧
    ∀ d, (s.nib n).matrix.array = some d → ∃ p, ((s.matrixSettle n id).nib n).matrix.array = some { d with posted := p } := by
  rcases matrixSettle_cases s n id with same | ⟨ops, next, settled⟩
  · rw [same]
    exact ⟨rfl, fun h => h, fun d h => ⟨d.posted, h⟩⟩
  · rw [settled, matrix_modMatrix]
    refine ⟨rfl, fun none => congrArg (Option.map _) none, fun d some => ?_⟩
    have array := congrArg (Option.map (fun d : MCmd => if d.id = id then { d with posted := true } else d)) some
    by_cases mine : d.id = id
    · exact ⟨true, array.trans (congrArg Option.some (if_pos mine))⟩
    · exact ⟨d.posted, array.trans (congrArg Option.some (if_neg mine))⟩

/-! ## Dispatch -/

theorem dispatchQueue_nil (none : (s.nib n).matrix.queue = []) (fuel : Nat) : s.dispatchQueue n fuel = s := by
  have queue : (s.matrix n).queue = [] := none
  cases fuel with
  | zero => rfl
  | succ fuel => rw [State.dispatchQueue, queue]

/-- The engine without the head of its queue. -/
def Matrix.rest (r : List MCmd) (m : Matrix) : Matrix := { m with queue := r }

/-- The engine with the head of its queue held. -/
def Matrix.holdHead (c : MCmd) (r : List MCmd) (m : Matrix) : Matrix := { m with queue := r, held := m.held ++ [c] }

theorem dispatchQueue_cons {r : List MCmd} (head : (s.nib n).matrix.queue = c :: r) (fuel : Nat) : s.dispatchQueue n (fuel + 1) =
    if s.stopFull n c.cid = true then (s.modMatrix n (Matrix.holdHead c r)).dispatchQueue n fuel
    else if s.canDispatch n c = false then s
    else if s.cycle < c.issue + 16 then s.schedule (c.issue + 16) (.matrixDispatch n)
    else ((s.modMatrix n (Matrix.rest r)).serve n c).dispatchQueue n fuel := by
  have queue : (s.matrix n).queue = c :: r := head
  rw [State.dispatchQueue, queue]
  show (if s.stopFull n c.cid = true then _ else if (!s.canDispatch n c) = true then s else _) = _
  cases s.canDispatch n c <;> rfl

theorem canDispatch_held (other : ∀ b va len, c.kind ≠ .mwld b va len) (held : (s.arrayHolders n).isEmpty = false) :
    s.canDispatch n c = false := by
  rw [State.canDispatch]
  split
  · next b va len kind => exact absurd kind (other b va len)
  · rw [held, Bool.false_and]

theorem canDispatch_free (loader : (s.nib n).matrix.loader = none) (array : (s.nib n).matrix.array = none)
    (held : (s.arrayHolders n).isEmpty = true) : s.canDispatch n c = true := by
  have idle : (s.matrix n).loader = none := loader
  have none : (s.matrix n).array = none := array
  have empty : s.arrayHolders n = [] := List.isEmpty_iff.1 held
  rw [State.canDispatch]
  simp only [Matrix.loading, idle, none, empty]
  split <;> rfl

/-- The engine with an image on its way to bank b. -/
def Matrix.loadsBank (c : MCmd) (b : Fin 2) (m : Matrix) : Matrix :=
  { m with loader := some c, banks := m.banks.set b { m.banks[b] with valid := false } }

theorem serve_mwld {b : Fin 2} {va : Word} {len : Nat} (kind : c.kind = .mwld b va len) : ∃ e, s.cycle < e ∧
    s.serve n c = ({ s.modMatrix n (Matrix.loadsBank c b) with fresh := s.fresh + 1 } : State).schedule e (.weightLoadComplete n) := by
  obtain ⟨e, later, free⟩ := freeCycle_none (s.modMatrix n (Matrix.loadsBank c b)) (s.cycle + 1)
  refine ⟨e, later, ?_⟩
  have run : s.serve n c = (fun x : Nat × State => x.2.schedule x.1 (.weightLoadComplete n))
      ((s.modMatrix n (Matrix.loadsBank c b)).freeCycle (s.cycle + 1) none) := by
    rw [State.serve, kind]
    rfl
  rw [run, free]
  rfl

/-- A command that holds the array keeps it while the rest of the queue is looked at. -/
theorem dispatchQueue_keeps {d : MCmd} (array : (s.nib n).matrix.array = some d) (fuel : Nat) :
    EngineRuns n s (s.dispatchQueue n fuel) ∧ ((s.dispatchQueue n fuel).nib n).matrix.array = some d ∧
      ((s.dispatchQueue n fuel).nib n).matrix.arrayEnd = (s.nib n).matrix.arrayEnd := by
  induction fuel generalizing s with
  | zero => exact ⟨EngineRuns.refl n s, array, rfl⟩
  | succ fuel ih =>
    cases queue : (s.nib n).matrix.queue with
    | nil => rw [dispatchQueue_nil queue]; exact ⟨EngineRuns.refl n s, array, rfl⟩
    | cons c r =>
      rw [dispatchQueue_cons queue]
      split
      · obtain ⟨runs, holds, ends⟩ := ih (s := s.modMatrix n (Matrix.holdHead c r)) (by rw [matrix_modMatrix]; exact array)
        refine ⟨(engineRuns_modMatrix s n (f := Matrix.holdHead c r) fun _ => rfl).trans runs, holds, ends.trans ?_⟩
        rw [matrix_modMatrix]
        rfl
      · split
        · exact ⟨EngineRuns.refl n s, array, rfl⟩
        · next can =>
          split
          · exact ⟨engineRuns_schedule .., array, rfl⟩
          · have held : (s.arrayHolders n).isEmpty = false := by
              rw [← Bool.not_eq_true']
              exact (arrayHeld_iff s n).2 (Or.inl (by rw [array]; rfl))
            have load : ∃ b va len, c.kind = .mwld b va len := by
              by_contra other
              push Not at other
              exact can (canDispatch_held other held)
            obtain ⟨b, va, len, kind⟩ := load
            obtain ⟨e, -, serve⟩ := serve_mwld (s := s.modMatrix n (Matrix.rest r)) (n := n) kind
            rw [serve]
            have first := engineRuns_modMatrix s n (f := Matrix.rest r) fun _ => rfl
            have second := engineRuns_modMatrix (s.modMatrix n (Matrix.rest r)) n (f := Matrix.loadsBank c b) fun _ => rfl
            generalize v_eq : (State.schedule _ e (.weightLoadComplete n)) = v
            have matrix : (v.nib n).matrix = Matrix.loadsBank c b (Matrix.rest r (s.nib n).matrix) := by
              rw [← v_eq]
              refine (matrix_modMatrix (s.modMatrix n (Matrix.rest r)) n (Matrix.loadsBank c b)).trans ?_
              rw [matrix_modMatrix]
            have third : EngineRuns n ((s.modMatrix n (Matrix.rest r)).modMatrix n (Matrix.loadsBank c b)) v := by
              rw [← v_eq]
              exact ⟨rfl, rfl, fun _ _ => rfl, ⟨[_], rfl⟩, rfl⟩
            obtain ⟨runs, holds, ends⟩ := ih (s := v) (by rw [matrix]; exact array)
            refine ⟨((first.trans second).trans third).trans runs, holds, ends.trans ?_⟩
            rw [matrix]
            rfl

theorem arrayHolders_none (array : (s.nib n).matrix.array = none)
    (free : ∀ d ∈ (s.nib n).matrix.draining, s.cmdParked d.id = false ∧ ((∃ y v, d.kind = .mrd y v) → d.rows = [])) :
    (s.arrayHolders n).isEmpty = true := by
  by_contra held
  obtain some | ⟨d, hd, parked | ⟨kind, rows⟩⟩ := (arrayHeld_iff s n).1 (by rw [eq_false_of_ne_true held]; rfl)
  · rw [array] at some
    exact Bool.false_ne_true some
  · exact Bool.false_ne_true ((free d hd).1.symm.trans parked)
  · exact rows ((free d hd).2 kind)

/-- The engine with a tile at zero. -/
def Matrix.clears (x : Fin 8) (m : Matrix) : Matrix := { m with tiles := m.tiles.set x 0 }

theorem serve_mzero {x : Fin 8} (kind : c.kind = .mzero x) (going : c.done = false) : s.serve n c =
    ((s.modMatrix n (Matrix.clears x)).holdArray n { c with done := true } (4 * 720720)).matrixSettle n c.id := by
  rw [State.serve, kind]
  exact if_neg (by rw [going]; exact Bool.false_ne_true)

/-- The rows of an `mrd` (R238). -/
def readRowsOf (tile : BitVec 32768) (a : Word) : List MRow :=
  (List.range 32).map (fun m => ⟨a + BitVec.ofNat 64 (128 * m), false, (tile.extractLsb' (1024 * m) 1024).toNat, 128, 64, 0, none, 0⟩)

theorem serve_mrd {x : Fin 8} {a : Word} (kind : c.kind = .mrd x a) (going : c.done = false) : s.serve n c =
    (s.schedule s.cycle (.matrixRowWrite c.id)).holdArray n
      { c with done := true, rows := readRowsOf (s.nib n).matrix.tiles[x] a } (32 * 720720) := by
  rw [State.serve, kind]
  exact if_neg (by rw [going]; exact Bool.false_ne_true)

end

theorem matrixDispatches : Claims.MatrixDispatches := by
  rintro s n m rfl
  have run : exec (.matrixDispatch n) s = .next (s.dispatchQueue n ((s.nib n).matrix.queue.length + 1)) := rfl
  refine ⟨fun none => ?_, fun c r head => ?_⟩
  · rw [run, dispatchQueue_nil none]
  have length : (s.nib n).matrix.queue.length + 1 = r.length + 1 + 1 := by rw [head]; rfl
  rw [length, dispatchQueue_cons head] at run
  refine ⟨fun full last => ?_, fun free other held => ?_, fun free array loader idle => ?_⟩
  · subst last
    rw [if_pos full] at run
    have matrix := matrix_modMatrix s n (Matrix.holdHead c [])
    rw [dispatchQueue_nil (by rw [matrix]; rfl)] at run
    exact ⟨_, run, matrix, rfl, rfl⟩
  · have held : (s.arrayHolders n).isEmpty = false := by
      rw [← Bool.not_eq_true']
      obtain ⟨d, hd, some | parked | mrd⟩ := held
      · exact (arrayHeld_iff s n).2 (Or.inl (by rw [some]; rfl))
      all_goals
        rcases List.mem_append.1 hd with here | drains
        · exact (arrayHeld_iff s n).2 (Or.inl (Option.isSome_iff_exists.2 ⟨d, Option.mem_toList.1 here⟩))
      · exact (arrayHeld_iff s n).2 (Or.inr ⟨d, drains, Or.inl parked⟩)
      · exact (arrayHeld_iff s n).2 (Or.inr ⟨d, drains, Or.inr mrd⟩)
    rw [if_neg (by rw [free]; exact Bool.false_ne_true), if_pos (canDispatch_held other held)] at run
    exact run
  · have can := canDispatch_free (c := c) loader array (arrayHolders_none array idle)
    rw [if_neg (by rw [free]; exact Bool.false_ne_true), if_neg (by rw [can]; exact Bool.false_ne_true.symm)] at run
    refine ⟨fun young => ⟨_, run.trans (congrArg Host.Outcome.next (if_pos young)), rfl⟩, fun old going rows loading => ?_⟩
    rw [if_neg (Nat.not_lt.2 old)] at run
    have rest := matrix_modMatrix s n (Matrix.rest r)
    have first := engineRuns_modMatrix s n (f := Matrix.rest r) fun _ => rfl
    have events : (s.modMatrix n (Matrix.rest r)).agenda = s.agenda := rfl
    generalize s.modMatrix n (Matrix.rest r) = u at run rest first events
    have end_ : (u.nib n).matrix.arrayEnd = (s.nib n).matrix.arrayEnd := by rw [rest]; rfl
    intro now
    have now_eq : u.arrayNow n = now := (arrayNow_congr end_ first.cycle).trans (arrayNow_eq s n)
    refine ⟨fun x kind => ?_, fun x a kind => ?_, fun b va len kind last => ?_⟩
    · rw [serve_mzero kind going] at run
      have cleared := matrix_modMatrix u n (Matrix.clears x)
      have strokes := fun j k => stroke_modMatrix u n j k (Matrix.clears x)
      have mem : (u.modMatrix n (Matrix.clears x)).mem = u.mem := rfl
      have later : (u.modMatrix n (Matrix.clears x)).arrayNow n = now :=
        (arrayNow_congr (s := u) (t := u.modMatrix n (Matrix.clears x)) (by rw [cleared]; rfl) rfl).trans now_eq
      generalize u.modMatrix n (Matrix.clears x) = v at run cleared strokes mem later
      have holds := engineRuns_holdArray v n { c with done := true } (4 * 720720)
      have held := matrix_holdArray v n { c with done := true } (4 * 720720)
      generalize v.holdArray n { c with done := true } (4 * 720720) = w at run holds held
      obtain ⟨settledEnd, -, settled⟩ := array_settle w n c.id
      obtain ⟨p, array⟩ := settled _ (congrArg Matrix.array held)
      obtain ⟨last, stays, ends⟩ := dispatchQueue_keeps array (r.length + 1)
      have whole := (holds.trans (engineRuns_settle w n c.id)).trans last
      have tiles := whole.tiles.trans ((congrArg Matrix.tiles cleared).trans
        (congrArg (fun m : Matrix => m.tiles.set x 0) rest))
      refine ⟨_, _, run, whole.mem.trans (mem.trans first.mem), ?_, fun y other => ?_, stays, rfl, rfl, rfl, ?_,
        fun j k => (whole.strokes j k).trans ((strokes j k).trans (first.strokes j k))⟩
      · simp [tiles]
      · have apart : x.val ≠ y.val := fun e => other (Fin.ext e.symm)
        simp [tiles, Matrix.rest, apart]
      · refine ends.trans (settledEnd.trans ((congrArg Matrix.arrayEnd held).trans ?_))
        rw [← later]
        rfl
    · rw [serve_mrd kind going] at run
      have tiles : (u.nib n).matrix.tiles = (s.nib n).matrix.tiles := first.tiles
      rw [tiles] at run
      have sent : (u.cycle, Instr.matrixRowWrite c.id) ∈ (u.schedule u.cycle (.matrixRowWrite c.id)).agenda :=
        List.mem_append_right _ List.mem_cons_self
      have second := engineRuns_schedule u n u.cycle (.matrixRowWrite c.id)
      have later : (u.schedule u.cycle (.matrixRowWrite c.id)).arrayNow n = now := now_eq
      generalize u.schedule u.cycle (.matrixRowWrite c.id) = v at run sent second later
      generalize command : ({ c with done := true, rows := readRowsOf (s.nib n).matrix.tiles[x] a } : MCmd) = d at run
      have holds := engineRuns_holdArray v n d (32 * 720720)
      have held := matrix_holdArray v n d (32 * 720720)
      obtain ⟨last, stays, ends⟩ := dispatchQueue_keeps (congrArg Matrix.array held) (r.length + 1)
      have whole := (second.trans holds).trans last
      refine ⟨_, _, run, whole.mem.trans first.mem, whole.tiles.trans tiles, stays, ?_, ?_, rfl, ?_, ?_, ?_, ?_⟩
      · rw [← command]
      · rw [← command]
      · rw [← later]
        exact ends.trans (congrArg Matrix.arrayEnd held)
      · rw [← command]
        exact (List.length_map _).trans List.length_range
      · rw [← first.cycle]
        exact (holds.trans last).mem_agenda sent
      · rw [← command]
        intro i y hy
        have at_ : (readRowsOf (s.nib n).matrix.tiles[x] a)[i]? = some y := hy
        rw [readRowsOf, List.getElem?_map] at at_
        obtain ⟨z, place, rfl⟩ := Option.map_eq_some_iff.1 at_
        obtain ⟨-, rfl⟩ := List.getElem?_eq_some_iff.1 place
        rw [List.getElem_range]
        exact ⟨rfl, rfl, rfl, rfl, rfl⟩
    · obtain ⟨e, later, serve⟩ := serve_mwld (s := u) (n := n) kind
      have matrix : ((({ u.modMatrix n (Matrix.loadsBank c b) with fresh := u.fresh + 1 } : State).schedule e
          (.weightLoadComplete n)).nib n).matrix = Matrix.loadsBank c b (Matrix.rest r (s.nib n).matrix) := by
        rw [← rest]
        exact matrix_modMatrix u n (Matrix.loadsBank c b)
      subst last
      rw [serve, dispatchQueue_nil (by rw [matrix]; rfl)] at run
      refine ⟨_, e, run, first.mem, matrix, ?_, ?_⟩
      · rw [← events]
        rfl
      · rw [← first.cycle]
        exact later

/-! ## Stops -/

/-- The engine after a command has stopped. -/
def Matrix.stops (c : MCmd) (m : Matrix) : Matrix :=
  { m with
    array := m.array.filter (·.id != c.id)
    arrayEnd := if m.array.any (·.id == c.id) then 0 else m.arrayEnd
    loader := m.loader.filter (·.id != c.id)
    draining := m.draining.filter (·.id != c.id)
    stopped := m.stopped ++ [{ c with grp := { c.grp with loading := false } }] }

/-- The context with a word in `mfault`. -/
def Ctx.faulted (w : Word) (c : Ctx) : Ctx := { c with c := { c.c with mfault := w } }

theorem addCause_perm (c : Ctx) (x : Cause) : (c.addCause x).causes.Perm (c.causes ++ [x]) := by
  refine List.perm_middle.trans ?_
  rw [List.takeWhile_append_dropWhile]
  exact (List.perm_append_singleton x c.causes).symm

theorem mfault_faulted (w : Word) (c : Ctx) (x : Cause) : ((Ctx.faulted w c).addCause x).c.mfault = w := rfl

theorem causes_faulted (w : Word) (c : Ctx) (x : Cause) : ((Ctx.faulted w c).addCause x).causes.Perm (c.causes ++ [x]) :=
  addCause_perm (Ctx.faulted w c) x

section
variable {s : State} {n : NibId} {c : MCmd} {k : Fin 8}

theorem matrixStop_run (room : s.stopFull n c.cid = false) (kind : Nat) (cause : BitVec 8) (va : Word) (again : Instr) :
    s.matrixStop n c kind cause va again = (fun w : State => (w.deliver n c.cid causeMOPFAULT va).schedule w.cycle (.matrixDispatch n))
      ((s.modMatrix n (Matrix.stops c)).modCid n c.cid (Ctx.faulted (State.mfaultWord c kind cause true))) := by
  have closed : ¬ s.stopFull n c.cid = true := by rw [room]; exact Bool.false_ne_true
  rw [State.matrixStop]
  exact if_neg closed

/-- The state after a context has a word in `mfault` and a cause. -/
def State.causes (s : State) (n : NibId) (k : Fin 8) (w : Word) (x : Cause) : State :=
  (s.modCtxAt n k (Ctx.faulted w)).modCtxAt n k (·.addCause x)

theorem deliver_faulted {cid : Nat} (res : s.Resides n cid k) (w : Word) (code : BitVec 8) (va : Word) :
    (s.modCid n cid (Ctx.faulted w)).deliver n cid code va = s.causes n k w ⟨code, va, s.cycle, s.cycle + 8⟩ ∧
      (s.modCid n cid (Ctx.faulted w)).cycle = s.cycle := by
  have second := resides_modCtxAt res (f := Ctx.faulted w) fun _ => rfl
  rw [modCid_of_resident res.1 res.2]
  refine ⟨?_, rfl⟩
  rw [State.deliver, modCid_of_resident second.1 second.2]
  rfl

theorem matrixStop_eq (room : s.stopFull n c.cid = false) (res : s.Resides n c.cid k) (kind : Nat) (cause : BitVec 8) (va : Word)
    (again : Instr) : s.matrixStop n c kind cause va again =
      ((s.modMatrix n (Matrix.stops c)).causes n k (State.mfaultWord c kind cause true) ⟨0x11, va, s.cycle, s.cycle + 8⟩).schedule s.cycle
        (.matrixDispatch n) := by
  have first : (s.modMatrix n (Matrix.stops c)).Resides n c.cid k := resides_of_strokes (fun j i => stroke_modMatrix s n j i _) res
  obtain ⟨delivered, cycle⟩ := deliver_faulted first (State.mfaultWord c kind cause true) causeMOPFAULT va
  rw [matrixStop_run room]
  dsimp only
  rw [delivered, cycle]
  rfl

theorem causes_frame (s : State) (n : NibId) (k : Fin 8) (w : Word) (x : Cause) :
    ((s.causes n k w x).nib n).matrix = (s.nib n).matrix ∧ (s.causes n k w x).mem = s.mem ∧
      ((s.causes n k w x).stroke n k).ctx = (Ctx.faulted w (s.stroke n k).ctx).addCause x := by
  refine ⟨?_, rfl, ?_⟩
  · exact (matrix_modCtxAt (s.modCtxAt n k (Ctx.faulted w)) n k (·.addCause x)).trans (matrix_modCtxAt s n k (Ctx.faulted w))
  · refine (ctx_modCtxAt_same (s.modCtxAt n k (Ctx.faulted w)) n k (·.addCause x)).trans ?_
    rw [ctx_modCtxAt_same]

theorem schedule_frame (s : State) (e : Nat) (i : Instr) (n : NibId) (k : Fin 8) :
    ((s.schedule e i).nib n).matrix = (s.nib n).matrix ∧ (s.schedule e i).mem = s.mem ∧ (s.schedule e i).stroke n k = s.stroke n k :=
  ⟨rfl, rfl, rfl⟩

/-- What a stop leaves of the engine, the memory and the context of the command. -/
theorem matrixStop_frame (room : s.stopFull n c.cid = false) (res : s.Resides n c.cid k) (kind : Nat) (cause : BitVec 8) (va : Word)
    (again : Instr) :
    ((s.matrixStop n c kind cause va again).nib n).matrix = Matrix.stops c (s.nib n).matrix ∧
    (s.matrixStop n c kind cause va again).mem = s.mem ∧
    ((s.matrixStop n c kind cause va again).stroke n k).ctx =
      (Ctx.faulted (State.mfaultWord c kind cause true) (s.stroke n k).ctx).addCause ⟨0x11, va, s.cycle, s.cycle + 8⟩ := by
  rw [matrixStop_eq room res]
  obtain ⟨matrix, mem, ctx⟩ := causes_frame (s.modMatrix n (Matrix.stops c)) n k (State.mfaultWord c kind cause true)
    ⟨0x11, va, s.cycle, s.cycle + 8⟩
  rw [matrix_modMatrix] at matrix
  rw [stroke_modMatrix] at ctx
  obtain ⟨matrix', mem', stroke⟩ := schedule_frame ((s.modMatrix n (Matrix.stops c)).causes n k (State.mfaultWord c kind cause true)
    ⟨0x11, va, s.cycle, s.cycle + 8⟩) s.cycle (.matrixDispatch n) n k
  exact ⟨matrix'.trans matrix, mem'.trans mem, (congrArg Stroke.ctx stroke).trans ctx⟩

end

/-- The fields of `mfault` (R243). -/
theorem mfaultWord_fields (c : MCmd) (kind : Nat) (small : kind < 16) (cause : BitVec 8) (stopped : Bool) :
    let f := State.mfaultWord c kind cause stopped
    f.extractLsb' 55 4 = BitVec.ofNat 4 kind ∧ f.extractLsb' 51 4 = BitVec.ofNat 4 c.sl.val ∧
      f.extractLsb' 35 16 = BitVec.ofNat 16 (min c.tiles 0xFFFF) ∧ f.extractLsb' 1 34 = 0 ∧ f.getLsbD 0 = stopped := by
  intro f
  obtain ⟨a, b, d, x, word, ha, hb, hd, hx⟩ : ∃ a b d x : Nat, f.toNat = a * 2 ^ 59 + kind * 2 ^ 55 + b * 2 ^ 51 + d * 2 ^ 35 + x ∧
      a < 32 ∧ b = c.sl.val ∧ d = min c.tiles 0xFFFF ∧ x = stopped.toNat := by
    refine ⟨cause.toNat % 32, c.sl.val, min c.tiles 0xFFFF, stopped.toNat, ?_, Nat.mod_lt _ (by decide), rfl, rfl, rfl⟩
    have slot := c.sl.isLt
    have bit := stopped.toNat_le
    have code := Nat.mod_lt cause.toNat (by decide : 0 < 32)
    refine (BitVec.toNat_ofNat _ _).trans (Nat.mod_eq_of_lt ?_)
    generalize cause.toNat % 32 = a at code
    generalize c.sl.val = b at slot
    generalize stopped.toNat = y at bit
    omega
  have slot : b < 16 := by rw [hb]; exact c.sl.isLt
  have bit : x ≤ 1 := by rw [hx]; exact stopped.toNat_le
  have tiles : d < 65536 := by omega
  refine ⟨?_, ?_, ?_, ?_, ?_⟩
  · refine BitVec.eq_of_toNat_eq ?_
    rw [BitVec.extractLsb'_toNat, Nat.shiftRight_eq_div_pow, BitVec.toNat_ofNat, word]
    omega
  · refine BitVec.eq_of_toNat_eq ?_
    rw [BitVec.extractLsb'_toNat, Nat.shiftRight_eq_div_pow, BitVec.toNat_ofNat, word, ← hb]
    omega
  · refine BitVec.eq_of_toNat_eq ?_
    rw [BitVec.extractLsb'_toNat, Nat.shiftRight_eq_div_pow, BitVec.toNat_ofNat, word, ← hd]
    omega
  · refine BitVec.eq_of_toNat_eq ?_
    rw [BitVec.extractLsb'_toNat, Nat.shiftRight_eq_div_pow, word]
    show _ = 0
    omega
  · rw [← BitVec.testBit_toNat, Nat.testBit_zero, word, hx]
    cases stopped <;> simp <;> omega

/-! ## The operands of a slab -/

section
variable {s u : State} {n : NibId} {c d : MCmd} {asrc afwd : Fin 4}

/-- The command with its clocks. -/
def MCmd.clocked (c : MCmd) (x y : Clk) : MCmd := { c with lc := x, tmax := y }

theorem engLoad_stamps (s : State) (n : NibId) (rs : List Range) (lc : Clk) (x : Nat) :
    ∃ st, (s.engLoad n rs lc x).2.2 = { s with stamps := st } := by
  induction rs generalizing s lc x with
  | nil => exact ⟨s.stamps, rfl⟩
  | cons r rs ih =>
    obtain ⟨st, h⟩ := ih (s.readStamp r.pa lc (s.leaseOf n r)).2 (s.readStamp r.pa lc (s.leaseOf n r)).1
      (x + Memory.read s.mem r.pa r.size * 2 ^ (8 * r.at_))
    exact ⟨st, h⟩

theorem mread_stamps {va : Word} {size kind x : Nat} {again : Instr} (read : s.mread n c va size kind again = (some (x, d), u)) :
    (∃ st, u = { s with stamps := st }) ∧ ∃ a b, d = c.clocked a b := by
  rw [State.mread] at read
  split at read
  · exact absurd (congrArg Prod.fst read) (Option.some_ne_none _).symm
  · next rs _ =>
    have found := Option.some.inj (congrArg Prod.fst read)
    obtain ⟨st, stands⟩ := engLoad_stamps s n rs c.lc 0
    exact ⟨⟨st, (congrArg Prod.snd read).symm.trans stands⟩, _, _, (congrArg Prod.snd found).symm⟩

theorem mreads_stamps {size kind : Nat} {again : Instr} {items : List (Nat × Word)} {acc rows : List (Nat × Nat)}
    (read : s.mreads n size kind again items c acc = (some (rows, d), u)) :
    (∃ st, u = { s with stamps := st }) ∧ ∃ a b, d = c.clocked a b := by
  induction items generalizing s c acc with
  | nil =>
    have found := Option.some.inj (congrArg Prod.fst read)
    exact ⟨⟨s.stamps, (congrArg Prod.snd read).symm⟩, c.lc, c.tmax, (congrArg Prod.snd found).symm⟩
  | cons item items ih =>
    obtain ⟨m, va⟩ := item
    rw [State.mreads] at read
    split at read
    · exact absurd (congrArg Prod.fst read) (Option.some_ne_none _).symm
    · next x e v first =>
      obtain ⟨⟨st, rfl⟩, a, b, rfl⟩ := mread_stamps first
      obtain ⟨⟨st', rfl⟩, a', b', rfl⟩ := ih read
      exact ⟨⟨st', rfl⟩, a', b', rfl⟩

/-- The engine with a tile of its own. -/
def Matrix.writesTile (x : Fin 8) (y : BitVec 32768) (m : Matrix) : Matrix := { m with tiles := m.tiles.set x y }

/-- The command at a slab whose tile is `base`. -/
def MCmd.onTile (c : MCmd) (base : BitVec 32768) : MCmd :=
  if c.newTile then { c with start := base, tileSlabs := 0, newTile := false } else c

theorem onTile_cases (c : MCmd) (base : BitVec 32768) :
    c.onTile base = c ∨ c.onTile base = { c with start := base, tileSlabs := 0, newTile := false } := by
  rw [MCmd.onTile]
  split
  · exact Or.inr rfl
  · exact Or.inl rfl

/-- The slab of `c` with its operands. -/
def State.slabOf (s : State) (n : NibId) (c : MCmd) (base : BitVec 32768) (rows : List (Nat × Nat)) (off : Nat) : State :=
  let r := slabTile c.afmt c.bfmt base rows (s.bImages n c off)
  (s.modMatrix n (Matrix.writesTile c.acc r.1)).holdArray n { c with ev := c.ev ||| r.2, tileSlabs := c.tileSlabs + 1 }
    (32 * stepCycles c.bfmt * 16 * 720720 / s.modu.capk.toNat)

theorem beginSlab_eq (s : State) (n : NibId) (c : MCmd) (rows : List (Nat × Nat)) (off : Nat) {base : BitVec 32768}
    (h : base = if (c.newTile && !c.keep) = true then 0 else (s.nib n).matrix.tiles[c.acc]) :
    s.beginSlab n c rows off = s.slabOf n (c.onTile base) base rows off := by
  rw [h, State.beginSlab, State.slabOf]
  generalize slabTile = f
  rfl

/-- A slab that begins: its tile takes its result, and it holds the array. -/
theorem beginSlab_holds (s : State) (n : NibId) (c : MCmd) (rows : List (Nat × Nat)) (off : Nat) : ∃ d,
    s.beginSlab n c rows off = (s.modMatrix n (Matrix.writesTile c.acc (slabTile c.afmt c.bfmt
      (if c.newTile = true ∧ c.keep = false then 0 else (s.nib n).matrix.tiles[c.acc]) rows (s.bImages n c off)).1)).holdArray n d
        (32 * stepCycles c.bfmt * 16 * 720720 / s.modu.capk.toNat) ∧
      d.id = c.id ∧ d.slab = c.slab ∧ d.rows = c.rows ∧ d.grp = c.grp := by
  have base : (if c.newTile = true ∧ c.keep = false then 0 else (s.nib n).matrix.tiles[c.acc]) =
      if (c.newTile && !c.keep) = true then 0 else (s.nib n).matrix.tiles[c.acc] :=
    if_congr (by rw [Bool.and_eq_true, Bool.not_eq_true']) rfl rfl
  rw [beginSlab_eq s n c rows off base]
  generalize (if c.newTile = true ∧ c.keep = false then 0 else (s.nib n).matrix.tiles[c.acc]) = x
  simp only [State.slabOf]
  generalize slabTile = f
  rcases onTile_cases c x with same | fresh
  · rw [same]
    exact ⟨_, rfl, rfl, rfl, rfl, rfl⟩
  · rw [fresh]
    exact ⟨_, rfl, rfl, rfl, rfl, rfl⟩

/-- The slab of `c` with A rows `rows` has begun in `t` (R223, R231). -/
def SlabBegun (s : State) (n : NibId) (c : MCmd) (off : Nat) (t : State) (rows : List (Nat × Nat)) : Prop :=
  (t.nib n).matrix.tiles = (s.nib n).matrix.tiles.set c.acc (slabTile c.afmt c.bfmt
      (if c.newTile = true ∧ c.keep = false then 0 else (s.nib n).matrix.tiles[c.acc]) rows (s.bImages n c off)).1 ∧
    (t.nib n).matrix.banks = (s.nib n).matrix.banks ∧ t.mem = s.mem ∧ (∀ j k, t.stroke j k = s.stroke j k) ∧
    ∃ d, (t.nib n).matrix.array = some d ∧ d.id = c.id ∧ d.running = true ∧ d.slab = c.slab ∧ d.rows = c.rows ∧ d.grp = c.grp ∧
      (t.nib n).matrix.arrayEnd = s.arrayNow n + 32 * stepCycles c.bfmt * 16 * 720720 / s.modu.capk.toNat

/-- What a slab begins with: the tiles, the banks and the end of the array as they stood. -/
structure SlabReady (n : NibId) (s u : State) : Prop where
  tiles : (u.nib n).matrix.tiles = (s.nib n).matrix.tiles
  banks : (u.nib n).matrix.banks = (s.nib n).matrix.banks
  ends : (u.nib n).matrix.arrayEnd = (s.nib n).matrix.arrayEnd
  cycle : u.cycle = s.cycle
  mem : u.mem = s.mem
  strokes : ∀ j k, u.stroke j k = s.stroke j k
  modu : u.modu = s.modu

theorem bImages_congr (banks : (u.nib n).matrix.banks = (s.nib n).matrix.banks) (c : MCmd) (off : Nat) :
    u.bImages n c off = s.bImages n c off := by
  simp only [State.bImages, State.matrix, banks]

theorem slabBegun_of_ready (ready : SlabReady n s u) (c : MCmd) (rows : List (Nat × Nat)) (off : Nat) :
    SlabBegun s n c off (u.beginSlab n c rows off) rows := by
  obtain ⟨d, run, hid, hslab, hrows, hgrp⟩ := beginSlab_holds u n c rows off
  rw [run, SlabBegun, ready.tiles, bImages_congr ready.banks, ready.modu]
  generalize (slabTile c.afmt c.bfmt (if c.newTile = true ∧ c.keep = false then 0 else (s.nib n).matrix.tiles[c.acc]) rows
    (s.bImages n c off)).1 = y
  have wrote := matrix_modMatrix u n (Matrix.writesTile c.acc y)
  have strokes := fun j k => stroke_modMatrix u n j k (Matrix.writesTile c.acc y)
  have mem : (u.modMatrix n (Matrix.writesTile c.acc y)).mem = u.mem := rfl
  have now := arrayNow_congr (n := n) (s := s) (t := u.modMatrix n (Matrix.writesTile c.acc y)) (by rw [wrote]; exact ready.ends) ready.cycle
  generalize u.modMatrix n (Matrix.writesTile c.acc y) = v at wrote strokes mem now ⊢
  generalize 32 * stepCycles c.bfmt * 16 * 720720 / s.modu.capk.toNat = units
  have held := matrix_holdArray v n d units
  have holds := engineRuns_holdArray v n d units
  refine ⟨?_, ?_, holds.mem.trans (mem.trans ready.mem), fun j k => (holds.strokes j k).trans ((strokes j k).trans (ready.strokes j k)),
    _, congrArg Matrix.array held, hid, rfl, hslab, hrows, hgrp, ?_⟩
  · have tiles := congrArg Matrix.tiles wrote
    rw [held, ← ready.tiles]
    exact tiles
  · have banks := congrArg Matrix.banks wrote
    rw [held, ← ready.banks]
    exact banks
  · rw [held, ← now]
    rfl

/-- A slab that begins leaves the streams and the operations. -/
theorem beginSlab_leaves (s : State) (n : NibId) (c : MCmd) (rows : List (Nat × Nat)) (off : Nat) :
    ((s.beginSlab n c rows off).nib n).matrix.fromWest = (s.nib n).matrix.fromWest ∧
      ((s.beginSlab n c rows off).nib n).matrix.fromNorth = (s.nib n).matrix.fromNorth ∧ (s.beginSlab n c rows off).ops = s.ops := by
  obtain ⟨d, run, -⟩ := beginSlab_holds s n c rows off
  rw [run]
  generalize (slabTile c.afmt c.bfmt (if c.newTile = true ∧ c.keep = false then 0 else (s.nib n).matrix.tiles[c.acc]) rows
    (s.bImages n c off)).1 = y
  rw [matrix_holdArray, matrix_modMatrix]
  exact ⟨rfl, rfl, rfl⟩

theorem SlabReady.trans {v : State} (h : SlabReady n s u) (g : SlabReady n u v) : SlabReady n s v :=
  ⟨g.tiles.trans h.tiles, g.banks.trans h.banks, g.ends.trans h.ends, g.cycle.trans h.cycle, g.mem.trans h.mem,
    fun j k => (g.strokes j k).trans (h.strokes j k), g.modu.trans h.modu⟩

/-! ## Panels -/

/-- The engine without a panel of its stream. -/
def Matrix.takesPanel (asrc : Fin 4) (r : List (Fin 8 × Nat)) (m : Matrix) : Matrix :=
  if asrc = 1 then { m with fromWest := r } else { m with fromNorth := r }

theorem takePanel_found {pre post : List (Fin 8 × Nat)} {x : Nat}
    (stream : (if asrc = 1 then (s.nib n).matrix.fromWest else (s.nib n).matrix.fromNorth) = pre ++ (c.stroke, x) :: post)
    (first : ∀ y ∈ pre, y.1 ≠ c.stroke) : s.takePanel n c asrc = some (x, s.modMatrix n (Matrix.takesPanel asrc (pre ++ post))) := by
  have taken : takeFirst (fun y : Fin 8 × Nat => y.1 == c.stroke) (pre ++ (c.stroke, x) :: post) = some ((c.stroke, x), pre ++ post) :=
    takeFirst_cut (fun y hy => beq_eq_false_iff_ne.2 (first y hy)) (beq_self_eq_true _)
  rw [← stream] at taken
  have found : takeFirst (fun y : Fin 8 × Nat => y.1 == c.stroke) (if asrc = 1 then (s.matrix n).fromWest else (s.matrix n).fromNorth) =
    some ((c.stroke, x), pre ++ post) := taken
  rw [State.takePanel]
  simp only [found]
  rfl

theorem takePanel_none (gone : ∀ y ∈ (if asrc = 1 then (s.nib n).matrix.fromWest else (s.nib n).matrix.fromNorth), y.1 ≠ c.stroke) :
    s.takePanel n c asrc = none := by
  have missing : takeFirst (fun y : Fin 8 × Nat => y.1 == c.stroke) (if asrc = 1 then (s.matrix n).fromWest else (s.matrix n).fromNorth) =
    Option.none := takeFirst_eq_none fun y hy => beq_eq_false_iff_ne.2 (gone y hy)
  rw [State.takePanel]
  simp only [missing]

theorem slabReady_takesPanel (s : State) (n : NibId) (asrc : Fin 4) (r : List (Fin 8 × Nat)) :
    SlabReady n s (s.modMatrix n (Matrix.takesPanel asrc r)) := by
  have same := matrix_modMatrix s n (Matrix.takesPanel asrc r)
  have keeps : ∀ m : Matrix, (Matrix.takesPanel asrc r m).tiles = m.tiles ∧ (Matrix.takesPanel asrc r m).banks = m.banks ∧
      (Matrix.takesPanel asrc r m).arrayEnd = m.arrayEnd := fun m => by
    rw [Matrix.takesPanel]
    split <;> exact ⟨rfl, rfl, rfl⟩
  obtain ⟨tiles, banks, ends⟩ := keeps (s.nib n).matrix
  exact ⟨by rw [same, tiles], by rw [same, banks], by rw [same, ends], rfl, rfl, fun j k => stroke_modMatrix s n j k _, rfl⟩

theorem forwardPanel_none (s : State) (n : NibId) (c : MCmd) (x : Nat) : s.forwardPanel n c 0 x = s := if_pos rfl

/-- A panel that is relayed is on its way to the neighbour (R242). -/
theorem forwardPanel_sends (x : Nat) {m : NibId} (relay : afwd ≠ 0) (next : s.neighbour n (if afwd = 1 then 1 else 2) = some m) :
    SlabReady n s (s.forwardPanel n c afwd x) ∧
      ∃ o, (s.forwardPanel n c afwd x).ops = s.ops ++ [o] ∧ o.kind = .panel m (if afwd = 1 then 0 else 1) c.stroke x := by
  obtain ⟨e, -, free⟩ := freeCycle_none s.newId.2 (s.newId.2.cycle + 1)
  have run : s.forwardPanel n c afwd x = (fun y : Nat × State =>
      ({ y.2 with ops := y.2.ops ++ [⟨s.nextId, n, c.cid, c.seq, 0, .panel m (if afwd = 1 then 0 else 1) c.stroke x, c.stroke, y.1, false, false, c.lc,
        c.lc, none⟩] } : State).schedule y.1 (.chainPanelArrival m (if afwd = 1 then 0 else 1) s.nextId))
      (s.newId.2.freeCycle (s.newId.2.cycle + 1) none) := by
    rw [State.forwardPanel, if_neg relay, next]
    rfl
  rw [run, free]
  exact ⟨⟨rfl, rfl, rfl, rfl, rfl, fun _ _ => rfl, rfl⟩, _, rfl, rfl⟩

end

/-! ## Slabs begin -/

section
variable {s : State} {n : NibId} {c : MCmd}

theorem startSlab_nest {asrc afwd : Fin 4} (array : (s.nib n).matrix.array = some c) (idle : c.running = false) (ready : c.grp.loading = false)
    (free : s.cmdParked c.id = false) (kind : c.kind = .mgo asrc afwd) : s.startSlab n = s.nextNest n c asrc afwd := by
  have at_ : (s.matrix n).array = some c := array
  rw [State.startSlab, at_]
  simp only [idle, ready, free, kind]
  rfl

theorem slabEnd_starts (array : (s.nib n).matrix.array = some c) (idle : c.running = false) :
    exec (.slabEnd n) s = .next (s.startSlab n) := by
  have at_ : (s.matrix n).array = some c := array
  show execSlabEnd n s = _
  rw [execSlabEnd, at_]
  simp only [idle]
  rfl

theorem bankBad_iff (s : State) (n : NibId) (c : MCmd) (off : Int) : s.bankBad n c off = true ↔ ((s.nib n).matrix.banks[c.bank]).valid = false ∨
    off < 0 ∨ (((s.nib n).matrix.banks[c.bank]).len : Int) < off + c.cols * imgSize c.bfmt := by
  simp only [State.bankBad, State.matrix, Bool.or_eq_true, Bool.not_eq_true', decide_eq_true_eq, or_assoc]
  exact or_congr Iff.rfl (or_congr Iff.rfl decide_eq_true_iff)

/-- A command whose bank is bad stops with KIND 6 (R225, R244). -/
theorem bankStop_frame {k : Fin 8} (room : s.stopFull n c.cid = false) (res : s.Resides n c.cid k) (off : Int) : ∃ cause : BitVec 8,
    ((s.bankStop n c off).nib n).matrix = Matrix.stops c (s.nib n).matrix ∧ (s.bankStop n c off).mem = s.mem ∧
    ((s.bankStop n c off).stroke n k).ctx =
      (Ctx.faulted (State.mfaultWord c 6 cause true) (s.stroke n k).ctx).addCause ⟨0x11, BitVec.ofInt 64 off, s.cycle, s.cycle + 8⟩ :=
  ⟨_, matrixStop_frame (s := s.freshNum.2) room res 6 _ (BitVec.ofInt 64 off) (.slabEnd n)⟩

end

/-- The slab of an `mgo` that has begun, whatever the clocks of its command. -/
theorem result_of_begun {s t : State} {n : NibId} {c : MCmd} {a b : Clk} {rows : List (Nat × Nat)}
    (h : SlabBegun s n (c.clocked a b) (c.bOff c.slab).toNat t rows) :
    (t.nib n).matrix.tiles = (s.nib n).matrix.tiles.set c.acc (slabResult s n c rows) ∧
      (t.nib n).matrix.banks = (s.nib n).matrix.banks ∧ t.mem = s.mem ∧ (∀ j k, t.stroke j k = s.stroke j k) ∧
      ∃ d, (t.nib n).matrix.array = some d ∧ d.id = c.id ∧ d.running = true ∧ d.slab = c.slab ∧ d.rows = c.rows ∧
        (t.nib n).matrix.arrayEnd = s.arrayNow n + 32 * stepCycles c.bfmt * 16 * 720720 / s.modu.capk.toNat := by
  rw [slabResult]
  rw [SlabBegun] at h
  generalize slabTile = f at h ⊢
  obtain ⟨tiles, banks, mem, strokes, d, holds, hid, hrun, hslab, hrows, -, ends⟩ := h
  exact ⟨tiles, banks, mem, strokes, d, holds, hid, hrun, hslab, hrows, ends⟩

/-- The A images of the active rows in a panel. -/
def MCmd.panelRows (c : MCmd) (x : Nat) : List (Nat × Nat) :=
  (c.active (c.field 54)).map (fun m => (m, x / 2 ^ (8 * imgSize c.afmt * m) % 2 ^ (8 * imgSize c.afmt)))

theorem slabsBegin : Claims.SlabsBegin := by
  rintro s n c asrc afwd off z array idle ready free kind rfl rfl
  intro bank bad begins
  have run := (slabEnd_starts array idle).trans (congrArg Host.Outcome.next (startSlab_nest array idle ready free kind))
  have wrong : s.bankBad n c (c.bOff c.slab) = true ↔ bad := bankBad_iff s n c _
  rw [State.nextNest] at run
  have good : ¬ bad → _ := fun ok => run.trans (congrArg Host.Outcome.next (if_neg fun e => ok (wrong.1 e)))
  refine ⟨?_, ?_, ?_, ?_, ?_, ?_⟩
  · rintro ok rfl rfl rows d u read
    have run := (good ok).trans (congrArg Host.Outcome.next (if_pos rfl))
    rw [read] at run
    obtain ⟨⟨st, rfl⟩, a, b, rfl⟩ := mreads_stamps read
    have stamps : SlabReady n s { s with stamps := st } := ⟨rfl, rfl, rfl, rfl, rfl, fun _ _ => rfl, rfl⟩
    exact ⟨_, run, result_of_begun (slabBegun_of_ready stamps (c.clocked a b) rows (c.bOff c.slab).toNat)⟩
  · rintro ok rfl rfl pre x post stream first
    have run := (good ok).trans (congrArg Host.Outcome.next (if_neg (by decide)))
    rw [takePanel_found (asrc := 1) stream first] at run
    have run : exec (.slabEnd n) s = .next (((s.modMatrix n (Matrix.takesPanel 1 (pre ++ post))).forwardPanel n c 0 x).beginSlab n c (c.panelRows x)
      (c.bOff c.slab).toNat) := run
    rw [forwardPanel_none] at run
    obtain ⟨west, -, -⟩ := beginSlab_leaves (s.modMatrix n (Matrix.takesPanel 1 (pre ++ post))) n c (c.panelRows x)
      (c.bOff c.slab).toNat
    refine ⟨_, run, west.trans ?_, result_of_begun (a := c.lc) (b := c.tmax)
      (slabBegun_of_ready (slabReady_takesPanel s n 1 (pre ++ post)) c (c.panelRows x) _)⟩
    rw [matrix_modMatrix]
    rfl
  · rintro ok rfl rfl pre x post stream first
    have run := (good ok).trans (congrArg Host.Outcome.next (if_neg (by decide)))
    rw [takePanel_found (asrc := 2) stream first] at run
    have run : exec (.slabEnd n) s = .next (((s.modMatrix n (Matrix.takesPanel 2 (pre ++ post))).forwardPanel n c 0 x).beginSlab n c (c.panelRows x)
      (c.bOff c.slab).toNat) := run
    rw [forwardPanel_none] at run
    obtain ⟨-, north, -⟩ := beginSlab_leaves (s.modMatrix n (Matrix.takesPanel 2 (pre ++ post))) n c (c.panelRows x)
      (c.bOff c.slab).toNat
    refine ⟨_, run, north.trans ?_, result_of_begun (a := c.lc) (b := c.tmax)
      (slabBegun_of_ready (slabReady_takesPanel s n 2 (pre ++ post)) c (c.panelRows x) _)⟩
    rw [matrix_modMatrix]
    rfl
  · rintro ok rfl relay pre x post m stream first next -
    have run := (good ok).trans (congrArg Host.Outcome.next (if_neg (by decide)))
    rw [takePanel_found (asrc := 1) stream first] at run
    have taken := slabReady_takesPanel s n 1 (pre ++ post)
    have route : (s.modMatrix n (Matrix.takesPanel 1 (pre ++ post))).neighbour n (if afwd = 1 then 1 else 2) = some m := next
    have ops : (s.modMatrix n (Matrix.takesPanel 1 (pre ++ post))).ops = s.ops := rfl
    generalize s.modMatrix n (Matrix.takesPanel 1 (pre ++ post)) = u at run taken route ops
    obtain ⟨sent, o, sends, panel⟩ := forwardPanel_sends (c := c) x
      (show afwd ≠ 0 by rcases relay with rfl | rfl <;> decide) route
    obtain ⟨-, -, same⟩ := beginSlab_leaves (u.forwardPanel n c afwd x) n c (c.panelRows x) (c.bOff c.slab).toNat
    exact ⟨_, o, run, result_of_begun (a := c.lc) (b := c.tmax) (slabBegun_of_ready (taken.trans sent) c (c.panelRows x) _),
      same.trans (sends.trans (by rw [ops])), panel⟩
  · intro ok chained none
    have chain : ¬ asrc = 0 := by rcases chained with rfl | rfl <;> decide
    have run := (good ok).trans (congrArg Host.Outcome.next (if_neg chain))
    rw [takePanel_none none] at run
    exact run
  · intro hbad room k res
    have run := run.trans (congrArg Host.Outcome.next (if_pos (wrong.2 hbad)))
    obtain ⟨cause, matrix, mem, ctx⟩ := bankStop_frame room res (c.bOff c.slab)
    obtain ⟨kindField, slot, tiles, zero, stopped⟩ := mfaultWord_fields c 6 (by decide) cause true
    have word : ((s.bankStop n c (c.bOff c.slab)).stroke n k).ctx.c.mfault = State.mfaultWord c 6 cause true := by
      rw [ctx, mfault_faulted]
    have sameTiles := congrArg Matrix.tiles matrix
    have nowStopped := congrArg Matrix.stopped matrix
    refine ⟨_, run, ?_, sameTiles, mem, ⟨_, nowStopped, rfl⟩, ?_⟩
    · rw [matrix]
      show Option.filter _ (s.nib n).matrix.array = none
      rw [array, Option.filter, bne_self_eq_false]
      rfl
    · rw [word, ctx]
      exact ⟨kindField, slot, tiles, zero, stopped, causes_faulted _ _ _⟩

/-! ## Emits -/

/-- The command with the rows of an emit. -/
def MCmd.emitted (c : MCmd) (rs : List MRow) (e : Ev) : MCmd := { c with rows := c.rows ++ rs, ev := c.ev ||| e }

/-- The state with more events on its agenda. -/
def State.plans (s : State) (l : List (Nat × Instr)) : State := { s with agenda := s.agenda ++ l }

/-- The event of the first row write, where there were no rows before (R236). -/
def firstRows (cycle id : Nat) (old new : List MRow) : List (Nat × Instr) :=
  if old = [] ∧ new ≠ [] then [(cycle + 1, .matrixRowWrite id)] else []

theorem firstRows_append (cycle id : Nat) (old a b : List MRow) :
    firstRows cycle id old a ++ firstRows cycle id (old ++ a) b = firstRows cycle id old (a ++ b) := by
  cases old <;> cases a <;> simp [firstRows]

section
variable {s : State} {n : NibId} {c : MCmd}

theorem addRows_eq (s : State) (c : MCmd) (rs : List MRow) (e : Ev) :
    s.addRows c rs e (s.cycle + 1) = (c.emitted rs e, s.plans (firstRows s.cycle c.id c.rows rs)) := by
  rw [State.addRows]
  refine Prod.ext rfl ?_
  by_cases first : c.rows = [] ∧ rs ≠ []
  · have event : firstRows s.cycle c.id c.rows rs = [(s.cycle + 1, .matrixRowWrite c.id)] := if_pos first
    rw [event]
    exact if_pos (by rw [first.1, List.isEmpty_eq_false_iff.2 first.2]; rfl)
  · have event : firstRows s.cycle c.id c.rows rs = [] := if_neg first
    have stands : s.plans [] = s := by rw [State.plans, List.append_nil]
    rw [event, stands]
    refine if_neg fun h => first ?_
    rw [Bool.and_eq_true, Bool.not_eq_true', List.isEmpty_iff, List.isEmpty_eq_false_iff] at h
    exact h

theorem epiValue_congr {d : MCmd} (fmt : d.fmt = c.fmt) : epiValue d = epiValue c := by
  cases c
  cases d
  cases fmt
  rfl

theorem rowImage_congr {d : MCmd} (fmt : d.fmt = c.fmt) : rowImage d = rowImage c := by
  funext vs
  rw [rowImage, rowImage]
  generalize bfpPack = pack
  generalize Fmt.round = round
  generalize Fmt.value = value
  have out : d.out = c.out := by rw [MCmd.out, MCmd.out, fmt]
  have rtz : d.rtz = c.rtz := by rw [MCmd.rtz, MCmd.rtz, fmt]
  have sat : d.sat = c.sat := by rw [MCmd.sat, MCmd.sat, fmt]
  rw [out, rtz, sat]

/-- The image of a row depends on the format word and the shadow bank of its command alone. -/
theorem emitRow_congr {d : MCmd} (fmt : d.fmt = c.fmt) (snap : d.snap = c.snap) : emitRow d = emitRow c := by
  funext t m
  simp only [emitRow, rowImage_congr fmt, epiValue_congr fmt, MCmd.cols, MCmd.field, snap]

/-- A row of an emit, by its place and its image. -/
def rowAt (c : MCmd) (tile : BitVec 32768) (x : Nat × Word × Bool × Word) : MRow :=
  ⟨x.2.1, x.2.2.1, (emitRow c tile x.1).1, (emitRow c tile x.1).2.1, (emitRow c tile x.1).2.2.1, x.2.2.2, none, 0⟩

theorem emitRows_eq (c : MCmd) (tile : BitVec 32768) (l : List (Nat × Word × Bool × Word)) :
    State.emitRows c tile l = (l.map (rowAt c tile), l.foldl (fun e x => e ||| (emitRow c tile x.1).2.2.2) 0) := by
  have step : ∀ (l : List (Nat × Word × Bool × Word)) (rs : List MRow) (e : Ev),
      l.foldl (fun (acc : List MRow × Ev) (x : Nat × Word × Bool × Word) => (acc.1 ++ [rowAt c tile x], acc.2 ||| (emitRow c tile x.1).2.2.2)) (rs, e) =
        (rs ++ l.map (rowAt c tile), l.foldl (fun e x => e ||| (emitRow c tile x.1).2.2.2) e) := by
    intro l
    induction l with
    | nil => intro rs e; rw [List.map_nil, List.append_nil]; rfl
    | cons x l ih =>
      intro rs e
      rw [List.foldl_cons, ih, List.append_assoc]
      rfl
  have run : State.emitRows c tile l = l.foldl (fun (acc : List MRow × Ev) (x : Nat × Word × Bool × Word) =>
      (acc.1 ++ [rowAt c tile x], acc.2 ||| (emitRow c tile x.1).2.2.2)) ([], 0) := by
    rw [State.emitRows]
    simp only [rowAt]
  rw [run, step]
  rfl

/-- The events of the rows of an emit. -/
def rowEvents (c : MCmd) (tile : BitVec 32768) (l : List (Nat × Word × Bool × Word)) (e : Ev) : Ev :=
  l.foldl (fun e x => e ||| (emitRow c tile x.1).2.2.2) e

theorem rowEvents_eq (c : MCmd) (tile : BitVec 32768) (l : List (Nat × Word × Bool × Word)) (e : Ev) :
    rowEvents c tile l e = e ||| rowEvents c tile l 0 := by
  induction l generalizing e with
  | nil => exact (BitVec.or_zero).symm
  | cons x l ih =>
    have here : ∀ e, rowEvents c tile (x :: l) e = rowEvents c tile l (e ||| (emitRow c tile x.1).2.2.2) := fun _ => rfl
    have zero : ∀ e : Ev, 0 ||| e = e := fun _ => BitVec.zero_or
    rw [here, here, ih, ih (0 ||| _), zero, BitVec.or_assoc]

theorem rowEvents_append (c : MCmd) (tile : BitVec 32768) (l m : List (Nat × Word × Bool × Word)) :
    rowEvents c tile (l ++ m) 0 = rowEvents c tile l 0 ||| rowEvents c tile m 0 := by
  rw [← rowEvents_eq]
  exact List.foldl_append

theorem addRows_emits (s : State) (c : MCmd) (tile : BitVec 32768) (l : List (Nat × Word × Bool × Word)) :
    s.addRows c (State.emitRows c tile l).1 (State.emitRows c tile l).2 (s.cycle + 1) =
      (c.emitted (l.map (rowAt c tile)) (rowEvents c tile l 0),
        s.plans (firstRows s.cycle c.id c.rows (l.map (rowAt c tile)))) := by
  rw [addRows_eq, emitRows_eq]
  rfl

/-- The rows of an emit with C address `a` (R232, R233). -/
def levelRows (c : MCmd) (a : Word) : List (Nat × Word × Bool × Word) :=
  if c.field 58 = 2 then []
  else (c.active (c.field 54)).map (fun j =>
    (j, a + BitVec.ofNat 64 (if c.field 58 = 0 then j * c.field 59 else 16 * j), c.field 58 == 1, 0))

theorem emitNest_eq (dest : c.field 58 ≤ 2) (a : Word) : s.emitNest n c a =
    (c.emitted ((levelRows c a).map (rowAt c (s.nib n).matrix.tiles[c.acc])) (rowEvents c (s.nib n).matrix.tiles[c.acc] (levelRows c a) 0),
      s.plans (firstRows s.cycle c.id c.rows ((levelRows c a).map (rowAt c (s.nib n).matrix.tiles[c.acc])))) := by
  rw [← addRows_emits, State.emitNest, levelRows]
  obtain dest | dest | dest : c.field 58 = 0 ∨ c.field 58 = 1 ∨ c.field 58 = 2 := by omega
  all_goals
    simp only [dest]
    rfl

/-- The emits of the levels `ls` after slab `x`. -/
def nestRows (c : MCmd) (x : Nat) (ls : List Nat) : List (Nat × Word × Bool × Word) := ls.flatMap (fun l => levelRows c (c.cAddr x l))

theorem emits_eq (dest : c.field 58 ≤ 2) (x : Nat) (ls : List Nat) :
    ls.foldl (fun (acc : MCmd × State) l => acc.2.emitNest n acc.1 (acc.1.cAddr x l)) (c, s) =
      (c.emitted ((nestRows c x ls).map (rowAt c (s.nib n).matrix.tiles[c.acc]))
        (rowEvents c (s.nib n).matrix.tiles[c.acc] (nestRows c x ls) 0),
        s.plans (firstRows s.cycle c.id c.rows ((nestRows c x ls).map (rowAt c (s.nib n).matrix.tiles[c.acc])))) := by
  generalize tile_eq : (s.nib n).matrix.tiles[c.acc] = tile
  induction ls generalizing s c with
  | nil =>
    have event : firstRows s.cycle c.id c.rows [] = [] := if_neg fun h => h.2 rfl
    have rows : ∀ c : MCmd, c.emitted [] 0 = c := fun c => by
      rw [MCmd.emitted, List.append_nil, show c.ev ||| 0 = c.ev from BitVec.or_zero]
    refine Prod.ext (rows c).symm ?_
    show s = s.plans (firstRows s.cycle c.id c.rows [])
    rw [event, State.plans, List.append_nil]
  | cons l ls ih =>
    rw [List.foldl_cons]
    dsimp only
    rw [emitNest_eq dest, tile_eq]
    generalize rows_eq : (levelRows c (c.cAddr x l)).map (rowAt c tile) = rs
    generalize events_eq : rowEvents c tile (levelRows c (c.cAddr x l)) 0 = e
    have step := ih (s := s.plans (firstRows s.cycle c.id c.rows rs)) (c := c.emitted rs e) dest tile_eq
    rw [step]
    have image : emitRow (c.emitted rs e) = emitRow c := emitRow_congr rfl rfl
    have place : rowAt (c.emitted rs e) tile = rowAt c tile := by
      funext y
      simp only [rowAt, image]
    have events : ∀ l e', rowEvents (c.emitted rs e) tile l e' = rowEvents c tile l e' := fun l e' => by
      simp only [rowEvents, image]
    have nest : nestRows (c.emitted rs e) x ls = nestRows c x ls := rfl
    have all : nestRows c x (l :: ls) = levelRows c (c.cAddr x l) ++ nestRows c x ls := List.flatMap_cons
    rw [place, events, nest, all, List.map_append, rowEvents_append, rows_eq, events_eq]
    refine Prod.ext ?_ ?_
    · simp only [MCmd.emitted, List.append_assoc, BitVec.or_assoc]
    · rw [← firstRows_append]
      simp only [State.plans, List.append_assoc]
      rfl

end

/-! ## Slabs end -/

section
variable {s : State} {n : NibId} {c : MCmd}

theorem slabEnd_goesOn (array : (s.nib n).matrix.array = some c) (running : c.running = true)
    (busy : s.cycle * 720720 < (s.nib n).matrix.arrayEnd) : exec (.slabEnd n) s = .next s := by
  have at_ : (s.matrix n).array = some c := array
  have idle : s.cycle * State.matrixUnit < (s.matrix n).arrayEnd := by
    rw [show State.matrixUnit = 720720 from rfl]
    exact busy
  show execSlabEnd n s = _
  rw [execSlabEnd, at_]
  simp only [running, if_true]
  exact if_pos idle

theorem slabEnd_ends (array : (s.nib n).matrix.array = some c) (running : c.running = true)
    (late : (s.nib n).matrix.arrayEnd ≤ s.cycle * 720720) : exec (.slabEnd n) s = .next (match c.kind with
      | .mgo .. | .mgrp .. => s.slabEnds n c
      | _ => s.leaveArray n { c with running := false }) := by
  have at_ : (s.matrix n).array = some c := array
  have due : ¬ s.cycle * State.matrixUnit < (s.matrix n).arrayEnd := by
    rw [show State.matrixUnit = 720720 from rfl]
    exact Nat.not_lt.2 late
  have run : exec (.slabEnd n) s = match c.kind with
      | .mgo .. | .mgrp .. => .next (s.slabEnds n c)
      | _ => .next (s.leaveArray n { c with running := false }) := by
    show execSlabEnd n s = _
    rw [execSlabEnd, at_]
    simp only [running, if_true]
    exact if_neg due
  refine run.trans ?_
  cases c.kind <;> rfl

/-- The engine that a command has left. -/
def Matrix.left (c : MCmd) (m : Matrix) : Matrix :=
  { m with array := none, arrayEnd := 0
           draining := if c.posted then m.draining else m.draining ++ [{ c with done := true, running := false }] }

theorem leaveArray_eq (s : State) (n : NibId) (c : MCmd) : s.leaveArray n c =
    ((s.modMatrix n (Matrix.left c)).matrixSettle n c.id).schedule (s.modMatrix n (Matrix.left c)).cycle (.matrixDispatch n) := rfl

/-- A command leaves the array. -/
theorem leaveArray_frame (s : State) (n : NibId) (c : MCmd) : EngineRuns n s (s.leaveArray n c) ∧
    ((s.leaveArray n c).nib n).matrix.array = none ∧ (s.cycle, .matrixDispatch n) ∈ (s.leaveArray n c).agenda := by
  rw [leaveArray_eq]
  have left := matrix_modMatrix s n (Matrix.left c)
  have first := engineRuns_modMatrix s n (f := Matrix.left c) fun _ => rfl
  generalize s.modMatrix n (Matrix.left c) = u at left first ⊢
  have second := engineRuns_settle u n c.id
  obtain ⟨-, empty, -⟩ := array_settle u n c.id
  have cycle : u.cycle = s.cycle := first.cycle
  have array := empty (by rw [left]; rfl)
  generalize u.matrixSettle n c.id = v at second array ⊢
  rw [cycle]
  exact ⟨(first.trans second).trans (engineRuns_schedule ..), array, List.mem_append_right _ List.mem_cons_self⟩

/-- A command with rows left to write stays with the engine when it leaves the array. -/
theorem leaveArray_drains (waits : c.rows ≠ []) (open_ : c.posted = false) (alone : ∀ d ∈ (s.nib n).matrix.draining, d.id ≠ c.id) :
    ((s.leaveArray n c).nib n).matrix.draining = (s.nib n).matrix.draining ++ [{ c with done := true, running := false }] := by
  rw [leaveArray_eq]
  have left := matrix_modMatrix s n (Matrix.left c)
  generalize s.modMatrix n (Matrix.left c) = u at left ⊢
  have draining : (u.nib n).matrix.draining = (s.nib n).matrix.draining ++ [{ c with done := true, running := false }] := by
    rw [left]
    exact if_neg (by rw [open_]; exact Bool.false_ne_true)
  have array : (u.nib n).matrix.array = none := by rw [left]; rfl
  have found : (u.nib n).matrix.findCmd c.id = some { c with done := true, running := false } := by
    rw [Matrix.findCmd, array, draining]
    exact find?_cut (pre := (s.nib n).matrix.draining) (post := []) (fun d hd => beq_eq_false_iff_ne.2 (alone d hd)) (beq_self_eq_true _)
  rw [matrixSettle_waits found waits]
  exact draining

/-- The command once its slab has ended. -/
def MCmd.ended (c : MCmd) : MCmd := { c with rerun := 0, running := false, failed := 0 }

/-- The command at the slab after slab `x`, whose emits were those of the levels `ls` (R231). -/
def MCmd.slabAfter (c : MCmd) (x : Nat) (ls : List Nat) : MCmd :=
  { c with slab := x + 1, newTile := c.newTile || !ls.isEmpty, tiles := if ls.isEmpty then c.tiles else c.tiles + 1 }

theorem afterSlab_nest {y z : Fin 4} (kind : c.kind = .mgo y z) : s.afterSlab n c =
    (fun (e : MCmd) => (fun r : MCmd × State => if (r.1.slabAfter e.slab (e.emitLevels e.slab)).slab = (r.1.slabAfter e.slab (e.emitLevels e.slab)).total
      then r.2.leaveArray n (r.1.slabAfter e.slab (e.emitLevels e.slab))
      else (r.2.putArray n (r.1.slabAfter e.slab (e.emitLevels e.slab))).startSlab n)
      ((e.emitLevels e.slab).foldl (fun (acc : MCmd × State) l => acc.2.emitNest n acc.1 (acc.1.cAddr e.slab l)) (e, s)))
    { c with running := false, failed := 0 } := by
  rw [State.afterSlab]
  split
  · next list total kind' => exact absurd (kind.symm.trans kind') (by simp)
  · rfl

theorem slabEnds_nest {y z : Fin 4} (kind : c.kind = .mgo y z) (last : c.rerun ≤ 1) (unchecked : c.chk = false) (dest : c.field 58 ≤ 2)
    {rs : List MRow} {e : Ev} {ls : List Nat} {u : State} (levels : c.emitLevels c.slab = ls)
    (rows : (nestRows c c.slab ls).map (rowAt c (s.nib n).matrix.tiles[c.acc]) = rs)
    (events : rowEvents c (s.nib n).matrix.tiles[c.acc] (nestRows c c.slab ls) 0 = e)
    (after : s.plans (firstRows s.cycle c.id c.rows rs) = u) :
    s.slabEnds n c = if c.slab + 1 = c.total then u.leaveArray n ((c.ended.emitted rs e).slabAfter c.slab ls)
      else (u.putArray n ((c.ended.emitted rs e).slabAfter c.slab ls)).startSlab n := by
  have run : s.slabEnds n c = s.afterSlab n { c with rerun := 0 } := by
    rw [State.slabEnds, if_neg (Nat.not_lt.2 last)]
    exact if_neg (by
      rw [Bool.and_eq_true]
      intro h
      exact Bool.false_ne_true (unchecked.symm.trans h.1))
  have fold := emits_eq (s := s) (n := n) (c := c.ended) dest c.slab ls
  have image : rowAt c.ended = rowAt c := by
    funext t x
    simp only [rowAt, emitRow_congr (c := c) (d := c.ended) rfl rfl]
  have event : rowEvents c.ended = rowEvents c := by
    funext t l x
    simp only [rowEvents, emitRow_congr (c := c) (d := c.ended) rfl rfl]
  rw [image, event] at fold
  have rows' : (nestRows c.ended c.slab ls).map (rowAt c (s.nib n).matrix.tiles[c.ended.acc]) = rs := rows
  have events' : rowEvents c (s.nib n).matrix.tiles[c.ended.acc] (nestRows c.ended c.slab ls) 0 = e := events
  have after' : s.plans (firstRows s.cycle c.ended.id c.ended.rows rs) = u := after
  rw [rows', events', after'] at fold
  have levels' : MCmd.emitLevels c.ended c.slab = ls := levels
  have step := afterSlab_nest (s := s) (n := n) (c := { c with rerun := 0 }) kind
  rw [run, step]
  show (fun r : MCmd × State => if (r.1.slabAfter c.slab (MCmd.emitLevels c.ended c.slab)).slab =
      (r.1.slabAfter c.slab (MCmd.emitLevels c.ended c.slab)).total
    then r.2.leaveArray n (r.1.slabAfter c.slab (MCmd.emitLevels c.ended c.slab))
    else (r.2.putArray n (r.1.slabAfter c.slab (MCmd.emitLevels c.ended c.slab))).startSlab n)
      ((MCmd.emitLevels c.ended c.slab).foldl (fun (acc : MCmd × State) l => acc.2.emitNest n acc.1 (acc.1.cAddr c.slab l)) (c.ended, s)) = _
  rw [levels', fold]
  rfl

end

/-- The level index of slab x (R231). -/
theorem digit_eq (c : MCmd) (x l : Nat) : c.digit x l = x / (List.range l).foldl (fun p i => p * c.count i) 1 % c.count l := by
  cases l with
  | zero => exact congrArg (· % c.count 0) (Nat.div_one x).symm
  | succ l => rfl

theorem emitLevels_eq (c : MCmd) (x : Nat) : c.emitLevels x =
    (List.range 6).filter (fun l => c.field (Fin.ofNat 64 (8 * l + 4)) == 1 &&
      (List.range (l + 1)).all (fun i => x / (List.range i).foldl (fun p i => p * c.count i) 1 % c.count i + 1 == c.count i)) := by
  rw [MCmd.emitLevels]
  refine List.filter_congr fun l _ => ?_
  rw [Bool.and_comm]
  refine congrArg₂ and ?_ ?_
  · exact (Bool.beq_eq_decide_eq _ _).symm
  · rw [MCmd.completes]
    simp only [digit_eq]

theorem cAddr_eq (c : MCmd) (x l : Nat) : c.cAddr x l = BitVec.ofInt 64 (((List.range 6).filter (fun i => decide (l < i))).foldl
    (fun a i => a + (x / (List.range i).foldl (fun p i => p * c.count i) 1 % c.count i : Nat) * c.str i 3) c.cbase) := by
  rw [MCmd.cAddr]
  simp only [digit_eq]

section
variable (c : MCmd) (tile : BitVec 32768) (x : Nat) (ls : List Nat)

/-- The images of the rows of the emits of the levels `ls`. -/
def nestImages : List (Nat × Nat × Nat × Nat × Nat × Ev) :=
  if c.field 58 = 2 then [] else ls.flatMap (fun l => (c.active (c.field 54)).map (fun j => (l, j, emitRow c tile j)))

theorem map_nestImages {α : Type} (f : Nat × Nat × Nat × Nat × Nat × Ev → α) (g : Nat × Word × Bool × Word → α)
    (same : ∀ l j, f (l, j, emitRow c tile j) =
      g (j, c.cAddr x l + BitVec.ofNat 64 (if c.field 58 = 0 then j * c.field 59 else 16 * j), c.field 58 == 1, 0)) :
    (nestImages c tile ls).map f = (nestRows c x ls).map g := by
  rw [nestImages, nestRows]
  by_cases none : c.field 58 = 2
  · have empty : ls.flatMap (fun l => levelRows c (c.cAddr x l)) = [] :=
      List.flatMap_eq_nil_iff.2 fun l _ => if_pos none
    rw [if_pos none, empty]
    rfl
  · have level : ∀ a, levelRows c a = (c.active (c.field 54)).map (fun j =>
        (j, a + BitVec.ofNat 64 (if c.field 58 = 0 then j * c.field 59 else 16 * j), c.field 58 == 1, 0)) := fun a => if_neg none
    simp only [if_neg none, level, List.map_flatMap, List.map_map, Function.comp_def, same]

theorem events_nestImages (e : Ev) : (nestImages c tile ls).foldl (fun e y => e ||| y.2.2.2.2.2) e = e ||| rowEvents c tile (nestRows c x ls) 0 := by
  have same := map_nestImages c tile x ls (fun y => y.2.2.2.2.2) (fun y => (emitRow c tile y.1).2.2.2) fun l j => by
    dsimp only
  have folds := congrArg (fun l : List Ev => l.foldl (fun e y => e ||| y) e) same
  simp only [List.foldl_map] at folds
  rw [folds, ← rowEvents_eq]
  rfl

end

theorem slabsEnd : Claims.SlabsEnd := by
  rintro s n c m rfl array running
  refine ⟨slabEnd_goesOn array running, fun late => ?_⟩
  have run := slabEnd_ends array running late
  intro leaves
  have left : ∀ d, leaves (s.leaveArray n d) := fun d => by
    obtain ⟨runs, empty, next⟩ := leaveArray_frame s n d
    exact ⟨empty, runs.tiles, runs.mem, next, runs.strokes⟩
  refine ⟨fun simple => ?_, fun y z kind => ?_⟩
  · obtain ⟨x, kind⟩ | ⟨x, a, kind⟩ | ⟨x, kind⟩ := simple
    all_goals
      rw [kind] at run
      exact ⟨_, run, left _⟩
  rw [kind] at run
  refine ⟨fun again => ?_, fun last unchecked => ?_⟩
  · have rerun : s.slabEnds n c = s.holdArray n { c with rerun := c.rerun - 1 } (32 * stepCycles c.bfmt * 16 * 720720 / s.modu.capk.toNat) :=
      if_pos again
    have run := run.trans (congrArg Host.Outcome.next rerun)
    have holds := engineRuns_holdArray s n { c with rerun := c.rerun - 1 } (32 * stepCycles c.bfmt * 16 * 720720 / s.modu.capk.toNat)
    have held := matrix_holdArray s n { c with rerun := c.rerun - 1 } (32 * stepCycles c.bfmt * 16 * 720720 / s.modu.capk.toNat)
    refine ⟨_, run, holds.mem, holds.strokes, held.trans ?_⟩
    rw [Matrix.heldBy]
    dsimp only
    rw [← running]
  · intro x idx levels place images rows after
    have levels_eq : c.emitLevels c.slab = levels := emitLevels_eq c c.slab
    have images_eq : images = nestImages c (s.nib n).matrix.tiles[c.acc] levels := rfl
    have rows_eq : (nestRows c c.slab levels).map (rowAt c (s.nib n).matrix.tiles[c.acc]) = rows := by
      refine (map_nestImages c (s.nib n).matrix.tiles[c.acc] c.slab levels _ _ fun l j => ?_).symm
      rw [cAddr_eq, rowAt]
    have events_eq := events_nestImages c (s.nib n).matrix.tiles[c.acc] c.slab levels c.ev
    rw [← images_eq] at events_eq
    generalize event : rowEvents c (s.nib n).matrix.tiles[c.acc] (nestRows c c.slab levels) 0 = e at events_eq
    have ended : after ((c.ended.emitted rows e).slabAfter c.slab levels) := ⟨rfl, rfl, rfl, rfl, rfl, rfl, events_eq.symm⟩
    generalize started : (c.ended.emitted rows e).slabAfter c.slab levels = d at ended
    have drows : d.rows = c.rows ++ rows := by rw [← started]; rfl
    have did : d.id = c.id := by rw [← started]; rfl
    have dposted : d.posted = c.posted := by rw [← started]; rfl
    have didle : d.running = false := by rw [← started]; rfl
    have going : ∀ u, s.plans (firstRows s.cycle c.id c.rows rows) = u → c.field 58 ≤ 2 →
        s.slabEnds n c = if c.slab + 1 = c.total then u.leaveArray n d else (u.putArray n d).startSlab n := fun u hu dest => by
      rw [slabEnds_nest kind last unchecked dest levels_eq rows_eq event hu, started]
    refine ⟨fun more dest => ?_, fun none dest => ?_⟩
    · generalize hu : s.plans (firstRows s.cycle c.id c.rows rows) = u
      have step := (going u hu dest).trans (if_neg (Nat.ne_of_lt more))
      have put : ((u.putArray n d).nib n).matrix = { (s.nib n).matrix with array := some d } := by
        rw [← hu]
        exact matrix_modMatrix (s.plans _) n (fun m => { m with array := some d })
      refine ⟨u.putArray n d, d, ?_, put, ended, ?_, ?_, fun j k => ?_⟩
      · rw [slabEnd_starts (s := u.putArray n d) (c := d) (by rw [put]) didle, ← step]
        exact run
      · rw [← hu]
        rfl
      · rw [← hu]
        rfl
      · refine (stroke_modMatrix u n j k _).trans ?_
        rw [← hu]
        rfl
    · generalize hu : s.plans (firstRows s.cycle c.id c.rows rows) = u
      have step := (going u hu dest).trans (if_pos none)
      have run : exec (.slabEnd n) s = .next (u.leaveArray n d) := run.trans (congrArg Host.Outcome.next step)
      obtain ⟨runs, empty, next⟩ := leaveArray_frame u n d
      have matrix : (u.nib n).matrix = (s.nib n).matrix := by rw [← hu]; rfl
      have cycle : u.cycle = s.cycle := by rw [← hu]; rfl
      have mem : u.mem = s.mem := by rw [← hu]; rfl
      have strokes : ∀ j k, u.stroke j k = s.stroke j k := fun j k => by rw [← hu]; rfl
      refine ⟨_, run, ⟨empty, runs.tiles.trans (by rw [matrix]), runs.mem.trans mem, by rw [← cycle]; exact next,
        fun j k => (runs.strokes j k).trans (strokes j k)⟩, fun first some => ?_, fun waits open_ alone => ?_⟩
      · refine runs.mem_agenda ?_
        have planned : firstRows s.cycle c.id c.rows rows = [(s.cycle + 1, .matrixRowWrite c.id)] := if_pos ⟨first, some⟩
        rw [← hu, planned]
        exact List.mem_append_right _ List.mem_cons_self
      · have drains := leaveArray_drains (s := u) (n := n) (c := d) (by rw [drows]; exact waits) (dposted.trans open_)
          (by rw [matrix, did]; exact alone)
        rw [matrix] at drains
        obtain ⟨aid, aslab, arows, arun, anew, atiles, aev⟩ := ended
        exact ⟨_, drains, rfl, aid, aslab, arows, rfl, anew, atiles, aev⟩

/-- Settles O45: what each operation of the engine keeps, the branches of the dispatch, and the emits of a slab level by level. -/
theorem matrixRuns : Obligations.MatrixRuns := ⟨matrixDispatches, slabsBegin, slabsEnd⟩

end Sys2Proof.Machine
end

section
/-! SUPPORT. A copy whose id an operation in flight bears already (11_exchange.md R280): the model gives the time of service to
every operation of that id. -/

namespace Sys2Proof.Machine

open Sys2Proof

/-- An operation that bears the id which the next command gets. -/
def State.namesake : Op :=
  { id := State.reset.nextId, nib := 0, cid := 1, seq := .s, sl := 0, kind := .copy 0 0 0 0 ⟨0, false, 0, 0, false⟩ none 0, stroke := 0
    due := 7, performed := false, parked := false, lc := 0, tmax := 0, fail := none }

/-- A descriptor of one row of one byte stands at address 0 of the well. -/
def State.copyTwice : State :=
  { State.reset with ops := [State.namesake], mem := [(wellPA 0 0x10, 1), (wellPA 0 0x14, 1), (wellPA 0 0x16, 1)] }

/-- The value of that descriptor. -/
theorem copyTwice_reads : State.copyTwice.wellRead 0 52 = 2 ^ 128 + 2 ^ 160 + 2 ^ 176 := by decide +kernel

/-- That descriptor. -/
def oneByte : BitVec 512 := BitVec.ofNat 512 (2 ^ 128 + 2 ^ 160 + 2 ^ 176)

theorem copyBad_oneByte : copyBad 0 oneByte = none := by decide +kernel

theorem clear_copyTwice : State.copyTwice.Clear [.g 0] [] true := ⟨by decide, by decide⟩

theorem ops_pendSeal (s : State) (sl : Fin 16) : (s.pendSeal sl).ops = s.ops := rfl

theorem ops_quillGo (s : State) (n : NibId) : (s.quillGo n).ops = s.ops := by
  rw [State.quillGo]
  dsimp only
  split <;> rfl

/-- The operations after a copy that its unit accepts: the new one behind the others, and the time of service in each of its id. -/
theorem ops_copy {s : State} {sl : Fin 16} {a : Fin 32} (clear : s.Clear [.g a] [] true)
    (near : State.inWindow (s.rg a) 64 = true) (aligned : (s.rg a).toNat % 64 = 0) (seen : s.hidesRecords (s.rg a).toNat 52 = false)
    (good : copyBad 0 (BitVec.ofNat 512 (s.wellRead (s.rg a).toNat 52)) = none) (room : s.cnib.quill.length < 512)
    (free : s.sealFull sl = false) :
    ∃ t new, exec (.cpy sl a) s = .next t ∧
      t.ops = (s.ops ++ new).map (fun o => if o.id = s.nextId then { o with due := s.cycle + 1 } else o) := by
  have run := show exec (.cpy sl a) s = s.copy 0 sl a from rfl
  rw [State.copy, guarded_of_clear clear] at run
  obtain ⟨-, only, -⟩ := localLoad_frame s (s.rg a).toNat 52
  have cycle : (s.localLoad (s.rg a).toNat 52).2.cycle = s.cycle := by
    have e := congrArg State.cycle (show { (s.localLoad (s.rg a).toNat 52).2 with
      nibs := s.nibs, turn := s.turn, mem := s.mem, stamps := s.stamps } = s from only)
    exact e
  have value : s.localLoad (s.rg a).toNat 52 = (s.wellRead (s.rg a).toNat 52, (s.localLoad (s.rg a).toNat 52).2) := rfl
  dsimp only at run
  rw [near, if_neg (by decide), if_neg (not_not.2 aligned), if_neg (ne_true_of_eq_false seen), value] at run
  dsimp only at run
  rw [good] at run
  dsimp only at run
  rw [if_neg (by simpa using room), if_neg (ne_true_of_eq_false free), if_neg (by decide)] at run
  have fresh : ∃ new, (((s.localLoad (s.rg a).toNat 52).2.newOp sl
      (.copy (s.rg a) (BitVec.ofNat 512 (s.wellRead (s.rg a).toNat 52)) 0 0 ⟨0, false, 0, 0, false⟩ none 0)).2).ops = s.ops ++ new :=
    ⟨_, congrArg (· ++ _) only.ops⟩
  obtain ⟨new, fresh⟩ := fresh
  refine ⟨_, new, run, ?_⟩
  rw [State.retire_ops, ops_pendSeal, ops_quillGo, ← fresh]
  show List.map (fun o : Op => if o.id = (s.localLoad (s.rg a).toNat 52).2.nextId
    then { o with due := (s.localLoad (s.rg a).toNat 52).2.cycle + 1 } else o) _ = _
  rw [only.nextId, cycle]
  rfl

/-- Refutes O47: the operation that bears the new command's id already is given the command's time of service. -/
theorem not_copiesIssue : ¬ Obligations.CopiesIssue := by
  intro h
  obtain ⟨-, starts⟩ := h
  have d : BitVec.ofNat 512 (State.copyTwice.wellRead (State.copyTwice.rg 0).toNat 52) = oneByte := by
    rw [show (State.copyTwice.rg 0).toNat = 0 from rfl, copyTwice_reads]; rfl
  obtain ⟨-, accepts⟩ := starts State.copyTwice 0 0 clear_copyTwice (.cpy 0 0, 0) List.mem_cons_self
  obtain ⟨-, -, sends⟩ := accepts (by rw [d]; decide +kernel)
  obtain ⟨t, o, run, -, -, ops, -⟩ := sends (by decide) (by decide)
  obtain ⟨u, new, run', ops'⟩ := ops_copy (s := State.copyTwice) (sl := 0) (a := 0) clear_copyTwice (by decide) (by decide) (by decide)
    (by rw [d]; exact copyBad_oneByte) (by decide) (by decide)
  have same : t = u := by rw [run] at run'; exact Host.Outcome.next.inj run'
  rw [same, ops'] at ops
  have first : some (State.copyTwice.cycle + 1) = some 7 := congrArg (fun l => (l.map Op.due).head?) ops
  exact absurd first (by decide)

end Sys2Proof.Machine
end

section
/-! SUPPORT. A copy whose row is written beyond its end (11_exchange.md R281): a state that the statement of O48 admits. -/

namespace Sys2Proof.Machine

open Sys2Proof

/-- A row of one byte, whose destination lies beyond fabric window 0. -/
def farByte : BitVec 512 := oneByte ||| BitVec.ofNat 512 (2 * 2 ^ 384)

/-- A copy of one byte of which two have been written. -/
def overrunOp : Op :=
  { id := 4, nib := 0, cid := 1, seq := .s, sl := 0, kind := .copy 0 farByte 0 0 ⟨0, true, 0, 2, true⟩ none 0, stroke := 0
    due := 0, performed := false, parked := false, lc := 0, tmax := 0, fail := none }

/-- Partition 0 has folio 0, and reaches its own memory through fabric window 0. -/
def State.overrun : State :=
  { State.reset with ops := [overrunOp], parts := State.reset.parts.set 0 { State.reset.parts[0] with
      vf := 1, folios := 1, fwin := State.reset.parts[0].fwin.set 0 ⟨State.reset.modu.modn, 1, true⟩ } }

/-- How far the row of command 4 has been written, where its row 0 is not done. -/
def putOf (x : Res) : Option Nat :=
  match x with
  | .next t => match (t.findOp 4).map Op.kind with
    | some (.copy _ _ _ 0 r _ _) => some r.put
    | _ => none
  | _ => none

theorem putOf_overrun : putOf (exec (.remoteAccess (.own 4)) State.overrun) = some 2 := by decide +kernel

/-- Refutes O48: of a row of which more bytes have been written than it has, the statement says that its row is done, and the
model goes on with it. -/
theorem not_copiesRun : ¬ Obligations.CopiesRun := by
  intro h
  obtain ⟨-, -, ends, -⟩ := h
  obtain ⟨-, -, remote⟩ := ends State.overrun 4 overrunOp 0 farByte 0 0 ⟨0, true, 0, 2, true⟩ none 0 rfl rfl rfl
  obtain ⟨-, writes⟩ := remote rfl rfl rfl (by decide +kernel) rfl (by decide +kernel) (by decide +kernel) (.inl rfl)
  obtain ⟨-, here⟩ := writes (by decide +kernel) rfl
  obtain ⟨t, q, run, found, -, -, -, done⟩ := here (by decide +kernel)
  have kind := done (by decide +kernel)
  have put := putOf_overrun
  rw [run, putOf, found, Option.map_some, kind] at put
  exact absurd put (by decide)

end Sys2Proof.Machine
end

section
/-! SUPPORT. A pad record that lies in two cells (11_exchange.md R288): both cells give its write its time. -/

namespace Sys2Proof.Machine

open Sys2Proof

/-- A request for one row of ring 0 of stroke 0 of nib 0. -/
def padOp : Op :=
  { id := 4, nib := 0, cid := 1, seq := .s, sl := 0, kind := .permit 0 0, stroke := 0
    due := 0, performed := false, parked := false, lc := 0, tmax := 0, fail := none }

/-- A ring whose last 32 bytes begin 4 bytes before the end of a cell. -/
def padRing : Ring := { Stroke.reset.rings[(0 : Fin 4)] with base := 28, size := 128, tail := 96, used := 0, en := true, rowLen := 0, grants := 0 }

/-- Stroke 0 of nib 0 has that ring, and the cell in which the pad's header ends has been read at clock 5. -/
def State.padded : State :=
  (({ State.reset with ops := [padOp], parts := State.reset.parts.set 0 { State.reset.parts[0] with vf := 1, folios := 1 } }).modRing
    0 0 0 (fun _ => padRing)).setStamp (wellPA 0 128) 5 5

/-- The clock of operation 4. -/
def clockOf (x : Res) : Option Clk :=
  match x with
  | .next t => (t.findOp 4).map Op.lc
  | _ => none

theorem clockOf_padded : clockOf (exec (.permitRequest 4) State.padded) = some 6 := by decide +kernel

theorem writeStamp_padded : (State.padded.writeStamp (wellPA 0 124) 0).1 = 1 := by decide +kernel

/-- Refutes O49: the pad's header lies in two cells, and the statement takes the time of the first one for that of the write. -/
theorem not_exchangeAndPermits : ¬ Obligations.ExchangeAndPermits := by
  intro h
  obtain ⟨-, -, decided, -⟩ := h
  obtain ⟨-, -, -, grants⟩ := decided State.padded 4 [] [] padOp 0 0 rfl rfl rfl (by simp) (by simp)
    (by decide +kernel) (by decide +kernel) (by decide +kernel)
  obtain ⟨t, run, -, -, -, -, -, -, -, -, -, pads⟩ :=
    grants (by decide +kernel) (by decide +kernel) (by decide +kernel) (by decide +kernel)
  obtain ⟨-, ⟨p, found, lc, -⟩, -⟩ := pads (by decide +kernel) (by decide +kernel) (by decide +kernel)
  have clock := clockOf_padded
  rw [run, clockOf, found] at clock
  have first : p.lc = Clk.max padOp.lc (State.padded.writeStamp (wellPA 0 124) 0).1 := lc
  rw [Option.map_some, first, writeStamp_padded] at clock
  exact absurd clock (by decide)

end Sys2Proof.Machine
end

section
/-! SUPPORT. A replay whose next item is a snapshot (13_debug.md R344): the snapshot is restored in the event that completes the
packet before it. -/

namespace Sys2Proof.Machine

open Sys2Proof

/-- A NOP that a replay has issued again. -/
def replayedNop : Packet :=
  { id := 4, slot := 0, bits := 0x0B, inline := false, started := true, done := false, clk := 0, accepted := 0, iters := 0, paid := true }

/-- A replay that stands at its first item and waits for that NOP. -/
def nopReplay : Replay := { area := 0, pos := 64, index := 0, waitFor := some 4, regions := [] }

/-- Virtual function 1 has folio 0 and one page published at address 0. -/
def publishingPart : Part :=
  { State.reset.parts[0] with vf := 1, folios := 1, pubs := State.reset.parts[0].pubs.set 0 ⟨0, 0, 0, 0, 1, false, true, []⟩ }

/-- The replay's only item is a snapshot of one byte, the value 7, at address 0. -/
def State.restoring : State :=
  { State.reset with
    hostMem := [(8, 192), (64, 2), (72, 1), (128, 7)]
    parts := State.reset.parts.set 0 publishingPart
    vfs := State.reset.vfs.set 1 ⟨[(0, { Queue.reset with root := 1, pkts := [replayedNop] })], .replicate 4 0, some nopReplay⟩ }

/-- The memory after an event. -/
def memoryOf (x : Res) : List Host.Cell :=
  match x with
  | .next t => t.mem
  | _ => []

theorem memoryOf_restoring : memoryOf (exec (.nopPacket 4) State.restoring) = [(0, 7)] := by decide +kernel

/-- Refutes O54: a snapshot that follows the completed packet is restored in its event, and memory changes. -/
theorem not_packetsAndCaptures : ¬ Obligations.PacketsAndCaptures := by
  intro h
  obtain ⟨-, -, -, -, replays⟩ := h
  obtain ⟨t, run, mem, -⟩ := replays State.restoring 4 1 0 replayedNop nopReplay (by decide +kernel) rfl (.inl rfl) rfl rfl
    (by decide +kernel)
  have after := memoryOf_restoring
  rw [run, memoryOf, mem] at after
  exact absurd after (by decide)

end Sys2Proof.Machine
end

section
/-! SUPPORT. A guest packet whose id an operation in flight bears already (15_bonnet.md R365, R366): the port looks at that operation
and not at the packet. -/

namespace Sys2Proof.Machine

open Sys2Proof

/-- A guest packet of opcode 0 stands at address 0 of the well, and a copy in flight bears the id that the next operation gets. -/
def State.guestTwice : State := { State.reset with ops := [State.namesake], mem := [(wellPA 0 1, 1)] }

/-- How many events stand on the agenda. -/
def agendaSize (x : Res) : Nat :=
  match x with
  | .next t => t.agenda.length
  | _ => 0

theorem agendaSize_guestTwice : agendaSize (exec (.gsub 0 0) State.guestTwice) = State.guestTwice.agenda.length := by
  decide +kernel

/-- Refutes O57: the packet finds no guest that it may use, but the port looks at the older operation of its id, and no refusal is
on its way. -/
theorem not_guestPackets : ¬ Obligations.GuestPackets := by
  intro h
  obtain ⟨⟨sent, -⟩, -⟩ := h
  obtain ⟨-, -, -, placed⟩ := sent State.guestTwice 0 0 ⟨by decide, by decide⟩
  obtain ⟨-, fields⟩ := placed (by decide) (by decide) (by decide)
  obtain ⟨-, -, goes⟩ := fields (by decide +kernel)
  obtain ⟨t, o, b, way, run, -, -, -, -, -, -, -, -, -, -, -, -, -, refused, -⟩ :=
    goes (by decide) (by decide) (by decide) (by decide)
  obtain ⟨-, c, -, -, agenda⟩ := refused (by decide +kernel) (by decide) (by decide)
  have size := agendaSize_guestTwice
  rw [run, agendaSize, agenda, List.length_append, List.length_singleton] at size
  omega

end Sys2Proof.Machine
end

section
/-! SUPPORT. The port answers packets and fences the guest (15_bonnet.md R366, R368). -/

namespace Sys2Proof.Machine

open Sys2Proof

/-! ## Answers of the port -/

/-- An answer of the port to a packet puts one event on the agenda, within 2,048 cycles. -/
theorem portAnswer_eq (s : State) (id : Nat) (refusal : Bool) : ∃ c, s.cycle ≤ c ∧ c ≤ s.cycle + 2048 ∧
    s.portAnswer id refusal = { s with
      fresh := s.fresh + 1, agenda := s.agenda ++ [(c, if refusal then .portRefusal id else .fencedCompletion id)] } := by
  obtain ⟨low, high, fresh⟩ := freeCycle_bounds s (Nat.le_add_right s.cycle 2048)
  rw [State.portAnswer]
  rcases h : s.freeCycle s.cycle (some (s.cycle + 2048)) with ⟨c, t⟩
  rw [h] at low high fresh
  subst fresh
  exact ⟨c, low, high, rfl⟩

/-- The completion of each packet of a list is on its way. -/
def Completing (s : State) (ids : List Nat) (new : List (Nat × Instr)) : Prop :=
  ∀ id ∈ ids, ∃ c, s.cycle ≤ c ∧ c ≤ s.cycle + 2048 ∧ (c, .fencedCompletion id) ∈ new

theorem portAnswers_eq (ids : List Nat) (s : State) : ∃ n new, ids.foldl (fun s id => s.portAnswer id false) s =
    { s with fresh := n, agenda := s.agenda ++ new } ∧ Completing s ids new := by
  induction ids generalizing s with
  | nil => exact ⟨s.fresh, [], by rw [List.append_nil]; rfl, by simp [Completing]⟩
  | cons id ids ih =>
    obtain ⟨c, low, high, first⟩ := portAnswer_eq s id false
    obtain ⟨n, new, rest, coming⟩ := ih (s.portAnswer id false)
    refine ⟨n, (c, .fencedCompletion id) :: new, ?_, ?_⟩
    · rw [List.foldl_cons, rest, first]
      simp [List.append_assoc]
    · intro i member
      rcases List.mem_cons.1 member with rfl | later
      · exact ⟨c, low, high, List.mem_cons_self⟩
      · obtain ⟨e, low, high, there⟩ := coming i later
        rw [first] at low high
        exact ⟨e, low, high, List.mem_cons_of_mem _ there⟩

/-! ## Telling the host -/

/-- The host is told of a fence for virtual functions of a list. -/
def State.tellHost (s : State) (l : List (Fin 16)) : State := l.foldl (fun s v => s.raiseMsix (Fin.ofNat 17 (v.val + 1)) 2) s

theorem tellHost_frame (l : List (Fin 16)) (s : State) : ∃ vfs, s.tellHost l = { s with vfs := vfs } := by
  induction l generalizing s with
  | nil => exact ⟨s.vfs, rfl⟩
  | cons v l ih =>
    obtain ⟨vfs, h⟩ := ih (s.raiseMsix (Fin.ofNat 17 (v.val + 1)) 2)
    exact ⟨vfs, h⟩

theorem raiseMsix_ne (s : State) {v w : Fin 17} (i : Fin 4) (h : v ≠ w) : (s.raiseMsix v i).vfs[w] = s.vfs[w] :=
  Vector.getElem_set_ne v.isLt w.isLt (Fin.val_ne_of_ne h)

theorem function_inj {v u : Fin 16} {w : Fin 17} (hw : w.val = v.val + 1) : Fin.ofNat 17 (u.val + 1) = w ↔ u = v := by
  rw [Fin.ext_iff, Fin.ext_iff, Fin.val_ofNat, Nat.mod_eq_of_lt (by omega)]
  omega

/-- Each function of a list without repetitions is told once. -/
theorem tellHost_msix (l : List (Fin 16)) (s : State) {v : Fin 16} {w : Fin 17} (hw : w.val = v.val + 1) :
    (s.tellHost l).vfs[w].msix[2] = s.vfs[w].msix[2] + l.count v := by
  induction l generalizing s with
  | nil => rfl
  | cons u l ih =>
    rw [State.tellHost, List.foldl_cons, ← State.tellHost, ih]
    by_cases same : u = v
    · rw [(function_inj hw).2 same, same, List.count_cons_self, ← Nat.add_assoc, Nat.add_right_comm]
      exact congrArg (· + l.count v) (raiseMsix_msix s w 2)
    · rw [raiseMsix_ne s 2 (fun e => same ((function_inj hw).1 e)), List.count_cons_of_ne same]

/-! ## Fencing -/

/-- The bonnet port once it has fenced the guest. -/
def Bonnet.fenced' (b : Bonnet) (code : Nat) : Bonnet :=
  { b with fenced := true, fcause := BitVec.ofNat 8 code, up := false, rate := 0, mods := 0, l1 := false, tlb := [], parked := [], deadlines := [] }

/-- The socket is isolated, and no refusal of a packet in `ids` comes. -/
def State.isolate (s : State) (code : Nat) (ids : List Nat) : State :=
  { s with
    bonnet := s.bonnet.fenced' code
    agenda := s.agenda.filter (fun e => match e.2 with
      | .portRefusal i => !ids.contains i
      | _ => true) }

/-- The packets that have reached the port. -/
def State.atPort (s : State) : List Nat := (s.ops.filter Op.atPort).map (·.id)

/-- The virtual functions that use the guest. -/
def State.guestFunctions (s : State) : List (Fin 16) := (List.finRange 16).filter (fun v => s.bonnet.vfMask.getLsbD v.val)

theorem count_guestFunctions {s : State} {v : Fin 16} (h : s.bonnet.vfMask.getLsbD v.val = true) : s.guestFunctions.count v = 1 :=
  List.count_eq_one_of_mem ((List.nodup_finRange 16).filter _) (List.mem_filter.2 ⟨List.mem_finRange v, h⟩)

theorem fenceGuest_eq {s : State} (free : s.bonnet.fenced = false) (code : Nat) :
    s.fenceGuest code = (s.atPort.foldl (fun s id => s.portAnswer id false) (s.isolate code s.atPort)).tellHost
      (s.atPort.foldl (fun s id => s.portAnswer id false) (s.isolate code s.atPort)).guestFunctions := by
  rw [State.fenceGuest, if_neg (ne_true_of_eq_false free)]
  rfl

theorem fenced_of_fenceGuest {s : State} (free : s.bonnet.fenced = false) (code : Nat) : Fenced s (s.fenceGuest code) code := by
  obtain ⟨n, new, answers, coming⟩ := portAnswers_eq s.atPort (s.isolate code s.atPort)
  rw [fenceGuest_eq free]
  generalize s.atPort.foldl (fun s id => s.portAnswer id false) (s.isolate code s.atPort) = u at answers ⊢
  have same : u.guestFunctions = s.guestFunctions := by rw [answers]; rfl
  obtain ⟨vfs, told⟩ := tellHost_frame u.guestFunctions u
  have msix := fun v w (hw : w.val = v.val + 1) => tellHost_msix u.guestFunctions u (v := v) (w := w) hw
  rw [told] at msix ⊢
  subst answers
  refine ⟨rfl, ?_, ?_, rfl, rfl, rfl⟩
  · intro o member arrived
    obtain ⟨c, low, high, there⟩ := coming o.id (List.mem_map.2 ⟨o, List.mem_filter.2 ⟨member, arrived⟩, rfl⟩)
    exact ⟨c, low, high, List.mem_append_right _ there⟩
  · intro v w hw named
    rw [msix v w hw, same, count_guestFunctions named]
    rfl

theorem Fenced.of_seen {s t : State} {x : Clk × Nat} {code : Nat}
    (h : Fenced { s with bonnet := { s.bonnet with seen := x } } t code) : Fenced s t code :=
  ⟨h.port, h.packets, h.told, h.mem, h.nibs, h.ops⟩

/-! ## The link -/

/-- A guest packet that the port refuses. -/
def Op.refuse (o : Op) : Op :=
  match o.kind with
  | .guest addr b vf root _ => { o with kind := .guest addr b vf root .refused }
  | _ => o

theorem refuse_id (o : Op) : o.refuse.id = o.id := by
  rw [Op.refuse]
  split <;> rfl

theorem refuse_refuse (o : Op) : o.refuse.refuse = o.refuse := by
  rcases o with ⟨a, b, c, d, e, kind, f, g, h, i, j, k, l⟩
  cases kind <;> rfl

theorem setWay_refused (s : State) (id : Nat) :
    s.setWay id .refused = { s with ops := s.ops.map (fun o => if o.id = id then o.refuse else o) } := rfl

theorem map_refuse (l : List Op) (id : Nat) (ids : List Nat) :
    (l.map (fun o => if o.id = id then o.refuse else o)).map (fun o => if o.id ∈ ids then o.refuse else o) =
      l.map (fun o => if o.id ∈ id :: ids then o.refuse else o) := by
  rw [List.map_map]
  refine List.map_congr_left fun o _ => ?_
  simp only [Function.comp_apply, List.mem_cons]
  by_cases first : o.id = id
  · simp only [first, true_or, if_true]
    split
    · exact refuse_refuse o
    · rfl
  · simp only [first, false_or, if_false]

/-- The port refuses packets of a list: they stand refused, and the completion of each is on its way. -/
theorem refusals_eq (ids : List Nat) (s : State) : ∃ n new, ids.foldl (fun s id => (s.setWay id .refused).portAnswer id true) s =
    { s with fresh := n, agenda := s.agenda ++ new, ops := s.ops.map (fun o => if o.id ∈ ids then o.refuse else o) } ∧
      ∀ id ∈ ids, ∃ c, (c, Instr.portRefusal id) ∈ new ∧ s.cycle ≤ c ∧ c ≤ s.cycle + 2048 := by
  induction ids generalizing s with
  | nil => exact ⟨s.fresh, [], by simp, by simp⟩
  | cons id ids ih =>
    obtain ⟨c, low, high, first⟩ := portAnswer_eq (s.setWay id .refused) id true
    obtain ⟨n, new, rest, coming⟩ := ih ((s.setWay id .refused).portAnswer id true)
    refine ⟨n, (c, .portRefusal id) :: new, ?_, ?_⟩
    · rw [List.foldl_cons, rest, first, ← map_refuse]
      simp [setWay_refused, List.append_assoc]
    · intro i member
      rcases List.mem_cons.1 member with rfl | later
      · exact ⟨c, List.mem_cons_self, low, high⟩
      · obtain ⟨e, there, low, high⟩ := coming i later
        rw [first] at low high
        exact ⟨e, List.mem_cons_of_mem _ there, low, high⟩

/-- The packets that the guest holds. -/
def State.held' (s : State) : List Nat :=
  (s.ops.filter (fun o => match o.kind with | .guest _ _ _ _ way => way == .sent | _ => false)).map (·.id)

theorem mem_held' {s : State} {o : Op} (member : o ∈ s.ops) {addr : Word} {pkt : BitVec 512} {vf : Nat} {root : Word}
    (kind : o.kind = .guest addr pkt vf root .sent) : o.id ∈ s.held' :=
  List.mem_map.2 ⟨o, List.mem_filter.2 ⟨member, by rw [kind]; rfl⟩, rfl⟩

/-- The link is down. -/
def State.unlink (s : State) : State :=
  s.modBonnet (fun b => { b with en := false, up := false, rate := 0, mods := 0, l1 := false })

theorem bonctlEn_off {s : State} {x : BitVec 64} (h : x.getLsbD 0 = false) : exec (.bonctlEn x) s =
    .next (if s.bonnet.fenced then s.unlink else s.held'.foldl (fun s id => (s.setWay id .refused).portAnswer id true) s.unlink) := by
  have run := show exec (.bonctlEn x) s = execBonctlEn x s from rfl
  rw [run, execBonctlEn, if_neg (ne_true_of_eq_false h)]
  show (if s.bonnet.fenced = true then _ else _) = _
  split <;> rfl

theorem linkTraining_cases (s : State) (ok : Bool) (rate : BitVec 8) (mods : BitVec 4) :
    let good := ok = true ∧ mods ≠ 0 ∧ rate ∈ ([32, 24, 16, 12, 8, 4] : List (BitVec 8))
    let may := s.bonnet.fenced = false ∧ s.bonnet.en = true ∧ s.modu.guestOk = true ∧ s.bonnet.present = true
    (¬ may → s.trainLink ok rate mods = s) ∧
    (may → good → s.trainLink ok rate mods = { s with bonnet := { s.bonnet with
      up := true, rate := rate, mods := mods, seen := if s.bonnet.up = true then s.bonnet.seen else (s.bonnet.seen.1, s.cycle) } }) ∧
    (may → ¬ good → s.trainLink ok rate mods = if s.bonnet.up then s.fenceGuest 6 else s) := by
  intro good may
  have trains : (ok && mods != 0 && [32, 24, 16, 12, 8, 4].contains rate.toNat) = true ↔ good := by
    have rates : ([32, 24, 16, 12, 8, 4].contains rate.toNat) = true ↔ rate ∈ ([32, 24, 16, 12, 8, 4] : List (BitVec 8)) := by
      revert rate; decide
    rw [Bool.and_eq_true, Bool.and_eq_true, rates, bne_iff_ne, and_assoc]
  have shut : (s.bonnet.fenced || !s.bonnet.en || !s.modu.guestOk || !s.bonnet.present) = true ↔ ¬ may := by
    simp only [may, Bool.or_eq_true, Bool.not_eq_true', not_and_or, Bool.not_eq_false, Bool.not_eq_true, or_assoc]
  refine ⟨fun no => ?_, fun yes fine => ?_, fun yes bad => ?_⟩
  · rw [State.trainLink, if_pos (shut.2 no)]
  · rw [State.trainLink, if_neg (fun h => shut.1 h yes), if_pos (trains.2 fine)]
    rfl
  · rw [State.trainLink, if_neg (fun h => shut.1 h yes), if_neg (fun h => bad (trains.1 h))]

theorem bonnetLink : Claims.BonnetLink := by
  intro s b hb
  subst hb
  refine ⟨fun ok rate mods => ?_, fun l1 => ⟨fun up => ?_, fun up => ?_⟩, fun x => ⟨fun on permitted => ?_, fun on permitted => ?_, fun off => ?_⟩,
    fun fenced => ⟨?_, ?_⟩, fun free => ⟨⟨_, rfl, fenced_of_fenceGuest free 7⟩, fun up => ⟨_, ?_, fenced_of_fenceGuest free 6⟩, fun up => ?_⟩⟩
  · have run := show exec (.linkTraining ok rate mods) s = .next (s.trainLink ok rate mods) from rfl
    obtain ⟨shut, trains, fails⟩ := linkTraining_cases s ok rate mods
    refine ⟨fun no => run.trans (congrArg _ (shut no)), fun may good => run.trans (congrArg _ (trains may good)),
      fun may bad up => ⟨_, run.trans (congrArg _ (fails may bad)), ?_⟩, fun may bad up => run.trans (congrArg _ ?_)⟩
    · rw [if_pos up]
      exact fenced_of_fenceGuest may.1 6
    · rw [fails may bad, if_neg (ne_true_of_eq_false up)]
  · exact congrArg _ (if_pos up)
  · exact congrArg _ (if_neg (ne_true_of_eq_false up))
  · exact (if_pos on).trans (congrArg _ (if_pos permitted))
  · exact (if_pos on).trans (congrArg _ (if_neg (ne_true_of_eq_false permitted)))
  · rw [bonctlEn_off off]
    by_cases fenced : s.bonnet.fenced = true
    · rw [if_pos fenced]
      exact ⟨_, rfl, rfl, rfl, fun _ => rfl, rfl, fun e h => h, fun free => absurd fenced (ne_true_of_eq_false free)⟩
    · rw [if_neg fenced]
      obtain ⟨n, new, after, coming⟩ := refusals_eq s.held' s.unlink
      refine ⟨_, rfl, ?_⟩
      generalize s.held'.foldl (fun s id => (s.setWay id .refused).portAnswer id true) s.unlink = t at after
      subst after
      refine ⟨rfl, rfl, fun h => absurd h fenced, rfl, fun e h => List.mem_append_left _ h, ?_⟩
      intro _ o member addr pkt vf root kind
      have holds := mem_held' member kind
      obtain ⟨c, there, low, high⟩ := coming o.id holds
      refine ⟨⟨o.refuse, List.mem_map.2 ⟨o, member, if_pos holds⟩, refuse_id o, ?_⟩, c, List.mem_append_right _ there, low, high⟩
      rw [Op.refuse, kind]
  · exact congrArg _ (if_pos fenced)
  · exact congrArg _ ((congrArg (fun t => if s.bonnet.up then t else s) (if_pos fenced)).trans (ite_self s))
  · exact congrArg _ (if_pos up)
  · exact congrArg _ (if_neg (ne_true_of_eq_false up))

/-! ## What the guest sends -/

theorem trueClock_iff (s : State) (clk : Clk) : s.TrueClock clk ↔ (Clk.le s.bonnet.lc clk = true ∧
    Clk.le (s.bonnet.seen.1 + BitVec.ofNat 48 ((s.cycle - s.bonnet.seen.2) / 512)) clk = true) :=
  ⟨fun ⟨a, b⟩ => ⟨a, b⟩, fun ⟨a, b⟩ => ⟨a, b⟩⟩

section
variable {s : State} (up : s.bonnet.up = true) (free : s.bonnet.fenced = false)
include up free

theorem guestSays_false {clk : Clk} (h : ¬ s.TrueClock clk) (f : State → Res) : s.guestSays clk f = .next (s.fenceGuest 4) := by
  have late : (!Clk.le s.bonnet.lc clk ||
      !Clk.le (s.bonnet.seen.1 + BitVec.ofNat 48 ((s.cycle - s.bonnet.seen.2) / 512)) clk) = true := by
    rw [trueClock_iff, not_and_or] at h
    simpa using h
  rw [State.guestSays, up, free]
  exact if_pos late

/-- The state in which a message of the guest with this clock acts. -/
def State.hears (s : State) (clk : Clk) : State := { s with bonnet := s.heard clk }

omit up free in
theorem hears_fenced (clk : Clk) : (s.hears clk).bonnet.fenced = s.bonnet.fenced := rfl

theorem guestSays_true {clk : Clk} (h : s.TrueClock clk) (f : State → Res) : s.guestSays clk f = f (s.hears clk) := by
  have timely : ¬ (!Clk.le s.bonnet.lc clk ||
      !Clk.le (s.bonnet.seen.1 + BitVec.ofNat 48 ((s.cycle - s.bonnet.seen.2) / 512)) clk) = true := by
    obtain ⟨returned, risen⟩ := h
    rw [returned, risen]
    decide
  rw [State.guestSays, up, free]
  refine (if_neg timely).trans (congrArg f ?_)
  rw [State.hears, State.heard]
  split <;> rfl

variable {ev : Instr} {id : Nat} (new : s.isThrough ev = false) {f : State → Op → Nat → Word → Fin 16 → State}
include new

theorem fromGuest_false {clk : Clk} (h : ¬ s.TrueClock clk) : s.fromGuest ev id clk f = .next (s.fenceGuest 4) := by
  rw [State.fromGuest]
  exact (if_neg (ne_true_of_eq_false new)).trans (guestSays_false up free h _)

theorem fromGuest_missing {clk : Clk} (h : s.TrueClock clk)
    (lost : ∀ o, s.findOp id = some o → ∀ a b v r, o.kind ≠ .guest a b v r .sent) :
    s.fromGuest ev id clk f = .next ((s.hears clk).fenceGuest 5) := by
  rw [State.fromGuest]
  refine (if_neg (ne_true_of_eq_false new)).trans ((guestSays_true up free h _).trans (congrArg _ ?_))
  beta_reduce
  rw [show (s.hears clk).findOp id = s.findOp id from rfl]
  split
  next o found =>
    split
    next kind => exact (lost o found _ _ _ _ kind).elim
    · rfl
  · rfl

theorem fromGuest_serves {clk : Clk} (h : s.TrueClock clk) {o : Op} {addr : Word} {pkt : BitVec 512} {vf : Nat} {root : Word} {p : Fin 16}
    (found : s.findOp id = some o) (kind : o.kind = .guest addr pkt vf root .sent) (part : s.partOfVf (Fin.ofNat 17 vf) = some p) :
    s.fromGuest ev id clk f = .next (f (s.hears clk) o vf root p) := by
  rw [State.fromGuest]
  refine (if_neg (ne_true_of_eq_false new)).trans ((guestSays_true up free h _).trans (congrArg _ ?_))
  beta_reduce
  rw [show (s.hears clk).findOp id = s.findOp id from rfl, found]
  dsimp only
  rw [kind]
  dsimp only
  rw [show (s.hears clk).partOfVf (Fin.ofNat 17 vf) = s.partOfVf (Fin.ofNat 17 vf) from rfl, part]

end

theorem fenced_of_hears {s : State} (free : s.bonnet.fenced = false) (clk : Clk) (code : Nat) :
    Fenced s ((s.hears clk).fenceGuest code) code := Fenced.of_seen (fenced_of_fenceGuest (s := s.hears clk) free code)

/-- Folio f's coalescing table is `l`. -/
def State.setCoal (s : State) (f : Fin 16) (l : List Coal) : State := { s with folios := s.folios.set f { s.folios[f] with coal := l } }

theorem setCoal_coal (s : State) (f : Fin 16) (l : List Coal) : ((s.setCoal f l).folios[f]).coal = l := by
  rw [show (s.setCoal f l).folios[f] = { s.folios[f] with coal := l } from Vector.getElem_set_self _]

theorem crossBorder_frame (s : State) (p : Fin 16) (chan : Fin 4) (owes : List (Fin 16 × Nat)) (evs : List (Nat × Instr)) :
    ∃ parts agenda, s.crossBorder p chan owes evs = { s with parts := parts, agenda := agenda } := by
  rw [State.crossBorder]
  rcases s.parts[p].take ⟨chan, owes, evs, false⟩ with ⟨x, ok⟩
  dsimp only
  split
  · exact ⟨_, _, rfl⟩
  · exact ⟨_, s.agenda, rfl⟩

/-- Traffic that owes nothing crosses at once. -/
theorem crossBorder_nil (s : State) (p : Fin 16) (chan : Fin 4) (evs : List (Nat × Instr)) :
    s.crossBorder p chan [] evs = { s with agenda := s.agenda ++ evs } := by
  rw [State.crossBorder, show s.parts[p].take ⟨chan, [], evs, false⟩ = (s.parts[p], true) from rfl]
  dsimp only
  rw [show s.parts.set p s.parts[p] = s.parts from Vector.set_getElem_self p.isLt]
  rfl

theorem owing_of_route {s : State} {p f : Fin 16} (h : s.route p f = []) (out : Bool) (bytes : Nat) : s.owing p f out bytes = [] := by
  rw [State.owing, h]
  simp

section
variable (s : State) (op : Nat) (n : NibId) (k : Fin 8) (asid : BitVec 16) (va : Word) (code : Nat)

/-- A record for the page waits in the coalescing table of nib n's folio. -/
def State.coalesces : Prop := ∃ c ∈ s.folios[State.folioOf n].coal, c.asid = asid ∧ c.page = va.toNat % 2 ^ 52 / 2 ^ 16

theorem coalesces_iff : s.folios[State.folioOf n].coal.any (fun c => c.asid == asid && c.page == va.toNat % 2 ^ 52 / 2 ^ 16) = true ↔
    s.coalesces n asid va := by
  simp [State.coalesces, List.any_eq_true]

theorem coalesce_known (h : s.coalesces n asid va) : s.coalesce op n k asid va code = s.setCoal (State.folioOf n)
    (s.folios[State.folioOf n].coal.map (fun c =>
      if c.asid = asid ∧ c.page = va.toNat % 2 ^ 52 / 2 ^ 16 then { c with ops := c.ops ++ [op] } else c)) := by
  rw [State.coalesce]
  refine (if_pos ((coalesces_iff s n asid va).2 h)).trans ?_
  simp only [Bool.and_eq_true, beq_iff_eq]
  rfl

/-- A record for the page joins the coalescing table of nib n's folio, and a free value is used up. -/
def State.record' : State := { s.setCoal (State.folioOf n) (s.folios[State.folioOf n].coal ++ [(⟨asid, va.toNat % 2 ^ 52 / 2 ^ 16, [op]⟩ : Coal)])
  with fresh := s.fresh + 1 }

theorem coalesce_new (h : ¬ s.coalesces n asid va) (room : s.folios[State.folioOf n].coal.length < 64) : ∃ c, s.cycle < c ∧
    s.coalesce op n k asid va code = (s.record' op n asid va).crossBorder (s.partOf n) 1 (s.owing (s.partOf n) (State.folioOf n) true 16)
        [(c, .faultRecord (s.partOf n) va (s.nibNumber n) asid (BitVec.ofNat 8 (k.val + 8 * code)))] := by
  obtain ⟨c, low, free⟩ := freeCycle_none (s.setCoal (State.folioOf n)
    (s.folios[State.folioOf n].coal ++ [(⟨asid, va.toNat % 2 ^ 52 / 2 ^ 16, [op]⟩ : Coal)])) (s.cycle + 1)
  refine ⟨c, low, ?_⟩
  rw [State.coalesce]
  refine (if_neg (fun known => h ((coalesces_iff s n asid va).1 known))).trans ((if_pos room).trans ?_)
  simp only [State.setCoal] at free
  dsimp only
  rw [free]
  rfl

theorem coalesce_open (h : ¬ s.coalesces n asid va) (room : s.folios[State.folioOf n].coal.length < 64)
    (free : s.route (s.partOf n) (State.folioOf n) = []) : ∃ c, s.cycle < c ∧
    s.coalesce op n k asid va code = { s.record' op n asid va with
      agenda := s.agenda ++ [(c, .faultRecord (s.partOf n) va (s.nibNumber n) asid (BitVec.ofNat 8 (k.val + 8 * code)))] } := by
  obtain ⟨c, low, after⟩ := coalesce_new s op n k asid va code h room
  rw [owing_of_route free, crossBorder_nil] at after
  exact ⟨c, low, after⟩

theorem coalesce_full (h : ¬ s.coalesces n asid va) (full : 64 ≤ s.folios[State.folioOf n].coal.length) :
    s.coalesce op n k asid va code = s.modPart (s.partOf n) (fun p => { p with drop := true }) := by
  rw [State.coalesce]
  exact (if_neg (fun known => h ((coalesces_iff s n asid va).1 known))).trans (if_neg (Nat.not_lt.2 full))

theorem coalesce_frame : ∃ parts folios fresh agenda, s.coalesce op n k asid va code = { s with
    parts := parts, folios := folios, fresh := fresh, agenda := agenda } := by
  by_cases known : s.coalesces n asid va
  · exact ⟨_, _, _, _, coalesce_known s op n k asid va code known⟩
  · by_cases room : s.folios[State.folioOf n].coal.length < 64
    · obtain ⟨c, -, after⟩ := coalesce_new s op n k asid va code known room
      rw [after]
      obtain ⟨parts, agenda, crossed⟩ := crossBorder_frame (s.record' op n asid va) (s.partOf n) 1
        (s.owing (s.partOf n) (State.folioOf n) true 16)
        [(c, .faultRecord (s.partOf n) va (s.nibNumber n) asid (BitVec.ofNat 8 (k.val + 8 * code)))]
      rw [crossed]
      exact ⟨_, _, _, _, rfl⟩
    · exact ⟨_, _, _, _, coalesce_full s op n k asid va code known (Nat.not_lt.1 room)⟩

end


/-! ## The guest's duties -/

/-- The deadline of the guest's report of a fault ends, and the request waits. -/
def State.reported (s : State) (id : Nat) (va : Word) : State :=
  s.modBonnet (fun b => { b with
    deadlines := b.deadlines.filter (fun d => !(d.cause == 3 && d.what == id && d.va == va))
    parked := b.parked ++ [(va, id)] })

theorem reported_frame (s : State) (id : Nat) (va : Word) : ∃ b, s.reported id va = { s with bonnet := b } := ⟨_, rfl⟩

/-- A fault record of the guest joins the coalescing table of its packet's folio. -/
theorem coalesced (s : State) (b : Bonnet) (op : Nat) (n : NibId) (k : Fin 8) (asid : BitVec 16) (va : Word) :
    let t := ({ s with bonnet := b } : State).coalesce op n k asid va 3
    let f := State.folioOf n
    let page := va.toNat % 2 ^ 52 / 2 ^ 16
    let known := ∃ c ∈ s.folios[f].coal, c.asid = asid ∧ c.page = page
    t.mem = s.mem ∧ t.nibs = s.nibs ∧ t.ops = s.ops ∧ t.bonnet = b ∧
    (known → t.agenda = s.agenda ∧ t.parts = s.parts ∧ t.folios[f].coal = s.folios[f].coal.map (fun c =>
      if c.asid = asid ∧ c.page = page then { c with ops := c.ops ++ [op] } else c)) ∧
    (¬ known → s.folios[f].coal.length < 64 → s.route (s.partOf n) f = [] →
      t.folios[f].coal = s.folios[f].coal ++ [⟨asid, page, [op]⟩] ∧ t.parts = s.parts ∧ ∃ c, s.cycle < c ∧
        t.agenda = s.agenda ++ [(c, .faultRecord (s.partOf n) va (s.nibNumber n) asid (BitVec.ofNat 8 (k.val + 24)))]) ∧
    (¬ known → 64 ≤ s.folios[f].coal.length → t.folios = s.folios ∧ t.agenda = s.agenda ∧ t.parts[s.partOf n].drop = true) := by
  intro t f page known
  have frame : t.mem = s.mem ∧ t.nibs = s.nibs ∧ t.ops = s.ops ∧ t.bonnet = b := by
    obtain ⟨_, _, _, _, h⟩ := coalesce_frame ({ s with bonnet := b } : State) op n k asid va 3
    rw [show t = _ from h]
    exact ⟨rfl, rfl, rfl, rfl⟩
  refine ⟨frame.1, frame.2.1, frame.2.2.1, frame.2.2.2, fun yes => ?_, fun no room free => ?_, fun no full => ?_⟩
  · rw [show t = _ from coalesce_known ({ s with bonnet := b } : State) op n k asid va 3 yes]
    exact ⟨rfl, rfl, setCoal_coal ..⟩
  · obtain ⟨c, low, after⟩ := coalesce_open ({ s with bonnet := b } : State) op n k asid va 3 no room free
    rw [show t = _ from after]
    exact ⟨setCoal_coal .., rfl, c, low, rfl⟩
  · rw [show t = _ from coalesce_full ({ s with bonnet := b } : State) op n k asid va 3 no full]
    refine ⟨rfl, rfl, ?_⟩
    exact congrArg Part.drop (modPart_same ({ s with bonnet := b } : State) (s.partOf n) _)

/-- A message of the guest with a false clock, or for a packet that it does not hold, fences it. -/
theorem falseMessages {s : State} (up : s.bonnet.up = true) (free : s.bonnet.fenced = false) (new : ∀ e, s.isThrough e = false)
    (id : Nat) (va : Word) (p : Fin 16) (v : Fin 17) (x : BitVec 64) (st : BitVec 32) (clk : Clk) :
    let served := [Instr.translationRequest id ⟨va, clk⟩, .guestFaultRecord id ⟨va, clk⟩, .guestCompletion id st clk]
    (¬ s.TrueClock clk → ∀ i ∈ served ++ [.invalidationAck ⟨p, clk⟩, .preemptAck v ⟨x, clk⟩], ∃ t, exec i s = .next t ∧ Fenced s t 4) ∧
    (s.TrueClock clk → (∀ o, s.findOp id = some o → ∀ a b v r, o.kind ≠ .guest a b v r .sent) →
      ∀ i ∈ served, ∃ t, exec i s = .next t ∧ Fenced s t 5) := by
  intro served
  refine ⟨fun late i member => ?_, fun timely lost i member => ?_⟩
  · refine ⟨_, ?_, fenced_of_fenceGuest free 4⟩
    simp only [served, List.cons_append, List.nil_append, List.mem_cons, List.not_mem_nil, or_false] at member
    rcases member with rfl | rfl | rfl | rfl | rfl
    · exact fromGuest_false up free (new _) late
    · exact fromGuest_false up free (new _) late
    · exact fromGuest_false up free (new _) late
    · exact (show exec (.invalidationAck ⟨p, clk⟩) s = execInvalidationAck ⟨p, clk⟩ s from rfl).trans (guestSays_false up free late _)
    · exact (show exec (.preemptAck v ⟨x, clk⟩) s = execPreemptAck v ⟨x, clk⟩ s from rfl).trans (guestSays_false up free late _)
  · refine ⟨_, ?_, fenced_of_hears free clk 5⟩
    simp only [served, List.mem_cons, List.not_mem_nil, or_false] at member
    rcases member with rfl | rfl | rfl
    · exact fromGuest_missing up free (new _) timely lost
    · exact fromGuest_missing up free (new _) timely lost
    · exact fromGuest_missing up free (new _) timely lost

theorem tableOk_congr {s t : State} {p : Fin 16} (same : t.partHas p = s.partHas p) (frame : Nat) : t.tableOk p frame = s.tableOk p frame := by
  have unfolded : @State.tableOk = @State.tableOk := rfl
  conv_rhs at unfolded => delta State.tableOk
  have left := congrFun (congrFun (congrFun unfolded t) p) frame
  have right := congrFun (congrFun (congrFun unfolded s) p) frame
  beta_reduce at left right
  rw [left, right, same]

theorem walk_bonnet (s : State) (b : Bonnet) (p : Fin 16) (root va : Word) :
    ({ s with bonnet := b } : State).walk p root va false = s.walk p root va false :=
  walk_congr s p (t := { s with bonnet := b }) rfl (tableOk_congr rfl) root va false

/-- The state in which a translation request with this clock is served. -/
def State.asked (s : State) (p : Fin 16) (clk : Clk) : State :=
  { s with bonnet := { s.heard clk with told := Clk.max s.bonnet.told s.parts[p].hostLc } }

theorem tellGuest_hears (s : State) (p : Fin 16) (clk : Clk) :
    (s.hears clk).tellGuest (s.hears clk).parts[p].hostLc = s.asked p clk := rfl

theorem walk_asked (s : State) (q : Fin 16) (clk : Clk) (p : Fin 16) (root va : Word) :
    (s.asked q clk).walk p root va false = s.walk p root va false := walk_bonnet s _ p root va

/-- A translation that the guest asks for is answered, or the deadline of its fault report starts (R367). -/
def State.translate (s : State) (id vf : Nat) (root va : Word) (p : Fin 16) : State :=
  if !canonical va then s
  else
    match s.walk p root va false with
    | .ok _ big frame home w =>
      s.modBonnet (fun b => { b with tlb := ⟨vf, State.tlbOf (State.asidOf root) va big frame home w⟩ :: b.tlb })
    | .precise => s
    | .replay =>
      let hi := s.cycle + 6600
      (s.modBonnet (fun b => { b with deadlines := b.deadlines ++ [⟨3, id, va, hi⟩] })).schedule hi (.guestDeadline 3)

section
variable (s : State) (id vf : Nat) (root va : Word) (p : Fin 16)

theorem translationRequest_eq (va : Stamped Word) : exec (.translationRequest id va) s = s.fromGuest (.translationRequest id va) id va.clk
    (fun s _ vf root p => (s.tellGuest s.parts[p].hostLc).translate id vf root va.val p) := rfl

theorem translate_odd (odd : canonical va = false) : s.translate id vf root va p = s := by
  rw [State.translate, odd]
  rfl

variable {s va p root} (fine : canonical va = true)
include fine

theorem translate_ok {pa : Nat} {big : Bool} {frame : BitVec 32} {home : BitVec 2} {w : Bool}
    (h : s.walk p root va false = .ok pa big frame home w) : s.translate id vf root va p =
      s.modBonnet (fun b => { b with tlb := ⟨vf, State.tlbOf (State.asidOf root) va big frame home w⟩ :: b.tlb }) := by
  rw [State.translate, fine, h]
  rfl

theorem translate_precise (h : s.walk p root va false = .precise) : s.translate id vf root va p = s := by
  rw [State.translate, fine, h]
  rfl

theorem translate_replay (h : s.walk p root va false = .replay) : s.translate id vf root va p =
    (s.modBonnet (fun b => { b with deadlines := b.deadlines ++ [⟨3, id, va, s.cycle + 6600⟩] })).schedule (s.cycle + 6600)
      (.guestDeadline 3) := by
  rw [State.translate, fine, h]
  rfl

end

theorem guestFaultRecord_eq (s : State) (id : Nat) (va : Word) (clk : Clk) : exec (.guestFaultRecord id ⟨va, clk⟩) s =
    s.fromGuest (.guestFaultRecord id ⟨va, clk⟩) id clk
      (fun s o _ root _ => (s.reported id va).coalesce id o.nib o.stroke (State.asidOf root) va 3) := rfl

theorem preemptWaits_iff (s : State) (v : Nat) : s.preemptWaits v = true ↔ ∃ d ∈ s.bonnet.deadlines, d.cause = 2 ∧ d.what = v := by
  simp [State.preemptWaits, List.any_eq_true]

/-- A packet of virtual function v is outstanding. -/
theorem outstanding_iff (s : State) (v : Nat) : s.ops.any (fun o => match o.kind with
      | .guest _ b vf _ _ => vf == v && pktField b 0 1 < 0x80
      | _ => false) = true ↔
    ∃ o ∈ s.ops, ∃ addr b root way, o.kind = .guest addr b v root way ∧ pktField b 0 1 < 0x80 := by
  rw [List.any_eq_true]
  refine exists_congr fun o => and_congr_right fun _ => ⟨fun h => ?_, fun ⟨addr, b, root, way, kind, low⟩ => ?_⟩
  · split at h
    next addr b vf root way kind =>
      rw [Bool.and_eq_true, beq_iff_eq, decide_eq_true_eq] at h
      exact ⟨addr, b, root, way, h.1 ▸ kind, h.2⟩
    · exact absurd h (by decide)
  · rw [kind]
    simpa using low

theorem guestDuties : Claims.GuestDuties := by
  intro s up free new
  refine ⟨fun id va p v x st clk => falseMessages up free new id va p v x st clk, ?_, fun p clk timely => ?_, fun v x clk timely => ?_,
    fun c => ⟨fun ⟨d, member, cause, passed⟩ => ⟨_, ?_, fenced_of_fenceGuest free c.val⟩, fun before => ?_⟩⟩
  · intro id o addr pkt vf root asid p va clk found kind hasid part timely walked told
    subst hasid
    have run := (translationRequest_eq s id ⟨va, clk⟩).trans (fromGuest_serves up free (new _) timely found kind part)
    beta_reduce at run
    rw [tellGuest_hears] at run
    refine ⟨fun odd => ?_, fun fine => ⟨fun pa big frame home w h => ?_, fun h => ?_, fun h => ?_⟩, ?_⟩
    · rw [run, translate_odd _ _ _ _ _ _ odd]
      rfl
    · rw [run, translate_ok _ _ fine ((walk_asked ..).trans h)]
      rfl
    · rw [run, translate_precise _ _ fine ((walk_asked ..).trans h)]
      rfl
    · rw [run, translate_replay _ _ fine ((walk_asked ..).trans h)]
      rfl
    · rw [guestFaultRecord_eq, fromGuest_serves up free (new _) timely found kind part]
      exact ⟨_, rfl, coalesced s ((s.hears clk).reported id va).bonnet id o.nib o.stroke (State.asidOf root) va⟩
  · have run := show exec (.invalidationAck ⟨p, clk⟩) s = execInvalidationAck ⟨p, clk⟩ s from rfl
    rw [execInvalidationAck, guestSays_true up free timely] at run
    refine ⟨_, run, rfl, rfl, fun e member => ?_, fun d member => ?_, fun d member other => ?_⟩
    · obtain ⟨member, kept⟩ := List.mem_filter.1 member
      refine ⟨member, fun vf => ?_⟩
      rw [Bool.not_eq_true', Bool.and_eq_false_iff, beq_eq_false_iff_ne] at kept
      exact kept.resolve_left (not_not.2 vf)
    · obtain ⟨-, kept⟩ := List.mem_filter.1 member
      rw [Bool.not_eq_true', Bool.and_eq_false_iff, beq_eq_false_iff_ne, beq_eq_false_iff_ne] at kept
      exact kept
    · refine List.mem_filter.2 ⟨member, ?_⟩
      rw [Bool.not_eq_true', Bool.and_eq_false_iff, beq_eq_false_iff_ne, beq_eq_false_iff_ne]
      exact other
  · intro out asked
    have run := show exec (.preemptAck v ⟨x, clk⟩) s = execPreemptAck v ⟨x, clk⟩ s from rfl
    rw [execPreemptAck, guestSays_true up free timely] at run
    refine ⟨fun bad => ⟨_, run.trans (if_pos ?_), fenced_of_hears free clk 5⟩, fun no yes => run.trans (if_neg ?_)⟩
    · rw [Bool.or_eq_true, Bool.not_eq_true', ← Bool.not_eq_true]
      exact bad.imp (outstanding_iff s v.val).2 (fun no h => no ((preemptWaits_iff s v.val).1 h))
    · rw [Bool.or_eq_true, Bool.not_eq_true', ← Bool.not_eq_true, not_or, not_not]
      exact ⟨fun h => no ((outstanding_iff s v.val).1 h), (preemptWaits_iff s v.val).2 yes⟩
  · exact congrArg _ (if_pos (List.any_eq_true.2 ⟨d, member, by simp [cause, passed]⟩))
  · refine congrArg _ (if_neg fun h => ?_)
    obtain ⟨d, member, h⟩ := List.any_eq_true.1 h
    rw [Bool.and_eq_true, beq_iff_eq, decide_eq_true_eq] at h
    exact absurd h.2 (Nat.not_le.2 (before d member h.1))

/-- Settles O58: every message of the guest acts on the state that has heard its clock; a fence answers every packet at the port. -/
theorem guestLinkAndDuties : Obligations.GuestLinkAndDuties := ⟨bonnetLink, guestDuties⟩

end Sys2Proof.Machine
end

section
/-! SUPPORT. Writes of the host's registers where no border lies in the way, and host signals (14_packets.md R345, R360). -/

namespace Sys2Proof.Machine

open Sys2Proof

/-! ## Events at the borders (R360) -/

theorem take_nil (x : Part) (chan : Fin 4) (evs : List (Nat × Instr)) (asks : Bool) : x.take ⟨chan, [], evs, asks⟩ = (x, true) := rfl

/-- An event that owes nothing acts at once. -/
theorem atBorder_nil {s : State} {ev : Instr} (new : s.isThrough ev = false) (p : Fin 16) (chan : Fin 4) (act : State → State) :
    s.atBorder p chan [] ev act = act s := by
  rw [State.atBorder, if_neg (ne_true_of_eq_false new), take_nil]
  dsimp only
  rw [if_pos rfl, show s.parts.set p s.parts[p] = s.parts from Vector.set_getElem_self p.isLt]

/-- Tokens that are short for the first router leave traffic that still owes. -/
theorem payWay_short (chan : Fin 4) (held : List (Fin 16 × Fin 4)) {tokens : Vector Nat 16} {g : Fin 16} {b : Nat}
    (short : tokens[g] < b) (r : List (Fin 16 × Nat)) : (payWay chan held tokens ((g, b) :: r)).2 ≠ [] := by
  rw [payWay]
  split
  · exact List.cons_ne_nil _ _
  · rw [if_neg (Nat.not_le.2 short)]
    exact List.cons_ne_nil _ _

theorem take_short {x : Part} {chan : Fin 4} {g : Fin 16} {b : Nat} {r : List (Fin 16 × Nat)} {evs : List (Nat × Instr)} {asks : Bool}
    (short : x.tokens[g] < b) : ∃ tokens o, o ≠ [] ∧ x.take ⟨chan, (g, b) :: r, evs, asks⟩ =
      ({ x with tokens := tokens, border := x.border ++ [⟨chan, o, evs, asks⟩] }, false) := by
  have owes := payWay_short chan (x.border.flatMap Crossing.place) short r
  rw [Part.take]
  rcases paid : payWay chan (x.border.flatMap Crossing.place) x.tokens ((g, b) :: r) with ⟨tokens, o⟩
  rw [paid] at owes
  exact ⟨tokens, o, owes, if_neg (by rwa [List.isEmpty_iff])⟩

/-- An event whose tokens are short waits at the border. -/
theorem atBorder_short {s : State} {ev : Instr} (new : s.isThrough ev = false) {p : Fin 16} {chan : Fin 4} {g : Fin 16} {b : Nat}
    {r : List (Fin 16 × Nat)} (short : s.parts[p].tokens[g] < b) (act : State → State) : ∃ tokens o, o ≠ [] ∧
      s.atBorder p chan ((g, b) :: r) ev act = s.modPart p (fun x => { x with
        tokens := tokens, border := x.border ++ [⟨chan, o, [(s.cycle, ev)], true⟩] }) := by
  obtain ⟨tokens, o, owes, taken⟩ := take_short (chan := chan) (r := r) (evs := [(s.cycle, ev)]) (asks := true) short
  refine ⟨tokens, o, owes, ?_⟩
  rw [State.atBorder, if_neg (ne_true_of_eq_false new), taken]
  rfl

theorem owing_of_noBorders {s : State} (clear : s.NoBorders) {p f : Fin 16} (has : s.partHas p f = true) (out : Bool) (bytes : Nat) :
    s.owing p f out bytes = [] := owing_of_route (clear p f has) out bytes

theorem settleEvent_of_free {s t : State} {ev : Instr} (free : t.TollFree) : s.settleEvent ev t = t.dropThrough ev := by
  have due : (List.finRange 16).filter (fun i => !t.parts[i].toll.isEmpty) = [] := by
    rw [List.filter_eq_nil_iff]
    intro i _
    rw [free i]
    exact Bool.false_ne_true
  simp only [State.settleEvent, due, List.find?_nil, List.foldl_nil, noTolls_of_tollFree free]

theorem dropThrough_frame (s : State) (ev : Instr) : ∃ parts, s.dropThrough ev = { s with parts := parts } := by
  rw [State.dropThrough]
  split
  · exact ⟨_, rfl⟩
  · exact ⟨s.parts, rfl⟩

/-! ## Signals (R312) -/

section
variable (s : State) (n : NibId) (code : Nat)

theorem setTip_frame : ∃ nibs, s.setTip n code = { s with nibs := nibs } := ⟨_, rfl⟩

/-- The signal changes `tip` of stroke 7 of its nib. -/
theorem stroke_setTip_same : (s.setTip n code).stroke n 7 = { s.stroke n 7 with ctx := { (s.stroke n 7).ctx with
    c := { (s.stroke n 7).ctx.c with tip := (s.stroke n 7).ctx.c.tip ||| BitVec.twoPow 64 code } } } := by
  rw [State.setTip, State.modCtxAt, State.stroke_modStroke_same]
  rw [State.stroke, State.nib_modNib_same]
  rfl

theorem stroke_setTip_ne {m : NibId} {k : Fin 8} (h : m ≠ n ∨ k ≠ 7) : (s.setTip n code).stroke m k = s.stroke m k := by
  rw [State.setTip, State.modCtxAt, State.stroke_modStroke_ne _ _ _ _ _ _ h]
  by_cases same : m = n
  · rw [same, State.stroke, State.nib_modNib_same]
    rfl
  · rw [State.stroke, State.nib_modNib_ne _ _ _ _ same]
    rfl

end

/-- Code 11 of `tip` of stroke 7 of every nib in a list. -/
def State.signal (s : State) (l : List NibId) : State := l.foldl (fun s n => s.setTip n 11) s

theorem signal_frame (l : List NibId) (s : State) : ∃ nibs, s.signal l = { s with nibs := nibs } := by
  induction l generalizing s with
  | nil => exact ⟨s.nibs, rfl⟩
  | cons n l ih =>
    obtain ⟨nibs, h⟩ := ih (s.setTip n 11)
    exact ⟨nibs, h⟩

/-- Stroke x with bit 11 of `tip` set. -/
def Stroke.signalled (x : Stroke) : Stroke :=
  { x with ctx := { x.ctx with c := { x.ctx.c with tip := x.ctx.c.tip ||| BitVec.twoPow 64 11 } } }

theorem signalled_signalled (x : Stroke) : x.signalled.signalled = x.signalled := by
  simp [Stroke.signalled, BitVec.or_assoc]

theorem stroke_signal (l : List NibId) (s : State) (n : NibId) :
    (s.signal l).stroke n 7 = if n ∈ l then (s.stroke n 7).signalled else s.stroke n 7 := by
  induction l generalizing s with
  | nil => rfl
  | cons m l ih =>
    rw [State.signal, List.foldl_cons, ← State.signal, ih]
    by_cases same : n = m
    · subst same
      rw [if_pos (List.mem_cons_self : n ∈ n :: l), show (s.setTip n 11).stroke n 7 = (s.stroke n 7).signalled from stroke_setTip_same s n 11,
        signalled_signalled, ite_self]
    · rw [stroke_setTip_ne s m 11 (.inl same)]
      simp only [List.mem_cons, same, false_or]

theorem stroke_signal_ne (l : List NibId) (s : State) (n : NibId) {k : Fin 8} (h : k ≠ 7) : (s.signal l).stroke n k = s.stroke n k := by
  induction l generalizing s with
  | nil => rfl
  | cons m l ih => rw [State.signal, List.foldl_cons, ← State.signal, ih, stroke_setTip_ne s m 11 (.inr h)]


/-- The nibs of a partition's folios. -/
def State.everyNib (s : State) (p : Fin 16) : List NibId :=
  (s.foliosOf p).flatMap (fun f => (List.range 4096).map (fun o => (Fin.ofNat 65536 (f.val * 4096 + o) : NibId)))

/-- The nib that the word of HOSTSIG names. -/
def namedNib (x : BitVec 64) : NibId := Fin.ofNat 65536 (x.setWidth 16).toNat

/-- The nibs of a partition that the word of HOSTSIG names (R312). -/
def State.hearers (s : State) (p : Fin 16) (x : BitVec 64) : List NibId :=
  if x.getLsbD 63 then s.everyNib p
  else if s.partHas p (State.folioOf (namedNib x)) && s.nibNumber (namedNib x) == x.setWidth 32 then [namedNib x] else []

/-- What HOSTSIG owes on its way to them. -/
def State.signalOwes (s : State) (p : Fin 16) (x : BitVec 64) : List (Fin 16 × Nat) :=
  (s.foliosOf p).flatMap (fun f => if (s.hearers p x).any (fun n => State.folioOf n == f) then s.owing p f false 64 else [])

theorem hostsig_eq {s : State} {v : Fin 17} {x : BitVec 64} {p : Fin 16} (part : s.partOfVf v = some p) :
    exec (.hostsig v x) s = .next (s.atBorder p 1 (s.signalOwes p x) (.hostsig v x) (fun t => t.signal (s.hearers p x))) := by
  have run := show exec (.hostsig v x) s = execHostsig v x s from rfl
  rw [execHostsig, part] at run
  exact run

theorem mem_foliosOf {s : State} {p f : Fin 16} : f ∈ s.foliosOf p ↔ s.partHas p f = true := by
  simp [State.foliosOf, List.mem_filter]

theorem nodup_foliosOf (s : State) (p : Fin 16) : (s.foliosOf p).Nodup := (List.nodup_finRange 16).filter _

theorem mem_everyNib {s : State} {p : Fin 16} {n : NibId} : n ∈ s.everyNib p ↔ s.partHas p (State.folioOf n) = true := by
  have own : ∀ (f : Fin 16) (o : Nat), o < 4096 → State.folioOf (Fin.ofNat 65536 (f.val * 4096 + o)) = f := by
    intro f o ho
    have := f.isLt
    apply Fin.ext
    simp only [State.folioOf, Fin.val_ofNat]
    omega
  simp only [State.everyNib, List.mem_flatMap, List.mem_map, List.mem_range, mem_foliosOf]
  constructor
  · rintro ⟨f, has, o, ho, rfl⟩
    rw [own f o ho]
    exact has
  · intro has
    refine ⟨_, has, n.val % 4096, Nat.mod_lt _ (by decide), ?_⟩
    have := n.isLt
    apply Fin.ext
    simp only [State.folioOf, Fin.val_ofNat]
    omega

theorem nibNumber_low (s : State) (n : NibId) : (s.nibNumber n).toNat % 65536 = n.val := by
  have := n.isLt
  rw [State.nibNumber, BitVec.toNat_append, BitVec.toNat_ofNat, ← Nat.shiftLeft_add_eq_or_of_lt (Nat.mod_lt _ (by decide)), Nat.shiftLeft_eq]
  omega

theorem namedNib_of {s : State} {n : NibId} {x : BitVec 64} (h : s.nibNumber n = x.setWidth 32) : namedNib x = n := by
  have low := nibNumber_low s n
  rw [h, BitVec.toNat_setWidth] at low
  apply Fin.ext
  rw [namedNib, Fin.val_ofNat, BitVec.toNat_setWidth]
  omega

/-- Who hears a signal: the nibs of the partition that its word names. -/
theorem mem_hearers {s : State} {p : Fin 16} {x : BitVec 64} {n : NibId} : n ∈ s.hearers p x ↔
    s.partHas p (State.folioOf n) = true ∧ (x.getLsbD 63 = true ∨ s.nibNumber n = x.setWidth 32) := by
  rw [State.hearers]
  by_cases every : x.getLsbD 63 = true
  · rw [if_pos every, mem_everyNib]
    simp [every]
  · rw [if_neg every]
    constructor
    · intro member
      split at member
      next named =>
        rw [Bool.and_eq_true, beq_iff_eq] at named
        rw [List.mem_singleton.1 member]
        exact ⟨named.1, .inr named.2⟩
      · exact absurd member List.not_mem_nil
    · rintro ⟨has, named⟩
      have number := named.resolve_left every
      rw [namedNib_of number, if_pos (by rw [has, number, beq_self_eq_true]; rfl)]
      exact List.mem_singleton_self n

theorem flatMap_single {α β : Type} [DecidableEq α] {l : List α} (nodup : l.Nodup) {a : α} (h : a ∈ l) (g : α → List β) :
    l.flatMap (fun f => if a = f then g f else []) = g a := by
  induction l with
  | nil => exact absurd h List.not_mem_nil
  | cons b l ih =>
    rw [List.nodup_cons] at nodup
    rw [List.flatMap_cons]
    by_cases same : a = b
    · subst same
      have rest : l.flatMap (fun f => if a = f then g f else []) = [] := by
        rw [List.flatMap_eq_nil_iff]
        intro f hf
        exact if_neg (fun e : a = f => nodup.1 (e ▸ hf))
      rw [if_pos rfl, rest, List.append_nil]
    · rw [if_neg same, List.nil_append]
      exact ih nodup.2 ((List.mem_cons.1 h).resolve_left same)

theorem signalOwes_one {s : State} {p : Fin 16} {x : BitVec 64} {n : NibId} (one : x.getLsbD 63 = false)
    (has : s.partHas p (State.folioOf n) = true) (number : s.nibNumber n = x.setWidth 32) :
    s.signalOwes p x = s.owing p (State.folioOf n) false 64 := by
  have hears : s.hearers p x = [n] := by
    rw [State.hearers, if_neg (ne_true_of_eq_false one), namedNib_of number, if_pos (by rw [has, number, beq_self_eq_true]; rfl)]
  rw [State.signalOwes, hears]
  simp only [List.any_cons, List.any_nil, Bool.or_false, beq_iff_eq]
  exact flatMap_single (nodup_foliosOf s p) (mem_foliosOf.2 has) (fun f => s.owing p f false 64)

theorem signalOwes_of_noBorders {s : State} (clear : s.NoBorders) (p : Fin 16) (x : BitVec 64) : s.signalOwes p x = [] := by
  rw [State.signalOwes, List.flatMap_eq_nil_iff]
  intro f hf
  rw [owing_of_noBorders clear (mem_foliosOf.1 hf), ite_self]


/-! ## Replays (R344) -/

/-- The replay of v stands at `r`. -/
def State.putReplay (s : State) (v : Fin 17) (r : Option Replay) : State := { s with vfs := s.vfs.set v { s.vfs[v] with replay := r } }

theorem vfs_putReplay (s : State) (v : Fin 17) (r : Option Replay) : (s.putReplay v r).vfs[v] = { s.vfs[v] with replay := r } :=
  Vector.getElem_set_self _

theorem queue_putReplay (s : State) (v : Fin 17) (r : Option Replay) (q : Fin 64) : (s.putReplay v r).queue v q = s.queue v q := by
  rw [State.queue, vfs_putReplay]
  rfl

theorem vfs_setQueue (s : State) (v : Fin 17) (q : Fin 64) (x : Queue) :
    (s.setQueue v q x).vfs[v] = { s.vfs[v] with queues := (q, x) :: s.vfs[v].queues.filter (·.1 != q) } := Vector.getElem_set_self _

theorem queue_setQueue (s : State) (v : Fin 17) (q : Fin 64) (x : Queue) : (s.setQueue v q x).queue v q = x := by
  rw [State.queue, vfs_setQueue, List.lookup_cons_self]
  rfl

theorem queue_modQueue (s : State) (v : Fin 17) (q : Fin 64) (f : Queue → Queue) : (s.modQueue v q f).queue v q = f (s.queue v q) :=
  queue_setQueue ..

theorem replay_modQueue (s : State) (v : Fin 17) (q : Fin 64) (f : Queue → Queue) : (s.modQueue v q f).vfs[v].replay = s.vfs[v].replay := by
  rw [State.modQueue, vfs_setQueue]

/-- The packet of a replay that stands at `pos` of its area. -/
def State.capturedPacket (s : State) (r : Replay) : BitVec 512 := BitVec.ofNat 512 (Memory.read s.hostMem (r.area.toNat + r.pos + 64) 64)

/-- The replay once it has issued that packet as `id`. -/
def State.replayAfter (s : State) (r : Replay) (id : Nat) : Replay :=
  { r with pos := r.pos + 64 + (Memory.read s.hostMem (r.area.toNat + r.pos + 8) 8 + 63) / 64 * 64, waitFor := some id }

/-- The captured packet, issued again. -/
def State.reissued (s : State) (v : Fin 17) (r : Replay) : Packet :=
  ⟨s.nextId, 0, s.capturedPacket r, false, false, false,
    (({ s with nextId := s.nextId + 1 } : State).putReplay v (some (s.replayAfter r s.nextId))).queueClk v 0, s.cycle, 0, false⟩

/-- The captured packet is issued again. -/
def State.reissue (s : State) (v : Fin 17) (r : Replay) : State :=
  (({ s with nextId := s.nextId + 1 } : State).putReplay v (some (s.replayAfter r s.nextId))).modQueue v 0 (fun y => { y with
    pkts := y.pkts ++ [s.reissued v r] })

/-- A replay that comes to a captured packet issues it again. -/
theorem replayStep_packet {s : State} {v : Fin 17} {r : Replay} (replay : s.vfs[v].replay = some r) (fuel : Nat)
    (more : r.pos + 64 ≤ Memory.read s.hostMem (r.area.toNat + 8) 8) (packet : Memory.read s.hostMem (r.area.toNat + r.pos) 1 = 1) :
    ∃ c, s.cycle ≤ c ∧ s.replayStep v (fuel + 1) = { s.reissue v r with
      fresh := s.fresh + 1, agenda := s.agenda ++ [(c, pktEvent (s.capturedPacket r) s.nextId)] } := by
  obtain ⟨c, low, free⟩ := freeCycle_none (s.reissue v r) s.cycle
  refine ⟨c, low, ?_⟩
  have step : s.replayStep v (fuel + 1) =
      (let (c, t) := (s.reissue v r).freeCycle s.cycle none; t.schedule c (pktEvent (s.capturedPacket r) s.nextId)) := by
    rw [State.replayStep, replay]
    dsimp only
    rw [if_neg (Nat.not_lt.2 more), packet]
    rfl
  rw [step, free]
  rfl

theorem rplctl_starts {s : State} {v : Fin 17} {x : BitVec 64} (on : x.getLsbD 0 = true) (owner : v = 0 ∨ (s.partOfVf v).isSome = true) :
    exec (.rplctl v x) s = .next (s.settleEvent (.rplctl v x)
      ((s.noTolls.putReplay v (some ⟨x &&& ~~~ 1, 64, 0, none, []⟩)).replayStep v 65536)) := by
  have same : s.noTolls.partOfVf v = s.partOfVf v := by
    simp only [State.partOfVf, noTolls_part]
  have run := show exec (.rplctl v x) s = execRplctl v x s from rfl
  rw [execRplctl, if_pos ⟨on, by rwa [same]⟩] at run
  exact run

theorem tollFree_of_parts {s t : State} (free : s.TollFree) (parts : t.parts = s.parts) : t.TollFree := fun p => by
  rw [parts]
  exact free p

theorem pkts_reissue (s : State) (v : Fin 17) (r : Replay) :
    ((s.reissue v r).queue v 0).pkts = (s.queue v 0).pkts ++ [s.reissued v r] := by
  rw [State.reissue, queue_modQueue, queue_putReplay]
  rfl

theorem replay_reissue (s : State) (v : Fin 17) (r : Replay) : (s.reissue v r).vfs[v].replay = some (s.replayAfter r s.nextId) := by
  rw [State.reissue, replay_modQueue, vfs_putReplay]

/-- The state in which a replay begins, and the replay. -/
def State.rewound (s : State) (v : Fin 17) (x : BitVec 64) : State := s.noTolls.putReplay v (some ⟨x &&& ~~~ 1, 64, 0, none, []⟩)

theorem rplctl_issues {s : State} {v : Fin 17} {x : BitVec 64} (on : x.getLsbD 0 = true) (owner : v = 0 ∨ (s.partOfVf v).isSome = true)
    (more : 128 ≤ Memory.read s.hostMem ((x &&& ~~~ 1).toNat + 8) 8) (packet : Memory.read s.hostMem ((x &&& ~~~ 1).toNat + 64) 1 = 1) :
    ∃ c parts, s.cycle ≤ c ∧ exec (.rplctl v x) s = .next { (s.rewound v x).reissue v ⟨x &&& ~~~ 1, 64, 0, none, []⟩ with
      parts := parts, fresh := s.fresh + 1
      agenda := s.agenda ++ [(c, pktEvent ((s.rewound v x).capturedPacket ⟨x &&& ~~~ 1, 64, 0, none, []⟩) s.nextId)] } := by
  obtain ⟨c, low, step⟩ := replayStep_packet (s := s.rewound v x) (v := v) (r := ⟨x &&& ~~~ 1, 64, 0, none, []⟩)
    (by rw [State.rewound, vfs_putReplay]) 65535 more packet
  have run := (rplctl_starts on owner).trans (congrArg (fun t => Host.Outcome.next (s.settleEvent (.rplctl v x) t)) step)
  have free : ((s.rewound v x).replayStep v 65536).TollFree := by
    rw [step]
    exact tollFree_of_parts (noTolls_tollFree s) rfl
  rw [step] at free
  rw [settleEvent_of_free free] at run
  generalize whole : ({ (s.rewound v x).reissue v ⟨x &&& ~~~ 1, 64, 0, none, []⟩ with
      fresh := (s.rewound v x).fresh + 1
      agenda := (s.rewound v x).agenda ++ [(c, pktEvent ((s.rewound v x).capturedPacket ⟨x &&& ~~~ 1, 64, 0, none, []⟩)
        (s.rewound v x).nextId)] } : State) = t at run
  obtain ⟨parts, dropped⟩ := dropThrough_frame t (.rplctl v x)
  refine ⟨c, parts, low, run.trans (congrArg _ (dropped.trans ?_))⟩
  rw [← whole]
  rfl

theorem hostSignals : Claims.HostSignals := by
  intro s v x
  refine ⟨fun idle => ?_, fun on owner area n b hArea hn hb more packet => ?_, fun part => ?_, fun p n g r part new one has number owes short => ?_,
    fun p part clear => ?_⟩
  · have same : s.noTolls.partOfVf v = s.partOfVf v := by
      simp only [State.partOfVf, noTolls_part]
    have run := show exec (.rplctl v x) s = execRplctl v x s from rfl
    refine run.trans (if_neg ?_)
    rintro ⟨on, owner⟩
    rcases idle with off | ⟨other, none_⟩
    · exact absurd on (ne_true_of_eq_false off)
    · rcases owner with zero | some_
      · exact other zero
      · rw [same, none_] at some_
        exact absurd some_ (by decide)
  · subst hArea hn hb
    obtain ⟨c, parts, low, run⟩ := rplctl_issues on owner more packet
    have pkts := pkts_reissue (s.rewound v x) v ⟨x &&& ~~~ 1, 64, 0, none, []⟩
    have replay := replay_reissue (s.rewound v x) v ⟨x &&& ~~~ 1, 64, 0, none, []⟩
    rw [State.rewound, queue_putReplay] at pkts
    exact ⟨_, c, _, run, rfl, rfl, rfl, low, rfl, pkts, rfl, rfl, replay⟩
  · have run := show exec (.hostsig v x) s = execHostsig v x s from rfl
    rw [execHostsig, part] at run
    exact run
  · rw [hostsig_eq part, signalOwes_one one has number, owes]
    obtain ⟨tokens, o, rest, waits⟩ := atBorder_short new (chan := 1) (r := r) short (fun t => t.signal (s.hearers p x))
    refine ⟨_, o, congrArg _ waits, rfl, rfl, rest, ?_⟩
    exact congrArg Part.border (modPart_same s p _)
  · rw [hostsig_eq part, signalOwes_of_noBorders clear]
    obtain ⟨parts, acts⟩ : ∃ parts, s.atBorder p 1 [] (.hostsig v x) (fun t => t.signal (s.hearers p x)) =
        ({ s with parts := parts } : State).signal (s.hearers p x) := by
      by_cases through : s.isThrough (.hostsig v x) = true
      · obtain ⟨parts, dropped⟩ := dropThrough_frame s (.hostsig v x)
        exact ⟨parts, (if_pos through).trans (by rw [dropped])⟩
      · exact ⟨s.parts, atBorder_nil (eq_false_of_ne_true through) ..⟩
    rw [acts]
    obtain ⟨nibs, frame⟩ := signal_frame (s.hearers p x) ({ s with parts := parts } : State)
    refine ⟨_, rfl, ?_, ?_, fun n => ⟨fun named => ?_, fun named => ?_, fun k hk => ?_⟩⟩
    · rw [frame]
    · rw [frame]
    · rw [stroke_signal, if_pos (mem_hearers.2 named)]
      rfl
    · rw [stroke_signal, if_neg (fun h => named (mem_hearers.1 h))]
      rfl
    · rw [stroke_signal_ne _ _ _ hk]
      rfl


/-! ## Writes at BAR0 (R345, R384) -/

theorem newEventsFirst_same {s t : State} (h : t.agenda = s.agenda) : t.newEventsFirst s.agenda.length = t := by
  rw [State.newEventsFirst, h, List.drop_length, List.take_length, List.nil_append, ← h]

/-- An event made due by a register write comes before those that were due. -/
theorem newEventsFirst_schedule (s : State) (c : Nat) (e : Instr) :
    (s.schedule c e).newEventsFirst s.agenda.length = { s with agenda := (c, e) :: s.agenda } := by
  rw [State.newEventsFirst, State.schedule]
  simp

theorem bar0Owing_of_noBorders {s : State} (clear : s.NoBorders) (v : Fin 17) (off n : Nat) : (s.bar0Owing v off n).2 = [] := by
  rw [State.bar0Owing]
  split
  · dsimp only
    split
    next inside => exact owing_of_noBorders clear inside.2.2 ..
    · rfl
  · rfl

/-- A host write with no border in its way is made at once. -/
theorem registerWrite_eq {s : State} (new : ∀ e, s.isThrough e = false) (clear : s.NoBorders) (v : Fin 17) (off : BitVec 28) (n : Fin 4)
    (x : Word) : exec (.registerWrite v off ⟨n, x⟩) s =
      .next ((s.bar0Store v off.toNat (2 ^ n.val) x.toNat).newEventsFirst s.agenda.length) := by
  have run := show exec (.registerWrite v off ⟨n, x⟩) s = execRegisterWrite v off ⟨n, x⟩ s from rfl
  rw [execRegisterWrite] at run
  have owes := bar0Owing_of_noBorders clear v off.toNat (2 ^ n.val)
  rcases way : s.bar0Owing v off.toNat (2 ^ n.val) with ⟨p, l⟩
  rw [way] at owes
  subst owes
  dsimp only at run
  rw [way] at run
  dsimp only at run
  rw [atBorder_nil (new _)] at run
  exact run

section
variable {s : State} {v : Fin 17} {o : Nat} {x : Word}

theorem setBits_whole (w x : Word) : setBits w 0 64 x.toNat = x := by
  apply BitVec.eq_of_getLsbD_eq
  intro i hi
  rw [getLsbD_setBits w 0 64 _ hi, if_pos (by omega), Nat.sub_zero, BitVec.testBit_toNat]

/-- A host write of a whole register writes it. -/
theorem bar0Store_whole (aligned : o % 8 = 0) (other : o < 0x20000 ∨ 0x21000 ≤ o) (below : o < 0x8000000) :
    s.bar0Store v o 8 x.toNat = s.bar0Write v o x := by
  rw [State.bar0Store, if_neg (by omega), if_neg (by omega), if_neg (by omega), aligned, Nat.mul_zero, setBits_whole]

/-- In recovery, only the physical function answers. -/
theorem bar0Write_recovering (recov : s.modu.recov = true) (other : v ≠ 0) : s.bar0Write v o x = s := by
  rw [State.bar0Write, if_pos (by simp [recov, other])]

variable (answers : s.modu.recov = false ∨ v = 0)
include answers

theorem answers_cond : ¬ (s.modu.recov && v != 0) = true := by
  rcases answers with h | h <;> simp [h]

theorem bar0Write_replay (h : o / 8 * 8 = 0x800) : s.bar0Write v o x = s.schedule s.cycle (.rplctl v x) := by
  rw [State.bar0Write, if_neg (answers_cond answers), if_pos h]

theorem bar0Write_signal (h : o / 8 * 8 = 0x810) : s.bar0Write v o x = s.schedule s.cycle (.hostsig v x) := by
  rw [State.bar0Write, if_neg (answers_cond answers), if_neg (by omega), if_pos h]

theorem bar0Write_part {p : Fin 16} (part : s.partOfVf v = some p) (low : 0x1000 ≤ o / 8 * 8) (high : o / 8 * 8 < 0x2000) :
    s.bar0Write v o x = s.partWrite p (o / 8 * 8 - 0x1000) x := by
  rw [State.bar0Write, if_neg (answers_cond answers), if_neg (by omega), if_neg (by omega), if_pos ⟨low, high⟩, part]

theorem bar0Write_queue {q : Fin 64} (own : v = 0 → q = 0) {r : Nat} (hr : r < 0x40) (h : o / 8 * 8 = 0x10000 + 0x40 * q.val + r) :
    s.bar0Write v o x = s.queueWrite v q r x := by
  have := q.isLt
  have number : (Fin.ofNat 64 ((o / 8 * 8 - 0x10000) / 0x40) : Fin 64) = q := by
    apply Fin.ext
    rw [Fin.val_ofNat]
    omega
  have place : o / 8 * 8 % 0x40 = r := by omega
  rw [State.bar0Write, if_neg (answers_cond answers), if_neg (by omega), if_neg (by omega), if_neg (by omega), if_pos (by omega), number,
    place, if_neg (fun h => h.2 (own h.1))]

theorem bar0Write_launch {q : Fin 64} (own : v = 0 → q = 0) (low : 0x20000 + 0x40 * q.val ≤ o) (high : o < 0x20040 + 0x40 * q.val) :
    s.bar0Write v o x = s.modQueue v q (fun y => { y with dropw := true }) := by
  have := q.isLt
  have number : (Fin.ofNat 64 ((o / 8 * 8 - 0x20000) / 0x40) : Fin 64) = q := by
    apply Fin.ext
    rw [Fin.val_ofNat]
    omega
  rw [State.bar0Write, if_neg (answers_cond answers), if_neg (by omega), if_neg (by omega), if_neg (by omega), if_neg (by omega),
    if_pos (by omega), number, if_neg (fun h => h.2 (own h.1))]

/-- Rows of the physical function alone are ignored elsewhere. -/
theorem bar0Write_other (high : 0x5000000 ≤ o / 8 * 8) (other : v ≠ 0) : s.bar0Write v o x = s := by
  rw [State.bar0Write, if_neg (answers_cond answers), if_neg (by omega), if_neg (by omega), if_neg (by omega), if_neg (by omega),
    if_neg (by omega), if_neg (by omega), if_pos other]

omit answers in
theorem bar0Write_recovery (h : o / 8 * 8 = 0x7000010) : s.bar0Write 0 o x = s.schedule s.cycle (.recoveryControl x) := by
  rw [State.bar0Write, if_neg (answers_cond (.inr rfl)), if_neg (by omega), if_neg (by omega), if_neg (by omega), if_neg (by omega),
    if_neg (by omega), if_neg (by omega), if_neg (by decide), if_neg (by omega), if_pos h]

omit answers in
theorem bar0Write_bonctl (h : o / 8 * 8 = 0x6000000) : s.bar0Write 0 o x = s.bonctlWrite x := by
  rw [State.bar0Write, if_neg (answers_cond (.inr rfl)), if_neg (by omega), if_neg (by omega), if_neg (by omega), if_neg (by omega),
    if_neg (by omega), if_neg (by omega), if_neg (by decide), if_pos h]

end


/-! ## The attestation mailbox (R374) -/

/-- Word i of the nonce replaced by x. -/
def nonceWith (w : BitVec 256) (i : Nat) (x : Word) : BitVec 256 :=
  BitVec.ofNat 256 (w.toNat - (w.toNat / 2 ^ (64 * i) % 2 ^ 64) * 2 ^ (64 * i) + x.toNat * 2 ^ (64 * i))

theorem getLsbD_nonceWith (w : BitVec 256) (i : Nat) (x : Word) {k : Nat} (hk : k < 256) :
    (nonceWith w i x).getLsbD k = if 64 * i ≤ k ∧ k < 64 * i + 64 then x.getLsbD (k - 64 * i) else w.getLsbD k := by
  rw [nonceWith]
  generalize 64 * i = lo
  have replaced : w.toNat - w.toNat / 2 ^ lo % 2 ^ 64 * 2 ^ lo + x.toNat * 2 ^ lo =
      2 ^ lo * (2 ^ 64 * (w.toNat / 2 ^ lo / 2 ^ 64) + x.toNat) + w.toNat % 2 ^ lo := by
    have split : w.toNat = 2 ^ lo * (2 ^ 64 * (w.toNat / 2 ^ lo / 2 ^ 64) + w.toNat / 2 ^ lo % 2 ^ 64) + w.toNat % 2 ^ lo := by
      rw [Nat.div_add_mod, Nat.div_add_mod]
    rw [Nat.mul_add] at split ⊢
    rw [Nat.mul_comm _ (2 ^ lo), Nat.mul_comm _ (2 ^ lo)]
    omega
  rw [replaced, BitVec.getLsbD_ofNat, decide_eq_true hk, Bool.true_and, Nat.testBit_two_pow_mul_add _ (Nat.mod_lt _ (Nat.two_pow_pos _)),
    Nat.testBit_two_pow_mul_add _ x.isLt, ← BitVec.testBit_toNat, ← BitVec.testBit_toNat]
  by_cases below : k < lo
  · rw [if_pos below, if_neg (by omega), Nat.testBit_mod_two_pow, decide_eq_true below, Bool.true_and]
  · rw [if_neg below]
    by_cases inside : k - lo < 64
    · rw [if_pos inside, if_pos (by omega)]
    · rw [if_neg inside, if_neg (by omega), Nat.testBit_div_two_pow, Nat.testBit_div_two_pow]
      congr 1; omega

/-- The other words of the nonce stand. -/
theorem extract_nonceWith (w : BitVec 256) (i j : Fin 4) (x : Word) :
    (nonceWith w i.val x).extractLsb' (64 * j.val) 64 = if j = i then x else w.extractLsb' (64 * j.val) 64 := by
  have := i.isLt
  have := j.isLt
  apply BitVec.eq_of_getLsbD_eq
  intro k hk
  rw [BitVec.getLsbD_extractLsb', decide_eq_true hk, Bool.true_and, getLsbD_nonceWith _ _ _ (by omega)]
  by_cases same : j = i
  · subst same
    rw [if_pos (by omega), if_pos rfl, Nat.add_sub_cancel_left]
  · have apart : j.val ≠ i.val := fun e => same (Fin.ext e)
    rw [if_neg (by omega), if_neg same, BitVec.getLsbD_extractLsb', decide_eq_true hk, Bool.true_and]

theorem bar0Write_nonce {s : State} {o : Nat} {x : Word} (i : Fin 4) (h : o / 8 * 8 = 0x7000100 + 8 * i.val) :
    s.bar0Write 0 o x = if i = 3 then
      ({ s with modu := { s.modu with nonce := nonceWith s.modu.nonce i.val x } } : State).schedule s.cycle
        (.attest (nonceWith s.modu.nonce i.val x))
    else { s with modu := { s.modu with nonce := nonceWith s.modu.nonce i.val x } } := by
  have := i.isLt
  have number : (o / 8 * 8 - 0x7000100) / 8 = i.val := by omega
  have last : i.val = 3 ↔ i = 3 := ⟨fun e => Fin.ext e, fun e => congrArg Fin.val e⟩
  rw [State.bar0Write, if_neg (answers_cond (.inr rfl)), if_neg (by omega), if_neg (by omega), if_neg (by omega), if_neg (by omega),
    if_neg (by omega), if_neg (by omega), if_neg (by decide), if_neg (by omega), if_neg (by omega), if_pos (by omega)]
  simp only [number, last]
  rfl

/-! ## Registers of a partition -/

section
variable (s : State) (p : Fin 16) (x : Word)

theorem partWrite_inval : s.partWrite p 0 x = s.schedule s.cycle (.inval p x) := rfl

theorem partWrite_lease : s.partWrite p 0x10 x = if getBits x 0 13 = 0 ∨ 4096 < getBits x 0 13 then s
    else s.modPart p (fun y => { y with lease := BitVec.ofNat 13 (getBits x 0 13) }) := rfl

theorem partWrite_ert : s.partWrite p 0x18 x = if 4096 < getBits x 0 13 then s
    else s.modPart p (fun y => { y with ertFrame := x.extractLsb' 16 32, nexp := x.extractLsb' 0 13 }) := rfl

theorem partWrite_barwd : s.partWrite p 0x300 x = if getBits x 0 6 < 16 ∨ 40 < getBits x 0 6 then s
    else s.modPart p (fun y => { y with barwd := BitVec.ofNat 6 (getBits x 0 6) }) := rfl

theorem partWrite_tbase : s.partWrite p 0x600 x = s.schedule s.cycle (.tbase p x) := rfl

theorem partWrite_tsize : s.partWrite p 0x608 x = s.schedule s.cycle (.tsize p x) := rfl

theorem partWrite_tsamp : s.partWrite p 0x618 x = if getBits x 0 6 = 0 ∨ (8 ≤ getBits x 0 6 ∧ getBits x 0 6 ≤ 40) then
    s.modPart p (fun y => { y with tsamp := BitVec.ofNat 6 (getBits x 0 6) }) else s := rfl

theorem partWrite_invstat : s.partWrite p 8 x = s := rfl

theorem partWrite_tstat : s.partWrite p 0x610 x = s := rfl

theorem partWrite_pub (e : Fin 16) {r : Nat} (hr : r < 3) : s.partWrite p (0x100 + 32 * e.val + 8 * r) x =
    s.modPart p (fun y => { y with pubs := y.pubs.set e (State.Pub.writeReg y.pubs[e] (8 * r) x) }) := by
  have := e.isLt
  have number : (Fin.ofNat 16 ((0x100 + 32 * e.val + 8 * r - 0x100) / 32) : Fin 16) = e := by
    apply Fin.ext
    rw [Fin.val_ofNat]
    omega
  have place : ∀ y : Pub, State.Pub.writeReg y (0x100 + 32 * e.val + 8 * r) x = State.Pub.writeReg y (8 * r) x := by
    intro y
    rw [State.Pub.writeReg, State.Pub.writeReg, show (0x100 + 32 * e.val + 8 * r) / 8 % 4 = 8 * r / 8 % 4 by omega]
  rw [State.partWrite, if_neg (by omega), if_neg (by omega), if_neg (by omega), if_pos (by omega), if_neg (by omega)]
  simp only [number, place]

theorem partWrite_pctl (e : Fin 16) : s.partWrite p (0x118 + 32 * e.val) x = s.schedule s.cycle (.pctl p e x) := by
  have := e.isLt
  have number : (Fin.ofNat 16 ((0x118 + 32 * e.val - 0x100) / 32) : Fin 16) = e := by
    apply Fin.ext
    rw [Fin.val_ofNat]
    omega
  rw [State.partWrite, if_neg (by omega), if_neg (by omega), if_neg (by omega), if_pos (by omega), if_pos (by omega), number]

theorem partWrite_barcfg (i : Fin 64) : s.partWrite p (0x400 + 8 * i.val) x = s.schedule s.cycle (.barcfg p i x) := by
  have := i.isLt
  have number : (Fin.ofNat 64 ((0x400 + 8 * i.val - 0x400) / 8) : Fin 64) = i := by
    apply Fin.ext
    rw [Fin.val_ofNat]
    omega
  rw [State.partWrite, if_neg (by omega), if_neg (by omega), if_neg (by omega), if_neg (by omega), if_neg (by omega), if_pos (by omega), number]

theorem partWrite_grpres (g : Fin 16) : s.partWrite p (0x700 + 8 * g.val) x =
    if x.getLsbD 0 then s.schedule s.cycle (.grpres p g) else s := by
  have := g.isLt
  have number : (Fin.ofNat 16 ((0x700 + 8 * g.val - 0x700) / 8) : Fin 16) = g := by
    apply Fin.ext
    rw [Fin.val_ofNat]
    omega
  rw [State.partWrite, if_neg (by omega), if_neg (by omega), if_neg (by omega), if_neg (by omega), if_neg (by omega), if_neg (by omega),
    if_neg (by omega), if_neg (by omega), if_neg (by omega), if_pos (by omega), number]

theorem partWrite_filter (i : Fin 8) : s.partWrite p (0x780 + 8 * i.val) x =
    s.modPart p (fun y => { y with filters := y.filters.set i (x &&& 0xFFFFFFFF0000000C) }) := by
  have := i.isLt
  have number : (Fin.ofNat 8 ((0x780 + 8 * i.val - 0x780) / 8) : Fin 8) = i := by
    apply Fin.ext
    rw [Fin.val_ofNat]
    omega
  rw [State.partWrite, if_neg (by omega), if_neg (by omega), if_neg (by omega), if_neg (by omega), if_neg (by omega), if_neg (by omega),
    if_neg (by omega), if_neg (by omega), if_neg (by omega), if_neg (by omega), if_pos (by omega)]
  simp only [number]

theorem partWrite_fwin (i : Fin 16) : s.partWrite p (0x800 + 8 * i.val) x =
    if x.getLsbD 0 ∧ (getBits x 8 5 = 0 ∨ 16 < getBits x 8 5) then s
    else s.modPart p (fun y => { y with fwin := y.fwin.set i ⟨x.extractLsb' 16 16, BitVec.ofNat 5 (getBits x 8 5), x.getLsbD 0⟩ }) := by
  have := i.isLt
  have number : (Fin.ofNat 16 ((0x800 + 8 * i.val - 0x800) / 8) : Fin 16) = i := by
    apply Fin.ext
    rw [Fin.val_ofNat]
    omega
  rw [State.partWrite, if_neg (by omega), if_neg (by omega), if_neg (by omega), if_neg (by omega), if_neg (by omega), if_neg (by omega),
    if_neg (by omega), if_neg (by omega), if_neg (by omega), if_neg (by omega), if_neg (by omega), if_pos (by omega)]
  simp only [number]

end


/-! ## Narrow writes (R384) -/

theorem testBit_byte (w : Word) (i j : Nat) : (w.toNat / 2 ^ (8 * i) % 256).testBit j = (decide (j < 8) && w.getLsbD (8 * i + j)) := by
  rw [show (256 : Nat) = 2 ^ 8 from rfl, Nat.testBit_mod_two_pow, Nat.testBit_div_two_pow, BitVec.testBit_toNat, Nat.add_comm]

/-- A word is its eight bytes. -/
theorem word_of_bytes {y z : Word} (h : ∀ i : Fin 8, y.toNat / 2 ^ (8 * i.val) % 256 = z.toNat / 2 ^ (8 * i.val) % 256) : y = z := by
  apply BitVec.eq_of_getLsbD_eq
  intro k hk
  have byte := congrArg (fun b => b.testBit (k % 8)) (h ⟨k / 8, by omega⟩)
  simp only [testBit_byte, show k % 8 < 8 from Nat.mod_lt _ (by decide), decide_true, Bool.true_and, Nat.div_add_mod] at byte
  exact byte

/-- The bytes of a word of which m bytes from byte a on have been replaced. -/
theorem byte_setBits (w : Word) (a m x : Nat) (i : Fin 8) : (setBits w (8 * a) (8 * m) x).toNat / 2 ^ (8 * i.val) % 256 =
    if a ≤ i.val ∧ i.val < a + m then x / 2 ^ (8 * (i.val - a)) % 256 else w.toNat / 2 ^ (8 * i.val) % 256 := by
  have := i.isLt
  refine Nat.eq_of_testBit_eq fun j => ?_
  rw [testBit_byte]
  by_cases hj : j < 8
  · rw [decide_eq_true hj, Bool.true_and, getLsbD_setBits _ _ _ _ (by omega)]
    by_cases inside : a ≤ i.val ∧ i.val < a + m
    · rw [if_pos (by omega), if_pos inside, show (256 : Nat) = 2 ^ 8 from rfl, Nat.testBit_mod_two_pow, Nat.testBit_div_two_pow, decide_eq_true hj,
        Bool.true_and]
      congr 1
      omega
    · rw [if_neg (by omega), if_neg inside, testBit_byte, decide_eq_true hj, Bool.true_and]
  · rw [decide_eq_false hj, Bool.false_and]
    split
    · rw [show (256 : Nat) = 2 ^ 8 from rfl, Nat.testBit_mod_two_pow, decide_eq_false hj, Bool.false_and]
    · rw [testBit_byte, decide_eq_false hj, Bool.false_and]

theorem regW1c_of_debug {pa o : Nat} {n : NibId} (block : regBlock (pa / 8 * 8) = .debug n o) :
    State.regW1c pa = if o < 0x80 && o % 16 = 8 then 0x600 else 0 := by
  have unfolded : State.regW1c = State.regW1c := rfl
  conv_rhs at unfolded => delta State.regW1c
  exact (congrFun unfolded pa).trans (by rw [block])

theorem regBlock_debug {pa o : Nat} (place : pa - 0xF000000000 = o) (low : 0x1000000 ≤ o) (high : o < 0x5000000) :
    regBlock pa = .debug (Fin.ofNat 65536 ((o - 0x1000000) / 0x400)) (o % 0x400) := by
  have notModule : ¬ o < 0x1000 := by omega
  have notPart : ¬ (0x100000 ≤ o ∧ o < 0x110000) := by omega
  have notBonnet : ¬ (0x200000 ≤ o ∧ o < 0x201000) := by omega
  subst place
  rw [regBlock]
  exact (if_neg notModule).trans ((if_neg notPart).trans ((if_neg notBonnet).trans (if_pos ⟨low, high⟩)))

/-- Bits of DSTAT are cleared by writing 1 (R333). -/
theorem bar0W1c_eq (off : Nat) : State.bar0W1c off =
    if 0x1000000 ≤ off ∧ off < 0x5000000 ∧ off % 0x400 < 0x80 ∧ off % 16 / 8 = 1 then 0x600 else 0 := by
  rw [State.bar0W1c]
  by_cases debug : 0x1000000 ≤ off ∧ off < 0x5000000
  · have place : (0xF001000000 + (off - 0x1000000)) / 8 * 8 - 0xF000000000 = off / 8 * 8 := by omega
    rw [if_pos debug, regW1c_of_debug (regBlock_debug place (by omega) (by omega))]
    refine if_congr ?_ rfl rfl
    rw [Bool.and_eq_true, decide_eq_true_eq, decide_eq_true_eq]
    omega
  · rw [if_neg debug, if_neg (fun h => debug ⟨h.1, h.2.1⟩)]

theorem bar0Write_rounds (s : State) (v : Fin 17) (o : Nat) (x : Word) : s.bar0Write v (o / 8 * 8) x = s.bar0Write v o x := by
  rw [State.bar0Write, State.bar0Write, show o / 8 * 8 / 8 * 8 = o / 8 * 8 by omega]

/-- A narrow write is one write of the whole register. -/
theorem bar0Store_narrow {s : State} {v : Fin 17} {off m x : Nat} (other : off < 0x20000 ∨ 0x21000 ≤ off) (below : off < 0x8000000)
    (aligned : off % m = 0) {y : Word} (bytes : ∀ i : Fin 8, y.toNat / 2 ^ (8 * i.val) % 256 =
      if off % 8 ≤ i.val ∧ i.val < off % 8 + m then x / 2 ^ (8 * (i.val - off % 8)) % 256
      else (s.bar0Read v off &&& (if 0x1000000 ≤ off ∧ off < 0x5000000 ∧ off % 0x400 < 0x80 ∧ off % 16 / 8 = 1 then ~~~ 0x600 else ~~~ 0) : Word).toNat /
        2 ^ (8 * i.val) % 256) : s.bar0Store v off m x = s.bar0Store v (off / 8 * 8) 8 y.toNat := by
  have mask : (~~~ State.bar0W1c off : Word) =
      if 0x1000000 ≤ off ∧ off < 0x5000000 ∧ off % 0x400 < 0x80 ∧ off % 16 / 8 = 1 then ~~~ 0x600 else ~~~ 0 := by
    rw [bar0W1c_eq, apply_ite (fun w : Word => ~~~ w)]
  have merged : y = setBits (s.bar0Read v off &&& ~~~ State.bar0W1c off) (8 * (off % 8)) (8 * m) x :=
    word_of_bytes fun i => by rw [bytes i, byte_setBits, mask]
  rw [bar0Store_whole (by omega) (by omega) (by omega), bar0Write_rounds, State.bar0Store, if_neg (by omega), if_neg (not_not.2 aligned),
    if_neg (by omega), ← merged]


/-! ## What a write of a whole register leaves -/

section
variable {s t : State} {v : Fin 17} {off : BitVec 28} {x : Word}

/-- The write of a register that is due. -/
def HostWrites (s : State) (v : Fin 17) (off : BitVec 28) (x : Word) (t : State) : Prop := exec (.registerWrite v off ⟨3, x⟩) s = .next t

variable (whole : HostWrites s v off x ((s.bar0Write v off.toNat x).newEventsFirst s.agenda.length))
include whole

theorem hostWrites_of (h : s.bar0Write v off.toNat x = t) (agenda : t.agenda = s.agenda) : HostWrites s v off x t := by
  rw [h, newEventsFirst_same agenda] at whole
  exact whole

theorem hostWrites_due {e : Instr} (h : s.bar0Write v off.toNat x = s.schedule s.cycle e) :
    HostWrites s v off x { s with agenda := (s.cycle, e) :: s.agenda } := by
  rw [h, newEventsFirst_schedule] at whole
  exact whole

theorem hostWrites_setQueue {q : Fin 64} {y : Queue} (h : s.bar0Write v off.toNat x = s.setQueue v q y) :
    HostWrites s v off x (s.setQueue v q y) :=
  hostWrites_of whole h rfl

theorem hostWrites_part {p : Fin 16} {f : Part → Part} (h : s.bar0Write v off.toNat x = s.modPart p f) :
    HostWrites s v off x { s with parts := s.parts.set p (f s.parts[p]) } :=
  hostWrites_of whole h rfl

/-- BONCTL sets its mask, and its actions are due (R363). -/
theorem hostWrites_bonctl (h : s.bar0Write v off.toNat x = s.bonctlWrite x) : HostWrites s v off x { s with
    bonnet := { s.bonnet with vfMask := x.extractLsb' 16 16 }
    agenda := [(s.cycle, .bonctlEn x)] ++ (if x.getLsbD 1 = true then [(s.cycle, .bonctlFence)] else []) ++ s.agenda } := by
  rw [h, State.bonctlWrite] at whole
  by_cases fence : x.getLsbD 1 = true
  · rw [if_pos fence] at whole ⊢
    rw [State.newEventsFirst, State.schedule, State.schedule] at whole
    simpa using whole
  · rw [if_neg fence] at whole ⊢
    rw [State.newEventsFirst, State.schedule] at whole
    simpa using whole

/-! ## The registers of a queue (R346) -/

section
variable {q : Fin 64} {r : Nat} (wrote : s.bar0Write v off.toNat x = s.queueWrite v q r x)
include wrote

theorem hostWrites_qbase (h : r = 8) : ((s.queue v q).en = false → HostWrites s v off x (s.setQueue v q { s.queue v q with base := x &&& ~~~ 63 })) ∧
    ((s.queue v q).en = true → HostWrites s v off x s) := by
  subst h
  have run : s.queueWrite v q 8 x = if (s.queue v q).en = true then s else s.setQueue v q { s.queue v q with base := x &&& ~~~ 63 } := rfl
  constructor
  · intro off
    exact hostWrites_setQueue whole (wrote.trans (run.trans (if_neg (by rw [off]; decide))))
  · intro on
    exact hostWrites_of whole (wrote.trans (run.trans (if_pos on))) rfl

/-- A ring takes another size only while its queue is off. -/
theorem hostWrites_qsize (h : r = 0x10) {l : Nat} (size : l = x.toNat % 32) :
    ((s.queue v q).en = false → 4 ≤ l → l ≤ 16 → HostWrites s v off x (s.setQueue v q (State.Queue.resize (s.queue v q) l))) ∧
    ((s.queue v q).en = true ∨ l < 4 ∨ 16 < l → HostWrites s v off x s) := by
  subst h
  have value : getBits x 0 5 = l := by
    rw [getBits, size]
    omega
  have run : s.queueWrite v q 0x10 x = if ((s.queue v q).en || decide (getBits x 0 5 < 4) || decide (16 < getBits x 0 5)) = true then s
    else s.setQueue v q (State.Queue.resize (s.queue v q) (getBits x 0 5)) := rfl
  rw [value] at run
  constructor
  · intro off low high
    exact hostWrites_setQueue whole (wrote.trans (run.trans (if_neg (by simp [off, low, high]))))
  · intro bad
    refine hostWrites_of whole (wrote.trans (run.trans (if_pos ?_))) rfl
    rw [Bool.or_eq_true, Bool.or_eq_true, decide_eq_true_eq, decide_eq_true_eq, or_assoc]
    exact bad

end

omit whole in
/-- A smaller ring: its slot numbers run modulo its size. -/
theorem resize_numbers (y : Queue) {l : Nat} (high : l ≤ 16) : (State.Queue.resize y l).head.toNat = y.head.toNat % 2 ^ l ∧
    (State.Queue.resize y l).tail.toNat = y.tail.toNat % 2 ^ l := by
  have small : ∀ n : Nat, n % 2 ^ l < 2 ^ 16 := fun n =>
    Nat.lt_of_lt_of_le (Nat.mod_lt _ (Nat.two_pow_pos _)) (Nat.pow_le_pow_right (by decide) high)
  constructor
  · rw [State.Queue.resize, BitVec.toNat_ofNat, Nat.mod_eq_of_lt (small _)]
  · rw [State.Queue.resize, BitVec.toNat_ofNat, Nat.mod_eq_of_lt (small _)]

end


/-- What the host writes to the registers of a queue. -/
theorem queueRegisters {s : State} {v : Fin 17} {off : BitVec 28} {x : Word} (answers : s.modu.recov = false ∨ v = 0)
    (whole : off.toNat < 0x20000 → HostWrites s v off x ((s.bar0Write v off.toNat x).newEventsFirst s.agenda.length)) {o : Nat} (place : o = off.toNat) (aligned : o % 8 = 0)
    (q : Fin 64) (own : v = 0 → q = 0) : let y := s.queue v q
    let at_ := 0x10000 + 0x40 * q.val
    (o = at_ → HostWrites s v off x { s with agenda := (s.cycle, .qctl v q x) :: s.agenda }) ∧
    (o = at_ + 0x20 → HostWrites s v off x { s with agenda := (s.cycle, .qtail v q x) :: s.agenda }) ∧
    (o = at_ + 0x28 → HostWrites s v off x (s.setQueue v q { y with root := x })) ∧
    (o = at_ + 8 → y.en = false → HostWrites s v off x (s.setQueue v q { y with base := x &&& ~~~ 63 })) ∧
    (o = at_ + 8 → y.en = true → HostWrites s v off x s) ∧
    (o = at_ + 0x10 → ∀ l, l = x.toNat % 32 →
      (y.en = false → 4 ≤ l → l ≤ 16 → ∃ z : Queue, HostWrites s v off x (s.setQueue v q z) ∧ z.log2 = BitVec.ofNat 5 l ∧
        z.head.toNat = y.head.toNat % 2 ^ l ∧ z.tail.toNat = y.tail.toNat % 2 ^ l ∧ z.pos = y.pos % 2 ^ l ∧
        { z with log2 := y.log2, head := y.head, tail := y.tail, pos := y.pos, loop := y.loop, inlineSlots := y.inlineSlots, inlined := y.inlined
                 pkts := y.pkts } = y ∧
        z.pkts = y.pkts.map (fun p => { p with slot := p.slot % 2 ^ l })) ∧
      (y.en = true ∨ l < 4 ∨ 16 < l → HostWrites s v off x s)) ∧
    (o = at_ + 0x18 ∨ o = at_ + 0x30 → HostWrites s v off x s) := by
  intro y at_
  have wrote : ∀ {r : Nat}, r < 0x40 → o = at_ + r → s.bar0Write v off.toNat x = s.queueWrite v q r x := by
    intro r hr at_r
    exact bar0Write_queue answers own hr (by omega)
  refine ⟨fun h => ?_, fun h => ?_, fun h => ?_, fun h => ?_, fun h => ?_, fun h l size => ⟨fun off low high => ?_, fun bad => ?_⟩, fun h => ?_⟩
  · exact hostWrites_due (whole (by omega)) (wrote (r := 0) (by decide) h)
  · exact hostWrites_due (whole (by omega)) (wrote (by decide) h)
  · exact hostWrites_setQueue (whole (by omega)) (wrote (by decide) h)
  · exact (hostWrites_qbase (whole (by omega)) (wrote (by decide) h) rfl).1
  · exact (hostWrites_qbase (whole (by omega)) (wrote (by decide) h) rfl).2
  · obtain ⟨head, tail⟩ := resize_numbers y high
    exact ⟨_, (hostWrites_qsize (whole (by omega)) (wrote (by decide) h) rfl size).1 off low high, rfl, head, tail, rfl, rfl, rfl⟩
  · exact (hostWrites_qsize (whole (by omega)) (wrote (by decide) h) rfl size).2 bad
  · rcases h with h | h
    · exact hostWrites_of (whole (by omega)) (wrote (by decide) h) rfl
    · exact hostWrites_of (whole (by omega)) (wrote (by decide) h) rfl


/-! ## The registers of a partition (R169, R179, R190, R261, R282, R299, R335, R337, R342) -/

section
variable {s : State} {v : Fin 17} {off : BitVec 28} {x : Word} {p : Fin 16}
variable (whole : HostWrites s v off x ((s.bar0Write v off.toNat x).newEventsFirst s.agenda.length))
include whole

theorem hostWrites_lease (wrote : s.bar0Write v off.toNat x = s.partWrite p 0x10 x) {l : Nat} (size : l = x.toNat % 2 ^ 13) :
    (1 ≤ l → l ≤ 4096 → HostWrites s v off x { s with parts := s.parts.set p { s.parts[p] with lease := BitVec.ofNat 13 l } }) ∧
    (l = 0 ∨ 4096 < l → HostWrites s v off x s) := by
  have value : getBits x 0 13 = l := by rw [getBits, size, Nat.pow_zero, Nat.div_one]
  rw [partWrite_lease, value] at wrote
  constructor
  · intro low high
    exact hostWrites_part whole (wrote.trans (if_neg (by omega)))
  · intro bad
    exact hostWrites_of whole (wrote.trans (if_pos bad)) rfl

theorem hostWrites_ert (wrote : s.bar0Write v off.toNat x = s.partWrite p 0x18 x) :
    (x.toNat % 2 ^ 13 ≤ 4096 →
      HostWrites s v off x { s with parts := s.parts.set p { s.parts[p] with ertFrame := x.extractLsb' 16 32, nexp := x.extractLsb' 0 13 } }) ∧
    (4096 < x.toNat % 2 ^ 13 → HostWrites s v off x s) := by
  have value : getBits x 0 13 = x.toNat % 2 ^ 13 := by rw [getBits, Nat.pow_zero, Nat.div_one]
  rw [partWrite_ert, value] at wrote
  constructor
  · intro fits
    exact hostWrites_part whole (wrote.trans (if_neg (by omega)))
  · intro bad
    exact hostWrites_of whole (wrote.trans (if_pos bad)) rfl

theorem hostWrites_barwd (wrote : s.bar0Write v off.toNat x = s.partWrite p 0x300 x) {l : Nat} (size : l = x.toNat % 2 ^ 6) :
    (16 ≤ l → l ≤ 40 → HostWrites s v off x { s with parts := s.parts.set p { s.parts[p] with barwd := BitVec.ofNat 6 l } }) ∧
    (l < 16 ∨ 40 < l → HostWrites s v off x s) := by
  have value : getBits x 0 6 = l := by rw [getBits, size, Nat.pow_zero, Nat.div_one]
  rw [partWrite_barwd, value] at wrote
  constructor
  · intro low high
    exact hostWrites_part whole (wrote.trans (if_neg (by omega)))
  · intro bad
    exact hostWrites_of whole (wrote.trans (if_pos bad)) rfl

theorem hostWrites_tsamp (wrote : s.bar0Write v off.toNat x = s.partWrite p 0x618 x) {l : Nat} (size : l = x.toNat % 2 ^ 6) :
    (l = 0 ∨ (8 ≤ l ∧ l ≤ 40) → HostWrites s v off x { s with parts := s.parts.set p { s.parts[p] with tsamp := BitVec.ofNat 6 l } }) ∧
    ((1 ≤ l ∧ l < 8) ∨ 40 < l → HostWrites s v off x s) := by
  have value : getBits x 0 6 = l := by rw [getBits, size, Nat.pow_zero, Nat.div_one]
  rw [partWrite_tsamp, value] at wrote
  constructor
  · intro fits
    exact hostWrites_part whole (wrote.trans (if_pos fits))
  · intro bad
    exact hostWrites_of whole (wrote.trans (if_neg (by omega))) rfl

/-- An address register of a publish entry: an enabled entry keeps it (R190). -/
theorem hostWrites_pub {e : Fin 16} {w : Pub} {r : Nat} (hr : r < 3) (wrote : s.bar0Write v off.toNat x = s.partWrite p (0x100 + 32 * e.val + 8 * r) x)
    (takes : s.parts[p].pubs[e].en = false → State.Pub.writeReg s.parts[p].pubs[e] (8 * r) x = w) :
    if s.parts[p].pubs[e].en = true then HostWrites s v off x s
    else HostWrites s v off x { s with parts := s.parts.set p { s.parts[p] with pubs := s.parts[p].pubs.set e w } } := by
  rw [partWrite_pub s p x e hr] at wrote
  by_cases on : s.parts[p].pubs[e].en = true
  · rw [if_pos on]
    refine hostWrites_of whole (wrote.trans (modPart_self s p ?_)) rfl
    rw [show State.Pub.writeReg s.parts[p].pubs[e] (8 * r) x = s.parts[p].pubs[e] from if_pos on]
    simp
  · rw [if_neg on]
    have new := hostWrites_part whole wrote
    rw [takes (Bool.eq_false_iff.2 on)] at new
    exact new

omit whole in
theorem hostWrites_pubs (e : Fin 16)
    (whole : off.toNat < 0x20000 → HostWrites s v off x ((s.bar0Write v off.toNat x).newEventsFirst s.agenda.length)) (wrote : ∀ r, r < 3 → off.toNat = 0x1100 + 32 * e.val + 8 * r →
      s.bar0Write v off.toNat x = s.partWrite p (0x100 + 32 * e.val + 8 * r) x) : let z := s.parts[p].pubs[e]
    let pub := fun (w : Pub) => if z.en = true then HostWrites s v off x s
      else HostWrites s v off x { s with parts := s.parts.set p { s.parts[p] with pubs := s.parts[p].pubs.set e w } }
    (off.toNat = 0x1100 + 32 * e.val → pub { z with va := x.extractLsb' 16 48 }) ∧
    (off.toNat = 0x1108 + 32 * e.val → pub { z with back0 := x.extractLsb' 16 32 }) ∧
    (off.toNat = 0x1110 + 32 * e.val → pub { z with back1 := x.extractLsb' 16 32 }) := by
  intro z pub
  have unlocked : ∀ {o : Nat}, z.en = false → State.Pub.writeReg z o x = match o / 8 % 4 with
      | 0 => { z with va := x.extractLsb' 16 48 }
      | 1 => { z with back0 := x.extractLsb' 16 32 }
      | 2 => { z with back1 := x.extractLsb' 16 32 }
      | _ => z := fun off => if_neg (by rw [off]; decide)
  refine ⟨fun h => ?_, fun h => ?_, fun h => ?_⟩
  · exact hostWrites_pub (whole (by omega)) (r := 0) (by decide) (wrote 0 (by decide) (by omega)) unlocked
  · exact hostWrites_pub (whole (by omega)) (r := 1) (by decide) (wrote 1 (by decide) (by omega)) unlocked
  · exact hostWrites_pub (whole (by omega)) (r := 2) (by decide) (wrote 2 (by decide) (by omega)) unlocked

theorem hostWrites_grpres {g : Fin 16} (wrote : s.bar0Write v off.toNat x = s.partWrite p (0x700 + 8 * g.val) x) :
    (x.getLsbD 0 = true → HostWrites s v off x { s with agenda := (s.cycle, .grpres p g) :: s.agenda }) ∧
    (x.getLsbD 0 = false → HostWrites s v off x s) := by
  rw [partWrite_grpres] at wrote
  constructor
  · intro go
    exact hostWrites_due whole (wrote.trans (if_pos go))
  · intro go
    exact hostWrites_of whole (wrote.trans (if_neg (by rw [go]; decide))) rfl

theorem hostWrites_fwin {i : Fin 16} (wrote : s.bar0Write v off.toNat x = s.partWrite p (0x800 + 8 * i.val) x) {w : Nat}
    (value : w = x.toNat / 2 ^ 8 % 2 ^ 5) : (x.getLsbD 0 = true → w = 0 ∨ 16 < w → HostWrites s v off x s) ∧
    (x.getLsbD 0 = false ∨ (1 ≤ w ∧ w ≤ 16) → HostWrites s v off x { s with parts := s.parts.set p { s.parts[p] with
      fwin := s.parts[p].fwin.set i ⟨x.extractLsb' 16 16, BitVec.ofNat 5 w, x.getLsbD 0⟩ } }) := by
  rw [partWrite_fwin, show getBits x 8 5 = w from value.symm] at wrote
  constructor
  · intro on bad
    exact hostWrites_of whole (wrote.trans (if_pos ⟨on, bad⟩)) rfl
  · intro fits
    refine hostWrites_part whole (wrote.trans (if_neg fun ⟨on, bad⟩ => ?_))
    rcases fits with h | h
    · rw [h] at on; cases on
    · omega

end

/-- What the host writes to the registers of a partition. -/
theorem partitionRegisters {s : State} {v : Fin 17} {off : BitVec 28} {x : Word} (answers : s.modu.recov = false ∨ v = 0)
    (whole : off.toNat < 0x20000 → HostWrites s v off x ((s.bar0Write v off.toNat x).newEventsFirst s.agenda.length)) {o : Nat} (place : o = off.toNat) (aligned : o % 8 = 0)
    (p : Fin 16) (part : s.partOfVf v = some p) : let y := s.parts[p]
    let due := fun (e : Instr) => HostWrites s v off x { s with agenda := (s.cycle, e) :: s.agenda }
    let nothing := HostWrites s v off x s
    let reg := fun (z : Part) => HostWrites s v off x { s with parts := s.parts.set p z }
    (o = 0x1000 → due (.inval p x)) ∧ (o = 0x1600 → due (.tbase p x)) ∧ (o = 0x1608 → due (.tsize p x)) ∧
    (o = 0x1010 → ∀ l, l = x.toNat % 2 ^ 13 → (1 ≤ l → l ≤ 4096 → reg { y with lease := BitVec.ofNat 13 l }) ∧
      (l = 0 ∨ 4096 < l → nothing)) ∧
    (o = 0x1018 → (x.toNat % 2 ^ 13 ≤ 4096 → reg { y with ertFrame := x.extractLsb' 16 32, nexp := x.extractLsb' 0 13 }) ∧
      (4096 < x.toNat % 2 ^ 13 → nothing)) ∧
    (o = 0x1300 → ∀ l, l = x.toNat % 2 ^ 6 → (16 ≤ l → l ≤ 40 → reg { y with barwd := BitVec.ofNat 6 l }) ∧
      (l < 16 ∨ 40 < l → nothing)) ∧
    (o = 0x1618 → ∀ l, l = x.toNat % 2 ^ 6 → (l = 0 ∨ (8 ≤ l ∧ l ≤ 40) → reg { y with tsamp := BitVec.ofNat 6 l }) ∧
      ((1 ≤ l ∧ l < 8) ∨ 40 < l → nothing)) ∧
    (∀ i : Fin 64, o = 0x1400 + 8 * i.val → due (.barcfg p i x)) ∧
    (∀ e : Fin 16, let z := y.pubs[e]
      let pub := fun (w : Pub) => if z.en = true then nothing else reg { y with pubs := y.pubs.set e w }
      (o = 0x1100 + 32 * e.val → pub { z with va := x.extractLsb' 16 48 }) ∧
      (o = 0x1108 + 32 * e.val → pub { z with back0 := x.extractLsb' 16 32 }) ∧
      (o = 0x1110 + 32 * e.val → pub { z with back1 := x.extractLsb' 16 32 }) ∧ (o = 0x1118 + 32 * e.val → due (.pctl p e x))) ∧
    (∀ g : Fin 16, o = 0x1700 + 8 * g.val → (x.getLsbD 0 = true → due (.grpres p g)) ∧ (x.getLsbD 0 = false → nothing)) ∧
    (∀ i : Fin 8, o = 0x1780 + 8 * i.val → reg { y with filters := y.filters.set i (x &&& 0xFFFFFFFF0000000C) }) ∧
    (∀ i : Fin 16, o = 0x1800 + 8 * i.val → ∀ w, w = x.toNat / 2 ^ 8 % 2 ^ 5 →
      (x.getLsbD 0 = true → w = 0 ∨ 16 < w → nothing) ∧
      (x.getLsbD 0 = false ∨ (1 ≤ w ∧ w ≤ 16) → reg { y with
        fwin := y.fwin.set i ⟨x.extractLsb' 16 16, BitVec.ofNat 5 w, x.getLsbD 0⟩ })) ∧
    (o = 0x1008 ∨ o = 0x1610 → nothing) := by
  subst place
  have wrote : ∀ {r : Nat}, r < 0x1000 → off.toNat = 0x1000 + r → s.bar0Write v off.toNat x = s.partWrite p r x := by
    intro r hr at_r
    rw [bar0Write_part answers part (by omega) (by omega), show off.toNat / 8 * 8 - 0x1000 = r by omega]
  intro y due nothing reg
  refine ⟨fun h => ?_, fun h => ?_, fun h => ?_, fun h l size => ?_, fun h => ?_, fun h l size => ?_, fun h l size => ?_, fun i h => ?_, fun e => ?_,
    fun g h => ?_, fun i h => ?_, fun i h w value => ?_, fun h => ?_⟩
  · exact hostWrites_due (whole (by omega)) (wrote (r := 0) (by decide) h)
  · exact hostWrites_due (whole (by omega)) ((wrote (r := 0x600) (by decide) h).trans (partWrite_tbase s p x))
  · exact hostWrites_due (whole (by omega)) ((wrote (r := 0x608) (by decide) h).trans (partWrite_tsize s p x))
  · exact hostWrites_lease (whole (by omega)) (wrote (by decide) h) size
  · exact hostWrites_ert (whole (by omega)) (wrote (by decide) h)
  · exact hostWrites_barwd (whole (by omega)) (wrote (by decide) h) size
  · exact hostWrites_tsamp (whole (by omega)) (wrote (by decide) h) size
  · exact hostWrites_due (whole (by omega)) ((wrote (r := 0x400 + 8 * i.val) (by omega) (by omega)).trans (partWrite_barcfg s p x i))
  · obtain ⟨first, second, third⟩ := hostWrites_pubs e whole fun r hr h => wrote (by omega) (by omega)
    refine ⟨first, second, third, fun h => ?_⟩
    exact hostWrites_due (whole (by omega)) ((wrote (r := 0x118 + 32 * e.val) (by omega) (by omega)).trans (partWrite_pctl s p x e))
  · exact hostWrites_grpres (whole (by omega)) (wrote (r := 0x700 + 8 * g.val) (by omega) (by omega))
  · exact hostWrites_part (whole (by omega)) ((wrote (r := 0x780 + 8 * i.val) (by omega) (by omega)).trans (partWrite_filter s p x i))
  · exact hostWrites_fwin (whole (by omega)) (wrote (r := 0x800 + 8 * i.val) (by omega) (by omega)) value
  · rcases h with h | h
    · exact hostWrites_of (whole (by omega)) (wrote (r := 8) (by decide) h) rfl
    · exact hostWrites_of (whole (by omega)) (wrote (r := 0x610) (by decide) h) rfl


/-! ## The claim -/

theorem toNat_word (off : BitVec 28) : (off &&& ~~~ 7).toNat = off.toNat / 8 * 8 := by
  refine Nat.eq_of_testBit_eq fun i => ?_
  have bit : off.toNat / 8 * 8 = off.toNat >>> 3 <<< 3 := by rw [Nat.shiftRight_eq_div_pow, Nat.shiftLeft_eq]
  have seven : (7 : BitVec 28).getLsbD i = decide (i < 3) := by
    rw [← BitVec.testBit_toNat, show (7 : BitVec 28).toNat = 2 ^ 3 - 1 from rfl, Nat.testBit_two_pow_sub_one]
  rw [bit, Nat.testBit_shiftLeft, BitVec.testBit_toNat, BitVec.getLsbD_and, BitVec.getLsbD_not, seven]
  by_cases low : 3 ≤ i
  · rw [Nat.testBit_shiftRight, Nat.add_sub_cancel' low, BitVec.testBit_toNat, decide_eq_false (by omega : ¬ i < 3), decide_eq_true low]
    by_cases inside : i < 28
    · simp [inside]
    · rw [BitVec.getLsbD_of_ge off i (by omega)]
      rfl
  · rw [decide_eq_false low, decide_eq_true (by omega : i < 3)]
    simp

/-- The window of a recovery image takes bytes, and any other place of it nothing (R375). -/
theorem hostWrites_window {s : State} (new : ∀ e, s.isThrough e = false) (clear : s.NoBorders) (v : Fin 17) (off : BitVec 28) (n : Fin 4) (x : Word)
    (high : 0x8000000 ≤ off.toNat) (aligned : off.toNat % 2 ^ n.val = 0) :
    (v = 0 → s.modu.recov = true → exec (.registerWrite v off ⟨n, x⟩) s = .next { s with
      modu := { s.modu with window := Memory.write s.modu.window (off.toNat - 0x8000000) (2 ^ n.val) x.toNat } }) ∧
    (v ≠ 0 ∨ s.modu.recov = false → exec (.registerWrite v off ⟨n, x⟩) s = .next s) := by
  have run := registerWrite_eq new clear v off n x
  rw [State.bar0Store, if_neg (by omega), if_neg (by omega), if_pos high] at run
  constructor
  · intro physical recov
    rw [if_pos ⟨physical, recov⟩] at run
    exact run.trans (congrArg _ (newEventsFirst_same rfl))
  · intro ignored
    rw [if_neg (by rintro ⟨physical, recov⟩; rcases ignored with h | h; exacts [h physical, by rw [h] at recov; cases recov])] at run
    exact run.trans (congrArg _ (newEventsFirst_same rfl))

/-- R346: a store to a launch register is dropped, whatever it is. -/
theorem hostWrites_launch {s : State} (new : ∀ e, s.isThrough e = false) (clear : s.NoBorders) {v : Fin 17} {off : BitVec 28} (n : Fin 4) (x : Word)
    (answers : s.modu.recov = false ∨ v = 0) (q : Fin 64) (own : v = 0 → q = 0) (low : 0x20000 + 0x40 * q.val ≤ off.toNat)
    (high : off.toNat < 0x20040 + 0x40 * q.val) :
    exec (.registerWrite v off ⟨n, x⟩) s = .next (s.setQueue v q { s.queue v q with dropw := true }) := by
  have := q.isLt
  have run := registerWrite_eq new clear v off n x
  rw [State.bar0Store, if_pos (by omega), bar0Write_launch answers own low high] at run
  exact run.trans (congrArg _ (newEventsFirst_same rfl))

theorem hostWrites_whole {s : State} (new : ∀ e, s.isThrough e = false) (clear : s.NoBorders) {v : Fin 17} {off : BitVec 28} {x : Word}
    (aligned : off.toNat % 8 = 0) (other : off.toNat < 0x20000 ∨ 0x21000 ≤ off.toNat) (below : off.toNat < 0x8000000) :
    HostWrites s v off x ((s.bar0Write v off.toNat x).newEventsFirst s.agenda.length) := by
  rw [← bar0Store_whole aligned other below]
  exact registerWrite_eq new clear v off 3 x

theorem registerWrite_recovering {s : State} (new : ∀ e, s.isThrough e = false) (clear : s.NoBorders) {v : Fin 17} (off : BitVec 28) (n : Fin 4) (x : Word)
    (recov : s.modu.recov = true) (other : v ≠ 0) : exec (.registerWrite v off ⟨n, x⟩) s = .next s := by
  have run := registerWrite_eq new clear v off n x
  have same : s.bar0Store v off.toNat (2 ^ n.val) x.toNat = s := by
    rw [State.bar0Store, bar0Write_recovering recov other, bar0Write_recovering recov other, if_neg (fun h : v = 0 ∧ _ => other h.1)]
    simp only [ite_self]
  rw [same] at run
  exact run.trans (congrArg _ (newEventsFirst_same rfl))

theorem registerWrite_misaligned {s : State} (new : ∀ e, s.isThrough e = false) (clear : s.NoBorders) (v : Fin 17) {off : BitVec 28} {n : Fin 4} (x : Word)
    (other : off.toNat < 0x20000 ∨ 0x21000 ≤ off.toNat) (misaligned : off.toNat % 2 ^ n.val ≠ 0) :
    exec (.registerWrite v off ⟨n, x⟩) s = .next s := by
  have run := registerWrite_eq new clear v off n x
  rw [State.bar0Store, if_neg (by omega), if_pos misaligned] at run
  exact run.trans (congrArg _ (newEventsFirst_same rfl))

theorem registersAreWritten : Claims.RegistersAreWritten := by
  intro s v off x new clear writes
  refine ⟨fun n => ⟨fun recov other => registerWrite_recovering new clear off n x recov other,
    fun answers q own low high => hostWrites_launch new clear n x answers q own low high,
    fun other misaligned => registerWrite_misaligned new clear v x other misaligned, ?_,
    fun high aligned => hostWrites_window new clear v off n x high aligned⟩, ?_⟩
  · intro other below aligned dstat old y bytes
    refine (registerWrite_eq new clear v off n x).trans ?_
    refine Eq.trans ?_ (registerWrite_eq new clear v (off &&& ~~~ 7) 3 y).symm
    rw [bar0Store_narrow other below aligned bytes, toNat_word]
    rfl
  · intro answers o place aligned becomes due nothing
    have := off.isLt
    have whole : o < 0x20000 ∨ 0x21000 ≤ o → o < 0x8000000 → HostWrites s v off x ((s.bar0Write v off.toNat x).newEventsFirst s.agenda.length) := by
      intro other below
      exact hostWrites_whole new clear (by omega) (by omega) (by omega)
    refine ⟨fun h => ?_, fun h => ?_, fun q own => ?_, fun p part => ?_, fun high other => ?_, fun physical => ⟨fun h => ?_, fun i h => ?_, fun h => ?_⟩⟩
    · exact hostWrites_due (whole (by omega) (by omega)) (bar0Write_replay answers (by omega))
    · exact hostWrites_due (whole (by omega) (by omega)) (bar0Write_signal answers (by omega))
    · exact queueRegisters answers (fun low => whole (.inl (by omega)) (by omega)) place aligned q own
    · exact partitionRegisters answers (fun low => whole (.inl (by omega)) (by omega)) place aligned p part
    · by_cases window : 0x8000000 ≤ o
      · exact (hostWrites_window new clear v off 3 x (by omega) (by rw [← place]; exact aligned)).2 (.inl other)
      · exact hostWrites_of (whole (by omega) (by omega)) (bar0Write_other answers (by omega) other) rfl
    · subst physical
      exact hostWrites_due (whole (by omega) (by omega)) (bar0Write_recovery (by omega))
    · subst physical
      refine ⟨_, fun j => extract_nonceWith s.modu.nonce i j x, ?_⟩
      have wrote := bar0Write_nonce (s := s) (x := x) (o := off.toNat) i (by omega)
      by_cases last : i = 3
      · rw [if_pos last] at wrote
        have run := whole (by omega) (by omega)
        rw [wrote, ← show ({ s with modu := { s.modu with nonce := nonceWith s.modu.nonce i.val x } } : State).agenda = s.agenda from rfl,
          newEventsFirst_schedule] at run
        rw [if_pos last]
        exact run
      · rw [if_neg last] at wrote
        rw [if_neg last]
        exact hostWrites_of (whole (by omega) (by omega)) wrote rfl
    · subst physical
      exact hostWrites_bonctl (whole (by omega) (by omega)) (bar0Write_bonctl (by omega))

/-- Settles O60: a host signal and a replay in `hostSignals`, the writes of the host, register by register, in
`registersAreWritten`. -/
theorem hostRegisters : Obligations.HostRegisters :=
  ⟨hostSignals, registersAreWritten⟩

end Sys2Proof.Machine
end

section
/-! SUPPORT. The front end of a command queue: what taking packets leaves alone (14_packets.md R346 to R349), and O53. -/

namespace Sys2Proof.Machine
open Sys2Proof

/-! ## What the front end of a queue changes -/

/-- The front end of queue q of v has taken s to t: packets have been accepted, behind those that the queue holds, or the queue
has halted. -/
structure FrontEnd (s t : State) (v : Fin 17) (q : Fin 64) : Prop where
  frame : t = { s with vfs := t.vfs, nextId := t.nextId, hostMem := t.hostMem, agenda := t.agenda, fresh := t.fresh }
  nextId : s.nextId ≤ t.nextId
  agenda : ∃ l, t.agenda = s.agenda ++ l
  pkts : ∀ x ∈ (t.queue v q).pkts, x ∈ (s.queue v q).pkts ∨ s.nextId ≤ x.id
  en : (t.queue v q).en = (s.queue v q).en
  tail : (t.queue v q).tail = (s.queue v q).tail
  interrupts : t.vfs[v].msix[0] = s.vfs[v].msix[0]
  replay : t.vfs[v].replay = s.vfs[v].replay

section
variable {s t u : State} {v : Fin 17} {q : Fin 64}

theorem FrontEnd.refl (s : State) (v : Fin 17) (q : Fin 64) : FrontEnd s s v q :=
  ⟨rfl, Nat.le_refl _, ⟨[], (List.append_nil _).symm⟩, fun _ h => .inl h, rfl, rfl, rfl, rfl⟩

theorem FrontEnd.trans (h : FrontEnd s t v q) (h' : FrontEnd t u v q) : FrontEnd s u v q where
  frame := by
    have := h'.frame
    rw [h.frame] at this
    exact this
  nextId := Nat.le_trans h.nextId h'.nextId
  agenda := by
    obtain ⟨l, hl⟩ := h.agenda
    obtain ⟨m, hm⟩ := h'.agenda
    exact ⟨l ++ m, by rw [hm, hl, List.append_assoc]⟩
  pkts := fun x hx => (h'.pkts x hx).elim (h.pkts x) fun new => .inr (Nat.le_trans h.nextId new)
  en := h'.en.trans h.en
  tail := h'.tail.trans h.tail
  interrupts := h'.interrupts.trans h.interrupts
  replay := h'.replay.trans h.replay

/-- The queue's own fields change, its packets and its offers apart. -/
theorem frontEnd_modQueue (s : State) (v : Fin 17) (q : Fin 64) {f : Queue → Queue}
    (pkts : ∀ x ∈ (f (s.queue v q)).pkts, x ∈ (s.queue v q).pkts ∨ s.nextId ≤ x.id) (en : (f (s.queue v q)).en = (s.queue v q).en)
    (tail : (f (s.queue v q)).tail = (s.queue v q).tail) : FrontEnd s (s.modQueue v q f) v q where
  frame := rfl
  nextId := Nat.le_refl _
  agenda := ⟨[], (List.append_nil _).symm⟩
  pkts := by rwa [queue_modQueue]
  en := by rwa [queue_modQueue]
  tail := by rwa [queue_modQueue]
  interrupts := by rw [State.modQueue, vfs_setQueue]
  replay := replay_modQueue ..

theorem queue_raiseMsix (s : State) (v : Fin 17) (i : Fin 4) (q : Fin 64) : (s.raiseMsix v i).queue v q = s.queue v q := by
  rw [State.queue, State.raiseMsix, show (s.vfs.set v { s.vfs[v] with msix := s.vfs[v].msix.set i (s.vfs[v].msix[i] + 1) })[v] =
    { s.vfs[v] with msix := s.vfs[v].msix.set i (s.vfs[v].msix[i] + 1) } from Vector.getElem_set_self _]
  rfl

theorem vfs_raiseMsix (s : State) (v : Fin 17) (i : Fin 4) :
    (s.raiseMsix v i).vfs[v] = { s.vfs[v] with msix := s.vfs[v].msix.set i (s.vfs[v].msix[i] + 1) } := Vector.getElem_set_self _

/-- An interrupt other than that of a completion. -/
theorem frontEnd_raiseMsix (s : State) (v : Fin 17) (q : Fin 64) {i : Fin 4} (hi : i ≠ 0) : FrontEnd s (s.raiseMsix v i) v q where
  frame := rfl
  nextId := Nat.le_refl _
  agenda := ⟨[], (List.append_nil _).symm⟩
  pkts := by rw [queue_raiseMsix]; exact fun _ h => .inl h
  en := by rw [queue_raiseMsix]
  tail := by rw [queue_raiseMsix]
  interrupts := by
    rw [vfs_raiseMsix]
    exact Vector.getElem_set_ne i.isLt (by decide) (fun e => hi (Fin.ext e))
  replay := by rw [vfs_raiseMsix]

theorem frontEnd_haltAt (s : State) (v : Fin 17) (q : Fin 64) (slot code : Nat) : FrontEnd s (s.haltAt v q slot code) v q :=
  (frontEnd_modQueue s v q (fun _ h => .inl h) rfl rfl).trans (frontEnd_raiseMsix _ v q (by decide))

theorem frontEnd_capWrite (s : State) (v : Fin 17) (q : Fin 64) (va : Word) (n x : Nat) : FrontEnd s (s.capWrite va n x) v q :=
  ⟨rfl, Nat.le_refl _, ⟨[], (List.append_nil _).symm⟩, fun _ h => .inl h, rfl, rfl, rfl, rfl⟩

theorem frontEnd_capItem (s : State) (v : Fin 17) (q : Fin 64) (kind len : Nat) (va : Word) (crcs data : Nat) :
    FrontEnd s (s.capItem v q kind len va crcs data) v q := by
  rw [State.capItem]
  split
  · exact .refl s v q
  · dsimp only
    split
    · exact frontEnd_capWrite ..
    · exact (frontEnd_capWrite ..).trans ((frontEnd_capWrite ..).trans (frontEnd_modQueue _ v q (fun _ h => .inl h) rfl rfl))

theorem frontEnd_newId (s : State) (v : Fin 17) (q : Fin 64) : FrontEnd s s.newId.2 v q :=
  ⟨rfl, Nat.le_succ _, ⟨[], (List.append_nil _).symm⟩, fun _ h => .inl h, rfl, rfl, rfl, rfl⟩

theorem frontEnd_schedule (s : State) (v : Fin 17) (q : Fin 64) (c : Nat) (e : Instr) : FrontEnd s (s.schedule c e) v q :=
  ⟨rfl, Nat.le_refl _, ⟨[(c, e)], rfl⟩, fun _ h => .inl h, rfl, rfl, rfl, rfl⟩

theorem frontEnd_freeCycle (s : State) (v : Fin 17) (q : Fin 64) (lo : Nat) (hi : Option Nat) : FrontEnd s (s.freeCycle lo hi).2 v q := by
  have left : (s.freeCycle lo hi).2 = { s with fresh := s.fresh + 1 } := by cases hi <;> rfl
  rw [left]
  exact ⟨rfl, Nat.le_refl _, ⟨[], (List.append_nil _).symm⟩, fun _ h => .inl h, rfl, rfl, rfl, rfl⟩

end


/-! ## One packet -/

/-- The queue takes no packet now. -/
def State.frontStops (s : State) (v : Fin 17) (q : Fin 64) : Bool :=
  let y := s.queue v q
  !y.en || y.err || s.vfHeld v || s.vfs[v].replay.isSome || y.pos = y.tail.toNat % State.slots y || y.pkts.any (!·.started)

/-- The inline offer at a slot is given up. -/
def State.dropInline (s : State) (v : Fin 17) (q : Fin 64) (slot : Nat) : State :=
  s.modQueue v q (fun y => { y with inlined := y.inlined.filter (fun x => x.1 != slot) })

/-- The slot is passed over, as COND has it. -/
def State.skipSlot (s : State) (v : Fin 17) (q : Fin 64) (slot : Nat) (inline : Bool) : State :=
  (s.modQueue v q (fun y => State.takeSlot y slot inline false)).modQueue v q (fun y => { y with skip := y.skip - 1 })

/-- The packet as it is accepted. -/
def State.accepted (s : State) (v : Fin 17) (q : Fin 64) (slot : Nat) (b : BitVec 512) (inline : Bool) : Packet :=
  let u := s.newId.2.modQueue v q (fun y => State.takeSlot y slot inline (pktField b 0 1 == 6))
  ⟨s.nextId, slot, b, inline, false, false, if pktWaits b then u.queueClk v q else u.agentClk v q, s.cycle, 0, false⟩

/-- The packet has joined those of its queue. -/
def State.joined (s : State) (v : Fin 17) (q : Fin 64) (slot : Nat) (b : BitVec 512) (inline : Bool) : State :=
  (s.newId.2.modQueue v q (fun y => State.takeSlot y slot inline (pktField b 0 1 == 6))).modQueue v q (fun y => { y with
    pkts := y.pkts ++ [s.accepted v q slot b inline] })

/-- The packet is accepted and its event made due. -/
def State.accept (s : State) (v : Fin 17) (q : Fin 64) (slot : Nat) (b : BitVec 512) (inline : Bool) : State :=
  let u := (s.joined v q slot b inline).capItem v q 1 64 0 0 b.toNat
  let free := u.freeCycle u.cycle (if pktField b 0 1 = 1 then some (u.cycle + 1023) else none)
  free.2.schedule free.1 (pktEvent b s.nextId)

/-- What the front end makes of a packet that COND does not skip. -/
def State.takePacket (s : State) (v : Fin 17) (q : Fin 64) (slot : Nat) (b : BitVec 512) (inline : Bool) : State :=
  match pktBad b (((s.partOfVf v).map s.nibCount).getD 0) (v == 0) with
  | some c => (s.dropInline v q slot).haltAt v q slot c
  | none =>
    if pktField b 0 1 = 6 && s.loopBad (s.queue v q) slot (pktField b 0x22 1) then (s.dropInline v q slot).haltAt v q slot 4
    else if (pktWaits b && (s.queue v q).pkts.any (!·.done)) ||
        (s.queue v q).pkts.any (fun p => !p.done && [0x05, 0x06].contains (pktField p.bits 0 1)) then s
    else s.accept v q slot b inline

section
variable {s : State} {v : Fin 17} {q : Fin 64}

theorem pump_succ (s : State) (v : Fin 17) (q : Fin 64) (fuel : Nat) : s.pump v q (fuel + 1) =
    if s.frontStops v q then s
    else if (s.queue v q).skip ≠ 0 then
      (s.skipSlot v q (s.queue v q).pos (s.slotPacket (s.queue v q) (s.queue v q).pos).2).pump v q fuel
    else s.takePacket v q (s.queue v q).pos (s.slotPacket (s.queue v q) (s.queue v q).pos).1
      (s.slotPacket (s.queue v q) (s.queue v q).pos).2 := rfl

theorem frontEnd_dropInline (s : State) (v : Fin 17) (q : Fin 64) (slot : Nat) : FrontEnd s (s.dropInline v q slot) v q :=
  frontEnd_modQueue s v q (fun _ h => .inl h) rfl rfl

theorem frontEnd_skipSlot (s : State) (v : Fin 17) (q : Fin 64) (slot : Nat) (inline : Bool) : FrontEnd s (s.skipSlot v q slot inline) v q :=
  (frontEnd_modQueue s v q (fun _ h => .inl h) rfl rfl).trans (frontEnd_modQueue _ v q (fun _ h => .inl h) rfl rfl)

theorem queue_joined (s : State) (v : Fin 17) (q : Fin 64) (slot : Nat) (b : BitVec 512) (inline : Bool) :
    (s.joined v q slot b inline).queue v q = { State.takeSlot (s.queue v q) slot inline (pktField b 0 1 == 6) with
      pkts := (s.queue v q).pkts ++ [s.accepted v q slot b inline] } := by
  rw [State.joined, queue_modQueue, queue_modQueue]
  rfl

theorem frontEnd_joined (s : State) (v : Fin 17) (q : Fin 64) (slot : Nat) (b : BitVec 512) (inline : Bool) :
    FrontEnd s (s.joined v q slot b inline) v q where
  frame := rfl
  nextId := Nat.le_succ _
  agenda := ⟨[], (List.append_nil _).symm⟩
  pkts := by
    rw [queue_joined]
    intro x hx
    rcases List.mem_append.1 hx with h | h
    · exact .inl h
    · rw [List.mem_singleton.1 h]
      exact .inr (Nat.le_refl _)
  en := by rw [queue_joined]; rfl
  tail := by rw [queue_joined]; rfl
  interrupts := by rw [State.joined, State.modQueue, vfs_setQueue, State.modQueue, vfs_setQueue]; rfl
  replay := by rw [State.joined, replay_modQueue, replay_modQueue]; rfl

theorem frontEnd_accept (s : State) (v : Fin 17) (q : Fin 64) (slot : Nat) (b : BitVec 512) (inline : Bool) :
    FrontEnd s (s.accept v q slot b inline) v q :=
  (((frontEnd_joined s v q slot b inline).trans (frontEnd_capItem ..)).trans (frontEnd_freeCycle ..)).trans (frontEnd_schedule ..)

theorem frontEnd_takePacket (s : State) (v : Fin 17) (q : Fin 64) (slot : Nat) (b : BitVec 512) (inline : Bool) :
    FrontEnd s (s.takePacket v q slot b inline) v q := by
  rw [State.takePacket]
  split
  · exact (frontEnd_dropInline ..).trans (frontEnd_haltAt ..)
  · split
    · exact (frontEnd_dropInline ..).trans (frontEnd_haltAt ..)
    · split
      · exact .refl s v q
      · exact frontEnd_accept ..

theorem frontEnd_pump (v : Fin 17) (q : Fin 64) (fuel : Nat) (s : State) : FrontEnd s (s.pump v q fuel) v q := by
  induction fuel generalizing s with
  | zero => exact .refl s v q
  | succ fuel ih =>
    rw [pump_succ]
    split
    · exact .refl s v q
    · split
      · exact (frontEnd_skipSlot ..).trans (ih _)
      · exact frontEnd_takePacket ..

theorem pump_stops (stops : s.frontStops v q = true) (fuel : Nat) : s.pump v q fuel = s := by
  cases fuel with
  | zero => rfl
  | succ fuel => rw [pump_succ, if_pos stops]

end


section
variable {s t : State} {v : Fin 17} {q : Fin 64}

theorem FrontEnd.mem (h : FrontEnd s t v q) : t.mem = s.mem := by rw [h.frame]

theorem FrontEnd.nibs (h : FrontEnd s t v q) : t.nibs = s.nibs := by rw [h.frame]

theorem FrontEnd.ops (h : FrontEnd s t v q) : t.ops = s.ops := by rw [h.frame]

theorem FrontEnd.launches (h : FrontEnd s t v q) : t.launches = s.launches := by rw [h.frame]

theorem FrontEnd.parts (h : FrontEnd s t v q) : t.parts = s.parts := by rw [h.frame]

theorem FrontEnd.cycle (h : FrontEnd s t v q) : t.cycle = s.cycle := by rw [h.frame]

/-- Nothing is taken while a queue is off, halted, or has been offered nothing. -/
theorem frontStops_of {y : Queue} (queue : s.queue v q = y) (idle : y.en = false ∨ y.err = true ∨ y.pos = y.tail.toNat % State.slots y) :
    s.frontStops v q = true := by
  rw [State.frontStops, queue]
  rcases idle with h | h | h <;> simp [h]

theorem queue_capWrite (s : State) (va : Word) (n x : Nat) (v : Fin 17) (q : Fin 64) : (s.capWrite va n x).queue v q = s.queue v q := rfl

/-- What a capture may change. -/
def Captures (s t : State) : Prop := ∃ vfs hostMem, t = { s with vfs := vfs, hostMem := hostMem }

theorem Captures.trans {s t u : State} (h : Captures s t) (h' : Captures t u) : Captures s u := by
  obtain ⟨_, _, rfl⟩ := h
  obtain ⟨vfs, hostMem, rfl⟩ := h'
  exact ⟨vfs, hostMem, rfl⟩

theorem captures_capWrite (s : State) (va : Word) (n x : Nat) : Captures s (s.capWrite va n x) := ⟨s.vfs, _, rfl⟩

theorem captures_modQueue (s : State) (v : Fin 17) (q : Fin 64) (f : Queue → Queue) : Captures s (s.modQueue v q f) := ⟨_, s.hostMem, rfl⟩

theorem capItem_frame (s : State) (v : Fin 17) (q : Fin 64) (kind len : Nat) (va : Word) (crcs data : Nat) :
    Captures s (s.capItem v q kind len va crcs data) ∧
    ∃ c, (s.capItem v q kind len va crcs data).queue v q = { s.queue v q with capture := c } := by
  rw [State.capItem]
  split
  · exact ⟨⟨s.vfs, s.hostMem, rfl⟩, (s.queue v q).capture, rfl⟩
  next c _ =>
    dsimp only
    split
    · exact ⟨captures_capWrite .., (s.queue v q).capture, rfl⟩
    · refine ⟨(captures_capWrite ..).trans ((captures_capWrite ..).trans (captures_modQueue ..)),
        some { c with used := c.used + (64 + (len + 63) / 64 * 64) }, ?_⟩
      rw [queue_modQueue, queue_capWrite, queue_capWrite]

theorem freeCycle_low (s : State) (lo : Nat) (hi : Option Nat) : lo ≤ (s.freeCycle lo hi).1 ∧ (s.freeCycle lo hi).2 = { s with fresh := s.fresh + 1 } := by
  cases hi with
  | none => exact ⟨Nat.le_add_right .., rfl⟩
  | some h => exact ⟨le_min (Nat.le_add_right ..) (Nat.le_max_left ..), rfl⟩

/-- A packet that is accepted stands behind those of its queue, and its event is due. -/
theorem accept_eq (s : State) (v : Fin 17) (q : Fin 64) (slot : Nat) (b : BitVec 512) (inline : Bool) : ∃ c, s.cycle ≤ c ∧
    (s.accept v q slot b inline).agenda = s.agenda ++ [(c, pktEvent b s.nextId)] ∧
    ∃ k, (s.accept v q slot b inline).queue v q = { (s.joined v q slot b inline).queue v q with capture := k } := by
  obtain ⟨⟨_, _, frame⟩, k, queue⟩ := capItem_frame (s.joined v q slot b inline) v q 1 64 0 0 b.toNat
  obtain ⟨low, free⟩ := freeCycle_low ((s.joined v q slot b inline).capItem v q 1 64 0 0 b.toNat)
    ((s.joined v q slot b inline).capItem v q 1 64 0 0 b.toNat).cycle
    (if pktField b 0 1 = 1 then some (((s.joined v q slot b inline).capItem v q 1 64 0 0 b.toNat).cycle + 1023) else none)
  have cycle : ((s.joined v q slot b inline).capItem v q 1 64 0 0 b.toNat).cycle = s.cycle := by rw [frame]; rfl
  have agenda : ((s.joined v q slot b inline).capItem v q 1 64 0 0 b.toNat).agenda = s.agenda := by rw [frame]; rfl
  rw [cycle] at low
  refine ⟨_, low, ?_, k, ?_⟩
  · rw [State.accept, free, State.schedule]
    dsimp only
    rw [agenda, cycle]
  · rw [State.accept, free, ← queue]
    rfl

theorem takePacket_bad {slot c : Nat} {b : BitVec 512} (bad : pktBad b (((s.partOfVf v).map s.nibCount).getD 0) (v == 0) = some c) (inline : Bool) :
    s.takePacket v q slot b inline = (s.dropInline v q slot).haltAt v q slot c := by
  rw [State.takePacket, bad]

variable {slot : Nat} {b : BitVec 512} (good : pktBad b (((s.partOfVf v).map s.nibCount).getD 0) (v == 0) = none) (inline : Bool)
include good

theorem takePacket_loop (loop : pktField b 0 1 = 6) (bad : s.loopBad (s.queue v q) slot (pktField b 0x22 1) = true) :
    s.takePacket v q slot b inline = (s.dropInline v q slot).haltAt v q slot 4 := by
  rw [State.takePacket, good]
  exact if_pos (by rw [bad, Bool.and_true, decide_eq_true_eq]; exact loop)

variable (fits : pktField b 0 1 = 6 → s.loopBad (s.queue v q) slot (pktField b 0x22 1) = false)
include fits

theorem takePacket_good : s.takePacket v q slot b inline =
    if (pktWaits b && (s.queue v q).pkts.any (!·.done)) ||
        (s.queue v q).pkts.any (fun p => !p.done && [0x05, 0x06].contains (pktField p.bits 0 1)) then s
    else s.accept v q slot b inline := by
  rw [State.takePacket, good]
  refine if_neg fun h => ?_
  rw [Bool.and_eq_true, decide_eq_true_eq] at h
  rw [fits h.1] at h
  exact absurd h.2 (by decide)

theorem takePacket_waits (waits : pktWaits b = true) (early : ∃ p ∈ (s.queue v q).pkts, p.done = false) : s.takePacket v q slot b inline = s := by
  refine (takePacket_good good inline fits).trans (if_pos ?_)
  have some_left : (s.queue v q).pkts.any (!·.done) = true := by
    rw [List.any_eq_true]
    obtain ⟨p, hp, h⟩ := early
    exact ⟨p, hp, by rw [h]; rfl⟩
  rw [waits, some_left]
  rfl

theorem takePacket_accepts (waits : pktWaits b = true → ∀ p ∈ (s.queue v q).pkts, p.done = true)
    (conditional : ∀ p ∈ (s.queue v q).pkts, p.done = false → pktField p.bits 0 1 ≠ 5 ∧ pktField p.bits 0 1 ≠ 6) :
    s.takePacket v q slot b inline = s.accept v q slot b inline := by
  refine (takePacket_good good inline fits).trans (if_neg fun h => ?_)
  rw [Bool.or_eq_true, Bool.and_eq_true, List.any_eq_true, List.any_eq_true] at h
  rcases h with ⟨w, p, hp, h⟩ | ⟨p, hp, h⟩
  · rw [waits w p hp] at h
    exact absurd h (by decide)
  · rw [Bool.and_eq_true, Bool.not_eq_true'] at h
    obtain ⟨five, six⟩ := conditional p hp h.1
    have := h.2
    rw [List.contains_iff_mem] at this
    rcases List.mem_cons.1 this with e | e
    · exact five e
    · exact six (List.mem_singleton.1 e)

end

/-! ## Offers -/

/-- The queue, turned on. -/
def Queue.turnOn (y : Queue) : Queue :=
  { y with en := true, err := false, dropw := false, code := 0, inlined := if y.err then y.inlined.filter (fun z => z.1 != y.pos) else y.inlined }

/-- The queue, offered a packet inline. -/
def Queue.offer (y : Queue) (pkt : BitVec 512) : Queue :=
  { y with
    inlined := (y.tail.toNat % State.slots y, pkt) :: y.inlined.filter (fun z => z.1 != y.tail.toNat % State.slots y)
    tail := BitVec.ofNat 16 ((y.tail.toNat % State.slots y + 1 + pktField pkt 2 2) % State.slots y) }

theorem queuesAreOffered : Claims.QueuesAreOffered := by
  intro s v q x pkt y here
  subst here
  refine ⟨fun off => ⟨_, ?_, rfl⟩, fun on nobody => ?_, fun on owner own => ?_, ?_, fun off => ?_, fun on => ?_⟩
  · have run := show exec (.qctl v q x) s = execQctl v q x s from rfl
    rw [execQctl, if_neg (by rw [off]; decide)] at run
    exact run
  · have run := show exec (.qctl v q x) s = execQctl v q x s from rfl
    rw [execQctl, if_pos on, if_pos (by rwa [Option.isNone_iff_eq_none])] at run
    exact run
  · have run := show exec (.qctl v q x) s = execQctl v q x s from rfl
    have turns : ¬ ((v ≠ 0 ∧ (s.partOfVf v).isNone = true) ∨ (v = 0 ∧ q ≠ 0)) := by
      rintro (⟨h, missing⟩ | ⟨h, other⟩)
      · rw [Option.isNone_iff_eq_none] at missing
        rw [missing] at owner
        exact absurd (owner h) (by decide)
      · exact other (own h)
    rw [execQctl, if_pos on, if_neg turns] at run
    replace run : exec (.qctl v q x) s = .next ((s.modQueue v q Queue.turnOn).pump v q State.pumpFuel) := run
    have front := frontEnd_pump v q State.pumpFuel (s.modQueue v q Queue.turnOn)
    refine ⟨_, run, front.mem, front.nibs, front.en.trans (by rw [queue_modQueue]; rfl), fun drained => ?_⟩
    have same : (s.modQueue v q Queue.turnOn).pump v q State.pumpFuel = s.modQueue v q Queue.turnOn :=
      pump_stops (frontStops_of (y := (s.queue v q).turnOn) (queue_modQueue ..) (.inr (.inr drained))) _
    rw [same, queue_modQueue]
    rfl
  · have front := frontEnd_pump v q State.pumpFuel (s.modQueue v q (fun y => { y with tail := x.setWidth 16 }))
    refine ⟨_, rfl, front.tail.trans (by rw [queue_modQueue]), front.mem, front.nibs, fun idle => ?_⟩
    exact pump_stops (frontStops_of (queue_modQueue ..) idle) _
  · have run := show exec (.launchRegister v q pkt) s = execLaunchRegister v q pkt s from rfl
    rw [execLaunchRegister] at run
    exact run.trans (if_pos (by rw [off]; rfl))
  · have run := show exec (.launchRegister v q pkt) s = execLaunchRegister v q pkt s from rfl
    rw [execLaunchRegister] at run
    replace run := run.trans (if_neg (by rw [on]; decide))
    replace run : exec (.launchRegister v q pkt) s = .next ((s.setQueue v q ((s.queue v q).offer pkt)).pump v q State.pumpFuel) := run
    have front := frontEnd_pump v q State.pumpFuel (s.setQueue v q ((s.queue v q).offer pkt))
    refine ⟨_, run, front.mem, front.nibs, front.tail.trans (by rw [queue_setQueue]; rfl), fun halted => ?_⟩
    have same : (s.setQueue v q ((s.queue v q).offer pkt)).pump v q State.pumpFuel = s.setQueue v q ((s.queue v q).offer pkt) :=
      pump_stops (frontStops_of (y := (s.queue v q).offer pkt) (queue_setQueue ..) (.inr (.inl halted))) _
    rw [same, queue_setQueue]
    exact List.lookup_cons_self


/-! ## Packets -/

/-- The ring has been filled up to a slot. -/
def State.ringTail (s : State) (v : Fin 17) (q : Fin 64) (x : BitVec 64) : State := s.modQueue v q (fun y => { y with tail := x.setWidth 16 })

section
variable {s : State} {v : Fin 17} {q : Fin 64} {x : BitVec 64} {y : Queue} {b : BitVec 512} {inline : Bool}

theorem queue_ringTail (s : State) (v : Fin 17) (q : Fin 64) (x : BitVec 64) :
    (s.ringTail v q x).queue v q = { s.queue v q with tail := x.setWidth 16 } := queue_modQueue ..

/-- A queue that may take the packet at its next slot, takes it. -/
theorem qtail_takes (here : y = s.queue v q) (on : y.en = true) (running : y.err = false) (unskipped : y.skip = 0)
    (offered : y.pos ≠ (x.setWidth 16).toNat % State.slots y) (all_started : ∀ p ∈ y.pkts, p.started = true) (alone : s.vfs[v].replay = none)
    (free : s.vfHeld v = false) (packet : s.slotPacket y y.pos = (b, inline)) :
    exec (.qtail v q x) s = .next ((s.ringTail v q x).takePacket v q y.pos b inline) := by
  subst here
  have run : exec (.qtail v q x) s = .next ((s.ringTail v q x).pump v q (65535 + 1)) := rfl
  have replay : (s.ringTail v q x).vfs[v].replay = none := (replay_modQueue ..).trans alone
  have held : (s.ringTail v q x).vfHeld v = false := free
  have goes : ¬ (s.ringTail v q x).frontStops v q = true := by
    have started : (s.queue v q).pkts.any (!·.started) = false := by
      rw [List.any_eq_false]
      intro p hp
      rw [all_started p hp]
      decide
    rw [State.frontStops, queue_ringTail, held, replay, on, running, started]
    simpa [State.slots] using offered
  have same : (s.ringTail v q x).slotPacket ((s.ringTail v q x).queue v q) ((s.ringTail v q x).queue v q).pos = (b, inline) := by
    rw [queue_ringTail]
    exact packet
  rw [pump_succ, if_neg goes, if_neg (by rw [queue_ringTail]; exact not_not.2 unskipped), same, queue_ringTail] at run
  exact run

/-- A packet that halts its queue. -/
theorem halted_queue (u : State) (v : Fin 17) (q : Fin 64) (slot code : Nat) :
    (((u.dropInline v q slot).haltAt v q slot code).queue v q).err = true ∧
    (((u.dropInline v q slot).haltAt v q slot code).queue v q).code = BitVec.ofNat 8 code ∧
    (((u.dropInline v q slot).haltAt v q slot code).queue v q).head = BitVec.ofNat 16 slot ∧
    (((u.dropInline v q slot).haltAt v q slot code).queue v q).pkts = (u.queue v q).pkts ∧
    ((u.dropInline v q slot).haltAt v q slot code).vfs[v].msix[2] = u.vfs[v].msix[2] + 1 := by
  have interrupt : ((u.dropInline v q slot).haltAt v q slot code).vfs[v].msix[2] = u.vfs[v].msix[2] + 1 := by
    rw [State.haltAt]
    exact (raiseMsix_msix _ v 2).trans (by rw [State.dropInline, State.modQueue, vfs_setQueue, State.modQueue, vfs_setQueue]; rfl)
  refine ⟨?_, ?_, ?_, ?_, interrupt⟩
  all_goals
    rw [State.haltAt, queue_raiseMsix, queue_modQueue, State.dropInline, queue_modQueue]

theorem takePos_takeSlot (y : Queue) (slot : Nat) (inline keep : Bool) : (State.takeSlot y slot inline keep).pos = (slot + 1) % State.slots y := rfl

/-- The codes of a packet, in their order (R348, R350, R351, R356, R358). -/
theorem packetCodes (b : BitVec 512) (nibs : Nat) (v : Fin 17) (op : Nat) (here : op = pktField b 0 1) :
    (pktNamed op = none → pktBad b nibs (v == 0) = some 1) ∧
    ((pktNamed op).isSome = true → 0x20 ≤ op → v ≠ 0 → pktBad b nibs (v == 0) = some 3) ∧
    (∀ l, pktNamed op = some l → op < 0x20 ∨ v = 0 →
      (pktReserved b l = true ∨ pktRange b nibs = true → pktBad b nibs (v == 0) = some 2) ∧
      (pktReserved b l = false → pktRange b nibs = false → pktBad b nibs (v == 0) = none)) := by
  have named : ∀ l, pktNamed op = some l → pktBad b nibs (v == 0) =
      if 0x20 ≤ op && !(v == 0) then some 3 else if pktReserved b l || pktRange b nibs then some 2 else none := by
    intro l h
    rw [pktBad, ← here, h]
  have allowed : op < 0x20 ∨ v = 0 → ¬ (decide (0x20 ≤ op) && !(v == 0)) = true := by
    rintro (h | rfl)
    · rw [decide_eq_false (by omega), Bool.false_and]
      exact Bool.false_ne_true
    · simp
  refine ⟨fun h => ?_, fun h privileged other => ?_, fun l h mine => ⟨fun bad => ?_, fun reserved range => ?_⟩⟩
  · rw [pktBad, ← here, h]
  · obtain ⟨l, h⟩ := Option.isSome_iff_exists.1 h
    rw [named l h, if_pos (by simp [privileged, other])]
  · rw [named l h, if_neg (allowed mine), if_pos (by rw [Bool.or_eq_true]; exact bad)]
  · rw [named l h, if_neg (allowed mine), reserved, range]
    rfl

end

theorem packetsAreTaken : Claims.PacketsAreTaken := by
  intro s v q x y b inline here on running unskipped offered all_started alone free packet nibs
  have run := qtail_takes here on running unskipped offered all_started alone free packet
  have queue : (s.ringTail v q x).queue v q = { y with tail := x.setWidth 16 } := by rw [queue_ringTail, ← here]
  have front := (frontEnd_takePacket (s.ringTail v q x) v q y.pos b inline)
  have pkts : ((s.ringTail v q x).queue v q).pkts = y.pkts := by rw [queue]
  have msix : (s.ringTail v q x).vfs[v].msix[2] = s.vfs[v].msix[2] := by rw [State.ringTail, State.modQueue, vfs_setQueue]
  refine ⟨fun c bad => ?_, fun good loop bad => ?_, fun good fits => ⟨fun waits early => ?_, fun waits conditional => ?_⟩, fun op h => packetCodes b nibs v op h⟩
  · have same := takePacket_bad (s := s.ringTail v q x) (q := q) (slot := y.pos) bad inline
    obtain ⟨err, code, head, left, interrupt⟩ := halted_queue (s.ringTail v q x) v q y.pos c
    refine ⟨_, run, front.mem, front.nibs, ?_⟩
    rw [same]
    exact ⟨err, code, head, left.trans pkts, interrupt.trans (by rw [msix])⟩
  · have same := takePacket_loop (s := s.ringTail v q x) (q := q) (slot := y.pos) good inline loop (by rw [queue]; exact bad)
    obtain ⟨err, code, head, left, _⟩ := halted_queue (s.ringTail v q x) v q y.pos 4
    refine ⟨_, run, front.mem, front.nibs, ?_⟩
    rw [same]
    exact ⟨err, code, head, left.trans pkts⟩
  · have same := takePacket_waits (s := s.ringTail v q x) (q := q) (slot := y.pos) good inline (by rw [queue]; exact fits) waits (by rwa [pkts])
    refine ⟨_, run, ?_⟩
    rw [same]
    exact ⟨rfl, queue⟩
  · have same := takePacket_accepts (s := s.ringTail v q x) (q := q) (slot := y.pos) good inline (by rw [queue]; exact fits) (by rwa [pkts])
      (by rwa [pkts])
    obtain ⟨c, low, agenda, k, taken⟩ := accept_eq (s.ringTail v q x) v q y.pos b inline
    refine ⟨_, c, (s.ringTail v q x).accepted v q y.pos b inline, run, front.mem, front.nibs, low, ?_⟩
    rw [same, agenda, taken, queue_joined, queue]
    exact ⟨rfl, rfl, rfl, rfl, rfl, rfl, rfl, rfl, rfl⟩

/-- Settles O53: the offers in `queuesAreOffered`; a packet that may be taken is taken by `qtail_takes`, and the cases of
`takePacket` are those of `packetsAreTaken`. -/
theorem queuesAndPackets : Obligations.QueuesAndPackets :=
  ⟨queuesAreOffered, packetsAreTaken⟩

end Sys2Proof.Machine
end

section
/-! SUPPORT. How a packet runs and completes (14_packets.md R348 to R350, R356, R360), and O55. -/

namespace Sys2Proof.Machine
open Sys2Proof

/-! ## What a host agent reaches -/

/-- A host agent reaches the same places in t as in s: clocks and traffic to be charged apart, the partitions are the same, and so
are the memory, in which the tables lie, and the nibs. -/
structure SameReach (s t : State) : Prop where
  mem : t.mem = s.mem
  nibs : t.nibs = s.nibs
  parts : ∀ p : Fin 16, { t.parts[p] with hostLc := s.parts[p].hostLc, toll := s.parts[p].toll } = s.parts[p]

section
variable {s t u : State} {p f : Fin 16}

theorem SameReach.refl (s : State) : SameReach s s := ⟨rfl, rfl, fun _ => rfl⟩

theorem SameReach.trans (h : SameReach s t) (h' : SameReach t u) : SameReach s u where
  mem := h'.mem.trans h.mem
  nibs := h'.nibs.trans h.nibs
  parts p := by
    have a := h.parts p
    rw [← h'.parts p] at a
    exact a

theorem SameReach.symm (h : SameReach s t) : SameReach t s where
  mem := h.mem.symm
  nibs := h.nibs.symm
  parts p := by rw [← h.parts p]

theorem sameReach_noTolls (s : State) : SameReach s s.noTolls := ⟨rfl, rfl, fun p => by rw [noTolls_part]⟩

theorem AgentOnly.sameReach (h : AgentOnly s t) (mem : t.mem = s.mem) : SameReach s t :=
  ⟨mem, h.nibs, fun p => by rw [← h.parts p]⟩

variable (h : SameReach s t)
include h

theorem SameReach.vf : t.parts[p].vf = s.parts[p].vf := by rw [← h.parts p]

theorem SameReach.folios : t.parts[p].folios = s.parts[p].folios := by rw [← h.parts p]

theorem SameReach.partHas : t.partHas p f = s.partHas p f := by rw [State.partHas, State.partHas, h.vf, h.folios]

theorem SameReach.partHas_fun : t.partHas p = s.partHas p := funext fun _ => h.partHas

theorem SameReach.partOfFolio : t.partOfFolio f = s.partOfFolio f := by simp only [State.partOfFolio, h.partHas]

theorem SameReach.pinEnd_fun : t.pinEnd = s.pinEnd := by
  funext f
  rw [State.pinEnd, State.pinEnd, h.partOfFolio]
  cases s.partOfFolio f with
  | none => rfl
  | some p =>
    have pinlim : t.parts[p].pinlim = s.parts[p].pinlim := by rw [← h.parts p]
    exact congrArg (· * 0x10000) pinlim

theorem SameReach.noBorders (clear : s.NoBorders) : t.NoBorders := by
  intro p f has
  rw [h.partHas] at has
  have := clear p f has
  simp only [State.route, h.partOfFolio]
  exact this

theorem SameReach.partOfVf (v : Fin 17) : t.partOfVf v = s.partOfVf v := by
  simp only [State.partOfVf, h.vf]

theorem SameReach.controlReach_fun : t.controlReach p = s.controlReach p := by
  funext pa
  simp only [State.controlReach, h.partHas]

theorem SameReach.inRecords_fun : t.inRecords = s.inRecords := by
  funext n off
  rw [State.inRecords, State.inRecords, State.nib, State.nib, h.nibs]

theorem SameReach.refused (priv scalar : Bool) (pa : Nat) : t.refused p priv scalar pa = s.refused p priv scalar pa := by
  have unfolded : @State.refused = @State.refused := rfl
  conv_rhs at unfolded => delta State.refused
  have left := congrFun (congrFun (congrFun (congrFun (congrFun unfolded t) p) priv) scalar) pa
  have right := congrFun (congrFun (congrFun (congrFun (congrFun unfolded s) p) priv) scalar) pa
  beta_reduce at left right
  rw [left, right, h.partHas_fun, h.pinEnd_fun, h.controlReach_fun, h.inRecords_fun]

theorem SameReach.rootIn (root : Word) : t.rootIn p root = s.rootIn p root := by
  have unfolded : @State.rootIn = @State.rootIn := rfl
  conv_rhs at unfolded => delta State.rootIn
  have left := congrFun (congrFun (congrFun unfolded t) p) root
  have right := congrFun (congrFun (congrFun unfolded s) p) root
  beta_reduce at left right
  rw [left, right, h.partHas_fun]

theorem SameReach.walk (root va : Word) (store : Bool) : t.walk p root va store = s.walk p root va store :=
  walk_congr s p h.mem (tableOk_congr h.partHas_fun) root va store

theorem SameReach.pubEntry (asid : BitVec 16) (va : Word) : t.pubEntry p asid va = s.pubEntry p asid va := by
  rw [State.pubEntry, State.pubEntry, ← h.parts p]

theorem SameReach.hostPieces (root : Word) (write : Bool) (rs acc : List Range) :
    t.hostPieces p root write rs acc = s.hostPieces p root write rs acc := by
  induction rs generalizing acc with
  | nil => rfl
  | cons r rs ih => simp only [State.hostPieces, h.pubEntry, h.walk, h.refused, ih]

theorem SameReach.queuePart (v : Fin 17) (root : Word) : t.queuePart v root = s.queuePart v root := by
  simp only [State.queuePart, h.rootIn, h.partOfVf]

end


/-! ## A packet's own accesses -/

/-- What the accesses of a packet may change: memory, stamps, the clocks of host agents, and the traffic to be charged. -/
structure Accessed (s t : State) : Prop where
  rest : { t with stamps := s.stamps, parts := s.parts, mem := s.mem } = s
  parts : ∀ p : Fin 16, { t.parts[p] with hostLc := s.parts[p].hostLc, toll := s.parts[p].toll } = s.parts[p]

section
variable {s t u : State} {p : Fin 16}

theorem Accessed.refl (s : State) : Accessed s s := ⟨rfl, fun _ => rfl⟩

theorem Accessed.trans (h : Accessed s t) (h' : Accessed t u) : Accessed s u where
  rest := by rw [← h.rest, ← h'.rest]
  parts p := by
    have a := h.parts p
    rw [← h'.parts p] at a
    exact a

theorem Accessed.frame (h : Accessed s t) : t = { s with stamps := t.stamps, parts := t.parts, mem := t.mem } := by
  rw [← h.rest]

theorem AgentOnly.accessed (h : AgentOnly s t) : Accessed s t := ⟨h.rest, fun p => by rw [← h.parts p]⟩

theorem Accessed.sameReach (h : Accessed s t) (mem : t.mem = s.mem) : SameReach s t :=
  ⟨mem, by rw [h.frame], h.parts⟩

theorem accessed_addToll (s : State) (p : Fin 16) (rs : List Range) : Accessed s (s.addToll p rs) where
  rest := rfl
  parts q := by
    rw [State.addToll]
    by_cases same : q = p
    · subst same
      rw [modPart_same]
    · rw [modPart_ne s _ same]

theorem accessed_hostWrites (p : Fin 16) (x : Nat) (rs : List Range) (s : State) :
    Accessed s (rs.foldl (fun s r => s.hostWrite p r.pa r.size (x / 2 ^ (8 * r.at_))) s) := by
  induction rs generalizing s with
  | nil => exact .refl s
  | cons r rs ih =>
    rw [List.foldl_cons]
    exact (agentOnly_hostWrite s p r.pa r.size _).accessed.trans (ih _)

/-- Writes of a host agent leave the memory that the writes alone make. -/
theorem hostWrites_mem (p : Fin 16) (x : Nat) (rs : List Range) (s : State) :
    (rs.foldl (fun s r => s.hostWrite p r.pa r.size (x / 2 ^ (8 * r.at_))) s).mem =
      rs.foldl (fun m r => Memory.write m r.pa r.size (x / 2 ^ (8 * r.at_))) s.mem := by
  induction rs generalizing s with
  | nil => rfl
  | cons r rs ih => exact ih _

theorem hostStore_accessed {root va : Word} {n x : Nat} (h : s.hostStore p root va n x = some t) : Accessed s t := by
  obtain ⟨rs, _, rfl⟩ := Option.map_eq_some_iff.1 h
  exact (accessed_addToll s p rs).trans (accessed_hostWrites p x rs _)

theorem pktStore_accessed {v : Fin 17} {q : Fin 64} {va : Word} {n x : Nat} (h : s.pktStore v q va n x = some t) : Accessed s t := by
  obtain ⟨p, _, hp⟩ := Option.bind_eq_some_iff.1 h
  exact hostStore_accessed hp

theorem hostLoad_accessed {root va : Word} {n x : Nat} (h : s.hostLoad p root va n = some (x, t)) : Accessed s t ∧ t.mem = s.mem := by
  obtain ⟨rs, _, last⟩ := Option.map_eq_some_iff.1 h
  obtain ⟨only, mem⟩ := hostReads_frame p rs 0 (s.addToll p rs)
  rw [last] at only mem
  exact ⟨(accessed_addToll s p rs).trans only.accessed, mem⟩

theorem pktLoad_accessed {v : Fin 17} {q : Fin 64} {va : Word} {n x : Nat} (h : s.pktLoad v q va n = some (x, t)) : Accessed s t ∧ t.mem = s.mem := by
  obtain ⟨p, _, hp⟩ := Option.bind_eq_some_iff.1 h
  exact hostLoad_accessed hp

theorem agentOnly_agentWait (s : State) (v : Fin 17) (q : Fin 64) (c : Clk) : AgentOnly s (s.agentWait v q c) := by
  rw [State.agentWait]
  split
  · exact agentOnly_modPart ..
  · exact .refl s

theorem agentWait_frame (s : State) (v : Fin 17) (q : Fin 64) (c : Clk) : ∃ parts, s.agentWait v q c = { s with parts := parts } := by
  rw [State.agentWait]
  split
  · exact ⟨_, rfl⟩
  · exact ⟨s.parts, rfl⟩

/-- The memory that a packet's write leaves, and whether it can be made at all, depend on what the agent reaches alone. -/
theorem SameReach.pktStore (h : SameReach s t) {v : Fin 17} {q : Fin 64} (queue : (t.queue v q).root = (s.queue v q).root) (va : Word) (n x : Nat) :
    (t.pktStore v q va n x).map State.mem = (s.pktStore v q va n x).map State.mem := by
  rw [State.pktStore, State.pktStore, queue, h.queuePart]
  cases s.queuePart v (s.queue v q).root with
  | none => rfl
  | some p =>
    rw [Option.bind_some, Option.bind_some, State.hostStore, State.hostStore, h.hostPieces, Option.map_map, Option.map_map]
    refine congrFun (congrArg Option.map (funext fun rs => ?_)) _
    have start : (t.addToll p rs).mem = (s.addToll p rs).mem := h.mem
    have left := hostWrites_mem p x rs (t.addToll p rs)
    rw [start] at left
    exact left.trans (hostWrites_mem p x rs (s.addToll p rs)).symm

/-- A packet's write owes nothing where no border lies in the way. -/
theorem pktStore_tollFree {v : Fin 17} {q : Fin 64} {va : Word} {n x : Nat} (clear : s.NoBorders) (free : s.TollFree)
    (h : s.pktStore v q va n x = some t) : t.TollFree := by
  obtain ⟨p, _, hp⟩ := Option.bind_eq_some_iff.1 h
  obtain ⟨rs, ok, rfl⟩ := Option.map_eq_some_iff.1 hp
  rw [addToll_of_noBorders clear (hostPieces_reach ok (fun _ h => absurd h List.not_mem_nil))]
  have writes : ∀ (l : List Range) (s : State), AgentOnly s (l.foldl (fun s r => s.hostWrite p r.pa r.size (x / 2 ^ (8 * r.at_))) s) := by
    intro l
    induction l with
    | nil => exact fun s => .refl s
    | cons r l ih => exact fun s => (agentOnly_hostWrite s p r.pa r.size _).trans (ih _)
  exact (writes rs s).tollFree free

end


/-! ## Completion (R348, R349, R356) -/

/-- Where the packet's completion is written; 0 where nothing is. -/
def Packet.donePlace (p : Packet) : Word := BitVec.ofNat 64 (((pktDoneAt p.bits).map (fun o => pktField p.bits o 8)).getD 0)

/-- The DONE word of a packet, or the halt of its queue where it cannot be written. -/
def State.writeDone (s : State) (v : Fin 17) (q : Fin 64) (p : Packet) (status : Nat) : State :=
  if p.donePlace = 0 then s
  else (s.pktStore v q p.donePlace 8 (pktField p.bits 4 4 + status * 2 ^ 32)).getD (s.haltFault v q)

/-- The interrupt of a packet's completion. -/
def State.tellDone (s : State) (v : Fin 17) (p : Packet) : State := if (pktField p.bits 1 1).testBit 1 then s.raiseMsix v 0 else s

/-- The packet leaves its queue. -/
def State.leave (s : State) (v : Fin 17) (q : Fin 64) (p : Packet) (c : Clk) : State :=
  s.modQueue v q (fun y => { y with pkts := y.pkts.filter (fun x => x.id != p.id), clk := some ((y.clk.map (Clk.max · c)).getD c) })

/-- A packet that has completed, before its queue goes on. -/
def State.completed (s : State) (v : Fin 17) (q : Fin 64) (p : Packet) (status : Nat) (clk : Clk) : State :=
  let w := ((s.agentWait v q clk).writeDone v q p status).tellDone v p
  w.leave v q p (Clk.max clk (w.agentClk v q))

section
variable {s t u : State} {v : Fin 17} {q : Fin 64} {p : Packet} {status : Nat} {clk : Clk}

theorem queue_of_vfs (h : t.vfs = s.vfs) : t.queue v q = s.queue v q := by rw [State.queue, State.queue, h]

theorem vfs_haltFault (s : State) (v : Fin 17) (q : Fin 64) : (s.haltFault v q).vfs[v].replay = s.vfs[v].replay ∧
    (s.haltFault v q).vfs[v].msix[0] = s.vfs[v].msix[0] :=
  ⟨(frontEnd_haltAt s v q ..).replay, (frontEnd_haltAt s v q ..).interrupts⟩

theorem queue_haltFault (s : State) (v : Fin 17) (q : Fin 64) : ((s.haltFault v q).queue v q).err = true ∧ ((s.haltFault v q).queue v q).code = 5 ∧
    ((s.haltFault v q).queue v q).pkts = (s.queue v q).pkts := by
  have queue : (s.haltFault v q).queue v q = { s.queue v q with
      err := true, code := 5, head := BitVec.ofNat 16 (s.queue v q).pos, pos := (s.queue v q).pos, loop := none } := by
    rw [State.haltFault, State.haltAt, queue_raiseMsix, queue_modQueue]
    rfl
  rw [queue]
  exact ⟨rfl, rfl, rfl⟩

theorem agentWait_vfs (s : State) (v : Fin 17) (q : Fin 64) (c : Clk) : (s.agentWait v q c).vfs = s.vfs := by
  obtain ⟨parts, h⟩ := agentWait_frame s v q c
  rw [h]

theorem tellDone_frame (s : State) (v : Fin 17) (p : Packet) : ∃ vfs, s.tellDone v p = { s with vfs := vfs } := by
  rw [State.tellDone]
  split
  · exact ⟨_, rfl⟩
  · exact ⟨s.vfs, rfl⟩

theorem tellDone_queue (s : State) (v : Fin 17) (p : Packet) (q : Fin 64) : (s.tellDone v p).queue v q = s.queue v q := by
  rw [State.tellDone]
  split
  · exact queue_raiseMsix ..
  · rfl

theorem tellDone_vfs (s : State) (v : Fin 17) (p : Packet) : (s.tellDone v p).vfs[v].replay = s.vfs[v].replay ∧
    (s.tellDone v p).vfs[v].msix[0] = s.vfs[v].msix[0] + (if (pktField p.bits 1 1).testBit 1 = true then 1 else 0) := by
  rw [State.tellDone]
  split
  · exact ⟨by rw [vfs_raiseMsix], raiseMsix_msix s v 0⟩
  · exact ⟨rfl, rfl⟩

/-- A packet whose queue is not replayed completes, and its queue goes on. -/
theorem finishPacket_eq (alone : (s.completed v q p status clk).vfs[v].replay = none) :
    s.finishPacket v q p status clk = (s.completed v q p status clk).pump v q State.pumpFuel := by
  have run : s.finishPacket v q p status clk = match (s.completed v q p status clk).vfs[v].replay with
    | some r =>
      let s := s.completed v q p status clk
      if r.waitFor = some p.id then
        let s : State := { s with vfs := s.vfs.set v { s.vfs[v] with replay := some { r with waitFor := none } } }
        let s := if pktField p.bits 0 1 = 1 ∧ status ≠ 2 then s.replayCheck v else s
        (if s.vfs[v].replay.isSome then s.replayStep v 65536 else s.pump v q State.pumpFuel)
      else s
    | none => (s.completed v q p status clk).pump v q State.pumpFuel := rfl
  rw [run, alone]

theorem completed_queue (s : State) (v : Fin 17) (q : Fin 64) (p : Packet) (status : Nat) (clk : Clk) :
    ∃ c, (s.completed v q p status clk).queue v q = { ((s.agentWait v q clk).writeDone v q p status).queue v q with
      pkts := (((s.agentWait v q clk).writeDone v q p status).queue v q).pkts.filter (fun x => x.id != p.id), clk := c } := by
  rw [State.completed, State.leave, queue_modQueue, tellDone_queue]
  exact ⟨_, rfl⟩

theorem completed_frame (s : State) (v : Fin 17) (q : Fin 64) (p : Packet) (status : Nat) (clk : Clk) :
    ∃ vfs, s.completed v q p status clk = { (s.agentWait v q clk).writeDone v q p status with vfs := vfs } := by
  obtain ⟨vfs, h⟩ := tellDone_frame ((s.agentWait v q clk).writeDone v q p status) v p
  rw [State.completed, h]
  exact ⟨_, rfl⟩

theorem completed_vfs (s : State) (v : Fin 17) (q : Fin 64) (p : Packet) (status : Nat) (clk : Clk) :
    (s.completed v q p status clk).vfs[v].replay = ((s.agentWait v q clk).writeDone v q p status).vfs[v].replay ∧
    (s.completed v q p status clk).vfs[v].msix[0] = ((s.agentWait v q clk).writeDone v q p status).vfs[v].msix[0] +
      (if (pktField p.bits 1 1).testBit 1 = true then 1 else 0) := by
  obtain ⟨replay, msix⟩ := tellDone_vfs ((s.agentWait v q clk).writeDone v q p status) v p
  rw [State.completed, State.leave, replay_modQueue, replay, State.modQueue, vfs_setQueue]
  exact ⟨rfl, msix⟩

/-- A DONE word is written, or it halts its queue: nothing else of the queues changes. -/
theorem writeDone_cases (s : State) (v : Fin 17) (q : Fin 64) (p : Packet) (status : Nat) :
    (s.writeDone v q p status = s.haltFault v q) ∨ Accessed s (s.writeDone v q p status) := by
  rw [State.writeDone]
  split
  · exact .inr (.refl s)
  · cases store : s.pktStore v q p.donePlace 8 (pktField p.bits 4 4 + status * 2 ^ 32) with
    | none => exact .inl rfl
    | some w => exact .inr (pktStore_accessed store)

theorem writeDone_frame (s : State) (v : Fin 17) (q : Fin 64) (p : Packet) (status : Nat) : ∃ vfs stamps parts mem,
    s.writeDone v q p status = { s with vfs := vfs, stamps := stamps, parts := parts, mem := mem } := by
  rcases writeDone_cases s v q p status with h | h
  · rw [h]
    exact ⟨_, s.stamps, s.parts, s.mem, rfl⟩
  · exact ⟨s.vfs, _, _, _, h.frame⟩

theorem writeDone_vfs (s : State) (v : Fin 17) (q : Fin 64) (p : Packet) (status : Nat) :
    (s.writeDone v q p status).vfs[v].replay = s.vfs[v].replay ∧ (s.writeDone v q p status).vfs[v].msix[0] = s.vfs[v].msix[0] ∧
    ((s.writeDone v q p status).queue v q).pkts = (s.queue v q).pkts := by
  rcases writeDone_cases s v q p status with h | h
  · rw [h]
    exact ⟨(vfs_haltFault s v q).1, (vfs_haltFault s v q).2, (queue_haltFault s v q).2.2⟩
  · have vfs : (s.writeDone v q p status).vfs = s.vfs := by rw [h.frame]
    rw [queue_of_vfs vfs, vfs]
    exact ⟨rfl, rfl, rfl⟩

theorem completed_replay (alone : s.vfs[v].replay = none) : (s.completed v q p status clk).vfs[v].replay = none := by
  rw [(completed_vfs ..).1, (writeDone_vfs ..).1, agentWait_vfs, alone]

theorem donePlace_zero (p : Packet) : p.donePlace = 0 ↔ (pktDoneAt p.bits).all (fun o => pktField p.bits o 8 == 0) = true := by
  rw [Packet.donePlace]
  cases pktDoneAt p.bits with
  | none => exact ⟨fun _ => rfl, fun _ => rfl⟩
  | some o =>
    rw [Option.map_some, Option.getD_some, Option.all_some, beq_iff_eq, ← BitVec.toNat_inj, BitVec.toNat_ofNat]
    have small : pktField p.bits o 8 < 2 ^ 64 := Nat.mod_lt _ (Nat.two_pow_pos _)
    rw [Nat.mod_eq_of_lt small]
    rfl

theorem donePlace_of {o : Nat} (at_ : pktDoneAt p.bits = some o) : p.donePlace = BitVec.ofNat 64 (pktField p.bits o 8) := by
  rw [Packet.donePlace, at_]
  rfl

theorem donePlace_ne {o : Nat} (at_ : pktDoneAt p.bits = some o) (h : pktField p.bits o 8 ≠ 0) : p.donePlace ≠ 0 := by
  rw [Ne, donePlace_zero, at_, Option.all_some, beq_iff_eq]
  exact h


theorem writeDone_silent (h : p.donePlace = 0) (s : State) : s.writeDone v q p status = s := if_pos h

/-- What the write of a DONE word leaves does not depend on the agent's clock. -/
theorem pktStore_agentWait (s : State) (va : Word) (n x : Nat) (clk : Clk) :
    ((s.agentWait v q clk).pktStore v q va n x).map State.mem = (s.pktStore v q va n x).map State.mem := by
  obtain ⟨parts, frame⟩ := agentWait_frame s v q clk
  refine ((agentOnly_agentWait s v q clk).sameReach (by rw [frame])).pktStore ?_ va n x
  rw [queue_of_vfs (agentWait_vfs ..)]

theorem writeDone_written (h : p.donePlace ≠ 0) {w : State}
    (store : s.pktStore v q p.donePlace 8 (pktField p.bits 4 4 + status * 2 ^ 32) = some w) :
    ((s.agentWait v q clk).writeDone v q p status).mem = w.mem := by
  have same := pktStore_agentWait (v := v) (q := q) s p.donePlace 8 (pktField p.bits 4 4 + status * 2 ^ 32) clk
  rw [store, Option.map_some] at same
  obtain ⟨w', store', mem⟩ := Option.map_eq_some_iff.1 same
  rw [State.writeDone, if_neg h, store', Option.getD_some, mem]

theorem writeDone_lost (h : p.donePlace ≠ 0) (store : s.pktStore v q p.donePlace 8 (pktField p.bits 4 4 + status * 2 ^ 32) = none) :
    (s.agentWait v q clk).writeDone v q p status = (s.agentWait v q clk).haltFault v q := by
  have same := pktStore_agentWait (v := v) (q := q) s p.donePlace 8 (pktField p.bits 4 4 + status * 2 ^ 32) clk
  rw [store, Option.map_none, Option.map_eq_none_iff] at same
  rw [State.writeDone, if_neg h, same, Option.getD_none]

theorem completed_mem (s : State) : (s.completed v q p status clk).mem = ((s.agentWait v q clk).writeDone v q p status).mem := by
  obtain ⟨vfs, frame⟩ := completed_frame s v q p status clk
  rw [frame]

/-- R348, R349, R356: a packet of a queue that is not replayed has completed. -/
theorem finished_finishPacket (alone : s.vfs[v].replay = none) (p : Packet) (status : Nat) (clk : Clk) :
    Finished s (s.finishPacket v q p status clk) v q p status := by
  rw [finishPacket_eq (completed_replay alone)]
  have front := frontEnd_pump v q State.pumpFuel (s.completed v q p status clk)
  obtain ⟨vfs, completed⟩ := completed_frame s v q p status clk
  obtain ⟨vfs', stamps, parts, mem, written⟩ := writeDone_frame (s.agentWait v q clk) v q p status
  obtain ⟨parts', waited⟩ := agentWait_frame s v q clk
  obtain ⟨c, queue⟩ := completed_queue s v q p status clk
  have frame : s.completed v q p status clk = { s with vfs := vfs, stamps := stamps, parts := parts, mem := mem } := by
    rw [completed, written, waited]
  have silent : p.donePlace = 0 → ((s.agentWait v q clk).writeDone v q p status) = s.agentWait v q clk := fun h => writeDone_silent h _
  refine ⟨fun nowhere => ?_, fun o w at_ named store => ?_, fun o at_ named store => ?_, fun old x hx => ?_, ?_, ?_, ?_, ?_, fun nowhere drained => ?_⟩
  · rw [front.mem, completed_mem, silent (donePlace_zero p |>.2 nowhere), waited]
  · rw [← donePlace_of at_] at store
    rw [front.mem, completed_mem, writeDone_written (donePlace_ne at_ named) store]
  · rw [← donePlace_of at_] at store
    have halted := writeDone_lost (clk := clk) (donePlace_ne at_ named) store
    obtain ⟨err, code, _⟩ := queue_haltFault (s.agentWait v q clk) v q
    rw [halted] at queue
    have kept : ((s.agentWait v q clk).haltFault v q).mem = s.mem := by
      rw [waited]
      rfl
    rw [pump_stops (frontStops_of queue (.inr (.inl err))), queue, completed_mem, halted, kept]
    exact ⟨rfl, err, code⟩
  · rcases front.pkts x hx with h | h
    · rw [queue] at h
      have := (List.mem_filter.1 h).2
      simpa using this
    · rw [frame] at h
      exact Nat.ne_of_gt (Nat.lt_of_lt_of_le old h)
  · rw [front.interrupts, (completed_vfs ..).2, (writeDone_vfs ..).2.1, agentWait_vfs]
  · rw [front.nibs, frame]
  · rw [front.ops, frame]
  · rw [front.launches, frame]
  · have same := silent (donePlace_zero p |>.2 nowhere)
    rw [same, queue_of_vfs (agentWait_vfs ..)] at queue
    rw [pump_stops (frontStops_of queue (.inr (.inr drained))), queue, frame]
    exact ⟨rfl, rfl, c, rfl⟩

/-! ## The traffic of a packet (R360) -/

/-- Nothing of a completion changes with what is left to be charged. -/
theorem Finished.of_noTolls (h : Finished u.noTolls t v q p status) : Finished u t v q p status where
  silent := h.silent
  done o w at_ named store := by
    have same := (sameReach_noTolls u).pktStore (v := v) (q := q) rfl (BitVec.ofNat 64 (pktField p.bits o 8)) 8 (pktField p.bits 4 4 + status * 2 ^ 32)
    rw [store, Option.map_some] at same
    obtain ⟨w', store', mem⟩ := Option.map_eq_some_iff.1 same
    rw [h.done o w' at_ named store', mem]
  lost o at_ named store := by
    have same := (sameReach_noTolls u).pktStore (v := v) (q := q) rfl (BitVec.ofNat 64 (pktField p.bits o 8)) 8 (pktField p.bits 4 4 + status * 2 ^ 32)
    rw [store, Option.map_none, Option.map_eq_none_iff] at same
    exact h.lost o at_ named same
  gone := h.gone
  interrupt := h.interrupt
  nibs := h.nibs
  ops := h.ops
  launches := h.launches
  idle := h.idle

theorem Finished.of_parts {parts : Vector Part 16} (h : Finished u t v q p status) : Finished u { t with parts := parts } v q p status :=
  ⟨h.silent, h.done, h.lost, h.gone, h.interrupt, h.nibs, h.ops, h.launches, h.idle⟩

/-- A packet that has left its queue is marked nowhere. -/
theorem Finished.marked (h : Finished u t v q p status) (f : Packet → Packet) :
    Finished u (t.modPacket v q p.id f) v q p status := by
  have queue : (t.modPacket v q p.id f).queue v q = { t.queue v q with
      pkts := (t.queue v q).pkts.map (fun x => if x.id = p.id then f x else x) } := queue_modQueue ..
  refine ⟨h.silent, h.done, fun o at_ named store => ?_, fun old x hx => ?_, ?_, h.nibs, h.ops, h.launches, fun nowhere drained => ?_⟩
  · obtain ⟨mem, err, code⟩ := h.lost o at_ named store
    rw [queue]
    exact ⟨mem, err, code⟩
  · rw [queue] at hx
    obtain ⟨y, hy, rfl⟩ := List.mem_map.1 hx
    have other := h.gone old y hy
    rw [if_neg other]
    exact other
  · rw [State.modPacket, State.modQueue, vfs_setQueue]
    exact h.interrupt
  · obtain ⟨hostMem, agenda, c, left⟩ := h.idle nowhere drained
    refine ⟨hostMem, agenda, c, ?_⟩
    rw [queue, left]
    have same : ((u.queue v q).pkts.filter (fun x => x.id != p.id)).map (fun x => if x.id = p.id then f x else x) =
        (u.queue v q).pkts.filter (fun x => x.id != p.id) := by
      refine (List.map_congr_left fun x hx => ?_).trans (List.map_id _)
      have other : x.id ≠ p.id := by simpa using (List.mem_filter.1 hx).2
      exact if_neg other
    rw [same]

/-- The bytes of a packet's accesses have been paid for, or there were none to pay for. -/
theorem settlePacket_free (unpaid : p.paid = false) (free : t.TollFree) : s.settlePacket v q p t = t := by
  have due : (List.finRange 16).filter (fun i => !t.parts[i].toll.isEmpty) = [] := by
    rw [List.filter_eq_nil_iff]
    intro i _
    rw [free i]
    exact Bool.false_ne_true
  rw [State.settlePacket, if_neg (by rw [unpaid]; exact Bool.false_ne_true)]
  simp only [due, List.find?_nil, List.foldl_nil, noTolls_of_tollFree free]

theorem settlePacket_paid (paid : p.paid = true) (s t : State) :
    s.settlePacket v q p t = t.noTolls.modPacket v q p.id (fun p => { p with paid := false }) := if_pos paid

theorem Finished.settles (h : Finished u t v q p status) (settled : p.paid = true ∨ t.TollFree) (s : State) :
    Finished u (s.settlePacket v q p t) v q p status := by
  cases paid : p.paid with
  | true =>
    rw [settlePacket_paid paid]
    exact h.of_parts.marked _
  | false =>
    rw [paid] at settled
    rw [settlePacket_free paid (settled.resolve_left Bool.false_ne_true)]
    exact h


theorem finishPacket_tollFree (alone : s.vfs[v].replay = none) (free : s.TollFree) (clear : s.NoBorders ∨ p.donePlace = 0) (status : Nat) (clk : Clk) :
    (s.finishPacket v q p status clk).TollFree := by
  have waits := agentOnly_agentWait s v q clk
  have wait : (s.agentWait v q clk).TollFree := waits.tollFree free
  have done : ((s.agentWait v q clk).writeDone v q p status).TollFree := by
    by_cases nowhere : p.donePlace = 0
    · rw [writeDone_silent nowhere]
      exact wait
    · have borders : (s.agentWait v q clk).NoBorders := by
        obtain ⟨parts, frame⟩ := agentWait_frame s v q clk
        exact (waits.sameReach (by rw [frame])).noBorders (clear.resolve_right nowhere)
      rw [State.writeDone, if_neg nowhere]
      cases store : (s.agentWait v q clk).pktStore v q p.donePlace 8 (pktField p.bits 4 4 + status * 2 ^ 32) with
      | none => exact wait
      | some w => exact pktStore_tollFree borders wait store
  obtain ⟨vfs, completed⟩ := completed_frame s v q p status clk
  rw [finishPacket_eq (completed_replay alone)]
  intro i
  rw [(frontEnd_pump v q State.pumpFuel _).parts, completed]
  exact done i

/-! ## The run of a packet -/

theorem onPacket_runs {id : Nat} (found : s.findPacket id = some (v, q, p)) (free : p.started = true ∨ s.vfHeld v = false)
    (f : State → Fin 17 → Fin 64 → Packet → State) :
    s.onPacket id f = .next (s.settlePacket v q p (f (s.startPacket v q p).noTolls v q p)) := by
  rw [State.onPacket, found]
  refine if_neg fun h => ?_
  rw [Bool.and_eq_true, Bool.not_eq_true'] at h
  rcases free with started | unheld
  · rw [started] at h
    exact absurd h.1 (by decide)
  · rw [unheld] at h
    exact absurd h.2 (by decide)

/-- A packet whose own steps lead to w completes. -/
theorem onPacket_finishes {id : Nat} {w : State} {f : State → Fin 17 → Fin 64 → Packet → State} (found : s.findPacket id = some (v, q, p))
    (free : p.started = true ∨ s.vfHeld v = false) (run : f (s.startPacket v q p).noTolls v q p = w.finishPacket v q p status clk)
    (alone : w.vfs[v].replay = none) (settled : p.paid = true ∨ (w.TollFree ∧ (w.NoBorders ∨ p.donePlace = 0))) :
    ∃ t, s.onPacket id f = .next t ∧ Finished w t v q p status := by
  refine ⟨_, onPacket_runs found free f, ?_⟩
  rw [run]
  exact (finished_finishPacket alone p status clk).settles (settled.imp_right fun h => finishPacket_tollFree alone h.1 h.2 status clk) s

theorem startPacket_vfs (s : State) (v : Fin 17) (q : Fin 64) (p : Packet) : (s.startPacket v q p).vfs[v].replay = s.vfs[v].replay := by
  rw [State.startPacket, State.modPacket, replay_modQueue, agentWait_vfs]

theorem startPacket_root (s : State) (v : Fin 17) (q : Fin 64) (p : Packet) : ((s.startPacket v q p).queue v q).root = (s.queue v q).root := by
  rw [State.startPacket, State.modPacket, queue_modQueue, queue_of_vfs (agentWait_vfs ..)]

theorem startPacket_frame (s : State) (v : Fin 17) (q : Fin 64) (p : Packet) : ∃ vfs parts, s.startPacket v q p = { s with vfs := vfs, parts := parts } := by
  obtain ⟨parts, h⟩ := agentWait_frame s v q p.clk
  rw [State.startPacket, h]
  exact ⟨_, _, rfl⟩

theorem startPacket_sameReach (s : State) (v : Fin 17) (q : Fin 64) (p : Packet) : SameReach s (s.startPacket v q p) := by
  obtain ⟨vfs, parts, h⟩ := startPacket_frame s v q p
  have only := agentOnly_agentWait s v q p.clk
  obtain ⟨parts', wait⟩ := agentWait_frame s v q p.clk
  have reach := only.sameReach (by rw [wait])
  exact ⟨reach.mem, reach.nibs, reach.parts⟩

/-- Before its accesses a packet stands where it started, with nothing to be charged. -/
theorem startPacket_clear {s : State} (clear : s.NoBorders) (v : Fin 17) (q : Fin 64) (p : Packet) : (s.startPacket v q p).noTolls.NoBorders :=
  noTolls_noBorders ((startPacket_sameReach s v q p).noBorders clear)

end


section
variable {s t : State} {v : Fin 17} {q : Fin 64} {p : Packet}

/-- What settling changes: marks of packets, and the traffic to be charged. -/
theorem settlePacket_frame (settled : p.paid = true ∨ t.TollFree) (s : State) :
    (∃ vfs parts, s.settlePacket v q p t = { t with vfs := vfs, parts := parts }) ∧
    ∃ pkts, (s.settlePacket v q p t).queue v q = { t.queue v q with pkts := pkts } := by
  cases paid : p.paid with
  | true =>
    rw [settlePacket_paid paid]
    exact ⟨⟨_, _, rfl⟩, _, queue_modQueue ..⟩
  | false =>
    rw [paid] at settled
    rw [settlePacket_free paid (settled.resolve_left Bool.false_ne_true)]
    exact ⟨⟨t.vfs, t.parts, rfl⟩, (t.queue v q).pkts, rfl⟩

/-! ## Reads of a packet -/

theorem hostReads_value (p : Fin 16) (rs : List Range) (x : Nat) (s : State) :
    (rs.foldl (fun (acc : Nat × State) r =>
      let (t, s) := acc.2.readStamp r.pa acc.2.parts[p].hostLc 0
      (acc.1 + Memory.read s.mem r.pa r.size * 2 ^ (8 * r.at_), s.modPart p (fun y => { y with hostLc := t }))) (x, s)).1 =
    rs.foldl (fun x r => x + Memory.read s.mem r.pa r.size * 2 ^ (8 * r.at_)) x := by
  induction rs generalizing x s with
  | nil => rfl
  | cons r rs ih =>
    rw [List.foldl_cons, List.foldl_cons]
    exact ih _ (s.hostRead p r.pa)

/-- What a packet reads depends on what the agent reaches alone. -/
theorem SameReach.pktLoad (h : SameReach s t) (queue : (t.queue v q).root = (s.queue v q).root) (va : Word) (n : Nat) :
    (t.pktLoad v q va n).map Prod.fst = (s.pktLoad v q va n).map Prod.fst := by
  rw [State.pktLoad, State.pktLoad, queue, h.queuePart]
  cases s.queuePart v (s.queue v q).root with
  | none => rfl
  | some p =>
    rw [Option.bind_some, Option.bind_some, State.hostLoad, State.hostLoad, h.hostPieces, Option.map_map, Option.map_map]
    refine congrFun (congrArg Option.map (funext fun rs => ?_)) _
    have left := hostReads_value p rs 0 (t.addToll p rs)
    have right := hostReads_value p rs 0 (s.addToll p rs)
    rw [show (t.addToll p rs).mem = s.mem from h.mem] at left
    exact left.trans right.symm

theorem pktLoad_tollFree {va : Word} {n x : Nat} (clear : s.NoBorders) (free : s.TollFree) (h : s.pktLoad v q va n = some (x, t)) : t.TollFree := by
  obtain ⟨p, _, hp⟩ := Option.bind_eq_some_iff.1 h
  obtain ⟨rs, ok, last⟩ := Option.map_eq_some_iff.1 hp
  rw [addToll_of_noBorders clear (hostPieces_reach ok (fun _ h => absurd h List.not_mem_nil))] at last
  obtain ⟨only, _⟩ := hostReads_frame p rs 0 s
  rw [last] at only
  exact only.tollFree free

/-! ## Wakes (R20) -/

theorem folioOf_number (f : Fin 16) {o : Nat} (ho : o < 4096) : State.folioOf (Fin.ofNat 65536 (f.val * 4096 + o)) = f := by
  have := f.isLt
  apply Fin.ext
  simp only [State.folioOf, Fin.val_ofNat]
  omega

/-- The number of a nib within its folio. -/
def ordinalIn (n : NibId) : Nat := n.val % 4096

theorem number_ordinalIn (n : NibId) : (Fin.ofNat 65536 ((State.folioOf n).val * 4096 + ordinalIn n) : NibId) = n := by
  have := n.isLt
  apply Fin.ext
  simp only [State.folioOf, Fin.val_ofNat, ordinalIn]
  omega

/-- The wake of a launch is due at every nib of a folio. -/
theorem floodFolio_eq {l : Launch} {f : Fin 16} (way : s.route l.part f = []) (from_ : Nat) : ∃ evs,
    s.floodFolio l from_ f = { s with fresh := s.fresh + 4096, agenda := s.agenda ++ evs } ∧
    ∀ m : NibId, State.folioOf m = f → ∃ c, s.cycle < c ∧ c ≤ max (s.cycle + 1) (from_ + 1024) ∧ (c, Instr.wakeAccept m l.id) ∈ evs := by
  have owes : ({ s with fresh := s.fresh + 4096 } : State).owing l.part f false 64 = [] := owing_of_route way false 64
  have run : s.floodFolio l from_ f = ({ s with fresh := s.fresh + 4096 } : State).crossBorder l.part 1 (s.owing l.part f false 64)
    ((List.range 4096).map (fun o => ((({ s with fresh := s.fresh + o } : State).freeCycle (s.cycle + 1)
      (some (max (s.cycle + 1) (from_ + 1024)))).1, Instr.wakeAccept (Fin.ofNat 65536 (f.val * 4096 + o)) l.id))) := rfl
  rw [show s.owing l.part f false 64 = [] from owes, crossBorder_nil] at run
  refine ⟨_, run, fun m home => ?_⟩
  obtain ⟨low, high, _⟩ := freeCycle_bounds ({ s with fresh := s.fresh + ordinalIn m } : State)
    (lo := s.cycle + 1) (hi := max (s.cycle + 1) (from_ + 1024)) (Nat.le_max_left ..)
  refine ⟨_, low, high, List.mem_map.2 ⟨ordinalIn m, List.mem_range.2 (Nat.mod_lt _ (by decide)), ?_⟩⟩
  rw [← home, number_ordinalIn]

theorem floodFolios_eq {l : Launch} (from_ : Nat) (fs : List (Fin 16)) (s : State) (reached : ∀ f ∈ fs, s.folios[f].lost = false ∧ s.route l.part f = []) :
    ∃ fresh evs, fs.foldl (fun s f => if s.folios[f].lost then s else s.floodFolio l from_ f) s =
      { s with fresh := fresh, agenda := s.agenda ++ evs } ∧
    ∀ m : NibId, State.folioOf m ∈ fs → ∃ c, s.cycle < c ∧ c ≤ max (s.cycle + 1) (from_ + 1024) ∧ (c, Instr.wakeAccept m l.id) ∈ evs := by
  induction fs generalizing s with
  | nil => exact ⟨s.fresh, [], by rw [List.append_nil]; rfl, fun _ h => absurd h List.not_mem_nil⟩
  | cons f fs ih =>
    obtain ⟨found, way⟩ := reached f List.mem_cons_self
    obtain ⟨evs, first, here⟩ := floodFolio_eq way from_
    rw [List.foldl_cons, found, if_neg Bool.false_ne_true, first]
    obtain ⟨fresh, more, rest, there⟩ := ih { s with fresh := s.fresh + 4096, agenda := s.agenda ++ evs }
      (fun g hg => reached g (List.mem_cons_of_mem _ hg))
    refine ⟨fresh, evs ++ more, ?_, fun m home => ?_⟩
    · rw [rest, ← List.append_assoc]
    · rcases List.mem_cons.1 home with same | later
      · obtain ⟨c, low, high, due⟩ := here m same
        exact ⟨c, low, high, List.mem_append_left _ due⟩
      · obtain ⟨c, low, high, due⟩ := there m later
        exact ⟨c, low, high, List.mem_append_right _ due⟩

end


/-- A launch none of whose folios is lost, and that meets no border, wakes every nib of them. -/
theorem floodWake_eq {s : State} {l : Launch} (from_ : Nat) (reached : ∀ f ∈ l.foliosOf, s.folios[f].lost = false ∧ s.route l.part f = []) :
    ∃ fresh evs, s.floodWake l from_ = { s with fresh := fresh, agenda := s.agenda ++ evs } ∧
    ∀ m : NibId, State.folioOf m ∈ l.foliosOf → ∃ c, s.cycle < c ∧ c ≤ max (s.cycle + 1) (from_ + 1024) ∧ (c, Instr.wakeAccept m l.id) ∈ evs :=
  floodFolios_eq from_ l.foliosOf s reached

/-! ## LAUNCH (R350 to R353) -/

/-- The launch of packet p, whose record is r. -/
def State.launchOf (w : State) (v : Fin 17) (q : Fin 64) (p : Packet) (part : Fin 16) (r : Nat) : Launch where
  id := w.newId.1
  vf := v
  queue := q
  pkt := p.id
  bits := p.bits
  record := BitVec.ofNat 1024 r
  root := (w.newId.2.queue v q).root
  clk := Clk.max p.clk (w.newId.2.agentClk v q)
  endClk := Clk.max p.clk (w.newId.2.agentClk v q)
  left := pktField p.bits 0x18 8
  lost := false
  part := part
  folios := w.newId.2.parts[part].folios

/-- The launch has begun. -/
def State.begun (w : State) (l : Launch) : State := { w.newId.2 with launches := w.newId.2.launches ++ [l] }

/-- The packet of a launch that cannot begin leaves its queue, which halts. -/
def State.refuseLaunch (w : State) (v : Fin 17) (q : Fin 64) (p : Packet) : State :=
  (w.modQueue v q (fun y => { y with pkts := y.pkts.filter (fun x => x.id != p.id) })).haltAt v q p.slot 2

section
variable {s t w : State} {v : Fin 17} {q : Fin 64} {p : Packet} {part : Fin 16}

theorem launch_nowhere (nobody : s.partOfVf v = none) : s.launch v q p = s.finishPacket v q p 2 p.clk := by
  rw [State.launch, nobody]

theorem launch_unread (owner : s.partOfVf v = some part) (record : s.pktLoad v q (BitVec.ofNat 64 (pktField p.bits 0x20 8)) 128 = none) :
    s.launch v q p = s.refuseLaunch v q p := by
  rw [State.launch, owner]
  dsimp only
  rw [record]
  rfl

theorem launch_malformed {r : Nat} (owner : s.partOfVf v = some part)
    (record : s.pktLoad v q (BitVec.ofNat 64 (pktField p.bits 0x20 8)) 128 = some (r, w)) (bad : levelsOk r = false) :
    s.launch v q p = w.refuseLaunch v q p := by
  rw [State.launch, owner]
  dsimp only
  rw [record]
  dsimp only
  rw [bad]
  rfl

theorem launch_begins {r : Nat} (owner : s.partOfVf v = some part)
    (record : s.pktLoad v q (BitVec.ofNat 64 (pktField p.bits 0x20 8)) 128 = some (r, w)) (good : levelsOk r = true)
    (found : ∀ f ∈ (w.launchOf v q p part r).foliosOf, w.folios[f].lost = false) (tasks : pktField p.bits 0x18 8 ≠ 0) :
    s.launch v q p = ((w.begun (w.launchOf v q p part r)).floodWake (w.launchOf v q p part r) p.accepted).pump v q State.pumpFuel := by
  have gone : (((w.launchOf v q p part r).foliosOf.filter (fun f => w.newId.2.folios[f].lost)).map
      (State.tasksOn (w.launchOf v q p part r))).sum = 0 := by
    rw [List.filter_eq_nil_iff.2 (fun f hf => by rw [show w.newId.2.folios[f].lost = false from found f hf]; exact Bool.false_ne_true)]
    rfl
  have run : s.launch v q p =
      (let gone := (((w.launchOf v q p part r).foliosOf.filter (fun f => w.newId.2.folios[f].lost)).map (State.tasksOn (w.launchOf v q p part r))).sum
       let l : Launch := { w.launchOf v q p part r with left := pktField p.bits 0x18 8 - gone, lost := gone != 0 }
       (if l.left = 0 then (w.begun l).schedule w.newId.2.cycle (.launchComplete w.newId.1) else (w.begun l).floodWake l p.accepted).pump v q State.pumpFuel) := by
    rw [State.launch, owner]
    dsimp only
    rw [record]
    dsimp only
    rw [good, if_neg (by decide)]
    rfl
  rw [run, gone]
  exact congrArg (fun u : State => u.pump v q State.pumpFuel) (if_neg tasks)

theorem refused_queue (w : State) (v : Fin 17) (q : Fin 64) (p : Packet) : ((w.refuseLaunch v q p).queue v q).err = true ∧
    ((w.refuseLaunch v q p).queue v q).code = 2 ∧ ((w.refuseLaunch v q p).queue v q).head = BitVec.ofNat 16 p.slot := by
  rw [State.refuseLaunch, State.haltAt, queue_raiseMsix, queue_modQueue]
  exact ⟨rfl, rfl, rfl⟩

/-- A launch that cannot begin halts its queue. -/
theorem launch_refused {id : Nat} (found : s.findPacket id = some (v, q, p)) (runs : s.Runs v p) (u : State)
    (run : (s.startPacket v q p).noTolls.launch v q p = u.refuseLaunch v q p) (accessed : Accessed (s.startPacket v q p).noTolls u)
    (mem : u.mem = s.mem) (free : s.NoBorders → u.TollFree) : ∃ t, exec (.launch id) s = .next t ∧ t.mem = s.mem ∧
      t.nibs = s.nibs ∧ (t.queue v q).err = true ∧ (t.queue v q).code = 2 ∧ (t.queue v q).head = BitVec.ofNat 16 p.slot := by
  have toll : p.paid = true ∨ (u.refuseLaunch v q p).TollFree := runs.paid.imp_right fun clear => free clear
  obtain ⟨⟨vfs, parts, frame⟩, pkts, queue⟩ := settlePacket_frame (v := v) (q := q) toll s
  obtain ⟨vfs', parts', start⟩ := startPacket_frame s v q p
  have nibs : u.nibs = s.nibs := by
    rw [accessed.frame, start]
    rfl
  refine ⟨_, onPacket_runs found runs.free State.launch, ?_⟩
  rw [run, queue, frame]
  exact ⟨mem, nibs, refused_queue u v q p⟩

end


section
variable {s t u w : State} {v : Fin 17} {q : Fin 64} {p : Packet} {part f : Fin 16} {id : Nat}

theorem SameReach.route (h : SameReach s t) : t.route part f = s.route part f := by
  simp only [State.route, h.partOfFolio]

theorem Accessed.reach (h : Accessed s t) (mem : t.mem = s.mem) : SameReach s t := h.sameReach mem

theorem vf_of_partOfVf (owner : s.partOfVf v = some part) : s.parts[part].vf = v.val ∧ v ≠ 0 := by
  rw [State.partOfVf] at owner
  split at owner
  · exact nomatch owner
  next other => exact ⟨by simpa using List.find?_some owner, other⟩

theorem partHas_of_folios (owner : s.partOfVf v = some part) (h : s.parts[part].folios.getLsbD f.val = true) : s.partHas part f = true := by
  obtain ⟨vf, other⟩ := vf_of_partOfVf owner
  have used : v.val ≠ 0 := fun e => other (Fin.ext e)
  rw [State.partHas, h, vf, Bool.and_true, bne_iff_ne]
  exact used

/-- A packet starts, and has nothing to be charged, where its virtual function's partition stands. -/
theorem started_reach (s : State) (v : Fin 17) (q : Fin 64) (p : Packet) : SameReach s (s.startPacket v q p).noTolls :=
  (startPacket_sameReach s v q p).trans (sameReach_noTolls _)

/-- A launch whose record is good begins: its wake is due at every nib of its partition. -/
theorem launch_floods {r : Nat} (found : s.findPacket id = some (v, q, p)) (runs : s.Runs v p) (owner : s.partOfVf v = some part)
    (record : (s.startPacket v q p).noTolls.pktLoad v q (BitVec.ofNat 64 (pktField p.bits 0x20 8)) 128 = some (r, w)) (good : levelsOk r = true)
    (alive : ∀ g, s.partHas part g = true → s.folios[g].lost = false) (tasks : pktField p.bits 0x18 8 ≠ 0)
    (way : ∀ g, s.partHas part g = true → s.route part g = []) :
    ∃ t, exec (.launch id) s = .next t ∧ t.mem = s.mem ∧ t.nibs = s.nibs ∧ t.launches = s.launches ++ [w.launchOf v q p part r] ∧
      ∀ m : NibId, s.partHas part (State.folioOf m) = true →
        ∃ c, s.cycle < c ∧ c ≤ max (s.cycle + 1) (p.accepted + 1024) ∧ (c, .wakeAccept m (w.launchOf v q p part r).id) ∈ t.agenda := by
  obtain ⟨accessed, mem⟩ := pktLoad_accessed record
  have start := started_reach s v q p
  have reach : SameReach s w := start.trans (accessed.sameReach mem)
  obtain ⟨vfs, parts, begins⟩ := startPacket_frame s v q p
  have rest : w = { s with vfs := vfs, stamps := w.stamps, parts := w.parts, mem := w.mem } := by
    have frame := accessed.frame
    rw [begins] at frame
    exact frame
  have ofPart : ∀ g, g ∈ (w.launchOf v q p part r).foliosOf ↔ s.partHas part g = true := by
    intro g
    rw [Launch.foliosOf, List.mem_filter]
    have same : (w.launchOf v q p part r).folios = s.parts[part].folios := reach.folios
    rw [same]
    constructor
    · exact fun h => partHas_of_folios owner h.2
    · intro has
      rw [State.partHas, Bool.and_eq_true] at has
      exact ⟨List.mem_finRange g, has.2⟩
  have found_folios : w.folios = s.folios := by rw [rest]
  have goes := launch_begins (p := p) ((start.partOfVf v).trans owner) record good
    (fun g hg => by rw [found_folios]; exact alive g ((ofPart g).1 hg)) tasks
  obtain ⟨fresh, evs, flood, due⟩ := floodWake_eq (l := w.launchOf v q p part r) (s := w.begun (w.launchOf v q p part r)) p.accepted
    (fun g hg => ⟨by
      have lost := alive g ((ofPart g).1 hg)
      rw [← found_folios] at lost
      exact lost, (show (w.begun (w.launchOf v q p part r)).route part g = w.route part g from rfl).trans (reach.route.trans (way g ((ofPart g).1 hg)))⟩)
  rw [flood] at goes
  have front := frontEnd_pump v q State.pumpFuel ({ w.begun (w.launchOf v q p part r) with
    fresh := fresh, agenda := (w.begun (w.launchOf v q p part r)).agenda ++ evs } : State)
  generalize ({ w.begun (w.launchOf v q p part r) with
    fresh := fresh, agenda := (w.begun (w.launchOf v q p part r)).agenda ++ evs } : State).pump v q State.pumpFuel = x at goes front
  have toll : p.paid = true ∨ x.TollFree := runs.paid.imp_right fun clear => by
    have free := pktLoad_tollFree (startPacket_clear clear v q p) (noTolls_tollFree _) record
    intro g
    rw [front.parts]
    exact free g
  obtain ⟨⟨vfs', parts', settled⟩, _⟩ := settlePacket_frame (v := v) (q := q) toll s
  refine ⟨_, onPacket_runs found runs.free State.launch, ?_⟩
  rw [goes, settled]
  have launches : w.launches = s.launches := by rw [rest]
  have cycle : w.cycle = s.cycle := by rw [rest]
  refine ⟨front.mem.trans reach.mem, front.nibs.trans reach.nibs, front.launches.trans (congrArg (· ++ [w.launchOf v q p part r]) launches), fun m has => ?_⟩
  obtain ⟨c, low, high, member⟩ := due m ((ofPart _).2 has)
  have clock : (w.begun (w.launchOf v q p part r)).cycle = s.cycle := cycle
  rw [clock] at low high
  obtain ⟨l, agenda⟩ := front.agenda
  refine ⟨c, low, high, ?_⟩
  show _ ∈ x.agenda
  rw [agenda]
  exact List.mem_append_left _ (List.mem_append_right _ member)

end


/-! ## The end of a launch (R343, R350) -/

section
variable {s t u u' : State} {v : Fin 17} {q : Fin 64} {p : Packet} {status : Nat}

theorem Accessed.symm (h : Accessed s t) : Accessed t s := ⟨by rw [← h.rest], fun p => by rw [← h.parts p]⟩

theorem accessed_noTolls (s : State) : Accessed s s.noTolls := ⟨rfl, fun p => by rw [noTolls_part]⟩

/-- A completion does not depend on the clocks and stamps of the state before it, nor on what is left to be charged. -/
theorem Finished.of_accessed (h : Finished u' t v q p status) (accessed : Accessed u u') (mem : u'.mem = u.mem) : Finished u t v q p status := by
  have reach := accessed.sameReach mem
  have frame := accessed.frame
  have vfs : u'.vfs = u.vfs := by rw [frame]
  have queue : u'.queue v q = u.queue v q := queue_of_vfs vfs
  refine ⟨fun nowhere => (h.silent nowhere).trans mem, fun o w at_ named store => ?_, fun o at_ named store => ?_, fun old => h.gone ?_, ?_, ?_, ?_, ?_,
    fun nowhere drained => ?_⟩
  · have same := reach.pktStore (v := v) (q := q) (by rw [queue]) (BitVec.ofNat 64 (pktField p.bits o 8)) 8 (pktField p.bits 4 4 + status * 2 ^ 32)
    rw [store, Option.map_some] at same
    obtain ⟨w', store', left⟩ := Option.map_eq_some_iff.1 same
    rw [h.done o w' at_ named store', left]
  · have same := reach.pktStore (v := v) (q := q) (by rw [queue]) (BitVec.ofNat 64 (pktField p.bits o 8)) 8 (pktField p.bits 4 4 + status * 2 ^ 32)
    rw [store, Option.map_none, Option.map_eq_none_iff] at same
    exact ⟨(h.lost o at_ named same).1.trans mem, (h.lost o at_ named same).2⟩
  · rw [frame]
    exact old
  · rw [h.interrupt, vfs]
  · rw [h.nibs, frame]
  · rw [h.ops, frame]
  · rw [h.launches, frame]
  · have idle := h.idle nowhere (by rw [State.Drained, queue]; exact drained)
    have hostMem : u'.hostMem = u.hostMem := by rw [frame]
    have agenda : u'.agenda = u.agenda := by rw [frame]
    rw [queue, hostMem, agenda] at idle
    exact idle

/-- The CRC of a region of n bytes, at its place. -/
def crcAt (d n place : Nat) : Nat := State.crc64 d n * 2 ^ (64 * place)

/-- One region of a capture is read. -/
def crcStep (v : Fin 17) (q : Fin 64) (acc : Nat × State) (x : (Word × Word) × Nat) : Nat × State :=
  match acc.2.pktLoad v q x.1.1 x.1.2.toNat with
  | some (d, s) => (acc.1 + crcAt d x.1.2.toNat x.2, s)
  | none => (acc.1 + crcAt 0 0 x.2, acc.2)

theorem capCrcs_eq (s : State) (v : Fin 17) (q : Fin 64) (regions : List (Word × Word)) : s.capCrcs v q regions =
    ((sortBy (fun (a b : Word × Word) => decide (a.1.toNat < b.1.toNat)) regions).zipIdx).foldl (crcStep v q) (0, s) := rfl

theorem crcStep_accessed (x : Nat) (s : State) (r : (Word × Word) × Nat) : Accessed s (crcStep v q (x, s) r).2 ∧ (crcStep v q (x, s) r).2.mem = s.mem := by
  rw [crcStep]
  cases h : s.pktLoad v q r.1.1 r.1.2.toNat with
  | none => exact ⟨.refl s, rfl⟩
  | some y => exact pktLoad_accessed h

theorem crcSteps_accessed (l : List ((Word × Word) × Nat)) (x : Nat) (s : State) :
    Accessed s (l.foldl (crcStep v q) (x, s)).2 ∧ (l.foldl (crcStep v q) (x, s)).2.mem = s.mem := by
  induction l generalizing x s with
  | nil => exact ⟨.refl s, rfl⟩
  | cons r l ih =>
    obtain ⟨accessed, mem⟩ := crcStep_accessed (v := v) (q := q) x s r
    obtain ⟨later, same⟩ := ih (crcStep v q (x, s) r).1 (crcStep v q (x, s) r).2
    exact ⟨accessed.trans later, same.trans mem⟩

theorem crcSteps_tollFree (l : List ((Word × Word) × Nat)) (x : Nat) {s : State} (clear : s.NoBorders) (free : s.TollFree) :
    (l.foldl (crcStep v q) (x, s)).2.TollFree := by
  induction l generalizing x s with
  | nil => exact free
  | cons r l ih =>
    obtain ⟨accessed, mem⟩ := crcStep_accessed (v := v) (q := q) x s r
    have step : (crcStep v q (x, s) r).2.TollFree := by
      rw [crcStep]
      cases h : s.pktLoad v q r.1.1 r.1.2.toNat with
      | none => exact free
      | some y => exact pktLoad_tollFree clear free h
    exact ih (crcStep v q (x, s) r).1 ((accessed.sameReach mem).noBorders clear) step

/-- What is read does not depend on clocks, nor on what is left to be charged. -/
theorem crcStep_value (accessed : Accessed s t) (mem : t.mem = s.mem) (x : Nat) (r : (Word × Word) × Nat) :
    (crcStep v q (x, t) r).1 = (crcStep v q (x, s) r).1 := by
  have vfs : t.vfs = s.vfs := by rw [accessed.frame]
  have same := (accessed.sameReach mem).pktLoad (v := v) (q := q) (by rw [queue_of_vfs vfs]) r.1.1 r.1.2.toNat
  rw [crcStep, crcStep]
  cases h : s.pktLoad v q r.1.1 r.1.2.toNat with
  | none =>
    rw [h, Option.map_none, Option.map_eq_none_iff] at same
    rw [show ((x, t) : Nat × State).2.pktLoad v q r.1.1 r.1.2.toNat = none from same]
  | some y =>
    rw [h, Option.map_some] at same
    obtain ⟨z, load, first⟩ := Option.map_eq_some_iff.1 same
    rw [show ((x, t) : Nat × State).2.pktLoad v q r.1.1 r.1.2.toNat = some z from load]
    exact congrArg (x + crcAt · r.1.2.toNat r.2) first

theorem crcSteps_value (l : List ((Word × Word) × Nat)) (x : Nat) (accessed : Accessed s t) (mem : t.mem = s.mem) :
    (l.foldl (crcStep v q) (x, t)).1 = (l.foldl (crcStep v q) (x, s)).1 := by
  induction l generalizing x s t with
  | nil => rfl
  | cons r l ih =>
    obtain ⟨left, leftMem⟩ := crcStep_accessed (v := v) (q := q) x t r
    obtain ⟨right, rightMem⟩ := crcStep_accessed (v := v) (q := q) x s r
    have step := ih (crcStep v q (x, t) r).1 ((right.symm.trans accessed).trans left) (leftMem.trans (mem.trans rightMem.symm))
    rw [crcStep_value accessed mem] at step
    rw [List.foldl_cons, List.foldl_cons]
    refine Eq.trans ?_ step
    rw [← crcStep_value accessed mem]


theorem capCrcs_accessed (s : State) (v : Fin 17) (q : Fin 64) (regions : List (Word × Word)) :
    Accessed s (s.capCrcs v q regions).2 ∧ (s.capCrcs v q regions).2.mem = s.mem := crcSteps_accessed _ 0 s

theorem capCrcs_tollFree (clear : s.NoBorders) (free : s.TollFree) (v : Fin 17) (q : Fin 64) (regions : List (Word × Word)) :
    (s.capCrcs v q regions).2.TollFree := crcSteps_tollFree _ 0 clear free

theorem capCrcs_value (accessed : Accessed s t) (mem : t.mem = s.mem) (v : Fin 17) (q : Fin 64) (regions : List (Word × Word)) :
    (t.capCrcs v q regions).1 = (s.capCrcs v q regions).1 := crcSteps_value _ 0 accessed mem

theorem Accessed.vfs (h : Accessed s t) : t.vfs = s.vfs := by rw [h.frame]

theorem Accessed.hostMem (h : Accessed s t) : t.hostMem = s.hostMem := by rw [h.frame]

theorem Accessed.capWrite (h : Accessed s t) (va : Word) (n x : Nat) : Accessed (s.capWrite va n x) (t.capWrite va n x) where
  rest := by
    rw [h.frame]
    rfl
  parts := h.parts

theorem Accessed.modQueue (h : Accessed s t) (f : Queue → Queue) : Accessed (s.modQueue v q f) (t.modQueue v q f) where
  rest := by
    rw [h.frame]
    rfl
  parts := h.parts

/-- A captured item is the same, whatever the clocks, the stamps and the charges. -/
theorem Accessed.capItem (h : Accessed s t) (kind len : Nat) (va : Word) (crcs data : Nat) :
    Accessed (s.capItem v q kind len va crcs data) (t.capItem v q kind len va crcs data) := by
  rw [State.capItem, State.capItem, queue_of_vfs h.vfs, h.hostMem]
  cases (s.queue v q).capture with
  | none => exact h
  | some c =>
    dsimp only
    split
    · exact h.capWrite ..
    · exact ((h.capWrite ..).capWrite ..).modQueue _

theorem capItem_mem (s : State) (kind len : Nat) (va : Word) (crcs data : Nat) : (s.capItem v q kind len va crcs data).mem = s.mem := by
  obtain ⟨vfs, hostMem, frame⟩ := (capItem_frame s v q kind len va crcs data).1
  rw [frame]

theorem capItem_parts (s : State) (kind len : Nat) (va : Word) (crcs data : Nat) : (s.capItem v q kind len va crcs data).parts = s.parts := by
  obtain ⟨vfs, hostMem, frame⟩ := (capItem_frame s v q kind len va crcs data).1
  rw [frame]

end


/-- The launch has ended. -/
def State.ended (s : State) (id : Nat) : State := { s with launches := s.launches.filter (·.id != id) }

/-- The check record of a launch, where its queue is captured. -/
def State.endRecord (w : State) (v : Fin 17) (q : Fin 64) (p : Packet) : State :=
  match (w.queue v q).capture with
  | some c => if w.replaying v p.id then w else (w.capCrcs v q c.regions).2.capItem v q 3 0 0 (w.capCrcs v q c.regions).1 0
  | none => w

section
variable {s : State} {id : Nat} {l : Launch} {v : Fin 17} {q : Fin 64} {p : Packet}

theorem launchComplete_runs (found : s.findLaunch id = some l) (left : l.left ≠ 0) : exec (.launchComplete id) s = .next s := by
  have run := show exec (.launchComplete id) s = execLaunchComplete id s from rfl
  rw [execLaunchComplete, show s.noTolls.findLaunch id = some l from found] at run
  exact run.trans (if_pos left)

theorem launchComplete_ends (found : s.findLaunch id = some l) (left : l.left = 0) (packet : s.findPacket l.pkt = some (v, q, p)) :
    exec (.launchComplete id) s = .next (s.settleEvent (.launchComplete id)
      ((((s.noTolls.ended id).agentWait v q l.endClk).endRecord v q p).finishPacket v q p (if l.lost = true then 3 else 0) l.endClk)) := by
  have run := show exec (.launchComplete id) s = execLaunchComplete id s from rfl
  rw [execLaunchComplete, show s.noTolls.findLaunch id = some l from found] at run
  replace run := run.trans (if_neg (not_not.2 left))
  have waiting : ({ s.noTolls with launches := s.noTolls.launches.filter (·.id != id) } : State).findPacket l.pkt = some (v, q, p) := packet
  dsimp only at waiting run
  rw [waiting] at run
  exact run

/-- The state in which the packet of a launch completes has nothing to be charged, and differs from that in which the claim puts
it in what is to be charged alone. -/
theorem ended_accessed (s : State) (id : Nat) (v : Fin 17) (q : Fin 64) (c : Clk) :
    Accessed ((s.ended id).agentWait v q c) ((s.noTolls.ended id).agentWait v q c) ∧
    ((s.noTolls.ended id).agentWait v q c).mem = ((s.ended id).agentWait v q c).mem ∧ ((s.noTolls.ended id).agentWait v q c).TollFree := by
  have clear : Accessed (s.ended id) (s.noTolls.ended id) := ⟨rfl, fun p => (accessed_noTolls s).parts p⟩
  have left := agentOnly_agentWait (s.ended id) v q c
  have right := agentOnly_agentWait (s.noTolls.ended id) v q c
  refine ⟨(left.accessed.symm.trans clear).trans right.accessed, ?_, right.tollFree (noTolls_tollFree s)⟩
  obtain ⟨_, frame⟩ := agentWait_frame (s.ended id) v q c
  obtain ⟨_, frame'⟩ := agentWait_frame (s.noTolls.ended id) v q c
  rw [frame, frame']
  rfl

/-- The packet of a launch whose last task has ended completes. -/
theorem launch_finishes {u w : State} (found : s.findLaunch id = some l) (left : l.left = 0) (packet : s.findPacket l.pkt = some (v, q, p))
    (run : ((s.noTolls.ended id).agentWait v q l.endClk).endRecord v q p = w) (accessed : Accessed u w) (mem : w.mem = u.mem)
    (alone : w.vfs[v].replay = none) (free : w.TollFree) (clear : w.NoBorders) :
    ∃ t, exec (.launchComplete id) s = .next t ∧ Finished u t v q p (if l.lost = true then 3 else 0) := by
  refine ⟨_, launchComplete_ends found left packet, ?_⟩
  rw [run, settleEvent_of_free (finishPacket_tollFree alone free (.inl clear) _ _)]
  obtain ⟨parts, frame⟩ := dropThrough_frame (w.finishPacket v q p (if l.lost = true then 3 else 0) l.endClk) (.launchComplete id)
  rw [frame]
  exact (finished_finishPacket alone p _ l.endClk).of_parts.of_accessed accessed mem

theorem endRecord_none {w : State} (capture : (w.queue v q).capture = none) : w.endRecord v q p = w := by
  rw [State.endRecord, capture]

theorem endRecord_some {w : State} {c : Capture} (capture : (w.queue v q).capture = some c) (alone : w.vfs[v].replay = none) :
    w.endRecord v q p = (w.capCrcs v q c.regions).2.capItem v q 3 0 0 (w.capCrcs v q c.regions).1 0 := by
  rw [State.endRecord, capture]
  exact if_neg (by rw [State.replaying, alone, Option.bind_none]; exact Bool.false_ne_true)

theorem capItem_replay (s : State) (kind len : Nat) (va : Word) (crcs data : Nat) :
    (s.capItem v q kind len va crcs data).vfs[v].replay = s.vfs[v].replay := (frontEnd_capItem s v q kind len va crcs data).replay

end

/-- The check record of a launch is the same, whatever was left to be charged. -/
theorem recorded_accessed {u w : State} {v : Fin 17} {q : Fin 64} (accessed : Accessed u w) (mem : w.mem = u.mem) (alone : w.vfs[v].replay = none)
    (free : w.TollFree) (clear : w.NoBorders) (regions : List (Word × Word)) :
    let record := fun (s : State) => (s.capCrcs v q regions).2.capItem v q 3 0 0 (s.capCrcs v q regions).1 0
    Accessed (record u) (record w) ∧ (record w).mem = (record u).mem ∧ (record w).vfs[v].replay = none ∧ (record w).TollFree ∧ (record w).NoBorders := by
  obtain ⟨readW, memW⟩ := capCrcs_accessed w v q regions
  obtain ⟨readU, memU⟩ := capCrcs_accessed u v q regions
  have value := capCrcs_value accessed mem v q regions
  have freeW := capCrcs_tollFree clear free v q regions
  have reads : Accessed (u.capCrcs v q regions).2 (w.capCrcs v q regions).2 := (readU.symm.trans accessed).trans readW
  refine ⟨?_, ?_, ?_, fun i => ?_, ?_⟩
  · dsimp only
    rw [value]
    exact reads.capItem ..
  · dsimp only
    rw [capItem_mem, capItem_mem, memW, memU, mem]
  · dsimp only
    rw [capItem_replay, readW.vfs, alone]
  · dsimp only
    rw [capItem_parts]
    exact freeW i
  · have item : SameReach (w.capCrcs v q regions).2 ((w.capCrcs v q regions).2.capItem v q 3 0 0 (w.capCrcs v q regions).1 0) := by
      obtain ⟨vfs, hostMem, frame⟩ := (capItem_frame (w.capCrcs v q regions).2 v q 3 0 0 (w.capCrcs v q regions).1 0).1
      rw [frame]
      exact ⟨rfl, rfl, fun _ => rfl⟩
    exact item.noBorders ((readW.sameReach memW).noBorders clear)

theorem launchesEnd (s : State) (id : Nat) (l : Launch) (found : s.findLaunch id = some l) :
    (l.left ≠ 0 → exec (.launchComplete id) s = .next s) ∧
    (l.left = 0 → ∀ v q p u, s.findPacket l.pkt = some (v, q, p) → s.vfs[v].replay = none → s.NoBorders →
      u = ({ s with launches := s.launches.filter (·.id != id) } : State).agentWait v q l.endClk →
      let status := if l.lost = true then 3 else 0
      ((s.queue v q).capture = none → ∃ t, exec (.launchComplete id) s = .next t ∧ Finished u t v q p status) ∧
      ∀ c, (s.queue v q).capture = some c → ∃ t, exec (.launchComplete id) s = .next t ∧
        Finished ((u.capCrcs v q c.regions).2.capItem v q 3 0 0 (u.capCrcs v q c.regions).1 0) t v q p status) := by
  refine ⟨launchComplete_runs found, fun left v q p u packet alone clear here => ?_⟩
  replace here : u = (s.ended id).agentWait v q l.endClk := here
  subst here
  obtain ⟨accessed, mem, free⟩ := ended_accessed s id v q l.endClk
  have vfs : ((s.noTolls.ended id).agentWait v q l.endClk).vfs = s.vfs := agentWait_vfs ..
  have queue : ((s.noTolls.ended id).agentWait v q l.endClk).queue v q = s.queue v q := queue_of_vfs vfs
  have lone : ((s.noTolls.ended id).agentWait v q l.endClk).vfs[v].replay = none := by rw [vfs, alone]
  have borders : ((s.noTolls.ended id).agentWait v q l.endClk).NoBorders := by
    have wait := (agentOnly_agentWait (s.ended id) v q l.endClk).sameReach (by obtain ⟨_, frame⟩ := agentWait_frame (s.ended id) v q l.endClk; rw [frame])
    exact (accessed.sameReach mem).noBorders (wait.noBorders clear)
  refine ⟨fun capture => ?_, fun c capture => ?_⟩
  · exact launch_finishes found left packet (endRecord_none (queue ▸ capture)) accessed mem lone free borders
  · have record := endRecord_some (p := p) (queue.symm ▸ capture) lone
    obtain ⟨recorded, memory, replay, paid, way⟩ := recorded_accessed accessed mem lone free borders c.regions
    exact launch_finishes found left packet record recorded memory replay paid way


/-- Settles O55: a launch begins by `launch_floods`, halts its queue by `launch_refused`, and ends by `launchesEnd`. -/
theorem launchesRun : Obligations.LaunchesRun := by
  refine ⟨fun s id v q p u found same runs here => ?_, launchesEnd⟩
  subst here same
  have start := started_reach s v q p
  have tolls := sameReach_noTolls (s.startPacket v q p)
  have read := tolls.pktLoad (v := v) (q := q) rfl (BitVec.ofNat 64 (pktField p.bits 0x20 8)) 128
  refine ⟨fun nobody => ?_, fun part owner => ⟨fun bad => ?_, fun r w record good alive tasks way => ?_⟩⟩
  · have run := launch_nowhere (p := p) (q := q) ((start.partOfVf v).trans nobody)
    obtain ⟨t, ran, finished⟩ := onPacket_finishes found runs.free run ((startPacket_vfs ..).trans runs.alone)
      (runs.paid.imp_right fun clear => ⟨noTolls_tollFree _, .inl (startPacket_clear clear v q p)⟩)
    exact ⟨t, ran, finished.of_noTolls⟩
  · rcases bad with unread | ⟨r, w, record, malformed⟩
    · rw [unread, Option.map_none, Option.map_eq_none_iff] at read
      exact launch_refused found runs _ (launch_unread ((start.partOfVf v).trans owner) read) (.refl _) start.mem fun _ => noTolls_tollFree _
    · rw [record, Option.map_some] at read
      obtain ⟨⟨r', w'⟩, load, first⟩ := Option.map_eq_some_iff.1 read
      dsimp only at first
      subst first
      obtain ⟨accessed, mem⟩ := pktLoad_accessed load
      exact launch_refused found runs w' (launch_malformed ((start.partOfVf v).trans owner) load malformed) accessed (mem.trans start.mem)
        fun clear => pktLoad_tollFree (startPacket_clear clear v q p) (noTolls_tollFree _) load
  · rw [record, Option.map_some] at read
    obtain ⟨⟨r', w'⟩, load, first⟩ := Option.map_eq_some_iff.1 read
    dsimp only at first
    subst first
    obtain ⟨accessed, mem⟩ := pktLoad_accessed load
    obtain ⟨t, run, memory, nibs, launches, due⟩ := launch_floods found runs owner load good alive tasks way
    refine ⟨t, _, run, memory, nibs, launches, rfl, rfl, rfl, rfl, rfl, ?_, rfl, rfl, rfl, (start.trans (accessed.sameReach mem)).folios, due⟩
    exact (congrArg Queue.root (queue_of_vfs accessed.vfs)).trans (startPacket_root s v q p)

end Sys2Proof.Machine
end

section
/-! SUPPORT. Traffic at the partitions' borders: what it owes, what it pays, and what waits (14_packets.md R360), for O56. -/

namespace Sys2Proof.Machine
open Sys2Proof

/-! ## The way (R26, R360) -/

section
variable {s : State} {p f g : Fin 16}

theorem mem_route : g ∈ s.route p f ↔ g.val / 4 = f.val / 4 ∧ g.val < f.val ∧ ∃ o, s.partOfFolio g = some o ∧ o ≠ p := by
  have other : ((s.partOfFolio g).map (· != p)).getD false = true ↔ ∃ o, s.partOfFolio g = some o ∧ o ≠ p := by
    cases s.partOfFolio g <;> simp
  rw [State.route, List.mem_filter, Bool.and_eq_true, Bool.and_eq_true, decide_eq_true_eq, decide_eq_true_eq, other]
  exact ⟨fun h => ⟨h.2.1.1, h.2.1.2, h.2.2⟩, fun h => ⟨List.mem_finRange g, ⟨h.1, h.2.1⟩, h.2.2⟩⟩

theorem route_rising (s : State) (p f : Fin 16) : (s.route p f).Pairwise (· < ·) :=
  (List.pairwise_lt_finRange 16).filter _

theorem owing_in {bytes : Nat} (h : bytes ≠ 0) : s.owing p f false bytes = (s.route p f).map (fun x => (x, bytes)) := if_neg h

theorem owing_out {bytes : Nat} (h : bytes ≠ 0) : s.owing p f true bytes = (s.owing p f false bytes).reverse := by
  rw [owing_in h, ← List.map_reverse]
  exact if_neg h

end

/-! ## One crossing -/

section
variable {chan : Fin 4} {held : List (Fin 16 × Fin 4)} {tokens : Vector Nat 16} {g : Fin 16} {b : Nat} {r : List (Fin 16 × Nat)}

theorem payWay_held (h : (g, chan) ∈ held) : payWay chan held tokens ((g, b) :: r) = (tokens, (g, b) :: r) := by
  rw [payWay, if_pos (List.contains_iff_mem.2 h)]

theorem payWay_pays (h : (g, chan) ∉ held) (rich : b ≤ tokens[g]) :
    payWay chan held tokens ((g, b) :: r) = payWay chan held (tokens.set g (tokens[g] - b)) r := by
  rw [payWay, if_neg (fun e => h (List.contains_iff_mem.1 e)), if_pos rich]

theorem payWay_stops (h : (g, chan) ∉ held) (short : tokens[g] < b) :
    payWay chan held tokens ((g, b) :: r) = (tokens.set g 0, (g, b - tokens[g]) :: r) := by
  rw [payWay, if_neg (fun e => h (List.contains_iff_mem.1 e)), if_neg (Nat.not_le.2 short)]

/-- The places at which traffic waits. -/
theorem mem_places {l : List Crossing} : (g, chan) ∈ l.flatMap Crossing.place ↔ ∃ c ∈ l, c.chan = chan ∧ c.owes.head?.map Prod.fst = some g := by
  rw [List.mem_flatMap]
  refine exists_congr fun c => and_congr_right fun _ => ?_
  rw [Crossing.place]
  cases c.owes with
  | nil => simp
  | cons x r => simp [and_comm, eq_comm]

end

/-- Traffic that owes something pays at its first router, or waits there. -/
theorem crossBorder_cases (s : State) (p g : Fin 16) (chan : Fin 4) (b : Nat) (r : List (Fin 16 × Nat)) (evs : List (Nat × Instr)) :
    let x := s.parts[p]
    let t := s.crossBorder p chan ((g, b) :: r) evs
    let held := ∃ c ∈ x.border, c.chan = chan ∧ c.owes.head?.map Prod.fst = some g
    (¬ held → b ≤ x.tokens[g] → t = (s.modPart p (fun y => { y with tokens := y.tokens.set g (y.tokens[g] - b) })).crossBorder p chan r evs) ∧
    (¬ held → x.tokens[g] < b → t = s.modPart p (fun y =>
      { y with tokens := y.tokens.set g 0, border := y.border ++ [⟨chan, (g, b - x.tokens[g]) :: r, evs, false⟩] })) ∧
    (held → t = s.modPart p (fun y => { y with border := y.border ++ [⟨chan, (g, b) :: r, evs, false⟩] })) := by
  intro x t held
  have place : (g, chan) ∈ x.border.flatMap Crossing.place ↔ held := mem_places
  refine ⟨fun free rich => ?_, fun free short => ?_, fun waits => ?_⟩
  · have pays := payWay_pays (r := r) (mt place.1 free) rich
    have same : x.take ⟨chan, (g, b) :: r, evs, false⟩ = ({ x with tokens := x.tokens.set g (x.tokens[g] - b) } : Part).take ⟨chan, r, evs, false⟩ := by
      rw [Part.take, Part.take]
      dsimp only
      rw [pays]
    show s.crossBorder p chan ((g, b) :: r) evs = _
    rw [State.crossBorder, State.crossBorder, modPart_same]
    dsimp only
    rw [same]
    simp only [State.modPart, Vector.set_set]
    rfl
  · have pays := payWay_stops (r := r) (mt place.1 free) short
    show s.crossBorder p chan ((g, b) :: r) evs = _
    rw [State.crossBorder, Part.take]
    dsimp only
    rw [pays]
    rfl
  · have pays := payWay_held (tokens := x.tokens) (b := b) (r := r) (place.2 waits)
    show s.crossBorder p chan ((g, b) :: r) evs = _
    rw [State.crossBorder, Part.take]
    dsimp only
    rw [pays]
    rfl


/-! ## All that waits -/

section
variable {chan : Fin 4} {held : List (Fin 16 × Fin 4)} {tokens : Vector Nat 16}

theorem tokens_set_ne (tokens : Vector Nat 16) {g x : Fin 16} (other : x ≠ g) (b : Nat) : (tokens.set g b)[x] = tokens[x] :=
  Vector.getElem_set_ne g.isLt x.isLt (Fin.val_ne_of_ne other.symm)

theorem payWay_tokens (chan : Fin 4) (held : List (Fin 16 × Fin 4)) (owes : List (Fin 16 × Nat)) (tokens : Vector Nat 16) (x : Fin 16) :
    (payWay chan held tokens owes).1[x] ≤ tokens[x] := by
  induction owes generalizing tokens with
  | nil => exact Nat.le_refl _
  | cons y r ih =>
    obtain ⟨g, b⟩ := y
    by_cases waits : (g, chan) ∈ held
    · rw [payWay_held waits]
    · by_cases rich : b ≤ tokens[g]
      · rw [payWay_pays waits rich]
        refine Nat.le_trans (ih _) ?_
        by_cases same : x = g
        · subst same
          exact Nat.le_trans (Nat.le_of_eq (Vector.getElem_set_self _)) (Nat.sub_le ..)
        · exact Nat.le_of_eq (tokens_set_ne tokens same _)
      · rw [payWay_stops waits (Nat.lt_of_not_le rich)]
        by_cases same : x = g
        · subst same
          exact Nat.le_trans (Nat.le_of_eq (Vector.getElem_set_self _)) (Nat.zero_le _)
        · exact Nat.le_of_eq (tokens_set_ne tokens same _)

/-- What still owes waits at a router whose tokens are used up, or behind other traffic of its channel. -/
theorem payWay_waits (chan : Fin 4) (held : List (Fin 16 × Fin 4)) (owes : List (Fin 16 × Nat)) (tokens : Vector Nat 16) :
    (payWay chan held tokens owes).2 = [] ∨ ∃ g b r, (payWay chan held tokens owes).2 = (g, b) :: r ∧
      ((payWay chan held tokens owes).1[g] = 0 ∨ (g, chan) ∈ held) := by
  induction owes generalizing tokens with
  | nil => exact .inl rfl
  | cons y r ih =>
    obtain ⟨g, b⟩ := y
    by_cases waits : (g, chan) ∈ held
    · rw [payWay_held waits]
      exact .inr ⟨g, b, r, rfl, .inr waits⟩
    · by_cases rich : b ≤ tokens[g]
      · rw [payWay_pays waits rich]
        exact ih _
      · rw [payWay_stops waits (Nat.lt_of_not_le rich)]
        exact .inr ⟨g, _, r, rfl, .inl (Vector.getElem_set_self _)⟩

/-- Tokens enough at every router. -/
theorem payWay_through (owes : List (Fin 16 × Nat)) (tokens : Vector Nat 16) (apart : (owes.map Prod.fst).Nodup) (rich : ∀ y ∈ owes, y.2 ≤ tokens[y.1]) :
    (payWay chan [] tokens owes).2 = [] := by
  induction owes generalizing tokens with
  | nil => rfl
  | cons y r ih =>
    obtain ⟨g, b⟩ := y
    rw [List.map_cons, List.nodup_cons] at apart
    rw [payWay_pays List.not_mem_nil (rich (g, b) List.mem_cons_self)]
    refine ih _ apart.2 fun z hz => ?_
    have other : z.1 ≠ g := fun e => apart.1 (e ▸ List.mem_map.2 ⟨z, hz, rfl⟩)
    exact Nat.le_trans (rich z (List.mem_cons_of_mem _ hz)) (Nat.le_of_eq (tokens_set_ne tokens other _).symm)

/-- What a crossing brings, whatever it still owes. -/
def Crossing.brings (c : Crossing) : Fin 4 × List (Nat × Instr) × Bool := (c.chan, c.evs, c.asks)

/-- A crossing that has paid what it can. -/
def Crossing.owing (c : Crossing) (owes : List (Fin 16 × Nat)) : Crossing := { c with owes := owes }

theorem payAll_cons (held : List (Fin 16 × Fin 4)) (tokens : Vector Nat 16) (c : Crossing) (r : List Crossing) : payAll held tokens (c :: r) =
    let paid := payWay c.chan held tokens c.owes
    let rest := payAll (held ++ (c.owing paid.2).place) paid.1 r
    if paid.2.isEmpty then (rest.1, c.owing paid.2 :: rest.2.1, rest.2.2) else (rest.1, rest.2.1, c.owing paid.2 :: rest.2.2) := rfl

theorem payAll_tokens (l : List Crossing) (held : List (Fin 16 × Fin 4)) (tokens : Vector Nat 16) (x : Fin 16) : (payAll held tokens l).1[x] ≤ tokens[x] := by
  induction l generalizing held tokens with
  | nil => exact Nat.le_refl _
  | cons c r ih =>
    have step := Nat.le_trans (ih (held ++ (c.owing (payWay c.chan held tokens c.owes).2).place) (payWay c.chan held tokens c.owes).1)
      (payWay_tokens c.chan held c.owes tokens x)
    rw [payAll_cons]
    dsimp only
    split <;> exact step

theorem payAll_sublist (l : List Crossing) (held : List (Fin 16 × Fin 4)) (tokens : Vector Nat 16) :
    ((payAll held tokens l).2.2.map Crossing.brings).Sublist (l.map Crossing.brings) := by
  induction l generalizing held tokens with
  | nil => exact List.Sublist.slnil
  | cons c r ih =>
    have step := ih (held ++ (c.owing (payWay c.chan held tokens c.owes).2).place) (payWay c.chan held tokens c.owes).1
    rw [payAll_cons]
    dsimp only
    split
    · exact step.cons _
    · exact step.cons_cons _

theorem payAll_goes (l : List Crossing) (held : List (Fin 16 × Fin 4)) (tokens : Vector Nat 16) {c : Crossing} (hc : c ∈ l)
    (gone : c.brings ∉ (payAll held tokens l).2.2.map Crossing.brings) : ∃ d ∈ (payAll held tokens l).2.1, d.brings = c.brings := by
  induction l generalizing held tokens with
  | nil => exact absurd hc List.not_mem_nil
  | cons x r ih =>
    rw [payAll_cons] at gone ⊢
    dsimp only at gone ⊢
    split at gone
    next pays =>
      rw [if_pos pays]
      rcases List.mem_cons.1 hc with rfl | later
      · exact ⟨_, List.mem_cons_self, rfl⟩
      · obtain ⟨d, hd, same⟩ := ih _ _ later gone
        exact ⟨d, List.mem_cons_of_mem _ hd, same⟩
    next waits =>
      rw [if_neg waits]
      rw [List.map_cons, List.mem_cons, not_or] at gone
      rcases List.mem_cons.1 hc with rfl | later
      · exact absurd rfl gone.1
      · exact ih _ _ later gone.2

/-- Each crossing that still waits has a reason: no tokens are left at its router, or traffic of its channel waits there before it. -/
theorem payAll_waits (l : List Crossing) (held : List (Fin 16 × Fin 4)) (tokens : Vector Nat 16) {pre post : List Crossing} {c : Crossing}
    (here : (payAll held tokens l).2.2 = pre ++ c :: post) : ∃ g b r, c.owes = (g, b) :: r ∧
      ((payAll held tokens l).1[g] = 0 ∨ (g, c.chan) ∈ held ∨ ∃ d ∈ pre, d.chan = c.chan ∧ d.owes.head?.map Prod.fst = some g) := by
  induction l generalizing held tokens pre with
  | nil => exact absurd here.symm (List.append_ne_nil_of_right_ne_nil _ (List.cons_ne_nil _ _))
  | cons x l ih =>
    rw [payAll_cons] at here ⊢
    dsimp only at here ⊢
    split at here
    next pays =>
      rw [if_pos pays]
      obtain ⟨g, b, r, owes, reason⟩ := ih _ _ here
      refine ⟨g, b, r, owes, reason.imp_right fun h => h.imp_left fun h => ?_⟩
      rcases List.mem_append.1 h with h | h
      · exact h
      · rw [Crossing.place, Crossing.owing, List.isEmpty_iff.1 pays] at h
        exact absurd h List.not_mem_nil
    next waits =>
      rw [if_neg waits]
      cases pre with
      | nil =>
        rw [List.nil_append, List.cons.injEq] at here
        obtain ⟨rfl, _⟩ := here
        rcases payWay_waits x.chan held x.owes tokens with none_left | ⟨g, b, r, owes, reason⟩
        · exact absurd (List.isEmpty_iff.2 none_left) waits
        · refine ⟨g, b, r, owes, reason.imp (fun empty => ?_) .inl⟩
          exact Nat.eq_zero_of_le_zero (empty ▸ payAll_tokens l _ _ g)
      | cons d pre =>
        rw [List.cons_append, List.cons.injEq] at here
        obtain ⟨rfl, here⟩ := here
        obtain ⟨g, b, r, owes, reason⟩ := ih _ _ here
        refine ⟨g, b, r, owes, reason.imp_right fun h => ?_⟩
        rcases h with h | ⟨e, he, same⟩
        · rcases List.mem_append.1 h with h | h
          · exact .inl h
          · have place : (g, c.chan) ∈ [x.owing (payWay x.chan held tokens x.owes).2].flatMap Crossing.place := by
              rw [List.flatMap_cons, List.flatMap_nil, List.append_nil]
              exact h
            obtain ⟨e, he, same⟩ := mem_places.1 place
            rw [List.mem_singleton.1 he] at same
            exact .inr ⟨_, List.mem_cons_self, same⟩
        · exact .inr ⟨e, List.mem_cons_of_mem _ he, same⟩

end

/-! ## What goes on -/

section
variable {s : State} {p : Fin 16}

theorem goOn_frame (s : State) (p : Fin 16) (c : Crossing) : ∃ through, s.goOn p c =
    { s.modPart p (fun y => { y with through := through }) with agenda := s.agenda ++ c.evs.map (fun e => (max e.1 s.cycle, e.2)) } := by
  rw [State.goOn]
  dsimp only
  split
  · exact ⟨_, rfl⟩
  · exact ⟨s.parts[p].through, by rw [modPart_self s p rfl]⟩

theorem modPart_modPart (s : State) (p : Fin 16) (f g : Part → Part) : (s.modPart p f).modPart p g = s.modPart p (fun y => g (f y)) := by
  rw [State.modPart, modPart_same]
  simp only [State.modPart, Vector.set_set]

/-- All traffic that goes on brings its events. -/
theorem goOns_frame (p : Fin 16) (go : List Crossing) (s : State) : ∃ through evs, go.foldl (fun s x => s.goOn p x) s =
    { s.modPart p (fun y => { y with through := through }) with agenda := s.agenda ++ evs } ∧
    ∀ c ∈ go, ∀ e ∈ c.evs, (max e.1 s.cycle, e.2) ∈ evs := by
  induction go generalizing s with
  | nil => exact ⟨s.parts[p].through, [], by rw [modPart_self s p rfl, List.append_nil]; rfl, fun _ h => absurd h List.not_mem_nil⟩
  | cons c go ih =>
    obtain ⟨through, first⟩ := goOn_frame s p c
    rw [List.foldl_cons, first]
    obtain ⟨through', evs, rest, due⟩ := ih { s.modPart p (fun y => { y with through := through }) with
      agenda := s.agenda ++ c.evs.map (fun e => (max e.1 s.cycle, e.2)) }
    refine ⟨through', c.evs.map (fun e => (max e.1 s.cycle, e.2)) ++ evs, ?_, fun d hd e he => ?_⟩
    · rw [rest, ← List.append_assoc]
      have parts := congrArg State.parts (modPart_modPart s p (fun y => { y with through := through }) (fun y => { y with through := through' }))
      exact congrArg (fun ps => ({ s with parts := ps, agenda := s.agenda ++ c.evs.map (fun e => (max e.1 s.cycle, e.2)) ++ evs } : State)) parts
    · rcases List.mem_cons.1 hd with rfl | later
      · exact List.mem_append_left _ (List.mem_map.2 ⟨e, he, rfl⟩)
      · exact List.mem_append_right _ (due d later e he)

end


/-! ## Refills -/

/-- The tokens of a partition after a refill. -/
def Part.refilled (x : Part) : Vector Nat 16 := x.tokens.map (fun n => min x.burst.toNat (n + x.rate.toNat))

theorem refilled_at (x : Part) (g : Fin 16) : x.refilled[g] = min x.burst.toNat (x.tokens[g] + x.rate.toNat) := Vector.getElem_map _ g.isLt

/-- The partition after a refill: what waits has paid what it can. -/
def Part.refill (x : Part) : Part :=
  { x with tokens := (payAll [] x.refilled x.border).1, border := (payAll [] x.refilled x.border).2.2 }

/-- The state after a refill, before what has paid goes on. -/
def State.refillBase (s : State) (p : Fin 16) : State := (s.modPart p Part.refill).schedule (s.cycle + 1024) (.tokenBucketRefill p)

theorem refillBase_same (s : State) (p : Fin 16) : (s.refillBase p).parts[p] = s.parts[p].refill := modPart_same s p Part.refill

theorem refillBase_other (s : State) {p y : Fin 16} (other : y ≠ p) : (s.refillBase p).parts[y] = s.parts[y] := modPart_ne s Part.refill other

theorem refill_unused {s : State} {p : Fin 16} (unused : s.parts[p].vf = 0) : exec (.tokenBucketRefill p) s = .next s :=
  show execTokenBucketRefill p s = _ from if_pos unused

theorem refill_eq {s : State} {p : Fin 16} (used : s.parts[p].vf ≠ 0) : ∃ through evs, exec (.tokenBucketRefill p) s = .next
      { (s.refillBase p).modPart p (fun y => { y with through := through }) with agenda := (s.refillBase p).agenda ++ evs } ∧
    ∀ c ∈ (payAll [] s.parts[p].refilled s.parts[p].border).2.1, ∀ e ∈ c.evs, (max e.1 s.cycle, e.2) ∈ evs := by
  obtain ⟨through, evs, frame, due⟩ := goOns_frame p (payAll [] s.parts[p].refilled s.parts[p].border).2.1 (s.refillBase p)
  have run : exec (.tokenBucketRefill p) s =
      .next ((payAll [] s.parts[p].refilled s.parts[p].border).2.1.foldl (fun s x => s.goOn p x) (s.refillBase p)) :=
    show execTokenBucketRefill p s = _ from if_neg used
  rw [frame] at run
  exact ⟨through, evs, run, due⟩

/-- A refill: what the buckets hold, what waits, and what goes on. -/
theorem refills (s : State) (p : Fin 16) (used : s.parts[p].vf ≠ 0) :
    let x := s.parts[p]
    let have_ := fun (g : Fin 16) => min x.burst.toNat (x.tokens[g] + x.rate.toNat)
    let key := fun (c : Crossing) => (c.chan, c.evs, c.asks)
    ∃ t, exec (.tokenBucketRefill p) s = .next t ∧ t.nibs = s.nibs ∧ t.mem = s.mem ∧
      (∀ y : Fin 16, y ≠ p → t.parts[y] = s.parts[y]) ∧ (s.cycle + 1024, .tokenBucketRefill p) ∈ t.agenda ∧
      (∀ g : Fin 16, (t.parts[p].tokens[g] : Nat) ≤ have_ g) ∧
      (x.border = [] → ∀ g : Fin 16, (t.parts[p].tokens[g] : Nat) = have_ g) ∧
      (t.parts[p].border.map key).Sublist (x.border.map key) ∧
      (∀ c ∈ x.border, key c ∉ t.parts[p].border.map key → ∀ e ∈ c.evs, (max e.1 s.cycle, e.2) ∈ t.agenda) ∧
      (∀ pre c post, t.parts[p].border = pre ++ c :: post → ∃ g b r, c.owes = (g, b) :: r ∧
        ((t.parts[p].tokens[g] : Nat) = 0 ∨ ∃ d ∈ pre, d.chan = c.chan ∧ d.owes.head?.map Prod.fst = some g)) ∧
      (∀ c r, x.border = c :: r → (c.owes.map Prod.fst).Nodup →
        ((∀ y ∈ c.owes, y.2 ≤ have_ y.1) → ∀ e ∈ c.evs, (max e.1 s.cycle, e.2) ∈ t.agenda) ∧
        (∀ g b z, c.owes = (g, b) :: z → have_ g < b →
          t.parts[p].border.head? = some { c with owes := (g, b - have_ g) :: z })) := by
  intro x have_ key
  obtain ⟨through, evs, run, due⟩ := refill_eq used
  have start : ∀ g : Fin 16, x.refilled[g] = have_ g := refilled_at x
  refine ⟨_, run, rfl, rfl, fun y other => ?_, ?_, ?_⟩
  · exact (modPart_ne (s.refillBase p) (fun y => { y with through := through }) other).trans (refillBase_other s other)
  · exact List.mem_append_left _ (List.mem_append_right _ (List.mem_singleton_self _))
  have part : ({ (s.refillBase p).modPart p (fun y => { y with through := through }) with agenda := (s.refillBase p).agenda ++ evs } : State).parts[p] =
      { x with tokens := (payAll [] x.refilled x.border).1, border := (payAll [] x.refilled x.border).2.2, through := through } :=
    (modPart_same (s.refillBase p) p (fun y => { y with through := through })).trans (congrArg (fun y : Part => { y with through := through }) (refillBase_same s p))
  rw [part]
  have goes : ∀ d ∈ (payAll [] x.refilled x.border).2.1, ∀ e ∈ d.evs, (max e.1 s.cycle, e.2) ∈ (s.refillBase p).agenda ++ evs :=
    fun d hd e he => List.mem_append_right _ (due d hd e he)
  refine ⟨fun g => start g ▸ payAll_tokens x.border [] x.refilled g, fun empty g => ?_, payAll_sublist x.border [] x.refilled, fun c hc gone e he => ?_,
    fun pre c post here => ?_, fun c r first apart => ⟨fun rich e he => ?_, fun g b z owes short => ?_⟩⟩
  · rw [empty]
    exact start g
  · obtain ⟨d, hd, same⟩ := payAll_goes x.border [] x.refilled hc gone
    have brought : d.evs = c.evs := congrArg (fun k => k.2.1) same
    exact goes d hd e (brought ▸ he)
  · obtain ⟨g, b, r, owes, reason⟩ := payAll_waits x.border [] x.refilled here
    exact ⟨g, b, r, owes, reason.imp_right fun h => h.resolve_left List.not_mem_nil⟩
  · have paid := payWay_through (chan := c.chan) c.owes x.refilled apart (fun y hy => Nat.le_trans (rich y hy) (Nat.le_of_eq (start y.1).symm))
    refine goes (c.owing (payWay c.chan [] x.refilled c.owes).2) ?_ e he
    rw [first, payAll_cons]
    dsimp only
    rw [if_pos (List.isEmpty_iff.2 paid)]
    exact List.mem_cons_self
  · have stops := payWay_stops (chan := c.chan) (held := []) (r := z) List.not_mem_nil (Nat.lt_of_le_of_lt (Nat.le_of_eq (start g)) short)
    rw [← owes] at stops
    dsimp only
    rw [first, payAll_cons]
    dsimp only
    rw [stops, start g]
    rfl


/-! ## A packet whose accesses are not paid for -/

section
variable {s t : State} {v : Fin 17} {q : Fin 64} {p : Packet} {part : Fin 16}

/-- Traffic that cannot pay at its first router waits there, behind what waits already. -/
theorem take_waits {x : Part} {chan : Fin 4} {g : Fin 16} {b : Nat} {r : List (Fin 16 × Nat)} {evs : List (Nat × Instr)} {asks : Bool}
    (stopped : x.tokens[g] < b ∨ ∃ c ∈ x.border, c.chan = chan ∧ c.owes.head?.map Prod.fst = some g) :
    ∃ tokens o, o ≠ [] ∧ x.take ⟨chan, (g, b) :: r, evs, asks⟩ =
      ({ x with tokens := tokens, border := x.border ++ [⟨chan, o, evs, asks⟩] }, false) := by
  rcases stopped with short | waits
  · exact take_short short
  · refine ⟨x.tokens, (g, b) :: r, List.cons_ne_nil _ _, ?_⟩
    rw [Part.take]
    dsimp only
    rw [payWay_held (mem_places.2 waits)]
    rfl

/-- A packet whose traffic meets a border at which it cannot pay makes none of its accesses: it waits there. -/
theorem settlePacket_waits (unpaid : p.paid = false) {g : Fin 16} {b : Nat} {r : List (Fin 16 × Nat)} (others : ∀ i : Fin 16, i ≠ part → t.parts[i].toll = [])
    (owes : t.parts[part].toll = (g, b) :: r)
    (stopped : s.parts[part].tokens[g] < b ∨ ∃ c ∈ s.parts[part].border, c.chan = 2 ∧ c.owes.head?.map Prod.fst = some g) :
    ∃ tokens o, o ≠ [] ∧ s.settlePacket v q p t = (s.modPart part (fun y => { y with
      tokens := tokens, border := y.border ++ [⟨2, o, [(s.cycle, pktEvent p.bits p.id)], false⟩] })).modPacket v q p.id (fun p => { p with paid := true }) := by
  have due : (List.finRange 16).filter (fun i => !t.parts[i].toll.isEmpty) = [part] := by
    have only : ∀ i : Fin 16, (!t.parts[i].toll.isEmpty) = decide (i = part) := by
      intro i
      by_cases same : i = part
      · subst same
        rw [owes, decide_eq_true rfl]
        rfl
      · rw [others i same, decide_eq_false same]
        rfl
    simp only [only]
    rw [List.filter_eq, List.count_eq_one_of_mem (List.nodup_finRange 16) (List.mem_finRange part)]
    rfl
  obtain ⟨tokens, o, some_left, taken⟩ := take_waits (r := r) (evs := [(s.cycle, pktEvent p.bits p.id)]) (asks := false) stopped
  refine ⟨tokens, o, some_left, ?_⟩
  rw [State.settlePacket, if_neg (by rw [unpaid]; exact Bool.false_ne_true)]
  dsimp only
  rw [due, List.find?_cons, owes, taken]
  show (s.modPart part (fun _ => (s.parts[part].take ⟨2, t.parts[part].toll, [(s.cycle, pktEvent p.bits p.id)], false⟩).1)).modPacket v q p.id _ = _
  rw [owes, taken]
  rfl

end


/-! ## WAITMEM at a border -/

section
variable {s t : State} {v : Fin 17} {q : Fin 64} {p : Packet} {part f g : Fin 16} {id : Nat} {r : Range} {rest : List (Fin 16 × Nat)}

/-- Traffic to be charged where it stood. -/
def SameTolls (s t : State) : Prop := ∀ i : Fin 16, t.parts[i].toll = s.parts[i].toll

theorem AgentOnly.sameTolls (h : AgentOnly s t) : SameTolls s t := fun i => by rw [← h.parts i]

theorem SameTolls.of_parts (h : t.parts = s.parts) : SameTolls s t := fun i => by rw [h]

theorem SameTolls.trans {u : State} (h : SameTolls s t) (h' : SameTolls t u) : SameTolls s u := fun i => (h' i).trans (h i)

/-- A packet without a DONE word completes without traffic. -/
theorem finishPacket_sameTolls (alone : s.vfs[v].replay = none) (nowhere : p.donePlace = 0) (status : Nat) (clk : Clk) :
    SameTolls s (s.finishPacket v q p status clk) := by
  rw [finishPacket_eq (completed_replay alone)]
  obtain ⟨vfs, completed⟩ := completed_frame s v q p status clk
  rw [writeDone_silent nowhere] at completed
  refine (agentOnly_agentWait s v q clk).sameTolls.trans (SameTolls.of_parts ?_)
  rw [(frontEnd_pump ..).parts, completed]

/-- What a read of one piece owes. -/
theorem pktLoad_owes (queue : s.queuePart v (s.queue v q).root = some part) {va : Word} {n : Nat}
    (pieces : s.hostPieces part (s.queue v q).root false (State.cellPieces va 0 n (n / 64 + 2)) [] = some [r]) (home : (unitOf r.pa).folio = some f)
    (free : s.TollFree) : ∃ x t, s.pktLoad v q va n = some (x, t) ∧ t.parts[part].toll = s.owing part f false r.size ∧
      ∀ i : Fin 16, i ≠ part → t.parts[i].toll = [] := by
  have owes : [r].flatMap (fun r => ((unitOf r.pa).folio.map (fun f => s.owing part f false r.size)).getD []) = s.owing part f false r.size := by
    rw [List.flatMap_cons, List.flatMap_nil, List.append_nil, home]
    rfl
  obtain ⟨only, _⟩ := hostReads_frame part [r] 0 (s.addToll part [r])
  have tolls := only.sameTolls
  have load : s.pktLoad v q va n = some ([r].foldl (fun (acc : Nat × State) r =>
      let (t, s) := acc.2.readStamp r.pa acc.2.parts[part].hostLc 0
      (acc.1 + Memory.read s.mem r.pa r.size * 2 ^ (8 * r.at_), s.modPart part (fun y => { y with hostLc := t }))) (0, s.addToll part [r])) := by
    rw [State.pktLoad]
    dsimp only
    rw [queue, Option.bind_some, State.hostLoad, pieces, Option.map_some]
  refine ⟨_, _, load, ?_, fun i other => ?_⟩
  · refine (tolls part).trans ?_
    rw [State.addToll, owes, modPart_same, free part, List.nil_append]
  · refine (tolls i).trans ?_
    rw [State.addToll, modPart_ne s _ other]
    exact free i

theorem wait_sameTolls (s : State) (v : Fin 17) (q : Fin 64) (c : Nat) (e : Instr) : SameTolls s ((s.schedule c e).pump v q State.pumpFuel) :=
  SameTolls.of_parts ((frontEnd_pump v q State.pumpFuel (s.schedule c e)).parts.trans rfl)

/-- WAITMEM whose read meets a border at which it cannot pay waits there. -/
theorem waitmem_atBorder (found : s.findPacket id = some (v, q, p)) (here : p.id = id) (free : p.started = true ∨ s.vfHeld v = false)
    (alone : s.vfs[v].replay = none) (unpaid : p.paid = false) (kind : pktField p.bits 0 1 = 3) (queue : s.queuePart v (s.queue v q).root = some part)
    (home : (unitOf r.pa).folio = some f)
    (pieces : s.hostPieces part (s.queue v q).root false (State.cellPieces (BitVec.ofNat 64 (pktField p.bits 8 8)) 0 8 2) [] = some [r])
    (owes : s.owing part f false r.size = (g, r.size) :: rest)
    (stopped : s.parts[part].tokens[g] < r.size ∨ ∃ c ∈ s.parts[part].border, c.chan = 2 ∧ c.owes.head?.map Prod.fst = some g) :
    ∃ t o, exec (.waitmem id) s = .next t ∧ t.mem = s.mem ∧ t.nibs = s.nibs ∧ t.agenda = s.agenda ∧ t.stamps = s.stamps ∧ o ≠ [] ∧
      t.parts[part].border = s.parts[part].border ++ [⟨2, o, [(s.cycle, .waitmem id)], false⟩] ∧
      ∀ y ∈ (t.queue v q).pkts, y.id = id → y.paid = true := by
  subst here
  have start := started_reach s v q p
  have root : ((s.startPacket v q p).noTolls.queue v q).root = (s.queue v q).root := startPacket_root s v q p
  have lone : (s.startPacket v q p).noTolls.vfs[v].replay = none := (startPacket_vfs s v q p).trans alone
  have way : (s.startPacket v q p).noTolls.owing part f false r.size = s.owing part f false r.size := by
    rw [State.owing, State.owing, start.route]
  obtain ⟨x, w, load, mine, others⟩ := pktLoad_owes (r := r) (f := f) (q := q) (n := 8) (va := BitVec.ofNat 64 (pktField p.bits 8 8))
    (by rw [root, start.queuePart]; exact queue) (by rw [root, start.hostPieces]; exact pieces) home (noTolls_tollFree (s.startPacket v q p))
  rw [way, owes] at mine
  have nowhere : p.donePlace = 0 := by
    rw [Packet.donePlace, pktDoneAt, kind]
    rfl
  obtain ⟨accessed, _⟩ := pktLoad_accessed load
  have same : SameTolls w ((s.startPacket v q p).noTolls.waitPacket v q p) := by
    rw [State.waitPacket, State.condWord, load]
    dsimp only
    split
    · exact finishPacket_sameTolls (by rw [accessed.vfs]; exact lone) nowhere _ _
    · exact wait_sameTolls w v q _ _
  obtain ⟨tokens, o, some_left, settled⟩ := settlePacket_waits (s := s) (v := v) (q := q) unpaid (fun i other => (same i).trans (others i other))
    ((same part).trans mine) stopped
  have run := onPacket_runs found free State.waitPacket
  rw [settled] at run
  refine ⟨_, o, run, rfl, rfl, rfl, rfl, some_left, ?_, fun y hy => ?_⟩
  · have event : pktEvent p.bits p.id = .waitmem p.id := by
      rw [pktEvent, kind]
      rfl
    rw [← event]
    exact congrArg Part.border (modPart_same s part (fun y => { y with
      tokens := tokens, border := y.border ++ [⟨2, o, [(s.cycle, pktEvent p.bits p.id)], false⟩] }))
  · rw [State.modPacket, queue_modQueue] at hy
    obtain ⟨z, hz, rfl⟩ := List.mem_map.1 hy
    intro id
    split at id
    next mine => rw [if_pos mine]
    next other => exact absurd id other

end

/-- Traffic at the borders. -/
theorem bordersAreCharged : Claims.BordersAreCharged := by
  refine ⟨fun s p f g bytes => ⟨mem_route, route_rising s p f, rfl, rfl, fun some_bytes => ⟨owing_in some_bytes, owing_out some_bytes⟩⟩,
    fun s p g chan b r evs => ?_, fun s p unused => refill_unused unused, fun s p used => refills s p used,
    fun s id v q p part f g r rest found here free alone unpaid kind queue home pieces owes stopped => ?_⟩
  · obtain ⟨pays, stops, waits⟩ := crossBorder_cases s p g chan b r evs
    exact ⟨crossBorder_nil s p chan evs, pays, stops, waits⟩
  · exact waitmem_atBorder found here free alone unpaid kind queue home pieces owes stopped

end Sys2Proof.Machine
end

section
/-! SUPPORT. The nib kernels as the firmware starts them, and scrubbed folios (14_packets.md R359, 16_module.md R373), for O56 and
O59. -/

namespace Sys2Proof.Machine
open Sys2Proof

/-! ## One kernel (R373) -/

/-- Wells of different nibs do not overlap. -/
theorem wellPA_apart {n m : NibId} (h : n ≠ m) {off : Nat} (low : off < 0x80000) : wellPA n off < wellPA m 0 ∨ wellPA m 0 + 0x80000 ≤ wellPA n off := by
  have : n.val ≠ m.val := fun e => h (Fin.ext e)
  simp only [wellPA]
  omega

/-- The firmware has started the kernels of the nibs `ns`, each once: their images stand in their wells, and nothing else has
changed but their strokes 7. -/
structure KernelsLoaded (s t : State) (ns : List NibId) : Prop where
  frame : t = { s with mem := t.mem, nibs := t.nibs, nextId := t.nextId }
  wf : Memory.wf t.mem = true
  image : ∀ n ∈ ns, ∀ off, off < 0x60000 → Memory.get t.mem (wellPA n off) = kernelByte s.modu.flash off
  outside : ∀ a, (∀ n ∈ ns, a < wellPA n 0 ∨ wellPA n 0 + 0x60000 ≤ a) → Memory.get t.mem a = Memory.get s.mem a
  kernels : ∀ n ∈ ns, s.nib n = Nib.reset → KernelRuns s.modu.flash (t.nib n)
  others : ∀ n, n ∉ ns → t.nib n = s.nib n

section
variable {s : State} {n : NibId}

/-- The context of a nib kernel: mode K, no task, every sequencer at the kernel's entry. -/
theorem kernelCtx_runs (flash : List Host.Cell) (cid at_ : Nat) (f : Clk) : ((State.kernelCtx flash cid at_).raiseTo f).c.mode = .k ∧
    ((State.kernelCtx flash cid at_).raiseTo f).task = Task.reset ∧
    ∀ q : Fin 4, (((State.kernelCtx flash cid at_).raiseTo f).seqs[q]).pc = Config.kernelEntry flash := by
  refine ⟨rfl, rfl, fun q => ?_⟩
  have seqs : ((State.kernelCtx flash cid at_).raiseTo f).seqs =
      (Vector.replicate 4 (SeqSt.reset.enter (Config.kernelEntry flash))).map (fun q => { q with lc := Clk.max q.lc f }) := rfl
  rw [seqs, Fin.getElem_fin, Vector.getElem_map, Vector.getElem_replicate]
  rfl

/-- The kernel of nib n, as the firmware has made it. -/
def State.kernelOf (s : State) (n : NibId) (b : Nib) : Nib :=
  { b with strokes := b.strokes.set 7 { b.strokes[7] with
      status := .running, ctx := (State.kernelCtx s.modu.flash s.nextId s.cycle).raiseTo (s.newId.2.floorOf (s.newId.2.partOf n)) } }

theorem kernelUp_eq (s : State) (n : NibId) : s.kernelUp n = { s.setNib n (s.kernelOf n (s.nib n)) with nextId := s.nextId + 1 } := rfl

theorem kernelRuns_kernelOf (s : State) (n : NibId) : KernelRuns s.modu.flash (s.kernelOf n Nib.reset) := by
  obtain ⟨mode, task, pcs⟩ := kernelCtx_runs s.modu.flash s.nextId s.cycle (s.newId.2.floorOf (s.newId.2.partOf n))
  refine ⟨_, ?_, mode, task, pcs⟩
  have idle : Nib.reset.strokes[7] = Stroke.reset := Vector.getElem_replicate ..
  rw [State.kernelOf, idle]

/-- The image of the kernel in a well. -/
theorem kernelByte_of_image (flash : List Host.Cell) {off : Nat} (low : off < 0x60000) :
    BitVec.ofNat 8 (Config.kernelImage flash / 256 ^ off) = kernelByte flash off := by
  rw [kernelByte, if_pos low, show (256 : Nat) = 2 ^ 8 from rfl, ← Nat.pow_mul]

theorem kernelUp_frame (s : State) (n : NibId) (m : List Host.Cell) : ({ s with mem := m } : State).kernelUp n = { s with
    mem := m, nibs := putNib s.nibs n (({ s with mem := m } : State).kernelOf n (s.nib n)), nextId := s.nextId + 1 } := rfl

theorem kernelRuns_mem (s : State) (n : NibId) (m : List Host.Cell) : KernelRuns s.modu.flash (({ s with mem := m } : State).kernelOf n Nib.reset) :=
  kernelRuns_kernelOf { s with mem := m } n

theorem loadKernel_frame (s : State) (n : NibId) : ∃ b : Nib, s.loadKernel n = { s with
      mem := Memory.write s.mem (wellPA n 0) 0x60000 (Config.kernelImage s.modu.flash), nibs := putNib s.nibs n b, nextId := s.nextId + 1 } ∧
    (s.nib n = Nib.reset → KernelRuns s.modu.flash b) := by
  rw [State.loadKernel, kernelUp_frame]
  refine ⟨_, rfl, fun reset => ?_⟩
  rw [reset]
  exact kernelRuns_mem s n _

/-- One kernel is started. -/
theorem loadKernel_loads (s : State) (n : NibId) (wf : Memory.wf s.mem = true) : KernelsLoaded s (s.loadKernel n) [n] := by
  obtain ⟨b, frame, runs⟩ := loadKernel_frame s n
  have here : (s.loadKernel n).nib n = b := by
    rw [frame]
    exact nibIn_putNib_same s.nibs n b
  have mem : (s.loadKernel n).mem = Memory.write s.mem (wellPA n 0) 0x60000 (Config.kernelImage s.modu.flash) := by rw [frame]
  refine ⟨by rw [frame], ?_, fun m hm off low => ?_, fun a out => ?_, fun m hm reset => ?_, fun m other => ?_⟩
  · rw [mem]
    exact Memory.wf_write _ _ _ _ wf
  · rw [List.mem_singleton.1 hm, mem, show wellPA n off = wellPA n 0 + off from rfl, Memory.get_write_inside _ _ _ _ _ wf low,
      kernelByte_of_image _ low]
  · rw [mem, Memory.get_write_outside _ _ _ _ _ wf (out n (List.mem_singleton_self n))]
  · rw [List.mem_singleton.1 hm] at reset ⊢
    rw [here]
    exact runs reset
  · rw [frame]
    exact nibIn_putNib_ne s.nibs n m b (fun e => other (e ▸ List.mem_singleton_self m))

end

theorem KernelsLoaded.nil (s : State) (wf : Memory.wf s.mem = true) : KernelsLoaded s s [] :=
  ⟨rfl, wf, fun _ h => absurd h List.not_mem_nil, fun _ _ => rfl, fun _ h => absurd h List.not_mem_nil, fun _ _ => rfl⟩

/-- Kernels of other nibs are started after these. -/
theorem KernelsLoaded.trans {s t u : State} {ns ms : List NibId} (h : KernelsLoaded s t ns) (h' : KernelsLoaded t u ms) (apart : ∀ n ∈ ns, n ∉ ms) :
    KernelsLoaded s u (ns ++ ms) := by
  have flash : t.modu.flash = s.modu.flash := by rw [h.frame]
  refine ⟨?_, h'.wf, fun n hn off low => ?_, fun a out => ?_, fun n hn reset => ?_, fun n other => ?_⟩
  · have frame := h'.frame
    rw [h.frame] at frame
    exact frame
  · by_cases later : n ∈ ms
    · rw [h'.image n later off low, flash]
    · have first := (List.mem_append.1 hn).resolve_right later
      rw [h'.outside _ fun m hm => ?_, h.image n first off low]
      rcases wellPA_apart (fun e => later (e ▸ hm) : n ≠ m) (Nat.lt_of_lt_of_le low (by decide)) with below | above
      · exact .inl below
      · exact .inr (Nat.le_trans (Nat.add_le_add_left (by decide) _) above)
  · rw [h'.outside a fun m hm => out m (List.mem_append_right _ hm), h.outside a fun m hm => out m (List.mem_append_left _ hm)]
  · by_cases later : n ∈ ms
    · have first : n ∉ ns := fun e => apart n e later
      rw [← flash]
      exact h'.kernels n later ((h.others n first).trans reset)
    · have first := (List.mem_append.1 hn).resolve_right later
      rw [h'.others n later]
      exact h.kernels n first reset
  · rw [List.mem_append, not_or] at other
    rw [h'.others n other.2, h.others n other.1]

/-- The kernels of different nibs are started one after the other. -/
theorem loadKernels_loads (ns : List NibId) (apart : ns.Nodup) (s : State) (wf : Memory.wf s.mem = true) :
    KernelsLoaded s (ns.foldl State.loadKernel s) ns := by
  induction ns generalizing s with
  | nil => exact .nil s wf
  | cons n ns ih =>
    rw [List.nodup_cons] at apart
    have first := loadKernel_loads s n wf
    exact first.trans (ih apart.2 _ first.wf) fun m hm => List.mem_singleton.1 hm ▸ apart.1

/-- The nibs of a folio, in the order in which their kernels start. -/
def nibsOf (f : Fin 16) : List NibId := (List.range 4096).map (fun o => Fin.ofNat 65536 (f.val * 4096 + o))

theorem mem_nibsOf {f : Fin 16} {n : NibId} : n ∈ nibsOf f ↔ State.folioOf n = f := by
  rw [nibsOf, List.mem_map]
  constructor
  · rintro ⟨o, ho, rfl⟩
    exact folioOf_number f (List.mem_range.1 ho)
  · rintro rfl
    exact ⟨ordinalIn n, List.mem_range.2 (Nat.mod_lt _ (by decide)), number_ordinalIn n⟩

theorem nodup_nibsOf (f : Fin 16) : (nibsOf f).Nodup := by
  refine List.Nodup.map_on (fun a ha b hb same => ?_) List.nodup_range
  have := congrArg Fin.val same
  rw [Fin.val_ofNat, Fin.val_ofNat] at this
  have := List.mem_range.1 ha
  have := List.mem_range.1 hb
  have := f.isLt
  omega

theorem startKernels_eq (s : State) (f : Fin 16) : s.startKernels f = (nibsOf f).foldl State.loadKernel s := by
  rw [State.startKernels, nibsOf, List.foldl_map]

theorem startKernels_loads (s : State) (f : Fin 16) (wf : Memory.wf s.mem = true) : KernelsLoaded s (s.startKernels f) (nibsOf f) := by
  rw [startKernels_eq]
  exact loadKernels_loads _ (nodup_nibsOf f) s wf


/-! ## What a scrub removes (R359) -/

theorem get_filter_keep {m : List Host.Cell} {p : Nat → Bool} {a : Nat} (keep : p a = true) : ∀ {lo : Nat}, Memory.wfFrom lo m = true →
    Memory.get (m.filter (fun c => p c.1)) a = Memory.get m a := by
  induction m with
  | nil => exact fun _ => rfl
  | cons c r ih =>
    intro lo w
    obtain ⟨b, x⟩ := c
    rw [Memory.wfFrom, Bool.and_eq_true] at w
    have rest := ih w.2
    by_cases kept : p b = true
    · rw [List.filter_cons_of_pos (p := fun c : Host.Cell => p c.1) (a := (b, x)) kept, Memory.get, Memory.get, rest]
    · rw [List.filter_cons_of_neg (p := fun c : Host.Cell => p c.1) (a := (b, x)) kept, rest, Memory.get]
      have other : a ≠ b := fun e => kept (e ▸ keep)
      rw [if_neg other]
      split
      next before => exact Memory.get_of_lt r (b + 1) a w.2 (by omega)
      · rfl

theorem get_filter_drop {m : List Host.Cell} {p : Nat → Bool} {a : Nat} (drop : p a = false) :
    Memory.get (m.filter (fun c => p c.1)) a = 0 := by
  refine Memory.get_unlisted fun c hc e => ?_
  have := (List.mem_filter.1 hc).2
  rw [e, drop] at this
  exact Bool.false_ne_true this

theorem nibIn_filter_keep {l : List (NibId × Nib)} {p : NibId → Bool} {n : NibId} (keep : p n = true) :
    nibIn (l.filter (fun x => p x.1)) n = nibIn l n := by
  induction l with
  | nil => rfl
  | cons x l ih =>
    obtain ⟨m, b⟩ := x
    by_cases kept : p m = true
    · rw [List.filter_cons_of_pos (p := fun x : NibId × Nib => p x.1) (a := (m, b)) kept, nibIn, nibIn, ih]
    · have other : n ≠ m := fun e => kept (e ▸ keep)
      rw [List.filter_cons_of_neg (p := fun x : NibId × Nib => p x.1) (a := (m, b)) kept, ih, nibIn, if_neg other]

theorem nibIn_filter_drop {l : List (NibId × Nib)} {p : NibId → Bool} {n : NibId} (drop : p n = false) :
    nibIn (l.filter (fun x => p x.1)) n = Nib.reset := by
  induction l with
  | nil => rfl
  | cons x l ih =>
    obtain ⟨m, b⟩ := x
    by_cases kept : p m = true
    · have other : n ≠ m := fun e => by rw [← e, drop] at kept; exact Bool.false_ne_true kept
      rw [List.filter_cons_of_pos (p := fun x : NibId × Nib => p x.1) (a := (m, b)) kept, nibIn, if_neg other, ih]
    · rw [List.filter_cons_of_neg (p := fun x : NibId × Nib => p x.1) (a := (m, b)) kept, ih]

/-- The address lies in the wells or the HBM of folio f. -/
def inFolio (f : Fin 16) (a : Nat) : Prop :=
  (f.val * 0xC00000000 ≤ a ∧ a < (f.val + 1) * 0xC00000000) ∨
  (0xC000000000 + f.val * 0x80000000 ≤ a ∧ a < 0xC000000000 + (f.val + 1) * 0x80000000)

section
variable {s : State} {f : Fin 16} {floor : Clk}

theorem scrubFolio_mem (s : State) (f : Fin 16) (floor : Clk) : (s.scrubFolio f floor).mem = s.mem.filter (fun c =>
    !(decide (0xC000000000 + f.val * 0x80000000 ≤ c.1) && decide (c.1 < 0xC000000000 + f.val * 0x80000000 + 0x80000000)) &&
    !(decide (f.val * 0xC00000000 ≤ c.1) && decide (c.1 < f.val * 0xC00000000 + 0xC00000000))) := rfl

theorem scrubFolio_get_in {a : Nat} (h : inFolio f a) : Memory.get (s.scrubFolio f floor).mem a = 0 := by
  rw [scrubFolio_mem]
  refine get_filter_drop (p := fun a => !(decide (0xC000000000 + f.val * 0x80000000 ≤ a) && decide (a < 0xC000000000 + f.val * 0x80000000 + 0x80000000)) &&
    !(decide (f.val * 0xC00000000 ≤ a) && decide (a < f.val * 0xC00000000 + 0xC00000000))) ?_
  rw [Bool.and_eq_false_iff, Bool.not_eq_false', Bool.not_eq_false', Bool.and_eq_true, Bool.and_eq_true, decide_eq_true_eq, decide_eq_true_eq,
    decide_eq_true_eq, decide_eq_true_eq]
  rcases h with h | h
  · exact .inr (by omega)
  · exact .inl (by omega)

theorem scrubFolio_get_out (wf : Memory.wf s.mem = true) {a : Nat} (h : ¬ inFolio f a) :
    Memory.get (s.scrubFolio f floor).mem a = Memory.get s.mem a := by
  rw [scrubFolio_mem]
  refine get_filter_keep (p := fun a => !(decide (0xC000000000 + f.val * 0x80000000 ≤ a) && decide (a < 0xC000000000 + f.val * 0x80000000 + 0x80000000)) &&
    !(decide (f.val * 0xC00000000 ≤ a) && decide (a < f.val * 0xC00000000 + 0xC00000000))) ?_ wf
  rw [inFolio, not_or] at h
  rw [Bool.and_eq_true, Bool.not_eq_true', Bool.not_eq_true', Bool.and_eq_false_iff, Bool.and_eq_false_iff, decide_eq_false_iff_not, decide_eq_false_iff_not,
    decide_eq_false_iff_not, decide_eq_false_iff_not]
  omega

theorem scrubFolio_wf (wf : Memory.wf s.mem = true) : Memory.wf (s.scrubFolio f floor).mem = true := by
  rw [scrubFolio_mem]
  exact Memory.wf_filter _ _ wf

theorem scrubFolio_nib_in {n : NibId} (h : State.folioOf n = f) : (s.scrubFolio f floor).nib n = Nib.reset :=
  nibIn_filter_drop (p := fun n => State.folioOf n != f) (by rw [h, bne_self_eq_false])

theorem scrubFolio_nib_out {n : NibId} (h : State.folioOf n ≠ f) : (s.scrubFolio f floor).nib n = s.nib n :=
  nibIn_filter_keep (p := fun n => State.folioOf n != f) (by rw [bne_iff_ne]; exact h)

end

theorem inFolio_wellPA {f : Fin 16} {n : NibId} {off : Nat} (low : off < 0x80000) : inFolio f (wellPA n off) ↔ State.folioOf n = f := by
  have := n.isLt
  have := f.isLt
  rw [inFolio, Fin.ext_iff]
  simp only [wellPA, State.folioOf]
  omega

/-- Addresses of a folio that its kernels' images do not take. -/
theorem outside_kernels {f : Fin 16} {a : Nat} (h : ¬ (0xC000000000 + f.val * 0x80000000 ≤ a ∧ a < 0xC000000000 + (f.val + 1) * 0x80000000)) :
    ∀ n ∈ nibsOf f, a < wellPA n 0 ∨ wellPA n 0 + 0x60000 ≤ a := by
  intro n hn
  have home := congrArg Fin.val (mem_nibsOf.1 hn)
  have := n.isLt
  simp only [wellPA, State.folioOf] at home ⊢
  omega

/-- Folios have been scrubbed and their kernels started; what else a scrub may change is named in `frame`. -/
structure ScrubSteps (s t : State) (fs : List (Fin 16)) : Prop where
  scrubbed : Scrubbed s t fs
  wf : Memory.wf t.mem = true
  folios : ∀ g : Fin 16, g ∉ fs → t.folios[g] = s.folios[g]
  frame : { t with nibs := s.nibs, folios := s.folios, mem := s.mem, full := s.full, stamps := s.stamps, ops := s.ops, nextId := s.nextId
                   parts := s.parts } = s


/-- One folio is scrubbed, and its kernels are started. -/
theorem scrubSteps_one {s u : State} {f : Fin 16} {floor : Clk} {ps : Vector Part 16} (wf : Memory.wf s.mem = true)
    (scrub : u = { s.scrubFolio f floor with parts := ps }) : ScrubSteps s (u.startKernels f) [f] := by
  have umem : u.mem = (s.scrubFolio f floor).mem := by rw [scrub]
  have uflash : u.modu.flash = s.modu.flash := by rw [scrub]; rfl
  have unib : ∀ n, u.nib n = (s.scrubFolio f floor).nib n := fun n => by rw [scrub]; rfl
  have loads := startKernels_loads u f (by rw [umem]; exact scrubFolio_wf wf)
  have folios : (u.startKernels f).folios = s.folios.set f { s.folios[f] with tlb := [], coal := [] } := by
    rw [loads.frame, scrub]
    rfl
  have home : ∀ n : NibId, State.folioOf n ∈ [f] ↔ State.folioOf n = f := fun n => List.mem_singleton
  refine ⟨⟨fun n off mine low => ?_, fun g hg a from_ to_ => ?_, fun a out => ?_, fun n mine => ?_, fun n other => ?_, ?_, fun g hg => ?_⟩, loads.wf,
    fun g other => ?_, ?_⟩
  · have here := (home n).1 mine
    by_cases image : off < 0x60000
    · rw [loads.image n (mem_nibsOf.2 here) off image, uflash]
    · have out : ∀ m ∈ nibsOf f, wellPA n off < wellPA m 0 ∨ wellPA m 0 + 0x60000 ≤ wellPA n off := by
        intro m hm
        by_cases same : n = m
        · subst same
          exact .inr (Nat.add_le_add_left (Nat.le_of_not_lt image) _)
        · exact (wellPA_apart same low).imp_right fun above => Nat.le_trans (Nat.add_le_add_left (by decide) _) above
      rw [loads.outside _ out, umem, scrubFolio_get_in ((inFolio_wellPA low).2 here), kernelByte, if_neg image]
  · rw [List.mem_singleton.1 hg] at from_ to_
    have := f.isLt
    rw [loads.outside a (outside_kernels (by omega)), umem, scrubFolio_get_in (.inl ⟨from_, to_⟩)]
  · obtain ⟨hbm, wells⟩ := out f (List.mem_singleton_self f)
    rw [loads.outside a (outside_kernels (by omega)), umem, scrubFolio_get_out wf (by rw [inFolio]; omega)]
  · have here := (home n).1 mine
    rw [← uflash]
    exact loads.kernels n (mem_nibsOf.2 here) ((unib n).trans (scrubFolio_nib_in here))
  · have there : State.folioOf n ≠ f := fun e => other ((home n).2 e)
    rw [loads.others n (fun h => there (mem_nibsOf.1 h)), unib, scrubFolio_nib_out there]
  · rw [loads.frame, scrub]
    refine List.filter_congr fun o _ => ?_
    rw [List.contains_cons, List.contains_nil, Bool.or_false]
    rfl
  · rw [List.mem_singleton.1 hg, folios, show (s.folios.set f { s.folios[f] with tlb := [], coal := [] })[f] = { s.folios[f] with tlb := [], coal := [] } from
      Vector.getElem_set_self _]
    exact ⟨rfl, rfl⟩
  · rw [folios]
    exact Vector.getElem_set_ne f.isLt g.isLt (fun e => other (List.mem_singleton.2 (Fin.ext e.symm)))
  · rw [loads.frame, scrub]
    rfl

/-- More folios are scrubbed. -/
theorem ScrubSteps.trans {s t u : State} {fs gs : List (Fin 16)} (h : ScrubSteps s t fs) (h' : ScrubSteps t u gs) :
    ScrubSteps s u (fs ++ gs) := by
  have frame : t = { s with nibs := t.nibs, folios := t.folios, mem := t.mem, full := t.full, stamps := t.stamps, ops := t.ops, nextId := t.nextId
                            parts := t.parts } := by rw [← h.frame]
  have flash : t.modu.flash = s.modu.flash := by rw [frame]
  refine ⟨⟨fun n off mine low => ?_, fun g hg a from_ to_ => ?_, fun a out => ?_, fun n mine => ?_, fun n other => ?_, ?_, fun g hg => ?_⟩, h'.wf,
    fun g other => ?_, ?_⟩
  · by_cases later : State.folioOf n ∈ gs
    · rw [h'.scrubbed.wells n off later low, flash]
    · have first := (List.mem_append.1 mine).resolve_right later
      rw [h'.scrubbed.others _ fun g hg => ?_, h.scrubbed.wells n off first low]
      have there : ¬ inFolio g (wellPA n off) := fun e => later ((inFolio_wellPA low).1 e ▸ hg)
      rw [inFolio] at there
      omega
  · by_cases later : g ∈ gs
    · exact h'.scrubbed.hbm g later a from_ to_
    · have first := (List.mem_append.1 hg).resolve_right later
      rw [h'.scrubbed.others _ fun k hk => ?_, h.scrubbed.hbm g first a from_ to_]
      have other : g.val ≠ k.val := fun e => later (Fin.ext e ▸ hk)
      have := g.isLt
      have := k.isLt
      omega
  · rw [h'.scrubbed.others a fun g hg => out g (List.mem_append_right _ hg), h.scrubbed.others a fun g hg => out g (List.mem_append_left _ hg)]
  · by_cases later : State.folioOf n ∈ gs
    · rw [← flash]
      exact h'.scrubbed.kernels n later
    · rw [h'.scrubbed.nibs n later]
      exact h.scrubbed.kernels n ((List.mem_append.1 mine).resolve_right later)
  · rw [List.mem_append, not_or] at other
    rw [h'.scrubbed.nibs n other.2, h.scrubbed.nibs n other.1]
  · rw [h'.scrubbed.ops, h.scrubbed.ops, List.filter_filter]
    refine List.filter_congr fun o _ => ?_
    rw [List.contains_append, Bool.not_or, Bool.and_comm]
  · by_cases later : g ∈ gs
    · exact h'.scrubbed.tlbs g later
    · rw [h'.folios g later]
      exact h.scrubbed.tlbs g ((List.mem_append.1 hg).resolve_right later)
  · rw [List.mem_append, not_or] at other
    rw [h'.folios g other.2, h.folios g other.1]
  · rw [← h.frame, ← h'.frame]

/-- Folios are scrubbed one after the other. -/
theorem scrubSteps_all (floor : Clk) (fs : List (Fin 16)) (s : State) (wf : Memory.wf s.mem = true) :
    ScrubSteps s (fs.foldl (fun s f => (s.scrubFolio f floor).startKernels f) s) fs ∧
    (fs.foldl (fun s f => (s.scrubFolio f floor).startKernels f) s).parts = s.parts := by
  induction fs generalizing s with
  | nil =>
    refine ⟨⟨⟨fun _ _ h => absurd h List.not_mem_nil, fun _ h => absurd h List.not_mem_nil, fun _ _ => rfl, fun _ h => absurd h List.not_mem_nil,
      fun _ _ => rfl, ?_, fun _ h => absurd h List.not_mem_nil⟩, wf, fun _ _ => rfl, rfl⟩, rfl⟩
    exact (List.filter_eq_self.2 fun _ _ => rfl).symm
  | cons f fs ih =>
    have first := scrubSteps_one (u := s.scrubFolio f floor) (f := f) (floor := floor) (ps := s.parts) wf rfl
    obtain ⟨rest, later⟩ := ih ((s.scrubFolio f floor).startKernels f) first.wf
    have loads := startKernels_loads (s.scrubFolio f floor) f (scrubFolio_wf wf)
    have parts : ((s.scrubFolio f floor).startKernels f).parts = (s.scrubFolio f floor).parts := by rw [loads.frame]
    rw [List.foldl_cons]
    refine ⟨first.trans rest, ?_⟩
    rw [later, parts]
    rfl

end Sys2Proof.Machine
end
